-- ==== Sys2Proof/Word.lean ====
section
/-! DEFINITION. The word types of the ZQ1024 engine and the sparse map in which State holds
things that are addressed by a number. -/

namespace Sys2Proof

/-- One byte (R7: memory is byte addressed and little-endian). -/
abbrev Byte := BitVec 8
/-- A register of register space (R7). -/
abbrev Word32 := BitVec 32
/-- A sample, format S48 (R61). -/
abbrev S48 := BitVec 48
/-- A coefficient, format C32 (R61). -/
abbrev C32 := BitVec 32
/-- A MAC accumulator, format A96 (R61). -/
abbrev A96 := BitVec 96
/-- An auxiliary accumulator, format X40 (R61). -/
abbrev X40 := BitVec 40
/-- A pointer, step or circular length of a stall (Table 3.1). -/
abbrev P20 := BitVec 20
/-- A word address in a stall's program page (Table 3.1). -/
abbrev PcAddr := BitVec 13
/-- An instruction word of a stall or of a drover (R92, R235). -/
abbrev ProgWord := BitVec 64

/-- A sparse map from numbers: pairs in strictly rising order of the key, no pair equal to what an
unlisted key reads as. What an unlisted key reads as is an argument of every operation. -/
abbrev SMap (α : Type) := List (Nat × α)

/-- A stall's unit ID, 0–1,023 (R25). -/
abbrev StallId := Fin 1024
/-- A drover, 0–15. -/
abbrev DroverId := Fin 16
/-- A trace, 0–63. -/
abbrev TraceId := Fin 64
/-- A lane, 0–63. -/
abbrev LaneId := Fin 64
/-- A serial audio port, 0–31. -/
abbrev PortId := Fin 32
/-- An amplifier channel, 0–31. -/
abbrev AmpId := Fin 32

end Sys2Proof
end

