-- ==== Sys2Proof/Syntax.lean ====
section
/-! DEFINITION. The commands of the engine: one constructor of `Instr` for each row of spec/opcode_table.json,
with the operands that the spec gives the row, and the operand types they need. -/

namespace Sys2Proof

/-! ### Words of the stall (R92–R107) -/

/-- The fields of the arithmetic part of a format A word, OP apart (Table 4.2). -/
structure ArithF where
  fd : BitVec 6
  fs1 : BitVec 6
  fs2 : BitVec 6
  sf : Bool
  imm5 : BitVec 5
deriving DecidableEq, Repr

/-- The fields of the move of a format A word, the move kind MV apart (Table 4.2). -/
structure MoveArgs where
  mreg : BitVec 8
  mp : BitVec 4
  am : BitVec 2
  mofs : BitVec 14
deriving DecidableEq, Repr

/-- The move of a format A word (Table 4.2). -/
structure MoveF where
  mv : BitVec 4
  args : MoveArgs
deriving DecidableEq, Repr

/-- An instruction word of the stall whose fields a format defines (R92, R94, R102, R107). -/
inductive StallInstr where
  | fmtA (op : BitVec 6) (f : ArithF) (m : MoveF)
  | br (cond : BitVec 4) (target : PcAddr)
  | call (cond : BitVec 4) (target : PcAddr)
  | ret (cond : BitVec 4)
  | repeat_ (rot rsrc : Bool) (len : BitVec 9) (count : BitVec 17)
  | rot
  | wait (flag : BitVec 4)
  | signal (unit : BitVec 11) (flag : BitVec 4)
  | send (unit : BitVec 11) (slot : BitVec 4) (dsrc : BitVec 6)
  | recv (slot : BitVec 4) (ddst : BitVec 6)
  | sync
  | fmtC (op : BitVec 6) (reg : BitVec 8) (imm : S48)
deriving DecidableEq, Repr

/-! ### What a compile writes (R77, R81, R41, R44, R143) -/

/-- A destination of an output write: a slot of a serial port, a channel of the link transmit queues, an amplifier
channel (R77, R306, R334, R403). -/
inductive OutDest where
  | port (p slot : Nat)
  | queue (q : Nat)
  | amp (n : Nat)
deriving DecidableEq, Repr

/-- An entry of a stall's output table (R77): the destination, the sink (0 the normal sink, r + 1 the override sink of route
r, R431), the fill (true ZERO, false HOLD, R42), the stream (R52), and whether the slot is one of a team or mirror trace. -/
structure OutEntry where
  dest : OutDest
  sink : Nat
  zeroFill : Bool
  stream : Option Nat
  team : Bool
deriving DecidableEq, Repr

/-- A SEND or SIGNAL that a page makes in each frame, with the edge whose samples it carries (none: traffic inside a split node, R118), the edge delay of its
tag and the fill of R42. -/
structure PostPlan where
  unit : Nat
  idx : Nat
  edge : Option Nat
  delay : Nat
  zeroFill : Bool
deriving DecidableEq, Repr

/-- The header of a program page with the tables the maltster writes into the page (R81, R77, R151, R41). DESIGN CHOICE: log entry 11. -/
structure PageHeader where
  hasProgram : Bool
  entry : PcAddr
  w : Nat
  fs : Nat
  ovrEnd : PcAddr
  paBase : Nat
  paSize : Nat
  pselInit : Bool
  outs : List (Option OutEntry)
  sends : List PostPlan
  signals : List PostPlan
  exchStream : Option Nat
deriving DecidableEq, Repr

/-- What the maltster writes into a frame channel's descriptor for the ledger (R44, R52): stream, samples per frame, bytes a sample
takes in its moves. `abort`: an abort waits for the next burst boundary (R48). `tags`: the frame tags of the channel's event
flags. `cellar`: the cellar channels it uses. -/
structure ChanDesc where
  stream : Option Nat
  samples : Nat
  sampleBytes : Nat
  signals : List PostPlan
  made : List (Nat × Nat)
  abort : Bool
  tags : SMap (BitVec 5)
  cellar : Nat
deriving DecidableEq, Repr

/-! ### Command packets (R246–R273) -/

/-- Where a packet comes from, which is also what a session is bound to (R252, Table 10.8). -/
inductive Source where
  | spi
  | pcie (q : Nat)
  | eth (mac : Nat)
  | udp (ip port : Nat)
  | trace (endpoint : Nat)
deriving DecidableEq, Repr

/-- The path of a packet beyond its source: Ethernet lane, 802.1Q tag, and the SRC field of a Harness-over-Ethernet header
(R271). -/
structure Via where
  lane : Nat
  vlan : Option Nat
  src : Nat
deriving DecidableEq, Repr

/-- An admitted request (R250): source, header fields, check value, raw time of its admission, payload. -/
structure Req where
  source : Source
  via : Via
  opcode : Nat
  session : Nat
  seq : Nat
  tag : Nat
  auth : Bool
  check : Nat
  t : Nat
  payload : List Byte
deriving DecidableEq, Repr

/-! ### Route graphs and compiles (R114–R145) -/

/-- A node record (Table 5.4). -/
structure GNode where
  id : Nat
  kind : Nat
  engine : Nat
  kernel : Nat
  segment : Nat
  flags : Nat
  nIn : Nat
  nOut : Nat
  bind : Nat
  config0 : Nat
  config1 : Nat
  place : Nat
  paramSet : Nat
deriving DecidableEq, Repr

/-- An edge record (Table 5.5). -/
structure GEdge where
  id : Nat
  srcNode : Nat
  srcPin : Nat
  dstNode : Nat
  dstPin : Nat
  delay : Nat
  flags : Nat
deriving DecidableEq, Repr

/-- A segment record (Table 5.6). -/
structure GSeg where
  id : Nat
  div : Nat
  mul : Nat
  phase : Nat
deriving DecidableEq, Repr

/-- A route graph (R114): nodes, edges and segments in rising order of their IDs. -/
structure Graph where
  nodes : List GNode
  edges : List GEdge
  segs : List GSeg
deriving DecidableEq, Repr

/-- A compile diagnostic (R145); a field that does not apply is none. -/
structure Diag where
  code : Nat
  severity : Nat
  engine : Option Nat
  node : Option Nat
  pin : Option Nat
  edge : Option Nat
  unit : Option Nat
  value : Option Nat
  limit : Option Nat
deriving DecidableEq, Repr

/-- What a WAIT or a RECV waits for (R31, R134): a SEND or SIGNAL of a stall's page (unit, word), which reaches a stall of the same yard 8 slots later; a SEND of
another yard, which arrives at the end slot of its reserved crossbar slot; a frame channel, which posts at its reserved completion time; samples that
a port or a link has put in memory before the release. -/
inductive Producer where
  | word (unit idx : Nat)
  | cross (unit idx slotEnd : Nat)
  | chan (c : Nat)
  | memory
deriving DecidableEq, Repr

/-- A program page that a compile writes for a stall: header, words of the program in rising order of their addresses, the producers that each WAIT and
RECV waits for, and the largest trip count of each REPEAT that takes its count from a register (R131, R133). -/
structure PageOut where
  unit : Nat
  hdr : PageHeader
  words : List (Nat × ProgWord)
  waits : List (Nat × List Producer)
  bounds : List (Nat × Nat)
deriving DecidableEq, Repr

/-- A memory area of a task (R132): crossbar address, length, and whether it starts with zeros (a state area, a delay line, a ring). -/
structure TaskArea where
  base : Nat
  len : Nat
  zero : Bool
deriving DecidableEq, Repr

/-- A task (R120, R123, R127, R130, R188): its node; which part of a split node it is, and of a MIX how many output columns; the pin that it crossfades (none: it
runs the node's kernel); whether it runs the old route of a transition; its stall and the range of its words on the page; the registers that it holds as
state (numbers of Table 4.1); its memory areas, exchange receive slots and output channels; of a USER task the values of P12 to P15 at kernel entry; the phase
of its segment. -/
structure TaskOut where
  node : Nat
  part : Nat
  cols : Nat
  xfade : Option Nat
  old : Bool
  unit : Nat
  lo : Nat
  hi : Nat
  regs : List Nat
  areas : List TaskArea
  slots : List Nat
  chans : List Nat
  entry : List Nat
  phase : Nat
deriving DecidableEq, Repr

/-- Where the words of a parameter lie in the parameter windows of a stall: byte offsets from PA_BASE, the divisor, phase and multiplier of
the node's segment, and its rate in mHz (R149, R151, R155, R159). -/
structure ParamSlot where
  node : Nat
  index : Nat
  unit : Nat
  offsets : List Nat
  div : Nat
  phase : Nat
  mul : Nat
  rate : Nat
deriving DecidableEq, Repr

/-- A register write of a brew: address, value, mask (Table 11.9). -/
structure RegItem where
  addr : Nat
  value : Word32
  mask : Word32
deriving DecidableEq, Repr

/-- A stream entry of a compile result (R143, Table 11.5). -/
structure StreamEntry where
  index : Nat
  kind : Nat
  node : Nat
  firstPin : Nat
  lastPin : Nat
deriving DecidableEq, Repr

/-- A route record (R144, Table 11.5). -/
structure RouteRec where
  srcNode : Nat
  srcPin : Nat
  dstNode : Nat
  dstPin : Nat
  frames : Nat
  gdNs : Nat
deriving DecidableEq, Repr

/-- A stall count (Table 11.5). -/
structure StallCount where
  unit : Nat
  w : Nat
  wTransition : Nat
deriving DecidableEq, Repr

/-- The figures of a result record that a compile's plan gives (Table 5.10). -/
structure ResultFigures where
  moved : Nat
  localBytes : Nat
  scratchBytes : Nat
  cellarBytes : Nat
  xfadeExcess : Nat
deriving DecidableEq, Repr

/-- One program set of a compile (R137): its new pages; the tasks of the whole program, on new and on kept pages; the latest slot of each SEND and SIGNAL
of the whole program (unit, word, slot); and where its parameters lie. -/
structure ProgramSet where
  pages : List PageOut
  tasks : List TaskOut
  posts : List (Nat × Nat × Nat)
  slots : List ParamSlot
deriving DecidableEq, Repr

/-- A subgraph that a member or a standby receives (R138, R141); to a standby the partner's program goes with it. -/
structure SubgraphMsg where
  graph : Graph
  partner : Option ProgramSet
deriving DecidableEq, Repr

/-- A designated word of a shadow pair (R371): bytes of a stall's memory, the position of a ramp or crossfade, or a ballistic value of a meter (R169), each
with the stall at whose SYNC it is captured. -/
inductive SweepItem where
  | word (unit addr bytes : Nat)
  | ramp (unit node index : Nat)
  | fade (unit node : Nat)
  | held (unit node chan : Nat)
  | rms (unit node chan : Nat)
deriving DecidableEq, Repr

/-- The output of a compile (R131, R132, R137, R143): the program that the tap makes live, with a route crossfade the transition program; the final program of a
route crossfade; new memory contents, token moves (bank, owner, guest), register items, frame-channel descriptors, drover instructions, the accesses that
the owner of each guest bank makes in a frame (R203), streams of ports and PDM inputs (p, or 32 + i), of amplifier channels and of RX entries, designated words and
sweep entries per frame (R370, R371), cellar regions in use (base, length), and the streams of the result. DESIGN CHOICE: log entry 11. -/
structure CompileOut where
  main : ProgramSet
  final : Option ProgramSet
  memory : List (Nat × List Byte)
  tokens : List (Nat × Nat × Bool)
  regs : List RegItem
  chans : List (Nat × ChanDesc)
  drvWords : List (Nat × ProgWord)
  bankUse : List (Nat × Nat)
  portStreams : List (Nat × Nat)
  ampStreams : List (Nat × Nat)
  rxStreams : List (Nat × Nat)
  sweep : List SweepItem
  stateCap : Nat
  cellar : List (Nat × Nat)
  streams : List StreamEntry
deriving DecidableEq, Repr

/-- The results of a compile of one engine (R142–R145). -/
structure CompileResult where
  status : Nat
  engine : Nat
  diags : List Diag
  lost : Nat
  budget : Nat
  maxW : Nat
  maxUnit : Nat
  minW : Nat
  sumW : Nat
  pages : Nat
  figures : ResultFigures
  streams : List StreamEntry
  routes : List RouteRec
  counts : List StallCount
deriving DecidableEq, Repr

/-- What one step of the groom does for a job or a brew (R127, R153, R177, R179, R182, R187, R259). -/
inductive GroomWork where
  /-- A compile step: the progress of its phase, whether the phase ends in it, and what the phase found or wrote. -/
  | compile (h : Nat) (progress : Nat) (ends : Bool) (diags : List Diag) (out : Option CompileOut)
  /-- A bake step that applies records of the brew's log. -/
  | bake (brew : Nat) (records : Nat)
  /-- The direct brew takes its waiting writes and starts its bake. -/
  | direct
  /-- The last step of the resynchronisation and freeing of a CLOSING or SPILLING brew. -/
  | resync (brew : Nat)
  /-- The last final page of a route crossfade is written. -/
  | finals (brew : Nat)
  /-- The step that completes a KERNEL_LOAD, BREW_LOAD, BREW_STORE or CELLAR_COPY job. -/
  | finish (h : Nat)
  /-- A step of any job that does not complete it: its progress. -/
  | progress (h : Nat) (n : Nat)
  /-- The step that completes a FLASH_WRITE job; the flag says that the flash completed the operation. -/
  | flash (h : Nat) (ok : Bool)
  /-- The step at which a cancelled job ends. -/
  | cancelled (h : Nat)
deriving DecidableEq, Repr

/-! ### Meters (R168–R170) -/

/-- What reaches a kernel of one metered channel over a meter period: its samples, the gains that dynamics applied to them, and whether a saturation occurred in the
node or a FILL sample reached the meter. -/
structure MeterChan where
  samples : List S48
  gains : List Word32
  clip : Bool
  fill : Bool
deriving DecidableEq, Repr

/-! ### Crossbar bursts (R219–R223) -/

/-- A burst that a master offers at an arbitration point: address, length, the bytes of a write; whether it belongs to a reserved slot of the link engines,
of a trace (Table 9.1). DESIGN CHOICE: log entry 22. -/
structure BurstOffer where
  master : Fin 24
  addr : Nat
  len : Nat
  data : Option (List Byte)
  reserved : Bool
deriving DecidableEq, Repr

/-- The bursts that the masters offer at an arbitration point at raw time `t` in ns. -/
structure GrantOffers where
  bursts : List BurstOffer
  t : Nat
deriving DecidableEq, Repr

/-- A 4-byte read of a master. -/
structure MasterRead where
  master : Fin 24
  addr : Nat
deriving DecidableEq, Repr

/-! ### What a frame boundary brings (R19) -/

/-- What reaches the engine with a frame tick: raw time of the tick in ns, the words of the ended ball frame at the balls of the serial
ports (port, slot, the slot's bits as a number, first bit most significant) and of the PDM microphones, and the VCORE voltage
measured at the balls in mV, and whether the backup supply is low (R27, R305, R312, R467, R468). -/
structure BoundaryIn where
  t : Nat
  words : List (Nat × Nat × Nat)
  mics : List (Nat × BitVec 48)
  vcore : Nat
  vbakLow : Bool
deriving DecidableEq, Repr

/-! ### Option loading (R461) -/

/-- What OTP gives at option loading (R461, Tables 11.24 and 13.12): option word 0, the die number, the base MAC address, AVS_IF_CTRL, and the codes TX_SWING and
TX_EMPH of the lanes. -/
structure Otp where
  options : BitVec 16
  uid : BitVec 128
  mac : BitVec 48
  avs : Word32
  swing : BitVec 4
  emph : BitVec 4
deriving DecidableEq, Repr

/-- The commands: one constructor for each row of spec/opcode_table.json, in its order. DESIGN CHOICE: log entry 5. -/
inductive Instr where
  /-- FRAME_BOUNDARY (R19). -/
  | frameBoundary (x : BoundaryIn)
  /-- HANG_ABORT (R48). -/
  | hangAbort (u : Fin 1152)
  /-- FG_FATAL_RESET (R45). -/
  | fgFatalReset
  /-- AVS_WINDOW_END (R36). -/
  | avsWindowEnd
  /-- TAP_FLOOR_END (R38). -/
  | tapFloorEnd
  /-- AVS_PMBUS_WRITE (R466). -/
  | avsPmbusWrite (ok : Bool)
  /-- NOP (R95). -/
  | nop (st : StallId) (f : ArithF) (m : MoveF)
  /-- MPY (R63). -/
  | mpy (st : StallId) (f : ArithF) (m : MoveF)
  /-- MAC (R63). -/
  | mac (st : StallId) (f : ArithF) (m : MoveF)
  /-- MSU (R63). -/
  | msu (st : StallId) (f : ArithF) (m : MoveF)
  /-- CLR (R95). -/
  | clr (st : StallId) (f : ArithF) (m : MoveF)
  /-- ADDDA (R95). -/
  | addda (st : StallId) (f : ArithF) (m : MoveF)
  /-- RND (R64). -/
  | rnd (st : StallId) (f : ArithF) (m : MoveF)
  /-- SAT (R64). -/
  | sat (st : StallId) (f : ArithF) (m : MoveF)
  /-- MPYX (R66). -/
  | mpyx (st : StallId) (f : ArithF) (m : MoveF)
  /-- MACX (R66). -/
  | macx (st : StallId) (f : ArithF) (m : MoveF)
  /-- MSUX (R66). -/
  | msux (st : StallId) (f : ArithF) (m : MoveF)
  /-- MACW (R95). -/
  | macw (st : StallId) (f : ArithF) (m : MoveF)
  /-- ADD (R65). -/
  | add (st : StallId) (f : ArithF) (m : MoveF)
  /-- SUB (R65). -/
  | sub (st : StallId) (f : ArithF) (m : MoveF)
  /-- NEG (R65). -/
  | neg (st : StallId) (f : ArithF) (m : MoveF)
  /-- ABS (R65). -/
  | abs (st : StallId) (f : ArithF) (m : MoveF)
  /-- CMP (R95). -/
  | cmp (st : StallId) (f : ArithF) (m : MoveF)
  /-- AND (R95). -/
  | and (st : StallId) (f : ArithF) (m : MoveF)
  /-- OR (R95). -/
  | or (st : StallId) (f : ArithF) (m : MoveF)
  /-- XOR (R95). -/
  | xor (st : StallId) (f : ArithF) (m : MoveF)
  /-- SHL (R65). -/
  | shl (st : StallId) (f : ArithF) (m : MoveF)
  /-- SHR (R65). -/
  | shr (st : StallId) (f : ArithF) (m : MoveF)
  /-- SHRL (R95). -/
  | shrl (st : StallId) (f : ArithF) (m : MoveF)
  /-- SHV (R95). -/
  | shv (st : StallId) (f : ArithF) (m : MoveF)
  /-- RAMP (R110). -/
  | ramp (st : StallId) (f : ArithF) (m : MoveF)
  /-- LUT (R111). -/
  | lut (st : StallId) (f : ArithF) (m : MoveF)
  /-- MAXI (R112). -/
  | maxi (st : StallId) (f : ArithF) (m : MoveF)
  /-- MINI (R112). -/
  | mini (st : StallId) (f : ArithF) (m : MoveF)
  /-- MAXAI (R112). -/
  | maxai (st : StallId) (f : ArithF) (m : MoveF)
  /-- LD_S (R98). -/
  | ldS (st : StallId) (op : BitVec 6) (f : ArithF) (g : MoveArgs)
  /-- ST_S (R98). -/
  | stS (st : StallId) (op : BitVec 6) (f : ArithF) (g : MoveArgs)
  /-- LD_K (R98). -/
  | ldK (st : StallId) (op : BitVec 6) (f : ArithF) (g : MoveArgs)
  /-- ST_K (R76). -/
  | stK (st : StallId) (op : BitVec 6) (f : ArithF) (g : MoveArgs)
  /-- LD_H (R98). -/
  | ldH (st : StallId) (op : BitVec 6) (f : ArithF) (g : MoveArgs)
  /-- ST_H (R98). -/
  | stH (st : StallId) (op : BitVec 6) (f : ArithF) (g : MoveArgs)
  /-- LD_C (R98). -/
  | ldC (st : StallId) (op : BitVec 6) (f : ArithF) (g : MoveArgs)
  /-- ST_C (R98). -/
  | stC (st : StallId) (op : BitVec 6) (f : ArithF) (g : MoveArgs)
  /-- LD_A (R98). -/
  | ldA (st : StallId) (op : BitVec 6) (f : ArithF) (g : MoveArgs)
  /-- ST_A (R98). -/
  | stA (st : StallId) (op : BitVec 6) (f : ArithF) (g : MoveArgs)
  /-- LD_X (R98). -/
  | ldX (st : StallId) (op : BitVec 6) (f : ArithF) (g : MoveArgs)
  /-- ST_X (R98). -/
  | stX (st : StallId) (op : BitVec 6) (f : ArithF) (g : MoveArgs)
  /-- LD_SP (R99). -/
  | ldSp (st : StallId) (op : BitVec 6) (f : ArithF) (g : MoveArgs)
  /-- LD_CP (R99). -/
  | ldCp (st : StallId) (op : BitVec 6) (f : ArithF) (g : MoveArgs)
  /-- MOV (R101). -/
  | mov (st : StallId) (op : BitVec 6) (f : ArithF) (g : MoveArgs)
  /-- BR (R70). -/
  | br (st : StallId) (cond : BitVec 4) (target : PcAddr)
  /-- CALL (R72). -/
  | call (st : StallId) (cond : BitVec 4) (target : PcAddr)
  /-- RET (R72). -/
  | ret (st : StallId) (cond : BitVec 4)
  /-- REPEAT (R71). -/
  | repeat_ (st : StallId) (rot : Bool) (rsrc : Bool) (len : BitVec 9) (count : BitVec 17)
  /-- REPEAT_ITERATION_END (R71). -/
  | repeatIterationEnd (st : StallId)
  /-- ROT (R74). -/
  | rot (st : StallId)
  /-- WAIT (R85). -/
  | wait (st : StallId) (flag : BitVec 4)
  /-- WAIT_COMPLETE (R85). -/
  | waitComplete (st : StallId)
  /-- SIGNAL (R85). -/
  | signal (st : StallId) (unit : BitVec 11) (flag : BitVec 4)
  /-- FLAG_POST_ARRIVAL (R86). -/
  | flagPostArrival (unit : BitVec 11) (flag : BitVec 4)
  /-- SEND (R82). -/
  | send (st : StallId) (unit : BitVec 11) (slot : BitVec 4) (dsrc : BitVec 6)
  /-- SEND_COMPLETE (R82). -/
  | sendComplete (st : StallId)
  /-- EXCHANGE_ARRIVAL (R83). -/
  | exchangeArrival (st : StallId) (slot : BitVec 4)
  /-- RECV (R82). -/
  | recv (st : StallId) (slot : BitVec 4) (ddst : BitVec 6)
  /-- RECV_COMPLETE (R82). -/
  | recvComplete (st : StallId)
  /-- SYNC (R26). -/
  | sync (st : StallId) (t : Nat)
  /-- LDI (R107). -/
  | ldi (st : StallId) (reg : BitVec 8) (imm : S48)
  /-- ADDI (R107). -/
  | addi (st : StallId) (reg : BitVec 8) (imm : S48)
  /-- ANDI (R107). -/
  | andi (st : StallId) (reg : BitVec 8) (imm : S48)
  /-- ORI (R107). -/
  | ori (st : StallId) (reg : BitVec 8) (imm : S48)
  /-- XORI (R107). -/
  | xori (st : StallId) (reg : BitVec 8) (imm : S48)
  /-- CMPI (R107). -/
  | cmpi (st : StallId) (reg : BitVec 8) (imm : S48)
  /-- ILLEGAL_WORD (R73). -/
  | illegalWord (st : StallId) (w : ProgWord)
  /-- OUTPUT_WRITE_LANDING (R77). -/
  | outputWriteLanding (st : StallId) (chan : BitVec 13)
  /-- STALL_ABORT (R48). -/
  | stallAbort (st : StallId) (t : Nat)
  /-- CONTROL_EVENT_TAKEN (R87). -/
  | controlEventTaken (st : StallId)
  /-- HELD_PAGE_WRITE (R59). -/
  | heldPageWrite (st : StallId)
  /-- HALT_REQ (R90). -/
  | haltReq
  /-- STEP (R90). -/
  | step
  /-- RESUME (R90). -/
  | resume
  /-- DBG_REG_DATA_ACCESS (R90). -/
  | dbgRegDataAccess (wr : Option Word32)
  /-- METER_PERIOD_END (R168). -/
  | meterPeriodEnd (node : Nat) (f : Nat) (cs : List MeterChan)
  /-- INPUT_SILENCE (R164). -/
  | inputSilence (node : Nat) (chan : Nat) (samples : List S48)
  /-- MOVE (R236). -/
  | move (d : DroverId) (w0 : ProgWord) (w1 : ProgWord) (w2 : ProgWord) (w3 : ProgWord) (t : Nat)
  /-- LOOP (R238). -/
  | loop (d : DroverId) (w0 : ProgWord) (t : Nat)
  /-- DROVER_WAIT (R239). -/
  | droverWait (d : DroverId) (w0 : ProgWord) (t : Nat)
  /-- DROVER_SIGNAL (R239). -/
  | droverSignal (d : DroverId) (w0 : ProgWord) (t : Nat)
  /-- DROVER_END (R239). -/
  | droverEnd (d : DroverId) (t : Nat)
  /-- DROVER_PROGRAM_END_FAULT (R242). -/
  | droverProgramEndFault (d : DroverId) (w0 : ProgWord) (w1 : ProgWord) (w2 : ProgWord) (w3 : ProgWord) (t : Nat)
  /-- DROVER_PROGRAM_START (R231). -/
  | droverProgramStart (d : DroverId) (remain : Nat)
  /-- PACED_BURST_START (R240). -/
  | pacedBurstStart (d : DroverId) (w0 : ProgWord) (w1 : ProgWord) (w2 : ProgWord) (w3 : ProgWord) (t : Nat)
  /-- DROVER_ABORT_TAKEN (R48). -/
  | droverAbortTaken (d : DroverId) (c : Fin 8) (t : Nat)
  /-- CH_START (R230). -/
  | chStart (d : DroverId) (c : Fin 8) (master : Fin 24)
  /-- CROSSBAR_GRANT (R223). -/
  | crossbarGrant (point : Fin 144) (offers : GrantOffers)
  /-- BURST_RESPONSE (R243). -/
  | burstResponse (master : Fin 24) (target : Fin 16) (t : Nat)
  /-- XB_TIMEOUT (R226). -/
  | xbTimeout (master : Fin 24) (target : Fin 16)
  /-- BANK_OWN_WRITE (R204). -/
  | bankOwnWrite (bank : Fin 2048) (value : Word32)
  /-- SCRUB_PASS_END (R214). -/
  | scrubPassEnd
  /-- RETRAIN_REQ (R215). -/
  | retrainReq
  /-- SCHEDULED_RETRAIN (R215). -/
  | scheduledRetrain (c : Fin 8) (remain : Nat)
  /-- EMERGENCY_RETRAIN (R215). -/
  | emergencyRetrain (c : Fin 8)
  /-- RETRAIN_DONE (R215). -/
  | retrainDone (c : Fin 8)
  /-- PACKET_ADMISSION (R250). -/
  | packetAdmission (src : Source) (t : Nat)
  /-- ECHO (R275). -/
  | echo (r : Req)
  /-- SESSION_OPEN (R252). -/
  | sessionOpen (r : Req) (num : Nat) (nonce : Nat)
  /-- SESSION_CLOSE (R277). -/
  | sessionClose (r : Req) (t : Nat)
  /-- IDENTIFY (R275). -/
  | identify (r : Req)
  /-- KEY_LOAD (R253). -/
  | keyLoad (r : Req)
  /-- KEY_CLEAR (R277). -/
  | keyClear (r : Req)
  /-- JOB_STATUS (R278). -/
  | jobStatus (r : Req)
  /-- JOB_CANCEL (R278). -/
  | jobCancel (r : Req)
  /-- EVENT_READ (R291). -/
  | eventRead (r : Req)
  /-- EVENT_CFG (R292). -/
  | eventCfg (r : Req)
  /-- REG_READ (R279). -/
  | regRead (r : Req) (t : Nat)
  /-- REG_WRITE (R279). -/
  | regWrite (r : Req) (t : Nat)
  /-- GRAPH_NODE (R280). -/
  | graphNode (r : Req)
  /-- GRAPH_EDGE (R280). -/
  | graphEdge (r : Req)
  /-- GRAPH_SEGMENT (R280). -/
  | graphSegment (r : Req)
  /-- GRAPH_DELETE (R280). -/
  | graphDelete (r : Req)
  /-- GRAPH_CLEAR (R280). -/
  | graphClear (r : Req)
  /-- KERNEL_LOAD (R280). -/
  | kernelLoad (r : Req) (h : Nat)
  /-- KERNEL_DELETE (R280). -/
  | kernelDelete (r : Req)
  /-- COMPILE (R128). -/
  | compile (r : Req) (h : Nat)
  /-- GRAPH_RESULT (R281). -/
  | graphResult (r : Req)
  /-- PARAM_WRITE (R282). -/
  | paramWrite (r : Req) (baked : Bool)
  /-- PARAM_READ (R282). -/
  | paramRead (r : Req)
  /-- METER_READ (R282). -/
  | meterRead (r : Req)
  /-- BREW_OPEN (R175). -/
  | brewOpen (r : Req) (pick : Nat)
  /-- BREW_WRITE (R284). -/
  | brewWrite (r : Req)
  /-- BREW_LOAD (R285). -/
  | brewLoad (r : Req) (h : Nat)
  /-- BREW_STORE (R285). -/
  | brewStore (r : Req) (h : Nat)
  /-- BREW_TAP (R176). -/
  | brewTap (r : Req) (h : Nat)
  /-- BREW_SPILL (R178). -/
  | brewSpill (r : Req)
  /-- BREW_RESOLVE (R194). -/
  | brewResolve (r : Req)
  /-- BREW_STATUS (R275). -/
  | brewStatus (r : Req)
  /-- TAP_REPORT (R196). -/
  | tapReport (r : Req)
  /-- SLACK_READ (R286). -/
  | slackRead (r : Req)
  /-- FG_REPORT (R286). -/
  | fgReport (r : Req)
  /-- LEDGER_READ (R286). -/
  | ledgerRead (r : Req)
  /-- CELLAR_RESERVE (R287). -/
  | cellarReserve (r : Req)
  /-- CELLAR_RELEASE (R287). -/
  | cellarRelease (r : Req)
  /-- CELLAR_READ (R287). -/
  | cellarRead (r : Req)
  /-- CELLAR_WRITE (R287). -/
  | cellarWrite (r : Req)
  /-- CELLAR_COPY (R287). -/
  | cellarCopy (r : Req) (h : Nat)
  /-- PORT_START (R314). -/
  | portStart (r : Req)
  /-- PORT_STOP (R314). -/
  | portStop (r : Req)
  /-- PORT_STATUS (R322). -/
  | portStatus (r : Req)
  /-- TRACE_UP (R329). -/
  | traceUp (r : Req) (h : Nat)
  /-- TRACE_DOWN (R352). -/
  | traceDown (r : Req)
  /-- PRBS_RUN (R351). -/
  | prbsRun (r : Req)
  /-- PRBS_READ (R351). -/
  | prbsRead (r : Req) (bits : Nat) (errors : Nat)
  /-- LINK_STATUS (R352). -/
  | linkStatus (r : Req)
  /-- FS_SET (R136). -/
  | fsSet (r : Req)
  /-- REF_SELECT (R381). -/
  | refSelect (r : Req)
  /-- TIME_READ (R392). -/
  | timeRead (r : Req) (raw : Nat)
  /-- TIME_ADJUST (R393). -/
  | timeAdjust (r : Req) (raw : Nat)
  /-- PULSE_SCHEDULE (R400). -/
  | pulseSchedule (r : Req) (raw : Nat)
  /-- CLKOUT_ALIGN (R389). -/
  | clkoutAlign (r : Req)
  /-- AMP_DIAG (R422). -/
  | ampDiag (r : Req) (h : Nat)
  /-- AMP_DIAG_READ (R425). -/
  | ampDiagRead (r : Req)
  /-- AMP_LIMIT_SET (R421). -/
  | ampLimitSet (r : Req)
  /-- AMP_FAULT_CLEAR (R418). -/
  | ampFaultClear (r : Req) (low : BitVec 32)
  /-- AMP_STATUS (R426). -/
  | ampStatus (r : Req) (dc : Word32)
  /-- TEAM_FORM (R358). -/
  | teamForm (r : Req) (h : Nat)
  /-- TEAM_LEAVE (R358). -/
  | teamLeave (r : Req)
  /-- SHADOW_PAIR (R369). -/
  | shadowPair (r : Req)
  /-- SWITCHOVER (R375). -/
  | switchover (r : Req)
  /-- TEAM_STATUS (R362). -/
  | teamStatus (r : Req)
  /-- OVERRIDE_SET (R429). -/
  | overrideSet (r : Req)
  /-- OVERRIDE_STATUS (R440). -/
  | overrideStatus (r : Req)
  /-- MODE_SET (R443). -/
  | modeSet (r : Req)
  /-- RESET (R289). -/
  | reset (r : Req)
  /-- RESET_CAUSE (R455). -/
  | resetCause (r : Req)
  /-- VAULT_READ (R288). -/
  | vaultRead (r : Req)
  /-- VAULT_WRITE (R452). -/
  | vaultWrite (r : Req)
  /-- FLASH_WRITE (R288). -/
  | flashWrite (r : Req) (h : Nat)
  /-- FLASH_READ (R288). -/
  | flashRead (r : Req) (ok : Bool)
  /-- FW_ACTIVATE (R288). -/
  | fwActivate (r : Req) (ok : Bool)
  /-- JOB_STEP (R260). -/
  | jobStep (w : GroomWork)
  /-- AUDIT_STEP (R53). -/
  | auditStep (last : Bool)
  /-- EVENT_LOG_WRITE (R291). -/
  | eventLogWrite (t : Nat)
  /-- SESSION_IDLE_TIMEOUT (R252). -/
  | sessionIdleTimeout (session : Nat) (t : Nat)
  /-- JOB_RECORD_EXPIRY (R259). -/
  | jobRecordExpiry (h : Nat)
  /-- CMD_RESEND (R263). -/
  | cmdResend (ep : Nat) (n : Nat)
  /-- SPI_WRITE_PACKET (R267). -/
  | spiWritePacket (bytes : List Byte)
  /-- SPI_READ_PACKET (R268). -/
  | spiReadPacket (n : Nat)
  /-- SPI_READ_STATUS (R268). -/
  | spiReadStatus
  /-- SPI_REG_READ (R267). -/
  | spiRegRead (a : Word32) (n : Nat) (t : Nat)
  /-- SPI_REG_WRITE (R267). -/
  | spiRegWrite (a : Word32) (words : List Word32) (t : Nat)
  /-- RQ_TAIL_DOORBELL (R270). -/
  | rqTailDoorbell (q : Fin 8) (value : Word32)
  /-- PCIE_REQUEST_FETCH (R270). -/
  | pcieRequestFetch (q : Fin 8) (len : Nat) (reserved : Word32) (bytes : List Byte)
  /-- QP_CTRL_WRITE (R270). -/
  | qpCtrlWrite (q : Fin 8) (value : Word32)
  /-- PCIE_FLR (R269). -/
  | pcieFlr (t : Nat)
  /-- ETH_FRAME_RX (R350). -/
  | ethFrameRx (lane : Fin 16) (frame : List Byte) (fcsOk : Bool) (t : Nat)
  /-- HOE_FRAME_RX (R271). -/
  | hoeFrameRx (lane : Fin 16) (mac : Nat) (unicast : Bool) (vlan : Option Nat) (payload : List Byte)
  /-- UDP_DATAGRAM_RX (R272). -/
  | udpDatagramRx (lane : Fin 16) (dgram : List Byte)
  /-- ARP_REQUEST_RX (R272). -/
  | arpRequestRx (lane : Fin 16) (ip : Word32) (mac : Nat) (target : Word32)
  /-- ARP_CACHE_EXPIRY (R272). -/
  | arpCacheExpiry (ip : Word32)
  /-- ETH_LINK_UP (R272). -/
  | ethLinkUp (lane : Fin 16)
  /-- LANE_LOSS (R327). -/
  | laneLoss (lane : Fin 64) (t : Nat)
  /-- LANE_LOCK (R327). -/
  | laneLock (lane : Fin 64) (inverted : Bool) (k : Fin 10)
  /-- LANE_RETURN (R349). -/
  | laneReturn (lane : Fin 64) (t : Nat)
  /-- FRAME_MARKER_RX (R328). -/
  | frameMarkerRx (trace : Fin 64) (idx : List (Nat × Option Nat)) (t : Nat)
  /-- SYNC_TIMEOUT (R331). -/
  | syncTimeout (trace : Fin 64)
  /-- TRACE_UP_TIMEOUT (R329). -/
  | traceUpTimeout (trace : Fin 64)
  /-- TRACE_REINIT (R331). -/
  | traceReinit (trace : Fin 64) (cause : Nat)
  /-- REGION_TX (R334). -/
  | regionTx (trace : Fin 64)
  /-- REGION_RX (R335). -/
  | regionRx (trace : Fin 64) (normal : List Byte) (copyA : List Byte) (copyB : List Byte) (t : Nat)
  /-- ELASTIC_SLIP (R337). -/
  | elasticSlip (trace : Fin 64) (inRegion : Bool)
  /-- PACKET_TX (R338). -/
  | packetTx (trace : Fin 64) (poison : Bool) (t : Nat)
  /-- DATA_PACKET_RX (R340). -/
  | dataPacketRx (trace : Fin 64) (bytes : List Byte) (poison : Bool) (t : Nat)
  /-- TRAIN (R330). -/
  | train (trace : Fin 64) (copies : List (Nat × List Byte)) (skew : Nat) (delay : Option Nat)
  /-- ACK (R340). -/
  | ack (trace : Fin 64) (lcp : List Byte)
  /-- NAK (R340). -/
  | nak (trace : Fin 64) (lcp : List Byte)
  /-- CREDIT (R339). -/
  | credit (trace : Fin 64) (lcp : List Byte)
  /-- RESTRIPE (R348). -/
  | restripe (trace : Fin 64) (copies : List (List Byte)) (t : Nat)
  /-- REPLAY_TIMER (R340). -/
  | replayTimer (trace : Fin 64) (t : Nat)
  /-- ACK_TIMER (R340). -/
  | ackTimer (trace : Fin 64)
  /-- PRBS_LOCK (R351). -/
  | prbsLock (lane : Fin 64)
  /-- ANNOUNCE (R357). -/
  | announce
  /-- ANNOUNCE_PERIOD (R357). -/
  | announcePeriod
  /-- MEMBER_LOSS (R357). -/
  | memberLoss (ep : Nat)
  /-- TEAM (R358). -/
  | team
  /-- TEAM_ACK (R358). -/
  | teamAck
  /-- PAIR_REQUEST (R369). -/
  | pairRequest (same : Bool)
  /-- PAIR_ACCEPT (R369). -/
  | pairAccept
  /-- PAIR_REFUSE (R369). -/
  | pairRefuse
  /-- PAIR_SWITCH (R375). -/
  | pairSwitch
  /-- PAIR_SWITCH_DONE (R375). -/
  | pairSwitchDone
  /-- STREAM_LIST (R363). -/
  | streamList
  /-- ACQUIRE_DATA (R370). -/
  | acquireData
  /-- ACQUIRE_REGISTERS (R370). -/
  | acquireRegisters
  /-- CUT_END (R370). -/
  | cutEnd (t : Nat)
  /-- CUT_WAIT_EXPIRY (R370). -/
  | cutWaitExpiry (t : Nat)
  /-- PAIR_SENSE_LOW (R374). -/
  | pairSenseLow (t : Nat)
  /-- TAKEOVER (R374). -/
  | takeover
  /-- COMMANDED_SWITCHOVER (R375). -/
  | commandedSwitchover
  /-- PAIR_SENSE_HIGH (R376). -/
  | pairSenseHigh
  /-- STANDBY_RECORD_LOSS (R374). -/
  | standbyRecordLoss
  /-- EXTERNAL_FRAME_START (R307). -/
  | externalFrameStart (p : PortId) (phase : Int) (words : List Nat)
  /-- PORT_CLOCK_LOSS (R318). -/
  | portClockLoss (p : PortId)
  /-- PORT_CFG_WRITE (R314). -/
  | portCfgWrite (p : PortId) (value : Word32)
  /-- REF_INVALID (R380). -/
  | refInvalid (cand : Fin 10)
  /-- REF_QUALIFIED (R380). -/
  | refQualified (cand : Fin 10)
  /-- DPLL_LOCK (R384). -/
  | dpllLock (freq : BitVec 32) (phase : BitVec 32) (raw : Nat)
  /-- HOLDOVER_HISTORY_SAMPLE (R386). -/
  | holdoverHistorySample (freq : BitVec 32)
  /-- PTP_SYNC (R396). -/
  | ptpSync
  /-- FOLLOW_UP (R396). -/
  | followUp
  /-- DELAY_REQ (R396). -/
  | delayReq
  /-- DELAY_RESP (R394). -/
  | delayResp
  /-- PDELAY_REQ (R396). -/
  | pdelayReq
  /-- PDELAY_RESP (R396). -/
  | pdelayResp
  /-- PDELAY_RESP_FOLLOW_UP (R396). -/
  | pdelayRespFollowUp
  /-- PTP_ANNOUNCE (R394). -/
  | ptpAnnounce
  /-- ANNOUNCE_RECEIPT_TIMEOUT (R380). -/
  | announceReceiptTimeout (dom : Fin 2) (port : Fin 80)
  /-- SYNC_INTERVAL (R394). -/
  | syncInterval (dom : Fin 2) (port : Fin 80) (t : Nat)
  /-- ANNOUNCE_INTERVAL (R394). -/
  | announceInterval (dom : Fin 2) (port : Fin 80)
  /-- DELAY_REQ_INTERVAL (R394). -/
  | delayReqInterval (dom : Fin 2) (port : Fin 80) (t : Nat)
  /-- FRAME_MAP (R397). -/
  | frameMap (raw : Nat)
  /-- SCHEDULED_PULSE (R400). -/
  | scheduledPulse (output : Fin 16) (raw : Nat)
  /-- TIME_SNAP (R392). -/
  | timeSnap (snap : Bool) (raw : Nat)
  /-- BK_SEC_HI_WRITE (R447). -/
  | bkSecHiWrite (value : Word32) (t : Nat)
  /-- AMP_SILENCE (R165). -/
  | ampSilence (chan : AmpId)
  /-- GROUP_POWER_DOWN (R165). -/
  | groupPowerDown (group : Fin 8)
  /-- AMP_WAKE (R166). -/
  | ampWake (chan : AmpId)
  /-- WAKE_SETTLE_END (R166). -/
  | wakeSettleEnd (group : Fin 8)
  /-- AMP_RELEASE (R411). -/
  | ampRelease
  /-- CARRIER_LOCK (R407). -/
  | carrierLock (chan : AmpId) (meas : Nat)
  /-- CLEAN_STOP (R412). -/
  | cleanStop
  /-- MUTE_RAMP_END (R412). -/
  | muteRampEnd (chan : AmpId)
  /-- ENABLE_LOW_DELAY (R412). -/
  | enableLowDelay
  /-- DRIVER_FAULT (R415). -/
  | driverFault (chan : AmpId)
  /-- CURRENT_LIMIT (R416). -/
  | currentLimit (chan : AmpId)
  /-- SHORT_FAULT (R416). -/
  | shortFault (chan : AmpId)
  /-- DC_FAULT (R417). -/
  | dcFault (chan : AmpId)
  /-- LOOP_FAULT (R408). -/
  | loopFault (chan : AmpId) (carrier : Bool)
  /-- ENERGY_BLOCK (R419). -/
  | energyBlock (powers : List Nat)
  /-- ENERGY_CUT_HOLD_END (R420). -/
  | energyCutHoldEnd (chan : AmpId)
  /-- AMP_TEST_STEP (R423). -/
  | ampTestStep (chan : AmpId) (zmag : Word32) (zph : BitVec 16) (current : Nat)
  /-- LIMIT_REGISTER_WRITE (R421). -/
  | limitRegisterWrite (chan : AmpId) (reg : Fin 6) (value : Word32)
  /-- OVR_INPUT (R428). -/
  | ovrInput (input : Fin 4) (level : Bool)
  /-- OFF_HOLD_EXPIRY (R428). -/
  | offHoldExpiry (input : Fin 4)
  /-- OVR_UNLATCH (R441). -/
  | ovrUnlatch (mask : BitVec 4)
  /-- PREPARE (R191). -/
  | prepare (r : Req)
  /-- READY (R192). -/
  | ready (r : Req)
  /-- REFUSE (R192). -/
  | refuse (r : Req)
  /-- COMMIT (R192). -/
  | commit (r : Req)
  /-- ABORT (R192). -/
  | abort (r : Req)
  /-- QUERY (R194). -/
  | query (r : Req)
  /-- OUTCOME (R195). -/
  | outcome (r : Req)
  /-- DONE (R196). -/
  | tapDone (r : Req)
  /-- TAP_DECISION (R192). -/
  | tapDecision (group : Nat)
  /-- QUERY_TIMER (R194). -/
  | queryTimer (brew : Fin 15)
  /-- QUERY_PEERS (R194). -/
  | queryPeers (brew : Fin 15)
  /-- GROUP_CLOSE_TIMEOUT (R196). -/
  | groupCloseTimeout (group : Nat)
  /-- SETTLE_TAP_ARM (R187). -/
  | settleTapArm (brew : Fin 15)
  /-- MEMBER_TIMEOUT (R140). -/
  | memberTimeout (member : Fin 16)
  /-- VAON_LOSS (R447). -/
  | vaonLoss
  /-- VAON_RETURN (R447). -/
  | vaonReturn (autoWake : Bool) (seconds : BitVec 48)
  /-- VBAK_LOSS (R449). -/
  | vbakLoss
  /-- WAKEN_PIN (R445). -/
  | wakenPin
  /-- SPI_WAKE (R445). -/
  | spiWake
  /-- LANE_SIGNAL_WAKE (R445). -/
  | laneSignalWake (lane : Fin 16)
  /-- BK_ALARM_MATCH (R445). -/
  | bkAlarmMatch (t : Nat)
  /-- PWR_GAP_END (R446). -/
  | pwrGapEnd
  /-- PWR_GOOD (R446). -/
  | pwrGood
  /-- PGOOD_TIMEOUT (R446). -/
  | pgoodTimeout
  /-- PWR_GOOD_LOSS (R481). -/
  | pwrGoodLoss
  /-- ZERO_CROSS (R450). -/
  | zeroCross (us : Nat)
  /-- MISSING_HALF_CYCLE (R450). -/
  | missingHalfCycle
  /-- SHUTDOWN_DELAY_END (R451). -/
  | shutdownDelayEnd
  /-- THERMAL_WARN (R453). -/
  | thermalWarn (tj : List (BitVec 8))
  /-- THERMAL_TRIP (R453). -/
  | thermalTrip
  /-- THERMAL_TRIP_RELEASE (R453). -/
  | thermalTripRelease
  /-- SUPPLY_MONITOR_TRIP (R454). -/
  | supplyMonitorTrip
  /-- RESETN_PIN (R459). -/
  | resetnPin (low : Bool) (ns : Nat) (taken : Bool)
  /-- WDOG_EXPIRY (R457). -/
  | wdogExpiry
  /-- CRIT_ERR (R456). -/
  | critErr (where_ : Fin 5)
  /-- RESET_START (R289). -/
  | resetStart (brews : List Nat) (t : Nat)
  /-- OPTION_LOADING (R461). -/
  | optionLoading (straps : BitVec 16) (otp : Otp)
  /-- RELEASE_STEP (R463). -/
  | releaseStep (linear : Bool) (t : Nat)
  /-- BOOT_DATA_WRITE (R462). -/
  | bootDataWrite (value : Word32)
  /-- BOOT_GO (R462). -/
  | bootGo (ok : Bool)
  /-- BLOCK_RESET_RELEASE (R465). -/
  | blockResetRelease (code : Fin 256)
  /-- SLACK_CLR (R35). -/
  | slackClr
  /-- RD_RESET (R46). -/
  | rdReset
  /-- FG_REPORT_DATA_READ (R46). -/
  | fgReportDataRead
  /-- EVT_RD_INDEX_WRITE (R294). -/
  | evtRdIndexWrite (value : Word32)
  /-- EVT_DATA_READ (R294). -/
  | evtDataRead
  /-- LATCHING_READ (R402). -/
  | latchingRead (r : MasterRead) (t : Nat)
  /-- REGISTER_WRITE (R9). -/
  | registerWrite (master : Fin 24) (a : Nat) (value : Word32) (t : Nat)
  /-- COMMAND_REPLY_RX (R263). -/
  | commandReplyRx (source : Nat)
  /-- TEAM_FORM_TIMEOUT (R358). -/
  | teamFormTimeout (ep : Nat)
  /-- CELLAR_DRIFT_RETRAIN (R215). -/
  | cellarDriftRetrain (c : Fin 8)
  /-- DPLL_LOCK_LOSS (R384). -/
  | dpllLockLoss (freq : BitVec 32) (phase : BitVec 32)
  /-- REF_VALID (R380). -/
  | refValid (cand : Fin 10) (foffs : BitVec 16)
  /-- FIRMWARE_START (R462). -/
  | firmwareStart (from_ : Fin 3) (version : Word32)
  /-- TEAM_SUBGRAPH_RX (R138). -/
  | teamSubgraphRx (leader : Nat) (brew : Fin 15) (h : Nat) (g : SubgraphMsg)
  /-- MEMBER_COMPILE_REPORT (R138). -/
  | memberCompileReport (member : Fin 16) (phase : Nat) (res : Option CompileResult)
  /-- COMPILE_WITHDRAW (R140). -/
  | compileWithdraw (brew : Fin 15)
deriving DecidableEq, Repr

end Sys2Proof
end

