-- ==== Sys2Proof/Decode.lean ====
section
/-! DEFINITION. The command that a word of spec/opcode_table.json spells. -/

namespace Sys2Proof

/-- The command whose bits, as the opcode table numbers them, are `w`. No row of the table gives bits (every row has an empty list of fields), so no
word spells a command. DESIGN CHOICE: log entry 3. -/
def decodeTableWord (_nbits _w : Nat) : Option Instr := none

end Sys2Proof
end

