-- ==== Sys2Proof/Config.lean ====
section
/-! DEFINITION. The values that the spec leaves open: constants without a body, so that nothing can be proved about what they are. Each is named in
a log entry of notes/assumptions. -/

namespace Sys2Proof.Config

/-- What a parameter reads as that nothing has written and for which the spec gives no default: by kernel and index. DESIGN CHOICE: log entry 39. -/
opaque paramDefault : Nat → Nat → Word32

/-- The words a kernel reads for a parameter whose conversion the spec does not give: kernel, index, value, rate of the segment in mHz. DESIGN CHOICE: log entry 39. -/
opaque paramWords : Nat → Nat → Word32 → Nat → Word32

/-- The analogue prototype of an EQ section, normalised to its frequency, which the spec does not give: type, gain, Q, and which coefficient of
(B0 + B1 s + B2 s²) / (A0 + A1 s + A2 s²), B0 first, in units of 2^−128. DESIGN CHOICE: log entry 39. -/
opaque sectionProto : Nat → Nat → Nat → Nat → Int

/-- The feedback pair (a1, a2) to which a designed pair outside the margin of R160 is moved, before it is held inside it. DESIGN CHOICE: log entry 39. -/
opaque placedPair : Int → Int → Int × Int

/-- Fraction bits of the integrator of the DC blocker, and its coefficient at a rate in mHz in units of 2^−64 (R162). DESIGN CHOICE: log entry 112. -/
opaque dcFrac : Nat
/-- See `dcFrac`. DESIGN CHOICE: log entry 112. -/
opaque dcCoef : Nat → Int

/-- The gain of an EQUAL_POWER crossfade at t = num / den, of the old route or of the new one, before it is held within 3 · 10^−7 of the exact value (R185). DESIGN CHOICE: log entry 113. -/
opaque equalPower : Nat → Nat → Bool → Int

/-- The group delay in ns of a RATECONV node: rates of its input and its own segment in mHz (R51, R144). DESIGN CHOICE: log entry 113. -/
opaque convDelay : Nat → Nat → Nat

/-- The gain that a LOG ramp forms from a dB value, in units of 2^−28, before it is held within 0.01 dB of the exact gain (R156): by the level in
1/(1,000 · 2^12) dB. DEDUCED: log entry 107. -/
opaque logGain : Int → Int

/-- A magnitude (peak) in 1/100 dBFS, as the kernel's tables give them (R169). DEDUCED: log entry 108. -/
opaque peakDb : Nat → Int
/-- A mean square in 1/100 dBFS (R169). DEDUCED: log entry 108. -/
opaque rmsDb : Nat → Int
/-- A gain in 1/100 dB (R169). DEDUCED: log entry 108. -/
opaque gainDb : Nat → Int

/-- The first sequence number and the host nonce with which the engine opens a session of its own to an endpoint (R263, R273). DESIGN CHOICE: log entry 36. -/
opaque ownSeq : Nat → Nat
/-- The host nonce that goes with it. DESIGN CHOICE: log entry 36. -/
opaque ownNonce : Nat → Nat

/-- The sequence part of a new tap group's ID (R189). DESIGN CHOICE: log entry 109. -/
opaque groupSeq : Nat → Nat

/-- The frequency correction of a domain's servo: SERVO_BW, offset in 2^−16 ns, old rate in 2^−48 (R393). DESIGN CHOICE: log entry 60. -/
opaque servoRate : Nat → Int → Int → Int

/-- Whether a domain's servo is LOCKED after an offset: SERVO_BW, offsets measured, offset in 2^−16 ns. DESIGN CHOICE: log entry 60. -/
opaque servoLocked : Nat → Nat → Int → Bool

/-- The ppm by which a slew runs, at most SLEW_MAX: SLEW_MAX and the pending offset (R393). DESIGN CHOICE: log entry 60. -/
opaque slewPpm : Nat → Int → Nat

/-- The stage-5 gain reduction of the energy limiter in 0.01 dB (R420): attack toward 90 % of a limit, from the two averages, their limits and the
old reduction. DESIGN CHOICE: log entries 69, 110. -/
opaque limAttack : Nat → Nat → Nat → Nat → Nat → Nat
/-- The recovery of one block (R420). DESIGN CHOICE: log entries 69, 110. -/
opaque limRecover : Nat → Nat

/-- The minimum slack that AVS_AT_VMAX reports for a frame that is late at boundary b + 1, where it is not complete yet: by boundary (R36). DEDUCED: log entry 72. -/
opaque lateSlack : Nat → Nat

/-- EFFECTIVE in the reply of MODE_SET 1, for which Table 18.1 gives no boundary: by frame index. DESIGN CHOICE: log entry 73. -/
opaque standbyFrame : Nat → Nat

/-- The cause in TRACE_FAIL and LAST_FAIL of a trace that a block reset of the link engines sends back to COMMA; Table 13.5 gives none (Table 18.9). DESIGN CHOICE: log entry 80. -/
opaque linkResetCause : Nat → Nat

/-- The whole seconds that the 32.768 kHz oscillator counts between two raw times in ns (R447). DEDUCED: log entry 81. -/
opaque bkTicks : Nat → Nat → Nat

/-- The identification field of an IPv4 datagram that the engine sends, which R272 does not give: by the counter of free values. PRESUMED: log entry 128. -/
opaque ipId : Nat → BitVec 16

/-- Where record `i` of the log of brew `h` lies in the brew store, in records of 16 bytes (R173, R213). DESIGN CHOICE: log entry 113. -/
opaque logSlot : Nat → Nat → Nat

/-- Whether the signature of a host's boot image passes, where the command that says GO does not carry it (R462): by the words of the image. DESIGN CHOICE: log entry 93. -/
opaque imageSigned : List Word32 → Bool

end Sys2Proof.Config
end

