-- ==== Sys2Proof/Machine/RegMap.lean ====
section
/-! DEFINITION. The register maps of the spec (the tables "offset ..." of its chapters) as data: for every
field its address, bits, access code (R9), reset (R11), stated range and whether a brew may carry it (R297). -/

namespace Sys2Proof.Machine

/-- The access codes of Table 0.3 (R9). -/
inductive Access where
  | ro | rw | wo | w1c | rwl
deriving DecidableEq, Repr

/-- The Reset column of a field (R11). `option`: loaded during option loading ("S"). `kept`: keeps its value through
every reset but power-on and VBAK loss ("P"). The other codes give the resets that differ from copy to copy. -/
inductive ResetVal where
  | val (n : Nat) | option | kept | index | candEn | candQclass | candBw | xbCap
deriving DecidableEq, Repr

/-- How the copies of a register lie: a fixed distance, or the drover-channel layout 400h × drover + 40h × channel. -/
inductive Stride where
  | lin (n : Nat) | ch
deriving DecidableEq, Repr

/-- Whether a field is brewable, and if so whether it is a frame setting of R225 or R244 (R297). -/
inductive Brewable where
  | no | yes | frame
deriving DecidableEq, Repr

/-- One field of a register map. -/
structure RegField where
  base : Nat
  stride : Stride
  hi : Nat
  lo : Nat
  acc : Access
  rst : ResetVal
  rng : Option (Nat × Nat)
  brew : Brewable
  backup : Bool
deriving DecidableEq, Repr

/-- One register, or a row of like registers. -/
structure RegRow where
  base : Nat
  count : Nat
  stride : Stride
  fields : List RegField
deriving DecidableEq, Repr


def Fld.ID_PART_ID_PART : RegField := ⟨0x0, (.lin 0x4), 31, 0, .ro, (.val 0x1481024), none, .no, false⟩
def Reg.ID_PART : RegRow := ⟨0x0, 1, (.lin 0x4), [Fld.ID_PART_ID_PART]⟩
def Fld.ID_REV_ID_REV : RegField := ⟨0x4, (.lin 0x4), 31, 0, .ro, (.val 0x2), none, .no, false⟩
def Reg.ID_REV : RegRow := ⟨0x4, 1, (.lin 0x4), [Fld.ID_REV_ID_REV]⟩
def Fld.ID_UID_UID : RegField := ⟨0x10, (.lin 0x4), 31, 0, .ro, .option, none, .no, false⟩
def Reg.ID_UID : RegRow := ⟨0x10, 4, (.lin 0x4), [Fld.ID_UID_UID]⟩
def Fld.ID_OPTIONS_OPTIONS : RegField := ⟨0x20, (.lin 0x4), 31, 0, .ro, .option, none, .no, false⟩
def Reg.ID_OPTIONS : RegRow := ⟨0x20, 1, (.lin 0x4), [Fld.ID_OPTIONS_OPTIONS]⟩
def Fld.ENDPOINT_ID_ID : RegField := ⟨0x24, (.lin 0x4), 17, 0, .rw, .option, none, .no, false⟩
def Reg.ENDPOINT_ID : RegRow := ⟨0x24, 1, (.lin 0x4), [Fld.ENDPOINT_ID_ID]⟩
def Fld.FW_VERSION_VERSION : RegField := ⟨0x28, (.lin 0x4), 31, 0, .ro, (.val 0x0), none, .no, false⟩
def Reg.FW_VERSION : RegRow := ⟨0x28, 1, (.lin 0x4), [Fld.FW_VERSION_VERSION]⟩
def Fld.ENGINE_MODE_MODE : RegField := ⟨0x2C, (.lin 0x4), 2, 0, .ro, (.val 0x2), none, .no, false⟩
def Fld.ENGINE_MODE_FS : RegField := ⟨0x2C, (.lin 0x4), 10, 8, .ro, (.val 0x0), none, .no, false⟩
def Reg.ENGINE_MODE : RegRow := ⟨0x2C, 1, (.lin 0x4), [Fld.ENGINE_MODE_MODE, Fld.ENGINE_MODE_FS]⟩
def Fld.SCRATCH_SCRATCH : RegField := ⟨0xFC, (.lin 0x4), 31, 0, .rw, (.val 0x0), none, .no, false⟩
def Reg.SCRATCH : RegRow := ⟨0xFC, 1, (.lin 0x4), [Fld.SCRATCH_SCRATCH]⟩
def Fld.EVT_PENDING_PENDING : RegField := ⟨0x100, (.lin 0x4), 15, 0, .w1c, (.val 0x0), none, .no, false⟩
def Reg.EVT_PENDING : RegRow := ⟨0x100, 1, (.lin 0x4), [Fld.EVT_PENDING_PENDING]⟩
def Fld.EVT_IRQ_EN_IRQ_EN : RegField := ⟨0x104, (.lin 0x4), 15, 0, .rw, (.val 0x0), none, .no, false⟩
def Reg.EVT_IRQ_EN : RegRow := ⟨0x104, 1, (.lin 0x4), [Fld.EVT_IRQ_EN_IRQ_EN]⟩
def Fld.EVT_HEAD_HEAD : RegField := ⟨0x108, (.lin 0x4), 31, 0, .ro, (.val 0x0), none, .no, false⟩
def Reg.EVT_HEAD : RegRow := ⟨0x108, 1, (.lin 0x4), [Fld.EVT_HEAD_HEAD]⟩
def Fld.EVT_RD_INDEX_INDEX : RegField := ⟨0x10C, (.lin 0x4), 31, 0, .rw, (.val 0x0), none, .no, false⟩
def Reg.EVT_RD_INDEX : RegRow := ⟨0x10C, 1, (.lin 0x4), [Fld.EVT_RD_INDEX_INDEX]⟩
def Fld.EVT_DATA_DATA : RegField := ⟨0x110, (.lin 0x4), 31, 0, .ro, (.val 0x0), none, .no, false⟩
def Reg.EVT_DATA : RegRow := ⟨0x110, 1, (.lin 0x4), [Fld.EVT_DATA_DATA]⟩
def Fld.FG_CTRL_FATAL_COUNT : RegField := ⟨0x200, (.lin 0x4), 11, 0, .rw, (.val 0x20), some (1, 4095), .no, false⟩
def Fld.FG_CTRL_HANG_FRAMES : RegField := ⟨0x200, (.lin 0x4), 19, 16, .rw, (.val 0x2), some (1, 15), .no, false⟩
def Fld.FG_CTRL_OVR_IRQ_EN : RegField := ⟨0x200, (.lin 0x4), 24, 24, .rw, (.val 0x1), none, .no, false⟩
def Fld.FG_CTRL_LATE_IRQ_EN : RegField := ⟨0x200, (.lin 0x4), 25, 25, .rw, (.val 0x0), none, .no, false⟩
def Reg.FG_CTRL : RegRow := ⟨0x200, 1, (.lin 0x4), [Fld.FG_CTRL_FATAL_COUNT, Fld.FG_CTRL_HANG_FRAMES, Fld.FG_CTRL_OVR_IRQ_EN, Fld.FG_CTRL_LATE_IRQ_EN]⟩
def Fld.FG_STATUS_CONSEC : RegField := ⟨0x204, (.lin 0x4), 11, 0, .ro, (.val 0x0), none, .no, false⟩
def Fld.FG_STATUS_LATE_STICKY : RegField := ⟨0x204, (.lin 0x4), 16, 16, .w1c, (.val 0x0), none, .no, false⟩
def Fld.FG_STATUS_OVR_STICKY : RegField := ⟨0x204, (.lin 0x4), 17, 17, .w1c, (.val 0x0), none, .no, false⟩
def Fld.FG_STATUS_CYCLE_STICKY : RegField := ⟨0x204, (.lin 0x4), 18, 18, .w1c, (.val 0x0), none, .no, false⟩
def Fld.FG_STATUS_ABORT_STICKY : RegField := ⟨0x204, (.lin 0x4), 19, 19, .w1c, (.val 0x0), none, .no, false⟩
def Fld.FG_STATUS_BREACH_STICKY : RegField := ⟨0x204, (.lin 0x4), 20, 20, .w1c, (.val 0x0), none, .no, false⟩
def Fld.FG_STATUS_CFG_ERR : RegField := ⟨0x204, (.lin 0x4), 21, 21, .w1c, (.val 0x0), none, .no, false⟩
def Reg.FG_STATUS : RegRow := ⟨0x204, 1, (.lin 0x4), [Fld.FG_STATUS_CONSEC, Fld.FG_STATUS_LATE_STICKY, Fld.FG_STATUS_OVR_STICKY, Fld.FG_STATUS_CYCLE_STICKY, Fld.FG_STATUS_ABORT_STICKY, Fld.FG_STATUS_BREACH_STICKY, Fld.FG_STATUS_CFG_ERR]⟩
def Fld.FG_LATE_COUNT_COUNT : RegField := ⟨0x208, (.lin 0x4), 31, 0, .ro, (.val 0x0), none, .no, false⟩
def Reg.FG_LATE_COUNT : RegRow := ⟨0x208, 1, (.lin 0x4), [Fld.FG_LATE_COUNT_COUNT]⟩
def Fld.FG_OVERRUN_COUNT_COUNT : RegField := ⟨0x20C, (.lin 0x4), 31, 0, .ro, (.val 0x0), none, .no, false⟩
def Reg.FG_OVERRUN_COUNT : RegRow := ⟨0x20C, 1, (.lin 0x4), [Fld.FG_OVERRUN_COUNT_COUNT]⟩
def Fld.FG_ABORT_COUNT_COUNT : RegField := ⟨0x210, (.lin 0x4), 31, 0, .ro, (.val 0x0), none, .no, false⟩
def Reg.FG_ABORT_COUNT : RegRow := ⟨0x210, 1, (.lin 0x4), [Fld.FG_ABORT_COUNT_COUNT]⟩
def Fld.FG_DISCARD_COUNT_COUNT : RegField := ⟨0x214, (.lin 0x4), 31, 0, .ro, (.val 0x0), none, .no, false⟩
def Reg.FG_DISCARD_COUNT : RegRow := ⟨0x214, 1, (.lin 0x4), [Fld.FG_DISCARD_COUNT_COUNT]⟩
def Fld.FG_BREACH_COUNT_COUNT : RegField := ⟨0x218, (.lin 0x4), 15, 0, .ro, (.val 0x0), none, .no, false⟩
def Fld.FG_BREACH_COUNT_UNIT : RegField := ⟨0x218, (.lin 0x4), 26, 16, .ro, (.val 0x0), none, .no, false⟩
def Reg.FG_BREACH_COUNT : RegRow := ⟨0x218, 1, (.lin 0x4), [Fld.FG_BREACH_COUNT_COUNT, Fld.FG_BREACH_COUNT_UNIT]⟩
def Fld.FG_LAST_OVR_LO_FRAME_LO : RegField := ⟨0x220, (.lin 0x4), 31, 0, .ro, .kept, none, .no, false⟩
def Reg.FG_LAST_OVR_LO : RegRow := ⟨0x220, 1, (.lin 0x4), [Fld.FG_LAST_OVR_LO_FRAME_LO]⟩
def Fld.FG_LAST_OVR_HI_FRAME_HI : RegField := ⟨0x224, (.lin 0x4), 31, 0, .ro, .kept, none, .no, false⟩
def Reg.FG_LAST_OVR_HI : RegRow := ⟨0x224, 1, (.lin 0x4), [Fld.FG_LAST_OVR_HI_FRAME_HI]⟩
def Fld.FG_REPORT_CTRL_ENTRIES : RegField := ⟨0x228, (.lin 0x4), 10, 0, .ro, .kept, none, .no, false⟩
def Fld.FG_REPORT_CTRL_REPORT_VALID : RegField := ⟨0x228, (.lin 0x4), 16, 16, .w1c, .kept, none, .no, false⟩
def Fld.FG_REPORT_CTRL_HAS_CYCLE : RegField := ⟨0x228, (.lin 0x4), 17, 17, .ro, .kept, none, .no, false⟩
def Fld.FG_REPORT_CTRL_RD_RESET : RegField := ⟨0x228, (.lin 0x4), 31, 31, .wo, (.val 0x0), none, .no, false⟩
def Reg.FG_REPORT_CTRL : RegRow := ⟨0x228, 1, (.lin 0x4), [Fld.FG_REPORT_CTRL_ENTRIES, Fld.FG_REPORT_CTRL_REPORT_VALID, Fld.FG_REPORT_CTRL_HAS_CYCLE, Fld.FG_REPORT_CTRL_RD_RESET]⟩
def Fld.FG_REPORT_DATA_DATA : RegField := ⟨0x22C, (.lin 0x4), 31, 0, .ro, .kept, none, .no, false⟩
def Reg.FG_REPORT_DATA : RegRow := ⟨0x22C, 1, (.lin 0x4), [Fld.FG_REPORT_DATA_DATA]⟩
def Fld.SLACK_LAST_SLACK : RegField := ⟨0x240, (.lin 0x4), 13, 0, .ro, (.val 0xFFF), none, .no, false⟩
def Fld.SLACK_LAST_UNIT : RegField := ⟨0x240, (.lin 0x4), 26, 16, .ro, (.val 0x7FF), none, .no, false⟩
def Reg.SLACK_LAST : RegRow := ⟨0x240, 1, (.lin 0x4), [Fld.SLACK_LAST_SLACK, Fld.SLACK_LAST_UNIT]⟩
def Fld.SLACK_WINDOW_SLACK : RegField := ⟨0x244, (.lin 0x4), 13, 0, .ro, (.val 0xFFF), none, .no, false⟩
def Fld.SLACK_WINDOW_UNIT : RegField := ⟨0x244, (.lin 0x4), 26, 16, .ro, (.val 0x7FF), none, .no, false⟩
def Reg.SLACK_WINDOW : RegRow := ⟨0x244, 1, (.lin 0x4), [Fld.SLACK_WINDOW_SLACK, Fld.SLACK_WINDOW_UNIT]⟩
def Fld.SLACK_HIST_SLACK : RegField := ⟨0x248, (.lin 0x4), 13, 0, .ro, (.val 0xFFF), none, .no, false⟩
def Fld.SLACK_HIST_UNIT : RegField := ⟨0x248, (.lin 0x4), 26, 16, .ro, (.val 0x7FF), none, .no, false⟩
def Reg.SLACK_HIST : RegRow := ⟨0x248, 1, (.lin 0x4), [Fld.SLACK_HIST_SLACK, Fld.SLACK_HIST_UNIT]⟩
def Fld.SLACK_CLR_CLR_HIST : RegField := ⟨0x24C, (.lin 0x4), 0, 0, .wo, (.val 0x0), none, .no, false⟩
def Reg.SLACK_CLR : RegRow := ⟨0x24C, 1, (.lin 0x4), [Fld.SLACK_CLR_CLR_HIST]⟩
def Fld.AVS_CTRL_ENABLE : RegField := ⟨0x260, (.lin 0x4), 0, 0, .rw, (.val 0x1), none, .no, false⟩
def Fld.AVS_CTRL_WINDOW : RegField := ⟨0x260, (.lin 0x4), 3, 1, .rw, (.val 0x6), none, .no, false⟩
def Fld.AVS_CTRL_STEP_UP : RegField := ⟨0x260, (.lin 0x4), 7, 4, .rw, (.val 0x4), some (2, 8), .no, false⟩
def Fld.AVS_CTRL_STEP_DOWN : RegField := ⟨0x260, (.lin 0x4), 11, 8, .rw, (.val 0x1), some (1, 4), .no, false⟩
def Fld.AVS_CTRL_STEP_EMERG : RegField := ⟨0x260, (.lin 0x4), 15, 12, .rw, (.val 0xF), some (8, 15), .no, false⟩
def Fld.AVS_CTRL_RAISE_INTERVAL : RegField := ⟨0x260, (.lin 0x4), 25, 16, .rw, (.val 0x32), some (10, 1000), .no, false⟩
def Reg.AVS_CTRL : RegRow := ⟨0x260, 1, (.lin 0x4), [Fld.AVS_CTRL_ENABLE, Fld.AVS_CTRL_WINDOW, Fld.AVS_CTRL_STEP_UP, Fld.AVS_CTRL_STEP_DOWN, Fld.AVS_CTRL_STEP_EMERG, Fld.AVS_CTRL_RAISE_INTERVAL]⟩
def Fld.AVS_LIMITS_VMIN : RegField := ⟨0x264, (.lin 0x4), 9, 0, .rw, (.val 0x226), some (550, 850), .no, false⟩
def Fld.AVS_LIMITS_VMAX : RegField := ⟨0x264, (.lin 0x4), 25, 16, .rw, (.val 0x352), some (600, 850), .no, false⟩
def Reg.AVS_LIMITS : RegRow := ⟨0x264, 1, (.lin 0x4), [Fld.AVS_LIMITS_VMIN, Fld.AVS_LIMITS_VMAX]⟩
def Fld.AVS_STATUS_SETPOINT : RegField := ⟨0x268, (.lin 0x4), 9, 0, .ro, (.val 0x2EE), none, .no, false⟩
def Fld.AVS_STATUS_AT_VMAX : RegField := ⟨0x268, (.lin 0x4), 16, 16, .ro, (.val 0x0), none, .no, false⟩
def Fld.AVS_STATUS_BELOW_CERT : RegField := ⟨0x268, (.lin 0x4), 17, 17, .ro, (.val 0x0), none, .no, false⟩
def Fld.AVS_STATUS_TAP_FLOOR : RegField := ⟨0x268, (.lin 0x4), 18, 18, .ro, (.val 0x0), none, .no, false⟩
def Reg.AVS_STATUS : RegRow := ⟨0x268, 1, (.lin 0x4), [Fld.AVS_STATUS_SETPOINT, Fld.AVS_STATUS_AT_VMAX, Fld.AVS_STATUS_BELOW_CERT, Fld.AVS_STATUS_TAP_FLOOR]⟩
def Fld.SLEDGER_STATUS_UNACCOUNTED : RegField := ⟨0x280, (.lin 0x4), 0, 0, .w1c, (.val 0x0), none, .no, false⟩
def Fld.SLEDGER_STATUS_AUDIT_RUN : RegField := ⟨0x280, (.lin 0x4), 1, 1, .ro, (.val 0x0), none, .no, false⟩
def Reg.SLEDGER_STATUS : RegRow := ⟨0x280, 1, (.lin 0x4), [Fld.SLEDGER_STATUS_UNACCOUNTED, Fld.SLEDGER_STATUS_AUDIT_RUN]⟩
def Fld.SLEDGER_SEL_STREAM : RegField := ⟨0x284, (.lin 0x4), 11, 0, .rw, (.val 0x0), none, .no, false⟩
def Fld.SLEDGER_SEL_CAUSE : RegField := ⟨0x284, (.lin 0x4), 19, 16, .rw, (.val 0x0), none, .no, false⟩
def Reg.SLEDGER_SEL : RegRow := ⟨0x284, 1, (.lin 0x4), [Fld.SLEDGER_SEL_STREAM, Fld.SLEDGER_SEL_CAUSE]⟩
def Fld.SLEDGER_CNT_LO_COUNT_LO : RegField := ⟨0x288, (.lin 0x4), 31, 0, .ro, (.val 0x0), none, .no, false⟩
def Reg.SLEDGER_CNT_LO : RegRow := ⟨0x288, 1, (.lin 0x4), [Fld.SLEDGER_CNT_LO_COUNT_LO]⟩
def Fld.SLEDGER_CNT_HI_COUNT_HI : RegField := ⟨0x28C, (.lin 0x4), 31, 0, .ro, (.val 0x0), none, .no, false⟩
def Reg.SLEDGER_CNT_HI : RegRow := ⟨0x28C, 1, (.lin 0x4), [Fld.SLEDGER_CNT_HI_COUNT_HI]⟩
def Fld.BREW_SEL_HANDLE : RegField := ⟨0x300, (.lin 0x4), 3, 0, .rw, (.val 0x0), none, .no, false⟩
def Reg.BREW_SEL : RegRow := ⟨0x300, 1, (.lin 0x4), [Fld.BREW_SEL_HANDLE]⟩
def Fld.BREW_STATUS_STATE : RegField := ⟨0x304, (.lin 0x4), 3, 0, .ro, (.val 0x0), none, .no, false⟩
def Fld.BREW_STATUS_ROLE : RegField := ⟨0x304, (.lin 0x4), 5, 4, .ro, (.val 0x0), none, .no, false⟩
def Fld.BREW_STATUS_ARMED : RegField := ⟨0x304, (.lin 0x4), 6, 6, .ro, (.val 0x0), none, .no, false⟩
def Fld.BREW_STATUS_GATE : RegField := ⟨0x304, (.lin 0x4), 7, 7, .ro, (.val 0x0), none, .no, false⟩
def Fld.BREW_STATUS_OUTCOME : RegField := ⟨0x304, (.lin 0x4), 9, 8, .ro, (.val 0x0), none, .no, false⟩
def Fld.BREW_STATUS_DEFERRED : RegField := ⟨0x304, (.lin 0x4), 10, 10, .ro, (.val 0x0), none, .no, false⟩
def Fld.BREW_STATUS_LATE : RegField := ⟨0x304, (.lin 0x4), 11, 11, .ro, (.val 0x0), none, .no, false⟩
def Fld.BREW_STATUS_XFADE : RegField := ⟨0x304, (.lin 0x4), 12, 12, .ro, (.val 0x0), none, .no, false⟩
def Reg.BREW_STATUS : RegRow := ⟨0x304, 1, (.lin 0x4), [Fld.BREW_STATUS_STATE, Fld.BREW_STATUS_ROLE, Fld.BREW_STATUS_ARMED, Fld.BREW_STATUS_GATE, Fld.BREW_STATUS_OUTCOME, Fld.BREW_STATUS_DEFERRED, Fld.BREW_STATUS_LATE, Fld.BREW_STATUS_XFADE]⟩
def Fld.BREW_ITEMS_ITEMS : RegField := ⟨0x308, (.lin 0x4), 22, 0, .ro, (.val 0x0), none, .no, false⟩
def Reg.BREW_ITEMS : RegRow := ⟨0x308, 1, (.lin 0x4), [Fld.BREW_ITEMS_ITEMS]⟩
def Fld.BREW_TAP_LO_FRAME_LO : RegField := ⟨0x310, (.lin 0x4), 31, 0, .ro, (.val 0x0), none, .no, false⟩
def Reg.BREW_TAP_LO : RegRow := ⟨0x310, 1, (.lin 0x4), [Fld.BREW_TAP_LO_FRAME_LO]⟩
def Fld.BREW_TAP_HI_FRAME_HI : RegField := ⟨0x314, (.lin 0x4), 31, 0, .ro, (.val 0x0), none, .no, false⟩
def Reg.BREW_TAP_HI : RegRow := ⟨0x314, 1, (.lin 0x4), [Fld.BREW_TAP_HI_FRAME_HI]⟩
def Fld.BREW_EFF_LO_FRAME_LO : RegField := ⟨0x318, (.lin 0x4), 31, 0, .ro, (.val 0x0), none, .no, false⟩
def Reg.BREW_EFF_LO : RegRow := ⟨0x318, 1, (.lin 0x4), [Fld.BREW_EFF_LO_FRAME_LO]⟩
def Fld.BREW_EFF_HI_FRAME_HI : RegField := ⟨0x31C, (.lin 0x4), 31, 0, .ro, (.val 0x0), none, .no, false⟩
def Reg.BREW_EFF_HI : RegRow := ⟨0x31C, 1, (.lin 0x4), [Fld.BREW_EFF_HI_FRAME_HI]⟩
def Fld.TAP_CTRL_DECIDE_LEAD : RegField := ⟨0x320, (.lin 0x4), 15, 0, .rw, (.val 0x60), some (4, 65535), .no, false⟩
def Fld.TAP_CTRL_SPLIT_POLICY : RegField := ⟨0x320, (.lin 0x4), 16, 16, .rw, (.val 0x0), none, .no, false⟩
def Fld.TAP_CTRL_QUERY_MS : RegField := ⟨0x320, (.lin 0x4), 31, 24, .rw, (.val 0x1), some (1, 255), .no, false⟩
def Reg.TAP_CTRL : RegRow := ⟨0x320, 1, (.lin 0x4), [Fld.TAP_CTRL_DECIDE_LEAD, Fld.TAP_CTRL_SPLIT_POLICY, Fld.TAP_CTRL_QUERY_MS]⟩
def Fld.TAP_STATUS_MISSED_STICKY : RegField := ⟨0x324, (.lin 0x4), 0, 0, .w1c, (.val 0x0), none, .no, false⟩
def Fld.TAP_STATUS_ABORT_STICKY : RegField := ⟨0x324, (.lin 0x4), 1, 1, .w1c, (.val 0x0), none, .no, false⟩
def Fld.TAP_STATUS_INDOUBT_STICKY : RegField := ⟨0x324, (.lin 0x4), 2, 2, .w1c, (.val 0x0), none, .no, false⟩
def Fld.TAP_STATUS_SPLIT_STICKY : RegField := ⟨0x324, (.lin 0x4), 3, 3, .w1c, (.val 0x0), none, .no, false⟩
def Fld.TAP_STATUS_DEFER_STICKY : RegField := ⟨0x324, (.lin 0x4), 4, 4, .w1c, (.val 0x0), none, .no, false⟩
def Fld.TAP_STATUS_CFG_ERR : RegField := ⟨0x324, (.lin 0x4), 5, 5, .w1c, (.val 0x0), none, .no, false⟩
def Reg.TAP_STATUS : RegRow := ⟨0x324, 1, (.lin 0x4), [Fld.TAP_STATUS_MISSED_STICKY, Fld.TAP_STATUS_ABORT_STICKY, Fld.TAP_STATUS_INDOUBT_STICKY, Fld.TAP_STATUS_SPLIT_STICKY, Fld.TAP_STATUS_DEFER_STICKY, Fld.TAP_STATUS_CFG_ERR]⟩
def Fld.TAP_DEFER_COUNT_COUNT : RegField := ⟨0x328, (.lin 0x4), 31, 0, .ro, (.val 0x0), none, .no, false⟩
def Reg.TAP_DEFER_COUNT : RegRow := ⟨0x328, 1, (.lin 0x4), [Fld.TAP_DEFER_COUNT_COUNT]⟩
def Fld.TAP_SPLIT_COUNT_COUNT : RegField := ⟨0x32C, (.lin 0x4), 31, 0, .ro, (.val 0x0), none, .no, false⟩
def Reg.TAP_SPLIT_COUNT : RegRow := ⟨0x32C, 1, (.lin 0x4), [Fld.TAP_SPLIT_COUNT_COUNT]⟩
def Fld.TAP_TOKEN_LATE_BANK : RegField := ⟨0x330, (.lin 0x4), 11, 0, .ro, (.val 0x0), none, .no, false⟩
def Fld.TAP_TOKEN_LATE_COUNT : RegField := ⟨0x330, (.lin 0x4), 31, 12, .ro, (.val 0x0), none, .no, false⟩
def Reg.TAP_TOKEN_LATE : RegRow := ⟨0x330, 1, (.lin 0x4), [Fld.TAP_TOKEN_LATE_BANK, Fld.TAP_TOKEN_LATE_COUNT]⟩
def Fld.CMD_CTRL_CMD_TIMEOUT : RegField := ⟨0x400, (.lin 0x4), 13, 0, .rw, (.val 0x32), some (30, 10000), .no, false⟩
def Fld.CMD_CTRL_CMD_RETRIES : RegField := ⟨0x400, (.lin 0x4), 19, 16, .rw, (.val 0x3), none, .no, false⟩
def Fld.CMD_CTRL_AUTH_LOCAL : RegField := ⟨0x400, (.lin 0x4), 20, 20, .rw, (.val 0x0), none, .no, false⟩
def Fld.CMD_CTRL_AUTH_TRACE : RegField := ⟨0x400, (.lin 0x4), 21, 21, .rw, (.val 0x0), none, .no, false⟩
def Fld.CMD_CTRL_AUTH_ETH : RegField := ⟨0x400, (.lin 0x4), 22, 22, .rw, (.val 0x1), none, .no, false⟩
def Fld.CMD_CTRL_AUTH_UDP : RegField := ⟨0x400, (.lin 0x4), 23, 23, .rw, (.val 0x1), none, .no, false⟩
def Reg.CMD_CTRL : RegRow := ⟨0x400, 1, (.lin 0x4), [Fld.CMD_CTRL_CMD_TIMEOUT, Fld.CMD_CTRL_CMD_RETRIES, Fld.CMD_CTRL_AUTH_LOCAL, Fld.CMD_CTRL_AUTH_TRACE, Fld.CMD_CTRL_AUTH_ETH, Fld.CMD_CTRL_AUTH_UDP]⟩
def Fld.CMD_SESS_SESSION_IDLE : RegField := ⟨0x404, (.lin 0x4), 11, 0, .rw, (.val 0xA), some (1, 3600), .no, false⟩
def Fld.CMD_SESS_OPEN : RegField := ⟨0x404, (.lin 0x4), 15, 12, .ro, (.val 0x0), none, .no, false⟩
def Fld.CMD_SESS_JOBS : RegField := ⟨0x404, (.lin 0x4), 24, 16, .ro, (.val 0x0), none, .no, false⟩
def Reg.CMD_SESS : RegRow := ⟨0x404, 1, (.lin 0x4), [Fld.CMD_SESS_SESSION_IDLE, Fld.CMD_SESS_OPEN, Fld.CMD_SESS_JOBS]⟩
def Fld.CMD_STATUS_CRC_STICKY : RegField := ⟨0x408, (.lin 0x4), 0, 0, .w1c, (.val 0x0), none, .no, false⟩
def Fld.CMD_STATUS_FORMAT_STICKY : RegField := ⟨0x408, (.lin 0x4), 1, 1, .w1c, (.val 0x0), none, .no, false⟩
def Fld.CMD_STATUS_AUTH_STICKY : RegField := ⟨0x408, (.lin 0x4), 2, 2, .w1c, (.val 0x0), none, .no, false⟩
def Fld.CMD_STATUS_SEQ_AUDIT_FAIL : RegField := ⟨0x408, (.lin 0x4), 3, 3, .w1c, (.val 0x0), none, .no, false⟩
def Fld.CMD_STATUS_RX_DROP_STICKY : RegField := ⟨0x408, (.lin 0x4), 4, 4, .w1c, (.val 0x0), none, .no, false⟩
def Fld.CMD_STATUS_CFG_ERR : RegField := ⟨0x408, (.lin 0x4), 5, 5, .w1c, (.val 0x0), none, .no, false⟩
def Reg.CMD_STATUS : RegRow := ⟨0x408, 1, (.lin 0x4), [Fld.CMD_STATUS_CRC_STICKY, Fld.CMD_STATUS_FORMAT_STICKY, Fld.CMD_STATUS_AUTH_STICKY, Fld.CMD_STATUS_SEQ_AUDIT_FAIL, Fld.CMD_STATUS_RX_DROP_STICKY, Fld.CMD_STATUS_CFG_ERR]⟩
def Fld.CMD_CHECK_COUNT_CRC : RegField := ⟨0x410, (.lin 0x4), 15, 0, .ro, (.val 0x0), none, .no, false⟩
def Fld.CMD_CHECK_COUNT_FORMAT : RegField := ⟨0x410, (.lin 0x4), 31, 16, .ro, (.val 0x0), none, .no, false⟩
def Reg.CMD_CHECK_COUNT : RegRow := ⟨0x410, 1, (.lin 0x4), [Fld.CMD_CHECK_COUNT_CRC, Fld.CMD_CHECK_COUNT_FORMAT]⟩
def Fld.CMD_AUTH_COUNT_COUNT : RegField := ⟨0x414, (.lin 0x4), 31, 0, .ro, (.val 0x0), none, .no, false⟩
def Reg.CMD_AUTH_COUNT : RegRow := ⟨0x414, 1, (.lin 0x4), [Fld.CMD_AUTH_COUNT_COUNT]⟩
def Fld.CMD_DUP_COUNT_COUNT : RegField := ⟨0x418, (.lin 0x4), 31, 0, .ro, (.val 0x0), none, .no, false⟩
def Reg.CMD_DUP_COUNT : RegRow := ⟨0x418, 1, (.lin 0x4), [Fld.CMD_DUP_COUNT_COUNT]⟩
def Fld.CMD_CONFLICT_COUNT_COUNT : RegField := ⟨0x41C, (.lin 0x4), 31, 0, .ro, (.val 0x0), none, .no, false⟩
def Reg.CMD_CONFLICT_COUNT : RegRow := ⟨0x41C, 1, (.lin 0x4), [Fld.CMD_CONFLICT_COUNT_COUNT]⟩
def Fld.CMD_SEQ_GAP_COUNT_TRANSPORT_LOSS : RegField := ⟨0x420, (.lin 0x4), 15, 0, .ro, (.val 0x0), none, .no, false⟩
def Fld.CMD_SEQ_GAP_COUNT_SESSION_RESET : RegField := ⟨0x420, (.lin 0x4), 31, 16, .ro, (.val 0x0), none, .no, false⟩
def Reg.CMD_SEQ_GAP_COUNT : RegRow := ⟨0x420, 1, (.lin 0x4), [Fld.CMD_SEQ_GAP_COUNT_TRANSPORT_LOSS, Fld.CMD_SEQ_GAP_COUNT_SESSION_RESET]⟩
def Fld.CMD_RX_DROP_COUNT_COUNT : RegField := ⟨0x424, (.lin 0x4), 31, 0, .ro, (.val 0x0), none, .no, false⟩
def Reg.CMD_RX_DROP_COUNT : RegRow := ⟨0x424, 1, (.lin 0x4), [Fld.CMD_RX_DROP_COUNT_COUNT]⟩
def Fld.NET_CTRL_UDP_EN : RegField := ⟨0x440, (.lin 0x4), 0, 0, .rw, .option, none, .no, false⟩
def Fld.NET_CTRL_HOE_EN : RegField := ⟨0x440, (.lin 0x4), 1, 1, .rw, .option, none, .no, false⟩
def Fld.NET_CTRL_GARP_EN : RegField := ⟨0x440, (.lin 0x4), 2, 2, .rw, .option, none, .no, false⟩
def Fld.NET_CTRL_IP_PORT : RegField := ⟨0x440, (.lin 0x4), 11, 8, .rw, .option, none, .no, false⟩
def Fld.NET_CTRL_DSCP : RegField := ⟨0x440, (.lin 0x4), 17, 12, .rw, .option, none, .no, false⟩
def Reg.NET_CTRL : RegRow := ⟨0x440, 1, (.lin 0x4), [Fld.NET_CTRL_UDP_EN, Fld.NET_CTRL_HOE_EN, Fld.NET_CTRL_GARP_EN, Fld.NET_CTRL_IP_PORT, Fld.NET_CTRL_DSCP]⟩
def Fld.NET_ETH_TYPE_ETH_TYPE : RegField := ⟨0x444, (.lin 0x4), 15, 0, .rw, (.val 0x88B5), some (1536, 65535), .no, false⟩
def Reg.NET_ETH_TYPE : RegRow := ⟨0x444, 1, (.lin 0x4), [Fld.NET_ETH_TYPE_ETH_TYPE]⟩
def Fld.NET_IP_ADDR_ADDR : RegField := ⟨0x448, (.lin 0x4), 31, 0, .rw, .option, none, .no, false⟩
def Reg.NET_IP_ADDR : RegRow := ⟨0x448, 1, (.lin 0x4), [Fld.NET_IP_ADDR_ADDR]⟩
def Fld.NET_IP_MASK_MASK : RegField := ⟨0x44C, (.lin 0x4), 31, 0, .rw, .option, none, .no, false⟩
def Reg.NET_IP_MASK : RegRow := ⟨0x44C, 1, (.lin 0x4), [Fld.NET_IP_MASK_MASK]⟩
def Fld.NET_IP_GW_GW : RegField := ⟨0x450, (.lin 0x4), 31, 0, .rw, .option, none, .no, false⟩
def Reg.NET_IP_GW : RegRow := ⟨0x450, 1, (.lin 0x4), [Fld.NET_IP_GW_GW]⟩
def Fld.MODE_STATUS_MODE : RegField := ⟨0x500, (.lin 0x4), 2, 0, .ro, (.val 0x2), none, .no, false⟩
def Fld.MODE_STATUS_PENDING : RegField := ⟨0x500, (.lin 0x4), 5, 3, .ro, (.val 0x0), none, .no, false⟩
def Fld.MODE_STATUS_PEND_VALID : RegField := ⟨0x500, (.lin 0x4), 6, 6, .ro, (.val 0x0), none, .no, false⟩
def Fld.MODE_STATUS_SAFE_CAUSE : RegField := ⟨0x500, (.lin 0x4), 10, 8, .ro, (.val 0x0), none, .no, false⟩
def Fld.MODE_STATUS_HDR_INVALID : RegField := ⟨0x500, (.lin 0x4), 11, 11, .ro, (.val 0x0), none, .no, false⟩
def Fld.MODE_STATUS_CFG_ERR : RegField := ⟨0x500, (.lin 0x4), 16, 16, .w1c, (.val 0x0), none, .no, false⟩
def Fld.MODE_STATUS_BOOT_FAIL : RegField := ⟨0x500, (.lin 0x4), 17, 17, .w1c, (.val 0x0), none, .no, false⟩
def Reg.MODE_STATUS : RegRow := ⟨0x500, 1, (.lin 0x4), [Fld.MODE_STATUS_MODE, Fld.MODE_STATUS_PENDING, Fld.MODE_STATUS_PEND_VALID, Fld.MODE_STATUS_SAFE_CAUSE, Fld.MODE_STATUS_HDR_INVALID, Fld.MODE_STATUS_CFG_ERR, Fld.MODE_STATUS_BOOT_FAIL]⟩
def Fld.RESET_CAUSE_CAUSE : RegField := ⟨0x504, (.lin 0x4), 8, 0, .w1c, (.val 0x0), none, .no, true⟩
def Fld.RESET_CAUSE_CRIT_WHERE : RegField := ⟨0x504, (.lin 0x4), 19, 16, .ro, (.val 0x0), none, .no, true⟩
def Reg.RESET_CAUSE : RegRow := ⟨0x504, 1, (.lin 0x4), [Fld.RESET_CAUSE_CAUSE, Fld.RESET_CAUSE_CRIT_WHERE]⟩
def Fld.RESET_CTRL_PARTNER_EN : RegField := ⟨0x508, (.lin 0x4), 0, 0, .rw, (.val 0x0), none, .no, false⟩
def Reg.RESET_CTRL : RegRow := ⟨0x508, 1, (.lin 0x4), [Fld.RESET_CTRL_PARTNER_EN]⟩
def Fld.RST_PARTNER_PARTNER : RegField := ⟨0x50C, (.lin 0x4), 31, 0, .rw, (.val 0xFFFFFFFF), none, .no, false⟩
def Reg.RST_PARTNER : RegRow := ⟨0x50C, 1, (.lin 0x4), [Fld.RST_PARTNER_PARTNER]⟩
def Fld.WDOG_CTRL_WDOG_MS : RegField := ⟨0x510, (.lin 0x4), 9, 0, .rw, (.val 0x64), some (10, 1000), .no, false⟩
def Fld.WDOG_CTRL_WDOG_EN : RegField := ⟨0x510, (.lin 0x4), 16, 16, .rw, (.val 0x1), none, .no, false⟩
def Reg.WDOG_CTRL : RegRow := ⟨0x510, 1, (.lin 0x4), [Fld.WDOG_CTRL_WDOG_MS, Fld.WDOG_CTRL_WDOG_EN]⟩
def Fld.BLOCK_RST_STATUS_YARDS : RegField := ⟨0x514, (.lin 0x4), 3, 0, .ro, (.val 0x0), none, .no, false⟩
def Fld.BLOCK_RST_STATUS_LINKS : RegField := ⟨0x514, (.lin 0x4), 4, 4, .ro, (.val 0x0), none, .no, false⟩
def Fld.BLOCK_RST_STATUS_PORTS : RegField := ⟨0x514, (.lin 0x4), 5, 5, .ro, (.val 0x0), none, .no, false⟩
def Fld.BLOCK_RST_STATUS_AMPS : RegField := ⟨0x514, (.lin 0x4), 6, 6, .ro, (.val 0x0), none, .no, false⟩
def Fld.BLOCK_RST_STATUS_PCIE : RegField := ⟨0x514, (.lin 0x4), 7, 7, .ro, (.val 0x0), none, .no, false⟩
def Fld.BLOCK_RST_STATUS_SPI : RegField := ⟨0x514, (.lin 0x4), 8, 8, .ro, (.val 0x0), none, .no, false⟩
def Fld.BLOCK_RST_STATUS_DROVERS : RegField := ⟨0x514, (.lin 0x4), 31, 16, .ro, (.val 0x0), none, .no, false⟩
def Reg.BLOCK_RST_STATUS : RegRow := ⟨0x514, 1, (.lin 0x4), [Fld.BLOCK_RST_STATUS_YARDS, Fld.BLOCK_RST_STATUS_LINKS, Fld.BLOCK_RST_STATUS_PORTS, Fld.BLOCK_RST_STATUS_AMPS, Fld.BLOCK_RST_STATUS_PCIE, Fld.BLOCK_RST_STATUS_SPI, Fld.BLOCK_RST_STATUS_DROVERS]⟩
def Fld.THERM_CTRL_THERM_WARN : RegField := ⟨0x518, (.lin 0x4), 7, 0, .rw, (.val 0x6E), some (80, 110), .no, false⟩
def Reg.THERM_CTRL : RegRow := ⟨0x518, 1, (.lin 0x4), [Fld.THERM_CTRL_THERM_WARN]⟩
def Fld.THERM_STATUS_TJ_MAX : RegField := ⟨0x51C, (.lin 0x4), 7, 0, .ro, (.val 0x0), none, .no, false⟩
def Fld.THERM_STATUS_SENSOR : RegField := ⟨0x51C, (.lin 0x4), 10, 8, .ro, (.val 0x0), none, .no, false⟩
def Fld.THERM_STATUS_WARN_ACTIVE : RegField := ⟨0x51C, (.lin 0x4), 16, 16, .ro, (.val 0x0), none, .no, false⟩
def Fld.THERM_STATUS_WARN_STICKY : RegField := ⟨0x51C, (.lin 0x4), 17, 17, .w1c, (.val 0x0), none, .no, false⟩
def Reg.THERM_STATUS : RegRow := ⟨0x51C, 1, (.lin 0x4), [Fld.THERM_STATUS_TJ_MAX, Fld.THERM_STATUS_SENSOR, Fld.THERM_STATUS_WARN_ACTIVE, Fld.THERM_STATUS_WARN_STICKY]⟩
def Fld.MAINS_CTRL_MAINS_EN : RegField := ⟨0x520, (.lin 0x4), 0, 0, .rw, (.val 0x1), none, .no, false⟩
def Fld.MAINS_CTRL_N_MISS : RegField := ⟨0x520, (.lin 0x4), 3, 1, .rw, (.val 0x2), some (1, 7), .no, false⟩
def Fld.MAINS_CTRL_MAINS_ACTION : RegField := ⟨0x520, (.lin 0x4), 4, 4, .rw, (.val 0x0), none, .no, false⟩
def Fld.MAINS_CTRL_SHUTDOWN_DELAY : RegField := ⟨0x520, (.lin 0x4), 15, 8, .rw, (.val 0x0), none, .no, false⟩
def Reg.MAINS_CTRL : RegRow := ⟨0x520, 1, (.lin 0x4), [Fld.MAINS_CTRL_MAINS_EN, Fld.MAINS_CTRL_N_MISS, Fld.MAINS_CTRL_MAINS_ACTION, Fld.MAINS_CTRL_SHUTDOWN_DELAY]⟩
def Fld.MAINS_STATUS_PRESENT : RegField := ⟨0x524, (.lin 0x4), 0, 0, .ro, (.val 0x0), none, .no, false⟩
def Fld.MAINS_STATUS_LOST_STICKY : RegField := ⟨0x524, (.lin 0x4), 1, 1, .w1c, (.val 0x0), none, .no, false⟩
def Fld.MAINS_STATUS_SHUTDOWN_STICKY : RegField := ⟨0x524, (.lin 0x4), 2, 2, .w1c, (.val 0x0), none, .no, false⟩
def Fld.MAINS_STATUS_HALF_PERIOD : RegField := ⟨0x524, (.lin 0x4), 27, 16, .ro, (.val 0x0), none, .no, false⟩
def Reg.MAINS_STATUS : RegRow := ⟨0x524, 1, (.lin 0x4), [Fld.MAINS_STATUS_PRESENT, Fld.MAINS_STATUS_LOST_STICKY, Fld.MAINS_STATUS_SHUTDOWN_STICKY, Fld.MAINS_STATUS_HALF_PERIOD]⟩
def Fld.WAKE_CTRL_WAKE_PIN_EN : RegField := ⟨0x528, (.lin 0x4), 0, 0, .rw, (.val 0x1), none, .no, true⟩
def Fld.WAKE_CTRL_WAKE_MAINS : RegField := ⟨0x528, (.lin 0x4), 1, 1, .rw, (.val 0x0), none, .no, true⟩
def Fld.WAKE_CTRL_WAKE_ALARM : RegField := ⟨0x528, (.lin 0x4), 2, 2, .rw, (.val 0x0), none, .no, true⟩
def Fld.WAKE_CTRL_WAKE_SPI : RegField := ⟨0x528, (.lin 0x4), 3, 3, .rw, (.val 0x1), none, .no, true⟩
def Fld.WAKE_CTRL_WAKE_LANE : RegField := ⟨0x528, (.lin 0x4), 4, 4, .rw, (.val 0x0), none, .no, true⟩
def Fld.WAKE_CTRL_WAKE_LANES : RegField := ⟨0x528, (.lin 0x4), 31, 16, .rw, (.val 0x0), none, .no, true⟩
def Reg.WAKE_CTRL : RegRow := ⟨0x528, 1, (.lin 0x4), [Fld.WAKE_CTRL_WAKE_PIN_EN, Fld.WAKE_CTRL_WAKE_MAINS, Fld.WAKE_CTRL_WAKE_ALARM, Fld.WAKE_CTRL_WAKE_SPI, Fld.WAKE_CTRL_WAKE_LANE, Fld.WAKE_CTRL_WAKE_LANES]⟩
def Fld.WAKE_STATUS_SOURCE : RegField := ⟨0x52C, (.lin 0x4), 2, 0, .ro, (.val 0x0), none, .no, false⟩
def Fld.WAKE_STATUS_LANE : RegField := ⟨0x52C, (.lin 0x4), 13, 8, .ro, (.val 0x0), none, .no, false⟩
def Reg.WAKE_STATUS : RegRow := ⟨0x52C, 1, (.lin 0x4), [Fld.WAKE_STATUS_SOURCE, Fld.WAKE_STATUS_LANE]⟩
def Fld.PWR_CTRL_PWR_GAP : RegField := ⟨0x530, (.lin 0x4), 7, 0, .rw, (.val 0xA), some (1, 100), .no, false⟩
def Fld.PWR_CTRL_PGOOD_TIMEOUT : RegField := ⟨0x530, (.lin 0x4), 15, 8, .rw, (.val 0x32), some (1, 255), .no, false⟩
def Reg.PWR_CTRL : RegRow := ⟨0x530, 1, (.lin 0x4), [Fld.PWR_CTRL_PWR_GAP, Fld.PWR_CTRL_PGOOD_TIMEOUT]⟩
def Fld.SUPPLY_STATUS_PWR_GOOD : RegField := ⟨0x534, (.lin 0x4), 0, 0, .ro, (.val 0x0), none, .no, false⟩
def Fld.SUPPLY_STATUS_PGOOD_FAIL : RegField := ⟨0x534, (.lin 0x4), 1, 1, .w1c, (.val 0x0), none, .no, false⟩
def Fld.SUPPLY_STATUS_VBAK_LOW : RegField := ⟨0x534, (.lin 0x4), 2, 2, .ro, (.val 0x0), none, .no, false⟩
def Fld.SUPPLY_STATUS_VCORE_LOW : RegField := ⟨0x534, (.lin 0x4), 4, 4, .w1c, (.val 0x0), none, .no, false⟩
def Reg.SUPPLY_STATUS : RegRow := ⟨0x534, 1, (.lin 0x4), [Fld.SUPPLY_STATUS_PWR_GOOD, Fld.SUPPLY_STATUS_PGOOD_FAIL, Fld.SUPPLY_STATUS_VBAK_LOW, Fld.SUPPLY_STATUS_VCORE_LOW]⟩
def Fld.BK_SEC_LO_SEC_LO : RegField := ⟨0x540, (.lin 0x4), 31, 0, .rw, (.val 0x0), none, .no, true⟩
def Reg.BK_SEC_LO : RegRow := ⟨0x540, 1, (.lin 0x4), [Fld.BK_SEC_LO_SEC_LO]⟩
def Fld.BK_SEC_HI_SEC_HI : RegField := ⟨0x544, (.lin 0x4), 15, 0, .rw, (.val 0x0), none, .no, true⟩
def Reg.BK_SEC_HI : RegRow := ⟨0x544, 1, (.lin 0x4), [Fld.BK_SEC_HI_SEC_HI]⟩
def Fld.BK_ALARM_LO_ALARM_LO : RegField := ⟨0x548, (.lin 0x4), 31, 0, .rw, (.val 0x0), none, .no, true⟩
def Reg.BK_ALARM_LO : RegRow := ⟨0x548, 1, (.lin 0x4), [Fld.BK_ALARM_LO_ALARM_LO]⟩
def Fld.BK_ALARM_HI_ALARM_HI : RegField := ⟨0x54C, (.lin 0x4), 15, 0, .rw, (.val 0x0), none, .no, true⟩
def Reg.BK_ALARM_HI : RegRow := ⟨0x54C, 1, (.lin 0x4), [Fld.BK_ALARM_HI_ALARM_HI]⟩
def Fld.AVS_IF_CTRL_PMBUS_ADDR : RegField := ⟨0x550, (.lin 0x4), 6, 0, .rw, .option, none, .no, false⟩
def Fld.AVS_IF_CTRL_VOFS : RegField := ⟨0x550, (.lin 0x4), 15, 8, .rw, .option, some (0, 50), .no, false⟩
def Fld.AVS_IF_CTRL_IF_EN : RegField := ⟨0x550, (.lin 0x4), 16, 16, .rw, .option, none, .no, false⟩
def Reg.AVS_IF_CTRL : RegRow := ⟨0x550, 1, (.lin 0x4), [Fld.AVS_IF_CTRL_PMBUS_ADDR, Fld.AVS_IF_CTRL_VOFS, Fld.AVS_IF_CTRL_IF_EN]⟩
def Fld.AVS_IF_STATUS_ACKED : RegField := ⟨0x554, (.lin 0x4), 9, 0, .ro, (.val 0x0), none, .no, false⟩
def Fld.AVS_IF_STATUS_IF_FAULT : RegField := ⟨0x554, (.lin 0x4), 16, 16, .ro, (.val 0x0), none, .no, false⟩
def Fld.AVS_IF_STATUS_NACK_STICKY : RegField := ⟨0x554, (.lin 0x4), 17, 17, .w1c, (.val 0x0), none, .no, false⟩
def Reg.AVS_IF_STATUS : RegRow := ⟨0x554, 1, (.lin 0x4), [Fld.AVS_IF_STATUS_ACKED, Fld.AVS_IF_STATUS_IF_FAULT, Fld.AVS_IF_STATUS_NACK_STICKY]⟩
def Fld.VCORE_MEAS_MEAS : RegField := ⟨0x558, (.lin 0x4), 9, 0, .ro, (.val 0x0), none, .no, false⟩
def Fld.VCORE_MEAS_LOWEST : RegField := ⟨0x558, (.lin 0x4), 25, 16, .ro, (.val 0x0), none, .no, false⟩
def Reg.VCORE_MEAS : RegRow := ⟨0x558, 1, (.lin 0x4), [Fld.VCORE_MEAS_MEAS, Fld.VCORE_MEAS_LOWEST]⟩
def Fld.BOOT_CTRL_GO : RegField := ⟨0x570, (.lin 0x4), 0, 0, .wo, (.val 0x0), none, .no, false⟩
def Fld.BOOT_CTRL_BUSY : RegField := ⟨0x570, (.lin 0x4), 1, 1, .ro, (.val 0x0), none, .no, false⟩
def Fld.BOOT_CTRL_FAIL : RegField := ⟨0x570, (.lin 0x4), 2, 2, .ro, (.val 0x0), none, .no, false⟩
def Reg.BOOT_CTRL : RegRow := ⟨0x570, 1, (.lin 0x4), [Fld.BOOT_CTRL_GO, Fld.BOOT_CTRL_BUSY, Fld.BOOT_CTRL_FAIL]⟩
def Fld.BOOT_DATA_WORD : RegField := ⟨0x574, (.lin 0x4), 31, 0, .wo, (.val 0x0), none, .no, false⟩
def Reg.BOOT_DATA : RegRow := ⟨0x574, 1, (.lin 0x4), [Fld.BOOT_DATA_WORD]⟩
def Fld.BOOT_LEN_LEN : RegField := ⟨0x578, (.lin 0x4), 31, 0, .rw, (.val 0x0), none, .no, false⟩
def Reg.BOOT_LEN : RegRow := ⟨0x578, 1, (.lin 0x4), [Fld.BOOT_LEN_LEN]⟩
def Fld.OVR_CTRL_EN0 : RegField := ⟨0x600, (.lin 0x4), 0, 0, .rw, (.val 0x0), none, .no, false⟩
def Fld.OVR_CTRL_POL0 : RegField := ⟨0x600, (.lin 0x4), 1, 1, .rw, (.val 0x0), none, .no, false⟩
def Fld.OVR_CTRL_LATCH0 : RegField := ⟨0x600, (.lin 0x4), 2, 2, .rw, (.val 0x0), none, .no, false⟩
def Fld.OVR_CTRL_ROUTE0 : RegField := ⟨0x600, (.lin 0x4), 4, 3, .rw, (.val 0x0), none, .no, false⟩
def Fld.OVR_CTRL_EN1 : RegField := ⟨0x600, (.lin 0x4), 8, 8, .rw, (.val 0x0), none, .no, false⟩
def Fld.OVR_CTRL_POL1 : RegField := ⟨0x600, (.lin 0x4), 9, 9, .rw, (.val 0x0), none, .no, false⟩
def Fld.OVR_CTRL_LATCH1 : RegField := ⟨0x600, (.lin 0x4), 10, 10, .rw, (.val 0x0), none, .no, false⟩
def Fld.OVR_CTRL_ROUTE1 : RegField := ⟨0x600, (.lin 0x4), 12, 11, .rw, (.val 0x1), none, .no, false⟩
def Fld.OVR_CTRL_EN2 : RegField := ⟨0x600, (.lin 0x4), 16, 16, .rw, (.val 0x0), none, .no, false⟩
def Fld.OVR_CTRL_POL2 : RegField := ⟨0x600, (.lin 0x4), 17, 17, .rw, (.val 0x0), none, .no, false⟩
def Fld.OVR_CTRL_LATCH2 : RegField := ⟨0x600, (.lin 0x4), 18, 18, .rw, (.val 0x0), none, .no, false⟩
def Fld.OVR_CTRL_ROUTE2 : RegField := ⟨0x600, (.lin 0x4), 20, 19, .rw, (.val 0x2), none, .no, false⟩
def Fld.OVR_CTRL_EN3 : RegField := ⟨0x600, (.lin 0x4), 24, 24, .rw, (.val 0x0), none, .no, false⟩
def Fld.OVR_CTRL_POL3 : RegField := ⟨0x600, (.lin 0x4), 25, 25, .rw, (.val 0x0), none, .no, false⟩
def Fld.OVR_CTRL_LATCH3 : RegField := ⟨0x600, (.lin 0x4), 26, 26, .rw, (.val 0x0), none, .no, false⟩
def Fld.OVR_CTRL_ROUTE3 : RegField := ⟨0x600, (.lin 0x4), 28, 27, .rw, (.val 0x3), none, .no, false⟩
def Reg.OVR_CTRL : RegRow := ⟨0x600, 1, (.lin 0x4), [Fld.OVR_CTRL_EN0, Fld.OVR_CTRL_POL0, Fld.OVR_CTRL_LATCH0, Fld.OVR_CTRL_ROUTE0, Fld.OVR_CTRL_EN1, Fld.OVR_CTRL_POL1, Fld.OVR_CTRL_LATCH1, Fld.OVR_CTRL_ROUTE1, Fld.OVR_CTRL_EN2, Fld.OVR_CTRL_POL2, Fld.OVR_CTRL_LATCH2, Fld.OVR_CTRL_ROUTE2, Fld.OVR_CTRL_EN3, Fld.OVR_CTRL_POL3, Fld.OVR_CTRL_LATCH3, Fld.OVR_CTRL_ROUTE3]⟩
def Fld.OVR_HOLD_OFF_HOLD : RegField := ⟨0x604, (.lin 0x4), 13, 0, .rw, (.val 0x1F4), some (0, 10000), .no, false⟩
def Reg.OVR_HOLD : RegRow := ⟨0x604, 1, (.lin 0x4), [Fld.OVR_HOLD_OFF_HOLD]⟩
def Fld.OVR_STATUS_IN_RAW : RegField := ⟨0x608, (.lin 0x4), 3, 0, .ro, (.val 0x0), none, .no, false⟩
def Fld.OVR_STATUS_IN_ACTIVE : RegField := ⟨0x608, (.lin 0x4), 7, 4, .ro, (.val 0x0), none, .no, false⟩
def Fld.OVR_STATUS_CMD : RegField := ⟨0x608, (.lin 0x4), 11, 8, .ro, (.val 0x0), none, .no, false⟩
def Fld.OVR_STATUS_ACTIVE : RegField := ⟨0x608, (.lin 0x4), 15, 12, .ro, (.val 0x0), none, .no, false⟩
def Fld.OVR_STATUS_IN_EFFECT : RegField := ⟨0x608, (.lin 0x4), 16, 16, .ro, (.val 0x0), none, .no, false⟩
def Fld.OVR_STATUS_OVR_STICKY : RegField := ⟨0x608, (.lin 0x4), 24, 24, .w1c, (.val 0x0), none, .no, false⟩
def Fld.OVR_STATUS_CFG_ERR : RegField := ⟨0x608, (.lin 0x4), 25, 25, .w1c, (.val 0x0), none, .no, false⟩
def Reg.OVR_STATUS : RegRow := ⟨0x608, 1, (.lin 0x4), [Fld.OVR_STATUS_IN_RAW, Fld.OVR_STATUS_IN_ACTIVE, Fld.OVR_STATUS_CMD, Fld.OVR_STATUS_ACTIVE, Fld.OVR_STATUS_IN_EFFECT, Fld.OVR_STATUS_OVR_STICKY, Fld.OVR_STATUS_CFG_ERR]⟩
def Fld.OVR_FRAME_LO_FRAME_LO : RegField := ⟨0x60C, (.lin 0x4), 31, 0, .ro, .kept, none, .no, false⟩
def Reg.OVR_FRAME_LO : RegRow := ⟨0x60C, 1, (.lin 0x4), [Fld.OVR_FRAME_LO_FRAME_LO]⟩
def Fld.OVR_FRAME_HI_FRAME_HI : RegField := ⟨0x610, (.lin 0x4), 31, 0, .ro, .kept, none, .no, false⟩
def Reg.OVR_FRAME_HI : RegRow := ⟨0x610, 1, (.lin 0x4), [Fld.OVR_FRAME_HI_FRAME_HI]⟩
def Fld.OVR_COUNT_TAKEN : RegField := ⟨0x614, (.lin 0x4), 15, 0, .ro, (.val 0x0), none, .no, false⟩
def Fld.OVR_COUNT_LEFT : RegField := ⟨0x614, (.lin 0x4), 31, 16, .ro, (.val 0x0), none, .no, false⟩
def Reg.OVR_COUNT : RegRow := ⟨0x614, 1, (.lin 0x4), [Fld.OVR_COUNT_TAKEN, Fld.OVR_COUNT_LEFT]⟩
def Fld.OVR_UNLATCH_UNLATCH : RegField := ⟨0x618, (.lin 0x4), 3, 0, .wo, (.val 0x0), none, .no, false⟩
def Reg.OVR_UNLATCH : RegRow := ⟨0x618, 1, (.lin 0x4), [Fld.OVR_UNLATCH_UNLATCH]⟩
def Fld.TEAM_STATUS_REG_MEMBER : RegField := ⟨0x700, (.lin 0x4), 3, 0, .ro, (.val 0xF), none, .no, false⟩
def Fld.TEAM_STATUS_REG_LEADER : RegField := ⟨0x700, (.lin 0x4), 7, 4, .ro, (.val 0xF), none, .no, false⟩
def Fld.TEAM_STATUS_REG_IN_TEAM : RegField := ⟨0x700, (.lin 0x4), 8, 8, .ro, (.val 0x0), none, .no, false⟩
def Fld.TEAM_STATUS_REG_LOCKED : RegField := ⟨0x700, (.lin 0x4), 9, 9, .ro, (.val 0x0), none, .no, false⟩
def Fld.TEAM_STATUS_REG_IS_LEADER : RegField := ⟨0x700, (.lin 0x4), 10, 10, .ro, (.val 0x0), none, .no, false⟩
def Fld.TEAM_STATUS_REG_PRESENT : RegField := ⟨0x700, (.lin 0x4), 31, 16, .ro, (.val 0x0), none, .no, false⟩
def Reg.TEAM_STATUS_REG : RegRow := ⟨0x700, 1, (.lin 0x4), [Fld.TEAM_STATUS_REG_MEMBER, Fld.TEAM_STATUS_REG_LEADER, Fld.TEAM_STATUS_REG_IN_TEAM, Fld.TEAM_STATUS_REG_LOCKED, Fld.TEAM_STATUS_REG_IS_LEADER, Fld.TEAM_STATUS_REG_PRESENT]⟩
def Fld.TEAM_PARENT_TRACE : RegField := ⟨0x704, (.lin 0x4), 5, 0, .ro, (.val 0x0), none, .no, false⟩
def Fld.TEAM_PARENT_VALID : RegField := ⟨0x704, (.lin 0x4), 6, 6, .ro, (.val 0x0), none, .no, false⟩
def Fld.TEAM_PARENT_DEPTH : RegField := ⟨0x704, (.lin 0x4), 7, 7, .ro, (.val 0x0), none, .no, false⟩
def Fld.TEAM_PARENT_HOPS : RegField := ⟨0x704, (.lin 0x4), 9, 8, .ro, (.val 0x0), none, .no, false⟩
def Fld.TEAM_PARENT_LOCK_LOSSES : RegField := ⟨0x704, (.lin 0x4), 31, 16, .ro, (.val 0x0), none, .no, false⟩
def Reg.TEAM_PARENT : RegRow := ⟨0x704, 1, (.lin 0x4), [Fld.TEAM_PARENT_TRACE, Fld.TEAM_PARENT_VALID, Fld.TEAM_PARENT_DEPTH, Fld.TEAM_PARENT_HOPS, Fld.TEAM_PARENT_LOCK_LOSSES]⟩
def Fld.HERD_CTRL_HERD_PRES : RegField := ⟨0x710, (.lin 0x4), 7, 0, .rw, (.val 0x4), some (3, 255), .no, false⟩
def Fld.HERD_CTRL_ANN_PERIOD : RegField := ⟨0x710, (.lin 0x4), 15, 8, .rw, (.val 0xA), some (1, 100), .no, false⟩
def Fld.HERD_CTRL_LOSS_COUNT : RegField := ⟨0x710, (.lin 0x4), 19, 16, .rw, (.val 0x3), some (2, 15), .no, false⟩
def Reg.HERD_CTRL : RegRow := ⟨0x710, 1, (.lin 0x4), [Fld.HERD_CTRL_HERD_PRES, Fld.HERD_CTRL_ANN_PERIOD, Fld.HERD_CTRL_LOSS_COUNT]⟩
def Fld.HERD_STATUS_MEMBERS : RegField := ⟨0x714, (.lin 0x4), 12, 0, .ro, (.val 0x0), none, .no, false⟩
def Fld.HERD_STATUS_DUP_ID : RegField := ⟨0x714, (.lin 0x4), 13, 13, .w1c, (.val 0x0), none, .no, false⟩
def Fld.HERD_STATUS_PRES_MISMATCH : RegField := ⟨0x714, (.lin 0x4), 14, 14, .w1c, (.val 0x0), none, .no, false⟩
def Fld.HERD_STATUS_CFG_ERR : RegField := ⟨0x714, (.lin 0x4), 15, 15, .w1c, (.val 0x0), none, .no, false⟩
def Reg.HERD_STATUS : RegRow := ⟨0x714, 1, (.lin 0x4), [Fld.HERD_STATUS_MEMBERS, Fld.HERD_STATUS_DUP_ID, Fld.HERD_STATUS_PRES_MISMATCH, Fld.HERD_STATUS_CFG_ERR]⟩
def Fld.HERD_LATE_COUNT_COUNT : RegField := ⟨0x718, (.lin 0x4), 31, 0, .ro, (.val 0x0), none, .no, false⟩
def Reg.HERD_LATE_COUNT : RegRow := ⟨0x718, 1, (.lin 0x4), [Fld.HERD_LATE_COUNT_COUNT]⟩
def Fld.HERD_MARGIN_MARGIN : RegField := ⟨0x71C, (.lin 0x4), 15, 0, .ro, (.val 0xFFFF), none, .no, false⟩
def Reg.HERD_MARGIN : RegRow := ⟨0x71C, 1, (.lin 0x4), [Fld.HERD_MARGIN_MARGIN]⟩
def Fld.HERD_ROUTE_DROP_PACKETS : RegField := ⟨0x720, (.lin 0x4), 15, 0, .ro, (.val 0x0), none, .no, false⟩
def Fld.HERD_ROUTE_DROP_RECORDS : RegField := ⟨0x720, (.lin 0x4), 31, 16, .ro, (.val 0x0), none, .no, false⟩
def Reg.HERD_ROUTE_DROP : RegRow := ⟨0x720, 1, (.lin 0x4), [Fld.HERD_ROUTE_DROP_PACKETS, Fld.HERD_ROUTE_DROP_RECORDS]⟩
def Fld.SHADOW_CTRL_AUTO_EN : RegField := ⟨0x740, (.lin 0x4), 0, 0, .rw, (.val 0x1), none, .no, false⟩
def Fld.SHADOW_CTRL_AUTO_REACQ : RegField := ⟨0x740, (.lin 0x4), 1, 1, .rw, (.val 0x1), none, .no, false⟩
def Fld.SHADOW_CTRL_FORCE_EN : RegField := ⟨0x740, (.lin 0x4), 2, 2, .rw, (.val 0x0), none, .no, false⟩
def Fld.SHADOW_CTRL_PORT_HIZ : RegField := ⟨0x740, (.lin 0x4), 3, 3, .rw, (.val 0x1), none, .no, false⟩
def Fld.SHADOW_CTRL_LOCK_FRAMES : RegField := ⟨0x740, (.lin 0x4), 15, 4, .rw, (.val 0x400), some (16, 4095), .no, false⟩
def Fld.SHADOW_CTRL_CUT_WAIT : RegField := ⟨0x740, (.lin 0x4), 26, 16, .rw, (.val 0x3E8), some (0, 2000), .no, false⟩
def Reg.SHADOW_CTRL : RegRow := ⟨0x740, 1, (.lin 0x4), [Fld.SHADOW_CTRL_AUTO_EN, Fld.SHADOW_CTRL_AUTO_REACQ, Fld.SHADOW_CTRL_FORCE_EN, Fld.SHADOW_CTRL_PORT_HIZ, Fld.SHADOW_CTRL_LOCK_FRAMES, Fld.SHADOW_CTRL_CUT_WAIT]⟩
def Fld.SHADOW_STATUS_STATE : RegField := ⟨0x744, (.lin 0x4), 2, 0, .ro, (.val 0x0), none, .no, false⟩
def Fld.SHADOW_STATUS_PAIR_ACT : RegField := ⟨0x744, (.lin 0x4), 3, 3, .ro, (.val 0x0), none, .no, false⟩
def Fld.SHADOW_STATUS_PAIR_SENSE : RegField := ⟨0x744, (.lin 0x4), 4, 4, .ro, (.val 0x0), none, .no, false⟩
def Fld.SHADOW_STATUS_ACQ_PROGRESS : RegField := ⟨0x744, (.lin 0x4), 15, 8, .ro, (.val 0x0), none, .no, false⟩
def Fld.SHADOW_STATUS_DIV_STICKY : RegField := ⟨0x744, (.lin 0x4), 16, 16, .w1c, (.val 0x0), none, .no, false⟩
def Fld.SHADOW_STATUS_SWITCH_STICKY : RegField := ⟨0x744, (.lin 0x4), 17, 17, .w1c, (.val 0x0), none, .no, false⟩
def Fld.SHADOW_STATUS_ORPHAN_STICKY : RegField := ⟨0x744, (.lin 0x4), 18, 18, .w1c, (.val 0x0), none, .no, false⟩
def Reg.SHADOW_STATUS : RegRow := ⟨0x744, 1, (.lin 0x4), [Fld.SHADOW_STATUS_STATE, Fld.SHADOW_STATUS_PAIR_ACT, Fld.SHADOW_STATUS_PAIR_SENSE, Fld.SHADOW_STATUS_ACQ_PROGRESS, Fld.SHADOW_STATUS_DIV_STICKY, Fld.SHADOW_STATUS_SWITCH_STICKY, Fld.SHADOW_STATUS_ORPHAN_STICKY]⟩
def Fld.SHADOW_PARTNER_PARTNER : RegField := ⟨0x748, (.lin 0x4), 17, 0, .ro, (.val 0x0), none, .no, false⟩
def Fld.SHADOW_PARTNER_ROLE : RegField := ⟨0x748, (.lin 0x4), 19, 18, .ro, (.val 0x0), none, .no, false⟩
def Reg.SHADOW_PARTNER : RegRow := ⟨0x748, 1, (.lin 0x4), [Fld.SHADOW_PARTNER_PARTNER, Fld.SHADOW_PARTNER_ROLE]⟩
def Fld.SHADOW_MIRROR_TRACE : RegField := ⟨0x74C, (.lin 0x4), 5, 0, .ro, (.val 0x0), none, .no, false⟩
def Fld.SHADOW_MIRROR_VALID : RegField := ⟨0x74C, (.lin 0x4), 6, 6, .ro, (.val 0x0), none, .no, false⟩
def Fld.SHADOW_MIRROR_STATE_CAP : RegField := ⟨0x74C, (.lin 0x4), 31, 16, .ro, (.val 0x0), none, .no, false⟩
def Reg.SHADOW_MIRROR : RegRow := ⟨0x74C, 1, (.lin 0x4), [Fld.SHADOW_MIRROR_TRACE, Fld.SHADOW_MIRROR_VALID, Fld.SHADOW_MIRROR_STATE_CAP]⟩
def Fld.SHADOW_DIV_COUNT_COUNT : RegField := ⟨0x750, (.lin 0x4), 31, 0, .ro, (.val 0x0), none, .no, false⟩
def Reg.SHADOW_DIV_COUNT : RegRow := ⟨0x750, 1, (.lin 0x4), [Fld.SHADOW_DIV_COUNT_COUNT]⟩
def Fld.SHADOW_SKIP_COUNT_COUNT : RegField := ⟨0x754, (.lin 0x4), 31, 0, .ro, (.val 0x0), none, .no, false⟩
def Reg.SHADOW_SKIP_COUNT : RegRow := ⟨0x754, 1, (.lin 0x4), [Fld.SHADOW_SKIP_COUNT_COUNT]⟩
def Fld.SHADOW_SWITCH_COUNT_SWITCHES : RegField := ⟨0x758, (.lin 0x4), 15, 0, .ro, (.val 0x0), none, .no, false⟩
def Fld.SHADOW_SWITCH_COUNT_CUT_MISS : RegField := ⟨0x758, (.lin 0x4), 31, 16, .ro, (.val 0x0), none, .no, false⟩
def Reg.SHADOW_SWITCH_COUNT : RegRow := ⟨0x758, 1, (.lin 0x4), [Fld.SHADOW_SWITCH_COUNT_SWITCHES, Fld.SHADOW_SWITCH_COUNT_CUT_MISS]⟩
def Fld.SHADOW_LAST_DIV_LO_FRAME_LO : RegField := ⟨0x760, (.lin 0x4), 31, 0, .ro, .kept, none, .no, false⟩
def Reg.SHADOW_LAST_DIV_LO : RegRow := ⟨0x760, 1, (.lin 0x4), [Fld.SHADOW_LAST_DIV_LO_FRAME_LO]⟩
def Fld.SHADOW_LAST_DIV_HI_FRAME_HI : RegField := ⟨0x764, (.lin 0x4), 31, 0, .ro, .kept, none, .no, false⟩
def Reg.SHADOW_LAST_DIV_HI : RegRow := ⟨0x764, 1, (.lin 0x4), [Fld.SHADOW_LAST_DIV_HI_FRAME_HI]⟩
def Fld.FIELD_ROUTE_TRACE0 : RegField := ⟨0x7C0, (.lin 0x4), 5, 0, .rw, (.val 0x0), none, .no, false⟩
def Fld.FIELD_ROUTE_EN0 : RegField := ⟨0x7C0, (.lin 0x4), 6, 6, .rw, (.val 0x0), none, .no, false⟩
def Fld.FIELD_ROUTE_TRACE1 : RegField := ⟨0x7C0, (.lin 0x4), 13, 8, .rw, (.val 0x0), none, .no, false⟩
def Fld.FIELD_ROUTE_EN1 : RegField := ⟨0x7C0, (.lin 0x4), 14, 14, .rw, (.val 0x0), none, .no, false⟩
def Fld.FIELD_ROUTE_TRACE2 : RegField := ⟨0x7C0, (.lin 0x4), 21, 16, .rw, (.val 0x0), none, .no, false⟩
def Fld.FIELD_ROUTE_EN2 : RegField := ⟨0x7C0, (.lin 0x4), 22, 22, .rw, (.val 0x0), none, .no, false⟩
def Fld.FIELD_ROUTE_TRACE3 : RegField := ⟨0x7C0, (.lin 0x4), 29, 24, .rw, (.val 0x0), none, .no, false⟩
def Fld.FIELD_ROUTE_EN3 : RegField := ⟨0x7C0, (.lin 0x4), 30, 30, .rw, (.val 0x0), none, .no, false⟩
def Reg.FIELD_ROUTE : RegRow := ⟨0x7C0, 16, (.lin 0x4), [Fld.FIELD_ROUTE_TRACE0, Fld.FIELD_ROUTE_EN0, Fld.FIELD_ROUTE_TRACE1, Fld.FIELD_ROUTE_EN1, Fld.FIELD_ROUTE_TRACE2, Fld.FIELD_ROUTE_EN2, Fld.FIELD_ROUTE_TRACE3, Fld.FIELD_ROUTE_EN3]⟩
def Fld.CLK_CTRL_FORCE_CAND : RegField := ⟨0x10000, (.lin 0x4), 3, 0, .rw, (.val 0x0), some (0, 9), .no, false⟩
def Fld.CLK_CTRL_FORCED : RegField := ⟨0x10000, (.lin 0x4), 4, 4, .rw, (.val 0x0), none, .no, false⟩
def Fld.CLK_CTRL_REVERT : RegField := ⟨0x10000, (.lin 0x4), 5, 5, .rw, (.val 0x1), none, .no, false⟩
def Fld.CLK_CTRL_PHASE_STEP_EN : RegField := ⟨0x10000, (.lin 0x4), 6, 6, .rw, (.val 0x1), none, .no, false⟩
def Fld.CLK_CTRL_QUAL_TIME : RegField := ⟨0x10000, (.lin 0x4), 15, 8, .rw, (.val 0xA), some (1, 255), .no, false⟩
def Fld.CLK_CTRL_FREQ_WIN : RegField := ⟨0x10000, (.lin 0x4), 23, 16, .rw, (.val 0x64), some (1, 255), .no, false⟩
def Reg.CLK_CTRL : RegRow := ⟨0x10000, 1, (.lin 0x4), [Fld.CLK_CTRL_FORCE_CAND, Fld.CLK_CTRL_FORCED, Fld.CLK_CTRL_REVERT, Fld.CLK_CTRL_PHASE_STEP_EN, Fld.CLK_CTRL_QUAL_TIME, Fld.CLK_CTRL_FREQ_WIN]⟩
def Fld.CLK_STATUS_ACTIVE : RegField := ⟨0x10004, (.lin 0x4), 3, 0, .ro, (.val 0xF), none, .no, false⟩
def Fld.CLK_STATUS_DPLL : RegField := ⟨0x10004, (.lin 0x4), 5, 4, .ro, (.val 0x0), none, .no, false⟩
def Fld.CLK_STATUS_FRAME_MAPPED : RegField := ⟨0x10004, (.lin 0x4), 6, 6, .ro, (.val 0x0), none, .no, false⟩
def Fld.CLK_STATUS_HERD_LOCKED : RegField := ⟨0x10004, (.lin 0x4), 7, 7, .ro, (.val 0x0), none, .no, false⟩
def Fld.CLK_STATUS_MAP_DOM : RegField := ⟨0x10004, (.lin 0x4), 8, 8, .ro, (.val 0x0), none, .no, false⟩
def Fld.CLK_STATUS_SWITCH_STICKY : RegField := ⟨0x10004, (.lin 0x4), 16, 16, .w1c, (.val 0x0), none, .no, false⟩
def Fld.CLK_STATUS_HOLDOVER_STICKY : RegField := ⟨0x10004, (.lin 0x4), 17, 17, .w1c, (.val 0x0), none, .no, false⟩
def Fld.CLK_STATUS_EPOCH_AHEAD : RegField := ⟨0x10004, (.lin 0x4), 18, 18, .w1c, (.val 0x0), none, .no, false⟩
def Fld.CLK_STATUS_MAP_MISMATCH : RegField := ⟨0x10004, (.lin 0x4), 19, 19, .w1c, (.val 0x0), none, .no, false⟩
def Fld.CLK_STATUS_CFG_ERR : RegField := ⟨0x10004, (.lin 0x4), 20, 20, .w1c, (.val 0x0), none, .no, false⟩
def Reg.CLK_STATUS : RegRow := ⟨0x10004, 1, (.lin 0x4), [Fld.CLK_STATUS_ACTIVE, Fld.CLK_STATUS_DPLL, Fld.CLK_STATUS_FRAME_MAPPED, Fld.CLK_STATUS_HERD_LOCKED, Fld.CLK_STATUS_MAP_DOM, Fld.CLK_STATUS_SWITCH_STICKY, Fld.CLK_STATUS_HOLDOVER_STICKY, Fld.CLK_STATUS_EPOCH_AHEAD, Fld.CLK_STATUS_MAP_MISMATCH, Fld.CLK_STATUS_CFG_ERR]⟩
def Fld.CLK_CAND_EN : RegField := ⟨0x10010, (.lin 0x4), 0, 0, .rw, .candEn, none, .no, false⟩
def Fld.CLK_CAND_TYPE : RegField := ⟨0x10010, (.lin 0x4), 2, 1, .rw, (.val 0x0), some (0, 2), .no, false⟩
def Fld.CLK_CAND_PRIO : RegField := ⟨0x10010, (.lin 0x4), 7, 4, .rw, (.val 0x8), none, .no, false⟩
def Fld.CLK_CAND_QCLASS : RegField := ⟨0x10010, (.lin 0x4), 15, 8, .rw, .candQclass, none, .no, false⟩
def Fld.CLK_CAND_BW : RegField := ⟨0x10010, (.lin 0x4), 18, 16, .rw, .candBw, none, .no, false⟩
def Fld.CLK_CAND_LANE : RegField := ⟨0x10010, (.lin 0x4), 29, 24, .rw, (.val 0x0), none, .no, false⟩
def Reg.CLK_CAND : RegRow := ⟨0x10010, 10, (.lin 0x4), [Fld.CLK_CAND_EN, Fld.CLK_CAND_TYPE, Fld.CLK_CAND_PRIO, Fld.CLK_CAND_QCLASS, Fld.CLK_CAND_BW, Fld.CLK_CAND_LANE]⟩
def Fld.CLK_CAND_STATUS_VALID : RegField := ⟨0x10040, (.lin 0x4), 0, 0, .ro, (.val 0x0), none, .no, false⟩
def Fld.CLK_CAND_STATUS_QUALIFYING : RegField := ⟨0x10040, (.lin 0x4), 1, 1, .ro, (.val 0x0), none, .no, false⟩
def Fld.CLK_CAND_STATUS_ACTIVE : RegField := ⟨0x10040, (.lin 0x4), 2, 2, .ro, (.val 0x0), none, .no, false⟩
def Fld.CLK_CAND_STATUS_CLASS : RegField := ⟨0x10040, (.lin 0x4), 15, 8, .ro, (.val 0xFF), none, .no, false⟩
def Fld.CLK_CAND_STATUS_FOFFS : RegField := ⟨0x10040, (.lin 0x4), 31, 16, .ro, (.val 0x8000), none, .no, false⟩
def Reg.CLK_CAND_STATUS : RegRow := ⟨0x10040, 10, (.lin 0x4), [Fld.CLK_CAND_STATUS_VALID, Fld.CLK_CAND_STATUS_QUALIFYING, Fld.CLK_CAND_STATUS_ACTIVE, Fld.CLK_CAND_STATUS_CLASS, Fld.CLK_CAND_STATUS_FOFFS]⟩
def Fld.HOLDOVER_CFG_AVG : RegField := ⟨0x10070, (.lin 0x4), 7, 0, .rw, (.val 0x64), some (1, 255), .no, false⟩
def Fld.HOLDOVER_CFG_GUARD : RegField := ⟨0x10070, (.lin 0x4), 15, 8, .rw, (.val 0x5), some (1, 60), .no, false⟩
def Reg.HOLDOVER_CFG : RegRow := ⟨0x10070, 1, (.lin 0x4), [Fld.HOLDOVER_CFG_AVG, Fld.HOLDOVER_CFG_GUARD]⟩
def Fld.DPLL_FREQ_FREQ : RegField := ⟨0x10074, (.lin 0x4), 31, 0, .ro, (.val 0x0), none, .no, false⟩
def Reg.DPLL_FREQ : RegRow := ⟨0x10074, 1, (.lin 0x4), [Fld.DPLL_FREQ_FREQ]⟩
def Fld.DPLL_PHASE_PHASE : RegField := ⟨0x10078, (.lin 0x4), 31, 0, .ro, (.val 0x0), none, .no, false⟩
def Reg.DPLL_PHASE : RegRow := ⟨0x10078, 1, (.lin 0x4), [Fld.DPLL_PHASE_PHASE]⟩
def Fld.HO_HISTORY_SECONDS : RegField := ⟨0x1007C, (.lin 0x4), 15, 0, .ro, (.val 0x0), none, .no, false⟩
def Reg.HO_HISTORY : RegRow := ⟨0x1007C, 1, (.lin 0x4), [Fld.HO_HISTORY_SECONDS]⟩
def Fld.HERD_EPOCH_LO_SEC_LO : RegField := ⟨0x10080, (.lin 0x4), 31, 0, .rw, (.val 0x0), none, .no, false⟩
def Reg.HERD_EPOCH_LO : RegRow := ⟨0x10080, 1, (.lin 0x4), [Fld.HERD_EPOCH_LO_SEC_LO]⟩
def Fld.HERD_EPOCH_HI_SEC_HI : RegField := ⟨0x10084, (.lin 0x4), 15, 0, .rw, (.val 0x0), none, .no, false⟩
def Reg.HERD_EPOCH_HI : RegRow := ⟨0x10084, 1, (.lin 0x4), [Fld.HERD_EPOCH_HI_SEC_HI]⟩
def Fld.MAP_FRAME_LO_FRAME_LO : RegField := ⟨0x10088, (.lin 0x4), 31, 0, .ro, (.val 0x0), none, .no, false⟩
def Reg.MAP_FRAME_LO : RegRow := ⟨0x10088, 1, (.lin 0x4), [Fld.MAP_FRAME_LO_FRAME_LO]⟩
def Fld.MAP_FRAME_HI_FRAME_HI : RegField := ⟨0x1008C, (.lin 0x4), 31, 0, .ro, (.val 0x0), none, .no, false⟩
def Reg.MAP_FRAME_HI : RegRow := ⟨0x1008C, 1, (.lin 0x4), [Fld.MAP_FRAME_HI_FRAME_HI]⟩
def Fld.MAP_SEC_LO_SEC_LO : RegField := ⟨0x10090, (.lin 0x4), 31, 0, .ro, (.val 0x0), none, .no, false⟩
def Reg.MAP_SEC_LO : RegRow := ⟨0x10090, 1, (.lin 0x4), [Fld.MAP_SEC_LO_SEC_LO]⟩
def Fld.MAP_SEC_HI_SEC_HI : RegField := ⟨0x10094, (.lin 0x4), 15, 0, .ro, (.val 0x0), none, .no, false⟩
def Fld.MAP_SEC_HI_SUBNS : RegField := ⟨0x10094, (.lin 0x4), 31, 16, .ro, (.val 0x0), none, .no, false⟩
def Reg.MAP_SEC_HI : RegRow := ⟨0x10094, 1, (.lin 0x4), [Fld.MAP_SEC_HI_SEC_HI, Fld.MAP_SEC_HI_SUBNS]⟩
def Fld.MAP_NS_NS : RegField := ⟨0x10098, (.lin 0x4), 31, 0, .ro, (.val 0x0), none, .no, false⟩
def Reg.MAP_NS : RegRow := ⟨0x10098, 1, (.lin 0x4), [Fld.MAP_NS_NS]⟩
def Fld.PTP_CFG_HARNESS_EN : RegField := ⟨0x10100, (.lin 0x40), 0, 0, .rw, (.val 0x0), none, .no, false⟩
def Fld.PTP_CFG_ETH_PROFILE : RegField := ⟨0x10100, (.lin 0x40), 2, 1, .rw, (.val 0x0), none, .no, false⟩
def Fld.PTP_CFG_STEP_EN : RegField := ⟨0x10100, (.lin 0x40), 3, 3, .rw, (.val 0x0), none, .no, false⟩
def Fld.PTP_CFG_HDOM : RegField := ⟨0x10100, (.lin 0x40), 10, 4, .rw, (.val 0x0), none, .no, false⟩
def Fld.PTP_CFG_EDOM : RegField := ⟨0x10100, (.lin 0x40), 17, 11, .rw, (.val 0x0), none, .no, false⟩
def Fld.PTP_CFG_SLAVE_ONLY : RegField := ⟨0x10100, (.lin 0x40), 18, 18, .rw, (.val 0x0), none, .no, false⟩
def Fld.PTP_CFG_SERVO_BW : RegField := ⟨0x10100, (.lin 0x40), 21, 19, .rw, (.val 0x3), some (0, 4), .no, false⟩
def Reg.PTP_CFG : RegRow := ⟨0x10100, 2, (.lin 0x40), [Fld.PTP_CFG_HARNESS_EN, Fld.PTP_CFG_ETH_PROFILE, Fld.PTP_CFG_STEP_EN, Fld.PTP_CFG_HDOM, Fld.PTP_CFG_EDOM, Fld.PTP_CFG_SLAVE_ONLY, Fld.PTP_CFG_SERVO_BW]⟩
def Fld.PTP_DS_PRIORITY1 : RegField := ⟨0x10104, (.lin 0x40), 7, 0, .rw, (.val 0x80), none, .no, false⟩
def Fld.PTP_DS_PRIORITY2 : RegField := ⟨0x10104, (.lin 0x40), 15, 8, .rw, (.val 0x80), none, .no, false⟩
def Fld.PTP_DS_CLOCK_CLASS : RegField := ⟨0x10104, (.lin 0x40), 23, 16, .rw, (.val 0xF8), none, .no, false⟩
def Fld.PTP_DS_CLOCK_ACCURACY : RegField := ⟨0x10104, (.lin 0x40), 31, 24, .rw, (.val 0xFE), none, .no, false⟩
def Reg.PTP_DS : RegRow := ⟨0x10104, 2, (.lin 0x40), [Fld.PTP_DS_PRIORITY1, Fld.PTP_DS_PRIORITY2, Fld.PTP_DS_CLOCK_CLASS, Fld.PTP_DS_CLOCK_ACCURACY]⟩
def Fld.PTP_RATES_LOG_SYNC : RegField := ⟨0x10108, (.lin 0x40), 3, 0, .rw, (.val 0x9), none, .no, false⟩
def Fld.PTP_RATES_LOG_DELAY : RegField := ⟨0x10108, (.lin 0x40), 7, 4, .rw, (.val 0xC), none, .no, false⟩
def Fld.PTP_RATES_LOG_ANNOUNCE : RegField := ⟨0x10108, (.lin 0x40), 11, 8, .rw, (.val 0xD), none, .no, false⟩
def Fld.PTP_RATES_ANN_TIMEOUT : RegField := ⟨0x10108, (.lin 0x40), 15, 12, .rw, (.val 0x3), some (2, 10), .no, false⟩
def Fld.PTP_RATES_STEP_THRESH : RegField := ⟨0x10108, (.lin 0x40), 23, 16, .rw, (.val 0xA), some (1, 255), .no, false⟩
def Fld.PTP_RATES_SLEW_MAX : RegField := ⟨0x10108, (.lin 0x40), 30, 24, .rw, (.val 0x64), some (1, 100), .no, false⟩
def Reg.PTP_RATES : RegRow := ⟨0x10108, 2, (.lin 0x40), [Fld.PTP_RATES_LOG_SYNC, Fld.PTP_RATES_LOG_DELAY, Fld.PTP_RATES_LOG_ANNOUNCE, Fld.PTP_RATES_ANN_TIMEOUT, Fld.PTP_RATES_STEP_THRESH, Fld.PTP_RATES_SLEW_MAX]⟩
def Fld.PTP_ETH_EN_EN : RegField := ⟨0x1010C, (.lin 0x40), 15, 0, .rw, (.val 0x0), none, .no, false⟩
def Reg.PTP_ETH_EN : RegRow := ⟨0x1010C, 2, (.lin 0x40), [Fld.PTP_ETH_EN_EN]⟩
def Fld.PTP_TRACE_EN_LO_EN : RegField := ⟨0x10110, (.lin 0x40), 31, 0, .rw, (.val 0x0), none, .no, false⟩
def Reg.PTP_TRACE_EN_LO : RegRow := ⟨0x10110, 2, (.lin 0x40), [Fld.PTP_TRACE_EN_LO_EN]⟩
def Fld.PTP_TRACE_EN_HI_EN : RegField := ⟨0x10114, (.lin 0x40), 31, 0, .rw, (.val 0x0), none, .no, false⟩
def Reg.PTP_TRACE_EN_HI : RegRow := ⟨0x10114, 2, (.lin 0x40), [Fld.PTP_TRACE_EN_HI_EN]⟩
def Fld.TIME_STATUS_SERVO : RegField := ⟨0x10118, (.lin 0x40), 1, 0, .ro, (.val 0x0), none, .no, false⟩
def Fld.TIME_STATUS_GM : RegField := ⟨0x10118, (.lin 0x40), 2, 2, .ro, (.val 0x0), none, .no, false⟩
def Fld.TIME_STATUS_ROOT : RegField := ⟨0x10118, (.lin 0x40), 3, 3, .ro, (.val 0x0), none, .no, false⟩
def Fld.TIME_STATUS_SLAVE_PORT : RegField := ⟨0x10118, (.lin 0x40), 9, 4, .ro, (.val 0x0), none, .no, false⟩
def Fld.TIME_STATUS_SLAVE_ETH : RegField := ⟨0x10118, (.lin 0x40), 10, 10, .ro, (.val 0x0), none, .no, false⟩
def Fld.TIME_STATUS_GM_CLASS : RegField := ⟨0x10118, (.lin 0x40), 23, 16, .ro, (.val 0x0), none, .no, false⟩
def Fld.TIME_STATUS_STEPS_REMOVED : RegField := ⟨0x10118, (.lin 0x40), 31, 24, .ro, (.val 0x0), none, .no, false⟩
def Reg.TIME_STATUS : RegRow := ⟨0x10118, 2, (.lin 0x40), [Fld.TIME_STATUS_SERVO, Fld.TIME_STATUS_GM, Fld.TIME_STATUS_ROOT, Fld.TIME_STATUS_SLAVE_PORT, Fld.TIME_STATUS_SLAVE_ETH, Fld.TIME_STATUS_GM_CLASS, Fld.TIME_STATUS_STEPS_REMOVED]⟩
def Fld.OFFSET_OFFSET : RegField := ⟨0x1011C, (.lin 0x40), 31, 0, .ro, (.val 0x0), none, .no, false⟩
def Reg.OFFSET : RegRow := ⟨0x1011C, 2, (.lin 0x40), [Fld.OFFSET_OFFSET]⟩
def Fld.MEAN_DELAY_DELAY : RegField := ⟨0x10120, (.lin 0x40), 31, 0, .ro, (.val 0x0), none, .no, false⟩
def Reg.MEAN_DELAY : RegRow := ⟨0x10120, 2, (.lin 0x40), [Fld.MEAN_DELAY_DELAY]⟩
def Fld.RATE_LO_RATE_LO : RegField := ⟨0x10124, (.lin 0x40), 31, 0, .ro, (.val 0x0), none, .no, false⟩
def Reg.RATE_LO : RegRow := ⟨0x10124, 2, (.lin 0x40), [Fld.RATE_LO_RATE_LO]⟩
def Fld.RATE_HI_RATE_HI : RegField := ⟨0x10128, (.lin 0x40), 15, 0, .ro, (.val 0x0), none, .no, false⟩
def Fld.RATE_HI_UTC_OFFSET : RegField := ⟨0x10128, (.lin 0x40), 31, 16, .ro, (.val 0x0), none, .no, false⟩
def Reg.RATE_HI : RegRow := ⟨0x10128, 2, (.lin 0x40), [Fld.RATE_HI_RATE_HI, Fld.RATE_HI_UTC_OFFSET]⟩
def Fld.GM_ID_LO_ID_LO : RegField := ⟨0x1012C, (.lin 0x40), 31, 0, .ro, (.val 0x0), none, .no, false⟩
def Reg.GM_ID_LO : RegRow := ⟨0x1012C, 2, (.lin 0x40), [Fld.GM_ID_LO_ID_LO]⟩
def Fld.GM_ID_HI_ID_HI : RegField := ⟨0x10130, (.lin 0x40), 31, 0, .ro, (.val 0x0), none, .no, false⟩
def Reg.GM_ID_HI : RegRow := ⟨0x10130, 2, (.lin 0x40), [Fld.GM_ID_HI_ID_HI]⟩
def Fld.STEP_LAST_LO_STEP_LO : RegField := ⟨0x10134, (.lin 0x40), 31, 0, .ro, .kept, none, .no, false⟩
def Reg.STEP_LAST_LO : RegRow := ⟨0x10134, 2, (.lin 0x40), [Fld.STEP_LAST_LO_STEP_LO]⟩
def Fld.STEP_LAST_HI_STEP_HI : RegField := ⟨0x10138, (.lin 0x40), 31, 0, .ro, .kept, none, .no, false⟩
def Reg.STEP_LAST_HI : RegRow := ⟨0x10138, 2, (.lin 0x40), [Fld.STEP_LAST_HI_STEP_HI]⟩
def Fld.STEP_COUNT_STEPS : RegField := ⟨0x1013C, (.lin 0x40), 15, 0, .ro, (.val 0x0), none, .no, false⟩
def Reg.STEP_COUNT : RegRow := ⟨0x1013C, 2, (.lin 0x40), [Fld.STEP_COUNT_STEPS]⟩
def Fld.TIME_SNAP_SNAP : RegField := ⟨0x10200, (.lin 0x4), 0, 0, .wo, (.val 0x0), none, .no, false⟩
def Reg.TIME_SNAP : RegRow := ⟨0x10200, 1, (.lin 0x4), [Fld.TIME_SNAP_SNAP]⟩
def Fld.RAW_NS_LO_NS_LO : RegField := ⟨0x10204, (.lin 0x4), 31, 0, .ro, (.val 0x0), none, .no, false⟩
def Reg.RAW_NS_LO : RegRow := ⟨0x10204, 1, (.lin 0x4), [Fld.RAW_NS_LO_NS_LO]⟩
def Fld.RAW_NS_HI_NS_HI : RegField := ⟨0x10208, (.lin 0x4), 31, 0, .ro, (.val 0x0), none, .no, false⟩
def Reg.RAW_NS_HI : RegRow := ⟨0x10208, 1, (.lin 0x4), [Fld.RAW_NS_HI_NS_HI]⟩
def Fld.RAW_SUBNS_SUBNS : RegField := ⟨0x1020C, (.lin 0x4), 15, 0, .ro, (.val 0x0), none, .no, false⟩
def Reg.RAW_SUBNS : RegRow := ⟨0x1020C, 1, (.lin 0x4), [Fld.RAW_SUBNS_SUBNS]⟩
def Fld.A_SEC_LO_SEC_LO : RegField := ⟨0x10210, (.lin 0x4), 31, 0, .ro, (.val 0x0), none, .no, false⟩
def Reg.A_SEC_LO : RegRow := ⟨0x10210, 1, (.lin 0x4), [Fld.A_SEC_LO_SEC_LO]⟩
def Fld.A_SEC_HI_SEC_HI : RegField := ⟨0x10214, (.lin 0x4), 15, 0, .ro, (.val 0x0), none, .no, false⟩
def Fld.A_SEC_HI_SUBNS : RegField := ⟨0x10214, (.lin 0x4), 31, 16, .ro, (.val 0x0), none, .no, false⟩
def Reg.A_SEC_HI : RegRow := ⟨0x10214, 1, (.lin 0x4), [Fld.A_SEC_HI_SEC_HI, Fld.A_SEC_HI_SUBNS]⟩
def Fld.A_NS_NS : RegField := ⟨0x10218, (.lin 0x4), 31, 0, .ro, (.val 0x0), none, .no, false⟩
def Reg.A_NS : RegRow := ⟨0x10218, 1, (.lin 0x4), [Fld.A_NS_NS]⟩
def Fld.B_SEC_LO_SEC_LO : RegField := ⟨0x1021C, (.lin 0x4), 31, 0, .ro, (.val 0x0), none, .no, false⟩
def Reg.B_SEC_LO : RegRow := ⟨0x1021C, 1, (.lin 0x4), [Fld.B_SEC_LO_SEC_LO]⟩
def Fld.B_SEC_HI_SEC_HI : RegField := ⟨0x10220, (.lin 0x4), 15, 0, .ro, (.val 0x0), none, .no, false⟩
def Fld.B_SEC_HI_SUBNS : RegField := ⟨0x10220, (.lin 0x4), 31, 16, .ro, (.val 0x0), none, .no, false⟩
def Reg.B_SEC_HI : RegRow := ⟨0x10220, 1, (.lin 0x4), [Fld.B_SEC_HI_SEC_HI, Fld.B_SEC_HI_SUBNS]⟩
def Fld.B_NS_NS : RegField := ⟨0x10224, (.lin 0x4), 31, 0, .ro, (.val 0x0), none, .no, false⟩
def Reg.B_NS : RegRow := ⟨0x10224, 1, (.lin 0x4), [Fld.B_NS_NS]⟩
def Fld.SNAP_FRAME_LO_FRAME_LO : RegField := ⟨0x10228, (.lin 0x4), 31, 0, .ro, (.val 0x0), none, .no, false⟩
def Reg.SNAP_FRAME_LO : RegRow := ⟨0x10228, 1, (.lin 0x4), [Fld.SNAP_FRAME_LO_FRAME_LO]⟩
def Fld.SNAP_FRAME_HI_FRAME_HI : RegField := ⟨0x1022C, (.lin 0x4), 31, 0, .ro, (.val 0x0), none, .no, false⟩
def Reg.SNAP_FRAME_HI : RegRow := ⟨0x1022C, 1, (.lin 0x4), [Fld.SNAP_FRAME_HI_FRAME_HI]⟩
def Fld.SNAP_PHASE_PHASE : RegField := ⟨0x10230, (.lin 0x4), 23, 0, .ro, (.val 0x0), none, .no, false⟩
def Reg.SNAP_PHASE : RegRow := ⟨0x10230, 1, (.lin 0x4), [Fld.SNAP_PHASE_PHASE]⟩
def Fld.CLKOUT_CFG_FUNC : RegField := ⟨0x10300, (.lin 0x8), 2, 0, .rw, (.val 0x0), some (0, 5), .no, false⟩
def Fld.CLKOUT_CFG_MUL : RegField := ⟨0x10300, (.lin 0x8), 4, 3, .rw, (.val 0x0), some (0, 2), .no, false⟩
def Fld.CLKOUT_CFG_INV : RegField := ⟨0x10300, (.lin 0x8), 5, 5, .rw, (.val 0x0), none, .no, false⟩
def Fld.CLKOUT_CFG_N : RegField := ⟨0x10300, (.lin 0x8), 23, 8, .rw, (.val 0x1), some (1, 65535), .no, false⟩
def Fld.CLKOUT_CFG_PULSE_W : RegField := ⟨0x10300, (.lin 0x8), 31, 24, .rw, (.val 0xA), some (1, 255), .no, false⟩
def Reg.CLKOUT_CFG : RegRow := ⟨0x10300, 16, (.lin 0x8), [Fld.CLKOUT_CFG_FUNC, Fld.CLKOUT_CFG_MUL, Fld.CLKOUT_CFG_INV, Fld.CLKOUT_CFG_N, Fld.CLKOUT_CFG_PULSE_W]⟩
def Fld.CLKOUT_STATUS_ALIGNED : RegField := ⟨0x10304, (.lin 0x8), 0, 0, .ro, (.val 0x0), none, .no, false⟩
def Fld.CLKOUT_STATUS_ALIGN_PENDING : RegField := ⟨0x10304, (.lin 0x8), 1, 1, .ro, (.val 0x0), none, .no, false⟩
def Fld.CLKOUT_STATUS_LATE_STICKY : RegField := ⟨0x10304, (.lin 0x8), 2, 2, .w1c, (.val 0x0), none, .no, false⟩
def Fld.CLKOUT_STATUS_ARMED : RegField := ⟨0x10304, (.lin 0x8), 3, 3, .ro, (.val 0x0), none, .no, false⟩
def Fld.CLKOUT_STATUS_ALIGN_COUNT : RegField := ⟨0x10304, (.lin 0x8), 31, 16, .ro, (.val 0x0), none, .no, false⟩
def Reg.CLKOUT_STATUS : RegRow := ⟨0x10304, 16, (.lin 0x8), [Fld.CLKOUT_STATUS_ALIGNED, Fld.CLKOUT_STATUS_ALIGN_PENDING, Fld.CLKOUT_STATUS_LATE_STICKY, Fld.CLKOUT_STATUS_ARMED, Fld.CLKOUT_STATUS_ALIGN_COUNT]⟩
def Fld.LANE_TS_ADJ_TX_ADJ : RegField := ⟨0x10400, (.lin 0x4), 15, 0, .rw, (.val 0x0), none, .no, false⟩
def Fld.LANE_TS_ADJ_RX_ADJ : RegField := ⟨0x10400, (.lin 0x4), 31, 16, .rw, (.val 0x0), none, .no, false⟩
def Reg.LANE_TS_ADJ : RegRow := ⟨0x10400, 64, (.lin 0x4), [Fld.LANE_TS_ADJ_TX_ADJ, Fld.LANE_TS_ADJ_RX_ADJ]⟩
def Fld.LINK_CTRL_RESTRIPE_EN : RegField := ⟨0x20000, (.lin 0x4), 0, 0, .rw, (.val 0x1), none, .no, false⟩
def Fld.LINK_CTRL_RETURN_EN : RegField := ⟨0x20000, (.lin 0x4), 1, 1, .rw, (.val 0x1), none, .no, false⟩
def Fld.LINK_CTRL_RETURN_HOLD : RegField := ⟨0x20000, (.lin 0x4), 15, 8, .rw, (.val 0xA), some (1, 255), .no, false⟩
def Reg.LINK_CTRL : RegRow := ⟨0x20000, 1, (.lin 0x4), [Fld.LINK_CTRL_RESTRIPE_EN, Fld.LINK_CTRL_RETURN_EN, Fld.LINK_CTRL_RETURN_HOLD]⟩
def Fld.LINK_GSTATUS_CFG_ERR : RegField := ⟨0x20004, (.lin 0x4), 0, 0, .w1c, (.val 0x0), none, .no, false⟩
def Fld.LINK_GSTATUS_AUDIT_STICKY : RegField := ⟨0x20004, (.lin 0x4), 1, 1, .w1c, (.val 0x0), none, .no, false⟩
def Fld.LINK_GSTATUS_FAIL_STICKY : RegField := ⟨0x20004, (.lin 0x4), 2, 2, .w1c, (.val 0x0), none, .no, false⟩
def Fld.LINK_GSTATUS_LOSS_STICKY : RegField := ⟨0x20004, (.lin 0x4), 3, 3, .w1c, (.val 0x0), none, .no, false⟩
def Fld.LINK_GSTATUS_SLIP_STICKY : RegField := ⟨0x20004, (.lin 0x4), 4, 4, .w1c, (.val 0x0), none, .no, false⟩
def Reg.LINK_GSTATUS : RegRow := ⟨0x20004, 1, (.lin 0x4), [Fld.LINK_GSTATUS_CFG_ERR, Fld.LINK_GSTATUS_AUDIT_STICKY, Fld.LINK_GSTATUS_FAIL_STICKY, Fld.LINK_GSTATUS_LOSS_STICKY, Fld.LINK_GSTATUS_SLIP_STICKY]⟩
def Fld.ETH_MAC_LO_MAC_LO : RegField := ⟨0x20008, (.lin 0x4), 31, 0, .ro, .option, none, .no, false⟩
def Reg.ETH_MAC_LO : RegRow := ⟨0x20008, 1, (.lin 0x4), [Fld.ETH_MAC_LO_MAC_LO]⟩
def Fld.ETH_MAC_HI_MAC_HI : RegField := ⟨0x2000C, (.lin 0x4), 15, 0, .ro, .option, none, .no, false⟩
def Reg.ETH_MAC_HI : RegRow := ⟨0x2000C, 1, (.lin 0x4), [Fld.ETH_MAC_HI_MAC_HI]⟩
def Fld.LANE_CFG_MODE : RegField := ⟨0x20100, (.lin 0x10), 2, 0, .rw, .option, none, .no, false⟩
def Fld.LANE_CFG_RATE : RegField := ⟨0x20100, (.lin 0x10), 6, 4, .rw, .option, some (0, 6), .no, false⟩
def Fld.LANE_CFG_TX_SWING : RegField := ⟨0x20100, (.lin 0x10), 11, 8, .rw, (.val 0x8), none, .no, false⟩
def Fld.LANE_CFG_TX_EMPH : RegField := ⟨0x20100, (.lin 0x10), 15, 12, .rw, (.val 0x3), none, .no, false⟩
def Reg.LANE_CFG : RegRow := ⟨0x20100, 64, (.lin 0x10), [Fld.LANE_CFG_MODE, Fld.LANE_CFG_RATE, Fld.LANE_CFG_TX_SWING, Fld.LANE_CFG_TX_EMPH]⟩
def Fld.LANE_STATUS_SIGNAL : RegField := ⟨0x20104, (.lin 0x10), 0, 0, .ro, (.val 0x0), none, .no, false⟩
def Fld.LANE_STATUS_LOCKED : RegField := ⟨0x20104, (.lin 0x10), 1, 1, .ro, (.val 0x0), none, .no, false⟩
def Fld.LANE_STATUS_RX_INVERTED : RegField := ⟨0x20104, (.lin 0x10), 2, 2, .ro, (.val 0x0), none, .no, false⟩
def Fld.LANE_STATUS_EXCLUDED : RegField := ⟨0x20104, (.lin 0x10), 3, 3, .ro, (.val 0x0), none, .no, false⟩
def Fld.LANE_STATUS_TRACE_LANE : RegField := ⟨0x20104, (.lin 0x10), 6, 4, .ro, (.val 0x0), none, .no, false⟩
def Fld.LANE_STATUS_TRACE : RegField := ⟨0x20104, (.lin 0x10), 13, 8, .ro, (.val 0x0), none, .no, false⟩
def Reg.LANE_STATUS : RegRow := ⟨0x20104, 64, (.lin 0x10), [Fld.LANE_STATUS_SIGNAL, Fld.LANE_STATUS_LOCKED, Fld.LANE_STATUS_RX_INVERTED, Fld.LANE_STATUS_EXCLUDED, Fld.LANE_STATUS_TRACE_LANE, Fld.LANE_STATUS_TRACE]⟩
def Fld.LANE_ERR_CODE_ERR : RegField := ⟨0x20108, (.lin 0x10), 15, 0, .ro, (.val 0x0), none, .no, false⟩
def Fld.LANE_ERR_LOCK_LOSS : RegField := ⟨0x20108, (.lin 0x10), 31, 16, .ro, (.val 0x0), none, .no, false⟩
def Reg.LANE_ERR : RegRow := ⟨0x20108, 64, (.lin 0x10), [Fld.LANE_ERR_CODE_ERR, Fld.LANE_ERR_LOCK_LOSS]⟩
def Fld.LANE_ETH_RX_DROP : RegField := ⟨0x2010C, (.lin 0x10), 15, 0, .ro, (.val 0x0), none, .no, false⟩
def Fld.LANE_ETH_FCS_ERR : RegField := ⟨0x2010C, (.lin 0x10), 31, 16, .ro, (.val 0x0), none, .no, false⟩
def Reg.LANE_ETH : RegRow := ⟨0x2010C, 64, (.lin 0x10), [Fld.LANE_ETH_RX_DROP, Fld.LANE_ETH_FCS_ERR]⟩
def Fld.TRACE_CFG_WIDTH : RegField := ⟨0x21000, (.lin 0x40), 1, 0, .ro, (.val 0x0), none, .no, false⟩
def Fld.TRACE_CFG_KIND : RegField := ⟨0x21000, (.lin 0x40), 3, 2, .ro, (.val 0x0), none, .no, false⟩
def Fld.TRACE_CFG_SFMT : RegField := ⟨0x21000, (.lin 0x40), 5, 4, .ro, (.val 0x0), none, .no, false⟩
def Fld.TRACE_CFG_RATE : RegField := ⟨0x21000, (.lin 0x40), 8, 6, .ro, (.val 0x0), none, .no, false⟩
def Fld.TRACE_CFG_RESTRIPE_OK : RegField := ⟨0x21000, (.lin 0x40), 9, 9, .ro, (.val 0x0), none, .no, false⟩
def Reg.TRACE_CFG : RegRow := ⟨0x21000, 64, (.lin 0x40), [Fld.TRACE_CFG_WIDTH, Fld.TRACE_CFG_KIND, Fld.TRACE_CFG_SFMT, Fld.TRACE_CFG_RATE, Fld.TRACE_CFG_RESTRIPE_OK]⟩
def Fld.TRACE_STATE_STATE : RegField := ⟨0x21004, (.lin 0x40), 2, 0, .ro, (.val 0x0), none, .no, false⟩
def Fld.TRACE_STATE_LANES : RegField := ⟨0x21004, (.lin 0x40), 11, 8, .ro, (.val 0x0), none, .no, false⟩
def Fld.TRACE_STATE_LANE_MASK : RegField := ⟨0x21004, (.lin 0x40), 23, 16, .ro, (.val 0x0), none, .no, false⟩
def Fld.TRACE_STATE_LAST_FAIL : RegField := ⟨0x21004, (.lin 0x40), 31, 24, .ro, (.val 0x0), none, .no, false⟩
def Reg.TRACE_STATE : RegRow := ⟨0x21004, 64, (.lin 0x40), [Fld.TRACE_STATE_STATE, Fld.TRACE_STATE_LANES, Fld.TRACE_STATE_LANE_MASK, Fld.TRACE_STATE_LAST_FAIL]⟩
def Fld.TRACE_PEER_PEER : RegField := ⟨0x21008, (.lin 0x40), 17, 0, .ro, (.val 0x0), none, .no, false⟩
def Reg.TRACE_PEER : RegRow := ⟨0x21008, 64, (.lin 0x40), [Fld.TRACE_PEER_PEER]⟩
def Fld.TRACE_LATENCY_NS : RegField := ⟨0x2100C, (.lin 0x40), 15, 0, .ro, (.val 0x0), none, .no, false⟩
def Reg.TRACE_LATENCY : RegRow := ⟨0x2100C, 64, (.lin 0x40), [Fld.TRACE_LATENCY_NS]⟩
def Fld.TRACE_TX_REGION_OFFSET : RegField := ⟨0x21010, (.lin 0x40), 13, 0, .rw, (.val 0x0), some (0, 16383), .yes, false⟩
def Reg.TRACE_TX_REGION : RegRow := ⟨0x21010, 64, (.lin 0x40), [Fld.TRACE_TX_REGION_OFFSET]⟩
def Fld.TRACE_TX_SLOTS_FIRST : RegField := ⟨0x21014, (.lin 0x40), 11, 0, .rw, (.val 0x0), some (0, 4095), .yes, false⟩
def Fld.TRACE_TX_SLOTS_COUNT : RegField := ⟨0x21014, (.lin 0x40), 24, 12, .rw, (.val 0x0), some (0, 4096), .yes, false⟩
def Reg.TRACE_TX_SLOTS : RegRow := ⟨0x21014, 64, (.lin 0x40), [Fld.TRACE_TX_SLOTS_FIRST, Fld.TRACE_TX_SLOTS_COUNT]⟩
def Fld.TRACE_RX_REGION_OFFSET : RegField := ⟨0x21018, (.lin 0x40), 13, 0, .rw, (.val 0x0), some (0, 16383), .yes, false⟩
def Reg.TRACE_RX_REGION : RegRow := ⟨0x21018, 64, (.lin 0x40), [Fld.TRACE_RX_REGION_OFFSET]⟩
def Fld.TRACE_RX_SLOTS_FIRST : RegField := ⟨0x2101C, (.lin 0x40), 10, 0, .rw, (.val 0x0), some (0, 2047), .yes, false⟩
def Fld.TRACE_RX_SLOTS_COUNT : RegField := ⟨0x2101C, (.lin 0x40), 23, 12, .rw, (.val 0x0), some (0, 2048), .yes, false⟩
def Reg.TRACE_RX_SLOTS : RegRow := ⟨0x2101C, 64, (.lin 0x40), [Fld.TRACE_RX_SLOTS_FIRST, Fld.TRACE_RX_SLOTS_COUNT]⟩
def Fld.TRACE_RETRY_REPLAYS : RegField := ⟨0x21020, (.lin 0x40), 15, 0, .ro, (.val 0x0), none, .no, false⟩
def Fld.TRACE_RETRY_NAKS : RegField := ⟨0x21020, (.lin 0x40), 31, 16, .ro, (.val 0x0), none, .no, false⟩
def Reg.TRACE_RETRY : RegRow := ⟨0x21020, 64, (.lin 0x40), [Fld.TRACE_RETRY_REPLAYS, Fld.TRACE_RETRY_NAKS]⟩
def Fld.TRACE_REINIT_REINITS : RegField := ⟨0x21024, (.lin 0x40), 15, 0, .ro, (.val 0x0), none, .no, false⟩
def Fld.TRACE_REINIT_RESTRIPES : RegField := ⟨0x21024, (.lin 0x40), 31, 16, .ro, (.val 0x0), none, .no, false⟩
def Reg.TRACE_REINIT : RegRow := ⟨0x21024, 64, (.lin 0x40), [Fld.TRACE_REINIT_REINITS, Fld.TRACE_REINIT_RESTRIPES]⟩
def Fld.TRACE_REGION_ERR_FAILED : RegField := ⟨0x21028, (.lin 0x40), 15, 0, .ro, (.val 0x0), none, .no, false⟩
def Fld.TRACE_REGION_ERR_SLIPS : RegField := ⟨0x21028, (.lin 0x40), 31, 16, .ro, (.val 0x0), none, .no, false⟩
def Reg.TRACE_REGION_ERR : RegRow := ⟨0x21028, 64, (.lin 0x40), [Fld.TRACE_REGION_ERR_FAILED, Fld.TRACE_REGION_ERR_SLIPS]⟩
def Fld.TRACE_MARKER_ERR_LANE_MARKERS : RegField := ⟨0x2102C, (.lin 0x40), 11, 0, .ro, (.val 0x0), none, .no, false⟩
def Fld.TRACE_MARKER_ERR_POISON : RegField := ⟨0x2102C, (.lin 0x40), 21, 12, .ro, (.val 0x0), none, .no, false⟩
def Fld.TRACE_MARKER_ERR_DISCARD : RegField := ⟨0x2102C, (.lin 0x40), 31, 22, .ro, (.val 0x0), none, .no, false⟩
def Reg.TRACE_MARKER_ERR : RegRow := ⟨0x2102C, 64, (.lin 0x40), [Fld.TRACE_MARKER_ERR_LANE_MARKERS, Fld.TRACE_MARKER_ERR_POISON, Fld.TRACE_MARKER_ERR_DISCARD]⟩
def Fld.TRACE_FLAGS_FAIL : RegField := ⟨0x21030, (.lin 0x40), 0, 0, .w1c, (.val 0x0), none, .no, false⟩
def Fld.TRACE_FLAGS_RESTRIPE : RegField := ⟨0x21030, (.lin 0x40), 1, 1, .w1c, (.val 0x0), none, .no, false⟩
def Fld.TRACE_FLAGS_SLIP : RegField := ⟨0x21030, (.lin 0x40), 2, 2, .w1c, (.val 0x0), none, .no, false⟩
def Fld.TRACE_FLAGS_AUDIT : RegField := ⟨0x21030, (.lin 0x40), 3, 3, .w1c, (.val 0x0), none, .no, false⟩
def Fld.TRACE_FLAGS_MARKER : RegField := ⟨0x21030, (.lin 0x40), 4, 4, .w1c, (.val 0x0), none, .no, false⟩
def Reg.TRACE_FLAGS : RegRow := ⟨0x21030, 64, (.lin 0x40), [Fld.TRACE_FLAGS_FAIL, Fld.TRACE_FLAGS_RESTRIPE, Fld.TRACE_FLAGS_SLIP, Fld.TRACE_FLAGS_AUDIT, Fld.TRACE_FLAGS_MARKER]⟩
def Fld.TX_SLOT_QCH : RegField := ⟨0x22000, (.lin 0x4), 11, 0, .rw, (.val 0x0), some (0, 4095), .yes, false⟩
def Fld.TX_SLOT_DUP : RegField := ⟨0x22000, (.lin 0x4), 12, 12, .rw, (.val 0x0), some (0, 1), .yes, false⟩
def Fld.TX_SLOT_FILL : RegField := ⟨0x22000, (.lin 0x4), 13, 13, .rw, (.val 0x0), some (0, 1), .yes, false⟩
def Reg.TX_SLOT : RegRow := ⟨0x22000, 4096, (.lin 0x4), [Fld.TX_SLOT_QCH, Fld.TX_SLOT_DUP, Fld.TX_SLOT_FILL]⟩
def Fld.RX_SLOT_RING_BASE : RegField := ⟨0x26000, (.lin 0x4), 22, 0, .rw, (.val 0x0), some (0, 8388607), .yes, false⟩
def Fld.RX_SLOT_LOG2_LEN : RegField := ⟨0x26000, (.lin 0x4), 26, 23, .rw, (.val 0x0), some (1, 11), .yes, false⟩
def Fld.RX_SLOT_EN : RegField := ⟨0x26000, (.lin 0x4), 27, 27, .rw, (.val 0x0), some (0, 1), .yes, false⟩
def Fld.RX_SLOT_DUP : RegField := ⟨0x26000, (.lin 0x4), 28, 28, .rw, (.val 0x0), some (0, 1), .yes, false⟩
def Fld.RX_SLOT_FILL : RegField := ⟨0x26000, (.lin 0x4), 29, 29, .rw, (.val 0x0), some (0, 1), .yes, false⟩
def Reg.RX_SLOT : RegRow := ⟨0x26000, 2048, (.lin 0x4), [Fld.RX_SLOT_RING_BASE, Fld.RX_SLOT_LOG2_LEN, Fld.RX_SLOT_EN, Fld.RX_SLOT_DUP, Fld.RX_SLOT_FILL]⟩
def Fld.PORT_GSTATUS_CFG_ERR : RegField := ⟨0x30000, (.lin 0x4), 0, 0, .w1c, (.val 0x0), none, .no, false⟩
def Reg.PORT_GSTATUS : RegRow := ⟨0x30000, 1, (.lin 0x4), [Fld.PORT_GSTATUS_CFG_ERR]⟩
def Fld.PORT_RUNNING_RUNNING : RegField := ⟨0x30004, (.lin 0x4), 31, 0, .ro, (.val 0x0), none, .no, false⟩
def Reg.PORT_RUNNING : RegRow := ⟨0x30004, 1, (.lin 0x4), [Fld.PORT_RUNNING_RUNNING]⟩
def Fld.PDM_RUNNING_RUNNING : RegField := ⟨0x30008, (.lin 0x4), 15, 0, .ro, (.val 0x0), none, .no, false⟩
def Reg.PDM_RUNNING : RegRow := ⟨0x30008, 1, (.lin 0x4), [Fld.PDM_RUNNING_RUNNING]⟩
def Fld.PORT_CFG_EN : RegField := ⟨0x30100, (.lin 0x20), 0, 0, .rw, (.val 0x0), some (0, 1), .yes, false⟩
def Fld.PORT_CFG_DIR : RegField := ⟨0x30100, (.lin 0x20), 1, 1, .rw, (.val 0x0), some (0, 1), .yes, false⟩
def Fld.PORT_CFG_FMT : RegField := ⟨0x30100, (.lin 0x20), 3, 2, .rw, (.val 0x0), some (0, 2), .yes, false⟩
def Fld.PORT_CFG_ROLE : RegField := ⟨0x30100, (.lin 0x20), 4, 4, .rw, (.val 0x0), some (0, 1), .yes, false⟩
def Fld.PORT_CFG_PATH : RegField := ⟨0x30100, (.lin 0x20), 5, 5, .rw, (.val 0x0), some (0, 1), .yes, false⟩
def Fld.PORT_CFG_PACK : RegField := ⟨0x30100, (.lin 0x20), 6, 6, .rw, (.val 0x0), some (0, 1), .yes, false⟩
def Fld.PORT_CFG_DLY : RegField := ⟨0x30100, (.lin 0x20), 7, 7, .rw, (.val 0x0), some (0, 1), .yes, false⟩
def Fld.PORT_CFG_SLOT_W : RegField := ⟨0x30100, (.lin 0x20), 9, 8, .rw, (.val 0x0), some (0, 2), .yes, false⟩
def Fld.PORT_CFG_SLOTS : RegField := ⟨0x30100, (.lin 0x20), 14, 10, .rw, (.val 0x0), some (0, 31), .yes, false⟩
def Fld.PORT_CFG_FSW : RegField := ⟨0x30100, (.lin 0x20), 15, 15, .rw, (.val 0x0), some (0, 1), .yes, false⟩
def Fld.PORT_CFG_BCLK_INV : RegField := ⟨0x30100, (.lin 0x20), 16, 16, .rw, (.val 0x0), some (0, 1), .yes, false⟩
def Fld.PORT_CFG_FS_INV : RegField := ⟨0x30100, (.lin 0x20), 17, 17, .rw, (.val 0x0), some (0, 1), .yes, false⟩
def Fld.PORT_CFG_FILL : RegField := ⟨0x30100, (.lin 0x20), 18, 18, .rw, (.val 0x0), some (0, 1), .yes, false⟩
def Fld.PORT_CFG_CLKSRC : RegField := ⟨0x30100, (.lin 0x20), 23, 19, .rw, .index, some (0, 31), .yes, false⟩
def Reg.PORT_CFG : RegRow := ⟨0x30100, 32, (.lin 0x20), [Fld.PORT_CFG_EN, Fld.PORT_CFG_DIR, Fld.PORT_CFG_FMT, Fld.PORT_CFG_ROLE, Fld.PORT_CFG_PATH, Fld.PORT_CFG_PACK, Fld.PORT_CFG_DLY, Fld.PORT_CFG_SLOT_W, Fld.PORT_CFG_SLOTS, Fld.PORT_CFG_FSW, Fld.PORT_CFG_BCLK_INV, Fld.PORT_CFG_FS_INV, Fld.PORT_CFG_FILL, Fld.PORT_CFG_CLKSRC]⟩
def Fld.PORT_STATE_STATE : RegField := ⟨0x30104, (.lin 0x20), 2, 0, .ro, (.val 0x0), none, .no, false⟩
def Fld.PORT_STATE_EDGE_PHASE : RegField := ⟨0x30104, (.lin 0x20), 31, 16, .ro, (.val 0x0), none, .no, false⟩
def Reg.PORT_STATE : RegRow := ⟨0x30104, 32, (.lin 0x20), [Fld.PORT_STATE_STATE, Fld.PORT_STATE_EDGE_PHASE]⟩
def Fld.PORT_FLAGS_UNDER_STICKY : RegField := ⟨0x30108, (.lin 0x20), 0, 0, .w1c, (.val 0x0), none, .no, false⟩
def Fld.PORT_FLAGS_OVER_STICKY : RegField := ⟨0x30108, (.lin 0x20), 1, 1, .w1c, (.val 0x0), none, .no, false⟩
def Fld.PORT_FLAGS_CLK_LOSS_STICKY : RegField := ⟨0x30108, (.lin 0x20), 2, 2, .w1c, (.val 0x0), none, .no, false⟩
def Fld.PORT_FLAGS_CLIP_STICKY : RegField := ⟨0x30108, (.lin 0x20), 3, 3, .w1c, (.val 0x0), none, .no, false⟩
def Fld.PORT_FLAGS_CFG_MISMATCH : RegField := ⟨0x30108, (.lin 0x20), 4, 4, .w1c, (.val 0x0), none, .no, false⟩
def Reg.PORT_FLAGS : RegRow := ⟨0x30108, 32, (.lin 0x20), [Fld.PORT_FLAGS_UNDER_STICKY, Fld.PORT_FLAGS_OVER_STICKY, Fld.PORT_FLAGS_CLK_LOSS_STICKY, Fld.PORT_FLAGS_CLIP_STICKY, Fld.PORT_FLAGS_CFG_MISMATCH]⟩
def Fld.PORT_UNDER_COUNT_COUNT : RegField := ⟨0x3010C, (.lin 0x20), 31, 0, .ro, (.val 0x0), none, .no, false⟩
def Reg.PORT_UNDER_COUNT : RegRow := ⟨0x3010C, 32, (.lin 0x20), [Fld.PORT_UNDER_COUNT_COUNT]⟩
def Fld.PORT_OVER_COUNT_COUNT : RegField := ⟨0x30110, (.lin 0x20), 31, 0, .ro, (.val 0x0), none, .no, false⟩
def Reg.PORT_OVER_COUNT : RegRow := ⟨0x30110, 32, (.lin 0x20), [Fld.PORT_OVER_COUNT_COUNT]⟩
def Fld.RING_BASE_BASE : RegField := ⟨0x31000, (.lin 0x8), 22, 0, .rw, (.val 0x0), some (0, 8388607), .yes, false⟩
def Reg.RING_BASE : RegRow := ⟨0x31000, 1024, (.lin 0x8), [Fld.RING_BASE_BASE]⟩
def Fld.RING_CFG_LOG2_LEN : RegField := ⟨0x31004, (.lin 0x8), 3, 0, .rw, (.val 0x0), some (0, 12), .yes, false⟩
def Fld.RING_CFG_RFMT : RegField := ⟨0x31004, (.lin 0x8), 4, 4, .rw, (.val 0x0), some (0, 1), .yes, false⟩
def Fld.RING_CFG_EN : RegField := ⟨0x31004, (.lin 0x8), 5, 5, .rw, (.val 0x0), some (0, 1), .yes, false⟩
def Reg.RING_CFG : RegRow := ⟨0x31004, 1024, (.lin 0x8), [Fld.RING_CFG_LOG2_LEN, Fld.RING_CFG_RFMT, Fld.RING_CFG_EN]⟩
def Fld.PDM_CLK_EN : RegField := ⟨0x34000, (.lin 0x4), 0, 0, .rw, (.val 0x0), some (0, 1), .yes, false⟩
def Fld.PDM_CLK_RATIO : RegField := ⟨0x34000, (.lin 0x4), 5, 4, .rw, (.val 0x0), some (0, 3), .yes, false⟩
def Reg.PDM_CLK : RegRow := ⟨0x34000, 4, (.lin 0x4), [Fld.PDM_CLK_EN, Fld.PDM_CLK_RATIO]⟩
def Fld.PDM_CFG_EN_A : RegField := ⟨0x34040, (.lin 0x4), 0, 0, .rw, (.val 0x0), some (0, 1), .yes, false⟩
def Fld.PDM_CFG_EN_B : RegField := ⟨0x34040, (.lin 0x4), 1, 1, .rw, (.val 0x0), some (0, 1), .yes, false⟩
def Fld.PDM_CFG_CLK : RegField := ⟨0x34040, (.lin 0x4), 3, 2, .rw, (.val 0x0), some (0, 3), .yes, false⟩
def Reg.PDM_CFG : RegRow := ⟨0x34040, 16, (.lin 0x4), [Fld.PDM_CFG_EN_A, Fld.PDM_CFG_EN_B, Fld.PDM_CFG_CLK]⟩
def Fld.PDM_RING_BASE_BASE : RegField := ⟨0x34100, (.lin 0x8), 22, 0, .rw, (.val 0x0), some (0, 8388607), .yes, false⟩
def Reg.PDM_RING_BASE : RegRow := ⟨0x34100, 32, (.lin 0x8), [Fld.PDM_RING_BASE_BASE]⟩
def Fld.PDM_RING_CFG_LOG2_LEN : RegField := ⟨0x34104, (.lin 0x8), 3, 0, .rw, (.val 0x0), some (0, 12), .yes, false⟩
def Fld.PDM_RING_CFG_RFMT : RegField := ⟨0x34104, (.lin 0x8), 4, 4, .rw, (.val 0x0), some (0, 1), .yes, false⟩
def Fld.PDM_RING_CFG_EN : RegField := ⟨0x34104, (.lin 0x8), 5, 5, .rw, (.val 0x0), some (0, 1), .yes, false⟩
def Reg.PDM_RING_CFG : RegRow := ⟨0x34104, 32, (.lin 0x8), [Fld.PDM_RING_CFG_LOG2_LEN, Fld.PDM_RING_CFG_RFMT, Fld.PDM_RING_CFG_EN]⟩
def Fld.AMP_GCTRL_BAND_EN : RegField := ⟨0x40000, (.lin 0x4), 0, 0, .rw, (.val 0x1), some (0, 1), .yes, false⟩
def Fld.AMP_GCTRL_REQUIRE_LIMIT : RegField := ⟨0x40000, (.lin 0x4), 1, 1, .rwl, (.val 0x0), none, .no, false⟩
def Reg.AMP_GCTRL : RegRow := ⟨0x40000, 1, (.lin 0x4), [Fld.AMP_GCTRL_BAND_EN, Fld.AMP_GCTRL_REQUIRE_LIMIT]⟩
def Fld.AMP_GSTATUS_CFG_ERR : RegField := ⟨0x40004, (.lin 0x4), 0, 0, .w1c, (.val 0x0), none, .no, false⟩
def Fld.AMP_GSTATUS_NO_FREQ_STICKY : RegField := ⟨0x40004, (.lin 0x4), 1, 1, .w1c, (.val 0x0), none, .no, false⟩
def Fld.AMP_GSTATUS_LOCK_VIOL : RegField := ⟨0x40004, (.lin 0x4), 2, 2, .w1c, (.val 0x0), none, .no, false⟩
def Reg.AMP_GSTATUS : RegRow := ⟨0x40004, 1, (.lin 0x4), [Fld.AMP_GSTATUS_CFG_ERR, Fld.AMP_GSTATUS_NO_FREQ_STICKY, Fld.AMP_GSTATUS_LOCK_VIOL]⟩
def Fld.AMP_CFG_EN : RegField := ⟨0x40100, (.lin 0x40), 0, 0, .rw, .option, some (0, 1), .yes, false⟩
def Fld.AMP_CFG_MUTE : RegField := ⟨0x40100, (.lin 0x40), 1, 1, .rw, (.val 0x0), some (0, 1), .yes, false⟩
def Fld.AMP_CFG_DC_EN : RegField := ⟨0x40100, (.lin 0x40), 2, 2, .rw, (.val 0x0), some (0, 1), .yes, false⟩
def Fld.AMP_CFG_ILIM_EN : RegField := ⟨0x40100, (.lin 0x40), 3, 3, .rw, (.val 0x0), some (0, 1), .yes, false⟩
def Fld.AMP_CFG_MUTE_RAMP : RegField := ⟨0x40100, (.lin 0x40), 15, 8, .rw, (.val 0x32), some (1, 255), .yes, false⟩
def Fld.AMP_CFG_MI_MAX : RegField := ⟨0x40100, (.lin 0x40), 23, 16, .rw, (.val 0xDA), some (128, 230), .yes, false⟩
def Reg.AMP_CFG : RegRow := ⟨0x40100, 32, (.lin 0x40), [Fld.AMP_CFG_EN, Fld.AMP_CFG_MUTE, Fld.AMP_CFG_DC_EN, Fld.AMP_CFG_ILIM_EN, Fld.AMP_CFG_MUTE_RAMP, Fld.AMP_CFG_MI_MAX]⟩
def Fld.AMP_LOOP_FILTER_FC : RegField := ⟨0x40104, (.lin 0x40), 6, 0, .rw, (.val 0x28), some (20, 80), .yes, false⟩
def Fld.AMP_LOOP_FILTER_Q : RegField := ⟨0x40104, (.lin 0x40), 11, 8, .rw, (.val 0x2), some (1, 16), .yes, false⟩
def Fld.AMP_LOOP_LOOP_DELAY : RegField := ⟨0x40104, (.lin 0x40), 19, 12, .rw, (.val 0x64), some (20, 200), .yes, false⟩
def Fld.AMP_LOOP_DEADTIME : RegField := ⟨0x40104, (.lin 0x40), 27, 20, .rw, (.val 0x28), some (10, 255), .yes, false⟩
def Reg.AMP_LOOP : RegRow := ⟨0x40104, 32, (.lin 0x40), [Fld.AMP_LOOP_FILTER_FC, Fld.AMP_LOOP_FILTER_Q, Fld.AMP_LOOP_LOOP_DELAY, Fld.AMP_LOOP_DEADTIME]⟩
def Fld.AMP_FSW_FSW : RegField := ⟨0x40108, (.lin 0x40), 9, 0, .rw, (.val 0x190), some (300, 1000), .yes, false⟩
def Fld.AMP_FSW_FSW_ACT : RegField := ⟨0x40108, (.lin 0x40), 25, 16, .ro, (.val 0x0), none, .no, false⟩
def Fld.AMP_FSW_MOVED : RegField := ⟨0x40108, (.lin 0x40), 26, 26, .ro, (.val 0x0), none, .no, false⟩
def Fld.AMP_FSW_PENDING : RegField := ⟨0x40108, (.lin 0x40), 27, 27, .ro, (.val 0x0), none, .no, false⟩
def Reg.AMP_FSW : RegRow := ⟨0x40108, 32, (.lin 0x40), [Fld.AMP_FSW_FSW, Fld.AMP_FSW_FSW_ACT, Fld.AMP_FSW_MOVED, Fld.AMP_FSW_PENDING]⟩
def Fld.AMP_PROT_I_LIMIT : RegField := ⟨0x4010C, (.lin 0x40), 6, 0, .rw, (.val 0x50), some (10, 100), .yes, false⟩
def Fld.AMP_PROT_SHORT_MS : RegField := ⟨0x4010C, (.lin 0x40), 13, 8, .rw, (.val 0xA), some (1, 50), .yes, false⟩
def Fld.AMP_PROT_DC_THRESH : RegField := ⟨0x4010C, (.lin 0x40), 21, 16, .rw, (.val 0xA), some (5, 50), .yes, false⟩
def Fld.AMP_PROT_DC_TRIP : RegField := ⟨0x4010C, (.lin 0x40), 31, 22, .rw, (.val 0x64), some (5, 500), .yes, false⟩
def Reg.AMP_PROT : RegRow := ⟨0x4010C, 32, (.lin 0x40), [Fld.AMP_PROT_I_LIMIT, Fld.AMP_PROT_SHORT_MS, Fld.AMP_PROT_DC_THRESH, Fld.AMP_PROT_DC_TRIP]⟩
def Fld.AMP_STATE_STATE : RegField := ⟨0x40110, (.lin 0x40), 2, 0, .ro, (.val 0x0), none, .no, false⟩
def Fld.AMP_STATE_ENABLE : RegField := ⟨0x40110, (.lin 0x40), 3, 3, .ro, (.val 0x0), none, .no, false⟩
def Fld.AMP_STATE_LOCKED : RegField := ⟨0x40110, (.lin 0x40), 4, 4, .ro, (.val 0x0), none, .no, false⟩
def Fld.AMP_STATE_GAIN_RED : RegField := ⟨0x40110, (.lin 0x40), 5, 5, .ro, (.val 0x0), none, .no, false⟩
def Fld.AMP_STATE_FSW_MEAS : RegField := ⟨0x40110, (.lin 0x40), 25, 16, .ro, (.val 0x0), none, .no, false⟩
def Reg.AMP_STATE : RegRow := ⟨0x40110, 32, (.lin 0x40), [Fld.AMP_STATE_STATE, Fld.AMP_STATE_ENABLE, Fld.AMP_STATE_LOCKED, Fld.AMP_STATE_GAIN_RED, Fld.AMP_STATE_FSW_MEAS]⟩
def Fld.AMP_FAULT_DRIVER : RegField := ⟨0x40114, (.lin 0x40), 0, 0, .w1c, (.val 0x0), none, .no, false⟩
def Fld.AMP_FAULT_SHORT : RegField := ⟨0x40114, (.lin 0x40), 1, 1, .w1c, (.val 0x0), none, .no, false⟩
def Fld.AMP_FAULT_LOOP : RegField := ⟨0x40114, (.lin 0x40), 2, 2, .w1c, (.val 0x0), none, .no, false⟩
def Fld.AMP_FAULT_DC : RegField := ⟨0x40114, (.lin 0x40), 3, 3, .w1c, (.val 0x0), none, .no, false⟩
def Fld.AMP_FAULT_ENERGY_CUT : RegField := ⟨0x40114, (.lin 0x40), 4, 4, .w1c, (.val 0x0), none, .no, false⟩
def Fld.AMP_FAULT_NO_FREQ : RegField := ⟨0x40114, (.lin 0x40), 5, 5, .w1c, (.val 0x0), none, .no, false⟩
def Fld.AMP_FAULT_CLIP : RegField := ⟨0x40114, (.lin 0x40), 6, 6, .w1c, (.val 0x0), none, .no, false⟩
def Fld.AMP_FAULT_LOAD : RegField := ⟨0x40114, (.lin 0x40), 7, 7, .w1c, (.val 0x0), none, .no, false⟩
def Fld.AMP_FAULT_CAUSE : RegField := ⟨0x40114, (.lin 0x40), 10, 8, .ro, (.val 0x0), none, .no, false⟩
def Reg.AMP_FAULT : RegRow := ⟨0x40114, 32, (.lin 0x40), [Fld.AMP_FAULT_DRIVER, Fld.AMP_FAULT_SHORT, Fld.AMP_FAULT_LOOP, Fld.AMP_FAULT_DC, Fld.AMP_FAULT_ENERGY_CUT, Fld.AMP_FAULT_NO_FREQ, Fld.AMP_FAULT_CLIP, Fld.AMP_FAULT_LOAD, Fld.AMP_FAULT_CAUSE]⟩
def Fld.AMP_COUNTS_CLIP : RegField := ⟨0x40118, (.lin 0x40), 15, 0, .ro, (.val 0x0), none, .no, false⟩
def Fld.AMP_COUNTS_FAULT : RegField := ⟨0x40118, (.lin 0x40), 31, 16, .ro, (.val 0x0), none, .no, false⟩
def Reg.AMP_COUNTS : RegRow := ⟨0x40118, 32, (.lin 0x40), [Fld.AMP_COUNTS_CLIP, Fld.AMP_COUNTS_FAULT]⟩
def Fld.AMP_GROUP_CFG_SYNC : RegField := ⟨0x41000, (.lin 0x10), 0, 0, .rw, (.val 0x0), some (0, 1), .yes, false⟩
def Fld.AMP_GROUP_CFG_GFSW : RegField := ⟨0x41000, (.lin 0x10), 25, 16, .rw, (.val 0x190), some (300, 1000), .yes, false⟩
def Reg.AMP_GROUP_CFG : RegRow := ⟨0x41000, 8, (.lin 0x10), [Fld.AMP_GROUP_CFG_SYNC, Fld.AMP_GROUP_CFG_GFSW]⟩
def Fld.AMP_GROUP_STATUS_STATE : RegField := ⟨0x41004, (.lin 0x10), 1, 0, .ro, (.val 0x0), none, .no, false⟩
def Fld.AMP_GROUP_STATUS_RELEASE_COUNT : RegField := ⟨0x41004, (.lin 0x10), 31, 16, .ro, (.val 0x0), none, .no, false⟩
def Reg.AMP_GROUP_STATUS : RegRow := ⟨0x41004, 8, (.lin 0x10), [Fld.AMP_GROUP_STATUS_STATE, Fld.AMP_GROUP_STATUS_RELEASE_COUNT]⟩
def Fld.BAND_RANGE_LO : RegField := ⟨0x41100, (.lin 0x8), 15, 0, .rw, (.val 0x0), some (0, 65535), .yes, false⟩
def Fld.BAND_RANGE_HI : RegField := ⟨0x41100, (.lin 0x8), 31, 16, .rw, (.val 0x0), some (0, 65535), .yes, false⟩
def Reg.BAND_RANGE : RegRow := ⟨0x41100, 16, (.lin 0x8), [Fld.BAND_RANGE_LO, Fld.BAND_RANGE_HI]⟩
def Fld.BAND_CFG_EN : RegField := ⟨0x41104, (.lin 0x8), 0, 0, .rw, (.val 0x0), some (0, 1), .yes, false⟩
def Fld.BAND_CFG_TYPE : RegField := ⟨0x41104, (.lin 0x8), 1, 1, .rw, (.val 0x0), some (0, 1), .yes, false⟩
def Fld.BAND_CFG_SPACING : RegField := ⟨0x41104, (.lin 0x8), 15, 8, .rw, (.val 0x0), some (1, 255), .yes, false⟩
def Fld.BAND_CFG_GUARD : RegField := ⟨0x41104, (.lin 0x8), 23, 16, .rw, (.val 0x0), some (0, 255), .yes, false⟩
def Reg.BAND_CFG : RegRow := ⟨0x41104, 16, (.lin 0x8), [Fld.BAND_CFG_EN, Fld.BAND_CFG_TYPE, Fld.BAND_CFG_SPACING, Fld.BAND_CFG_GUARD]⟩
def Fld.AMP_SIL_CFG_EN : RegField := ⟨0x42000, (.lin 0x8), 0, 0, .rw, (.val 0x0), some (0, 1), .yes, false⟩
def Fld.AMP_SIL_CFG_THRESH : RegField := ⟨0x42000, (.lin 0x8), 15, 8, .rw, (.val 0x6E), some (40, 150), .yes, false⟩
def Fld.AMP_SIL_CFG_HOLD : RegField := ⟨0x42000, (.lin 0x8), 31, 16, .rw, (.val 0x1F4), some (1, 6000), .yes, false⟩
def Reg.AMP_SIL_CFG : RegRow := ⟨0x42000, 32, (.lin 0x8), [Fld.AMP_SIL_CFG_EN, Fld.AMP_SIL_CFG_THRESH, Fld.AMP_SIL_CFG_HOLD]⟩
def Fld.AMP_SIL_STATUS_SILENT : RegField := ⟨0x42004, (.lin 0x8), 0, 0, .ro, (.val 0x0), none, .no, false⟩
def Fld.AMP_SIL_STATUS_ASLEEP : RegField := ⟨0x42004, (.lin 0x8), 1, 1, .ro, (.val 0x0), none, .no, false⟩
def Fld.AMP_SIL_STATUS_WAKE_COUNT : RegField := ⟨0x42004, (.lin 0x8), 31, 16, .ro, (.val 0x0), none, .no, false⟩
def Reg.AMP_SIL_STATUS : RegRow := ⟨0x42004, 32, (.lin 0x8), [Fld.AMP_SIL_STATUS_SILENT, Fld.AMP_SIL_STATUS_ASLEEP, Fld.AMP_SIL_STATUS_WAKE_COUNT]⟩
def Fld.AMP_WAKE_CFG_WAKE_SETTLE : RegField := ⟨0x42100, (.lin 0x4), 10, 0, .rw, (.val 0x5DC), some (50, 1500), .yes, false⟩
def Reg.AMP_WAKE_CFG : RegRow := ⟨0x42100, 8, (.lin 0x4), [Fld.AMP_WAKE_CFG_WAKE_SETTLE]⟩
def Fld.LIM_P100_LIMIT : RegField := ⟨0x43000, (.lin 0x20), 31, 0, .rwl, (.val 0x0), some (1, 10000000), .no, false⟩
def Reg.LIM_P100 : RegRow := ⟨0x43000, 32, (.lin 0x20), [Fld.LIM_P100_LIMIT]⟩
def Fld.LIM_P1S_LIMIT : RegField := ⟨0x43004, (.lin 0x20), 31, 0, .rwl, (.val 0x0), some (1, 10000000), .no, false⟩
def Reg.LIM_P1S : RegRow := ⟨0x43004, 32, (.lin 0x20), [Fld.LIM_P1S_LIMIT]⟩
def Fld.LIM_VFS_VFS : RegField := ⟨0x43008, (.lin 0x20), 31, 0, .rwl, (.val 0x0), some (1000, 400000), .no, false⟩
def Reg.LIM_VFS : RegRow := ⟨0x43008, 32, (.lin 0x20), [Fld.LIM_VFS_VFS]⟩
def Fld.LIM_IFS_IFS : RegField := ⟨0x4300C, (.lin 0x20), 31, 0, .rwl, (.val 0x0), some (100, 100000), .no, false⟩
def Reg.LIM_IFS : RegRow := ⟨0x4300C, 32, (.lin 0x20), [Fld.LIM_IFS_IFS]⟩
def Fld.LIM_CTRL_ACTION : RegField := ⟨0x43010, (.lin 0x20), 0, 0, .rwl, (.val 0x0), none, .no, false⟩
def Fld.LIM_CTRL_AUTO_RESTART : RegField := ⟨0x43010, (.lin 0x20), 1, 1, .rwl, (.val 0x0), none, .no, false⟩
def Reg.LIM_CTRL : RegRow := ⟨0x43010, 32, (.lin 0x20), [Fld.LIM_CTRL_ACTION, Fld.LIM_CTRL_AUTO_RESTART]⟩
def Fld.LIM_STATUS_ARMED : RegField := ⟨0x43014, (.lin 0x20), 0, 0, .ro, (.val 0x0), none, .no, false⟩
def Fld.LIM_STATUS_REDUCING : RegField := ⟨0x43014, (.lin 0x20), 1, 1, .ro, (.val 0x0), none, .no, false⟩
def Fld.LIM_STATUS_CUT : RegField := ⟨0x43014, (.lin 0x20), 2, 2, .ro, (.val 0x0), none, .no, false⟩
def Fld.LIM_STATUS_LOCK_VIOL : RegField := ⟨0x43014, (.lin 0x20), 3, 3, .w1c, (.val 0x0), none, .no, false⟩
def Fld.LIM_STATUS_WRITTEN : RegField := ⟨0x43014, (.lin 0x20), 4, 4, .ro, (.val 0x0), none, .no, false⟩
def Fld.LIM_STATUS_CUT_COUNT : RegField := ⟨0x43014, (.lin 0x20), 31, 16, .ro, (.val 0x0), none, .no, false⟩
def Reg.LIM_STATUS : RegRow := ⟨0x43014, 32, (.lin 0x20), [Fld.LIM_STATUS_ARMED, Fld.LIM_STATUS_REDUCING, Fld.LIM_STATUS_CUT, Fld.LIM_STATUS_LOCK_VIOL, Fld.LIM_STATUS_WRITTEN, Fld.LIM_STATUS_CUT_COUNT]⟩
def Fld.LIM_E100_P100 : RegField := ⟨0x43018, (.lin 0x20), 31, 0, .ro, (.val 0x0), none, .no, false⟩
def Reg.LIM_E100 : RegRow := ⟨0x43018, 32, (.lin 0x20), [Fld.LIM_E100_P100]⟩
def Fld.LIM_E1S_P1S : RegField := ⟨0x4301C, (.lin 0x20), 31, 0, .ro, (.val 0x0), none, .no, false⟩
def Reg.LIM_E1S : RegRow := ⟨0x4301C, 32, (.lin 0x20), [Fld.LIM_E1S_P1S]⟩
def Fld.XB_CTRL_XB_TIMEOUT : RegField := ⟨0x50000, (.lin 0x4), 15, 0, .rw, (.val 0x64), some (40, 10000), .no, false⟩
def Reg.XB_CTRL : RegRow := ⟨0x50000, 1, (.lin 0x4), [Fld.XB_CTRL_XB_TIMEOUT]⟩
def Fld.XB_STATUS_DEF_STICKY : RegField := ⟨0x50004, (.lin 0x4), 0, 0, .w1c, (.val 0x0), none, .no, false⟩
def Fld.XB_STATUS_TO_STICKY : RegField := ⟨0x50004, (.lin 0x4), 1, 1, .w1c, (.val 0x0), none, .no, false⟩
def Fld.XB_STATUS_LOCK_REFUSED : RegField := ⟨0x50004, (.lin 0x4), 2, 2, .w1c, (.val 0x0), none, .no, false⟩
def Fld.XB_STATUS_CFG_ERR : RegField := ⟨0x50004, (.lin 0x4), 3, 3, .w1c, (.val 0x0), none, .no, false⟩
def Reg.XB_STATUS : RegRow := ⟨0x50004, 1, (.lin 0x4), [Fld.XB_STATUS_DEF_STICKY, Fld.XB_STATUS_TO_STICKY, Fld.XB_STATUS_LOCK_REFUSED, Fld.XB_STATUS_CFG_ERR]⟩
def Fld.XB_DEF_COUNT_MASTER : RegField := ⟨0x50008, (.lin 0x4), 4, 0, .ro, (.val 0x0), none, .no, false⟩
def Fld.XB_DEF_COUNT_COUNT : RegField := ⟨0x50008, (.lin 0x4), 31, 5, .ro, (.val 0x0), none, .no, false⟩
def Reg.XB_DEF_COUNT : RegRow := ⟨0x50008, 1, (.lin 0x4), [Fld.XB_DEF_COUNT_MASTER, Fld.XB_DEF_COUNT_COUNT]⟩
def Fld.XB_DEF_ADDR_LO_ADDR_LO : RegField := ⟨0x5000C, (.lin 0x4), 31, 0, .ro, (.val 0x0), none, .no, false⟩
def Reg.XB_DEF_ADDR_LO : RegRow := ⟨0x5000C, 1, (.lin 0x4), [Fld.XB_DEF_ADDR_LO_ADDR_LO]⟩
def Fld.XB_DEF_ADDR_HI_ADDR_HI : RegField := ⟨0x50010, (.lin 0x4), 2, 0, .ro, (.val 0x0), none, .no, false⟩
def Reg.XB_DEF_ADDR_HI : RegRow := ⟨0x50010, 1, (.lin 0x4), [Fld.XB_DEF_ADDR_HI_ADDR_HI]⟩
def Fld.XB_TO_COUNT_MASTER : RegField := ⟨0x50014, (.lin 0x4), 4, 0, .ro, (.val 0x0), none, .no, false⟩
def Fld.XB_TO_COUNT_TARGET : RegField := ⟨0x50014, (.lin 0x4), 8, 5, .ro, (.val 0x0), none, .no, false⟩
def Fld.XB_TO_COUNT_COUNT : RegField := ⟨0x50014, (.lin 0x4), 31, 9, .ro, (.val 0x0), none, .no, false⟩
def Reg.XB_TO_COUNT : RegRow := ⟨0x50014, 1, (.lin 0x4), [Fld.XB_TO_COUNT_MASTER, Fld.XB_TO_COUNT_TARGET, Fld.XB_TO_COUNT_COUNT]⟩
def Fld.XB_TGT_RES_RESERVED : RegField := ⟨0x50100, (.lin 0x4), 8, 0, .ro, (.val 0x0), none, .no, false⟩
def Fld.XB_TGT_RES_CAP : RegField := ⟨0x50100, (.lin 0x4), 24, 16, .ro, .xbCap, none, .no, false⟩
def Reg.XB_TGT_RES : RegRow := ⟨0x50100, 16, (.lin 0x4), [Fld.XB_TGT_RES_RESERVED, Fld.XB_TGT_RES_CAP]⟩
def Fld.XB_PAIR_PRIO_F : RegField := ⟨0x50400, (.lin 0x4), 3, 0, .rw, (.val 0x8), some (0, 15), .frame, false⟩
def Fld.XB_PAIR_PRIO_B : RegField := ⟨0x50400, (.lin 0x4), 11, 8, .rw, (.val 0x4), some (0, 15), .yes, false⟩
def Fld.XB_PAIR_SHARE : RegField := ⟨0x50400, (.lin 0x4), 24, 16, .rw, (.val 0x0), some (0, 256), .frame, false⟩
def Reg.XB_PAIR : RegRow := ⟨0x50400, 384, (.lin 0x4), [Fld.XB_PAIR_PRIO_F, Fld.XB_PAIR_PRIO_B, Fld.XB_PAIR_SHARE]⟩
def Fld.DRV_CTRL_MODE : RegField := ⟨0x51000, (.lin 0x400), 0, 0, .rw, (.val 0x0), some (0, 1), .frame, false⟩
def Fld.DRV_CTRL_NF_SHARE : RegField := ⟨0x51000, (.lin 0x400), 15, 8, .rw, (.val 0x4), some (1, 255), .frame, false⟩
def Fld.DRV_CTRL_NF_CELLAR : RegField := ⟨0x51000, (.lin 0x400), 23, 16, .rw, (.val 0x0), some (0, 255), .frame, false⟩
def Fld.DRV_CTRL_NF_YARD : RegField := ⟨0x51000, (.lin 0x400), 24, 24, .rw, (.val 0x0), some (0, 1), .frame, false⟩
def Reg.DRV_CTRL : RegRow := ⟨0x51000, 16, (.lin 0x400), [Fld.DRV_CTRL_MODE, Fld.DRV_CTRL_NF_SHARE, Fld.DRV_CTRL_NF_CELLAR, Fld.DRV_CTRL_NF_YARD]⟩
def Fld.DRV_NF_GATE_NF_GATE : RegField := ⟨0x51004, (.lin 0x400), 15, 0, .rw, (.val 0x0), some (0, 65535), .frame, false⟩
def Reg.DRV_NF_GATE : RegRow := ⟨0x51004, 16, (.lin 0x400), [Fld.DRV_NF_GATE_NF_GATE]⟩
def Fld.DRV_NF_MAX_NF_MAX : RegField := ⟨0x51008, (.lin 0x400), 16, 0, .rw, (.val 0x400), some (64, 65536), .frame, false⟩
def Reg.DRV_NF_MAX : RegRow := ⟨0x51008, 16, (.lin 0x400), [Fld.DRV_NF_MAX_NF_MAX]⟩
def Fld.DRV_STATUS_CUR : RegField := ⟨0x5100C, (.lin 0x400), 2, 0, .ro, (.val 0x0), none, .no, false⟩
def Fld.DRV_STATUS_BUSY : RegField := ⟨0x5100C, (.lin 0x400), 3, 3, .ro, (.val 0x0), none, .no, false⟩
def Fld.DRV_STATUS_FRAME_DONE : RegField := ⟨0x5100C, (.lin 0x400), 4, 4, .ro, (.val 0x0), none, .no, false⟩
def Fld.DRV_STATUS_NF_OVERHANG : RegField := ⟨0x5100C, (.lin 0x400), 31, 16, .ro, (.val 0x0), none, .no, false⟩
def Reg.DRV_STATUS : RegRow := ⟨0x5100C, 16, (.lin 0x400), [Fld.DRV_STATUS_CUR, Fld.DRV_STATUS_BUSY, Fld.DRV_STATUS_FRAME_DONE, Fld.DRV_STATUS_NF_OVERHANG]⟩
def Fld.DRV_FAULT_START_REFUSED : RegField := ⟨0x51010, (.lin 0x400), 0, 0, .w1c, (.val 0x0), none, .no, false⟩
def Fld.DRV_FAULT_HOST_CH0 : RegField := ⟨0x51010, (.lin 0x400), 1, 1, .w1c, (.val 0x0), none, .no, false⟩
def Fld.DRV_FAULT_OVERPOST : RegField := ⟨0x51010, (.lin 0x400), 2, 2, .w1c, (.val 0x0), none, .no, false⟩
def Fld.DRV_FAULT_END_FAULT : RegField := ⟨0x51010, (.lin 0x400), 3, 3, .w1c, (.val 0x0), none, .no, false⟩
def Reg.DRV_FAULT : RegRow := ⟨0x51010, 16, (.lin 0x400), [Fld.DRV_FAULT_START_REFUSED, Fld.DRV_FAULT_HOST_CH0, Fld.DRV_FAULT_OVERPOST, Fld.DRV_FAULT_END_FAULT]⟩
def Fld.DRV_RESP_COUNT_KIND : RegField := ⟨0x51014, (.lin 0x400), 2, 0, .ro, (.val 0x0), none, .no, false⟩
def Fld.DRV_RESP_COUNT_CHANNEL : RegField := ⟨0x51014, (.lin 0x400), 5, 3, .ro, (.val 0x0), none, .no, false⟩
def Fld.DRV_RESP_COUNT_COUNT : RegField := ⟨0x51014, (.lin 0x400), 31, 6, .ro, (.val 0x0), none, .no, false⟩
def Reg.DRV_RESP_COUNT : RegRow := ⟨0x51014, 16, (.lin 0x400), [Fld.DRV_RESP_COUNT_KIND, Fld.DRV_RESP_COUNT_CHANNEL, Fld.DRV_RESP_COUNT_COUNT]⟩
def Fld.DRV_ERR_ADDR_LO_ADDR_LO : RegField := ⟨0x51018, (.lin 0x400), 31, 0, .ro, (.val 0x0), none, .no, false⟩
def Reg.DRV_ERR_ADDR_LO : RegRow := ⟨0x51018, 16, (.lin 0x400), [Fld.DRV_ERR_ADDR_LO_ADDR_LO]⟩
def Fld.DRV_ERR_ADDR_HI_ADDR_HI : RegField := ⟨0x5101C, (.lin 0x400), 2, 0, .ro, (.val 0x0), none, .no, false⟩
def Reg.DRV_ERR_ADDR_HI : RegRow := ⟨0x5101C, 16, (.lin 0x400), [Fld.DRV_ERR_ADDR_HI_ADDR_HI]⟩
def Fld.CH_CFG_ENTRY : RegField := ⟨0x51100, .ch, 5, 0, .rw, (.val 0x0), some (0, 63), .frame, false⟩
def Fld.CH_CFG_FRAME : RegField := ⟨0x51100, .ch, 8, 8, .rw, (.val 0x0), some (0, 1), .frame, false⟩
def Fld.CH_CFG_SHARE : RegField := ⟨0x51100, .ch, 24, 16, .rw, (.val 0x0), some (0, 256), .frame, false⟩
def Reg.CH_CFG : RegRow := ⟨0x51100, 128, .ch, [Fld.CH_CFG_ENTRY, Fld.CH_CFG_FRAME, Fld.CH_CFG_SHARE]⟩
def Fld.CH_CTRL_START : RegField := ⟨0x51104, .ch, 0, 0, .wo, (.val 0x0), none, .no, false⟩
def Reg.CH_CTRL : RegRow := ⟨0x51104, 128, .ch, [Fld.CH_CTRL_START]⟩
def Fld.CH_STATUS_STATE : RegField := ⟨0x51108, .ch, 2, 0, .ro, (.val 0x0), none, .no, false⟩
def Fld.CH_STATUS_PC : RegField := ⟨0x51108, .ch, 13, 8, .ro, (.val 0x0), none, .no, false⟩
def Fld.CH_STATUS_END_CODE : RegField := ⟨0x51108, .ch, 18, 16, .ro, (.val 0x0), none, .no, false⟩
def Reg.CH_STATUS : RegRow := ⟨0x51108, 128, .ch, [Fld.CH_STATUS_STATE, Fld.CH_STATUS_PC, Fld.CH_STATUS_END_CODE]⟩
def Fld.CH_EVENTS_FLAGS : RegField := ⟨0x5110C, .ch, 15, 0, .ro, (.val 0x0), none, .no, false⟩
def Fld.CH_EVENTS_SKIPS : RegField := ⟨0x5110C, .ch, 31, 16, .ro, (.val 0x0), none, .no, false⟩
def Reg.CH_EVENTS : RegRow := ⟨0x5110C, 128, .ch, [Fld.CH_EVENTS_FLAGS, Fld.CH_EVENTS_SKIPS]⟩
def Fld.RINGA_BASE_BASE : RegField := ⟨0x51120, .ch, 31, 0, .rw, (.val 0x0), some (0, 4294967295), .frame, false⟩
def Reg.RINGA_BASE : RegRow := ⟨0x51120, 128, .ch, [Fld.RINGA_BASE_BASE]⟩
def Fld.RINGA_LEN_LEN : RegField := ⟨0x51124, .ch, 30, 0, .rw, (.val 0x0), some (0, 1073741824), .frame, false⟩
def Reg.RINGA_LEN : RegRow := ⟨0x51124, 128, .ch, [Fld.RINGA_LEN_LEN]⟩
def Fld.RINGA_POS_POS : RegField := ⟨0x51128, .ch, 30, 0, .rw, (.val 0x0), some (0, 1073741823), .frame, false⟩
def Reg.RINGA_POS : RegRow := ⟨0x51128, 128, .ch, [Fld.RINGA_POS_POS]⟩
def Fld.RINGA_STEP_STEP : RegField := ⟨0x5112C, .ch, 30, 0, .rw, (.val 0x0), some (0, 1073741823), .frame, false⟩
def Reg.RINGA_STEP : RegRow := ⟨0x5112C, 128, .ch, [Fld.RINGA_STEP_STEP]⟩
def Fld.RINGB_BASE_BASE : RegField := ⟨0x51130, .ch, 31, 0, .rw, (.val 0x0), some (0, 4294967295), .frame, false⟩
def Reg.RINGB_BASE : RegRow := ⟨0x51130, 128, .ch, [Fld.RINGB_BASE_BASE]⟩
def Fld.RINGB_LEN_LEN : RegField := ⟨0x51134, .ch, 30, 0, .rw, (.val 0x0), some (0, 1073741824), .frame, false⟩
def Reg.RINGB_LEN : RegRow := ⟨0x51134, 128, .ch, [Fld.RINGB_LEN_LEN]⟩
def Fld.RINGB_POS_POS : RegField := ⟨0x51138, .ch, 30, 0, .rw, (.val 0x0), some (0, 1073741823), .frame, false⟩
def Reg.RINGB_POS : RegRow := ⟨0x51138, 128, .ch, [Fld.RINGB_POS_POS]⟩
def Fld.RINGB_STEP_STEP : RegField := ⟨0x5113C, .ch, 30, 0, .rw, (.val 0x0), some (0, 1073741823), .frame, false⟩
def Reg.RINGB_STEP : RegRow := ⟨0x5113C, 128, .ch, [Fld.RINGB_STEP_STEP]⟩
def Fld.MEM_CTRL_OWN_WR_EN : RegField := ⟨0x60000, (.lin 0x4), 0, 0, .rw, (.val 0x0), none, .no, false⟩
def Fld.MEM_CTRL_SCRUB_EN : RegField := ⟨0x60000, (.lin 0x4), 1, 1, .rw, (.val 0x1), none, .no, false⟩
def Fld.MEM_CTRL_RETRAIN_REQ : RegField := ⟨0x60000, (.lin 0x4), 2, 2, .wo, (.val 0x0), none, .no, false⟩
def Fld.MEM_CTRL_RETRAIN_MASK : RegField := ⟨0x60000, (.lin 0x4), 15, 8, .rw, (.val 0x0), none, .no, false⟩
def Reg.MEM_CTRL : RegRow := ⟨0x60000, 1, (.lin 0x4), [Fld.MEM_CTRL_OWN_WR_EN, Fld.MEM_CTRL_SCRUB_EN, Fld.MEM_CTRL_RETRAIN_REQ, Fld.MEM_CTRL_RETRAIN_MASK]⟩
def Fld.MEM_STATUS_CELLAR_READY : RegField := ⟨0x60004, (.lin 0x4), 0, 0, .ro, (.val 0x0), none, .no, false⟩
def Fld.MEM_STATUS_CLEAR_DONE : RegField := ⟨0x60004, (.lin 0x4), 1, 1, .ro, (.val 0x0), none, .no, false⟩
def Fld.MEM_STATUS_TOKEN_FAULT : RegField := ⟨0x60004, (.lin 0x4), 2, 2, .w1c, (.val 0x0), none, .no, false⟩
def Fld.MEM_STATUS_XVIOL : RegField := ⟨0x60004, (.lin 0x4), 3, 3, .w1c, (.val 0x0), none, .no, false⟩
def Fld.MEM_STATUS_OWN_REFUSED : RegField := ⟨0x60004, (.lin 0x4), 4, 4, .w1c, (.val 0x0), none, .no, false⟩
def Fld.MEM_STATUS_CFG_ERR : RegField := ⟨0x60004, (.lin 0x4), 5, 5, .w1c, (.val 0x0), none, .no, false⟩
def Fld.MEM_STATUS_CE_STICKY : RegField := ⟨0x60004, (.lin 0x4), 6, 6, .w1c, (.val 0x0), none, .no, false⟩
def Fld.MEM_STATUS_UE_STICKY : RegField := ⟨0x60004, (.lin 0x4), 7, 7, .w1c, (.val 0x0), none, .no, false⟩
def Fld.MEM_STATUS_RETRAIN_PENDING : RegField := ⟨0x60004, (.lin 0x4), 8, 8, .ro, (.val 0x0), none, .no, false⟩
def Reg.MEM_STATUS : RegRow := ⟨0x60004, 1, (.lin 0x4), [Fld.MEM_STATUS_CELLAR_READY, Fld.MEM_STATUS_CLEAR_DONE, Fld.MEM_STATUS_TOKEN_FAULT, Fld.MEM_STATUS_XVIOL, Fld.MEM_STATUS_OWN_REFUSED, Fld.MEM_STATUS_CFG_ERR, Fld.MEM_STATUS_CE_STICKY, Fld.MEM_STATUS_UE_STICKY, Fld.MEM_STATUS_RETRAIN_PENDING]⟩
def Fld.TOKEN_FAULT_COUNT_BANK : RegField := ⟨0x60008, (.lin 0x4), 11, 0, .ro, (.val 0x0), none, .no, false⟩
def Fld.TOKEN_FAULT_COUNT_COUNT : RegField := ⟨0x60008, (.lin 0x4), 31, 12, .ro, (.val 0x0), none, .no, false⟩
def Reg.TOKEN_FAULT_COUNT : RegRow := ⟨0x60008, 1, (.lin 0x4), [Fld.TOKEN_FAULT_COUNT_BANK, Fld.TOKEN_FAULT_COUNT_COUNT]⟩
def Fld.XVIOL_COUNT_BANK : RegField := ⟨0x6000C, (.lin 0x4), 11, 0, .ro, (.val 0x0), none, .no, false⟩
def Fld.XVIOL_COUNT_COUNT : RegField := ⟨0x6000C, (.lin 0x4), 31, 12, .ro, (.val 0x0), none, .no, false⟩
def Reg.XVIOL_COUNT : RegRow := ⟨0x6000C, 1, (.lin 0x4), [Fld.XVIOL_COUNT_BANK, Fld.XVIOL_COUNT_COUNT]⟩
def Fld.SP_ECC_COUNT_CORRECTED : RegField := ⟨0x60010, (.lin 0x4), 15, 0, .ro, (.val 0x0), none, .no, false⟩
def Fld.SP_ECC_COUNT_UNCORRECTABLE : RegField := ⟨0x60010, (.lin 0x4), 31, 16, .ro, (.val 0x0), none, .no, false⟩
def Reg.SP_ECC_COUNT : RegRow := ⟨0x60010, 1, (.lin 0x4), [Fld.SP_ECC_COUNT_CORRECTED, Fld.SP_ECC_COUNT_UNCORRECTABLE]⟩
def Fld.SP_ERR_ADDR_ADDR : RegField := ⟨0x60014, (.lin 0x4), 31, 0, .ro, (.val 0x0), none, .no, false⟩
def Reg.SP_ERR_ADDR : RegRow := ⟨0x60014, 1, (.lin 0x4), [Fld.SP_ERR_ADDR_ADDR]⟩
def Fld.SCRUB_CFG_PERIOD : RegField := ⟨0x60018, (.lin 0x4), 7, 0, .rw, (.val 0x18), some (1, 168), .no, false⟩
def Fld.SCRUB_CFG_CE_THRESH : RegField := ⟨0x60018, (.lin 0x4), 31, 16, .rw, (.val 0x10), some (1, 65535), .no, false⟩
def Reg.SCRUB_CFG : RegRow := ⟨0x60018, 1, (.lin 0x4), [Fld.SCRUB_CFG_PERIOD, Fld.SCRUB_CFG_CE_THRESH]⟩
def Fld.SCRUB_STATUS_PROGRESS : RegField := ⟨0x6001C, (.lin 0x4), 7, 0, .ro, (.val 0x0), none, .no, false⟩
def Fld.SCRUB_STATUS_PASSES : RegField := ⟨0x6001C, (.lin 0x4), 31, 16, .ro, (.val 0x0), none, .no, false⟩
def Reg.SCRUB_STATUS : RegRow := ⟨0x6001C, 1, (.lin 0x4), [Fld.SCRUB_STATUS_PROGRESS, Fld.SCRUB_STATUS_PASSES]⟩
def Fld.CELLAR_CH_STATUS_STATE : RegField := ⟨0x60100, (.lin 0x20), 1, 0, .ro, .kept, none, .no, false⟩
def Fld.CELLAR_CH_STATUS_EMERG : RegField := ⟨0x60100, (.lin 0x20), 2, 2, .ro, .kept, none, .no, false⟩
def Fld.CELLAR_CH_STATUS_RETRAIN_COUNT : RegField := ⟨0x60100, (.lin 0x20), 31, 16, .ro, .kept, none, .no, false⟩
def Reg.CELLAR_CH_STATUS : RegRow := ⟨0x60100, 8, (.lin 0x20), [Fld.CELLAR_CH_STATUS_STATE, Fld.CELLAR_CH_STATUS_EMERG, Fld.CELLAR_CH_STATUS_RETRAIN_COUNT]⟩
def Fld.CH_CE_COUNT_COUNT : RegField := ⟨0x60104, (.lin 0x20), 31, 0, .ro, .kept, none, .no, false⟩
def Reg.CH_CE_COUNT : RegRow := ⟨0x60104, 8, (.lin 0x20), [Fld.CH_CE_COUNT_COUNT]⟩
def Fld.CH_UE_COUNT_COUNT : RegField := ⟨0x60108, (.lin 0x20), 31, 0, .ro, .kept, none, .no, false⟩
def Reg.CH_UE_COUNT : RegRow := ⟨0x60108, 8, (.lin 0x20), [Fld.CH_UE_COUNT_COUNT]⟩
def Fld.CH_ERR_LO_ADDR_LO : RegField := ⟨0x6010C, (.lin 0x20), 31, 0, .ro, .kept, none, .no, false⟩
def Reg.CH_ERR_LO : RegRow := ⟨0x6010C, 8, (.lin 0x20), [Fld.CH_ERR_LO_ADDR_LO]⟩
def Fld.CH_ERR_HI_ADDR_HI : RegField := ⟨0x60110, (.lin 0x20), 2, 0, .ro, .kept, none, .no, false⟩
def Reg.CH_ERR_HI : RegRow := ⟨0x60110, 8, (.lin 0x20), [Fld.CH_ERR_HI_ADDR_HI]⟩
def Fld.CH_SHARE_SHARE : RegField := ⟨0x60114, (.lin 0x20), 7, 0, .ro, (.val 0x0), none, .no, false⟩
def Reg.CH_SHARE : RegRow := ⟨0x60114, 8, (.lin 0x20), [Fld.CH_SHARE_SHARE]⟩
def Fld.BANK_OWN_OWNER : RegField := ⟨0x61000, (.lin 0x4), 3, 0, .rw, (.val 0x9), some (0, 9), .yes, false⟩
def Fld.BANK_OWN_GUEST : RegField := ⟨0x61000, (.lin 0x4), 4, 4, .rw, (.val 0x0), some (0, 1), .yes, false⟩
def Reg.BANK_OWN : RegRow := ⟨0x61000, 2048, (.lin 0x4), [Fld.BANK_OWN_OWNER, Fld.BANK_OWN_GUEST]⟩
def Fld.DBG_SEL_STALL : RegField := ⟨0x80000, (.lin 0x4), 9, 0, .rw, (.val 0x0), none, .no, false⟩
def Reg.DBG_SEL : RegRow := ⟨0x80000, 1, (.lin 0x4), [Fld.DBG_SEL_STALL]⟩
def Fld.DBG_CTRL_HALT_REQ : RegField := ⟨0x80004, (.lin 0x4), 0, 0, .wo, (.val 0x0), none, .no, false⟩
def Fld.DBG_CTRL_STEP : RegField := ⟨0x80004, (.lin 0x4), 1, 1, .wo, (.val 0x0), none, .no, false⟩
def Fld.DBG_CTRL_RESUME : RegField := ⟨0x80004, (.lin 0x4), 2, 2, .wo, (.val 0x0), none, .no, false⟩
def Fld.DBG_CTRL_RUN_HALT_EN : RegField := ⟨0x80004, (.lin 0x4), 8, 8, .rw, (.val 0x0), none, .no, false⟩
def Reg.DBG_CTRL : RegRow := ⟨0x80004, 1, (.lin 0x4), [Fld.DBG_CTRL_HALT_REQ, Fld.DBG_CTRL_STEP, Fld.DBG_CTRL_RESUME, Fld.DBG_CTRL_RUN_HALT_EN]⟩
def Fld.DBG_STATUS_STATE : RegField := ⟨0x80008, (.lin 0x4), 2, 0, .ro, (.val 0x0), none, .no, false⟩
def Fld.DBG_STATUS_HALTED : RegField := ⟨0x80008, (.lin 0x4), 3, 3, .ro, (.val 0x0), none, .no, false⟩
def Fld.DBG_STATUS_HALT_PENDING : RegField := ⟨0x80008, (.lin 0x4), 4, 4, .ro, (.val 0x0), none, .no, false⟩
def Fld.DBG_STATUS_INLOOP : RegField := ⟨0x80008, (.lin 0x4), 5, 5, .ro, (.val 0x0), none, .no, false⟩
def Fld.DBG_STATUS_RB : RegField := ⟨0x80008, (.lin 0x4), 10, 6, .ro, (.val 0x0), none, .no, false⟩
def Fld.DBG_STATUS_CALL_DEPTH : RegField := ⟨0x80008, (.lin 0x4), 13, 11, .ro, (.val 0x0), none, .no, false⟩
def Fld.DBG_STATUS_REFUSED : RegField := ⟨0x80008, (.lin 0x4), 14, 14, .w1c, (.val 0x0), none, .no, false⟩
def Fld.DBG_STATUS_NOT_HALTED : RegField := ⟨0x80008, (.lin 0x4), 15, 15, .w1c, (.val 0x0), none, .no, false⟩
def Fld.DBG_STATUS_PC : RegField := ⟨0x80008, (.lin 0x4), 28, 16, .ro, (.val 0x0), none, .no, false⟩
def Reg.DBG_STATUS : RegRow := ⟨0x80008, 1, (.lin 0x4), [Fld.DBG_STATUS_STATE, Fld.DBG_STATUS_HALTED, Fld.DBG_STATUS_HALT_PENDING, Fld.DBG_STATUS_INLOOP, Fld.DBG_STATUS_RB, Fld.DBG_STATUS_CALL_DEPTH, Fld.DBG_STATUS_REFUSED, Fld.DBG_STATUS_NOT_HALTED, Fld.DBG_STATUS_PC]⟩
def Fld.DBG_STICKY_STICKY : RegField := ⟨0x8000C, (.lin 0x4), 10, 0, .w1c, (.val 0x0), none, .no, false⟩
def Reg.DBG_STICKY : RegRow := ⟨0x8000C, 1, (.lin 0x4), [Fld.DBG_STICKY_STICKY]⟩
def Fld.DBG_REG_SEL_INDEX : RegField := ⟨0x80010, (.lin 0x4), 7, 0, .rw, (.val 0x0), none, .no, false⟩
def Fld.DBG_REG_SEL_WORD : RegField := ⟨0x80010, (.lin 0x4), 9, 8, .rw, (.val 0x0), none, .no, false⟩
def Reg.DBG_REG_SEL : RegRow := ⟨0x80010, 1, (.lin 0x4), [Fld.DBG_REG_SEL_INDEX, Fld.DBG_REG_SEL_WORD]⟩
def Fld.DBG_REG_DATA_DATA : RegField := ⟨0x80014, (.lin 0x4), 31, 0, .rw, (.val 0x0), none, .no, false⟩
def Reg.DBG_REG_DATA : RegRow := ⟨0x80014, 1, (.lin 0x4), [Fld.DBG_REG_DATA_DATA]⟩
def Fld.DBG_BREAK_ADDR : RegField := ⟨0x80018, (.lin 0x4), 12, 0, .rw, (.val 0x0), none, .no, false⟩
def Fld.DBG_BREAK_EN : RegField := ⟨0x80018, (.lin 0x4), 16, 16, .rw, (.val 0x0), none, .no, false⟩
def Reg.DBG_BREAK : RegRow := ⟨0x80018, 1, (.lin 0x4), [Fld.DBG_BREAK_ADDR, Fld.DBG_BREAK_EN]⟩
def Fld.STALL_FAULT_SUM_ANY : RegField := ⟨0x80100, (.lin 0x4), 31, 0, .ro, (.val 0x0), none, .no, false⟩
def Reg.STALL_FAULT_SUM : RegRow := ⟨0x80100, 32, (.lin 0x4), [Fld.STALL_FAULT_SUM_ANY]⟩
def Fld.RQ_BASE_LO_BASE : RegField := ⟨0x100000000, (.lin 0x1000), 31, 0, .rw, (.val 0x0), none, .no, false⟩
def Reg.RQ_BASE_LO : RegRow := ⟨0x100000000, 8, (.lin 0x1000), [Fld.RQ_BASE_LO_BASE]⟩
def Fld.RQ_BASE_HI_BASE : RegField := ⟨0x100000004, (.lin 0x1000), 31, 0, .rw, (.val 0x0), none, .no, false⟩
def Reg.RQ_BASE_HI : RegRow := ⟨0x100000004, 8, (.lin 0x1000), [Fld.RQ_BASE_HI_BASE]⟩
def Fld.RQ_SIZE_SIZE : RegField := ⟨0x100000008, (.lin 0x1000), 31, 0, .rw, (.val 0x10), none, .no, false⟩
def Reg.RQ_SIZE : RegRow := ⟨0x100000008, 8, (.lin 0x1000), [Fld.RQ_SIZE_SIZE]⟩
def Fld.RQ_TAIL_TAIL : RegField := ⟨0x10000000C, (.lin 0x1000), 31, 0, .rw, (.val 0x0), none, .no, false⟩
def Reg.RQ_TAIL : RegRow := ⟨0x10000000C, 8, (.lin 0x1000), [Fld.RQ_TAIL_TAIL]⟩
def Fld.RQ_HEAD_HEAD : RegField := ⟨0x100000010, (.lin 0x1000), 31, 0, .ro, (.val 0x0), none, .no, false⟩
def Reg.RQ_HEAD : RegRow := ⟨0x100000010, 8, (.lin 0x1000), [Fld.RQ_HEAD_HEAD]⟩
def Fld.PQ_BASE_LO_BASE : RegField := ⟨0x100000014, (.lin 0x1000), 31, 0, .rw, (.val 0x0), none, .no, false⟩
def Reg.PQ_BASE_LO : RegRow := ⟨0x100000014, 8, (.lin 0x1000), [Fld.PQ_BASE_LO_BASE]⟩
def Fld.PQ_BASE_HI_BASE : RegField := ⟨0x100000018, (.lin 0x1000), 31, 0, .rw, (.val 0x0), none, .no, false⟩
def Reg.PQ_BASE_HI : RegRow := ⟨0x100000018, 8, (.lin 0x1000), [Fld.PQ_BASE_HI_BASE]⟩
def Fld.PQ_SIZE_SIZE : RegField := ⟨0x10000001C, (.lin 0x1000), 31, 0, .rw, (.val 0x10), none, .no, false⟩
def Reg.PQ_SIZE : RegRow := ⟨0x10000001C, 8, (.lin 0x1000), [Fld.PQ_SIZE_SIZE]⟩
def Fld.PQ_HEAD_HEAD : RegField := ⟨0x100000020, (.lin 0x1000), 31, 0, .rw, (.val 0x0), none, .no, false⟩
def Reg.PQ_HEAD : RegRow := ⟨0x100000020, 8, (.lin 0x1000), [Fld.PQ_HEAD_HEAD]⟩
def Fld.PQ_TAIL_TAIL : RegField := ⟨0x100000024, (.lin 0x1000), 31, 0, .ro, (.val 0x0), none, .no, false⟩
def Reg.PQ_TAIL : RegRow := ⟨0x100000024, 8, (.lin 0x1000), [Fld.PQ_TAIL_TAIL]⟩
def Fld.QP_CTRL_EN : RegField := ⟨0x100000028, (.lin 0x1000), 0, 0, .rw, (.val 0x0), none, .no, false⟩
def Fld.QP_CTRL_MASK : RegField := ⟨0x100000028, (.lin 0x1000), 1, 1, .rw, (.val 0x0), none, .no, false⟩
def Reg.QP_CTRL : RegRow := ⟨0x100000028, 8, (.lin 0x1000), [Fld.QP_CTRL_EN, Fld.QP_CTRL_MASK]⟩
def Fld.QP_STATUS_RING_ERR : RegField := ⟨0x10000002C, (.lin 0x1000), 0, 0, .w1c, (.val 0x0), none, .no, false⟩
def Fld.QP_STATUS_CRC_ERR : RegField := ⟨0x10000002C, (.lin 0x1000), 1, 1, .w1c, (.val 0x0), none, .no, false⟩
def Fld.QP_STATUS_FORMAT_ERR : RegField := ⟨0x10000002C, (.lin 0x1000), 2, 2, .w1c, (.val 0x0), none, .no, false⟩
def Reg.QP_STATUS : RegRow := ⟨0x10000002C, 8, (.lin 0x1000), [Fld.QP_STATUS_RING_ERR, Fld.QP_STATUS_CRC_ERR, Fld.QP_STATUS_FORMAT_ERR]⟩

def regTable0 : List RegRow :=
  [Reg.ID_PART, Reg.ID_REV, Reg.ID_UID, Reg.ID_OPTIONS, Reg.ENDPOINT_ID, Reg.FW_VERSION,
   Reg.ENGINE_MODE, Reg.SCRATCH, Reg.EVT_PENDING, Reg.EVT_IRQ_EN, Reg.EVT_HEAD, Reg.EVT_RD_INDEX,
   Reg.EVT_DATA, Reg.FG_CTRL, Reg.FG_STATUS, Reg.FG_LATE_COUNT, Reg.FG_OVERRUN_COUNT, Reg.FG_ABORT_COUNT,
   Reg.FG_DISCARD_COUNT, Reg.FG_BREACH_COUNT, Reg.FG_LAST_OVR_LO, Reg.FG_LAST_OVR_HI, Reg.FG_REPORT_CTRL, Reg.FG_REPORT_DATA,
   Reg.SLACK_LAST, Reg.SLACK_WINDOW, Reg.SLACK_HIST, Reg.SLACK_CLR, Reg.AVS_CTRL, Reg.AVS_LIMITS,
   Reg.AVS_STATUS, Reg.SLEDGER_STATUS, Reg.SLEDGER_SEL, Reg.SLEDGER_CNT_LO, Reg.SLEDGER_CNT_HI, Reg.BREW_SEL,
   Reg.BREW_STATUS, Reg.BREW_ITEMS, Reg.BREW_TAP_LO, Reg.BREW_TAP_HI]
def regTable1 : List RegRow :=
  [Reg.BREW_EFF_LO, Reg.BREW_EFF_HI, Reg.TAP_CTRL, Reg.TAP_STATUS, Reg.TAP_DEFER_COUNT, Reg.TAP_SPLIT_COUNT,
   Reg.TAP_TOKEN_LATE, Reg.CMD_CTRL, Reg.CMD_SESS, Reg.CMD_STATUS, Reg.CMD_CHECK_COUNT, Reg.CMD_AUTH_COUNT,
   Reg.CMD_DUP_COUNT, Reg.CMD_CONFLICT_COUNT, Reg.CMD_SEQ_GAP_COUNT, Reg.CMD_RX_DROP_COUNT, Reg.NET_CTRL, Reg.NET_ETH_TYPE,
   Reg.NET_IP_ADDR, Reg.NET_IP_MASK, Reg.NET_IP_GW, Reg.MODE_STATUS, Reg.RESET_CAUSE, Reg.RESET_CTRL,
   Reg.RST_PARTNER, Reg.WDOG_CTRL, Reg.BLOCK_RST_STATUS, Reg.THERM_CTRL, Reg.THERM_STATUS, Reg.MAINS_CTRL,
   Reg.MAINS_STATUS, Reg.WAKE_CTRL, Reg.WAKE_STATUS, Reg.PWR_CTRL, Reg.SUPPLY_STATUS, Reg.BK_SEC_LO,
   Reg.BK_SEC_HI, Reg.BK_ALARM_LO, Reg.BK_ALARM_HI, Reg.AVS_IF_CTRL]
def regTable2 : List RegRow :=
  [Reg.AVS_IF_STATUS, Reg.VCORE_MEAS, Reg.BOOT_CTRL, Reg.BOOT_DATA, Reg.BOOT_LEN, Reg.OVR_CTRL,
   Reg.OVR_HOLD, Reg.OVR_STATUS, Reg.OVR_FRAME_LO, Reg.OVR_FRAME_HI, Reg.OVR_COUNT, Reg.OVR_UNLATCH,
   Reg.TEAM_STATUS_REG, Reg.TEAM_PARENT, Reg.HERD_CTRL, Reg.HERD_STATUS, Reg.HERD_LATE_COUNT, Reg.HERD_MARGIN,
   Reg.HERD_ROUTE_DROP, Reg.SHADOW_CTRL, Reg.SHADOW_STATUS, Reg.SHADOW_PARTNER, Reg.SHADOW_MIRROR, Reg.SHADOW_DIV_COUNT,
   Reg.SHADOW_SKIP_COUNT, Reg.SHADOW_SWITCH_COUNT, Reg.SHADOW_LAST_DIV_LO, Reg.SHADOW_LAST_DIV_HI, Reg.FIELD_ROUTE, Reg.CLK_CTRL,
   Reg.CLK_STATUS, Reg.CLK_CAND, Reg.CLK_CAND_STATUS, Reg.HOLDOVER_CFG, Reg.DPLL_FREQ, Reg.DPLL_PHASE,
   Reg.HO_HISTORY, Reg.HERD_EPOCH_LO, Reg.HERD_EPOCH_HI, Reg.MAP_FRAME_LO]
def regTable3 : List RegRow :=
  [Reg.MAP_FRAME_HI, Reg.MAP_SEC_LO, Reg.MAP_SEC_HI, Reg.MAP_NS, Reg.PTP_CFG, Reg.PTP_DS,
   Reg.PTP_RATES, Reg.PTP_ETH_EN, Reg.PTP_TRACE_EN_LO, Reg.PTP_TRACE_EN_HI, Reg.TIME_STATUS, Reg.OFFSET,
   Reg.MEAN_DELAY, Reg.RATE_LO, Reg.RATE_HI, Reg.GM_ID_LO, Reg.GM_ID_HI, Reg.STEP_LAST_LO,
   Reg.STEP_LAST_HI, Reg.STEP_COUNT, Reg.TIME_SNAP, Reg.RAW_NS_LO, Reg.RAW_NS_HI, Reg.RAW_SUBNS,
   Reg.A_SEC_LO, Reg.A_SEC_HI, Reg.A_NS, Reg.B_SEC_LO, Reg.B_SEC_HI, Reg.B_NS,
   Reg.SNAP_FRAME_LO, Reg.SNAP_FRAME_HI, Reg.SNAP_PHASE, Reg.CLKOUT_CFG, Reg.CLKOUT_STATUS, Reg.LANE_TS_ADJ,
   Reg.LINK_CTRL, Reg.LINK_GSTATUS, Reg.ETH_MAC_LO, Reg.ETH_MAC_HI]
def regTable4 : List RegRow :=
  [Reg.LANE_CFG, Reg.LANE_STATUS, Reg.LANE_ERR, Reg.LANE_ETH, Reg.TRACE_CFG, Reg.TRACE_STATE,
   Reg.TRACE_PEER, Reg.TRACE_LATENCY, Reg.TRACE_TX_REGION, Reg.TRACE_TX_SLOTS, Reg.TRACE_RX_REGION, Reg.TRACE_RX_SLOTS,
   Reg.TRACE_RETRY, Reg.TRACE_REINIT, Reg.TRACE_REGION_ERR, Reg.TRACE_MARKER_ERR, Reg.TRACE_FLAGS, Reg.TX_SLOT,
   Reg.RX_SLOT, Reg.PORT_GSTATUS, Reg.PORT_RUNNING, Reg.PDM_RUNNING, Reg.PORT_CFG, Reg.PORT_STATE,
   Reg.PORT_FLAGS, Reg.PORT_UNDER_COUNT, Reg.PORT_OVER_COUNT, Reg.RING_BASE, Reg.RING_CFG, Reg.PDM_CLK,
   Reg.PDM_CFG, Reg.PDM_RING_BASE, Reg.PDM_RING_CFG, Reg.AMP_GCTRL, Reg.AMP_GSTATUS, Reg.AMP_CFG,
   Reg.AMP_LOOP, Reg.AMP_FSW, Reg.AMP_PROT, Reg.AMP_STATE]
def regTable5 : List RegRow :=
  [Reg.AMP_FAULT, Reg.AMP_COUNTS, Reg.AMP_GROUP_CFG, Reg.AMP_GROUP_STATUS, Reg.BAND_RANGE, Reg.BAND_CFG,
   Reg.AMP_SIL_CFG, Reg.AMP_SIL_STATUS, Reg.AMP_WAKE_CFG, Reg.LIM_P100, Reg.LIM_P1S, Reg.LIM_VFS,
   Reg.LIM_IFS, Reg.LIM_CTRL, Reg.LIM_STATUS, Reg.LIM_E100, Reg.LIM_E1S, Reg.XB_CTRL,
   Reg.XB_STATUS, Reg.XB_DEF_COUNT, Reg.XB_DEF_ADDR_LO, Reg.XB_DEF_ADDR_HI, Reg.XB_TO_COUNT, Reg.XB_TGT_RES,
   Reg.XB_PAIR, Reg.DRV_CTRL, Reg.DRV_NF_GATE, Reg.DRV_NF_MAX, Reg.DRV_STATUS, Reg.DRV_FAULT,
   Reg.DRV_RESP_COUNT, Reg.DRV_ERR_ADDR_LO, Reg.DRV_ERR_ADDR_HI, Reg.CH_CFG, Reg.CH_CTRL, Reg.CH_STATUS,
   Reg.CH_EVENTS, Reg.RINGA_BASE, Reg.RINGA_LEN, Reg.RINGA_POS]
def regTable6 : List RegRow :=
  [Reg.RINGA_STEP, Reg.RINGB_BASE, Reg.RINGB_LEN, Reg.RINGB_POS, Reg.RINGB_STEP, Reg.MEM_CTRL,
   Reg.MEM_STATUS, Reg.TOKEN_FAULT_COUNT, Reg.XVIOL_COUNT, Reg.SP_ECC_COUNT, Reg.SP_ERR_ADDR, Reg.SCRUB_CFG,
   Reg.SCRUB_STATUS, Reg.CELLAR_CH_STATUS, Reg.CH_CE_COUNT, Reg.CH_UE_COUNT, Reg.CH_ERR_LO, Reg.CH_ERR_HI,
   Reg.CH_SHARE, Reg.BANK_OWN, Reg.DBG_SEL, Reg.DBG_CTRL, Reg.DBG_STATUS, Reg.DBG_STICKY,
   Reg.DBG_REG_SEL, Reg.DBG_REG_DATA, Reg.DBG_BREAK, Reg.STALL_FAULT_SUM, Reg.RQ_BASE_LO, Reg.RQ_BASE_HI,
   Reg.RQ_SIZE, Reg.RQ_TAIL, Reg.RQ_HEAD, Reg.PQ_BASE_LO, Reg.PQ_BASE_HI, Reg.PQ_SIZE,
   Reg.PQ_HEAD, Reg.PQ_TAIL, Reg.QP_CTRL, Reg.QP_STATUS]
/-- Every register row of the address map, in address order of the regions. -/
def regTable : List RegRow :=
  regTable0 ++ regTable1 ++ regTable2 ++ regTable3 ++ regTable4 ++ regTable5 ++ regTable6

/-- Address distance of copy `i`. -/
def strideOff : Stride → Nat → Nat
  | .lin n, i => n * i
  | .ch, i => 0x400 * (i / 8) + 0x40 * (i % 8)

/-- The copy of a row that lies `off` bytes above its base, if one does. -/
def strideIndex (st : Stride) (count off : Nat) : Option Nat :=
  match st with
  | .lin n => if off % n = 0 ∧ off / n < count then some (off / n) else none
  | .ch =>
    let i := 8 * (off / 0x400) + (off % 0x400) / 0x40
    if off % 0x40 = 0 ∧ (off % 0x400) / 0x40 < 8 ∧ i < count then some i else none

/-- Which copy of the row `r` is the register at address `a`. -/
def rowIndex (r : RegRow) (a : Nat) : Option Nat :=
  if r.base ≤ a then strideIndex r.stride r.count (a - r.base) else none

/-- The row and copy at address `a` among `rows`. -/
def findRow (a : Nat) : List RegRow → Option (RegRow × Nat)
  | [] => none
  | r :: rs =>
    match rowIndex r a with
    | some i => some (r, i)
    | none => findRow a rs

/-- The register at address `a` of register space, if the address is assigned. -/
def regAt (a : Nat) : Option (RegRow × Nat) := findRow a regTable

/-- Reset value of copy `i` of a field. The fields of Table 15.x and 9.x whose resets differ by copy are the four
last codes. A kept field and an option-loaded field read 0 until hardware or option loading first sets them. -/
def resetOf (v : ResetVal) (i : Nat) : Nat :=
  match v with
  | .val n => n
  | .option => 0
  | .kept => 0
  | .index => i
  | .candEn => if i = 4 ∨ i = 5 ∨ i = 6 ∨ i = 9 then 1 else 0
  | .candQclass => if i = 9 then 0xFE else 0xF8
  | .candBw => if i < 4 then 5 else if i < 6 then 2 else if i = 6 then 6 else if i < 9 then 4 else 0
  | .xbCap => if i < 4 then 224 else if i < 12 then 204 else if i = 12 then 0 else if i < 15 then 240 else 0

/-- The bits `hi` to `lo` of `w` as a number. -/
def bitsOf (hi lo w : Nat) : Nat := (w >>> lo) % 2 ^ (hi + 1 - lo)

/-- `w` with the number `v` in its bits `hi` to `lo` (`v` is cut to the field). -/
def putBits (hi lo w v : Nat) : Nat :=
  w - (bitsOf hi lo w) * 2 ^ lo + (v % 2 ^ (hi + 1 - lo)) * 2 ^ lo

/-- The word that the fields `fs` of copy `i` hold at reset. -/
def resetWord (fs : List RegField) (i : Nat) : Nat :=
  fs.foldl (fun w f => putBits f.hi f.lo w (resetOf f.rst i)) 0

/-- What register space reads as where nothing has been written: each field at its reset value, reserved fields
and unassigned offsets 0 (R10, R11). -/
def regDefault (a : Nat) : Word32 :=
  match regAt a with
  | some (r, i) => BitVec.ofNat 32 (resetWord r.fields i)
  | none => 0

/-- Address of copy `i` of a field. -/
def fieldAddr (f : RegField) (i : Nat) : Nat := f.base + strideOff f.stride i

end Sys2Proof.Machine
end

