-- ==== Sys2Proof/Machine/State.lean ====
section
/-! DEFINITION. The state of the engine, as plain data: everything the spec gives the block, and the queue of
commands that wait. Notes name the rule of the spec that gives each piece. -/

namespace Sys2Proof.Machine

/-! ### Units and stalls -/

/-- What a unit of frame work is doing; codes as in Table 2.5, 0 for a unit that has ended (Table 3.13). -/
inductive UnitState where
  | ended | running | waitEvent | waitRecv | waitSend | waitTarget | waitBarrier | aborted
deriving DecidableEq, Repr

/-- The end of one frame's work of a unit: the frame, the raw time, and whether an abort ended it (R34, R48). -/
structure EndRec where
  frame : Nat
  t : Nat
  byAbort : Bool
deriving DecidableEq, Repr

/-- What the frame guard holds of a unit (R25, R26, R34–R48). `skips`: skipped frames still to be settled at their
boundary + 2, with the flag that an abort caused the skip (R43, R48). -/
structure UnitRec where
  st : UnitState
  frame : Nat
  ends : List EndRec
  skips : List (Nat × Bool)
deriving DecidableEq, Repr

/-- A stall's event flag: set, SKIP bit, frame tag of its post (Table 3.1, R43). -/
structure EventFlag where
  set : Bool
  skip : Bool
  tag : BitVec 5
deriving DecidableEq, Repr

/-- An entry of an exchange receive slot: sample, FILL bit, frame tag; `here` is false while it is in transit
(Table 3.1, R82, R83). -/
structure ExchEntry where
  sample : S48
  fill : Bool
  tag : BitVec 5
  here : Bool
deriving DecidableEq, Repr

/-- What waits for a free entry of a full slot: a blocked sender, or a fill of the frame guard (R41, R82). -/
inductive SlotWaiter where
  | sender (unit : Nat)
  | fill (sample : S48) (tag : BitVec 5)
deriving DecidableEq, Repr

/-- An exchange receive slot (R82). `last` is the last real sample sent to it and `run` the fills since (R42). -/
structure ExchSlot where
  entries : List ExchEntry
  waiters : List SlotWaiter
  last : S48
  run : Nat
deriving DecidableEq, Repr

/-- A write that an issued word has still to make (R67, R68). D registers are named physically (R74). -/
inductive Wb where
  | d (i : Nat) (v : S48)
  | a (i : Nat) (v : A96) (mac : Bool)
  | c (i : Nat) (v : C32)
  | p (i : Nat) (v : P20)
  | m (i : Nat) (v : P20)
  | l (i : Nat) (v : P20)
  | x (i : Nat) (v : X40)
  | flags (z n v : Option Bool)
  | fillrx (b : Bool)
  | evskip (b : Bool)
  | mem (addr : Nat) (bytes : List Byte)
deriving DecidableEq, Repr

/-- A pending write with the issue number from which it is seen. -/
structure Inflight where
  due : Nat
  what : Wb
deriving DecidableEq, Repr

/-- The REPEAT in progress (Table 3.1, R71, R104): start, length, iterations that remain, ROT. `atEnd`: the last word of the
body has been issued and the iteration end has still to come. -/
structure LoopSt where
  start : PcAddr
  len : Nat
  count : Nat
  rot : Bool
  atEnd : Bool
deriving DecidableEq, Repr

/-- Delay slots still to issue, and where control goes after them (R70). -/
structure DelaySt where
  left : Nat
  target : Option PcAddr
deriving DecidableEq, Repr

/-- The instruction on which a stall is blocked (R82, R85). -/
inductive Blocked where
  | wait (flag : Nat)
  | recv (slot : Nat) (ddst : BitVec 6)
  | send (unit slot : Nat) (sample : S48)
deriving DecidableEq, Repr

/-- The architectural state of one stall (Table 3.1), its pipeline, and what the debug window holds of it (R90). `callOver`: CALL stack entries at or above the
depth that the debug window has written. -/
structure Stall where
  d : SMap S48
  a : SMap A96
  c : SMap C32
  p : SMap P20
  m : SMap P20
  l : SMap P20
  x : SMap X40
  rb : BitVec 5
  z : Bool
  n : Bool
  v : Bool
  fillrx : Bool
  evskip : Bool
  ef : SMap EventFlag
  pc : PcAddr
  calls : List PcAddr
  callOver : SMap PcAddr
  loop : Option LoopSt
  slots : SMap ExchSlot
  inflight : List Inflight
  issueNo : Nat
  frameIssues : Nat
  delay : Option DelaySt
  blocked : Option Blocked
  sendsMade : List (Nat × Nat)
  signalsMade : List (Nat × Nat)
  halted : Bool
  haltPending : Bool
  stepping : Bool
  breakHit : Bool
  abortPending : Bool
  sticky : BitVec 11
  tokenMoves : List (Nat × Nat × Bool)
deriving DecidableEq, Repr





/-- A write to a stall's program page that is held against an old live page (R59). -/
structure HeldWrite where
  page : Bool
  word : Nat
  val : ProgWord
deriving DecidableEq, Repr

/-- The two program pages of a stall (Table 3.1): which is live, a swap that waits for the stall's next start (R59), the parameter
select PSEL and an inversion that waits in the same way (R152), headers, held writes, and the first frame of the live page. DESIGN CHOICE: log entry 11. -/
structure Pages where
  live : Bool
  swapDue : Bool
  psel : Bool
  pselDue : Bool
  hdr0 : PageHeader
  hdr1 : PageHeader
  held : List HeldWrite
  since : Nat
deriving DecidableEq, Repr

/-- An output write on its way to its destination (R77), with the frame its unit runs. -/
structure OutWrite where
  unit : Nat
  frame : Nat
  chan : Nat
  entry : OutEntry
  val : S48
deriving DecidableEq, Repr

/-- A landed word of an output destination: compute frame, sink, value (R77, R434). -/
structure OutWord where
  frame : Nat
  sink : Nat
  val : S48
deriving DecidableEq, Repr

/-- What the fill of an output channel needs (R42): the last sample written to it, and the consecutive frames filled since. -/
structure SinkFill where
  last : S48
  run : Nat
deriving DecidableEq, Repr

/-- An output destination: landed words of the open frames, the fills of its channels by sink, which R77 keeps apart, the word it presents, and the first
frame whose link region has not been sent (R334). -/
structure OutCell where
  words : List OutWord
  fills : SMap SinkFill
  present : S48
  closed : Nat
deriving DecidableEq, Repr

/-- A posted flag on its way to its receiver (R85, R239). -/
structure Post where
  unit : Nat
  flag : Nat
  skip : Bool
  tag : BitVec 5
deriving DecidableEq, Repr

/-! ### Frame guard and ledger -/

/-- An entry of the frame-guard report (Table 2.5). -/
structure ReportEntry where
  unit : Nat
  st : Nat
  flag : Nat
  pc : Nat
  producer : Nat
  inCycle : Bool
deriving DecidableEq, Repr

/-- The frame guard and the adaptive VCORE loop (R34–R48). `setHalf` is the setpoint in half millivolts. -/
structure FgState where
  report : List ReportEntry
  reportFrame : Nat
  rdPtr : Nat
  slack : SMap Int
  slackFrame : Nat
  setHalf : Nat
  winFrames : Nat
  winAbove : Bool
  lastRaise : Option Nat
  floorUntil : Nat
deriving DecidableEq, Repr

/-- The counts of one stream (R52): E, D, and F by cause code. -/
structure StreamCounts where
  active : Bool
  e : Nat
  d : Nat
  f : SMap Nat
deriving DecidableEq, Repr

/-- The sample-frame ledger (R52–R53): running counts, the snapshot of the latest boundary, the last audited
snapshot, and the snapshot of an audit in progress. -/
structure Ledger where
  cur : SMap StreamCounts
  snap : SMap StreamCounts
  snapFrame : Nat
  aud : SMap StreamCounts
  audFrame : Nat
  pend : Option (SMap StreamCounts × Nat)
deriving DecidableEq, Repr

/-- An event that waits for its log write (R291); `only`: the one session that gets it (R292). -/
structure EvtWait where
  code : Nat
  frame : Nat
  arg0 : Nat
  arg1 : Nat
  only : Option Nat
deriving DecidableEq, Repr

/-! ### Crossbar and drovers -/

/-- The kind of a crossbar response (R243); `ok` is no error. Codes as in Table 9.19. -/
inductive RespKind where
  | ok | decode | bank | ecc | timeout | isolated
deriving DecidableEq, Repr

/-- A burst that an arbitration point has granted and that has no response yet (R219, R223, R226): master, target, address, and the
bytes of a write or the length of a read, and the response
kind under which it was granted: a later move of a bank's token does not touch it (R205). -/
structure Burst where
  master : Nat
  target : Nat
  addr : Nat
  len : Nat
  data : Option (List Byte)
  kind : RespKind
deriving DecidableEq, Repr

/-- An arbitration point: the last master granted, on which it parks, and the master after which each round-robin turn begins
(Table 9.3). -/
structure ArbPoint where
  parked : Nat
  rrF : Nat
  rrB : Nat
deriving DecidableEq, Repr

/-- A LOOP in progress in a drover program (R238): its own index, and the passes that remain. -/
structure DrvLoop where
  at_ : Nat
  left : Nat
deriving DecidableEq, Repr

/-- The program a drover runs (R231): channel, the frame it runs if the channel is a frame channel, the instruction index, the LOOP in
progress, the bytes its MOVEs have moved, the elements of the present MOVE already moved, whether the next instruction waits for the write
responses of a MOVE with BARRIER, and the target and address on which the MOVE waits, with the flag that this wait has timed out (R226). -/
structure DrvRun where
  ch : Nat
  frame : Option Nat
  pc : Nat
  loop : Option DrvLoop
  bytes : Nat
  paced : Nat
  barrier : Bool
  waits : Option (Nat × Nat)
  lost : Bool
deriving DecidableEq, Repr

/-- A drover: the program it runs, the last non-frame channel started (R231). -/
structure Drover where
  run : Option DrvRun
  lastNf : Nat
deriving DecidableEq, Repr
/-! ### Command layer (R246–R294) -/

/-- An entry of a sequence window that is not EMPTY (R254): BUSY with its tag, or DONE with its cached reply. -/
structure WinEntry where
  seq : Nat
  done : Bool
  check : Nat
  tag : Nat
  reply : List Byte
deriving DecidableEq, Repr

/-- A session (R252–R254, R264, R265, R292). `count` is the number of sequence numbers from S0 to H. -/
structure Session where
  num : Nat
  source : Source
  via : Via
  key : Option Nat
  nonce : Nat
  hostNonce : Nat
  s0 : Nat
  count : Nat
  win : List WinEntry
  exec : Nat
  gapLoss : Nat
  evCount : Nat
  mask : Nat
  opened : Nat
  used : Bool
  openReply : List Byte
deriving DecidableEq, Repr

/-- A received packet that waits for admission (R258). -/
structure RxPacket where
  source : Source
  via : Via
  bytes : List Byte
deriving DecidableEq, Repr

/-- A packet that waits for its transport (R265, R268, R270): a reply, or a notice of a session. -/
structure TxPacket where
  source : Source
  via : Via
  session : Nat
  notice : Bool
  bytes : List Byte
deriving DecidableEq, Repr

/-- A record of the event log (Table 11.18) with its running index and the raw time of its log write. -/
structure EventRec where
  index : Nat
  code : Nat
  frame : Nat
  arg0 : Nat
  arg1 : Nat
  rep : Nat
  t : Nat
deriving DecidableEq, Repr

/-- The counts of a session at a frame marker (R264, R286): session, EXEC, GAP_LOSS, EMPTY entries at or above S0, S0, the count of
numbers from S0 to H, and GAP_RESET. -/
structure SeqCounts where
  session : Nat
  exec : Nat
  gapLoss : Nat
  empty : Nat
  s0 : Nat
  count : Nat
  reset : Nat
deriving DecidableEq, Repr

/-- The work of a compile job (R127, R138): target brew, CERT_TARGET, NO_BASE, the snapshot of the working graph and its parameter values, the FS code of
its first step, the error count and diagnostics so far, the compile leader for a member's part, and at a leader the members whose phase end
or result is awaited (member index, endpoint, phase ended, ended DONE); the whole graph where the snapshot is a member's subgraph; the plan that the phases
from LOWER on work out; in SHADOW the partner's program (R141). -/
structure CompileJob where
  brew : Nat
  target : Nat
  noBase : Bool
  snap : Graph
  params : SMap Word32
  fs : Nat
  diags : List Diag
  lost : Nat
  leader : Option Nat
  members : List (Nat × Nat × Nat × Bool)
  whole : Graph
  plan : Option CompileOut
  partner : Option ProgramSet
deriving DecidableEq, Repr

/-- A participant of a tap group: endpoint and brew handle (R190). -/
structure GroupPart where
  endpoint : Nat
  handle : Nat
deriving DecidableEq, Repr

/-- What a job does (R259). -/
inductive JobWork where
  | compile (c : CompileJob)
  | kernel (handle : Nat) (bytes : List Byte)
  | load (brew addr : Nat)
  | store (brew addr limit : Nat)
  | tap (brew : Nat)
  | copy (src dst len : Nat)
  | flash (offset : Nat) (bytes : List Byte)
  | trace (t : Nat)
  | diag (mask test : Nat)
  | team (ids acked : List Nat)
deriving DecidableEq, Repr

/-- A job record (Table 11.3). `state`: 0 RUNNING, 1 DONE, 2 FAILED, 3 CANCELLED, 4 SPILLED. -/
structure JobRec where
  handle : Nat
  opcode : Nat
  session : Nat
  state : Nat
  phase : Nat
  progress : Nat
  final : Nat
  detail : Nat
  startFrame : Nat
  endFrame : Nat
  result : Nat
  cancel : Bool
  work : JobWork
deriving DecidableEq, Repr

/-- A host region of the cellar (R287). -/
structure CellarRegion where
  id : Nat
  base : Nat
  len : Nat
deriving DecidableEq, Repr

/-! ### Graphs, parameters, meters (R114–R170) -/

/-- A loaded user kernel object, or one that is arriving (R122, R280): handle and the bytes of Table 5.7. -/
structure KernelObj where
  handle : Nat
  bytes : List Byte
deriving DecidableEq, Repr


/-- A ramp of one parameter group, or the crossfade of a delay or a polarity (R155–R161): owner, index, unit that runs the node; type, length N or the
step a of EXP, samples processed, the fraction t of the present sample in 2^−28 (EXP) and that of the last sample processed as a quotient; the start point of
each coefficient in units of 2^−40 (LOG: the dB value in units of 2^−12 of 1/1,000 dB) and as an exact quotient in these units, the target in the same
units, the coefficients in which it ends, those used at the last sample; the old and the new position of a crossfade; divisor, phase and
multiplier of the node's segment, the first frame at which it may start, and the restarts since a completion (R160). -/
structure Ramp where
  owner : Nat
  index : Nat
  unit : Nat
  type : Nat
  n : Nat
  j : Nat
  t : Nat
  frac : Nat × Nat
  start : List Int
  exact : List (Int × Nat)
  target : List Int
  goal : List Int
  used : List Int
  pos : Nat × Nat
  div : Nat
  phase : Nat
  mul : Nat
  from_ : Nat
  restarts : Nat
deriving DecidableEq, Repr

/-- A route crossfade at a node (R185, R186): stall that runs it, divisor, phase and multiplier of the node's segment, samples of pre-roll that are left, length N,
samples crossfaded, the gains of the old and the new route at the last sample, and the first frame at which it may start. -/
structure Fade where
  node : Nat
  unit : Nat
  div : Nat
  phase : Nat
  mul : Nat
  pre : Nat
  n : Nat
  j : Nat
  gOld : Int
  gNew : Int
  from_ : Nat
deriving DecidableEq, Repr

/-- The fixed stages of a channel of an INSTRIP (R162, R164): the integrator of the DC blocker, the last two inputs and outputs of the HPF, and the
samples for which the silence detector has seen nothing at or above the threshold. -/
structure InStrip where
  dc : Int
  x1 : Int
  x2 : Int
  y1 : Int
  y2 : Int
  quiet : Nat
deriving DecidableEq, Repr

/-- Ballistics of a metered channel (R169): held peak in 1/100,000,000 dB, ns for which it is still held, average of the mean squares in 2^−28, gain reduction in 1/100 dB;
and whether the channel's silence detector reports SILENT (R164). -/
structure MeterBal where
  hold : Int
  holdLeft : Nat
  meanSq : Nat
  gr : Int
  silent : Bool
deriving DecidableEq, Repr

/-- Extremes of a metered channel since a session's last read (R170): peak magnitude, OVERS, CLIP and FILL. -/
structure MeterExt where
  peak : Nat
  overs : Nat
  clip : Bool
  fill : Bool
deriving DecidableEq, Repr

/-- The meters of a node: loudest channel, last period's frame, ballistics, and extremes by session (R168–R170). -/
structure MeterRec where
  loudest : Nat
  frame : Nat
  chans : List MeterBal
  ext : List (Nat × List MeterExt)
deriving DecidableEq, Repr

/-! ### Brews and tap groups (R171–R197) -/

/-- A record of a brew log (Table 11.9). -/
inductive BrewItem where
  | param (node index : Nat) (value : Word32)
  | reg (r : RegItem)
deriving DecidableEq, Repr

/-- A resource that a brew claims (R174). -/
inductive Claim where
  | window (u : Nat)
  | page (u : Nat)
  | reg (a : Nat)
  | bank (k : Nat)
deriving DecidableEq, Repr

/-- Tap states (Table 7.3). -/
inductive BrewSt where
  | free | open_ | baking | armed | prepared | inDoubt | settling | closing | spilling
deriving DecidableEq, Repr

/-- A brew's part in a tap group (R189–R195): group, coordinator and its handle, F, D, participants of the PREPARE list. `outcome`: 0 none, 1 COMMIT,
2 ABORT. `cause`: the split cause so far. `peers`: the peers have been queried. -/
structure BrewGroup where
  group : Nat
  coord : Nat
  coordHandle : Nat
  frame : Nat
  decide : Nat
  parts : List GroupPart
  outcome : Nat
  cause : Nat
  peers : Bool
deriving DecidableEq, Repr

/-- A brew (R171–R187). `baked`: log records applied; `gate`: the commit gate; `jobBusy`: jobs that work on it; `fades`: its
route crossfades; `freed`: banks that only the old program used; `finals`:
every final page is written; `notify`: sessions and sequence numbers that get DIRECT_APPLIED; `outFs`, `outGraph`: FS code and graph of
the compile output. -/
structure Brew where
  st : BrewSt
  role : Nat
  log : List BrewItem
  out : Option CompileOut
  outFs : Nat
  outGraph : Graph
  outParams : SMap Word32
  xfadeMs : Nat
  shape : Nat
  preroll : Nat
  tap : Nat
  lateOk : Bool
  gate : Bool
  outcome : Nat
  deferred : Bool
  late : Bool
  eff : Nat
  claims : List Claim
  baking : Bool
  baked : Nat
  grp : Option BrewGroup
  job : Option Nat
  jobBusy : List Nat
  fades : List Fade
  freed : List Nat
  finals : Bool
  notify : List (Nat × Nat)
deriving DecidableEq, Repr

/-- A participant as its coordinator sees it: READY or REFUSE received, effective frame and split cause reported (R192, R196). -/
structure PartState where
  part : GroupPart
  ready : Bool
  done : Bool
  eff : Option Nat
  cause : Nat
deriving DecidableEq, Repr

/-- A group coordinated here (R189–R196): ID, own brew, F, D, raw time of boundary D once it has passed, decision (0 none, 1 COMMIT, 2 ABORT), ABORT requested, closed, participants. -/
structure TapGroup where
  id : Nat
  brew : Nat
  frame : Nat
  decide : Nat
  decideAt : Option Nat
  decision : Nat
  refuse : Option Nat
  closed : Bool
  job : Nat
  parts : List PartState
deriving DecidableEq, Repr

/-- A write that waits for the next fill of the direct brew (R182): session, sequence number, parameter. -/
structure DirectWrite where
  session : Nat
  seq : Nat
  node : Nat
  index : Nat
  value : Word32
deriving DecidableEq, Repr

/-- A request that the engine itself has sent and that has no reply yet (R262, R263): peer endpoint, sequence number, opcode, packet, resends
made, and what it is for. -/
structure OwnReq where
  endpoint : Nat
  seq : Nat
  opcode : Nat
  bytes : List Byte
  resends : Nat
deriving DecidableEq, Repr

/-- A session of the engine as a sender (R273): peer endpoint, session number the peer gave (none while SESSION_OPEN is unanswered), next
sequence number, and packets that wait for the open. -/
structure OwnSession where
  endpoint : Nat
  num : Option Nat
  next : Nat
  waiting : List (Nat × List Byte)
deriving DecidableEq, Repr

/-- An entry of the ARP cache (R272). -/
structure ArpEntry where
  ip : Nat
  mac : Nat
deriving DecidableEq, Repr
/-! ### Audio ports -/

/-- A serial port or PDM input beyond its registers (R304–R319): a start or stop of the host that waits for its frame, the boundary at which a cleared EN
stops it, the one at which changed settings stop it and the one at which it starts again, the frame of the last start, external frames received and not yet taken (input target), compute frames not yet presented
(output target), the last real frame and the run of fills, the words at the balls in the present ball frame, the bytes of the
port buffer on the drover path, and the stream of its ledger points. -/
structure PortSt where
  startAt : Option Nat
  stopAt : Option Nat
  endAt : Option Nat
  pauseAt : Option Nat
  resumeAt : Option Nat
  startFrame : Nat
  extIn : List (List Nat)
  outQ : List (List (Nat × S48))
  lastFrame : List Nat
  run : Nat
  ball : List Nat
  bufBytes : Nat
  stream : Option Nat
deriving DecidableEq, Repr
/-! ### Lanes and traces (R323–R353) -/

/-- The counts of one virtual channel of a trace (R339, R345): LIMIT, USED, ACKED of the sender, ACCEPTED, FREED and the credits held of the receiver in
the present epoch; deviations of closed epochs (lane loss, uncorrectable error, partner reset); audit failures. -/
structure VcCounts where
  limit : Nat
  used : Nat
  acked : Nat
  accepted : Nat
  freed : Nat
  held : Nat
  lost : Nat
  uncorr : Nat
  partner : Nat
  audits : Nat
deriving DecidableEq, Repr

/-- A data packet (Table 13.6) that waits for a trace; a forwarded one with the trace and the epoch in which it arrived. -/
structure LinkPkt where
  vc : Nat
  dst : Nat
  src : Nat
  payload : List Byte
  origin : Option (Nat × Nat)
deriving DecidableEq, Repr

/-- A packet of the replay buffer (R340–R342): SEQ, packet, poisoned, waits to be replayed, replays made, replay-timer time in ns since its first
replay, raw time of its last transmission. -/
structure SentPkt where
  seq : Nat
  pkt : LinkPkt
  poison : Bool
  due : Bool
  replays : Nat
  waited : Nat
  at_ : Nat
deriving DecidableEq, Repr

/-- A link-control packet that is due (Table 13.8). -/
inductive LcpDue where
  | ack | nak | credit
  | restripe (mask k : Nat)
deriving DecidableEq, Repr

/-- A trace beyond its registers: job of TRACE_UP, PEER of its record, the peer's trace lane of each trace lane (R330), receiver checked, TRAINs in a
row with READY; last accepted marker, markers missed and accepted in a row; lane sets of both directions as masks of trace lanes, the
restripe requested of the peer and the one the peer requests (mask, K), end of the freeze of R341; lanes lost and elastic slip in the present link
frame; epoch number and counts by VC, sequence numbers, replay buffer, NAK outstanding, acceptances without ACK, LCPs and packets that
wait; the last link frames whose region was sent and received; the peer's last stream list (FRAME; stream, channels, DUP). -/
structure TraceSt where
  job : Option Nat
  want : Nat
  mapping : List (Nat × Nat)
  checked : Bool
  ready : Nat
  marker : Option Nat
  miss : Nat
  synced : Nat
  rxSet : Nat
  txSet : Nat
  rxPend : Option (Nat × Nat)
  txPend : Option (Nat × Nat)
  thaw : Nat
  lossLanes : Nat
  slip : Bool
  epoch : Nat
  vcs : SMap VcCounts
  txSeq : Nat
  rxSeq : Nat
  unacked : List SentPkt
  nakSent : Bool
  accepts : Nat
  lcps : List LcpDue
  queue : List LinkPkt
  txFrame : Option Nat
  rxFrame : Option Nat
  streams : Option (Nat × List (Nat × Nat × Bool))
deriving DecidableEq, Repr

/-- The samples of an RX slot or pair (R335, R365), by its lowest entry: last real sample, fills in a row, the lowest compute frame not yet settled, and the
entries that failed for a frame. -/
structure RxCell where
  last : S48
  run : Nat
  next : Nat
  failed : List (Nat × Nat)
deriving DecidableEq, Repr

/-- The PRBS test of a lane (R351): pattern, generating, checking, LOCK, counters. -/
structure PrbsSt where
  pattern : Nat
  gen : Bool
  check : Bool
  lock : Bool
  bits : Nat
  errors : Nat
deriving DecidableEq, Repr

/-- A management record that has arrived (Table 14.1): trace it came on (none: Ethernet), SRC of its packet, KIND, body. -/
structure MgmtRec where
  trace : Option Nat
  src : Nat
  kind : Nat
  body : List Byte
deriving DecidableEq, Repr

/-- A time message that has arrived (R395, R396): trace, or 64 + Ethernet lane; raw time of arrival. -/
structure TimeMsg where
  port : Nat
  bytes : List Byte
  t : Nat
deriving DecidableEq, Repr

/-- A payload of the acquire stream (R370): ADDR [63:60], ADDR [59:0], data. -/
structure AcqItem where
  use : Nat
  addr : Nat
  data : List Byte
deriving DecidableEq, Repr
/-! ### Teams, herds, pairs (R354–R376) -/

/-- A member of the herd as its last ANNOUNCE gives it (R357): COUNT, traces on which that COUNT arrived with their HOPS, FS, PRES, ROLE, TEAM,
MODE. -/
structure Route where
  count : Nat
  via : List (Nat × Nat)
  fs : Nat
  pres : Nat
  role : Nat
  team : Nat
  mode : Nat
deriving DecidableEq, Repr

/-- A digest record with its sweep entries (R371, Table 14.4): frame, DIGEST, FLAGS, entries (index, word). -/
structure DigestRec where
  frame : Nat
  digest : Nat
  flags : Nat
  sweep : List (Nat × Nat)
deriving DecidableEq, Repr

/-- The acquire copy of a main (R370): number of the stall in the order of the areas, areas left, offset in the first of them, the pieces read so
far, the writes to forward, before and after a cut, and a cut that has been captured and not yet sent: its frame and registers. -/
structure CopySt where
  stall : Nat
  areas : List (Nat × Nat)
  offset : Nat
  watched : List (Nat × Nat)
  forwards : List (Nat × List Byte)
  after : List (Nat × List Byte)
  cut : Option (Nat × List (Nat × Nat))
deriving DecidableEq, Repr

/-- A shadow pair beyond its registers: SHADOW_PAIR waiting for its answer, boundaries of a pending takeover and of a commanded switch, its request
to report; frames equal in a row; the standby's acquire: stalls done, copying has ended, registers received for the next cut, a cut that has
arrived (stall, frame), the held stall; the main's copy; own and partner's digest records; words captured for the sweep (frame, index,
word); frame of the partner's last record; PAIR_ACT withdrawn because CONSEC reached 2; outputs given up (R376); bytes of the present stall's areas received in order;
frame of the main's last cut; at a main, its standby is LOCKED. -/
structure PairSt where
  wait : Option Req
  takeoverAt : Option Nat
  switchAt : Option Nat
  lowFrame : Nat
  equalRun : Nat
  done : Nat
  copied : Bool
  regs : List (Nat × Nat × Nat)
  cut : Option (Nat × Nat)
  hold : Option Nat
  copy : Option CopySt
  own : List DigestRec
  peer : List DigestRec
  captured : List (Nat × Nat × Nat)
  lastPeer : Nat
  consec : Bool
  displaced : Bool
  got : Nat
  lastCut : Nat
  locked : Bool
deriving DecidableEq, Repr
/-! ### Clocks and time (R379–R400) -/

/-- What an Announce says of a grandmaster and its path (R394): priority1, clockClass, clockAccuracy, variance, priority2, identity; stepsRemoved; sender's
clockIdentity and portNumber; currentUtcOffset. -/
structure PtpAnn where
  p1 : Nat
  cls : Nat
  acc : Nat
  var : Nat
  p2 : Nat
  gm : Nat
  steps : Nat
  src : Nat
  srcPort : Nat
  utc : Nat
deriving DecidableEq, Repr

/-- A PTP port of a domain: state (0 listening, 1 MASTER, 2 SLAVE, 3 PASSIVE), best Announce heard, a Sync that waits for its Follow_Up (sequence, raw stamp,
correction), own sequence numbers (Sync, Announce, delay request), own delay request (sequence, raw stamp), a Pdelay_Resp that waits for its Follow_Up
(sequence, time at the responder, raw stamp, correction), mean path delay. Stamps and delays in 2^−16 ns. -/
structure PtpPort where
  st : Nat
  best : Option PtpAnn
  sync : Option (Nat × Int × Int)
  seqSync : Nat
  seqAnn : Nat
  seqReq : Nat
  req : Option (Nat × Int)
  resp : Option (Nat × Int × Int × Int)
  delay : Int
deriving DecidableEq, Repr

/-- A time domain (R391, R393): O_d, R_d in effect, R_d without slew, anchor, pending offset at the anchor, the raw value at which the slew ends; offsets
measured since a slave port was chosen; last Sync pair (time at the master with correction, raw stamp); ports (trace, or 64 + Ethernet
lane). Times in 2^−16 ns, rates in 2^−48. -/
structure TimeDom where
  o : Int
  r : Int
  base : Int
  a : Int
  pend : Int
  slewEnd : Option Int
  meas : Nat
  last : Option (Int × Int)
  ports : SMap PtpPort
deriving DecidableEq, Repr

/-- A schedule of a CLKOUT output (R400): domain (0 raw, 1 A, 2 B), first time, period (none: single), next time; in 2^−16 ns. -/
structure PulseSched where
  dom : Nat
  first : Int
  period : Option Nat
  next : Int
deriving DecidableEq, Repr
/-! ### Amplifier channels (R403–R425) -/

/-- An entry of a diagnostic result (R425): FREQ, ZMAG (TEST 3: signed offset in µV), ZPH, FLAGS, and whether the current stayed below 0.5 % of I_FS. -/
structure AmpEntry where
  freq : Nat
  zmag : Nat
  zph : Nat
  flags : Nat
  noCurrent : Bool
deriving DecidableEq, Repr

/-- A diagnostic in progress on a channel (R422–R424): job, TEST, frequencies still to measure with ZMIN and ZMAX, OPEN_MOHM, SHORT_MOHM, entries so
far, and whether the channel was running before. -/
structure AmpTest where
  job : Nat
  test : Nat
  todo : List (Nat × Nat × Nat)
  openM : Nat
  shortM : Nat
  done : List AmpEntry
  was : Bool
deriving DecidableEq, Repr

/-- The last diagnostic result of a channel (R425). -/
structure AmpDiag where
  test : Nat
  outcome : Nat
  cls : Nat
  frame : Nat
  entries : List AmpEntry
deriving DecidableEq, Repr

/-- A sample in the look-ahead delay of an amplifier channel (R403, R404, R435): its value, whether an override is in effect for its frame, and a MUTE that a
tap made effective with its frame. -/
structure AmpSample where
  v : S48
  ovr : Bool
  mute : Option Bool
deriving DecidableEq, Repr

/-- An amplifier channel beyond its registers (R403–R425). `ready`: WAKE_SETTLE of its release has ended; `quick`: a silence wake releases it; `stopReq`: a
clean stop waits for its boundary; `gain`: stage-4 gain, 0 zero, 1 one, 2 rising, 3 falling; `mute`: MUTE as stage 4 applies it; `ovr`: the last sample
out of the look-ahead belongs to an override; `side`: the high-side command is on; `sync`: released as locked; `trims`: integrator frequencies
and zero in Hz (R405); `line`: look-ahead, newest first; `quiet`: samples since one at or above the silence threshold (R165); `path`: last sample out of stage 3; `blocks`: power of the last 1,000 blocks in mW,
newest first; `gr`: stage-5 gain reduction in 0.01 dB; `hold`: within the hold of an energy cut; `limDone`: limit registers
written (bits 0–4). -/
structure AmpSt where
  ready : Bool
  quick : Bool
  stopReq : Bool
  gain : Nat
  mute : Bool
  ovr : Bool
  side : Bool
  sync : Bool
  trims : Nat × Nat × Nat
  line : List AmpSample
  quiet : Nat
  path : Int
  blocks : List Nat
  gr : Nat
  hold : Bool
  limDone : Nat
  muteAt : Option (Nat × Bool)
  test : Option AmpTest
  diag : Option AmpDiag
deriving DecidableEq, Repr
/-! ### Power, modes and reset (R442–R468) -/

/-- A pending mode transition (R442): target, its boundary E, and for SAFE its cause. -/
structure PendMode where
  target : Nat
  frame : Nat
  cause : Nat
deriving DecidableEq, Repr

/-- The shutdown sequencer (R451): phase 0 none, 1 waits for its boundary D, 2 waits SHUTDOWN_DELAY, 3 the amplifiers ramp and stop; and what the record
takes (R452): D, the domain A seconds at D, the mode before SAFE, N_MISS, h in µs. -/
structure ShutSt where
  phase : Nat
  frame : Nat
  secs : Nat
  before : Nat
  nmiss : Nat
  h : Nat
deriving DecidableEq, Repr

/-- What the reset controller, the power path, the mains monitor, the boot ROM and the regulator interface hold (R442–R466). `boot`: 0 released, 1 held in
reset, 2 option loading is due, k + 2 release step k is due, 11 all steps done; `fw`: verified firmware runs; `clear`: this release clears the
memories (R216); `en`: regulator enables raised; `seq`: 0 idle, 1 raising, 2 waits for PWR_GOOD, 3 lowering, 4 entry into STANDBY waits for the
amplifier stop; `vault`: bytes of the vault; `seconds`, `secHold`, `secAt`: backup counter, the held LO value, and the raw time in ns at which the counter held its value; `spans`: last intervals between
zero crosses in µs, newest first; `lastCross` in µs; `toReset`: commanded resets whose replies are queued, oldest first (KIND, BLOCK, partner); `image`: host image words;
`flash`: boot flash; `slot`: firmware slot running, 2 for a host's image; `avsBusy`, `avsNext`: PMBus value in flight and the newest after it, in half mV; `avsTries`: failed tries
of the write in flight; `avsAcked`: the value last acknowledged; `report`: a reset has come since the firmware last started; `before`: the code of the mode that SAFE followed;
`isoFrames`: block-reset bits with the frames in which the block was held. -/
structure PowerSt where
  pend : List PendMode
  boot : Nat
  fw : Bool
  clear : Bool
  pinLow : Bool
  hot : Bool
  en : Nat
  seq : Nat
  vault : SMap Byte
  seconds : Nat
  secHold : Nat
  secAt : Nat
  spans : List Nat
  lastCross : Option Nat
  crosses : Nat
  missed : Nat
  shut : ShutSt
  toReset : List (Nat × Nat × Bool)
  image : List Word32
  flash : SMap Byte
  slot : Nat
  avsBusy : Option Nat
  avsNext : Option Nat
  avsTries : Nat
  avsAcked : Option Nat
  report : Bool
  before : Nat
  isoFrames : List (Nat × Nat)
deriving DecidableEq, Repr
/-- What the engine has sent to the outside: a command-layer packet on Ethernet or UDP, a reply slot written into the host ring of a queue
pair, an MSI-X vector, an ARP reply or request, a gratuitous ARP, the bytes that an SPI transaction returned (R267–R272); on a trace
a frame marker, TRAIN copies by trace lane, another LCP, a data packet (poisoned or not), a region (R328–R344); a PTP message on an Ethernet
lane (R394); a pulse of a CLKOUT output, on time or late (R400). -/
inductive Sent where
  | frame (lane mac : Nat) (vlan : Option Nat) (etherType : Nat) (bytes : List Byte)
  | slot (q n : Nat) (bytes : List Byte)
  | msix (v : Nat)
  | arpReply (lane ip mac : Nat)
  | arpRequest (lane ip : Nat)
  | garp (lane ip : Nat)
  | spi (bytes : List Byte)
  | marker (trace frame : Nat)
  | train (trace : Nat) (copies : List (List Byte))
  | lcp (trace : Nat) (bytes : List Byte)
  | data (trace : Nat) (poison : Bool) (bytes : List Byte)
  | region (trace : Nat) (normal dup : List Byte)
  | ptp (lane : Nat) (bytes : List Byte)
  | pulse (output : Nat) (late : Bool)
deriving DecidableEq, Repr

/-- The six modes (R21). -/
inductive Mode where
  | off | standby | configure | run | shadow | safe
deriving DecidableEq, Repr

/-- The state of the engine. -/
structure State where
  /-- Commands that wait, first in, first out. -/
  pending : List Instr
  /-- Register space (R7–R10, R295), by address; PCIe BAR2 queue pair q at 1_0000_0000h + 1000h·q. -/
  regs : SMap Word32
  /-- Memory by crossbar address (R295). -/
  mem : List Host.Cell
  /-- The model's own counter for free values. -/
  fresh : Nat
  /-- The frame index (R14). -/
  frame : Nat
  /-- Raw time in ns of the last two frame boundaries (R34). -/
  tick : Nat
  tickPrev : Nat
  /-- Mode and base-rate code in force (R21, R296). -/
  mode : Mode
  fs : Nat
  /-- Units of frame work: stalls 0–1,023, frame channels from 1,024 (R25, R34–R48). -/
  units : SMap UnitRec
  /-- Stalls by unit number (Table 3.1). -/
  stalls : SMap Stall
  /-- Program pages by stall (R59, R81, Table 3.1). -/
  pages : SMap Pages
  /-- Program memory: word w of page g of stall u at (2u + g) · 8192 + w (Table 3.1). -/
  progMem : SMap ProgWord
  /-- Output destinations (R42, R77, R434). -/
  outs : SMap OutCell
  /-- Output writes on their way (R77). -/
  outFlight : List OutWrite
  /-- Posted flags on their way (R85, R239). -/
  posts : List Post
  /-- Words of memory (crossbar address of the word) with an uncorrectable, and with a single-bit, error (R208, R213). -/
  ueWords : List Nat
  ceWords : List Nat
  /-- The frame guard and the adaptive VCORE loop (R34–R48). -/
  fg : FgState
  /-- The sample-frame ledger (R52–R56). -/
  ledger : Ledger
  /-- Events that wait for their log write (R291). -/
  evtWait : List EvtWait
  /-- What the last read of a register returned to its reader. -/
  lastRead : Nat
  /-- HI halves latched by a read of their LO half, by address (R402, R468, Table 2.11 and others). -/
  latches : SMap Word32
  /-- Banks whose owner field fails its parity check (R207). -/
  tokenBad : List Nat
  /-- Corrected errors of each cellar channel in the present scrub pass (R214), and the channels with a scheduled retraining
  pending (R215). -/
  passCe : SMap Nat
  retrainPend : Nat
  /-- Raw time in ns at which the present scrub pass began (R214, Table 8.10). -/
  scrubAt : Nat
  /-- Arbitration points by number: stable ports 0–127, cellar channels 128–135, targets 12–15 at 140–143 (R220, R223). -/
  arb : SMap ArbPoint
  /-- Bursts granted and not yet answered, in issue order (R222). -/
  bursts : List Burst
  /-- Share limiters: when each lets its next burst pass, in 2^-16 ns of raw time; two of each drover channel at 2 · (8d + c), its source and its
  destination side, from 256 those of the pairs (R241). -/
  limiters : SMap Nat
  /-- Drovers (R229–R241). -/
  drovers : SMap Drover
  /-- Frame-channel descriptors of the live program, by channel (R132, R231). -/
  chans : SMap ChanDesc
  /-- Drover program memory: word w of instruction i of drover n at 256n + 4i + w (R229). -/
  drvMem : SMap ProgWord
  /-- Request lines that are asserted (R240, R319). -/
  lines : List Nat
  /-- Staged copies of tappable registers, by address (R171, R177). -/
  staged : SMap Word32
  /-- Command layer: packets that wait for admission, admitted requests in order, sessions, numbers and closing times of closed sessions, keys by
  slot, packets that wait for a transport, and what has been sent, newest first (R246–R273). -/
  rxq : List RxPacket
  admitted : List Req
  sessions : List Session
  oldSessions : List (Nat × Nat)
  keys : SMap (List Byte)
  txq : List TxPacket
  sent : List Sent
  /-- Status flags of the SPI target: bit 0 CRC_ERR, 1 RX_OVF, 2 FORMAT_ERR (Table 10.9). -/
  spiFlags : Nat
  arp : List ArpEntry
  /-- Event log, newest first (R291), and the word that EVT_DATA returns next (R294). -/
  evtLog : List EventRec
  evtWord : Nat
  /-- Counts of closed sessions, of all sessions at the latest frame marker, of an audit in progress and of the last audit, and the audited boundary
  (R264). -/
  seqClosed : List SeqCounts
  seqSnap : List SeqCounts
  seqPend : List SeqCounts
  seqAud : List SeqCounts
  seqAudFrame : Nat
  jobs : List JobRec
  regions : List CellarRegion
  /-- Sessions and requests of the engine as a sender (R263, R273). -/
  ownSessions : List OwnSession
  ownReqs : List OwnReq
  /-- Replies to own requests that have arrived, with their senders (R247, R263). -/
  replies : List (Nat × List Byte)
  /-- Working and live graph, kernel objects and partly received ones, parameter values by owner and index (R147), and the results of the last
  compile (R127–R145). -/
  work : Graph
  live : Graph
  kernels : List KernelObj
  partials : List KernelObj
  params : SMap Word32
  liveParams : SMap Word32
  liveSlots : List ParamSlot
  liveCellar : List (Nat × Nat)
  results : List CompileResult
  ramps : List Ramp
  meters : SMap MeterRec
  /-- The fixed stages of the channels of INSTRIP nodes, by 65,536 × node + channel (R162, R164). -/
  strips : SMap InStrip
  /-- The tasks of the live program, and the latest slots of its SENDs and SIGNALs: unit, word, slot (R130, R133). -/
  liveTasks : List TaskOut
  livePosts : List (Nat × Nat × Nat)
  /-- Brews by handle, writes that wait for the direct brew, groups coordinated here, newest first (R173, R182, R192). -/
  brews : SMap Brew
  directWait : List DirectWrite
  groups : List TapGroup
  /-- Outcomes of tap groups that this engine learned as a participant, newest first (R194). -/
  tapKnown : List (Nat × Nat × Nat)
  /-- Serial ports 0–31 and PDM inputs at 32 + i. -/
  ports : SMap PortSt
  /-- Traces by number, RX slots and pairs, PRBS tests by lane; records, time messages and acquire payloads that have arrived (R323–R353). -/
  traces : SMap TraceSt
  rxCells : SMap RxCell
  prbs : SMap PrbsSt
  mgmt : List MgmtRec
  timeq : List TimeMsg
  acqq : List AcqItem
  /-- Streams of the live RX entries (R143). -/
  liveRx : List (Nat × Nat)
  /-- Endpoint IDs of the team's members in index order, empty outside a team (R358). -/
  team : List Nat
  /-- Herd members by endpoint ID, the COUNT of the own last ANNOUNCE, parent markers in a row with the own index, landing margins of the latest frames
  (frame, ns) (R357, R360, R364). -/
  routes : SMap Route
  annCount : Nat
  parentRun : Nat
  margins : List (Nat × Nat)
  /-- The shadow pair, and of the live program: memory areas and state registers by stall, designated words (R369–R376). -/
  pair : PairSt
  liveAreas : List (Nat × Nat × Nat)
  liveRegs : List (Nat × List Nat)
  liveSweep : List SweepItem
  /-- Time domains A (0) and B (1), comma-alignment positions by lane (R396), pulse schedules and pending alignments by output (R389, R400), the DPLL's
  frequency history, newest first (R386), a lock still to come after FREERUN (R385), a domain switch still to be re-expressed (R399). -/
  domA : TimeDom
  domB : TimeDom
  comma : SMap Nat
  pulses : SMap (Option PulseSched)
  aligns : SMap (Option Nat)
  history : List Int
  fromFree : Bool
  remap : Bool
  /-- Amplifier channels (R403–R427), and whether REQUIRE_LIMIT has taken its first write (R421). -/
  amps : SMap AmpSt
  reqLimit : Bool
  /-- Override (R428–R430): levels of the OVR balls, inputs held active (latch or hold), and the routes in effect for the latest compute
  frames, newest first. -/
  ovrBalls : Nat
  ovrHist : List (Nat × Nat)
  /-- Power, modes and reset (R442–R468). -/
  power : PowerSt
  /-- Streams that the live program defines (R143). -/
  liveStreams : List StreamEntry
deriving DecidableEq, Repr

/-- Faults that stop the machine. No meaning of this model ends in one: the block answers every error of its commands with a
status, a sticky flag or an event. The one constructor is kept for a state that is not one of the machine's. -/
inductive Fault where
  /-- Raised by no meaning; safe. -/
  | impossible
deriving DecidableEq, Repr

/-- Refusals. -/
inductive Refusal where
  /-- Raised by an arm of `exec` whose command has no meaning yet; safe. -/
  | notModelled (mnemonic : String)
deriving DecidableEq, Repr

/-- A unit that has ended and has run nothing. -/
def unitIdle : UnitRec := ⟨.ended, 0, [], []⟩

/-- A stall after reset: everything cleared (R57). DESIGN CHOICE: log entry 8. -/
def stallReset : Stall :=
  { d := [], a := [], c := [], p := [], m := [], l := [], x := [], rb := 0, z := false, n := false, v := false,
    fillrx := false, evskip := false, ef := [], pc := 0, calls := [], callOver := [], loop := none, slots := [], inflight := [],
    issueNo := 0, frameIssues := 0, delay := none, blocked := none, sendsMade := [], signalsMade := [],
    halted := false, haltPending := false, stepping := false, breakHit := false, abortPending := false,
    sticky := 0, tokenMoves := [] }

/-- The header of a page that holds no program: all zero (R57). -/
def headerEmpty : PageHeader :=
  ⟨false, 0, 0, 0, 0, 0, 0, false, [], [], [], none⟩

/-- The pages of a stall after the memory clear (R57, R216). -/
def pagesEmpty : Pages := ⟨false, false, false, false, headerEmpty, headerEmpty, [], 0⟩

/-- An event flag that is clear. -/
def flagClear : EventFlag := ⟨false, false, 0⟩

/-- A receive slot that is empty. -/
def slotEmpty : ExchSlot := ⟨[], [], 0, 0⟩

/-- An output destination to which nothing has been written. -/
def outEmpty : OutCell := ⟨[], [], 0, 0⟩

/-- A channel to which nothing has been written. -/
def sinkEmpty : SinkFill := ⟨0, 0⟩

/-- A stream that is not active and has counted nothing. -/
def streamZero : StreamCounts := ⟨false, 0, 0, []⟩

/-- An arbitration point that has granted nothing. -/
def arbIdle : ArbPoint := ⟨0, 0, 0⟩
/-- A drover that runs nothing; after reset the round-robin of R231 begins at channel 1. -/
def droverIdle : Drover := ⟨none, 7⟩
/-- A channel without a descriptor. -/
def chanEmpty : ChanDesc := ⟨none, 0, 8, [], [], false, [], 0⟩
/-- A graph with nothing in it. -/
def graphEmpty : Graph := ⟨[], [], []⟩
/-- A brew handle that is unused. -/
def brewFree : Brew :=
  { st := .free, role := 0, log := [], out := none, outFs := 0, outGraph := graphEmpty, outParams := [], xfadeMs := 10, shape := 0, preroll := 0,
    tap := 0, lateOk := false, gate := false, outcome := 0, deferred := false, late := false, eff := 0, claims := [], baking := false,
    baked := 0, grp := none, job := none, jobBusy := [], fades := [], freed := [], finals := false, notify := [] }
/-- The meters of a node that has handed over no period. -/
def meterNone : MeterRec := ⟨0, 0, [], []⟩
/-- A port after reset. -/
def portIdle : PortSt := ⟨none, none, none, none, none, 0, [], [], [], 0, [], 0, none⟩
/-- Counts of a virtual channel before any epoch. -/
def vcZero : VcCounts := ⟨0, 0, 0, 0, 0, 0, 0, 0, 0, 0⟩
/-- A trace that has not been up. -/
def traceIdle : TraceSt :=
  { job := none, want := 0xFFFFFFFF, mapping := [], checked := false, ready := 0, marker := none, miss := 0, synced := 0, rxSet := 0, txSet := 0,
    rxPend := none, txPend := none, thaw := 0, lossLanes := 0, slip := false, epoch := 0, vcs := [], txSeq := 0, rxSeq := 0, unacked := [],
    nakSent := false, accepts := 0, lcps := [], queue := [], txFrame := none, rxFrame := none, streams := none }
/-- An RX slot into which nothing has landed. -/
def rxEmpty : RxCell := ⟨0, 0, 0, []⟩
/-- A lane without a PRBS test. -/
def prbsOff : PrbsSt := ⟨7, false, false, false, 0, 0⟩
/-- No pair. -/
def pairNone : PairSt :=
  { wait := none, takeoverAt := none, switchAt := none, lowFrame := 0, equalRun := 0, done := 0, copied := false, regs := [], cut := none, hold := none,
    copy := none, own := [], peer := [], captured := [], lastPeer := 0, consec := false, displaced := false, got := 0, lastCut := 0, locked := false }
/-- A PTP port that has heard nothing. -/
def ptpPortIdle : PtpPort := ⟨0, none, none, 0, 0, 0, none, none, 0⟩
/-- A time domain after reset: it reads as the raw counter. -/
def domIdle : TimeDom := ⟨0, 0, 0, 0, 0, none, 0, none, []⟩
/-- An amplifier channel after reset. -/
def ampIdle : AmpSt :=
  { ready := false, quick := false, stopReq := false, gain := 0, mute := false, ovr := false, side := false, sync := false, trims := (0, 0, 0), line := [], quiet := 0,
    path := 0, blocks := [], gr := 0, hold := false, limDone := 0, muteAt := none, test := none, diag := none }
/-- Released and running on firmware that a host gave: nothing pending, regulators on, boot flash blank, vault, backup counter and mains history empty. DESIGN CHOICE: log entries 7, 78. -/
def powerOn : PowerSt :=
  { pend := [], boot := 0, fw := true, clear := false, pinLow := false, hot := false, en := 4, seq := 0, vault := [], seconds := 0, secHold := 0, secAt := 0, spans := [],
    lastCross := none, crosses := 0, missed := 0, shut := ⟨0, 0, 0, 0, 0, 0⟩, toReset := [], image := [], flash := [], slot := 2,
    avsBusy := none, avsNext := none, avsTries := 0, avsAcked := none, report := false, before := 2, isoFrames := [] }

/-- What a power-on release has set beside the reset values: HDR_INVALID, since the boot flash is blank and a host gave the firmware (R461, R462), POR in RESET_CAUSE (R455), PWR_GOOD (R446), CELLAR_READY and CLEAR_DONE (R216, R463), every
cellar channel READY (R215). DESIGN CHOICE: log entry 7. -/
def releasedRegs : SMap Word32 :=
  [(0x500, 0x802), (0x504, 1), (0x534, 1), (0x60004, 3), (0x60100, 2), (0x60120, 2), (0x60140, 2), (0x60160, 2), (0x60180, 2), (0x601A0, 2), (0x601C0, 2), (0x601E0, 2)]

/-- The machine right after a power-on release: mode CONFIGURE, FS code 0 (R296), every register at its reset value (R11), memory
cleared (R216), nothing waiting. DESIGN CHOICE: log entries 7, 78. -/
def State.reset : State :=
  { pending := [], regs := releasedRegs, mem := [], fresh := 0, frame := 0, tick := 0, tickPrev := 0, mode := .configure, fs := 0,
    units := [], stalls := [], pages := [], progMem := [], outs := [], outFlight := [], posts := [],
    ueWords := [], ceWords := [],
    fg := { report := [], reportFrame := 0, rdPtr := 0, slack := [], slackFrame := 0, setHalf := 1500, winFrames := 0, winAbove := true,
            lastRaise := none, floorUntil := 0 },
    ledger := ⟨[], [], 0, [], 0, none⟩, evtWait := [⟨0xC3, 0, 1, 0, none⟩] 
    , lastRead := 0, latches := []
    , tokenBad := [], passCe := [], retrainPend := 0, scrubAt := 0
    , arb := [], bursts := [], limiters := [], drovers := [], chans := [], drvMem := [], lines := [], staged := []
    , rxq := [], admitted := [], sessions := [], oldSessions := [], keys := [], txq := [], sent := [], spiFlags := 0, arp := [],
      evtLog := [], evtWord := 0, seqClosed := [], seqSnap := [], seqPend := [], seqAud := [], seqAudFrame := 0, jobs := [], regions := [], ownSessions := [], ownReqs := [], replies := [],
      work := graphEmpty, live := graphEmpty, kernels := [], partials := [], params := [], liveParams := [], liveSlots := [],
      liveCellar := [], results := [], ramps := [], meters := [], strips := [], liveTasks := [], livePosts := [], brews := [], directWait := [], groups := [], tapKnown := []
    , ports := []
    , traces := [], rxCells := [], prbs := [], mgmt := [], timeq := [], acqq := [], liveRx := []
    , team := [], routes := [], annCount := 0, parentRun := 0, margins := [], pair := pairNone, liveAreas := [], liveRegs := [], liveSweep := []
    , domA := domIdle, domB := domIdle, comma := [], pulses := [], aligns := [], history := [], fromFree := true, remap := false
    , amps := [], reqLimit := false
    , ovrBalls := 0, ovrHist := []
    , power := powerOn, liveStreams := []
  }

end Sys2Proof.Machine
end

