-- ==== Sys2Proof/Machine/Ops.lean ====
section
/-! DEFINITION. The shared operations: sparse maps, bytes and words, registers by field, memory by crossbar address,
events, replies, free values. -/

namespace Sys2Proof.Machine

/-- The outcome of a command. -/
abbrev Res := Host.Outcome State Fault Refusal

/-! ### Sparse maps -/

/-- What the map holds at `k`; an unlisted key reads as `d k`. -/
def smapGet {α : Type} (d : Nat → α) : SMap α → Nat → α
  | [], k => d k
  | (j, v) :: t, k => if k = j then v else smapGet d t k

/-- The map with `v` listed at `k`. -/
def smapInsert {α : Type} (k : Nat) (v : α) : SMap α → SMap α
  | [] => [(k, v)]
  | (j, w) :: t =>
    if k < j then (k, v) :: (j, w) :: t
    else if k = j then (k, v) :: t
    else (j, w) :: smapInsert k v t

/-- The map with nothing listed at `k`. -/
def smapErase {α : Type} (k : Nat) (m : SMap α) : SMap α := m.filter (fun p => decide (p.1 ≠ k))

/-- The map that reads as `v` at `k` and as before elsewhere, in canonical form. -/
def smapSet {α : Type} [DecidableEq α] (d : Nat → α) (k : Nat) (v : α) (m : SMap α) : SMap α :=
  if v = d k then smapErase k m else smapInsert k v m

/-- The keys listed in the map, rising. -/
def smapKeys {α : Type} (m : SMap α) : List Nat := m.map Prod.fst

/-- Keys strictly rising from above `lo`, no entry equal to what its key reads as unlisted. -/
def smapWfFrom {α : Type} [DecidableEq α] (d : Nat → α) : Option Nat → SMap α → Bool
  | _, [] => true
  | lo, (k, v) :: t =>
    (match lo with
     | none => true
     | some l => decide (l < k)) && decide (v ≠ d k) && smapWfFrom d (some k) t

/-- The canonical form of a sparse map. -/
def smapWf {α : Type} [DecidableEq α] (d : Nat → α) (m : SMap α) : Bool := smapWfFrom d none m

/-! ### Numbers, signs, bytes -/

/-- `n` limited to at most `top`. -/
def satNat (top n : Nat) : Nat := if top < n then top else n

/-- One more, saturating at `top`. -/
def incSat (top n : Nat) : Nat := satNat top (n + 1)

/-- `x` limited to the signed range of `w` bits; the flag says that it was outside (R63–R66). -/
def satInt (w : Nat) (x : Int) : Int × Bool :=
  if x > 2 ^ (w - 1) - 1 then (2 ^ (w - 1) - 1, true)
  else if x < -(2 ^ (w - 1)) then (-(2 ^ (w - 1)), true)
  else (x, false)

/-- `x / 2^k` rounded to the nearest integer, ties to even. -/
def roundShift (x : Int) (k : Nat) : Int :=
  let q := x / 2 ^ k
  let r := x % 2 ^ k
  if 2 * r < 2 ^ k then q
  else if 2 * r > 2 ^ k then q + 1
  else if q % 2 = 0 then q else q + 1

/-- `n / d` rounded to the nearest integer, ties to even (`d` positive). -/
def roundDiv (n : Int) (d : Nat) : Int :=
  let q := n / d
  let r := n % d
  if 2 * r < d then q
  else if 2 * r > d then q + 1
  else if q % 2 = 0 then q else q + 1

/-- The `n` low bytes of `v`, least significant first (R7: memory). -/
def leBytes : Nat → Nat → List Byte
  | 0, _ => []
  | n + 1, v => BitVec.ofNat 8 (v % 256) :: leBytes n (v / 256)

/-- The number whose bytes, least significant first, are given. -/
def leNat : List Byte → Nat
  | [] => 0
  | b :: t => b.toNat + 256 * leNat t

/-- The `n` low bytes of `v`, most significant first (R7: packets). -/
def beBytes (n v : Nat) : List Byte := (leBytes n v).reverse

/-- The number whose bytes, most significant first, are given. -/
def beNat (bs : List Byte) : Nat := bs.foldl (fun a b => 256 * a + b.toNat) 0

/-- The bits of `w` as a Bool list, bit 0 first. -/
def testBit (w i : Nat) : Bool := decide ((w >>> i) % 2 = 1)

/-- The numbers below `n` whose bit is set in `w`, rising. -/
def bitList (n w : Nat) : List Nat := (List.range n).filter (testBit w)

/-- The number with exactly the bits of the list set. -/
def maskOf (l : List Nat) : Nat := l.foldl (fun a i => if testBit a i then a else a + 2 ^ i) 0

/-- 1 for true. -/
def bnat (b : Bool) : Nat := if b then 1 else 0

/-- A signed number as the `w` bits that carry it. -/
def wrapInt (w : Nat) (x : Int) : Nat := (x % 2 ^ w).toNat

/-- The number in `w` bits read as signed. -/
def signOf (w n : Nat) : Int := if n % 2 ^ w < 2 ^ (w - 1) then (n % 2 ^ w : Nat) else (n % 2 ^ w : Nat) - 2 ^ w

/-- `f` applied over a list of things to do. -/
def forEach {α σ : Type} (l : List α) (f : α → σ → σ) (s : σ) : σ := l.foldl (fun s a => f a s) s

/-- Replace the elements that satisfy `p`. -/
def updWhere {α : Type} (p : α → Bool) (f : α → α) (l : List α) : List α := l.map (fun x => if p x then f x else x)

/-! ### Registers -/

/-- The stored word of the register at `a`. -/
def regWord (s : State) (a : Nat) : Word32 := smapGet regDefault s.regs a

/-- Store `w` in the register at `a`. -/
def setRegWord (a : Nat) (w : Word32) (s : State) : State := { s with regs := smapSet regDefault a w s.regs }

/-- The value of copy `i` of a field. -/
def fld (s : State) (f : RegField) (i : Nat := 0) : Nat := bitsOf f.hi f.lo (regWord s (fieldAddr f i)).toNat

/-- Whether a one-bit field (or any bit of a field) is set. -/
def fbit (s : State) (f : RegField) (i : Nat := 0) : Bool := decide (fld s f i ≠ 0)

/-- A field read as a signed number. -/
def fldS (s : State) (f : RegField) (i : Nat := 0) : Int := signOf (f.hi + 1 - f.lo) (fld s f i)

/-- The engine's own update of copy `i` of a field. -/
def setFld (f : RegField) (i v : Nat) (s : State) : State :=
  setRegWord (fieldAddr f i) (BitVec.ofNat 32 (putBits f.hi f.lo (regWord s (fieldAddr f i)).toNat v)) s

/-- Set a flag bit. -/
def setBit (f : RegField) (i : Nat) (s : State) : State := setFld f i 1 s

/-- Clear a flag bit. -/
def clrBit (f : RegField) (i : Nat) (s : State) : State := setFld f i 0 s

/-- Add `n` to a counter field that saturates at its top value. -/
def addFld (f : RegField) (i n : Nat) (s : State) : State :=
  setFld f i (satNat (2 ^ (f.hi + 1 - f.lo) - 1) (fld s f i + n)) s

/-- Count once in a saturating counter field. -/
def countFld (f : RegField) (i : Nat) (s : State) : State := addFld f i 1 s

/-- Two 32-bit halves of a 64-bit register pair. -/
def setPair (lo hi : RegField) (i v : Nat) (s : State) : State :=
  setFld hi i (v / 2 ^ 32) (setFld lo i v s)

/-- The 64-bit value of a register pair. -/
def fldPair (s : State) (lo hi : RegField) (i : Nat := 0) : Nat := fld s lo i + 2 ^ 32 * fld s hi i

/-! ### Memory -/

/-- What a byte of memory that nothing has written reads as: zero, by the memory clear of R216. DEDUCED: log entry 9. -/
def memDefault : Nat → Byte := fun _ => 0

/-- One byte at a crossbar address. -/
def memByte (s : State) (a : Nat) : Byte := smapGet memDefault s.mem a

/-- `n` bytes from a crossbar address upward. -/
def memBytes (s : State) (a n : Nat) : List Byte := (List.range n).map (fun i => memByte s (a + i))

/-- Write one byte. -/
def memPut (a : Nat) (b : Byte) (m : List Host.Cell) : List Host.Cell := smapSet memDefault a b m

/-- Write bytes from `a` upward. -/
def memPutAll : Nat → List Byte → List Host.Cell → List Host.Cell
  | _, [], m => m
  | a, b :: t, m => memPutAll (a + 1) t (memPut a b m)

/-- Write bytes at a crossbar address, whatever a shadow pair does with them. -/
def memPoke (a : Nat) (bs : List Byte) (s : State) : State := { s with mem := memPutAll a bs s.mem }

/-- The stalls of the live program that hold state in memory areas or registers, in unit order (R370). -/
def areaStalls (s : State) : List Nat :=
  (List.range 1024).filter (fun u => s.liveAreas.any (fun x => decide (x.1 = u)) || s.liveRegs.any (fun x => decide (x.1 = u ∧ x.2 ≠ [])))

/-- The areas of a stall's tasks: base and length. -/
def areasOf (s : State) (u : Nat) : List (Nat × Nat) := (s.liveAreas.filter (fun x => decide (x.1 = u))).map Prod.snd

/-- Whether an address lies in one of the areas. -/
def inAreas (l : List (Nat × Nat)) (a : Nat) : Bool := l.any (fun x => decide (x.1 ≤ a ∧ a < x.1 + x.2))

/-- The areas into which a standby in ACQUIRE discards its own writes: those of the stall that it acquires (R370). -/
def heldAreas (s : State) : List (Nat × Nat) :=
  if fld s Fld.SHADOW_STATUS_STATE = 2 ∧ ¬ s.pair.copied then
    (match (areaStalls s)[s.pair.done]? with
     | some u => areasOf s u
     | none => [])
  else []

/-- A main in an acquire copy forwards a write that lands where the copy has already read: the 8-byte words that the write touches (R370). -/
def forwardWrite (a n : Nat) (s : State) : State :=
  match s.pair.copy with
  | none => s
  | some c =>
    if n = 0 ∨ ¬ (List.range n).any (fun i => inAreas c.watched (a + i)) then s
    else
      let b := 8 * (a / 8)
      let len := 8 * ((a + n + 7) / 8) - b
      let w := [(b, memBytes s b len)]
      { s with pair := { s.pair with copy := some (if c.cut.isSome then { c with after := c.after ++ w } else { c with forwards := c.forwards ++ w }) } }

/-- Write bytes at a crossbar address. -/
def memWrite (a : Nat) (bs : List Byte) (s : State) : State :=
  let areas := heldAreas s
  let s := if areas = [] then memPoke a bs s
    else { s with mem := (bs.zip (List.range bs.length)).foldl (fun m x => if inAreas areas (a + x.2) then m else memPut (a + x.2) x.1 m) s.mem }
  forwardWrite a bs.length s

/-- The memory's canonical form: addresses strictly rising, no entry equal to the unlisted byte. -/
def Memory.wf (m : List Host.Cell) : Bool := smapWf memDefault m

/-! ### Events, free values, time -/

/-- Raise an event: it waits for its log write (R291). The frame is the one at which it was found. -/
def raise (code arg0 arg1 : Nat) (s : State) : State :=
  { s with evtWait := s.evtWait ++ [⟨code, s.frame, arg0 % 2 ^ 32, arg1 % 2 ^ 32, none⟩] }

/-- Raise an event found for frame `b`. -/
def raiseAt (b code arg0 arg1 : Nat) (s : State) : State :=
  { s with evtWait := s.evtWait ++ [⟨code, b, arg0 % 2 ^ 32, arg1 % 2 ^ 32, none⟩] }

/-- Raise an event that goes to one session only (R292). -/
def raiseTo (sess code arg0 arg1 : Nat) (s : State) : State :=
  { s with evtWait := s.evtWait ++ [⟨code, s.frame, arg0 % 2 ^ 32, arg1 % 2 ^ 32, some sess⟩] }

/-- Advance to the next free value. DESIGN CHOICE: log entry 10. -/
def bumpFresh (s : State) : State := { s with fresh := s.fresh + 1 }

end Sys2Proof.Machine
end

