-- ==== Sys2Proof/Machine/Real.lean ====
section
/-! DEFINITION. The real functions by which the groom converts parameters (R149, R156, R162), in fixed point with 128 fraction bits: the exponential, gains in
dB, the step of an EXP ramp, the section of the high-pass filter. Their results are rounded to 28 fraction bits, so the error of about 2^−115 does not show
unless an exact value lies that close to a rounding point. -/

namespace Sys2Proof.Machine

/-- 1.0, ln 10, π and √2 with 128 fraction bits. -/
def fixOne : Nat := 2 ^ 128
def fixLn10 : Nat := 783529105480883066805338482703447369891
def fixPi : Nat := 1069028584064966747859680373161870783300
def fixSqrt2 : Nat := 481231938336009023090067544955250113854

/-- The terms y^k / k! of a power series from term `k` on, `n` of them. -/
def fixTerms (y : Nat) : Nat → Nat → Nat → List Nat
  | 0, _, _ => []
  | n + 1, k, t => t :: fixTerms y n (k + 1) (t * y / (fixOne * (k + 1)))

/-- The alternating sum of a list. -/
def fixAlternate (l : List Nat) : Int := l.foldr (fun (t : Nat) (a : Int) => (t : Int) - a) 0

/-- e^(−x) for x = num / (den · 2^128): the series at x / 128, squared seven times. -/
def fixExpNeg (num den : Nat) : Nat :=
  if 64 * (den * fixOne) ≤ num then 0
  else (List.range 7).foldl (fun e _ => e * e / fixOne) (fixAlternate (fixTerms (num / (128 * den)) 40 0 fixOne)).toNat

/-- The nearest C32 number to a / b. -/
def fixC32 (a b : Nat) : Nat := (2 ^ 29 * a + b) / (2 * b)

/-- sin x and cos x for 0 ≤ x < 2: their power series. -/
def fixSeries (x r : Nat) : Nat :=
  (fixAlternate (((fixTerms x 60 0 fixOne).zip (List.range 60)).filterMap (fun p => if p.2 % 2 = r then some p.1 else none))).toNat
def fixSin (x : Nat) : Nat := fixSeries x 1
def fixCos (x : Nat) : Nat := fixSeries x 0

/-- 1 − e^(−num / den) in units of 2^−28, at least 1: the step of an exponential approach (R156, R169). DEDUCED: log entry 107. -/
def expFrac (num den : Nat) : Nat := if den = 0 then 2 ^ 28 else max 1 (fixC32 (fixOne - fixExpNeg (num * fixOne) den) fixOne)

/-- The step of an EXP ramp: a = round(2^28 · (1 − e^(−1/(T · Fs)))) from T in µs and the rate in mHz (R156). DEDUCED: log entry 107. -/
def expStep (time rate : Nat) : Nat := expFrac 1000000000 (time * rate)

/-- The greatest number from `lo` on that a property, which holds up to some point, allows, at most 2^`bits` − 1 above `lo`. -/
def greatest (lo : Int) (bits : Nat) (fits : Int → Bool) : Int :=
  (List.range bits).foldl (fun x i => let y := x + 2 ^ (bits - 1 - i); if fits y then y else x) lo

/-- A value held between two bounds. -/
def held (lo hi x : Int) : Int := max lo (min hi x)

/-- The ratio a / b of two powers in 1/100 dB, rounded down; at least −655.36 dB. -/
def centiDb (a b : Nat) : Int :=
  greatest (-65536) 17 (fun v => if 0 ≤ v then decide (10 ^ v.toNat * b ^ 1000 ≤ a ^ 1000) else decide (b ^ 1000 ≤ a ^ 1000 * 10 ^ (-v).toNat))

/-- 10^(x / 20) in C32 for `x` in 1/(1,000 · 2^12) dB, to the nearest. -/
def gainNear (x : Int) : Nat :=
  let e := fixExpNeg (x.natAbs * fixLn10) (20 * 1000 * 2 ^ 12)
  if x ≤ 0 then fixC32 e fixOne else fixC32 fixOne e

/-- The gain of a LOG ramp at a level in 1/(1,000 · 2^12) dB: a free value, kept within 0.01 dB of the exact gain above −144 dB (R156). DEDUCED: log entry 107. -/
def logGain (x : Int) : Int :=
  if x ≤ -144000 * 2 ^ 12 then Config.logGain x
  else max (gainNear (x - 10 * 2 ^ 12)) (min (gainNear (x + 10 * 2 ^ 12)) (Config.logGain x))

/-- The level in 1/(1,000 · 2^12) dB of a gain in units of 2^−28, rounded down to a level whose gain is not above it; −144 dB for less (R158). DEDUCED: log entry 107. -/
def levelPoint (c : Int) : Int := greatest (-144000 * 2 ^ 12) 30 (fun x => decide ((gainNear x : Int) ≤ c))

/-! ### Filter sections (R149, R160) -/

/-- tan x for 0 ≤ x < 2. -/
def fixTan (x : Nat) : Nat := fixSin x * fixOne / fixCos x

/-- A feedback pair (a1, a2) in C32 at least 2^−16 inside the stability triangle |a2| < 1, |a1| < 1 + a2: a designed pair outside that margin is moved into it (R160). DESIGN CHOICE: log entry 39. -/
def placePair (a1 a2 : Int) : Int × Int :=
  let m := 2 ^ 12
  let one := 2 ^ 28
  let within (p : Int × Int) : Int × Int :=
    let b := held (m - one) (one - m) p.2
    (held (m - one - b) (one + b - m) p.1, b)
  if within (a1, a2) = (a1, a2) then (a1, a2) else within (Config.placedPair a1 a2)

/-- The coefficients b0, b1, b2, −a1, −a2 of the section that the bilinear transform with prewarping at `f` mHz makes of an analogue prototype
(coefficients as `Config.sectionProto` orders them), at a rate in mHz: rounded to the nearest C32 value, ties to even, the feedback pair placed (R149, R160). The order
and the negated feedback are those of the cascade that the chapter on the instruction set shows. DEDUCED: log entry 107. -/
def bilinear (proto : Nat → Int) (f rate : Nat) : List Int :=
  let k : Int := fixTan (fixPi * f / rate)
  let kk : Int := k * k / fixOne
  let even (c0 c1 c2 : Int) (sign : Int) : Int := c2 * fixOne + sign * c1 * k + c0 * kk
  let mid (c0 c2 : Int) : Int := 2 * (c0 * kk - c2 * fixOne)
  let den := max 1 (even (proto 3) (proto 4) (proto 5) 1).toNat
  let q (x : Int) : Int := (satInt 32 (roundDiv (x * 2 ^ 28) den)).1
  let a := placePair (q (mid (proto 3) (proto 5))) (q (even (proto 3) (proto 4) (proto 5) (-1)))
  [q (even (proto 0) (proto 1) (proto 2) 1), q (mid (proto 0) (proto 2)), q (even (proto 0) (proto 1) (proto 2) (-1)), -a.1, -a.2]

/-- The second-order Butterworth high-pass at `f` mHz: s² / (1 + √2 s + s²) (R162). -/
def butterworthHp (f rate : Nat) : List Int :=
  bilinear (fun i => ([0, 0, fixOne, fixOne, fixSqrt2, fixOne].getD i 0 : Nat)) f rate

/-- The coefficients of an EQ band (R149): type, frequency in mHz, gain, Q, rate in mHz. -/
def eqSection (type f gain q rate : Nat) : List Int := bilinear (Config.sectionProto type gain q) f rate

end Sys2Proof.Machine
end

