-- ==== Sys2Proof/Machine/Operands.lean ====
section
/-! DEFINITION. The operand forms of the stall: register files and the rotating window (R74, R93), writes in flight (R67–R69),
addresses and post-modification (R78, R99, R100), and the stall's view of memory (R75–R79). -/

namespace Sys2Proof.Machine

/-! ### Sticky bits of DBG_STICKY (Table 3.14) -/

def stkSat : Nat := 0x001
def stkAov : Nat := 0x002
def stkIllegal : Nat := 0x004
def stkStack : Nat := 0x008
def stkAddr : Nat := 0x010
def stkMisalign : Nat := 0x020
def stkCirc : Nat := 0x040
def stkBank : Nat := 0x080
def stkOverpost : Nat := 0x100
def stkFillRx : Nat := 0x200
def stkBreach : Nat := 0x400

/-! ### State of one stall -/

def stallOf (s : State) (u : Nat) : Stall := smapGet (fun _ => stallReset) s.stalls u
def setStall (u : Nat) (st : Stall) (s : State) : State :=
  { s with stalls := smapSet (fun _ => stallReset) u st s.stalls }
def unitOf (s : State) (u : Nat) : UnitRec := smapGet (fun _ => unitIdle) s.units u
def setUnit (u : Nat) (r : UnitRec) (s : State) : State :=
  { s with units := smapSet (fun _ => unitIdle) u r s.units }
def pagesOf (s : State) (u : Nat) : Pages := smapGet (fun _ => pagesEmpty) s.pages u
def setPages (u : Nat) (p : Pages) (s : State) : State :=
  { s with pages := smapSet (fun _ => pagesEmpty) u p s.pages }

/-- The header of the live page (R81). -/
def liveHdr (p : Pages) : PageHeader := if p.live then p.hdr1 else p.hdr0
/-- The header of the staged page. -/
def stagedHdr (p : Pages) : PageHeader := if p.live then p.hdr0 else p.hdr1

/-- The physical D register that the logical register `k` names (R74). -/
def physD (rb : BitVec 5) (k : Nat) : Nat :=
  if k < 32 then k else 32 + (k - 32 + rb.toNat) % 32

def dPhys (st : Stall) (i : Nat) : S48 := smapGet (fun _ => 0) st.d i
def dReg (st : Stall) (k : Nat) : S48 := dPhys st (physD st.rb k)
def aReg (st : Stall) (i : Nat) : A96 := smapGet (fun _ => 0) st.a i
def cReg (st : Stall) (i : Nat) : C32 := smapGet (fun _ => 0) st.c i
def pReg (st : Stall) (i : Nat) : P20 := smapGet (fun _ => 0) st.p i
def mReg (st : Stall) (i : Nat) : P20 := smapGet (fun _ => 0) st.m i
def lReg (st : Stall) (i : Nat) : P20 := smapGet (fun _ => 0) st.l i
def xReg (st : Stall) (i : Nat) : X40 := smapGet (fun _ => 0) st.x i
def efOf (st : Stall) (i : Nat) : EventFlag := smapGet (fun _ => flagClear) st.ef i
def setEf (i : Nat) (e : EventFlag) (st : Stall) : Stall := { st with ef := smapSet (fun _ => flagClear) i e st.ef }
def slotOf (st : Stall) (i : Nat) : ExchSlot := smapGet (fun _ => slotEmpty) st.slots i
def setSlot (i : Nat) (e : ExchSlot) (st : Stall) : Stall :=
  { st with slots := smapSet (fun _ => slotEmpty) i e st.slots }

/-- SR as a word (Table 3.2). -/
def srWord (st : Stall) : Nat :=
  bnat st.z + 2 * bnat st.n + 4 * bnat st.v + 8 * bnat st.fillrx + 16 * bnat st.evskip + 32 * bnat st.loop.isSome

/-- The loop count LC: iterations that remain, 0 outside a body (R104). -/
def loopCount (st : Stall) : Nat :=
  match st.loop with
  | some l => l.count
  | none => 0

/-! ### Register numbers of Table 4.1 -/

/-- The signed value of the register that number `n` names, for a source of MOV; none for an accumulator or an undefined
number. -/
def regSource (st : Stall) (n : Nat) : Option Int :=
  if n < 0x40 then some (dReg st n).toInt
  else if n < 0x48 then none
  else if n < 0x68 then some (cReg st (n - 0x48)).toInt
  else if n < 0x78 then some (pReg st (n - 0x68)).toInt
  else if n < 0x88 then some (mReg st (n - 0x78)).toInt
  else if n < 0x98 then some (lReg st (n - 0x88)).toInt
  else if n < 0x9A then some (xReg st (n - 0x98)).toInt
  else if n = 0x9A then some (srWord st : Int)
  else none

/-- Register classes of an operand field. -/
inductive RegClass where
  | d | a | c | p | m | l | x | other
deriving DecidableEq, Repr

/-- The class of register number `n` (Table 4.1). -/
def classOf (n : Nat) : RegClass :=
  if n < 0x40 then .d else if n < 0x48 then .a else if n < 0x68 then .c else if n < 0x78 then .p
  else if n < 0x88 then .m else if n < 0x98 then .l else if n < 0x9A then .x else .other

/-- Width of the registers of a class. -/
def classWidth : RegClass → Nat
  | .d => 48 | .a => 96 | .c => 32 | .p => 20 | .m => 20 | .l => 20 | .x => 40 | .other => 16

/-- The write of the integer `v` into the register that number `n` names; bits above its width are dropped. -/
def regWb (st : Stall) (n : Nat) (v : Int) : Option Wb :=
  match classOf n with
  | .d => some (.d (physD st.rb n) (BitVec.ofInt 48 v))
  | .a => some (.a (n - 0x40) (BitVec.ofInt 96 v) false)
  | .c => some (.c (n - 0x48) (BitVec.ofInt 32 v))
  | .p => some (.p (n - 0x68) (BitVec.ofInt 20 v))
  | .m => some (.m (n - 0x78) (BitVec.ofInt 20 v))
  | .l => some (.l (n - 0x88) (BitVec.ofInt 20 v))
  | .x => some (.x (n - 0x98) (BitVec.ofInt 40 v))
  | .other => none

/-! ### Writes in flight -/

/-- Make one pending register or status write. -/
def applyWb (w : Wb) (st : Stall) : Stall :=
  match w with
  | .d i v => { st with d := smapSet (fun _ => 0) i v st.d }
  | .a i v _ => { st with a := smapSet (fun _ => 0) i v st.a }
  | .c i v => { st with c := smapSet (fun _ => 0) i v st.c }
  | .p i v => { st with p := smapSet (fun _ => 0) i v st.p }
  | .m i v => { st with m := smapSet (fun _ => 0) i v st.m }
  | .l i v => { st with l := smapSet (fun _ => 0) i v st.l }
  | .x i v => { st with x := smapSet (fun _ => 0) i v st.x }
  | .flags z n v => { st with z := z.getD st.z, n := n.getD st.n, v := v.getD st.v }
  | .fillrx b => { st with fillrx := b }
  | .evskip b => { st with evskip := b }
  | .mem _ _ => st

/-- The 8-byte words that `n` bytes from `a` touch. -/
def wordsOf (a n : Nat) : List Nat :=
  if n = 0 then [] else (List.range ((a + n - 1) / 8 - a / 8 + 1)).map (fun i => 8 * (a / 8 + i))

/-- Count an uncorrectable error in a scratchpad or local memory (R208). -/
def spUe (a : Nat) (s : State) : State :=
  raise 0x32 a 0 (setBit Fld.MEM_STATUS_UE_STICKY 0 (setFld Fld.SP_ERR_ADDR_ADDR 0 a
    (countFld Fld.SP_ECC_COUNT_UNCORRECTABLE 0 s)))

/-- The ECC side of a read of the words `ws`: single-bit errors are counted and repaired, uncorrectable ones recorded (R208). DESIGN CHOICE: log entry 122. -/
def eccRead (ws : List Nat) (s : State) : State :=
  forEach ws (fun w s =>
    let s := if s.ceWords.contains w then
        countFld Fld.SP_ECC_COUNT_CORRECTED 0 { s with ceWords := s.ceWords.erase w } else s
    if s.ueWords.contains w then spUe w s else s) s

/-- Whether a read of the words `ws` meets an uncorrectable error. -/
def ueHit (s : State) (ws : List Nat) : Bool := ws.any (fun w => s.ueWords.contains w)

/-- A write of bytes into a memory with SECDED: a word written in full replaces and repairs a bad word; a smaller write
to such a word is discarded and counted once more (R208, R213). DESIGN CHOICE: log entry 122. -/
def eccWrite (a : Nat) (bs : List Byte) (s : State) : State :=
  let bad := (wordsOf a bs.length).filter (fun w => s.ueWords.contains w)
  let s := { s with ceWords := s.ceWords.filter (fun w => !decide (a ≤ w ∧ w + 8 ≤ a + bs.length)) }
  if bad.isEmpty then memWrite a bs s
  else
    let part := bad.filter (fun w => decide (w < a ∨ a + bs.length < w + 8))
    let s := forEach (bs.zip (List.range bs.length)) (fun x s =>
      if part.contains (8 * ((a + x.2) / 8)) then s else memWrite (a + x.2) [x.1] s) s
    forEach part (fun w s =>
      if 0x400000000 ≤ w then countFld Fld.CH_UE_COUNT_COUNT ((w - 0x400000000) / 0x40000000) s
      else countFld Fld.SP_ECC_COUNT_UNCORRECTABLE 0 s)
      { s with ueWords := s.ueWords.filter (fun w => !bad.contains w || part.contains w) }

/-- The pending writes of `l` that are seen from issue `i` on, made in order. -/
def landList (u : Nat) (l : List Inflight) (s : State) : State :=
  forEach l (fun w s =>
    match w.what with
    | .mem a bs => eccWrite a bs s
    | wb => setStall u (applyWb wb (stallOf s u)) s) s

/-- Make every write that an instruction issued at number `i` sees (R67, R68). -/
def landTo (u i : Nat) (s : State) : State :=
  let st := stallOf s u
  landList u (st.inflight.filter (fun w => w.due ≤ i))
    (setStall u { st with inflight := st.inflight.filter (fun w => ¬ w.due ≤ i) } s)

/-- Make every write that the next instruction sees. -/
def landDue (u : Nat) (s : State) : State := landTo u (stallOf s u).issueNo s

/-- Complete everything in flight, in the order in which it would be seen (R48, R58). No latency is above 3. -/
def drain (u : Nat) (s : State) : State :=
  let i := (stallOf s u).issueNo
  landTo u (i + 3) (landTo u (i + 2) (landTo u (i + 1) (landTo u i s)))

/-- What a MAC, MSU or MPY that accumulates into `A_i` reads: the newest MAC-class result still in flight, else the register
(Table 3.5, R95). DESIGN CHOICE: log entry 17. -/
def chainA (st : Stall) (i : Nat) : A96 :=
  st.inflight.foldl (fun acc w =>
    match w.what with
    | .a j v true => if j = i then v else acc
    | _ => acc) (aReg st i)

/-! ### Addresses -/

/-- The least `k` with `n ≤ 2^k` (R78). -/
def clog2 (n : Nat) : Nat := ((List.range 21).find? (fun k => decide (n ≤ 2 ^ k))).getD 21

/-- Base of the circular buffer that holds `p` (R78). -/
def circBase (p l : Nat) : Nat := p - p % 2 ^ clog2 l

/-- The circular step of R78: the new pointer and whether the result fell outside the buffer. -/
def circStep (p l : Nat) (m : Int) : Nat × Bool :=
  let base := circBase p l
  let q : Int := (p : Int) - base + m
  let q := if q ≥ l then q - l else q
  let q := if q < 0 then q + l else q
  if q < 0 ∨ q ≥ l then (base, true) else ((base + q.toNat) % 2 ^ 20, false)

/-- Post-modification of the pointer `p` with circular length `l` by `m` (R78). -/
def postModify (p l : Nat) (m : Int) : Nat × Bool :=
  if l = 0 then (wrapInt 20 (p + m), false) else circStep p l m

/-- The address, the pointer's new value if it is modified, and the CIRC_ERR flag of an address operand (Table 4.5). -/
structure AddrRes where
  addr : Nat
  newP : Option P20
  circErr : Bool
deriving DecidableEq, Repr

/-- Form the address of a move (R100). -/
def formAddr (st : Stall) (g : MoveArgs) : AddrRes :=
  let p := (pReg st g.mp.toNat).toNat
  let l := (lReg st g.mp.toNat).toNat
  match g.am.toNat with
  | 0 => ⟨p, none, false⟩
  | 1 =>
    let r := postModify p l (mReg st (g.mofs.toNat / 2 ^ 10)).toInt
    ⟨p, some (BitVec.ofNat 20 r.1), r.2⟩
  | 2 => ⟨wrapInt 20 (p + g.mofs.toInt), none, false⟩
  | _ =>
    let r := postModify p l g.mofs.toInt
    ⟨p, some (BitVec.ofNat 20 r.1), r.2⟩

/-- Address of the second item of a pair load whose first item lies at the aligned address `first`, and its CIRC_ERR flag (R76, R99). DEDUCED: log entry 111. -/
def pairAddr (st : Stall) (g : MoveArgs) (first size : Nat) : Nat × Bool :=
  let l := (lReg st g.mp.toNat).toNat
  if (g.am.toNat = 1 ∨ g.am.toNat = 3) ∧ 0 < l then circStep first l size
  else ((first + size) % 2 ^ 20, false)

/-! ### The stall's memory -/

/-- Crossbar address of a stall's local byte (R80). -/
def localBase (u : Nat) : Nat := 0x08000000 + u * 0x4000
/-- Crossbar address of a stable's scratchpad (Table 8.1). -/
def scratchBase (u : Nat) : Nat := 0x04000000 + (u / 8) * 0x80000
/-- The engine-wide number of the bank that a scratchpad address of the stall names (Table 8.1). -/
def bankOf (u a : Nat) : Nat := 16 * (u / 8) + (a - 0x80000) / 0x8000

/-- Whether the stall holds the token of the bank (R79, R200). -/
def ownsBank (s : State) (u bank : Nat) : Bool := decide (fld s Fld.BANK_OWN_OWNER bank = u % 8)

/-- Whether a header's parameter window fields are legal and name a window (R151). -/
def windowOk (h : PageHeader) : Bool :=
  decide (h.paSize = 256 ∨ h.paSize = 512 ∨ h.paSize = 1024 ∨ h.paSize = 2048 ∨ h.paSize = 4096)
    && decide (h.paBase % (2 * h.paSize) = 0) && decide (h.paBase + 2 * h.paSize ≤ 0x3FF0)

/-- The physical local address of a stall's own access: inside the window, PSEL 1 inverts the bit that tells the live from the
staged copy (R151). -/
def windowAddr (p : Pages) (a : Nat) : Nat :=
  let h := liveHdr p
  if windowOk h ∧ p.psel ∧ h.paBase ≤ a ∧ a < h.paBase + 2 * h.paSize then
    (if (a - h.paBase) < h.paSize then a + h.paSize else a - h.paSize)
  else a

/-- An access item after the checks of R75, R76 and R79: where it goes (none: it reads 0 or is discarded), the output channel it
names, its sticky bits, and whether it raises STALL_FAULT. -/
structure ItemAt where
  mem : Option Nat
  chan : Option Nat
  sticky : Nat
  fault : Bool
deriving DecidableEq, Repr

/-- Check one item of `size` bytes at stall address `a`. -/
def checkItem (s : State) (u a size : Nat) : ItemAt :=
  let al := a - a % size
  let mis := if a % size = 0 then 0 else stkMisalign
  if al < 0x4000 then ⟨some (localBase u + windowAddr (pagesOf s u) al), none, mis, false⟩
  else if 0x10000 ≤ al ∧ al < 0x20000 then ⟨none, some ((al - 0x10000) / 8), mis, false⟩
  else if 0x80000 ≤ al then
    if ownsBank s u (bankOf u al) then ⟨some (scratchBase u + (al - 0x80000)), none, mis, false⟩
    else ⟨none, none, mis ||| stkBank, true⟩
  else ⟨none, none, mis ||| stkAddr, false⟩

/-- What a load item returns: its bytes, the sticky bits, the fault, and the words it reads. -/
structure LoadRes where
  val : Nat
  sticky : Nat
  fault : Bool
  words : List Nat
deriving DecidableEq, Repr

/-- Load one item; an item that faults, the output window and an uncorrectable word read 0 (R75, R208). -/
def loadItem (s : State) (u a size : Nat) : LoadRes :=
  let it := checkItem s u a size
  match it.mem with
  | none => ⟨0, it.sticky, it.fault, []⟩
  | some x =>
    let ws := wordsOf x size
    ⟨if ueHit s ws then 0 else leNat (memBytes s x size), it.sticky, it.fault, ws⟩

end Sys2Proof.Machine
end

