-- ==== Sys2Proof/Machine/Flags.lean ====
section
/-! DEFINITION. The flag computations of the stall (R60, R96): which flags a result writes, with the result's latency, and the
condition codes (R103). -/

namespace Sys2Proof.Machine

/-- A list of writes, each with its latency. -/
abbrev Writes := List (Nat × Wb)

/-- The flags of an operation whose Flags column reads "sat": V is set on saturation, nothing else changes. -/
def flagsSat (lat : Nat) (sat : Bool) : Writes := if sat then [(lat, .flags none none (some true))] else []

/-- The flags of an operation whose column reads "SF": with SF 1 it writes Z, N and V from its result; with SF 0 it sets V on
saturation alone. -/
def flagsSF (lat : Nat) (sf sat : Bool) (res : Int) : Writes :=
  if sf then [(lat, .flags (some (decide (res = 0))) (some (decide (res < 0))) (some sat))] else flagsSat lat sat

/-- The flags of an operation whose column reads "always". -/
def flagsAlways (lat : Nat) (sat : Bool) (res : Int) : Writes :=
  [(lat, .flags (some (decide (res = 0))) (some (decide (res < 0))) (some sat))]

/-- Whether the condition COND holds, from SR as it stands (Table 4.7); none for an illegal code. -/
def condHolds (st : Stall) (cond : Nat) : Option Bool :=
  match cond with
  | 0 => some true
  | 1 => some st.z
  | 2 => some (!st.z)
  | 3 => some st.n
  | 4 => some (!st.n)
  | 5 => some st.v
  | 6 => some (!st.v)
  | 7 => some (!st.z && !st.n)
  | 8 => some (st.z || st.n)
  | 9 => some st.fillrx
  | 10 => some (!st.fillrx)
  | 11 => some st.evskip
  | 12 => some (!st.evskip)
  | _ => none

end Sys2Proof.Machine
end

