-- ==== Sys2Proof/Machine/StallArith.lean ====
section
/-! DEFINITION. The arithmetic part of a format A word (R63–R66, R95, R96, R110–R112): operand classes, and what each
operation computes from the state in which its word issues. -/

namespace Sys2Proof.Machine

/-- What an operation of the arithmetic part does: writes with latencies, sticky bits, STALL_FAULT, memory words read. -/
structure OpRes where
  writes : Writes
  sticky : Nat
  fault : Bool
  words : List Nat
deriving DecidableEq, Repr

/-- An operation without effect. -/
def opNone : OpRes := ⟨[], 0, false, []⟩
/-- An operation that makes the writes `w` and sets the sticky bits `k`. -/
def opWrites (w : Writes) (k : Nat) : OpRes := ⟨w, k, false, []⟩

/-- The operand class a field of Table 4.3 requires. -/
inductive OperandKind where
  | zero | dreg | areg | xreg | creg | preg | accPair
deriving DecidableEq, Repr

/-- Whether a 6-bit field names a register of its class (R93). -/
def fieldOk (k : OperandKind) (v : BitVec 6) : Bool :=
  match k with
  | .zero => decide (v.toNat = 0)
  | .dreg => true
  | .areg => decide (v.toNat < 8)
  | .xreg => decide (v.toNat < 2)
  | .creg => decide (v.toNat < 32)
  | .preg => decide (v.toNat < 16)
  | .accPair => decide (v.toNat / 2 % 4 = 0)

/-- How an operation uses IMM5: not at all, any value, the mode bit of RAMP, the table size of LUT. -/
inductive ImmUse where
  | zero | any | mode | table
deriving DecidableEq, Repr

/-- Whether an IMM5 value is legal for its use (R95, R110, R111). -/
def immOk (k : ImmUse) (v : BitVec 5) : Bool :=
  match k with
  | .zero => decide (v.toNat = 0)
  | .any => true
  | .mode => decide (v.toNat < 2)
  | .table => decide (1 ≤ v.toNat ∧ v.toNat ≤ 12)

/-- A row of Table 4.3: operand classes, use of IMM5, and whether SF may be 1. -/
structure OpSig where
  fd : OperandKind
  fs1 : OperandKind
  fs2 : OperandKind
  imm : ImmUse
  sfOk : Bool
deriving DecidableEq, Repr

/-- Table 4.3, operand columns. None for an undefined OP. -/
def opSig (op : Nat) : Option OpSig :=
  match op with
  | 0x00 => some ⟨.zero, .zero, .zero, .zero, false⟩
  | 0x01 => some ⟨.areg, .dreg, .creg, .zero, false⟩
  | 0x02 => some ⟨.areg, .dreg, .creg, .zero, false⟩
  | 0x03 => some ⟨.areg, .dreg, .creg, .zero, false⟩
  | 0x04 => some ⟨.areg, .zero, .zero, .zero, false⟩
  | 0x05 => some ⟨.areg, .dreg, .zero, .zero, false⟩
  | 0x06 => some ⟨.dreg, .areg, .zero, .zero, false⟩
  | 0x07 => some ⟨.dreg, .areg, .zero, .zero, false⟩
  | 0x08 => some ⟨.xreg, .dreg, .dreg, .zero, false⟩
  | 0x09 => some ⟨.xreg, .dreg, .dreg, .zero, false⟩
  | 0x0A => some ⟨.xreg, .dreg, .dreg, .zero, false⟩
  | 0x0B => some ⟨.accPair, .dreg, .dreg, .any, false⟩
  | 0x0C => some ⟨.dreg, .dreg, .dreg, .zero, true⟩
  | 0x0D => some ⟨.dreg, .dreg, .dreg, .zero, true⟩
  | 0x0E => some ⟨.dreg, .dreg, .zero, .zero, true⟩
  | 0x0F => some ⟨.dreg, .dreg, .zero, .zero, true⟩
  | 0x10 => some ⟨.zero, .dreg, .dreg, .zero, false⟩
  | 0x11 => some ⟨.dreg, .dreg, .dreg, .zero, true⟩
  | 0x12 => some ⟨.dreg, .dreg, .dreg, .zero, true⟩
  | 0x13 => some ⟨.dreg, .dreg, .dreg, .zero, true⟩
  | 0x14 => some ⟨.dreg, .dreg, .zero, .any, true⟩
  | 0x15 => some ⟨.dreg, .dreg, .zero, .any, true⟩
  | 0x16 => some ⟨.dreg, .dreg, .zero, .any, true⟩
  | 0x17 => some ⟨.dreg, .dreg, .dreg, .zero, true⟩
  | 0x18 => some ⟨.creg, .creg, .creg, .mode, true⟩
  | 0x19 => some ⟨.dreg, .dreg, .preg, .table, true⟩
  | 0x1A => some ⟨.dreg, .dreg, .preg, .zero, true⟩
  | 0x1B => some ⟨.dreg, .dreg, .preg, .zero, true⟩
  | 0x1C => some ⟨.dreg, .dreg, .preg, .zero, true⟩
  | _ => none

/-- Whether the arithmetic part is legal by itself (R92, R95, R96). -/
def arithLegal (op : BitVec 6) (f : ArithF) : Bool :=
  match opSig op.toNat with
  | none => false
  | some g => fieldOk g.fd f.fd && fieldOk g.fs1 f.fs1 && fieldOk g.fs2 f.fs2 && immOk g.imm f.imm5 && (g.sfOk || !f.sf)

/-- The register numbers (Table 4.1, D logical) that the arithmetic part writes (R97). -/
def arithDests (op : BitVec 6) (f : ArithF) : List Nat :=
  let n := op.toNat
  if n = 0x0B then [0x40 + f.fd.toNat / 8, 0x98 + f.fd.toNat % 2]
  else if n = 0x10 then []
  else if 0x1A ≤ n ∧ n ≤ 0x1C then [f.fd.toNat, 0x68 + f.fs2.toNat]
  else match opSig n with
    | some ⟨.dreg, _, _, _, _⟩ => [f.fd.toNat]
    | some ⟨.areg, _, _, _, _⟩ => [0x40 + f.fd.toNat]
    | some ⟨.xreg, _, _, _, _⟩ => [0x98 + f.fd.toNat]
    | some ⟨.creg, _, _, _, _⟩ => [0x48 + f.fd.toNat]
    | _ => []

/-- The pointers that the arithmetic part writes or names as its P operand (R97). -/
def arithPtrs (op : BitVec 6) (f : ArithF) : List Nat :=
  if 0x19 ≤ op.toNat ∧ op.toNat ≤ 0x1C then [f.fs2.toNat] else []

/-! ### Operations -/

/-- A MAC-class write of the exact value `x` into `A_i`, saturating (R63). -/
def accRes (i : Nat) (x : Int) : OpRes :=
  let r := satInt 96 x
  opWrites ((3, .a i (BitVec.ofInt 96 r.1) true) :: flagsSat 3 r.2) (if r.2 then stkAov else 0)

/-- D × C, exact (R63). -/
def prodDC (st : Stall) (d c : Nat) : Int := (dReg st d).toInt * (cReg st c).toInt

def aluMpy (st : Stall) (f : ArithF) : OpRes :=
  accRes f.fd.toNat (prodDC st f.fs1.toNat f.fs2.toNat)
def aluMac (st : Stall) (f : ArithF) : OpRes :=
  accRes f.fd.toNat ((chainA st f.fd.toNat).toInt + prodDC st f.fs1.toNat f.fs2.toNat)
def aluMsu (st : Stall) (f : ArithF) : OpRes :=
  accRes f.fd.toNat ((chainA st f.fd.toNat).toInt - prodDC st f.fs1.toNat f.fs2.toNat)
def aluClr (_ : Stall) (f : ArithF) : OpRes :=
  opWrites [(3, .a f.fd.toNat 0 true)] 0
/-- ADDDA reads its own A as any reader does, not chained (R95). -/
def aluAddda (st : Stall) (f : ArithF) : OpRes :=
  accRes f.fd.toNat ((aReg st f.fd.toNat).toInt + (dReg st f.fs1.toNat).toInt * 2 ^ 28)

/-- A result of RND or SAT: limited to S48, all flags written (R64). -/
def convRes (st : Stall) (k : Nat) (x : Int) : OpRes :=
  let r := satInt 48 x
  opWrites ((2, .d (physD st.rb k) (BitVec.ofInt 48 r.1)) :: flagsAlways 2 r.2 r.1) (if r.2 then stkSat else 0)

def aluRnd (st : Stall) (f : ArithF) : OpRes :=
  convRes st f.fd.toNat (roundShift (aReg st f.fs1.toNat).toInt 28)
def aluSat (st : Stall) (f : ArithF) : OpRes :=
  convRes st f.fd.toNat ((aReg st f.fs1.toNat).toInt / 2 ^ 28)

/-- The signed 16 × 16 product of two D registers (R66). -/
def prodX (st : Stall) (i j : Nat) : Int :=
  signOf 16 (dReg st i).toNat * signOf 16 (dReg st j).toNat

/-- A write of the exact value `x` into `X_i`, saturating (R66). -/
def auxRes (i : Nat) (x : Int) : OpRes :=
  let r := satInt 40 x
  opWrites ((2, .x i (BitVec.ofInt 40 r.1)) :: flagsSat 2 r.2) (if r.2 then stkAov else 0)

def aluMpyx (st : Stall) (f : ArithF) : OpRes :=
  auxRes f.fd.toNat (prodX st f.fs1.toNat f.fs2.toNat)
def aluMacx (st : Stall) (f : ArithF) : OpRes :=
  auxRes f.fd.toNat ((xReg st f.fd.toNat).toInt + prodX st f.fs1.toNat f.fs2.toNat)
def aluMsux (st : Stall) (f : ArithF) : OpRes :=
  auxRes f.fd.toNat ((xReg st f.fd.toNat).toInt - prodX st f.fs1.toNat f.fs2.toNat)

/-- The main MAC and the auxiliary MAC in one issue (R66, R95). -/
def aluMacw (st : Stall) (f : ArithF) : OpRes :=
  let i := f.fd.toNat / 8
  let j := f.fd.toNat % 2
  let r1 := accRes i ((chainA st i).toInt + prodDC st f.fs1.toNat f.imm5.toNat)
  let r2 := auxRes j ((xReg st j).toInt + prodX st f.fs1.toNat f.fs2.toNat)
  opWrites (r1.writes ++ r2.writes) (r1.sticky ||| r2.sticky)

/-- A saturating D result with latency 1 (R65). -/
def dRes (st : Stall) (f : ArithF) (x : Int) : OpRes :=
  let r := satInt 48 x
  opWrites ((1, .d (physD st.rb f.fd.toNat) (BitVec.ofInt 48 r.1)) :: flagsSF 1 f.sf r.2 r.1) (if r.2 then stkSat else 0)

/-- A D result that cannot saturate (R65). -/
def dResBits (st : Stall) (f : ArithF) (x : S48) : OpRes :=
  opWrites ((1, .d (physD st.rb f.fd.toNat) x) :: flagsSF 1 f.sf false x.toInt) 0

def aluAdd (st : Stall) (f : ArithF) : OpRes :=
  dRes st f ((dReg st f.fs1.toNat).toInt + (dReg st f.fs2.toNat).toInt)
def aluSub (st : Stall) (f : ArithF) : OpRes :=
  dRes st f ((dReg st f.fs1.toNat).toInt - (dReg st f.fs2.toNat).toInt)
def aluNeg (st : Stall) (f : ArithF) : OpRes :=
  dRes st f (-(dReg st f.fs1.toNat).toInt)
def aluAbs (st : Stall) (f : ArithF) : OpRes :=
  dRes st f ((dReg st f.fs1.toNat).toInt.natAbs : Int)
/-- CMP writes the flags of the exact difference and no register. -/
def aluCmp (st : Stall) (f : ArithF) : OpRes :=
  opWrites (flagsAlways 1 false ((dReg st f.fs1.toNat).toInt - (dReg st f.fs2.toNat).toInt)) 0
def aluAnd (st : Stall) (f : ArithF) : OpRes :=
  dResBits st f (dReg st f.fs1.toNat &&& dReg st f.fs2.toNat)
def aluOr (st : Stall) (f : ArithF) : OpRes :=
  dResBits st f (dReg st f.fs1.toNat ||| dReg st f.fs2.toNat)
def aluXor (st : Stall) (f : ArithF) : OpRes :=
  dResBits st f (dReg st f.fs1.toNat ^^^ dReg st f.fs2.toNat)
def aluShl (st : Stall) (f : ArithF) : OpRes :=
  dRes st f ((dReg st f.fs1.toNat).toInt * 2 ^ f.imm5.toNat)
def aluShr (st : Stall) (f : ArithF) : OpRes :=
  dResBits st f ((dReg st f.fs1.toNat).sshiftRight f.imm5.toNat)
def aluShrl (st : Stall) (f : ArithF) : OpRes :=
  dResBits st f ((dReg st f.fs1.toNat) >>> f.imm5.toNat)
/-- SHV: left and saturating for a positive amount, arithmetic right for a negative one, magnitudes limited to 47. -/
def aluShv (st : Stall) (f : ArithF) : OpRes :=
  let n := signOf 6 (dReg st f.fs2.toNat).toNat
  if 0 ≤ n then dRes st f ((dReg st f.fs1.toNat).toInt * 2 ^ (min n.toNat 47))
  else dResBits st f ((dReg st f.fs1.toNat).sshiftRight (min n.natAbs 47))

/-- One step of a coefficient ramp (R110): the new value of Cd. -/
def rampStep (mode : Bool) (cd cs ct : Int) : Int :=
  if mode then
    let k := max 0 (min cs (2 ^ 28))
    let d := roundShift ((ct - cd) * k) 28
    let d := if 0 < k ∧ d = 0 ∧ cd ≠ ct then (if cd < ct then 1 else -1) else d
    cd + d
  else
    let v := cd + cs
    if (0 ≤ cs ∧ ct ≤ v) ∨ (cs < 0 ∧ v ≤ ct) then ct else v

/-- RAMP (R110): Z tells that the target is reached. -/
def aluRamp (st : Stall) (f : ArithF) : OpRes :=
  let ct := (cReg st f.fs2.toNat).toInt
  let v := rampStep (decide (f.imm5.toNat = 1)) (cReg st f.fd.toNat).toInt (cReg st f.fs1.toNat).toInt ct
  opWrites ((2, .c f.fd.toNat (BitVec.ofInt 32 v)) ::
    (if f.sf then [(2, .flags (some (decide (v = ct))) (some false) (some false))] else [])) 0

/-- The value a LUT forms between the entries `t0` and `t1` for the position `x` (R111); a position at or above 1 FS
returns `t1`. DEDUCED: log entry 14. -/
def lutValue (k : Nat) (x t0 t1 : Int) : Int :=
  if 2 ^ 40 ≤ x then t1
  else
    let x := max 0 x
    t0 + roundShift ((t1 - t0) * (x % 2 ^ (40 - k))) (40 - k)

/-- Index of the lower entry of a LUT (R111). DEDUCED: log entry 14. -/
def lutIndex (k : Nat) (x : Int) : Nat := (max 0 (min x (2 ^ 40 - 1))).toNat / 2 ^ (40 - k)

/-- LUT (R111): two entries in one access, each checked by itself (R75). -/
def aluLut (s : State) (u : Nat) (st : Stall) (f : ArithF) : OpRes :=
  let k := f.imm5.toNat
  let x := (dReg st f.fs1.toNat).toInt
  let a := (pReg st f.fs2.toNat).toNat + 8 * lutIndex k x
  let e0 := loadItem s u (a % 2 ^ 20) 8
  let e1 := loadItem s u ((a + 8) % 2 ^ 20) 8
  let r := satInt 48 (lutValue k x (signOf 48 e0.val) (signOf 48 e1.val))
  ⟨(3, .d (physD st.rb f.fd.toNat) (BitVec.ofInt 48 r.1)) :: flagsSF 3 f.sf r.2 r.1,
   (e0.sticky ||| e1.sticky) ||| (if r.2 then stkSat else 0), e0.fault || e1.fault, e0.words ++ e1.words⟩

/-- The common part of MAXI, MINI and MAXAI (R112): replace Dd by `v` and P by LC if `take`. -/
def extremeRes (st : Stall) (f : ArithF) (take sat : Bool) (v : Int) : OpRes :=
  let w : Writes := if take then
      [(3, .d (physD st.rb f.fd.toNat) (BitVec.ofInt 48 v)), (3, .p f.fs2.toNat (BitVec.ofNat 20 (loopCount st)))] else []
  let fl : Writes := if f.sf then [(3, .flags (some take) (some false) (some sat))] else flagsSat 3 sat
  opWrites (w ++ fl) (if sat then stkSat else 0)

def aluMaxi (st : Stall) (f : ArithF) : OpRes :=
  let v := (dReg st f.fs1.toNat).toInt
  extremeRes st f (decide ((dReg st f.fd.toNat).toInt < v)) false v
def aluMini (st : Stall) (f : ArithF) : OpRes :=
  let v := (dReg st f.fs1.toNat).toInt
  extremeRes st f (decide (v < (dReg st f.fd.toNat).toInt)) false v
def aluMaxai (st : Stall) (f : ArithF) : OpRes :=
  let r := satInt 48 ((dReg st f.fs1.toNat).toInt.natAbs : Int)
  extremeRes st f (decide ((dReg st f.fd.toNat).toInt < r.1)) r.2 r.1

/-- The arithmetic part with operation OP (Table 4.3). -/
def aluOp (s : State) (u : Nat) (st : Stall) (op : BitVec 6) (f : ArithF) : OpRes :=
  match op.toNat with
  | 0x01 => aluMpy st f
  | 0x02 => aluMac st f
  | 0x03 => aluMsu st f
  | 0x04 => aluClr st f
  | 0x05 => aluAddda st f
  | 0x06 => aluRnd st f
  | 0x07 => aluSat st f
  | 0x08 => aluMpyx st f
  | 0x09 => aluMacx st f
  | 0x0A => aluMsux st f
  | 0x0B => aluMacw st f
  | 0x0C => aluAdd st f
  | 0x0D => aluSub st f
  | 0x0E => aluNeg st f
  | 0x0F => aluAbs st f
  | 0x10 => aluCmp st f
  | 0x11 => aluAnd st f
  | 0x12 => aluOr st f
  | 0x13 => aluXor st f
  | 0x14 => aluShl st f
  | 0x15 => aluShr st f
  | 0x16 => aluShrl st f
  | 0x17 => aluShv st f
  | 0x18 => aluRamp st f
  | 0x19 => aluLut s u st f
  | 0x1A => aluMaxi st f
  | 0x1B => aluMini st f
  | 0x1C => aluMaxai st f
  | _ => opNone

end Sys2Proof.Machine
end

