-- ==== Sys2Proof/Machine/StallMove.lean ====
section
/-! DEFINITION. The move of a format A word: loads, stores and MOV (R75–R79, R97–R101). -/

namespace Sys2Proof.Machine

/-- What a move does: writes with latencies, sticky bits, STALL_FAULT, memory words read, and the output write it makes. -/
structure MoveRes where
  writes : Writes
  sticky : Nat
  fault : Bool
  words : List Nat
  out : Option (Nat × S48)
deriving DecidableEq, Repr

/-- A move without effect. -/
def moveNone : MoveRes := ⟨[], 0, false, [], none⟩

/-- Access size of a move kind (Table 3.8, Table 4.4); for a pair, of one item. -/
def moveSize (mv : Nat) : Nat :=
  match mv with
  | 1 => 8 | 2 => 8 | 3 => 4 | 4 => 4 | 5 => 2 | 6 => 2 | 7 => 4 | 8 => 4
  | 9 => 16 | 10 => 16 | 11 => 8 | 12 => 8 | 13 => 8 | 14 => 4 | _ => 0

/-- Whether MREG names a register of the class of the move kind (Table 4.4, R99). -/
def mregOk (mv n : Nat) : Bool :=
  let cl := classOf n
  match mv with
  | 1 | 2 | 3 | 4 | 5 | 6 => decide (cl = .d)
  | 7 | 8 => decide (cl = .c ∨ cl = .p ∨ cl = .m ∨ cl = .l)
  | 9 | 10 => decide (cl = .a)
  | 11 | 12 => decide (cl = .x)
  | 13 => decide (cl = .d ∧ n ≠ 31 ∧ n ≠ 63)
  | 14 => decide (cl = .c ∧ n ≠ 0x67)
  | 15 => decide (cl = .d ∨ cl = .c ∨ cl = .p ∨ cl = .m ∨ cl = .l)
  | _ => false

/-- The source register number of a MOV: bits [19:12] of the word (R101). -/
def movSource (g : MoveArgs) : Nat := g.mp.toNat * 16 + g.am.toNat * 4 + g.mofs.toNat / 2 ^ 12

/-- Whether the fields of a move are legal by themselves (R98–R101). -/
def moveLegal (m : MoveF) : Bool :=
  let g := m.args
  let k := m.mv.toNat
  if k = 0 then decide (g.mreg.toNat = 0 ∧ g.mp.toNat = 0 ∧ g.am.toNat = 0 ∧ g.mofs.toNat = 0)
  else if k = 15 then
    mregOk 15 g.mreg.toNat && decide (g.mofs.toNat % 2 ^ 12 = 0) && decide (movSource g ≤ 0x9A)
      && decide (classOf (movSource g) ≠ .a)
  else
    mregOk k g.mreg.toNat &&
    (match g.am.toNat with
     | 0 => decide (g.mofs.toNat = 0)
     | 1 => decide (g.mofs.toNat % 2 ^ 10 = 0)
     | _ => true)

/-- Whether the move of kind `k` writes its register. -/
def moveWrites (k : Nat) : Bool :=
  match k with
  | 1 | 3 | 5 | 7 | 9 | 11 | 13 | 14 | 15 => true
  | _ => false

/-- The register numbers (Table 4.1, D logical) that a move writes. -/
def moveDests (m : MoveF) : List Nat :=
  let k := m.mv.toNat
  let n := m.args.mreg.toNat
  if k = 13 ∨ k = 14 then [n, n + 1] else if moveWrites k then [n] else []

/-- Whether the move post-modifies its pointer (R100). -/
def movePostMod (m : MoveF) : Bool :=
  decide (m.mv.toNat ≠ 0 ∧ m.mv.toNat ≠ 15 ∧ (m.args.am.toNat = 1 ∨ m.args.am.toNat = 3))

/-- Whether a format A word is legal (R92, R97–R101). -/
def wordALegal (op : BitVec 6) (f : ArithF) (m : MoveF) : Bool :=
  arithLegal op f && moveLegal m
    && !(arithDests op f).any (fun n => (moveDests m).contains n)
    && !(movePostMod m && (arithPtrs op f).contains m.args.mp.toNat)
    && !(movePostMod m && (moveDests m).contains (0x68 + m.args.mp.toNat))
    && !(decide (op.toNat = 0x19) && decide (m.mv.toNat ≠ 0))

/-- The integer that a loaded item of move kind `k` gives its register (Table 3.8). -/
def loadConv (k v : Nat) : Int :=
  match k with
  | 1 | 13 => signOf 48 v
  | 3 => signOf 32 v * 2 ^ 9
  | 5 => signOf 16 v
  | 7 | 14 => signOf 32 v
  | 9 => signOf 96 v
  | 11 => signOf 40 v
  | _ => 0

/-- The integer that a store of kind `k` takes from register number `n`, and whether the clamp of the packed store changed it
(Table 3.8). -/
def storeConv (st : Stall) (k n : Nat) : Int × Bool :=
  match k with
  | 4 =>
    let v := (dReg st n).toInt
    let c := max (-(2 ^ 40)) (min v (2 ^ 40 - 2 ^ 9))
    (c / 2 ^ 9, decide (c ≠ v))
  | 10 => ((aReg st (n - 0x40)).toInt, false)
  | _ => ((regSource st n).getD 0, false)

/-- A load of kind `k` (one item). -/
def moveLoad (s : State) (u : Nat) (st : Stall) (k : Nat) (g : MoveArgs) : MoveRes :=
  let ad := formAddr st g
  let r := loadItem s u ad.addr (moveSize k)
  let w := (regWb st g.mreg.toNat (loadConv k r.val)).toList.map (fun w => (2, w))
  ⟨w, r.sticky, r.fault, r.words, none⟩

/-- A pair load (R99). -/
def movePair (s : State) (u : Nat) (st : Stall) (k : Nat) (g : MoveArgs) : MoveRes :=
  let size := moveSize k
  let ad := formAddr st g
  let first := ad.addr - ad.addr % size
  let sec := pairAddr st g first size
  let r0 := loadItem s u ad.addr size
  let r1 := loadItem s u sec.1 size
  let w (n : Nat) (r : LoadRes) : Writes := (regWb st n (loadConv k r.val)).toList.map (fun w => (2, w))
  ⟨w g.mreg.toNat r0 ++ w (g.mreg.toNat + 1) r1,
   (r0.sticky ||| r1.sticky) ||| (if sec.2 then stkCirc else 0), r0.fault || r1.fault, r0.words ++ r1.words, none⟩

/-- A store of kind `k` (R76, R77, R98): memory changes for loads issued 2 later (R69); the output window accepts ST.S only. -/
def moveStore (s : State) (u : Nat) (st : Stall) (k : Nat) (g : MoveArgs) : MoveRes :=
  let size := moveSize k
  let ad := formAddr st g
  let it := checkItem s u ad.addr size
  let v := storeConv st k g.mreg.toNat
  let clip := if v.2 then stkSat else 0
  match it.mem, it.chan with
  | some a, _ => ⟨[(2, .mem a (leBytes size (wrapInt (8 * size) v.1)))], it.sticky ||| clip, it.fault, [], none⟩
  | none, some c =>
    if k = 2 then ⟨[], it.sticky, false, [], some (c, BitVec.ofInt 48 v.1)⟩
    else ⟨[], (it.sticky ||| clip) ||| stkAddr, false, [], none⟩
  | none, none => ⟨[], it.sticky ||| clip, it.fault, [], none⟩

/-- MOV (R101): the source bits, sign-extended or cut to the destination. -/
def moveMov (st : Stall) (g : MoveArgs) : MoveRes :=
  match regSource st (movSource g) with
  | some v => ⟨(regWb st g.mreg.toNat v).toList.map (fun w => (1, w)), 0, false, [], none⟩
  | none => moveNone

/-- The pointer's post-modification, seen from the next issue on (Table 3.5), and its CIRC_ERR flag (R78). -/
def movePtr (st : Stall) (m : MoveF) : Writes × Nat :=
  if m.mv.toNat = 0 ∨ m.mv.toNat = 15 then ([], 0)
  else
    let ad := formAddr st m.args
    (match ad.newP with
     | some q => [(1, .p m.args.mp.toNat q)]
     | none => [], if ad.circErr then stkCirc else 0)

/-- The move of a format A word, its pointer update included. -/
def moveOp (s : State) (u : Nat) (st : Stall) (m : MoveF) : MoveRes :=
  let k := m.mv.toNat
  let r :=
    if k = 0 then moveNone
    else if k = 15 then moveMov st m.args
    else if k = 13 ∨ k = 14 then movePair s u st k m.args
    else if moveWrites k then moveLoad s u st k m.args
    else moveStore s u st k m.args
  let p := movePtr st m
  { r with writes := r.writes ++ p.1, sticky := r.sticky ||| p.2 }

end Sys2Proof.Machine
end

