-- ==== Sys2Proof/Machine/StallIssue.lean ====
section
/-! DEFINITION. How a stall issues a word (R57–R60, R67–R73, R87, R108): when it can issue, what every issue does, illegal words,
blocking, and the start and end of its frame work (R26, R32, R40, R43, R58, R59). -/

namespace Sys2Proof.Machine

/-! ### Ledger and frame-guard counts -/

def streamOf (l : SMap StreamCounts) (k : Nat) : StreamCounts := smapGet (fun _ => streamZero) l k

/-- Replacement causes of Table 2.6. -/
def causeOverrun : Nat := 0x01
def causeSkip : Nat := 0x02
def causeAbort : Nat := 0x03
def causeExchFill : Nat := 0x04
def causeDroverSkip : Nat := 0x05
def causeLaneLoss : Nat := 0x06
def causeFillerRange : Nat := 0x07
def causeLinkUncorr : Nat := 0x08
def causePortUnder : Nat := 0x09
def causePortOver : Nat := 0x0A
def causeBlockReset : Nat := 0x0B
def causeSwitchover : Nat := 0x0C
def causeUnaccounted : Nat := 0x0D
def causeSlotMiss : Nat := 0x0E

/-- Counts `n` under cause `c`. -/
def addCause (c n : Nat) (r : StreamCounts) : StreamCounts :=
  { r with f := smapSet (fun _ => 0) c (smapGet (fun _ => 0) r.f c + n) r.f }

/-- One update of a stream (R52): E, D and, with a cause, F together. A point without a stream, and a stream that is not active, count nowhere. -/
def ledgerAdd (stream : Option Nat) (e d : Nat) (cause : Option (Nat × Nat)) (s : State) : State :=
  match stream with
  | none => s
  | some k =>
    let r := streamOf s.ledger.cur k
    if ¬ r.active then s else
    let r := { r with e := r.e + e, d := r.d + d }
    let r := match cause with
      | some (c, n) => addCause c n r
      | none => r
    { s with ledger := { s.ledger with cur := smapSet (fun _ => streamZero) k r s.ledger.cur } }

/-- Count an output write, SEND or SIGNAL discarded after boundary b + 2 (R41). -/
def countDiscard (s : State) : State := countFld Fld.FG_DISCARD_COUNT_COUNT 0 s

/-! ### Faults of a stall -/

/-- Set sticky bits of a stall. -/
def orSticky (u bits : Nat) (s : State) : State :=
  let st := stallOf s u
  setStall u { st with sticky := st.sticky ||| BitVec.ofNat 11 bits } s

/-- Raise STALL_FAULT with the unit, its PC and its sticky bits (R73, R79, R86). -/
def stallFault (u : Nat) (s : State) : State :=
  let st := stallOf s u
  raise 0x10 u (st.pc.toNat + 2 ^ 16 * st.sticky.toNat) s

/-! ### Issue -/

/-- Whether the mode runs stall programs (R21). -/
def arrayRuns (s : State) : Bool := decide (s.mode = .run ∨ s.mode = .shadow ∨ s.mode = .safe)

/-- Whether the stall stands at the end of the override block in SAFE, where it issues nothing more (R437). -/
def atOvrEnd (s : State) (u : Nat) : Bool :=
  decide (s.mode = .safe) && decide ((stallOf s u).pc = (liveHdr (pagesOf s u)).ovrEnd)

/-- Whether the frame the unit runs is already settled: its boundary + 2 has passed (R41). -/
def stale (s : State) (u : Nat) : Bool := decide ((unitOf s u).frame + 2 ≤ s.frame)

/-- Whether the stall is at an event point (R87). -/
def atEventPoint (s : State) (u : Nat) : Bool :=
  let st := stallOf s u
  st.blocked.isSome || decide ((unitOf s u).st = .ended) ||
    (st.delay.isNone && (match st.loop with | some l => l.atEnd | none => true))

/-- Whether a control event waits at an event point: the stall takes it there and issues nothing before it (R87, R113). DEDUCED: log entry 124. -/
def eventDue (s : State) (u : Nat) : Bool :=
  ((stallOf s u).haltPending || (stallOf s u).abortPending) && atEventPoint s u

/-- Whether the stall can issue its next word. -/
def canIssue (s : State) (u : Nat) : Bool :=
  let st := stallOf s u
  decide ((unitOf s u).st = .running) && !st.halted && st.blocked.isNone
    && !(match st.loop with | some l => l.atEnd | none => false) && !atOvrEnd s u && !eventDue s u

/-- Whether a halt may be taken in the present mode (R90). -/
def haltAllowed (s : State) : Bool := !arrayRuns s || fbit s Fld.DBG_CTRL_RUN_HALT_EN

/-- The program counter after the word at PC, with the delay-slot count (R70), the loop's end (R71) and the wrap of R106. -/
def nextPc (st : Stall) : Stall :=
  match st.delay with
  | some ⟨1, t⟩ => { st with pc := t.getD (st.pc + 1), delay := none }
  | some ⟨n + 1, t⟩ => { st with pc := st.pc + 1, delay := some ⟨n, t⟩ }
  | some ⟨0, _⟩ => { st with pc := st.pc + 1, delay := none }
  | none =>
    match st.loop with
    | some l =>
      if st.pc + 1 = l.start + BitVec.ofNat 13 l.len then
        { st with pc := st.pc + 1, loop := some { l with atEnd := true } }
      else { st with pc := st.pc + 1 }
    | none => { st with pc := st.pc + 1 }

/-- What every issue does besides its own effect: it counts (R32, R108), and a breakpoint or a step in progress makes a halt
pending (R90). -/
def countIssue (s : State) (u : Nat) (st : Stall) : Stall :=
  let hit := decide (fld s Fld.DBG_SEL_STALL = u) && fbit s Fld.DBG_BREAK_EN
    && decide (fld s Fld.DBG_BREAK_ADDR = st.pc.toNat) && haltAllowed s
  { st with issueNo := st.issueNo + 1, frameIssues := st.frameIssues + 1,
            haltPending := st.haltPending || hit || st.stepping, stepping := false }

/-- The pending writes that a word issued now makes. -/
def enqueue (st : Stall) (w : Writes) : Stall :=
  { st with inflight := st.inflight ++ w.map (fun x => ⟨st.issueNo + x.1, x.2⟩) }

/-- Issue a word that moves on to the next word. -/
def finishIssue (u : Nat) (s : State) : State :=
  let st := stallOf s u
  setStall u (nextPc (countIssue s u st)) s

/-- Execute a word as a no-operation of one issue (R73). -/
def issueIllegal (u : Nat) (s : State) : State :=
  finishIssue u (stallFault u (orSticky u stkIllegal s))

/-- Put an output write of the stall on its way (R77): a channel at or above the table length sets ADDR_ERR, a null entry
discards the store. -/
def outputStore (u chan : Nat) (v : S48) (s : State) : State :=
  match (liveHdr (pagesOf s u)).outs[chan]? with
  | none => orSticky u stkAddr s
  | some none => s
  | some (some e) => { s with outFlight := s.outFlight ++ [⟨u, (unitOf s u).frame, chan, e, v⟩] }

/-- The output write of a move, if it makes one. -/
def moveOut (u : Nat) (o : Option (Nat × S48)) (s : State) : State :=
  match o with
  | some (c, v) => outputStore u c v s
  | none => s

/-- The stall addresses of the items that a format A word accesses (R75). -/
def accessItems (st : Stall) (op : BitVec 6) (f : ArithF) (m : MoveF) : List (Nat × Nat) :=
  let k := m.mv.toNat
  if op.toNat = 0x19 then
    let a := (pReg st f.fs2.toNat).toNat + 8 * lutIndex f.imm5.toNat (dReg st f.fs1.toNat).toInt
    [(a % 2 ^ 20, 8), ((a + 8) % 2 ^ 20, 8)]
  else if k = 0 ∨ k = 15 then []
  else
    let size := moveSize k
    let ad := formAddr st m.args
    if k = 13 ∨ k = 14 then [(ad.addr, size), ((pairAddr st m.args (ad.addr - ad.addr % size) size).1, size)] else [(ad.addr, size)]

/-- The banks of an access whose token a tap has given to the stall, but which its old owner still holds because it runs late (R181). DEDUCED: log entry 89. -/
def lateBanks (s : State) (u : Nat) (items : List (Nat × Nat)) : List Nat :=
  let bs := (items.filterMap (fun x => let al := x.1 - x.1 % x.2
    if 0x80000 ≤ al ∧ ¬ ownsBank s u (bankOf u al) then some (bankOf u al) else none)).eraseDups
  bs.filter (fun b => s.stalls.any (fun x => x.2.tokenMoves.any (fun m => decide (m.1 = b ∧ m.2.1 = u % 8))))

/-- Count an access of the new owner to a bank whose token has not moved yet (R181, Table 7.19). DEDUCED: log entry 89. -/
def countLate (items : List (Nat × Nat)) (u : Nat) (s : State) : State :=
  forEach (lateBanks s u items) (fun b s => setFld Fld.TAP_TOKEN_LATE_BANK 0 b (countFld Fld.TAP_TOKEN_LATE_COUNT 0 s)) s

/-- Issue a format A word (R94–R101): both parts read the state as it stands, then all effects are put in flight. DESIGN CHOICE: log entry 4. -/
def issueA (u : Nat) (op : BitVec 6) (f : ArithF) (m : MoveF) (s : State) : State :=
  if !canIssue s u then s
  else
    let s := landDue u s
    if !wordALegal op f m then issueIllegal u s
    else
      let st := stallOf s u
      let r := aluOp s u st op f
      let q := moveOp s u st m
      let s := setStall u (enqueue st (r.writes ++ q.writes)) s
      let s := orSticky u (r.sticky ||| q.sticky) s
      let s := eccRead (r.words ++ q.words) s
      finishIssue u (moveOut u q.out (if r.fault || q.fault then countLate (accessItems st op f m) u (stallFault u s) else s))

/-- The word width that format C requires of IMM for the destination (R107). -/
def immFits (n : Nat) (imm : S48) : Bool :=
  let w := classWidth (classOf n)
  decide (signOf w imm.toNat = imm.toInt)

/-- Whether a format C word is legal (R92, R107). -/
def wordCLegal (op : BitVec 6) (reg : BitVec 8) (imm : S48) : Bool :=
  let cl := classOf reg.toNat
  match op.toNat with
  | 1 | 2 => decide (cl = .d ∨ cl = .c ∨ cl = .p ∨ cl = .m ∨ cl = .l) && immFits reg.toNat imm
  | 3 | 4 | 5 | 6 => decide (cl = .d)
  | _ => false

/-- LDI (R107). -/
def immLdi (st : Stall) (n : Nat) (imm : S48) : OpRes :=
  opWrites ((regWb st n imm.toInt).toList.map (fun w => (1, w))) 0

/-- ADDI (R107): P, M and L wrap, D and C saturate. -/
def immAddi (st : Stall) (n : Nat) (imm : S48) : OpRes :=
  let x := (regSource st n).getD 0 + imm.toInt
  let cl := classOf n
  if cl = .d ∨ cl = .c then
    let r := satInt (classWidth cl) x
    opWrites ((regWb st n r.1).toList.map (fun w => (1, w)) ++ flagsSat 1 r.2) (if r.2 then stkSat else 0)
  else opWrites ((regWb st n x).toList.map (fun w => (1, w))) 0

/-- A logical operation of format C on a D register. -/
def immLogic (st : Stall) (n : Nat) (v : S48) : OpRes := opWrites [(1, .d (physD st.rb n) v)] 0

/-- The operation of a format C word (Table 4.8). -/
def immOp (st : Stall) (op : BitVec 6) (reg : BitVec 8) (imm : S48) : OpRes :=
  let n := reg.toNat
  match op.toNat with
  | 1 => immLdi st n imm
  | 2 => immAddi st n imm
  | 3 => immLogic st n (dReg st n &&& imm)
  | 4 => immLogic st n (dReg st n ||| imm)
  | 5 => immLogic st n (dReg st n ^^^ imm)
  | 6 => opWrites (flagsAlways 1 false ((dReg st n).toInt - imm.toInt)) 0
  | _ => opNone

/-- Issue a format C word (R107). DESIGN CHOICE: log entry 4. -/
def issueC (u : Nat) (op : BitVec 6) (reg : BitVec 8) (imm : S48) (s : State) : State :=
  if !canIssue s u then s
  else
    let s := landDue u s
    if !wordCLegal op reg imm then issueIllegal u s
    else
      let st := stallOf s u
      let r := immOp st op reg imm
      finishIssue u (orSticky u r.sticky (setStall u (enqueue st r.writes) s))

/-! ### Exchange -/

/-- Let the fills at the head of the wait enter the entries that are free, in order (R41, R82). -/
def pumpFills : Nat → ExchSlot → ExchSlot
  | 0, q => q
  | n + 1, q =>
    match q.waiters with
    | .fill x t :: ws =>
      if q.entries.length < 8 then pumpFills n { q with entries := q.entries ++ [⟨x, true, t, true⟩], waiters := ws } else q
    | _ => q

/-- A fill that the frame guard injects for an unmade SEND (R41, R42). DEDUCED: log entry 102. -/
def injectFill (u slot : Nat) (zero : Bool) (tag : BitVec 5) (s : State) : State :=
  let st := stallOf s u
  let q := slotOf st slot
  let v : S48 := if zero ∨ 0 < q.run then 0 else q.last
  let q := { q with run := q.run + 1, waiters := q.waiters ++ [.fill v tag] }
  setStall u (setSlot slot (pumpFills q.waiters.length q) st) s

/-- Whether a 5-bit tag names a frame that the unit has skipped (R43). -/
def tagSkipped (r : UnitRec) (tag : BitVec 5) : Bool := r.skips.any (fun k => decide (k.1 % 32 = tag.toNat))

/-- Whether a waiting fill of a slot is for one of the frames `fs`. -/
def fillFor (fs : List Nat) : SlotWaiter → Bool
  | .fill _ t => fs.any (fun f => decide (f % 32 = t.toNat))
  | .sender _ => false

/-- Remove the arrived entries of the frames `fs`, and the fills for them that wait for an entry, from every slot of stall `u`, counting each SKIP (R43). -/
def dropSkippedEntries (u : Nat) (fs : List Nat) (s : State) : State :=
  let named (e : ExchEntry) : Bool := e.here && fs.any (fun f => decide (f % 32 = e.tag.toNat))
  forEach (List.range 16) (fun i s =>
    let st := stallOf s u
    let q := slotOf st i
    let gone := (q.entries.filter named).length + (q.waiters.filter (fillFor fs)).length
    let q := { q with entries := q.entries.filter (fun e => !named e), waiters := q.waiters.filter (fun w => !fillFor fs w) }
    let q := pumpFills q.waiters.length q
    ledgerAdd (liveHdr (pagesOf s u)).exchStream gone 0 (some (causeSkip, gone)) (setStall u (setSlot i q st) s)) s

/-- Clear the flags of stall `u` whose post was for one of the frames `fs` (R43). -/
def dropSkippedFlags (u : Nat) (fs : List Nat) (s : State) : State :=
  forEach (List.range 16) (fun i s =>
    let st := stallOf s u
    let e := efOf st i
    if e.set ∧ fs.any (fun f => decide (f % 32 = e.tag.toNat)) then setStall u (setEf i flagClear st) s else s) s

/-! ### Tokens -/

/-- Give the token of a bank to an owner; GUEST reads 0 under the drover port and the groom (R205, R218). -/
def moveToken (bank owner : Nat) (guest : Bool) (s : State) : State :=
  setFld Fld.BANK_OWN_GUEST bank (if owner < 8 then bnat guest else 0) (setFld Fld.BANK_OWN_OWNER bank owner s)

/-! ### Start and end of frame work -/

/-- Swap the pages of a stall whose swap is due and complete the writes held against the old page; PSEL takes PSEL_INIT on a new
page, and is inverted if a tap marked it (R59, R152). -/
def takeSwap (u : Nat) (s : State) : State :=
  let p := pagesOf s u
  let p1 := if p.swapDue then { p with live := !p.live, swapDue := false, since := s.frame } else p
  let p2 := if p.swapDue then { p1 with psel := (liveHdr p1).pselInit, pselDue := false }
    else if p1.pselDue then { p1 with psel := !p1.psel, pselDue := false } else p1
  let w := if p.swapDue then p.held else []
  let p3 := if p.swapDue then { p2 with held := [] } else p2
  setPages u p3 { s with progMem := w.foldl (fun m h =>
    smapSet (fun _ => 0) ((2 * u + bnat h.page) * 8192 + h.word) h.val m) s.progMem }

/-- The token moves of a tap that waited for this stall's next start (R181). -/
def takeTokens (u : Nat) (s : State) : State :=
  let st := stallOf s u
  forEach st.tokenMoves (fun m s => moveToken m.1 m.2.1 m.2.2 s) (setStall u { st with tokenMoves := [] } s)

/-- The check of the window fields at a release (R151): fields that are neither legal nor PA_SIZE 0 set ILLEGAL and raise STALL_FAULT
with the entry address. -/
def windowCheck (u : Nat) (s : State) : State :=
  let h := liveHdr (pagesOf s u)
  if h.paSize = 0 ∨ windowOk h then s else stallFault u (orSticky u stkIllegal s)

/-- The next stall that a standby acquires after `pair.done` of them are done: ACQ_PROGRESS in 1/256 (R370). -/
def acquireNext (s : State) : State :=
  let n := (areaStalls s).length
  let d := s.pair.done + 1
  setFld Fld.SHADOW_STATUS_ACQ_PROGRESS 0 (min 255 (256 * d / max 1 n))
    { s with pair := { s.pair with done := d, copied := decide (n ≤ d), regs := [], cut := none, hold := none, got := 0 } }

/-- A cut of frame `b` − 1 that has landed: the standby installs the stall's registers before its first issue of frame `b` and goes on to the next stall
(R370). -/
def installCut (u b : Nat) (s : State) : State :=
  if s.pair.cut = some (u, b - 1) ∧ 0 < b then
    let st := s.pair.regs.foldl (fun st r => if r.1 = u then (match regWb st r.2.1 (signOf 96 r.2.2) with
      | some w => applyWb w st
      | none => st) else st) (stallOf s u)
    acquireNext (setStall u st s)
  else s

/-- Start frame `b` of a stall (R58, R59, R181): PC at the entry, CALL stack empty, no REPEAT. A stall without a program counts as
ended at once (R26). -/
def startStall (u b t : Nat) (s : State) : State :=
  let s := installCut u b (takeTokens u (takeSwap u (drain u s)))
  let h := liveHdr (pagesOf s u)
  let r := unitOf s u
  if h.hasProgram then
    let st := stallOf s u
    windowCheck u (setUnit u { r with st := .running, frame := b }
      (setStall u { st with pc := h.entry, calls := [], loop := none, delay := none, blocked := none, frameIssues := 0,
                            sendsMade := [], signalsMade := [] } s))
  else setUnit u { r with st := .ended, frame := b, ends := (⟨b, t, false⟩ :: r.ends).take 8 } s

/-- Record the end of a unit's frame work (R26, R34). -/
def recordEnd (u t : Nat) (byAbort : Bool) (s : State) : State :=
  let r := unitOf s u
  setUnit u { r with st := .ended, ends := (⟨r.frame, t, byAbort⟩ :: r.ends).take 8 } s

/-- The frames that a unit ending frame `b` while the index is `f` skips (R43). -/
def skippedFrames (b f : Nat) : List Nat := (List.range (f - b - 1)).map (fun i => b + 1 + i)

/-- The skips that follow a stall's end of frame `b` at a time in frame `f`: entries and posts for them are discarded (R43). -/
def skipTo (u b f : Nat) (byAbort : Bool) (s : State) : State :=
  let fs := skippedFrames b f
  let r := unitOf s u
  dropSkippedFlags u fs (dropSkippedEntries u fs
    (setUnit u { r with skips := r.skips ++ fs.map (fun k => (k, byAbort)) } s))

/-- What follows the end of a stall's frame work: an on-time stall waits for its release; a late one starts the present frame at
once, skipping the frames between (R40, R43). -/
def stallEnded (u t : Nat) (byAbort : Bool) (s : State) : State :=
  let b := (unitOf s u).frame
  let s := recordEnd u t byAbort s
  if b < s.frame ∧ arrayRuns s then startStall u s.frame t (skipTo u b s.frame byAbort s) else s

/-- The check of the issue count against W at SYNC (R32). -/
def certCheck (u : Nat) (s : State) : State :=
  let st := stallOf s u
  if (liveHdr (pagesOf s u)).w < st.frameIssues then
    raise 4 u st.frameIssues (setFld Fld.FG_BREACH_COUNT_UNIT 0 u (countFld Fld.FG_BREACH_COUNT_COUNT 0
      (setBit Fld.FG_STATUS_BREACH_STICKY 0 (orSticky u stkBreach s))))
  else s

end Sys2Proof.Machine
end

