-- ==== Sys2Proof/Machine/Ramps.lean ====
section
/-! DEFINITION. Parameter ramps (R155–R159): the fraction, the values used, and the advance by one sample. -/

namespace Sys2Proof.Machine

/-! ### The graph and the meters of a node -/

/-- The node, segment and edge of an ID in a graph. -/
def nodeOf (g : Graph) (n : Nat) : Option GNode := g.nodes.find? (fun x => decide (x.id = n))
def segOf (g : Graph) (n : Nat) : Option GSeg := if n = 0 then some ⟨0, 1, 1, 0⟩ else g.segs.find? (fun x => decide (x.id = n))
def edgeOf (g : Graph) (n : Nat) : Option GEdge := g.edges.find? (fun x => decide (x.id = n))

/-- The owner of a node's parameter values: the node, or the shared set of its kernel (R147). -/
def paramOwner (n : GNode) : Nat := if n.paramSet = 0 then n.id else 65536 + n.kernel * 4096 + n.paramSet

/-- The meters of a node. -/
def meterOf (s : State) (id : Nat) : MeterRec := smapGet (fun _ => meterNone) s.meters id
def setMeter (id : Nat) (m : MeterRec) (s : State) : State := { s with meters := smapSet (fun _ => meterNone) id m s.meters }

/-- Ballistics of a channel that has had no period: nothing above −240 dBFS. -/
def balNone : MeterBal := ⟨-24001000000, 0, 0, 0, false⟩
/-- Extremes of a channel since a read with nothing after it. -/
def extNone : MeterExt := ⟨0, 0, false, false⟩

/-! ### Ramps -/

/-- The gain coefficient of a level of `l` thousandths of a dB: round(10^(l/20000) · 2^28) (R149), as the greatest g with
(2g − 1)^20000 ≤ (2^29)^20000 · 10^l. -/
def levelGain (l : Int) : Nat :=
  let fits (g : Nat) : Bool :=
    if 0 ≤ l then decide ((2 * g - 1) ^ 20000 ≤ (2 ^ 29) ^ 20000 * 10 ^ l.toNat)
    else decide ((2 * g - 1) ^ 20000 * 10 ^ (-l).toNat ≤ (2 ^ 29) ^ 20000)
  (List.range 32).foldl (fun g i => let b := g + 2 ^ (31 - i); if fits b then b else g) 0

/-- The fraction t that a ramp has at its present sample (Table 6.3). -/
def rampFrac (r : Ramp) : Nat × Nat :=
  match r.type with
  | 0 => (1, 1)
  | 2 => (r.t, 2 ^ 28)
  | _ => (min (r.j + 1) r.n, r.n)

/-- The point of a ramp at the last sample processed, in the units of its start and target, before the rounding of R156: its start before the first. -/
def rampPoint (r : Ramp) : List Int :=
  (r.start.zip r.target).map (fun p => p.1 + roundDiv ((r.frac.1 : Int) * (p.2 - p.1)) r.frac.2)

/-- The same point as an exact quotient (R160). -/
def rampExact (r : Ramp) : List (Int × Nat) :=
  (r.exact.zip r.target).map (fun p => (p.1.1 * r.frac.2 + r.frac.1 * (p.2 * p.1.2 - p.1.1), p.1.2 * r.frac.2))

/-- Whether the present sample of a ramp is its last (R156). -/
def rampLast (r : Ramp) : Bool := decide ((rampFrac r).1 = (rampFrac r).2)

/-- The coefficient values used at the present sample: round(c_s + t · (c_target − c_s)), ties to even, from the exact product; a LOG ramp
forms its gain from the dB value; at t = 1 every coefficient is its target (R156). -/
def rampValue (r : Ramp) : List Int :=
  let f := rampFrac r
  if rampLast r then r.goal
  else (r.start.zip r.target).map (fun p =>
    if r.type = 3 then logGain (p.1 + roundDiv ((f.1 : Int) * (p.2 - p.1)) f.2)
    else roundDiv (p.1 * f.2 + (f.1 : Int) * (p.2 - p.1)) (f.2 * 2 ^ 12))

/-- The fraction of an EXP ramp one sample on: RAMP in exponential mode with target 1.0 (R110, R156). -/
def expNext (a t : Nat) : Nat :=
  let d := (roundDiv (((2 ^ 28 - t) * a : Nat) : Int) (2 ^ 28)).toNat
  if t = 2 ^ 28 then t else if d = 0 then t + 1 else t + d

/-- A ramp processes one sample; none when the sample completes it. -/
def rampSample (r : Ramp) : Option Ramp :=
  if rampLast r then none else some { r with j := r.j + 1, t := expNext r.n r.t, frac := rampFrac r, used := rampValue r }

/-- A ramp processes `k` samples. -/
def rampSamples : Nat → Ramp → Option Ramp
  | 0, r => some r
  | k + 1, r => (rampSample r).bind (rampSamples k)

/-- Whether frame `b` is one in which a segment of a divisor and a phase runs (R49). -/
def segRuns (div phase b : Nat) : Bool := decide (b % div = phase)

/-- The ramps of a unit advance by the samples of frame `b` that it has processed (R159): one per frame, U in a segment of multiplier U, in a divided segment one
per phase frame; skipped and aborted frames do not come here. -/
def rampAdvance (u b : Nat) (s : State) : State :=
  { s with ramps := s.ramps.filterMap (fun r =>
      if r.unit = u ∧ r.from_ ≤ b ∧ segRuns r.div r.phase b then rampSamples r.mul r else some r) }

/-! ### Route crossfades (R185, R186) -/

/-- The gains (old, new) of a crossfade of a shape at t = num / den (Table 7.5), in C32: exact for EQUAL_GAIN, for EQUAL_POWER within 3 · 10^−7 of the exact values and
exact at t = 1. DESIGN CHOICE: log entry 113. -/
def fadeGains (shape num den : Nat) : Int × Int :=
  if num = den then (0, 2 ^ 28)
  else if shape = 0 then (roundDiv (2 ^ 28 * (den - num : Nat)) den, roundDiv (2 ^ 28 * num) den)
  else
    let x := fixPi * num / (2 * den)
    let near (e : Nat) (v : Int) : Int := let c : Int := fixC32 e fixOne; held (c - 80) (c + 80) v
    (near (fixCos x) (Config.equalPower num den false), near (fixSin x) (Config.equalPower num den true))

/-- A crossfade processes `k` samples: those of the pre-roll with the old route alone, then one step of t each. -/
def fadeSamples (shape k : Nat) (x : Fade) : Fade :=
  let p := min k x.pre
  let j := min x.n (x.j + (k - p))
  let g := fadeGains shape j x.n
  { x with pre := x.pre - p, j := j, gOld := if j = 0 then 2 ^ 28 else g.1, gNew := if j = 0 then 0 else g.2 }

/-- Whether a crossfade is complete. -/
def fadeDone (x : Fade) : Bool := decide (x.n ≤ x.j)

/-- The crossfades of a brew that has tapped advance as the stall that runs them processes frame `b`. -/
def fadeAdvance (u b : Nat) (s : State) : State :=
  { s with brews := s.brews.map (fun p => if p.2.st = .settling then
      (p.1, { p.2 with fades := p.2.fades.map (fun x => if x.unit = u ∧ x.from_ ≤ b ∧ segRuns x.div x.phase b then fadeSamples p.2.shape x.mul x else x) }) else p) }

end Sys2Proof.Machine
end

