-- ==== Sys2Proof/Machine/PairSync.lean ====
section
/-! DEFINITION. What a shadow pair captures at a stall's SYNC (R370, R371): the designated words of the sweep, and at a main the registers of a cut. -/

namespace Sys2Proof.Machine

/-- The designated indices that frame `b` sweeps, in order (R371). -/
def sweepWindow (s : State) (b : Nat) : List Nat :=
  let n := s.liveSweep.length
  let cap := fld s Fld.SHADOW_MIRROR_STATE_CAP
  if n = 0 then [] else (List.range (min cap n)).map (fun i => (b * cap + i) % n)

/-- The stall at whose SYNC a designated word is captured. -/
def sweepUnit : SweepItem → Nat
  | .word u _ _ | .ramp u _ _ | .fade u _ | .held u _ _ | .rms u _ _ => u

/-- The value of a designated word (R371): bytes of memory, the sample position of a ramp or a crossfade, a ballistic value of a meter. -/
def sweepValue (s : State) : SweepItem → Nat
  | .word _ a n => leNat (memBytes s a n)
  | .ramp u node i => match nodeOf s.live node with
    | some n => ((s.ramps.find? (fun r => decide (r.owner = paramOwner n ∧ r.index = i ∧ r.unit = u))).map Ramp.j).getD 0
    | none => 0
  | .fade u node => ((s.brews.flatMap (fun p => p.2.fades)).find? (fun x => decide (x.unit = u ∧ x.node = node))).elim 0 Fade.j
  | .held _ node c => wrapInt 64 (((meterOf s node).chans.getD c balNone).hold)
  | .rms _ node c => ((meterOf s node).chans.getD c balNone).meanSq

/-- Both engines of a pair capture the words that frame `b` sweeps at the stall's SYNC of `b`. DEDUCED: log entry 86. -/
def sweepCapture (u b : Nat) (s : State) : State :=
  if fld s Fld.SHADOW_STATUS_STATE = 0 then s
  else
    let new := (sweepWindow s b).filterMap (fun i => (s.liveSweep[i]?).bind (fun x => if sweepUnit x = u then some (b, i, sweepValue s x) else none))
    { s with pair := { s.pair with captured := new ++ s.pair.captured.filter (fun c => decide (b < c.1 + 8)) } }

/-- The value of register `n` of Table 4.1. -/
def regNumber (st : Stall) (n : Nat) : Int := if 0x40 ≤ n ∧ n < 0x48 then (aReg st (n - 0x40)).toInt else (regSource st n).getD 0

/-- The state registers of a stall: numbers and 96-bit values. -/
def stateRegs (s : State) (u : Nat) : List (Nat × Nat) :=
  ((s.liveRegs.find? (fun x => decide (x.1 = u))).map Prod.snd).getD [] |>.map (fun n => (n, wrapInt 96 (regNumber (stallOf s u) n)))

/-- A main whose copy of the stall's areas has ended captures its registers at the SYNC of frame `b` (R370). -/
def cutCapture (u b : Nat) (s : State) : State :=
  match s.pair.copy with
  | none => s
  | some c =>
    if c.areas = [] ∧ c.cut.isNone ∧ (areaStalls s)[c.stall]? = some u then
      { s with pair := { s.pair with copy := some { c with cut := some (b, stateRegs s u) } } }
    else s

/-- What a stall's SYNC of frame `b` gives the pair. -/
def pairSync (u b : Nat) (s : State) : State := cutCapture u b (sweepCapture u b s)

end Sys2Proof.Machine
end

