-- ==== Sys2Proof/Machine/StallControl.lean ====
section
/-! DEFINITION. Format B (R70–R72, R82–R86, R102–R106): control, loops, events, the exchange and SYNC; and what happens to a
stall between issues: arrivals, completions, aborts, held writes (R48, R59, R83, R85). -/

namespace Sys2Proof.Machine

/-- Whether the stall is at a delay slot, where a control word is illegal (R70). -/
def inDelay (st : Stall) : Bool := st.delay.isSome
/-- Whether the stall is inside a REPEAT body (R71). -/
def inBody (st : Stall) : Bool := st.loop.isSome

/-- Issue a format B word: illegal in its position it is a no-operation, else `body` runs on the landed state. -/
def issueB (u : Nat) (legal : Stall → Bool) (body : State → State) (s : State) : State :=
  if !canIssue s u then s
  else
    let s := landDue u s
    if legal (stallOf s u) then body s else issueIllegal u s

/-- Whether BR, CALL, RET and SYNC may stand here (R70, R71). -/
def ctlPlace (st : Stall) : Bool := !inDelay st && !inBody st
/-- Whether WAIT, RECV and SEND may stand here. -/
def blockPlace (st : Stall) : Bool := !inDelay st

/-- Finish a control word with its two delay slots, control going to `t` after them (R70). -/
def finishControl (u : Nat) (t : Option PcAddr) (s : State) : State :=
  let st := stallOf s u
  let st := countIssue s u st
  setStall u { st with pc := st.pc + 1, delay := some ⟨2, t⟩ } s

/-- BR (R70). -/
def ctlBr (u : Nat) (cond : BitVec 4) (target : PcAddr) : State → State :=
  issueB u (fun st => ctlPlace st && (condHolds st cond.toNat).isSome) (fun s =>
    finishControl u (if condHolds (stallOf s u) cond.toNat = some true then some target else none) s)

/-- CALL (R72): pushes the address after its second delay slot; on a full stack it is a no-operation and sets STACK_ERR. -/
def ctlCall (u : Nat) (cond : BitVec 4) (target : PcAddr) : State → State :=
  issueB u (fun st => ctlPlace st && (condHolds st cond.toNat).isSome) (fun s =>
    let st := stallOf s u
    if condHolds st cond.toNat = some true then
      if st.calls.length < 4 then
        finishControl u (some target) (setStall u { st with calls := (st.pc + 3) :: st.calls } s)
      else finishControl u none (orSticky u stkStack s)
    else finishControl u none s)

/-- RET (R72). -/
def ctlRet (u : Nat) (cond : BitVec 4) : State → State :=
  issueB u (fun st => ctlPlace st && (condHolds st cond.toNat).isSome) (fun s =>
    let st := stallOf s u
    if condHolds st cond.toNat = some true then
      match st.calls with
      | a :: rest => finishControl u (some a) (setStall u { st with calls := rest } s)
      | [] => finishControl u none (orSticky u stkStack s)
    else finishControl u none s)

/-- Whether the fields of a REPEAT are legal (R102, R104). -/
def repeatLegal (rsrc : Bool) (len : BitVec 9) (count : BitVec 17) : Bool :=
  decide (1 ≤ len.toNat ∧ len.toNat ≤ 256) &&
    (if rsrc then decide (count.toNat < 64) else decide (1 ≤ count.toNat ∧ count.toNat ≤ 65536))

/-- The trip count of a REPEAT (R71). -/
def repeatCount (st : Stall) (rsrc : Bool) (count : BitVec 17) : Nat :=
  if rsrc then min ((dReg st (count.toNat % 64)).toNat % 2 ^ 17) 65536 else count.toNat

/-- REPEAT (R71): a count of 0 skips the body. -/
def ctlRepeat (u : Nat) (rot rsrc : Bool) (len : BitVec 9) (count : BitVec 17) : State → State :=
  issueB u (fun st => ctlPlace st && repeatLegal rsrc len count) (fun s =>
    let st := stallOf s u
    let c := repeatCount st rsrc count
    let st := countIssue s u st
    if c = 0 then setStall u { st with pc := st.pc + 1 + BitVec.ofNat 13 len.toNat } s
    else setStall u { st with pc := st.pc + 1, loop := some ⟨st.pc + 1, len.toNat, c, rot, false⟩ } s)

/-- Rotate the window by one (R74). -/
def rotate (st : Stall) : Stall := { st with rb := st.rb + 31 }

/-- A REPEAT iteration ends: the window rotates if ROT is set; the next iteration starts, or the loop is left (R71, R74). A control event is taken before the next
iteration starts (R87). DEDUCED: log entry 13. -/
def iterationEnd (u : Nat) (s : State) : State :=
  let st := stallOf s u
  match st.loop with
  | some l =>
    if st.halted || eventDue s u then s
    else if l.atEnd then
      let st := if l.rot then rotate st else st
      if l.count ≤ 1 then setStall u { st with loop := none } s
      else setStall u { st with pc := l.start, loop := some { l with count := l.count - 1, atEnd := false } } s
    else s
  | none => s

/-- ROT (R74); illegal in a body (R71). -/
def ctlRot (u : Nat) : State → State :=
  issueB u (fun st => !inBody st) (fun s =>
    finishIssue u (setStall u (rotate (stallOf s u)) s))

/-- Block at the present word: it costs its one issue and the stall waits without issuing (R108). -/
def blockAt (u : Nat) (b : Blocked) (k : UnitState) (s : State) : State :=
  let st := stallOf s u
  let r := unitOf s u
  setUnit u { r with st := k } (setStall u { countIssue s u st with blocked := some b } s)

/-- Leave a block: the word is done and control moves on; a step in progress ends with it (Table 3.12). -/
def unblock (u : Nat) (s : State) : State :=
  let st := stallOf s u
  let r := unitOf s u
  setUnit u { r with st := .running } (setStall u (nextPc { st with blocked := none, haltPending := st.haltPending || st.stepping, stepping := false }) s)

/-- Consume a set flag: clear it, with its SKIP bit copied into SR.EVSKIP (R85). -/
def consumeFlag (u i : Nat) (s : State) : State :=
  let st := stallOf s u
  let e := efOf st i
  setStall u { setEf i flagClear st with evskip := e.skip } s

/-- WAIT (R85). -/
def ctlWait (u : Nat) (flag : BitVec 4) : State → State :=
  issueB u blockPlace (fun s =>
    if (efOf (stallOf s u) flag.toNat).set then finishIssue u (consumeFlag u flag.toNat s)
    else blockAt u (.wait flag.toNat) .waitEvent s)

/-- A blocked WAIT whose flag is set completes (R85). -/
def waitComplete (u : Nat) (s : State) : State :=
  let st := stallOf s u
  match st.blocked with
  | some (.wait f) => if (efOf st f).set ∧ ¬ st.halted then unblock u (consumeFlag u f s) else s
  | _ => s

/-- The frame tag of a post or sample: the sender's frame plus the delay its page schedules (R43). -/
def tagFor (s : State) (u : Nat) (plan : List PostPlan) (target idx : Nat) : BitVec 5 :=
  let d := match plan.find? (fun p => decide (p.unit = target ∧ p.idx = idx)) with
    | some p => p.delay
    | none => 0
  BitVec.ofNat 5 ((unitOf s u).frame + d)

/-- Send a post on its way (R85). -/
def sendPost (p : Post) (s : State) : State := { s with posts := s.posts ++ [p] }

/-- SIGNAL (R85, R105): never blocks; after boundary b + 2 it is discarded and counted (R41). -/
def ctlSignal (u : Nat) (unit : BitVec 11) (flag : BitVec 4) : State → State :=
  issueB u (fun _ => decide (unit.toNat < 1152)) (fun s =>
    if stale s u then finishIssue u (countDiscard s)
    else
      let st := stallOf s u
      let tag := tagFor s u (liveHdr (pagesOf s u)).signals unit.toNat flag.toNat
      finishIssue u (sendPost ⟨unit.toNat, flag.toNat, false, tag⟩
        (setStall u { st with signalsMade := (unit.toNat, flag.toNat) :: st.signalsMade } s)))

/-- Put a real sample into a slot of stall `v`; it is in transit until it arrives (R82, R83). -/
def takeEntry (v slot : Nat) (x : S48) (tag : BitVec 5) (s : State) : State :=
  let st := stallOf s v
  let q := slotOf st slot
  setStall v (setSlot slot { q with entries := q.entries ++ [⟨x, false, tag, false⟩], last := x, run := 0 } st) s

/-- Note that the stall has made a SEND of its frame. -/
def noteSend (u v slot : Nat) (s : State) : State :=
  let st := stallOf s u
  setStall u { st with sendsMade := (v, slot) :: st.sendsMade } s

/-- SEND (R82): takes a free entry or blocks; after boundary b + 2 it is discarded and counted (R41). -/
def ctlSend (u : Nat) (unit : BitVec 11) (slot : BitVec 4) (dsrc : BitVec 6) : State → State :=
  issueB u (fun st => blockPlace st && decide (unit.toNat < 1024)) (fun s =>
    let x := dReg (stallOf s u) dsrc.toNat
    let v := unit.toNat
    if stale s u then finishIssue u (countDiscard s)
    else
      let q := slotOf (stallOf s v) slot.toNat
      let tag := tagFor s u (liveHdr (pagesOf s u)).sends v slot.toNat
      if q.entries.length < 8 ∧ q.waiters = [] then
        finishIssue u (noteSend u v slot.toNat (takeEntry v slot.toNat x tag s))
      else
        let st := stallOf s v
        blockAt u (.send v slot.toNat x) .waitSend
          (setStall v (setSlot slot.toNat { q with waiters := q.waiters ++ [.sender u] } st) s))

/-- Take a waiting sender out of a slot's wait. -/
def dropWaiter (v slot u : Nat) (s : State) : State :=
  let st := stallOf s v
  let q := slotOf st slot
  let q := { q with waiters := q.waiters.filter (fun w => decide (w ≠ .sender u)) }
  setStall v (setSlot slot (pumpFills q.waiters.length q) st) s

/-- A blocked SEND at the head of its slot's wait takes a freed entry and the sender continues (R82). One whose frame has been
settled is discarded and counted (R41). DEDUCED: log entry 15. -/
def sendComplete (u : Nat) (s : State) : State :=
  let st := stallOf s u
  match st.blocked with
  | some (.send v slot x) =>
    let q := slotOf (stallOf s v) slot
    if st.halted then s
    else if stale s u then unblock u (countDiscard (dropWaiter v slot u s))
    else if q.entries.length < 8 ∧ q.waiters.head? = some (.sender u) then
      let tag := tagFor s u (liveHdr (pagesOf s u)).sends v slot
      let s := takeEntry v slot x tag s
      unblock u (noteSend u v slot (dropWaiter v slot u s))
    else s
  | _ => s

/-- The first entry of a slot still in transit arrives (R83); one whose tag names a frame that the receiver skipped is removed and
counted (R43). -/
def exchangeArrival (v slot : Nat) (s : State) : State :=
  let st := stallOf s v
  let q := slotOf st slot
  match q.entries.findIdx? (fun e => !e.here) with
  | none => s
  | some i =>
    match q.entries[i]? with
    | none => s
    | some e =>
      if tagSkipped (unitOf s v) e.tag then
        let q := { q with entries := q.entries.eraseIdx i }
        ledgerAdd (liveHdr (pagesOf s v)).exchStream 1 0 (some (causeSkip, 1))
          (setStall v (setSlot slot (pumpFills q.waiters.length q) st) s)
      else setStall v (setSlot slot { q with entries := q.entries.set i { e with here := true } } st) s

/-- Pop the head entry of the stall's own slot into a D register (R82): D and FILLRX are seen 2 issues after the RECV. The
RECV's issue has been counted, or is about to be: `back` is 1 or 0. -/
def popEntry (u slot : Nat) (ddst : BitVec 6) (e : ExchEntry) (back : Nat) (s : State) : State :=
  let st := stallOf s u
  let q := slotOf st slot
  let q := { q with entries := q.entries.drop 1 }
  let due := st.issueNo - back + 2
  let st := { setSlot slot (pumpFills q.waiters.length q) st with
    inflight := st.inflight ++ [⟨due, .d (physD st.rb ddst.toNat) e.sample⟩, ⟨due, .fillrx e.fill⟩] }
  let s := setStall u st s
  let s := if e.fill then orSticky u stkFillRx s else s
  ledgerAdd (liveHdr (pagesOf s u)).exchStream 1 (if e.fill then 0 else 1)
    (if e.fill then some (causeExchFill, 1) else none) s

/-- The entry a RECV can pop: the head of the slot, once it has arrived. -/
def recvHead (st : Stall) (slot : Nat) : Option ExchEntry :=
  match (slotOf st slot).entries.head? with
  | some e => if e.here then some e else none
  | none => none

/-- RECV (R82). -/
def ctlRecv (u : Nat) (slot : BitVec 4) (ddst : BitVec 6) : State → State :=
  issueB u blockPlace (fun s =>
    match recvHead (stallOf s u) slot.toNat with
    | some e => finishIssue u (popEntry u slot.toNat ddst e 0 s)
    | none => blockAt u (.recv slot.toNat ddst) .waitRecv s)

/-- A blocked RECV completes when an entry is there (R82). -/
def recvComplete (u : Nat) (s : State) : State :=
  let st := stallOf s u
  match st.blocked with
  | some (.recv slot ddst) =>
    match recvHead st slot with
    | some e => if st.halted then s else unblock u (popEntry u slot ddst e 1 s)
    | none => s
  | _ => s

/-- SYNC (R26, R32, R58): the issue counts, everything in flight completes, the count is checked against W, the frame's work ends at
raw time `t`, and the ramps of the stall's nodes have advanced by its sample (R159). At the end of the override block in SAFE the frame ends
without an issue (R437). -/
def ctlSync (u t : Nat) (s : State) : State :=
  let st := stallOf s u
  if decide ((unitOf s u).st = .running) && !st.halted && atOvrEnd s u then stallEnded u t false (pairSync u (unitOf s u).frame (certCheck u (drain u s)))
  else
    issueB u ctlPlace (fun s =>
      stallEnded u t false (pairSync u (unitOf s u).frame (fadeAdvance u (unitOf s u).frame (rampAdvance u (unitOf s u).frame (certCheck u (drain u (finishIssue u s))))))) s

/-- A word that no format defines or that is illegal where it stands executes as a no-operation (R73); a legal word is not one
of these. -/
def illegalWord (u : Nat) (legal : Bool) (s : State) : State :=
  if legal ∨ ¬ canIssue s u then s else issueIllegal u (landDue u s)

/-! ### Between issues -/

/-- Withdraw the SEND on which a stall is blocked from its slot's wait (R48). -/
def withdraw (u : Nat) (s : State) : State :=
  match (stallOf s u).blocked with
  | some (.send v slot _) => dropWaiter v slot u s
  | _ => s

/-- A pending abort is taken at an event point at raw time `t` (R48, R87). DESIGN CHOICE: log entry 117. -/
def stallAbort (u t : Nat) (s : State) : State :=
  let st := stallOf s u
  if !(st.abortPending && atEventPoint s u) then s
  else
    let pc := st.pc
    let s := drain u (withdraw u s)
    let st := stallOf s u
    let s := setStall u { st with blocked := none, loop := none, calls := [], delay := none, rb := 0, abortPending := false,
                                  pc := (liveHdr (pagesOf s u)).entry } s
    let s := countFld Fld.FG_ABORT_COUNT_COUNT 0 (setBit Fld.FG_STATUS_ABORT_STICKY 0 (raise 7 u pc.toNat s))
    takeTokens u (stallEnded u t true s)

/-- A halt, step end or breakpoint that was held off is taken at an event point (R87, R90). -/
def controlEventTaken (u : Nat) (s : State) : State :=
  let st := stallOf s u
  if st.haltPending && !st.halted && atEventPoint s u then
    setStall u { st with haltPending := false, halted := true } s
  else s

/-- A write held against an old live page completes once the stall has left the page (R59). -/
def heldPageWrite (u : Nat) (s : State) : State :=
  let p := pagesOf s u
  if p.swapDue then s
  else
    setPages u { p with held := [] }
      { s with progMem := p.held.foldl (fun m h => smapSet (fun _ => 0) ((2 * u + bnat h.page) * 8192 + h.word) h.val m)
                 s.progMem }

end Sys2Proof.Machine
end

