-- ==== Sys2Proof/Machine/Xbar.lean ====
section
/-! DEFINITION. The crossbar (R219–R226): address decoding, which masters a bank admits (R200–R202), errors and their counts, and
reads and writes of memory as a master. -/

namespace Sys2Proof.Machine

/-- Master IDs (Table 9.1). -/
def masterDrover (d : Nat) : Nat := 4 + d
def masterGroom : Nat := 20
def masterPcie : Nat := 21
def masterLink : Nat := 22
def masterPort : Nat := 23

/-- Whether a register-space address lies in a region of Table 11.22. -/
def inRegSpace (a : Nat) : Bool := decide (a < 0x70000 ∨ (0x80000 ≤ a ∧ a < 0x90000))

/-- The target that an address decodes to (Table 9.2); 15 is the default target. DEDUCED: log entry 23. -/
def xbTarget (a : Nat) : Nat :=
  if 0x28000 ≤ a ∧ a < 0x30000 then 13
  else if 0x38000 ≤ a ∧ a < 0x40000 then 14
  else if inRegSpace a then 12
  else if 0x04000000 ≤ a ∧ a < 0x08000000 then (a - 0x04000000) / 0x1000000
  else if 0x08000000 ≤ a ∧ a < 0x09000000 then (a - 0x08000000) / 0x400000
  else if 0x400000000 ≤ a ∧ a < 0x600000000 then 4 + (a - 0x400000000) / 0x40000000
  else 15

/-- The arbitration point of an address: one at each stable, one at each cellar channel, one at each other target (R220). -/
def arbPoint (a : Nat) : Nat :=
  let t := xbTarget a
  if 0x04000000 ≤ a ∧ a < 0x08000000 then (a - 0x04000000) / 0x80000
  else if 0x08000000 ≤ a ∧ a < 0x09000000 then (a - 0x08000000) / 0x20000
  else if 4 ≤ t ∧ t < 12 then 124 + t
  else 128 + t

/-- The pair register index of a master and a target. -/
def pairIdx (m t : Nat) : Nat := 16 * m + t

/-- The rate R of a target in bytes per ns (Table 9.2); the default target has none. -/
def targetRate (t : Nat) : Nat :=
  if t < 4 then 16 else if t < 12 then 32 else if t = 12 then 4 else if t = 13 then 64 else if t = 14 then 16 else 0

/-- The bank that a crossbar address names, if it lies in a scratchpad (Table 8.1). -/
def xbBank (a : Nat) : Option Nat :=
  if 0x04000000 ≤ a ∧ a < 0x08000000 then some ((a - 0x04000000) / 0x8000) else none

/-- Whether the master is one of the drover-port masters: drovers, port engine, link engines (Table 8.2). -/
def portMaster (m : Nat) : Bool := decide ((4 ≤ m ∧ m < 20) ∨ m = masterLink ∨ m = masterPort)

/-- Whether bank `k` admits master `m` (R200–R202). -/
def bankAdmits (s : State) (k m : Nat) : Bool :=
  let o := fld s Fld.BANK_OWN_OWNER k
  if o < 8 then fbit s Fld.BANK_OWN_GUEST k && portMaster m
  else if o = 8 then portMaster m
  else decide (o = 9) && decide (m = masterGroom ∨ m = masterPcie)

/-- Whether the block behind a target is isolated by a block reset (R465). -/
def targetIsolated (s : State) (t : Nat) : Bool :=
  let w := (regWord s 0x514).toNat
  if t < 4 then testBit w t else if t = 13 then testBit w 4 else if t = 14 then testBit w 5 else false

/-- Whether a target gives no response now: a cellar channel that retrains (R215). -/
def targetWaits (s : State) (t : Nat) : Bool := decide (4 ≤ t ∧ t < 12) && decide (fld s Fld.CELLAR_CH_STATUS_STATE (t - 4) = 3)

/-- Whether an access to a range of memory waits: it touches a cellar channel that retrains (R215). -/
def rangeWaits (s : State) (a n : Nat) : Bool := targetWaits s (xbTarget a) || targetWaits s (xbTarget (a + n - 1))

/-- Whether an access touches a word with an uncorrectable error. -/
def xbUe (s : State) (a n : Nat) : Bool := ueHit s (wordsOf a n)

/-- Whether a cellar channel has a path from master `m`: drovers, groom and PCIe endpoint (R209). -/
def cellarMaster (m : Nat) : Bool := decide (4 ≤ m ∧ m < 22)

/-- The response that an access of `n` bytes at `a` by master `m` gets, errors of the memory array apart. A master without a path to the cellar gets an
error of kind DECODE, which the default target does not count. DEDUCED: log entry 123. -/
def xbAccess (s : State) (m a n : Nat) : RespKind :=
  let t := xbTarget a
  if t = 15 then .decode
  else if t = 12 then (if n = 4 ∧ a % 4 = 0 then .ok else .decode)
  else if targetIsolated s t then .isolated
  else if 4 ≤ t ∧ t < 12 ∧ ¬ cellarMaster m then .decode
  else match xbBank a with
    | some k => if bankAdmits s k m then .ok else .bank
    | none => .ok

/-- Count an access that a target answered with an error: the default target's counters (R221), a bank's (R201). -/
def xbCount (k : RespKind) (m a : Nat) (s : State) : State :=
  match k with
  | .decode =>
    if xbTarget a = 15 then
      raise 0x40 a m (setBit Fld.XB_STATUS_DEF_STICKY 0 (setFld Fld.XB_DEF_ADDR_HI_ADDR_HI 0 (a / 2 ^ 32)
        (setFld Fld.XB_DEF_ADDR_LO_ADDR_LO 0 a (setFld Fld.XB_DEF_COUNT_MASTER 0 m (countFld Fld.XB_DEF_COUNT_COUNT 0 s)))))
    else s
  | .bank =>
    let b := (xbBank a).getD 0
    raise 0x30 b m (setBit Fld.MEM_STATUS_XVIOL 0 (setFld Fld.XVIOL_COUNT_BANK 0 b (countFld Fld.XVIOL_COUNT_COUNT 0 s)))
  | _ => s

/-- Record an uncorrectable error at the word `w`: a cellar channel's registers, or the scratchpad's (R208, R213). -/
def recordUe (w : Nat) (s : State) : State :=
  if 0x400000000 ≤ w then
    let c := (w - 0x400000000) / 0x40000000
    raise 0x33 w (w / 2 ^ 32) (setBit Fld.MEM_STATUS_UE_STICKY 0 (setFld Fld.CH_ERR_HI_ADDR_HI c (w / 2 ^ 32)
      (setFld Fld.CH_ERR_LO_ADDR_LO c w (countFld Fld.CH_UE_COUNT_COUNT c s))))
  else spUe w s

/-- A corrected error of cellar channel `c` counts in the present scrub pass; the one that reaches CE_THRESH raises CELLAR_CE (R214). Without a patrol
scrub there is no pass. -/
def passCount (c : Nat) (s : State) : State :=
  if ¬ fbit s Fld.MEM_CTRL_SCRUB_EN then s
  else
    let n := smapGet (fun _ => 0) s.passCe c + 1
    let s := { s with passCe := smapSet (fun _ => 0) c n s.passCe }
    if n = fld s Fld.SCRUB_CFG_CE_THRESH then raise 0x34 c n (setBit Fld.MEM_STATUS_CE_STICKY 0 s) else s

/-- Count a corrected error at the word `w`, which is written back (R208, R213, R214). -/
def recordCe (w : Nat) (s : State) : State :=
  let s := { s with ceWords := s.ceWords.erase w }
  if 0x400000000 ≤ w then
    let c := (w - 0x400000000) / 0x40000000
    passCount c (countFld Fld.CH_CE_COUNT_COUNT c s)
  else countFld Fld.SP_ECC_COUNT_CORRECTED 0 s

/-- The ECC side of a crossbar read of `n` bytes at `a`. -/
def xbEccRead (a n : Nat) (s : State) : State :=
  forEach (wordsOf a n) (fun w s =>
    let s := if s.ceWords.contains w then recordCe w s else s
    if s.ueWords.contains w then recordUe w s else s) s

/-- The response to a read: as `xbAccess`, and ECC where a word is uncorrectable. -/
def xbReadKind (s : State) (m a n : Nat) : RespKind :=
  match xbAccess s m a n with
  | .ok => if xbTarget a ≠ 12 ∧ xbUe s a n then .ecc else .ok
  | k => k

/-- The bytes of a memory read with the response kind given: zero where the target answers with an error; with an ECC error, zero in each
affected word (R213, R221). A port buffer that the port engine uses for itself reads zero (R308). -/
def targetRead (s : State) (k : RespKind) (a n : Nat) : List Byte :=
  match k with
  | .ok =>
    if xbTarget a = 14 ∧ ¬ fbit s Fld.PORT_CFG_PATH ((a - 0x38000) / 0x400) then List.replicate n 0 else memBytes s a n
  | .ecc => (List.range n).map (fun i => if s.ueWords.contains (8 * ((a + i) / 8)) then 0 else memByte s (a + i))
  | _ => List.replicate n 0

/-- The bytes of a memory read of a master. -/
def xbReadBytes (s : State) (m a n : Nat) : List Byte := targetRead s (xbReadKind s m a n) a n

/-- The effects of a memory read beside its data: counts and records. -/
def xbReadEffect (m a n : Nat) (s : State) : State :=
  match xbReadKind s m a n with
  | .ok => xbEccRead a n s
  | .ecc => xbEccRead a n s
  | k => xbCount k m a s

/-- The effect of a memory write that its target admits. -/
def targetWrite (a : Nat) (bs : List Byte) (s : State) : State :=
  if xbTarget a = 12 then s
  else if xbTarget a = 14 ∧ ¬ fbit s Fld.PORT_CFG_PATH ((a - 0x38000) / 0x400) then s
  else eccWrite a bs s

/-- A memory write of a master: done where the target admits it, else counted (R201, R221). -/
def xbWrite (m a : Nat) (bs : List Byte) (s : State) : State :=
  match xbAccess s m a bs.length with
  | .ok => targetWrite a bs s
  | k => xbCount k m a s

/-- The response to a write. -/
def xbWriteKind (s : State) (m a n : Nat) : RespKind := xbAccess s m a n

/-- The code of a response kind in DRV_RESP_COUNT (Table 9.19). -/
def respCode : RespKind → Nat
  | .ok => 0 | .decode => 1 | .bank => 2 | .ecc => 3 | .timeout => 4 | .isolated => 5

end Sys2Proof.Machine
end

