-- ==== Sys2Proof/Machine/Drover.lean ====
section
/-! DEFINITION. The drovers (R229–R244): channels and their order, the instructions MOVE, LOOP, WAIT, SIGNAL and END, end conditions,
aborts, and the arrival of posted flags at stalls and channels (R85, R86, R239). -/

namespace Sys2Proof.Machine

def droverOf (s : State) (d : Nat) : Drover := smapGet (fun _ => droverIdle) s.drovers d
def setDrover (d : Nat) (x : Drover) (s : State) : State :=
  { s with drovers := smapSet (fun _ => droverIdle) d x s.drovers }
def chanOf (s : State) (i : Nat) : ChanDesc := smapGet (fun _ => chanEmpty) s.chans i
def setChan (i : Nat) (x : ChanDesc) (s : State) : State :=
  { s with chans := smapSet (fun _ => chanEmpty) i x s.chans }

/-- Index of a channel among the 128 of the engine; its unit ID is 1,024 above (R25). -/
def chanIdx (d c : Nat) : Nat := 8 * d + c

/-- Whether a channel is a frame channel: CH_CFG.FRAME on a FRAME drover, never channel 0 (R230, R232). -/
def isFrameChan (s : State) (i : Nat) : Bool :=
  decide (i % 8 ≠ 0) && fbit s Fld.CH_CFG_FRAME i && fbit s Fld.DRV_CTRL_MODE (i / 8)

/-! ### Flags -/

/-- Set a channel's event flag, or its OVERPOST if it is set already (R86, R239). -/
def chanFlag (i : Nat) (p : Post) (s : State) : State :=
  if testBit (fld s Fld.CH_EVENTS_FLAGS i) p.flag then setBit Fld.DRV_FAULT_OVERPOST (i / 8) s
  else
    let c := chanOf s i
    let s := setChan i { c with tags := smapSet (fun _ => 0) p.flag p.tag c.tags } s
    let s := setFld Fld.CH_EVENTS_FLAGS i (fld s Fld.CH_EVENTS_FLAGS i + 2 ^ p.flag) s
    if p.skip ∧ ¬ testBit (fld s Fld.CH_EVENTS_SKIPS i) p.flag then
      setFld Fld.CH_EVENTS_SKIPS i (fld s Fld.CH_EVENTS_SKIPS i + 2 ^ p.flag) s else s

/-- Clear a channel's event flag and its SKIP bit. -/
def chanClear (i f : Nat) (s : State) : State :=
  let w := fld s Fld.CH_EVENTS_FLAGS i
  let k := fld s Fld.CH_EVENTS_SKIPS i
  setFld Fld.CH_EVENTS_SKIPS i (if testBit k f then k - 2 ^ f else k)
    (setFld Fld.CH_EVENTS_FLAGS i (if testBit w f then w - 2 ^ f else w) s)

/-- Set a stall's event flag, or its OVERPOST and STALL_FAULT if it is set already (R85, R86). -/
def stallFlag (u : Nat) (p : Post) (s : State) : State :=
  let st := stallOf s u
  if (efOf st p.flag).set then stallFault u (orSticky u stkOverpost s)
  else setStall u (setEf p.flag ⟨true, p.skip, p.tag⟩ st) s

/-- A post reaches its receiver: discarded if its tag names a frame that the receiver skipped (R43), else the flag is set. -/
def deliverPost (p : Post) (s : State) : State :=
  if tagSkipped (unitOf s p.unit) p.tag then s
  else if p.unit < 1024 then stallFlag p.unit p s
  else if p.unit < 1152 then chanFlag (p.unit - 1024) p s
  else s

/-- The first post on its way to the flag arrives (R85). -/
def postArrival (unit flag : Nat) (s : State) : State :=
  match s.posts.findIdx? (fun p => decide (p.unit = unit ∧ p.flag = flag)) with
  | none => s
  | some i =>
    match s.posts[i]? with
    | none => s
    | some p => deliverPost p { s with posts := s.posts.eraseIdx i }

/-- FLAG_POST_ARRIVAL (R85, R86). -/
def execFlagPostArrival (unit : BitVec 11) (flag : BitVec 4) (s : State) : Res := .next (postArrival unit.toNat flag.toNat s)

/-! ### Starting programs -/

/-- Start frame `b` of a frame channel: its program is pending (R231); posts for frames it skipped are discarded. -/
def startChan (i b : Nat) (s : State) : State :=
  let r := unitOf s (1024 + i)
  let c := chanOf s i
  setFld Fld.DRV_STATUS_FRAME_DONE (i / 8) 0 (setFld Fld.CH_STATUS_STATE i 1
    (setChan i { c with made := [] } (setUnit (1024 + i) { r with st := .running, frame := b } s)))

/-- Discard the flags of channel `i` posted for the frames `fs` (R43). -/
def dropChanFlags (i : Nat) (fs : List Nat) (s : State) : State :=
  forEach (bitList 16 (fld s Fld.CH_EVENTS_FLAGS i)) (fun f s =>
    let tag : BitVec 5 := smapGet (fun _ => 0) (chanOf s i).tags f
    if fs.any (fun k => decide (k % 32 = tag.toNat)) then chanClear i f s else s) s

/-- What follows the end of a frame channel's work: as for a stall (R40, R43). In SAFE the frame channels are halted (R437). -/
def chanEnded (i t : Nat) (byAbort : Bool) (s : State) : State :=
  let u := 1024 + i
  let b := (unitOf s u).frame
  let s := recordEnd u t byAbort s
  if b < s.frame ∧ arrayRuns s ∧ s.mode ≠ .safe then
    let fs := skippedFrames b s.frame
    let r := unitOf s u
    startChan i s.frame (dropChanFlags i fs (setUnit u { r with skips := r.skips ++ fs.map (fun k => (k, byAbort)) } s))
  else s

/-- Frame channels of drover `d` whose work is pending, in the order of R231: by frame, then by channel. -/
def pendingFrames (s : State) (d : Nat) : List (Nat × Nat) :=
  ((List.range 8).filter (fun c => isFrameChan s (chanIdx d c) && decide (fld s Fld.CH_STATUS_STATE (chanIdx d c) = 1))).map
    (fun c => ((unitOf s (1024 + chanIdx d c)).frame, c))

/-- The pending frame work that runs first. -/
def firstFrame (l : List (Nat × Nat)) : Option (Nat × Nat) :=
  l.foldl (fun best x => match best with
    | none => some x
    | some y => if x.1 < y.1 ∨ (x.1 = y.1 ∧ x.2 < y.2) then some x else some y) none

/-- The pending non-frame program that runs first: channel 0, then round-robin from the channel after the last one started
(R231). -/
def firstNonFrame (s : State) (d last : Nat) : Option Nat :=
  let pend (c : Nat) : Bool := !isFrameChan s (chanIdx d c) && decide (fld s Fld.CH_STATUS_STATE (chanIdx d c) = 1)
  if pend 0 then some 0
  else ((List.range 7).map (fun k => (last + k) % 7 + 1)).find? pend

/-- Whether every frame channel of the drover has ended its current frame. -/
def framesDone (s : State) (d : Nat) : Bool :=
  (List.range 8).all (fun c => !isFrameChan s (chanIdx d c) || decide ((unitOf s (1024 + chanIdx d c)).st = .ended))

/-- Begin the program of channel `c` (R229, R231). DESIGN CHOICE: log entry 119. -/
def beginRun (d c : Nat) (frame : Option Nat) (s : State) : State :=
  let i := chanIdx d c
  let x := droverOf s d
  let e := fld s Fld.CH_CFG_ENTRY i
  setFld Fld.CH_STATUS_PC i e (setFld Fld.CH_STATUS_STATE i 2 (setFld Fld.DRV_STATUS_BUSY d 1 (setFld Fld.DRV_STATUS_CUR d c
    (setDrover d { x with run := some ⟨c, frame, e, none, 0, 0, false, none, false⟩, lastNf := if frame.isNone then c else x.lastNf } s))))

/-- A drover that runs nothing starts its next program; `remain` is the time in ns before the next boundary, which the gate of R233
tests on a FRAME drover. DESIGN CHOICE: log entry 104. -/
def programStart (d remain : Nat) (s : State) : State :=
  let x := droverOf s d
  match x.run with
  | some _ => s
  | none =>
    match firstFrame (pendingFrames s d) with
    | some (b, c) => beginRun d c (some b) s
    | none =>
      if framesDone s d then
        match firstNonFrame s d x.lastNf with
        | some c =>
          if fbit s Fld.DRV_CTRL_MODE d ∧ remain < fld s Fld.DRV_NF_GATE_NF_GATE d then s else beginRun d c none s
        | none => s
      else s

def execDroverProgramStart (d : DroverId) (remain : Nat) (s : State) : Res := .next (programStart d.val remain s)

/-- CH_START (R230): a frame channel, and a channel that is pending or running, refuse it; a write to channel 0 from a master other
than the groom is ignored (R234). -/
def chanStart (d c master : Nat) (s : State) : State :=
  let i := chanIdx d c
  if c = 0 ∧ master ≠ masterGroom then setBit Fld.DRV_FAULT_HOST_CH0 d s
  else if isFrameChan s i ∨ fbit s Fld.CH_CFG_FRAME i ∨ fld s Fld.CH_STATUS_STATE i ≠ 0 then
    setBit Fld.DRV_FAULT_START_REFUSED d s
  else setFld Fld.CH_STATUS_STATE i 1 s

def execChStart (d : DroverId) (c : Fin 8) (master : Fin 24) (s : State) : Res := .next (chanStart d.val c.val master.val s)

/-! ### The running program -/

/-- Set the channel's state code and the state of its unit if it is a frame channel. -/
def setChanState (d : Nat) (code : Nat) (u : UnitState) (s : State) : State :=
  match (droverOf s d).run with
  | none => s
  | some r =>
    let i := chanIdx d r.ch
    let s := setFld Fld.CH_STATUS_STATE i code s
    if r.frame.isSome then
      let ur := unitOf s (1024 + i)
      setUnit (1024 + i) { ur with st := u } s
    else s

/-- Move on to instruction `pc`. -/
def drvGoto (d pc : Nat) (r : DrvRun) (s : State) : State :=
  let x := droverOf s d
  setFld Fld.CH_STATUS_PC (chanIdx d r.ch) pc (setDrover d { x with run := some { r with pc := pc, paced := 0, barrier := false, waits := none, lost := false } } s)

/-- Advance a ring by its step (R237). -/
def advanceRing (base : RegField) (len step : RegField) (i : Nat) (s : State) : State :=
  let n := fld s len i
  if n = 0 then s else setFld base i ((fld s base i + fld s step i) % n) s

def advanceA (i : Nat) (s : State) : State := advanceRing Fld.RINGA_POS_POS Fld.RINGA_LEN_LEN Fld.RINGA_STEP_STEP i s
def advanceB (i : Nat) (s : State) : State := advanceRing Fld.RINGB_POS_POS Fld.RINGB_LEN_LEN Fld.RINGB_STEP_STEP i s

/-- The samples of the channel's per-frame count that its moves have delivered so far (R48). -/
def movedSamples (c : ChanDesc) (r : DrvRun) : Nat := min c.samples (if c.sampleBytes = 0 then 0 else r.bytes / c.sampleBytes)

/-- The program of drover `d` ends with END_CODE `code` at raw time `t` (R26, R48, R237, R242). A frame channel counts as having
ended its frame. Its move is counted: whole at END; after an abort or a block reset the rest with its cause; after a fault of the
program the rest gets no cause. -/
def programEnd (d code t : Nat) (s : State) : State :=
  let x := droverOf s d
  match x.run with
  | none => s
  | some r =>
    let i := chanIdx d r.ch
    let c := chanOf s i
    let s := setDrover d { x with run := none } s
    let s := setFld Fld.CH_STATUS_END_CODE i code (setFld Fld.CH_STATUS_STATE i 0 (setFld Fld.DRV_STATUS_BUSY d 0 s))
    let s := if code = 0 then s
      else raise 0x42 d (r.ch + 16 * code) (setBit Fld.DRV_FAULT_END_FAULT d s)
    let s := setChan i { chanOf s i with abort := false } s
    if r.frame.isSome then
      let m := movedSamples c r
      let s := if code = 0 then ledgerAdd c.stream c.samples c.samples none (advanceB i (advanceA i s))
        else if code = 5 then ledgerAdd c.stream c.samples m (some (causeAbort, c.samples - m)) s
        else if code = 6 then ledgerAdd c.stream c.samples m (some (causeBlockReset, c.samples - m)) s
        else ledgerAdd c.stream c.samples m none s
      let s := if code = 5 then countFld Fld.FG_ABORT_COUNT_COUNT 0 (setBit Fld.FG_STATUS_ABORT_STICKY 0
          (raise 7 (1024 + i) r.pc s)) else s
      let s := chanEnded i t (decide (code = 5)) s
      setFld Fld.DRV_STATUS_FRAME_DONE d (bnat (framesDone s d)) s
    else s

/-! ### MOVE -/

/-- The four words of a drover instruction (R235). -/
structure DrvWords where
  w0 : ProgWord
  w1 : ProgWord
  w2 : ProgWord
  w3 : ProgWord
deriving DecidableEq, Repr

/-- Bits `lo` upward, `n` of them, as a number. -/
def dfield (w : ProgWord) (lo n : Nat) : Nat := (w.toNat / 2 ^ lo) % 2 ^ n
/-- A signed field in units of 8 bytes. -/
def dstep (w : ProgWord) (lo : Nat) : Int := 8 * signOf 20 (dfield w lo 20)

/-- The fields of a MOVE (Table 9.7). -/
structure MoveDesc where
  barrier : Bool
  pace : Bool
  line : Nat
  dspace : Nat
  smode : Nat
  dmode : Nat
  esz : Nat
  n0 : Nat
  n1 : Nat
  n2 : Nat
  src : Nat
  dst : Nat
  ss0 : Int
  ds0 : Int
  ss1 : Int
  ds1 : Int
  ss2 : Int
  ds2 : Int
deriving DecidableEq, Repr

/-- Read the fields of a MOVE. -/
def moveDesc (w : DrvWords) : MoveDesc :=
  { barrier := decide (dfield w.w0 59 1 = 1), pace := decide (dfield w.w0 58 1 = 1), line := dfield w.w0 52 6,
    dspace := dfield w.w0 50 2, smode := dfield w.w0 48 2, dmode := dfield w.w0 46 2, esz := dfield w.w0 43 3,
    n2 := dfield w.w0 35 8 + 1, src := dfield w.w0 0 35, n0 := dfield w.w1 48 16 + 1, n1 := dfield w.w1 36 12 + 1,
    dst := dfield w.w1 0 35, ss0 := dstep w.w2 0, ds0 := dstep w.w2 20, ss1 := dstep w.w2 40, ds1 := dstep w.w3 0,
    ss2 := dstep w.w3 20, ds2 := dstep w.w3 40 }

/-- Bytes of one element. -/
def elemBytes (m : MoveDesc) : Nat := 8 * 2 ^ m.esz
/-- Elements of the whole MOVE. -/
def elemCount (m : MoveDesc) : Nat := m.n0 * m.n1 * m.n2

/-- Source offset of element number `k`, in the order of R236. -/
def elemSrc (m : MoveDesc) (k : Nat) : Int :=
  m.src + (k % m.n0) * m.ss0 + (k / m.n0 % m.n1) * m.ss1 + (k / (m.n0 * m.n1)) * m.ss2
/-- Destination offset of element number `k`. -/
def elemDst (m : MoveDesc) (k : Nat) : Int :=
  m.dst + (k % m.n0) * m.ds0 + (k / m.n0 % m.n1) * m.ds1 + (k / (m.n0 * m.n1)) * m.ds2

/-- The address of offset `o` under an addressing mode: absolute, ring A, ring B (R236). -/
def ringAddr (s : State) (i mode : Nat) (o : Int) : Nat :=
  match mode with
  | 1 => 8 * fld s Fld.RINGA_BASE_BASE i +
      (((fld s Fld.RINGA_POS_POS i : Int) + o) % (fld s Fld.RINGA_LEN_LEN i : Int)).toNat
  | 2 => 8 * fld s Fld.RINGB_BASE_BASE i +
      (((fld s Fld.RINGB_POS_POS i : Int) + o) % (fld s Fld.RINGB_LEN_LEN i : Int)).toNat
  | _ => (o % 2 ^ 35).toNat

/-- Whether a mode is legal: absolute, or a ring with a length (Table 9.21). -/
def modeOk (s : State) (i mode : Nat) : Bool :=
  match mode with
  | 0 => true
  | 1 => decide (0 < fld s Fld.RINGA_LEN_LEN i)
  | 2 => decide (0 < fld s Fld.RINGB_LEN_LEN i)
  | _ => false

/-- The end code that a MOVE meets as it is dispatched (Table 9.8): illegal fields, what only channel 0 may do, the rules for
non-frame programs of a FRAME drover, the size limit. Alignment is checked element by element. -/
def moveEnd (s : State) (d : Nat) (r : DrvRun) (w : DrvWords) : Option Nat :=
  let m := moveDesc w
  let i := chanIdx d r.ch
  let restricted := r.frame.isNone && fbit s Fld.DRV_CTRL_MODE d
  if dfield w.w1 35 1 ≠ 0 ∨ dfield w.w2 60 4 ≠ 0 ∨ dfield w.w3 60 4 ≠ 0 ∨ 47 < m.line ∨ m.dspace = 3 ∨ 5 < m.esz
      ∨ ¬ modeOk s i m.smode ∨ ¬ modeOk s i m.dmode ∨ (m.dspace ≠ 0 ∧ (m.esz ≠ 0 ∨ m.dmode ≠ 0)) then some 1
  else if m.dspace ≠ 0 ∧ r.ch ≠ 0 then some 3
  else if restricted ∧ m.pace then some 3
  else if restricted ∧ fld s Fld.DRV_NF_MAX_NF_MAX d < r.bytes - elemBytes m * r.paced + elemBytes m * elemCount m then some 4
  else none

/-- Whether the target of a burst is one that the program may reach: a frame channel no stall local memory, a non-frame program of a
FRAME drover only the permitted cellar channels and yard (R233, Table 9.8). -/
def reachOk (s : State) (d : Nat) (r : DrvRun) (a : Nat) : Bool :=
  if r.frame.isSome then !decide (0x08000000 ≤ a ∧ a < 0x09000000)
  else if fbit s Fld.DRV_CTRL_MODE d then
    let t := xbTarget a
    (decide (4 ≤ t ∧ t < 12) && testBit (fld s Fld.DRV_CTRL_NF_CELLAR d) (t - 4))
      || (decide (t = d / 4) && fbit s Fld.DRV_CTRL_NF_YARD d)
  else true

/-- Count an error response of a drover's burst (R243). -/
def countResp (d ch : Nat) (k : RespKind) (a : Nat) (s : State) : State :=
  if k = .ok then s
  else
    raise 0x43 d (ch + 16 * respCode k) (setFld Fld.DRV_ERR_ADDR_HI_ADDR_HI d (a / 2 ^ 32) (setFld Fld.DRV_ERR_ADDR_LO_ADDR_LO d a
      (setFld Fld.DRV_RESP_COUNT_CHANNEL d ch (setFld Fld.DRV_RESP_COUNT_KIND d (respCode k)
        (countFld Fld.DRV_RESP_COUNT_COUNT d s)))))

/-- Write a word of a stall's staged program page (R236); while the stall still runs the old live page the write is held (R59). -/
def writePage (u word : Nat) (v : ProgWord) (s : State) : State :=
  let p := pagesOf s u
  if p.swapDue then setPages u { p with held := p.held ++ [⟨p.live, word, v⟩] } s
  else { s with progMem := smapSet (fun _ => 0) ((2 * u + bnat (!p.live)) * 8192 + word) v s.progMem }

/-- Write two registers' staged copies (R236). -/
def writeStaged (a : Nat) (v : Nat) (s : State) : State :=
  let m := smapSet regDefault a (BitVec.ofNat 32 v) s.staged
  { s with staged := smapSet regDefault (a + 4) (BitVec.ofNat 32 (v / 2 ^ 32)) m }

/-- The bursts that cover 8-byte words at the given addresses, as address and length: neighbouring words of one 256-byte block share one, so that a ring's
end splits an element (R236) and no burst crosses a 256-byte boundary (R222). DESIGN CHOICE: log entry 18. -/
def burstsOf : List Nat → List (Nat × Nat)
  | [] => []
  | a :: l => match burstsOf l with
    | (b, n) :: rest => if b = a + 8 ∧ b % 256 ≠ 0 then (a, n + 8) :: rest else (a, 8) :: (b, n) :: rest
    | [] => [(a, 8)]

/-- The bursts that read element `k`. -/
def srcBursts (s : State) (i : Nat) (m : MoveDesc) (k : Nat) : List (Nat × Nat) :=
  burstsOf ((List.range (elemBytes m / 8)).map (fun (j : Nat) => ringAddr s i m.smode (elemSrc m k + 8 * j)))

/-- The bursts that write element `k`; none into a space of DSPACE 1 or 2. -/
def dstBursts (s : State) (i : Nat) (m : MoveDesc) (k : Nat) : List (Nat × Nat) :=
  if m.dspace = 0 then burstsOf ((List.range (elemBytes m / 8)).map (fun (j : Nat) => ringAddr s i m.dmode (elemDst m k + 8 * j))) else []

/-- Whether a burst has been given up: the one on which the MOVE waited has timed out (R226). -/
def burstLost (s : State) (r : DrvRun) (a : Nat) : Bool := r.lost && targetWaits s (xbTarget a)

/-- Read a burst of an element, with the count of its response; a burst that timed out, and every word in error, reads as zeros (R243). -/
def readBurst (d : Nat) (r : DrvRun) (b : Nat × Nat) (p : List Byte × State) : List Byte × State :=
  if burstLost p.2 r b.1 then (p.1 ++ List.replicate b.2 0, p.2)
  else
    let m := masterDrover d
    (p.1 ++ xbReadBytes p.2 m b.1 b.2, countResp d r.ch (xbReadKind p.2 m b.1 b.2) b.1 (xbReadEffect m b.1 b.2 p.2))

/-- Write the next bytes of an element as a burst, with the count of its response; the bytes that remain. -/
def writeBurst (d : Nat) (r : DrvRun) (b : Nat × Nat) (p : List Byte × State) : List Byte × State :=
  if burstLost p.2 r b.1 then (p.1.drop b.2, p.2)
  else
    let m := masterDrover d
    (p.1.drop b.2, countResp d r.ch (xbWriteKind p.2 m b.1 b.2) b.1 (xbWrite m b.1 (p.1.take b.2) p.2))

/-- Move element `k`: it is read whole, then written (R236). -/
def moveElem (d : Nat) (r : DrvRun) (m : MoveDesc) (k : Nat) (s : State) : State :=
  let i := chanIdx d r.ch
  let p := forEach (srcBursts s i m k) (readBurst d r) ([], s)
  let o := (elemDst m k).toNat
  if m.dspace = 1 then writePage (o / 2 ^ 16) (o % 2 ^ 16 / 8) (BitVec.ofNat 64 (leNat p.1)) p.2
  else if m.dspace = 2 then writeStaged o (leNat p.1) p.2
  else (forEach (dstBursts s i m k) (writeBurst d r) p).2

/-- The end code that element `k` meets: misaligned, or a burst out of reach. -/
def elemEnd (s : State) (d : Nat) (r : DrvRun) (m : MoveDesc) (k : Nat) : Option Nat :=
  let i := chanIdx d r.ch
  let al := min (elemBytes m) 64
  let a := ringAddr s i m.smode (elemSrc m k)
  let b := if m.dspace = 0 then ringAddr s i m.dmode (elemDst m k) else (elemDst m k).toNat
  if a % al ≠ 0 ∨ b % al ≠ 0 then some 2
  else if (srcBursts s i m k ++ dstBursts s i m k).any (fun x => !reachOk s d r x.1) then some 3
  else none

/-- The target and address on which element `k` waits: a cellar channel that retrains (R215), unless the wait has timed out. DEDUCED: log entry 125. -/
def elemWaits (s : State) (d : Nat) (r : DrvRun) (m : MoveDesc) (k : Nat) : Option (Nat × Nat) :=
  if r.lost then none
  else
    let i := chanIdx d r.ch
    ((srcBursts s i m k ++ dstBursts s i m k).find? (fun x => targetWaits s (xbTarget x.1))).map (fun x => (xbTarget x.1, x.1))

/-- Note an element of a run's MOVE as moved. -/
def addElem (d n : Nat) (s : State) : State :=
  let x := droverOf s d
  setDrover d { x with run := x.run.map (fun r => { r with bytes := r.bytes + n, paced := r.paced + 1, waits := none, lost := false }) } s

/-- How the elements of a MOVE came to an end: all moved, an end code met, or a wait for a target. -/
inductive MoveStop where
  | done
  | ends (code : Nat)
  | waits (target addr : Nat)
deriving DecidableEq, Repr

/-- Move the elements from `k` on, `n` of them, until one meets an end condition or a target that does not answer now. DESIGN CHOICE: log entry 18. -/
def moveElems (d : Nat) (r : DrvRun) (m : MoveDesc) : Nat → Nat → State → State × MoveStop
  | 0, _, s => (s, .done)
  | n + 1, k, s =>
    match elemEnd s d r m k with
    | some c => (s, .ends c)
    | none =>
      match elemWaits s d r m k with
      | some w => (s, .waits w.1 w.2)
      | none => moveElems d { r with lost := false } m n (k + 1) (addElem d (elemBytes m) (moveElem d r m k s))

/-- The run of a drover whose channel is running. -/
def activeRun (s : State) (d : Nat) : Option DrvRun :=
  match (droverOf s d).run with
  | some r =>
    let k := fld s Fld.CH_STATUS_STATE (chanIdx d r.ch)
    if k = 2 ∨ k = 3 ∨ k = 5 ∨ k = 6 then some r else none
  | none => none

/-- Move on past a finished instruction. -/
def drvNext (d : Nat) (s : State) : State :=
  match (droverOf s d).run with
  | some r => setChanState d 2 .running (drvGoto d (r.pc + 1) r s)
  | none => s

/-- Whether an instruction with this operation meets ILLEGAL where it stands: the operation, its reserved bits, the range of its fields
(R235, R238, R239), or execution past instruction 63. -/
def drvIllegal (r : DrvRun) (w : DrvWords) : Bool :=
  let op := dfield w.w0 60 4
  let rest := decide (w.w1 = 0 ∧ w.w2 = 0 ∧ w.w3 = 0)
  if 64 ≤ r.pc then true
  else match op with
    | 1 => false
    | 2 => !rest || decide (dfield w.w0 22 36 ≠ 0) || decide (r.pc < dfield w.w0 16 6)
        || (match r.loop with
            | some l => decide (l.at_ ≠ r.pc)
            | none => false)
    | 3 => !rest || decide (dfield w.w0 4 56 ≠ 0)
    | 4 => !rest || decide (dfield w.w0 27 33 ≠ 0) || decide (dfield w.w0 4 12 ≠ 0) || decide (1152 ≤ dfield w.w0 16 11)
    | 5 => !rest || decide (dfield w.w0 0 60 ≠ 0)
    | _ => true

/-- The end code that the instruction `w` meets at the running program's index (Table 9.8). -/
def drvEnd (s : State) (d : Nat) (r : DrvRun) (w : DrvWords) : Option Nat :=
  if drvIllegal r w then some 1
  else if dfield w.w0 60 4 = 1 then moveEnd s d r w
  else if dfield w.w0 60 4 = 3 ∧ r.frame.isNone ∧ fbit s Fld.DRV_CTRL_MODE d then some 3
  else none

/-- Whether a drover has bursts, or writes, without a response. -/
def drvBursts (s : State) (d : Nat) (writes : Bool) : Bool :=
  s.bursts.any (fun b => decide (b.master = masterDrover d) && (!writes || b.data.isSome))

/-- What holds the instruction `w` back, as channel state code and unit state: an end waits for every response, SIGNAL, END and the instruction behind a MOVE
with BARRIER for the write responses, a MOVE of channel 0 for every earlier burst (R234–R236, R239, R242). -/
def drvHold (s : State) (d : Nat) (r : DrvRun) (w : DrvWords) : Option (Nat × UnitState) :=
  let op := dfield w.w0 60 4
  if (drvEnd s d r w).isSome then (if drvBursts s d false then some (5, .waitTarget) else none)
  else if (r.barrier ∨ op = 4 ∨ op = 5) ∧ drvBursts s d true then some (6, .waitBarrier)
  else if op = 1 ∧ r.ch = 0 ∧ drvBursts s d false then some (5, .waitTarget)
  else none

/-- An instruction of the running program with operation `op`: nothing happens where another one stands there; it waits where it is held back, ends the
program where it meets an end code, and else has its effect. -/
def drvInstr (d op : Nat) (w : DrvWords) (t : Nat) (act : DrvRun → State → State) (s : State) : State :=
  match activeRun s d with
  | none => s
  | some r =>
    if dfield w.w0 60 4 ≠ op then s
    else match drvHold s d r w with
      | some (c, u) => setChanState d c u s
      | none =>
        match drvEnd s d r w with
        | some c => programEnd d c t s
        | none => act r s

/-- The MOVE of the run is done: the next instruction waits for its write responses if it has BARRIER. -/
def moveDone (d : Nat) (m : MoveDesc) (s : State) : State :=
  let s := drvNext d s
  let x := droverOf s d
  setDrover d { x with run := x.run.map (fun r => { r with barrier := m.barrier }) } s

/-- The MOVE waits for a target. -/
def moveWaits (d : Nat) (w : Nat × Nat) (s : State) : State :=
  let x := droverOf s d
  setChanState d 5 .waitTarget (setDrover d { x with run := x.run.map (fun r => { r with waits := some w }) } s)

/-- MOVE (R236): all its elements at once, but for those that wait for a target, where the command tries again; a paced MOVE waits for its request line and
moves burst by burst (R240). DESIGN CHOICE: log entry 18. -/
def drvMove (d : Nat) (w : DrvWords) (t : Nat) (s : State) : State :=
  drvInstr d 1 w t (fun r s =>
    let m := moveDesc w
    if m.pace then setChanState d 5 .waitTarget s
    else
      match moveElems d r m (elemCount m - r.paced) r.paced s with
      | (s, .ends c) => programEnd d c t s
      | (s, .waits a b) => moveWaits d (a, b) s
      | (s, .done) => moveDone d m s) s

def execMove (d : DroverId) (w0 w1 w2 w3 : ProgWord) (t : Nat) (s : State) : Res := .next (drvMove d.val ⟨w0, w1, w2, w3⟩ t s)

/-- LOOP (R238): back to TARGET until COUNT passes are done; ADV_A and ADV_B advance the rings between passes. -/
def drvLoop (d : Nat) (w : DrvWords) (t : Nat) (s : State) : State :=
  drvInstr d 2 w t (fun r s =>
    let left := match r.loop with
      | some l => l.left
      | none => dfield w.w0 0 16
    let x := droverOf s d
    if left = 0 then drvNext d (setDrover d { x with run := some { r with loop := none } } s)
    else
      let i := chanIdx d r.ch
      let s := if dfield w.w0 59 1 = 1 then advanceA i s else s
      let s := if dfield w.w0 58 1 = 1 then advanceB i s else s
      setChanState d 2 .running (drvGoto d (dfield w.w0 16 6) { r with loop := some ⟨r.pc, left - 1⟩ } s)) s

def execLoop (d : DroverId) (w0 : ProgWord) (t : Nat) (s : State) : Res := .next (drvLoop d.val ⟨w0, 0, 0, 0⟩ t s)

/-- WAIT of a channel (R239): a set flag is consumed, SKIP or not (R44); on a clear flag the channel waits, and the command tries
again. DESIGN CHOICE: log entry 20. -/
def drvWait (d : Nat) (w : DrvWords) (t : Nat) (s : State) : State :=
  drvInstr d 3 w t (fun r s =>
    let i := chanIdx d r.ch
    let f := dfield w.w0 0 4
    if testBit (fld s Fld.CH_EVENTS_FLAGS i) f then drvNext d (chanClear i f s) else setChanState d 3 .waitEvent s) s

def execDroverWait (d : DroverId) (w0 : ProgWord) (t : Nat) (s : State) : Res := .next (drvWait d.val ⟨w0, 0, 0, 0⟩ t s)

/-- SIGNAL of a channel (R239): after its write responses it posts; after boundary b + 2 of the channel's frame the post is discarded
and counted (R41). -/
def drvSignal (d : Nat) (w : DrvWords) (t : Nat) (s : State) : State :=
  drvInstr d 4 w t (fun r s =>
    let i := chanIdx d r.ch
    let unit := dfield w.w0 16 11
    let flag := dfield w.w0 0 4
    if r.frame.isSome ∧ stale s (1024 + i) then drvNext d (countDiscard s)
    else
      let c := chanOf s i
      let tag := tagFor s (1024 + i) c.signals unit flag
      drvNext d (sendPost ⟨unit, flag, false, tag⟩ (setChan i { c with made := (unit, flag) :: c.made } s))) s

def execDroverSignal (d : DroverId) (w0 : ProgWord) (t : Nat) (s : State) : Res := .next (drvSignal d.val ⟨w0, 0, 0, 0⟩ t s)

/-- The words of an END. -/
def endWords : DrvWords := ⟨BitVec.ofNat 64 (5 * 2 ^ 60), 0, 0, 0⟩

/-- END (R237, R239): after the write responses the program ends; a frame channel's rings advance and its frame's work ends at raw time `t`. -/
def drvEndInstr (d : Nat) (t : Nat) (s : State) : State := drvInstr d 5 endWords t (fun _ s => programEnd d 0 t s) s

def execDroverEnd (d : DroverId) (t : Nat) (s : State) : Res := .next (drvEndInstr d.val t s)

/-- The end code that the instruction `w`, or the next element of the MOVE it is, meets (Table 9.8). -/
def faultCode (s : State) (d : Nat) (r : DrvRun) (w : DrvWords) : Option Nat :=
  match drvEnd s d r w with
  | some c => some c
  | none => if dfield w.w0 60 4 = 1 then elemEnd s d r (moveDesc w) r.paced else none

/-- A program that meets an end condition with the instruction `w` ends with its code, once the responses of its bursts have arrived (R242). -/
def programEndFault (d : Nat) (w : DrvWords) (t : Nat) (s : State) : State :=
  match activeRun s d with
  | none => s
  | some r =>
    match faultCode s d r w with
    | some c => if drvBursts s d false then setChanState d 5 .waitTarget s else programEnd d c t s
    | none => s

def execDroverProgramEndFault (d : DroverId) (w0 w1 w2 w3 : ProgWord) (t : Nat) (s : State) : Res :=
  .next (programEndFault d.val ⟨w0, w1, w2, w3⟩ t s)

/-- An abort of a frame channel is taken at its next burst boundary; it ends with END_CODE 5 (R48, R242). A channel whose program has
not begun ends its frame at once. -/
def drvAbortTaken (d c t : Nat) (s : State) : State :=
  let i := chanIdx d c
  if !(chanOf s i).abort then s
  else match (droverOf s d).run with
    | some r => if r.ch = c then programEnd d 5 t s else abortPending s
    | none => abortPending s
where
  /-- The abort of a released channel that waits behind another program. -/
  abortPending (s : State) : State :=
    let i := chanIdx d c
    let ch := chanOf s i
    let s := setFld Fld.CH_STATUS_END_CODE i 5 (setFld Fld.CH_STATUS_STATE i 0 (setChan i { ch with abort := false } s))
    let s := ledgerAdd ch.stream ch.samples 0 (some (causeAbort, ch.samples)) s
    let s := raise 0x42 d (c + 16 * 5) (setBit Fld.DRV_FAULT_END_FAULT d s)
    let s := countFld Fld.FG_ABORT_COUNT_COUNT 0 (setBit Fld.FG_STATUS_ABORT_STICKY 0 (raise 7 (1024 + i) 0 s))
    chanEnded i t true s

def execDroverAbortTaken (d : DroverId) (c : Fin 8) (t : Nat) (s : State) : Res := .next (drvAbortTaken d.val c.val t s)

/-- An abort decided by the frame guard goes out to a unit (R47, R48). -/
def sendAbort (u : Nat) (s : State) : State :=
  if u < 1024 then
    let st := stallOf s u
    setStall u { st with abortPending := true } s
  else if u < 1152 then
    let c := chanOf s (u - 1024)
    setChan (u - 1024) { c with abort := true } s
  else s

/-- HANG_ABORT (R48): a unit that has not ended its frame by boundary b + 2 + HANG_FRAMES is aborted. -/
def hangAbort (u : Nat) (s : State) : State :=
  let r := unitOf s u
  if r.st ≠ .ended ∧ r.frame + 2 + fld s Fld.FG_CTRL_HANG_FRAMES ≤ s.frame then sendAbort u s else s

def execHangAbort (u : Fin 1152) (s : State) : Res := .next (hangAbort u.val s)

end Sys2Proof.Machine
end

