-- ==== Sys2Proof/Machine/Ports.lean ====
section
/-! DEFINITION. The port engine (R299–R321): port settings, conversions, rings, starts and stops, what each ball frame lands and presents,
external clocks, the drover path, output cells and their settlement (R42, R77, R434, R490). -/

namespace Sys2Proof.Machine

/-- Base rates in Hz by FS code (Table 11.22). -/
def fsHz (fs : Nat) : Nat :=
  match fs with
  | 0 => 44100 | 1 => 48000 | 2 => 88200 | 3 => 96000 | 4 => 176400 | 5 => 192000 | 6 => 352800 | _ => 384000

def portOf (s : State) (p : Nat) : PortSt := smapGet (fun _ => portIdle) s.ports p
def setPort (p : Nat) (x : PortSt) (s : State) : State := { s with ports := smapSet (fun _ => portIdle) p x s.ports }

/-! ### Output cells -/

/-- The number of an output destination in the map of cells. -/
def destKey : OutDest → Nat
  | .port p slot => 32 * p + slot
  | .queue q => 0x1000 + q
  | .amp n => 0x2000 + n

def outOf (s : State) (k : Nat) : OutCell := smapGet (fun _ => outEmpty) s.outs k
def setOut (k : Nat) (x : OutCell) (s : State) : State := { s with outs := smapSet (fun _ => outEmpty) k x s.outs }

/-- The output writes that one landing brings: a word for its frame and sink replaces an earlier one (R77). -/
def landWord (w : OutWord) (l : List OutWord) : List OutWord :=
  w :: l.filter (fun x => !decide (x.frame = w.frame ∧ x.sink = w.sink))

/-- An output write lands: after boundary b + 2 of its frame, or after its slot of a team trace has gone, it is discarded and counted (R41, R334, R490);
else its destination keeps it. -/
def landOutput (w : OutWrite) (s : State) : State :=
  let k := destKey w.entry.dest
  let c := outOf s k
  if w.frame + 2 ≤ s.frame ∨ w.frame < c.closed then countDiscard s
  else
    setOut k { c with words := landWord ⟨w.frame, w.entry.sink, w.val⟩ c.words } s

/-- The oldest output write on its way from the stall's channel lands (R77). -/
def outputLanding (u chan : Nat) (s : State) : State :=
  match s.outFlight.findIdx? (fun w => decide (w.unit = u ∧ w.chan = chan)) with
  | none => s
  | some i =>
    match s.outFlight[i]? with
    | none => s
    | some w => landOutput w { s with outFlight := s.outFlight.eraseIdx i }

def execOutputWriteLanding (st : StallId) (chan : BitVec 13) (s : State) : Res :=
  .next (outputLanding st.val chan.toNat s)

/-- The fill of a channel (R42): HOLD repeats the last written sample for one frame. -/
def fillOf (zero : Bool) (c : SinkFill) : S48 := if zero ∨ 0 < c.run then 0 else c.last

/-- What the fill of a destination's channel needs, by sink. -/
def sinkOf (c : OutCell) (k : Nat) : SinkFill := smapGet (fun _ => sinkEmpty) c.fills k
def setSink (k : Nat) (x : SinkFill) (c : OutCell) : OutCell := { c with fills := smapSet (fun _ => sinkEmpty) k x c.fills }

/-- A destination passes on the word `v` of sink `k`. -/
def passWord (k : Nat) (v : S48) (c : OutCell) : OutCell := { setSink k ⟨v, 0⟩ c with present := v }

/-- A destination passes on the fill of sink `k`. -/
def passFill (k : Nat) (zero : Bool) (c : OutCell) : OutCell :=
  let x := sinkOf c k
  { setSink k ⟨x.last, x.run + 1⟩ c with present := fillOf zero x }

/-- The routes in effect for compute frame `b` (R429). -/
def routesAt (s : State) (b : Nat) : Nat :=
  match s.ovrHist.find? (fun h => decide (h.1 = b)) with
  | some h => h.2
  | none => 0

/-- The sink whose word a destination passes on for frame `b`: the override sink of the lowest-numbered route in effect that the
destination has, else the normal sink (R434). `sinks`: the sinks mapped to it. -/
def sinkFor (sinks : List Nat) (routes : Nat) : Nat :=
  match (bitList 4 routes).find? (fun r => sinks.contains (r + 1)) with
  | some r => r + 1
  | none => 0

/-- Every output-table entry of the live pages, with its stall. -/
def liveOuts (s : State) : List (Nat × OutEntry) :=
  s.pages.flatMap (fun p => (liveHdr p.2).outs.filterMap (fun e => e.map (fun x => (p.1, x))))

/-- The page header that a stall's frame `b` runs with: that of the page that was live then. -/
def hdrAt (p : Pages) (b : Nat) : PageHeader := if b < p.since then (if p.live then p.hdr0 else p.hdr1) else liveHdr p

/-- Every output-table entry of the pages of frame `b`, with its stall. DEDUCED: log entry 100. -/
def outsAt (s : State) (b : Nat) : List (Nat × OutEntry) :=
  s.pages.flatMap (fun p => (hdrAt p.2 b).outs.filterMap (fun e => e.map (fun x => (p.1, x))))

/-- Whether a unit had work in frame `b`: it has ended or skipped it, or runs it or an earlier one. -/
def hadFrame (r : UnitRec) (b : Nat) : Bool :=
  r.ends.any (fun e => decide (e.frame = b)) || r.skips.any (fun k => decide (k.1 = b)) || decide (r.st ≠ .ended ∧ r.frame ≤ b)

/-- Why the output of unit `u` for compute frame `b` is missing when boundary b + 2 comes (R41, R43, R48, R490): the cause, or none
when the unit ended the frame without writing the channel. `flying`: the write is on its way. -/
def missCause (r : UnitRec) (b : Nat) (flying : Bool) : Option Nat :=
  match r.skips.find? (fun k => decide (k.1 = b)) with
  | some k => some (if k.2 then causeAbort else causeSkip)
  | none =>
    if r.ends.any (fun e => decide (e.frame = b)) then
      (if r.ends.any (fun e => decide (e.frame = b) && e.byAbort) then some causeAbort
       else if flying then some causeOverrun else none)
    else if r.frame = b then some causeOverrun
    else if r.frame < b then some causeSkip
    else none

/-- The bit of a unit's block in BLOCK_RST_STATUS (R465). -/
def blockBit (u : Nat) : Nat := if u < 1024 then u / 256 else 16 + (u - 1024) / 8

/-- Whether the unit's block is held by a block reset (R465). -/
def unitIsolated (s : State) (u : Nat) : Bool := decide (u < 1152) && testBit (regWord s 0x514).toNat (blockBit u)

/-- Whether the unit's block was held in frame `b`. -/
def isolatedIn (s : State) (u b : Nat) : Bool := decide (u < 1152) && s.power.isoFrames.contains (blockBit u, b)

/-- The destination settles compute frame `b` for one output-table entry (R490): the word of the sink it passes on, or the fill, counted
in the entry's stream. A unit that was not released for the frame owes nothing. -/
def settleEntry (b : Nat) (ue : Nat × OutEntry) (s : State) : State :=
  let e := ue.2
  let k := destKey e.dest
  let sinks := (outsAt s b).filterMap (fun x => if x.2.dest = e.dest then some x.2.sink else none)
  if sinkFor sinks (routesAt s b) ≠ e.sink then s
  else
    let c := outOf s k
    match c.words.find? (fun w => decide (w.frame = b ∧ w.sink = e.sink)) with
    | some w =>
      ledgerAdd e.stream 1 1 none (setOut k (passWord e.sink w.val c) s)
    | none =>
      let iso := unitIsolated s ue.1 || isolatedIn s ue.1 b
      let flying := s.outFlight.any (fun w => decide (w.unit = ue.1 ∧ w.frame = b ∧ w.entry = e))
      let cause := if iso then some causeBlockReset else missCause (unitOf s ue.1) b flying
      if ¬ iso ∧ ¬ hadFrame (unitOf s ue.1) b then setOut k { c with present := 0 } s
      else ledgerAdd e.stream 1 0 (cause.map (fun x => (x, 1))) (setOut k (passFill e.sink e.zeroFill c) s)

/-- The entries of a list, each channel of a destination once, where two pages map it (R77). -/
def onePerChannel (l : List (Nat × OutEntry)) : List (Nat × OutEntry) :=
  l.foldl (fun acc x => if acc.any (fun y => decide (y.2.dest = x.2.dest ∧ y.2.sink = x.2.sink)) then acc else acc ++ [x]) []

/-- The words of frame `b` were written to their channels, passed on or not; the words of frames that are over go. -/
def cellSettled (b : Nat) (c : OutCell) : OutCell :=
  let c := forEach (c.words.filter (fun w => decide (w.frame = b))) (fun w c => setSink w.sink ⟨w.val, 0⟩ c) c
  { c with words := c.words.filter (fun w => decide (b < w.frame)) }

/-- Settle compute frame `b` at boundary b + 2: every mapped channel but the slots of team and mirror traces (R490). -/
def settleFrame (b : Nat) (s : State) : State :=
  let s := forEach (onePerChannel ((outsAt s b).filter (fun x => !x.2.team))) (settleEntry b) s
  { s with outs := (s.outs.map (fun c => (c.1, cellSettled b c.2))).filter (fun c => decide (c.2 ≠ outEmpty)) }

/-! ### Settings and conversions -/

/-- Slots of a port (R300). -/
def portSlots (s : State) (p : Nat) : Nat :=
  if fld s Fld.PORT_CFG_FMT p = 2 then fld s Fld.PORT_CFG_SLOTS p + 1 else 2
/-- Slot width in bit periods. -/
def portWidth (s : State) (p : Nat) : Nat :=
  match fld s Fld.PORT_CFG_SLOT_W p with
  | 0 => 16 | 1 => 24 | _ => 32

/-- Whether a port's settings let it start (R300, R302). -/
def portCfgOk (s : State) (p : Nat) : Bool :=
  let q := fld s Fld.PORT_CFG_CLKSRC p
  let same (f : RegField) : Bool := decide (fld s f p = fld s f q)
  decide (fsHz s.fs * portSlots s p * portWidth s p ≤ 49152000) &&
  (decide (q = p) ||
    (decide (fld s Fld.PORT_CFG_CLKSRC q = q) && same Fld.PORT_CFG_FMT && decide (portSlots s p = portSlots s q) &&
     same Fld.PORT_CFG_SLOT_W && same Fld.PORT_CFG_DLY && same Fld.PORT_CFG_FSW && same Fld.PORT_CFG_ROLE))

/-- Whether the clock generator and the clock balls of port `q` run: it, or a port that names it as its clock source, is enabled (R300). -/
def clockRuns (s : State) (q : Nat) : Bool :=
  (List.range 32).any (fun p => fbit s Fld.PORT_CFG_EN p && decide (p = q ∨ fld s Fld.PORT_CFG_CLKSRC p = q))

/-- The FIFO word of a captured slot of `w` bits (Table 12.4): the first bits, left-justified in 24 or 32 bits. -/
def captureWord (pack : Bool) (w raw : Nat) : Nat :=
  let n := if pack then 32 else 24
  if w ≤ n then raw % 2 ^ w * 2 ^ (n - w) else raw % 2 ^ w / 2 ^ (w - n)

/-- S48 of a FIFO word (Table 12.4). -/
def wordS48 (pack : Bool) (word : Nat) : S48 :=
  if pack then BitVec.ofInt 48 (signOf 32 word * 2 ^ 9) else BitVec.ofInt 48 (signOf 24 word * 2 ^ 17)

/-- The packed ring element of a FIFO word (R309): 24-bit words in [31:8]. -/
def wordPacked (pack : Bool) (word : Nat) : Nat := if pack then word else word * 2 ^ 8

/-- The FIFO word of an output sample, and whether the clamp changed it (R303). -/
def outWordOf (pack : Bool) (v : S48) : Nat × Bool :=
  let k := if pack then 9 else 17
  let n := if pack then 32 else 24
  let c := max (-(2 ^ 40)) (min v.toInt (2 ^ 40 - 2 ^ k))
  (wrapInt n (c / 2 ^ k), decide (c ≠ v.toInt))

/-- The `w` bits of a slot that carries a FIFO word (Table 12.4). -/
def slotBits (pack : Bool) (w word : Nat) : Nat :=
  let n := if pack then 32 else 24
  if w ≤ n then word / 2 ^ (n - w) else word * 2 ^ (w - n)

/-! ### Rings (R309, R310) -/

/-- Write a sample of capture frame `n` into the ring at `base` (address / 8 above the scratchpads), element before header. Answers false
where the bank refuses it (R310). -/
def ringWrite (m base log2 : Nat) (packed : Bool) (n : Nat) (v : S48) (word : Nat) (s : State) : State × Bool :=
  let a := 0x04000000 + 8 * base
  let e := if packed then 4 else 8
  let at_ := a + 8 + (n % 2 ^ log2) * e
  let bs := if packed then leBytes 4 word else leBytes 8 (wrapInt 64 v.toInt)
  let ok := decide (xbAccess s m at_ e = .ok)
  let s := xbWrite m at_ bs s
  if ok then (xbWrite m a (leBytes 4 (n % 2 ^ 32) ++ leBytes 4 0) s, true) else (s, false)

/-- Ring slots of port `p` that are enabled. -/
def ringSlots (s : State) (p : Nat) : List Nat :=
  (List.range (portSlots s p)).filter (fun k => fbit s Fld.RING_CFG_EN (32 * p + k))

/-- Land one frame of FIFO words (slot by slot) of ball frame `n` in the rings of port `p`; answers how many ring writes were
refused. -/
def landSlots (p n : Nat) (words : List Nat) : List Nat → State → Nat → State × Nat
  | [], s, refused => (s, refused)
  | k :: ks, s, refused =>
    let i := 32 * p + k
    let pack := fbit s Fld.PORT_CFG_PACK p
    let w := words.getD k 0
    let r := ringWrite masterPort (fld s Fld.RING_BASE_BASE i) (fld s Fld.RING_CFG_LOG2_LEN i) (fbit s Fld.RING_CFG_RFMT i) n
      (wordS48 pack w) (wordPacked pack w) s
    landSlots p n words ks r.1 (if r.2 then refused else refused + 1)

/-- Count an overrun frame of a port with the samples dropped (R310, R316). -/
def portOver (p n : Nat) (s : State) : State :=
  raise 0x61 p n (setBit Fld.PORT_FLAGS_OVER_STICKY p (countFld Fld.PORT_OVER_COUNT_COUNT p s))
/-- Count an underrun frame of a port with the samples replaced (R316). -/
def portUnder (p n : Nat) (s : State) : State :=
  raise 0x60 p n (setBit Fld.PORT_FLAGS_UNDER_STICKY p (countFld Fld.PORT_UNDER_COUNT_COUNT p s))

/-- The frame that stands in for a missing one (R316): HOLD repeats the last real frame once, then zero. -/
def portFill (s : State) (p : Nat) : List Nat :=
  let x := portOf s p
  if fbit s Fld.PORT_CFG_FILL p ∨ 0 < x.run then x.lastFrame.map (fun _ => 0) else x.lastFrame

/-- Bytes of a frame in the port FIFO (R308). -/
def frameBytes (s : State) (p : Nat) : Nat :=
  let n := portSlots s p * (if fbit s Fld.PORT_CFG_PACK p then 4 else 3)
  8 * ((n + 7) / 8)

/-- The bytes of a frame of FIFO words (R308). -/
def packFrame (s : State) (p : Nat) (words : List Nat) : List Byte :=
  let n := if fbit s Fld.PORT_CFG_PACK p then 4 else 3
  let bs := words.flatMap (fun w => leBytes n w)
  bs ++ List.replicate (frameBytes s p - bs.length) 0

/-- Assert or withdraw a request line. -/
def setLine (k : Nat) (on : Bool) (s : State) : State :=
  if on then (if s.lines.contains k then s else { s with lines := s.lines ++ [k] })
  else { s with lines := s.lines.filter (fun x => decide (x ≠ k)) }

/-- Land a real or filled frame of ball frame `n` (R305, R310, R317, R319). `real`: false for an underrun fill. DESIGN CHOICE: log entry 127. -/
def landFrame (p n : Nat) (words : List Nat) (real : Bool) (s : State) : State :=
  let x := portOf s p
  if fbit s Fld.PORT_CFG_PATH p then
    setLine p true (setPort p { x with bufBytes := frameBytes s p } (memWrite (0x38000 + 0x400 * p) (packFrame s p words) s))
  else
    let ks := ringSlots s p
    let r := landSlots p n words ks s 0
    let s := r.1
    let landed := ks.length - r.2
    let s := ledgerAdd x.stream (if real then ks.length else 0) (if real then landed else 0)
      (if real ∧ 0 < r.2 then some (causePortOver, r.2) else none) s
    let s := if real then s else ledgerAdd x.stream ks.length 0 (some (causePortUnder, ks.length)) s
    if 0 < r.2 then portOver p r.2 s else s

/-! ### States, starts and stops -/

/-- Set PORT_STATE.STATE of a serial port; a PDM input has no such register. -/
def setPortState (p code : Nat) (s : State) : State := if p < 32 then setFld Fld.PORT_STATE_STATE p code s else s

/-- Whether a port or PDM input (32 + i) is enabled (R314). -/
def portEnabled (s : State) (p : Nat) : Bool :=
  if p < 32 then fbit s Fld.PORT_CFG_EN p else fbit s Fld.PDM_CFG_EN_A (p - 32) || fbit s Fld.PDM_CFG_EN_B (p - 32)

/-- Whether a port or PDM input is started. -/
def portRunning (s : State) (p : Nat) : Bool :=
  if p < 32 then testBit (fld s Fld.PORT_RUNNING_RUNNING) p else testBit (fld s Fld.PDM_RUNNING_RUNNING) (p - 32)

/-- Set the running bit of a port or PDM input. -/
def setRunning (p : Nat) (on : Bool) (s : State) : State :=
  let f := if p < 32 then Fld.PORT_RUNNING_RUNNING else Fld.PDM_RUNNING_RUNNING
  let i := if p < 32 then p else p - 32
  let w := fld s f
  setFld f 0 (if testBit w i then (if on then w else w - 2 ^ i) else (if on then w + 2 ^ i else w)) s

/-- A stream becomes active: a HOLD fill at its points is zero until a real sample has come (R42). -/
def holdZero (k : Nat) (s : State) : State :=
  let outs := s.pages.flatMap (fun p => (p.2.hdr0.outs ++ p.2.hdr1.outs).filterMap (fun e => e.bind (fun x => if x.stream = some k then some (destKey x.dest) else none)))
  let s := forEach outs (fun d s => setOut d (forEach (List.range 5) (fun k c => setSink k { sinkOf c k with last := 0 } c) (outOf s d)) s) s
  let us := (smapKeys s.stalls).filter (fun u => decide ((liveHdr (pagesOf s u)).exchStream = some k))
  let s := forEach us (fun u s =>
    forEach (List.range 16) (fun i s => let st := stallOf s u; setStall u (setSlot i { slotOf st i with last := 0 } st) s) s) s
  let s := forEach ((List.range 48).filter (fun p => decide ((portOf s p).stream = some k))) (fun p s =>
    let x := portOf s p
    setPort p { x with lastFrame := x.lastFrame.map (fun _ => 0) } s) s
  forEach ((s.liveRx.filter (fun x => decide (x.2 = k))).map Prod.fst) (fun e s =>
    { s with rxCells := smapSet (fun _ => rxEmpty) e { smapGet (fun _ => rxEmpty) s.rxCells e with last := 0 } s.rxCells }) s

/-- Make a stream active or inactive (R52). DEDUCED: log entry 71. -/
def setActive (stream : Option Nat) (on : Bool) (s : State) : State :=
  match stream with
  | none => s
  | some k =>
    let s := if on ∧ ¬ (streamOf s.ledger.cur k).active then holdZero k s else s
    let r := streamOf s.ledger.cur k
    { s with ledger := { s.ledger with cur := smapSet (fun _ => streamZero) k { r with active := on } s.ledger.cur } }

/-- The ports and PDM inputs that the masks of PORT_START and PORT_STOP name. -/
def maskPorts (ports pdm : Nat) : List Nat := bitList 32 ports ++ (bitList 16 pdm).map (fun i => 32 + i)

/-- The state code of a port or PDM input (Table 12.9): one that runs and has lost its clocks stays CLOCK_LOST. -/
def portCode (s : State) (p : Nat) : Nat :=
  let x := portOf s p
  if portRunning s p then
    (if p < 32 ∧ fld s Fld.PORT_STATE_STATE p = 5 then 5 else if x.stopAt.isSome ∨ x.endAt.isSome then 4 else 3)
  else if ¬ portEnabled s p then 0
  else if x.startAt.isSome ∨ x.resumeAt.isSome then 2
  else 1

/-- Bring PORT_STATE.STATE up to date; a PDM input has no such register. -/
def showPort (p : Nat) (s : State) : State := if p < 32 then setFld Fld.PORT_STATE_STATE p (portCode s p) s else s

/-- Whether a port runs, or will run again after changed settings have stopped it (R315). -/
def portStarted (s : State) (p : Nat) : Bool := portRunning s p || (portOf s p).resumeAt.isSome

/-- PORT_START for frame `f` (R314): it replaces any action of the host that is pending; no effect on a started port. -/
def portStart (ports pdm f : Nat) (s : State) : State :=
  forEach (maskPorts ports pdm) (fun p s =>
    let x := portOf s p
    if portStarted s p then showPort p (setPort p { x with startAt := none, stopAt := none } s)
    else if p < 32 ∧ fbit s Fld.PORT_CFG_EN p ∧ ¬ portCfgOk s p then setBit Fld.PORT_FLAGS_CFG_MISMATCH p s
    else showPort p (setPort p { x with startAt := some f, stopAt := none } s)) s

/-- PORT_STOP for frame `f` (R314). -/
def portStop (ports pdm f : Nat) (s : State) : State :=
  forEach (maskPorts ports pdm) (fun p s =>
    let x := portOf s p
    showPort p (setPort p { x with startAt := none, stopAt := if portStarted s p then some f else none } s)) s

/-- A pending start, or the restart after changed settings, reaches its frame `b` (R300, R314, R315). -/
def startAtBoundary (p b : Nat) (s : State) : State :=
  let x := portOf s p
  match (match x.resumeAt with | some f => some f | none => x.startAt) with
  | none => s
  | some f =>
    if b < f then s
    else if portEnabled s p ∧ (32 ≤ p ∨ portCfgOk s p) then
      setActive x.stream true (showPort p (setRunning p true
        (setPort p { x with startAt := none, resumeAt := none, startFrame := f, extIn := [], outQ := [], run := 0 } s)))
    else
      let s := showPort p (setPort p { x with startAt := none, resumeAt := none } s)
      if p < 32 then setBit Fld.PORT_FLAGS_CFG_MISMATCH p s else s

/-- A port stops: its stream ends and its request line is withdrawn. -/
def portHalt (p : Nat) (x : PortSt) (s : State) : State := showPort p (setLine p false (setActive x.stream false (setRunning p false (setPort p x s))))

/-- Whether a boundary has come. -/
def reached (o : Option Nat) (b : Nat) : Bool := match o with
  | some f => decide (f ≤ b)
  | none => false

/-- The stops of a port that boundary `b` reaches (R314, R315): a cleared EN ends it, PORT_STOP stops it, changed settings stop it for two frames. A PORT_STOP
that falls into these takes the restart away. -/
def stopAtBoundary (p b : Nat) (s : State) : State :=
  let x := portOf s p
  if portRunning s p then
    if reached x.endAt b then portHalt p { x with endAt := none, stopAt := none, pauseAt := none } s
    else if reached x.stopAt b then portHalt p { x with stopAt := none, pauseAt := none } s
    else if reached x.pauseAt b then portHalt p { x with pauseAt := none, resumeAt := x.pauseAt.map (· + 2) } s
    else s
  else if reached x.stopAt b then showPort p (setPort p { x with stopAt := none, resumeAt := none } s)
  else s

/-- A direct write of PORT_CFG, or a tap of it at boundary `b` (R314, R315, R321): fields out of range keep their value and set
CFG_ERR; `last` is the first frame the port no longer runs if the write stops it. -/
def portCfgApply (p value mask last : Nat) (s : State) : State :=
  let old := (regWord s (fieldAddr Fld.PORT_CFG_EN p)).toNat
  let put (f : RegField) (w : Nat × Bool) : Nat × Bool :=
    let v := bitsOf f.hi f.lo ((value % 2 ^ 32) &&& mask ||| (w.1 &&& (2 ^ 32 - 1 - mask % 2 ^ 32)))
    let bad := match f.rng with
      | some (lo, hi) => decide (v < lo ∨ hi < v)
      | none => false
    if bad then (w.1, true) else (putBits f.hi f.lo w.1 v, w.2)
  let fs := [Fld.PORT_CFG_EN, Fld.PORT_CFG_DIR, Fld.PORT_CFG_FMT, Fld.PORT_CFG_ROLE, Fld.PORT_CFG_PATH, Fld.PORT_CFG_PACK,
    Fld.PORT_CFG_DLY, Fld.PORT_CFG_SLOT_W, Fld.PORT_CFG_SLOTS, Fld.PORT_CFG_FSW, Fld.PORT_CFG_BCLK_INV, Fld.PORT_CFG_FS_INV,
    Fld.PORT_CFG_FILL, Fld.PORT_CFG_CLKSRC]
  let r := fs.foldl (fun w f => put f w) (old, false)
  let new := r.1
  let s := if r.2 then setBit Fld.PORT_GSTATUS_CFG_ERR 0 s else s
  let s := setRegWord (fieldAddr Fld.PORT_CFG_EN p) (BitVec.ofNat 32 new) s
  let x := portOf s p
  let en := testBit new 0
  let plain (w : Nat) : Nat := putBits 18 18 (putBits 0 0 w 0) 0
  showPort p
    (if ¬ portRunning s p then (if en then s else setPort p { x with resumeAt := none } s)
     else if ¬ en then setPort p { x with endAt := some (x.endAt.getD last) } s
     else if plain old = plain new then s
     else setPort p { x with pauseAt := some (x.pauseAt.getD last) } s)

/-- PORT_CFG_WRITE: a direct write (R314, R315): the ball frame in progress is the last one. -/
def execPortCfgWrite (p : PortId) (value : Word32) (s : State) : Res :=
  .next (portCfgApply p.val value.toNat (2 ^ 32 - 1) (s.frame + 1) s)

/-! ### Ball frames -/

/-- Slots of port `p` that the output tables of the compute frame two before the present one map, with the sample each presents. -/
def mappedSlots (s : State) (p : Nat) : List (Nat × S48) :=
  let m := (outsAt s (s.frame - 2)).filterMap (fun x => match x.2.dest with
    | .port q k => if q = p then some k else none
    | _ => none)
  ((List.range 32).filter (fun k => m.contains k)).map (fun k => (k, (outOf s (32 * p + k)).present))

/-- Whether the mode lets port outputs carry samples (Table 1.6, R320): all in RUN, override destinations in SAFE, none once the partner has taken over (R376). -/
def slotLive (s : State) (p k : Nat) : Bool :=
  match s.mode with
  | .run => !s.pair.displaced
  | .safe =>
    let routes := routesAt s (s.frame - 2)
    !s.pair.displaced && (outsAt s (s.frame - 2)).any (fun x => decide (x.2.dest = .port p k) && decide (0 < x.2.sink) && testBit routes (x.2.sink - 1))
  | _ => false

/-- Present a frame of samples at the balls of output port `p` (R303, R306): unmapped slots carry zero, the clamp sets CLIP_STICKY. -/
def presentFrame (p : Nat) (m : List (Nat × S48)) (s : State) : State :=
  let pack := fbit s Fld.PORT_CFG_PACK p
  let w := portWidth s p
  let slot (k : Nat) : Nat × Bool :=
    match m.find? (fun x => decide (x.1 = k)) with
    | some x => if slotLive s p k then
        let r := outWordOf pack x.2
        (slotBits pack w r.1, r.2)
      else (0, (outWordOf pack x.2).2)
    | none => (0, false)
  let l := (List.range (portSlots s p)).map slot
  let s := if l.any (fun x => x.2) then setBit Fld.PORT_FLAGS_CLIP_STICKY p s else s
  let x := portOf s p
  setPort p { x with ball := l.map (fun y => y.1) } s

/-- What the data balls of port `p` carry: nothing while they are at high impedance, in OFF and STANDBY (Table 1.6) and, where a port drives them as a master, on a
standby with PORT_HIZ and on an old main whose partner has taken over (R368, R376); else the words of the ball frame. DEDUCED: log entry 126. -/
def portBalls (s : State) (p : Nat) : Option (List Nat) :=
  let hiz := (decide (s.mode = .shadow) && fbit s Fld.SHADOW_CTRL_PORT_HIZ) || s.pair.displaced
  if s.mode = .off ∨ s.mode = .standby ∨ (hiz ∧ ¬ fbit s Fld.PORT_CFG_ROLE p) then none else some (portOf s p).ball

/-- The mode changes within the ball frame: each running output port presents its frame anew as the mode has it (Table 1.6, R374–R376). DEDUCED: log entry 126. -/
def presentAgain (s : State) : State :=
  forEach (List.range 32) (fun p s =>
    if ¬ portRunning s p ∨ ¬ fbit s Fld.PORT_CFG_DIR p then s
    else if fbit s Fld.PORT_CFG_PATH p then
      presentFrame p ((List.range (portSlots s p)).zip ((portOf s p).lastFrame.map (wordS48 (fbit s Fld.PORT_CFG_PACK p)))) s
    else if fbit s Fld.PORT_CFG_ROLE p then (if slotLive s p 0 then s else presentFrame p [] s)
    else presentFrame p (mappedSlots s p) s) s

/-- The mapped samples of a port stream at its two output points (R317). DEDUCED: log entry 71. -/
def countPresented (s : State) (p n d : Nat) (under : Nat) : State :=
  ledgerAdd (portOf s p).stream n d (if 0 < under then some (causePortUnder, under) else none) s

/-- An input port at the end of ball frame `k`: `words` are the captured slots (R305, R307, R316–R318). -/
def inputPort (p k : Nat) (words : List Nat) (s : State) : State :=
  let x := portOf s p
  let pack := fbit s Fld.PORT_CFG_PACK p
  let w := portWidth s p
  if ¬ fbit s Fld.PORT_CFG_ROLE p then
    let f := words.map (captureWord pack w)
    let s := ledgerAdd x.stream f.length f.length none s
    landFrame p k f true (setPort p { x with lastFrame := f, run := 0 } s)
  else
    match x.extIn.getLast? with
    | some f =>
      let drop := x.extIn.length - 1
      let n := portSlots s p
      let s := ledgerAdd x.stream (n * (drop + 1)) n (if 0 < drop then some (causePortOver, n * drop) else none) s
      let s := forEach (List.range drop) (fun _ s => portOver p n s) s
      landFrame p k f true (setPort p { x with extIn := [], lastFrame := f, run := 0 } s)
    | none =>
      let f := portFill s p
      let s := portUnder p (ringSlots s p).length s
      landFrame p k f false (setPort p { x with run := x.run + 1 } s)

/-- An output port at the start of ball frame `k`: a master presents compute frame k − 2; a target queues it for its external clock; on
the drover path the buffer is presented or underruns (R306, R307, R316, R319). DESIGN CHOICE: log entry 127. -/
def outputPort (p : Nat) (s : State) : State :=
  let x := portOf s p
  let m := mappedSlots s p
  if fbit s Fld.PORT_CFG_PATH p then
    let n := portSlots s p
    if frameBytes s p ≤ x.bufBytes then
      let e := if fbit s Fld.PORT_CFG_PACK p then 4 else 3
      let ws := (List.range n).map (fun i => leNat (memBytes s (0x38000 + 0x400 * p + e * i) e))
      let pack := fbit s Fld.PORT_CFG_PACK p
      presentFrame p ((List.range n).zip (ws.map (wordS48 pack)))
        (setLine p true (setPort p { x with bufBytes := 0, lastFrame := ws, run := 0 } s))
    else
      let f := portFill s p
      let pack := fbit s Fld.PORT_CFG_PACK p
      presentFrame p ((List.range n).zip (f.map (wordS48 pack)))
        (setLine p true (setPort p { x with run := x.run + 1 } (portUnder p n s)))
  else if fbit s Fld.PORT_CFG_ROLE p then
    if fld s Fld.PORT_STATE_STATE p = 5 then
      portOver p m.length (ledgerAdd x.stream m.length 0 (some (causePortOver, m.length)) s)
    else setPort p { x with outQ := x.outQ ++ [m] } s
  else
    presentFrame p m (countPresented s p (2 * m.length) (2 * m.length) 0)

/-- The S48 samples of PDM input `i` land in the rings of its microphones (R309, R312). DESIGN CHOICE: log entry 127. -/
def pdmInput (i k : Nat) (mics : List (Nat × S48)) (s : State) : State :=
  let ms := [2 * i, 2 * i + 1].filter (fun m => fbit s Fld.PDM_RING_CFG_EN m)
  let x := portOf s (32 + i)
  let step (acc : State × Nat) (m : Nat) : State × Nat :=
    let v := match mics.find? (fun y => decide (y.1 = m)) with
      | some y => y.2
      | none => 0
    let r := ringWrite masterPort (fld acc.1 Fld.PDM_RING_BASE_BASE m) (fld acc.1 Fld.PDM_RING_CFG_LOG2_LEN m)
      (fbit acc.1 Fld.PDM_RING_CFG_RFMT m) k v (wrapInt 32 (v.toInt / 2 ^ 9)) acc.1
    (r.1, if r.2 then acc.2 else acc.2 + 1)
  let r := ms.foldl step (s, 0)
  setLine (32 + i) true (ledgerAdd x.stream (2 * ms.length) (2 * ms.length - r.2)
    (if 0 < r.2 then some (causePortOver, r.2) else none) r.1)

/-- All ports and PDM inputs at boundary `b`: the running inputs land ball frame b − 1, stops and starts take effect, the running
outputs begin ball frame `b` (R304–R307, R314, R315). -/
def portsBoundary (b : Nat) (words : List (Nat × Nat × Nat)) (mics : List (Nat × S48)) (s : State) : State :=
  let isIn (s : State) (p : Nat) : Bool := portRunning s p && !fbit s Fld.PORT_CFG_DIR p
  let s := forEach (List.range 32) (fun p s =>
    if isIn s p ∧ 0 < b then
      inputPort p (b - 1) ((List.range (portSlots s p)).map (fun k =>
        match words.find? (fun w => decide (w.1 = p ∧ w.2.1 = k)) with
        | some w => w.2.2
        | none => 0)) s
    else s) s
  let s := forEach (List.range 16) (fun i s => if portRunning s (32 + i) ∧ 0 < b then pdmInput i (b - 1) mics s else s) s
  let s := forEach (List.range 48) (fun p s => stopAtBoundary p b s) s
  let s := forEach (List.range 48) (fun p s => startAtBoundary p b s) s
  forEach (List.range 32) (fun p s =>
    if portRunning s p ∧ fbit s Fld.PORT_CFG_DIR p then outputPort p s
    else
      let x := portOf s p
      setPort p { x with ball := x.ball.map (fun _ => 0) } s) s

/-- A target port's external frame starts (R307, R316, R318): an input has received the frame `words` that ended with it; an output presents
the newest compute frame not yet presented, drops older ones, or underruns. `phase` is the time from the boundary. A port in
CLOCK_LOST resumes. -/
def externalFrame (p : Nat) (phase : Int) (words : List Nat) (s : State) : State :=
  if ¬ (fbit s Fld.PORT_CFG_ROLE p ∧ portRunning s p) then s
  else
    let s := setFld Fld.PORT_STATE_EDGE_PHASE p (wrapInt 16 phase) s
    let s := if fld s Fld.PORT_STATE_STATE p = 5 then setPortState p 3 s else s
    let x := portOf s p
    if fbit s Fld.PORT_CFG_DIR p then
      match x.outQ.getLast? with
      | some m =>
        let drop := x.outQ.dropLast
        let lost := (drop.map List.length).foldl (· + ·) 0
        let s := forEach drop (fun d s => portOver p d.length s) s
        let s := ledgerAdd x.stream (2 * m.length + lost) (2 * m.length) (if 0 < lost then some (causePortOver, lost) else none) s
        let s := presentFrame p m (setPort p { x with outQ := [], run := 0 } s)
        let y := portOf s p
        setPort p { y with lastFrame := y.ball } s
      | none =>
        let n := (mappedSlots s p).length
        let f := portFill s p
        ledgerAdd x.stream n 0 (some (causePortUnder, n))
          (portUnder p n (setPort p { x with ball := f, run := x.run + 1 } s))
    else
      let f := words.map (captureWord (fbit s Fld.PORT_CFG_PACK p) (portWidth s p))
      setPort p { x with extIn := x.extIn ++ [f] } s

def execExternalFrameStart (p : PortId) (phase : Int) (words : List Nat) (s : State) : Res :=
  .next (externalFrame p.val phase words s)

/-- A target port that sees no frame sync for 2 frame periods enters CLOCK_LOST (R318). -/
def portClockLoss (p : Nat) (s : State) : State :=
  if fbit s Fld.PORT_CFG_ROLE p ∧ portRunning s p ∧ fld s Fld.PORT_STATE_STATE p ≠ 5 then
    raise 0x63 p 0 (setBit Fld.PORT_FLAGS_CLK_LOSS_STICKY p (setPortState p 5 s))
  else s

def execPortClockLoss (p : PortId) (s : State) : Res := .next (portClockLoss p.val s)

/-- A paced burst of `n` bytes on request line `k` has moved (R319): the line is withdrawn once a whole frame has gone. DEDUCED: log entry 19. -/
def lineServed (k n : Nat) (s : State) : State :=
  if k < 32 then
    let x := portOf s k
    if fbit s Fld.PORT_CFG_DIR k then
      let m := x.bufBytes + n
      setLine k (decide (m < frameBytes s k)) (setPort k { x with bufBytes := m } s)
    else
      let m := x.bufBytes - n
      setLine k (decide (0 < m)) (setPort k { x with bufBytes := m } s)
  else setLine k false s

/-- A paced burst (R240): it starts only while its request line is asserted, and waits through a retraining of its cellar channel (R215); the MOVE is done with
its last element. -/
def pacedBurst (d : Nat) (w : DrvWords) (t : Nat) (s : State) : State :=
  match activeRun s d with
  | none => s
  | some r =>
    let m := moveDesc w
    if dfield w.w0 60 4 ≠ 1 ∨ ¬ m.pace ∨ ¬ s.lines.contains m.line ∨ (drvEnd s d r w).isSome ∨ (drvHold s d r w).isSome ∨ elemCount m ≤ r.paced then s
    else match moveElems d r m 1 r.paced s with
      | (s, .ends c) => programEnd d c t s
      | (s, .waits a b) => moveWaits d (a, b) s
      | (s, .done) =>
        let s := lineServed m.line (elemBytes m) s
        if r.paced + 1 = elemCount m then moveDone d m s else setChanState d 5 .waitTarget s

def execPacedBurstStart (d : DroverId) (w0 w1 w2 w3 : ProgWord) (t : Nat) (s : State) : Res :=
  .next (pacedBurst d.val ⟨w0, w1, w2, w3⟩ t s)

/-- A block reset of the port banks (R320): clocks stop, FIFOs empty, every port STOPPED; rings are unchanged. Each expected sample of the
active streams counts BLOCK_RESET until the streams end. -/
def portsReset (s : State) : State :=
  forEach (List.range 48) (fun p s =>
    let x := portOf s p
    let s := setRunning p false s
    showPort p (setLine p false (setPort p { x with
      startAt := none, stopAt := none, endAt := none, pauseAt := none, resumeAt := none, extIn := [], outQ := [], ball := x.ball.map (fun _ => 0), bufBytes := 0 } s))) s

end Sys2Proof.Machine
end

