-- ==== Sys2Proof/Machine/Memory.lean ====
section
/-! DEFINITION. Scratchpad tokens, scrub and retraining (R204–R207, R214, R215). -/

namespace Sys2Proof.Machine

/-- A direct write of BANK_OWN (R204, R205, R218): always in CONFIGURE and STANDBY, otherwise only with OWN_WR_EN; an owner code of
Ah–Fh keeps the owner and sets CFG_ERR; GUEST reads 0 under the drover port and the groom. -/
def bankOwnWrite (bank : Nat) (value : Nat) (s : State) : State :=
  if (s.mode = .run ∨ s.mode = .shadow ∨ s.mode = .safe) ∧ ¬ fbit s Fld.MEM_CTRL_OWN_WR_EN then
    setBit Fld.MEM_STATUS_OWN_REFUSED 0 s
  else
    let o := value % 16
    let s := if 9 < o then setBit Fld.MEM_STATUS_CFG_ERR 0 s else s
    let owner := if 9 < o then fld s Fld.BANK_OWN_OWNER bank else o
    moveToken bank owner (testBit value 4) { s with tokenBad := s.tokenBad.filter (fun b => decide (b ≠ bank)) }

def execBankOwnWrite (bank : Fin 2048) (value : Word32) (s : State) : Res := .next (bankOwnWrite bank.val value.toNat s)

/-- The token audit of boundary `b` (R207): a faulted owner field goes to the groom with GUEST 0 and is counted. DESIGN CHOICE: log entries 115, 122. -/
def tokenAudit (s : State) : State :=
  forEach s.tokenBad (fun k s =>
    raise 0x31 k 0 (setBit Fld.MEM_STATUS_TOKEN_FAULT 0 (setFld Fld.TOKEN_FAULT_COUNT_BANK 0 k
      (countFld Fld.TOKEN_FAULT_COUNT_COUNT 0 (moveToken k 9 false s))))) { s with tokenBad := [] }

/-- A patrol scrub pass completes (R214): every single-bit error is corrected and counted, uncorrectable words are recorded; the next pass begins. DESIGN CHOICE: log entry 122. -/
def scrubPassEnd (s : State) : State :=
  if ¬ fbit s Fld.MEM_CTRL_SCRUB_EN then s
  else
    let s := forEach s.ceWords recordCe s
    let s := forEach s.ueWords recordUe s
    countFld Fld.SCRUB_STATUS_PASSES 0 { s with passCe := [], scrubAt := s.tick }

def execScrubPassEnd (s : State) : Res := .next (scrubPassEnd s)

/-- Channels with a scheduled retraining pending, shown in RETRAIN_PENDING (R215). -/
def setRetrain (mask : Nat) (s : State) : State :=
  setFld Fld.MEM_STATUS_RETRAIN_PENDING 0 (bnat (decide (mask ≠ 0))) { s with retrainPend := mask }

/-- RETRAIN_REQ (R215): a scheduled retraining of the channels in RETRAIN_MASK becomes pending. -/
def retrainReq (s : State) : State := setRetrain (s.retrainPend ||| fld s Fld.MEM_CTRL_RETRAIN_MASK) s

def execRetrainReq (s : State) : Res := .next (retrainReq s)

/-- A drift of 10 °C since channel `c`'s last training (R215). -/
def execCellarDriftRetrain (c : Fin 8) (s : State) : Res := .next (setRetrain (s.retrainPend ||| 2 ^ c.val) s)

/-- Whether every frame channel that uses cellar channel `c` has ended its frame work. -/
def cellarUsersDone (s : State) (c : Nat) : Bool :=
  (List.range 128).all (fun i => !(isFrameChan s i && testBit (chanOf s i).cellar c) || decide ((unitOf s (1024 + i)).st = .ended))

/-- A pending scheduled retraining of channel `c` starts when its users have ended and at least 1.5 µs remain before the boundary
(R215). DESIGN CHOICE: log entry 104. -/
def scheduledRetrain (c remain : Nat) (s : State) : State :=
  if testBit s.retrainPend c ∧ cellarUsersDone s c ∧ 1500 ≤ remain then
    setFld Fld.CELLAR_CH_STATUS_EMERG c 0 (setFld Fld.CELLAR_CH_STATUS_STATE c 3 (setRetrain (s.retrainPend - 2 ^ c) s))
  else s

def execScheduledRetrain (c : Fin 8) (remain : Nat) (s : State) : Res := .next (scheduledRetrain c.val remain s)

/-- An emergency retraining starts at once (R215). It also serves a scheduled one that waited. DEDUCED: log entry 105. -/
def emergencyRetrain (c : Nat) (s : State) : State :=
  let m := if testBit s.retrainPend c then s.retrainPend - 2 ^ c else s.retrainPend
  raise 0x35 c 1 (setFld Fld.CELLAR_CH_STATUS_EMERG c 1 (setFld Fld.CELLAR_CH_STATUS_STATE c 3 (setRetrain m s)))

def execEmergencyRetrain (c : Fin 8) (s : State) : Res := .next (emergencyRetrain c.val s)

/-- A retraining completes (R215): the channel is READY again. DESIGN CHOICE: log entry 119. -/
def retrainDone (c : Nat) (s : State) : State :=
  if fld s Fld.CELLAR_CH_STATUS_STATE c = 3 then
    countFld Fld.CELLAR_CH_STATUS_RETRAIN_COUNT c (setFld Fld.CELLAR_CH_STATUS_STATE c 2 s)
  else s

def execRetrainDone (c : Fin 8) (s : State) : Res := .next (retrainDone c.val s)

end Sys2Proof.Machine
end

