-- ==== Sys2Proof/Machine/Override.lean ====
section
/-! DEFINITION. The override path (R428–R430, R434): inputs, latches and holds, the command bits, and the requested set at a boundary. -/

namespace Sys2Proof.Machine

/-- The EN, POL, LATCH and ROUTE fields of input `i` (Table 17.6). -/
def ovrEn (s : State) (i : Nat) : Bool := testBit (regWord s 0x600).toNat (8 * i)
def ovrPol (s : State) (i : Nat) : Bool := testBit (regWord s 0x600).toNat (8 * i + 1)
def ovrLatch (s : State) (i : Nat) : Bool := testBit (regWord s 0x600).toNat (8 * i + 2)
def ovrRoute (s : State) (i : Nat) : Nat := bitsOf (8 * i + 4) (8 * i + 3) (regWord s 0x600).toNat

/-- Whether the synchronized level of input `i` is active under POL (R428). -/
def ovrRaw (s : State) (i : Nat) : Bool := decide (testBit s.ovrBalls i = ovrPol s i)

/-- Take a new active sample of each input: an enabled input with an active level is active; a disabled one never is (R428). -/
def ovrSampleInputs (s : State) : State :=
  let raw := (List.range 4).filter (ovrRaw s)
  let act := (List.range 4).filter (fun i => ovrEn s i && (ovrRaw s i || testBit (fld s Fld.OVR_STATUS_IN_ACTIVE) i))
  setFld Fld.OVR_STATUS_IN_ACTIVE 0 (maskOf act) (setFld Fld.OVR_STATUS_IN_RAW 0 (maskOf raw) s)

/-- A level change at an OVR ball is synchronized (R428). -/
def ovrInput (i : Nat) (level : Bool) (s : State) : State :=
  let w := s.ovrBalls
  ovrSampleInputs { s with ovrBalls := if testBit w i then (if level then w else w - 2 ^ i) else (if level then w + 2 ^ i else w) }

def execOvrInput (i : Fin 4) (level : Bool) (s : State) : Res := .next (ovrInput i.val level s)

/-- Make input `i` inactive unless its level is active. -/
def ovrRelease (i : Nat) (s : State) : State :=
  let w := fld s Fld.OVR_STATUS_IN_ACTIVE
  if testBit w i ∧ ¬ ovrRaw s i then setFld Fld.OVR_STATUS_IN_ACTIVE 0 (w - 2 ^ i) s else s

/-- OFF_HOLD ms have passed with the level of an unlatched input inactive (R428). -/
def execOffHoldExpiry (i : Fin 4) (s : State) : Res := .next (if ovrLatch s i.val then s else ovrRelease i.val s)

/-- OVR_UNLATCH (R428, R441): releases latched inputs; an active level leaves its input active. -/
def ovrUnlatch (mask : Nat) (s : State) : State :=
  forEach (bitList 4 mask) (fun i s => if ovrLatch s i then ovrRelease i s else s) s

def execOvrUnlatch (mask : BitVec 4) (s : State) : Res := .next (ovrUnlatch mask.toNat s)

/-- The routes requested at this moment: command bits and active inputs (R429). -/
def ovrRequested (s : State) : Nat :=
  let ins := (bitList 4 (fld s Fld.OVR_STATUS_IN_ACTIVE)).map (ovrRoute s)
  let cmd := fld s Fld.OVR_STATUS_CMD
  maskOf ((List.range 4).filter (fun r => testBit cmd r || ins.contains r))

/-- Step 4 of boundary `b` (R429, R430): the requested set becomes the set in effect for compute frame `b`. -/
def overrideBoundary (b : Nat) (s : State) : State :=
  let s := ovrSampleInputs s
  let prev := fld s Fld.OVR_STATUS_ACTIVE
  let req := ovrRequested s
  let s := { s with ovrHist := ((b, req) :: s.ovrHist).take 8 }
  if req = prev then s
  else
    let taken := (bitList 4 req).any (fun r => !testBit prev r)
    let left := (bitList 4 prev).any (fun r => !testBit req r)
    let s := setFld Fld.OVR_STATUS_IN_EFFECT 0 (bnat (decide (req ≠ 0))) (setFld Fld.OVR_STATUS_ACTIVE 0 req s)
    let s := setPair Fld.OVR_FRAME_LO_FRAME_LO Fld.OVR_FRAME_HI_FRAME_HI 0 b s
    let s := if taken then countFld Fld.OVR_COUNT_TAKEN 0 (setBit Fld.OVR_STATUS_OVR_STICKY 0 s) else s
    let s := if left then countFld Fld.OVR_COUNT_LEFT 0 s else s
    raise 0xA0 (bnat (decide (req ≠ 0))) (fld s Fld.OVR_STATUS_IN_ACTIVE + 16 * bnat (decide (fld s Fld.OVR_STATUS_CMD ≠ 0))) s

/-- Whether a route takes effect at boundary `b`: it is in effect for frame `b` and was not for frame `b` − 1 (R430). -/
def ovrTakesEffect (s : State) (b : Nat) : Bool :=
  (bitList 4 (routesAt s b)).any (fun r => !testBit (routesAt s (b - 1)) r)

/-- OVERRIDE_SET (R429): the command bit of a route. -/
def overrideSet (on : Bool) (route : Nat) (s : State) : State :=
  let w := fld s Fld.OVR_STATUS_CMD
  setFld Fld.OVR_STATUS_CMD 0
    (if testBit w route then (if on then w else w - 2 ^ route) else (if on then w + 2 ^ route else w)) s

/-- The routes with a target in the live program (R440). -/
def ovrCompiled (s : State) : Nat :=
  maskOf ((List.range 4).filter (fun r => (liveOuts s).any (fun x => decide (x.2.sink = r + 1))))

end Sys2Proof.Machine
end

