-- ==== Sys2Proof/Machine/Credits.lean ====
section
/-! DEFINITION. Trace records and the credits of a trace's receive buffers (R338, R339). -/

namespace Sys2Proof.Machine

def traceOf (s : State) (t : Nat) : TraceSt := smapGet (fun _ => traceIdle) s.traces t
def setTrace (t : Nat) (x : TraceSt) (s : State) : State := { s with traces := smapSet (fun _ => traceIdle) t x s.traces }

def vcOf (x : TraceSt) (vc : Nat) : VcCounts := smapGet (fun _ => vcZero) x.vcs vc
def setVc (vc : Nat) (c : VcCounts) (x : TraceSt) : TraceSt := { x with vcs := smapSet (fun _ => vcZero) vc c x.vcs }

/-- The credits of a packet with `n` bytes of payload (R338). -/
def creditsOf (n : Nat) : Nat := (20 + n + 63) / 64

/-- Free the credits of a packet that has reached its consumer, unless its epoch has closed. -/
def freeCredits (t epoch vc c : Nat) (s : State) : State :=
  let x := traceOf s t
  if x.epoch ≠ epoch then s
  else
    let v := vcOf x vc
    setTrace t (setVc vc { v with freed := v.freed + c, held := v.held - c } x) s

/-- The width of a trace (Table 13.13). -/
def traceWidth (s : State) (t : Nat) : Nat := 2 ^ fld s Fld.TRACE_CFG_WIDTH t

/-- The mirror trace of the pair. -/
def mirrorTrace (s : State) : Option Nat := if fbit s Fld.SHADOW_MIRROR_VALID then some (fld s Fld.SHADOW_MIRROR_TRACE) else none

end Sys2Proof.Machine
end

