-- ==== Sys2Proof/Machine/Packet.lean ====
section
/-! DEFINITION. Command packets (R246–R256): check value, authentication tag, layout, sessions and the sequence window, replies, and the event
log (R265, R291–R294). -/

namespace Sys2Proof.Machine

/-! ### CRC-32C (R247) -/

/-- One byte through the reflected CRC-32C register. -/
def crcByte (a : Nat) (b : Byte) : Nat :=
  (List.range 8).foldl (fun a _ => if a % 2 = 1 then (a / 2) ^^^ 0x82F63B78 else a / 2) (a ^^^ b.toNat)

/-- The check value of the bytes (R247). -/
def crc32c (bs : List Byte) : Nat := (bs.foldl crcByte 0xFFFFFFFF) ^^^ 0xFFFFFFFF

/-! ### HMAC-SHA-256 (R248); the hash is FIPS 180-4, which the spec names and does not repeat -/

/-- The greatest number whose `k`-th power is at most `n`, among those that agree with `r` above its low `b` bits. -/
def intRoot (k n : Nat) : Nat → Nat → Nat
  | 0, r => r
  | b + 1, r => intRoot k n b (if (r + 2 ^ b) ^ k ≤ n then r + 2 ^ b else r)

/-- The first 32 bits behind the binary point of the `k`-th root of `p`. -/
def rootWord (k p : Nat) : BitVec 32 := BitVec.ofNat 32 (intRoot k (p * 2 ^ (32 * k)) 40 0)

/-- The first `n` primes, of those below 312 (64 of them). -/
def firstPrimes (n : Nat) : List Nat :=
  ((List.range 312).filter (fun p => decide (2 ≤ p) && (List.range p).all (fun d => decide (d < 2 ∨ p % d ≠ 0)))).take n

/-- The exclusive or of three rotations to the right. -/
def spin (i j k : Nat) (x : BitVec 32) : BitVec 32 := x.rotateRight i ^^^ x.rotateRight j ^^^ x.rotateRight k

/-- The message words up to `n` more, newest first; the first list holds at least sixteen. -/
def hashWords : Nat → List (BitVec 32) → List (BitVec 32)
  | 0, w => w
  | n + 1, w =>
    let back (k : Nat) := w.getD (k - 1) 0
    let low := (back 15).rotateRight 7 ^^^ (back 15).rotateRight 18 ^^^ (back 15 >>> 3)
    let high := (back 2).rotateRight 17 ^^^ (back 2).rotateRight 19 ^^^ (back 2 >>> 10)
    hashWords n ((high + back 7 + low + back 16) :: w)

/-- One round: the eight working words as one list, the first of them `a`; `x` is the sum of the round's constant and message word. -/
def hashRound (v : List (BitVec 32)) (x : BitVec 32) : List (BitVec 32) :=
  let at' (i : Nat) := v.getD i 0
  let pick := (at' 4 &&& (at' 5 ^^^ at' 6)) ^^^ at' 6
  let most := (at' 0 &&& (at' 1 ||| at' 2)) ||| (at' 1 &&& at' 2)
  let mix := x + at' 7 + pick + spin 6 11 25 (at' 4)
  ((mix + most + spin 2 13 22 (at' 0)) :: v.take 3) ++ ((at' 3 + mix) :: (v.drop 4).take 3)

/-- One 64-byte block into the hash value. -/
def hashBlock (consts h : List (BitVec 32)) (block : List Byte) : List (BitVec 32) :=
  let first := (List.range 16).map (fun i => BitVec.ofNat 32 (beNat ((block.drop (4 * i)).take 4)))
  let sums := List.zipWith (· + ·) consts (hashWords 48 first.reverse).reverse
  List.zipWith (· + ·) h (sums.foldl hashRound h)

/-- SHA-256: the message, the bit 1, zeros and the length in bits, in blocks of 64 bytes. PRESUMED: log entry 26. -/
def sha256 (m : List Byte) : List Byte :=
  let zeros := (119 - m.length % 64) % 64
  let padded := m ++ [0x80] ++ List.replicate zeros 0 ++ beBytes 8 (8 * m.length)
  let consts := (firstPrimes 64).map (rootWord 3)
  let blocks := (List.range (padded.length / 64)).map (fun i => (padded.drop (64 * i)).take 64)
  (blocks.foldl (hashBlock consts) ((firstPrimes 8).map (rootWord 2))).flatMap (fun w => beBytes 4 w.toNat)

/-- HMAC-SHA-256 with a key of at most 64 bytes. PRESUMED: log entry 26. -/
def hmacSha256 (key m : List Byte) : List Byte :=
  let k := key ++ List.replicate (64 - key.length) 0
  sha256 (k.map (fun b => b ^^^ 0x5C) ++ sha256 (k.map (fun b => b ^^^ 0x36) ++ m))

/-! ### Packet layout (R246, Table 10.1) -/

/-- The `n` bytes at offset `o`, most significant first, as a number. -/
def rd (bs : List Byte) (o n : Nat) : Nat := beNat ((bs.drop o).take n)

/-- Header fields of a packet. -/
structure Hdr where
  flags : Nat
  opcode : Nat
  tag : Nat
  session : Nat
  seq : Nat
  status : Nat
  job : Nat
  detail : Nat
deriving DecidableEq, Repr

/-- The header and payload of a packet. -/
def packetBody (h : Hdr) (payload : List Byte) : List Byte :=
  [1, BitVec.ofNat 8 h.flags] ++ beBytes 2 h.opcode ++ beBytes 1 h.tag ++ [0] ++ beBytes 2 h.session ++ beBytes 4 h.seq ++
    beBytes 4 payload.length ++ beBytes 2 h.status ++ beBytes 2 h.job ++ beBytes 4 h.detail ++ payload

/-- A packet: body, check value, and with a key the authentication tag over the nonce and the packet (R246–R248). -/
def sealPacket (key : Option (List Byte)) (nonce : Nat) (body : List Byte) : List Byte :=
  let p := body ++ beBytes 4 (crc32c body)
  match key with
  | none => p
  | some k => p ++ (hmacSha256 k (beBytes 8 nonce ++ p)).take 16

/-- The packet with DUPLICATE set (R254). -/
def asDuplicate (key : Option (List Byte)) (nonce : Nat) (p : List Byte) : List Byte :=
  let body := p.take (24 + rd p 12 4)
  sealPacket key nonce (body.take 1 ++ [(body.getD 1 0) ||| 4] ++ body.drop 2)

/-- The header fields of a reply to a request that the engine itself sent, and its payload (R263). -/
structure Answer where
  endpoint : Nat
  opcode : Nat
  seq : Nat
  status : Nat
  payload : List Byte
deriving DecidableEq, Repr

/-! ### Transports (Table 10.8) -/

def transportCode : Source → Nat
  | .spi => 0
  | .pcie _ => 1
  | .eth _ => 2
  | .udp _ _ => 3
  | .trace _ => 4

/-- The largest request packet of a transport. -/
def maxRequest : Source → Nat
  | .spi => 16428
  | .pcie _ => 65580
  | .eth _ => 1488
  | .udp _ _ => 1472
  | .trace _ => 4096

/-- Whether the transport requires a tag (R253). -/
def authRequired (s : State) : Source → Bool
  | .spi => fbit s Fld.CMD_CTRL_AUTH_LOCAL
  | .pcie _ => fbit s Fld.CMD_CTRL_AUTH_LOCAL
  | .eth _ => fbit s Fld.CMD_CTRL_AUTH_ETH
  | .udp _ _ => fbit s Fld.CMD_CTRL_AUTH_UDP
  | .trace _ => fbit s Fld.CMD_CTRL_AUTH_TRACE

/-- The source as ARG1 of CMD_AUTH_FAIL shows it. -/
def sourceArg : Source → Nat
  | .spi => 0
  | .pcie q => q
  | .eth mac => mac
  | .udp ip _ => ip
  | .trace e => e

/-- The largest reply payload (R257): no reply exceeds 8,192 bytes or the transport's largest packet, with room for a tag. -/
def maxReply (src : Source) : Nat := min 8192 (maxRequest src) - 44

/-- Whether a reply ring of queue pair `q` has a free slot: one slot is always left free (R270). DESIGN CHOICE: log entry 31. -/
def ringRoom (s : State) (q : Nat) : Bool :=
  decide ((fld s Fld.PQ_TAIL_TAIL q + 1) % fld s Fld.PQ_SIZE_SIZE q ≠ fld s Fld.PQ_HEAD_HEAD q)

/-- Note something sent to the outside. -/
def sendOut (x : Sent) (s : State) : State := { s with sent := x :: s.sent }

/-- Write the waiting packets of a queue pair into its reply ring while it has room; each slot is written before PQ_TAIL advances, then
vector `q` is sent unless masked (R270, R294). -/
def pcieFlush : Nat → Nat → State → State
  | 0, _, s => s
  | n + 1, q, s =>
    match s.txq.find? (fun p => decide (p.source = .pcie q)) with
    | none => s
    | some p =>
      if ¬ ringRoom s q then s
      else
        let tail := fld s Fld.PQ_TAIL_TAIL q
        let s := sendOut (.slot q tail p.bytes) { s with txq := s.txq.erase p }
        let s := setFld Fld.PQ_TAIL_TAIL q ((tail + 1) % fld s Fld.PQ_SIZE_SIZE q) s
        pcieFlush n q (if fbit s Fld.QP_CTRL_MASK q then s else sendOut (.msix q) s)

/-- The next hop of a UDP packet: the destination on the own subnet, else the gateway, 0 for none (R272). -/
def nextHop (s : State) (ip : Nat) : Nat :=
  let m := fld s Fld.NET_IP_MASK_MASK
  if ip &&& m = fld s Fld.NET_IP_ADDR_ADDR &&& m then ip else fld s Fld.NET_IP_GW_GW

/-- The one's complement sum of 16-bit words. -/
def onesSum (bs : List Byte) : Nat :=
  let fold (x : Nat) : Nat := x % 65536 + x / 65536
  let bs := if bs.length % 2 = 0 then bs else bs ++ [0]
  fold (fold (((List.range (bs.length / 2)).map (fun i => rd bs (2 * i) 2)).foldl (· + ·) 0))

/-- The complement of a sum of 16-bit words. -/
def onesNot (bs : List Byte) : List Byte := beBytes 2 (0xFFFF - onesSum bs)

/-- The UDP datagram that carries bytes to a port of an address (R272): from port 50,024, with its checksum over the pseudo-header; a sum of zero goes as
FFFFh. PRESUMED: log entry 128. -/
def udpBytes (s : State) (ip port : Nat) (bytes : List Byte) : List Byte :=
  let n := beBytes 2 (8 + bytes.length)
  let ends := beBytes 4 (fld s Fld.NET_IP_ADDR_ADDR) ++ beBytes 4 ip
  let ports := beBytes 2 50024 ++ beBytes 2 port
  let c := onesNot (ends ++ [0, 17] ++ n ++ ports ++ n ++ bytes)
  ports ++ n ++ (if c = [0, 0] then [0xFF, 0xFF] else c) ++ bytes

/-- The IPv4 datagram around it (R272): no options, DSCP of NET_CTRL, DF, TTL 64. -/
def ipBytes (s : State) (ip : Nat) (udp : List Byte) : List Byte :=
  let front := [0x45, BitVec.ofNat 8 (4 * fld s Fld.NET_CTRL_DSCP)] ++ beBytes 2 (20 + udp.length) ++ beBytes 2 (Config.ipId s.fresh).toNat ++ [0x40, 0, 64, 17]
  let ends := beBytes 4 (fld s Fld.NET_IP_ADDR_ADDR) ++ beBytes 4 ip
  front ++ onesNot (front ++ ends) ++ ends ++ udp

/-- Send a UDP packet on the service's lane to the next hop's MAC address. -/
def udpOut (mac : Nat) (p : TxPacket) (s : State) : State :=
  match p.source with
  | .udp ip port =>
    bumpFresh (sendOut (.frame (fld s Fld.NET_CTRL_IP_PORT) mac none 0x0800 (ipBytes s ip (udpBytes s ip port p.bytes))) s)
  | .spi | .pcie _ | .eth _ | .trace _ => s

/-- The header of a Harness-over-Ethernet frame with a command packet from this engine (Table 10.11). -/
def hoeHead (s : State) (dst : Nat) : List Byte := [1, 1, 0, 0] ++ beBytes 4 dst ++ beBytes 4 (fld s Fld.ENDPOINT_ID_ID)

/-- Send a UDP packet whose next hop the ARP cache holds; else an ARP request goes out and the packet waits. Without a gateway, a packet for
another subnet is dropped (R272). -/
def udpSend (p : TxPacket) (ip : Nat) (s : State) : State :=
  let hop := nextHop s ip
  if hop = 0 then s
  else match s.arp.find? (fun e => decide (e.ip = hop)) with
  | some e => udpOut e.mac p s
  | none => sendOut (.arpRequest (fld s Fld.NET_CTRL_IP_PORT) hop) { s with txq := s.txq ++ [p] }

/-- Hand a packet to its transport (R268, R270–R273). Ethernet sends it at once; a trace packet waits for its link. -/
def queuePacket (p : TxPacket) (s : State) : State :=
  match p.source with
  | .spi => { s with txq := s.txq ++ [p] }
  | .trace _ => { s with txq := s.txq ++ [p] }
  | .pcie q => pcieFlush (s.txq.length + 1) q { s with txq := s.txq ++ [p] }
  | .eth mac => sendOut (.frame p.via.lane mac p.via.vlan (fld s Fld.NET_ETH_TYPE_ETH_TYPE) (hoeHead s p.via.src ++ p.bytes)) s
  | .udp ip _ => udpSend p ip s

/-! ### Sessions and the sequence window (R252–R255) -/

/-- The open session with a number. -/
def sessionOf (s : State) (n : Nat) : Option Session := s.sessions.find? (fun x => decide (x.num = n))

def setSession (x : Session) (s : State) : State := { s with sessions := updWhere (fun y => decide (y.num = x.num)) (fun _ => x) s.sessions }

/-- The key in a slot. -/
def keyOf (s : State) (k : Nat) : List Byte := smapGet (fun _ => []) s.keys k

/-- The key that the tags of a session use. -/
def sessionKey (s : State) (x : Session) : Option (List Byte) := x.key.map (keyOf s)

/-- H, the highest sequence number admitted (R254). -/
def seqHigh (x : Session) : Nat := (x.s0 + 2 ^ 32 - 1 + x.count) % 2 ^ 32

/-- How far `q` lies below `h`, modulo 2^32. -/
def seqBelow (h q : Nat) : Nat := (h + 2 ^ 32 - q % 2 ^ 32) % 2 ^ 32

/-- The EMPTY entries of the window at or above S0 (R254, R264). -/
def seqEmpty (x : Session) : Nat := min 64 x.count - x.win.length

def winOf (x : Session) (q : Nat) : Option WinEntry := x.win.find? (fun e => decide (e.seq = q))

/-- What Table 10.4 says of a sequence number. -/
inductive SeqCase where
  | fits
  | ahead
  | stale
  | absorb
  | replay (reply : List Byte)
  | conflict
deriving DecidableEq, Repr

/-- The case of Table 10.4 for sequence number `q` with a check value. -/
def seqCase (x : Session) (q check : Nat) : SeqCase :=
  let h := seqHigh x
  let d := seqBelow q h
  if 1 ≤ d ∧ d ≤ 64 then
    if x.win.any (fun e => !e.done && decide (64 ≤ seqBelow q e.seq)) then .ahead else .fits
  else if 64 < d ∧ d < 2 ^ 31 then .ahead
  else if seqBelow h q < 64 ∧ seqBelow h q < x.count then
    match winOf x q with
    | none => .fits
    | some e => if e.check ≠ check then .conflict else if e.done then .replay e.reply else .absorb
  else .stale

/-- The EMPTY entries that leave the window when H advances by `d` (R254). DEDUCED: log entry 41. -/
def seqLost (x : Session) (q d : Nat) : Nat :=
  (min 64 x.count - min (64 - d) x.count) - (x.win.filter (fun e => decide (64 ≤ seqBelow q e.seq))).length

/-- Admit sequence number `q` (R254): the window moves if it must, the entry becomes BUSY. DEDUCED: log entry 41. -/
def seqAdmit (x : Session) (q check tag : Nat) : Session × Nat :=
  let d := seqBelow q (seqHigh x)
  if 1 ≤ d ∧ d ≤ 64 then
    let lost := seqLost x q d
    ({ x with count := x.count + d, exec := x.exec + 1, gapLoss := x.gapLoss + lost, used := true,
              win := ⟨q, false, check, tag, []⟩ :: x.win.filter (fun e => decide (seqBelow q e.seq < 64)) }, lost)
  else ({ x with exec := x.exec + 1, used := true, win := ⟨q, false, check, tag, []⟩ :: x.win }, 0)

/-- The counts of a session, of which `reset` EMPTY entries have been counted at its close (R264). -/
def seqCounts (x : Session) (closed : Bool) : SeqCounts :=
  ⟨x.num, x.exec, x.gapLoss, if closed then 0 else seqEmpty x, x.s0, x.count, if closed then seqEmpty x else 0⟩

/-- Close a session (R252, R264): its EMPTY entries count as SESSION_RESET; window and cached replies go. DEDUCED: log entry 32. -/
def closeSession (n t : Nat) (s : State) : State :=
  match sessionOf s n with
  | none => s
  | some x =>
    addFld Fld.CMD_SEQ_GAP_COUNT_SESSION_RESET 0 (seqEmpty x)
      { s with sessions := s.sessions.filter (fun y => decide (y.num ≠ n)), oldSessions := (n, t) :: s.oldSessions,
               seqClosed := seqCounts x true :: s.seqClosed.filter (fun y => decide (y.session ≠ n)) }

/-! ### Replies -/

/-- What the service of a request answers (Table 10.1). -/
structure Rep where
  status : Nat
  job : Nat
  detail : Nat
  payload : List Byte
deriving DecidableEq, Repr

/-- The service of a request: an error reply that leaves every part of the engine's state unchanged (R250), or a reply and the new
state. -/
abbrev Service := Except Rep (Rep × State)

/-- An error reply. -/
def errRep (status detail : Nat) : Service := .error ⟨status, 0, detail % 2 ^ 32, []⟩
/-- OK with a payload. -/
def okRep (payload : List Byte) (s : State) : Service := .ok (⟨0, 0, 0, payload⟩, s)
/-- ACCEPTED with a job handle (R259). -/
def jobRep (h : Nat) (s : State) : Service := .ok (⟨1, h, 0, []⟩, s)

/-- The key and nonce with which the reply to `r` is tagged: those of its session, or for SESSION_OPEN the named slot and zero (R248). -/
def replyKey (s : State) (r : Req) : Option (List Byte) × Nat :=
  if ¬ r.auth then (none, 0)
  else if r.session = 0 then (some (keyOf s (rd r.payload 0 1)), 0)
  else match sessionOf s r.session with
    | none => (none, 0)
    | some x => (sessionKey s x, x.nonce)

/-- The reply packet of a request (R246). -/
def replyPacket (s : State) (r : Req) (p : Rep) : List Byte :=
  let k := replyKey s r
  sealPacket k.1 k.2
    (packetBody ⟨1 + 2 * bnat k.1.isSome, r.opcode, r.tag, r.session, r.seq, p.status, p.job, p.detail⟩ p.payload)

/-- Send a reply that is not cached (R250). DEDUCED: log entry 32. -/
def sendReply (r : Req) (p : Rep) (s : State) : State :=
  queuePacket ⟨r.source, r.via, r.session, false, replyPacket s r p⟩ s

/-- Answer an admitted request: its window entry becomes DONE with the reply cached, and the reply is queued (R254, R257). A session that has
closed meanwhile gets no reply. -/
def answer (r : Req) (p : Rep) (s : State) : State :=
  let bytes := replyPacket s r p
  if r.session = 0 then sendReply r p s
  else match sessionOf s r.session with
    | none => s
    | some x =>
      queuePacket ⟨r.source, r.via, r.session, false, bytes⟩
        (setSession { x with win := updWhere (fun e => decide (e.seq = r.seq)) (fun e => { e with done := true, reply := bytes }) x.win } s)

/-- Whether the groom serves commands in the present mode (R275). -/
def groomServes (s : State) : Bool :=
  decide (s.mode = .configure ∨ s.mode = .run ∨ s.mode = .shadow ∨ s.mode = .safe) && decide (s.power.boot = 0 ∧ s.power.fw)

/-- Serve the oldest admitted request (R250, R256, R298), which must be `r` with opcode `op`. DESIGN CHOICE: log entries 27, 28. -/
def serve (op : Nat) (r : Req) (f : State → Service) (s : State) : State :=
  match s.admitted with
  | [] => s
  | q :: rest =>
    if q = r ∧ r.opcode = op ∧ groomServes s then
      let s := { s with admitted := rest }
      match f s with
      | .error p => answer r p s
      | .ok (p, s') => answer r p s'
    else s

/-- The byte at an offset of a payload. -/
def pb (r : Req) (o : Nat) : Nat := rd r.payload o 1

/-- Length and reserved bytes of a payload (R275). DEDUCED: log entry 33. -/
def shaped (r : Req) (len : Nat) (reserved : List Nat) (k : Service) : Service :=
  if r.payload.length ≠ len then errRep 0x21 len
  else match reserved.find? (fun o => decide (pb r o ≠ 0)) with
    | some o => errRep 0x22 o
    | none => k

/-- A check with the status and detail of its failure. DEDUCED: log entry 33. -/
def need (ok : Bool) (status detail : Nat) (k : Service) : Service := if ok then k else errRep status detail

/-- The code of a mode (Table 11.22). -/
def modeCode : Mode → Nat
  | .off => 0
  | .standby => 1
  | .configure => 2
  | .run => 3
  | .shadow => 4
  | .safe => 5

/-- The code of a tap state (Table 7.3). -/
def brewCode : BrewSt → Nat
  | .free => 0
  | .open_ => 1
  | .baking => 2
  | .armed => 3
  | .prepared => 4
  | .inDoubt => 5
  | .settling => 6
  | .closing => 7
  | .spilling => 8

/-! ### Admission (R250, Table 10.3) -/

/-- The opcodes of Tables 11.1 to 11.16 that a request may carry. -/
def knownOpcode (op : Nat) : Bool :=
  decide ((1 ≤ op ∧ op ≤ 6) ∨ (0x100 ≤ op ∧ op ≤ 0x106 ∧ op ≠ 0x102) ∨ (0x200 ≤ op ∧ op ≤ 0x208) ∨ (0x300 ≤ op ∧ op ≤ 0x302) ∨
    (0x400 ≤ op ∧ op ≤ 0x409) ∨ (0x500 ≤ op ∧ op ≤ 0x502) ∨ (0x600 ≤ op ∧ op ≤ 0x604) ∨ (0x700 ≤ op ∧ op ≤ 0x702) ∨
    (0x800 ≤ op ∧ op ≤ 0x804) ∨ (0x900 ≤ op ∧ op ≤ 0x905) ∨ (0xA00 ≤ op ∧ op ≤ 0xA04) ∨ (0xB00 ≤ op ∧ op ≤ 0xB04) ∨
    (0xC00 ≤ op ∧ op ≤ 0xC01) ∨ (0xD00 ≤ op ∧ op ≤ 0xD04) ∨ (0xE00 ≤ op ∧ op ≤ 0xE02))

/-- The reply to an admitted request that no row of the opcode table serves: an opcode that is not defined, or a TAP_MSG whose record names
no message (R275, R284). DESIGN CHOICE: log entries 27, 28. -/
def unservable (r : Req) : Option Rep :=
  if ¬ knownOpcode r.opcode then some ⟨0x20, 0, 0, []⟩
  else if r.opcode = 0x408 then
    if r.payload.length < 28 then some ⟨0x21, 0, 28, []⟩
    else if pb r 17 = 0 ∨ 8 < pb r 17 then some ⟨0x22, 0, 17, []⟩
    else none
  else none

/-- Count and show a FORMAT failure (R249, R251). -/
def formatFail (src : Source) (s : State) : State :=
  let s := setBit Fld.CMD_STATUS_FORMAT_STICKY 0 (countFld Fld.CMD_CHECK_COUNT_FORMAT 0 s)
  match src with
  | .spi => { s with spiFlags := s.spiFlags ||| 4 }
  | .pcie q => setBit Fld.QP_STATUS_FORMAT_ERR q s
  | _ => s

/-- Count and show a check value failure. -/
def crcFail (src : Source) (s : State) : State :=
  let s := setBit Fld.CMD_STATUS_CRC_STICKY 0 (countFld Fld.CMD_CHECK_COUNT_CRC 0 s)
  match src with
  | .spi => { s with spiFlags := s.spiFlags ||| 1 }
  | .pcie q => setBit Fld.QP_STATUS_CRC_ERR q s
  | _ => s

/-- Step 1 of Table 10.3. -/
def extentOk (p : RxPacket) : Bool :=
  let n := p.bytes.length
  decide (28 ≤ n ∧ n ≤ maxRequest p.source ∧ n = 28 + rd p.bytes 12 4 + (if testBit (rd p.bytes 1 1) 1 then 16 else 0))

/-- The fields of a packet of right extent. -/
def reqOf (p : RxPacket) (t : Nat) : Req :=
  let len := rd p.bytes 12 4
  ⟨p.source, p.via, rd p.bytes 2 2, rd p.bytes 6 2, rd p.bytes 8 4, rd p.bytes 4 1, testBit (rd p.bytes 1 1) 1,
   rd p.bytes (24 + len) 4, t, (p.bytes.drop 24).take len⟩

/-- Step 2: the check value. -/
def checkOk (p : RxPacket) : Bool :=
  let len := rd p.bytes 12 4
  decide (crc32c (p.bytes.take (24 + len)) = rd p.bytes (24 + len) 4)

/-- Step 3: the tag is present where the transport requires it, and correct under the key of the session (R248, R253). A packet with a tag
that names no open session, or one without a key, has no key under which the tag could be correct. DEDUCED: log entry 30. -/
def tagOk (s : State) (p : RxPacket) (r : Req) : Bool :=
  if ¬ r.auth then !authRequired s p.source
  else
    let body := p.bytes.take (28 + r.payload.length)
    let tag := p.bytes.drop (28 + r.payload.length)
    let good (key : List Byte) (nonce : Nat) : Bool :=
      decide (key ≠ []) && decide ((hmacSha256 key (beBytes 8 nonce ++ body)).take 16 = tag)
    if r.session = 0 ∧ r.opcode = 2 then decide (pb r 0 < 8) && good (keyOf s (pb r 0)) 0
    else match sessionOf s r.session with
      | none => false
      | some x => match sessionKey s x with
        | none => false
        | some k => good k x.nonce

/-- Step 5: the header bits and fields that a request sends as zero. -/
def headerOk (p : RxPacket) : Bool :=
  decide (rd p.bytes 1 1 &&& 0xFD = 0 ∧ rd p.bytes 5 1 = 0 ∧ rd p.bytes 16 8 = 0)

/-- The outstanding requests of a session: its BUSY entries (R256). -/
def outstanding (x : Session) : List WinEntry := x.win.filter (fun e => !e.done)

/-- Take an admitted request into the groom's order; one that no row serves is answered at once. -/
def enter (r : Req) (s : State) : State :=
  match unservable r with
  | some p => answer r p s
  | none => { s with admitted := s.admitted ++ [r] }

/-- What admission does in each case of Table 10.4 (R254), `hi` being H. -/
def admitCase (r : Req) (x : Session) (hi : Nat) (c : SeqCase) (s : State) : State :=
  match c with
  | .ahead => sendReply r ⟨0x13, 0, hi, []⟩ s
  | .stale => sendReply r ⟨0x14, 0, hi, []⟩ s
  | .conflict => countFld Fld.CMD_CONFLICT_COUNT_COUNT 0 (sendReply r ⟨0x15, 0, 0, []⟩ s)
  | .absorb => countFld Fld.CMD_DUP_COUNT_COUNT 0 s
  | .replay b =>
    let k := replyKey s r
    countFld Fld.CMD_DUP_COUNT_COUNT 0 (queuePacket ⟨r.source, r.via, r.session, false, asDuplicate k.1 k.2 b⟩ s)
  | .fits =>
    if (outstanding x).any (fun e => decide (e.tag = r.tag)) then sendReply r ⟨0x16, 0, 0, []⟩ s
    else if 64 ≤ (outstanding x).length then sendReply r ⟨0x17, 0, 64, []⟩ s
    else
      let a := seqAdmit x r.seq r.check r.tag
      enter r (addFld Fld.CMD_SEQ_GAP_COUNT_TRANSPORT_LOSS 0 a.2 (setSession { a.1 with via := r.via } s))

/-- Steps 7 and 8 for a request of session `x` (R254). -/
def admitSeq (r : Req) (x : Session) (s : State) : State := admitCase r x (seqHigh x) (seqCase x r.seq r.check) s

/-- Admission of one received packet through the checks of Table 10.3, in order. DEDUCED: log entry 30. -/
def admitPacket (p : RxPacket) (t : Nat) (s : State) : State :=
  if ¬ extentOk p then formatFail p.source s
  else if ¬ checkOk p then crcFail p.source s
  else
    let r := reqOf p t
    if ¬ tagOk s p r then
      raise 0x50 (transportCode p.source) (sourceArg p.source)
        (setBit Fld.CMD_STATUS_AUTH_STICKY 0 (countFld Fld.CMD_AUTH_COUNT_COUNT 0 s))
    else if rd p.bytes 0 1 ≠ 1 then sendReply r ⟨0x10, 0, 0, []⟩ s
    else if ¬ headerOk p then sendReply r ⟨0x11, 0, 0, []⟩ s
    else if r.session = 0 then
      if r.opcode = 2 then enter r s else sendReply r ⟨0x12, 0, 0, []⟩ s
    else match sessionOf s r.session with
      | none => sendReply r ⟨0x12, 0, 0, []⟩ s
      | some x => if x.source ≠ p.source ∨ r.opcode = 2 then sendReply r ⟨0x12, 0, 0, []⟩ s else admitSeq r x s

/-- A packet that came over a trace gives its credits back when it is taken for admission (R273, R339). -/
def rxFree (p : RxPacket) (s : State) : State :=
  match p.source with
  | .trace _ => freeCredits p.via.lane p.via.src 0 (creditsOf p.bytes.length) s
  | _ => s

/-- PACKET_ADMISSION: the oldest waiting packet of a source passes the checks. In OFF and STANDBY the groom is unpowered and admits
nothing. DEDUCED: log entry 52. -/
def packetAdmission (src : Source) (t : Nat) (s : State) : State :=
  if ¬ groomServes s then s
  else match s.rxq.find? (fun p => decide (p.source = src)) with
    | none => s
    | some p => admitPacket p t (rxFree p { s with rxq := s.rxq.erase p })

def execPacketAdmission (src : Source) (t : Nat) (s : State) : Res := .next (packetAdmission src t s)

/-! ### Events (R265, R291–R294) -/

/-- Severity of an event (Table 11.19). -/
def evtSeverity (code : Nat) : Nat :=
  if code = 0xC3 then 3
  else if [0x22, 0x23, 0x52, 0x62, 0x94, 0xC0].contains code then 0
  else if [0x01, 0x05, 0x20, 0x21, 0x34, 0x35, 0x43, 0x50, 0x60, 0x61, 0x71, 0x74, 0x80, 0x81, 0x82, 0x83, 0x84, 0x92, 0xA0,
    0xB3].contains code then 1
  else 2

/-- The 24 bytes of an event record (Table 11.18). -/
def evtBytes (e : EventRec) : List Byte :=
  beBytes 2 e.code ++ beBytes 1 (evtSeverity e.code) ++ [0] ++ beBytes 8 e.frame ++ beBytes 4 e.arg0 ++ beBytes 4 e.arg1 ++
    beBytes 2 e.rep ++ [0, 0]

/-- Send a notice of a record to a session (R265, R292): a notice that finds 64 waiting is dropped and still consumes its count. DEDUCED: log entry 25. -/
def sendNotice (e : EventRec) (x : Session) (s : State) : State :=
  let n := (s.txq.filter (fun p => p.notice && decide (p.session = x.num))).length
  let s' := setSession { x with evCount := (x.evCount + 1) % 2 ^ 32 } s
  if 64 ≤ n then s'
  else
    let k := sessionKey s x
    queuePacket ⟨x.source, x.via, x.num, true,
      sealPacket k x.nonce (packetBody ⟨9 + 2 * bnat k.isSome, 0x102, 0, x.num, x.evCount, 0, 0, 0⟩ (evtBytes e))⟩ s'

/-- Mark a class pending; a newly set bit that is enabled sends vector 8 (R294). -/
def setPending (cls : Nat) (s : State) : State :=
  let w := fld s Fld.EVT_PENDING_PENDING
  if testBit w cls then s
  else
    let s := setFld Fld.EVT_PENDING_PENDING 0 (w + 2 ^ cls) s
    if testBit (fld s Fld.EVT_IRQ_EN_IRQ_EN) cls then sendOut (.msix 8) s else s

/-- Write the oldest waiting event into the log (R291): folded into a record of the same CODE and ARG0 that is less than 1 ms old, else a
new record with its notices. -/
def eventLogWrite (t : Nat) (s : State) : State :=
  match s.evtWait with
  | [] => s
  | w :: rest =>
    let s := { s with evtWait := rest }
    let same (e : EventRec) : Bool := decide (e.code = w.code ∧ e.arg0 = w.arg0 ∧ t < e.t + 1000000)
    match s.evtLog.find? same with
    | some e => { s with evtLog := updWhere (fun x => decide (x.index = e.index)) (fun x => { x with rep := incSat 0xFFFF x.rep }) s.evtLog }
    | none =>
      let head := fld s Fld.EVT_HEAD_HEAD
      let e : EventRec := ⟨head, w.code, w.frame, w.arg0, w.arg1, 0, t⟩
      let s := setFld Fld.EVT_HEAD_HEAD 0 (head + 1) { s with evtLog := (e :: s.evtLog).take 1024 }
      let cls := (w.code / 16) % 16
      let s := setPending cls s
      let tgt := match w.only with
        | some n => s.sessions.filter (fun x => decide (x.num = n))
        | none => s.sessions.filter (fun x => testBit x.mask cls)
      forEach tgt (fun x s => sendNotice e ((sessionOf s x.num).getD x) s) s

def execEventLogWrite (t : Nat) (s : State) : Res := .next (eventLogWrite t s)

/-- Close an idle session (R252). -/
def execSessionIdleTimeout (session t : Nat) (s : State) : Res := .next (closeSession session t s)

/-! ### Jobs (R259) -/

def jobOf (s : State) (h : Nat) : Option JobRec := s.jobs.find? (fun j => decide (j.handle = h))

def setJob (j : JobRec) (s : State) : State := { s with jobs := updWhere (fun x => decide (x.handle = j.handle)) (fun _ => j) s.jobs }

/-- Whether a handle may be given to a new job: generation 1–255, slot without a record (R259). -/
def handleFree (s : State) (h : Nat) : Bool :=
  decide (1 ≤ h / 256 ∧ h / 256 ≤ 255) && s.jobs.all (fun j => decide (j.handle % 256 ≠ h % 256))

/-- The handle of a new job: the one the engine chose, if it is one it may choose. -/
def pickHandle (s : State) (h : Nat) : Nat :=
  if handleFree s h then h else ((List.range 256).map (fun i => 256 + i)).find? (handleFree s) |>.getD 256

/-- Start a job for a request (R258, R259). -/
def startJob (r : Req) (h : Nat) (work : JobWork) (k : Nat → State → State) (s : State) : Service :=
  if 256 ≤ s.jobs.length then errRep 0x28 256
  else
    let h := pickHandle s h
    jobRep h (k h { s with jobs := s.jobs ++
      [⟨h, r.opcode, r.session, 0, 0, 0, 0, 0, s.frame, 0, if r.opcode = 0x404 then 2 ^ 64 - 1 else 0, false, work⟩] })

/-- End a job (R259, R278): its record takes the final status and JOB_DONE goes to its owner. -/
def endJob (h state final detail result : Nat) (s : State) : State :=
  match jobOf s h with
  | none => s
  | some j =>
    if j.state ≠ 0 then s
    else raiseTo j.session 0x52 h final
      (setJob { j with state := state, final := final, detail := detail % 2 ^ 32, endFrame := s.frame, result := result } s)

/-- The 40 bytes of a job record (Table 11.3). -/
def jobBytes (j : JobRec) : List Byte :=
  beBytes 2 j.handle ++ beBytes 2 j.opcode ++ beBytes 2 j.session ++ beBytes 1 j.state ++ beBytes 1 j.phase ++ beBytes 1 j.progress ++ [0] ++
    beBytes 2 j.final ++ beBytes 4 j.detail ++ beBytes 8 j.startFrame ++ beBytes 8 j.endFrame ++ beBytes 8 j.result

/-- The record of an ended job goes 60 s after its end (R259). -/
def execJobRecordExpiry (h : Nat) (s : State) : Res :=
  .next { s with jobs := s.jobs.filter (fun j => decide (j.handle ≠ h) || decide (j.state = 0)) }

end Sys2Proof.Machine
end

