-- ==== Sys2Proof/Machine/Amp.lean ====
section
/-! DEFINITION. Amplifier channels (R403–R418): the sample path and the mute gain, release with frequency assignment, clean stop, silence, faults. -/

namespace Sys2Proof.Machine

def ampOf (s : State) (c : Nat) : AmpSt := smapGet (fun _ => ampIdle) s.amps c
def setAmp (c : Nat) (x : AmpSt) (s : State) : State := { s with amps := smapSet (fun _ => ampIdle) c x s.amps }

/-- The state of a channel (Table 16.5). -/
def ampState (s : State) (c : Nat) : Nat := fld s Fld.AMP_STATE_STATE c
def ampEn (s : State) (c : Nat) : Bool := fbit s Fld.AMP_CFG_EN c

/-- The channels of a group, and all channels. -/
def ampGroup (g : Nat) : List Nat := (List.range 4).map (fun i => 4 * g + i)
def allAmps : List Nat := List.range 32

/-- Whether the commands of a channel switch. -/
def ampSwitching (s : State) (c : Nat) : Bool := [3, 4, 5, 7].contains (ampState s c)

/-- Show the state of a group (Table 16.12). -/
def showGroup (g : Nat) (s : State) : State :=
  let st := (ampGroup g).map (ampState s)
  setFld Fld.AMP_GROUP_STATUS_STATE g
    (if st.contains 5 then 3 else if st.contains 2 ∨ st.contains 3 then 1 else if st.contains 4 ∨ st.contains 7 then 2 else 0) s

/-- Put a channel into a state. -/
def setAmpState (c n : Nat) (s : State) : State := showGroup (c / 4) (setFld Fld.AMP_STATE_STATE c n s)

/-- The state of a channel that does not switch. -/
def restState (s : State) (c : Nat) : Nat := if ampEn s c then 1 else 0

/-- Whether the amplifier controllers have power and are released. -/
def ampsLive (s : State) : Bool := decide (s.mode ≠ .off ∧ s.mode ≠ .standby ∧ s.power.boot = 0)

/-! ### Override destinations (R414, R435) -/

/-- The channels that are targets of a route in effect for compute frame `b`. -/
def ovrAmps (s : State) (b : Nat) : List Nat :=
  let routes := routesAt s b
  if routes = 0 then []
  else (outsAt s b).filterMap (fun x => match x.2.dest with
    | .amp n => if 0 < x.2.sink ∧ testBit routes (x.2.sink - 1) then some n else none
    | _ => none)

/-- Whether a channel is an override destination at this moment. -/
def ovrDest (s : State) (c : Nat) : Bool := (ovrAmps s s.frame).contains c

/-! ### Stage-4 gain (R404, R411, R414) -/

/-- Whether the gain is to be 1: an override's samples; else not in SAFE, and not muted. The shutdown sequence takes it to 0 (R451). -/
def gainWanted (s : State) (c : Nat) : Bool :=
  let x := ampOf s c
  if 3 ≤ s.power.shut.phase then false
  else if x.ovr then true
  else if s.mode = .safe then false
  else !x.mute

/-- Start the ramp toward the gain that is wanted, from the present gain. -/
def gainGo (c : Nat) (s : State) : State :=
  let x := ampOf s c
  if ampState s c ≠ 4 then s
  else if gainWanted s c then (if x.gain = 0 ∨ x.gain = 3 then setAmp c { x with gain := 2 } s else s)
  else if x.gain = 1 ∨ x.gain = 2 then setAmp c { x with gain := 3 } s
  else s

/-- A direct write of MUTE applies from the next sample that leaves the look-ahead. -/
def muteNow (c : Nat) (s : State) : State :=
  gainGo c (setAmp c { ampOf s c with mute := fbit s Fld.AMP_CFG_MUTE c, muteAt := none } s)

/-- A tap at boundary `b` that changes MUTE applies with the samples of compute frame `b`. DEDUCED: log entry 67. -/
def muteTap (c b : Nat) (s : State) : State :=
  setAmp c { ampOf s c with muteAt := some (b, fbit s Fld.AMP_CFG_MUTE c) } s

/-! ### The sample path (R403, R404) -/

/-- Samples in the look-ahead of 2 ms; the fraction is realised by stage 6. -/
def lookAhead (fs : Nat) : Nat := 2 * fsHz fs / 1000

/-- Stage 3: the clamp to ±MI_MAX × 1 FS. -/
def clampAmp (mi : Nat) (v : Int) : Int := max (-(mi * 2 ^ 32 : Nat)) (min (mi * 2 ^ 32 : Nat) v)

/-- A sample leaves the look-ahead. -/
def ampExit (c : Nat) (e : AmpSample) (s : State) : State :=
  let x := ampOf s c
  let v := e.v.toInt
  let y := clampAmp (fld s Fld.AMP_CFG_MI_MAX c) v
  let s := setAmp c { x with path := y, ovr := e.ovr, mute := e.mute.getD x.mute } s
  let s := if y ≠ v then countFld Fld.AMP_COUNTS_CLIP c (setBit Fld.AMP_FAULT_CLIP c s) else s
  gainGo c s

/-- Whether a sample's magnitude lies below the threshold of a channel's silence detector, THRESH dB below full scale (R165). -/
def ampQuiet (s : State) (c : Nat) (v : S48) : Bool :=
  decide (v.toInt.natAbs ^ 20 * 10 ^ fld s Fld.AMP_SIL_CFG_THRESH c < 2 ^ 800)

/-- Whether every sample has stayed below the threshold for the hold time, HOLD × 10 ms (R165). -/
def ampHeld (s : State) (c : Nat) : Bool :=
  decide (fld s Fld.AMP_SIL_CFG_HOLD c * fsHz s.fs ≤ (ampOf s c).quiet * 100)

/-- The sample of compute frame `f` enters the look-ahead of channel `c`, and the one 2 ms old leaves it. A standby fills its look-ahead as the main does, while its
channels stand still (R368, R374). -/
def ampEnter (f : Nat) (ovr : List Nat) (c : Nat) (s : State) : State :=
  let x := ampOf s c
  let isOvr := ovr.contains c
  let live := decide (s.mode = .run) || decide (s.mode = .shadow) || (decide (s.mode = .safe) && isOvr)
  let v := if live then (outOf s (destKey (.amp c))).present else 0
  let mute := match x.muteAt with
    | some (b, m) => if b ≤ f then some m else none
    | none => none
  let samples := ⟨v, isOvr, mute⟩ :: x.line
  let n := lookAhead s.fs
  let s := setAmp c { x with line := samples.take n, quiet := if ampQuiet s c v then x.quiet + 1 else 0, muteAt := if mute.isSome then none else x.muteAt } s
  match samples[n]? with
  | some e => ampExit c e s
  | none => s

/-- Samples of compute frame `b` − 2 enter at boundary `b` (R403). DEDUCED: log entry 67. -/
def ampSamples (b : Nat) (s : State) : State :=
  let ovr := ovrAmps s (b - 2)
  forEach allAmps (ampEnter (b - 2) ovr) s

/-! ### Diagnostics: their end (R422, R425) -/

/-- The bytes of a diagnostic result. -/
def ampDiagBytes (c : Nat) (d : AmpDiag) : List Byte :=
  beBytes 1 c ++ beBytes 1 d.test ++ beBytes 1 d.outcome ++ beBytes 1 d.cls ++ beBytes 8 d.frame ++ beBytes 1 d.entries.length ++ [0, 0, 0] ++
    d.entries.flatMap (fun e => beBytes 4 e.freq ++ beBytes 4 e.zmag ++ beBytes 2 e.zph ++ beBytes 2 e.flags)

/-- The job of a diagnostic ends when no channel of it is under test any more. -/
def diagJobCheck (h : Nat) (s : State) : State :=
  match jobOf s h with
  | none => s
  | some j => match j.work with
    | .diag mask test =>
      if j.state = 0 ∧ allAmps.all (fun c => match (ampOf s c).test with
          | some t => decide (t.job ≠ h)
          | none => true) then
        endJob h (if j.cancel then 3 else 1) (if j.cancel then 2 else 0) 0 0 (raise 0x94 mask test s)
      else s
    | _ => s

/-- End the test of a channel with an outcome; the channel returns to where it was. -/
def testEnd (c outcome cls : Nat) (s : State) : State :=
  let x := ampOf s c
  match x.test with
  | none => s
  | some t =>
    let s := setAmp c { x with test := none, diag := some ⟨t.test, outcome, cls, s.frame, t.done⟩ } s
    let s := if ampState s c = 7 then (if t.was then gainGo c (setAmpState c 4 s) else setAmp c { ampOf s c with stopReq := true } s)
      else if t.was then s else setAmp c { ampOf s c with stopReq := true } s
    diagJobCheck t.job s

/-- Abort the test of a channel. DEDUCED: log entry 70. -/
def testAbort (c : Nat) (s : State) : State := testEnd c 2 0 s

/-! ### Frequencies (R409, R410) -/

/-- The carrier window in Hz of a locked or free channel at `f` kHz. -/
def carrierWindow (locked : Bool) (f : Nat) : Nat × Nat := if locked then (1000 * f, 1000 * f) else (980 * f, 1020 * f)

/-- Whether a window passes a band entry at harmonic `k`. -/
def bandPasses (s : State) (i : Nat) (locked : Bool) (w : Nat × Nat) (k : Nat) : Bool :=
  let lo := 100 * fld s Fld.BAND_RANGE_LO i
  let hi := 100 * fld s Fld.BAND_RANGE_HI i
  let out := decide (k * w.2 < lo ∨ hi < k * w.1)
  if out ∨ ¬ (fbit s Fld.BAND_CFG_TYPE i ∧ locked) then out
  else
    let sp := 100 * fld s Fld.BAND_CFG_SPACING i
    let g := 100 * fld s Fld.BAND_CFG_GUARD i
    let f := k * w.1
    if sp = 0 then decide (g ≤ f - lo)
    else
      let m := (f - lo) / sp
      let below := f - (lo + m * sp)
      let above := lo + (m + 1) * sp - f
      decide (g ≤ below) && (decide (hi < lo + (m + 1) * sp) || decide (g ≤ above))

/-- Whether a window passes the band table for the harmonics 1 to 5. -/
def bandsPass (s : State) (locked : Bool) (w : Nat × Nat) : Bool :=
  !fbit s Fld.AMP_GCTRL_BAND_EN || (List.range 16).all (fun i =>
    !fbit s Fld.BAND_CFG_EN i || [1, 2, 3, 4, 5].all (bandPasses s i locked w))

/-- Two carriers: locked flag and window each. -/
def carriersFit (a b : Bool × (Nat × Nat)) : Bool :=
  (a.1 && b.1 && decide (a.2 = b.2)) || decide (a.2.2 + 25000 ≤ b.2.1) || decide (b.2.2 + 25000 ≤ a.2.1)

/-- The offsets 0, +1, −1, +2, −2, … -/
def assignOffsets : List Int := 0 :: (List.range 700).flatMap (fun (i : Nat) => [Int.ofNat (i + 1), -Int.ofNat (i + 1)])

/-- The first frequency that fits, tried while target + d lies in 300–1,000 kHz. DEDUCED: log entry 68. -/
def searchFreq (s : State) (locked : Bool) (fixed : List (Bool × (Nat × Nat))) (target : Nat) : List Int → Option Nat
  | [] => none
  | d :: rest =>
    let f := (target : Int) + d
    if f < 300 ∨ 1000 < f then none
    else
      let w := carrierWindow locked f.toNat
      if bandsPass s locked w ∧ fixed.all (carriersFit (locked, w)) then some f.toNat else searchFreq s locked fixed target rest

/-- The windows of the running channels. -/
def fixedWindows (s : State) : List (Bool × (Nat × Nat)) :=
  (allAmps.filter (ampSwitching s)).map (fun c =>
    let l := (ampOf s c).sync
    (l, carrierWindow l (fld s Fld.AMP_FSW_FSW_ACT c)))

/-! ### Faults (R418) -/

/-- The W1C field of a cause (Table 16.11). -/
def causeField (cause : Nat) : RegField :=
  match cause with
  | 1 => Fld.AMP_FAULT_DRIVER
  | 2 => Fld.AMP_FAULT_SHORT
  | 3 => Fld.AMP_FAULT_LOOP
  | 4 => Fld.AMP_FAULT_DC
  | 5 => Fld.AMP_FAULT_ENERGY_CUT
  | _ => Fld.AMP_FAULT_NO_FREQ

/-- A fault stops one channel without a ramp: commands and ENABLE low, bit and CAUSE set, counted; a test on it is aborted. DEDUCED: log entry 68. -/
def faultStop (c cause : Nat) (s : State) : State :=
  let s := countFld Fld.AMP_COUNTS_FAULT c (setBit (causeField cause) c s)
  let old := fld s Fld.AMP_FAULT_CAUSE c
  let s := setFld Fld.AMP_FAULT_CAUSE c (if old = 0 then cause else min old cause) s
  let s := clrBit Fld.AMP_STATE_LOCKED c (clrBit Fld.AMP_STATE_ENABLE c (setAmpState c 6 s))
  testAbort c (setAmp c { ampOf s c with ready := false, quick := false, stopReq := false, gain := 0, side := false } s)

/-! ### Release (R411) -/

/-- Whether the limits let a channel be released (R421). -/
def limitsLet (s : State) (c : Nat) : Bool := !fbit s Fld.AMP_GCTRL_REQUIRE_LIMIT || fbit s Fld.LIM_STATUS_ARMED c

/-- Begin the release of a stopped channel: ENABLE high, then WAKE_SETTLE. -/
def beginRelease (quick ready : Bool) (c : Nat) (s : State) : State :=
  if ampState s c ≠ 1 ∨ ¬ limitsLet s c then s
  else
    setAmp c { ampOf s c with ready := ready, quick := quick, stopReq := false, gain := 0 } (setBit Fld.AMP_STATE_ENABLE c (setAmpState c 2 s))

/-- Release in RUN every EN channel that is stopped, unless its group sleeps or the sequencer shuts down. DEDUCED: log entry 70. -/
def ampTrigger (s : State) : State :=
  if s.mode ≠ .run ∨ s.power.shut.phase ≠ 0 then s
  else forEach allAmps (fun c s =>
    if ampEn s c ∧ ¬ fbit s Fld.AMP_SIL_STATUS_ASLEEP c then beginRelease (ampOf s c).quick false c s else s) s

/-- End a group's sleep. -/
def wakeGroup (g : Nat) (s : State) : State := forEach (ampGroup g) (fun c s => clrBit Fld.AMP_SIL_STATUS_ASLEEP c s) s

/-- An override that takes effect wakes the groups of its destinations and aborts their tests (R166, R422, R435). -/
def ovrWake (b : Nat) (s : State) : State :=
  let d := ovrAmps s b
  if d = [] ∨ 3 ≤ s.power.shut.phase then s
  else
    let s := forEach d testAbort s
    if ¬ (s.mode = .run ∨ s.mode = .safe) then s
    else forEach (List.range 8) (fun g s =>
      if (ampGroup g).any (fun c => d.contains c) then
        forEach (ampGroup g) (fun c s => if ampEn s c then beginRelease false false c s else s) (wakeGroup g s)
      else s) s

/-- WAKE_SETTLE_END: the group waits for the next boundary. -/
def wakeSettleEnd (g : Nat) (s : State) : State :=
  forEach (ampGroup g) (fun c s => if ampState s c = 2 then setAmp c { ampOf s c with ready := true } s else s) s

def execWakeSettleEnd (group : Fin 8) (s : State) : Res := .next (wakeSettleEnd group.val s)

/-- Start a channel at a boundary: 50 % duty, the high side first; the trims follow FSW_ACT and FILTER_FC (R405). -/
def startChannel (locked moved : Bool) (f c : Nat) (s : State) : State :=
  let s := setFld Fld.AMP_FSW_FSW_ACT c f (setFld Fld.AMP_FSW_MOVED c (bnat moved) (clrBit Fld.AMP_FSW_PENDING c s))
  setAmpState c 3 (clrBit Fld.AMP_STATE_LOCKED c
    (setAmp c { ampOf s c with ready := false, side := true, sync := locked, gain := 0, trims := (250 * f, 125 * f / 2, 1200 * fld s Fld.AMP_LOOP_FILTER_FC c) } s))

/-- An assignment that finds no frequency. -/
def noFreq (c : Nat) (s : State) : State := faultStop c 6 (setBit Fld.AMP_GSTATUS_NO_FREQ_STICKY 0 s)

/-- Release the ready channels of one group. DEDUCED: log entries 67, 68. -/
def releaseGroup (g : Nat) (s : State) : State :=
  let cs := (ampGroup g).filter (fun c => decide (ampState s c = 2) && (ampOf s c).ready)
  if cs = [] then s
  else
    let locked := fbit s Fld.AMP_GROUP_CFG_SYNC g
    let run := (ampGroup g).filter (ampSwitching s)
    let target := fld s Fld.AMP_GROUP_CFG_GFSW g
    let s := if run = [] then countFld Fld.AMP_GROUP_STATUS_RELEASE_COUNT g s else s
    if locked then
      match run.find? (fun c => (ampOf s c).sync) with
      | some r => forEach cs (startChannel true (fbit s Fld.AMP_FSW_MOVED r) (fld s Fld.AMP_FSW_FSW_ACT r)) s
      | none => match searchFreq s true (fixedWindows s) target assignOffsets with
        | some f => forEach cs (startChannel true (decide (f ≠ target)) f) s
        | none => forEach cs noFreq s
    else forEach cs (fun c s =>
      let t := fld s Fld.AMP_FSW_FSW c
      match searchFreq s false (fixedWindows s) t assignOffsets with
      | some f => startChannel false (decide (f ≠ t)) f c s
      | none => noFreq c s) s

/-- AMP_RELEASE: the boundary at which every channel that waits for it starts, group by group. -/
def execAmpRelease (s : State) : Res := .next (if ampsLive s then forEach (List.range 8) releaseGroup s else s)

/-- CARRIER_LOCK: hold or lock is reached, at a measured frequency in kHz; the gain rises at once on a silence wake, else along its ramp. DEDUCED: log entry 70. -/
def carrierLock (c meas : Nat) (s : State) : State :=
  if ampState s c ≠ 3 then s
  else
    let x := ampOf s c
    let s := setFld Fld.AMP_STATE_FSW_MEAS c meas (setBit Fld.AMP_STATE_LOCKED c s)
    if x.test.isSome then setAmp c { x with quick := false } (setAmpState c 7 s)
    else
      let s := setAmpState c 4 s
      setAmp c { x with quick := false, gain := if ¬ gainWanted s c then 0 else if x.quick then 1 else 2 } s

def execCarrierLock (chan : AmpId) (meas : Nat) (s : State) : Res := .next (carrierLock chan.val meas s)

/-! ### Clean stop (R412, Table 16.4) -/

/-- Ask for the clean stop of a channel at the next boundary; one that does not switch is at rest. -/
def requestStop (c : Nat) (s : State) : State :=
  if ampState s c = 6 then s
  else if ampState s c ≤ 1 then setAmpState c (restState s c) s
  else setAmp c { ampOf s c with stopReq := true } s

/-- A channel starts its stop ramp; one that has not started yet is stopped. DEDUCED: log entry 67. -/
def stopStart (c : Nat) (s : State) : State :=
  let s := testAbort c s
  let x := { ampOf s c with stopReq := false, ready := false }
  if ampState s c = 2 then setAmpState c (restState s c) (setAmp c x s)
  else if [3, 4, 7].contains (ampState s c) then
    setAmpState c 5 (setAmp c { x with gain := if x.gain = 1 ∨ x.gain = 2 then 3 else x.gain } s)
  else setAmp c x s

/-- CLEAN_STOP: the boundary at which the stops that are asked for begin. -/
def execCleanStop (s : State) : Res :=
  .next (forEach (allAmps.filter (fun c => (ampOf s c).stopReq)) stopStart s)

/-- MUTE_RAMP_END: a ramp has ended. A stopping channel's commands go low; a stop that a new release or a test is waiting for is followed by it. -/
def muteRampEnd (c : Nat) (s : State) : State :=
  let x := ampOf s c
  let s := setAmp c { x with gain := if x.gain = 2 then 1 else if x.gain = 3 then 0 else x.gain } s
  if ampState s c ≠ 5 then s
  else
    let s := setAmpState c (restState s c) (clrBit Fld.AMP_STATE_LOCKED c (setAmp c { ampOf s c with gain := 0, side := false } s))
    ampTrigger (if x.test.isSome then beginRelease false false c s else s)

def execMuteRampEnd (chan : AmpId) (s : State) : Res := .next (muteRampEnd chan.val s)

/-! ### Silence (R165, R166) -/

/-- AMP_SILENCE: every sample has stayed below the threshold for the hold time; before that the command changes nothing. -/
def execAmpSilence (chan : AmpId) (s : State) : Res :=
  .next (if ampsLive s && ampHeld s chan.val then setBit Fld.AMP_SIL_STATUS_SILENT chan.val s else s)

/-- GROUP_POWER_DOWN at a boundary: every channel of the group has EN = 1 and is SILENT, none is an override destination or under test. DEDUCED: log entry 70. -/
def groupPowerDown (g : Nat) (s : State) : State :=
  let cs := ampGroup g
  if s.mode = .run ∧ cs.all (fun c => fbit s Fld.AMP_SIL_CFG_EN c && fbit s Fld.AMP_SIL_STATUS_SILENT c && !ovrDest s c && (ampOf s c).test.isNone &&
      !fbit s Fld.AMP_SIL_STATUS_ASLEEP c) then
    forEach cs (fun c s =>
      let s := setBit Fld.AMP_SIL_STATUS_ASLEEP c s
      if ampState s c = 2 then setAmpState c 1 (setAmp c { ampOf s c with ready := false } s)
      else if ampState s c = 3 ∨ ampState s c = 4 then setAmpState c 5 (setAmp c { ampOf s c with gain := 0, stopReq := false } s)
      else s) s
  else s

def execGroupPowerDown (group : Fin 8) (s : State) : Res := .next (groupPowerDown group.val s)

/-- AMP_WAKE: the last sample that entered the delay of a channel is at or above the threshold; a powered-down group wakes whole. -/
def ampWake (c : Nat) (s : State) : State :=
  if ¬ ampsLive s ∨ (ampOf s c).quiet ≠ 0 then s
  else
    let asleep := fbit s Fld.AMP_SIL_STATUS_ASLEEP c
    let s := clrBit Fld.AMP_SIL_STATUS_SILENT c s
    if ¬ asleep then s
    else
      let s := wakeGroup (c / 4) (countFld Fld.AMP_SIL_STATUS_WAKE_COUNT c s)
      ampTrigger (forEach (ampGroup (c / 4)) (fun c s => setAmp c { ampOf s c with quick := true } s) s)

def execAmpWake (chan : AmpId) (s : State) : Res := .next (ampWake chan.val s)

/-! ### Protection (R408, R415–R417) -/

/-- DRIVER_FAULT: AMP_FLTn has been low for 20 ns. -/
def execDriverFault (chan : AmpId) (s : State) : Res :=
  .next (if ampsLive s then faultStop chan.val 1 (raise 0x91 chan.val 0 s) else s)

/-- CURRENT_LIMIT: the present half period ends and the opposite command follows. -/
def currentLimit (c : Nat) (s : State) : State :=
  if fbit s Fld.AMP_CFG_ILIM_EN c ∧ ampSwitching s c then setAmp c { ampOf s c with side := !(ampOf s c).side } s else s

def execCurrentLimit (chan : AmpId) (s : State) : Res := .next (currentLimit chan.val s)

/-- SHORT_FAULT: current limiting in at least half of the periods of SHORT_MS, at a low voltage. -/
def shortFault (c : Nat) (s : State) : State :=
  if fbit s Fld.AMP_CFG_ILIM_EN c ∧ ampSwitching s c then faultStop c 2 (raise 0x93 c 2 s) else s

def execShortFault (chan : AmpId) (s : State) : Res := .next (shortFault chan.val s)

/-- DC_FAULT: the filtered voltage has been above its threshold for DC_TRIP. -/
def dcFault (c : Nat) (s : State) : State :=
  if fbit s Fld.AMP_CFG_DC_EN c ∧ ampsLive s then faultStop c 4 (raise 0x90 c 0 s) else s

def execDcFault (chan : AmpId) (s : State) : Res := .next (dcFault chan.val s)

/-- LOOP_FAULT: an oscillation, or with the acquisition over a carrier out of range. -/
def loopFault (c : Nat) (carrier : Bool) (s : State) : State :=
  if ampSwitching s c ∧ (¬ carrier ∨ fbit s Fld.AMP_STATE_LOCKED c) then faultStop c 3 (raise 0x91 c 0 s) else s

def execLoopFault (chan : AmpId) (carrier : Bool) (s : State) : Res := .next (loopFault chan.val carrier s)

/-! ### Writes that reach the channels (R404, R410, R427) -/

/-- EN of a channel changes by a write or a tap. -/
def enChanged (c : Nat) (s : State) : State :=
  if ampEn s c then (if ampState s c = 0 then ampTrigger (setAmpState c 1 s) else s) else requestStop c s

/-- A change of a frequency setting or of the band table concerns running channels only at their next release. -/
def freqPending (cs : List Nat) (s : State) : State :=
  forEach (cs.filter (ampSwitching s)) (fun c s => setBit Fld.AMP_FSW_PENDING c s) s

/-- What a change of an amplifier register from `old` to what it now holds does. `tap`: made by a tap, at its boundary. -/
def ampRegChanged (a : Nat) (old : Word32) (tap : Option Nat) (s : State) : State :=
  let w := (regWord s a).toNat
  let o := old.toNat
  if w = o then s
  else if 0x40100 ≤ a ∧ a < 0x40900 then
    let c := (a - 0x40100) / 0x40
    let r := (a - 0x40100) % 0x40
    if r = 0 then
      let s := if w % 4 / 2 ≠ o % 4 / 2 then (match tap with
        | some b => muteTap c b s
        | none => muteNow c s) else s
      if w % 2 ≠ o % 2 then enChanged c s else s
    else if r = 8 ∧ w % 1024 ≠ o % 1024 ∧ ¬ (ampOf s c).sync then freqPending [c] s
    else s
  else if 0x41000 ≤ a ∧ a < 0x41080 ∧ a % 16 = 0 then
    freqPending ((ampGroup ((a - 0x41000) / 16)).filter (fun c => decide (w % 2 ≠ o % 2) || (ampOf s c).sync)) s
  else if (0x41100 ≤ a ∧ a < 0x41180) ∨ a = 0x40000 then freqPending allAmps s
  else s

end Sys2Proof.Machine
end

