-- ==== Sys2Proof/Machine/AmpCmd.lean ====
section
/-! DEFINITION. The line-energy limiter (R419–R421), load diagnostics (R422–R425) and the amplifier opcodes (R288, R426). -/

namespace Sys2Proof.Machine

/-! ### Limits (R421) -/

/-- The register of limit `i` of a channel: P100, P1S, V_FS, I_FS, CTRL. -/
def limAddr (c i : Nat) : Nat := 0x43000 + 0x20 * c + 4 * i

/-- The range of limit `i` (Table 16.6). -/
def limRange (i v : Nat) : Bool :=
  match i with
  | 0 => decide (1 ≤ v ∧ v ≤ 10000000)
  | 1 => decide (1 ≤ v ∧ v ≤ 10000000)
  | 2 => decide (1000 ≤ v ∧ v ≤ 400000)
  | 3 => decide (100 ≤ v ∧ v ≤ 100000)
  | _ => true

/-- Show ARMED: all four values are non-zero. -/
def showArmed (c : Nat) (s : State) : State :=
  setFld Fld.LIM_STATUS_ARMED c (bnat ([0, 1, 2, 3].all (fun i => decide ((regWord s (limAddr c i)).toNat ≠ 0)))) s

/-- Store a limit register. -/
def limStore (c i v : Nat) (s : State) : State :=
  let x := ampOf s c
  let v := if i = 4 then v % 4 else v
  ampTrigger (showArmed c (setBit Fld.LIM_STATUS_WRITTEN c (setRegWord (limAddr c i) (BitVec.ofNat 32 v)
    (setAmp c { x with limDone := maskOf (i :: bitList 5 x.limDone) } s))))

/-- A write of limit register `i`: its first write sets it, a later one sets LOCK_VIOL; a value out of range is ignored (R9, R427). DESIGN CHOICE: log entry 69. -/
def limWrite (c i v : Nat) (s : State) : State :=
  if testBit (ampOf s c).limDone i then setBit Fld.LIM_STATUS_LOCK_VIOL c s
  else if limRange i v then limStore c i v s
  else setBit Fld.AMP_GSTATUS_CFG_ERR 0 s

/-- A write of REQUIRE_LIMIT: the first write sets it. -/
def requireWrite (v : Bool) (s : State) : State :=
  if s.reqLimit then setBit Fld.AMP_GSTATUS_LOCK_VIOL 0 s
  else setFld Fld.AMP_GCTRL_REQUIRE_LIMIT 0 (bnat v) { s with reqLimit := true }

/-- LIMIT_REGISTER_WRITE: registers 0–4 of a channel; 5 is REQUIRE_LIMIT. -/
def execLimitRegisterWrite (chan : AmpId) (reg : Fin 6) (value : Word32) (s : State) : Res :=
  .next (if ¬ ampsLive s then s
    else if reg.val = 5 then requireWrite (decide (value.toNat % 2 = 1)) s
    else limWrite chan.val reg.val value.toNat s)

/-- AMP_LIMIT_SET. -/
def ampLimitSet (r : Req) (s : State) : Service :=
  let c := pb r 0
  let v (i : Nat) : Nat := if i = 4 then pb r 20 else rd r.payload (4 + 4 * i) 4
  shaped r 24 [1, 2, 3, 21, 22, 23]
  (need (decide (c < 32)) 0x22 0
  (need (limRange 0 (v 0)) 0x22 4
  (need (limRange 1 (v 1)) 0x22 8
  (need (limRange 2 (v 2)) 0x22 12
  (need (limRange 3 (v 3)) 0x22 16
  (need (decide (v 4 ≤ 3)) 0x22 20
  (need (!fbit s Fld.LIM_STATUS_WRITTEN c) 0x65 c
  (okRep [] (forEach (List.range 5) (fun i s => limStore c i (v i) s) s)))))))))

def execAmpLimitSet (r : Req) (s : State) : Res := .next (serve 0xA02 r (ampLimitSet r) s)

/-! ### Energy (R419, R420) -/

/-- The power of a block in mW: |v × i| in 2^−32 of V_FS × I_FS; a channel that does not switch contributes zero. DESIGN CHOICE: log entry 69. -/
def blockPower (s : State) (c p : Nat) : Nat :=
  if ampSwitching s c then p * fld s Fld.LIM_VFS_VFS c * fld s Fld.LIM_IFS_IFS c / (1000 * 2 ^ 32) else 0

/-- The mean over a window of `n` blocks; blocks before the first are zero. -/
def meanPower (n : Nat) (l : List Nat) : Nat := (l.take n).foldl (· + ·) 0 / n

/-- The limiter of one channel after a block. DEDUCED: log entry 68. DESIGN CHOICE: log entry 110. -/
def energyChannel (c p : Nat) (s : State) : State :=
  let x := ampOf s c
  let blocks := (blockPower s c p :: x.blocks).take 1000
  let p100 := meanPower 100 blocks
  let p1s := meanPower 1000 blocks
  let s := setFld Fld.LIM_E100_P100 c p100 (setFld Fld.LIM_E1S_P1S c p1s (setAmp c { x with blocks := blocks } s))
  if ¬ fbit s Fld.LIM_STATUS_ARMED c then s
  else
    let l100 := fld s Fld.LIM_P100_LIMIT c
    let l1s := fld s Fld.LIM_P1S_LIMIT c
    if (l100 ≤ p100 ∨ l1s ≤ p1s) ∧ ¬ [0, 1, 6].contains (ampState s c) then
      let s := faultStop c 5 (raise 0x92 c (if l100 ≤ p100 then 0 else 1) s)
      countFld Fld.LIM_STATUS_CUT_COUNT c (setBit Fld.LIM_STATUS_CUT c (setAmp c { ampOf s c with hold := true } s))
    else if fbit s Fld.LIM_CTRL_ACTION c then
      let overs := decide (4 * l100 ≤ 5 * p100) || decide (4 * l1s ≤ 5 * p1s)
      let x := ampOf s c
      let gr := if overs then max x.gr (Config.limAttack p100 l100 p1s l1s x.gr) else x.gr - min 50 (Config.limRecover x.gr)
      let red := bnat (decide (0 < gr))
      setFld Fld.AMP_STATE_GAIN_RED c red (setFld Fld.LIM_STATUS_REDUCING c red (setAmp c { x with gr := gr } s))
    else s

/-- ENERGY_BLOCK: a block of 1 ms ends, with the power of each channel. -/
def execEnergyBlock (powers : List Nat) (s : State) : Res :=
  .next (if ampsLive s then forEach allAmps (fun c s => energyChannel c (powers.getD c 0) s) s else s)

/-- Return a FAULT channel to STOPPED and clear its CAUSE. -/
def clearFault (c : Nat) (s : State) : State :=
  setAmpState c (restState s c) (clrBit Fld.LIM_STATUS_CUT c (setFld Fld.AMP_FAULT_CAUSE c 0 s))

/-- ENERGY_CUT_HOLD_END: the 5 s hold of a cut channel ends; it restarts with AUTO_RESTART. -/
def energyHoldEnd (c : Nat) (s : State) : State :=
  if ¬ (ampOf s c).hold then s
  else
    let s := setAmp c { ampOf s c with hold := false } s
    if fbit s Fld.LIM_CTRL_AUTO_RESTART c ∧ ampState s c = 6 ∧ fld s Fld.AMP_FAULT_CAUSE c = 5 then ampTrigger (clearFault c s) else s

def execEnergyCutHoldEnd (chan : AmpId) (s : State) : Res := .next (energyHoldEnd chan.val s)

/-- AMP_FAULT_CLEAR; `low`: the AMP_FLTn inputs that are low. -/
def ampFaultClear (r : Req) (low : Nat) (s : State) : Service :=
  let cs := bitList 32 (rd r.payload 0 4)
  shaped r 4 []
  (need (cs.all (fun c => decide (ampState s c ≠ 6) || !(testBit low c || (ampOf s c).hold))) 0x2F 0
  (okRep [] (ampTrigger (forEach (cs.filter (fun c => decide (ampState s c = 6))) clearFault s))))

def execAmpFaultClear (r : Req) (low : BitVec 32) (s : State) : Res := .next (serve 0xA03 r (ampFaultClear r low.toNat) s)

/-! ### Diagnostics (R422–R425) -/

/-- The expected length of an AMP_DIAG request. -/
def diagLen (r : Req) : Nat :=
  match pb r 4 with
  | 1 => 12 + 12 * pb r 8
  | 2 => 20
  | _ => 12

/-- The entries of a test record: FREQ, ZMIN, ZMAX. -/
def diagTodo (r : Req) : List (Nat × Nat × Nat) :=
  match pb r 4 with
  | 1 => (List.range (pb r 8)).map (fun i => (rd r.payload (12 + 12 * i) 4, rd r.payload (16 + 12 * i) 4, rd r.payload (20 + 12 * i) 4))
  | 2 => [(40, 0, 0), (4000, 0, 0)]
  | _ => [(0, 0, 0)]

/-- The payload offset of a value of a test record that is out of range (R424). -/
def diagBad (r : Req) : Option Nat :=
  let t := pb r 4
  let level (o : Nat) : Option Nat := if 20 ≤ pb r o ∧ pb r o ≤ 60 then none else some o
  if t = 1 then
    (if pb r 8 = 0 ∨ 8 < pb r 8 then some 8
     else match level 9 with
      | some o => some o
      | none => if pb r 10 ≠ 0 then some 10 else if pb r 11 ≠ 0 then some 11
        else ((List.range (pb r 8)).find? (fun i => let f := rd r.payload (12 + 12 * i) 4
          decide (f < 10 ∨ 40000 < f))).map (fun i => 12 + 12 * i))
  else if t = 2 then
    (match level 8 with
     | some o => some o
     | none => [9, 10, 11].find? (fun o => decide (pb r o ≠ 0)))
  else [8, 9, 10, 11].find? (fun o => decide (pb r o ≠ 0))

/-- Whether a channel may be tested (R422). -/
def diagMay (s : State) (c : Nat) : Bool :=
  decide (fld s Fld.LIM_VFS_VFS c ≠ 0 ∧ fld s Fld.LIM_IFS_IFS c ≠ 0 ∧ ampState s c ≠ 6) && (ampOf s c).test.isNone && !ovrDest s c &&
    (decide (s.mode ≠ .run ∧ s.mode ≠ .safe) || (fbit s Fld.AMP_CFG_MUTE c && decide ((ampOf s c).gain = 0)))

/-- Put a channel under test: a running one at once, a stopped one through a release; one that cannot be released is aborted. -/
def diagStart (r : Req) (h c : Nat) (s : State) : State :=
  let was := decide (ampState s c = 4)
  let t := pb r 4
  let x : AmpTest := ⟨h, t, diagTodo r, if t = 2 then rd r.payload 12 4 else 0, if t = 2 then rd r.payload 16 4 else 0, [], was⟩
  let s := setAmp c { ampOf s c with test := some x } s
  if was then setAmpState c 7 s else beginRelease false false c s

/-- AMP_DIAG. -/
def ampDiag (r : Req) (h : Nat) (s : State) : Service :=
  let cs := bitList 32 (rd r.payload 0 4)
  if r.payload.length < 12 then errRep 0x21 12
  else if pb r 4 = 0 ∨ 3 < pb r 4 then errRep 0x22 4
  else shaped r (diagLen r) [5, 6, 7]
    (match diagBad r with
     | some o => errRep 0x22 o
     | none =>
      need (cs.all (diagMay s)) 0x2F 0
      (startJob r h (.diag (rd r.payload 0 4) (pb r 4)) (fun h s =>
        let s := forEach cs (diagStart r h) s
        let s := forEach (cs.filter (fun c => [0, 1, 6].contains (ampState s c))) testAbort s
        diagJobCheck h s) s))

def execAmpDiag (r : Req) (h : Nat) (s : State) : Res := .next (serve 0xA00 r (ampDiag r h) s)

/-- The class of a finished test (R423, R425). -/
def diagClass (s : State) (c : Nat) (t : AmpTest) (done : List AmpEntry) : Nat :=
  if t.test = 3 then
    (match done.head? with
     | some e => if fld s Fld.AMP_PROT_DC_THRESH c * fld s Fld.LIM_VFS_VFS c < 2 * (signOf 32 e.zmag).natAbs then 5 else 0
     | none => 0)
  else if done.all (fun e => e.noCurrent) then 1
  else if t.test = 2 then
    (if done.any (fun e => decide (e.zmag < t.shortM)) then 2
     else if done.all (fun e => decide (e.zmag < t.openM)) then 0 else 1)
  else if done.any (fun e => testBit e.flags 1) then 3
  else if done.any (fun e => testBit e.flags 0) then 4
  else 0

/-- AMP_TEST_STEP: one measurement of a channel under test ends: |Z| in mΩ (TEST 3: the offset in µV), its phase in 0.01°, and the peak test current in
millionths of I_FS. DESIGN CHOICE: log entry 69. -/
def testStep (c : Nat) (zmag : Word32) (zph : BitVec 16) (current : Nat) (s : State) : State :=
  let x := ampOf s c
  match x.test with
  | none => s
  | some t => match t.todo with
    | [] => s
    | (f, lo, hi) :: rest =>
      if ampState s c ≠ 7 then s
      else
        let z := zmag.toNat
        let flags := if t.test = 3 then 0
          else (if t.test = 1 ∧ z < lo then 1 else 0) + (if t.test = 1 ∧ hi < z then 2 else 0) + (if current < 10000 then 4 else 0)
        let e : AmpEntry := ⟨f, z, if t.test = 3 then 0 else zph.toNat, flags, decide (t.test ≠ 3 ∧ current < 5000)⟩
        let t := { t with todo := rest, done := t.done ++ [e] }
        let s := setAmp c { x with test := some t } s
        if rest ≠ [] then s
        else
          let cls := diagClass s c t t.done
          let s := if cls = 1 ∨ cls = 2 then raise 0x93 c cls (setBit Fld.AMP_FAULT_LOAD c s) else s
          testEnd c (if cls = 0 then 0 else 1) cls s

def execAmpTestStep (chan : AmpId) (zmag : Word32) (zph : BitVec 16) (current : Nat) (s : State) : Res :=
  .next (testStep chan.val zmag zph current s)

/-- AMP_DIAG_READ. -/
def ampDiagRead (r : Req) (s : State) : Service :=
  shaped r 4 [1, 2, 3]
  (need (decide (pb r 0 < 32)) 0x22 0
  (match (ampOf s (pb r 0)).diag with
   | none => errRep 0x45 0
   | some d => okRep (ampDiagBytes (pb r 0) d) s))

def execAmpDiagRead (r : Req) (s : State) : Res := .next (serve 0xA01 r (ampDiagRead r) s)

/-! ### AMP_STATUS (R426) -/

/-- The status record; `dc`: the output of the filter of R417 in mV. -/
def ampRecord (s : State) (c : Nat) (dc : Word32) : List Byte :=
  let x := ampOf s c
  let flags := bnat (fbit s Fld.AMP_SIL_STATUS_ASLEEP c) + 2 * bnat (fbit s Fld.LIM_STATUS_ARMED c) + 4 * bnat (fbit s Fld.AMP_STATE_LOCKED c) +
    8 * bnat (ovrDest s c) + 16 * bnat (fbit s Fld.AMP_FSW_PENDING c) + 32 * bnat (fbit s Fld.AMP_FSW_MOVED c)
  beBytes 1 c ++ beBytes 1 (ampState s c) ++ beBytes 2 (bitsOf 10 0 (regWord s (0x40114 + 0x40 * c)).toNat) ++
    beBytes 2 (fld s Fld.AMP_FSW_FSW_ACT c) ++ beBytes 2 (fld s Fld.AMP_STATE_FSW_MEAS c) ++ beBytes 4 (fld s Fld.LIM_E100_P100 c) ++
    beBytes 4 (fld s Fld.LIM_E1S_P1S c) ++ beBytes 4 dc.toNat ++ beBytes 2 (fld s Fld.AMP_COUNTS_CLIP c) ++ beBytes 2 x.gr ++ beBytes 2 flags ++
    List.replicate 6 0

def ampStatus (r : Req) (dc : Word32) (s : State) : Service :=
  shaped r 4 [1, 2, 3] (need (decide (pb r 0 < 32)) 0x22 0 (okRep (ampRecord s (pb r 0) dc) s))

def execAmpStatus (r : Req) (dc : Word32) (s : State) : Res := .next (serve 0xA04 r (ampStatus r dc) s)

end Sys2Proof.Machine
end

