-- ==== Sys2Proof/Machine/Avs.lean ====
section
/-! DEFINITION. The VCORE setpoint (R36–R38, R466): its change, the write to the regulator that follows it, the 0.60 V floor, raises and lowerings. Setpoints
are in half millivolts. -/

namespace Sys2Proof.Machine

/-- VMIN, VMAX (R55) and AVS_IDLE_MV (R38). -/
def avsMin (s : State) : Nat := 2 * fld s Fld.AVS_LIMITS_VMIN
def avsMax (s : State) : Nat := 2 * fld s Fld.AVS_LIMITS_VMAX
def avsIdle : Nat := 1500
/-- 0.60 V. -/
def avsCert : Nat := 1200

/-- A write of the regulator, or the newest value to be written after the one in flight (R466). -/
def avsSend (v : Nat) (s : State) : State :=
  if ¬ fbit s Fld.AVS_IF_CTRL_IF_EN then s
  else match s.power.avsBusy with
    | none => { s with power := { s.power with avsBusy := some v, avsTries := 0 } }
    | some _ => { s with power := { s.power with avsNext := some v } }

/-- A new AVS window begins (R35, R36). -/
def avsWindow (s : State) : State :=
  setFld Fld.SLACK_WINDOW_SLACK 0 0xFFF (setFld Fld.SLACK_WINDOW_UNIT 0 0x7FF { s with fg := { s.fg with winFrames := 0, winAbove := true } })

/-- Show the setpoint. -/
def showSetpoint (s : State) : State :=
  setFld Fld.AVS_STATUS_SETPOINT 0 (s.fg.setHalf / 2) (setFld Fld.AVS_STATUS_BELOW_CERT 0 (bnat (decide (s.fg.setHalf < avsCert))) s)

/-- The setpoint becomes `h` (R36, R466). -/
def putSetpoint (h : Nat) (s : State) : State :=
  if h = s.fg.setHalf then s
  else avsSend (h + 2 * fld s Fld.AVS_IF_CTRL_VOFS)
    (clrBit Fld.AVS_STATUS_AT_VMAX 0 (avsWindow (showSetpoint { s with fg := { s.fg with setHalf := h } })))

/-- The floor of R38 comes into force: the setpoint is 0.60 V or higher outside CONFIGURE. -/
def avsFloorOn (s : State) : State :=
  let s := setBit Fld.AVS_STATUS_TAP_FLOOR 0 s
  if s.mode ≠ .configure ∧ s.fg.setHalf < avsCert then putSetpoint avsCert s else s

/-- A raise at boundary `b` to at least `h` (R36): at VMAX it holds, and reports the minimum slack. -/
def avsRaise (b h slack : Nat) (s : State) : State :=
  if avsMax s ≤ s.fg.setHalf then raiseAt b 5 (s.fg.setHalf / 2) slack (setBit Fld.AVS_STATUS_AT_VMAX 0 s)
  else putSetpoint (min (avsMax s) (max h avsCert)) { s with fg := { s.fg with lastRaise := some s.tick } }

/-- The first row of Table 2.3 at boundary `b`: a unit of frame b − 1 is late. DEDUCED: log entry 101. -/
def avsLate (b : Nat) (s : State) : State :=
  if (s.mode = .run ∨ s.mode = .shadow) ∧ fbit s Fld.AVS_CTRL_ENABLE then
    avsRaise b (s.fg.setHalf + 5 * fld s Fld.AVS_CTRL_STEP_EMERG) (Config.lateSlack b) s
  else s

/-- A STEP_UP raise: at least to 0.60 V, at once below it (R37), else RAISE_INTERVAL µs after the last raise at the earliest (Table 2.16). DEDUCED: log entry 72. -/
def avsUp (b slack : Nat) (s : State) : State :=
  let due := match s.fg.lastRaise with
    | none => true
    | some k => decide (k + 1000 * fld s Fld.AVS_CTRL_RAISE_INTERVAL ≤ s.tick)
  if s.fg.setHalf < avsCert ∨ avsMax s ≤ s.fg.setHalf ∨ due = true then avsRaise b (s.fg.setHalf + 5 * fld s Fld.AVS_CTRL_STEP_UP) slack s else s

/-- AVS_WINDOW in frames. -/
def avsFrames (s : State) : Nat := 2 ^ (fld s Fld.AVS_CTRL_WINDOW + 4)

/-- The other rows at boundary `b`, which closes a frame with minimum slack `m` (Q12). A frame that was late is answered by its first evaluation alone. DEDUCED: log entry 72. -/
def avsClose (b : Nat) (m : Int) (s : State) : State :=
  if ¬ (s.mode = .run ∨ s.mode = .shadow) then s
  else
    let s := if avsFrames s ≤ s.fg.winFrames then avsWindow s else s
    let s := { s with fg := { s.fg with winFrames := s.fg.winFrames + 1, winAbove := s.fg.winAbove && decide (1434 < m) } }
    if ¬ fbit s Fld.AVS_CTRL_ENABLE ∨ m < 0 ∨ 614 ≤ m then s
    else avsUp b (wrapInt 32 m) s

/-- AVS_WINDOW_END: the window's last frame has closed; with every frame above 35 % the setpoint is lowered by STEP_DOWN, not below VMIN, nor below
a floor in force. -/
def avsWindowEnd (s : State) : State :=
  if ¬ (s.mode = .run ∨ s.mode = .shadow) ∨ s.fg.winFrames < avsFrames s then s
  else if fbit s Fld.AVS_CTRL_ENABLE ∧ s.fg.winAbove then
    let low := if fbit s Fld.AVS_STATUS_TAP_FLOOR then max (avsMin s) avsCert else avsMin s
    avsWindow (putSetpoint (min s.fg.setHalf (max low (s.fg.setHalf - 5 * fld s Fld.AVS_CTRL_STEP_DOWN))) s)
  else avsWindow s

def execAvsWindowEnd (s : State) : Res := .next (avsWindowEnd s)

/-- At entry into RUN or SHADOW the setpoint starts from AVS_IDLE_MV, limited to VMIN–VMAX and raised to a floor (R36, R38). -/
def avsStart (s : State) : State :=
  let h := min (avsMax s) (max (avsMin s) avsIdle)
  avsWindow (putSetpoint (if fbit s Fld.AVS_STATUS_TAP_FLOOR then max h avsCert else h) s)

/-- A change of AVS_LIMITS brings the setpoint back within VMIN–VMAX and to a floor in force, outside CONFIGURE (R36, R38); with ENABLE = 0 it holds. DEDUCED: log entry 125. -/
def avsLimits (s : State) : State :=
  if s.mode = .configure ∨ ¬ fbit s Fld.AVS_CTRL_ENABLE then s
  else
    let h := min (avsMax s) (max (avsMin s) s.fg.setHalf)
    putSetpoint (if fbit s Fld.AVS_STATUS_TAP_FLOOR then max h avsCert else h) s

/-- In CONFIGURE the setpoint is AVS_IDLE_MV. -/
def avsRest (s : State) : State := putSetpoint avsIdle s

/-- A write that waits becomes the write in progress. -/
def avsFollow (s : State) : State := { s with power := { s.power with avsBusy := s.power.avsNext, avsNext := none, avsTries := 0 } }

/-- AVS_PMBUS_WRITE: the write in flight ends, acknowledged with a good PEC or not (R466): after two more tries it fails, and the setpoint returns to
the value last acknowledged unless a newer one waits. DEDUCED: log entry 72. -/
def avsPmbus (ok : Bool) (s : State) : State :=
  match s.power.avsBusy with
  | none => s
  | some v =>
    if ok then
      avsFollow (setFld Fld.AVS_IF_STATUS_ACKED 0 (v / 2) (clrBit Fld.AVS_IF_STATUS_IF_FAULT 0 { s with power := { s.power with avsAcked := some v } }))
    else if s.power.avsTries < 2 then { s with power := { s.power with avsTries := s.power.avsTries + 1 } }
    else
      let s := setBit Fld.AVS_IF_STATUS_IF_FAULT 0 (setBit Fld.AVS_IF_STATUS_NACK_STICKY 0 s)
      let s := match s.power.avsNext, s.power.avsAcked with
        | none, some a => avsWindow (showSetpoint { s with fg := { s.fg with setHalf := a - 2 * fld s Fld.AVS_IF_CTRL_VOFS } })
        | _, _ => s
      avsFollow s

def execAvsPmbusWrite (ok : Bool) (s : State) : Res := .next (avsPmbus ok s)

/-- The VCORE ball voltage of a frame in mV (R467). -/
def vcoreMeas (mv : Nat) (s : State) : State :=
  let low := fld s Fld.VCORE_MEAS_LOWEST
  let s := setFld Fld.VCORE_MEAS_LOWEST 0 (if low = 0 then mv else min low mv) (setFld Fld.VCORE_MEAS_MEAS 0 mv s)
  if 2 * mv + 10 < s.fg.setHalf then setBit Fld.SUPPLY_STATUS_VCORE_LOW 0 s else s

end Sys2Proof.Machine
end

