-- ==== Sys2Proof/Machine/StallWord.lean ====
section
/-! DEFINITION. The encodings of the stall's words (R92, R94, R102, R107): decoder, encoder, and which words are legal. -/

namespace Sys2Proof.Machine

/-- Bits `lo` upward, `n` of them, of a word. -/
def wfield (w : ProgWord) (lo n : Nat) : BitVec n := w.extractLsb' lo n

/-- The instruction that a word encodes; none for an undefined format, an undefined format B opcode, or a non-zero reserved
field of format B (R92, R102). -/
def decodeStallWord (w : ProgWord) : Option StallInstr :=
  match (wfield w 62 2).toNat with
  | 0 => some (.fmtA (wfield w 56 6)
      ⟨wfield w 50 6, wfield w 44 6, wfield w 38 6, decide (wfield w 37 1 = 1), wfield w 32 5⟩
      ⟨wfield w 28 4, ⟨wfield w 20 8, wfield w 16 4, wfield w 14 2, wfield w 0 14⟩⟩)
  | 1 =>
    match (wfield w 56 6).toNat with
    | 0x01 => if wfield w 13 39 = 0 then some (.br (wfield w 52 4) (wfield w 0 13)) else none
    | 0x02 => if wfield w 13 39 = 0 then some (.call (wfield w 52 4) (wfield w 0 13)) else none
    | 0x03 => if wfield w 0 52 = 0 then some (.ret (wfield w 52 4)) else none
    | 0x04 =>
      if wfield w 51 5 = 0 ∧ wfield w 17 23 = 0 then
        some (.repeat_ (decide (wfield w 50 1 = 1)) (decide (wfield w 49 1 = 1)) (wfield w 40 9) (wfield w 0 17))
      else none
    | 0x05 => if wfield w 0 56 = 0 then some .rot else none
    | 0x06 => if wfield w 4 52 = 0 then some (.wait (wfield w 0 4)) else none
    | 0x07 => if wfield w 27 29 = 0 ∧ wfield w 4 12 = 0 then some (.signal (wfield w 16 11) (wfield w 0 4)) else none
    | 0x08 =>
      if wfield w 27 29 = 0 ∧ wfield w 12 4 = 0 ∧ wfield w 6 2 = 0 then
        some (.send (wfield w 16 11) (wfield w 8 4) (wfield w 0 6))
      else none
    | 0x09 => if wfield w 12 44 = 0 ∧ wfield w 6 2 = 0 then some (.recv (wfield w 8 4) (wfield w 0 6)) else none
    | 0x0A => if wfield w 0 56 = 0 then some .sync else none
    | _ => none
  | 2 => some (.fmtC (wfield w 56 6) (wfield w 48 8) (wfield w 0 48))
  | _ => none

/-- A Bool as one bit. -/
def bit1 (b : Bool) : BitVec 1 := if b then 1 else 0

/-- The word of an instruction (R94, R102, R107). -/
def encodeStallWord (i : StallInstr) : ProgWord :=
  match i with
  | .fmtA op f m =>
    0#2 ++ op ++ f.fd ++ f.fs1 ++ f.fs2 ++ bit1 f.sf ++ f.imm5 ++ m.mv ++ m.args.mreg ++ m.args.mp ++ m.args.am ++ m.args.mofs
  | .br c t => 1#2 ++ 0x01#6 ++ c ++ 0#39 ++ t
  | .call c t => 1#2 ++ 0x02#6 ++ c ++ 0#39 ++ t
  | .ret c => 1#2 ++ 0x03#6 ++ c ++ 0#52
  | .repeat_ r d n c => 1#2 ++ 0x04#6 ++ 0#5 ++ bit1 r ++ bit1 d ++ n ++ 0#23 ++ c
  | .rot => 1#2 ++ 0x05#6 ++ 0#56
  | .wait f => 1#2 ++ 0x06#6 ++ 0#52 ++ f
  | .signal u f => 1#2 ++ 0x07#6 ++ 0#29 ++ u ++ 0#12 ++ f
  | .send u sl d => 1#2 ++ 0x08#6 ++ 0#29 ++ u ++ 0#4 ++ sl ++ 0#2 ++ d
  | .recv sl d => 1#2 ++ 0x09#6 ++ 0#44 ++ sl ++ 0#2 ++ d
  | .sync => 1#2 ++ 0x0A#6 ++ 0#56
  | .fmtC op r v => 2#2 ++ op ++ r ++ v

/-- Whether an instruction is legal where the stall stands (R70, R71, R92). -/
def instrLegalAt (st : Stall) (i : StallInstr) : Bool :=
  match i with
  | .fmtA op f m => wordALegal op f m
  | .br c _ => ctlPlace st && (condHolds st c.toNat).isSome
  | .call c _ => ctlPlace st && (condHolds st c.toNat).isSome
  | .ret c => ctlPlace st && (condHolds st c.toNat).isSome
  | .repeat_ _ d n c => ctlPlace st && repeatLegal d n c
  | .rot => !inBody st
  | .wait _ => blockPlace st
  | .signal u _ => decide (u.toNat < 1152)
  | .send u _ _ => blockPlace st && decide (u.toNat < 1024)
  | .recv _ _ => blockPlace st
  | .sync => ctlPlace st
  | .fmtC op r v => wordCLegal op r v

/-- Whether a raw word is legal where the stall stands. -/
def rawWordLegal (st : Stall) (w : ProgWord) : Bool :=
  match decodeStallWord w with
  | some i => instrLegalAt st i
  | none => false

/-- The word at the stall's program counter in its live page (R81). -/
def fetchWord (s : State) (u : Nat) : ProgWord :=
  smapGet (fun _ => 0) s.progMem ((2 * u + bnat (pagesOf s u).live) * 8192 + (stallOf s u).pc.toNat)

end Sys2Proof.Machine
end

