-- ==== Sys2Proof/Machine/Graph.lean ====
section
/-! DEFINITION. Route graphs (R114–R119, R125, R126), the checks of a user kernel object (R122, R146), and the checks of VALIDATE (R116,
R117, R119, R431, R432). -/

namespace Sys2Proof.Machine

/-! ### Graphs -/

/-- Insert or replace an element in a list in rising order of a key. -/
def putBy {α : Type} (key : α → Nat) (x : α) : List α → List α
  | [] => [x]
  | y :: t => if key x < key y then x :: y :: t else if key x = key y then x :: t else y :: putBy key x t


/-- The record at byte `o` as a node (Table 5.4). -/
def readNode (b : List Byte) (o : Nat) : GNode :=
  ⟨rd b o 2, rd b (o + 2) 1, rd b (o + 3) 1, rd b (o + 4) 2, rd b (o + 6) 1, rd b (o + 7) 1, rd b (o + 8) 2, rd b (o + 10) 2,
   rd b (o + 12) 4, rd b (o + 16) 4, rd b (o + 20) 4, rd b (o + 24) 2, rd b (o + 26) 2⟩

/-- Whether a BIND value has the form that Table 5.1 and R363 give its kind. -/
def bindOk (n : GNode) : Bool :=
  match n.kind with
  | 1 | 4 => decide (n.bind < 2 ^ 13 ∧ (n.bind / 32) % 8 = 0)
  | 2 => decide (n.bind < 16)
  | 6 => decide (n.bind < 32)
  | 3 | 5 => decide (n.bind < 2 ^ 22)
  | _ => decide (n.bind = 0)

/-- Whether a PLACE hint names a stall, stable or yard, or is free. -/
def placeOk (p : Nat) : Bool :=
  decide (p = 0xFFFF ∨ p < 0x400 ∨ (0x400 ≤ p ∧ p < 0x480) ∨ (0x800 ≤ p ∧ p < 0x804))

/-- Pin counts of a port, PDM, link or amplifier node (Table 5.1). -/
def kindPinsOk (n : GNode) : Bool :=
  match n.kind with
  | 1 => decide (n.nIn = 0 ∧ 1 ≤ n.nOut ∧ n.nOut ≤ 32)
  | 2 => decide (n.nIn = 0 ∧ 1 ≤ n.nOut ∧ n.nOut ≤ 2)
  | 3 => decide (n.nIn = 0 ∧ 1 ≤ n.nOut ∧ n.nOut ≤ 256)
  | 4 => decide (n.nOut = 0 ∧ 1 ≤ n.nIn ∧ n.nIn ≤ 32)
  | 5 => decide (n.nOut = 0 ∧ 1 ≤ n.nIn ∧ n.nIn ≤ 256)
  | 6 => decide (n.nIn = 1 ∧ n.nOut = 0)
  | _ => true

/-- The offset in a node record of the first field outside its range (R114, R115, R125, R280). -/
def nodeBad (b : List Byte) (o : Nat) : Option Nat :=
  let n := readNode b o
  if 65533 < n.id then some 0
  else if n.kind = 0 ∨ 8 < n.kind then some 2
  else if 15 < n.engine then some 3
  else if (n.kind < 7 ∧ n.kernel ≠ 0) ∨ (n.kind = 8 ∧ ¬ (0x8000 ≤ n.kernel ∧ n.kernel ≤ 0x80FF)) then some 4
  else if 15 < n.segment then some 6
  else if 1 < n.flags then some 7
  else if 1024 < n.nIn ∨ ¬ kindPinsOk n then some 8
  else if 1024 < n.nOut then some 10
  else if ¬ bindOk n then some 12
  else if ¬ placeOk n.place then some 24
  else if 4095 < n.paramSet then some 26
  else if rd b (o + 28) 4 ≠ 0 then some 28
  else none

/-- The record at byte `o` as an edge (Table 5.5). -/
def readEdge (b : List Byte) (o : Nat) : GEdge :=
  ⟨rd b o 4, rd b (o + 4) 2, rd b (o + 6) 2, rd b (o + 8) 2, rd b (o + 10) 2, rd b (o + 12) 2, rd b (o + 14) 1⟩

def edgeBad (b : List Byte) (o : Nat) : Option Nat :=
  let e := readEdge b o
  if 2 ^ 24 ≤ e.id then some 0
  else if 65533 < e.srcNode then some 4
  else if 1023 < e.srcPin then some 6
  else if 65533 < e.dstNode then some 8
  else if 1023 < e.dstPin then some 10
  else if 15 < e.flags then some 14
  else if rd b (o + 15) 1 ≠ 0 then some 15
  else none

/-- The record at byte `o` as a segment (Table 5.6). -/
def readSeg (b : List Byte) (o : Nat) : GSeg := ⟨rd b o 1, rd b (o + 1) 1, rd b (o + 2) 1, rd b (o + 3) 1⟩

def segBad (b : List Byte) (o : Nat) : Option Nat :=
  let x := readSeg b o
  if x.id = 0 ∨ 15 < x.id then some 0
  else if ¬ [1, 2, 4, 8, 16, 32, 64].contains x.div then some 1
  else if ¬ [1, 2, 4, 8].contains x.mul then some 2
  else if x.div ≤ x.phase ∧ x.phase ≠ 0xFF then some 3
  else if rd b (o + 4) 4 ≠ 0 then some 4
  else none

/-- The first offence in `n` records of `size` bytes from byte 4, as a payload offset. -/
def recordsBad (b : List Byte) (size n : Nat) (bad : List Byte → Nat → Option Nat) : Option Nat :=
  (List.range n).findSome? (fun i => (bad b (4 + size * i)).map (fun o => 4 + size * i + o))

/-- Whether an edge has an end on an engine. -/
def touches (g : Graph) (e : Nat) (x : GEdge) : Bool := g.nodes.any (fun n => decide (n.engine = e ∧ (n.id = x.srcNode ∨ n.id = x.dstNode)))

/-- Which node or edge count of the graph passes a limit of Table 5.8. An edge counts at each engine that it touches. DEDUCED: log entry 120. -/
def graphOver (g : Graph) (team : Bool) : Option Nat :=
  let nPer := if team then 65534 else 16384
  let ePer := if team then 524288 else 131072
  if nPer < g.nodes.length then some nPer
  else if ePer < g.edges.length then some ePer
  else if (List.range 16).any (fun e => decide (16384 < (g.nodes.filter (fun n => decide (n.engine = e))).length)) then some 16384
  else if (List.range 16).any (fun e => decide (131072 < (g.edges.filter (fun x => touches g e x)).length)) then some 131072
  else if 15 < g.segs.length then some 16
  else none

/-- Serve a command that adds records to the working graph (R280): all or none (R275). -/
def addRecords (r : Req) (size maxN : Nat) (bad : List Byte → Nat → Option Nat) (add : List Byte → Nat → Graph → Graph)
    (team : State → Bool) (s : State) : Service :=
  let n := rd r.payload 0 2
  if r.payload.length < 4 then errRep 0x21 4
  else if r.payload.length ≠ 4 + size * n then errRep 0x21 (4 + size * n)
  else if rd r.payload 2 2 ≠ 0 then errRep 0x22 2
  else if n = 0 ∨ maxN < n then errRep 0x22 0
  else match recordsBad r.payload size n bad with
    | some o => errRep 0x22 o
    | none =>
      let g := (List.range n).foldl (fun g i => add r.payload (4 + size * i) g) s.work
      match graphOver g (team s) with
      | some k => errRep 0x27 k
      | none => okRep [] { s with work := g }

/-- Whether the engine is a member of a team: it has more than one engine to compile for. -/
def inTeam (s : State) : Bool := fbit s Fld.TEAM_STATUS_REG_IN_TEAM

def graphNode (r : Req) (s : State) : Service :=
  addRecords r 32 511 nodeBad (fun b o g => { g with nodes := putBy GNode.id (readNode b o) g.nodes }) inTeam s

def graphEdge (r : Req) (s : State) : Service :=
  addRecords r 16 1023 edgeBad (fun b o g => { g with edges := putBy GEdge.id (readEdge b o) g.edges }) inTeam s

def graphSegment (r : Req) (s : State) : Service :=
  addRecords r 8 15 segBad (fun b o g => { g with segs := putBy GSeg.id (readSeg b o) g.segs }) inTeam s

def execGraphNode (r : Req) (s : State) : Res := .next (serve 0x200 r (graphNode r) s)
def execGraphEdge (r : Req) (s : State) : Res := .next (serve 0x201 r (graphEdge r) s)
def execGraphSegment (r : Req) (s : State) : Res := .next (serve 0x202 r (graphSegment r) s)

/-- Whether the graph holds the object of a kind with an ID. -/
def graphHas (g : Graph) (kind id : Nat) : Bool :=
  match kind with
  | 1 => (nodeOf g id).isSome
  | 2 => (edgeOf g id).isSome
  | _ => g.segs.any (fun x => decide (x.id = id))

/-- Delete one object; a node takes its edges with it (R280). -/
def graphDrop (kind id : Nat) (g : Graph) : Graph :=
  match kind with
  | 1 => { g with nodes := g.nodes.filter (fun n => decide (n.id ≠ id)),
                  edges := g.edges.filter (fun e => decide (e.srcNode ≠ id ∧ e.dstNode ≠ id)) }
  | 2 => { g with edges := g.edges.filter (fun e => decide (e.id ≠ id)) }
  | _ => { g with segs := g.segs.filter (fun x => decide (x.id ≠ id)) }

/-- GRAPH_DELETE (R280). -/
def graphDelete (r : Req) (s : State) : Service :=
  let n := rd r.payload 2 2
  let kind := pb r 0
  let id (i : Nat) : Nat := rd r.payload (4 + 4 * i) 4
  if r.payload.length < 4 then errRep 0x21 4
  else if r.payload.length ≠ 4 + 4 * n then errRep 0x21 (4 + 4 * n)
  else if pb r 1 ≠ 0 then errRep 0x22 1
  else if kind = 0 ∨ 3 < kind then errRep 0x22 0
  else if n = 0 ∨ 2047 < n then errRep 0x22 2
  else match (List.range n).find? (fun i => !graphHas s.work kind (id i)) with
    | some i => errRep 0x26 (4 + 4 * i)
    | none =>
      match (List.range n).find? (fun i => decide (kind = 3) && s.work.nodes.any (fun x => decide (x.segment = id i))) with
      | some i => errRep 0x22 (4 + 4 * i)
      | none => okRep [] { s with work := (List.range n).foldl (fun g i => graphDrop kind (id i) g) s.work }

def execGraphDelete (r : Req) (s : State) : Res := .next (serve 0x203 r (graphDelete r) s)

/-- GRAPH_CLEAR (R280). -/
def graphClear (r : Req) (s : State) : Service := shaped r 0 [] (okRep [] { s with work := graphEmpty })

def execGraphClear (r : Req) (s : State) : Res := .next (serve 0x204 r (graphClear r) s)

/-! ### User kernels (R122, R125, R280) -/

def kernelOf (s : State) (h : Nat) : Option KernelObj := s.kernels.find? (fun k => decide (k.handle = h))

/-- Whether a graph has a USER node of a kernel. -/
def kernelIn (g : Graph) (h : Nat) : Bool := g.nodes.any (fun n => decide (n.kind = 8 ∧ n.kernel = h))

/-- Word `i` of an object's code. -/
def kWord (b : List Byte) (i : Nat) : ProgWord := BitVec.ofNat 64 (rd b (64 + 8 * i) 8)

/-- The register numbers (Table 4.1) that a field of an arithmetic part names. -/
def fieldRegs (k : OperandKind) (v : BitVec 6) : List Nat :=
  match k with
  | .zero => []
  | .dreg => [v.toNat]
  | .areg => [0x40 + v.toNat]
  | .xreg => [0x98 + v.toNat]
  | .creg => [0x48 + v.toNat]
  | .preg => [0x68 + v.toNat]
  | .accPair => [0x40 + v.toNat / 8, 0x98 + v.toNat % 2]

/-- The register numbers that an arithmetic part names, MACW's coefficient and the index counter's pointer included. -/
def arithRegs (op : BitVec 6) (f : ArithF) : List Nat :=
  match opSig op.toNat with
  | none => []
  | some g => fieldRegs g.fd f.fd ++ fieldRegs g.fs1 f.fs1 ++ fieldRegs g.fs2 f.fs2 ++ (if op.toNat = 0x0B then [0x48 + f.imm5.toNat] else [])

/-- The register numbers that a move names: its register (both of a pair), its pointer, its step register and circular length. -/
def moveRegs (m : MoveF) : List Nat :=
  let k := m.mv.toNat
  let n := m.args.mreg.toNat
  let p := m.args.mp.toNat
  if k = 0 then []
  else if k = 15 then [n, movSource m.args]
  else (if k = 13 ∨ k = 14 then [n, n + 1] else [n]) ++ [0x68 + p] ++
    (if m.args.am.toNat = 1 then [0x78 + m.args.mofs.toNat / 2 ^ 10] else [])

/-- The register numbers that an instruction names. -/
def instrRegs : StallInstr → List Nat
  | .fmtA op f m => arithRegs op f ++ moveRegs m
  | .repeat_ _ rsrc _ count => if rsrc then [count.toNat % 64] else []
  | .fmtC _ reg _ => [reg.toNat]
  | _ => []

/-- The register numbers that an instruction writes, post-modified pointers included. -/
def instrDests : StallInstr → List Nat
  | .fmtA op f m => arithDests op f ++ moveDests m ++ (if movePostMod m then [0x68 + m.args.mp.toNat] else [])
  | .fmtC op reg _ => if op.toNat = 6 then [] else [reg.toNat]
  | _ => []

/-- Whether an object's masks name a register (Table 5.7). SR, RB and LC, which no mask names, may be read. -/
def maskNames (b : List Byte) (n : Nat) : Bool :=
  match classOf n with
  | .d => testBit (rd b 8 8) n
  | .a => testBit (rd b 24 1) (n - 0x40)
  | .c => testBit (rd b 26 4) (n - 0x48)
  | .p => testBit (rd b 34 2) (n - 0x68)
  | .m => testBit (rd b 38 2) (n - 0x78)
  | .l => testBit (rd b 38 2) (n - 0x88)
  | .x => testBit (rd b 40 1) (n - 0x98)
  | .other => true

/-- Whether the word itself is legal, wherever it stands (R92–R107). -/
def plainLegal (i : StallInstr) : Bool :=
  match i with
  | .fmtA op f m => wordALegal op f m
  | .br k _ | .call k _ | .ret k => decide (k.toNat ≤ 0xC)
  | .repeat_ _ d n k => repeatLegal d n k
  | .signal u _ => decide (u.toNat < 1152)
  | .send u _ _ => decide (u.toNat < 1024)
  | .fmtC op r v => wordCLegal op r v
  | _ => true

/-- Whether an instruction is one that a user kernel must not hold (R122, check 2). -/
def kernelForbidden : StallInstr → Bool
  | .send _ _ _ | .recv _ _ | .signal _ _ | .wait _ | .sync => true
  | _ => false

/-- The bodies of the REPEATs of a kernel: first and last word of each. -/
def kernelBodies (ws : List (Option StallInstr)) : List (Nat × Nat) :=
  (ws.zip (List.range ws.length)).filterMap (fun p => match p.1 with
    | some (.repeat_ _ _ len _) => some (p.2 + 1, p.2 + len.toNat)
    | _ => none)

/-- Whether word `i` stands where R70 and R71 forbid its instruction: a control transfer or REPEAT inside a body, or one in the two delay slots of
another. -/
def badPlace (ws : List (Option StallInstr)) (bodies : List (Nat × Nat)) (i : Nat) (x : StallInstr) : Bool :=
  let ctl : StallInstr → Bool
    | .br _ _ | .call _ _ | .ret _ | .repeat_ _ _ _ _ => true
    | _ => false
  let slots : Option StallInstr → Bool
    | some (.br _ _) | some (.call _ _) | some (.ret _) => true
    | _ => false
  let inB := bodies.any (fun p => decide (p.1 ≤ i ∧ i ≤ p.2))
  let inSlot := (decide (1 ≤ i) && slots (ws.getD (i - 1) none)) || (decide (2 ≤ i) && slots (ws.getD (i - 2) none))
  (ctl x && (inB || inSlot)) || (decide (x = .rot) && inB)

/-- The CALL nesting that can be reached from each word on, by the forward-only control flow (R122, check 5): for each word, the greatest depth of
nested CALLs on a path from it. The list is built from the last word back. -/
def callDepths (ws : List (Option StallInstr)) : List Nat :=
  let n := ws.length
  (ws.zip (List.range n)).foldr (fun p acc =>
    let at_ (t : Nat) : Nat := acc.getD (t - (p.2 + 1)) 0
    let next := at_ (p.2 + 1)
    let d := match p.1 with
      | some (.call _ t) => max next (1 + at_ t.toNat)
      | some (.br k t) => if k.toNat = 0 then at_ t.toNat else max next (at_ t.toNat)
      | some (.ret k) => if k.toNat = 0 then 0 else next
      | _ => next
    d :: acc) []

/-- The reason code of the first check of R122 that word `i` of an object fails (Table 5.13). DESIGN CHOICE: log entry 118. -/
def wordReason (b : List Byte) (ws : List (Option StallInstr)) (bodies : List (Nat × Nat)) (depths : List Nat) (i : Nat) : Option Nat :=
  match ws.getD i none with
  | none => some 1
  | some x =>
    let regs := instrRegs x
    if ¬ plainLegal x ∨ badPlace ws bodies i x then some 1
    else if kernelForbidden x then some 2
    else if (match x with
      | .br _ t | .call _ t => decide (t.toNat ≤ i ∨ ws.length < t.toNat)
      | _ => false) then some 3
    else if (match x with
      | .repeat_ _ _ len _ => decide (ws.length < i + 1 + len.toNat)
      | _ => false) then some 4
    else if 3 < depths.getD i 0 then some 5
    else if ¬ regs.all (maskNames b) ∨ (instrDests x).contains 0x68 ∨ (instrDests x).any (fun n => decide (0x74 ≤ n ∧ n ≤ 0x77)) then some 6
    else if regs.any (fun n => decide (32 ≤ n ∧ n < 64) && testBit (rd b 16 8) n) then some 7
    else if (match x with
      | .repeat_ _ rsrc _ _ => rsrc && decide (rd b 44 4 = 0)
      | _ => false) then some 8
    else none

/-- The first failing word and its reason (R122, R146). -/
def kernelFault (b : List Byte) : Option (Nat × Nat) :=
  let n := rd b 2 2
  let ws := (List.range n).map (fun i => decodeStallWord (kWord b i))
  let bodies := kernelBodies ws
  let depths := callDepths ws
  (List.range n).findSome? (fun i => (wordReason b ws bodies depths i).map (fun k => (i, k)))

/-- The offset of the first header field of an object outside its range (Table 5.7). State in D32–D63 is found by check 7 of R122, which reports it. DEDUCED: log entry 120. -/
def kernelHeaderBad (h : Nat) (b : List Byte) : Option Nat :=
  if rd b 0 2 ≠ h then some 0
  else if rd b 2 2 = 0 ∨ 4096 < rd b 2 2 ∨ b.length ≠ 64 + 8 * rd b 2 2 then some 2
  else if 64 < rd b 4 1 then some 4
  else if 64 < rd b 5 1 then some 5
  else if 8192 < rd b 6 2 ∨ rd b 6 2 % 8 ≠ 0 then some 6
  else if testBit (rd b 8 8) 0 then some 8
  else if testBit (rd b 16 8) 0 then some 16
  else if testBit (rd b 34 2) 0 then some 34
  else if testBit (rd b 36 2) 0 ∨ 2 ^ 12 ≤ rd b 36 2 then some 36
  else if 16 ≤ rd b 40 1 then some 40
  else if 1 < rd b 41 1 then some 41
  else if rd b 42 2 ≠ 0 then some 42
  else if 65536 < rd b 44 4 then some 44
  else if rd b 52 8 ≠ 0 ∨ rd b 60 4 ≠ 0 then some 52
  else none

/-- KERNEL_LOAD (R280): chunks gather in a partial object; LAST starts the checks as a job. -/
def kernelLoad (r : Req) (h : Nat) (s : State) : Service :=
  let k := rd r.payload 0 2
  let off := rd r.payload 4 4
  let chunk := r.payload.drop 8
  let have_ := ((s.partials.find? (fun p => decide (p.handle = k))).map KernelObj.bytes).getD []
  let others := s.partials.filter (fun p => decide (p.handle ≠ k))
  if r.payload.length < 9 then errRep 0x21 9
  else if k < 0x8000 ∨ 0x80FF < k then errRep 0x22 0
  else if 1 < pb r 2 then errRep 0x22 2
  else if pb r 3 ≠ 0 then errRep 0x22 3
  else if off ≠ 0 ∧ off ≠ have_.length then .ok (⟨0x22, 0, 4, []⟩, { s with partials := others })
  else
    let all := if off = 0 then chunk else have_ ++ chunk
    if 64 + 8 * 4096 < all.length then errRep 0x27 4096
    else if pb r 2 = 0 then okRep [] { s with partials := ⟨k, all⟩ :: others }
    else if kernelIn s.work k ∨ kernelIn s.live k then errRep 0x44 0
    else if (kernelOf s k).isNone ∧ 256 ≤ s.kernels.length then errRep 0x27 256
    else match kernelHeaderBad k all with
      | some o => errRep 0x22 (8 + o)
      | none => startJob r h (.kernel k all) (fun _ s => { s with partials := others }) s

def execKernelLoad (r : Req) (h : Nat) (s : State) : Res := .next (serve 0x205 r (kernelLoad r h) s)

/-- The step that ends a KERNEL_LOAD job: the object is loaded, or refused with USER_KERNEL_INVALID (R122). -/
def kernelFinish (h k : Nat) (b : List Byte) (s : State) : State :=
  match kernelFault b with
  | some (i, reason) => endJob h 2 0x43 (reason * 2 ^ 24 + i) 0 s
  | none => endJob h 1 0 0 0 { s with kernels := ⟨k, b⟩ :: s.kernels.filter (fun x => decide (x.handle ≠ k)) }

/-- KERNEL_DELETE (R280). -/
def kernelDelete (r : Req) (s : State) : Service :=
  let k := rd r.payload 0 2
  shaped r 4 [2, 3]
    (need (kernelOf s k).isSome 0x26 0
    (need (!kernelIn s.work k && !kernelIn s.live k) 0x44 0
    (okRep [] { s with kernels := s.kernels.filter (fun x => decide (x.handle ≠ k)) })))

def execKernelDelete (r : Req) (s : State) : Res := .next (serve 0x206 r (kernelDelete r) s)

/-! ### VALIDATE (Table 5.9, phase 1) -/

/-- A diagnostic of a graph check. -/
def diagAt (code sev : Nat) (node pin edge value limit : Option Nat) : Diag := ⟨code, sev, none, node, pin, edge, none, value, limit⟩

/-- The pins of a kernel node as Table 5.2 gives them; none when CONFIG or the pins do not fit it: the offending value and the offset of its
field. -/
def kernelPins (n : GNode) : Option (Nat × Nat) :=
  let pins (i o : Nat) : Option (Nat × Nat) := if n.nIn ≠ i then some (n.nIn, 8) else if n.nOut ≠ o then some (n.nOut, 10) else none
  let c0 (lo hi : Nat) (k : Option (Nat × Nat)) : Option (Nat × Nat) := if n.config0 < lo ∨ hi < n.config0 then some (n.config0, 16) else k
  match n.kernel with
  | 1 | 2 | 14 => pins 1 1
  | 3 => c0 1 64 (pins n.config0 1)
  | 4 => c0 1 1024 (if n.config1 = 0 ∨ 512 < n.config1 then some (n.config1, 20) else pins n.config0 n.config1)
  | 5 => c0 1024 65536 (if n.config0 % 1024 ≠ 0 then some (n.config0, 16) else pins 1 1)
  | 6 => c0 0 7 (pins 2 2)
  | 7 => c0 2 64 (pins n.config0 n.config0)
  | 8 => c0 1 1048575 (pins 1 1)
  | 9 => c0 1 16 (pins 1 1)
  | 10 => c0 0 2 (if n.nIn = 1 ∨ n.nIn = 2 then pins n.nIn 1 else some (n.nIn, 8))
  | 11 => c0 1 64 (pins n.config0 0)
  | 12 => c0 0 15 (if n.nIn = 0 ∨ 64 < n.nIn then some (n.nIn, 8) else pins n.nIn n.nIn)
  | 13 => c0 2 256 (pins n.config0 1)
  | _ => none

/-- The checks of one node: kernel known, configuration and pins, CONFIG1 of a port, link or amplifier node (R431), segment defined, one kernel for
each shared parameter set (R147). -/
def nodeDiags (g : Graph) (ks : List KernelObj) (n : GNode) : List Diag :=
  let e (code : Nat) (v l : Option Nat) : List Diag := [diagAt code 2 (some n.id) none none v l]
  (if n.kind = 7 then
    (if n.kernel = 0 ∨ 14 < n.kernel then e 3 (some n.kernel) none
     else match kernelPins n with
      | some (v, o) => e 4 (some v) (some o)
      | none => [])
   else if n.kind = 8 then
    (match ks.find? (fun k => decide (k.handle = n.kernel)) with
     | none => e 3 (some n.kernel) none
     | some k => if n.nIn ≠ rd k.bytes 4 1 then e 4 (some n.nIn) (some 8)
        else if n.nOut ≠ rd k.bytes 5 1 then e 4 (some n.nOut) (some 10) else [])
   else if 4 ≤ n.kind then
    (if 7 < n.config1 ∨ (n.config1 < 4 ∧ n.config1 ≠ 0) then e 4 (some n.config1) (some 20) else [])
   else if n.config1 ≠ 0 then e 4 (some n.config1) (some 20) else []) ++
  (if (segOf g n.segment).isNone then e 9 none none else []) ++
  (if n.paramSet ≠ 0 ∧ g.nodes.any (fun m => decide (m.paramSet = n.paramSet ∧ m.id < n.id ∧ m.kernel ≠ n.kernel)) then
    e 4 (some n.paramSet) (some 26) else [])

/-- The checks of one edge: its nodes and pins, its segment and its delay (R116, R119). -/
def edgeDiags (g : Graph) (x : GEdge) : List Diag :=
  let e (code : Nat) (node pin v l : Option Nat) : List Diag := [diagAt code 2 node pin (some x.id) v l]
  match nodeOf g x.srcNode, nodeOf g x.dstNode with
  | none, _ => e 1 (some x.srcNode) none none none
  | _, none => e 1 (some x.dstNode) none none none
  | some a, some b =>
    (if a.nOut ≤ x.srcPin then e 2 (some a.id) (some x.srcPin) (some x.srcPin) (some a.nOut) else []) ++
    (if b.nIn ≤ x.dstPin then e 2 (some b.id) (some x.dstPin) (some x.dstPin) (some b.nIn) else []) ++
    (let conv := decide (b.kind = 7 ∧ b.kernel = 12)
     let inSeg := if conv then b.config0 % 16 else b.segment
     (if a.segment ≠ inSeg then e 0xA none none (some a.segment) (some inSeg) else []) ++
     (match segOf g a.segment with
      | some sg => if x.delay % sg.div ≠ 0 then e 9 none none none none else []
      | none => []))

/-- A second edge into an input pin is refused (FANIN); an input pin without one reads zero (UNDRIVEN); an output pin without one is noted. -/
def pinDiags (g : Graph) : List Diag :=
  (g.edges.filter (fun x => g.edges.any (fun y => decide (y.dstNode = x.dstNode ∧ y.dstPin = x.dstPin ∧ y.id < x.id)))).map
    (fun x => diagAt 5 2 (some x.dstNode) (some x.dstPin) (some x.id) none none) ++
  g.nodes.flatMap (fun n => ((List.range n.nIn).filter (fun p => !g.edges.any (fun y => decide (y.dstNode = n.id ∧ y.dstPin = p)))).map
    (fun p => diagAt 6 1 (some n.id) (some p) none none none)) ++
  g.nodes.flatMap (fun n => ((List.range n.nOut).filter (fun p => !g.edges.any (fun y => decide (y.srcNode = n.id ∧ y.srcPin = p)))).map
    (fun p => diagAt 7 0 (some n.id) (some p) none none none))

/-- The sink of a node that binds an output: 0 the normal sink, r + 1 the override sink of route r (R431). -/
def nodeSink (n : GNode) : Nat := if 4 ≤ n.kind ∧ n.kind ≤ 6 ∧ 4 ≤ n.config1 then 1 + n.config1 % 4 else 0

/-- The targets that a node binds: port slots, PDM inputs, herd streams, amplifier channels. -/
def nodeBinds (n : GNode) : List (Nat × Nat) :=
  match n.kind with
  | 1 => (List.range n.nOut).map (fun p => (1, 256 * (n.bind % 32) + (n.bind / 256) % 32 + p))
  | 4 => (List.range n.nIn).map (fun p => (1, 256 * (n.bind % 32) + (n.bind / 256) % 32 + p))
  | 2 => [(2, n.bind)]
  | 3 => [(3, n.bind)]
  | 5 => [(5, n.bind)]
  | 6 => [(6, n.bind)]
  | _ => []

/-- Nodes that bind one target with one sink (R116, R431). -/
def bindDiags (g : Graph) : List Diag :=
  (g.nodes.filter (fun n => g.nodes.any (fun m => decide (m.id < n.id ∧ m.engine = n.engine ∧ nodeSink m = nodeSink n) &&
    (nodeBinds m).any (fun b => (nodeBinds n).contains b)))).map (fun n => diagAt 0xB 2 (some n.id) none none (some n.bind) none)

/-- Whether an edge gives its path no frame of delay: DELAY 0 and both ends on one engine (R117). -/
def zeroEdge (g : Graph) (x : GEdge) : Bool :=
  match nodeOf g x.srcNode, nodeOf g x.dstNode with
  | some a, some b => decide (x.delay = 0 ∧ a.engine = b.engine)
  | _, _ => false

/-- Peel off the nodes that no zero-delay edge enters, or none leaves: what remains holds every cycle without delay. -/
def peel : Nat → List GEdge → List Nat → List Nat
  | 0, _, ns => ns
  | k + 1, es, ns =>
    let inn (n : Nat) : Bool := es.any (fun x => decide (x.dstNode = n) && ns.contains x.srcNode)
    let out (n : Nat) : Bool := es.any (fun x => decide (x.srcNode = n) && ns.contains x.dstNode)
    let ns' := ns.filter (fun n => inn n && out n)
    if ns'.length = ns.length then ns else peel k es ns'

/-- Walk zero-delay edges inside `ns`: the nodes passed, latest first. -/
def walk : Nat → List GEdge → List Nat → List Nat → List Nat
  | 0, _, _, acc => acc
  | k + 1, es, ns, acc =>
    match acc with
    | [] => []
    | a :: _ =>
      match es.find? (fun x => decide (x.srcNode = a) && ns.contains x.dstNode) with
      | none => acc
      | some x => if acc.contains x.dstNode then x.dstNode :: acc else walk k es ns (x.dstNode :: acc)

/-- A directed cycle without delay (R117): one edge of it and the number of its nodes. -/
def cycleDiags (g : Graph) : List Diag :=
  let es := g.edges.filter (zeroEdge g)
  let ns := peel (g.nodes.length + 1) es (g.nodes.map GNode.id)
  match ns with
  | [] => []
  | n :: _ =>
    match walk (ns.length + 1) es ns [n] with
    | a :: rest =>
      let cyc := a :: rest.takeWhile (fun k => decide (k ≠ a))
      let x := es.find? (fun x => decide (x.dstNode = a) && cyc.contains x.srcNode)
      [diagAt 8 2 (some a) none (x.map GEdge.id) (some cyc.length) none]
    | [] => []

/-- Whether an edge belongs to an override route. -/
def ovrEdge (x : GEdge) : Bool := testBit x.flags 2

/-- The rules 1 to 4 of Table 17.1 (R432). -/
def ovrDiags (g : Graph) : List Diag :=
  let bad (x : GEdge) (rule : Nat) : Diag := diagAt 0x1A 2 none none (some x.id) (some rule) (some 0xFFFFFFFF)
  let mid (n : GNode) : Bool := decide (n.kind = 7 ∧ (n.kernel = 14 ∨ n.kernel = 13 ∨ (n.kernel = 9 ∧ n.config0 ≤ 4)))
  g.edges.flatMap (fun x =>
    match nodeOf g x.srcNode, nodeOf g x.dstNode with
    | some a, some b =>
      if ovrEdge x then
        (if a.engine ≠ b.engine ∨ ¬ (a.kind = 1 ∨ a.kind = 2 ∨ a.kind = 3 ∨ a.kind = 7) then [bad x 1] else []) ++
        (if a.kind = 7 ∧ ¬ mid a then [bad x 2] else []) ++
        (if x.delay ≠ 0 ∨ a.segment ≠ 0 ∨ b.segment ≠ 0 then [bad x 3] else []) ++
        (if ¬ (mid b ∨ 0 < nodeSink b) then [bad x 4] else [])
      else
        (if (mid a ∧ g.edges.any (fun y => ovrEdge y && decide (y.srcNode = a.id ∨ y.dstNode = a.id))) ∨
            (mid b ∧ g.edges.any (fun y => ovrEdge y && decide (y.srcNode = b.id ∨ y.dstNode = b.id))) then [bad x 2] else []) ++
        (if 0 < nodeSink b then [bad x 4] else [])
    | _, _ => [])

/-- Segments that R49 does not have: a divisor and a multiplier above 1, or a rate above 768 kHz. -/
def segDiags (g : Graph) (hz : Nat) : List Diag :=
  (g.segs.filter (fun x => decide ((1 < x.div ∧ 1 < x.mul) ∨ 768000 < x.mul * hz))).map (fun _ => diagAt 9 2 none none none none none)

/-- What VALIDATE finds in a graph at a base rate (Table 5.9). -/
def validate (g : Graph) (ks : List KernelObj) (hz : Nat) : List Diag :=
  segDiags g hz ++ g.nodes.flatMap (nodeDiags g ks) ++ g.edges.flatMap (edgeDiags g) ++ pinDiags g ++ bindDiags g ++ cycleDiags g ++ ovrDiags g

/-- Edges whose nodes lie on an engine that is not in the team (R139). -/
def absentDiags (g : Graph) (present : List Nat) : List Diag :=
  ((List.range 16).filter (fun e => !present.contains e && g.nodes.any (fun n => decide (n.engine = e)))).map
    (fun e => ⟨0x14, 2, some e, none, none, none, none, some e, none⟩)

end Sys2Proof.Machine
end

