-- ==== Sys2Proof/Machine/Param.lean ====
section
/-! DEFINITION. Parameters (R121, R147–R157, R283): how they are named, encoded and ranged, the words they become, and PARAM_READ (R282). -/

namespace Sys2Proof.Machine

/-! ### Naming (R147) -/

/-- Where a parameter's value is held. -/
def paramKey (owner index : Nat) : Nat := owner * 2 ^ 32 + index

/-- Block and item of an INDEX (R147). -/
def blockOf (index : Nat) : Nat := index / 2 ^ 24
def itemOf (index : Nat) : Nat := index % 2 ^ 24

/-- Whether a parameter is a table parameter (R150, R283). -/
def isTable (n : GNode) (index : Nat) : Bool :=
  decide (blockOf index = 0x90) ||
  (decide (blockOf index = 0xA0 ∧ n.kind = 7 ∧ n.kernel = 6) && decide (0x1000 ≤ itemOf index))

/-! ### Values -/

/-- What a parameter reads as that nothing has written: the defaults of R157, R162, R164 and R169; for others the spec gives none. -/
def paramInit (n : GNode) (index : Nat) : Word32 :=
  match index with
  | 0x00000004 => 0
  | 0x00000005 => 80000
  | 0x00000006 => BitVec.ofInt 32 (-110000)
  | 0x00000007 => 5000000
  | 0x30000000 => 3
  | 0x30000001 => 5000
  | 0x30000002 => 1
  | 0x30000003 => 10000
  | 0x30000004 => 10000
  | 0x40000000 => 1500000
  | 0x40000001 => 20000
  | 0x40000002 => 300000
  | _ => Config.paramDefault n.kernel index

/-- A parameter's value in a set of values, by the node's owner. -/
def paramIn (m : SMap Word32) (n : GNode) (index : Nat) : Word32 :=
  smapGet (fun k => paramInit n (k % 2 ^ 32)) m (paramKey (paramOwner n) index)

/-- Store a value; every value is listed, whatever it is. -/
def paramPut (m : SMap Word32) (n : GNode) (index : Nat) (v : Word32) : SMap Word32 :=
  smapInsert (paramKey (paramOwner n) index) v m

/-! ### Ranges (Tables 5.3, 6.1, 6.2, 6.4, 11.26) -/

/-- A level between two bounds in 1/1,000 dB, off allowed or not. -/
def levelOk (lo hi : Int) (off : Bool) (v : Word32) : Bool :=
  (off && decide (v.toNat = 0x80000000)) || (decide (lo ≤ v.toInt) && decide (v.toInt ≤ hi))

/-- A number between two bounds. -/
def numOk (lo hi : Nat) (v : Word32) : Bool := decide (lo ≤ v.toNat ∧ v.toNat ≤ hi)

/-- The upper bound of an EQ frequency in mHz: the lower of 20 kHz and 0.45 × Fs. -/
def freqTop (s : State) : Nat := min 20000000 (450 * fsHz s.fs)

/-- The kernels of a node: 0 for a node that is not a built-in kernel node. -/
def kernelId (n : GNode) : Nat := if n.kind = 7 then n.kernel else 0

/-- Block 00h (Table 6.1). -/
def block00 (n : GNode) (item : Nat) (v : Word32) : Option Bool :=
  let k := kernelId n
  if item = 0 ∧ [1, 2, 3, 14].contains k then some (levelOk (-144000) 12000 true v)
  else if (item = 1 ∨ item = 2) ∧ [1, 2, 3].contains k then some (numOk 0 1 v)
  else if item = 3 ∧ k = 1 then some (numOk 0 1048575 v)
  else if item = 3 ∧ k = 8 then some (numOk 0 n.config0 v)
  else if k ≠ 1 then none
  else match item with
    | 4 => some (numOk 0 1 v)
    | 5 => some (numOk 10000 200000 v && decide (v.toNat % 1000 = 0))
    | 6 => some (levelOk (-150000) (-40000) false v)
    | 7 => some (numOk 10000 60000000 v)
    | 8 => some (numOk 0 1 v)
    | _ => none

/-- The EQ bands, blocks 01h–10h. -/
def blockBand (s : State) (n : GNode) (band item : Nat) (v : Word32) : Option Bool :=
  let k := kernelId n
  if ¬ ((k = 9 ∧ band ≤ n.config0) ∨ ([1, 2, 3].contains k ∧ band ≤ 8)) then none
  else match item with
    | 0 => some (numOk 0 5 v)
    | 1 => some (numOk 20000 (freqTop s) v)
    | 2 => some (levelOk (-24000) 18000 false v)
    | 3 => some (numOk 100 16000 v)
    | 4 => some (numOk 0 1 v)
    | _ => none

/-- Dynamics, blocks 20h and 21h. The ratio of a limiter is fixed at 100. DESIGN CHOICE: log entry 118. -/
def blockDyn (n : GNode) (blk item : Nat) (v : Word32) : Option Bool :=
  let k := kernelId n
  if blk = 0x20 then
    if ¬ ((k = 10 ∧ n.config0 = 0) ∨ k = 1 ∨ k = 2) then none
    else match item with
      | 0 => some (levelOk (-120000) 0 false v)
      | 5 => some (levelOk 0 90000 false v)
      | 6 => some true
      | _ => none
  else if ¬ ((k = 10 ∧ n.config0 ≠ 0) ∨ k = 1 ∨ k = 2) then none
  else match item with
    | 0 => some (levelOk (-60000) 20000 false v)
    | 1 => some (if k = 10 ∧ n.config0 = 2 then numOk 10000 10000 v else numOk 100 10000 v)
    | 2 => some (numOk 20 500000 v)
    | 3 => some (numOk 5000 5000000 v)
    | 4 => some (levelOk 0 24000 false v)
    | 6 => some true
    | _ => none

/-- Whether a node's kernel has a block that ramps. -/
def hasRamps (n : GNode) : Bool := [1, 2, 3, 4, 6, 7, 8, 9, 10, 14].contains (kernelId n)

/-- Ramps, block 30h (Table 6.4): a time is ranged by the type that the group has, and a type by the time. DEDUCED: log entry 120. -/
def blockRamp (s : State) (n : GNode) (item : Nat) (v : Word32) : Option Bool :=
  let cur (i : Nat) : Nat := (paramIn s.params n (0x30000000 + i)).toNat
  let timeOk (type time : Nat) : Bool := decide (10 ≤ time ∧ time ≤ if type = 2 then 2000000 else 10000000)
  if ¬ hasRamps n then none
  else match item with
    | 0 => some (numOk 0 3 v && timeOk v.toNat (cur 1))
    | 1 => some (timeOk (cur 0) v.toNat)
    | 2 => some (numOk 0 2 v && timeOk v.toNat (cur 3))
    | 3 => some (timeOk (cur 2) v.toNat)
    | 4 => some (numOk 1000 1000000 v)
    | _ => none

/-- Meters, block 40h. -/
def blockMeter (n : GNode) (item : Nat) (v : Word32) : Option Bool :=
  if ¬ (kernelId n = 11 ∨ n.flags % 2 = 1) then none
  else match item with
    | 0 => some (numOk 0 10000000 v)
    | 1 => some (numOk 1000 60000 v)
    | 2 => some (numOk 10000 3000000 v)
    | _ => none

/-- Block A0h (Table 11.26). -/
def blockA0 (s : State) (n : GNode) (item : Nat) (v : Word32) : Option Bool :=
  if kernelId n = 6 then
    match item with
    | 0 => some (numOk 0 500000 v)
    | 1 => some (numOk 100000 30000000 v)
    | 2 => some (numOk 100 1000 v)
    | 3 => some (numOk 0 1000 v)
    | 4 => some (numOk 1000000 (freqTop s) v)
    | 5 => some (numOk 100 1000 v)
    | 6 => some (numOk 50000 1000000 v)
    | 7 => some (numOk 500 2000 v)
    | 8 => some (numOk 0 1000 v)
    | 9 | 10 | 11 | 12 => some (levelOk (-144000) 12000 true v)
    | _ =>
      if 0x1000 ≤ item ∧ item < 0x1080 then some (if item % 2 = 0 then numOk 0 65535 v else true) else none
  else if kernelId n = 7 then
    match item with
    | 0 | 1 | 2 => some (numOk 0 1 v)
    | 3 => some (numOk 1000 100000 v)
    | 4 => some (levelOk (-60000) 0 false v)
    | 5 => some (levelOk 0 30000 false v)
    | 6 => some (numOk 0 5000000 v)
    | _ =>
      let ch := item % 256
      if n.config0 ≤ ch then none
      else match item / 256 with
        | 1 => some (levelOk (-12000) 12000 false v)
        | 2 => some (numOk 0 1 v)
        | 3 => some (numOk 0 3 v)
        | _ => none
  else none

/-- Whether a parameter exists on a node, and if so whether a value is in its range (R121, R148, R149). -/
def paramCheck (s : State) (n : GNode) (index : Nat) (v : Word32) : Option Bool :=
  let blk := blockOf index
  let item := itemOf index
  if blk = 0 then block00 n item v
  else if 1 ≤ blk ∧ blk ≤ 0x10 then blockBand s n blk item v
  else if blk = 0x20 ∨ blk = 0x21 then blockDyn n blk item v
  else if blk = 0x30 then blockRamp s n item v
  else if blk = 0x40 then blockMeter n item v
  else if blk = 0x80 then
    if kernelId n = 4 ∧ item / 512 < n.config0 ∧ item % 512 < n.config1 then some (levelOk (-144000) 12000 true v) else none
  else if blk = 0x81 then
    if kernelId n = 3 ∧ item < n.config0 then some (levelOk (-144000) 12000 true v) else none
  else if blk = 0x90 then if kernelId n = 5 ∧ item < n.config0 then some true else none
  else if blk = 0xA0 then blockA0 s n item v
  else if blk = 0xC0 then if n.kind = 8 ∧ item < 256 then some true else none
  else none

/-! ### Words (R149) -/

/-- The group of words that one parameter controls (R155): an EQ band and the HPF are one group each. -/
def groupOf (index : Nat) : Nat :=
  let blk := blockOf index
  if 1 ≤ blk ∧ blk ≤ 0x10 then blk * 2 ^ 24
  else if index = 4 ∨ index = 5 then 4
  else if index = 1 then 0
  else index

/-- Whether a group is a level that ramps (R157, R283). -/
def isLevel (n : GNode) (index : Nat) : Bool :=
  let blk := blockOf index
  let item := itemOf index
  decide (index = 0) || decide (blk = 0x21 ∧ item = 4) || decide (blk = 0x80) || decide (blk = 0x81) ||
    (decide (blk = 0xA0) && ((decide (kernelId n = 6) && decide (9 ≤ item ∧ item ≤ 12)) ||
      (decide (kernelId n = 7) && (decide (item = 4) || decide (item / 256 = 1)))))

/-- Whether a group is a filter section (R155). -/
def isSection (index : Nat) : Bool := decide (index = 4) || (decide (1 ≤ blockOf index ∧ blockOf index ≤ 0x10) && decide (itemOf index = 0))

/-- The level of a group in 1/1,000 dB, none for off. A muted fader is off (R157). -/
def levelIn (m : SMap Word32) (n : GNode) (index : Nat) : Option Int :=
  let v := paramIn m n index
  if v.toNat = 0x80000000 then none
  else if index = 0 ∧ [1, 2, 3].contains (kernelId n) ∧ (paramIn m n 1).toNat = 1 then none
  else some v.toInt

/-- The gain coefficient of a level (R149). -/
def levelCoef : Option Int → Nat
  | none => 0
  | some l => levelGain l

/-- The pass-through section of a disabled band (R157): b0 = 1.0, every other coefficient 0. -/
def passSection : List Int := [2 ^ 28, 0, 0, 0, 0]

/-- The coefficients of a section, as C32 numbers (R149, R157, R163). -/
def sectionIn (m : SMap Word32) (n : GNode) (index rate : Nat) : List Int :=
  if index = 4 then
    if (paramIn m n 4).toNat = 1 then butterworthHp (paramIn m n 5).toNat rate else passSection
  else if (paramIn m n (index + 4)).toNat = 1 then
    eqSection (paramIn m n index).toNat (paramIn m n (index + 1)).toNat (paramIn m n (index + 2)).toNat (paramIn m n (index + 3)).toNat rate
  else passSection

/-- The C32 words of a group (R149): a level's gain, a section's coefficients, a RAW word, and for other encodings the words the kernel
reads. DEDUCED: log entry 40. -/
def groupWords (m : SMap Word32) (n : GNode) (index rate : Nat) : List Word32 :=
  if isLevel n index then [BitVec.ofNat 32 (levelCoef (levelIn m n index))]
  else if isSection index then (sectionIn m n index rate).map (BitVec.ofInt 32)
  else if blockOf index = 0xC0 then [paramIn m n index]
  else [Config.paramWords n.kernel index (paramIn m n index) rate]

/-- The coefficients of a group that ramps, in C32 (R149, R155). -/
def groupCoefs (m : SMap Word32) (n : GNode) (index rate : Nat) : List Int :=
  if isLevel n index then [(levelCoef (levelIn m n index) : Int)] else sectionIn m n index rate

/-- The end point of a group's ramp in the units of `Ramp` (R156): a LOG ramp works on the dB value, with −144 dB for off. -/
def rampPlace (m : SMap Word32) (n : GNode) (index rate type : Nat) : List Int :=
  if type = 3 then [(levelIn m n index).getD (-144000) * 2 ^ 12] else (groupCoefs m n index rate).map (fun x => x * 2 ^ 12)

/-- Ramp length N = max(1, round(T × Fs_seg)) from T in µs and the rate in mHz (R155). -/
def rampLength (time rate : Nat) : Nat := max 1 (roundDiv ((time * rate : Nat) : Int) 1000000000).toNat

/-- The ramp of a group that runs on a unit. -/
def rampOf (s : State) (owner index unit : Nat) : Option Ramp :=
  s.ramps.find? (fun r => decide (r.owner = owner ∧ r.index = index ∧ r.unit = unit))

/-- The start point of a restart (R158): the unrounded interpolated point of the last sample. Between LOG and another type the point changes its units: the dB value
of the coefficient, or the coefficient of the dB value. DEDUCED: log entry 107. -/
def restartPoint (r : Ramp) (type : Nat) : List Int :=
  if r.type = 3 ∧ type ≠ 3 then r.used.map (fun x => x * 2 ^ 12)
  else if r.type ≠ 3 ∧ type = 3 then r.used.map levelPoint
  else rampPoint r

/-- The start of a ramp in the units of its type, as the kernel holds it and as an exact quotient, and the restarts since a completion: after 4,096 of them the groom writes
the exactly computed point (R158, R160). -/
def rampFrom (run : Option Ramp) (old : SMap Word32) (n : GNode) (index rate type : Nat) : List Int × List (Int × Nat) × Nat :=
  let whole (l : List Int) : List (Int × Nat) := l.map (fun x => (x, 1))
  match run with
  | none => let p := rampPlace old n index rate type; (p, whole p, 0)
  | some r =>
    if decide (r.type = 3) ≠ decide (type = 3) then let p := restartPoint r type; (p, whole p, r.restarts + 1)
    else if 4096 ≤ r.restarts then let p := (rampExact r).map (fun q => roundDiv q.1 q.2); (p, whole p, 0)
    else (rampPoint r, rampExact r, r.restarts + 1)

/-- The ramp of a group that a tap at frame `b` changes (R155–R158). A group that is still ramping restarts from the interpolated point of its last
sample; the new type and N apply from the restart. -/
def rampStart (s : State) (old new : SMap Word32) (n : GNode) (sl : ParamSlot) (b : Nat) : Ramp :=
  let lev := isLevel n sl.index
  let type := (paramIn new n (if lev then 0x30000000 else 0x30000002)).toNat
  let time := (paramIn new n (if lev then 0x30000001 else 0x30000003)).toNat
  let len := if type = 2 then expStep time sl.rate else rampLength time sl.rate
  let run := rampOf s (paramOwner n) sl.index sl.unit
  let start := rampFrom run old n sl.index sl.rate type
  { owner := paramOwner n, index := sl.index, unit := sl.unit, type := type, n := len, j := 0, t := len, frac := (0, 1), start := start.1,
    exact := start.2.1, target := rampPlace new n sl.index sl.rate type, goal := groupCoefs new n sl.index sl.rate,
    used := (run.map Ramp.used).getD (groupCoefs old n sl.index sl.rate), pos := (0, 0), div := sl.div, phase := sl.phase, mul := sl.mul,
    from_ := b, restarts := start.2.2 }

/-- The crossfade of a delay or a polarity that a tap at frame `b` changes (R157, R161): LIN over the delay crossfade time, from the old position to the new one. During a
crossfade the position being faded in becomes the old one; the weights start as they stand. DEDUCED: log entry 120. -/
def fadeStart (s : State) (old new : SMap Word32) (n : GNode) (sl : ParamSlot) (b : Nat) : Ramp :=
  let len := rampLength (paramIn new n 0x30000004).toNat sl.rate
  let run := rampOf s (paramOwner n) sl.index sl.unit
  let start := match run with
    | some r => (rampPoint r).reverse
    | none => [2 ^ 40, 0]
  let from_ := match run with
    | some r => r.pos.2
    | none => (paramIn old n sl.index).toNat
  { owner := paramOwner n, index := sl.index, unit := sl.unit, type := 1, n := len, j := 0, t := len, frac := (0, 1), start := start,
    exact := start.map (fun x => (x, 1)), target := [0, 2 ^ 40], goal := [0, 2 ^ 28], used := start.map (fun x => roundShift x 12),
    pos := (from_, (paramIn new n sl.index).toNat), div := sl.div, phase := sl.phase, mul := sl.mul, from_ := b, restarts := 0 }

/-- Whether a parameter changes under a crossfade: polarity and delay (R157, R161). -/
def isFade (index : Nat) : Bool := decide (index = 2 ∨ index = 3)

/-- Put a ramp in the place of the one that its group has. -/
def putRamp (r : Ramp) (s : State) : State :=
  { s with ramps := r :: s.ramps.filter (fun x => decide (¬ (x.owner = r.owner ∧ x.index = r.index ∧ x.unit = r.unit))) }

/-- Start the ramps and the crossfades of the groups that changed between two sets of values (R155, R158, R161, R184). -/
def rampsStart (old new : SMap Word32) (g : Graph) (b : Nat) (s : State) : State :=
  forEach s.liveSlots (fun sl s =>
    match nodeOf g sl.node with
    | none => s
    | some n =>
      if isFade sl.index then
        if paramIn old n sl.index ≠ paramIn new n sl.index then putRamp (fadeStart s old new n sl b) s else s
      else if (isLevel n sl.index ∨ isSection sl.index) ∧ groupWords old n sl.index sl.rate ≠ groupWords new n sl.index sl.rate then
        putRamp (rampStart s old new n sl b) s
      else s) s

/-! ### PARAM_READ (R282) -/

/-- The node that a parameter command names: in the working graph, or in the live graph if it exists only there. -/
def paramNode (s : State) (id : Nat) : Option GNode :=
  match nodeOf s.work id with
  | some n => some n
  | none => nodeOf s.live id

def paramRead (r : Req) (s : State) : Service :=
  let src := pb r 0
  let id := rd r.payload 2 2
  let index := rd r.payload 4 4
  let count := rd r.payload 8 2
  shaped r 12 [1, 10, 11]
    (need (decide (src ≤ 1)) 0x22 0
    (need (decide (1 ≤ count ∧ count ≤ 2036)) 0x22 8
    (match (if src = 0 then nodeOf s.live id else nodeOf s.work id) with
     | none => errRep 0x26 2
     | some n =>
      let have_ := ((List.range count).takeWhile (fun i => (paramCheck s n (index + i) 0).isSome))
      let m := if src = 0 then s.liveParams else s.params
      if have_ = [] then errRep 0x22 4
      else
        let vs := (have_.take ((maxReply r.source - 4) / 4)).map (fun i => paramIn m n (index + i))
        okRep (beBytes 2 vs.length ++ [0, 0] ++ vs.flatMap (fun v => beBytes 4 v.toNat)) s)))

def execParamRead (r : Req) (s : State) : Res := .next (serve 0x301 r (paramRead r) s)

end Sys2Proof.Machine
end

