-- ==== Sys2Proof/Machine/Timeline.lean ====
section
/-! DEFINITION. The certification arithmetic (R31, R50, R124, R133, R134): the slots at which the words of a page may issue at the latest, over every path from its
entry to SYNC, the certified count, and the posts of its SENDs and SIGNALs. -/

namespace Sys2Proof.Machine

/-- The instruction at a word address of a page. -/
def wordAt (p : PageOut) (a : Nat) : Option StallInstr := (p.words.find? (fun w => decide (w.1 = a))).bind (fun w => decodeStallWord w.2)

/-- What a timeline has found: one more than the latest slot at which each word may issue, the same of the post of each SEND and SIGNAL, the count at the latest
SYNC, and the slot behind the latest RET. -/
structure Flow where
  inn : SMap Nat
  posts : SMap Nat
  done : Nat
  back : Nat
deriving DecidableEq, Repr

/-- What a path depends on: the arrival of what a producer posts, and the words that a frame does not execute. -/
structure FlowEnv where
  arrival : Producer → Nat
  closed : Nat → Bool

def flowAt (f : Flow) (a : Nat) : Nat := smapGet (fun _ => 0) f.inn a

/-- A path reaches the word at `a` at slot `t`. -/
def flowReach (e : FlowEnv) (a t : Nat) (f : Flow) : Flow :=
  if e.closed a then f else { f with inn := smapSet (fun _ => 0) a (max (flowAt f a) (t + 1)) f.inn }

/-- The slot at which a WAIT or RECV that is reached at slot `t` issues: the latest arrival of its producers, if that is later (R133). -/
def waitSlot (e : FlowEnv) (p : PageOut) (a t : Nat) : Nat :=
  (((p.waits.find? (fun w => decide (w.1 = a))).map Prod.snd).getD []).foldl (fun t q => max t (e.arrival q)) t

/-- The word at `a` in sequence, from the slot of the pair on. -/
def flowWord (e : FlowEnv) (p : PageOut) (x : Nat × Flow) (a : Nat) : Nat × Flow :=
  match wordAt p a with
  | some (.wait _) | some (.recv _ _) => (waitSlot e p a x.1 + 1, x.2)
  | some (.send _ _ _) | some (.signal _ _) =>
    (x.1 + 1, { x.2 with posts := smapSet (fun _ => 0) a (max (smapGet (fun _ => 0) x.2.posts a) (x.1 + 1)) x.2.posts })
  | _ => (x.1 + 1, x.2)

/-- `n` trips of a REPEAT body (R71, R133). -/
def flowBody (e : FlowEnv) (p : PageOut) (n : Nat) (as : List Nat) (x : Nat × Flow) : Nat × Flow :=
  (List.range n).foldl (fun y _ => as.foldl (flowWord e p) y) x

/-- The trip count of the REPEAT at `a`: its own, or the bound of a register count. -/
def tripCount (p : PageOut) (a : Nat) (rsrc : Bool) (count : Nat) : Nat :=
  if rsrc then ((p.bounds.find? (fun b => decide (b.1 = a))).map Prod.snd).getD 65536 else count

/-- The word at `a`, where a path has reached it: a control transfer with its two delay slots goes to its target and, unless its condition is AL, in sequence as well (R70, R103);
`sub` runs a called routine. -/
def flowStep (e : FlowEnv) (p : PageOut) (sub : Nat → Nat → Flow → Flow) (f : Flow) (a : Nat) : Flow :=
  match flowAt f a with
  | 0 => f
  | t + 1 =>
    let slots := [a + 1, a + 2].foldl (flowWord e p) (t + 1, f)
    let onward (k : BitVec 4) (g : Flow) : Flow := if k.toNat = 0 then g else flowReach e (a + 3) slots.1 g
    match wordAt p a with
    | none => f
    | some .sync => { f with done := max f.done (t + 1) }
    | some (.br k target) => onward k (flowReach e target.toNat slots.1 slots.2)
    | some (.call k target) =>
      let r := sub target.toNat slots.1 slots.2
      onward k (flowReach e (a + 3) r.back { r with inn := slots.2.inn, back := slots.2.back })
    | some (.ret k) => onward k { slots.2 with back := max slots.2.back slots.1 }
    | some (.repeat_ _ rsrc len count) =>
      let x := flowBody e p (tripCount p a rsrc count.toNat) ((List.range len.toNat).map (a + 1 + ·)) (t + 1, f)
      flowReach e (a + 1 + len.toNat) x.1 x.2
    | some _ => let x := flowWord e p (t, f) a; flowReach e (a + 1) x.1 x.2

/-- One pass over the words in rising order, with routines called `depth` deep. -/
def flowPass (e : FlowEnv) (p : PageOut) : Nat → Flow → Flow
  | 0, f => f
  | depth + 1, f =>
    (p.words.map Prod.fst).foldl (flowStep e p (fun a t g => flowPass e p depth { g with inn := [(a, t + 1)], back := 0 })) f

/-- The timeline of a page from a word on. The init block branches back to the words behind the page check, so the words are passed over twice. DEDUCED: log entry 120. -/
def pageFlow (e : FlowEnv) (p : PageOut) (entry : Nat) : Flow := flowPass e p 5 (flowPass e p 5 ⟨[(entry, 1)], [], 0, 0⟩)

/-- A page without waits: what its words alone take. -/
def plainEnv : FlowEnv := ⟨fun _ => 0, fun _ => false⟩

/-! ### Phases (R49, R50) -/

/-- The segment of a task's node. -/
def taskSeg (g : Graph) (t : TaskOut) : GSeg := ((nodeOf g t.node).bind (fun n => segOf g n.segment)).getD ⟨0, 1, 1, 0⟩

/-- Whether frame phase `b` leaves the word at `a` of stall `u` out: it belongs to tasks of divided segments that run in another phase. -/
def phaseClosed (g : Graph) (ts : List TaskOut) (u b a : Nat) : Bool :=
  ts.any (fun t => decide (t.unit = u ∧ t.lo ≤ a ∧ a < t.hi) && !segRuns (taskSeg g t).div t.phase b)

/-- The largest divisor on a stall. -/
def stallPhases (g : Graph) (ts : List TaskOut) (u : Nat) : Nat := (ts.filter (fun t => decide (t.unit = u))).foldl (fun m t => max m (taskSeg g t).div) 1

/-- The timelines of a page, one for each phase. -/
def phaseFlows (g : Graph) (ts : List TaskOut) (arrival : Producer → Nat) (p : PageOut) : List Flow :=
  (List.range (stallPhases g ts p.unit)).map (fun b => pageFlow ⟨arrival, phaseClosed g ts p.unit b⟩ p p.hdr.entry.toNat)

/-- The certified count of a page: the largest W(p) (R50). -/
def pageCount (fs : List Flow) : Nat := fs.foldl (fun m f => max m f.done) 0

/-- The latest slot at which the SEND or SIGNAL at a word posts, over all paths and phases; none where no path reaches it. -/
def latestPost (fs : List Flow) (a : Nat) : Option Nat :=
  let m := fs.foldl (fun m f => max m (smapGet (fun _ => 0) f.posts a)) 0
  if m = 0 then none else some (m - 1)

/-! ### User kernels (R124) -/

/-- The code of a kernel object as a page, REPEATs with a register count at MAX_RCOUNT. -/
def kernelPage (b : List Byte) : PageOut :=
  let n := rd b 2 2
  ⟨0, headerEmpty, (List.range n).map (fun i => (i, kWord b i)), [], (List.range n).map (fun i => (i, rd b 44 4))⟩

/-- The count of a user kernel over its forward-only control flow: issues from word 0 to the exit at word N_WORDS (R124). -/
def kernelCount (b : List Byte) : Nat := flowAt (flowPass plainEnv (kernelPage b) 5 ⟨[(0, 1)], [], 0, 0⟩) (rd b 2 2) - 1

/-- The glue that moves a node's pins into and out of its blocks: 2 issues a pin. -/
def glueCost (n : GNode) : Nat := 2 * (n.nIn + n.nOut)

/-- W_DECLARED_MISMATCH for the USER nodes whose kernel declares another count (R124). The count compared is that of the kernel alone. DEDUCED: log entry 120. -/
def declaredDiags (g : Graph) (ks : List KernelObj) : List Diag :=
  g.nodes.flatMap (fun n =>
    match ks.find? (fun k => decide (n.kind = 8 ∧ k.handle = n.kernel)) with
    | some k => if rd k.bytes 48 4 ≠ 0 ∧ rd k.bytes 48 4 ≠ kernelCount k.bytes then
        [diagAt 0x18 1 (some n.id) none none (some (kernelCount k.bytes)) (some (rd k.bytes 48 4))] else []
    | none => [])

end Sys2Proof.Machine
end

