-- ==== Sys2Proof/Machine/Plan.lean ====
section
/-! DEFINITION. What holds of every program that a compile writes (R118, R120, R123, R126, R130–R132, R185, R188, R206, R210, R433): its tasks and their costs,
the head of a page, registers, memory areas, outputs and posts. The maltster decides where everything goes; these checks say which decisions the spec
admits. -/

namespace Sys2Proof.Machine

/-! ### Regions of memory -/

def mebi : Nat := 0x100000
def cellarBase : Nat := 0x400000000
def cellarEnd : Nat := 0x600000000
/-- The brew store (Table 8.3). -/
def brewStoreBase : Nat := 0x5F0000000

/-- Whether two ranges share a byte. -/
def overlaps (a n b m : Nat) : Bool := decide (0 < n ∧ 0 < m ∧ a < b + m ∧ b < a + n)

/-- Whether no two elements of a list are related. -/
def apart {α : Type} (r : α → α → Bool) : List α → Bool
  | [] => true
  | x :: l => l.all (fun y => !r x y) && apart r l

/-! ### Program sets -/

/-- The live program as a set: its tasks, posts and parameters, all on kept pages. -/
def liveSet (s : State) : ProgramSet := ⟨[], s.liveTasks, s.livePosts, s.liveSlots⟩

/-- The new page of a set for a stall. -/
def newPage (x : ProgramSet) (u : Nat) : Option PageOut := x.pages.find? (fun p => decide (p.unit = u))

/-- The live page of a stall as a page: what a set without a new page for it keeps. -/
def livePage (s : State) (u : Nat) : PageOut :=
  let k := 2 * u + bnat (pagesOf s u).live
  ⟨u, liveHdr (pagesOf s u), (s.progMem.filter (fun w => decide (w.1 / 8192 = k))).map (fun w => (w.1 % 8192, w.2)), [], []⟩

/-- The page of a stall in the program that a list of sets makes, the first that has one; else the live page. -/
def pageIn (s : State) (xs : List ProgramSet) (u : Nat) : PageOut := (xs.findSome? (fun x => newPage x u)).getD (livePage s u)

/-- The tasks of a set on a stall. -/
def unitTasks (x : ProgramSet) (u : Nat) : List TaskOut := x.tasks.filter (fun t => decide (t.unit = u))

/-- The stalls that a set uses. -/
def setUnits (x : ProgramSet) : List Nat := (x.tasks.map TaskOut.unit ++ x.pages.map PageOut.unit).eraseDups

/-- The instructions of a page with their addresses. -/
def pageInstrs (p : PageOut) : List (Nat × StallInstr) := p.words.filterMap (fun w => (decodeStallWord w.2).map (fun i => (w.1, i)))

/-! ### Kernels: cost and split (R120, Table 5.2) -/

/-- The largest number of issues that a node adds to the engine in one frame; none for a user kernel, whose count is its own (R124). -/
def kernelCost (n : GNode) : Nat :=
  match n.kernel with
  | 1 => 1480 | 2 => 1200 | 3 => 1600
  | 4 => (5 * n.config0 * n.config1 + 3) / 4
  | 5 => 33 * n.config0 / 32
  | 6 => 20480
  | 7 => 400 * n.config0
  | 8 => 24
  | 9 => 4 + 9 * n.config0
  | 10 => 180
  | 11 => 12 * n.config0
  | 12 => 96 * n.nIn
  | 13 => 2 + n.config0
  | 14 => 6
  | _ => 0

/-- What a node may cost in a frame, in a segment with multiplier `mul`. -/
def nodeCost (ks : List KernelObj) (n : GNode) (mul : Nat) : Nat :=
  if n.kind = 8 then
    match ks.find? (fun k => decide (k.handle = n.kernel)) with
    | some k => mul * (kernelCount k.bytes + glueCost n)
    | none => 0
  else mul * kernelCost n

/-- Whether the parts of a node are a split that Table 5.2 allows: a MIX by whole output columns, a FIR by slices of 1,024 taps on stalls of their own, a REVERB in
16 parts, every other kernel never. -/
def splitOk (n : GNode) (ts : List TaskOut) : Bool :=
  (ts.map TaskOut.part == List.range ts.length) &&
  (if n.kind = 7 ∧ n.kernel = 4 then ts.all (fun t => decide (0 < t.cols)) && decide ((ts.map TaskOut.cols).foldl (· + ·) 0 = n.config1)
   else if n.kind = 7 ∧ n.kernel = 5 then decide (ts.length = 1) || (decide (ts.length * 1024 = n.config0) && apart (fun a b => decide (a.unit = b.unit)) ts)
   else if n.kind = 7 ∧ n.kernel = 6 then decide (ts.length = 1 ∨ ts.length = 16)
   else decide (ts.length = 1))

/-- Whether one task's words lie inside another's, which waits for an input meanwhile. -/
def nestedIn (t x : TaskOut) : Bool := decide (t ≠ x ∧ t.unit = x.unit ∧ x.lo ≤ t.lo ∧ t.hi ≤ x.hi ∧ t.lo < t.hi)

/-- The issues from one word of a page to another, along the longest path. -/
def spanCount (p : PageOut) (lo hi : Nat) : Nat := flowAt (pageFlow plainEnv p lo) hi - 1

/-- The issues of a task in a frame: those of its words but for the tasks inside them. -/
def taskCount (p : PageOut) (ts : List TaskOut) (t : TaskOut) : Nat :=
  let ins := ts.filter (fun x => nestedIn x t)
  spanCount p t.lo t.hi -
    ((ins.filter (fun x => !ins.any (fun y => nestedIn x y))).map (fun x => spanCount p x.lo x.hi)).foldl (· + ·) 0

/-- The tasks of a node that run its kernel, in the new or in the old route. -/
def kernelTasks (x : ProgramSet) (id : Nat) (old : Bool) : List TaskOut :=
  x.tasks.filter (fun t => decide (t.node = id ∧ t.old = old ∧ t.xfade = none))

/-- Whether a node has its tasks, split and priced as Table 5.2 says. The counts of tasks on kept pages were checked when their pages were written. -/
def nodeTasksOk (ks : List KernelObj) (g : Graph) (x : ProgramSet) (old : Bool) (n : GNode) : Bool :=
  let ts := kernelTasks x n.id old
  let fresh := ts.filterMap (fun t => (newPage x t.unit).map (fun p => taskCount p (unitTasks x t.unit) t))
  !decide (n.kind = 7 ∨ n.kind = 8) ||
    (splitOk n ts && decide (fresh.foldl (· + ·) 0 ≤ nodeCost ks n ((segOf g n.segment).getD ⟨0, 1, 1, 0⟩).mul))

/-! ### The head of a page (R131, R433) -/

/-- The address of a page's flag (R131). -/
def flagAddr (side : Bool) : Nat := 0x3FF0 + 8 * bnat side

/-- The register and the constant of an LDI. -/
def ldiOf : Option StallInstr → Option (Nat × S48)
  | some (.fmtC op r v) => if op.toNat = 1 then some (r.toNat, v) else none
  | _ => none

/-- The register of a sample store to the flag that P0 addresses, without an arithmetic part. -/
def flagStore : Option StallInstr → Option Nat
  | some (.fmtA op _ m) => if op.toNat = 0 ∧ m.mv.toNat = 2 ∧ m.args.mp.toNat = 0 ∧ m.args.am.toNat = 0 then some m.args.mreg.toNat else none
  | _ => none

/-- The LDIs that stand from a word on. -/
def ldiRun (p : PageOut) : Nat → Nat → List (Nat × S48)
  | 0, _ => []
  | n + 1, a => match ldiOf (wordAt p a) with
    | some x => x :: ldiRun p n (a + 1)
    | none => []

/-- The page check at the end of the override block: LDI of the flag's address into P0, a load of the flag into D0, CMPI with 0 and BR NE, in 7 slots; the address of
the init block. -/
def pageCheck (p : PageOut) (side : Bool) : Option Nat :=
  let a := p.hdr.ovrEnd.toNat
  match ldiOf (wordAt p a), wordAt p (a + 1), wordAt p (a + 3), wordAt p (a + 4) with
  | some (r, v), some (.fmtA op _ m), some (.fmtC c d z), some (.br k t) =>
    if r = 0x68 ∧ v.toNat = flagAddr side ∧ op.toNat = 0 ∧ m.mv.toNat = 1 ∧ m.args.mreg.toNat = 0 ∧ m.args.mp.toNat = 0 ∧ m.args.am.toNat = 0 ∧
      c.toNat = 6 ∧ d.toNat = 0 ∧ z.toNat = 0 ∧ k.toNat = 2 then some t.toNat else none
  | _, _, _, _ => none

/-- The init block: n LDIs and a BR back behind the page check, in whose delay slots the flag is cleared: n + 3 slots. The registers that it loads. -/
def initRegs (p : PageOut) (t : Nat) : Option (List Nat) :=
  let l := ldiRun p p.words.length t
  let b := t + l.length
  let zero (r : Nat) : Bool := l.any (fun x => decide (x.1 = r ∧ x.2.toNat = 0)) || decide (ldiOf (wordAt p (b + 1)) = some (r, 0))
  match wordAt p b, (flagStore (wordAt p (b + 2))).or (flagStore (wordAt p (b + 1))) with
  | some (.br k a), some r =>
    if k.toNat = 0 ∧ a.toNat = p.hdr.ovrEnd.toNat + 7 ∧ zero r ∧ ¬ (l.map Prod.fst).contains 0x68 then some (l.map Prod.fst) else none
  | _, _ => none

/-- Registers that an LDI can load (R107). -/
def loadable (r : Nat) : Bool :=
  match classOf r with
  | .d | .c | .p | .m | .l => true
  | _ => false

/-- Whether a page starts as R131 and R433 say: an override block of at most 70 slots without WAIT, RECV or SEND, the page check on the flag of the page's own side,
and an init block that loads the state registers of the new tasks and of no kept task. -/
def headOk (p : PageOut) (side : Bool) (fresh kept : List TaskOut) : Bool :=
  let lo := p.hdr.entry.toNat
  let hi := p.hdr.ovrEnd.toNat
  decide (lo ≤ hi) && decide (spanCount p lo hi ≤ 70) &&
    (pageInstrs p).all (fun w => !decide (lo ≤ w.1 ∧ w.1 < hi) || (match w.2 with
      | .wait _ | .recv _ _ | .send _ _ _ => false
      | _ => true)) &&
    (match (pageCheck p side).bind (initRegs p) with
     | none => false
     | some rs => fresh.all (fun t => (t.regs.filter loadable).all rs.contains) && kept.all (fun t => t.regs.all (fun r => !rs.contains r)))

/-- Whether a word lies in the init block of a page. -/
def inInit (p : PageOut) (side : Bool) (a : Nat) : Bool :=
  match pageCheck p side with
  | none => false
  | some t => decide (t ≤ a ∧ a < t + (ldiRun p p.words.length t).length + 3)

/-- The override chain of each sink lies in the override block of one stall (R433). -/
def ovrPlaced (g : Graph) (x : ProgramSet) : Bool :=
  let chain := g.edges.filter ovrEdge
  let at_ (id : Nat) : List TaskOut := x.tasks.filter (fun t => decide (t.node = id))
  chain.all (fun e => (at_ e.srcNode).all (fun t => (at_ e.dstNode).all (fun v => decide (t.unit = v.unit)))) &&
  x.tasks.all (fun t => !chain.any (fun e => decide (e.srcNode = t.node ∨ e.dstNode = t.node)) ||
    (match newPage x t.unit with
     | none => true
     | some p => decide (p.hdr.entry.toNat ≤ t.lo ∧ t.hi ≤ p.hdr.ovrEnd.toNat)))

/-! ### Registers and user kernels (R123) -/

/-- The innermost task whose words a word is one of. -/
def ownerTask (ts : List TaskOut) (a : Nat) : Option TaskOut :=
  let l := ts.filter (fun t => decide (t.lo ≤ a ∧ a < t.hi))
  l.find? (fun t => !l.any (fun v => nestedIn v t))

/-- Whether the state registers of a page's tasks are theirs alone: held by no two, neither D0 nor P0, and written by no other word but the init block. -/
def regsOk (p : PageOut) (side : Bool) (ts : List TaskOut) : Bool :=
  apart (fun a b => a.regs.any b.regs.contains) ts && ts.all (fun t => !t.regs.contains 0 && !t.regs.contains 0x68) &&
    (pageInstrs p).all (fun w => inInit p side w.1 ||
      ts.all (fun t => decide (ownerTask ts w.1 = some t) || !(instrDests w.2).any t.regs.contains))

/-- The registers that a user kernel declares as state (Table 5.7). -/
def declaredState (b : List Byte) : List Nat :=
  bitList 64 (rd b 16 8) ++ (bitList 8 (rd b 25 1)).map (0x40 + ·) ++ (bitList 32 (rd b 30 4)).map (0x48 + ·) ++
    (bitList 16 (rd b 36 2)).map (0x68 + ·) ++ ((bitList 4 (rd b 40 1)).filter (2 ≤ ·)).map (0x96 + ·)

/-- The constant that a register holds at a word: the last word before it that writes the register is an LDI. -/
def ldiBefore (p : PageOut) (a r : Nat) : Option Nat :=
  (((pageInstrs p).filter (fun w => decide (w.1 < a))).reverse.find? (fun w => (instrDests w.2).contains r)).bind
    (fun w => (ldiOf (some w.2)).map (fun x => x.2.toNat))

/-- A word of a kernel at its place on a page: branch and CALL targets move with it. -/
def placedWord (lo : Nat) : StallInstr → StallInstr
  | .br k t => .br k (t + BitVec.ofNat 13 lo)
  | .call k t => .call k (t + BitVec.ofNat 13 lo)
  | i => i

/-- Whether `n` bytes at a stall address lie in one of a task's areas. -/
def inTaskArea (t : TaskOut) (a n : Nat) : Bool :=
  decide (n = 0) || t.areas.any (fun x => decide (x.base ≤ localBase t.unit + a ∧ localBase t.unit + a + n ≤ x.base + x.len))

/-- Whether a USER task enters its kernel as R123 says: the object's words stand in place, its state registers are the task's, and P12 to P15 hold its input block, output
block, state area and 1 KiB of the parameter window (R151). -/
def userTaskOk (ks : List KernelObj) (p : PageOut) (n : GNode) (t : TaskOut) : Bool :=
  match ks.find? (fun k => decide (k.handle = n.kernel)) with
  | none => false
  | some k =>
    let w := rd k.bytes 2 2
    let at_ (i : Nat) : Nat := t.entry.getD i 0
    decide (t.hi = t.lo + w) &&
      (List.range w).all (fun i => decide (wordAt p (t.lo + i) = (decodeStallWord (kWord k.bytes i)).map (placedWord t.lo))) &&
      (declaredState k.bytes).all t.regs.contains &&
      (List.range 4).all (fun i => decide (ldiBefore p t.lo (0x74 + i) = some (at_ i))) &&
      inTaskArea t (at_ 0) (8 * n.nIn) && inTaskArea t (at_ 1) (8 * n.nOut) && inTaskArea t (at_ 2) (rd k.bytes 6 2) &&
      decide (p.hdr.paBase ≤ at_ 3 ∧ at_ 3 + 1024 ≤ p.hdr.paBase + p.hdr.paSize)

/-! ### What is kept (R130, R131, R136) -/

/-- Whether a compile writes every page new: under NO_BASE, or at an Fs other than that of the live program (R136, R280). -/
def allNew (s : State) (c : CompileJob) : Bool :=
  c.noBase || s.pages.any (fun p => (liveHdr p.2).hasProgram && decide ((liveHdr p.2).fs ≠ c.fs))

/-- Whether two tasks are one: same node, part, crossfaded pin and route. -/
def sameTask (a b : TaskOut) : Bool := decide (a.node = b.node ∧ a.part = b.part ∧ a.xfade = b.xfade ∧ a.old = b.old)

/-- Whether a task holds what another held: stall, registers, areas, slots, output channels. -/
def sameHold (a b : TaskOut) : Bool := decide (a.unit = b.unit ∧ a.regs = b.regs ∧ a.areas = b.areas ∧ a.slots = b.slots ∧ a.chans = b.chans)

/-- The edges into a node. -/
def edgesInto (g : Graph) (id : Nat) : List GEdge := g.edges.filter (fun e => decide (e.dstNode = id))

/-- The table parameters of a node in a set of values (R150). -/
def tableValues (m : SMap Word32) (n : GNode) : List (Nat × Word32) :=
  m.filter (fun p => decide (p.1 / 2 ^ 32 = paramOwner n) && isTable n (p.1 % 2 ^ 32))

/-- Whether a node is unchanged from one graph to another: record, incoming edges, parameter set (R130). -/
def nodeKept (old new : Graph) (mo mn : SMap Word32) (id : Nat) : Bool :=
  match nodeOf old id, nodeOf new id with
  | some a, some b => decide (a = b ∧ edgesInto old id = edgesInto new id ∧ tableValues mo a = tableValues mn b)
  | _, _ => false

/-- The tasks of a base that a set has kept: unchanged, with all that they held (R130). -/
def keptTasks (base x : ProgramSet) (same : Nat → Bool) : List TaskOut :=
  base.tasks.filter (fun t => same t.node && x.tasks.any (fun v => sameTask t v && sameHold t v))

/-- The tasks of a base that a set has moved although nothing changed for them (R130). -/
def movedTasks (base x : ProgramSet) (same : Nat → Bool) : List TaskOut :=
  base.tasks.filter (fun t => same t.node && x.tasks.any (sameTask t) && !x.tasks.any (fun v => sameTask t v && sameHold t v))

/-- Whether a task of a set is new: not one that its base held as it is. -/
def freshTask (base : ProgramSet) (same : Nat → Bool) (t : TaskOut) : Bool := !(same t.node && base.tasks.any (fun v => sameTask v t && sameHold v t))

/-- The posts of a set on a stall. -/
def unitPosts (x : ProgramSet) (u : Nat) : List (Nat × Nat × Nat) := x.posts.filter (fun q => decide (q.1 = u))

/-- Whether new pages stand where they must and only there (R131): a stall without one keeps its tasks and posts; with one, something in its tasks, schedule, exchange
use or outputs has changed. -/
def pagesNeeded (all : Bool) (old : Nat → PageHeader) (base x : ProgramSet) : Bool :=
  (setUnits base ++ setUnits x).eraseDups.all (fun u =>
    let still := decide (unitTasks base u = unitTasks x u ∧ unitPosts base u = unitPosts x u)
    match newPage x u with
    | none => still && !all
    | some p => all || !still || decide (p.hdr.outs ≠ (old u).outs ∨ p.hdr.sends ≠ (old u).sends ∨ p.hdr.signals ≠ (old u).signals))

/-! ### Memory (R132, R171, R206, R210) -/

/-- Whether an area lies where a task of its stall may have memory: local memory below the page flags, a scratchpad bank of the stall's own stable, or one cellar channel
outside the brew store and the host regions. -/
def areaPlaced (s : State) (u : Nat) (a : TaskArea) : Bool :=
  let e := a.base + a.len
  decide (localBase u ≤ a.base ∧ e ≤ localBase u + 0x3FF0) || decide (scratchBase u ≤ a.base ∧ e ≤ scratchBase u + 0x80000) ||
    (decide (cellarBase ≤ a.base ∧ e ≤ brewStoreBase ∧ a.base / 0x40000000 = (e - 1) / 0x40000000) &&
      s.regions.all (fun g => !overlaps a.base a.len g.base g.len))

/-- The copy of a live parameter window that a stall reads. -/
def liveWindow (s : State) (u : Nat) : TaskArea :=
  let h := liveHdr (pagesOf s u)
  ⟨localBase u + h.paBase + (if (pagesOf s u).psel then h.paSize else 0), h.paSize, false⟩

/-- The window of a new page, both copies. -/
def pageWindow (p : PageOut) : TaskArea := ⟨localBase p.unit + p.hdr.paBase, 2 * p.hdr.paSize, false⟩

/-- The copy of a new page's window that PSEL_INIT makes live (R152). -/
def initWindow (p : PageOut) : TaskArea := ⟨localBase p.unit + p.hdr.paBase + (if p.hdr.pselInit then p.hdr.paSize else 0), p.hdr.paSize, false⟩

def sharesByte (a b : TaskArea) : Bool := overlaps a.base a.len b.base b.len

/-- The areas of a list of tasks. -/
def areasIn (ts : List TaskOut) : List TaskArea := ts.flatMap TaskOut.areas

/-- The scratchpad banks that an area touches. -/
def areaBanks (a : TaskArea) : List Nat :=
  if 0x04000000 ≤ a.base ∧ a.base < 0x08000000 then (List.range 16).filterMap (fun i =>
    let k := 16 * ((a.base - 0x04000000) / 0x80000) + i
    if overlaps a.base a.len (0x04000000 + 0x8000 * k) 0x8000 then some k else none) else []

/-- The banks that a list of tasks uses. -/
def taskBanks (ts : List TaskOut) : List Nat := ((areasIn ts).flatMap areaBanks).eraseDups

/-- Whether new memory is free (R132, R206, R210): the areas of the new tasks lie where tasks may have memory, apart from every area of the live program and of the other
tasks, from the live windows and from the windows of new pages; a new bank is one that no live task uses, that the groom or the drover port owns, and that the token
plan gives to the stall. -/
def memoryFree (s : State) (o : CompileOut) (live fresh all : List TaskOut) (pages later : List PageOut) : Bool :=
  let windows := (pages ++ later).map pageWindow ++ (all.map (fun t => liveWindow s t.unit)).eraseDups
  fresh.all (fun t => t.areas.all (fun a => decide (0 < a.len) && areaPlaced s t.unit a &&
    (areasIn live ++ windows).all (fun b => !sharesByte a b) &&
    (areaBanks a).all (fun k => (taskBanks live).contains k = false && decide (8 ≤ fld s Fld.BANK_OWN_OWNER k) &&
      o.tokens.any (fun x => decide (x.1 = k ∧ x.2.1 = t.unit % 8))))) &&
  apart sharesByte (areasIn all) &&
  (pages ++ later).all (fun p => decide (p.hdr.paSize = 0) || windowOk p.hdr) &&
  pages.all (fun p => !sharesByte (initWindow p) (liveWindow s p.unit) &&
    (areasIn live).all (fun a => !sharesByte (initWindow p) a))

/-- Whether new contents go only into new memory (R171): areas of new tasks that do not start with zeros, and the windows of new pages. -/
def contentsOk (o : CompileOut) (fresh : List TaskOut) (pages : List PageOut) : Bool :=
  o.memory.all (fun m => ((areasIn fresh).filter (fun a => !a.zero) ++ pages.map initWindow).any
    (fun a => decide (a.base ≤ m.1 ∧ m.1 + m.2.length ≤ a.base + a.len)))

/-- Whether no two tasks of a stall hold one exchange slot or one output channel (R126, R130). -/
def slotsApart (ts : List TaskOut) : Bool :=
  apart (fun a b => decide (a.unit = b.unit) && (a.slots.any b.slots.contains || a.chans.any b.chans.contains)) ts

/-! ### Outputs, posts, parameters (R77, R118, R119, R155) -/

/-- The FILL of an edge. -/
def edgeZero (e : GEdge) : Bool := testBit e.flags 0

/-- Whether an output entry is one that the graph has: a sink node on its sink, bound to the destination, with the FILL of the edge into the pin (R118, R431). -/
def entryOk (g : Graph) (x : OutEntry) : Bool :=
  g.nodes.any (fun n => decide (nodeSink n = x.sink) &&
    (match x.dest with
     | .port p k => decide (n.kind = 4 ∧ n.bind % 32 = p) && (edgesInto g n.id).any (fun e => decide ((n.bind / 256) % 32 + e.dstPin = k) && decide (edgeZero e = x.zeroFill))
     | .queue _ => decide (n.kind = 5) && (edgesInto g n.id).any (fun e => decide (edgeZero e = x.zeroFill))
     | .amp k => decide (n.kind = 6 ∧ n.bind = k) && (edgesInto g n.id).any (fun e => decide (edgeZero e = x.zeroFill))))

/-- Whether no destination of a sink is mapped twice over a list of pages (R77). -/
def outsApart (ps : List PageOut) : Bool := apart (fun a b => decide (a.dest = b.dest ∧ a.sink = b.sink)) (ps.flatMap (fun p => p.hdr.outs.filterMap id))

/-- Whether a SEND or SIGNAL carries the delay and the FILL of its edge, in a transition perhaps of the old graph; traffic inside a split node has none and fills with zeros (R118). -/
def postOk (g old : Graph) (x : PostPlan) : Bool :=
  match x.edge with
  | none => x.zeroFill && decide (x.delay = 0)
  | some i => match (edgeOf g i).or (edgeOf old i) with
    | none => false
    | some e => decide (x.delay = e.delay) && decide (x.zeroFill = edgeZero e)

/-- The receivers that the words of a page post to: those of its SENDs, or of its SIGNALs. -/
def wordPosts (p : PageOut) (send : Bool) : List (Nat × Nat) :=
  (pageInstrs p).filterMap (fun w => match w.2 with
    | .send u k _ => if send then some (u.toNat, k.toNat) else none
    | .signal u f => if send then none else some (u.toNat, f.toNat)
    | _ => none)

/-- Whether the header's lists of SENDs and SIGNALs are those that the words make. -/
def postsListed (p : PageOut) : Bool :=
  let same (l : List PostPlan) (m : List (Nat × Nat)) : Bool :=
    l.all (fun x => m.contains (x.unit, x.idx)) && m.all (fun y => l.any (fun x => decide ((x.unit, x.idx) = y)))
  same p.hdr.sends (wordPosts p true) && same p.hdr.signals (wordPosts p false)

/-- Whether a parameter slot lies in the window of its page, on a stall that runs the node, at the rate of the node's segment (R149, R151, R155). -/
def slotOk (g : Graph) (x : ProgramSet) (fs : Nat) (sl : ParamSlot) : Bool :=
  match newPage x sl.unit, nodeOf g sl.node with
  | some p, some n =>
    match segOf g n.segment with
    | none => false
    | some sg => sl.offsets.all (fun o => decide (o % 4 = 0 ∧ o + 4 ≤ p.hdr.paSize)) && (unitTasks x sl.unit).any (fun t => decide (t.node = n.id ∧ t.phase = sl.phase)) &&
        decide (sl.div = sg.div ∧ sl.mul = sg.mul ∧ sl.rate = fsHz fs * 1000 * sg.mul / sg.div)
  | _, _ => false

/-- Whether a task runs in the phase of its segment: the one that the host gave, or for FFh one below D (R49). -/
def phaseOk (g : Graph) (t : TaskOut) : Bool :=
  let sg := taskSeg g t
  decide (t.phase < sg.div) && decide (sg.phase = 0xFF ∨ sg.phase = t.phase)

/-! ### Route crossfades (R137, R185, R188) -/

/-- The input pins whose driving edge changes between two graphs where the old or the new edge carries XFADE, and the nodes whose table changes where the leaving edge
does (as pin none). -/
def xfadePins (old new : Graph) (mo mn : SMap Word32) : List (Nat × Option Nat) :=
  let into (g : Graph) (n p : Nat) : Option GEdge := g.edges.find? (fun (e : GEdge) => decide (e.dstNode = n ∧ e.dstPin = p))
  let flagged (e : Option GEdge) : Bool := (e.map (fun x => testBit x.flags 1)).getD false
  let ends (e : Option GEdge) : Option (Nat × Nat × Nat) := e.map (fun x => (x.srcNode, x.srcPin, x.delay))
  new.nodes.flatMap (fun n => if (nodeOf old n.id).isNone then [] else
    ((List.range n.nIn).filter (fun p => let a := into old n.id p; let b := into new n.id p
      decide (ends a ≠ ends b) && (flagged a || flagged b))).map (fun p => (n.id, some p)) ++
    (match nodeOf old n.id with
     | some m => if tableValues mo m ≠ tableValues mn n ∧ new.edges.any (fun e => decide (e.srcNode = n.id) && testBit e.flags 1) then [(n.id, none)] else []
     | none => []))

/-- The nodes from which a node is reached in a graph, itself included. -/
def upstream (g : Graph) : Nat → List Nat → List Nat
  | 0, l => l
  | k + 1, l => upstream g k ((l ++ (g.edges.filter (fun e => l.contains e.dstNode)).map GEdge.srcNode).eraseDups)

/-- The kernel nodes of the old route of a crossfaded pin: those from which its old edge comes; of a table change the node. -/
def oldRoute (old : Graph) (x : Nat × Option Nat) : List Nat :=
  let l := match x.2 with
    | none => [x.1]
    | some p => upstream old old.nodes.length ((old.edges.filter (fun (e : GEdge) => decide (e.dstNode = x.1 ∧ e.dstPin = p))).map GEdge.srcNode)
  l.filter (fun i => ((nodeOf old i).map (fun (n : GNode) => decide (n.kind = 7 ∨ n.kind = 8))).getD false)

/-- Whether the transition program runs both routes and the crossfade itself, at 8 issues a channel and sample, and the final program the new route alone (R188). -/
def xfadeOk (s : State) (c : CompileJob) (o : CompileOut) : Bool :=
  let pins := xfadePins s.live c.snap s.liveParams c.params
  match o.final with
  | none => decide (pins = []) && o.main.tasks.all (fun t => !t.old && t.xfade.isNone)
  | some f =>
    decide (pins ≠ []) && f.tasks.all (fun t => !t.old && t.xfade.isNone) &&
    pins.all (fun x =>
      o.main.tasks.any (fun t => decide (t.node = x.1 ∧ t.xfade = some (x.2.getD 0)) &&
        (match newPage o.main t.unit with
         | some p => decide (taskCount p (unitTasks o.main t.unit) t ≤ 8 * (taskSeg c.snap t).mul)
         | none => false)) &&
      (oldRoute s.live x).all (fun i =>
        if x.2.isSome ∧ nodeKept s.live c.snap s.liveParams c.params i then kernelTasks o.main i false ≠ [] else kernelTasks o.main i true ≠ [])) &&
    s.live.nodes.all (fun n => (kernelTasks o.main n.id true).isEmpty || splitOk n (kernelTasks o.main n.id true))

/-! ### A whole set -/

/-- Whether the new pages of a set are written as the rules say, given the pages and tasks that stood before. -/
def setFormed (c : CompileJob) (live : Graph) (ks : List KernelObj) (all : Bool) (side : Nat → Bool) (old : Nat → PageHeader) (base : ProgramSet) (same : Nat → Bool) (x : ProgramSet) : Bool :=
  pagesNeeded all old base x && apart (fun a b => decide (a.unit = b.unit)) x.pages &&
  x.pages.all (fun p =>
    let ts := unitTasks x p.unit
    decide (p.unit < 1024 ∧ p.hdr.fs = c.fs ∧ p.hdr.hasProgram = true) && headOk p (side p.unit) (ts.filter (freshTask base same)) (ts.filter (fun t => !freshTask base same t)) &&
      regsOk p (side p.unit) ts && postsListed p && p.hdr.sends.all (postOk c.snap live) && p.hdr.signals.all (postOk c.snap live) &&
      (p.hdr.outs.filterMap id).all (entryOk c.snap) &&
      ts.all (fun t => phaseOk c.snap t && (match nodeOf c.snap t.node with
        | some n => !decide (n.kind = 8 ∧ t.xfade = none) || userTaskOk ks p n t
        | none => true))) &&
  c.snap.nodes.all (nodeTasksOk ks c.snap x false) && ovrPlaced c.snap x && slotsApart x.tasks &&
  x.slots.all (slotOk c.snap x c.fs)

end Sys2Proof.Machine
end

