-- ==== Sys2Proof/Machine/Certify.lean ====
section
/-! DEFINITION. Certification and results (R133–R135, R143, R144, R203, R211, R227, R228): the completion times of frame channels, crossbar shares, the timelines
of pages, streams, routes, counts, and the diagnostics of a plan. -/

namespace Sys2Proof.Machine

/-! ### Drover programs (R229, R235, R238) -/

/-- The state in which the program of a compile runs: its register items, token moves and drover instructions are in place. -/
def planState (o : CompileOut) (s : State) : State :=
  let s := forEach o.regs (fun r s => setRegWord r.addr ((regWord s r.addr &&& ~~~r.mask) ||| (r.value &&& r.mask)) s) s
  let s := forEach o.tokens (fun t s => setFld Fld.BANK_OWN_OWNER t.1 t.2.1 (setFld Fld.BANK_OWN_GUEST t.1 (bnat t.2.2) s)) s
  { s with drvMem := o.drvWords.foldl (fun m w => smapSet (fun _ => 0) w.1 w.2 m) s.drvMem }

/-- Instruction `k` of a drover's program memory. -/
def drvAt (s : State) (d k : Nat) : DrvWords :=
  let w (j : Nat) : ProgWord := smapGet (fun _ => 0) s.drvMem (256 * d + 4 * k + j)
  ⟨w 0, w 1, w 2, w 3⟩

/-- The operation of a drover instruction (Table 9.6). -/
def drvOp (w : DrvWords) : Nat := dfield w.w0 60 4

/-- The program of channel `i` up to its END, which is not listed: index and instruction. -/
def chanText (s : State) (i : Nat) : List (Nat × DrvWords) :=
  let e := fld s Fld.CH_CFG_ENTRY i
  ((List.range (64 - e)).map (fun j => (e + j, drvAt s (i / 8) (e + j)))).takeWhile (fun x => decide (drvOp x.2 ≠ 5))

/-- How often the instruction at an index runs: the counts of the LOOPs around it. -/
def chanTimes (text : List (Nat × DrvWords)) (k : Nat) : Nat :=
  text.foldl (fun m x => if drvOp x.2 = 2 ∧ dfield x.2.w0 16 6 ≤ k ∧ k ≤ x.1 then m * (dfield x.2.w0 0 16 + 1) else m) 1

/-- A MOVE of a channel's program as the certification sees it: how often it runs, the addresses of its two sides, bytes, largest burst, paced or not. -/
structure MoveUse where
  times : Nat
  src : Nat
  dst : Nat
  bytes : Nat
  burst : Nat
  pace : Bool
deriving DecidableEq, Repr

/-- The MOVEs of a channel. -/
def chanMoves (s : State) (i : Nat) : List MoveUse :=
  let t := chanText s i
  (t.filter (fun x => decide (drvOp x.2 = 1))).map (fun x =>
    let m := moveDesc x.2
    ⟨chanTimes t x.1, ringAddr s i m.smode m.src, ringAddr s i m.dmode m.dst, elemBytes m * elemCount m, elemBytes m, m.pace⟩)

/-- The arbitration points that a channel's MOVEs reach. -/
def chanPoints (s : State) (i : Nat) : List Nat := ((chanMoves s i).flatMap (fun m => [arbPoint m.src, arbPoint m.dst])).eraseDups

/-- The frame channels. -/
def frameChans (s : State) : List Nat := (List.range 128).filter (isFrameChan s)

/-! ### Shares (R211, R220, R229, R233) -/

/-- The target of an arbitration point. -/
def pointTarget (p : Nat) : Nat := if p < 128 then p / 32 else if p < 136 then p - 124 else p - 128

/-- The arbitration points of the crossbar: the ports of 128 stables, 8 cellar channels, the other targets. -/
def allPoints : List Nat := List.range 136 ++ [140, 141, 142, 143]

/-- Whether the non-frame programs of a FRAME drover may reach a target (R233). -/
def nfReaches (s : State) (d t : Nat) : Bool :=
  fbit s Fld.DRV_CTRL_MODE d &&
    ((decide (4 ≤ t ∧ t < 12) && testBit (fld s Fld.DRV_CTRL_NF_CELLAR d) (t - 4)) || (decide (t = d / 4) && fbit s Fld.DRV_CTRL_NF_YARD d))

/-- Masters whose FRAME traffic the pair's SHARE limits (Table 9.1), with their largest bursts. -/
def pairMasters : List (Nat × Nat) := [(0, 64), (1, 64), (2, 64), (3, 64), (22, 256), (23, 256)]

/-- The FRAME requesters at a point: master, share, largest burst, and the channel of a frame channel. -/
def requesters (s : State) (p : Nat) : List (Nat × Nat × Nat × Option Nat) :=
  let t := pointTarget p
  ((frameChans s).filter (fun i => (chanPoints s i).contains p)).map (fun i =>
    (masterDrover (i / 8), fld s Fld.CH_CFG_SHARE i, ((chanMoves s i).filter (fun m => decide (arbPoint m.src = p ∨ arbPoint m.dst = p))).foldl (fun b m => max b m.burst) 0, some i)) ++
  ((List.range 16).filter (fun d => nfReaches s d t)).map (fun d => (masterDrover d, fld s Fld.DRV_CTRL_NF_SHARE d, 256, none)) ++
  (pairMasters.filter (fun m => fbit s Fld.XB_PAIR_SHARE (pairIdx m.1 t))).map (fun m => (m.1, fld s Fld.XB_PAIR_SHARE (pairIdx m.1 t), m.2, none))

/-- The FRAME shares reserved at a point. -/
def pointShares (s : State) (p : Nat) : Nat := (requesters s p).foldl (fun a r => a + r.2.1) 0

/-- The largest sum of FRAME shares that is reserved at a point of a target (Table 9.2). -/
def targetCap (t : Nat) : Nat := if t < 4 then 224 else if t < 12 then 204 else if t = 13 ∨ t = 14 then 240 else 0

/-- The largest share sum at any point of a target (Table 9.13). -/
def targetShares (s : State) (t : Nat) : Nat := (allPoints.filter (fun p => decide (pointTarget p = t))).foldl (fun m p => max m (pointShares s p)) 0

/-! ### Completion times of frame channels (R203, R227, R228) -/

/-- The latency L of a target in ns (Table 9.2). -/
def targetLatency (t : Nat) : Nat := if t < 4 then 20 else if t < 12 then 170 else if t = 13 ∨ t = 14 then 30 else 40

/-- Times on a drover are counted in 1/n ns, such that every term of R228 is whole. -/
def timeUnit (s : State) (d : Nat) : Nat :=
  448 * ((List.range 8).filter (fun c => isFrameChan s (chanIdx d c))).foldl (fun a c => a * max 1 (fld s Fld.CH_CFG_SHARE (chanIdx d c))) 1

/-- The lag of R227 of a channel at a point: the largest bursts of the other FRAME requesters of its priority or above, and one burst of any requester, 256 bytes. -/
def pointLag (s : State) (k i p : Nat) : Nat :=
  let t := pointTarget p
  let prio (m : Nat) : Nat := fld s Fld.XB_PAIR_PRIO_F (pairIdx m t)
  let h := (requesters s p).filter (fun r => decide (r.2.2.2 ≠ some i ∧ prio (masterDrover (i / 8)) ≤ prio r.1))
  (h.foldl (fun a r => a + r.2.2.1) 0 + 256) * k / targetRate t

/-- The term of one MOVE: the slower side at the channel's share, lag and latency of each side, the dispatch, and the pace of an input port (R319). -/
def moveTerm (s : State) (k i : Nat) (m : MoveUse) : Nat :=
  let side (a : Nat) : Nat := m.bytes * 256 * k / (fld s Fld.CH_CFG_SHARE i * targetRate (xbTarget a))
  let rest (a : Nat) : Nat := pointLag s k i (arbPoint a) + targetLatency (xbTarget a) * k
  m.times * (max (side m.src) (side m.dst) + rest m.src + rest m.dst + (if m.pace ∧ xbTarget m.src = 14 then 56 * k else 0))

/-- The words that a channel moves in or out of a bank in a frame. -/
def guestWords (s : State) (i b : Nat) : Nat :=
  (chanMoves s i).foldl (fun a m => a + m.times * (m.bytes / 8) * (bnat (decide (xbBank m.src = some b)) + bnat (decide (xbBank m.dst = some b)))) 0

/-- The stall-owned banks that a channel reaches as a guest (R202). -/
def guestBanks (s : State) (i : Nat) : List Nat :=
  (((chanMoves s i).flatMap (fun m => (xbBank m.src).toList ++ (xbBank m.dst).toList)).eraseDups).filter
    (fun b => decide (fld s Fld.BANK_OWN_OWNER b < 8) && fbit s Fld.BANK_OWN_GUEST b)

/-- The bank terms: (A_own + A_guest) × 0.25 ns for each guest bank (R203). -/
def bankTerm (s : State) (use : List (Nat × Nat)) (k i : Nat) : Nat :=
  (guestBanks s i).foldl (fun a b => a + ((use.find? (fun x => decide (x.1 = b))).map Prod.snd).getD 0 + guestWords s i b) 0 * k / 4

/-- The certified slot of a post: of a word of a stall's page, or of a frame channel as (1,024 + i, 0). -/
def postSlot (posts : List (Nat × Nat × Nat)) (u a : Nat) : Option Nat := (posts.find? (fun q => decide (q.1 = u ∧ q.2.1 = a))).map (fun q => q.2.2)

/-- Whether a channel's program posts to a flag. -/
def chanSignals (s : State) (i u f : Nat) : Bool :=
  (chanText s i).any (fun x => decide (drvOp x.2 = 4 ∧ dfield x.2.w0 16 11 = u ∧ dfield x.2.w0 0 4 = f))

/-- The slots of the posts that reach a receive slot (by SEND) or a flag (by SIGNAL) of a unit, the pages being those of a list of sets. -/
def postsInto (s : State) (xs : List ProgramSet) (x : ProgramSet) (u k : Nat) (send : Bool) : List Nat :=
  (setUnits x).flatMap (fun v => (pageInstrs (pageIn s xs v)).filterMap (fun w => match w.2 with
    | .send a b _ => if send ∧ a.toNat = u ∧ b.toNat = k then postSlot x.posts v w.1 else none
    | .signal a b => if ¬ send ∧ a.toNat = u ∧ b.toNat = k then postSlot x.posts v w.1 else none
    | _ => none)) ++
  (if send then [] else ((frameChans s).filter (fun i => chanSignals s i u k)).filterMap (fun i => postSlot x.posts (1024 + i) 0))

/-- The term of the WAITs of a channel: the certified post times of their producers; slot p is at p / 0.7 ns. -/
def waitTerm (s : State) (xs : List ProgramSet) (x : ProgramSet) (k i : Nat) : Nat :=
  let t := chanText s i
  (t.filter (fun y => decide (drvOp y.2 = 3))).foldl (fun a y =>
    a + chanTimes t y.1 * ((postsInto s xs x (1024 + i) (dfield y.2.w0 0 4) false).foldl max 0 * 10 * k / 7)) 0

/-- What a channel's own program takes: its terms and 4 ns for each instruction dispatched, END included. -/
def chanTerm (s : State) (xs : List ProgramSet) (x : ProgramSet) (use : List (Nat × Nat)) (k i : Nat) : Nat :=
  let t := chanText s i
  (chanMoves s i).foldl (fun a m => a + moveTerm s k i m) 0 + bankTerm s use k i + waitTerm s xs x k i +
    4 * k * (t.foldl (fun a y => a + chanTimes t y.1) 0 + 1)

/-- When the frame channels of a drover below channel `c` have ended: they run in rising order (R231). -/
def chanEnds (s : State) (xs : List ProgramSet) (x : ProgramSet) (use : List (Nat × Nat)) (d : Nat) : Nat → Nat
  | 0 => 0
  | c + 1 => chanEnds s xs x use d c + (if isFrameChan s (chanIdx d c) then chanTerm s xs x use (timeUnit s d) (chanIdx d c) else 0)

/-- The completion slot of a frame channel: ⌈0.7 t⌉ (R133, R228). -/
def chanSlot (s : State) (xs : List ProgramSet) (x : ProgramSet) (use : List (Nat × Nat)) (i : Nat) : Nat :=
  let k := timeUnit s (i / 8)
  (7 * chanEnds s xs x use (i / 8) (i % 8 + 1) + 10 * k - 1) / (10 * k)

/-- Whether every frame channel of a program is certified (R203, R228): it has a share, every side has a rate, its post stands at its completion slot, and a guest bank serves
one channel only. -/
def chansCertified (s : State) (xs : List ProgramSet) (x : ProgramSet) (use : List (Nat × Nat)) : Bool :=
  let cs := frameChans s
  cs.all (fun i => fbit s Fld.CH_CFG_SHARE i && (chanMoves s i).all (fun m => decide (targetRate (xbTarget m.src) ≠ 0 ∧ targetRate (xbTarget m.dst) ≠ 0)) &&
    decide (postSlot x.posts (1024 + i) 0 = some (chanSlot s xs x use i))) &&
  apart (fun i j => (guestBanks s i).any (guestBanks s j).contains) cs

/-! ### Timelines (R31, R133, R134) -/

/-- The slot at which what a WAIT or RECV waits for has arrived. -/
def arrivalOf (posts : List (Nat × Nat × Nat)) : Producer → Nat
  | .word u i => (postSlot posts u i).getD 0 + 8
  | .cross _ _ e => e
  | .chan c => (postSlot posts (1024 + c) 0).getD 0 + 8
  | .memory => 0

/-- Whether a page's SENDs or SIGNALs to a receiver carry samples of the same frame. -/
def sameFramePost (l : List PostPlan) (u k : Nat) : Bool := l.any (fun x => decide (x.unit = u ∧ x.idx = k ∧ x.delay = 0))

/-- Whether a producer posts to the slot (RECV) or flag (WAIT) of a stall: a word of a page, in the same yard for a SEND; across yards the slot that ends at or after the
SEND; a frame channel. -/
def producerOk (s : State) (xs : List ProgramSet) (x : ProgramSet) (u k : Nat) (send : Bool) : Producer → Bool
  | .word v a => (match wordAt (pageIn s xs v) a with
    | some (.send b c _) => send && decide (b.toNat = u ∧ c.toNat = k ∧ v / 256 = u / 256)
    | some (.signal b c) => !send && decide (b.toNat = u ∧ c.toNat = k)
    | _ => false) && (postSlot x.posts v a).isSome
  | .cross v a e => send && decide (v / 256 ≠ u / 256) && (match wordAt (pageIn s xs v) a with
    | some (.send b c _) => decide (b.toNat = u ∧ c.toNat = k)
    | _ => false) && (match postSlot x.posts v a with
    | some t => decide (t ≤ e)
    | none => false)
  | .chan i => !send && isFrameChan s i && chanSignals s i u k
  | .memory => true

/-- Whether a WAIT or RECV lists a post: a word of a page, or a frame channel. -/
def listsPost (v a : Nat) : Producer → Bool
  | .word b c => decide (b = v ∧ c = a)
  | .cross b c _ => decide (b = v ∧ c = a)
  | .chan i => decide (v = 1024 + i)
  | .memory => false

/-- The producers that the WAITs of a flag, or the RECVs of a slot, of a page list. -/
def listedFor (p : PageOut) (k : Nat) (send : Bool) : List Producer :=
  (pageInstrs p).flatMap (fun w => let l := ((p.waits.find? (fun y => decide (y.1 = w.1))).map Prod.snd).getD []
    match w.2 with
    | .recv c _ => if send ∧ c.toNat = k then l else []
    | .wait f => if ¬ send ∧ f.toNat = k then l else []
    | _ => [])

/-- Whether the waits of a page are those of the program: each lists posts that reach it, and every post of the same frame that reaches it is listed. -/
def waitsOk (s : State) (xs : List ProgramSet) (x : ProgramSet) (p : PageOut) : Bool :=
  (pageInstrs p).all (fun w => let l := ((p.waits.find? (fun y => decide (y.1 = w.1))).map Prod.snd).getD []
    match w.2 with
    | .recv c _ => l.all (producerOk s xs x p.unit c.toNat true)
    | .wait f => l.all (producerOk s xs x p.unit f.toNat false)
    | _ => true) &&
  (setUnits x).all (fun v => let q := pageIn s xs v
    (pageInstrs q).all (fun w => match w.2 with
      | .send b c _ => !decide (b.toNat = p.unit) || !sameFramePost q.hdr.sends p.unit c.toNat || (listedFor p c.toNat true).any (listsPost v w.1)
      | .signal b c => !decide (b.toNat = p.unit) || !sameFramePost q.hdr.signals p.unit c.toNat || (listedFor p c.toNat false).any (listsPost v w.1)
      | _ => true)) &&
  (frameChans s).all (fun i => (List.range 16).all (fun f => !chanSignals s i p.unit f || (listedFor p f false).any (listsPost (1024 + i) 0)))

/-- The posts of a page, in word order, as its timelines give them. -/
def flowPosts (p : PageOut) (fs : List Flow) : List (Nat × Nat × Nat) :=
  (pageInstrs p).filterMap (fun w => match w.2 with
    | .send _ _ _ | .signal _ _ => (latestPost fs w.1).map (fun t => (p.unit, w.1, t))
    | _ => none)

/-- Whether what reaches a stall that keeps its page arrives no later than before, so that its count holds. -/
def keptTimely (s0 s1 : State) (xs : List ProgramSet) (base x : ProgramSet) (u : Nat) : Bool :=
  (List.range 16).all (fun k => [true, false].all (fun send =>
    decide ((postsInto s1 xs x u k send).foldl max 0 ≤ (postsInto s0 (xs.drop 1) base u k send).foldl max 0)))

/-- The graph in which the tasks of a transition find their nodes: the new one, with the nodes that only the live one has. -/
def bothGraph (new old : Graph) : Graph := { new with nodes := new.nodes ++ old.nodes.filter (fun n => (nodeOf new n.id).isNone) }

/-- Whether the headers and posts of a set are those that its timelines give (R133). `s0` and `s1` are the states before and with the plan; `xs` are the sets whose pages hold,
the first first. -/
def setCertified (s0 s1 : State) (g : Graph) (xs : List ProgramSet) (base x : ProgramSet) (use : List (Nat × Nat)) : Bool :=
  x.pages.all (fun p =>
    let fs := phaseFlows g x.tasks (arrivalOf x.posts) p
    decide (p.hdr.w = pageCount fs ∧ unitPosts x p.unit = flowPosts p fs) && waitsOk s1 xs x p) &&
  (setUnits x).all (fun u => (newPage x u).isSome || keptTimely s0 s1 xs base x u) &&
  x.posts.all (fun q => decide (q.1 < 1024) || (frameChans s1).contains (q.1 - 1024)) && chansCertified s1 xs x use

/-! ### Streams (R52, R143) -/

/-- The streams that the nodes of a graph define: kind, node, pins. -/
def nodeStream (n : GNode) : Option (Nat × Nat) :=
  match n.kind with
  | 1 => some (0, n.nOut) | 2 => some (1, n.nOut) | 3 => some (2, n.nOut) | 4 => some (0, n.nIn) | 5 => some (2, n.nIn) | 6 => some (3, n.nIn) | _ => none

/-- Whether a stream index is listed with a kind. -/
def streamKind (l : List StreamEntry) (i : Option Nat) (ks : List Nat) : Bool :=
  match i with
  | none => true
  | some k => l.any (fun e => decide (e.index = k) && ks.contains e.kind)

/-- Whether the streams of a plan are those of its graph (R143): unique indices; every pin of a port, PDM, link or amplifier node in just one of its streams; a stall that
receives samples has an exchange stream; what the pages, channels and ports name is listed; a stream that is kept keeps its index. -/
def streamsOk (c : CompileJob) (o : CompileOut) (live : List StreamEntry) (same : Nat → Bool) : Bool :=
  let pages := o.main.pages ++ (o.final.map ProgramSet.pages).getD []
  apart (fun a b => decide (a.index = b.index)) o.streams &&
  c.snap.nodes.all (fun n => match nodeStream n with
    | none => true
    | some (k, w) => (List.range w).all (fun p => decide ((o.streams.filter (fun e => decide (e.kind = k ∧ e.node = n.id ∧ e.firstPin ≤ p ∧ p ≤ e.lastPin))).length = 1))) &&
  pages.all (fun p => streamKind o.streams p.hdr.exchStream [4] && (p.hdr.outs.filterMap id).all (fun x => streamKind o.streams x.stream [0, 2, 3]) &&
    ((pageInstrs p).all (fun w => match w.2 with
      | .recv _ _ => p.hdr.exchStream.isSome
      | _ => true))) &&
  o.chans.all (fun x => streamKind o.streams x.2.stream [5]) && o.portStreams.all (fun x => streamKind o.streams (some x.2) [0, 1]) &&
  o.ampStreams.all (fun x => streamKind o.streams (some x.2) [3]) && o.rxStreams.all (fun x => streamKind o.streams (some x.2) [2]) &&
  live.all (fun e => !same e.node || o.streams.contains e)

/-! ### Routes (R51, R144) -/

/-- What an edge adds to a path into its node: its delay, 2 frames if it crosses engines, D − 1 into a smaller divisor; and the group delay of a RATECONV. -/
def edgeAdds (g : Graph) (hz : Nat) (e : GEdge) (a b : GNode) : Nat × Nat :=
  let sg (n : Nat) : GSeg := (segOf g n).getD ⟨0, 1, 1, 0⟩
  let rate (x : GSeg) : Nat := hz * 1000 * x.mul / x.div
  (e.delay + (if a.engine ≠ b.engine then 2 else 0) + (if (sg b.segment).div < (sg a.segment).div then (sg a.segment).div - 1 else 0),
   if b.kind = 7 ∧ b.kernel = 12 then Config.convDelay (rate (sg (b.config0 % 16))) (rate (sg b.segment)) else 0)

/-- The sinks that simple paths reach from a node (from one pin, or from all), with frames and group delay. DEDUCED: log entry 120. -/
def routeWalk (g : Graph) (hz : Nat) : Nat → List Nat → GNode → Option Nat → Nat → Nat → List RouteRec
  | 0, _, _, _, _, _ => []
  | k + 1, seen, a, pin, f, gd =>
    (g.edges.filter (fun e => decide (e.srcNode = a.id) && (pin.map (fun p => decide (p = e.srcPin))).getD true)).flatMap (fun e =>
      match nodeOf g e.dstNode with
      | none => []
      | some b =>
        let x := edgeAdds g hz e a b
        if 4 ≤ b.kind ∧ b.kind ≤ 6 then [⟨0, 0, b.id, e.dstPin, f + x.1, gd + x.2⟩]
        else if seen.contains b.id then [] else routeWalk g hz k (b.id :: seen) b none (f + x.1) (gd + x.2))

/-- One route for each sink pin: the one with most frames. -/
def longest (l : List RouteRec) : List RouteRec :=
  l.foldl (fun acc x => match acc.find? (fun y => decide (y.dstNode = x.dstNode ∧ y.dstPin = x.dstPin)) with
    | none => acc ++ [x]
    | some y => if y.frames < x.frames then updWhere (fun z => decide (z.dstNode = x.dstNode ∧ z.dstPin = x.dstPin)) (fun _ => x) acc else acc) []

/-- The route latency records of a graph (R144). -/
def graphRoutes (g : Graph) (hz : Nat) : List RouteRec :=
  (g.nodes.filter (fun n => decide (1 ≤ n.kind ∧ n.kind ≤ 3))).flatMap (fun n => (List.range n.nOut).flatMap (fun p =>
    (longest (routeWalk g hz (g.nodes.length + 1) [n.id] n (some p) 3 0)).map (fun x => { x with srcNode := n.id, srcPin := p })))

/-! ### Counts and figures (R137, R142) -/

/-- The counts of the stalls: of the final program, and with a crossfade of the transition as well. -/
def planCounts (s : State) (o : CompileOut) : List StallCount :=
  match o.final with
  | none => ((setUnits o.main).map (fun u => ⟨u, (pageIn s [o.main] u).hdr.w, 0⟩)).filter (fun x => decide (x.w ≠ 0))
  | some f => (((setUnits o.main ++ setUnits f).eraseDups).map (fun u => ⟨u, (pageIn s [f, o.main] u).hdr.w, (pageIn s [o.main] u).hdr.w⟩)).filter
      (fun x => decide (x.w ≠ 0 ∨ x.wTransition ≠ 0))

/-- The bytes of the areas of a list that lie in a range. -/
def bytesIn (l : List TaskArea) (lo hi : Nat) : Nat := ((l.filter (fun a => decide (lo ≤ a.base ∧ a.base < hi))).map TaskArea.len).foldl (· + ·) 0

/-- The figures of the result record (Table 5.10). Local memory counts the areas and both copies of the parameter windows. DESIGN CHOICE: log entry 112. -/
def planFigures (s : State) (c : CompileJob) (o : CompileOut) : ResultFigures :=
  let l := areasIn o.main.tasks
  let same := nodeKept s.live c.snap s.liveParams c.params
  { moved := (movedTasks (liveSet s) o.main same).length,
    localBytes := bytesIn l 0x08000000 0x09000000 + ((setUnits o.main).map (fun u => 2 * (pageIn s [o.main] u).hdr.paSize)).foldl (· + ·) 0,
    scratchBytes := bytesIn l 0x04000000 0x08000000, cellarBytes := bytesIn l cellarBase cellarEnd,
    xfadeExcess := (planCounts s o).foldl (fun m x => max m (x.wTransition - x.w)) 0 }

/-! ### Diagnostics of a plan (R125, R126, R135, R145) -/

/-- A diagnostic of a stall. -/
def unitDiag (code u v l : Nat) : Diag := ⟨code, 2, none, none, none, none, some u, some v, some l⟩

/-- The sets of a plan. -/
def planSets (o : CompileOut) : List ProgramSet := o.main :: o.final.toList

/-- PLACE hints that the placement does not follow (R125). -/
def placeDiags (g : Graph) (x : ProgramSet) : List Diag :=
  (g.nodes.filter (fun n => decide (n.place ≠ 0xFFFF) && (kernelTasks x n.id false).any (fun t =>
    decide ((if n.place / 1024 = 0 then t.unit else if n.place / 1024 = 1 then t.unit / 8 else t.unit / 256) ≠ n.place % 1024)))).map
    (fun n => diagAt 0x17 1 (some n.id) none none none none)

/-- Stalls that need more than 16 exchange receive slots. -/
def slotDiags (x : ProgramSet) : List Diag :=
  (setUnits x).filterMap (fun u => let n := ((unitTasks x u).flatMap TaskOut.slots).eraseDups.length
    if 16 < n then some (unitDiag 0x11 u n 16) else none)

/-- Stalls that need more than 8,192 output channels (in bytes of the output window), and more streams than 4,096. -/
def roomDiags (o : CompileOut) (x : ProgramSet) : List Diag :=
  ((setUnits x).filterMap (fun u => let n := ((unitTasks x u).flatMap TaskOut.chans).eraseDups.length
    if 8192 < n then some (unitDiag 0xE u (8 * n) 65536) else none)) ++
  (if 4096 < o.streams.length then [diagAt 0x19 2 none none none none none] else [])

/-- Arbitration points at which the shares pass CAP (R211, R220). -/
def shareDiags (s : State) : List Diag :=
  (allPoints.filter (fun p => decide (targetCap (pointTarget p) < pointShares s p))).map
    (fun p => ⟨0x12, 2, none, none, none, none, none, some (pointShares s p), some (targetCap (pointTarget p))⟩)

/-- Engines that more than 4,096 cross-engine channels leave. -/
def linkDiags (g : Graph) : List Diag :=
  (List.range 16).filterMap (fun e =>
    let n := (g.edges.filter (fun x => match nodeOf g x.srcNode, nodeOf g x.dstNode with
      | some a, some b => decide (a.engine = e ∧ b.engine ≠ e)
      | _, _ => false)).length
    if 4096 < n then some ⟨0x13, 2, some e, none, none, none, none, some n, some 4096⟩ else none)

/-- The frame budget B (Table 2.2). -/
def budgetB (fs : Nat) : Nat :=
  match fs with
  | 0 => 14603 | 1 => 13416 | 2 => 7301 | 3 => 6708 | 4 => 3650 | 5 => 3354 | 6 => 1825 | _ => 1677

/-- The pages that certification refuses (R135, R137): a count above B. -/
def overBudget (fs : Nat) (o : CompileOut) : List Diag :=
  (((planSets o).flatMap ProgramSet.pages).filter (fun p => decide (budgetB fs < p.hdr.w))).map (fun p => unitDiag 0xD p.unit p.hdr.w (budgetB fs))

/-- What the phases after LOWER find in a plan (Table 5.9). -/
def planDiags (s : State) (c : CompileJob) (o : CompileOut) (phase : Nat) : List Diag :=
  match phase with
  | 4 => placeDiags c.snap o.main
  | 5 => (planSets o).flatMap slotDiags
  | 6 => (planSets o).flatMap (roomDiags o)
  | 7 => shareDiags (planState o s)
  | 8 => overBudget c.fs o ++ declaredDiags c.snap s.kernels
  | _ => []

/-- What the maltster may find where it finds no plan: the resource of the phase falls short, or a stall's count passes B (Tables 5.8, 5.9, 5.11). DESIGN CHOICE: log entry 12. -/
def givenOk (fs phase : Nat) (d : Diag) : Bool :=
  let short := match d.value, d.limit with
    | some v, some l => decide (l < v)
    | _, _ => false
  decide (d.severity = 2) &&
  (match phase with
   | 3 => decide (d.code = 0x16) && short
   | 5 => decide (d.code = 0x11 ∧ d.limit = some 16) && short
   | 6 => (decide (d.code = 0xE ∨ d.code = 0xF ∨ d.code = 0x10) && short) || decide (d.code = 0x19)
   | 7 => decide (d.code = 0x12 ∨ d.code = 0x13) && short
   | 8 => decide (d.code = 0xD ∧ d.limit = some (budgetB fs)) && short
   | _ => false)

/-! ### The regions of the link slot tables (R332, R333) -/

/-- Column time in ps of a RATE code (Table 13.2). -/
def columnPs (rate : Nat) : Nat := [8000, 4000, 3200, 2000, 1600, 1000, 800].getD rate 800

/-- Lines rates in Mb/s by RATE code (Table 13.2). -/
def rateMb (rate : Nat) : Nat := [1250, 2500, 3125, 5000, 6250, 10000, 12500].getD rate 12500

/-- Bytes of a sample by SFMT. -/
def sampleWidth (sfmt : Nat) : Nat := [6, 3, 4].getD sfmt 6

/-- The TX entries of a trace: the normal ones and the DUP ones, in list order. -/
def txEntries (s : State) (t : Nat) (dup : Bool) : List Nat :=
  ((List.range (fld s Fld.TRACE_TX_SLOTS_COUNT t)).map (fun i => fld s Fld.TRACE_TX_SLOTS_FIRST t + i)).filter
    (fun e => fbit s Fld.TX_SLOT_DUP e == dup)

/-- The columns of a region of `n` normal and `d` DUP slots of `sw` bytes on `w` lanes; none if it cannot be laid out. -/
def regionCols (n d sw w : Nat) : Option Nat :=
  let normal := if n = 0 then 0 else (n * sw + 4 + w - 1) / w
  let h := w / 2
  if d = 0 then some normal else if h = 0 then none else some (normal + (d * sw + 4 + h - 1) / h)

/-- C_min of a trace at the base rate (R333). -/
def columnsMin (s : State) (t : Nat) : Nat := rateMb (fld s Fld.TRACE_CFG_RATE t) * 100000 * 9998 / (10000 * fsHz s.fs)

/-- The columns of the region that the TX slot list of a trace makes on `w` lanes. -/
def slotCols (s : State) (t w : Nat) : Option Nat :=
  regionCols (txEntries s t false).length (txEntries s t true).length (sampleWidth (fld s Fld.TRACE_CFG_SFMT t)) w

/-- The OFFSET at which the maltster places a region (R333): on a herd trace the smallest that spans 100 ns, else the largest at which it fits half the lanes. -/
def regionPlace (s : State) (t : Nat) : Option Nat :=
  if fld s Fld.TRACE_CFG_KIND t = 1 then
    let ps := columnPs (fld s Fld.TRACE_CFG_RATE t)
    some ((100000 + ps - 1) / ps)
  else
    match slotCols s t ((traceWidth s t + 1) / 2) with
    | some c => if 265 + c ≤ columnsMin s t then some (min 16383 (columnsMin s t - 265 - c)) else none
    | none => none

/-- Whether the region of a trace is one that the maltster makes: at most 8,192 columns, it fits the full width, and it lies where R333 places it. -/
def regionFormed (s : State) (t : Nat) : Bool :=
  match slotCols s t (traceWidth s t) with
  | none => false
  | some c => decide (c ≤ 8192 ∧ 265 + fld s Fld.TRACE_TX_REGION_OFFSET t + c ≤ columnsMin s t) &&
    (match regionPlace s t with
     | some o => decide (fld s Fld.TRACE_TX_REGION_OFFSET t = o)
     | none => true)

/-- A stream put into a list that rises by number. -/
def putStream (e : Nat × Nat × Bool) (l : List (Nat × Nat × Bool)) : List (Nat × Nat × Bool) :=
  l.filter (fun x => decide (x.1 < e.1)) ++ [e] ++ l.filter (fun x => decide (e.1 ≤ x.1))

/-- The streams that a graph sends on a trace: number, channels, DUP, in rising stream number (R363). -/
def streamsOn (g : Graph) (t : Nat) : List (Nat × Nat × Bool) :=
  let l := (g.nodes.filter (fun n => decide (n.kind = 5 ∧ n.bind / 2 ^ 16 % 64 = t))).map (fun n =>
    (n.bind % 2 ^ 16, n.nIn, g.edges.any (fun e => decide (e.dstNode = n.id) && testBit e.flags 3)))
  l.foldr putStream []

/-- The slots of a section of a trace: one for each channel of the streams that the graph sends there (R363). -/
def streamSlots (g : Graph) (t : Nat) (dup : Bool) : Nat :=
  (((streamsOn g t).filter (fun e => e.2.2 == dup)).map (fun e => e.2.1)).foldl (· + ·) 0

/-- The RX entries that a plan enables. -/
def planRx (o : CompileOut) : List RegItem := o.regs.filter (fun r => decide (0x26000 ≤ r.addr ∧ r.addr < 0x28000) && testBit r.value.toNat 27)

/-- Whether an RX entry belongs to a herd trace. -/
def herdRx (s : State) (i : Nat) : Bool :=
  (List.range 64).any (fun t => decide (fld s Fld.TRACE_CFG_KIND t = 1 ∧ fld s Fld.TRACE_RX_SLOTS_FIRST t ≤ i ∧
    i < fld s Fld.TRACE_RX_SLOTS_FIRST t + fld s Fld.TRACE_RX_SLOTS_COUNT t))

/-- The link slot tables of a plan: the regions that it sets on traces that are up or trying (R333, R363), no third entry of a ring (R353), and rings of herd streams
of at least P + 2 samples (R364). `s`: the plan in place. DEDUCED: log entry 129. -/
def linksFormed (g : Graph) (o : CompileOut) (s : State) : Bool :=
  (List.range 64).all (fun t =>
    let sets := o.regs.any (fun r => decide (r.addr = 0x21010 + 64 * t ∨ r.addr = 0x21014 + 64 * t))
    !sets || decide (fld s Fld.TRACE_STATE_STATE t = 0 ∨ fld s Fld.TRACE_TX_SLOTS_COUNT t = 0) ||
      (regionFormed s t && (decide (fld s Fld.TRACE_CFG_KIND t ≠ 1) || [false, true].all (fun d => decide ((txEntries s t d).length = streamSlots g t d))))) &&
  (let rings := (planRx o).map (fun r => r.value.toNat % 2 ^ 23)
   rings.all (fun b => decide ((rings.filter (fun x => decide (x = b))).length ≤ 2))) &&
  (planRx o).all (fun r => !herdRx s ((r.addr - 0x26000) / 4) ||
    decide (fld s Fld.HERD_CTRL_HERD_PRES + 2 ≤ 2 ^ (r.value.toNat / 2 ^ 23 % 16)))

/-! ### The whole plan -/

/-- What every plan satisfies that the maltster makes: its sets are formed and certified, its memory is free, its streams are those of the graph; on a standby it is the
partner's plan (R130–R134, R136, R137, R141, R143). DESIGN CHOICE: log entry 12. -/
def planFormed (s : State) (c : CompileJob) (o : CompileOut) : Bool :=
  let all := allNew s c
  let kept := nodeKept s.live c.snap s.liveParams c.params
  let same (i : Nat) : Bool := !all && kept i
  let side (u : Nat) : Bool := !(pagesOf s u).live
  let s1 := planState o s
  let g := bothGraph c.snap s.live
  let base := liveSet s
  let finals := (o.final.map ProgramSet.tasks).getD []
  let pages := o.main.pages ++ (o.final.map ProgramSet.pages).getD []
  let fresh := (o.main.tasks ++ finals.filter (fun t => !o.main.tasks.any (sameHold t))).filter (freshTask base same)
  setFormed c s.live s.kernels all side (fun u => liveHdr (pagesOf s u)) base same o.main &&
  setCertified s s1 g [o.main] base o.main o.bankUse &&
  outsApart ((setUnits o.main).map (pageIn s [o.main])) &&
  (match o.final with
   | none => true
   | some f =>
     setFormed c s.live s.kernels false (fun u => if (newPage o.main u).isSome then !side u else side u) (fun u => (pageIn s [o.main] u).hdr) o.main (fun _ => true) f &&
     setCertified s1 s1 g [f, o.main] o.main f o.bankUse && outsApart ((setUnits f).map (pageIn s [f, o.main]))) &&
  xfadeOk s c o && memoryFree s o s.liveTasks fresh (s.liveTasks ++ fresh) o.main.pages ((o.final.map ProgramSet.pages).getD []) && contentsOk o fresh pages && linksFormed c.snap o s1 &&
  o.tokens.all (fun t => decide (t.1 < 2048 ∧ t.2.1 < 8)) && streamsOk c o s.liveStreams same &&
  decide (c.partner = none ∨ c.partner = some o.main)

end Sys2Proof.Machine
end

