-- ==== Sys2Proof/Machine/Brew.lean ====
section
/-! DEFINITION. Brews (R171–R184): items, claims, the bake, direct writes, spills, the life of a brew up to its tap, and the engine's own requests
to other endpoints (R262, R263, R273). The tap itself is in Tap.lean. -/

namespace Sys2Proof.Machine

def brewOf (s : State) (h : Nat) : Brew := smapGet (fun _ => brewFree) s.brews h
def setBrew (h : Nat) (b : Brew) (s : State) : State := { s with brews := smapSet (fun _ => brewFree) h b s.brews }

/-- The engine's own endpoint ID. -/
def ownEndpoint (s : State) : Nat := fld s Fld.ENDPOINT_ID_ID

/-! ### Requests that the engine sends (R263, R273) -/

/-- All ones: not tapped. -/
def noFrame : Nat := 2 ^ 64 - 1

/-- The sequence number of own request `n` of a session to an endpoint. -/
def ownSeqOf (ep n : Nat) : Nat := (Config.ownSeq ep + n) % 2 ^ 32

/-- The packet of own request `n` of a session. -/
def ownPacket (ep num n op : Nat) (payload : List Byte) : List Byte :=
  sealPacket none 0 (packetBody ⟨0, op, n % 256, num, ownSeqOf ep n, 0, 0, 0⟩ payload)

/-- Put a packet on its way to an endpoint over the command virtual channel. -/
def sendTo (ep : Nat) (bytes : List Byte) (s : State) : State :=
  queuePacket ⟨.trace ep, ⟨0, none, 0⟩, 0, false, bytes⟩ s

/-- Send a request of an open own session. DESIGN CHOICE: log entry 36. -/
def ownSend (x : OwnSession) (num op : Nat) (payload : List Byte) (s : State) : State :=
  let bytes := ownPacket x.endpoint num x.next op payload
  sendTo x.endpoint bytes { s with
    ownReqs := s.ownReqs ++ [⟨x.endpoint, ownSeqOf x.endpoint x.next, op, bytes, 0⟩],
    ownSessions := updWhere (fun y => decide (y.endpoint = x.endpoint)) (fun y => { y with next := y.next + 1 }) s.ownSessions }

/-- Send a request to an endpoint; without an open session the engine first opens one, and at most 8 exist (R273). -/
def sendOwn (ep op : Nat) (payload : List Byte) (s : State) : State :=
  match s.ownSessions.find? (fun x => decide (x.endpoint = ep)) with
  | some x =>
    match x.num with
    | some n => ownSend x n op payload s
    | none => { s with ownSessions := updWhere (fun y => decide (y.endpoint = ep)) (fun y => { y with waiting := y.waiting ++ [(op, payload)] }) s.ownSessions }
  | none =>
    if 8 ≤ s.ownSessions.length then s
    else ownSend ⟨ep, none, 0, [(op, payload)]⟩ 0 2 ([0xFF, 0, 0, 0] ++ beBytes 8 (Config.ownNonce ep))
      { s with ownSessions := s.ownSessions ++ [⟨ep, none, 0, [(op, payload)]⟩] }

/-- Open an own session to an endpoint if there is none (R273). DESIGN CHOICE: log entry 36. -/
def openOwn (ep : Nat) (s : State) : State :=
  if s.ownSessions.any (fun x => decide (x.endpoint = ep)) ∨ 8 ≤ s.ownSessions.length then s
  else ownSend ⟨ep, none, 0, []⟩ 0 2 ([0xFF, 0, 0, 0] ++ beBytes 8 (Config.ownNonce ep)) { s with ownSessions := s.ownSessions ++ [⟨ep, none, 0, []⟩] }

/-- The reply to an own SESSION_OPEN: the session has its number and the packets that waited for it go out. -/
def ownOpened (a : Answer) (s : State) : State :=
  match s.ownSessions.find? (fun x => decide (x.endpoint = a.endpoint)) with
  | none => s
  | some x =>
    if a.status ≠ 0 then { s with ownSessions := s.ownSessions.filter (fun y => decide (y.endpoint ≠ a.endpoint)) }
    else
      let n := rd a.payload 0 2
      let s := { s with ownSessions := updWhere (fun y => decide (y.endpoint = a.endpoint)) (fun y => { y with num := some n, waiting := [], next := 0 }) s.ownSessions }
      forEach x.waiting (fun w s => sendOwn a.endpoint w.1 w.2 s) s

/-! ### Tap-group messages (R190, Tables 7.7, 7.8) -/

/-- The 28-byte record of a message. -/
def tapRecord (s : State) (group frame handle kind cause eff : Nat) : List Byte :=
  beBytes 4 group ++ beBytes 8 frame ++ beBytes 4 (ownEndpoint s) ++ beBytes 1 handle ++ beBytes 1 kind ++ beBytes 2 cause ++ beBytes 8 eff

/-- Send a message to an endpoint. -/
def sendTap (ep group frame handle kind cause eff : Nat) (s : State) : State :=
  sendOwn ep 0x408 (tapRecord s group frame handle kind cause eff) s

/-! ### Items -/

/-- The bits of a register that its RW fields take. -/
def rwMask (r : RegRow) : Nat :=
  (r.fields.filter (fun f => decide (f.acc = .rw))).foldl (fun m f => m + (2 ^ (f.hi + 1 - f.lo) - 1) * 2 ^ f.lo) 0

/-- Whether a register is brewable (R172, R297). -/
def brewable (a : Nat) : Bool :=
  match regAt a with
  | some (r, _) => r.fields.any (fun f => decide (f.brew ≠ .no))
  | none => false

/-- The bits of a register that a brew may write: its RW fields that are brewable (R172, R284). -/
def brewMask (a : Nat) : Nat :=
  match regAt a with
  | some (r, _) => (r.fields.filter (fun f => decide (f.acc = .rw ∧ f.brew ≠ .no))).foldl (fun m f => m + (2 ^ (f.hi + 1 - f.lo) - 1) * 2 ^ f.lo) 0
  | none => 0

/-- Whether every field that MASK covers in full has a value in its own stated range (R284). -/
def itemRangeOk (r : RegItem) : Bool :=
  match regAt r.addr with
  | none => false
  | some (row, _) => row.fields.all (fun f =>
      let full := 2 ^ (f.hi + 1 - f.lo) - 1
      !decide (bitsOf f.hi f.lo r.mask.toNat = full) ||
        (match f.rng with
         | none => true
         | some (lo, hi) => decide (lo ≤ bitsOf f.hi f.lo r.value.toNat ∧ bitsOf f.hi f.lo r.value.toNat ≤ hi)))

/-- The record at byte `o` as a brew item, or the status and detail with which BREW_WRITE rejects it (R284, Table 11.9). -/
def readItem (s : State) (b : List Byte) (o : Nat) : Except (Nat × Nat) BrewItem :=
  let kind := rd b o 1
  if rd b (o + 1) 1 ≠ 0 then .error (0x22, o + 1)
  else if kind = 1 then
    let id := rd b (o + 2) 2
    let index := rd b (o + 4) 4
    let v := BitVec.ofNat 32 (rd b (o + 8) 4)
    if rd b (o + 12) 4 ≠ 0 then .error (0x22, o + 12)
    else match paramNode s id with
      | none => .error (0x26, o + 2)
      | some n =>
        match paramCheck s n index v with
        | none => .error (0x22, o + 4)
        | some false => .error (0x22, o + 8)
        | some true => .ok (.param id index v)
  else if kind = 2 then
    let r : RegItem := ⟨rd b (o + 4) 4, BitVec.ofNat 32 (rd b (o + 8) 4), BitVec.ofNat 32 (rd b (o + 12) 4)⟩
    if rd b (o + 2) 2 ≠ 0 then .error (0x22, o + 2)
    else if ¬ brewable r.addr then .error (0x54, o)
    else if r.mask.toNat &&& brewMask r.addr ≠ r.mask.toNat then .error (0x54, o)
    else if ¬ itemRangeOk r then .error (0x22, o)
    else .ok (.reg r)
  else .error (0x22, o)

/-- `n` items from byte `o`, or the first rejection. -/
def readItems (s : State) (b : List Byte) (o : Nat) : Nat → Except (Nat × Nat) (List BrewItem)
  | 0 => .ok []
  | n + 1 =>
    match readItem s b o with
    | .error e => .error e
    | .ok x =>
      match readItems s b (o + 16) n with
      | .error e => .error e
      | .ok l => .ok (x :: l)

/-- A table parameter changes the working graph only (R150); every accepted parameter write is the value of the working set. DESIGN CHOICE: log entry 38. -/
def workingPut (s : State) (x : BrewItem) : State :=
  match x with
  | .param id index v =>
    match paramNode s id with
    | some n => { s with params := paramPut s.params n index v }
    | none => s
  | .reg _ => s

/-- Whether an item goes into the log: not a table parameter (R150, R282). -/
def logged (s : State) (x : BrewItem) : Bool :=
  match x with
  | .param id index _ => match paramNode s id with
    | some n => !isTable n index
    | none => true
  | .reg _ => true

/-- Records in all brew logs (Table 7.2). -/
def storeUsed (s : State) : Nat := ((List.range 16).map (fun h => (brewOf s h).log.length)).foldl (· + ·) 0

/-- Put items into the log of a brew. -/
def logItems (h : Nat) (xs : List BrewItem) (s : State) : State :=
  let b := brewOf s h
  let s' := xs.foldl workingPut s
  setBrew h { b with log := b.log ++ xs.filter (logged s) } s'

/-- The limit that `n` more records in a brew would pass (Table 7.2). -/
def logLimit (s : State) (h n : Nat) : Option Nat :=
  if 4194304 < (brewOf s h).log.length + n then some 4194304 else if 16777216 < storeUsed s + n then some 16777216 else none

/-! ### BREW_OPEN, BREW_WRITE, BREW_STATUS -/

/-- BREW_OPEN (R173, R175); the handle is the one the engine chose, if it is free. -/
def brewOpen (r : Req) (pick : Nat) (s : State) : Service :=
  let ms := rd r.payload 0 2
  let free (h : Nat) : Bool := decide (h < 15) && decide ((brewOf s h).st = .free)
  shaped r 8 [3, 6, 7]
    (need (decide (1 ≤ ms ∧ ms ≤ 1000)) 0x22 0
    (need (decide (pb r 2 ≤ 1)) 0x22 2
    (match (if free pick then some pick else (List.range 15).find? free) with
     | none => errRep 0x50 15
     | some h =>
      let b := brewOf s h
      okRep (beBytes 1 h ++ [0, 0, 0])
        (setBrew h { brewFree with st := .open_, xfadeMs := ms, shape := pb r 2, preroll := rd r.payload 4 2, deferred := b.deferred, late := b.late, eff := b.eff } s))))

def execBrewOpen (r : Req) (pick : Nat) (s : State) : Res := .next (serve 0x400 r (brewOpen r pick) s)

/-- BREW_WRITE (R284). -/
def brewWrite (r : Req) (s : State) : Service :=
  let h := pb r 0
  let n := rd r.payload 2 2
  if r.payload.length < 4 then errRep 0x21 4
  else if r.payload.length ≠ 4 + 16 * n then errRep 0x21 (4 + 16 * n)
  else if 14 < h then errRep 0x22 0
  else if pb r 1 ≠ 0 then errRep 0x22 1
  else if n = 0 ∨ 4094 < n then errRep 0x22 2
  else match readItems s r.payload 4 n with
    | .error (st, o) => errRep st o
    | .ok xs =>
      if (brewOf s h).st ≠ .open_ then errRep 0x52 (brewCode (brewOf s h).st)
      else match logLimit s h (xs.filter (logged s)).length with
        | some k => errRep 0x51 k
        | none =>
          let s := logItems h xs s
          okRep (beBytes 4 (brewOf s h).log.length) s

def execBrewWrite (r : Req) (s : State) : Res := .next (serve 0x401 r (brewWrite r) s)

/-- Whether the hardware tap register of a brew is loaded (Table 7.3). -/
def tapLoaded (b : Brew) : Bool := decide (b.st = .armed ∨ b.st = .prepared ∨ (b.st = .settling ∧ b.finals ∧ b.tap ≠ 0))

/-- BREW_STATUS [12:6] (Table 7.13): ARMED, GATE, OUTCOME, DEFERRED, LATE, XFADE. -/
def brewFlags (b : Brew) : Nat :=
  bnat (tapLoaded b) + 2 * bnat b.gate + 4 * b.outcome + 16 * bnat b.deferred + 32 * bnat b.late +
    64 * bnat (match b.out with
      | some o => o.final.isSome
      | none => false)

/-- The BREW_STATUS register of a brew (Table 7.13). -/
def brewStatusWord (b : Brew) : Nat := brewCode b.st + 16 * b.role + 64 * brewFlags b

/-- The 24 bytes of a brew in the reply of BREW_STATUS. -/
def brewStatusBytes (s : State) (h : Nat) : List Byte :=
  let b := brewOf s h
  beBytes 1 h ++ beBytes 1 (brewCode b.st) ++ beBytes 1 b.role ++ beBytes 1 (brewFlags b) ++ beBytes 4 b.log.length ++ beBytes 8 b.tap ++ beBytes 8 b.eff

def brewStatus (r : Req) (s : State) : Service :=
  let h := pb r 0
  shaped r 4 [1, 2, 3]
    (need (decide (h ≤ 15 ∨ h = 0xFF)) 0x22 0
    (okRep (if h = 0xFF then (List.range 16).flatMap (brewStatusBytes s) else brewStatusBytes s h) s))

def execBrewStatus (r : Req) (s : State) : Res := .next (serve 0x407 r (brewStatus r) s)

/-! ### Claims and the bake (R153, R174, R177) -/

/-- The parameter slots that hold in the program a brew taps: those of its new pages, and those of the pages it keeps. -/
def brewSlots (s : State) (b : Brew) : List ParamSlot :=
  match b.out with
  | none => s.liveSlots
  | some o => s.liveSlots.filter (fun x => (newPage o.main x.unit).isNone) ++ o.main.slots

/-- The graph of the program a brew taps. -/
def brewGraph (s : State) (b : Brew) : Graph := if b.out.isSome then b.outGraph else s.live

/-- The slots that a parameter write changes: those of its group on every node with the same owner (R147). -/
def slotsFor (s : State) (b : Brew) (node index : Nat) : List ParamSlot :=
  let g := brewGraph s b
  match nodeOf g node with
  | none => []
  | some n => (brewSlots s b).filter (fun x => decide (x.index = groupOf index) &&
      (match nodeOf g x.node with
       | some m => decide (paramOwner m = paramOwner n)
       | none => false))

/-- The units whose windows a log writes. -/
def logUnits (s : State) (b : Brew) : List Nat :=
  (b.log.flatMap (fun x => match x with
    | .param n i _ => (slotsFor s b n i).map ParamSlot.unit
    | .reg _ => [])).eraseDups

/-- The claim of a register: the staged token of a BANK_OWN register, else its staged copy. -/
def regClaim (a : Nat) : Claim := if 0x61000 ≤ a ∧ a < 0x63000 then .bank ((a - 0x61000) / 4) else .reg a

/-- The register items of a brew: its log's, then its compile output's. -/
def brewRegs (b : Brew) : List RegItem :=
  b.log.filterMap (fun x => match x with
    | .reg r => some r
    | .param _ _ _ => none) ++ (match b.out with
    | some o => o.regs
    | none => [])

/-- The pages that a compile writes, those of the final program included. -/
def outPages (o : CompileOut) : List PageOut := (planSets o).flatMap ProgramSet.pages

/-- The resources that a brew changes, at its tap or at its settle tap (R174). -/
def claimsOf (s : State) (b : Brew) : List Claim :=
  ((logUnits s b).map Claim.window ++ (brewRegs b).map (fun r => regClaim r.addr) ++
    (match b.out with
     | some o => (outPages o).map (fun p => Claim.page p.unit) ++ (outPages o).map (fun p => Claim.window p.unit) ++ o.tokens.map (fun t => Claim.bank t.1)
     | none => [])).eraseDups

/-- Whether no other brew holds one of the claims. -/
def claimsFree (s : State) (h : Nat) (cs : List Claim) : Bool :=
  (List.range 16).all (fun k => decide (k = h) || !(brewOf s k).claims.any (fun x => cs.contains x))

/-- The new page that a brew holds for a stall at its tap. -/
def outPage (b : Brew) (u : Nat) : Option PageOut := b.out.bind (fun o => newPage o.main u)

/-- The crossbar address of the copy of stall `u`'s parameter window that a brew writes: the staged copy, or in a new page the copy that PSEL_INIT
makes live (R151, R152); and the window's size. -/
def fillCopy (s : State) (b : Brew) (u : Nat) : Nat × Nat :=
  match outPage b u with
  | some p => (localBase u + p.hdr.paBase + (if p.hdr.pselInit then p.hdr.paSize else 0), p.hdr.paSize)
  | none =>
    let pg := pagesOf s u
    let h := liveHdr pg
    (localBase u + h.paBase + (if pg.psel then 0 else h.paSize), h.paSize)

/-- The master that writes new memory contents: a drover where the drover port owns the bank, else the groom (R206). -/
def fillMaster (s : State) (a : Nat) : Nat :=
  match xbBank a with
  | some k => if fld s Fld.BANK_OWN_OWNER k = 8 then masterDrover (4 * (k / 512)) else masterGroom
  | none => masterGroom

/-- Write bytes in bursts of at most 64 that do not pass a 64-byte block; `n` bounds their number (R219, R222). -/
def fillBursts (n a : Nat) (bs : List Byte) (s : State) : State :=
  match n, bs with
  | 0, _ => s
  | _, [] => s
  | n + 1, bs =>
    let k := 64 - a % 64
    fillBursts n (a + k) (bs.drop k) (xbWrite (fillMaster s a) a (bs.take k) s)

/-- Write new contents through the owner of the memory (R206). -/
def fillMemory (a : Nat) (bs : List Byte) (s : State) : State := fillBursts (bs.length / 64 + 2) a bs s

/-- Copy the live copy of a stall's window into its staged copy (R153). -/
def resyncWindow (u : Nat) (s : State) : State :=
  let pg := pagesOf s u
  let h := liveHdr pg
  let live := localBase u + h.paBase + (if pg.psel then h.paSize else 0)
  let staged := localBase u + h.paBase + (if pg.psel then 0 else h.paSize)
  fillMemory staged (memBytes s live h.paSize) s

/-- Give up the staged copies of a claim: a window takes the live words, a register's staged copy its live value (R175, R178, R179). -/
def dropStaged (k : Claim) (s : State) : State :=
  match k with
  | .window u => resyncWindow u s
  | .page _ => s
  | .reg a => { s with staged := smapErase a s.staged }
  | .bank k => { s with staged := smapErase (0x61000 + 4 * k) s.staged }

/-- The values that a brew's parameters would have after its first `n` log records: the live values, those of the compile's snapshot for nodes
that are new and for table parameters, then the log in fill order (R154, R177). -/
def overlay (s : State) (b : Brew) (n : Nat) : SMap Word32 :=
  let g := brewGraph s b
  let fresh (k : Nat) : Bool :=
    !s.live.nodes.any (fun x => decide (paramOwner x = k / 2 ^ 32)) ||
    g.nodes.any (fun x => decide (paramOwner x = k / 2 ^ 32) && isTable x (k % 2 ^ 32))
  let m := if b.out.isSome then (b.outParams.filter (fun p => fresh p.1)).foldl (fun m p => smapInsert p.1 p.2 m) s.liveParams else s.liveParams
  (b.log.take n).foldl (fun m x => match x with
    | .param id index v => match nodeOf g id with
      | some nd => paramPut m nd index v
      | none => m
    | .reg _ => m) m

/-- Apply one log record to the staged copies (R177). -/
def applyItem (b : Brew) (m : SMap Word32) (x : BrewItem) (s : State) : State :=
  match x with
  | .param id index _ =>
    forEach (slotsFor s b id index) (fun sl s =>
      match nodeOf (brewGraph s b) sl.node with
      | none => s
      | some n =>
        let base := (fillCopy s b sl.unit).1
        forEach (sl.offsets.zip (groupWords m n sl.index sl.rate)) (fun p s => fillMemory (base + p.1) (leBytes 4 p.2.toNat) s) s) s
  | .reg r =>
    let old := smapGet (regWord s) s.staged r.addr
    { s with staged := smapInsert r.addr ((old &&& ~~~r.mask) ||| (r.value &&& r.mask)) s.staged }

/-- Write a page and its flag beside the live page of its stall (R131). -/
def writePageOut (p : PageOut) (s : State) : State :=
  let pg := pagesOf s p.unit
  let side := !pg.live
  let s := setPages p.unit (if pg.live then { pg with hdr0 := p.hdr } else { pg with hdr1 := p.hdr }) s
  let s := { s with progMem := p.words.foldl (fun m w =>
    smapSet (fun _ => 0) ((2 * p.unit + bnat side) * 8192 + w.1 % 8192) w.2 m) s.progMem }
  fillMemory (localBase p.unit + 0x3FF0 + 8 * bnat side) (leBytes 8 1) s

/-- The tasks of a compile output that the live program does not hold as they are. -/
def newTasks (s : State) (o : CompileOut) : List TaskOut :=
  (((planSets o).flatMap ProgramSet.tasks).filter (fun t => !s.liveTasks.any (fun v => sameTask v t && sameHold v t))).eraseDups

/-- Write a compile's pages, page flags and new memory contents beside the live program: state areas, delay lines and rings with zeros (R131, R132). -/
def writeOut (o : CompileOut) (s : State) : State :=
  let fresh := newTasks s o
  let s := forEach o.main.pages writePageOut s
  let s := forEach ((areasIn fresh).filter TaskArea.zero) (fun a s => fillMemory a.base (List.replicate a.len 0) s) s
  let s := forEach o.memory (fun m s => fillMemory m.1 m.2 s) s
  { s with drvMem := o.drvWords.foldl (fun m w => smapSet (fun _ => 0) w.1 w.2 m) s.drvMem }

/-- Write the values of a set's parameters into the windows of its new pages (R151, R177): every word that the brew does not write keeps its live value. -/
def writeWindows (x : ProgramSet) (g : Graph) (m : SMap Word32) (s : State) : State :=
  forEach x.slots (fun sl s =>
    match newPage x sl.unit, nodeOf g sl.node with
    | some p, some n => forEach (sl.offsets.zip (groupWords m n sl.index sl.rate))
        (fun w s => fillMemory ((initWindow p).base + w.1) (leBytes 4 w.2.toNat) s) s
    | _, _ => s) s

/-- Begin a bake: take the claims if they are free, resynchronise the windows, copy the live registers into their staged copies, and write the compile
output (R174, R177). -/
def bakeBegin (h : Nat) (s : State) : State :=
  let b := brewOf s h
  let cs := claimsOf s b
  if b.st ≠ .baking ∨ b.baking ∨ ¬ claimsFree s h cs then s
  else
    let s := setBrew h { b with claims := cs, baking := true, baked := 0 } s
    let s := forEach cs (fun k s => match k with
      | .window u => if (outPage b u).isSome then s else resyncWindow u s
      | .reg a => { s with staged := smapInsert a (regWord s a) s.staged }
      | .bank k => { s with staged := smapInsert (0x61000 + 4 * k) (regWord s (0x61000 + 4 * k)) s.staged }
      | .page _ => s) s
    match b.out with
    | some o =>
      let s := forEach o.tokens (fun x s => { s with staged := smapInsert (0x61000 + 4 * x.1) (BitVec.ofNat 32 (x.2.1 % 16 + 16 * bnat x.2.2)) s.staged })
        (writeWindows o.main b.outGraph (overlay s b 0) (writeOut o s))
      forEach o.regs (fun r s => applyItem b [] (.reg r) s) s
    | none => s

/-- Return a brew to OPEN (R175): claims released, staged copies resynchronised, log and compile output kept. -/
def brewReopen (h : Nat) (s : State) : State :=
  let b := brewOf s h
  let s := if b.baking then forEach b.claims dropStaged s else s
  setBrew h { b with st := .open_, role := 0, claims := [], baking := false, baked := 0, tap := 0, gate := false, grp := none, job := none, lateOk := false } s

/-- A bake of a group's brew that has not ended before boundary D: the brew is OPEN; a participant sends REFUSE with cause BAKE_LATE and DONE, the coordinator
decides ABORT (R191, R192, R196). -/
def bakeLate (h : Nat) (s : State) : State :=
  match (brewOf s h).grp with
  | none => s
  | some g =>
    let s := brewReopen h s
    if g.coord = ownEndpoint s then
      { s with groups := updWhere (fun x => decide (x.id = g.group ∧ x.decision = 0)) (fun x => { x with refuse := some (ownEndpoint s) }) s.groups }
    else sendTap g.coord g.group g.frame h 8 0 noFrame (sendTap g.coord g.group g.frame h 3 3 0 s)

/-- The end of a bake: the tap register is loaded (R177, R191). A brew whose boundary passed under LATE_OK, or with F = 0, is armed for the next
boundary; a brew of a group must end before boundary D. -/
def bakeEnd (h : Nat) (s : State) : State :=
  let b := brewOf s h
  match b.grp with
  | some g =>
    if g.decide ≤ s.frame then bakeLate h s
    else
      let s := setBrew h { b with st := .prepared, tap := g.frame, gate := false } (avsFloorOn s)
      if g.coord = ownEndpoint s then s else sendTap g.coord g.group g.frame h 2 0 0 s
  | none => setBrew h { b with st := .armed, gate := true, tap := if b.tap = 0 ∨ b.late then s.frame + 1 else b.tap } (avsFloorOn s)

/-- The uncorrectable word that a record of a brew's log lies in (R213): the log is in the brew store. -/
def badRecord (s : State) (h i : Nat) : Option Nat :=
  let a := brewStoreBase + 16 * (Config.logSlot h i % 2 ^ 24)
  [a, a + 8].find? (fun w => s.ueWords.contains w)

/-- A bake that meets an uncorrectable word ends with MEM_ERROR, and its brew is OPEN again (R213). -/
def bakeError (h w : Nat) (s : State) : State :=
  let b := brewOf s h
  let s := recordUe w s
  match b.grp, b.job with
  | none, some j => endJob j 2 0x30 w noFrame (brewReopen h s)
  | none, none => brewReopen h s
  | some _, _ => bakeLate h s

/-- A bake step, which waits while the channel of the brew store retrains (R215): it applies `n` records, at least 256 unless the log ends (R177). -/
def bakeStep (h n : Nat) (s : State) : State :=
  if rangeWaits s brewStoreBase (cellarEnd - brewStoreBase) then s else
  let s := bakeBegin h s
  let b := brewOf s h
  if b.st ≠ .baking ∨ ¬ b.baking then s
  else
    let upto := min b.log.length (b.baked + max 256 n)
    match (List.range (upto - b.baked)).findSome? (fun i => badRecord s h (b.baked + i)) with
    | some w => bakeError h w s
    | none =>
    let s := forEach (List.range (upto - b.baked)) (fun i s =>
      match b.log[b.baked + i]? with
      | some x => applyItem b (overlay s b (b.baked + i + 1)) x s
      | none => s) s
    let s := setBrew h { brewOf s h with baked := upto } s
    let s := match b.job.bind (jobOf s) with
      | some j => setJob { j with phase := 2, progress := if b.log.length = 0 then 255 else min 255 (256 * upto / b.log.length) } s
      | none => s
    if upto = b.log.length then
      let s := bakeEnd h s
      match b.job.bind (jobOf s) with
      | some j => setJob { j with phase := brewCode (brewOf s h).st, progress := 0 } s
      | none => s
    else s

/-! ### Ends of a brew -/

/-- The AVS floor holds AVS_WINDOW frames beyond the present one (R38). -/
def floorTail (s : State) : State :=
  { s with fg := { s.fg with floorUntil := max s.fg.floorUntil (s.frame + 2 ^ (fld s Fld.AVS_CTRL_WINDOW + 4)) } }

/-! ### Results of a compile (R142) -/

/-- The member index of this engine: 0 without a team (R114). -/
def ownIndex (s : State) : Nat := if inTeam s then fld s Fld.TEAM_STATUS_REG_MEMBER else 0

/-- The result of an ended compile: status, and for one that is DONE the figures of its plan, the routes of the graph, the counts of the stalls. The leader's record holds the
routes of the whole team graph. DESIGN CHOICE: log entry 113. -/
def resultOf (s : State) (c : CompileJob) (status : Nat) (o : Option CompileOut) : CompileResult :=
  let counts := (o.map (planCounts s)).getD []
  let best := counts.foldl (fun (m : Nat × Nat) x => if m.1 < max x.w x.wTransition then (max x.w x.wTransition, x.unit) else m) (0, 0)
  let least := (counts.filter (fun x => decide (x.w ≠ 0))).foldl (fun m x => if m = 0 ∨ x.w < m then x.w else m) 0
  { status := status, engine := ownIndex s, diags := c.diags, lost := c.lost, budget := budgetB c.fs, maxW := best.1, maxUnit := best.2,
    minW := least, sumW := counts.foldl (fun a x => a + x.w) 0, pages := ((o.map (fun x => x.main.pages)).getD []).length,
    figures := (o.map (planFigures s c)).getD ⟨0, 0, 0, 0, 0⟩, streams := (o.map CompileOut.streams).getD [],
    routes := if o.isSome then graphRoutes c.whole (fsHz c.fs) else [], counts := counts }

/-- Hold a result of an engine. -/
def putResult (c : CompileResult) (s : State) : State := { s with results := putBy CompileResult.engine c s.results }

/-- Every member of a team compile withdraws its output (R129, R140). -/
def membersWithdraw (c : CompileJob) (s : State) : State := forEach c.members (fun m s => sendOwn m.2.1 0x207 [] s) s

/-- Discard a compile output with the areas it had reserved (R129, R178). -/
def withdrawOut (h : Nat) (s : State) : State :=
  setBrew h { brewOf s h with out := none, outGraph := graphEmpty, outParams := [] } s

/-- Spill a brew (R178, R179): its jobs end SPILLED, a team compile is withdrawn from its members, the log and the compile output go, and the brew withdraws its contents in SPILLING. -/
def brewSpill (h : Nat) (s : State) : State :=
  let b := brewOf s h
  if b.st = .free ∨ b.st = .spilling then s
  else
    let s := if b.st = .armed ∨ b.st = .prepared then floorTail s else s
    let s := forEach (s.jobs.filter (fun j => decide (j.state = 0) && (match j.work with
      | .compile c => decide (c.brew = h)
      | .load k _ | .store k _ _ | .tap k => decide (k = h)
      | _ => false))) (fun j s =>
        let s := match j.work with
          | .compile c => membersWithdraw c (putResult (resultOf s c 2 none) s)
          | _ => s
        endJob j.handle 4 3 0 (if j.opcode = 0x404 then noFrame else 0) s) s
    let s := withdrawOut h s
    setBrew h { brewOf s h with st := .spilling, log := [], tap := 0, gate := false, job := none, jobBusy := [], grp := none, role := 0, notify := [], fades := [] } s

/-- Spill every brew of the engine (R179). -/
def spillAll (s : State) : State := forEach (List.range 16) brewSpill s

/-- The coordinated group of a brew that has no decision yet. -/
def groupUndecided (s : State) (h : Nat) : Option TapGroup := s.groups.find? (fun g => decide (g.brew = h ∧ g.decision = 0 ∧ ¬ g.closed))

def setGroup (g : TapGroup) (s : State) : State := { s with groups := updWhere (fun x => decide (x.id = g.id)) (fun _ => g) s.groups }

/-- The coordinator's decision ABORT (R192): recorded, its own brew back to OPEN (unless it is being spilled), ABORT sent to every other
participant, the tap job ended with TAP_ABORTED naming the first participant without READY. -/
def decideAbort (g : TapGroup) (spilled : Bool) (s : State) : State :=
  let first := ((g.parts.find? (fun p => !p.ready)).map (fun p => p.part.endpoint)).getD (ownEndpoint s)
  let s := setGroup { g with decision := 2 } s
  let s := setBit Fld.TAP_STATUS_ABORT_STICKY 0 s
  let mine := decide ((brewOf s g.brew).grp.map BrewGroup.group = some g.id)
  let s := if spilled then s else endJob g.job 2 0x57 first (2 ^ 64 - 1) (if mine then brewReopen g.brew s else s)
  let s := if mine then setBrew g.brew { brewOf s g.brew with outcome := 2 } s else s
  forEach (g.parts.filter (fun p => decide (p.part.endpoint ≠ ownEndpoint s))) (fun p s => sendTap p.part.endpoint g.id g.frame g.brew 5 0 0 s) s

/-- BREW_SPILL (R178, R192). After a tap it is rejected with the effective frame in the reply. A participant is bound from its READY onward, armed as well (R191). -/
def brewSpillCmd (r : Req) (s : State) : Service :=
  let h := pb r 0
  let b := brewOf s h
  shaped r 4 [1, 2, 3]
    (need (decide (h ≤ 14)) 0x22 0
    (match groupUndecided s h with
     | some g => okRep [] (decideAbort g true (brewSpill h s))
     | none =>
      if b.st = .open_ ∨ b.st = .baking ∨ (b.st = .armed ∧ ¬ (b.role = 2 ∧ b.grp.isSome)) then okRep [] (brewSpill h s)
      else if b.st = .settling ∨ b.st = .closing ∨ (b.st = .free ∧ b.eff ≠ 0) then .error ⟨0x52, 0, brewCode b.st, beBytes 8 b.eff⟩
      else errRep 0x52 (brewCode b.st)))

def execBrewSpill (r : Req) (s : State) : Res := .next (serve 0x405 r (brewSpillCmd r) s)

/-- The last step of a CLOSING or SPILLING brew (R153, R179, R206): its claimed copies are resynchronised once every stall has taken its new page or
parameters, the banks that only the old program used return to the groom, and the handle is FREE. -/
def brewResync (h : Nat) (s : State) : State :=
  let b := brewOf s h
  let waits := b.claims.any (fun k => match k with
    | .window u | .page u => (pagesOf s u).swapDue || (pagesOf s u).pselDue
    | _ => false)
  if (b.st = .closing ∨ b.st = .spilling) ∧ ¬ (b.st = .closing ∧ waits) then
    let s := if b.baking then forEach b.claims dropStaged s else s
    let used := taskBanks s.liveTasks
    let s := forEach (b.freed.filter (fun k => !used.contains k)) (fun k s => moveToken k 9 false s) s
    setBrew h { brewFree with deferred := b.deferred, late := b.late, eff := b.eff, outcome := b.outcome } s
  else s

/-! ### Direct writes (R182, R282) -/

/-- The windows that a parameter write needs in the live program. -/
def writeUnits (s : State) (node index : Nat) : List Nat := ((slotsFor s brewFree node index).map ParamSlot.unit).eraseDups

/-- The armed host brew that has claimed a window the write needs. -/
def claimedBy (s : State) (us : List Nat) : Option Nat :=
  (List.range 15).find? (fun h => let b := brewOf s h
    decide (b.st = .armed ∨ b.st = .prepared) && us.any (fun u => b.claims.contains (.window u)))

/-- Whether a brew writes a parameter of a node's owner. -/
def writesParam (s : State) (b : Brew) (node index : Nat) : Bool :=
  b.log.any (fun x => match x with
    | .param m i _ => decide (i = index) && decide ((paramNode s m).map paramOwner = (paramNode s node).map paramOwner)
    | .reg _ => false)

/-- Fold a write into an armed host brew that has claimed a window it needs and does not write the parameter; further windows must be free, and the brew claims them. None
where the write waits. DEDUCED: log entry 121. -/
def foldWrite (x : BrewItem) (s : State) : Option (Nat × State) :=
  match x with
  | .reg _ => none
  | .param node index _ =>
    let us := writeUnits s node index
    match claimedBy s us with
    | none => none
    | some h =>
      let b := brewOf s h
      let more := (us.filter (fun u => !b.claims.contains (.window u))).map Claim.window
      if writesParam s b node index ∨ ¬ claimsFree s h more then none
      else
        let s := forEach more (fun k s => match k with
          | .window u => resyncWindow u s
          | _ => s) s
        let b := { b with claims := b.claims ++ more, log := b.log ++ [x], baked := b.baked + 1 }
        some (h, applyItem b (overlay s b b.log.length) x (setBrew h b s))

/-- One direct write: folded, or waiting for the direct brew. The frame is that of the brew that carries it, if it is armed. -/
def directOne (sess seq : Nat) (x : BrewItem) (s : State) : State × Option Nat :=
  match x with
  | .reg _ => (s, none)
  | .param node index v =>
    match foldWrite x s with
    | none => ({ s with directWait := s.directWait ++ [⟨sess, seq, node, index, v⟩] }, none)
    | some (h, s) => (s, some (brewOf s h).tap)

/-- A waiting write that an armed brew can take now is folded into it (R182). -/
def foldWaiting (d : DirectWrite) (s : State) : State :=
  match foldWrite (.param d.node d.index d.value) s with
  | none => { s with directWait := s.directWait ++ [d] }
  | some (h, s) => setBrew h { brewOf s h with notify := ((brewOf s h).notify ++ [(d.session, d.seq)]).eraseDups } s

/-- The direct brew, baking without its claims, gives up the records that an armed brew can take (R182). -/
def foldDirect (s : State) : State :=
  let b := brewOf s 15
  if b.st ≠ .baking ∨ b.baking ∨ claimsFree s 15 (claimsOf s b) then s
  else
    let p := b.log.foldl (fun (q : List BrewItem × State) x => match foldWrite x q.2 with
      | none => (q.1 ++ [x], q.2)
      | some (h, s) => (q.1, setBrew h { brewOf s h with notify := ((brewOf s h).notify ++ b.notify).eraseDups } s)) ([], s)
    if p.1 = [] then setBrew 15 { brewFree with eff := b.eff } p.2 else setBrew 15 { b with log := p.1 } p.2

/-- The direct brew takes its waiting writes and starts its bake, but for those that an armed brew takes (R182). -/
def directStart (s : State) : State :=
  let s := foldDirect s
  let s := forEach s.directWait foldWaiting { s with directWait := [] }
  let b := brewOf s 15
  if ¬ (b.st = .free ∨ b.st = .open_) ∨ (s.directWait = [] ∧ b.st = .free) then s
  else
    let w := s.directWait
    setBrew 15 { brewFree with st := .baking, log := b.log ++ w.map (fun d => .param d.node d.index d.value),
                               notify := (b.notify ++ w.map (fun d => (d.session, d.seq))).eraseDups, eff := b.eff } { s with directWait := [] }

/-- The item of a PARAM_WRITE at byte `o` (Table 11.6). -/
def readParam (s : State) (b : List Byte) (o : Nat) : Except (Nat × Nat) BrewItem :=
  let id := rd b o 2
  let index := rd b (o + 2) 4
  let v := BitVec.ofNat 32 (rd b (o + 6) 4)
  match paramNode s id with
  | none => .error (0x26, o)
  | some n =>
    match paramCheck s n index v with
    | none => .error (0x22, o + 2)
    | some false => .error (0x22, o + 6)
    | some true => .ok (.param id index v)

def readParams (s : State) (b : List Byte) (o : Nat) : Nat → Except (Nat × Nat) (List BrewItem)
  | 0 => .ok []
  | n + 1 =>
    match readParam s b o with
    | .error e => .error e
    | .ok x =>
      match readParams s b (o + 10) n with
      | .error e => .error e
      | .ok l => .ok (x :: l)

/-- The writes of a PARAM_WRITE with BREW 0Fh (R182, R282): EFFECTIVE is the one frame for which every brew that carries a write is armed when the command
ends, else all ones. `baked` says that the groom bakes the direct brew within the command. -/
def directWrites (r : Req) (xs : List BrewItem) (baked : Bool) (s : State) : State × Nat :=
  let s := xs.foldl workingPut s
  let go := (xs.filter (logged s)).foldl (fun p x => let q := directOne r.session r.seq x p.1; (q.1, p.2 ++ [q.2])) (s, [])
  let s := directStart go.1
  let s := if baked ∧ (brewOf s 15).st = .baking then bakeStep 15 (brewOf s 15).log.length s else s
  let b := brewOf s 15
  let own := decide (b.st = .armed) && !s.directWait.any (fun d => decide (d.session = r.session ∧ d.seq = r.seq))
  let frames := (go.2.map (fun f => match f with
    | some k => some k
    | none => if own then some b.tap else none)).eraseDups
  match frames with
  | [some k] =>
    (setBrew 15 { b with notify := b.notify.filter (fun n => decide (n ≠ (r.session, r.seq))) } s, k)
  | [] => (s, 0)
  | _ => (s, 2 ^ 64 - 1)

/-- PARAM_WRITE (R276, R282). DESIGN CHOICE: log entry 38. -/
def paramWrite (r : Req) (baked : Bool) (s : State) : Service :=
  let h := pb r 0
  let n := pb r 1
  if r.payload.length < 2 then errRep 0x21 2
  else if r.payload.length ≠ 2 + 10 * n then errRep 0x21 (2 + 10 * n)
  else if 15 < h then errRep 0x22 0
  else if n = 0 then errRep 0x22 1
  else match readParams s r.payload 2 n with
    | .error (st, o) => errRep st o
    | .ok xs =>
      if h = 15 then
        match logLimit s 15 (s.directWait.length + n) with
        | some k => errRep 0x51 k
        | none => let p := directWrites r xs baked s; okRep (beBytes 8 p.2) p.1
      else if (brewOf s h).st ≠ .open_ then errRep 0x52 (brewCode (brewOf s h).st)
      else match logLimit s h (xs.filter (logged s)).length with
        | some k => errRep 0x51 k
        | none => okRep (beBytes 8 0) (logItems h xs s)

def execParamWrite (r : Req) (baked : Bool) (s : State) : Res := .next (serve 0x300 r (paramWrite r baked) s)

/-! ### Scene images (R285) -/

/-- Whether the `n` bytes from `a` lie in regions of the list, followed over at most `k` of them. -/
def inRegionFrom (l : List CellarRegion) : Nat → Nat → Nat → Bool
  | 0, _, n => decide (n = 0)
  | k + 1, a, n =>
    decide (n = 0) ||
    (match l.find? (fun g => decide (g.base ≤ a ∧ a < g.base + g.len)) with
     | none => false
     | some g => inRegionFrom l k (g.base + g.len) (n - (g.base + g.len - a)))

/-- Whether every one of the `n` bytes from `a` lies in a host region (R287). -/
def inRegion (s : State) (a n : Nat) : Bool := inRegionFrom s.regions 17 a n

/-- The item as its 16 bytes (Table 11.9). -/
def itemBytes : BrewItem → List Byte
  | .param n i v => [1, 0] ++ beBytes 2 n ++ beBytes 4 i ++ beBytes 4 v.toNat ++ [0, 0, 0, 0]
  | .reg r => [2, 0, 0, 0] ++ beBytes 4 r.addr ++ beBytes 4 r.value.toNat ++ beBytes 4 r.mask.toNat

/-- What an item names: its parameter, or its register. -/
def itemKey (s : State) : BrewItem → Nat × Nat
  | .param n i _ => (((paramNode s n).map paramOwner).getD n, i)
  | .reg r => (2 ^ 40, r.addr)

/-- One item per parameter or register, with its last value (R154, R285). Register items of one register are merged under their masks. -/
def lastItems (s : State) (l : List BrewItem) : List BrewItem :=
  l.foldl (fun acc x =>
    match acc.find? (fun y => decide (itemKey s y = itemKey s x)) with
    | none => acc ++ [x]
    | some y =>
      let z := match y, x with
        | .reg a, .reg b => BrewItem.reg ⟨a.addr, (a.value &&& ~~~b.mask) ||| (b.value &&& b.mask), a.mask ||| b.mask⟩
        | _, _ => x
      updWhere (fun w => decide (itemKey s w = itemKey s x)) (fun _ => z) acc) []

/-- The scene image of a brew (R285). -/
def sceneImage (s : State) (b : Brew) : List Byte :=
  let xs := lastItems s b.log
  let body := beBytes 4 0x5A53434E ++ beBytes 2 1 ++ [0, 0] ++ beBytes 4 xs.length ++ beBytes 4 (ownEndpoint s) ++ beBytes 8 s.frame ++
    beBytes 8 0 ++ xs.flatMap itemBytes
  body ++ beBytes 4 (crc32c body)

/-- A job that keeps a brew from its tap until it has ended DONE (R176): a compile's handle in the even numbers, a load's in the odd ones. DEDUCED: log entry 34. -/
def busyBy (load : Bool) (h : Nat) : Nat := 2 * h + bnat load

/-- A brew's blocking jobs once a job of a kind starts: a job of that kind that failed no longer counts. DEDUCED: log entry 34. -/
def busyWith (load : Bool) (h : Nat) (l : List Nat) : List Nat := l.filter (fun x => decide (x % 2 ≠ bnat load)) ++ [busyBy load h]

/-- BREW_LOAD and BREW_STORE start their jobs on an OPEN brew and an address in a host region (R285). -/
def sceneJob (r : Req) (h len : Nat) (work : Nat → Nat → JobWork) (busy : Bool) (s : State) : Service :=
  let brew := pb r 0
  let a := rd r.payload 4 8
  shaped r len [1, 2, 3]
    (need (decide (brew ≤ 14)) 0x22 0
    (need (inRegion s a 1) 0x2F 4
    (if (brewOf s brew).st ≠ .open_ then errRep 0x52 (brewCode (brewOf s brew).st)
     else startJob r h (work brew a) (fun h s => if busy then setBrew brew { brewOf s brew with jobBusy := busyWith true h (brewOf s brew).jobBusy } s else s) s)))

def execBrewLoad (r : Req) (h : Nat) (s : State) : Res := .next (serve 0x402 r (sceneJob r h 12 (fun b a => .load b a) true) s)
def execBrewStore (r : Req) (h : Nat) (s : State) : Res :=
  .next (serve 0x403 r (sceneJob r h 20 (fun b a => .store b a (rd r.payload 12 8)) false) s)

/-- The first word of a range with an uncorrectable error. DEDUCED: log entry 106. -/
def firstUe (s : State) (a n : Nat) : Option Nat := (wordsOf a n).find? (fun w => s.ueWords.contains w)

/-- The length of the scene image at an address, by its header (R285). -/
def sceneLen (s : State) (a : Nat) : Nat := 36 + 16 * rd (xbReadBytes s masterGroom a 32) 8 4

/-- The end of a BREW_LOAD job: the image is read through the crossbar, checked, and its items logged (R285). DEDUCED: log entry 34. -/
def loadFinish (h brew a : Nat) (s : State) : State :=
  let img := xbReadBytes s masterGroom a 32
  let n := rd img 8 4
  let len := sceneLen s a
  let whole := xbReadBytes s masterGroom a len
  if rangeWaits s a len then s else
  let fail (d : Nat) : State := endJob h 2 0x5C d 0 s
  if xbReadKind s masterGroom a 32 ≠ .ok then endJob h 2 0x30 ((firstUe s a 32).getD a) 0 (xbReadEffect masterGroom a 32 s)
  else if rd img 0 4 ≠ 0x5A53434E then fail 1
  else if rd img 4 2 ≠ 1 then fail 2
  else if n = 0 ∨ 4194304 < n then fail 3
  else if xbReadKind s masterGroom a len ≠ .ok then endJob h 2 0x30 ((firstUe s a len).getD a) 0 (xbReadEffect masterGroom a len s)
  else if crc32c (whole.take (32 + 16 * n)) ≠ rd whole (32 + 16 * n) 4 then fail 4
  else match readItems s whole 32 n with
    | .error _ => fail 5
    | .ok xs =>
      match logLimit s brew (xs.filter (logged s)).length with
      | some k => endJob h 2 0x51 k 0 s
      | none =>
        let s := logItems brew xs (xbReadEffect masterGroom a len s)
        endJob h 1 0 0 0 (setBrew brew { brewOf s brew with jobBusy := (brewOf s brew).jobBusy.filter (fun x => decide (x ≠ busyBy true h)) } s)

/-- The end of a BREW_STORE job. -/
def storeFinish (h brew a limit : Nat) (s : State) : State :=
  let img := sceneImage s (brewOf s brew)
  if rangeWaits s a img.length then s
  else if limit < img.length ∨ ¬ inRegion s a img.length then endJob h 2 0x27 limit 0 s
  else if xbWriteKind s masterGroom a img.length ≠ .ok then endJob h 2 0x30 a 0 s
  else endJob h 1 0 0 0 (xbWrite masterGroom a img s)

end Sys2Proof.Machine
end

