-- ==== Sys2Proof/Machine/TapGroups.lean ====
section
/-! DEFINITION. Taps and tap groups (R176, R189–R197): BREW_TAP, BREW_RESOLVE, the messages of Table 7.7, the decision, and the close of a group. -/

namespace Sys2Proof.Machine

/-! ### BREW_TAP (R136, R176, R189, R191) -/

/-- A participant entry at byte `o` (R190, Table 11.8). -/
def readPart (b : List Byte) (o : Nat) : GroupPart := ⟨rd b o 4, rd b (o + 4) 1⟩

/-- The participant entries of a PREPARE. -/
def partsBytes (ps : List GroupPart) : List Byte := ps.flatMap (fun p => beBytes 4 p.endpoint ++ beBytes 1 p.handle ++ [0, 0, 0])

/-- The ID of the next group coordinated here (R189). -/
def nextGroup (s : State) : Nat :=
  ownEndpoint s * 2 ^ 14 + (match s.groups with
    | g :: _ => (g.id + 1) % 2 ^ 14
    | [] => Config.groupSeq 0 % 2 ^ 14)

/-- Start a local tap: the brew bakes (R176, R177). -/
def tapLocal (brew frame : Nat) (late : Bool) (h : Nat) (s : State) : State :=
  setBrew brew { brewOf s brew with st := .baking, role := 0, tap := frame, lateOk := late, gate := false, outcome := 0, deferred := false,
                                    late := false, job := some h, grp := none } s

/-- Start a group tap: PREPARE goes to every other participant and the own brew bakes (R191). DEDUCED: log entry 37. -/
def tapGroup (brew frame : Nat) (ps : List GroupPart) (h : Nat) (s : State) : State :=
  let id := nextGroup s
  let own := ownEndpoint s
  let all := ⟨own, brew⟩ :: ps
  let d := frame - fld s Fld.TAP_CTRL_DECIDE_LEAD
  let g : TapGroup := ⟨id, brew, frame, d, none, 0, none, false, h, all.map (fun p => ⟨p, false, false, none, 0⟩)⟩
  let s := { s with groups := (g :: s.groups).take 64 }
  let s := setBrew brew { brewOf s brew with st := .baking, role := 1, tap := frame, lateOk := false, gate := false, outcome := 0, deferred := false,
                                             late := false, job := some h, grp := some ⟨id, own, brew, frame, d, all, 0, 0, false⟩ } s
  forEach ps (fun p s => sendOwn p.endpoint 0x408
    (tapRecord s id frame brew 1 0 0 ++ beBytes 2 all.length ++ partsBytes all) s) s

def brewTap (r : Req) (h : Nat) (s : State) : Service :=
  let brew := pb r 0
  let flags := pb r 1
  let n := rd r.payload 2 2
  let frame := rd r.payload 4 8
  let b := brewOf s brew
  let ps := (List.range n).map (fun i => readPart r.payload (12 + 8 * i))
  if r.payload.length < 12 then errRep 0x21 12
  else if 14 < brew then errRep 0x22 0
  else if 3 < flags then errRep 0x22 1
  else if 255 < n then errRep 0x27 256
  else if r.payload.length ≠ 12 + 8 * n then errRep 0x21 (12 + 8 * n)
  else if (n = 0) = (2 ≤ flags) then errRep 0x22 2
  else match (List.range n).findSome? (fun i =>
      if rd r.payload (12 + 8 * i) 4 ≥ 2 ^ 18 then some (12 + 8 * i)
      else if 14 < rd r.payload (16 + 8 * i) 1 then some (16 + 8 * i)
      else if rd r.payload (17 + 8 * i) 3 ≠ 0 then some (17 + 8 * i) else none) with
    | some o => errRep 0x22 o
    | none =>
      if b.st ≠ .open_ then errRep 0x52 (brewCode b.st)
      else match b.jobBusy with
        | j :: _ => errRep 0x53 (j / 2)
        | [] =>
          if b.out.isSome ∧ b.outFs ≠ s.fs then errRep 0x63 0
          else
            let low := if n = 0 then s.frame + 2 else s.frame + fld s Fld.TAP_CTRL_DECIDE_LEAD + 2
            if frame < low ∧ ¬ (n = 0 ∧ frame = 0) then errRep 0x55 low
            else match ps.find? (fun p => decide (p.endpoint / 4096 ≠ ownEndpoint s / 4096)) with
              | some p => errRep 0x58 p.endpoint
              | none =>
                if n = 0 then startJob r h (.tap brew) (tapLocal brew frame (testBit flags 0)) s
                else startJob r h (.tap brew) (tapGroup brew frame ps) s

def execBrewTap (r : Req) (h : Nat) (s : State) : Res := .next (serve 0x404 r (brewTap r h) s)

/-! ### Reports of a participant (R196) -/

/-- Note that a participant of a coordinated group has reported. -/
def noteDone (gid ep : Nat) (eff : Option Nat) (cause : Nat) (s : State) : State :=
  match s.groups.find? (fun g => decide (g.id = gid)) with
  | none => s
  | some g =>
    let ps := updWhere (fun p => decide (p.part.endpoint = ep)) (fun p => { p with done := true, eff := eff, cause := cause }) g.parts
    setGroup { g with parts := ps } s

/-- Whether a group is split: its decision was COMMIT and a participant took effect at another frame than F, or not at all. -/
def groupSplit (g : TapGroup) : Bool := decide (g.decision = 1) && g.parts.any (fun p => decide (p.eff ≠ some g.frame))

/-- The split span: the largest effective frame minus F. -/
def groupSpan (g : TapGroup) : Nat := (g.parts.foldl (fun m p => max m (p.eff.getD 0)) g.frame) - g.frame

/-- Close a group: participants that have not reported get NO_REPORT, a split is counted and reported, and the coordinator's tap job ends. -/
def closeGroup (gid : Nat) (s : State) : State :=
  match s.groups.find? (fun g => decide (g.id = gid)) with
  | none => s
  | some g =>
    if g.closed ∨ g.decision = 0 then s
    else
      let g := { g with closed := true, parts := updWhere (fun p => !p.done) (fun p => { p with cause := 4 }) g.parts }
      let s := setGroup g s
      let own := (g.parts.find? (fun p => decide (p.part.endpoint = ownEndpoint s))).bind PartState.eff
      if groupSplit g then
        let s := raise 0x20 g.id (groupSpan g) (countFld Fld.TAP_SPLIT_COUNT_COUNT 0 (setBit Fld.TAP_STATUS_SPLIT_STICKY 0 s))
        endJob g.job 1 0x5A (groupSpan g) (own.getD noFrame) s
      else if g.decision = 1 then endJob g.job 1 0 0 (own.getD noFrame) s else s

/-- Close a group once every participant has reported. -/
def closeIfDone (gid : Nat) (s : State) : State :=
  match s.groups.find? (fun g => decide (g.id = gid)) with
  | none => s
  | some g => if g.parts.all PartState.done then closeGroup gid s else s

/-- A brew of a group has taken effect or has returned to OPEN: DONE goes to the coordinator, or is noted at it (R196). -/
def reportDone (h : Nat) (g : BrewGroup) (eff : Option Nat) (cause : Nat) (s : State) : State :=
  if g.coord = ownEndpoint s then closeIfDone g.group (noteDone g.group (ownEndpoint s) eff cause s)
  else sendTap g.coord g.group g.frame h 8 cause (eff.getD noFrame) s

/-- Keep what this engine, as a participant, knows of a group's outcome, and the handle of its brew. -/
def know (h : Nat) (g : BrewGroup) (outcome : Nat) (s : State) : State :=
  if g.coord = ownEndpoint s then s else { s with tapKnown := ((g.group, outcome, h) :: s.tapKnown.filter (fun p => decide (p.1 ≠ g.group))).take 64 }

/-- A participant returns its brew to OPEN and reports (R192, R194, R196). -/
def partOpen (h : Nat) (g : BrewGroup) (cause : Nat) (s : State) : State :=
  reportDone h g none cause (brewReopen h s)

/-! ### Messages (R190–R196) -/

/-- Whether a message may come over its transport: from an endpoint (R284). -/
def fromEndpoint (r : Req) : Bool :=
  match r.source with
  | .trace _ => true
  | .eth _ => decide (r.via.src < 2 ^ 31)
  | _ => false

/-- Serve a TAP_MSG of a kind, with the record's fields GROUP, TAP_FRAME, SENDER, HANDLE, CAUSE, EFFECTIVE. -/
def serveTap (kind len : Nat) (r : Req) (f : State → Service) (s : State) : State :=
  if pb r 17 ≠ kind then s
  else serve 0x408 r (fun s =>
    if ¬ fromEndpoint r then errRep 0x24 0
    else if r.payload.length ≠ len then errRep 0x21 len
    else if 2 ^ 18 ≤ rd r.payload 12 4 then errRep 0x22 12
    else f s) s

def msgGroup (r : Req) : Nat := rd r.payload 0 4
def msgFrame (r : Req) : Nat := rd r.payload 4 8
def msgSender (r : Req) : Nat := rd r.payload 12 4
def msgHandle (r : Req) : Nat := pb r 16
def msgCause (r : Req) : Nat := rd r.payload 18 2
def msgEff (r : Req) : Nat := rd r.payload 20 8

/-- Refuse a PREPARE with a cause (Table 7.10). -/
def refusePrepare (r : Req) (h cause : Nat) (s : State) : State :=
  sendTap (msgSender r) (msgGroup r) (msgFrame r) h 3 cause 0 s

/-- Whether a job of a brew runs: a compile, a load, a store (R191). -/
def brewJobs (s : State) (h : Nat) : Bool :=
  s.jobs.any (fun j => decide (j.state = 0) && (match j.work with
    | .compile c => decide (c.brew = h)
    | .load k _ | .store k _ _ => decide (k = h)
    | _ => false))

/-- PREPARE at a participant (R191). The record carries F alone; D is F less the participant's own DECIDE_LEAD. DESIGN CHOICE: log entry 114. -/
def prepare (r : Req) (s : State) : Service :=
  let n := rd r.payload 28 2
  let ps := (List.range n).map (fun i => readPart r.payload (30 + 8 * i))
  match ps.find? (fun p => decide (p.endpoint = ownEndpoint s)) with
  | none => okRep [] (refusePrepare r 0 4 s)
  | some p =>
    let h := p.handle
    let b := brewOf s h
    if 14 < h ∨ b.st = .free then okRep [] (refusePrepare r h 4 s)
    else if b.st ≠ .open_ ∨ b.grp.isSome then okRep [] (refusePrepare r h 1 s)
    else if b.jobBusy ≠ [] ∨ brewJobs s h then okRep [] (refusePrepare r h 2 s)
    else
      let d := msgFrame r - fld s Fld.TAP_CTRL_DECIDE_LEAD
      okRep [] (setBrew h { b with st := .baking, role := 2, tap := msgFrame r, lateOk := false, gate := false, outcome := 0, deferred := false, late := false,
                                   job := none, grp := some ⟨msgGroup r, msgSender r, msgHandle r, msgFrame r, d, ps, 0, 0, false⟩ } s)

def execPrepare (r : Req) (s : State) : Res := .next (serveTap 1 (30 + 8 * rd r.payload 28 2) r (prepare r) s)

/-- What a coordinator does with a message of one of its groups. -/
def atCoordinator (r : Req) (f : TapGroup → State → State) (s : State) : Service :=
  match s.groups.find? (fun g => decide (g.id = msgGroup r)) with
  | none => errRep 0x5B 0
  | some g => okRep [] (f g s)

/-- Whether a message of raw time `t` arrived before boundary D of a group (R192). -/
def beforeD (g : TapGroup) (t : Nat) : Bool :=
  match g.decideAt with
  | none => true
  | some d => decide (t < d)

/-- Boundary `b` at raw time `t` is boundary D of the groups that reach it. -/
def markDecisions (b t : Nat) (s : State) : State :=
  { s with groups := updWhere (fun g => decide (g.decide ≤ b ∧ g.decideAt = none)) (fun g => { g with decideAt := some t }) s.groups }

/-- READY counts when it arrived before boundary D (R192). -/
def ready (r : Req) : State → Service :=
  atCoordinator r (fun g s =>
    if g.decision = 0 ∧ beforeD g r.t then
      setGroup { g with parts := updWhere (fun p => decide (p.part.endpoint = msgSender r)) (fun p => { p with ready := true }) g.parts } s
    else s)

def execReady (r : Req) (s : State) : Res := .next (serveTap 2 28 r (ready r) s)

/-- REFUSE makes the decision ABORT (R192). A participant that refused has its brew OPEN and reports nothing further. -/
def refuse (r : Req) : State → Service :=
  atCoordinator r (fun g s => if g.decision = 0 then setGroup { g with refuse := some (msgSender r) } s else s)

def execRefuse (r : Req) (s : State) : Res := .next (serveTap 3 28 r (refuse r) s)

/-- The brew of this engine that belongs to a group. -/
def groupBrew (s : State) (gid : Nat) : Option (Nat × BrewGroup) :=
  (List.range 15).findSome? (fun h => match (brewOf s h).grp with
    | some g => if g.group = gid then some (h, g) else none
    | none => none)

/-- An in-doubt brew learns COMMIT (R195): JOIN arms it for the first boundary, HOLD keeps it in doubt. -/
def learnCommit (h : Nat) (g : BrewGroup) (s : State) : State :=
  let b := brewOf s h
  let s := know h g 1 s
  if fbit s Fld.TAP_CTRL_SPLIT_POLICY then setBrew h { b with outcome := 1, grp := some { g with outcome := 1, cause := 3 } } s
  else avsFloorOn (setBrew h { b with st := .armed, gate := true, outcome := 1, tap := s.frame + 1, grp := some { g with outcome := 1, cause := 2 } } s)

/-- A brew of a group gets the decision COMMIT. -/
def takeCommit (h : Nat) (g : BrewGroup) (s : State) : State :=
  let b := brewOf s h
  if b.st = .prepared then
    setBrew h { b with st := .armed, gate := true, outcome := 1, grp := some { g with outcome := 1 } } (know h g 1 s)
  else if b.st = .inDoubt ∧ g.outcome = 0 then learnCommit h g s
  else s

/-- A brew of a group gets the decision ABORT. DEDUCED: log entry 35. -/
def takeAbort (h : Nat) (g : BrewGroup) (s : State) : State :=
  let b := brewOf s h
  if b.st = .prepared ∨ b.st = .inDoubt ∨ b.st = .baking then
    let s := setBit Fld.TAP_STATUS_ABORT_STICKY 0 (know h g 2 s)
    let s := partOpen h g g.cause s
    setBrew h { brewOf s h with outcome := 2 } s
  else s

/-- A message to a participant of a group. -/
def atParticipant (r : Req) (f : Nat → BrewGroup → State → State) (s : State) : Service :=
  match groupBrew s (msgGroup r) with
  | none => errRep 0x5B 0
  | some (h, g) => okRep [] (f h g s)

def execCommit (r : Req) (s : State) : Res := .next (serveTap 4 28 r (atParticipant r takeCommit) s)
def execAbort (r : Req) (s : State) : Res := .next (serveTap 5 28 r (atParticipant r takeAbort) s)

/-- What this engine answers to a QUERY (1 COMMIT, 2 ABORT, 3 UNKNOWN) and the handle of its brew in the group (R190, R194, Table 7.2): of a group coordinated here, from the
records of the last 64; else from what it knows as a participant. -/
def outcomeOf (s : State) (gid : Nat) : Nat × Nat :=
  let held := ((groupBrew s gid).map Prod.fst).getD 0
  match s.groups.find? (fun g => decide (g.id = gid)) with
  | some g => (if g.decision = 0 then 3 else g.decision, g.brew)
  | none =>
    if gid / 2 ^ 14 = ownEndpoint s then (3, held)
    else match s.tapKnown.find? (fun p => decide (p.1 = gid)) with
      | some p => p.2
      | none => (3, held)

def query (r : Req) (s : State) : Service :=
  let o := outcomeOf s (msgGroup r)
  okRep [] (sendTap (msgSender r) (msgGroup r) (msgFrame r) o.2 7 o.1 0 s)

def execQuery (r : Req) (s : State) : Res := .next (serveTap 6 28 r (query r) s)

/-- OUTCOME at an in-doubt participant (R194, R195). -/
def takeOutcome (r : Req) (h : Nat) (g : BrewGroup) (s : State) : State :=
  if (brewOf s h).st ≠ .inDoubt ∨ g.outcome ≠ 0 then s
  else if msgCause r = 1 then learnCommit h g s
  else if msgCause r = 2 then takeAbort h g s
  else s

def execOutcome (r : Req) (s : State) : Res := .next (serveTap 7 28 r (atParticipant r (takeOutcome r)) s)

/-- DONE at the coordinator (R196): after the close it updates the report, and of a split group raises TAP_SPLIT again. -/
def doneMsg (r : Req) : State → Service :=
  atCoordinator r (fun g s =>
    let eff := if msgEff r = noFrame then none else some (msgEff r)
    let s := noteDone g.id (msgSender r) eff (msgCause r) s
    if g.closed then
      match s.groups.find? (fun x => decide (x.id = g.id)) with
      | some g => if groupSplit g then raise 0x20 g.id (groupSpan g) s else s
      | none => s
    else closeIfDone g.id s)

def execDone (r : Req) (s : State) : Res := .next (serveTap 8 28 r (doneMsg r) s)

/-! ### The coordinator (R192, R196) -/

/-- Whether a READY of a participant that arrived before boundary D waits among the admitted requests (R192). -/
def readyQueued (s : State) (g : TapGroup) (ep : Nat) : Bool :=
  s.admitted.any (fun r => decide (r.opcode = 0x408 ∧ pb r 17 = 2 ∧ msgGroup r = g.id ∧ msgSender r = ep ∧ r.payload.length = 28) && beforeD g r.t)

/-- The first groom step after boundary D (R192): COMMIT if the own brew is PREPARED and a READY of every other participant arrived in time, else ABORT. -/
def tapDecision (gid : Nat) (s : State) : State :=
  match s.groups.find? (fun g => decide (g.id = gid)) with
  | none => s
  | some g =>
    if g.decision ≠ 0 ∨ s.frame < g.decide then s
    else
      let own := ownEndpoint s
      let b := brewOf s g.brew
      let all := g.parts.all (fun p => p.ready || decide (p.part.endpoint = own) || readyQueued s g p.part.endpoint)
      if b.st = .prepared ∧ b.grp.map BrewGroup.group = some gid ∧ all ∧ g.refuse.isNone then
        let s := setGroup { g with decision := 1 } s
        let s := match b.grp with
          | some bg => takeCommit g.brew bg s
          | none => s
        forEach (g.parts.filter (fun p => decide (p.part.endpoint ≠ own))) (fun p s => sendTap p.part.endpoint g.id g.frame g.brew 4 0 0 s) s
      else
        let ps := updWhere (fun p => decide (p.part.endpoint = own)) (fun p => { p with ready := decide (b.st = .prepared) }) g.parts
        let s := decideAbort { g with parts := ps } false s
        closeIfDone g.id (noteDone g.id own none 0 s)

def execTapDecision (group : Nat) (s : State) : Res := .next (tapDecision group s)

def execGroupCloseTimeout (group : Nat) (s : State) : Res := .next (closeGroup group s)

/-! ### A participant in doubt (R194) -/

/-- Whether the decision of a group waits among the admitted requests. -/
def decisionQueued (s : State) (gid : Nat) : Bool :=
  s.admitted.any (fun r => decide (r.opcode = 0x408 ∧ (pb r 17 = 4 ∨ pb r 17 = 5) ∧ msgGroup r = gid))

/-- QUERY to the coordinator: at once after boundary F unless a decision is queued, then every QUERY_MS. -/
def queryTimer (h : Nat) (s : State) : State :=
  let b := brewOf s h
  match b.grp with
  | some g => if b.st = .inDoubt ∧ g.outcome = 0 ∧ ¬ decisionQueued s g.group then sendTap g.coord g.group g.frame h 6 0 0 s else s
  | none => s

def execQueryTimer (brew : Fin 15) (s : State) : Res := .next (queryTimer brew.val s)

/-- 50 ms after F without an outcome: QUERY to every participant in the PREPARE list. -/
def queryPeers (h : Nat) (s : State) : State :=
  let b := brewOf s h
  match b.grp with
  | some g =>
    if b.st = .inDoubt ∧ g.outcome = 0 then
      let s := setBrew h { b with grp := some { g with peers := true } } s
      forEach (g.parts.filter (fun p => decide (p.endpoint ≠ ownEndpoint s))) (fun p s => sendTap p.endpoint g.group g.frame h 6 0 0 s) s
    else s
  | none => s

def execQueryPeers (brew : Fin 15) (s : State) : Res := .next (queryPeers brew.val s)

/-- BREW_RESOLVE (R194, R284). -/
def brewResolve (r : Req) (s : State) : Service :=
  let h := pb r 0
  let act := pb r 1
  let frame := rd r.payload 4 8
  let b := brewOf s h
  shaped r 12 [2, 3]
    (need (decide (h ≤ 14)) 0x22 0
    (need (decide (act = 1 ∨ act = 2)) 0x22 1
    (match b.st, b.grp with
     | .inDoubt, some g =>
      if act = 2 then okRep [] (partOpen h g 3 s)
      else if frame ≠ 0 ∧ frame < s.frame + 2 then errRep 0x55 (s.frame + 2)
      else okRep [] (avsFloorOn (setBrew h { b with st := .armed, gate := true, tap := if frame = 0 then s.frame + 1 else frame, grp := some { g with cause := 3 } } s))
     | st, _ => errRep 0x52 (brewCode st))))

def execBrewResolve (r : Req) (s : State) : Res := .next (serve 0x406 r (brewResolve r) s)

/-- TAP_REPORT (R196, R284). -/
def tapReport (r : Req) (s : State) : Service :=
  shaped r 4 []
    (match s.groups.find? (fun g => decide (g.id = rd r.payload 0 4)) with
     | none => errRep 0x5B 0
     | some g => okRep (beBytes 1 g.decision ++ [0] ++ beBytes 2 g.parts.length ++ beBytes 8 (groupSpan g) ++
        g.parts.flatMap (fun p => beBytes 4 p.part.endpoint ++ beBytes 8 (p.eff.getD noFrame) ++ beBytes 1 p.cause ++ [0, 0, 0])) s)

def execTapReport (r : Req) (s : State) : Res := .next (serve 0x409 r (tapReport r) s)

/-- The settle tap (R187): armed for the first boundary at which every crossfade has completed and every final page is written. DEDUCED: log entry 99. -/
def settleArm (h : Nat) (s : State) : State :=
  let b := brewOf s h
  if b.st = .settling ∧ b.finals ∧ b.tap = 0 ∧ b.fades.all fadeDone then avsFloorOn (setBrew h { b with tap := s.frame + 1 } s) else s

def execSettleTapArm (brew : Fin 15) (s : State) : Res := .next (settleArm brew.val s)

/-! ### A brew at its boundary, apart from the tap (R177, R191, R193) -/

/-- A bake that has not ended before boundary `b` = F of a local tap, or D of a group. -/
def bakeDeadline (h b : Nat) (s : State) : State :=
  let x := brewOf s h
  if x.st ≠ .baking then s
  else match x.grp with
    | some g => if b < g.decide then s else bakeLate h s
    | none =>
      if x.tap = 0 ∨ b < x.tap ∨ h = 15 then s
      else if x.lateOk then setBrew h { x with late := true } s
      else
        let s := setBit Fld.TAP_STATUS_MISSED_STICKY 0 s
        match x.job with
        | some j => endJob j 2 0x56 0 noFrame (brewReopen h s)
        | none => brewReopen h s

/-- A PREPARED brew whose gate is closed at boundary F enters IN_DOUBT (R193). DEDUCED: log entry 97. -/
def enterDoubt (h b : Nat) (s : State) : State :=
  let x := brewOf s h
  match x.grp with
  | some g =>
    if x.st = .prepared ∧ g.frame ≤ b then
      raise 0x21 g.group h (setBit Fld.TAP_STATUS_INDOUBT_STICKY 0 (setBrew h { x with st := .inDoubt } s))
    else s
  | none => s

end Sys2Proof.Machine
end

