-- ==== Sys2Proof/Machine/Compile.lean ====
section
/-! DEFINITION. Compiles (R126–R146, R280, R281): COMPILE, the steps of its job, certification, the results, and team compiles. What the maltster
decides (tasks, places, schedules, the words it writes) comes with the step; the model checks it as the spec says. -/

namespace Sys2Proof.Machine

/-- The running compile job of this engine. -/
def compileRunning (s : State) : Option JobRec :=
  s.jobs.find? (fun j => decide (j.state = 0) && (match j.work with
    | .compile _ => true
    | _ => false))

/-- A brew that holds an untapped compile output or is SETTLING (R128, R187). -/
def compilePending (s : State) : Option Nat :=
  (List.range 15).find? (fun h => let b := brewOf s h
    (b.out.isSome && decide (b.st ≠ .closing ∧ b.st ≠ .spilling ∧ b.st ≠ .free)) || decide (b.st = .settling))

/-- COMPILE (R128, R280). -/
def compileCmd (r : Req) (h : Nat) (s : State) : Service :=
  let brew := pb r 0
  shaped r 4 [3]
    (need (decide (brew ≤ 14)) 0x22 0
    (need (decide (50 ≤ pb r 1 ∧ pb r 1 ≤ 100)) 0x22 1
    (need (decide (pb r 2 ≤ 1)) 0x22 2
    (match compileRunning s with
     | some j => errRep 0x40 j.handle
     | none => match compilePending s with
      | some k => errRep 0x41 k
      | none =>
        if (brewOf s brew).st ≠ .open_ then errRep 0x52 (brewCode (brewOf s brew).st)
        else startJob r h (.compile ⟨brew, pb r 1, decide (pb r 2 = 1), graphEmpty, [], 0, [], 0, none, [], graphEmpty, none, none⟩)
          (fun h s => setBrew brew { brewOf s brew with jobBusy := busyWith false h (brewOf s brew).jobBusy } s) s))))

def execCompile (r : Req) (h : Nat) (s : State) : Res := .next (serve 0x207 r (compileCmd r h) s)

/-! ### Results (R142, R145, Table 5.10) -/

def optField (n : Nat) : Option Nat → List Byte
  | none => beBytes n (2 ^ (8 * n) - 1)
  | some v => beBytes n v

/-- The 24 bytes of a diagnostic. -/
def diagBytes (d : Diag) : List Byte :=
  beBytes 2 d.code ++ beBytes 1 d.severity ++ optField 1 d.engine ++ optField 2 d.node ++ optField 2 d.pin ++ optField 4 d.edge ++
    optField 2 d.unit ++ optField 4 d.value ++ optField 4 d.limit ++ [0, 0]

/-- The 64 bytes of a result record (Table 5.10). -/
def resultBytes (c : CompileResult) : List Byte :=
  beBytes 1 c.status ++ beBytes 1 c.engine ++ beBytes 2 c.diags.length ++ beBytes 4 c.lost ++ beBytes 2 c.budget ++ beBytes 2 c.maxW ++
    beBytes 2 c.maxUnit ++ beBytes 2 c.minW ++ beBytes 4 c.sumW ++ beBytes 2 c.pages ++ beBytes 2 c.figures.moved ++ beBytes 4 c.figures.localBytes ++
    beBytes 4 c.figures.scratchBytes ++ beBytes 8 c.figures.cellarBytes ++ beBytes 2 c.streams.length ++ beBytes 2 c.figures.xfadeExcess ++
    beBytes 4 c.routes.length ++ List.replicate 16 0

def streamBytes (x : StreamEntry) : List Byte :=
  beBytes 2 x.index ++ beBytes 1 x.kind ++ [0] ++ beBytes 2 x.node ++ beBytes 2 x.firstPin ++ beBytes 2 x.lastPin ++ [0, 0]

def routeBytes (x : RouteRec) : List Byte :=
  beBytes 2 x.srcNode ++ beBytes 2 x.srcPin ++ beBytes 2 x.dstNode ++ beBytes 2 x.dstPin ++ beBytes 4 x.frames ++ beBytes 4 x.gdNs

def countBytes (x : StallCount) : List Byte := beBytes 2 x.unit ++ beBytes 2 x.w ++ beBytes 2 x.wTransition ++ [0, 0]

/-- The items of a result part (Table 5.5). -/
def resultItems (c : CompileResult) (part : Nat) : List (List Byte) :=
  match part with
  | 0 => [resultBytes c]
  | 1 => c.diags.map diagBytes
  | 2 => c.streams.map streamBytes
  | 3 => c.routes.map routeBytes
  | _ => c.counts.map countBytes

def partSize (part : Nat) : Nat :=
  match part with
  | 0 => 64 | 1 => 24 | 2 => 12 | 3 => 16 | _ => 8

/-- GRAPH_RESULT (R281). -/
def graphResult (r : Req) (s : State) : Service :=
  let part := pb r 1
  shaped r 12 [2, 3, 10, 11]
    (need (decide (pb r 0 ≤ 15)) 0x22 0
    (need (decide (part ≤ 4)) 0x22 1
    (match s.results.find? (fun c => decide (c.engine = pb r 0)) with
     | none => errRep 0x45 0
     | some c =>
      let items := resultItems c part
      let fit := (maxReply r.source - 8) / partSize part
      let out := (items.drop (rd r.payload 4 4)).take (min (rd r.payload 8 2) fit)
      okRep (beBytes 4 items.length ++ beBytes 2 out.length ++ [0, 0] ++ out.flatten) s)))

def execGraphResult (r : Req) (s : State) : Res := .next (serve 0x208 r (graphResult r) s)

/-! ### The steps of the job (R127, R129, R135, R138) -/

/-- Diagnostics held, at most 256; later ones are counted (Table 5.8). -/
def addDiags (c : CompileJob) (ds : List Diag) : CompileJob :=
  let all := c.diags ++ ds
  { c with diags := all.take 256, lost := c.lost + (all.length - 256) }

/-- Whether a compile has an error diagnostic. -/
def hasError (ds : List Diag) : Bool := ds.any (fun d => decide (d.severity = 2))

/-- Change the compile job in a record. -/
def setCompile (j : JobRec) (c : CompileJob) : JobRec := { j with work := .compile c }

/-- Report to the compile leader (R138). The spec gives the report no format; it is a request of its own kind. -/
def reportLeader (c : CompileJob) (s : State) : State :=
  match c.leader with
  | some ep => sendOwn ep 0x207 [] s
  | none => s

/-- End a compile FAILED (R129): none of its output stays in the brew, and the leader of a team compile has every member withdraw (R140). DEDUCED: log entry 34. -/
def compileFail (j : JobRec) (c : CompileJob) (final detail : Nat) (s : State) : State :=
  let s := putResult (resultOf s c 1 none) (withdrawOut c.brew s)
  reportLeader c (endJob j.handle 2 final detail 0 (setJob (setCompile j c) (membersWithdraw c s)))

/-- End a compile DONE. -/
def compileDone (j : JobRec) (c : CompileJob) (s : State) : State :=
  let s := setBrew c.brew { brewOf s c.brew with jobBusy := (brewOf s c.brew).jobBusy.filter (fun x => decide (x ≠ busyBy false j.handle)) } s
  reportLeader c (endJob j.handle 1 0 0 0 (setJob (setCompile j c) s))

/-- The end of EMIT (phase 9): the plan's output goes into the brew; at a leader the job is DONE when every member is (R138). -/
def compileEmit (j : JobRec) (c : CompileJob) (o : CompileOut) (s : State) : State :=
  let b := brewOf s c.brew
  let s := setBrew c.brew { b with out := some o, outFs := c.fs, outGraph := c.snap, outParams := c.params } s
  let s := putResult (resultOf s c 0 (some o)) s
  if c.members.all (fun m => m.2.2.2) then compileDone j c s
  else setJob { setCompile j c with phase := 9, progress := 255 } s

/-- The present members other than this engine: index and endpoint (R138). -/
def otherMembers (s : State) : List (Nat × Nat) :=
  (s.team.zip (List.range s.team.length)).filterMap (fun p =>
    if p.1 ≠ ownEndpoint s ∧ testBit (fld s Fld.TEAM_STATUS_REG_PRESENT) p.2 then some (p.2, p.1) else none)

/-- The members that the present team has. -/
def presentEngines (s : State) : List Nat := if inTeam s then ownIndex s :: (otherMembers s).map Prod.fst else [0]

/-- What the phase that ends in a step finds: the checks of VALIDATE and PARTITION, and those of the plan; what the maltster reports counts where there is no plan. Without a
team, VALIDATE finds the nodes of other engines. DEDUCED: log entry 121. -/
def phaseDiags (s : State) (c : CompileJob) (phase : Nat) (given : List Diag) : List Diag :=
  match phase with
  | 1 => validate c.snap s.kernels (fsHz c.fs) ++ (if inTeam s then [] else absentDiags c.snap [0])
  | 2 => absentDiags c.snap (presentEngines s) ++ linkDiags c.snap
  | _ => match c.plan with
    | some o => planDiags s c o phase
    | none => given.filter (givenOk c.fs phase)

/-! ### PARTITION (R115, R138, R139) -/

/-- The bytes of graph records (Tables 5.4 to 5.6). -/
def nodeBytes (n : GNode) : List Byte :=
  beBytes 2 n.id ++ beBytes 1 n.kind ++ beBytes 1 n.engine ++ beBytes 2 n.kernel ++ beBytes 1 n.segment ++ beBytes 1 n.flags ++ beBytes 2 n.nIn ++
    beBytes 2 n.nOut ++ beBytes 4 n.bind ++ beBytes 4 n.config0 ++ beBytes 4 n.config1 ++ beBytes 2 n.place ++ beBytes 2 n.paramSet ++ [0, 0, 0, 0]
def edgeBytes (e : GEdge) : List Byte :=
  beBytes 4 e.id ++ beBytes 2 e.srcNode ++ beBytes 2 e.srcPin ++ beBytes 2 e.dstNode ++ beBytes 2 e.dstPin ++ beBytes 2 e.delay ++ beBytes 1 e.flags ++ [0]
def segBytes (x : GSeg) : List Byte := beBytes 1 x.id ++ beBytes 1 x.div ++ beBytes 1 x.mul ++ beBytes 1 x.phase ++ [0, 0, 0, 0]

/-- A subgraph as it goes to a member. The spec gives the message no format. DESIGN CHOICE: log entry 113. -/
def graphBytes (g : Graph) : List Byte := g.nodes.flatMap nodeBytes ++ g.edges.flatMap edgeBytes ++ g.segs.flatMap segBytes

/-- The edges whose ends lie on different engines, with their channels and the IDs of their link nodes: unused node IDs from 65,533 down. DESIGN CHOICE: log entry 113. -/
def crossEdges (g : Graph) : List (GEdge × Nat × Nat × Nat) :=
  let es := g.edges.filter (fun e => match nodeOf g e.srcNode, nodeOf g e.dstNode with
    | some a, some b => decide (a.engine ≠ b.engine)
    | _, _ => false)
  let ids := ((List.range (g.nodes.length + 2 * es.length)).map (fun i => 65533 - i)).filter (fun i => (nodeOf g i).isNone)
  (es.zip (List.range es.length)).map (fun p => (p.1, p.2, ids.getD (2 * p.2) 0, ids.getD (2 * p.2 + 1) 0))

/-- A link node of one channel that the leader creates on an engine, in a segment. DESIGN CHOICE: log entry 113. -/
def linkNode (id kind engine segment chan : Nat) : GNode :=
  ⟨id, kind, engine, 0, segment, 0, bnat (decide (kind = 5)), bnat (decide (kind = 3)), chan, 0, 0, 0xFFFF, 0⟩

/-- The part of a team graph that one engine compiles: its nodes and the edges between them; for an edge that leaves, a LINK_OUT that takes its samples; for one that enters, a
LINK_IN from which it goes on with its DELAY. The link adds 2 frames (R139). -/
def subgraph (g : Graph) (e : Nat) : Graph :=
  let seg (id : Nat) : Nat := ((nodeOf g id).map GNode.segment).getD 0
  let eng (id : Nat) : Nat := ((nodeOf g id).map GNode.engine).getD 0
  let cross := crossEdges g
  let outs := cross.filter (fun x => decide (eng x.1.srcNode = e))
  let ins := cross.filter (fun x => decide (eng x.1.dstNode = e))
  { nodes := (g.nodes.filter (fun n => decide (n.engine = e)) ++ outs.map (fun x => linkNode x.2.2.1 5 e (seg x.1.srcNode) x.2.1) ++
      ins.map (fun x => linkNode x.2.2.2 3 e (seg x.1.srcNode) x.2.1)).foldl (fun l n => putBy GNode.id n l) [],
    edges := (g.edges.filter (fun (x : GEdge) => decide (eng x.srcNode = e ∧ eng x.dstNode = e)) ++
      outs.map (fun (x : GEdge × Nat × Nat × Nat) => { x.1 with dstNode := x.2.2.1, dstPin := 0, delay := 0 }) ++
      ins.map (fun (x : GEdge × Nat × Nat × Nat) => { x.1 with srcNode := x.2.2.2, srcPin := 0 })).foldl (fun l x => putBy GEdge.id x l) [],
    segs := g.segs }

/-- The end of PARTITION at the leader: it keeps its own part and sends every other member its part. -/
def partition (s : State) (c : CompileJob) : CompileJob × List (Nat × List Byte) :=
  let ms := otherMembers s
  ({ c with snap := subgraph c.snap (ownIndex s), members := ms.map (fun m => (m.1, m.2, 2, false)) },
   ms.map (fun m => (m.2, graphBytes (subgraph c.snap m.1))))

/-- The main of a pair sends its standby the subgraph once its plan stands (R141). -/
def sendPartner (c : CompileJob) (s : State) : State :=
  if fld s Fld.SHADOW_PARTNER_ROLE = 1 then sendOwn (fld s Fld.SHADOW_PARTNER_PARTNER) 0x207 (graphBytes c.snap) s else s

/-- The phase after one: PARTITION is for team graphs only, at the leader. -/
def nextPhase (s : State) (c : CompileJob) (ph : Nat) : Nat := if ph = 1 ∧ ¬ (c.leader.isNone ∧ inTeam s) then 3 else ph + 1

/-- The end of a phase that has found no error. LOWER ends with the maltster's plan, if there is one; without a plan no compile passes CERTIFY. -/
def phaseEnd (j : JobRec) (c : CompileJob) (ph : Nat) (out : Option CompileOut) (s : State) : State :=
  let go (c : CompileJob) (s : State) : State := setJob { setCompile j c with phase := nextPhase s c ph, progress := 0 } s
  match ph with
  | 2 => let p := partition s c; forEach p.2 (fun m s => sendOwn m.1 0x207 m.2 s) (go p.1 s)
  | 3 => match out with
    | none => reportLeader c (go c s)
    | some o => if planFormed s c o then reportLeader c (sendPartner c (go { c with plan := some o } s)) else s
  | 8 => if c.plan.isNone then s else reportLeader c (go c s)
  | 9 => match c.plan with
    | some o => compileEmit j c o (setJob j s)
    | none => s
  | _ => reportLeader c (go c s)

/-- A step of a compile job. The first step takes the snapshot of the working graph and the FS code, and the results of the last compile go. DESIGN CHOICE: log entry 12. -/
def compileStep (h progress : Nat) (ends : Bool) (given : List Diag) (out : Option CompileOut) (s : State) : State :=
  match jobOf s h with
  | none => s
  | some j =>
    match j.work with
    | .compile c =>
      if j.state ≠ 0 ∨ j.cancel then s
      else
        let first := decide (j.phase = 0)
        let c := if first then { c with snap := s.work, whole := s.work, params := s.params, fs := s.fs } else c
        let s := if first then { s with results := [] } else s
        let ph := if first then 1 else j.phase
        let j := { setCompile j c with phase := ph, startFrame := if first then s.frame else j.startFrame }
        if ¬ ends then setJob { j with progress := min 255 progress } s
        else
          let ds := phaseDiags s c ph given
          let c := addDiags c ds
          if hasError ds then compileFail j c 0x42 (c.diags.filter (fun d => decide (d.severity = 2))).length s
          else phaseEnd j c ph out s
    | _ => s

/-! ### Team compiles (R138–R140) -/

/-- TEAM_SUBGRAPH_RX: a member runs phases 3 to 9 on its subgraph into an OPEN brew, as a job that no session owns; a standby gets its partner's subgraph and placement and
compiles it from its main (R138, R141). -/
def subgraphRx (leader brew h : Nat) (g : Graph) (partner : Option ProgramSet) (s : State) : State :=
  let standby := decide (fld s Fld.SHADOW_PARTNER_ROLE = 2)
  if (compileRunning s).isSome ∨ (compilePending s).isSome ∨ (brewOf s brew).st ≠ .open_ ∨ 256 ≤ s.jobs.length ∨
      ¬ (if standby then leader = fld s Fld.SHADOW_PARTNER_PARTNER ∧ partner.isSome else s.team.contains leader ∧ partner.isNone) then s
  else
    let h := pickHandle s h
    let c : CompileJob := ⟨brew, 100, false, g, s.params, s.fs, [], 0, some leader, [], g, none, partner⟩
    setBrew brew { brewOf s brew with jobBusy := busyWith false h (brewOf s brew).jobBusy }
      { s with results := [], jobs := s.jobs ++ [⟨h, 0x207, 0, 0, 3, 0, 0, 0, s.frame, 0, 0, false, .compile c⟩] }

def execTeamSubgraphRx (leader : Nat) (brew : Fin 15) (h : Nat) (g : SubgraphMsg) (s : State) : Res :=
  .next (subgraphRx leader brew.val h g.graph g.partner s)

/-- MEMBER_COMPILE_REPORT at the leader: a phase end, or the result of the member's job. A member that ended otherwise than DONE fails the compile. -/
def memberReport (member phase : Nat) (res : Option CompileResult) (s : State) : State :=
  match compileRunning s with
  | none => s
  | some j =>
    match j.work with
    | .compile c =>
      if c.leader.isSome ∨ ¬ c.members.any (fun m => decide (m.1 = member)) then s
      else match res with
        | none => setJob (setCompile j { c with members := updWhere (fun m => decide (m.1 = member)) (fun m => (m.1, m.2.1, phase, m.2.2.2)) c.members }) s
        | some x =>
          let s := putResult { x with engine := member } s
          if x.status ≠ 0 then compileFail j c 0x42 (x.diags.filter (fun d => decide (d.severity = 2))).length s
          else
            let c := { c with members := updWhere (fun m => decide (m.1 = member)) (fun m => (m.1, m.2.1, 9, true)) c.members }
            if c.members.all (fun m => m.2.2.2) ∧ (brewOf s c.brew).out.isSome then compileDone j c s else setJob (setCompile j c) s
    | _ => s

def execMemberCompileReport (member : Fin 16) (phase : Nat) (res : Option CompileResult) (s : State) : Res :=
  .next (memberReport member.val phase res s)

/-- MEMBER_TIMEOUT (R140): a member silent for 50 ms fails the compile, and every output is withdrawn. -/
def memberTimeout (member : Nat) (s : State) : State :=
  match compileRunning s with
  | none => s
  | some j =>
    match j.work with
    | .compile c =>
      match c.members.find? (fun m => decide (m.1 = member)) with
      | some m => if m.2.2.2 then s
        else compileFail j (addDiags c [⟨0x15, 2, some member, none, none, none, none, some member, some m.2.2.1⟩]) 0x42 1 s
      | none => s
    | _ => s

def execMemberTimeout (member : Fin 16) (s : State) : Res := .next (memberTimeout member.val s)

/-- COMPILE_WITHDRAW at a member (R129, R140): its output leaves its brew, a running part ends FAILED. -/
def compileWithdraw (brew : Nat) (s : State) : State :=
  match compileRunning s with
  | some j =>
    match j.work with
    | .compile c => if c.leader.isSome ∧ c.brew = brew then
        let s := putResult (resultOf s c 1 none) (withdrawOut brew s)
        endJob j.handle 2 0x42 0 0 s else withdrawOut brew s
    | _ => s
  | none => if (brewOf s brew).st = .open_ then withdrawOut brew s else s

def execCompileWithdraw (brew : Fin 15) (s : State) : Res := .next (compileWithdraw brew.val s)

end Sys2Proof.Machine
end

