-- ==== Sys2Proof/Machine/GuardCmd.lean ====
section
/-! DEFINITION. Reading the frame guard (R35, R46, R286): slack, the captured report, and their registers. -/

namespace Sys2Proof.Machine

/-- What the slack of a unit with an empty program reads as (R286). -/
def slackEmpty : Int := 0x7FFF

/-- The slack of a unit in the latest closed frame, in Q12 (R34, R286). -/
def slackOf (s : State) (u : Nat) : Int := smapGet (fun _ => slackEmpty) s.fg.slack u

/-- SLACK_READ. -/
def slackRead (r : Req) (s : State) : Service :=
  let first := rd r.payload 0 2
  let count := rd r.payload 2 2
  shaped r 4 []
  (need (decide (first ≤ 1151)) 0x22 0
  (need (decide (1 ≤ count ∧ count ≤ 1152)) 0x22 2
  (let n := min (min count (1152 - first)) ((maxReply r.source - 12) / 2)
   okRep (beBytes 8 s.fg.slackFrame ++ beBytes 2 n ++ [0, 0] ++
     (List.range n).flatMap (fun i => beBytes 2 (wrapInt 16 (slackOf s (first + i))))) s)))

def execSlackRead (r : Req) (s : State) : Res := .next (serve 0x500 r (slackRead r) s)

/-- The two words of a report entry (Table 2.5). -/
def reportWords (e : ReportEntry) : List Nat :=
  [e.unit + 2 ^ 12 * e.st + 2 ^ 16 * e.flag, e.pc + 2 ^ 13 * e.producer + 2 ^ 24 * bnat e.inCycle]

/-- FG_REPORT: the captured report from entry OFFSET onward; CLEAR then clears REPORT_VALID. -/
def fgReport (r : Req) (s : State) : Service :=
  let off := rd r.payload 0 2
  let count := rd r.payload 2 2
  shaped r 8 [5, 6, 7]
  (need (decide (off ≤ 1151)) 0x22 0
  (need (decide (pb r 4 ≤ 1)) 0x22 4
  (let es := (s.fg.report.drop off).take (min count ((maxReply r.source - 12) / 8))
   okRep (beBytes 2 (fld s Fld.FG_REPORT_CTRL_ENTRIES) ++
       beBytes 1 (fld s Fld.FG_REPORT_CTRL_REPORT_VALID + 2 * fld s Fld.FG_REPORT_CTRL_HAS_CYCLE) ++ [0] ++
       beBytes 8 s.fg.reportFrame ++ es.flatMap (fun e => (reportWords e).flatMap (beBytes 4)))
     (if pb r 4 = 1 then clrBit Fld.FG_REPORT_CTRL_REPORT_VALID 0 s else s))))

def execFgReport (r : Req) (s : State) : Res := .next (serve 0x501 r (fgReport r) s)

/-- A write of 1 to CLR_HIST: SLACK_HIST restarts at 0FFFh (R35, Table 2.15). -/
def slackClr (s : State) : State := setFld Fld.SLACK_HIST_UNIT 0 0x7FF (setFld Fld.SLACK_HIST_SLACK 0 0xFFF s)

def execSlackClr (s : State) : Res := .next (slackClr s)

/-- A write of 1 to RD_RESET: FG_REPORT_DATA starts again at word 0 (Table 2.12). -/
def rdReset (s : State) : State := { s with fg := { s.fg with rdPtr := 0 } }

def execRdReset (s : State) : Res := .next (rdReset s)

/-- A read of FG_REPORT_DATA: the next word, 0 past the last; the pointer advances (Table 2.13). -/
def reportDataRead (s : State) : State :=
  match (s.fg.report.flatMap reportWords)[s.fg.rdPtr]? with
  | some w => { s with fg := { s.fg with rdPtr := s.fg.rdPtr + 1 }, lastRead := w }
  | none => { s with lastRead := 0 }

def execFgReportDataRead (s : State) : Res := .next (reportDataRead s)

end Sys2Proof.Machine
end

