-- ==== Sys2Proof/Machine/Herd.lean ====
section
/-! DEFINITION. What traces, teams and pairs share (R325, R354–R361, R373, R374): trace records, the route table, packets and management records on their
way to a trace, the leader and the parent trace, TEAM_LOCK, and the loss of a mirror trace. -/

namespace Sys2Proof.Machine

/-! ### Traces -/

/-- The state of a trace (Table 13.4). -/
def traceState (s : State) (t : Nat) : Nat := fld s Fld.TRACE_STATE_STATE t

/-- Whether a trace is in UP, a pending restripe included. -/
def traceUp (s : State) (t : Nat) : Bool := decide (4 ≤ traceState s t)

/-- LAG of a trace: 2 on a herd trace, else 1 (R334). -/
def traceLag (s : State) (t : Nat) : Nat := if fld s Fld.TRACE_CFG_KIND t = 1 then 2 else 1

/-- The traces that are not DOWN, by rising number. -/
def liveTraces (s : State) : List Nat := (smapKeys s.traces).filter (fun t => decide (0 < traceState s t))

/-- The member number and the herd of an endpoint ID (R3). -/
def herdOf (ep : Nat) : Nat := ep / 4096

/-- Whether a trace is a bridge: a herd trace whose peer is in another herd (R366). -/
def isBridge (s : State) (t : Nat) : Bool :=
  decide (fld s Fld.TRACE_CFG_KIND t = 1 ∧ herdOf (fld s Fld.TRACE_PEER_PEER t) ≠ herdOf (ownEndpoint s))

/-- The peer's trace lane that arrives on a lane (R330). -/
def mapLane (x : TraceSt) (t lane : Nat) : Nat := ((x.mapping.find? (fun m => decide (m.1 = lane))).map Prod.snd).getD (lane - t)

/-- The lane on which a trace lane of the peer arrives. -/
def laneOf (x : TraceSt) (t i : Nat) : Nat := ((x.mapping.find? (fun m => decide (m.2 = i))).map Prod.fst).getD (t + i)

/-! ### Routes (R355, R357, R366) -/

/-- A route of a member of the herd that is not in the table. -/
def routeNone : Route := ⟨0, [], 0, 0, 0, 0, 0⟩

def routeOf (s : State) (ep : Nat) : Option Route := (s.routes.find? (fun r => decide (r.1 = ep))).map Prod.snd

/-- Whether an endpoint is in the route table. -/
def present (s : State) (ep : Nat) : Bool := decide (ep = ownEndpoint s) || (routeOf s ep).isSome

/-- The better of two arrivals: fewer HOPS, then the lower trace. -/
def fewerHops (a b : Nat × Nat) : Nat × Nat := if b.2 < a.2 ∨ (b.2 = a.2 ∧ b.1 < a.1) then b else a

/-- The best of a list of arrivals (trace, hops). -/
def bestVia : List (Nat × Nat) → Option (Nat × Nat)
  | [] => none
  | a :: t => some (t.foldl fewerHops a)

/-- The trace on which a packet for `dst` leaves (R355): the herd route, or FIELD_ROUTE of another herd. -/
def routeTrace (s : State) (dst : Nat) : Option Nat :=
  if herdOf dst = herdOf (ownEndpoint s) then (routeOf s dst).bind (fun r => (bestVia r.via).map Prod.fst)
  else
    let w := (regWord s (0x7C0 + 4 * (herdOf dst / 4))).toNat / 2 ^ (8 * (herdOf dst % 4))
    if testBit w 6 then some (w % 64) else none

/-- Count a packet discarded for want of a route (R355). -/
def routeDrop (s : State) : State := countFld Fld.HERD_ROUTE_DROP_PACKETS 0 s

/-- Put a packet into the wait of a trace. -/
def linkPut (t : Nat) (p : LinkPkt) (s : State) : State :=
  let x := traceOf s t
  setTrace t { x with queue := x.queue ++ [p] } s

/-- The bytes of a management record (R356). -/
def recordBytes (kind : Nat) (body : List Byte) : List Byte := beBytes 1 kind ++ [1] ++ beBytes 2 body.length ++ body

/-- Send a management record on a trace, to its peer. -/
def sendRecordOn (t kind : Nat) (body : List Byte) (s : State) : State :=
  linkPut t ⟨3, fld s Fld.TRACE_PEER_PEER t, ownEndpoint s, recordBytes kind body, none⟩ s

/-- Send a management record to an endpoint over the routes; without a route it is discarded. -/
def sendRecord (dst kind : Nat) (body : List Byte) (s : State) : State :=
  match routeTrace s dst with
  | none => routeDrop s
  | some t => linkPut t ⟨3, dst, ownEndpoint s, recordBytes kind body, none⟩ s

/-! ### ANNOUNCE (R357, Table 14.1) -/

/-- The ROLE byte of the own ANNOUNCE. -/
def ownRole (s : State) : Nat :=
  let st := fld s Fld.SHADOW_STATUS_STATE
  1 + 2 * bnat (fbit s Fld.TEAM_STATUS_REG_IS_LEADER) + 4 * bnat (inTeam s) + 8 * bnat (decide (st = 1)) + 16 * bnat (decide (2 ≤ st)) +
    32 * bnat (fbit s Fld.TEAM_STATUS_REG_LOCKED)

/-- The endpoint ID of the team's leader. -/
def leaderId (s : State) : Nat := if inTeam s then s.team.getD (fld s Fld.TEAM_STATUS_REG_LEADER) 0xFFFFFFFF else 0xFFFFFFFF

/-- The body of the own ANNOUNCE with COUNT `n`. -/
def announceBody (s : State) (n : Nat) : List Byte :=
  beBytes 4 (ownEndpoint s) ++ beBytes 4 n ++ [0] ++ beBytes 1 s.fs ++ beBytes 1 (fld s Fld.HERD_CTRL_HERD_PRES) ++ beBytes 1 (ownRole s) ++
    beBytes 4 (leaderId s) ++ beBytes 1 (modeCode s.mode) ++ List.replicate 7 0

/-- The traces that carry ANNOUNCE records: those in UP that are no bridge (R357, R366). -/
def announceTraces (s : State) : List Nat := (liveTraces s).filter (fun t => traceUp s t && !isBridge s t)

/-- Send the own ANNOUNCE. -/
def announce (s : State) : State :=
  let n := (s.annCount + 1) % 2 ^ 32
  let body := announceBody s n
  forEach (announceTraces s) (fun t s => sendRecordOn t 1 body s) { s with annCount := n }

/-! ### Leader, parent, TEAM_LOCK (R359–R361) -/

/-- Whether the DPLL reports lock (R384). -/
def dpllLocked (s : State) : Bool := decide (fld s Fld.CLK_STATUS_DPLL = 2)

/-- Set TEAM_LOCK; a change is announced at once (R357, R360). HERD_LOCKED of a follower follows it (R397). DEDUCED: log entry 57. -/
def setTeamLock (on : Bool) (s : State) : State :=
  if fbit s Fld.TEAM_STATUS_REG_LOCKED = on then s
  else
    let s := setFld Fld.TEAM_STATUS_REG_LOCKED 0 (bnat on) s
    let s := if on then s else countFld Fld.TEAM_PARENT_LOCK_LOSSES 0 s
    let s := if fbit s Fld.TEAM_STATUS_REG_IS_LEADER then s else setFld Fld.CLK_STATUS_HERD_LOCKED 0 (bnat on) s
    announce (raise 0xB3 (bnat on) (leaderId s) s)

/-! ### The active reference (R379–R386, R399) -/

/-- Whether the engine follows a team's leader (R360). -/
def isFollower (s : State) : Bool := inTeam s && !fbit s Fld.TEAM_STATUS_REG_IS_LEADER

/-- HERD_LOCKED of an engine that is no follower (R397). -/
def herdUpdate (s : State) : State :=
  if isFollower s then s
  else
    let a := fld s Fld.CLK_STATUS_ACTIVE
    setFld Fld.CLK_STATUS_HERD_LOCKED 0 (bnat (fbit s Fld.CLK_STATUS_FRAME_MAPPED && dpllLocked s && decide (a = 4 ∨ a = 5))) s

/-- After a change of the DPLL's state: TEAM_LOCK and HERD_LOCKED. DEDUCED: log entry 63. -/
def lockFollow (s : State) : State :=
  let s := if inTeam s then setTeamLock (dpllLocked s && (fbit s Fld.TEAM_STATUS_REG_IS_LEADER || fbit s Fld.TEAM_STATUS_REG_LOCKED)) s else s
  herdUpdate s

/-- The quality class of a candidate (Table 15.1). -/
def refClass (s : State) (n : Nat) : Nat :=
  if n = 4 ∨ n = 5 then fld s Fld.TIME_STATUS_GM_CLASS (n - 4) else fld s Fld.CLK_CAND_QCLASS n

def refValid (s : State) (n : Nat) : Bool := decide (n ≤ 9) && fbit s Fld.CLK_CAND_STATUS_VALID n

/-- Enabled and qualified, and not the team's clock at its leader (R381, R382). -/
def refEligible (s : State) (n : Nat) : Bool :=
  refValid s n && !fbit s Fld.CLK_CAND_STATUS_QUALIFYING n && fbit s Fld.CLK_CAND_EN n &&
    !(decide (n = 6) && fbit s Fld.TEAM_STATUS_REG_IS_LEADER && inTeam s)

/-- The order of choice: class, PRIO, ID. -/
def refRank (s : State) (n : Nat) : Nat := (refClass s n * 16 + fld s Fld.CLK_CAND_PRIO n) * 16 + n

/-- The best eligible candidate. -/
def refBest (s : State) : Option Nat :=
  ((List.range 10).filter (refEligible s)).foldl (fun b n => match b with
    | none => some n
    | some m => if refRank s n < refRank s m then some n else b) none

/-- The reference that the rules want: none is HOLDOVER, or FREERUN before the first one (R381, R382). -/
def refWanted (s : State) : Option Nat :=
  let cur := fld s Fld.CLK_STATUS_ACTIVE
  let leads := inTeam s && fbit s Fld.TEAM_STATUS_REG_IS_LEADER
  if isFollower s then (if refValid s 6 then some 6 else none)
  else if fbit s Fld.CLK_CTRL_FORCED then
    let f := fld s Fld.CLK_CTRL_FORCE_CAND
    if refValid s f ∧ ¬ (f = 6 ∧ leads) then some f else none
  else
    let keep := refValid s cur && !(decide (cur = 6) && leads)
    if keep ∧ ¬ (fbit s Fld.CLK_CTRL_REVERT ∧ (refBest s).isSome) then some cur else refBest s

/-- Whether a candidate sets the phase of the tick as well (Table 15.1). -/
def phaseAligned (s : State) (n : Nat) : Bool :=
  decide (n = 4 ∨ n = 5 ∨ n = 6) || (decide (n < 4) && decide (fld s Fld.CLK_CAND_TYPE n ≠ 1))

/-- The mean of a list of frequencies, rounded. DESIGN CHOICE: log entry 64. -/
def meanFreq (l : List Int) : Int := if l.isEmpty then 0 else roundDiv (l.foldl (· + ·) 0) l.length

/-- The frequency in HOLDOVER (R386): the mean of the window that ends GUARD seconds before, of the whole history where that is shorter, else the last one. -/
def holdFreq (s : State) : Nat :=
  let n := 10 * fld s Fld.HOLDOVER_CFG_AVG
  let g := fld s Fld.HOLDOVER_CFG_GUARD
  if s.history.isEmpty then fld s Fld.DPLL_FREQ_FREQ
  else wrapInt 32 (meanFreq (if s.history.length < g + n then s.history else (s.history.drop g).take n))

/-- Show the active candidate. -/
def showActive (a : Nat) (s : State) : State :=
  forEach (List.range 10) (fun n s => setFld Fld.CLK_CAND_STATUS_ACTIVE n (bnat (decide (n = a))) s) (setFld Fld.CLK_STATUS_ACTIVE 0 a s)

/-- The DPLL enters HOLDOVER from candidate `old`. DEDUCED: log entry 63. -/
def enterHoldover (old : Nat) (s : State) : State :=
  let s := setFld Fld.DPLL_FREQ_FREQ 0 (holdFreq s) (setFld Fld.DPLL_PHASE_PHASE 0 0 (setFld Fld.CLK_STATUS_DPLL 0 3 (showActive 15 s)))
  lockFollow (raise 0x81 1 old (setBit Fld.CLK_STATUS_HOLDOVER_STICKY 0 s))

/-- Candidate `n` takes over from `old`; between the domains this is a domain switch (R399). DEDUCED: log entry 63. -/
def switchRef (old n : Nat) (s : State) : State :=
  let held := decide (fld s Fld.CLK_STATUS_DPLL = 3)
  let s := showActive n (setFld Fld.CLK_STATUS_DPLL 0 (if n = 9 then 0 else 1) (setBit Fld.CLK_STATUS_SWITCH_STICKY 0 s))
  let s := setFld Fld.DPLL_PHASE_PHASE 0 0 (if n = 9 then { s with fromFree := true } else s)
  let s := raise 0x80 n old (if held then raise 0x81 0 n s else s)
  let s := if (old = 4 ∧ n = 5) ∨ (old = 5 ∧ n = 4) then raise 0x83 (n - 4) (old - 4) { s with remap := true } else s
  lockFollow s

/-- The first receive lane in use of a trace. -/
def firstLane (s : State) (t : Nat) : Nat := let x := traceOf s t; laneOf x t ((bitList 8 x.rxSet).headD 0)

/-- The conditions of R380 that the engine's own state shows: of a domain, the team's clock and a lane. A grandmaster follows its own time. DEDUCED: log entry 129. -/
def refHolds (s : State) (n : Nat) : Bool :=
  if n = 4 ∨ n = 5 then
    decide (fld s Fld.TIME_STATUS_GM_CLASS (n - 4) ≠ 255) && (decide (fld s Fld.TIME_STATUS_SERVO (n - 4) = 2) || fbit s Fld.TIME_STATUS_GM (n - 4))
  else if n = 6 then
    let t := fld s Fld.TEAM_PARENT_TRACE
    fbit s Fld.TEAM_PARENT_VALID && traceUp s t && fbit s Fld.LANE_STATUS_LOCKED (firstLane s t)
  else if n = 7 ∨ n = 8 then
    let l := fld s Fld.CLK_CAND_LANE n
    fbit s Fld.LANE_STATUS_LOCKED l && (decide (fld s Fld.LANE_CFG_MODE l = 2) ||
      (decide (fld s Fld.LANE_CFG_MODE l = 1) && decide (fld s Fld.TRACE_CFG_KIND (fld s Fld.LANE_STATUS_TRACE l) = 1)))
  else true

/-- A candidate is no longer valid; it loses its qualification. -/
def refDrop (n : Nat) (s : State) : State :=
  setFld Fld.CLK_CAND_STATUS_FOFFS n 0x8000 (clrBit Fld.CLK_CAND_STATUS_VALID n (clrBit Fld.CLK_CAND_STATUS_QUALIFYING n s))

/-- The candidates whose conditions have failed lose their validity (R380). -/
def refCheck (s : State) : State := forEach [4, 5, 6, 7, 8] (fun n s => if refValid s n && !refHolds s n then refDrop n s else s) s

/-- Make the choice again (R380–R382). DEDUCED: log entry 63. -/
def selectRef (s : State) : State :=
  let s := refCheck s
  let s := forEach (List.range 10) (fun n s =>
    setFld Fld.CLK_CAND_STATUS_CLASS n (if refValid s n then refClass s n else 255) s) s
  let cur := fld s Fld.CLK_STATUS_ACTIVE
  match refWanted s with
  | some n => if n = cur then s else switchRef cur n s
  | none =>
    if fld s Fld.CLK_STATUS_DPLL = 3 ∨ (cur = 15 ∧ ¬ fbit s Fld.CLK_CTRL_FORCED) then s else enterHoldover cur s

/-- The members of the team that are present, by index. -/
def presentMembers (s : State) : List Nat := (List.range s.team.length).filter (fun k => present s (s.team.getD k 0))

/-- The team traces in UP to a present member, each with its hops to the leader: 1 to the leader itself, else one more than the HOPS with which the
leader's newest ANNOUNCE arrived on it. DEDUCED: log entry 57. -/
def parentChoices (s : State) (leader : Nat) : List (Nat × Nat) :=
  (liveTraces s).filterMap (fun t =>
    let p := fld s Fld.TRACE_PEER_PEER t
    if traceUp s t ∧ fld s Fld.TRACE_CFG_KIND t = 0 ∧ s.team.contains p ∧ present s p then
      (if p = leader then some (t, 1)
       else (routeOf s leader).bind (fun r => (r.via.find? (fun v => decide (v.1 = t))).map (fun v => (t, v.2 + 1))))
    else none)

/-- Fix leader and parent anew after a change of the members or the traces (R359, R361). A new parent has carried no marker yet; a member more than 2 team
hops from the leader is not locked. -/
def teamRoles (s : State) : State :=
  if ¬ inTeam s then s
  else
    let ms := presentMembers s
    let lead := ms.headD 0
    let own := fld s Fld.TEAM_STATUS_REG_MEMBER
    let s := setFld Fld.TEAM_STATUS_REG_PRESENT 0 (maskOf ms) (setFld Fld.TEAM_STATUS_REG_LEADER 0 lead
      (setFld Fld.TEAM_STATUS_REG_IS_LEADER 0 (bnat (decide (lead = own))) s))
    if lead = own then
      setTeamLock (dpllLocked s) (setFld Fld.TEAM_PARENT_VALID 0 0 (setFld Fld.TEAM_PARENT_HOPS 0 0 (setFld Fld.TEAM_PARENT_DEPTH 0 0 s)))
    else
      let old := if fbit s Fld.TEAM_PARENT_VALID then some (fld s Fld.TEAM_PARENT_TRACE) else none
      match bestVia (parentChoices s (s.team.getD lead 0)) with
      | none => setTeamLock false { setFld Fld.TEAM_PARENT_VALID 0 0 s with parentRun := 0 }
      | some (t, h) =>
        let s := setFld Fld.TEAM_PARENT_TRACE 0 t (setFld Fld.TEAM_PARENT_VALID 0 1 (setFld Fld.TEAM_PARENT_HOPS 0 (min h 3)
          (setFld Fld.TEAM_PARENT_DEPTH 0 (bnat (decide (2 < h))) s)))
        let s := if old = some t then s else { s with parentRun := 0 }
        setTeamLock (fbit s Fld.TEAM_STATUS_REG_LOCKED && decide (old = some t ∧ h ≤ 2)) s

/-- Roles anew, and with them the reference: a follower uses its parent's clock, a new leader leaves it (R361, R382). -/
def teamUpdate (s : State) : State := if inTeam s then selectRef (teamRoles s) else s

/-- The job of TEAM_FORM ends DONE when every member has answered OK and holds TEAM_LOCK, as last announced (R358). -/
def teamJobCheck (s : State) : State :=
  forEach s.jobs (fun j s =>
    match j.work with
    | .team ids acked =>
      let own := ownEndpoint s
      if j.state = 0 ∧ ids.all (fun e => decide (e = own) || (acked.contains e && (match routeOf s e with
          | some r => testBit r.role 5
          | none => false))) ∧ fbit s Fld.TEAM_STATUS_REG_LOCKED then endJob j.handle 1 0 0 0 s
      else s
    | _ => s) s

/-- Outside a team. -/
def noTeam (s : State) : State :=
  { setRegWord 0x700 (BitVec.ofNat 32 0xFF) (setRegWord 0x704 0 s) with team := [], parentRun := 0 }

/-- Leave the team: R381 chooses the reference again. -/
def leaveTeam (s : State) : State := herdUpdate (selectRef (noTeam s))

/-- Join the team of a list as the member at the own position. -/
def joinTeam (ids : List Nat) (s : State) : State :=
  let own := (ids.findIdx? (fun e => decide (e = ownEndpoint s))).getD 0
  let s := setFld Fld.TEAM_STATUS_REG_MEMBER 0 own (setFld Fld.TEAM_STATUS_REG_IN_TEAM 0 1 { noTeam s with team := ids })
  forEach (ids.filter (fun e => decide (e ≠ ownEndpoint s))) openOwn (teamUpdate s)

/-! ### The mirror trace fails (R374) -/

/-- Set the pair state (Table 14.3). -/
def setPairState (n : Nat) (s : State) : State := setFld Fld.SHADOW_STATUS_STATE 0 n s

/-- The body of a PAIR record (Table 14.1). -/
def pairBody (s : State) (action status frame : Nat) : List Byte :=
  beBytes 1 action ++ [0] ++ beBytes 2 status ++ beBytes 4 (ownEndpoint s) ++ beBytes 8 frame

/-- A commanded switch that is still to come is cancelled: ACTION 5 with NOT_PERMITTED (R375). DEDUCED: log entry 87. -/
def switchCancel (s : State) : State :=
  match s.pair.switchAt with
  | none => s
  | some k =>
    let s' := { s with pair := { s.pair with switchAt := none } }
    match mirrorTrace s with
    | some t => sendRecordOn t 4 (pairBody s 5 0x2F k) s'
    | none => s'

/-- The mirror trace has left UP: a main raises MEMBER_LOST and stays MAIN; a standby with PAIR_SENSE high becomes ORPHAN. DEDUCED: log entry 84. -/
def mirrorLost (s : State) : State :=
  let p := fld s Fld.SHADOW_PARTNER_PARTNER
  let st := fld s Fld.SHADOW_STATUS_STATE
  let s := { s with pair := { s.pair with switchAt := none } }
  if st = 1 then raise 0xB2 p 0 { s with pair := { s.pair with copy := none } }
  else if 2 ≤ st ∧ st ≤ 4 ∧ fbit s Fld.SHADOW_STATUS_PAIR_SENSE then
    raise 0xB2 p 0 (setBit Fld.SHADOW_STATUS_ORPHAN_STICKY 0 (setPairState 5 s))
  else s

end Sys2Proof.Machine
end

