-- ==== Sys2Proof/Machine/Time.lean ====
section
/-! DEFINITION. Time domains (R390–R393), time stamps (R396), PTP messages in the layout of IEEE 1588-2019, which the spec names and does not repeat (R394,
R395), and scheduled pulses (R400). -/

namespace Sys2Proof.Machine

/-! ### Domains (R391, R393) -/

/-- The domain with index `d`: 0 A, 1 B. -/
def domOf (s : State) (d : Nat) : TimeDom := if d = 0 then s.domA else s.domB
def setDom (d : Nat) (x : TimeDom) (s : State) : State := if d = 0 then { s with domA := x } else { s with domB := x }

/-- The formula of R391 at raw value `r`. -/
def domLinear (x : TimeDom) (r : Int) : Int := x.o + r + (x.r * (r - x.a)) / 2 ^ 48

/-- A change of the rate at raw value `r` (R391): it never moves the reading there. -/
def reanchor (x : TimeDom) (r rate : Int) : TimeDom := { x with o := domLinear x r - r, a := r, r := rate }

/-- The domain as it stands at raw value `r`: a slew that has ended leaves its rate. -/
def domSettle (x : TimeDom) (r : Int) : TimeDom :=
  match x.slewEnd with
  | some e => if e ≤ r then { reanchor x e x.base with pend := 0, slewEnd := none } else x
  | none => x

/-- The reading of a domain at raw value `r`, in 2^−16 ns. -/
def domAt (x : TimeDom) (r : Int) : Int := domLinear (domSettle x r) r

/-- R_d stays within ±1,000 ppm. -/
def rateClamp (r : Int) : Int := max (-281474976711) (min 281474976711 r)

/-- Steer a domain at raw value `r`: rate `base` without slew, and `pend` to be removed by a slew of at most SLEW_MAX ppm. -/
def steer (max_ : Nat) (base pend : Int) (x : TimeDom) (r : Int) : TimeDom :=
  let x := domSettle x r
  let base := rateClamp base
  let ppm := max 1 (min max_ (Config.slewPpm max_ pend))
  let slew : Int := (if pend < 0 then -1 else 1) * ((ppm * 2 ^ 48 / 10 ^ 6 : Nat) : Int)
  if pend = 0 then { reanchor x r base with base := base, pend := 0, slewEnd := none }
  else { reanchor x r (rateClamp (base + slew)) with
    base := base, pend := pend, slewEnd := some (r + pend.natAbs * 10 ^ 6 / ppm) }

/-- The pending offset that is left at raw value `r`. -/
def pendAt (x : TimeDom) (r : Int) : Int :=
  let x := domSettle x r
  if x.slewEnd.isNone then 0 else x.pend - ((x.r - x.base) * (r - x.a)) / 2 ^ 48

/-- The first register index of a domain's fields. -/
def domField (f : RegField) (d : Nat) (s : State) : Nat := fld s f d

/-- Show R_d. -/
def showRate (d : Nat) (s : State) : State :=
  let w := wrapInt 48 (domOf s d).r
  setFld Fld.RATE_LO_RATE_LO d (w % 2 ^ 32) (setFld Fld.RATE_HI_RATE_HI d (w / 2 ^ 32) s)

/-! ### Scheduled pulses (R400) -/

/-- The reading that a schedule follows: 0 raw, 1 A, 2 B. -/
def readingOf (s : State) (dom : Nat) (r : Int) : Int :=
  if dom = 0 then r else domAt (domOf s (dom - 1)) r

def pulseOf (s : State) (o : Nat) : Option PulseSched := smapGet (fun _ => none) s.pulses o
def setPulse (o : Nat) (p : Option PulseSched) (s : State) : State :=
  setFld Fld.CLKOUT_STATUS_ARMED o (bnat p.isSome) { s with pulses := smapSet (fun _ => none) o p s.pulses }

/-- A schedule after it has fired with reading `now`: the first time T0 + m × PERIOD above the reading. -/
def pulseNext (p : PulseSched) (now : Int) : Option PulseSched :=
  match p.period with
  | none => none
  | some 0 => none
  | some n =>
    let step : Int := n * 65536
    let m := (now - p.first) / step + 1
    some { p with next := p.first + (if m < 1 then 1 else m) * step }

/-- A forward step of a domain that has passed scheduled times fires each of their outputs once, late. -/
def latePulses (dom : Nat) (r : Int) (s : State) : State :=
  forEach (List.range 16) (fun o s =>
    match pulseOf s o with
    | none => s
    | some p =>
      let now := readingOf s dom r
      if p.dom ≠ dom ∨ now < p.next then s
      else
        let s := setPulse o (pulseNext p now) s
        if fld s Fld.CLKOUT_CFG_FUNC o ≠ 4 then s
        else sendOut (.pulse o true) (raise 0x84 o 0 (setBit Fld.CLKOUT_STATUS_LATE_STICKY o s))) s

/-! ### Steps (R393, R398) -/

/-- Seconds, ns and sub-ns of a reading (R391). -/
def timeParts (t : Int) : Nat × Nat × Nat :=
  ((t / (10 ^ 9 * 65536)).toNat, ((t / 65536) % 10 ^ 9).toNat, (t % 65536).toNat)

/-- The reading of seconds, ns and sub-ns. -/
def timeJoin (sec ns sub : Nat) : Int := ((sec * 10 ^ 9 + ns) * 65536 + sub : Nat)

/-- T(k) of the frame mapping. -/
def mapTime (s : State) : Int :=
  timeJoin (fld s Fld.MAP_SEC_LO_SEC_LO + 2 ^ 32 * fld s Fld.MAP_SEC_HI_SEC_HI) (fld s Fld.MAP_NS_NS) (fld s Fld.MAP_SEC_HI_SUBNS)
/-- k of the frame mapping. -/
def mapFrame (s : State) : Nat := fld s Fld.MAP_FRAME_LO_FRAME_LO + 2 ^ 32 * fld s Fld.MAP_FRAME_HI_FRAME_HI

/-- Set the frame mapping. -/
def setMap (k : Nat) (t : Int) (s : State) : State :=
  let p := timeParts t
  setFld Fld.MAP_FRAME_LO_FRAME_LO 0 (k % 2 ^ 32) (setFld Fld.MAP_FRAME_HI_FRAME_HI 0 (k / 2 ^ 32)
    (setFld Fld.MAP_SEC_LO_SEC_LO 0 (p.1 % 2 ^ 32) (setFld Fld.MAP_SEC_HI_SEC_HI 0 (p.1 / 2 ^ 32)
      (setFld Fld.MAP_SEC_HI_SUBNS 0 p.2.2 (setFld Fld.MAP_NS_NS 0 p.2.1 s)))))

/-- Step domain `d` by `delta` at raw value `r`: counted, recorded, raised; the mapping in this domain moves with it; pulses that it passes fire late. -/
def stepDom (d : Nat) (delta r : Int) (s : State) : State :=
  let x := domSettle (domOf s d) r
  let x := { reanchor x r x.base with pend := 0, slewEnd := none }
  let s := showRate d (setDom d { x with o := x.o + delta } s)
  let w := wrapInt 64 delta
  let s := setFld Fld.STEP_LAST_LO_STEP_LO d (w % 2 ^ 32) (setFld Fld.STEP_LAST_HI_STEP_HI d (w / 2 ^ 32) (countFld Fld.STEP_COUNT_STEPS d s))
  let s := raise 0x82 (d + 1) (wrapInt 32 (satInt 32 (delta / 65536)).1) s
  let s := if fbit s Fld.CLK_STATUS_FRAME_MAPPED ∧ fld s Fld.CLK_STATUS_MAP_DOM = d then setMap (mapFrame s) (mapTime s + delta) s else s
  latePulses (d + 1) r s

/-! ### Time stamps (R396, Table 15.7) -/

/-- A time in ps as 2^−16 ns. -/
def psUnits (ps : Int) : Int := ps * 65536 / 1000

/-- UI, TX and RX in ps of a lane by its mode and rate. -/
def stampLatency (s : State) (lane : Nat) : Nat × Nat × Nat :=
  let rate := fld s Fld.LANE_CFG_RATE lane
  if fld s Fld.LANE_CFG_MODE lane = 2 then (if rate = 2 then (320, 24800, 31200) else (800, 56000, 72000))
  else
    let col := [8000, 4000, 3200, 2000, 1600, 1000, 800].getD rate 800
    (col / 10, 5 * col + 2400, 7 * col + 1600)

/-- The lane of the reference point of a PTP port. -/
def stampLane (s : State) (port : Nat) (tx : Bool) : Nat :=
  if 64 ≤ port then port - 64
  else
    let x := traceOf s port
    let first := (bitList 8 (if tx then x.txSet else x.rxSet)).headD 0
    if tx then port + first else ((x.mapping.find? (fun m => decide (m.2 = first))).map Prod.fst).getD (port + first)

/-- The transmit stamp, as a raw value, of a message captured at raw time `t` in ns. -/
def stampTx (s : State) (port t : Nat) : Int :=
  let l := stampLane s port true
  (t : Int) * 65536 + psUnits ((stampLatency s l).2.1 + fldS s Fld.LANE_TS_ADJ_TX_ADJ l)

/-- The receive stamp of a message captured at raw time `t` in ns. -/
def stampRx (s : State) (port t : Nat) : Int :=
  let l := stampLane s port false
  let c := stampLatency s l
  (t : Int) * 65536 - psUnits (c.2.2 + smapGet (fun _ => 0) s.comma l * c.1 + fldS s Fld.LANE_TS_ADJ_RX_ADJ l)

/-! ### PTP messages (IEEE 1588-2019) -/

/-- clockIdentity (R394): MAC [47:24], FFFEh, MAC [23:0]. -/
def clockIdentity (s : State) : Nat :=
  let mac := fld s Fld.ETH_MAC_LO_MAC_LO + 2 ^ 32 * fld s Fld.ETH_MAC_HI_MAC_HI
  mac / 2 ^ 24 * 2 ^ 40 + 0xFFFE * 2 ^ 24 + mac % 2 ^ 24

/-- portNumber (R394): trace + 1, or 65 + n. -/
def portNumber (port : Nat) : Nat := port + 1

/-- domainNumber of a domain on a port: HDOM on a trace, EDOM on an Ethernet lane. -/
def domainNumber (s : State) (d port : Nat) : Nat := if port < 64 then fld s Fld.PTP_CFG_HDOM d else fld s Fld.PTP_CFG_EDOM d

/-- Whether a port belongs to a domain: a trace in PTP_TRACE_EN that is no bridge, or an Ethernet lane in PTP_ETH_EN (R394). -/
def ptpEnabled (s : State) (d port : Nat) : Bool :=
  if port < 32 then fbit s Fld.PTP_CFG_HARNESS_EN d && testBit (fld s Fld.PTP_TRACE_EN_LO_EN d) port && !isBridge s port
  else if port < 64 then fbit s Fld.PTP_CFG_HARNESS_EN d && testBit (fld s Fld.PTP_TRACE_EN_HI_EN d) (port - 32) && !isBridge s port
  else decide (fld s Fld.PTP_CFG_ETH_PROFILE d ≠ 0) && testBit (fld s Fld.PTP_ETH_EN_EN d) (port - 64)

/-- Whether a port measures delay peer to peer (Table 15.5). -/
def peerDelay (s : State) (d port : Nat) : Bool := decide (port < 64) || decide (fld s Fld.PTP_CFG_ETH_PROFILE d ≠ 1)

def portOfDom (s : State) (d port : Nat) : PtpPort := smapGet (fun _ => ptpPortIdle) (domOf s d).ports port
def setPtpPort (d port : Nat) (p : PtpPort) (s : State) : State :=
  let x := domOf s d
  setDom d { x with ports := smapSet (fun _ => ptpPortIdle) port p x.ports } s

/-- A time as a PTP timestamp, its sub-ns part apart. -/
def stampBytes (t : Int) : List Byte := let p := timeParts t; beBytes 6 p.1 ++ beBytes 4 p.2.1

/-- A PTP timestamp as a time. -/
def stampRead (b : List Byte) (o : Nat) : Int := timeJoin (rd b o 6) (rd b (o + 6) 4) 0

/-- A message: type, flags, correction, sequence number, and the body after the 34-byte header. PRESUMED: log entry 59. -/
def ptpMessage (s : State) (d port type flags : Nat) (corr : Int) (seq : Nat) (body : List Byte) : List Byte :=
  beBytes 1 type ++ [0x12] ++ beBytes 2 (34 + body.length) ++ beBytes 1 (domainNumber s d port) ++ [0] ++ beBytes 2 flags ++
    beBytes 8 (wrapInt 64 corr) ++ [0, 0, 0, 0] ++ beBytes 8 (clockIdentity s) ++ beBytes 2 (portNumber port) ++ beBytes 2 seq ++ [0, 0x7F] ++ body

def ptpType (m : List Byte) : Nat := rd m 0 1 % 16
def ptpSeq (m : List Byte) : Nat := rd m 30 2
def ptpCorr (m : List Byte) : Int := signOf 64 (rd m 8 8)
def ptpTwoStep (m : List Byte) : Bool := testBit (rd m 6 1) 1

/-- Send a message on a port: in a VC 2 packet with its time header (R395), or in an Ethernet frame. -/
def ptpSend (d port : Nat) (m : List Byte) (s : State) : State :=
  if port < 64 then linkPut port ⟨2, fld s Fld.TRACE_PEER_PEER port, ownEndpoint s, [1, BitVec.ofNat 8 d, 0, 0] ++ m, none⟩ s
  else sendOut (.ptp (port - 64) m) s

/-- The Follow_Up of a Sync, or the Pdelay_Resp_Follow_Up of a Pdelay_Resp, that was sent at raw stamp `r`. -/
def ptpFollow (d port : Nat) (m : List Byte) (r : Int) (s : State) : State :=
  let t := domAt (domOf s d) r
  let sub := t % 65536
  if ptpType m = 0 then ptpSend d port (ptpMessage s d port 8 0 sub (ptpSeq m) (stampBytes t)) s
  else if ptpType m = 3 then ptpSend d port (ptpMessage s d port 10 0 sub (ptpSeq m) (stampBytes t ++ (m.drop 44).take 10)) s
  else s

/-- An event message goes out at raw time `t`: the own delay request takes its stamp. -/
def ptpOut (d port : Nat) (m : List Byte) (t : Nat) (s : State) : State :=
  if ptpType m = 1 ∨ ptpType m = 2 then
    setPtpPort d port { portOfDom s d port with req := some (ptpSeq m, stampTx s port t) } s
  else s

/-- A VC 2 packet goes out on a trace. -/
def timeOut (t : Nat) (p : LinkPkt) (time : Nat) (s : State) : State :=
  if p.vc = 2 ∧ rd p.payload 0 1 = 1 then ptpOut (rd p.payload 1 1 % 2) t (p.payload.drop 4) time s else s

/-- An ACK covers a VC 2 packet that was last sent at raw time `time`: its follow-up is sent (R396). -/
def timeAcked (t : Nat) (p : LinkPkt) (time : Nat) (s : State) : State :=
  if p.vc = 2 ∧ rd p.payload 0 1 = 1 then ptpFollow (rd p.payload 1 1 % 2) t (p.payload.drop 4) (stampTx s t time) s else s

/-- Send an event message on an Ethernet lane at raw time `t`; its follow-up comes at once. DEDUCED: log entry 61. -/
def ptpSendEvent (d port : Nat) (m : List Byte) (t : Nat) (s : State) : State :=
  let s := ptpSend d port m s
  if port < 64 then s else ptpFollow d port m (stampTx s port t) (ptpOut d port m t s)

end Sys2Proof.Machine
end

