-- ==== Sys2Proof/Machine/Lanes.lean ====
section
/-! DEFINITION. Lanes and traces (R323–R331, R338–R349): link-control packets, credits and their audit, data packets with retry, re-initialisation, lane loss
and restriping, and the bring-up of a trace. -/

namespace Sys2Proof.Machine

/-! ### Lanes of a trace -/

/-- The lanes of a trace. -/
def traceLanes (s : State) (t : Nat) : List Nat := (List.range (traceWidth s t)).map (fun i => t + i)

/-- Lanes in a mask. -/
def laneCount (mask : Nat) : Nat := (bitList 8 mask).length

/-- Show the receive lanes in use. -/
def showLanes (t mask : Nat) (s : State) : State :=
  setFld Fld.TRACE_STATE_LANES t (laneCount mask) (setFld Fld.TRACE_STATE_LANE_MASK t mask s)

def setTraceState (t n : Nat) (s : State) : State := setFld Fld.TRACE_STATE_STATE t n s

/-- Whether every receive lane of a trace has lock. -/
def allLocked (s : State) (t : Nat) : Bool := (traceLanes s t).all (fun l => fbit s Fld.LANE_STATUS_LOCKED l)

/-- COMMA ends when every receive lane has lock (Table 13.4). -/
def commaCheck (t : Nat) (s : State) : State := if traceState s t = 1 ∧ allLocked s t then setTraceState t 2 s else s

/-! ### Credits and their audit (R339, R345) -/

/-- The receive buffer of a virtual channel in credits (Table 13.7). -/
def vcSize (vc : Nat) : Nat := [128, 256, 16, 32].getD vc 0
/-- The largest payload of a virtual channel (Table 13.7). -/
def vcMax (vc : Nat) : Nat := [4096, 4096, 256, 1024].getD vc 0

/-- The audit of one virtual channel at a marker (R345). -/
def vcBalanced (vc : Nat) (v : VcCounts) : Bool :=
  decide (v.accepted = v.freed + v.held ∧ v.held ≤ vcSize vc ∧ v.acked ≤ v.used ∧ v.used ≤ v.limit)

/-- A failed credit check. -/
def auditFail (t vc : Nat) (s : State) : State :=
  let x := traceOf s t
  let v := vcOf x vc
  raise 0x73 t vc (setBit Fld.TRACE_FLAGS_AUDIT t (setBit Fld.LINK_GSTATUS_AUDIT_STICKY 0 (setTrace t (setVc vc { v with audits := v.audits + 1 } x) s)))

/-- The credit audit of a trace at a marker (R345). -/
def creditAudit (t : Nat) (s : State) : State :=
  forEach (List.range 4) (fun vc s => if vcBalanced vc (vcOf (traceOf s t) vc) then s else auditFail t vc s) s

/-! ### Link-control packets (R343, R344) -/

/-- The LCP of a body. -/
def lcpSeal (body : List Byte) : List Byte := body ++ beBytes 4 (crc32c body)

/-- Whether an LCP passes its CRC and is of a kind. -/
def lcpIs (kind : Nat) (bs : List Byte) : Bool :=
  decide (bs.length = 16 ∧ crc32c (bs.take 12) = rd bs 12 4 ∧ rd bs 0 1 = kind)

/-- The body of an ACK (KIND 1) or NAK (KIND 2). -/
def ackBody (x : TraceSt) (kind seq : Nat) : List Byte :=
  beBytes 1 kind ++ [0] ++ beBytes 2 seq ++ (List.range 4).flatMap (fun vc => beBytes 2 ((vcOf x vc).accepted % 65536))

/-- The body of an LCP that is due, with the counts of the moment. -/
def lcpBody (x : TraceSt) : LcpDue → List Byte
  | .ack => ackBody x 1 ((x.rxSeq + 4095) % 4096)
  | .nak => ackBody x 2 x.rxSeq
  | .credit => [3, 0, 0, 0] ++ (List.range 4).flatMap (fun vc => beBytes 2 ((vcSize vc + (vcOf x vc).freed) % 65536))
  | .restripe mask k => [4] ++ beBytes 1 mask ++ beBytes 8 k ++ [0, 0]

/-- The TRAIN LCP of trace lane `i`. -/
def trainBody (s : State) (t i : Nat) : List Byte :=
  [0] ++ beBytes 1 (i + 8 * traceWidth s t + 128 * bnat (traceOf s t).checked) ++
    beBytes 1 (fld s Fld.TRACE_CFG_RATE t + 8 * fld s Fld.TRACE_CFG_KIND t) ++ beBytes 3 (ownEndpoint s) ++
    (List.range 4).flatMap (fun vc => beBytes 1 (vcSize vc / 8)) ++ [1, 0]

/-- Make an LCP due. One of a kind waits at a time. -/
def lcpDue (t : Nat) (l : LcpDue) (s : State) : State :=
  let x := traceOf s t
  if x.lcps.contains l then s else setTrace t { x with lcps := x.lcps ++ [l] } s

/-! ### Re-initialisation (R331, R339) -/

/-- Close the credit epoch of one virtual channel: USED − ACKED becomes a deviation under the cause. -/
def closeVc (cause : Nat) (v : VcCounts) : VcCounts :=
  let d := v.used - v.acked
  let z : VcCounts := { v with limit := 0, used := 0, acked := 0, accepted := 0, freed := 0, held := 0 }
  if cause = 8 then { z with partner := v.partner + d }
  else if [1, 6, 7, 10].contains cause then { z with lost := v.lost + d }
  else { z with uncorr := v.uncorr + d }

/-- A trace at the start of a new epoch; `full`: the mask of all its lanes. -/
def closeEpoch (cause full : Nat) (x : TraceSt) : TraceSt :=
  let x := forEach (List.range 4) (fun vc x => setVc vc (closeVc cause (vcOf x vc)) x) x
  { x with mapping := [], checked := false, ready := 0, marker := none, miss := 0, synced := 0, rxSet := full, txSet := full, rxPend := none, txPend := none,
           thaw := 0, lossLanes := 0, slip := false, epoch := x.epoch + 1, txSeq := 0, rxSeq := 0, unacked := [], nakSent := false, accepts := 0,
           lcps := [], txFrame := none, rxFrame := none }

/-- The full lane mask of a trace. -/
def fullMask (s : State) (t : Nat) : Nat := 2 ^ traceWidth s t - 1

/-- What follows for the team and the pair when a trace has left UP (R361, R374). -/
def traceLost (t : Nat) (s : State) : State :=
  let s := if mirrorTrace s = some t then mirrorLost s else s
  let s := match s.pair.wait with
    | some r => if rd r.payload 0 4 = fld s Fld.TRACE_PEER_PEER t ∧ fld s Fld.TRACE_CFG_KIND t = 2 then
        answer r ⟨0x64, 0, 0, []⟩ { s with pair := { s.pair with wait := none } } else s
    | none => s
  teamUpdate s

/-- A trace fails with a cause of Table 13.5 and goes to a state: COMMA, or DOWN after TRACE_DOWN. -/
def traceFail (t cause next : Nat) (s : State) : State :=
  let s := countFld Fld.TRACE_REINIT_REINITS t (setFld Fld.TRACE_STATE_LAST_FAIL t cause s)
  let s := setBit Fld.TRACE_FLAGS_FAIL t (setBit Fld.LINK_GSTATUS_FAIL_STICKY 0 (raise 0x72 t cause s))
  let full := fullMask s t
  let s := forEach (traceLanes s t) (fun l s => clrBit Fld.LANE_STATUS_EXCLUDED l s) s
  let s := showLanes t full (setTrace t (closeEpoch cause full (traceOf s t)) s)
  selectRef (traceLost t (commaCheck t (setTraceState t next s)))

/-- TRACE_REINIT: a cause of Table 13.5 other than a host's TRACE_DOWN sends the trace back to COMMA. DEDUCED: log entry 49. -/
def traceReinit (t cause : Nat) (s : State) : State :=
  if traceState s t = 0 ∨ cause = 0 ∨ 10 < cause then s else traceFail t cause 1 s

def execTraceReinit (trace : Fin 64) (cause : Nat) (s : State) : Res := .next (traceReinit trace.val cause s)

/-- No two markers within 8 frames of SYNC. -/
def execSyncTimeout (trace : Fin 64) (s : State) : Res :=
  .next (if traceState s trace.val = 3 then traceFail trace.val 4 1 s else s)

/-! ### The region of a trace that restripes (R333) -/

/-- Whether the region that a trace sends fits `w` lanes (R333). DESIGN CHOICE: log entry 47. -/
def regionFits (s : State) (t w : Nat) : Bool :=
  let mirror := decide (mirrorTrace s = some t)
  let n := if mirror then 4 + 2 * fld s Fld.SHADOW_MIRROR_STATE_CAP else (txEntries s t false).length
  let d := if mirror then 0 else (txEntries s t true).length
  match regionCols n d (sampleWidth (fld s Fld.TRACE_CFG_SFMT t)) w with
  | none => false
  | some c =>
    decide (c ≤ 8192 ∧ 265 + fld s Fld.TRACE_TX_REGION_OFFSET t + c ≤ columnsMin s t)

/-! ### Lane loss and restriping (R327, R347–R349) -/

/-- The first boundary at or after a raw time in ps; never the present one. -/
def boundaryFrom (s : State) (ps : Nat) : Nat :=
  let n := ((ps - s.tick * 1000) * fsHz s.fs + 10 ^ 12 - 1) / 10 ^ 12
  s.frame + max 1 n

/-- Whether boundary `k` lies at least 1 µs after raw time `t` ns. -/
def microBefore (s : State) (k t : Nat) : Bool :=
  decide (s.frame < k ∧ (t + 1000) * fsHz s.fs ≤ s.tick * fsHz s.fs + (k - s.frame) * 10 ^ 9)

/-- T_REQ in ps (R347). DESIGN CHOICE: log entry 47. -/
def reqPs (s : State) (t : Nat) : Nat :=
  let w := max 1 (laneCount (traceOf s t).txSet)
  2000000 + 2 * ((4116 + w - 1) / w) * columnPs (fld s Fld.TRACE_CFG_RATE t)

/-- Whether an LCP asks for a restripe. -/
def isRestripe : LcpDue → Bool
  | .restripe _ _ => true
  | _ => false

/-- Ask the peer to send on the lanes of a mask. -/
def requestRestripe (t mask time : Nat) (s : State) : State :=
  let x := traceOf s t
  let k := boundaryFrom s (time * 1000 + reqPs s t)
  let lcps := x.lcps.filter (fun l => !isRestripe l) ++ [.restripe mask k]
  setTraceState t 5 (setTrace t { x with rxPend := some (mask, k), lcps := lcps } s)

/-- The receive lanes of a trace that have lock and are not excluded, as a mask of the peer's trace lanes. -/
def goodMask (s : State) (t : Nat) : Nat :=
  maskOf (((traceLanes s t).filter (fun l => fbit s Fld.LANE_STATUS_LOCKED l && !fbit s Fld.LANE_STATUS_EXCLUDED l)).map (mapLane (traceOf s t) t))

/-- A receive lane of a trace loses lock (R327, R347). DEDUCED: log entry 50. -/
def laneLoss (lane time : Nat) (s : State) : State :=
  if ¬ fbit s Fld.LANE_STATUS_LOCKED lane then s
  else if fld s Fld.LANE_CFG_MODE lane ≠ 1 then countFld Fld.LANE_ERR_LOCK_LOSS lane (clrBit Fld.LANE_STATUS_LOCKED lane s)
  else
    let t := fld s Fld.LANE_STATUS_TRACE lane
    let s := countFld Fld.LANE_ERR_LOCK_LOSS lane (clrBit Fld.LANE_STATUS_LOCKED lane s)
    let s := raise 0x70 lane t (setBit Fld.LINK_GSTATUS_LOSS_STICKY 0 s)
    if ¬ traceUp s t ∨ fbit s Fld.LANE_STATUS_EXCLUDED lane then s
    else
      let x := traceOf s t
      let s := setBit Fld.LANE_STATUS_EXCLUDED lane
        (setTrace t { x with lossLanes := x.lossLanes ||| 2 ^ mapLane x t lane } s)
      let mask := goodMask s t
      if mask = 0 then traceFail t 10 1 s
      else if ¬ fbit s Fld.LINK_CTRL_RESTRIPE_EN ∨ ¬ fbit s Fld.TRACE_CFG_RESTRIPE_OK t then traceFail t 6 1 s
      else requestRestripe t mask time s

/-- LANE_LOSS: the reference is chosen again, since a candidate may have lost its lane (R380). -/
def execLaneLoss (lane : Fin 64) (t : Nat) (s : State) : Res := .next (selectRef (laneLoss lane.val t s))

/-- A lane regains lock at comma-alignment position `k` (R327, R396); in COMMA the trace may go on to TRAIN. DESIGN CHOICE: log entry 62. -/
def laneLock (lane : Nat) (inverted : Bool) (k : Nat) (s : State) : State :=
  if fld s Fld.LANE_CFG_MODE lane ≠ 1 ∧ fld s Fld.LANE_CFG_MODE lane ≠ 2 then s
  else
    let s := setFld Fld.LANE_STATUS_RX_INVERTED lane (bnat inverted) (setBit Fld.LANE_STATUS_LOCKED lane (setBit Fld.LANE_STATUS_SIGNAL lane s))
    let s := { s with comma := smapSet (fun _ => 0) lane k s.comma }
    if fld s Fld.LANE_CFG_MODE lane = 1 then commaCheck (fld s Fld.LANE_STATUS_TRACE lane) s else s

def execLaneLock (lane : Fin 64) (inverted : Bool) (k : Fin 10) (s : State) : Res := .next (laneLock lane.val inverted k.val s)

/-- An excluded lane has kept lock without a code error for RETURN_HOLD (R349). -/
def laneReturn (lane time : Nat) (s : State) : State :=
  let t := fld s Fld.LANE_STATUS_TRACE lane
  if fld s Fld.LANE_CFG_MODE lane = 1 ∧ fbit s Fld.LINK_CTRL_RETURN_EN ∧ fbit s Fld.LANE_STATUS_EXCLUDED lane ∧
    fbit s Fld.LANE_STATUS_LOCKED lane ∧ traceUp s t then
    let x := traceOf s t
    requestRestripe t (maskOf (mapLane x t lane :: bitList 8 (goodMask s t))) time s
  else s

def execLaneReturn (lane : Fin 64) (t : Nat) (s : State) : Res := .next (laneReturn lane.val t s)

/-- Count a restripe that has come into use (R348). DEDUCED: log entry 50. -/
def countRestripe (t lanes : Nat) (s : State) : State :=
  raise 0x71 t lanes (setBit Fld.TRACE_FLAGS_RESTRIPE t (countFld Fld.TRACE_REINIT_RESTRIPES t s))

/-- A trace without a pending restripe is in UP. -/
def restripeOver (t : Nat) (s : State) : State :=
  let x := traceOf s t
  if traceState s t = 5 ∧ x.rxPend.isNone ∧ x.txPend.isNone then setTraceState t 4 s else s

/-- RESTRIPE: the request of the peer, by the first of its lane copies that passes (R344, R348). DEDUCED: log entry 50. -/
def restripeRx (t : Nat) (copies : List (List Byte)) (time : Nat) (s : State) : State :=
  match copies.find? (lcpIs 4) with
  | none => s
  | some c =>
    let mask := rd c 1 1
    let k := rd c 2 8
    let x := traceOf s t
    if ¬ traceUp s t ∨ x.txPend = some (mask, k) ∨ (x.txSet = mask ∧ k ≤ s.frame) then s
    else if mask = 0 then traceFail t 10 1 s
    else if ¬ microBefore s k time then traceFail t 7 1 s
    else setTraceState t 5 (setTrace t { x with txPend := some (mask, k) } s)

def execRestripe (trace : Fin 64) (copies : List (List Byte)) (t : Nat) (s : State) : Res := .next (restripeRx trace.val copies t s)

/-- The sender applies a restripe at marker `b` (R348). -/
def restripeApply (t b time : Nat) (s : State) : State :=
  let x := traceOf s t
  match x.txPend with
  | none => s
  | some (mask, k) =>
    if k ≠ b then s
    else if ¬ regionFits s t (laneCount mask) then traceFail t 6 1 s
    else
      let s := setTrace t { x with txSet := mask, txPend := none, thaw := time + 1000 } s
      restripeOver t (countRestripe t (laneCount mask) s)

/-! ### Frame markers (R328, R343) -/

/-- The marker of boundary `b` on a trace from SYNC onward, with what the link engine does at it: restripe, credit audit, ACK and CREDIT due, a request not yet
answered repeated. -/
def markerTx (t b time : Nat) (s : State) : State :=
  if traceState s t < 3 then s
  else
    let s := restripeApply t b time s
    if traceState s t < 3 then s
    else
      let s := lcpDue t .credit (lcpDue t .ack (creditAudit t (sendOut (.marker t b) s)))
      match (traceOf s t).rxPend with
      | some (mask, k) => lcpDue t (.restripe mask k) s
      | none => s

/-- The lanes that a received marker counts on: those in use and not excluded, with what each carried. -/
def markerLanes (s : State) (t : Nat) (idx : List (Nat × Option Nat)) : List (Option Nat) :=
  let x := traceOf s t
  (bitList 8 x.rxSet).filterMap (fun i =>
    if fbit s Fld.LANE_STATUS_EXCLUDED (laneOf x t i) then none
    else some (((idx.find? (fun p => decide (p.1 = i))).map Prod.snd).getD none))

/-- A requested lane set is in use from marker K on. -/
def restripeInUse (t m time : Nat) (s : State) : State :=
  let x := traceOf s t
  match x.rxPend with
  | none => s
  | some (mask, k) =>
    if m < k then s
    else
      let s := setTrace t { x with rxSet := mask, rxPend := none, thaw := time + 1000, lcps := x.lcps.filter (fun l => !isRestripe l) } s
      let s := forEach (bitList 8 mask) (fun i s => clrBit Fld.LANE_STATUS_EXCLUDED (laneOf x t i) s) (showLanes t mask s)
      selectRef (restripeOver t (countRestripe t (laneCount mask) s))

/-- The trace to the engine's parent in the team. -/
def teamParent (t : Nat) (s : State) : Bool :=
  fbit s Fld.TEAM_PARENT_VALID && decide (fld s Fld.TEAM_PARENT_TRACE = t)

/-- An engine in CONFIGURE adopts a higher index: the leader from any member, a member from its parent once its loop is locked. -/
def teamIndex (parent : Bool) (m : Nat) (good : Bool) (s : State) : State :=
  if good ∧ s.frame < m ∧ s.mode = .configure ∧
      (fbit s Fld.TEAM_STATUS_REG_IS_LEADER ∨ (parent ∧ ¬ fbit s Fld.TEAM_STATUS_REG_LOCKED ∧ dpllLocked s)) then
    { s with frame := m }
  else s

/-- A marker from the parent: 64 in a row with the engine's own index lock it. -/
def parentMarker (m : Nat) (good : Bool) (s : State) : State :=
  if ¬ (good ∧ m = s.frame) then setTeamLock false { s with parentRun := 0 }
  else
    let s := { s with parentRun := s.parentRun + 1 }
    if 64 ≤ s.parentRun ∧ dpllLocked s ∧ ¬ fbit s Fld.TEAM_PARENT_DEPTH then teamJobCheck (setTeamLock true s) else s

/-- A follower counts its parent's markers with its own index; in CONFIGURE a team that is not yet locked adopts a higher index (R360). DEDUCED: log entry 57. -/
def teamMarker (t m : Nat) (good : Bool) (s : State) : State :=
  if ¬ inTeam s ∨ fld s Fld.TRACE_CFG_KIND t ≠ 0 ∨ ¬ s.team.contains (fld s Fld.TRACE_PEER_PEER t) then s
  else if ¬ teamParent t s ∨ fbit s Fld.TEAM_STATUS_REG_IS_LEADER then teamIndex (teamParent t s) m good s
  else parentMarker m good (teamIndex (teamParent t s) m good s)

/-- FRAME_MARKER_RX: what each trace lane of the set carried, an index or nothing valid. DEDUCED: log entry 49. -/
def markerRx (t : Nat) (idx : List (Nat × Option Nat)) (time : Nat) (s : State) : State :=
  if traceState s t < 3 then s
  else
    let x := traceOf s t
    let got := markerLanes s t idx
    let want := match x.marker with
      | some m => some (m + 1)
      | none => (got.filterMap id).head?
    let bad := (got.filter (fun g => decide (g = none ∨ g ≠ want))).length
    let s := if 0 < bad then setBit Fld.TRACE_FLAGS_MARKER t (addFld Fld.TRACE_MARKER_ERR_LANE_MARKERS t bad s) else s
    match want with
    | none => setTrace t { x with synced := 0 } s
    | some m =>
      if got.contains (some m) then
        let s := setTrace t { x with marker := some m, miss := 0, synced := x.synced + 1, lossLanes := 0, slip := false } s
        let s := creditAudit t (restripeInUse t m time s)
        let s := if traceState s t = 3 ∧ 2 ≤ x.synced + 1 then
            let s := setTraceState t 4 s
            let s := match x.job with
              | some h => endJob h 1 0 0 0 s
              | none => s
            teamUpdate (setTrace t { traceOf s t with job := none } s)
          else s
        teamMarker t m true s
      else if 2 ≤ x.miss ∧ traceUp s t then traceFail t 9 1 s
      else teamMarker t m false (setTrace t { x with miss := x.miss + 1, synced := 0 } s)

def execFrameMarkerRx (trace : Fin 64) (idx : List (Nat × Option Nat)) (t : Nat) (s : State) : Res := .next (markerRx trace.val idx t s)

/-! ### TRAIN (R330) -/

/-- Hold a trace in TRAIN with a cause. -/
def trainHold (t cause : Nat) (s : State) : State :=
  setTrace t { traceOf s t with checked := false, ready := 0 } (setFld Fld.TRACE_STATE_LAST_FAIL t cause s)

/-- TRAIN: one per-lane TRAIN LCP with the copy that each receive lane carried, the lane skew in columns, and on a team or mirror trace the one-way delay in ns once a
round trip has been measured. -/
def trainRx (t : Nat) (copies : List (Nat × List Byte)) (skew : Nat) (delay : Option Nat) (s : State) : State :=
  let ok := copies.filter (fun c => lcpIs 0 c.2)
  match ok with
  | [] => s
  | (_, c) :: _ =>
    if traceUp s t then traceFail t 8 1 s
    else if traceState s t ≠ 2 then s
    else
      let peer := rd c 3 3 % 2 ^ 18
      let kind := fld s Fld.TRACE_CFG_KIND t
      let w := traceWidth s t
      let b1 := rd c 1 1
      let x := traceOf s t
      let s := setFld Fld.TRACE_PEER_PEER t peer s
      if b1 / 8 % 16 ≠ w ∨ rd c 2 1 % 8 ≠ fld s Fld.TRACE_CFG_RATE t ∨ rd c 2 1 / 8 % 4 ≠ kind then trainHold t 2 s
      else if x.want ≠ 0xFFFFFFFF ∧ x.want ≠ peer then trainHold t 3 s
      else
        let s := match delay with
          | some d => if kind = 1 then s else setFld Fld.TRACE_LATENCY_NS t d s
          | none => s
        let lat := fld s Fld.TRACE_LATENCY_NS t
        if kind ≠ 1 ∧ 150 < lat then trainHold t 2 s
        else
          let maps := forEach ok (fun p l => (p.1, rd p.2 1 1 % 8) :: l.filter (fun m => decide (m.1 ≠ p.1))) x.mapping
          let whole := decide ((maps.map Prod.snd).Nodup) && (traceLanes s t).all (fun l => maps.any (fun m => decide (m.1 = l)))
          let ready := if 128 ≤ b1 then x.ready + 1 else 0
          let x := forEach (List.range 4) (fun vc x => setVc vc { vcOf x vc with limit := 8 * rd c (6 + vc) 1 } x) x
          let checked := whole && decide (skew ≤ 32) && (decide (kind = 1) || decide (0 < lat))
          let s := forEach maps (fun m s => setFld Fld.LANE_STATUS_TRACE_LANE m.1 m.2 s) s
          let s := setTrace t { x with mapping := maps, checked := checked, ready := ready } s
          if checked ∧ 2 ≤ ready then setTraceState t 3 s else s

def execTrain (trace : Fin 64) (copies : List (Nat × List Byte)) (skew : Nat) (delay : Option Nat) (s : State) : Res :=
  .next (trainRx trace.val copies skew delay s)

/-! ### ACK, NAK, CREDIT, timers (R339–R341) -/

/-- How many of the unacknowledged packets, oldest first, precede sequence number `seq`; none if `seq` is not among the open numbers. -/
def ackedBy (x : TraceSt) (seq : Nat) : Option Nat :=
  let n := x.unacked.length
  let first := (x.txSeq + 4096 - n) % 4096
  let d := (seq + 4096 - first) % 4096
  if d ≤ n then some d else none

/-- Take the first `n` packets out of the replay buffer as acknowledged. -/
def ackTake (n : Nat) (x : TraceSt) : TraceSt :=
  let x' := { x with unacked := x.unacked.drop n }
  forEach (x.unacked.take n) (fun p x =>
    let v := vcOf x p.pkt.vc
    setVc p.pkt.vc { v with acked := v.acked + creditsOf p.pkt.payload.length } x) x'

/-- The first `n` packets are acknowledged, time messages among them. -/
def ackDone (t n : Nat) (s : State) : State :=
  let x := traceOf s t
  forEach (x.unacked.take n) (fun p s => timeAcked t p.pkt p.at_ s) (setTrace t (ackTake n x) s)

/-- The audit of an ACK or NAK: its ACCEPTED counts against ACKED (R345). -/
def ackAudit (t : Nat) (c : List Byte) (s : State) : State :=
  forEach (List.range 4) (fun vc s =>
    if rd c (4 + 2 * vc) 2 = (vcOf (traceOf s t) vc).acked % 65536 then s else auditFail t vc s) s

/-- Replay from the oldest unacknowledged packet, or fail the trace if it would be its fifth replay, or 20 µs of replay-timer time have run (R341). -/
def startReplay (t : Nat) (s : State) : State :=
  let x := traceOf s t
  match x.unacked with
  | [] => s
  | p :: _ =>
    if 4 ≤ p.replays ∨ 20000 ≤ p.waited then traceFail t 5 1 s
    else setTrace t { x with unacked := x.unacked.map (fun q => { q with due := true }) } s

/-- ACK: everything up to the last packet accepted is acknowledged. -/
def ackRx (t : Nat) (c : List Byte) (s : State) : State :=
  let x := traceOf s t
  if ¬ traceUp s t ∨ ¬ lcpIs 1 c then s
  else match ackedBy x ((rd c 2 2 + 1) % 4096) with
    | none => s
    | some n => ackAudit t c (ackDone t n s)

def execAck (trace : Fin 64) (lcp : List Byte) (s : State) : Res := .next (ackRx trace.val lcp s)

/-- NAK: everything before the named number is acknowledged, and the sender replays from it. -/
def nakRx (t : Nat) (c : List Byte) (s : State) : State :=
  let x := traceOf s t
  if ¬ traceUp s t ∨ ¬ lcpIs 2 c then s
  else match ackedBy x (rd c 2 2 % 4096) with
    | none => s
    | some n => startReplay t (ackAudit t c (ackDone t n s))

def execNak (trace : Fin 64) (lcp : List Byte) (s : State) : Res := .next (nakRx trace.val lcp s)

/-- CREDIT: LIMIT becomes the ALLOC received, of which the low 16 bits travel. -/
def creditRx (t : Nat) (c : List Byte) (s : State) : State :=
  if ¬ traceUp s t ∨ ¬ lcpIs 3 c then s
  else
    let x := traceOf s t
    setTrace t (forEach (List.range 4) (fun vc x =>
      let v := vcOf x vc
      let d := (rd c (4 + 2 * vc) 2 + 65536 - v.limit % 65536) % 65536
      if d < 32768 then setVc vc { v with limit := v.limit + d } x else x) x) s

def execCredit (trace : Fin 64) (lcp : List Byte) (s : State) : Res := .next (creditRx trace.val lcp s)

/-- Whether the replay timer and its 20 µs count are frozen (R341). -/
def frozen (x : TraceSt) (time : Nat) : Bool := x.rxPend.isSome || x.txPend.isSome || decide (time < x.thaw)

/-- REPLAY_TIMER: the 5 µs have run without progress of ACKED. DEDUCED: log entry 51. -/
def replayTimer (t time : Nat) (s : State) : State :=
  let x := traceOf s t
  if ¬ traceUp s t ∨ frozen x time then s
  else
    let un := match x.unacked with
      | [] => []
      | p :: rest => (if 0 < p.replays then { p with waited := p.waited + 5000 } else p) :: rest
    startReplay t (setTrace t { x with unacked := un } s)

def execReplayTimer (trace : Fin 64) (t : Nat) (s : State) : Res := .next (replayTimer trace.val t s)

/-- ACK_TIMER: an ACK is due within 1 µs of an acceptance. -/
def ackTimer (t : Nat) (s : State) : State :=
  let x := traceOf s t
  if ¬ traceUp s t ∨ x.accepts = 0 then s else lcpDue t .ack (setTrace t { x with accepts := 0 } s)

def execAckTimer (trace : Fin 64) (s : State) : Res := .next (ackTimer trace.val s)

/-! ### Sending (R338–R342) -/

/-- The bytes of a data packet (Table 13.6). -/
def dataBytes (p : LinkPkt) (seq : Nat) : List Byte :=
  let b := beBytes 1 p.vc ++ [0] ++ beBytes 2 seq ++ beBytes 4 p.dst ++ beBytes 4 p.src ++ beBytes 2 p.payload.length ++ [0, 0] ++ p.payload
  b ++ beBytes 4 (crc32c b)

/-- Trace packets of the command layer that no route takes are discarded (R355). DEDUCED: log entry 55. -/
def dropUnroutable (s : State) : State :=
  let lost (p : TxPacket) : Bool := match p.source with
    | .trace ep => (routeTrace s ep).isNone
    | _ => false
  forEach (s.txq.filter lost) (fun _ s => routeDrop s) { s with txq := s.txq.filter (fun p => !lost p) }

/-- The oldest own command packet that leaves on a trace. -/
def ownCommand (s : State) (t : Nat) : Option TxPacket :=
  s.txq.find? (fun p => match p.source with
    | .trace ep => decide (routeTrace s ep = some t)
    | _ => false)

/-- A packet of the command layer as a data packet on VC 0 (R273). -/
def commandPkt (s : State) (p : TxPacket) : LinkPkt :=
  ⟨0, (match p.source with
    | .trace ep => ep
    | _ => 0), ownEndpoint s, p.bytes, none⟩

/-- What the sender would send next on a virtual channel: the oldest packet of the trace's queue, else an own command packet. -/
def nextOn (s : State) (t vc : Nat) : Option (LinkPkt × Option TxPacket) :=
  match (traceOf s t).queue.find? (fun p => decide (p.vc = vc)) with
  | some p => some (p, none)
  | none => if vc = 0 then (ownCommand s t).map (fun p => (commandPkt s p, some p)) else none

/-- Whether credits and the replay buffer let a packet start (R339, R340). -/
def mayStart (x : TraceSt) (p : LinkPkt) : Bool :=
  let v := vcOf x p.vc
  decide (v.used + creditsOf p.payload.length ≤ v.limit ∧ x.unacked.length < 2047 ∧
    (x.unacked.map (fun q => 20 + q.pkt.payload.length)).foldl (· + ·) 0 + 20 + p.payload.length ≤ 16384)

/-- The eligible new packet of highest precedence: VC 2, 0, 3, 1 (Table 13.7). -/
def nextNew (s : State) (t : Nat) : Option (LinkPkt × Option TxPacket) :=
  [2, 0, 3, 1].findSome? (fun vc => (nextOn s t vc).bind (fun p => if mayStart (traceOf s t) p.1 then some p else none))

/-- Send a new packet: it enters the replay buffer; a forwarded one frees the credits that it held. -/
def sendNew (t : Nat) (p : LinkPkt) (own : Option TxPacket) (poison : Bool) (time : Nat) (s : State) : State :=
  let s := match own with
    | some q => { s with txq := s.txq.erase q }
    | none => let x := traceOf s t
      setTrace t { x with queue := x.queue.erase p } s
  let x := traceOf s t
  let v := vcOf x p.vc
  let x := setVc p.vc { v with used := v.used + creditsOf p.payload.length } x
  let s := setTrace t { x with txSeq := (x.txSeq + 1) % 4096, unacked := x.unacked ++ [⟨x.txSeq, p, poison, false, 0, 0, time⟩] } s
  let s := timeOut t p time (sendOut (.data t poison (dataBytes p x.txSeq)) s)
  match p.origin with
  | some (o, e) => freeCredits o e p.vc (creditsOf p.payload.length) s
  | none => s

/-- Send the oldest packet that waits for its replay. A replayed packet is read from the replay buffer, so it is never poisoned anew. -/
def sendReplay (t : Nat) (p : SentPkt) (time : Nat) (s : State) : State :=
  let x := traceOf s t
  let s := setTrace t { x with unacked := updWhere (fun q => decide (q.seq = p.seq)) (fun q => { q with due := false, replays := q.replays + 1, at_ := time }) x.unacked } s
  countFld Fld.TRACE_RETRY_REPLAYS t (timeOut t p.pkt time (sendOut (.data t p.poison (dataBytes p.pkt p.seq)) s))

/-- PACKET_TX: the next of an LCP, a replay, a new packet (R338). `poison`: the source of a new packet answers with an error while it is being sent (R342). -/
def packetTx (t : Nat) (poison : Bool) (time : Nat) (s : State) : State :=
  let s := dropUnroutable s
  let x := traceOf s t
  if traceState s t = 2 then sendOut (.train t ((List.range (traceWidth s t)).map (fun i => lcpSeal (trainBody s t i)))) s
  else if traceState s t < 3 then s
  else match x.lcps with
    | l :: rest => sendOut (.lcp t (lcpSeal (lcpBody x l))) (setTrace t { x with lcps := rest } s)
    | [] =>
      if traceState s t = 3 then s
      else match x.unacked.find? (fun p => p.due) with
        | some p => sendReplay t p time s
        | none => match nextNew s t with
          | some (p, own) => sendNew t p own poison time s
          | none => s

/-! ### Receiving (R340, R342, R355, R356) -/

/-- A received data packet is well formed and passes its CRC. -/
def dataOk (bs : List Byte) : Bool :=
  let n := rd bs 12 2
  decide (20 ≤ bs.length ∧ rd bs 0 1 / 16 = 0 ∧ bs.length = 20 + n ∧ n ≤ vcMax (rd bs 0 1 % 4) ∧ crc32c (bs.take (16 + n)) = rd bs (16 + n) 4)

/-- NAK with the expected SEQ, once until that packet is accepted. -/
def nakDue (t : Nat) (s : State) : State :=
  let x := traceOf s t
  if x.nakSent then s
  else countFld Fld.TRACE_RETRY_NAKS t (lcpDue t .nak (setTrace t { x with nakSent := true } s))

/-- The management records of a VC 3 payload (R356). -/
def takeRecords (trace : Option Nat) (src : Nat) : Nat → List Byte → State → State
  | 0, _, s => s
  | n + 1, b, s =>
    if b.length < 4 then s
    else
      let len := rd b 2 2
      let kind := rd b 0 1
      let s := if rd b 1 1 = 1 ∧ 1 ≤ kind ∧ kind ≤ 5 then { s with mgmt := s.mgmt ++ [⟨trace, src, kind, (b.drop 4).take len⟩] }
        else countFld Fld.HERD_ROUTE_DROP_RECORDS 0 s
      takeRecords trace src n (b.drop (4 + len)) s

/-- Whether every byte of a range lies in a host region (R287). -/
def inHostRegion (s : State) (a n : Nat) : Bool := s.regions.any (fun r => decide (r.base ≤ a ∧ a + n ≤ r.base + r.len))

/-- Deliver a bulk payload (Table 13.7); on the mirror trace ADDR [63:60] selects its use (R370). -/
def bulkRx (t : Nat) (b : List Byte) (s : State) : State :=
  let use := rd b 0 8 / 2 ^ 60
  let a := rd b 0 8 % 2 ^ 60
  let data := b.drop 8
  if use = 0 then
    if inHostRegion s a data.length then xbWrite masterLink a data s else countFld Fld.TRACE_MARKER_ERR_DISCARD t s
  else if mirrorTrace s = some t ∧ 8 ≤ use ∧ use ≤ 10 then { s with acqq := s.acqq ++ [⟨use, a, data⟩] }
  else s

/-- Deliver a packet for this endpoint. A command packet holds its credits until its admission; a reply waits for COMMAND_REPLY_RX. DEDUCED: log entry 52. -/
def deliver (t time : Nat) (p : LinkPkt) (s : State) : State :=
  let x := traceOf s t
  let c := creditsOf p.payload.length
  if p.vc = 0 then
    if testBit (rd p.payload 1 1) 0 then freeCredits t x.epoch 0 c { s with replies := s.replies ++ [(p.src, p.payload)] }
    else { s with rxq := s.rxq ++ [⟨.trace p.src, ⟨t, none, x.epoch⟩, p.payload⟩] }
  else if p.vc = 1 then freeCredits t x.epoch 1 c (bulkRx t p.payload s)
  else if p.vc = 2 then freeCredits t x.epoch 2 c { s with timeq := s.timeq ++ [⟨t, p.payload, time⟩] }
  else freeCredits t x.epoch p.vc c (takeRecords (some t) p.src p.payload.length p.payload s)

/-- Route an accepted packet (R355). -/
def routePacket (t time : Nat) (p : LinkPkt) (s : State) : State :=
  let x := traceOf s t
  let drop := routeDrop (freeCredits t x.epoch p.vc (creditsOf p.payload.length) s)
  if p.vc = 2 ∨ p.dst = ownEndpoint s then deliver t time p s
  else match routeTrace s p.dst with
    | none => drop
    | some o => if o = t then drop else linkPut o { p with origin := some (t, x.epoch) } s

/-- A duplicate of an accepted time message discards its measurement (R396): the message that still waits, a Sync or a Pdelay_Resp that waits for its
follow-up. DEDUCED: log entry 61. -/
def dupTime (t : Nat) (payload : List Byte) (s : State) : State :=
  let d := rd payload 1 1 % 2
  let m := payload.drop 4
  let x := portOfDom s d t
  let s := { s with timeq := s.timeq.filter (fun q => !(decide (q.port = t) && decide (q.bytes = payload))) }
  if rd payload 0 1 ≠ 1 then s
  else if ptpType m = 0 ∧ x.sync.map Prod.fst = some (ptpSeq m) then setPtpPort d t { x with sync := none } s
  else if ptpType m = 3 ∧ x.resp.map Prod.fst = some (ptpSeq m) then setPtpPort d t { x with resp := none, req := none } s
  else s

/-- DATA_PACKET_RX: the bytes of a packet and whether it ended with K23.7. DEDUCED: log entry 52. -/
def dataRx (t : Nat) (bs : List Byte) (poison : Bool) (time : Nat) (s : State) : State :=
  if ¬ traceUp s t then s
  else if ¬ poison ∧ ¬ dataOk bs then nakDue t s
  else
    let x := traceOf s t
    let seq := rd bs 2 2 % 4096
    let d := (x.rxSeq + 4096 - seq) % 4096
    if 0 < d ∧ d ≤ 2047 then
      lcpDue t .ack (if ¬ poison ∧ rd bs 0 1 % 4 = 2 then dupTime t ((bs.drop 16).take (rd bs 12 2)) s else s)
    else if d ≠ 0 then nakDue t s
    else
      let vc := rd bs 0 1 % 4
      let c := creditsOf (rd bs 12 2)
      let v := vcOf x vc
      let x := setVc vc { v with accepted := v.accepted + c, held := v.held + c } x
      let full := decide (8 ≤ x.accepts + 1)
      let s := setTrace t { x with rxSeq := (x.rxSeq + 1) % 4096, nakSent := false, accepts := if full then 0 else x.accepts + 1 } s
      let s := if full then lcpDue t .ack s else s
      if poison then countFld Fld.TRACE_MARKER_ERR_POISON t (freeCredits t x.epoch vc c s)
      else
        let p : LinkPkt := ⟨vc, rd bs 4 4 % 2 ^ 18, rd bs 8 4 % 2 ^ 18, (bs.drop 16).take (rd bs 12 2), none⟩
        routePacket t time p s

def execDataPacketRx (trace : Fin 64) (bytes : List Byte) (poison : Bool) (t : Nat) (s : State) : Res :=
  .next (dataRx trace.val bytes poison t s)

/-! ### TRACE_UP's timeout and slips -/

/-- TRACE_UP_TIMEOUT (R329): the job ends, the trace keeps trying. DEDUCED: log entry 48. -/
def traceUpTimeout (t : Nat) (s : State) : State :=
  let x := traceOf s t
  match x.job with
  | none => s
  | some h =>
    let s := if traceState s t = 1 ∧ ¬ allLocked s t then setFld Fld.TRACE_STATE_LAST_FAIL t 1 s else s
    setTrace t { x with job := none } (endJob h 2 0x61 (fld s Fld.TRACE_STATE_LAST_FAIL t) 0 s)

def execTraceUpTimeout (trace : Fin 64) (s : State) : Res := .next (traceUpTimeout trace.val s)

/-- ELASTIC_SLIP (R337): the buffer of a herd trace slips, within its region or not. -/
def elasticSlip (t : Nat) (inRegion : Bool) (s : State) : State :=
  if ¬ traceUp s t ∨ fld s Fld.TRACE_CFG_KIND t ≠ 1 then s
  else
    let s := setBit Fld.TRACE_FLAGS_SLIP t (setBit Fld.LINK_GSTATUS_SLIP_STICKY 0 (countFld Fld.TRACE_REGION_ERR_SLIPS t s))
    if inRegion then setTrace t { traceOf s t with slip := true } s else s

def execElasticSlip (trace : Fin 64) (inRegion : Bool) (s : State) : Res := .next (elasticSlip trace.val inRegion s)

end Sys2Proof.Machine
end

