-- ==== Sys2Proof/Machine/Region.lean ====
section
/-! DEFINITION. The reserved region (R332–R337, R363–R366, R371, R372): what a trace sends in a link frame, the digest of a pair, what a receiver lands,
replaces and counts. -/

namespace Sys2Proof.Machine

/-! ### Digest (R371, R372) -/

/-- One byte through the CRC-64 register. -/
def crc64Byte (a : Nat) (b : Byte) : Nat :=
  (List.range 8).foldl (fun a _ => if 2 ^ 63 ≤ a then (2 * a % 2 ^ 64) ^^^ 0x42F0E1EBA9EA3693 else 2 * a) (a ^^^ (b.toNat * 2 ^ 56))

def crc64 (bs : List Byte) : Nat := bs.foldl crc64Byte 0

/-- The digest term of an index and a value. -/
def digestTerm (index value : Nat) : Nat := crc64 (beBytes 4 index ++ beBytes 8 value)

/-- The digest index of an output destination. -/
def digestIndex : OutDest → Nat
  | .port p slot => 32 * p + slot
  | .queue q => 1024 + q
  | .amp n => 5120 + n

/-- The destinations of the output tables of frame `b`, each with the sink it passes on for frame `b`. -/
def liveDests (s : State) (b : Nat) : List (OutDest × Nat) :=
  let outs := outsAt s b
  ((outs.map (fun x => x.2.dest)).eraseDups).map (fun d =>
    (d, sinkFor (outs.filterMap (fun x => if x.2.dest = d then some x.2.sink else none)) (routesAt s b)))

/-- The word that a destination has for frame `b`, if it has landed. -/
def landedWord (s : State) (b : Nat) (d : OutDest × Nat) : Option S48 :=
  ((outOf s (destKey d.1)).words.find? (fun w => decide (w.frame = b ∧ w.sink = d.2))).map OutWord.val

/-- The digest record of compute frame `b` (Table 14.4): FILLED when an output has no word yet. DEDUCED: log entry 58. -/
def digestOf (s : State) (b : Nat) : DigestRec :=
  let ds := liveDests s b
  let ws := ds.map (fun d => (digestIndex d.1, landedWord s b d))
  let sweep := (sweepWindow s b).filterMap (fun i => (s.pair.captured.find? (fun c => decide (c.1 = b ∧ c.2.1 = i))).map Prod.snd)
  let terms := ws.filterMap (fun w => w.2.map (fun v => digestTerm w.1 (wrapInt 64 v.toInt))) ++
    sweep.map (fun c => digestTerm (2 ^ 31 + c.1) c.2)
  let st := fld s Fld.SHADOW_STATUS_STATE
  { frame := b, digest := (terms.foldl (· + ·) 0) % 2 ^ 64,
    flags := bnat (ws.any (fun w => w.2.isNone)) + 2 * bnat (decide (st = 2) && !s.pair.copied) + 4 * bnat (decide (st = 1)), sweep := sweep }

/-- The bytes of a digest record and its sweep entries. -/
def digestBytes (d : DigestRec) : List Byte :=
  beBytes 8 d.frame ++ beBytes 8 d.digest ++ beBytes 2 d.flags ++ beBytes 2 d.sweep.length ++ [0, 0, 0, 0] ++
    d.sweep.flatMap (fun c => beBytes 4 c.1 ++ beBytes 8 c.2)

/-- A received digest record. -/
def readDigest (b : List Byte) : DigestRec :=
  { frame := rd b 0 8, digest := rd b 8 8, flags := rd b 16 2,
    sweep := (List.range (rd b 18 2)).map (fun i => (rd b (24 + 12 * i) 4, rd b (28 + 12 * i) 8)) }

/-! ### Sending (R332, R334) -/

/-- A sample as the region carries it. -/
def sampleBytes (sfmt : Nat) (v : S48) : List Byte :=
  match sfmt with
  | 0 => beBytes 6 v.toNat
  | 1 => beBytes 3 (outWordOf false v).1
  | _ => beBytes 4 (outWordOf true v).1

/-- A sample that the region carried. -/
def sampleOf (sfmt : Nat) (b : List Byte) : S48 :=
  match sfmt with
  | 0 => BitVec.ofNat 48 (beNat b)
  | 1 => wordS48 false (beNat b)
  | _ => wordS48 true (beNat b)

/-- A section with its CRC-32C; an empty one is omitted. -/
def sectionSeal (b : List Byte) : List Byte := if b.isEmpty then [] else b ++ beBytes 4 (crc32c b)

/-- The output-table entry whose word queue channel `q` passes on for frame `b`. -/
def queueEntry (s : State) (q b : Nat) : Option OutEntry :=
  let es := ((outsAt s b).map Prod.snd).filter (fun e => decide (e.dest = .queue q))
  es.find? (fun e => decide (e.sink = sinkFor (es.map OutEntry.sink) (routesAt s b)))

/-- The sample that TX entry `e` of a team or mirror trace sends for frame `b`: the landed word, else its fill, counted SLOT_MISS; a write of the
frame that lands later is discarded (R334, R336). -/
def teamSlot (e b : Nat) (s : State) : State × S48 :=
  let q := fld s Fld.TX_SLOT_QCH e
  let k := 0x1000 + q
  let c := outOf s k
  match queueEntry s q b with
  | none => (s, c.present)
  | some o =>
    match c.words.find? (fun w => decide (w.frame = b ∧ w.sink = o.sink)) with
    | some w => (ledgerAdd o.stream 1 1 none (setOut k { passWord o.sink w.val c with closed := b + 1 } s), w.val)
    | none =>
      let c := passFill o.sink (fbit s Fld.TX_SLOT_FILL e) c
      (ledgerAdd o.stream 1 0 (some (causeSlotMiss, 1)) (setOut k { c with closed := b + 1 } s), c.present)

/-- The sample of a TX entry: on a herd trace the word that boundary b + 2 settled (R334). -/
def slotSample (t e b : Nat) (s : State) : State × S48 :=
  if fld s Fld.TRACE_CFG_KIND t = 1 then (s, (outOf s (0x1000 + fld s Fld.TX_SLOT_QCH e)).present) else teamSlot e b s

/-- The samples of a list of TX entries in order. -/
def sectionSamples (t b : Nat) : List Nat → State → State × List S48
  | [], s => (s, [])
  | e :: es, s =>
    let r := slotSample t e b s
    let r' := sectionSamples t b es r.1
    (r'.1, r.2 :: r'.2)

/-- Whether the engine sends regions on a trace: in RUN, SHADOW and SAFE (Table 1.6, R442); a standby, and an old main that has given up its outputs, only on
the mirror trace (R368, R376). -/
def sendsRegion (s : State) (t : Nat) : Bool :=
  arrayRuns s && (decide (mirrorTrace s = some t) || (decide (s.mode ≠ .shadow) && !s.pair.displaced))

/-- REGION_TX: the region of the present link frame. -/
def regionTx (t : Nat) (s : State) : State :=
  let x := traceOf s t
  let lag := traceLag s t
  if ¬ traceUp s t ∨ ¬ sendsRegion s t ∨ x.txFrame = some s.frame ∨ s.frame < lag then s
  else
    let b := s.frame - lag
    let s := setTrace t { x with txFrame := some s.frame } s
    if mirrorTrace s = some t then
      let d := digestOf s b
      let s := { s with pair := { s.pair with own := (d :: s.pair.own).take 8 } }
      sendOut (.region t (sectionSeal (digestBytes d)) []) s
    else
      let sfmt := fld s Fld.TRACE_CFG_SFMT t
      let n := sectionSamples t b (txEntries s t false) s
      let d := sectionSamples t b (txEntries s t true) n.1
      if n.2.isEmpty ∧ d.2.isEmpty then s
      else sendOut (.region t (sectionSeal (n.2.flatMap (sampleBytes sfmt))) (sectionSeal (d.2.flatMap (sampleBytes sfmt)))) d.1

def execRegionTx (trace : Fin 64) (s : State) : Res := .next (regionTx trace.val s)

/-! ### RX slots, pairs (R335, R353, R365) -/

/-- The RX entries with EN = 1, by rising index. -/
def enabledRx (s : State) : List Nat :=
  (s.regs.filter (fun r => decide (0x26000 ≤ r.1 ∧ r.1 < 0x28000) && testBit r.2.toNat 27)).map (fun r => (r.1 - 0x26000) / 4)

/-- The enabled entries that name the ring of entry `i`. -/
def rxMates (s : State) (i : Nat) : List Nat :=
  (enabledRx s).filter (fun j => decide (fld s Fld.RX_SLOT_RING_BASE j = fld s Fld.RX_SLOT_RING_BASE i))

def rxCellOf (s : State) (i : Nat) : RxCell := smapGet (fun _ => rxEmpty) s.rxCells i
def setRxCell (i : Nat) (c : RxCell) (s : State) : State := { s with rxCells := smapSet (fun _ => rxEmpty) i c s.rxCells }

/-- The stream of an RX entry (R143). -/
def rxStream (s : State) (i : Nat) : Option Nat := (s.liveRx.find? (fun p => decide (p.1 = i))).map Prod.snd

/-- Write a sample of frame `f` into the ring of entry `i`. -/
def rxRing (i f : Nat) (v : S48) (s : State) : State × Bool :=
  ringWrite masterLink (fld s Fld.RX_SLOT_RING_BASE i) (fld s Fld.RX_SLOT_LOG2_LEN i) false f v 0 s

/-- Whether an entry is a third or further one of its ring, which lands nothing (R353). -/
def rxExcess (s : State) (i : Nat) : Bool := decide (2 ≤ ((rxMates s i).findIdx? (fun j => decide (j = i))).getD 0)

/-- A sample of frame `f` has passed for entry `i`: the first of a pair that passes lands (R365). -/
def rxLand (i f : Nat) (v : S48) (s : State) : State :=
  if rxExcess s i then ledgerAdd (rxStream s i) 1 0 (some (causeLinkUncorr, 1)) s
  else
    let k := (rxMates s i).headD i
    let c := rxCellOf s k
    if f < c.next then s
    else
      let r := rxRing i f v s
      ledgerAdd (rxStream s k) 1 (bnat r.2) none (setRxCell k ⟨v, 0, f + 1, []⟩ r.1)

/-- Replace the sample of frame `f` in the ring of slot or pair `k` (R42, R335, R365). DEDUCED: log entry 53. -/
def rxReplace (k f cause : Nat) (paired : Bool) (s : State) : State :=
  let c := rxCellOf s k
  let gap := paired && decide (c.run < 2)
  let v := if gap then c.last else fillOf (fbit s Fld.RX_SLOT_FILL k) ⟨c.last, c.run⟩
  let r := rxRing k f v s
  ledgerAdd (rxStream s k) 1 0 (some (if gap then causeSwitchover else cause, 1)) (setRxCell k ⟨c.last, c.run + 1, f + 1, []⟩ r.1)

/-- The sample of frame `f` has not passed for entry `i`: a pair is replaced only when neither passes. -/
def rxFail (i f cause : Nat) (s : State) : State :=
  if rxExcess s i then ledgerAdd (rxStream s i) 1 0 (some (causeLinkUncorr, 1)) s
  else
    let ms := rxMates s i
    let k := ms.headD i
    let c := rxCellOf s k
    if f < c.next then s
    else if ms.length < 2 then rxReplace k f cause false s
    else if c.failed.any (fun p => decide (p.1 ≠ i ∧ p.2 = f)) then rxReplace k f cause true s
    else setRxCell k { c with failed := (i, f) :: c.failed.filter (fun p => decide (¬ (p.1 = i ∧ p.2 = f))) } s

/-! ### Receiving -/

/-- The RX entries of a trace, normal or DUP, in list order. -/
def rxEntries (s : State) (t : Nat) (dup : Bool) : List Nat :=
  ((List.range (fld s Fld.TRACE_RX_SLOTS_COUNT t)).map (fun i => fld s Fld.TRACE_RX_SLOTS_FIRST t + i)).filter
    (fun e => fbit s Fld.RX_SLOT_DUP e == dup)

/-- The samples of a section that passes its CRC. -/
def sectionPass (sfmt n : Nat) (b : List Byte) : Option (List S48) :=
  let w := sampleWidth sfmt
  if 0 < n ∧ b.length = n * w + 4 ∧ crc32c (b.take (n * w)) = rd b (n * w) 4 then
    some ((List.range n).map (fun i => sampleOf sfmt ((b.drop (i * w)).take w)))
  else none

/-- Land a section's samples, or replace them with a cause; entries with EN = 0 take part in the layout only. -/
def rxSection (f cause : Nat) (es : List Nat) (vs : Option (List S48)) (s : State) : State :=
  match vs with
  | some l => forEach (es.zip l) (fun p s => if fbit s Fld.RX_SLOT_EN p.1 then rxLand p.1 f p.2 s else s) s
  | none => forEach es (fun e s => if fbit s Fld.RX_SLOT_EN e then rxFail e f cause s else s) s

/-- Whether one of the first `n` lanes of the receive set was lost or excluded in the present link frame. -/
def lanesLost (s : State) (t n : Nat) : Bool :=
  let x := traceOf s t
  ((bitList 8 x.rxSet).take n).any (fun i => testBit x.lossLanes i || fbit s Fld.LANE_STATUS_EXCLUDED (laneOf x t i))

/-- The cause with which a section's samples are replaced (R335). -/
def sectionCause (s : State) (t lanes : Nat) : Nat :=
  if lanesLost s t lanes then causeLaneLoss else if (traceOf s t).slip then causeFillerRange else causeLinkUncorr

/-- Whether the peer's stream list, from its FRAME onward, agrees with the live RX tables (R363). DEDUCED: log entry 54. -/
def streamsAgree (s : State) (t k : Nat) : Bool :=
  match (traceOf s t).streams with
  | none => true
  | some (f, l) =>
    if k < f then true
    else
      let total (d : Bool) : Nat := ((l.filter (fun e => e.2.2 == d)).map (fun e => e.2.1)).foldl (· + ·) 0
      decide (total false = (rxEntries s t false).length ∧ total true = (rxEntries s t true).length)

/-- Replace every enabled RX slot of a trace for compute frame `f`. DEDUCED: log entry 53. -/
def replaceTrace (t f cause : Nat) (s : State) : State :=
  rxSection f cause (rxEntries s t true) none (rxSection f cause (rxEntries s t false) none s)

/-- Whether the samples of a trace cannot be used: a bridge whose index differs (R366), a stream list that disagrees (R363). -/
def traceUnusable (s : State) (t k : Nat) : Bool := (isBridge s t && decide (k ≠ s.frame)) || !streamsAgree s t k

/-- A digest record of the partner (R371, R373). -/
def mirrorRx (b : List Byte) (s : State) : State :=
  if b.length < 28 ∨ crc32c (b.take (b.length - 4)) ≠ rd b (b.length - 4) 4 then s
  else { s with pair := { s.pair with peer := (readDigest b :: s.pair.peer).take 8, lastPeer := s.frame } }

/-- Note the landing margin of a herd region against the release of its compute frame + P (R364). -/
def noteMargin (f time : Nat) (s : State) : State :=
  let due := s.tick + (f + fld s Fld.HERD_CTRL_HERD_PRES - s.frame) * 10 ^ 9 / fsHz s.fs
  let m := min 0xFFFF (due - time)
  let s := { s with margins := ((f, m) :: s.margins).filter (fun p => decide (f < p.1 + 1024)) }
  setFld Fld.HERD_MARGIN_MARGIN 0 (s.margins.foldl (fun a p => min a p.2) 0xFFFF) s

/-- REGION_RX: the region of the link frame of the last accepted marker: the bytes of the normal section and of the two DUP copies as they arrived. -/
def regionRx (t : Nat) (normal copyA copyB : List Byte) (time : Nat) (s : State) : State :=
  let x := traceOf s t
  match x.marker with
  | none => s
  | some k =>
    if ¬ traceUp s t ∨ x.rxFrame = some k ∨ k < traceLag s t then s
    else
      let s := setTrace t { x with rxFrame := some k } s
      if mirrorTrace s = some t then mirrorRx normal s
      else
        let f := k - traceLag s t
        let sfmt := fld s Fld.TRACE_CFG_SFMT t
        let ns := rxEntries s t false
        let ds := rxEntries s t true
        if traceUnusable s t k then
          let s := if streamsAgree s t k then s else setBit Fld.HERD_STATUS_PRES_MISMATCH 0 s
          replaceTrace t f causeLinkUncorr s
        else
          let vn := sectionPass sfmt ns.length normal
          let va := sectionPass sfmt ds.length copyA
          let vb := sectionPass sfmt ds.length copyB
          let w := laneCount x.rxSet
          let bad := bnat (!ns.isEmpty && vn.isNone) + bnat (!ds.isEmpty && va.isNone) + bnat (!ds.isEmpty && vb.isNone)
          let s := addFld Fld.TRACE_REGION_ERR_FAILED t bad s
          let cn := sectionCause s t w
          let cd := sectionCause s t (2 * (w / 2))
          let lost := (if vn.isNone ∧ cn = causeFillerRange then (ns.filter (fun e => fbit s Fld.RX_SLOT_EN e)).length else 0) +
            (if va.isNone ∧ vb.isNone ∧ cd = causeFillerRange then (ds.filter (fun e => fbit s Fld.RX_SLOT_EN e)).length else 0)
          let s := if 0 < lost then raise 0x74 t lost s else s
          let s := rxSection f cn ns vn s
          let s := rxSection f cd ds (va.orElse (fun _ => vb)) s
          if fld s Fld.TRACE_CFG_KIND t = 1 then noteMargin f time s else s

def execRegionRx (trace : Fin 64) (normal copyA copyB : List Byte) (t : Nat) (s : State) : Res :=
  .next (regionRx trace.val normal copyA copyB t s)

/-! ### At a boundary -/

/-- Whether an enabled entry of a trace still waits for frame `f`. -/
def rxWaits (s : State) (f e : Nat) : Bool :=
  fbit s Fld.RX_SLOT_EN e && !rxExcess s e && decide ((rxCellOf s ((rxMates s e).headD e)).next ≤ f)

/-- Whether a section of a trace has not landed for frame `f`. -/
def sectionWaits (s : State) (t f : Nat) (dup : Bool) : Bool := (rxEntries s t dup).any (rxWaits s f)

/-- Boundary `b` on a trace that receives samples (R335, R364): while it is not UP the frame whose region has just been due is replaced; on a herd
trace in UP, a section not landed by the release of its compute frame + P; on a team trace in UP, a region that did not come. DEDUCED: log entry 53. -/
def rxBoundary (t b : Nat) (s : State) : State :=
  let lag := traceLag s t
  let last := fld s Fld.TRACE_STATE_LAST_FAIL t
  if mirrorTrace s = some t ∨ fld s Fld.TRACE_RX_SLOTS_COUNT t = 0 then s
  else if ¬ traceUp s t then
    if b < lag + 1 then s else replaceTrace t (b - 1 - lag) (if last = 5 ∨ last = 9 then causeLinkUncorr else causeLaneLoss) s
  else if fld s Fld.TRACE_CFG_KIND t = 1 then
    let p := fld s Fld.HERD_CTRL_HERD_PRES
    if b < p then s
    else
      let f := b - p
      let late := bnat (sectionWaits s t f false) + bnat (sectionWaits s t f true)
      if late = 0 then s else addFld Fld.HERD_LATE_COUNT_COUNT 0 late (replaceTrace t f causeLinkUncorr s)
  else if b < 2 then s
  else if sectionWaits s t (b - 2) false ∨ sectionWaits s t (b - 2) true then
    replaceTrace t (b - 2) (sectionCause s t (laneCount (traceOf s t).rxSet)) s
  else s

/-- The traces whose RX tables name slots. -/
def rxTraces (s : State) : List Nat := (List.range 64).filter (fun t => decide (0 < fld s Fld.TRACE_RX_SLOTS_COUNT t))

end Sys2Proof.Machine
end

