-- ==== Sys2Proof/Machine/CmdGeneral.lean ====
section
/-! DEFINITION. Session and general opcodes (R252, R253, R275, R277), jobs (R259, R278) and events (R291, R292). -/

namespace Sys2Proof.Machine

/-- The state in which the oldest admitted request is taken for service: it is `r`, with opcode `op`, and the groom serves commands. -/
def taken (op : Nat) (r : Req) (s : State) : Option State :=
  match s.admitted with
  | [] => none
  | q :: rest => if q = r ∧ r.opcode = op ∧ groomServes s then some { s with admitted := rest } else none

/-! ### ECHO and IDENTIFY (R275) -/

/-- ECHO: the payload comes back (R275). DEDUCED: log entry 42. -/
def echo (r : Req) (s : State) : Service :=
  need (decide (r.payload.length ≤ 8148)) 0x21 8148 (okRep r.payload s)

def execEcho (r : Req) (s : State) : Res := .next (serve 1 r (echo r) s)

/-- The payload of the IDENTIFY reply (Table 11.1). DEDUCED: log entry 42. -/
def identifyBytes (s : State) : List Byte :=
  let part := fld s Fld.ID_PART_ID_PART
  beBytes 2 (part % 65536) ++ beBytes 1 (fld s Fld.ID_REV_ID_REV % 256) ++ beBytes 1 (part / 65536 % 256) ++
    beBytes 4 (fld s Fld.ID_UID_UID 3) ++ beBytes 4 (fld s Fld.ID_UID_UID 2) ++ beBytes 4 (fld s Fld.ID_UID_UID 1) ++
    beBytes 4 (fld s Fld.ID_UID_UID 0) ++ beBytes 4 (fld s Fld.FW_VERSION_VERSION) ++ beBytes 4 (fld s Fld.ENDPOINT_ID_ID) ++
    beBytes 1 (modeCode s.mode) ++ beBytes 1 s.fs ++ [0, 0] ++ beBytes 8 s.frame

def identify (r : Req) (s : State) : Service := shaped r 0 [] (okRep (identifyBytes s) s)

def execIdentify (r : Req) (s : State) : Res := .next (serve 4 r (identify r) s)

/-! ### Sessions (R252, R277) -/

/-- The time in ns after which an idle session closes. -/
def idleNs (s : State) : Nat := fld s Fld.CMD_SESS_SESSION_IDLE * 1000000000

/-- The session that a repeated SESSION_OPEN opened before (R252). -/
def openedBefore (r : Req) (s : State) : Option Session :=
  s.sessions.find? (fun x => decide (x.source = r.source ∧ x.hostNonce = rd r.payload 4 8 ∧ r.t < x.opened + idleNs s) && !x.used)

/-- Whether a session number may be given: 0001h–FFFFh, no session open under it in the last 60 s (R252). -/
def numberFree (s : State) (t n : Nat) : Bool :=
  decide (1 ≤ n ∧ n ≤ 0xFFFF) && s.sessions.all (fun x => decide (x.num ≠ n)) &&
    s.oldSessions.all (fun p => decide (p.1 ≠ n ∨ p.2 + 60000000000 ≤ t))

/-- The number of a new session: the one the engine chose, if it may be given. -/
def pickNumber (s : State) (t n : Nat) : Nat :=
  if numberFree s t n then n else ((List.range 0xFFFF).map (· + 1)).find? (numberFree s t) |>.getD 1

/-- SESSION_OPEN: the checks of R253 and R277, and the new session with its cached reply. DEDUCED: log entry 29. -/
def openSession (r : Req) (num nonce : Nat) (s : State) : Service :=
  let slot := pb r 0
  need (decide (slot < 8 ∨ slot = 0xFF)) 0x22 0
  (need (decide (pb r 1 ≤ 1)) 0x22 1
  (need (decide (slot = 0xFF ∨ keyOf s slot ≠ [])) 0x2C slot
  (need (decide (slot ≠ 0xFF) || !authRequired s r.source) 0x2D 0
  (need (decide (s.sessions.length < 8)) 0x18 8
  (let n := pickNumber s r.t num
   let rep : Rep := ⟨0, 0, 0, beBytes 2 n ++ [0, 0] ++ beBytes 8 nonce ++ beBytes 4 (fld s Fld.ENDPOINT_ID_ID) ++ beBytes 4 (maxRequest r.source)⟩
   let x : Session :=
     { num := n, source := r.source, via := r.via, key := if slot = 0xFF then none else some slot, nonce := nonce % 2 ^ 64,
       hostNonce := rd r.payload 4 8, s0 := r.seq, count := 0, win := [], exec := 0, gapLoss := 0, evCount := 0,
       mask := if pb r 1 = 1 then 0xFFFF else 0, opened := r.t, used := false, openReply := replyPacket s r rep }
   .ok (rep, { s with sessions := s.sessions ++ [x] }))))))

/-- SESSION_OPEN; a repeated open gets the reply of the first again, with DUPLICATE set (R252). `num` and `nonce` are the engine's choice. DEDUCED: log entry 30. -/
def sessionOpen (r : Req) (num nonce : Nat) (s : State) : State :=
  match taken 2 r s with
  | none => s
  | some s =>
    match shaped r 12 [2, 3] (okRep [] s) with
    | .error p => answer r p s
    | .ok _ =>
      match openedBefore r s with
      | some x =>
        let k := replyKey s r
        countFld Fld.CMD_DUP_COUNT_COUNT 0 (queuePacket ⟨r.source, r.via, 0, false, asDuplicate k.1 k.2 x.openReply⟩ s)
      | none =>
        match openSession r num nonce s with
        | .error p => answer r p s
        | .ok (p, s') => answer r p s'

def execSessionOpen (r : Req) (num nonce : Nat) (s : State) : Res := .next (sessionOpen r num nonce s)

/-- SESSION_CLOSE at raw time `t`: the reply goes out under the session, which then closes (R277). -/
def sessionClose (r : Req) (t : Nat) (s : State) : State :=
  match taken 3 r s with
  | none => s
  | some s =>
    match shaped r 0 [] (okRep [] s) with
    | .error p => answer r p s
    | .ok (p, s) => closeSession r.session t (answer r p s)

def execSessionClose (r : Req) (t : Nat) (s : State) : Res := .next (sessionClose r t s)

/-! ### Keys (R253, R277) -/

/-- The checks that KEY_LOAD and KEY_CLEAR share. -/
def keyChecks (r : Req) (s : State) (k : Service) : Service :=
  let slot := pb r 0
  need (decide (slot < 8)) 0x22 0
  (match r.source with
   | .spi | .pcie _ =>
     (match s.sessions.find? (fun x => decide (x.key = some slot)) with
      | some x => errRep 0x2B x.num
      | none => k)
   | _ => errRep 0x24 0)

/-- Set what a key slot holds. -/
def setKey (slot : Nat) (key : List Byte) (s : State) : State := { s with keys := smapSet (fun _ => []) slot key s.keys }

def keyLoad (r : Req) (s : State) : Service :=
  shaped r 36 [1, 2, 3] (keyChecks r s (okRep [] (setKey (pb r 0) (r.payload.drop 4) s)))

def execKeyLoad (r : Req) (s : State) : Res := .next (serve 5 r (keyLoad r) s)

def keyClear (r : Req) (s : State) : Service :=
  shaped r 4 [1, 2, 3] (keyChecks r s (okRep [] (setKey (pb r 0) [] s)))

def execKeyClear (r : Req) (s : State) : Res := .next (serve 6 r (keyClear r) s)

/-! ### Jobs (R259, R278) -/

/-- A job record as it is read: the phase of a running BREW_TAP is the state of its brew (Table 11.3). -/
def jobNow (s : State) (j : JobRec) : JobRec :=
  match j.work with
  | .tap b => if j.state = 0 then { j with phase := brewCode (brewOf s b).st } else j
  | _ => j

/-- JOB_STATUS; the record of an ended job goes when its owner has read it (R259). DEDUCED: log entry 34. -/
def jobStatus (r : Req) (s : State) : Service :=
  shaped r 4 [2, 3]
  (match jobOf s (rd r.payload 0 2) with
   | none => errRep 0x29 0
   | some j =>
     okRep (jobBytes (jobNow s j))
       (if j.state ≠ 0 ∧ j.session = r.session then { s with jobs := s.jobs.filter (fun x => decide (x.handle ≠ j.handle)) } else s))

def execJobStatus (r : Req) (s : State) : Res := .next (serve 0x100 r (jobStatus r) s)

/-- JOB_CANCEL: the job ends at its next step boundary. -/
def jobCancel (r : Req) (s : State) : Service :=
  shaped r 4 [2, 3]
  (match jobOf s (rd r.payload 0 2) with
   | none => errRep 0x29 0
   | some j =>
     need (decide (j.session = r.session)) 0x25 j.session
     (need (decide (j.state = 0)) 0x2A 0 (okRep [] (setJob { j with cancel := true } s))))

def execJobCancel (r : Req) (s : State) : Res := .next (serve 0x101 r (jobCancel r) s)

/-! ### Events (R291, R292) -/

/-- How far index `i` lies before the next record, modulo 2^32. -/
def evtAge (s : State) (i : Nat) : Nat := (fld s Fld.EVT_HEAD_HEAD + 2 ^ 32 - i) % 2 ^ 32

/-- The records held from index `i` onward, oldest first. An index at or beyond the next record has none. -/
def evtFrom (s : State) (i : Nat) : List EventRec :=
  if 2 ^ 31 ≤ evtAge s i then []
  else (s.evtLog.filter (fun e => decide (evtAge s e.index ≤ evtAge s i))).reverse

def eventRead (r : Req) (s : State) : Service :=
  let from_ := rd r.payload 0 4
  let count := rd r.payload 4 2
  shaped r 8 [6, 7]
  (need (decide (1 ≤ count ∧ count ≤ 339)) 0x22 4
  (let es := (evtFrom s from_).take (min count ((maxReply r.source - 8) / 24))
   let first := match es with
     | [] => from_
     | e :: _ => e.index
   okRep (beBytes 4 first ++ beBytes 2 es.length ++ [0, 0] ++ es.flatMap evtBytes) s))

def execEventRead (r : Req) (s : State) : Res := .next (serve 0x103 r (eventRead r) s)

def eventCfg (r : Req) (s : State) : Service :=
  shaped r 4 [2, 3]
  (match sessionOf s r.session with
   | none => okRep [] s
   | some x => okRep [] (setSession { x with mask := rd r.payload 0 2 } s))

def execEventCfg (r : Req) (s : State) : Res := .next (serve 0x104 r (eventCfg r) s)

end Sys2Proof.Machine
end

