-- ==== Sys2Proof/Machine/Transport.lean ====
section
/-! DEFINITION. The transports of the command layer (R266–R273): the SPI target's packets and status, the PCIe queue pairs, Harness-over-Ethernet,
UDP and ARP, and the requests that the engine itself sends (R262, R263). -/

namespace Sys2Proof.Machine

/-- A packet dropped before admission (Table 10.15). -/
def rxDrop (s : State) : State := countFld Fld.CMD_RX_DROP_COUNT_COUNT 0 s

/-- A packet dropped for lack of room. DEDUCED: log entry 42. -/
def rxNoRoom (s : State) : State := setBit Fld.CMD_STATUS_RX_DROP_STICKY 0 (rxDrop s)

/-- Take a received packet into the wait for admission. -/
def rxPut (p : RxPacket) (s : State) : State := { s with rxq := s.rxq ++ [p] }

/-! ### SPI (R267, R268) -/

/-- The SPI packets that wait for admission; the target has 2 receive buffers (Table 10.6). -/
def spiWaiting (s : State) : Nat := (s.rxq.filter (fun p => decide (p.source = .spi))).length

/-- WRITE_PACKET, ended by CSn high. DEDUCED: log entry 46. -/
def spiWritePacket (bytes : List Byte) (s : State) : State :=
  if ¬ groomServes s then s
  else if 2 ≤ spiWaiting s then rxNoRoom { s with spiFlags := s.spiFlags ||| 2 }
  else rxPut ⟨.spi, ⟨0, none, 0⟩, bytes⟩ s

def execSpiWritePacket (bytes : List Byte) (s : State) : Res := .next (spiWritePacket bytes s)

/-- The head of the SPI transmit queue. -/
def spiHead (s : State) : Option TxPacket := s.txq.find? (fun p => decide (p.source = .spi))

/-- SPI_IRQn is low while TX_PENDING is 1 (R267, R294). -/
def spiIrqLow (s : State) : Bool := (spiHead s).isSome

/-- READ_PACKET with `n` bytes clocked after the dummy byte: the head packet, 00h beyond its end. It leaves the queue when its last byte has
been clocked out. -/
def spiReadPacket (n : Nat) (s : State) : State :=
  if ¬ groomServes s then s
  else match spiHead s with
    | none => sendOut (.spi (List.replicate n 0)) s
    | some p =>
      let s := sendOut (.spi (p.bytes.take n ++ List.replicate (n - p.bytes.length) 0)) s
      if p.bytes.length ≤ n then { s with txq := s.txq.erase p } else s

def execSpiReadPacket (n : Nat) (s : State) : Res := .next (spiReadPacket n s)

/-- The four bytes of READ_STATUS (Table 10.9). -/
def spiStatusBytes (s : State) : List Byte :=
  let f := s.spiFlags
  let len := ((spiHead s).map (fun p => p.bytes.length)).getD 0
  beBytes 1 (bnat (decide (spiWaiting s < 2)) + 2 * bnat (spiIrqLow s) + 4 * bnat (testBit f 0) + 8 * bnat (testBit f 1) +
    16 * bnat (testBit f 2)) ++ [0] ++ beBytes 2 len

/-- READ_STATUS returns the flags and clears them. -/
def execSpiReadStatus (s : State) : Res :=
  .next (if ¬ groomServes s then s else sendOut (.spi (spiStatusBytes s)) { s with spiFlags := 0 })

/-! ### PCIe queue pairs (R270) -/

/-- A write of RQ_TAIL is the doorbell. -/
def execRqTailDoorbell (q : Fin 8) (value : Word32) (s : State) : Res := .next (setFld Fld.RQ_TAIL_TAIL q.val value.toNat s)

/-- A fetch of the entry at RQ_HEAD: packet length, reserved word, and the bytes of the packet in host memory. DEDUCED: log entry 46. -/
def requestFetch (q len reserved : Nat) (bytes : List Byte) (s : State) : State :=
  let head := fld s Fld.RQ_HEAD_HEAD q
  if ¬ groomServes s ∨ ¬ fbit s Fld.QP_CTRL_EN q ∨ head = fld s Fld.RQ_TAIL_TAIL q ∨ ¬ ringRoom s q then s
  else
    let s := setFld Fld.RQ_HEAD_HEAD q ((head + 1) % fld s Fld.RQ_SIZE_SIZE q) s
    if reserved ≠ 0 ∨ 65580 < len then
      countFld Fld.CMD_CHECK_COUNT_FORMAT 0 (setBit Fld.QP_STATUS_RING_ERR q s)
    else rxPut ⟨.pcie q, ⟨0, none, 0⟩, bytes.take len⟩ s

def execPcieRequestFetch (q : Fin 8) (len : Nat) (reserved : Word32) (bytes : List Byte) (s : State) : Res :=
  .next (requestFetch q.val len reserved.toNat bytes s)

/-- A write of QP_CTRL. -/
def qpCtrlWrite (q v : Nat) (s : State) : State :=
  setFld Fld.QP_CTRL_EN q (v % 2) (setFld Fld.QP_CTRL_MASK q (v / 2 % 2) s)

def execQpCtrlWrite (q : Fin 8) (value : Word32) (s : State) : Res := .next (qpCtrlWrite q.val value.toNat s)

/-! ### Ethernet and UDP (R271, R272) -/

/-- The Ethernet and UDP packets that wait for admission, at most 16 (Table 10.6). -/
def netWaiting (s : State) : Nat :=
  (s.rxq.filter (fun p => match p.source with
    | .eth _ | .udp _ _ => true
    | _ => false)).length

/-- Pass a packet from the network to admission. -/
def netPut (p : RxPacket) (s : State) : State := if 16 ≤ netWaiting s then rxNoRoom s else rxPut p s

/-- The command packet of a frame payload, without the padding to the minimum frame size. -/
def unpad (payload : List Byte) : List Byte :=
  let p := payload.drop 12
  if payload.length ≤ 46 ∧ 28 ≤ p.length then p.take (28 + rd p 12 4 + (if testBit (rd p 1 1) 1 then 16 else 0)) else p

/-- A Harness-over-Ethernet frame of kind 01h (R271). `unicast`: it is addressed to the port's own unicast MAC address. DEDUCED: log entry 45. -/
def hoeFrameRx (lane mac : Nat) (unicast : Bool) (vlan : Option Nat) (payload : List Byte) (s : State) : State :=
  if ¬ groomServes s ∨ ¬ fbit s Fld.NET_CTRL_HOE_EN then s
  else if payload.length < 12 ∨ rd payload 0 1 ≠ 1 ∨ rd payload 1 1 ≠ 1 then s
  else
    let dst := rd payload 4 4
    if ¬ unicast ∨ (dst ≠ 0xFFFFFFFF ∧ dst ≠ fld s Fld.ENDPOINT_ID_ID) then rxDrop s
    else netPut ⟨.eth mac, ⟨lane, vlan, rd payload 8 4⟩, unpad payload⟩ s

def execHoeFrameRx (lane : Fin 16) (mac : Nat) (unicast : Bool) (vlan : Option Nat) (payload : List Byte) (s : State) : Res :=
  .next (hoeFrameRx lane.val mac unicast vlan payload s)

/-- Whether the UDP checksum of an IPv4 datagram holds: over pseudo-header, UDP header and data; zero is not verified. -/
def udpSumOk (dgram udp : List Byte) : Bool :=
  decide (rd udp 6 2 = 0) ||
  decide (onesSum ((dgram.drop 12).take 8 ++ [0, 17] ++ beBytes 2 udp.length ++ udp) = 0xFFFF)

/-- A UDP/IPv4 datagram (R272). DEDUCED: log entry 45. -/
def udpRx (lane : Nat) (dgram : List Byte) (s : State) : State :=
  if ¬ groomServes s ∨ ¬ fbit s Fld.NET_CTRL_UDP_EN ∨ lane ≠ fld s Fld.NET_CTRL_IP_PORT then s
  else if dgram.length < 28 ∨ rd dgram 0 1 ≠ 0x45 ∨ rd dgram 9 1 ≠ 17 ∨ (rd dgram 6 2) % 0x4000 ≠ 0 ∨
    rd dgram 16 4 ≠ fld s Fld.NET_IP_ADDR_ADDR then s
  else
    let udp := (dgram.take (rd dgram 2 2)).drop 20
    if rd udp 2 2 ≠ 50024 then s
    else if udp.length ≠ rd udp 4 2 ∨ ¬ udpSumOk dgram udp then formatFail (.udp (rd dgram 12 4) (rd udp 0 2)) s
    else netPut ⟨.udp (rd dgram 12 4) (rd udp 0 2), ⟨lane, none, 0⟩, udp.drop 8⟩ s

def execUdpDatagramRx (lane : Fin 16) (dgram : List Byte) (s : State) : Res := .next (udpRx lane.val dgram s)

/-- Whether a lane carries the UDP service. -/
def ipLane (s : State) (lane : Nat) : Bool := groomServes s && fbit s Fld.NET_CTRL_UDP_EN && decide (lane = fld s Fld.NET_CTRL_IP_PORT)

/-- An ARP request: answered for NET_IP_ADDR (R272). DEDUCED: log entry 45. -/
def arpRequestRx (lane ip mac target : Nat) (s : State) : State :=
  if ipLane s lane ∧ target = fld s Fld.NET_IP_ADDR_ADDR then sendOut (.arpReply lane ip mac) s else s

def execArpRequestRx (lane : Fin 16) (ip : Word32) (mac : Nat) (target : Word32) (s : State) : Res :=
  .next (arpRequestRx lane.val ip.toNat mac target.toNat s)

/-- An ARP reply resolves a next hop: the packets that wait for it are sent. The cache holds 16 entries, the oldest giving way. -/
def arpReplyRx (lane ip mac : Nat) (s : State) : State :=
  if ¬ ipLane s lane then s
  else
    let s := { s with arp := (⟨ip, mac⟩ :: s.arp.filter (fun e => decide (e.ip ≠ ip))).take 16 }
    let mine (p : TxPacket) : Bool := match p.source with
      | .udp d _ => decide (nextHop s d = ip)
      | _ => false
    forEach (s.txq.filter mine) (udpOut mac) { s with txq := s.txq.filter (fun p => !mine p) }

/-- An ARP cache entry is 300 s old. -/
def execArpCacheExpiry (ip : Word32) (s : State) : Res := .next { s with arp := s.arp.filter (fun e => decide (e.ip ≠ ip.toNat)) }

/-- The link of the service's lane comes up: a gratuitous ARP with GARP_EN (R272). -/
def ethLinkUp (lane : Nat) (s : State) : State :=
  if ipLane s lane ∧ fbit s Fld.NET_CTRL_GARP_EN then sendOut (.garp lane (fld s Fld.NET_IP_ADDR_ADDR)) s else s

def execEthLinkUp (lane : Fin 16) (s : State) : Res := .next (ethLinkUp lane.val s)

/-! ### The engine as a sender (R262, R263) -/

/-- A waiting own request of a peer. -/
def ownReq (s : State) (ep n : Nat) : Option OwnReq := s.ownReqs.find? (fun x => decide (x.endpoint = ep ∧ x.seq = n))
def dropOwn (ep n : Nat) (s : State) : State := { s with ownReqs := s.ownReqs.filter (fun x => decide (¬ (x.endpoint = ep ∧ x.seq = n))) }

/-- The parts of team compiles that ended DONE here for a leader and have not been tapped: their brews. -/
def heldParts (s : State) (leader : Nat) : List Nat :=
  s.jobs.filterMap (fun j => match j.work with
    | .compile c => if c.leader = some leader ∧ j.state ≠ 0 ∧ (brewOf s c.brew).st = .open_ then some c.brew else none
    | _ => none)

/-- A running compile that needed an unreachable peer ends with PEER_UNREACHABLE; a member withdraws its output, of a part that had ended DONE as well (R140, R263). -/
def compileUnreachable (ep : Nat) (s : State) : State :=
  let s := forEach (heldParts s ep) withdrawOut s
  match compileRunning s with
  | none => s
  | some j =>
    match j.work with
    | .compile c => if c.leader = some ep ∨ c.members.any (fun m => decide (m.2.1 = ep)) then compileFail j c 0x31 ep s else s
    | _ => s

/-- A peer is unreachable for a request (R263): an unanswered open ends the own session and what waited for it. A lost group message is
made good by R194 and R196. -/
def peerUnreachable (x : OwnReq) (s : State) : State :=
  let s := dropOwn x.endpoint x.seq s
  if x.opcode = 2 then
    let lost := (s.ownSessions.filter (fun y => decide (y.endpoint = x.endpoint))).flatMap OwnSession.waiting
    let s := { s with ownSessions := s.ownSessions.filter (fun y => decide (y.endpoint ≠ x.endpoint)) }
    if lost.any (fun w => decide (w.1 = 0x207)) then compileUnreachable x.endpoint s else s
  else if x.opcode = 0x207 then compileUnreachable x.endpoint s
  else s

/-- CMD_RESEND: CMD_TIMEOUT has passed without a reply to own request `n` of an endpoint. -/
def cmdResend (ep n : Nat) (s : State) : State :=
  match ownReq s ep n with
  | none => s
  | some x =>
    if x.resends < fld s Fld.CMD_CTRL_CMD_RETRIES then
      sendTo ep x.bytes { s with ownReqs := updWhere (fun y => decide (y.endpoint = ep ∧ y.seq = n)) (fun y => { y with resends := y.resends + 1 }) s.ownReqs }
    else peerUnreachable x s

def execCmdResend (ep n : Nat) (s : State) : Res := .next (cmdResend ep n s)

/-- A reply that passes the checks of its extent, its check value and its header (R247, R249); the engine's own requests carry no tag, so neither do their
replies. -/
def answerOf (ep : Nat) (bs : List Byte) : Answer := ⟨ep, rd bs 2 2, rd bs 8 4, rd bs 16 2, (bs.drop 24).take (rd bs 12 4)⟩

/-- A checked reply ends the wait for its request. The reply to SESSION_OPEN opens the own session; a peer that no longer has the session gets the request
again in a new one. -/
def takeAnswer (a : Answer) (s : State) : State :=
  match ownReq s a.endpoint a.seq with
  | none => s
  | some x =>
    if x.opcode ≠ a.opcode then s
    else
      let s := dropOwn a.endpoint a.seq s
      if x.opcode = 2 then ownOpened a s
      else if a.status = 0x12 then
        sendOwn a.endpoint x.opcode ((x.bytes.drop 24).take (rd x.bytes 12 4))
          { s with ownSessions := s.ownSessions.filter (fun y => decide (y.endpoint ≠ a.endpoint)) }
      else s

/-- COMMAND_REPLY_RX: the oldest reply that has arrived from endpoint `ep`; one that fails its checks is counted and goes no further. DEDUCED: log entry 52. -/
def commandReplyRx (ep : Nat) (s : State) : State :=
  match s.replies.find? (fun x => decide (x.1 = ep)) with
  | none => s
  | some (ep, bs) =>
    let s := { s with replies := s.replies.erase (ep, bs) }
    let p : RxPacket := ⟨.trace ep, ⟨0, none, 0⟩, bs⟩
    if ¬ extentOk p then formatFail p.source s
    else if ¬ checkOk p then crcFail p.source s
    else if rd bs 0 1 ≠ 1 ∨ testBit (rd bs 1 1) 1 then s
    else takeAnswer (answerOf ep bs) s

def execCommandReplyRx (source : Nat) (s : State) : Res := .next (commandReplyRx source s)

end Sys2Proof.Machine
end

