-- ==== Sys2Proof/Machine/LinkCmd.lean ====
section
/-! DEFINITION. The commands of lanes and traces (R323, R329, R351, R352), Ethernet lanes (R350), ledger reads and audits (R53, R264, R286, R345). -/

namespace Sys2Proof.Machine

/-! ### TRACE_UP, TRACE_DOWN, LINK_STATUS (R352, Table 13.10) -/

/-- The WIDTH code of a width. -/
def widthCode (w : Nat) : Nat := if w = 8 then 3 else if w = 4 then 2 else if w = 2 then 1 else 0

/-- Bring a trace into COMMA with the settings of a trace record. -/
def traceStart (t w rate kind ok sfmt peer h : Nat) (s : State) : State :=
  let s := setFld Fld.TRACE_CFG_WIDTH t (widthCode w) (setFld Fld.TRACE_CFG_KIND t kind (setFld Fld.TRACE_CFG_SFMT t sfmt
    (setFld Fld.TRACE_CFG_RATE t rate (setFld Fld.TRACE_CFG_RESTRIPE_OK t ok s))))
  let s := setFld Fld.TRACE_LATENCY_NS t 0 (setFld Fld.TRACE_PEER_PEER t 0 s)
  let s := forEach (List.range w) (fun i s =>
    setFld Fld.LANE_STATUS_TRACE (t + i) t (setFld Fld.LANE_STATUS_TRACE_LANE (t + i) i
      (setFld Fld.LANE_CFG_MODE (t + i) 1 (setFld Fld.LANE_CFG_RATE (t + i) rate s)))) s
  let x := { closeEpoch 0 (2 ^ w - 1) (traceOf s t) with job := some h, want := peer }
  setTraceState t 1 (showLanes t (2 ^ w - 1) (setTrace t x s))

/-- TRACE_UP. DEDUCED: log entries 48, 49. -/
def traceUpCmd (r : Req) (h : Nat) (s : State) : Service :=
  let t := pb r 0
  let w := pb r 4
  let kind := pb r 6
  let peer := rd r.payload 12 4
  let ms := rd r.payload 16 2
  shaped r 20 [1, 2, 3, 9, 10, 11, 18, 19]
    (need (decide (t ≤ 63)) 0x22 0
    (need (decide ((w = 1 ∨ w = 2 ∨ w = 4 ∨ w = 8) ∧ t % w = 0)) 0x22 4
    (need (decide (pb r 5 ≤ 6)) 0x22 5
    (need (decide (kind ≤ 2)) 0x22 6
    (need (decide (pb r 7 ≤ 1)) 0x22 7
    (need (decide (pb r 8 ≤ 2 ∧ (kind = 1 ∨ pb r 8 = 0))) 0x22 8
    (need (decide (peer < 2 ^ 18 ∨ peer = 0xFFFFFFFF)) 0x22 12
    (need (decide (1 ≤ ms ∧ ms ≤ 10000)) 0x22 16
    (match ((List.range w).map (fun i => t + i)).find? (fun l => decide (fld s Fld.LANE_CFG_MODE l ≠ 0)) with
     | some l => errRep 0x60 l
     | none => startJob r h (.trace t) (fun h s => traceStart t w (pb r 5) kind (pb r 7) (pb r 8) peer h s) s)))))))))

def execTraceUp (r : Req) (h : Nat) (s : State) : Res := .next (serve 0x800 r (traceUpCmd r h) s)

/-- The packets that wait for a trace are given up: the credits of the forwarded ones go back to their origin (R23, R340). -/
def queueDrop (t : Nat) (s : State) : State :=
  let q := (traceOf s t).queue
  let s := setTrace t { traceOf s t with queue := [] } s
  forEach q (fun p s => match p.origin with
    | some (o, e) => freeCredits o e p.vc (creditsOf p.payload.length) s
    | none => s) s

/-- Take a trace to DOWN with cause HOST; its lanes are off, and a job that still waits for UP ends. -/
def traceStop (t : Nat) (s : State) : State :=
  let lanes := traceLanes s t
  let job := (traceOf s t).job
  let s := if traceUp s t then traceFail t 11 0 s
    else setTraceState t 0 (setFld Fld.TRACE_STATE_LAST_FAIL t 11 (setTrace t (closeEpoch 11 (fullMask s t) (traceOf s t)) s))
  let s := forEach lanes (fun l s => setRegWord (fieldAddr Fld.LANE_STATUS_SIGNAL l) 0 (setFld Fld.LANE_CFG_MODE l 0 s)) s
  let s := selectRef (queueDrop t (setTrace t { traceOf s t with job := none } s))
  match job with
  | some h => endJob h 2 0x61 11 0 s
  | none => s

/-- Whether the live program reserves slots on a trace. -/
def traceReserved (s : State) (t : Nat) : Bool :=
  decide (0 < fld s Fld.TRACE_TX_SLOTS_COUNT t ∨ 0 < fld s Fld.TRACE_RX_SLOTS_COUNT t)

/-- TRACE_DOWN. DEDUCED: log entry 49. -/
def traceDownCmd (r : Req) (s : State) : Service :=
  let t := pb r 0
  shaped r 4 [1, 2, 3]
    (need (decide (t ≤ 63)) 0x22 0
    (need (decide (traceState s t ≠ 0)) 0x26 0
    (need (!traceReserved s t) 0x2F 0
    (okRep [] (traceStop t s)))))

def execTraceDown (r : Req) (s : State) : Res := .next (serve 0x801 r (traceDownCmd r) s)

/-- The 32 bytes of a trace status record. -/
def traceBytes (s : State) (t : Nat) : List Byte :=
  beBytes 1 t ++ beBytes 1 (traceState s t) ++ beBytes 1 (fld s Fld.TRACE_STATE_LANE_MASK t) ++ beBytes 1 (fld s Fld.TRACE_STATE_LANES t) ++
    beBytes 4 (fld s Fld.TRACE_PEER_PEER t) ++ beBytes 2 (fld s Fld.TRACE_LATENCY_NS t) ++ beBytes 1 (fld s Fld.TRACE_STATE_LAST_FAIL t) ++ [0] ++
    beBytes 4 (fld s Fld.TRACE_RETRY_REPLAYS t) ++ beBytes 2 (fld s Fld.TRACE_REINIT_REINITS t) ++
    beBytes 2 (fld s Fld.TRACE_REINIT_RESTRIPES t) ++ beBytes 4 (fld s Fld.TRACE_REGION_ERR_FAILED t) ++
    beBytes 2 (fld s Fld.TRACE_REGION_ERR_SLIPS t) ++ [0, 0, 0, 0, 0, 0]

/-- LINK_STATUS. -/
def linkStatus (r : Req) (s : State) : Service :=
  let t := pb r 0
  shaped r 4 [1, 2, 3]
    (need (decide (t ≤ 63)) 0x22 0
    (need (decide (traceState s t ≠ 0)) 0x26 0
    (okRep (traceBytes s t) s)))

def execLinkStatus (r : Req) (s : State) : Res := .next (serve 0x804 r (linkStatus r) s)

/-! ### PRBS (R351) -/

def prbsOf (s : State) (l : Nat) : PrbsSt := smapGet (fun _ => prbsOff) s.prbs l
def setPrbs (l : Nat) (p : PrbsSt) (s : State) : State := { s with prbs := smapSet (fun _ => prbsOff) l p s.prbs }

/-- PRBS_RUN clears the counters of its lanes and starts or stops them. -/
def prbsRun (r : Req) (s : State) : Service :=
  let lanes := bitList 64 (rd r.payload 0 8)
  let pat := pb r 8
  let m := pb r 9
  shaped r 12 [10, 11]
    (need (decide (pat = 7 ∨ pat = 15 ∨ pat = 23 ∨ pat = 31)) 0x22 8
    (need (decide (m ≤ 3)) 0x22 9
    (match lanes.find? (fun l => decide (1 ≤ fld s Fld.LANE_CFG_MODE l ∧ fld s Fld.LANE_CFG_MODE l ≤ 3)) with
     | some l => errRep 0x60 l
     | none => okRep [] (forEach lanes (fun l s =>
        setFld Fld.LANE_CFG_MODE l (if m = 0 then 0 else 4) (setPrbs l ⟨pat, testBit m 0, testBit m 1, false, 0, 0⟩ s)) s))))

def execPrbsRun (r : Req) (s : State) : Res := .next (serve 0x802 r (prbsRun r) s)

/-- PRBS_LOCK: the checker has seen 64 error-free bits. -/
def prbsLock (l : Nat) (s : State) : State :=
  let p := prbsOf s l
  if fld s Fld.LANE_CFG_MODE l = 4 ∧ p.check then setPrbs l { p with lock := true } s else s

def execPrbsLock (lane : Fin 64) (s : State) : Res := .next (prbsLock lane.val s)

/-- What a lane's checker has counted since it was last read. -/
def prbsCount (l bits errors : Nat) (s : State) : State :=
  let p := prbsOf s l
  if p.lock then setPrbs l { p with bits := (p.bits + bits) % 2 ^ 64, errors := (p.errors + errors) % 2 ^ 64 } s else s

/-- PRBS_READ: `bits` and `errors` are what the checker has counted since the last read. DESIGN CHOICE: log entry 56. -/
def prbsRead (r : Req) (bits errors : Nat) (s : State) : Service :=
  let l := pb r 0
  shaped r 4 [1, 2, 3]
    (need (decide (l ≤ 63)) 0x22 0
    (let s := prbsCount l bits errors s
     let p := prbsOf s l
     okRep (beBytes 1 (bnat p.lock) ++ [0, 0, 0] ++ beBytes 8 p.bits ++ beBytes 8 p.errors) s))

def execPrbsRead (r : Req) (bits errors : Nat) (s : State) : Res := .next (serve 0x803 r (prbsRead r bits errors) s)

/-! ### Ethernet lanes (R350) -/

/-- Count a frame that is dropped. -/
def ethDrop (lane : Nat) (s : State) : State := countFld Fld.LANE_ETH_RX_DROP lane s

/-- The MAC address of an Ethernet lane: the base address with the lane added in its low byte. -/
def laneMac (s : State) (lane : Nat) : Nat :=
  let base := fld s Fld.ETH_MAC_LO_MAC_LO + 2 ^ 32 * fld s Fld.ETH_MAC_HI_MAC_HI
  base / 256 * 256 + (base + lane) % 256

/-- A Harness-over-Ethernet frame by KIND: 01h a command packet, 02h a data packet on VC 3. -/
def hoeDeliver (lane mac : Nat) (unicast : Bool) (vlan : Option Nat) (payload : List Byte) (s : State) : State :=
  if rd payload 1 1 = 1 then hoeFrameRx lane mac unicast vlan payload s
  else
    let b := payload.drop 12
    let p := b.take (20 + rd b 12 2)
    if rd payload 1 1 = 2 ∧ dataOk p ∧ rd p 0 1 % 4 = 3 ∧ rd p 2 2 = 0 then
      let dst := rd p 4 4 % 2 ^ 18
      let body := (p.drop 16).take (rd p 12 2)
      if dst = ownEndpoint s then takeRecords none (rd p 8 4 % 2 ^ 18) body.length body s
      else match routeTrace s dst with
        | some o => linkPut o ⟨3, dst, rd p 8 4 % 2 ^ 18, body, none⟩ s
        | none => routeDrop s
    else ethDrop lane s

/-- An Ethernet frame without its FCS, with the check that its FCS has passed (R350). DEDUCED: log entry 129. -/
def ethFrameRx (lane : Nat) (frame : List Byte) (fcsOk : Bool) (t : Nat) (s : State) : State :=
  if fld s Fld.LANE_CFG_MODE lane ≠ 2 then s
  else if ¬ fcsOk then countFld Fld.LANE_ETH_FCS_ERR lane s
  else if frame.length < 14 ∨ 1518 < frame.length then ethDrop lane s
  else
    let tagged := decide (rd frame 12 2 = 0x8100)
    let vlan := if tagged then some (rd frame 14 2) else none
    let o := if tagged then 16 else 12
    let type := rd frame o 2
    let body := frame.drop (o + 2)
    let mac := rd frame 6 6
    if type = 0x8808 then s
    else if type = fld s Fld.NET_ETH_TYPE_ETH_TYPE then hoeDeliver lane mac (decide (rd frame 0 6 = laneMac s lane)) vlan body s
    else if type = 0x0800 ∧ ipLane s lane ∧ rd body 9 1 = 17 ∧ rd body 22 2 = 50024 then udpRx lane body s
    else if type = 0x0806 ∧ ipLane s lane then
      (if rd body 6 2 = 1 then arpRequestRx lane (rd body 14 4) (rd body 8 6) (rd body 24 4) s else arpReplyRx lane (rd body 14 4) (rd body 8 6) s)
    else if type = 0x88F7 then { s with timeq := s.timeq ++ [⟨64 + lane, body, t⟩] }
    else ethDrop lane s

def execEthFrameRx (lane : Fin 16) (frame : List Byte) (fcsOk : Bool) (t : Nat) (s : State) : Res :=
  .next (ethFrameRx lane.val frame fcsOk t s)

/-! ### Audits (R53, R264) -/

/-- E − D − ΣF of a stream. -/
def streamDiff (c : StreamCounts) : Int := (c.e : Int) - c.d - ((c.f.map Prod.snd).foldl (· + ·) 0 : Nat)

/-- The counts of a stream with a difference added to cause 0Dh, modulo 2^64. -/
def accountFor (d : Int) (c : StreamCounts) : StreamCounts :=
  { c with f := smapSet (fun _ => 0) causeUnaccounted (wrapInt 64 (smapGet (fun _ => 0) c.f causeUnaccounted + d)) c.f }

/-- Whether the wrapped counts of a stream balance: the difference taken modulo 2^64, as signed. -/
def diffOf (c : StreamCounts) : Int := signOf 64 (wrapInt 64 (streamDiff c))

/-- A difference that an audit finds in a stream: UNACCOUNTED, the event, and its place in the counts. -/
def auditStream (b k : Nat) (s : State) : State :=
  let d := diffOf (streamOf s.ledger.aud k)
  if d = 0 then s
  else
    let fix (m : SMap StreamCounts) : SMap StreamCounts := smapSet (fun _ => streamZero) k (accountFor d (streamOf m k)) m
    let l := s.ledger
    raiseAt b 0x06 k (wrapInt 32 (satInt 32 d).1) (setBit Fld.SLEDGER_STATUS_UNACCOUNTED 0
      { s with ledger := { l with cur := fix l.cur, snap := fix l.snap, aud := fix l.aud } })

/-- The check of one session's sequence numbers. -/
def auditSession (b : Nat) (c : SeqCounts) (s : State) : State :=
  let d : Int := (c.count % 2 ^ 32 : Nat) - (c.exec + c.gapLoss + c.empty + c.reset : Nat)
  if d = 0 then s
  else raiseAt b 0x51 c.session (wrapInt 32 d) (setBit Fld.CMD_STATUS_SEQ_AUDIT_FAIL 0 s)

/-- AUDIT_STEP: the first step takes the snapshot of the latest boundary; the last one ends the audit of every stream and session. DESIGN CHOICE: log entry 56. -/
def auditStep (last : Bool) (s : State) : State :=
  let l := s.ledger
  let s := match l.pend with
    | some _ => s
    | none => setBit Fld.SLEDGER_STATUS_AUDIT_RUN 0 { s with ledger := { l with pend := some (l.snap, l.snapFrame) }, seqPend := s.seqSnap }
  match s.ledger.pend with
  | none => s
  | some (m, b) =>
    if ¬ last then s
    else
      let s := clrBit Fld.SLEDGER_STATUS_AUDIT_RUN 0
        { s with ledger := { s.ledger with aud := m, audFrame := b, pend := none }, seqAud := s.seqPend, seqAudFrame := b, seqPend := [] }
      forEach s.seqAud (auditSession b) (forEach (smapKeys m) (auditStream b) s)

def execAuditStep (last : Bool) (s : State) : Res := .next (auditStep last s)

/-! ### LEDGER_READ (R286, R345) -/

/-- AUDIT_FRAME and the counts of a quantity and INDEX; none where it names nothing. -/
def ledgerCounts (s : State) (quantity index : Nat) : Option (Nat × List Nat) :=
  match quantity with
  | 1 =>
    if (smapKeys s.ledger.cur).contains index then
      let c := streamOf s.ledger.aud index
      some (s.ledger.audFrame, [c.e] ++ (List.range 14).map (fun i => smapGet (fun _ => 0) c.f (i + 1)) ++ [c.d])
    else none
  | 2 =>
    if index < 256 then
      let v := vcOf (traceOf s (index / 4)) (index % 4)
      some (s.frame, [vcSize (index % 4), v.limit, v.used, v.acked, v.accepted, v.freed, v.lost, v.uncorr, v.partner, v.audits])
    else none
  | 3 => if index = 0 then some (s.frame, [fld s Fld.TOKEN_FAULT_COUNT_COUNT]) else none
  | _ =>
    (s.seqAud.find? (fun c => decide (c.session = index))).map (fun c =>
      (s.seqAudFrame, [c.exec, c.gapLoss, c.reset, (c.s0 + 2 ^ 32 - 1 + c.count) % 2 ^ 32, c.s0]))

def ledgerRead (r : Req) (s : State) : Service :=
  shaped r 4 [1]
    (need (decide (1 ≤ pb r 0 ∧ pb r 0 ≤ 4)) 0x22 0
    (match ledgerCounts s (pb r 0) (rd r.payload 2 2) with
     | none => errRep 0x26 2
     | some (f, l) => okRep (beBytes 8 f ++ l.flatMap (beBytes 8)) s))

def execLedgerRead (r : Req) (s : State) : Res := .next (serve 0x502 r (ledgerRead r) s)

end Sys2Proof.Machine
end

