-- ==== Sys2Proof/Machine/Team.lean ====
section
/-! DEFINITION. Herds and teams (R354–R363): ANNOUNCE records and the route table, forming and leaving a team, stream lists. -/

namespace Sys2Proof.Machine

/-- The oldest management record of a kind, taken from those that have arrived. DEDUCED: log entry 52. -/
def takeRec (p : MgmtRec → Bool) (s : State) : Option (MgmtRec × State) :=
  (s.mgmt.find? p).map (fun r => (r, { s with mgmt := s.mgmt.erase r }))

/-! ### ANNOUNCE (R354, R357) -/

/-- Show how many members the route table holds. -/
def showMembers (s : State) : State := setFld Fld.HERD_STATUS_MEMBERS 0 s.routes.length s

/-- An ANNOUNCE of another origin: the newest COUNT makes the route; the first arrival of a COUNT is forwarded. -/
def announceOther (r : MgmtRec) (origin : Nat) (s : State) : State :=
  let count := rd r.body 4 4
  let hops := rd r.body 8 1
  let arr := match r.trace with
    | some t => [(t, hops)]
    | none => []
  let old := routeOf s origin
  let newer := match old with
    | none => true
    | some x => decide (0 < (count + 2 ^ 32 - x.count) % 2 ^ 32 ∧ (count + 2 ^ 32 - x.count) % 2 ^ 32 < 2 ^ 31)
  let s := if rd r.body 9 1 ≠ s.fs ∨ rd r.body 10 1 ≠ fld s Fld.HERD_CTRL_HERD_PRES then setBit Fld.HERD_STATUS_PRES_MISMATCH 0 s else s
  let s :=
    if newer then
      let x : Route := ⟨count, arr, rd r.body 9 1, rd r.body 10 1, rd r.body 11 1, rd r.body 12 4, rd r.body 16 1⟩
      let s := showMembers { s with routes := smapInsert origin x s.routes }
      if 32 ≤ hops then s
      else
        let body := r.body.take 8 ++ beBytes 1 (hops + 1) ++ r.body.drop 9
        forEach ((announceTraces s).filter (fun t => decide (r.trace ≠ some t))) (fun t s => sendRecordOn t 1 body s) s
    else match old with
      | none => s
      | some x =>
        if x.count ≠ count then s
        else
          let via := arr ++ x.via.filter (fun v => decide (r.trace ≠ some v.1))
          { s with routes := smapInsert origin { x with via := via } s.routes }
  teamJobCheck (teamUpdate s)

/-- The oldest ANNOUNCE that has arrived. None crosses a bridge, and none of another herd is taken. DEDUCED: log entry 57. -/
def announceRx (s : State) : State :=
  match takeRec (fun r => decide (r.kind = 1)) s with
  | none => s
  | some (r, s) =>
    let origin := rd r.body 0 4
    if r.body.length ≠ 24 ∨ herdOf origin ≠ herdOf (ownEndpoint s) ∨ (r.trace.map (isBridge s)).getD false then s
    else if origin = ownEndpoint s then
      (if 1 ≤ rd r.body 4 4 ∧ rd r.body 4 4 ≤ s.annCount then s else setBit Fld.HERD_STATUS_DUP_ID 0 s)
    else announceOther r origin s

def execAnnounce (s : State) : Res := .next (announceRx s)

/-- ANNOUNCE_PERIOD: ANN_PERIOD has passed. -/
def execAnnouncePeriod (s : State) : Res := .next (announce s)

/-- MEMBER_LOSS: no ANNOUNCE of a member for LOSS_COUNT periods. -/
def memberLoss (ep : Nat) (s : State) : State :=
  if (routeOf s ep).isNone then s
  else
    let s := showMembers { s with routes := smapErase ep s.routes }
    let mine := s.team.contains ep || (decide (fld s Fld.SHADOW_PARTNER_ROLE ≠ 0) && decide (fld s Fld.SHADOW_PARTNER_PARTNER = ep))
    teamUpdate (if mine then raise 0xB2 ep 0 s else s)

def execMemberLoss (ep : Nat) (s : State) : Res := .next (memberLoss ep s)

/-! ### Teams (R358, R362) -/

/-- The body of a TEAM record. -/
def teamBody (ids : List Nat) : List Byte := beBytes 1 ids.length ++ [0, 0, 0] ++ ids.flatMap (beBytes 4)

/-- The endpoint IDs of a list of `n` in bytes. -/
def readIds (n : Nat) (b : List Byte) : List Nat := (List.range n).map (fun i => rd b (4 * i) 4)

/-- TEAM_FORM. -/
def teamForm (r : Req) (h : Nat) (s : State) : Service :=
  let n := pb r 0
  let ids := readIds n (r.payload.drop 4)
  if ¬ (2 ≤ n ∧ n ≤ 16) then (if r.payload.isEmpty then errRep 0x21 12 else errRep 0x22 0)
  else shaped r (4 + 4 * n) [1, 2, 3]
    (need (decide (s.mode = .configure)) 0x23 (modeCode s.mode)
    (need (decide (ids.Nodup ∧ ids.contains (ownEndpoint s)) && ids.all (fun e => decide (herdOf e = herdOf (ownEndpoint s)))) 0x22 4
    (startJob r h (.team ids []) (fun _ s =>
      forEach (ids.filter (fun e => decide (e ≠ ownEndpoint s))) (fun e s => sendRecord e 2 (teamBody ids) s) (joinTeam ids s)) s)))

def execTeamForm (r : Req) (h : Nat) (s : State) : Res := .next (serve 0xB00 r (teamForm r h) s)

/-- TEAM_LEAVE. -/
def teamLeave (r : Req) (s : State) : Service :=
  shaped r 0 []
    (need (decide (s.mode = .configure)) 0x23 (modeCode s.mode) (okRep [] (leaveTeam s)))

def execTeamLeave (r : Req) (s : State) : Res := .next (serve 0xB01 r (teamLeave r) s)

/-- The members with TEAM_LOCK, as last announced, the own one as it stands. -/
def lockedMembers (s : State) : Nat :=
  maskOf ((List.range s.team.length).filter (fun k =>
    let e := s.team.getD k 0
    if e = ownEndpoint s then fbit s Fld.TEAM_STATUS_REG_LOCKED else match routeOf s e with
      | some x => testBit x.role 5
      | none => false))

/-- The 32 bytes of the team status record (Table 14.2). -/
def teamBytes (s : State) : List Byte :=
  let inn := inTeam s
  let reg (f : RegField) : Nat := fld s f
  beBytes 1 (if inn then reg Fld.TEAM_STATUS_REG_MEMBER else 0xFF) ++ beBytes 1 (if inn then reg Fld.TEAM_STATUS_REG_LEADER else 0xFF) ++
    beBytes 2 (reg Fld.TEAM_STATUS_REG_PRESENT) ++ beBytes 2 (lockedMembers s) ++
    beBytes 1 (if fbit s Fld.TEAM_PARENT_VALID then reg Fld.TEAM_PARENT_TRACE else 0xFF) ++ beBytes 1 (reg Fld.TEAM_PARENT_HOPS) ++
    beBytes 8 s.frame ++ beBytes 4 (leaderId s) ++ beBytes 2 (reg Fld.TEAM_PARENT_LOCK_LOSSES) ++
    beBytes 1 (reg Fld.SHADOW_STATUS_STATE) ++ List.replicate 9 0

/-- TEAM_STATUS. -/
def teamStatus (r : Req) (s : State) : Service := shaped r 0 [] (okRep (teamBytes s) s)

def execTeamStatus (r : Req) (s : State) : Res := .next (serve 0xB04 r (teamStatus r) s)

/-- TEAM: a TEAM record from the engine that forms a team is checked and answered; a member that answers OK is in the team. -/
def teamRx (s : State) : State :=
  match takeRec (fun r => decide (r.kind = 2)) s with
  | none => s
  | some (r, s) =>
    let n := rd r.body 0 1
    let ids := readIds n (r.body.drop 4)
    let fsOk := match routeOf s r.src with
      | some x => decide (x.fs = s.fs)
      | none => false
    let status :=
      if s.mode ≠ .configure then 0x23
      else if 2 ≤ n ∧ n ≤ 16 ∧ r.body.length = 4 + 4 * n ∧ ids.contains (ownEndpoint s) ∧ fsOk = true ∧ herdOf r.src = herdOf (ownEndpoint s) then 0
      else 0x22
    let s := if status = 0 then joinTeam ids s else s
    sendRecord r.src 3 (beBytes 4 (ownEndpoint s) ++ beBytes 2 status ++ [0, 0]) s

def execTeam (s : State) : Res := .next (teamRx s)

/-- The running TEAM_FORM job. DEDUCED: log entry 57. -/
def teamJob (s : State) : Option (JobRec × List Nat × List Nat) :=
  s.jobs.findSome? (fun j => match j.work with
    | .team ids acked => if j.state = 0 then some (j, ids, acked) else none
    | _ => none)

/-- TEAM_ACK: a member's answer; the first refusing STATUS ends the job. -/
def teamAckRx (s : State) : State :=
  match takeRec (fun r => decide (r.kind = 3)) s with
  | none => s
  | some (r, s) =>
    match teamJob s with
    | none => s
    | some (j, ids, acked) =>
      let e := rd r.body 0 4
      let status := rd r.body 4 2
      if ¬ ids.contains e then s
      else if status ≠ 0 then leaveTeam (endJob j.handle 2 status 0 0 s)
      else teamJobCheck (setJob { j with work := .team ids (e :: acked.filter (fun x => decide (x ≠ e))) } s)

def execTeamAck (s : State) : Res := .next (teamAckRx s)

/-- TEAM_FORM_TIMEOUT: a member has not answered within CMD_TIMEOUT × (CMD_RETRIES + 1). -/
def teamFormTimeout (ep : Nat) (s : State) : State :=
  match teamJob s with
  | none => s
  | some (j, ids, acked) =>
    if ids.contains ep ∧ ep ≠ ownEndpoint s ∧ ¬ acked.contains ep then leaveTeam (endJob j.handle 2 0x31 ep 0 s) else s

def execTeamFormTimeout (ep : Nat) (s : State) : Res := .next (teamFormTimeout ep s)

/-! ### Stream lists (R363) -/

/-- The body of a STREAM_LIST. DEDUCED: log entry 54. -/
def streamListBody (frame : Nat) (l : List (Nat × Nat × Bool)) : List Byte :=
  beBytes 8 frame ++ beBytes 2 l.length ++ [0, 0] ++ l.flatMap (fun e => beBytes 2 e.1 ++ beBytes 2 e.2.1 ++ beBytes 1 (bnat e.2.2) ++ [0, 0, 0])

/-- At a tap at boundary `b`: a stream list goes out on each trace whose streams change. -/
def sendStreamLists (old new : Graph) (b : Nat) (s : State) : State :=
  forEach ((liveTraces s).filter (fun t => decide (streamsOn old t ≠ streamsOn new t)))
    (fun t s => sendRecordOn t 5 (streamListBody b (streamsOn new t)) s) s

/-- STREAM_LIST: the list of the peer of a trace. From its FRAME on, a list that disagrees with the live RX tables sets PRES_MISMATCH. -/
def streamListRx (s : State) : State :=
  match takeRec (fun r => decide (r.kind = 5)) s with
  | none => s
  | some (r, s) =>
    match r.trace with
    | none => s
    | some t =>
      let n := rd r.body 8 2
      let l := (List.range n).map (fun i => (rd r.body (12 + 8 * i) 2, rd r.body (14 + 8 * i) 2, testBit (rd r.body (16 + 8 * i) 1) 0))
      let s := setTrace t { traceOf s t with streams := some (rd r.body 0 8, l) } s
      if streamsAgree s t s.frame then s else setBit Fld.HERD_STATUS_PRES_MISMATCH 0 s

def execStreamList (s : State) : Res := .next (streamListRx s)

end Sys2Proof.Machine
end

