-- ==== Sys2Proof/Machine/Clocks.lean ====
section
/-! DEFINITION. The clock system's commands (R136, R379–R402): base rate, references, the DPLL's lock and history, the frame mapping, time snapshots and
corrections, clock outputs and scheduled pulses. -/

namespace Sys2Proof.Machine

/-! ### Tick-derived outputs (R388, R389) -/

/-- The MCLK product of an output in Hz. -/
def mclkHz (s : State) (o : Nat) : Nat := 128 * 2 ^ min 2 (fld s Fld.CLKOUT_CFG_MUL o) * fsHz s.fs

/-- Whether an output is tick-derived. -/
def tickDerived (s : State) (o : Nat) : Bool := decide (1 ≤ fld s Fld.CLKOUT_CFG_FUNC o ∧ fld s Fld.CLKOUT_CFG_FUNC o ≤ 3)

/-- A phase step of the tick: every output loses its alignment. -/
def loseAlignment (s : State) : State := forEach (List.range 16) (fun o s => clrBit Fld.CLKOUT_STATUS_ALIGNED o s) s

/-- The frame of a pending alignment of an output. -/
def alignOf (s : State) (o : Nat) : Option Nat := smapGet (fun _ => none) s.aligns o

def setAlign (o : Nat) (f : Option Nat) (s : State) : State :=
  setFld Fld.CLKOUT_STATUS_ALIGN_PENDING o (bnat f.isSome) { s with aligns := smapSet (fun _ => none) o f s.aligns }

/-- CLKOUT_ALIGN (R288, R389). -/
def clkoutAlign (r : Req) (s : State) : Service :=
  let f := rd r.payload 4 8
  shaped r 12 [2, 3]
  (need (decide (s.frame + 2 ≤ f)) 0x55 (s.frame + 2)
  (okRep [] (forEach (bitList 16 (rd r.payload 0 2)) (fun o s => setAlign o (some f) s) s)))

def execClkoutAlign (r : Req) (s : State) : Res := .next (serve 0x905 r (clkoutAlign r) s)

/-- At boundary `b` the alignments that are due restart their dividers. -/
def applyAligns (b : Nat) (s : State) : State :=
  forEach (List.range 16) (fun o s =>
    match alignOf s o with
    | none => s
    | some f =>
      if b < f then s
      else
        let s := setAlign o none s
        if tickDerived s o then countFld Fld.CLKOUT_STATUS_ALIGN_COUNT o (setBit Fld.CLKOUT_STATUS_ALIGNED o s) else s) s

/-! ### Base rate (R136, R296) -/

/-- FS_SET. DEDUCED: log entry 65. -/
def fsSet (r : Req) (s : State) : Service :=
  shaped r 4 [1, 2, 3]
  (need (decide (pb r 0 ≤ 7)) 0x22 0
  (need (decide (s.mode = .configure)) 0x23 (modeCode s.mode)
  (match compileRunning s with
   | some j => errRep 0x40 j.handle
   | none =>
    let s := loseAlignment (setFld Fld.ENGINE_MODE_FS 0 (pb r 0) { s with fs := pb r 0 })
    okRep [] (if (List.range 16).any (fun o => decide (fld s Fld.CLKOUT_CFG_FUNC o = 1 ∧ 49152000 < mclkHz s o)) then
      setBit Fld.CLK_STATUS_CFG_ERR 0 s else s))))

def execFsSet (r : Req) (s : State) : Res := .next (serve 0x900 r (fsSet r) s)

/-! ### References (R380, R381) -/

/-- REF_SELECT. DEDUCED: log entry 66. -/
def refSelect (r : Req) (s : State) : Service :=
  shaped r 4 [2, 3]
  (need (decide (pb r 0 ≤ 1)) 0x22 0
  (need (decide (pb r 1 ≤ 9)) 0x22 1
  (need (fbit s Fld.CLK_CAND_EN (pb r 1)) 0x26 1
  (okRep [] (selectRef (setFld Fld.CLK_CTRL_FORCED 0 (pb r 0) (setFld Fld.CLK_CTRL_FORCE_CAND 0 (pb r 1) s)))))))

def execRefSelect (r : Req) (s : State) : Res := .next (serve 0x901 r (refSelect r) s)

/-- REF_VALID: the conditions of R380 hold for a candidate, whose frequency offset is measured; those that the engine's own state shows must hold in it. -/
def refGood (n : Nat) (foffs : BitVec 16) (s : State) : State :=
  if ¬ refHolds s n then s
  else
  let s := setFld Fld.CLK_CAND_STATUS_FOFFS n foffs.toNat s
  if fbit s Fld.CLK_CAND_STATUS_VALID n then s
  else selectRef (setBit Fld.CLK_CAND_STATUS_VALID n (setBit Fld.CLK_CAND_STATUS_QUALIFYING n s))

def execRefValid (cand : Fin 10) (foffs : BitVec 16) (s : State) : Res := .next (refGood cand.val foffs s)

/-- REF_INVALID: a condition of R380 fails; XIN is always valid. -/
def refBad (n : Nat) (s : State) : State :=
  if n = 9 ∨ ¬ fbit s Fld.CLK_CAND_STATUS_VALID n then s
  else selectRef (refDrop n s)

def execRefInvalid (cand : Fin 10) (s : State) : Res := .next (refBad cand.val s)

/-- REF_QUALIFIED: a candidate has been valid for QUAL_TIME. -/
def refQualified (n : Nat) (s : State) : State :=
  if fbit s Fld.CLK_CAND_STATUS_VALID n ∧ fbit s Fld.CLK_CAND_STATUS_QUALIFYING n then selectRef (clrBit Fld.CLK_CAND_STATUS_QUALIFYING n s) else s

def execRefQualified (cand : Fin 10) (s : State) : Res := .next (refQualified cand.val s)

/-! ### The frame mapping (R385, R397) -/

/-- HERD_EPOCH as a time. -/
def epochTime (s : State) : Int := timeJoin (fld s Fld.HERD_EPOCH_LO_SEC_LO + 2 ^ 32 * fld s Fld.HERD_EPOCH_HI_SEC_HI) 0 0

/-- The length of `k` frames, in 2^−16 ns. -/
def framesTime (fs : Nat) (k : Int) : Int := k * (10 ^ 9 * 65536) / (fsHz fs : Int)

/-- The boundary that a mapping k ↦ T assigns to time `now`: the latest one not after it. -/
def boundaryAt (fs k : Nat) (t now : Int) : Int := k + ((now - t) * (fsHz fs : Int)) / (10 ^ 9 * 65536)

/-- Adopt the mapping k ↦ T of domain `d` at raw value `r` (R397): the tick takes its phase and its index, unless the index lies below the own one. DEDUCED: log entry 65. -/
def adoptMap (d k : Nat) (t r : Int) (s : State) : State :=
  let now := domAt (domOf s d) r
  let j := boundaryAt s.fs k t now
  if j < s.frame then setBit Fld.CLK_STATUS_EPOCH_AHEAD 0 s
  else
    let tj := t + framesTime s.fs (j - k)
    let s := { s with frame := j.toNat, tick := ((r - (now - tj)) / 65536).toNat }
    herdUpdate (loseAlignment (setBit Fld.CLK_STATUS_FRAME_MAPPED 0 (setFld Fld.CLK_STATUS_MAP_DOM 0 d (setMap j.toNat tj s))))

/-- Whether adoption may take place for domain `d` (R397). -/
def mayAdopt (s : State) (d : Nat) : Bool :=
  decide (s.mode = .configure) && !isFollower s && !fbit s Fld.CLK_STATUS_FRAME_MAPPED && dpllLocked s &&
    decide (fld s Fld.CLK_STATUS_ACTIVE = 4 + d)

/-- A root maps boundary k to HERD_EPOCH + k / Fs. -/
def rootAdopt (d : Nat) (r : Int) (s : State) : State :=
  if mayAdopt s d ∧ fbit s Fld.TIME_STATUS_ROOT d then adoptMap d 0 (epochTime s) r s else s

/-- FRAME_MAP: the oldest mapping that has arrived from a master on a slave port, at raw value `r`. DEDUCED: log entry 65. -/
def frameMapUse (m : TimeMsg) (r : Int) (s : State) : State :=
  let d := rd m.bytes 1 1
  let b := m.bytes.drop 4
  let k := rd b 0 8
  let t := timeJoin (rd b 8 6) (rd b 14 4) (rd b 18 2)
  let fs := rd b 20 1
  if ¬ (d ≤ 1 ∧ m.port < 64) ∨ (portOfDom s d m.port).st ≠ 2 ∨ isFollower s then s
  else if mayAdopt s d then (if fs = s.fs ∧ ¬ fbit s Fld.TIME_STATUS_ROOT d then adoptMap d k t r s else s)
  else if fbit s Fld.CLK_STATUS_FRAME_MAPPED ∧ fld s Fld.CLK_STATUS_MAP_DOM = d then
    let own := mapTime s + framesTime s.fs ((k : Int) - mapFrame s)
    if fs ≠ s.fs ∨ 100 * 65536 < (t - own).natAbs then setBit Fld.CLK_STATUS_MAP_MISMATCH 0 s else s
  else s

def frameMapRx (raw : Nat) (s : State) : State :=
  match s.timeq.find? (fun m => decide (m.port < 64 ∧ rd m.bytes 0 1 = 2)) with
  | none => s
  | some m => frameMapUse m raw { s with timeq := s.timeq.erase m }

def execFrameMap (raw : Nat) (s : State) : Res := .next (frameMapRx raw s)

/-- After a domain switch, boundary `b` at raw value `r` is re-expressed in the new domain (R399). -/
def remapAt (b : Nat) (r : Int) (s : State) : State :=
  let a := fld s Fld.CLK_STATUS_ACTIVE
  if ¬ s.remap then s
  else
    let s := { s with remap := false }
    if fbit s Fld.CLK_STATUS_FRAME_MAPPED ∧ (a = 4 ∨ a = 5) then
      setFld Fld.CLK_STATUS_MAP_DOM 0 (a - 4) (setMap b (domAt (domOf s (a - 4)) r) s)
    else s

/-! ### The DPLL (R384–R386) -/

/-- DPLL_LOCK: the filtered error has been within its limit; the frequency against XIN in 2^−40 and the phase error in ps, at raw value `raw`. DESIGN CHOICE: log entry 64. -/
def dpllLock (freq phase : BitVec 32) (raw : Nat) (s : State) : State :=
  let a := fld s Fld.CLK_STATUS_ACTIVE
  if fld s Fld.CLK_STATUS_DPLL ≠ 1 ∨ 9 ≤ a then s
  else
    let ph := phaseAligned s a
    let s := setFld Fld.CLK_STATUS_DPLL 0 2 (setFld Fld.DPLL_FREQ_FREQ 0 freq.toNat (setFld Fld.DPLL_PHASE_PHASE 0 (if ph then phase.toNat else 0) s))
    let s := if s.fromFree ∧ ph then
        (if s.mode = .configure ∧ fbit s Fld.CLK_CTRL_PHASE_STEP_EN then loseAlignment { s with fromFree := false } else { s with fromFree := false })
      else s
    let s := teamJobCheck (lockFollow s)
    if a = 4 ∨ a = 5 then rootAdopt (a - 4) raw s else s

def execDpllLock (freq phase : BitVec 32) (raw : Nat) (s : State) : Res := .next (dpllLock freq phase raw s)

/-- DPLL_LOCK_LOSS: the filtered error exceeds four times its limit. -/
def dpllLockLoss (freq phase : BitVec 32) (s : State) : State :=
  if ¬ dpllLocked s then s
  else
    let ph := phaseAligned s (fld s Fld.CLK_STATUS_ACTIVE)
    lockFollow (setFld Fld.CLK_STATUS_DPLL 0 1
      (setFld Fld.DPLL_FREQ_FREQ 0 freq.toNat (setFld Fld.DPLL_PHASE_PHASE 0 (if ph then phase.toNat else 0) s)))

def execDpllLockLoss (freq phase : BitVec 32) (s : State) : Res := .next (dpllLockLoss freq phase s)

/-- HOLDOVER_HISTORY_SAMPLE: the filtered frequency of one second in LOCKED. The longest window and guard are 2,610 s. DESIGN CHOICE: log entry 64. -/
def historySample (freq : BitVec 32) (s : State) : State :=
  if ¬ dpllLocked s then s
  else
    countFld Fld.HO_HISTORY_SECONDS 0 (setFld Fld.DPLL_FREQ_FREQ 0 freq.toNat { s with history := (freq.toInt :: s.history).take 2610 })

def execHoldoverHistorySample (freq : BitVec 32) (s : State) : Res := .next (historySample freq s)

/-! ### Snapshots and corrections (R392, R393) -/

/-- TIME_READ at raw value `raw`. -/
def timeRead (r : Req) (raw : Nat) (s : State) : Service :=
  shaped r 4 [1, 2, 3]
  (need (decide (pb r 0 ≤ 2)) 0x22 0
  (let p := timeParts (readingOf s (pb r 0) raw)
   okRep (beBytes 6 p.1 ++ beBytes 4 p.2.1 ++ beBytes 2 p.2.2 ++ beBytes 8 s.frame) s))

def execTimeRead (r : Req) (raw : Nat) (s : State) : Res := .next (serve 0x902 r (timeRead r raw) s)

/-- Show a domain's reading in the latch. -/
def latchDom (t : Int) (lo hi sub ns : RegField) (s : State) : State :=
  let p := timeParts t
  setFld lo 0 (p.1 % 2 ^ 32) (setFld hi 0 (p.1 / 2 ^ 32) (setFld sub 0 p.2.2 (setFld ns 0 p.2.1 s)))

/-- TIME_SNAP: a write of SNAP = 1 at raw value `raw` loads the latch of Table 15.16. -/
def timeSnap (snap : Bool) (raw : Nat) (s : State) : State :=
  if ¬ snap then s
  else
    let ns := raw / 65536
    let s := setFld Fld.RAW_NS_LO_NS_LO 0 (ns % 2 ^ 32) (setFld Fld.RAW_NS_HI_NS_HI 0 (ns / 2 ^ 32) (setFld Fld.RAW_SUBNS_SUBNS 0 (raw % 65536) s))
    let s := latchDom (domAt s.domA raw) Fld.A_SEC_LO_SEC_LO Fld.A_SEC_HI_SEC_HI Fld.A_SEC_HI_SUBNS Fld.A_NS_NS s
    let s := latchDom (domAt s.domB raw) Fld.B_SEC_LO_SEC_LO Fld.B_SEC_HI_SEC_HI Fld.B_SEC_HI_SUBNS Fld.B_NS_NS s
    setFld Fld.SNAP_FRAME_LO_FRAME_LO 0 (s.frame % 2 ^ 32) (setFld Fld.SNAP_FRAME_HI_FRAME_HI 0 (s.frame / 2 ^ 32)
      (setFld Fld.SNAP_PHASE_PHASE 0 ((raw - s.tick * 65536) / 4096) s))

def execTimeSnap (snap : Bool) (raw : Nat) (s : State) : Res := .next (timeSnap snap raw s)

/-- Whether a domain has a port in the SLAVE state. -/
def hasSlave (s : State) (d : Nat) : Bool := (domOf s d).ports.any (fun p => decide (p.2.st = 2))

/-- TIME_ADJUST at raw value `raw`. DEDUCED: log entry 61. -/
def timeAdjust (r : Req) (raw : Nat) (s : State) : Service :=
  let d := pb r 0 - 1
  let off := signOf 64 (rd r.payload 4 8)
  shaped r 12 [2, 3]
  (need (decide (pb r 0 = 1 ∨ pb r 0 = 2)) 0x22 0
  (need (decide (pb r 1 = 1 ∨ pb r 1 = 2)) 0x22 1
  (need (!hasSlave s d) 0x2F 0
  (need (decide (pb r 1 = 1) || fbit s Fld.PTP_CFG_STEP_EN d) 0x2F 1
  (okRep [] (if pb r 1 = 2 then stepDom d off raw s
    else
      let x := domOf s d
      showRate d (setDom d (steer (fld s Fld.PTP_RATES_SLEW_MAX d) x.base (pendAt x raw + off) x raw) s)))))))

def execTimeAdjust (r : Req) (raw : Nat) (s : State) : Res := .next (serve 0x903 r (timeAdjust r raw) s)

/-! ### Scheduled pulses (R400) -/

/-- PULSE_SCHEDULE at raw value `raw`. DEDUCED: log entry 66. -/
def pulseSchedule (r : Req) (raw : Nat) (s : State) : Service :=
  let periodic := decide (pb r 1 = 1)
  let t := timeJoin (rd r.payload 4 6) (rd r.payload 10 4) (rd r.payload 14 2)
  let n := rd r.payload 16 8
  shaped r 24 [3]
  (need (decide (pb r 0 ≤ 15)) 0x22 0
  (need (decide (pb r 1 ≤ 1)) 0x22 1
  (need (decide (pb r 2 ≤ 2)) 0x22 2
  (need (decide (rd r.payload 10 4 < 10 ^ 9)) 0x22 10
  (need (!periodic || decide (0 < n)) 0x22 16
  (need (decide (readingOf s (pb r 2) raw + 1000000 * 65536 ≤ t)) 0x32 0
  (okRep [] (setPulse (pb r 0) (some ⟨pb r 2, t, if periodic then some n else none, t⟩) s))))))))

def execPulseSchedule (r : Req) (raw : Nat) (s : State) : Res := .next (serve 0x904 r (pulseSchedule r raw) s)

/-- SCHEDULED_PULSE: the reading has reached the scheduled time of an output. An output in another function makes no pulse. DEDUCED: log entry 66. -/
def scheduledPulse (o raw : Nat) (s : State) : State :=
  match pulseOf s o with
  | none => s
  | some p =>
    let now := readingOf s p.dom raw
    if now < p.next then s
    else
      let s := setPulse o (pulseNext p now) s
      if fld s Fld.CLKOUT_CFG_FUNC o = 4 then sendOut (.pulse o false) s else s

def execScheduledPulse (output : Fin 16) (raw : Nat) (s : State) : Res := .next (scheduledPulse output.val raw s)

end Sys2Proof.Machine
end

