-- ==== Sys2Proof/Machine/Ptp.lean ====
section
/-! DEFINITION. The PTP instances of the domains (R393–R397): best master selection, the servo's input, delay measurement, and the messages of a port. The
spec names IEEE 1588-2019 for message layouts and for the best master clock algorithm and does not repeat them. -/

namespace Sys2Proof.Machine

/-! ### Best master clock algorithm -/

/-- The properties of a grandmaster in order of precedence: priority1, class, accuracy, variance, priority2, identity. -/
def annKey (a : PtpAnn) : List Nat := [a.p1, a.cls, a.acc, a.var, a.p2, a.gm]

/-- Lexicographic order. -/
def listLess : List Nat → List Nat → Bool
  | [], _ => false
  | _ :: _, [] => false
  | a :: x, b :: y => decide (a < b) || (decide (a = b) && listLess x y)

/-- The own clock as a candidate. PRESUMED: log entry 59. -/
def ownAnn (s : State) (d : Nat) : PtpAnn :=
  ⟨fld s Fld.PTP_DS_PRIORITY1 d, fld s Fld.PTP_DS_CLOCK_CLASS d, fld s Fld.PTP_DS_CLOCK_ACCURACY d, 0xFFFF, fld s Fld.PTP_DS_PRIORITY2 d,
   clockIdentity s, 0, clockIdentity s, 0, fld s Fld.RATE_HI_UTC_OFFSET d⟩

/-- Whether what one port hears is preferred to what another hears: the better grandmaster, then the shorter path, then the lower sender and the lower port. PRESUMED: log entry 59. -/
def annBefore (a b : Nat × PtpAnn) : Bool :=
  if a.2.gm ≠ b.2.gm then listLess (annKey a.2) (annKey b.2)
  else listLess [a.2.steps, a.2.src, a.2.srcPort, a.1] [b.2.steps, b.2.src, b.2.srcPort, b.1]

/-- Whether the preference is only by topology: one grandmaster, and paths that do not differ by more than one step. -/
def byTopology (a b : PtpAnn) : Bool := decide (a.gm = b.gm ∧ b.steps ≤ a.steps + 1)

/-- The ports of a domain that are enabled. -/
def ptpPorts (s : State) (d : Nat) : List Nat := (List.range 80).filter (ptpEnabled s d)

/-- What the ports of a domain hear. -/
def heard (s : State) (d : Nat) : List (Nat × PtpAnn) :=
  (ptpPorts s d).filterMap (fun p => (portOfDom s d p).best.map (fun a => (p, a)))

/-- The best of what is heard. -/
def bestHeard (l : List (Nat × PtpAnn)) : Option (Nat × PtpAnn) :=
  l.foldl (fun b x => match b with
    | none => some x
    | some y => if annBefore x y then some x else some y) none

/-- The state of a port by the state decision algorithm. `woken`: its announceReceiptTimeout has expired. -/
def decideState (s : State) (d : Nat) (best : Option (Nat × PtpAnn)) (woken p : Nat) : Nat :=
  let x := portOfDom s d p
  let own := ownAnn s d
  let ownBeats (a : PtpAnn) : Bool := listLess (annKey own) (annKey a)
  let master := if fbit s Fld.PTP_CFG_SLAVE_ONLY d then 0 else 1
  if x.best.isNone ∧ x.st = 0 ∧ p ≠ woken then 0
  else if own.cls < 128 then
    (match x.best with
     | some a => if ownBeats a then master else 3
     | none => master)
  else match best with
    | none => master
    | some (q, a) =>
      if ownBeats a then master
      else if q = p then 2
      else match x.best with
        | some b => if byTopology a b ∧ master = 1 then 3 else master
        | none => master

/-- The slave port of a domain. -/
def slavePort (s : State) (d : Nat) : Option Nat := (ptpPorts s d).find? (fun p => decide ((portOfDom s d p).st = 2))

/-- Show grandmaster, slave port and path; a change of the slave port starts the servo anew (Table 15.15). -/
def showMaster (d : Nat) (old : Option Nat) (s : State) : State :=
  let now := slavePort s d
  let gm := now.isNone && (ptpPorts s d).any (fun p => decide ((portOfDom s d p).st = 1))
  let src := match now with
    | some p => (portOfDom s d p).best.getD (ownAnn s d)
    | none => ownAnn s d
  let eth := match now with
    | some p => decide (64 ≤ p)
    | none => false
  let live := decide (now.isSome = true) || gm
  let s := setFld Fld.TIME_STATUS_GM d (bnat gm) (setFld Fld.TIME_STATUS_ROOT d (bnat (gm || eth)) (setFld Fld.TIME_STATUS_SLAVE_ETH d (bnat eth)
    (setFld Fld.TIME_STATUS_SLAVE_PORT d ((now.getD 0) % 64) s)))
  let s := setFld Fld.TIME_STATUS_GM_CLASS d (if live then src.cls else 0)
    (setFld Fld.TIME_STATUS_STEPS_REMOVED d (if now.isSome then min 255 (src.steps + 1) else 0) s)
  let s := setFld Fld.GM_ID_LO_ID_LO d (if live then src.gm % 2 ^ 32 else 0) (setFld Fld.GM_ID_HI_ID_HI d (if live then src.gm / 2 ^ 32 else 0) s)
  let s := if now.isSome then setFld Fld.RATE_HI_UTC_OFFSET d src.utc s else s
  if now = old then s
  else
    let servo := fld s Fld.TIME_STATUS_SERVO d
    let s := setDom d { domOf s d with meas := 0, last := none } s
    setFld Fld.TIME_STATUS_SERVO d (if now.isNone ∧ 2 ≤ servo then 3 else if now.isNone then 0 else 1) s

/-- Decide the states of all ports of a domain (R394); then R381 chooses again. -/
def ptpDecide (d woken : Nat) (s : State) : State :=
  let old := slavePort s d
  let best := bestHeard (heard s d)
  let s' := forEach (ptpPorts s d) (fun p x =>
    let st := decideState s d best woken p
    let q := portOfDom x d p
    setPtpPort d p (if q.st = st then q else { q with st := st, sync := none, resp := none }) x) s
  selectRef (showMaster d old s')

/-- PTP_CFG changes restart the ports of a domain (R402). -/
def ptpRestart (d : Nat) (s : State) : State :=
  let old := slavePort s d
  selectRef (showMaster d old (setDom d { domOf s d with ports := [] } s))

/-! ### Messages that have arrived -/

/-- The message in what a port received: after the time header on a trace (R395). -/
def ptpBody (m : TimeMsg) : List Byte := if m.port < 64 then m.bytes.drop 4 else m.bytes

/-- The domains that take a message: its INST on a trace, and by domainNumber. -/
def ptpDoms (s : State) (m : TimeMsg) : List Nat :=
  [0, 1].filter (fun d => (decide (64 ≤ m.port) || decide (rd m.bytes 1 1 = d)) && ptpEnabled s d m.port &&
    decide (rd (ptpBody m) 4 1 = domainNumber s d m.port))

/-- Whether what arrived is a message of a type that the engine takes. -/
def ptpIs (type : Nat) (m : TimeMsg) : Bool :=
  (decide (64 ≤ m.port) || decide (rd m.bytes 0 1 = 1)) && decide (34 ≤ (ptpBody m).length ∧ rd (ptpBody m) 1 1 % 16 = 2 ∧ ptpType (ptpBody m) = type)

/-- Whether any row takes what arrived; the rest is discarded (R394, R395). -/
def ptpKnown (m : TimeMsg) : Bool :=
  (decide (m.port < 64 ∧ rd m.bytes 0 1 = 2)) || [0, 1, 2, 3, 8, 9, 10, 11].any (fun k => ptpIs k m)

/-- The oldest message of a type goes to the domains that take it. -/
def ptpTake (type : Nat) (use : Nat → TimeMsg → State → State) (s : State) : State :=
  let s := { s with timeq := s.timeq.filter ptpKnown }
  match s.timeq.find? (ptpIs type) with
  | none => s
  | some m => forEach (ptpDoms s m) (fun d s => use d m s) { s with timeq := s.timeq.erase m }

/-- Whether a message comes from the master of a slave port. -/
def fromMaster (s : State) (d : Nat) (m : TimeMsg) : Bool :=
  let x := portOfDom s d m.port
  decide (x.st = 2) && (match x.best with
    | some a => decide (rd (ptpBody m) 20 8 = a.src ∧ rd (ptpBody m) 28 2 = a.srcPort)
    | none => false)

/-! ### Servo (R393) -/

/-- An offset of the domain from its master, in 2^−16 ns, at raw value `r`: a step above the threshold, else a slew; and the rate follows. DEDUCED: log entry 61. -/
def servoUse (d : Nat) (off r : Int) (s : State) : State :=
  if s.mode = .standby ∨ s.mode = .off then s
  else
    let bw := fld s Fld.PTP_CFG_SERVO_BW d
    let x := { domOf s d with meas := (domOf s d).meas + 1 }
    let s := setFld Fld.OFFSET_OFFSET d (wrapInt 32 (satInt 32 (off / 256)).1) (setDom d x s)
    let s := selectRef (setFld Fld.TIME_STATUS_SERVO d (if Config.servoLocked bw x.meas off then 2 else 1) s)
    if fbit s Fld.PTP_CFG_STEP_EN d ∧ fld s Fld.PTP_RATES_STEP_THRESH d * 1000 * 65536 < off.natAbs then stepDom d (-off) r s
    else
      let x := domOf s d
      showRate d (setDom d (steer (fld s Fld.PTP_RATES_SLEW_MAX d) (Config.servoRate bw off x.base) (-off) x r) s)

/-- The offset from the last Sync, and the servo with it: master's time `t1` with corrections, raw stamp `r2`, at raw value `r`. -/
def servoMeasure (d port : Nat) (t1 r2 r : Int) (s : State) : State :=
  let s := setDom d { domOf s d with last := some (t1, r2) } s
  servoUse d (domAt (domOf s d) r2 - t1 - (portOfDom s d port).delay) r s

/-- A corrected field of a message in 2^−16 ns. -/
def corrOf (m : TimeMsg) : Int := ptpCorr (ptpBody m)

/-- The raw stamp of a message that was received. -/
def stampIn (s : State) (m : TimeMsg) : Int := stampRx s m.port m.t

/-- PTP_SYNC: of two steps, its stamp waits for the Follow_Up; of one step, the measurement is whole. -/
def syncUse (d : Nat) (m : TimeMsg) (s : State) : State :=
  let b := ptpBody m
  if ¬ fromMaster s d m then s
  else if ptpTwoStep b then
    setPtpPort d m.port { portOfDom s d m.port with sync := some (ptpSeq b, stampIn s m, corrOf m) } s
  else servoMeasure d m.port (stampRead b 34 + corrOf m) (stampIn s m) (m.t * 65536 : Nat) s

def execPtpSync (s : State) : Res := .next (ptpTake 0 syncUse s)

/-- FOLLOW_UP: the Sync with its number is measured. -/
def followUse (d : Nat) (m : TimeMsg) (s : State) : State :=
  let b := ptpBody m
  let x := portOfDom s d m.port
  if ¬ fromMaster s d m then s
  else match x.sync with
    | none => s
    | some (n, r2, c) =>
      if n ≠ ptpSeq b then s
      else servoMeasure d m.port (stampRead b 34 + c + corrOf m) r2 (m.t * 65536 : Nat) (setPtpPort d m.port { x with sync := none } s)

def execFollowUp (s : State) : Res := .next (ptpTake 8 followUse s)

/-! ### Delays -/

/-- The port identity of the own port, and that of a message's sender. -/
def ownPortId (s : State) (port : Nat) : List Byte := beBytes 8 (clockIdentity s) ++ beBytes 2 (portNumber port)
def senderId (b : List Byte) : List Byte := (b.drop 20).take 10

/-- Store a mean path delay; that of the slave port is shown in 2^−8 ns. -/
def setDelay (d port : Nat) (x : Int) (s : State) : State :=
  let p := portOfDom s d port
  let s := setPtpPort d port { p with delay := x, req := none, resp := none } s
  if p.st = 2 then setFld Fld.MEAN_DELAY_DELAY d (wrapInt 32 (satInt 32 (x / 256)).1) s else s

/-- DELAY_REQ: a master port stamps it and answers. -/
def delayReqUse (d : Nat) (m : TimeMsg) (s : State) : State :=
  let b := ptpBody m
  if (portOfDom s d m.port).st ≠ 1 ∨ peerDelay s d m.port then s
  else
    let t := domAt (domOf s d) (stampIn s m)
    ptpSend d m.port (ptpMessage s d m.port 9 0 (corrOf m - t % 65536) (ptpSeq b) (stampBytes t ++ senderId b)) s

def execDelayReq (s : State) : Res := .next (ptpTake 1 delayReqUse s)

/-- DELAY_RESP: the delay from the last Sync and the own request; the servo sees the offset with it. -/
def delayRespUse (d : Nat) (m : TimeMsg) (s : State) : State :=
  let b := ptpBody m
  let x := portOfDom s d m.port
  if ¬ fromMaster s d m ∨ (b.drop 44).take 10 ≠ ownPortId s m.port then s
  else match x.req, (domOf s d).last with
    | some (n, r3), some (t1, r2) =>
      if n ≠ ptpSeq b then s
      else
        let t4 := stampRead b 34 - corrOf m
        let t2 := domAt (domOf s d) r2
        let t3 := domAt (domOf s d) r3
        servoMeasure d m.port t1 r2 (m.t * 65536 : Nat) (setDelay d m.port ((t2 - t1 + (t4 - t3)) / 2) s)
    | _, _ => s

def execDelayResp (s : State) : Res := .next (ptpTake 9 delayRespUse s)

/-- PDELAY_REQ: stamped and answered by a two-step Pdelay_Resp; its follow-up goes out once the response's stamp is known (R396). DEDUCED: log entry 61. -/
def pdelayReqUse (d : Nat) (m : TimeMsg) (s : State) : State :=
  let b := ptpBody m
  if ¬ peerDelay s d m.port then s
  else
    let t := domAt (domOf s d) (stampIn s m)
    ptpSendEvent d m.port (ptpMessage s d m.port 3 0x0200 (corrOf m - t % 65536) (ptpSeq b) (stampBytes t ++ senderId b)) m.t s

def execPdelayReq (s : State) : Res := .next (ptpTake 2 pdelayReqUse s)

/-- PDELAY_RESP: of two steps, its stamp waits for the follow-up; of one step, the delay is whole. -/
def pdelayRespUse (d : Nat) (m : TimeMsg) (s : State) : State :=
  let b := ptpBody m
  let x := portOfDom s d m.port
  if (b.drop 44).take 10 ≠ ownPortId s m.port then s
  else match x.req with
    | none => s
    | some (n, r1) =>
      if n ≠ ptpSeq b then s
      else if ptpTwoStep b then setPtpPort d m.port { x with resp := some (n, stampRead b 34, stampIn s m, corrOf m) } s
      else setDelay d m.port ((domAt (domOf s d) (stampIn s m) - domAt (domOf s d) r1 - corrOf m) / 2) s

def execPdelayResp (s : State) : Res := .next (ptpTake 3 pdelayRespUse s)

/-- PDELAY_RESP_FOLLOW_UP: the peer delay is whole. -/
def pdelayFollowUse (d : Nat) (m : TimeMsg) (s : State) : State :=
  let b := ptpBody m
  let x := portOfDom s d m.port
  match x.req, x.resp with
  | some (n, r1), some (n', t2, r4, c) =>
    if n ≠ ptpSeq b ∨ n' ≠ n ∨ (b.drop 44).take 10 ≠ ownPortId s m.port then s
    else
      let turn := domAt (domOf s d) r4 - domAt (domOf s d) r1
      setDelay d m.port ((turn - (stampRead b 34 - t2) - c - corrOf m) / 2) s
  | _, _ => s

def execPdelayRespFollowUp (s : State) : Res := .next (ptpTake 10 pdelayFollowUse s)

/-! ### Announce -/

/-- What an Announce message says. PRESUMED: log entry 59. -/
def annOf (b : List Byte) : PtpAnn :=
  ⟨rd b 47 1, rd b 48 1, rd b 49 1, rd b 50 2, rd b 52 1, rd b 53 8, rd b 61 2, rd b 20 8, rd b 28 2, rd b 44 2⟩

/-- PTP_ANNOUNCE: a port keeps the best it hears, and what it last heard from that sender; then the states are decided. -/
def annUse (d : Nat) (m : TimeMsg) (s : State) : State :=
  let b := ptpBody m
  let a := annOf b
  if b.length < 64 ∨ a.src = clockIdentity s ∨ 255 ≤ a.steps then s
  else
    let x := portOfDom s d m.port
    let take := match x.best with
      | none => true
      | some o => decide (o.src = a.src ∧ o.srcPort = a.srcPort) || annBefore (m.port, a) (m.port, o)
    if take then ptpDecide d 80 (setPtpPort d m.port { x with best := some a } s) else s

def execPtpAnnounce (s : State) : Res := .next (ptpTake 11 annUse s)

/-- ANNOUNCE_RECEIPT_TIMEOUT: a port has heard no Announce of its master; the domain as a reference is invalid when it was the slave port (R380). -/
def annTimeout (d port : Nat) (s : State) : State :=
  let x := portOfDom s d port
  if ¬ ptpEnabled s d port ∨ x.st = 1 then s
  else
    let slave := decide (x.st = 2)
    let s := setPtpPort d port { x with best := none } s
    ptpDecide d port (if slave then refBad (4 + d) s else s)

def execAnnounceReceiptTimeout (dom : Fin 2) (port : Fin 80) (s : State) : Res := .next (annTimeout dom.val port.val s)

/-! ### What ports send -/

/-- The body of the own FRAME_MAP: the latest boundary before raw value `r` (Table 15.6). -/
def frameMapBody (s : State) (d : Nat) (r : Int) : List Byte :=
  let j := boundaryAt s.fs (mapFrame s) (mapTime s) (domAt (domOf s d) r)
  let p := timeParts (mapTime s + framesTime s.fs (j - mapFrame s))
  beBytes 8 j.toNat ++ beBytes 6 p.1 ++ beBytes 4 p.2.1 ++ beBytes 2 p.2.2 ++ beBytes 1 s.fs ++ beBytes 1 (fld s Fld.TIME_STATUS_ROOT d) ++
    beBytes 2 (fld s Fld.STEP_COUNT_STEPS d)

/-- SYNC_INTERVAL at raw time `t` in ns: a master port sends a two-step Sync, and on a trace of a mapped engine its FRAME_MAP; an unmapped root adopts its
mapping (R397). -/
def syncInterval (d port t : Nat) (s : State) : State :=
  let s := rootAdopt d (t * 65536 : Nat) s
  let x := portOfDom s d port
  if ¬ ptpEnabled s d port ∨ x.st ≠ 1 then s
  else
    let n := (x.seqSync + 1) % 65536
    let s := setPtpPort d port { x with seqSync := n } s
    let s := ptpSendEvent d port (ptpMessage s d port 0 0x0200 0 n (List.replicate 10 0)) t s
    if port < 64 ∧ fbit s Fld.CLK_STATUS_FRAME_MAPPED ∧ fld s Fld.CLK_STATUS_MAP_DOM = d then
      linkPut port ⟨2, fld s Fld.TRACE_PEER_PEER port, ownEndpoint s, [2, BitVec.ofNat 8 d, 0, 0] ++ frameMapBody s d (t * 65536 : Nat), none⟩ s
    else s

def execSyncInterval (dom : Fin 2) (port : Fin 80) (t : Nat) (s : State) : Res := .next (syncInterval dom.val port.val t s)

/-- ANNOUNCE_INTERVAL: a master port announces the grandmaster of the domain. -/
def annInterval (d port : Nat) (s : State) : State :=
  let x := portOfDom s d port
  if ¬ ptpEnabled s d port ∨ x.st ≠ 1 then s
  else
    let a := match slavePort s d with
      | some p => let b := (portOfDom s d p).best.getD (ownAnn s d)
        { b with steps := b.steps + 1 }
      | none => ownAnn s d
    let n := (x.seqAnn + 1) % 65536
    ptpSend d port (ptpMessage s d port 11 0 0 n
      (List.replicate 10 0 ++ beBytes 2 a.utc ++ [0] ++ beBytes 1 a.p1 ++ beBytes 1 a.cls ++ beBytes 1 a.acc ++ beBytes 2 a.var ++ beBytes 1 a.p2 ++
        beBytes 8 a.gm ++ beBytes 2 a.steps ++ [0xA0])) (setPtpPort d port { x with seqAnn := n } s)

def execAnnounceInterval (dom : Fin 2) (port : Fin 80) (s : State) : Res := .next (annInterval dom.val port.val s)

/-- DELAY_REQ_INTERVAL at raw time `t` in ns: a Pdelay_Req where the port measures peer to peer, else a slave port's Delay_Req. -/
def delayInterval (d port t : Nat) (s : State) : State :=
  let x := portOfDom s d port
  let peer := peerDelay s d port
  if ¬ ptpEnabled s d port ∨ (¬ peer ∧ x.st ≠ 2) then s
  else
    let n := (x.seqReq + 1) % 65536
    let s := setPtpPort d port { x with seqReq := n } s
    ptpSendEvent d port (ptpMessage s d port (if peer then 2 else 1) 0 0 n (List.replicate (if peer then 20 else 10) 0)) t s

def execDelayReqInterval (dom : Fin 2) (port : Fin 80) (t : Nat) (s : State) : Res := .next (delayInterval dom.val port.val t s)

end Sys2Proof.Machine
end

