-- ==== Sys2Proof/Machine/Mode.lean ====
section
/-! DEFINITION. The modes (R21, R22, R442–R444): MODE_SET, SAFE triggers by mains and temperature (R450, R451, R453), what takes place when a mode is
entered, streams that a mode starts and ends (R52, R437), the AVS floor (R38) and the shutdown sequence up to its end (R451). -/

namespace Sys2Proof.Machine

/-! ### Streams (R52, R143, R320, R437) -/

/-- Whether a stream is that of a port or PDM input. -/
def isPortStream (s : State) (k : Nat) : Bool := (List.range 48).any (fun p => decide ((portOf s p).stream = some k))

/-- The streams of the live program start; those of ports that are not started wait for their start trigger. DEDUCED: log entry 71. -/
def streamsStart (s : State) : State :=
  let s := forEach s.liveStreams (fun x s => if isPortStream s x.index then s else setActive (some x.index) true s) s
  forEach (List.range 48) (fun p s => if portRunning s p then setActive (portOf s p).stream true s else s) s

/-- Every stream ends. -/
def streamsOff (s : State) : State := forEach (smapKeys s.ledger.cur) (fun k s => setActive (some k) false s) s

/-- Whether an override route carries the streams of a node: an OVR edge begins or ends at it, or an override sink binds what it binds (R431). -/
def carriedByOvr (s : State) (id : Nat) : Bool :=
  s.live.edges.any (fun e => ovrEdge e && decide (e.srcNode = id ∨ e.dstNode = id)) ||
    (match nodeOf s.live id with
     | none => false
     | some n => s.live.nodes.any (fun m => decide (m.kind = n.kind ∧ m.bind = n.bind) && testBit m.config1 2))

/-- At SAFE entry the streams that no override route carries end (R437). DEDUCED: log entry 71. -/
def streamsSafe (s : State) : State :=
  forEach s.liveStreams (fun x s => if carriedByOvr s x.node then s else setActive (some x.index) false s) s

/-! ### The AVS floor (R38) -/

/-- Whether the floor of 0.60 V is in force. -/
def avsFloor (s : State) : Bool :=
  decide (s.mode = .safe) || (List.range 16).any (fun h => tapLoaded (brewOf s h)) || decide (s.frame < s.fg.floorUntil)

/-- The floor as it stands now. DEDUCED: log entry 103. -/
def avsFloorUpdate (s : State) : State := if avsFloor s then avsFloorOn s else clrBit Fld.AVS_STATUS_TAP_FLOOR 0 s

/-- TAP_FLOOR_END: AVS_WINDOW frames have passed since the tap took effect or was spilled. -/
def tapFloorEnd (s : State) : State :=
  avsFloorUpdate (if s.fg.floorUntil ≤ s.frame then { s with fg := { s.fg with floorUntil := 0 } } else s)

def execTapFloorEnd (s : State) : Res := .next (tapFloorEnd s)

/-! ### Pending transitions (R442, R444) -/

/-- Show the transition that takes effect first. -/
def showPend (s : State) : State :=
  match s.power.pend with
  | [] => setFld Fld.MODE_STATUS_PENDING 0 0 (clrBit Fld.MODE_STATUS_PEND_VALID 0 s)
  | p :: _ => setFld Fld.MODE_STATUS_PENDING 0 p.target (setBit Fld.MODE_STATUS_PEND_VALID 0 s)

def setPend (l : List PendMode) (s : State) : State := showPend { s with power := { s.power with pend := l } }

/-- A SAFE trigger with its cause (R22, R442, R444): a pending transition to RUN or SHADOW is cancelled; in RUN or SHADOW SAFE follows at I + 1, and a takeover or
a switch-over is cancelled; one SAFE trigger is pending at most. DEDUCED: log entry 74. -/
def safeTrigger (cause : Nat) (s : State) : State :=
  if s.mode = .run ∨ s.mode = .shadow then
    if s.power.pend.any (fun p => decide (p.target = 5 ∧ 2 ≤ p.cause)) then s
    else
      let s := switchCancel { s with pair := { s.pair with takeoverAt := none } }
      setPend (⟨5, s.frame + 1, cause⟩ :: s.power.pend.filter (fun p => decide (p.target = 2))) s
  else if s.mode = .configure then setPend (s.power.pend.filter (fun p => decide (p.target ≠ 3 ∧ p.target ≠ 4))) s
  else s

/-- An override that takes effect cancels a pending transition from RUN or SAFE to CONFIGURE (R436). -/
def cancelConfigure (s : State) : State :=
  if s.mode = .run ∨ s.mode = .safe then setPend (s.power.pend.filter (fun p => decide (p.target ≠ 2))) s else s

/-! ### Entering a mode -/

/-- The mode becomes `m` at boundary `b`. -/
def modeBecomes (m : Mode) (b : Nat) (s : State) : State :=
  let old := modeCode s.mode
  let s := setFld Fld.ENGINE_MODE_MODE 0 (modeCode m) (setFld Fld.MODE_STATUS_MODE 0 (modeCode m) { s with mode := m })
  raiseAt b 0xC0 (modeCode m) old s

/-- The main withdraws PAIR_ACT (R368). -/
def pairActLow (s : State) : State := clrBit Fld.SHADOW_STATUS_PAIR_ACT 0 s

/-- RUN governs frame `b` (R21, R36, R368, R411). A temperature at the warning threshold leads to SAFE at once (R453). DEDUCED: log entry 74. -/
def enterRun (b : Nat) (s : State) : State :=
  let s := avsStart (streamsStart (modeBecomes .run b s))
  let s := if fld s Fld.SHADOW_STATUS_STATE = 1 ∧ fld s Fld.FG_STATUS_CONSEC < 2 then setBit Fld.SHADOW_STATUS_PAIR_ACT 0 s else s
  let s := ampTrigger s
  if fbit s Fld.THERM_STATUS_WARN_ACTIVE then safeTrigger 3 s else s

/-- The standby starts to acquire the main's state (R370). -/
def acquireStart (s : State) : State :=
  setPairState 2 (setFld Fld.SHADOW_STATUS_ACQ_PROGRESS 0 0
    { s with pair := { s.pair with equalRun := 0, done := 0, copied := (areaStalls s).isEmpty, regs := [], cut := none, hold := none, got := 0,
                                   own := [], peer := [] } })

/-- SHADOW governs frame `b`: the standby enters ACQUIRE (R369); an old main whose partner has taken over becomes the standby, in ACQUIRE if AUTO_REACQ is 1,
else in DIVERGED (R376). The amplifier channels stop (R414), and a temperature at the warning threshold leads to SAFE at once (R453). -/
def enterShadow (b : Nat) (s : State) : State :=
  let s := avsStart (avsFloorUpdate (streamsStart (pairActLow (modeBecomes .shadow b s))))
  let old := s.pair.displaced
  let s := setFld Fld.SHADOW_PARTNER_ROLE 0 2 { s with pair := { s.pair with displaced := false, locked := false, copy := none } }
  let s := forEach allAmps requestStop s
  let s := if old ∧ ¬ fbit s Fld.SHADOW_CTRL_AUTO_REACQ then setPairState 4 s else acquireStart s
  if fbit s Fld.THERM_STATUS_WARN_ACTIVE then safeTrigger 3 s else s

/-- SAFE governs frame `b` (R21, R414, R437). -/
def enterSafe (cause b : Nat) (s : State) : State :=
  let s := { s with power := { s.power with before := modeCode s.mode } }
  let s := setFld Fld.MODE_STATUS_SAFE_CAUSE 0 cause (pairActLow (modeBecomes .safe b s))
  let s := forEach allAmps gainGo (streamsSafe (avsFloorOn s))
  ovrWake b s

/-- CONFIGURE governs frame `b` (R38, R412, R442). DEDUCED: log entry 74. -/
def enterConfigure (b : Nat) (s : State) : State :=
  let s := avsRest (avsFloorUpdate (streamsOff (pairActLow (modeBecomes .configure b s))))
  let s := forEach (List.range 8) wakeGroup s
  let s := forEach allAmps requestStop s
  if 2 ≤ fld s Fld.SHADOW_STATUS_STATE then setPairState 0 (switchCancel { s with pair := { s.pair with takeoverAt := none } }) else s

/-- The pending transitions whose boundary is `b` take effect, the stronger first. -/
def modeEnter (p : PendMode) (b : Nat) (s : State) : State :=
  match p.target with
  | 2 => enterConfigure b s
  | 3 => enterRun b s
  | 4 => enterShadow b s
  | 5 => enterSafe p.cause b s
  | _ => s

/-- The modes at boundary `b`. -/
def modesBoundary (b : Nat) (s : State) : State :=
  match s.power.pend.find? (fun p => decide (p.frame ≤ b)) with
  | none => s
  | some p => modeEnter p b (setPend (s.power.pend.erase p) s)

/-! ### MODE_SET (R443) -/

/-- Whether the live program is certified at the present Fs (R136). -/
def liveCertified (s : State) : Bool :=
  let hs := (s.pages.map (fun p => liveHdr p.2)).filter PageHeader.hasProgram
  !hs.isEmpty && hs.all (fun h => decide (h.fs = s.fs))

/-- Whether an armed brew makes a program certified at the present Fs live at or before boundary `e`. -/
def armedCertified (s : State) (e : Nat) : Bool :=
  (List.range 15).any (fun h => let b := brewOf s h
    decide (b.st = .armed ∧ b.tap ≤ e) && b.out.isSome && decide (b.outFs = s.fs))

/-- The tap frame of a brew that is PREPARED or ARMED in a group that includes the partner. -/
def pairTap (s : State) : Option Nat :=
  (List.range 15).findSome? (fun h => let b := brewOf s h
    match b.grp with
    | some g => if (b.st = .prepared ∨ b.st = .armed) ∧ g.parts.any (fun p => decide (p.endpoint = fld s Fld.SHADOW_PARTNER_PARTNER)) then some b.tap else none
    | none => none)

/-- Whether Table 18.1 has a transition by MODE_SET between two modes. -/
def modeStep (m : Mode) (tgt : Nat) : Bool :=
  match m, tgt with
  | .configure, 1 | .configure, 3 | .configure, 4 | .run, 5 | .shadow, 5 | .run, 2 | .shadow, 2 | .safe, 2 => true
  | _, _ => false

/-- Whether the amplifier stop has ended: no channel switches or settles. -/
def ampsStopped (s : State) : Bool := allAmps.all (fun c => !ampSwitching s c && decide (ampState s c ≠ 2))

/-- Entry into STANDBY (R446): the outputs are lowered in reverse order, PWR_GAP apart. DESIGN CHOICE: log entry 73. -/
def standbyEnter (s : State) : State :=
  let s := spillAll (modeBecomes .standby s.frame s)
  let s := forEach (liveTraces s) traceStop s
  { s with power := { s.power with en := 3, seq := 3, boot := 1, pend := [] } }

/-- MODE_SET 1: the amplifiers stop and the brews are spilled, then STANDBY is entered. -/
def standbyStart (s : State) : State :=
  let s := spillAll (forEach allAmps requestStop (setPend [] s))
  let s := { s with power := { s.power with seq := 4 } }
  if ampsStopped s then standbyEnter s else s

/-- A transition accepted for boundary `e` replaces one that is pending, but not a SAFE trigger. -/
def modePend (tgt e : Nat) (s : State) : Service :=
  let s := switchCancel { s with power := { s.power with seq := if s.power.seq = 4 then 0 else s.power.seq } }
  okRep (beBytes 8 e) (setPend (s.power.pend.filter (fun p => decide (p.target = 5 ∧ 2 ≤ p.cause)) ++ [⟨tgt, e, if tgt = 5 then 1 else 0⟩]) s)

/-- MODE_SET. DEDUCED: log entry 74. -/
def modeSet (r : Req) (s : State) : Service :=
  let tgt := pb r 0
  let now := modeCode s.mode
  let e := s.frame + 2
  shaped r 4 [1, 2, 3]
  (need (decide (1 ≤ tgt ∧ tgt ≤ 5)) 0x22 0
  (if tgt = now then okRep (beBytes 8 s.frame) s
   else need (modeStep s.mode tgt) 0x62 now
    (match tgt with
     | 1 => okRep (beBytes 8 (Config.standbyFrame s.frame % 2 ^ 64)) (standbyStart s)
     | 2 => need (decide (s.mode = .shadow) || !fbit s Fld.OVR_STATUS_IN_EFFECT) 0x2F 0 (modePend 2 e s)
     | 3 => need (liveCertified s || armedCertified s e) 0x63 0
        (need (!fbit s Fld.THERM_STATUS_WARN_ACTIVE) 0x62 now (modePend 3 e s))
     | 4 => need (!fbit s Fld.THERM_STATUS_WARN_ACTIVE) 0x62 now
        (need (decide (fld s Fld.SHADOW_PARTNER_ROLE = 2)) 0x64 0
        (match pairTap s with
         | some f => modePend 4 f s
         | none => need (liveCertified s) 0x63 0 (modePend 4 e s)))
     | _ => modePend 5 e s)))

def execModeSet (r : Req) (s : State) : Res := .next (serve 0xD00 r (modeSet r) s)

/-! ### Temperature (R453) -/

/-- THERMAL_WARN: the sensors report, in °C; at THERM_WARN or above the warning holds and is a SAFE trigger, and its start sets the flag and raises the event. DEDUCED: log entry 75. -/
def thermalWarn (tj : List (BitVec 8)) (s : State) : State :=
  let best := ((List.range tj.length).zip tj).foldl (fun (b : Nat × Int) x => if b.2 < x.2.toInt then (x.1, x.2.toInt) else b) (0, -128)
  let warn := decide ((fld s Fld.THERM_CTRL_THERM_WARN : Int) ≤ best.2)
  let was := fbit s Fld.THERM_STATUS_WARN_ACTIVE
  let s := setFld Fld.THERM_STATUS_TJ_MAX 0 (wrapInt 8 best.2) (setFld Fld.THERM_STATUS_SENSOR 0 best.1 (setFld Fld.THERM_STATUS_WARN_ACTIVE 0 (bnat warn) s))
  if ¬ warn then s
  else safeTrigger 3 (if was then s else raise 0xC1 (wrapInt 32 best.2) 0 (setBit Fld.THERM_STATUS_WARN_STICKY 0 s))

def execThermalWarn (tj : List (BitVec 8)) (s : State) : Res := .next (if s.power.boot = 0 then thermalWarn tj s else s)

/-! ### Mains (R450–R452) -/

/-- The mean of the last intervals between zero crosses, at most 8, in µs. -/
def halfPeriod (s : State) : Nat := if s.power.spans.isEmpty then 0 else (s.power.spans.foldl (· + ·) 0) / s.power.spans.length

/-- The wake from STANDBY by a source of Table 18.2 (R445, R446). DEDUCED: log entry 81. -/
def wake (source lane : Nat) (s : State) : State :=
  if s.mode ≠ .standby ∨ s.power.seq ≠ 0 ∨ s.power.en ≠ 0 ∨ s.power.boot ≠ 1 then s
  else
    let s := setFld Fld.WAKE_STATUS_SOURCE 0 source (setFld Fld.WAKE_STATUS_LANE 0 (if source = 5 then lane else 0) s)
    { s with power := { s.power with en := 1, seq := 1 } }

/-- Mains is declared present. -/
def mainsPresent (s : State) : State :=
  let s := raise 0xC2 0 0 (setBit Fld.MAINS_STATUS_PRESENT 0 s)
  let s := if s.power.shut.phase = 1 ∨ s.power.shut.phase = 2 then { s with power := { s.power with shut := ⟨0, 0, 0, 0, 0, 0⟩ } } else s
  if fbit s Fld.WAKE_CTRL_WAKE_MAINS then wake 2 0 s else s

/-- ZERO_CROSS at a time in µs. DEDUCED: log entry 75. -/
def zeroCross (us : Nat) (s : State) : State :=
  if ¬ fbit s Fld.MAINS_CTRL_MAINS_EN ∨ s.mode = .off then s
  else
    let spans := match s.power.lastCross with
      | some k => ((us - k) :: s.power.spans).take 8
      | none => s.power.spans
    let s := { s with power := { s.power with spans := spans, lastCross := some us, missed := 0 } }
    let h := halfPeriod s
    let good := decide (7900 ≤ h ∧ h ≤ 10700)
    let s := setFld Fld.MAINS_STATUS_HALF_PERIOD 0 (h / 10) { s with power := { s.power with crosses := if good then s.power.crosses + 1 else 0 } }
    if ¬ fbit s Fld.MAINS_STATUS_PRESENT ∧ 8 ≤ s.power.crosses then mainsPresent s else s

def execZeroCross (us : Nat) (s : State) : Res := .next (zeroCross us s)

/-- Loss of mains (R450, R451). DEDUCED: log entry 75. -/
def mainsLost (s : State) : State :=
  let n := fld s Fld.MAINS_CTRL_N_MISS
  let h := halfPeriod s
  let s := raise 0xC2 1 n (clrBit Fld.MAINS_STATUS_PRESENT 0 (setBit Fld.MAINS_STATUS_LOST_STICKY 0 s))
  let s := safeTrigger 2 { s with power := { s.power with spans := [], lastCross := none, crosses := 0, missed := 0 } }
  if fbit s Fld.MAINS_CTRL_MAINS_ACTION ∧ s.power.shut.phase = 0 ∧ s.power.boot = 0 ∧ s.mode ≠ .standby ∧ s.mode ≠ .off then
    { s with power := { s.power with shut := ⟨1, s.frame + 1, 0, modeCode s.mode, n, h⟩ } }
  else s

/-- MISSING_HALF_CYCLE: the deadline of one more half-cycle passes without a cross. -/
def missingHalfCycle (s : State) : State :=
  if ¬ fbit s Fld.MAINS_CTRL_MAINS_EN ∨ ¬ fbit s Fld.MAINS_STATUS_PRESENT ∨ s.mode = .off then s
  else
    let s := { s with power := { s.power with missed := s.power.missed + 1, crosses := 0 } }
    if fld s Fld.MAINS_CTRL_N_MISS ≤ s.power.missed then mainsLost s else s

def execMissingHalfCycle (s : State) : Res := .next (missingHalfCycle s)

/-- Boundary `b` at raw value `raw`, in 2^−16 ns, is D of a shutdown sequence: the record's frame, seconds and mode are fixed. -/
def shutBoundary (b : Nat) (raw : Int) (s : State) : State :=
  let x := s.power.shut
  if x.phase = 1 ∧ x.frame ≤ b then
    { s with power := { s.power with shut := { x with phase := 2, frame := b, secs := (timeParts (domAt s.domA raw)).1,
                                                      before := if s.mode = .safe then s.power.before else modeCode s.mode } } }
  else s

/-- A channel's share in the shutdown (Table 18.3): its gain falls along its ramp, or it is at rest. DEDUCED: log entry 75. -/
def shutChannel (c : Nat) (s : State) : State := if ampState s c = 5 then s else stopStart c s

/-- SHUTDOWN_DELAY_END. -/
def shutdownDelayEnd (s : State) : State :=
  if s.power.shut.phase ≠ 2 then s
  else forEach allAmps shutChannel { s with power := { s.power with shut := { s.power.shut with phase := 3 } } }

def execShutdownDelayEnd (s : State) : Res := .next (shutdownDelayEnd s)

/-- The shutdown record in vault bytes 0–31 (R452). -/
def shutRecord (s : State) : State :=
  let x := s.power.shut
  let bytes := beBytes 4 0x5A534844 ++ beBytes 8 x.frame ++ beBytes 6 x.secs ++ beBytes 1 x.before ++ beBytes 1 x.nmiss ++ beBytes 4 x.h ++ List.replicate 8 0
  let v := ((List.range 32).zip bytes).foldl (fun m p => smapSet (fun _ => 0) p.1 p.2 m) s.power.vault
  setBit Fld.MAINS_STATUS_SHUTDOWN_STICKY 0 { s with power := { s.power with vault := v } }

/-- ENABLE_LOW_DELAY: 10 µs after the last channel concerned is STOPPED, ENABLE goes low for the channels at rest of every group in which none still stops
(R412, Table 16.4). It ends the shutdown sequence with its record, and lets an entry into STANDBY go on. -/
def enableLowDelay (s : State) : State :=
  let s := forEach (List.range 8) (fun g s =>
    if (ampGroup g).any (fun c => decide (ampState s c = 5)) then s
    else forEach (ampGroup g) (fun c s => if ampState s c ≤ 1 then clrBit Fld.AMP_STATE_ENABLE c s else s) s) s
  if ¬ ampsStopped s then s
  else if s.power.shut.phase = 3 then standbyEnter (shutRecord s)
  else if s.power.seq = 4 then standbyEnter s
  else s

def execEnableLowDelay (s : State) : Res := .next (enableLowDelay s)

end Sys2Proof.Machine
end

