-- ==== Sys2Proof/Machine/Pair.lean ====
section
/-! DEFINITION. Shadow pairs (R367–R376): pairing, the acquire copy, the comparison of digests, takeover and switch-over. -/

namespace Sys2Proof.Machine

/-- The state of the pair (Table 14.3). -/
def pairState (s : State) : Nat := fld s Fld.SHADOW_STATUS_STATE

/-- The partner's endpoint ID, and whether there is one. -/
def partnerId (s : State) : Nat := fld s Fld.SHADOW_PARTNER_PARTNER
def hasPartner (s : State) : Bool := fbit s Fld.SHADOW_PARTNER_ROLE

/-- The mirror trace toward an endpoint: kind 2, in UP, lowest number. -/
def mirrorTo (s : State) (ep : Nat) : Option Nat :=
  (liveTraces s).find? (fun t => traceUp s t && decide (fld s Fld.TRACE_CFG_KIND t = 2 ∧ fld s Fld.TRACE_PEER_PEER t = ep))

/-- Make a pair with an endpoint in a role, over a trace. -/
def pairMake (ep role : Nat) (trace : Option Nat) (s : State) : State :=
  let s := setFld Fld.SHADOW_PARTNER_PARTNER 0 ep (setFld Fld.SHADOW_PARTNER_ROLE 0 role { s with pair := pairNone })
  let s := match trace with
    | some t => setFld Fld.SHADOW_MIRROR_TRACE 0 t (setFld Fld.SHADOW_MIRROR_VALID 0 1 s)
    | none => s
  setPairState (if role = 1 then 1 else 0) { s with pair := { s.pair with lastPeer := s.frame } }

/-! ### Pairing (R369) -/

/-- A SHADOW_PAIR that still waits is answered PARTNER_ABSENT. -/
def pairWaitEnds (s : State) : State :=
  match s.pair.wait with
  | some q => answer q ⟨0x64, 0, 0, []⟩ s
  | none => s

/-- An accepted SHADOW_PAIR for endpoint `ep`: a main is made at once, a standby asks its partner. -/
def pairStart (r : Req) (ep role : Nat) (p : Rep) (s : State) : State :=
  if role = 1 then answer r p (pairMake ep 1 (mirrorTo s ep) s)
  else match mirrorTo s ep with
    | none => answer r p s
    | some t => sendRecordOn t 4 (pairBody s 1 0 0) { s with pair := { s.pair with wait := some r } }

/-- SHADOW_PAIR: ROLE 1 prepares a main; ROLE 2 sends the request, and the reply waits for its answer. DEDUCED: log entry 84. -/
def shadowPair (r : Req) (s : State) : State :=
  let ep := rd r.payload 0 4
  let role := pb r 4
  match taken 0xB02 r s with
  | none => s
  | some s =>
    match shaped r 8 [5, 6, 7]
      (need (decide (ep < 2 ^ 18 ∧ ep ≠ ownEndpoint s)) 0x22 0
      (need (decide (role = 1 ∨ role = 2)) 0x22 4
      (need (decide (s.mode = .configure)) 0x23 (modeCode s.mode)
      (need (decide (role = 1) || (mirrorTo s ep).isSome) 0x64 0 (okRep [] s))))) with
    | .error p => answer r p s
    | .ok (p, s) => pairStart r ep role p (pairWaitEnds s)

def execShadowPair (r : Req) (s : State) : Res := .next (shadowPair r s)

/-- The oldest PAIR record with an ACTION. -/
def takePair (action : Nat) (s : State) : Option (MgmtRec × State) :=
  takeRec (fun r => decide (r.kind = 4 ∧ rd r.body 0 1 = action ∧ r.body.length = 16)) s

/-- PAIR_REQUEST; `same`: this engine runs the program that the standby has compiled. DEDUCED: log entry 84. -/
def pairRequest (same : Bool) (s : State) : State :=
  match takePair 1 s with
  | none => s
  | some (r, s) =>
    let ep := rd r.body 4 4
    match r.trace with
    | none => s
    | some t =>
      let role := fld s Fld.SHADOW_PARTNER_ROLE
      if (s.mode = .configure ∨ s.mode = .run) ∧ same ∧ (role = 0 ∨ (role = 1 ∧ partnerId s = ep)) then
        let s := pairMake ep 1 (some t) s
        let s := if s.mode = .run ∧ fld s Fld.FG_STATUS_CONSEC < 2 then setBit Fld.SHADOW_STATUS_PAIR_ACT 0 s else s
        sendRecordOn t 4 (pairBody s 2 0 0) s
      else sendRecordOn t 4 (pairBody s 3 0x64 0) s

def execPairRequest (same : Bool) (s : State) : Res := .next (pairRequest same s)

/-- PAIR_ACCEPT: SHADOW_PAIR is answered OK. -/
def pairAccept (s : State) : State :=
  match takePair 2 s with
  | none => s
  | some (m, s) =>
    match s.pair.wait with
    | none => s
    | some r => if rd m.body 4 4 ≠ rd r.payload 0 4 then s else answer r ⟨0, 0, 0, []⟩ (pairMake (rd r.payload 0 4) 2 m.trace s)

def execPairAccept (s : State) : Res := .next (pairAccept s)

/-- PAIR_REFUSE: SHADOW_PAIR is answered PARTNER_ABSENT. -/
def pairRefuse (s : State) : State :=
  match takePair 3 s with
  | none => s
  | some (m, s) =>
    match s.pair.wait with
    | none => s
    | some r => if rd m.body 4 4 ≠ rd r.payload 0 4 then s else answer r ⟨0x64, 0, 0, []⟩ { s with pair := { s.pair with wait := none } }

def execPairRefuse (s : State) : Res := .next (pairRefuse s)

/-! ### The acquire copy at the main (R370) -/

/-- A bulk packet of the acquire stream to the partner. -/
def acquirePut (t use addr : Nat) (data : List Byte) (s : State) : State :=
  linkPut t ⟨1, partnerId s, ownEndpoint s, beBytes 8 (use * 2 ^ 60 + addr) ++ data, none⟩ s

/-- The copy at the start of a stall. -/
def copyAt (s : State) (k : Nat) : Option CopySt := (areaStalls s)[k]?.map (fun u => ⟨k, areasOf s u, 0, [], [], [], none⟩)

/-- A standby that acquires has asked for the copy. -/
def copyStart (s : State) : State :=
  { s with pair := { s.pair with copy := copyAt s 0, copied := (areaStalls s).isEmpty, locked := false, equalRun := 0 } }

/-- Queue writes to forward. -/
def forwardAll (t : Nat) (ws : List (Nat × List Byte)) (s : State) : State := forEach ws (fun w s => acquirePut t 8 w.1 w.2 s) s

/-- The 16-byte entries of a stall's registers. -/
def regEntries (rs : List (Nat × Nat)) : List Byte := rs.flatMap (fun r => beBytes 2 r.1 ++ [0, 0] ++ beBytes 12 r.2)

/-- The CUT sequence: registers, then the end. -/
def cutSend (t u b : Nat) (rs : List (Nat × Nat)) (s : State) : State :=
  let n := (rs.length + 254) / 255
  let s := forEach (List.range n) (fun i s => acquirePut t 9 u (regEntries ((rs.drop (255 * i)).take 255)) s) s
  acquirePut t 10 u (beBytes 8 b) s

/-- Whether a CUT sequence of frame `b` that starts at raw time `time` can land before the release of frame b + 1 gives up. DESIGN CHOICE: log entry 85. -/
def cutInTime (s : State) (b time : Nat) : Bool :=
  decide (s.frame ≤ b) || (decide (s.frame = b + 1) && decide (time ≤ s.tick + fld s Fld.SHADOW_CTRL_CUT_WAIT))

/-- When the mirror trace has no bulk packet of the copy waiting, the next ones are made: forwarded writes, the next piece of at most 4,088 bytes, or the CUT
sequence. A cut that is too late is made again at a later SYNC. DESIGN CHOICE: log entry 85. -/
def copyFeed (t time : Nat) (s : State) : State :=
  match s.pair.copy with
  | none => s
  | some c =>
    if (traceOf s t).queue.any (fun p => decide (p.vc = 1)) then s
    else
      let s := forwardAll t c.forwards { s with pair := { s.pair with copy := some { c with forwards := [] } } }
      match c.areas, c.cut with
      | (a, len) :: rest, _ =>
        let n := min 4088 (len - c.offset)
        let s := acquirePut t 8 (a + c.offset) (memBytes s (a + c.offset) n) s
        let more := decide (c.offset + n < len)
        { s with pair := { s.pair with copy := some { c with
            forwards := [], areas := if more then (a, len) :: rest else rest, offset := if more then c.offset + n else 0,
            watched := c.watched ++ [(a + c.offset, n)] } } }
      | [], some (b, rs) =>
        let u := (areaStalls s).getD c.stall 0
        let s := cutSend t u b rs s
        if cutInTime s b time then
          let next := copyAt s (c.stall + 1)
          { s with pair := { s.pair with copy := next, copied := next.isNone, lastCut := b } }
        else { s with pair := { s.pair with copy := some { c with forwards := c.after, after := [], cut := none } } }
      | [], none => s

/-- PACKET_TX (R338) on a trace; on the mirror trace the acquire copy feeds VC 1. -/
def execPacketTx (trace : Fin 64) (poison : Bool) (t : Nat) (s : State) : Res :=
  .next (packetTx trace.val poison t (if mirrorTrace s = some trace.val ∧ traceUp s trace.val then copyFeed trace.val t s else s))

/-! ### The acquire at the standby (R370) -/

/-- The stall that the standby acquires. -/
def acquiring (s : State) : Option Nat := if pairState s = 2 ∧ ¬ s.pair.copied then (areaStalls s)[s.pair.done]? else none

/-- The address at an offset of a list of areas. -/
def areaAddr : List (Nat × Nat) → Nat → Option Nat
  | [], _ => none
  | (a, n) :: t, o => if o < n then some (a + o) else areaAddr t (o - n)

/-- Bytes of a list of areas. -/
def areaBytes (l : List (Nat × Nat)) : Nat := (l.map Prod.snd).foldl (· + ·) 0

/-- The oldest acquire payload of a use. -/
def takeAcq (use : Nat) (s : State) : Option (AcqItem × State) :=
  match s.acqq with
  | x :: rest => if x.use = use then some (x, { s with acqq := rest }) else none
  | [] => none

/-- ACQUIRE_DATA: a piece of the copy or a forwarded write, applied in VC order. -/
def acquireData (s : State) : State :=
  match takeAcq 8 s with
  | none => s
  | some (x, s) =>
    match acquiring s with
    | none => s
    | some u =>
      let a := x.addr % 2 ^ 35
      let got := if areaAddr (areasOf s u) s.pair.got = some a then s.pair.got + x.data.length else s.pair.got
      memPoke a x.data { s with pair := { s.pair with got := got } }

def execAcquireData (s : State) : Res := .next (acquireData s)

/-- ACQUIRE_REGISTERS: registers of a stall, for its cut. -/
def acquireRegisters (s : State) : State :=
  match takeAcq 9 s with
  | none => s
  | some (x, s) =>
    let u := x.addr % 1024
    let rs := (List.range (x.data.length / 16)).map (fun i => (u, rd x.data (16 * i) 2 % 256, rd x.data (16 * i + 4) 12))
    if acquiring s = some u then { s with pair := { s.pair with regs := s.pair.regs ++ rs } } else s

def execAcquireRegisters (s : State) : Res := .next (acquireRegisters s)

/-- CUT_END: in time, the registers are installed before the stall's first issue of frame b + 1; a held release takes place at raw time `t`. -/
def cutEnd (t : Nat) (s : State) : State :=
  match takeAcq 10 s with
  | none => s
  | some (x, s) =>
    let u := x.addr % 1024
    let b := rd x.data 0 8
    if acquiring s ≠ some u then s
    else
      let s' := { s with pair := { s.pair with cut := some (u, b) } }
      if s.frame ≤ b then s'
      else if s.frame = b + 1 ∧ s.pair.hold = some u then startStall u s.frame t s'
      else if s.frame = b + 1 ∧ (unitOf s u).frame ≤ b ∧ (unitOf s u).st ≠ .ended then s'
      else { s with pair := { s.pair with regs := [] } }

def execCutEnd (t : Nat) (s : State) : Res := .next (cutEnd t s)

/-- CUT_WAIT_EXPIRY: the held stall is released without the registers. -/
def cutWaitExpiry (t : Nat) (s : State) : State :=
  match s.pair.hold with
  | none => s
  | some u => startStall u s.frame t (countFld Fld.SHADOW_SWITCH_COUNT_CUT_MISS 0 { s with pair := { s.pair with hold := none, regs := [], cut := none } })

def execCutWaitExpiry (t : Nat) (s : State) : Res := .next (cutWaitExpiry t s)

/-- Whether the release of a stall for frame `b` is held for its cut: every area has arrived and the cut of b − 1 has not. DESIGN CHOICE: log entry 85. -/
def cutHolds (s : State) (u b : Nat) : Bool :=
  decide (acquiring s = some u) && decide (areaBytes (areasOf s u) ≤ s.pair.got) && decide (s.pair.cut ≠ some (u, b - 1)) &&
    decide (0 < fld s Fld.SHADOW_CTRL_CUT_WAIT)

/-! ### Outputs of the amplifier bank (R368, R375, R376, R414) -/

/-- The gate and ENABLE outputs are given up at once: every channel is at rest. -/
def ampsGiveUp (s : State) : State :=
  forEach allAmps (fun c s =>
    if ampState s c ≤ 1 ∨ ampState s c = 6 then clrBit Fld.AMP_STATE_ENABLE c s
    else
      let s := testAbort c s
      clrBit Fld.AMP_STATE_LOCKED c (clrBit Fld.AMP_STATE_ENABLE c (setAmpState c (restState s c)
        (setAmp c { ampOf s c with ready := false, quick := false, stopReq := false, gain := 0, side := false } s)))) s

/-- A new main drives ENABLE from the boundary and does not wait WAKE_SETTLE (R411). -/
def ampsTakeOver (s : State) : State :=
  let s := forEach allAmps (fun c s => if ampEn s c then beginRelease false true c (clrBit Fld.AMP_SIL_STATUS_ASLEEP c s) else s) s
  forEach (List.range 8) releaseGroup s

/-! ### Takeover and switch-over (R374, R375) -/

/-- A new main has no takeover, switch, hold or cut pending. -/
def mainPair (s : State) : State :=
  { s with pair := { s.pair with takeoverAt := none, switchAt := none, lastPeer := s.frame, hold := none, cut := none, displaced := false } }

/-- The standby becomes MAIN in RUN at the present boundary, with a gap in frames. DEDUCED: log entry 87. -/
def becomeMain (gap : Nat) (s : State) : State :=
  let s := mainPair (avsStart (modeBecomes .run s.frame (setFld Fld.SHADOW_PARTNER_ROLE 0 1 (setPairState 1 s))))
  let s := if fld s Fld.FG_STATUS_CONSEC < 2 then setBit Fld.SHADOW_STATUS_PAIR_ACT 0 s else s
  let s := presentAgain (ampsTakeOver s)
  let s := raise 0xB1 (ownEndpoint s) gap (setBit Fld.SHADOW_STATUS_SWITCH_STICKY 0 (countFld Fld.SHADOW_SWITCH_COUNT_SWITCHES 0 s))
  if fbit s Fld.THERM_STATUS_WARN_ACTIVE then safeTrigger 3 s else s

/-- The first boundary at least 300 ns after raw time `t`. -/
def takeoverFrame (s : State) (t : Nat) : Nat := boundaryFrom s ((t + 300) * 1000)

/-- A PAIR_SENSE that is low at raw time `t` schedules the takeover of a standby that may take over. DEDUCED: log entry 83. -/
def senseLow (t : Nat) (s : State) : State :=
  let st := pairState s
  if s.mode = .shadow ∧ fbit s Fld.SHADOW_CTRL_AUTO_EN ∧ s.pair.takeoverAt.isNone ∧
    (st = 3 ∨ (fbit s Fld.SHADOW_CTRL_FORCE_EN ∧ (st = 2 ∨ st = 4))) then
    { s with pair := { s.pair with takeoverAt := some (takeoverFrame s t) } }
  else s

/-- PAIR_SENSE_LOW at raw time `t`. The gap counts from the frame in which the main can have stopped: PAIR_ACT goes low within 1 µs, and 20 ns pass
until it is seen. DEDUCED: log entry 83. -/
def sensed (t : Nat) (s : State) : State :=
  let s := clrBit Fld.SHADOW_STATUS_PAIR_SENSE 0 s
  { s with pair := { s.pair with lowFrame := if s.tick + 1020 ≤ t then s.frame else s.frame - 1 } }
def execPairSenseLow (t : Nat) (s : State) : Res := .next (senseLow t (sensed t s))

/-- TAKEOVER at its boundary. DEDUCED: log entry 83. -/
def takeover (s : State) : State :=
  match s.pair.takeoverAt with
  | none => s
  | some k =>
    if s.frame < k ∨ s.mode ≠ .shadow then s
    else
      let s := becomeMain (s.frame - s.pair.lowFrame) s
      { s with pair := { s.pair with locked := false, copied := false } }

def execTakeover (s : State) : Res := .next (takeover s)

/-- A new standby holds the whole state of its main. -/
def standbyPair (s : State) : State :=
  { s with pair := { s.pair with switchAt := none, copied := true, copy := none, locked := false } }

/-- The old main of a commanded switch becomes the standby in LOCKED. DEDUCED: log entry 87. -/
def becomeStandby (s : State) : State :=
  let s := avsStart (setFld Fld.SHADOW_PARTNER_ROLE 0 2 (setPairState 3 (pairActLow (modeBecomes .shadow s.frame s))))
  let s := presentAgain (ampsGiveUp (standbyPair s))
  raise 0xB1 (partnerId s) 0 (setBit Fld.SHADOW_STATUS_SWITCH_STICKY 0 (countFld Fld.SHADOW_SWITCH_COUNT_SWITCHES 0 s))

/-- The new main knows its old main as a LOCKED standby and reports that the switch is done. -/
def switchDone (k : Nat) (s : State) : State :=
  let s := { s with pair := { s.pair with locked := true, copied := true } }
  match mirrorTrace s with
  | some t => sendRecordOn t 4 (pairBody s 5 0 k) s
  | none => s

/-- COMMANDED_SWITCHOVER at boundary s. The new main reports that the switch is done. -/
def commandedSwitchover (s : State) : State :=
  match s.pair.switchAt with
  | none => s
  | some k =>
    if s.frame < k then s
    else if pairState s = 1 ∧ s.mode = .run then becomeStandby s
    else if pairState s = 3 ∧ s.mode = .shadow then switchDone k (becomeMain 0 s)
    else switchCancel s

def execCommandedSwitchover (s : State) : Res := .next (commandedSwitchover s)

/-- Whether the standby of the pair is LOCKED, as this engine knows it. -/
def standbyLocked (s : State) : Bool := decide (pairState s = 3) || (decide (pairState s = 1) && s.pair.locked)

/-- SWITCHOVER: s = I + 8. -/
def switchover (r : Req) (s : State) : Service :=
  let k := s.frame + 8
  shaped r 0 []
  (need (hasPartner s && (mirrorTrace s).isSome) 0x64 0
  (need (standbyLocked s) 0x2F 0
  (okRep (beBytes 8 k) (match mirrorTrace s with
    | some t => sendRecordOn t 4 (pairBody s 4 0 k) { s with pair := { s.pair with switchAt := some k } }
    | none => s))))

def execSwitchover (r : Req) (s : State) : Res := .next (serve 0xB03 r (switchover r) s)

/-- PAIR_SWITCH: the partner announces boundary s; refused when the standby is not LOCKED or s has passed. -/
def pairSwitch (s : State) : State :=
  match takePair 4 s with
  | none => s
  | some (m, s) =>
    let k := rd m.body 8 8
    let s := { s with pair := { s.pair with switchAt := some k } }
    if ¬ hasPartner s ∨ rd m.body 4 4 ≠ partnerId s then { s with pair := { s.pair with switchAt := none } }
    else if s.frame < k ∧ (pairState s = 3 ∨ pairState s = 1) then s
    else switchCancel s

def execPairSwitch (s : State) : Res := .next (pairSwitch s)

/-- PAIR_SWITCH_DONE: a cancellation ends the pending switch here as well. -/
def pairSwitchDone (s : State) : State :=
  match takePair 5 s with
  | none => s
  | some (m, s) =>
    if rd m.body 4 4 = partnerId s ∧ hasPartner s ∧ rd m.body 2 2 ≠ 0 ∧ s.pair.switchAt = some (rd m.body 8 8) then switchCancel s else s

def execPairSwitchDone (s : State) : Res := .next (pairSwitchDone s)

/-! ### The old main (R376) -/

/-- PAIR_SENSE_HIGH: a main whose PAIR_ACT is low gives up its outputs and regions; from RUN or SAFE it enters SHADOW at the next boundary. DEDUCED: log entry 87. -/
def pairSenseHigh (s : State) : State :=
  let s := setBit Fld.SHADOW_STATUS_PAIR_SENSE 0 s
  if pairState s = 1 ∧ ¬ fbit s Fld.SHADOW_STATUS_PAIR_ACT ∧ (s.mode = .run ∨ s.mode = .safe ∨ s.mode = .configure) then
    let s := presentAgain (ampsGiveUp { s with pair := { s.pair with displaced := true } })
    if s.mode = .configure then s else setPend (⟨4, s.frame + 1, 0⟩ :: s.power.pend.filter (fun p => decide (p.target ≠ 4))) s
  else s

def execPairSenseHigh (s : State) : Res := .next (pairSenseHigh s)

/-- STANDBY_RECORD_LOSS: no record of the standby for LOSS_COUNT frames. -/
def standbyRecordLoss (s : State) : State :=
  if pairState s = 1 ∧ s.pair.lastPeer + fld s Fld.HERD_CTRL_LOSS_COUNT ≤ s.frame then
    raise 0xB2 (partnerId s) 0 { s with pair := { s.pair with lastPeer := s.frame } }
  else s

def execStandbyRecordLoss (s : State) : Res := .next (standbyRecordLoss s)

/-! ### Comparison (R373) -/

/-- A divergence at frame `b`: counted, recorded, raised. -/
def diverge (b : Nat) (s : State) : State :=
  let s := setBit Fld.SHADOW_STATUS_DIV_STICKY 0 (countFld Fld.SHADOW_DIV_COUNT_COUNT 0 s)
  raise 0xB0 (partnerId s) b (setPair Fld.SHADOW_LAST_DIV_LO_FRAME_LO Fld.SHADOW_LAST_DIV_HI_FRAME_HI 0 b s)

/-- Whether two records of a frame agree: equal digests, and no swept word of the main's that differs from the own capture. -/
def recordsAgree (own peer : DigestRec) : Bool :=
  decide (own.digest = peer.digest) && peer.sweep.all (fun w => match own.sweep.find? (fun x => decide (x.1 = w.1)) with
    | some x => decide (x.2 = w.2)
    | none => true)

/-- The standby compares frame `f`. DEDUCED: log entries 83, 86. -/
def standbyCompare (f : Nat) (s : State) : State :=
  match s.pair.own.find? (fun d => decide (d.frame = f)), s.pair.peer.find? (fun d => decide (d.frame = f)) with
  | some a, some b =>
    if testBit a.flags 0 ∨ testBit b.flags 0 ∨ (pairState s = 2 ∧ ¬ s.pair.copied) then
      countFld Fld.SHADOW_SKIP_COUNT_COUNT 0 (if pairState s = 2 then { s with pair := { s.pair with equalRun := 0 } } else s)
    else if recordsAgree a b then
      let s := { s with pair := { s.pair with equalRun := s.pair.equalRun + 1 } }
      if pairState s = 2 ∧ fld s Fld.SHADOW_CTRL_LOCK_FRAMES ≤ s.pair.equalRun then setPairState 3 s else s
    else
      let s := { s with pair := { s.pair with equalRun := 0 } }
      if pairState s ≠ 3 then s
      else
        let s := switchCancel (diverge f s)
        if fbit s Fld.SHADOW_CTRL_AUTO_REACQ then acquireStart s else setPairState 4 s
  | _, _ => countFld Fld.SHADOW_SKIP_COUNT_COUNT 0 (if pairState s = 2 then { s with pair := { s.pair with equalRun := 0 } } else s)

/-- The main follows the comparison: it knows when its standby is LOCKED and counts a divergence as well. DEDUCED: log entry 86. -/
def mainCompare (f : Nat) (s : State) : State :=
  match s.pair.own.find? (fun d => decide (d.frame = f)), s.pair.peer.find? (fun d => decide (d.frame = f)) with
  | some a, some b =>
    if testBit a.flags 0 ∨ testBit b.flags 0 ∨ testBit b.flags 1 ∨ ¬ s.pair.copied then
      (if s.pair.locked then s else { s with pair := { s.pair with equalRun := 0 } })
    else if recordsAgree a b then
      let n := s.pair.equalRun + 1
      { s with pair := { s.pair with equalRun := n, locked := s.pair.locked || decide (fld s Fld.SHADOW_CTRL_LOCK_FRAMES ≤ n) } }
    else
      let was := s.pair.locked
      let s := { s with pair := { s.pair with equalRun := 0, locked := false, copied := s.pair.copied && !was } }
      if was then diverge f s else s
  | _, _ => if s.pair.locked then s else { s with pair := { s.pair with equalRun := 0 } }

/-- A main whose standby says that it acquires starts the copy. DESIGN CHOICE: log entry 85. -/
def copyCheck (s : State) : State :=
  match s.pair.peer with
  | d :: _ => if s.pair.copy.isNone ∧ testBit d.flags 1 ∧ s.pair.lastCut < d.frame then copyStart s else s
  | [] => s

/-- What boundary `b` at raw time `t` does for the pair; a standby that has become eligible while PAIR_SENSE is low takes over (R374). DEDUCED: log entry 129. -/
def pairBoundary (b t : Nat) (s : State) : State :=
  let st := pairState s
  let s := if b < 3 then s
    else if st = 1 then mainCompare (b - 3) s
    else if 2 ≤ st then standbyCompare (b - 3) s
    else s
  if st = 1 then copyCheck s else if fbit s Fld.SHADOW_STATUS_PAIR_SENSE then s else senseLow t s

end Sys2Proof.Machine
end

