-- ==== Sys2Proof/Machine/Reset.lean ====
section
/-! DEFINITION. Resets (R45, R453–R460), option loading (R461), the release of the domains (R216, R217, R463), the boot ROM (R462), and block resets with their
isolation (R464, R465). -/

namespace Sys2Proof.Machine

/-! ### What a reset leaves (R11, R57, R207, R216, R217, R455, R468) -/

/-- The registers of the always-on island: mains, wake, power switching (R445, R446). DEDUCED: log entry 76. -/
def alwaysOnReg (a : Nat) : Bool := decide (0x520 ≤ a ∧ a ≤ 0x534)

/-- The word of a register after a reset: kept fields unless power was lost, and fields of the backup domain. -/
def keptWord (por : Bool) (a : Nat) (w : Word32) : Word32 :=
  match regAt a with
  | none => 0
  | some (row, _) =>
    BitVec.ofNat 32 (row.fields.foldl (fun acc f =>
      if f.backup || (decide (f.rst = .kept) && !por) then putBits f.hi f.lo acc (bitsOf f.hi f.lo w.toNat) else acc) (regDefault a).toNat)

/-- The entry of a register with a word: none where the word is what the register reads unlisted. -/
def listed (a : Nat) (w : Word32) : Option (Nat × Word32) := if w = regDefault a then none else some (a, w)

/-- The registers after a reset. `dark`: the always-on island has lost its supply as well. DEDUCED: log entry 76. -/
def keptRegs (por dark : Bool) (s : State) : SMap Word32 :=
  s.regs.filterMap (fun x => listed x.1 (if alwaysOnReg x.1 ∧ ¬ dark then x.2 else keptWord por x.1 x.2))

/-- What the reset controller holds when a reset begins. -/
def resetPower (p : PowerSt) : PowerSt :=
  { p with pend := [], fw := false, shut := ⟨0, 0, 0, 0, 0, 0⟩, toReset := [], image := [], avsBusy := none, avsNext := none, avsTries := 0, avsAcked := none,
           before := 2, isoFrames := [] }

/-- The engine with every domain in reset. Memories and the program in them, the cellar's host regions and graphs, the report of the frame guard and the levels of the
balls stay; what waits in the model's queue and what has been sent stay. DEDUCED: log entry 77. DESIGN CHOICE: log entry 117. -/
def domainsReset (por dark : Bool) (s : State) : State :=
  let z := State.reset
  let sense := fld s Fld.SHADOW_STATUS_PAIR_SENSE
  let n : State := { z with
    pending := s.pending, sent := s.sent, fresh := s.fresh, regs := keptRegs por dark s, evtWait := [],
    mem := s.mem, progMem := s.progMem, pages := (s.pages.map (fun p => (p.1, { p.2 with since := 0 }))).filter (fun p => decide (p.2 ≠ pagesEmpty)), drvMem := s.drvMem, ueWords := s.ueWords, ceWords := s.ceWords, regions := s.regions,
    work := s.work, live := s.live, kernels := s.kernels, params := s.params, liveParams := s.liveParams, liveSlots := s.liveSlots, liveCellar := s.liveCellar,
    liveTasks := s.liveTasks, livePosts := s.livePosts, liveAreas := s.liveAreas, liveRegs := s.liveRegs, liveSweep := s.liveSweep, liveStreams := s.liveStreams, liveRx := s.liveRx,
    ports := (s.ports.map (fun p => (p.1, { portIdle with stream := p.2.stream }))).filter (fun p => decide (p.2 ≠ portIdle)),
    fg := if por then z.fg else { z.fg with report := s.fg.report, reportFrame := s.fg.reportFrame },
    ovrBalls := s.ovrBalls, power := resetPower s.power }
  setFld Fld.SHADOW_STATUS_PAIR_SENSE 0 sense n

/-- Set causes (Table 18.5). -/
def setCause (causes : Nat) (s : State) : State := setFld Fld.RESET_CAUSE_CAUSE 0 (fld s Fld.RESET_CAUSE_CAUSE ||| causes) s

/-- Show a mode that no boundary brings. -/
def showModeNow (m : Mode) (s : State) : State :=
  setFld Fld.ENGINE_MODE_MODE 0 (modeCode m) (setFld Fld.MODE_STATUS_MODE 0 (modeCode m) { s with mode := m })

/-- A reset of the engine with the causes `causes`; `clear`: the memories are cleared at release; `por`: P fields are reset. In OFF every domain is in reset already; in
STANDBY, before a wake has power, only the cause is kept. DEDUCED: log entry 77. -/
def engineReset (causes : Nat) (clear por : Bool) (s : State) : State :=
  if s.mode = .off then s
  else
    let s := setCause causes s
    let s := { s with power := { s.power with report := true } }
    if s.mode = .standby ∧ s.power.boot ≤ 1 then s
    else
      let m := if s.mode = .standby then Mode.standby else Mode.configure
      let clear := clear || (s.power.clear && decide (s.power.boot ≠ 0))
      let held := s.power.pinLow || s.power.hot
      let n := domainsReset por false s
      showModeNow m { n with power := { n.power with boot := if held then 1 else 2, clear := clear, seq := 0 } }

/-- The hold of a reset ends: option loading is due. -/
def releaseHold (s : State) : State :=
  if s.power.boot = 1 ∧ ¬ s.power.pinLow ∧ ¬ s.power.hot ∧ s.mode ≠ .off ∧ s.power.en = 4 ∧ s.power.seq = 0 then { s with power := { s.power with boot := 2 } } else s

/-- FG_FATAL_RESET (R45): CONSEC has reached FATAL_COUNT. -/
def fgFatal (s : State) : State := if fld s Fld.FG_CTRL_FATAL_COUNT ≤ fld s Fld.FG_STATUS_CONSEC then engineReset 0x80 false false s else s
def execFgFatalReset (s : State) : Res := .next (fgFatal s)

/-- WDOG_EXPIRY (R457). -/
def execWdogExpiry (s : State) : Res := .next (if fbit s Fld.WDOG_CTRL_WDOG_EN ∧ s.power.fw then engineReset 8 false false s else s)

/-- CRIT_ERR (R456); `where_` + 1 is the code of CRIT_WHERE. -/
def execCritErr (where_ : Fin 5) (s : State) : Res :=
  .next (if s.mode = .off then s else engineReset 0x40 false false (setFld Fld.RESET_CAUSE_CRIT_WHERE 0 (where_.val + 1) s))

/-- SUPPLY_MONITOR_TRIP (R454) on a switched rail. -/
def execSupplyMonitorTrip (s : State) : Res := .next (if s.mode = .standby ∧ s.power.boot ≤ 1 then s else engineReset 1 true true s)

/-- PWR_GOOD_LOSS (R481): after the wake has completed it is a power-on reset. -/
def pwrGoodLoss (s : State) : State :=
  let s := clrBit Fld.SUPPLY_STATUS_PWR_GOOD 0 s
  if s.power.en = 4 ∧ s.power.seq = 0 ∧ ¬ (s.mode = .standby ∧ s.power.boot ≤ 1) then engineReset 1 true true s else s
def execPwrGoodLoss (s : State) : Res := .next (pwrGoodLoss s)

/-- THERMAL_TRIP and its release (R453). -/
def execThermalTrip (s : State) : Res := .next (if s.mode = .off then s else engineReset 0x20 false false { s with power := { s.power with hot := true } })
def execThermalTripRelease (s : State) : Res := .next (releaseHold { s with power := { s.power with hot := false } })

/-- RESETN_PIN (R459): low for `ns` (a pulse between the limits of the filter is taken or not), or the rising edge. -/
def resetnPin (low : Bool) (ns : Nat) (taken : Bool) (s : State) : State :=
  if low then
    (if ns < 100 ∨ (ns < 1000 ∧ ¬ taken) ∨ s.mode = .off then s else engineReset 4 false false { s with power := { s.power with pinLow := true } })
  else releaseHold { s with power := { s.power with pinLow := false } }
def execResetnPin (low : Bool) (ns : Nat) (taken : Bool) (s : State) : Res := .next (resetnPin low ns taken s)

/-! ### Option loading (R461) -/

/-- Bytes of the boot flash; a byte that nothing has written reads FFh. DEDUCED: log entry 9. -/
def flashBytes (s : State) (a n : Nat) : List Byte := (List.range n).map (fun i => smapGet (fun _ => 0xFF) s.power.flash (a + i))
def flashPut (a : Nat) (bs : List Byte) (s : State) : State :=
  { s with power := { s.power with flash := (bs.zip (List.range bs.length)).foldl (fun m x => smapSet (fun _ => 0xFF) (a + x.2) x.1 m) s.power.flash } }

/-- The boot-flash header (Table 18.7), and whether it is valid. -/
def flashHeader (s : State) : List Byte := flashBytes s 0 64
def headerValid (h : List Byte) : Bool := decide (rd h 0 4 = 0x5A424F54 ∧ crc32c (h.take 60) = rd h 60 4)

/-- The fields that the header gives. -/
def loadHeader (h : List Byte) (s : State) : State :=
  let s := if rd h 16 4 = 0xFFFFFFFF then s else setFld Fld.ENDPOINT_ID_ID 0 (rd h 16 4) s
  let s := setFld Fld.NET_IP_ADDR_ADDR 0 (rd h 20 4) (setFld Fld.NET_IP_MASK_MASK 0 (rd h 24 4) (setFld Fld.NET_IP_GW_GW 0 (rd h 28 4) s))
  let net := rd h 32 4
  let s := setFld Fld.NET_CTRL_UDP_EN 0 (net % 2) (setFld Fld.NET_CTRL_HOE_EN 0 (net / 2) (setFld Fld.NET_CTRL_GARP_EN 0 (net / 4)
    (setFld Fld.NET_CTRL_IP_PORT 0 (net / 256) (setFld Fld.NET_CTRL_DSCP 0 (net / 4096) s))))
  let s := forEach (bitList 32 (rd h 36 4)) (fun c s => setBit Fld.AMP_CFG_EN c s) s
  { s with keys := (bitList 8 (rd h 40 1)).map (fun k => (k, flashBytes s (rd h 44 4 + 32 * k) 32)) }

/-- The lanes that the straps give to the PCIe endpoint. DEDUCED: log entry 79. -/
def pcieLanes (straps : Nat) : List Nat := (List.range ([0, 1, 2, 4].getD (straps / 4 % 4) 0)).map (fun i => 60 + i)

/-- OPTION_LOADING: straps, OTP, header. DEDUCED: log entry 79. -/
def optionLoading (straps : Nat) (otp : Otp) (s : State) : State :=
  if s.power.boot ≠ 2 then s
  else
    let s := setFld Fld.ID_OPTIONS_OPTIONS 0 (straps + 2 ^ 16 * otp.options.toNat) s
    let s := forEach (List.range 4) (fun i s => setFld Fld.ID_UID_UID i (otp.uid.toNat / 2 ^ (32 * i)) s) s
    let s := setFld Fld.ETH_MAC_LO_MAC_LO 0 otp.mac.toNat (setFld Fld.ETH_MAC_HI_MAC_HI 0 (otp.mac.toNat / 2 ^ 32) s)
    let avs := otp.avs.toNat
    let s := setFld Fld.AVS_IF_CTRL_PMBUS_ADDR 0 avs (setFld Fld.AVS_IF_CTRL_VOFS 0 (avs / 256) (setFld Fld.AVS_IF_CTRL_IF_EN 0 (avs / 65536) s))
    let s := forEach (List.range 64) (fun n s =>
      setFld Fld.LANE_CFG_TX_SWING n otp.swing.toNat (setFld Fld.LANE_CFG_TX_EMPH n otp.emph.toNat s)) s
    let s := forEach (pcieLanes straps) (fun n s => setFld Fld.LANE_CFG_MODE n 3 s) s
    let s := setFld Fld.ENDPOINT_ID_ID 0 (straps / 64 % 64) s
    let h := flashHeader s
    let s := if headerValid h then loadHeader h s else setBit Fld.MODE_STATUS_HDR_INVALID 0 s
    { s with power := { s.power with boot := 3 } }
def execOptionLoading (straps : BitVec 16) (otp : Otp) (s : State) : Res := .next (optionLoading straps.toNat otp s)

/-! ### Release (R216, R217, R462, R463) -/

/-- The engine enters CONFIGURE once step 8 has ended and the firmware runs; the first boot after a reset reports its causes (R455). Channels with EN = 1 are STOPPED. -/
def bootDone (s : State) : State :=
  if s.power.boot ≠ 11 ∨ ¬ s.power.fw then s
  else
    let report := s.power.report
    let s := { s with power := { s.power with boot := 0, clear := false, report := false } }
    let s := forEach allAmps (fun c s => setAmpState c (restState s c) s) s
    let s := if s.mode = .standby then modeBecomes .configure s.frame s else s
    if report then raise 0xC3 (fld s Fld.RESET_CAUSE_CAUSE) 0 s else s

/-- Step 3: the cellar is trained, and cleared where R216 applies. -/
def releaseCellar (s : State) : State :=
  let s := forEach (List.range 8) (fun c s => setFld Fld.CELLAR_CH_STATUS_STATE c 2 s) s
  let s := if s.power.clear then
      { s with mem := s.mem.filter (fun m => decide (m.1 < 0x400000000)), ueWords := s.ueWords.filter (fun w => decide (w < 0x400000000)),
               ceWords := s.ceWords.filter (fun w => decide (w < 0x400000000)), regions := [], work := graphEmpty, kernels := [], params := [] }
    else s
  setBit Fld.MEM_STATUS_CELLAR_READY 0 s

/-- Step 4: scratchpads, local memories, program pages and PSEL are cleared where R216 applies. -/
def releaseLocal (s : State) : State :=
  if s.power.clear then
    setBit Fld.MEM_STATUS_CLEAR_DONE 0
      { s with mem := s.mem.filter (fun m => decide (0x400000000 ≤ m.1)), ueWords := s.ueWords.filter (fun w => decide (0x400000000 ≤ w)),
               ceWords := s.ceWords.filter (fun w => decide (0x400000000 ≤ w)), progMem := [], pages := [], drvMem := [], live := graphEmpty,
               liveParams := [], liveSlots := [], liveCellar := [], liveTasks := [], livePosts := [], liveAreas := [], liveRegs := [], liveSweep := [],
               liveStreams := [], strips := [],
               liveRx := [], ports := (s.ports.map (fun p => (p.1, { p.2 with stream := none }))).filter (fun p => decide (p.2 ≠ portIdle)) }
  else clrBit Fld.MEM_STATUS_CLEAR_DONE 0 s

/-- RELEASE_STEP: the next step of Table 18.8 ends, at raw time `t`; with step 2, the channels of the cellar begin to train; `linear`: VOUT_MODE of the regulator is ULINEAR16 (R466). -/
def releaseStep (linear : Bool) (t : Nat) (s : State) : State :=
  let k := s.power.boot
  if k < 3 ∨ 10 < k then s
  else
    let s := { s with power := { s.power with boot := k + 1 } }
    match k with
    | 3 =>
      let s := { s with frame := 0, tick := t, tickPrev := t }
      if fbit s Fld.AVS_IF_CTRL_IF_EN ∧ ¬ linear then setBit Fld.AVS_IF_STATUS_IF_FAULT 0 s else s
    | 4 => forEach (List.range 8) (fun c s => setFld Fld.CELLAR_CH_STATUS_STATE c 1 s) s
    | 5 => releaseCellar s
    | 6 => releaseLocal s
    | 10 => bootDone s
    | _ => s
def execReleaseStep (linear : Bool) (t : Nat) (s : State) : Res := .next (releaseStep linear t s)

/-- Whether the boot ROM runs: released in step 2, and no firmware yet. -/
def romRuns (s : State) : Bool := decide (5 ≤ s.power.boot) && !s.power.fw

/-- BOOT_DATA_WRITE: the next word of a host's image. -/
def bootDataWrite (w : Word32) (s : State) : State := if romRuns s then { s with power := { s.power with image := s.power.image ++ [w] } } else s
def execBootDataWrite (value : Word32) (s : State) : Res := .next (bootDataWrite value s)

/-- BOOT_GO: the ROM verifies the image; `ok`: its signature passes. An image whose length is not BOOT_LEN fails. DEDUCED: log entry 79. -/
def bootGo (ok : Bool) (s : State) : State :=
  if ¬ romRuns s then s
  else
    let len := fld s Fld.BOOT_LEN_LEN
    if ok ∧ len = 4 * s.power.image.length ∧ 4 ≤ len ∧ len ≤ 4194304 then setBit Fld.BOOT_CTRL_BUSY 0 (clrBit Fld.BOOT_CTRL_FAIL 0 s)
    else setBit Fld.BOOT_CTRL_FAIL 0 (setBit Fld.MODE_STATUS_BOOT_FAIL 0 { s with power := { s.power with image := [] } })
def execBootGo (ok : Bool) (s : State) : Res := .next (bootGo ok s)

/-- FIRMWARE_START: the image of a flash slot (0, 1) with BOOT = 0 or 3, or the verified host image (2), starts with its version. DEDUCED: log entry 79. -/
def firmwareStart (from_ : Nat) (version : Word32) (s : State) : State :=
  let boot := fld s Fld.ID_OPTIONS_OPTIONS % 4
  if ¬ romRuns s then s
  else if from_ = 2 ∧ ¬ fbit s Fld.BOOT_CTRL_BUSY then s
  else if from_ ≠ 2 ∧ ¬ (boot = 0 ∨ boot = 3) then s
  else
    let v := if from_ = 2 then version.toNat else version.toNat % 2 ^ 24 + 2 ^ 24 * from_
    bootDone (setFld Fld.FW_VERSION_VERSION 0 v (clrBit Fld.BOOT_CTRL_BUSY 0 { s with power := { s.power with fw := true, slot := from_, image := [] } }))
def execFirmwareStart (from_ : Fin 3) (version : Word32) (s : State) : Res := .next (firmwareStart from_.val version s)

/-! ### Block resets (R243, R252, R320, R331, R464, R465) -/

/-- The bit of BLOCK_RST_STATUS of a BLOCK code (Tables 18.9 and 18.10). -/
def resetBit (code : Nat) : Option Nat :=
  if code < 4 then some code
  else if 0x10 ≤ code ∧ code < 0x20 then some (16 + code - 0x10)
  else if 0x20 ≤ code ∧ code ≤ 0x24 then some (4 + code - 0x20)
  else none

/-- Close the sessions whose source satisfies `p`. -/
def closeSources (p : Source → Bool) (t : Nat) (s : State) : State :=
  forEach (s.sessions.filter (fun x => p x.source)) (fun x s => closeSession x.num t s) s

/-- Drop the packets that wait for, or came over, a transport. -/
def dropPackets (p : Source → Bool) (s : State) : State :=
  { s with rxq := s.rxq.filter (fun x => !p x.source), txq := s.txq.filter (fun x => !p x.source) }

def onLinks : Source → Bool
  | .trace _ | .eth _ | .udp _ _ => true
  | _ => false
def onPcie : Source → Bool
  | .pcie _ => true
  | _ => false

/-- The frames that a block's units do not run while it is held. -/
def noteIso (bit : Nat) (frames : List Nat) (s : State) : State :=
  { s with power := { s.power with isoFrames := s.power.isoFrames ++ (frames.map (fun f => (bit, f))).filter (fun x => !s.power.isoFrames.contains x) } }

/-- The units of a block that run a frame are idle; the frame counts as one in which the block was held. -/
def idleUnit (bit u : Nat) (s : State) : State :=
  let r := unitOf s u
  let s := if r.st = .ended then s else noteIso bit [r.frame] s
  setUnit u { r with st := .ended } s

/-- A stall of a yard in reset (R57): its samples in exchange slots count BLOCK_RESET; its own SENDs wait at no slot, those of other yards' stalls wait on for its
empty slots (R82); the flag of its live page is set (R131). DESIGN CHOICE: log entry 80. -/
def stallBlockReset (u : Nat) (s : State) : State :=
  let st := stallOf s u
  let n := ((List.range 16).map (fun i => ((slotOf st i).entries.filter ExchEntry.here).length)).foldl (· + ·) 0
  let h := liveHdr (pagesOf s u)
  let s := ledgerAdd h.exchStream n 0 (if 0 < n then some (causeBlockReset, n) else none) s
  let sent (q : ExchSlot) : ExchSlot := { slotEmpty with waiters := q.waiters.filter (fun w => match w with
    | .sender v => decide (v / 256 ≠ u / 256)
    | .fill _ _ => false) }
  let s := forEach (smapKeys s.stalls) (fun v s => forEach (List.range 16) (fun i s => dropWaiter v i u s) s) s
  let fresh := (List.range 16).foldl (fun x i => setSlot i (sent (slotOf st i)) x) { stallReset with tokenMoves := st.tokenMoves }
  let s := idleUnit (u / 256) u (setStall u fresh s)
  if h.hasProgram then memPoke (localBase u + 0x3FF0 + 8 * bnat (pagesOf s u).live) (leBytes 8 1) s else s

/-- A frame channel of a drover in reset that has not begun: its whole move counts BLOCK_RESET. -/
def chanBlockReset (d c : Nat) (s : State) : State :=
  let i := chanIdx d c
  let s := if (unitOf s (1024 + i)).st = .ended then s
    else
      let ch := chanOf s i
      let s := ledgerAdd ch.stream ch.samples 0 (some (causeBlockReset, ch.samples)) s
      idleUnit (16 + d) (1024 + i) (setFld Fld.CH_STATUS_END_CODE i 6 s)
  setFld Fld.CH_STATUS_STATE i 0 s

/-- A drover in reset at raw time `t`: its program ends with END_CODE RESET; a bake or BREW_LOAD that it carried ends MEM_ERROR and the brew returns to OPEN. DESIGN CHOICE: log entry 80. -/
def droverBlockReset (d : Nat) (brews : List Nat) (t : Nat) (s : State) : State :=
  let s := programEnd d 6 t s
  let s := forEach (List.range 8) (chanBlockReset d) s
  forEach brews (fun h s =>
    let b := brewOf s h
    if b.st = .baking then
      let s := match b.job with
        | some j => endJob j 2 0x30 0 noFrame s
        | none => s
      brewReopen h s
    else match s.jobs.find? (fun j => decide (j.state = 0) && (match j.work with
        | .load k _ => decide (k = h)
        | _ => false)) with
      | some j => endJob j.handle 2 0x30 0 0 s
      | none => s) s

/-- The link engines in reset. -/
def linksBlockReset (t : Nat) (s : State) : State :=
  let s := forEach (List.range 64) (fun n s => clrBit Fld.LANE_STATUS_LOCKED n s) s
  let s := forEach (liveTraces s) (fun n s => traceFail n (Config.linkResetCause n) 1 s) s
  closeSources onLinks t s

/-- The amplifier bank in reset: no ramp, every channel OFF, limits cleared. -/
def ampsBlockReset (s : State) : State :=
  let s := forEach allAmps (fun c s =>
    let s := testAbort c s
    let s := clrBit Fld.AMP_STATE_LOCKED c (clrBit Fld.AMP_STATE_ENABLE c (setAmpState c 0 (setAmp c { ampIdle with diag := (ampOf s c).diag } s)))
    forEach [0, 4, 8, 12, 16, 20, 24, 28] (fun o s => setRegWord (0x43000 + 0x20 * c + o) 0 s) s) s
  clrBit Fld.AMP_GCTRL_REQUIRE_LIMIT 0 { s with reqLimit := false }

/-- A block reset begins (R465): its wrapper closes and its block goes into reset. `brews`: those that the drover carried. It is discarded while the engine itself is
in reset or release (R460). DESIGN CHOICE: log entry 80. -/
def blockIsolate (code : Nat) (brews : List Nat) (t : Nat) (s : State) : State :=
  match resetBit code with
  | none => s
  | some bit =>
    if s.power.boot ≠ 0 then s
    else
      let w := (regWord s 0x514).toNat
      let s := setRegWord 0x514 (BitVec.ofNat 32 (w ||| 2 ^ bit)) s
      let s := noteIso bit [s.frame] { s with bursts := s.bursts.map (fun x => if targetIsolated s x.target then { x with kind := .isolated } else x) }
      if code < 4 then forEach ((List.range 256).map (fun i => 256 * code + i)) stallBlockReset s
      else if code < 0x20 then droverBlockReset (code - 0x10) brews t s
      else match code with
        | 0x20 => linksBlockReset t s
        | 0x21 => portsReset s
        | 0x22 => ampsBlockReset s
        | 0x23 => dropPackets onPcie (closeSources onPcie t s)
        | _ => dropPackets (fun x => decide (x = .spi)) (closeSources (fun x => decide (x = .spi)) t { s with spiFlags := 0 })

/-- Whether a register belongs to the block of a code; the registers by which a trace keeps its making are left out (R331). -/
def blockReg (code a : Nat) : Bool :=
  if 0x10 ≤ code ∧ code < 0x20 then decide ((a - 0x51000) / 0x400 = code - 0x10 ∧ 0x51000 ≤ a ∧ a < 0x55000)
  else match code with
    | 0x20 => decide (0x20000 ≤ a ∧ a < 0x28000) && !(decide (0x21000 ≤ a ∧ a < 0x22000) && decide (a % 0x40 ≤ 8)) && !(decide (0x20100 ≤ a ∧ a < 0x20500) && decide (a % 16 = 4))
    | 0x21 => decide (0x30000 ≤ a ∧ a < 0x38000)
    | 0x22 => decide (0x40000 ≤ a ∧ a < 0x50000)
    | 0x23 => decide (0x100000000 ≤ a)
    | _ => false

/-- The word of a register when its block is released: RW and RWL fields and the values of option loading (Reset entry S) are kept, the others take their reset values. -/
def releasedWord (a : Nat) (w : Word32) : Word32 :=
  match regAt a with
  | none => 0
  | some (row, _) =>
    BitVec.ofNat 32 (row.fields.foldl (fun acc f =>
      if f.acc = .rw ∨ f.acc = .rwl ∨ f.rst = .kept ∨ f.rst = .option then putBits f.hi f.lo acc (bitsOf f.hi f.lo w.toNat) else acc) (regDefault a).toNat)

/-- The registers when the block of a code is released. -/
def regsReleased (code : Nat) (rs : SMap Word32) : SMap Word32 :=
  rs.filterMap (fun x =>
    if blockReg code x.1 then listed x.1 (releasedWord x.1 x.2) else some x)

/-- BLOCK_RESET_RELEASE: after 256 RCLK cycles the block returns with its RO fields, counters and sticky bits at their reset values, and the wrapper opens. DESIGN CHOICE: log entry 80. -/
def blockRelease (code : Nat) (s : State) : State :=
  match resetBit code with
  | none => s
  | some bit =>
    let w := (regWord s 0x514).toNat
    if ¬ testBit w bit then s
    else
      let s := setRegWord 0x514 (BitVec.ofNat 32 (w - 2 ^ bit)) s
      let s := { s with regs := regsReleased code s.regs }
      if code = 0x21 then forEach (List.range 32) showPort s
      else if code = 0x22 then forEach allAmps (fun c s => setAmpState c (restState s c) s) s
      else s
def execBlockResetRelease (code : Fin 256) (s : State) : Res := .next (blockRelease code.val s)

/-- PCIE_FLR: a block reset of the PCIe endpoint (R269). -/
def execPcieFlr (t : Nat) (s : State) : Res := .next (blockIsolate 0x23 [] t s)

/-! ### RESET and RESET_CAUSE (R289, R455, R458, R464) -/

/-- The endpoint that a request over a trace or from an engine on Ethernet comes from. -/
def reqEndpoint (r : Req) : Option Nat :=
  match r.source with
  | .trace e => some e
  | .eth _ => if r.via.src < 2 ^ 31 then some r.via.src else none
  | _ => none

/-- Whether a partner reset is accepted (R458). -/
def partnerOk (r : Req) (e : Nat) (s : State) : Bool :=
  fbit s Fld.RESET_CTRL_PARTNER_EN && r.auth &&
    (decide (e = fld s Fld.RST_PARTNER_PARTNER) || (decide (fld s Fld.SHADOW_PARTNER_ROLE ≠ 0) && decide (e = fld s Fld.SHADOW_PARTNER_PARTNER)))

/-- RESET: the reset starts when the reply has left. -/
def resetCmd (r : Req) (s : State) : Service :=
  let kind := pb r 0
  let block := pb r 1
  let from_ := if kind = 1 then reqEndpoint r else none
  let later (s : State) : State := { s with power := { s.power with toReset := s.power.toReset ++ [(kind, block, from_.isSome)] } }
  shaped r 4 []
  (need (decide (kind = 1 ∨ kind = 2)) 0x22 0
  (need (decide (rd r.payload 2 2 = 0x5A5A)) 0x22 2
  (need (decide (kind = 1) || (resetBit block).isSome) 0x22 1
  (need (match from_ with
    | some e => partnerOk r e s
    | none => true) 0x22 0
  (okRep [] (later s))))))

def execReset (r : Req) (s : State) : Res := .next (serve 0xD01 r (resetCmd r) s)

/-- RESET_START at raw time `t`: the oldest commanded reset, whose reply has left its transport or waited 1 ms. -/
def resetStart (brews : List Nat) (t : Nat) (s : State) : State :=
  match s.power.toReset with
  | [] => s
  | (kind, block, partner) :: rest =>
    let s := { s with power := { s.power with toReset := rest } }
    if kind = 1 then engineReset (if partner then 0x100 else 0x10) false false s else blockIsolate block brews t s
def execResetStart (brews : List Nat) (t : Nat) (s : State) : Res := .next (resetStart brews t s)

/-- RESET_CAUSE. -/
def resetCauseCmd (r : Req) (s : State) : Service :=
  shaped r 4 [1, 2, 3]
  (need (decide (pb r 0 ≤ 1)) 0x22 0
  (okRep (beBytes 4 (regWord s 0x504).toNat) (if pb r 0 = 1 then setFld Fld.RESET_CAUSE_CAUSE 0 0 s else s)))

def execResetCause (r : Req) (s : State) : Res := .next (serve 0xD02 r (resetCauseCmd r) s)

end Sys2Proof.Machine
end

