-- ==== Sys2Proof/Machine/PowerPath.lean ====
section
/-! DEFINITION. The backup domain (R447–R449), OFF and STANDBY (R442, R445), the wake sources (Table 18.2), the regulator enables (R446), the vault (R288,
R452) and the boot flash (R288, R461). -/

namespace Sys2Proof.Machine

/-! ### The backup counter (R447) -/

/-- The backup counter at raw time `t`: its value when it was last set and the oscillator seconds since. DEDUCED: log entry 81. -/
def backupSeconds (s : State) (t : Nat) : Nat := (s.power.seconds + Config.bkTicks s.power.secAt t) % 2 ^ 48

/-- BK_SEC_HI_WRITE: the held LO value and bits 47:32 are loaded together. -/
def bkSecHiWrite (value : Word32) (t : Nat) (s : State) : State :=
  { s with power := { s.power with seconds := s.power.secHold + 2 ^ 32 * (value.toNat % 2 ^ 16), secAt := t } }
def execBkSecHiWrite (value : Word32) (t : Nat) (s : State) : Res := .next (if s.power.boot = 0 ∨ 5 ≤ s.power.boot then bkSecHiWrite value t s else s)

/-- BK_ALARM_MATCH: the counter reaches BK_ALARM. -/
def bkAlarmMatch (t : Nat) (s : State) : State :=
  let s := { s with power := { s.power with seconds := fldPair s Fld.BK_ALARM_LO_ALARM_LO Fld.BK_ALARM_HI_ALARM_HI, secAt := t } }
  if fbit s Fld.WAKE_CTRL_WAKE_ALARM then wake 3 0 s else s
def execBkAlarmMatch (t : Nat) (s : State) : Res := .next (bkAlarmMatch t s)

/-! ### OFF (R442, R447, R449) -/

/-- VAON_LOSS: every domain but the backup domain is held in reset and the regulators are off. -/
def vaonLoss (s : State) : State :=
  let n := domainsReset false true s
  showModeNow .off { n with power := { n.power with boot := 1, clear := true, report := false, en := 0, seq := 0, hot := false, spans := [], lastCross := none,
                                                    crosses := 0, missed := 0 } }
def execVaonLoss (s : State) : Res := .next (if s.mode = .off then s else vaonLoss s)

/-- VAON_RETURN: the always-on island starts with POR; the raw counter starts at the backup seconds. With AUTO_WAKE the engine wakes at once (Table 18.2). DEDUCED: log entry 81. -/
def vaonReturn (autoWake : Bool) (seconds : Nat) (s : State) : State :=
  let n := setCause 1 (domainsReset true true s)
  let n := showModeNow .standby { n with power := { n.power with boot := 1, clear := true, report := true, en := 0, seq := 0,
                                                                 seconds := seconds, secAt := 1000000000 * seconds } }
  if autoWake then wake 6 0 n else n
def execVaonReturn (autoWake : Bool) (seconds : BitVec 48) (s : State) : Res := .next (if s.mode = .off then vaonReturn autoWake seconds.toNat s else s)

/-- VBAK_LOSS: with VAON absent as well, the contents of the backup domain are lost. DEDUCED: log entry 81. -/
def vbakLoss (s : State) : State :=
  let s := { s with power := { s.power with vault := [], seconds := 0, secHold := 0 } }
  setRegWord 0x548 0 (setRegWord 0x54C 0 (setRegWord 0x504 3 s))
def execVbakLoss (s : State) : Res := .next (if s.mode = .off then vbakLoss s else s)

/-! ### Wake sources (R445, Table 18.2) -/

def execWakenPin (s : State) : Res := .next (if fbit s Fld.WAKE_CTRL_WAKE_PIN_EN then wake 1 0 s else s)

/-- SPI_WAKE: CSn goes low; the transaction is discarded. -/
def execSpiWake (s : State) : Res := .next (if fbit s Fld.WAKE_CTRL_WAKE_SPI then wake 4 0 s else s)

def execLaneSignalWake (lane : Fin 16) (s : State) : Res :=
  .next (if fbit s Fld.WAKE_CTRL_WAKE_LANE ∧ testBit (fld s Fld.WAKE_CTRL_WAKE_LANES) lane.val then wake 5 lane.val s else s)

/-! ### Regulators (R446) -/

/-- PWR_GOOD: after the last output has been raised, option loading starts unless a reset holds. -/
def pwrGood (s : State) : State :=
  if s.mode = .off then s
  else
    let s := setBit Fld.SUPPLY_STATUS_PWR_GOOD 0 s
    if s.power.seq ≠ 2 then s else releaseHold { s with power := { s.power with seq := 0, boot := 1, clear := true } }
def execPwrGood (s : State) : Res := .next (pwrGood s)

/-- PWR_GAP_END: the next output is raised on a wake, or lowered on the way into STANDBY; PWR_GOOD may be high already; with the last one low every switched domain has lost its supply. -/
def pwrGapEnd (s : State) : State :=
  let p := s.power
  if p.seq = 1 then
    let s := { s with power := { p with en := p.en + 1, seq := if 4 ≤ p.en + 1 then 2 else 1 } }
    if s.power.seq = 2 ∧ fbit s Fld.SUPPLY_STATUS_PWR_GOOD then pwrGood s else s
  else if p.seq = 3 then
    if 1 < p.en then { s with power := { p with en := p.en - 1 } }
    else
      let n := domainsReset false false s
      showModeNow .standby (clrBit Fld.SUPPLY_STATUS_PWR_GOOD 0 { n with power := { n.power with en := 0, seq := 0, boot := 1, clear := true } })
  else s
def execPwrGapEnd (s : State) : Res := .next (pwrGapEnd s)

/-- PGOOD_TIMEOUT: the outputs go low and the engine stays in STANDBY. -/
def execPgoodTimeout (s : State) : Res :=
  .next (if s.power.seq = 2 then setBit Fld.SUPPLY_STATUS_PGOOD_FAIL 0 { s with power := { s.power with en := 0, seq := 0 } } else s)

/-! ### The vault (R288, R452) -/

def vaultByte (s : State) (a : Nat) : Byte := smapGet (fun _ => 0) s.power.vault a

/-- VAULT_READ. DESIGN CHOICE: log entry 82. -/
def vaultRead (r : Req) (s : State) : Service :=
  let off := pb r 0
  let n := rd r.payload 2 2
  shaped r 4 [1]
  (need (decide (1 ≤ n ∧ n ≤ 256 ∧ off + n ≤ 256)) 0x22 2
  (okRep ((List.range n).map (fun i => vaultByte s (off + i))) s))

def execVaultRead (r : Req) (s : State) : Res := .next (serve 0xD03 r (vaultRead r) s)

/-- The vault with bytes written from `a` on. -/
def vaultPut (a : Nat) (bs : List Byte) (s : State) : State :=
  { s with power := { s.power with vault := (bs.zip (List.range bs.length)).foldl (fun m x => smapSet (fun _ => 0) (a + x.2) x.1 m) s.power.vault } }

/-- VAULT_WRITE: bytes 0–31 belong to the shutdown sequencer. -/
def vaultWrite (r : Req) (s : State) : Service :=
  let off := pb r 0
  let n := r.payload.length - 4
  need (decide (5 ≤ r.payload.length)) 0x21 5
  (need (decide (rd r.payload 1 3 = 0)) 0x22 1
  (need (decide (32 ≤ off ∧ off + n ≤ 256)) 0x22 0
  (okRep [] (vaultPut off (r.payload.drop 4) s))))

def execVaultWrite (r : Req) (s : State) : Res := .next (serve 0xD04 r (vaultWrite r) s)

/-! ### Boot flash (R288, Table 18.7) -/

/-- The flash offset of an image slot. DESIGN CHOICE: log entry 82. -/
def slotBase (s : State) (k : Nat) : Nat := rd (flashHeader s) (if k = 0 then 8 else 12) 4

/-- Whether a range of flash meets the slot that the groom runs from: a slot reaches the largest image, or the other slot where that lies above it. -/
def inRunningSlot (s : State) (a n : Nat) : Bool :=
  if s.power.slot = 2 then false
  else
    let b := slotBase s s.power.slot
    let o := slotBase s (1 - s.power.slot)
    let e := if b < o then min (b + 4194304) o else b + 4194304
    decide (a < e ∧ b < a + n)

/-- FLASH_WRITE. DESIGN CHOICE: log entry 82. -/
def flashWrite (r : Req) (h : Nat) (s : State) : Service :=
  let a := rd r.payload 0 4
  let n := r.payload.length - 4
  need (decide (260 ≤ r.payload.length ∧ n ≤ 4096 ∧ n % 256 = 0)) 0x21 260
  (need (decide (a % 256 = 0)) 0x22 0
  (need (!inRunningSlot s a n) 0x2F 0
  (startJob r h (.flash a (r.payload.drop 4)) (fun _ s => s) s)))

def execFlashWrite (r : Req) (h : Nat) (s : State) : Res := .next (serve 0xE00 r (flashWrite r h) s)

/-- The end of a FLASH_WRITE job; `ok`: the flash completed the operation. -/
def flashFinish (h a : Nat) (bs : List Byte) (ok : Bool) (s : State) : State :=
  if ok then endJob h 1 0 0 0 (flashPut a bs s) else endJob h 2 0x66 a 0 s

/-- FLASH_READ; `ok`: the flash completed the operation. DESIGN CHOICE: log entry 82. -/
def flashRead (r : Req) (ok : Bool) (s : State) : Service :=
  let a := rd r.payload 0 4
  let n := rd r.payload 4 2
  shaped r 8 [6, 7]
  (need (decide (1 ≤ n ∧ n ≤ 8140)) 0x22 4
  (need ok 0x66 a
  (okRep (flashBytes s a (min n (maxReply r.source))) s)))

def execFlashRead (r : Req) (ok : Bool) (s : State) : Res := .next (serve 0xE01 r (flashRead r ok) s)

/-- FW_ACTIVATE; `ok`: the slot's signature passes. The header names the slot for the next boot and takes a new CRC. DESIGN CHOICE: log entry 82. -/
def fwActivate (r : Req) (ok : Bool) (s : State) : Service :=
  let k := pb r 0
  shaped r 4 [1, 2, 3]
  (need (decide (k ≤ 1)) 0x22 0
  (need (ok && headerValid (flashHeader s)) 0x67 k
  (let s := flashPut 6 [BitVec.ofNat 8 k] s
   okRep [] (flashPut 60 (beBytes 4 (crc32c (flashBytes s 0 60))) s))))

def execFwActivate (r : Req) (ok : Bool) (s : State) : Res := .next (serve 0xE02 r (fwActivate r ok) s)

end Sys2Proof.Machine
end

