-- ==== Sys2Proof/Machine/StallDebug.lean ====
section
/-! DEFINITION. The debug window (R90, R91): halt, step, resume, and access to a halted stall's registers. -/

namespace Sys2Proof.Machine

/-- The stall that DBG_SEL selects. -/
def dbgSel (s : State) : Nat := fld s Fld.DBG_SEL_STALL

/-- Request a halt of the selected stall, or refuse it in RUN, SHADOW and SAFE without RUN_HALT_EN (R90). -/
def haltReq (s : State) : State :=
  if haltAllowed s then
    let st := stallOf s (dbgSel s)
    if st.halted then s else setStall (dbgSel s) { st with haltPending := true } s
  else setBit Fld.DBG_STATUS_REFUSED 0 s

def execHaltReq (s : State) : Res := .next (haltReq s)

/-- Run a halted stall to its next event point (Table 3.12). -/
def debugStep (s : State) : State :=
  let st := stallOf s (dbgSel s)
  if st.halted then setStall (dbgSel s) { st with halted := false, stepping := true } s else s

def execStep (s : State) : Res := .next (debugStep s)

/-- Resume a halted stall; a halt still held off is withdrawn with it (Table 3.12). -/
def debugResume (s : State) : State :=
  let st := stallOf s (dbgSel s)
  if st.halted then setStall (dbgSel s) { st with halted := false, haltPending := false, stepping := false } s else s

def execResume (s : State) : Res := .next (debugResume s)

/-- The stall with every issued word's register results landed, as a halted stall shows it (R90). DEDUCED: log entry 124. -/
def landedView (st : Stall) : Stall := st.inflight.foldl (fun st w => applyWb w.what st) st

/-- Width and value of the debug register `i` (Table 3.17), signed at the register's width (Table 3.16); none where reserved. -/
def dbgRead (st : Stall) (i : Nat) : Option Int :=
  if i < 0x40 then some (dPhys st i).toInt
  else if i < 0x48 then some (aReg st (i - 0x40)).toInt
  else if i < 0x9A then regSource st i
  else if i = 0x9A then some (srWord st : Int)
  else if i = 0x9B then
    some ((maskOf ((List.range 16).filter (fun k => (efOf st k).set))
      + 2 ^ 16 * maskOf ((List.range 16).filter (fun k => (efOf st k).skip)) : Nat) : Int)
  else if i = 0x9C then some st.rb.toInt
  else if i = 0x9D then
    some (match st.loop with
      | some l => ((l.count + 2 ^ 17 * l.len : Nat) : Int)
      | none => 0)
  else if i ≤ 0xA1 then
    some (match st.calls.reverse[i - 0x9E]? with
      | some a => a.toInt
      | none => (smapGet (fun _ => (0 : PcAddr)) st.callOver (i - 0x9E)).toInt)
  else none

/-- The 32-bit word `w` of a debug register, sign-extended beyond its width. -/
def dbgWord (st : Stall) (i w : Nat) : Nat :=
  match dbgRead st i with
  | some v => wrapInt 32 (v / 2 ^ (32 * w))
  | none => 0

/-- The integer `old` with its 32-bit word `w` replaced by `x`, in 96 bits. -/
def dbgMerge (old : Int) (w x : Nat) : Nat := putBits (32 * w + 31) (32 * w) (wrapInt 96 old) x

/-- Whether a result on its way goes to the debug register `i`. -/
def wbTo (i : Nat) : Wb → Bool
  | .d k _ => decide (i = k)
  | .a k _ _ => decide (i = 0x40 + k)
  | .c k _ => decide (i = 0x48 + k)
  | .p k _ => decide (i = 0x68 + k)
  | .m k _ => decide (i = 0x78 + k)
  | .l k _ => decide (i = 0x88 + k)
  | .x k _ => decide (i = 0x98 + k)
  | .flags _ _ _ | .fillrx _ | .evskip _ => decide (i = 0x9A)
  | .mem _ _ => false

/-- A write of word `w` of debug register `i` of a halted stall; bits above its width are ignored (Table 3.16). It replaces a result still on its way to the
register. A CALL stack entry at or above the depth keeps what is written to it. DEDUCED: log entry 124. -/
def dbgWrite (st : Stall) (i w x : Nat) : Stall :=
  match dbgRead (landedView st) i with
  | none => st
  | some old =>
    let v := dbgMerge old w x
    let st := { st with inflight := st.inflight.filter (fun p => !wbTo i p.what) }
    if i < 0x40 then { st with d := smapSet (fun _ => 0) i (BitVec.ofNat 48 v) st.d }
    else if i < 0x48 then { st with a := smapSet (fun _ => 0) (i - 0x40) (BitVec.ofNat 96 v) st.a }
    else if i < 0x68 then { st with c := smapSet (fun _ => 0) (i - 0x48) (BitVec.ofNat 32 v) st.c }
    else if i < 0x78 then { st with p := smapSet (fun _ => 0) (i - 0x68) (BitVec.ofNat 20 v) st.p }
    else if i < 0x88 then { st with m := smapSet (fun _ => 0) (i - 0x78) (BitVec.ofNat 20 v) st.m }
    else if i < 0x98 then { st with l := smapSet (fun _ => 0) (i - 0x88) (BitVec.ofNat 20 v) st.l }
    else if i < 0x9A then { st with x := smapSet (fun _ => 0) (i - 0x98) (BitVec.ofNat 40 v) st.x }
    else if i = 0x9A then
      { st with z := testBit v 0, n := testBit v 1, v := testBit v 2, fillrx := testBit v 3, evskip := testBit v 4 }
    else if i = 0x9B then
      (List.range 16).foldl (fun st k => setEf k { efOf st k with set := testBit v k, skip := testBit v (16 + k) } st) st
    else if i = 0x9C then { st with rb := BitVec.ofNat 5 v }
    else if i = 0x9D then
      { st with loop := st.loop.map (fun l => { l with count := v % 2 ^ 17, len := v / 2 ^ 17 % 2 ^ 9 }) }
    else
      let k := i - 0x9E
      if st.calls.length ≤ k then { st with callOver := smapSet (fun _ => 0) k (BitVec.ofNat 13 v) st.callOver }
      else { st with calls := (st.calls.reverse.mapIdx (fun j a => if j = k then BitVec.ofNat 13 v else a)).reverse }

/-- An access to DBG_REG_DATA (R90): a read returns the selected word, a write sets it, only while the stall is halted; otherwise
a read returns 0, a write is ignored and NOT_HALTED is set. -/
def dbgAccess (wr : Option Word32) (s : State) : State :=
  let u := dbgSel s
  let st := stallOf s u
  let i := fld s Fld.DBG_REG_SEL_INDEX
  let w := fld s Fld.DBG_REG_SEL_WORD
  if st.halted then
    match wr with
    | none => { s with lastRead := dbgWord (landedView st) i w }
    | some x => if w < 3 then setStall u (dbgWrite st i w x.toNat) s else s
  else
    let s := setBit Fld.DBG_STATUS_NOT_HALTED 0 s
    match wr with
    | none => { s with lastRead := 0 }
    | some _ => s

def execDbgRegDataAccess (wr : Option Word32) (s : State) : Res := .next (dbgAccess wr s)

end Sys2Proof.Machine
end

