-- ==== Sys2Proof/Machine/Registers.lean ====
section
/-! DEFINITION. Register space as its masters see it (R7, R9–R11, R220): what a write does, with the range checks of each chapter, and what a read returns,
with the halves it latches; the register commands of the groom, of SPI and of the event log (R267, R279, R294). -/

namespace Sys2Proof.Machine

/-! ### Range checks (R55, R198, R218, R321, R353, R378, R402, R427, R441, R468) -/

/-- The CFG_ERR flag of the chapter to which the register at `a` belongs. -/
def cfgErrField (a : Nat) : Option RegField :=
  if a < 0x200 then none
  else if a < 0x300 then some Fld.FG_STATUS_CFG_ERR
  else if a < 0x400 then some Fld.TAP_STATUS_CFG_ERR
  else if a < 0x500 then some Fld.CMD_STATUS_CFG_ERR
  else if a < 0x600 then some Fld.MODE_STATUS_CFG_ERR
  else if a < 0x700 then some Fld.OVR_STATUS_CFG_ERR
  else if a < 0x10000 then some Fld.HERD_STATUS_CFG_ERR
  else if a < 0x20000 then some Fld.CLK_STATUS_CFG_ERR
  else if a < 0x30000 then some Fld.LINK_GSTATUS_CFG_ERR
  else if a < 0x40000 then some Fld.PORT_GSTATUS_CFG_ERR
  else if a < 0x50000 then some Fld.AMP_GSTATUS_CFG_ERR
  else if a < 0x60000 then some Fld.XB_STATUS_CFG_ERR
  else if a < 0x70000 then some Fld.MEM_STATUS_CFG_ERR
  else none

/-- Flag an out-of-range value. -/
def flagCfgErr (a : Nat) (s : State) : State :=
  match cfgErrField a with
  | some f => setBit f 0 s
  | none => s

/-- Whether a value lies in a field's own stated range. -/
def inRange (f : RegField) (x : Nat) : Bool :=
  match f.rng with
  | none => true
  | some (lo, hi) => decide (lo ≤ x ∧ x ≤ hi)

/-- A written value offered to the RW fields that `takes` admits: each takes its value, or keeps the old one where the value is out of its range; the flag
says that one was. A tap offers no field that it would not change. -/
def takeFields (fields : List RegField) (tap : Bool) (old v : Nat) : Nat × Bool :=
  fields.foldl (fun p f =>
    let x := bitsOf f.hi f.lo v
    if tap ∧ x = bitsOf f.hi f.lo old then p
    else if inRange f x then (putBits f.hi f.lo p.1 x, p.2)
    else (p.1, true)) (old, false)

/-- Keep the old bits of a field and flag it. -/
def keepField (f : RegField) (old : Nat) (p : Nat × Bool) : Nat × Bool := (putBits f.hi f.lo p.1 (bitsOf f.hi f.lo old), true)

/-- AVS_LIMITS: the three steps of R55, whose own ranges `takeFields` has checked. DESIGN CHOICE: log entry 90. -/
def limitsTake (old v : Nat) (p : Nat × Bool) : Nat × Bool :=
  let p := if bitsOf 25 16 v < bitsOf 9 0 p.1 then keepField Fld.AVS_LIMITS_VMAX old p else p
  if bitsOf 25 16 p.1 < bitsOf 9 0 p.1 then keepField Fld.AVS_LIMITS_VMIN old p else p

/-- A ring descriptor: EN = 1 needs a length that its format admits, else the whole write is ignored (R309). DESIGN CHOICE: log entry 90. -/
def ringTake (old : Nat) (p : Nat × Bool) : Nat × Bool :=
  let n := bitsOf 3 0 p.1
  if testBit p.1 5 ∧ (n = 0 ∨ (n = 12 ∧ ¬ testBit p.1 4)) then (old, true) else p

/-- A slot list: FIRST + COUNT stays within the table (Table 13.14). DESIGN CHOICE: log entry 90. -/
def slotsTake (first count : RegField) (top old : Nat) (p : Nat × Bool) : Nat × Bool :=
  let sum (w : Nat) : Nat := bitsOf first.hi first.lo w + bitsOf count.hi count.lo w
  let p := if top < sum p.1 then keepField count old p else p
  if top < sum p.1 then keepField first old p else p

/-- Keep a field whose written value fails a condition. -/
def condTake (f : RegField) (ok : Nat → Bool) (old v : Nat) (p : Nat × Bool) : Nat × Bool :=
  if ok (bitsOf f.hi f.lo v) then p else keepField f old p

/-- The bandwidth codes that a candidate permits (Table 15.1). -/
def bwPermitted (n type bw : Nat) : Bool :=
  if n < 4 then decide (type ≠ 2 ∨ bw ≤ 2)
  else if n < 6 then decide (bw ≤ 4)
  else if n = 6 then decide (4 ≤ bw)
  else true

/-- CLK_CAND: TYPE belongs to candidates 0–3 and LANE to 7 and 8; a bandwidth that is not permitted makes the whole write ignored (Tables 15.1, 15.12). DESIGN CHOICE: log entry 90. -/
def candTake (n old v : Nat) (p : Nat × Bool) : Nat × Bool :=
  let p := if 4 ≤ n ∧ bitsOf 2 1 v ≠ 0 then keepField Fld.CLK_CAND_TYPE old p else p
  let p := if n = 7 ∨ n = 8 then p else (putBits 29 24 p.1 0, p.2)
  if bwPermitted n (bitsOf 2 1 p.1) (bitsOf 18 16 p.1) then p else (old, true)

/-- LANE_CFG: MODE 1 is set by TRACE_UP and MODE 3 by the straps only, MODE 2 belongs to lanes 0–15 and the rates of Ethernet (Tables 13.1, 13.2, 13.12). DEDUCED: log entry 91. -/
def laneTake (n old v : Nat) (p : Nat × Bool) : Nat × Bool :=
  let m := bitsOf 2 0 v
  let mOld := bitsOf 2 0 old
  let ok := decide (m = mOld) || (decide (mOld ≠ 3) && (decide (m = 0) || (decide (m = 2) && decide (n < 16))))
  let p := if ok then p else keepField Fld.LANE_CFG_MODE old p
  if bitsOf 2 0 p.1 = 2 ∧ ¬ (bitsOf 6 4 p.1 = 0 ∨ bitsOf 6 4 p.1 = 2) then keepField Fld.LANE_CFG_RATE old p else p

/-- Whether a signed 4-bit code lies in its range. -/
def sgnIn (lo hi : Int) (x : Nat) : Bool := decide (lo ≤ signOf 4 x ∧ signOf 4 x ≤ hi)

/-- The PDM ratio codes that the base rate permits (Table 12.5). DEDUCED: log entry 91. -/
def ratioTop (fs : Nat) : Nat := 3 - min 3 (fs / 2)

/-- The conditions that span fields or registers. `i`: the copy. PRESUMED: log entry 128. -/
def crossTake (s : State) (a i old v : Nat) (p : Nat × Bool) : Nat × Bool :=
  if a = 0x264 then limitsTake old v p
  else if a = 0x44C then condTake Fld.NET_IP_MASK_MASK (fun x => decide ((2 ^ 32 - x) &&& (2 ^ 32 - 1 - x) = 0)) old v p
  else if a = 0x50C then (if v % 2 ^ 32 = 0xFFFFFFFF then p else (v % 2 ^ 18, p.2))
  else if a = 0x578 then condTake Fld.BOOT_LEN_LEN (fun x => decide (x % 4 = 0 ∧ 4 ≤ x ∧ x ≤ 4194304)) old v p
  else if 0x10010 ≤ a ∧ a < 0x10038 then candTake i old v p
  else if a = 0x10108 ∨ a = 0x10148 then
    condTake Fld.PTP_RATES_LOG_SYNC (sgnIn (-7) 1) old v (condTake Fld.PTP_RATES_LOG_DELAY (sgnIn (-7) 4) old v
      (condTake Fld.PTP_RATES_LOG_ANNOUNCE (sgnIn (-3) 4) old v p))
  else if 0x20100 ≤ a ∧ a < 0x20500 ∧ a % 16 = 0 then laneTake i old v p
  else if 0x21000 ≤ a ∧ a < 0x22000 ∧ a % 64 = 0x14 then slotsTake Fld.TRACE_TX_SLOTS_FIRST Fld.TRACE_TX_SLOTS_COUNT 4096 old p
  else if 0x21000 ≤ a ∧ a < 0x22000 ∧ a % 64 = 0x1C then slotsTake Fld.TRACE_RX_SLOTS_FIRST Fld.TRACE_RX_SLOTS_COUNT 2048 old p
  else if (0x31000 ≤ a ∧ a < 0x33000 ∨ 0x34100 ≤ a ∧ a < 0x34200) ∧ a % 8 = 4 then ringTake old p
  else if 0x34000 ≤ a ∧ a < 0x34010 then condTake Fld.PDM_CLK_RATIO (fun x => decide (x ≤ ratioTop s.fs)) old v p
  else if 0x41100 ≤ a ∧ a < 0x41180 then
    (if a % 8 = 0 then (if bitsOf 31 16 p.1 < bitsOf 15 0 p.1 then (old, true) else p)
     else condTake Fld.BAND_CFG_GUARD (fun x => decide (2 * x ≤ bitsOf 15 8 p.1)) old v p)
  else if 0x51000 ≤ a ∧ a < 0x55000 ∧ 0x100 ≤ (a - 0x51000) % 0x400 then
    let r := (a - 0x51100) % 0x40
    if r = 0 then (if i % 8 = 0 then (putBits 8 8 p.1 0, p.2) else p)
    else if r = 0x24 then condTake Fld.RINGA_LEN_LEN (fun x => decide (x % 8 = 0)) old v p
    else if r = 0x34 then condTake Fld.RINGB_LEN_LEN (fun x => decide (x % 8 = 0)) old v p
    else if r = 0x28 then condTake Fld.RINGA_POS_POS (fun x => decide (x % 8 = 0 ∧ x < fld s Fld.RINGA_LEN_LEN i)) old v p
    else if r = 0x2C then condTake Fld.RINGA_STEP_STEP (fun x => decide (x % 8 = 0 ∧ x < fld s Fld.RINGA_LEN_LEN i)) old v p
    else if r = 0x38 then condTake Fld.RINGB_POS_POS (fun x => decide (x % 8 = 0 ∧ x < fld s Fld.RINGB_LEN_LEN i)) old v p
    else if r = 0x3C then condTake Fld.RINGB_STEP_STEP (fun x => decide (x % 8 = 0 ∧ x < fld s Fld.RINGB_LEN_LEN i)) old v p
    else p
  else p

/-! ### What a changed register does at once -/

/-- The PDM inputs that run from PDM clock `c`. DEDUCED: log entry 91. -/
def pdmOnClock (s : State) (c : Nat) : List Nat :=
  (List.range 16).filter (fun i => portRunning s (32 + i) && decide (fld s Fld.PDM_CFG_CLK i = c))

/-- A running PDM input stops at `last`, for good or to start again two frames later (R314, R315). -/
def pdmStop (i last : Nat) (again : Bool) (s : State) : State :=
  let x := portOf s (32 + i)
  setPort (32 + i) (if again then { x with pauseAt := some (x.pauseAt.getD last) } else { x with endAt := some (x.endAt.getD last) }) s

/-- A change of CLKOUT_CFG in FUNC, MUL or N loses the alignment (R389); an MCLK above 49.152 MHz is a configuration error (R388). -/
def clkoutChanged (o old new : Nat) (s : State) : State :=
  let s := if old % 32 ≠ new % 32 ∨ bitsOf 23 8 old ≠ bitsOf 23 8 new then clrBit Fld.CLKOUT_STATUS_ALIGNED o s else s
  if fld s Fld.CLKOUT_CFG_FUNC o = 1 ∧ 49152000 < mclkHz s o then setBit Fld.CLK_STATUS_CFG_ERR 0 s else s

/-- More than two enabled RX entries that name one ring are a configuration error (R353). -/
def rxPairCheck (i : Nat) (s : State) : State :=
  let base := fld s Fld.RX_SLOT_RING_BASE i
  if fbit s Fld.RX_SLOT_EN i ∧ 2 < ((List.range 2048).filter (fun k => fbit s Fld.RX_SLOT_EN k && decide (fld s Fld.RX_SLOT_RING_BASE k = base))).length then
    setBit Fld.LINK_GSTATUS_CFG_ERR 0 s
  else s

/-- What the units do when the RW fields of the register at `a` have changed from `old`, by a write or by a tap at boundary `tap`. -/
def regChanged (tap : Option Nat) (a i : Nat) (old : Word32) (s : State) : State :=
  let last := tap.getD (s.frame + 1)
  let new := (regWord s a).toNat
  if a = 0x264 then avsLimits s
  else if a = 0x600 then ovrSampleInputs s
  else if a = 0x10000 ∨ (0x10010 ≤ a ∧ a < 0x10038) ∨ (0x20100 ≤ a ∧ a < 0x20500 ∧ a % 16 = 0) then selectRef s
  else if a = 0x10100 ∨ a = 0x10140 then (if new = old.toNat then s else ptpRestart i s)
  else if 0x10300 ≤ a ∧ a < 0x10380 then clkoutChanged i old.toNat new s
  else if 0x26000 ≤ a ∧ a < 0x28000 then rxPairCheck i s
  else if 0x34000 ≤ a ∧ a < 0x34010 then
    (if bitsOf 5 4 old.toNat = bitsOf 5 4 new then s else forEach (pdmOnClock s i) (fun k s => pdmStop k last true s) s)
  else if 0x34040 ≤ a ∧ a < 0x34080 then (if portRunning s (32 + i) ∧ new % 4 = 0 then pdmStop i last false s else s)
  else if 0x40000 ≤ a ∧ a < 0x43000 then ampRegChanged a old tap s
  else s

/-- The RW fields `fields` of the register take a written value. -/
def rwApply (tap : Option Nat) (row : RegRow) (i a v : Nat) (fields : List RegField) (s : State) : State :=
  let old := regWord s a
  let p := takeFields (fields.filter (fun f => decide (f.acc = .rw))) tap.isSome old.toNat v
  let q := crossTake s a i old.toNat (if fields = row.fields ∧ tap.isNone then v else
    (fields.filter (fun f => decide (f.acc = .rw))).foldl (fun w f => putBits f.hi f.lo w (bitsOf f.hi f.lo v)) old.toNat) p
  let q := if tap.isSome ∧ p.1 = old.toNat ∧ ¬ p.2 then p else q
  let s := if q.2 then flagCfgErr a s else s
  regChanged tap a i old (setRegWord a (BitVec.ofNat 32 q.1) s)

/-! ### Writes -/

/-- The word of a register after its W1C bits have been written. -/
def w1cTake (fields : List RegField) (w v : Nat) : Nat :=
  fields.foldl (fun w f => if f.acc = .w1c then
    putBits f.hi f.lo w (maskOf ((bitList (f.hi + 1 - f.lo) (bitsOf f.hi f.lo w)).filter (fun k => !testBit (bitsOf f.hi f.lo v) k))) else w) w

/-- Whether a mode refuses direct writes of frame settings (R225). DEDUCED: log entry 92. -/
def framesLocked (s : State) : Bool := decide (s.mode = .run ∨ s.mode = .shadow ∨ s.mode = .safe)

/-- A write to a register whose fields have no rules but those of their access codes, ranges and the lock of the frame settings. DESIGN CHOICE: log entry 93. -/
def plainWrite (row : RegRow) (i a v : Nat) (s : State) : State :=
  let locked := framesLocked s && row.fields.any (fun f => decide (f.brew = .frame))
  let s := if locked then setBit Fld.XB_STATUS_LOCK_REFUSED 0 s else s
  let s := setRegWord a (BitVec.ofNat 32 (w1cTake row.fields (regWord s a).toNat v)) s
  let fields := if locked then row.fields.filter (fun f => decide (f.brew ≠ .frame)) else row.fields
  if fields.any (fun f => decide (f.acc = .rw)) then rwApply none row i a v fields s else s

/-- Whether register space answers: its domain is released (R463) and has power. DEDUCED: log entry 94. -/
def regsReach (s : State) : Bool := decide (s.mode ≠ .off) && decide (s.power.boot = 0 ∨ 5 ≤ s.power.boot)

/-- WDOG_CTRL: WDOG_EN is clearable in CONFIGURE only (R457). DEDUCED: log entry 96. -/
def wdogWrite (v : Nat) (s : State) : State :=
  let v := if s.mode = .configure then v else putBits 16 16 v (max (bitsOf 16 16 v) (fld s Fld.WDOG_CTRL_WDOG_EN))
  rwApply none Reg.WDOG_CTRL 0 0x510 v Reg.WDOG_CTRL.fields s

/-- MEM_CTRL: the fields, then RETRAIN_REQ with the mask just written. -/
def memCtrlWrite (v : Nat) (s : State) : State :=
  let s := rwApply none Reg.MEM_CTRL 0 0x60000 v Reg.MEM_CTRL.fields s
  if testBit v 2 then retrainReq s else s

/-- DBG_CTRL: RUN_HALT_EN, then the requests (Table 3.12). DEDUCED: log entry 94. -/
def dbgCtrlWrite (v : Nat) (s : State) : State :=
  let s := rwApply none Reg.DBG_CTRL 0 0x80004 v Reg.DBG_CTRL.fields s
  let s := if testBit v 0 then haltReq s else s
  let s := if testBit v 1 then debugStep s else s
  if testBit v 2 then debugResume s else s

/-- DBG_STICKY: W1C on the sticky bits of the selected stall. -/
def dbgStickyWrite (v : Nat) (s : State) : State :=
  let st := stallOf s (dbgSel s)
  setStall (dbgSel s) { st with sticky := st.sticky &&& ~~~(BitVec.ofNat 11 v) } s

/-- Amplifier global control: BAND_EN, and REQUIRE_LIMIT as RWL. DEDUCED: log entry 92. -/
def ampGctrlWrite (v : Nat) (s : State) : State :=
  requireWrite (testBit v 1) (rwApply none Reg.AMP_GCTRL 0 0x40000 v Reg.AMP_GCTRL.fields s)

/-- The limit registers of a channel (R421). -/
def limRegWrite (a v : Nat) (s : State) : State :=
  let c := (a - 0x43000) / 0x20
  let r := (a - 0x43000) % 0x20 / 4
  if r < 5 then limWrite c r v s
  else if r = 5 then setFld Fld.LIM_STATUS_LOCK_VIOL c (bnat (fbit s Fld.LIM_STATUS_LOCK_VIOL c && !testBit v 3)) s
  else s

/-- A field of a queue pair takes a value it may hold. DEDUCED: log entry 91. -/
def queuePut (f : RegField) (i v : Nat) (ok : Bool) (s : State) : State := if ok then setFld f i v s else s

/-- Queue-pair registers (Table 10.10): base and size only while EN is 0, at their alignment and sizes; the pointers freely. DEDUCED: log entry 23. DESIGN CHOICE: log entry 31. -/
def queueWrite (m : Nat) (v : Nat) (s : State) : State :=
  let q := m / 0x1000
  let r := m % 0x1000
  let en := fbit s Fld.QP_CTRL_EN q
  let size := decide (16 ≤ v ∧ v ≤ 1024) && (List.range 11).any (fun k => decide (v = 2 ^ k))
  if r = 0x00 then queuePut Fld.RQ_BASE_LO_BASE q v (!en && decide (v % 64 = 0)) s
  else if r = 0x04 then queuePut Fld.RQ_BASE_HI_BASE q v (!en) s
  else if r = 0x08 then queuePut Fld.RQ_SIZE_SIZE q v (!en && size) s
  else if r = 0x0C then setFld Fld.RQ_TAIL_TAIL q v s
  else if r = 0x14 then queuePut Fld.PQ_BASE_LO_BASE q v (!en && decide (v % 4096 = 0)) s
  else if r = 0x18 then queuePut Fld.PQ_BASE_HI_BASE q v (!en) s
  else if r = 0x1C then queuePut Fld.PQ_SIZE_SIZE q v (!en && size) s
  else if r = 0x20 then forEach (List.range 64) (fun n s => pcieFlush n q s) (setFld Fld.PQ_HEAD_HEAD q v s)
  else if r = 0x28 then qpCtrlWrite q v s
  else if r = 0x2C then setRegWord (0x100000000 + m) (BitVec.ofNat 32 (w1cTake Reg.QP_STATUS.fields (regWord s (0x100000000 + m)).toNat v)) s
  else s

/-- The registers of a drover's channels: channel 0 takes writes of the groom only (R234); CH_CTRL starts a channel (R230). -/
def chanRegWrite (master a v : Nat) (row : RegRow) (i : Nat) (s : State) : State :=
  let d := (a - 0x51000) / 0x400
  let c := ((a - 0x51000) % 0x400 - 0x100) / 0x40
  if c = 0 ∧ master ≠ masterGroom then setBit Fld.DRV_FAULT_HOST_CH0 d s
  else if a % 0x40 = 4 then (if testBit v 0 then chanStart d c master s else s)
  else plainWrite row i a v s

/-- A write of half a word of drover program memory, little-endian (R7, R229). -/
def drvMemWrite (m v : Nat) (s : State) : State :=
  let k := m / 8
  let w := (smapGet (fun _ => (0 : ProgWord)) s.drvMem k).toNat
  let w := if m % 8 = 0 then putBits 31 0 w (v % 2 ^ 32) else putBits 63 32 w (v % 2 ^ 32)
  { s with drvMem := smapSet (fun _ => 0) k (BitVec.ofNat 64 w) s.drvMem }

/-- What drover program memory reads as. -/
def drvMemRead (s : State) (m : Nat) : Nat := (smapGet (fun _ => (0 : ProgWord)) s.drvMem (m / 8)).toNat / 2 ^ (8 * (m % 8)) % 2 ^ 32

/-- Whether a write to the register at `a` can change it: one with read-only fields alone ignores it (R9). -/
def regWritable (a : Nat) : Bool :=
  match regAt a with
  | some (row, _) => row.fields.any (fun f => decide (f.acc ≠ .ro))
  | none => false

/-- A register write by a master at raw time `t` in ns (R9, R183). The address is aligned and lies in register space, or in that of the queue pairs. -/
def regWrite (master t a v : Nat) (s : State) : State :=
  if ¬ regsReach s then s
  else
    let s := if regWritable a then { s with latches := smapErase a s.latches } else s
    if 0x100000000 ≤ a then queueWrite (a - 0x100000000) v s
    else if 0x58000 ≤ a ∧ a < 0x60000 then drvMemWrite (a - 0x58000) v s
    else match regAt a with
    | none => s
    | some (row, i) =>
      if a = 0x24 then (if s.mode = .configure then plainWrite row i a v s else s)
      else if a = 0x10C then { plainWrite row i a v s with evtWord := 0 }
      else if a = 0x228 then
        let s := plainWrite row i a v s
        if testBit v 31 then rdReset s else s
      else if a = 0x24C then (if testBit v 0 then slackClr s else s)
      else if a = 0x510 then wdogWrite v s
      else if a = 0x540 then { s with power := { s.power with secHold := v % 2 ^ 32 } }
      else if a = 0x544 then bkSecHiWrite (BitVec.ofNat 32 v) t s
      else if a = 0x570 then (if testBit v 0 then bootGo (Config.imageSigned s.power.image) s else s)
      else if a = 0x574 then bootDataWrite (BitVec.ofNat 32 v) s
      else if a = 0x618 then ovrUnlatch (v % 16) s
      else if a = 0x10080 ∨ a = 0x10084 then (if s.mode = .configure then plainWrite row i a v s else s)
      else if a = 0x10200 then timeSnap (testBit v 0) (t * 65536) s
      else if 0x30100 ≤ a ∧ a < 0x30500 ∧ a % 0x20 = 0 then portCfgApply i v (2 ^ 32 - 1) (s.frame + 1) s
      else if a = 0x40000 then ampGctrlWrite v s
      else if 0x43000 ≤ a ∧ a < 0x44000 then limRegWrite a v s
      else if 0x51000 ≤ a ∧ a < 0x55000 ∧ 0x100 ≤ (a - 0x51000) % 0x400 then chanRegWrite master a v row i s
      else if a = 0x60000 then memCtrlWrite v s
      else if 0x61000 ≤ a ∧ a < 0x63000 then bankOwnWrite i v s
      else if a = 0x80004 then dbgCtrlWrite v s
      else if a = 0x8000C then dbgStickyWrite v s
      else if a = 0x80014 then dbgAccess (some (BitVec.ofNat 32 v)) s
      else plainWrite row i a v s

/-! ### Reads -/

/-- The halves that a read of the LO half at `a` latches (Tables 2.11, 2.18, 7.15, 7.16, 8.11, 9.12, 9.19, 14.11; R402, R468). DEDUCED: log entry 88. -/
def latchedBy (a : Nat) : List Nat :=
  if a = 0x10088 then [0x1008C, 0x10090, 0x10094, 0x10098]
  else if [0x220, 0x288, 0x310, 0x318, 0x540, 0x548, 0x60C, 0x760, 0x5000C, 0x10080, 0x10090, 0x10204, 0x10210, 0x1021C, 0x10228].contains a then [a + 4]
  else if 0x10100 ≤ a ∧ a < 0x10180 ∧ [0x10, 0x24, 0x2C, 0x34].contains (a % 0x40) then [a + 4]
  else if 0x51000 ≤ a ∧ a < 0x55000 ∧ (a - 0x51000) % 0x400 = 0x18 then [a + 4]
  else if 0x60100 ≤ a ∧ a < 0x60200 ∧ a % 0x20 = 0x0C then [a + 4]
  else []

/-- The brew that BREW_SEL shows. -/
def brewShown (s : State) : Brew := brewOf s (fld s Fld.BREW_SEL_HANDLE)

/-- The cumulative count that SLEDGER_SEL selects in the last audited snapshot: cause 0 is E, 15 is D, the others F (R53, Table 2.17). DEDUCED: log entry 96. -/
def sledgerShown (s : State) : Nat :=
  let r := streamOf s.ledger.aud (fld s Fld.SLEDGER_SEL_STREAM)
  let c := fld s Fld.SLEDGER_SEL_CAUSE
  if c = 0 then r.e else if c = 15 then r.d else smapGet (fun _ => 0) r.f c

/-- DBG_STATE codes of a unit (Tables 2.5, 3.13). -/
def unitCode : UnitState → Nat
  | .ended => 0 | .running => 1 | .waitEvent => 2 | .waitRecv => 3 | .waitSend => 4 | .waitTarget => 5 | .waitBarrier => 6 | .aborted => 7

/-- DBG_STATUS (Table 3.13); bits 15:14 are stored. -/
def dbgStatus (s : State) : Nat :=
  let st := stallOf s (dbgSel s)
  unitCode (unitOf s (dbgSel s)).st + 8 * bnat st.halted + 16 * bnat st.haltPending + 32 * bnat st.loop.isSome + 64 * st.rb.toNat +
    2048 * st.calls.length + 16384 * fld s Fld.DBG_STATUS_REFUSED + 32768 * fld s Fld.DBG_STATUS_NOT_HALTED + 65536 * st.pc.toNat

/-- STALL_FAULT_SUM (Table 3.19). -/
def faultSum (s : State) (j : Nat) : Nat :=
  maskOf ((List.range 32).filter (fun k => decide ((stallOf s (32 * j + k)).sticky ≠ 0)))

/-- The 6 words of the record that EVT_RD_INDEX selects; one that the log does not hold reads zero. DEDUCED: log entry 24. -/
def evtSelected (s : State) : List Byte :=
  match s.evtLog.find? (fun e => decide (e.index = fld s Fld.EVT_RD_INDEX_INDEX)) with
  | some e => evtBytes e
  | none => List.replicate 24 0

/-- SCRUB_STATUS.PROGRESS: the part of PERIOD that has passed since the pass began, in 1/256 (R214, Table 8.10). DESIGN CHOICE: log entry 119. -/
def scrubProgress (s : State) (t : Nat) : Nat :=
  if ¬ fbit s Fld.MEM_CTRL_SCRUB_EN then 0 else min 255 (256 * (t - s.scrubAt) / (fld s Fld.SCRUB_CFG_PERIOD * 3600 * 10 ^ 9))

/-- What a register reads as at raw time `t` in ns, latches apart. WO fields read zero (R9). DEDUCED: log entries 96, 129. -/
def regView (s : State) (t a : Nat) : Nat :=
  if a = 0x110 then rd (evtSelected s) (4 * s.evtWord) 4
  else if a = 0x288 then sledgerShown s % 2 ^ 32
  else if a = 0x28C then sledgerShown s / 2 ^ 32 % 2 ^ 32
  else if a = 0x304 then brewStatusWord (brewShown s)
  else if a = 0x308 then (brewShown s).log.length
  else if a = 0x310 then (brewShown s).tap % 2 ^ 32
  else if a = 0x314 then (brewShown s).tap / 2 ^ 32
  else if a = 0x318 then (brewShown s).eff % 2 ^ 32
  else if a = 0x31C then (brewShown s).eff / 2 ^ 32
  else if a = 0x404 then fld s Fld.CMD_SESS_SESSION_IDLE + 2 ^ 12 * s.sessions.length + 2 ^ 16 * s.jobs.length
  else if a = 0x540 then backupSeconds s t % 2 ^ 32
  else if a = 0x544 then backupSeconds s t / 2 ^ 32
  else if a = 0x524 then (regWord s a).toNat ||| bnat (!fbit s Fld.MAINS_CTRL_MAINS_EN)
  else if 0x58000 ≤ a ∧ a < 0x60000 then drvMemRead s (a - 0x58000)
  else if a = 0x6001C then scrubProgress s t + 2 ^ 16 * fld s Fld.SCRUB_STATUS_PASSES
  else if a = 0x80008 then dbgStatus s
  else if a = 0x8000C then (stallOf s (dbgSel s)).sticky.toNat
  else if 0x80100 ≤ a ∧ a < 0x80180 then faultSum s ((a - 0x80100) / 4)
  else match regAt a with
    | none => 0
    | some (row, _) => row.fields.foldl (fun w f => if f.acc = .wo then putBits f.hi f.lo w 0 else w) (regWord s a).toNat

/-- What a read of the register changes beside `lastRead`: the event window advances (Table 11.21), VCORE_MEAS.LOWEST starts again (Table 18.13). -/
def readEffect (a : Nat) (s : State) : State :=
  if a = 0x110 then
    (if s.evtWord + 1 < 6 then { s with evtWord := s.evtWord + 1 }
     else setFld Fld.EVT_RD_INDEX_INDEX 0 ((fld s Fld.EVT_RD_INDEX_INDEX + 1) % 2 ^ 32) { s with evtWord := 0 })
  else if a = 0x558 then setFld Fld.VCORE_MEAS_LOWEST 0 0 s
  else s

/-- A register read at raw time `t` in ns: its value is left in `lastRead`. DEDUCED: log entry 88. -/
def regRead (t a : Nat) (s : State) : State :=
  if ¬ regsReach s then { s with lastRead := 0 }
  else if a = 0x22C then reportDataRead s
  else if a = 0x80014 then dbgAccess none s
  else
    let v (k : Nat) : Word32 := smapGet (fun k => BitVec.ofNat 32 (regView s t k)) s.latches k
    let latches := (latchedBy a).foldl (fun m k => if k = 0x10094 ∧ a = 0x10090 ∧ (s.latches.any (fun x => decide (x.1 = k))) then m
      else smapInsert k (BitVec.ofNat 32 (regView s t k)) m) s.latches
    readEffect a { s with lastRead := (v a).toNat, latches := latches }

/-! ### The register rows (R9, R294, R402) -/

/-- A 4-byte write of a master at raw time `t`: a register, memory, or the default target (R10, R221). -/
def masterWrite (m t a v : Nat) (s : State) : State :=
  if xbTarget a = 12 then regWrite m t a v s else xbWrite m a (leBytes 4 v) s

/-- A 4-byte read of a master at raw time `t`. -/
def masterRead (m t a : Nat) (s : State) : State :=
  if xbTarget a = 12 then regRead t a s
  else
    let v := leNat (xbReadBytes s m a 4)
    { xbReadEffect m a 4 s with lastRead := v }

/-- The registers of the queue pairs, which PCIe reaches beside the address map (Table 10.10). -/
def inQueueSpace (a : Nat) : Bool := decide (0x100000000 ≤ a ∧ a < 0x100008000)

/-- REGISTER_WRITE: a master writes a register; an access that is not aligned is not carried out (R7), one outside every region goes to the default target
(R10). -/
def execRegisterWrite (master : Fin 24) (a : Nat) (value : Word32) (t : Nat) (s : State) : Res :=
  .next (if a % 4 ≠ 0 then s else if inQueueSpace a then regWrite master.val t a value.toNat s else masterWrite master.val t a value.toNat s)

/-- LATCHING_READ: a read of a register by a master; one of a LO half latches its HI half. -/
def execLatchingRead (r : MasterRead) (t : Nat) (s : State) : Res :=
  .next (if r.addr % 4 ≠ 0 then s else if inQueueSpace r.addr then regRead t r.addr s else masterRead r.master.val t r.addr s)

def execEvtRdIndexWrite (value : Word32) (s : State) : Res := .next (regWrite masterPcie 0 0x10C value.toNat s)

def execEvtDataRead (s : State) : Res := .next (regRead 0 0x110 s)

/-! ### REG_READ and REG_WRITE (R279) -/

/-- The kind of response that word `a` of a register command gets: the whole of register space is served, the buffers behind it are memory. -/
def wordKind (s : State) (a : Nat) (write : Bool) : RespKind :=
  if write then xbWriteKind s masterGroom a 4 else xbReadKind s masterGroom a 4

/-- Read `n` words from `a`: the words and the state, or the index of the word that failed. -/
def wordsRead (t a : Nat) : Nat → Nat → State → List Byte → Except (Nat × State) (List Byte × State)
  | 0, _, s, out => .ok (out, s)
  | n + 1, k, s, out =>
    let x := a + 4 * k
    if wordKind s x false ≠ .ok then .error (k, xbReadEffect masterGroom x 4 s)
    else
      let s := masterRead masterGroom t x s
      wordsRead t a n (k + 1) s (out ++ beBytes 4 s.lastRead)

/-- Write words from `a`: the state, or the index of the word that failed and the state it leaves. -/
def wordsWrite (t a : Nat) (b : List Byte) : Nat → Nat → State → Except (Nat × State) State
  | 0, _, s => .ok s
  | n + 1, k, s =>
    let x := a + 4 * k
    if wordKind s x true ≠ .ok then .error (k, xbCount (wordKind s x true) masterGroom x s)
    else wordsWrite t a b n (k + 1) (masterWrite masterGroom t x (rd b (4 * k) 4) s)

/-- REG_READ, as far as the transport's largest reply reaches. DEDUCED: log entry 95. -/
def regReadCmd (r : Req) (t : Nat) (s : State) : Service :=
  let a := rd r.payload 0 4
  let n := rd r.payload 4 2
  shaped r 8 [6, 7]
  (need (decide (a % 4 = 0)) 0x22 0
  (need (decide (1 ≤ n ∧ n ≤ 2036)) 0x22 4
  (let n := min n ((maxReply r.source - 4) / 4)
   match wordsRead t a n 0 s [] with
   | .error (k, s) => .ok (⟨0x2E, 0, k, []⟩, s)
   | .ok (bs, s) => okRep (beBytes 2 n ++ [0, 0] ++ bs) s)))

def execRegRead (r : Req) (t : Nat) (s : State) : Res := .next (serve 0x105 r (regReadCmd r t) s)

/-- REG_WRITE. DEDUCED: log entry 95. -/
def regWriteCmd (r : Req) (t : Nat) (s : State) : Service :=
  let a := rd r.payload 0 4
  let n := rd r.payload 4 2
  if r.payload.length < 8 then errRep 0x21 8
  else shaped r (8 + 4 * n) [6, 7]
  (need (decide (a % 4 = 0)) 0x22 0
  (need (decide (1 ≤ n)) 0x22 4
  (match wordsWrite t a (r.payload.drop 8) n 0 s with
   | .error (k, s) => .ok (⟨0x2E, 0, k, []⟩, s)
   | .ok s => okRep (beBytes 2 n ++ [0, 0]) s)))

def execRegWrite (r : Req) (t : Nat) (s : State) : Res := .next (serve 0x106 r (regWriteCmd r t) s)

/-! ### Registers over SPI (R267) -/

/-- Whether the SPI target takes a register access: it has power and is not isolated. -/
def spiReach (s : State) : Bool := regsReach s && !testBit (regWord s 0x514).toNat 8

/-- `n` words read from `a` over SPI, a failed one as zero. -/
def spiWords (t a : Nat) : Nat → Nat → State → List Byte → State
  | 0, _, s, out => sendOut (.spi out) s
  | n + 1, k, s, out =>
    let x := a + 4 * k
    let s := if wordKind s x false ≠ .ok then { xbReadEffect masterGroom x 4 s with lastRead := 0 } else masterRead masterGroom t x s
    spiWords t a n (k + 1) s (out ++ beBytes 4 s.lastRead)

/-- SPI_REG_READ: words from consecutive addresses while CSn stays low; an unaligned address is a FORMAT failure. DEDUCED: log entry 95. -/
def spiRegRead (a n t : Nat) (s : State) : State :=
  if ¬ spiReach s then s
  else if a % 4 ≠ 0 then sendOut (.spi (List.replicate (4 * n) 0)) { s with spiFlags := s.spiFlags ||| 4 }
  else spiWords t a n 0 s []

def execSpiRegRead (a : Word32) (n t : Nat) (s : State) : Res := .next (spiRegRead a.toNat n t s)

/-- SPI_REG_WRITE: words to consecutive addresses; an access error loses its word. DEDUCED: log entry 95. -/
def spiRegWrite (a : Nat) (words : List Word32) (t : Nat) (s : State) : State :=
  if ¬ spiReach s then s
  else if a % 4 ≠ 0 then { s with spiFlags := s.spiFlags ||| 4 }
  else forEach (words.zip (List.range words.length)) (fun w s =>
    let x := a + 4 * w.2
    if wordKind s x true ≠ .ok then xbCount (wordKind s x true) masterGroom x s else masterWrite masterGroom t x w.1.toNat s) s

def execSpiRegWrite (a : Word32) (words : List Word32) (t : Nat) (s : State) : Res := .next (spiRegWrite a.toNat words t s)

end Sys2Proof.Machine
end

