-- ==== Sys2Proof/Machine/Arbiter.lean ====
section
/-! DEFINITION. Arbitration of the crossbar (R219–R226): outstanding limits, the order of Table 9.3, responses in issue order, and timeouts. -/

namespace Sys2Proof.Machine

/-- Outstanding bursts that a master may have (Table 9.1). -/
def burstLimit (s : State) (m : Nat) : Nat :=
  if m < 4 then 32
  else if m < 20 then (match (droverOf s (m - 4)).run with
    | some r => if r.ch = 0 then 1 else 16
    | none => 16)
  else if m = 20 then 4 else if m = 21 then 32 else if m = 22 then 64 else 16

/-- The largest burst of a master (Table 9.1). -/
def burstLargest (m : Nat) : Nat := if m < 4 ∨ m = 20 then 64 else 256

/-- Whether a burst has a legal shape: within the master's size, within one 256-byte block (R222). -/
def burstOk (o : BurstOffer) : Bool :=
  decide (0 < o.len ∧ o.len ≤ burstLargest o.master.val ∧ o.addr % 256 + o.len ≤ 256) &&
    (match o.data with
     | none => true
     | some d => decide (d.length = o.len))

/-- Whether a burst runs as FRAME (R219, R232). -/
def frameClass (s : State) (o : BurstOffer) : Bool :=
  let m := o.master.val
  let shared := fbit s Fld.XB_PAIR_SHARE (pairIdx m (xbTarget o.addr))
  if m < 4 ∨ m = 23 then shared
  else if m = 22 then o.reserved && shared
  else if m < 20 then fbit s Fld.DRV_CTRL_MODE (m - 4)
  else false

/-- The share of a burst in 1/256 and the number of its limiter (R241): CH_CFG.SHARE of the frame channel that its drover runs, NF_SHARE of another program,
a limiter for each side of each channel; the pair's SHARE and one limiter for each pair of a master that Table 9.1 limits so. DEDUCED: log entry 123. -/
def shareOf (s : State) (o : BurstOffer) : Nat × Nat :=
  let m := o.master.val
  if 4 ≤ m ∧ m < 20 then
    (match (droverOf s (m - 4)).run with
     | some r =>
       let i := chanIdx (m - 4) r.ch
       (if r.frame.isSome then fld s Fld.CH_CFG_SHARE i else fld s Fld.DRV_CTRL_NF_SHARE (m - 4), 2 * i + bnat o.data.isSome)
     | none => (0, 2 * chanIdx (m - 4) 0 + bnat o.data.isSome))
  else
    let p := pairIdx m (xbTarget o.addr)
    (fld s Fld.XB_PAIR_SHARE p, 256 + p)

/-- When a limiter lets its next burst pass, in 2^-16 ns. -/
def limiterAt (s : State) (k : Nat) : Nat := smapGet (fun _ => 0) s.limiters k

/-- Whether a burst's limiter is eligible at raw time `t` in ns (R241). -/
def eligibleAt (s : State) (t : Nat) (o : BurstOffer) : Bool :=
  let p := shareOf s o
  decide (0 < p.1 * targetRate (xbTarget o.addr) ∧ limiterAt s p.2 ≤ 65536 * t)

/-- A granted FRAME burst of b bytes at rate R moves its limiter to 256·b / (s·R) ns behind the later of its previous eligible time and the present
(R241). DEDUCED: log entry 123. -/
def chargeLimiter (t : Nat) (o : BurstOffer) (s : State) : State :=
  let p := shareOf s o
  let d := p.1 * targetRate (xbTarget o.addr)
  if d = 0 then s
  else { s with limiters := smapSet (fun _ => 0) p.2 (max (limiterAt s p.2) (65536 * t) + (65536 * 256 * o.len + d - 1) / d) s.limiters }

/-- Whether a master may offer the burst at this point now. -/
def burstOffered (s : State) (point : Nat) (o : BurstOffer) : Bool :=
  decide (arbPoint o.addr = point) && burstOk o && decide ((s.bursts.filter (fun b => decide (b.master = o.master.val))).length < burstLimit s o.master.val)

/-- How far a master stands behind the last winner in the round-robin order of master ID. DESIGN CHOICE: log entry 22. -/
def turn (last m : Nat) : Nat := (m + 23 - last) % 24

/-- The winner among candidates: the highest priority, then the first in the round-robin order. -/
def arbWinner (prio : BurstOffer → Nat) (last : Nat) (l : List BurstOffer) : Option BurstOffer :=
  l.foldl (fun best x => match best with
    | none => some x
    | some y => if prio y < prio x ∨ (prio y = prio x ∧ turn last x.master.val < turn last y.master.val) then some x else some y) none

def arbOf (s : State) (point : Nat) : ArbPoint := smapGet (fun _ => arbIdle) s.arb point

/-- A point grants a burst, which waits for its response. DESIGN CHOICE: log entry 119. -/
def grantTo (point : Nat) (frame : Bool) (o : BurstOffer) (s : State) : State :=
  let p := arbOf s point
  let m := o.master.val
  let k := match o.data with
    | some _ => xbWriteKind s m o.addr o.len
    | none => xbAccess s m o.addr o.len
  { s with arb := smapSet (fun _ => arbIdle) point { parked := m, rrF := if frame then m else p.rrF, rrB := if frame then p.rrB else m } s.arb,
           bursts := s.bursts ++ [⟨m, xbTarget o.addr, o.addr, o.len, o.data, k⟩] }

/-- The next grant of a point in the order of Table 9.3; without a candidate it stays parked on the last master granted (R223, R224). DEDUCED: log entry 21. -/
def crossbarGrant (point : Nat) (offers : List BurstOffer) (t : Nat) (s : State) : State :=
  let p := arbOf s point
  let l := offers.filter (burstOffered s point)
  let first := l.filter (fun o => frameClass s o && eligibleAt s t o)
  let charge (o : BurstOffer) (s : State) : State := if frameClass s o then chargeLimiter t o s else s
  let prio (f : RegField) (o : BurstOffer) : Nat := fld s f (pairIdx o.master.val (xbTarget o.addr))
  match arbWinner (prio Fld.XB_PAIR_PRIO_F) p.rrF first with
  | some o => grantTo point true o (charge o s)
  | none => match arbWinner (prio Fld.XB_PAIR_PRIO_B) p.rrB l with
    | some o => grantTo point false o (charge o s)
    | none => s

def execCrossbarGrant (point : Fin 144) (offers : GrantOffers) (s : State) : Res := .next (crossbarGrant point.val offers.bursts offers.t s)

/-! ### Responses (R222, R243) -/

/-- The oldest burst of a master to a target, taken out of those that wait. -/
def takeBurst (m t : Nat) (s : State) : Option (Burst × State) :=
  (s.bursts.find? (fun b => decide (b.master = m ∧ b.target = t))).map (fun b => (b, { s with bursts := s.bursts.erase b }))

/-- An error response to a drover's burst counts at its drover (R243). DEDUCED: log entry 21. -/
def burstError (k : RespKind) (b : Burst) (s : State) : State :=
  if 4 ≤ b.master ∧ b.master < 20 then
    (match (droverOf s (b.master - 4)).run with
     | some r => countResp (b.master - 4) r.ch k b.addr s
     | none => countResp (b.master - 4) 0 k b.addr s)
  else s

/-- The response of a burst's target: the kind under which it was granted, or what the block behind the target answers since: ISOLATED after a block
reset, an error of the memory array for a read. DEDUCED: log entry 123. -/
def burstKind (s : State) (b : Burst) : RespKind :=
  if b.kind ≠ .ok then b.kind
  else if targetIsolated s b.target then .isolated
  else if b.data.isNone ∧ b.target ≠ 12 ∧ xbUe s b.addr b.len then .ecc else .ok

/-- A burst completes at raw time `t` with the access rights it was granted with (R205): a write has its effect, a read leaves its data in `lastRead`, zero in
every word that an error affects; a block reset has answered the bursts of its block with ISOLATED. -/
def burstDone (b : Burst) (t : Nat) (s : State) : State :=
  let k := burstKind s b
  match b.data with
  | some d =>
    if k ≠ .ok then burstError k b (xbCount k b.master b.addr s)
    else if b.target = 12 then regWrite b.master t b.addr (leNat d) s
    else targetWrite b.addr d s
  | none =>
    if k = .ok ∧ b.target = 12 then regRead t b.addr s
    else
      let v := leNat (targetRead s k b.addr b.len)
      let s := if k = .ok ∨ k = .ecc then xbEccRead b.addr b.len s else xbCount k b.master b.addr s
      burstError k b { s with lastRead := v }

/-- BURST_RESPONSE: the bursts of one master to one target complete in issue order (R222); those to a cellar channel wait through its retraining (R215). DEDUCED: log entry 21. -/
def burstResponse (m target t : Nat) (s : State) : State :=
  if targetWaits s target then s
  else match takeBurst m target s with
  | none => s
  | some (b, s) => burstDone b t s

def execBurstResponse (master : Fin 24) (target : Fin 16) (t : Nat) (s : State) : Res := .next (burstResponse master.val target.val t s)

/-- The counts of a timeout (R226). -/
def noteTimeout (m target : Nat) (s : State) : State :=
  raise 0x41 m target (setBit Fld.XB_STATUS_TO_STICKY 0 (setFld Fld.XB_TO_COUNT_TARGET 0 target (setFld Fld.XB_TO_COUNT_MASTER 0 m
    (countFld Fld.XB_TO_COUNT_COUNT 0 s))))

/-- The burst on which a drover's MOVE waits times out: its read will deliver zeros, its write nothing (R226, R243). DEDUCED: log entry 125. -/
def moveTimeout (d target : Nat) (s : State) : State :=
  match (droverOf s d).run with
  | some r =>
    (match r.waits with
     | some (t, a) =>
       if t = target ∧ ¬ r.lost then
         let x := droverOf s d
         countResp d r.ch .timeout a (noteTimeout (masterDrover d) target (setDrover d { x with run := some { r with lost := true } } s))
       else s
     | none => s)
  | none => s

/-- XB_TIMEOUT (R226): the oldest burst of a master to a target gets the response TIMEOUT; the later response finds no burst. A drover without such a burst may
wait in a MOVE. DEDUCED: log entry 21. -/
def xbTimeout (m target : Nat) (s : State) : State :=
  match takeBurst m target s with
  | none => if 4 ≤ m ∧ m < 20 then moveTimeout (m - 4) target s else s
  | some (b, s) => burstError .timeout b (noteTimeout m target { s with lastRead := if b.data.isNone then 0 else s.lastRead })

def execXbTimeout (master : Fin 24) (target : Fin 16) (s : State) : Res := .next (xbTimeout master.val target.val s)

end Sys2Proof.Machine
end

