-- ==== Sys2Proof/Machine/CmdUnits.lean ====
section
/-! DEFINITION. Cellar regions (R287), and the port and override opcodes (R288, R314, R322, R429, R440). -/

namespace Sys2Proof.Machine

/-! ### Cellar (R287) -/

/-- The cellar ranges that the live program and the compile outputs use. -/
def programRanges (s : State) : List (Nat × Nat) :=
  s.liveCellar ++ s.brews.flatMap (fun b => match b.2.out with
    | some o => o.cellar
    | none => [])

/-- CELLAR_RESERVE (R287). DEDUCED: log entry 106. -/
def cellarReserve (r : Req) (s : State) : Service :=
  let a := rd r.payload 0 8
  let n := rd r.payload 8 8
  shaped r 16 []
  (need (decide (a % mebi = 0 ∧ cellarBase ≤ a ∧ a < cellarEnd)) 0x22 0
  (need (decide (n % mebi = 0 ∧ 0 < n ∧ a + n ≤ cellarEnd)) 0x22 8
  (match s.regions.find? (fun g => overlaps a n g.base g.len) with
   | some g => errRep 0x68 g.id
   | none =>
     if overlaps a n brewStoreBase (cellarEnd - brewStoreBase) then errRep 0x68 a
     else if (programRanges s).any (fun p => overlaps a n p.1 p.2) then errRep 0x68 a
     else match (List.range 16).find? (fun i => s.regions.all (fun g => decide (g.id ≠ i))) with
       | none => errRep 0x27 16
       | some i => okRep ([BitVec.ofNat 8 i, 0, 0, 0]) { s with regions := s.regions ++ [⟨i, a, n⟩] })))

def execCellarReserve (r : Req) (s : State) : Res := .next (serve 0x600 r (cellarReserve r) s)

/-- Whether a running job uses a host region (R287). -/
def regionBusy (s : State) (g : CellarRegion) : Bool :=
  s.jobs.any (fun j => decide (j.state = 0) && match j.work with
    | .load _ a => overlaps a (sceneLen s a) g.base g.len
    | .store _ a n => overlaps a (max n 1) g.base g.len
    | .copy a b n => overlaps a n g.base g.len || overlaps b n g.base g.len
    | _ => false)

def cellarRelease (r : Req) (s : State) : Service :=
  shaped r 4 [1, 2, 3]
  (match s.regions.find? (fun g => decide (g.id = pb r 0)) with
   | none => errRep 0x26 0
   | some g =>
     if regionBusy s g then errRep 0x68 g.id
     else okRep [] { s with regions := s.regions.filter (fun x => decide (x.id ≠ g.id)) })

def execCellarRelease (r : Req) (s : State) : Res := .next (serve 0x601 r (cellarRelease r) s)


/-- CELLAR_READ, which waits while its channel retrains (R215): the bytes, as many as the reply holds (R257); an uncorrectable word ends it with MEM_ERROR and is recorded (R213). DEDUCED: log entry 106. -/
def cellarRead (r : Req) (s : State) : State :=
  let a := rd r.payload 0 8
  let n := rd r.payload 8 4
  if inRegion s a n ∧ rangeWaits s a n then s
  else match taken 0x602 r s with
  | none => s
  | some s =>
    match shaped r 12 [] (need (decide (8 ≤ n ∧ n ≤ 8144 ∧ n % 8 = 0)) 0x22 8 (need (inRegion s a n) 0x2F 0 (okRep [] s))) with
    | .error p => answer r p s
    | .ok _ =>
      let m := min n (maxReply r.source / 8 * 8)
      match firstUe s a m with
      | some w => answer r ⟨0x30, 0, w % 2 ^ 32, []⟩ (xbReadEffect masterGroom a m s)
      | none => answer r ⟨0, 0, 0, xbReadBytes s masterGroom a m⟩ (xbReadEffect masterGroom a m s)

def execCellarRead (r : Req) (s : State) : Res := .next (cellarRead r s)

def cellarWrite (r : Req) (s : State) : Service :=
  let a := rd r.payload 0 8
  let n := r.payload.length - 8
  need (decide (16 ≤ r.payload.length ∧ n % 8 = 0)) 0x21 16
  (need (inRegion s a n) 0x2F 0 (okRep [] (xbWrite masterGroom a (r.payload.drop 8) s)))

/-- CELLAR_WRITE waits while its channel retrains (R215). -/
def execCellarWrite (r : Req) (s : State) : Res :=
  .next (if rangeWaits s (rd r.payload 0 8) (r.payload.length - 8) then s else serve 0x603 r (cellarWrite r) s)

def cellarCopy (r : Req) (h : Nat) (s : State) : Service :=
  let a := rd r.payload 0 8
  let b := rd r.payload 8 8
  let n := rd r.payload 16 8
  shaped r 24 []
  (need (decide (n % 64 = 0)) 0x22 16
  (need (inRegion s a n) 0x2F 0
  (need (inRegion s b n) 0x2F 8
  (startJob r h (.copy a b n) (fun _ s => s) s))))

def execCellarCopy (r : Req) (h : Nat) (s : State) : Res := .next (serve 0x604 r (cellarCopy r h) s)

/-- The end of a CELLAR_COPY job: the bytes before the first uncorrectable word have been copied when it ends with MEM_ERROR (R213, R287). -/
def copyFinish (h a b n : Nat) (s : State) : State :=
  if rangeWaits s a n ∨ rangeWaits s b n then s
  else match firstUe s a n with
  | some w =>
    endJob h 2 0x30 w 0 (xbWrite masterGroom b (xbReadBytes s masterGroom a (w - a)) (xbReadEffect masterGroom a (w + 8 - a) s))
  | none => endJob h 1 0 0 0 (xbWrite masterGroom b (xbReadBytes s masterGroom a n) (xbReadEffect masterGroom a n s))

/-! ### Ports (R288, R314, R322) -/

/-- The common part of PORT_START and PORT_STOP. -/
def portAction (r : Req) (f : Nat → Nat → Nat → State → State) (s : State) : Service :=
  let frame := rd r.payload 8 8
  shaped r 16 [6, 7]
  (need (decide (s.frame + 2 ≤ frame)) 0x55 (s.frame + 2)
  (okRep [] (f (rd r.payload 0 4) (rd r.payload 4 2) frame s)))

def execPortStart (r : Req) (s : State) : Res := .next (serve 0x700 r (portAction r portStart) s)

def execPortStop (r : Req) (s : State) : Res := .next (serve 0x701 r (portAction r portStop) s)

/-- The port status record (R322). -/
def portRecord (s : State) (p : Nat) : List Byte :=
  let n (x : Nat) : Nat := if p < 32 then x else 0
  let flags := if p < 32 then bitsOf 4 0 (regWord s (0x30108 + 0x20 * p)).toNat else 0
  beBytes 1 p ++ beBytes 1 (portCode s p) ++ beBytes 2 flags ++ beBytes 8 (portOf s p).startFrame ++
    beBytes 4 (n (fld s Fld.PORT_UNDER_COUNT_COUNT p)) ++ beBytes 4 (n (fld s Fld.PORT_OVER_COUNT_COUNT p)) ++
    beBytes 4 (n (wrapInt 32 (fldS s Fld.PORT_STATE_EDGE_PHASE p))) ++ beBytes 8 0

def portStatus (r : Req) (s : State) : Service :=
  shaped r 4 [1, 2, 3] (need (decide (pb r 0 < 48)) 0x22 0 (okRep (portRecord s (pb r 0)) s))

def execPortStatus (r : Req) (s : State) : Res := .next (serve 0x702 r (portStatus r) s)

/-! ### Override (R288, R429, R440) -/

def overrideCmd (r : Req) (s : State) : Service :=
  shaped r 4 [2, 3]
  (need (decide (pb r 0 ≤ 1)) 0x22 0
  (need (decide (pb r 1 ≤ 3)) 0x22 1
  (okRep (beBytes 8 (s.frame + 1)) (overrideSet (decide (pb r 0 = 1)) (pb r 1) s))))

def execOverrideSet (r : Req) (s : State) : Res := .next (serve 0xC00 r (overrideCmd r) s)

/-- The override status record (R440). -/
def overrideRecord (s : State) : List Byte :=
  beBytes 1 (fld s Fld.OVR_STATUS_ACTIVE) ++ beBytes 1 (fld s Fld.OVR_STATUS_IN_RAW) ++ beBytes 1 (fld s Fld.OVR_STATUS_IN_ACTIVE) ++
    beBytes 1 (fld s Fld.OVR_STATUS_CMD) ++ beBytes 8 (fldPair s Fld.OVR_FRAME_LO_FRAME_LO Fld.OVR_FRAME_HI_FRAME_HI) ++
    beBytes 4 (fld s Fld.OVR_COUNT_TAKEN) ++ beBytes 1 (ovrCompiled s) ++ beBytes 7 0

def overrideStatus (r : Req) (s : State) : Service := shaped r 0 [] (okRep (overrideRecord s) s)

def execOverrideStatus (r : Req) (s : State) : Res := .next (serve 0xC01 r (overrideStatus r) s)

end Sys2Proof.Machine
end

