-- ==== Sys2Proof/Machine/Meter.lean ====
section
/-! DEFINITION. Metering (R168–R170), and METER_READ (R282). -/

namespace Sys2Proof.Machine

/-- The frames P of a meter period (Table 6.10). -/
def meterFrames (fs : Nat) : Nat := 32 * 2 ^ (fs / 2)

/-- The channels of a metered node: a METER node's inputs, any other node's outputs. DESIGN CHOICE: log entry 118. -/
def meterWidth (n : GNode) : Nat := if kernelId n = 11 then n.nIn else n.nOut

/-- Whether a node has meters (R168). -/
def metered (n : GNode) : Bool := decide (kernelId n = 11 ∨ n.flags % 2 = 1)

/-- The largest magnitude of samples, as MAXAI finds it (R168). -/
def peakOf (l : List S48) : Nat := l.foldl (fun m x => max m x.toInt.natAbs) 0

/-- The samples at or above 0 dBFS (R168). -/
def oversOf (l : List S48) : Nat := (l.filter (fun x => decide (2 ^ 40 ≤ x.toInt.natAbs))).length

/-- The sum of the products of each sample and its bits [47:16] (R168). -/
def squaresOf (l : List S48) : Nat := (l.foldl (fun (a : Int) (x : S48) => a + x.toInt * (x.toInt / 2 ^ 16)) 0).toNat

/-- The smallest gain applied, as MINI finds it (R168); none without dynamics. -/
def minGainOf (l : List Word32) : Option Int :=
  match l with
  | [] => none
  | g :: t => some (t.foldl (fun m x => min m x.toInt) g.toInt)

/-- A peak in 1/100 dBFS: the level rounded to one of its two neighbours; below −240 dBFS for silence (R169, R170). DEDUCED: log entry 108. -/
def peakLevel (p : Nat) : Int :=
  if p = 0 then -24001 else let c := centiDb (p ^ 2) (2 ^ 80); held c (c + 1) (Config.peakDb p)

/-- The RMS level in 1/100 dBFS of an average of mean squares, in units of 2^−28: within 0.06 dB of the exact value above −100 dBFS (R168); below −240 dBFS for silence. DEDUCED: log entry 108. -/
def rmsLevel (q : Nat) : Int :=
  let c := centiDb q (2 ^ 92)
  if q = 0 then -24001 else if c < -10000 then min (-9994) (Config.rmsDb q) else held (c - 5) (c + 6) (Config.rmsDb q)

/-- A gain reduction in 1/100 dB, at most 0 (R170). DEDUCED: log entry 108. -/
def gainLevel (g : Int) : Int :=
  if g ≤ 0 then min 0 (Config.gainDb 0) else let c := centiDb (g.toNat ^ 2) (2 ^ 56); min 0 (held c (c + 1) (Config.gainDb g.toNat))

/-- The exponential average of period mean squares over one more period of `ns`, with a time constant in µs, in units of 2^−28; a period without samples adds nothing (R169). DEDUCED: log entries 43, 108. -/
def rmsAverage (old ns time : Nat) (l : List S48) : Nat :=
  if l = [] then old
  else ((old : Int) + roundShift (((squaresOf l * 2 ^ 28 / l.length : Nat) - (old : Int)) * expFrac ns (time * 1000)) 28).toNat

/-- The held peak of a channel over one period of `ns` (R169): the highest peak for the hold time, then falling at the decay rate. -/
def heldPeak (s : State) (n : GNode) (ns : Nat) (c : MeterChan) (b : MeterBal) : Int × Nat :=
  let m := s.liveParams
  let p := peakLevel (peakOf c.samples) * 1000000
  let decay := (paramIn m n 0x40000001).toNat
  if b.hold ≤ p then (p, (paramIn m n 0x40000000).toNat * 1000)
  else if 0 < b.holdLeft then (b.hold, b.holdLeft - ns)
  else (max p (b.hold - (decay * ns / 10000 : Nat)), 0)

/-- The ballistics of a channel over one period of `ns` (R169). -/
def ballistics (s : State) (n : GNode) (ns : Nat) (c : MeterChan) (b : MeterBal) : MeterBal :=
  let h := heldPeak s n ns c b
  { b with hold := h.1, holdLeft := h.2, meanSq := rmsAverage b.meanSq ns (paramIn s.liveParams n 0x40000002).toNat c.samples,
           gr := (minGainOf c.gains).elim 0 gainLevel }

/-- A period folded into the extremes of a channel (R170). -/
def foldExt (c : MeterChan) (e : MeterExt) : MeterExt :=
  ⟨max e.peak (peakOf c.samples), satNat 0xFFFF (e.overs + oversOf c.samples), e.clip || c.clip, e.fill || c.fill⟩

/-- The first channel with the largest peak (R168). -/
def loudestOf (cs : List MeterChan) : Nat :=
  ((cs.zip (List.range cs.length)).foldl
    (fun (a : Nat × Nat) x => if a.1 < peakOf x.1.samples then (peakOf x.1.samples, x.2) else a) (0, 0)).2

/-- METER_PERIOD_END: the node of a period that ended with frame `f` hands its record to the groom, which folds it for every open session. DEDUCED: log entry 43. -/
def meterPeriodEnd (node f : Nat) (cs : List MeterChan) (s : State) : State :=
  match nodeOf s.live node with
  | none => s
  | some n =>
    let frames := meterFrames s.fs
    if ¬ metered n ∨ cs.length ≠ meterWidth n ∨ (f + 1) % frames ≠ 0 then s
    else
      let ns := frames * 1000000000 / fsHz s.fs
      let m := meterOf s node
      let bal := (cs.zip (List.range cs.length)).map (fun x => ballistics s n ns x.1 (m.chans.getD x.2 balNone))
      let extOf (k : Nat) : List MeterExt := ((m.ext.find? (fun p => decide (p.1 = k))).map Prod.snd).getD []
      let ext := s.sessions.map (fun x =>
        (x.num, (cs.zip (List.range cs.length)).map (fun c => foldExt c.1 ((extOf x.num).getD c.2 extNone))))
      setMeter node ⟨loudestOf cs, f, bal, ext⟩ s

def execMeterPeriodEnd (node f : Nat) (cs : List MeterChan) (s : State) : Res := .next (meterPeriodEnd node f cs s)

/-! ### METER_READ (R282) -/

/-- A level in 1/100 dBFS as a meter record carries it: 8000h below −240 dBFS (Table 6.11). -/
def dbWord (x : Int) : List Byte := beBytes 2 (if x < -24000 then 0x8000 else wrapInt 16 (min x 4200))

/-- The 12-byte record of a channel (Table 6.11). DEDUCED: log entry 43. -/
def meterChanBytes (b : MeterBal) (e : MeterExt) : List Byte :=
  dbWord (peakLevel e.peak) ++ dbWord (b.hold / 1000000) ++ dbWord (rmsLevel b.meanSq) ++
    beBytes 2 (wrapInt 16 b.gr) ++ beBytes 2 e.overs ++ beBytes 2 (bnat b.silent + 2 * bnat e.clip + 4 * bnat e.fill)

/-- The channels of a node that a read returns. -/
def meterSpan (n : GNode) (first count : Nat) : List Nat := (List.range (meterWidth n)).filter (fun i => decide (first ≤ i ∧ i < first + count))

/-- The record of a node for a session (R170). -/
def meterNodeBytes (s : State) (session first count : Nat) (n : GNode) : List Byte :=
  let m := meterOf s n.id
  let e := ((m.ext.find? (fun p => decide (p.1 = session))).map Prod.snd).getD []
  let l := meterSpan n first count
  beBytes 2 m.loudest ++ beBytes 2 l.length ++ beBytes 4 m.frame ++
    l.flatMap (fun i => meterChanBytes (m.chans.getD i balNone) (e.getD i extNone))

/-- Restart the extremes of a session for the channels returned. -/
def meterRestart (session first count : Nat) (n : GNode) (s : State) : State :=
  let m := meterOf s n.id
  let clear (l : List MeterExt) : List MeterExt :=
    (l.zip (List.range l.length)).map (fun x => if first ≤ x.2 ∧ x.2 < first + count then extNone else x.1)
  setMeter n.id { m with ext := m.ext.map (fun p => if p.1 = session then (p.1, clear p.2) else p) } s

/-- The nodes, in request order, whose records fit in the room that is left. -/
def meterFit (first count : Nat) : Nat → List GNode → List GNode
  | _, [] => []
  | room, n :: t =>
    let need := 8 + 12 * (meterSpan n first count).length
    if need ≤ room then n :: meterFit first count (room - need) t else []

def meterRead (r : Req) (s : State) : Service :=
  let k := rd r.payload 0 2
  let first := rd r.payload 2 2
  let count := rd r.payload 4 2
  let ids := (List.range k).map (fun i => (8 + 2 * i, rd r.payload (8 + 2 * i) 2))
  need (decide (8 ≤ r.payload.length)) 0x21 8
  (shaped r (8 + 2 * k) [6, 7]
  (need (decide (1 ≤ k ∧ k ≤ 64)) 0x22 0
  (need (decide (first ≤ 1023)) 0x22 2
  (need (decide (1 ≤ count ∧ count ≤ 1024)) 0x22 4
  (match ids.find? (fun p => (nodeOf s.live p.2).isNone) with
   | some p => errRep 0x26 p.1
   | none =>
     match ids.find? (fun p => ((nodeOf s.live p.2).map (fun n => !metered n)).getD true) with
     | some p => errRep 0x46 p.1
     | none =>
       let nodes := ids.filterMap (fun p => nodeOf s.live p.2)
       let out := meterFit first count (maxReply r.source - 4) nodes
       if out = [] then errRep 0x27 ((maxReply r.source - 12) / 12)
       else
         okRep (beBytes 2 out.length ++ [0, 0] ++ out.flatMap (meterNodeBytes s r.session first count))
           (forEach out (meterRestart r.session first count) s))))))

def execMeterRead (r : Req) (s : State) : Res := .next (serve 0x302 r (meterRead r) s)

end Sys2Proof.Machine
end

