-- ==== Sys2Proof/Machine/FixedStages.lean ====
section
/-! DEFINITION. The fixed stages of the input strips (R162–R164): DC blocker, high-pass filter and silence detector, run on the samples of a channel, and the event of
the detector. -/

namespace Sys2Proof.Machine

/-- The fixed stages of a channel that nothing has reached. -/
def stripNone : InStrip := ⟨0, 0, 0, 0, 0, 0⟩
def stripOf (s : State) (node chan : Nat) : InStrip := smapGet (fun _ => stripNone) s.strips (65536 * node + chan)
def setStrip (node chan : Nat) (x : InStrip) (s : State) : State :=
  { s with strips := smapSet (fun _ => stripNone) (65536 * node + chan) x s.strips }

/-- A value limited to the range of a sample (R65). -/
def sat48 (x : Int) : Int := (satInt 48 x).1

/-- One sample through the DC blocker (R162): the input less the integrator, rounded at the output; the integrator follows the output, rounded once. The spec gives neither
the integrator's precision nor its coefficient. DESIGN CHOICE: log entry 112. -/
def dcBlock (rate : Nat) (dc x : Int) : Int × Int :=
  (sat48 (x - roundShift dc Config.dcFrac), dc + roundShift (Config.dcCoef rate * (x * 2 ^ Config.dcFrac - dc)) 64)

/-- One sample through the HPF with the coefficients b0, b1, b2, −a1, −a2: one rounding (R162). -/
def hpfSample (c : List Int) (v : InStrip) (x : Int) : Int :=
  let k (i : Nat) : Int := c.getD i 0
  sat48 (roundShift (k 0 * x + k 1 * v.x1 + k 2 * v.x2 + k 3 * v.y1 + k 4 * v.y2) 28)

/-- One sample through the DC blocker and then the HPF; the result is the last output. -/
def stripSample (rate : Nat) (c : List Int) (v : InStrip) (x : Int) : InStrip :=
  let d := dcBlock rate v.dc x
  let y := hpfSample c v d.1
  { v with dc := d.2, x1 := d.1, x2 := v.x1, y1 := y, y2 := v.y1 }

/-- Whether a magnitude lies below a level of `l` thousandths of a dBFS, at most 0 (R164). -/
def belowLevel (l : Int) (x : Int) : Bool := decide (x.natAbs ^ 20000 * 10 ^ l.natAbs < 2 ^ 800000)

/-- The coefficients of the HPF that a node uses now: those of its ramp, else of its live settings (R163). -/
def hpfNow (s : State) (n : GNode) (rate : Nat) : List Int :=
  match s.ramps.find? (fun r => decide (r.owner = paramOwner n ∧ r.index = 4)) with
  | some r => r.used
  | none => sectionIn s.liveParams n 4 rate

/-- The rate in mHz of a node's segment. -/
def nodeRate (s : State) (g : Graph) (n : GNode) : Nat :=
  match segOf g n.segment with
  | some x => 1000 * fsHz s.fs * x.mul / x.div
  | none => 1000 * fsHz s.fs

/-- Whether the detector of a node's channel has been quiet for the hold time of item 7 (R164). -/
def quietLong (s : State) (n : GNode) (quiet : Nat) : Bool :=
  decide ((paramIn s.liveParams n 7).toNat * nodeRate s s.live n ≤ quiet * 1000000000)

/-- The detector's state changes: the meter flag, and with item 8 the event with node, channel and frame index (R164). -/
def silenceSet (n : GNode) (chan : Nat) (silent : Bool) (s : State) : State :=
  let m := meterOf s n.id
  if (m.chans.getD chan balNone).silent = silent then s
  else
    let chans := (List.range (meterWidth n)).map (fun i =>
      let b := m.chans.getD i balNone
      if i = chan then { b with silent := silent } else b)
    let s := setMeter n.id { m with chans := chans } s
    if (paramIn s.liveParams n 8).toNat = 1 then raise 0x62 n.id (chan + 65536 * bnat silent) s else s

/-- One sample of a channel of an INSTRIP through the fixed stages and the detector, which works on their output. -/
def stripStep (n : GNode) (chan : Nat) (x : S48) (s : State) : State :=
  let rate := nodeRate s s.live n
  let v := stripSample rate (hpfNow s n rate) (stripOf s n.id chan) x.toInt
  let below := belowLevel (paramIn s.liveParams n 6).toInt v.y1
  let v := { v with quiet := if below then v.quiet + 1 else 0 }
  let s := setStrip n.id chan v s
  if ¬ below then silenceSet n chan false s else if quietLong s n v.quiet then silenceSet n chan true s else s

/-- INPUT_SILENCE: samples of a channel of an INSTRIP pass its fixed stages; the channel enters SILENT after the hold time below the threshold and leaves
it at the first sample at or above it (R164). -/
def inputSilence (node chan : Nat) (samples : List S48) (s : State) : State :=
  match nodeOf s.live node with
  | none => s
  | some n => if kernelId n ≠ 1 ∨ meterWidth n ≤ chan then s else forEach samples (stripStep n chan) s

def execInputSilence (node : Nat) (chan : Nat) (samples : List S48) (s : State) : Res := .next (inputSilence node chan samples s)

end Sys2Proof.Machine
end

