-- ==== Sys2Proof/Machine/Tap.lean ====
section
/-! DEFINITION. Step 5 of a frame boundary (R180–R187): the effect of a tap, its deferral by an override, the settle tap, and the final pages of a
route crossfade. -/

namespace Sys2Proof.Machine

/-- The staged word of a register. -/
def stagedWord (s : State) (a : Nat) : Option Word32 := (s.staged.find? (fun p => decide (p.1 = a))).map Prod.snd

/-- Drop a staged word. -/
def unstage (a : Nat) (s : State) : State := { s with staged := smapErase a s.staged }

/-! ### Pages, parameter selects, tokens, registers (R59, R152, R181, R183) -/

/-- The live and the staged page of a stall swap at its next start; a stall that is between frames has left its page (R59). DEDUCED: log entry 16. -/
def tapPage (u : Nat) (s : State) : State :=
  let s := setPages u { pagesOf s u with swapDue := true } s
  if (unitOf s u).st = .ended then takeSwap u s else s

/-- PSEL of a stall whose page stays is inverted, in the same way (R152). -/
def tapSelect (u : Nat) (s : State) : State :=
  let s := setPages u { pagesOf s u with pselDue := true } s
  if (unitOf s u).st = .ended then takeSwap u s else s

/-- The token of a bank moves. A token that moves away from a stall that still runs an earlier frame waits for that stall's next start (R181). DEDUCED: log entry 98. -/
def tapBank (k : Nat) (s : State) : State :=
  match stagedWord s (0x61000 + 4 * k) with
  | none => s
  | some w =>
    let s := unstage (0x61000 + 4 * k) s
    let v := w.toNat
    let old := fld s Fld.BANK_OWN_OWNER k
    let owner := if 9 < v % 16 then old else v % 16
    let s := if 9 < v % 16 then setBit Fld.MEM_STATUS_CFG_ERR 0 s else s
    let u := 8 * (k / 16) + old
    if old < 8 ∧ owner ≠ old ∧ (unitOf s u).st ≠ .ended then
      let st := stallOf s u
      setStall u { st with tokenMoves := st.tokenMoves ++ [(k, owner, testBit v 4)] } s
    else moveToken k owner (testBit v 4) { s with tokenBad := s.tokenBad.filter (fun b => decide (b ≠ k)) }

/-- The staged copy of a register becomes live at boundary `b`: fields that fail a check keep their live value (R183, R284). DEDUCED: log entry 91. -/
def tapReg (b a : Nat) (s : State) : State :=
  match stagedWord s a, regAt a with
  | some w, some (row, i) =>
    let s := unstage a s
    if 0x30100 ≤ a ∧ a < 0x30500 ∧ a % 0x20 = 0 then portCfgApply i w.toNat (2 ^ 32 - 1) b s
    else rwApply (some b) row i a w.toNat row.fields s
  | _, _ => s

/-- What a claim does at the tap. The window of a stall with a new page goes with the page; what only the final program changes waits for the settle tap. -/
def tapClaim (x : Brew) (us : List Nat) (b : Nat) (k : Claim) (s : State) : State :=
  match k with
  | .page u => if (outPage x u).isSome then tapPage u s else s
  | .window u => if (outPage x u).isNone ∧ us.contains u then tapSelect u s else s
  | .bank k => tapBank k s
  | .reg a => tapReg b a s

/-! ### The program that becomes live -/

/-- The streams of a new program start (R52): those of running ports and, while the array runs, the others; in SAFE only those that an override route
carries (R437). -/
def tapStreams (s : State) : State :=
  if arrayRuns s then (if s.mode = .safe then streamsSafe (streamsStart s) else streamsStart s)
  else forEach (List.range 48) (fun p s => if portRunning s p then setActive (portOf s p).stream true s else s) s

/-- The streams that the program of the last frames had and the live one has not end once those frames are settled (R52). DEDUCED: log entry 100. -/
def streamsPrune (s : State) : State :=
  forEach ((smapKeys s.ledger.cur).filter (fun k => (streamOf s.ledger.cur k).active && !s.liveStreams.any (fun y => decide (y.index = k))))
    (fun k s => setActive (some k) false s) s

/-- A channel's descriptor takes the maltster's part; flags' tags, posts made and a pending abort stay. DEDUCED: log entry 100. -/
def tapChan (i : Nat) (c : ChanDesc) (s : State) : State :=
  let o := chanOf s i
  setChan i { c with made := o.made, abort := o.abort, tags := o.tags } s

/-- The FRAME shares that the live program reserves, the largest sum at any point of each target (R211, R228, Table 9.13). DEDUCED: log entry 92. -/
def tapShares (s : State) : State :=
  let vs := (List.range 16).map (targetShares s)
  forEach (List.range 16) (fun t s =>
    let s := setFld Fld.XB_TGT_RES_RESERVED t (vs.getD t 0) s
    if 4 ≤ t ∧ t < 12 then setFld Fld.CH_SHARE_SHARE (t - 4) (vs.getD t 0) s else s) s

/-- The memory areas that the tasks of a program hold, by stall (R370). -/
def setAreas (x : ProgramSet) : List (Nat × Nat × Nat) := x.tasks.flatMap (fun t => t.areas.map (fun a => (t.unit, a.base, a.len)))

/-- The state registers of the tasks of a program, by stall (R370). -/
def setRegs (x : ProgramSet) : List (Nat × List Nat) :=
  ((x.tasks.map TaskOut.unit).eraseDups).map (fun u => (u, ((unitTasks x u).flatMap TaskOut.regs)))

/-- A program set becomes the live one: tasks, posts, memory areas and state registers. -/
def setLive (x : ProgramSet) (s : State) : State :=
  { s with liveTasks := x.tasks, livePosts := x.posts, liveAreas := setAreas x, liveRegs := setRegs x }

/-- The compile output of a brew becomes the live program, beside its pages (R132, R142–R144, R370). DEDUCED: log entry 100. -/
def tapProgram (x : Brew) (o : CompileOut) (s : State) : State :=
  let s := forEach o.chans (fun c s => tapChan c.1 c.2 s) s
  let s := forEach (List.range 48) (fun p s =>
    setPort p { portOf s p with stream := (o.portStreams.find? (fun q => decide (q.1 = p))).map Prod.snd } s) s
  let s := setFld Fld.SHADOW_MIRROR_STATE_CAP 0 o.stateCap (tapShares s)
  let has (i : Nat) : Bool := (nodeOf x.outGraph i).isSome
  let s := { s with live := x.outGraph, liveCellar := o.cellar, liveRx := o.rxStreams, liveSweep := o.sweep, liveStreams := o.streams,
                    meters := s.meters.filter (fun m => has m.1), strips := s.strips.filter (fun m => has (m.1 / 65536)) }
  tapStreams (setLive o.main s)

/-- The old values against which a group counts as changed: a node that was not in the live program starts at its values, without a ramp (R155). DEDUCED: log entry 98. -/
def rampBase (g : Graph) (old new : SMap Word32) : SMap Word32 :=
  new.foldl (fun m p => if g.nodes.any (fun n => decide (paramOwner n = p.1 / 2 ^ 32)) then m else smapInsert p.1 p.2 m) old

/-! ### Route crossfades (R185–R187) -/

/-- Whether a brew carries a route crossfade. -/
def hasXfade (x : Brew) : Bool :=
  match x.out with
  | some o => o.final.isSome
  | none => false

/-- The longest finite memory of the new tasks on the routes of a transition: the tap count of a FIR, the delay setting of a DELAY or INSTRIP in samples, at most 65,534
(R186). DEDUCED: log entry 99. -/
def autoPreroll (g : Graph) (m : SMap Word32) (news : List Nat) : Nat :=
  min 65534 ((g.nodes.filter (fun n => news.contains n.id)).foldl (fun a n =>
    max a (if kernelId n = 5 then n.config0 else if kernelId n = 8 ∨ kernelId n = 1 then (paramIn m n 3).toNat else 0)) 0)

/-- The crossfades that a tap at `b` starts: one for each crossfaded pin, with a pre-roll of P samples and N = max(1, round(T × Fs_seg)) (R185, R186). A route crossfade has its
sample 0 in the first frame at or after `b` in which its node runs (R184). DEDUCED: log entry 99. -/
def fadesOf (s : State) (x : Brew) (o : CompileOut) (m : SMap Word32) (b : Nat) : List Fade :=
  let news := (o.main.tasks.filter (fun t => !t.old && !(nodeKept s.live x.outGraph s.liveParams x.outParams t.node))).map TaskOut.node
  let p := if x.preroll = 65535 then autoPreroll x.outGraph m news else x.preroll
  o.main.tasks.filterMap (fun t => match t.xfade with
    | none => none
    | some _ =>
      let sg := taskSeg x.outGraph t
      let n := max 1 (roundDiv ((x.xfadeMs * fsHz s.fs * sg.mul : Nat) : Int) (1000 * sg.div)).toNat
      some ⟨t.node, t.unit, sg.div, t.phase, sg.mul, p, n, 0, 2 ^ 28, 0, b⟩)

/-- Write the final pages into the staged pages, once every stall has left its old page. The windows of the final pages start with the live values (R187). DEDUCED: log entry 99. -/
def finalsWrite (h : Nat) (s : State) : State :=
  let x := brewOf s h
  match x.out.bind CompileOut.final, x.out with
  | some f, some o =>
    if x.st ≠ .settling ∨ x.finals ∨ o.main.pages.any (fun p => (pagesOf s p.unit).swapDue) then s
    else setBrew h { x with finals := true } (writeWindows f x.outGraph s.liveParams (forEach f.pages writePageOut s))
  | _, _ => s

/-! ### The tap -/

/-- The end of a tap for its job, its group and its direct writes (R176, R182, R196). DEDUCED: log entry 97. -/
def tapEnds (h b : Nat) (x : Brew) (s : State) : State :=
  let s := forEach x.notify (fun n s => raiseTo n.1 0x22 n.1 n.2 s) s
  match x.grp with
  | some g => reportDone h g (some b) (if b = g.frame then 0 else if g.cause = 0 then 1 else g.cause) s
  | none => match x.job with
    | some j => endJob j 1 (if x.late then 0x59 else 0) 0 b s
    | none => s

/-- The banks that only the old program used (R206). -/
def banksLeft (old new : List TaskOut) : List Nat := (taskBanks old).filter (fun k => !(taskBanks new).contains k)

/-- The participant of a group whose brew takes effect knows that the outcome is COMMIT (R194). -/
def knowTapped (h : Nat) (x : Brew) (s : State) : State :=
  match x.grp with
  | some g => know h g 1 s
  | none => s

/-- An armed brew takes effect at boundary `b` (R180). DEDUCED: log entry 98. -/
def tapArmed (h b : Nat) (s : State) : State :=
  let x := brewOf s h
  let old := s.live
  let params := overlay s x x.log.length
  let before := rampBase old s.liveParams params
  let slots := brewSlots s x
  let g := brewGraph s x
  let freed := (x.out.map (fun o => banksLeft s.liveTasks o.main.tasks)).getD []
  let fades := (x.out.map (fun o => fadesOf s x o params b)).getD []
  let s := forEach x.claims (tapClaim x (logUnits s x) b) s
  let s := match x.out with
    | some o => sendStreamLists old x.outGraph b (tapProgram x o s)
    | none => s
  let s := { s with liveParams := params, liveSlots := slots,
                    ramps := s.ramps.filter (fun r => slots.any (fun sl => decide (sl.unit = r.unit ∧ sl.index = r.index))) }
  let s := knowTapped h x (rampsStart before params g b s)
  let y := { x with eff := b, tap := 0, gate := false, job := none, grp := none, notify := [], freed := freed }
  tapEnds h b x (if hasXfade x then setBrew h { y with st := .settling, finals := false, fades := fades } s
    else setBrew h { y with st := .closing, out := none } s)

/-- The settle tap (R187): the final pages become live, and with them the final program's tasks, posts, areas and parameter slots. -/
def tapSettle (h : Nat) (s : State) : State :=
  let x := brewOf s h
  match x.out.bind CompileOut.final with
  | none => setBrew h { x with st := .closing, tap := 0, out := none, fades := [] } s
  | some f =>
    let freed := banksLeft s.liveTasks f.tasks
    let slots := s.liveSlots.filter (fun y => (newPage f y.unit).isNone) ++ f.slots
    let s := setLive f { forEach (f.pages.map PageOut.unit) tapPage s with liveSlots := slots }
    setBrew h { x with st := .closing, tap := 0, out := none, fades := [], freed := x.freed ++ freed }
      { s with ramps := s.ramps.filter (fun r => slots.any (fun sl => decide (sl.unit = r.unit ∧ sl.index = r.index))) }

/-- Whether the tap register of a brew is due at boundary `b`. -/
def tapDue (x : Brew) (b : Nat) : Bool :=
  decide (x.st = .armed) && x.gate && decide (x.tap ≤ b) || decide (x.st = .settling) && x.finals && decide (x.tap ≠ 0 ∧ x.tap ≤ b)

/-- A due tap takes effect. -/
def tapBrew (h b : Nat) (s : State) : State := floorTail (if (brewOf s h).st = .settling then tapSettle h s else tapArmed h b s)

/-- An override that takes effect at `b` defers a tap to `b` + 1 (R19, R180). -/
def tapDefer (h b : Nat) (s : State) : State :=
  let s := setBrew h { brewOf s h with tap := b + 1, deferred := true } s
  raise 0x23 h (b + 1) (setBit Fld.TAP_STATUS_DEFER_STICKY 0 (countFld Fld.TAP_DEFER_COUNT_COUNT 0 s))

/-- Step 5 of boundary `b`: bakes that have missed it, the taps that are due, and PREPARED brews whose gate is closed. DEDUCED: log entry 97. -/
def tapsBoundary (b : Nat) (s : State) : State :=
  let s := forEach (List.range 16) (fun h s => bakeDeadline h b s) s
  let due := (List.range 16).filter (fun h => tapDue (brewOf s h) b)
  let s := if ovrTakesEffect s b then forEach due (fun h s => tapDefer h b s) s else forEach due (fun h s => tapBrew h b s) s
  forEach (List.range 16) (fun h s => enterDoubt h b s) s

end Sys2Proof.Machine
end

