-- ==== Sys2Proof/Machine/FrameGuard.lean ====
section
/-! DEFINITION. The frame guard at a boundary (R34–R48): late frames, overruns with their fills and skipped posts, the report and circular waits, the slack of the
frame that closes, and the adaptive VCORE loop's evaluations. -/

namespace Sys2Proof.Machine

/-- The units that the frame guard watches: those that have run, but for isolated blocks (R465). -/
def guardUnits (s : State) : List Nat := (smapKeys s.units).filter (fun u => !unitIsolated s u)

/-- Whether a unit has not ended frame `b` − 1 at boundary `b`. -/
def unitLate (s : State) (b u : Nat) : Bool := decide ((unitOf s u).st ≠ .ended ∧ (unitOf s u).frame < b)

/-- Whether a unit overruns or has skipped frame `b` − 2 at boundary `b` (R41, R43). -/
def unitOver (s : State) (b u : Nat) : Bool :=
  let r := unitOf s u
  decide (2 ≤ b) && (decide (r.st ≠ .ended ∧ r.frame + 2 ≤ b) || r.skips.any (fun k => decide (k.1 + 2 = b)))

/-- Whether a unit skips frame `g`: the skip is recorded, or the unit still runs an earlier frame beyond boundary `g` + 2 (R43). -/
def skipsFrame (s : State) (v g : Nat) : Bool :=
  let r := unitOf s v
  r.skips.any (fun k => decide (k.1 = g)) || decide (r.st ≠ .ended ∧ r.frame < g ∧ g + 2 ≤ s.frame)

/-! ### What stands in for an overrun frame (R41, R43, R44) -/

/-- The posts of a plan that have not been made. -/
def unmade (plan : List PostPlan) (made : List (Nat × Nat)) : List PostPlan :=
  (plan.foldl (fun (acc : List PostPlan × List (Nat × Nat)) p =>
    if acc.2.contains (p.unit, p.idx) then (acc.1, acc.2.erase (p.unit, p.idx)) else (acc.1 ++ [p], acc.2)) ([], made)).1

/-- Whether a unit runs frame `f`. -/
def runsFrame (s : State) (u f : Nat) : Bool := decide ((unitOf s u).st ≠ .ended ∧ (unitOf s u).frame = f)

/-- The SENDs of frame `f` that a stall has not made. -/
def sendsLeft (s : State) (u f : Nat) : List PostPlan :=
  if u < 1024 then unmade (hdrAt (pagesOf s u) f).sends (if runsFrame s u f then (stallOf s u).sendsMade else []) else []

/-- The SIGNALs of frame `f` that a unit has not posted. -/
def signalsLeft (s : State) (u f : Nat) : List PostPlan :=
  if u < 1024 then unmade (hdrAt (pagesOf s u) f).signals (if runsFrame s u f then (stallOf s u).signalsMade else [])
  else if u < 1152 then unmade (chanOf s (u - 1024)).signals (if runsFrame s u f then (chanOf s (u - 1024)).made else [])
  else []

/-- The fill for one SEND of frame `f`; it stands in for a blocked one. A receiver that skips the frame of its tag removes it. DEDUCED: log entries 15, 102. -/
def standInSend (u f : Nat) (p : PostPlan) (s : State) : State :=
  let s := if runsFrame s u f then dropWaiter p.unit p.idx u s else s
  if unitIsolated s p.unit then s
  else if skipsFrame s p.unit (f + p.delay) then ledgerAdd (liveHdr (pagesOf s p.unit)).exchStream 1 0 (some (causeSkip, 1)) s
  else injectFill p.unit p.idx p.zeroFill (BitVec.ofNat 5 (f + p.delay)) s

/-- The SKIPPED post for one SIGNAL of frame `f`, to a receiver that runs the frame of its tag. -/
def standInSignal (f : Nat) (p : PostPlan) (s : State) : State :=
  if skipsFrame s p.unit (f + p.delay) then s else sendPost ⟨p.unit, p.idx, true, BitVec.ofNat 5 (f + p.delay)⟩ s

/-- What the engine does for a unit that overruns or skips frame `f`, the output channels apart. A skipped move counts DROVER_SKIP (R44). -/
def standIn (f u : Nat) (s : State) : State :=
  let s := forEach (sendsLeft s u f) (standInSend u f) s
  let s := forEach (signalsLeft s u f) (standInSignal f) s
  if 1024 ≤ u ∧ ¬ runsFrame s u f then
    let c := chanOf s (u - 1024)
    ledgerAdd c.stream c.samples 0 (some (causeDroverSkip, c.samples)) s
  else s

/-! ### The report and circular waits (R46, R47) -/

/-- The flag or slot on which a unit waits (Table 2.5). -/
def waitIndex (s : State) (u : Nat) : Nat :=
  if u < 1024 then
    (match (stallOf s u).blocked with
     | some (.wait f) => f
     | some (.recv slot _) => slot
     | some (.send _ slot _) => slot
     | none => 0)
  else if (unitOf s u).st = .waitEvent then
    let d := (u - 1024) / 8
    dfield (smapGet (fun _ => (0 : ProgWord)) s.drvMem (256 * d + 4 * fld s Fld.CH_STATUS_PC (u - 1024))) 0 4
  else 0

/-- The units that have work: those with a page or a channel descriptor. -/
def workUnits (s : State) : List Nat := smapKeys s.pages ++ (smapKeys s.chans).map (1024 + ·)

/-- Whether a channel's program waits for a request line of the port engine, and for no other target (R240). -/
def pacedWait (s : State) (i : Nat) : Bool :=
  match (droverOf s (i / 8)).run with
  | some r => decide (r.ch = i % 8) && r.waits.isNone
  | none => false

/-- Whether an abort of a unit has been decided and not been taken yet. DEDUCED: log entry 102. -/
def abortDue (s : State) (u : Nat) : Bool := if u < 1024 then (stallOf s u).abortPending else if u < 1152 then (chanOf s (u - 1024)).abort else false

/-- The unit that must act for a wait to end: the port engine for a request line; 2,047 if none. DEDUCED: log entry 102. -/
def producerOf (s : State) (u : Nat) : Nat :=
  let owes (left : Nat → Nat → List PostPlan) : Nat :=
    ((workUnits s).find? (fun v => decide ((unitOf s v).st ≠ .ended) &&
      (left v (unitOf s v).frame).any (fun p => decide (p.unit = u ∧ p.idx = waitIndex s u)))).getD 2047
  match (unitOf s u).st with
  | .waitEvent => owes (signalsLeft s)
  | .waitRecv => owes (sendsLeft s)
  | .waitSend => (match (stallOf s u).blocked with
    | some (.send v _ _) => v
    | _ => 2047)
  | .waitTarget =>
    if 1024 ≤ u ∧ pacedWait s (u - 1024) then 1216 else 2047
  | .running =>
    if 1024 ≤ u ∧ fld s Fld.CH_STATUS_STATE (u - 1024) = 1 then
      (match (droverOf s ((u - 1024) / 8)).run with
       | some r => 1024 + 8 * ((u - 1024) / 8) + r.ch
       | none => 2047)
    else 2047
  | _ => 2047

/-- A report entry, the circle apart. A unit that has left the overrun frame behind is entered as running. DEDUCED: log entry 102. -/
def reportEntry (s : State) (u : Nat) : ReportEntry :=
  { unit := u, st := if abortDue s u then 7 else max 1 (unitCode (unitOf s u).st), flag := waitIndex s u,
    pc := if u < 1024 then (stallOf s u).pc.toNat else fld s Fld.CH_STATUS_PC (u - 1024), producer := producerOf s u, inCycle := false }

/-- The next unit that the detector follows: from a waiting entry, and from a channel queued behind another program. -/
def followProducer (es : List ReportEntry) (u : Nat) : Option Nat :=
  match es.find? (fun e => decide (e.unit = u)) with
  | some e => if ((2 ≤ e.st ∧ e.st ≤ 6) ∨ 1024 ≤ e.unit) ∧ es.any (fun x => decide (x.unit = e.producer)) then some e.producer else none
  | none => none

/-- The units met from `u` in at most `n` steps. -/
def producerPath (es : List ReportEntry) : Nat → Nat → List Nat
  | 0, _ => []
  | n + 1, u => match followProducer es u with
    | some v => v :: producerPath es n v
    | none => []

/-- The circle on which a unit lies, from it onward. -/
def circleOf (es : List ReportEntry) (u : Nat) : Option (List Nat) :=
  let p := producerPath es es.length u
  if p.contains u then some (u :: p.takeWhile (fun v => decide (v ≠ u))) else none

/-- The circles, each from its first unit. -/
def circles (es : List ReportEntry) : List (List Nat) :=
  (es.filterMap (fun e => circleOf es e.unit)).filter (fun c => match c with
    | u :: t => t.all (fun v => decide (u < v))
    | [] => false)

/-- Capture the report of frame `f` (R46). DEDUCED: log entry 44. -/
def captureReport (first : Bool) (f : Nat) (es : List ReportEntry) (s : State) : State :=
  let cyc := es.any ReportEntry.inCycle
  let held := fbit s Fld.FG_REPORT_CTRL_REPORT_VALID
  if (first ∨ cyc) ∧ (¬ held ∨ (cyc ∧ ¬ fbit s Fld.FG_REPORT_CTRL_HAS_CYCLE)) then
    setFld Fld.FG_REPORT_CTRL_ENTRIES 0 es.length (setFld Fld.FG_REPORT_CTRL_HAS_CYCLE 0 (bnat cyc) (setBit Fld.FG_REPORT_CTRL_REPORT_VALID 0
      { s with fg := { s.fg with report := es, reportFrame := f, rdPtr := 0 } }))
  else s

/-- The circular-wait detector and the report at a boundary with overruns (R46, R47). -/
def detectCircles (first : Bool) (f : Nat) (overs : List Nat) (s : State) : State :=
  let es := (overs.take 1152).map (reportEntry s)
  let cs := circles es
  let es := es.map (fun e => { e with inCycle := cs.any (fun c => c.contains e.unit) })
  let s := captureReport first f es s
  forEach cs (fun c s =>
    forEach c sendAbort (raise 3 (c.headD 0) c.length (setBit Fld.FG_STATUS_CYCLE_STICKY 0 s))) s

/-! ### Overruns (R41, R45, R368) -/

/-- PAIR_ACT follows CONSEC in a main in RUN. -/
def pairConsec (n : Nat) (s : State) : State :=
  if n = 2 ∧ fbit s Fld.SHADOW_STATUS_PAIR_ACT then pairActLow { s with pair := { s.pair with consec := true } }
  else if n = 0 ∧ s.pair.consec then
    let s := { s with pair := { s.pair with consec := false } }
    if s.mode = .run ∧ pairState s = 1 ∧ ¬ fbit s Fld.SHADOW_STATUS_PAIR_SENSE then setBit Fld.SHADOW_STATUS_PAIR_ACT 0 s else s
  else s

/-- The overruns at boundary `b`, of frame `b` − 2. -/
def overruns (b : Nat) (s : State) : State :=
  let overs := (guardUnits s).filter (unitOver s b)
  let f := b - 2
  match overs with
  | [] => pairConsec 0 (setFld Fld.FG_STATUS_CONSEC 0 0 s)
  | u :: _ =>
    let n := min 4095 (fld s Fld.FG_STATUS_CONSEC + 1)
    let s := setFld Fld.FG_STATUS_CONSEC 0 n (setBit Fld.FG_STATUS_OVR_STICKY 0 (countFld Fld.FG_OVERRUN_COUNT_COUNT 0 s))
    let s := setPair Fld.FG_LAST_OVR_LO_FRAME_LO Fld.FG_LAST_OVR_HI_FRAME_HI 0 f s
    let s := if n = 1 ∧ fbit s Fld.FG_CTRL_OVR_IRQ_EN then raise 2 u n s else s
    let s := detectCircles (decide (n = 1)) f overs s
    pairConsec n (forEach overs (standIn f) s)

/-! ### The close of a frame (R34, R35, R39) -/

/-- The slack of an end at raw time `t` in Q12, when the frame's boundary + 1 came at raw time `due` (R34). -/
def slackQ (s : State) (due t : Nat) : Int := max (-8192) (min 4095 (roundDiv (((due : Int) - t) * 4096 * fsHz s.fs) 1000000000))

/-- The slack of a unit in frame `f`, which closes now; none where it has no part in the minimum. -/
def unitSlack (s : State) (f u : Nat) : Option Int :=
  let r := unitOf s u
  if ¬ hadFrame r f ∨ (u < 1024 ∧ ¬ (hdrAt (pagesOf s u) f).hasProgram) ∨ isolatedIn s u f then none
  else match r.ends.find? (fun e => decide (e.frame = f)) with
    | some e => some (slackQ s s.tickPrev e.t)
    | none => some (-8192)

/-- The least of a list of slacks, with its unit, the lowest among equals. -/
def leastSlack (l : List (Nat × Int)) : Option (Nat × Int) :=
  l.foldl (fun best x => match best with
    | none => some x
    | some y => if x.2 < y.2 then some x else some y) none

/-- Fold a minimum into a slack register. -/
def foldSlack (f g : RegField) (x : Nat × Int) (s : State) : State :=
  if x.2 < fldS s f then setFld f 0 (wrapInt 14 x.2) (setFld g 0 x.1 s) else s

/-- The units that have not ended frame `b` − 1 at boundary `b` make that frame late: it counts once, and the loop answers (R36, R39). DEDUCED: log entry 101. -/
def lateFrame (b : Nat) (s : State) : State :=
  match (guardUnits s).filter (unitLate s b) with
  | [] => s
  | u :: _ =>
    let s := setBit Fld.FG_STATUS_LATE_STICKY 0 (countFld Fld.FG_LATE_COUNT_COUNT 0 s)
    avsLate b (if fbit s Fld.FG_CTRL_LATE_IRQ_EN then raise 1 u 0 s else s)

/-- Frame `b` − 2 closes at boundary `b`. DEDUCED: log entry 101. DESIGN CHOICE: log entry 116. -/
def closeFrame (b : Nat) (s : State) : State :=
  let f := b - 2
  let l := (guardUnits s).filterMap (fun u => (unitSlack s f u).map (fun q => (u, q)))
  let s := { s with fg := { s.fg with slack := l, slackFrame := f } }
  match leastSlack l with
  | none => s
  | some x =>
    let s := setFld Fld.SLACK_LAST_SLACK 0 (wrapInt 14 x.2) (setFld Fld.SLACK_LAST_UNIT 0 x.1 s)
    let s := foldSlack Fld.SLACK_HIST_SLACK Fld.SLACK_HIST_UNIT x (foldSlack Fld.SLACK_WINDOW_SLACK Fld.SLACK_WINDOW_UNIT x s)
    avsClose b x.2 s

/-- The entry of a unit's record: none where it says nothing. -/
def prunedUnit (u : Nat) (r : UnitRec) : Option (Nat × UnitRec) := if r = unitIdle then none else some (u, r)

/-- Records that no rule reads any more. DEDUCED: log entry 102. -/
def pruneUnits (b : Nat) (s : State) : State :=
  { s with units := s.units.filterMap (fun u => prunedUnit u.1 { u.2 with skips := u.2.skips.filter (fun k => decide (b < k.1 + 18)) }),
           power := { s.power with isoFrames := s.power.isoFrames.filter (fun x => decide (b < x.2 + 8)) } }

/-- The frame guard at boundary `b`, while the array runs. DEDUCED: log entry 101. -/
def guardBoundary (b : Nat) (s : State) : State :=
  if ¬ arrayRuns s then settleFrame (b - 2) s
  else
    let s := settleFrame (b - 2) (overruns b (lateFrame b s))
    if 2 ≤ b then closeFrame b s else s

end Sys2Proof.Machine
end

