-- ==== Sys2Proof/Machine/Frame.lean ====
section
/-! DEFINITION. The frame boundary (R19, Table 1.4): the order of its actions, the release, and what else a boundary brings. -/

namespace Sys2Proof.Machine

/-! ### Steps 1 to 3 -/

/-- Step 1: the frame index becomes `b` at raw time `t` (R14, R27). -/
def stepIndex (b t : Nat) (s : State) : State := { s with frame := b, tickPrev := s.tick, tick := t }

/-- The expected samples of the active stream of a port that a block reset has stopped (R320). -/
def portExpected (s : State) (p : Nat) : Nat :=
  if 32 ≤ p then 2 * (([2 * (p - 32), 2 * (p - 32) + 1].filter (fun m => fbit s Fld.PDM_RING_CFG_EN m)).length)
  else if fbit s Fld.PORT_CFG_DIR p then 2 * (mappedSlots s p).length
  else portSlots s p + (ringSlots s p).length

/-- A port that a block reset has stopped counts BLOCK_RESET until its stream ends. DESIGN CHOICE: log entry 127. -/
def portLost (p : Nat) (s : State) : State :=
  match (portOf s p).stream with
  | none => s
  | some k =>
    if (streamOf s.ledger.cur k).active ∧ ¬ portRunning s p then
      let n := portExpected s p
      ledgerAdd (some k) n 0 (some (causeBlockReset, n)) s
    else s

/-- The frames in which blocks are held (R465). -/
def noteHeld (b : Nat) (s : State) : State := forEach (bitList 32 (regWord s 0x514).toNat) (fun bit s => noteIso bit [b] s) s

/-- Step 3: the snapshots of the sample ledger and of the sequence counts, and the token audit (R53, R207, R264). -/
def stepSnapshot (b : Nat) (s : State) : State :=
  tokenAudit { s with ledger := { s.ledger with snap := s.ledger.cur, snapFrame := b },
                      seqSnap := s.sessions.map (fun x => seqCounts x false) ++ s.seqClosed }

/-! ### Step 4 -/

/-- Step 4: the override inputs and command decide the routes in effect for frame `b`. -/
def stepOverride (b : Nat) (s : State) : State :=
  let s := overrideBoundary b s
  if ovrTakesEffect s b then cancelConfigure (ovrWake b s) else s

/-! ### Step 6 -/

/-- Release a stall on frame `b`: not in an isolated block, not while it runs an earlier frame (R40), and not while its acquire cut is awaited (R370). DEDUCED: log entry 103. -/
def releaseStall (b t u : Nat) (s : State) : State :=
  if unitIsolated s u ∨ (unitOf s u).st ≠ .ended then s
  else if cutHolds s u b then { s with pair := { s.pair with hold := some u } }
  else startStall u b t s

/-- Release a frame channel on frame `b`. DEDUCED: log entry 103. -/
def releaseChan (b i : Nat) (s : State) : State :=
  if unitIsolated s (1024 + i) ∨ (unitOf s (1024 + i)).st ≠ .ended then s else startChan i b s

/-- A non-frame program that still runs on a FRAME drover at a release (R231). DEDUCED: log entry 103. -/
def overhang (d : Nat) (s : State) : State :=
  match (droverOf s d).run with
  | some r => if fbit s Fld.DRV_CTRL_MODE d ∧ r.frame.isNone then countFld Fld.DRV_STATUS_NF_OVERHANG d s else s
  | none => s

/-- Step 6: the stalls, and outside SAFE the frame channels, are released on frame `b` (R58, R231, R437). -/
def stepRelease (b t : Nat) (s : State) : State :=
  if ¬ arrayRuns s then s
  else
    let s := forEach (smapKeys s.pages) (releaseStall b t) s
    if s.mode = .safe then s
    else
      let s := forEach (List.range 16) overhang s
      forEach ((List.range 128).filter (isFrameChan s)) (releaseChan b) s

/-! ### The whole boundary -/

/-- What reaches the engine's own clocked units at boundary `b`: link regions that are due, ports, amplifier paths (R305, R335, R403). -/
def stepPorts (b : Nat) (x : BoundaryIn) (s : State) : State :=
  let s := forEach (rxTraces s) (fun t s => rxBoundary t b s) s
  let s := portsBoundary b x.words (x.mics.map (fun m => (m.1, m.2))) s
  let s := forEach (List.range 48) portLost s
  ampSamples b s

/-- The supplies at a frame: VCORE at the balls, the backup supply (R467, R468). -/
def stepSupplies (x : BoundaryIn) (s : State) : State := setFld Fld.SUPPLY_STATUS_VBAK_LOW 0 (bnat x.vbakLow) (vcoreMeas x.vcore s)

/-- FRAME_BOUNDARY. DESIGN CHOICE: log entry 115. -/
def frameBoundary (x : BoundaryIn) (s : State) : State :=
  let b := s.frame + 1
  let raw : Int := x.t * 65536
  let s := stepIndex b x.t s
  let s := noteHeld b (remapAt b raw (applyAligns b s))
  let s := streamsPrune (guardBoundary b s)
  let s := forEach (liveTraces s) (fun t s => markerTx t b x.t s) s
  let s := stepSnapshot b s
  let s := stepOverride b s
  let s := shutBoundary b raw (modesBoundary b (tapsBoundary b (markDecisions b x.t s)))
  let s := pairBoundary b x.t s
  let s := stepRelease b x.t s
  pruneUnits b (stepSupplies x (stepPorts b x s))

/-- The tick has boundaries outside OFF, STANDBY and resets. -/
def execFrameBoundary (x : BoundaryIn) (s : State) : Res :=
  .next (if s.power.boot = 0 ∧ s.mode ≠ .off ∧ s.mode ≠ .standby then frameBoundary x s else s)

end Sys2Proof.Machine
end

