-- ==== Sys2Proof/Machine/Groom.lean ====
section
/-! DEFINITION. Job steps of the groom (R127, R177, R259, R260). -/

namespace Sys2Proof.Machine

/-- A running job that has not been cancelled. -/
def activeJob (s : State) (h : Nat) : Option JobRec := (jobOf s h).bind (fun j => if j.state = 0 ∧ ¬ j.cancel then some j else none)

/-- The step that completes a transfer or load job. -/
def jobFinish (h : Nat) (s : State) : State :=
  match activeJob s h with
  | none => s
  | some j => match j.work with
    | .kernel k bytes => kernelFinish h k bytes s
    | .load brew a => loadFinish h brew a s
    | .store brew a limit => storeFinish h brew a limit s
    | .copy src dst len => copyFinish h src dst len s
    | .compile _ | .tap _ | .flash _ _ | .trace _ | .diag _ _ | .team _ _ => s

/-- The end of a cancelled job: its record is CANCELLED. DEDUCED: log entry 35. -/
def endCancelled (h result : Nat) (s : State) : State := endJob h 3 2 0 result s

/-- The step boundary at which a cancelled job ends. A cancelled compile withdraws its output; a cancelled tap returns its baking brew to OPEN, or makes the
decision of its group ABORT; a cancelled diagnostic aborts its tests. An armed tap has no step left. DEDUCED: log entry 35. -/
def jobCancelled (h : Nat) (s : State) : State :=
  match jobOf s h with
  | none => s
  | some j =>
    if j.state ≠ 0 ∨ ¬ j.cancel then s
    else match j.work with
      | .compile c =>
        let s := putResult (resultOf s c 3 none) (withdrawOut c.brew s)
        endCancelled h 0 (membersWithdraw c s)
      | .tap k =>
        (match groupUndecided s k with
         | some g => setGroup { g with refuse := some (ownEndpoint s) } s
         | none => if (brewOf s k).st = .baking then endCancelled h noFrame (brewReopen k s) else s)
      | .diag mask _ => diagJobCheck h (forEach (bitList 32 mask) (fun c s =>
          match (ampOf s c).test with
          | some t => if t.job = h then testAbort c s else s
          | none => s) s)
      | .trace t => endCancelled h 0 (setTrace t { traceOf s t with job := none } s)
      | .kernel _ _ | .load _ _ | .store _ _ _ | .copy _ _ _ | .flash _ _ | .team _ _ => endCancelled h 0 s

/-- A step of a job that does not complete it. -/
def jobProgress (h n : Nat) (s : State) : State :=
  match activeJob s h with
  | none => s
  | some j => match j.work with
    | .kernel _ _ | .load _ _ | .store _ _ _ | .copy _ _ _ | .flash _ _ | .trace _ | .diag _ _ | .team _ _ => setJob { j with progress := min 255 n } s
    | .compile _ | .tap _ => s

/-- What a step of the groom's work does. -/
def jobStep (w : GroomWork) (s : State) : State :=
  match w with
  | .compile h progress ends diags out => compileStep h progress ends diags out s
  | .bake brew records => bakeStep brew records s
  | .direct => directStart s
  | .resync brew => brewResync brew s
  | .finals brew => finalsWrite brew s
  | .finish h => jobFinish h s
  | .progress h n => jobProgress h n s
  | .flash h ok => (match activeJob s h with
    | some j => (match j.work with
      | .flash a bytes => flashFinish h a bytes ok s
      | .compile _ | .kernel _ _ | .load _ _ | .store _ _ _ | .tap _ | .copy _ _ _ | .trace _ | .diag _ _ | .team _ _ => s)
    | none => s)
  | .cancelled h => jobCancelled h s

/-- JOB_STEP: the groom works while it has power and runs its firmware. -/
def execJobStep (w : GroomWork) (s : State) : Res := .next (if groomServes s then jobStep w s else s)

end Sys2Proof.Machine
end

