-- ==== Sys2Proof/Machine/StallRows.lean ====
section
/-! DEFINITION. The meanings of the stall's instruction rows: format A (Tables 4.3 and 4.4), format B (Table 4.6),
format C (Table 4.8), and the events between issues. A format A word with both parts may be given by the row of its
arithmetic part or by the row of its move; both issue the same word. -/

namespace Sys2Proof.Machine

/-- NOP: a format A word with OP 00h (R95). -/
def execNop (st : StallId) (f : ArithF) (m : MoveF) (s : State) : Res :=
  .next (issueA st.val 0x00 f m s)

/-- MPY: a format A word with OP 01h (R95). -/
def execMpy (st : StallId) (f : ArithF) (m : MoveF) (s : State) : Res :=
  .next (issueA st.val 0x01 f m s)

/-- MAC: a format A word with OP 02h (R95). -/
def execMac (st : StallId) (f : ArithF) (m : MoveF) (s : State) : Res :=
  .next (issueA st.val 0x02 f m s)

/-- MSU: a format A word with OP 03h (R95). -/
def execMsu (st : StallId) (f : ArithF) (m : MoveF) (s : State) : Res :=
  .next (issueA st.val 0x03 f m s)

/-- CLR: a format A word with OP 04h (R95). -/
def execClr (st : StallId) (f : ArithF) (m : MoveF) (s : State) : Res :=
  .next (issueA st.val 0x04 f m s)

/-- ADDDA: a format A word with OP 05h (R95). -/
def execAddda (st : StallId) (f : ArithF) (m : MoveF) (s : State) : Res :=
  .next (issueA st.val 0x05 f m s)

/-- RND: a format A word with OP 06h (R95). -/
def execRnd (st : StallId) (f : ArithF) (m : MoveF) (s : State) : Res :=
  .next (issueA st.val 0x06 f m s)

/-- SAT: a format A word with OP 07h (R95). -/
def execSat (st : StallId) (f : ArithF) (m : MoveF) (s : State) : Res :=
  .next (issueA st.val 0x07 f m s)

/-- MPYX: a format A word with OP 08h (R95). -/
def execMpyx (st : StallId) (f : ArithF) (m : MoveF) (s : State) : Res :=
  .next (issueA st.val 0x08 f m s)

/-- MACX: a format A word with OP 09h (R95). -/
def execMacx (st : StallId) (f : ArithF) (m : MoveF) (s : State) : Res :=
  .next (issueA st.val 0x09 f m s)

/-- MSUX: a format A word with OP 0Ah (R95). -/
def execMsux (st : StallId) (f : ArithF) (m : MoveF) (s : State) : Res :=
  .next (issueA st.val 0x0A f m s)

/-- MACW: a format A word with OP 0Bh (R95). -/
def execMacw (st : StallId) (f : ArithF) (m : MoveF) (s : State) : Res :=
  .next (issueA st.val 0x0B f m s)

/-- ADD: a format A word with OP 0Ch (R95). -/
def execAdd (st : StallId) (f : ArithF) (m : MoveF) (s : State) : Res :=
  .next (issueA st.val 0x0C f m s)

/-- SUB: a format A word with OP 0Dh (R95). -/
def execSub (st : StallId) (f : ArithF) (m : MoveF) (s : State) : Res :=
  .next (issueA st.val 0x0D f m s)

/-- NEG: a format A word with OP 0Eh (R95). -/
def execNeg (st : StallId) (f : ArithF) (m : MoveF) (s : State) : Res :=
  .next (issueA st.val 0x0E f m s)

/-- ABS: a format A word with OP 0Fh (R95). -/
def execAbs (st : StallId) (f : ArithF) (m : MoveF) (s : State) : Res :=
  .next (issueA st.val 0x0F f m s)

/-- CMP: a format A word with OP 10h (R95). -/
def execCmp (st : StallId) (f : ArithF) (m : MoveF) (s : State) : Res :=
  .next (issueA st.val 0x10 f m s)

/-- AND: a format A word with OP 11h (R95). -/
def execAnd (st : StallId) (f : ArithF) (m : MoveF) (s : State) : Res :=
  .next (issueA st.val 0x11 f m s)

/-- OR: a format A word with OP 12h (R95). -/
def execOr (st : StallId) (f : ArithF) (m : MoveF) (s : State) : Res :=
  .next (issueA st.val 0x12 f m s)

/-- XOR: a format A word with OP 13h (R95). -/
def execXor (st : StallId) (f : ArithF) (m : MoveF) (s : State) : Res :=
  .next (issueA st.val 0x13 f m s)

/-- SHL: a format A word with OP 14h (R95). -/
def execShl (st : StallId) (f : ArithF) (m : MoveF) (s : State) : Res :=
  .next (issueA st.val 0x14 f m s)

/-- SHR: a format A word with OP 15h (R95). -/
def execShr (st : StallId) (f : ArithF) (m : MoveF) (s : State) : Res :=
  .next (issueA st.val 0x15 f m s)

/-- SHRL: a format A word with OP 16h (R95). -/
def execShrl (st : StallId) (f : ArithF) (m : MoveF) (s : State) : Res :=
  .next (issueA st.val 0x16 f m s)

/-- SHV: a format A word with OP 17h (R95). -/
def execShv (st : StallId) (f : ArithF) (m : MoveF) (s : State) : Res :=
  .next (issueA st.val 0x17 f m s)

/-- RAMP: a format A word with OP 18h (R95). -/
def execRamp (st : StallId) (f : ArithF) (m : MoveF) (s : State) : Res :=
  .next (issueA st.val 0x18 f m s)

/-- LUT: a format A word with OP 19h (R95). -/
def execLut (st : StallId) (f : ArithF) (m : MoveF) (s : State) : Res :=
  .next (issueA st.val 0x19 f m s)

/-- MAXI: a format A word with OP 1Ah (R95). -/
def execMaxi (st : StallId) (f : ArithF) (m : MoveF) (s : State) : Res :=
  .next (issueA st.val 0x1A f m s)

/-- MINI: a format A word with OP 1Bh (R95). -/
def execMini (st : StallId) (f : ArithF) (m : MoveF) (s : State) : Res :=
  .next (issueA st.val 0x1B f m s)

/-- MAXAI: a format A word with OP 1Ch (R95). -/
def execMaxai (st : StallId) (f : ArithF) (m : MoveF) (s : State) : Res :=
  .next (issueA st.val 0x1C f m s)

/-- LD.S: a format A word with move kind 1h (R98). -/
def execLdS (st : StallId) (op : BitVec 6) (f : ArithF) (g : MoveArgs) (s : State) : Res :=
  .next (issueA st.val op f ⟨0x1, g⟩ s)

/-- ST.S: a format A word with move kind 2h (R98). -/
def execStS (st : StallId) (op : BitVec 6) (f : ArithF) (g : MoveArgs) (s : State) : Res :=
  .next (issueA st.val op f ⟨0x2, g⟩ s)

/-- LD.K: a format A word with move kind 3h (R98). -/
def execLdK (st : StallId) (op : BitVec 6) (f : ArithF) (g : MoveArgs) (s : State) : Res :=
  .next (issueA st.val op f ⟨0x3, g⟩ s)

/-- ST.K: a format A word with move kind 4h (R98). -/
def execStK (st : StallId) (op : BitVec 6) (f : ArithF) (g : MoveArgs) (s : State) : Res :=
  .next (issueA st.val op f ⟨0x4, g⟩ s)

/-- LD.H: a format A word with move kind 5h (R98). -/
def execLdH (st : StallId) (op : BitVec 6) (f : ArithF) (g : MoveArgs) (s : State) : Res :=
  .next (issueA st.val op f ⟨0x5, g⟩ s)

/-- ST.H: a format A word with move kind 6h (R98). -/
def execStH (st : StallId) (op : BitVec 6) (f : ArithF) (g : MoveArgs) (s : State) : Res :=
  .next (issueA st.val op f ⟨0x6, g⟩ s)

/-- LD.C: a format A word with move kind 7h (R98). -/
def execLdC (st : StallId) (op : BitVec 6) (f : ArithF) (g : MoveArgs) (s : State) : Res :=
  .next (issueA st.val op f ⟨0x7, g⟩ s)

/-- ST.C: a format A word with move kind 8h (R98). -/
def execStC (st : StallId) (op : BitVec 6) (f : ArithF) (g : MoveArgs) (s : State) : Res :=
  .next (issueA st.val op f ⟨0x8, g⟩ s)

/-- LD.A: a format A word with move kind 9h (R98). -/
def execLdA (st : StallId) (op : BitVec 6) (f : ArithF) (g : MoveArgs) (s : State) : Res :=
  .next (issueA st.val op f ⟨0x9, g⟩ s)

/-- ST.A: a format A word with move kind Ah (R98). -/
def execStA (st : StallId) (op : BitVec 6) (f : ArithF) (g : MoveArgs) (s : State) : Res :=
  .next (issueA st.val op f ⟨0xA, g⟩ s)

/-- LD.X: a format A word with move kind Bh (R98). -/
def execLdX (st : StallId) (op : BitVec 6) (f : ArithF) (g : MoveArgs) (s : State) : Res :=
  .next (issueA st.val op f ⟨0xB, g⟩ s)

/-- ST.X: a format A word with move kind Ch (R98). -/
def execStX (st : StallId) (op : BitVec 6) (f : ArithF) (g : MoveArgs) (s : State) : Res :=
  .next (issueA st.val op f ⟨0xC, g⟩ s)

/-- LD.SP: a format A word with move kind Dh (R98). -/
def execLdSp (st : StallId) (op : BitVec 6) (f : ArithF) (g : MoveArgs) (s : State) : Res :=
  .next (issueA st.val op f ⟨0xD, g⟩ s)

/-- LD.CP: a format A word with move kind Eh (R98). -/
def execLdCp (st : StallId) (op : BitVec 6) (f : ArithF) (g : MoveArgs) (s : State) : Res :=
  .next (issueA st.val op f ⟨0xE, g⟩ s)

/-- MOV: a format A word with move kind Fh (R98). -/
def execMov (st : StallId) (op : BitVec 6) (f : ArithF) (g : MoveArgs) (s : State) : Res :=
  .next (issueA st.val op f ⟨0xF, g⟩ s)

/-- BR (R70). -/
def execBr (st : StallId) (cond : BitVec 4) (target : PcAddr) (s : State) : Res :=
  .next (ctlBr st.val cond target s)

/-- CALL (R72). -/
def execCall (st : StallId) (cond : BitVec 4) (target : PcAddr) (s : State) : Res :=
  .next (ctlCall st.val cond target s)

/-- RET (R72). -/
def execRet (st : StallId) (cond : BitVec 4) (s : State) : Res :=
  .next (ctlRet st.val cond s)

/-- REPEAT (R71, R104). -/
def execRepeat (st : StallId) (rot : Bool) (rsrc : Bool) (len : BitVec 9) (count : BitVec 17) (s : State) : Res :=
  .next (ctlRepeat st.val rot rsrc len count s)

/-- REPEAT_ITERATION_END (R71, R74). -/
def execRepeatIterationEnd (st : StallId) (s : State) : Res :=
  .next (iterationEnd st.val s)

/-- ROT (R74). -/
def execRot (st : StallId) (s : State) : Res :=
  .next (ctlRot st.val s)

/-- WAIT (R85). -/
def execWait (st : StallId) (flag : BitVec 4) (s : State) : Res :=
  .next (ctlWait st.val flag s)

/-- WAIT_COMPLETE (R85). -/
def execWaitComplete (st : StallId) (s : State) : Res :=
  .next (waitComplete st.val s)

/-- SIGNAL (R85, R105). -/
def execSignal (st : StallId) (unit : BitVec 11) (flag : BitVec 4) (s : State) : Res :=
  .next (ctlSignal st.val unit flag s)

/-- SEND (R82). -/
def execSend (st : StallId) (unit : BitVec 11) (slot : BitVec 4) (dsrc : BitVec 6) (s : State) : Res :=
  .next (ctlSend st.val unit slot dsrc s)

/-- SEND_COMPLETE (R82). -/
def execSendComplete (st : StallId) (s : State) : Res :=
  .next (sendComplete st.val s)

/-- EXCHANGE_ARRIVAL (R83). -/
def execExchangeArrival (st : StallId) (slot : BitVec 4) (s : State) : Res :=
  .next (exchangeArrival st.val slot.toNat s)

/-- RECV (R82). -/
def execRecv (st : StallId) (slot : BitVec 4) (ddst : BitVec 6) (s : State) : Res :=
  .next (ctlRecv st.val slot ddst s)

/-- RECV_COMPLETE (R82). -/
def execRecvComplete (st : StallId) (s : State) : Res :=
  .next (recvComplete st.val s)

/-- SYNC (R26, R58). -/
def execSync (st : StallId) (t : Nat) (s : State) : Res :=
  .next (ctlSync st.val t s)

/-- LDI (R107). -/
def execLdi (st : StallId) (reg : BitVec 8) (imm : S48) (s : State) : Res :=
  .next (issueC st.val 1 reg imm s)

/-- ADDI (R107). -/
def execAddi (st : StallId) (reg : BitVec 8) (imm : S48) (s : State) : Res :=
  .next (issueC st.val 2 reg imm s)

/-- ANDI (R107). -/
def execAndi (st : StallId) (reg : BitVec 8) (imm : S48) (s : State) : Res :=
  .next (issueC st.val 3 reg imm s)

/-- ORI (R107). -/
def execOri (st : StallId) (reg : BitVec 8) (imm : S48) (s : State) : Res :=
  .next (issueC st.val 4 reg imm s)

/-- XORI (R107). -/
def execXori (st : StallId) (reg : BitVec 8) (imm : S48) (s : State) : Res :=
  .next (issueC st.val 5 reg imm s)

/-- CMPI (R107). -/
def execCmpi (st : StallId) (reg : BitVec 8) (imm : S48) (s : State) : Res :=
  .next (issueC st.val 6 reg imm s)

/-- ILLEGAL_WORD (R73). -/
def execIllegalWord (st : StallId) (w : ProgWord) (s : State) : Res :=
  .next (illegalWord st.val (rawWordLegal (stallOf s st.val) w) s)

/-- STALL_ABORT (R48). -/
def execStallAbort (st : StallId) (t : Nat) (s : State) : Res :=
  .next (stallAbort st.val t s)

/-- CONTROL_EVENT_TAKEN (R87). -/
def execControlEventTaken (st : StallId) (s : State) : Res :=
  .next (controlEventTaken st.val s)

/-- HELD_PAGE_WRITE (R59). -/
def execHeldPageWrite (st : StallId) (s : State) : Res :=
  .next (heldPageWrite st.val s)

end Sys2Proof.Machine
end

