-- ==== Sys2Proof/Machine/Dispatch.lean ====
section
/-! DEFINITION. The dispatch of a command to its meaning. -/

namespace Sys2Proof.Machine

def exec (i : Instr) (s : State) : Host.Outcome State Fault Refusal :=
  match i with
  | .frameBoundary x => Sys2Proof.Machine.execFrameBoundary x s
  | .hangAbort u => Sys2Proof.Machine.execHangAbort u s
  | .fgFatalReset => Sys2Proof.Machine.execFgFatalReset s
  | .avsWindowEnd => Sys2Proof.Machine.execAvsWindowEnd s
  | .tapFloorEnd => Sys2Proof.Machine.execTapFloorEnd s
  | .avsPmbusWrite ok => Sys2Proof.Machine.execAvsPmbusWrite ok s
  | .nop st f m => Sys2Proof.Machine.execNop st f m s
  | .mpy st f m => Sys2Proof.Machine.execMpy st f m s
  | .mac st f m => Sys2Proof.Machine.execMac st f m s
  | .msu st f m => Sys2Proof.Machine.execMsu st f m s
  | .clr st f m => Sys2Proof.Machine.execClr st f m s
  | .addda st f m => Sys2Proof.Machine.execAddda st f m s
  | .rnd st f m => Sys2Proof.Machine.execRnd st f m s
  | .sat st f m => Sys2Proof.Machine.execSat st f m s
  | .mpyx st f m => Sys2Proof.Machine.execMpyx st f m s
  | .macx st f m => Sys2Proof.Machine.execMacx st f m s
  | .msux st f m => Sys2Proof.Machine.execMsux st f m s
  | .macw st f m => Sys2Proof.Machine.execMacw st f m s
  | .add st f m => Sys2Proof.Machine.execAdd st f m s
  | .sub st f m => Sys2Proof.Machine.execSub st f m s
  | .neg st f m => Sys2Proof.Machine.execNeg st f m s
  | .abs st f m => Sys2Proof.Machine.execAbs st f m s
  | .cmp st f m => Sys2Proof.Machine.execCmp st f m s
  | .and st f m => Sys2Proof.Machine.execAnd st f m s
  | .or st f m => Sys2Proof.Machine.execOr st f m s
  | .xor st f m => Sys2Proof.Machine.execXor st f m s
  | .shl st f m => Sys2Proof.Machine.execShl st f m s
  | .shr st f m => Sys2Proof.Machine.execShr st f m s
  | .shrl st f m => Sys2Proof.Machine.execShrl st f m s
  | .shv st f m => Sys2Proof.Machine.execShv st f m s
  | .ramp st f m => Sys2Proof.Machine.execRamp st f m s
  | .lut st f m => Sys2Proof.Machine.execLut st f m s
  | .maxi st f m => Sys2Proof.Machine.execMaxi st f m s
  | .mini st f m => Sys2Proof.Machine.execMini st f m s
  | .maxai st f m => Sys2Proof.Machine.execMaxai st f m s
  | .ldS st op f g => Sys2Proof.Machine.execLdS st op f g s
  | .stS st op f g => Sys2Proof.Machine.execStS st op f g s
  | .ldK st op f g => Sys2Proof.Machine.execLdK st op f g s
  | .stK st op f g => Sys2Proof.Machine.execStK st op f g s
  | .ldH st op f g => Sys2Proof.Machine.execLdH st op f g s
  | .stH st op f g => Sys2Proof.Machine.execStH st op f g s
  | .ldC st op f g => Sys2Proof.Machine.execLdC st op f g s
  | .stC st op f g => Sys2Proof.Machine.execStC st op f g s
  | .ldA st op f g => Sys2Proof.Machine.execLdA st op f g s
  | .stA st op f g => Sys2Proof.Machine.execStA st op f g s
  | .ldX st op f g => Sys2Proof.Machine.execLdX st op f g s
  | .stX st op f g => Sys2Proof.Machine.execStX st op f g s
  | .ldSp st op f g => Sys2Proof.Machine.execLdSp st op f g s
  | .ldCp st op f g => Sys2Proof.Machine.execLdCp st op f g s
  | .mov st op f g => Sys2Proof.Machine.execMov st op f g s
  | .br st cond target => Sys2Proof.Machine.execBr st cond target s
  | .call st cond target => Sys2Proof.Machine.execCall st cond target s
  | .ret st cond => Sys2Proof.Machine.execRet st cond s
  | .repeat_ st rot rsrc len count => Sys2Proof.Machine.execRepeat st rot rsrc len count s
  | .repeatIterationEnd st => Sys2Proof.Machine.execRepeatIterationEnd st s
  | .rot st => Sys2Proof.Machine.execRot st s
  | .wait st flag => Sys2Proof.Machine.execWait st flag s
  | .waitComplete st => Sys2Proof.Machine.execWaitComplete st s
  | .signal st unit flag => Sys2Proof.Machine.execSignal st unit flag s
  | .flagPostArrival unit flag => Sys2Proof.Machine.execFlagPostArrival unit flag s
  | .send st unit slot dsrc => Sys2Proof.Machine.execSend st unit slot dsrc s
  | .sendComplete st => Sys2Proof.Machine.execSendComplete st s
  | .exchangeArrival st slot => Sys2Proof.Machine.execExchangeArrival st slot s
  | .recv st slot ddst => Sys2Proof.Machine.execRecv st slot ddst s
  | .recvComplete st => Sys2Proof.Machine.execRecvComplete st s
  | .sync st t => Sys2Proof.Machine.execSync st t s
  | .ldi st reg imm => Sys2Proof.Machine.execLdi st reg imm s
  | .addi st reg imm => Sys2Proof.Machine.execAddi st reg imm s
  | .andi st reg imm => Sys2Proof.Machine.execAndi st reg imm s
  | .ori st reg imm => Sys2Proof.Machine.execOri st reg imm s
  | .xori st reg imm => Sys2Proof.Machine.execXori st reg imm s
  | .cmpi st reg imm => Sys2Proof.Machine.execCmpi st reg imm s
  | .illegalWord st w => Sys2Proof.Machine.execIllegalWord st w s
  | .outputWriteLanding st chan => Sys2Proof.Machine.execOutputWriteLanding st chan s
  | .stallAbort st t => Sys2Proof.Machine.execStallAbort st t s
  | .controlEventTaken st => Sys2Proof.Machine.execControlEventTaken st s
  | .heldPageWrite st => Sys2Proof.Machine.execHeldPageWrite st s
  | .haltReq => Sys2Proof.Machine.execHaltReq s
  | .step => Sys2Proof.Machine.execStep s
  | .resume => Sys2Proof.Machine.execResume s
  | .dbgRegDataAccess wr => Sys2Proof.Machine.execDbgRegDataAccess wr s
  | .meterPeriodEnd node f cs => Sys2Proof.Machine.execMeterPeriodEnd node f cs s
  | .inputSilence node chan samples => Sys2Proof.Machine.execInputSilence node chan samples s
  | .move d w0 w1 w2 w3 t => Sys2Proof.Machine.execMove d w0 w1 w2 w3 t s
  | .loop d w0 t => Sys2Proof.Machine.execLoop d w0 t s
  | .droverWait d w0 t => Sys2Proof.Machine.execDroverWait d w0 t s
  | .droverSignal d w0 t => Sys2Proof.Machine.execDroverSignal d w0 t s
  | .droverEnd d t => Sys2Proof.Machine.execDroverEnd d t s
  | .droverProgramEndFault d w0 w1 w2 w3 t => Sys2Proof.Machine.execDroverProgramEndFault d w0 w1 w2 w3 t s
  | .droverProgramStart d remain => Sys2Proof.Machine.execDroverProgramStart d remain s
  | .pacedBurstStart d w0 w1 w2 w3 t => Sys2Proof.Machine.execPacedBurstStart d w0 w1 w2 w3 t s
  | .droverAbortTaken d c t => Sys2Proof.Machine.execDroverAbortTaken d c t s
  | .chStart d c master => Sys2Proof.Machine.execChStart d c master s
  | .crossbarGrant point offers => Sys2Proof.Machine.execCrossbarGrant point offers s
  | .burstResponse master target t => Sys2Proof.Machine.execBurstResponse master target t s
  | .xbTimeout master target => Sys2Proof.Machine.execXbTimeout master target s
  | .bankOwnWrite bank value => Sys2Proof.Machine.execBankOwnWrite bank value s
  | .scrubPassEnd => Sys2Proof.Machine.execScrubPassEnd s
  | .retrainReq => Sys2Proof.Machine.execRetrainReq s
  | .scheduledRetrain c remain => Sys2Proof.Machine.execScheduledRetrain c remain s
  | .emergencyRetrain c => Sys2Proof.Machine.execEmergencyRetrain c s
  | .retrainDone c => Sys2Proof.Machine.execRetrainDone c s
  | .packetAdmission src t => Sys2Proof.Machine.execPacketAdmission src t s
  | .echo r => Sys2Proof.Machine.execEcho r s
  | .sessionOpen r num nonce => Sys2Proof.Machine.execSessionOpen r num nonce s
  | .sessionClose r t => Sys2Proof.Machine.execSessionClose r t s
  | .identify r => Sys2Proof.Machine.execIdentify r s
  | .keyLoad r => Sys2Proof.Machine.execKeyLoad r s
  | .keyClear r => Sys2Proof.Machine.execKeyClear r s
  | .jobStatus r => Sys2Proof.Machine.execJobStatus r s
  | .jobCancel r => Sys2Proof.Machine.execJobCancel r s
  | .eventRead r => Sys2Proof.Machine.execEventRead r s
  | .eventCfg r => Sys2Proof.Machine.execEventCfg r s
  | .regRead r t => Sys2Proof.Machine.execRegRead r t s
  | .regWrite r t => Sys2Proof.Machine.execRegWrite r t s
  | .graphNode r => Sys2Proof.Machine.execGraphNode r s
  | .graphEdge r => Sys2Proof.Machine.execGraphEdge r s
  | .graphSegment r => Sys2Proof.Machine.execGraphSegment r s
  | .graphDelete r => Sys2Proof.Machine.execGraphDelete r s
  | .graphClear r => Sys2Proof.Machine.execGraphClear r s
  | .kernelLoad r h => Sys2Proof.Machine.execKernelLoad r h s
  | .kernelDelete r => Sys2Proof.Machine.execKernelDelete r s
  | .compile r h => Sys2Proof.Machine.execCompile r h s
  | .graphResult r => Sys2Proof.Machine.execGraphResult r s
  | .paramWrite r baked => Sys2Proof.Machine.execParamWrite r baked s
  | .paramRead r => Sys2Proof.Machine.execParamRead r s
  | .meterRead r => Sys2Proof.Machine.execMeterRead r s
  | .brewOpen r pick => Sys2Proof.Machine.execBrewOpen r pick s
  | .brewWrite r => Sys2Proof.Machine.execBrewWrite r s
  | .brewLoad r h => Sys2Proof.Machine.execBrewLoad r h s
  | .brewStore r h => Sys2Proof.Machine.execBrewStore r h s
  | .brewTap r h => Sys2Proof.Machine.execBrewTap r h s
  | .brewSpill r => Sys2Proof.Machine.execBrewSpill r s
  | .brewResolve r => Sys2Proof.Machine.execBrewResolve r s
  | .brewStatus r => Sys2Proof.Machine.execBrewStatus r s
  | .tapReport r => Sys2Proof.Machine.execTapReport r s
  | .slackRead r => Sys2Proof.Machine.execSlackRead r s
  | .fgReport r => Sys2Proof.Machine.execFgReport r s
  | .ledgerRead r => Sys2Proof.Machine.execLedgerRead r s
  | .cellarReserve r => Sys2Proof.Machine.execCellarReserve r s
  | .cellarRelease r => Sys2Proof.Machine.execCellarRelease r s
  | .cellarRead r => Sys2Proof.Machine.execCellarRead r s
  | .cellarWrite r => Sys2Proof.Machine.execCellarWrite r s
  | .cellarCopy r h => Sys2Proof.Machine.execCellarCopy r h s
  | .portStart r => Sys2Proof.Machine.execPortStart r s
  | .portStop r => Sys2Proof.Machine.execPortStop r s
  | .portStatus r => Sys2Proof.Machine.execPortStatus r s
  | .traceUp r h => Sys2Proof.Machine.execTraceUp r h s
  | .traceDown r => Sys2Proof.Machine.execTraceDown r s
  | .prbsRun r => Sys2Proof.Machine.execPrbsRun r s
  | .prbsRead r bits errors => Sys2Proof.Machine.execPrbsRead r bits errors s
  | .linkStatus r => Sys2Proof.Machine.execLinkStatus r s
  | .fsSet r => Sys2Proof.Machine.execFsSet r s
  | .refSelect r => Sys2Proof.Machine.execRefSelect r s
  | .timeRead r raw => Sys2Proof.Machine.execTimeRead r raw s
  | .timeAdjust r raw => Sys2Proof.Machine.execTimeAdjust r raw s
  | .pulseSchedule r raw => Sys2Proof.Machine.execPulseSchedule r raw s
  | .clkoutAlign r => Sys2Proof.Machine.execClkoutAlign r s
  | .ampDiag r h => Sys2Proof.Machine.execAmpDiag r h s
  | .ampDiagRead r => Sys2Proof.Machine.execAmpDiagRead r s
  | .ampLimitSet r => Sys2Proof.Machine.execAmpLimitSet r s
  | .ampFaultClear r low => Sys2Proof.Machine.execAmpFaultClear r low s
  | .ampStatus r dc => Sys2Proof.Machine.execAmpStatus r dc s
  | .teamForm r h => Sys2Proof.Machine.execTeamForm r h s
  | .teamLeave r => Sys2Proof.Machine.execTeamLeave r s
  | .shadowPair r => Sys2Proof.Machine.execShadowPair r s
  | .switchover r => Sys2Proof.Machine.execSwitchover r s
  | .teamStatus r => Sys2Proof.Machine.execTeamStatus r s
  | .overrideSet r => Sys2Proof.Machine.execOverrideSet r s
  | .overrideStatus r => Sys2Proof.Machine.execOverrideStatus r s
  | .modeSet r => Sys2Proof.Machine.execModeSet r s
  | .reset r => Sys2Proof.Machine.execReset r s
  | .resetCause r => Sys2Proof.Machine.execResetCause r s
  | .vaultRead r => Sys2Proof.Machine.execVaultRead r s
  | .vaultWrite r => Sys2Proof.Machine.execVaultWrite r s
  | .flashWrite r h => Sys2Proof.Machine.execFlashWrite r h s
  | .flashRead r ok => Sys2Proof.Machine.execFlashRead r ok s
  | .fwActivate r ok => Sys2Proof.Machine.execFwActivate r ok s
  | .jobStep w => Sys2Proof.Machine.execJobStep w s
  | .auditStep last => Sys2Proof.Machine.execAuditStep last s
  | .eventLogWrite t => Sys2Proof.Machine.execEventLogWrite t s
  | .sessionIdleTimeout session t => Sys2Proof.Machine.execSessionIdleTimeout session t s
  | .jobRecordExpiry h => Sys2Proof.Machine.execJobRecordExpiry h s
  | .cmdResend ep n => Sys2Proof.Machine.execCmdResend ep n s
  | .spiWritePacket bytes => Sys2Proof.Machine.execSpiWritePacket bytes s
  | .spiReadPacket n => Sys2Proof.Machine.execSpiReadPacket n s
  | .spiReadStatus => Sys2Proof.Machine.execSpiReadStatus s
  | .spiRegRead a n t => Sys2Proof.Machine.execSpiRegRead a n t s
  | .spiRegWrite a words t => Sys2Proof.Machine.execSpiRegWrite a words t s
  | .rqTailDoorbell q value => Sys2Proof.Machine.execRqTailDoorbell q value s
  | .pcieRequestFetch q len reserved bytes => Sys2Proof.Machine.execPcieRequestFetch q len reserved bytes s
  | .qpCtrlWrite q value => Sys2Proof.Machine.execQpCtrlWrite q value s
  | .pcieFlr t => Sys2Proof.Machine.execPcieFlr t s
  | .ethFrameRx lane frame fcsOk t => Sys2Proof.Machine.execEthFrameRx lane frame fcsOk t s
  | .hoeFrameRx lane mac unicast vlan payload => Sys2Proof.Machine.execHoeFrameRx lane mac unicast vlan payload s
  | .udpDatagramRx lane dgram => Sys2Proof.Machine.execUdpDatagramRx lane dgram s
  | .arpRequestRx lane ip mac target => Sys2Proof.Machine.execArpRequestRx lane ip mac target s
  | .arpCacheExpiry ip => Sys2Proof.Machine.execArpCacheExpiry ip s
  | .ethLinkUp lane => Sys2Proof.Machine.execEthLinkUp lane s
  | .laneLoss lane t => Sys2Proof.Machine.execLaneLoss lane t s
  | .laneLock lane inverted k => Sys2Proof.Machine.execLaneLock lane inverted k s
  | .laneReturn lane t => Sys2Proof.Machine.execLaneReturn lane t s
  | .frameMarkerRx trace idx t => Sys2Proof.Machine.execFrameMarkerRx trace idx t s
  | .syncTimeout trace => Sys2Proof.Machine.execSyncTimeout trace s
  | .traceUpTimeout trace => Sys2Proof.Machine.execTraceUpTimeout trace s
  | .traceReinit trace cause => Sys2Proof.Machine.execTraceReinit trace cause s
  | .regionTx trace => Sys2Proof.Machine.execRegionTx trace s
  | .regionRx trace normal copyA copyB t => Sys2Proof.Machine.execRegionRx trace normal copyA copyB t s
  | .elasticSlip trace inRegion => Sys2Proof.Machine.execElasticSlip trace inRegion s
  | .packetTx trace poison t => Sys2Proof.Machine.execPacketTx trace poison t s
  | .dataPacketRx trace bytes poison t => Sys2Proof.Machine.execDataPacketRx trace bytes poison t s
  | .train trace copies skew delay => Sys2Proof.Machine.execTrain trace copies skew delay s
  | .ack trace lcp => Sys2Proof.Machine.execAck trace lcp s
  | .nak trace lcp => Sys2Proof.Machine.execNak trace lcp s
  | .credit trace lcp => Sys2Proof.Machine.execCredit trace lcp s
  | .restripe trace copies t => Sys2Proof.Machine.execRestripe trace copies t s
  | .replayTimer trace t => Sys2Proof.Machine.execReplayTimer trace t s
  | .ackTimer trace => Sys2Proof.Machine.execAckTimer trace s
  | .prbsLock lane => Sys2Proof.Machine.execPrbsLock lane s
  | .announce => Sys2Proof.Machine.execAnnounce s
  | .announcePeriod => Sys2Proof.Machine.execAnnouncePeriod s
  | .memberLoss ep => Sys2Proof.Machine.execMemberLoss ep s
  | .team => Sys2Proof.Machine.execTeam s
  | .teamAck => Sys2Proof.Machine.execTeamAck s
  | .pairRequest same => Sys2Proof.Machine.execPairRequest same s
  | .pairAccept => Sys2Proof.Machine.execPairAccept s
  | .pairRefuse => Sys2Proof.Machine.execPairRefuse s
  | .pairSwitch => Sys2Proof.Machine.execPairSwitch s
  | .pairSwitchDone => Sys2Proof.Machine.execPairSwitchDone s
  | .streamList => Sys2Proof.Machine.execStreamList s
  | .acquireData => Sys2Proof.Machine.execAcquireData s
  | .acquireRegisters => Sys2Proof.Machine.execAcquireRegisters s
  | .cutEnd t => Sys2Proof.Machine.execCutEnd t s
  | .cutWaitExpiry t => Sys2Proof.Machine.execCutWaitExpiry t s
  | .pairSenseLow t => Sys2Proof.Machine.execPairSenseLow t s
  | .takeover => Sys2Proof.Machine.execTakeover s
  | .commandedSwitchover => Sys2Proof.Machine.execCommandedSwitchover s
  | .pairSenseHigh => Sys2Proof.Machine.execPairSenseHigh s
  | .standbyRecordLoss => Sys2Proof.Machine.execStandbyRecordLoss s
  | .externalFrameStart p phase words => Sys2Proof.Machine.execExternalFrameStart p phase words s
  | .portClockLoss p => Sys2Proof.Machine.execPortClockLoss p s
  | .portCfgWrite p value => Sys2Proof.Machine.execPortCfgWrite p value s
  | .refInvalid cand => Sys2Proof.Machine.execRefInvalid cand s
  | .refQualified cand => Sys2Proof.Machine.execRefQualified cand s
  | .dpllLock freq phase raw => Sys2Proof.Machine.execDpllLock freq phase raw s
  | .holdoverHistorySample freq => Sys2Proof.Machine.execHoldoverHistorySample freq s
  | .ptpSync => Sys2Proof.Machine.execPtpSync s
  | .followUp => Sys2Proof.Machine.execFollowUp s
  | .delayReq => Sys2Proof.Machine.execDelayReq s
  | .delayResp => Sys2Proof.Machine.execDelayResp s
  | .pdelayReq => Sys2Proof.Machine.execPdelayReq s
  | .pdelayResp => Sys2Proof.Machine.execPdelayResp s
  | .pdelayRespFollowUp => Sys2Proof.Machine.execPdelayRespFollowUp s
  | .ptpAnnounce => Sys2Proof.Machine.execPtpAnnounce s
  | .announceReceiptTimeout dom port => Sys2Proof.Machine.execAnnounceReceiptTimeout dom port s
  | .syncInterval dom port t => Sys2Proof.Machine.execSyncInterval dom port t s
  | .announceInterval dom port => Sys2Proof.Machine.execAnnounceInterval dom port s
  | .delayReqInterval dom port t => Sys2Proof.Machine.execDelayReqInterval dom port t s
  | .frameMap raw => Sys2Proof.Machine.execFrameMap raw s
  | .scheduledPulse output raw => Sys2Proof.Machine.execScheduledPulse output raw s
  | .timeSnap snap raw => Sys2Proof.Machine.execTimeSnap snap raw s
  | .bkSecHiWrite value t => Sys2Proof.Machine.execBkSecHiWrite value t s
  | .ampSilence chan => Sys2Proof.Machine.execAmpSilence chan s
  | .groupPowerDown group => Sys2Proof.Machine.execGroupPowerDown group s
  | .ampWake chan => Sys2Proof.Machine.execAmpWake chan s
  | .wakeSettleEnd group => Sys2Proof.Machine.execWakeSettleEnd group s
  | .ampRelease => Sys2Proof.Machine.execAmpRelease s
  | .carrierLock chan meas => Sys2Proof.Machine.execCarrierLock chan meas s
  | .cleanStop => Sys2Proof.Machine.execCleanStop s
  | .muteRampEnd chan => Sys2Proof.Machine.execMuteRampEnd chan s
  | .enableLowDelay => Sys2Proof.Machine.execEnableLowDelay s
  | .driverFault chan => Sys2Proof.Machine.execDriverFault chan s
  | .currentLimit chan => Sys2Proof.Machine.execCurrentLimit chan s
  | .shortFault chan => Sys2Proof.Machine.execShortFault chan s
  | .dcFault chan => Sys2Proof.Machine.execDcFault chan s
  | .loopFault chan carrier => Sys2Proof.Machine.execLoopFault chan carrier s
  | .energyBlock powers => Sys2Proof.Machine.execEnergyBlock powers s
  | .energyCutHoldEnd chan => Sys2Proof.Machine.execEnergyCutHoldEnd chan s
  | .ampTestStep chan zmag zph current => Sys2Proof.Machine.execAmpTestStep chan zmag zph current s
  | .limitRegisterWrite chan reg value => Sys2Proof.Machine.execLimitRegisterWrite chan reg value s
  | .ovrInput input level => Sys2Proof.Machine.execOvrInput input level s
  | .offHoldExpiry input => Sys2Proof.Machine.execOffHoldExpiry input s
  | .ovrUnlatch mask => Sys2Proof.Machine.execOvrUnlatch mask s
  | .prepare r => Sys2Proof.Machine.execPrepare r s
  | .ready r => Sys2Proof.Machine.execReady r s
  | .refuse r => Sys2Proof.Machine.execRefuse r s
  | .commit r => Sys2Proof.Machine.execCommit r s
  | .abort r => Sys2Proof.Machine.execAbort r s
  | .query r => Sys2Proof.Machine.execQuery r s
  | .outcome r => Sys2Proof.Machine.execOutcome r s
  | .tapDone r => Sys2Proof.Machine.execDone r s
  | .tapDecision group => Sys2Proof.Machine.execTapDecision group s
  | .queryTimer brew => Sys2Proof.Machine.execQueryTimer brew s
  | .queryPeers brew => Sys2Proof.Machine.execQueryPeers brew s
  | .groupCloseTimeout group => Sys2Proof.Machine.execGroupCloseTimeout group s
  | .settleTapArm brew => Sys2Proof.Machine.execSettleTapArm brew s
  | .memberTimeout member => Sys2Proof.Machine.execMemberTimeout member s
  | .vaonLoss => Sys2Proof.Machine.execVaonLoss s
  | .vaonReturn autoWake seconds => Sys2Proof.Machine.execVaonReturn autoWake seconds s
  | .vbakLoss => Sys2Proof.Machine.execVbakLoss s
  | .wakenPin => Sys2Proof.Machine.execWakenPin s
  | .spiWake => Sys2Proof.Machine.execSpiWake s
  | .laneSignalWake lane => Sys2Proof.Machine.execLaneSignalWake lane s
  | .bkAlarmMatch t => Sys2Proof.Machine.execBkAlarmMatch t s
  | .pwrGapEnd => Sys2Proof.Machine.execPwrGapEnd s
  | .pwrGood => Sys2Proof.Machine.execPwrGood s
  | .pgoodTimeout => Sys2Proof.Machine.execPgoodTimeout s
  | .pwrGoodLoss => Sys2Proof.Machine.execPwrGoodLoss s
  | .zeroCross us => Sys2Proof.Machine.execZeroCross us s
  | .missingHalfCycle => Sys2Proof.Machine.execMissingHalfCycle s
  | .shutdownDelayEnd => Sys2Proof.Machine.execShutdownDelayEnd s
  | .thermalWarn tj => Sys2Proof.Machine.execThermalWarn tj s
  | .thermalTrip => Sys2Proof.Machine.execThermalTrip s
  | .thermalTripRelease => Sys2Proof.Machine.execThermalTripRelease s
  | .supplyMonitorTrip => Sys2Proof.Machine.execSupplyMonitorTrip s
  | .resetnPin low ns taken => Sys2Proof.Machine.execResetnPin low ns taken s
  | .wdogExpiry => Sys2Proof.Machine.execWdogExpiry s
  | .critErr where_ => Sys2Proof.Machine.execCritErr where_ s
  | .resetStart brews t => Sys2Proof.Machine.execResetStart brews t s
  | .optionLoading straps otp => Sys2Proof.Machine.execOptionLoading straps otp s
  | .releaseStep linear t => Sys2Proof.Machine.execReleaseStep linear t s
  | .bootDataWrite value => Sys2Proof.Machine.execBootDataWrite value s
  | .bootGo ok => Sys2Proof.Machine.execBootGo ok s
  | .blockResetRelease code => Sys2Proof.Machine.execBlockResetRelease code s
  | .slackClr => Sys2Proof.Machine.execSlackClr s
  | .rdReset => Sys2Proof.Machine.execRdReset s
  | .fgReportDataRead => Sys2Proof.Machine.execFgReportDataRead s
  | .evtRdIndexWrite value => Sys2Proof.Machine.execEvtRdIndexWrite value s
  | .evtDataRead => Sys2Proof.Machine.execEvtDataRead s
  | .latchingRead r t => Sys2Proof.Machine.execLatchingRead r t s
  | .registerWrite master a value t => Sys2Proof.Machine.execRegisterWrite master a value t s
  | .commandReplyRx source => Sys2Proof.Machine.execCommandReplyRx source s
  | .teamFormTimeout ep => Sys2Proof.Machine.execTeamFormTimeout ep s
  | .cellarDriftRetrain c => Sys2Proof.Machine.execCellarDriftRetrain c s
  | .dpllLockLoss freq phase => Sys2Proof.Machine.execDpllLockLoss freq phase s
  | .refValid cand foffs => Sys2Proof.Machine.execRefValid cand foffs s
  | .firmwareStart from_ version => Sys2Proof.Machine.execFirmwareStart from_ version s
  | .teamSubgraphRx leader brew h g => Sys2Proof.Machine.execTeamSubgraphRx leader brew h g s
  | .memberCompileReport member phase res => Sys2Proof.Machine.execMemberCompileReport member phase res s
  | .compileWithdraw brew => Sys2Proof.Machine.execCompileWithdraw brew s

end Sys2Proof.Machine
end

