-- ==== Sys2Proof/WellFormed.lean ====
section
/-! DEFINITION. Well-formed commands: operands that are numbers of a width the spec gives lie within it. `exec` has a meaning for every command,
well-formed or not; a packet, frame or word that arrives is well-formed whatever its bytes. -/

namespace Sys2Proof

/-- Whether a number fits `w` bits. -/
def below (w n : Nat) : Bool := decide (n < 2 ^ w)

/-- Whether a byte address is that of a 32-bit register (R7). -/
def wordAligned (a : Nat) : Bool := decide (a % 4 = 0)

/-- Whether a number is the address of a register: in register space, or in BAR2 of the PCIe endpoint (R7, R270). -/
def addrOk (a : Nat) : Bool := wordAligned a && decide (a < 0x100008000)

/-- A source of packets: queue pair 0-7, MAC address, IP address and port, endpoint ID (Table 10.8). -/
def Source.wf : Source → Bool
  | .spi => true
  | .pcie q => decide (q < 8)
  | .eth mac => below 48 mac
  | .udp ip port => below 32 ip && below 16 port
  | .trace e => below 18 e

/-- An admitted request: header fields within Table 10.1, and a payload that its length field can hold. -/
def Req.wf (r : Req) : Bool :=
  r.source.wf && below 16 r.opcode && below 16 r.session && below 32 r.seq && below 8 r.tag && below 32 r.check && below 32 r.payload.length

/-- A burst (R222): 1 to 4 beats of up to 64 bytes that cross no 256-byte boundary, the written bytes as many as its length. DESIGN CHOICE: log entry 22. -/
def BurstOffer.wf (o : BurstOffer) : Bool :=
  decide (1 ≤ o.len ∧ o.addr % 256 + o.len ≤ 256) && (match o.data with
    | some bs => decide (bs.length = o.len)
    | none => true)

/-- A node record: IDs and pin counts within Table 5.4. -/
def GNode.wf (n : GNode) : Bool := below 16 n.id && decide (n.nIn ≤ 1024 ∧ n.nOut ≤ 1024)

/-- IDs that rise strictly. -/
def rising : List Nat → Bool
  | [] => true
  | [_] => true
  | a :: b :: t => decide (a < b) && rising (b :: t)

/-- A graph: records in rising order of their IDs (R114). -/
def Graph.wf (g : Graph) : Bool :=
  g.nodes.all GNode.wf && rising (g.nodes.map GNode.id) && rising (g.edges.map GEdge.id) && rising (g.segs.map GSeg.id)

/-- What a boundary brings: ports 0-31, and PDM inputs by number. -/
def BoundaryIn.wf (x : BoundaryIn) : Bool := x.words.all (fun w => decide (w.1 < 32 ∧ w.2.1 < 32)) && x.mics.all (fun m => decide (m.1 < 16))

/-- A step of the groom: job handles of 16 bits, brews 0-14. -/
def GroomWork.wf : GroomWork → Bool
  | .compile h _ _ _ _ => below 16 h
  | .bake b _ => decide (b < 15)
  | .direct => true
  | .resync b => decide (b < 15)
  | .finals b => decide (b < 15)
  | .finish h => below 16 h
  | .progress h _ => below 16 h
  | .flash h _ => below 16 h
  | .cancelled h => below 16 h

/-- Whether a command is well-formed. DESIGN CHOICE: log entry 5. -/
def Instr.wf (i : Instr) : Bool :=
  match i with
  | Instr.frameBoundary x => x.wf
  | Instr.hangAbort _ => true
  | Instr.fgFatalReset => true
  | Instr.avsWindowEnd => true
  | Instr.tapFloorEnd => true
  | Instr.avsPmbusWrite _ => true
  | Instr.nop _ _ _ => true
  | Instr.mpy _ _ _ => true
  | Instr.mac _ _ _ => true
  | Instr.msu _ _ _ => true
  | Instr.clr _ _ _ => true
  | Instr.addda _ _ _ => true
  | Instr.rnd _ _ _ => true
  | Instr.sat _ _ _ => true
  | Instr.mpyx _ _ _ => true
  | Instr.macx _ _ _ => true
  | Instr.msux _ _ _ => true
  | Instr.macw _ _ _ => true
  | Instr.add _ _ _ => true
  | Instr.sub _ _ _ => true
  | Instr.neg _ _ _ => true
  | Instr.abs _ _ _ => true
  | Instr.cmp _ _ _ => true
  | Instr.and _ _ _ => true
  | Instr.or _ _ _ => true
  | Instr.xor _ _ _ => true
  | Instr.shl _ _ _ => true
  | Instr.shr _ _ _ => true
  | Instr.shrl _ _ _ => true
  | Instr.shv _ _ _ => true
  | Instr.ramp _ _ _ => true
  | Instr.lut _ _ _ => true
  | Instr.maxi _ _ _ => true
  | Instr.mini _ _ _ => true
  | Instr.maxai _ _ _ => true
  | Instr.ldS _ _ _ _ => true
  | Instr.stS _ _ _ _ => true
  | Instr.ldK _ _ _ _ => true
  | Instr.stK _ _ _ _ => true
  | Instr.ldH _ _ _ _ => true
  | Instr.stH _ _ _ _ => true
  | Instr.ldC _ _ _ _ => true
  | Instr.stC _ _ _ _ => true
  | Instr.ldA _ _ _ _ => true
  | Instr.stA _ _ _ _ => true
  | Instr.ldX _ _ _ _ => true
  | Instr.stX _ _ _ _ => true
  | Instr.ldSp _ _ _ _ => true
  | Instr.ldCp _ _ _ _ => true
  | Instr.mov _ _ _ _ => true
  | Instr.br _ _ _ => true
  | Instr.call _ _ _ => true
  | Instr.ret _ _ => true
  | Instr.repeat_ _ _ _ _ _ => true
  | Instr.repeatIterationEnd _ => true
  | Instr.rot _ => true
  | Instr.wait _ _ => true
  | Instr.waitComplete _ => true
  | Instr.signal _ _ _ => true
  | Instr.flagPostArrival _ _ => true
  | Instr.send _ _ _ _ => true
  | Instr.sendComplete _ => true
  | Instr.exchangeArrival _ _ => true
  | Instr.recv _ _ _ => true
  | Instr.recvComplete _ => true
  | Instr.sync _ _ => true
  | Instr.ldi _ _ _ => true
  | Instr.addi _ _ _ => true
  | Instr.andi _ _ _ => true
  | Instr.ori _ _ _ => true
  | Instr.xori _ _ _ => true
  | Instr.cmpi _ _ _ => true
  | Instr.illegalWord _ _ => true
  | Instr.outputWriteLanding _ _ => true
  | Instr.stallAbort _ _ => true
  | Instr.controlEventTaken _ => true
  | Instr.heldPageWrite _ => true
  | Instr.haltReq => true
  | Instr.step => true
  | Instr.resume => true
  | Instr.dbgRegDataAccess _ => true
  | Instr.meterPeriodEnd node _ cs => below 16 node && decide (1 ≤ cs.length ∧ cs.length ≤ 1024)
  | Instr.inputSilence node _ _ => below 16 node
  | Instr.move _ _ _ _ _ _ => true
  | Instr.loop _ _ _ => true
  | Instr.droverWait _ _ _ => true
  | Instr.droverSignal _ _ _ => true
  | Instr.droverEnd _ _ => true
  | Instr.droverProgramEndFault _ _ _ _ _ _ => true
  | Instr.droverProgramStart _ _ => true
  | Instr.pacedBurstStart _ _ _ _ _ _ => true
  | Instr.droverAbortTaken _ _ _ => true
  | Instr.chStart _ _ _ => true
  | Instr.crossbarGrant _ offers => offers.bursts.all BurstOffer.wf
  | Instr.burstResponse _ _ _ => true
  | Instr.xbTimeout _ _ => true
  | Instr.bankOwnWrite _ _ => true
  | Instr.scrubPassEnd => true
  | Instr.retrainReq => true
  | Instr.scheduledRetrain _ _ => true
  | Instr.emergencyRetrain _ => true
  | Instr.retrainDone _ => true
  | Instr.packetAdmission src _ => src.wf
  | Instr.echo r => r.wf
  | Instr.sessionOpen r num nonce => r.wf && below 16 num && below 64 nonce
  | Instr.sessionClose r _ => r.wf
  | Instr.identify r => r.wf
  | Instr.keyLoad r => r.wf
  | Instr.keyClear r => r.wf
  | Instr.jobStatus r => r.wf
  | Instr.jobCancel r => r.wf
  | Instr.eventRead r => r.wf
  | Instr.eventCfg r => r.wf
  | Instr.regRead r _ => r.wf
  | Instr.regWrite r _ => r.wf
  | Instr.graphNode r => r.wf
  | Instr.graphEdge r => r.wf
  | Instr.graphSegment r => r.wf
  | Instr.graphDelete r => r.wf
  | Instr.graphClear r => r.wf
  | Instr.kernelLoad r h => r.wf && below 16 h
  | Instr.kernelDelete r => r.wf
  | Instr.compile r h => r.wf && below 16 h
  | Instr.graphResult r => r.wf
  | Instr.paramWrite r _ => r.wf
  | Instr.paramRead r => r.wf
  | Instr.meterRead r => r.wf
  | Instr.brewOpen r _ => r.wf
  | Instr.brewWrite r => r.wf
  | Instr.brewLoad r h => r.wf && below 16 h
  | Instr.brewStore r h => r.wf && below 16 h
  | Instr.brewTap r h => r.wf && below 16 h
  | Instr.brewSpill r => r.wf
  | Instr.brewResolve r => r.wf
  | Instr.brewStatus r => r.wf
  | Instr.tapReport r => r.wf
  | Instr.slackRead r => r.wf
  | Instr.fgReport r => r.wf
  | Instr.ledgerRead r => r.wf
  | Instr.cellarReserve r => r.wf
  | Instr.cellarRelease r => r.wf
  | Instr.cellarRead r => r.wf
  | Instr.cellarWrite r => r.wf
  | Instr.cellarCopy r h => r.wf && below 16 h
  | Instr.portStart r => r.wf
  | Instr.portStop r => r.wf
  | Instr.portStatus r => r.wf
  | Instr.traceUp r h => r.wf && below 16 h
  | Instr.traceDown r => r.wf
  | Instr.prbsRun r => r.wf
  | Instr.prbsRead r _ _ => r.wf
  | Instr.linkStatus r => r.wf
  | Instr.fsSet r => r.wf
  | Instr.refSelect r => r.wf
  | Instr.timeRead r _ => r.wf
  | Instr.timeAdjust r _ => r.wf
  | Instr.pulseSchedule r _ => r.wf
  | Instr.clkoutAlign r => r.wf
  | Instr.ampDiag r h => r.wf && below 16 h
  | Instr.ampDiagRead r => r.wf
  | Instr.ampLimitSet r => r.wf
  | Instr.ampFaultClear r _ => r.wf
  | Instr.ampStatus r _ => r.wf
  | Instr.teamForm r h => r.wf && below 16 h
  | Instr.teamLeave r => r.wf
  | Instr.shadowPair r => r.wf
  | Instr.switchover r => r.wf
  | Instr.teamStatus r => r.wf
  | Instr.overrideSet r => r.wf
  | Instr.overrideStatus r => r.wf
  | Instr.modeSet r => r.wf
  | Instr.reset r => r.wf
  | Instr.resetCause r => r.wf
  | Instr.vaultRead r => r.wf
  | Instr.vaultWrite r => r.wf
  | Instr.flashWrite r h => r.wf && below 16 h
  | Instr.flashRead r _ => r.wf
  | Instr.fwActivate r _ => r.wf
  | Instr.jobStep w => w.wf
  | Instr.auditStep _ => true
  | Instr.eventLogWrite _ => true
  | Instr.sessionIdleTimeout session _ => below 16 session
  | Instr.jobRecordExpiry h => below 16 h
  | Instr.cmdResend ep _ => below 18 ep
  | Instr.spiWritePacket _ => true
  | Instr.spiReadPacket _ => true
  | Instr.spiReadStatus => true
  | Instr.spiRegRead a _ _ => wordAligned a.toNat
  | Instr.spiRegWrite a _ _ => wordAligned a.toNat
  | Instr.rqTailDoorbell _ _ => true
  | Instr.pcieRequestFetch _ len _ _ => below 32 len
  | Instr.qpCtrlWrite _ _ => true
  | Instr.pcieFlr _ => true
  | Instr.ethFrameRx _ frame _ _ => decide (14 ≤ frame.length)
  | Instr.hoeFrameRx _ hw _ vlan _ => below 48 hw && vlan.all (fun v => below 16 v)
  | Instr.udpDatagramRx _ _ => true
  | Instr.arpRequestRx _ _ hw _ => below 48 hw
  | Instr.arpCacheExpiry _ => true
  | Instr.ethLinkUp _ => true
  | Instr.laneLoss _ _ => true
  | Instr.laneLock _ _ _ => true
  | Instr.laneReturn _ _ => true
  | Instr.frameMarkerRx _ idx _ => decide (idx.length ≤ 8)
  | Instr.syncTimeout _ => true
  | Instr.traceUpTimeout _ => true
  | Instr.traceReinit _ cause => decide (1 ≤ cause ∧ cause ≤ 10)
  | Instr.regionTx _ => true
  | Instr.regionRx _ _ _ _ _ => true
  | Instr.elasticSlip _ _ => true
  | Instr.packetTx _ _ _ => true
  | Instr.dataPacketRx _ _ _ _ => true
  | Instr.train _ _ _ _ => true
  | Instr.ack _ _ => true
  | Instr.nak _ _ => true
  | Instr.credit _ _ => true
  | Instr.restripe _ _ _ => true
  | Instr.replayTimer _ _ => true
  | Instr.ackTimer _ => true
  | Instr.prbsLock _ => true
  | Instr.announce => true
  | Instr.announcePeriod => true
  | Instr.memberLoss ep => below 18 ep
  | Instr.team => true
  | Instr.teamAck => true
  | Instr.pairRequest _ => true
  | Instr.pairAccept => true
  | Instr.pairRefuse => true
  | Instr.pairSwitch => true
  | Instr.pairSwitchDone => true
  | Instr.streamList => true
  | Instr.acquireData => true
  | Instr.acquireRegisters => true
  | Instr.cutEnd _ => true
  | Instr.cutWaitExpiry _ => true
  | Instr.pairSenseLow _ => true
  | Instr.takeover => true
  | Instr.commandedSwitchover => true
  | Instr.pairSenseHigh => true
  | Instr.standbyRecordLoss => true
  | Instr.externalFrameStart _ _ words => decide (words.length ≤ 32)
  | Instr.portClockLoss _ => true
  | Instr.portCfgWrite _ _ => true
  | Instr.refInvalid _ => true
  | Instr.refQualified _ => true
  | Instr.dpllLock _ _ _ => true
  | Instr.holdoverHistorySample _ => true
  | Instr.ptpSync => true
  | Instr.followUp => true
  | Instr.delayReq => true
  | Instr.delayResp => true
  | Instr.pdelayReq => true
  | Instr.pdelayResp => true
  | Instr.pdelayRespFollowUp => true
  | Instr.ptpAnnounce => true
  | Instr.announceReceiptTimeout _ _ => true
  | Instr.syncInterval _ _ _ => true
  | Instr.announceInterval _ _ => true
  | Instr.delayReqInterval _ _ _ => true
  | Instr.frameMap _ => true
  | Instr.scheduledPulse _ _ => true
  | Instr.timeSnap _ _ => true
  | Instr.bkSecHiWrite _ _ => true
  | Instr.ampSilence _ => true
  | Instr.groupPowerDown _ => true
  | Instr.ampWake _ => true
  | Instr.wakeSettleEnd _ => true
  | Instr.ampRelease => true
  | Instr.carrierLock _ _ => true
  | Instr.cleanStop => true
  | Instr.muteRampEnd _ => true
  | Instr.enableLowDelay => true
  | Instr.driverFault _ => true
  | Instr.currentLimit _ => true
  | Instr.shortFault _ => true
  | Instr.dcFault _ => true
  | Instr.loopFault _ _ => true
  | Instr.energyBlock powers => decide (powers.length = 32)
  | Instr.energyCutHoldEnd _ => true
  | Instr.ampTestStep _ _ _ _ => true
  | Instr.limitRegisterWrite _ _ _ => true
  | Instr.ovrInput _ _ => true
  | Instr.offHoldExpiry _ => true
  | Instr.ovrUnlatch _ => true
  | Instr.prepare r => r.wf
  | Instr.ready r => r.wf
  | Instr.refuse r => r.wf
  | Instr.commit r => r.wf
  | Instr.abort r => r.wf
  | Instr.query r => r.wf
  | Instr.outcome r => r.wf
  | Instr.tapDone r => r.wf
  | Instr.tapDecision group => below 32 group
  | Instr.queryTimer _ => true
  | Instr.queryPeers _ => true
  | Instr.groupCloseTimeout group => below 32 group
  | Instr.settleTapArm _ => true
  | Instr.memberTimeout _ => true
  | Instr.vaonLoss => true
  | Instr.vaonReturn _ _ => true
  | Instr.vbakLoss => true
  | Instr.wakenPin => true
  | Instr.spiWake => true
  | Instr.laneSignalWake _ => true
  | Instr.bkAlarmMatch _ => true
  | Instr.pwrGapEnd => true
  | Instr.pwrGood => true
  | Instr.pgoodTimeout => true
  | Instr.pwrGoodLoss => true
  | Instr.zeroCross _ => true
  | Instr.missingHalfCycle => true
  | Instr.shutdownDelayEnd => true
  | Instr.thermalWarn tj => decide (tj.length ≤ 16)
  | Instr.thermalTrip => true
  | Instr.thermalTripRelease => true
  | Instr.supplyMonitorTrip => true
  | Instr.resetnPin _ _ _ => true
  | Instr.wdogExpiry => true
  | Instr.critErr _ => true
  | Instr.resetStart brews _ => brews.all (fun b => decide (b < 15))
  | Instr.optionLoading _ _ => true
  | Instr.releaseStep _ _ => true
  | Instr.bootDataWrite _ => true
  | Instr.bootGo _ => true
  | Instr.blockResetRelease _ => true
  | Instr.slackClr => true
  | Instr.rdReset => true
  | Instr.fgReportDataRead => true
  | Instr.evtRdIndexWrite _ => true
  | Instr.evtDataRead => true
  | Instr.latchingRead r _ => addrOk r.addr
  | Instr.registerWrite _ a _ _ => addrOk a
  | Instr.commandReplyRx source => below 18 source
  | Instr.teamFormTimeout ep => below 18 ep
  | Instr.cellarDriftRetrain _ => true
  | Instr.dpllLockLoss _ _ => true
  | Instr.refValid _ _ => true
  | Instr.firmwareStart _ _ => true
  | Instr.teamSubgraphRx leader _ h g => below 18 leader && below 16 h && g.graph.wf
  | Instr.memberCompileReport _ phase _ => decide (phase ≤ 9)
  | Instr.compileWithdraw _ => true

end Sys2Proof
end

