-- ==== Sys2Proof/Safety.lean ====
section
/-! DEFINITION. What counts as a safe run of the block, and the invariants of its state, in the terms that claims use. -/

namespace Sys2Proof.Machine

/-- Memory, register space, stalls and units are in canonical form: keys strictly rising, no entry equal to what an unlisted key reads as. -/
structure Canonical (s : State) : Prop where
  mem : Memory.wf s.mem = true
  regs : smapWf regDefault s.regs = true
  stalls : smapWf (fun _ => stallReset) s.stalls = true
  units : smapWf (fun _ => unitIdle) s.units = true

/-- The command is answered with a next state: the block neither stops nor refuses. -/
def Answers (i : Instr) (s : State) : Prop := ∃ t, exec i s = .next t

/-- The command ends in a next state of which `P` holds. -/
def EndsIn (i : Instr) (s : State) (P : State → Prop) : Prop := ∃ t, exec i s = .next t ∧ P t

/-- The stall and the word that a command issues, for the commands that are words of a stall's program (R92). DESIGN CHOICE: log entry 4. -/
def issuedWord (i : Instr) : Option (Nat × ProgWord) :=
  match i with
  | .nop st f m => some (st.val, encodeStallWord (.fmtA 0x00 f m))
  | .mpy st f m => some (st.val, encodeStallWord (.fmtA 0x01 f m))
  | .mac st f m => some (st.val, encodeStallWord (.fmtA 0x02 f m))
  | .msu st f m => some (st.val, encodeStallWord (.fmtA 0x03 f m))
  | .clr st f m => some (st.val, encodeStallWord (.fmtA 0x04 f m))
  | .addda st f m => some (st.val, encodeStallWord (.fmtA 0x05 f m))
  | .rnd st f m => some (st.val, encodeStallWord (.fmtA 0x06 f m))
  | .sat st f m => some (st.val, encodeStallWord (.fmtA 0x07 f m))
  | .mpyx st f m => some (st.val, encodeStallWord (.fmtA 0x08 f m))
  | .macx st f m => some (st.val, encodeStallWord (.fmtA 0x09 f m))
  | .msux st f m => some (st.val, encodeStallWord (.fmtA 0x0A f m))
  | .macw st f m => some (st.val, encodeStallWord (.fmtA 0x0B f m))
  | .add st f m => some (st.val, encodeStallWord (.fmtA 0x0C f m))
  | .sub st f m => some (st.val, encodeStallWord (.fmtA 0x0D f m))
  | .neg st f m => some (st.val, encodeStallWord (.fmtA 0x0E f m))
  | .abs st f m => some (st.val, encodeStallWord (.fmtA 0x0F f m))
  | .cmp st f m => some (st.val, encodeStallWord (.fmtA 0x10 f m))
  | .and st f m => some (st.val, encodeStallWord (.fmtA 0x11 f m))
  | .or st f m => some (st.val, encodeStallWord (.fmtA 0x12 f m))
  | .xor st f m => some (st.val, encodeStallWord (.fmtA 0x13 f m))
  | .shl st f m => some (st.val, encodeStallWord (.fmtA 0x14 f m))
  | .shr st f m => some (st.val, encodeStallWord (.fmtA 0x15 f m))
  | .shrl st f m => some (st.val, encodeStallWord (.fmtA 0x16 f m))
  | .shv st f m => some (st.val, encodeStallWord (.fmtA 0x17 f m))
  | .ramp st f m => some (st.val, encodeStallWord (.fmtA 0x18 f m))
  | .lut st f m => some (st.val, encodeStallWord (.fmtA 0x19 f m))
  | .maxi st f m => some (st.val, encodeStallWord (.fmtA 0x1A f m))
  | .mini st f m => some (st.val, encodeStallWord (.fmtA 0x1B f m))
  | .maxai st f m => some (st.val, encodeStallWord (.fmtA 0x1C f m))
  | .ldS st op f g => some (st.val, encodeStallWord (.fmtA op f ⟨0x1, g⟩))
  | .stS st op f g => some (st.val, encodeStallWord (.fmtA op f ⟨0x2, g⟩))
  | .ldK st op f g => some (st.val, encodeStallWord (.fmtA op f ⟨0x3, g⟩))
  | .stK st op f g => some (st.val, encodeStallWord (.fmtA op f ⟨0x4, g⟩))
  | .ldH st op f g => some (st.val, encodeStallWord (.fmtA op f ⟨0x5, g⟩))
  | .stH st op f g => some (st.val, encodeStallWord (.fmtA op f ⟨0x6, g⟩))
  | .ldC st op f g => some (st.val, encodeStallWord (.fmtA op f ⟨0x7, g⟩))
  | .stC st op f g => some (st.val, encodeStallWord (.fmtA op f ⟨0x8, g⟩))
  | .ldA st op f g => some (st.val, encodeStallWord (.fmtA op f ⟨0x9, g⟩))
  | .stA st op f g => some (st.val, encodeStallWord (.fmtA op f ⟨0xA, g⟩))
  | .ldX st op f g => some (st.val, encodeStallWord (.fmtA op f ⟨0xB, g⟩))
  | .stX st op f g => some (st.val, encodeStallWord (.fmtA op f ⟨0xC, g⟩))
  | .ldSp st op f g => some (st.val, encodeStallWord (.fmtA op f ⟨0xD, g⟩))
  | .ldCp st op f g => some (st.val, encodeStallWord (.fmtA op f ⟨0xE, g⟩))
  | .mov st op f g => some (st.val, encodeStallWord (.fmtA op f ⟨0xF, g⟩))
  | .br st cond target => some (st.val, encodeStallWord (.br cond target))
  | .call st cond target => some (st.val, encodeStallWord (.call cond target))
  | .ret st cond => some (st.val, encodeStallWord (.ret cond))
  | .repeat_ st rot rsrc len count => some (st.val, encodeStallWord (.repeat_ rot rsrc len count))
  | .rot st => some (st.val, encodeStallWord (.rot))
  | .wait st flag => some (st.val, encodeStallWord (.wait flag))
  | .signal st unit flag => some (st.val, encodeStallWord (.signal unit flag))
  | .send st unit slot dsrc => some (st.val, encodeStallWord (.send unit slot dsrc))
  | .recv st slot ddst => some (st.val, encodeStallWord (.recv slot ddst))
  | .sync st _ => some (st.val, encodeStallWord (.sync))
  | .ldi st reg imm => some (st.val, encodeStallWord (.fmtC 1 reg imm))
  | .addi st reg imm => some (st.val, encodeStallWord (.fmtC 2 reg imm))
  | .andi st reg imm => some (st.val, encodeStallWord (.fmtC 3 reg imm))
  | .ori st reg imm => some (st.val, encodeStallWord (.fmtC 4 reg imm))
  | .xori st reg imm => some (st.val, encodeStallWord (.fmtC 5 reg imm))
  | .cmpi st reg imm => some (st.val, encodeStallWord (.fmtC 6 reg imm))
  | .illegalWord st w => some (st.val, w)
  | _ => none

/-- The drover and the first word of the instruction that a command runs (R235). -/
def droverWord (i : Instr) : Option (Nat × ProgWord) :=
  match i with
  | .move d w0 _ _ _ _ => some (d.val, w0)
  | .loop d w0 _ => some (d.val, w0)
  | .droverWait d w0 _ => some (d.val, w0)
  | .droverSignal d w0 _ => some (d.val, w0)
  | _ => none

/-- The command agrees with program memory: the word of a stall is the one at its program counter in its live page, and the first word of a drover's
instruction the one at the drover's index. A command that is no program word agrees always. In the hardware every issued word is fetched, so a
run is safe only as long as its commands agree. DESIGN CHOICE: log entry 4. -/
def FetchAgrees (i : Instr) (s : State) : Prop :=
  (∀ u w, issuedWord i = some (u, w) → fetchWord s u = w) ∧
  (∀ d w, droverWord i = some (d, w) → ∀ r, (smapGet (fun _ => droverIdle) s.drovers d).run = some r →
    smapGet (fun _ => 0) s.drvMem (256 * d + 4 * r.pc) = w)

/-- A safe command: well-formed, and in agreement with program memory. -/
def SafeCommand (i : Instr) (s : State) : Prop := i.wf = true ∧ FetchAgrees i s

end Sys2Proof.Machine
end

