-- ==== Sys2Proof/Claims.lean ====
section
/-! DEFINITION. The terms in which the statements of Certificates/Slice0 speak: what a stall's word sees and leaves in flight, which request is served,
limited integers. -/

namespace Sys2Proof.Machine

/-! ### Stalls -/

/-- A stall as the word that it issues next sees it: with every write landed that is due (R67, R68). -/
def seen (u : Nat) (s : State) : Stall := stallOf (landDue u s) u

/-- In `t` a write of stall `u` is in flight that words see from `lat` issues after the next one of `s` (R67, Table 3.5). -/
abbrev Pends (u lat : Nat) (w : Wb) (s t : State) : Prop := ⟨(seen u s).issueNo + lat, w⟩ ∈ (stallOf t u).inflight

/-- `x` limited to the signed range of `w` bits (R63–R66). -/
def clamp (w : Nat) (x : Int) : Int := max (-(2 ^ (w - 1))) (min x (2 ^ (w - 1) - 1))

/-- Whether `x` lies outside the signed range of `w` bits. -/
def overflows (w : Nat) (x : Int) : Bool := decide (x < -(2 ^ (w - 1)) ∨ 2 ^ (w - 1) ≤ x)

/-- A sticky bit of the stall is set (Table 3.14). -/
abbrev Stuck (u bit : Nat) (t : State) : Prop := (stallOf t u).sticky.getLsbD bit = true

/-- An accumulation of the exact value `x` into A register `i`: it saturates, and then V and the AOV flag are set (R63). -/
def AccWrites (u i : Nat) (x : Int) (s t : State) : Prop :=
  Pends u 3 (.a i (BitVec.ofInt 96 (clamp 96 x)) true) s t ∧
    (overflows 96 x = true → Pends u 3 (.flags none none (some true)) s t ∧ Stuck u 1 t)

/-- The same for X register `i`, with latency 2 (R66). -/
def AuxWrites (u i : Nat) (x : Int) (s t : State) : Prop :=
  Pends u 2 (.x i (BitVec.ofInt 40 (clamp 40 x))) s t ∧
    (overflows 40 x = true → Pends u 2 (.flags none none (some true)) s t ∧ Stuck u 1 t)

/-- A result `x` for logical D register `k` with latency `lat`: it saturates, and then V and the SAT flag are set; where the word sets flags, Z, N and V
are those of the result (R65, R96). -/
def DWrites (u lat k : Nat) (sf : Bool) (x : Int) (s t : State) : Prop :=
  Pends u lat (.d (physD (seen u s).rb k) (BitVec.ofInt 48 (clamp 48 x))) s t ∧
    (overflows 48 x = true → Stuck u 0 t) ∧
    (sf = true → Pends u lat (.flags (some (decide (clamp 48 x = 0))) (some (decide (clamp 48 x < 0))) (some (overflows 48 x))) s t) ∧
    (sf = false → overflows 48 x = true → Pends u lat (.flags none none (some true)) s t)

/-- A stall as it stands once the word that it issues next has been counted (R32, R108). -/
def counted (u : Nat) (s : State) : Stall := countIssue (landDue u s) u (seen u s)

/-- The same, with control moved on to the next word. -/
def advanced (u : Nat) (s : State) : Stall := nextPc (counted u s)

/-- `t` is `a` but for stall `u`, which is `st`, and its unit record, which is `r`. -/
structure Becomes (u : Nat) (st : Stall) (r : UnitRec) (a t : State) : Prop where
  stall : stallOf t u = st
  unit : unitOf t u = r
  others : ∀ v, v ≠ u → stallOf t v = stallOf a v ∧ unitOf t v = unitOf a v
  rest : { t with stalls := a.stalls, units := a.units } = a

/-- What a word of formats A and C may change: writes in flight, counts, program counter, sticky bits and pending halt of its stall; error counts and
their flags in registers; events and output writes, which are appended. No byte of memory, no other stall and no other register changes. -/
structure IssueFrame (u : Nat) (a t : State) : Prop where
  mem : ∀ x, memByte t x = memByte a x
  others : ∀ v, v ≠ u → stallOf t v = stallOf a v
  file : stallOf a u = { stallOf t u with
    inflight := (stallOf a u).inflight, issueNo := (stallOf a u).issueNo, frameIssues := (stallOf a u).frameIssues, pc := (stallOf a u).pc,
    delay := (stallOf a u).delay, loop := (stallOf a u).loop, sticky := (stallOf a u).sticky, haltPending := (stallOf a u).haltPending,
    stepping := (stallOf a u).stepping }
  regs : ∀ x, x ∉ [fieldAddr Fld.SP_ECC_COUNT_CORRECTED 0, fieldAddr Fld.SP_ERR_ADDR_ADDR 0, fieldAddr Fld.MEM_STATUS_UE_STICKY 0,
    fieldAddr Fld.TAP_TOKEN_LATE_COUNT 0] → regWord t x = regWord a x
  rest : { t with stalls := a.stalls, regs := a.regs, evtWait := a.evtWait, outFlight := a.outFlight, ceWords := a.ceWords } = a
  events : a.evtWait <+: t.evtWait
  outputs : a.outFlight <+: t.outFlight

/-! ### Frames -/

/-- Registers outside the list `l`, and every byte of memory, are as before. -/
def Untouched (l : List Nat) (a t : State) : Prop := (∀ x, x ∉ l → regWord t x = regWord a x) ∧ ∀ x, memByte t x = memByte a x

/-- The words of the registers in which the fields stand, for the list of `Untouched`. -/
def regsOf (l : List (RegField × Nat)) : List Nat := l.map (fun x => fieldAddr x.1 x.2)

/-! ### Requests -/

/-- `r` is the oldest admitted request, of opcode `op`, and the groom serves commands (R256, R275). -/
abbrev Served (op : Nat) (r : Req) (s : State) : Prop := s.admitted.head? = some r ∧ r.opcode = op ∧ groomServes s = true

/-- The state from which the oldest admitted request has been taken. -/
def served (s : State) : State := { s with admitted := s.admitted.tail }

/-- The payload of a request has a length and zero in its reserved bytes (R275). -/
abbrev Shape (r : Req) (n : Nat) (reserved : List Nat) : Prop := r.payload.length = n ∧ ∀ o ∈ reserved, pb r o = 0

/-- The reply OK with a payload, and ACCEPTED with a job. -/
def ok (payload : List Byte) : Rep := ⟨0, 0, 0, payload⟩
def accepted (job : Nat) : Rep := ⟨1, job, 0, []⟩

/-- `r` is the oldest admitted request and a TAP_MSG of a kind, of the right length, from an endpoint (R190, R284). -/
abbrev TapMsg (kind len : Nat) (r : Req) (s : State) : Prop :=
  Served 0x408 r s ∧ pb r 17 = kind ∧ fromEndpoint r = true ∧ r.payload.length = len ∧ rd r.payload 12 4 < 2 ^ 18

/-- The record of a job that starts with a request (R259). -/
def newJob (h : Nat) (r : Req) (s : State) (work : JobWork) : JobRec :=
  ⟨h, r.opcode, r.session, 0, 0, 0, 0, 0, s.frame, 0, if r.opcode = 0x404 then 2 ^ 64 - 1 else 0, false, work⟩

/-- A job may start under handle `h`: fewer than 256 records, and the handle is free (R258, R259). -/
abbrev JobRoom (h : Nat) (s : State) : Prop := s.jobs.length < 256 ∧ handleFree s h = true

/-- `y` is a state with property `P` from which the reply `p` to `r` has been sent. -/
def Replied (r : Req) (p : Rep) (P : State → Prop) (y : State) : Prop := ∃ b, y = answer r p b ∧ P b

/-! ### Resets -/

/-- The engine has been reset from a mode other than OFF and STANDBY, with causes: CONFIGURE, option loading due unless a reset still holds, nothing admitted, open,
running or pending; the memories, the vault and the backup counter are kept (R455, R459, R460, Table 18.4). -/
structure EngineReset (causes : Nat) (held : Bool) (s y : State) : Prop where
  mode : y.mode = .configure
  boot : y.power.boot = if held then 1 else 2
  none_ : y.sessions = [] ∧ y.jobs = [] ∧ y.admitted = [] ∧ y.rxq = [] ∧ y.txq = [] ∧ y.brews = State.reset.brews ∧ y.power.pend = []
  report : y.power.report = true
  mem : y.mem = s.mem ∧ y.progMem = s.progMem
  backup : y.power.vault = s.power.vault ∧ y.power.seconds = s.power.seconds ∧ y.power.flash = s.power.flash
  cause : Canonical s → fld y Fld.RESET_CAUSE_CAUSE = fld s Fld.RESET_CAUSE_CAUSE ||| causes

/-! ### Amplifier channels -/

/-- A fault of a cause has stopped channel `c`: FAULT, commands and ENABLE low, no test, the bit of the cause set and CAUSE the lowest cause seen; no other
channel has changed its state (R418, Table 16.11). -/
structure Faulted (c cause : Nat) (s y : State) : Prop where
  state : ampState y c = 6
  cause_ : fld y Fld.AMP_FAULT_CAUSE c = if fld s Fld.AMP_FAULT_CAUSE c = 0 then cause else min (fld s Fld.AMP_FAULT_CAUSE c) cause
  bit : fld y (causeField cause) c = 1
  enable : fld y Fld.AMP_STATE_ENABLE c = 0
  lock : fld y Fld.AMP_STATE_LOCKED c = 0
  gain : (ampOf y c).gain = 0
  test : (ampOf y c).test = none
  others : ∀ d < 32, d ≠ c → ampState y d = ampState s d

/-! ### Traces -/

/-- `x` is `s` with trace `t` failed with a cause: in COMMA, or on to TRAIN where every lane has lock, at the start of a new epoch, with the failure counted,
flagged and raised; the team, the pair and the choice of the reference have followed (R331, R361, R374, R380, Tables 13.4, 13.5). -/
def Failed (t cause : Nat) (s x : State) : Prop :=
  ∃ a, x = selectRef (traceLost t a) ∧ traceState a t = (if allLocked s t then 2 else 1) ∧ fld a Fld.TRACE_STATE_LAST_FAIL t = cause ∧
    fld a Fld.TRACE_FLAGS_FAIL t = 1 ∧ fld a Fld.LINK_GSTATUS_FAIL_STICKY = 1 ∧ (traceOf a t).epoch = (traceOf s t).epoch + 1 ∧ (traceOf a t).unacked = [] ∧
    (traceOf a t).txSeq = 0 ∧ (traceOf a t).rxSeq = 0 ∧ a.evtWait = s.evtWait ++ [⟨0x72, s.frame, t % 2 ^ 32, cause % 2 ^ 32, none⟩] ∧ a.mem = s.mem

/-! ### Shadow pairs -/

/-- The oldest PAIR record with an ACTION is `m` (R356, R369, Table 14.1). -/
abbrev PairRecord (action : Nat) (m : MgmtRec) (s : State) : Prop :=
  s.mgmt.find? (fun r => decide (r.kind = 4 ∧ rd r.body 0 1 = action ∧ r.body.length = 16)) = some m

/-- The state from which a management record has been taken. -/
def without (m : MgmtRec) (s : State) : State := { s with mgmt := s.mgmt.erase m }

/-- `y` is `s` as one of a pair: its partner and role are shown, a main is MAIN and a standby still NONE, the mirror trace is known, and nothing of an
earlier pair is pending (R368, R369, Table 14.3). -/
structure Paired (ep role : Nat) (trace : Option Nat) (s y : State) : Prop where
  partner : partnerId y = ep % 2 ^ 18
  role_ : fld y Fld.SHADOW_PARTNER_ROLE = role
  state : pairState y = if role = 1 then 1 else 0
  mirror : ∀ t, trace = some t → mirrorTrace y = some (t % 64)
  pair : y.pair = { pairNone with lastPeer := s.frame }
  mode : y.mode = s.mode
  mem : y.mem = s.mem

/-- The gate outputs of the bank are given up: no channel's ENABLE is high (R368, R376). -/
abbrev BankDark (s : State) : Prop := ∀ c < 32, fld s Fld.AMP_STATE_ENABLE c = 0

/-! ### Registers -/

/-- Whether an address is one of the register space of the engine or of its queue pairs, and aligned (R9, R10). -/
def aligned (a : Nat) : Bool := decide ((xbTarget a = 12 ∨ 0x100000000 ≤ a ∧ a < 0x100008000) ∧ a % 4 = 0)

/-- Registers whose writes follow their access codes, ranges and the lock of the frame settings alone: no condition of their chapter spans fields, and no
unit acts when they change. -/
def ordinary (a : Nat) : Bool :=
  !([0x24, 0x10C, 0x228, 0x24C, 0x264, 0x50C, 0x510, 0x540, 0x544, 0x570, 0x574, 0x578, 0x600, 0x618, 0x10000, 0x10080, 0x10084, 0x10100, 0x10108, 0x10140,
      0x10148, 0x10200, 0x60000, 0x80004, 0x8000C, 0x80014].contains a) &&
    decide (¬ (0x10010 ≤ a ∧ a < 0x10038) ∧ ¬ (0x10300 ≤ a ∧ a < 0x10380) ∧ ¬ (0x20100 ≤ a ∧ a < 0x20500) ∧ ¬ (0x21000 ≤ a ∧ a < 0x22000) ∧
      ¬ (0x26000 ≤ a ∧ a < 0x28000) ∧ ¬ (0x30100 ≤ a ∧ a < 0x30500) ∧ ¬ (0x31000 ≤ a ∧ a < 0x33000) ∧ ¬ (0x34000 ≤ a ∧ a < 0x34200) ∧
      ¬ (0x40000 ≤ a ∧ a < 0x44000) ∧ ¬ (0x51000 ≤ a ∧ a < 0x55000) ∧ ¬ (0x61000 ≤ a ∧ a < 0x63000) ∧ a < 0x100000000)

/-- `y` is `s` with `v` written to the ordinary register at `a`, copy `i` of its row (R9, R10, R225, R402 and the range rule of each chapter). -/
structure Wrote (row : RegRow) (i a v : Nat) (s y : State) : Prop where
  ro : ∀ f ∈ row.fields, f.acc = .ro → fld y f i = fld s f i
  w1c : ∀ f ∈ row.fields, f.acc = .w1c → ∀ k, testBit (fld y f i) k = (testBit (fld s f i) k && !testBit (bitsOf f.hi f.lo v) k)
  rw : ∀ f ∈ row.fields, f.acc = .rw → (framesLocked s = true → f.brew ≠ .frame) →
    fld y f i = if inRange f (bitsOf f.hi f.lo v) then bitsOf f.hi f.lo v else fld s f i
  locked : ∀ f ∈ row.fields, f.acc = .rw → framesLocked s = true → f.brew = .frame → fld y f i = fld s f i ∧ fld y Fld.XB_STATUS_LOCK_REFUSED = 1
  range : ∀ f ∈ row.fields, f.acc = .rw → (framesLocked s = true → f.brew ≠ .frame) → inRange f (bitsOf f.hi f.lo v) = false →
    ∀ g, cfgErrField a = some g → fld y g = 1
  others : ∀ b, b ≠ a → b ≠ fieldAddr Fld.XB_STATUS_LOCK_REFUSED 0 → (∀ g, cfgErrField a = some g → b ≠ fieldAddr g 0) → regWord y b = regWord s b
  rest : { y with regs := s.regs, latches := s.latches } = s

/-! ### Jobs -/

/-- `j` is the record of job `h`, which runs and has not been cancelled, and the groom works (R259). -/
abbrev Running (h : Nat) (j : JobRec) (s : State) : Prop := jobOf s h = some j ∧ j.state = 0 ∧ j.cancel = false ∧ groomServes s = true

/-- Job `h` of record `j` has ended in a state with a final status, a detail and a result, in frame `frame`, and JOB_DONE goes to its session (R259, R278). -/
structure JobEnded (h : Nat) (j : JobRec) (state final detail result frame : Nat) (y : State) : Prop where
  record : jobOf y h = some { j with state := state, final := final, detail := detail % 2 ^ 32, endFrame := frame, result := result }
  event : ⟨0x52, frame, h % 2 ^ 32, final % 2 ^ 32, some j.session⟩ ∈ y.evtWait

end Sys2Proof.Machine
end

