-- ==== Sys2Proof/Certificates/Slice0/Obligations.lean ====
section
/-! DEFINITION. The statements for the provers. Each docstring cites the rules of the spec that the statement formalises. -/

open Sys2Proof Sys2Proof.Machine

/-- One command at a time, first in, first out. -/
def Obligations.StepRunsFront : Prop :=
  ∀ (c : Instr) (rest : List Instr) (s : State), s.pending = c :: rest → step s = exec c { s with pending := rest }

/-- The idle step: the model's choice (assumption 2). -/
def Obligations.IdleStep : Prop := ∀ s : State, s.pending = [] → step s = .next s

/-- Every command of the table has an effect and none stops the block; the queue is not a command's to change (assumption 6). -/
def Obligations.QueueKept : Prop := ∀ (c : Instr) (s : State), Canonical s → EndsIn c s (fun t => t.pending = s.pending)

/-- The invariant of the state's maps, for every command and every state. -/
def Obligations.StepKeepsCanonical : Prop := ∀ s t : State, Canonical s → step s = .next t → Canonical t

/-- The start of the invariant. -/
def Obligations.ResetCanonical : Prop := Canonical State.reset

/-- The state after a power-on release (R11, R21, R57, R216, R296). Registers of a stall to which R57 gives zero are zero; the values that the model names
itself are in assumptions 7 to 9 and are not stated here. -/
def Obligations.ResetLeaves : Prop :=
  State.reset.mode = .configure ∧ State.reset.fs = 0 ∧ regWord State.reset 0x504 = 1 ∧ fld State.reset Fld.MEM_STATUS_CLEAR_DONE = 1 ∧
  fld State.reset Fld.BANK_OWN_OWNER 0 = 9 ∧ fld State.reset Fld.BANK_OWN_OWNER 2047 = 9 ∧ (∀ a, memByte State.reset a = 0) ∧
  (∀ u i, dPhys (stallOf State.reset u) i = 0 ∧ aReg (stallOf State.reset u) i = 0 ∧ cReg (stallOf State.reset u) i = 0 ∧
    pReg (stallOf State.reset u) i = 0 ∧ mReg (stallOf State.reset u) i = 0 ∧ lReg (stallOf State.reset u) i = 0 ∧
    xReg (stallOf State.reset u) i = 0 ∧ (efOf (stallOf State.reset u) i).set = false ∧ (slotOf (stallOf State.reset u) i).entries = []) ∧
  (∀ u, (stallOf State.reset u).rb = 0 ∧ srWord (stallOf State.reset u) = 0 ∧ (stallOf State.reset u).pc = 0 ∧
    (stallOf State.reset u).calls = [] ∧ (stallOf State.reset u).loop = none)

/-- The encodings of R92, R94, R102 and R107, in both directions. -/
def Obligations.StallWordsAgree : Prop :=
  (∀ i : StallInstr, decodeStallWord (encodeStallWord i) = some i) ∧
  (∀ (w : ProgWord) (i : StallInstr), decodeStallWord w = some i → encodeStallWord i = w)

/-- Words by hand from Tables 4.2, 4.6 and 4.8 (R92, R94, R102, R107). -/
def Obligations.StallWordsRead : Prop :=
  decodeStallWord 0x02050C8016614001 = some (.fmtA 0x02 ⟨1, 0x10, 0x32, false, 0⟩ ⟨1, ⟨0x66, 1, 1, 1⟩⟩) ∧
  decodeStallWord 0x4110000000001ABC = some (.br 1 0x1ABC) ∧
  decodeStallWord 0x4404080000000005 = some (.repeat_ true false 8 5) ∧
  decodeStallWord 0x480000000123070A = some (.send 0x123 7 0x0A) ∧
  decodeStallWord 0x4A00000000000000 = some .sync ∧
  decodeStallWord 0x8105FFFFFFFFFFFF = some (.fmtC 1 5 0xFFFFFFFFFFFF) ∧
  decodeStallWord 0xC000000000000000 = none ∧ decodeStallWord 0x4B00000000000000 = none ∧ decodeStallWord 0x4A00000000000001 = none

/-- The accumulator operations of Table 4.3 (R63, R95): the exact result, limited to 96 bits, is seen from the third issue on. -/
def Obligations.AccumulatorWords : Prop :=
  ∀ (st : StallId) (f : ArithF) (m : MoveF) (s : State), canIssue s st.val = true →
    let v := seen st.val s
    let p := (dReg v f.fs1.toNat).toInt * (cReg v f.fs2.toNat).toInt
    (wordALegal 0x01 f m = true → EndsIn (.mpy st f m) s (AccWrites st.val f.fd.toNat p s)) ∧
    (wordALegal 0x02 f m = true → EndsIn (.mac st f m) s (AccWrites st.val f.fd.toNat ((chainA v f.fd.toNat).toInt + p) s)) ∧
    (wordALegal 0x03 f m = true → EndsIn (.msu st f m) s (AccWrites st.val f.fd.toNat ((chainA v f.fd.toNat).toInt - p) s)) ∧
    (wordALegal 0x04 f m = true → EndsIn (.clr st f m) s (Pends st.val 3 (.a f.fd.toNat 0 true) s)) ∧
    (wordALegal 0x05 f m = true → EndsIn (.addda st f m) s
      (AccWrites st.val f.fd.toNat ((aReg v f.fd.toNat).toInt + (dReg v f.fs1.toNat).toInt * 2 ^ 28) s))

/-- RND and SAT (R64): for RND a value within half a step of A / 2^28 and even on a tie, for SAT the floor. -/
def Obligations.RoundingWords : Prop :=
  ∀ (st : StallId) (f : ArithF) (m : MoveF) (s : State), canIssue s st.val = true →
    let v := seen st.val s
    let a := (aReg v f.fs1.toNat).toInt
    (wordALegal 0x06 f m = true → ∃ q : Int, 2 * (a - q * 2 ^ 28) ≤ 2 ^ 28 ∧ -(2 ^ 28) ≤ 2 * (a - q * 2 ^ 28) ∧
      (2 * (a - q * 2 ^ 28) = 2 ^ 28 ∨ 2 * (a - q * 2 ^ 28) = -(2 ^ 28) → q % 2 = 0) ∧
      EndsIn (.rnd st f m) s (DWrites st.val 2 f.fd.toNat true q s)) ∧
    (wordALegal 0x07 f m = true → ∃ q : Int, q * 2 ^ 28 ≤ a ∧ a < (q + 1) * 2 ^ 28 ∧
      EndsIn (.sat st f m) s (DWrites st.val 2 f.fd.toNat true q s))

/-- The auxiliary multiplier (R66, R95). -/
def Obligations.AuxiliaryWords : Prop :=
  ∀ (st : StallId) (f : ArithF) (m : MoveF) (s : State), canIssue s st.val = true →
    let v := seen st.val s
    let p := ((dReg v f.fs1.toNat).setWidth 16).toInt * ((dReg v f.fs2.toNat).setWidth 16).toInt
    (wordALegal 0x08 f m = true → EndsIn (.mpyx st f m) s (AuxWrites st.val f.fd.toNat p s)) ∧
    (wordALegal 0x09 f m = true → EndsIn (.macx st f m) s (AuxWrites st.val f.fd.toNat ((xReg v f.fd.toNat).toInt + p) s)) ∧
    (wordALegal 0x0A f m = true → EndsIn (.msux st f m) s (AuxWrites st.val f.fd.toNat ((xReg v f.fd.toNat).toInt - p) s)) ∧
    (wordALegal 0x0B f m = true → EndsIn (.macw st f m) s (fun t =>
      AccWrites st.val (f.fd.toNat / 8) ((chainA v (f.fd.toNat / 8)).toInt + (dReg v f.fs1.toNat).toInt * (cReg v f.imm5.toNat).toInt) s t ∧
      AuxWrites st.val (f.fd.toNat % 2) ((xReg v (f.fd.toNat % 2)).toInt + p) s t))

/-- The saturating operations on D registers (R65, R95, R96). SHV takes its signed amount from the low six bits of Dt, so that no magnitude reaches 47. -/
def Obligations.SaturatingWords : Prop :=
  ∀ (st : StallId) (f : ArithF) (m : MoveF) (s : State), canIssue s st.val = true →
    let v := seen st.val s
    let a := (dReg v f.fs1.toNat).toInt
    let b := (dReg v f.fs2.toNat).toInt
    let n := ((dReg v f.fs2.toNat).setWidth 6).toInt
    (wordALegal 0x0C f m = true → EndsIn (.add st f m) s (DWrites st.val 1 f.fd.toNat f.sf (a + b) s)) ∧
    (wordALegal 0x0D f m = true → EndsIn (.sub st f m) s (DWrites st.val 1 f.fd.toNat f.sf (a - b) s)) ∧
    (wordALegal 0x0E f m = true → EndsIn (.neg st f m) s (DWrites st.val 1 f.fd.toNat f.sf (-a) s)) ∧
    (wordALegal 0x0F f m = true → EndsIn (.abs st f m) s (DWrites st.val 1 f.fd.toNat f.sf (max a (-a)) s)) ∧
    (wordALegal 0x10 f m = true → EndsIn (.cmp st f m) s (fun t =>
      Pends st.val 1 (.flags (some (decide (a = b))) (some (decide (a < b))) (some false)) s t ∧
      (m.mv = 0 → (stallOf t st.val).inflight = v.inflight ++
        [⟨v.issueNo + 1, .flags (some (decide (a = b))) (some (decide (a < b))) (some false)⟩]))) ∧
    (wordALegal 0x14 f m = true → EndsIn (.shl st f m) s (DWrites st.val 1 f.fd.toNat f.sf (a * 2 ^ f.imm5.toNat) s)) ∧
    (wordALegal 0x17 f m = true → EndsIn (.shv st f m) s (fun t =>
      (0 ≤ n → DWrites st.val 1 f.fd.toNat f.sf (a * 2 ^ n.toNat) s t) ∧
      (n < 0 → DWrites st.val 1 f.fd.toNat f.sf (a / 2 ^ n.natAbs) s t)))

/-- The logical operations and right shifts on D registers (R65, R95, R96). -/
def Obligations.LogicalWords : Prop :=
  ∀ (st : StallId) (f : ArithF) (m : MoveF) (s : State), canIssue s st.val = true →
    let v := seen st.val s
    let a := dReg v f.fs1.toNat
    let b := dReg v f.fs2.toNat
    (wordALegal 0x11 f m = true → EndsIn (.and st f m) s (DWrites st.val 1 f.fd.toNat f.sf (a &&& b).toInt s)) ∧
    (wordALegal 0x12 f m = true → EndsIn (.or st f m) s (DWrites st.val 1 f.fd.toNat f.sf (a ||| b).toInt s)) ∧
    (wordALegal 0x13 f m = true → EndsIn (.xor st f m) s (DWrites st.val 1 f.fd.toNat f.sf (a ^^^ b).toInt s)) ∧
    (wordALegal 0x15 f m = true → EndsIn (.shr st f m) s (DWrites st.val 1 f.fd.toNat f.sf (a.toInt / 2 ^ f.imm5.toNat) s)) ∧
    (wordALegal 0x16 f m = true → EndsIn (.shrl st f m) s
      (DWrites st.val 1 f.fd.toNat f.sf (BitVec.ofNat 48 (a.toNat / 2 ^ f.imm5.toNat)).toInt s))

/-- RAMP, LUT and the extreme searches (R110–R112). -/
def Obligations.TableWords : Prop :=
  ∀ (st : StallId) (f : ArithF) (m : MoveF) (s : State), canIssue s st.val = true →
    let v := seen st.val s
    let cd := (cReg v f.fd.toNat).toInt
    let cs := (cReg v f.fs1.toNat).toInt
    let ct := (cReg v f.fs2.toNat).toInt
    let x := (dReg v f.fs1.toNat).toInt
    let d := (dReg v f.fd.toNat).toInt
    let k := f.imm5.toNat
    let g := max 0 (min cs (2 ^ 28))
    let r := roundShift ((ct - cd) * g) 28
    let entry (i : Nat) : Int := signOf 48 (loadItem (landDue st.val s) st.val (((pReg v f.fs2.toNat).toNat + 8 * i) % 2 ^ 20) 8).val
    let ramped (y : Int) (t : State) : Prop := Pends st.val 2 (.c f.fd.toNat (BitVec.ofInt 32 y)) s t ∧
      (f.sf = true → Pends st.val 2 (.flags (some (decide (y = ct))) (some false) (some false)) s t)
    let replaces (y : Int) (t : State) : Prop :=
      Pends st.val 3 (.d (physD v.rb f.fd.toNat) (BitVec.ofInt 48 y)) s t ∧ Pends st.val 3 (.p f.fs2.toNat (BitVec.ofNat 20 (loopCount v))) s t
    (wordALegal 0x18 f m = true → EndsIn (.ramp st f m) s (fun t =>
      (k = 0 → 0 ≤ cs → ramped (if ct ≤ cd + cs then ct else cd + cs) t) ∧
      (k = 0 → cs < 0 → ramped (if cd + cs ≤ ct then ct else cd + cs) t) ∧
      (k = 1 → ramped (cd + (if 0 < g ∧ r = 0 ∧ cd ≠ ct then (if cd < ct then 1 else -1) else r)) t))) ∧
    (wordALegal 0x19 f m = true → EndsIn (.lut st f m) s (fun t =>
      (0 ≤ x → x < 2 ^ 40 → DWrites st.val 3 f.fd.toNat f.sf (entry (x.toNat / 2 ^ (40 - k)) +
        roundShift ((entry (x.toNat / 2 ^ (40 - k) + 1) - entry (x.toNat / 2 ^ (40 - k))) * (x % 2 ^ (40 - k))) (40 - k)) s t) ∧
      (x < 0 → DWrites st.val 3 f.fd.toNat f.sf (entry 0) s t) ∧
      (2 ^ 40 ≤ x → DWrites st.val 3 f.fd.toNat f.sf (entry (2 ^ k)) s t))) ∧
    (wordALegal 0x1A f m = true → d < x → EndsIn (.maxi st f m) s (replaces x)) ∧
    (wordALegal 0x1B f m = true → x < d → EndsIn (.mini st f m) s (replaces x)) ∧
    (wordALegal 0x1C f m = true → d < clamp 48 (max x (-x)) → EndsIn (.maxai st f m) s (replaces (clamp 48 (max x (-x)))))

/-- The loads of Table 4.4 and MOV (R76, R97–R101). The item is the one at the address that R100 forms; AccessRules says what it is. -/
def Obligations.LoadWords : Prop :=
  ∀ (st : StallId) (op : BitVec 6) (f : ArithF) (g : MoveArgs) (s : State), canIssue s st.val = true →
    let u := st.val
    let v := seen u s
    let n := g.mreg.toNat
    let ad := formAddr v g
    let item (size : Nat) : Nat := (loadItem (landDue u s) u ad.addr size).val
    let second (size : Nat) : Nat := (loadItem (landDue u s) u (pairAddr v g (ad.addr - ad.addr % size) size).1 size).val
    let ends (i : Instr) (P : State → Prop) : Prop := EndsIn i s (fun t => P t ∧ ∀ q, ad.newP = some q → Pends u 1 (.p g.mp.toNat q) s t)
    (wordALegal op f ⟨0x1, g⟩ = true → ends (.ldS st op f g) (Pends u 2 (.d (physD v.rb n) (BitVec.ofNat 48 (item 8))) s)) ∧
    (wordALegal op f ⟨0x3, g⟩ = true → ends (.ldK st op f g) (Pends u 2 (.d (physD v.rb n) (BitVec.ofInt 48 (signOf 32 (item 4) * 2 ^ 9))) s)) ∧
    (wordALegal op f ⟨0x5, g⟩ = true → ends (.ldH st op f g) (Pends u 2 (.d (physD v.rb n) (BitVec.ofInt 48 (signOf 16 (item 2)))) s)) ∧
    (wordALegal op f ⟨0x7, g⟩ = true → ends (.ldC st op f g) (fun t => ∀ w, regWb v n (signOf 32 (item 4)) = some w → Pends u 2 w s t)) ∧
    (wordALegal op f ⟨0x9, g⟩ = true → ends (.ldA st op f g) (Pends u 2 (.a (n - 0x40) (BitVec.ofNat 96 (item 16)) false) s)) ∧
    (wordALegal op f ⟨0xB, g⟩ = true → ends (.ldX st op f g) (Pends u 2 (.x (n - 0x98) (BitVec.ofNat 40 (item 8))) s)) ∧
    (wordALegal op f ⟨0xD, g⟩ = true → ends (.ldSp st op f g) (fun t => Pends u 2 (.d (physD v.rb n) (BitVec.ofNat 48 (item 8))) s t ∧
      Pends u 2 (.d (physD v.rb (n + 1)) (BitVec.ofNat 48 (second 8))) s t)) ∧
    (wordALegal op f ⟨0xE, g⟩ = true → ends (.ldCp st op f g) (fun t => Pends u 2 (.c (n - 0x48) (BitVec.ofNat 32 (item 4))) s t ∧
      Pends u 2 (.c (n - 0x47) (BitVec.ofNat 32 (second 4))) s t)) ∧
    (wordALegal op f ⟨0xF, g⟩ = true → EndsIn (.mov st op f g) s (fun t =>
      ∀ x w, regSource v (movSource g) = some x → regWb v n x = some w → Pends u 1 w s t))

/-- The stores of Table 4.4 and NOP (R76, R77, R95, R98). The address is that of `checkItem`, which AccessRules describes. -/
def Obligations.StoreWords : Prop :=
  ∀ (st : StallId) (op : BitVec 6) (f : ArithF) (g : MoveArgs) (s : State), canIssue s st.val = true →
    let u := st.val
    let v := seen u s
    let n := g.mreg.toNat
    let place (size : Nat) : ItemAt := checkItem (landDue u s) u (formAddr v g).addr size
    let stores (i : Instr) (size : Nat) (x : Int) : Prop := ∀ a, (place size).mem = some a →
      EndsIn i s (Pends u 2 (.mem a (leBytes size (wrapInt (8 * size) x))) s)
    (wordALegal op f ⟨0x2, g⟩ = true → stores (.stS st op f g) 8 (dReg v n).toInt) ∧
    (wordALegal op f ⟨0x4, g⟩ = true → stores (.stK st op f g) 4 (max (-(2 ^ 40)) (min (dReg v n).toInt (2 ^ 40 - 2 ^ 9)) / 2 ^ 9)) ∧
    (wordALegal op f ⟨0x6, g⟩ = true → stores (.stH st op f g) 2 (dReg v n).toInt) ∧
    (∀ x, wordALegal op f ⟨0x8, g⟩ = true → regSource v n = some x → stores (.stC st op f g) 4 x) ∧
    (wordALegal op f ⟨0xA, g⟩ = true → stores (.stA st op f g) 16 (aReg v (n - 0x40)).toInt) ∧
    (wordALegal op f ⟨0xC, g⟩ = true → stores (.stX st op f g) 8 (xReg v (n - 0x98)).toInt) ∧
    (∀ c e, wordALegal op f ⟨0x2, g⟩ = true → (place 8).mem = none → (place 8).chan = some c →
      (liveHdr (pagesOf (landDue u s) u)).outs[c]? = some (some e) → EndsIn (.stS st op f g) s (fun t =>
        ⟨u, (unitOf (landDue u s) u).frame, c, e, dReg v n⟩ ∈ t.outFlight)) ∧
    (wordALegal 0x00 f ⟨0, ⟨0, 0, 0, 0⟩⟩ = true → EndsIn (.nop st f ⟨0, ⟨0, 0, 0, 0⟩⟩) s (fun t =>
      (stallOf t u).inflight = v.inflight ∧ (stallOf t u).issueNo = v.issueNo + 1 ∧ (stallOf t u).frameIssues = v.frameIssues + 1))

/-- The stall's address space (R75, R76, R79). The parameter window (R151) is `windowAddr`. -/
def Obligations.AccessRules : Prop :=
  ∀ (s : State) (u a size : Nat), 0 < size → a < 2 ^ 20 →
    let al := a - a % size
    let it := checkItem s u a size
    (al < 0x4000 → it.mem = some (localBase u + windowAddr (pagesOf s u) al) ∧ it.fault = false) ∧
    (0x10000 ≤ al → al < 0x20000 → it.mem = none ∧ it.chan = some ((al - 0x10000) / 8) ∧ it.fault = false) ∧
    (0x80000 ≤ al → ownsBank s u (bankOf u al) = true → it.mem = some (scratchBase u + (al - 0x80000)) ∧ it.fault = false) ∧
    (0x80000 ≤ al → ownsBank s u (bankOf u al) = false → it.mem = none ∧ it.chan = none ∧ it.fault = true ∧ it.sticky.testBit 7 = true) ∧
    ((0x4000 ≤ al ∧ al < 0x10000) ∨ (0x20000 ≤ al ∧ al < 0x80000) → it.mem = none ∧ it.chan = none ∧ it.fault = false ∧ it.sticky.testBit 4 = true) ∧
    (a % size ≠ 0 → it.sticky.testBit 5 = true) ∧
    (∀ x, it.mem = some x → ueHit s (wordsOf x size) = false → (loadItem s u a size).val = leNat (memBytes s x size)) ∧
    (it.mem = none → (loadItem s u a size).val = 0)

/-- What landing writes do to memory (R67, R69). Sound: no word of the store holds an uncorrectable error, and no area is held back by a shadow pair. -/
def Obligations.StoresLand : Prop :=
  (∀ (u : Nat) (s : State) (x : Nat),
    (∀ w ∈ (stallOf s u).inflight, w.due ≤ (stallOf s u).issueNo → ∀ a bs, w.what = .mem a bs → ¬ (a ≤ x ∧ x < a + bs.length)) →
      memByte (landDue u s) x = memByte s x) ∧
  (∀ (u a : Nat) (bs : List Byte) (s : State), (stallOf s u).inflight.filter (fun w => w.due ≤ (stallOf s u).issueNo) = [⟨(stallOf s u).issueNo, .mem a bs⟩] →
    ueHit s (wordsOf a bs.length) = false → heldAreas s = [] → memBytes (landDue u s) a bs.length = bs)

/-- The frame of every row that issues a word of format A or C, ILLEGAL_WORD with them (R60, R67, R73, R92). -/
def Obligations.WordFrame : Prop :=
  ∀ (i : Instr) (u : Nat) (w : ProgWord) (s : State), issuedWord i = some (u, w) → w.extractLsb' 62 2 ≠ 1#2 →
    EndsIn i s (fun t => t = s ∨ IssueFrame u (landDue u s) t)

/-- BR (R70, R103). `nextPc` is what the issue of a word does to the program counter, once for each of the two delay slots. -/
def Obligations.BranchWords : Prop :=
  ∀ (st : StallId) (c : BitVec 4) (target : PcAddr) (s : State) (b : Bool), canIssue s st.val = true → ctlPlace (seen st.val s) = true →
    condHolds (seen st.val s) c.toNat = some b →
    let v := seen st.val s
    let after : Stall := { counted st.val s with pc := v.pc + 1, delay := some ⟨2, if b then some target else none⟩ }
    exec (.br st c target) s = .next (setStall st.val after (landDue st.val s)) ∧
    (nextPc after).pc = v.pc + 2 ∧ (nextPc (nextPc after)).pc = (if b then target else v.pc + 3) ∧ (nextPc (nextPc after)).delay = none ∧
    b = [true, v.z, !v.z, v.n, !v.n, v.v, !v.v, !v.z && !v.n, v.z || v.n, v.fillrx, !v.fillrx, v.evskip, !v.evskip].getD c.toNat false

/-- CALL and RET (R72), with the frame: only the stall changes. -/
def Obligations.CallsAndReturns : Prop :=
  ∀ (st : StallId) (c : BitVec 4) (target : PcAddr) (s : State), canIssue s st.val = true → ctlPlace (seen st.val s) = true →
    let u := st.val
    let v := seen u s
    let becomes (calls : List PcAddr) (err : Bool) (t : Option PcAddr) : State → Prop := Becomes u
      { counted u s with pc := v.pc + 1, delay := some ⟨2, t⟩, calls := calls, sticky := v.sticky ||| (if err then 8 else 0) } (unitOf s u) (landDue u s)
    (condHolds v c.toNat = some true → v.calls.length < 4 → EndsIn (.call st c target) s (becomes ((v.pc + 3) :: v.calls) false (some target))) ∧
    (condHolds v c.toNat = some true → 4 ≤ v.calls.length → EndsIn (.call st c target) s (becomes v.calls true none)) ∧
    (condHolds v c.toNat = some false → EndsIn (.call st c target) s (becomes v.calls false none)) ∧
    (∀ a rest, condHolds v c.toNat = some true → v.calls = a :: rest → EndsIn (.ret st c) s (becomes rest false (some a))) ∧
    (condHolds v c.toNat = some true → v.calls = [] → EndsIn (.ret st c) s (becomes [] true none)) ∧
    (condHolds v c.toNat = some false → EndsIn (.ret st c) s (becomes v.calls false none))

/-- The loop of R71 and R104, the rotation of R74. -/
def Obligations.LoopsAndRotation : Prop :=
  ∀ (st : StallId) (s : State),
    let u := st.val
    let v := seen u s
    (∀ (rot rsrc : Bool) (len : BitVec 9) (count : BitVec 17) (c : Nat), canIssue s u = true → ctlPlace v = true → repeatLegal rsrc len count = true →
      c = (if rsrc then min ((dReg v (count.toNat % 64)).toNat % 2 ^ 17) 65536 else count.toNat) →
      exec (.repeat_ st rot rsrc len count) s = .next (setStall u (if c = 0
        then { counted u s with pc := v.pc + 1 + BitVec.ofNat 13 len.toNat }
        else { counted u s with pc := v.pc + 1, loop := some ⟨v.pc + 1, len.toNat, c, rot, false⟩ }) (landDue u s))) ∧
    (∀ l, (stallOf s u).loop = some l → l.atEnd = true → exec (.repeatIterationEnd st) s = .next (setStall u { stallOf s u with
      rb := if l.rot then (stallOf s u).rb - 1 else (stallOf s u).rb,
      pc := if l.count ≤ 1 then (stallOf s u).pc else l.start,
      loop := if l.count ≤ 1 then none else some { l with count := l.count - 1, atEnd := false } } s)) ∧
    (canIssue s u = true → inBody v = false → EndsIn (.rot st) s (Becomes u { advanced u s with rb := v.rb - 1 } (unitOf s u) (landDue u s)))

/-- The event flags of a stall (R41, R43, R85, R86). -/
def Obligations.EventFlags : Prop :=
  ∀ (st : StallId) (flag : BitVec 4) (s : State),
    let u := st.val
    let v := seen u s
    let a := landDue u s
    let r := unitOf s u
    let e := efOf v flag.toNat
    (canIssue s u = true → blockPlace v = true → e.set = true → EndsIn (.wait st flag) s
      (Becomes u (setEf flag.toNat flagClear { advanced u s with evskip := e.skip }) r a)) ∧
    (canIssue s u = true → blockPlace v = true → e.set = false → EndsIn (.wait st flag) s
      (Becomes u { counted u s with blocked := some (.wait flag.toNat) } { r with st := .waitEvent } a)) ∧
    (∀ f, (stallOf s u).blocked = some (.wait f) → (stallOf s u).halted = false → (efOf (stallOf s u) f).set = true → EndsIn (.waitComplete st) s
      (Becomes u (nextPc { setEf f flagClear (stallOf s u) with evskip := (efOf (stallOf s u) f).skip, blocked := none, haltPending := (stallOf s u).haltPending || (stallOf s u).stepping, stepping := false }) { r with st := .running } s)) ∧
    (∀ unit : BitVec 11, canIssue s u = true → unit.toNat < 1152 → s.frame < r.frame + 2 → EndsIn (.signal st unit flag) s (fun t =>
      Becomes u { advanced u s with signalsMade := (unit.toNat, flag.toNat) :: v.signalsMade } r { a with posts := t.posts } t ∧
      t.posts = s.posts ++ [⟨unit.toNat, flag.toNat, false, tagFor s u (liveHdr (pagesOf s u)).signals unit.toNat flag.toNat⟩])) ∧
    (∀ unit : BitVec 11, canIssue s u = true → unit.toNat < 1152 → r.frame + 2 ≤ s.frame → EndsIn (.signal st unit flag) s
      (Becomes u (advanced u s) r (countFld Fld.FG_DISCARD_COUNT_COUNT 0 a))) ∧
    (∀ (unit : BitVec 11) (p : Post) (before after : List Post), unit.toNat < 1024 → s.posts = before ++ p :: after →
      (∀ q ∈ before, ¬ (q.unit = unit.toNat ∧ q.flag = flag.toNat)) → p.unit = unit.toNat → p.flag = flag.toNat →
      tagSkipped (unitOf s unit.toNat) p.tag = false →
      ((efOf (stallOf s unit.toNat) flag.toNat).set = false → exec (.flagPostArrival unit flag) s = .next
        (setStall unit.toNat (setEf flag.toNat ⟨true, p.skip, p.tag⟩ (stallOf s unit.toNat)) { s with posts := before ++ after })) ∧
      ((efOf (stallOf s unit.toNat) flag.toNat).set = true → EndsIn (.flagPostArrival unit flag) s (fun t =>
        efOf (stallOf t unit.toNat) flag.toNat = efOf (stallOf s unit.toNat) flag.toNat ∧ Stuck unit.toNat 8 t ∧
        t.evtWait.map EvtWait.code = s.evtWait.map EvtWait.code ++ [0x10])))

/-- The exchange (R82, R83). The sender and the receiver are different stalls; a stall may also send to itself. -/
def Obligations.ExchangeWords : Prop :=
  ∀ (st : StallId) (slot : BitVec 4) (s : State),
    let u := st.val
    let v := seen u s
    let r := unitOf s u
    (∀ (unit : BitVec 11) (dsrc : BitVec 6), canIssue s u = true → blockPlace v = true → unit.toNat < 1024 → unit.toNat ≠ u → s.frame < r.frame + 2 →
      let q := slotOf (stallOf s unit.toNat) slot.toNat
      (q.entries.length < 8 → q.waiters = [] → EndsIn (.send st unit slot dsrc) s (fun t =>
        stallOf t u = { advanced u s with sendsMade := (unit.toNat, slot.toNat) :: v.sendsMade } ∧
        slotOf (stallOf t unit.toNat) slot.toNat = { q with
          entries := q.entries ++ [⟨dReg v dsrc.toNat, false, tagFor s u (liveHdr (pagesOf s u)).sends unit.toNat slot.toNat, false⟩],
          last := dReg v dsrc.toNat, run := 0 } ∧
        (unitOf t u).st = r.st)) ∧
      (8 ≤ q.entries.length → EndsIn (.send st unit slot dsrc) s (fun t =>
        stallOf t u = { counted u s with blocked := some (.send unit.toNat slot.toNat (dReg v dsrc.toNat)) } ∧
        slotOf (stallOf t unit.toNat) slot.toNat = { q with waiters := q.waiters ++ [.sender u] } ∧ unitOf t u = { r with st := .waitSend }))) ∧
    (∀ w x, w ≠ u → (stallOf s u).blocked = some (.send w slot.toNat x) → (stallOf s u).halted = false → s.frame < r.frame + 2 →
      (slotOf (stallOf s w) slot.toNat).entries.length < 8 → (slotOf (stallOf s w) slot.toNat).waiters.head? = some (.sender u) →
      EndsIn (.sendComplete st) s (fun t => (stallOf t u).blocked = none ∧ unitOf t u = { r with st := .running } ∧
        (stallOf t u).pc = (nextPc (stallOf s u)).pc ∧ (w, slot.toNat) ∈ (stallOf t u).sendsMade ∧
        ∃ tag, ⟨x, false, tag, false⟩ ∈ (slotOf (stallOf t w) slot.toNat).entries)) ∧
    (∀ (before after : List ExchEntry) (e : ExchEntry), (slotOf (stallOf s u) slot.toNat).entries = before ++ e :: after → e.here = false →
      (∀ x ∈ before, x.here = true) → tagSkipped r e.tag = false → exec (.exchangeArrival st slot) s = .next (setStall u (setSlot slot.toNat
        { slotOf (stallOf s u) slot.toNat with entries := before ++ { e with here := true } :: after } (stallOf s u)) s)) ∧
    (∀ (ddst : BitVec 6) (e : ExchEntry) (rest : List ExchEntry), canIssue s u = true → blockPlace v = true →
      (slotOf v slot.toNat).entries = e :: rest → e.here = true → (slotOf v slot.toNat).waiters = [] → EndsIn (.recv st slot ddst) s (fun t =>
        Pends u 2 (.d (physD v.rb ddst.toNat) e.sample) s t ∧ Pends u 2 (.fillrx e.fill) s t ∧
        (slotOf (stallOf t u) slot.toNat).entries = rest ∧ (stallOf t u).pc = (advanced u s).pc ∧ (e.fill = true → Stuck u 9 t))) ∧
    (∀ ddst : BitVec 6, canIssue s u = true → blockPlace v = true → (slotOf v slot.toNat).entries = [] → EndsIn (.recv st slot ddst) s
      (Becomes u { counted u s with blocked := some (.recv slot.toNat ddst) } { r with st := .waitRecv } (landDue u s))) ∧
    (∀ (ddst : BitVec 6) (e : ExchEntry) (rest : List ExchEntry), (stallOf s u).blocked = some (.recv slot.toNat ddst) → (stallOf s u).halted = false →
      (slotOf (stallOf s u) slot.toNat).entries = e :: rest → e.here = true → (slotOf (stallOf s u) slot.toNat).waiters = [] →
      EndsIn (.recvComplete st) s (fun t => (stallOf t u).blocked = none ∧ unitOf t u = { r with st := .running } ∧
        (slotOf (stallOf t u) slot.toNat).entries = rest ∧
        ⟨(stallOf s u).issueNo - 1 + 2, .d (physD (stallOf s u).rb ddst.toNat) e.sample⟩ ∈ (stallOf t u).inflight))

/-- Format C (R107). -/
def Obligations.ImmediateWords : Prop :=
  ∀ (st : StallId) (reg : BitVec 8) (imm : S48) (s : State), canIssue s st.val = true →
    let u := st.val
    let v := seen u s
    let n := reg.toNat
    let d := dReg v n
    (∀ w, wordCLegal 1 reg imm = true → regWb v n imm.toInt = some w → EndsIn (.ldi st reg imm) s (Pends u 1 w s)) ∧
    (wordCLegal 2 reg imm = true → n < 0x40 → EndsIn (.addi st reg imm) s (DWrites u 1 n false (d.toInt + imm.toInt) s)) ∧
    (∀ c, wordCLegal 2 reg imm = true → n = 0x48 + c → c < 0x20 → EndsIn (.addi st reg imm) s (fun t =>
      Pends u 1 (.c c (BitVec.ofInt 32 (clamp 32 ((cReg v c).toInt + imm.toInt)))) s t ∧
      (overflows 32 ((cReg v c).toInt + imm.toInt) = true → Pends u 1 (.flags none none (some true)) s t ∧ Stuck u 0 t))) ∧
    (∀ p, wordCLegal 2 reg imm = true → p < 0x10 →
      (n = 0x68 + p → EndsIn (.addi st reg imm) s (Pends u 1 (.p p (BitVec.ofInt 20 ((pReg v p).toInt + imm.toInt))) s)) ∧
      (n = 0x78 + p → EndsIn (.addi st reg imm) s (Pends u 1 (.m p (BitVec.ofInt 20 ((mReg v p).toInt + imm.toInt))) s)) ∧
      (n = 0x88 + p → EndsIn (.addi st reg imm) s (Pends u 1 (.l p (BitVec.ofInt 20 ((lReg v p).toInt + imm.toInt))) s))) ∧
    (wordCLegal 3 reg imm = true → EndsIn (.andi st reg imm) s (Pends u 1 (.d (physD v.rb n) (d &&& imm)) s)) ∧
    (wordCLegal 4 reg imm = true → EndsIn (.ori st reg imm) s (Pends u 1 (.d (physD v.rb n) (d ||| imm)) s)) ∧
    (wordCLegal 5 reg imm = true → EndsIn (.xori st reg imm) s (Pends u 1 (.d (physD v.rb n) (d ^^^ imm)) s)) ∧
    (wordCLegal 6 reg imm = true → EndsIn (.cmpi st reg imm) s
      (Pends u 1 (.flags (some (decide (d.toInt = imm.toInt))) (some (decide (d.toInt < imm.toInt))) (some false)) s))

/-- How a stall's frame work ends, and what is still on its way (R26, R48, R58, R59, R73, R77). -/
def Obligations.FrameWorkEnds : Prop :=
  ∀ (st : StallId) (raw : Nat) (s : State),
    let u := st.val
    let v := seen u s
    let r := unitOf s u
    let near : Prop := ∀ w ∈ (stallOf s u).inflight, w.due ≤ (stallOf s u).issueNo + 3
    (canIssue s u = true → ctlPlace v = true → s.frame ≤ r.frame → EndsIn (.sync st raw) s (fun t =>
      unitOf t u = { r with st := .ended, ends := (⟨r.frame, raw, false⟩ :: r.ends).take 8 } ∧ (stallOf t u).frameIssues = v.frameIssues + 1 ∧
      (near → (stallOf t u).inflight = []))) ∧
    ((stallOf s u).abortPending = true → atEventPoint s u = true → s.frame ≤ r.frame → EndsIn (.stallAbort st raw) s (fun t =>
      unitOf t u = { r with st := .ended, ends := (⟨r.frame, raw, true⟩ :: r.ends).take 8 } ∧ (stallOf t u).abortPending = false ∧
      (stallOf t u).blocked = none ∧ (stallOf t u).loop = none ∧ (stallOf t u).calls = [] ∧ (stallOf t u).rb = 0 ∧ (near → (stallOf t u).inflight = []) ∧
      fld t Fld.FG_ABORT_COUNT_COUNT = min (2 ^ 32 - 1) (fld s Fld.FG_ABORT_COUNT_COUNT + 1) ∧ (stallOf t u).halted = (stallOf s u).halted ∧
      fld t Fld.FG_STATUS_ABORT_STICKY = 1 ∧ (∃ e ∈ t.evtWait, e.code = 7 ∧ e.arg0 = u))) ∧
    (∀ w : ProgWord, canIssue s u = true → rawWordLegal (stallOf s u) w = false → EndsIn (.illegalWord st w) s (fun t =>
      Stuck u 2 t ∧ (stallOf t u).pc = (advanced u s).pc ∧ (stallOf t u).inflight = v.inflight ∧ (stallOf t u).issueNo = v.issueNo + 1 ∧
      t.evtWait.map EvtWait.code = (landDue u s).evtWait.map EvtWait.code ++ [0x10])) ∧
    (∀ page word val, (pagesOf s u).swapDue = false → (pagesOf s u).held = [⟨page, word, val⟩] → EndsIn (.heldPageWrite st) s (fun t =>
      (pagesOf t u).held = [] ∧ smapGet (fun _ => (0 : ProgWord)) t.progMem ((2 * u + bnat page) * 8192 + word) = val)) ∧
    (∀ (chan : BitVec 13) (w : OutWrite) (before after : List OutWrite), s.outFlight = before ++ w :: after →
      (∀ x ∈ before, ¬ (x.unit = u ∧ x.chan = chan.toNat)) → w.unit = u → w.chan = chan.toNat → s.frame < w.frame + 2 →
      (outOf s (destKey w.entry.dest)).closed ≤ w.frame → EndsIn (.outputWriteLanding st chan) s (fun t =>
        t.outFlight = before ++ after ∧ ⟨w.frame, w.entry.sink, w.val⟩ ∈ (outOf t (destKey w.entry.dest)).words ∧ t.regs = s.regs))

/-- The debug window (R87, R90). -/
def Obligations.DebugCommands : Prop :=
  ∀ s : State,
    let u := dbgSel s
    let v := stallOf s u
    (haltAllowed s = true → v.halted = false → exec .haltReq s = .next (setStall u { v with haltPending := true } s)) ∧
    (haltAllowed s = false → exec .haltReq s = .next (setFld Fld.DBG_STATUS_REFUSED 0 1 s)) ∧
    (v.halted = true → exec .step s = .next (setStall u { v with halted := false, stepping := true } s)) ∧
    (v.halted = true → exec .resume s = .next (setStall u { v with halted := false, haltPending := false, stepping := false } s)) ∧
    (∀ st : StallId, (stallOf s st.val).haltPending = true → (stallOf s st.val).halted = false → atEventPoint s st.val = true →
      exec (.controlEventTaken st) s = .next (setStall st.val { stallOf s st.val with haltPending := false, halted := true } s)) ∧
    (∀ i, v.halted = true → fld s Fld.DBG_REG_SEL_INDEX = i → fld s Fld.DBG_REG_SEL_WORD = 0 → i < 0x40 →
      exec (.dbgRegDataAccess none) s = .next { s with lastRead := (dPhys (landedView v) i).toNat % 2 ^ 32 }) ∧
    (∀ i x, v.halted = true → fld s Fld.DBG_REG_SEL_INDEX = i → fld s Fld.DBG_REG_SEL_WORD = 0 → i < 0x40 →
      EndsIn (.dbgRegDataAccess (some x)) s (fun t => dPhys (landedView (stallOf t u)) i = (dPhys (landedView v) i).extractLsb' 32 16 ++ x ∧
        (∀ j, j ≠ i → dPhys (landedView (stallOf t u)) j = dPhys (landedView v) j) ∧ t.regs = s.regs)) ∧
    (v.halted = false → exec (.dbgRegDataAccess none) s = .next { setFld Fld.DBG_STATUS_NOT_HALTED 0 1 s with lastRead := 0 }) ∧
    (∀ x, v.halted = false → exec (.dbgRegDataAccess (some x)) s = .next (setFld Fld.DBG_STATUS_NOT_HALTED 0 1 s))

/-- The life of a drover's program (R48, R229–R234, R237, R242). -/
def Obligations.DroverPrograms : Prop :=
  ∀ (d : DroverId) (s : State),
    let n := d.val
    let starts (c : Nat) (frame : Option Nat) (t : State) : Prop :=
      (droverOf t n).run = some ⟨c, frame, fld s Fld.CH_CFG_ENTRY (chanIdx n c), none, 0, 0, false, none, false⟩ ∧
      fld t Fld.CH_STATUS_STATE (chanIdx n c) = 2 ∧ fld t Fld.DRV_STATUS_BUSY n = 1 ∧
      (droverOf t n).lastNf = (if frame.isNone then c else (droverOf s n).lastNf) ∧ t.mem = s.mem
    let ended (c code : Nat) (t : State) : Prop := (droverOf t n).run = none ∧ fld t Fld.CH_STATUS_STATE (chanIdx n c) = 0 ∧
      fld t Fld.CH_STATUS_END_CODE (chanIdx n c) = code ∧ fld t Fld.DRV_STATUS_BUSY n = 0
    (∀ (remain b c : Nat), (droverOf s n).run = none → firstFrame (pendingFrames s n) = some (b, c) →
      EndsIn (.droverProgramStart d remain) s (starts c (some b))) ∧
    (∀ (remain c : Nat), (droverOf s n).run = none → firstFrame (pendingFrames s n) = none → framesDone s n = true →
      firstNonFrame s n (droverOf s n).lastNf = some c → fbit s Fld.DRV_CTRL_MODE n = false ∨ fld s Fld.DRV_NF_GATE_NF_GATE n ≤ remain →
      EndsIn (.droverProgramStart d remain) s (starts c none)) ∧
    (∀ (c : Fin 8) (m : Fin 24), c.val ≠ 0 ∨ m.val = masterGroom →
      (isFrameChan s (chanIdx n c.val) = false → fbit s Fld.CH_CFG_FRAME (chanIdx n c.val) = false → fld s Fld.CH_STATUS_STATE (chanIdx n c.val) = 0 →
        exec (.chStart d c m) s = .next (setFld Fld.CH_STATUS_STATE (chanIdx n c.val) 1 s)) ∧
      (fld s Fld.CH_STATUS_STATE (chanIdx n c.val) ≠ 0 → exec (.chStart d c m) s = .next (setFld Fld.DRV_FAULT_START_REFUSED n 1 s))) ∧
    (∀ (c : Fin 8) (m : Fin 24), c.val = 0 → m.val ≠ masterGroom → exec (.chStart d c m) s = .next (setFld Fld.DRV_FAULT_HOST_CH0 n 1 s)) ∧
    (∀ (t : Nat) (r : DrvRun), activeRun s n = some r → r.frame = none → r.pc < 64 → drvBursts s n true = false → EndsIn (.droverEnd d t) s (fun t =>
      ended r.ch 0 t ∧ t.evtWait = s.evtWait ∧ t.mem = s.mem)) ∧
    (∀ (t b : Nat) (r : DrvRun), activeRun s n = some r → r.frame = some b → r.pc < 64 → drvBursts s n true = false →
      s.frame ≤ (unitOf s (1024 + chanIdx n r.ch)).frame → EndsIn (.droverEnd d t) s (fun t =>
        ended r.ch 0 t ∧ (unitOf t (1024 + chanIdx n r.ch)).st = .ended ∧ t.evtWait = s.evtWait ∧ t.mem = s.mem)) ∧
    (∀ (w0 w1 w2 w3 : ProgWord) (t c : Nat) (r : DrvRun), activeRun s n = some r → r.frame = none → faultCode s n r ⟨w0, w1, w2, w3⟩ = some c → c ≠ 0 →
      drvBursts s n false = false → EndsIn (.droverProgramEndFault d w0 w1 w2 w3 t) s (fun t => ended r.ch c t ∧ fld t Fld.DRV_FAULT_END_FAULT n = 1 ∧
        t.evtWait = s.evtWait ++ [⟨0x42, s.frame, n, (r.ch + 16 * c) % 2 ^ 32, none⟩] ∧ t.mem = s.mem)) ∧
    (∀ (c : Fin 8) (t b : Nat) (r : DrvRun), (chanOf s (chanIdx n c.val)).abort = true → (droverOf s n).run = some r → r.ch = c.val → r.frame = some b →
      s.frame ≤ (unitOf s (1024 + chanIdx n c.val)).frame → EndsIn (.droverAbortTaken d c t) s (fun t => ended c.val 5 t ∧
        (chanOf t (chanIdx n c.val)).abort = false ∧ (unitOf t (1024 + chanIdx n c.val)).st = .ended)) ∧
    (∀ u : Fin 1152, (unitOf s u.val).st ≠ .ended → (unitOf s u.val).frame + 2 + fld s Fld.FG_CTRL_HANG_FRAMES ≤ s.frame →
      (u.val < 1024 → exec (.hangAbort u) s = .next (setStall u.val { stallOf s u.val with abortPending := true } s)) ∧
      (1024 ≤ u.val → exec (.hangAbort u) s = .next (setChan (u.val - 1024) { chanOf s (u.val - 1024) with abort := true } s)))

/-- The drover's instructions (R235–R240). `drvNext` is the instruction's completion: the next index, running. -/
def Obligations.DroverInstructions : Prop :=
  ∀ (d : DroverId) (t : Nat) (s : State) (r : DrvRun), activeRun s d.val = some r →
    let n := d.val
    let i := chanIdx n r.ch
    let at_ (pc : Nat) (l : Option DrvLoop) : DrvRun := { r with pc := pc, loop := l, paced := 0, barrier := false, waits := none, lost := false }
    let runs (x : DrvRun) (t : State) : Prop := (droverOf t n).run = some x
    (runs (at_ (r.pc + 1) r.loop) (drvNext n s) ∧ (drvNext n s).mem = s.mem) ∧
    (∀ (w0 w1 w2 w3 : ProgWord), let w : DrvWords := ⟨w0, w1, w2, w3⟩; let m := moveDesc w
      dfield w0 60 4 = 1 → drvEnd s n r w = none → drvHold s n r w = none → r.paced = 0 → elemEnd s n r m 0 = none → elemWaits s n r m 0 = none →
      m.pace = false → elemCount m = 1 → m.esz = 0 → m.dspace = 0 → m.smode = 0 → m.dmode = 0 → m.src < 2 ^ 35 → m.dst < 2 ^ 35 → xbTarget m.src < 14 → xbTarget m.src ≠ 12 → xbTarget m.dst < 14 → xbTarget m.dst ≠ 12 →
      xbReadKind s (masterDrover n) m.src 8 = .ok → xbWriteKind s (masterDrover n) m.dst 8 = .ok →
      ueHit s (wordsOf m.dst 8) = false → s.ceWords = [] → heldAreas s = [] →
      EndsIn (.move d w0 w1 w2 w3 t) s (fun t => memBytes t m.dst 8 = memBytes s m.src 8 ∧
        (∀ x, ¬ (m.dst ≤ x ∧ x < m.dst + 8) → memByte t x = memByte s x) ∧
        runs { at_ (r.pc + 1) r.loop with bytes := r.bytes + 8, barrier := m.barrier } t)) ∧
    (∀ w0 : ProgWord, dfield w0 60 4 = 2 → drvEnd s n r ⟨w0, 0, 0, 0⟩ = none → drvHold s n r ⟨w0, 0, 0, 0⟩ = none →
      let left := match r.loop with | some l => l.left | none => dfield w0 0 16
      (left = 0 → EndsIn (.loop d w0 t) s (fun t => runs (at_ (r.pc + 1) none) t ∧ t.mem = s.mem)) ∧
      (left ≠ 0 → EndsIn (.loop d w0 t) s (fun t => runs (at_ (dfield w0 16 6) (some ⟨r.pc, left - 1⟩)) t ∧ t.mem = s.mem))) ∧
    (∀ w0 : ProgWord, dfield w0 60 4 = 3 → drvEnd s n r ⟨w0, 0, 0, 0⟩ = none → drvHold s n r ⟨w0, 0, 0, 0⟩ = none →
      (testBit (fld s Fld.CH_EVENTS_FLAGS i) (dfield w0 0 4) = true → EndsIn (.droverWait d w0 t) s (fun t =>
        testBit (fld t Fld.CH_EVENTS_FLAGS i) (dfield w0 0 4) = false ∧ runs (at_ (r.pc + 1) r.loop) t)) ∧
      (testBit (fld s Fld.CH_EVENTS_FLAGS i) (dfield w0 0 4) = false → EndsIn (.droverWait d w0 t) s (fun t =>
        runs r t ∧ fld t Fld.CH_STATUS_STATE i = 3 ∧ (r.frame.isSome = true → (unitOf t (1024 + i)).st = .waitEvent)))) ∧
    (∀ w0 : ProgWord, dfield w0 60 4 = 4 → drvEnd s n r ⟨w0, 0, 0, 0⟩ = none → drvHold s n r ⟨w0, 0, 0, 0⟩ = none → (r.frame = none ∨ s.frame < (unitOf s (1024 + i)).frame + 2) →
      EndsIn (.droverSignal d w0 t) s (fun t =>
        t.posts = s.posts ++ [⟨dfield w0 16 11, dfield w0 0 4, false, tagFor s (1024 + i) (chanOf s i).signals (dfield w0 16 11) (dfield w0 0 4)⟩] ∧
        runs (at_ (r.pc + 1) r.loop) t ∧ t.mem = s.mem)) ∧
    (∀ (w0 w1 w2 w3 : ProgWord), let w : DrvWords := ⟨w0, w1, w2, w3⟩; let m := moveDesc w
      dfield w0 60 4 = 1 → m.pace = true → m.line ∈ s.lines → drvEnd s n r w = none → drvHold s n r w = none → r.paced + 1 < elemCount m →
      elemEnd s n r m r.paced = none → elemWaits s n r m r.paced = none → EndsIn (.pacedBurstStart d w0 w1 w2 w3 t) s
        (runs { r with paced := r.paced + 1, bytes := r.bytes + elemBytes m, waits := none, lost := false }))

/-- The crossbar (R205, R215, R219–R226). -/
def Obligations.CrossbarBursts : Prop :=
  (∀ (p : Fin 144) (o q : BurstOffer) (now : Nat) (s : State), burstOffered s p.val o = true →
    let granted (t : State) : Prop := t.bursts = s.bursts ++ [⟨o.master.val, xbTarget o.addr, o.addr, o.len, o.data, xbAccess s o.master.val o.addr o.len⟩] ∧
      (arbOf t p.val).parked = o.master.val ∧ t.regs = s.regs ∧ t.mem = s.mem
    EndsIn (.crossbarGrant p ⟨[o], now⟩) s granted ∧
    (burstOffered s p.val q = true → frameClass s o = true → eligibleAt s now o = true →
      (frameClass s q = false ∨ eligibleAt s now q = false ∨
        fld s Fld.XB_PAIR_PRIO_F (pairIdx q.master.val (xbTarget q.addr)) < fld s Fld.XB_PAIR_PRIO_F (pairIdx o.master.val (xbTarget o.addr))) →
      EndsIn (.crossbarGrant p ⟨[o, q], now⟩) s granted ∧ EndsIn (.crossbarGrant p ⟨[q, o], now⟩) s granted)) ∧
  (∀ (m : Fin 24) (g : Fin 16) (raw : Nat) (b : Burst) (before after : List Burst) (s : State), s.bursts = before ++ b :: after →
    (∀ x ∈ before, ¬ (x.master = m.val ∧ x.target = g.val)) → b.master = m.val → b.target = g.val →
    let a := { s with bursts := before ++ after }
    (b.kind = .ok → xbTarget b.addr = g.val → g.val < 12 → targetWaits s g.val = false → targetIsolated s g.val = false →
      (b.data = none → xbUe s b.addr b.len = false → s.ceWords = [] → exec (.burstResponse m g raw) s = .next { a with lastRead := leNat (memBytes s b.addr b.len) }) ∧
      (∀ bs, b.data = some bs → bs.length = b.len → ueHit s (wordsOf b.addr b.len) = false → heldAreas s = [] →
        EndsIn (.burstResponse m g raw) s (fun t => memBytes t b.addr b.len = bs ∧ (∀ x, ¬ (b.addr ≤ x ∧ x < b.addr + b.len) → memByte t x = memByte s x) ∧
          t.bursts = before ++ after ∧ t.regs = s.regs))) ∧
    (targetWaits s g.val = true → exec (.burstResponse m g raw) s = .next s) ∧
    EndsIn (.xbTimeout m g) s (fun t => t.bursts = before ++ after ∧ fld t Fld.XB_TO_COUNT_MASTER = m.val ∧ fld t Fld.XB_TO_COUNT_TARGET = g.val ∧
      fld t Fld.XB_STATUS_TO_STICKY = 1 ∧ (∃ e ∈ t.evtWait, e.code = 0x41 ∧ e.arg0 = m.val ∧ e.arg1 = g.val) ∧ t.mem = s.mem))

/-- Tokens, scrub and retraining (R204, R205, R214, R215). -/
def Obligations.MemoryUpkeep : Prop :=
  ∀ s : State,
    (∀ (k : Fin 2048) (v : Word32), (s.mode = .run ∨ s.mode = .shadow ∨ s.mode = .safe) → fbit s Fld.MEM_CTRL_OWN_WR_EN = false →
      exec (.bankOwnWrite k v) s = .next (setFld Fld.MEM_STATUS_OWN_REFUSED 0 1 s)) ∧
    (∀ (k : Fin 2048) (v : Word32), s.mode = .configure ∨ s.mode = .standby → v.toNat % 16 ≤ 9 → s.tokenBad = [] →
      exec (.bankOwnWrite k v) s = .next (setFld Fld.BANK_OWN_GUEST k.val (if v.toNat % 16 < 8 ∧ v.getLsbD 4 = true then 1 else 0)
        (setFld Fld.BANK_OWN_OWNER k.val (v.toNat % 16) s))) ∧
    (fbit s Fld.MEM_CTRL_SCRUB_EN = true → s.ceWords = [] → s.ueWords = [] →
      exec .scrubPassEnd s = .next (countFld Fld.SCRUB_STATUS_PASSES 0 { s with passCe := [], scrubAt := s.tick })) ∧
    (s.retrainPend = 0 → exec .retrainReq s = .next (setRetrain (fld s Fld.MEM_CTRL_RETRAIN_MASK) s)) ∧
    (∀ c : Fin 8, s.retrainPend = 0 → exec (.cellarDriftRetrain c) s = .next (setRetrain (2 ^ c.val) s)) ∧
    (∀ (c : Fin 8) (left : Nat), testBit s.retrainPend c.val = true → cellarUsersDone s c.val = true → 1500 ≤ left → exec (.scheduledRetrain c left) s = .next
      (setFld Fld.CELLAR_CH_STATUS_EMERG c.val 0 (setFld Fld.CELLAR_CH_STATUS_STATE c.val 3 (setRetrain (s.retrainPend - 2 ^ c.val) s)))) ∧
    (∀ (c : Fin 8) (left : Nat), left < 1500 → exec (.scheduledRetrain c left) s = .next s) ∧
    (∀ c : Fin 8, s.retrainPend = 0 → EndsIn (.emergencyRetrain c) s (fun t => fld t Fld.CELLAR_CH_STATUS_STATE c.val = 3 ∧
      fld t Fld.CELLAR_CH_STATUS_EMERG c.val = 1 ∧ t.evtWait = s.evtWait ++ [⟨0x35, s.frame, c.val, 1, none⟩] ∧ t.mem = s.mem)) ∧
    (∀ c : Fin 8, fld s Fld.CELLAR_CH_STATUS_STATE c.val = 3 → exec (.retrainDone c) s = .next
      (countFld Fld.CELLAR_CH_STATUS_RETRAIN_COUNT c.val (setFld Fld.CELLAR_CH_STATUS_STATE c.val 2 s)))

/-- Ports and override inputs (R307, R314, R318, R428). -/
def Obligations.PortsAndInputs : Prop :=
  ∀ s : State,
    (∀ (p : PortId) (phase : Int) (words : List Nat), fbit s Fld.PORT_CFG_ROLE p.val = true → portRunning s p.val = true →
      fbit s Fld.PORT_CFG_DIR p.val = false → fld s Fld.PORT_STATE_STATE p.val = 3 → EndsIn (.externalFrameStart p phase words) s (fun t =>
        (portOf t p.val).extIn = (portOf s p.val).extIn ++ [words.map (captureWord (fbit s Fld.PORT_CFG_PACK p.val) (portWidth s p.val))] ∧
        fld t Fld.PORT_STATE_EDGE_PHASE p.val = wrapInt 16 phase ∧ t.mem = s.mem ∧ t.evtWait = s.evtWait)) ∧
    (∀ p : PortId, fbit s Fld.PORT_CFG_ROLE p.val = true → portRunning s p.val = true → fld s Fld.PORT_STATE_STATE p.val = 3 →
      exec (.portClockLoss p) s = .next (raise 0x63 p.val 0 (setFld Fld.PORT_FLAGS_CLK_LOSS_STICKY p.val 1 (setFld Fld.PORT_STATE_STATE p.val 5 s)))) ∧
    (∀ (p : PortId) (v : Word32), portRunning s p.val = false → v = 0x00000001 → (portOf s p.val).startAt = none → (portOf s p.val).resumeAt = none →
      EndsIn (.portCfgWrite p v) s (fun t => fld t Fld.PORT_CFG_EN p.val = 1 ∧ fld t Fld.PORT_CFG_DIR p.val = 0 ∧ fld t Fld.PORT_CFG_CLKSRC p.val = 0 ∧
        fld t Fld.PORT_STATE_STATE p.val = 1 ∧ t.mem = s.mem)) ∧
    (∀ (i : Fin 4) (level : Bool), EndsIn (.ovrInput i level) s (fun t => testBit (fld t Fld.OVR_STATUS_IN_RAW) i.val = decide (level = ovrPol s i.val) ∧
      testBit (fld t Fld.OVR_STATUS_IN_ACTIVE) i.val =
        (ovrEn s i.val && (decide (level = ovrPol s i.val) || testBit (fld s Fld.OVR_STATUS_IN_ACTIVE) i.val)) ∧ t.mem = s.mem)) ∧
    (∀ i : Fin 4, ovrLatch s i.val = false → ovrRaw s i.val = false → testBit (fld s Fld.OVR_STATUS_IN_ACTIVE) i.val = true →
      exec (.offHoldExpiry i) s = .next (setFld Fld.OVR_STATUS_IN_ACTIVE 0 (fld s Fld.OVR_STATUS_IN_ACTIVE - 2 ^ i.val) s)) ∧
    (∀ i : Fin 4, ovrLatch s i.val = true → exec (.offHoldExpiry i) s = .next s) ∧
    (∀ (i : Fin 4) (mask : BitVec 4), mask.toNat = 2 ^ i.val → ovrLatch s i.val = true → ovrRaw s i.val = false →
      testBit (fld s Fld.OVR_STATUS_IN_ACTIVE) i.val = true →
      exec (.ovrUnlatch mask) s = .next (setFld Fld.OVR_STATUS_IN_ACTIVE 0 (fld s Fld.OVR_STATUS_IN_ACTIVE - 2 ^ i.val) s))

/-- What comes in and what is written down (R250–R256, R259, R291). -/
def Obligations.Admission : Prop :=
  (∀ (p : RxPacket) (raw : Nat) (x : Session) (s : State), groomServes s = true → s.rxq.find? (fun q => decide (q.source = p.source)) = some p →
    (∀ e, p.source ≠ .trace e) →
    let r := reqOf p raw
    let a := { s with rxq := s.rxq.erase p }
    (extentOk p = true → checkOk p = false → exec (.packetAdmission p.source raw) s = .next (crcFail p.source a)) ∧
    (extentOk p = false → exec (.packetAdmission p.source raw) s = .next (formatFail p.source a)) ∧
    (extentOk p = true → checkOk p = true → tagOk s p r = true → rd p.bytes 0 1 = 1 → headerOk p = true → r.session ≠ 0 → r.opcode ≠ 2 →
      sessionOf s r.session = some x → x.source = p.source →
      (seqCase x r.seq r.check = .fits → (∀ e ∈ x.win, e.done = false → e.tag ≠ r.tag) → (outstanding x).length < 64 → unservable r = none →
        EndsIn (.packetAdmission p.source raw) s (fun t => t.admitted = s.admitted ++ [r] ∧ t.rxq = s.rxq.erase p ∧
          (∃ y ∈ t.sessions, y.num = x.num ∧ y.exec = x.exec + 1 ∧ ⟨r.seq, false, r.check, r.tag, []⟩ ∈ y.win) ∧ t.mem = s.mem)) ∧
      (seqCase x r.seq r.check = .absorb → exec (.packetAdmission p.source raw) s = .next (countFld Fld.CMD_DUP_COUNT_COUNT 0 a)))) ∧
  (∀ (w : EvtWait) (rest : List EvtWait) (raw : Nat) (s : State), s.evtWait = w :: rest →
    ((∀ e ∈ s.evtLog, e.code = w.code → e.arg0 = w.arg0 → e.t + 1000000 ≤ raw) → EndsIn (.eventLogWrite raw) s (fun t =>
      t.evtWait = rest ∧ t.evtLog = (⟨fld s Fld.EVT_HEAD_HEAD, w.code, w.frame, w.arg0, w.arg1, 0, raw⟩ :: s.evtLog).take 1024 ∧ t.mem = s.mem)) ∧
    (∀ e, s.evtLog.find? (fun e => decide (e.code = w.code ∧ e.arg0 = w.arg0 ∧ raw < e.t + 1000000)) = some e → exec (.eventLogWrite raw) s =
      .next { s with evtWait := rest, evtLog := s.evtLog.map (fun x => if x.index = e.index then { x with rep := min 0xFFFF (x.rep + 1) } else x) })) ∧
  (∀ (n raw : Nat) (x : Session) (s : State), sessionOf s n = some x → EndsIn (.sessionIdleTimeout n raw) s (fun t =>
    sessionOf t n = none ∧ t.oldSessions = (n, raw) :: s.oldSessions ∧ ∀ y ∈ s.sessions, y.num ≠ n → y ∈ t.sessions)) ∧
  (∀ (h : Nat) (s : State), EndsIn (.jobRecordExpiry h) s (fun t => ∀ j, j ∈ t.jobs ↔ j ∈ s.jobs ∧ (j.handle ≠ h ∨ j.state = 0)))

/-- The general opcodes (R252, R253, R275, R277, R278, R291, R292). -/
def Obligations.GeneralCommands : Prop :=
  ∀ (r : Req) (s : State),
    let a := served s
    (Served 1 r s → r.payload.length ≤ 8148 → exec (.echo r) s = .next (answer r (ok r.payload) a)) ∧
    (Served 4 r s → r.payload = [] → exec (.identify r) s = .next (answer r (ok (identifyBytes a)) a)) ∧
    (∀ num nonce, Served 2 r s → Shape r 12 [2, 3] → r.session = 0 → openedBefore r s = none → pb r 0 = 0xFF → pb r 1 ≤ 1 → authRequired s r.source = false →
      s.sessions.length < 8 → numberFree s r.t num = true → EndsIn (.sessionOpen r num nonce) s (fun t =>
        ∃ x, t.sessions = s.sessions ++ [x] ∧ x.num = num ∧ x.source = r.source ∧ x.key = none ∧ x.nonce = nonce % 2 ^ 64 ∧ x.s0 = r.seq ∧ x.count = 0 ∧
          x.win = [] ∧ x.mask = (if pb r 1 = 1 then 0xFFFF else 0))) ∧
    (∀ raw, Served 3 r s → r.payload = [] → r.session ≠ 0 → exec (.sessionClose r raw) s = .next (closeSession r.session raw (answer r (ok []) a))) ∧
    (Served 5 r s → Shape r 36 [1, 2, 3] → pb r 0 < 8 → r.source = .spi → (∀ x ∈ s.sessions, x.key ≠ some (pb r 0)) →
      exec (.keyLoad r) s = .next (answer r (ok []) (setKey (pb r 0) (r.payload.drop 4) a))) ∧
    (Served 6 r s → Shape r 4 [1, 2, 3] → pb r 0 < 8 → r.source = .spi → (∀ x ∈ s.sessions, x.key ≠ some (pb r 0)) →
      exec (.keyClear r) s = .next (answer r (ok []) (setKey (pb r 0) [] a))) ∧
    (∀ j, Served 0x100 r s → Shape r 4 [2, 3] → jobOf s (rd r.payload 0 2) = some j → j.state = 0 →
      exec (.jobStatus r) s = .next (answer r (ok (jobBytes (jobNow a j))) a)) ∧
    (∀ j, Served 0x101 r s → Shape r 4 [2, 3] → jobOf s (rd r.payload 0 2) = some j → j.session = r.session → j.state = 0 →
      exec (.jobCancel r) s = .next (answer r (ok []) (setJob { j with cancel := true } a))) ∧
    (∀ e es, Served 0x103 r s → Shape r 8 [6, 7] → r.source = .spi → rd r.payload 4 2 = 1 → evtFrom s (rd r.payload 0 4) = e :: es →
      exec (.eventRead r) s = .next (answer r (ok (beBytes 4 e.index ++ [0, 1, 0, 0] ++ evtBytes e)) a)) ∧
    (∀ x, Served 0x104 r s → Shape r 4 [2, 3] → sessionOf s r.session = some x →
      exec (.eventCfg r) s = .next (answer r (ok []) (setSession { x with mask := rd r.payload 0 2 } a)))

/-- Meters and the frame guard's reports (R35, R46, R164, R168–R170, R282, R286). -/
def Obligations.MetersAndGuard : Prop :=
  ∀ s : State,
    (∀ (id f : Nat) (cs : List MeterChan) (n : GNode), nodeOf s.live id = some n → metered n = true → cs.length = meterWidth n → (f + 1) % meterFrames s.fs = 0 →
      EndsIn (.meterPeriodEnd id f cs) s (fun t => (meterOf t id).loudest = loudestOf cs ∧ (meterOf t id).frame = f ∧
        (meterOf t id).chans.length = cs.length ∧ t.regs = s.regs ∧ t.mem = s.mem)) ∧
    (∀ (id c : Nat) (x : S48) (n : GNode), nodeOf s.live id = some n → kernelId n = 1 → c < meterWidth n →
      let rate := nodeRate s s.live n
      let y := stripSample rate (hpfNow s n rate) (stripOf s id c) x.toInt
      let below := belowLevel (paramIn s.liveParams n 6).toInt y.y1
      let was := ((meterOf s id).chans.getD c balNone).silent
      let silent (b : Bool) (t : State) : Prop := ((meterOf t id).chans.getD c balNone).silent = b ∧ t.evtWait = s.evtWait ++
        (if was ≠ b ∧ (paramIn s.liveParams n 8).toNat = 1 then [⟨0x62, s.frame, id % 2 ^ 32, (c + 65536 * bnat b) % 2 ^ 32, none⟩] else [])
      (below = false → EndsIn (.inputSilence id c [x]) s (silent false)) ∧
      (below = true → EndsIn (.inputSilence id c [x]) s (silent (was || quietLong s n (y.quiet + 1))))) ∧
    (∀ (r : Req) (n : GNode), Served 0x302 r s → Shape r 10 [6, 7] → rd r.payload 0 2 = 1 → rd r.payload 2 2 ≤ 1023 → 1 ≤ rd r.payload 4 2 →
      rd r.payload 4 2 ≤ 1024 → nodeOf s.live (rd r.payload 8 2) = some n → metered n = true →
      8 + 12 * (meterSpan n (rd r.payload 2 2) (rd r.payload 4 2)).length ≤ maxReply r.source - 4 → exec (.meterRead r) s = .next (answer r
        (ok ([0, 1, 0, 0] ++ meterNodeBytes s r.session (rd r.payload 2 2) (rd r.payload 4 2) n))
        (meterRestart r.session (rd r.payload 2 2) (rd r.payload 4 2) n (served s)))) ∧
    (∀ r : Req, Served 0x500 r s → Shape r 4 [] → rd r.payload 0 2 ≤ 1151 → rd r.payload 2 2 = 1 → r.source = .spi →
      exec (.slackRead r) s = .next (answer r (ok (beBytes 8 s.fg.slackFrame ++ [0, 1, 0, 0] ++ beBytes 2 (wrapInt 16 (slackOf s (rd r.payload 0 2)))))
        (served s))) ∧
    (∀ r : Req, Served 0x501 r s → Shape r 8 [5, 6, 7] → rd r.payload 0 2 ≤ 1151 → rd r.payload 2 2 = 0 → pb r 4 = 1 →
      exec (.fgReport r) s = .next (answer r (ok (beBytes 2 (fld s Fld.FG_REPORT_CTRL_ENTRIES) ++
        beBytes 1 (fld s Fld.FG_REPORT_CTRL_REPORT_VALID + 2 * fld s Fld.FG_REPORT_CTRL_HAS_CYCLE) ++ [0] ++ beBytes 8 s.fg.reportFrame))
        (setFld Fld.FG_REPORT_CTRL_REPORT_VALID 0 0 (served s)))) ∧
    EndsIn .slackClr s (fun t => fld t Fld.SLACK_HIST_SLACK = 0xFFF ∧ fld t Fld.SLACK_HIST_UNIT = 0x7FF ∧ Untouched (regsOf [(Fld.SLACK_HIST_SLACK, 0)]) s t) ∧
    exec .rdReset s = .next { s with fg := { s.fg with rdPtr := 0 } } ∧
    (∀ w, (s.fg.report.flatMap reportWords)[s.fg.rdPtr]? = some w →
      exec .fgReportDataRead s = .next { s with fg := { s.fg with rdPtr := s.fg.rdPtr + 1 }, lastRead := w }) ∧
    ((s.fg.report.flatMap reportWords)[s.fg.rdPtr]? = none → exec .fgReportDataRead s = .next { s with lastRead := 0 })

/-- Cellar, port and override opcodes (R287, R288, R314, R322, R429, R440). -/
def Obligations.CellarPortsOverride : Prop :=
  ∀ (r : Req) (s : State),
    let a := served s
    let x := rd r.payload 0 8
    let n := rd r.payload 8 8
    (Served 0x600 r s → Shape r 16 [] → x % 0x100000 = 0 → 0x400000000 ≤ x → n % 0x100000 = 0 → 0 < n → x + n ≤ 0x5F0000000 → s.regions = [] →
      (programRanges s).any (fun p => overlaps x n p.1 p.2) = false →
      exec (.cellarReserve r) s = .next (answer r (ok [0, 0, 0, 0]) { a with regions := [⟨0, x, n⟩] })) ∧
    (∀ g, Served 0x601 r s → Shape r 4 [1, 2, 3] → s.regions.find? (fun g => decide (g.id = pb r 0)) = some g → regionBusy s g = false →
      exec (.cellarRelease r) s = .next (answer r (ok []) { a with regions := s.regions.filter (fun y => decide (y.id ≠ pb r 0)) })) ∧
    (Served 0x602 r s → Shape r 12 [] → 8 ≤ rd r.payload 8 4 → rd r.payload 8 4 ≤ 1024 → rd r.payload 8 4 % 8 = 0 → inRegion s x (rd r.payload 8 4) = true →
      s.ueWords = [] → s.ceWords = [] → xbReadKind a masterGroom x (rd r.payload 8 4) = .ok → r.source = .spi → xbTarget x < 12 →
      rangeWaits s x (rd r.payload 8 4) = false →
      exec (.cellarRead r) s = .next (answer r (ok (memBytes s x (rd r.payload 8 4))) a)) ∧
    (Served 0x603 r s → 16 ≤ r.payload.length → r.payload.length % 8 = 0 → inRegion s x (r.payload.length - 8) = true → rangeWaits s x (r.payload.length - 8) = false →
      exec (.cellarWrite r) s = .next (answer r (ok []) (xbWrite masterGroom x (r.payload.drop 8) a))) ∧
    (∀ h, Served 0x604 r s → Shape r 24 [] → rd r.payload 16 8 % 64 = 0 → inRegion s x (rd r.payload 16 8) = true → inRegion s n (rd r.payload 16 8) = true →
      JobRoom h s → exec (.cellarCopy r h) s = .next (answer r (accepted h) { a with
        jobs := s.jobs ++ [newJob h r s (.copy x n (rd r.payload 16 8))] })) ∧
    (Served 0x700 r s → Shape r 16 [6, 7] → s.frame + 2 ≤ n →
      exec (.portStart r) s = .next (answer r (ok []) (portStart (rd r.payload 0 4) (rd r.payload 4 2) n a))) ∧
    (Served 0x701 r s → Shape r 16 [6, 7] → s.frame + 2 ≤ n →
      exec (.portStop r) s = .next (answer r (ok []) (portStop (rd r.payload 0 4) (rd r.payload 4 2) n a))) ∧
    (∀ p < 32, portRunning s p = false → (portOf s p).resumeAt = none → fbit s Fld.PORT_CFG_EN p = true → portCfgOk s p = true →
      portStart (2 ^ p) 0 n s = setFld Fld.PORT_STATE_STATE p 2 (setPort p { portOf s p with startAt := some n, stopAt := none } s)) ∧
    (∀ p < 32, portRunning s p = true → fld s Fld.PORT_STATE_STATE p ≠ 5 →
      portStop (2 ^ p) 0 n s = setFld Fld.PORT_STATE_STATE p 4 (setPort p { portOf s p with startAt := none, stopAt := some n } s)) ∧
    (Served 0x702 r s → Shape r 4 [1, 2, 3] → pb r 0 < 48 → exec (.portStatus r) s = .next (answer r (ok (portRecord a (pb r 0))) a)) ∧
    (Served 0xC00 r s → Shape r 4 [2, 3] → pb r 0 ≤ 1 → pb r 1 ≤ 3 →
      exec (.overrideSet r) s = .next (answer r (ok (beBytes 8 (s.frame + 1))) (overrideSet (decide (pb r 0 = 1)) (pb r 1) a))) ∧
    (∀ on, ∀ k < 4, testBit (fld (overrideSet on k s) Fld.OVR_STATUS_CMD) k = on) ∧
    (Served 0xC01 r s → r.payload = [] → exec (.overrideStatus r) s = .next (answer r (ok (overrideRecord a)) a))

/-- Error replies leave every part of the engine's state unchanged (R250, R275): shown for the length check of commands of each group. -/
def Obligations.WrongLength : Prop :=
  ∀ (r : Req) (s : State) (h : Nat),
    let refused (i : Instr) (op n : Nat) : Prop := Served op r s → r.payload.length ≠ n → exec i s = .next (answer r ⟨0x21, 0, n, []⟩ (served s))
    refused (.identify r) 4 0 ∧ refused (.keyLoad r) 5 36 ∧ refused (.keyClear r) 6 4 ∧ refused (.jobStatus r) 0x100 4 ∧ refused (.jobCancel r) 0x101 4 ∧
    refused (.eventRead r) 0x103 8 ∧ refused (.eventCfg r) 0x104 4 ∧ refused (.sessionClose r h) 3 0 ∧ refused (.slackRead r) 0x500 4 ∧
    refused (.fgReport r) 0x501 8 ∧ refused (.cellarReserve r) 0x600 16 ∧ refused (.cellarRelease r) 0x601 4 ∧ refused (.cellarRead r) 0x602 12 ∧
    refused (.cellarCopy r h) 0x604 24 ∧ refused (.portStart r) 0x700 16 ∧ refused (.portStop r) 0x701 16 ∧ refused (.portStatus r) 0x702 4 ∧
    refused (.overrideSet r) 0xC00 4 ∧ refused (.overrideStatus r) 0xC01 0

/-- The opcodes on the working graph and kernels (R114, R122, R280, R282), shown for one record. -/
def Obligations.GraphsAndKernels : Prop :=
  ∀ (r : Req) (s : State),
    let a := served s
    let k := rd r.payload 0 2
    let withWork (g : Graph) : State := { a with work := g }
    (∀ g, Served 0x200 r s → r.payload.length = 36 → k = 1 → rd r.payload 2 2 = 0 → nodeBad r.payload 4 = none →
      g = { s.work with nodes := putBy GNode.id (readNode r.payload 4) s.work.nodes } → graphOver g (inTeam s) = none →
      exec (.graphNode r) s = .next (answer r (ok []) (withWork g))) ∧
    (∀ g, Served 0x201 r s → r.payload.length = 20 → k = 1 → rd r.payload 2 2 = 0 → edgeBad r.payload 4 = none →
      g = { s.work with edges := putBy GEdge.id (readEdge r.payload 4) s.work.edges } → graphOver g (inTeam s) = none →
      exec (.graphEdge r) s = .next (answer r (ok []) (withWork g))) ∧
    (∀ g, Served 0x202 r s → r.payload.length = 12 → k = 1 → rd r.payload 2 2 = 0 → segBad r.payload 4 = none →
      g = { s.work with segs := putBy GSeg.id (readSeg r.payload 4) s.work.segs } → graphOver g (inTeam s) = none →
      exec (.graphSegment r) s = .next (answer r (ok []) (withWork g))) ∧
    (∀ id, Served 0x203 r s → r.payload.length = 8 → pb r 0 = 1 → pb r 1 = 0 → rd r.payload 2 2 = 1 → rd r.payload 4 4 = id → (nodeOf s.work id).isSome = true →
      exec (.graphDelete r) s = .next (answer r (ok []) (withWork { s.work with
        nodes := s.work.nodes.filter (fun n => decide (n.id ≠ id)),
        edges := s.work.edges.filter (fun e => decide (e.srcNode ≠ id ∧ e.dstNode ≠ id)) }))) ∧
    (Served 0x204 r s → r.payload = [] → exec (.graphClear r) s = .next (answer r (ok []) (withWork ⟨[], [], []⟩))) ∧
    (∀ h, Served 0x205 r s → 9 ≤ r.payload.length → r.payload.length ≤ 32840 → 0x8000 ≤ k → k ≤ 0x80FF → pb r 2 = 0 → pb r 3 = 0 → rd r.payload 4 4 = 0 →
      exec (.kernelLoad r h) s = .next (answer r (ok [])
        { a with partials := ⟨k, r.payload.drop 8⟩ :: s.partials.filter (fun p => decide (p.handle ≠ k)) })) ∧
    (∀ h, Served 0x205 r s → 9 ≤ r.payload.length → r.payload.length ≤ 32840 → 0x8000 ≤ k → k ≤ 0x80FF → pb r 2 = 1 → pb r 3 = 0 → rd r.payload 4 4 = 0 →
      kernelIn s.work k = false → kernelIn s.live k = false → s.kernels.length < 256 → kernelHeaderBad k (r.payload.drop 8) = none → JobRoom h s →
      exec (.kernelLoad r h) s = .next (answer r (accepted h) { a with
        jobs := s.jobs ++ [newJob h r s (.kernel k (r.payload.drop 8))], partials := s.partials.filter (fun p => decide (p.handle ≠ k)) })) ∧
    (Served 0x206 r s → Shape r 4 [2, 3] → (kernelOf s k).isSome = true → kernelIn s.work k = false → kernelIn s.live k = false →
      exec (.kernelDelete r) s = .next (answer r (ok []) { a with kernels := s.kernels.filter (fun x => decide (x.handle ≠ k)) })) ∧
    (∀ n, Served 0x301 r s → Shape r 12 [1, 10, 11] → r.source = .spi → pb r 0 = 0 → rd r.payload 8 2 = 1 → nodeOf s.live (rd r.payload 2 2) = some n →
      (paramCheck s n (rd r.payload 4 4) 0).isSome = true → exec (.paramRead r) s =
        .next (answer r (ok ([0, 1, 0, 0] ++ beBytes 4 (paramIn s.liveParams n (rd r.payload 4 4)).toNat)) a))

/-- Compiles (R127–R129, R138–R142, R280, R281). -/
def Obligations.Compiles : Prop :=
  ∀ (r : Req) (s : State),
    let a := served s
    (∀ h, Served 0x207 r s → Shape r 4 [3] → pb r 0 ≤ 14 → 50 ≤ pb r 1 → pb r 1 ≤ 100 → pb r 2 ≤ 1 → compileRunning s = none → compilePending s = none →
      (brewOf s (pb r 0)).st = .open_ → JobRoom h s → exec (.compile r h) s = .next (answer r (accepted h)
        (setBrew (pb r 0) { brewOf s (pb r 0) with jobBusy := busyWith false h (brewOf s (pb r 0)).jobBusy } { a with
          jobs := s.jobs ++ [newJob h r s (.compile ⟨pb r 0, pb r 1, decide (pb r 2 = 1), ⟨[], [], []⟩, [], 0, [], 0, none, [], ⟨[], [], []⟩, none, none⟩)] }))) ∧
    (∀ c, Served 0x208 r s → Shape r 12 [2, 3, 10, 11] → r.source = .spi → pb r 0 ≤ 15 → pb r 1 = 0 → rd r.payload 4 4 = 0 → rd r.payload 8 2 = 1 →
      s.results.find? (fun c => decide (c.engine = pb r 0)) = some c →
      exec (.graphResult r) s = .next (answer r (ok ([0, 0, 0, 1, 0, 1, 0, 0] ++ resultBytes c)) a)) ∧
    (∀ (leader h : Nat) (brew : Fin 15) (g : Graph) (partner : Option ProgramSet), compileRunning s = none → compilePending s = none →
      (brewOf s brew.val).st = .open_ → JobRoom h s →
      (if fld s Fld.SHADOW_PARTNER_ROLE = 2 then leader = fld s Fld.SHADOW_PARTNER_PARTNER ∧ partner.isSome = true else leader ∈ s.team ∧ partner = none) →
      exec (.teamSubgraphRx leader brew h ⟨g, partner⟩) s =
        .next (setBrew brew.val { brewOf s brew.val with jobBusy := busyWith false h (brewOf s brew.val).jobBusy } { s with
          results := [], jobs := s.jobs ++ [⟨h, 0x207, 0, 0, 3, 0, 0, 0, s.frame, 0, 0, false,
            .compile ⟨brew.val, 100, false, g, s.params, s.fs, [], 0, some leader, [], g, none, partner⟩⟩] })) ∧
    (∀ (m : Fin 16) (phase : Nat) (j : JobRec) (c : CompileJob), compileRunning s = some j → j.work = .compile c → c.leader = none →
      c.members.any (fun x => decide (x.1 = m.val)) = true → exec (.memberCompileReport m phase none) s =
        .next (setJob { j with work := .compile { c with members := c.members.map (fun x => if x.1 = m.val then (x.1, x.2.1, phase, x.2.2.2) else x) } } s)) ∧
    (∀ (m : Fin 16) (j : JobRec) (c : CompileJob) (x : Nat × Nat × Nat × Bool), compileRunning s = some j → jobOf s j.handle = some j → j.work = .compile c →
      c.members.find? (fun x => decide (x.1 = m.val)) = some x → x.2.2.2 = false → EndsIn (.memberTimeout m) s (fun t =>
        (∃ k, jobOf t j.handle = some k ∧ k.state = 2 ∧ k.final = 0x42) ∧ (brewOf t c.brew).out = none ∧
        (∃ y ∈ t.results, y.engine = ownIndex s ∧ y.status = 1))) ∧
    (∀ brew : Fin 15, compileRunning s = none → (brewOf s brew.val).st = .open_ → exec (.compileWithdraw brew) s =
      .next (setBrew brew.val { brewOf s brew.val with out := none, outGraph := ⟨[], [], []⟩, outParams := [] } s))

/-- Brews (R173–R178, R282, R284, R285). -/
def Obligations.Brews : Prop :=
  ∀ (r : Req) (s : State),
    let a := served s
    let h := pb r 0
    let b := brewOf s h
    (∀ pick, Served 0x400 r s → Shape r 8 [3, 6, 7] → 1 ≤ rd r.payload 0 2 → rd r.payload 0 2 ≤ 1000 → pb r 2 ≤ 1 → pick < 15 → (brewOf s pick).st = .free →
      EndsIn (.brewOpen r pick) s (fun t => (brewOf t pick).st = .open_ ∧ (brewOf t pick).log = [] ∧ (brewOf t pick).out = none ∧
        (brewOf t pick).xfadeMs = rd r.payload 0 2 ∧ (brewOf t pick).shape = pb r 2 ∧ (brewOf t pick).preroll = rd r.payload 4 2 ∧ t.regs = s.regs)) ∧
    (∀ x, Served 0x401 r s → r.payload.length = 20 → h ≤ 14 → pb r 1 = 0 → rd r.payload 2 2 = 1 → readItems a r.payload 4 1 = .ok [x] → b.st = .open_ →
      logged a x = true → logLimit a h 1 = none → EndsIn (.brewWrite r) s (fun t => (brewOf t h).log = b.log ++ [x] ∧ (brewOf t h).st = .open_)) ∧
    (Served 0x407 r s → Shape r 4 [1, 2, 3] → h ≤ 15 → exec (.brewStatus r) s = .next (answer r (ok (brewStatusBytes a h)) a)) ∧
    (Served 0x405 r s → Shape r 4 [1, 2, 3] → h ≤ 14 → groupUndecided s h = none →
      b.st = .open_ ∨ b.st = .baking ∨ b.st = .armed ∧ (b.role ≠ 2 ∨ b.grp = none) →
      EndsIn (.brewSpill r) s (fun t => (brewOf t h).st = .spilling ∧ (brewOf t h).log = [] ∧ (brewOf t h).out = none ∧ (brewOf t h).tap = 0)) ∧
    (∀ x f, Served 0x300 r s → r.payload.length = 12 → h ≤ 14 → pb r 1 = 1 → readParams a r.payload 2 1 = .ok [x] → b.st = .open_ → logged a x = true →
      logLimit a h 1 = none → EndsIn (.paramWrite r f) s (fun t => (brewOf t h).log = b.log ++ [x])) ∧
    (∀ j, Served 0x402 r s → Shape r 12 [1, 2, 3] → h ≤ 14 → inRegion s (rd r.payload 4 8) 1 = true → b.st = .open_ → JobRoom j s →
      exec (.brewLoad r j) s = .next (answer r (accepted j) (setBrew h { b with jobBusy := busyWith true j b.jobBusy }
        { a with jobs := s.jobs ++ [newJob j r s (.load h (rd r.payload 4 8))] }))) ∧
    (∀ j, Served 0x403 r s → Shape r 20 [1, 2, 3] → h ≤ 14 → inRegion s (rd r.payload 4 8) 1 = true → b.st = .open_ → JobRoom j s →
      exec (.brewStore r j) s = .next (answer r (accepted j)
        { a with jobs := s.jobs ++ [newJob j r s (.store h (rd r.payload 4 8) (rd r.payload 12 8))] })) ∧
    (∀ j, Served 0x404 r s → r.payload.length = 12 → h ≤ 14 → pb r 1 ≤ 1 → rd r.payload 2 2 = 0 → b.st = .open_ → b.jobBusy = [] → b.out = none →
      s.frame + 2 ≤ rd r.payload 4 8 → JobRoom j s → exec (.brewTap r j) s = .next (answer r (accepted j)
        (setBrew h
          { b with
            st := .baking, role := 0, tap := rd r.payload 4 8, lateOk := decide (pb r 1 = 1), gate := false, outcome := 0, deferred := false,
            late := false, job := some j, grp := none }
          { a with jobs := s.jobs ++ [newJob j r s (.tap h)] })))

/-- Tap groups at a participant (R187, R191–R195, R284). -/
def Obligations.TapParticipants : Prop :=
  ∀ (r : Req) (s : State),
    let own := ownEndpoint s
    let n := rd r.payload 28 2
    (∀ p, TapMsg 1 (30 + 8 * n) r s → ((List.range n).map (fun i => readPart r.payload (30 + 8 * i))).find? (fun p => decide (p.endpoint = own)) = some p →
      p.handle ≤ 14 → (brewOf s p.handle).st = .open_ → (brewOf s p.handle).grp = none → (brewOf s p.handle).jobBusy = [] → brewJobs s p.handle = false →
      EndsIn (.prepare r) s (fun t => (brewOf t p.handle).st = .baking ∧ (brewOf t p.handle).role = 2 ∧ (brewOf t p.handle).tap = msgFrame r ∧
        ∃ g, (brewOf t p.handle).grp = some g ∧ g.group = msgGroup r ∧ g.coord = msgSender r ∧ g.frame = msgFrame r)) ∧
    (∀ h g, TapMsg 4 28 r s → groupBrew s (msgGroup r) = some (h, g) → (brewOf s h).st = .prepared → EndsIn (.commit r) s (fun t =>
      (brewOf t h).st = .armed ∧ (brewOf t h).gate = true ∧ (brewOf t h).outcome = 1 ∧ (brewOf t h).tap = (brewOf s h).tap)) ∧
    (∀ h g, TapMsg 5 28 r s → groupBrew s (msgGroup r) = some (h, g) → (brewOf s h).st = .prepared → g.coord ≠ own → EndsIn (.abort r) s (fun t =>
      (brewOf t h).st = .open_ ∧ (brewOf t h).outcome = 2 ∧ (brewOf t h).log = (brewOf s h).log ∧ fld t Fld.TAP_STATUS_ABORT_STICKY = 1)) ∧
    (TapMsg 6 28 r s → exec (.query r) s = .next (answer r (ok [])
      (sendTap (msgSender r) (msgGroup r) (msgFrame r) (outcomeOf s (msgGroup r)).2 7 (outcomeOf s (msgGroup r)).1 0 (served s)))) ∧
    (∀ h g, TapMsg 7 28 r s → groupBrew s (msgGroup r) = some (h, g) → (brewOf s h).st = .inDoubt → g.outcome = 0 → msgCause r = 1 →
      fbit s Fld.TAP_CTRL_SPLIT_POLICY = false → EndsIn (.outcome r) s (fun t =>
        (brewOf t h).st = .armed ∧ (brewOf t h).gate = true ∧ (brewOf t h).tap = s.frame + 1)) ∧
    (∀ (h : Fin 15) (g : BrewGroup), (brewOf s h.val).grp = some g → (brewOf s h.val).st = .inDoubt → g.outcome = 0 →
      (decisionQueued s g.group = false → exec (.queryTimer h) s = .next (sendTap g.coord g.group g.frame h.val 6 0 0 s)) ∧
      exec (.queryPeers h) s = .next ((g.parts.filter (fun p => decide (p.endpoint ≠ own))).foldl (fun y p => sendTap p.endpoint g.group g.frame h.val 6 0 0 y)
        (setBrew h.val { brewOf s h.val with grp := some { g with peers := true } } s))) ∧
    (∀ g, Served 0x406 r s → Shape r 12 [2, 3] → pb r 0 ≤ 14 → pb r 1 = 1 → rd r.payload 4 8 = 0 → (brewOf s (pb r 0)).st = .inDoubt →
      (brewOf s (pb r 0)).grp = some g → EndsIn (.brewResolve r) s (fun t => (brewOf t (pb r 0)).st = .armed ∧ (brewOf t (pb r 0)).tap = s.frame + 1)) ∧
    (∀ h : Fin 15, (brewOf s h.val).st = .settling → (brewOf s h.val).finals = true → (brewOf s h.val).tap = 0 → (brewOf s h.val).fades.all fadeDone = true →
      EndsIn (.settleTapArm h) s (fun t => (brewOf t h.val).tap = s.frame + 1 ∧ (brewOf t h.val).st = .settling))

/-- Tap groups at the coordinator (R192, R196, R284). -/
def Obligations.TapCoordinator : Prop :=
  ∀ (r : Req) (s : State) (g : TapGroup),
    let a := served s
    let has (P : TapGroup → Prop) (t : State) : Prop := ∃ x ∈ t.groups, x.id = g.id ∧ P x
    (TapMsg 2 28 r s → s.groups.find? (fun x => decide (x.id = msgGroup r)) = some g → g.decision = 0 → beforeD g r.t = true →
      exec (.ready r) s = .next (answer r (ok []) (setGroup { g with
        parts := g.parts.map (fun p => if p.part.endpoint = msgSender r then { p with ready := true } else p) } a))) ∧
    (TapMsg 2 28 r s → s.groups.find? (fun x => decide (x.id = msgGroup r)) = some g → beforeD g r.t = false → exec (.ready r) s = .next (answer r (ok []) a)) ∧
    (TapMsg 3 28 r s → s.groups.find? (fun x => decide (x.id = msgGroup r)) = some g → g.decision = 0 →
      exec (.refuse r) s = .next (answer r (ok []) (setGroup { g with refuse := some (msgSender r) } a))) ∧
    (∀ bg, s.groups.find? (fun x => decide (x.id = g.id)) = some g → g.decision = 0 → g.decide ≤ s.frame → (brewOf s g.brew).st = .prepared →
      (brewOf s g.brew).grp = some bg → bg.group = g.id → g.refuse = none → (∀ p ∈ g.parts, p.ready = true ∨ p.part.endpoint = ownEndpoint s) →
      EndsIn (.tapDecision g.id) s (fun t => has (fun x => x.decision = 1) t ∧ (brewOf t g.brew).st = .armed ∧ (brewOf t g.brew).gate = true)) ∧
    (s.groups.find? (fun x => decide (x.id = g.id)) = some g → g.decision = 0 → g.decide ≤ s.frame →
      (g.refuse.isSome = true ∨ (brewOf s g.brew).st ≠ .prepared ∨
        ∃ p ∈ g.parts, p.ready = false ∧ p.part.endpoint ≠ ownEndpoint s ∧ readyQueued s g p.part.endpoint = false) →
      EndsIn (.tapDecision g.id) s (fun t => has (fun x => x.decision = 2) t ∧ fld t Fld.TAP_STATUS_ABORT_STICKY = 1)) ∧
    (TapMsg 8 28 r s → s.groups.find? (fun x => decide (x.id = msgGroup r)) = some g → g.closed = false → EndsIn (.tapDone r) s
      (has (fun x => ∀ p ∈ x.parts, p.part.endpoint = msgSender r → p.done = true))) ∧
    (s.groups.find? (fun x => decide (x.id = g.id)) = some g → g.closed = false → g.decision ≠ 0 → EndsIn (.groupCloseTimeout g.id) s
      (has (fun x => x.closed = true ∧ ∀ p ∈ x.parts, p.done = true ∨ p.cause = 4))) ∧
    (Served 0x409 r s → Shape r 4 [] → s.groups.find? (fun x => decide (x.id = rd r.payload 0 4)) = some g → exec (.tapReport r) s =
      .next (answer r (ok (beBytes 1 g.decision ++ [0] ++ beBytes 2 g.parts.length ++ beBytes 8 (groupSpan g) ++
        g.parts.flatMap (fun p => beBytes 4 p.part.endpoint ++ beBytes 8 (p.eff.getD (2 ^ 64 - 1)) ++ beBytes 1 p.cause ++ [0, 0, 0]))) a))

/-- The transports (R262, R263, R267, R268, R270–R272). -/
def Obligations.Transports : Prop :=
  ∀ s : State, groomServes s = true →
    (∀ bytes, spiWaiting s < 2 → exec (.spiWritePacket bytes) s = .next { s with rxq := s.rxq ++ [⟨.spi, ⟨0, none, 0⟩, bytes⟩] }) ∧
    (∀ bytes, 2 ≤ spiWaiting s → EndsIn (.spiWritePacket bytes) s (fun t => t.rxq = s.rxq ∧ t.spiFlags = s.spiFlags ||| 2 ∧
      fld t Fld.CMD_STATUS_RX_DROP_STICKY = 1 ∧ Untouched (regsOf [(Fld.CMD_STATUS_RX_DROP_STICKY, 0), (Fld.CMD_RX_DROP_COUNT_COUNT, 0)]) s t)) ∧
    (∀ n p, s.txq.find? (fun p => decide (p.source = .spi)) = some p → exec (.spiReadPacket n) s = .next { s with
      sent := .spi (p.bytes.take n ++ List.replicate (n - p.bytes.length) 0) :: s.sent,
      txq := if p.bytes.length ≤ n then s.txq.erase p else s.txq }) ∧
    (∀ n, s.txq.find? (fun p => decide (p.source = .spi)) = none → exec (.spiReadPacket n) s = .next { s with sent := .spi (List.replicate n 0) :: s.sent }) ∧
    (∀ p, s.txq.find? (fun p => decide (p.source = .spi)) = some p → spiWaiting s < 2 → s.spiFlags = 5 → exec .spiReadStatus s =
      .next { s with spiFlags := 0, sent := .spi ([0x17, 0] ++ beBytes 2 p.bytes.length) :: s.sent }) ∧
    (∀ (q : Fin 8) (v : Word32), exec (.rqTailDoorbell q v) s = .next (setFld Fld.RQ_TAIL_TAIL q.val v.toNat s)) ∧
    (∀ (q : Fin 8) (v : Word32), EndsIn (.qpCtrlWrite q v) s (fun t => fld t Fld.QP_CTRL_EN q.val = v.toNat % 2 ∧ fld t Fld.QP_CTRL_MASK q.val = v.toNat / 2 % 2 ∧
      Untouched (regsOf [(Fld.QP_CTRL_EN, q.val)]) s t ∧ t.rxq = s.rxq)) ∧
    (∀ (q : Fin 8) (n : Nat) (bytes : List Byte), fbit s Fld.QP_CTRL_EN q.val = true → fld s Fld.RQ_HEAD_HEAD q.val ≠ fld s Fld.RQ_TAIL_TAIL q.val →
      ringRoom s q.val = true →
      (n ≤ 65580 → exec (.pcieRequestFetch q n 0 bytes) s = .next { setFld Fld.RQ_HEAD_HEAD q.val ((fld s Fld.RQ_HEAD_HEAD q.val + 1) % fld s Fld.RQ_SIZE_SIZE q.val) s with
        rxq := s.rxq ++ [⟨.pcie q.val, ⟨0, none, 0⟩, bytes.take n⟩] }) ∧
      (65580 < n → EndsIn (.pcieRequestFetch q n 0 bytes) s (fun t => t.rxq = s.rxq ∧ fld t Fld.QP_STATUS_RING_ERR q.val = 1))) ∧
    (∀ (lane : Fin 16) (mac : Nat) (vlan : Option Nat) (p : List Byte), fbit s Fld.NET_CTRL_HOE_EN = true → 46 < p.length → rd p 0 1 = 1 → rd p 1 1 = 1 →
      rd p 4 4 = fld s Fld.ENDPOINT_ID_ID ∨ rd p 4 4 = 0xFFFFFFFF → netWaiting s < 16 → exec (.hoeFrameRx lane mac true vlan p) s =
        .next { s with rxq := s.rxq ++ [⟨.eth mac, ⟨lane.val, vlan, rd p 8 4⟩, p.drop 12⟩] }) ∧
    (∀ (lane : Fin 16) (mac : Nat) (vlan : Option Nat) (p : List Byte), fbit s Fld.NET_CTRL_HOE_EN = true → 46 < p.length → rd p 0 1 = 1 → rd p 1 1 = 1 →
      exec (.hoeFrameRx lane mac false vlan p) s = .next (countFld Fld.CMD_RX_DROP_COUNT_COUNT 0 s)) ∧
    (∀ (lane : Fin 16) (d : List Byte), fbit s Fld.NET_CTRL_UDP_EN = true → lane.val = fld s Fld.NET_CTRL_IP_PORT → 28 ≤ d.length → rd d 0 1 = 0x45 →
      rd d 9 1 = 17 → rd d 6 2 % 0x4000 = 0 → rd d 16 4 = fld s Fld.NET_IP_ADDR_ADDR → rd d 2 2 = d.length → rd d 22 2 = 50024 →
      rd d 24 2 = d.length - 20 → rd d 26 2 = 0 → netWaiting s < 16 → exec (.udpDatagramRx lane d) s =
        .next { s with rxq := s.rxq ++ [⟨.udp (rd d 12 4) (rd d 20 2), ⟨lane.val, none, 0⟩, d.drop 28⟩] }) ∧
    (∀ (lane : Fin 16), fbit s Fld.NET_CTRL_UDP_EN = true → lane.val = fld s Fld.NET_CTRL_IP_PORT →
      (∀ (ip target : Word32) (mac : Nat), target.toNat = fld s Fld.NET_IP_ADDR_ADDR →
        exec (.arpRequestRx lane ip mac target) s = .next { s with sent := .arpReply lane.val ip.toNat mac :: s.sent }) ∧
      (fbit s Fld.NET_CTRL_GARP_EN = true → exec (.ethLinkUp lane) s = .next { s with sent := .garp lane.val (fld s Fld.NET_IP_ADDR_ADDR) :: s.sent }) ∧
      (fbit s Fld.NET_CTRL_GARP_EN = false → exec (.ethLinkUp lane) s = .next s)) ∧
    (∀ ip : Word32, exec (.arpCacheExpiry ip) s = .next { s with arp := s.arp.filter (fun e => decide (e.ip ≠ ip.toNat)) }) ∧
    (∀ (ep n : Nat) (x : OwnReq), s.ownReqs.find? (fun x => decide (x.endpoint = ep ∧ x.seq = n)) = some x → x.resends < fld s Fld.CMD_CTRL_CMD_RETRIES →
      exec (.cmdResend ep n) s = .next { s with
        ownReqs := s.ownReqs.map (fun y => if y.endpoint = ep ∧ y.seq = n then { y with resends := y.resends + 1 } else y),
        txq := s.txq ++ [⟨.trace ep, ⟨0, none, 0⟩, 0, false, x.bytes⟩] }) ∧
    (∀ (ep : Nat) (bs : List Byte), s.replies.find? (fun x => decide (x.1 = ep)) = some (ep, bs) →
      let p : RxPacket := ⟨.trace ep, ⟨0, none, 0⟩, bs⟩
      let a := answerOf ep bs
      let b := { s with replies := s.replies.erase (ep, bs) }
      (extentOk p = true → checkOk p = false → exec (.commandReplyRx ep) s = .next (crcFail p.source b)) ∧
      (∀ x, extentOk p = true → checkOk p = true → rd bs 0 1 = 1 → testBit (rd bs 1 1) 1 = false →
        s.ownReqs.find? (fun x => decide (x.endpoint = ep ∧ x.seq = a.seq)) = some x → x.opcode = a.opcode → x.opcode ≠ 2 → a.status ≠ 0x12 →
        exec (.commandReplyRx ep) s = .next { b with ownReqs := s.ownReqs.filter (fun y => decide (¬ (y.endpoint = ep ∧ y.seq = a.seq))) }))

/-- Traces and their lanes (R327–R331, R337, R347–R349). -/
def Obligations.TraceStates : Prop :=
  ∀ (t : Fin 64) (s : State),
    let x := traceOf s t.val
    (∀ cause, traceState s t.val ≠ 0 → 1 ≤ cause → cause ≤ 10 → EndsIn (.traceReinit t cause) s (Failed t.val cause s)) ∧
    (traceState s t.val = 3 → EndsIn (.syncTimeout t) s (Failed t.val 4 s)) ∧
    (traceState s t.val ≠ 3 → exec (.syncTimeout t) s = .next s) ∧
    (∀ (l : Fin 64) (now : Nat), fbit s Fld.LANE_STATUS_LOCKED l.val = true → fld s Fld.LANE_CFG_MODE l.val ≠ 1 → exec (.laneLoss l now) s =
      .next (selectRef (countFld Fld.LANE_ERR_LOCK_LOSS l.val (clrBit Fld.LANE_STATUS_LOCKED l.val s)))) ∧
    (∀ (l m : Fin 64) (now : Nat), fbit s Fld.LANE_STATUS_LOCKED l.val = true → fld s Fld.LANE_CFG_MODE l.val = 1 → fld s Fld.LANE_STATUS_TRACE l.val = t.val →
      traceUp s t.val = true → fbit s Fld.LANE_STATUS_EXCLUDED l.val = false → fbit s Fld.LINK_CTRL_RESTRIPE_EN = true →
      fbit s Fld.TRACE_CFG_RESTRIPE_OK t.val = true → m ≠ l → m.val ∈ traceLanes s t.val → fbit s Fld.LANE_STATUS_LOCKED m.val = true →
      fbit s Fld.LANE_STATUS_EXCLUDED m.val = false → EndsIn (.laneLoss l now) s (fun y => ∃ a, y = selectRef a ∧ fld a Fld.LANE_STATUS_LOCKED l.val = 0 ∧
        fld a Fld.LANE_STATUS_EXCLUDED l.val = 1 ∧ traceState a t.val = 5 ∧ a.evtWait = s.evtWait ++ [⟨0x70, s.frame, l.val, t.val, none⟩] ∧
        ∃ k, s.frame < k ∧ (traceOf a t.val).rxPend = some (goodMask a t.val, k) ∧ .restripe (goodMask a t.val) k ∈ (traceOf a t.val).lcps)) ∧
    (∀ (l : Fin 64) (inv : Bool) (k : Fin 10), fld s Fld.LANE_CFG_MODE l.val = 1 ∨ fld s Fld.LANE_CFG_MODE l.val = 2 → EndsIn (.laneLock l inv k) s (fun y =>
      fld y Fld.LANE_STATUS_LOCKED l.val = 1 ∧ fld y Fld.LANE_STATUS_RX_INVERTED l.val = bnat inv ∧ smapGet (fun _ => 0) y.comma l.val = k.val ∧
      (fld s Fld.LANE_CFG_MODE l.val = 1 → fld s Fld.LANE_STATUS_TRACE l.val = t.val → traceState s t.val = 1 →
        traceState y t.val = if allLocked y t.val then 2 else 1))) ∧
    (∀ (l : Fin 64) (now : Nat), fld s Fld.LANE_CFG_MODE l.val = 1 → fld s Fld.LANE_STATUS_TRACE l.val = t.val → fbit s Fld.LINK_CTRL_RETURN_EN = true →
      fbit s Fld.LANE_STATUS_EXCLUDED l.val = true → fbit s Fld.LANE_STATUS_LOCKED l.val = true → traceUp s t.val = true →
      EndsIn (.laneReturn l now) s (fun y => traceState y t.val = 5 ∧ ∃ k, s.frame < k ∧
        (traceOf y t.val).rxPend = some (maskOf (mapLane x t.val l.val :: bitList 8 (goodMask s t.val)), k))) ∧
    (∀ (c : List Byte) (now : Nat), lcpIs 4 c = true → traceUp s t.val = true → x.txPend ≠ some (rd c 1 1, rd c 2 8) → s.frame < rd c 2 8 → rd c 1 1 ≠ 0 →
      (microBefore s (rd c 2 8) now = true → exec (.restripe t [c] now) s =
        .next (setTraceState t.val 5 (setTrace t.val { x with txPend := some (rd c 1 1, rd c 2 8) } s))) ∧
      (microBefore s (rd c 2 8) now = false → EndsIn (.restripe t [c] now) s (Failed t.val 7 s))) ∧
    (∀ (m now : Nat) (idx : List (Nat × Option Nat)), traceState s t.val = 3 → x.rxPend = none → x.marker = some m → markerLanes s t.val idx ≠ [] →
      (∀ g ∈ markerLanes s t.val idx, g = some (m + 1)) →
      (x.synced = 0 → EndsIn (.frameMarkerRx t idx now) s (fun y => ∃ a, y = teamMarker t.val (m + 1) true a ∧ traceState a t.val = 3 ∧
        (traceOf a t.val).marker = some (m + 1) ∧ (traceOf a t.val).synced = 1)) ∧
      (x.synced = 1 → EndsIn (.frameMarkerRx t idx now) s (fun y => ∃ a, y = teamMarker t.val (m + 1) true (teamUpdate a) ∧ traceState a t.val = 4 ∧
        (traceOf a t.val).marker = some (m + 1) ∧ (traceOf a t.val).job = none))) ∧
    (∀ (m now : Nat) (idx : List (Nat × Option Nat)), traceUp s t.val = true → x.marker = some m → 2 ≤ x.miss → some (m + 1) ∉ markerLanes s t.val idx →
      EndsIn (.frameMarkerRx t idx now) s (Failed t.val 9 s)) ∧
    (∀ (c : List Byte) (skew : Nat), lcpIs 0 c = true → traceUp s t.val = true → EndsIn (.train t [(t.val, c)] skew none) s (Failed t.val 8 s)) ∧
    (∀ (c : List Byte) (skew : Nat), lcpIs 0 c = true → traceState s t.val = 2 → rd c 1 1 / 8 % 16 ≠ traceWidth s t.val →
      EndsIn (.train t [(t.val, c)] skew none) s (fun y => fld y Fld.TRACE_STATE_LAST_FAIL t.val = 2 ∧ fld y Fld.TRACE_PEER_PEER t.val = rd c 3 3 % 2 ^ 18 ∧
        traceState y t.val = 2 ∧ (traceOf y t.val).ready = 0 ∧ (traceOf y t.val).checked = false)) ∧
    (∀ (c : List Byte) (skew : Nat), lcpIs 0 c = true → traceState s t.val = 2 → traceWidth s t.val = 1 → fld s Fld.TRACE_CFG_KIND t.val = 1 →
      rd c 1 1 / 8 % 16 = 1 → 128 ≤ rd c 1 1 → rd c 2 1 % 8 = fld s Fld.TRACE_CFG_RATE t.val → rd c 2 1 / 8 % 4 = 1 → skew ≤ 32 → 1 ≤ x.ready → x.mapping = [] →
      x.want = 0xFFFFFFFF ∨ x.want = rd c 3 3 % 2 ^ 18 → EndsIn (.train t [(t.val, c)] skew none) s (fun y => traceState y t.val = 3 ∧
        (traceOf y t.val).checked = true ∧ (traceOf y t.val).mapping = [(t.val, rd c 1 1 % 8)] ∧
        ∀ vc < 4, (vcOf (traceOf y t.val) vc).limit = 8 * rd c (6 + vc) 1)) ∧
    (∀ (h : Nat) (j : JobRec), x.job = some h → jobOf s h = some j → j.state = 0 → EndsIn (.traceUpTimeout t) s (fun y =>
      (traceOf y t.val).job = none ∧ traceState y t.val = traceState s t.val ∧ ∃ k, jobOf y h = some k ∧ k.state = 2 ∧ k.final = 0x61)) ∧
    (∀ inRegion, traceUp s t.val = true → fld s Fld.TRACE_CFG_KIND t.val = 1 → EndsIn (.elasticSlip t inRegion) s (fun y =>
      fld y Fld.TRACE_FLAGS_SLIP t.val = 1 ∧ fld y Fld.LINK_GSTATUS_SLIP_STICKY = 1 ∧ (traceOf y t.val).slip = (inRegion || x.slip)))

/-- Packets and regions on a trace in UP (R332–R335, R338–R344, R355). -/
def Obligations.TracePackets : Prop :=
  ∀ (t : Fin 64) (s : State),
    let x := traceOf s t.val
    let dueAll (l : List SentPkt) : List SentPkt := l.map (fun q => { q with due := true })
    (∀ (c : List Byte) (n : Nat), traceUp s t.val = true → lcpIs 1 c = true → ackedBy x ((rd c 2 2 + 1) % 4096) = some n →
      EndsIn (.ack t c) s (fun y => (traceOf y t.val).unacked = x.unacked.drop n)) ∧
    (∀ c : List Byte, traceUp s t.val = true → ackedBy x ((rd c 2 2 + 1) % 4096) = none → exec (.ack t c) s = .next s) ∧
    (∀ (c : List Byte) (n : Nat), traceUp s t.val = true → lcpIs 2 c = true → ackedBy x (rd c 2 2 % 4096) = some n →
      (∀ p ∈ x.unacked, p.replays < 4 ∧ p.waited < 20000) → EndsIn (.nak t c) s (fun y => (traceOf y t.val).unacked = dueAll (x.unacked.drop n))) ∧
    (∀ c : List Byte, traceUp s t.val = true → lcpIs 3 c = true → EndsIn (.credit t c) s (fun y => ∀ vc < 4,
      let v := vcOf x vc
      let d := (rd c (4 + 2 * vc) 2 + 65536 - v.limit % 65536) % 65536
      vcOf (traceOf y t.val) vc = { v with limit := v.limit + if d < 32768 then d else 0 })) ∧
    (∀ (now : Nat) (p : SentPkt) (rest : List SentPkt), traceUp s t.val = true → frozen x now = false → x.unacked = p :: rest → p.replays = 0 → p.waited < 20000 →
      exec (.replayTimer t now) s = .next (setTrace t.val { x with unacked := dueAll x.unacked } (setTrace t.val x s))) ∧
    (∀ (now : Nat) (p : SentPkt) (rest : List SentPkt), traceUp s t.val = true → frozen x now = false → x.unacked = p :: rest → 4 ≤ p.replays →
      EndsIn (.replayTimer t now) s (Failed t.val 5 s)) ∧
    (traceUp s t.val = true → x.accepts ≠ 0 → EndsIn (.ackTimer t) s (fun y => .ack ∈ (traceOf y t.val).lcps ∧ (traceOf y t.val).accepts = 0)) ∧
    (∀ (b : List Byte) (now : Nat), traceUp s t.val = true → dataOk b = true → rd b 2 2 % 4096 = x.rxSeq → rd b 0 1 % 4 = 0 →
      rd b 4 4 % 2 ^ 18 = ownEndpoint s → testBit (rd b 17 1) 0 = false → EndsIn (.dataPacketRx t b false now) s (fun y =>
        (traceOf y t.val).rxSeq = (x.rxSeq + 1) % 4096 ∧ (traceOf y t.val).nakSent = false ∧
        (vcOf (traceOf y t.val) 0).accepted = (vcOf x 0).accepted + creditsOf (rd b 12 2) ∧
        y.rxq = s.rxq ++ [⟨.trace (rd b 8 4 % 2 ^ 18), ⟨t.val, none, x.epoch⟩, (b.drop 16).take (rd b 12 2)⟩])) ∧
    (∀ (b : List Byte) (now : Nat), traceUp s t.val = true → dataOk b = false → x.nakSent = false → EndsIn (.dataPacketRx t b false now) s (fun y =>
      (traceOf y t.val).nakSent = true ∧ .nak ∈ (traceOf y t.val).lcps ∧ (traceOf y t.val).rxSeq = x.rxSeq ∧ y.rxq = s.rxq)) ∧
    (∀ (now : Nat) (l : LcpDue) (rest : List LcpDue) (poison : Bool), s.txq = [] → (mirrorTrace s ≠ some t.val ∨ s.pair.copy = none) → 3 ≤ traceState s t.val → x.lcps = l :: rest → exec (.packetTx t poison now) s =
      .next { setTrace t.val { x with lcps := rest } s with sent := .lcp t.val (lcpSeal (lcpBody x l)) :: s.sent }) ∧
    (∀ (now : Nat) (p : LinkPkt) (poison : Bool), s.txq = [] → (mirrorTrace s ≠ some t.val ∨ s.pair.copy = none) → traceUp s t.val = true → x.lcps = [] → (∀ q ∈ x.unacked, q.due = false) →
      nextNew s t.val = some (p, none) → p.vc ≠ 2 → p.origin = none → EndsIn (.packetTx t poison now) s (fun y =>
        y.sent = .data t.val poison (dataBytes p x.txSeq) :: s.sent ∧ (traceOf y t.val).txSeq = (x.txSeq + 1) % 4096 ∧
        (traceOf y t.val).unacked = x.unacked ++ [⟨x.txSeq, p, poison, false, 0, 0, now⟩] ∧ (traceOf y t.val).queue = x.queue.erase p ∧
        (vcOf (traceOf y t.val) p.vc).used = (vcOf x p.vc).used + creditsOf p.payload.length)) ∧
    (traceUp s t.val = true → sendsRegion s t.val = true → x.txFrame ≠ some s.frame → 2 ≤ s.frame → mirrorTrace s ≠ some t.val →
      fld s Fld.TRACE_CFG_KIND t.val = 1 → txEntries s t.val false ≠ [] → txEntries s t.val true = [] →
      exec (.regionTx t) s = .next { setTrace t.val { x with txFrame := some s.frame } s with
        sent := .region t.val (sectionSeal ((txEntries s t.val false).flatMap (fun e =>
          sampleBytes (fld s Fld.TRACE_CFG_SFMT t.val) (outOf s (0x1000 + fld s Fld.TX_SLOT_QCH e)).present))) [] :: s.sent }) ∧
    (x.txFrame = some s.frame → exec (.regionTx t) s = .next s) ∧
    (∀ (k now e : Nat) (v : S48) (b : List Byte), traceUp s t.val = true → x.marker = some (k + 1) → x.rxFrame ≠ some (k + 1) → mirrorTrace s ≠ some t.val →
      fld s Fld.TRACE_CFG_KIND t.val = 0 → x.streams = none → rxEntries s t.val false = [e] → rxEntries s t.val true = [] → e < 2048 →
      fbit s Fld.RX_SLOT_EN e = true → rxMates s e = [e] → sectionPass (fld s Fld.TRACE_CFG_SFMT t.val) 1 b = some [v] → (rxCellOf s e).next ≤ k →
      EndsIn (.regionRx t b [] [] now) s (fun y => rxCellOf y e = ⟨v, 0, k + 1, []⟩ ∧ (traceOf y t.val).rxFrame = some (k + 1)))

/-- Commands of lanes and traces (R264, R286, R323, R329, R350–R352). -/
def Obligations.LinkCommands : Prop :=
  ∀ (r : Req) (s : State),
    let a := served s
    let t := pb r 0
    (∀ (h w : Nat), Served 0x800 r s → Shape r 20 [1, 2, 3, 9, 10, 11, 18, 19] → t ≤ 63 → pb r 4 = w → (w = 1 ∨ w = 2 ∨ w = 4 ∨ w = 8) → t % w = 0 →
      pb r 5 ≤ 6 → pb r 6 ≤ 2 → pb r 7 ≤ 1 → pb r 8 ≤ 2 → (pb r 6 = 1 ∨ pb r 8 = 0) → (rd r.payload 12 4 < 2 ^ 18 ∨ rd r.payload 12 4 = 0xFFFFFFFF) →
      1 ≤ rd r.payload 16 2 → rd r.payload 16 2 ≤ 10000 → (∀ i < w, fld s Fld.LANE_CFG_MODE (t + i) = 0) → JobRoom h s →
      EndsIn (.traceUp r h) s (Replied r (accepted h) (fun y => traceState y t = 1 ∧ traceWidth y t = w ∧ fld y Fld.TRACE_CFG_KIND t = pb r 6 ∧
        fld y Fld.TRACE_CFG_RATE t = pb r 5 ∧ fld y Fld.TRACE_CFG_SFMT t = pb r 8 ∧ fld y Fld.TRACE_CFG_RESTRIPE_OK t = pb r 7 ∧
        (traceOf y t).job = some h ∧ (traceOf y t).want = rd r.payload 12 4 ∧ y.jobs = s.jobs ++ [newJob h r s (.trace t)] ∧
        ∀ i < w, fld y Fld.LANE_CFG_MODE (t + i) = 1 ∧ fld y Fld.LANE_CFG_RATE (t + i) = pb r 5 ∧ fld y Fld.LANE_STATUS_TRACE (t + i) = t))) ∧
    (Served 0x801 r s → Shape r 4 [1, 2, 3] → t ≤ 63 → traceState s t ≠ 0 → traceReserved s t = false →
      (traceUp s t = false ∨ (inTeam s = false ∧ mirrorTrace s ≠ some t ∧ s.pair.wait = none)) → t % traceWidth s t = 0 →
      EndsIn (.traceDown r) s (Replied r (ok []) (fun y => traceState y t = 0 ∧ fld y Fld.TRACE_STATE_LAST_FAIL t = 11 ∧ (traceOf y t).job = none ∧
        (traceOf y t).queue = [] ∧ ∀ l ∈ traceLanes s t, fld y Fld.LANE_CFG_MODE l = 0 ∧ fld y Fld.LANE_STATUS_LOCKED l = 0))) ∧
    (Served 0x804 r s → Shape r 4 [1, 2, 3] → t ≤ 63 → traceState s t ≠ 0 → exec (.linkStatus r) s = .next (answer r (ok (traceBytes a t)) a)) ∧
    (∀ l : Fin 64, Served 0x802 r s → Shape r 12 [10, 11] → rd r.payload 0 8 = 2 ^ l.val → pb r 8 ∈ [7, 15, 23, 31] → pb r 9 ≤ 3 →
      fld s Fld.LANE_CFG_MODE l.val = 0 ∨ fld s Fld.LANE_CFG_MODE l.val = 4 → exec (.prbsRun r) s = .next (answer r (ok [])
        (setFld Fld.LANE_CFG_MODE l.val (if pb r 9 = 0 then 0 else 4) (setPrbs l.val ⟨pb r 8, testBit (pb r 9) 0, testBit (pb r 9) 1, false, 0, 0⟩ a)))) ∧
    (∀ l : Fin 64, fld s Fld.LANE_CFG_MODE l.val = 4 → (prbsOf s l.val).check = true →
      exec (.prbsLock l) s = .next (setPrbs l.val { prbsOf s l.val with lock := true } s)) ∧
    (∀ bits errors, Served 0x803 r s → Shape r 4 [1, 2, 3] → t ≤ 63 → (prbsOf s t).lock = true → exec (.prbsRead r bits errors) s =
      .next (answer r (ok ([1, 0, 0, 0] ++ beBytes 8 (((prbsOf s t).bits + bits) % 2 ^ 64) ++ beBytes 8 (((prbsOf s t).errors + errors) % 2 ^ 64)))
        (setPrbs t { prbsOf s t with bits := ((prbsOf s t).bits + bits) % 2 ^ 64, errors := ((prbsOf s t).errors + errors) % 2 ^ 64 } a))) ∧
    (∀ (l : Fin 16) (f : List Byte) (now : Nat), fld s Fld.LANE_CFG_MODE l.val = 2 →
      exec (.ethFrameRx l f false now) s = .next (countFld Fld.LANE_ETH_FCS_ERR l.val s) ∧
      (f.length < 14 → exec (.ethFrameRx l f true now) s = .next (countFld Fld.LANE_ETH_RX_DROP l.val s)) ∧
      (14 ≤ f.length → f.length ≤ 1518 → rd f 12 2 = 0x8808 → exec (.ethFrameRx l f true now) s = .next s) ∧
      (14 ≤ f.length → f.length ≤ 1518 → rd f 12 2 = 0x88F7 → fld s Fld.NET_ETH_TYPE_ETH_TYPE ≠ 0x88F7 → exec (.ethFrameRx l f true now) s =
        .next { s with timeq := s.timeq ++ [⟨64 + l.val, f.drop 14, now⟩] }) ∧
      (14 ≤ f.length → f.length ≤ 1518 → rd f 12 2 ∉ [0x8100, 0x8808, 0x0800, 0x0806, 0x88F7, fld s Fld.NET_ETH_TYPE_ETH_TYPE] →
        exec (.ethFrameRx l f true now) s = .next (countFld Fld.LANE_ETH_RX_DROP l.val s))) ∧
    (s.ledger.pend = none → EndsIn (.auditStep false) s (fun y => y.ledger.pend = some (s.ledger.snap, s.ledger.snapFrame) ∧ y.seqPend = s.seqSnap ∧
      fld y Fld.SLEDGER_STATUS_AUDIT_RUN = 1 ∧ y.ledger.cur = s.ledger.cur ∧ y.evtWait = s.evtWait)) ∧
    (∀ m b, s.ledger.pend = some (m, b) → (∀ k ∈ smapKeys m, diffOf (streamOf m k) = 0) →
      (∀ c ∈ s.seqPend, c.count % 2 ^ 32 = c.exec + c.gapLoss + c.empty + c.reset) → exec (.auditStep true) s = .next (clrBit Fld.SLEDGER_STATUS_AUDIT_RUN 0
        { s with ledger := { s.ledger with aud := m, audFrame := b, pend := none }, seqAud := s.seqPend, seqAudFrame := b, seqPend := [] })) ∧
    (∀ m b k, s.ledger.pend = some (m, b) → smapKeys m = [k] → diffOf (streamOf m k) ≠ 0 → s.seqPend = [] → EndsIn (.auditStep true) s (fun y =>
      fld y Fld.SLEDGER_STATUS_UNACCOUNTED = 1 ∧ ∃ d, y.evtWait = s.evtWait ++ [⟨0x06, b, k % 2 ^ 32, d, none⟩])) ∧
    (∀ v, Served 0x502 r s → Shape r 4 [1] → pb r 0 = 2 → rd r.payload 2 2 < 256 → v = vcOf (traceOf s (rd r.payload 2 2 / 4)) (rd r.payload 2 2 % 4) →
      exec (.ledgerRead r) s = .next (answer r (ok (beBytes 8 s.frame ++ [vcSize (rd r.payload 2 2 % 4), v.limit, v.used, v.acked, v.accepted, v.freed,
        v.lost, v.uncorr, v.partner, v.audits].flatMap (beBytes 8))) a))

/-- Herds and teams (R354, R357–R359, R361–R363). -/
def Obligations.HerdsAndTeams : Prop :=
  ∀ (r : Req) (s : State),
    let a := served s
    let own := ownEndpoint s
    let others (ids : List Nat) : List Nat := ids.filter (fun e => decide (e ≠ own))
    let arrived (kind : Nat) (m : MgmtRec) : Prop := s.mgmt.find? (fun m => decide (m.kind = kind)) = some m
    let rest (m : MgmtRec) : State := { s with mgmt := s.mgmt.erase m }
    (∀ m t, arrived 1 m → m.body.length = 24 → m.trace = some t → isBridge s t = false → herdOf (rd m.body 0 4) = herdOf own → rd m.body 0 4 ≠ own →
      routeOf s (rd m.body 0 4) = none → EndsIn .announce s (fun y => ∃ b, y = teamJobCheck (teamUpdate b) ∧ b.mgmt = s.mgmt.erase m ∧
        routeOf b (rd m.body 0 4) = some ⟨rd m.body 4 4, [(t, rd m.body 8 1)], rd m.body 9 1, rd m.body 10 1, rd m.body 11 1, rd m.body 12 4, rd m.body 16 1⟩ ∧
        (rd m.body 8 1 < 32 → ∀ u ∈ announceTraces s, u ≠ t → ⟨3, fld s Fld.TRACE_PEER_PEER u, own,
          recordBytes 1 (m.body.take 8 ++ beBytes 1 (rd m.body 8 1 + 1) ++ m.body.drop 9), none⟩ ∈ (traceOf b u).queue))) ∧
    (∀ m, arrived 1 m → m.body.length = 24 → m.trace = none → rd m.body 0 4 = own → s.annCount < rd m.body 4 4 →
      exec .announce s = .next (setBit Fld.HERD_STATUS_DUP_ID 0 (rest m))) ∧
    EndsIn .announcePeriod s (fun y => y.annCount = (s.annCount + 1) % 2 ^ 32 ∧ ∀ t ∈ announceTraces s, ⟨3, fld s Fld.TRACE_PEER_PEER t, own,
      recordBytes 1 (announceBody s ((s.annCount + 1) % 2 ^ 32)), none⟩ ∈ (traceOf y t).queue) ∧
    (∀ ep x, routeOf s ep = some x → EndsIn (.memberLoss ep) s (fun y => ∃ b, y = teamUpdate b ∧ routeOf b ep = none ∧
      (∀ e, e ≠ ep → routeOf b e = routeOf s e) ∧ (ep ∈ s.team → b.evtWait = s.evtWait ++ [⟨0xB2, s.frame, ep % 2 ^ 32, 0, none⟩]))) ∧
    (∀ h ids, Served 0xB00 r s → 2 ≤ pb r 0 → pb r 0 ≤ 16 → Shape r (4 + 4 * pb r 0) [1, 2, 3] → s.mode = .configure → ids = readIds (pb r 0) (r.payload.drop 4) →
      ids.Nodup → own ∈ ids → (∀ e ∈ ids, herdOf e = herdOf own) → JobRoom h s → exec (.teamForm r h) s = .next (answer r (accepted h)
        ((others ids).foldl (fun y e => sendRecord e 2 (teamBody ids) y) (joinTeam ids { a with jobs := s.jobs ++ [newJob h r s (.team ids [])] })))) ∧
    (∀ ids, ∃ b, joinTeam ids s = (others ids).foldl (fun y e => openOwn e y) (teamUpdate b) ∧ b.team = ids ∧ inTeam b = true) ∧
    (Served 0xB01 r s → r.payload = [] → s.mode = .configure → exec (.teamLeave r) s = .next (answer r (ok []) (leaveTeam a)) ∧
      ∃ b, leaveTeam a = herdUpdate (selectRef b) ∧ b.team = [] ∧ inTeam b = false) ∧
    (Served 0xB04 r s → r.payload = [] → exec (.teamStatus r) s = .next (answer r (ok (teamBytes a)) a)) ∧
    (∀ m x, arrived 2 m → routeOf s m.src = some x → x.fs = s.fs → herdOf m.src = herdOf own → 2 ≤ rd m.body 0 1 → rd m.body 0 1 ≤ 16 →
      m.body.length = 4 + 4 * rd m.body 0 1 → own ∈ readIds (rd m.body 0 1) (m.body.drop 4) →
      (s.mode = .configure → exec .team s = .next (sendRecord m.src 3 (beBytes 4 (ownEndpoint (joinTeam (readIds (rd m.body 0 1) (m.body.drop 4)) (rest m))) ++
        [0, 0, 0, 0]) (joinTeam (readIds (rd m.body 0 1) (m.body.drop 4)) (rest m)))) ∧
      (s.mode ≠ .configure → exec .team s = .next (sendRecord m.src 3 (beBytes 4 own ++ [0, 0x23, 0, 0]) (rest m)))) ∧
    (∀ m j ids acked, arrived 3 m → teamJob s = some (j, ids, acked) → rd m.body 0 4 ∈ ids →
      (rd m.body 4 2 = 0 → exec .teamAck s = .next (teamJobCheck
        (setJob { j with work := .team ids (rd m.body 0 4 :: acked.filter (fun x => decide (x ≠ rd m.body 0 4))) } (rest m)))) ∧
      (rd m.body 4 2 ≠ 0 → exec .teamAck s = .next (leaveTeam (endJob j.handle 2 (rd m.body 4 2) 0 0 (rest m))))) ∧
    (∀ ep j ids acked, teamJob s = some (j, ids, acked) → ep ∈ ids → ep ≠ own → ep ∉ acked →
      exec (.teamFormTimeout ep) s = .next (leaveTeam (endJob j.handle 2 0x31 ep 0 s))) ∧
    (∀ m t, arrived 5 m → m.trace = some t → rd m.body 8 2 = 1 → EndsIn .streamList s (fun y => y.mgmt = s.mgmt.erase m ∧
      (traceOf y t).streams = some (rd m.body 0 8, [(rd m.body 12 2, rd m.body 14 2, testBit (rd m.body 16 1) 0)])))

/-- The clock system (R136, R296, R380–R402). -/
def Obligations.ClockCommands : Prop :=
  ∀ (r : Req) (s : State),
    let a := served s
    let active := fld s Fld.CLK_STATUS_ACTIVE
    (Served 0x900 r s → Shape r 4 [1, 2, 3] → pb r 0 ≤ 7 → s.mode = .configure → compileRunning s = none → EndsIn (.fsSet r) s (Replied r (ok []) (fun b =>
      b.fs = pb r 0 ∧ fld b Fld.ENGINE_MODE_FS = pb r 0 ∧ ∀ o < 16, fld b Fld.CLKOUT_STATUS_ALIGNED o = 0))) ∧
    (Served 0x900 r s → Shape r 4 [1, 2, 3] → pb r 0 ≤ 7 → s.mode ≠ .configure → exec (.fsSet r) s = .next (answer r ⟨0x23, 0, modeCode s.mode, []⟩ a)) ∧
    (Served 0x901 r s → Shape r 4 [2, 3] → pb r 0 ≤ 1 → pb r 1 ≤ 9 → fbit s Fld.CLK_CAND_EN (pb r 1) = true → exec (.refSelect r) s =
      .next (answer r (ok []) (selectRef (setFld Fld.CLK_CTRL_FORCED 0 (pb r 0) (setFld Fld.CLK_CTRL_FORCE_CAND 0 (pb r 1) a))))) ∧
    (∀ (n : Fin 10) (o : BitVec 16), let b := setFld Fld.CLK_CAND_STATUS_FOFFS n.val o.toNat s
      (refHolds s n.val = true → fbit s Fld.CLK_CAND_STATUS_VALID n.val = true → exec (.refValid n o) s = .next b) ∧
      (refHolds s n.val = false → exec (.refValid n o) s = .next s) ∧
      (refHolds s n.val = true → fbit s Fld.CLK_CAND_STATUS_VALID n.val = false → exec (.refValid n o) s =
        .next (selectRef (setFld Fld.CLK_CAND_STATUS_VALID n.val 1 (setFld Fld.CLK_CAND_STATUS_QUALIFYING n.val 1 b))))) ∧
    (∀ n : Fin 10, n.val ≠ 9 → fbit s Fld.CLK_CAND_STATUS_VALID n.val = true → exec (.refInvalid n) s = .next (selectRef
      (setFld Fld.CLK_CAND_STATUS_FOFFS n.val 0x8000 (setFld Fld.CLK_CAND_STATUS_VALID n.val 0 (setFld Fld.CLK_CAND_STATUS_QUALIFYING n.val 0 s))))) ∧
    exec (.refInvalid 9) s = .next s ∧
    (∀ n : Fin 10, fbit s Fld.CLK_CAND_STATUS_VALID n.val = true → fbit s Fld.CLK_CAND_STATUS_QUALIFYING n.val = true →
      exec (.refQualified n) s = .next (selectRef (setFld Fld.CLK_CAND_STATUS_QUALIFYING n.val 0 s))) ∧
    (∀ (f p : BitVec 32) (raw : Nat), fld s Fld.CLK_STATUS_DPLL = 1 → active < 9 → active ≠ 4 → active ≠ 5 → s.fromFree = false → exec (.dpllLock f p raw) s =
      .next (teamJobCheck (lockFollow (setFld Fld.CLK_STATUS_DPLL 0 2 (setFld Fld.DPLL_FREQ_FREQ 0 f.toNat
        (setFld Fld.DPLL_PHASE_PHASE 0 (if phaseAligned s active then p.toNat else 0) s)))))) ∧
    (∀ f p : BitVec 32, fld s Fld.CLK_STATUS_DPLL = 2 → exec (.dpllLockLoss f p) s = .next (lockFollow (setFld Fld.CLK_STATUS_DPLL 0 1
      (setFld Fld.DPLL_FREQ_FREQ 0 f.toNat (setFld Fld.DPLL_PHASE_PHASE 0 (if phaseAligned s active then p.toNat else 0) s))))) ∧
    (∀ f : BitVec 32, fld s Fld.CLK_STATUS_DPLL = 2 → EndsIn (.holdoverHistorySample f) s (fun y => y.history = (f.toInt :: s.history).take 2610 ∧
      fld y Fld.DPLL_FREQ_FREQ = f.toNat ∧ Untouched (regsOf [(Fld.DPLL_FREQ_FREQ, 0), (Fld.HO_HISTORY_SECONDS, 0)]) s y)) ∧
    (∀ (m : TimeMsg) (raw : Nat), s.timeq.find? (fun m => decide (m.port < 64 ∧ rd m.bytes 0 1 = 2)) = some m →
      let d := rd m.bytes 1 1
      let b := { s with timeq := s.timeq.erase m }
      let k := rd (m.bytes.drop 4) 0 8
      let t := timeJoin (rd (m.bytes.drop 4) 8 6) (rd (m.bytes.drop 4) 14 4) (rd (m.bytes.drop 4) 18 2)
      ((portOfDom s d m.port).st ≠ 2 → exec (.frameMap raw) s = .next b) ∧
      (d ≤ 1 → (portOfDom s d m.port).st = 2 → mayAdopt s d = true → rd (m.bytes.drop 4) 20 1 = s.fs → fbit s Fld.TIME_STATUS_ROOT d = false →
        exec (.frameMap raw) s = .next (adoptMap d k t raw b)) ∧
      (boundaryAt s.fs k t (domAt (domOf s d) raw) < s.frame → adoptMap d k t raw b = setBit Fld.CLK_STATUS_EPOCH_AHEAD 0 b)) ∧
    (∀ raw, exec (.timeSnap false raw) s = .next s ∧ EndsIn (.timeSnap true raw) s (fun y => fld y Fld.RAW_NS_LO_NS_LO = raw / 65536 % 2 ^ 32 ∧
      fld y Fld.RAW_SUBNS_SUBNS = raw % 65536 ∧ fld y Fld.A_NS_NS = (timeParts (domAt s.domA raw)).2.1 ∧ fld y Fld.B_NS_NS = (timeParts (domAt s.domB raw)).2.1 ∧
      fld y Fld.SNAP_FRAME_LO_FRAME_LO = s.frame % 2 ^ 32 ∧ y.mem = s.mem)) ∧
    (∀ raw, Served 0x902 r s → Shape r 4 [1, 2, 3] → pb r 0 ≤ 2 → exec (.timeRead r raw) s = .next (answer r (ok
      (beBytes 6 (timeParts (readingOf s (pb r 0) raw)).1 ++ beBytes 4 (timeParts (readingOf s (pb r 0) raw)).2.1 ++
        beBytes 2 (timeParts (readingOf s (pb r 0) raw)).2.2 ++ beBytes 8 s.frame)) a)) ∧
    (∀ (raw : Nat) (d : Fin 2), Served 0x903 r s → Shape r 12 [2, 3] → pb r 0 = d.val + 1 → hasSlave s d.val = false →
      (pb r 1 = 2 → fbit s Fld.PTP_CFG_STEP_EN d.val = true → EndsIn (.timeAdjust r raw) s (Replied r (ok []) (fun b =>
        domAt (domOf b d.val) raw = domAt (domOf s d.val) raw + signOf 64 (rd r.payload 4 8)))) ∧
      (pb r 1 = 1 → EndsIn (.timeAdjust r raw) s (Replied r (ok []) (fun b => domAt (domOf b d.val) raw = domAt (domOf s d.val) raw)))) ∧
    (∀ (raw : Nat) (t : Int), Served 0x904 r s → Shape r 24 [3] → pb r 0 ≤ 15 → pb r 1 = 0 → pb r 2 ≤ 2 → rd r.payload 10 4 < 10 ^ 9 →
      t = timeJoin (rd r.payload 4 6) (rd r.payload 10 4) (rd r.payload 14 2) → readingOf s (pb r 2) raw + 65536000000 ≤ t →
      exec (.pulseSchedule r raw) s = .next (answer r (ok []) (setPulse (pb r 0) (some ⟨pb r 2, t, none, t⟩) a))) ∧
    (∀ (o : Fin 16) (raw : Nat) (p : PulseSched), pulseOf s o.val = some p → p.next ≤ readingOf s p.dom raw → fld s Fld.CLKOUT_CFG_FUNC o.val = 4 →
      EndsIn (.scheduledPulse o raw) s (fun y => y.sent = .pulse o.val false :: s.sent ∧ pulseOf y o.val = pulseNext p (readingOf s p.dom raw))) ∧
    (∀ o : Fin 16, Served 0x905 r s → Shape r 12 [2, 3] → rd r.payload 0 2 = 2 ^ o.val → s.frame + 2 ≤ rd r.payload 4 8 →
      exec (.clkoutAlign r) s = .next (answer r (ok []) (setAlign o.val (some (rd r.payload 4 8)) a)))

/-- PTP messages and intervals (R393–R397). The layouts of IEEE 1588-2019, which the spec names and does not repeat, are the model's own (log entry 59). -/
def Obligations.TimeMessages : Prop :=
  ∀ (m : TimeMsg) (d : Fin 2) (s : State),
    let b : State := { s with timeq := [] }
    let p := m.port
    let x := portOfDom s d.val p
    let y := ptpBody m
    let use (i : Instr) (k : Nat) (t : State) : Prop := s.timeq = [m] → ptpIs k m = true → ptpDoms s m = [d.val] → exec i s = .next t
    let clock (raw : Int) : Int := domAt (domOf s d.val) raw
    let own := ownPortId s p
    (fromMaster s d.val m = true →
      (ptpTwoStep y = true → use .ptpSync 0 (setPtpPort d.val p { x with sync := some (ptpSeq y, stampIn s m, corrOf m) } b)) ∧
      (ptpTwoStep y = false → use .ptpSync 0 (servoMeasure d.val p (stampRead y 34 + corrOf m) (stampIn s m) (m.t * 65536 : Nat) b)) ∧
      (∀ r2 c, x.sync = some (ptpSeq y, r2, c) → use .followUp 8
        (servoMeasure d.val p (stampRead y 34 + c + corrOf m) r2 (m.t * 65536 : Nat) (setPtpPort d.val p { x with sync := none } b))) ∧
      (∀ r3 t1 r2, (y.drop 44).take 10 = own → x.req = some (ptpSeq y, r3) → (domOf s d.val).last = some (t1, r2) → use .delayResp 9
        (servoMeasure d.val p t1 r2 (m.t * 65536 : Nat) (setDelay d.val p ((clock r2 - t1 + (stampRead y 34 - corrOf m - clock r3)) / 2) b)))) ∧
    (fromMaster s d.val m = false → use .ptpSync 0 b ∧ use .followUp 8 b ∧ use .delayResp 9 b) ∧
    (x.st = 1 → peerDelay s d.val p = false → use .delayReq 1 (ptpSend d.val p (ptpMessage s d.val p 9 0 (corrOf m - clock (stampIn s m) % 65536) (ptpSeq y)
      (stampBytes (clock (stampIn s m)) ++ senderId y)) b)) ∧
    (p < 64 → use .pdelayReq 2 (ptpSend d.val p (ptpMessage s d.val p 3 0x0200 (corrOf m - clock (stampIn s m) % 65536) (ptpSeq y)
      (stampBytes (clock (stampIn s m)) ++ senderId y)) b)) ∧
    (∀ r1, (y.drop 44).take 10 = own → x.req = some (ptpSeq y, r1) →
      (ptpTwoStep y = true → use .pdelayResp 3 (setPtpPort d.val p { x with resp := some (ptpSeq y, stampRead y 34, stampIn s m, corrOf m) } b)) ∧
      (ptpTwoStep y = false → use .pdelayResp 3 (setDelay d.val p ((clock (stampIn s m) - clock r1 - corrOf m) / 2) b)) ∧
      (∀ t2 r4 c, x.resp = some (ptpSeq y, t2, r4, c) → use .pdelayRespFollowUp 10
        (setDelay d.val p ((clock r4 - clock r1 - (stampRead y 34 - t2) - c - corrOf m) / 2) b))) ∧
    (∀ (q : Nat) (v : Int), (portOfDom (setDelay d.val q v s) d.val q).delay = v) ∧
    (64 ≤ y.length → (annOf y).src ≠ clockIdentity s → (annOf y).steps < 255 → x.best = none →
      use .ptpAnnounce 11 (ptpDecide d.val 80 (setPtpPort d.val p { x with best := some (annOf y) } b))) ∧
    (∀ q : Fin 80, ptpEnabled s d.val q.val = true →
      let z := portOfDom s d.val q.val
      (z.st = 0 ∨ z.st = 3 → exec (.announceReceiptTimeout d q) s = .next (ptpDecide d.val q.val (setPtpPort d.val q.val { z with best := none } s))) ∧
      (z.st = 2 → exec (.announceReceiptTimeout d q) s =
        .next (ptpDecide d.val q.val (refBad (4 + d.val) (setPtpPort d.val q.val { z with best := none } s)))) ∧
      (z.st = 1 → exec (.announceReceiptTimeout d q) s = .next s) ∧
      (∀ raw, z.st = 1 → s.mode ≠ .configure → EndsIn (.syncInterval d q raw) s (fun t =>
        (portOfDom t d.val q.val).seqSync = (z.seqSync + 1) % 65536 ∧ (q.val < 64 → ∃ more, (traceOf t q.val).queue = (traceOf s q.val).queue ++
          ⟨2, fld s Fld.TRACE_PEER_PEER q.val, ownEndpoint s, [1, BitVec.ofNat 8 d.val, 0, 0] ++
            ptpMessage s d.val q.val 0 0x0200 0 ((z.seqSync + 1) % 65536) (List.replicate 10 0), none⟩ :: more))) ∧
      (z.st = 1 → EndsIn (.announceInterval d q) s (fun t => (portOfDom t d.val q.val).seqAnn = (z.seqAnn + 1) % 65536 ∧
        (q.val < 64 → (traceOf t q.val).queue.length = (traceOf s q.val).queue.length + 1) ∧ (64 ≤ q.val → t.sent.length = s.sent.length + 1))) ∧
      (∀ raw, z.st = 2 ∨ peerDelay s d.val q.val = true → EndsIn (.delayReqInterval d q raw) s (fun t =>
        (portOfDom t d.val q.val).seqReq = (z.seqReq + 1) % 65536 ∧
        (q.val < 64 → (traceOf t q.val).queue.length = (traceOf s q.val).queue.length + 1) ∧ (64 ≤ q.val → t.sent.length = s.sent.length + 1))))

/-- Amplifier channels (R165, R166, R404, R407–R418). -/
def Obligations.AmpStates : Prop :=
  ∀ (c : AmpId) (s : State),
    let x := ampOf s c.val
    (ampsLive s = true → ampHeld s c.val = true → exec (.ampSilence c) s = .next (setFld Fld.AMP_SIL_STATUS_SILENT c.val 1 s)) ∧
    (ampHeld s c.val = false → exec (.ampSilence c) s = .next s) ∧
    (ampHeld s c.val = true ↔ fld s Fld.AMP_SIL_CFG_HOLD c.val * 10 * fsHz s.fs ≤ x.quiet * 1000) ∧
    (∀ g : Fin 8, s.mode = .run → (∀ d ∈ ampGroup g.val, fbit s Fld.AMP_SIL_CFG_EN d = true ∧ fbit s Fld.AMP_SIL_STATUS_SILENT d = true ∧ ovrDest s d = false ∧
      (ampOf s d).test = none ∧ fbit s Fld.AMP_SIL_STATUS_ASLEEP d = false) → EndsIn (.groupPowerDown g) s (fun y =>
        ∀ d ∈ ampGroup g.val, fld y Fld.AMP_SIL_STATUS_ASLEEP d = 1 ∧ (ampState s d = 4 → ampState y d = 5 ∧ (ampOf y d).gain = 0))) ∧
    (∀ g : Fin 8, s.mode ≠ .run → exec (.groupPowerDown g) s = .next s) ∧
    (x.quiet ≠ 0 → exec (.ampWake c) s = .next s) ∧
    (ampsLive s = true → x.quiet = 0 → fbit s Fld.AMP_SIL_STATUS_ASLEEP c.val = false → exec (.ampWake c) s = .next (setFld Fld.AMP_SIL_STATUS_SILENT c.val 0 s)) ∧
    (ampsLive s = true → x.quiet = 0 → fbit s Fld.AMP_SIL_STATUS_ASLEEP c.val = true → EndsIn (.ampWake c) s (fun y => ∃ b, y = ampTrigger b ∧
      fld b Fld.AMP_SIL_STATUS_SILENT c.val = 0 ∧ ∀ d ∈ ampGroup (c.val / 4), fld b Fld.AMP_SIL_STATUS_ASLEEP d = 0 ∧ (ampOf b d).quick = true)) ∧
    (∀ g : Fin 8, EndsIn (.wakeSettleEnd g) s (fun y => y.regs = s.regs ∧ ∀ d ∈ ampGroup g.val, ampState s d = 2 → (ampOf y d).ready = true)) ∧
    (∀ f, ampsLive s = true → ampState s c.val = 2 → x.ready = true → (∀ d < 32, d ≠ c.val → ampState s d = 2 → (ampOf s d).ready = false) →
      fbit s Fld.AMP_GROUP_CFG_SYNC (c.val / 4) = false →
      searchFreq s false (fixedWindows s) (fld s Fld.AMP_FSW_FSW c.val) assignOffsets = some f → EndsIn .ampRelease s (fun y =>
        ampState y c.val = 3 ∧ fld y Fld.AMP_FSW_FSW_ACT c.val = f % 1024 ∧ fld y Fld.AMP_STATE_LOCKED c.val = 0 ∧ (ampOf y c.val).side = true ∧
        (ampOf y c.val).gain = 0 ∧ ∀ d < 32, d ≠ c.val → ampState y d = ampState s d)) ∧
    (ampsLive s = false → exec .ampRelease s = .next s) ∧
    (∀ meas, ampState s c.val = 3 → x.test = none → EndsIn (.carrierLock c meas) s (fun y => ampState y c.val = 4 ∧ fld y Fld.AMP_STATE_LOCKED c.val = 1 ∧
      fld y Fld.AMP_STATE_FSW_MEAS c.val = meas % 1024 ∧
      (ampOf y c.val).gain = (if gainWanted s c.val = false then 0 else if x.quick then 1 else 2))) ∧
    EndsIn .cleanStop s (fun y => (∀ d < 32, (ampOf s d).stopReq = true → (ampOf s d).test = none → ampState s d = 4 → ampState y d = 5 ∧
      (ampOf y d).stopReq = false ∧ (ampOf y d).gain = if (ampOf s d).gain = 1 ∨ (ampOf s d).gain = 2 then 3 else (ampOf s d).gain) ∧
      ∀ d < 32, (ampOf s d).stopReq = false → ampState y d = ampState s d) ∧
    (ampState s c.val ≠ 5 → exec (.muteRampEnd c) s =
      .next (setAmp c.val { x with gain := if x.gain = 2 then 1 else if x.gain = 3 then 0 else x.gain } s)) ∧
    (ampState s c.val = 5 → EndsIn (.muteRampEnd c) s (fun y => ∃ b, y = ampTrigger (if x.test.isSome then beginRelease false false c.val b else b) ∧
      ampState b c.val = (if ampEn s c.val then 1 else 0) ∧
      (ampOf b c.val).gain = 0 ∧ fld b Fld.AMP_STATE_LOCKED c.val = 0)) ∧
    (ampsLive s = true → EndsIn (.driverFault c) s (Faulted c.val 1 s)) ∧
    (fbit s Fld.AMP_CFG_ILIM_EN c.val = true → ampSwitching s c.val = true →
      exec (.currentLimit c) s = .next (setAmp c.val { x with side := !x.side } s) ∧ EndsIn (.shortFault c) s (Faulted c.val 2 s)) ∧
    (fbit s Fld.AMP_CFG_ILIM_EN c.val = false → exec (.currentLimit c) s = .next s ∧ exec (.shortFault c) s = .next s) ∧
    (fbit s Fld.AMP_CFG_DC_EN c.val = true → ampsLive s = true → EndsIn (.dcFault c) s (Faulted c.val 4 s)) ∧
    (ampSwitching s c.val = true → fbit s Fld.AMP_STATE_LOCKED c.val = true → ∀ carrier, EndsIn (.loopFault c carrier) s (Faulted c.val 3 s)) ∧
    (fbit s Fld.AMP_STATE_LOCKED c.val = false → exec (.loopFault c true) s = .next s)

/-- Limits, energy, diagnostics (R419–R427) and adaptive voltage (R36–R38, R466). -/
def Obligations.AmpLimits : Prop :=
  ∀ (c : AmpId) (r : Req) (s : State),
    let x := ampOf s c.val
    let a := served s
    let v (i : Nat) : Nat := rd r.payload (4 + 4 * i) 4
    (∀ w : Word32, ampsLive s = true →
      (s.reqLimit = false → EndsIn (.limitRegisterWrite c 5 w) s (fun y => y.reqLimit = true ∧ fld y Fld.AMP_GCTRL_REQUIRE_LIMIT = w.toNat % 2)) ∧
      (s.reqLimit = true → exec (.limitRegisterWrite c 5 w) s = .next (setFld Fld.AMP_GSTATUS_LOCK_VIOL 0 1 s)) ∧
      ∀ i : Fin 6, i.val < 5 →
        (testBit x.limDone i.val = true → exec (.limitRegisterWrite c i w) s = .next (setFld Fld.LIM_STATUS_LOCK_VIOL c.val 1 s)) ∧
        (testBit x.limDone i.val = false → limRange i.val w.toNat = false → exec (.limitRegisterWrite c i w) s = .next (setFld Fld.AMP_GSTATUS_CFG_ERR 0 1 s)) ∧
        (testBit x.limDone i.val = false → limRange i.val w.toNat = true → exec (.limitRegisterWrite c i w) s = .next (limStore c.val i.val w.toNat s))) ∧
    (∀ (i w : Nat), i < 5 → w < 2 ^ 32 → ∃ b, limStore c.val i w s = ampTrigger b ∧ (regWord b (limAddr c.val i)).toNat = (if i = 4 then w % 4 else w) ∧
      fld b Fld.LIM_STATUS_WRITTEN c.val = 1 ∧ testBit (ampOf b c.val).limDone i = true) ∧
    (Served 0xA02 r s → Shape r 24 [1, 2, 3, 21, 22, 23] → pb r 0 = c.val → (∀ i < 4, limRange i (v i) = true) → pb r 20 ≤ 3 →
      fbit s Fld.LIM_STATUS_WRITTEN c.val = false → exec (.ampLimitSet r) s = .next (answer r (ok []) (limStore c.val 4 (pb r 20)
        (limStore c.val 3 (v 3) (limStore c.val 2 (v 2) (limStore c.val 1 (v 1) (limStore c.val 0 (v 0) a))))))) ∧
    (∀ ps, ampsLive s = true → EndsIn (.energyBlock ps) s (fun y =>
      let blocks := (blockPower s c.val (ps.getD c.val 0) :: x.blocks).take 1000
      (ampOf y c.val).blocks = blocks ∧
      (fbit s Fld.LIM_STATUS_ARMED c.val = true → ampState s c.val = 4 → fld s Fld.LIM_P100_LIMIT c.val ≤ meanPower 100 blocks →
        ampState y c.val = 6 ∧ fld y Fld.LIM_STATUS_CUT c.val = 1 ∧ (ampOf y c.val).hold = true ∧ fld y Fld.AMP_FAULT_ENERGY_CUT c.val = 1) ∧
      (fbit s Fld.LIM_STATUS_ARMED c.val = false → ampState y c.val = ampState s c.val))) ∧
    (x.hold = true → fbit s Fld.LIM_CTRL_AUTO_RESTART c.val = false → exec (.energyCutHoldEnd c) s = .next (setAmp c.val { x with hold := false } s)) ∧
    (x.hold = true → fbit s Fld.LIM_CTRL_AUTO_RESTART c.val = true → ampState s c.val = 6 → fld s Fld.AMP_FAULT_CAUSE c.val = 5 →
      exec (.energyCutHoldEnd c) s = .next (ampTrigger (clearFault c.val (setAmp c.val { x with hold := false } s)))) ∧
    (∀ low : BitVec 32, Served 0xA03 r s → Shape r 4 [] → rd r.payload 0 4 = 2 ^ c.val → ampState s c.val = 6 → x.hold = false → testBit low.toNat c.val = false →
      exec (.ampFaultClear r low) s = .next (answer r (ok []) (ampTrigger (clearFault c.val a)))) ∧
    (ampState (clearFault c.val s) c.val = (if ampEn s c.val then 1 else 0) ∧ fld (clearFault c.val s) Fld.AMP_FAULT_CAUSE c.val = 0) ∧
    (∀ h, Served 0xA00 r s → Shape r 20 [5, 6, 7, 9, 10, 11] → rd r.payload 0 4 = 2 ^ c.val → pb r 4 = 2 → 20 ≤ pb r 8 → pb r 8 ≤ 60 →
      diagMay s c.val = true → ampState s c.val = 4 → JobRoom h s → EndsIn (.ampDiag r h) s (Replied r (accepted h) (fun b => ampState b c.val = 7 ∧
        (ampOf b c.val).test = some ⟨h, 2, [(40, 0, 0), (4000, 0, 0)], rd r.payload 12 4, rd r.payload 16 4, [], true⟩))) ∧
    (∀ (z : Word32) (p : BitVec 16) (i : Nat) (t : AmpTest) (f lo hi : Nat) (e : Nat × Nat × Nat) (rest : List (Nat × Nat × Nat)),
      x.test = some t → t.test = 1 → t.todo = (f, lo, hi) :: e :: rest → ampState s c.val = 7 → lo ≤ z.toNat → z.toNat ≤ hi → 10000 ≤ i →
      exec (.ampTestStep c z p i) s = .next (setAmp c.val { x with test := some { t with todo := e :: rest, done := t.done ++ [⟨f, z.toNat, p.toNat, 0, false⟩] } } s)) ∧
    (∀ d, Served 0xA01 r s → Shape r 4 [1, 2, 3] → pb r 0 = c.val → x.diag = some d →
      exec (.ampDiagRead r) s = .next (answer r (ok (ampDiagBytes c.val d)) a)) ∧
    (∀ dc, Served 0xA04 r s → Shape r 4 [1, 2, 3] → pb r 0 = c.val → exec (.ampStatus r dc) s = .next (answer r (ok (ampRecord a c.val dc)) a)) ∧
    (∀ low, s.mode = .run → avsFrames s ≤ s.fg.winFrames → fbit s Fld.AVS_CTRL_ENABLE = true → s.fg.winAbove = true →
      low = (if fbit s Fld.AVS_STATUS_TAP_FLOOR then max (avsMin s) avsCert else avsMin s) → EndsIn .avsWindowEnd s (fun y => y.fg.winFrames = 0 ∧
        y.fg.winAbove = true ∧ y.fg.setHalf = min s.fg.setHalf (max low (s.fg.setHalf - 5 * fld s Fld.AVS_CTRL_STEP_DOWN)))) ∧
    (s.fg.winFrames < avsFrames s → exec .avsWindowEnd s = .next s) ∧
    (∀ w, s.power.avsBusy = some w → w < 2048 → EndsIn (.avsPmbusWrite true) s (fun y => y.power.avsAcked = some w ∧ y.power.avsBusy = s.power.avsNext ∧
      y.power.avsNext = none ∧ fld y Fld.AVS_IF_STATUS_ACKED = w / 2 ∧ fld y Fld.AVS_IF_STATUS_IF_FAULT = 0)) ∧
    (∀ w, s.power.avsBusy = some w → s.power.avsTries < 2 → exec (.avsPmbusWrite false) s =
      .next { s with power := { s.power with avsTries := s.power.avsTries + 1 } }) ∧
    EndsIn .tapFloorEnd s (fun y => (s.mode ≠ .safe → (∀ h < 16, tapLoaded (brewOf s h) = false) → s.fg.floorUntil ≤ s.frame →
      y.fg.floorUntil = 0 ∧ fld y Fld.AVS_STATUS_TAP_FLOOR = 0 ∧ y.fg.setHalf = s.fg.setHalf))

/-- Modes, temperature, mains, shutdown (R412, R442–R444, R450–R453). -/
def Obligations.ModesAndMains : Prop :=
  ∀ (r : Req) (s : State),
    let a := served s
    let tgt := pb r 0
    let first (p : PendMode) (y : State) : Prop := y.power.pend.head? = some p ∧ fld y Fld.MODE_STATUS_PENDING = p.target ∧ fld y Fld.MODE_STATUS_PEND_VALID = 1
    (Served 0xD00 r s → Shape r 4 [1, 2, 3] → 1 ≤ tgt → tgt ≤ 5 →
      (tgt = modeCode s.mode → exec (.modeSet r) s = .next (answer r (ok (beBytes 8 s.frame)) a)) ∧
      (tgt ≠ modeCode s.mode → modeStep s.mode tgt = false → exec (.modeSet r) s = .next (answer r ⟨0x62, 0, modeCode s.mode, []⟩ a)) ∧
      (tgt = 3 → s.mode = .configure → liveCertified s = true → fbit s Fld.THERM_STATUS_WARN_ACTIVE = false → s.power.pend = [] →
        EndsIn (.modeSet r) s (Replied r (ok (beBytes 8 (s.frame + 2))) (fun b => first ⟨3, s.frame + 2, 0⟩ b ∧ b.mode = .configure))) ∧
      (tgt = 5 → s.mode = .run ∨ s.mode = .shadow → s.power.pend = [] →
        EndsIn (.modeSet r) s (Replied r (ok (beBytes 8 (s.frame + 2))) (fun b => first ⟨5, s.frame + 2, 1⟩ b ∧ b.mode = s.mode)))) ∧
    (∀ t : BitVec 8, s.power.boot = 0 → EndsIn (.thermalWarn [t]) s (fun y =>
      fld y Fld.THERM_STATUS_WARN_ACTIVE = bnat (decide ((fld s Fld.THERM_CTRL_THERM_WARN : Int) ≤ t.toInt)) ∧
      ((fld s Fld.THERM_CTRL_THERM_WARN : Int) ≤ t.toInt → (fbit s Fld.THERM_STATUS_WARN_ACTIVE = false → fld y Fld.THERM_STATUS_WARN_STICKY = 1) ∧
        (s.mode = .run ∨ s.mode = .shadow → (∀ p ∈ s.power.pend, p.target = 5 → p.cause < 2) → first ⟨5, s.frame + 1, 3⟩ y)))) ∧
    (∀ us, fbit s Fld.MAINS_CTRL_MAINS_EN = false → exec (.zeroCross us) s = .next s) ∧
    (∀ us k, let sp := ((us - k) :: s.power.spans).take 8
      let h := sp.foldl (· + ·) 0 / sp.length
      fbit s Fld.MAINS_CTRL_MAINS_EN = true → s.mode ≠ .off → s.power.lastCross = some k → EndsIn (.zeroCross us) s (fun y =>
        y.power.lastCross = some us ∧ y.power.spans = sp ∧ y.power.missed = 0 ∧
        (7900 ≤ h → h ≤ 10700 → 7 ≤ s.power.crosses → fld y Fld.MAINS_STATUS_PRESENT = 1))) ∧
    (fbit s Fld.MAINS_CTRL_MAINS_EN = true → fbit s Fld.MAINS_STATUS_PRESENT = true → s.mode ≠ .off →
      (s.power.missed + 1 < fld s Fld.MAINS_CTRL_N_MISS → exec .missingHalfCycle s =
        .next { s with power := { s.power with missed := s.power.missed + 1, crosses := 0 } }) ∧
      (fld s Fld.MAINS_CTRL_N_MISS ≤ s.power.missed + 1 → EndsIn .missingHalfCycle s (fun y => fld y Fld.MAINS_STATUS_PRESENT = 0 ∧
        fld y Fld.MAINS_STATUS_LOST_STICKY = 1 ∧ y.power.missed = 0 ∧ (s.mode = .run ∨ s.mode = .shadow → (∀ p ∈ s.power.pend, p.target = 5 → p.cause < 2) → first ⟨5, s.frame + 1, 2⟩ y)))) ∧
    (s.power.shut.phase = 2 → EndsIn .shutdownDelayEnd s (fun y => y.power.shut.phase = 3 ∧
      ∀ c < 32, ampState s c = 4 → (ampOf s c).test = none → ampState y c = 5)) ∧
    (s.power.shut.phase ≠ 2 → exec .shutdownDelayEnd s = .next s) ∧
    (ampsStopped s = true → s.power.shut.phase ≠ 3 → s.power.seq ≠ 4 → EndsIn .enableLowDelay s (fun y =>
      y.mode = s.mode ∧ ∀ c < 32, ampState s c ≤ 1 → fld y Fld.AMP_STATE_ENABLE c = 0)) ∧
    (ampsStopped s = true → s.power.shut.phase = 3 → EndsIn .enableLowDelay s (fun y => y.mode = .standby ∧ y.power.en = 3 ∧ y.power.seq = 3 ∧
      vaultByte y 0 = 0x5A ∧ vaultByte y 1 = 0x53 ∧ vaultByte y 2 = 0x48 ∧ vaultByte y 3 = 0x44))

/-- Power, the backup domain and the flash (R288, R442, R445–R449, R452). -/
def Obligations.PowerAndVault : Prop :=
  ∀ (r : Req) (s : State),
    let a := served s
    let p := s.power
    let asleep : Prop := s.mode = .standby ∧ p.seq = 0 ∧ p.en = 0 ∧ p.boot = 1
    let woken (n lane : Nat) (y : State) : Prop := y.power.en = 1 ∧ y.power.seq = 1 ∧ fld y Fld.WAKE_STATUS_SOURCE = n ∧ fld y Fld.WAKE_STATUS_LANE = lane
    (asleep → (fbit s Fld.WAKE_CTRL_WAKE_PIN_EN = true → EndsIn .wakenPin s (woken 1 0)) ∧
      (fbit s Fld.WAKE_CTRL_WAKE_SPI = true → EndsIn .spiWake s (woken 4 0)) ∧
      (∀ l : Fin 16, fbit s Fld.WAKE_CTRL_WAKE_LANE = true → testBit (fld s Fld.WAKE_CTRL_WAKE_LANES) l.val = true → EndsIn (.laneSignalWake l) s (woken 5 l.val)) ∧
      (∀ t, fbit s Fld.WAKE_CTRL_WAKE_ALARM = true → EndsIn (.bkAlarmMatch t) s (fun y => woken 3 0 y ∧
        y.power.seconds = fldPair s Fld.BK_ALARM_LO_ALARM_LO Fld.BK_ALARM_HI_ALARM_HI ∧ y.power.secAt = t))) ∧
    (fbit s Fld.WAKE_CTRL_WAKE_PIN_EN = false → exec .wakenPin s = .next s) ∧
    (fbit s Fld.WAKE_CTRL_WAKE_SPI = false → exec .spiWake s = .next s) ∧
    (∀ l : Fin 16, fbit s Fld.WAKE_CTRL_WAKE_LANE = false → exec (.laneSignalWake l) s = .next s) ∧
    (∀ (v : Word32) (t : Nat), p.boot = 0 → exec (.bkSecHiWrite v t) s =
      .next { s with power := { p with seconds := p.secHold + 2 ^ 32 * (v.toNat % 2 ^ 16), secAt := t } }) ∧
    (s.mode ≠ .off → EndsIn .vaonLoss s (fun y => y.mode = .off ∧ y.power.en = 0 ∧ y.power.seq = 0 ∧ y.power.boot = 1 ∧ y.power.vault = p.vault ∧
      y.power.seconds = p.seconds ∧ y.sessions = [])) ∧
    (∀ x : BitVec 48, s.mode = .off → EndsIn (.vaonReturn false x) s (fun y => y.mode = .standby ∧ y.power.en = 0 ∧ y.power.seconds = x.toNat ∧
        y.power.vault = p.vault ∧ fld y Fld.RESET_CAUSE_CAUSE % 2 = 1) ∧
      EndsIn (.vaonReturn true x) s (fun y => y.mode = .standby ∧ woken 6 0 y)) ∧
    (s.mode = .off → EndsIn .vbakLoss s (fun y => y.power.vault = [] ∧ y.power.seconds = 0 ∧ regWord y 0x504 = 3)) ∧
    (s.mode ≠ .off → exec .vbakLoss s = .next s) ∧
    (p.seq = 1 → (p.en + 1 < 4 ∨ fbit s Fld.SUPPLY_STATUS_PWR_GOOD = false) → exec .pwrGapEnd s =
      .next { s with power := { p with en := p.en + 1, seq := if 4 ≤ p.en + 1 then 2 else 1 } }) ∧
    (s.mode ≠ .off → p.seq = 1 → p.en = 3 → p.pinLow = false → p.hot = false → fbit s Fld.SUPPLY_STATUS_PWR_GOOD = true → EndsIn .pwrGapEnd s (fun y =>
      y.power.en = 4 ∧ y.power.boot = 2 ∧ y.power.seq = 0)) ∧
    (p.seq = 3 → 1 < p.en → exec .pwrGapEnd s = .next { s with power := { p with en := p.en - 1 } }) ∧
    (p.seq = 3 → p.en ≤ 1 → EndsIn .pwrGapEnd s (fun y => y.mode = .standby ∧ y.power.en = 0 ∧ y.power.seq = 0 ∧ y.power.boot = 1 ∧
      fld y Fld.SUPPLY_STATUS_PWR_GOOD = 0)) ∧
    (s.mode ≠ .off → p.seq = 2 → p.en = 4 → p.pinLow = false → p.hot = false → EndsIn .pwrGood s (fun y => y.power.boot = 2 ∧ y.power.seq = 0 ∧
      y.power.clear = true ∧ fld y Fld.SUPPLY_STATUS_PWR_GOOD = 1)) ∧
    (p.seq = 2 → EndsIn .pgoodTimeout s (fun y => y.power.en = 0 ∧ y.power.seq = 0 ∧ y.mode = s.mode ∧ fld y Fld.SUPPLY_STATUS_PGOOD_FAIL = 1)) ∧
    (Served 0xD03 r s → Shape r 4 [1] → 1 ≤ rd r.payload 2 2 → rd r.payload 2 2 ≤ 256 → pb r 0 + rd r.payload 2 2 ≤ 256 → exec (.vaultRead r) s =
      .next (answer r (ok ((List.range (rd r.payload 2 2)).map (fun i => vaultByte s (pb r 0 + i)))) a)) ∧
    (Served 0xD04 r s → 5 ≤ r.payload.length → rd r.payload 1 3 = 0 → 32 ≤ pb r 0 → pb r 0 + (r.payload.length - 4) ≤ 256 → EndsIn (.vaultWrite r) s
      (Replied r (ok []) (fun b => (∀ i < r.payload.length - 4, vaultByte b (pb r 0 + i) = r.payload.getD (4 + i) 0) ∧
        ∀ o, (o < pb r 0 ∨ pb r 0 + (r.payload.length - 4) ≤ o) → vaultByte b o = vaultByte s o))) ∧
    (∀ h, Served 0xE00 r s → 260 ≤ r.payload.length → r.payload.length ≤ 4100 → (r.payload.length - 4) % 256 = 0 → rd r.payload 0 4 % 256 = 0 →
      inRunningSlot s (rd r.payload 0 4) (r.payload.length - 4) = false → JobRoom h s → exec (.flashWrite r h) s = .next (answer r (accepted h)
        { a with jobs := s.jobs ++ [newJob h r s (.flash (rd r.payload 0 4) (r.payload.drop 4))] })) ∧
    (Served 0xE01 r s → Shape r 8 [6, 7] → 1 ≤ rd r.payload 4 2 → rd r.payload 4 2 ≤ 8140 →
      exec (.flashRead r true) s = .next (answer r (ok (flashBytes s (rd r.payload 0 4) (min (rd r.payload 4 2) (maxReply r.source)))) a) ∧
      exec (.flashRead r false) s = .next (answer r ⟨0x66, 0, rd r.payload 0 4 % 2 ^ 32, []⟩ a)) ∧
    (Served 0xE02 r s → Shape r 4 [1, 2, 3] → pb r 0 ≤ 1 →
      (headerValid (flashHeader s) = true → EndsIn (.fwActivate r true) s (Replied r (ok []) (fun b => flashBytes b 6 1 = [BitVec.ofNat 8 (pb r 0)] ∧
        flashBytes b 60 4 = beBytes 4 (crc32c (flashBytes b 0 60))))) ∧
      exec (.fwActivate r false) s = .next (answer r ⟨0x67, 0, pb r 0 % 2 ^ 32, []⟩ a))

/-- Resets, option loading, release and boot (R45, R216, R217, R269, R289, R453–R465, R481). -/
def Obligations.Resets : Prop :=
  ∀ (r : Req) (s : State),
    let a := served s
    let p := s.power
    let held := p.pinLow || p.hot
    let running : Prop := s.mode ≠ .off ∧ s.mode ≠ .standby
    (running → (fld s Fld.FG_CTRL_FATAL_COUNT ≤ fld s Fld.FG_STATUS_CONSEC → EndsIn .fgFatalReset s (EngineReset 0x80 held s)) ∧
      (fbit s Fld.WDOG_CTRL_WDOG_EN = true → p.fw = true → EndsIn .wdogExpiry s (EngineReset 8 held s)) ∧
      (∀ w : Fin 5, EndsIn (.critErr w) s (fun y => EngineReset 0x40 held s y ∧ (Canonical s → fld y Fld.RESET_CAUSE_CRIT_WHERE = w.val + 1))) ∧
      EndsIn .supplyMonitorTrip s (EngineReset 1 held s) ∧
      (p.en = 4 → p.seq = 0 → EndsIn .pwrGoodLoss s (fun y => y.mode = .configure ∧ y.power.boot = if held then 1 else 2)) ∧
      EndsIn .thermalTrip s (fun y => EngineReset 0x20 true s y ∧ y.power.hot = true) ∧
      (∀ ns taken, 1000 ≤ ns → EndsIn (.resetnPin true ns taken) s (fun y => EngineReset 4 true s y ∧ y.power.pinLow = true)) ∧
      (∀ brews t block partner rest, p.toReset = (1, block, partner) :: rest → EndsIn (.resetStart brews t) s (EngineReset (if partner then 0x100 else 0x10) held s))) ∧
    (∀ ns taken, ns < 100 → exec (.resetnPin true ns taken) s = .next s) ∧
    (fld s Fld.FG_STATUS_CONSEC < fld s Fld.FG_CTRL_FATAL_COUNT → exec .fgFatalReset s = .next s) ∧
    (fbit s Fld.WDOG_CTRL_WDOG_EN = false → exec .wdogExpiry s = .next s) ∧
    (p.boot = 1 → s.mode ≠ .off → p.en = 4 → p.seq = 0 →
      (p.pinLow = false → exec .thermalTripRelease s = .next { s with power := { p with hot := false, boot := 2 } }) ∧
      (∀ ns taken, p.hot = false → exec (.resetnPin false ns taken) s = .next { s with power := { p with pinLow := false, boot := 2 } })) ∧
    (∀ (x : BitVec 16) (o : Otp), (p.boot ≠ 2 → exec (.optionLoading x o) s = .next s) ∧
      (p.boot = 2 → headerValid (flashHeader s) = false → EndsIn (.optionLoading x o) s (fun y => y.power.boot = 3 ∧ fld y Fld.MODE_STATUS_HDR_INVALID = 1 ∧
        fld y Fld.ID_OPTIONS_OPTIONS = x.toNat + 2 ^ 16 * o.options.toNat ∧ fld y Fld.ENDPOINT_ID_ID = x.toNat / 64 % 64 ∧ y.mem = s.mem))) ∧
    (∀ linear t, (p.boot = 3 → EndsIn (.releaseStep linear t) s (fun y => y.power.boot = 4 ∧ y.frame = 0 ∧ y.tick = t)) ∧
      (p.boot = 4 → EndsIn (.releaseStep linear t) s (fun y => y.power.boot = 5 ∧ ∀ c < 8, fld y Fld.CELLAR_CH_STATUS_STATE c = 1)) ∧
      (p.boot = 7 ∨ p.boot = 8 ∨ p.boot = 9 → exec (.releaseStep linear t) s = .next { s with power := { p with boot := p.boot + 1 } }) ∧
      (p.boot = 5 → EndsIn (.releaseStep linear t) s (fun y => y.power.boot = 6 ∧ (∀ c < 8, fld y Fld.CELLAR_CH_STATUS_STATE c = 2) ∧ fld y Fld.MEM_STATUS_CELLAR_READY = 1 ∧
        (p.clear = true → y.regions = [] ∧ ∀ x, 0x400000000 ≤ x → memByte y x = 0))) ∧
      (p.boot = 6 → p.clear = true → EndsIn (.releaseStep linear t) s (fun y => y.power.boot = 7 ∧ fld y Fld.MEM_STATUS_CLEAR_DONE = 1 ∧ y.progMem = [] ∧
        ∀ x, x < 0x400000000 → memByte y x = 0)) ∧
      (p.boot = 10 → p.fw = true → s.mode = .configure → EndsIn (.releaseStep linear t) s (fun y => y.power.boot = 0 ∧ y.mode = .configure ∧
        (p.report = true → y.evtWait = s.evtWait ++ [⟨0xC3, s.frame, fld s Fld.RESET_CAUSE_CAUSE, 0, none⟩]) ∧
        ∀ c < 32, ampState y c = if ampEn s c then 1 else 0))) ∧
    (romRuns s = true → (∀ w, exec (.bootDataWrite w) s = .next { s with power := { p with image := p.image ++ [w] } }) ∧
      (fld s Fld.BOOT_LEN_LEN = 4 * p.image.length → 1 ≤ p.image.length → p.image.length ≤ 1048576 →
        exec (.bootGo true) s = .next (setFld Fld.BOOT_CTRL_BUSY 0 1 (setFld Fld.BOOT_CTRL_FAIL 0 0 s))) ∧
      EndsIn (.bootGo false) s (fun y => fld y Fld.BOOT_CTRL_FAIL = 1 ∧ fld y Fld.MODE_STATUS_BOOT_FAIL = 1 ∧ y.power.image = []) ∧
      (∀ v, fbit s Fld.BOOT_CTRL_BUSY = true → p.boot < 11 → EndsIn (.firmwareStart 2 v) s (fun y => y.power.fw = true ∧ y.power.slot = 2 ∧
        fld y Fld.FW_VERSION_VERSION = v.toNat))) ∧
    (∀ (code : Fin 256) (bit : Nat), resetBit code.val = some bit → testBit (regWord s 0x514).toNat bit = false → exec (.blockResetRelease code) s = .next s) ∧
    (∀ (code : Fin 256) (bit : Nat), resetBit code.val = some bit → testBit (regWord s 0x514).toNat bit = true → EndsIn (.blockResetRelease code) s (fun y =>
      testBit (regWord y 0x514).toNat bit = false)) ∧
    (∀ t, p.boot = 0 → EndsIn (.pcieFlr t) s (fun y => y.rxq = s.rxq.filter (fun x => !onPcie x.source) ∧ y.txq.all (fun x => !onPcie x.source) = true ∧
      ∀ x ∈ y.sessions, onPcie x.source = false)) ∧
    (∀ t, p.boot ≠ 0 → exec (.pcieFlr t) s = .next s) ∧
    (Served 0xD01 r s → Shape r 4 [] → pb r 0 = 2 → rd r.payload 2 2 = 0x5A5A → (resetBit (pb r 1)).isSome = true →
      exec (.reset r) s = .next (answer r (ok []) { a with power := { p with toReset := p.toReset ++ [(2, pb r 1, false)] } })) ∧
    (Served 0xD02 r s → Shape r 4 [1, 2, 3] →
      (pb r 0 = 0 → exec (.resetCause r) s = .next (answer r (ok (beBytes 4 (regWord s 0x504).toNat)) a)) ∧
      (pb r 0 = 1 → exec (.resetCause r) s = .next (answer r (ok (beBytes 4 (regWord s 0x504).toNat)) (setFld Fld.RESET_CAUSE_CAUSE 0 0 a))))

/-- Shadow pairs (R356, R367–R370, R374–R376). -/
def Obligations.Pairs : Prop :=
  ∀ (r : Req) (m : MgmtRec) (s : State),
    let a := served s
    let b := without m s
    let p := s.pair
    let ep := rd r.payload 0 4
    (s.mgmt = [] → (∀ same, exec (.pairRequest same) s = .next s) ∧ exec .pairAccept s = .next s ∧ exec .pairRefuse s = .next s ∧
      exec .pairSwitch s = .next s ∧ exec .pairSwitchDone s = .next s) ∧
    (Served 0xB02 r s → Shape r 8 [5, 6, 7] → ep < 2 ^ 18 → ep ≠ ownEndpoint s → pb r 4 = 1 ∨ pb r 4 = 2 →
      (s.mode ≠ .configure → exec (.shadowPair r) s = .next (answer r ⟨0x23, 0, modeCode s.mode, []⟩ a)) ∧
      (s.mode = .configure → p.wait = none →
        (pb r 4 = 1 → EndsIn (.shadowPair r) s (Replied r (ok []) (Paired ep 1 (mirrorTo s ep) a))) ∧
        (∀ t, pb r 4 = 2 → mirrorTo s ep = some t → exec (.shadowPair r) s =
          .next (sendRecordOn t 4 (pairBody s 1 0 0) { a with pair := { p with wait := some r } })) ∧
        (pb r 4 = 2 → mirrorTo s ep = none → exec (.shadowPair r) s = .next (answer r ⟨0x64, 0, 0, []⟩ a)))) ∧
    (∀ t same, PairRecord 1 m s → m.trace = some t →
      (s.mode = .configure → same = true → fld s Fld.SHADOW_PARTNER_ROLE = 0 → EndsIn (.pairRequest same) s (fun y =>
        ∃ c, y = sendRecordOn t 4 (pairBody c 2 0 0) c ∧ Paired (rd m.body 4 4) 1 (some t) b c)) ∧
      (same = false ∨ fld s Fld.SHADOW_PARTNER_ROLE = 2 → exec (.pairRequest same) s = .next (sendRecordOn t 4 (pairBody s 3 0x64 0) b))) ∧
    (p.wait = some r → rd m.body 4 4 = ep → (PairRecord 2 m s → EndsIn .pairAccept s (Replied r (ok []) (Paired ep 2 m.trace b))) ∧
      (PairRecord 3 m s → exec .pairRefuse s = .next (answer r ⟨0x64, 0, 0, []⟩ { b with pair := { p with wait := none } }))) ∧
    (∀ (x : AcqItem) (rest : List AcqItem) (u : Nat), s.acqq = x :: rest → acquiring s = some u →
      let c := { s with acqq := rest }
      let regs := (List.range (x.data.length / 16)).map (fun i => (u, rd x.data (16 * i) 2 % 256, rd x.data (16 * i + 4) 12))
      (x.use = 8 → areaAddr (areasOf s u) p.got = some (x.addr % 2 ^ 35) → EndsIn .acquireData s (fun y =>
        y.pair = { p with got := p.got + x.data.length } ∧ y.acqq = rest ∧
        ∀ k, memByte y k = if x.addr % 2 ^ 35 ≤ k ∧ k < x.addr % 2 ^ 35 + x.data.length then x.data.getD (k - x.addr % 2 ^ 35) 0 else memByte s k)) ∧
      (x.use = 9 → x.addr % 1024 = u → exec .acquireRegisters s = .next { c with pair := { p with regs := p.regs ++ regs } }) ∧
      (x.use = 9 → x.addr % 1024 ≠ u → exec .acquireRegisters s = .next c) ∧
      (∀ t, x.use = 10 → x.addr % 1024 = u → (s.frame ≤ rd x.data 0 8 → exec (.cutEnd t) s = .next { c with pair := { p with cut := some (u, rd x.data 0 8) } }) ∧
        (s.frame = rd x.data 0 8 + 1 → p.hold = some u → exec (.cutEnd t) s =
          .next (startStall u s.frame t { c with pair := { p with cut := some (u, rd x.data 0 8) } })) ∧
        (rd x.data 0 8 + 1 < s.frame → exec (.cutEnd t) s = .next { c with pair := { p with regs := [] } }))) ∧
    (∀ t, (p.hold = none → exec (.cutWaitExpiry t) s = .next s) ∧
      (∀ u, p.hold = some u → EndsIn (.cutWaitExpiry t) s (fun y => ∃ c, y = startStall u s.frame t c ∧ c.pair = { p with hold := none, regs := [], cut := none } ∧
        fld c Fld.SHADOW_SWITCH_COUNT_CUT_MISS = min (2 ^ 16 - 1) (fld s Fld.SHADOW_SWITCH_COUNT_CUT_MISS + 1)))) ∧
    (∀ t, (s.mode ≠ .shadow → exec (.pairSenseLow t) s = .next { clrBit Fld.SHADOW_STATUS_PAIR_SENSE 0 s with
        pair := { p with lowFrame := if s.tick + 1020 ≤ t then s.frame else s.frame - 1 } }) ∧
      (s.mode = .shadow → fbit s Fld.SHADOW_CTRL_AUTO_EN = true → p.takeoverAt = none → pairState s = 3 → EndsIn (.pairSenseLow t) s (fun y =>
        fld y Fld.SHADOW_STATUS_PAIR_SENSE = 0 ∧ y.pair.takeoverAt = some (takeoverFrame s t) ∧ y.mode = .shadow))) ∧
    (p.takeoverAt = none → exec .takeover s = .next s) ∧
    (∀ k, p.takeoverAt = some k → (s.frame < k → exec .takeover s = .next s) ∧
      (k ≤ s.frame → s.mode = .shadow → EndsIn .takeover s (fun y => y.mode = .run ∧ pairState y = 1 ∧ fld y Fld.SHADOW_PARTNER_ROLE = 1 ∧
        fld y Fld.SHADOW_STATUS_SWITCH_STICKY = 1 ∧ y.pair.takeoverAt = none ∧ y.pair.locked = false ∧
        ⟨0xB1, s.frame, ownEndpoint s % 2 ^ 32, (s.frame - p.lowFrame) % 2 ^ 32, none⟩ ∈ y.evtWait))) ∧
    (p.switchAt = none → exec .commandedSwitchover s = .next s) ∧
    (∀ k, p.switchAt = some k → (s.frame < k → exec .commandedSwitchover s = .next s) ∧
      (k ≤ s.frame → pairState s = 1 → s.mode = .run → EndsIn .commandedSwitchover s (fun y => y.mode = .shadow ∧ pairState y = 3 ∧
        fld y Fld.SHADOW_PARTNER_ROLE = 2 ∧ fld y Fld.SHADOW_STATUS_PAIR_ACT = 0 ∧ y.pair.switchAt = none ∧ BankDark y)) ∧
      (k ≤ s.frame → pairState s = 3 → s.mode = .shadow → EndsIn .commandedSwitchover s (fun y => y.mode = .run ∧ pairState y = 1 ∧
        fld y Fld.SHADOW_PARTNER_ROLE = 1 ∧ y.pair.switchAt = none ∧ y.pair.locked = true))) ∧
    (Served 0xB03 r s → Shape r 0 [] →
      (hasPartner s = false → exec (.switchover r) s = .next (answer r ⟨0x64, 0, 0, []⟩ a)) ∧
      (∀ t, hasPartner s = true → mirrorTrace s = some t →
        (standbyLocked s = false → exec (.switchover r) s = .next (answer r ⟨0x2F, 0, 0, []⟩ a)) ∧
        (standbyLocked s = true → exec (.switchover r) s = .next (answer r (ok (beBytes 8 (s.frame + 8)))
          (sendRecordOn t 4 (pairBody s 4 0 (s.frame + 8)) { a with pair := { p with switchAt := some (s.frame + 8) } }))))) ∧
    (PairRecord 4 m s → hasPartner s = true → rd m.body 4 4 = partnerId s → pairState s = 1 ∨ pairState s = 3 →
      let c := { b with pair := { p with switchAt := some (rd m.body 8 8) } }
      exec .pairSwitch s = .next (if s.frame < rd m.body 8 8 then c else switchCancel c)) ∧
    (PairRecord 5 m s → (rd m.body 2 2 = 0 → exec .pairSwitchDone s = .next b) ∧
      (hasPartner s = true → rd m.body 4 4 = partnerId s → rd m.body 2 2 ≠ 0 → p.switchAt = some (rd m.body 8 8) → EndsIn .pairSwitchDone s (fun y =>
        y.pair = { p with switchAt := none }))) ∧
    (pairState s ≠ 1 → exec .pairSenseHigh s = .next (setBit Fld.SHADOW_STATUS_PAIR_SENSE 0 s)) ∧
    (pairState s = 1 → fbit s Fld.SHADOW_STATUS_PAIR_ACT = false → s.mode = .run ∨ s.mode = .safe → EndsIn .pairSenseHigh s (fun y =>
      y.power.pend.head? = some ⟨4, s.frame + 1, 0⟩ ∧ y.pair.displaced = true ∧ fld y Fld.SHADOW_STATUS_PAIR_SENSE = 1 ∧ BankDark y ∧ y.mode = s.mode)) ∧
    (pairState s = 1 → p.lastPeer + fld s Fld.HERD_CTRL_LOSS_COUNT ≤ s.frame → exec .standbyRecordLoss s =
      .next (raise 0xB2 (partnerId s) 0 { s with pair := { p with lastPeer := s.frame } })) ∧
    (pairState s ≠ 1 ∨ s.frame < p.lastPeer + fld s Fld.HERD_CTRL_LOSS_COUNT → exec .standbyRecordLoss s = .next s)

/-- Register accesses (R7, R9, R10, R221, R225, R229, R267, R279, R294). -/
def Obligations.Registers : Prop :=
  ∀ (r : Req) (m : Fin 24) (a t : Nat) (v : Word32) (s : State),
    let q := served s
    let p := r.payload
    (a % 4 ≠ 0 → exec (.registerWrite m a v t) s = .next s ∧ exec (.latchingRead ⟨m, a⟩ t) s = .next s) ∧
    (a % 4 = 0 → xbTarget a = 15 → ¬ (0x100000000 ≤ a ∧ a < 0x100008000) → exec (.registerWrite m a v t) s = .next (xbCount .decode m.val a s) ∧
      exec (.latchingRead ⟨m, a⟩ t) s = .next { xbCount .decode m.val a s with lastRead := 0 }) ∧
    (aligned a = true → regsReach s = false → exec (.registerWrite m a v t) s = .next s ∧ exec (.latchingRead ⟨m, a⟩ t) s = .next { s with lastRead := 0 }) ∧
    (aligned a = true → regsReach s = true →
      (∀ row i, regAt a = some (row, i) → ordinary a = true → EndsIn (.registerWrite m a v t) s (Wrote row i a v.toNat s)) ∧
      (regAt a = none → a < 0x100000000 → ¬ (0x58000 ≤ a ∧ a < 0x60000) → s.latches = [] →
        exec (.registerWrite m a v t) s = .next s ∧ exec (.latchingRead ⟨m, a⟩ t) s = .next { s with lastRead := 0 }) ∧
      (0x58000 ≤ a ∧ a < 0x60000 → EndsIn (.registerWrite m a v t) s (fun y => drvMemRead y (a - 0x58000) = v.toNat ∧
        (∀ k, k ≠ (a - 0x58000) / 8 → smapGet (fun _ => (0 : ProgWord)) y.drvMem k = smapGet (fun _ => 0) s.drvMem k) ∧ y.regs = s.regs ∧ y.mem = s.mem)) ∧
      (a ∉ [0x110, 0x22C, 0x558, 0x80014] → s.latches = [] →
        (latchedBy a = [] → exec (.latchingRead ⟨m, a⟩ t) s = .next { s with lastRead := regView s t a % 2 ^ 32 }) ∧
        (latchedBy a = [a + 4] → EndsIn (.latchingRead ⟨m, a⟩ t) s (fun y => y.lastRead = regView s t a % 2 ^ 32 ∧
          ∀ (t' : Nat) (z : State), z.latches = y.latches → regsReach z = true →
            exec (.latchingRead ⟨m, a + 4⟩ t') z = .next { z with lastRead := regView s t (a + 4) % 2 ^ 32 })))) ∧
    (regsReach s = true → EndsIn (.evtRdIndexWrite v) s (fun y => fld y Fld.EVT_RD_INDEX_INDEX = v.toNat ∧ y.evtWord = 0 ∧ y.evtLog = s.evtLog)) ∧
    (regsReach s = true → s.latches = [] → s.evtWord < 6 → EndsIn .evtDataRead s (fun y => y.lastRead = rd (evtSelected s) (4 * s.evtWord) 4 % 2 ^ 32 ∧
      (s.evtWord < 5 → y.evtWord = s.evtWord + 1 ∧ fld y Fld.EVT_RD_INDEX_INDEX = fld s Fld.EVT_RD_INDEX_INDEX) ∧
      (s.evtWord = 5 → y.evtWord = 0 ∧ fld y Fld.EVT_RD_INDEX_INDEX = (fld s Fld.EVT_RD_INDEX_INDEX + 1) % 2 ^ 32))) ∧
    (Served 0x105 r s → Shape r 8 [6, 7] → rd p 0 4 = a →
      (a % 4 ≠ 0 → exec (.regRead r t) s = .next (answer r ⟨0x22, 0, 0, []⟩ q)) ∧
      (a % 4 = 0 → rd p 4 2 = 0 ∨ 2036 < rd p 4 2 → exec (.regRead r t) s = .next (answer r ⟨0x22, 0, 4, []⟩ q)) ∧
      (a % 4 = 0 → rd p 4 2 = 1 → xbTarget a = 12 → wordKind q a false = .ok → exec (.regRead r t) s =
        .next (answer r (ok ([0, 1, 0, 0] ++ beBytes 4 (regRead t a q).lastRead)) (regRead t a q))) ∧
      (a % 4 = 0 → rd p 4 2 = 1 → wordKind q a false ≠ .ok → exec (.regRead r t) s =
        .next (answer r ⟨0x2E, 0, 0, []⟩ (xbReadEffect masterGroom a 4 q)))) ∧
    (Served 0x106 r s → Shape r 12 [6, 7] → rd p 0 4 = a → rd p 4 2 = 1 →
      (a % 4 ≠ 0 → exec (.regWrite r t) s = .next (answer r ⟨0x22, 0, 0, []⟩ q)) ∧
      (a % 4 = 0 → xbTarget a = 12 → wordKind q a true = .ok → exec (.regWrite r t) s =
        .next (answer r (ok [0, 1, 0, 0]) (Machine.regWrite masterGroom t a (rd p 8 4) q))) ∧
      (a % 4 = 0 → wordKind q a true ≠ .ok → exec (.regWrite r t) s =
        .next (answer r ⟨0x2E, 0, 0, []⟩ (xbCount (wordKind q a true) masterGroom a q)))) ∧
    (∀ n x, (spiReach s = false → exec (.spiRegRead x n t) s = .next s ∧ exec (.spiRegWrite x [v] t) s = .next s) ∧
      (spiReach s = true → x.toNat % 4 ≠ 0 → exec (.spiRegRead x n t) s =
          .next (sendOut (.spi (List.replicate (4 * n) 0)) { s with spiFlags := s.spiFlags ||| 4 }) ∧
        exec (.spiRegWrite x [v] t) s = .next { s with spiFlags := s.spiFlags ||| 4 }) ∧
      (spiReach s = true → x.toNat % 4 = 0 → xbTarget x.toNat = 12 →
        (wordKind s x.toNat false = .ok → exec (.spiRegRead x 1 t) s =
          .next (sendOut (.spi (beBytes 4 (Machine.regRead t x.toNat s).lastRead)) (Machine.regRead t x.toNat s))) ∧
        (wordKind s x.toNat true = .ok → exec (.spiRegWrite x [v] t) s = .next (Machine.regWrite masterGroom t x.toNat v.toNat s))))

/-- Steps of the groom's jobs (R122, R127, R129, R177, R182, R213, R259, R260, R285). -/
def Obligations.GroomWorks : Prop :=
  ∀ (h : Nat) (j : JobRec) (s : State),
    let does (w : GroomWork) (P : State → Prop) : Prop := EndsIn (.jobStep w) s P
    (groomServes s = false → ∀ w, exec (.jobStep w) s = .next s) ∧
    (∀ n, Running h j s → (∀ c, j.work ≠ .compile c) → (∀ k, j.work ≠ .tap k) → exec (.jobStep (.progress h n)) s = .next (setJob { j with progress := min 255 n } s)) ∧
    (∀ k bs, Running h j s → j.work = .kernel k bs →
      (kernelFault bs = none → does (.finish h) (fun y => JobEnded h j 1 0 0 0 s.frame y ∧ kernelOf y k = some ⟨k, bs⟩)) ∧
      (∀ i reason, kernelFault bs = some (i, reason) → does (.finish h) (fun y => JobEnded h j 2 0x43 (reason * 2 ^ 24 + i) 0 s.frame y ∧ y.kernels = s.kernels))) ∧
    (∀ brew a, Running h j s → j.work = .load brew a → xbReadKind s masterGroom a 32 = .ok →
      rangeWaits s a (36 + 16 * rd (xbReadBytes s masterGroom a 32) 8 4) = false →
      let n := rd (xbReadBytes s masterGroom a 32) 8 4
      let whole := xbReadBytes s masterGroom a (36 + 16 * n)
      let body (P : Prop) : Prop := rd (xbReadBytes s masterGroom a 32) 0 4 = 0x5A53434E → rd (xbReadBytes s masterGroom a 32) 4 2 = 1 → 1 ≤ n → n ≤ 4194304 →
        xbReadKind s masterGroom a (36 + 16 * n) = .ok → P
      (rd (xbReadBytes s masterGroom a 32) 0 4 ≠ 0x5A53434E → does (.finish h) (fun y => JobEnded h j 2 0x5C 1 0 s.frame y ∧ y.brews = s.brews)) ∧
      body (crc32c (whole.take (32 + 16 * n)) ≠ rd whole (32 + 16 * n) 4 → does (.finish h) (fun y => JobEnded h j 2 0x5C 4 0 s.frame y ∧ y.brews = s.brews)) ∧
      body (∀ xs, crc32c (whole.take (32 + 16 * n)) = rd whole (32 + 16 * n) 4 → readItems s whole 32 n = .ok xs →
        logLimit s brew (xs.filter (logged s)).length = none → does (.finish h) (fun y => JobEnded h j 1 0 0 0 s.frame y ∧ (brewOf y brew).jobBusy = (brewOf s brew).jobBusy.filter (fun x => decide (x ≠ busyBy true h))))) ∧
    (∀ brew a limit, Running h j s → j.work = .store brew a limit →
      let img := sceneImage s (brewOf s brew)
      rangeWaits s a img.length = false →
      (img.length ≤ limit → inRegion s a img.length = true → xbWriteKind s masterGroom a img.length = .ok →
        exec (.jobStep (.finish h)) s = .next (endJob h 1 0 0 0 (xbWrite masterGroom a img s))) ∧
      (limit < img.length → does (.finish h) (fun y => JobEnded h j 2 0x27 limit 0 s.frame y ∧ y.mem = s.mem))) ∧
    (∀ a b n, Running h j s → j.work = .copy a b n → rangeWaits s a n = false → rangeWaits s b n = false → firstUe s a n = none → exec (.jobStep (.finish h)) s =
      .next (endJob h 1 0 0 0 (xbWrite masterGroom b (xbReadBytes s masterGroom a n) (xbReadEffect masterGroom a n s)))) ∧
    (∀ a bs, Running h j s → j.work = .flash a bs → exec (.jobStep (.flash h true)) s = .next (endJob h 1 0 0 0 (flashPut a bs s)) ∧
      does (.flash h false) (fun y => JobEnded h j 2 0x66 a 0 s.frame y ∧ y.power.flash = s.power.flash)) ∧
    (groomServes s = true → jobOf s h = some j → j.state = 0 → j.cancel = true →
      (∀ a b n, j.work = .copy a b n → does (.cancelled h) (fun y => JobEnded h j 3 2 0 0 s.frame y ∧ y.mem = s.mem)) ∧
      (∀ k, j.work = .tap k → groupUndecided s k = none → (brewOf s k).st = .baking →
        does (.cancelled h) (fun y => JobEnded h j 3 2 0 noFrame s.frame y ∧ (brewOf y k).st = .open_ ∧ (brewOf y k).log = (brewOf s k).log))) ∧
    (∀ c n given, Running h j s → j.work = .compile c →
      (j.phase = 0 → does (.compile h n false given none) (fun y => y.results = [] ∧ ∃ k d, jobOf y h = some k ∧ k.work = .compile d ∧ k.state = 0 ∧ k.phase = 1 ∧
        k.progress = min 255 n ∧ k.startFrame = s.frame ∧ d.snap = s.work ∧ d.fs = s.fs)) ∧
      (j.phase ≠ 0 → exec (.jobStep (.compile h n false given none)) s = .next (setJob { j with progress := min 255 n } s)) ∧
      (j.phase ≠ 0 → hasError (phaseDiags s c j.phase given) = true → does (.compile h n true given none) (fun y => (∃ k, jobOf y h = some k ∧ k.state = 2 ∧ k.final = 0x42) ∧
        (brewOf y c.brew).out = none)) ∧
      (4 ≤ j.phase → j.phase ≤ 7 → c.leader = none → hasError (phaseDiags s c j.phase given) = false → does (.compile h n true given none) (fun y =>
        y.mem = s.mem ∧ ∃ k, jobOf y h = some k ∧ k.state = 0 ∧ k.phase = j.phase + 1))) ∧
    (groomServes s = true →
      (∀ k n, (brewOf s k).st = .baking → (brewOf s k).baking = true → (brewOf s k).baked + max 256 n < (brewOf s k).log.length →
        rangeWaits s brewStoreBase (cellarEnd - brewStoreBase) = false → (∀ i < max 256 n, badRecord s k ((brewOf s k).baked + i) = none) →
        does (.bake k n) (fun y => brewOf y k = { brewOf s k with baked := (brewOf s k).baked + max 256 n })) ∧
      (∀ k n, (brewOf s k).st ≠ .baking → exec (.jobStep (.bake k n)) s = .next s) ∧
      ((brewOf s 15).st = .free → s.directWait ≠ [] → (∀ d ∈ s.directWait, foldWrite (.param d.node d.index d.value) s = none) → does .direct (fun y => y.directWait = [] ∧ (brewOf y 15).st = .baking ∧
        (brewOf y 15).log = s.directWait.map (fun d => .param d.node d.index d.value) ∧ ∀ k, k ≠ 15 → brewOf y k = brewOf s k)) ∧
      ((brewOf s 15).st = .free → s.directWait = [] → exec (.jobStep .direct) s = .next s) ∧
      (∀ k, (brewOf s k).st = .spilling → does (.resync k) (fun y => (brewOf y k).st = .free ∧ (brewOf y k).log = [] ∧ (brewOf y k).claims = [] ∧
        (brewOf y k).outcome = (brewOf s k).outcome ∧ (brewOf y k).eff = (brewOf s k).eff)) ∧
      (∀ k, (brewOf s k).st ≠ .spilling → (brewOf s k).st ≠ .closing → exec (.jobStep (.resync k)) s = .next s) ∧
      (∀ k o f, (brewOf s k).out = some o → o.final = some f → (brewOf s k).st = .settling → (brewOf s k).finals = false → (∀ p ∈ o.main.pages, (pagesOf s p.unit).swapDue = false) →
        does (.finals k) (fun y => (brewOf y k).finals = true ∧ (brewOf y k).st = .settling)) ∧
      (∀ k, (brewOf s k).out = none ∨ (brewOf s k).finals = true → exec (.jobStep (.finals k)) s = .next s))

/-- FRAME_BOUNDARY (R14, R19, R27, R442, R467, R468, Table 1.4). That a transition acts between the taps and the release is the model's choice (log entry 115). -/
def Obligations.FrameBoundaries : Prop :=
  ∀ (x : BoundaryIn) (s : State),
    (s.power.boot ≠ 0 ∨ s.mode = .off ∨ s.mode = .standby → exec (.frameBoundary x) s = .next s) ∧
    (s.power.boot = 0 → s.mode ≠ .off → s.mode ≠ .standby → EndsIn (.frameBoundary x) s (fun y =>
      y.frame = s.frame + 1 ∧ y.tick = x.t ∧ y.tickPrev = s.tick ∧ fld y Fld.SUPPLY_STATUS_VBAK_LOW = bnat x.vbakLow ∧ y.ledger.snapFrame = s.frame + 1 ∧
      y.fs = s.fs ∧ y.power.boot = 0 ∧
      (let due := s.power.pend.find? (fun p => decide (p.frame ≤ s.frame + 1))
       (due = none → y.mode = s.mode) ∧
       (∀ p, due = some p → p.target = 2 → s.mode = .shadow → y.mode = .configure) ∧
       (∀ p, due = some p → p.target = 2 → s.power.pend = [p] → y.mode = .configure ∨ ((s.mode = .run ∨ s.mode = .safe) ∧ y.mode = s.mode)) ∧
       (∀ p, due = some p → p.target = 3 → y.mode = .run) ∧
       (∀ p, due = some p → p.target = 4 → y.mode = .shadow) ∧
       (∀ p, due = some p → p.target = 5 → y.mode = .safe ∧ fld y Fld.MODE_STATUS_SAFE_CAUSE = p.cause % 8))))

/-- Post-modification (R78), by every move of Table 4.4 with an address operand. The base is given by the least power of two that holds the buffer. -/
def Obligations.PointerSteps : Prop :=
  ∀ (st : StallId) (op : BitVec 6) (f : ArithF) (g : MoveArgs) (s : State), canIssue s st.val = true → g.am = 1 ∨ g.am = 3 →
    let v := seen st.val s
    let p := (pReg v g.mp.toNat).toNat
    let l := (lReg v g.mp.toNat).toNat
    let m : Int := if g.am = 1 then (mReg v (g.mofs.toNat / 2 ^ 10)).toInt else g.mofs.toInt
    let moves : List (BitVec 4 × Instr) := [(1, .ldS st op f g), (2, .stS st op f g), (3, .ldK st op f g), (4, .stK st op f g), (5, .ldH st op f g), (6, .stH st op f g),
      (7, .ldC st op f g), (8, .stC st op f g), (9, .ldA st op f g), (10, .stA st op f g), (11, .ldX st op f g), (12, .stX st op f g), (13, .ldSp st op f g),
      (14, .ldCp st op f g)]
    (formAddr v g).addr = p ∧
    ∀ mi ∈ moves, wordALegal op f ⟨mi.1, g⟩ = true →
      let steps (q : Int) (P : State → Prop) : Prop := EndsIn mi.2 s (fun t => Pends st.val 1 (.p g.mp.toNat (BitVec.ofInt 20 q)) s t ∧ P t)
      (l = 0 → steps (p + m) (fun _ => True)) ∧
      (∀ k, 0 < l → l ≤ 2 ^ k → (∀ j < k, 2 ^ j < l) →
        let base : Int := p - p % 2 ^ k
        let q1 := p - base + m
        let q2 := if l ≤ q1 then q1 - l else q1
        let q3 := if q2 < 0 then q2 + l else q2
        (0 ≤ q3 ∧ q3 < l → steps (base + q3) (fun _ => True)) ∧
        (q3 < 0 ∨ l ≤ q3 → steps base (Stuck st.val 6)))

/-- The end of a stall's issues (R106). A late stall is released again at once (R40, R43), so the SYNC here is of a frame that is not late. -/
def Obligations.NothingAfterSync : Prop :=
  ∀ (st : StallId) (s : State),
    let u := st.val
    (∀ raw, canIssue s u = true → ctlPlace (seen u s) = true → s.frame ≤ (unitOf s u).frame → EndsIn (.sync st raw) s (fun y =>
      (unitOf y u).st = .ended ∧ ∀ i w, issuedWord i = some (u, w) → exec i y = .next y)) ∧
    ((unitOf s u).st = .ended → ∀ i w, issuedWord i = some (u, w) → exec i s = .next s) ∧
    (∀ op f g, canIssue s u = true → (seen u s).pc = 8191 → (seen u s).delay = none → (seen u s).loop = none →
      (wordALegal 0x00 f ⟨0, ⟨0, 0, 0, 0⟩⟩ = true → EndsIn (.nop st f ⟨0, ⟨0, 0, 0, 0⟩⟩) s (fun y => (stallOf y u).pc = 0)) ∧
      (wordALegal op f ⟨1, g⟩ = true → EndsIn (.ldS st op f g) s (fun y => (stallOf y u).pc = 0)) ∧
      (∀ reg imm, wordCLegal 1 reg imm = true → EndsIn (.ldi st reg imm) s (fun y => (stallOf y u).pc = 0)))
end

