-- ==== Sys2Proof/Laws/Map.lean ====
section
/-! SUPPORT. Laws of the sparse maps: a read after a write, at the same key and at another, and the canonical form, which every write keeps. -/

namespace Sys2Proof.Machine

variable {α : Type}

@[simp] theorem smapGet_nil (d : Nat → α) (k : Nat) : smapGet d [] k = d k := rfl

theorem smapGet_insert (d : Nat → α) (k : Nat) (v : α) (m : SMap α) (j : Nat) :
    smapGet d (smapInsert k v m) j = if j = k then v else smapGet d m j := by
  induction m with
  | nil => rfl
  | cons p t ih =>
    obtain ⟨i, w⟩ := p
    simp only [smapInsert]
    split
    · simp only [smapGet]
    · split
      · rename_i h; subst h
        simp only [smapGet]
        split <;> rfl
      · rename_i h
        simp only [smapGet, ih]
        split
        · rename_i hj; subst hj
          rw [if_neg (fun e => h e.symm)]
        · rfl

theorem smapGet_erase (d : Nat → α) (k : Nat) (m : SMap α) (j : Nat) :
    smapGet d (smapErase k m) j = if j = k then d k else smapGet d m j := by
  induction m with
  | nil => by_cases h : j = k <;> simp [smapErase, h]
  | cons p t ih =>
    obtain ⟨i, w⟩ := p
    simp only [smapErase] at ih ⊢
    by_cases hi : i = k
    · subst hi
      simp only [List.filter_cons, ne_eq, not_true_eq_false, decide_false, Bool.false_eq_true, if_false, ih, smapGet]
      split <;> rfl
    · simp only [List.filter_cons, ne_eq, hi, not_false_eq_true, decide_true, if_true, smapGet, ih]
      by_cases hj : j = i
      · subst hj; simp [hi]
      · simp [hj]

variable [DecidableEq α]

/-- What a map reads as after a write, at every key. -/
theorem smapGet_set (d : Nat → α) (k : Nat) (v : α) (m : SMap α) (j : Nat) :
    smapGet d (smapSet d k v m) j = if j = k then v else smapGet d m j := by
  unfold smapSet
  split
  · rename_i h; rw [smapGet_erase, h]
  · exact smapGet_insert d k v m j

@[simp] theorem smapGet_set_self (d : Nat → α) (k : Nat) (v : α) (m : SMap α) :
    smapGet d (smapSet d k v m) k = v := by rw [smapGet_set, if_pos rfl]

theorem smapGet_set_ne (d : Nat → α) {k j : Nat} (v : α) (m : SMap α) (h : j ≠ k) :
    smapGet d (smapSet d k v m) j = smapGet d m j := by rw [smapGet_set, if_neg h]

/-- A looser bound keeps the canonical form. -/
theorem smapWfFrom_mono (d : Nat → α) {lo lo' : Option Nat} {m : SMap α} (h : smapWfFrom d lo m = true)
    (hlo : ∀ l', lo' = some l' → ∃ l, lo = some l ∧ l' ≤ l) : smapWfFrom d lo' m = true := by
  cases m with
  | nil => rfl
  | cons p t =>
    obtain ⟨k, v⟩ := p
    simp only [smapWfFrom, Bool.and_eq_true, decide_eq_true_eq] at h ⊢
    refine ⟨⟨?_, h.1.2⟩, h.2⟩
    cases lo' with
    | none => rfl
    | some l' =>
      obtain ⟨l, rfl, hl⟩ := hlo l' rfl
      have := h.1.1
      simp only [decide_eq_true_eq] at this ⊢
      omega

theorem smapWfFrom_filter (d : Nat → α) (p : Nat × α → Bool) :
    ∀ (m : SMap α) (lo : Option Nat), smapWfFrom d lo m = true → smapWfFrom d lo (m.filter p) = true := by
  intro m
  induction m with
  | nil => intro lo h; exact h
  | cons x t ih =>
    intro lo h
    obtain ⟨k, v⟩ := x
    simp only [smapWfFrom, Bool.and_eq_true, decide_eq_true_eq] at h
    rw [List.filter_cons]
    split
    · simp only [smapWfFrom, Bool.and_eq_true, decide_eq_true_eq]
      exact ⟨h.1, ih _ h.2⟩
    · refine ih lo (smapWfFrom_mono d h.2 ?_)
      intro l' hl
      subst hl
      have := h.1.1
      simp only [decide_eq_true_eq] at this
      exact ⟨k, rfl, by omega⟩

theorem smapWfFrom_insert (d : Nat → α) (k : Nat) (v : α) (hv : v ≠ d k) :
    ∀ (m : SMap α) (lo : Option Nat), (∀ l, lo = some l → l < k) → smapWfFrom d lo m = true →
      smapWfFrom d lo (smapInsert k v m) = true := by
  intro m
  induction m with
  | nil =>
    intro lo hlo _
    cases lo with
    | none => simp [smapInsert, smapWfFrom, hv]
    | some l => simp [smapInsert, smapWfFrom, hv, hlo l rfl]
  | cons x t ih =>
    intro lo hlo h
    obtain ⟨j, w⟩ := x
    simp only [smapWfFrom, Bool.and_eq_true, decide_eq_true_eq] at h
    simp only [smapInsert]
    split
    · rename_i hkj
      simp only [smapWfFrom, Bool.and_eq_true, decide_eq_true_eq]
      refine ⟨⟨?_, hv⟩, ⟨hkj, h.1.2⟩, h.2⟩
      cases lo with
      | none => rfl
      | some l => simpa using hlo l rfl
    · split
      · rename_i _ hkj
        subst hkj
        simp only [smapWfFrom, Bool.and_eq_true, decide_eq_true_eq]
        refine ⟨⟨?_, hv⟩, h.2⟩
        cases lo with
        | none => rfl
        | some l => simpa using hlo l rfl
      · simp only [smapWfFrom, Bool.and_eq_true, decide_eq_true_eq]
        refine ⟨h.1, ih _ ?_ h.2⟩
        intro l hl
        cases hl
        omega

/-- The canonical form survives the removal of entries. -/
theorem smapWf_filter (d : Nat → α) (p : Nat × α → Bool) (m : SMap α) (h : smapWf d m = true) :
    smapWf d (m.filter p) = true := smapWfFrom_filter d p m none h

/-- Every write keeps the canonical form. -/
theorem smapWf_set (d : Nat → α) (k : Nat) (v : α) (m : SMap α) (h : smapWf d m = true) :
    smapWf d (smapSet d k v m) = true := by
  unfold smapSet
  split
  · exact smapWf_filter d _ m h
  · rename_i hv
    exact smapWfFrom_insert d k v hv m none (fun l hl => by cases hl) h

/-- A pass over the entries that keeps every key it lists, and lists no default. -/
theorem smapWfFrom_filterMap (d : Nat → α) (f : Nat × α → Option (Nat × α))
    (hf : ∀ x y, x.2 ≠ d x.1 → f x = some y → y.1 = x.1 ∧ y.2 ≠ d y.1) :
    ∀ (m : SMap α) (lo : Option Nat), smapWfFrom d lo m = true → smapWfFrom d lo (m.filterMap f) = true := by
  intro m
  induction m with
  | nil => intro lo h; exact h
  | cons x t ih =>
    intro lo h
    obtain ⟨k, v⟩ := x
    simp only [smapWfFrom, Bool.and_eq_true, decide_eq_true_eq] at h
    rw [List.filterMap_cons]
    split
    · refine ih lo (smapWfFrom_mono d h.2 ?_)
      intro l' hl
      subst hl
      have := h.1.1
      simp only [decide_eq_true_eq] at this
      exact ⟨k, rfl, by omega⟩
    · rename_i y hy
      obtain ⟨k', w⟩ := y
      obtain ⟨rfl, hw⟩ := hf (k, v) (k', w) h.1.2 hy
      simp only [smapWfFrom, Bool.and_eq_true, decide_eq_true_eq]
      exact ⟨⟨h.1.1, hw⟩, ih _ h.2⟩

theorem smapWf_filterMap (d : Nat → α) (f : Nat × α → Option (Nat × α))
    (hf : ∀ x y, x.2 ≠ d x.1 → f x = some y → y.1 = x.1 ∧ y.2 ≠ d y.1) (m : SMap α) (h : smapWf d m = true) :
    smapWf d (m.filterMap f) = true := smapWfFrom_filterMap d f hf m none h

end Sys2Proof.Machine
end

