-- ==== Sys2Proof/Laws/Kept.lean ====
section
/-! SUPPORT. What every command keeps: the queue behind it, and the canonical form of the state's maps. The rules here take a goal apart along the
shape of a definition; the files Laws/Kept*.lean prove one lemma for each operation with them. -/

namespace Sys2Proof.Machine

/-- The queue is `q`, and the maps are in canonical form. -/
structure Kept (q : List Instr) (s : State) : Prop where
  queue : s.pending = q
  mem : Memory.wf s.mem = true
  regs : smapWf regDefault s.regs = true
  stalls : smapWf (fun _ => stallReset) s.stalls = true
  units : smapWf (fun _ => unitIdle) s.units = true

variable {q : List Instr}

/-- A state that agrees with a kept one on the fields concerned is kept. -/
theorem Kept.of_eq {a b : State} (h : Kept q a) (h1 : b.pending = a.pending) (h2 : b.mem = a.mem) (h3 : b.regs = a.regs)
    (h4 : b.stalls = a.stalls) (h5 : b.units = a.units) : Kept q b :=
  ⟨h1 ▸ h.queue, h2 ▸ h.mem, h3 ▸ h.regs, h4 ▸ h.stalls, h5 ▸ h.units⟩

theorem kept_ite {c : Prop} [Decidable c] {a b : State} (ha : Kept q a) (hb : Kept q b) : Kept q (if c then a else b) := by
  split
  · exact ha
  · exact hb

/-- What every pass of a loop keeps, the loop keeps. -/
theorem forEach_inv {α β : Type} {P : β → Prop} {l : List α} {f : α → β → β} {b : β} (hf : ∀ a b, P b → P (f a b)) (h : P b) :
    P (forEach l f b) := by
  unfold forEach
  induction l generalizing b with
  | nil => exact h
  | cons a t ih => exact ih (hf a b h)

theorem kept_forEach {α : Type} {l : List α} {f : α → State → State} {s : State} (hf : ∀ a s, Kept q s → Kept q (f a s)) (h : Kept q s) :
    Kept q (forEach l f s) := forEach_inv (P := Kept q) hf h

theorem kept_foldl {α : Type} {l : List α} {f : State → α → State} {s : State} (hf : ∀ s a, Kept q s → Kept q (f s a)) (h : Kept q s) :
    Kept q (l.foldl f s) := by
  induction l generalizing s with
  | nil => exact h
  | cons a t ih => exact ih (hf s a h)

theorem kept_foldlPair {α β : Type} {l : List α} {f : State × β → α → State × β} {p : State × β}
    (hf : ∀ p a, Kept q p.1 → Kept q (f p a).1) (h : Kept q p.1) : Kept q (l.foldl f p).1 := by
  induction l generalizing p with
  | nil => exact h
  | cons a t ih => exact ih (hf p a h)

theorem kept_setRegWord {a w s} (h : Kept q s) : Kept q (setRegWord a w s) :=
  ⟨h.queue, h.mem, smapWf_set _ _ _ _ h.regs, h.stalls, h.units⟩

theorem kept_setStall {u st s} (h : Kept q s) : Kept q (setStall u st s) :=
  ⟨h.queue, h.mem, h.regs, smapWf_set _ _ _ _ h.stalls, h.units⟩

theorem kept_setUnit {u st s} (h : Kept q s) : Kept q (setUnit u st s) :=
  ⟨h.queue, h.mem, h.regs, h.stalls, smapWf_set _ _ _ _ h.units⟩

theorem Memory.wf_memPut {a b m} (h : Memory.wf m = true) : Memory.wf (memPut a b m) = true := smapWf_set _ _ _ _ h

theorem Memory.wf_memPutAll {bs m} : ∀ {a}, Memory.wf m = true → Memory.wf (memPutAll a bs m) = true := by
  induction bs generalizing m with
  | nil => intro a h; exact h
  | cons b t ih => intro a h; exact ih (Memory.wf_memPut h)

theorem kept_memPoke {a bs s} (h : Kept q s) : Kept q (memPoke a bs s) :=
  ⟨h.queue, Memory.wf_memPutAll h.mem, h.regs, h.stalls, h.units⟩

/-- The outcome, if it is a next state, is kept. -/
def KeptR (q : List Instr) (r : Res) : Prop := ∀ t, r = .next t → Kept q t

theorem keptR_next {s : State} (h : Kept q s) : KeptR q (.next s) := fun t ht => by cases ht; exact h

/-- A service that changes the state leaves it kept. -/
def KeptV (q : List Instr) (v : Service) : Prop := ∀ p t, v = .ok (p, t) → Kept q t

theorem keptV_errRep {a b} : KeptV q (errRep a b) := fun p t h => by cases h

theorem keptV_error {p} : KeptV q (.error p) := fun p t h => by cases h

theorem keptV_ok {p s} (h : Kept q s) : KeptV q (.ok (p, s)) := fun p t e => by cases e; exact h

theorem keptV_okRep {p s} (h : Kept q s) : KeptV q (okRep p s) := fun p t e => by cases e; exact h

theorem keptV_jobRep {j s} (h : Kept q s) : KeptV q (jobRep j s) := fun p t e => by cases e; exact h

theorem keptV_need {c a b} {k : Service} (h : KeptV q k) : KeptV q (need c a b k) := by
  unfold need
  split
  · exact h
  · exact keptV_errRep

theorem keptV_ite {c : Prop} [Decidable c] {a b : Service} (ha : KeptV q a) (hb : KeptV q b) : KeptV q (if c then a else b) := by
  split
  · exact ha
  · exact hb

theorem keptV_shaped {r n l} {k : Service} (h : KeptV q k) : KeptV q (shaped r n l k) := by
  unfold shaped
  split
  · exact keptV_errRep
  · split
    · exact keptV_errRep
    · exact h

end Sys2Proof.Machine
end

