-- ==== Sys2Proof/Laws/Kept1.lean ====
section
/-! SUPPORT. The operations of Machine/ Ops, Operands, StallIssue, Ramps, PairSync, StallControl, Xbar, Drover keep the queue and the canonical form. -/

namespace Sys2Proof.Machine

variable {q : List Instr}

/-! ### Ops -/

theorem kept_setFld {a0 a1 a2 s} (h3 : Kept q s) : Kept q (setFld a0 a1 a2 s) := by
  unfold setFld
  repeat'
    first
      | (with_reducible assumption)
      | (with_reducible apply kept_setRegWord)

theorem kept_setBit {a0 a1 s} (h2 : Kept q s) : Kept q (setBit a0 a1 s) := by
  unfold setBit
  repeat'
    first
      | (with_reducible assumption)
      | (with_reducible apply kept_setFld)

theorem kept_clrBit {a0 a1 s} (h2 : Kept q s) : Kept q (clrBit a0 a1 s) := by
  unfold clrBit
  repeat'
    first
      | (with_reducible assumption)
      | (with_reducible apply kept_setFld)

theorem kept_addFld {a0 a1 a2 s} (h3 : Kept q s) : Kept q (addFld a0 a1 a2 s) := by
  unfold addFld
  repeat'
    first
      | (with_reducible assumption)
      | (with_reducible apply kept_setFld)

theorem kept_countFld {a0 a1 s} (h2 : Kept q s) : Kept q (countFld a0 a1 s) := by
  unfold countFld
  repeat'
    first
      | (with_reducible assumption)
      | (with_reducible apply kept_addFld)

theorem kept_setPair {a0 a1 a2 a3 s} (h4 : Kept q s) : Kept q (setPair a0 a1 a2 a3 s) := by
  unfold setPair
  repeat'
    first
      | (with_reducible assumption)
      | (with_reducible apply kept_setFld)

theorem kept_forwardWrite {a0 a1 s} (h2 : Kept q s) : Kept q (forwardWrite a0 a1 s) := by
  unfold forwardWrite
  repeat'
    first
      | (with_reducible assumption)
      | split
      | (with_reducible (refine Kept.mk ?_ ?_ ?_ ?_ ?_ <;> dsimp only <;> first | exact Kept.queue ‹_› | exact Kept.mem ‹_› | exact Kept.regs ‹_› | exact Kept.stalls ‹_› | exact Kept.units ‹_›))

theorem Memory.wf_putIn {l : List (Byte × Nat)} {areas a} :
    ∀ {m}, Memory.wf m = true → Memory.wf (l.foldl (fun m x => if inAreas areas (a + x.2) then m else memPut (a + x.2) x.1 m) m) = true := by
  induction l with
  | nil => exact fun h => h
  | cons x t ih =>
    intro m h
    refine ih ?_
    dsimp only
    split
    · exact h
    · exact Memory.wf_memPut h

theorem kept_memWrite {a bs s} (h : Kept q s) : Kept q (memWrite a bs s) := by
  unfold memWrite
  refine kept_forwardWrite ?_
  split
  · exact kept_memPoke h
  · exact ⟨h.queue, Memory.wf_putIn h.mem, h.regs, h.stalls, h.units⟩

theorem kept_raise {a0 a1 a2 s} (h3 : Kept q s) : Kept q (raise a0 a1 a2 s) := by
  unfold raise
  repeat'
    first
      | (with_reducible (refine Kept.mk ?_ ?_ ?_ ?_ ?_ <;> dsimp only <;> first | exact Kept.queue ‹_› | exact Kept.mem ‹_› | exact Kept.regs ‹_› | exact Kept.stalls ‹_› | exact Kept.units ‹_›))

theorem kept_raiseAt {a0 a1 a2 a3 s} (h4 : Kept q s) : Kept q (raiseAt a0 a1 a2 a3 s) := by
  unfold raiseAt
  repeat'
    first
      | (with_reducible (refine Kept.mk ?_ ?_ ?_ ?_ ?_ <;> dsimp only <;> first | exact Kept.queue ‹_› | exact Kept.mem ‹_› | exact Kept.regs ‹_› | exact Kept.stalls ‹_› | exact Kept.units ‹_›))

theorem kept_raiseTo {a0 a1 a2 a3 s} (h4 : Kept q s) : Kept q (raiseTo a0 a1 a2 a3 s) := by
  unfold raiseTo
  repeat'
    first
      | (with_reducible (refine Kept.mk ?_ ?_ ?_ ?_ ?_ <;> dsimp only <;> first | exact Kept.queue ‹_› | exact Kept.mem ‹_› | exact Kept.regs ‹_› | exact Kept.stalls ‹_› | exact Kept.units ‹_›))

theorem kept_bumpFresh {s} (h0 : Kept q s) : Kept q (bumpFresh s) := by
  unfold bumpFresh
  repeat'
    first
      | (with_reducible (refine Kept.mk ?_ ?_ ?_ ?_ ?_ <;> dsimp only <;> first | exact Kept.queue ‹_› | exact Kept.mem ‹_› | exact Kept.regs ‹_› | exact Kept.stalls ‹_› | exact Kept.units ‹_›))

/-! ### Operands -/

theorem kept_setPages {a0 a1 s} (h2 : Kept q s) : Kept q (setPages a0 a1 s) := by
  unfold setPages
  repeat'
    first
      | (with_reducible (refine Kept.mk ?_ ?_ ?_ ?_ ?_ <;> dsimp only <;> first | exact Kept.queue ‹_› | exact Kept.mem ‹_› | exact Kept.regs ‹_› | exact Kept.stalls ‹_› | exact Kept.units ‹_›))

theorem kept_spUe {a0 s} (h1 : Kept q s) : Kept q (spUe a0 s) := by
  unfold spUe
  repeat'
    first
      | (with_reducible assumption)
      | (with_reducible apply kept_raise)
      | (with_reducible apply kept_setBit)
      | (with_reducible apply kept_setFld)
      | (with_reducible apply kept_countFld)

theorem kept_eccRead {a0 s} (h1 : Kept q s) : Kept q (eccRead a0 s) := by
  unfold eccRead
  repeat'
    first
      | (with_reducible assumption)
      | (with_reducible apply kept_countFld)
      | (with_reducible apply kept_spUe)
      | (refine kept_forEach (fun _ _ _ => ?_) ?_)
      | (with_reducible apply kept_ite)
      | (with_reducible (refine Kept.mk ?_ ?_ ?_ ?_ ?_ <;> dsimp only <;> first | exact Kept.queue ‹_› | exact Kept.mem ‹_› | exact Kept.regs ‹_› | exact Kept.stalls ‹_› | exact Kept.units ‹_›))

theorem kept_eccWrite {a0 a1 s} (h2 : Kept q s) : Kept q (eccWrite a0 a1 s) := by
  unfold eccWrite
  repeat'
    first
      | (with_reducible assumption)
      | (extract_lets +onlyGivenNames x; refine (fun (hx : Kept q x) => ?_) ?_; (rotate_left; unfold x; clear x; rotate_left); (try clear_value x); revert x; intro y hy)
      | (extract_lets +onlyGivenNames x; (try clear_value x); revert x; intro y)
      | (with_reducible apply kept_memWrite)
      | (with_reducible apply kept_countFld)
      | (refine kept_forEach (fun _ _ _ => ?_) ?_)
      | (with_reducible apply kept_ite)
      | (with_reducible (refine Kept.mk ?_ ?_ ?_ ?_ ?_ <;> dsimp only <;> first | exact Kept.queue ‹_› | exact Kept.mem ‹_› | exact Kept.regs ‹_› | exact Kept.stalls ‹_› | exact Kept.units ‹_›))

theorem kept_landList {a0 a1 s} (h2 : Kept q s) : Kept q (landList a0 a1 s) := by
  unfold landList
  repeat'
    first
      | (with_reducible assumption)
      | (with_reducible apply kept_eccWrite)
      | (with_reducible apply kept_setStall)
      | (refine kept_forEach (fun _ _ _ => ?_) ?_)
      | split

theorem kept_landTo {a0 a1 s} (h2 : Kept q s) : Kept q (landTo a0 a1 s) := by
  unfold landTo
  repeat'
    first
      | (with_reducible assumption)
      | (with_reducible apply kept_landList)
      | (with_reducible apply kept_setStall)

theorem kept_landDue {a0 s} (h1 : Kept q s) : Kept q (landDue a0 s) := by
  unfold landDue
  repeat'
    first
      | (with_reducible assumption)
      | (with_reducible apply kept_landTo)

theorem kept_drain {a0 s} (h1 : Kept q s) : Kept q (drain a0 s) := by
  unfold drain
  repeat'
    first
      | (with_reducible assumption)
      | (with_reducible apply kept_landTo)

/-! ### StallIssue -/

theorem kept_ledgerAdd {a0 a1 a2 a3 s} (h4 : Kept q s) : Kept q (ledgerAdd a0 a1 a2 a3 s) := by
  unfold ledgerAdd
  repeat'
    first
      | (with_reducible assumption)
      | (extract_lets +onlyGivenNames x; (try clear_value x); revert x; intro y)
      | split
      | (with_reducible (refine Kept.mk ?_ ?_ ?_ ?_ ?_ <;> dsimp only <;> first | exact Kept.queue ‹_› | exact Kept.mem ‹_› | exact Kept.regs ‹_› | exact Kept.stalls ‹_› | exact Kept.units ‹_›))

theorem kept_countDiscard {s} (h0 : Kept q s) : Kept q (countDiscard s) := by
  unfold countDiscard
  repeat'
    first
      | (with_reducible assumption)
      | (with_reducible apply kept_countFld)

theorem kept_orSticky {a0 a1 s} (h2 : Kept q s) : Kept q (orSticky a0 a1 s) := by
  unfold orSticky
  repeat'
    first
      | (with_reducible assumption)
      | (with_reducible apply kept_setStall)

theorem kept_stallFault {a0 s} (h1 : Kept q s) : Kept q (stallFault a0 s) := by
  unfold stallFault
  repeat'
    first
      | (with_reducible assumption)
      | (with_reducible apply kept_raise)

theorem kept_finishIssue {a0 s} (h1 : Kept q s) : Kept q (finishIssue a0 s) := by
  unfold finishIssue
  repeat'
    first
      | (with_reducible assumption)
      | (with_reducible apply kept_setStall)

theorem kept_issueIllegal {a0 s} (h1 : Kept q s) : Kept q (issueIllegal a0 s) := by
  unfold issueIllegal
  repeat'
    first
      | (with_reducible assumption)
      | (with_reducible apply kept_finishIssue)
      | (with_reducible apply kept_stallFault)
      | (with_reducible apply kept_orSticky)

theorem kept_outputStore {a0 a1 a2 s} (h3 : Kept q s) : Kept q (outputStore a0 a1 a2 s) := by
  unfold outputStore
  repeat'
    first
      | (with_reducible assumption)
      | (with_reducible apply kept_orSticky)
      | split
      | (with_reducible (refine Kept.mk ?_ ?_ ?_ ?_ ?_ <;> dsimp only <;> first | exact Kept.queue ‹_› | exact Kept.mem ‹_› | exact Kept.regs ‹_› | exact Kept.stalls ‹_› | exact Kept.units ‹_›))

theorem kept_moveOut {a0 a1 s} (h2 : Kept q s) : Kept q (moveOut a0 a1 s) := by
  unfold moveOut
  repeat'
    first
      | (with_reducible assumption)
      | (with_reducible apply kept_outputStore)
      | split

theorem kept_countLate {a0 a1 s} (h2 : Kept q s) : Kept q (countLate a0 a1 s) := by
  unfold countLate
  repeat'
    first
      | (with_reducible assumption)
      | (with_reducible apply kept_setFld)
      | (with_reducible apply kept_countFld)
      | (refine kept_forEach (fun _ _ _ => ?_) ?_)

theorem kept_issueA {a0 a1 a2 a3 s} (h4 : Kept q s) : Kept q (issueA a0 a1 a2 a3 s) := by
  unfold issueA
  repeat'
    first
      | (with_reducible assumption)
      | (with_reducible apply kept_landDue)
      | (with_reducible apply kept_issueIllegal)
      | (with_reducible apply kept_setStall)
      | (with_reducible apply kept_orSticky)
      | (with_reducible apply kept_eccRead)
      | (with_reducible apply kept_finishIssue)
      | (with_reducible apply kept_moveOut)
      | (with_reducible apply kept_countLate)
      | (with_reducible apply kept_stallFault)
      | (with_reducible apply kept_ite)

theorem kept_issueC {a0 a1 a2 a3 s} (h4 : Kept q s) : Kept q (issueC a0 a1 a2 a3 s) := by
  unfold issueC
  repeat'
    first
      | (with_reducible assumption)
      | (with_reducible apply kept_landDue)
      | (with_reducible apply kept_issueIllegal)
      | (with_reducible apply kept_finishIssue)
      | (with_reducible apply kept_orSticky)
      | (with_reducible apply kept_setStall)
      | (with_reducible apply kept_ite)

theorem kept_injectFill {a0 a1 a2 a3 s} (h4 : Kept q s) : Kept q (injectFill a0 a1 a2 a3 s) := by
  unfold injectFill
  repeat'
    first
      | (with_reducible assumption)
      | (with_reducible apply kept_setStall)

theorem kept_dropSkippedEntries {a0 a1 s} (h2 : Kept q s) : Kept q (dropSkippedEntries a0 a1 s) := by
  unfold dropSkippedEntries
  repeat'
    first
      | (with_reducible assumption)
      | (with_reducible apply kept_ledgerAdd)
      | (with_reducible apply kept_setStall)
      | (refine kept_forEach (fun _ _ _ => ?_) ?_)

theorem kept_dropSkippedFlags {a0 a1 s} (h2 : Kept q s) : Kept q (dropSkippedFlags a0 a1 s) := by
  unfold dropSkippedFlags
  repeat'
    first
      | (with_reducible assumption)
      | (with_reducible apply kept_setStall)
      | (refine kept_forEach (fun _ _ _ => ?_) ?_)
      | (with_reducible apply kept_ite)

theorem kept_moveToken {a0 a1 a2 s} (h3 : Kept q s) : Kept q (moveToken a0 a1 a2 s) := by
  unfold moveToken
  repeat'
    first
      | (with_reducible assumption)
      | (with_reducible apply kept_setFld)

theorem kept_takeSwap {a0 s} (h1 : Kept q s) : Kept q (takeSwap a0 s) := by
  unfold takeSwap
  repeat'
    first
      | (with_reducible apply kept_setPages)
      | (with_reducible (refine Kept.mk ?_ ?_ ?_ ?_ ?_ <;> dsimp only <;> first | exact Kept.queue ‹_› | exact Kept.mem ‹_› | exact Kept.regs ‹_› | exact Kept.stalls ‹_› | exact Kept.units ‹_›))

theorem kept_takeTokens {a0 s} (h1 : Kept q s) : Kept q (takeTokens a0 s) := by
  unfold takeTokens
  repeat'
    first
      | (with_reducible assumption)
      | (with_reducible apply kept_moveToken)
      | (with_reducible apply kept_setStall)
      | (refine kept_forEach (fun _ _ _ => ?_) ?_)

theorem kept_windowCheck {a0 s} (h1 : Kept q s) : Kept q (windowCheck a0 s) := by
  unfold windowCheck
  repeat'
    first
      | (with_reducible assumption)
      | (with_reducible apply kept_stallFault)
      | (with_reducible apply kept_orSticky)
      | (with_reducible apply kept_ite)

theorem kept_acquireNext {s} (h0 : Kept q s) : Kept q (acquireNext s) := by
  unfold acquireNext
  repeat'
    first
      | (with_reducible apply kept_setFld)
      | (with_reducible (refine Kept.mk ?_ ?_ ?_ ?_ ?_ <;> dsimp only <;> first | exact Kept.queue ‹_› | exact Kept.mem ‹_› | exact Kept.regs ‹_› | exact Kept.stalls ‹_› | exact Kept.units ‹_›))

theorem kept_installCut {a0 a1 s} (h2 : Kept q s) : Kept q (installCut a0 a1 s) := by
  unfold installCut
  repeat'
    first
      | (with_reducible assumption)
      | (with_reducible apply kept_acquireNext)
      | (with_reducible apply kept_setStall)
      | (with_reducible apply kept_ite)

theorem kept_startStall {a0 a1 a2 s} (h3 : Kept q s) : Kept q (startStall a0 a1 a2 s) := by
  unfold startStall
  repeat'
    first
      | (with_reducible assumption)
      | (with_reducible apply kept_installCut)
      | (with_reducible apply kept_takeTokens)
      | (with_reducible apply kept_takeSwap)
      | (with_reducible apply kept_drain)
      | (with_reducible apply kept_windowCheck)
      | (with_reducible apply kept_setUnit)
      | (with_reducible apply kept_setStall)
      | (with_reducible apply kept_ite)

theorem kept_recordEnd {a0 a1 a2 s} (h3 : Kept q s) : Kept q (recordEnd a0 a1 a2 s) := by
  unfold recordEnd
  repeat'
    first
      | (with_reducible assumption)
      | (with_reducible apply kept_setUnit)

theorem kept_skipTo {a0 a1 a2 a3 s} (h4 : Kept q s) : Kept q (skipTo a0 a1 a2 a3 s) := by
  unfold skipTo
  repeat'
    first
      | (with_reducible assumption)
      | (with_reducible apply kept_dropSkippedFlags)
      | (with_reducible apply kept_dropSkippedEntries)
      | (with_reducible apply kept_setUnit)

theorem kept_stallEnded {a0 a1 a2 s} (h3 : Kept q s) : Kept q (stallEnded a0 a1 a2 s) := by
  unfold stallEnded
  repeat'
    first
      | (with_reducible assumption)
      | (with_reducible apply kept_recordEnd)
      | (with_reducible apply kept_startStall)
      | (with_reducible apply kept_skipTo)
      | (with_reducible apply kept_ite)

theorem kept_certCheck {a0 s} (h1 : Kept q s) : Kept q (certCheck a0 s) := by
  unfold certCheck
  repeat'
    first
      | (with_reducible assumption)
      | (with_reducible apply kept_raise)
      | (with_reducible apply kept_setFld)
      | (with_reducible apply kept_countFld)
      | (with_reducible apply kept_setBit)
      | (with_reducible apply kept_orSticky)
      | (with_reducible apply kept_ite)

/-! ### Ramps -/

theorem kept_setMeter {a0 a1 s} (h2 : Kept q s) : Kept q (setMeter a0 a1 s) := by
  unfold setMeter
  repeat'
    first
      | (with_reducible (refine Kept.mk ?_ ?_ ?_ ?_ ?_ <;> dsimp only <;> first | exact Kept.queue ‹_› | exact Kept.mem ‹_› | exact Kept.regs ‹_› | exact Kept.stalls ‹_› | exact Kept.units ‹_›))

theorem kept_rampAdvance {a0 a1 s} (h2 : Kept q s) : Kept q (rampAdvance a0 a1 s) := by
  unfold rampAdvance
  repeat'
    first
      | (with_reducible (refine Kept.mk ?_ ?_ ?_ ?_ ?_ <;> dsimp only <;> first | exact Kept.queue ‹_› | exact Kept.mem ‹_› | exact Kept.regs ‹_› | exact Kept.stalls ‹_› | exact Kept.units ‹_›))

theorem kept_fadeAdvance {a0 a1 s} (h2 : Kept q s) : Kept q (fadeAdvance a0 a1 s) := by
  unfold fadeAdvance
  repeat'
    first
      | (with_reducible (refine Kept.mk ?_ ?_ ?_ ?_ ?_ <;> dsimp only <;> first | exact Kept.queue ‹_› | exact Kept.mem ‹_› | exact Kept.regs ‹_› | exact Kept.stalls ‹_› | exact Kept.units ‹_›))

/-! ### PairSync -/

theorem kept_sweepCapture {a0 a1 s} (h2 : Kept q s) : Kept q (sweepCapture a0 a1 s) := by
  unfold sweepCapture
  repeat'
    first
      | (with_reducible assumption)
      | (with_reducible apply kept_ite)
      | (with_reducible (refine Kept.mk ?_ ?_ ?_ ?_ ?_ <;> dsimp only <;> first | exact Kept.queue ‹_› | exact Kept.mem ‹_› | exact Kept.regs ‹_› | exact Kept.stalls ‹_› | exact Kept.units ‹_›))

theorem kept_cutCapture {a0 a1 s} (h2 : Kept q s) : Kept q (cutCapture a0 a1 s) := by
  unfold cutCapture
  repeat'
    first
      | (with_reducible assumption)
      | split
      | (with_reducible (refine Kept.mk ?_ ?_ ?_ ?_ ?_ <;> dsimp only <;> first | exact Kept.queue ‹_› | exact Kept.mem ‹_› | exact Kept.regs ‹_› | exact Kept.stalls ‹_› | exact Kept.units ‹_›))

theorem kept_pairSync {a0 a1 s} (h2 : Kept q s) : Kept q (pairSync a0 a1 s) := by
  unfold pairSync
  repeat'
    first
      | (with_reducible assumption)
      | (with_reducible apply kept_cutCapture)
      | (with_reducible apply kept_sweepCapture)

/-! ### StallControl -/

theorem kept_issueB {u legal s} {body : State → State} (hb : ∀ s, Kept q s → Kept q (body s)) (h : Kept q s) :
    Kept q (issueB u legal body s) := by
  unfold issueB
  repeat'
    first
      | (with_reducible assumption)
      | (with_reducible apply kept_issueIllegal)
      | (with_reducible apply kept_landDue)
      | (with_reducible apply hb)
      | (extract_lets +onlyGivenNames x; refine (fun (hx : Kept q x) => ?_) ?_; (rotate_left; unfold x; clear x; rotate_left); (try clear_value x); revert x; intro y hy)
      | split

theorem kept_finishControl {a0 a1 s} (h2 : Kept q s) : Kept q (finishControl a0 a1 s) := by
  unfold finishControl
  repeat'
    first
      | (with_reducible assumption)
      | (with_reducible apply kept_setStall)

theorem kept_ctlBr {a0 a1 a2 s} (h3 : Kept q s) : Kept q (ctlBr a0 a1 a2 s) := by
  unfold ctlBr
  repeat'
    first
      | (with_reducible assumption)
      | (refine kept_issueB (fun _ _ => ?_) ?_)
      | (with_reducible apply kept_finishControl)

theorem kept_ctlCall {a0 a1 a2 s} (h3 : Kept q s) : Kept q (ctlCall a0 a1 a2 s) := by
  unfold ctlCall
  repeat'
    first
      | (with_reducible assumption)
      | (refine kept_issueB (fun _ _ => ?_) ?_)
      | (with_reducible apply kept_finishControl)
      | (with_reducible apply kept_setStall)
      | (with_reducible apply kept_orSticky)
      | (with_reducible apply kept_ite)

theorem kept_ctlRet {a0 a1 s} (h2 : Kept q s) : Kept q (ctlRet a0 a1 s) := by
  unfold ctlRet
  repeat'
    first
      | (with_reducible assumption)
      | (extract_lets +onlyGivenNames x; (try clear_value x); revert x; intro y)
      | (refine kept_issueB (fun _ _ => ?_) ?_)
      | (with_reducible apply kept_finishControl)
      | (with_reducible apply kept_setStall)
      | (with_reducible apply kept_orSticky)
      | split

theorem kept_ctlRepeat {a0 a1 a2 a3 a4 s} (h5 : Kept q s) : Kept q (ctlRepeat a0 a1 a2 a3 a4 s) := by
  unfold ctlRepeat
  repeat'
    first
      | (with_reducible assumption)
      | (refine kept_issueB (fun _ _ => ?_) ?_)
      | (with_reducible apply kept_setStall)
      | (with_reducible apply kept_ite)

theorem kept_iterationEnd {a0 s} (h1 : Kept q s) : Kept q (iterationEnd a0 s) := by
  unfold iterationEnd
  repeat'
    first
      | (with_reducible assumption)
      | (extract_lets +onlyGivenNames x; (try clear_value x); revert x; intro y)
      | (with_reducible apply kept_setStall)
      | split

theorem kept_ctlRot {a0 s} (h1 : Kept q s) : Kept q (ctlRot a0 s) := by
  unfold ctlRot
  repeat'
    first
      | (with_reducible assumption)
      | (refine kept_issueB (fun _ _ => ?_) ?_)
      | (with_reducible apply kept_finishIssue)
      | (with_reducible apply kept_setStall)

theorem kept_blockAt {a0 a1 a2 s} (h3 : Kept q s) : Kept q (blockAt a0 a1 a2 s) := by
  unfold blockAt
  repeat'
    first
      | (with_reducible assumption)
      | (with_reducible apply kept_setUnit)
      | (with_reducible apply kept_setStall)

theorem kept_unblock {a0 s} (h1 : Kept q s) : Kept q (unblock a0 s) := by
  unfold unblock
  repeat'
    first
      | (with_reducible assumption)
      | (with_reducible apply kept_setUnit)
      | (with_reducible apply kept_setStall)

theorem kept_consumeFlag {a0 a1 s} (h2 : Kept q s) : Kept q (consumeFlag a0 a1 s) := by
  unfold consumeFlag
  repeat'
    first
      | (with_reducible assumption)
      | (with_reducible apply kept_setStall)

theorem kept_ctlWait {a0 a1 s} (h2 : Kept q s) : Kept q (ctlWait a0 a1 s) := by
  unfold ctlWait
  repeat'
    first
      | (with_reducible assumption)
      | (refine kept_issueB (fun _ _ => ?_) ?_)
      | (with_reducible apply kept_finishIssue)
      | (with_reducible apply kept_consumeFlag)
      | (with_reducible apply kept_blockAt)
      | (with_reducible apply kept_ite)

theorem kept_waitComplete {a0 s} (h1 : Kept q s) : Kept q (waitComplete a0 s) := by
  unfold waitComplete
  repeat'
    first
      | (with_reducible assumption)
      | (extract_lets +onlyGivenNames x; (try clear_value x); revert x; intro y)
      | (with_reducible apply kept_unblock)
      | (with_reducible apply kept_consumeFlag)
      | split

theorem kept_sendPost {a0 s} (h1 : Kept q s) : Kept q (sendPost a0 s) := by
  unfold sendPost
  repeat'
    first
      | (with_reducible (refine Kept.mk ?_ ?_ ?_ ?_ ?_ <;> dsimp only <;> first | exact Kept.queue ‹_› | exact Kept.mem ‹_› | exact Kept.regs ‹_› | exact Kept.stalls ‹_› | exact Kept.units ‹_›))

theorem kept_ctlSignal {a0 a1 a2 s} (h3 : Kept q s) : Kept q (ctlSignal a0 a1 a2 s) := by
  unfold ctlSignal
  repeat'
    first
      | (with_reducible assumption)
      | (refine kept_issueB (fun _ _ => ?_) ?_)
      | (with_reducible apply kept_finishIssue)
      | (with_reducible apply kept_countDiscard)
      | (with_reducible apply kept_sendPost)
      | (with_reducible apply kept_setStall)
      | (with_reducible apply kept_ite)

theorem kept_takeEntry {a0 a1 a2 a3 s} (h4 : Kept q s) : Kept q (takeEntry a0 a1 a2 a3 s) := by
  unfold takeEntry
  repeat'
    first
      | (with_reducible assumption)
      | (with_reducible apply kept_setStall)

theorem kept_noteSend {a0 a1 a2 s} (h3 : Kept q s) : Kept q (noteSend a0 a1 a2 s) := by
  unfold noteSend
  repeat'
    first
      | (with_reducible assumption)
      | (with_reducible apply kept_setStall)

theorem kept_ctlSend {a0 a1 a2 a3 s} (h4 : Kept q s) : Kept q (ctlSend a0 a1 a2 a3 s) := by
  unfold ctlSend
  repeat'
    first
      | (with_reducible assumption)
      | (refine kept_issueB (fun _ _ => ?_) ?_)
      | (with_reducible apply kept_finishIssue)
      | (with_reducible apply kept_countDiscard)
      | (with_reducible apply kept_noteSend)
      | (with_reducible apply kept_takeEntry)
      | (with_reducible apply kept_blockAt)
      | (with_reducible apply kept_setStall)
      | (with_reducible apply kept_ite)

theorem kept_dropWaiter {a0 a1 a2 s} (h3 : Kept q s) : Kept q (dropWaiter a0 a1 a2 s) := by
  unfold dropWaiter
  repeat'
    first
      | (with_reducible assumption)
      | (with_reducible apply kept_setStall)

theorem kept_sendComplete {a0 s} (h1 : Kept q s) : Kept q (sendComplete a0 s) := by
  unfold sendComplete
  repeat'
    first
      | (with_reducible assumption)
      | (extract_lets +onlyGivenNames x; refine (fun (hx : Kept q x) => ?_) ?_; (rotate_left; unfold x; clear x; rotate_left); (try clear_value x); revert x; intro y hy)
      | (extract_lets +onlyGivenNames x; (try clear_value x); revert x; intro y)
      | (with_reducible apply kept_unblock)
      | (with_reducible apply kept_countDiscard)
      | (with_reducible apply kept_dropWaiter)
      | (with_reducible apply kept_takeEntry)
      | (with_reducible apply kept_noteSend)
      | split

theorem kept_exchangeArrival {a0 a1 s} (h2 : Kept q s) : Kept q (exchangeArrival a0 a1 s) := by
  unfold exchangeArrival
  repeat'
    first
      | (with_reducible assumption)
      | (extract_lets +onlyGivenNames x; (try clear_value x); revert x; intro y)
      | (with_reducible apply kept_ledgerAdd)
      | (with_reducible apply kept_setStall)
      | split

theorem kept_popEntry {a0 a1 a2 a3 a4 s} (h5 : Kept q s) : Kept q (popEntry a0 a1 a2 a3 a4 s) := by
  unfold popEntry
  repeat'
    first
      | (with_reducible assumption)
      | (with_reducible apply kept_setStall)
      | (with_reducible apply kept_orSticky)
      | (with_reducible apply kept_ledgerAdd)
      | (with_reducible apply kept_ite)

theorem kept_ctlRecv {a0 a1 a2 s} (h3 : Kept q s) : Kept q (ctlRecv a0 a1 a2 s) := by
  unfold ctlRecv
  repeat'
    first
      | (with_reducible assumption)
      | (refine kept_issueB (fun _ _ => ?_) ?_)
      | (with_reducible apply kept_finishIssue)
      | (with_reducible apply kept_popEntry)
      | (with_reducible apply kept_blockAt)
      | split

theorem kept_recvComplete {a0 s} (h1 : Kept q s) : Kept q (recvComplete a0 s) := by
  unfold recvComplete
  repeat'
    first
      | (with_reducible assumption)
      | (extract_lets +onlyGivenNames x; (try clear_value x); revert x; intro y)
      | (with_reducible apply kept_unblock)
      | (with_reducible apply kept_popEntry)
      | split

theorem kept_ctlSync {u t s} (h : Kept q s) : Kept q (ctlSync u t s) := by
  unfold ctlSync
  extract_lets x
  split
  · exact kept_stallEnded (kept_pairSync (kept_certCheck (kept_drain h)))
  · exact kept_issueB (fun _ h => kept_stallEnded (kept_pairSync (kept_fadeAdvance (kept_rampAdvance (kept_certCheck (kept_drain (kept_finishIssue h))))))) h

theorem kept_illegalWord {a0 a1 s} (h2 : Kept q s) : Kept q (illegalWord a0 a1 s) := by
  unfold illegalWord
  repeat'
    first
      | (with_reducible assumption)
      | (with_reducible apply kept_issueIllegal)
      | (with_reducible apply kept_landDue)
      | (with_reducible apply kept_ite)

theorem kept_withdraw {a0 s} (h1 : Kept q s) : Kept q (withdraw a0 s) := by
  unfold withdraw
  repeat'
    first
      | (with_reducible assumption)
      | (with_reducible apply kept_dropWaiter)
      | split

theorem kept_stallAbort {a0 a1 s} (h2 : Kept q s) : Kept q (stallAbort a0 a1 s) := by
  unfold stallAbort
  repeat'
    first
      | (with_reducible assumption)
      | (with_reducible apply kept_drain)
      | (with_reducible apply kept_withdraw)
      | (with_reducible apply kept_setStall)
      | (with_reducible apply kept_countFld)
      | (with_reducible apply kept_setBit)
      | (with_reducible apply kept_raise)
      | (with_reducible apply kept_takeTokens)
      | (with_reducible apply kept_stallEnded)
      | (with_reducible apply kept_ite)

theorem kept_controlEventTaken {a0 s} (h1 : Kept q s) : Kept q (controlEventTaken a0 s) := by
  unfold controlEventTaken
  repeat'
    first
      | (with_reducible assumption)
      | (with_reducible apply kept_setStall)
      | (with_reducible apply kept_ite)

theorem kept_heldPageWrite {a0 s} (h1 : Kept q s) : Kept q (heldPageWrite a0 s) := by
  unfold heldPageWrite
  repeat'
    first
      | (with_reducible assumption)
      | (with_reducible apply kept_setPages)
      | (with_reducible apply kept_ite)
      | (with_reducible (refine Kept.mk ?_ ?_ ?_ ?_ ?_ <;> dsimp only <;> first | exact Kept.queue ‹_› | exact Kept.mem ‹_› | exact Kept.regs ‹_› | exact Kept.stalls ‹_› | exact Kept.units ‹_›))

/-! ### Xbar -/

theorem kept_xbCount {a0 a1 a2 s} (h3 : Kept q s) : Kept q (xbCount a0 a1 a2 s) := by
  unfold xbCount
  repeat'
    first
      | (with_reducible assumption)
      | (with_reducible apply kept_raise)
      | (with_reducible apply kept_setBit)
      | (with_reducible apply kept_setFld)
      | (with_reducible apply kept_countFld)
      | split

theorem kept_recordUe {a0 s} (h1 : Kept q s) : Kept q (recordUe a0 s) := by
  unfold recordUe
  repeat'
    first
      | (with_reducible assumption)
      | (with_reducible apply kept_raise)
      | (with_reducible apply kept_setBit)
      | (with_reducible apply kept_setFld)
      | (with_reducible apply kept_countFld)
      | (with_reducible apply kept_spUe)
      | (with_reducible apply kept_ite)

theorem kept_passCount {a0 s} (h1 : Kept q s) : Kept q (passCount a0 s) := by
  unfold passCount
  repeat'
    first
      | (with_reducible assumption)
      | (with_reducible apply kept_raise)
      | (with_reducible apply kept_setBit)
      | (with_reducible apply kept_ite)
      | (with_reducible (refine Kept.mk ?_ ?_ ?_ ?_ ?_ <;> dsimp only <;> first | exact Kept.queue ‹_› | exact Kept.mem ‹_› | exact Kept.regs ‹_› | exact Kept.stalls ‹_› | exact Kept.units ‹_›))

theorem kept_recordCe {a0 s} (h1 : Kept q s) : Kept q (recordCe a0 s) := by
  unfold recordCe
  repeat'
    first
      | (with_reducible apply kept_passCount)
      | (with_reducible apply kept_countFld)
      | (with_reducible apply kept_ite)
      | (with_reducible (refine Kept.mk ?_ ?_ ?_ ?_ ?_ <;> dsimp only <;> first | exact Kept.queue ‹_› | exact Kept.mem ‹_› | exact Kept.regs ‹_› | exact Kept.stalls ‹_› | exact Kept.units ‹_›))

theorem kept_xbEccRead {a0 a1 s} (h2 : Kept q s) : Kept q (xbEccRead a0 a1 s) := by
  unfold xbEccRead
  repeat'
    first
      | (with_reducible assumption)
      | (with_reducible apply kept_recordCe)
      | (with_reducible apply kept_recordUe)
      | (refine kept_forEach (fun _ _ _ => ?_) ?_)
      | (with_reducible apply kept_ite)

theorem kept_xbReadEffect {a0 a1 a2 s} (h3 : Kept q s) : Kept q (xbReadEffect a0 a1 a2 s) := by
  unfold xbReadEffect
  repeat'
    first
      | (with_reducible assumption)
      | (with_reducible apply kept_xbEccRead)
      | (with_reducible apply kept_xbCount)
      | split

theorem kept_targetWrite {a0 a1 s} (h2 : Kept q s) : Kept q (targetWrite a0 a1 s) := by
  unfold targetWrite
  repeat'
    first
      | (with_reducible assumption)
      | (with_reducible apply kept_eccWrite)
      | (with_reducible apply kept_ite)

theorem kept_xbWrite {a0 a1 a2 s} (h3 : Kept q s) : Kept q (xbWrite a0 a1 a2 s) := by
  unfold xbWrite
  repeat'
    first
      | (with_reducible assumption)
      | (with_reducible apply kept_targetWrite)
      | (with_reducible apply kept_xbCount)
      | split

/-! ### Drover -/

theorem kept_setDrover {a0 a1 s} (h2 : Kept q s) : Kept q (setDrover a0 a1 s) := by
  unfold setDrover
  repeat'
    first
      | (with_reducible (refine Kept.mk ?_ ?_ ?_ ?_ ?_ <;> dsimp only <;> first | exact Kept.queue ‹_› | exact Kept.mem ‹_› | exact Kept.regs ‹_› | exact Kept.stalls ‹_› | exact Kept.units ‹_›))

theorem kept_setChan {a0 a1 s} (h2 : Kept q s) : Kept q (setChan a0 a1 s) := by
  unfold setChan
  repeat'
    first
      | (with_reducible (refine Kept.mk ?_ ?_ ?_ ?_ ?_ <;> dsimp only <;> first | exact Kept.queue ‹_› | exact Kept.mem ‹_› | exact Kept.regs ‹_› | exact Kept.stalls ‹_› | exact Kept.units ‹_›))

theorem kept_chanFlag {a0 a1 s} (h2 : Kept q s) : Kept q (chanFlag a0 a1 s) := by
  unfold chanFlag
  repeat'
    first
      | (with_reducible assumption)
      | (with_reducible apply kept_setBit)
      | (with_reducible apply kept_setChan)
      | (with_reducible apply kept_setFld)
      | (with_reducible apply kept_ite)

theorem kept_chanClear {a0 a1 s} (h2 : Kept q s) : Kept q (chanClear a0 a1 s) := by
  unfold chanClear
  repeat'
    first
      | (with_reducible assumption)
      | (with_reducible apply kept_setFld)

theorem kept_stallFlag {a0 a1 s} (h2 : Kept q s) : Kept q (stallFlag a0 a1 s) := by
  unfold stallFlag
  repeat'
    first
      | (with_reducible assumption)
      | (with_reducible apply kept_stallFault)
      | (with_reducible apply kept_orSticky)
      | (with_reducible apply kept_setStall)
      | (with_reducible apply kept_ite)

theorem kept_deliverPost {a0 s} (h1 : Kept q s) : Kept q (deliverPost a0 s) := by
  unfold deliverPost
  repeat'
    first
      | (with_reducible assumption)
      | (with_reducible apply kept_stallFlag)
      | (with_reducible apply kept_chanFlag)
      | (with_reducible apply kept_ite)

theorem kept_postArrival {a0 a1 s} (h2 : Kept q s) : Kept q (postArrival a0 a1 s) := by
  unfold postArrival
  repeat'
    first
      | (with_reducible assumption)
      | (with_reducible apply kept_deliverPost)
      | split
      | (with_reducible (refine Kept.mk ?_ ?_ ?_ ?_ ?_ <;> dsimp only <;> first | exact Kept.queue ‹_› | exact Kept.mem ‹_› | exact Kept.regs ‹_› | exact Kept.stalls ‹_› | exact Kept.units ‹_›))

theorem kept_execFlagPostArrival {a0 a1 s} (h2 : Kept q s) : KeptR q (execFlagPostArrival a0 a1 s) := by
  unfold execFlagPostArrival
  refine keptR_next ?_
  repeat'
    first
      | (with_reducible assumption)
      | (with_reducible apply kept_postArrival)

theorem kept_startChan {a0 a1 s} (h2 : Kept q s) : Kept q (startChan a0 a1 s) := by
  unfold startChan
  repeat'
    first
      | (with_reducible assumption)
      | (with_reducible apply kept_setFld)
      | (with_reducible apply kept_setChan)
      | (with_reducible apply kept_setUnit)

theorem kept_dropChanFlags {a0 a1 s} (h2 : Kept q s) : Kept q (dropChanFlags a0 a1 s) := by
  unfold dropChanFlags
  repeat'
    first
      | (with_reducible assumption)
      | (with_reducible apply kept_chanClear)
      | (refine kept_forEach (fun _ _ _ => ?_) ?_)
      | (with_reducible apply kept_ite)

theorem kept_chanEnded {a0 a1 a2 s} (h3 : Kept q s) : Kept q (chanEnded a0 a1 a2 s) := by
  unfold chanEnded
  repeat'
    first
      | (with_reducible assumption)
      | (with_reducible apply kept_recordEnd)
      | (with_reducible apply kept_startChan)
      | (with_reducible apply kept_dropChanFlags)
      | (with_reducible apply kept_setUnit)
      | (with_reducible apply kept_ite)

theorem kept_beginRun {a0 a1 a2 s} (h3 : Kept q s) : Kept q (beginRun a0 a1 a2 s) := by
  unfold beginRun
  repeat'
    first
      | (with_reducible assumption)
      | (with_reducible apply kept_setFld)
      | (with_reducible apply kept_setDrover)

theorem kept_programStart {a0 a1 s} (h2 : Kept q s) : Kept q (programStart a0 a1 s) := by
  unfold programStart
  repeat'
    first
      | (with_reducible assumption)
      | (extract_lets +onlyGivenNames x; (try clear_value x); revert x; intro y)
      | (with_reducible apply kept_beginRun)
      | split

theorem kept_execDroverProgramStart {a0 a1 s} (h2 : Kept q s) : KeptR q (execDroverProgramStart a0 a1 s) := by
  unfold execDroverProgramStart
  refine keptR_next ?_
  repeat'
    first
      | (with_reducible assumption)
      | (with_reducible apply kept_programStart)

theorem kept_chanStart {a0 a1 a2 s} (h3 : Kept q s) : Kept q (chanStart a0 a1 a2 s) := by
  unfold chanStart
  repeat'
    first
      | (with_reducible assumption)
      | (with_reducible apply kept_setBit)
      | (with_reducible apply kept_setFld)
      | (with_reducible apply kept_ite)

theorem kept_execChStart {a0 a1 a2 s} (h3 : Kept q s) : KeptR q (execChStart a0 a1 a2 s) := by
  unfold execChStart
  refine keptR_next ?_
  repeat'
    first
      | (with_reducible assumption)
      | (with_reducible apply kept_chanStart)

theorem kept_setChanState {a0 a1 a2 s} (h3 : Kept q s) : Kept q (setChanState a0 a1 a2 s) := by
  unfold setChanState
  repeat'
    first
      | (with_reducible assumption)
      | (with_reducible apply kept_setFld)
      | (with_reducible apply kept_setUnit)
      | split

theorem kept_drvGoto {a0 a1 a2 s} (h3 : Kept q s) : Kept q (drvGoto a0 a1 a2 s) := by
  unfold drvGoto
  repeat'
    first
      | (with_reducible assumption)
      | (with_reducible apply kept_setFld)
      | (with_reducible apply kept_setDrover)

theorem kept_advanceRing {a0 a1 a2 a3 s} (h4 : Kept q s) : Kept q (advanceRing a0 a1 a2 a3 s) := by
  unfold advanceRing
  repeat'
    first
      | (with_reducible assumption)
      | (with_reducible apply kept_setFld)
      | (with_reducible apply kept_ite)

theorem kept_advanceA {a0 s} (h1 : Kept q s) : Kept q (advanceA a0 s) := by
  unfold advanceA
  repeat'
    first
      | (with_reducible assumption)
      | (with_reducible apply kept_advanceRing)

theorem kept_advanceB {a0 s} (h1 : Kept q s) : Kept q (advanceB a0 s) := by
  unfold advanceB
  repeat'
    first
      | (with_reducible assumption)
      | (with_reducible apply kept_advanceRing)

theorem kept_programEnd {a0 a1 a2 s} (h3 : Kept q s) : Kept q (programEnd a0 a1 a2 s) := by
  unfold programEnd
  repeat'
    first
      | (with_reducible assumption)
      | (extract_lets +onlyGivenNames x; refine (fun (hx : Kept q x) => ?_) ?_; (rotate_left; unfold x; clear x; rotate_left); (try clear_value x); revert x; intro y hy)
      | (extract_lets +onlyGivenNames x; (try clear_value x); revert x; intro y)
      | (with_reducible apply kept_setDrover)
      | (with_reducible apply kept_setFld)
      | (with_reducible apply kept_raise)
      | (with_reducible apply kept_setBit)
      | (with_reducible apply kept_setChan)
      | (with_reducible apply kept_ledgerAdd)
      | (with_reducible apply kept_advanceB)
      | (with_reducible apply kept_advanceA)
      | (with_reducible apply kept_countFld)
      | (with_reducible apply kept_chanEnded)
      | split

theorem kept_countResp {a0 a1 a2 a3 s} (h4 : Kept q s) : Kept q (countResp a0 a1 a2 a3 s) := by
  unfold countResp
  repeat'
    first
      | (with_reducible assumption)
      | (with_reducible apply kept_raise)
      | (with_reducible apply kept_setFld)
      | (with_reducible apply kept_countFld)
      | (with_reducible apply kept_ite)

theorem kept_writePage {a0 a1 a2 s} (h3 : Kept q s) : Kept q (writePage a0 a1 a2 s) := by
  unfold writePage
  repeat'
    first
      | (with_reducible assumption)
      | (with_reducible apply kept_setPages)
      | (with_reducible apply kept_ite)
      | (with_reducible (refine Kept.mk ?_ ?_ ?_ ?_ ?_ <;> dsimp only <;> first | exact Kept.queue ‹_› | exact Kept.mem ‹_› | exact Kept.regs ‹_› | exact Kept.stalls ‹_› | exact Kept.units ‹_›))

theorem kept_writeStaged {a0 a1 s} (h2 : Kept q s) : Kept q (writeStaged a0 a1 s) := by
  unfold writeStaged
  repeat'
    first
      | (with_reducible (refine Kept.mk ?_ ?_ ?_ ?_ ?_ <;> dsimp only <;> first | exact Kept.queue ‹_› | exact Kept.mem ‹_› | exact Kept.regs ‹_› | exact Kept.stalls ‹_› | exact Kept.units ‹_›))

theorem kept_readBurst {d r b} {p : List Byte × State} (h : Kept q p.2) : Kept q (readBurst d r b p).2 := by
  unfold readBurst
  split
  · exact h
  · exact kept_countResp (kept_xbReadEffect h)

theorem kept_writeBurst {d r b} {p : List Byte × State} (h : Kept q p.2) : Kept q (writeBurst d r b p).2 := by
  unfold writeBurst
  split
  · exact h
  · exact kept_countResp (kept_xbWrite h)

theorem kept_moveElem {d r m k s} (h : Kept q s) : Kept q (moveElem d r m k s) := by
  unfold moveElem
  extract_lets i p o
  have hp : Kept q p.2 := forEach_inv (P := fun (p : List Byte × State) => Kept q p.2) (fun _ _ h => kept_readBurst h) h
  clear_value p
  split
  · exact kept_writePage hp
  · split
    · exact kept_writeStaged hp
    · exact forEach_inv (P := fun (p : List Byte × State) => Kept q p.2) (fun _ _ h => kept_writeBurst h) hp

theorem kept_addElem {a0 a1 s} (h2 : Kept q s) : Kept q (addElem a0 a1 s) := by
  unfold addElem
  repeat'
    first
      | (with_reducible assumption)
      | (with_reducible apply kept_setDrover)

theorem kept_moveElems {d m n} : ∀ {r k s}, Kept q s → Kept q (moveElems d r m n k s).1 := by
  induction n with
  | zero => intro r k s h; exact h
  | succ n ih =>
    intro r k s h
    unfold moveElems
    split
    · exact h
    · split
      · exact h
      · exact ih (kept_addElem (kept_moveElem h))

theorem kept_moveElems_eq {d r m n k s t c} (e : moveElems d r m n k s = (t, c)) (h : Kept q s) : Kept q t := by
  have := kept_moveElems (d := d) (r := r) (m := m) (n := n) (k := k) h
  rwa [e] at this

theorem kept_drvNext {a0 s} (h1 : Kept q s) : Kept q (drvNext a0 s) := by
  unfold drvNext
  repeat'
    first
      | (with_reducible assumption)
      | (with_reducible apply kept_setChanState)
      | (with_reducible apply kept_drvGoto)
      | split

theorem kept_drvInstr {d op w t s} {act : DrvRun → State → State} (ha : ∀ r s, Kept q s → Kept q (act r s)) (h : Kept q s) :
    Kept q (drvInstr d op w t act s) := by
  unfold drvInstr
  repeat'
    first
      | (with_reducible assumption)
      | (with_reducible apply kept_programEnd)
      | (with_reducible apply kept_setChanState)
      | (with_reducible apply ha)
      | split

theorem kept_moveDone {a0 a1 s} (h2 : Kept q s) : Kept q (moveDone a0 a1 s) := by
  unfold moveDone
  repeat'
    first
      | (with_reducible assumption)
      | (with_reducible apply kept_drvNext)
      | (with_reducible apply kept_setDrover)

theorem kept_moveWaits {a0 a1 s} (h2 : Kept q s) : Kept q (moveWaits a0 a1 s) := by
  unfold moveWaits
  repeat'
    first
      | (with_reducible assumption)
      | (with_reducible apply kept_setChanState)
      | (with_reducible apply kept_setDrover)

theorem kept_drvMove {a0 a1 a2 s} (h3 : Kept q s) : Kept q (drvMove a0 a1 a2 s) := by
  unfold drvMove
  repeat'
    first
      | (with_reducible assumption)
      | (extract_lets +onlyGivenNames x; (try clear_value x); revert x; intro y)
      | (refine kept_drvInstr (fun _ _ _ => ?_) ?_)
      | (with_reducible apply kept_setChanState)
      | (exact kept_moveElems_eq (by assumption) (by assumption))
      | (with_reducible apply kept_programEnd)
      | (with_reducible apply kept_moveWaits)
      | (with_reducible apply kept_moveDone)
      | split

theorem kept_execMove {a0 a1 a2 a3 a4 a5 s} (h6 : Kept q s) : KeptR q (execMove a0 a1 a2 a3 a4 a5 s) := by
  unfold execMove
  refine keptR_next ?_
  repeat'
    first
      | (with_reducible assumption)
      | (with_reducible apply kept_drvMove)

theorem kept_drvLoop {a0 a1 a2 s} (h3 : Kept q s) : Kept q (drvLoop a0 a1 a2 s) := by
  unfold drvLoop
  repeat'
    first
      | (with_reducible assumption)
      | (refine kept_drvInstr (fun _ _ _ => ?_) ?_)
      | (with_reducible apply kept_drvNext)
      | (with_reducible apply kept_setDrover)
      | (with_reducible apply kept_advanceA)
      | (with_reducible apply kept_advanceB)
      | (with_reducible apply kept_setChanState)
      | (with_reducible apply kept_drvGoto)
      | (with_reducible apply kept_ite)

theorem kept_execLoop {a0 a1 a2 s} (h3 : Kept q s) : KeptR q (execLoop a0 a1 a2 s) := by
  unfold execLoop
  refine keptR_next ?_
  repeat'
    first
      | (with_reducible assumption)
      | (with_reducible apply kept_drvLoop)

theorem kept_drvWait {a0 a1 a2 s} (h3 : Kept q s) : Kept q (drvWait a0 a1 a2 s) := by
  unfold drvWait
  repeat'
    first
      | (with_reducible assumption)
      | (refine kept_drvInstr (fun _ _ _ => ?_) ?_)
      | (with_reducible apply kept_drvNext)
      | (with_reducible apply kept_chanClear)
      | (with_reducible apply kept_setChanState)
      | (with_reducible apply kept_ite)

theorem kept_execDroverWait {a0 a1 a2 s} (h3 : Kept q s) : KeptR q (execDroverWait a0 a1 a2 s) := by
  unfold execDroverWait
  refine keptR_next ?_
  repeat'
    first
      | (with_reducible assumption)
      | (with_reducible apply kept_drvWait)

theorem kept_drvSignal {a0 a1 a2 s} (h3 : Kept q s) : Kept q (drvSignal a0 a1 a2 s) := by
  unfold drvSignal
  repeat'
    first
      | (with_reducible assumption)
      | (refine kept_drvInstr (fun _ _ _ => ?_) ?_)
      | (with_reducible apply kept_drvNext)
      | (with_reducible apply kept_countDiscard)
      | (with_reducible apply kept_sendPost)
      | (with_reducible apply kept_setChan)
      | (with_reducible apply kept_ite)

theorem kept_execDroverSignal {a0 a1 a2 s} (h3 : Kept q s) : KeptR q (execDroverSignal a0 a1 a2 s) := by
  unfold execDroverSignal
  refine keptR_next ?_
  repeat'
    first
      | (with_reducible assumption)
      | (with_reducible apply kept_drvSignal)

theorem kept_drvEndInstr {a0 a1 s} (h2 : Kept q s) : Kept q (drvEndInstr a0 a1 s) := by
  unfold drvEndInstr
  repeat'
    first
      | (with_reducible assumption)
      | (refine kept_drvInstr (fun _ _ _ => ?_) ?_)
      | (with_reducible apply kept_programEnd)

theorem kept_execDroverEnd {a0 a1 s} (h2 : Kept q s) : KeptR q (execDroverEnd a0 a1 s) := by
  unfold execDroverEnd
  refine keptR_next ?_
  repeat'
    first
      | (with_reducible assumption)
      | (with_reducible apply kept_drvEndInstr)

theorem kept_programEndFault {a0 a1 a2 s} (h3 : Kept q s) : Kept q (programEndFault a0 a1 a2 s) := by
  unfold programEndFault
  repeat'
    first
      | (with_reducible assumption)
      | (with_reducible apply kept_setChanState)
      | (with_reducible apply kept_programEnd)
      | split

theorem kept_execDroverProgramEndFault {a0 a1 a2 a3 a4 a5 s} (h6 : Kept q s) : KeptR q (execDroverProgramEndFault a0 a1 a2 a3 a4 a5 s) := by
  unfold execDroverProgramEndFault
  refine keptR_next ?_
  repeat'
    first
      | (with_reducible assumption)
      | (with_reducible apply kept_programEndFault)

theorem kept_drvAbortTaken.abortPending {a0 a1 a2 s} (h3 : Kept q s) : Kept q (drvAbortTaken.abortPending a0 a1 a2 s) := by
  unfold drvAbortTaken.abortPending
  repeat'
    first
      | (with_reducible assumption)
      | (with_reducible apply kept_setFld)
      | (with_reducible apply kept_setChan)
      | (with_reducible apply kept_ledgerAdd)
      | (with_reducible apply kept_raise)
      | (with_reducible apply kept_setBit)
      | (with_reducible apply kept_countFld)
      | (with_reducible apply kept_chanEnded)

theorem kept_drvAbortTaken {a0 a1 a2 s} (h3 : Kept q s) : Kept q (drvAbortTaken a0 a1 a2 s) := by
  unfold drvAbortTaken
  repeat'
    first
      | (with_reducible assumption)
      | (extract_lets +onlyGivenNames x; (try clear_value x); revert x; intro y)
      | (with_reducible apply kept_programEnd)
      | (with_reducible apply kept_drvAbortTaken.abortPending)
      | split

theorem kept_execDroverAbortTaken {a0 a1 a2 s} (h3 : Kept q s) : KeptR q (execDroverAbortTaken a0 a1 a2 s) := by
  unfold execDroverAbortTaken
  refine keptR_next ?_
  repeat'
    first
      | (with_reducible assumption)
      | (with_reducible apply kept_drvAbortTaken)

theorem kept_sendAbort {a0 s} (h1 : Kept q s) : Kept q (sendAbort a0 s) := by
  unfold sendAbort
  repeat'
    first
      | (with_reducible assumption)
      | (with_reducible apply kept_setStall)
      | (with_reducible apply kept_setChan)
      | (with_reducible apply kept_ite)

theorem kept_hangAbort {a0 s} (h1 : Kept q s) : Kept q (hangAbort a0 s) := by
  unfold hangAbort
  repeat'
    first
      | (with_reducible assumption)
      | (with_reducible apply kept_sendAbort)
      | (with_reducible apply kept_ite)

theorem kept_execHangAbort {a0 s} (h1 : Kept q s) : KeptR q (execHangAbort a0 s) := by
  unfold execHangAbort
  refine keptR_next ?_
  repeat'
    first
      | (with_reducible assumption)
      | (with_reducible apply kept_hangAbort)

end Sys2Proof.Machine
end

