-- ==== Sys2Proof/Laws/Kept2.lean ====
section
/-! SUPPORT. The operations of Machine/ Ports, Memory, Override, Credits, Packet, Amp keep the queue and the canonical form. -/

namespace Sys2Proof.Machine

variable {q : List Instr}

/-! ### Ports -/

theorem kept_setPort {a0 a1 s} (h2 : Kept q s) : Kept q (setPort a0 a1 s) := by
  unfold setPort
  repeat'
    first
      | (with_reducible (refine Kept.mk ?_ ?_ ?_ ?_ ?_ <;> dsimp only <;> first | exact Kept.queue ‹_› | exact Kept.mem ‹_› | exact Kept.regs ‹_› | exact Kept.stalls ‹_› | exact Kept.units ‹_›))

theorem kept_setOut {a0 a1 s} (h2 : Kept q s) : Kept q (setOut a0 a1 s) := by
  unfold setOut
  repeat'
    first
      | (with_reducible (refine Kept.mk ?_ ?_ ?_ ?_ ?_ <;> dsimp only <;> first | exact Kept.queue ‹_› | exact Kept.mem ‹_› | exact Kept.regs ‹_› | exact Kept.stalls ‹_› | exact Kept.units ‹_›))

theorem kept_landOutput {a0 s} (h1 : Kept q s) : Kept q (landOutput a0 s) := by
  unfold landOutput
  repeat'
    first
      | (with_reducible assumption)
      | (with_reducible apply kept_countDiscard)
      | (with_reducible apply kept_setOut)
      | (with_reducible apply kept_ite)

theorem kept_outputLanding {a0 a1 s} (h2 : Kept q s) : Kept q (outputLanding a0 a1 s) := by
  unfold outputLanding
  repeat'
    first
      | (with_reducible assumption)
      | (with_reducible apply kept_landOutput)
      | split
      | (with_reducible (refine Kept.mk ?_ ?_ ?_ ?_ ?_ <;> dsimp only <;> first | exact Kept.queue ‹_› | exact Kept.mem ‹_› | exact Kept.regs ‹_› | exact Kept.stalls ‹_› | exact Kept.units ‹_›))

theorem kept_execOutputWriteLanding {a0 a1 s} (h2 : Kept q s) : KeptR q (execOutputWriteLanding a0 a1 s) := by
  unfold execOutputWriteLanding
  refine keptR_next ?_
  repeat'
    first
      | (with_reducible assumption)
      | (with_reducible apply kept_outputLanding)

theorem kept_settleEntry {a0 a1 s} (h2 : Kept q s) : Kept q (settleEntry a0 a1 s) := by
  unfold settleEntry
  repeat'
    first
      | (with_reducible assumption)
      | (extract_lets +onlyGivenNames x; (try clear_value x); revert x; intro y)
      | (with_reducible apply kept_ledgerAdd)
      | (with_reducible apply kept_setOut)
      | split

theorem kept_settleFrame {a0 s} (h1 : Kept q s) : Kept q (settleFrame a0 s) := by
  unfold settleFrame
  repeat'
    first
      | (with_reducible assumption)
      | (extract_lets +onlyGivenNames x; refine (fun (hx : Kept q x) => ?_) ?_; (rotate_left; unfold x; clear x; rotate_left); (try clear_value x); revert x; intro y hy)
      | (with_reducible apply kept_settleEntry)
      | (refine kept_forEach (fun _ _ _ => ?_) ?_)
      | (with_reducible (refine Kept.mk ?_ ?_ ?_ ?_ ?_ <;> dsimp only <;> first | exact Kept.queue ‹_› | exact Kept.mem ‹_› | exact Kept.regs ‹_› | exact Kept.stalls ‹_› | exact Kept.units ‹_›))

theorem kept_ringWrite {m b l p n v w s} (h : Kept q s) : Kept q (ringWrite m b l p n v w s).1 := by
  unfold ringWrite
  extract_lets a e at_ bs ok x
  have hx : Kept q x := kept_xbWrite h
  split
  · exact kept_xbWrite hx
  · exact hx

theorem kept_landSlots {p n words ks} : ∀ {s k}, Kept q s → Kept q (landSlots p n words ks s k).1 := by
  induction ks with
  | nil => intro s k h; exact h
  | cons a t ih => intro s k h; exact ih (kept_ringWrite h)

theorem kept_portOver {a0 a1 s} (h2 : Kept q s) : Kept q (portOver a0 a1 s) := by
  unfold portOver
  repeat'
    first
      | (with_reducible assumption)
      | (with_reducible apply kept_raise)
      | (with_reducible apply kept_setBit)
      | (with_reducible apply kept_countFld)

theorem kept_portUnder {a0 a1 s} (h2 : Kept q s) : Kept q (portUnder a0 a1 s) := by
  unfold portUnder
  repeat'
    first
      | (with_reducible assumption)
      | (with_reducible apply kept_raise)
      | (with_reducible apply kept_setBit)
      | (with_reducible apply kept_countFld)

theorem kept_setLine {a0 a1 s} (h2 : Kept q s) : Kept q (setLine a0 a1 s) := by
  unfold setLine
  repeat'
    first
      | (with_reducible assumption)
      | (with_reducible apply kept_ite)
      | (with_reducible (refine Kept.mk ?_ ?_ ?_ ?_ ?_ <;> dsimp only <;> first | exact Kept.queue ‹_› | exact Kept.mem ‹_› | exact Kept.regs ‹_› | exact Kept.stalls ‹_› | exact Kept.units ‹_›))

theorem kept_landFrame {a0 a1 a2 a3 s} (h4 : Kept q s) : Kept q (landFrame a0 a1 a2 a3 s) := by
  unfold landFrame
  repeat'
    first
      | (with_reducible assumption)
      | (with_reducible apply kept_setLine)
      | (with_reducible apply kept_setPort)
      | (with_reducible apply kept_memWrite)
      | (with_reducible apply kept_landSlots)
      | (with_reducible apply kept_ledgerAdd)
      | (with_reducible apply kept_portOver)
      | (with_reducible apply kept_ite)

theorem kept_setPortState {a0 a1 s} (h2 : Kept q s) : Kept q (setPortState a0 a1 s) := by
  unfold setPortState
  repeat'
    first
      | (with_reducible assumption)
      | (with_reducible apply kept_setFld)
      | (with_reducible apply kept_ite)

theorem kept_setRunning {a0 a1 s} (h2 : Kept q s) : Kept q (setRunning a0 a1 s) := by
  unfold setRunning
  repeat'
    first
      | (with_reducible assumption)
      | (with_reducible apply kept_setFld)

theorem kept_holdZero {a0 s} (h1 : Kept q s) : Kept q (holdZero a0 s) := by
  unfold holdZero
  repeat'
    first
      | (with_reducible assumption)
      | (with_reducible apply kept_setOut)
      | (with_reducible apply kept_setStall)
      | (with_reducible apply kept_setPort)
      | (refine kept_forEach (fun _ _ _ => ?_) ?_)
      | (with_reducible (refine Kept.mk ?_ ?_ ?_ ?_ ?_ <;> dsimp only <;> first | exact Kept.queue ‹_› | exact Kept.mem ‹_› | exact Kept.regs ‹_› | exact Kept.stalls ‹_› | exact Kept.units ‹_›))

theorem kept_setActive {a0 a1 s} (h2 : Kept q s) : Kept q (setActive a0 a1 s) := by
  unfold setActive
  repeat'
    first
      | (with_reducible assumption)
      | (extract_lets +onlyGivenNames x; refine (fun (hx : Kept q x) => ?_) ?_; (rotate_left; unfold x; clear x; rotate_left); (try clear_value x); revert x; intro y hy)
      | (with_reducible apply kept_holdZero)
      | split
      | (with_reducible (refine Kept.mk ?_ ?_ ?_ ?_ ?_ <;> dsimp only <;> first | exact Kept.queue ‹_› | exact Kept.mem ‹_› | exact Kept.regs ‹_› | exact Kept.stalls ‹_› | exact Kept.units ‹_›))

theorem kept_showPort {a0 s} (h1 : Kept q s) : Kept q (showPort a0 s) := by
  unfold showPort
  repeat'
    first
      | (with_reducible assumption)
      | (with_reducible apply kept_setFld)
      | (with_reducible apply kept_ite)

theorem kept_portStart {a0 a1 a2 s} (h3 : Kept q s) : Kept q (portStart a0 a1 a2 s) := by
  unfold portStart
  repeat'
    first
      | (with_reducible assumption)
      | (with_reducible apply kept_showPort)
      | (with_reducible apply kept_setPort)
      | (with_reducible apply kept_setBit)
      | (refine kept_forEach (fun _ _ _ => ?_) ?_)
      | (with_reducible apply kept_ite)

theorem kept_portStop {a0 a1 a2 s} (h3 : Kept q s) : Kept q (portStop a0 a1 a2 s) := by
  unfold portStop
  repeat'
    first
      | (with_reducible assumption)
      | (with_reducible apply kept_showPort)
      | (with_reducible apply kept_setPort)
      | (refine kept_forEach (fun _ _ _ => ?_) ?_)

theorem kept_startAtBoundary {a0 a1 s} (h2 : Kept q s) : Kept q (startAtBoundary a0 a1 s) := by
  unfold startAtBoundary
  repeat'
    first
      | (with_reducible assumption)
      | (extract_lets +onlyGivenNames x; refine (fun (hx : Kept q x) => ?_) ?_; (rotate_left; unfold x; clear x; rotate_left); (try clear_value x); revert x; intro y hy)
      | (extract_lets +onlyGivenNames x; (try clear_value x); revert x; intro y)
      | (with_reducible apply kept_setActive)
      | (with_reducible apply kept_showPort)
      | (with_reducible apply kept_setRunning)
      | (with_reducible apply kept_setPort)
      | (with_reducible apply kept_setBit)
      | split

theorem kept_portHalt {a0 a1 s} (h2 : Kept q s) : Kept q (portHalt a0 a1 s) := by
  unfold portHalt
  repeat'
    first
      | (with_reducible assumption)
      | (with_reducible apply kept_showPort)
      | (with_reducible apply kept_setLine)
      | (with_reducible apply kept_setActive)
      | (with_reducible apply kept_setRunning)
      | (with_reducible apply kept_setPort)

theorem kept_stopAtBoundary {a0 a1 s} (h2 : Kept q s) : Kept q (stopAtBoundary a0 a1 s) := by
  unfold stopAtBoundary
  repeat'
    first
      | (with_reducible assumption)
      | (with_reducible apply kept_portHalt)
      | (with_reducible apply kept_showPort)
      | (with_reducible apply kept_setPort)
      | (with_reducible apply kept_ite)

theorem kept_portCfgApply {a0 a1 a2 a3 s} (h4 : Kept q s) : Kept q (portCfgApply a0 a1 a2 a3 s) := by
  unfold portCfgApply
  repeat'
    first
      | (with_reducible assumption)
      | (with_reducible apply kept_setBit)
      | (with_reducible apply kept_setRegWord)
      | (with_reducible apply kept_showPort)
      | (with_reducible apply kept_setPort)
      | (with_reducible apply kept_ite)

theorem kept_execPortCfgWrite {a0 a1 s} (h2 : Kept q s) : KeptR q (execPortCfgWrite a0 a1 s) := by
  unfold execPortCfgWrite
  refine keptR_next ?_
  repeat'
    first
      | (with_reducible assumption)
      | (with_reducible apply kept_portCfgApply)

theorem kept_presentFrame {a0 a1 s} (h2 : Kept q s) : Kept q (presentFrame a0 a1 s) := by
  unfold presentFrame
  repeat'
    first
      | (with_reducible assumption)
      | (with_reducible apply kept_setBit)
      | (with_reducible apply kept_setPort)
      | (with_reducible apply kept_ite)

theorem kept_presentAgain {s} (h0 : Kept q s) : Kept q (presentAgain s) := by
  unfold presentAgain
  repeat'
    first
      | (with_reducible assumption)
      | (with_reducible apply kept_presentFrame)
      | (refine kept_forEach (fun _ _ _ => ?_) ?_)
      | (with_reducible apply kept_ite)

theorem kept_countPresented {s a1 a2 a3 a4} (h0 : Kept q s) : Kept q (countPresented s a1 a2 a3 a4) := by
  unfold countPresented
  repeat'
    first
      | (with_reducible assumption)
      | (with_reducible apply kept_ledgerAdd)

theorem kept_inputPort {a0 a1 a2 s} (h3 : Kept q s) : Kept q (inputPort a0 a1 a2 s) := by
  unfold inputPort
  repeat'
    first
      | (with_reducible assumption)
      | (extract_lets +onlyGivenNames x; refine (fun (hx : Kept q x) => ?_) ?_; (rotate_left; unfold x; clear x; rotate_left); (try clear_value x); revert x; intro y hy)
      | (extract_lets +onlyGivenNames x; (try clear_value x); revert x; intro y)
      | (with_reducible apply kept_ledgerAdd)
      | (with_reducible apply kept_landFrame)
      | (with_reducible apply kept_setPort)
      | (with_reducible apply kept_portOver)
      | (with_reducible apply kept_portUnder)
      | (refine kept_forEach (fun _ _ _ => ?_) ?_)
      | split

theorem kept_outputPort {a0 s} (h1 : Kept q s) : Kept q (outputPort a0 s) := by
  unfold outputPort
  repeat'
    first
      | (with_reducible assumption)
      | (with_reducible apply kept_presentFrame)
      | (with_reducible apply kept_setLine)
      | (with_reducible apply kept_setPort)
      | (with_reducible apply kept_portUnder)
      | (with_reducible apply kept_portOver)
      | (with_reducible apply kept_ledgerAdd)
      | (with_reducible apply kept_countPresented)
      | (with_reducible apply kept_ite)

theorem kept_pdmInput {i k mics s} (h : Kept q s) : Kept q (pdmInput i k mics s) := by
  unfold pdmInput
  extract_lets ms x step r
  exact kept_setLine (kept_ledgerAdd (kept_foldlPair (fun p a hp => kept_ringWrite hp) h))

theorem kept_portsBoundary {a0 a1 a2 s} (h3 : Kept q s) : Kept q (portsBoundary a0 a1 a2 s) := by
  unfold portsBoundary
  repeat'
    first
      | (with_reducible assumption)
      | (with_reducible apply kept_inputPort)
      | (with_reducible apply kept_pdmInput)
      | (with_reducible apply kept_stopAtBoundary)
      | (with_reducible apply kept_startAtBoundary)
      | (with_reducible apply kept_outputPort)
      | (with_reducible apply kept_setPort)
      | (refine kept_forEach (fun _ _ _ => ?_) ?_)
      | (with_reducible apply kept_ite)

theorem kept_externalFrame {a0 a1 a2 s} (h3 : Kept q s) : Kept q (externalFrame a0 a1 a2 s) := by
  unfold externalFrame
  repeat'
    first
      | (with_reducible assumption)
      | (extract_lets +onlyGivenNames x; refine (fun (hx : Kept q x) => ?_) ?_; (rotate_left; unfold x; clear x; rotate_left); (try clear_value x); revert x; intro y hy)
      | (extract_lets +onlyGivenNames x; (try clear_value x); revert x; intro y)
      | (with_reducible apply kept_setFld)
      | (with_reducible apply kept_setPortState)
      | (with_reducible apply kept_portOver)
      | (with_reducible apply kept_ledgerAdd)
      | (with_reducible apply kept_presentFrame)
      | (with_reducible apply kept_setPort)
      | (with_reducible apply kept_portUnder)
      | (refine kept_forEach (fun _ _ _ => ?_) ?_)
      | split

theorem kept_execExternalFrameStart {a0 a1 a2 s} (h3 : Kept q s) : KeptR q (execExternalFrameStart a0 a1 a2 s) := by
  unfold execExternalFrameStart
  refine keptR_next ?_
  repeat'
    first
      | (with_reducible assumption)
      | (with_reducible apply kept_externalFrame)

theorem kept_portClockLoss {a0 s} (h1 : Kept q s) : Kept q (portClockLoss a0 s) := by
  unfold portClockLoss
  repeat'
    first
      | (with_reducible assumption)
      | (with_reducible apply kept_raise)
      | (with_reducible apply kept_setBit)
      | (with_reducible apply kept_setPortState)
      | (with_reducible apply kept_ite)

theorem kept_execPortClockLoss {a0 s} (h1 : Kept q s) : KeptR q (execPortClockLoss a0 s) := by
  unfold execPortClockLoss
  refine keptR_next ?_
  repeat'
    first
      | (with_reducible assumption)
      | (with_reducible apply kept_portClockLoss)

theorem kept_lineServed {a0 a1 s} (h2 : Kept q s) : Kept q (lineServed a0 a1 s) := by
  unfold lineServed
  repeat'
    first
      | (with_reducible assumption)
      | (with_reducible apply kept_setLine)
      | (with_reducible apply kept_setPort)
      | (with_reducible apply kept_ite)

theorem kept_pacedBurst {a0 a1 a2 s} (h3 : Kept q s) : Kept q (pacedBurst a0 a1 a2 s) := by
  unfold pacedBurst
  repeat'
    first
      | (with_reducible assumption)
      | (extract_lets +onlyGivenNames x; refine (fun (hx : Kept q x) => ?_) ?_; (rotate_left; unfold x; clear x; rotate_left); (try clear_value x); revert x; intro y hy)
      | (extract_lets +onlyGivenNames x; (try clear_value x); revert x; intro y)
      | (exact kept_moveElems_eq (by assumption) (by assumption))
      | (with_reducible apply kept_programEnd)
      | (with_reducible apply kept_moveWaits)
      | (with_reducible apply kept_lineServed)
      | (with_reducible apply kept_moveDone)
      | (with_reducible apply kept_setChanState)
      | split

theorem kept_execPacedBurstStart {a0 a1 a2 a3 a4 a5 s} (h6 : Kept q s) : KeptR q (execPacedBurstStart a0 a1 a2 a3 a4 a5 s) := by
  unfold execPacedBurstStart
  refine keptR_next ?_
  repeat'
    first
      | (with_reducible assumption)
      | (with_reducible apply kept_pacedBurst)

theorem kept_portsReset {s} (h0 : Kept q s) : Kept q (portsReset s) := by
  unfold portsReset
  repeat'
    first
      | (with_reducible assumption)
      | (with_reducible apply kept_setRunning)
      | (with_reducible apply kept_showPort)
      | (with_reducible apply kept_setLine)
      | (with_reducible apply kept_setPort)
      | (refine kept_forEach (fun _ _ _ => ?_) ?_)

/-! ### Memory -/

theorem kept_bankOwnWrite {a0 a1 s} (h2 : Kept q s) : Kept q (bankOwnWrite a0 a1 s) := by
  unfold bankOwnWrite
  repeat'
    first
      | (with_reducible assumption)
      | (extract_lets +onlyGivenNames x; refine (fun (hx : Kept q x) => ?_) ?_; (rotate_left; unfold x; clear x; rotate_left); (try clear_value x); revert x; intro y hy)
      | (extract_lets +onlyGivenNames x; (try clear_value x); revert x; intro y)
      | (with_reducible apply kept_setBit)
      | (with_reducible apply kept_moveToken)
      | (with_reducible apply kept_ite)
      | (with_reducible (refine Kept.mk ?_ ?_ ?_ ?_ ?_ <;> dsimp only <;> first | exact Kept.queue ‹_› | exact Kept.mem ‹_› | exact Kept.regs ‹_› | exact Kept.stalls ‹_› | exact Kept.units ‹_›))

theorem kept_execBankOwnWrite {a0 a1 s} (h2 : Kept q s) : KeptR q (execBankOwnWrite a0 a1 s) := by
  unfold execBankOwnWrite
  refine keptR_next ?_
  repeat'
    first
      | (with_reducible assumption)
      | (with_reducible apply kept_bankOwnWrite)

theorem kept_tokenAudit {s} (h0 : Kept q s) : Kept q (tokenAudit s) := by
  unfold tokenAudit
  repeat'
    first
      | (with_reducible assumption)
      | (with_reducible apply kept_raise)
      | (with_reducible apply kept_setBit)
      | (with_reducible apply kept_setFld)
      | (with_reducible apply kept_countFld)
      | (with_reducible apply kept_moveToken)
      | (refine kept_forEach (fun _ _ _ => ?_) ?_)
      | (with_reducible (refine Kept.mk ?_ ?_ ?_ ?_ ?_ <;> dsimp only <;> first | exact Kept.queue ‹_› | exact Kept.mem ‹_› | exact Kept.regs ‹_› | exact Kept.stalls ‹_› | exact Kept.units ‹_›))

theorem kept_scrubPassEnd {s} (h0 : Kept q s) : Kept q (scrubPassEnd s) := by
  unfold scrubPassEnd
  repeat'
    first
      | (with_reducible assumption)
      | (extract_lets +onlyGivenNames x; refine (fun (hx : Kept q x) => ?_) ?_; (rotate_left; unfold x; clear x; rotate_left); (try clear_value x); revert x; intro y hy)
      | (with_reducible apply kept_recordCe)
      | (with_reducible apply kept_recordUe)
      | (with_reducible apply kept_countFld)
      | (refine kept_forEach (fun _ _ _ => ?_) ?_)
      | (with_reducible apply kept_ite)
      | (with_reducible (refine Kept.mk ?_ ?_ ?_ ?_ ?_ <;> dsimp only <;> first | exact Kept.queue ‹_› | exact Kept.mem ‹_› | exact Kept.regs ‹_› | exact Kept.stalls ‹_› | exact Kept.units ‹_›))

theorem kept_execScrubPassEnd {s} (h0 : Kept q s) : KeptR q (execScrubPassEnd s) := by
  unfold execScrubPassEnd
  refine keptR_next ?_
  repeat'
    first
      | (with_reducible assumption)
      | (with_reducible apply kept_scrubPassEnd)

theorem kept_setRetrain {a0 s} (h1 : Kept q s) : Kept q (setRetrain a0 s) := by
  unfold setRetrain
  repeat'
    first
      | (with_reducible apply kept_setFld)
      | (with_reducible (refine Kept.mk ?_ ?_ ?_ ?_ ?_ <;> dsimp only <;> first | exact Kept.queue ‹_› | exact Kept.mem ‹_› | exact Kept.regs ‹_› | exact Kept.stalls ‹_› | exact Kept.units ‹_›))

theorem kept_retrainReq {s} (h0 : Kept q s) : Kept q (retrainReq s) := by
  unfold retrainReq
  repeat'
    first
      | (with_reducible assumption)
      | (with_reducible apply kept_setRetrain)

theorem kept_execRetrainReq {s} (h0 : Kept q s) : KeptR q (execRetrainReq s) := by
  unfold execRetrainReq
  refine keptR_next ?_
  repeat'
    first
      | (with_reducible assumption)
      | (with_reducible apply kept_retrainReq)

theorem kept_execCellarDriftRetrain {a0 s} (h1 : Kept q s) : KeptR q (execCellarDriftRetrain a0 s) := by
  unfold execCellarDriftRetrain
  refine keptR_next ?_
  repeat'
    first
      | (with_reducible assumption)
      | (with_reducible apply kept_setRetrain)

theorem kept_scheduledRetrain {a0 a1 s} (h2 : Kept q s) : Kept q (scheduledRetrain a0 a1 s) := by
  unfold scheduledRetrain
  repeat'
    first
      | (with_reducible assumption)
      | (with_reducible apply kept_setFld)
      | (with_reducible apply kept_setRetrain)
      | (with_reducible apply kept_ite)

theorem kept_execScheduledRetrain {a0 a1 s} (h2 : Kept q s) : KeptR q (execScheduledRetrain a0 a1 s) := by
  unfold execScheduledRetrain
  refine keptR_next ?_
  repeat'
    first
      | (with_reducible assumption)
      | (with_reducible apply kept_scheduledRetrain)

theorem kept_emergencyRetrain {a0 s} (h1 : Kept q s) : Kept q (emergencyRetrain a0 s) := by
  unfold emergencyRetrain
  repeat'
    first
      | (with_reducible assumption)
      | (with_reducible apply kept_raise)
      | (with_reducible apply kept_setFld)
      | (with_reducible apply kept_setRetrain)

theorem kept_execEmergencyRetrain {a0 s} (h1 : Kept q s) : KeptR q (execEmergencyRetrain a0 s) := by
  unfold execEmergencyRetrain
  refine keptR_next ?_
  repeat'
    first
      | (with_reducible assumption)
      | (with_reducible apply kept_emergencyRetrain)

theorem kept_retrainDone {a0 s} (h1 : Kept q s) : Kept q (retrainDone a0 s) := by
  unfold retrainDone
  repeat'
    first
      | (with_reducible assumption)
      | (with_reducible apply kept_countFld)
      | (with_reducible apply kept_setFld)
      | (with_reducible apply kept_ite)

theorem kept_execRetrainDone {a0 s} (h1 : Kept q s) : KeptR q (execRetrainDone a0 s) := by
  unfold execRetrainDone
  refine keptR_next ?_
  repeat'
    first
      | (with_reducible assumption)
      | (with_reducible apply kept_retrainDone)

/-! ### Override -/

theorem kept_ovrSampleInputs {s} (h0 : Kept q s) : Kept q (ovrSampleInputs s) := by
  unfold ovrSampleInputs
  repeat'
    first
      | (with_reducible assumption)
      | (with_reducible apply kept_setFld)

theorem kept_ovrInput {a0 a1 s} (h2 : Kept q s) : Kept q (ovrInput a0 a1 s) := by
  unfold ovrInput
  repeat'
    first
      | (with_reducible apply kept_ovrSampleInputs)
      | (with_reducible (refine Kept.mk ?_ ?_ ?_ ?_ ?_ <;> dsimp only <;> first | exact Kept.queue ‹_› | exact Kept.mem ‹_› | exact Kept.regs ‹_› | exact Kept.stalls ‹_› | exact Kept.units ‹_›))

theorem kept_execOvrInput {a0 a1 s} (h2 : Kept q s) : KeptR q (execOvrInput a0 a1 s) := by
  unfold execOvrInput
  refine keptR_next ?_
  repeat'
    first
      | (with_reducible assumption)
      | (with_reducible apply kept_ovrInput)

theorem kept_ovrRelease {a0 s} (h1 : Kept q s) : Kept q (ovrRelease a0 s) := by
  unfold ovrRelease
  repeat'
    first
      | (with_reducible assumption)
      | (with_reducible apply kept_setFld)
      | (with_reducible apply kept_ite)

theorem kept_execOffHoldExpiry {a0 s} (h1 : Kept q s) : KeptR q (execOffHoldExpiry a0 s) := by
  unfold execOffHoldExpiry
  refine keptR_next ?_
  repeat'
    first
      | (with_reducible assumption)
      | (with_reducible apply kept_ovrRelease)
      | (with_reducible apply kept_ite)

theorem kept_ovrUnlatch {a0 s} (h1 : Kept q s) : Kept q (ovrUnlatch a0 s) := by
  unfold ovrUnlatch
  repeat'
    first
      | (with_reducible assumption)
      | (with_reducible apply kept_ovrRelease)
      | (refine kept_forEach (fun _ _ _ => ?_) ?_)
      | (with_reducible apply kept_ite)

theorem kept_execOvrUnlatch {a0 s} (h1 : Kept q s) : KeptR q (execOvrUnlatch a0 s) := by
  unfold execOvrUnlatch
  refine keptR_next ?_
  repeat'
    first
      | (with_reducible assumption)
      | (with_reducible apply kept_ovrUnlatch)

theorem kept_overrideBoundary {a0 s} (h1 : Kept q s) : Kept q (overrideBoundary a0 s) := by
  unfold overrideBoundary
  repeat'
    first
      | (with_reducible assumption)
      | (extract_lets +onlyGivenNames x; refine (fun (hx : Kept q x) => ?_) ?_; (rotate_left; unfold x; clear x; rotate_left); (try clear_value x); revert x; intro y hy)
      | (with_reducible apply kept_ovrSampleInputs)
      | (with_reducible apply kept_setFld)
      | (with_reducible apply kept_setPair)
      | (with_reducible apply kept_countFld)
      | (with_reducible apply kept_setBit)
      | (with_reducible apply kept_raise)
      | (with_reducible apply kept_ite)
      | (with_reducible (refine Kept.mk ?_ ?_ ?_ ?_ ?_ <;> dsimp only <;> first | exact Kept.queue ‹_› | exact Kept.mem ‹_› | exact Kept.regs ‹_› | exact Kept.stalls ‹_› | exact Kept.units ‹_›))

theorem kept_overrideSet {a0 a1 s} (h2 : Kept q s) : Kept q (overrideSet a0 a1 s) := by
  unfold overrideSet
  repeat'
    first
      | (with_reducible assumption)
      | (with_reducible apply kept_setFld)

/-! ### Credits -/

theorem kept_setTrace {a0 a1 s} (h2 : Kept q s) : Kept q (setTrace a0 a1 s) := by
  unfold setTrace
  repeat'
    first
      | (with_reducible (refine Kept.mk ?_ ?_ ?_ ?_ ?_ <;> dsimp only <;> first | exact Kept.queue ‹_› | exact Kept.mem ‹_› | exact Kept.regs ‹_› | exact Kept.stalls ‹_› | exact Kept.units ‹_›))

theorem kept_freeCredits {a0 a1 a2 a3 s} (h4 : Kept q s) : Kept q (freeCredits a0 a1 a2 a3 s) := by
  unfold freeCredits
  repeat'
    first
      | (with_reducible assumption)
      | (with_reducible apply kept_setTrace)
      | (with_reducible apply kept_ite)

/-! ### Packet -/

theorem kept_sendOut {a0 s} (h1 : Kept q s) : Kept q (sendOut a0 s) := by
  unfold sendOut
  repeat'
    first
      | (with_reducible (refine Kept.mk ?_ ?_ ?_ ?_ ?_ <;> dsimp only <;> first | exact Kept.queue ‹_› | exact Kept.mem ‹_› | exact Kept.regs ‹_› | exact Kept.stalls ‹_› | exact Kept.units ‹_›))

theorem kept_pcieFlush {n p} : ∀ {s}, Kept q s → Kept q (pcieFlush n p s) := by
  induction n with
  | zero => intro s h; exact h
  | succ n ih =>
    intro s h
    unfold pcieFlush
    split
    · exact h
    · split
      · exact h
      · extract_lets tail x y
        have hx : Kept q x := kept_sendOut ⟨h.queue, h.mem, h.regs, h.stalls, h.units⟩
        have hy : Kept q y := kept_setFld hx
        refine ih ?_
        split
        · exact hy
        · exact kept_sendOut hy

theorem kept_udpOut {a0 a1 s} (h2 : Kept q s) : Kept q (udpOut a0 a1 s) := by
  unfold udpOut
  repeat'
    first
      | (with_reducible assumption)
      | (with_reducible apply kept_bumpFresh)
      | (with_reducible apply kept_sendOut)
      | split

theorem kept_udpSend {a0 a1 s} (h2 : Kept q s) : Kept q (udpSend a0 a1 s) := by
  unfold udpSend
  repeat'
    first
      | (with_reducible assumption)
      | (extract_lets +onlyGivenNames x; (try clear_value x); revert x; intro y)
      | (with_reducible apply kept_udpOut)
      | (with_reducible apply kept_sendOut)
      | split
      | (with_reducible (refine Kept.mk ?_ ?_ ?_ ?_ ?_ <;> dsimp only <;> first | exact Kept.queue ‹_› | exact Kept.mem ‹_› | exact Kept.regs ‹_› | exact Kept.stalls ‹_› | exact Kept.units ‹_›))

theorem kept_queuePacket {a0 s} (h1 : Kept q s) : Kept q (queuePacket a0 s) := by
  unfold queuePacket
  repeat'
    first
      | (with_reducible assumption)
      | (with_reducible apply kept_pcieFlush)
      | (with_reducible apply kept_sendOut)
      | (with_reducible apply kept_udpSend)
      | split
      | (with_reducible (refine Kept.mk ?_ ?_ ?_ ?_ ?_ <;> dsimp only <;> first | exact Kept.queue ‹_› | exact Kept.mem ‹_› | exact Kept.regs ‹_› | exact Kept.stalls ‹_› | exact Kept.units ‹_›))

theorem kept_setSession {a0 s} (h1 : Kept q s) : Kept q (setSession a0 s) := by
  unfold setSession
  repeat'
    first
      | (with_reducible (refine Kept.mk ?_ ?_ ?_ ?_ ?_ <;> dsimp only <;> first | exact Kept.queue ‹_› | exact Kept.mem ‹_› | exact Kept.regs ‹_› | exact Kept.stalls ‹_› | exact Kept.units ‹_›))

theorem kept_closeSession {a0 a1 s} (h2 : Kept q s) : Kept q (closeSession a0 a1 s) := by
  unfold closeSession
  repeat'
    first
      | (with_reducible assumption)
      | (with_reducible apply kept_addFld)
      | split
      | (with_reducible (refine Kept.mk ?_ ?_ ?_ ?_ ?_ <;> dsimp only <;> first | exact Kept.queue ‹_› | exact Kept.mem ‹_› | exact Kept.regs ‹_› | exact Kept.stalls ‹_› | exact Kept.units ‹_›))

theorem kept_sendReply {a0 a1 s} (h2 : Kept q s) : Kept q (sendReply a0 a1 s) := by
  unfold sendReply
  repeat'
    first
      | (with_reducible assumption)
      | (with_reducible apply kept_queuePacket)

theorem kept_answer {a0 a1 s} (h2 : Kept q s) : Kept q (answer a0 a1 s) := by
  unfold answer
  repeat'
    first
      | (with_reducible assumption)
      | (with_reducible apply kept_sendReply)
      | (with_reducible apply kept_queuePacket)
      | (with_reducible apply kept_setSession)
      | split

theorem kept_serve {op r s} {f : State → Service} (hf : ∀ s, Kept q s → KeptV q (f s)) (h : Kept q s) : Kept q (serve op r f s) := by
  unfold serve
  split
  · exact h
  · rename_i x rest e
    split
    · extract_lets y
      have hy : Kept q y := ⟨h.queue, h.mem, h.regs, h.stalls, h.units⟩
      have hv := hf y hy
      split
      · exact kept_answer hy
      · rename_i p t e
        exact kept_answer (hv p t e)
    · exact h

theorem kept_formatFail {a0 s} (h1 : Kept q s) : Kept q (formatFail a0 s) := by
  unfold formatFail
  repeat'
    first
      | (with_reducible assumption)
      | (extract_lets +onlyGivenNames x; refine (fun (hx : Kept q x) => ?_) ?_; (rotate_left; unfold x; clear x; rotate_left); (try clear_value x); revert x; intro y hy)
      | (with_reducible apply kept_setBit)
      | (with_reducible apply kept_countFld)
      | split
      | (with_reducible (refine Kept.mk ?_ ?_ ?_ ?_ ?_ <;> dsimp only <;> first | exact Kept.queue ‹_› | exact Kept.mem ‹_› | exact Kept.regs ‹_› | exact Kept.stalls ‹_› | exact Kept.units ‹_›))

theorem kept_crcFail {a0 s} (h1 : Kept q s) : Kept q (crcFail a0 s) := by
  unfold crcFail
  repeat'
    first
      | (with_reducible assumption)
      | (extract_lets +onlyGivenNames x; refine (fun (hx : Kept q x) => ?_) ?_; (rotate_left; unfold x; clear x; rotate_left); (try clear_value x); revert x; intro y hy)
      | (with_reducible apply kept_setBit)
      | (with_reducible apply kept_countFld)
      | split
      | (with_reducible (refine Kept.mk ?_ ?_ ?_ ?_ ?_ <;> dsimp only <;> first | exact Kept.queue ‹_› | exact Kept.mem ‹_› | exact Kept.regs ‹_› | exact Kept.stalls ‹_› | exact Kept.units ‹_›))

theorem kept_enter {a0 s} (h1 : Kept q s) : Kept q (enter a0 s) := by
  unfold enter
  repeat'
    first
      | (with_reducible assumption)
      | (with_reducible apply kept_answer)
      | split
      | (with_reducible (refine Kept.mk ?_ ?_ ?_ ?_ ?_ <;> dsimp only <;> first | exact Kept.queue ‹_› | exact Kept.mem ‹_› | exact Kept.regs ‹_› | exact Kept.stalls ‹_› | exact Kept.units ‹_›))

theorem kept_admitCase {a0 a1 a2 a3 s} (h4 : Kept q s) : Kept q (admitCase a0 a1 a2 a3 s) := by
  unfold admitCase
  repeat'
    first
      | (with_reducible assumption)
      | (with_reducible apply kept_sendReply)
      | (with_reducible apply kept_countFld)
      | (with_reducible apply kept_queuePacket)
      | (with_reducible apply kept_enter)
      | (with_reducible apply kept_addFld)
      | (with_reducible apply kept_setSession)
      | split

theorem kept_admitSeq {a0 a1 s} (h2 : Kept q s) : Kept q (admitSeq a0 a1 s) := by
  unfold admitSeq
  repeat'
    first
      | (with_reducible assumption)
      | (with_reducible apply kept_admitCase)

theorem kept_admitPacket {a0 a1 s} (h2 : Kept q s) : Kept q (admitPacket a0 a1 s) := by
  unfold admitPacket
  repeat'
    first
      | (with_reducible assumption)
      | (extract_lets +onlyGivenNames x; (try clear_value x); revert x; intro y)
      | (with_reducible apply kept_formatFail)
      | (with_reducible apply kept_crcFail)
      | (with_reducible apply kept_raise)
      | (with_reducible apply kept_setBit)
      | (with_reducible apply kept_countFld)
      | (with_reducible apply kept_sendReply)
      | (with_reducible apply kept_enter)
      | (with_reducible apply kept_admitSeq)
      | split

theorem kept_rxFree {p s} (h : Kept q s) : Kept q (rxFree p s) := by
  unfold rxFree
  generalize creditsOf p.bytes.length = n
  split
  · exact kept_freeCredits h
  · exact h

theorem kept_packetAdmission {a0 a1 s} (h2 : Kept q s) : Kept q (packetAdmission a0 a1 s) := by
  unfold packetAdmission
  repeat'
    first
      | (with_reducible assumption)
      | (with_reducible apply kept_admitPacket)
      | (with_reducible apply kept_rxFree)
      | split
      | (with_reducible (refine Kept.mk ?_ ?_ ?_ ?_ ?_ <;> dsimp only <;> first | exact Kept.queue ‹_› | exact Kept.mem ‹_› | exact Kept.regs ‹_› | exact Kept.stalls ‹_› | exact Kept.units ‹_›))

theorem kept_execPacketAdmission {a0 a1 s} (h2 : Kept q s) : KeptR q (execPacketAdmission a0 a1 s) := by
  unfold execPacketAdmission
  refine keptR_next ?_
  repeat'
    first
      | (with_reducible assumption)
      | (with_reducible apply kept_packetAdmission)

theorem kept_sendNotice {a0 a1 s} (h2 : Kept q s) : Kept q (sendNotice a0 a1 s) := by
  unfold sendNotice
  repeat'
    first
      | (with_reducible assumption)
      | (with_reducible apply kept_setSession)
      | (with_reducible apply kept_queuePacket)
      | (with_reducible apply kept_ite)

theorem kept_setPending {a0 s} (h1 : Kept q s) : Kept q (setPending a0 s) := by
  unfold setPending
  repeat'
    first
      | (with_reducible assumption)
      | (with_reducible apply kept_setFld)
      | (with_reducible apply kept_sendOut)
      | (with_reducible apply kept_ite)

theorem kept_eventLogWrite {a0 s} (h1 : Kept q s) : Kept q (eventLogWrite a0 s) := by
  unfold eventLogWrite
  repeat'
    first
      | (with_reducible assumption)
      | (extract_lets +onlyGivenNames x; refine (fun (hx : Kept q x) => ?_) ?_; (rotate_left; unfold x; clear x; rotate_left); (try clear_value x); revert x; intro y hy)
      | (extract_lets +onlyGivenNames x; (try clear_value x); revert x; intro y)
      | (with_reducible apply kept_setFld)
      | (with_reducible apply kept_setPending)
      | (with_reducible apply kept_sendNotice)
      | (refine kept_forEach (fun _ _ _ => ?_) ?_)
      | split
      | (with_reducible (refine Kept.mk ?_ ?_ ?_ ?_ ?_ <;> dsimp only <;> first | exact Kept.queue ‹_› | exact Kept.mem ‹_› | exact Kept.regs ‹_› | exact Kept.stalls ‹_› | exact Kept.units ‹_›))

theorem kept_execEventLogWrite {a0 s} (h1 : Kept q s) : KeptR q (execEventLogWrite a0 s) := by
  unfold execEventLogWrite
  refine keptR_next ?_
  repeat'
    first
      | (with_reducible assumption)
      | (with_reducible apply kept_eventLogWrite)

theorem kept_execSessionIdleTimeout {a0 a1 s} (h2 : Kept q s) : KeptR q (execSessionIdleTimeout a0 a1 s) := by
  unfold execSessionIdleTimeout
  refine keptR_next ?_
  repeat'
    first
      | (with_reducible assumption)
      | (with_reducible apply kept_closeSession)

theorem kept_setJob {a0 s} (h1 : Kept q s) : Kept q (setJob a0 s) := by
  unfold setJob
  repeat'
    first
      | (with_reducible (refine Kept.mk ?_ ?_ ?_ ?_ ?_ <;> dsimp only <;> first | exact Kept.queue ‹_› | exact Kept.mem ‹_› | exact Kept.regs ‹_› | exact Kept.stalls ‹_› | exact Kept.units ‹_›))

theorem keptV_startJob {r j w s} {k : Nat → State → State} (hk : ∀ n s, Kept q s → Kept q (k n s)) (h : Kept q s) :
    KeptV q (startJob r j w k s) := by
  unfold startJob
  split
  · exact keptV_errRep
  · exact keptV_jobRep (hk _ _ ⟨h.queue, h.mem, h.regs, h.stalls, h.units⟩)

theorem kept_endJob {a0 a1 a2 a3 a4 s} (h5 : Kept q s) : Kept q (endJob a0 a1 a2 a3 a4 s) := by
  unfold endJob
  repeat'
    first
      | (with_reducible assumption)
      | (with_reducible apply kept_raiseTo)
      | (with_reducible apply kept_setJob)
      | split

theorem kept_execJobRecordExpiry {a0 s} (h1 : Kept q s) : KeptR q (execJobRecordExpiry a0 s) := by
  unfold execJobRecordExpiry
  refine keptR_next ?_
  repeat'
    first
      | (with_reducible (refine Kept.mk ?_ ?_ ?_ ?_ ?_ <;> dsimp only <;> first | exact Kept.queue ‹_› | exact Kept.mem ‹_› | exact Kept.regs ‹_› | exact Kept.stalls ‹_› | exact Kept.units ‹_›))

/-! ### Amp -/

theorem kept_setAmp {a0 a1 s} (h2 : Kept q s) : Kept q (setAmp a0 a1 s) := by
  unfold setAmp
  repeat'
    first
      | (with_reducible (refine Kept.mk ?_ ?_ ?_ ?_ ?_ <;> dsimp only <;> first | exact Kept.queue ‹_› | exact Kept.mem ‹_› | exact Kept.regs ‹_› | exact Kept.stalls ‹_› | exact Kept.units ‹_›))

theorem kept_showGroup {a0 s} (h1 : Kept q s) : Kept q (showGroup a0 s) := by
  unfold showGroup
  repeat'
    first
      | (with_reducible assumption)
      | (with_reducible apply kept_setFld)

theorem kept_setAmpState {a0 a1 s} (h2 : Kept q s) : Kept q (setAmpState a0 a1 s) := by
  unfold setAmpState
  repeat'
    first
      | (with_reducible assumption)
      | (with_reducible apply kept_showGroup)
      | (with_reducible apply kept_setFld)

theorem kept_gainGo {a0 s} (h1 : Kept q s) : Kept q (gainGo a0 s) := by
  unfold gainGo
  repeat'
    first
      | (with_reducible assumption)
      | (with_reducible apply kept_setAmp)
      | (with_reducible apply kept_ite)

theorem kept_muteNow {a0 s} (h1 : Kept q s) : Kept q (muteNow a0 s) := by
  unfold muteNow
  repeat'
    first
      | (with_reducible assumption)
      | (with_reducible apply kept_gainGo)
      | (with_reducible apply kept_setAmp)

theorem kept_muteTap {a0 a1 s} (h2 : Kept q s) : Kept q (muteTap a0 a1 s) := by
  unfold muteTap
  repeat'
    first
      | (with_reducible assumption)
      | (with_reducible apply kept_setAmp)

theorem kept_ampExit {a0 a1 s} (h2 : Kept q s) : Kept q (ampExit a0 a1 s) := by
  unfold ampExit
  repeat'
    first
      | (with_reducible assumption)
      | (with_reducible apply kept_setAmp)
      | (with_reducible apply kept_countFld)
      | (with_reducible apply kept_setBit)
      | (with_reducible apply kept_gainGo)
      | (with_reducible apply kept_ite)

theorem kept_ampEnter {a0 a1 a2 s} (h3 : Kept q s) : Kept q (ampEnter a0 a1 a2 s) := by
  unfold ampEnter
  repeat'
    first
      | (with_reducible assumption)
      | (extract_lets +onlyGivenNames x; refine (fun (hx : Kept q x) => ?_) ?_; (rotate_left; unfold x; clear x; rotate_left); (try clear_value x); revert x; intro y hy)
      | (extract_lets +onlyGivenNames x; (try clear_value x); revert x; intro y)
      | (with_reducible apply kept_setAmp)
      | (with_reducible apply kept_ampExit)
      | split

theorem kept_ampSamples {a0 s} (h1 : Kept q s) : Kept q (ampSamples a0 s) := by
  unfold ampSamples
  repeat'
    first
      | (with_reducible assumption)
      | (with_reducible apply kept_ampEnter)
      | (refine kept_forEach (fun _ _ _ => ?_) ?_)

theorem kept_diagJobCheck {a0 s} (h1 : Kept q s) : Kept q (diagJobCheck a0 s) := by
  unfold diagJobCheck
  repeat'
    first
      | (with_reducible assumption)
      | (with_reducible apply kept_endJob)
      | (with_reducible apply kept_raise)
      | split

theorem kept_testEnd {a0 a1 a2 s} (h3 : Kept q s) : Kept q (testEnd a0 a1 a2 s) := by
  unfold testEnd
  repeat'
    first
      | (with_reducible assumption)
      | (extract_lets +onlyGivenNames x; refine (fun (hx : Kept q x) => ?_) ?_; (rotate_left; unfold x; clear x; rotate_left); (try clear_value x); revert x; intro y hy)
      | (extract_lets +onlyGivenNames x; (try clear_value x); revert x; intro y)
      | (with_reducible apply kept_setAmp)
      | (with_reducible apply kept_gainGo)
      | (with_reducible apply kept_setAmpState)
      | (with_reducible apply kept_diagJobCheck)
      | split

theorem kept_testAbort {a0 s} (h1 : Kept q s) : Kept q (testAbort a0 s) := by
  unfold testAbort
  repeat'
    first
      | (with_reducible assumption)
      | (with_reducible apply kept_testEnd)

theorem kept_faultStop {a0 a1 s} (h2 : Kept q s) : Kept q (faultStop a0 a1 s) := by
  unfold faultStop
  repeat'
    first
      | (with_reducible assumption)
      | (with_reducible apply kept_countFld)
      | (with_reducible apply kept_setBit)
      | (with_reducible apply kept_setFld)
      | (with_reducible apply kept_clrBit)
      | (with_reducible apply kept_setAmpState)
      | (with_reducible apply kept_testAbort)
      | (with_reducible apply kept_setAmp)

theorem kept_beginRelease {a0 a1 a2 s} (h3 : Kept q s) : Kept q (beginRelease a0 a1 a2 s) := by
  unfold beginRelease
  repeat'
    first
      | (with_reducible assumption)
      | (with_reducible apply kept_setAmp)
      | (with_reducible apply kept_setBit)
      | (with_reducible apply kept_setAmpState)
      | (with_reducible apply kept_ite)

theorem kept_ampTrigger {s} (h0 : Kept q s) : Kept q (ampTrigger s) := by
  unfold ampTrigger
  repeat'
    first
      | (with_reducible assumption)
      | (with_reducible apply kept_beginRelease)
      | (refine kept_forEach (fun _ _ _ => ?_) ?_)
      | (with_reducible apply kept_ite)

theorem kept_wakeGroup {a0 s} (h1 : Kept q s) : Kept q (wakeGroup a0 s) := by
  unfold wakeGroup
  repeat'
    first
      | (with_reducible assumption)
      | (with_reducible apply kept_clrBit)
      | (refine kept_forEach (fun _ _ _ => ?_) ?_)

theorem kept_ovrWake {a0 s} (h1 : Kept q s) : Kept q (ovrWake a0 s) := by
  unfold ovrWake
  repeat'
    first
      | (with_reducible assumption)
      | (with_reducible apply kept_testAbort)
      | (with_reducible apply kept_beginRelease)
      | (with_reducible apply kept_wakeGroup)
      | (refine kept_forEach (fun _ _ _ => ?_) ?_)
      | (with_reducible apply kept_ite)

theorem kept_wakeSettleEnd {a0 s} (h1 : Kept q s) : Kept q (wakeSettleEnd a0 s) := by
  unfold wakeSettleEnd
  repeat'
    first
      | (with_reducible assumption)
      | (with_reducible apply kept_setAmp)
      | (refine kept_forEach (fun _ _ _ => ?_) ?_)
      | (with_reducible apply kept_ite)

theorem kept_execWakeSettleEnd {a0 s} (h1 : Kept q s) : KeptR q (execWakeSettleEnd a0 s) := by
  unfold execWakeSettleEnd
  refine keptR_next ?_
  repeat'
    first
      | (with_reducible assumption)
      | (with_reducible apply kept_wakeSettleEnd)

theorem kept_startChannel {a0 a1 a2 a3 s} (h4 : Kept q s) : Kept q (startChannel a0 a1 a2 a3 s) := by
  unfold startChannel
  repeat'
    first
      | (with_reducible assumption)
      | (with_reducible apply kept_setFld)
      | (with_reducible apply kept_clrBit)
      | (with_reducible apply kept_setAmpState)
      | (with_reducible apply kept_setAmp)

theorem kept_noFreq {a0 s} (h1 : Kept q s) : Kept q (noFreq a0 s) := by
  unfold noFreq
  repeat'
    first
      | (with_reducible assumption)
      | (with_reducible apply kept_faultStop)
      | (with_reducible apply kept_setBit)

theorem kept_releaseGroup {g s} (h : Kept q s) : Kept q (releaseGroup g s) := by
  unfold releaseGroup
  extract_lets cs locked run target y
  clear_value cs
  have hy : Kept q y := by
    unfold y
    split
    · exact kept_countFld h
    · exact h
  clear_value y
  split
  · exact h
  · split
    · split
      · exact kept_forEach (fun _ _ h => kept_startChannel h) hy
      · generalize searchFreq y true (fixedWindows y) target assignOffsets = f
        cases f with
        | none => exact kept_forEach (fun _ _ h => kept_noFreq h) hy
        | some f => exact kept_forEach (fun _ _ h => kept_startChannel h) hy
    · refine kept_forEach (fun c t h => ?_) hy
      dsimp only
      generalize searchFreq t false (fixedWindows t) (fld t Fld.AMP_FSW_FSW c) assignOffsets = f
      cases f with
      | none => exact kept_noFreq h
      | some f => exact kept_startChannel h

theorem kept_execAmpRelease {s} (h0 : Kept q s) : KeptR q (execAmpRelease s) := by
  unfold execAmpRelease
  refine keptR_next ?_
  repeat'
    first
      | (with_reducible assumption)
      | (with_reducible apply kept_releaseGroup)
      | (refine kept_forEach (fun _ _ _ => ?_) ?_)
      | (with_reducible apply kept_ite)

theorem kept_carrierLock {a0 a1 s} (h2 : Kept q s) : Kept q (carrierLock a0 a1 s) := by
  unfold carrierLock
  repeat'
    first
      | (with_reducible assumption)
      | (with_reducible apply kept_setFld)
      | (with_reducible apply kept_setBit)
      | (with_reducible apply kept_setAmp)
      | (with_reducible apply kept_setAmpState)
      | (with_reducible apply kept_ite)

theorem kept_execCarrierLock {a0 a1 s} (h2 : Kept q s) : KeptR q (execCarrierLock a0 a1 s) := by
  unfold execCarrierLock
  refine keptR_next ?_
  repeat'
    first
      | (with_reducible assumption)
      | (with_reducible apply kept_carrierLock)

theorem kept_requestStop {a0 s} (h1 : Kept q s) : Kept q (requestStop a0 s) := by
  unfold requestStop
  repeat'
    first
      | (with_reducible assumption)
      | (with_reducible apply kept_setAmpState)
      | (with_reducible apply kept_setAmp)
      | (with_reducible apply kept_ite)

theorem kept_stopStart {a0 s} (h1 : Kept q s) : Kept q (stopStart a0 s) := by
  unfold stopStart
  repeat'
    first
      | (with_reducible assumption)
      | (with_reducible apply kept_testAbort)
      | (with_reducible apply kept_setAmpState)
      | (with_reducible apply kept_setAmp)
      | (with_reducible apply kept_ite)

theorem kept_execCleanStop {s} (h0 : Kept q s) : KeptR q (execCleanStop s) := by
  unfold execCleanStop
  refine keptR_next ?_
  repeat'
    first
      | (with_reducible assumption)
      | (with_reducible apply kept_stopStart)
      | (refine kept_forEach (fun _ _ _ => ?_) ?_)

theorem kept_muteRampEnd {a0 s} (h1 : Kept q s) : Kept q (muteRampEnd a0 s) := by
  unfold muteRampEnd
  repeat'
    first
      | (with_reducible assumption)
      | (with_reducible apply kept_setAmp)
      | (with_reducible apply kept_setAmpState)
      | (with_reducible apply kept_clrBit)
      | (with_reducible apply kept_ampTrigger)
      | (with_reducible apply kept_beginRelease)
      | (with_reducible apply kept_ite)

theorem kept_execMuteRampEnd {a0 s} (h1 : Kept q s) : KeptR q (execMuteRampEnd a0 s) := by
  unfold execMuteRampEnd
  refine keptR_next ?_
  repeat'
    first
      | (with_reducible assumption)
      | (with_reducible apply kept_muteRampEnd)

theorem kept_execAmpSilence {a0 s} (h1 : Kept q s) : KeptR q (execAmpSilence a0 s) := by
  unfold execAmpSilence
  refine keptR_next ?_
  repeat'
    first
      | (with_reducible assumption)
      | (with_reducible apply kept_setBit)
      | (with_reducible apply kept_ite)

theorem kept_groupPowerDown {a0 s} (h1 : Kept q s) : Kept q (groupPowerDown a0 s) := by
  unfold groupPowerDown
  repeat'
    first
      | (with_reducible assumption)
      | (with_reducible apply kept_setBit)
      | (with_reducible apply kept_setAmpState)
      | (with_reducible apply kept_setAmp)
      | (refine kept_forEach (fun _ _ _ => ?_) ?_)
      | (with_reducible apply kept_ite)

theorem kept_execGroupPowerDown {a0 s} (h1 : Kept q s) : KeptR q (execGroupPowerDown a0 s) := by
  unfold execGroupPowerDown
  refine keptR_next ?_
  repeat'
    first
      | (with_reducible assumption)
      | (with_reducible apply kept_groupPowerDown)

theorem kept_ampWake {a0 s} (h1 : Kept q s) : Kept q (ampWake a0 s) := by
  unfold ampWake
  repeat'
    first
      | (with_reducible assumption)
      | (with_reducible apply kept_clrBit)
      | (with_reducible apply kept_countFld)
      | (with_reducible apply kept_ampTrigger)
      | (with_reducible apply kept_setAmp)
      | (refine kept_forEach (fun _ _ _ => ?_) ?_)
      | (with_reducible apply kept_ite)

theorem kept_execAmpWake {a0 s} (h1 : Kept q s) : KeptR q (execAmpWake a0 s) := by
  unfold execAmpWake
  refine keptR_next ?_
  repeat'
    first
      | (with_reducible assumption)
      | (with_reducible apply kept_ampWake)

theorem kept_execDriverFault {a0 s} (h1 : Kept q s) : KeptR q (execDriverFault a0 s) := by
  unfold execDriverFault
  refine keptR_next ?_
  repeat'
    first
      | (with_reducible assumption)
      | (with_reducible apply kept_faultStop)
      | (with_reducible apply kept_raise)
      | (with_reducible apply kept_ite)

theorem kept_currentLimit {a0 s} (h1 : Kept q s) : Kept q (currentLimit a0 s) := by
  unfold currentLimit
  repeat'
    first
      | (with_reducible assumption)
      | (with_reducible apply kept_setAmp)
      | (with_reducible apply kept_ite)

theorem kept_execCurrentLimit {a0 s} (h1 : Kept q s) : KeptR q (execCurrentLimit a0 s) := by
  unfold execCurrentLimit
  refine keptR_next ?_
  repeat'
    first
      | (with_reducible assumption)
      | (with_reducible apply kept_currentLimit)

theorem kept_shortFault {a0 s} (h1 : Kept q s) : Kept q (shortFault a0 s) := by
  unfold shortFault
  repeat'
    first
      | (with_reducible assumption)
      | (with_reducible apply kept_faultStop)
      | (with_reducible apply kept_raise)
      | (with_reducible apply kept_ite)

theorem kept_execShortFault {a0 s} (h1 : Kept q s) : KeptR q (execShortFault a0 s) := by
  unfold execShortFault
  refine keptR_next ?_
  repeat'
    first
      | (with_reducible assumption)
      | (with_reducible apply kept_shortFault)

theorem kept_dcFault {a0 s} (h1 : Kept q s) : Kept q (dcFault a0 s) := by
  unfold dcFault
  repeat'
    first
      | (with_reducible assumption)
      | (with_reducible apply kept_faultStop)
      | (with_reducible apply kept_raise)
      | (with_reducible apply kept_ite)

theorem kept_execDcFault {a0 s} (h1 : Kept q s) : KeptR q (execDcFault a0 s) := by
  unfold execDcFault
  refine keptR_next ?_
  repeat'
    first
      | (with_reducible assumption)
      | (with_reducible apply kept_dcFault)

theorem kept_loopFault {a0 a1 s} (h2 : Kept q s) : Kept q (loopFault a0 a1 s) := by
  unfold loopFault
  repeat'
    first
      | (with_reducible assumption)
      | (with_reducible apply kept_faultStop)
      | (with_reducible apply kept_raise)
      | (with_reducible apply kept_ite)

theorem kept_execLoopFault {a0 a1 s} (h2 : Kept q s) : KeptR q (execLoopFault a0 a1 s) := by
  unfold execLoopFault
  refine keptR_next ?_
  repeat'
    first
      | (with_reducible assumption)
      | (with_reducible apply kept_loopFault)

theorem kept_enChanged {a0 s} (h1 : Kept q s) : Kept q (enChanged a0 s) := by
  unfold enChanged
  repeat'
    first
      | (with_reducible assumption)
      | (with_reducible apply kept_ampTrigger)
      | (with_reducible apply kept_setAmpState)
      | (with_reducible apply kept_requestStop)
      | (with_reducible apply kept_ite)

theorem kept_freqPending {a0 s} (h1 : Kept q s) : Kept q (freqPending a0 s) := by
  unfold freqPending
  repeat'
    first
      | (with_reducible assumption)
      | (with_reducible apply kept_setBit)
      | (refine kept_forEach (fun _ _ _ => ?_) ?_)

theorem kept_ampRegChanged {a0 a1 a2 s} (h3 : Kept q s) : Kept q (ampRegChanged a0 a1 a2 s) := by
  unfold ampRegChanged
  repeat'
    first
      | (with_reducible assumption)
      | (extract_lets +onlyGivenNames x; refine (fun (hx : Kept q x) => ?_) ?_; (rotate_left; unfold x; clear x; rotate_left); (try clear_value x); revert x; intro y hy)
      | (extract_lets +onlyGivenNames x; (try clear_value x); revert x; intro y)
      | (with_reducible apply kept_muteTap)
      | (with_reducible apply kept_muteNow)
      | (with_reducible apply kept_enChanged)
      | (with_reducible apply kept_freqPending)
      | split

end Sys2Proof.Machine
end

