-- ==== Sys2Proof/Laws/Kept3.lean ====
section
/-! SUPPORT. The operations of Machine/ AmpCmd, Graph, Param, Certify, Avs, Brew keep the queue and the canonical form. -/

namespace Sys2Proof.Machine

variable {q : List Instr}

/-! ### AmpCmd -/

theorem kept_showArmed {a0 s} (h1 : Kept q s) : Kept q (showArmed a0 s) := by
  unfold showArmed
  repeat'
    first
      | (with_reducible assumption)
      | (with_reducible apply kept_setFld)

theorem kept_limStore {a0 a1 a2 s} (h3 : Kept q s) : Kept q (limStore a0 a1 a2 s) := by
  unfold limStore
  repeat'
    first
      | (with_reducible assumption)
      | (with_reducible apply kept_ampTrigger)
      | (with_reducible apply kept_showArmed)
      | (with_reducible apply kept_setBit)
      | (with_reducible apply kept_setRegWord)
      | (with_reducible apply kept_setAmp)

theorem kept_limWrite {a0 a1 a2 s} (h3 : Kept q s) : Kept q (limWrite a0 a1 a2 s) := by
  unfold limWrite
  repeat'
    first
      | (with_reducible assumption)
      | (with_reducible apply kept_setBit)
      | (with_reducible apply kept_limStore)
      | (with_reducible apply kept_ite)

theorem kept_requireWrite {a0 s} (h1 : Kept q s) : Kept q (requireWrite a0 s) := by
  unfold requireWrite
  repeat'
    first
      | (with_reducible assumption)
      | (with_reducible apply kept_setBit)
      | (with_reducible apply kept_setFld)
      | (with_reducible apply kept_ite)
      | (with_reducible (refine Kept.mk ?_ ?_ ?_ ?_ ?_ <;> dsimp only <;> first | exact Kept.queue ‹_› | exact Kept.mem ‹_› | exact Kept.regs ‹_› | exact Kept.stalls ‹_› | exact Kept.units ‹_›))

theorem kept_execLimitRegisterWrite {a0 a1 a2 s} (h3 : Kept q s) : KeptR q (execLimitRegisterWrite a0 a1 a2 s) := by
  unfold execLimitRegisterWrite
  refine keptR_next ?_
  repeat'
    first
      | (with_reducible assumption)
      | (with_reducible apply kept_requireWrite)
      | (with_reducible apply kept_limWrite)
      | (with_reducible apply kept_ite)

theorem kept_ampLimitSet {a0 s} (h1 : Kept q s) : KeptV q (ampLimitSet a0 s) := by
  unfold ampLimitSet
  repeat'
    first
      | (with_reducible assumption)
      | (with_reducible apply keptV_shaped)
      | (with_reducible apply keptV_need)
      | (with_reducible apply keptV_okRep)
      | (with_reducible apply kept_limStore)
      | (refine kept_forEach (fun _ _ _ => ?_) ?_)

theorem kept_execAmpLimitSet {a0 s} (h1 : Kept q s) : KeptR q (execAmpLimitSet a0 s) := by
  unfold execAmpLimitSet
  refine keptR_next ?_
  repeat'
    first
      | (with_reducible assumption)
      | (refine kept_serve (fun _ _ => ?_) ?_)
      | (with_reducible apply kept_ampLimitSet)

theorem kept_energyChannel {a0 a1 s} (h2 : Kept q s) : Kept q (energyChannel a0 a1 s) := by
  unfold energyChannel
  repeat'
    first
      | (with_reducible assumption)
      | (with_reducible apply kept_setFld)
      | (with_reducible apply kept_setAmp)
      | (with_reducible apply kept_faultStop)
      | (with_reducible apply kept_raise)
      | (with_reducible apply kept_countFld)
      | (with_reducible apply kept_setBit)
      | (with_reducible apply kept_ite)

theorem kept_execEnergyBlock {a0 s} (h1 : Kept q s) : KeptR q (execEnergyBlock a0 s) := by
  unfold execEnergyBlock
  refine keptR_next ?_
  repeat'
    first
      | (with_reducible assumption)
      | (with_reducible apply kept_energyChannel)
      | (refine kept_forEach (fun _ _ _ => ?_) ?_)
      | (with_reducible apply kept_ite)

theorem kept_clearFault {a0 s} (h1 : Kept q s) : Kept q (clearFault a0 s) := by
  unfold clearFault
  repeat'
    first
      | (with_reducible assumption)
      | (with_reducible apply kept_setAmpState)
      | (with_reducible apply kept_clrBit)
      | (with_reducible apply kept_setFld)

theorem kept_energyHoldEnd {a0 s} (h1 : Kept q s) : Kept q (energyHoldEnd a0 s) := by
  unfold energyHoldEnd
  repeat'
    first
      | (with_reducible assumption)
      | (with_reducible apply kept_setAmp)
      | (with_reducible apply kept_ampTrigger)
      | (with_reducible apply kept_clearFault)
      | (with_reducible apply kept_ite)

theorem kept_execEnergyCutHoldEnd {a0 s} (h1 : Kept q s) : KeptR q (execEnergyCutHoldEnd a0 s) := by
  unfold execEnergyCutHoldEnd
  refine keptR_next ?_
  repeat'
    first
      | (with_reducible assumption)
      | (with_reducible apply kept_energyHoldEnd)

theorem kept_ampFaultClear {a0 a1 s} (h2 : Kept q s) : KeptV q (ampFaultClear a0 a1 s) := by
  unfold ampFaultClear
  repeat'
    first
      | (with_reducible assumption)
      | (with_reducible apply keptV_shaped)
      | (with_reducible apply keptV_need)
      | (with_reducible apply keptV_okRep)
      | (with_reducible apply kept_ampTrigger)
      | (with_reducible apply kept_clearFault)
      | (refine kept_forEach (fun _ _ _ => ?_) ?_)

theorem kept_execAmpFaultClear {a0 a1 s} (h2 : Kept q s) : KeptR q (execAmpFaultClear a0 a1 s) := by
  unfold execAmpFaultClear
  refine keptR_next ?_
  repeat'
    first
      | (with_reducible assumption)
      | (refine kept_serve (fun _ _ => ?_) ?_)
      | (with_reducible apply kept_ampFaultClear)

theorem kept_diagStart {a0 a1 a2 s} (h3 : Kept q s) : Kept q (diagStart a0 a1 a2 s) := by
  unfold diagStart
  repeat'
    first
      | (with_reducible assumption)
      | (with_reducible apply kept_setAmp)
      | (with_reducible apply kept_setAmpState)
      | (with_reducible apply kept_beginRelease)
      | (with_reducible apply kept_ite)

theorem kept_ampDiag {a0 a1 s} (h2 : Kept q s) : KeptV q (ampDiag a0 a1 s) := by
  unfold ampDiag
  repeat'
    first
      | (with_reducible assumption)
      | (with_reducible apply keptV_errRep)
      | (with_reducible apply keptV_shaped)
      | (with_reducible apply keptV_need)
      | (refine keptV_startJob (fun _ _ _ => ?_) ?_)
      | (with_reducible apply kept_diagStart)
      | (with_reducible apply kept_testAbort)
      | (with_reducible apply kept_diagJobCheck)
      | (refine kept_forEach (fun _ _ _ => ?_) ?_)
      | split

theorem kept_execAmpDiag {a0 a1 s} (h2 : Kept q s) : KeptR q (execAmpDiag a0 a1 s) := by
  unfold execAmpDiag
  refine keptR_next ?_
  repeat'
    first
      | (with_reducible assumption)
      | (refine kept_serve (fun _ _ => ?_) ?_)
      | (with_reducible apply kept_ampDiag)

theorem kept_testStep {a0 a1 a2 a3 s} (h4 : Kept q s) : Kept q (testStep a0 a1 a2 a3 s) := by
  unfold testStep
  repeat'
    first
      | (with_reducible assumption)
      | (extract_lets +onlyGivenNames x; refine (fun (hx : Kept q x) => ?_) ?_; (rotate_left; unfold x; clear x; rotate_left); (try clear_value x); revert x; intro y hy)
      | (extract_lets +onlyGivenNames x; (try clear_value x); revert x; intro y)
      | (with_reducible apply kept_setAmp)
      | (with_reducible apply kept_raise)
      | (with_reducible apply kept_setBit)
      | (with_reducible apply kept_testEnd)
      | split

theorem kept_execAmpTestStep {a0 a1 a2 a3 s} (h4 : Kept q s) : KeptR q (execAmpTestStep a0 a1 a2 a3 s) := by
  unfold execAmpTestStep
  refine keptR_next ?_
  repeat'
    first
      | (with_reducible assumption)
      | (with_reducible apply kept_testStep)

theorem kept_ampDiagRead {a0 s} (h1 : Kept q s) : KeptV q (ampDiagRead a0 s) := by
  unfold ampDiagRead
  repeat'
    first
      | (with_reducible assumption)
      | (with_reducible apply keptV_shaped)
      | (with_reducible apply keptV_need)
      | (with_reducible apply keptV_errRep)
      | (with_reducible apply keptV_okRep)
      | split

theorem kept_execAmpDiagRead {a0 s} (h1 : Kept q s) : KeptR q (execAmpDiagRead a0 s) := by
  unfold execAmpDiagRead
  refine keptR_next ?_
  repeat'
    first
      | (with_reducible assumption)
      | (refine kept_serve (fun _ _ => ?_) ?_)
      | (with_reducible apply kept_ampDiagRead)

theorem kept_ampStatus {a0 a1 s} (h2 : Kept q s) : KeptV q (ampStatus a0 a1 s) := by
  unfold ampStatus
  repeat'
    first
      | (with_reducible assumption)
      | (with_reducible apply keptV_shaped)
      | (with_reducible apply keptV_need)
      | (with_reducible apply keptV_okRep)

theorem kept_execAmpStatus {a0 a1 s} (h2 : Kept q s) : KeptR q (execAmpStatus a0 a1 s) := by
  unfold execAmpStatus
  refine keptR_next ?_
  repeat'
    first
      | (with_reducible assumption)
      | (refine kept_serve (fun _ _ => ?_) ?_)
      | (with_reducible apply kept_ampStatus)

/-! ### Graph -/

theorem kept_addRecords {a0 a1 a2 a3 a4 a5 s} (h6 : Kept q s) : KeptV q (addRecords a0 a1 a2 a3 a4 a5 s) := by
  unfold addRecords
  repeat'
    first
      | (extract_lets +onlyGivenNames x; (try clear_value x); revert x; intro y)
      | (with_reducible apply keptV_errRep)
      | (with_reducible apply keptV_okRep)
      | split
      | (with_reducible (refine Kept.mk ?_ ?_ ?_ ?_ ?_ <;> dsimp only <;> first | exact Kept.queue ‹_› | exact Kept.mem ‹_› | exact Kept.regs ‹_› | exact Kept.stalls ‹_› | exact Kept.units ‹_›))

theorem kept_graphNode {a0 s} (h1 : Kept q s) : KeptV q (graphNode a0 s) := by
  unfold graphNode
  repeat'
    first
      | (with_reducible assumption)
      | (with_reducible apply kept_addRecords)

theorem kept_graphEdge {a0 s} (h1 : Kept q s) : KeptV q (graphEdge a0 s) := by
  unfold graphEdge
  repeat'
    first
      | (with_reducible assumption)
      | (with_reducible apply kept_addRecords)

theorem kept_graphSegment {a0 s} (h1 : Kept q s) : KeptV q (graphSegment a0 s) := by
  unfold graphSegment
  repeat'
    first
      | (with_reducible assumption)
      | (with_reducible apply kept_addRecords)

theorem kept_execGraphNode {a0 s} (h1 : Kept q s) : KeptR q (execGraphNode a0 s) := by
  unfold execGraphNode
  refine keptR_next ?_
  repeat'
    first
      | (with_reducible assumption)
      | (refine kept_serve (fun _ _ => ?_) ?_)
      | (with_reducible apply kept_graphNode)

theorem kept_execGraphEdge {a0 s} (h1 : Kept q s) : KeptR q (execGraphEdge a0 s) := by
  unfold execGraphEdge
  refine keptR_next ?_
  repeat'
    first
      | (with_reducible assumption)
      | (refine kept_serve (fun _ _ => ?_) ?_)
      | (with_reducible apply kept_graphEdge)

theorem kept_execGraphSegment {a0 s} (h1 : Kept q s) : KeptR q (execGraphSegment a0 s) := by
  unfold execGraphSegment
  refine keptR_next ?_
  repeat'
    first
      | (with_reducible assumption)
      | (refine kept_serve (fun _ _ => ?_) ?_)
      | (with_reducible apply kept_graphSegment)

theorem kept_graphDelete {a0 s} (h1 : Kept q s) : KeptV q (graphDelete a0 s) := by
  unfold graphDelete
  repeat'
    first
      | (extract_lets +onlyGivenNames x; (try clear_value x); revert x; intro y)
      | (with_reducible apply keptV_errRep)
      | (with_reducible apply keptV_okRep)
      | split
      | (with_reducible (refine Kept.mk ?_ ?_ ?_ ?_ ?_ <;> dsimp only <;> first | exact Kept.queue ‹_› | exact Kept.mem ‹_› | exact Kept.regs ‹_› | exact Kept.stalls ‹_› | exact Kept.units ‹_›))

theorem kept_execGraphDelete {a0 s} (h1 : Kept q s) : KeptR q (execGraphDelete a0 s) := by
  unfold execGraphDelete
  refine keptR_next ?_
  repeat'
    first
      | (with_reducible assumption)
      | (refine kept_serve (fun _ _ => ?_) ?_)
      | (with_reducible apply kept_graphDelete)

theorem kept_graphClear {a0 s} (h1 : Kept q s) : KeptV q (graphClear a0 s) := by
  unfold graphClear
  repeat'
    first
      | (with_reducible apply keptV_shaped)
      | (with_reducible apply keptV_okRep)
      | (with_reducible (refine Kept.mk ?_ ?_ ?_ ?_ ?_ <;> dsimp only <;> first | exact Kept.queue ‹_› | exact Kept.mem ‹_› | exact Kept.regs ‹_› | exact Kept.stalls ‹_› | exact Kept.units ‹_›))

theorem kept_execGraphClear {a0 s} (h1 : Kept q s) : KeptR q (execGraphClear a0 s) := by
  unfold execGraphClear
  refine keptR_next ?_
  repeat'
    first
      | (with_reducible assumption)
      | (refine kept_serve (fun _ _ => ?_) ?_)
      | (with_reducible apply kept_graphClear)

theorem kept_kernelLoad {a0 a1 s} (h2 : Kept q s) : KeptV q (kernelLoad a0 a1 s) := by
  unfold kernelLoad
  repeat'
    first
      | (with_reducible assumption)
      | (with_reducible apply keptV_errRep)
      | (with_reducible apply keptV_okRep)
      | (refine keptV_startJob (fun _ _ _ => ?_) ?_)
      | (with_reducible apply keptV_ok)
      | (with_reducible apply keptV_ite)
      | split
      | (with_reducible (refine Kept.mk ?_ ?_ ?_ ?_ ?_ <;> dsimp only <;> first | exact Kept.queue ‹_› | exact Kept.mem ‹_› | exact Kept.regs ‹_› | exact Kept.stalls ‹_› | exact Kept.units ‹_›))

theorem kept_execKernelLoad {a0 a1 s} (h2 : Kept q s) : KeptR q (execKernelLoad a0 a1 s) := by
  unfold execKernelLoad
  refine keptR_next ?_
  repeat'
    first
      | (with_reducible assumption)
      | (refine kept_serve (fun _ _ => ?_) ?_)
      | (with_reducible apply kept_kernelLoad)

theorem kept_kernelFinish {a0 a1 a2 s} (h3 : Kept q s) : Kept q (kernelFinish a0 a1 a2 s) := by
  unfold kernelFinish
  repeat'
    first
      | (with_reducible assumption)
      | (with_reducible apply kept_endJob)
      | split
      | (with_reducible (refine Kept.mk ?_ ?_ ?_ ?_ ?_ <;> dsimp only <;> first | exact Kept.queue ‹_› | exact Kept.mem ‹_› | exact Kept.regs ‹_› | exact Kept.stalls ‹_› | exact Kept.units ‹_›))

theorem kept_kernelDelete {a0 s} (h1 : Kept q s) : KeptV q (kernelDelete a0 s) := by
  unfold kernelDelete
  repeat'
    first
      | (with_reducible apply keptV_shaped)
      | (with_reducible apply keptV_need)
      | (with_reducible apply keptV_okRep)
      | (with_reducible (refine Kept.mk ?_ ?_ ?_ ?_ ?_ <;> dsimp only <;> first | exact Kept.queue ‹_› | exact Kept.mem ‹_› | exact Kept.regs ‹_› | exact Kept.stalls ‹_› | exact Kept.units ‹_›))

theorem kept_execKernelDelete {a0 s} (h1 : Kept q s) : KeptR q (execKernelDelete a0 s) := by
  unfold execKernelDelete
  refine keptR_next ?_
  repeat'
    first
      | (with_reducible assumption)
      | (refine kept_serve (fun _ _ => ?_) ?_)
      | (with_reducible apply kept_kernelDelete)

/-! ### Param -/

theorem kept_putRamp {a0 s} (h1 : Kept q s) : Kept q (putRamp a0 s) := by
  unfold putRamp
  repeat'
    first
      | (with_reducible (refine Kept.mk ?_ ?_ ?_ ?_ ?_ <;> dsimp only <;> first | exact Kept.queue ‹_› | exact Kept.mem ‹_› | exact Kept.regs ‹_› | exact Kept.stalls ‹_› | exact Kept.units ‹_›))

theorem kept_rampsStart {a0 a1 a2 a3 s} (h4 : Kept q s) : Kept q (rampsStart a0 a1 a2 a3 s) := by
  unfold rampsStart
  repeat'
    first
      | (with_reducible assumption)
      | (with_reducible apply kept_putRamp)
      | (refine kept_forEach (fun _ _ _ => ?_) ?_)
      | split

theorem kept_paramRead {a0 s} (h1 : Kept q s) : KeptV q (paramRead a0 s) := by
  unfold paramRead
  repeat'
    first
      | (with_reducible assumption)
      | (extract_lets +onlyGivenNames x; (try clear_value x); revert x; intro y)
      | (with_reducible apply keptV_shaped)
      | (with_reducible apply keptV_need)
      | (with_reducible apply keptV_errRep)
      | (with_reducible apply keptV_okRep)
      | split

theorem kept_execParamRead {a0 s} (h1 : Kept q s) : KeptR q (execParamRead a0 s) := by
  unfold execParamRead
  refine keptR_next ?_
  repeat'
    first
      | (with_reducible assumption)
      | (refine kept_serve (fun _ _ => ?_) ?_)
      | (with_reducible apply kept_paramRead)

/-! ### Certify -/

theorem kept_planState {a0 s} (h1 : Kept q s) : Kept q (planState a0 s) := by
  unfold planState
  repeat'
    first
      | (with_reducible assumption)
      | (extract_lets +onlyGivenNames x; refine (fun (hx : Kept q x) => ?_) ?_; (rotate_left; unfold x; clear x; rotate_left); (try clear_value x); revert x; intro y hy)
      | (with_reducible apply kept_setRegWord)
      | (with_reducible apply kept_setFld)
      | (refine kept_forEach (fun _ _ _ => ?_) ?_)
      | (with_reducible (refine Kept.mk ?_ ?_ ?_ ?_ ?_ <;> dsimp only <;> first | exact Kept.queue ‹_› | exact Kept.mem ‹_› | exact Kept.regs ‹_› | exact Kept.stalls ‹_› | exact Kept.units ‹_›))

/-! ### Avs -/

theorem kept_avsSend {a0 s} (h1 : Kept q s) : Kept q (avsSend a0 s) := by
  unfold avsSend
  repeat'
    first
      | (with_reducible assumption)
      | split
      | (with_reducible (refine Kept.mk ?_ ?_ ?_ ?_ ?_ <;> dsimp only <;> first | exact Kept.queue ‹_› | exact Kept.mem ‹_› | exact Kept.regs ‹_› | exact Kept.stalls ‹_› | exact Kept.units ‹_›))

theorem kept_avsWindow {s} (h0 : Kept q s) : Kept q (avsWindow s) := by
  unfold avsWindow
  repeat'
    first
      | (with_reducible apply kept_setFld)
      | (with_reducible (refine Kept.mk ?_ ?_ ?_ ?_ ?_ <;> dsimp only <;> first | exact Kept.queue ‹_› | exact Kept.mem ‹_› | exact Kept.regs ‹_› | exact Kept.stalls ‹_› | exact Kept.units ‹_›))

theorem kept_showSetpoint {s} (h0 : Kept q s) : Kept q (showSetpoint s) := by
  unfold showSetpoint
  repeat'
    first
      | (with_reducible assumption)
      | (with_reducible apply kept_setFld)

theorem kept_putSetpoint {a0 s} (h1 : Kept q s) : Kept q (putSetpoint a0 s) := by
  unfold putSetpoint
  repeat'
    first
      | (with_reducible assumption)
      | (with_reducible apply kept_avsSend)
      | (with_reducible apply kept_clrBit)
      | (with_reducible apply kept_avsWindow)
      | (with_reducible apply kept_showSetpoint)
      | (with_reducible apply kept_ite)
      | (with_reducible (refine Kept.mk ?_ ?_ ?_ ?_ ?_ <;> dsimp only <;> first | exact Kept.queue ‹_› | exact Kept.mem ‹_› | exact Kept.regs ‹_› | exact Kept.stalls ‹_› | exact Kept.units ‹_›))

theorem kept_avsFloorOn {s} (h0 : Kept q s) : Kept q (avsFloorOn s) := by
  unfold avsFloorOn
  repeat'
    first
      | (with_reducible assumption)
      | (with_reducible apply kept_setBit)
      | (with_reducible apply kept_putSetpoint)
      | (with_reducible apply kept_ite)

theorem kept_avsRaise {a0 a1 a2 s} (h3 : Kept q s) : Kept q (avsRaise a0 a1 a2 s) := by
  unfold avsRaise
  repeat'
    first
      | (with_reducible assumption)
      | (with_reducible apply kept_raiseAt)
      | (with_reducible apply kept_setBit)
      | (with_reducible apply kept_putSetpoint)
      | (with_reducible apply kept_ite)
      | (with_reducible (refine Kept.mk ?_ ?_ ?_ ?_ ?_ <;> dsimp only <;> first | exact Kept.queue ‹_› | exact Kept.mem ‹_› | exact Kept.regs ‹_› | exact Kept.stalls ‹_› | exact Kept.units ‹_›))

theorem kept_avsLate {a0 s} (h1 : Kept q s) : Kept q (avsLate a0 s) := by
  unfold avsLate
  repeat'
    first
      | (with_reducible assumption)
      | (with_reducible apply kept_avsRaise)
      | (with_reducible apply kept_ite)

theorem kept_avsUp {a0 a1 s} (h2 : Kept q s) : Kept q (avsUp a0 a1 s) := by
  unfold avsUp
  repeat'
    first
      | (with_reducible assumption)
      | (with_reducible apply kept_avsRaise)
      | (with_reducible apply kept_ite)

theorem kept_avsClose {a0 a1 s} (h2 : Kept q s) : Kept q (avsClose a0 a1 s) := by
  unfold avsClose
  repeat'
    first
      | (with_reducible assumption)
      | (extract_lets +onlyGivenNames x; refine (fun (hx : Kept q x) => ?_) ?_; (rotate_left; unfold x; clear x; rotate_left); (try clear_value x); revert x; intro y hy)
      | (with_reducible apply kept_avsWindow)
      | (with_reducible apply kept_avsUp)
      | (with_reducible apply kept_ite)
      | (with_reducible (refine Kept.mk ?_ ?_ ?_ ?_ ?_ <;> dsimp only <;> first | exact Kept.queue ‹_› | exact Kept.mem ‹_› | exact Kept.regs ‹_› | exact Kept.stalls ‹_› | exact Kept.units ‹_›))

theorem kept_avsWindowEnd {s} (h0 : Kept q s) : Kept q (avsWindowEnd s) := by
  unfold avsWindowEnd
  repeat'
    first
      | (with_reducible assumption)
      | (with_reducible apply kept_avsWindow)
      | (with_reducible apply kept_putSetpoint)
      | (with_reducible apply kept_ite)

theorem kept_execAvsWindowEnd {s} (h0 : Kept q s) : KeptR q (execAvsWindowEnd s) := by
  unfold execAvsWindowEnd
  refine keptR_next ?_
  repeat'
    first
      | (with_reducible assumption)
      | (with_reducible apply kept_avsWindowEnd)

theorem kept_avsStart {s} (h0 : Kept q s) : Kept q (avsStart s) := by
  unfold avsStart
  repeat'
    first
      | (with_reducible assumption)
      | (with_reducible apply kept_avsWindow)
      | (with_reducible apply kept_putSetpoint)

theorem kept_avsLimits {s} (h0 : Kept q s) : Kept q (avsLimits s) := by
  unfold avsLimits
  repeat'
    first
      | (with_reducible assumption)
      | (with_reducible apply kept_putSetpoint)
      | (with_reducible apply kept_ite)

theorem kept_avsRest {s} (h0 : Kept q s) : Kept q (avsRest s) := by
  unfold avsRest
  repeat'
    first
      | (with_reducible assumption)
      | (with_reducible apply kept_putSetpoint)

theorem kept_avsFollow {s} (h0 : Kept q s) : Kept q (avsFollow s) := by
  unfold avsFollow
  repeat'
    first
      | (with_reducible (refine Kept.mk ?_ ?_ ?_ ?_ ?_ <;> dsimp only <;> first | exact Kept.queue ‹_› | exact Kept.mem ‹_› | exact Kept.regs ‹_› | exact Kept.stalls ‹_› | exact Kept.units ‹_›))

theorem kept_avsPmbus {a0 s} (h1 : Kept q s) : Kept q (avsPmbus a0 s) := by
  unfold avsPmbus
  repeat'
    first
      | (with_reducible assumption)
      | (extract_lets +onlyGivenNames x; refine (fun (hx : Kept q x) => ?_) ?_; (rotate_left; unfold x; clear x; rotate_left); (try clear_value x); revert x; intro y hy)
      | (with_reducible apply kept_avsFollow)
      | (with_reducible apply kept_setFld)
      | (with_reducible apply kept_clrBit)
      | (with_reducible apply kept_setBit)
      | (with_reducible apply kept_avsWindow)
      | (with_reducible apply kept_showSetpoint)
      | split
      | (with_reducible (refine Kept.mk ?_ ?_ ?_ ?_ ?_ <;> dsimp only <;> first | exact Kept.queue ‹_› | exact Kept.mem ‹_› | exact Kept.regs ‹_› | exact Kept.stalls ‹_› | exact Kept.units ‹_›))

theorem kept_execAvsPmbusWrite {a0 s} (h1 : Kept q s) : KeptR q (execAvsPmbusWrite a0 s) := by
  unfold execAvsPmbusWrite
  refine keptR_next ?_
  repeat'
    first
      | (with_reducible assumption)
      | (with_reducible apply kept_avsPmbus)

theorem kept_vcoreMeas {a0 s} (h1 : Kept q s) : Kept q (vcoreMeas a0 s) := by
  unfold vcoreMeas
  repeat'
    first
      | (with_reducible assumption)
      | (with_reducible apply kept_setFld)
      | (with_reducible apply kept_setBit)
      | (with_reducible apply kept_ite)

/-! ### Brew -/

theorem kept_setBrew {a0 a1 s} (h2 : Kept q s) : Kept q (setBrew a0 a1 s) := by
  unfold setBrew
  repeat'
    first
      | (with_reducible (refine Kept.mk ?_ ?_ ?_ ?_ ?_ <;> dsimp only <;> first | exact Kept.queue ‹_› | exact Kept.mem ‹_› | exact Kept.regs ‹_› | exact Kept.stalls ‹_› | exact Kept.units ‹_›))

theorem kept_sendTo {a0 a1 s} (h2 : Kept q s) : Kept q (sendTo a0 a1 s) := by
  unfold sendTo
  repeat'
    first
      | (with_reducible assumption)
      | (with_reducible apply kept_queuePacket)

theorem kept_ownSend {a0 a1 a2 a3 s} (h4 : Kept q s) : Kept q (ownSend a0 a1 a2 a3 s) := by
  unfold ownSend
  repeat'
    first
      | (with_reducible apply kept_sendTo)
      | (with_reducible (refine Kept.mk ?_ ?_ ?_ ?_ ?_ <;> dsimp only <;> first | exact Kept.queue ‹_› | exact Kept.mem ‹_› | exact Kept.regs ‹_› | exact Kept.stalls ‹_› | exact Kept.units ‹_›))

theorem kept_sendOwn {a0 a1 a2 s} (h3 : Kept q s) : Kept q (sendOwn a0 a1 a2 s) := by
  unfold sendOwn
  repeat'
    first
      | (with_reducible assumption)
      | (with_reducible apply kept_ownSend)
      | split
      | (with_reducible (refine Kept.mk ?_ ?_ ?_ ?_ ?_ <;> dsimp only <;> first | exact Kept.queue ‹_› | exact Kept.mem ‹_› | exact Kept.regs ‹_› | exact Kept.stalls ‹_› | exact Kept.units ‹_›))

theorem kept_openOwn {a0 s} (h1 : Kept q s) : Kept q (openOwn a0 s) := by
  unfold openOwn
  repeat'
    first
      | (with_reducible assumption)
      | (with_reducible apply kept_ownSend)
      | (with_reducible apply kept_ite)
      | (with_reducible (refine Kept.mk ?_ ?_ ?_ ?_ ?_ <;> dsimp only <;> first | exact Kept.queue ‹_› | exact Kept.mem ‹_› | exact Kept.regs ‹_› | exact Kept.stalls ‹_› | exact Kept.units ‹_›))

theorem kept_ownOpened {a0 s} (h1 : Kept q s) : Kept q (ownOpened a0 s) := by
  unfold ownOpened
  repeat'
    first
      | (with_reducible assumption)
      | (with_reducible apply kept_sendOwn)
      | (refine kept_forEach (fun _ _ _ => ?_) ?_)
      | split
      | (with_reducible (refine Kept.mk ?_ ?_ ?_ ?_ ?_ <;> dsimp only <;> first | exact Kept.queue ‹_› | exact Kept.mem ‹_› | exact Kept.regs ‹_› | exact Kept.stalls ‹_› | exact Kept.units ‹_›))

theorem kept_sendTap {a0 a1 a2 a3 a4 a5 a6 s} (h7 : Kept q s) : Kept q (sendTap a0 a1 a2 a3 a4 a5 a6 s) := by
  unfold sendTap
  repeat'
    first
      | (with_reducible assumption)
      | (with_reducible apply kept_sendOwn)

theorem kept_workingPut {s a1} (h0 : Kept q s) : Kept q (workingPut s a1) := by
  unfold workingPut
  repeat'
    first
      | (with_reducible assumption)
      | split
      | (with_reducible (refine Kept.mk ?_ ?_ ?_ ?_ ?_ <;> dsimp only <;> first | exact Kept.queue ‹_› | exact Kept.mem ‹_› | exact Kept.regs ‹_› | exact Kept.stalls ‹_› | exact Kept.units ‹_›))

theorem kept_logItems {a0 a1 s} (h2 : Kept q s) : Kept q (logItems a0 a1 s) := by
  unfold logItems
  repeat'
    first
      | (with_reducible assumption)
      | (with_reducible apply kept_workingPut)
      | (with_reducible apply kept_setBrew)
      | (refine kept_foldl (fun _ _ _ => ?_) ?_)

theorem kept_brewOpen {a0 a1 s} (h2 : Kept q s) : KeptV q (brewOpen a0 a1 s) := by
  unfold brewOpen
  repeat'
    first
      | (with_reducible assumption)
      | (with_reducible apply keptV_shaped)
      | (with_reducible apply keptV_need)
      | (with_reducible apply keptV_errRep)
      | (with_reducible apply keptV_okRep)
      | (with_reducible apply kept_setBrew)
      | split

theorem kept_execBrewOpen {a0 a1 s} (h2 : Kept q s) : KeptR q (execBrewOpen a0 a1 s) := by
  unfold execBrewOpen
  refine keptR_next ?_
  repeat'
    first
      | (with_reducible assumption)
      | (refine kept_serve (fun _ _ => ?_) ?_)
      | (with_reducible apply kept_brewOpen)

theorem kept_brewWrite {a0 s} (h1 : Kept q s) : KeptV q (brewWrite a0 s) := by
  unfold brewWrite
  repeat'
    first
      | (with_reducible assumption)
      | (extract_lets +onlyGivenNames x; refine (fun (hx : Kept q x) => ?_) ?_; (rotate_left; unfold x; clear x; rotate_left); (try clear_value x); revert x; intro y hy)
      | (extract_lets +onlyGivenNames x; (try clear_value x); revert x; intro y)
      | (with_reducible apply keptV_errRep)
      | (with_reducible apply kept_logItems)
      | (with_reducible apply keptV_okRep)
      | split

theorem kept_execBrewWrite {a0 s} (h1 : Kept q s) : KeptR q (execBrewWrite a0 s) := by
  unfold execBrewWrite
  refine keptR_next ?_
  repeat'
    first
      | (with_reducible assumption)
      | (refine kept_serve (fun _ _ => ?_) ?_)
      | (with_reducible apply kept_brewWrite)

theorem kept_brewStatus {a0 s} (h1 : Kept q s) : KeptV q (brewStatus a0 s) := by
  unfold brewStatus
  repeat'
    first
      | (with_reducible assumption)
      | (with_reducible apply keptV_shaped)
      | (with_reducible apply keptV_need)
      | (with_reducible apply keptV_okRep)

theorem kept_execBrewStatus {a0 s} (h1 : Kept q s) : KeptR q (execBrewStatus a0 s) := by
  unfold execBrewStatus
  refine keptR_next ?_
  repeat'
    first
      | (with_reducible assumption)
      | (refine kept_serve (fun _ _ => ?_) ?_)
      | (with_reducible apply kept_brewStatus)

theorem kept_fillBursts {n} : ∀ {a bs s}, Kept q s → Kept q (fillBursts n a bs s) := by
  induction n with
  | zero => intro a bs s h; unfold fillBursts; exact h
  | succ n ih =>
    intro a bs s h
    cases bs with
    | nil => exact h
    | cons b t => exact ih (kept_xbWrite h)

theorem kept_fillMemory {a0 a1 s} (h2 : Kept q s) : Kept q (fillMemory a0 a1 s) := by
  unfold fillMemory
  repeat'
    first
      | (with_reducible assumption)
      | (with_reducible apply kept_fillBursts)

theorem kept_resyncWindow {a0 s} (h1 : Kept q s) : Kept q (resyncWindow a0 s) := by
  unfold resyncWindow
  repeat'
    first
      | (with_reducible assumption)
      | (with_reducible apply kept_fillMemory)

theorem kept_dropStaged {a0 s} (h1 : Kept q s) : Kept q (dropStaged a0 s) := by
  unfold dropStaged
  repeat'
    first
      | (with_reducible assumption)
      | (with_reducible apply kept_resyncWindow)
      | split
      | (with_reducible (refine Kept.mk ?_ ?_ ?_ ?_ ?_ <;> dsimp only <;> first | exact Kept.queue ‹_› | exact Kept.mem ‹_› | exact Kept.regs ‹_› | exact Kept.stalls ‹_› | exact Kept.units ‹_›))

theorem kept_applyItem {a0 a1 a2 s} (h3 : Kept q s) : Kept q (applyItem a0 a1 a2 s) := by
  unfold applyItem
  repeat'
    first
      | (with_reducible assumption)
      | (with_reducible apply kept_fillMemory)
      | (refine kept_forEach (fun _ _ _ => ?_) ?_)
      | split
      | (with_reducible (refine Kept.mk ?_ ?_ ?_ ?_ ?_ <;> dsimp only <;> first | exact Kept.queue ‹_› | exact Kept.mem ‹_› | exact Kept.regs ‹_› | exact Kept.stalls ‹_› | exact Kept.units ‹_›))

theorem kept_writePageOut {a0 s} (h1 : Kept q s) : Kept q (writePageOut a0 s) := by
  unfold writePageOut
  repeat'
    first
      | (with_reducible assumption)
      | (extract_lets +onlyGivenNames x; refine (fun (hx : Kept q x) => ?_) ?_; (rotate_left; unfold x; clear x; rotate_left); (try clear_value x); revert x; intro y hy)
      | (extract_lets +onlyGivenNames x; (try clear_value x); revert x; intro y)
      | (with_reducible apply kept_setPages)
      | (with_reducible apply kept_fillMemory)
      | (with_reducible (refine Kept.mk ?_ ?_ ?_ ?_ ?_ <;> dsimp only <;> first | exact Kept.queue ‹_› | exact Kept.mem ‹_› | exact Kept.regs ‹_› | exact Kept.stalls ‹_› | exact Kept.units ‹_›))

theorem kept_writeOut {a0 s} (h1 : Kept q s) : Kept q (writeOut a0 s) := by
  unfold writeOut
  repeat'
    first
      | (with_reducible assumption)
      | (extract_lets +onlyGivenNames x; refine (fun (hx : Kept q x) => ?_) ?_; (rotate_left; unfold x; clear x; rotate_left); (try clear_value x); revert x; intro y hy)
      | (extract_lets +onlyGivenNames x; (try clear_value x); revert x; intro y)
      | (with_reducible apply kept_writePageOut)
      | (with_reducible apply kept_fillMemory)
      | (refine kept_forEach (fun _ _ _ => ?_) ?_)
      | (with_reducible (refine Kept.mk ?_ ?_ ?_ ?_ ?_ <;> dsimp only <;> first | exact Kept.queue ‹_› | exact Kept.mem ‹_› | exact Kept.regs ‹_› | exact Kept.stalls ‹_› | exact Kept.units ‹_›))

theorem kept_writeWindows {a0 a1 a2 s} (h3 : Kept q s) : Kept q (writeWindows a0 a1 a2 s) := by
  unfold writeWindows
  repeat'
    first
      | (with_reducible assumption)
      | (with_reducible apply kept_fillMemory)
      | (refine kept_forEach (fun _ _ _ => ?_) ?_)
      | split

theorem kept_bakeBegin {a0 s} (h1 : Kept q s) : Kept q (bakeBegin a0 s) := by
  unfold bakeBegin
  repeat'
    first
      | (with_reducible assumption)
      | (extract_lets +onlyGivenNames x; refine (fun (hx : Kept q x) => ?_) ?_; (rotate_left; unfold x; clear x; rotate_left); (try clear_value x); revert x; intro y hy)
      | (extract_lets +onlyGivenNames x; (try clear_value x); revert x; intro y)
      | (with_reducible apply kept_setBrew)
      | (with_reducible apply kept_resyncWindow)
      | (with_reducible apply kept_writeWindows)
      | (with_reducible apply kept_writeOut)
      | (with_reducible apply kept_applyItem)
      | (refine kept_forEach (fun _ _ _ => ?_) ?_)
      | split
      | (with_reducible (refine Kept.mk ?_ ?_ ?_ ?_ ?_ <;> dsimp only <;> first | exact Kept.queue ‹_› | exact Kept.mem ‹_› | exact Kept.regs ‹_› | exact Kept.stalls ‹_› | exact Kept.units ‹_›))

theorem kept_brewReopen {a0 s} (h1 : Kept q s) : Kept q (brewReopen a0 s) := by
  unfold brewReopen
  repeat'
    first
      | (with_reducible assumption)
      | (with_reducible apply kept_dropStaged)
      | (with_reducible apply kept_setBrew)
      | (refine kept_forEach (fun _ _ _ => ?_) ?_)
      | (with_reducible apply kept_ite)

theorem kept_bakeLate {a0 s} (h1 : Kept q s) : Kept q (bakeLate a0 s) := by
  unfold bakeLate
  repeat'
    first
      | (with_reducible assumption)
      | (extract_lets +onlyGivenNames x; refine (fun (hx : Kept q x) => ?_) ?_; (rotate_left; unfold x; clear x; rotate_left); (try clear_value x); revert x; intro y hy)
      | (with_reducible apply kept_brewReopen)
      | (with_reducible apply kept_sendTap)
      | split
      | (with_reducible (refine Kept.mk ?_ ?_ ?_ ?_ ?_ <;> dsimp only <;> first | exact Kept.queue ‹_› | exact Kept.mem ‹_› | exact Kept.regs ‹_› | exact Kept.stalls ‹_› | exact Kept.units ‹_›))

theorem kept_bakeEnd {a0 s} (h1 : Kept q s) : Kept q (bakeEnd a0 s) := by
  unfold bakeEnd
  repeat'
    first
      | (with_reducible assumption)
      | (extract_lets +onlyGivenNames x; refine (fun (hx : Kept q x) => ?_) ?_; (rotate_left; unfold x; clear x; rotate_left); (try clear_value x); revert x; intro y hy)
      | (extract_lets +onlyGivenNames x; (try clear_value x); revert x; intro y)
      | (with_reducible apply kept_bakeLate)
      | (with_reducible apply kept_setBrew)
      | (with_reducible apply kept_avsFloorOn)
      | (with_reducible apply kept_sendTap)
      | split

theorem kept_bakeError {a0 a1 s} (h2 : Kept q s) : Kept q (bakeError a0 a1 s) := by
  unfold bakeError
  repeat'
    first
      | (with_reducible assumption)
      | (extract_lets +onlyGivenNames x; refine (fun (hx : Kept q x) => ?_) ?_; (rotate_left; unfold x; clear x; rotate_left); (try clear_value x); revert x; intro y hy)
      | (extract_lets +onlyGivenNames x; (try clear_value x); revert x; intro y)
      | (with_reducible apply kept_recordUe)
      | (with_reducible apply kept_endJob)
      | (with_reducible apply kept_brewReopen)
      | (with_reducible apply kept_bakeLate)
      | split

theorem kept_bakeStep {a0 a1 s} (h2 : Kept q s) : Kept q (bakeStep a0 a1 s) := by
  unfold bakeStep
  repeat'
    first
      | (with_reducible assumption)
      | (extract_lets +onlyGivenNames x; refine (fun (hx : Kept q x) => ?_) ?_; (rotate_left; unfold x; clear x; rotate_left); (try clear_value x); revert x; intro y hy)
      | (extract_lets +onlyGivenNames x; (try clear_value x); revert x; intro y)
      | (with_reducible apply kept_bakeBegin)
      | (with_reducible apply kept_bakeError)
      | (with_reducible apply kept_applyItem)
      | (with_reducible apply kept_setBrew)
      | (with_reducible apply kept_setJob)
      | (with_reducible apply kept_bakeEnd)
      | (refine kept_forEach (fun _ _ _ => ?_) ?_)
      | split

theorem kept_floorTail {s} (h0 : Kept q s) : Kept q (floorTail s) := by
  unfold floorTail
  repeat'
    first
      | (with_reducible (refine Kept.mk ?_ ?_ ?_ ?_ ?_ <;> dsimp only <;> first | exact Kept.queue ‹_› | exact Kept.mem ‹_› | exact Kept.regs ‹_› | exact Kept.stalls ‹_› | exact Kept.units ‹_›))

theorem kept_putResult {a0 s} (h1 : Kept q s) : Kept q (putResult a0 s) := by
  unfold putResult
  repeat'
    first
      | (with_reducible (refine Kept.mk ?_ ?_ ?_ ?_ ?_ <;> dsimp only <;> first | exact Kept.queue ‹_› | exact Kept.mem ‹_› | exact Kept.regs ‹_› | exact Kept.stalls ‹_› | exact Kept.units ‹_›))

theorem kept_membersWithdraw {a0 s} (h1 : Kept q s) : Kept q (membersWithdraw a0 s) := by
  unfold membersWithdraw
  repeat'
    first
      | (with_reducible assumption)
      | (with_reducible apply kept_sendOwn)
      | (refine kept_forEach (fun _ _ _ => ?_) ?_)

theorem kept_withdrawOut {a0 s} (h1 : Kept q s) : Kept q (withdrawOut a0 s) := by
  unfold withdrawOut
  repeat'
    first
      | (with_reducible assumption)
      | (with_reducible apply kept_setBrew)

theorem kept_brewSpill {a0 s} (h1 : Kept q s) : Kept q (brewSpill a0 s) := by
  unfold brewSpill
  repeat'
    first
      | (with_reducible assumption)
      | (extract_lets +onlyGivenNames x; refine (fun (hx : Kept q x) => ?_) ?_; (rotate_left; unfold x; clear x; rotate_left); (try clear_value x); revert x; intro y hy)
      | (extract_lets +onlyGivenNames x; (try clear_value x); revert x; intro y)
      | (with_reducible apply kept_floorTail)
      | (with_reducible apply kept_membersWithdraw)
      | (with_reducible apply kept_putResult)
      | (with_reducible apply kept_endJob)
      | (with_reducible apply kept_withdrawOut)
      | (with_reducible apply kept_setBrew)
      | (refine kept_forEach (fun _ _ _ => ?_) ?_)
      | split

theorem kept_spillAll {s} (h0 : Kept q s) : Kept q (spillAll s) := by
  unfold spillAll
  repeat'
    first
      | (with_reducible assumption)
      | (with_reducible apply kept_brewSpill)
      | (refine kept_forEach (fun _ _ _ => ?_) ?_)

theorem kept_setGroup {a0 s} (h1 : Kept q s) : Kept q (setGroup a0 s) := by
  unfold setGroup
  repeat'
    first
      | (with_reducible (refine Kept.mk ?_ ?_ ?_ ?_ ?_ <;> dsimp only <;> first | exact Kept.queue ‹_› | exact Kept.mem ‹_› | exact Kept.regs ‹_› | exact Kept.stalls ‹_› | exact Kept.units ‹_›))

theorem kept_decideAbort {a0 a1 s} (h2 : Kept q s) : Kept q (decideAbort a0 a1 s) := by
  unfold decideAbort
  repeat'
    first
      | (with_reducible assumption)
      | (with_reducible apply kept_setGroup)
      | (with_reducible apply kept_setBit)
      | (with_reducible apply kept_endJob)
      | (with_reducible apply kept_brewReopen)
      | (with_reducible apply kept_setBrew)
      | (with_reducible apply kept_sendTap)
      | (refine kept_forEach (fun _ _ _ => ?_) ?_)
      | (with_reducible apply kept_ite)

theorem kept_brewSpillCmd {a0 s} (h1 : Kept q s) : KeptV q (brewSpillCmd a0 s) := by
  unfold brewSpillCmd
  repeat'
    first
      | (with_reducible assumption)
      | (with_reducible apply keptV_shaped)
      | (with_reducible apply keptV_need)
      | (with_reducible apply keptV_okRep)
      | (with_reducible apply kept_decideAbort)
      | (with_reducible apply kept_brewSpill)
      | (with_reducible apply keptV_errRep)
      | (with_reducible apply keptV_error)
      | split

theorem kept_execBrewSpill {a0 s} (h1 : Kept q s) : KeptR q (execBrewSpill a0 s) := by
  unfold execBrewSpill
  refine keptR_next ?_
  repeat'
    first
      | (with_reducible assumption)
      | (refine kept_serve (fun _ _ => ?_) ?_)
      | (with_reducible apply kept_brewSpillCmd)

theorem kept_brewResync {a0 s} (h1 : Kept q s) : Kept q (brewResync a0 s) := by
  unfold brewResync
  repeat'
    first
      | (with_reducible assumption)
      | (with_reducible apply kept_dropStaged)
      | (with_reducible apply kept_moveToken)
      | (with_reducible apply kept_setBrew)
      | (refine kept_forEach (fun _ _ _ => ?_) ?_)
      | (with_reducible apply kept_ite)

theorem kept_foldWrite {x s h t} (e : foldWrite x s = some (h, t)) (hs : Kept q s) : Kept q t := by
  unfold foldWrite at e
  split at e
  · cases e
  · dsimp only at e
    split at e
    · cases e
    · split at e
      · cases e
      · cases e
        refine kept_applyItem (kept_setBrew (kept_forEach (fun k s hk => ?_) hs))
        split
        · exact kept_resyncWindow hk
        · exact hk

theorem kept_directOne {a b x s} (h : Kept q s) : Kept q (directOne a b x s).1 := by
  unfold directOne
  split
  · exact h
  · split
    · exact ⟨h.queue, h.mem, h.regs, h.stalls, h.units⟩
    · exact kept_foldWrite ‹_› h

theorem kept_foldWaiting {d s} (h : Kept q s) : Kept q (foldWaiting d s) := by
  unfold foldWaiting
  split
  · exact ⟨h.queue, h.mem, h.regs, h.stalls, h.units⟩
  · exact kept_setBrew (kept_foldWrite ‹_› h)

theorem kept_foldDirect {s} (h : Kept q s) : Kept q (foldDirect s) := by
  unfold foldDirect
  extract_lets b p
  split
  · exact h
  · have hp : Kept q p.2 := by
      unfold p
      generalize b.log = l
      suffices H : ∀ (l : List BrewItem) (p : List BrewItem × State), Kept q p.2 → Kept q (l.foldl (fun (q : List BrewItem × State) x =>
          match foldWrite x q.2 with
          | none => (q.1 ++ [x], q.2)
          | some (h, s) => (q.1, setBrew h { brewOf s h with notify := ((brewOf s h).notify ++ b.notify).eraseDups } s)) p).2 from H l ([], s) h
      intro l
      induction l with
      | nil => exact fun _ h => h
      | cons x l ih =>
        intro p h
        refine ih _ ?_
        dsimp only
        generalize e : foldWrite x p.2 = o
        match o, e with
        | none, _ => exact h
        | some (k, t), e => exact kept_setBrew (kept_foldWrite e h)
    clear_value p
    split
    · exact kept_setBrew hp
    · exact kept_setBrew hp

theorem kept_directStart {s} (h0 : Kept q s) : Kept q (directStart s) := by
  unfold directStart
  repeat'
    first
      | (with_reducible assumption)
      | (extract_lets +onlyGivenNames x; refine (fun (hx : Kept q x) => ?_) ?_; (rotate_left; unfold x; clear x; rotate_left); (try clear_value x); revert x; intro y hy)
      | (with_reducible apply kept_foldDirect)
      | (with_reducible apply kept_foldWaiting)
      | (with_reducible apply kept_setBrew)
      | (refine kept_forEach (fun _ _ _ => ?_) ?_)
      | (with_reducible apply kept_ite)
      | (with_reducible (refine Kept.mk ?_ ?_ ?_ ?_ ?_ <;> dsimp only <;> first | exact Kept.queue ‹_› | exact Kept.mem ‹_› | exact Kept.regs ‹_› | exact Kept.stalls ‹_› | exact Kept.units ‹_›))

theorem kept_directWrites {r xs b s} (h : Kept q s) : Kept q (directWrites r xs b s).1 := by
  unfold directWrites
  extract_lets s1 go s2 s3 bb own frames
  have h1 : Kept q s1 := kept_foldl (fun _ _ h => kept_workingPut h) h
  have h2 : Kept q s2 := kept_directStart (kept_foldlPair (fun _ _ h => kept_directOne h) h1)
  have h3 : Kept q s3 := kept_ite (kept_bakeStep h2) h2
  clear_value s3 frames
  split
  · exact kept_setBrew h3
  · exact h3
  · exact h3

theorem kept_paramWrite {a0 a1 s} (h2 : Kept q s) : KeptV q (paramWrite a0 a1 s) := by
  unfold paramWrite
  repeat'
    first
      | (with_reducible assumption)
      | (extract_lets +onlyGivenNames x; refine (fun (hx : Kept q x.1) => ?_) ?_; (rotate_left; unfold x; clear x; rotate_left); (try clear_value x); revert x; intro y hy)
      | (extract_lets +onlyGivenNames x; (try clear_value x); revert x; intro y)
      | (with_reducible apply keptV_errRep)
      | (with_reducible apply kept_directWrites)
      | (with_reducible apply keptV_okRep)
      | (with_reducible apply kept_logItems)
      | split

theorem kept_execParamWrite {a0 a1 s} (h2 : Kept q s) : KeptR q (execParamWrite a0 a1 s) := by
  unfold execParamWrite
  refine keptR_next ?_
  repeat'
    first
      | (with_reducible assumption)
      | (refine kept_serve (fun _ _ => ?_) ?_)
      | (with_reducible apply kept_paramWrite)

theorem kept_sceneJob {a0 a1 a2 a3 a4 s} (h5 : Kept q s) : KeptV q (sceneJob a0 a1 a2 a3 a4 s) := by
  unfold sceneJob
  repeat'
    first
      | (with_reducible assumption)
      | (with_reducible apply keptV_shaped)
      | (with_reducible apply keptV_need)
      | (with_reducible apply keptV_errRep)
      | (refine keptV_startJob (fun _ _ _ => ?_) ?_)
      | (with_reducible apply kept_setBrew)
      | (with_reducible apply kept_ite)
      | (with_reducible apply keptV_ite)

theorem kept_execBrewLoad {a0 a1 s} (h2 : Kept q s) : KeptR q (execBrewLoad a0 a1 s) := by
  unfold execBrewLoad
  refine keptR_next ?_
  repeat'
    first
      | (with_reducible assumption)
      | (refine kept_serve (fun _ _ => ?_) ?_)
      | (with_reducible apply kept_sceneJob)

theorem kept_execBrewStore {a0 a1 s} (h2 : Kept q s) : KeptR q (execBrewStore a0 a1 s) := by
  unfold execBrewStore
  refine keptR_next ?_
  repeat'
    first
      | (with_reducible assumption)
      | (refine kept_serve (fun _ _ => ?_) ?_)
      | (with_reducible apply kept_sceneJob)

theorem kept_loadFinish {a0 a1 a2 s} (h3 : Kept q s) : Kept q (loadFinish a0 a1 a2 s) := by
  unfold loadFinish
  repeat'
    first
      | (with_reducible assumption)
      | (extract_lets +onlyGivenNames x; refine (fun (hx : Kept q x) => ?_) ?_; (rotate_left; unfold x; clear x; rotate_left); (try clear_value x); revert x; intro y hy)
      | (extract_lets +onlyGivenNames x; refine (fun (hx : ∀ a, Kept q (x a)) => ?_) ?_; (rotate_left; unfold x; clear x; intro _; rotate_left); (try clear_value x); revert x; intro y hy)
      | (extract_lets +onlyGivenNames x; (try clear_value x); revert x; intro y)
      | (with_reducible apply hy)
      | (with_reducible apply kept_endJob)
      | (with_reducible apply kept_xbReadEffect)
      | (with_reducible apply kept_logItems)
      | (with_reducible apply kept_setBrew)
      | split

theorem kept_storeFinish {a0 a1 a2 a3 s} (h4 : Kept q s) : Kept q (storeFinish a0 a1 a2 a3 s) := by
  unfold storeFinish
  repeat'
    first
      | (with_reducible assumption)
      | (with_reducible apply kept_endJob)
      | (with_reducible apply kept_xbWrite)
      | (with_reducible apply kept_ite)

end Sys2Proof.Machine
end

