-- ==== Sys2Proof/Laws/Kept4.lean ====
section
/-! SUPPORT. The operations of Machine/ TapGroups, Compile, Herd, Time keep the queue and the canonical form. -/

namespace Sys2Proof.Machine

variable {q : List Instr}

/-! ### TapGroups -/

theorem kept_tapLocal {a0 a1 a2 a3 s} (h4 : Kept q s) : Kept q (tapLocal a0 a1 a2 a3 s) := by
  unfold tapLocal
  repeat'
    first
      | (with_reducible assumption)
      | (with_reducible apply kept_setBrew)

theorem kept_tapGroup {a0 a1 a2 a3 s} (h4 : Kept q s) : Kept q (tapGroup a0 a1 a2 a3 s) := by
  unfold tapGroup
  repeat'
    first
      | (with_reducible assumption)
      | (with_reducible apply kept_setBrew)
      | (with_reducible apply kept_sendOwn)
      | (refine kept_forEach (fun _ _ _ => ?_) ?_)
      | (with_reducible (refine Kept.mk ?_ ?_ ?_ ?_ ?_ <;> dsimp only <;> first | exact Kept.queue ‹_› | exact Kept.mem ‹_› | exact Kept.regs ‹_› | exact Kept.stalls ‹_› | exact Kept.units ‹_›))

theorem kept_brewTap {a0 a1 s} (h2 : Kept q s) : KeptV q (brewTap a0 a1 s) := by
  unfold brewTap
  repeat'
    first
      | (with_reducible assumption)
      | (extract_lets +onlyGivenNames x; (try clear_value x); revert x; intro y)
      | (with_reducible apply keptV_errRep)
      | (refine keptV_startJob (fun _ _ _ => ?_) ?_)
      | (with_reducible apply kept_tapLocal)
      | (with_reducible apply kept_tapGroup)
      | split

theorem kept_execBrewTap {a0 a1 s} (h2 : Kept q s) : KeptR q (execBrewTap a0 a1 s) := by
  unfold execBrewTap
  refine keptR_next ?_
  repeat'
    first
      | (with_reducible assumption)
      | (refine kept_serve (fun _ _ => ?_) ?_)
      | (with_reducible apply kept_brewTap)

theorem kept_noteDone {a0 a1 a2 a3 s} (h4 : Kept q s) : Kept q (noteDone a0 a1 a2 a3 s) := by
  unfold noteDone
  repeat'
    first
      | (with_reducible assumption)
      | (with_reducible apply kept_setGroup)
      | split

theorem kept_closeGroup {a0 s} (h1 : Kept q s) : Kept q (closeGroup a0 s) := by
  unfold closeGroup
  repeat'
    first
      | (with_reducible assumption)
      | (extract_lets +onlyGivenNames x; refine (fun (hx : Kept q x) => ?_) ?_; (rotate_left; unfold x; clear x; rotate_left); (try clear_value x); revert x; intro y hy)
      | (extract_lets +onlyGivenNames x; (try clear_value x); revert x; intro y)
      | (with_reducible apply kept_setGroup)
      | (with_reducible apply kept_raise)
      | (with_reducible apply kept_countFld)
      | (with_reducible apply kept_setBit)
      | (with_reducible apply kept_endJob)
      | split

theorem kept_closeIfDone {a0 s} (h1 : Kept q s) : Kept q (closeIfDone a0 s) := by
  unfold closeIfDone
  repeat'
    first
      | (with_reducible assumption)
      | (with_reducible apply kept_closeGroup)
      | split

theorem kept_reportDone {a0 a1 a2 a3 s} (h4 : Kept q s) : Kept q (reportDone a0 a1 a2 a3 s) := by
  unfold reportDone
  repeat'
    first
      | (with_reducible assumption)
      | (with_reducible apply kept_closeIfDone)
      | (with_reducible apply kept_noteDone)
      | (with_reducible apply kept_sendTap)
      | (with_reducible apply kept_ite)

theorem kept_know {a0 a1 a2 s} (h3 : Kept q s) : Kept q (know a0 a1 a2 s) := by
  unfold know
  repeat'
    first
      | (with_reducible assumption)
      | (with_reducible apply kept_ite)
      | (with_reducible (refine Kept.mk ?_ ?_ ?_ ?_ ?_ <;> dsimp only <;> first | exact Kept.queue ‹_› | exact Kept.mem ‹_› | exact Kept.regs ‹_› | exact Kept.stalls ‹_› | exact Kept.units ‹_›))

theorem kept_partOpen {a0 a1 a2 s} (h3 : Kept q s) : Kept q (partOpen a0 a1 a2 s) := by
  unfold partOpen
  repeat'
    first
      | (with_reducible assumption)
      | (with_reducible apply kept_reportDone)
      | (with_reducible apply kept_brewReopen)

theorem kept_serveTap {k l r s} {f : State → Service} (hf : ∀ s, Kept q s → KeptV q (f s)) (h : Kept q s) : Kept q (serveTap k l r f s) := by
  unfold serveTap
  split
  · exact h
  · exact kept_serve (fun s hs => keptV_ite keptV_errRep (keptV_ite keptV_errRep (keptV_ite keptV_errRep (hf s hs)))) h

theorem kept_refusePrepare {a0 a1 a2 s} (h3 : Kept q s) : Kept q (refusePrepare a0 a1 a2 s) := by
  unfold refusePrepare
  repeat'
    first
      | (with_reducible assumption)
      | (with_reducible apply kept_sendTap)

theorem kept_prepare {a0 s} (h1 : Kept q s) : KeptV q (prepare a0 s) := by
  unfold prepare
  repeat'
    first
      | (with_reducible assumption)
      | (extract_lets +onlyGivenNames x; (try clear_value x); revert x; intro y)
      | (with_reducible apply keptV_okRep)
      | (with_reducible apply kept_refusePrepare)
      | (with_reducible apply kept_setBrew)
      | split

theorem kept_execPrepare {a0 s} (h1 : Kept q s) : KeptR q (execPrepare a0 s) := by
  unfold execPrepare
  refine keptR_next ?_
  repeat'
    first
      | (with_reducible assumption)
      | (refine kept_serveTap (fun _ _ => ?_) ?_)
      | (with_reducible apply kept_prepare)

theorem keptV_atCoordinator {r s} {f : TapGroup → State → State} (hf : ∀ g s, Kept q s → Kept q (f g s)) (h : Kept q s) :
    KeptV q (atCoordinator r f s) := by
  unfold atCoordinator
  split
  · exact keptV_errRep
  · exact keptV_okRep (hf _ _ h)

theorem kept_markDecisions {a0 a1 s} (h2 : Kept q s) : Kept q (markDecisions a0 a1 s) := by
  unfold markDecisions
  repeat'
    first
      | (with_reducible (refine Kept.mk ?_ ?_ ?_ ?_ ?_ <;> dsimp only <;> first | exact Kept.queue ‹_› | exact Kept.mem ‹_› | exact Kept.regs ‹_› | exact Kept.stalls ‹_› | exact Kept.units ‹_›))

theorem kept_ready {a0 s} (h1 : Kept q s) : KeptV q (ready a0 s) := by
  unfold ready
  repeat'
    first
      | (with_reducible assumption)
      | (refine keptV_atCoordinator (fun _ _ _ => ?_) ?_)
      | (with_reducible apply kept_setGroup)
      | (with_reducible apply kept_ite)

theorem kept_execReady {a0 s} (h1 : Kept q s) : KeptR q (execReady a0 s) := by
  unfold execReady
  refine keptR_next ?_
  repeat'
    first
      | (with_reducible assumption)
      | (refine kept_serveTap (fun _ _ => ?_) ?_)
      | (with_reducible apply kept_ready)

theorem kept_refuse {a0 s} (h1 : Kept q s) : KeptV q (refuse a0 s) := by
  unfold refuse
  repeat'
    first
      | (with_reducible assumption)
      | (refine keptV_atCoordinator (fun _ _ _ => ?_) ?_)
      | (with_reducible apply kept_setGroup)
      | (with_reducible apply kept_ite)

theorem kept_execRefuse {a0 s} (h1 : Kept q s) : KeptR q (execRefuse a0 s) := by
  unfold execRefuse
  refine keptR_next ?_
  repeat'
    first
      | (with_reducible assumption)
      | (refine kept_serveTap (fun _ _ => ?_) ?_)
      | (with_reducible apply kept_refuse)

theorem kept_learnCommit {a0 a1 s} (h2 : Kept q s) : Kept q (learnCommit a0 a1 s) := by
  unfold learnCommit
  repeat'
    first
      | (with_reducible assumption)
      | (with_reducible apply kept_know)
      | (with_reducible apply kept_setBrew)
      | (with_reducible apply kept_avsFloorOn)
      | (with_reducible apply kept_ite)

theorem kept_takeCommit {a0 a1 s} (h2 : Kept q s) : Kept q (takeCommit a0 a1 s) := by
  unfold takeCommit
  repeat'
    first
      | (with_reducible assumption)
      | (with_reducible apply kept_setBrew)
      | (with_reducible apply kept_know)
      | (with_reducible apply kept_learnCommit)
      | (with_reducible apply kept_ite)

theorem kept_takeAbort {a0 a1 s} (h2 : Kept q s) : Kept q (takeAbort a0 a1 s) := by
  unfold takeAbort
  repeat'
    first
      | (with_reducible assumption)
      | (with_reducible apply kept_setBit)
      | (with_reducible apply kept_know)
      | (with_reducible apply kept_partOpen)
      | (with_reducible apply kept_setBrew)
      | (with_reducible apply kept_ite)

theorem keptV_atParticipant {r s} {f : Nat → BrewGroup → State → State} (hf : ∀ n g s, Kept q s → Kept q (f n g s)) (h : Kept q s) :
    KeptV q (atParticipant r f s) := by
  unfold atParticipant
  split
  · exact keptV_errRep
  · exact keptV_okRep (hf _ _ _ h)

theorem kept_execCommit {a0 s} (h1 : Kept q s) : KeptR q (execCommit a0 s) := by
  unfold execCommit
  refine keptR_next ?_
  repeat'
    first
      | (with_reducible assumption)
      | (refine kept_serveTap (fun _ _ => ?_) ?_)
      | (refine keptV_atParticipant (fun _ _ _ _ => ?_) ?_)
      | (with_reducible apply kept_takeCommit)

theorem kept_execAbort {a0 s} (h1 : Kept q s) : KeptR q (execAbort a0 s) := by
  unfold execAbort
  refine keptR_next ?_
  repeat'
    first
      | (with_reducible assumption)
      | (refine kept_serveTap (fun _ _ => ?_) ?_)
      | (refine keptV_atParticipant (fun _ _ _ _ => ?_) ?_)
      | (with_reducible apply kept_takeAbort)

theorem kept_query {a0 s} (h1 : Kept q s) : KeptV q (query a0 s) := by
  unfold query
  repeat'
    first
      | (with_reducible assumption)
      | (with_reducible apply keptV_okRep)
      | (with_reducible apply kept_sendTap)

theorem kept_execQuery {a0 s} (h1 : Kept q s) : KeptR q (execQuery a0 s) := by
  unfold execQuery
  refine keptR_next ?_
  repeat'
    first
      | (with_reducible assumption)
      | (refine kept_serveTap (fun _ _ => ?_) ?_)
      | (with_reducible apply kept_query)

theorem kept_takeOutcome {a0 a1 a2 s} (h3 : Kept q s) : Kept q (takeOutcome a0 a1 a2 s) := by
  unfold takeOutcome
  repeat'
    first
      | (with_reducible assumption)
      | (with_reducible apply kept_learnCommit)
      | (with_reducible apply kept_takeAbort)
      | (with_reducible apply kept_ite)

theorem kept_execOutcome {a0 s} (h1 : Kept q s) : KeptR q (execOutcome a0 s) := by
  unfold execOutcome
  refine keptR_next ?_
  repeat'
    first
      | (with_reducible assumption)
      | (refine kept_serveTap (fun _ _ => ?_) ?_)
      | (refine keptV_atParticipant (fun _ _ _ _ => ?_) ?_)
      | (with_reducible apply kept_takeOutcome)

theorem kept_doneMsg {a0 s} (h1 : Kept q s) : KeptV q (doneMsg a0 s) := by
  unfold doneMsg
  repeat'
    first
      | (with_reducible assumption)
      | (extract_lets +onlyGivenNames x; refine (fun (hx : Kept q x) => ?_) ?_; (rotate_left; unfold x; clear x; rotate_left); (try clear_value x); revert x; intro y hy)
      | (extract_lets +onlyGivenNames x; (try clear_value x); revert x; intro y)
      | (refine keptV_atCoordinator (fun _ _ _ => ?_) ?_)
      | (with_reducible apply kept_noteDone)
      | (with_reducible apply kept_raise)
      | (with_reducible apply kept_closeIfDone)
      | split

theorem kept_execDone {a0 s} (h1 : Kept q s) : KeptR q (execDone a0 s) := by
  unfold execDone
  refine keptR_next ?_
  repeat'
    first
      | (with_reducible assumption)
      | (refine kept_serveTap (fun _ _ => ?_) ?_)
      | (with_reducible apply kept_doneMsg)

theorem kept_tapDecision {a0 s} (h1 : Kept q s) : Kept q (tapDecision a0 s) := by
  unfold tapDecision
  repeat'
    first
      | (with_reducible assumption)
      | (extract_lets +onlyGivenNames x; refine (fun (hx : Kept q x) => ?_) ?_; (rotate_left; unfold x; clear x; rotate_left); (try clear_value x); revert x; intro y hy)
      | (extract_lets +onlyGivenNames x; (try clear_value x); revert x; intro y)
      | (with_reducible apply kept_setGroup)
      | (with_reducible apply kept_takeCommit)
      | (with_reducible apply kept_sendTap)
      | (with_reducible apply kept_decideAbort)
      | (with_reducible apply kept_closeIfDone)
      | (with_reducible apply kept_noteDone)
      | (refine kept_forEach (fun _ _ _ => ?_) ?_)
      | split

theorem kept_execTapDecision {a0 s} (h1 : Kept q s) : KeptR q (execTapDecision a0 s) := by
  unfold execTapDecision
  refine keptR_next ?_
  repeat'
    first
      | (with_reducible assumption)
      | (with_reducible apply kept_tapDecision)

theorem kept_execGroupCloseTimeout {a0 s} (h1 : Kept q s) : KeptR q (execGroupCloseTimeout a0 s) := by
  unfold execGroupCloseTimeout
  refine keptR_next ?_
  repeat'
    first
      | (with_reducible assumption)
      | (with_reducible apply kept_closeGroup)

theorem kept_queryTimer {a0 s} (h1 : Kept q s) : Kept q (queryTimer a0 s) := by
  unfold queryTimer
  repeat'
    first
      | (with_reducible assumption)
      | (extract_lets +onlyGivenNames x; (try clear_value x); revert x; intro y)
      | (with_reducible apply kept_sendTap)
      | split

theorem kept_execQueryTimer {a0 s} (h1 : Kept q s) : KeptR q (execQueryTimer a0 s) := by
  unfold execQueryTimer
  refine keptR_next ?_
  repeat'
    first
      | (with_reducible assumption)
      | (with_reducible apply kept_queryTimer)

theorem kept_queryPeers {a0 s} (h1 : Kept q s) : Kept q (queryPeers a0 s) := by
  unfold queryPeers
  repeat'
    first
      | (with_reducible assumption)
      | (extract_lets +onlyGivenNames x; refine (fun (hx : Kept q x) => ?_) ?_; (rotate_left; unfold x; clear x; rotate_left); (try clear_value x); revert x; intro y hy)
      | (extract_lets +onlyGivenNames x; (try clear_value x); revert x; intro y)
      | (with_reducible apply kept_setBrew)
      | (with_reducible apply kept_sendTap)
      | (refine kept_forEach (fun _ _ _ => ?_) ?_)
      | split

theorem kept_execQueryPeers {a0 s} (h1 : Kept q s) : KeptR q (execQueryPeers a0 s) := by
  unfold execQueryPeers
  refine keptR_next ?_
  repeat'
    first
      | (with_reducible assumption)
      | (with_reducible apply kept_queryPeers)

theorem kept_brewResolve {a0 s} (h1 : Kept q s) : KeptV q (brewResolve a0 s) := by
  unfold brewResolve
  repeat'
    first
      | (with_reducible assumption)
      | (with_reducible apply keptV_shaped)
      | (with_reducible apply keptV_need)
      | (with_reducible apply keptV_okRep)
      | (with_reducible apply kept_partOpen)
      | (with_reducible apply keptV_errRep)
      | (with_reducible apply kept_avsFloorOn)
      | (with_reducible apply kept_setBrew)
      | split

theorem kept_execBrewResolve {a0 s} (h1 : Kept q s) : KeptR q (execBrewResolve a0 s) := by
  unfold execBrewResolve
  refine keptR_next ?_
  repeat'
    first
      | (with_reducible assumption)
      | (refine kept_serve (fun _ _ => ?_) ?_)
      | (with_reducible apply kept_brewResolve)

theorem kept_tapReport {a0 s} (h1 : Kept q s) : KeptV q (tapReport a0 s) := by
  unfold tapReport
  repeat'
    first
      | (with_reducible assumption)
      | (with_reducible apply keptV_shaped)
      | (with_reducible apply keptV_errRep)
      | (with_reducible apply keptV_okRep)
      | split

theorem kept_execTapReport {a0 s} (h1 : Kept q s) : KeptR q (execTapReport a0 s) := by
  unfold execTapReport
  refine keptR_next ?_
  repeat'
    first
      | (with_reducible assumption)
      | (refine kept_serve (fun _ _ => ?_) ?_)
      | (with_reducible apply kept_tapReport)

theorem kept_settleArm {a0 s} (h1 : Kept q s) : Kept q (settleArm a0 s) := by
  unfold settleArm
  repeat'
    first
      | (with_reducible assumption)
      | (with_reducible apply kept_avsFloorOn)
      | (with_reducible apply kept_setBrew)
      | (with_reducible apply kept_ite)

theorem kept_execSettleTapArm {a0 s} (h1 : Kept q s) : KeptR q (execSettleTapArm a0 s) := by
  unfold execSettleTapArm
  refine keptR_next ?_
  repeat'
    first
      | (with_reducible assumption)
      | (with_reducible apply kept_settleArm)

theorem kept_bakeDeadline {a0 a1 s} (h2 : Kept q s) : Kept q (bakeDeadline a0 a1 s) := by
  unfold bakeDeadline
  repeat'
    first
      | (with_reducible assumption)
      | (extract_lets +onlyGivenNames x; refine (fun (hx : Kept q x) => ?_) ?_; (rotate_left; unfold x; clear x; rotate_left); (try clear_value x); revert x; intro y hy)
      | (extract_lets +onlyGivenNames x; (try clear_value x); revert x; intro y)
      | (with_reducible apply kept_bakeLate)
      | (with_reducible apply kept_setBrew)
      | (with_reducible apply kept_setBit)
      | (with_reducible apply kept_endJob)
      | (with_reducible apply kept_brewReopen)
      | split

theorem kept_enterDoubt {a0 a1 s} (h2 : Kept q s) : Kept q (enterDoubt a0 a1 s) := by
  unfold enterDoubt
  repeat'
    first
      | (with_reducible assumption)
      | (extract_lets +onlyGivenNames x; (try clear_value x); revert x; intro y)
      | (with_reducible apply kept_raise)
      | (with_reducible apply kept_setBit)
      | (with_reducible apply kept_setBrew)
      | split

/-! ### Compile -/

theorem kept_compileCmd {a0 a1 s} (h2 : Kept q s) : KeptV q (compileCmd a0 a1 s) := by
  unfold compileCmd
  repeat'
    first
      | (with_reducible assumption)
      | (with_reducible apply keptV_shaped)
      | (with_reducible apply keptV_need)
      | (with_reducible apply keptV_errRep)
      | (refine keptV_startJob (fun _ _ _ => ?_) ?_)
      | (with_reducible apply kept_setBrew)
      | split

theorem kept_execCompile {a0 a1 s} (h2 : Kept q s) : KeptR q (execCompile a0 a1 s) := by
  unfold execCompile
  refine keptR_next ?_
  repeat'
    first
      | (with_reducible assumption)
      | (refine kept_serve (fun _ _ => ?_) ?_)
      | (with_reducible apply kept_compileCmd)

theorem kept_graphResult {a0 s} (h1 : Kept q s) : KeptV q (graphResult a0 s) := by
  unfold graphResult
  repeat'
    first
      | (with_reducible assumption)
      | (with_reducible apply keptV_shaped)
      | (with_reducible apply keptV_need)
      | (with_reducible apply keptV_errRep)
      | (with_reducible apply keptV_okRep)
      | split

theorem kept_execGraphResult {a0 s} (h1 : Kept q s) : KeptR q (execGraphResult a0 s) := by
  unfold execGraphResult
  refine keptR_next ?_
  repeat'
    first
      | (with_reducible assumption)
      | (refine kept_serve (fun _ _ => ?_) ?_)
      | (with_reducible apply kept_graphResult)

theorem kept_reportLeader {a0 s} (h1 : Kept q s) : Kept q (reportLeader a0 s) := by
  unfold reportLeader
  repeat'
    first
      | (with_reducible assumption)
      | (with_reducible apply kept_sendOwn)
      | split

theorem kept_compileFail {a0 a1 a2 a3 s} (h4 : Kept q s) : Kept q (compileFail a0 a1 a2 a3 s) := by
  unfold compileFail
  repeat'
    first
      | (with_reducible assumption)
      | (with_reducible apply kept_putResult)
      | (with_reducible apply kept_withdrawOut)
      | (with_reducible apply kept_reportLeader)
      | (with_reducible apply kept_endJob)
      | (with_reducible apply kept_setJob)
      | (with_reducible apply kept_membersWithdraw)

theorem kept_compileDone {a0 a1 s} (h2 : Kept q s) : Kept q (compileDone a0 a1 s) := by
  unfold compileDone
  repeat'
    first
      | (with_reducible assumption)
      | (with_reducible apply kept_setBrew)
      | (with_reducible apply kept_reportLeader)
      | (with_reducible apply kept_endJob)
      | (with_reducible apply kept_setJob)

theorem kept_compileEmit {a0 a1 a2 s} (h3 : Kept q s) : Kept q (compileEmit a0 a1 a2 s) := by
  unfold compileEmit
  repeat'
    first
      | (with_reducible assumption)
      | (with_reducible apply kept_setBrew)
      | (with_reducible apply kept_putResult)
      | (with_reducible apply kept_compileDone)
      | (with_reducible apply kept_setJob)
      | (with_reducible apply kept_ite)

theorem kept_sendPartner {a0 s} (h1 : Kept q s) : Kept q (sendPartner a0 s) := by
  unfold sendPartner
  repeat'
    first
      | (with_reducible assumption)
      | (with_reducible apply kept_sendOwn)
      | (with_reducible apply kept_ite)

theorem kept_phaseEnd {j c ph o s} (h : Kept q s) : Kept q (phaseEnd j c ph o s) := by
  unfold phaseEnd
  extract_lets go p
  have hgo : ∀ {c s}, Kept q s → Kept q (go c s) := fun h => kept_setJob h
  clear_value go p
  split
  · exact kept_forEach (fun _ _ h => kept_sendOwn h) (hgo h)
  · split
    · exact kept_reportLeader (hgo h)
    · split
      · exact kept_reportLeader (kept_sendPartner (hgo h))
      · exact h
  · split
    · exact h
    · exact kept_reportLeader (hgo h)
  · split
    · exact kept_compileEmit (kept_setJob h)
    · exact h
  · exact kept_reportLeader (hgo h)

theorem kept_compileStep {a0 a1 a2 a3 a4 s} (h5 : Kept q s) : Kept q (compileStep a0 a1 a2 a3 a4 s) := by
  unfold compileStep
  repeat'
    first
      | (with_reducible assumption)
      | (extract_lets +onlyGivenNames x; refine (fun (hx : Kept q x) => ?_) ?_; (rotate_left; unfold x; clear x; rotate_left); (try clear_value x); revert x; intro y hy)
      | (extract_lets +onlyGivenNames x; (try clear_value x); revert x; intro y)
      | (with_reducible apply kept_setJob)
      | (with_reducible apply kept_compileFail)
      | (with_reducible apply kept_phaseEnd)
      | split
      | (with_reducible (refine Kept.mk ?_ ?_ ?_ ?_ ?_ <;> dsimp only <;> first | exact Kept.queue ‹_› | exact Kept.mem ‹_› | exact Kept.regs ‹_› | exact Kept.stalls ‹_› | exact Kept.units ‹_›))

theorem kept_subgraphRx {a0 a1 a2 a3 a4 s} (h5 : Kept q s) : Kept q (subgraphRx a0 a1 a2 a3 a4 s) := by
  unfold subgraphRx
  repeat'
    first
      | (with_reducible assumption)
      | (with_reducible apply kept_setBrew)
      | (with_reducible apply kept_ite)
      | (with_reducible (refine Kept.mk ?_ ?_ ?_ ?_ ?_ <;> dsimp only <;> first | exact Kept.queue ‹_› | exact Kept.mem ‹_› | exact Kept.regs ‹_› | exact Kept.stalls ‹_› | exact Kept.units ‹_›))

theorem kept_execTeamSubgraphRx {a0 a1 a2 a3 s} (h4 : Kept q s) : KeptR q (execTeamSubgraphRx a0 a1 a2 a3 s) := by
  unfold execTeamSubgraphRx
  refine keptR_next ?_
  repeat'
    first
      | (with_reducible assumption)
      | (with_reducible apply kept_subgraphRx)

theorem kept_memberReport {a0 a1 a2 s} (h3 : Kept q s) : Kept q (memberReport a0 a1 a2 s) := by
  unfold memberReport
  repeat'
    first
      | (with_reducible assumption)
      | (extract_lets +onlyGivenNames x; (try clear_value x); revert x; intro y)
      | (with_reducible apply kept_setJob)
      | (with_reducible apply kept_putResult)
      | (with_reducible apply kept_compileFail)
      | (with_reducible apply kept_compileDone)
      | split

theorem kept_execMemberCompileReport {a0 a1 a2 s} (h3 : Kept q s) : KeptR q (execMemberCompileReport a0 a1 a2 s) := by
  unfold execMemberCompileReport
  refine keptR_next ?_
  repeat'
    first
      | (with_reducible assumption)
      | (with_reducible apply kept_memberReport)

theorem kept_memberTimeout {a0 s} (h1 : Kept q s) : Kept q (memberTimeout a0 s) := by
  unfold memberTimeout
  repeat'
    first
      | (with_reducible assumption)
      | (with_reducible apply kept_compileFail)
      | split

theorem kept_execMemberTimeout {a0 s} (h1 : Kept q s) : KeptR q (execMemberTimeout a0 s) := by
  unfold execMemberTimeout
  refine keptR_next ?_
  repeat'
    first
      | (with_reducible assumption)
      | (with_reducible apply kept_memberTimeout)

theorem kept_compileWithdraw {a0 s} (h1 : Kept q s) : Kept q (compileWithdraw a0 s) := by
  unfold compileWithdraw
  repeat'
    first
      | (with_reducible assumption)
      | (with_reducible apply kept_putResult)
      | (with_reducible apply kept_withdrawOut)
      | (with_reducible apply kept_endJob)
      | split

theorem kept_execCompileWithdraw {a0 s} (h1 : Kept q s) : KeptR q (execCompileWithdraw a0 s) := by
  unfold execCompileWithdraw
  refine keptR_next ?_
  repeat'
    first
      | (with_reducible assumption)
      | (with_reducible apply kept_compileWithdraw)

/-! ### Herd -/

theorem kept_routeDrop {s} (h0 : Kept q s) : Kept q (routeDrop s) := by
  unfold routeDrop
  repeat'
    first
      | (with_reducible assumption)
      | (with_reducible apply kept_countFld)

theorem kept_linkPut {a0 a1 s} (h2 : Kept q s) : Kept q (linkPut a0 a1 s) := by
  unfold linkPut
  repeat'
    first
      | (with_reducible assumption)
      | (with_reducible apply kept_setTrace)

theorem kept_sendRecordOn {a0 a1 a2 s} (h3 : Kept q s) : Kept q (sendRecordOn a0 a1 a2 s) := by
  unfold sendRecordOn
  repeat'
    first
      | (with_reducible assumption)
      | (with_reducible apply kept_linkPut)

theorem kept_sendRecord {a0 a1 a2 s} (h3 : Kept q s) : Kept q (sendRecord a0 a1 a2 s) := by
  unfold sendRecord
  repeat'
    first
      | (with_reducible assumption)
      | (with_reducible apply kept_routeDrop)
      | (with_reducible apply kept_linkPut)
      | split

theorem kept_announce {s} (h0 : Kept q s) : Kept q (announce s) := by
  unfold announce
  repeat'
    first
      | (with_reducible assumption)
      | (with_reducible apply kept_sendRecordOn)
      | (refine kept_forEach (fun _ _ _ => ?_) ?_)
      | (with_reducible (refine Kept.mk ?_ ?_ ?_ ?_ ?_ <;> dsimp only <;> first | exact Kept.queue ‹_› | exact Kept.mem ‹_› | exact Kept.regs ‹_› | exact Kept.stalls ‹_› | exact Kept.units ‹_›))

theorem kept_setTeamLock {a0 s} (h1 : Kept q s) : Kept q (setTeamLock a0 s) := by
  unfold setTeamLock
  repeat'
    first
      | (with_reducible assumption)
      | (with_reducible apply kept_setFld)
      | (with_reducible apply kept_countFld)
      | (with_reducible apply kept_announce)
      | (with_reducible apply kept_raise)
      | (with_reducible apply kept_ite)

theorem kept_herdUpdate {s} (h0 : Kept q s) : Kept q (herdUpdate s) := by
  unfold herdUpdate
  repeat'
    first
      | (with_reducible assumption)
      | (with_reducible apply kept_setFld)
      | (with_reducible apply kept_ite)

theorem kept_lockFollow {s} (h0 : Kept q s) : Kept q (lockFollow s) := by
  unfold lockFollow
  repeat'
    first
      | (with_reducible assumption)
      | (with_reducible apply kept_setTeamLock)
      | (with_reducible apply kept_herdUpdate)
      | (with_reducible apply kept_ite)

theorem kept_showActive {a0 s} (h1 : Kept q s) : Kept q (showActive a0 s) := by
  unfold showActive
  repeat'
    first
      | (with_reducible assumption)
      | (with_reducible apply kept_setFld)
      | (refine kept_forEach (fun _ _ _ => ?_) ?_)

theorem kept_enterHoldover {a0 s} (h1 : Kept q s) : Kept q (enterHoldover a0 s) := by
  unfold enterHoldover
  repeat'
    first
      | (with_reducible assumption)
      | (with_reducible apply kept_setFld)
      | (with_reducible apply kept_showActive)
      | (with_reducible apply kept_lockFollow)
      | (with_reducible apply kept_raise)
      | (with_reducible apply kept_setBit)

theorem kept_switchRef {a0 a1 s} (h2 : Kept q s) : Kept q (switchRef a0 a1 s) := by
  unfold switchRef
  repeat'
    first
      | (with_reducible assumption)
      | (extract_lets +onlyGivenNames x; refine (fun (hx : Kept q x) => ?_) ?_; (rotate_left; unfold x; clear x; rotate_left); (try clear_value x); revert x; intro y hy)
      | (extract_lets +onlyGivenNames x; (try clear_value x); revert x; intro y)
      | (with_reducible apply kept_showActive)
      | (with_reducible apply kept_setFld)
      | (with_reducible apply kept_setBit)
      | (with_reducible apply kept_raise)
      | (with_reducible apply kept_lockFollow)
      | (with_reducible apply kept_ite)
      | (with_reducible (refine Kept.mk ?_ ?_ ?_ ?_ ?_ <;> dsimp only <;> first | exact Kept.queue ‹_› | exact Kept.mem ‹_› | exact Kept.regs ‹_› | exact Kept.stalls ‹_› | exact Kept.units ‹_›))

theorem kept_refDrop {a0 s} (h1 : Kept q s) : Kept q (refDrop a0 s) := by
  unfold refDrop
  repeat'
    first
      | (with_reducible assumption)
      | (with_reducible apply kept_setFld)
      | (with_reducible apply kept_clrBit)

theorem kept_refCheck {s} (h0 : Kept q s) : Kept q (refCheck s) := by
  unfold refCheck
  repeat'
    first
      | (with_reducible assumption)
      | (with_reducible apply kept_refDrop)
      | (refine kept_forEach (fun _ _ _ => ?_) ?_)
      | (with_reducible apply kept_ite)

theorem kept_selectRef {s} (h0 : Kept q s) : Kept q (selectRef s) := by
  unfold selectRef
  repeat'
    first
      | (with_reducible assumption)
      | (extract_lets +onlyGivenNames x; refine (fun (hx : Kept q x) => ?_) ?_; (rotate_left; unfold x; clear x; rotate_left); (try clear_value x); revert x; intro y hy)
      | (extract_lets +onlyGivenNames x; (try clear_value x); revert x; intro y)
      | (with_reducible apply kept_refCheck)
      | (with_reducible apply kept_setFld)
      | (with_reducible apply kept_switchRef)
      | (with_reducible apply kept_enterHoldover)
      | (refine kept_forEach (fun _ _ _ => ?_) ?_)
      | split

theorem kept_teamRoles {s} (h0 : Kept q s) : Kept q (teamRoles s) := by
  unfold teamRoles
  repeat'
    first
      | (with_reducible assumption)
      | (extract_lets +onlyGivenNames x; refine (fun (hx : Kept q x) => ?_) ?_; (rotate_left; unfold x; clear x; rotate_left); (try clear_value x); revert x; intro y hy)
      | (extract_lets +onlyGivenNames x; (try clear_value x); revert x; intro y)
      | (with_reducible apply kept_setFld)
      | (with_reducible apply kept_setTeamLock)
      | split
      | (with_reducible (refine Kept.mk ?_ ?_ ?_ ?_ ?_ <;> dsimp only <;> first | exact Kept.queue ‹_› | exact Kept.mem ‹_› | exact Kept.regs ‹_› | exact Kept.stalls ‹_› | exact Kept.units ‹_›))

theorem kept_teamUpdate {s} (h0 : Kept q s) : Kept q (teamUpdate s) := by
  unfold teamUpdate
  repeat'
    first
      | (with_reducible assumption)
      | (with_reducible apply kept_selectRef)
      | (with_reducible apply kept_teamRoles)
      | (with_reducible apply kept_ite)

theorem kept_teamJobCheck {s} (h0 : Kept q s) : Kept q (teamJobCheck s) := by
  unfold teamJobCheck
  repeat'
    first
      | (with_reducible assumption)
      | (extract_lets +onlyGivenNames x; (try clear_value x); revert x; intro y)
      | (with_reducible apply kept_endJob)
      | (refine kept_forEach (fun _ _ _ => ?_) ?_)
      | split

theorem kept_noTeam {s} (h0 : Kept q s) : Kept q (noTeam s) := by
  unfold noTeam
  repeat'
    first
      | (with_reducible assumption)
      | (extract_lets +onlyGivenNames x; refine (fun (hx : Kept q x) => ?_) ?_; (rotate_left; unfold x; clear x; rotate_left); (try clear_value x); revert x; intro y hy)
      | (with_reducible apply kept_setRegWord)
      | (with_reducible (refine Kept.mk ?_ ?_ ?_ ?_ ?_ <;> dsimp only <;> first | exact Kept.queue ‹_› | exact Kept.mem ‹_› | exact Kept.regs ‹_› | exact Kept.stalls ‹_› | exact Kept.units ‹_›))

theorem kept_leaveTeam {s} (h0 : Kept q s) : Kept q (leaveTeam s) := by
  unfold leaveTeam
  repeat'
    first
      | (with_reducible assumption)
      | (with_reducible apply kept_herdUpdate)
      | (with_reducible apply kept_selectRef)
      | (with_reducible apply kept_noTeam)

theorem kept_joinTeam {a0 s} (h1 : Kept q s) : Kept q (joinTeam a0 s) := by
  unfold joinTeam
  repeat'
    first
      | (with_reducible assumption)
      | (extract_lets +onlyGivenNames x; refine (fun (hx : Kept q x) => ?_) ?_; (rotate_left; unfold x; clear x; rotate_left); (try clear_value x); revert x; intro y hy)
      | (with_reducible apply kept_setFld)
      | (with_reducible apply kept_noTeam)
      | (with_reducible apply kept_openOwn)
      | (with_reducible apply kept_teamUpdate)
      | (refine kept_forEach (fun _ _ _ => ?_) ?_)
      | (with_reducible (refine Kept.mk ?_ ?_ ?_ ?_ ?_ <;> dsimp only <;> first | exact Kept.queue ‹_› | exact Kept.mem ‹_› | exact Kept.regs ‹_› | exact Kept.stalls ‹_› | exact Kept.units ‹_›))

theorem kept_setPairState {a0 s} (h1 : Kept q s) : Kept q (setPairState a0 s) := by
  unfold setPairState
  repeat'
    first
      | (with_reducible assumption)
      | (with_reducible apply kept_setFld)

theorem kept_switchCancel {s} (h0 : Kept q s) : Kept q (switchCancel s) := by
  unfold switchCancel
  repeat'
    first
      | (with_reducible assumption)
      | (with_reducible apply kept_sendRecordOn)
      | split
      | (with_reducible (refine Kept.mk ?_ ?_ ?_ ?_ ?_ <;> dsimp only <;> first | exact Kept.queue ‹_› | exact Kept.mem ‹_› | exact Kept.regs ‹_› | exact Kept.stalls ‹_› | exact Kept.units ‹_›))

theorem kept_mirrorLost {s} (h0 : Kept q s) : Kept q (mirrorLost s) := by
  unfold mirrorLost
  repeat'
    first
      | (with_reducible apply kept_raise)
      | (with_reducible apply kept_setBit)
      | (with_reducible apply kept_setPairState)
      | (with_reducible apply kept_ite)
      | (with_reducible (refine Kept.mk ?_ ?_ ?_ ?_ ?_ <;> dsimp only <;> first | exact Kept.queue ‹_› | exact Kept.mem ‹_› | exact Kept.regs ‹_› | exact Kept.stalls ‹_› | exact Kept.units ‹_›))

/-! ### Time -/

theorem kept_setDom {a0 a1 s} (h2 : Kept q s) : Kept q (setDom a0 a1 s) := by
  unfold setDom
  repeat'
    first
      | (with_reducible apply kept_ite)
      | (with_reducible (refine Kept.mk ?_ ?_ ?_ ?_ ?_ <;> dsimp only <;> first | exact Kept.queue ‹_› | exact Kept.mem ‹_› | exact Kept.regs ‹_› | exact Kept.stalls ‹_› | exact Kept.units ‹_›))

theorem kept_showRate {a0 s} (h1 : Kept q s) : Kept q (showRate a0 s) := by
  unfold showRate
  repeat'
    first
      | (with_reducible assumption)
      | (with_reducible apply kept_setFld)

theorem kept_setPulse {a0 a1 s} (h2 : Kept q s) : Kept q (setPulse a0 a1 s) := by
  unfold setPulse
  repeat'
    first
      | (with_reducible apply kept_setFld)
      | (with_reducible (refine Kept.mk ?_ ?_ ?_ ?_ ?_ <;> dsimp only <;> first | exact Kept.queue ‹_› | exact Kept.mem ‹_› | exact Kept.regs ‹_› | exact Kept.stalls ‹_› | exact Kept.units ‹_›))

theorem kept_latePulses {a0 a1 s} (h2 : Kept q s) : Kept q (latePulses a0 a1 s) := by
  unfold latePulses
  repeat'
    first
      | (with_reducible assumption)
      | (extract_lets +onlyGivenNames x; refine (fun (hx : Kept q x) => ?_) ?_; (rotate_left; unfold x; clear x; rotate_left); (try clear_value x); revert x; intro y hy)
      | (extract_lets +onlyGivenNames x; (try clear_value x); revert x; intro y)
      | (with_reducible apply kept_setPulse)
      | (with_reducible apply kept_sendOut)
      | (with_reducible apply kept_raise)
      | (with_reducible apply kept_setBit)
      | (refine kept_forEach (fun _ _ _ => ?_) ?_)
      | split

theorem kept_setMap {a0 a1 s} (h2 : Kept q s) : Kept q (setMap a0 a1 s) := by
  unfold setMap
  repeat'
    first
      | (with_reducible assumption)
      | (with_reducible apply kept_setFld)

theorem kept_stepDom {a0 a1 a2 s} (h3 : Kept q s) : Kept q (stepDom a0 a1 a2 s) := by
  unfold stepDom
  repeat'
    first
      | (with_reducible assumption)
      | (with_reducible apply kept_showRate)
      | (with_reducible apply kept_setDom)
      | (with_reducible apply kept_setFld)
      | (with_reducible apply kept_countFld)
      | (with_reducible apply kept_raise)
      | (with_reducible apply kept_setMap)
      | (with_reducible apply kept_latePulses)
      | (with_reducible apply kept_ite)

theorem kept_setPtpPort {a0 a1 a2 s} (h3 : Kept q s) : Kept q (setPtpPort a0 a1 a2 s) := by
  unfold setPtpPort
  repeat'
    first
      | (with_reducible assumption)
      | (with_reducible apply kept_setDom)

theorem kept_ptpSend {a0 a1 a2 s} (h3 : Kept q s) : Kept q (ptpSend a0 a1 a2 s) := by
  unfold ptpSend
  repeat'
    first
      | (with_reducible assumption)
      | (with_reducible apply kept_linkPut)
      | (with_reducible apply kept_sendOut)
      | (with_reducible apply kept_ite)

theorem kept_ptpFollow {a0 a1 a2 a3 s} (h4 : Kept q s) : Kept q (ptpFollow a0 a1 a2 a3 s) := by
  unfold ptpFollow
  repeat'
    first
      | (with_reducible assumption)
      | (with_reducible apply kept_ptpSend)
      | (with_reducible apply kept_ite)

theorem kept_ptpOut {a0 a1 a2 a3 s} (h4 : Kept q s) : Kept q (ptpOut a0 a1 a2 a3 s) := by
  unfold ptpOut
  repeat'
    first
      | (with_reducible assumption)
      | (with_reducible apply kept_setPtpPort)
      | (with_reducible apply kept_ite)

theorem kept_timeOut {a0 a1 a2 s} (h3 : Kept q s) : Kept q (timeOut a0 a1 a2 s) := by
  unfold timeOut
  repeat'
    first
      | (with_reducible assumption)
      | (with_reducible apply kept_ptpOut)
      | (with_reducible apply kept_ite)

theorem kept_timeAcked {a0 a1 a2 s} (h3 : Kept q s) : Kept q (timeAcked a0 a1 a2 s) := by
  unfold timeAcked
  repeat'
    first
      | (with_reducible assumption)
      | (with_reducible apply kept_ptpFollow)
      | (with_reducible apply kept_ite)

theorem kept_ptpSendEvent {a0 a1 a2 a3 s} (h4 : Kept q s) : Kept q (ptpSendEvent a0 a1 a2 a3 s) := by
  unfold ptpSendEvent
  repeat'
    first
      | (with_reducible assumption)
      | (with_reducible apply kept_ptpSend)
      | (with_reducible apply kept_ptpFollow)
      | (with_reducible apply kept_ptpOut)
      | (with_reducible apply kept_ite)

end Sys2Proof.Machine
end

