-- ==== Sys2Proof/Laws/Kept5.lean ====
section
/-! SUPPORT. The operations of Machine/ Lanes, Region, CmdGeneral, Transport, LinkCmd keep the queue and the canonical form. -/

namespace Sys2Proof.Machine

variable {q : List Instr}

/-! ### Lanes -/

theorem kept_showLanes {a0 a1 s} (h2 : Kept q s) : Kept q (showLanes a0 a1 s) := by
  unfold showLanes
  repeat'
    first
      | (with_reducible assumption)
      | (with_reducible apply kept_setFld)

theorem kept_setTraceState {a0 a1 s} (h2 : Kept q s) : Kept q (setTraceState a0 a1 s) := by
  unfold setTraceState
  repeat'
    first
      | (with_reducible assumption)
      | (with_reducible apply kept_setFld)

theorem kept_commaCheck {a0 s} (h1 : Kept q s) : Kept q (commaCheck a0 s) := by
  unfold commaCheck
  repeat'
    first
      | (with_reducible assumption)
      | (with_reducible apply kept_setTraceState)
      | (with_reducible apply kept_ite)

theorem kept_auditFail {a0 a1 s} (h2 : Kept q s) : Kept q (auditFail a0 a1 s) := by
  unfold auditFail
  repeat'
    first
      | (with_reducible assumption)
      | (with_reducible apply kept_raise)
      | (with_reducible apply kept_setBit)
      | (with_reducible apply kept_setTrace)

theorem kept_creditAudit {a0 s} (h1 : Kept q s) : Kept q (creditAudit a0 s) := by
  unfold creditAudit
  repeat'
    first
      | (with_reducible assumption)
      | (with_reducible apply kept_auditFail)
      | (refine kept_forEach (fun _ _ _ => ?_) ?_)
      | (with_reducible apply kept_ite)

theorem kept_lcpDue {a0 a1 s} (h2 : Kept q s) : Kept q (lcpDue a0 a1 s) := by
  unfold lcpDue
  repeat'
    first
      | (with_reducible assumption)
      | (with_reducible apply kept_setTrace)
      | (with_reducible apply kept_ite)

theorem kept_traceLost {a0 s} (h1 : Kept q s) : Kept q (traceLost a0 s) := by
  unfold traceLost
  repeat'
    first
      | (with_reducible assumption)
      | (extract_lets +onlyGivenNames x; refine (fun (hx : Kept q x) => ?_) ?_; (rotate_left; unfold x; clear x; rotate_left); (try clear_value x); revert x; intro y hy)
      | (with_reducible apply kept_mirrorLost)
      | (with_reducible apply kept_answer)
      | (with_reducible apply kept_teamUpdate)
      | split
      | (with_reducible (refine Kept.mk ?_ ?_ ?_ ?_ ?_ <;> dsimp only <;> first | exact Kept.queue ‹_› | exact Kept.mem ‹_› | exact Kept.regs ‹_› | exact Kept.stalls ‹_› | exact Kept.units ‹_›))

theorem kept_traceFail {a0 a1 a2 s} (h3 : Kept q s) : Kept q (traceFail a0 a1 a2 s) := by
  unfold traceFail
  repeat'
    first
      | (with_reducible assumption)
      | (with_reducible apply kept_countFld)
      | (with_reducible apply kept_setFld)
      | (with_reducible apply kept_setBit)
      | (with_reducible apply kept_raise)
      | (with_reducible apply kept_clrBit)
      | (with_reducible apply kept_showLanes)
      | (with_reducible apply kept_setTrace)
      | (with_reducible apply kept_selectRef)
      | (with_reducible apply kept_traceLost)
      | (with_reducible apply kept_commaCheck)
      | (with_reducible apply kept_setTraceState)
      | (refine kept_forEach (fun _ _ _ => ?_) ?_)

theorem kept_traceReinit {a0 a1 s} (h2 : Kept q s) : Kept q (traceReinit a0 a1 s) := by
  unfold traceReinit
  repeat'
    first
      | (with_reducible assumption)
      | (with_reducible apply kept_traceFail)
      | (with_reducible apply kept_ite)

theorem kept_execTraceReinit {a0 a1 s} (h2 : Kept q s) : KeptR q (execTraceReinit a0 a1 s) := by
  unfold execTraceReinit
  refine keptR_next ?_
  repeat'
    first
      | (with_reducible assumption)
      | (with_reducible apply kept_traceReinit)

theorem kept_execSyncTimeout {a0 s} (h1 : Kept q s) : KeptR q (execSyncTimeout a0 s) := by
  unfold execSyncTimeout
  refine keptR_next ?_
  repeat'
    first
      | (with_reducible assumption)
      | (with_reducible apply kept_traceFail)
      | (with_reducible apply kept_ite)

theorem kept_requestRestripe {a0 a1 a2 s} (h3 : Kept q s) : Kept q (requestRestripe a0 a1 a2 s) := by
  unfold requestRestripe
  repeat'
    first
      | (with_reducible assumption)
      | (with_reducible apply kept_setTraceState)
      | (with_reducible apply kept_setTrace)

theorem kept_laneLoss {a0 a1 s} (h2 : Kept q s) : Kept q (laneLoss a0 a1 s) := by
  unfold laneLoss
  repeat'
    first
      | (with_reducible assumption)
      | (with_reducible apply kept_countFld)
      | (with_reducible apply kept_clrBit)
      | (with_reducible apply kept_raise)
      | (with_reducible apply kept_setBit)
      | (with_reducible apply kept_setTrace)
      | (with_reducible apply kept_traceFail)
      | (with_reducible apply kept_requestRestripe)
      | (with_reducible apply kept_ite)

theorem kept_execLaneLoss {a0 a1 s} (h2 : Kept q s) : KeptR q (execLaneLoss a0 a1 s) := by
  unfold execLaneLoss
  refine keptR_next ?_
  repeat'
    first
      | (with_reducible assumption)
      | (with_reducible apply kept_selectRef)
      | (with_reducible apply kept_laneLoss)

theorem kept_laneLock {a0 a1 a2 s} (h3 : Kept q s) : Kept q (laneLock a0 a1 a2 s) := by
  unfold laneLock
  repeat'
    first
      | (with_reducible assumption)
      | (extract_lets +onlyGivenNames x; refine (fun (hx : Kept q x) => ?_) ?_; (rotate_left; unfold x; clear x; rotate_left); (try clear_value x); revert x; intro y hy)
      | (with_reducible apply kept_setFld)
      | (with_reducible apply kept_setBit)
      | (with_reducible apply kept_commaCheck)
      | (with_reducible apply kept_ite)
      | (with_reducible (refine Kept.mk ?_ ?_ ?_ ?_ ?_ <;> dsimp only <;> first | exact Kept.queue ‹_› | exact Kept.mem ‹_› | exact Kept.regs ‹_› | exact Kept.stalls ‹_› | exact Kept.units ‹_›))

theorem kept_execLaneLock {a0 a1 a2 s} (h3 : Kept q s) : KeptR q (execLaneLock a0 a1 a2 s) := by
  unfold execLaneLock
  refine keptR_next ?_
  repeat'
    first
      | (with_reducible assumption)
      | (with_reducible apply kept_laneLock)

theorem kept_laneReturn {a0 a1 s} (h2 : Kept q s) : Kept q (laneReturn a0 a1 s) := by
  unfold laneReturn
  repeat'
    first
      | (with_reducible assumption)
      | (with_reducible apply kept_requestRestripe)
      | (with_reducible apply kept_ite)

theorem kept_execLaneReturn {a0 a1 s} (h2 : Kept q s) : KeptR q (execLaneReturn a0 a1 s) := by
  unfold execLaneReturn
  refine keptR_next ?_
  repeat'
    first
      | (with_reducible assumption)
      | (with_reducible apply kept_laneReturn)

theorem kept_countRestripe {a0 a1 s} (h2 : Kept q s) : Kept q (countRestripe a0 a1 s) := by
  unfold countRestripe
  repeat'
    first
      | (with_reducible assumption)
      | (with_reducible apply kept_raise)
      | (with_reducible apply kept_setBit)
      | (with_reducible apply kept_countFld)

theorem kept_restripeOver {a0 s} (h1 : Kept q s) : Kept q (restripeOver a0 s) := by
  unfold restripeOver
  repeat'
    first
      | (with_reducible assumption)
      | (with_reducible apply kept_setTraceState)
      | (with_reducible apply kept_ite)

theorem kept_restripeRx {a0 a1 a2 s} (h3 : Kept q s) : Kept q (restripeRx a0 a1 a2 s) := by
  unfold restripeRx
  repeat'
    first
      | (with_reducible assumption)
      | (extract_lets +onlyGivenNames x; (try clear_value x); revert x; intro y)
      | (with_reducible apply kept_traceFail)
      | (with_reducible apply kept_setTraceState)
      | (with_reducible apply kept_setTrace)
      | split

theorem kept_execRestripe {a0 a1 a2 s} (h3 : Kept q s) : KeptR q (execRestripe a0 a1 a2 s) := by
  unfold execRestripe
  refine keptR_next ?_
  repeat'
    first
      | (with_reducible assumption)
      | (with_reducible apply kept_restripeRx)

theorem kept_restripeApply {a0 a1 a2 s} (h3 : Kept q s) : Kept q (restripeApply a0 a1 a2 s) := by
  unfold restripeApply
  repeat'
    first
      | (with_reducible assumption)
      | (extract_lets +onlyGivenNames x; refine (fun (hx : Kept q x) => ?_) ?_; (rotate_left; unfold x; clear x; rotate_left); (try clear_value x); revert x; intro y hy)
      | (extract_lets +onlyGivenNames x; (try clear_value x); revert x; intro y)
      | (with_reducible apply kept_traceFail)
      | (with_reducible apply kept_setTrace)
      | (with_reducible apply kept_restripeOver)
      | (with_reducible apply kept_countRestripe)
      | split

theorem kept_markerTx {a0 a1 a2 s} (h3 : Kept q s) : Kept q (markerTx a0 a1 a2 s) := by
  unfold markerTx
  repeat'
    first
      | (with_reducible assumption)
      | (extract_lets +onlyGivenNames x; refine (fun (hx : Kept q x) => ?_) ?_; (rotate_left; unfold x; clear x; rotate_left); (try clear_value x); revert x; intro y hy)
      | (with_reducible apply kept_restripeApply)
      | (with_reducible apply kept_lcpDue)
      | (with_reducible apply kept_creditAudit)
      | (with_reducible apply kept_sendOut)
      | split

theorem kept_restripeInUse {a0 a1 a2 s} (h3 : Kept q s) : Kept q (restripeInUse a0 a1 a2 s) := by
  unfold restripeInUse
  repeat'
    first
      | (with_reducible assumption)
      | (extract_lets +onlyGivenNames x; refine (fun (hx : Kept q x) => ?_) ?_; (rotate_left; unfold x; clear x; rotate_left); (try clear_value x); revert x; intro y hy)
      | (extract_lets +onlyGivenNames x; (try clear_value x); revert x; intro y)
      | (with_reducible apply kept_setTrace)
      | (with_reducible apply kept_clrBit)
      | (with_reducible apply kept_showLanes)
      | (with_reducible apply kept_selectRef)
      | (with_reducible apply kept_restripeOver)
      | (with_reducible apply kept_countRestripe)
      | (refine kept_forEach (fun _ _ _ => ?_) ?_)
      | split

theorem kept_teamIndex {a0 a1 a2 s} (h3 : Kept q s) : Kept q (teamIndex a0 a1 a2 s) := by
  unfold teamIndex
  repeat'
    first
      | (with_reducible assumption)
      | (with_reducible apply kept_ite)
      | (with_reducible (refine Kept.mk ?_ ?_ ?_ ?_ ?_ <;> dsimp only <;> first | exact Kept.queue ‹_› | exact Kept.mem ‹_› | exact Kept.regs ‹_› | exact Kept.stalls ‹_› | exact Kept.units ‹_›))

theorem kept_parentMarker {a0 a1 s} (h2 : Kept q s) : Kept q (parentMarker a0 a1 s) := by
  unfold parentMarker
  repeat'
    first
      | (with_reducible apply kept_setTeamLock)
      | (with_reducible apply kept_teamJobCheck)
      | (with_reducible apply kept_ite)
      | (with_reducible (refine Kept.mk ?_ ?_ ?_ ?_ ?_ <;> dsimp only <;> first | exact Kept.queue ‹_› | exact Kept.mem ‹_› | exact Kept.regs ‹_› | exact Kept.stalls ‹_› | exact Kept.units ‹_›))

theorem kept_teamMarker {a0 a1 a2 s} (h3 : Kept q s) : Kept q (teamMarker a0 a1 a2 s) := by
  unfold teamMarker
  repeat'
    first
      | (with_reducible assumption)
      | (with_reducible apply kept_teamIndex)
      | (with_reducible apply kept_parentMarker)
      | (with_reducible apply kept_ite)

theorem kept_markerRx {a0 a1 a2 s} (h3 : Kept q s) : Kept q (markerRx a0 a1 a2 s) := by
  unfold markerRx
  repeat'
    first
      | (with_reducible assumption)
      | (extract_lets +onlyGivenNames x; refine (fun (hx : Kept q x) => ?_) ?_; (rotate_left; unfold x; clear x; rotate_left); (try clear_value x); revert x; intro y hy)
      | (extract_lets +onlyGivenNames x; (try clear_value x); revert x; intro y)
      | (with_reducible apply kept_setBit)
      | (with_reducible apply kept_addFld)
      | (with_reducible apply kept_setTrace)
      | (with_reducible apply kept_creditAudit)
      | (with_reducible apply kept_restripeInUse)
      | (with_reducible apply kept_setTraceState)
      | (with_reducible apply kept_endJob)
      | (with_reducible apply kept_teamUpdate)
      | (with_reducible apply kept_teamMarker)
      | (with_reducible apply kept_traceFail)
      | split

theorem kept_execFrameMarkerRx {a0 a1 a2 s} (h3 : Kept q s) : KeptR q (execFrameMarkerRx a0 a1 a2 s) := by
  unfold execFrameMarkerRx
  refine keptR_next ?_
  repeat'
    first
      | (with_reducible assumption)
      | (with_reducible apply kept_markerRx)

theorem kept_trainHold {a0 a1 s} (h2 : Kept q s) : Kept q (trainHold a0 a1 s) := by
  unfold trainHold
  repeat'
    first
      | (with_reducible assumption)
      | (with_reducible apply kept_setTrace)
      | (with_reducible apply kept_setFld)

theorem kept_trainRx {a0 a1 a2 a3 s} (h4 : Kept q s) : Kept q (trainRx a0 a1 a2 a3 s) := by
  unfold trainRx
  repeat'
    first
      | (with_reducible assumption)
      | (extract_lets +onlyGivenNames x; refine (fun (hx : Kept q x) => ?_) ?_; (rotate_left; unfold x; clear x; rotate_left); (try clear_value x); revert x; intro y hy)
      | (extract_lets +onlyGivenNames x; (try clear_value x); revert x; intro y)
      | (with_reducible apply kept_traceFail)
      | (with_reducible apply kept_setFld)
      | (with_reducible apply kept_trainHold)
      | (with_reducible apply kept_setTrace)
      | (with_reducible apply kept_setTraceState)
      | (refine kept_forEach (fun _ _ _ => ?_) ?_)
      | split

theorem kept_execTrain {a0 a1 a2 a3 s} (h4 : Kept q s) : KeptR q (execTrain a0 a1 a2 a3 s) := by
  unfold execTrain
  refine keptR_next ?_
  repeat'
    first
      | (with_reducible assumption)
      | (with_reducible apply kept_trainRx)

theorem kept_ackDone {a0 a1 s} (h2 : Kept q s) : Kept q (ackDone a0 a1 s) := by
  unfold ackDone
  repeat'
    first
      | (with_reducible assumption)
      | (with_reducible apply kept_timeAcked)
      | (with_reducible apply kept_setTrace)
      | (refine kept_forEach (fun _ _ _ => ?_) ?_)

theorem kept_ackAudit {a0 a1 s} (h2 : Kept q s) : Kept q (ackAudit a0 a1 s) := by
  unfold ackAudit
  repeat'
    first
      | (with_reducible assumption)
      | (with_reducible apply kept_auditFail)
      | (refine kept_forEach (fun _ _ _ => ?_) ?_)
      | (with_reducible apply kept_ite)

theorem kept_startReplay {a0 s} (h1 : Kept q s) : Kept q (startReplay a0 s) := by
  unfold startReplay
  repeat'
    first
      | (with_reducible assumption)
      | (extract_lets +onlyGivenNames x; (try clear_value x); revert x; intro y)
      | (with_reducible apply kept_traceFail)
      | (with_reducible apply kept_setTrace)
      | split

theorem kept_ackRx {a0 a1 s} (h2 : Kept q s) : Kept q (ackRx a0 a1 s) := by
  unfold ackRx
  repeat'
    first
      | (with_reducible assumption)
      | (extract_lets +onlyGivenNames x; (try clear_value x); revert x; intro y)
      | (with_reducible apply kept_ackAudit)
      | (with_reducible apply kept_ackDone)
      | split

theorem kept_execAck {a0 a1 s} (h2 : Kept q s) : KeptR q (execAck a0 a1 s) := by
  unfold execAck
  refine keptR_next ?_
  repeat'
    first
      | (with_reducible assumption)
      | (with_reducible apply kept_ackRx)

theorem kept_nakRx {a0 a1 s} (h2 : Kept q s) : Kept q (nakRx a0 a1 s) := by
  unfold nakRx
  repeat'
    first
      | (with_reducible assumption)
      | (extract_lets +onlyGivenNames x; (try clear_value x); revert x; intro y)
      | (with_reducible apply kept_startReplay)
      | (with_reducible apply kept_ackAudit)
      | (with_reducible apply kept_ackDone)
      | split

theorem kept_execNak {a0 a1 s} (h2 : Kept q s) : KeptR q (execNak a0 a1 s) := by
  unfold execNak
  refine keptR_next ?_
  repeat'
    first
      | (with_reducible assumption)
      | (with_reducible apply kept_nakRx)

theorem kept_creditRx {a0 a1 s} (h2 : Kept q s) : Kept q (creditRx a0 a1 s) := by
  unfold creditRx
  repeat'
    first
      | (with_reducible assumption)
      | (with_reducible apply kept_setTrace)
      | (with_reducible apply kept_ite)

theorem kept_execCredit {a0 a1 s} (h2 : Kept q s) : KeptR q (execCredit a0 a1 s) := by
  unfold execCredit
  refine keptR_next ?_
  repeat'
    first
      | (with_reducible assumption)
      | (with_reducible apply kept_creditRx)

theorem kept_replayTimer {a0 a1 s} (h2 : Kept q s) : Kept q (replayTimer a0 a1 s) := by
  unfold replayTimer
  repeat'
    first
      | (with_reducible assumption)
      | (with_reducible apply kept_startReplay)
      | (with_reducible apply kept_setTrace)
      | (with_reducible apply kept_ite)

theorem kept_execReplayTimer {a0 a1 s} (h2 : Kept q s) : KeptR q (execReplayTimer a0 a1 s) := by
  unfold execReplayTimer
  refine keptR_next ?_
  repeat'
    first
      | (with_reducible assumption)
      | (with_reducible apply kept_replayTimer)

theorem kept_ackTimer {a0 s} (h1 : Kept q s) : Kept q (ackTimer a0 s) := by
  unfold ackTimer
  repeat'
    first
      | (with_reducible assumption)
      | (with_reducible apply kept_lcpDue)
      | (with_reducible apply kept_setTrace)
      | (with_reducible apply kept_ite)

theorem kept_execAckTimer {a0 s} (h1 : Kept q s) : KeptR q (execAckTimer a0 s) := by
  unfold execAckTimer
  refine keptR_next ?_
  repeat'
    first
      | (with_reducible assumption)
      | (with_reducible apply kept_ackTimer)

theorem kept_dropUnroutable {s} (h0 : Kept q s) : Kept q (dropUnroutable s) := by
  unfold dropUnroutable
  repeat'
    first
      | (with_reducible assumption)
      | (with_reducible apply kept_routeDrop)
      | (refine kept_forEach (fun _ _ _ => ?_) ?_)
      | (with_reducible (refine Kept.mk ?_ ?_ ?_ ?_ ?_ <;> dsimp only <;> first | exact Kept.queue ‹_› | exact Kept.mem ‹_› | exact Kept.regs ‹_› | exact Kept.stalls ‹_› | exact Kept.units ‹_›))

theorem kept_sendNew {a0 a1 a2 a3 a4 s} (h5 : Kept q s) : Kept q (sendNew a0 a1 a2 a3 a4 s) := by
  unfold sendNew
  repeat'
    first
      | (with_reducible assumption)
      | (with_reducible apply kept_setTrace)
      | (with_reducible apply kept_timeOut)
      | (with_reducible apply kept_sendOut)
      | (with_reducible apply kept_freeCredits)
      | split
      | (with_reducible (refine Kept.mk ?_ ?_ ?_ ?_ ?_ <;> dsimp only <;> first | exact Kept.queue ‹_› | exact Kept.mem ‹_› | exact Kept.regs ‹_› | exact Kept.stalls ‹_› | exact Kept.units ‹_›))

theorem kept_sendReplay {a0 a1 a2 s} (h3 : Kept q s) : Kept q (sendReplay a0 a1 a2 s) := by
  unfold sendReplay
  repeat'
    first
      | (with_reducible assumption)
      | (with_reducible apply kept_setTrace)
      | (with_reducible apply kept_countFld)
      | (with_reducible apply kept_timeOut)
      | (with_reducible apply kept_sendOut)

theorem kept_packetTx {a0 a1 a2 s} (h3 : Kept q s) : Kept q (packetTx a0 a1 a2 s) := by
  unfold packetTx
  repeat'
    first
      | (with_reducible assumption)
      | (extract_lets +onlyGivenNames x; refine (fun (hx : Kept q x) => ?_) ?_; (rotate_left; unfold x; clear x; rotate_left); (try clear_value x); revert x; intro y hy)
      | (extract_lets +onlyGivenNames x; (try clear_value x); revert x; intro y)
      | (with_reducible apply kept_dropUnroutable)
      | (with_reducible apply kept_sendOut)
      | (with_reducible apply kept_setTrace)
      | (with_reducible apply kept_sendReplay)
      | (with_reducible apply kept_sendNew)
      | split

theorem kept_nakDue {a0 s} (h1 : Kept q s) : Kept q (nakDue a0 s) := by
  unfold nakDue
  repeat'
    first
      | (with_reducible assumption)
      | (with_reducible apply kept_countFld)
      | (with_reducible apply kept_lcpDue)
      | (with_reducible apply kept_setTrace)
      | (with_reducible apply kept_ite)

theorem kept_takeRecords {tr src n} : ∀ {b s}, Kept q s → Kept q (takeRecords tr src n b s) := by
  induction n with
  | zero => exact fun h => h
  | succ n ih =>
    intro b s h
    unfold takeRecords
    split
    · exact h
    · exact ih (kept_ite ⟨h.queue, h.mem, h.regs, h.stalls, h.units⟩ (kept_countFld h))

theorem kept_bulkRx {a0 a1 s} (h2 : Kept q s) : Kept q (bulkRx a0 a1 s) := by
  unfold bulkRx
  repeat'
    first
      | (with_reducible assumption)
      | (with_reducible apply kept_xbWrite)
      | (with_reducible apply kept_countFld)
      | (with_reducible apply kept_ite)
      | (with_reducible (refine Kept.mk ?_ ?_ ?_ ?_ ?_ <;> dsimp only <;> first | exact Kept.queue ‹_› | exact Kept.mem ‹_› | exact Kept.regs ‹_› | exact Kept.stalls ‹_› | exact Kept.units ‹_›))

theorem kept_deliver {a0 a1 a2 s} (h3 : Kept q s) : Kept q (deliver a0 a1 a2 s) := by
  unfold deliver
  repeat'
    first
      | (with_reducible assumption)
      | (with_reducible apply kept_freeCredits)
      | (with_reducible apply kept_bulkRx)
      | (with_reducible apply kept_takeRecords)
      | (with_reducible apply kept_ite)
      | (with_reducible (refine Kept.mk ?_ ?_ ?_ ?_ ?_ <;> dsimp only <;> first | exact Kept.queue ‹_› | exact Kept.mem ‹_› | exact Kept.regs ‹_› | exact Kept.stalls ‹_› | exact Kept.units ‹_›))

theorem kept_routePacket {a0 a1 a2 s} (h3 : Kept q s) : Kept q (routePacket a0 a1 a2 s) := by
  unfold routePacket
  repeat'
    first
      | (with_reducible assumption)
      | (with_reducible apply kept_routeDrop)
      | (with_reducible apply kept_freeCredits)
      | (with_reducible apply kept_deliver)
      | (with_reducible apply kept_linkPut)
      | split

theorem kept_dupTime {a0 a1 s} (h2 : Kept q s) : Kept q (dupTime a0 a1 s) := by
  unfold dupTime
  repeat'
    first
      | (with_reducible apply kept_setPtpPort)
      | (with_reducible apply kept_ite)
      | (with_reducible (refine Kept.mk ?_ ?_ ?_ ?_ ?_ <;> dsimp only <;> first | exact Kept.queue ‹_› | exact Kept.mem ‹_› | exact Kept.regs ‹_› | exact Kept.stalls ‹_› | exact Kept.units ‹_›))

theorem kept_dataRx {a0 a1 a2 a3 s} (h4 : Kept q s) : Kept q (dataRx a0 a1 a2 a3 s) := by
  unfold dataRx
  repeat'
    first
      | (with_reducible assumption)
      | (with_reducible apply kept_nakDue)
      | (with_reducible apply kept_lcpDue)
      | (with_reducible apply kept_dupTime)
      | (with_reducible apply kept_setTrace)
      | (with_reducible apply kept_countFld)
      | (with_reducible apply kept_freeCredits)
      | (with_reducible apply kept_routePacket)
      | (with_reducible apply kept_ite)

theorem kept_execDataPacketRx {a0 a1 a2 a3 s} (h4 : Kept q s) : KeptR q (execDataPacketRx a0 a1 a2 a3 s) := by
  unfold execDataPacketRx
  refine keptR_next ?_
  repeat'
    first
      | (with_reducible assumption)
      | (with_reducible apply kept_dataRx)

theorem kept_traceUpTimeout {a0 s} (h1 : Kept q s) : Kept q (traceUpTimeout a0 s) := by
  unfold traceUpTimeout
  repeat'
    first
      | (with_reducible assumption)
      | (extract_lets +onlyGivenNames x; refine (fun (hx : Kept q x) => ?_) ?_; (rotate_left; unfold x; clear x; rotate_left); (try clear_value x); revert x; intro y hy)
      | (extract_lets +onlyGivenNames x; (try clear_value x); revert x; intro y)
      | (with_reducible apply kept_setFld)
      | (with_reducible apply kept_setTrace)
      | (with_reducible apply kept_endJob)
      | split

theorem kept_execTraceUpTimeout {a0 s} (h1 : Kept q s) : KeptR q (execTraceUpTimeout a0 s) := by
  unfold execTraceUpTimeout
  refine keptR_next ?_
  repeat'
    first
      | (with_reducible assumption)
      | (with_reducible apply kept_traceUpTimeout)

theorem kept_elasticSlip {a0 a1 s} (h2 : Kept q s) : Kept q (elasticSlip a0 a1 s) := by
  unfold elasticSlip
  repeat'
    first
      | (with_reducible assumption)
      | (with_reducible apply kept_setBit)
      | (with_reducible apply kept_countFld)
      | (with_reducible apply kept_setTrace)
      | (with_reducible apply kept_ite)

theorem kept_execElasticSlip {a0 a1 s} (h2 : Kept q s) : KeptR q (execElasticSlip a0 a1 s) := by
  unfold execElasticSlip
  refine keptR_next ?_
  repeat'
    first
      | (with_reducible assumption)
      | (with_reducible apply kept_elasticSlip)

/-! ### Region -/

theorem kept_teamSlot {e b s} (h : Kept q s) : Kept q (teamSlot e b s).1 := by
  unfold teamSlot
  extract_lets qq k c
  split
  · exact h
  · split
    · dsimp only
      exact kept_ledgerAdd (kept_setOut h)
    · dsimp only
      exact kept_ledgerAdd (kept_setOut h)

theorem kept_slotSample {t e b s} (h : Kept q s) : Kept q (slotSample t e b s).1 := by
  unfold slotSample
  split
  · exact h
  · exact kept_teamSlot h

theorem kept_sectionSamples {t b es} : ∀ {s}, Kept q s → Kept q (sectionSamples t b es s).1 := by
  induction es with
  | nil => exact fun h => h
  | cons e es ih => exact fun h => ih (kept_slotSample h)

theorem kept_regionTx {a0 s} (h1 : Kept q s) : Kept q (regionTx a0 s) := by
  unfold regionTx
  repeat'
    first
      | (with_reducible assumption)
      | (extract_lets +onlyGivenNames x; refine (fun (hx : Kept q x) => ?_) ?_; (rotate_left; unfold x; clear x; rotate_left); (try clear_value x); revert x; intro y hy)
      | (extract_lets +onlyGivenNames x; refine (fun (hx : Kept q x.1) => ?_) ?_; (rotate_left; unfold x; clear x; rotate_left); (try clear_value x); revert x; intro y hy)
      | (extract_lets +onlyGivenNames x; (try clear_value x); revert x; intro y)
      | (with_reducible apply kept_setTrace)
      | (with_reducible apply kept_sendOut)
      | (with_reducible apply kept_sectionSamples)
      | (with_reducible apply kept_ite)
      | (with_reducible (refine Kept.mk ?_ ?_ ?_ ?_ ?_ <;> dsimp only <;> first | exact Kept.queue ‹_› | exact Kept.mem ‹_› | exact Kept.regs ‹_› | exact Kept.stalls ‹_› | exact Kept.units ‹_›))

theorem kept_execRegionTx {a0 s} (h1 : Kept q s) : KeptR q (execRegionTx a0 s) := by
  unfold execRegionTx
  refine keptR_next ?_
  repeat'
    first
      | (with_reducible assumption)
      | (with_reducible apply kept_regionTx)

theorem kept_setRxCell {a0 a1 s} (h2 : Kept q s) : Kept q (setRxCell a0 a1 s) := by
  unfold setRxCell
  repeat'
    first
      | (with_reducible (refine Kept.mk ?_ ?_ ?_ ?_ ?_ <;> dsimp only <;> first | exact Kept.queue ‹_› | exact Kept.mem ‹_› | exact Kept.regs ‹_› | exact Kept.stalls ‹_› | exact Kept.units ‹_›))

theorem kept_rxRing {i f v s} (h : Kept q s) : Kept q (rxRing i f v s).1 := kept_ringWrite h

theorem kept_rxLand {a0 a1 a2 s} (h3 : Kept q s) : Kept q (rxLand a0 a1 a2 s) := by
  unfold rxLand
  repeat'
    first
      | (with_reducible assumption)
      | (with_reducible apply kept_ledgerAdd)
      | (with_reducible apply kept_rxRing)
      | (with_reducible apply kept_setRxCell)
      | (with_reducible apply kept_ite)

theorem kept_rxReplace {a0 a1 a2 a3 s} (h4 : Kept q s) : Kept q (rxReplace a0 a1 a2 a3 s) := by
  unfold rxReplace
  repeat'
    first
      | (with_reducible assumption)
      | (with_reducible apply kept_rxRing)
      | (with_reducible apply kept_ledgerAdd)
      | (with_reducible apply kept_setRxCell)

theorem kept_rxFail {a0 a1 a2 s} (h3 : Kept q s) : Kept q (rxFail a0 a1 a2 s) := by
  unfold rxFail
  repeat'
    first
      | (with_reducible assumption)
      | (with_reducible apply kept_ledgerAdd)
      | (with_reducible apply kept_rxReplace)
      | (with_reducible apply kept_setRxCell)
      | (with_reducible apply kept_ite)

theorem kept_rxSection {a0 a1 a2 a3 s} (h4 : Kept q s) : Kept q (rxSection a0 a1 a2 a3 s) := by
  unfold rxSection
  repeat'
    first
      | (with_reducible assumption)
      | (with_reducible apply kept_rxLand)
      | (with_reducible apply kept_rxFail)
      | (refine kept_forEach (fun _ _ _ => ?_) ?_)
      | split

theorem kept_replaceTrace {a0 a1 a2 s} (h3 : Kept q s) : Kept q (replaceTrace a0 a1 a2 s) := by
  unfold replaceTrace
  repeat'
    first
      | (with_reducible assumption)
      | (with_reducible apply kept_rxSection)

theorem kept_mirrorRx {a0 s} (h1 : Kept q s) : Kept q (mirrorRx a0 s) := by
  unfold mirrorRx
  repeat'
    first
      | (with_reducible assumption)
      | (with_reducible apply kept_ite)
      | (with_reducible (refine Kept.mk ?_ ?_ ?_ ?_ ?_ <;> dsimp only <;> first | exact Kept.queue ‹_› | exact Kept.mem ‹_› | exact Kept.regs ‹_› | exact Kept.stalls ‹_› | exact Kept.units ‹_›))

theorem kept_noteMargin {a0 a1 s} (h2 : Kept q s) : Kept q (noteMargin a0 a1 s) := by
  unfold noteMargin
  repeat'
    first
      | (with_reducible apply kept_setFld)
      | (with_reducible (refine Kept.mk ?_ ?_ ?_ ?_ ?_ <;> dsimp only <;> first | exact Kept.queue ‹_› | exact Kept.mem ‹_› | exact Kept.regs ‹_› | exact Kept.stalls ‹_› | exact Kept.units ‹_›))

theorem kept_regionRx {a0 a1 a2 a3 a4 s} (h5 : Kept q s) : Kept q (regionRx a0 a1 a2 a3 a4 s) := by
  unfold regionRx
  repeat'
    first
      | (with_reducible assumption)
      | (extract_lets +onlyGivenNames x; refine (fun (hx : Kept q x) => ?_) ?_; (rotate_left; unfold x; clear x; rotate_left); (try clear_value x); revert x; intro y hy)
      | (extract_lets +onlyGivenNames x; (try clear_value x); revert x; intro y)
      | (with_reducible apply kept_setTrace)
      | (with_reducible apply kept_mirrorRx)
      | (with_reducible apply kept_setBit)
      | (with_reducible apply kept_replaceTrace)
      | (with_reducible apply kept_addFld)
      | (with_reducible apply kept_raise)
      | (with_reducible apply kept_rxSection)
      | (with_reducible apply kept_noteMargin)
      | split

theorem kept_execRegionRx {a0 a1 a2 a3 a4 s} (h5 : Kept q s) : KeptR q (execRegionRx a0 a1 a2 a3 a4 s) := by
  unfold execRegionRx
  refine keptR_next ?_
  repeat'
    first
      | (with_reducible assumption)
      | (with_reducible apply kept_regionRx)

theorem kept_rxBoundary {a0 a1 s} (h2 : Kept q s) : Kept q (rxBoundary a0 a1 s) := by
  unfold rxBoundary
  repeat'
    first
      | (with_reducible assumption)
      | (with_reducible apply kept_replaceTrace)
      | (with_reducible apply kept_addFld)
      | (with_reducible apply kept_ite)

/-! ### CmdGeneral -/

theorem kept_taken {o r s t} (h : Kept q s) (e : taken o r s = some t) : Kept q t := by
  unfold taken at e
  split at e
  · cases e
  · split at e
    · cases e
      exact ⟨h.queue, h.mem, h.regs, h.stalls, h.units⟩
    · cases e

theorem kept_echo {a0 s} (h1 : Kept q s) : KeptV q (echo a0 s) := by
  unfold echo
  repeat'
    first
      | (with_reducible assumption)
      | (with_reducible apply keptV_need)
      | (with_reducible apply keptV_okRep)

theorem kept_execEcho {a0 s} (h1 : Kept q s) : KeptR q (execEcho a0 s) := by
  unfold execEcho
  refine keptR_next ?_
  repeat'
    first
      | (with_reducible assumption)
      | (refine kept_serve (fun _ _ => ?_) ?_)
      | (with_reducible apply kept_echo)

theorem kept_identify {a0 s} (h1 : Kept q s) : KeptV q (identify a0 s) := by
  unfold identify
  repeat'
    first
      | (with_reducible assumption)
      | (with_reducible apply keptV_shaped)
      | (with_reducible apply keptV_okRep)

theorem kept_execIdentify {a0 s} (h1 : Kept q s) : KeptR q (execIdentify a0 s) := by
  unfold execIdentify
  refine keptR_next ?_
  repeat'
    first
      | (with_reducible assumption)
      | (refine kept_serve (fun _ _ => ?_) ?_)
      | (with_reducible apply kept_identify)

theorem kept_openSession {a0 a1 a2 s} (h3 : Kept q s) : KeptV q (openSession a0 a1 a2 s) := by
  unfold openSession
  repeat'
    first
      | (with_reducible apply keptV_need)
      | (with_reducible apply keptV_ok)
      | (with_reducible (refine Kept.mk ?_ ?_ ?_ ?_ ?_ <;> dsimp only <;> first | exact Kept.queue ‹_› | exact Kept.mem ‹_› | exact Kept.regs ‹_› | exact Kept.stalls ‹_› | exact Kept.units ‹_›))

theorem kept_sessionOpen {r a b s} (h : Kept q s) : Kept q (sessionOpen r a b s) := by
  unfold sessionOpen
  split
  · exact h
  · have h := kept_taken h ‹taken _ _ _ = some _›
    split
    · exact kept_answer h
    · split
      · exact kept_countFld (kept_queuePacket h)
      · split
        · exact kept_answer h
        · exact kept_answer (kept_openSession h _ _ ‹_ = Except.ok _›)

theorem kept_execSessionOpen {a0 a1 a2 s} (h3 : Kept q s) : KeptR q (execSessionOpen a0 a1 a2 s) := by
  unfold execSessionOpen
  refine keptR_next ?_
  repeat'
    first
      | (with_reducible assumption)
      | (with_reducible apply kept_sessionOpen)

theorem kept_sessionClose {r t s} (h : Kept q s) : Kept q (sessionClose r t s) := by
  unfold sessionClose
  split
  · exact h
  · have h := kept_taken h ‹taken _ _ _ = some _›
    split
    · exact kept_answer h
    · exact kept_closeSession (kept_answer (keptV_shaped (keptV_okRep h) _ _ ‹_ = Except.ok _›))

theorem kept_execSessionClose {a0 a1 s} (h2 : Kept q s) : KeptR q (execSessionClose a0 a1 s) := by
  unfold execSessionClose
  refine keptR_next ?_
  repeat'
    first
      | (with_reducible assumption)
      | (with_reducible apply kept_sessionClose)

theorem keptV_keyChecks {r s} {k : Service} (h : KeptV q k) : KeptV q (keyChecks r s k) := by
  unfold keyChecks
  refine keptV_need ?_
  split
  · split
    · exact keptV_errRep
    · exact h
  · split
    · exact keptV_errRep
    · exact h
  · exact keptV_errRep

theorem kept_setKey {a0 a1 s} (h2 : Kept q s) : Kept q (setKey a0 a1 s) := by
  unfold setKey
  repeat'
    first
      | (with_reducible (refine Kept.mk ?_ ?_ ?_ ?_ ?_ <;> dsimp only <;> first | exact Kept.queue ‹_› | exact Kept.mem ‹_› | exact Kept.regs ‹_› | exact Kept.stalls ‹_› | exact Kept.units ‹_›))

theorem kept_keyLoad {a0 s} (h1 : Kept q s) : KeptV q (keyLoad a0 s) := by
  unfold keyLoad
  repeat'
    first
      | (with_reducible assumption)
      | (with_reducible apply keptV_shaped)
      | (with_reducible apply keptV_keyChecks)
      | (with_reducible apply keptV_okRep)
      | (with_reducible apply kept_setKey)

theorem kept_execKeyLoad {a0 s} (h1 : Kept q s) : KeptR q (execKeyLoad a0 s) := by
  unfold execKeyLoad
  refine keptR_next ?_
  repeat'
    first
      | (with_reducible assumption)
      | (refine kept_serve (fun _ _ => ?_) ?_)
      | (with_reducible apply kept_keyLoad)

theorem kept_keyClear {a0 s} (h1 : Kept q s) : KeptV q (keyClear a0 s) := by
  unfold keyClear
  repeat'
    first
      | (with_reducible assumption)
      | (with_reducible apply keptV_shaped)
      | (with_reducible apply keptV_keyChecks)
      | (with_reducible apply keptV_okRep)
      | (with_reducible apply kept_setKey)

theorem kept_execKeyClear {a0 s} (h1 : Kept q s) : KeptR q (execKeyClear a0 s) := by
  unfold execKeyClear
  refine keptR_next ?_
  repeat'
    first
      | (with_reducible assumption)
      | (refine kept_serve (fun _ _ => ?_) ?_)
      | (with_reducible apply kept_keyClear)

theorem kept_jobStatus {a0 s} (h1 : Kept q s) : KeptV q (jobStatus a0 s) := by
  unfold jobStatus
  repeat'
    first
      | (with_reducible assumption)
      | (with_reducible apply keptV_shaped)
      | (with_reducible apply keptV_errRep)
      | (with_reducible apply keptV_okRep)
      | split
      | (with_reducible (refine Kept.mk ?_ ?_ ?_ ?_ ?_ <;> dsimp only <;> first | exact Kept.queue ‹_› | exact Kept.mem ‹_› | exact Kept.regs ‹_› | exact Kept.stalls ‹_› | exact Kept.units ‹_›))

theorem kept_execJobStatus {a0 s} (h1 : Kept q s) : KeptR q (execJobStatus a0 s) := by
  unfold execJobStatus
  refine keptR_next ?_
  repeat'
    first
      | (with_reducible assumption)
      | (refine kept_serve (fun _ _ => ?_) ?_)
      | (with_reducible apply kept_jobStatus)

theorem kept_jobCancel {a0 s} (h1 : Kept q s) : KeptV q (jobCancel a0 s) := by
  unfold jobCancel
  repeat'
    first
      | (with_reducible assumption)
      | (with_reducible apply keptV_shaped)
      | (with_reducible apply keptV_errRep)
      | (with_reducible apply keptV_need)
      | (with_reducible apply keptV_okRep)
      | (with_reducible apply kept_setJob)
      | split

theorem kept_execJobCancel {a0 s} (h1 : Kept q s) : KeptR q (execJobCancel a0 s) := by
  unfold execJobCancel
  refine keptR_next ?_
  repeat'
    first
      | (with_reducible assumption)
      | (refine kept_serve (fun _ _ => ?_) ?_)
      | (with_reducible apply kept_jobCancel)

theorem kept_eventRead {a0 s} (h1 : Kept q s) : KeptV q (eventRead a0 s) := by
  unfold eventRead
  repeat'
    first
      | (with_reducible assumption)
      | (with_reducible apply keptV_shaped)
      | (with_reducible apply keptV_need)
      | (with_reducible apply keptV_okRep)

theorem kept_execEventRead {a0 s} (h1 : Kept q s) : KeptR q (execEventRead a0 s) := by
  unfold execEventRead
  refine keptR_next ?_
  repeat'
    first
      | (with_reducible assumption)
      | (refine kept_serve (fun _ _ => ?_) ?_)
      | (with_reducible apply kept_eventRead)

theorem kept_eventCfg {a0 s} (h1 : Kept q s) : KeptV q (eventCfg a0 s) := by
  unfold eventCfg
  repeat'
    first
      | (with_reducible assumption)
      | (with_reducible apply keptV_shaped)
      | (with_reducible apply keptV_okRep)
      | (with_reducible apply kept_setSession)
      | split

theorem kept_execEventCfg {a0 s} (h1 : Kept q s) : KeptR q (execEventCfg a0 s) := by
  unfold execEventCfg
  refine keptR_next ?_
  repeat'
    first
      | (with_reducible assumption)
      | (refine kept_serve (fun _ _ => ?_) ?_)
      | (with_reducible apply kept_eventCfg)

/-! ### Transport -/

theorem kept_rxDrop {s} (h0 : Kept q s) : Kept q (rxDrop s) := by
  unfold rxDrop
  repeat'
    first
      | (with_reducible assumption)
      | (with_reducible apply kept_countFld)

theorem kept_rxNoRoom {s} (h0 : Kept q s) : Kept q (rxNoRoom s) := by
  unfold rxNoRoom
  repeat'
    first
      | (with_reducible assumption)
      | (with_reducible apply kept_setBit)
      | (with_reducible apply kept_rxDrop)

theorem kept_rxPut {a0 s} (h1 : Kept q s) : Kept q (rxPut a0 s) := by
  unfold rxPut
  repeat'
    first
      | (with_reducible (refine Kept.mk ?_ ?_ ?_ ?_ ?_ <;> dsimp only <;> first | exact Kept.queue ‹_› | exact Kept.mem ‹_› | exact Kept.regs ‹_› | exact Kept.stalls ‹_› | exact Kept.units ‹_›))

theorem kept_spiWritePacket {a0 s} (h1 : Kept q s) : Kept q (spiWritePacket a0 s) := by
  unfold spiWritePacket
  repeat'
    first
      | (with_reducible assumption)
      | (with_reducible apply kept_rxNoRoom)
      | (with_reducible apply kept_rxPut)
      | (with_reducible apply kept_ite)
      | (with_reducible (refine Kept.mk ?_ ?_ ?_ ?_ ?_ <;> dsimp only <;> first | exact Kept.queue ‹_› | exact Kept.mem ‹_› | exact Kept.regs ‹_› | exact Kept.stalls ‹_› | exact Kept.units ‹_›))

theorem kept_execSpiWritePacket {a0 s} (h1 : Kept q s) : KeptR q (execSpiWritePacket a0 s) := by
  unfold execSpiWritePacket
  refine keptR_next ?_
  repeat'
    first
      | (with_reducible assumption)
      | (with_reducible apply kept_spiWritePacket)

theorem kept_spiReadPacket {a0 s} (h1 : Kept q s) : Kept q (spiReadPacket a0 s) := by
  unfold spiReadPacket
  repeat'
    first
      | (with_reducible assumption)
      | (extract_lets +onlyGivenNames x; refine (fun (hx : Kept q x) => ?_) ?_; (rotate_left; unfold x; clear x; rotate_left); (try clear_value x); revert x; intro y hy)
      | (with_reducible apply kept_sendOut)
      | split
      | (with_reducible (refine Kept.mk ?_ ?_ ?_ ?_ ?_ <;> dsimp only <;> first | exact Kept.queue ‹_› | exact Kept.mem ‹_› | exact Kept.regs ‹_› | exact Kept.stalls ‹_› | exact Kept.units ‹_›))

theorem kept_execSpiReadPacket {a0 s} (h1 : Kept q s) : KeptR q (execSpiReadPacket a0 s) := by
  unfold execSpiReadPacket
  refine keptR_next ?_
  repeat'
    first
      | (with_reducible assumption)
      | (with_reducible apply kept_spiReadPacket)

theorem kept_execSpiReadStatus {s} (h0 : Kept q s) : KeptR q (execSpiReadStatus s) := by
  unfold execSpiReadStatus
  refine keptR_next ?_
  repeat'
    first
      | (with_reducible assumption)
      | (with_reducible apply kept_sendOut)
      | (with_reducible apply kept_ite)
      | (with_reducible (refine Kept.mk ?_ ?_ ?_ ?_ ?_ <;> dsimp only <;> first | exact Kept.queue ‹_› | exact Kept.mem ‹_› | exact Kept.regs ‹_› | exact Kept.stalls ‹_› | exact Kept.units ‹_›))

theorem kept_execRqTailDoorbell {a0 a1 s} (h2 : Kept q s) : KeptR q (execRqTailDoorbell a0 a1 s) := by
  unfold execRqTailDoorbell
  refine keptR_next ?_
  repeat'
    first
      | (with_reducible assumption)
      | (with_reducible apply kept_setFld)

theorem kept_requestFetch {a0 a1 a2 a3 s} (h4 : Kept q s) : Kept q (requestFetch a0 a1 a2 a3 s) := by
  unfold requestFetch
  repeat'
    first
      | (with_reducible assumption)
      | (with_reducible apply kept_setFld)
      | (with_reducible apply kept_countFld)
      | (with_reducible apply kept_setBit)
      | (with_reducible apply kept_rxPut)
      | (with_reducible apply kept_ite)

theorem kept_execPcieRequestFetch {a0 a1 a2 a3 s} (h4 : Kept q s) : KeptR q (execPcieRequestFetch a0 a1 a2 a3 s) := by
  unfold execPcieRequestFetch
  refine keptR_next ?_
  repeat'
    first
      | (with_reducible assumption)
      | (with_reducible apply kept_requestFetch)

theorem kept_qpCtrlWrite {a0 a1 s} (h2 : Kept q s) : Kept q (qpCtrlWrite a0 a1 s) := by
  unfold qpCtrlWrite
  repeat'
    first
      | (with_reducible assumption)
      | (with_reducible apply kept_setFld)

theorem kept_execQpCtrlWrite {a0 a1 s} (h2 : Kept q s) : KeptR q (execQpCtrlWrite a0 a1 s) := by
  unfold execQpCtrlWrite
  refine keptR_next ?_
  repeat'
    first
      | (with_reducible assumption)
      | (with_reducible apply kept_qpCtrlWrite)

theorem kept_netPut {a0 s} (h1 : Kept q s) : Kept q (netPut a0 s) := by
  unfold netPut
  repeat'
    first
      | (with_reducible assumption)
      | (with_reducible apply kept_rxNoRoom)
      | (with_reducible apply kept_rxPut)
      | (with_reducible apply kept_ite)

theorem kept_hoeFrameRx {a0 a1 a2 a3 a4 s} (h5 : Kept q s) : Kept q (hoeFrameRx a0 a1 a2 a3 a4 s) := by
  unfold hoeFrameRx
  repeat'
    first
      | (with_reducible assumption)
      | (with_reducible apply kept_rxDrop)
      | (with_reducible apply kept_netPut)
      | (with_reducible apply kept_ite)

theorem kept_execHoeFrameRx {a0 a1 a2 a3 a4 s} (h5 : Kept q s) : KeptR q (execHoeFrameRx a0 a1 a2 a3 a4 s) := by
  unfold execHoeFrameRx
  refine keptR_next ?_
  repeat'
    first
      | (with_reducible assumption)
      | (with_reducible apply kept_hoeFrameRx)

theorem kept_udpRx {a0 a1 s} (h2 : Kept q s) : Kept q (udpRx a0 a1 s) := by
  unfold udpRx
  repeat'
    first
      | (with_reducible assumption)
      | (with_reducible apply kept_formatFail)
      | (with_reducible apply kept_netPut)
      | (with_reducible apply kept_ite)

theorem kept_execUdpDatagramRx {a0 a1 s} (h2 : Kept q s) : KeptR q (execUdpDatagramRx a0 a1 s) := by
  unfold execUdpDatagramRx
  refine keptR_next ?_
  repeat'
    first
      | (with_reducible assumption)
      | (with_reducible apply kept_udpRx)

theorem kept_arpRequestRx {a0 a1 a2 a3 s} (h4 : Kept q s) : Kept q (arpRequestRx a0 a1 a2 a3 s) := by
  unfold arpRequestRx
  repeat'
    first
      | (with_reducible assumption)
      | (with_reducible apply kept_sendOut)
      | (with_reducible apply kept_ite)

theorem kept_execArpRequestRx {a0 a1 a2 a3 s} (h4 : Kept q s) : KeptR q (execArpRequestRx a0 a1 a2 a3 s) := by
  unfold execArpRequestRx
  refine keptR_next ?_
  repeat'
    first
      | (with_reducible assumption)
      | (with_reducible apply kept_arpRequestRx)

theorem kept_arpReplyRx {a0 a1 a2 s} (h3 : Kept q s) : Kept q (arpReplyRx a0 a1 a2 s) := by
  unfold arpReplyRx
  repeat'
    first
      | (with_reducible assumption)
      | (with_reducible apply kept_udpOut)
      | (refine kept_forEach (fun _ _ _ => ?_) ?_)
      | (with_reducible apply kept_ite)
      | (with_reducible (refine Kept.mk ?_ ?_ ?_ ?_ ?_ <;> dsimp only <;> first | exact Kept.queue ‹_› | exact Kept.mem ‹_› | exact Kept.regs ‹_› | exact Kept.stalls ‹_› | exact Kept.units ‹_›))

theorem kept_execArpCacheExpiry {a0 s} (h1 : Kept q s) : KeptR q (execArpCacheExpiry a0 s) := by
  unfold execArpCacheExpiry
  refine keptR_next ?_
  repeat'
    first
      | (with_reducible (refine Kept.mk ?_ ?_ ?_ ?_ ?_ <;> dsimp only <;> first | exact Kept.queue ‹_› | exact Kept.mem ‹_› | exact Kept.regs ‹_› | exact Kept.stalls ‹_› | exact Kept.units ‹_›))

theorem kept_ethLinkUp {a0 s} (h1 : Kept q s) : Kept q (ethLinkUp a0 s) := by
  unfold ethLinkUp
  repeat'
    first
      | (with_reducible assumption)
      | (with_reducible apply kept_sendOut)
      | (with_reducible apply kept_ite)

theorem kept_execEthLinkUp {a0 s} (h1 : Kept q s) : KeptR q (execEthLinkUp a0 s) := by
  unfold execEthLinkUp
  refine keptR_next ?_
  repeat'
    first
      | (with_reducible assumption)
      | (with_reducible apply kept_ethLinkUp)

theorem kept_dropOwn {a0 a1 s} (h2 : Kept q s) : Kept q (dropOwn a0 a1 s) := by
  unfold dropOwn
  repeat'
    first
      | (with_reducible (refine Kept.mk ?_ ?_ ?_ ?_ ?_ <;> dsimp only <;> first | exact Kept.queue ‹_› | exact Kept.mem ‹_› | exact Kept.regs ‹_› | exact Kept.stalls ‹_› | exact Kept.units ‹_›))

theorem kept_compileUnreachable {a0 s} (h1 : Kept q s) : Kept q (compileUnreachable a0 s) := by
  unfold compileUnreachable
  repeat'
    first
      | (with_reducible assumption)
      | (extract_lets +onlyGivenNames x; refine (fun (hx : Kept q x) => ?_) ?_; (rotate_left; unfold x; clear x; rotate_left); (try clear_value x); revert x; intro y hy)
      | (with_reducible apply kept_withdrawOut)
      | (with_reducible apply kept_compileFail)
      | (refine kept_forEach (fun _ _ _ => ?_) ?_)
      | split

theorem kept_peerUnreachable {a0 s} (h1 : Kept q s) : Kept q (peerUnreachable a0 s) := by
  unfold peerUnreachable
  repeat'
    first
      | (with_reducible assumption)
      | (extract_lets +onlyGivenNames x; refine (fun (hx : Kept q x) => ?_) ?_; (rotate_left; unfold x; clear x; rotate_left); (try clear_value x); revert x; intro y hy)
      | (with_reducible apply kept_dropOwn)
      | (with_reducible apply kept_compileUnreachable)
      | (with_reducible apply kept_ite)
      | (with_reducible (refine Kept.mk ?_ ?_ ?_ ?_ ?_ <;> dsimp only <;> first | exact Kept.queue ‹_› | exact Kept.mem ‹_› | exact Kept.regs ‹_› | exact Kept.stalls ‹_› | exact Kept.units ‹_›))

theorem kept_cmdResend {a0 a1 s} (h2 : Kept q s) : Kept q (cmdResend a0 a1 s) := by
  unfold cmdResend
  repeat'
    first
      | (with_reducible assumption)
      | (with_reducible apply kept_sendTo)
      | (with_reducible apply kept_peerUnreachable)
      | split
      | (with_reducible (refine Kept.mk ?_ ?_ ?_ ?_ ?_ <;> dsimp only <;> first | exact Kept.queue ‹_› | exact Kept.mem ‹_› | exact Kept.regs ‹_› | exact Kept.stalls ‹_› | exact Kept.units ‹_›))

theorem kept_execCmdResend {a0 a1 s} (h2 : Kept q s) : KeptR q (execCmdResend a0 a1 s) := by
  unfold execCmdResend
  refine keptR_next ?_
  repeat'
    first
      | (with_reducible assumption)
      | (with_reducible apply kept_cmdResend)

theorem kept_takeAnswer {a0 s} (h1 : Kept q s) : Kept q (takeAnswer a0 s) := by
  unfold takeAnswer
  repeat'
    first
      | (with_reducible assumption)
      | (extract_lets +onlyGivenNames x; refine (fun (hx : Kept q x) => ?_) ?_; (rotate_left; unfold x; clear x; rotate_left); (try clear_value x); revert x; intro y hy)
      | (with_reducible apply kept_dropOwn)
      | (with_reducible apply kept_ownOpened)
      | (with_reducible apply kept_sendOwn)
      | split
      | (with_reducible (refine Kept.mk ?_ ?_ ?_ ?_ ?_ <;> dsimp only <;> first | exact Kept.queue ‹_› | exact Kept.mem ‹_› | exact Kept.regs ‹_› | exact Kept.stalls ‹_› | exact Kept.units ‹_›))

theorem kept_commandReplyRx {a0 s} (h1 : Kept q s) : Kept q (commandReplyRx a0 s) := by
  unfold commandReplyRx
  repeat'
    first
      | (with_reducible assumption)
      | (extract_lets +onlyGivenNames x; refine (fun (hx : Kept q x) => ?_) ?_; (rotate_left; unfold x; clear x; rotate_left); (try clear_value x); revert x; intro y hy)
      | (extract_lets +onlyGivenNames x; (try clear_value x); revert x; intro y)
      | (with_reducible apply kept_formatFail)
      | (with_reducible apply kept_crcFail)
      | (with_reducible apply kept_takeAnswer)
      | split
      | (with_reducible (refine Kept.mk ?_ ?_ ?_ ?_ ?_ <;> dsimp only <;> first | exact Kept.queue ‹_› | exact Kept.mem ‹_› | exact Kept.regs ‹_› | exact Kept.stalls ‹_› | exact Kept.units ‹_›))

theorem kept_execCommandReplyRx {a0 s} (h1 : Kept q s) : KeptR q (execCommandReplyRx a0 s) := by
  unfold execCommandReplyRx
  refine keptR_next ?_
  repeat'
    first
      | (with_reducible assumption)
      | (with_reducible apply kept_commandReplyRx)

/-! ### LinkCmd -/

theorem kept_traceStart {a0 a1 a2 a3 a4 a5 a6 a7 s} (h8 : Kept q s) : Kept q (traceStart a0 a1 a2 a3 a4 a5 a6 a7 s) := by
  unfold traceStart
  repeat'
    first
      | (with_reducible assumption)
      | (with_reducible apply kept_setFld)
      | (with_reducible apply kept_setTraceState)
      | (with_reducible apply kept_showLanes)
      | (with_reducible apply kept_setTrace)
      | (refine kept_forEach (fun _ _ _ => ?_) ?_)

theorem kept_traceUpCmd {a0 a1 s} (h2 : Kept q s) : KeptV q (traceUpCmd a0 a1 s) := by
  unfold traceUpCmd
  repeat'
    first
      | (with_reducible assumption)
      | (with_reducible apply keptV_shaped)
      | (with_reducible apply keptV_need)
      | (with_reducible apply keptV_errRep)
      | (refine keptV_startJob (fun _ _ _ => ?_) ?_)
      | (with_reducible apply kept_traceStart)
      | split

theorem kept_execTraceUp {a0 a1 s} (h2 : Kept q s) : KeptR q (execTraceUp a0 a1 s) := by
  unfold execTraceUp
  refine keptR_next ?_
  repeat'
    first
      | (with_reducible assumption)
      | (refine kept_serve (fun _ _ => ?_) ?_)
      | (with_reducible apply kept_traceUpCmd)

theorem kept_queueDrop {a0 s} (h1 : Kept q s) : Kept q (queueDrop a0 s) := by
  unfold queueDrop
  repeat'
    first
      | (with_reducible assumption)
      | (with_reducible apply kept_setTrace)
      | (with_reducible apply kept_freeCredits)
      | (refine kept_forEach (fun _ _ _ => ?_) ?_)
      | split

theorem kept_traceStop {a0 s} (h1 : Kept q s) : Kept q (traceStop a0 s) := by
  unfold traceStop
  repeat'
    first
      | (with_reducible assumption)
      | (extract_lets +onlyGivenNames x; refine (fun (hx : Kept q x) => ?_) ?_; (rotate_left; unfold x; clear x; rotate_left); (try clear_value x); revert x; intro y hy)
      | (extract_lets +onlyGivenNames x; (try clear_value x); revert x; intro y)
      | (with_reducible apply kept_traceFail)
      | (with_reducible apply kept_setTraceState)
      | (with_reducible apply kept_setFld)
      | (with_reducible apply kept_setTrace)
      | (with_reducible apply kept_setRegWord)
      | (with_reducible apply kept_selectRef)
      | (with_reducible apply kept_queueDrop)
      | (with_reducible apply kept_endJob)
      | (refine kept_forEach (fun _ _ _ => ?_) ?_)
      | split

theorem kept_traceDownCmd {a0 s} (h1 : Kept q s) : KeptV q (traceDownCmd a0 s) := by
  unfold traceDownCmd
  repeat'
    first
      | (with_reducible assumption)
      | (with_reducible apply keptV_shaped)
      | (with_reducible apply keptV_need)
      | (with_reducible apply keptV_okRep)
      | (with_reducible apply kept_traceStop)

theorem kept_execTraceDown {a0 s} (h1 : Kept q s) : KeptR q (execTraceDown a0 s) := by
  unfold execTraceDown
  refine keptR_next ?_
  repeat'
    first
      | (with_reducible assumption)
      | (refine kept_serve (fun _ _ => ?_) ?_)
      | (with_reducible apply kept_traceDownCmd)

theorem kept_linkStatus {a0 s} (h1 : Kept q s) : KeptV q (linkStatus a0 s) := by
  unfold linkStatus
  repeat'
    first
      | (with_reducible assumption)
      | (with_reducible apply keptV_shaped)
      | (with_reducible apply keptV_need)
      | (with_reducible apply keptV_okRep)

theorem kept_execLinkStatus {a0 s} (h1 : Kept q s) : KeptR q (execLinkStatus a0 s) := by
  unfold execLinkStatus
  refine keptR_next ?_
  repeat'
    first
      | (with_reducible assumption)
      | (refine kept_serve (fun _ _ => ?_) ?_)
      | (with_reducible apply kept_linkStatus)

theorem kept_setPrbs {a0 a1 s} (h2 : Kept q s) : Kept q (setPrbs a0 a1 s) := by
  unfold setPrbs
  repeat'
    first
      | (with_reducible (refine Kept.mk ?_ ?_ ?_ ?_ ?_ <;> dsimp only <;> first | exact Kept.queue ‹_› | exact Kept.mem ‹_› | exact Kept.regs ‹_› | exact Kept.stalls ‹_› | exact Kept.units ‹_›))

theorem kept_prbsRun {a0 s} (h1 : Kept q s) : KeptV q (prbsRun a0 s) := by
  unfold prbsRun
  repeat'
    first
      | (with_reducible assumption)
      | (with_reducible apply keptV_shaped)
      | (with_reducible apply keptV_need)
      | (with_reducible apply keptV_errRep)
      | (with_reducible apply keptV_okRep)
      | (with_reducible apply kept_setFld)
      | (with_reducible apply kept_setPrbs)
      | (refine kept_forEach (fun _ _ _ => ?_) ?_)
      | split

theorem kept_execPrbsRun {a0 s} (h1 : Kept q s) : KeptR q (execPrbsRun a0 s) := by
  unfold execPrbsRun
  refine keptR_next ?_
  repeat'
    first
      | (with_reducible assumption)
      | (refine kept_serve (fun _ _ => ?_) ?_)
      | (with_reducible apply kept_prbsRun)

theorem kept_prbsLock {a0 s} (h1 : Kept q s) : Kept q (prbsLock a0 s) := by
  unfold prbsLock
  repeat'
    first
      | (with_reducible assumption)
      | (with_reducible apply kept_setPrbs)
      | (with_reducible apply kept_ite)

theorem kept_execPrbsLock {a0 s} (h1 : Kept q s) : KeptR q (execPrbsLock a0 s) := by
  unfold execPrbsLock
  refine keptR_next ?_
  repeat'
    first
      | (with_reducible assumption)
      | (with_reducible apply kept_prbsLock)

theorem kept_prbsCount {a0 a1 a2 s} (h3 : Kept q s) : Kept q (prbsCount a0 a1 a2 s) := by
  unfold prbsCount
  repeat'
    first
      | (with_reducible assumption)
      | (with_reducible apply kept_setPrbs)
      | (with_reducible apply kept_ite)

theorem kept_prbsRead {a0 a1 a2 s} (h3 : Kept q s) : KeptV q (prbsRead a0 a1 a2 s) := by
  unfold prbsRead
  repeat'
    first
      | (with_reducible assumption)
      | (with_reducible apply keptV_shaped)
      | (with_reducible apply keptV_need)
      | (with_reducible apply kept_prbsCount)
      | (with_reducible apply keptV_okRep)

theorem kept_execPrbsRead {a0 a1 a2 s} (h3 : Kept q s) : KeptR q (execPrbsRead a0 a1 a2 s) := by
  unfold execPrbsRead
  refine keptR_next ?_
  repeat'
    first
      | (with_reducible assumption)
      | (refine kept_serve (fun _ _ => ?_) ?_)
      | (with_reducible apply kept_prbsRead)

theorem kept_ethDrop {a0 s} (h1 : Kept q s) : Kept q (ethDrop a0 s) := by
  unfold ethDrop
  repeat'
    first
      | (with_reducible assumption)
      | (with_reducible apply kept_countFld)

theorem kept_hoeDeliver {a0 a1 a2 a3 a4 s} (h5 : Kept q s) : Kept q (hoeDeliver a0 a1 a2 a3 a4 s) := by
  unfold hoeDeliver
  repeat'
    first
      | (with_reducible assumption)
      | (extract_lets +onlyGivenNames x; (try clear_value x); revert x; intro y)
      | (with_reducible apply kept_hoeFrameRx)
      | (with_reducible apply kept_takeRecords)
      | (with_reducible apply kept_linkPut)
      | (with_reducible apply kept_routeDrop)
      | (with_reducible apply kept_ethDrop)
      | split

theorem kept_ethFrameRx {a0 a1 a2 a3 s} (h4 : Kept q s) : Kept q (ethFrameRx a0 a1 a2 a3 s) := by
  unfold ethFrameRx
  repeat'
    first
      | (with_reducible assumption)
      | (with_reducible apply kept_countFld)
      | (with_reducible apply kept_ethDrop)
      | (with_reducible apply kept_hoeDeliver)
      | (with_reducible apply kept_udpRx)
      | (with_reducible apply kept_arpRequestRx)
      | (with_reducible apply kept_arpReplyRx)
      | (with_reducible apply kept_ite)
      | (with_reducible (refine Kept.mk ?_ ?_ ?_ ?_ ?_ <;> dsimp only <;> first | exact Kept.queue ‹_› | exact Kept.mem ‹_› | exact Kept.regs ‹_› | exact Kept.stalls ‹_› | exact Kept.units ‹_›))

theorem kept_execEthFrameRx {a0 a1 a2 a3 s} (h4 : Kept q s) : KeptR q (execEthFrameRx a0 a1 a2 a3 s) := by
  unfold execEthFrameRx
  refine keptR_next ?_
  repeat'
    first
      | (with_reducible assumption)
      | (with_reducible apply kept_ethFrameRx)

theorem kept_auditStream {a0 a1 s} (h2 : Kept q s) : Kept q (auditStream a0 a1 s) := by
  unfold auditStream
  repeat'
    first
      | (with_reducible assumption)
      | (with_reducible apply kept_raiseAt)
      | (with_reducible apply kept_setBit)
      | (with_reducible apply kept_ite)
      | (with_reducible (refine Kept.mk ?_ ?_ ?_ ?_ ?_ <;> dsimp only <;> first | exact Kept.queue ‹_› | exact Kept.mem ‹_› | exact Kept.regs ‹_› | exact Kept.stalls ‹_› | exact Kept.units ‹_›))

theorem kept_auditSession {a0 a1 s} (h2 : Kept q s) : Kept q (auditSession a0 a1 s) := by
  unfold auditSession
  repeat'
    first
      | (with_reducible assumption)
      | (with_reducible apply kept_raiseAt)
      | (with_reducible apply kept_setBit)
      | (with_reducible apply kept_ite)

theorem kept_auditStep {a0 s} (h1 : Kept q s) : Kept q (auditStep a0 s) := by
  unfold auditStep
  repeat'
    first
      | (with_reducible assumption)
      | (extract_lets +onlyGivenNames x; refine (fun (hx : Kept q x) => ?_) ?_; (rotate_left; unfold x; clear x; rotate_left); (try clear_value x); revert x; intro y hy)
      | (extract_lets +onlyGivenNames x; (try clear_value x); revert x; intro y)
      | (with_reducible apply kept_setBit)
      | (with_reducible apply kept_clrBit)
      | (with_reducible apply kept_auditSession)
      | (with_reducible apply kept_auditStream)
      | (refine kept_forEach (fun _ _ _ => ?_) ?_)
      | split
      | (with_reducible (refine Kept.mk ?_ ?_ ?_ ?_ ?_ <;> dsimp only <;> first | exact Kept.queue ‹_› | exact Kept.mem ‹_› | exact Kept.regs ‹_› | exact Kept.stalls ‹_› | exact Kept.units ‹_›))

theorem kept_execAuditStep {a0 s} (h1 : Kept q s) : KeptR q (execAuditStep a0 s) := by
  unfold execAuditStep
  refine keptR_next ?_
  repeat'
    first
      | (with_reducible assumption)
      | (with_reducible apply kept_auditStep)

theorem kept_ledgerRead {a0 s} (h1 : Kept q s) : KeptV q (ledgerRead a0 s) := by
  unfold ledgerRead
  repeat'
    first
      | (with_reducible assumption)
      | (with_reducible apply keptV_shaped)
      | (with_reducible apply keptV_need)
      | (with_reducible apply keptV_errRep)
      | (with_reducible apply keptV_okRep)
      | split

theorem kept_execLedgerRead {a0 s} (h1 : Kept q s) : KeptR q (execLedgerRead a0 s) := by
  unfold execLedgerRead
  refine keptR_next ?_
  repeat'
    first
      | (with_reducible assumption)
      | (refine kept_serve (fun _ _ => ?_) ?_)
      | (with_reducible apply kept_ledgerRead)

end Sys2Proof.Machine
end

