-- ==== Sys2Proof/Laws/Kept6.lean ====
section
/-! SUPPORT. The operations of Machine/ Team, Clocks, Ptp, Mode keep the queue and the canonical form. -/

namespace Sys2Proof.Machine

variable {q : List Instr}

/-! ### Team -/

theorem kept_takeRec {p s r t} (h : Kept q s) (e : takeRec p s = some (r, t)) : Kept q t := by
  unfold takeRec at e
  obtain ⟨x, -, hx⟩ := Option.map_eq_some_iff.mp e
  cases hx
  exact ⟨h.queue, h.mem, h.regs, h.stalls, h.units⟩

theorem kept_showMembers {s} (h0 : Kept q s) : Kept q (showMembers s) := by
  unfold showMembers
  repeat'
    first
      | (with_reducible assumption)
      | (with_reducible apply kept_setFld)

theorem kept_announceOther {a0 a1 s} (h2 : Kept q s) : Kept q (announceOther a0 a1 s) := by
  unfold announceOther
  repeat'
    first
      | (with_reducible assumption)
      | (extract_lets +onlyGivenNames x; refine (fun (hx : Kept q x) => ?_) ?_; (rotate_left; unfold x; clear x; rotate_left); (try clear_value x); revert x; intro y hy)
      | (extract_lets +onlyGivenNames x; (try clear_value x); revert x; intro y)
      | (with_reducible apply kept_setBit)
      | (with_reducible apply kept_showMembers)
      | (with_reducible apply kept_sendRecordOn)
      | (with_reducible apply kept_teamJobCheck)
      | (with_reducible apply kept_teamUpdate)
      | (refine kept_forEach (fun _ _ _ => ?_) ?_)
      | split
      | (with_reducible (refine Kept.mk ?_ ?_ ?_ ?_ ?_ <;> dsimp only <;> first | exact Kept.queue ‹_› | exact Kept.mem ‹_› | exact Kept.regs ‹_› | exact Kept.stalls ‹_› | exact Kept.units ‹_›))

theorem kept_announceRx {s} (h : Kept q s) : Kept q (announceRx s) := by
  unfold announceRx
  split
  · exact h
  · have h := kept_takeRec h ‹takeRec _ _ = some (_, _)›
    exact kept_ite h (kept_ite (kept_ite h (kept_setBit h)) (kept_announceOther h))

theorem kept_execAnnounce {s} (h0 : Kept q s) : KeptR q (execAnnounce s) := by
  unfold execAnnounce
  refine keptR_next ?_
  repeat'
    first
      | (with_reducible assumption)
      | (with_reducible apply kept_announceRx)

theorem kept_execAnnouncePeriod {s} (h0 : Kept q s) : KeptR q (execAnnouncePeriod s) := by
  unfold execAnnouncePeriod
  refine keptR_next ?_
  repeat'
    first
      | (with_reducible assumption)
      | (with_reducible apply kept_announce)

theorem kept_memberLoss {a0 s} (h1 : Kept q s) : Kept q (memberLoss a0 s) := by
  unfold memberLoss
  repeat'
    first
      | (with_reducible assumption)
      | (with_reducible apply kept_showMembers)
      | (with_reducible apply kept_teamUpdate)
      | (with_reducible apply kept_raise)
      | (with_reducible apply kept_ite)
      | (with_reducible (refine Kept.mk ?_ ?_ ?_ ?_ ?_ <;> dsimp only <;> first | exact Kept.queue ‹_› | exact Kept.mem ‹_› | exact Kept.regs ‹_› | exact Kept.stalls ‹_› | exact Kept.units ‹_›))

theorem kept_execMemberLoss {a0 s} (h1 : Kept q s) : KeptR q (execMemberLoss a0 s) := by
  unfold execMemberLoss
  refine keptR_next ?_
  repeat'
    first
      | (with_reducible assumption)
      | (with_reducible apply kept_memberLoss)

theorem kept_teamForm {a0 a1 s} (h2 : Kept q s) : KeptV q (teamForm a0 a1 s) := by
  unfold teamForm
  repeat'
    first
      | (with_reducible assumption)
      | (with_reducible apply keptV_errRep)
      | (with_reducible apply keptV_shaped)
      | (with_reducible apply keptV_need)
      | (refine keptV_startJob (fun _ _ _ => ?_) ?_)
      | (with_reducible apply kept_sendRecord)
      | (with_reducible apply kept_joinTeam)
      | (refine kept_forEach (fun _ _ _ => ?_) ?_)
      | (with_reducible apply keptV_ite)

theorem kept_execTeamForm {a0 a1 s} (h2 : Kept q s) : KeptR q (execTeamForm a0 a1 s) := by
  unfold execTeamForm
  refine keptR_next ?_
  repeat'
    first
      | (with_reducible assumption)
      | (refine kept_serve (fun _ _ => ?_) ?_)
      | (with_reducible apply kept_teamForm)

theorem kept_teamLeave {a0 s} (h1 : Kept q s) : KeptV q (teamLeave a0 s) := by
  unfold teamLeave
  repeat'
    first
      | (with_reducible assumption)
      | (with_reducible apply keptV_shaped)
      | (with_reducible apply keptV_need)
      | (with_reducible apply keptV_okRep)
      | (with_reducible apply kept_leaveTeam)

theorem kept_execTeamLeave {a0 s} (h1 : Kept q s) : KeptR q (execTeamLeave a0 s) := by
  unfold execTeamLeave
  refine keptR_next ?_
  repeat'
    first
      | (with_reducible assumption)
      | (refine kept_serve (fun _ _ => ?_) ?_)
      | (with_reducible apply kept_teamLeave)

theorem kept_teamStatus {a0 s} (h1 : Kept q s) : KeptV q (teamStatus a0 s) := by
  unfold teamStatus
  repeat'
    first
      | (with_reducible assumption)
      | (with_reducible apply keptV_shaped)
      | (with_reducible apply keptV_okRep)

theorem kept_execTeamStatus {a0 s} (h1 : Kept q s) : KeptR q (execTeamStatus a0 s) := by
  unfold execTeamStatus
  refine keptR_next ?_
  repeat'
    first
      | (with_reducible assumption)
      | (refine kept_serve (fun _ _ => ?_) ?_)
      | (with_reducible apply kept_teamStatus)

theorem kept_teamRx {s} (h0 : Kept q s) : Kept q (teamRx s) := by
  unfold teamRx
  repeat'
    first
      | (with_reducible assumption)
      | (refine kept_takeRec ?_ ‹takeRec _ _ = some (_, _)›)
      | (with_reducible apply kept_joinTeam)
      | (with_reducible apply kept_sendRecord)
      | split

theorem kept_execTeam {s} (h0 : Kept q s) : KeptR q (execTeam s) := by
  unfold execTeam
  refine keptR_next ?_
  repeat'
    first
      | (with_reducible assumption)
      | (with_reducible apply kept_teamRx)

theorem kept_teamAckRx {s} (h0 : Kept q s) : Kept q (teamAckRx s) := by
  unfold teamAckRx
  repeat'
    first
      | (with_reducible assumption)
      | (extract_lets +onlyGivenNames x; (try clear_value x); revert x; intro y)
      | (refine kept_takeRec ?_ ‹takeRec _ _ = some (_, _)›)
      | (with_reducible apply kept_leaveTeam)
      | (with_reducible apply kept_endJob)
      | (with_reducible apply kept_teamJobCheck)
      | (with_reducible apply kept_setJob)
      | split

theorem kept_execTeamAck {s} (h0 : Kept q s) : KeptR q (execTeamAck s) := by
  unfold execTeamAck
  refine keptR_next ?_
  repeat'
    first
      | (with_reducible assumption)
      | (with_reducible apply kept_teamAckRx)

theorem kept_teamFormTimeout {a0 s} (h1 : Kept q s) : Kept q (teamFormTimeout a0 s) := by
  unfold teamFormTimeout
  repeat'
    first
      | (with_reducible assumption)
      | (with_reducible apply kept_leaveTeam)
      | (with_reducible apply kept_endJob)
      | split

theorem kept_execTeamFormTimeout {a0 s} (h1 : Kept q s) : KeptR q (execTeamFormTimeout a0 s) := by
  unfold execTeamFormTimeout
  refine keptR_next ?_
  repeat'
    first
      | (with_reducible assumption)
      | (with_reducible apply kept_teamFormTimeout)

theorem kept_sendStreamLists {a0 a1 a2 s} (h3 : Kept q s) : Kept q (sendStreamLists a0 a1 a2 s) := by
  unfold sendStreamLists
  repeat'
    first
      | (with_reducible assumption)
      | (with_reducible apply kept_sendRecordOn)
      | (refine kept_forEach (fun _ _ _ => ?_) ?_)

theorem kept_streamListRx {s} (h0 : Kept q s) : Kept q (streamListRx s) := by
  unfold streamListRx
  repeat'
    first
      | (with_reducible assumption)
      | (extract_lets +onlyGivenNames x; refine (fun (hx : Kept q x) => ?_) ?_; (rotate_left; unfold x; clear x; rotate_left); (try clear_value x); revert x; intro y hy)
      | (extract_lets +onlyGivenNames x; (try clear_value x); revert x; intro y)
      | (refine kept_takeRec ?_ ‹takeRec _ _ = some (_, _)›)
      | (with_reducible apply kept_setTrace)
      | (with_reducible apply kept_setBit)
      | split

theorem kept_execStreamList {s} (h0 : Kept q s) : KeptR q (execStreamList s) := by
  unfold execStreamList
  refine keptR_next ?_
  repeat'
    first
      | (with_reducible assumption)
      | (with_reducible apply kept_streamListRx)

/-! ### Clocks -/

theorem kept_loseAlignment {s} (h0 : Kept q s) : Kept q (loseAlignment s) := by
  unfold loseAlignment
  repeat'
    first
      | (with_reducible assumption)
      | (with_reducible apply kept_clrBit)
      | (refine kept_forEach (fun _ _ _ => ?_) ?_)

theorem kept_setAlign {a0 a1 s} (h2 : Kept q s) : Kept q (setAlign a0 a1 s) := by
  unfold setAlign
  repeat'
    first
      | (with_reducible apply kept_setFld)
      | (with_reducible (refine Kept.mk ?_ ?_ ?_ ?_ ?_ <;> dsimp only <;> first | exact Kept.queue ‹_› | exact Kept.mem ‹_› | exact Kept.regs ‹_› | exact Kept.stalls ‹_› | exact Kept.units ‹_›))

theorem kept_clkoutAlign {a0 s} (h1 : Kept q s) : KeptV q (clkoutAlign a0 s) := by
  unfold clkoutAlign
  repeat'
    first
      | (with_reducible assumption)
      | (with_reducible apply keptV_shaped)
      | (with_reducible apply keptV_need)
      | (with_reducible apply keptV_okRep)
      | (with_reducible apply kept_setAlign)
      | (refine kept_forEach (fun _ _ _ => ?_) ?_)

theorem kept_execClkoutAlign {a0 s} (h1 : Kept q s) : KeptR q (execClkoutAlign a0 s) := by
  unfold execClkoutAlign
  refine keptR_next ?_
  repeat'
    first
      | (with_reducible assumption)
      | (refine kept_serve (fun _ _ => ?_) ?_)
      | (with_reducible apply kept_clkoutAlign)

theorem kept_applyAligns {a0 s} (h1 : Kept q s) : Kept q (applyAligns a0 s) := by
  unfold applyAligns
  repeat'
    first
      | (with_reducible assumption)
      | (extract_lets +onlyGivenNames x; refine (fun (hx : Kept q x) => ?_) ?_; (rotate_left; unfold x; clear x; rotate_left); (try clear_value x); revert x; intro y hy)
      | (with_reducible apply kept_setAlign)
      | (with_reducible apply kept_countFld)
      | (with_reducible apply kept_setBit)
      | (refine kept_forEach (fun _ _ _ => ?_) ?_)
      | split

theorem kept_fsSet {a0 s} (h1 : Kept q s) : KeptV q (fsSet a0 s) := by
  unfold fsSet
  repeat'
    first
      | (with_reducible apply keptV_shaped)
      | (with_reducible apply keptV_need)
      | (with_reducible apply keptV_errRep)
      | (with_reducible apply kept_loseAlignment)
      | (with_reducible apply kept_setFld)
      | (with_reducible apply keptV_okRep)
      | (with_reducible apply kept_setBit)
      | split
      | (with_reducible (refine Kept.mk ?_ ?_ ?_ ?_ ?_ <;> dsimp only <;> first | exact Kept.queue ‹_› | exact Kept.mem ‹_› | exact Kept.regs ‹_› | exact Kept.stalls ‹_› | exact Kept.units ‹_›))

theorem kept_execFsSet {a0 s} (h1 : Kept q s) : KeptR q (execFsSet a0 s) := by
  unfold execFsSet
  refine keptR_next ?_
  repeat'
    first
      | (with_reducible assumption)
      | (refine kept_serve (fun _ _ => ?_) ?_)
      | (with_reducible apply kept_fsSet)

theorem kept_refSelect {a0 s} (h1 : Kept q s) : KeptV q (refSelect a0 s) := by
  unfold refSelect
  repeat'
    first
      | (with_reducible assumption)
      | (with_reducible apply keptV_shaped)
      | (with_reducible apply keptV_need)
      | (with_reducible apply keptV_okRep)
      | (with_reducible apply kept_selectRef)
      | (with_reducible apply kept_setFld)

theorem kept_execRefSelect {a0 s} (h1 : Kept q s) : KeptR q (execRefSelect a0 s) := by
  unfold execRefSelect
  refine keptR_next ?_
  repeat'
    first
      | (with_reducible assumption)
      | (refine kept_serve (fun _ _ => ?_) ?_)
      | (with_reducible apply kept_refSelect)

theorem kept_refGood {a0 a1 s} (h2 : Kept q s) : Kept q (refGood a0 a1 s) := by
  unfold refGood
  repeat'
    first
      | (with_reducible assumption)
      | (with_reducible apply kept_setFld)
      | (with_reducible apply kept_selectRef)
      | (with_reducible apply kept_setBit)
      | (with_reducible apply kept_ite)

theorem kept_execRefValid {a0 a1 s} (h2 : Kept q s) : KeptR q (execRefValid a0 a1 s) := by
  unfold execRefValid
  refine keptR_next ?_
  repeat'
    first
      | (with_reducible assumption)
      | (with_reducible apply kept_refGood)

theorem kept_refBad {a0 s} (h1 : Kept q s) : Kept q (refBad a0 s) := by
  unfold refBad
  repeat'
    first
      | (with_reducible assumption)
      | (with_reducible apply kept_selectRef)
      | (with_reducible apply kept_refDrop)
      | (with_reducible apply kept_ite)

theorem kept_execRefInvalid {a0 s} (h1 : Kept q s) : KeptR q (execRefInvalid a0 s) := by
  unfold execRefInvalid
  refine keptR_next ?_
  repeat'
    first
      | (with_reducible assumption)
      | (with_reducible apply kept_refBad)

theorem kept_refQualified {a0 s} (h1 : Kept q s) : Kept q (refQualified a0 s) := by
  unfold refQualified
  repeat'
    first
      | (with_reducible assumption)
      | (with_reducible apply kept_selectRef)
      | (with_reducible apply kept_clrBit)
      | (with_reducible apply kept_ite)

theorem kept_execRefQualified {a0 s} (h1 : Kept q s) : KeptR q (execRefQualified a0 s) := by
  unfold execRefQualified
  refine keptR_next ?_
  repeat'
    first
      | (with_reducible assumption)
      | (with_reducible apply kept_refQualified)

theorem kept_adoptMap {a0 a1 a2 a3 s} (h4 : Kept q s) : Kept q (adoptMap a0 a1 a2 a3 s) := by
  unfold adoptMap
  repeat'
    first
      | (with_reducible assumption)
      | (with_reducible apply kept_setBit)
      | (with_reducible apply kept_herdUpdate)
      | (with_reducible apply kept_loseAlignment)
      | (with_reducible apply kept_setFld)
      | (with_reducible apply kept_setMap)
      | (with_reducible apply kept_ite)
      | (with_reducible (refine Kept.mk ?_ ?_ ?_ ?_ ?_ <;> dsimp only <;> first | exact Kept.queue ‹_› | exact Kept.mem ‹_› | exact Kept.regs ‹_› | exact Kept.stalls ‹_› | exact Kept.units ‹_›))

theorem kept_rootAdopt {a0 a1 s} (h2 : Kept q s) : Kept q (rootAdopt a0 a1 s) := by
  unfold rootAdopt
  repeat'
    first
      | (with_reducible assumption)
      | (with_reducible apply kept_adoptMap)
      | (with_reducible apply kept_ite)

theorem kept_frameMapUse {a0 a1 s} (h2 : Kept q s) : Kept q (frameMapUse a0 a1 s) := by
  unfold frameMapUse
  repeat'
    first
      | (with_reducible assumption)
      | (with_reducible apply kept_adoptMap)
      | (with_reducible apply kept_setBit)
      | (with_reducible apply kept_ite)

theorem kept_frameMapRx {a0 s} (h1 : Kept q s) : Kept q (frameMapRx a0 s) := by
  unfold frameMapRx
  repeat'
    first
      | (with_reducible assumption)
      | (with_reducible apply kept_frameMapUse)
      | split
      | (with_reducible (refine Kept.mk ?_ ?_ ?_ ?_ ?_ <;> dsimp only <;> first | exact Kept.queue ‹_› | exact Kept.mem ‹_› | exact Kept.regs ‹_› | exact Kept.stalls ‹_› | exact Kept.units ‹_›))

theorem kept_execFrameMap {a0 s} (h1 : Kept q s) : KeptR q (execFrameMap a0 s) := by
  unfold execFrameMap
  refine keptR_next ?_
  repeat'
    first
      | (with_reducible assumption)
      | (with_reducible apply kept_frameMapRx)

theorem kept_remapAt {a0 a1 s} (h2 : Kept q s) : Kept q (remapAt a0 a1 s) := by
  unfold remapAt
  repeat'
    first
      | (with_reducible assumption)
      | (with_reducible apply kept_setFld)
      | (with_reducible apply kept_setMap)
      | (with_reducible apply kept_ite)
      | (with_reducible (refine Kept.mk ?_ ?_ ?_ ?_ ?_ <;> dsimp only <;> first | exact Kept.queue ‹_› | exact Kept.mem ‹_› | exact Kept.regs ‹_› | exact Kept.stalls ‹_› | exact Kept.units ‹_›))

theorem kept_dpllLock {a0 a1 a2 s} (h3 : Kept q s) : Kept q (dpllLock a0 a1 a2 s) := by
  unfold dpllLock
  repeat'
    first
      | (with_reducible assumption)
      | (extract_lets +onlyGivenNames x; refine (fun (hx : Kept q x) => ?_) ?_; (rotate_left; unfold x; clear x; rotate_left); (try clear_value x); revert x; intro y hy)
      | (extract_lets +onlyGivenNames x; (try clear_value x); revert x; intro y)
      | (with_reducible apply kept_setFld)
      | (with_reducible apply kept_loseAlignment)
      | (with_reducible apply kept_teamJobCheck)
      | (with_reducible apply kept_lockFollow)
      | (with_reducible apply kept_rootAdopt)
      | (with_reducible apply kept_ite)
      | (with_reducible (refine Kept.mk ?_ ?_ ?_ ?_ ?_ <;> dsimp only <;> first | exact Kept.queue ‹_› | exact Kept.mem ‹_› | exact Kept.regs ‹_› | exact Kept.stalls ‹_› | exact Kept.units ‹_›))

theorem kept_execDpllLock {a0 a1 a2 s} (h3 : Kept q s) : KeptR q (execDpllLock a0 a1 a2 s) := by
  unfold execDpllLock
  refine keptR_next ?_
  repeat'
    first
      | (with_reducible assumption)
      | (with_reducible apply kept_dpllLock)

theorem kept_dpllLockLoss {a0 a1 s} (h2 : Kept q s) : Kept q (dpllLockLoss a0 a1 s) := by
  unfold dpllLockLoss
  repeat'
    first
      | (with_reducible assumption)
      | (with_reducible apply kept_lockFollow)
      | (with_reducible apply kept_setFld)
      | (with_reducible apply kept_ite)

theorem kept_execDpllLockLoss {a0 a1 s} (h2 : Kept q s) : KeptR q (execDpllLockLoss a0 a1 s) := by
  unfold execDpllLockLoss
  refine keptR_next ?_
  repeat'
    first
      | (with_reducible assumption)
      | (with_reducible apply kept_dpllLockLoss)

theorem kept_historySample {a0 s} (h1 : Kept q s) : Kept q (historySample a0 s) := by
  unfold historySample
  repeat'
    first
      | (with_reducible assumption)
      | (with_reducible apply kept_countFld)
      | (with_reducible apply kept_setFld)
      | (with_reducible apply kept_ite)
      | (with_reducible (refine Kept.mk ?_ ?_ ?_ ?_ ?_ <;> dsimp only <;> first | exact Kept.queue ‹_› | exact Kept.mem ‹_› | exact Kept.regs ‹_› | exact Kept.stalls ‹_› | exact Kept.units ‹_›))

theorem kept_execHoldoverHistorySample {a0 s} (h1 : Kept q s) : KeptR q (execHoldoverHistorySample a0 s) := by
  unfold execHoldoverHistorySample
  refine keptR_next ?_
  repeat'
    first
      | (with_reducible assumption)
      | (with_reducible apply kept_historySample)

theorem kept_timeRead {a0 a1 s} (h2 : Kept q s) : KeptV q (timeRead a0 a1 s) := by
  unfold timeRead
  repeat'
    first
      | (with_reducible assumption)
      | (with_reducible apply keptV_shaped)
      | (with_reducible apply keptV_need)
      | (with_reducible apply keptV_okRep)

theorem kept_execTimeRead {a0 a1 s} (h2 : Kept q s) : KeptR q (execTimeRead a0 a1 s) := by
  unfold execTimeRead
  refine keptR_next ?_
  repeat'
    first
      | (with_reducible assumption)
      | (refine kept_serve (fun _ _ => ?_) ?_)
      | (with_reducible apply kept_timeRead)

theorem kept_latchDom {a0 a1 a2 a3 a4 s} (h5 : Kept q s) : Kept q (latchDom a0 a1 a2 a3 a4 s) := by
  unfold latchDom
  repeat'
    first
      | (with_reducible assumption)
      | (with_reducible apply kept_setFld)

theorem kept_timeSnap {a0 a1 s} (h2 : Kept q s) : Kept q (timeSnap a0 a1 s) := by
  unfold timeSnap
  repeat'
    first
      | (with_reducible assumption)
      | (with_reducible apply kept_setFld)
      | (with_reducible apply kept_latchDom)
      | (with_reducible apply kept_ite)

theorem kept_execTimeSnap {a0 a1 s} (h2 : Kept q s) : KeptR q (execTimeSnap a0 a1 s) := by
  unfold execTimeSnap
  refine keptR_next ?_
  repeat'
    first
      | (with_reducible assumption)
      | (with_reducible apply kept_timeSnap)

theorem kept_timeAdjust {a0 a1 s} (h2 : Kept q s) : KeptV q (timeAdjust a0 a1 s) := by
  unfold timeAdjust
  repeat'
    first
      | (with_reducible assumption)
      | (with_reducible apply keptV_shaped)
      | (with_reducible apply keptV_need)
      | (with_reducible apply keptV_okRep)
      | (with_reducible apply kept_stepDom)
      | (with_reducible apply kept_showRate)
      | (with_reducible apply kept_setDom)
      | (with_reducible apply kept_ite)

theorem kept_execTimeAdjust {a0 a1 s} (h2 : Kept q s) : KeptR q (execTimeAdjust a0 a1 s) := by
  unfold execTimeAdjust
  refine keptR_next ?_
  repeat'
    first
      | (with_reducible assumption)
      | (refine kept_serve (fun _ _ => ?_) ?_)
      | (with_reducible apply kept_timeAdjust)

theorem kept_pulseSchedule {a0 a1 s} (h2 : Kept q s) : KeptV q (pulseSchedule a0 a1 s) := by
  unfold pulseSchedule
  repeat'
    first
      | (with_reducible assumption)
      | (with_reducible apply keptV_shaped)
      | (with_reducible apply keptV_need)
      | (with_reducible apply keptV_okRep)
      | (with_reducible apply kept_setPulse)

theorem kept_execPulseSchedule {a0 a1 s} (h2 : Kept q s) : KeptR q (execPulseSchedule a0 a1 s) := by
  unfold execPulseSchedule
  refine keptR_next ?_
  repeat'
    first
      | (with_reducible assumption)
      | (refine kept_serve (fun _ _ => ?_) ?_)
      | (with_reducible apply kept_pulseSchedule)

theorem kept_scheduledPulse {a0 a1 s} (h2 : Kept q s) : Kept q (scheduledPulse a0 a1 s) := by
  unfold scheduledPulse
  repeat'
    first
      | (with_reducible assumption)
      | (extract_lets +onlyGivenNames x; refine (fun (hx : Kept q x) => ?_) ?_; (rotate_left; unfold x; clear x; rotate_left); (try clear_value x); revert x; intro y hy)
      | (extract_lets +onlyGivenNames x; (try clear_value x); revert x; intro y)
      | (with_reducible apply kept_setPulse)
      | (with_reducible apply kept_sendOut)
      | split

theorem kept_execScheduledPulse {a0 a1 s} (h2 : Kept q s) : KeptR q (execScheduledPulse a0 a1 s) := by
  unfold execScheduledPulse
  refine keptR_next ?_
  repeat'
    first
      | (with_reducible assumption)
      | (with_reducible apply kept_scheduledPulse)

/-! ### Ptp -/

theorem kept_showMaster {a0 a1 s} (h2 : Kept q s) : Kept q (showMaster a0 a1 s) := by
  unfold showMaster
  repeat'
    first
      | (with_reducible assumption)
      | (with_reducible apply kept_setFld)
      | (with_reducible apply kept_setDom)
      | (with_reducible apply kept_ite)

theorem kept_ptpDecide {a0 a1 s} (h2 : Kept q s) : Kept q (ptpDecide a0 a1 s) := by
  unfold ptpDecide
  repeat'
    first
      | (with_reducible assumption)
      | (with_reducible apply kept_setPtpPort)
      | (with_reducible apply kept_selectRef)
      | (with_reducible apply kept_showMaster)
      | (refine kept_forEach (fun _ _ _ => ?_) ?_)

theorem kept_ptpRestart {a0 s} (h1 : Kept q s) : Kept q (ptpRestart a0 s) := by
  unfold ptpRestart
  repeat'
    first
      | (with_reducible assumption)
      | (with_reducible apply kept_selectRef)
      | (with_reducible apply kept_showMaster)
      | (with_reducible apply kept_setDom)

theorem kept_ptpTake {k s} {use : Nat → TimeMsg → State → State} (hu : ∀ d m s, Kept q s → Kept q (use d m s)) (h : Kept q s) :
    Kept q (ptpTake k use s) := by
  unfold ptpTake
  dsimp only
  split
  · exact ⟨h.queue, h.mem, h.regs, h.stalls, h.units⟩
  · exact kept_forEach (fun d s hs => hu d _ s hs) ⟨h.queue, h.mem, h.regs, h.stalls, h.units⟩

theorem kept_servoUse {a0 a1 a2 s} (h3 : Kept q s) : Kept q (servoUse a0 a1 a2 s) := by
  unfold servoUse
  repeat'
    first
      | (with_reducible assumption)
      | (with_reducible apply kept_setFld)
      | (with_reducible apply kept_setDom)
      | (with_reducible apply kept_selectRef)
      | (with_reducible apply kept_stepDom)
      | (with_reducible apply kept_showRate)
      | (with_reducible apply kept_ite)

theorem kept_servoMeasure {a0 a1 a2 a3 a4 s} (h5 : Kept q s) : Kept q (servoMeasure a0 a1 a2 a3 a4 s) := by
  unfold servoMeasure
  repeat'
    first
      | (with_reducible assumption)
      | (with_reducible apply kept_setDom)
      | (with_reducible apply kept_servoUse)

theorem kept_syncUse {a0 a1 s} (h2 : Kept q s) : Kept q (syncUse a0 a1 s) := by
  unfold syncUse
  repeat'
    first
      | (with_reducible assumption)
      | (with_reducible apply kept_setPtpPort)
      | (with_reducible apply kept_servoMeasure)
      | (with_reducible apply kept_ite)

theorem kept_execPtpSync {s} (h0 : Kept q s) : KeptR q (execPtpSync s) := by
  unfold execPtpSync
  refine keptR_next ?_
  repeat'
    first
      | (with_reducible assumption)
      | (refine kept_ptpTake (fun _ _ _ _ => ?_) ?_)
      | (with_reducible apply kept_syncUse)

theorem kept_followUse {a0 a1 s} (h2 : Kept q s) : Kept q (followUse a0 a1 s) := by
  unfold followUse
  repeat'
    first
      | (with_reducible assumption)
      | (extract_lets +onlyGivenNames x; (try clear_value x); revert x; intro y)
      | (with_reducible apply kept_servoMeasure)
      | (with_reducible apply kept_setPtpPort)
      | split

theorem kept_execFollowUp {s} (h0 : Kept q s) : KeptR q (execFollowUp s) := by
  unfold execFollowUp
  refine keptR_next ?_
  repeat'
    first
      | (with_reducible assumption)
      | (refine kept_ptpTake (fun _ _ _ _ => ?_) ?_)
      | (with_reducible apply kept_followUse)

theorem kept_setDelay {a0 a1 a2 s} (h3 : Kept q s) : Kept q (setDelay a0 a1 a2 s) := by
  unfold setDelay
  repeat'
    first
      | (with_reducible assumption)
      | (with_reducible apply kept_setPtpPort)
      | (with_reducible apply kept_setFld)
      | (with_reducible apply kept_ite)

theorem kept_delayReqUse {a0 a1 s} (h2 : Kept q s) : Kept q (delayReqUse a0 a1 s) := by
  unfold delayReqUse
  repeat'
    first
      | (with_reducible assumption)
      | (with_reducible apply kept_ptpSend)
      | (with_reducible apply kept_ite)

theorem kept_execDelayReq {s} (h0 : Kept q s) : KeptR q (execDelayReq s) := by
  unfold execDelayReq
  refine keptR_next ?_
  repeat'
    first
      | (with_reducible assumption)
      | (refine kept_ptpTake (fun _ _ _ _ => ?_) ?_)
      | (with_reducible apply kept_delayReqUse)

theorem kept_delayRespUse {a0 a1 s} (h2 : Kept q s) : Kept q (delayRespUse a0 a1 s) := by
  unfold delayRespUse
  repeat'
    first
      | (with_reducible assumption)
      | (extract_lets +onlyGivenNames x; (try clear_value x); revert x; intro y)
      | (with_reducible apply kept_servoMeasure)
      | (with_reducible apply kept_setDelay)
      | split

theorem kept_execDelayResp {s} (h0 : Kept q s) : KeptR q (execDelayResp s) := by
  unfold execDelayResp
  refine keptR_next ?_
  repeat'
    first
      | (with_reducible assumption)
      | (refine kept_ptpTake (fun _ _ _ _ => ?_) ?_)
      | (with_reducible apply kept_delayRespUse)

theorem kept_pdelayReqUse {a0 a1 s} (h2 : Kept q s) : Kept q (pdelayReqUse a0 a1 s) := by
  unfold pdelayReqUse
  repeat'
    first
      | (with_reducible assumption)
      | (with_reducible apply kept_ptpSendEvent)
      | (with_reducible apply kept_ite)

theorem kept_execPdelayReq {s} (h0 : Kept q s) : KeptR q (execPdelayReq s) := by
  unfold execPdelayReq
  refine keptR_next ?_
  repeat'
    first
      | (with_reducible assumption)
      | (refine kept_ptpTake (fun _ _ _ _ => ?_) ?_)
      | (with_reducible apply kept_pdelayReqUse)

theorem kept_pdelayRespUse {a0 a1 s} (h2 : Kept q s) : Kept q (pdelayRespUse a0 a1 s) := by
  unfold pdelayRespUse
  repeat'
    first
      | (with_reducible assumption)
      | (extract_lets +onlyGivenNames x; (try clear_value x); revert x; intro y)
      | (with_reducible apply kept_setPtpPort)
      | (with_reducible apply kept_setDelay)
      | split

theorem kept_execPdelayResp {s} (h0 : Kept q s) : KeptR q (execPdelayResp s) := by
  unfold execPdelayResp
  refine keptR_next ?_
  repeat'
    first
      | (with_reducible assumption)
      | (refine kept_ptpTake (fun _ _ _ _ => ?_) ?_)
      | (with_reducible apply kept_pdelayRespUse)

theorem kept_pdelayFollowUse {a0 a1 s} (h2 : Kept q s) : Kept q (pdelayFollowUse a0 a1 s) := by
  unfold pdelayFollowUse
  repeat'
    first
      | (with_reducible assumption)
      | (extract_lets +onlyGivenNames x; (try clear_value x); revert x; intro y)
      | (with_reducible apply kept_setDelay)
      | split

theorem kept_execPdelayRespFollowUp {s} (h0 : Kept q s) : KeptR q (execPdelayRespFollowUp s) := by
  unfold execPdelayRespFollowUp
  refine keptR_next ?_
  repeat'
    first
      | (with_reducible assumption)
      | (refine kept_ptpTake (fun _ _ _ _ => ?_) ?_)
      | (with_reducible apply kept_pdelayFollowUse)

theorem kept_annUse {a0 a1 s} (h2 : Kept q s) : Kept q (annUse a0 a1 s) := by
  unfold annUse
  repeat'
    first
      | (with_reducible assumption)
      | (with_reducible apply kept_ptpDecide)
      | (with_reducible apply kept_setPtpPort)
      | (with_reducible apply kept_ite)

theorem kept_execPtpAnnounce {s} (h0 : Kept q s) : KeptR q (execPtpAnnounce s) := by
  unfold execPtpAnnounce
  refine keptR_next ?_
  repeat'
    first
      | (with_reducible assumption)
      | (refine kept_ptpTake (fun _ _ _ _ => ?_) ?_)
      | (with_reducible apply kept_annUse)

theorem kept_annTimeout {a0 a1 s} (h2 : Kept q s) : Kept q (annTimeout a0 a1 s) := by
  unfold annTimeout
  repeat'
    first
      | (with_reducible assumption)
      | (with_reducible apply kept_setPtpPort)
      | (with_reducible apply kept_ptpDecide)
      | (with_reducible apply kept_refBad)
      | (with_reducible apply kept_ite)

theorem kept_execAnnounceReceiptTimeout {a0 a1 s} (h2 : Kept q s) : KeptR q (execAnnounceReceiptTimeout a0 a1 s) := by
  unfold execAnnounceReceiptTimeout
  refine keptR_next ?_
  repeat'
    first
      | (with_reducible assumption)
      | (with_reducible apply kept_annTimeout)

theorem kept_syncInterval {a0 a1 a2 s} (h3 : Kept q s) : Kept q (syncInterval a0 a1 a2 s) := by
  unfold syncInterval
  repeat'
    first
      | (with_reducible assumption)
      | (with_reducible apply kept_rootAdopt)
      | (with_reducible apply kept_setPtpPort)
      | (with_reducible apply kept_ptpSendEvent)
      | (with_reducible apply kept_linkPut)
      | (with_reducible apply kept_ite)

theorem kept_execSyncInterval {a0 a1 a2 s} (h3 : Kept q s) : KeptR q (execSyncInterval a0 a1 a2 s) := by
  unfold execSyncInterval
  refine keptR_next ?_
  repeat'
    first
      | (with_reducible assumption)
      | (with_reducible apply kept_syncInterval)

theorem kept_annInterval {a0 a1 s} (h2 : Kept q s) : Kept q (annInterval a0 a1 s) := by
  unfold annInterval
  repeat'
    first
      | (with_reducible assumption)
      | (with_reducible apply kept_ptpSend)
      | (with_reducible apply kept_setPtpPort)
      | (with_reducible apply kept_ite)

theorem kept_execAnnounceInterval {a0 a1 s} (h2 : Kept q s) : KeptR q (execAnnounceInterval a0 a1 s) := by
  unfold execAnnounceInterval
  refine keptR_next ?_
  repeat'
    first
      | (with_reducible assumption)
      | (with_reducible apply kept_annInterval)

theorem kept_delayInterval {a0 a1 a2 s} (h3 : Kept q s) : Kept q (delayInterval a0 a1 a2 s) := by
  unfold delayInterval
  repeat'
    first
      | (with_reducible assumption)
      | (with_reducible apply kept_setPtpPort)
      | (with_reducible apply kept_ptpSendEvent)
      | (with_reducible apply kept_ite)

theorem kept_execDelayReqInterval {a0 a1 a2 s} (h3 : Kept q s) : KeptR q (execDelayReqInterval a0 a1 a2 s) := by
  unfold execDelayReqInterval
  refine keptR_next ?_
  repeat'
    first
      | (with_reducible assumption)
      | (with_reducible apply kept_delayInterval)

/-! ### Mode -/

theorem kept_streamsStart {s} (h0 : Kept q s) : Kept q (streamsStart s) := by
  unfold streamsStart
  repeat'
    first
      | (with_reducible assumption)
      | (with_reducible apply kept_setActive)
      | (refine kept_forEach (fun _ _ _ => ?_) ?_)
      | (with_reducible apply kept_ite)

theorem kept_streamsOff {s} (h0 : Kept q s) : Kept q (streamsOff s) := by
  unfold streamsOff
  repeat'
    first
      | (with_reducible assumption)
      | (with_reducible apply kept_setActive)
      | (refine kept_forEach (fun _ _ _ => ?_) ?_)

theorem kept_streamsSafe {s} (h0 : Kept q s) : Kept q (streamsSafe s) := by
  unfold streamsSafe
  repeat'
    first
      | (with_reducible assumption)
      | (with_reducible apply kept_setActive)
      | (refine kept_forEach (fun _ _ _ => ?_) ?_)
      | (with_reducible apply kept_ite)

theorem kept_avsFloorUpdate {s} (h0 : Kept q s) : Kept q (avsFloorUpdate s) := by
  unfold avsFloorUpdate
  repeat'
    first
      | (with_reducible assumption)
      | (with_reducible apply kept_avsFloorOn)
      | (with_reducible apply kept_clrBit)
      | (with_reducible apply kept_ite)

theorem kept_tapFloorEnd {s} (h0 : Kept q s) : Kept q (tapFloorEnd s) := by
  unfold tapFloorEnd
  repeat'
    first
      | (with_reducible assumption)
      | (with_reducible apply kept_avsFloorUpdate)
      | (with_reducible apply kept_ite)
      | (with_reducible (refine Kept.mk ?_ ?_ ?_ ?_ ?_ <;> dsimp only <;> first | exact Kept.queue ‹_› | exact Kept.mem ‹_› | exact Kept.regs ‹_› | exact Kept.stalls ‹_› | exact Kept.units ‹_›))

theorem kept_execTapFloorEnd {s} (h0 : Kept q s) : KeptR q (execTapFloorEnd s) := by
  unfold execTapFloorEnd
  refine keptR_next ?_
  repeat'
    first
      | (with_reducible assumption)
      | (with_reducible apply kept_tapFloorEnd)

theorem kept_showPend {s} (h0 : Kept q s) : Kept q (showPend s) := by
  unfold showPend
  repeat'
    first
      | (with_reducible assumption)
      | (with_reducible apply kept_setFld)
      | (with_reducible apply kept_clrBit)
      | (with_reducible apply kept_setBit)
      | split

theorem kept_setPend {a0 s} (h1 : Kept q s) : Kept q (setPend a0 s) := by
  unfold setPend
  repeat'
    first
      | (with_reducible apply kept_showPend)
      | (with_reducible (refine Kept.mk ?_ ?_ ?_ ?_ ?_ <;> dsimp only <;> first | exact Kept.queue ‹_› | exact Kept.mem ‹_› | exact Kept.regs ‹_› | exact Kept.stalls ‹_› | exact Kept.units ‹_›))

theorem kept_safeTrigger {a0 s} (h1 : Kept q s) : Kept q (safeTrigger a0 s) := by
  unfold safeTrigger
  repeat'
    first
      | (with_reducible assumption)
      | (with_reducible apply kept_switchCancel)
      | (with_reducible apply kept_setPend)
      | (with_reducible apply kept_ite)
      | (with_reducible (refine Kept.mk ?_ ?_ ?_ ?_ ?_ <;> dsimp only <;> first | exact Kept.queue ‹_› | exact Kept.mem ‹_› | exact Kept.regs ‹_› | exact Kept.stalls ‹_› | exact Kept.units ‹_›))

theorem kept_cancelConfigure {s} (h0 : Kept q s) : Kept q (cancelConfigure s) := by
  unfold cancelConfigure
  repeat'
    first
      | (with_reducible assumption)
      | (with_reducible apply kept_setPend)
      | (with_reducible apply kept_ite)

theorem kept_modeBecomes {a0 a1 s} (h2 : Kept q s) : Kept q (modeBecomes a0 a1 s) := by
  unfold modeBecomes
  repeat'
    first
      | (with_reducible apply kept_setFld)
      | (with_reducible apply kept_raiseAt)
      | (with_reducible (refine Kept.mk ?_ ?_ ?_ ?_ ?_ <;> dsimp only <;> first | exact Kept.queue ‹_› | exact Kept.mem ‹_› | exact Kept.regs ‹_› | exact Kept.stalls ‹_› | exact Kept.units ‹_›))

theorem kept_pairActLow {s} (h0 : Kept q s) : Kept q (pairActLow s) := by
  unfold pairActLow
  repeat'
    first
      | (with_reducible assumption)
      | (with_reducible apply kept_clrBit)

theorem kept_enterRun {a0 s} (h1 : Kept q s) : Kept q (enterRun a0 s) := by
  unfold enterRun
  repeat'
    first
      | (with_reducible assumption)
      | (with_reducible apply kept_avsStart)
      | (with_reducible apply kept_streamsStart)
      | (with_reducible apply kept_modeBecomes)
      | (with_reducible apply kept_setBit)
      | (with_reducible apply kept_ampTrigger)
      | (with_reducible apply kept_safeTrigger)
      | (with_reducible apply kept_ite)

theorem kept_acquireStart {s} (h0 : Kept q s) : Kept q (acquireStart s) := by
  unfold acquireStart
  repeat'
    first
      | (with_reducible apply kept_setPairState)
      | (with_reducible apply kept_setFld)
      | (with_reducible (refine Kept.mk ?_ ?_ ?_ ?_ ?_ <;> dsimp only <;> first | exact Kept.queue ‹_› | exact Kept.mem ‹_› | exact Kept.regs ‹_› | exact Kept.stalls ‹_› | exact Kept.units ‹_›))

theorem kept_enterShadow {a0 s} (h1 : Kept q s) : Kept q (enterShadow a0 s) := by
  unfold enterShadow
  repeat'
    first
      | (with_reducible assumption)
      | (extract_lets +onlyGivenNames x; refine (fun (hx : Kept q x) => ?_) ?_; (rotate_left; unfold x; clear x; rotate_left); (try clear_value x); revert x; intro y hy)
      | (with_reducible apply kept_avsStart)
      | (with_reducible apply kept_avsFloorUpdate)
      | (with_reducible apply kept_streamsStart)
      | (with_reducible apply kept_pairActLow)
      | (with_reducible apply kept_modeBecomes)
      | (with_reducible apply kept_setFld)
      | (with_reducible apply kept_requestStop)
      | (with_reducible apply kept_setPairState)
      | (with_reducible apply kept_acquireStart)
      | (with_reducible apply kept_safeTrigger)
      | (refine kept_forEach (fun _ _ _ => ?_) ?_)
      | (with_reducible apply kept_ite)
      | (with_reducible (refine Kept.mk ?_ ?_ ?_ ?_ ?_ <;> dsimp only <;> first | exact Kept.queue ‹_› | exact Kept.mem ‹_› | exact Kept.regs ‹_› | exact Kept.stalls ‹_› | exact Kept.units ‹_›))

theorem kept_enterSafe {a0 a1 s} (h2 : Kept q s) : Kept q (enterSafe a0 a1 s) := by
  unfold enterSafe
  repeat'
    first
      | (with_reducible assumption)
      | (with_reducible apply kept_setFld)
      | (with_reducible apply kept_pairActLow)
      | (with_reducible apply kept_modeBecomes)
      | (with_reducible apply kept_gainGo)
      | (with_reducible apply kept_streamsSafe)
      | (with_reducible apply kept_avsFloorOn)
      | (with_reducible apply kept_ovrWake)
      | (refine kept_forEach (fun _ _ _ => ?_) ?_)
      | (with_reducible (refine Kept.mk ?_ ?_ ?_ ?_ ?_ <;> dsimp only <;> first | exact Kept.queue ‹_› | exact Kept.mem ‹_› | exact Kept.regs ‹_› | exact Kept.stalls ‹_› | exact Kept.units ‹_›))

theorem kept_enterConfigure {a0 s} (h1 : Kept q s) : Kept q (enterConfigure a0 s) := by
  unfold enterConfigure
  repeat'
    first
      | (with_reducible assumption)
      | (extract_lets +onlyGivenNames x; refine (fun (hx : Kept q x) => ?_) ?_; (rotate_left; unfold x; clear x; rotate_left); (try clear_value x); revert x; intro y hy)
      | (with_reducible apply kept_avsRest)
      | (with_reducible apply kept_avsFloorUpdate)
      | (with_reducible apply kept_streamsOff)
      | (with_reducible apply kept_pairActLow)
      | (with_reducible apply kept_modeBecomes)
      | (with_reducible apply kept_wakeGroup)
      | (with_reducible apply kept_requestStop)
      | (with_reducible apply kept_setPairState)
      | (with_reducible apply kept_switchCancel)
      | (refine kept_forEach (fun _ _ _ => ?_) ?_)
      | (with_reducible apply kept_ite)
      | (with_reducible (refine Kept.mk ?_ ?_ ?_ ?_ ?_ <;> dsimp only <;> first | exact Kept.queue ‹_› | exact Kept.mem ‹_› | exact Kept.regs ‹_› | exact Kept.stalls ‹_› | exact Kept.units ‹_›))

theorem kept_modeEnter {a0 a1 s} (h2 : Kept q s) : Kept q (modeEnter a0 a1 s) := by
  unfold modeEnter
  repeat'
    first
      | (with_reducible assumption)
      | (with_reducible apply kept_enterConfigure)
      | (with_reducible apply kept_enterRun)
      | (with_reducible apply kept_enterShadow)
      | (with_reducible apply kept_enterSafe)
      | split

theorem kept_modesBoundary {a0 s} (h1 : Kept q s) : Kept q (modesBoundary a0 s) := by
  unfold modesBoundary
  repeat'
    first
      | (with_reducible assumption)
      | (with_reducible apply kept_modeEnter)
      | (with_reducible apply kept_setPend)
      | split

theorem kept_standbyEnter {s} (h0 : Kept q s) : Kept q (standbyEnter s) := by
  unfold standbyEnter
  repeat'
    first
      | (with_reducible assumption)
      | (extract_lets +onlyGivenNames x; refine (fun (hx : Kept q x) => ?_) ?_; (rotate_left; unfold x; clear x; rotate_left); (try clear_value x); revert x; intro y hy)
      | (with_reducible apply kept_spillAll)
      | (with_reducible apply kept_modeBecomes)
      | (with_reducible apply kept_traceStop)
      | (refine kept_forEach (fun _ _ _ => ?_) ?_)
      | (with_reducible (refine Kept.mk ?_ ?_ ?_ ?_ ?_ <;> dsimp only <;> first | exact Kept.queue ‹_› | exact Kept.mem ‹_› | exact Kept.regs ‹_› | exact Kept.stalls ‹_› | exact Kept.units ‹_›))

theorem kept_standbyStart {s} (h0 : Kept q s) : Kept q (standbyStart s) := by
  unfold standbyStart
  repeat'
    first
      | (with_reducible assumption)
      | (extract_lets +onlyGivenNames x; refine (fun (hx : Kept q x) => ?_) ?_; (rotate_left; unfold x; clear x; rotate_left); (try clear_value x); revert x; intro y hy)
      | (with_reducible apply kept_spillAll)
      | (with_reducible apply kept_requestStop)
      | (with_reducible apply kept_setPend)
      | (with_reducible apply kept_standbyEnter)
      | (refine kept_forEach (fun _ _ _ => ?_) ?_)
      | (with_reducible apply kept_ite)
      | (with_reducible (refine Kept.mk ?_ ?_ ?_ ?_ ?_ <;> dsimp only <;> first | exact Kept.queue ‹_› | exact Kept.mem ‹_› | exact Kept.regs ‹_› | exact Kept.stalls ‹_› | exact Kept.units ‹_›))

theorem kept_modePend {a0 a1 s} (h2 : Kept q s) : KeptV q (modePend a0 a1 s) := by
  unfold modePend
  repeat'
    first
      | (with_reducible apply kept_switchCancel)
      | (with_reducible apply keptV_okRep)
      | (with_reducible apply kept_setPend)
      | (with_reducible (refine Kept.mk ?_ ?_ ?_ ?_ ?_ <;> dsimp only <;> first | exact Kept.queue ‹_› | exact Kept.mem ‹_› | exact Kept.regs ‹_› | exact Kept.stalls ‹_› | exact Kept.units ‹_›))

theorem kept_modeSet {a0 s} (h1 : Kept q s) : KeptV q (modeSet a0 s) := by
  unfold modeSet
  repeat'
    first
      | (with_reducible assumption)
      | (with_reducible apply keptV_shaped)
      | (with_reducible apply keptV_need)
      | (with_reducible apply keptV_okRep)
      | (with_reducible apply kept_standbyStart)
      | (with_reducible apply kept_modePend)
      | split

theorem kept_execModeSet {a0 s} (h1 : Kept q s) : KeptR q (execModeSet a0 s) := by
  unfold execModeSet
  refine keptR_next ?_
  repeat'
    first
      | (with_reducible assumption)
      | (refine kept_serve (fun _ _ => ?_) ?_)
      | (with_reducible apply kept_modeSet)

theorem kept_thermalWarn {a0 s} (h1 : Kept q s) : Kept q (thermalWarn a0 s) := by
  unfold thermalWarn
  repeat'
    first
      | (with_reducible assumption)
      | (with_reducible apply kept_setFld)
      | (with_reducible apply kept_safeTrigger)
      | (with_reducible apply kept_raise)
      | (with_reducible apply kept_setBit)
      | (with_reducible apply kept_ite)

theorem kept_execThermalWarn {a0 s} (h1 : Kept q s) : KeptR q (execThermalWarn a0 s) := by
  unfold execThermalWarn
  refine keptR_next ?_
  repeat'
    first
      | (with_reducible assumption)
      | (with_reducible apply kept_thermalWarn)
      | (with_reducible apply kept_ite)

theorem kept_wake {a0 a1 s} (h2 : Kept q s) : Kept q (wake a0 a1 s) := by
  unfold wake
  repeat'
    first
      | (with_reducible assumption)
      | (extract_lets +onlyGivenNames x; refine (fun (hx : Kept q x) => ?_) ?_; (rotate_left; unfold x; clear x; rotate_left); (try clear_value x); revert x; intro y hy)
      | (with_reducible apply kept_setFld)
      | (with_reducible apply kept_ite)
      | (with_reducible (refine Kept.mk ?_ ?_ ?_ ?_ ?_ <;> dsimp only <;> first | exact Kept.queue ‹_› | exact Kept.mem ‹_› | exact Kept.regs ‹_› | exact Kept.stalls ‹_› | exact Kept.units ‹_›))

theorem kept_mainsPresent {s} (h0 : Kept q s) : Kept q (mainsPresent s) := by
  unfold mainsPresent
  repeat'
    first
      | (with_reducible assumption)
      | (extract_lets +onlyGivenNames x; refine (fun (hx : Kept q x) => ?_) ?_; (rotate_left; unfold x; clear x; rotate_left); (try clear_value x); revert x; intro y hy)
      | (with_reducible apply kept_raise)
      | (with_reducible apply kept_setBit)
      | (with_reducible apply kept_wake)
      | (with_reducible apply kept_ite)
      | (with_reducible (refine Kept.mk ?_ ?_ ?_ ?_ ?_ <;> dsimp only <;> first | exact Kept.queue ‹_› | exact Kept.mem ‹_› | exact Kept.regs ‹_› | exact Kept.stalls ‹_› | exact Kept.units ‹_›))

theorem kept_zeroCross {a0 s} (h1 : Kept q s) : Kept q (zeroCross a0 s) := by
  unfold zeroCross
  repeat'
    first
      | (with_reducible assumption)
      | (with_reducible apply kept_setFld)
      | (with_reducible apply kept_mainsPresent)
      | (with_reducible apply kept_ite)
      | (with_reducible (refine Kept.mk ?_ ?_ ?_ ?_ ?_ <;> dsimp only <;> first | exact Kept.queue ‹_› | exact Kept.mem ‹_› | exact Kept.regs ‹_› | exact Kept.stalls ‹_› | exact Kept.units ‹_›))

theorem kept_execZeroCross {a0 s} (h1 : Kept q s) : KeptR q (execZeroCross a0 s) := by
  unfold execZeroCross
  refine keptR_next ?_
  repeat'
    first
      | (with_reducible assumption)
      | (with_reducible apply kept_zeroCross)

theorem kept_mainsLost {s} (h0 : Kept q s) : Kept q (mainsLost s) := by
  unfold mainsLost
  repeat'
    first
      | (with_reducible assumption)
      | (extract_lets +onlyGivenNames x; refine (fun (hx : Kept q x) => ?_) ?_; (rotate_left; unfold x; clear x; rotate_left); (try clear_value x); revert x; intro y hy)
      | (extract_lets +onlyGivenNames x; (try clear_value x); revert x; intro y)
      | (with_reducible apply kept_raise)
      | (with_reducible apply kept_clrBit)
      | (with_reducible apply kept_setBit)
      | (with_reducible apply kept_safeTrigger)
      | (with_reducible apply kept_ite)
      | (with_reducible (refine Kept.mk ?_ ?_ ?_ ?_ ?_ <;> dsimp only <;> first | exact Kept.queue ‹_› | exact Kept.mem ‹_› | exact Kept.regs ‹_› | exact Kept.stalls ‹_› | exact Kept.units ‹_›))

theorem kept_missingHalfCycle {s} (h0 : Kept q s) : Kept q (missingHalfCycle s) := by
  unfold missingHalfCycle
  repeat'
    first
      | (with_reducible assumption)
      | (with_reducible apply kept_mainsLost)
      | (with_reducible apply kept_ite)
      | (with_reducible (refine Kept.mk ?_ ?_ ?_ ?_ ?_ <;> dsimp only <;> first | exact Kept.queue ‹_› | exact Kept.mem ‹_› | exact Kept.regs ‹_› | exact Kept.stalls ‹_› | exact Kept.units ‹_›))

theorem kept_execMissingHalfCycle {s} (h0 : Kept q s) : KeptR q (execMissingHalfCycle s) := by
  unfold execMissingHalfCycle
  refine keptR_next ?_
  repeat'
    first
      | (with_reducible assumption)
      | (with_reducible apply kept_missingHalfCycle)

theorem kept_shutBoundary {a0 a1 s} (h2 : Kept q s) : Kept q (shutBoundary a0 a1 s) := by
  unfold shutBoundary
  repeat'
    first
      | (with_reducible assumption)
      | (with_reducible apply kept_ite)
      | (with_reducible (refine Kept.mk ?_ ?_ ?_ ?_ ?_ <;> dsimp only <;> first | exact Kept.queue ‹_› | exact Kept.mem ‹_› | exact Kept.regs ‹_› | exact Kept.stalls ‹_› | exact Kept.units ‹_›))

theorem kept_shutChannel {a0 s} (h1 : Kept q s) : Kept q (shutChannel a0 s) := by
  unfold shutChannel
  repeat'
    first
      | (with_reducible assumption)
      | (with_reducible apply kept_stopStart)
      | (with_reducible apply kept_ite)

theorem kept_shutdownDelayEnd {s} (h0 : Kept q s) : Kept q (shutdownDelayEnd s) := by
  unfold shutdownDelayEnd
  repeat'
    first
      | (with_reducible assumption)
      | (with_reducible apply kept_shutChannel)
      | (refine kept_forEach (fun _ _ _ => ?_) ?_)
      | (with_reducible apply kept_ite)
      | (with_reducible (refine Kept.mk ?_ ?_ ?_ ?_ ?_ <;> dsimp only <;> first | exact Kept.queue ‹_› | exact Kept.mem ‹_› | exact Kept.regs ‹_› | exact Kept.stalls ‹_› | exact Kept.units ‹_›))

theorem kept_execShutdownDelayEnd {s} (h0 : Kept q s) : KeptR q (execShutdownDelayEnd s) := by
  unfold execShutdownDelayEnd
  refine keptR_next ?_
  repeat'
    first
      | (with_reducible assumption)
      | (with_reducible apply kept_shutdownDelayEnd)

theorem kept_shutRecord {s} (h0 : Kept q s) : Kept q (shutRecord s) := by
  unfold shutRecord
  repeat'
    first
      | (with_reducible apply kept_setBit)
      | (with_reducible (refine Kept.mk ?_ ?_ ?_ ?_ ?_ <;> dsimp only <;> first | exact Kept.queue ‹_› | exact Kept.mem ‹_› | exact Kept.regs ‹_› | exact Kept.stalls ‹_› | exact Kept.units ‹_›))

theorem kept_enableLowDelay {s} (h0 : Kept q s) : Kept q (enableLowDelay s) := by
  unfold enableLowDelay
  repeat'
    first
      | (with_reducible assumption)
      | (extract_lets +onlyGivenNames x; refine (fun (hx : Kept q x) => ?_) ?_; (rotate_left; unfold x; clear x; rotate_left); (try clear_value x); revert x; intro y hy)
      | (with_reducible apply kept_clrBit)
      | (with_reducible apply kept_standbyEnter)
      | (with_reducible apply kept_shutRecord)
      | (refine kept_forEach (fun _ _ _ => ?_) ?_)
      | (with_reducible apply kept_ite)

theorem kept_execEnableLowDelay {s} (h0 : Kept q s) : KeptR q (execEnableLowDelay s) := by
  unfold execEnableLowDelay
  refine keptR_next ?_
  repeat'
    first
      | (with_reducible assumption)
      | (with_reducible apply kept_enableLowDelay)

end Sys2Proof.Machine
end

