-- ==== Sys2Proof/Laws/Kept7.lean ====
section
/-! SUPPORT. The operations of Machine/ Pair, Reset, PowerPath, StallDebug, GuardCmd keep the queue and the canonical form. -/

namespace Sys2Proof.Machine

variable {q : List Instr}

/-! ### Pair -/

theorem kept_pairMake {a0 a1 a2 s} (h3 : Kept q s) : Kept q (pairMake a0 a1 a2 s) := by
  unfold pairMake
  repeat'
    first
      | (with_reducible assumption)
      | (extract_lets +onlyGivenNames x; refine (fun (hx : Kept q x) => ?_) ?_; (rotate_left; unfold x; clear x; rotate_left); (try clear_value x); revert x; intro y hy)
      | (with_reducible apply kept_setFld)
      | (with_reducible apply kept_setPairState)
      | split
      | (with_reducible (refine Kept.mk ?_ ?_ ?_ ?_ ?_ <;> dsimp only <;> first | exact Kept.queue ‹_› | exact Kept.mem ‹_› | exact Kept.regs ‹_› | exact Kept.stalls ‹_› | exact Kept.units ‹_›))

theorem kept_pairWaitEnds {s} (h0 : Kept q s) : Kept q (pairWaitEnds s) := by
  unfold pairWaitEnds
  repeat'
    first
      | (with_reducible assumption)
      | (with_reducible apply kept_answer)
      | split

theorem kept_pairStart {a0 a1 a2 a3 s} (h4 : Kept q s) : Kept q (pairStart a0 a1 a2 a3 s) := by
  unfold pairStart
  repeat'
    first
      | (with_reducible assumption)
      | (with_reducible apply kept_answer)
      | (with_reducible apply kept_pairMake)
      | (with_reducible apply kept_sendRecordOn)
      | split
      | (with_reducible (refine Kept.mk ?_ ?_ ?_ ?_ ?_ <;> dsimp only <;> first | exact Kept.queue ‹_› | exact Kept.mem ‹_› | exact Kept.regs ‹_› | exact Kept.stalls ‹_› | exact Kept.units ‹_›))

theorem kept_pairWait {x : PairSt} {v s} (h : Kept q s) : Kept q { s with pair := { x with wait := v } } :=
  ⟨h.queue, h.mem, h.regs, h.stalls, h.units⟩

theorem kept_shadowPair {r s} (h : Kept q s) : Kept q (shadowPair r s) := by
  unfold shadowPair
  dsimp only
  split
  · exact h
  · have h := kept_taken h ‹taken _ _ _ = some _›
    split
    · exact kept_answer h
    · have h := keptV_shaped (keptV_need (keptV_need (keptV_need (keptV_need (keptV_okRep h))))) _ _ ‹_ = Except.ok _›
      exact kept_pairStart (kept_pairWaitEnds h)

theorem kept_execShadowPair {a0 s} (h1 : Kept q s) : KeptR q (execShadowPair a0 s) := by
  unfold execShadowPair
  refine keptR_next ?_
  repeat'
    first
      | (with_reducible assumption)
      | (with_reducible apply kept_shadowPair)

theorem kept_takePair {a s r t} (h : Kept q s) (e : takePair a s = some (r, t)) : Kept q t := kept_takeRec h e

theorem kept_pairRequest {b s} (h : Kept q s) : Kept q (pairRequest b s) := by
  unfold pairRequest
  split
  · exact h
  · have h := kept_takePair h ‹takePair _ _ = some (_, _)›
    dsimp only
    split
    · exact h
    · refine kept_ite (kept_sendRecordOn (kept_ite (kept_setBit ?_) ?_)) (kept_sendRecordOn h)
      · exact kept_pairMake h
      · exact kept_pairMake h

theorem kept_execPairRequest {a0 s} (h1 : Kept q s) : KeptR q (execPairRequest a0 s) := by
  unfold execPairRequest
  refine keptR_next ?_
  repeat'
    first
      | (with_reducible assumption)
      | (with_reducible apply kept_pairRequest)

theorem kept_pairAccept {s} (h0 : Kept q s) : Kept q (pairAccept s) := by
  unfold pairAccept
  repeat'
    first
      | (with_reducible assumption)
      | (refine kept_takePair ?_ ‹takePair _ _ = some (_, _)›)
      | (with_reducible apply kept_answer)
      | (with_reducible apply kept_pairMake)
      | split

theorem kept_execPairAccept {s} (h0 : Kept q s) : KeptR q (execPairAccept s) := by
  unfold execPairAccept
  refine keptR_next ?_
  repeat'
    first
      | (with_reducible assumption)
      | (with_reducible apply kept_pairAccept)

theorem kept_pairRefuse {s} (h : Kept q s) : Kept q (pairRefuse s) := by
  unfold pairRefuse
  split
  · exact h
  · have h := kept_takePair h ‹takePair _ _ = some (_, _)›
    split
    · exact h
    · exact kept_ite h (kept_answer (kept_pairWait h))

theorem kept_execPairRefuse {s} (h0 : Kept q s) : KeptR q (execPairRefuse s) := by
  unfold execPairRefuse
  refine keptR_next ?_
  repeat'
    first
      | (with_reducible assumption)
      | (with_reducible apply kept_pairRefuse)

theorem kept_acquirePut {a0 a1 a2 a3 s} (h4 : Kept q s) : Kept q (acquirePut a0 a1 a2 a3 s) := by
  unfold acquirePut
  repeat'
    first
      | (with_reducible assumption)
      | (with_reducible apply kept_linkPut)

theorem kept_copyStart {s} (h0 : Kept q s) : Kept q (copyStart s) := by
  unfold copyStart
  repeat'
    first
      | (with_reducible (refine Kept.mk ?_ ?_ ?_ ?_ ?_ <;> dsimp only <;> first | exact Kept.queue ‹_› | exact Kept.mem ‹_› | exact Kept.regs ‹_› | exact Kept.stalls ‹_› | exact Kept.units ‹_›))

theorem kept_forwardAll {a0 a1 s} (h2 : Kept q s) : Kept q (forwardAll a0 a1 s) := by
  unfold forwardAll
  repeat'
    first
      | (with_reducible assumption)
      | (with_reducible apply kept_acquirePut)
      | (refine kept_forEach (fun _ _ _ => ?_) ?_)

theorem kept_cutSend {a0 a1 a2 a3 s} (h4 : Kept q s) : Kept q (cutSend a0 a1 a2 a3 s) := by
  unfold cutSend
  repeat'
    first
      | (with_reducible assumption)
      | (with_reducible apply kept_acquirePut)
      | (refine kept_forEach (fun _ _ _ => ?_) ?_)

theorem kept_copyFeed {a0 a1 s} (h2 : Kept q s) : Kept q (copyFeed a0 a1 s) := by
  unfold copyFeed
  repeat'
    first
      | (with_reducible assumption)
      | (extract_lets +onlyGivenNames x; refine (fun (hx : Kept q x) => ?_) ?_; (rotate_left; unfold x; clear x; rotate_left); (try clear_value x); revert x; intro y hy)
      | (extract_lets +onlyGivenNames x; (try clear_value x); revert x; intro y)
      | (with_reducible apply kept_forwardAll)
      | (with_reducible apply kept_acquirePut)
      | (with_reducible apply kept_cutSend)
      | split
      | (with_reducible (refine Kept.mk ?_ ?_ ?_ ?_ ?_ <;> dsimp only <;> first | exact Kept.queue ‹_› | exact Kept.mem ‹_› | exact Kept.regs ‹_› | exact Kept.stalls ‹_› | exact Kept.units ‹_›))

theorem kept_execPacketTx {a0 a1 a2 s} (h3 : Kept q s) : KeptR q (execPacketTx a0 a1 a2 s) := by
  unfold execPacketTx
  refine keptR_next ?_
  repeat'
    first
      | (with_reducible assumption)
      | (with_reducible apply kept_packetTx)
      | (with_reducible apply kept_copyFeed)
      | (with_reducible apply kept_ite)

theorem kept_takeAcq {u s r t} (h : Kept q s) (e : takeAcq u s = some (r, t)) : Kept q t := by
  unfold takeAcq at e
  split at e
  · split at e
    · cases e
      exact ⟨h.queue, h.mem, h.regs, h.stalls, h.units⟩
    · cases e
  · cases e

theorem kept_acquireData {s} (h : Kept q s) : Kept q (acquireData s) := by
  unfold acquireData
  split
  · exact h
  · have h := kept_takeAcq h ‹takeAcq _ _ = some (_, _)›
    split
    · exact h
    · exact kept_memPoke ⟨h.queue, h.mem, h.regs, h.stalls, h.units⟩

theorem kept_execAcquireData {s} (h0 : Kept q s) : KeptR q (execAcquireData s) := by
  unfold execAcquireData
  refine keptR_next ?_
  repeat'
    first
      | (with_reducible assumption)
      | (with_reducible apply kept_acquireData)

theorem kept_acquireRegisters {s} (h : Kept q s) : Kept q (acquireRegisters s) := by
  unfold acquireRegisters
  split
  · exact h
  · have h := kept_takeAcq h ‹takeAcq _ _ = some (_, _)›
    exact kept_ite ⟨h.queue, h.mem, h.regs, h.stalls, h.units⟩ h

theorem kept_execAcquireRegisters {s} (h0 : Kept q s) : KeptR q (execAcquireRegisters s) := by
  unfold execAcquireRegisters
  refine keptR_next ?_
  repeat'
    first
      | (with_reducible assumption)
      | (with_reducible apply kept_acquireRegisters)

theorem kept_cutEnd {t s} (h : Kept q s) : Kept q (cutEnd t s) := by
  unfold cutEnd
  split
  · exact h
  · have h := kept_takeAcq h ‹takeAcq _ _ = some (_, _)›
    dsimp only
    refine kept_ite h (kept_ite ?_ (kept_ite (kept_startStall ?_) (kept_ite ?_ ?_))) <;>
      exact ⟨h.queue, h.mem, h.regs, h.stalls, h.units⟩

theorem kept_execCutEnd {a0 s} (h1 : Kept q s) : KeptR q (execCutEnd a0 s) := by
  unfold execCutEnd
  refine keptR_next ?_
  repeat'
    first
      | (with_reducible assumption)
      | (with_reducible apply kept_cutEnd)

theorem kept_cutWaitExpiry {a0 s} (h1 : Kept q s) : Kept q (cutWaitExpiry a0 s) := by
  unfold cutWaitExpiry
  repeat'
    first
      | (with_reducible assumption)
      | (with_reducible apply kept_startStall)
      | (with_reducible apply kept_countFld)
      | split
      | (with_reducible (refine Kept.mk ?_ ?_ ?_ ?_ ?_ <;> dsimp only <;> first | exact Kept.queue ‹_› | exact Kept.mem ‹_› | exact Kept.regs ‹_› | exact Kept.stalls ‹_› | exact Kept.units ‹_›))

theorem kept_execCutWaitExpiry {a0 s} (h1 : Kept q s) : KeptR q (execCutWaitExpiry a0 s) := by
  unfold execCutWaitExpiry
  refine keptR_next ?_
  repeat'
    first
      | (with_reducible assumption)
      | (with_reducible apply kept_cutWaitExpiry)

theorem kept_ampsGiveUp {s} (h0 : Kept q s) : Kept q (ampsGiveUp s) := by
  unfold ampsGiveUp
  repeat'
    first
      | (with_reducible assumption)
      | (with_reducible apply kept_clrBit)
      | (with_reducible apply kept_testAbort)
      | (with_reducible apply kept_setAmpState)
      | (with_reducible apply kept_setAmp)
      | (refine kept_forEach (fun _ _ _ => ?_) ?_)
      | (with_reducible apply kept_ite)

theorem kept_ampsTakeOver {s} (h0 : Kept q s) : Kept q (ampsTakeOver s) := by
  unfold ampsTakeOver
  repeat'
    first
      | (with_reducible assumption)
      | (with_reducible apply kept_beginRelease)
      | (with_reducible apply kept_clrBit)
      | (with_reducible apply kept_releaseGroup)
      | (refine kept_forEach (fun _ _ _ => ?_) ?_)
      | (with_reducible apply kept_ite)

theorem kept_mainPair {s} (h0 : Kept q s) : Kept q (mainPair s) := by
  unfold mainPair
  repeat'
    first
      | (with_reducible (refine Kept.mk ?_ ?_ ?_ ?_ ?_ <;> dsimp only <;> first | exact Kept.queue ‹_› | exact Kept.mem ‹_› | exact Kept.regs ‹_› | exact Kept.stalls ‹_› | exact Kept.units ‹_›))

theorem kept_becomeMain {a0 s} (h1 : Kept q s) : Kept q (becomeMain a0 s) := by
  unfold becomeMain
  repeat'
    first
      | (with_reducible assumption)
      | (with_reducible apply kept_mainPair)
      | (with_reducible apply kept_avsStart)
      | (with_reducible apply kept_modeBecomes)
      | (with_reducible apply kept_setFld)
      | (with_reducible apply kept_setPairState)
      | (with_reducible apply kept_setBit)
      | (with_reducible apply kept_presentAgain)
      | (with_reducible apply kept_ampsTakeOver)
      | (with_reducible apply kept_raise)
      | (with_reducible apply kept_countFld)
      | (with_reducible apply kept_safeTrigger)
      | (with_reducible apply kept_ite)

theorem kept_senseLow {a0 s} (h1 : Kept q s) : Kept q (senseLow a0 s) := by
  unfold senseLow
  repeat'
    first
      | (with_reducible assumption)
      | (with_reducible apply kept_ite)
      | (with_reducible (refine Kept.mk ?_ ?_ ?_ ?_ ?_ <;> dsimp only <;> first | exact Kept.queue ‹_› | exact Kept.mem ‹_› | exact Kept.regs ‹_› | exact Kept.stalls ‹_› | exact Kept.units ‹_›))

theorem kept_sensed {a0 s} (h1 : Kept q s) : Kept q (sensed a0 s) :=
  have h := kept_clrBit (a0 := Fld.SHADOW_STATUS_PAIR_SENSE) (a1 := 0) h1
  ⟨h.queue, h.mem, h.regs, h.stalls, h.units⟩

theorem kept_execPairSenseLow {a0 s} (h1 : Kept q s) : KeptR q (execPairSenseLow a0 s) := by
  unfold execPairSenseLow
  refine keptR_next ?_
  repeat'
    first
      | (with_reducible assumption)
      | (with_reducible apply kept_senseLow)
      | (with_reducible apply kept_sensed)

theorem kept_pairField {x : PairSt} {s} (h : Kept q s) : Kept q { s with pair := x } := ⟨h.queue, h.mem, h.regs, h.stalls, h.units⟩

theorem kept_takeover {s} (h : Kept q s) : Kept q (takeover s) := by
  unfold takeover
  split
  · exact h
  · exact kept_ite h (kept_pairField (kept_becomeMain h))

theorem kept_execTakeover {s} (h0 : Kept q s) : KeptR q (execTakeover s) := by
  unfold execTakeover
  refine keptR_next ?_
  repeat'
    first
      | (with_reducible assumption)
      | (with_reducible apply kept_takeover)

theorem kept_standbyPair {s} (h0 : Kept q s) : Kept q (standbyPair s) := by
  unfold standbyPair
  repeat'
    first
      | (with_reducible (refine Kept.mk ?_ ?_ ?_ ?_ ?_ <;> dsimp only <;> first | exact Kept.queue ‹_› | exact Kept.mem ‹_› | exact Kept.regs ‹_› | exact Kept.stalls ‹_› | exact Kept.units ‹_›))

theorem kept_becomeStandby {s} (h0 : Kept q s) : Kept q (becomeStandby s) := by
  unfold becomeStandby
  repeat'
    first
      | (with_reducible assumption)
      | (with_reducible apply kept_avsStart)
      | (with_reducible apply kept_setFld)
      | (with_reducible apply kept_setPairState)
      | (with_reducible apply kept_pairActLow)
      | (with_reducible apply kept_modeBecomes)
      | (with_reducible apply kept_presentAgain)
      | (with_reducible apply kept_ampsGiveUp)
      | (with_reducible apply kept_standbyPair)
      | (with_reducible apply kept_raise)
      | (with_reducible apply kept_setBit)
      | (with_reducible apply kept_countFld)

theorem kept_switchDone {a0 s} (h1 : Kept q s) : Kept q (switchDone a0 s) := by
  unfold switchDone
  repeat'
    first
      | (with_reducible assumption)
      | (extract_lets +onlyGivenNames x; refine (fun (hx : Kept q x) => ?_) ?_; (rotate_left; unfold x; clear x; rotate_left); (try clear_value x); revert x; intro y hy)
      | (extract_lets +onlyGivenNames x; (try clear_value x); revert x; intro y)
      | (with_reducible apply kept_sendRecordOn)
      | split
      | (with_reducible (refine Kept.mk ?_ ?_ ?_ ?_ ?_ <;> dsimp only <;> first | exact Kept.queue ‹_› | exact Kept.mem ‹_› | exact Kept.regs ‹_› | exact Kept.stalls ‹_› | exact Kept.units ‹_›))

theorem kept_commandedSwitchover {s} (h0 : Kept q s) : Kept q (commandedSwitchover s) := by
  unfold commandedSwitchover
  repeat'
    first
      | (with_reducible assumption)
      | (with_reducible apply kept_becomeStandby)
      | (with_reducible apply kept_switchDone)
      | (with_reducible apply kept_becomeMain)
      | (with_reducible apply kept_switchCancel)
      | split

theorem kept_execCommandedSwitchover {s} (h0 : Kept q s) : KeptR q (execCommandedSwitchover s) := by
  unfold execCommandedSwitchover
  refine keptR_next ?_
  repeat'
    first
      | (with_reducible assumption)
      | (with_reducible apply kept_commandedSwitchover)

theorem kept_switchover {a0 s} (h1 : Kept q s) : KeptV q (switchover a0 s) := by
  unfold switchover
  repeat'
    first
      | (with_reducible assumption)
      | (with_reducible apply keptV_shaped)
      | (with_reducible apply keptV_need)
      | (with_reducible apply keptV_okRep)
      | (with_reducible apply kept_sendRecordOn)
      | split
      | (with_reducible (refine Kept.mk ?_ ?_ ?_ ?_ ?_ <;> dsimp only <;> first | exact Kept.queue ‹_› | exact Kept.mem ‹_› | exact Kept.regs ‹_› | exact Kept.stalls ‹_› | exact Kept.units ‹_›))

theorem kept_execSwitchover {a0 s} (h1 : Kept q s) : KeptR q (execSwitchover a0 s) := by
  unfold execSwitchover
  refine keptR_next ?_
  repeat'
    first
      | (with_reducible assumption)
      | (refine kept_serve (fun _ _ => ?_) ?_)
      | (with_reducible apply kept_switchover)

theorem kept_pairSwitch {s} (h : Kept q s) : Kept q (pairSwitch s) := by
  unfold pairSwitch
  split
  · exact h
  · have h := kept_takePair h ‹takePair _ _ = some (_, _)›
    dsimp only
    exact kept_ite (kept_pairField h) (kept_ite (kept_pairField h) (kept_switchCancel (kept_pairField h)))

theorem kept_execPairSwitch {s} (h0 : Kept q s) : KeptR q (execPairSwitch s) := by
  unfold execPairSwitch
  refine keptR_next ?_
  repeat'
    first
      | (with_reducible assumption)
      | (with_reducible apply kept_pairSwitch)

theorem kept_pairSwitchDone {s} (h0 : Kept q s) : Kept q (pairSwitchDone s) := by
  unfold pairSwitchDone
  repeat'
    first
      | (with_reducible assumption)
      | (refine kept_takePair ?_ ‹takePair _ _ = some (_, _)›)
      | (with_reducible apply kept_switchCancel)
      | split

theorem kept_execPairSwitchDone {s} (h0 : Kept q s) : KeptR q (execPairSwitchDone s) := by
  unfold execPairSwitchDone
  refine keptR_next ?_
  repeat'
    first
      | (with_reducible assumption)
      | (with_reducible apply kept_pairSwitchDone)

theorem kept_pairSenseHigh {s} (h0 : Kept q s) : Kept q (pairSenseHigh s) := by
  unfold pairSenseHigh
  repeat'
    first
      | (with_reducible assumption)
      | (extract_lets +onlyGivenNames x; refine (fun (hx : Kept q x) => ?_) ?_; (rotate_left; unfold x; clear x; rotate_left); (try clear_value x); revert x; intro y hy)
      | (with_reducible apply kept_setBit)
      | (with_reducible apply kept_presentAgain)
      | (with_reducible apply kept_ampsGiveUp)
      | (with_reducible apply kept_setPend)
      | (with_reducible apply kept_ite)
      | (with_reducible (refine Kept.mk ?_ ?_ ?_ ?_ ?_ <;> dsimp only <;> first | exact Kept.queue ‹_› | exact Kept.mem ‹_› | exact Kept.regs ‹_› | exact Kept.stalls ‹_› | exact Kept.units ‹_›))

theorem kept_execPairSenseHigh {s} (h0 : Kept q s) : KeptR q (execPairSenseHigh s) := by
  unfold execPairSenseHigh
  refine keptR_next ?_
  repeat'
    first
      | (with_reducible assumption)
      | (with_reducible apply kept_pairSenseHigh)

theorem kept_standbyRecordLoss {s} (h0 : Kept q s) : Kept q (standbyRecordLoss s) := by
  unfold standbyRecordLoss
  repeat'
    first
      | (with_reducible assumption)
      | (with_reducible apply kept_raise)
      | (with_reducible apply kept_ite)
      | (with_reducible (refine Kept.mk ?_ ?_ ?_ ?_ ?_ <;> dsimp only <;> first | exact Kept.queue ‹_› | exact Kept.mem ‹_› | exact Kept.regs ‹_› | exact Kept.stalls ‹_› | exact Kept.units ‹_›))

theorem kept_execStandbyRecordLoss {s} (h0 : Kept q s) : KeptR q (execStandbyRecordLoss s) := by
  unfold execStandbyRecordLoss
  refine keptR_next ?_
  repeat'
    first
      | (with_reducible assumption)
      | (with_reducible apply kept_standbyRecordLoss)

theorem kept_diverge {a0 s} (h1 : Kept q s) : Kept q (diverge a0 s) := by
  unfold diverge
  repeat'
    first
      | (with_reducible assumption)
      | (with_reducible apply kept_setBit)
      | (with_reducible apply kept_countFld)
      | (with_reducible apply kept_raise)
      | (with_reducible apply kept_setPair)

theorem kept_standbyCompare {a0 s} (h1 : Kept q s) : Kept q (standbyCompare a0 s) := by
  unfold standbyCompare
  repeat'
    first
      | (with_reducible assumption)
      | (extract_lets +onlyGivenNames x; refine (fun (hx : Kept q x) => ?_) ?_; (rotate_left; unfold x; clear x; rotate_left); (try clear_value x); revert x; intro y hy)
      | (extract_lets +onlyGivenNames x; (try clear_value x); revert x; intro y)
      | (with_reducible apply kept_countFld)
      | (with_reducible apply kept_setPairState)
      | (with_reducible apply kept_switchCancel)
      | (with_reducible apply kept_diverge)
      | (with_reducible apply kept_acquireStart)
      | split
      | (with_reducible (refine Kept.mk ?_ ?_ ?_ ?_ ?_ <;> dsimp only <;> first | exact Kept.queue ‹_› | exact Kept.mem ‹_› | exact Kept.regs ‹_› | exact Kept.stalls ‹_› | exact Kept.units ‹_›))

theorem kept_mainCompare {a0 s} (h1 : Kept q s) : Kept q (mainCompare a0 s) := by
  unfold mainCompare
  repeat'
    first
      | (with_reducible assumption)
      | (extract_lets +onlyGivenNames x; refine (fun (hx : Kept q x) => ?_) ?_; (rotate_left; unfold x; clear x; rotate_left); (try clear_value x); revert x; intro y hy)
      | (extract_lets +onlyGivenNames x; (try clear_value x); revert x; intro y)
      | (with_reducible apply kept_diverge)
      | split
      | (with_reducible (refine Kept.mk ?_ ?_ ?_ ?_ ?_ <;> dsimp only <;> first | exact Kept.queue ‹_› | exact Kept.mem ‹_› | exact Kept.regs ‹_› | exact Kept.stalls ‹_› | exact Kept.units ‹_›))

theorem kept_copyCheck {s} (h0 : Kept q s) : Kept q (copyCheck s) := by
  unfold copyCheck
  repeat'
    first
      | (with_reducible assumption)
      | (with_reducible apply kept_copyStart)
      | split

theorem kept_pairBoundary {a0 a1 s} (h2 : Kept q s) : Kept q (pairBoundary a0 a1 s) := by
  unfold pairBoundary
  repeat'
    first
      | (with_reducible assumption)
      | (with_reducible apply kept_mainCompare)
      | (with_reducible apply kept_standbyCompare)
      | (with_reducible apply kept_copyCheck)
      | (with_reducible apply kept_senseLow)
      | (with_reducible apply kept_ite)

/-! ### Reset -/

theorem listed_spec {a w y} (h : listed a w = some y) : y.1 = a ∧ y.2 ≠ regDefault y.1 := by
  unfold listed at h
  split at h
  · cases h
  · cases h
    exact ⟨rfl, ‹_›⟩

theorem wf_keptRegs {por dark s} (h : Kept q s) : smapWf regDefault (keptRegs por dark s) = true :=
  smapWf_filterMap _ _ (fun _ _ _ e => listed_spec e) _ h.regs

theorem kept_domainsReset {por dark s} (h : Kept q s) : Kept q (domainsReset por dark s) :=
  kept_setFld ⟨h.queue, h.mem, wf_keptRegs h, rfl, rfl⟩

theorem kept_setCause {a0 s} (h1 : Kept q s) : Kept q (setCause a0 s) := by
  unfold setCause
  repeat'
    first
      | (with_reducible assumption)
      | (with_reducible apply kept_setFld)

theorem kept_showModeNow {a0 s} (h1 : Kept q s) : Kept q (showModeNow a0 s) := by
  unfold showModeNow
  repeat'
    first
      | (with_reducible apply kept_setFld)
      | (with_reducible (refine Kept.mk ?_ ?_ ?_ ?_ ?_ <;> dsimp only <;> first | exact Kept.queue ‹_› | exact Kept.mem ‹_› | exact Kept.regs ‹_› | exact Kept.stalls ‹_› | exact Kept.units ‹_›))

theorem kept_engineReset {a0 a1 a2 s} (h3 : Kept q s) : Kept q (engineReset a0 a1 a2 s) := by
  unfold engineReset
  repeat'
    first
      | (with_reducible assumption)
      | (extract_lets +onlyGivenNames x; refine (fun (hx : Kept q x) => ?_) ?_; (rotate_left; unfold x; clear x; rotate_left); (try clear_value x); revert x; intro y hy)
      | (extract_lets +onlyGivenNames x; (try clear_value x); revert x; intro y)
      | (with_reducible apply kept_setCause)
      | (with_reducible apply kept_domainsReset)
      | (with_reducible apply kept_showModeNow)
      | (with_reducible apply kept_ite)
      | (with_reducible (refine Kept.mk ?_ ?_ ?_ ?_ ?_ <;> dsimp only <;> first | exact Kept.queue ‹_› | exact Kept.mem ‹_› | exact Kept.regs ‹_› | exact Kept.stalls ‹_› | exact Kept.units ‹_›))

theorem kept_releaseHold {s} (h0 : Kept q s) : Kept q (releaseHold s) := by
  unfold releaseHold
  repeat'
    first
      | (with_reducible assumption)
      | (with_reducible apply kept_ite)
      | (with_reducible (refine Kept.mk ?_ ?_ ?_ ?_ ?_ <;> dsimp only <;> first | exact Kept.queue ‹_› | exact Kept.mem ‹_› | exact Kept.regs ‹_› | exact Kept.stalls ‹_› | exact Kept.units ‹_›))

theorem kept_fgFatal {s} (h0 : Kept q s) : Kept q (fgFatal s) := by
  unfold fgFatal
  repeat'
    first
      | (with_reducible assumption)
      | (with_reducible apply kept_engineReset)
      | (with_reducible apply kept_ite)

theorem kept_execFgFatalReset {s} (h0 : Kept q s) : KeptR q (execFgFatalReset s) := by
  unfold execFgFatalReset
  refine keptR_next ?_
  repeat'
    first
      | (with_reducible assumption)
      | (with_reducible apply kept_fgFatal)

theorem kept_execWdogExpiry {s} (h0 : Kept q s) : KeptR q (execWdogExpiry s) := by
  unfold execWdogExpiry
  refine keptR_next ?_
  repeat'
    first
      | (with_reducible assumption)
      | (with_reducible apply kept_engineReset)
      | (with_reducible apply kept_ite)

theorem kept_execCritErr {a0 s} (h1 : Kept q s) : KeptR q (execCritErr a0 s) := by
  unfold execCritErr
  refine keptR_next ?_
  repeat'
    first
      | (with_reducible assumption)
      | (with_reducible apply kept_engineReset)
      | (with_reducible apply kept_setFld)
      | (with_reducible apply kept_ite)

theorem kept_execSupplyMonitorTrip {s} (h0 : Kept q s) : KeptR q (execSupplyMonitorTrip s) := by
  unfold execSupplyMonitorTrip
  refine keptR_next ?_
  repeat'
    first
      | (with_reducible assumption)
      | (with_reducible apply kept_engineReset)
      | (with_reducible apply kept_ite)

theorem kept_pwrGoodLoss {s} (h0 : Kept q s) : Kept q (pwrGoodLoss s) := by
  unfold pwrGoodLoss
  repeat'
    first
      | (with_reducible assumption)
      | (with_reducible apply kept_clrBit)
      | (with_reducible apply kept_engineReset)
      | (with_reducible apply kept_ite)

theorem kept_execPwrGoodLoss {s} (h0 : Kept q s) : KeptR q (execPwrGoodLoss s) := by
  unfold execPwrGoodLoss
  refine keptR_next ?_
  repeat'
    first
      | (with_reducible assumption)
      | (with_reducible apply kept_pwrGoodLoss)

theorem kept_execThermalTrip {s} (h0 : Kept q s) : KeptR q (execThermalTrip s) := by
  unfold execThermalTrip
  refine keptR_next ?_
  repeat'
    first
      | (with_reducible assumption)
      | (with_reducible apply kept_engineReset)
      | (with_reducible apply kept_ite)
      | (with_reducible (refine Kept.mk ?_ ?_ ?_ ?_ ?_ <;> dsimp only <;> first | exact Kept.queue ‹_› | exact Kept.mem ‹_› | exact Kept.regs ‹_› | exact Kept.stalls ‹_› | exact Kept.units ‹_›))

theorem kept_execThermalTripRelease {s} (h0 : Kept q s) : KeptR q (execThermalTripRelease s) := by
  unfold execThermalTripRelease
  refine keptR_next ?_
  repeat'
    first
      | (with_reducible apply kept_releaseHold)
      | (with_reducible (refine Kept.mk ?_ ?_ ?_ ?_ ?_ <;> dsimp only <;> first | exact Kept.queue ‹_› | exact Kept.mem ‹_› | exact Kept.regs ‹_› | exact Kept.stalls ‹_› | exact Kept.units ‹_›))

theorem kept_resetnPin {a0 a1 a2 s} (h3 : Kept q s) : Kept q (resetnPin a0 a1 a2 s) := by
  unfold resetnPin
  repeat'
    first
      | (with_reducible assumption)
      | (with_reducible apply kept_engineReset)
      | (with_reducible apply kept_releaseHold)
      | (with_reducible apply kept_ite)
      | (with_reducible (refine Kept.mk ?_ ?_ ?_ ?_ ?_ <;> dsimp only <;> first | exact Kept.queue ‹_› | exact Kept.mem ‹_› | exact Kept.regs ‹_› | exact Kept.stalls ‹_› | exact Kept.units ‹_›))

theorem kept_execResetnPin {a0 a1 a2 s} (h3 : Kept q s) : KeptR q (execResetnPin a0 a1 a2 s) := by
  unfold execResetnPin
  refine keptR_next ?_
  repeat'
    first
      | (with_reducible assumption)
      | (with_reducible apply kept_resetnPin)

theorem kept_flashPut {a0 a1 s} (h2 : Kept q s) : Kept q (flashPut a0 a1 s) := by
  unfold flashPut
  repeat'
    first
      | (with_reducible (refine Kept.mk ?_ ?_ ?_ ?_ ?_ <;> dsimp only <;> first | exact Kept.queue ‹_› | exact Kept.mem ‹_› | exact Kept.regs ‹_› | exact Kept.stalls ‹_› | exact Kept.units ‹_›))

theorem kept_loadHeader {a0 s} (h1 : Kept q s) : Kept q (loadHeader a0 s) := by
  unfold loadHeader
  repeat'
    first
      | (with_reducible assumption)
      | (extract_lets +onlyGivenNames x; refine (fun (hx : Kept q x) => ?_) ?_; (rotate_left; unfold x; clear x; rotate_left); (try clear_value x); revert x; intro y hy)
      | (extract_lets +onlyGivenNames x; (try clear_value x); revert x; intro y)
      | (with_reducible apply kept_setFld)
      | (with_reducible apply kept_setBit)
      | (refine kept_forEach (fun _ _ _ => ?_) ?_)
      | (with_reducible apply kept_ite)
      | (with_reducible (refine Kept.mk ?_ ?_ ?_ ?_ ?_ <;> dsimp only <;> first | exact Kept.queue ‹_› | exact Kept.mem ‹_› | exact Kept.regs ‹_› | exact Kept.stalls ‹_› | exact Kept.units ‹_›))

theorem kept_optionLoading {a0 a1 s} (h2 : Kept q s) : Kept q (optionLoading a0 a1 s) := by
  unfold optionLoading
  repeat'
    first
      | (with_reducible assumption)
      | (extract_lets +onlyGivenNames x; refine (fun (hx : Kept q x) => ?_) ?_; (rotate_left; unfold x; clear x; rotate_left); (try clear_value x); revert x; intro y hy)
      | (extract_lets +onlyGivenNames x; (try clear_value x); revert x; intro y)
      | (with_reducible apply kept_setFld)
      | (with_reducible apply kept_loadHeader)
      | (with_reducible apply kept_setBit)
      | (refine kept_forEach (fun _ _ _ => ?_) ?_)
      | (with_reducible apply kept_ite)
      | (with_reducible (refine Kept.mk ?_ ?_ ?_ ?_ ?_ <;> dsimp only <;> first | exact Kept.queue ‹_› | exact Kept.mem ‹_› | exact Kept.regs ‹_› | exact Kept.stalls ‹_› | exact Kept.units ‹_›))

theorem kept_execOptionLoading {a0 a1 s} (h2 : Kept q s) : KeptR q (execOptionLoading a0 a1 s) := by
  unfold execOptionLoading
  refine keptR_next ?_
  repeat'
    first
      | (with_reducible assumption)
      | (with_reducible apply kept_optionLoading)

theorem kept_bootDone {s} (h0 : Kept q s) : Kept q (bootDone s) := by
  unfold bootDone
  repeat'
    first
      | (with_reducible assumption)
      | (with_reducible apply kept_setAmpState)
      | (with_reducible apply kept_modeBecomes)
      | (with_reducible apply kept_raise)
      | (refine kept_forEach (fun _ _ _ => ?_) ?_)
      | (with_reducible apply kept_ite)
      | (with_reducible (refine Kept.mk ?_ ?_ ?_ ?_ ?_ <;> dsimp only <;> first | exact Kept.queue ‹_› | exact Kept.mem ‹_› | exact Kept.regs ‹_› | exact Kept.stalls ‹_› | exact Kept.units ‹_›))

theorem kept_releaseCellar {s} (h : Kept q s) : Kept q (releaseCellar s) := by
  unfold releaseCellar
  have h1 := kept_forEach (l := List.range 8) (f := fun c s => setFld Fld.CELLAR_CH_STATUS_STATE c 2 s) (fun _ _ h => kept_setFld h) h
  revert h1
  generalize forEach _ _ s = x
  intro h1
  exact kept_setBit (kept_ite ⟨h1.queue, smapWf_filter _ _ _ h1.mem, h1.regs, h1.stalls, h1.units⟩ h1)

theorem kept_releaseLocal {s} (h : Kept q s) : Kept q (releaseLocal s) := by
  unfold releaseLocal
  exact kept_ite (kept_setBit ⟨h.queue, smapWf_filter _ _ _ h.mem, h.regs, h.stalls, h.units⟩) (kept_clrBit h)

theorem kept_releaseStep {a0 a1 s} (h2 : Kept q s) : Kept q (releaseStep a0 a1 s) := by
  unfold releaseStep
  repeat'
    first
      | (with_reducible assumption)
      | (extract_lets +onlyGivenNames x; refine (fun (hx : Kept q x) => ?_) ?_; (rotate_left; unfold x; clear x; rotate_left); (try clear_value x); revert x; intro y hy)
      | (extract_lets +onlyGivenNames x; (try clear_value x); revert x; intro y)
      | (with_reducible apply kept_setBit)
      | (with_reducible apply kept_setFld)
      | (with_reducible apply kept_releaseCellar)
      | (with_reducible apply kept_releaseLocal)
      | (with_reducible apply kept_bootDone)
      | (refine kept_forEach (fun _ _ _ => ?_) ?_)
      | split
      | (with_reducible (refine Kept.mk ?_ ?_ ?_ ?_ ?_ <;> dsimp only <;> first | exact Kept.queue ‹_› | exact Kept.mem ‹_› | exact Kept.regs ‹_› | exact Kept.stalls ‹_› | exact Kept.units ‹_›))

theorem kept_execReleaseStep {a0 a1 s} (h2 : Kept q s) : KeptR q (execReleaseStep a0 a1 s) := by
  unfold execReleaseStep
  refine keptR_next ?_
  repeat'
    first
      | (with_reducible assumption)
      | (with_reducible apply kept_releaseStep)

theorem kept_bootDataWrite {a0 s} (h1 : Kept q s) : Kept q (bootDataWrite a0 s) := by
  unfold bootDataWrite
  repeat'
    first
      | (with_reducible assumption)
      | (with_reducible apply kept_ite)
      | (with_reducible (refine Kept.mk ?_ ?_ ?_ ?_ ?_ <;> dsimp only <;> first | exact Kept.queue ‹_› | exact Kept.mem ‹_› | exact Kept.regs ‹_› | exact Kept.stalls ‹_› | exact Kept.units ‹_›))

theorem kept_execBootDataWrite {a0 s} (h1 : Kept q s) : KeptR q (execBootDataWrite a0 s) := by
  unfold execBootDataWrite
  refine keptR_next ?_
  repeat'
    first
      | (with_reducible assumption)
      | (with_reducible apply kept_bootDataWrite)

theorem kept_bootGo {a0 s} (h1 : Kept q s) : Kept q (bootGo a0 s) := by
  unfold bootGo
  repeat'
    first
      | (with_reducible assumption)
      | (with_reducible apply kept_setBit)
      | (with_reducible apply kept_clrBit)
      | (with_reducible apply kept_ite)
      | (with_reducible (refine Kept.mk ?_ ?_ ?_ ?_ ?_ <;> dsimp only <;> first | exact Kept.queue ‹_› | exact Kept.mem ‹_› | exact Kept.regs ‹_› | exact Kept.stalls ‹_› | exact Kept.units ‹_›))

theorem kept_execBootGo {a0 s} (h1 : Kept q s) : KeptR q (execBootGo a0 s) := by
  unfold execBootGo
  refine keptR_next ?_
  repeat'
    first
      | (with_reducible assumption)
      | (with_reducible apply kept_bootGo)

theorem kept_firmwareStart {a0 a1 s} (h2 : Kept q s) : Kept q (firmwareStart a0 a1 s) := by
  unfold firmwareStart
  repeat'
    first
      | (with_reducible assumption)
      | (with_reducible apply kept_bootDone)
      | (with_reducible apply kept_setFld)
      | (with_reducible apply kept_clrBit)
      | (with_reducible apply kept_ite)
      | (with_reducible (refine Kept.mk ?_ ?_ ?_ ?_ ?_ <;> dsimp only <;> first | exact Kept.queue ‹_› | exact Kept.mem ‹_› | exact Kept.regs ‹_› | exact Kept.stalls ‹_› | exact Kept.units ‹_›))

theorem kept_execFirmwareStart {a0 a1 s} (h2 : Kept q s) : KeptR q (execFirmwareStart a0 a1 s) := by
  unfold execFirmwareStart
  refine keptR_next ?_
  repeat'
    first
      | (with_reducible assumption)
      | (with_reducible apply kept_firmwareStart)

theorem kept_closeSources {a0 a1 s} (h2 : Kept q s) : Kept q (closeSources a0 a1 s) := by
  unfold closeSources
  repeat'
    first
      | (with_reducible assumption)
      | (with_reducible apply kept_closeSession)
      | (refine kept_forEach (fun _ _ _ => ?_) ?_)

theorem kept_dropPackets {a0 s} (h1 : Kept q s) : Kept q (dropPackets a0 s) := by
  unfold dropPackets
  repeat'
    first
      | (with_reducible (refine Kept.mk ?_ ?_ ?_ ?_ ?_ <;> dsimp only <;> first | exact Kept.queue ‹_› | exact Kept.mem ‹_› | exact Kept.regs ‹_› | exact Kept.stalls ‹_› | exact Kept.units ‹_›))

theorem kept_noteIso {a0 a1 s} (h2 : Kept q s) : Kept q (noteIso a0 a1 s) := by
  unfold noteIso
  repeat'
    first
      | (with_reducible (refine Kept.mk ?_ ?_ ?_ ?_ ?_ <;> dsimp only <;> first | exact Kept.queue ‹_› | exact Kept.mem ‹_› | exact Kept.regs ‹_› | exact Kept.stalls ‹_› | exact Kept.units ‹_›))

theorem kept_idleUnit {a0 a1 s} (h2 : Kept q s) : Kept q (idleUnit a0 a1 s) := by
  unfold idleUnit
  repeat'
    first
      | (with_reducible assumption)
      | (with_reducible apply kept_noteIso)
      | (with_reducible apply kept_setUnit)
      | (with_reducible apply kept_ite)

theorem kept_stallBlockReset {a0 s} (h1 : Kept q s) : Kept q (stallBlockReset a0 s) := by
  unfold stallBlockReset
  repeat'
    first
      | (with_reducible assumption)
      | (with_reducible apply kept_ledgerAdd)
      | (with_reducible apply kept_dropWaiter)
      | (with_reducible apply kept_idleUnit)
      | (with_reducible apply kept_setStall)
      | (with_reducible apply kept_memPoke)
      | (refine kept_forEach (fun _ _ _ => ?_) ?_)
      | (with_reducible apply kept_ite)

theorem kept_chanBlockReset {a0 a1 s} (h2 : Kept q s) : Kept q (chanBlockReset a0 a1 s) := by
  unfold chanBlockReset
  repeat'
    first
      | (with_reducible assumption)
      | (with_reducible apply kept_ledgerAdd)
      | (with_reducible apply kept_idleUnit)
      | (with_reducible apply kept_setFld)
      | (with_reducible apply kept_ite)

theorem kept_droverBlockReset {a0 a1 a2 s} (h3 : Kept q s) : Kept q (droverBlockReset a0 a1 a2 s) := by
  unfold droverBlockReset
  repeat'
    first
      | (with_reducible assumption)
      | (extract_lets +onlyGivenNames x; refine (fun (hx : Kept q x) => ?_) ?_; (rotate_left; unfold x; clear x; rotate_left); (try clear_value x); revert x; intro y hy)
      | (extract_lets +onlyGivenNames x; (try clear_value x); revert x; intro y)
      | (with_reducible apply kept_programEnd)
      | (with_reducible apply kept_chanBlockReset)
      | (with_reducible apply kept_endJob)
      | (with_reducible apply kept_brewReopen)
      | (refine kept_forEach (fun _ _ _ => ?_) ?_)
      | split

theorem kept_linksBlockReset {a0 s} (h1 : Kept q s) : Kept q (linksBlockReset a0 s) := by
  unfold linksBlockReset
  repeat'
    first
      | (with_reducible assumption)
      | (with_reducible apply kept_clrBit)
      | (with_reducible apply kept_traceFail)
      | (with_reducible apply kept_closeSources)
      | (refine kept_forEach (fun _ _ _ => ?_) ?_)

theorem kept_ampsBlockReset {s} (h0 : Kept q s) : Kept q (ampsBlockReset s) := by
  unfold ampsBlockReset
  repeat'
    first
      | (with_reducible assumption)
      | (extract_lets +onlyGivenNames x; refine (fun (hx : Kept q x) => ?_) ?_; (rotate_left; unfold x; clear x; rotate_left); (try clear_value x); revert x; intro y hy)
      | (extract_lets +onlyGivenNames x; (try clear_value x); revert x; intro y)
      | (with_reducible apply kept_testAbort)
      | (with_reducible apply kept_clrBit)
      | (with_reducible apply kept_setAmpState)
      | (with_reducible apply kept_setAmp)
      | (with_reducible apply kept_setRegWord)
      | (refine kept_forEach (fun _ _ _ => ?_) ?_)
      | (with_reducible (refine Kept.mk ?_ ?_ ?_ ?_ ?_ <;> dsimp only <;> first | exact Kept.queue ‹_› | exact Kept.mem ‹_› | exact Kept.regs ‹_› | exact Kept.stalls ‹_› | exact Kept.units ‹_›))

theorem kept_blockIsolate {a0 a1 a2 s} (h3 : Kept q s) : Kept q (blockIsolate a0 a1 a2 s) := by
  unfold blockIsolate
  repeat'
    first
      | (with_reducible assumption)
      | (extract_lets +onlyGivenNames x; refine (fun (hx : Kept q x) => ?_) ?_; (rotate_left; unfold x; clear x; rotate_left); (try clear_value x); revert x; intro y hy)
      | (extract_lets +onlyGivenNames x; (try clear_value x); revert x; intro y)
      | (with_reducible apply kept_setRegWord)
      | (with_reducible apply kept_noteIso)
      | (with_reducible apply kept_stallBlockReset)
      | (with_reducible apply kept_droverBlockReset)
      | (with_reducible apply kept_linksBlockReset)
      | (with_reducible apply kept_portsReset)
      | (with_reducible apply kept_ampsBlockReset)
      | (with_reducible apply kept_dropPackets)
      | (with_reducible apply kept_closeSources)
      | (refine kept_forEach (fun _ _ _ => ?_) ?_)
      | split
      | (with_reducible (refine Kept.mk ?_ ?_ ?_ ?_ ?_ <;> dsimp only <;> first | exact Kept.queue ‹_› | exact Kept.mem ‹_› | exact Kept.regs ‹_› | exact Kept.stalls ‹_› | exact Kept.units ‹_›))

theorem wf_regsReleased {c rs} (h : smapWf regDefault rs = true) : smapWf regDefault (regsReleased c rs) = true := by
  refine smapWf_filterMap _ _ (fun x y hx e => ?_) _ h
  split at e
  · exact listed_spec e
  · cases e
    exact ⟨rfl, hx⟩

theorem kept_blockRelease {c s} (h : Kept q s) : Kept q (blockRelease c s) := by
  unfold blockRelease
  split
  · exact h
  · dsimp only
    refine kept_ite h ?_
    have h1 := kept_setRegWord (a := 0x514) (w := BitVec.ofNat 32 ((regWord s 1300).toNat - 2 ^ ‹Nat›)) h
    have h2 : Kept q { setRegWord 0x514 (BitVec.ofNat 32 ((regWord s 1300).toNat - 2 ^ ‹Nat›)) s with
        regs := regsReleased c (setRegWord 0x514 (BitVec.ofNat 32 ((regWord s 1300).toNat - 2 ^ ‹Nat›)) s).regs } :=
      ⟨h1.queue, h1.mem, wf_regsReleased h1.regs, h1.stalls, h1.units⟩
    exact kept_ite (kept_forEach (fun _ _ h => kept_setPortState h) h2) (kept_ite (kept_forEach (fun _ _ h => kept_setAmpState h) h2) h2)

theorem kept_execBlockResetRelease {a0 s} (h1 : Kept q s) : KeptR q (execBlockResetRelease a0 s) := by
  unfold execBlockResetRelease
  refine keptR_next ?_
  repeat'
    first
      | (with_reducible assumption)
      | (with_reducible apply kept_blockRelease)

theorem kept_execPcieFlr {a0 s} (h1 : Kept q s) : KeptR q (execPcieFlr a0 s) := by
  unfold execPcieFlr
  refine keptR_next ?_
  repeat'
    first
      | (with_reducible assumption)
      | (with_reducible apply kept_blockIsolate)

theorem kept_resetCmd {a0 s} (h1 : Kept q s) : KeptV q (resetCmd a0 s) := by
  unfold resetCmd
  repeat'
    first
      | (with_reducible apply hy)
      | (with_reducible apply keptV_shaped)
      | (with_reducible apply keptV_need)
      | (with_reducible apply keptV_okRep)
      | (with_reducible (refine Kept.mk ?_ ?_ ?_ ?_ ?_ <;> dsimp only <;> first | exact Kept.queue ‹_› | exact Kept.mem ‹_› | exact Kept.regs ‹_› | exact Kept.stalls ‹_› | exact Kept.units ‹_›))

theorem kept_execReset {a0 s} (h1 : Kept q s) : KeptR q (execReset a0 s) := by
  unfold execReset
  refine keptR_next ?_
  repeat'
    first
      | (with_reducible assumption)
      | (refine kept_serve (fun _ _ => ?_) ?_)
      | (with_reducible apply kept_resetCmd)

theorem kept_resetStart {a0 a1 s} (h2 : Kept q s) : Kept q (resetStart a0 a1 s) := by
  unfold resetStart
  repeat'
    first
      | (with_reducible assumption)
      | (with_reducible apply kept_engineReset)
      | (with_reducible apply kept_blockIsolate)
      | split
      | (with_reducible (refine Kept.mk ?_ ?_ ?_ ?_ ?_ <;> dsimp only <;> first | exact Kept.queue ‹_› | exact Kept.mem ‹_› | exact Kept.regs ‹_› | exact Kept.stalls ‹_› | exact Kept.units ‹_›))

theorem kept_execResetStart {a0 a1 s} (h2 : Kept q s) : KeptR q (execResetStart a0 a1 s) := by
  unfold execResetStart
  refine keptR_next ?_
  repeat'
    first
      | (with_reducible assumption)
      | (with_reducible apply kept_resetStart)

theorem kept_resetCauseCmd {a0 s} (h1 : Kept q s) : KeptV q (resetCauseCmd a0 s) := by
  unfold resetCauseCmd
  repeat'
    first
      | (with_reducible assumption)
      | (with_reducible apply keptV_shaped)
      | (with_reducible apply keptV_need)
      | (with_reducible apply keptV_okRep)
      | (with_reducible apply kept_setFld)
      | (with_reducible apply kept_ite)

theorem kept_execResetCause {a0 s} (h1 : Kept q s) : KeptR q (execResetCause a0 s) := by
  unfold execResetCause
  refine keptR_next ?_
  repeat'
    first
      | (with_reducible assumption)
      | (refine kept_serve (fun _ _ => ?_) ?_)
      | (with_reducible apply kept_resetCauseCmd)

/-! ### PowerPath -/

theorem kept_bkSecHiWrite {a0 a1 s} (h2 : Kept q s) : Kept q (bkSecHiWrite a0 a1 s) := by
  unfold bkSecHiWrite
  repeat'
    first
      | (with_reducible (refine Kept.mk ?_ ?_ ?_ ?_ ?_ <;> dsimp only <;> first | exact Kept.queue ‹_› | exact Kept.mem ‹_› | exact Kept.regs ‹_› | exact Kept.stalls ‹_› | exact Kept.units ‹_›))

theorem kept_execBkSecHiWrite {a0 a1 s} (h2 : Kept q s) : KeptR q (execBkSecHiWrite a0 a1 s) := by
  unfold execBkSecHiWrite
  refine keptR_next ?_
  repeat'
    first
      | (with_reducible assumption)
      | (with_reducible apply kept_bkSecHiWrite)
      | (with_reducible apply kept_ite)

theorem kept_bkAlarmMatch {a0 s} (h1 : Kept q s) : Kept q (bkAlarmMatch a0 s) := by
  unfold bkAlarmMatch
  repeat'
    first
      | (with_reducible apply kept_wake)
      | (with_reducible apply kept_ite)
      | (with_reducible (refine Kept.mk ?_ ?_ ?_ ?_ ?_ <;> dsimp only <;> first | exact Kept.queue ‹_› | exact Kept.mem ‹_› | exact Kept.regs ‹_› | exact Kept.stalls ‹_› | exact Kept.units ‹_›))

theorem kept_execBkAlarmMatch {a0 s} (h1 : Kept q s) : KeptR q (execBkAlarmMatch a0 s) := by
  unfold execBkAlarmMatch
  refine keptR_next ?_
  repeat'
    first
      | (with_reducible assumption)
      | (with_reducible apply kept_bkAlarmMatch)

theorem kept_vaonLoss {s} (h0 : Kept q s) : Kept q (vaonLoss s) := by
  unfold vaonLoss
  repeat'
    first
      | (with_reducible assumption)
      | (extract_lets +onlyGivenNames x; refine (fun (hx : Kept q x) => ?_) ?_; (rotate_left; unfold x; clear x; rotate_left); (try clear_value x); revert x; intro y hy)
      | (with_reducible apply kept_domainsReset)
      | (with_reducible apply kept_showModeNow)
      | (with_reducible (refine Kept.mk ?_ ?_ ?_ ?_ ?_ <;> dsimp only <;> first | exact Kept.queue ‹_› | exact Kept.mem ‹_› | exact Kept.regs ‹_› | exact Kept.stalls ‹_› | exact Kept.units ‹_›))

theorem kept_execVaonLoss {s} (h0 : Kept q s) : KeptR q (execVaonLoss s) := by
  unfold execVaonLoss
  refine keptR_next ?_
  repeat'
    first
      | (with_reducible assumption)
      | (with_reducible apply kept_vaonLoss)
      | (with_reducible apply kept_ite)

theorem kept_vaonReturn {a0 a1 s} (h2 : Kept q s) : Kept q (vaonReturn a0 a1 s) := by
  unfold vaonReturn
  repeat'
    first
      | (with_reducible assumption)
      | (extract_lets +onlyGivenNames x; refine (fun (hx : Kept q x) => ?_) ?_; (rotate_left; unfold x; clear x; rotate_left); (try clear_value x); revert x; intro y hy)
      | (with_reducible apply kept_setCause)
      | (with_reducible apply kept_domainsReset)
      | (with_reducible apply kept_showModeNow)
      | (with_reducible apply kept_wake)
      | (with_reducible apply kept_ite)
      | (with_reducible (refine Kept.mk ?_ ?_ ?_ ?_ ?_ <;> dsimp only <;> first | exact Kept.queue ‹_› | exact Kept.mem ‹_› | exact Kept.regs ‹_› | exact Kept.stalls ‹_› | exact Kept.units ‹_›))

theorem kept_execVaonReturn {a0 a1 s} (h2 : Kept q s) : KeptR q (execVaonReturn a0 a1 s) := by
  unfold execVaonReturn
  refine keptR_next ?_
  repeat'
    first
      | (with_reducible assumption)
      | (with_reducible apply kept_vaonReturn)
      | (with_reducible apply kept_ite)

theorem kept_vbakLoss {s} (h0 : Kept q s) : Kept q (vbakLoss s) := by
  unfold vbakLoss
  repeat'
    first
      | (with_reducible apply kept_setRegWord)
      | (with_reducible (refine Kept.mk ?_ ?_ ?_ ?_ ?_ <;> dsimp only <;> first | exact Kept.queue ‹_› | exact Kept.mem ‹_› | exact Kept.regs ‹_› | exact Kept.stalls ‹_› | exact Kept.units ‹_›))

theorem kept_execVbakLoss {s} (h0 : Kept q s) : KeptR q (execVbakLoss s) := by
  unfold execVbakLoss
  refine keptR_next ?_
  repeat'
    first
      | (with_reducible assumption)
      | (with_reducible apply kept_vbakLoss)
      | (with_reducible apply kept_ite)

theorem kept_execWakenPin {s} (h0 : Kept q s) : KeptR q (execWakenPin s) := by
  unfold execWakenPin
  refine keptR_next ?_
  repeat'
    first
      | (with_reducible assumption)
      | (with_reducible apply kept_wake)
      | (with_reducible apply kept_ite)

theorem kept_execSpiWake {s} (h0 : Kept q s) : KeptR q (execSpiWake s) := by
  unfold execSpiWake
  refine keptR_next ?_
  repeat'
    first
      | (with_reducible assumption)
      | (with_reducible apply kept_wake)
      | (with_reducible apply kept_ite)

theorem kept_execLaneSignalWake {a0 s} (h1 : Kept q s) : KeptR q (execLaneSignalWake a0 s) := by
  unfold execLaneSignalWake
  refine keptR_next ?_
  repeat'
    first
      | (with_reducible assumption)
      | (with_reducible apply kept_wake)
      | (with_reducible apply kept_ite)

theorem kept_pwrGood {s} (h0 : Kept q s) : Kept q (pwrGood s) := by
  unfold pwrGood
  repeat'
    first
      | (with_reducible assumption)
      | (extract_lets +onlyGivenNames x; refine (fun (hx : Kept q x) => ?_) ?_; (rotate_left; unfold x; clear x; rotate_left); (try clear_value x); revert x; intro y hy)
      | (with_reducible apply kept_setBit)
      | (with_reducible apply kept_releaseHold)
      | (with_reducible apply kept_ite)
      | (with_reducible (refine Kept.mk ?_ ?_ ?_ ?_ ?_ <;> dsimp only <;> first | exact Kept.queue ‹_› | exact Kept.mem ‹_› | exact Kept.regs ‹_› | exact Kept.stalls ‹_› | exact Kept.units ‹_›))

theorem kept_execPwrGood {s} (h0 : Kept q s) : KeptR q (execPwrGood s) := by
  unfold execPwrGood
  refine keptR_next ?_
  repeat'
    first
      | (with_reducible assumption)
      | (with_reducible apply kept_pwrGood)

theorem kept_pwrGapEnd {s} (h0 : Kept q s) : Kept q (pwrGapEnd s) := by
  unfold pwrGapEnd
  repeat'
    first
      | (with_reducible assumption)
      | (extract_lets +onlyGivenNames x; refine (fun (hx : Kept q x) => ?_) ?_; (rotate_left; unfold x; clear x; rotate_left); (try clear_value x); revert x; intro y hy)
      | (with_reducible apply kept_pwrGood)
      | (with_reducible apply kept_domainsReset)
      | (with_reducible apply kept_showModeNow)
      | (with_reducible apply kept_clrBit)
      | (with_reducible apply kept_ite)
      | (with_reducible (refine Kept.mk ?_ ?_ ?_ ?_ ?_ <;> dsimp only <;> first | exact Kept.queue ‹_› | exact Kept.mem ‹_› | exact Kept.regs ‹_› | exact Kept.stalls ‹_› | exact Kept.units ‹_›))

theorem kept_execPwrGapEnd {s} (h0 : Kept q s) : KeptR q (execPwrGapEnd s) := by
  unfold execPwrGapEnd
  refine keptR_next ?_
  repeat'
    first
      | (with_reducible assumption)
      | (with_reducible apply kept_pwrGapEnd)

theorem kept_execPgoodTimeout {s} (h0 : Kept q s) : KeptR q (execPgoodTimeout s) := by
  unfold execPgoodTimeout
  refine keptR_next ?_
  repeat'
    first
      | (with_reducible assumption)
      | (with_reducible apply kept_setBit)
      | (with_reducible apply kept_ite)
      | (with_reducible (refine Kept.mk ?_ ?_ ?_ ?_ ?_ <;> dsimp only <;> first | exact Kept.queue ‹_› | exact Kept.mem ‹_› | exact Kept.regs ‹_› | exact Kept.stalls ‹_› | exact Kept.units ‹_›))

theorem kept_vaultRead {a0 s} (h1 : Kept q s) : KeptV q (vaultRead a0 s) := by
  unfold vaultRead
  repeat'
    first
      | (with_reducible assumption)
      | (with_reducible apply keptV_shaped)
      | (with_reducible apply keptV_need)
      | (with_reducible apply keptV_okRep)

theorem kept_execVaultRead {a0 s} (h1 : Kept q s) : KeptR q (execVaultRead a0 s) := by
  unfold execVaultRead
  refine keptR_next ?_
  repeat'
    first
      | (with_reducible assumption)
      | (refine kept_serve (fun _ _ => ?_) ?_)
      | (with_reducible apply kept_vaultRead)

theorem kept_vaultPut {a0 a1 s} (h2 : Kept q s) : Kept q (vaultPut a0 a1 s) := by
  unfold vaultPut
  repeat'
    first
      | (with_reducible (refine Kept.mk ?_ ?_ ?_ ?_ ?_ <;> dsimp only <;> first | exact Kept.queue ‹_› | exact Kept.mem ‹_› | exact Kept.regs ‹_› | exact Kept.stalls ‹_› | exact Kept.units ‹_›))

theorem kept_vaultWrite {a0 s} (h1 : Kept q s) : KeptV q (vaultWrite a0 s) := by
  unfold vaultWrite
  repeat'
    first
      | (with_reducible assumption)
      | (with_reducible apply keptV_need)
      | (with_reducible apply keptV_okRep)
      | (with_reducible apply kept_vaultPut)

theorem kept_execVaultWrite {a0 s} (h1 : Kept q s) : KeptR q (execVaultWrite a0 s) := by
  unfold execVaultWrite
  refine keptR_next ?_
  repeat'
    first
      | (with_reducible assumption)
      | (refine kept_serve (fun _ _ => ?_) ?_)
      | (with_reducible apply kept_vaultWrite)

theorem kept_flashWrite {a0 a1 s} (h2 : Kept q s) : KeptV q (flashWrite a0 a1 s) := by
  unfold flashWrite
  repeat'
    first
      | (with_reducible assumption)
      | (with_reducible apply keptV_need)
      | (refine keptV_startJob (fun _ _ _ => ?_) ?_)

theorem kept_execFlashWrite {a0 a1 s} (h2 : Kept q s) : KeptR q (execFlashWrite a0 a1 s) := by
  unfold execFlashWrite
  refine keptR_next ?_
  repeat'
    first
      | (with_reducible assumption)
      | (refine kept_serve (fun _ _ => ?_) ?_)
      | (with_reducible apply kept_flashWrite)

theorem kept_flashFinish {a0 a1 a2 a3 s} (h4 : Kept q s) : Kept q (flashFinish a0 a1 a2 a3 s) := by
  unfold flashFinish
  repeat'
    first
      | (with_reducible assumption)
      | (with_reducible apply kept_endJob)
      | (with_reducible apply kept_flashPut)
      | (with_reducible apply kept_ite)

theorem kept_flashRead {a0 a1 s} (h2 : Kept q s) : KeptV q (flashRead a0 a1 s) := by
  unfold flashRead
  repeat'
    first
      | (with_reducible assumption)
      | (with_reducible apply keptV_shaped)
      | (with_reducible apply keptV_need)
      | (with_reducible apply keptV_okRep)

theorem kept_execFlashRead {a0 a1 s} (h2 : Kept q s) : KeptR q (execFlashRead a0 a1 s) := by
  unfold execFlashRead
  refine keptR_next ?_
  repeat'
    first
      | (with_reducible assumption)
      | (refine kept_serve (fun _ _ => ?_) ?_)
      | (with_reducible apply kept_flashRead)

theorem kept_fwActivate {a0 a1 s} (h2 : Kept q s) : KeptV q (fwActivate a0 a1 s) := by
  unfold fwActivate
  repeat'
    first
      | (with_reducible assumption)
      | (with_reducible apply keptV_shaped)
      | (with_reducible apply keptV_need)
      | (with_reducible apply kept_flashPut)
      | (with_reducible apply keptV_okRep)

theorem kept_execFwActivate {a0 a1 s} (h2 : Kept q s) : KeptR q (execFwActivate a0 a1 s) := by
  unfold execFwActivate
  refine keptR_next ?_
  repeat'
    first
      | (with_reducible assumption)
      | (refine kept_serve (fun _ _ => ?_) ?_)
      | (with_reducible apply kept_fwActivate)

/-! ### StallDebug -/

theorem kept_haltReq {s} (h0 : Kept q s) : Kept q (haltReq s) := by
  unfold haltReq
  repeat'
    first
      | (with_reducible assumption)
      | (with_reducible apply kept_setStall)
      | (with_reducible apply kept_setBit)
      | (with_reducible apply kept_ite)

theorem kept_execHaltReq {s} (h0 : Kept q s) : KeptR q (execHaltReq s) := by
  unfold execHaltReq
  refine keptR_next ?_
  repeat'
    first
      | (with_reducible assumption)
      | (with_reducible apply kept_haltReq)

theorem kept_debugStep {s} (h0 : Kept q s) : Kept q (debugStep s) := by
  unfold debugStep
  repeat'
    first
      | (with_reducible assumption)
      | (with_reducible apply kept_setStall)
      | (with_reducible apply kept_ite)

theorem kept_execStep {s} (h0 : Kept q s) : KeptR q (execStep s) := by
  unfold execStep
  refine keptR_next ?_
  repeat'
    first
      | (with_reducible assumption)
      | (with_reducible apply kept_debugStep)

theorem kept_debugResume {s} (h0 : Kept q s) : Kept q (debugResume s) := by
  unfold debugResume
  repeat'
    first
      | (with_reducible assumption)
      | (with_reducible apply kept_setStall)
      | (with_reducible apply kept_ite)

theorem kept_execResume {s} (h0 : Kept q s) : KeptR q (execResume s) := by
  unfold execResume
  refine keptR_next ?_
  repeat'
    first
      | (with_reducible assumption)
      | (with_reducible apply kept_debugResume)

theorem kept_dbgAccess {a0 s} (h1 : Kept q s) : Kept q (dbgAccess a0 s) := by
  unfold dbgAccess
  repeat'
    first
      | (with_reducible assumption)
      | (extract_lets +onlyGivenNames x; refine (fun (hx : Kept q x) => ?_) ?_; (rotate_left; unfold x; clear x; rotate_left); (try clear_value x); revert x; intro y hy)
      | (extract_lets +onlyGivenNames x; (try clear_value x); revert x; intro y)
      | (with_reducible apply kept_setStall)
      | (with_reducible apply kept_setBit)
      | split
      | (with_reducible (refine Kept.mk ?_ ?_ ?_ ?_ ?_ <;> dsimp only <;> first | exact Kept.queue ‹_› | exact Kept.mem ‹_› | exact Kept.regs ‹_› | exact Kept.stalls ‹_› | exact Kept.units ‹_›))

theorem kept_execDbgRegDataAccess {a0 s} (h1 : Kept q s) : KeptR q (execDbgRegDataAccess a0 s) := by
  unfold execDbgRegDataAccess
  refine keptR_next ?_
  repeat'
    first
      | (with_reducible assumption)
      | (with_reducible apply kept_dbgAccess)

/-! ### GuardCmd -/

theorem kept_slackRead {a0 s} (h1 : Kept q s) : KeptV q (slackRead a0 s) := by
  unfold slackRead
  repeat'
    first
      | (with_reducible assumption)
      | (with_reducible apply keptV_shaped)
      | (with_reducible apply keptV_need)
      | (with_reducible apply keptV_okRep)

theorem kept_execSlackRead {a0 s} (h1 : Kept q s) : KeptR q (execSlackRead a0 s) := by
  unfold execSlackRead
  refine keptR_next ?_
  repeat'
    first
      | (with_reducible assumption)
      | (refine kept_serve (fun _ _ => ?_) ?_)
      | (with_reducible apply kept_slackRead)

theorem kept_fgReport {a0 s} (h1 : Kept q s) : KeptV q (fgReport a0 s) := by
  unfold fgReport
  repeat'
    first
      | (with_reducible assumption)
      | (with_reducible apply keptV_shaped)
      | (with_reducible apply keptV_need)
      | (with_reducible apply keptV_okRep)
      | (with_reducible apply kept_clrBit)
      | (with_reducible apply kept_ite)

theorem kept_execFgReport {a0 s} (h1 : Kept q s) : KeptR q (execFgReport a0 s) := by
  unfold execFgReport
  refine keptR_next ?_
  repeat'
    first
      | (with_reducible assumption)
      | (refine kept_serve (fun _ _ => ?_) ?_)
      | (with_reducible apply kept_fgReport)

theorem kept_slackClr {s} (h0 : Kept q s) : Kept q (slackClr s) := by
  unfold slackClr
  repeat'
    first
      | (with_reducible assumption)
      | (with_reducible apply kept_setFld)

theorem kept_execSlackClr {s} (h0 : Kept q s) : KeptR q (execSlackClr s) := by
  unfold execSlackClr
  refine keptR_next ?_
  repeat'
    first
      | (with_reducible assumption)
      | (with_reducible apply kept_slackClr)

theorem kept_rdReset {s} (h0 : Kept q s) : Kept q (rdReset s) := by
  unfold rdReset
  repeat'
    first
      | (with_reducible (refine Kept.mk ?_ ?_ ?_ ?_ ?_ <;> dsimp only <;> first | exact Kept.queue ‹_› | exact Kept.mem ‹_› | exact Kept.regs ‹_› | exact Kept.stalls ‹_› | exact Kept.units ‹_›))

theorem kept_execRdReset {s} (h0 : Kept q s) : KeptR q (execRdReset s) := by
  unfold execRdReset
  refine keptR_next ?_
  repeat'
    first
      | (with_reducible assumption)
      | (with_reducible apply kept_rdReset)

theorem kept_reportDataRead {s} (h0 : Kept q s) : Kept q (reportDataRead s) := by
  unfold reportDataRead
  repeat'
    first
      | split
      | (with_reducible (refine Kept.mk ?_ ?_ ?_ ?_ ?_ <;> dsimp only <;> first | exact Kept.queue ‹_› | exact Kept.mem ‹_› | exact Kept.regs ‹_› | exact Kept.stalls ‹_› | exact Kept.units ‹_›))

theorem kept_execFgReportDataRead {s} (h0 : Kept q s) : KeptR q (execFgReportDataRead s) := by
  unfold execFgReportDataRead
  refine keptR_next ?_
  repeat'
    first
      | (with_reducible assumption)
      | (with_reducible apply kept_reportDataRead)

end Sys2Proof.Machine
end

