-- ==== Sys2Proof/Laws/Kept8.lean ====
section
/-! SUPPORT. The operations of Machine/ Registers, Arbiter, CmdUnits, Meter, FixedStages, Tap, FrameGuard, Frame, Groom keep the queue and the canonical form. -/

namespace Sys2Proof.Machine

variable {q : List Instr}

/-! ### Registers -/

theorem kept_flagCfgErr {a0 s} (h1 : Kept q s) : Kept q (flagCfgErr a0 s) := by
  unfold flagCfgErr
  repeat'
    first
      | (with_reducible assumption)
      | (with_reducible apply kept_setBit)
      | split

theorem kept_pdmStop {a0 a1 a2 s} (h3 : Kept q s) : Kept q (pdmStop a0 a1 a2 s) := by
  unfold pdmStop
  repeat'
    first
      | (with_reducible assumption)
      | (with_reducible apply kept_setPort)

theorem kept_clkoutChanged {a0 a1 a2 s} (h3 : Kept q s) : Kept q (clkoutChanged a0 a1 a2 s) := by
  unfold clkoutChanged
  repeat'
    first
      | (with_reducible assumption)
      | (with_reducible apply kept_clrBit)
      | (with_reducible apply kept_setBit)
      | (with_reducible apply kept_ite)

theorem kept_rxPairCheck {a0 s} (h1 : Kept q s) : Kept q (rxPairCheck a0 s) := by
  unfold rxPairCheck
  repeat'
    first
      | (with_reducible assumption)
      | (with_reducible apply kept_setBit)
      | (with_reducible apply kept_ite)

theorem kept_regChanged {a0 a1 a2 a3 s} (h4 : Kept q s) : Kept q (regChanged a0 a1 a2 a3 s) := by
  unfold regChanged
  repeat'
    first
      | (with_reducible assumption)
      | (with_reducible apply kept_avsLimits)
      | (with_reducible apply kept_ovrSampleInputs)
      | (with_reducible apply kept_selectRef)
      | (with_reducible apply kept_ptpRestart)
      | (with_reducible apply kept_clkoutChanged)
      | (with_reducible apply kept_rxPairCheck)
      | (with_reducible apply kept_pdmStop)
      | (with_reducible apply kept_ampRegChanged)
      | (refine kept_forEach (fun _ _ _ => ?_) ?_)
      | (with_reducible apply kept_ite)

theorem kept_rwApply {a0 a1 a2 a3 a4 a5 s} (h6 : Kept q s) : Kept q (rwApply a0 a1 a2 a3 a4 a5 s) := by
  unfold rwApply
  repeat'
    first
      | (with_reducible assumption)
      | (with_reducible apply kept_flagCfgErr)
      | (with_reducible apply kept_regChanged)
      | (with_reducible apply kept_setRegWord)
      | (with_reducible apply kept_ite)

theorem kept_plainWrite {a0 a1 a2 a3 s} (h4 : Kept q s) : Kept q (plainWrite a0 a1 a2 a3 s) := by
  unfold plainWrite
  repeat'
    first
      | (with_reducible assumption)
      | (with_reducible apply kept_setBit)
      | (with_reducible apply kept_setRegWord)
      | (with_reducible apply kept_rwApply)
      | (with_reducible apply kept_ite)

theorem kept_wdogWrite {a0 s} (h1 : Kept q s) : Kept q (wdogWrite a0 s) := by
  unfold wdogWrite
  repeat'
    first
      | (with_reducible assumption)
      | (with_reducible apply kept_rwApply)

theorem kept_memCtrlWrite {a0 s} (h1 : Kept q s) : Kept q (memCtrlWrite a0 s) := by
  unfold memCtrlWrite
  repeat'
    first
      | (with_reducible assumption)
      | (with_reducible apply kept_rwApply)
      | (with_reducible apply kept_retrainReq)
      | (with_reducible apply kept_ite)

theorem kept_dbgCtrlWrite {a0 s} (h1 : Kept q s) : Kept q (dbgCtrlWrite a0 s) := by
  unfold dbgCtrlWrite
  repeat'
    first
      | (with_reducible assumption)
      | (with_reducible apply kept_rwApply)
      | (with_reducible apply kept_haltReq)
      | (with_reducible apply kept_debugStep)
      | (with_reducible apply kept_debugResume)
      | (with_reducible apply kept_ite)

theorem kept_dbgStickyWrite {a0 s} (h1 : Kept q s) : Kept q (dbgStickyWrite a0 s) := by
  unfold dbgStickyWrite
  repeat'
    first
      | (with_reducible assumption)
      | (with_reducible apply kept_setStall)

theorem kept_ampGctrlWrite {a0 s} (h1 : Kept q s) : Kept q (ampGctrlWrite a0 s) := by
  unfold ampGctrlWrite
  repeat'
    first
      | (with_reducible assumption)
      | (with_reducible apply kept_requireWrite)
      | (with_reducible apply kept_rwApply)

theorem kept_limRegWrite {a0 a1 s} (h2 : Kept q s) : Kept q (limRegWrite a0 a1 s) := by
  unfold limRegWrite
  repeat'
    first
      | (with_reducible assumption)
      | (with_reducible apply kept_limWrite)
      | (with_reducible apply kept_setFld)
      | (with_reducible apply kept_ite)

theorem kept_queuePut {a0 a1 a2 a3 s} (h4 : Kept q s) : Kept q (queuePut a0 a1 a2 a3 s) := by
  unfold queuePut
  repeat'
    first
      | (with_reducible assumption)
      | (with_reducible apply kept_setFld)
      | (with_reducible apply kept_ite)

theorem kept_queueWrite {a0 a1 s} (h2 : Kept q s) : Kept q (queueWrite a0 a1 s) := by
  unfold queueWrite
  repeat'
    first
      | (with_reducible assumption)
      | (with_reducible apply kept_queuePut)
      | (with_reducible apply kept_setFld)
      | (with_reducible apply kept_pcieFlush)
      | (with_reducible apply kept_qpCtrlWrite)
      | (with_reducible apply kept_setRegWord)
      | (refine kept_forEach (fun _ _ _ => ?_) ?_)
      | (with_reducible apply kept_ite)

theorem kept_chanRegWrite {a0 a1 a2 a3 a4 s} (h5 : Kept q s) : Kept q (chanRegWrite a0 a1 a2 a3 a4 s) := by
  unfold chanRegWrite
  repeat'
    first
      | (with_reducible assumption)
      | (with_reducible apply kept_setBit)
      | (with_reducible apply kept_chanStart)
      | (with_reducible apply kept_plainWrite)
      | (with_reducible apply kept_ite)

theorem kept_drvMemWrite {a0 a1 s} (h2 : Kept q s) : Kept q (drvMemWrite a0 a1 s) := by
  unfold drvMemWrite
  repeat'
    first
      | (with_reducible (refine Kept.mk ?_ ?_ ?_ ?_ ?_ <;> dsimp only <;> first | exact Kept.queue ‹_› | exact Kept.mem ‹_› | exact Kept.regs ‹_› | exact Kept.stalls ‹_› | exact Kept.units ‹_›))

theorem kept_regWrite {a0 a1 a2 a3 s} (h4 : Kept q s) : Kept q (regWrite a0 a1 a2 a3 s) := by
  unfold regWrite
  repeat'
    first
      | (with_reducible assumption)
      | (extract_lets +onlyGivenNames x; refine (fun (hx : Kept q x) => ?_) ?_; (rotate_left; unfold x; clear x; rotate_left); (try clear_value x); revert x; intro y hy)
      | (with_reducible apply kept_queueWrite)
      | (with_reducible apply kept_drvMemWrite)
      | (with_reducible apply kept_plainWrite)
      | (with_reducible apply kept_rdReset)
      | (with_reducible apply kept_slackClr)
      | (with_reducible apply kept_wdogWrite)
      | (with_reducible apply kept_bkSecHiWrite)
      | (with_reducible apply kept_bootGo)
      | (with_reducible apply kept_bootDataWrite)
      | (with_reducible apply kept_ovrUnlatch)
      | (with_reducible apply kept_timeSnap)
      | (with_reducible apply kept_portCfgApply)
      | (with_reducible apply kept_ampGctrlWrite)
      | (with_reducible apply kept_limRegWrite)
      | (with_reducible apply kept_chanRegWrite)
      | (with_reducible apply kept_memCtrlWrite)
      | (with_reducible apply kept_bankOwnWrite)
      | (with_reducible apply kept_dbgCtrlWrite)
      | (with_reducible apply kept_dbgStickyWrite)
      | (with_reducible apply kept_dbgAccess)
      | (with_reducible apply kept_ite)
      | split
      | (with_reducible (refine Kept.mk ?_ ?_ ?_ ?_ ?_ <;> dsimp only <;> first | exact Kept.queue ‹_› | exact Kept.mem ‹_› | exact Kept.regs ‹_› | exact Kept.stalls ‹_› | exact Kept.units ‹_›))

theorem kept_readEffect {a0 s} (h1 : Kept q s) : Kept q (readEffect a0 s) := by
  unfold readEffect
  repeat'
    first
      | (with_reducible assumption)
      | (with_reducible apply kept_setFld)
      | (with_reducible apply kept_ite)
      | (with_reducible (refine Kept.mk ?_ ?_ ?_ ?_ ?_ <;> dsimp only <;> first | exact Kept.queue ‹_› | exact Kept.mem ‹_› | exact Kept.regs ‹_› | exact Kept.stalls ‹_› | exact Kept.units ‹_›))

theorem kept_regRead {a0 a1 s} (h2 : Kept q s) : Kept q (regRead a0 a1 s) := by
  unfold regRead
  repeat'
    first
      | (with_reducible assumption)
      | (with_reducible apply kept_reportDataRead)
      | (with_reducible apply kept_dbgAccess)
      | (with_reducible apply kept_readEffect)
      | (with_reducible apply kept_ite)
      | (with_reducible (refine Kept.mk ?_ ?_ ?_ ?_ ?_ <;> dsimp only <;> first | exact Kept.queue ‹_› | exact Kept.mem ‹_› | exact Kept.regs ‹_› | exact Kept.stalls ‹_› | exact Kept.units ‹_›))

theorem kept_masterWrite {a0 a1 a2 a3 s} (h4 : Kept q s) : Kept q (masterWrite a0 a1 a2 a3 s) := by
  unfold masterWrite
  repeat'
    first
      | (with_reducible assumption)
      | (with_reducible apply kept_regWrite)
      | (with_reducible apply kept_xbWrite)
      | (with_reducible apply kept_ite)

theorem kept_masterRead {a0 a1 a2 s} (h3 : Kept q s) : Kept q (masterRead a0 a1 a2 s) := by
  unfold masterRead
  repeat'
    first
      | (with_reducible assumption)
      | (extract_lets +onlyGivenNames x; refine (fun (hx : Kept q x) => ?_) ?_; (rotate_left; unfold x; clear x; rotate_left); (try clear_value x); revert x; intro y hy)
      | (extract_lets +onlyGivenNames x; (try clear_value x); revert x; intro y)
      | (with_reducible apply kept_regRead)
      | (with_reducible apply kept_xbReadEffect)
      | (with_reducible apply kept_ite)
      | (with_reducible (refine Kept.mk ?_ ?_ ?_ ?_ ?_ <;> dsimp only <;> first | exact Kept.queue ‹_› | exact Kept.mem ‹_› | exact Kept.regs ‹_› | exact Kept.stalls ‹_› | exact Kept.units ‹_›))

theorem kept_execRegisterWrite {a0 a1 a2 a3 s} (h4 : Kept q s) : KeptR q (execRegisterWrite a0 a1 a2 a3 s) := by
  unfold execRegisterWrite
  refine keptR_next ?_
  repeat'
    first
      | (with_reducible assumption)
      | (with_reducible apply kept_regWrite)
      | (with_reducible apply kept_masterWrite)
      | (with_reducible apply kept_ite)

theorem kept_execLatchingRead {a0 a1 s} (h2 : Kept q s) : KeptR q (execLatchingRead a0 a1 s) := by
  unfold execLatchingRead
  refine keptR_next ?_
  repeat'
    first
      | (with_reducible assumption)
      | (with_reducible apply kept_regRead)
      | (with_reducible apply kept_masterRead)
      | (with_reducible apply kept_ite)

theorem kept_execEvtRdIndexWrite {a0 s} (h1 : Kept q s) : KeptR q (execEvtRdIndexWrite a0 s) := by
  unfold execEvtRdIndexWrite
  refine keptR_next ?_
  repeat'
    first
      | (with_reducible assumption)
      | (with_reducible apply kept_regWrite)

theorem kept_execEvtDataRead {s} (h0 : Kept q s) : KeptR q (execEvtDataRead s) := by
  unfold execEvtDataRead
  refine keptR_next ?_
  repeat'
    first
      | (with_reducible assumption)
      | (with_reducible apply kept_regRead)

theorem kept_wordsRead {t a n} : ∀ {k s out}, Kept q s → (∀ k' s', wordsRead t a n k s out = .error (k', s') → Kept q s') ∧
    (∀ b s', wordsRead t a n k s out = .ok (b, s') → Kept q s') := by
  induction n with
  | zero => exact fun h => ⟨fun _ _ e => (by cases e), fun _ _ e => by cases e; exact h⟩
  | succ n ih =>
    intro k s out h
    unfold wordsRead
    dsimp only
    split
    · exact ⟨fun _ _ e => (by cases e; exact kept_xbReadEffect h), fun _ _ e => by cases e⟩
    · exact ih (kept_masterRead h)

theorem kept_wordsWrite {t a b n} : ∀ {k s}, Kept q s → (∀ k' s', wordsWrite t a b n k s = .error (k', s') → Kept q s') ∧
    (∀ s', wordsWrite t a b n k s = .ok s' → Kept q s') := by
  induction n with
  | zero => exact fun h => ⟨fun _ _ e => (by cases e), fun _ e => by cases e; exact h⟩
  | succ n ih =>
    intro k s h
    unfold wordsWrite
    dsimp only
    split
    · exact ⟨fun _ _ e => (by cases e; exact kept_xbCount h), fun _ e => by cases e⟩
    · exact ih (kept_masterWrite h)

theorem kept_regReadCmd {a0 a1 s} (h2 : Kept q s) : KeptV q (regReadCmd a0 a1 s) := by
  unfold regReadCmd
  repeat'
    first
      | (with_reducible assumption)
      | (extract_lets +onlyGivenNames x; (try clear_value x); revert x; intro y)
      | (with_reducible apply keptV_shaped)
      | (with_reducible apply keptV_need)
      | (refine (kept_wordsRead ?_).1 _ _ ‹wordsRead _ _ _ _ _ _ = Except.error _›)
      | (refine (kept_wordsRead ?_).2 _ _ ‹wordsRead _ _ _ _ _ _ = Except.ok _›)
      | (with_reducible apply keptV_okRep)
      | (with_reducible apply keptV_ok)
      | split

theorem kept_execRegRead {a0 a1 s} (h2 : Kept q s) : KeptR q (execRegRead a0 a1 s) := by
  unfold execRegRead
  refine keptR_next ?_
  repeat'
    first
      | (with_reducible assumption)
      | (refine kept_serve (fun _ _ => ?_) ?_)
      | (with_reducible apply kept_regReadCmd)

theorem kept_regWriteCmd {a0 a1 s} (h2 : Kept q s) : KeptV q (regWriteCmd a0 a1 s) := by
  unfold regWriteCmd
  repeat'
    first
      | (with_reducible assumption)
      | (with_reducible apply keptV_errRep)
      | (with_reducible apply keptV_shaped)
      | (with_reducible apply keptV_need)
      | (refine (kept_wordsWrite ?_).1 _ _ ‹wordsWrite _ _ _ _ _ _ = Except.error _›)
      | (refine (kept_wordsWrite ?_).2 _ ‹wordsWrite _ _ _ _ _ _ = Except.ok _›)
      | (with_reducible apply keptV_okRep)
      | (with_reducible apply keptV_ok)
      | split

theorem kept_execRegWrite {a0 a1 s} (h2 : Kept q s) : KeptR q (execRegWrite a0 a1 s) := by
  unfold execRegWrite
  refine keptR_next ?_
  repeat'
    first
      | (with_reducible assumption)
      | (refine kept_serve (fun _ _ => ?_) ?_)
      | (with_reducible apply kept_regWriteCmd)

theorem kept_spiWords {t a n} : ∀ {k s out}, Kept q s → Kept q (spiWords t a n k s out) := by
  induction n with
  | zero => exact fun h => kept_sendOut h
  | succ n ih =>
    intro k s out h
    refine ih (kept_ite ?_ (kept_masterRead h))
    have h1 := kept_xbReadEffect (a0 := masterGroom) (a1 := a + 4 * k) (a2 := 4) h
    exact ⟨h1.queue, h1.mem, h1.regs, h1.stalls, h1.units⟩

theorem kept_spiRegRead {a0 a1 a2 s} (h3 : Kept q s) : Kept q (spiRegRead a0 a1 a2 s) := by
  unfold spiRegRead
  repeat'
    first
      | (with_reducible assumption)
      | (with_reducible apply kept_sendOut)
      | (with_reducible apply kept_spiWords)
      | (with_reducible apply kept_ite)
      | (with_reducible (refine Kept.mk ?_ ?_ ?_ ?_ ?_ <;> dsimp only <;> first | exact Kept.queue ‹_› | exact Kept.mem ‹_› | exact Kept.regs ‹_› | exact Kept.stalls ‹_› | exact Kept.units ‹_›))

theorem kept_execSpiRegRead {a0 a1 a2 s} (h3 : Kept q s) : KeptR q (execSpiRegRead a0 a1 a2 s) := by
  unfold execSpiRegRead
  refine keptR_next ?_
  repeat'
    first
      | (with_reducible assumption)
      | (with_reducible apply kept_spiRegRead)

theorem kept_spiRegWrite {a0 a1 a2 s} (h3 : Kept q s) : Kept q (spiRegWrite a0 a1 a2 s) := by
  unfold spiRegWrite
  repeat'
    first
      | (with_reducible assumption)
      | (with_reducible apply kept_xbCount)
      | (with_reducible apply kept_masterWrite)
      | (refine kept_forEach (fun _ _ _ => ?_) ?_)
      | (with_reducible apply kept_ite)
      | (with_reducible (refine Kept.mk ?_ ?_ ?_ ?_ ?_ <;> dsimp only <;> first | exact Kept.queue ‹_› | exact Kept.mem ‹_› | exact Kept.regs ‹_› | exact Kept.stalls ‹_› | exact Kept.units ‹_›))

theorem kept_execSpiRegWrite {a0 a1 a2 s} (h3 : Kept q s) : KeptR q (execSpiRegWrite a0 a1 a2 s) := by
  unfold execSpiRegWrite
  refine keptR_next ?_
  repeat'
    first
      | (with_reducible assumption)
      | (with_reducible apply kept_spiRegWrite)

/-! ### Arbiter -/

theorem kept_chargeLimiter {a0 a1 s} (h2 : Kept q s) : Kept q (chargeLimiter a0 a1 s) := by
  unfold chargeLimiter
  repeat'
    first
      | (with_reducible assumption)
      | (with_reducible apply kept_ite)
      | (with_reducible (refine Kept.mk ?_ ?_ ?_ ?_ ?_ <;> dsimp only <;> first | exact Kept.queue ‹_› | exact Kept.mem ‹_› | exact Kept.regs ‹_› | exact Kept.stalls ‹_› | exact Kept.units ‹_›))

theorem kept_grantTo {a0 a1 a2 s} (h3 : Kept q s) : Kept q (grantTo a0 a1 a2 s) := by
  unfold grantTo
  repeat'
    first
      | (with_reducible (refine Kept.mk ?_ ?_ ?_ ?_ ?_ <;> dsimp only <;> first | exact Kept.queue ‹_› | exact Kept.mem ‹_› | exact Kept.regs ‹_› | exact Kept.stalls ‹_› | exact Kept.units ‹_›))

theorem kept_crossbarGrant {k l t s} (h : Kept q s) : Kept q (crossbarGrant k l t s) := by
  unfold crossbarGrant
  extract_lets p l first charge prio
  have hc : ∀ {o s}, Kept q s → Kept q (charge o s) := fun h => kept_ite (kept_chargeLimiter h) h
  clear_value charge
  split
  · exact kept_grantTo (hc h)
  · split
    · exact kept_grantTo (hc h)
    · exact h

theorem kept_execCrossbarGrant {a0 a1 s} (h2 : Kept q s) : KeptR q (execCrossbarGrant a0 a1 s) := by
  unfold execCrossbarGrant
  refine keptR_next ?_
  repeat'
    first
      | (with_reducible assumption)
      | (with_reducible apply kept_crossbarGrant)

theorem kept_takeBurst {a b s r t} (h : Kept q s) (e : takeBurst a b s = some (r, t)) : Kept q t := by
  unfold takeBurst at e
  obtain ⟨x, -, hx⟩ := Option.map_eq_some_iff.mp e
  cases hx
  exact ⟨h.queue, h.mem, h.regs, h.stalls, h.units⟩

theorem kept_burstError {a0 a1 s} (h2 : Kept q s) : Kept q (burstError a0 a1 s) := by
  unfold burstError
  repeat'
    first
      | (with_reducible assumption)
      | (with_reducible apply kept_countResp)
      | split

theorem kept_burstDone {a0 a1 s} (h2 : Kept q s) : Kept q (burstDone a0 a1 s) := by
  unfold burstDone
  repeat'
    first
      | (with_reducible assumption)
      | (extract_lets +onlyGivenNames x; refine (fun (hx : Kept q x) => ?_) ?_; (rotate_left; unfold x; clear x; rotate_left); (try clear_value x); revert x; intro y hy)
      | (extract_lets +onlyGivenNames x; (try clear_value x); revert x; intro y)
      | (with_reducible apply kept_burstError)
      | (with_reducible apply kept_xbCount)
      | (with_reducible apply kept_regWrite)
      | (with_reducible apply kept_targetWrite)
      | (with_reducible apply kept_regRead)
      | (with_reducible apply kept_xbEccRead)
      | split
      | (with_reducible (refine Kept.mk ?_ ?_ ?_ ?_ ?_ <;> dsimp only <;> first | exact Kept.queue ‹_› | exact Kept.mem ‹_› | exact Kept.regs ‹_› | exact Kept.stalls ‹_› | exact Kept.units ‹_›))

theorem kept_burstResponse {a0 a1 a2 s} (h3 : Kept q s) : Kept q (burstResponse a0 a1 a2 s) := by
  unfold burstResponse
  repeat'
    first
      | (with_reducible assumption)
      | (refine kept_takeBurst ?_ ‹takeBurst _ _ _ = some (_, _)›)
      | (with_reducible apply kept_burstDone)
      | split

theorem kept_execBurstResponse {a0 a1 a2 s} (h3 : Kept q s) : KeptR q (execBurstResponse a0 a1 a2 s) := by
  unfold execBurstResponse
  refine keptR_next ?_
  repeat'
    first
      | (with_reducible assumption)
      | (with_reducible apply kept_burstResponse)

theorem kept_noteTimeout {a0 a1 s} (h2 : Kept q s) : Kept q (noteTimeout a0 a1 s) := by
  unfold noteTimeout
  repeat'
    first
      | (with_reducible assumption)
      | (with_reducible apply kept_raise)
      | (with_reducible apply kept_setBit)
      | (with_reducible apply kept_setFld)
      | (with_reducible apply kept_countFld)

theorem kept_moveTimeout {a0 a1 s} (h2 : Kept q s) : Kept q (moveTimeout a0 a1 s) := by
  unfold moveTimeout
  repeat'
    first
      | (with_reducible assumption)
      | (with_reducible apply kept_countResp)
      | (with_reducible apply kept_noteTimeout)
      | (with_reducible apply kept_setDrover)
      | split

theorem kept_xbTimeout {m k s} (h : Kept q s) : Kept q (xbTimeout m k s) := by
  unfold xbTimeout
  split
  · exact kept_ite (kept_moveTimeout h) h
  · have ht := kept_takeBurst h ‹_›
    exact kept_burstError (kept_noteTimeout ⟨ht.queue, ht.mem, ht.regs, ht.stalls, ht.units⟩)

theorem kept_execXbTimeout {a0 a1 s} (h2 : Kept q s) : KeptR q (execXbTimeout a0 a1 s) := by
  unfold execXbTimeout
  refine keptR_next ?_
  repeat'
    first
      | (with_reducible assumption)
      | (with_reducible apply kept_xbTimeout)

/-! ### CmdUnits -/

theorem kept_cellarReserve {a0 s} (h1 : Kept q s) : KeptV q (cellarReserve a0 s) := by
  unfold cellarReserve
  repeat'
    first
      | (with_reducible apply keptV_shaped)
      | (with_reducible apply keptV_need)
      | (with_reducible apply keptV_errRep)
      | (with_reducible apply keptV_okRep)
      | split
      | (with_reducible (refine Kept.mk ?_ ?_ ?_ ?_ ?_ <;> dsimp only <;> first | exact Kept.queue ‹_› | exact Kept.mem ‹_› | exact Kept.regs ‹_› | exact Kept.stalls ‹_› | exact Kept.units ‹_›))

theorem kept_execCellarReserve {a0 s} (h1 : Kept q s) : KeptR q (execCellarReserve a0 s) := by
  unfold execCellarReserve
  refine keptR_next ?_
  repeat'
    first
      | (with_reducible assumption)
      | (refine kept_serve (fun _ _ => ?_) ?_)
      | (with_reducible apply kept_cellarReserve)

theorem kept_cellarRelease {a0 s} (h1 : Kept q s) : KeptV q (cellarRelease a0 s) := by
  unfold cellarRelease
  repeat'
    first
      | (with_reducible apply keptV_shaped)
      | (with_reducible apply keptV_errRep)
      | (with_reducible apply keptV_okRep)
      | split
      | (with_reducible (refine Kept.mk ?_ ?_ ?_ ?_ ?_ <;> dsimp only <;> first | exact Kept.queue ‹_› | exact Kept.mem ‹_› | exact Kept.regs ‹_› | exact Kept.stalls ‹_› | exact Kept.units ‹_›))

theorem kept_execCellarRelease {a0 s} (h1 : Kept q s) : KeptR q (execCellarRelease a0 s) := by
  unfold execCellarRelease
  refine keptR_next ?_
  repeat'
    first
      | (with_reducible assumption)
      | (refine kept_serve (fun _ _ => ?_) ?_)
      | (with_reducible apply kept_cellarRelease)

theorem kept_cellarRead {a0 s} (h1 : Kept q s) : Kept q (cellarRead a0 s) := by
  unfold cellarRead
  repeat'
    first
      | (with_reducible assumption)
      | (extract_lets +onlyGivenNames x; (try clear_value x); revert x; intro y)
      | (refine kept_taken ?_ ‹taken _ _ _ = some _›)
      | (with_reducible apply kept_answer)
      | (with_reducible apply kept_xbReadEffect)
      | split

theorem kept_execCellarRead {a0 s} (h1 : Kept q s) : KeptR q (execCellarRead a0 s) := by
  unfold execCellarRead
  refine keptR_next ?_
  repeat'
    first
      | (with_reducible assumption)
      | (with_reducible apply kept_cellarRead)

theorem kept_cellarWrite {a0 s} (h1 : Kept q s) : KeptV q (cellarWrite a0 s) := by
  unfold cellarWrite
  repeat'
    first
      | (with_reducible assumption)
      | (with_reducible apply keptV_need)
      | (with_reducible apply keptV_okRep)
      | (with_reducible apply kept_xbWrite)

theorem kept_execCellarWrite {a0 s} (h1 : Kept q s) : KeptR q (execCellarWrite a0 s) := by
  unfold execCellarWrite
  refine keptR_next ?_
  repeat'
    first
      | (with_reducible assumption)
      | (refine kept_serve (fun _ _ => ?_) ?_)
      | (with_reducible apply kept_cellarWrite)
      | (with_reducible apply kept_ite)

theorem kept_cellarCopy {a0 a1 s} (h2 : Kept q s) : KeptV q (cellarCopy a0 a1 s) := by
  unfold cellarCopy
  repeat'
    first
      | (with_reducible assumption)
      | (with_reducible apply keptV_shaped)
      | (with_reducible apply keptV_need)
      | (refine keptV_startJob (fun _ _ _ => ?_) ?_)

theorem kept_execCellarCopy {a0 a1 s} (h2 : Kept q s) : KeptR q (execCellarCopy a0 a1 s) := by
  unfold execCellarCopy
  refine keptR_next ?_
  repeat'
    first
      | (with_reducible assumption)
      | (refine kept_serve (fun _ _ => ?_) ?_)
      | (with_reducible apply kept_cellarCopy)

theorem kept_copyFinish {a0 a1 a2 a3 s} (h4 : Kept q s) : Kept q (copyFinish a0 a1 a2 a3 s) := by
  unfold copyFinish
  repeat'
    first
      | (with_reducible assumption)
      | (with_reducible apply kept_endJob)
      | (with_reducible apply kept_xbWrite)
      | (with_reducible apply kept_xbReadEffect)
      | split

theorem keptV_portAction {r s} {f : Nat → Nat → Nat → State → State} (hf : ∀ a b c s, Kept q s → Kept q (f a b c s)) (h : Kept q s) :
    KeptV q (portAction r f s) := keptV_shaped (keptV_need (keptV_okRep (hf _ _ _ _ h)))

theorem kept_execPortStart {a0 s} (h1 : Kept q s) : KeptR q (execPortStart a0 s) := by
  unfold execPortStart
  refine keptR_next ?_
  repeat'
    first
      | (with_reducible assumption)
      | (refine kept_serve (fun _ _ => ?_) ?_)
      | (refine keptV_portAction (fun _ _ _ _ _ => ?_) ?_)
      | (with_reducible apply kept_portStart)

theorem kept_execPortStop {a0 s} (h1 : Kept q s) : KeptR q (execPortStop a0 s) := by
  unfold execPortStop
  refine keptR_next ?_
  repeat'
    first
      | (with_reducible assumption)
      | (refine kept_serve (fun _ _ => ?_) ?_)
      | (refine keptV_portAction (fun _ _ _ _ _ => ?_) ?_)
      | (with_reducible apply kept_portStop)

theorem kept_portStatus {a0 s} (h1 : Kept q s) : KeptV q (portStatus a0 s) := by
  unfold portStatus
  repeat'
    first
      | (with_reducible assumption)
      | (with_reducible apply keptV_shaped)
      | (with_reducible apply keptV_need)
      | (with_reducible apply keptV_okRep)

theorem kept_execPortStatus {a0 s} (h1 : Kept q s) : KeptR q (execPortStatus a0 s) := by
  unfold execPortStatus
  refine keptR_next ?_
  repeat'
    first
      | (with_reducible assumption)
      | (refine kept_serve (fun _ _ => ?_) ?_)
      | (with_reducible apply kept_portStatus)

theorem kept_overrideCmd {a0 s} (h1 : Kept q s) : KeptV q (overrideCmd a0 s) := by
  unfold overrideCmd
  repeat'
    first
      | (with_reducible assumption)
      | (with_reducible apply keptV_shaped)
      | (with_reducible apply keptV_need)
      | (with_reducible apply keptV_okRep)
      | (with_reducible apply kept_overrideSet)

theorem kept_execOverrideSet {a0 s} (h1 : Kept q s) : KeptR q (execOverrideSet a0 s) := by
  unfold execOverrideSet
  refine keptR_next ?_
  repeat'
    first
      | (with_reducible assumption)
      | (refine kept_serve (fun _ _ => ?_) ?_)
      | (with_reducible apply kept_overrideCmd)

theorem kept_overrideStatus {a0 s} (h1 : Kept q s) : KeptV q (overrideStatus a0 s) := by
  unfold overrideStatus
  repeat'
    first
      | (with_reducible assumption)
      | (with_reducible apply keptV_shaped)
      | (with_reducible apply keptV_okRep)

theorem kept_execOverrideStatus {a0 s} (h1 : Kept q s) : KeptR q (execOverrideStatus a0 s) := by
  unfold execOverrideStatus
  refine keptR_next ?_
  repeat'
    first
      | (with_reducible assumption)
      | (refine kept_serve (fun _ _ => ?_) ?_)
      | (with_reducible apply kept_overrideStatus)

/-! ### Meter -/

theorem kept_meterPeriodEnd {a0 a1 a2 s} (h3 : Kept q s) : Kept q (meterPeriodEnd a0 a1 a2 s) := by
  unfold meterPeriodEnd
  repeat'
    first
      | (with_reducible assumption)
      | (extract_lets +onlyGivenNames x; (try clear_value x); revert x; intro y)
      | (with_reducible apply kept_setMeter)
      | split

theorem kept_execMeterPeriodEnd {a0 a1 a2 s} (h3 : Kept q s) : KeptR q (execMeterPeriodEnd a0 a1 a2 s) := by
  unfold execMeterPeriodEnd
  refine keptR_next ?_
  repeat'
    first
      | (with_reducible assumption)
      | (with_reducible apply kept_meterPeriodEnd)

theorem kept_meterRestart {a0 a1 a2 a3 s} (h4 : Kept q s) : Kept q (meterRestart a0 a1 a2 a3 s) := by
  unfold meterRestart
  repeat'
    first
      | (with_reducible assumption)
      | (with_reducible apply kept_setMeter)

theorem kept_meterRead {a0 s} (h1 : Kept q s) : KeptV q (meterRead a0 s) := by
  unfold meterRead
  repeat'
    first
      | (with_reducible assumption)
      | (extract_lets +onlyGivenNames x; (try clear_value x); revert x; intro y)
      | (with_reducible apply keptV_need)
      | (with_reducible apply keptV_shaped)
      | (with_reducible apply keptV_errRep)
      | (with_reducible apply keptV_okRep)
      | (with_reducible apply kept_meterRestart)
      | (refine kept_forEach (fun _ _ _ => ?_) ?_)
      | split

theorem kept_execMeterRead {a0 s} (h1 : Kept q s) : KeptR q (execMeterRead a0 s) := by
  unfold execMeterRead
  refine keptR_next ?_
  repeat'
    first
      | (with_reducible assumption)
      | (refine kept_serve (fun _ _ => ?_) ?_)
      | (with_reducible apply kept_meterRead)

/-! ### FixedStages -/

theorem kept_setStrip {a0 a1 a2 s} (h3 : Kept q s) : Kept q (setStrip a0 a1 a2 s) := by
  unfold setStrip
  repeat'
    first
      | (with_reducible (refine Kept.mk ?_ ?_ ?_ ?_ ?_ <;> dsimp only <;> first | exact Kept.queue ‹_› | exact Kept.mem ‹_› | exact Kept.regs ‹_› | exact Kept.stalls ‹_› | exact Kept.units ‹_›))

theorem kept_silenceSet {a0 a1 a2 s} (h3 : Kept q s) : Kept q (silenceSet a0 a1 a2 s) := by
  unfold silenceSet
  repeat'
    first
      | (with_reducible assumption)
      | (with_reducible apply kept_setMeter)
      | (with_reducible apply kept_raise)
      | (with_reducible apply kept_ite)

theorem kept_stripStep {a0 a1 a2 s} (h3 : Kept q s) : Kept q (stripStep a0 a1 a2 s) := by
  unfold stripStep
  repeat'
    first
      | (with_reducible assumption)
      | (with_reducible apply kept_setStrip)
      | (with_reducible apply kept_silenceSet)
      | (with_reducible apply kept_ite)

theorem kept_inputSilence {a0 a1 a2 s} (h3 : Kept q s) : Kept q (inputSilence a0 a1 a2 s) := by
  unfold inputSilence
  repeat'
    first
      | (with_reducible assumption)
      | (with_reducible apply kept_stripStep)
      | (refine kept_forEach (fun _ _ _ => ?_) ?_)
      | split

theorem kept_execInputSilence {a0 a1 a2 s} (h3 : Kept q s) : KeptR q (execInputSilence a0 a1 a2 s) := by
  unfold execInputSilence
  refine keptR_next ?_
  repeat'
    first
      | (with_reducible assumption)
      | (with_reducible apply kept_inputSilence)

/-! ### Tap -/

theorem kept_unstage {a0 s} (h1 : Kept q s) : Kept q (unstage a0 s) := by
  unfold unstage
  repeat'
    first
      | (with_reducible (refine Kept.mk ?_ ?_ ?_ ?_ ?_ <;> dsimp only <;> first | exact Kept.queue ‹_› | exact Kept.mem ‹_› | exact Kept.regs ‹_› | exact Kept.stalls ‹_› | exact Kept.units ‹_›))

theorem kept_tapPage {a0 s} (h1 : Kept q s) : Kept q (tapPage a0 s) := by
  unfold tapPage
  repeat'
    first
      | (with_reducible assumption)
      | (with_reducible apply kept_setPages)
      | (with_reducible apply kept_takeSwap)
      | (with_reducible apply kept_ite)

theorem kept_tapSelect {a0 s} (h1 : Kept q s) : Kept q (tapSelect a0 s) := by
  unfold tapSelect
  repeat'
    first
      | (with_reducible assumption)
      | (with_reducible apply kept_setPages)
      | (with_reducible apply kept_takeSwap)
      | (with_reducible apply kept_ite)

theorem kept_tapBank {a0 s} (h1 : Kept q s) : Kept q (tapBank a0 s) := by
  unfold tapBank
  repeat'
    first
      | (with_reducible assumption)
      | (extract_lets +onlyGivenNames x; refine (fun (hx : Kept q x) => ?_) ?_; (rotate_left; unfold x; clear x; rotate_left); (try clear_value x); revert x; intro y hy)
      | (extract_lets +onlyGivenNames x; (try clear_value x); revert x; intro y)
      | (with_reducible apply kept_unstage)
      | (with_reducible apply kept_setBit)
      | (with_reducible apply kept_setStall)
      | (with_reducible apply kept_moveToken)
      | split
      | (with_reducible (refine Kept.mk ?_ ?_ ?_ ?_ ?_ <;> dsimp only <;> first | exact Kept.queue ‹_› | exact Kept.mem ‹_› | exact Kept.regs ‹_› | exact Kept.stalls ‹_› | exact Kept.units ‹_›))

theorem kept_tapReg {a0 a1 s} (h2 : Kept q s) : Kept q (tapReg a0 a1 s) := by
  unfold tapReg
  repeat'
    first
      | (with_reducible assumption)
      | (with_reducible apply kept_unstage)
      | (with_reducible apply kept_portCfgApply)
      | (with_reducible apply kept_rwApply)
      | split

theorem kept_tapClaim {a0 a1 a2 a3 s} (h4 : Kept q s) : Kept q (tapClaim a0 a1 a2 a3 s) := by
  unfold tapClaim
  repeat'
    first
      | (with_reducible assumption)
      | (with_reducible apply kept_tapPage)
      | (with_reducible apply kept_tapSelect)
      | (with_reducible apply kept_tapBank)
      | (with_reducible apply kept_tapReg)
      | split

theorem kept_tapStreams {s} (h0 : Kept q s) : Kept q (tapStreams s) := by
  unfold tapStreams
  repeat'
    first
      | (with_reducible assumption)
      | (with_reducible apply kept_setActive)
      | (refine kept_forEach (fun _ _ _ => ?_) ?_)
      | (with_reducible apply kept_ite)

theorem kept_streamsPrune {s} (h0 : Kept q s) : Kept q (streamsPrune s) := by
  unfold streamsPrune
  repeat'
    first
      | (with_reducible assumption)
      | (with_reducible apply kept_setActive)
      | (refine kept_forEach (fun _ _ _ => ?_) ?_)

theorem kept_tapChan {a0 a1 s} (h2 : Kept q s) : Kept q (tapChan a0 a1 s) := by
  unfold tapChan
  repeat'
    first
      | (with_reducible assumption)
      | (with_reducible apply kept_setChan)

theorem kept_tapShares {s} (h0 : Kept q s) : Kept q (tapShares s) := by
  unfold tapShares
  repeat'
    first
      | (with_reducible assumption)
      | (with_reducible apply kept_setFld)
      | (refine kept_forEach (fun _ _ _ => ?_) ?_)
      | (with_reducible apply kept_ite)

theorem kept_setLive {a0 s} (h1 : Kept q s) : Kept q (setLive a0 s) := by
  unfold setLive
  repeat'
    first
      | (with_reducible (refine Kept.mk ?_ ?_ ?_ ?_ ?_ <;> dsimp only <;> first | exact Kept.queue ‹_› | exact Kept.mem ‹_› | exact Kept.regs ‹_› | exact Kept.stalls ‹_› | exact Kept.units ‹_›))

theorem kept_tapProgram {a0 a1 s} (h2 : Kept q s) : Kept q (tapProgram a0 a1 s) := by
  unfold tapProgram
  repeat'
    first
      | (with_reducible assumption)
      | (extract_lets +onlyGivenNames x; refine (fun (hx : Kept q x) => ?_) ?_; (rotate_left; unfold x; clear x; rotate_left); (try clear_value x); revert x; intro y hy)
      | (with_reducible apply kept_tapChan)
      | (with_reducible apply kept_setPort)
      | (with_reducible apply kept_setFld)
      | (with_reducible apply kept_tapShares)
      | (with_reducible apply kept_tapStreams)
      | (with_reducible apply kept_setLive)
      | (refine kept_forEach (fun _ _ _ => ?_) ?_)
      | (with_reducible (refine Kept.mk ?_ ?_ ?_ ?_ ?_ <;> dsimp only <;> first | exact Kept.queue ‹_› | exact Kept.mem ‹_› | exact Kept.regs ‹_› | exact Kept.stalls ‹_› | exact Kept.units ‹_›))

theorem kept_finalsWrite {a0 s} (h1 : Kept q s) : Kept q (finalsWrite a0 s) := by
  unfold finalsWrite
  repeat'
    first
      | (with_reducible assumption)
      | (extract_lets +onlyGivenNames x; (try clear_value x); revert x; intro y)
      | (with_reducible apply kept_setBrew)
      | (with_reducible apply kept_writeWindows)
      | (with_reducible apply kept_writePageOut)
      | (refine kept_forEach (fun _ _ _ => ?_) ?_)
      | split

theorem kept_tapEnds {a0 a1 a2 s} (h3 : Kept q s) : Kept q (tapEnds a0 a1 a2 s) := by
  unfold tapEnds
  repeat'
    first
      | (with_reducible assumption)
      | (with_reducible apply kept_raiseTo)
      | (with_reducible apply kept_reportDone)
      | (with_reducible apply kept_endJob)
      | (refine kept_forEach (fun _ _ _ => ?_) ?_)
      | split

theorem kept_knowTapped {a0 a1 s} (h2 : Kept q s) : Kept q (knowTapped a0 a1 s) := by
  unfold knowTapped
  repeat'
    first
      | (with_reducible assumption)
      | (with_reducible apply kept_know)
      | split

theorem kept_tapArmed {a0 a1 s} (h2 : Kept q s) : Kept q (tapArmed a0 a1 s) := by
  unfold tapArmed
  repeat'
    first
      | (with_reducible assumption)
      | (extract_lets +onlyGivenNames x; refine (fun (hx : Kept q x) => ?_) ?_; (rotate_left; unfold x; clear x; rotate_left); (try clear_value x); revert x; intro y hy)
      | (extract_lets +onlyGivenNames x; (try clear_value x); revert x; intro y)
      | (with_reducible apply kept_tapClaim)
      | (with_reducible apply kept_sendStreamLists)
      | (with_reducible apply kept_tapProgram)
      | (with_reducible apply kept_knowTapped)
      | (with_reducible apply kept_rampsStart)
      | (with_reducible apply kept_tapEnds)
      | (with_reducible apply kept_setBrew)
      | (refine kept_forEach (fun _ _ _ => ?_) ?_)
      | split
      | (with_reducible (refine Kept.mk ?_ ?_ ?_ ?_ ?_ <;> dsimp only <;> first | exact Kept.queue ‹_› | exact Kept.mem ‹_› | exact Kept.regs ‹_› | exact Kept.stalls ‹_› | exact Kept.units ‹_›))

theorem kept_tapSettle {a0 s} (h1 : Kept q s) : Kept q (tapSettle a0 s) := by
  unfold tapSettle
  repeat'
    first
      | (with_reducible assumption)
      | (extract_lets +onlyGivenNames x; refine (fun (hx : Kept q x) => ?_) ?_; (rotate_left; unfold x; clear x; rotate_left); (try clear_value x); revert x; intro y hy)
      | (extract_lets +onlyGivenNames x; (try clear_value x); revert x; intro y)
      | (with_reducible apply kept_setBrew)
      | (with_reducible apply kept_setLive)
      | (with_reducible apply kept_tapPage)
      | (refine kept_forEach (fun _ _ _ => ?_) ?_)
      | split
      | (with_reducible (refine Kept.mk ?_ ?_ ?_ ?_ ?_ <;> dsimp only <;> first | exact Kept.queue ‹_› | exact Kept.mem ‹_› | exact Kept.regs ‹_› | exact Kept.stalls ‹_› | exact Kept.units ‹_›))

theorem kept_tapBrew {a0 a1 s} (h2 : Kept q s) : Kept q (tapBrew a0 a1 s) := by
  unfold tapBrew
  repeat'
    first
      | (with_reducible assumption)
      | (with_reducible apply kept_floorTail)
      | (with_reducible apply kept_tapSettle)
      | (with_reducible apply kept_tapArmed)
      | (with_reducible apply kept_ite)

theorem kept_tapDefer {a0 a1 s} (h2 : Kept q s) : Kept q (tapDefer a0 a1 s) := by
  unfold tapDefer
  repeat'
    first
      | (with_reducible assumption)
      | (with_reducible apply kept_setBrew)
      | (with_reducible apply kept_raise)
      | (with_reducible apply kept_setBit)
      | (with_reducible apply kept_countFld)

theorem kept_tapsBoundary {a0 s} (h1 : Kept q s) : Kept q (tapsBoundary a0 s) := by
  unfold tapsBoundary
  repeat'
    first
      | (with_reducible assumption)
      | (extract_lets +onlyGivenNames x; refine (fun (hx : Kept q x) => ?_) ?_; (rotate_left; unfold x; clear x; rotate_left); (try clear_value x); revert x; intro y hy)
      | (with_reducible apply kept_bakeDeadline)
      | (with_reducible apply kept_tapDefer)
      | (with_reducible apply kept_tapBrew)
      | (with_reducible apply kept_enterDoubt)
      | (refine kept_forEach (fun _ _ _ => ?_) ?_)
      | (with_reducible apply kept_ite)

/-! ### FrameGuard -/

theorem kept_standInSend {a0 a1 a2 s} (h3 : Kept q s) : Kept q (standInSend a0 a1 a2 s) := by
  unfold standInSend
  repeat'
    first
      | (with_reducible assumption)
      | (with_reducible apply kept_dropWaiter)
      | (with_reducible apply kept_ledgerAdd)
      | (with_reducible apply kept_injectFill)
      | (with_reducible apply kept_ite)

theorem kept_standInSignal {a0 a1 s} (h2 : Kept q s) : Kept q (standInSignal a0 a1 s) := by
  unfold standInSignal
  repeat'
    first
      | (with_reducible assumption)
      | (with_reducible apply kept_sendPost)
      | (with_reducible apply kept_ite)

theorem kept_standIn {a0 a1 s} (h2 : Kept q s) : Kept q (standIn a0 a1 s) := by
  unfold standIn
  repeat'
    first
      | (with_reducible assumption)
      | (with_reducible apply kept_standInSend)
      | (with_reducible apply kept_standInSignal)
      | (with_reducible apply kept_ledgerAdd)
      | (refine kept_forEach (fun _ _ _ => ?_) ?_)
      | (with_reducible apply kept_ite)

theorem kept_captureReport {a0 a1 a2 s} (h3 : Kept q s) : Kept q (captureReport a0 a1 a2 s) := by
  unfold captureReport
  repeat'
    first
      | (with_reducible assumption)
      | (with_reducible apply kept_setFld)
      | (with_reducible apply kept_setBit)
      | (with_reducible apply kept_ite)
      | (with_reducible (refine Kept.mk ?_ ?_ ?_ ?_ ?_ <;> dsimp only <;> first | exact Kept.queue ‹_› | exact Kept.mem ‹_› | exact Kept.regs ‹_› | exact Kept.stalls ‹_› | exact Kept.units ‹_›))

theorem kept_detectCircles {a0 a1 a2 s} (h3 : Kept q s) : Kept q (detectCircles a0 a1 a2 s) := by
  unfold detectCircles
  repeat'
    first
      | (with_reducible assumption)
      | (with_reducible apply kept_captureReport)
      | (with_reducible apply kept_sendAbort)
      | (with_reducible apply kept_raise)
      | (with_reducible apply kept_setBit)
      | (refine kept_forEach (fun _ _ _ => ?_) ?_)

theorem kept_pairConsec {n s} (h : Kept q s) : Kept q (pairConsec n s) := by
  unfold pairConsec
  exact kept_ite (kept_pairActLow (kept_pairField h)) (kept_ite (kept_ite (kept_setBit (kept_pairField h)) (kept_pairField h)) h)

theorem kept_overruns {a0 s} (h1 : Kept q s) : Kept q (overruns a0 s) := by
  unfold overruns
  repeat'
    first
      | (with_reducible assumption)
      | (extract_lets +onlyGivenNames x; refine (fun (hx : Kept q x) => ?_) ?_; (rotate_left; unfold x; clear x; rotate_left); (try clear_value x); revert x; intro y hy)
      | (extract_lets +onlyGivenNames x; (try clear_value x); revert x; intro y)
      | (with_reducible apply kept_pairConsec)
      | (with_reducible apply kept_setFld)
      | (with_reducible apply kept_setBit)
      | (with_reducible apply kept_countFld)
      | (with_reducible apply kept_setPair)
      | (with_reducible apply kept_raise)
      | (with_reducible apply kept_detectCircles)
      | (with_reducible apply kept_standIn)
      | (refine kept_forEach (fun _ _ _ => ?_) ?_)
      | split

theorem kept_foldSlack {a0 a1 a2 s} (h3 : Kept q s) : Kept q (foldSlack a0 a1 a2 s) := by
  unfold foldSlack
  repeat'
    first
      | (with_reducible assumption)
      | (with_reducible apply kept_setFld)
      | (with_reducible apply kept_ite)

theorem kept_lateFrame {a0 s} (h1 : Kept q s) : Kept q (lateFrame a0 s) := by
  unfold lateFrame
  repeat'
    first
      | (with_reducible assumption)
      | (with_reducible apply kept_setBit)
      | (with_reducible apply kept_countFld)
      | (with_reducible apply kept_avsLate)
      | (with_reducible apply kept_raise)
      | split

theorem kept_closeFrame {a0 s} (h1 : Kept q s) : Kept q (closeFrame a0 s) := by
  unfold closeFrame
  repeat'
    first
      | (with_reducible assumption)
      | (extract_lets +onlyGivenNames x; refine (fun (hx : Kept q x) => ?_) ?_; (rotate_left; unfold x; clear x; rotate_left); (try clear_value x); revert x; intro y hy)
      | (extract_lets +onlyGivenNames x; (try clear_value x); revert x; intro y)
      | (with_reducible apply kept_setFld)
      | (with_reducible apply kept_foldSlack)
      | (with_reducible apply kept_avsClose)
      | split
      | (with_reducible (refine Kept.mk ?_ ?_ ?_ ?_ ?_ <;> dsimp only <;> first | exact Kept.queue ‹_› | exact Kept.mem ‹_› | exact Kept.regs ‹_› | exact Kept.stalls ‹_› | exact Kept.units ‹_›))

theorem kept_pruneUnits {b s} (h : Kept q s) : Kept q (pruneUnits b s) := by
  refine ⟨h.queue, h.mem, h.regs, h.stalls, smapWf_filterMap _ _ (fun x y _ e => ?_) _ h.units⟩
  unfold prunedUnit at e
  split at e
  · cases e
  · cases e
    exact ⟨rfl, ‹_›⟩

theorem kept_guardBoundary {a0 s} (h1 : Kept q s) : Kept q (guardBoundary a0 s) := by
  unfold guardBoundary
  repeat'
    first
      | (with_reducible assumption)
      | (with_reducible apply kept_settleFrame)
      | (with_reducible apply kept_overruns)
      | (with_reducible apply kept_lateFrame)
      | (with_reducible apply kept_closeFrame)
      | (with_reducible apply kept_ite)

/-! ### Frame -/

theorem kept_stepIndex {a0 a1 s} (h2 : Kept q s) : Kept q (stepIndex a0 a1 s) := by
  unfold stepIndex
  repeat'
    first
      | (with_reducible (refine Kept.mk ?_ ?_ ?_ ?_ ?_ <;> dsimp only <;> first | exact Kept.queue ‹_› | exact Kept.mem ‹_› | exact Kept.regs ‹_› | exact Kept.stalls ‹_› | exact Kept.units ‹_›))

theorem kept_portLost {a0 s} (h1 : Kept q s) : Kept q (portLost a0 s) := by
  unfold portLost
  repeat'
    first
      | (with_reducible assumption)
      | (with_reducible apply kept_ledgerAdd)
      | split

theorem kept_noteHeld {a0 s} (h1 : Kept q s) : Kept q (noteHeld a0 s) := by
  unfold noteHeld
  repeat'
    first
      | (with_reducible assumption)
      | (with_reducible apply kept_noteIso)
      | (refine kept_forEach (fun _ _ _ => ?_) ?_)

theorem kept_stepSnapshot {a0 s} (h1 : Kept q s) : Kept q (stepSnapshot a0 s) := by
  unfold stepSnapshot
  repeat'
    first
      | (with_reducible apply kept_tokenAudit)
      | (with_reducible (refine Kept.mk ?_ ?_ ?_ ?_ ?_ <;> dsimp only <;> first | exact Kept.queue ‹_› | exact Kept.mem ‹_› | exact Kept.regs ‹_› | exact Kept.stalls ‹_› | exact Kept.units ‹_›))

theorem kept_stepOverride {a0 s} (h1 : Kept q s) : Kept q (stepOverride a0 s) := by
  unfold stepOverride
  repeat'
    first
      | (with_reducible assumption)
      | (with_reducible apply kept_overrideBoundary)
      | (with_reducible apply kept_cancelConfigure)
      | (with_reducible apply kept_ovrWake)
      | (with_reducible apply kept_ite)

theorem kept_releaseStall {a0 a1 a2 s} (h3 : Kept q s) : Kept q (releaseStall a0 a1 a2 s) := by
  unfold releaseStall
  repeat'
    first
      | (with_reducible assumption)
      | (with_reducible apply kept_startStall)
      | (with_reducible apply kept_ite)
      | (with_reducible (refine Kept.mk ?_ ?_ ?_ ?_ ?_ <;> dsimp only <;> first | exact Kept.queue ‹_› | exact Kept.mem ‹_› | exact Kept.regs ‹_› | exact Kept.stalls ‹_› | exact Kept.units ‹_›))

theorem kept_releaseChan {a0 a1 s} (h2 : Kept q s) : Kept q (releaseChan a0 a1 s) := by
  unfold releaseChan
  repeat'
    first
      | (with_reducible assumption)
      | (with_reducible apply kept_startChan)
      | (with_reducible apply kept_ite)

theorem kept_overhang {a0 s} (h1 : Kept q s) : Kept q (overhang a0 s) := by
  unfold overhang
  repeat'
    first
      | (with_reducible assumption)
      | (with_reducible apply kept_countFld)
      | split

theorem kept_stepRelease {a0 a1 s} (h2 : Kept q s) : Kept q (stepRelease a0 a1 s) := by
  unfold stepRelease
  repeat'
    first
      | (with_reducible assumption)
      | (with_reducible apply kept_releaseStall)
      | (with_reducible apply kept_overhang)
      | (with_reducible apply kept_releaseChan)
      | (refine kept_forEach (fun _ _ _ => ?_) ?_)
      | (with_reducible apply kept_ite)

theorem kept_stepPorts {a0 a1 s} (h2 : Kept q s) : Kept q (stepPorts a0 a1 s) := by
  unfold stepPorts
  repeat'
    first
      | (with_reducible assumption)
      | (with_reducible apply kept_rxBoundary)
      | (with_reducible apply kept_portsBoundary)
      | (with_reducible apply kept_portLost)
      | (with_reducible apply kept_ampSamples)
      | (refine kept_forEach (fun _ _ _ => ?_) ?_)

theorem kept_stepSupplies {a0 s} (h1 : Kept q s) : Kept q (stepSupplies a0 s) := by
  unfold stepSupplies
  repeat'
    first
      | (with_reducible assumption)
      | (with_reducible apply kept_setFld)
      | (with_reducible apply kept_vcoreMeas)

theorem kept_frameBoundary {a0 s} (h1 : Kept q s) : Kept q (frameBoundary a0 s) := by
  unfold frameBoundary
  repeat'
    first
      | (with_reducible assumption)
      | (with_reducible apply kept_stepIndex)
      | (with_reducible apply kept_noteHeld)
      | (with_reducible apply kept_remapAt)
      | (with_reducible apply kept_applyAligns)
      | (with_reducible apply kept_streamsPrune)
      | (with_reducible apply kept_guardBoundary)
      | (with_reducible apply kept_markerTx)
      | (with_reducible apply kept_stepSnapshot)
      | (with_reducible apply kept_stepOverride)
      | (with_reducible apply kept_shutBoundary)
      | (with_reducible apply kept_modesBoundary)
      | (with_reducible apply kept_tapsBoundary)
      | (with_reducible apply kept_markDecisions)
      | (with_reducible apply kept_pairBoundary)
      | (with_reducible apply kept_stepRelease)
      | (with_reducible apply kept_pruneUnits)
      | (with_reducible apply kept_stepSupplies)
      | (with_reducible apply kept_stepPorts)
      | (refine kept_forEach (fun _ _ _ => ?_) ?_)

theorem kept_execFrameBoundary {a0 s} (h1 : Kept q s) : KeptR q (execFrameBoundary a0 s) := by
  unfold execFrameBoundary
  refine keptR_next ?_
  repeat'
    first
      | (with_reducible assumption)
      | (with_reducible apply kept_frameBoundary)
      | (with_reducible apply kept_ite)

/-! ### Groom -/

theorem kept_jobFinish {a0 s} (h1 : Kept q s) : Kept q (jobFinish a0 s) := by
  unfold jobFinish
  repeat'
    first
      | (with_reducible assumption)
      | (with_reducible apply kept_kernelFinish)
      | (with_reducible apply kept_loadFinish)
      | (with_reducible apply kept_storeFinish)
      | (with_reducible apply kept_copyFinish)
      | split

theorem kept_endCancelled {a0 a1 s} (h2 : Kept q s) : Kept q (endCancelled a0 a1 s) := by
  unfold endCancelled
  repeat'
    first
      | (with_reducible assumption)
      | (with_reducible apply kept_endJob)

theorem kept_jobCancelled {a0 s} (h1 : Kept q s) : Kept q (jobCancelled a0 s) := by
  unfold jobCancelled
  repeat'
    first
      | (with_reducible assumption)
      | (with_reducible apply kept_putResult)
      | (with_reducible apply kept_withdrawOut)
      | (with_reducible apply kept_endCancelled)
      | (with_reducible apply kept_membersWithdraw)
      | (with_reducible apply kept_setGroup)
      | (with_reducible apply kept_brewReopen)
      | (with_reducible apply kept_diagJobCheck)
      | (with_reducible apply kept_testAbort)
      | (with_reducible apply kept_setTrace)
      | (refine kept_forEach (fun _ _ _ => ?_) ?_)
      | split

theorem kept_jobProgress {a0 a1 s} (h2 : Kept q s) : Kept q (jobProgress a0 a1 s) := by
  unfold jobProgress
  repeat'
    first
      | (with_reducible assumption)
      | (with_reducible apply kept_setJob)
      | split

theorem kept_jobStep {a0 s} (h1 : Kept q s) : Kept q (jobStep a0 s) := by
  unfold jobStep
  repeat'
    first
      | (with_reducible assumption)
      | (with_reducible apply kept_compileStep)
      | (with_reducible apply kept_bakeStep)
      | (with_reducible apply kept_directStart)
      | (with_reducible apply kept_brewResync)
      | (with_reducible apply kept_finalsWrite)
      | (with_reducible apply kept_jobFinish)
      | (with_reducible apply kept_jobProgress)
      | (with_reducible apply kept_flashFinish)
      | (with_reducible apply kept_jobCancelled)
      | split

theorem kept_execJobStep {a0 s} (h1 : Kept q s) : KeptR q (execJobStep a0 s) := by
  unfold execJobStep
  refine keptR_next ?_
  repeat'
    first
      | (with_reducible assumption)
      | (with_reducible apply kept_jobStep)
      | (with_reducible apply kept_ite)

end Sys2Proof.Machine
end

