-- ==== Sys2Proof/Laws/Kept9.lean ====
section
/-! SUPPORT. The operations of Machine/ StallRows keep the queue and the canonical form. -/

namespace Sys2Proof.Machine

variable {q : List Instr}

/-! ### StallRows -/

theorem kept_execNop {a0 a1 a2 s} (h3 : Kept q s) : KeptR q (execNop a0 a1 a2 s) := by
  unfold execNop
  refine keptR_next ?_
  repeat'
    first
      | (with_reducible assumption)
      | (with_reducible apply kept_issueA)

theorem kept_execMpy {a0 a1 a2 s} (h3 : Kept q s) : KeptR q (execMpy a0 a1 a2 s) := by
  unfold execMpy
  refine keptR_next ?_
  repeat'
    first
      | (with_reducible assumption)
      | (with_reducible apply kept_issueA)

theorem kept_execMac {a0 a1 a2 s} (h3 : Kept q s) : KeptR q (execMac a0 a1 a2 s) := by
  unfold execMac
  refine keptR_next ?_
  repeat'
    first
      | (with_reducible assumption)
      | (with_reducible apply kept_issueA)

theorem kept_execMsu {a0 a1 a2 s} (h3 : Kept q s) : KeptR q (execMsu a0 a1 a2 s) := by
  unfold execMsu
  refine keptR_next ?_
  repeat'
    first
      | (with_reducible assumption)
      | (with_reducible apply kept_issueA)

theorem kept_execClr {a0 a1 a2 s} (h3 : Kept q s) : KeptR q (execClr a0 a1 a2 s) := by
  unfold execClr
  refine keptR_next ?_
  repeat'
    first
      | (with_reducible assumption)
      | (with_reducible apply kept_issueA)

theorem kept_execAddda {a0 a1 a2 s} (h3 : Kept q s) : KeptR q (execAddda a0 a1 a2 s) := by
  unfold execAddda
  refine keptR_next ?_
  repeat'
    first
      | (with_reducible assumption)
      | (with_reducible apply kept_issueA)

theorem kept_execRnd {a0 a1 a2 s} (h3 : Kept q s) : KeptR q (execRnd a0 a1 a2 s) := by
  unfold execRnd
  refine keptR_next ?_
  repeat'
    first
      | (with_reducible assumption)
      | (with_reducible apply kept_issueA)

theorem kept_execSat {a0 a1 a2 s} (h3 : Kept q s) : KeptR q (execSat a0 a1 a2 s) := by
  unfold execSat
  refine keptR_next ?_
  repeat'
    first
      | (with_reducible assumption)
      | (with_reducible apply kept_issueA)

theorem kept_execMpyx {a0 a1 a2 s} (h3 : Kept q s) : KeptR q (execMpyx a0 a1 a2 s) := by
  unfold execMpyx
  refine keptR_next ?_
  repeat'
    first
      | (with_reducible assumption)
      | (with_reducible apply kept_issueA)

theorem kept_execMacx {a0 a1 a2 s} (h3 : Kept q s) : KeptR q (execMacx a0 a1 a2 s) := by
  unfold execMacx
  refine keptR_next ?_
  repeat'
    first
      | (with_reducible assumption)
      | (with_reducible apply kept_issueA)

theorem kept_execMsux {a0 a1 a2 s} (h3 : Kept q s) : KeptR q (execMsux a0 a1 a2 s) := by
  unfold execMsux
  refine keptR_next ?_
  repeat'
    first
      | (with_reducible assumption)
      | (with_reducible apply kept_issueA)

theorem kept_execMacw {a0 a1 a2 s} (h3 : Kept q s) : KeptR q (execMacw a0 a1 a2 s) := by
  unfold execMacw
  refine keptR_next ?_
  repeat'
    first
      | (with_reducible assumption)
      | (with_reducible apply kept_issueA)

theorem kept_execAdd {a0 a1 a2 s} (h3 : Kept q s) : KeptR q (execAdd a0 a1 a2 s) := by
  unfold execAdd
  refine keptR_next ?_
  repeat'
    first
      | (with_reducible assumption)
      | (with_reducible apply kept_issueA)

theorem kept_execSub {a0 a1 a2 s} (h3 : Kept q s) : KeptR q (execSub a0 a1 a2 s) := by
  unfold execSub
  refine keptR_next ?_
  repeat'
    first
      | (with_reducible assumption)
      | (with_reducible apply kept_issueA)

theorem kept_execNeg {a0 a1 a2 s} (h3 : Kept q s) : KeptR q (execNeg a0 a1 a2 s) := by
  unfold execNeg
  refine keptR_next ?_
  repeat'
    first
      | (with_reducible assumption)
      | (with_reducible apply kept_issueA)

theorem kept_execAbs {a0 a1 a2 s} (h3 : Kept q s) : KeptR q (execAbs a0 a1 a2 s) := by
  unfold execAbs
  refine keptR_next ?_
  repeat'
    first
      | (with_reducible assumption)
      | (with_reducible apply kept_issueA)

theorem kept_execCmp {a0 a1 a2 s} (h3 : Kept q s) : KeptR q (execCmp a0 a1 a2 s) := by
  unfold execCmp
  refine keptR_next ?_
  repeat'
    first
      | (with_reducible assumption)
      | (with_reducible apply kept_issueA)

theorem kept_execAnd {a0 a1 a2 s} (h3 : Kept q s) : KeptR q (execAnd a0 a1 a2 s) := by
  unfold execAnd
  refine keptR_next ?_
  repeat'
    first
      | (with_reducible assumption)
      | (with_reducible apply kept_issueA)

theorem kept_execOr {a0 a1 a2 s} (h3 : Kept q s) : KeptR q (execOr a0 a1 a2 s) := by
  unfold execOr
  refine keptR_next ?_
  repeat'
    first
      | (with_reducible assumption)
      | (with_reducible apply kept_issueA)

theorem kept_execXor {a0 a1 a2 s} (h3 : Kept q s) : KeptR q (execXor a0 a1 a2 s) := by
  unfold execXor
  refine keptR_next ?_
  repeat'
    first
      | (with_reducible assumption)
      | (with_reducible apply kept_issueA)

theorem kept_execShl {a0 a1 a2 s} (h3 : Kept q s) : KeptR q (execShl a0 a1 a2 s) := by
  unfold execShl
  refine keptR_next ?_
  repeat'
    first
      | (with_reducible assumption)
      | (with_reducible apply kept_issueA)

theorem kept_execShr {a0 a1 a2 s} (h3 : Kept q s) : KeptR q (execShr a0 a1 a2 s) := by
  unfold execShr
  refine keptR_next ?_
  repeat'
    first
      | (with_reducible assumption)
      | (with_reducible apply kept_issueA)

theorem kept_execShrl {a0 a1 a2 s} (h3 : Kept q s) : KeptR q (execShrl a0 a1 a2 s) := by
  unfold execShrl
  refine keptR_next ?_
  repeat'
    first
      | (with_reducible assumption)
      | (with_reducible apply kept_issueA)

theorem kept_execShv {a0 a1 a2 s} (h3 : Kept q s) : KeptR q (execShv a0 a1 a2 s) := by
  unfold execShv
  refine keptR_next ?_
  repeat'
    first
      | (with_reducible assumption)
      | (with_reducible apply kept_issueA)

theorem kept_execRamp {a0 a1 a2 s} (h3 : Kept q s) : KeptR q (execRamp a0 a1 a2 s) := by
  unfold execRamp
  refine keptR_next ?_
  repeat'
    first
      | (with_reducible assumption)
      | (with_reducible apply kept_issueA)

theorem kept_execLut {a0 a1 a2 s} (h3 : Kept q s) : KeptR q (execLut a0 a1 a2 s) := by
  unfold execLut
  refine keptR_next ?_
  repeat'
    first
      | (with_reducible assumption)
      | (with_reducible apply kept_issueA)

theorem kept_execMaxi {a0 a1 a2 s} (h3 : Kept q s) : KeptR q (execMaxi a0 a1 a2 s) := by
  unfold execMaxi
  refine keptR_next ?_
  repeat'
    first
      | (with_reducible assumption)
      | (with_reducible apply kept_issueA)

theorem kept_execMini {a0 a1 a2 s} (h3 : Kept q s) : KeptR q (execMini a0 a1 a2 s) := by
  unfold execMini
  refine keptR_next ?_
  repeat'
    first
      | (with_reducible assumption)
      | (with_reducible apply kept_issueA)

theorem kept_execMaxai {a0 a1 a2 s} (h3 : Kept q s) : KeptR q (execMaxai a0 a1 a2 s) := by
  unfold execMaxai
  refine keptR_next ?_
  repeat'
    first
      | (with_reducible assumption)
      | (with_reducible apply kept_issueA)

theorem kept_execLdS {a0 a1 a2 a3 s} (h4 : Kept q s) : KeptR q (execLdS a0 a1 a2 a3 s) := by
  unfold execLdS
  refine keptR_next ?_
  repeat'
    first
      | (with_reducible assumption)
      | (with_reducible apply kept_issueA)

theorem kept_execStS {a0 a1 a2 a3 s} (h4 : Kept q s) : KeptR q (execStS a0 a1 a2 a3 s) := by
  unfold execStS
  refine keptR_next ?_
  repeat'
    first
      | (with_reducible assumption)
      | (with_reducible apply kept_issueA)

theorem kept_execLdK {a0 a1 a2 a3 s} (h4 : Kept q s) : KeptR q (execLdK a0 a1 a2 a3 s) := by
  unfold execLdK
  refine keptR_next ?_
  repeat'
    first
      | (with_reducible assumption)
      | (with_reducible apply kept_issueA)

theorem kept_execStK {a0 a1 a2 a3 s} (h4 : Kept q s) : KeptR q (execStK a0 a1 a2 a3 s) := by
  unfold execStK
  refine keptR_next ?_
  repeat'
    first
      | (with_reducible assumption)
      | (with_reducible apply kept_issueA)

theorem kept_execLdH {a0 a1 a2 a3 s} (h4 : Kept q s) : KeptR q (execLdH a0 a1 a2 a3 s) := by
  unfold execLdH
  refine keptR_next ?_
  repeat'
    first
      | (with_reducible assumption)
      | (with_reducible apply kept_issueA)

theorem kept_execStH {a0 a1 a2 a3 s} (h4 : Kept q s) : KeptR q (execStH a0 a1 a2 a3 s) := by
  unfold execStH
  refine keptR_next ?_
  repeat'
    first
      | (with_reducible assumption)
      | (with_reducible apply kept_issueA)

theorem kept_execLdC {a0 a1 a2 a3 s} (h4 : Kept q s) : KeptR q (execLdC a0 a1 a2 a3 s) := by
  unfold execLdC
  refine keptR_next ?_
  repeat'
    first
      | (with_reducible assumption)
      | (with_reducible apply kept_issueA)

theorem kept_execStC {a0 a1 a2 a3 s} (h4 : Kept q s) : KeptR q (execStC a0 a1 a2 a3 s) := by
  unfold execStC
  refine keptR_next ?_
  repeat'
    first
      | (with_reducible assumption)
      | (with_reducible apply kept_issueA)

theorem kept_execLdA {a0 a1 a2 a3 s} (h4 : Kept q s) : KeptR q (execLdA a0 a1 a2 a3 s) := by
  unfold execLdA
  refine keptR_next ?_
  repeat'
    first
      | (with_reducible assumption)
      | (with_reducible apply kept_issueA)

theorem kept_execStA {a0 a1 a2 a3 s} (h4 : Kept q s) : KeptR q (execStA a0 a1 a2 a3 s) := by
  unfold execStA
  refine keptR_next ?_
  repeat'
    first
      | (with_reducible assumption)
      | (with_reducible apply kept_issueA)

theorem kept_execLdX {a0 a1 a2 a3 s} (h4 : Kept q s) : KeptR q (execLdX a0 a1 a2 a3 s) := by
  unfold execLdX
  refine keptR_next ?_
  repeat'
    first
      | (with_reducible assumption)
      | (with_reducible apply kept_issueA)

theorem kept_execStX {a0 a1 a2 a3 s} (h4 : Kept q s) : KeptR q (execStX a0 a1 a2 a3 s) := by
  unfold execStX
  refine keptR_next ?_
  repeat'
    first
      | (with_reducible assumption)
      | (with_reducible apply kept_issueA)

theorem kept_execLdSp {a0 a1 a2 a3 s} (h4 : Kept q s) : KeptR q (execLdSp a0 a1 a2 a3 s) := by
  unfold execLdSp
  refine keptR_next ?_
  repeat'
    first
      | (with_reducible assumption)
      | (with_reducible apply kept_issueA)

theorem kept_execLdCp {a0 a1 a2 a3 s} (h4 : Kept q s) : KeptR q (execLdCp a0 a1 a2 a3 s) := by
  unfold execLdCp
  refine keptR_next ?_
  repeat'
    first
      | (with_reducible assumption)
      | (with_reducible apply kept_issueA)

theorem kept_execMov {a0 a1 a2 a3 s} (h4 : Kept q s) : KeptR q (execMov a0 a1 a2 a3 s) := by
  unfold execMov
  refine keptR_next ?_
  repeat'
    first
      | (with_reducible assumption)
      | (with_reducible apply kept_issueA)

theorem kept_execBr {a0 a1 a2 s} (h3 : Kept q s) : KeptR q (execBr a0 a1 a2 s) := by
  unfold execBr
  refine keptR_next ?_
  repeat'
    first
      | (with_reducible assumption)
      | (with_reducible apply kept_ctlBr)

theorem kept_execCall {a0 a1 a2 s} (h3 : Kept q s) : KeptR q (execCall a0 a1 a2 s) := by
  unfold execCall
  refine keptR_next ?_
  repeat'
    first
      | (with_reducible assumption)
      | (with_reducible apply kept_ctlCall)

theorem kept_execRet {a0 a1 s} (h2 : Kept q s) : KeptR q (execRet a0 a1 s) := by
  unfold execRet
  refine keptR_next ?_
  repeat'
    first
      | (with_reducible assumption)
      | (with_reducible apply kept_ctlRet)

theorem kept_execRepeat {a0 a1 a2 a3 a4 s} (h5 : Kept q s) : KeptR q (execRepeat a0 a1 a2 a3 a4 s) := by
  unfold execRepeat
  refine keptR_next ?_
  repeat'
    first
      | (with_reducible assumption)
      | (with_reducible apply kept_ctlRepeat)

theorem kept_execRepeatIterationEnd {a0 s} (h1 : Kept q s) : KeptR q (execRepeatIterationEnd a0 s) := by
  unfold execRepeatIterationEnd
  refine keptR_next ?_
  repeat'
    first
      | (with_reducible assumption)
      | (with_reducible apply kept_iterationEnd)

theorem kept_execRot {a0 s} (h1 : Kept q s) : KeptR q (execRot a0 s) := by
  unfold execRot
  refine keptR_next ?_
  repeat'
    first
      | (with_reducible assumption)
      | (with_reducible apply kept_ctlRot)

theorem kept_execWait {a0 a1 s} (h2 : Kept q s) : KeptR q (execWait a0 a1 s) := by
  unfold execWait
  refine keptR_next ?_
  repeat'
    first
      | (with_reducible assumption)
      | (with_reducible apply kept_ctlWait)

theorem kept_execWaitComplete {a0 s} (h1 : Kept q s) : KeptR q (execWaitComplete a0 s) := by
  unfold execWaitComplete
  refine keptR_next ?_
  repeat'
    first
      | (with_reducible assumption)
      | (with_reducible apply kept_waitComplete)

theorem kept_execSignal {a0 a1 a2 s} (h3 : Kept q s) : KeptR q (execSignal a0 a1 a2 s) := by
  unfold execSignal
  refine keptR_next ?_
  repeat'
    first
      | (with_reducible assumption)
      | (with_reducible apply kept_ctlSignal)

theorem kept_execSend {a0 a1 a2 a3 s} (h4 : Kept q s) : KeptR q (execSend a0 a1 a2 a3 s) := by
  unfold execSend
  refine keptR_next ?_
  repeat'
    first
      | (with_reducible assumption)
      | (with_reducible apply kept_ctlSend)

theorem kept_execSendComplete {a0 s} (h1 : Kept q s) : KeptR q (execSendComplete a0 s) := by
  unfold execSendComplete
  refine keptR_next ?_
  repeat'
    first
      | (with_reducible assumption)
      | (with_reducible apply kept_sendComplete)

theorem kept_execExchangeArrival {a0 a1 s} (h2 : Kept q s) : KeptR q (execExchangeArrival a0 a1 s) := by
  unfold execExchangeArrival
  refine keptR_next ?_
  repeat'
    first
      | (with_reducible assumption)
      | (with_reducible apply kept_exchangeArrival)

theorem kept_execRecv {a0 a1 a2 s} (h3 : Kept q s) : KeptR q (execRecv a0 a1 a2 s) := by
  unfold execRecv
  refine keptR_next ?_
  repeat'
    first
      | (with_reducible assumption)
      | (with_reducible apply kept_ctlRecv)

theorem kept_execRecvComplete {a0 s} (h1 : Kept q s) : KeptR q (execRecvComplete a0 s) := by
  unfold execRecvComplete
  refine keptR_next ?_
  repeat'
    first
      | (with_reducible assumption)
      | (with_reducible apply kept_recvComplete)

theorem kept_execSync {a0 a1 s} (h2 : Kept q s) : KeptR q (execSync a0 a1 s) := by
  unfold execSync
  refine keptR_next ?_
  repeat'
    first
      | (with_reducible assumption)
      | (with_reducible apply kept_ctlSync)

theorem kept_execLdi {a0 a1 a2 s} (h3 : Kept q s) : KeptR q (execLdi a0 a1 a2 s) := by
  unfold execLdi
  refine keptR_next ?_
  repeat'
    first
      | (with_reducible assumption)
      | (with_reducible apply kept_issueC)

theorem kept_execAddi {a0 a1 a2 s} (h3 : Kept q s) : KeptR q (execAddi a0 a1 a2 s) := by
  unfold execAddi
  refine keptR_next ?_
  repeat'
    first
      | (with_reducible assumption)
      | (with_reducible apply kept_issueC)

theorem kept_execAndi {a0 a1 a2 s} (h3 : Kept q s) : KeptR q (execAndi a0 a1 a2 s) := by
  unfold execAndi
  refine keptR_next ?_
  repeat'
    first
      | (with_reducible assumption)
      | (with_reducible apply kept_issueC)

theorem kept_execOri {a0 a1 a2 s} (h3 : Kept q s) : KeptR q (execOri a0 a1 a2 s) := by
  unfold execOri
  refine keptR_next ?_
  repeat'
    first
      | (with_reducible assumption)
      | (with_reducible apply kept_issueC)

theorem kept_execXori {a0 a1 a2 s} (h3 : Kept q s) : KeptR q (execXori a0 a1 a2 s) := by
  unfold execXori
  refine keptR_next ?_
  repeat'
    first
      | (with_reducible assumption)
      | (with_reducible apply kept_issueC)

theorem kept_execCmpi {a0 a1 a2 s} (h3 : Kept q s) : KeptR q (execCmpi a0 a1 a2 s) := by
  unfold execCmpi
  refine keptR_next ?_
  repeat'
    first
      | (with_reducible assumption)
      | (with_reducible apply kept_issueC)

theorem kept_execIllegalWord {a0 a1 s} (h2 : Kept q s) : KeptR q (execIllegalWord a0 a1 s) := by
  unfold execIllegalWord
  refine keptR_next ?_
  repeat'
    first
      | (with_reducible assumption)
      | (with_reducible apply kept_illegalWord)

theorem kept_execStallAbort {a0 a1 s} (h2 : Kept q s) : KeptR q (execStallAbort a0 a1 s) := by
  unfold execStallAbort
  refine keptR_next ?_
  repeat'
    first
      | (with_reducible assumption)
      | (with_reducible apply kept_stallAbort)

theorem kept_execControlEventTaken {a0 s} (h1 : Kept q s) : KeptR q (execControlEventTaken a0 s) := by
  unfold execControlEventTaken
  refine keptR_next ?_
  repeat'
    first
      | (with_reducible assumption)
      | (with_reducible apply kept_controlEventTaken)

theorem kept_execHeldPageWrite {a0 s} (h1 : Kept q s) : KeptR q (execHeldPageWrite a0 s) := by
  unfold execHeldPageWrite
  refine keptR_next ?_
  repeat'
    first
      | (with_reducible assumption)
      | (with_reducible apply kept_heldPageWrite)

end Sys2Proof.Machine
end

