-- ==== Sys2Proof/Laws/State.lean ====
section
/-! SUPPORT. What each primitive update of the state does to each field: one lemma per field and update, true by unfolding. -/

namespace Sys2Proof.Machine

variable (s : State)


/-! ### setRegWord -/

@[simp] theorem setRegWord_pending (a : Nat) (w : Word32) : (setRegWord a w s).pending = s.pending := rfl
@[simp] theorem setRegWord_regs (a : Nat) (w : Word32) : (setRegWord a w s).regs = smapSet regDefault a w s.regs := rfl
@[simp] theorem setRegWord_mem (a : Nat) (w : Word32) : (setRegWord a w s).mem = s.mem := rfl
@[simp] theorem setRegWord_fresh (a : Nat) (w : Word32) : (setRegWord a w s).fresh = s.fresh := rfl
@[simp] theorem setRegWord_frame (a : Nat) (w : Word32) : (setRegWord a w s).frame = s.frame := rfl
@[simp] theorem setRegWord_tick (a : Nat) (w : Word32) : (setRegWord a w s).tick = s.tick := rfl
@[simp] theorem setRegWord_tickPrev (a : Nat) (w : Word32) : (setRegWord a w s).tickPrev = s.tickPrev := rfl
@[simp] theorem setRegWord_mode (a : Nat) (w : Word32) : (setRegWord a w s).mode = s.mode := rfl
@[simp] theorem setRegWord_fs (a : Nat) (w : Word32) : (setRegWord a w s).fs = s.fs := rfl
@[simp] theorem setRegWord_units (a : Nat) (w : Word32) : (setRegWord a w s).units = s.units := rfl
@[simp] theorem setRegWord_stalls (a : Nat) (w : Word32) : (setRegWord a w s).stalls = s.stalls := rfl
@[simp] theorem setRegWord_pages (a : Nat) (w : Word32) : (setRegWord a w s).pages = s.pages := rfl
@[simp] theorem setRegWord_progMem (a : Nat) (w : Word32) : (setRegWord a w s).progMem = s.progMem := rfl
@[simp] theorem setRegWord_outs (a : Nat) (w : Word32) : (setRegWord a w s).outs = s.outs := rfl
@[simp] theorem setRegWord_outFlight (a : Nat) (w : Word32) : (setRegWord a w s).outFlight = s.outFlight := rfl
@[simp] theorem setRegWord_posts (a : Nat) (w : Word32) : (setRegWord a w s).posts = s.posts := rfl
@[simp] theorem setRegWord_ueWords (a : Nat) (w : Word32) : (setRegWord a w s).ueWords = s.ueWords := rfl
@[simp] theorem setRegWord_ceWords (a : Nat) (w : Word32) : (setRegWord a w s).ceWords = s.ceWords := rfl
@[simp] theorem setRegWord_fg (a : Nat) (w : Word32) : (setRegWord a w s).fg = s.fg := rfl
@[simp] theorem setRegWord_ledger (a : Nat) (w : Word32) : (setRegWord a w s).ledger = s.ledger := rfl
@[simp] theorem setRegWord_evtWait (a : Nat) (w : Word32) : (setRegWord a w s).evtWait = s.evtWait := rfl
@[simp] theorem setRegWord_lastRead (a : Nat) (w : Word32) : (setRegWord a w s).lastRead = s.lastRead := rfl
@[simp] theorem setRegWord_latches (a : Nat) (w : Word32) : (setRegWord a w s).latches = s.latches := rfl
@[simp] theorem setRegWord_tokenBad (a : Nat) (w : Word32) : (setRegWord a w s).tokenBad = s.tokenBad := rfl
@[simp] theorem setRegWord_passCe (a : Nat) (w : Word32) : (setRegWord a w s).passCe = s.passCe := rfl
@[simp] theorem setRegWord_retrainPend (a : Nat) (w : Word32) : (setRegWord a w s).retrainPend = s.retrainPend := rfl
@[simp] theorem setRegWord_scrubAt (a : Nat) (w : Word32) : (setRegWord a w s).scrubAt = s.scrubAt := rfl
@[simp] theorem setRegWord_arb (a : Nat) (w : Word32) : (setRegWord a w s).arb = s.arb := rfl
@[simp] theorem setRegWord_bursts (a : Nat) (w : Word32) : (setRegWord a w s).bursts = s.bursts := rfl
@[simp] theorem setRegWord_limiters (a : Nat) (w : Word32) : (setRegWord a w s).limiters = s.limiters := rfl
@[simp] theorem setRegWord_drovers (a : Nat) (w : Word32) : (setRegWord a w s).drovers = s.drovers := rfl
@[simp] theorem setRegWord_chans (a : Nat) (w : Word32) : (setRegWord a w s).chans = s.chans := rfl
@[simp] theorem setRegWord_drvMem (a : Nat) (w : Word32) : (setRegWord a w s).drvMem = s.drvMem := rfl
@[simp] theorem setRegWord_lines (a : Nat) (w : Word32) : (setRegWord a w s).lines = s.lines := rfl
@[simp] theorem setRegWord_staged (a : Nat) (w : Word32) : (setRegWord a w s).staged = s.staged := rfl
@[simp] theorem setRegWord_rxq (a : Nat) (w : Word32) : (setRegWord a w s).rxq = s.rxq := rfl
@[simp] theorem setRegWord_admitted (a : Nat) (w : Word32) : (setRegWord a w s).admitted = s.admitted := rfl
@[simp] theorem setRegWord_sessions (a : Nat) (w : Word32) : (setRegWord a w s).sessions = s.sessions := rfl
@[simp] theorem setRegWord_oldSessions (a : Nat) (w : Word32) : (setRegWord a w s).oldSessions = s.oldSessions := rfl
@[simp] theorem setRegWord_keys (a : Nat) (w : Word32) : (setRegWord a w s).keys = s.keys := rfl
@[simp] theorem setRegWord_txq (a : Nat) (w : Word32) : (setRegWord a w s).txq = s.txq := rfl
@[simp] theorem setRegWord_sent (a : Nat) (w : Word32) : (setRegWord a w s).sent = s.sent := rfl
@[simp] theorem setRegWord_spiFlags (a : Nat) (w : Word32) : (setRegWord a w s).spiFlags = s.spiFlags := rfl
@[simp] theorem setRegWord_arp (a : Nat) (w : Word32) : (setRegWord a w s).arp = s.arp := rfl
@[simp] theorem setRegWord_evtLog (a : Nat) (w : Word32) : (setRegWord a w s).evtLog = s.evtLog := rfl
@[simp] theorem setRegWord_evtWord (a : Nat) (w : Word32) : (setRegWord a w s).evtWord = s.evtWord := rfl
@[simp] theorem setRegWord_seqClosed (a : Nat) (w : Word32) : (setRegWord a w s).seqClosed = s.seqClosed := rfl
@[simp] theorem setRegWord_seqSnap (a : Nat) (w : Word32) : (setRegWord a w s).seqSnap = s.seqSnap := rfl
@[simp] theorem setRegWord_seqPend (a : Nat) (w : Word32) : (setRegWord a w s).seqPend = s.seqPend := rfl
@[simp] theorem setRegWord_seqAud (a : Nat) (w : Word32) : (setRegWord a w s).seqAud = s.seqAud := rfl
@[simp] theorem setRegWord_seqAudFrame (a : Nat) (w : Word32) : (setRegWord a w s).seqAudFrame = s.seqAudFrame := rfl
@[simp] theorem setRegWord_jobs (a : Nat) (w : Word32) : (setRegWord a w s).jobs = s.jobs := rfl
@[simp] theorem setRegWord_regions (a : Nat) (w : Word32) : (setRegWord a w s).regions = s.regions := rfl
@[simp] theorem setRegWord_ownSessions (a : Nat) (w : Word32) : (setRegWord a w s).ownSessions = s.ownSessions := rfl
@[simp] theorem setRegWord_ownReqs (a : Nat) (w : Word32) : (setRegWord a w s).ownReqs = s.ownReqs := rfl
@[simp] theorem setRegWord_replies (a : Nat) (w : Word32) : (setRegWord a w s).replies = s.replies := rfl
@[simp] theorem setRegWord_work (a : Nat) (w : Word32) : (setRegWord a w s).work = s.work := rfl
@[simp] theorem setRegWord_live (a : Nat) (w : Word32) : (setRegWord a w s).live = s.live := rfl
@[simp] theorem setRegWord_kernels (a : Nat) (w : Word32) : (setRegWord a w s).kernels = s.kernels := rfl
@[simp] theorem setRegWord_partials (a : Nat) (w : Word32) : (setRegWord a w s).partials = s.partials := rfl
@[simp] theorem setRegWord_params (a : Nat) (w : Word32) : (setRegWord a w s).params = s.params := rfl
@[simp] theorem setRegWord_liveParams (a : Nat) (w : Word32) : (setRegWord a w s).liveParams = s.liveParams := rfl
@[simp] theorem setRegWord_liveSlots (a : Nat) (w : Word32) : (setRegWord a w s).liveSlots = s.liveSlots := rfl
@[simp] theorem setRegWord_liveCellar (a : Nat) (w : Word32) : (setRegWord a w s).liveCellar = s.liveCellar := rfl
@[simp] theorem setRegWord_results (a : Nat) (w : Word32) : (setRegWord a w s).results = s.results := rfl
@[simp] theorem setRegWord_ramps (a : Nat) (w : Word32) : (setRegWord a w s).ramps = s.ramps := rfl
@[simp] theorem setRegWord_meters (a : Nat) (w : Word32) : (setRegWord a w s).meters = s.meters := rfl
@[simp] theorem setRegWord_strips (a : Nat) (w : Word32) : (setRegWord a w s).strips = s.strips := rfl
@[simp] theorem setRegWord_liveTasks (a : Nat) (w : Word32) : (setRegWord a w s).liveTasks = s.liveTasks := rfl
@[simp] theorem setRegWord_livePosts (a : Nat) (w : Word32) : (setRegWord a w s).livePosts = s.livePosts := rfl
@[simp] theorem setRegWord_brews (a : Nat) (w : Word32) : (setRegWord a w s).brews = s.brews := rfl
@[simp] theorem setRegWord_directWait (a : Nat) (w : Word32) : (setRegWord a w s).directWait = s.directWait := rfl
@[simp] theorem setRegWord_groups (a : Nat) (w : Word32) : (setRegWord a w s).groups = s.groups := rfl
@[simp] theorem setRegWord_tapKnown (a : Nat) (w : Word32) : (setRegWord a w s).tapKnown = s.tapKnown := rfl
@[simp] theorem setRegWord_ports (a : Nat) (w : Word32) : (setRegWord a w s).ports = s.ports := rfl
@[simp] theorem setRegWord_traces (a : Nat) (w : Word32) : (setRegWord a w s).traces = s.traces := rfl
@[simp] theorem setRegWord_rxCells (a : Nat) (w : Word32) : (setRegWord a w s).rxCells = s.rxCells := rfl
@[simp] theorem setRegWord_prbs (a : Nat) (w : Word32) : (setRegWord a w s).prbs = s.prbs := rfl
@[simp] theorem setRegWord_mgmt (a : Nat) (w : Word32) : (setRegWord a w s).mgmt = s.mgmt := rfl
@[simp] theorem setRegWord_timeq (a : Nat) (w : Word32) : (setRegWord a w s).timeq = s.timeq := rfl
@[simp] theorem setRegWord_acqq (a : Nat) (w : Word32) : (setRegWord a w s).acqq = s.acqq := rfl
@[simp] theorem setRegWord_liveRx (a : Nat) (w : Word32) : (setRegWord a w s).liveRx = s.liveRx := rfl
@[simp] theorem setRegWord_team (a : Nat) (w : Word32) : (setRegWord a w s).team = s.team := rfl
@[simp] theorem setRegWord_routes (a : Nat) (w : Word32) : (setRegWord a w s).routes = s.routes := rfl
@[simp] theorem setRegWord_annCount (a : Nat) (w : Word32) : (setRegWord a w s).annCount = s.annCount := rfl
@[simp] theorem setRegWord_parentRun (a : Nat) (w : Word32) : (setRegWord a w s).parentRun = s.parentRun := rfl
@[simp] theorem setRegWord_margins (a : Nat) (w : Word32) : (setRegWord a w s).margins = s.margins := rfl
@[simp] theorem setRegWord_pair (a : Nat) (w : Word32) : (setRegWord a w s).pair = s.pair := rfl
@[simp] theorem setRegWord_liveAreas (a : Nat) (w : Word32) : (setRegWord a w s).liveAreas = s.liveAreas := rfl
@[simp] theorem setRegWord_liveRegs (a : Nat) (w : Word32) : (setRegWord a w s).liveRegs = s.liveRegs := rfl
@[simp] theorem setRegWord_liveSweep (a : Nat) (w : Word32) : (setRegWord a w s).liveSweep = s.liveSweep := rfl
@[simp] theorem setRegWord_domA (a : Nat) (w : Word32) : (setRegWord a w s).domA = s.domA := rfl
@[simp] theorem setRegWord_domB (a : Nat) (w : Word32) : (setRegWord a w s).domB = s.domB := rfl
@[simp] theorem setRegWord_comma (a : Nat) (w : Word32) : (setRegWord a w s).comma = s.comma := rfl
@[simp] theorem setRegWord_pulses (a : Nat) (w : Word32) : (setRegWord a w s).pulses = s.pulses := rfl
@[simp] theorem setRegWord_aligns (a : Nat) (w : Word32) : (setRegWord a w s).aligns = s.aligns := rfl
@[simp] theorem setRegWord_history (a : Nat) (w : Word32) : (setRegWord a w s).history = s.history := rfl
@[simp] theorem setRegWord_fromFree (a : Nat) (w : Word32) : (setRegWord a w s).fromFree = s.fromFree := rfl
@[simp] theorem setRegWord_remap (a : Nat) (w : Word32) : (setRegWord a w s).remap = s.remap := rfl
@[simp] theorem setRegWord_amps (a : Nat) (w : Word32) : (setRegWord a w s).amps = s.amps := rfl
@[simp] theorem setRegWord_reqLimit (a : Nat) (w : Word32) : (setRegWord a w s).reqLimit = s.reqLimit := rfl
@[simp] theorem setRegWord_ovrBalls (a : Nat) (w : Word32) : (setRegWord a w s).ovrBalls = s.ovrBalls := rfl
@[simp] theorem setRegWord_ovrHist (a : Nat) (w : Word32) : (setRegWord a w s).ovrHist = s.ovrHist := rfl
@[simp] theorem setRegWord_power (a : Nat) (w : Word32) : (setRegWord a w s).power = s.power := rfl
@[simp] theorem setRegWord_liveStreams (a : Nat) (w : Word32) : (setRegWord a w s).liveStreams = s.liveStreams := rfl

/-! ### setFld -/

@[simp] theorem setFld_pending (f : RegField) (i v : Nat) : (setFld f i v s).pending = s.pending := rfl
@[simp] theorem setFld_mem (f : RegField) (i v : Nat) : (setFld f i v s).mem = s.mem := rfl
@[simp] theorem setFld_fresh (f : RegField) (i v : Nat) : (setFld f i v s).fresh = s.fresh := rfl
@[simp] theorem setFld_frame (f : RegField) (i v : Nat) : (setFld f i v s).frame = s.frame := rfl
@[simp] theorem setFld_tick (f : RegField) (i v : Nat) : (setFld f i v s).tick = s.tick := rfl
@[simp] theorem setFld_tickPrev (f : RegField) (i v : Nat) : (setFld f i v s).tickPrev = s.tickPrev := rfl
@[simp] theorem setFld_mode (f : RegField) (i v : Nat) : (setFld f i v s).mode = s.mode := rfl
@[simp] theorem setFld_fs (f : RegField) (i v : Nat) : (setFld f i v s).fs = s.fs := rfl
@[simp] theorem setFld_units (f : RegField) (i v : Nat) : (setFld f i v s).units = s.units := rfl
@[simp] theorem setFld_stalls (f : RegField) (i v : Nat) : (setFld f i v s).stalls = s.stalls := rfl
@[simp] theorem setFld_pages (f : RegField) (i v : Nat) : (setFld f i v s).pages = s.pages := rfl
@[simp] theorem setFld_progMem (f : RegField) (i v : Nat) : (setFld f i v s).progMem = s.progMem := rfl
@[simp] theorem setFld_outs (f : RegField) (i v : Nat) : (setFld f i v s).outs = s.outs := rfl
@[simp] theorem setFld_outFlight (f : RegField) (i v : Nat) : (setFld f i v s).outFlight = s.outFlight := rfl
@[simp] theorem setFld_posts (f : RegField) (i v : Nat) : (setFld f i v s).posts = s.posts := rfl
@[simp] theorem setFld_ueWords (f : RegField) (i v : Nat) : (setFld f i v s).ueWords = s.ueWords := rfl
@[simp] theorem setFld_ceWords (f : RegField) (i v : Nat) : (setFld f i v s).ceWords = s.ceWords := rfl
@[simp] theorem setFld_fg (f : RegField) (i v : Nat) : (setFld f i v s).fg = s.fg := rfl
@[simp] theorem setFld_ledger (f : RegField) (i v : Nat) : (setFld f i v s).ledger = s.ledger := rfl
@[simp] theorem setFld_evtWait (f : RegField) (i v : Nat) : (setFld f i v s).evtWait = s.evtWait := rfl
@[simp] theorem setFld_lastRead (f : RegField) (i v : Nat) : (setFld f i v s).lastRead = s.lastRead := rfl
@[simp] theorem setFld_latches (f : RegField) (i v : Nat) : (setFld f i v s).latches = s.latches := rfl
@[simp] theorem setFld_tokenBad (f : RegField) (i v : Nat) : (setFld f i v s).tokenBad = s.tokenBad := rfl
@[simp] theorem setFld_passCe (f : RegField) (i v : Nat) : (setFld f i v s).passCe = s.passCe := rfl
@[simp] theorem setFld_retrainPend (f : RegField) (i v : Nat) : (setFld f i v s).retrainPend = s.retrainPend := rfl
@[simp] theorem setFld_scrubAt (f : RegField) (i v : Nat) : (setFld f i v s).scrubAt = s.scrubAt := rfl
@[simp] theorem setFld_arb (f : RegField) (i v : Nat) : (setFld f i v s).arb = s.arb := rfl
@[simp] theorem setFld_bursts (f : RegField) (i v : Nat) : (setFld f i v s).bursts = s.bursts := rfl
@[simp] theorem setFld_limiters (f : RegField) (i v : Nat) : (setFld f i v s).limiters = s.limiters := rfl
@[simp] theorem setFld_drovers (f : RegField) (i v : Nat) : (setFld f i v s).drovers = s.drovers := rfl
@[simp] theorem setFld_chans (f : RegField) (i v : Nat) : (setFld f i v s).chans = s.chans := rfl
@[simp] theorem setFld_drvMem (f : RegField) (i v : Nat) : (setFld f i v s).drvMem = s.drvMem := rfl
@[simp] theorem setFld_lines (f : RegField) (i v : Nat) : (setFld f i v s).lines = s.lines := rfl
@[simp] theorem setFld_staged (f : RegField) (i v : Nat) : (setFld f i v s).staged = s.staged := rfl
@[simp] theorem setFld_rxq (f : RegField) (i v : Nat) : (setFld f i v s).rxq = s.rxq := rfl
@[simp] theorem setFld_admitted (f : RegField) (i v : Nat) : (setFld f i v s).admitted = s.admitted := rfl
@[simp] theorem setFld_sessions (f : RegField) (i v : Nat) : (setFld f i v s).sessions = s.sessions := rfl
@[simp] theorem setFld_oldSessions (f : RegField) (i v : Nat) : (setFld f i v s).oldSessions = s.oldSessions := rfl
@[simp] theorem setFld_keys (f : RegField) (i v : Nat) : (setFld f i v s).keys = s.keys := rfl
@[simp] theorem setFld_txq (f : RegField) (i v : Nat) : (setFld f i v s).txq = s.txq := rfl
@[simp] theorem setFld_sent (f : RegField) (i v : Nat) : (setFld f i v s).sent = s.sent := rfl
@[simp] theorem setFld_spiFlags (f : RegField) (i v : Nat) : (setFld f i v s).spiFlags = s.spiFlags := rfl
@[simp] theorem setFld_arp (f : RegField) (i v : Nat) : (setFld f i v s).arp = s.arp := rfl
@[simp] theorem setFld_evtLog (f : RegField) (i v : Nat) : (setFld f i v s).evtLog = s.evtLog := rfl
@[simp] theorem setFld_evtWord (f : RegField) (i v : Nat) : (setFld f i v s).evtWord = s.evtWord := rfl
@[simp] theorem setFld_seqClosed (f : RegField) (i v : Nat) : (setFld f i v s).seqClosed = s.seqClosed := rfl
@[simp] theorem setFld_seqSnap (f : RegField) (i v : Nat) : (setFld f i v s).seqSnap = s.seqSnap := rfl
@[simp] theorem setFld_seqPend (f : RegField) (i v : Nat) : (setFld f i v s).seqPend = s.seqPend := rfl
@[simp] theorem setFld_seqAud (f : RegField) (i v : Nat) : (setFld f i v s).seqAud = s.seqAud := rfl
@[simp] theorem setFld_seqAudFrame (f : RegField) (i v : Nat) : (setFld f i v s).seqAudFrame = s.seqAudFrame := rfl
@[simp] theorem setFld_jobs (f : RegField) (i v : Nat) : (setFld f i v s).jobs = s.jobs := rfl
@[simp] theorem setFld_regions (f : RegField) (i v : Nat) : (setFld f i v s).regions = s.regions := rfl
@[simp] theorem setFld_ownSessions (f : RegField) (i v : Nat) : (setFld f i v s).ownSessions = s.ownSessions := rfl
@[simp] theorem setFld_ownReqs (f : RegField) (i v : Nat) : (setFld f i v s).ownReqs = s.ownReqs := rfl
@[simp] theorem setFld_replies (f : RegField) (i v : Nat) : (setFld f i v s).replies = s.replies := rfl
@[simp] theorem setFld_work (f : RegField) (i v : Nat) : (setFld f i v s).work = s.work := rfl
@[simp] theorem setFld_live (f : RegField) (i v : Nat) : (setFld f i v s).live = s.live := rfl
@[simp] theorem setFld_kernels (f : RegField) (i v : Nat) : (setFld f i v s).kernels = s.kernels := rfl
@[simp] theorem setFld_partials (f : RegField) (i v : Nat) : (setFld f i v s).partials = s.partials := rfl
@[simp] theorem setFld_params (f : RegField) (i v : Nat) : (setFld f i v s).params = s.params := rfl
@[simp] theorem setFld_liveParams (f : RegField) (i v : Nat) : (setFld f i v s).liveParams = s.liveParams := rfl
@[simp] theorem setFld_liveSlots (f : RegField) (i v : Nat) : (setFld f i v s).liveSlots = s.liveSlots := rfl
@[simp] theorem setFld_liveCellar (f : RegField) (i v : Nat) : (setFld f i v s).liveCellar = s.liveCellar := rfl
@[simp] theorem setFld_results (f : RegField) (i v : Nat) : (setFld f i v s).results = s.results := rfl
@[simp] theorem setFld_ramps (f : RegField) (i v : Nat) : (setFld f i v s).ramps = s.ramps := rfl
@[simp] theorem setFld_meters (f : RegField) (i v : Nat) : (setFld f i v s).meters = s.meters := rfl
@[simp] theorem setFld_strips (f : RegField) (i v : Nat) : (setFld f i v s).strips = s.strips := rfl
@[simp] theorem setFld_liveTasks (f : RegField) (i v : Nat) : (setFld f i v s).liveTasks = s.liveTasks := rfl
@[simp] theorem setFld_livePosts (f : RegField) (i v : Nat) : (setFld f i v s).livePosts = s.livePosts := rfl
@[simp] theorem setFld_brews (f : RegField) (i v : Nat) : (setFld f i v s).brews = s.brews := rfl
@[simp] theorem setFld_directWait (f : RegField) (i v : Nat) : (setFld f i v s).directWait = s.directWait := rfl
@[simp] theorem setFld_groups (f : RegField) (i v : Nat) : (setFld f i v s).groups = s.groups := rfl
@[simp] theorem setFld_tapKnown (f : RegField) (i v : Nat) : (setFld f i v s).tapKnown = s.tapKnown := rfl
@[simp] theorem setFld_ports (f : RegField) (i v : Nat) : (setFld f i v s).ports = s.ports := rfl
@[simp] theorem setFld_traces (f : RegField) (i v : Nat) : (setFld f i v s).traces = s.traces := rfl
@[simp] theorem setFld_rxCells (f : RegField) (i v : Nat) : (setFld f i v s).rxCells = s.rxCells := rfl
@[simp] theorem setFld_prbs (f : RegField) (i v : Nat) : (setFld f i v s).prbs = s.prbs := rfl
@[simp] theorem setFld_mgmt (f : RegField) (i v : Nat) : (setFld f i v s).mgmt = s.mgmt := rfl
@[simp] theorem setFld_timeq (f : RegField) (i v : Nat) : (setFld f i v s).timeq = s.timeq := rfl
@[simp] theorem setFld_acqq (f : RegField) (i v : Nat) : (setFld f i v s).acqq = s.acqq := rfl
@[simp] theorem setFld_liveRx (f : RegField) (i v : Nat) : (setFld f i v s).liveRx = s.liveRx := rfl
@[simp] theorem setFld_team (f : RegField) (i v : Nat) : (setFld f i v s).team = s.team := rfl
@[simp] theorem setFld_routes (f : RegField) (i v : Nat) : (setFld f i v s).routes = s.routes := rfl
@[simp] theorem setFld_annCount (f : RegField) (i v : Nat) : (setFld f i v s).annCount = s.annCount := rfl
@[simp] theorem setFld_parentRun (f : RegField) (i v : Nat) : (setFld f i v s).parentRun = s.parentRun := rfl
@[simp] theorem setFld_margins (f : RegField) (i v : Nat) : (setFld f i v s).margins = s.margins := rfl
@[simp] theorem setFld_pair (f : RegField) (i v : Nat) : (setFld f i v s).pair = s.pair := rfl
@[simp] theorem setFld_liveAreas (f : RegField) (i v : Nat) : (setFld f i v s).liveAreas = s.liveAreas := rfl
@[simp] theorem setFld_liveRegs (f : RegField) (i v : Nat) : (setFld f i v s).liveRegs = s.liveRegs := rfl
@[simp] theorem setFld_liveSweep (f : RegField) (i v : Nat) : (setFld f i v s).liveSweep = s.liveSweep := rfl
@[simp] theorem setFld_domA (f : RegField) (i v : Nat) : (setFld f i v s).domA = s.domA := rfl
@[simp] theorem setFld_domB (f : RegField) (i v : Nat) : (setFld f i v s).domB = s.domB := rfl
@[simp] theorem setFld_comma (f : RegField) (i v : Nat) : (setFld f i v s).comma = s.comma := rfl
@[simp] theorem setFld_pulses (f : RegField) (i v : Nat) : (setFld f i v s).pulses = s.pulses := rfl
@[simp] theorem setFld_aligns (f : RegField) (i v : Nat) : (setFld f i v s).aligns = s.aligns := rfl
@[simp] theorem setFld_history (f : RegField) (i v : Nat) : (setFld f i v s).history = s.history := rfl
@[simp] theorem setFld_fromFree (f : RegField) (i v : Nat) : (setFld f i v s).fromFree = s.fromFree := rfl
@[simp] theorem setFld_remap (f : RegField) (i v : Nat) : (setFld f i v s).remap = s.remap := rfl
@[simp] theorem setFld_amps (f : RegField) (i v : Nat) : (setFld f i v s).amps = s.amps := rfl
@[simp] theorem setFld_reqLimit (f : RegField) (i v : Nat) : (setFld f i v s).reqLimit = s.reqLimit := rfl
@[simp] theorem setFld_ovrBalls (f : RegField) (i v : Nat) : (setFld f i v s).ovrBalls = s.ovrBalls := rfl
@[simp] theorem setFld_ovrHist (f : RegField) (i v : Nat) : (setFld f i v s).ovrHist = s.ovrHist := rfl
@[simp] theorem setFld_power (f : RegField) (i v : Nat) : (setFld f i v s).power = s.power := rfl
@[simp] theorem setFld_liveStreams (f : RegField) (i v : Nat) : (setFld f i v s).liveStreams = s.liveStreams := rfl

/-! ### memPoke -/

@[simp] theorem memPoke_pending (a : Nat) (bs : List Byte) : (memPoke a bs s).pending = s.pending := rfl
@[simp] theorem memPoke_regs (a : Nat) (bs : List Byte) : (memPoke a bs s).regs = s.regs := rfl
@[simp] theorem memPoke_mem (a : Nat) (bs : List Byte) : (memPoke a bs s).mem = memPutAll a bs s.mem := rfl
@[simp] theorem memPoke_fresh (a : Nat) (bs : List Byte) : (memPoke a bs s).fresh = s.fresh := rfl
@[simp] theorem memPoke_frame (a : Nat) (bs : List Byte) : (memPoke a bs s).frame = s.frame := rfl
@[simp] theorem memPoke_tick (a : Nat) (bs : List Byte) : (memPoke a bs s).tick = s.tick := rfl
@[simp] theorem memPoke_tickPrev (a : Nat) (bs : List Byte) : (memPoke a bs s).tickPrev = s.tickPrev := rfl
@[simp] theorem memPoke_mode (a : Nat) (bs : List Byte) : (memPoke a bs s).mode = s.mode := rfl
@[simp] theorem memPoke_fs (a : Nat) (bs : List Byte) : (memPoke a bs s).fs = s.fs := rfl
@[simp] theorem memPoke_units (a : Nat) (bs : List Byte) : (memPoke a bs s).units = s.units := rfl
@[simp] theorem memPoke_stalls (a : Nat) (bs : List Byte) : (memPoke a bs s).stalls = s.stalls := rfl
@[simp] theorem memPoke_pages (a : Nat) (bs : List Byte) : (memPoke a bs s).pages = s.pages := rfl
@[simp] theorem memPoke_progMem (a : Nat) (bs : List Byte) : (memPoke a bs s).progMem = s.progMem := rfl
@[simp] theorem memPoke_outs (a : Nat) (bs : List Byte) : (memPoke a bs s).outs = s.outs := rfl
@[simp] theorem memPoke_outFlight (a : Nat) (bs : List Byte) : (memPoke a bs s).outFlight = s.outFlight := rfl
@[simp] theorem memPoke_posts (a : Nat) (bs : List Byte) : (memPoke a bs s).posts = s.posts := rfl
@[simp] theorem memPoke_ueWords (a : Nat) (bs : List Byte) : (memPoke a bs s).ueWords = s.ueWords := rfl
@[simp] theorem memPoke_ceWords (a : Nat) (bs : List Byte) : (memPoke a bs s).ceWords = s.ceWords := rfl
@[simp] theorem memPoke_fg (a : Nat) (bs : List Byte) : (memPoke a bs s).fg = s.fg := rfl
@[simp] theorem memPoke_ledger (a : Nat) (bs : List Byte) : (memPoke a bs s).ledger = s.ledger := rfl
@[simp] theorem memPoke_evtWait (a : Nat) (bs : List Byte) : (memPoke a bs s).evtWait = s.evtWait := rfl
@[simp] theorem memPoke_lastRead (a : Nat) (bs : List Byte) : (memPoke a bs s).lastRead = s.lastRead := rfl
@[simp] theorem memPoke_latches (a : Nat) (bs : List Byte) : (memPoke a bs s).latches = s.latches := rfl
@[simp] theorem memPoke_tokenBad (a : Nat) (bs : List Byte) : (memPoke a bs s).tokenBad = s.tokenBad := rfl
@[simp] theorem memPoke_passCe (a : Nat) (bs : List Byte) : (memPoke a bs s).passCe = s.passCe := rfl
@[simp] theorem memPoke_retrainPend (a : Nat) (bs : List Byte) : (memPoke a bs s).retrainPend = s.retrainPend := rfl
@[simp] theorem memPoke_scrubAt (a : Nat) (bs : List Byte) : (memPoke a bs s).scrubAt = s.scrubAt := rfl
@[simp] theorem memPoke_arb (a : Nat) (bs : List Byte) : (memPoke a bs s).arb = s.arb := rfl
@[simp] theorem memPoke_bursts (a : Nat) (bs : List Byte) : (memPoke a bs s).bursts = s.bursts := rfl
@[simp] theorem memPoke_limiters (a : Nat) (bs : List Byte) : (memPoke a bs s).limiters = s.limiters := rfl
@[simp] theorem memPoke_drovers (a : Nat) (bs : List Byte) : (memPoke a bs s).drovers = s.drovers := rfl
@[simp] theorem memPoke_chans (a : Nat) (bs : List Byte) : (memPoke a bs s).chans = s.chans := rfl
@[simp] theorem memPoke_drvMem (a : Nat) (bs : List Byte) : (memPoke a bs s).drvMem = s.drvMem := rfl
@[simp] theorem memPoke_lines (a : Nat) (bs : List Byte) : (memPoke a bs s).lines = s.lines := rfl
@[simp] theorem memPoke_staged (a : Nat) (bs : List Byte) : (memPoke a bs s).staged = s.staged := rfl
@[simp] theorem memPoke_rxq (a : Nat) (bs : List Byte) : (memPoke a bs s).rxq = s.rxq := rfl
@[simp] theorem memPoke_admitted (a : Nat) (bs : List Byte) : (memPoke a bs s).admitted = s.admitted := rfl
@[simp] theorem memPoke_sessions (a : Nat) (bs : List Byte) : (memPoke a bs s).sessions = s.sessions := rfl
@[simp] theorem memPoke_oldSessions (a : Nat) (bs : List Byte) : (memPoke a bs s).oldSessions = s.oldSessions := rfl
@[simp] theorem memPoke_keys (a : Nat) (bs : List Byte) : (memPoke a bs s).keys = s.keys := rfl
@[simp] theorem memPoke_txq (a : Nat) (bs : List Byte) : (memPoke a bs s).txq = s.txq := rfl
@[simp] theorem memPoke_sent (a : Nat) (bs : List Byte) : (memPoke a bs s).sent = s.sent := rfl
@[simp] theorem memPoke_spiFlags (a : Nat) (bs : List Byte) : (memPoke a bs s).spiFlags = s.spiFlags := rfl
@[simp] theorem memPoke_arp (a : Nat) (bs : List Byte) : (memPoke a bs s).arp = s.arp := rfl
@[simp] theorem memPoke_evtLog (a : Nat) (bs : List Byte) : (memPoke a bs s).evtLog = s.evtLog := rfl
@[simp] theorem memPoke_evtWord (a : Nat) (bs : List Byte) : (memPoke a bs s).evtWord = s.evtWord := rfl
@[simp] theorem memPoke_seqClosed (a : Nat) (bs : List Byte) : (memPoke a bs s).seqClosed = s.seqClosed := rfl
@[simp] theorem memPoke_seqSnap (a : Nat) (bs : List Byte) : (memPoke a bs s).seqSnap = s.seqSnap := rfl
@[simp] theorem memPoke_seqPend (a : Nat) (bs : List Byte) : (memPoke a bs s).seqPend = s.seqPend := rfl
@[simp] theorem memPoke_seqAud (a : Nat) (bs : List Byte) : (memPoke a bs s).seqAud = s.seqAud := rfl
@[simp] theorem memPoke_seqAudFrame (a : Nat) (bs : List Byte) : (memPoke a bs s).seqAudFrame = s.seqAudFrame := rfl
@[simp] theorem memPoke_jobs (a : Nat) (bs : List Byte) : (memPoke a bs s).jobs = s.jobs := rfl
@[simp] theorem memPoke_regions (a : Nat) (bs : List Byte) : (memPoke a bs s).regions = s.regions := rfl
@[simp] theorem memPoke_ownSessions (a : Nat) (bs : List Byte) : (memPoke a bs s).ownSessions = s.ownSessions := rfl
@[simp] theorem memPoke_ownReqs (a : Nat) (bs : List Byte) : (memPoke a bs s).ownReqs = s.ownReqs := rfl
@[simp] theorem memPoke_replies (a : Nat) (bs : List Byte) : (memPoke a bs s).replies = s.replies := rfl
@[simp] theorem memPoke_work (a : Nat) (bs : List Byte) : (memPoke a bs s).work = s.work := rfl
@[simp] theorem memPoke_live (a : Nat) (bs : List Byte) : (memPoke a bs s).live = s.live := rfl
@[simp] theorem memPoke_kernels (a : Nat) (bs : List Byte) : (memPoke a bs s).kernels = s.kernels := rfl
@[simp] theorem memPoke_partials (a : Nat) (bs : List Byte) : (memPoke a bs s).partials = s.partials := rfl
@[simp] theorem memPoke_params (a : Nat) (bs : List Byte) : (memPoke a bs s).params = s.params := rfl
@[simp] theorem memPoke_liveParams (a : Nat) (bs : List Byte) : (memPoke a bs s).liveParams = s.liveParams := rfl
@[simp] theorem memPoke_liveSlots (a : Nat) (bs : List Byte) : (memPoke a bs s).liveSlots = s.liveSlots := rfl
@[simp] theorem memPoke_liveCellar (a : Nat) (bs : List Byte) : (memPoke a bs s).liveCellar = s.liveCellar := rfl
@[simp] theorem memPoke_results (a : Nat) (bs : List Byte) : (memPoke a bs s).results = s.results := rfl
@[simp] theorem memPoke_ramps (a : Nat) (bs : List Byte) : (memPoke a bs s).ramps = s.ramps := rfl
@[simp] theorem memPoke_meters (a : Nat) (bs : List Byte) : (memPoke a bs s).meters = s.meters := rfl
@[simp] theorem memPoke_strips (a : Nat) (bs : List Byte) : (memPoke a bs s).strips = s.strips := rfl
@[simp] theorem memPoke_liveTasks (a : Nat) (bs : List Byte) : (memPoke a bs s).liveTasks = s.liveTasks := rfl
@[simp] theorem memPoke_livePosts (a : Nat) (bs : List Byte) : (memPoke a bs s).livePosts = s.livePosts := rfl
@[simp] theorem memPoke_brews (a : Nat) (bs : List Byte) : (memPoke a bs s).brews = s.brews := rfl
@[simp] theorem memPoke_directWait (a : Nat) (bs : List Byte) : (memPoke a bs s).directWait = s.directWait := rfl
@[simp] theorem memPoke_groups (a : Nat) (bs : List Byte) : (memPoke a bs s).groups = s.groups := rfl
@[simp] theorem memPoke_tapKnown (a : Nat) (bs : List Byte) : (memPoke a bs s).tapKnown = s.tapKnown := rfl
@[simp] theorem memPoke_ports (a : Nat) (bs : List Byte) : (memPoke a bs s).ports = s.ports := rfl
@[simp] theorem memPoke_traces (a : Nat) (bs : List Byte) : (memPoke a bs s).traces = s.traces := rfl
@[simp] theorem memPoke_rxCells (a : Nat) (bs : List Byte) : (memPoke a bs s).rxCells = s.rxCells := rfl
@[simp] theorem memPoke_prbs (a : Nat) (bs : List Byte) : (memPoke a bs s).prbs = s.prbs := rfl
@[simp] theorem memPoke_mgmt (a : Nat) (bs : List Byte) : (memPoke a bs s).mgmt = s.mgmt := rfl
@[simp] theorem memPoke_timeq (a : Nat) (bs : List Byte) : (memPoke a bs s).timeq = s.timeq := rfl
@[simp] theorem memPoke_acqq (a : Nat) (bs : List Byte) : (memPoke a bs s).acqq = s.acqq := rfl
@[simp] theorem memPoke_liveRx (a : Nat) (bs : List Byte) : (memPoke a bs s).liveRx = s.liveRx := rfl
@[simp] theorem memPoke_team (a : Nat) (bs : List Byte) : (memPoke a bs s).team = s.team := rfl
@[simp] theorem memPoke_routes (a : Nat) (bs : List Byte) : (memPoke a bs s).routes = s.routes := rfl
@[simp] theorem memPoke_annCount (a : Nat) (bs : List Byte) : (memPoke a bs s).annCount = s.annCount := rfl
@[simp] theorem memPoke_parentRun (a : Nat) (bs : List Byte) : (memPoke a bs s).parentRun = s.parentRun := rfl
@[simp] theorem memPoke_margins (a : Nat) (bs : List Byte) : (memPoke a bs s).margins = s.margins := rfl
@[simp] theorem memPoke_pair (a : Nat) (bs : List Byte) : (memPoke a bs s).pair = s.pair := rfl
@[simp] theorem memPoke_liveAreas (a : Nat) (bs : List Byte) : (memPoke a bs s).liveAreas = s.liveAreas := rfl
@[simp] theorem memPoke_liveRegs (a : Nat) (bs : List Byte) : (memPoke a bs s).liveRegs = s.liveRegs := rfl
@[simp] theorem memPoke_liveSweep (a : Nat) (bs : List Byte) : (memPoke a bs s).liveSweep = s.liveSweep := rfl
@[simp] theorem memPoke_domA (a : Nat) (bs : List Byte) : (memPoke a bs s).domA = s.domA := rfl
@[simp] theorem memPoke_domB (a : Nat) (bs : List Byte) : (memPoke a bs s).domB = s.domB := rfl
@[simp] theorem memPoke_comma (a : Nat) (bs : List Byte) : (memPoke a bs s).comma = s.comma := rfl
@[simp] theorem memPoke_pulses (a : Nat) (bs : List Byte) : (memPoke a bs s).pulses = s.pulses := rfl
@[simp] theorem memPoke_aligns (a : Nat) (bs : List Byte) : (memPoke a bs s).aligns = s.aligns := rfl
@[simp] theorem memPoke_history (a : Nat) (bs : List Byte) : (memPoke a bs s).history = s.history := rfl
@[simp] theorem memPoke_fromFree (a : Nat) (bs : List Byte) : (memPoke a bs s).fromFree = s.fromFree := rfl
@[simp] theorem memPoke_remap (a : Nat) (bs : List Byte) : (memPoke a bs s).remap = s.remap := rfl
@[simp] theorem memPoke_amps (a : Nat) (bs : List Byte) : (memPoke a bs s).amps = s.amps := rfl
@[simp] theorem memPoke_reqLimit (a : Nat) (bs : List Byte) : (memPoke a bs s).reqLimit = s.reqLimit := rfl
@[simp] theorem memPoke_ovrBalls (a : Nat) (bs : List Byte) : (memPoke a bs s).ovrBalls = s.ovrBalls := rfl
@[simp] theorem memPoke_ovrHist (a : Nat) (bs : List Byte) : (memPoke a bs s).ovrHist = s.ovrHist := rfl
@[simp] theorem memPoke_power (a : Nat) (bs : List Byte) : (memPoke a bs s).power = s.power := rfl
@[simp] theorem memPoke_liveStreams (a : Nat) (bs : List Byte) : (memPoke a bs s).liveStreams = s.liveStreams := rfl

/-! ### setStall -/

@[simp] theorem setStall_pending (u : Nat) (x : Stall) : (setStall u x s).pending = s.pending := rfl
@[simp] theorem setStall_regs (u : Nat) (x : Stall) : (setStall u x s).regs = s.regs := rfl
@[simp] theorem setStall_mem (u : Nat) (x : Stall) : (setStall u x s).mem = s.mem := rfl
@[simp] theorem setStall_fresh (u : Nat) (x : Stall) : (setStall u x s).fresh = s.fresh := rfl
@[simp] theorem setStall_frame (u : Nat) (x : Stall) : (setStall u x s).frame = s.frame := rfl
@[simp] theorem setStall_tick (u : Nat) (x : Stall) : (setStall u x s).tick = s.tick := rfl
@[simp] theorem setStall_tickPrev (u : Nat) (x : Stall) : (setStall u x s).tickPrev = s.tickPrev := rfl
@[simp] theorem setStall_mode (u : Nat) (x : Stall) : (setStall u x s).mode = s.mode := rfl
@[simp] theorem setStall_fs (u : Nat) (x : Stall) : (setStall u x s).fs = s.fs := rfl
@[simp] theorem setStall_units (u : Nat) (x : Stall) : (setStall u x s).units = s.units := rfl
@[simp] theorem setStall_stalls (u : Nat) (x : Stall) : (setStall u x s).stalls = smapSet (fun _ => stallReset) u x s.stalls := rfl
@[simp] theorem setStall_pages (u : Nat) (x : Stall) : (setStall u x s).pages = s.pages := rfl
@[simp] theorem setStall_progMem (u : Nat) (x : Stall) : (setStall u x s).progMem = s.progMem := rfl
@[simp] theorem setStall_outs (u : Nat) (x : Stall) : (setStall u x s).outs = s.outs := rfl
@[simp] theorem setStall_outFlight (u : Nat) (x : Stall) : (setStall u x s).outFlight = s.outFlight := rfl
@[simp] theorem setStall_posts (u : Nat) (x : Stall) : (setStall u x s).posts = s.posts := rfl
@[simp] theorem setStall_ueWords (u : Nat) (x : Stall) : (setStall u x s).ueWords = s.ueWords := rfl
@[simp] theorem setStall_ceWords (u : Nat) (x : Stall) : (setStall u x s).ceWords = s.ceWords := rfl
@[simp] theorem setStall_fg (u : Nat) (x : Stall) : (setStall u x s).fg = s.fg := rfl
@[simp] theorem setStall_ledger (u : Nat) (x : Stall) : (setStall u x s).ledger = s.ledger := rfl
@[simp] theorem setStall_evtWait (u : Nat) (x : Stall) : (setStall u x s).evtWait = s.evtWait := rfl
@[simp] theorem setStall_lastRead (u : Nat) (x : Stall) : (setStall u x s).lastRead = s.lastRead := rfl
@[simp] theorem setStall_latches (u : Nat) (x : Stall) : (setStall u x s).latches = s.latches := rfl
@[simp] theorem setStall_tokenBad (u : Nat) (x : Stall) : (setStall u x s).tokenBad = s.tokenBad := rfl
@[simp] theorem setStall_passCe (u : Nat) (x : Stall) : (setStall u x s).passCe = s.passCe := rfl
@[simp] theorem setStall_retrainPend (u : Nat) (x : Stall) : (setStall u x s).retrainPend = s.retrainPend := rfl
@[simp] theorem setStall_scrubAt (u : Nat) (x : Stall) : (setStall u x s).scrubAt = s.scrubAt := rfl
@[simp] theorem setStall_arb (u : Nat) (x : Stall) : (setStall u x s).arb = s.arb := rfl
@[simp] theorem setStall_bursts (u : Nat) (x : Stall) : (setStall u x s).bursts = s.bursts := rfl
@[simp] theorem setStall_limiters (u : Nat) (x : Stall) : (setStall u x s).limiters = s.limiters := rfl
@[simp] theorem setStall_drovers (u : Nat) (x : Stall) : (setStall u x s).drovers = s.drovers := rfl
@[simp] theorem setStall_chans (u : Nat) (x : Stall) : (setStall u x s).chans = s.chans := rfl
@[simp] theorem setStall_drvMem (u : Nat) (x : Stall) : (setStall u x s).drvMem = s.drvMem := rfl
@[simp] theorem setStall_lines (u : Nat) (x : Stall) : (setStall u x s).lines = s.lines := rfl
@[simp] theorem setStall_staged (u : Nat) (x : Stall) : (setStall u x s).staged = s.staged := rfl
@[simp] theorem setStall_rxq (u : Nat) (x : Stall) : (setStall u x s).rxq = s.rxq := rfl
@[simp] theorem setStall_admitted (u : Nat) (x : Stall) : (setStall u x s).admitted = s.admitted := rfl
@[simp] theorem setStall_sessions (u : Nat) (x : Stall) : (setStall u x s).sessions = s.sessions := rfl
@[simp] theorem setStall_oldSessions (u : Nat) (x : Stall) : (setStall u x s).oldSessions = s.oldSessions := rfl
@[simp] theorem setStall_keys (u : Nat) (x : Stall) : (setStall u x s).keys = s.keys := rfl
@[simp] theorem setStall_txq (u : Nat) (x : Stall) : (setStall u x s).txq = s.txq := rfl
@[simp] theorem setStall_sent (u : Nat) (x : Stall) : (setStall u x s).sent = s.sent := rfl
@[simp] theorem setStall_spiFlags (u : Nat) (x : Stall) : (setStall u x s).spiFlags = s.spiFlags := rfl
@[simp] theorem setStall_arp (u : Nat) (x : Stall) : (setStall u x s).arp = s.arp := rfl
@[simp] theorem setStall_evtLog (u : Nat) (x : Stall) : (setStall u x s).evtLog = s.evtLog := rfl
@[simp] theorem setStall_evtWord (u : Nat) (x : Stall) : (setStall u x s).evtWord = s.evtWord := rfl
@[simp] theorem setStall_seqClosed (u : Nat) (x : Stall) : (setStall u x s).seqClosed = s.seqClosed := rfl
@[simp] theorem setStall_seqSnap (u : Nat) (x : Stall) : (setStall u x s).seqSnap = s.seqSnap := rfl
@[simp] theorem setStall_seqPend (u : Nat) (x : Stall) : (setStall u x s).seqPend = s.seqPend := rfl
@[simp] theorem setStall_seqAud (u : Nat) (x : Stall) : (setStall u x s).seqAud = s.seqAud := rfl
@[simp] theorem setStall_seqAudFrame (u : Nat) (x : Stall) : (setStall u x s).seqAudFrame = s.seqAudFrame := rfl
@[simp] theorem setStall_jobs (u : Nat) (x : Stall) : (setStall u x s).jobs = s.jobs := rfl
@[simp] theorem setStall_regions (u : Nat) (x : Stall) : (setStall u x s).regions = s.regions := rfl
@[simp] theorem setStall_ownSessions (u : Nat) (x : Stall) : (setStall u x s).ownSessions = s.ownSessions := rfl
@[simp] theorem setStall_ownReqs (u : Nat) (x : Stall) : (setStall u x s).ownReqs = s.ownReqs := rfl
@[simp] theorem setStall_replies (u : Nat) (x : Stall) : (setStall u x s).replies = s.replies := rfl
@[simp] theorem setStall_work (u : Nat) (x : Stall) : (setStall u x s).work = s.work := rfl
@[simp] theorem setStall_live (u : Nat) (x : Stall) : (setStall u x s).live = s.live := rfl
@[simp] theorem setStall_kernels (u : Nat) (x : Stall) : (setStall u x s).kernels = s.kernels := rfl
@[simp] theorem setStall_partials (u : Nat) (x : Stall) : (setStall u x s).partials = s.partials := rfl
@[simp] theorem setStall_params (u : Nat) (x : Stall) : (setStall u x s).params = s.params := rfl
@[simp] theorem setStall_liveParams (u : Nat) (x : Stall) : (setStall u x s).liveParams = s.liveParams := rfl
@[simp] theorem setStall_liveSlots (u : Nat) (x : Stall) : (setStall u x s).liveSlots = s.liveSlots := rfl
@[simp] theorem setStall_liveCellar (u : Nat) (x : Stall) : (setStall u x s).liveCellar = s.liveCellar := rfl
@[simp] theorem setStall_results (u : Nat) (x : Stall) : (setStall u x s).results = s.results := rfl
@[simp] theorem setStall_ramps (u : Nat) (x : Stall) : (setStall u x s).ramps = s.ramps := rfl
@[simp] theorem setStall_meters (u : Nat) (x : Stall) : (setStall u x s).meters = s.meters := rfl
@[simp] theorem setStall_strips (u : Nat) (x : Stall) : (setStall u x s).strips = s.strips := rfl
@[simp] theorem setStall_liveTasks (u : Nat) (x : Stall) : (setStall u x s).liveTasks = s.liveTasks := rfl
@[simp] theorem setStall_livePosts (u : Nat) (x : Stall) : (setStall u x s).livePosts = s.livePosts := rfl
@[simp] theorem setStall_brews (u : Nat) (x : Stall) : (setStall u x s).brews = s.brews := rfl
@[simp] theorem setStall_directWait (u : Nat) (x : Stall) : (setStall u x s).directWait = s.directWait := rfl
@[simp] theorem setStall_groups (u : Nat) (x : Stall) : (setStall u x s).groups = s.groups := rfl
@[simp] theorem setStall_tapKnown (u : Nat) (x : Stall) : (setStall u x s).tapKnown = s.tapKnown := rfl
@[simp] theorem setStall_ports (u : Nat) (x : Stall) : (setStall u x s).ports = s.ports := rfl
@[simp] theorem setStall_traces (u : Nat) (x : Stall) : (setStall u x s).traces = s.traces := rfl
@[simp] theorem setStall_rxCells (u : Nat) (x : Stall) : (setStall u x s).rxCells = s.rxCells := rfl
@[simp] theorem setStall_prbs (u : Nat) (x : Stall) : (setStall u x s).prbs = s.prbs := rfl
@[simp] theorem setStall_mgmt (u : Nat) (x : Stall) : (setStall u x s).mgmt = s.mgmt := rfl
@[simp] theorem setStall_timeq (u : Nat) (x : Stall) : (setStall u x s).timeq = s.timeq := rfl
@[simp] theorem setStall_acqq (u : Nat) (x : Stall) : (setStall u x s).acqq = s.acqq := rfl
@[simp] theorem setStall_liveRx (u : Nat) (x : Stall) : (setStall u x s).liveRx = s.liveRx := rfl
@[simp] theorem setStall_team (u : Nat) (x : Stall) : (setStall u x s).team = s.team := rfl
@[simp] theorem setStall_routes (u : Nat) (x : Stall) : (setStall u x s).routes = s.routes := rfl
@[simp] theorem setStall_annCount (u : Nat) (x : Stall) : (setStall u x s).annCount = s.annCount := rfl
@[simp] theorem setStall_parentRun (u : Nat) (x : Stall) : (setStall u x s).parentRun = s.parentRun := rfl
@[simp] theorem setStall_margins (u : Nat) (x : Stall) : (setStall u x s).margins = s.margins := rfl
@[simp] theorem setStall_pair (u : Nat) (x : Stall) : (setStall u x s).pair = s.pair := rfl
@[simp] theorem setStall_liveAreas (u : Nat) (x : Stall) : (setStall u x s).liveAreas = s.liveAreas := rfl
@[simp] theorem setStall_liveRegs (u : Nat) (x : Stall) : (setStall u x s).liveRegs = s.liveRegs := rfl
@[simp] theorem setStall_liveSweep (u : Nat) (x : Stall) : (setStall u x s).liveSweep = s.liveSweep := rfl
@[simp] theorem setStall_domA (u : Nat) (x : Stall) : (setStall u x s).domA = s.domA := rfl
@[simp] theorem setStall_domB (u : Nat) (x : Stall) : (setStall u x s).domB = s.domB := rfl
@[simp] theorem setStall_comma (u : Nat) (x : Stall) : (setStall u x s).comma = s.comma := rfl
@[simp] theorem setStall_pulses (u : Nat) (x : Stall) : (setStall u x s).pulses = s.pulses := rfl
@[simp] theorem setStall_aligns (u : Nat) (x : Stall) : (setStall u x s).aligns = s.aligns := rfl
@[simp] theorem setStall_history (u : Nat) (x : Stall) : (setStall u x s).history = s.history := rfl
@[simp] theorem setStall_fromFree (u : Nat) (x : Stall) : (setStall u x s).fromFree = s.fromFree := rfl
@[simp] theorem setStall_remap (u : Nat) (x : Stall) : (setStall u x s).remap = s.remap := rfl
@[simp] theorem setStall_amps (u : Nat) (x : Stall) : (setStall u x s).amps = s.amps := rfl
@[simp] theorem setStall_reqLimit (u : Nat) (x : Stall) : (setStall u x s).reqLimit = s.reqLimit := rfl
@[simp] theorem setStall_ovrBalls (u : Nat) (x : Stall) : (setStall u x s).ovrBalls = s.ovrBalls := rfl
@[simp] theorem setStall_ovrHist (u : Nat) (x : Stall) : (setStall u x s).ovrHist = s.ovrHist := rfl
@[simp] theorem setStall_power (u : Nat) (x : Stall) : (setStall u x s).power = s.power := rfl
@[simp] theorem setStall_liveStreams (u : Nat) (x : Stall) : (setStall u x s).liveStreams = s.liveStreams := rfl

/-! ### setUnit -/

@[simp] theorem setUnit_pending (u : Nat) (x : UnitRec) : (setUnit u x s).pending = s.pending := rfl
@[simp] theorem setUnit_regs (u : Nat) (x : UnitRec) : (setUnit u x s).regs = s.regs := rfl
@[simp] theorem setUnit_mem (u : Nat) (x : UnitRec) : (setUnit u x s).mem = s.mem := rfl
@[simp] theorem setUnit_fresh (u : Nat) (x : UnitRec) : (setUnit u x s).fresh = s.fresh := rfl
@[simp] theorem setUnit_frame (u : Nat) (x : UnitRec) : (setUnit u x s).frame = s.frame := rfl
@[simp] theorem setUnit_tick (u : Nat) (x : UnitRec) : (setUnit u x s).tick = s.tick := rfl
@[simp] theorem setUnit_tickPrev (u : Nat) (x : UnitRec) : (setUnit u x s).tickPrev = s.tickPrev := rfl
@[simp] theorem setUnit_mode (u : Nat) (x : UnitRec) : (setUnit u x s).mode = s.mode := rfl
@[simp] theorem setUnit_fs (u : Nat) (x : UnitRec) : (setUnit u x s).fs = s.fs := rfl
@[simp] theorem setUnit_units (u : Nat) (x : UnitRec) : (setUnit u x s).units = smapSet (fun _ => unitIdle) u x s.units := rfl
@[simp] theorem setUnit_stalls (u : Nat) (x : UnitRec) : (setUnit u x s).stalls = s.stalls := rfl
@[simp] theorem setUnit_pages (u : Nat) (x : UnitRec) : (setUnit u x s).pages = s.pages := rfl
@[simp] theorem setUnit_progMem (u : Nat) (x : UnitRec) : (setUnit u x s).progMem = s.progMem := rfl
@[simp] theorem setUnit_outs (u : Nat) (x : UnitRec) : (setUnit u x s).outs = s.outs := rfl
@[simp] theorem setUnit_outFlight (u : Nat) (x : UnitRec) : (setUnit u x s).outFlight = s.outFlight := rfl
@[simp] theorem setUnit_posts (u : Nat) (x : UnitRec) : (setUnit u x s).posts = s.posts := rfl
@[simp] theorem setUnit_ueWords (u : Nat) (x : UnitRec) : (setUnit u x s).ueWords = s.ueWords := rfl
@[simp] theorem setUnit_ceWords (u : Nat) (x : UnitRec) : (setUnit u x s).ceWords = s.ceWords := rfl
@[simp] theorem setUnit_fg (u : Nat) (x : UnitRec) : (setUnit u x s).fg = s.fg := rfl
@[simp] theorem setUnit_ledger (u : Nat) (x : UnitRec) : (setUnit u x s).ledger = s.ledger := rfl
@[simp] theorem setUnit_evtWait (u : Nat) (x : UnitRec) : (setUnit u x s).evtWait = s.evtWait := rfl
@[simp] theorem setUnit_lastRead (u : Nat) (x : UnitRec) : (setUnit u x s).lastRead = s.lastRead := rfl
@[simp] theorem setUnit_latches (u : Nat) (x : UnitRec) : (setUnit u x s).latches = s.latches := rfl
@[simp] theorem setUnit_tokenBad (u : Nat) (x : UnitRec) : (setUnit u x s).tokenBad = s.tokenBad := rfl
@[simp] theorem setUnit_passCe (u : Nat) (x : UnitRec) : (setUnit u x s).passCe = s.passCe := rfl
@[simp] theorem setUnit_retrainPend (u : Nat) (x : UnitRec) : (setUnit u x s).retrainPend = s.retrainPend := rfl
@[simp] theorem setUnit_scrubAt (u : Nat) (x : UnitRec) : (setUnit u x s).scrubAt = s.scrubAt := rfl
@[simp] theorem setUnit_arb (u : Nat) (x : UnitRec) : (setUnit u x s).arb = s.arb := rfl
@[simp] theorem setUnit_bursts (u : Nat) (x : UnitRec) : (setUnit u x s).bursts = s.bursts := rfl
@[simp] theorem setUnit_limiters (u : Nat) (x : UnitRec) : (setUnit u x s).limiters = s.limiters := rfl
@[simp] theorem setUnit_drovers (u : Nat) (x : UnitRec) : (setUnit u x s).drovers = s.drovers := rfl
@[simp] theorem setUnit_chans (u : Nat) (x : UnitRec) : (setUnit u x s).chans = s.chans := rfl
@[simp] theorem setUnit_drvMem (u : Nat) (x : UnitRec) : (setUnit u x s).drvMem = s.drvMem := rfl
@[simp] theorem setUnit_lines (u : Nat) (x : UnitRec) : (setUnit u x s).lines = s.lines := rfl
@[simp] theorem setUnit_staged (u : Nat) (x : UnitRec) : (setUnit u x s).staged = s.staged := rfl
@[simp] theorem setUnit_rxq (u : Nat) (x : UnitRec) : (setUnit u x s).rxq = s.rxq := rfl
@[simp] theorem setUnit_admitted (u : Nat) (x : UnitRec) : (setUnit u x s).admitted = s.admitted := rfl
@[simp] theorem setUnit_sessions (u : Nat) (x : UnitRec) : (setUnit u x s).sessions = s.sessions := rfl
@[simp] theorem setUnit_oldSessions (u : Nat) (x : UnitRec) : (setUnit u x s).oldSessions = s.oldSessions := rfl
@[simp] theorem setUnit_keys (u : Nat) (x : UnitRec) : (setUnit u x s).keys = s.keys := rfl
@[simp] theorem setUnit_txq (u : Nat) (x : UnitRec) : (setUnit u x s).txq = s.txq := rfl
@[simp] theorem setUnit_sent (u : Nat) (x : UnitRec) : (setUnit u x s).sent = s.sent := rfl
@[simp] theorem setUnit_spiFlags (u : Nat) (x : UnitRec) : (setUnit u x s).spiFlags = s.spiFlags := rfl
@[simp] theorem setUnit_arp (u : Nat) (x : UnitRec) : (setUnit u x s).arp = s.arp := rfl
@[simp] theorem setUnit_evtLog (u : Nat) (x : UnitRec) : (setUnit u x s).evtLog = s.evtLog := rfl
@[simp] theorem setUnit_evtWord (u : Nat) (x : UnitRec) : (setUnit u x s).evtWord = s.evtWord := rfl
@[simp] theorem setUnit_seqClosed (u : Nat) (x : UnitRec) : (setUnit u x s).seqClosed = s.seqClosed := rfl
@[simp] theorem setUnit_seqSnap (u : Nat) (x : UnitRec) : (setUnit u x s).seqSnap = s.seqSnap := rfl
@[simp] theorem setUnit_seqPend (u : Nat) (x : UnitRec) : (setUnit u x s).seqPend = s.seqPend := rfl
@[simp] theorem setUnit_seqAud (u : Nat) (x : UnitRec) : (setUnit u x s).seqAud = s.seqAud := rfl
@[simp] theorem setUnit_seqAudFrame (u : Nat) (x : UnitRec) : (setUnit u x s).seqAudFrame = s.seqAudFrame := rfl
@[simp] theorem setUnit_jobs (u : Nat) (x : UnitRec) : (setUnit u x s).jobs = s.jobs := rfl
@[simp] theorem setUnit_regions (u : Nat) (x : UnitRec) : (setUnit u x s).regions = s.regions := rfl
@[simp] theorem setUnit_ownSessions (u : Nat) (x : UnitRec) : (setUnit u x s).ownSessions = s.ownSessions := rfl
@[simp] theorem setUnit_ownReqs (u : Nat) (x : UnitRec) : (setUnit u x s).ownReqs = s.ownReqs := rfl
@[simp] theorem setUnit_replies (u : Nat) (x : UnitRec) : (setUnit u x s).replies = s.replies := rfl
@[simp] theorem setUnit_work (u : Nat) (x : UnitRec) : (setUnit u x s).work = s.work := rfl
@[simp] theorem setUnit_live (u : Nat) (x : UnitRec) : (setUnit u x s).live = s.live := rfl
@[simp] theorem setUnit_kernels (u : Nat) (x : UnitRec) : (setUnit u x s).kernels = s.kernels := rfl
@[simp] theorem setUnit_partials (u : Nat) (x : UnitRec) : (setUnit u x s).partials = s.partials := rfl
@[simp] theorem setUnit_params (u : Nat) (x : UnitRec) : (setUnit u x s).params = s.params := rfl
@[simp] theorem setUnit_liveParams (u : Nat) (x : UnitRec) : (setUnit u x s).liveParams = s.liveParams := rfl
@[simp] theorem setUnit_liveSlots (u : Nat) (x : UnitRec) : (setUnit u x s).liveSlots = s.liveSlots := rfl
@[simp] theorem setUnit_liveCellar (u : Nat) (x : UnitRec) : (setUnit u x s).liveCellar = s.liveCellar := rfl
@[simp] theorem setUnit_results (u : Nat) (x : UnitRec) : (setUnit u x s).results = s.results := rfl
@[simp] theorem setUnit_ramps (u : Nat) (x : UnitRec) : (setUnit u x s).ramps = s.ramps := rfl
@[simp] theorem setUnit_meters (u : Nat) (x : UnitRec) : (setUnit u x s).meters = s.meters := rfl
@[simp] theorem setUnit_strips (u : Nat) (x : UnitRec) : (setUnit u x s).strips = s.strips := rfl
@[simp] theorem setUnit_liveTasks (u : Nat) (x : UnitRec) : (setUnit u x s).liveTasks = s.liveTasks := rfl
@[simp] theorem setUnit_livePosts (u : Nat) (x : UnitRec) : (setUnit u x s).livePosts = s.livePosts := rfl
@[simp] theorem setUnit_brews (u : Nat) (x : UnitRec) : (setUnit u x s).brews = s.brews := rfl
@[simp] theorem setUnit_directWait (u : Nat) (x : UnitRec) : (setUnit u x s).directWait = s.directWait := rfl
@[simp] theorem setUnit_groups (u : Nat) (x : UnitRec) : (setUnit u x s).groups = s.groups := rfl
@[simp] theorem setUnit_tapKnown (u : Nat) (x : UnitRec) : (setUnit u x s).tapKnown = s.tapKnown := rfl
@[simp] theorem setUnit_ports (u : Nat) (x : UnitRec) : (setUnit u x s).ports = s.ports := rfl
@[simp] theorem setUnit_traces (u : Nat) (x : UnitRec) : (setUnit u x s).traces = s.traces := rfl
@[simp] theorem setUnit_rxCells (u : Nat) (x : UnitRec) : (setUnit u x s).rxCells = s.rxCells := rfl
@[simp] theorem setUnit_prbs (u : Nat) (x : UnitRec) : (setUnit u x s).prbs = s.prbs := rfl
@[simp] theorem setUnit_mgmt (u : Nat) (x : UnitRec) : (setUnit u x s).mgmt = s.mgmt := rfl
@[simp] theorem setUnit_timeq (u : Nat) (x : UnitRec) : (setUnit u x s).timeq = s.timeq := rfl
@[simp] theorem setUnit_acqq (u : Nat) (x : UnitRec) : (setUnit u x s).acqq = s.acqq := rfl
@[simp] theorem setUnit_liveRx (u : Nat) (x : UnitRec) : (setUnit u x s).liveRx = s.liveRx := rfl
@[simp] theorem setUnit_team (u : Nat) (x : UnitRec) : (setUnit u x s).team = s.team := rfl
@[simp] theorem setUnit_routes (u : Nat) (x : UnitRec) : (setUnit u x s).routes = s.routes := rfl
@[simp] theorem setUnit_annCount (u : Nat) (x : UnitRec) : (setUnit u x s).annCount = s.annCount := rfl
@[simp] theorem setUnit_parentRun (u : Nat) (x : UnitRec) : (setUnit u x s).parentRun = s.parentRun := rfl
@[simp] theorem setUnit_margins (u : Nat) (x : UnitRec) : (setUnit u x s).margins = s.margins := rfl
@[simp] theorem setUnit_pair (u : Nat) (x : UnitRec) : (setUnit u x s).pair = s.pair := rfl
@[simp] theorem setUnit_liveAreas (u : Nat) (x : UnitRec) : (setUnit u x s).liveAreas = s.liveAreas := rfl
@[simp] theorem setUnit_liveRegs (u : Nat) (x : UnitRec) : (setUnit u x s).liveRegs = s.liveRegs := rfl
@[simp] theorem setUnit_liveSweep (u : Nat) (x : UnitRec) : (setUnit u x s).liveSweep = s.liveSweep := rfl
@[simp] theorem setUnit_domA (u : Nat) (x : UnitRec) : (setUnit u x s).domA = s.domA := rfl
@[simp] theorem setUnit_domB (u : Nat) (x : UnitRec) : (setUnit u x s).domB = s.domB := rfl
@[simp] theorem setUnit_comma (u : Nat) (x : UnitRec) : (setUnit u x s).comma = s.comma := rfl
@[simp] theorem setUnit_pulses (u : Nat) (x : UnitRec) : (setUnit u x s).pulses = s.pulses := rfl
@[simp] theorem setUnit_aligns (u : Nat) (x : UnitRec) : (setUnit u x s).aligns = s.aligns := rfl
@[simp] theorem setUnit_history (u : Nat) (x : UnitRec) : (setUnit u x s).history = s.history := rfl
@[simp] theorem setUnit_fromFree (u : Nat) (x : UnitRec) : (setUnit u x s).fromFree = s.fromFree := rfl
@[simp] theorem setUnit_remap (u : Nat) (x : UnitRec) : (setUnit u x s).remap = s.remap := rfl
@[simp] theorem setUnit_amps (u : Nat) (x : UnitRec) : (setUnit u x s).amps = s.amps := rfl
@[simp] theorem setUnit_reqLimit (u : Nat) (x : UnitRec) : (setUnit u x s).reqLimit = s.reqLimit := rfl
@[simp] theorem setUnit_ovrBalls (u : Nat) (x : UnitRec) : (setUnit u x s).ovrBalls = s.ovrBalls := rfl
@[simp] theorem setUnit_ovrHist (u : Nat) (x : UnitRec) : (setUnit u x s).ovrHist = s.ovrHist := rfl
@[simp] theorem setUnit_power (u : Nat) (x : UnitRec) : (setUnit u x s).power = s.power := rfl
@[simp] theorem setUnit_liveStreams (u : Nat) (x : UnitRec) : (setUnit u x s).liveStreams = s.liveStreams := rfl

/-! ### setPages -/

@[simp] theorem setPages_pending (u : Nat) (x : Pages) : (setPages u x s).pending = s.pending := rfl
@[simp] theorem setPages_regs (u : Nat) (x : Pages) : (setPages u x s).regs = s.regs := rfl
@[simp] theorem setPages_mem (u : Nat) (x : Pages) : (setPages u x s).mem = s.mem := rfl
@[simp] theorem setPages_fresh (u : Nat) (x : Pages) : (setPages u x s).fresh = s.fresh := rfl
@[simp] theorem setPages_frame (u : Nat) (x : Pages) : (setPages u x s).frame = s.frame := rfl
@[simp] theorem setPages_tick (u : Nat) (x : Pages) : (setPages u x s).tick = s.tick := rfl
@[simp] theorem setPages_tickPrev (u : Nat) (x : Pages) : (setPages u x s).tickPrev = s.tickPrev := rfl
@[simp] theorem setPages_mode (u : Nat) (x : Pages) : (setPages u x s).mode = s.mode := rfl
@[simp] theorem setPages_fs (u : Nat) (x : Pages) : (setPages u x s).fs = s.fs := rfl
@[simp] theorem setPages_units (u : Nat) (x : Pages) : (setPages u x s).units = s.units := rfl
@[simp] theorem setPages_stalls (u : Nat) (x : Pages) : (setPages u x s).stalls = s.stalls := rfl
@[simp] theorem setPages_pages (u : Nat) (x : Pages) : (setPages u x s).pages = smapSet (fun _ => pagesEmpty) u x s.pages := rfl
@[simp] theorem setPages_progMem (u : Nat) (x : Pages) : (setPages u x s).progMem = s.progMem := rfl
@[simp] theorem setPages_outs (u : Nat) (x : Pages) : (setPages u x s).outs = s.outs := rfl
@[simp] theorem setPages_outFlight (u : Nat) (x : Pages) : (setPages u x s).outFlight = s.outFlight := rfl
@[simp] theorem setPages_posts (u : Nat) (x : Pages) : (setPages u x s).posts = s.posts := rfl
@[simp] theorem setPages_ueWords (u : Nat) (x : Pages) : (setPages u x s).ueWords = s.ueWords := rfl
@[simp] theorem setPages_ceWords (u : Nat) (x : Pages) : (setPages u x s).ceWords = s.ceWords := rfl
@[simp] theorem setPages_fg (u : Nat) (x : Pages) : (setPages u x s).fg = s.fg := rfl
@[simp] theorem setPages_ledger (u : Nat) (x : Pages) : (setPages u x s).ledger = s.ledger := rfl
@[simp] theorem setPages_evtWait (u : Nat) (x : Pages) : (setPages u x s).evtWait = s.evtWait := rfl
@[simp] theorem setPages_lastRead (u : Nat) (x : Pages) : (setPages u x s).lastRead = s.lastRead := rfl
@[simp] theorem setPages_latches (u : Nat) (x : Pages) : (setPages u x s).latches = s.latches := rfl
@[simp] theorem setPages_tokenBad (u : Nat) (x : Pages) : (setPages u x s).tokenBad = s.tokenBad := rfl
@[simp] theorem setPages_passCe (u : Nat) (x : Pages) : (setPages u x s).passCe = s.passCe := rfl
@[simp] theorem setPages_retrainPend (u : Nat) (x : Pages) : (setPages u x s).retrainPend = s.retrainPend := rfl
@[simp] theorem setPages_scrubAt (u : Nat) (x : Pages) : (setPages u x s).scrubAt = s.scrubAt := rfl
@[simp] theorem setPages_arb (u : Nat) (x : Pages) : (setPages u x s).arb = s.arb := rfl
@[simp] theorem setPages_bursts (u : Nat) (x : Pages) : (setPages u x s).bursts = s.bursts := rfl
@[simp] theorem setPages_limiters (u : Nat) (x : Pages) : (setPages u x s).limiters = s.limiters := rfl
@[simp] theorem setPages_drovers (u : Nat) (x : Pages) : (setPages u x s).drovers = s.drovers := rfl
@[simp] theorem setPages_chans (u : Nat) (x : Pages) : (setPages u x s).chans = s.chans := rfl
@[simp] theorem setPages_drvMem (u : Nat) (x : Pages) : (setPages u x s).drvMem = s.drvMem := rfl
@[simp] theorem setPages_lines (u : Nat) (x : Pages) : (setPages u x s).lines = s.lines := rfl
@[simp] theorem setPages_staged (u : Nat) (x : Pages) : (setPages u x s).staged = s.staged := rfl
@[simp] theorem setPages_rxq (u : Nat) (x : Pages) : (setPages u x s).rxq = s.rxq := rfl
@[simp] theorem setPages_admitted (u : Nat) (x : Pages) : (setPages u x s).admitted = s.admitted := rfl
@[simp] theorem setPages_sessions (u : Nat) (x : Pages) : (setPages u x s).sessions = s.sessions := rfl
@[simp] theorem setPages_oldSessions (u : Nat) (x : Pages) : (setPages u x s).oldSessions = s.oldSessions := rfl
@[simp] theorem setPages_keys (u : Nat) (x : Pages) : (setPages u x s).keys = s.keys := rfl
@[simp] theorem setPages_txq (u : Nat) (x : Pages) : (setPages u x s).txq = s.txq := rfl
@[simp] theorem setPages_sent (u : Nat) (x : Pages) : (setPages u x s).sent = s.sent := rfl
@[simp] theorem setPages_spiFlags (u : Nat) (x : Pages) : (setPages u x s).spiFlags = s.spiFlags := rfl
@[simp] theorem setPages_arp (u : Nat) (x : Pages) : (setPages u x s).arp = s.arp := rfl
@[simp] theorem setPages_evtLog (u : Nat) (x : Pages) : (setPages u x s).evtLog = s.evtLog := rfl
@[simp] theorem setPages_evtWord (u : Nat) (x : Pages) : (setPages u x s).evtWord = s.evtWord := rfl
@[simp] theorem setPages_seqClosed (u : Nat) (x : Pages) : (setPages u x s).seqClosed = s.seqClosed := rfl
@[simp] theorem setPages_seqSnap (u : Nat) (x : Pages) : (setPages u x s).seqSnap = s.seqSnap := rfl
@[simp] theorem setPages_seqPend (u : Nat) (x : Pages) : (setPages u x s).seqPend = s.seqPend := rfl
@[simp] theorem setPages_seqAud (u : Nat) (x : Pages) : (setPages u x s).seqAud = s.seqAud := rfl
@[simp] theorem setPages_seqAudFrame (u : Nat) (x : Pages) : (setPages u x s).seqAudFrame = s.seqAudFrame := rfl
@[simp] theorem setPages_jobs (u : Nat) (x : Pages) : (setPages u x s).jobs = s.jobs := rfl
@[simp] theorem setPages_regions (u : Nat) (x : Pages) : (setPages u x s).regions = s.regions := rfl
@[simp] theorem setPages_ownSessions (u : Nat) (x : Pages) : (setPages u x s).ownSessions = s.ownSessions := rfl
@[simp] theorem setPages_ownReqs (u : Nat) (x : Pages) : (setPages u x s).ownReqs = s.ownReqs := rfl
@[simp] theorem setPages_replies (u : Nat) (x : Pages) : (setPages u x s).replies = s.replies := rfl
@[simp] theorem setPages_work (u : Nat) (x : Pages) : (setPages u x s).work = s.work := rfl
@[simp] theorem setPages_live (u : Nat) (x : Pages) : (setPages u x s).live = s.live := rfl
@[simp] theorem setPages_kernels (u : Nat) (x : Pages) : (setPages u x s).kernels = s.kernels := rfl
@[simp] theorem setPages_partials (u : Nat) (x : Pages) : (setPages u x s).partials = s.partials := rfl
@[simp] theorem setPages_params (u : Nat) (x : Pages) : (setPages u x s).params = s.params := rfl
@[simp] theorem setPages_liveParams (u : Nat) (x : Pages) : (setPages u x s).liveParams = s.liveParams := rfl
@[simp] theorem setPages_liveSlots (u : Nat) (x : Pages) : (setPages u x s).liveSlots = s.liveSlots := rfl
@[simp] theorem setPages_liveCellar (u : Nat) (x : Pages) : (setPages u x s).liveCellar = s.liveCellar := rfl
@[simp] theorem setPages_results (u : Nat) (x : Pages) : (setPages u x s).results = s.results := rfl
@[simp] theorem setPages_ramps (u : Nat) (x : Pages) : (setPages u x s).ramps = s.ramps := rfl
@[simp] theorem setPages_meters (u : Nat) (x : Pages) : (setPages u x s).meters = s.meters := rfl
@[simp] theorem setPages_strips (u : Nat) (x : Pages) : (setPages u x s).strips = s.strips := rfl
@[simp] theorem setPages_liveTasks (u : Nat) (x : Pages) : (setPages u x s).liveTasks = s.liveTasks := rfl
@[simp] theorem setPages_livePosts (u : Nat) (x : Pages) : (setPages u x s).livePosts = s.livePosts := rfl
@[simp] theorem setPages_brews (u : Nat) (x : Pages) : (setPages u x s).brews = s.brews := rfl
@[simp] theorem setPages_directWait (u : Nat) (x : Pages) : (setPages u x s).directWait = s.directWait := rfl
@[simp] theorem setPages_groups (u : Nat) (x : Pages) : (setPages u x s).groups = s.groups := rfl
@[simp] theorem setPages_tapKnown (u : Nat) (x : Pages) : (setPages u x s).tapKnown = s.tapKnown := rfl
@[simp] theorem setPages_ports (u : Nat) (x : Pages) : (setPages u x s).ports = s.ports := rfl
@[simp] theorem setPages_traces (u : Nat) (x : Pages) : (setPages u x s).traces = s.traces := rfl
@[simp] theorem setPages_rxCells (u : Nat) (x : Pages) : (setPages u x s).rxCells = s.rxCells := rfl
@[simp] theorem setPages_prbs (u : Nat) (x : Pages) : (setPages u x s).prbs = s.prbs := rfl
@[simp] theorem setPages_mgmt (u : Nat) (x : Pages) : (setPages u x s).mgmt = s.mgmt := rfl
@[simp] theorem setPages_timeq (u : Nat) (x : Pages) : (setPages u x s).timeq = s.timeq := rfl
@[simp] theorem setPages_acqq (u : Nat) (x : Pages) : (setPages u x s).acqq = s.acqq := rfl
@[simp] theorem setPages_liveRx (u : Nat) (x : Pages) : (setPages u x s).liveRx = s.liveRx := rfl
@[simp] theorem setPages_team (u : Nat) (x : Pages) : (setPages u x s).team = s.team := rfl
@[simp] theorem setPages_routes (u : Nat) (x : Pages) : (setPages u x s).routes = s.routes := rfl
@[simp] theorem setPages_annCount (u : Nat) (x : Pages) : (setPages u x s).annCount = s.annCount := rfl
@[simp] theorem setPages_parentRun (u : Nat) (x : Pages) : (setPages u x s).parentRun = s.parentRun := rfl
@[simp] theorem setPages_margins (u : Nat) (x : Pages) : (setPages u x s).margins = s.margins := rfl
@[simp] theorem setPages_pair (u : Nat) (x : Pages) : (setPages u x s).pair = s.pair := rfl
@[simp] theorem setPages_liveAreas (u : Nat) (x : Pages) : (setPages u x s).liveAreas = s.liveAreas := rfl
@[simp] theorem setPages_liveRegs (u : Nat) (x : Pages) : (setPages u x s).liveRegs = s.liveRegs := rfl
@[simp] theorem setPages_liveSweep (u : Nat) (x : Pages) : (setPages u x s).liveSweep = s.liveSweep := rfl
@[simp] theorem setPages_domA (u : Nat) (x : Pages) : (setPages u x s).domA = s.domA := rfl
@[simp] theorem setPages_domB (u : Nat) (x : Pages) : (setPages u x s).domB = s.domB := rfl
@[simp] theorem setPages_comma (u : Nat) (x : Pages) : (setPages u x s).comma = s.comma := rfl
@[simp] theorem setPages_pulses (u : Nat) (x : Pages) : (setPages u x s).pulses = s.pulses := rfl
@[simp] theorem setPages_aligns (u : Nat) (x : Pages) : (setPages u x s).aligns = s.aligns := rfl
@[simp] theorem setPages_history (u : Nat) (x : Pages) : (setPages u x s).history = s.history := rfl
@[simp] theorem setPages_fromFree (u : Nat) (x : Pages) : (setPages u x s).fromFree = s.fromFree := rfl
@[simp] theorem setPages_remap (u : Nat) (x : Pages) : (setPages u x s).remap = s.remap := rfl
@[simp] theorem setPages_amps (u : Nat) (x : Pages) : (setPages u x s).amps = s.amps := rfl
@[simp] theorem setPages_reqLimit (u : Nat) (x : Pages) : (setPages u x s).reqLimit = s.reqLimit := rfl
@[simp] theorem setPages_ovrBalls (u : Nat) (x : Pages) : (setPages u x s).ovrBalls = s.ovrBalls := rfl
@[simp] theorem setPages_ovrHist (u : Nat) (x : Pages) : (setPages u x s).ovrHist = s.ovrHist := rfl
@[simp] theorem setPages_power (u : Nat) (x : Pages) : (setPages u x s).power = s.power := rfl
@[simp] theorem setPages_liveStreams (u : Nat) (x : Pages) : (setPages u x s).liveStreams = s.liveStreams := rfl

/-! ### setOut -/

@[simp] theorem setOut_pending (k : Nat) (x : OutCell) : (setOut k x s).pending = s.pending := rfl
@[simp] theorem setOut_regs (k : Nat) (x : OutCell) : (setOut k x s).regs = s.regs := rfl
@[simp] theorem setOut_mem (k : Nat) (x : OutCell) : (setOut k x s).mem = s.mem := rfl
@[simp] theorem setOut_fresh (k : Nat) (x : OutCell) : (setOut k x s).fresh = s.fresh := rfl
@[simp] theorem setOut_frame (k : Nat) (x : OutCell) : (setOut k x s).frame = s.frame := rfl
@[simp] theorem setOut_tick (k : Nat) (x : OutCell) : (setOut k x s).tick = s.tick := rfl
@[simp] theorem setOut_tickPrev (k : Nat) (x : OutCell) : (setOut k x s).tickPrev = s.tickPrev := rfl
@[simp] theorem setOut_mode (k : Nat) (x : OutCell) : (setOut k x s).mode = s.mode := rfl
@[simp] theorem setOut_fs (k : Nat) (x : OutCell) : (setOut k x s).fs = s.fs := rfl
@[simp] theorem setOut_units (k : Nat) (x : OutCell) : (setOut k x s).units = s.units := rfl
@[simp] theorem setOut_stalls (k : Nat) (x : OutCell) : (setOut k x s).stalls = s.stalls := rfl
@[simp] theorem setOut_pages (k : Nat) (x : OutCell) : (setOut k x s).pages = s.pages := rfl
@[simp] theorem setOut_progMem (k : Nat) (x : OutCell) : (setOut k x s).progMem = s.progMem := rfl
@[simp] theorem setOut_outs (k : Nat) (x : OutCell) : (setOut k x s).outs = smapSet (fun _ => outEmpty) k x s.outs := rfl
@[simp] theorem setOut_outFlight (k : Nat) (x : OutCell) : (setOut k x s).outFlight = s.outFlight := rfl
@[simp] theorem setOut_posts (k : Nat) (x : OutCell) : (setOut k x s).posts = s.posts := rfl
@[simp] theorem setOut_ueWords (k : Nat) (x : OutCell) : (setOut k x s).ueWords = s.ueWords := rfl
@[simp] theorem setOut_ceWords (k : Nat) (x : OutCell) : (setOut k x s).ceWords = s.ceWords := rfl
@[simp] theorem setOut_fg (k : Nat) (x : OutCell) : (setOut k x s).fg = s.fg := rfl
@[simp] theorem setOut_ledger (k : Nat) (x : OutCell) : (setOut k x s).ledger = s.ledger := rfl
@[simp] theorem setOut_evtWait (k : Nat) (x : OutCell) : (setOut k x s).evtWait = s.evtWait := rfl
@[simp] theorem setOut_lastRead (k : Nat) (x : OutCell) : (setOut k x s).lastRead = s.lastRead := rfl
@[simp] theorem setOut_latches (k : Nat) (x : OutCell) : (setOut k x s).latches = s.latches := rfl
@[simp] theorem setOut_tokenBad (k : Nat) (x : OutCell) : (setOut k x s).tokenBad = s.tokenBad := rfl
@[simp] theorem setOut_passCe (k : Nat) (x : OutCell) : (setOut k x s).passCe = s.passCe := rfl
@[simp] theorem setOut_retrainPend (k : Nat) (x : OutCell) : (setOut k x s).retrainPend = s.retrainPend := rfl
@[simp] theorem setOut_scrubAt (k : Nat) (x : OutCell) : (setOut k x s).scrubAt = s.scrubAt := rfl
@[simp] theorem setOut_arb (k : Nat) (x : OutCell) : (setOut k x s).arb = s.arb := rfl
@[simp] theorem setOut_bursts (k : Nat) (x : OutCell) : (setOut k x s).bursts = s.bursts := rfl
@[simp] theorem setOut_limiters (k : Nat) (x : OutCell) : (setOut k x s).limiters = s.limiters := rfl
@[simp] theorem setOut_drovers (k : Nat) (x : OutCell) : (setOut k x s).drovers = s.drovers := rfl
@[simp] theorem setOut_chans (k : Nat) (x : OutCell) : (setOut k x s).chans = s.chans := rfl
@[simp] theorem setOut_drvMem (k : Nat) (x : OutCell) : (setOut k x s).drvMem = s.drvMem := rfl
@[simp] theorem setOut_lines (k : Nat) (x : OutCell) : (setOut k x s).lines = s.lines := rfl
@[simp] theorem setOut_staged (k : Nat) (x : OutCell) : (setOut k x s).staged = s.staged := rfl
@[simp] theorem setOut_rxq (k : Nat) (x : OutCell) : (setOut k x s).rxq = s.rxq := rfl
@[simp] theorem setOut_admitted (k : Nat) (x : OutCell) : (setOut k x s).admitted = s.admitted := rfl
@[simp] theorem setOut_sessions (k : Nat) (x : OutCell) : (setOut k x s).sessions = s.sessions := rfl
@[simp] theorem setOut_oldSessions (k : Nat) (x : OutCell) : (setOut k x s).oldSessions = s.oldSessions := rfl
@[simp] theorem setOut_keys (k : Nat) (x : OutCell) : (setOut k x s).keys = s.keys := rfl
@[simp] theorem setOut_txq (k : Nat) (x : OutCell) : (setOut k x s).txq = s.txq := rfl
@[simp] theorem setOut_sent (k : Nat) (x : OutCell) : (setOut k x s).sent = s.sent := rfl
@[simp] theorem setOut_spiFlags (k : Nat) (x : OutCell) : (setOut k x s).spiFlags = s.spiFlags := rfl
@[simp] theorem setOut_arp (k : Nat) (x : OutCell) : (setOut k x s).arp = s.arp := rfl
@[simp] theorem setOut_evtLog (k : Nat) (x : OutCell) : (setOut k x s).evtLog = s.evtLog := rfl
@[simp] theorem setOut_evtWord (k : Nat) (x : OutCell) : (setOut k x s).evtWord = s.evtWord := rfl
@[simp] theorem setOut_seqClosed (k : Nat) (x : OutCell) : (setOut k x s).seqClosed = s.seqClosed := rfl
@[simp] theorem setOut_seqSnap (k : Nat) (x : OutCell) : (setOut k x s).seqSnap = s.seqSnap := rfl
@[simp] theorem setOut_seqPend (k : Nat) (x : OutCell) : (setOut k x s).seqPend = s.seqPend := rfl
@[simp] theorem setOut_seqAud (k : Nat) (x : OutCell) : (setOut k x s).seqAud = s.seqAud := rfl
@[simp] theorem setOut_seqAudFrame (k : Nat) (x : OutCell) : (setOut k x s).seqAudFrame = s.seqAudFrame := rfl
@[simp] theorem setOut_jobs (k : Nat) (x : OutCell) : (setOut k x s).jobs = s.jobs := rfl
@[simp] theorem setOut_regions (k : Nat) (x : OutCell) : (setOut k x s).regions = s.regions := rfl
@[simp] theorem setOut_ownSessions (k : Nat) (x : OutCell) : (setOut k x s).ownSessions = s.ownSessions := rfl
@[simp] theorem setOut_ownReqs (k : Nat) (x : OutCell) : (setOut k x s).ownReqs = s.ownReqs := rfl
@[simp] theorem setOut_replies (k : Nat) (x : OutCell) : (setOut k x s).replies = s.replies := rfl
@[simp] theorem setOut_work (k : Nat) (x : OutCell) : (setOut k x s).work = s.work := rfl
@[simp] theorem setOut_live (k : Nat) (x : OutCell) : (setOut k x s).live = s.live := rfl
@[simp] theorem setOut_kernels (k : Nat) (x : OutCell) : (setOut k x s).kernels = s.kernels := rfl
@[simp] theorem setOut_partials (k : Nat) (x : OutCell) : (setOut k x s).partials = s.partials := rfl
@[simp] theorem setOut_params (k : Nat) (x : OutCell) : (setOut k x s).params = s.params := rfl
@[simp] theorem setOut_liveParams (k : Nat) (x : OutCell) : (setOut k x s).liveParams = s.liveParams := rfl
@[simp] theorem setOut_liveSlots (k : Nat) (x : OutCell) : (setOut k x s).liveSlots = s.liveSlots := rfl
@[simp] theorem setOut_liveCellar (k : Nat) (x : OutCell) : (setOut k x s).liveCellar = s.liveCellar := rfl
@[simp] theorem setOut_results (k : Nat) (x : OutCell) : (setOut k x s).results = s.results := rfl
@[simp] theorem setOut_ramps (k : Nat) (x : OutCell) : (setOut k x s).ramps = s.ramps := rfl
@[simp] theorem setOut_meters (k : Nat) (x : OutCell) : (setOut k x s).meters = s.meters := rfl
@[simp] theorem setOut_strips (k : Nat) (x : OutCell) : (setOut k x s).strips = s.strips := rfl
@[simp] theorem setOut_liveTasks (k : Nat) (x : OutCell) : (setOut k x s).liveTasks = s.liveTasks := rfl
@[simp] theorem setOut_livePosts (k : Nat) (x : OutCell) : (setOut k x s).livePosts = s.livePosts := rfl
@[simp] theorem setOut_brews (k : Nat) (x : OutCell) : (setOut k x s).brews = s.brews := rfl
@[simp] theorem setOut_directWait (k : Nat) (x : OutCell) : (setOut k x s).directWait = s.directWait := rfl
@[simp] theorem setOut_groups (k : Nat) (x : OutCell) : (setOut k x s).groups = s.groups := rfl
@[simp] theorem setOut_tapKnown (k : Nat) (x : OutCell) : (setOut k x s).tapKnown = s.tapKnown := rfl
@[simp] theorem setOut_ports (k : Nat) (x : OutCell) : (setOut k x s).ports = s.ports := rfl
@[simp] theorem setOut_traces (k : Nat) (x : OutCell) : (setOut k x s).traces = s.traces := rfl
@[simp] theorem setOut_rxCells (k : Nat) (x : OutCell) : (setOut k x s).rxCells = s.rxCells := rfl
@[simp] theorem setOut_prbs (k : Nat) (x : OutCell) : (setOut k x s).prbs = s.prbs := rfl
@[simp] theorem setOut_mgmt (k : Nat) (x : OutCell) : (setOut k x s).mgmt = s.mgmt := rfl
@[simp] theorem setOut_timeq (k : Nat) (x : OutCell) : (setOut k x s).timeq = s.timeq := rfl
@[simp] theorem setOut_acqq (k : Nat) (x : OutCell) : (setOut k x s).acqq = s.acqq := rfl
@[simp] theorem setOut_liveRx (k : Nat) (x : OutCell) : (setOut k x s).liveRx = s.liveRx := rfl
@[simp] theorem setOut_team (k : Nat) (x : OutCell) : (setOut k x s).team = s.team := rfl
@[simp] theorem setOut_routes (k : Nat) (x : OutCell) : (setOut k x s).routes = s.routes := rfl
@[simp] theorem setOut_annCount (k : Nat) (x : OutCell) : (setOut k x s).annCount = s.annCount := rfl
@[simp] theorem setOut_parentRun (k : Nat) (x : OutCell) : (setOut k x s).parentRun = s.parentRun := rfl
@[simp] theorem setOut_margins (k : Nat) (x : OutCell) : (setOut k x s).margins = s.margins := rfl
@[simp] theorem setOut_pair (k : Nat) (x : OutCell) : (setOut k x s).pair = s.pair := rfl
@[simp] theorem setOut_liveAreas (k : Nat) (x : OutCell) : (setOut k x s).liveAreas = s.liveAreas := rfl
@[simp] theorem setOut_liveRegs (k : Nat) (x : OutCell) : (setOut k x s).liveRegs = s.liveRegs := rfl
@[simp] theorem setOut_liveSweep (k : Nat) (x : OutCell) : (setOut k x s).liveSweep = s.liveSweep := rfl
@[simp] theorem setOut_domA (k : Nat) (x : OutCell) : (setOut k x s).domA = s.domA := rfl
@[simp] theorem setOut_domB (k : Nat) (x : OutCell) : (setOut k x s).domB = s.domB := rfl
@[simp] theorem setOut_comma (k : Nat) (x : OutCell) : (setOut k x s).comma = s.comma := rfl
@[simp] theorem setOut_pulses (k : Nat) (x : OutCell) : (setOut k x s).pulses = s.pulses := rfl
@[simp] theorem setOut_aligns (k : Nat) (x : OutCell) : (setOut k x s).aligns = s.aligns := rfl
@[simp] theorem setOut_history (k : Nat) (x : OutCell) : (setOut k x s).history = s.history := rfl
@[simp] theorem setOut_fromFree (k : Nat) (x : OutCell) : (setOut k x s).fromFree = s.fromFree := rfl
@[simp] theorem setOut_remap (k : Nat) (x : OutCell) : (setOut k x s).remap = s.remap := rfl
@[simp] theorem setOut_amps (k : Nat) (x : OutCell) : (setOut k x s).amps = s.amps := rfl
@[simp] theorem setOut_reqLimit (k : Nat) (x : OutCell) : (setOut k x s).reqLimit = s.reqLimit := rfl
@[simp] theorem setOut_ovrBalls (k : Nat) (x : OutCell) : (setOut k x s).ovrBalls = s.ovrBalls := rfl
@[simp] theorem setOut_ovrHist (k : Nat) (x : OutCell) : (setOut k x s).ovrHist = s.ovrHist := rfl
@[simp] theorem setOut_power (k : Nat) (x : OutCell) : (setOut k x s).power = s.power := rfl
@[simp] theorem setOut_liveStreams (k : Nat) (x : OutCell) : (setOut k x s).liveStreams = s.liveStreams := rfl

/-! ### setPort -/

@[simp] theorem setPort_pending (p : Nat) (x : PortSt) : (setPort p x s).pending = s.pending := rfl
@[simp] theorem setPort_regs (p : Nat) (x : PortSt) : (setPort p x s).regs = s.regs := rfl
@[simp] theorem setPort_mem (p : Nat) (x : PortSt) : (setPort p x s).mem = s.mem := rfl
@[simp] theorem setPort_fresh (p : Nat) (x : PortSt) : (setPort p x s).fresh = s.fresh := rfl
@[simp] theorem setPort_frame (p : Nat) (x : PortSt) : (setPort p x s).frame = s.frame := rfl
@[simp] theorem setPort_tick (p : Nat) (x : PortSt) : (setPort p x s).tick = s.tick := rfl
@[simp] theorem setPort_tickPrev (p : Nat) (x : PortSt) : (setPort p x s).tickPrev = s.tickPrev := rfl
@[simp] theorem setPort_mode (p : Nat) (x : PortSt) : (setPort p x s).mode = s.mode := rfl
@[simp] theorem setPort_fs (p : Nat) (x : PortSt) : (setPort p x s).fs = s.fs := rfl
@[simp] theorem setPort_units (p : Nat) (x : PortSt) : (setPort p x s).units = s.units := rfl
@[simp] theorem setPort_stalls (p : Nat) (x : PortSt) : (setPort p x s).stalls = s.stalls := rfl
@[simp] theorem setPort_pages (p : Nat) (x : PortSt) : (setPort p x s).pages = s.pages := rfl
@[simp] theorem setPort_progMem (p : Nat) (x : PortSt) : (setPort p x s).progMem = s.progMem := rfl
@[simp] theorem setPort_outs (p : Nat) (x : PortSt) : (setPort p x s).outs = s.outs := rfl
@[simp] theorem setPort_outFlight (p : Nat) (x : PortSt) : (setPort p x s).outFlight = s.outFlight := rfl
@[simp] theorem setPort_posts (p : Nat) (x : PortSt) : (setPort p x s).posts = s.posts := rfl
@[simp] theorem setPort_ueWords (p : Nat) (x : PortSt) : (setPort p x s).ueWords = s.ueWords := rfl
@[simp] theorem setPort_ceWords (p : Nat) (x : PortSt) : (setPort p x s).ceWords = s.ceWords := rfl
@[simp] theorem setPort_fg (p : Nat) (x : PortSt) : (setPort p x s).fg = s.fg := rfl
@[simp] theorem setPort_ledger (p : Nat) (x : PortSt) : (setPort p x s).ledger = s.ledger := rfl
@[simp] theorem setPort_evtWait (p : Nat) (x : PortSt) : (setPort p x s).evtWait = s.evtWait := rfl
@[simp] theorem setPort_lastRead (p : Nat) (x : PortSt) : (setPort p x s).lastRead = s.lastRead := rfl
@[simp] theorem setPort_latches (p : Nat) (x : PortSt) : (setPort p x s).latches = s.latches := rfl
@[simp] theorem setPort_tokenBad (p : Nat) (x : PortSt) : (setPort p x s).tokenBad = s.tokenBad := rfl
@[simp] theorem setPort_passCe (p : Nat) (x : PortSt) : (setPort p x s).passCe = s.passCe := rfl
@[simp] theorem setPort_retrainPend (p : Nat) (x : PortSt) : (setPort p x s).retrainPend = s.retrainPend := rfl
@[simp] theorem setPort_scrubAt (p : Nat) (x : PortSt) : (setPort p x s).scrubAt = s.scrubAt := rfl
@[simp] theorem setPort_arb (p : Nat) (x : PortSt) : (setPort p x s).arb = s.arb := rfl
@[simp] theorem setPort_bursts (p : Nat) (x : PortSt) : (setPort p x s).bursts = s.bursts := rfl
@[simp] theorem setPort_limiters (p : Nat) (x : PortSt) : (setPort p x s).limiters = s.limiters := rfl
@[simp] theorem setPort_drovers (p : Nat) (x : PortSt) : (setPort p x s).drovers = s.drovers := rfl
@[simp] theorem setPort_chans (p : Nat) (x : PortSt) : (setPort p x s).chans = s.chans := rfl
@[simp] theorem setPort_drvMem (p : Nat) (x : PortSt) : (setPort p x s).drvMem = s.drvMem := rfl
@[simp] theorem setPort_lines (p : Nat) (x : PortSt) : (setPort p x s).lines = s.lines := rfl
@[simp] theorem setPort_staged (p : Nat) (x : PortSt) : (setPort p x s).staged = s.staged := rfl
@[simp] theorem setPort_rxq (p : Nat) (x : PortSt) : (setPort p x s).rxq = s.rxq := rfl
@[simp] theorem setPort_admitted (p : Nat) (x : PortSt) : (setPort p x s).admitted = s.admitted := rfl
@[simp] theorem setPort_sessions (p : Nat) (x : PortSt) : (setPort p x s).sessions = s.sessions := rfl
@[simp] theorem setPort_oldSessions (p : Nat) (x : PortSt) : (setPort p x s).oldSessions = s.oldSessions := rfl
@[simp] theorem setPort_keys (p : Nat) (x : PortSt) : (setPort p x s).keys = s.keys := rfl
@[simp] theorem setPort_txq (p : Nat) (x : PortSt) : (setPort p x s).txq = s.txq := rfl
@[simp] theorem setPort_sent (p : Nat) (x : PortSt) : (setPort p x s).sent = s.sent := rfl
@[simp] theorem setPort_spiFlags (p : Nat) (x : PortSt) : (setPort p x s).spiFlags = s.spiFlags := rfl
@[simp] theorem setPort_arp (p : Nat) (x : PortSt) : (setPort p x s).arp = s.arp := rfl
@[simp] theorem setPort_evtLog (p : Nat) (x : PortSt) : (setPort p x s).evtLog = s.evtLog := rfl
@[simp] theorem setPort_evtWord (p : Nat) (x : PortSt) : (setPort p x s).evtWord = s.evtWord := rfl
@[simp] theorem setPort_seqClosed (p : Nat) (x : PortSt) : (setPort p x s).seqClosed = s.seqClosed := rfl
@[simp] theorem setPort_seqSnap (p : Nat) (x : PortSt) : (setPort p x s).seqSnap = s.seqSnap := rfl
@[simp] theorem setPort_seqPend (p : Nat) (x : PortSt) : (setPort p x s).seqPend = s.seqPend := rfl
@[simp] theorem setPort_seqAud (p : Nat) (x : PortSt) : (setPort p x s).seqAud = s.seqAud := rfl
@[simp] theorem setPort_seqAudFrame (p : Nat) (x : PortSt) : (setPort p x s).seqAudFrame = s.seqAudFrame := rfl
@[simp] theorem setPort_jobs (p : Nat) (x : PortSt) : (setPort p x s).jobs = s.jobs := rfl
@[simp] theorem setPort_regions (p : Nat) (x : PortSt) : (setPort p x s).regions = s.regions := rfl
@[simp] theorem setPort_ownSessions (p : Nat) (x : PortSt) : (setPort p x s).ownSessions = s.ownSessions := rfl
@[simp] theorem setPort_ownReqs (p : Nat) (x : PortSt) : (setPort p x s).ownReqs = s.ownReqs := rfl
@[simp] theorem setPort_replies (p : Nat) (x : PortSt) : (setPort p x s).replies = s.replies := rfl
@[simp] theorem setPort_work (p : Nat) (x : PortSt) : (setPort p x s).work = s.work := rfl
@[simp] theorem setPort_live (p : Nat) (x : PortSt) : (setPort p x s).live = s.live := rfl
@[simp] theorem setPort_kernels (p : Nat) (x : PortSt) : (setPort p x s).kernels = s.kernels := rfl
@[simp] theorem setPort_partials (p : Nat) (x : PortSt) : (setPort p x s).partials = s.partials := rfl
@[simp] theorem setPort_params (p : Nat) (x : PortSt) : (setPort p x s).params = s.params := rfl
@[simp] theorem setPort_liveParams (p : Nat) (x : PortSt) : (setPort p x s).liveParams = s.liveParams := rfl
@[simp] theorem setPort_liveSlots (p : Nat) (x : PortSt) : (setPort p x s).liveSlots = s.liveSlots := rfl
@[simp] theorem setPort_liveCellar (p : Nat) (x : PortSt) : (setPort p x s).liveCellar = s.liveCellar := rfl
@[simp] theorem setPort_results (p : Nat) (x : PortSt) : (setPort p x s).results = s.results := rfl
@[simp] theorem setPort_ramps (p : Nat) (x : PortSt) : (setPort p x s).ramps = s.ramps := rfl
@[simp] theorem setPort_meters (p : Nat) (x : PortSt) : (setPort p x s).meters = s.meters := rfl
@[simp] theorem setPort_strips (p : Nat) (x : PortSt) : (setPort p x s).strips = s.strips := rfl
@[simp] theorem setPort_liveTasks (p : Nat) (x : PortSt) : (setPort p x s).liveTasks = s.liveTasks := rfl
@[simp] theorem setPort_livePosts (p : Nat) (x : PortSt) : (setPort p x s).livePosts = s.livePosts := rfl
@[simp] theorem setPort_brews (p : Nat) (x : PortSt) : (setPort p x s).brews = s.brews := rfl
@[simp] theorem setPort_directWait (p : Nat) (x : PortSt) : (setPort p x s).directWait = s.directWait := rfl
@[simp] theorem setPort_groups (p : Nat) (x : PortSt) : (setPort p x s).groups = s.groups := rfl
@[simp] theorem setPort_tapKnown (p : Nat) (x : PortSt) : (setPort p x s).tapKnown = s.tapKnown := rfl
@[simp] theorem setPort_ports (p : Nat) (x : PortSt) : (setPort p x s).ports = smapSet (fun _ => portIdle) p x s.ports := rfl
@[simp] theorem setPort_traces (p : Nat) (x : PortSt) : (setPort p x s).traces = s.traces := rfl
@[simp] theorem setPort_rxCells (p : Nat) (x : PortSt) : (setPort p x s).rxCells = s.rxCells := rfl
@[simp] theorem setPort_prbs (p : Nat) (x : PortSt) : (setPort p x s).prbs = s.prbs := rfl
@[simp] theorem setPort_mgmt (p : Nat) (x : PortSt) : (setPort p x s).mgmt = s.mgmt := rfl
@[simp] theorem setPort_timeq (p : Nat) (x : PortSt) : (setPort p x s).timeq = s.timeq := rfl
@[simp] theorem setPort_acqq (p : Nat) (x : PortSt) : (setPort p x s).acqq = s.acqq := rfl
@[simp] theorem setPort_liveRx (p : Nat) (x : PortSt) : (setPort p x s).liveRx = s.liveRx := rfl
@[simp] theorem setPort_team (p : Nat) (x : PortSt) : (setPort p x s).team = s.team := rfl
@[simp] theorem setPort_routes (p : Nat) (x : PortSt) : (setPort p x s).routes = s.routes := rfl
@[simp] theorem setPort_annCount (p : Nat) (x : PortSt) : (setPort p x s).annCount = s.annCount := rfl
@[simp] theorem setPort_parentRun (p : Nat) (x : PortSt) : (setPort p x s).parentRun = s.parentRun := rfl
@[simp] theorem setPort_margins (p : Nat) (x : PortSt) : (setPort p x s).margins = s.margins := rfl
@[simp] theorem setPort_pair (p : Nat) (x : PortSt) : (setPort p x s).pair = s.pair := rfl
@[simp] theorem setPort_liveAreas (p : Nat) (x : PortSt) : (setPort p x s).liveAreas = s.liveAreas := rfl
@[simp] theorem setPort_liveRegs (p : Nat) (x : PortSt) : (setPort p x s).liveRegs = s.liveRegs := rfl
@[simp] theorem setPort_liveSweep (p : Nat) (x : PortSt) : (setPort p x s).liveSweep = s.liveSweep := rfl
@[simp] theorem setPort_domA (p : Nat) (x : PortSt) : (setPort p x s).domA = s.domA := rfl
@[simp] theorem setPort_domB (p : Nat) (x : PortSt) : (setPort p x s).domB = s.domB := rfl
@[simp] theorem setPort_comma (p : Nat) (x : PortSt) : (setPort p x s).comma = s.comma := rfl
@[simp] theorem setPort_pulses (p : Nat) (x : PortSt) : (setPort p x s).pulses = s.pulses := rfl
@[simp] theorem setPort_aligns (p : Nat) (x : PortSt) : (setPort p x s).aligns = s.aligns := rfl
@[simp] theorem setPort_history (p : Nat) (x : PortSt) : (setPort p x s).history = s.history := rfl
@[simp] theorem setPort_fromFree (p : Nat) (x : PortSt) : (setPort p x s).fromFree = s.fromFree := rfl
@[simp] theorem setPort_remap (p : Nat) (x : PortSt) : (setPort p x s).remap = s.remap := rfl
@[simp] theorem setPort_amps (p : Nat) (x : PortSt) : (setPort p x s).amps = s.amps := rfl
@[simp] theorem setPort_reqLimit (p : Nat) (x : PortSt) : (setPort p x s).reqLimit = s.reqLimit := rfl
@[simp] theorem setPort_ovrBalls (p : Nat) (x : PortSt) : (setPort p x s).ovrBalls = s.ovrBalls := rfl
@[simp] theorem setPort_ovrHist (p : Nat) (x : PortSt) : (setPort p x s).ovrHist = s.ovrHist := rfl
@[simp] theorem setPort_power (p : Nat) (x : PortSt) : (setPort p x s).power = s.power := rfl
@[simp] theorem setPort_liveStreams (p : Nat) (x : PortSt) : (setPort p x s).liveStreams = s.liveStreams := rfl

/-! ### setTrace -/

@[simp] theorem setTrace_pending (t : Nat) (x : TraceSt) : (setTrace t x s).pending = s.pending := rfl
@[simp] theorem setTrace_regs (t : Nat) (x : TraceSt) : (setTrace t x s).regs = s.regs := rfl
@[simp] theorem setTrace_mem (t : Nat) (x : TraceSt) : (setTrace t x s).mem = s.mem := rfl
@[simp] theorem setTrace_fresh (t : Nat) (x : TraceSt) : (setTrace t x s).fresh = s.fresh := rfl
@[simp] theorem setTrace_frame (t : Nat) (x : TraceSt) : (setTrace t x s).frame = s.frame := rfl
@[simp] theorem setTrace_tick (t : Nat) (x : TraceSt) : (setTrace t x s).tick = s.tick := rfl
@[simp] theorem setTrace_tickPrev (t : Nat) (x : TraceSt) : (setTrace t x s).tickPrev = s.tickPrev := rfl
@[simp] theorem setTrace_mode (t : Nat) (x : TraceSt) : (setTrace t x s).mode = s.mode := rfl
@[simp] theorem setTrace_fs (t : Nat) (x : TraceSt) : (setTrace t x s).fs = s.fs := rfl
@[simp] theorem setTrace_units (t : Nat) (x : TraceSt) : (setTrace t x s).units = s.units := rfl
@[simp] theorem setTrace_stalls (t : Nat) (x : TraceSt) : (setTrace t x s).stalls = s.stalls := rfl
@[simp] theorem setTrace_pages (t : Nat) (x : TraceSt) : (setTrace t x s).pages = s.pages := rfl
@[simp] theorem setTrace_progMem (t : Nat) (x : TraceSt) : (setTrace t x s).progMem = s.progMem := rfl
@[simp] theorem setTrace_outs (t : Nat) (x : TraceSt) : (setTrace t x s).outs = s.outs := rfl
@[simp] theorem setTrace_outFlight (t : Nat) (x : TraceSt) : (setTrace t x s).outFlight = s.outFlight := rfl
@[simp] theorem setTrace_posts (t : Nat) (x : TraceSt) : (setTrace t x s).posts = s.posts := rfl
@[simp] theorem setTrace_ueWords (t : Nat) (x : TraceSt) : (setTrace t x s).ueWords = s.ueWords := rfl
@[simp] theorem setTrace_ceWords (t : Nat) (x : TraceSt) : (setTrace t x s).ceWords = s.ceWords := rfl
@[simp] theorem setTrace_fg (t : Nat) (x : TraceSt) : (setTrace t x s).fg = s.fg := rfl
@[simp] theorem setTrace_ledger (t : Nat) (x : TraceSt) : (setTrace t x s).ledger = s.ledger := rfl
@[simp] theorem setTrace_evtWait (t : Nat) (x : TraceSt) : (setTrace t x s).evtWait = s.evtWait := rfl
@[simp] theorem setTrace_lastRead (t : Nat) (x : TraceSt) : (setTrace t x s).lastRead = s.lastRead := rfl
@[simp] theorem setTrace_latches (t : Nat) (x : TraceSt) : (setTrace t x s).latches = s.latches := rfl
@[simp] theorem setTrace_tokenBad (t : Nat) (x : TraceSt) : (setTrace t x s).tokenBad = s.tokenBad := rfl
@[simp] theorem setTrace_passCe (t : Nat) (x : TraceSt) : (setTrace t x s).passCe = s.passCe := rfl
@[simp] theorem setTrace_retrainPend (t : Nat) (x : TraceSt) : (setTrace t x s).retrainPend = s.retrainPend := rfl
@[simp] theorem setTrace_scrubAt (t : Nat) (x : TraceSt) : (setTrace t x s).scrubAt = s.scrubAt := rfl
@[simp] theorem setTrace_arb (t : Nat) (x : TraceSt) : (setTrace t x s).arb = s.arb := rfl
@[simp] theorem setTrace_bursts (t : Nat) (x : TraceSt) : (setTrace t x s).bursts = s.bursts := rfl
@[simp] theorem setTrace_limiters (t : Nat) (x : TraceSt) : (setTrace t x s).limiters = s.limiters := rfl
@[simp] theorem setTrace_drovers (t : Nat) (x : TraceSt) : (setTrace t x s).drovers = s.drovers := rfl
@[simp] theorem setTrace_chans (t : Nat) (x : TraceSt) : (setTrace t x s).chans = s.chans := rfl
@[simp] theorem setTrace_drvMem (t : Nat) (x : TraceSt) : (setTrace t x s).drvMem = s.drvMem := rfl
@[simp] theorem setTrace_lines (t : Nat) (x : TraceSt) : (setTrace t x s).lines = s.lines := rfl
@[simp] theorem setTrace_staged (t : Nat) (x : TraceSt) : (setTrace t x s).staged = s.staged := rfl
@[simp] theorem setTrace_rxq (t : Nat) (x : TraceSt) : (setTrace t x s).rxq = s.rxq := rfl
@[simp] theorem setTrace_admitted (t : Nat) (x : TraceSt) : (setTrace t x s).admitted = s.admitted := rfl
@[simp] theorem setTrace_sessions (t : Nat) (x : TraceSt) : (setTrace t x s).sessions = s.sessions := rfl
@[simp] theorem setTrace_oldSessions (t : Nat) (x : TraceSt) : (setTrace t x s).oldSessions = s.oldSessions := rfl
@[simp] theorem setTrace_keys (t : Nat) (x : TraceSt) : (setTrace t x s).keys = s.keys := rfl
@[simp] theorem setTrace_txq (t : Nat) (x : TraceSt) : (setTrace t x s).txq = s.txq := rfl
@[simp] theorem setTrace_sent (t : Nat) (x : TraceSt) : (setTrace t x s).sent = s.sent := rfl
@[simp] theorem setTrace_spiFlags (t : Nat) (x : TraceSt) : (setTrace t x s).spiFlags = s.spiFlags := rfl
@[simp] theorem setTrace_arp (t : Nat) (x : TraceSt) : (setTrace t x s).arp = s.arp := rfl
@[simp] theorem setTrace_evtLog (t : Nat) (x : TraceSt) : (setTrace t x s).evtLog = s.evtLog := rfl
@[simp] theorem setTrace_evtWord (t : Nat) (x : TraceSt) : (setTrace t x s).evtWord = s.evtWord := rfl
@[simp] theorem setTrace_seqClosed (t : Nat) (x : TraceSt) : (setTrace t x s).seqClosed = s.seqClosed := rfl
@[simp] theorem setTrace_seqSnap (t : Nat) (x : TraceSt) : (setTrace t x s).seqSnap = s.seqSnap := rfl
@[simp] theorem setTrace_seqPend (t : Nat) (x : TraceSt) : (setTrace t x s).seqPend = s.seqPend := rfl
@[simp] theorem setTrace_seqAud (t : Nat) (x : TraceSt) : (setTrace t x s).seqAud = s.seqAud := rfl
@[simp] theorem setTrace_seqAudFrame (t : Nat) (x : TraceSt) : (setTrace t x s).seqAudFrame = s.seqAudFrame := rfl
@[simp] theorem setTrace_jobs (t : Nat) (x : TraceSt) : (setTrace t x s).jobs = s.jobs := rfl
@[simp] theorem setTrace_regions (t : Nat) (x : TraceSt) : (setTrace t x s).regions = s.regions := rfl
@[simp] theorem setTrace_ownSessions (t : Nat) (x : TraceSt) : (setTrace t x s).ownSessions = s.ownSessions := rfl
@[simp] theorem setTrace_ownReqs (t : Nat) (x : TraceSt) : (setTrace t x s).ownReqs = s.ownReqs := rfl
@[simp] theorem setTrace_replies (t : Nat) (x : TraceSt) : (setTrace t x s).replies = s.replies := rfl
@[simp] theorem setTrace_work (t : Nat) (x : TraceSt) : (setTrace t x s).work = s.work := rfl
@[simp] theorem setTrace_live (t : Nat) (x : TraceSt) : (setTrace t x s).live = s.live := rfl
@[simp] theorem setTrace_kernels (t : Nat) (x : TraceSt) : (setTrace t x s).kernels = s.kernels := rfl
@[simp] theorem setTrace_partials (t : Nat) (x : TraceSt) : (setTrace t x s).partials = s.partials := rfl
@[simp] theorem setTrace_params (t : Nat) (x : TraceSt) : (setTrace t x s).params = s.params := rfl
@[simp] theorem setTrace_liveParams (t : Nat) (x : TraceSt) : (setTrace t x s).liveParams = s.liveParams := rfl
@[simp] theorem setTrace_liveSlots (t : Nat) (x : TraceSt) : (setTrace t x s).liveSlots = s.liveSlots := rfl
@[simp] theorem setTrace_liveCellar (t : Nat) (x : TraceSt) : (setTrace t x s).liveCellar = s.liveCellar := rfl
@[simp] theorem setTrace_results (t : Nat) (x : TraceSt) : (setTrace t x s).results = s.results := rfl
@[simp] theorem setTrace_ramps (t : Nat) (x : TraceSt) : (setTrace t x s).ramps = s.ramps := rfl
@[simp] theorem setTrace_meters (t : Nat) (x : TraceSt) : (setTrace t x s).meters = s.meters := rfl
@[simp] theorem setTrace_strips (t : Nat) (x : TraceSt) : (setTrace t x s).strips = s.strips := rfl
@[simp] theorem setTrace_liveTasks (t : Nat) (x : TraceSt) : (setTrace t x s).liveTasks = s.liveTasks := rfl
@[simp] theorem setTrace_livePosts (t : Nat) (x : TraceSt) : (setTrace t x s).livePosts = s.livePosts := rfl
@[simp] theorem setTrace_brews (t : Nat) (x : TraceSt) : (setTrace t x s).brews = s.brews := rfl
@[simp] theorem setTrace_directWait (t : Nat) (x : TraceSt) : (setTrace t x s).directWait = s.directWait := rfl
@[simp] theorem setTrace_groups (t : Nat) (x : TraceSt) : (setTrace t x s).groups = s.groups := rfl
@[simp] theorem setTrace_tapKnown (t : Nat) (x : TraceSt) : (setTrace t x s).tapKnown = s.tapKnown := rfl
@[simp] theorem setTrace_ports (t : Nat) (x : TraceSt) : (setTrace t x s).ports = s.ports := rfl
@[simp] theorem setTrace_traces (t : Nat) (x : TraceSt) : (setTrace t x s).traces = smapSet (fun _ => traceIdle) t x s.traces := rfl
@[simp] theorem setTrace_rxCells (t : Nat) (x : TraceSt) : (setTrace t x s).rxCells = s.rxCells := rfl
@[simp] theorem setTrace_prbs (t : Nat) (x : TraceSt) : (setTrace t x s).prbs = s.prbs := rfl
@[simp] theorem setTrace_mgmt (t : Nat) (x : TraceSt) : (setTrace t x s).mgmt = s.mgmt := rfl
@[simp] theorem setTrace_timeq (t : Nat) (x : TraceSt) : (setTrace t x s).timeq = s.timeq := rfl
@[simp] theorem setTrace_acqq (t : Nat) (x : TraceSt) : (setTrace t x s).acqq = s.acqq := rfl
@[simp] theorem setTrace_liveRx (t : Nat) (x : TraceSt) : (setTrace t x s).liveRx = s.liveRx := rfl
@[simp] theorem setTrace_team (t : Nat) (x : TraceSt) : (setTrace t x s).team = s.team := rfl
@[simp] theorem setTrace_routes (t : Nat) (x : TraceSt) : (setTrace t x s).routes = s.routes := rfl
@[simp] theorem setTrace_annCount (t : Nat) (x : TraceSt) : (setTrace t x s).annCount = s.annCount := rfl
@[simp] theorem setTrace_parentRun (t : Nat) (x : TraceSt) : (setTrace t x s).parentRun = s.parentRun := rfl
@[simp] theorem setTrace_margins (t : Nat) (x : TraceSt) : (setTrace t x s).margins = s.margins := rfl
@[simp] theorem setTrace_pair (t : Nat) (x : TraceSt) : (setTrace t x s).pair = s.pair := rfl
@[simp] theorem setTrace_liveAreas (t : Nat) (x : TraceSt) : (setTrace t x s).liveAreas = s.liveAreas := rfl
@[simp] theorem setTrace_liveRegs (t : Nat) (x : TraceSt) : (setTrace t x s).liveRegs = s.liveRegs := rfl
@[simp] theorem setTrace_liveSweep (t : Nat) (x : TraceSt) : (setTrace t x s).liveSweep = s.liveSweep := rfl
@[simp] theorem setTrace_domA (t : Nat) (x : TraceSt) : (setTrace t x s).domA = s.domA := rfl
@[simp] theorem setTrace_domB (t : Nat) (x : TraceSt) : (setTrace t x s).domB = s.domB := rfl
@[simp] theorem setTrace_comma (t : Nat) (x : TraceSt) : (setTrace t x s).comma = s.comma := rfl
@[simp] theorem setTrace_pulses (t : Nat) (x : TraceSt) : (setTrace t x s).pulses = s.pulses := rfl
@[simp] theorem setTrace_aligns (t : Nat) (x : TraceSt) : (setTrace t x s).aligns = s.aligns := rfl
@[simp] theorem setTrace_history (t : Nat) (x : TraceSt) : (setTrace t x s).history = s.history := rfl
@[simp] theorem setTrace_fromFree (t : Nat) (x : TraceSt) : (setTrace t x s).fromFree = s.fromFree := rfl
@[simp] theorem setTrace_remap (t : Nat) (x : TraceSt) : (setTrace t x s).remap = s.remap := rfl
@[simp] theorem setTrace_amps (t : Nat) (x : TraceSt) : (setTrace t x s).amps = s.amps := rfl
@[simp] theorem setTrace_reqLimit (t : Nat) (x : TraceSt) : (setTrace t x s).reqLimit = s.reqLimit := rfl
@[simp] theorem setTrace_ovrBalls (t : Nat) (x : TraceSt) : (setTrace t x s).ovrBalls = s.ovrBalls := rfl
@[simp] theorem setTrace_ovrHist (t : Nat) (x : TraceSt) : (setTrace t x s).ovrHist = s.ovrHist := rfl
@[simp] theorem setTrace_power (t : Nat) (x : TraceSt) : (setTrace t x s).power = s.power := rfl
@[simp] theorem setTrace_liveStreams (t : Nat) (x : TraceSt) : (setTrace t x s).liveStreams = s.liveStreams := rfl

/-! ### setAmp -/

@[simp] theorem setAmp_pending (c : Nat) (x : AmpSt) : (setAmp c x s).pending = s.pending := rfl
@[simp] theorem setAmp_regs (c : Nat) (x : AmpSt) : (setAmp c x s).regs = s.regs := rfl
@[simp] theorem setAmp_mem (c : Nat) (x : AmpSt) : (setAmp c x s).mem = s.mem := rfl
@[simp] theorem setAmp_fresh (c : Nat) (x : AmpSt) : (setAmp c x s).fresh = s.fresh := rfl
@[simp] theorem setAmp_frame (c : Nat) (x : AmpSt) : (setAmp c x s).frame = s.frame := rfl
@[simp] theorem setAmp_tick (c : Nat) (x : AmpSt) : (setAmp c x s).tick = s.tick := rfl
@[simp] theorem setAmp_tickPrev (c : Nat) (x : AmpSt) : (setAmp c x s).tickPrev = s.tickPrev := rfl
@[simp] theorem setAmp_mode (c : Nat) (x : AmpSt) : (setAmp c x s).mode = s.mode := rfl
@[simp] theorem setAmp_fs (c : Nat) (x : AmpSt) : (setAmp c x s).fs = s.fs := rfl
@[simp] theorem setAmp_units (c : Nat) (x : AmpSt) : (setAmp c x s).units = s.units := rfl
@[simp] theorem setAmp_stalls (c : Nat) (x : AmpSt) : (setAmp c x s).stalls = s.stalls := rfl
@[simp] theorem setAmp_pages (c : Nat) (x : AmpSt) : (setAmp c x s).pages = s.pages := rfl
@[simp] theorem setAmp_progMem (c : Nat) (x : AmpSt) : (setAmp c x s).progMem = s.progMem := rfl
@[simp] theorem setAmp_outs (c : Nat) (x : AmpSt) : (setAmp c x s).outs = s.outs := rfl
@[simp] theorem setAmp_outFlight (c : Nat) (x : AmpSt) : (setAmp c x s).outFlight = s.outFlight := rfl
@[simp] theorem setAmp_posts (c : Nat) (x : AmpSt) : (setAmp c x s).posts = s.posts := rfl
@[simp] theorem setAmp_ueWords (c : Nat) (x : AmpSt) : (setAmp c x s).ueWords = s.ueWords := rfl
@[simp] theorem setAmp_ceWords (c : Nat) (x : AmpSt) : (setAmp c x s).ceWords = s.ceWords := rfl
@[simp] theorem setAmp_fg (c : Nat) (x : AmpSt) : (setAmp c x s).fg = s.fg := rfl
@[simp] theorem setAmp_ledger (c : Nat) (x : AmpSt) : (setAmp c x s).ledger = s.ledger := rfl
@[simp] theorem setAmp_evtWait (c : Nat) (x : AmpSt) : (setAmp c x s).evtWait = s.evtWait := rfl
@[simp] theorem setAmp_lastRead (c : Nat) (x : AmpSt) : (setAmp c x s).lastRead = s.lastRead := rfl
@[simp] theorem setAmp_latches (c : Nat) (x : AmpSt) : (setAmp c x s).latches = s.latches := rfl
@[simp] theorem setAmp_tokenBad (c : Nat) (x : AmpSt) : (setAmp c x s).tokenBad = s.tokenBad := rfl
@[simp] theorem setAmp_passCe (c : Nat) (x : AmpSt) : (setAmp c x s).passCe = s.passCe := rfl
@[simp] theorem setAmp_retrainPend (c : Nat) (x : AmpSt) : (setAmp c x s).retrainPend = s.retrainPend := rfl
@[simp] theorem setAmp_scrubAt (c : Nat) (x : AmpSt) : (setAmp c x s).scrubAt = s.scrubAt := rfl
@[simp] theorem setAmp_arb (c : Nat) (x : AmpSt) : (setAmp c x s).arb = s.arb := rfl
@[simp] theorem setAmp_bursts (c : Nat) (x : AmpSt) : (setAmp c x s).bursts = s.bursts := rfl
@[simp] theorem setAmp_limiters (c : Nat) (x : AmpSt) : (setAmp c x s).limiters = s.limiters := rfl
@[simp] theorem setAmp_drovers (c : Nat) (x : AmpSt) : (setAmp c x s).drovers = s.drovers := rfl
@[simp] theorem setAmp_chans (c : Nat) (x : AmpSt) : (setAmp c x s).chans = s.chans := rfl
@[simp] theorem setAmp_drvMem (c : Nat) (x : AmpSt) : (setAmp c x s).drvMem = s.drvMem := rfl
@[simp] theorem setAmp_lines (c : Nat) (x : AmpSt) : (setAmp c x s).lines = s.lines := rfl
@[simp] theorem setAmp_staged (c : Nat) (x : AmpSt) : (setAmp c x s).staged = s.staged := rfl
@[simp] theorem setAmp_rxq (c : Nat) (x : AmpSt) : (setAmp c x s).rxq = s.rxq := rfl
@[simp] theorem setAmp_admitted (c : Nat) (x : AmpSt) : (setAmp c x s).admitted = s.admitted := rfl
@[simp] theorem setAmp_sessions (c : Nat) (x : AmpSt) : (setAmp c x s).sessions = s.sessions := rfl
@[simp] theorem setAmp_oldSessions (c : Nat) (x : AmpSt) : (setAmp c x s).oldSessions = s.oldSessions := rfl
@[simp] theorem setAmp_keys (c : Nat) (x : AmpSt) : (setAmp c x s).keys = s.keys := rfl
@[simp] theorem setAmp_txq (c : Nat) (x : AmpSt) : (setAmp c x s).txq = s.txq := rfl
@[simp] theorem setAmp_sent (c : Nat) (x : AmpSt) : (setAmp c x s).sent = s.sent := rfl
@[simp] theorem setAmp_spiFlags (c : Nat) (x : AmpSt) : (setAmp c x s).spiFlags = s.spiFlags := rfl
@[simp] theorem setAmp_arp (c : Nat) (x : AmpSt) : (setAmp c x s).arp = s.arp := rfl
@[simp] theorem setAmp_evtLog (c : Nat) (x : AmpSt) : (setAmp c x s).evtLog = s.evtLog := rfl
@[simp] theorem setAmp_evtWord (c : Nat) (x : AmpSt) : (setAmp c x s).evtWord = s.evtWord := rfl
@[simp] theorem setAmp_seqClosed (c : Nat) (x : AmpSt) : (setAmp c x s).seqClosed = s.seqClosed := rfl
@[simp] theorem setAmp_seqSnap (c : Nat) (x : AmpSt) : (setAmp c x s).seqSnap = s.seqSnap := rfl
@[simp] theorem setAmp_seqPend (c : Nat) (x : AmpSt) : (setAmp c x s).seqPend = s.seqPend := rfl
@[simp] theorem setAmp_seqAud (c : Nat) (x : AmpSt) : (setAmp c x s).seqAud = s.seqAud := rfl
@[simp] theorem setAmp_seqAudFrame (c : Nat) (x : AmpSt) : (setAmp c x s).seqAudFrame = s.seqAudFrame := rfl
@[simp] theorem setAmp_jobs (c : Nat) (x : AmpSt) : (setAmp c x s).jobs = s.jobs := rfl
@[simp] theorem setAmp_regions (c : Nat) (x : AmpSt) : (setAmp c x s).regions = s.regions := rfl
@[simp] theorem setAmp_ownSessions (c : Nat) (x : AmpSt) : (setAmp c x s).ownSessions = s.ownSessions := rfl
@[simp] theorem setAmp_ownReqs (c : Nat) (x : AmpSt) : (setAmp c x s).ownReqs = s.ownReqs := rfl
@[simp] theorem setAmp_replies (c : Nat) (x : AmpSt) : (setAmp c x s).replies = s.replies := rfl
@[simp] theorem setAmp_work (c : Nat) (x : AmpSt) : (setAmp c x s).work = s.work := rfl
@[simp] theorem setAmp_live (c : Nat) (x : AmpSt) : (setAmp c x s).live = s.live := rfl
@[simp] theorem setAmp_kernels (c : Nat) (x : AmpSt) : (setAmp c x s).kernels = s.kernels := rfl
@[simp] theorem setAmp_partials (c : Nat) (x : AmpSt) : (setAmp c x s).partials = s.partials := rfl
@[simp] theorem setAmp_params (c : Nat) (x : AmpSt) : (setAmp c x s).params = s.params := rfl
@[simp] theorem setAmp_liveParams (c : Nat) (x : AmpSt) : (setAmp c x s).liveParams = s.liveParams := rfl
@[simp] theorem setAmp_liveSlots (c : Nat) (x : AmpSt) : (setAmp c x s).liveSlots = s.liveSlots := rfl
@[simp] theorem setAmp_liveCellar (c : Nat) (x : AmpSt) : (setAmp c x s).liveCellar = s.liveCellar := rfl
@[simp] theorem setAmp_results (c : Nat) (x : AmpSt) : (setAmp c x s).results = s.results := rfl
@[simp] theorem setAmp_ramps (c : Nat) (x : AmpSt) : (setAmp c x s).ramps = s.ramps := rfl
@[simp] theorem setAmp_meters (c : Nat) (x : AmpSt) : (setAmp c x s).meters = s.meters := rfl
@[simp] theorem setAmp_strips (c : Nat) (x : AmpSt) : (setAmp c x s).strips = s.strips := rfl
@[simp] theorem setAmp_liveTasks (c : Nat) (x : AmpSt) : (setAmp c x s).liveTasks = s.liveTasks := rfl
@[simp] theorem setAmp_livePosts (c : Nat) (x : AmpSt) : (setAmp c x s).livePosts = s.livePosts := rfl
@[simp] theorem setAmp_brews (c : Nat) (x : AmpSt) : (setAmp c x s).brews = s.brews := rfl
@[simp] theorem setAmp_directWait (c : Nat) (x : AmpSt) : (setAmp c x s).directWait = s.directWait := rfl
@[simp] theorem setAmp_groups (c : Nat) (x : AmpSt) : (setAmp c x s).groups = s.groups := rfl
@[simp] theorem setAmp_tapKnown (c : Nat) (x : AmpSt) : (setAmp c x s).tapKnown = s.tapKnown := rfl
@[simp] theorem setAmp_ports (c : Nat) (x : AmpSt) : (setAmp c x s).ports = s.ports := rfl
@[simp] theorem setAmp_traces (c : Nat) (x : AmpSt) : (setAmp c x s).traces = s.traces := rfl
@[simp] theorem setAmp_rxCells (c : Nat) (x : AmpSt) : (setAmp c x s).rxCells = s.rxCells := rfl
@[simp] theorem setAmp_prbs (c : Nat) (x : AmpSt) : (setAmp c x s).prbs = s.prbs := rfl
@[simp] theorem setAmp_mgmt (c : Nat) (x : AmpSt) : (setAmp c x s).mgmt = s.mgmt := rfl
@[simp] theorem setAmp_timeq (c : Nat) (x : AmpSt) : (setAmp c x s).timeq = s.timeq := rfl
@[simp] theorem setAmp_acqq (c : Nat) (x : AmpSt) : (setAmp c x s).acqq = s.acqq := rfl
@[simp] theorem setAmp_liveRx (c : Nat) (x : AmpSt) : (setAmp c x s).liveRx = s.liveRx := rfl
@[simp] theorem setAmp_team (c : Nat) (x : AmpSt) : (setAmp c x s).team = s.team := rfl
@[simp] theorem setAmp_routes (c : Nat) (x : AmpSt) : (setAmp c x s).routes = s.routes := rfl
@[simp] theorem setAmp_annCount (c : Nat) (x : AmpSt) : (setAmp c x s).annCount = s.annCount := rfl
@[simp] theorem setAmp_parentRun (c : Nat) (x : AmpSt) : (setAmp c x s).parentRun = s.parentRun := rfl
@[simp] theorem setAmp_margins (c : Nat) (x : AmpSt) : (setAmp c x s).margins = s.margins := rfl
@[simp] theorem setAmp_pair (c : Nat) (x : AmpSt) : (setAmp c x s).pair = s.pair := rfl
@[simp] theorem setAmp_liveAreas (c : Nat) (x : AmpSt) : (setAmp c x s).liveAreas = s.liveAreas := rfl
@[simp] theorem setAmp_liveRegs (c : Nat) (x : AmpSt) : (setAmp c x s).liveRegs = s.liveRegs := rfl
@[simp] theorem setAmp_liveSweep (c : Nat) (x : AmpSt) : (setAmp c x s).liveSweep = s.liveSweep := rfl
@[simp] theorem setAmp_domA (c : Nat) (x : AmpSt) : (setAmp c x s).domA = s.domA := rfl
@[simp] theorem setAmp_domB (c : Nat) (x : AmpSt) : (setAmp c x s).domB = s.domB := rfl
@[simp] theorem setAmp_comma (c : Nat) (x : AmpSt) : (setAmp c x s).comma = s.comma := rfl
@[simp] theorem setAmp_pulses (c : Nat) (x : AmpSt) : (setAmp c x s).pulses = s.pulses := rfl
@[simp] theorem setAmp_aligns (c : Nat) (x : AmpSt) : (setAmp c x s).aligns = s.aligns := rfl
@[simp] theorem setAmp_history (c : Nat) (x : AmpSt) : (setAmp c x s).history = s.history := rfl
@[simp] theorem setAmp_fromFree (c : Nat) (x : AmpSt) : (setAmp c x s).fromFree = s.fromFree := rfl
@[simp] theorem setAmp_remap (c : Nat) (x : AmpSt) : (setAmp c x s).remap = s.remap := rfl
@[simp] theorem setAmp_amps (c : Nat) (x : AmpSt) : (setAmp c x s).amps = smapSet (fun _ => ampIdle) c x s.amps := rfl
@[simp] theorem setAmp_reqLimit (c : Nat) (x : AmpSt) : (setAmp c x s).reqLimit = s.reqLimit := rfl
@[simp] theorem setAmp_ovrBalls (c : Nat) (x : AmpSt) : (setAmp c x s).ovrBalls = s.ovrBalls := rfl
@[simp] theorem setAmp_ovrHist (c : Nat) (x : AmpSt) : (setAmp c x s).ovrHist = s.ovrHist := rfl
@[simp] theorem setAmp_power (c : Nat) (x : AmpSt) : (setAmp c x s).power = s.power := rfl
@[simp] theorem setAmp_liveStreams (c : Nat) (x : AmpSt) : (setAmp c x s).liveStreams = s.liveStreams := rfl

/-! ### setBrew -/

@[simp] theorem setBrew_pending (h : Nat) (x : Brew) : (setBrew h x s).pending = s.pending := rfl
@[simp] theorem setBrew_regs (h : Nat) (x : Brew) : (setBrew h x s).regs = s.regs := rfl
@[simp] theorem setBrew_mem (h : Nat) (x : Brew) : (setBrew h x s).mem = s.mem := rfl
@[simp] theorem setBrew_fresh (h : Nat) (x : Brew) : (setBrew h x s).fresh = s.fresh := rfl
@[simp] theorem setBrew_frame (h : Nat) (x : Brew) : (setBrew h x s).frame = s.frame := rfl
@[simp] theorem setBrew_tick (h : Nat) (x : Brew) : (setBrew h x s).tick = s.tick := rfl
@[simp] theorem setBrew_tickPrev (h : Nat) (x : Brew) : (setBrew h x s).tickPrev = s.tickPrev := rfl
@[simp] theorem setBrew_mode (h : Nat) (x : Brew) : (setBrew h x s).mode = s.mode := rfl
@[simp] theorem setBrew_fs (h : Nat) (x : Brew) : (setBrew h x s).fs = s.fs := rfl
@[simp] theorem setBrew_units (h : Nat) (x : Brew) : (setBrew h x s).units = s.units := rfl
@[simp] theorem setBrew_stalls (h : Nat) (x : Brew) : (setBrew h x s).stalls = s.stalls := rfl
@[simp] theorem setBrew_pages (h : Nat) (x : Brew) : (setBrew h x s).pages = s.pages := rfl
@[simp] theorem setBrew_progMem (h : Nat) (x : Brew) : (setBrew h x s).progMem = s.progMem := rfl
@[simp] theorem setBrew_outs (h : Nat) (x : Brew) : (setBrew h x s).outs = s.outs := rfl
@[simp] theorem setBrew_outFlight (h : Nat) (x : Brew) : (setBrew h x s).outFlight = s.outFlight := rfl
@[simp] theorem setBrew_posts (h : Nat) (x : Brew) : (setBrew h x s).posts = s.posts := rfl
@[simp] theorem setBrew_ueWords (h : Nat) (x : Brew) : (setBrew h x s).ueWords = s.ueWords := rfl
@[simp] theorem setBrew_ceWords (h : Nat) (x : Brew) : (setBrew h x s).ceWords = s.ceWords := rfl
@[simp] theorem setBrew_fg (h : Nat) (x : Brew) : (setBrew h x s).fg = s.fg := rfl
@[simp] theorem setBrew_ledger (h : Nat) (x : Brew) : (setBrew h x s).ledger = s.ledger := rfl
@[simp] theorem setBrew_evtWait (h : Nat) (x : Brew) : (setBrew h x s).evtWait = s.evtWait := rfl
@[simp] theorem setBrew_lastRead (h : Nat) (x : Brew) : (setBrew h x s).lastRead = s.lastRead := rfl
@[simp] theorem setBrew_latches (h : Nat) (x : Brew) : (setBrew h x s).latches = s.latches := rfl
@[simp] theorem setBrew_tokenBad (h : Nat) (x : Brew) : (setBrew h x s).tokenBad = s.tokenBad := rfl
@[simp] theorem setBrew_passCe (h : Nat) (x : Brew) : (setBrew h x s).passCe = s.passCe := rfl
@[simp] theorem setBrew_retrainPend (h : Nat) (x : Brew) : (setBrew h x s).retrainPend = s.retrainPend := rfl
@[simp] theorem setBrew_scrubAt (h : Nat) (x : Brew) : (setBrew h x s).scrubAt = s.scrubAt := rfl
@[simp] theorem setBrew_arb (h : Nat) (x : Brew) : (setBrew h x s).arb = s.arb := rfl
@[simp] theorem setBrew_bursts (h : Nat) (x : Brew) : (setBrew h x s).bursts = s.bursts := rfl
@[simp] theorem setBrew_limiters (h : Nat) (x : Brew) : (setBrew h x s).limiters = s.limiters := rfl
@[simp] theorem setBrew_drovers (h : Nat) (x : Brew) : (setBrew h x s).drovers = s.drovers := rfl
@[simp] theorem setBrew_chans (h : Nat) (x : Brew) : (setBrew h x s).chans = s.chans := rfl
@[simp] theorem setBrew_drvMem (h : Nat) (x : Brew) : (setBrew h x s).drvMem = s.drvMem := rfl
@[simp] theorem setBrew_lines (h : Nat) (x : Brew) : (setBrew h x s).lines = s.lines := rfl
@[simp] theorem setBrew_staged (h : Nat) (x : Brew) : (setBrew h x s).staged = s.staged := rfl
@[simp] theorem setBrew_rxq (h : Nat) (x : Brew) : (setBrew h x s).rxq = s.rxq := rfl
@[simp] theorem setBrew_admitted (h : Nat) (x : Brew) : (setBrew h x s).admitted = s.admitted := rfl
@[simp] theorem setBrew_sessions (h : Nat) (x : Brew) : (setBrew h x s).sessions = s.sessions := rfl
@[simp] theorem setBrew_oldSessions (h : Nat) (x : Brew) : (setBrew h x s).oldSessions = s.oldSessions := rfl
@[simp] theorem setBrew_keys (h : Nat) (x : Brew) : (setBrew h x s).keys = s.keys := rfl
@[simp] theorem setBrew_txq (h : Nat) (x : Brew) : (setBrew h x s).txq = s.txq := rfl
@[simp] theorem setBrew_sent (h : Nat) (x : Brew) : (setBrew h x s).sent = s.sent := rfl
@[simp] theorem setBrew_spiFlags (h : Nat) (x : Brew) : (setBrew h x s).spiFlags = s.spiFlags := rfl
@[simp] theorem setBrew_arp (h : Nat) (x : Brew) : (setBrew h x s).arp = s.arp := rfl
@[simp] theorem setBrew_evtLog (h : Nat) (x : Brew) : (setBrew h x s).evtLog = s.evtLog := rfl
@[simp] theorem setBrew_evtWord (h : Nat) (x : Brew) : (setBrew h x s).evtWord = s.evtWord := rfl
@[simp] theorem setBrew_seqClosed (h : Nat) (x : Brew) : (setBrew h x s).seqClosed = s.seqClosed := rfl
@[simp] theorem setBrew_seqSnap (h : Nat) (x : Brew) : (setBrew h x s).seqSnap = s.seqSnap := rfl
@[simp] theorem setBrew_seqPend (h : Nat) (x : Brew) : (setBrew h x s).seqPend = s.seqPend := rfl
@[simp] theorem setBrew_seqAud (h : Nat) (x : Brew) : (setBrew h x s).seqAud = s.seqAud := rfl
@[simp] theorem setBrew_seqAudFrame (h : Nat) (x : Brew) : (setBrew h x s).seqAudFrame = s.seqAudFrame := rfl
@[simp] theorem setBrew_jobs (h : Nat) (x : Brew) : (setBrew h x s).jobs = s.jobs := rfl
@[simp] theorem setBrew_regions (h : Nat) (x : Brew) : (setBrew h x s).regions = s.regions := rfl
@[simp] theorem setBrew_ownSessions (h : Nat) (x : Brew) : (setBrew h x s).ownSessions = s.ownSessions := rfl
@[simp] theorem setBrew_ownReqs (h : Nat) (x : Brew) : (setBrew h x s).ownReqs = s.ownReqs := rfl
@[simp] theorem setBrew_replies (h : Nat) (x : Brew) : (setBrew h x s).replies = s.replies := rfl
@[simp] theorem setBrew_work (h : Nat) (x : Brew) : (setBrew h x s).work = s.work := rfl
@[simp] theorem setBrew_live (h : Nat) (x : Brew) : (setBrew h x s).live = s.live := rfl
@[simp] theorem setBrew_kernels (h : Nat) (x : Brew) : (setBrew h x s).kernels = s.kernels := rfl
@[simp] theorem setBrew_partials (h : Nat) (x : Brew) : (setBrew h x s).partials = s.partials := rfl
@[simp] theorem setBrew_params (h : Nat) (x : Brew) : (setBrew h x s).params = s.params := rfl
@[simp] theorem setBrew_liveParams (h : Nat) (x : Brew) : (setBrew h x s).liveParams = s.liveParams := rfl
@[simp] theorem setBrew_liveSlots (h : Nat) (x : Brew) : (setBrew h x s).liveSlots = s.liveSlots := rfl
@[simp] theorem setBrew_liveCellar (h : Nat) (x : Brew) : (setBrew h x s).liveCellar = s.liveCellar := rfl
@[simp] theorem setBrew_results (h : Nat) (x : Brew) : (setBrew h x s).results = s.results := rfl
@[simp] theorem setBrew_ramps (h : Nat) (x : Brew) : (setBrew h x s).ramps = s.ramps := rfl
@[simp] theorem setBrew_meters (h : Nat) (x : Brew) : (setBrew h x s).meters = s.meters := rfl
@[simp] theorem setBrew_strips (h : Nat) (x : Brew) : (setBrew h x s).strips = s.strips := rfl
@[simp] theorem setBrew_liveTasks (h : Nat) (x : Brew) : (setBrew h x s).liveTasks = s.liveTasks := rfl
@[simp] theorem setBrew_livePosts (h : Nat) (x : Brew) : (setBrew h x s).livePosts = s.livePosts := rfl
@[simp] theorem setBrew_brews (h : Nat) (x : Brew) : (setBrew h x s).brews = smapSet (fun _ => brewFree) h x s.brews := rfl
@[simp] theorem setBrew_directWait (h : Nat) (x : Brew) : (setBrew h x s).directWait = s.directWait := rfl
@[simp] theorem setBrew_groups (h : Nat) (x : Brew) : (setBrew h x s).groups = s.groups := rfl
@[simp] theorem setBrew_tapKnown (h : Nat) (x : Brew) : (setBrew h x s).tapKnown = s.tapKnown := rfl
@[simp] theorem setBrew_ports (h : Nat) (x : Brew) : (setBrew h x s).ports = s.ports := rfl
@[simp] theorem setBrew_traces (h : Nat) (x : Brew) : (setBrew h x s).traces = s.traces := rfl
@[simp] theorem setBrew_rxCells (h : Nat) (x : Brew) : (setBrew h x s).rxCells = s.rxCells := rfl
@[simp] theorem setBrew_prbs (h : Nat) (x : Brew) : (setBrew h x s).prbs = s.prbs := rfl
@[simp] theorem setBrew_mgmt (h : Nat) (x : Brew) : (setBrew h x s).mgmt = s.mgmt := rfl
@[simp] theorem setBrew_timeq (h : Nat) (x : Brew) : (setBrew h x s).timeq = s.timeq := rfl
@[simp] theorem setBrew_acqq (h : Nat) (x : Brew) : (setBrew h x s).acqq = s.acqq := rfl
@[simp] theorem setBrew_liveRx (h : Nat) (x : Brew) : (setBrew h x s).liveRx = s.liveRx := rfl
@[simp] theorem setBrew_team (h : Nat) (x : Brew) : (setBrew h x s).team = s.team := rfl
@[simp] theorem setBrew_routes (h : Nat) (x : Brew) : (setBrew h x s).routes = s.routes := rfl
@[simp] theorem setBrew_annCount (h : Nat) (x : Brew) : (setBrew h x s).annCount = s.annCount := rfl
@[simp] theorem setBrew_parentRun (h : Nat) (x : Brew) : (setBrew h x s).parentRun = s.parentRun := rfl
@[simp] theorem setBrew_margins (h : Nat) (x : Brew) : (setBrew h x s).margins = s.margins := rfl
@[simp] theorem setBrew_pair (h : Nat) (x : Brew) : (setBrew h x s).pair = s.pair := rfl
@[simp] theorem setBrew_liveAreas (h : Nat) (x : Brew) : (setBrew h x s).liveAreas = s.liveAreas := rfl
@[simp] theorem setBrew_liveRegs (h : Nat) (x : Brew) : (setBrew h x s).liveRegs = s.liveRegs := rfl
@[simp] theorem setBrew_liveSweep (h : Nat) (x : Brew) : (setBrew h x s).liveSweep = s.liveSweep := rfl
@[simp] theorem setBrew_domA (h : Nat) (x : Brew) : (setBrew h x s).domA = s.domA := rfl
@[simp] theorem setBrew_domB (h : Nat) (x : Brew) : (setBrew h x s).domB = s.domB := rfl
@[simp] theorem setBrew_comma (h : Nat) (x : Brew) : (setBrew h x s).comma = s.comma := rfl
@[simp] theorem setBrew_pulses (h : Nat) (x : Brew) : (setBrew h x s).pulses = s.pulses := rfl
@[simp] theorem setBrew_aligns (h : Nat) (x : Brew) : (setBrew h x s).aligns = s.aligns := rfl
@[simp] theorem setBrew_history (h : Nat) (x : Brew) : (setBrew h x s).history = s.history := rfl
@[simp] theorem setBrew_fromFree (h : Nat) (x : Brew) : (setBrew h x s).fromFree = s.fromFree := rfl
@[simp] theorem setBrew_remap (h : Nat) (x : Brew) : (setBrew h x s).remap = s.remap := rfl
@[simp] theorem setBrew_amps (h : Nat) (x : Brew) : (setBrew h x s).amps = s.amps := rfl
@[simp] theorem setBrew_reqLimit (h : Nat) (x : Brew) : (setBrew h x s).reqLimit = s.reqLimit := rfl
@[simp] theorem setBrew_ovrBalls (h : Nat) (x : Brew) : (setBrew h x s).ovrBalls = s.ovrBalls := rfl
@[simp] theorem setBrew_ovrHist (h : Nat) (x : Brew) : (setBrew h x s).ovrHist = s.ovrHist := rfl
@[simp] theorem setBrew_power (h : Nat) (x : Brew) : (setBrew h x s).power = s.power := rfl
@[simp] theorem setBrew_liveStreams (h : Nat) (x : Brew) : (setBrew h x s).liveStreams = s.liveStreams := rfl

/-! ### setDrover -/

@[simp] theorem setDrover_pending (d : Nat) (x : Drover) : (setDrover d x s).pending = s.pending := rfl
@[simp] theorem setDrover_regs (d : Nat) (x : Drover) : (setDrover d x s).regs = s.regs := rfl
@[simp] theorem setDrover_mem (d : Nat) (x : Drover) : (setDrover d x s).mem = s.mem := rfl
@[simp] theorem setDrover_fresh (d : Nat) (x : Drover) : (setDrover d x s).fresh = s.fresh := rfl
@[simp] theorem setDrover_frame (d : Nat) (x : Drover) : (setDrover d x s).frame = s.frame := rfl
@[simp] theorem setDrover_tick (d : Nat) (x : Drover) : (setDrover d x s).tick = s.tick := rfl
@[simp] theorem setDrover_tickPrev (d : Nat) (x : Drover) : (setDrover d x s).tickPrev = s.tickPrev := rfl
@[simp] theorem setDrover_mode (d : Nat) (x : Drover) : (setDrover d x s).mode = s.mode := rfl
@[simp] theorem setDrover_fs (d : Nat) (x : Drover) : (setDrover d x s).fs = s.fs := rfl
@[simp] theorem setDrover_units (d : Nat) (x : Drover) : (setDrover d x s).units = s.units := rfl
@[simp] theorem setDrover_stalls (d : Nat) (x : Drover) : (setDrover d x s).stalls = s.stalls := rfl
@[simp] theorem setDrover_pages (d : Nat) (x : Drover) : (setDrover d x s).pages = s.pages := rfl
@[simp] theorem setDrover_progMem (d : Nat) (x : Drover) : (setDrover d x s).progMem = s.progMem := rfl
@[simp] theorem setDrover_outs (d : Nat) (x : Drover) : (setDrover d x s).outs = s.outs := rfl
@[simp] theorem setDrover_outFlight (d : Nat) (x : Drover) : (setDrover d x s).outFlight = s.outFlight := rfl
@[simp] theorem setDrover_posts (d : Nat) (x : Drover) : (setDrover d x s).posts = s.posts := rfl
@[simp] theorem setDrover_ueWords (d : Nat) (x : Drover) : (setDrover d x s).ueWords = s.ueWords := rfl
@[simp] theorem setDrover_ceWords (d : Nat) (x : Drover) : (setDrover d x s).ceWords = s.ceWords := rfl
@[simp] theorem setDrover_fg (d : Nat) (x : Drover) : (setDrover d x s).fg = s.fg := rfl
@[simp] theorem setDrover_ledger (d : Nat) (x : Drover) : (setDrover d x s).ledger = s.ledger := rfl
@[simp] theorem setDrover_evtWait (d : Nat) (x : Drover) : (setDrover d x s).evtWait = s.evtWait := rfl
@[simp] theorem setDrover_lastRead (d : Nat) (x : Drover) : (setDrover d x s).lastRead = s.lastRead := rfl
@[simp] theorem setDrover_latches (d : Nat) (x : Drover) : (setDrover d x s).latches = s.latches := rfl
@[simp] theorem setDrover_tokenBad (d : Nat) (x : Drover) : (setDrover d x s).tokenBad = s.tokenBad := rfl
@[simp] theorem setDrover_passCe (d : Nat) (x : Drover) : (setDrover d x s).passCe = s.passCe := rfl
@[simp] theorem setDrover_retrainPend (d : Nat) (x : Drover) : (setDrover d x s).retrainPend = s.retrainPend := rfl
@[simp] theorem setDrover_scrubAt (d : Nat) (x : Drover) : (setDrover d x s).scrubAt = s.scrubAt := rfl
@[simp] theorem setDrover_arb (d : Nat) (x : Drover) : (setDrover d x s).arb = s.arb := rfl
@[simp] theorem setDrover_bursts (d : Nat) (x : Drover) : (setDrover d x s).bursts = s.bursts := rfl
@[simp] theorem setDrover_limiters (d : Nat) (x : Drover) : (setDrover d x s).limiters = s.limiters := rfl
@[simp] theorem setDrover_drovers (d : Nat) (x : Drover) : (setDrover d x s).drovers = smapSet (fun _ => droverIdle) d x s.drovers := rfl
@[simp] theorem setDrover_chans (d : Nat) (x : Drover) : (setDrover d x s).chans = s.chans := rfl
@[simp] theorem setDrover_drvMem (d : Nat) (x : Drover) : (setDrover d x s).drvMem = s.drvMem := rfl
@[simp] theorem setDrover_lines (d : Nat) (x : Drover) : (setDrover d x s).lines = s.lines := rfl
@[simp] theorem setDrover_staged (d : Nat) (x : Drover) : (setDrover d x s).staged = s.staged := rfl
@[simp] theorem setDrover_rxq (d : Nat) (x : Drover) : (setDrover d x s).rxq = s.rxq := rfl
@[simp] theorem setDrover_admitted (d : Nat) (x : Drover) : (setDrover d x s).admitted = s.admitted := rfl
@[simp] theorem setDrover_sessions (d : Nat) (x : Drover) : (setDrover d x s).sessions = s.sessions := rfl
@[simp] theorem setDrover_oldSessions (d : Nat) (x : Drover) : (setDrover d x s).oldSessions = s.oldSessions := rfl
@[simp] theorem setDrover_keys (d : Nat) (x : Drover) : (setDrover d x s).keys = s.keys := rfl
@[simp] theorem setDrover_txq (d : Nat) (x : Drover) : (setDrover d x s).txq = s.txq := rfl
@[simp] theorem setDrover_sent (d : Nat) (x : Drover) : (setDrover d x s).sent = s.sent := rfl
@[simp] theorem setDrover_spiFlags (d : Nat) (x : Drover) : (setDrover d x s).spiFlags = s.spiFlags := rfl
@[simp] theorem setDrover_arp (d : Nat) (x : Drover) : (setDrover d x s).arp = s.arp := rfl
@[simp] theorem setDrover_evtLog (d : Nat) (x : Drover) : (setDrover d x s).evtLog = s.evtLog := rfl
@[simp] theorem setDrover_evtWord (d : Nat) (x : Drover) : (setDrover d x s).evtWord = s.evtWord := rfl
@[simp] theorem setDrover_seqClosed (d : Nat) (x : Drover) : (setDrover d x s).seqClosed = s.seqClosed := rfl
@[simp] theorem setDrover_seqSnap (d : Nat) (x : Drover) : (setDrover d x s).seqSnap = s.seqSnap := rfl
@[simp] theorem setDrover_seqPend (d : Nat) (x : Drover) : (setDrover d x s).seqPend = s.seqPend := rfl
@[simp] theorem setDrover_seqAud (d : Nat) (x : Drover) : (setDrover d x s).seqAud = s.seqAud := rfl
@[simp] theorem setDrover_seqAudFrame (d : Nat) (x : Drover) : (setDrover d x s).seqAudFrame = s.seqAudFrame := rfl
@[simp] theorem setDrover_jobs (d : Nat) (x : Drover) : (setDrover d x s).jobs = s.jobs := rfl
@[simp] theorem setDrover_regions (d : Nat) (x : Drover) : (setDrover d x s).regions = s.regions := rfl
@[simp] theorem setDrover_ownSessions (d : Nat) (x : Drover) : (setDrover d x s).ownSessions = s.ownSessions := rfl
@[simp] theorem setDrover_ownReqs (d : Nat) (x : Drover) : (setDrover d x s).ownReqs = s.ownReqs := rfl
@[simp] theorem setDrover_replies (d : Nat) (x : Drover) : (setDrover d x s).replies = s.replies := rfl
@[simp] theorem setDrover_work (d : Nat) (x : Drover) : (setDrover d x s).work = s.work := rfl
@[simp] theorem setDrover_live (d : Nat) (x : Drover) : (setDrover d x s).live = s.live := rfl
@[simp] theorem setDrover_kernels (d : Nat) (x : Drover) : (setDrover d x s).kernels = s.kernels := rfl
@[simp] theorem setDrover_partials (d : Nat) (x : Drover) : (setDrover d x s).partials = s.partials := rfl
@[simp] theorem setDrover_params (d : Nat) (x : Drover) : (setDrover d x s).params = s.params := rfl
@[simp] theorem setDrover_liveParams (d : Nat) (x : Drover) : (setDrover d x s).liveParams = s.liveParams := rfl
@[simp] theorem setDrover_liveSlots (d : Nat) (x : Drover) : (setDrover d x s).liveSlots = s.liveSlots := rfl
@[simp] theorem setDrover_liveCellar (d : Nat) (x : Drover) : (setDrover d x s).liveCellar = s.liveCellar := rfl
@[simp] theorem setDrover_results (d : Nat) (x : Drover) : (setDrover d x s).results = s.results := rfl
@[simp] theorem setDrover_ramps (d : Nat) (x : Drover) : (setDrover d x s).ramps = s.ramps := rfl
@[simp] theorem setDrover_meters (d : Nat) (x : Drover) : (setDrover d x s).meters = s.meters := rfl
@[simp] theorem setDrover_strips (d : Nat) (x : Drover) : (setDrover d x s).strips = s.strips := rfl
@[simp] theorem setDrover_liveTasks (d : Nat) (x : Drover) : (setDrover d x s).liveTasks = s.liveTasks := rfl
@[simp] theorem setDrover_livePosts (d : Nat) (x : Drover) : (setDrover d x s).livePosts = s.livePosts := rfl
@[simp] theorem setDrover_brews (d : Nat) (x : Drover) : (setDrover d x s).brews = s.brews := rfl
@[simp] theorem setDrover_directWait (d : Nat) (x : Drover) : (setDrover d x s).directWait = s.directWait := rfl
@[simp] theorem setDrover_groups (d : Nat) (x : Drover) : (setDrover d x s).groups = s.groups := rfl
@[simp] theorem setDrover_tapKnown (d : Nat) (x : Drover) : (setDrover d x s).tapKnown = s.tapKnown := rfl
@[simp] theorem setDrover_ports (d : Nat) (x : Drover) : (setDrover d x s).ports = s.ports := rfl
@[simp] theorem setDrover_traces (d : Nat) (x : Drover) : (setDrover d x s).traces = s.traces := rfl
@[simp] theorem setDrover_rxCells (d : Nat) (x : Drover) : (setDrover d x s).rxCells = s.rxCells := rfl
@[simp] theorem setDrover_prbs (d : Nat) (x : Drover) : (setDrover d x s).prbs = s.prbs := rfl
@[simp] theorem setDrover_mgmt (d : Nat) (x : Drover) : (setDrover d x s).mgmt = s.mgmt := rfl
@[simp] theorem setDrover_timeq (d : Nat) (x : Drover) : (setDrover d x s).timeq = s.timeq := rfl
@[simp] theorem setDrover_acqq (d : Nat) (x : Drover) : (setDrover d x s).acqq = s.acqq := rfl
@[simp] theorem setDrover_liveRx (d : Nat) (x : Drover) : (setDrover d x s).liveRx = s.liveRx := rfl
@[simp] theorem setDrover_team (d : Nat) (x : Drover) : (setDrover d x s).team = s.team := rfl
@[simp] theorem setDrover_routes (d : Nat) (x : Drover) : (setDrover d x s).routes = s.routes := rfl
@[simp] theorem setDrover_annCount (d : Nat) (x : Drover) : (setDrover d x s).annCount = s.annCount := rfl
@[simp] theorem setDrover_parentRun (d : Nat) (x : Drover) : (setDrover d x s).parentRun = s.parentRun := rfl
@[simp] theorem setDrover_margins (d : Nat) (x : Drover) : (setDrover d x s).margins = s.margins := rfl
@[simp] theorem setDrover_pair (d : Nat) (x : Drover) : (setDrover d x s).pair = s.pair := rfl
@[simp] theorem setDrover_liveAreas (d : Nat) (x : Drover) : (setDrover d x s).liveAreas = s.liveAreas := rfl
@[simp] theorem setDrover_liveRegs (d : Nat) (x : Drover) : (setDrover d x s).liveRegs = s.liveRegs := rfl
@[simp] theorem setDrover_liveSweep (d : Nat) (x : Drover) : (setDrover d x s).liveSweep = s.liveSweep := rfl
@[simp] theorem setDrover_domA (d : Nat) (x : Drover) : (setDrover d x s).domA = s.domA := rfl
@[simp] theorem setDrover_domB (d : Nat) (x : Drover) : (setDrover d x s).domB = s.domB := rfl
@[simp] theorem setDrover_comma (d : Nat) (x : Drover) : (setDrover d x s).comma = s.comma := rfl
@[simp] theorem setDrover_pulses (d : Nat) (x : Drover) : (setDrover d x s).pulses = s.pulses := rfl
@[simp] theorem setDrover_aligns (d : Nat) (x : Drover) : (setDrover d x s).aligns = s.aligns := rfl
@[simp] theorem setDrover_history (d : Nat) (x : Drover) : (setDrover d x s).history = s.history := rfl
@[simp] theorem setDrover_fromFree (d : Nat) (x : Drover) : (setDrover d x s).fromFree = s.fromFree := rfl
@[simp] theorem setDrover_remap (d : Nat) (x : Drover) : (setDrover d x s).remap = s.remap := rfl
@[simp] theorem setDrover_amps (d : Nat) (x : Drover) : (setDrover d x s).amps = s.amps := rfl
@[simp] theorem setDrover_reqLimit (d : Nat) (x : Drover) : (setDrover d x s).reqLimit = s.reqLimit := rfl
@[simp] theorem setDrover_ovrBalls (d : Nat) (x : Drover) : (setDrover d x s).ovrBalls = s.ovrBalls := rfl
@[simp] theorem setDrover_ovrHist (d : Nat) (x : Drover) : (setDrover d x s).ovrHist = s.ovrHist := rfl
@[simp] theorem setDrover_power (d : Nat) (x : Drover) : (setDrover d x s).power = s.power := rfl
@[simp] theorem setDrover_liveStreams (d : Nat) (x : Drover) : (setDrover d x s).liveStreams = s.liveStreams := rfl

/-! ### setChan -/

@[simp] theorem setChan_pending (i : Nat) (x : ChanDesc) : (setChan i x s).pending = s.pending := rfl
@[simp] theorem setChan_regs (i : Nat) (x : ChanDesc) : (setChan i x s).regs = s.regs := rfl
@[simp] theorem setChan_mem (i : Nat) (x : ChanDesc) : (setChan i x s).mem = s.mem := rfl
@[simp] theorem setChan_fresh (i : Nat) (x : ChanDesc) : (setChan i x s).fresh = s.fresh := rfl
@[simp] theorem setChan_frame (i : Nat) (x : ChanDesc) : (setChan i x s).frame = s.frame := rfl
@[simp] theorem setChan_tick (i : Nat) (x : ChanDesc) : (setChan i x s).tick = s.tick := rfl
@[simp] theorem setChan_tickPrev (i : Nat) (x : ChanDesc) : (setChan i x s).tickPrev = s.tickPrev := rfl
@[simp] theorem setChan_mode (i : Nat) (x : ChanDesc) : (setChan i x s).mode = s.mode := rfl
@[simp] theorem setChan_fs (i : Nat) (x : ChanDesc) : (setChan i x s).fs = s.fs := rfl
@[simp] theorem setChan_units (i : Nat) (x : ChanDesc) : (setChan i x s).units = s.units := rfl
@[simp] theorem setChan_stalls (i : Nat) (x : ChanDesc) : (setChan i x s).stalls = s.stalls := rfl
@[simp] theorem setChan_pages (i : Nat) (x : ChanDesc) : (setChan i x s).pages = s.pages := rfl
@[simp] theorem setChan_progMem (i : Nat) (x : ChanDesc) : (setChan i x s).progMem = s.progMem := rfl
@[simp] theorem setChan_outs (i : Nat) (x : ChanDesc) : (setChan i x s).outs = s.outs := rfl
@[simp] theorem setChan_outFlight (i : Nat) (x : ChanDesc) : (setChan i x s).outFlight = s.outFlight := rfl
@[simp] theorem setChan_posts (i : Nat) (x : ChanDesc) : (setChan i x s).posts = s.posts := rfl
@[simp] theorem setChan_ueWords (i : Nat) (x : ChanDesc) : (setChan i x s).ueWords = s.ueWords := rfl
@[simp] theorem setChan_ceWords (i : Nat) (x : ChanDesc) : (setChan i x s).ceWords = s.ceWords := rfl
@[simp] theorem setChan_fg (i : Nat) (x : ChanDesc) : (setChan i x s).fg = s.fg := rfl
@[simp] theorem setChan_ledger (i : Nat) (x : ChanDesc) : (setChan i x s).ledger = s.ledger := rfl
@[simp] theorem setChan_evtWait (i : Nat) (x : ChanDesc) : (setChan i x s).evtWait = s.evtWait := rfl
@[simp] theorem setChan_lastRead (i : Nat) (x : ChanDesc) : (setChan i x s).lastRead = s.lastRead := rfl
@[simp] theorem setChan_latches (i : Nat) (x : ChanDesc) : (setChan i x s).latches = s.latches := rfl
@[simp] theorem setChan_tokenBad (i : Nat) (x : ChanDesc) : (setChan i x s).tokenBad = s.tokenBad := rfl
@[simp] theorem setChan_passCe (i : Nat) (x : ChanDesc) : (setChan i x s).passCe = s.passCe := rfl
@[simp] theorem setChan_retrainPend (i : Nat) (x : ChanDesc) : (setChan i x s).retrainPend = s.retrainPend := rfl
@[simp] theorem setChan_scrubAt (i : Nat) (x : ChanDesc) : (setChan i x s).scrubAt = s.scrubAt := rfl
@[simp] theorem setChan_arb (i : Nat) (x : ChanDesc) : (setChan i x s).arb = s.arb := rfl
@[simp] theorem setChan_bursts (i : Nat) (x : ChanDesc) : (setChan i x s).bursts = s.bursts := rfl
@[simp] theorem setChan_limiters (i : Nat) (x : ChanDesc) : (setChan i x s).limiters = s.limiters := rfl
@[simp] theorem setChan_drovers (i : Nat) (x : ChanDesc) : (setChan i x s).drovers = s.drovers := rfl
@[simp] theorem setChan_chans (i : Nat) (x : ChanDesc) : (setChan i x s).chans = smapSet (fun _ => chanEmpty) i x s.chans := rfl
@[simp] theorem setChan_drvMem (i : Nat) (x : ChanDesc) : (setChan i x s).drvMem = s.drvMem := rfl
@[simp] theorem setChan_lines (i : Nat) (x : ChanDesc) : (setChan i x s).lines = s.lines := rfl
@[simp] theorem setChan_staged (i : Nat) (x : ChanDesc) : (setChan i x s).staged = s.staged := rfl
@[simp] theorem setChan_rxq (i : Nat) (x : ChanDesc) : (setChan i x s).rxq = s.rxq := rfl
@[simp] theorem setChan_admitted (i : Nat) (x : ChanDesc) : (setChan i x s).admitted = s.admitted := rfl
@[simp] theorem setChan_sessions (i : Nat) (x : ChanDesc) : (setChan i x s).sessions = s.sessions := rfl
@[simp] theorem setChan_oldSessions (i : Nat) (x : ChanDesc) : (setChan i x s).oldSessions = s.oldSessions := rfl
@[simp] theorem setChan_keys (i : Nat) (x : ChanDesc) : (setChan i x s).keys = s.keys := rfl
@[simp] theorem setChan_txq (i : Nat) (x : ChanDesc) : (setChan i x s).txq = s.txq := rfl
@[simp] theorem setChan_sent (i : Nat) (x : ChanDesc) : (setChan i x s).sent = s.sent := rfl
@[simp] theorem setChan_spiFlags (i : Nat) (x : ChanDesc) : (setChan i x s).spiFlags = s.spiFlags := rfl
@[simp] theorem setChan_arp (i : Nat) (x : ChanDesc) : (setChan i x s).arp = s.arp := rfl
@[simp] theorem setChan_evtLog (i : Nat) (x : ChanDesc) : (setChan i x s).evtLog = s.evtLog := rfl
@[simp] theorem setChan_evtWord (i : Nat) (x : ChanDesc) : (setChan i x s).evtWord = s.evtWord := rfl
@[simp] theorem setChan_seqClosed (i : Nat) (x : ChanDesc) : (setChan i x s).seqClosed = s.seqClosed := rfl
@[simp] theorem setChan_seqSnap (i : Nat) (x : ChanDesc) : (setChan i x s).seqSnap = s.seqSnap := rfl
@[simp] theorem setChan_seqPend (i : Nat) (x : ChanDesc) : (setChan i x s).seqPend = s.seqPend := rfl
@[simp] theorem setChan_seqAud (i : Nat) (x : ChanDesc) : (setChan i x s).seqAud = s.seqAud := rfl
@[simp] theorem setChan_seqAudFrame (i : Nat) (x : ChanDesc) : (setChan i x s).seqAudFrame = s.seqAudFrame := rfl
@[simp] theorem setChan_jobs (i : Nat) (x : ChanDesc) : (setChan i x s).jobs = s.jobs := rfl
@[simp] theorem setChan_regions (i : Nat) (x : ChanDesc) : (setChan i x s).regions = s.regions := rfl
@[simp] theorem setChan_ownSessions (i : Nat) (x : ChanDesc) : (setChan i x s).ownSessions = s.ownSessions := rfl
@[simp] theorem setChan_ownReqs (i : Nat) (x : ChanDesc) : (setChan i x s).ownReqs = s.ownReqs := rfl
@[simp] theorem setChan_replies (i : Nat) (x : ChanDesc) : (setChan i x s).replies = s.replies := rfl
@[simp] theorem setChan_work (i : Nat) (x : ChanDesc) : (setChan i x s).work = s.work := rfl
@[simp] theorem setChan_live (i : Nat) (x : ChanDesc) : (setChan i x s).live = s.live := rfl
@[simp] theorem setChan_kernels (i : Nat) (x : ChanDesc) : (setChan i x s).kernels = s.kernels := rfl
@[simp] theorem setChan_partials (i : Nat) (x : ChanDesc) : (setChan i x s).partials = s.partials := rfl
@[simp] theorem setChan_params (i : Nat) (x : ChanDesc) : (setChan i x s).params = s.params := rfl
@[simp] theorem setChan_liveParams (i : Nat) (x : ChanDesc) : (setChan i x s).liveParams = s.liveParams := rfl
@[simp] theorem setChan_liveSlots (i : Nat) (x : ChanDesc) : (setChan i x s).liveSlots = s.liveSlots := rfl
@[simp] theorem setChan_liveCellar (i : Nat) (x : ChanDesc) : (setChan i x s).liveCellar = s.liveCellar := rfl
@[simp] theorem setChan_results (i : Nat) (x : ChanDesc) : (setChan i x s).results = s.results := rfl
@[simp] theorem setChan_ramps (i : Nat) (x : ChanDesc) : (setChan i x s).ramps = s.ramps := rfl
@[simp] theorem setChan_meters (i : Nat) (x : ChanDesc) : (setChan i x s).meters = s.meters := rfl
@[simp] theorem setChan_strips (i : Nat) (x : ChanDesc) : (setChan i x s).strips = s.strips := rfl
@[simp] theorem setChan_liveTasks (i : Nat) (x : ChanDesc) : (setChan i x s).liveTasks = s.liveTasks := rfl
@[simp] theorem setChan_livePosts (i : Nat) (x : ChanDesc) : (setChan i x s).livePosts = s.livePosts := rfl
@[simp] theorem setChan_brews (i : Nat) (x : ChanDesc) : (setChan i x s).brews = s.brews := rfl
@[simp] theorem setChan_directWait (i : Nat) (x : ChanDesc) : (setChan i x s).directWait = s.directWait := rfl
@[simp] theorem setChan_groups (i : Nat) (x : ChanDesc) : (setChan i x s).groups = s.groups := rfl
@[simp] theorem setChan_tapKnown (i : Nat) (x : ChanDesc) : (setChan i x s).tapKnown = s.tapKnown := rfl
@[simp] theorem setChan_ports (i : Nat) (x : ChanDesc) : (setChan i x s).ports = s.ports := rfl
@[simp] theorem setChan_traces (i : Nat) (x : ChanDesc) : (setChan i x s).traces = s.traces := rfl
@[simp] theorem setChan_rxCells (i : Nat) (x : ChanDesc) : (setChan i x s).rxCells = s.rxCells := rfl
@[simp] theorem setChan_prbs (i : Nat) (x : ChanDesc) : (setChan i x s).prbs = s.prbs := rfl
@[simp] theorem setChan_mgmt (i : Nat) (x : ChanDesc) : (setChan i x s).mgmt = s.mgmt := rfl
@[simp] theorem setChan_timeq (i : Nat) (x : ChanDesc) : (setChan i x s).timeq = s.timeq := rfl
@[simp] theorem setChan_acqq (i : Nat) (x : ChanDesc) : (setChan i x s).acqq = s.acqq := rfl
@[simp] theorem setChan_liveRx (i : Nat) (x : ChanDesc) : (setChan i x s).liveRx = s.liveRx := rfl
@[simp] theorem setChan_team (i : Nat) (x : ChanDesc) : (setChan i x s).team = s.team := rfl
@[simp] theorem setChan_routes (i : Nat) (x : ChanDesc) : (setChan i x s).routes = s.routes := rfl
@[simp] theorem setChan_annCount (i : Nat) (x : ChanDesc) : (setChan i x s).annCount = s.annCount := rfl
@[simp] theorem setChan_parentRun (i : Nat) (x : ChanDesc) : (setChan i x s).parentRun = s.parentRun := rfl
@[simp] theorem setChan_margins (i : Nat) (x : ChanDesc) : (setChan i x s).margins = s.margins := rfl
@[simp] theorem setChan_pair (i : Nat) (x : ChanDesc) : (setChan i x s).pair = s.pair := rfl
@[simp] theorem setChan_liveAreas (i : Nat) (x : ChanDesc) : (setChan i x s).liveAreas = s.liveAreas := rfl
@[simp] theorem setChan_liveRegs (i : Nat) (x : ChanDesc) : (setChan i x s).liveRegs = s.liveRegs := rfl
@[simp] theorem setChan_liveSweep (i : Nat) (x : ChanDesc) : (setChan i x s).liveSweep = s.liveSweep := rfl
@[simp] theorem setChan_domA (i : Nat) (x : ChanDesc) : (setChan i x s).domA = s.domA := rfl
@[simp] theorem setChan_domB (i : Nat) (x : ChanDesc) : (setChan i x s).domB = s.domB := rfl
@[simp] theorem setChan_comma (i : Nat) (x : ChanDesc) : (setChan i x s).comma = s.comma := rfl
@[simp] theorem setChan_pulses (i : Nat) (x : ChanDesc) : (setChan i x s).pulses = s.pulses := rfl
@[simp] theorem setChan_aligns (i : Nat) (x : ChanDesc) : (setChan i x s).aligns = s.aligns := rfl
@[simp] theorem setChan_history (i : Nat) (x : ChanDesc) : (setChan i x s).history = s.history := rfl
@[simp] theorem setChan_fromFree (i : Nat) (x : ChanDesc) : (setChan i x s).fromFree = s.fromFree := rfl
@[simp] theorem setChan_remap (i : Nat) (x : ChanDesc) : (setChan i x s).remap = s.remap := rfl
@[simp] theorem setChan_amps (i : Nat) (x : ChanDesc) : (setChan i x s).amps = s.amps := rfl
@[simp] theorem setChan_reqLimit (i : Nat) (x : ChanDesc) : (setChan i x s).reqLimit = s.reqLimit := rfl
@[simp] theorem setChan_ovrBalls (i : Nat) (x : ChanDesc) : (setChan i x s).ovrBalls = s.ovrBalls := rfl
@[simp] theorem setChan_ovrHist (i : Nat) (x : ChanDesc) : (setChan i x s).ovrHist = s.ovrHist := rfl
@[simp] theorem setChan_power (i : Nat) (x : ChanDesc) : (setChan i x s).power = s.power := rfl
@[simp] theorem setChan_liveStreams (i : Nat) (x : ChanDesc) : (setChan i x s).liveStreams = s.liveStreams := rfl

/-! ### raise -/

@[simp] theorem raise_pending (c x y : Nat) : (raise c x y s).pending = s.pending := rfl
@[simp] theorem raise_regs (c x y : Nat) : (raise c x y s).regs = s.regs := rfl
@[simp] theorem raise_mem (c x y : Nat) : (raise c x y s).mem = s.mem := rfl
@[simp] theorem raise_fresh (c x y : Nat) : (raise c x y s).fresh = s.fresh := rfl
@[simp] theorem raise_frame (c x y : Nat) : (raise c x y s).frame = s.frame := rfl
@[simp] theorem raise_tick (c x y : Nat) : (raise c x y s).tick = s.tick := rfl
@[simp] theorem raise_tickPrev (c x y : Nat) : (raise c x y s).tickPrev = s.tickPrev := rfl
@[simp] theorem raise_mode (c x y : Nat) : (raise c x y s).mode = s.mode := rfl
@[simp] theorem raise_fs (c x y : Nat) : (raise c x y s).fs = s.fs := rfl
@[simp] theorem raise_units (c x y : Nat) : (raise c x y s).units = s.units := rfl
@[simp] theorem raise_stalls (c x y : Nat) : (raise c x y s).stalls = s.stalls := rfl
@[simp] theorem raise_pages (c x y : Nat) : (raise c x y s).pages = s.pages := rfl
@[simp] theorem raise_progMem (c x y : Nat) : (raise c x y s).progMem = s.progMem := rfl
@[simp] theorem raise_outs (c x y : Nat) : (raise c x y s).outs = s.outs := rfl
@[simp] theorem raise_outFlight (c x y : Nat) : (raise c x y s).outFlight = s.outFlight := rfl
@[simp] theorem raise_posts (c x y : Nat) : (raise c x y s).posts = s.posts := rfl
@[simp] theorem raise_ueWords (c x y : Nat) : (raise c x y s).ueWords = s.ueWords := rfl
@[simp] theorem raise_ceWords (c x y : Nat) : (raise c x y s).ceWords = s.ceWords := rfl
@[simp] theorem raise_fg (c x y : Nat) : (raise c x y s).fg = s.fg := rfl
@[simp] theorem raise_ledger (c x y : Nat) : (raise c x y s).ledger = s.ledger := rfl
@[simp] theorem raise_lastRead (c x y : Nat) : (raise c x y s).lastRead = s.lastRead := rfl
@[simp] theorem raise_latches (c x y : Nat) : (raise c x y s).latches = s.latches := rfl
@[simp] theorem raise_tokenBad (c x y : Nat) : (raise c x y s).tokenBad = s.tokenBad := rfl
@[simp] theorem raise_passCe (c x y : Nat) : (raise c x y s).passCe = s.passCe := rfl
@[simp] theorem raise_retrainPend (c x y : Nat) : (raise c x y s).retrainPend = s.retrainPend := rfl
@[simp] theorem raise_scrubAt (c x y : Nat) : (raise c x y s).scrubAt = s.scrubAt := rfl
@[simp] theorem raise_arb (c x y : Nat) : (raise c x y s).arb = s.arb := rfl
@[simp] theorem raise_bursts (c x y : Nat) : (raise c x y s).bursts = s.bursts := rfl
@[simp] theorem raise_limiters (c x y : Nat) : (raise c x y s).limiters = s.limiters := rfl
@[simp] theorem raise_drovers (c x y : Nat) : (raise c x y s).drovers = s.drovers := rfl
@[simp] theorem raise_chans (c x y : Nat) : (raise c x y s).chans = s.chans := rfl
@[simp] theorem raise_drvMem (c x y : Nat) : (raise c x y s).drvMem = s.drvMem := rfl
@[simp] theorem raise_lines (c x y : Nat) : (raise c x y s).lines = s.lines := rfl
@[simp] theorem raise_staged (c x y : Nat) : (raise c x y s).staged = s.staged := rfl
@[simp] theorem raise_rxq (c x y : Nat) : (raise c x y s).rxq = s.rxq := rfl
@[simp] theorem raise_admitted (c x y : Nat) : (raise c x y s).admitted = s.admitted := rfl
@[simp] theorem raise_sessions (c x y : Nat) : (raise c x y s).sessions = s.sessions := rfl
@[simp] theorem raise_oldSessions (c x y : Nat) : (raise c x y s).oldSessions = s.oldSessions := rfl
@[simp] theorem raise_keys (c x y : Nat) : (raise c x y s).keys = s.keys := rfl
@[simp] theorem raise_txq (c x y : Nat) : (raise c x y s).txq = s.txq := rfl
@[simp] theorem raise_sent (c x y : Nat) : (raise c x y s).sent = s.sent := rfl
@[simp] theorem raise_spiFlags (c x y : Nat) : (raise c x y s).spiFlags = s.spiFlags := rfl
@[simp] theorem raise_arp (c x y : Nat) : (raise c x y s).arp = s.arp := rfl
@[simp] theorem raise_evtLog (c x y : Nat) : (raise c x y s).evtLog = s.evtLog := rfl
@[simp] theorem raise_evtWord (c x y : Nat) : (raise c x y s).evtWord = s.evtWord := rfl
@[simp] theorem raise_seqClosed (c x y : Nat) : (raise c x y s).seqClosed = s.seqClosed := rfl
@[simp] theorem raise_seqSnap (c x y : Nat) : (raise c x y s).seqSnap = s.seqSnap := rfl
@[simp] theorem raise_seqPend (c x y : Nat) : (raise c x y s).seqPend = s.seqPend := rfl
@[simp] theorem raise_seqAud (c x y : Nat) : (raise c x y s).seqAud = s.seqAud := rfl
@[simp] theorem raise_seqAudFrame (c x y : Nat) : (raise c x y s).seqAudFrame = s.seqAudFrame := rfl
@[simp] theorem raise_jobs (c x y : Nat) : (raise c x y s).jobs = s.jobs := rfl
@[simp] theorem raise_regions (c x y : Nat) : (raise c x y s).regions = s.regions := rfl
@[simp] theorem raise_ownSessions (c x y : Nat) : (raise c x y s).ownSessions = s.ownSessions := rfl
@[simp] theorem raise_ownReqs (c x y : Nat) : (raise c x y s).ownReqs = s.ownReqs := rfl
@[simp] theorem raise_replies (c x y : Nat) : (raise c x y s).replies = s.replies := rfl
@[simp] theorem raise_work (c x y : Nat) : (raise c x y s).work = s.work := rfl
@[simp] theorem raise_live (c x y : Nat) : (raise c x y s).live = s.live := rfl
@[simp] theorem raise_kernels (c x y : Nat) : (raise c x y s).kernels = s.kernels := rfl
@[simp] theorem raise_partials (c x y : Nat) : (raise c x y s).partials = s.partials := rfl
@[simp] theorem raise_params (c x y : Nat) : (raise c x y s).params = s.params := rfl
@[simp] theorem raise_liveParams (c x y : Nat) : (raise c x y s).liveParams = s.liveParams := rfl
@[simp] theorem raise_liveSlots (c x y : Nat) : (raise c x y s).liveSlots = s.liveSlots := rfl
@[simp] theorem raise_liveCellar (c x y : Nat) : (raise c x y s).liveCellar = s.liveCellar := rfl
@[simp] theorem raise_results (c x y : Nat) : (raise c x y s).results = s.results := rfl
@[simp] theorem raise_ramps (c x y : Nat) : (raise c x y s).ramps = s.ramps := rfl
@[simp] theorem raise_meters (c x y : Nat) : (raise c x y s).meters = s.meters := rfl
@[simp] theorem raise_strips (c x y : Nat) : (raise c x y s).strips = s.strips := rfl
@[simp] theorem raise_liveTasks (c x y : Nat) : (raise c x y s).liveTasks = s.liveTasks := rfl
@[simp] theorem raise_livePosts (c x y : Nat) : (raise c x y s).livePosts = s.livePosts := rfl
@[simp] theorem raise_brews (c x y : Nat) : (raise c x y s).brews = s.brews := rfl
@[simp] theorem raise_directWait (c x y : Nat) : (raise c x y s).directWait = s.directWait := rfl
@[simp] theorem raise_groups (c x y : Nat) : (raise c x y s).groups = s.groups := rfl
@[simp] theorem raise_tapKnown (c x y : Nat) : (raise c x y s).tapKnown = s.tapKnown := rfl
@[simp] theorem raise_ports (c x y : Nat) : (raise c x y s).ports = s.ports := rfl
@[simp] theorem raise_traces (c x y : Nat) : (raise c x y s).traces = s.traces := rfl
@[simp] theorem raise_rxCells (c x y : Nat) : (raise c x y s).rxCells = s.rxCells := rfl
@[simp] theorem raise_prbs (c x y : Nat) : (raise c x y s).prbs = s.prbs := rfl
@[simp] theorem raise_mgmt (c x y : Nat) : (raise c x y s).mgmt = s.mgmt := rfl
@[simp] theorem raise_timeq (c x y : Nat) : (raise c x y s).timeq = s.timeq := rfl
@[simp] theorem raise_acqq (c x y : Nat) : (raise c x y s).acqq = s.acqq := rfl
@[simp] theorem raise_liveRx (c x y : Nat) : (raise c x y s).liveRx = s.liveRx := rfl
@[simp] theorem raise_team (c x y : Nat) : (raise c x y s).team = s.team := rfl
@[simp] theorem raise_routes (c x y : Nat) : (raise c x y s).routes = s.routes := rfl
@[simp] theorem raise_annCount (c x y : Nat) : (raise c x y s).annCount = s.annCount := rfl
@[simp] theorem raise_parentRun (c x y : Nat) : (raise c x y s).parentRun = s.parentRun := rfl
@[simp] theorem raise_margins (c x y : Nat) : (raise c x y s).margins = s.margins := rfl
@[simp] theorem raise_pair (c x y : Nat) : (raise c x y s).pair = s.pair := rfl
@[simp] theorem raise_liveAreas (c x y : Nat) : (raise c x y s).liveAreas = s.liveAreas := rfl
@[simp] theorem raise_liveRegs (c x y : Nat) : (raise c x y s).liveRegs = s.liveRegs := rfl
@[simp] theorem raise_liveSweep (c x y : Nat) : (raise c x y s).liveSweep = s.liveSweep := rfl
@[simp] theorem raise_domA (c x y : Nat) : (raise c x y s).domA = s.domA := rfl
@[simp] theorem raise_domB (c x y : Nat) : (raise c x y s).domB = s.domB := rfl
@[simp] theorem raise_comma (c x y : Nat) : (raise c x y s).comma = s.comma := rfl
@[simp] theorem raise_pulses (c x y : Nat) : (raise c x y s).pulses = s.pulses := rfl
@[simp] theorem raise_aligns (c x y : Nat) : (raise c x y s).aligns = s.aligns := rfl
@[simp] theorem raise_history (c x y : Nat) : (raise c x y s).history = s.history := rfl
@[simp] theorem raise_fromFree (c x y : Nat) : (raise c x y s).fromFree = s.fromFree := rfl
@[simp] theorem raise_remap (c x y : Nat) : (raise c x y s).remap = s.remap := rfl
@[simp] theorem raise_amps (c x y : Nat) : (raise c x y s).amps = s.amps := rfl
@[simp] theorem raise_reqLimit (c x y : Nat) : (raise c x y s).reqLimit = s.reqLimit := rfl
@[simp] theorem raise_ovrBalls (c x y : Nat) : (raise c x y s).ovrBalls = s.ovrBalls := rfl
@[simp] theorem raise_ovrHist (c x y : Nat) : (raise c x y s).ovrHist = s.ovrHist := rfl
@[simp] theorem raise_power (c x y : Nat) : (raise c x y s).power = s.power := rfl
@[simp] theorem raise_liveStreams (c x y : Nat) : (raise c x y s).liveStreams = s.liveStreams := rfl

/-! ### sendOut -/

@[simp] theorem sendOut_pending (x : Sent) : (sendOut x s).pending = s.pending := rfl
@[simp] theorem sendOut_regs (x : Sent) : (sendOut x s).regs = s.regs := rfl
@[simp] theorem sendOut_mem (x : Sent) : (sendOut x s).mem = s.mem := rfl
@[simp] theorem sendOut_fresh (x : Sent) : (sendOut x s).fresh = s.fresh := rfl
@[simp] theorem sendOut_frame (x : Sent) : (sendOut x s).frame = s.frame := rfl
@[simp] theorem sendOut_tick (x : Sent) : (sendOut x s).tick = s.tick := rfl
@[simp] theorem sendOut_tickPrev (x : Sent) : (sendOut x s).tickPrev = s.tickPrev := rfl
@[simp] theorem sendOut_mode (x : Sent) : (sendOut x s).mode = s.mode := rfl
@[simp] theorem sendOut_fs (x : Sent) : (sendOut x s).fs = s.fs := rfl
@[simp] theorem sendOut_units (x : Sent) : (sendOut x s).units = s.units := rfl
@[simp] theorem sendOut_stalls (x : Sent) : (sendOut x s).stalls = s.stalls := rfl
@[simp] theorem sendOut_pages (x : Sent) : (sendOut x s).pages = s.pages := rfl
@[simp] theorem sendOut_progMem (x : Sent) : (sendOut x s).progMem = s.progMem := rfl
@[simp] theorem sendOut_outs (x : Sent) : (sendOut x s).outs = s.outs := rfl
@[simp] theorem sendOut_outFlight (x : Sent) : (sendOut x s).outFlight = s.outFlight := rfl
@[simp] theorem sendOut_posts (x : Sent) : (sendOut x s).posts = s.posts := rfl
@[simp] theorem sendOut_ueWords (x : Sent) : (sendOut x s).ueWords = s.ueWords := rfl
@[simp] theorem sendOut_ceWords (x : Sent) : (sendOut x s).ceWords = s.ceWords := rfl
@[simp] theorem sendOut_fg (x : Sent) : (sendOut x s).fg = s.fg := rfl
@[simp] theorem sendOut_ledger (x : Sent) : (sendOut x s).ledger = s.ledger := rfl
@[simp] theorem sendOut_evtWait (x : Sent) : (sendOut x s).evtWait = s.evtWait := rfl
@[simp] theorem sendOut_lastRead (x : Sent) : (sendOut x s).lastRead = s.lastRead := rfl
@[simp] theorem sendOut_latches (x : Sent) : (sendOut x s).latches = s.latches := rfl
@[simp] theorem sendOut_tokenBad (x : Sent) : (sendOut x s).tokenBad = s.tokenBad := rfl
@[simp] theorem sendOut_passCe (x : Sent) : (sendOut x s).passCe = s.passCe := rfl
@[simp] theorem sendOut_retrainPend (x : Sent) : (sendOut x s).retrainPend = s.retrainPend := rfl
@[simp] theorem sendOut_scrubAt (x : Sent) : (sendOut x s).scrubAt = s.scrubAt := rfl
@[simp] theorem sendOut_arb (x : Sent) : (sendOut x s).arb = s.arb := rfl
@[simp] theorem sendOut_bursts (x : Sent) : (sendOut x s).bursts = s.bursts := rfl
@[simp] theorem sendOut_limiters (x : Sent) : (sendOut x s).limiters = s.limiters := rfl
@[simp] theorem sendOut_drovers (x : Sent) : (sendOut x s).drovers = s.drovers := rfl
@[simp] theorem sendOut_chans (x : Sent) : (sendOut x s).chans = s.chans := rfl
@[simp] theorem sendOut_drvMem (x : Sent) : (sendOut x s).drvMem = s.drvMem := rfl
@[simp] theorem sendOut_lines (x : Sent) : (sendOut x s).lines = s.lines := rfl
@[simp] theorem sendOut_staged (x : Sent) : (sendOut x s).staged = s.staged := rfl
@[simp] theorem sendOut_rxq (x : Sent) : (sendOut x s).rxq = s.rxq := rfl
@[simp] theorem sendOut_admitted (x : Sent) : (sendOut x s).admitted = s.admitted := rfl
@[simp] theorem sendOut_sessions (x : Sent) : (sendOut x s).sessions = s.sessions := rfl
@[simp] theorem sendOut_oldSessions (x : Sent) : (sendOut x s).oldSessions = s.oldSessions := rfl
@[simp] theorem sendOut_keys (x : Sent) : (sendOut x s).keys = s.keys := rfl
@[simp] theorem sendOut_txq (x : Sent) : (sendOut x s).txq = s.txq := rfl
@[simp] theorem sendOut_spiFlags (x : Sent) : (sendOut x s).spiFlags = s.spiFlags := rfl
@[simp] theorem sendOut_arp (x : Sent) : (sendOut x s).arp = s.arp := rfl
@[simp] theorem sendOut_evtLog (x : Sent) : (sendOut x s).evtLog = s.evtLog := rfl
@[simp] theorem sendOut_evtWord (x : Sent) : (sendOut x s).evtWord = s.evtWord := rfl
@[simp] theorem sendOut_seqClosed (x : Sent) : (sendOut x s).seqClosed = s.seqClosed := rfl
@[simp] theorem sendOut_seqSnap (x : Sent) : (sendOut x s).seqSnap = s.seqSnap := rfl
@[simp] theorem sendOut_seqPend (x : Sent) : (sendOut x s).seqPend = s.seqPend := rfl
@[simp] theorem sendOut_seqAud (x : Sent) : (sendOut x s).seqAud = s.seqAud := rfl
@[simp] theorem sendOut_seqAudFrame (x : Sent) : (sendOut x s).seqAudFrame = s.seqAudFrame := rfl
@[simp] theorem sendOut_jobs (x : Sent) : (sendOut x s).jobs = s.jobs := rfl
@[simp] theorem sendOut_regions (x : Sent) : (sendOut x s).regions = s.regions := rfl
@[simp] theorem sendOut_ownSessions (x : Sent) : (sendOut x s).ownSessions = s.ownSessions := rfl
@[simp] theorem sendOut_ownReqs (x : Sent) : (sendOut x s).ownReqs = s.ownReqs := rfl
@[simp] theorem sendOut_replies (x : Sent) : (sendOut x s).replies = s.replies := rfl
@[simp] theorem sendOut_work (x : Sent) : (sendOut x s).work = s.work := rfl
@[simp] theorem sendOut_live (x : Sent) : (sendOut x s).live = s.live := rfl
@[simp] theorem sendOut_kernels (x : Sent) : (sendOut x s).kernels = s.kernels := rfl
@[simp] theorem sendOut_partials (x : Sent) : (sendOut x s).partials = s.partials := rfl
@[simp] theorem sendOut_params (x : Sent) : (sendOut x s).params = s.params := rfl
@[simp] theorem sendOut_liveParams (x : Sent) : (sendOut x s).liveParams = s.liveParams := rfl
@[simp] theorem sendOut_liveSlots (x : Sent) : (sendOut x s).liveSlots = s.liveSlots := rfl
@[simp] theorem sendOut_liveCellar (x : Sent) : (sendOut x s).liveCellar = s.liveCellar := rfl
@[simp] theorem sendOut_results (x : Sent) : (sendOut x s).results = s.results := rfl
@[simp] theorem sendOut_ramps (x : Sent) : (sendOut x s).ramps = s.ramps := rfl
@[simp] theorem sendOut_meters (x : Sent) : (sendOut x s).meters = s.meters := rfl
@[simp] theorem sendOut_strips (x : Sent) : (sendOut x s).strips = s.strips := rfl
@[simp] theorem sendOut_liveTasks (x : Sent) : (sendOut x s).liveTasks = s.liveTasks := rfl
@[simp] theorem sendOut_livePosts (x : Sent) : (sendOut x s).livePosts = s.livePosts := rfl
@[simp] theorem sendOut_brews (x : Sent) : (sendOut x s).brews = s.brews := rfl
@[simp] theorem sendOut_directWait (x : Sent) : (sendOut x s).directWait = s.directWait := rfl
@[simp] theorem sendOut_groups (x : Sent) : (sendOut x s).groups = s.groups := rfl
@[simp] theorem sendOut_tapKnown (x : Sent) : (sendOut x s).tapKnown = s.tapKnown := rfl
@[simp] theorem sendOut_ports (x : Sent) : (sendOut x s).ports = s.ports := rfl
@[simp] theorem sendOut_traces (x : Sent) : (sendOut x s).traces = s.traces := rfl
@[simp] theorem sendOut_rxCells (x : Sent) : (sendOut x s).rxCells = s.rxCells := rfl
@[simp] theorem sendOut_prbs (x : Sent) : (sendOut x s).prbs = s.prbs := rfl
@[simp] theorem sendOut_mgmt (x : Sent) : (sendOut x s).mgmt = s.mgmt := rfl
@[simp] theorem sendOut_timeq (x : Sent) : (sendOut x s).timeq = s.timeq := rfl
@[simp] theorem sendOut_acqq (x : Sent) : (sendOut x s).acqq = s.acqq := rfl
@[simp] theorem sendOut_liveRx (x : Sent) : (sendOut x s).liveRx = s.liveRx := rfl
@[simp] theorem sendOut_team (x : Sent) : (sendOut x s).team = s.team := rfl
@[simp] theorem sendOut_routes (x : Sent) : (sendOut x s).routes = s.routes := rfl
@[simp] theorem sendOut_annCount (x : Sent) : (sendOut x s).annCount = s.annCount := rfl
@[simp] theorem sendOut_parentRun (x : Sent) : (sendOut x s).parentRun = s.parentRun := rfl
@[simp] theorem sendOut_margins (x : Sent) : (sendOut x s).margins = s.margins := rfl
@[simp] theorem sendOut_pair (x : Sent) : (sendOut x s).pair = s.pair := rfl
@[simp] theorem sendOut_liveAreas (x : Sent) : (sendOut x s).liveAreas = s.liveAreas := rfl
@[simp] theorem sendOut_liveRegs (x : Sent) : (sendOut x s).liveRegs = s.liveRegs := rfl
@[simp] theorem sendOut_liveSweep (x : Sent) : (sendOut x s).liveSweep = s.liveSweep := rfl
@[simp] theorem sendOut_domA (x : Sent) : (sendOut x s).domA = s.domA := rfl
@[simp] theorem sendOut_domB (x : Sent) : (sendOut x s).domB = s.domB := rfl
@[simp] theorem sendOut_comma (x : Sent) : (sendOut x s).comma = s.comma := rfl
@[simp] theorem sendOut_pulses (x : Sent) : (sendOut x s).pulses = s.pulses := rfl
@[simp] theorem sendOut_aligns (x : Sent) : (sendOut x s).aligns = s.aligns := rfl
@[simp] theorem sendOut_history (x : Sent) : (sendOut x s).history = s.history := rfl
@[simp] theorem sendOut_fromFree (x : Sent) : (sendOut x s).fromFree = s.fromFree := rfl
@[simp] theorem sendOut_remap (x : Sent) : (sendOut x s).remap = s.remap := rfl
@[simp] theorem sendOut_amps (x : Sent) : (sendOut x s).amps = s.amps := rfl
@[simp] theorem sendOut_reqLimit (x : Sent) : (sendOut x s).reqLimit = s.reqLimit := rfl
@[simp] theorem sendOut_ovrBalls (x : Sent) : (sendOut x s).ovrBalls = s.ovrBalls := rfl
@[simp] theorem sendOut_ovrHist (x : Sent) : (sendOut x s).ovrHist = s.ovrHist := rfl
@[simp] theorem sendOut_power (x : Sent) : (sendOut x s).power = s.power := rfl
@[simp] theorem sendOut_liveStreams (x : Sent) : (sendOut x s).liveStreams = s.liveStreams := rfl

/-! ### Reading back -/

@[simp] theorem stallOf_setStall (k : Nat) (x : Stall) : stallOf (setStall k x s) k = x := smapGet_set_self _ _ _ _
theorem stallOf_setStall_ne (k j : Nat) (x : Stall) (h : j ≠ k) : stallOf (setStall k x s) j = stallOf s j := smapGet_set_ne _ _ _ h
@[simp] theorem unitOf_setUnit (k : Nat) (x : UnitRec) : unitOf (setUnit k x s) k = x := smapGet_set_self _ _ _ _
theorem unitOf_setUnit_ne (k j : Nat) (x : UnitRec) (h : j ≠ k) : unitOf (setUnit k x s) j = unitOf s j := smapGet_set_ne _ _ _ h
@[simp] theorem pagesOf_setPages (k : Nat) (x : Pages) : pagesOf (setPages k x s) k = x := smapGet_set_self _ _ _ _
theorem pagesOf_setPages_ne (k j : Nat) (x : Pages) (h : j ≠ k) : pagesOf (setPages k x s) j = pagesOf s j := smapGet_set_ne _ _ _ h
@[simp] theorem outOf_setOut (k : Nat) (x : OutCell) : outOf (setOut k x s) k = x := smapGet_set_self _ _ _ _
theorem outOf_setOut_ne (k j : Nat) (x : OutCell) (h : j ≠ k) : outOf (setOut k x s) j = outOf s j := smapGet_set_ne _ _ _ h
@[simp] theorem portOf_setPort (k : Nat) (x : PortSt) : portOf (setPort k x s) k = x := smapGet_set_self _ _ _ _
theorem portOf_setPort_ne (k j : Nat) (x : PortSt) (h : j ≠ k) : portOf (setPort k x s) j = portOf s j := smapGet_set_ne _ _ _ h
@[simp] theorem traceOf_setTrace (k : Nat) (x : TraceSt) : traceOf (setTrace k x s) k = x := smapGet_set_self _ _ _ _
theorem traceOf_setTrace_ne (k j : Nat) (x : TraceSt) (h : j ≠ k) : traceOf (setTrace k x s) j = traceOf s j := smapGet_set_ne _ _ _ h
@[simp] theorem ampOf_setAmp (k : Nat) (x : AmpSt) : ampOf (setAmp k x s) k = x := smapGet_set_self _ _ _ _
theorem ampOf_setAmp_ne (k j : Nat) (x : AmpSt) (h : j ≠ k) : ampOf (setAmp k x s) j = ampOf s j := smapGet_set_ne _ _ _ h
@[simp] theorem brewOf_setBrew (k : Nat) (x : Brew) : brewOf (setBrew k x s) k = x := smapGet_set_self _ _ _ _
theorem brewOf_setBrew_ne (k j : Nat) (x : Brew) (h : j ≠ k) : brewOf (setBrew k x s) j = brewOf s j := smapGet_set_ne _ _ _ h
@[simp] theorem droverOf_setDrover (k : Nat) (x : Drover) : droverOf (setDrover k x s) k = x := smapGet_set_self _ _ _ _
theorem droverOf_setDrover_ne (k j : Nat) (x : Drover) (h : j ≠ k) : droverOf (setDrover k x s) j = droverOf s j := smapGet_set_ne _ _ _ h
@[simp] theorem chanOf_setChan (k : Nat) (x : ChanDesc) : chanOf (setChan k x s) k = x := smapGet_set_self _ _ _ _
theorem chanOf_setChan_ne (k j : Nat) (x : ChanDesc) (h : j ≠ k) : chanOf (setChan k x s) j = chanOf s j := smapGet_set_ne _ _ _ h

/-- Setting, clearing and counting are writes of one field. -/
@[simp] theorem setBit_eq (f : RegField) (i : Nat) : setBit f i s = setFld f i 1 s := rfl
@[simp] theorem clrBit_eq (f : RegField) (i : Nat) : clrBit f i s = setFld f i 0 s := rfl

end Sys2Proof.Machine
end

