-- ==== Sys2Proof/Laws/Registers.lean ====
section
/-! SUPPORT. Reading a register, a field or a byte of memory after a write. -/

namespace Sys2Proof.Machine

variable (s : State)

@[simp] theorem regWord_setRegWord (a : Nat) (w : Word32) : regWord (setRegWord a w s) a = w := smapGet_set_self _ _ _ _

theorem regWord_setRegWord_ne (a b : Nat) (w : Word32) (h : b ≠ a) : regWord (setRegWord a w s) b = regWord s b :=
  smapGet_set_ne _ _ _ h

/-- A write of a field changes no register but its own. -/
theorem regWord_setFld_ne (f : RegField) (i v b : Nat) (h : b ≠ fieldAddr f i) : regWord (setFld f i v s) b = regWord s b :=
  regWord_setRegWord_ne s _ _ _ h

theorem fld_setFld_other (f g : RegField) (i j v : Nat) (h : fieldAddr g j ≠ fieldAddr f i) : fld (setFld f i v s) g j = fld s g j := by
  unfold fld
  rw [regWord_setFld_ne s f i v _ h]

/-- The bits of a field after the field is put. -/
theorem bitsOf_putBits (hi lo w v : Nat) : bitsOf hi lo (putBits hi lo w v) = v % 2 ^ (hi + 1 - lo) := by
  simp only [bitsOf, putBits, Nat.shiftRight_eq_div_pow]
  generalize hk : hi + 1 - lo = k
  have hp : 0 < 2 ^ lo := Nat.two_pow_pos lo
  have hq : 0 < 2 ^ k := Nat.two_pow_pos k
  have h1 : w - w / 2 ^ lo % 2 ^ k * 2 ^ lo = w / 2 ^ lo / 2 ^ k * 2 ^ k * 2 ^ lo + w % 2 ^ lo := by
    have e1 := Nat.div_add_mod w (2 ^ lo)
    have e2 := Nat.div_add_mod (w / 2 ^ lo) (2 ^ k)
    have e3 : w = (2 ^ k * (w / 2 ^ lo / 2 ^ k) + w / 2 ^ lo % 2 ^ k) * 2 ^ lo + w % 2 ^ lo := by rw [e2, Nat.mul_comm]; exact e1.symm
    have e4 : (2 ^ k * (w / 2 ^ lo / 2 ^ k) + w / 2 ^ lo % 2 ^ k) * 2 ^ lo
        = w / 2 ^ lo / 2 ^ k * 2 ^ k * 2 ^ lo + w / 2 ^ lo % 2 ^ k * 2 ^ lo := by rw [Nat.add_mul, Nat.mul_comm (2 ^ k)]
    omega
  rw [h1]
  have h2 : w / 2 ^ lo / 2 ^ k * 2 ^ k * 2 ^ lo + w % 2 ^ lo + v % 2 ^ k * 2 ^ lo
      = w % 2 ^ lo + (v % 2 ^ k + 2 ^ k * (w / 2 ^ lo / 2 ^ k)) * 2 ^ lo := by
    rw [Nat.add_mul, Nat.mul_comm (2 ^ k)]; omega
  rw [h2, Nat.add_mul_div_right _ _ hp, Nat.div_eq_of_lt (Nat.mod_lt _ hp), Nat.zero_add, Nat.add_mul_mod_self_left, Nat.mod_mod]

/-- A field that fits reads back as it was set. -/
theorem fld_setFld (f : RegField) (i v : Nat) (hw : f.hi < 32) (hv : v < 2 ^ (f.hi + 1 - f.lo)) (hl : f.lo ≤ f.hi)
    : fld (setFld f i v s) f i = v := by
  unfold fld setFld
  rw [regWord_setRegWord, BitVec.toNat_ofNat]
  have hb : putBits f.hi f.lo (regWord s (fieldAddr f i)).toNat v < 2 ^ 32 := by
    have hr : (regWord s (fieldAddr f i)).toNat < 2 ^ 32 := (regWord s (fieldAddr f i)).isLt
    revert hr
    generalize (regWord s (fieldAddr f i)).toNat = w
    intro hr
    unfold putBits bitsOf
    simp only [Nat.shiftRight_eq_div_pow]
    generalize hk : f.hi + 1 - f.lo = k at *
    have hp : 0 < 2 ^ f.lo := Nat.two_pow_pos _
    rw [Nat.mod_eq_of_lt hv]
    have e1 := Nat.div_add_mod w (2 ^ f.lo)
    have e2 := Nat.div_add_mod (w / 2 ^ f.lo) (2 ^ k)
    have h32 : 2 ^ (32 - f.lo - k) * 2 ^ k * 2 ^ f.lo = 2 ^ 32 := by
      rw [← Nat.pow_add, ← Nat.pow_add]; congr 1; omega
    have hq : w / 2 ^ f.lo / 2 ^ k < 2 ^ (32 - f.lo - k) := by
      rw [Nat.div_lt_iff_lt_mul (Nat.two_pow_pos k), Nat.div_lt_iff_lt_mul hp, h32]; exact hr
    have e3 : w = w / 2 ^ f.lo / 2 ^ k * 2 ^ k * 2 ^ f.lo + w / 2 ^ f.lo % 2 ^ k * 2 ^ f.lo + w % 2 ^ f.lo := by
      have : w / 2 ^ f.lo * 2 ^ f.lo + w % 2 ^ f.lo = w := by rw [Nat.mul_comm]; exact e1
      rw [← Nat.add_mul, Nat.mul_comm (w / 2 ^ f.lo / 2 ^ k), e2]; exact this.symm
    have hm : w % 2 ^ f.lo < 2 ^ f.lo := Nat.mod_lt _ hp
    have b1 : (w / 2 ^ f.lo / 2 ^ k + 1) * 2 ^ k * 2 ^ f.lo ≤ 2 ^ 32 := by
      rw [← h32]; exact Nat.mul_le_mul_right _ (Nat.mul_le_mul_right _ hq)
    have b2 : (w / 2 ^ f.lo / 2 ^ k + 1) * 2 ^ k * 2 ^ f.lo = w / 2 ^ f.lo / 2 ^ k * 2 ^ k * 2 ^ f.lo + 2 ^ k * 2 ^ f.lo := by
      rw [Nat.add_mul, Nat.add_mul, Nat.one_mul]
    have b3 : (v + 1) * 2 ^ f.lo ≤ 2 ^ k * 2 ^ f.lo := Nat.mul_le_mul_right _ hv
    have b4 : (v + 1) * 2 ^ f.lo = v * 2 ^ f.lo + 2 ^ f.lo := by rw [Nat.add_mul, Nat.one_mul]
    omega
  rw [Nat.mod_eq_of_lt hb, bitsOf_putBits, Nat.mod_eq_of_lt hv]

/-- Reading a byte after bytes are written: the byte written there, or the byte as before. -/
theorem smapGet_memPutAll (bs : List Byte) : ∀ (a : Nat) (m : List Host.Cell) (x : Nat),
    smapGet memDefault (memPutAll a bs m) x = if a ≤ x ∧ x < a + bs.length then bs.getD (x - a) 0 else smapGet memDefault m x := by
  induction bs with
  | nil => intro a m x; rw [if_neg (by simp)]; rfl
  | cons b t ih =>
    intro a m x
    rw [memPutAll, ih]
    by_cases h1 : a + 1 ≤ x ∧ x < a + 1 + t.length
    · have h2 : a ≤ x ∧ x < a + (b :: t).length := by simp only [List.length_cons]; omega
      have e : x - a = (x - (a + 1)) + 1 := by omega
      rw [if_pos h1, if_pos h2, e, List.getD_cons_succ]
    · rw [if_neg h1]
      unfold memPut
      rw [smapGet_set]
      by_cases h3 : x = a
      · subst h3
        rw [if_pos rfl, if_pos (by simp)]
        simp
      · rw [if_neg h3, if_neg (by simp only [List.length_cons]; omega)]

theorem memByte_memPoke (a : Nat) (bs : List Byte) (x : Nat) :
    memByte (memPoke a bs s) x = if a ≤ x ∧ x < a + bs.length then bs.getD (x - a) 0 else memByte s x := smapGet_memPutAll bs a s.mem x

/-- A write touches no register and a register write no memory. -/
@[simp] theorem regWord_memPoke (a b : Nat) (bs : List Byte) : regWord (memPoke a bs s) b = regWord s b := rfl
@[simp] theorem memByte_setRegWord (a b : Nat) (w : Word32) : memByte (setRegWord a w s) b = memByte s b := rfl

/-- A word with a field put, as the bits below, in and above the field. -/
theorem putBits_eq (hi lo w v : Nat) : putBits hi lo w v = w % 2 ^ lo + (v % 2 ^ (hi + 1 - lo) + 2 ^ (hi + 1 - lo) * (w / 2 ^ lo / 2 ^ (hi + 1 - lo))) * 2 ^ lo := by
  unfold putBits bitsOf
  simp only [Nat.shiftRight_eq_div_pow]
  generalize hi + 1 - lo = k
  have e1 := Nat.div_add_mod w (2 ^ lo)
  have e2 := Nat.div_add_mod (w / 2 ^ lo) (2 ^ k)
  have e3 : w / 2 ^ lo * 2 ^ lo = 2 ^ k * (w / 2 ^ lo / 2 ^ k) * 2 ^ lo + w / 2 ^ lo % 2 ^ k * 2 ^ lo := by rw [← Nat.add_mul, e2]
  rw [Nat.add_mul]
  rw [Nat.mul_comm] at e1
  omega

/-- The bits of another field after a field is put. -/
theorem bitsOf_putBits_apart (hi lo hi' lo' w v : Nat) (hl : lo ≤ hi) (h : hi' < lo ∨ hi < lo') : bitsOf hi' lo' (putBits hi lo w v) = bitsOf hi' lo' w := by
  rw [putBits_eq]
  unfold bitsOf
  simp only [Nat.shiftRight_eq_div_pow]
  by_cases hb : hi' < lo'
  · have : hi' + 1 - lo' = 0 := by omega
    rw [this, Nat.pow_zero, Nat.mod_one, Nat.mod_one]
  generalize hk : hi + 1 - lo = k
  rcases h with h | h
  · obtain ⟨j, rfl⟩ : ∃ j, lo = lo' + (hi' + 1 - lo') + j := ⟨lo - (hi' + 1), by omega⟩
    generalize hi' + 1 - lo' = n at *
    have hd : ∀ x, (x / 2 ^ lo') % 2 ^ n = (x % (2 ^ lo' * 2 ^ n)) / 2 ^ lo' := fun x => (Nat.mod_mul_right_div_self x _ _).symm
    rw [hd, hd, Nat.pow_add, Nat.pow_add]
    have hz : ∀ y, y * (2 ^ lo' * 2 ^ n * 2 ^ j) = (2 ^ lo' * 2 ^ n) * (2 ^ j * y) := by intro y; ac_rfl
    rw [hz, Nat.add_mul_mod_self_left, Nat.mod_mul_right_mod]
  · obtain ⟨j, rfl⟩ : ∃ j, lo' = lo + k + j := ⟨lo' - (lo + k), by omega⟩
    congr 1
    rw [Nat.pow_add, Nat.pow_add, ← Nat.div_div_eq_div_mul, ← Nat.div_div_eq_div_mul, ← Nat.div_div_eq_div_mul, ← Nat.div_div_eq_div_mul,
      Nat.add_mul_div_right _ _ (Nat.two_pow_pos _), Nat.div_eq_of_lt (Nat.mod_lt _ (Nat.two_pow_pos _)), Nat.zero_add,
      Nat.add_mul_div_left _ _ (Nat.two_pow_pos _), Nat.div_eq_of_lt (Nat.mod_lt _ (Nat.two_pow_pos _)), Nat.zero_add]

/-- A field put into a 32-bit word gives a 32-bit word. -/
theorem putBits_lt (hi lo w v : Nat) (hw : hi < 32) (hl : lo ≤ hi) (h : w < 2 ^ 32) : putBits hi lo w v < 2 ^ 32 := by
  rw [putBits_eq]
  obtain ⟨j, hj⟩ : ∃ j, 32 = lo + (hi + 1 - lo) + j := ⟨31 - hi, by omega⟩
  generalize hi + 1 - lo = k at hj ⊢
  have hp : 2 ^ 32 = 2 ^ lo * 2 ^ k * 2 ^ j := by rw [← Nat.pow_add, ← Nat.pow_add, ← hj]
  rw [hp] at h ⊢
  have a1 : w % 2 ^ lo < 2 ^ lo := Nat.mod_lt _ (Nat.two_pow_pos _)
  have a2 : v % 2 ^ k < 2 ^ k := Nat.mod_lt _ (Nat.two_pow_pos _)
  have a3 : w / 2 ^ lo / 2 ^ k < 2 ^ j := by
    rw [Nat.div_div_eq_div_mul, Nat.div_lt_iff_lt_mul (Nat.mul_pos (Nat.two_pow_pos _) (Nat.two_pow_pos _))]; rw [Nat.mul_comm]; exact h
  have a4 : v % 2 ^ k + 2 ^ k * (w / 2 ^ lo / 2 ^ k) + 1 ≤ 2 ^ k * 2 ^ j := by
    calc _ ≤ 2 ^ k + 2 ^ k * (w / 2 ^ lo / 2 ^ k) := by omega
      _ = 2 ^ k * (w / 2 ^ lo / 2 ^ k + 1) := by rw [Nat.mul_add, Nat.mul_one, Nat.add_comm]
      _ ≤ _ := Nat.mul_le_mul_left _ a3
  calc _ < 2 ^ lo + (v % 2 ^ k + 2 ^ k * (w / 2 ^ lo / 2 ^ k)) * 2 ^ lo := by omega
    _ = (v % 2 ^ k + 2 ^ k * (w / 2 ^ lo / 2 ^ k) + 1) * 2 ^ lo := by rw [Nat.add_mul _ 1, Nat.one_mul, Nat.add_comm]
    _ ≤ (2 ^ k * 2 ^ j) * 2 ^ lo := Nat.mul_le_mul_right _ a4
    _ = _ := by ac_rfl

/-- Setting a field leaves the other fields of its register as they were. -/
theorem fld_setFld_apart {s : State} (f g : RegField) (i j v : Nat) (ha : fieldAddr g j = fieldAddr f i) (hw : f.hi < 32) (hl : f.lo ≤ f.hi)
    (h : g.hi < f.lo ∨ f.hi < g.lo) : fld (setFld f i v s) g j = fld s g j := by
  unfold fld setFld
  rw [ha, regWord_setRegWord, BitVec.toNat_ofNat, Nat.mod_eq_of_lt (putBits_lt _ _ _ _ hw hl (BitVec.isLt _)), bitsOf_putBits_apart _ _ _ _ _ _ hl h]

end Sys2Proof.Machine
end

