-- ==== Sys2Proof/Laws/Serve.lean ====
section
/-! SUPPORT. How the groom serves the oldest admitted request: its reply, and the state the service leaves. -/

namespace Sys2Proof.Machine

variable {op : Nat} {r : Req} {s t : State} {f : State → Service} {p : Rep} {k : Service}

theorem serve_error (h : Served op r s) (hf : f (served s) = .error p) : serve op r f s = answer r p (served s) := by
  obtain ⟨h1, h2, h3⟩ := h
  unfold serve served at *
  cases ha : s.admitted with
  | nil => rw [ha] at h1; cases h1
  | cons q rest =>
    rw [ha] at h1 hf
    cases h1
    dsimp only [List.tail_cons] at *
    rw [if_pos ⟨rfl, h2, h3⟩, hf]

theorem serve_ok (h : Served op r s) (hf : f (served s) = .ok (p, t)) : serve op r f s = answer r p t := by
  obtain ⟨h1, h2, h3⟩ := h
  unfold serve served at *
  cases ha : s.admitted with
  | nil => rw [ha] at h1; cases h1
  | cons q rest =>
    rw [ha] at h1 hf
    cases h1
    dsimp only [List.tail_cons] at *
    rw [if_pos ⟨rfl, h2, h3⟩, hf]

/-- The service of the oldest admitted request, as one equation. -/
theorem serve_eq (h : Served op r s) (f : State → Service) : serve op r f s = (match f (served s) with
    | .error p => answer r p (served s)
    | .ok (p, t) => answer r p t) := by
  cases hf : f (served s) with
  | error p => exact serve_error h hf
  | ok x => exact serve_ok h hf

theorem taken_eq (h : Served op r s) : taken op r s = some (served s) := by
  obtain ⟨h1, h2, h3⟩ := h
  unfold taken served at *
  cases ha : s.admitted with
  | nil => rw [ha] at h1; cases h1
  | cons q rest =>
    rw [ha] at h1
    cases h1
    dsimp only [List.tail_cons] at *
    rw [if_pos ⟨rfl, h2, h3⟩]

/-- A payload of another length gets the length in DETAIL. -/
theorem shaped_length {n : Nat} {l : List Nat} (h : r.payload.length ≠ n) : shaped r n l k = errRep 0x21 n := by
  unfold shaped; rw [if_pos h]

theorem shaped_ok {n : Nat} {l : List Nat} (h : Shape r n l) : shaped r n l k = k := by
  unfold shaped
  rw [if_neg (fun c => c h.1)]
  have : l.find? (fun o => decide (pb r o ≠ 0)) = none := by
    rw [List.find?_eq_none]
    intro o ho
    simp [h.2 o ho]
  rw [this]

theorem need_true {b : Bool} {x y : Nat} (h : b = true) : need b x y k = k := by
  unfold need; rw [if_pos h]

end Sys2Proof.Machine
end

