-- ==== Sys2Proof/Laws/Stall.lean ====
section
/-! SUPPORT. What the issue of a stall's word does to the stall: the writes it puts in flight, its count, and where control goes. -/

namespace Sys2Proof.Machine

/-- Saturation is the limit of the statements, with its overflow. -/
theorem satInt_eq (w : Nat) (x : Int) : satInt w x = (clamp w x, overflows w x) := by
  unfold satInt clamp overflows
  have h : (0 : Int) < 2 ^ (w - 1) := Int.pow_pos (by decide)
  generalize (2 : Int) ^ (w - 1) = b at *
  split
  · rw [Prod.mk.injEq, eq_comm (a := true), decide_eq_true_eq]; omega
  · split
    · rw [Prod.mk.injEq, eq_comm (a := true), decide_eq_true_eq]; omega
    · rw [Prod.mk.injEq, eq_comm (a := false), decide_eq_false_iff_not]; omega

theorem forEach_stalls {α : Type} (l : List α) (f : α → State → State) (hf : ∀ a s, (f a s).stalls = s.stalls) (s : State) :
    (forEach l f s).stalls = s.stalls := by
  unfold forEach
  induction l generalizing s with
  | nil => rfl
  | cons a t ih => rw [List.foldl_cons, ih, hf]

@[simp] theorem countFld_stalls (f : RegField) (i : Nat) (s : State) : (countFld f i s).stalls = s.stalls := rfl
@[simp] theorem spUe_stalls (a : Nat) (s : State) : (spUe a s).stalls = s.stalls := rfl
@[simp] theorem stallFault_stalls (u : Nat) (s : State) : (stallFault u s).stalls = s.stalls := rfl

@[simp] theorem eccRead_stalls (ws : List Nat) (s : State) : (eccRead ws s).stalls = s.stalls := by
  refine forEach_stalls ws _ (fun w s => ?_) s
  dsimp only
  split <;> split <;> rfl

@[simp] theorem countLate_stalls (items : List (Nat × Nat)) (u : Nat) (s : State) : (countLate items u s).stalls = s.stalls :=
  by unfold countLate; refine forEach_stalls _ _ (fun _ _ => ?_) s; rfl

theorem stallOf_eq {a b : State} (h : a.stalls = b.stalls) (u : Nat) : stallOf a u = stallOf b u := by
  unfold stallOf; rw [h]

theorem nextPc_inflight (st : Stall) : (nextPc st).inflight = st.inflight ∧ (nextPc st).issueNo = st.issueNo ∧
    (nextPc st).sticky = st.sticky := by
  unfold nextPc
  repeat' split
  all_goals exact ⟨rfl, rfl, rfl⟩

/-- After the word control moves to the next word where no delay slot and no loop is under way. -/
theorem nextPc_plain (st : Stall) (h : st.delay = none) (hl : st.loop = none) : (nextPc st).pc = st.pc + 1 := by
  unfold nextPc; rw [h, hl]

theorem stallOf_finishIssue (u : Nat) (s : State) : stallOf (finishIssue u s) u = nextPc (countIssue s u (stallOf s u)) :=
  stallOf_setStall s u _

/-- A stall's registers and flags apart from sticky bits, program counter and counts. -/
theorem orSticky_stall (u k : Nat) (s : State) : stallOf (orSticky u k s) u = { stallOf s u with sticky := (stallOf s u).sticky ||| BitVec.ofNat 11 k } :=
  stallOf_setStall s u _

theorem sticky_or_zero (st : Stall) : { st with sticky := st.sticky ||| 0 } = st := by
  have h : st.sticky ||| 0 = st.sticky := BitVec.or_zero
  rw [h]

theorem outputStore_stall (u c : Nat) (v : S48) (s : State) :
    ∃ k, stallOf (outputStore u c v s) u = { stallOf s u with sticky := (stallOf s u).sticky ||| k } := by
  unfold outputStore
  split
  · exact ⟨_, orSticky_stall u _ s⟩
  · exact ⟨0, (sticky_or_zero _).symm⟩
  · exact ⟨0, (sticky_or_zero _).symm⟩

theorem moveOut_stall (u : Nat) (o : Option (Nat × S48)) (s : State) : ∃ k, stallOf (moveOut u o s) u = { stallOf s u with sticky := (stallOf s u).sticky ||| k } := by
  unfold moveOut
  split
  · exact outputStore_stall u _ _ s
  · exact ⟨0, (sticky_or_zero _).symm⟩

theorem countIssue_inflight (s : State) (u : Nat) (st : Stall) : (countIssue s u st).inflight = st.inflight ∧
    (countIssue s u st).issueNo = st.issueNo + 1 ∧ (countIssue s u st).sticky = st.sticky := ⟨rfl, rfl, rfl⟩

/-- A format A word that issues puts the writes of both its parts in flight and counts once. -/
theorem issueA_spec {u : Nat} {op : BitVec 6} {f : ArithF} {m : MoveF} {s : State} (hc : canIssue s u = true) (hl : wordALegal op f m = true) :
    (stallOf (issueA u op f m s) u).inflight = (seen u s).inflight ++
      ((aluOp (landDue u s) u (seen u s) op f).writes ++ (moveOp (landDue u s) u (seen u s) m).writes).map
        (fun x => ⟨(seen u s).issueNo + x.1, x.2⟩) ∧
    (stallOf (issueA u op f m s) u).issueNo = (seen u s).issueNo + 1 ∧
    (∃ k, (stallOf (issueA u op f m s) u).sticky = (seen u s).sticky |||
      BitVec.ofNat 11 ((aluOp (landDue u s) u (seen u s) op f).sticky ||| (moveOp (landDue u s) u (seen u s) m).sticky) ||| k) := by
  unfold issueA seen
  rw [hc, hl]
  simp only [Bool.not_true, Bool.false_eq_true, if_false]
  generalize aluOp (landDue u s) u (stallOf (landDue u s) u) op f = r
  generalize moveOp (landDue u s) u (stallOf (landDue u s) u) m = q
  generalize landDue u s = s1
  rw [stallOf_finishIssue, (nextPc_inflight _).1, (nextPc_inflight _).2.1, (nextPc_inflight _).2.2, (countIssue_inflight _ _ _).1,
    (countIssue_inflight _ _ _).2.1, (countIssue_inflight _ _ _).2.2]
  obtain ⟨k, hk⟩ := moveOut_stall u q.out (if (r.fault || q.fault) = true then countLate (accessItems (stallOf s1 u) op f m) u
      (stallFault u (eccRead (r.words ++ q.words) (orSticky u (r.sticky ||| q.sticky)
        (setStall u (enqueue (stallOf s1 u) (r.writes ++ q.writes)) s1)))) else eccRead (r.words ++ q.words)
        (orSticky u (r.sticky ||| q.sticky) (setStall u (enqueue (stallOf s1 u) (r.writes ++ q.writes)) s1)))
  rw [hk]
  have base : stallOf (if (r.fault || q.fault) = true then countLate (accessItems (stallOf s1 u) op f m) u
      (stallFault u (eccRead (r.words ++ q.words) (orSticky u (r.sticky ||| q.sticky)
        (setStall u (enqueue (stallOf s1 u) (r.writes ++ q.writes)) s1)))) else eccRead (r.words ++ q.words)
        (orSticky u (r.sticky ||| q.sticky) (setStall u (enqueue (stallOf s1 u) (r.writes ++ q.writes)) s1))) u
      = stallOf (orSticky u (r.sticky ||| q.sticky) (setStall u (enqueue (stallOf s1 u) (r.writes ++ q.writes)) s1)) u := by
    split
    · rw [stallOf_eq (countLate_stalls _ _ _), stallOf_eq (stallFault_stalls _ _), stallOf_eq (eccRead_stalls _ _)]
    · rw [stallOf_eq (eccRead_stalls _ _)]
  rw [base, orSticky_stall, stallOf_setStall]
  exact ⟨rfl, rfl, k, rfl⟩

/-- Each sticky bit of the arithmetic part is set. -/
theorem issueA_sticky {u : Nat} {op : BitVec 6} {f : ArithF} {m : MoveF} {s : State} (hc : canIssue s u = true) (hl : wordALegal op f m = true)
    (i : Nat) (hi : i < 11) (hb : (aluOp (landDue u s) u (seen u s) op f).sticky.testBit i = true) :
    (stallOf (issueA u op f m s) u).sticky.getLsbD i = true := by
  obtain ⟨k, hk⟩ := (issueA_spec hc hl).2.2
  rw [hk]
  simp [BitVec.getLsbD_ofNat, hb, hi]

/-- Each write of the arithmetic part is in flight with its latency. -/
theorem issueA_alu {u : Nat} {op : BitVec 6} {f : ArithF} {m : MoveF} {s : State} (hc : canIssue s u = true) (hl : wordALegal op f m = true)
    {x : Nat × Wb} (hx : x ∈ (aluOp (landDue u s) u (seen u s) op f).writes) : Pends u x.1 x.2 s (issueA u op f m s) := by
  unfold Pends
  rw [(issueA_spec hc hl).1]
  exact List.mem_append_right _ (List.mem_map.mpr ⟨x, List.mem_append_left _ hx, rfl⟩)

/-- Each write of the move is in flight with its latency. -/
theorem issueA_move {u : Nat} {op : BitVec 6} {f : ArithF} {m : MoveF} {s : State} (hc : canIssue s u = true) (hl : wordALegal op f m = true)
    {x : Nat × Wb} (hx : x ∈ (moveOp (landDue u s) u (seen u s) m).writes) : Pends u x.1 x.2 s (issueA u op f m s) := by
  unfold Pends
  rw [(issueA_spec hc hl).1]
  exact List.mem_append_right _ (List.mem_map.mpr ⟨x, List.mem_append_right _ hx, rfl⟩)

/-- A format C word that issues puts its writes in flight and counts once. -/
theorem issueC_spec {u : Nat} {op : BitVec 6} {reg : BitVec 8} {imm : S48} {s : State} (hc : canIssue s u = true)
    (hl : wordCLegal op reg imm = true) :
    (stallOf (issueC u op reg imm s) u).inflight = (seen u s).inflight ++
      (immOp (seen u s) op reg imm).writes.map (fun x => ⟨(seen u s).issueNo + x.1, x.2⟩) ∧
    (stallOf (issueC u op reg imm s) u).issueNo = (seen u s).issueNo + 1 := by
  unfold issueC seen
  rw [hc, hl]
  simp only [Bool.not_true, Bool.false_eq_true, if_false]
  rw [stallOf_finishIssue, (nextPc_inflight _).1, (nextPc_inflight _).2.1, orSticky_stall, stallOf_setStall]
  exact ⟨rfl, rfl⟩

theorem issueC_imm {u : Nat} {op : BitVec 6} {reg : BitVec 8} {imm : S48} {s : State} (hc : canIssue s u = true)
    (hl : wordCLegal op reg imm = true) {x : Nat × Wb} (hx : x ∈ (immOp (seen u s) op reg imm).writes) :
    Pends u x.1 x.2 s (issueC u op reg imm s) := by
  unfold Pends
  rw [(issueC_spec hc hl).1]
  exact List.mem_append_right _ (List.mem_map.mpr ⟨x, hx, rfl⟩)

end Sys2Proof.Machine
end

