-- ==== Sys2Proof/Tests/Slice0.lean ====
section
/-! SUPPORT. Tests: commands that `wf` refuses, words of the stalls' formats decoded, and for each statement states and operands that meet its hypotheses, with
what the command does there. Expected values are worked out by hand from the rules that the statement cites. -/

namespace Sys2Proof.Tests

open Sys2Proof.Machine

-- One theorem at a time: checked side by side they need more memory than a check of the package has.
set_option Elab.async false

/-! ### Helpers -/

/-- The command ends in a next state of which `P` holds. -/
def holds (r : Res) (P : State → Bool) : Bool :=
  match r with
  | .next t => P t
  | _ => false

/-- No move beside the arithmetic part of a word. -/
def noMove : MoveF := ⟨0, ⟨0, 0, 0, 0⟩⟩

/-- The NOP as arithmetic part. -/
def noArith : ArithF := ⟨0, 0, 0, false, 0⟩

/-- Stall 0 runs frame 0 with a register file. -/
def issuing (st : Stall) : State := setStall 0 st (setUnit 0 { unitIdle with st := .running } State.reset)

/-- A write is in flight for stall 0 until its issue `n`. -/
def flies (t : State) (n : Nat) (w : Wb) : Bool := (stallOf t 0).inflight.contains ⟨n, w⟩

/-- A request over SPI outside any session. -/
def ask (op : Nat) (payload : List Byte) : Req := ⟨.spi, ⟨0, none, 0⟩, op, 0, 7, 0, false, 0, 0, payload⟩

/-- A state in which a request is the oldest admitted one. -/
def given (r : Req) (s : State) : State := { s with admitted := [r] }

/-- A register file: D1 = 2^47 − 1, D2 = −3, D3 = 2^31 + 5, D4 = −2^47, C1 = 2^28, C2 = −8, P1 = 100h, A1 with a tie at 2^28 · 2.5, A2 at the top, X0 at the
top, RAMP coefficients C4 to C6. -/
def bench : Stall :=
  { stallReset with
    d := [(1, BitVec.ofInt 48 (2 ^ 47 - 1)), (2, BitVec.ofInt 48 (-3)), (3, BitVec.ofInt 48 (2 ^ 31 + 5)), (4, BitVec.ofInt 48 (-(2 ^ 47))), (5, 2), (6, 0x3E)]
    c := [(1, BitVec.ofInt 32 (2 ^ 28)), (2, BitVec.ofInt 32 (-8)), (4, 10), (5, 100), (6, BitVec.ofInt 32 (-5)), (7, BitVec.ofInt 32 (2 ^ 27))]
    p := [(1, 0x100), (2, 0x103)]
    m := [(1, 8)]
    a := [(1, BitVec.ofInt 96 (5 * 2 ^ 27)), (2, BitVec.ofInt 96 (2 ^ 95 - 1)), (3, BitVec.ofInt 96 (-1))]
    x := [(0, BitVec.ofInt 40 (2 ^ 39 - 1)), (1, 10)] }

/-- Stall 0 with it. -/
def bn : State := issuing bench

/-- Fields of registers, each with its index and its value. -/
def fields (l : List (RegField × Nat × Nat)) (s : State) : State := l.foldl (fun s x => setFld x.1 x.2.1 x.2.2 s) s

/-- The codes of the events that wait after the BOOT event of reset. -/
def raised (s : State) : List Nat := (s.evtWait.map EvtWait.code).drop 1

/-- The status, the detail, the job and the payload of the newest packet for the host over SPI. -/
def newest (t : State) : List Byte := (t.txq.getLast?.map TxPacket.bytes).getD []
def status (t : State) : Nat := rd (newest t) 16 2
def detail (t : State) : Nat := rd (newest t) 20 4
def jobIn (t : State) : Nat := rd (newest t) 18 2
def result (t : State) : List Byte := ((newest t).drop 24).take (rd (newest t) 12 4)

/-- With the request as the oldest admitted one, its hypotheses hold and its effect has a property. -/
def serves (r : Req) (i : Req → Instr) (s : State) (P : State → Bool) : Bool :=
  decide (Served r.opcode r (given r s)) && holds (exec (i r) (given r s)) P

/-- The highest reservable MiB is region 0. -/
def regioned : State := { State.reset with regions := [⟨0, 0x5EFF00000, 0x100000⟩] }

/-- A packet over SPI. -/
def arrives (b : List Byte) : RxPacket := ⟨.spi, ⟨0, none, 0⟩, b⟩

/-- Trace 62 of lanes 62 and 63, both locked, restripes allowed, endpoint 9. -/
def lanes : State :=
  fields [(Fld.TRACE_CFG_WIDTH, 62, 1), (Fld.LANE_CFG_MODE, 62, 1), (Fld.LANE_CFG_MODE, 63, 1), (Fld.LANE_STATUS_TRACE, 62, 62), (Fld.LANE_STATUS_TRACE, 63, 62),
    (Fld.LANE_STATUS_LOCKED, 62, 1), (Fld.LANE_STATUS_LOCKED, 63, 1), (Fld.LINK_CTRL_RESTRIPE_EN, 0, 1), (Fld.LINK_CTRL_RETURN_EN, 0, 1),
    (Fld.TRACE_CFG_RESTRIPE_OK, 62, 1), (Fld.ENDPOINT_ID_ID, 0, 9)] State.reset
/-- Trace 62 in a state with a record. -/
def linked (k : Nat) (x : TraceSt) : State := setTrace 62 x (setTraceState 62 k lanes)
/-- A trace in use on both lanes. -/
def idle : TraceSt := { traceIdle with rxSet := 3, txSet := 3 }

/-- Session 5 over SPI from sequence number 100 on, with a window. -/
def session5 (count : Nat) (win : List WinEntry) : Session := ⟨5, .spi, ⟨0, none, 0⟩, none, 0, 0, 100, count, win, 0, 0, 0, 0, 0, false, []⟩

/-- Channel 31 in a state with a record, its limits and enables set. -/
def amp (k : Nat) (x : AmpSt) : State :=
  setAmp 31 x (fields [(Fld.AMP_STATE_STATE, 31, k), (Fld.AMP_FSW_FSW, 31, 400), (Fld.LIM_VFS_VFS, 31, 1000), (Fld.LIM_IFS_IFS, 31, 100),
    (Fld.AMP_CFG_ILIM_EN, 31, 1), (Fld.AMP_CFG_DC_EN, 31, 1), (Fld.AMP_STATE_LOCKED, 31, 1), (Fld.LIM_P100_LIMIT, 31, 1), (Fld.LIM_P1S_LIMIT, 31, 1)] State.reset)

/-! ### Well-formed commands: for each check a command that it refuses, beside the nearest one that it takes -/

/-- Each first command is refused, each second one taken. -/
def smoke (l : List (Instr × Instr)) : Bool := l.all (fun p => !p.1.wf && p.2.wf)
/-- A request from a source, and the same with one header field past its width. -/
def from_ (src : Source) : Req := ⟨src, ⟨0, none, 0⟩, 0x101, 0xFFFF, 2 ^ 32 - 1, 255, false, 2 ^ 32 - 1, 0, []⟩

theorem test_wf_requests :
    smoke [(.echo (from_ (.pcie 8)), .echo (from_ (.pcie 7))), (.echo (from_ (.eth (2 ^ 48))), .echo (from_ (.eth (2 ^ 48 - 1)))),
      (.echo (from_ (.udp (2 ^ 32) 0)), .echo (from_ (.udp 0 65535))), (.echo (from_ (.udp 0 65536)), .echo (from_ .spi)),
      (.echo (from_ (.trace (2 ^ 18))), .echo (from_ (.trace (2 ^ 18 - 1)))),
      (.echo { from_ .spi with opcode := 65536 }, .echo (from_ .spi)), (.echo { from_ .spi with session := 65536 }, .echo (from_ .spi)),
      (.echo { from_ .spi with seq := 2 ^ 32 }, .echo (from_ .spi)), (.echo { from_ .spi with tag := 256 }, .echo (from_ .spi)),
      (.echo { from_ .spi with check := 2 ^ 32 }, .echo (from_ .spi)),
      (.sessionOpen (from_ .spi) 65536 0, .sessionOpen (from_ .spi) 65535 0), (.sessionOpen (from_ .spi) 0 (2 ^ 64), .sessionOpen (from_ .spi) 0 (2 ^ 64 - 1)),
      (.kernelLoad (from_ .spi) 65536, .kernelLoad (from_ .spi) 65535), (.packetAdmission (.pcie 8) 0, .packetAdmission (.pcie 7) 0)] = true := by decide +kernel

theorem test_wf_work :
    smoke [(.jobStep (.compile 65536 0 false [] none), .jobStep (.compile 65535 0 false [] none)), (.jobStep (.bake 15 0), .jobStep (.bake 14 0)),
      (.jobStep (.resync 15), .jobStep (.resync 14)), (.jobStep (.finals 15), .jobStep (.finals 14)), (.jobStep (.finish 65536), .jobStep (.finish 65535)),
      (.jobStep (.progress 65536 0), .jobStep (.progress 65535 0)), (.jobStep (.flash 65536 true), .jobStep (.flash 65535 true)),
      (.jobStep (.cancelled 65536), .jobStep .direct), (.jobRecordExpiry 65536, .jobRecordExpiry 65535), (.sessionIdleTimeout 65536 0, .sessionIdleTimeout 65535 0),
      (.cmdResend (2 ^ 18) 0, .commandReplyRx 3), (.commandReplyRx (2 ^ 18), .commandReplyRx (2 ^ 18 - 1)),
      (.resetStart [15] 0, .resetStart [14] 0), (.memberCompileReport 0 10 none, .memberCompileReport 15 9 none)] = true := by decide +kernel

/-- A kernel node with an ID and pin counts. -/
def pinned (id i o : Nat) : Graph := ⟨[⟨id, 8, 0, 0x8000, 0, 0, i, o, 0, 0, 0, 0, 0⟩], [], []⟩

theorem test_wf_graphs :
    smoke [(.teamSubgraphRx (2 ^ 18) 0 0 ⟨⟨[], [], []⟩, none⟩, .teamSubgraphRx 3 0 0 ⟨⟨[], [], []⟩, none⟩), (.teamSubgraphRx 3 0 65536 ⟨⟨[], [], []⟩, none⟩, .teamSubgraphRx 3 0 1 ⟨⟨[], [], []⟩, none⟩),
      (.teamSubgraphRx 3 0 1 ⟨(pinned 65536 0 0), none⟩, .teamSubgraphRx 3 0 1 ⟨(pinned 65535 0 0), none⟩), (.teamSubgraphRx 3 0 1 ⟨(pinned 1 1025 0), none⟩, .teamSubgraphRx 3 0 1 ⟨(pinned 1 1024 0), none⟩),
      (.teamSubgraphRx 3 0 1 ⟨(pinned 1 0 1025), none⟩, .teamSubgraphRx 3 0 1 ⟨(pinned 1 0 1024), none⟩),
      (.teamSubgraphRx 3 0 1 ⟨⟨[], [], [⟨2, 1, 1, 0⟩, ⟨2, 1, 1, 0⟩]⟩, none⟩, .teamSubgraphRx 3 0 1 ⟨⟨[], [], [⟨1, 1, 1, 0⟩, ⟨2, 1, 1, 0⟩]⟩, none⟩),
      (.teamSubgraphRx 3 0 1 ⟨⟨[], [⟨2, 0, 0, 0, 0, 0, 0⟩, ⟨1, 0, 0, 0, 0, 0, 0⟩], []⟩, none⟩, .teamSubgraphRx 3 0 1 ⟨⟨[], [⟨1, 0, 0, 0, 0, 0, 0⟩, ⟨2, 0, 0, 0, 0, 0, 0⟩], []⟩, none⟩)] = true := by
  decide +kernel

theorem test_wf_events :
    smoke [(.frameBoundary ⟨0, [(32, 0, 0)], [], 0, false⟩, .frameBoundary ⟨0, [(31, 31, 0)], [], 0, false⟩), (.frameBoundary ⟨0, [(0, 32, 0)], [], 0, false⟩, .frameBoundary ⟨0, [], [], 0, false⟩),
      (.frameBoundary ⟨0, [], [(16, 0)], 0, false⟩, .frameBoundary ⟨0, [], [(15, 0)], 0, false⟩),
      (.meterPeriodEnd 65536 0 [⟨[], [], false, false⟩], .meterPeriodEnd 65535 0 [⟨[0], [0], false, false⟩]), (.meterPeriodEnd 1 0 [], .inputSilence 65535 0 [0]),
      (.inputSilence 65536 0 [], .inputSilence 1 0 []), (.crossbarGrant 0 ⟨[⟨0, 0, 0, none, false⟩], 0⟩, .crossbarGrant 0 ⟨[⟨0, 0, 64, none, false⟩], 0⟩),
      (.crossbarGrant 0 ⟨[⟨0, 193, 64, none, false⟩], 0⟩, .crossbarGrant 0 ⟨[⟨0, 192, 64, none, false⟩], 0⟩),
      (.crossbarGrant 0 ⟨[⟨0, 0, 2, some [1], false⟩], 0⟩, .crossbarGrant 0 ⟨[⟨0, 0, 2, some [1, 2], false⟩], 0⟩),
      (.spiRegRead 0x505 1 0, .spiRegRead 0x504 1 0), (.spiRegWrite 0x506 [] 0, .spiRegWrite 0x504 [] 0), (.latchingRead ⟨20, 0x505⟩ 0, .latchingRead ⟨20, 0x504⟩ 0),
      (.registerWrite 20 0x100008000 0 0, .registerWrite 20 0x100007FFC 0 0), (.pcieRequestFetch 0 (2 ^ 32) 0 [], .pcieRequestFetch 0 24 0 []),
      (.ethFrameRx 0 (List.replicate 13 0) true 0, .ethFrameRx 0 (List.replicate 14 0) true 0), (.hoeFrameRx 0 (2 ^ 48) true none [], .hoeFrameRx 0 1 true none []),
      (.hoeFrameRx 0 1 true (some 65536) [], .hoeFrameRx 0 1 true (some 65535) []), (.arpRequestRx 0 0 (2 ^ 48) 0, .arpRequestRx 0 0 1 0),
      (.frameMarkerRx 0 (List.replicate 9 (0, none)) 0, .frameMarkerRx 0 (List.replicate 8 (0, none)) 0), (.traceReinit 0 0, .traceReinit 0 1), (.traceReinit 0 11, .traceReinit 0 10),
      (.memberLoss (2 ^ 18), .memberLoss 1), (.teamFormTimeout (2 ^ 18), .teamFormTimeout 1), (.externalFrameStart 0 0 (List.replicate 33 0), .externalFrameStart 0 0 []),
      (.energyBlock [], .energyBlock (List.replicate 32 0)), (.tapDecision (2 ^ 32), .tapDecision 7), (.groupCloseTimeout (2 ^ 32), .groupCloseTimeout 7),
      (.thermalWarn (List.replicate 17 0), .thermalWarn (List.replicate 16 0))] = true := by decide +kernel

/-! ### The queue and the words of the stalls (StepRunsFront to TableWords) -/

theorem witness_StepRunsFront : holds (step { State.reset with pending := [.haltReq, .step] }) (fun t => t.pending == [.step] && (stallOf t 0).haltPending) = true := by
  decide +kernel

theorem witness_IdleStep : step State.reset = .next State.reset := rfl

/-- A canonical state that is not the reset state: two bytes listed, and a command that waits. -/
def written : State := { memPoke 0x400000000 [1, 0, 2] State.reset with pending := [.haltReq] }
theorem written_canonical : Canonical written := ⟨by decide +kernel, by decide +kernel, by decide +kernel, by decide +kernel⟩
theorem witness_QueueKept : Canonical written ∧ holds (exec .haltReq written) (fun t => t.pending == [.haltReq] && t.mem.length == 2) = true :=
  ⟨written_canonical, by decide +kernel⟩
theorem witness_StepKeepsCanonical : Canonical written ∧ holds (step written) (fun t => Memory.wf t.mem && smapWf (fun _ => stallReset) t.stalls &&
    (stallOf t 0).haltPending) = true := ⟨written_canonical, by decide +kernel⟩

theorem witness_canIssue : canIssue bn 0 = true := by decide +kernel

theorem witness_AccumulatorWords :
    (wordALegal 0x01 ⟨0, 2, 2, false, 0⟩ noMove = true ∧ holds (exec (.mpy 0 ⟨0, 2, 2, false, 0⟩ noMove) bn) (fun t => flies t 3 (.a 0 24 true)) = true) ∧
    (wordALegal 0x02 ⟨2, 1, 1, false, 0⟩ noMove = true ∧ holds (exec (.mac 0 ⟨2, 1, 1, false, 0⟩ noMove) bn) (fun t =>
      flies t 3 (.a 2 (BitVec.ofInt 96 (2 ^ 95 - 1)) true) && flies t 3 (.flags none none (some true)) && (stallOf t 0).sticky.getLsbD 1) = true) ∧
    (wordALegal 0x03 ⟨3, 2, 2, false, 0⟩ noMove = true ∧ holds (exec (.msu 0 ⟨3, 2, 2, false, 0⟩ noMove) bn) (fun t =>
      flies t 3 (.a 3 (BitVec.ofInt 96 (-25)) true)) = true) ∧
    (wordALegal 0x04 ⟨7, 0, 0, false, 0⟩ noMove = true ∧ holds (exec (.clr 0 ⟨7, 0, 0, false, 0⟩ noMove) bn) (fun t => flies t 3 (.a 7 0 true)) = true) ∧
    (wordALegal 0x05 ⟨3, 2, 0, false, 0⟩ noMove = true ∧ holds (exec (.addda 0 ⟨3, 2, 0, false, 0⟩ noMove) bn) (fun t =>
      flies t 3 (.a 3 (BitVec.ofInt 96 (-1 - 3 * 2 ^ 28)) true)) = true) := by decide +kernel

theorem witness_RoundingWords :
    (wordALegal 0x06 ⟨9, 1, 0, false, 0⟩ noMove = true ∧ holds (exec (.rnd 0 ⟨9, 1, 0, false, 0⟩ noMove) bn) (fun t =>
      flies t 2 (.d 9 2) && flies t 2 (.flags (some false) (some false) (some false))) = true) ∧
    (wordALegal 0x07 ⟨9, 3, 0, false, 0⟩ noMove = true ∧ holds (exec (.sat 0 ⟨9, 3, 0, false, 0⟩ noMove) bn) (fun t =>
      flies t 2 (.d 9 (BitVec.ofInt 48 (-1))) && flies t 2 (.flags (some false) (some true) (some false))) = true) := by decide +kernel

theorem witness_AuxiliaryWords :
    (wordALegal 0x08 ⟨0, 2, 5, false, 0⟩ noMove = true ∧ holds (exec (.mpyx 0 ⟨0, 2, 5, false, 0⟩ noMove) bn) (fun t =>
      flies t 2 (.x 0 (BitVec.ofInt 40 (-6)))) = true) ∧
    (wordALegal 0x09 ⟨0, 5, 5, false, 0⟩ noMove = true ∧ holds (exec (.macx 0 ⟨0, 5, 5, false, 0⟩ noMove) bn) (fun t =>
      flies t 2 (.x 0 (BitVec.ofInt 40 (2 ^ 39 - 1))) && (stallOf t 0).sticky.getLsbD 1) = true) ∧
    (wordALegal 0x0A ⟨1, 2, 5, false, 0⟩ noMove = true ∧ holds (exec (.msux 0 ⟨1, 2, 5, false, 0⟩ noMove) bn) (fun t => flies t 2 (.x 1 16)) = true) ∧
    (wordALegal 0x0B ⟨25, 2, 5, false, 1⟩ noMove = true ∧ holds (exec (.macw 0 ⟨25, 2, 5, false, 1⟩ noMove) bn) (fun t =>
      flies t 3 (.a 3 (BitVec.ofInt 96 (-1 - 3 * 2 ^ 28)) true) && flies t 2 (.x 1 4)) = true) := by decide +kernel

theorem witness_SaturatingWords :
    (wordALegal 0x0C ⟨9, 1, 5, true, 0⟩ noMove = true ∧ holds (exec (.add 0 ⟨9, 1, 5, true, 0⟩ noMove) bn) (fun t =>
      flies t 1 (.d 9 (BitVec.ofInt 48 (2 ^ 47 - 1))) && flies t 1 (.flags (some false) (some false) (some true)) && (stallOf t 0).sticky.getLsbD 0) = true) ∧
    (wordALegal 0x0D ⟨9, 4, 5, false, 0⟩ noMove = true ∧ holds (exec (.sub 0 ⟨9, 4, 5, false, 0⟩ noMove) bn) (fun t =>
      flies t 1 (.d 9 (BitVec.ofInt 48 (-(2 ^ 47)))) && flies t 1 (.flags none none (some true))) = true) ∧
    (wordALegal 0x0E ⟨9, 4, 0, false, 0⟩ noMove = true ∧ holds (exec (.neg 0 ⟨9, 4, 0, false, 0⟩ noMove) bn) (fun t =>
      flies t 1 (.d 9 (BitVec.ofInt 48 (2 ^ 47 - 1)))) = true) ∧
    (wordALegal 0x0F ⟨9, 2, 0, false, 0⟩ noMove = true ∧ holds (exec (.abs 0 ⟨9, 2, 0, false, 0⟩ noMove) bn) (fun t => flies t 1 (.d 9 3)) = true) ∧
    (wordALegal 0x10 ⟨0, 2, 5, false, 0⟩ noMove = true ∧ holds (exec (.cmp 0 ⟨0, 2, 5, false, 0⟩ noMove) bn) (fun t =>
      flies t 1 (.flags (some false) (some true) (some false))) = true) ∧
    (wordALegal 0x14 ⟨9, 2, 0, false, 4⟩ noMove = true ∧ holds (exec (.shl 0 ⟨9, 2, 0, false, 4⟩ noMove) bn) (fun t =>
      flies t 1 (.d 9 (BitVec.ofInt 48 (-48)))) = true) ∧
    (wordALegal 0x17 ⟨9, 2, 5, false, 0⟩ noMove = true ∧ holds (exec (.shv 0 ⟨9, 2, 5, false, 0⟩ noMove) bn) (fun t =>
      flies t 1 (.d 9 (BitVec.ofInt 48 (-12)))) = true) ∧
    (wordALegal 0x17 ⟨9, 3, 6, false, 0⟩ noMove = true ∧ holds (exec (.shv 0 ⟨9, 3, 6, false, 0⟩ noMove) bn) (fun t =>
      flies t 1 (.d 9 (2 ^ 29 + 1))) = true) := by decide +kernel

theorem witness_LogicalWords :
    (wordALegal 0x11 ⟨9, 2, 5, true, 0⟩ noMove = true ∧ holds (exec (.and 0 ⟨9, 2, 5, true, 0⟩ noMove) bn) (fun t =>
      flies t 1 (.d 9 0) && flies t 1 (.flags (some true) (some false) (some false))) = true) ∧
    (wordALegal 0x12 ⟨9, 2, 5, false, 0⟩ noMove = true ∧ holds (exec (.or 0 ⟨9, 2, 5, false, 0⟩ noMove) bn) (fun t =>
      flies t 1 (.d 9 (BitVec.ofInt 48 (-1)))) = true) ∧
    (wordALegal 0x13 ⟨9, 5, 6, false, 0⟩ noMove = true ∧ holds (exec (.xor 0 ⟨9, 5, 6, false, 0⟩ noMove) bn) (fun t => flies t 1 (.d 9 0x3C)) = true) ∧
    (wordALegal 0x15 ⟨9, 2, 0, false, 1⟩ noMove = true ∧ holds (exec (.shr 0 ⟨9, 2, 0, false, 1⟩ noMove) bn) (fun t =>
      flies t 1 (.d 9 (BitVec.ofInt 48 (-2)))) = true) ∧
    (wordALegal 0x16 ⟨9, 4, 0, false, 31⟩ noMove = true ∧ holds (exec (.shrl 0 ⟨9, 4, 0, false, 31⟩ noMove) bn) (fun t =>
      flies t 1 (.d 9 (2 ^ 16))) = true) := by decide +kernel

/-- LUT of two steps at P1: 0, 16, 64 (as S48), and full scale and half scale in D7 and D8; −1 is D2. -/
def tables : State :=
  setStall 0 { bench with d := bench.d ++ [(7, BitVec.ofInt 48 (2 ^ 40)), (8, BitVec.ofInt 48 (2 ^ 38))] }
    (memPoke (localBase 0 + 0x100) (leBytes 8 0 ++ leBytes 8 16 ++ leBytes 8 64) bn)

theorem witness_TableWords :
    (wordALegal 0x18 ⟨4, 6, 5, true, 0⟩ noMove = true ∧ holds (exec (.ramp 0 ⟨4, 6, 5, true, 0⟩ noMove) bn) (fun t =>
      flies t 2 (.c 4 100) && flies t 2 (.flags (some true) (some false) (some false))) = true) ∧
    (wordALegal 0x18 ⟨4, 4, 5, true, 0⟩ noMove = true ∧ holds (exec (.ramp 0 ⟨4, 4, 5, true, 0⟩ noMove) bn) (fun t => flies t 2 (.c 4 20)) = true) ∧
    (wordALegal 0x18 ⟨4, 7, 5, true, 1⟩ noMove = true ∧ holds (exec (.ramp 0 ⟨4, 7, 5, true, 1⟩ noMove) bn) (fun t => flies t 2 (.c 4 55)) = true) ∧
    (canIssue tables 0 = true ∧ wordALegal 0x19 ⟨9, 8, 1, false, 1⟩ noMove = true ∧ holds (exec (.lut 0 ⟨9, 8, 1, false, 1⟩ noMove) tables) (fun t =>
      flies t 3 (.d 9 8)) = true) ∧
    holds (exec (.lut 0 ⟨9, 2, 1, false, 1⟩ noMove) tables) (fun t => flies t 3 (.d 9 0)) = true ∧
    holds (exec (.lut 0 ⟨9, 7, 1, false, 1⟩ noMove) tables) (fun t => flies t 3 (.d 9 64)) = true ∧
    (wordALegal 0x1A ⟨2, 5, 2, false, 0⟩ noMove = true ∧ holds (exec (.maxi 0 ⟨2, 5, 2, false, 0⟩ noMove) bn) (fun t =>
      flies t 3 (.d 2 2) && flies t 3 (.p 2 0)) = true) ∧
    (wordALegal 0x1B ⟨5, 2, 2, false, 0⟩ noMove = true ∧ holds (exec (.mini 0 ⟨5, 2, 2, false, 0⟩ noMove) bn) (fun t =>
      flies t 3 (.d 5 (BitVec.ofInt 48 (-3)))) = true) ∧
    (wordALegal 0x1C ⟨5, 4, 2, false, 0⟩ noMove = true ∧ holds (exec (.maxai 0 ⟨5, 4, 2, false, 0⟩ noMove) bn) (fun t =>
      flies t 3 (.d 5 (BitVec.ofInt 48 (2 ^ 47 - 1)))) = true) := by decide +kernel

theorem test_words_decode :
    decodeStallWord 0x02050C8016614001 = some (.fmtA 0x02 ⟨1, 0x10, 0x32, false, 0⟩ ⟨1, ⟨0x66, 1, 1, 1⟩⟩) ∧
    decodeStallWord 0x4110000000001ABC = some (.br 1 0x1ABC) ∧ decodeStallWord 0x8105FFFFFFFFFFFF = some (.fmtC 1 5 0xFFFFFFFFFFFF) ∧
    decodeStallWord 0xC000000000000000 = none := by decide +kernel

/-! ### Moves, control, events and the exchange (LoadWords to NothingAfterSync) -/

/-- The bench with items at P1 = 100h: the 8 bytes 01 to 08, then 11h, 12h, … to 18h, and P3 = 105h with L3 = 6 and M2 = 2, M3 = 20; MX 7 is the token of
bank 0. -/
def loaded : State :=
  setStall 0 { bench with p := [(1, 0x100), (2, 0x103), (3, 0x105), (4, 0x4000), (5, 0x10008), (6, 0x80000), (7, 0xFFFF8)]
                          m := [(1, 8), (2, 2), (3, 20), (4, BitVec.ofInt 20 (-24))], l := [(3, 6)] }
    (memPoke (localBase 0 + 0x100) [1, 2, 3, 4, 5, 6, 7, 0x88, 0x11, 0x12, 0x13, 0x14, 0x15, 0x16, 0x17, 0x18] bn)

/-- The word of a move is legal beside a NOP, and its effect has a property. -/
def moves (mv : BitVec 4) (g : MoveArgs) (i : ArithF → MoveArgs → Instr) (s : State) (P : State → Bool) : Bool :=
  canIssue s 0 && wordALegal 0 noArith ⟨mv, g⟩ && holds (exec (i noArith g) s) P

theorem witness_LoadWords :
    moves 0x1 ⟨9, 1, 1, 0x400⟩ (.ldS 0 0) loaded (fun t => flies t 2 (.d 9 0x060504030201) && flies t 1 (.p 1 0x108)) = true ∧
    moves 0x3 ⟨9, 2, 2, 0x3FFF⟩ (.ldK 0 0) loaded (fun t => flies t 2 (.d 9 (BitVec.ofInt 48 (0x04030201 * 512))) && ((stallOf t 0).sticky.getLsbD 5)) = true ∧
    moves 0x5 ⟨9, 1, 2, 6⟩ (.ldH 0 0) loaded (fun t => flies t 2 (.d 9 (BitVec.ofInt 48 (-0x77F9)))) = true ∧
    moves 0x7 ⟨0x68, 1, 0, 0⟩ (.ldC 0 0) loaded (fun t => flies t 2 (.p 0 0x30201)) = true ∧
    moves 0x9 ⟨0x47, 1, 0, 0⟩ (.ldA 0 0) loaded (fun t => flies t 2 (.a 7 0x141312118807060504030201 false)) = true ∧
    moves 0xB ⟨0x99, 1, 0, 0⟩ (.ldX 0 0) loaded (fun t => flies t 2 (.x 1 0x0504030201)) = true ∧
    moves 0xD ⟨9, 1, 0, 0⟩ (.ldSp 0 0) loaded (fun t => flies t 2 (.d 9 0x060504030201) && flies t 2 (.d 10 0x161514131211)) = true ∧
    moves 0xE ⟨0x48, 1, 0, 0⟩ (.ldCp 0 0) loaded (fun t => flies t 2 (.c 0 0x04030201) && flies t 2 (.c 1 0x88070605)) = true ∧
    moves 0xF ⟨9, 4, 2, 0x1000⟩ (.mov 0 0) loaded (fun t => flies t 1 (.d 9 (BitVec.ofInt 48 (2 ^ 28)))) = true := by decide +kernel

/-- A full output channel 1 of the live page. -/
def outgoing : State := { loaded with pages := [(0, { pagesEmpty with hdr0 := { headerEmpty with hasProgram := true, outs := [none, some ⟨.amp 3, 2, false, none, false⟩] } })] }

theorem witness_StoreWords :
    moves 0x2 ⟨2, 1, 0, 0⟩ (.stS 0 0) loaded (fun t => flies t 2 (.mem 0x08000100 [0xFD, 0xFF, 0xFF, 0xFF, 0xFF, 0xFF, 0xFF, 0xFF])) = true ∧
    moves 0x4 ⟨1, 1, 0, 0⟩ (.stK 0 0) loaded (fun t => flies t 2 (.mem 0x08000100 [0xFF, 0xFF, 0xFF, 0x7F])) = true ∧
    moves 0x6 ⟨6, 2, 0, 0⟩ (.stH 0 0) loaded (fun t => flies t 2 (.mem 0x08000102 [0x3E, 0])) = true ∧
    moves 0x8 ⟨0x7B, 1, 0, 0⟩ (.stC 0 0) loaded (fun t => flies t 2 (.mem 0x08000100 [20, 0, 0, 0])) = true ∧
    moves 0xA ⟨0x43, 1, 0, 0⟩ (.stA 0 0) loaded (fun t => flies t 2 (.mem 0x08000100 (leBytes 16 (2 ^ 128 - 1)))) = true ∧
    moves 0xC ⟨0x99, 1, 0, 0⟩ (.stX 0 0) loaded (fun t => flies t 2 (.mem 0x08000100 [10, 0, 0, 0, 0, 0, 0, 0])) = true ∧
    moves 0x2 ⟨5, 5, 0, 0⟩ (.stS 0 0) outgoing (fun t => t.outFlight == [⟨0, 0, 1, ⟨.amp 3, 2, false, none, false⟩, 2⟩]) = true ∧
    moves 0x0 ⟨0, 0, 0, 0⟩ (fun f g => .nop 0 f ⟨0, g⟩) bn (fun t => (stallOf t 0).issueNo == 1 && (stallOf t 0).frameIssues == 1 && (stallOf t 0).inflight.isEmpty) = true := by
  decide +kernel

/-- Bank 0 is stall 0's, bank 1 the groom's. -/
def banked : State := setFld Fld.BANK_OWN_OWNER 1 9 (setFld Fld.BANK_OWN_OWNER 0 0 loaded)

theorem witness_AccessRules :
    checkItem banked 0 0x3FFF 8 = ⟨some (0x08000000 + 0x3FF8), none, 32, false⟩ ∧ checkItem banked 0 0x4000 8 = ⟨none, none, 16, false⟩ ∧
    checkItem banked 0 0xFFFF 1 = ⟨none, none, 16, false⟩ ∧ checkItem banked 0 0x10000 8 = ⟨none, some 0, 0, false⟩ ∧
    checkItem banked 0 0x1FFFF 8 = ⟨none, some 0x1FFF, 32, false⟩ ∧ checkItem banked 0 0x20000 8 = ⟨none, none, 16, false⟩ ∧
    checkItem banked 0 0x7FFFF 4 = ⟨none, none, 48, false⟩ ∧ checkItem banked 0 0x80000 8 = ⟨some (scratchBase 0), none, 0, false⟩ ∧
    checkItem banked 0 0x88000 8 = ⟨none, none, 128, true⟩ ∧ (loadItem banked 0 0x88000 8).val = 0 ∧
    (ueHit banked (wordsOf 0x08000100 2) = false ∧ (loadItem banked 0 0x100 2).val = 0x201) := by decide +kernel

/-- A store of two bytes that is due, one that is not. -/
def storing : State := setStall 0 { bench with inflight := [⟨0, .mem 0x08000102 [0xAA, 0xBB]⟩, ⟨1, .mem 0x08000104 [0xCC]⟩] } loaded

theorem witness_StoresLand :
    ((stallOf storing 0).inflight.filter (fun w => w.due ≤ (stallOf storing 0).issueNo) = [⟨0, .mem 0x08000102 [0xAA, 0xBB]⟩] ∧
      ueHit storing (wordsOf 0x08000102 2) = false ∧ heldAreas storing = [] ∧ memBytes (landDue 0 storing) 0x08000102 2 = [0xAA, 0xBB]) ∧
    (memByte (landDue 0 storing) 0x08000101 = 2 ∧ memByte (landDue 0 storing) 0x08000104 = 5) := by decide +kernel

theorem witness_WordFrame :
    (match issuedWord (.ldS 0 0 noArith ⟨9, 1, 1, 0x400⟩) with | some (u, w) => decide (u = 0 ∧ w.extractLsb' 62 2 ≠ 1#2) | none => false) = true ∧
    (match issuedWord (.ldi 0 5 7) with | some (u, w) => decide (u = 0 ∧ w.extractLsb' 62 2 ≠ 1#2) | none => false) = true := by decide +kernel

theorem witness_PointerSteps :
    moves 0x1 ⟨9, 7, 1, 0x400⟩ (.ldS 0 0) loaded (fun t => flies t 1 (.p 7 0)) = true ∧
    ((lReg (seen 0 loaded) 3).toNat = 6 ∧ (formAddr (seen 0 loaded) ⟨9, 3, 1, 0x800⟩).addr = 0x105 ∧
      moves 0x5 ⟨9, 3, 1, 0x800⟩ (.ldH 0 0) loaded (fun t => flies t 1 (.p 3 0x101)) = true) ∧
    moves 0x6 ⟨9, 3, 3, 0x3FFA⟩ (.stH 0 0) loaded (fun t => flies t 1 (.p 3 0x105)) = true ∧
    moves 0x5 ⟨9, 3, 3, 0x3FF9⟩ (.ldH 0 0) loaded (fun t => flies t 1 (.p 3 0x104)) = true ∧
    moves 0x5 ⟨9, 3, 1, 0xC00⟩ (.ldH 0 0) loaded (fun t => flies t 1 (.p 3 0x100) && ((stallOf t 0).sticky.getLsbD 6)) = true ∧
    moves 0x8 ⟨0x48, 3, 3, 0x3FF4⟩ (.stC 0 0) loaded (fun t => flies t 1 (.p 3 0x100) && ((stallOf t 0).sticky.getLsbD 6)) = true := by decide +kernel

/-- Stall 0 at word 10 with calls, Z set. -/
def calling (calls : List PcAddr) : State := issuing { bench with pc := 10, calls := calls, z := true }

theorem witness_BranchWords :
    (canIssue (calling []) 0 = true ∧ ctlPlace (seen 0 (calling [])) = true ∧ condHolds (seen 0 (calling [])) 1 = some true ∧
      holds (exec (.br 0 1 8191) (calling [])) (fun t => (stallOf t 0).pc == 11 && (stallOf t 0).delay == some ⟨2, some 8191⟩) = true) ∧
    (condHolds (seen 0 (calling [])) 2 = some false ∧
      holds (exec (.br 0 2 8191) (calling [])) (fun t => (stallOf t 0).delay == some ⟨2, none⟩) = true) := by decide +kernel

theorem witness_CallsAndReturns :
    holds (exec (.call 0 0 100) (calling [1, 2, 3])) (fun t => (stallOf t 0).calls == [13, 1, 2, 3] && (stallOf t 0).delay == some ⟨2, some 100⟩) = true ∧
    holds (exec (.call 0 0 100) (calling [0, 1, 2, 3])) (fun t => (stallOf t 0).calls == [0, 1, 2, 3] && (stallOf t 0).sticky.getLsbD 3 &&
      (stallOf t 0).delay == some ⟨2, none⟩) = true ∧
    holds (exec (.call 0 2 100) (calling [0, 1, 2, 3])) (fun t => (stallOf t 0).calls == [0, 1, 2, 3] && (stallOf t 0).sticky == 0) = true ∧
    holds (exec (.ret 0 1) (calling [7])) (fun t => (stallOf t 0).calls == [] && (stallOf t 0).delay == some ⟨2, some 7⟩) = true ∧
    holds (exec (.ret 0 1) (calling [])) (fun t => (stallOf t 0).sticky.getLsbD 3 && (stallOf t 0).delay == some ⟨2, none⟩) = true ∧
    holds (exec (.ret 0 2) (calling [])) (fun t => (stallOf t 0).sticky == 0 && (stallOf t 0).pc == 11) = true := by decide +kernel

/-- Stall 0 at word 5 after a loop's last word. -/
def looping (count : Nat) : State := issuing { bench with pc := 5, loop := some ⟨2, 3, count, true, true⟩ }

theorem witness_LoopsAndRotation :
    (repeatLegal false 3 65536 = true ∧ holds (exec (.repeat_ 0 true false 3 65536) (calling [])) (fun t =>
      (stallOf t 0).loop == some ⟨11, 3, 65536, true, false⟩) = true) ∧
    (repeatLegal true 256 8 = true ∧ holds (exec (.repeat_ 0 false true 256 8) (calling [])) (fun t =>
      (stallOf t 0).loop == none && (stallOf t 0).pc == 267) = true) ∧
    (repeatLegal true 1 1 = true ∧ holds (exec (.repeat_ 0 false true 1 1) (calling [])) (fun t =>
      (stallOf t 0).loop == some ⟨11, 1, 65536, false, false⟩) = true) ∧
    holds (exec (.repeatIterationEnd 0) (looping 2)) (fun t => (stallOf t 0).pc == 2 && (stallOf t 0).rb == 31 &&
      (stallOf t 0).loop == some ⟨2, 3, 1, true, false⟩) = true ∧
    holds (exec (.repeatIterationEnd 0) (looping 1)) (fun t => (stallOf t 0).pc == 5 && (stallOf t 0).rb == 31 && (stallOf t 0).loop == none) = true ∧
    (inBody (seen 0 (calling [])) = false ∧ holds (exec (.rot 0) (calling [])) (fun t => (stallOf t 0).rb == 31 && (stallOf t 0).pc == 11) = true) := by
  decide +kernel

/-- Flag 4 of stall 0 is set with SKIP. -/
def flagged : State := issuing { bench with ef := [(4, ⟨true, true, 3⟩)] }
/-- Stall 0 waits on flag 4, which has been set. -/
def waiting : State := setUnit 0 { unitIdle with st := .waitEvent } (setStall 0 { stallOf flagged 0 with blocked := some (.wait 4) } flagged)
/-- A post for flag 4 of stall 0 is on its way. -/
def posted (s : State) : State := { s with posts := [⟨1, 4, false, 0⟩, ⟨0, 4, true, 9⟩] }

theorem witness_EventFlags :
    holds (exec (.wait 0 4) flagged) (fun t => (efOf (stallOf t 0) 4) == flagClear && (stallOf t 0).evskip && (stallOf t 0).pc == 1) = true ∧
    holds (exec (.wait 0 5) flagged) (fun t => (stallOf t 0).blocked == some (.wait 5) && (unitOf t 0).st == .waitEvent) = true ∧
    holds (exec (.waitComplete 0) waiting) (fun t => (stallOf t 0).blocked == none && (unitOf t 0).st == .running && (stallOf t 0).evskip) = true ∧
    holds (exec (.signal 0 1151 15) { flagged with frame := 1 }) (fun t => t.posts.map (fun p => (p.unit, p.flag)) == [(1151, 15)]) = true ∧
    holds (exec (.signal 0 1151 15) { flagged with frame := 2 }) (fun t => t.posts == [] && fld t Fld.FG_DISCARD_COUNT_COUNT == 1) = true ∧
    (tagSkipped (unitOf (posted bn) 0) 9 = false ∧
      holds (exec (.flagPostArrival 0 4) (posted bn)) (fun t => (efOf (stallOf t 0) 4) == ⟨true, true, 9⟩ && t.posts == [⟨1, 4, false, 0⟩]) = true) ∧
    holds (exec (.flagPostArrival 0 4) (posted flagged)) (fun t => (efOf (stallOf t 0) 4) == ⟨true, true, 3⟩ && (stallOf t 0).sticky.getLsbD 8 &&
      t.evtWait.map EvtWait.code == [0xC3, 0x10]) = true := by decide +kernel

/-- Entries of slot 2 of a stall. -/
def slot2 (u : Nat) (es : List ExchEntry) (ws : List SlotWaiter) (s : State) : State := setStall u { stallOf s u with slots := [(2, ⟨es, ws, 0, 0⟩)] } s
/-- An entry that stands ready, and one on its way. -/
def ready : ExchEntry := ⟨77, true, 1, true⟩
def coming : ExchEntry := ⟨78, false, 1, false⟩
/-- Stall 0 blocks on a SEND to slot 2 of stall 9, in which 7 samples stand. -/
def sending : State :=
  slot2 9 (List.replicate 7 ready) [.sender 0]
    (setUnit 0 { unitIdle with st := .waitSend } (setStall 0 { bench with blocked := some (.send 9 2 5), pc := 4 } bn))
/-- Stall 0 blocks on a RECV from its slot 2. -/
def receiving : State :=
  slot2 0 [ready, coming] [] (setUnit 0 { unitIdle with st := .waitRecv } (setStall 0 { bench with blocked := some (.recv 2 63), issueNo := 1 } bn))

theorem witness_ExchangeWords :
    holds (exec (.send 0 9 2 5) (slot2 9 (List.replicate 7 ready) [] bn)) (fun t =>
      (slotOf (stallOf t 9) 2).entries.length == 8 && ((slotOf (stallOf t 9) 2).entries.map ExchEntry.sample).getLast? == some 2 &&
        (stallOf t 0).sendsMade == [(9, 2)]) = true ∧
    holds (exec (.send 0 9 2 5) (slot2 9 (List.replicate 8 ready) [] bn)) (fun t =>
      (slotOf (stallOf t 9) 2).waiters == [.sender 0] && (unitOf t 0).st == .waitSend) = true ∧
    ((stallOf sending 0).halted = false ∧ (slotOf (stallOf sending 9) 2).waiters.head? = some (.sender 0) ∧
      holds (exec (.sendComplete 0) sending) (fun t => (stallOf t 0).blocked == none && (slotOf (stallOf t 9) 2).entries.length == 8 && (stallOf t 0).pc == 5) = true) ∧
    (tagSkipped (unitOf receiving 0) 1 = false ∧
      holds (exec (.exchangeArrival 0 2) receiving) (fun t => (slotOf (stallOf t 0) 2).entries == [ready, { coming with here := true }]) = true) ∧
    holds (exec (.recv 0 2 63) (slot2 0 [ready] [] bn)) (fun t => flies t 2 (.d 63 77) && flies t 2 (.fillrx true) && (stallOf t 0).sticky.getLsbD 9 &&
      (slotOf (stallOf t 0) 2).entries == []) = true ∧
    holds (exec (.recv 0 2 63) bn) (fun t => (stallOf t 0).blocked == some (.recv 2 63) && (unitOf t 0).st == .waitRecv) = true ∧
    holds (exec (.recvComplete 0) receiving) (fun t => (stallOf t 0).blocked == none && flies t 2 (.d 63 77) &&
      (slotOf (stallOf t 0) 2).entries == [coming]) = true := by decide +kernel

theorem witness_ImmediateWords :
    (wordCLegal 1 0x48 0x80000000 = false ∧ wordCLegal 1 0x48 0xFFFF80000000 = true ∧
      holds (exec (.ldi 0 0x48 0xFFFF80000000) bn) (fun t => flies t 1 (.c 0 0x80000000)) = true) ∧
    (wordCLegal 2 1 1 = true ∧ holds (exec (.addi 0 1 1) bn) (fun t => flies t 1 (.d 1 (BitVec.ofInt 48 (2 ^ 47 - 1))) && (stallOf t 0).sticky.getLsbD 0) = true) ∧
    (wordCLegal 2 0x49 0x7FFFFFFF = true ∧ holds (exec (.addi 0 0x49 0x7FFFFFFF) bn) (fun t =>
      flies t 1 (.c 1 0x7FFFFFFF) && flies t 1 (.flags none none (some true))) = true) ∧
    (wordCLegal 2 0x69 0xFFFFFFFFFE00 = true ∧ holds (exec (.addi 0 0x69 0xFFFFFFFFFE00) bn) (fun t => flies t 1 (.p 1 0xFFF00)) = true) ∧
    (wordCLegal 3 2 0xF0 = true ∧ holds (exec (.andi 0 2 0xF0) bn) (fun t => flies t 1 (.d 2 0xF0)) = true) ∧
    (wordCLegal 4 5 0xF0 = true ∧ holds (exec (.ori 0 5 0xF0) bn) (fun t => flies t 1 (.d 5 0xF2)) = true) ∧
    (wordCLegal 5 5 0xF2 = true ∧ holds (exec (.xori 0 5 0xF2) bn) (fun t => flies t 1 (.d 5 0xF0)) = true) ∧
    (wordCLegal 6 2 0xFFFFFFFFFFFE = true ∧ holds (exec (.cmpi 0 2 0xFFFFFFFFFFFE) bn) (fun t =>
      flies t 1 (.flags (some false) (some true) (some false))) = true) := by decide +kernel

/-- An abort of stall 0 is due at the end of a loop's body. -/
def aborting : State := setStall 0 { stallOf (looping 2) 0 with abortPending := true, calls := [1], rb := 3 } (looping 2)
/-- A write to page B's last word is held, while page A is live. -/
def holding : State := { bn with pages := [(0, { pagesEmpty with held := [⟨true, 8191, 0x1234⟩] })] }
/-- An output write of stall 0 for amplifier 3 is on its way. -/
def landing : State := { bn with outFlight := [⟨0, 0, 1, ⟨.amp 3, 2, false, none, false⟩, 5⟩], frame := 1 }

theorem witness_FrameWorkEnds :
    holds (exec (.sync 0 500) bn) (fun t => (unitOf t 0).st == .ended && (unitOf t 0).ends == [⟨0, 500, false⟩]) = true ∧
    (let s := setStall 0 { bench with inflight := [⟨3, .d 5 7⟩] } bn
     holds (exec (.sync 0 500) s) (fun t => (stallOf t 0).inflight == [] && dPhys (stallOf t 0) 5 == 7) = true) ∧
    (atEventPoint aborting 0 = true ∧ holds (exec (.stallAbort 0 500) aborting) (fun t => (unitOf t 0).ends == [⟨0, 500, true⟩] && (stallOf t 0).loop == none &&
      (stallOf t 0).calls == [] && (stallOf t 0).rb == 0 && fld t Fld.FG_STATUS_ABORT_STICKY == 1 && fld t Fld.FG_ABORT_COUNT_COUNT == 1) = true) ∧
    (rawWordLegal (stallOf bn 0) 0xC000000000000000 = false ∧ holds (exec (.illegalWord 0 0xC000000000000000) bn) (fun t => (stallOf t 0).sticky.getLsbD 2 &&
      (stallOf t 0).pc == 1 && t.evtWait.map EvtWait.code == [0xC3, 0x10]) = true) ∧
    holds (exec (.heldPageWrite 0) holding) (fun t => (pagesOf t 0).held == [] && t.progMem == [(16383, 0x1234)]) = true ∧
    ((outOf landing (destKey (.amp 3))).closed = 0 ∧ holds (exec (.outputWriteLanding 0 1) landing) (fun t => t.outFlight == [] &&
      (outOf t (destKey (.amp 3))).words == [⟨0, 2, 5⟩]) = true) := by decide +kernel

/-- Stall 3 is selected in the debug window and halted, or not. -/
def debugging (halted : Bool) : State := setFld Fld.DBG_SEL_STALL 0 3 (setStall 3 { stallReset with halted := halted, d := [(5, 0x123456789ABC)] } State.reset)
/-- The same, with D5's low word selected. -/
def window : State := setFld Fld.DBG_REG_SEL_INDEX 0 5 (debugging true)
/-- In RUN no halt is allowed. -/
def inRun : State := { debugging false with mode := .run }

theorem witness_DebugCommands :
    (haltAllowed (debugging false) = true ∧ holds (exec .haltReq (debugging false)) (fun t => (stallOf t 3).haltPending) = true) ∧
    (haltAllowed inRun = false ∧ holds (exec .haltReq inRun) (fun t => fld t Fld.DBG_STATUS_REFUSED == 1) = true) ∧
    holds (exec .step (debugging true)) (fun t => (stallOf t 3).stepping && !(stallOf t 3).halted) = true ∧
    holds (exec .resume (debugging true)) (fun t => !(stallOf t 3).halted) = true ∧
    (let s := setStall 3 { stallReset with haltPending := true } State.reset
     atEventPoint s 3 = true ∧ holds (exec (.controlEventTaken 3) s) (fun t => (stallOf t 3).halted) = true) ∧
    ((stallOf window 3).halted = true ∧ fld window Fld.DBG_REG_SEL_INDEX = 5 ∧ fld window Fld.DBG_REG_SEL_WORD = 0 ∧
      holds (exec (.dbgRegDataAccess none) window) (fun t => t.lastRead == 0x56789ABC) = true ∧
      holds (exec (.dbgRegDataAccess (some 0xDEADBEEF)) window) (fun t => dPhys (stallOf t 3) 5 == 0x1234DEADBEEF) = true) ∧
    (let s := setStall 3 { stallOf window 3 with inflight := [⟨2, .d 5 7⟩, ⟨1, .d 6 8⟩] } window
     holds (exec (.dbgRegDataAccess none) s) (fun t => t.lastRead == 7) = true ∧
       holds (exec (.dbgRegDataAccess (some 9)) s) (fun t => dPhys (landedView (stallOf t 3)) 5 == 9 && dPhys (landedView (stallOf t 3)) 6 == 8) = true) ∧
    holds (exec (.dbgRegDataAccess none) (debugging false)) (fun t => t.lastRead == 0 && fld t Fld.DBG_STATUS_NOT_HALTED == 1) = true ∧
    holds (exec (.dbgRegDataAccess (some 1)) (debugging false)) (fun t => fld t Fld.DBG_STATUS_NOT_HALTED == 1) = true := by decide +kernel

/-- Stall 0 at the last word of its page. -/
def atTop : State := issuing { bench with pc := 8191 }

theorem witness_NothingAfterSync :
    (holds (exec (.sync 0 500) bn) (fun t => holds (exec (.wait 0 4) t) (fun y => decide (y = t))) = true) ∧
    (canIssue atTop 0 = true ∧ (seen 0 atTop).pc = 8191 ∧ (seen 0 atTop).delay = none ∧ (seen 0 atTop).loop = none ∧
      moves 0x1 ⟨9, 1, 0, 0⟩ (.ldS 0 0) atTop (fun t => (stallOf t 0).pc == 0) = true ∧
      holds (exec (.ldi 0 5 7) atTop) (fun t => (stallOf t 0).pc == 0) = true) := by decide +kernel

/-! ### Drovers, crossbar, memory upkeep, ports (DroverPrograms to PortsAndInputs) -/

/-- Drover 3 has frame work pending on its channels 2 (frame 9) and 5 (frame 8), channel 7 a non-frame program. -/
def herding : State :=
  setUnit 1053 { unitIdle with frame := 8 } (setUnit 1050 { unitIdle with frame := 9 } (fields
    [(Fld.DRV_CTRL_MODE, 3, 1), (Fld.CH_CFG_FRAME, 26, 1), (Fld.CH_CFG_FRAME, 29, 1), (Fld.CH_CFG_ENTRY, 29, 17), (Fld.CH_STATUS_STATE, 26, 1),
     (Fld.CH_STATUS_STATE, 29, 1)] State.reset))
/-- Drover 3 with non-frame programs pending on channels 1 and 7, the last one started 6. -/
def queued : State := setDrover 3 ⟨none, 6⟩ (fields [(Fld.DRV_CTRL_MODE, 3, 1), (Fld.CH_STATUS_STATE, 25, 1), (Fld.CH_STATUS_STATE, 31, 1), (Fld.DRV_NF_GATE_NF_GATE, 3, 900)] State.reset)

/-- Drover 2 runs a program on channel 4, with frame work of a frame or without. -/
def droving (frame : Option Nat) (pc : Nat) : State :=
  setUnit 1044 { unitIdle with st := .running, frame := 5 } (setDrover 2 ⟨some ⟨4, frame, pc, none, 0, 0, false, none, false⟩, 7⟩ (fields [(Fld.CH_STATUS_STATE, 20, 2)] State.reset))

theorem witness_DroverPrograms :
    (firstFrame (pendingFrames herding 3) = some (8, 5) ∧ holds (exec (.droverProgramStart 3 0) herding) (fun t =>
      (droverOf t 3).run == some ⟨5, some 8, 17, none, 0, 0, false, none, false⟩ && fld t Fld.CH_STATUS_STATE 29 == 2) = true) ∧
    (firstFrame (pendingFrames queued 3) = none ∧ framesDone queued 3 = true ∧ firstNonFrame queued 3 6 = some 7 ∧
      holds (exec (.droverProgramStart 3 900) queued) (fun t => (droverOf t 3).run == some ⟨7, none, 0, none, 0, 0, false, none, false⟩) = true ∧
      holds (exec (.droverProgramStart 3 899) queued) (fun t => (droverOf t 3).run == none) = true) ∧
    holds (exec (.chStart 3 0 20) State.reset) (fun t => fld t Fld.CH_STATUS_STATE 24 == 1) = true ∧
    holds (exec (.chStart 3 7 0) queued) (fun t => fld t Fld.DRV_FAULT_START_REFUSED 3 == 1) = true ∧
    holds (exec (.chStart 3 0 21) State.reset) (fun t => fld t Fld.DRV_FAULT_HOST_CH0 3 == 1) = true ∧
    ((activeRun (droving none 63) 2).isSome = true ∧ drvBursts (droving none 63) 2 true = false ∧ holds (exec (.droverEnd 2 0) (droving none 63)) (fun t => (droverOf t 2).run == none &&
      fld t Fld.CH_STATUS_STATE 20 == 0) = true) ∧
    ((activeRun (droving (some 5) 3) 2).isSome = true ∧ holds (exec (.droverEnd 2 0) (droving (some 5) 3)) (fun t => (unitOf t 1044).st == .ended && fld t Fld.CH_STATUS_END_CODE 20 == 0) = true) ∧
    (faultCode (droving none 3) 2 ⟨4, none, 3, none, 0, 0, false, none, false⟩ ⟨0x7000000000000000, 0, 0, 0⟩ = some 1 ∧ drvBursts (droving none 3) 2 false = false ∧
      holds (exec (.droverProgramEndFault 2 0x7000000000000000 0 0 0 0) (droving none 3)) (fun t => fld t Fld.DRV_FAULT_END_FAULT 2 == 1 && raised t == [0x42]) = true) ∧
    (let s := setChan 20 { chanEmpty with abort := true } (droving (some 5) 3)
     (chanOf s 20).abort = true ∧ holds (exec (.droverAbortTaken 2 4 0) s) (fun t => fld t Fld.CH_STATUS_END_CODE 20 == 5 && (droverOf t 2).run == none) = true) ∧
    (let s := fields [(Fld.FG_CTRL_HANG_FRAMES, 0, 4)] { setUnit 3 { unitIdle with st := .running, frame := 5 } (droving (some 5) 3) with frame := 11 }
     holds (exec (.hangAbort 3) s) (fun t => (stallOf t 3).abortPending) = true ∧ holds (exec (.hangAbort 1044) s) (fun t => (chanOf t 20).abort) = true) := by
  decide +kernel

/-- Drover 2 runs, with bytes in stall 0's local memory, request line 47 asserted. -/
def moving : State := { memPoke 0x08000100 [1, 2, 3, 4, 5, 6, 7, 8] (droving none 3) with lines := [47] }

theorem witness_DroverInstructions :
    (activeRun moving 2 = some ⟨4, none, 3, none, 0, 0, false, none, false⟩ ∧
      drvEnd moving 2 ⟨4, none, 3, none, 0, 0, false, none, false⟩ ⟨0x1000000008000100, 0x400000000, 0, 0⟩ = none ∧
      drvHold moving 2 ⟨4, none, 3, none, 0, 0, false, none, false⟩ ⟨0x1000000008000100, 0x400000000, 0, 0⟩ = none ∧
      elemWaits moving 2 ⟨4, none, 3, none, 0, 0, false, none, false⟩ (moveDesc ⟨0x1000000008000100, 0x400000000, 0, 0⟩) 0 = none ∧
      xbTarget 0x08000100 < 14 ∧ xbTarget 0x08000100 ≠ 12 ∧ xbTarget 0x400000000 < 12 ∧
      (let m := moveDesc ⟨0x1000000008000100, 0x400000000, 0, 0⟩
       elemEnd moving 2 ⟨4, none, 3, none, 0, 0, false, none, false⟩ m 0 = none ∧ m.pace = false ∧ elemCount m = 1 ∧ m.esz = 0 ∧ m.dspace = 0 ∧ m.smode = 0 ∧ m.dmode = 0 ∧
         m.src = 0x08000100 ∧ m.dst = 0x400000000 ∧ xbReadKind moving (masterDrover 2) m.src 8 = .ok ∧ xbWriteKind moving (masterDrover 2) m.dst 8 = .ok) ∧
      ueHit moving (wordsOf 0x400000000 8) = false ∧ moving.ceWords = [] ∧ heldAreas moving = [] ∧
      holds (exec (.move 2 0x1000000008000100 0x400000000 0 0 0) moving) (fun t => memBytes t 0x400000000 8 == [1, 2, 3, 4, 5, 6, 7, 8] &&
        (droverOf t 2).run == some ⟨4, none, 4, none, 8, 0, false, none, false⟩) = true) ∧
    holds (exec (.loop 2 0x2000000000010001 0) moving) (fun t => (droverOf t 2).run == some ⟨4, none, 1, some ⟨3, 0⟩, 0, 0, false, none, false⟩) = true ∧
    holds (exec (.loop 2 0x2000000000010000 0) moving) (fun t => (droverOf t 2).run == some ⟨4, none, 4, none, 0, 0, false, none, false⟩) = true ∧
    (drvEnd moving 2 ⟨4, none, 3, none, 0, 0, false, none, false⟩ ⟨0x3000000000000006, 0, 0, 0⟩ = none ∧
      drvHold moving 2 ⟨4, none, 3, none, 0, 0, false, none, false⟩ ⟨0x3000000000000006, 0, 0, 0⟩ = none ∧
      holds (exec (.droverWait 2 0x3000000000000006 0) (fields [(Fld.CH_EVENTS_FLAGS, 20, 64)] moving)) (fun t => fld t Fld.CH_EVENTS_FLAGS 20 == 0 &&
        (droverOf t 2).run == some ⟨4, none, 4, none, 0, 0, false, none, false⟩) = true) ∧
    holds (exec (.droverWait 2 0x3000000000000006 0) moving) (fun t => fld t Fld.CH_STATUS_STATE 20 == 3) = true ∧
    (drvEnd moving 2 ⟨4, none, 3, none, 0, 0, false, none, false⟩ ⟨0x4000000004000007, 0, 0, 0⟩ = none ∧
      drvHold moving 2 ⟨4, none, 3, none, 0, 0, false, none, false⟩ ⟨0x4000000004000007, 0, 0, 0⟩ = none ∧
      holds (exec (.droverSignal 2 0x4000000004000007 0) moving) (fun t => t.posts.map (fun p => (p.unit, p.flag)) == [(1024, 7)]) = true) ∧
    (drvEnd moving 2 ⟨4, none, 3, none, 0, 0, false, none, false⟩ ⟨0x16F0000008000100, 0x1000400000000, 0, 0⟩ = none ∧
      drvHold moving 2 ⟨4, none, 3, none, 0, 0, false, none, false⟩ ⟨0x16F0000008000100, 0x1000400000000, 0, 0⟩ = none ∧
      elemWaits moving 2 ⟨4, none, 3, none, 0, 0, false, none, false⟩ (moveDesc ⟨0x16F0000008000100, 0x1000400000000, 0, 0⟩) 0 = none ∧
      elemEnd moving 2 ⟨4, none, 3, none, 0, 0, false, none, false⟩ (moveDesc ⟨0x16F0000008000100, 0x1000400000000, 0, 0⟩) 0 = none ∧
     
      (moveDesc ⟨0x16F0000008000100, 0x1000400000000, 0, 0⟩).line = 47 ∧ elemCount (moveDesc ⟨0x16F0000008000100, 0x1000400000000, 0, 0⟩) = 2 ∧
      holds (exec (.pacedBurstStart 2 0x16F0000008000100 0x1000400000000 0 0 0) moving) (fun t =>
        (droverOf t 2).run == some ⟨4, none, 3, none, 8, 1, false, none, false⟩) = true) := by decide +kernel

/-- A read of yard 0 and a write of cellar channel 0 by the host, and a FRAME burst of drover 3. -/
def offerRead : BurstOffer := ⟨21, 0x04000100, 8, none, false⟩
def offerFrame : BurstOffer := ⟨7, 0x04000200, 256, none, false⟩
/-- Drover 3 runs channel 5 with a share of 1/16. -/
def shared : State := setDrover 3 ⟨some ⟨5, some 8, 17, none, 0, 0, false, none, false⟩, 0⟩ (fields [(Fld.CH_CFG_SHARE, 29, 16), (Fld.BANK_OWN_OWNER, 0, 8)] herding)
/-- Two bursts of the host wait for answers. -/
def bursting : State :=
  { moving with bursts := [⟨3, 0, 0x04000000, 8, none, .ok⟩, ⟨21, 4, 0x400000000, 2, some [0xAA, 0xBB], .ok⟩, ⟨21, 2, 0x08800000, 8, none, .ok⟩] }

theorem witness_CrossbarBursts :
    (burstOffered State.reset 0 offerRead = true ∧ holds (exec (.crossbarGrant 0 ⟨[offerRead], 0⟩) State.reset) (fun t =>
      t.bursts == [⟨21, 0, 0x04000100, 8, none, .ok⟩] && (arbOf t 0).parked == 21) = true) ∧
    (burstOffered shared 0 offerFrame = true ∧ burstOffered shared 0 offerRead = true ∧ frameClass shared offerFrame = true ∧ frameClass shared offerRead = false ∧
      eligibleAt shared 0 offerFrame = true ∧ holds (exec (.crossbarGrant 0 ⟨[offerRead, offerFrame], 0⟩) shared) (fun t =>
        t.bursts == [⟨7, 0, 0x04000200, 256, none, .ok⟩]) = true ∧
      holds (exec (.crossbarGrant 0 ⟨[offerFrame, offerRead], 0⟩) shared) (fun t => t.bursts == [⟨7, 0, 0x04000200, 256, none, .ok⟩]) = true) ∧
    (xbReadKind bursting 21 0x08800000 8 = .ok ∧ holds (exec (.burstResponse 21 2 0) bursting) (fun t => t.bursts.length == 2) = true) ∧
    (xbWriteKind bursting 21 0x400000000 2 = .ok ∧ ueHit bursting (wordsOf 0x400000000 2) = false ∧ heldAreas bursting = [] ∧
      holds (exec (.burstResponse 21 4 0) bursting) (fun t => memBytes t 0x400000000 2 == [0xAA, 0xBB] && t.bursts.length == 2) = true) ∧
    (let s := fields [(Fld.CELLAR_CH_STATUS_STATE, 0, 3)] bursting
     targetWaits s 4 = true ∧ targetWaits bursting 4 = false ∧ holds (exec (.burstResponse 21 4 0) s) (fun t => decide (t = s)) = true) ∧
    holds (exec (.xbTimeout 21 4) bursting) (fun t => fld t Fld.XB_TO_COUNT_MASTER == 21 && fld t Fld.XB_TO_COUNT_TARGET == 4 && raised t == [0x41] &&
      t.bursts.length == 2) = true := by decide +kernel

/-- In RUN; scrubbing; with retraining of channel 7 pending; with channel 7 training. -/
def inRunReset : State := { State.reset with mode := .run }
def scrubbing : State := fields [(Fld.MEM_CTRL_SCRUB_EN, 0, 1), (Fld.SCRUB_CFG_CE_THRESH, 0, 1), (Fld.MEM_CTRL_RETRAIN_MASK, 0, 0x81)] State.reset
def pending7 : State := { State.reset with retrainPend := 128 }
def training7 : State := fields [(Fld.CELLAR_CH_STATUS_STATE, 7, 3)] State.reset

theorem witness_MemoryUpkeep :
    (fbit inRunReset Fld.MEM_CTRL_OWN_WR_EN = false ∧ holds (exec (.bankOwnWrite 2047 5) inRunReset) (fun t => fld t Fld.MEM_STATUS_OWN_REFUSED == 1) = true) ∧
    holds (exec (.bankOwnWrite 2047 0x19) State.reset) (fun t => fld t Fld.BANK_OWN_OWNER 2047 == 9 && fld t Fld.BANK_OWN_GUEST 2047 == 0) = true ∧
    holds (exec (.bankOwnWrite 0 0x17) State.reset) (fun t => fld t Fld.BANK_OWN_OWNER 0 == 7 && fld t Fld.BANK_OWN_GUEST 0 == 1) = true ∧
    holds (exec .scrubPassEnd scrubbing) (fun t => fld t Fld.SCRUB_STATUS_PASSES == 1) = true ∧
    holds (exec .retrainReq scrubbing) (fun t => t.retrainPend == 0x81) = true ∧
    holds (exec (.cellarDriftRetrain 7) State.reset) (fun t => t.retrainPend == 128) = true ∧
    (cellarUsersDone pending7 7 = true ∧ holds (exec (.scheduledRetrain 7 1500) pending7) (fun t => fld t Fld.CELLAR_CH_STATUS_STATE 7 == 3 && t.retrainPend == 0) = true) ∧
    holds (exec (.scheduledRetrain 7 1499) pending7) (fun t => decide (t = pending7)) = true ∧
    holds (exec (.emergencyRetrain 7) State.reset) (fun t => fld t Fld.CELLAR_CH_STATUS_EMERG 7 == 1 && raised t == [0x35]) = true ∧
    holds (exec (.retrainDone 7) training7) (fun t => fld t Fld.CELLAR_CH_STATUS_STATE 7 == 2 && fld t Fld.CELLAR_CH_STATUS_RETRAIN_COUNT 7 == 1) = true := by
  decide +kernel

/-- Port 31 runs as a target input and is locked; input 3 is enabled, latched if asked, active no more at the ball but still held. -/
def slaved : State := fields [(Fld.PORT_CFG_ROLE, 31, 1), (Fld.PORT_RUNNING_RUNNING, 0, 2 ^ 31), (Fld.PORT_STATE_STATE, 31, 3)] State.reset
def held3 (latch : Bool) : State :=
  { fields [(Fld.OVR_STATUS_IN_ACTIVE, 0, 8)] (setRegWord 0x600 (if latch then 0x07000000 else 0x03000000) State.reset) with ovrBalls := 0 }

theorem witness_PortsAndInputs :
    (portRunning slaved 31 = true ∧ fbit slaved Fld.PORT_CFG_DIR 31 = false ∧
      holds (exec (.externalFrameStart 31 (-5) [0x8001]) slaved) (fun t => (portOf t 31).extIn.length == 1 && fld t Fld.PORT_STATE_EDGE_PHASE 31 == 65531) = true) ∧
    holds (exec (.portClockLoss 31) slaved) (fun t => fld t Fld.PORT_STATE_STATE 31 == 5 && raised t == [0x63]) = true ∧
    ((portOf State.reset 31).startAt = none ∧ (portOf State.reset 31).resumeAt = none ∧ holds (exec (.portCfgWrite 31 1) State.reset) (fun t => fld t Fld.PORT_CFG_EN 31 == 1 &&
      fld t Fld.PORT_STATE_STATE 31 == 1) = true) ∧
    holds (exec (.ovrInput 3 true) (held3 true)) (fun t => fld t Fld.OVR_STATUS_IN_ACTIVE == 8 && fld t Fld.OVR_STATUS_IN_RAW == 15) = true ∧
    (ovrLatch (held3 false) 3 = false ∧ ovrRaw (held3 false) 3 = false ∧ holds (exec (.offHoldExpiry 3) (held3 false)) (fun t => fld t Fld.OVR_STATUS_IN_ACTIVE == 0) = true) ∧
    (ovrLatch (held3 true) 3 = true ∧ holds (exec (.offHoldExpiry 3) (held3 true)) (fun t => decide (t = held3 true)) = true) ∧
    (ovrRaw (held3 true) 3 = false ∧ holds (exec (.ovrUnlatch 8) (held3 true)) (fun t => fld t Fld.OVR_STATUS_IN_ACTIVE == 0) = true) := by decide +kernel

/-! ### Admission, general commands, meters and reports, cellar, ports and override (Admission to WrongLength) -/

/-- ECHO of ABh in session 5, sequence number 100, tag 7, with its CRC-32C, and the same with a bit of the check value wrong. -/
def echoBytes (last : Byte) : List Byte := [1, 0, 0, 1, 7, 0, 0, 5, 0, 0, 0, 100, 0, 0, 0, 1, 0, 0, 0, 0, 0, 0, 0, 0, 0xAB, 0x32, 0x11, 0xC6, last]
/-- A packet waits for admission to session 5. -/
def admitting (b : List Byte) (x : Session) : State := { State.reset with rxq := [arrives b], sessions := [x] }

/-- Session 5 is open, event 3 is in the log and job 1 of session 5 runs. -/
def working : State :=
  { fields [(Fld.EVT_HEAD_HEAD, 0, 4)] State.reset with
    sessions := [session5 0 []], evtLog := [⟨3, 0x52, 0, 1, 0, 0, 0⟩]
    jobs := [⟨1, 0x604, 5, 0, 0, 0, 0, 0, 0, 0, 0, false, .copy 0x400000000 0x400100000 64⟩] }

theorem witness_Admission :
    (extentOk (arrives (echoBytes 0x73)) = true ∧ checkOk (arrives (echoBytes 0x73)) = true ∧ headerOk (arrives (echoBytes 0x73)) = true ∧
      (let s := admitting (echoBytes 0x73) (session5 0 []); let r := reqOf (arrives (echoBytes 0x73)) 9
       tagOk s (arrives (echoBytes 0x73)) r = true ∧ r = ⟨.spi, ⟨0, none, 0⟩, 1, 5, 100, 7, false, 0x3211C673, 9, [0xAB]⟩ ∧
       sessionOf s 5 = some (session5 0 []) ∧ seqCase (session5 0 []) 100 r.check = .fits ∧ unservable r = none ∧
       holds (exec (.packetAdmission .spi 9) s) (fun t => t.admitted == [r] && t.rxq == [] &&
         t.sessions.map Session.win == [[⟨100, false, 0x3211C673, 7, []⟩]]) = true)) ∧
    (checkOk (arrives (echoBytes 0x72)) = false ∧
      holds (exec (.packetAdmission .spi 9) (admitting (echoBytes 0x72) (session5 0 []))) (fun t => t.admitted == [] && testBit t.spiFlags 0) = true) ∧
    (extentOk (arrives ((echoBytes 0).drop 1)) = false ∧
      holds (exec (.packetAdmission .spi 9) (admitting ((echoBytes 0).drop 1) (session5 0 []))) (fun t => t.admitted == [] && testBit t.spiFlags 2) = true) ∧
    (seqCase (session5 1 [⟨100, false, 0x3211C673, 7, []⟩]) 100 0x3211C673 = .absorb ∧
      holds (exec (.packetAdmission .spi 9) (admitting (echoBytes 0x73) (session5 1 [⟨100, false, 0x3211C673, 7, []⟩]))) (fun t =>
        t.admitted == [] && fld t Fld.CMD_DUP_COUNT_COUNT == 1) = true) ∧
    holds (exec (.eventLogWrite 50) State.reset) (fun t => t.evtWait == [] && t.evtLog == [⟨0, 0xC3, 0, 1, 0, 0, 50⟩]) = true ∧
    holds (exec (.eventLogWrite 999999) { State.reset with evtLog := [⟨9, 0xC3, 0, 1, 0, 0, 0⟩] }) (fun t => t.evtLog == [⟨9, 0xC3, 0, 1, 0, 1, 0⟩]) = true ∧
    (sessionOf working 5 = some (session5 0 []) ∧
      holds (exec (.sessionIdleTimeout 5 70) working) (fun t => t.sessions == [] && t.oldSessions == [(5, 70)]) = true) ∧
    holds (exec (.jobRecordExpiry 1) working) (fun t => t.jobs == working.jobs) = true := by decide +kernel

/-- A request of session 5. -/
def ask5 (op : Nat) (payload : List Byte) : Req := { ask op payload with session := 5, seq := 100 }

theorem witness_GeneralCommands :
    serves (ask 1 [1, 2, 3]) .echo State.reset (fun t => status t == 0 && result t == [1, 2, 3]) = true ∧
    serves (ask 4 []) .identify State.reset (fun t => status t == 0) = true ∧
    (numberFree State.reset 0 0xFFFF = true ∧ openedBefore (ask 2 [0xFF, 1, 0, 0, 1, 2, 3, 4, 5, 6, 7, 8]) State.reset = none ∧ authRequired State.reset .spi = false ∧
      serves (ask 2 [0xFF, 1, 0, 0, 1, 2, 3, 4, 5, 6, 7, 8]) (.sessionOpen · 0xFFFF 77) State.reset (fun t =>
        t.sessions.map (fun x => (x.num, x.nonce, x.s0, x.mask)) == [(0xFFFF, 77, 7, 0xFFFF)] && status t == 0) = true) ∧
    serves (ask5 3 []) (.sessionClose · 70) working (fun t => t.sessions == [] && status t == 0) = true ∧
    serves (ask 5 ([7, 0, 0, 0] ++ List.replicate 32 9)) .keyLoad State.reset (fun t => keyOf t 7 == List.replicate 32 9) = true ∧
    serves (ask 6 [7, 0, 0, 0]) .keyClear State.reset (fun t => keyOf t 7 == [] && status t == 0) = true ∧
    (serves (ask 0x100 [0, 1, 0, 0]) .jobStatus working (fun t => status t == 0) = true ∧ (jobOf working 1).isSome = true) ∧
    serves (ask5 0x101 [0, 1, 0, 0]) .jobCancel working (fun t => t.jobs.map JobRec.cancel == [true]) = true ∧
    (evtFrom working 3 = [⟨3, 0x52, 0, 1, 0, 0, 0⟩] ∧
      serves (ask 0x103 [0, 0, 0, 3, 0, 1, 0, 0]) .eventRead working (fun t => status t == 0 && (result t).length == 32 && rd (result t) 0 4 == 3) = true) ∧
    serves (ask5 0x104 [0xAB, 0xCD, 0, 0]) .eventCfg working (fun t => t.sessions.map Session.mask == [0xABCD]) = true := by decide +kernel

/-- A METER node 9 of two channels, and an input node 8 that announces silence. -/
def meterNode : GNode := ⟨9, 7, 0, 11, 0, 0, 2, 2, 0, 0, 0, 0, 0⟩
def inputNode : GNode := ⟨8, 7, 0, 1, 0, 0, 0, 2, 0, 0, 0, 0, 0⟩
/-- A live graph of both, and a captured report of one entry. -/
def metering : State :=
  { State.reset with live := { graphEmpty with nodes := [meterNode, inputNode] }, liveParams := paramPut [] inputNode 8 1
                     fg := { State.reset.fg with report := [⟨1151, 2, 3, 4, 5, true⟩] } }

/-- Node 8's HPF uses given coefficients, and its channel 1 has been quiet for some samples at an output of 2^40. -/
def stripping (c : List Int) (quiet : Nat) : State :=
  { metering with ramps := [⟨8, 4, 0, 0, 0, 0, 0, (0, 0), [], [], [], [], c, (0, 0), 1, 0, 1, 0, 0⟩], strips := [(65536 * 8 + 1, ⟨0, 0, 0, 2 ^ 40, 0, quiet⟩)] }

/-- Without coefficients the output is zero, and lies below the threshold. -/
theorem witness_MetersAndGuard_below (dc : Int) :
    belowLevel (paramIn (stripping [] 0).liveParams inputNode 6).toInt (hpfSample (hpfNow (stripping [] 0) inputNode 48000000) (stripOf (stripping [] 0) 8 1) dc) = true := by
  have h : hpfNow (stripping [] 0) inputNode 48000000 = [] := by decide +kernel
  have z (v : InStrip) (x : Int) : hpfSample [] v x = 0 := by simp [hpfSample, sat48, satInt, roundShift]
  rw [h, z]; decide +kernel

/-- A filter that holds its output gives 2^40 again, which lies above the threshold. -/
theorem witness_MetersAndGuard_loud (dc : Int) :
    belowLevel (paramIn (stripping [0, 0, 0, 2 ^ 28] 0).liveParams inputNode 6).toInt
      (hpfSample (hpfNow (stripping [0, 0, 0, 2 ^ 28] 0) inputNode 48000000) (stripOf (stripping [0, 0, 0, 2 ^ 28] 0) 8 1) dc) = false := by
  have h : hpfNow (stripping [0, 0, 0, 2 ^ 28] 0) inputNode 48000000 = [0, 0, 0, 2 ^ 28] := by decide +kernel
  have z (v : InStrip) (x : Int) : hpfSample [0, 0, 0, 2 ^ 28] v x = hpfSample [0, 0, 0, 2 ^ 28] v 0 := by simp [hpfSample]
  rw [h, z]; decide +kernel

theorem witness_MetersAndGuard :
    (nodeOf metering.live 9 = some meterNode ∧ metered meterNode = true ∧ meterWidth meterNode = 2 ∧ (31 + 1) % meterFrames metering.fs = 0 ∧
      holds (exec (.meterPeriodEnd 9 31 [⟨[5], [], false, false⟩, ⟨[6], [], false, false⟩]) metering) (fun t =>
        (meterOf t 9).loudest == 1 && (meterOf t 9).frame == 31) = true) ∧
    (kernelId inputNode = 1 ∧ (paramIn metering.liveParams inputNode 8).toNat = 1 ∧ ((meterOf metering 8).chans.getD 1 balNone).silent = false ∧
      quietLong (stripping [] 2000000) inputNode 2000001 = true ∧ quietLong (stripping [] 0) inputNode 1 = false) ∧
    serves (ask 0x302 [0, 1, 0, 0, 4, 0, 0, 0, 0, 9]) .meterRead metering (fun t => status t == 0 && (result t).length == 36) = true ∧
    serves (ask 0x500 [4, 0x7F, 0, 1]) .slackRead metering (fun t => status t == 0 && (result t).length == 14) = true ∧
    serves (ask 0x501 [4, 0x7F, 0, 0, 1, 0, 0, 0]) .fgReport metering (fun t => status t == 0 && (result t).length == 12) = true ∧
    holds (exec .slackClr State.reset) (fun t => fld t Fld.SLACK_HIST_SLACK == 0xFFF) = true ∧
    holds (exec .rdReset { metering with fg := { metering.fg with rdPtr := 1 } }) (fun t => t.fg.rdPtr == 0) = true ∧
    holds (exec .fgReportDataRead metering) (fun t => t.lastRead == 1151 + 2 * 4096 + 3 * 65536 && t.fg.rdPtr == 1) = true ∧
    holds (exec .fgReportDataRead State.reset) (fun t => t.lastRead == 0) = true := by decide +kernel

/-- Port 31 may start as an output of a slot of 16 bits, port 30 runs. -/
def ported : State := fields [(Fld.PORT_CFG_EN, 31, 1), (Fld.PORT_CFG_CLKSRC, 31, 31), (Fld.PORT_RUNNING_RUNNING, 0, 2 ^ 30)] State.reset

theorem witness_CellarPortsOverride :
    ((programRanges State.reset).any (fun p => overlaps 0x5EFF00000 0x100000 p.1 p.2) = false ∧
      serves (ask 0x600 (beBytes 8 0x5EFF00000 ++ beBytes 8 0x100000)) .cellarReserve State.reset (fun t => t.regions == [⟨0, 0x5EFF00000, 0x100000⟩] && status t == 0) = true) ∧
    (regionBusy regioned ⟨0, 0x5EFF00000, 0x100000⟩ = false ∧ serves (ask 0x601 [0, 0, 0, 0]) .cellarRelease regioned (fun t => t.regions == []) = true) ∧
    (inRegion regioned 0x5EFFFFFF8 8 = true ∧ rangeWaits regioned 0x5EFFFFFF8 8 = false ∧ xbReadKind regioned masterGroom 0x5EFFFFFF8 8 = .ok ∧
      serves (ask 0x602 (beBytes 8 0x5EFFFFFF8 ++ beBytes 4 8)) .cellarRead (memPoke 0x5EFFFFFF8 [1, 2, 3, 4, 5, 6, 7, 8] regioned) (fun t =>
        result t == [1, 2, 3, 4, 5, 6, 7, 8]) = true) ∧
    serves (ask 0x603 (beBytes 8 0x5EFFFFFF8 ++ [1, 2, 3, 4, 5, 6, 7, 8])) .cellarWrite regioned (fun t => memBytes t 0x5EFFFFFF8 8 == [1, 2, 3, 4, 5, 6, 7, 8] &&
      status t == 0) = true ∧
    (JobRoom 0xFFFF regioned ∧ serves (ask 0x604 (beBytes 8 0x5EFF00000 ++ beBytes 8 0x5EFF00040 ++ beBytes 8 64)) (.cellarCopy · 0xFFFF) regioned (fun t =>
      t.jobs.map JobRec.handle == [0xFFFF] && status t == 1 && jobIn t == 0xFFFF) = true) ∧
    (portRunning ported 31 = false ∧ (portOf ported 31).resumeAt = none ∧ fbit ported Fld.PORT_CFG_EN 31 = true ∧ portCfgOk ported 31 = true ∧
      serves (ask 0x700 ([0x80, 0, 0, 0, 0, 0, 0, 0] ++ beBytes 8 2)) .portStart ported (fun t => fld t Fld.PORT_STATE_STATE 31 == 2 && (portOf t 31).startAt == some 2) = true) ∧
    (portRunning ported 30 = true ∧ fld ported Fld.PORT_STATE_STATE 30 ≠ 5 ∧ serves (ask 0x701 ([0x40, 0, 0, 0, 0, 0, 0, 0] ++ beBytes 8 2)) .portStop ported (fun t => fld t Fld.PORT_STATE_STATE 30 == 4 &&
      (portOf t 30).stopAt == some 2) = true) ∧
    serves (ask 0x702 [47, 0, 0, 0]) .portStatus ported (fun t => status t == 0) = true ∧
    serves (ask 0xC00 [1, 3, 0, 0]) .overrideSet State.reset (fun t => fld t Fld.OVR_STATUS_CMD == 8 && result t == beBytes 8 1) = true ∧
    serves (ask 0xC01 []) .overrideStatus State.reset (fun t => status t == 0) = true := by decide +kernel

/-- A request is answered PAYLOAD_LENGTH with a right length, and nothing else happens. -/
def wrongLength (op n : Nat) (pl : List Byte) (i : Req → Instr) : Bool :=
  serves (ask op pl) i State.reset (fun t => status t == 0x21 && detail t == n && decide ({ t with txq := [], admitted := [] } = { State.reset with txq := [] }))

theorem witness_WrongLength :
    wrongLength 4 0 [0] .identify = true ∧ wrongLength 5 36 [] .keyLoad = true ∧ wrongLength 6 4 [1] .keyClear = true ∧ wrongLength 0x100 4 [] .jobStatus = true ∧
    wrongLength 0x101 4 [] .jobCancel = true ∧ wrongLength 0x103 8 [0] .eventRead = true ∧ wrongLength 0x104 4 [] .eventCfg = true ∧
    wrongLength 3 0 [0] (.sessionClose · 0) = true ∧ wrongLength 0x500 4 [] .slackRead = true ∧ wrongLength 0x501 8 [] .fgReport = true ∧
    wrongLength 0x600 16 [] .cellarReserve = true ∧ wrongLength 0x601 4 [] .cellarRelease = true ∧ wrongLength 0x602 12 [] .cellarRead = true ∧
    wrongLength 0x604 24 [] (.cellarCopy · 0) = true ∧ wrongLength 0x700 16 [] .portStart = true ∧ wrongLength 0x701 16 [] .portStop = true ∧
    wrongLength 0x702 4 [] .portStatus = true ∧ wrongLength 0xC00 4 [] .overrideSet = true ∧ wrongLength 0xC01 0 [0] .overrideStatus = true := by decide +kernel

/-! ### Graphs, compiles, brews and tap groups (GraphsAndKernels to TapCoordinator) -/

/-- The record of an input-gain kernel node: ID, kernel, pins in and out. -/
def nodeRec (id : Nat) : List Byte := beBytes 2 id ++ [7, 0, 0, 2, 0, 0, 0, 2, 0, 2] ++ List.replicate 12 0 ++ [0xFF, 0xFF, 0, 0, 0, 0, 0, 0]
/-- A graph of nodes 3 and 65,533 with an edge, and live the same. -/
def graphed : State :=
  let g : Graph := ⟨[readNode (nodeRec 3) 0, readNode (nodeRec 65533) 0], [⟨1, 3, 0, 65533, 1, 0, 0⟩], []⟩
  { State.reset with work := g, live := g, kernels := [⟨0x80FF, []⟩] }
/-- A kernel object of one word. -/
def kernelBytes : List Byte := [0x80, 0, 0, 1] ++ List.replicate 68 0

theorem witness_GraphsAndKernels :
    (nodeBad ([0, 1, 0, 0] ++ nodeRec 65533) 4 = none ∧ serves (ask 0x200 ([0, 1, 0, 0] ++ nodeRec 65533)) .graphNode State.reset (fun t =>
      t.work.nodes.map GNode.id == [65533] && status t == 0) = true) ∧
    (let b : List Byte := [0, 1, 0, 0] ++ beBytes 4 (2 ^ 24 - 1) ++ beBytes 2 3 ++ [0, 0] ++ beBytes 2 65533 ++ [3, 255, 0, 0, 15, 0]
     edgeBad b 4 = none ∧ serves (ask 0x201 b) .graphEdge State.reset (fun t => t.work.edges.map GEdge.id == [2 ^ 24 - 1] && status t == 0) = true) ∧
    (let b : List Byte := [0, 1, 0, 0, 15, 64, 8, 63, 0, 0, 0, 0]
     segBad b 4 = none ∧ serves (ask 0x202 b) .graphSegment State.reset (fun t => t.work.segs == [⟨15, 64, 8, 63⟩] && status t == 0) = true) ∧
    serves (ask 0x203 ([1, 0, 0, 1] ++ beBytes 4 65533)) .graphDelete graphed (fun t => t.work.nodes.map GNode.id == [3] && t.work.edges == [] && status t == 0) = true ∧
    serves (ask 0x204 []) .graphClear graphed (fun t => decide (t.work = ⟨[], [], []⟩) && status t == 0) = true ∧
    serves (ask 0x205 ([0x80, 0xFF, 0, 0, 0, 0, 0, 0] ++ [9])) (.kernelLoad · 1) State.reset (fun t => t.partials == [⟨0x80FF, [9]⟩] && status t == 0) = true ∧
    (kernelHeaderBad 0x8000 kernelBytes = none ∧ kernelIn graphed.work 0x8000 = false ∧ JobRoom 0x100 graphed ∧
      serves (ask 0x205 ([0x80, 0, 1, 0, 0, 0, 0, 0] ++ kernelBytes)) (.kernelLoad · 0x100) graphed (fun t => status t == 1 && jobIn t == 0x100 &&
        t.jobs.map JobRec.work == [.kernel 0x8000 kernelBytes]) = true) ∧
    ((kernelOf graphed 0x80FF).isSome = true ∧ serves (ask 0x206 [0x80, 0xFF, 0, 0]) .kernelDelete graphed (fun t => t.kernels == [] && status t == 0) = true) ∧
    ((nodeOf graphed.live 3).isSome = true ∧ (paramCheck graphed (readNode (nodeRec 3) 0) 0 0).isSome = true ∧
      serves (ask 0x301 [0, 0, 0, 3, 0, 0, 0, 0, 0, 1, 0, 0]) .paramRead graphed (fun t => status t == 0 && (result t).length == 8) = true) := by decide +kernel

/-- Brew 14 in a state. -/
def brewing (st : BrewSt) (s : State) : State := setBrew 14 { brewFree with st := st, tap := 40, xfadeMs := 10 } s
/-- A compile of brew 14 runs, with a member 15 outstanding, under job 1. -/
def compiling : State :=
  { brewing .open_ State.reset with
    jobs := [⟨1, 0x207, 0, 0, 0, 0, 0, 0, 0, 0, 0, false, .compile ⟨14, 100, false, graphEmpty, [], 0, [], 0, none, [(15, 77, 0, false)], graphEmpty, none, none⟩⟩], team := [77] }
/-- The result of a failed compile. -/
def resulted : State := { State.reset with results := [resultOf State.reset ⟨14, 100, false, graphEmpty, [], 0, [], 0, none, [], graphEmpty, none, none⟩ 1 none] }

theorem witness_Compiles :
    (compileRunning (brewing .open_ State.reset) = none ∧ compilePending (brewing .open_ State.reset) = none ∧ JobRoom 0x100 (brewing .open_ State.reset) ∧
      serves (ask 0x207 [14, 50, 1, 0]) (.compile · 0x100) (brewing .open_ State.reset) (fun t => status t == 1 && (brewOf t 14).jobBusy == [0x200] &&
        t.jobs.length == 1) = true) ∧
    ((resulted.results.find? (fun c => decide (c.engine = 0))).isSome = true ∧
      serves (ask 0x208 [0, 0, 0, 0, 0, 0, 0, 0, 0, 1, 0, 0]) .graphResult resulted (fun t => status t == 0 && (result t).length == 72) = true) ∧
    holds (exec (.teamSubgraphRx 77 14 0x102 ⟨graphEmpty, none⟩) { brewing .open_ State.reset with team := [77] }) (fun t => t.jobs.map JobRec.handle == [0x102] &&
      (brewOf t 14).jobBusy == [0x204]) = true ∧
    holds (exec (.teamSubgraphRx 77 14 0x102 ⟨graphEmpty, some ⟨[], [], [], []⟩⟩) (fields [(Fld.SHADOW_PARTNER_ROLE, 0, 2), (Fld.SHADOW_PARTNER_PARTNER, 0, 77)]
      (brewing .open_ State.reset))) (fun t => (brewOf t 14).jobBusy == [0x204]) = true ∧
    ((compileRunning compiling).isSome = true ∧ holds (exec (.memberCompileReport 15 2 none) compiling) (fun t =>
      t.jobs.map (fun j => match j.work with | .compile c => c.members | _ => []) == [[(15, 77, 2, false)]]) = true) ∧
    ((jobOf compiling 1).isSome = true ∧ holds (exec (.memberTimeout 15) compiling) (fun t => t.jobs.map (fun j => (j.state, j.final)) == [(2, 0x42)] &&
      t.results.map CompileResult.status == [1]) = true) ∧
    holds (exec (.compileWithdraw 14) (brewing .open_ State.reset)) (fun t => (brewOf t 14).out == none) = true := by decide +kernel

theorem witness_Brews :
    ((brewOf State.reset 14).st = .free ∧ serves (ask 0x400 [3, 0xE8, 1, 0, 0xFF, 0xFF, 0, 0]) (.brewOpen · 14) State.reset (fun t => (brewOf t 14).st == .open_ &&
      (brewOf t 14).xfadeMs == 1000 && (brewOf t 14).preroll == 0xFFFF && status t == 0) = true) ∧
    (let b : List Byte := [14, 0, 0, 1, 1, 0, 0, 3, 0, 0, 0, 0, 0, 0, 0, 5, 0, 0, 0, 0]
     logged graphed (.param 3 0 5) = true ∧ logLimit graphed 14 1 = none ∧
       serves (ask 0x401 b) .brewWrite (brewing .open_ graphed) (fun t => (brewOf t 14).log == [.param 3 0 5] && status t == 0) = true) ∧
    serves (ask 0x407 [15, 0, 0, 0]) .brewStatus State.reset (fun t => status t == 0) = true ∧
    (groupUndecided (brewing .armed State.reset) 14 = none ∧ serves (ask 0x405 [14, 0, 0, 0]) .brewSpill (brewing .armed State.reset) (fun t =>
      (brewOf t 14).st == .spilling && (brewOf t 14).tap == 0) = true) ∧
    serves (ask 0x300 [14, 1, 0, 3, 0, 0, 0, 0, 0, 0, 0, 5]) (.paramWrite · false) (brewing .open_ graphed) (fun t => (brewOf t 14).log == [.param 3 0 5]) = true ∧
    (inRegion regioned 0x5EFF00000 1 = true ∧
      serves (ask 0x402 ([14, 0, 0, 0] ++ beBytes 8 0x5EFF00000)) (.brewLoad · 0x107) (brewing .open_ regioned) (fun t => jobIn t == 0x107 && (brewOf t 14).jobBusy == [0x20F]) = true) ∧
    serves (ask 0x403 ([14, 0, 0, 0] ++ beBytes 8 0x5EFF00000 ++ beBytes 8 64)) (.brewStore · 0x107) (brewing .open_ regioned) (fun t => jobIn t == 0x107 &&
      t.jobs.map JobRec.work == [.store 14 0x5EFF00000 64]) = true ∧
    serves (ask 0x404 ([14, 1, 0, 0] ++ beBytes 8 2)) (.brewTap · 0x107) (brewing .open_ State.reset) (fun t => (brewOf t 14).st == .baking && (brewOf t 14).tap == 2 &&
      jobIn t == 0x107) = true := by decide +kernel

/-- A TAP_MSG record from endpoint 3 for group 5, frame 40, handle 14. -/
def tapMsg (kind cause : Nat) (rest : List Byte) : Req :=
  { ask 0x408 (beBytes 4 5 ++ beBytes 8 40 ++ beBytes 4 3 ++ [14] ++ beBytes 1 kind ++ beBytes 2 cause ++ beBytes 8 0 ++ rest) with source := .trace 3 }
/-- The message meets the hypotheses of its statements, and its effect has a property. -/
def hears (kind len : Nat) (r : Req) (i : Req → Instr) (s : State) (P : State → Bool) : Bool :=
  decide (TapMsg kind len r (given r s)) && holds (exec (i r) (given r s)) P
/-- Endpoint 9, whose brew 14 takes part in group 5 coordinated by 3. -/
def grouped (st : BrewSt) : State :=
  let s := fields [(Fld.ENDPOINT_ID_ID, 0, 9)] State.reset
  setBrew 14 { brewFree with st := st, tap := 40, role := 2, grp := some ⟨5, 3, 0, 40, 38, [⟨3, 0⟩, ⟨9, 14⟩], 0, 0, false⟩, finals := true } s

theorem witness_TapParticipants :
    (let s := setBrew 14 { brewFree with st := .open_ } (fields [(Fld.ENDPOINT_ID_ID, 0, 9)] State.reset)
     (brewOf s 14).jobBusy = [] ∧ brewJobs s 14 = false ∧ hears 1 46 (tapMsg 1 0 ([0, 2] ++ beBytes 4 3 ++ [0, 0, 0, 0] ++ beBytes 4 9 ++ [14, 0, 0, 0])) .prepare s (fun t => (brewOf t 14).st == .baking &&
       (brewOf t 14).role == 2 && ((brewOf t 14).grp.map BrewGroup.coord) == some 3) = true) ∧
    ((groupBrew (grouped .prepared) 5).isSome = true ∧ hears 4 28 (tapMsg 4 0 []) .commit (grouped .prepared) (fun t => (brewOf t 14).st == .armed && (brewOf t 14).gate) = true) ∧
    hears 5 28 (tapMsg 5 0 []) .abort (grouped .prepared) (fun t => (brewOf t 14).st == .open_ && (brewOf t 14).outcome == 2 && fld t Fld.TAP_STATUS_ABORT_STICKY == 1) = true ∧
    hears 6 28 (tapMsg 6 0 []) .query (grouped .prepared) (fun _ => true) = true ∧
    (fbit (grouped .inDoubt) Fld.TAP_CTRL_SPLIT_POLICY = false ∧ hears 7 28 (tapMsg 7 1 []) .outcome (grouped .inDoubt) (fun t => (brewOf t 14).st == .armed &&
      (brewOf t 14).tap == 1) = true) ∧
    (decisionQueued (grouped .inDoubt) 5 = false ∧ holds (exec (.queryTimer 14) (grouped .inDoubt)) (fun _ => true) = true) ∧
    holds (exec (.queryPeers 14) (grouped .inDoubt)) (fun t => (brewOf t 14).grp.map BrewGroup.peers == some true) = true ∧
    serves (ask 0x406 ([14, 1, 0, 0] ++ beBytes 8 0)) .brewResolve (grouped .inDoubt) (fun t => (brewOf t 14).st == .armed && (brewOf t 14).tap == 1) = true ∧
    (let s := setBrew 14 { brewOf (grouped .settling) 14 with tap := 0 } (grouped .settling)
     holds (exec (.settleTapArm 14) s) (fun t => (brewOf t 14).tap == 1 && (brewOf t 14).st == .settling) = true) := by decide +kernel

/-- Endpoint 9 coordinates group 5 of its brew 14 with endpoint 3, whose readiness is given. -/
def coordinating (ready : Bool) (refuse : Option Nat) (decision frame : Nat) : State :=
  { grouped .prepared with groups := [⟨5, 14, 40, 38, if 38 < frame then some 900 else none, decision, refuse, false, 1, [⟨⟨3, 0⟩, ready, false, none, 0⟩, ⟨⟨9, 14⟩, false, false, none, 0⟩]⟩], frame := frame }

theorem witness_TapCoordinator :
    hears 2 28 (tapMsg 2 0 []) .ready (coordinating false none 0 37) (fun t => t.groups.map (fun g => g.parts.map PartState.ready) == [[true, false]]) = true ∧
    (beforeD ⟨5, 14, 40, 38, some 900, 0, none, false, 1, []⟩ 899 = true ∧ beforeD ⟨5, 14, 40, 38, some 900, 0, none, false, 1, []⟩ 900 = false ∧
      hears 2 28 { tapMsg 2 0 [] with t := 900 } .ready (coordinating false none 0 39) (fun t => t.groups.map (fun g => g.parts.map PartState.ready) == [[false, false]]) = true) ∧
    hears 3 28 (tapMsg 3 0 []) .refuse (coordinating false none 0 37) (fun t => t.groups.map TapGroup.refuse == [some 3]) = true ∧
    holds (exec (.tapDecision 5) (coordinating true none 0 38)) (fun t => t.groups.map TapGroup.decision == [1] && (brewOf t 14).st == .armed && (brewOf t 14).gate) = true ∧
    holds (exec (.tapDecision 5) (coordinating true (some 3) 0 38)) (fun t => t.groups.map TapGroup.decision == [2] && fld t Fld.TAP_STATUS_ABORT_STICKY == 1) = true ∧
    (readyQueued (coordinating false none 0 38) ⟨5, 14, 40, 38, none, 0, none, false, 1, []⟩ 3 = false ∧
      holds (exec (.tapDecision 5) (coordinating false none 0 38)) (fun t => t.groups.map TapGroup.decision == [2]) = true) ∧
    hears 8 28 (tapMsg 8 0 []) .tapDone (coordinating true none 1 50) (fun t => t.groups.map (fun g => g.parts.map PartState.done) == [[true, false]]) = true ∧
    holds (exec (.groupCloseTimeout 5) (coordinating true none 1 50)) (fun t => t.groups.map TapGroup.closed == [true] &&
      t.groups.map (fun g => g.parts.map PartState.cause) == [[4, 4]]) = true ∧
    serves (ask 0x409 [0, 0, 0, 5]) .tapReport (coordinating true none 1 50) (fun t => status t == 0 && (result t).length == 44) = true := by decide +kernel

/-! ### Transports -/

/-- Something waits for the SPI host; two packets of it wait for admission. -/
def spiBusy : State :=
  { State.reset with txq := [⟨.spi, ⟨0, none, 0⟩, 0, false, [1, 2, 3]⟩], rxq := [arrives [1], arrives [2]], spiFlags := 5 }
/-- Queue pair 7 is on, with an entry to fetch and a free reply slot; Ethernet and UDP are on at lane 15, the engine is 9 and 10.0.0.2. -/
def netted : State :=
  { fields [(Fld.QP_CTRL_EN, 7, 1), (Fld.RQ_SIZE_SIZE, 7, 4), (Fld.RQ_HEAD_HEAD, 7, 3), (Fld.RQ_TAIL_TAIL, 7, 0), (Fld.PQ_SIZE_SIZE, 7, 4),
      (Fld.NET_CTRL_HOE_EN, 0, 1), (Fld.NET_CTRL_UDP_EN, 0, 1), (Fld.NET_CTRL_IP_PORT, 0, 15), (Fld.NET_CTRL_GARP_EN, 0, 1), (Fld.NET_IP_ADDR_ADDR, 0, 0x0A000002),
      (Fld.ENDPOINT_ID_ID, 0, 9), (Fld.CMD_CTRL_CMD_RETRIES, 0, 3)] State.reset with
    arp := [⟨0x0A000001, 77⟩], ownReqs := [⟨3, 8, 0x408, [1, 2], 2⟩] }
/-- A Harness-over-Ethernet payload for endpoint 9 from endpoint 3, and a UDP datagram to port 50024. -/
def hoe (ep : Nat) : List Byte := [1, 1, 0, 0] ++ beBytes 4 ep ++ beBytes 4 3 ++ List.replicate 35 7
def datagram : List Byte :=
  [0x45, 0, 0, 30, 0, 0, 0, 0, 64, 17, 0, 0, 10, 0, 0, 1, 10, 0, 0, 2] ++ beBytes 2 1234 ++ beBytes 2 50024 ++ [0, 10, 0, 0, 0xAA, 0xBB]

/-- The reply of endpoint 3 to the own request 8 of opcode 408h, sealed or with a wrong check value. -/
def replied (good : Bool) : RxPacket :=
  ⟨.trace 3, ⟨0, none, 0⟩, if good then sealPacket none 0 ([1, 1] ++ beBytes 2 0x408 ++ [0, 0, 0, 0] ++ beBytes 4 8 ++ List.replicate 12 0)
    else [1, 1] ++ beBytes 2 0x408 ++ [0, 0, 0, 0] ++ beBytes 4 8 ++ List.replicate 16 0⟩

theorem witness_Transports :
    (groomServes netted = true ∧ groomServes spiBusy = true) ∧
    (spiWaiting { spiBusy with rxq := [arrives [1]] } = 1 ∧ holds (exec (.spiWritePacket [9]) { spiBusy with rxq := [arrives [1]] }) (fun t =>
      t.rxq == [arrives [1], arrives [9]]) = true) ∧
    (spiWaiting spiBusy = 2 ∧ holds (exec (.spiWritePacket [9]) spiBusy) (fun t => t.rxq == spiBusy.rxq && t.spiFlags == 7 &&
      fld t Fld.CMD_STATUS_RX_DROP_STICKY == 1) = true) ∧
    holds (exec (.spiReadPacket 3) spiBusy) (fun t => t.sent == [.spi [1, 2, 3]] && t.txq == []) = true ∧
    holds (exec (.spiReadPacket 2) spiBusy) (fun t => t.sent == [.spi [1, 2]] && t.txq.length == 1) = true ∧
    holds (exec (.spiReadPacket 2) State.reset) (fun t => t.sent == [.spi [0, 0]]) = true ∧
    holds (exec .spiReadStatus { spiBusy with rxq := [] }) (fun t => t.sent == [.spi [0x17, 0, 0, 3]] && t.spiFlags == 0) = true ∧
    holds (exec (.rqTailDoorbell 7 3) netted) (fun t => fld t Fld.RQ_TAIL_TAIL 7 == 3) = true ∧
    holds (exec (.qpCtrlWrite 7 2) netted) (fun t => fld t Fld.QP_CTRL_EN 7 == 0 && fld t Fld.QP_CTRL_MASK 7 == 1) = true ∧
    (ringRoom netted 7 = true ∧ holds (exec (.pcieRequestFetch 7 2 0 [1, 2, 3]) netted) (fun t => fld t Fld.RQ_HEAD_HEAD 7 == 0 &&
      t.rxq == [⟨.pcie 7, ⟨0, none, 0⟩, [1, 2]⟩]) = true) ∧
    holds (exec (.pcieRequestFetch 7 65581 0 [1, 2, 3]) netted) (fun t => fld t Fld.QP_STATUS_RING_ERR 7 == 1 && t.rxq == []) = true ∧
    (netWaiting netted = 0 ∧ (hoe 9).length = 47 ∧ holds (exec (.hoeFrameRx 15 55 true none (hoe 9)) netted) (fun t =>
      t.rxq == [⟨.eth 55, ⟨15, none, 3⟩, List.replicate 35 7⟩]) = true) ∧
    holds (exec (.hoeFrameRx 15 55 true (some 4095) (hoe 0xFFFFFFFF)) netted) (fun t => t.rxq.length == 1) = true ∧
    holds (exec (.hoeFrameRx 15 55 false none (hoe 9)) netted) (fun t => t.rxq == [] && fld t Fld.CMD_RX_DROP_COUNT_COUNT == 1) = true ∧
    holds (exec (.udpDatagramRx 15 datagram) netted) (fun t => t.rxq == [⟨.udp 0x0A000001 1234, ⟨15, none, 0⟩, [0xAA, 0xBB]⟩]) = true ∧
    holds (exec (.arpRequestRx 15 0x0A000001 77 0x0A000002) netted) (fun t => t.sent == [.arpReply 15 0x0A000001 77]) = true ∧
    holds (exec (.ethLinkUp 15) netted) (fun t => t.sent == [.garp 15 0x0A000002]) = true ∧
    holds (exec (.ethLinkUp 15) (fields [(Fld.NET_CTRL_GARP_EN, 0, 0)] netted)) (fun t => t.sent == []) = true ∧
    holds (exec (.arpCacheExpiry 0x0A000001) netted) (fun t => t.arp == []) = true ∧
    holds (exec (.cmdResend 3 8) netted) (fun t => t.ownReqs.map OwnReq.resends == [3] && t.txq.map TxPacket.bytes == [[1, 2]]) = true ∧
    (extentOk (replied true) = true ∧ checkOk (replied true) = true ∧ holds (exec (.commandReplyRx 3) { netted with replies := [(3, (replied true).bytes)] }) (fun t =>
      t.ownReqs == [] && t.replies == []) = true) ∧
    (extentOk (replied false) = true ∧ checkOk (replied false) = false ∧ holds (exec (.commandReplyRx 3) { netted with replies := [(3, (replied false).bytes)] }) (fun t =>
      t.ownReqs == netted.ownReqs && t.replies == [] && fld t Fld.CMD_CHECK_COUNT_CRC == 1) = true) := by decide +kernel

/-! ### Traces (TraceStates and TracePackets) -/

/-- A RESTRIPE packet for both lanes from boundary k on. -/
def restripes (k : Nat) : List Byte := lcpSeal ([4, 3] ++ beBytes 8 k ++ [0, 0])
/-- A TRAIN packet: lane and width byte, rate and kind byte. -/
def trains (a b : Byte) : List Byte := lcpSeal [0, a, b, 0, 0, 3, 16, 32, 2, 4, 0, 0]
/-- Trace 63 alone, a herd trace in TRAIN, one packet from its end. -/
def training : State :=
  setTrace 63 { traceIdle with ready := 1 } (fields [(Fld.TRACE_STATE_STATE, 63, 2), (Fld.TRACE_CFG_KIND, 63, 1), (Fld.LANE_STATUS_LOCKED, 63, 1),
    (Fld.LANE_CFG_MODE, 63, 1)] State.reset)
/-- The trace has failed with a cause. -/
def failed (cause : Nat) (y : State) : Bool :=
  (traceState y 62 == 2 || traceState y 62 == 1) && fld y Fld.TRACE_STATE_LAST_FAIL 62 == cause && raised y == [0x72] && (traceOf y 62).epoch == 1

theorem witness_TraceStates :
    holds (exec (.traceReinit 62 10) (linked 4 idle)) (failed 10) = true ∧
    holds (exec (.syncTimeout 62) (linked 3 idle)) (failed 4) = true ∧
    holds (exec (.syncTimeout 62) (linked 4 idle)) (fun y => decide (y = linked 4 idle)) = true ∧
    holds (exec (.laneLoss 62 0) (fields [(Fld.LANE_CFG_MODE, 62, 2)] lanes)) (fun y => fld y Fld.LANE_STATUS_LOCKED 62 == 0 && fld y Fld.LANE_ERR_LOCK_LOSS 62 == 1) = true ∧
    (63 ∈ traceLanes (linked 4 idle) 62 ∧ holds (exec (.laneLoss 62 0) (linked 4 idle)) (fun y => fld y Fld.LANE_STATUS_EXCLUDED 62 == 1 && traceState y 62 == 5 &&
      raised y == [0x70] && goodMask y 62 == 2 && (traceOf y 62).lcps.length == 1) = true) ∧
    holds (exec (.laneLock 62 true 9) (fields [(Fld.LANE_STATUS_LOCKED, 62, 0)] (linked 1 idle))) (fun y => fld y Fld.LANE_STATUS_LOCKED 62 == 1 &&
      fld y Fld.LANE_STATUS_RX_INVERTED 62 == 1 && traceState y 62 == 2) = true ∧
    holds (exec (.laneReturn 62 0) (fields [(Fld.LANE_STATUS_EXCLUDED, 62, 1)] (linked 4 idle))) (fun y => traceState y 62 == 5 &&
      ((traceOf y 62).rxPend.map Prod.fst) == some 3) = true ∧
    (lcpIs 4 (restripes 1) = true ∧ rd (restripes 1) 1 1 = 3 ∧ rd (restripes 1) 2 8 = 1 ∧ microBefore (linked 4 idle) 1 21675 = true ∧
      holds (exec (.restripe 62 [restripes 1] 21675) (linked 4 idle)) (fun y => (traceOf y 62).txPend == some (3, 1) && traceState y 62 == 5) = true) ∧
    (microBefore (linked 4 idle) 1 21676 = false ∧ holds (exec (.restripe 62 [restripes 1] 21676) (linked 4 idle)) (failed 7) = true) ∧
    (markerLanes (linked 3 { idle with marker := some 7 }) 62 [(0, some 8), (1, some 8)] = [some 8, some 8] ∧
      holds (exec (.frameMarkerRx 62 [(0, some 8), (1, some 8)] 0) (linked 3 { idle with marker := some 7 })) (fun y => traceState y 62 == 3 &&
        (traceOf y 62).synced == 1 && (traceOf y 62).marker == some 8) = true) ∧
    holds (exec (.frameMarkerRx 62 [(0, some 8), (1, some 8)] 0) (linked 3 { idle with marker := some 7, synced := 1 })) (fun y => traceState y 62 == 4) = true ∧
    (some 8 ∉ markerLanes (linked 4 { idle with marker := some 7, miss := 2 }) 62 [(0, none), (1, none)] ∧
      holds (exec (.frameMarkerRx 62 [(0, none), (1, none)] 0) (linked 4 { idle with marker := some 7, miss := 2 })) (failed 9) = true) ∧
    (lcpIs 0 (trains 0x10 0) = true ∧ holds (exec (.train 62 [(62, trains 0x10 0)] 0 none) (linked 4 idle)) (failed 8) = true) ∧
    (rd (trains 0x08 0) 1 1 / 8 % 16 = 1 ∧ traceWidth (linked 2 idle) 62 = 2 ∧
      holds (exec (.train 62 [(62, trains 0x08 0)] 0 none) (linked 2 idle)) (fun y => fld y Fld.TRACE_STATE_LAST_FAIL 62 == 2 && fld y Fld.TRACE_PEER_PEER 62 == 3 &&
        traceState y 62 == 2) = true) ∧
    (traceWidth training 63 = 1 ∧ fld training Fld.TRACE_CFG_RATE 63 = 0 ∧
      holds (exec (.train 63 [(63, trains 0x88 0x08)] 32 none) training) (fun y => traceState y 63 == 3 && (traceOf y 63).mapping == [(63, 0)] &&
        (vcOf (traceOf y 63) 0).limit == 128) = true) ∧
    (let s := { linked 2 { idle with job := some 0x101 } with jobs := [⟨0x101, 0x900, 0, 0, 0, 0, 0, 0, 0, 0, 0, false, .trace 62⟩] }
     (jobOf s 0x101).isSome = true ∧ holds (exec (.traceUpTimeout 62) s) (fun y => (traceOf y 62).job == none && y.jobs.map JobRec.final == [0x61]) = true) ∧
    holds (exec (.elasticSlip 62 true) (fields [(Fld.TRACE_CFG_KIND, 62, 1)] (linked 4 idle))) (fun y => fld y Fld.TRACE_FLAGS_SLIP 62 == 1 &&
      (traceOf y 62).slip) = true := by decide +kernel

/-- A packet of a byte on VC 0 from 9 to 3, and two of them sent as 4,095 and 0, unacknowledged. -/
def packet : LinkPkt := ⟨0, 3, 9, [0xAA], none⟩
def sentTwo : TraceSt := { idle with txSeq := 1, unacked := [⟨4095, packet, false, false, 0, 0, 0⟩, ⟨0, packet, false, false, 0, 0, 0⟩] }
/-- A data packet from endpoint 3 for this engine, a command packet of two bytes as its payload, number 4,095. -/
def incoming : List Byte := dataBytes ⟨0, 9, 3, [1, 0], none⟩ 4095

/-- In RUN at frame 2, herd trace 62 sends the word of queue channel 5; trace 62 without KIND receives into entry 2,047. -/
def regioning : State :=
  { fields [(Fld.TRACE_CFG_KIND, 62, 1), (Fld.TRACE_TX_SLOTS_COUNT, 62, 1), (Fld.TX_SLOT_QCH, 0, 5)] (linked 4 idle) with mode := .run, frame := 2 }
def receivingRegion : State :=
  fields [(Fld.TRACE_RX_SLOTS_COUNT, 62, 1), (Fld.TRACE_RX_SLOTS_FIRST, 62, 2047), (Fld.RX_SLOT_EN, 2047, 1)] (linked 4 { idle with marker := some 1 })
def section5 : List Byte := sectionSeal (sampleBytes 0 (5 * 65536))

theorem witness_TracePackets :
    (ackedBy sentTwo 1 = some 2 ∧ lcpIs 1 (lcpSeal [1, 0, 0, 0, 0, 0, 0, 0, 0, 0, 0, 0]) = true ∧
      holds (exec (.ack 62 (lcpSeal [1, 0, 0, 0, 0, 0, 0, 0, 0, 0, 0, 0])) (linked 4 sentTwo)) (fun y => (traceOf y 62).unacked == []) = true) ∧
    (ackedBy sentTwo 2 = none ∧ holds (exec (.ack 62 (lcpSeal [1, 0, 0, 1, 0, 0, 0, 0, 0, 0, 0, 0])) (linked 4 sentTwo)) (fun y => decide (y = linked 4 sentTwo)) = true) ∧
    (ackedBy sentTwo 0 = some 1 ∧ holds (exec (.nak 62 (lcpSeal [2, 0, 0, 0, 0, 0, 0, 0, 0, 0, 0, 0])) (linked 4 sentTwo)) (fun y =>
      (traceOf y 62).unacked.map (fun p => (p.seq, p.due)) == [(0, true)]) = true) ∧
    holds (exec (.credit 62 (lcpSeal [3, 0, 0, 0, 0x7F, 0xFF, 0x80, 0, 0, 0, 0, 1])) (linked 4 idle)) (fun y =>
      (List.range 4).map (fun v => (vcOf (traceOf y 62) v).limit) == [32767, 0, 0, 1]) = true ∧
    (frozen sentTwo 5 = false ∧ holds (exec (.replayTimer 62 5) (linked 4 sentTwo)) (fun y => (traceOf y 62).unacked.map SentPkt.due == [true, true]) = true) ∧
    holds (exec (.replayTimer 62 5) (linked 4 { sentTwo with unacked := [⟨0, packet, false, false, 4, 0, 0⟩] })) (failed 5) = true ∧
    holds (exec (.ackTimer 62) (linked 4 { idle with accepts := 1 })) (fun y => (traceOf y 62).lcps == [.ack]) = true ∧
    (dataOk incoming = true ∧ rd incoming 2 2 % 4096 = 4095 ∧ ownEndpoint (linked 4 idle) = 9 ∧
      holds (exec (.dataPacketRx 62 incoming false 0) (linked 4 { idle with rxSeq := 4095 })) (fun y => (traceOf y 62).rxSeq == 0 &&
        y.rxq == [⟨.trace 3, ⟨62, none, 0⟩, [1, 0]⟩]) = true) ∧
    (dataOk (incoming.drop 1) = false ∧ holds (exec (.dataPacketRx 62 (incoming.drop 1) false 0) (linked 4 idle)) (fun y => (traceOf y 62).nakSent &&
      (traceOf y 62).lcps == [.nak]) = true) ∧
    ((linked 3 { idle with lcps := [.ack] }).txq = [] ∧ mirrorTrace (linked 3 idle) = none ∧
      holds (exec (.packetTx 62 false 0) (linked 3 { idle with lcps := [.ack] })) (fun y => y.sent.length == 1 && (traceOf y 62).lcps == []) = true) ∧
    (let x := setVc 0 { vcZero with limit := 128 } { idle with queue := [packet], txSeq := 4095 }
     nextNew (linked 4 x) 62 = some (packet, none) ∧ holds (exec (.packetTx 62 false 0) (linked 4 x)) (fun y =>
       y.sent == [.data 62 false (dataBytes packet 4095)] && (traceOf y 62).txSeq == 0 && (vcOf (traceOf y 62) 0).used == 1) = true) ∧
    (sendsRegion regioning 62 = true ∧ txEntries regioning 62 false = [0] ∧ txEntries regioning 62 true = [] ∧ mirrorTrace regioning = none ∧
      holds (exec (.regionTx 62) regioning) (fun y => y.sent.length == 1 && (traceOf y 62).txFrame == some 2) = true) ∧
    (let s := setTrace 62 { idle with txFrame := some 2 } regioning
     holds (exec (.regionTx 62) s) (fun y => decide (y = s)) = true) ∧
    (rxEntries receivingRegion 62 false = [2047] ∧ rxEntries receivingRegion 62 true = [] ∧ rxMates receivingRegion 2047 = [2047] ∧
      (sectionPass 0 1 section5).isSome = true ∧ (rxCellOf receivingRegion 2047).next = 0 ∧
      holds (exec (.regionRx 62 section5 [] [] 0) receivingRegion) (fun y => (rxCellOf y 2047).next == 1 && (traceOf y 62).rxFrame == some 1) = true) := by
  decide +kernel

/-! ### Commands of lanes and traces, audits (LinkCommands) -/

/-- TRACE_UP of lanes 62 and 63: rate 6, herd trace, restripes, SFMT 2, any peer, 10,000 ms. -/
def upBytes : List Byte := [62, 0, 0, 0, 2, 6, 1, 1, 2, 0, 0, 0, 0xFF, 0xFF, 0xFF, 0xFF, 0x27, 0x10, 0, 0]
/-- Lane 15 with Ethernet; lane 63 with a PRBS check that has lock. -/
def lane15 : State := fields [(Fld.LANE_CFG_MODE, 15, 2), (Fld.NET_ETH_TYPE_ETH_TYPE, 0, 0x88B5)] State.reset
def prbs63 (lock : Bool) : State := setPrbs 63 ⟨31, false, true, lock, 2 ^ 64 - 1, 3⟩ (fields [(Fld.LANE_CFG_MODE, 63, 4)] State.reset)
/-- An Ethernet frame of 16 bytes of a type. -/
def ethFrame (type : Nat) : List Byte := List.replicate 12 0 ++ beBytes 2 type ++ [1, 2]
/-- An audit is in progress on the counts of stream 4. -/
def auditing (c : StreamCounts) : State := { State.reset with ledger := { State.reset.ledger with pend := some ([(4, c)], 12) } }

theorem witness_LinkCommands :
    (JobRoom 0x101 State.reset ∧ rd upBytes 16 2 = 10000 ∧ serves (ask 0x800 upBytes) (.traceUp · 0x101) State.reset (fun y => traceState y 62 == 1 &&
      traceWidth y 62 == 2 && fld y Fld.TRACE_CFG_RATE 62 == 6 && fld y Fld.LANE_CFG_MODE 63 == 1 && fld y Fld.LANE_STATUS_TRACE 63 == 62 && status y == 1) = true) ∧
    (traceReserved (linked 2 idle) 62 = false ∧ serves (ask 0x801 [62, 0, 0, 0]) .traceDown (linked 2 idle) (fun y => traceState y 62 == 0 &&
      fld y Fld.TRACE_STATE_LAST_FAIL 62 == 11 && fld y Fld.LANE_CFG_MODE 63 == 0 && status y == 0) = true) ∧
    serves (ask 0x804 [62, 0, 0, 0]) .linkStatus (linked 4 idle) (fun y => status y == 0) = true ∧
    serves (ask 0x802 ([0x80, 0, 0, 0, 0, 0, 0, 0] ++ [31, 3, 0, 0])) .prbsRun State.reset (fun y => fld y Fld.LANE_CFG_MODE 63 == 4 &&
      prbsOf y 63 == ⟨31, true, true, false, 0, 0⟩) = true ∧
    holds (exec (.prbsLock 63) (prbs63 false)) (fun y => (prbsOf y 63).lock) = true ∧
    serves (ask 0x803 [63, 0, 0, 0]) (.prbsRead · 1 2) (prbs63 true) (fun y => (prbsOf y 63).bits == 0 && (prbsOf y 63).errors == 5 && rd (result y) 0 1 == 1) = true ∧
    holds (exec (.ethFrameRx 15 (ethFrame 0x88F7) false 5) lane15) (fun y => fld y Fld.LANE_ETH_FCS_ERR 15 == 1) = true ∧
    holds (exec (.ethFrameRx 15 ((ethFrame 0x88F7).take 13) true 5) lane15) (fun y => fld y Fld.LANE_ETH_RX_DROP 15 == 1) = true ∧
    holds (exec (.ethFrameRx 15 (ethFrame 0x8808) true 5) lane15) (fun y => decide (y = lane15)) = true ∧
    holds (exec (.ethFrameRx 15 (ethFrame 0x88F7) true 5) lane15) (fun y => y.timeq == [⟨79, [1, 2], 5⟩]) = true ∧
    holds (exec (.ethFrameRx 15 (ethFrame 0x86DD) true 5) lane15) (fun y => fld y Fld.LANE_ETH_RX_DROP 15 == 1 && y.timeq == []) = true ∧
    holds (exec (.auditStep false) State.reset) (fun y => y.ledger.pend.isSome && fld y Fld.SLEDGER_STATUS_AUDIT_RUN == 1) = true ∧
    (diffOf (streamOf [(4, ⟨true, 7, 7, []⟩)] 4) = 0 ∧ holds (exec (.auditStep true) (auditing ⟨true, 7, 7, []⟩)) (fun y => y.ledger.audFrame == 12 && raised y == []) = true) ∧
    (diffOf (streamOf [(4, ⟨true, 8, 7, []⟩)] 4) ≠ 0 ∧ holds (exec (.auditStep true) (auditing ⟨true, 8, 7, []⟩)) (fun y => fld y Fld.SLEDGER_STATUS_UNACCOUNTED == 1 &&
      raised y == [6]) = true) ∧
    serves (ask 0x502 [2, 0, 0, 255]) .ledgerRead State.reset (fun y => status y == 0 && (result y).length == 88) = true := by decide +kernel

/-! ### Herds and teams -/

/-- Endpoint 9 in a herd with endpoint 3 behind trace 62 and endpoint 7 behind trace 60; a management record has arrived. -/
def herd : State :=
  setTrace 60 { idle with rxSet := 1 } (fields [(Fld.TRACE_STATE_STATE, 60, 4), (Fld.TRACE_PEER_PEER, 60, 7), (Fld.TRACE_PEER_PEER, 62, 3)] (linked 4 idle))
def arrivedRec (m : MgmtRec) : State := { herd with mgmt := [m] }
/-- The ANNOUNCE of an endpoint with COUNT 8 and HOPS. -/
def announcement (ep hops : Nat) : List Byte := beBytes 4 ep ++ beBytes 4 8 ++ beBytes 1 hops ++ [0, 1, 1, 0, 0, 0, 0, 2, 0, 0, 0, 0, 0, 0, 0]
/-- Endpoint 3 is in the route table, and in the team with a list. -/
def routed : State := { herd with routes := [(3, ⟨8, [(62, 1)], 0, 1, 1, 0, 2⟩)] }
/-- TEAM_FORM of 9 and 3 runs. -/
def forming : State := { routed with jobs := [⟨0x101, 0xB00, 0, 0, 0, 0, 0, 0, 0, 0, 0, false, .team [9, 3] []⟩], team := [9, 3] }

theorem witness_HerdsAndTeams :
    (isBridge herd 62 = false ∧ herdOf 4095 = herdOf 9 ∧ routeOf herd 4095 = none ∧ announceTraces herd = [60, 62] ∧
      holds (exec .announce (arrivedRec ⟨some 62, 3, 1, announcement 4095 31⟩)) (fun y => routeOf y 4095 == some ⟨8, [(62, 31)], 0, 1, 1, 0, 2⟩ &&
        (traceOf y 60).queue.map LinkPkt.dst == [7] && (traceOf y 62).queue == [] && y.mgmt == []) = true) ∧
    holds (exec .announce (arrivedRec ⟨none, 9, 1, announcement 9 1⟩)) (fun y => fld y Fld.HERD_STATUS_DUP_ID == 1 && y.mgmt == []) = true ∧
    holds (exec .announcePeriod herd) (fun y => y.annCount == 1 && (traceOf y 62).queue.map LinkPkt.dst == [3]) = true ∧
    ((routeOf routed 3).isSome = true ∧ holds (exec (.memberLoss 3) { routed with team := [9, 3] }) (fun y => routeOf y 3 == none && raised y == [0xB2]) = true) ∧
    (JobRoom 0x101 routed ∧ serves (ask 0xB00 ([2, 0, 0, 0] ++ beBytes 4 9 ++ beBytes 4 3)) (.teamForm · 0x101) routed (fun y => y.team == [9, 3] && inTeam y &&
      jobIn y == 0x101) = true) ∧
    serves (ask 0xB01 []) .teamLeave { routed with team := [9, 3] } (fun y => y.team == [] && !inTeam y && status y == 0) = true ∧
    serves (ask 0xB04 []) .teamStatus routed (fun y => status y == 0) = true ∧
    (let m : MgmtRec := ⟨some 62, 3, 2, [2, 0, 0, 0] ++ beBytes 4 3 ++ beBytes 4 9⟩
     readIds 2 (m.body.drop 4) = [3, 9] ∧ holds (exec .team { routed with mgmt := [m] }) (fun y => y.team == [3, 9] && inTeam y &&
       (traceOf y 62).queue.map LinkPkt.dst == [3]) = true ∧
     holds (exec .team { routed with mgmt := [m], mode := .run }) (fun y => y.team == [] && (traceOf y 62).queue.map LinkPkt.dst == [3]) = true) ∧
    ((teamJob forming).isSome = true ∧
      holds (exec .teamAck { forming with mgmt := [⟨some 62, 3, 3, beBytes 4 3 ++ [0, 0, 0, 0]⟩] }) (fun y => y.jobs.map JobRec.work == [.team [9, 3] [3]]) = true ∧
      holds (exec .teamAck { forming with mgmt := [⟨some 62, 3, 3, beBytes 4 3 ++ [0, 0x23, 0, 0]⟩] }) (fun y => y.jobs.map JobRec.final == [0x23] && y.team == []) = true) ∧
    holds (exec (.teamFormTimeout 3) forming) (fun y => y.jobs.map JobRec.final == [0x31] && y.team == []) = true ∧
    holds (exec .streamList (arrivedRec ⟨some 62, 3, 5, beBytes 8 100 ++ [0, 1, 0, 0] ++ beBytes 2 4095 ++ beBytes 2 255 ++ [1, 0, 0, 0]⟩)) (fun y =>
      (traceOf y 62).streams == some (100, [(4095, 255, true)]) && y.mgmt == []) = true := by decide +kernel

/-! ### Clocks and time (ClockCommands and TimeMessages) -/

/-- Candidate 8 is the reference and qualified or qualifying, the DPLL in a state. -/
def clocked (dpll : Nat) : State :=
  { fields [(Fld.CLK_STATUS_ACTIVE, 0, 8), (Fld.CLK_STATUS_DPLL, 0, dpll), (Fld.CLK_CAND_EN, 8, 1), (Fld.CLK_CAND_STATUS_VALID, 8, 1),
      (Fld.CLK_CAND_STATUS_QUALIFYING, 8, 1), (Fld.CLK_CAND_EN, 9, 1), (Fld.LANE_STATUS_LOCKED, 0, 1), (Fld.LANE_CFG_MODE, 0, 2)] State.reset with fromFree := false }
/-- Domain A on trace 62, its port in a state, its master port 1 of clock 77, the last Sync and a request noted. -/
def ported62 (st : Nat) (x : PtpPort) : State :=
  { fields [(Fld.PTP_CFG_HARNESS_EN, 0, 1), (Fld.PTP_TRACE_EN_HI_EN, 0, 2 ^ 30), (Fld.TRACE_PEER_PEER, 62, 3)] (linked 4 idle) with
    domA := { domIdle with last := some (1000, 2000), ports := [(62, { x with st := st, best := some ⟨128, 6, 0x20, 0, 128, 77, 0, 77, 1, 0⟩ })] }, mode := .run }
def plain : PtpPort := { ptpPortIdle with req := some (5, 3000), sync := some (5, 2000, 0), resp := some (5, 100, 200, 0) }
/-- A frame mapping of domain A in which boundary k falls at time 0, and the state in which it is adopted. -/
def mapping (k : Nat) : TimeMsg := ⟨62, [2, 0, 0, 0] ++ beBytes 8 k ++ List.replicate 12 0 ++ [0], 0⟩
def mapped (st : Nat) : State :=
  { fields [(Fld.CLK_STATUS_ACTIVE, 0, 4), (Fld.CLK_STATUS_DPLL, 0, 2)] (ported62 st plain) with timeq := [mapping 500], mode := .configure }

theorem witness_ClockCommands :
    serves (ask 0x900 [7, 0, 0, 0]) .fsSet State.reset (fun y => y.fs == 7 && fld y Fld.ENGINE_MODE_FS == 7 && status y == 0) = true ∧
    serves (ask 0x900 [7, 0, 0, 0]) .fsSet { State.reset with mode := .run } (fun y => y.fs == 0 && status y == 0x23) = true ∧
    (fbit (clocked 1) Fld.CLK_CAND_EN 9 = true ∧ serves (ask 0x901 [1, 9, 0, 0]) .refSelect (clocked 1) (fun y => fld y Fld.CLK_CTRL_FORCE_CAND == 9 && status y == 0) = true) ∧
    (refHolds (clocked 1) 8 = true ∧ holds (exec (.refValid 8 0x7FFF) (clocked 1)) (fun y => fld y Fld.CLK_CAND_STATUS_FOFFS 8 == 0x7FFF) = true) ∧
    (refHolds (clocked 1) 4 = false ∧ holds (exec (.refValid 4 5) (clocked 1)) (fun y => decide (y = clocked 1)) = true) ∧
    holds (exec (.refValid 0 1) (clocked 1)) (fun y => fld y Fld.CLK_CAND_STATUS_VALID 0 == 1 && fld y Fld.CLK_CAND_STATUS_QUALIFYING 0 == 1) = true ∧
    holds (exec (.refInvalid 8) (clocked 2)) (fun y => fld y Fld.CLK_CAND_STATUS_VALID 8 == 0 && fld y Fld.CLK_CAND_STATUS_FOFFS 8 == 0x8000) = true ∧
    holds (exec (.refInvalid 9) (clocked 2)) (fun y => decide (y = clocked 2)) = true ∧
    holds (exec (.refQualified 8) (clocked 1)) (fun y => fld y Fld.CLK_CAND_STATUS_QUALIFYING 8 == 0) = true ∧
    (fld (clocked 1) Fld.CLK_STATUS_ACTIVE = 8 ∧ (clocked 1).fromFree = false ∧
      holds (exec (.dpllLock 0xFFFFFFFF 3 0) (clocked 1)) (fun y => fld y Fld.CLK_STATUS_DPLL == 2 && fld y Fld.DPLL_FREQ_FREQ == 0xFFFFFFFF) = true) ∧
    holds (exec (.dpllLockLoss 7 3) (clocked 2)) (fun y => fld y Fld.CLK_STATUS_DPLL == 1 && fld y Fld.DPLL_FREQ_FREQ == 7) = true ∧
    holds (exec (.holdoverHistorySample 0xFFFFFFFF) (clocked 2)) (fun y => y.history == [-1]) = true ∧
    ((portOfDom (mapped 1) 0 62).st = 1 ∧ holds (exec (.frameMap 0) (mapped 1)) (fun y => y.timeq == [] && y.frame == 0) = true) ∧
    (mayAdopt (mapped 2) 0 = true ∧ fbit (mapped 2) Fld.TIME_STATUS_ROOT 0 = false ∧ (mapped 2).fs = 0 ∧
      holds (exec (.frameMap 0) (mapped 2)) (fun y => y.frame == 500 && y.timeq == []) = true) ∧
    (boundaryAt 0 500 0 (domAt domIdle 0) < 501 ∧ fld (adoptMap 0 500 0 0 { mapped 2 with frame := 501 }) Fld.CLK_STATUS_EPOCH_AHEAD = 1) ∧
    holds (exec (.timeSnap true 0x123456789) State.reset) (fun y => fld y Fld.RAW_NS_LO_NS_LO == 0x12345 && fld y Fld.RAW_SUBNS_SUBNS == 0x6789) = true ∧
    serves (ask 0x902 [2, 0, 0, 0]) (.timeRead · 65536) State.reset (fun y => status y == 0 && rd (result y) 6 4 == 1) = true ∧
    (hasSlave State.reset 1 = false ∧ serves (ask 0x903 ([2, 1, 0, 0] ++ beBytes 8 5)) (.timeAdjust · 0) State.reset (fun y => status y == 0) = true ∧
      serves (ask 0x903 ([2, 2, 0, 0] ++ beBytes 8 5)) (.timeAdjust · 0) (fields [(Fld.PTP_CFG_STEP_EN, 1, 1)] State.reset) (fun y => domAt y.domB 0 == 5 && status y == 0) = true) ∧
    (timeJoin 0 1000000 0 = 65536000000 ∧ readingOf State.reset 2 0 = 0 ∧
      serves (ask 0x904 ([15, 0, 2, 0, 0, 0, 0, 0, 0, 0] ++ beBytes 4 1000000 ++ [0, 0] ++ beBytes 8 0)) (.pulseSchedule · 0) State.reset (fun y =>
        pulseOf y 15 == some ⟨2, 65536000000, none, 65536000000⟩ && fld y Fld.CLKOUT_STATUS_ARMED 15 == 1) = true) ∧
    (let s := setPulse 15 (some ⟨0, 70, none, 70⟩) (fields [(Fld.CLKOUT_CFG_FUNC, 15, 4)] State.reset)
     pulseOf s 15 = some ⟨0, 70, none, 70⟩ ∧ holds (exec (.scheduledPulse 15 70) s) (fun y => y.sent == [.pulse 15 false] && pulseOf y 15 == none) = true) ∧
    serves (ask 0x905 ([0x80, 0, 0, 0] ++ beBytes 8 2)) .clkoutAlign State.reset (fun y => status y == 0) = true := by decide +kernel

/-- A PTP message of a type and flags from port 1 of clock 77 with sequence number 5, on trace 62. -/
def ptp (type : Byte) (flags : Byte) (body : List Byte) : TimeMsg :=
  ⟨62, [1, 0, 0, 0, type, 0x12, 0, 44, 0, 0, flags, 0, 0, 0, 0, 0, 0, 0, 0, 0, 0, 0, 0, 0, 0, 0, 0, 0, 0, 0, 0, 77, 0, 1, 0, 5, 0, 0x7F] ++ body, 4000⟩
/-- The message meets the hypotheses of its row in the state, and its effect has a property. -/
def timed (i : Instr) (k : Nat) (m : TimeMsg) (s : State) (P : State → Bool) : Bool :=
  ptpIs k m && decide (ptpDoms s m = [0]) && holds (exec i { s with timeq := [m] }) (fun t => t.timeq == [] && P t)
/-- Ten bytes of a time stamp of 3 ns. -/
def stamp3 : List Byte := [0, 0, 0, 0, 0, 0, 0, 0, 0, 3]

/-- In STANDBY the servo does not act, so that no free value decides what follows. -/
def resting : State := { ported62 2 plain with mode := .standby }

theorem witness_TimeMessages :
    (fromMaster (ported62 2 plain) 0 (ptp 0 2 stamp3) = true ∧ ptpSeq (ptpBody (ptp 0 2 stamp3)) = 5 ∧
      timed .ptpSync 0 (ptp 0 2 stamp3) (ported62 2 plain) (fun t => ((portOfDom t 0 62).sync.map Prod.fst) == some 5) = true ∧
      timed .ptpSync 0 (ptp 0 0 stamp3) resting (fun t => (t.domA.last.map Prod.fst) == some (3 * 65536)) = true ∧
      timed .followUp 8 (ptp 8 0 stamp3) resting (fun t => t.domA.last == some (3 * 65536, 2000)) = true) ∧
    (let s := resting; let m := ptp 9 0 (stamp3 ++ ownPortId s 62)
     ((ptpBody m).drop 44).take 10 = ownPortId s 62 ∧ s.domA.last = some (1000, 2000) ∧ timed .delayResp 9 m s (fun t => t.domA.last == some (1000, 2000)) = true) ∧
    (fromMaster (ported62 3 plain) 0 (ptp 0 2 stamp3) = false ∧ timed .ptpSync 0 (ptp 0 2 stamp3) (ported62 3 plain) (fun t => (portOfDom t 0 62).sync == some (5, 2000, 0)) = true ∧
      timed .followUp 8 (ptp 8 2 stamp3) (ported62 3 plain) (fun t => t.domA.last == some (1000, 2000)) = true) ∧
    timed .pdelayReq 2 (ptp 2 0 stamp3) (ported62 1 plain) (fun t => (traceOf t 62).queue.length == 1) = true ∧
    (let s := { fields [(Fld.PTP_CFG_ETH_PROFILE, 0, 1), (Fld.PTP_ETH_EN_EN, 0, 0x8000)] State.reset with domA := { domIdle with ports := [(79, { plain with st := 1 })] } }
     let m : TimeMsg := ⟨79, (ptp 1 0 stamp3).bytes.drop 4, 4000⟩
     peerDelay s 0 79 = false ∧ (portOfDom s 0 79).st = 1 ∧ timed .delayReq 1 m s (fun t => t.sent.length == 1) = true) ∧
    (let s := ported62 1 plain; let own := ownPortId s 62
     timed .pdelayResp 3 (ptp 3 2 (stamp3 ++ own)) s (fun t => ((portOfDom t 0 62).resp.map Prod.fst) == some 5) = true ∧
     timed .pdelayResp 3 (ptp 3 0 (stamp3 ++ own)) s (fun t => (portOfDom t 0 62).req == none) = true ∧
     timed .pdelayRespFollowUp 10 (ptp 10 0 (stamp3 ++ own)) s (fun t => (portOfDom t 0 62).resp == none) = true) ∧
    (let s := { ported62 0 plain with domA := { domIdle with ports := [(62, { plain with best := none })] } }; let m := ptp 11 0 (List.replicate 30 0)
     (ptpBody m).length = 64 ∧ (annOf (ptpBody m)).src ≠ clockIdentity s ∧ (annOf (ptpBody m)).steps = 0 ∧
       timed .ptpAnnounce 11 m s (fun t => (portOfDom t 0 62).best.isSome) = true) ∧
    (ptpEnabled (ported62 0 plain) 0 62 = true ∧
      holds (exec (.announceReceiptTimeout 0 62) (ported62 0 plain)) (fun t => (portOfDom t 0 62).best == none) = true ∧
      holds (exec (.announceReceiptTimeout 0 62) (ported62 3 plain)) (fun t => (portOfDom t 0 62).best == none) = true ∧
      holds (exec (.announceReceiptTimeout 0 62) (ported62 2 plain)) (fun t => (portOfDom t 0 62).best == none) = true ∧
      holds (exec (.announceReceiptTimeout 0 62) (ported62 1 plain)) (fun t => (portOfDom t 0 62).best.isSome) = true ∧
      holds (exec (.syncInterval 0 62 9) (ported62 1 { plain with seqSync := 65535 })) (fun t => (portOfDom t 0 62).seqSync == 0 && (traceOf t 62).queue.length == 1) = true ∧
      holds (exec (.announceInterval 0 62) (ported62 1 plain)) (fun t => (portOfDom t 0 62).seqAnn == 1 && (traceOf t 62).queue.length == 1) = true ∧
      holds (exec (.delayReqInterval 0 62 9) (ported62 2 plain)) (fun t => (portOfDom t 0 62).seqReq == 1 && (traceOf t 62).queue.length == 1) = true) := by
  decide +kernel

/-! ### Amplifier channels, limits and the core voltage (AmpStates and AmpLimits) -/

/-- The last group is silent in RUN. -/
def silent : State :=
  { fields ([28, 29, 30, 31].flatMap (fun d => [(Fld.AMP_SIL_CFG_EN, d, 1), (Fld.AMP_SIL_STATUS_SILENT, d, 1)])) (amp 4 ampIdle) with mode := .run }
/-- It sleeps. -/
def asleep : State := fields [(Fld.AMP_SIL_STATUS_ASLEEP, 31, 1)] (amp 1 ampIdle)
/-- Channel 31 has stopped with a cause. -/
def stopped (cause : Nat) (f : RegField) (y : State) : Bool := ampState y 31 == 6 && fld y Fld.AMP_FAULT_CAUSE 31 == cause && fld y f 31 == 1 &&
  fld y Fld.AMP_STATE_ENABLE 31 == 0

/-- Channel 31 has been quiet for 100 ms, its hold time. -/
def quietly : State := fields [(Fld.AMP_SIL_CFG_HOLD, 31, 10)] (amp 4 { ampIdle with quiet := 9600 })

theorem witness_AmpStates :
    (ampsLive (amp 4 ampIdle) = true ∧ ampHeld quietly 31 = true ∧ holds (exec (.ampSilence 31) quietly) (fun y => fld y Fld.AMP_SIL_STATUS_SILENT 31 == 1) = true) ∧
    (ampHeld (amp 4 ampIdle) 31 = false ∧ holds (exec (.ampSilence 31) (amp 4 ampIdle)) (fun y => decide (y = amp 4 ampIdle)) = true) ∧
    holds (exec (.ampWake 31) quietly) (fun y => decide (y = quietly)) = true ∧
    ((ampGroup 7).all (fun d => fbit silent Fld.AMP_SIL_CFG_EN d && fbit silent Fld.AMP_SIL_STATUS_SILENT d && !ovrDest silent d && !fbit silent Fld.AMP_SIL_STATUS_ASLEEP d) = true ∧
      holds (exec (.groupPowerDown 7) silent) (fun y => fld y Fld.AMP_SIL_STATUS_ASLEEP 28 == 1 && ampState y 31 == 5) = true) ∧
    holds (exec (.groupPowerDown 7) { silent with mode := .safe }) (fun y => ampState y 31 == 4) = true ∧
    holds (exec (.ampWake 31) silent) (fun y => fld y Fld.AMP_SIL_STATUS_SILENT 31 == 0) = true ∧
    holds (exec (.ampWake 31) asleep) (fun y => fld y Fld.AMP_SIL_STATUS_ASLEEP 31 == 0 && (ampOf y 28).quick) = true ∧
    holds (exec (.wakeSettleEnd 7) (amp 2 ampIdle)) (fun y => (ampOf y 31).ready) = true ∧
    (searchFreq (amp 2 { ampIdle with ready := true }) false (fixedWindows (amp 2 { ampIdle with ready := true })) 400 assignOffsets = some 400 ∧
      holds (exec .ampRelease (amp 2 { ampIdle with ready := true })) (fun y => ampState y 31 == 3 && fld y Fld.AMP_FSW_FSW_ACT 31 == 400 && (ampOf y 31).side) = true) ∧
    (ampsLive { amp 2 ampIdle with mode := .standby } = false ∧
      holds (exec .ampRelease { amp 2 { ampIdle with ready := true } with mode := .standby }) (fun y => ampState y 31 == 2) = true) ∧
    holds (exec (.carrierLock 31 1027) (amp 3 { ampIdle with quick := true })) (fun y => ampState y 31 == 4 && fld y Fld.AMP_STATE_FSW_MEAS 31 == 3 && (ampOf y 31).gain == 1) = true ∧
    holds (exec .cleanStop (amp 4 { ampIdle with stopReq := true, gain := 2 })) (fun y => ampState y 31 == 5 && (ampOf y 31).gain == 3 && !(ampOf y 31).stopReq) = true ∧
    holds (exec (.muteRampEnd 31) (amp 4 { ampIdle with gain := 2 })) (fun y => (ampOf y 31).gain == 1) = true ∧
    holds (exec (.muteRampEnd 31) (amp 5 { ampIdle with gain := 3 })) (fun y => ampState y 31 == 0 && fld y Fld.AMP_STATE_LOCKED 31 == 0) = true ∧
    holds (exec (.driverFault 31) (amp 4 ampIdle)) (stopped 1 Fld.AMP_FAULT_DRIVER) = true ∧
    (ampSwitching (amp 4 ampIdle) 31 = true ∧ holds (exec (.currentLimit 31) (amp 4 ampIdle)) (fun y => (ampOf y 31).side) = true ∧
      holds (exec (.shortFault 31) (amp 4 ampIdle)) (stopped 2 Fld.AMP_FAULT_SHORT) = true) ∧
    holds (exec (.shortFault 31) (fields [(Fld.AMP_CFG_ILIM_EN, 31, 0)] (amp 4 ampIdle))) (fun y => ampState y 31 == 4) = true ∧
    holds (exec (.dcFault 31) (amp 4 ampIdle)) (fun y => ampState y 31 == 6 && fld y Fld.AMP_FAULT_CAUSE 31 == 4) = true ∧
    holds (exec (.loopFault 31 false) (amp 4 ampIdle)) (stopped 3 Fld.AMP_FAULT_LOOP) = true ∧
    holds (exec (.loopFault 31 true) (fields [(Fld.AMP_STATE_LOCKED, 31, 0)] (amp 4 ampIdle))) (fun y => ampState y 31 == 4) = true := by decide +kernel

/-- A diagnostic of channel 31 of job 101h with two frequencies to measure. -/
def test31 (k : Nat) : AmpTest := ⟨0x101, k, [(40, 0, 4), (50, 0, 4)], 0, 0, [], true⟩
/-- Channel 31 has stopped with its hold over, or by a cut. -/
def faulted (hold : Bool) : State := fields [(Fld.AMP_FAULT_CAUSE, 31, 5)] (amp 6 { ampIdle with hold := hold })
/-- A quiet voltage window is over in RUN, 700 mV minimum, 800 mV now. -/
def quiet : State :=
  let s := fields [(Fld.AVS_LIMITS_VMIN, 0, 700), (Fld.AVS_CTRL_ENABLE, 0, 1), (Fld.AVS_CTRL_STEP_DOWN, 0, 1), (Fld.AVS_CTRL_WINDOW, 0, 0)] State.reset
  { s with mode := .run, fg := { s.fg with winFrames := 16, winAbove := true, setHalf := 1600 } }
/-- A value is on its way to the regulator, another waits. -/
def writing : State := { State.reset with power := { State.reset.power with avsBusy := some 1401, avsNext := some 1500, avsTries := 1 } }

theorem witness_AmpLimits :
    (State.reset.reqLimit = false ∧ holds (exec (.limitRegisterWrite 31 5 1) (amp 1 ampIdle)) (fun y => y.reqLimit && fld y Fld.AMP_GCTRL_REQUIRE_LIMIT == 1) = true) ∧
    holds (exec (.limitRegisterWrite 31 5 0) { amp 1 ampIdle with reqLimit := true }) (fun y => fld y Fld.AMP_GSTATUS_LOCK_VIOL == 1) = true ∧
    holds (exec (.limitRegisterWrite 31 4 3) (amp 1 { ampIdle with limDone := 16 })) (fun y => fld y Fld.LIM_STATUS_LOCK_VIOL 31 == 1) = true ∧
    (limRange 3 100001 = false ∧ holds (exec (.limitRegisterWrite 31 3 100001) (amp 1 ampIdle)) (fun y => fld y Fld.AMP_GSTATUS_CFG_ERR == 1) = true) ∧
    (limRange 3 100000 = true ∧ holds (exec (.limitRegisterWrite 31 3 100000) (amp 1 ampIdle)) (fun y => fld y Fld.LIM_IFS_IFS 31 == 100000 && (ampOf y 31).limDone == 8) = true) ∧
    serves (ask 0xA02 ([31, 0, 0, 0] ++ beBytes 4 10000000 ++ beBytes 4 1 ++ beBytes 4 1000 ++ beBytes 4 100 ++ [3, 0, 0, 0])) .ampLimitSet (amp 1 ampIdle) (fun y =>
      status y == 0 && fld y Fld.LIM_P100_LIMIT 31 == 10000000 && (ampOf y 31).limDone == 31) = true ∧
    (let s := fields [(Fld.LIM_STATUS_ARMED, 31, 1)] (amp 4 { ampIdle with blocks := List.replicate 99 2 })
     fld s Fld.LIM_P100_LIMIT 31 ≤ meanPower 100 (blockPower s 31 (2 ^ 32) :: (ampOf s 31).blocks) ∧ ampState s 31 = 4) ∧
    holds (exec (.energyBlock (List.replicate 32 (2 ^ 32))) (amp 4 ampIdle)) (fun y => (ampOf y 31).blocks == [100] && ampState y 31 == 4) = true ∧
    holds (exec (.energyCutHoldEnd 31) (faulted true)) (fun y => ampState y 31 == 6 && !(ampOf y 31).hold) = true ∧
    holds (exec (.energyCutHoldEnd 31) (fields [(Fld.LIM_CTRL_AUTO_RESTART, 31, 1)] (faulted true))) (fun y => ampState y 31 == 0 && fld y Fld.AMP_FAULT_CAUSE 31 == 0) = true ∧
    serves (ask 0xA03 [0x80, 0, 0, 0]) (.ampFaultClear · 0) (faulted false) (fun y => ampState y 31 == 0 && status y == 0) = true ∧
    (diagMay (amp 4 ampIdle) 31 = true ∧ JobRoom 0x101 (amp 4 ampIdle) ∧
      serves (ask 0xA00 ([0x80, 0, 0, 0, 2, 0, 0, 0, 60, 0, 0, 0] ++ beBytes 4 9 ++ beBytes 4 1)) (.ampDiag · 0x101) (amp 4 ampIdle) (fun y => ampState y 31 == 7 &&
        jobIn y == 0x101) = true) ∧
    holds (exec (.ampTestStep 31 4 7 10000) (amp 7 { ampIdle with test := some (test31 1) })) (fun y =>
      ((ampOf y 31).test.map (fun t => (t.todo, t.done))) == some ([(50, 0, 4)], [⟨40, 4, 7, 0, false⟩])) = true ∧
    serves (ask 0xA01 [31, 0, 0, 0]) .ampDiagRead (amp 1 { ampIdle with diag := some ⟨1, 0, 0, 5, []⟩ }) (fun y => status y == 0) = true ∧
    serves (ask 0xA04 [31, 0, 0, 0]) (.ampStatus · 0) (amp 1 ampIdle) (fun y => status y == 0) = true ∧
    (avsFrames quiet = 16 ∧ fbit quiet Fld.AVS_STATUS_TAP_FLOOR = false ∧ holds (exec .avsWindowEnd quiet) (fun y => y.fg.setHalf == 1595 && y.fg.winFrames == 0) = true) ∧
    holds (exec .avsWindowEnd { quiet with fg := { quiet.fg with winFrames := 15 } }) (fun y => y.fg.setHalf == 1600 && y.fg.winFrames == 15) = true ∧
    holds (exec (.avsPmbusWrite true) writing) (fun y => y.power.avsAcked == some 1401 && y.power.avsBusy == some 1500 && fld y Fld.AVS_IF_STATUS_ACKED == 700) = true ∧
    holds (exec (.avsPmbusWrite false) writing) (fun y => y.power.avsTries == 2 && y.power.avsBusy == some 1401) = true ∧
    ((List.range 16).all (fun h => !tapLoaded (brewOf State.reset h)) = true ∧ holds (exec .tapFloorEnd { State.reset with mode := .run }) (fun y =>
      y.fg.floorUntil == 0 && fld y Fld.AVS_STATUS_TAP_FLOOR == 0) = true) := by decide +kernel

/-! ### Modes, power and resets (ModesAndMains, PowerAndVault, Resets) -/

/-- The power path changed. -/
def powered (f : PowerSt → PowerSt) (s : State) : State := { s with power := f s.power }
/-- A program certified at the present base rate is live on stall 0. -/
def certified : State := { State.reset with pages := [(0, { pagesEmpty with hdr0 := { headerEmpty with hasProgram := true } })] }
/-- In RUN with channel 31 running, thresholds of temperature and mains set, mains present with one half-cycle missed and seven zero crosses seen. -/
def mains : State :=
  powered (fun p => { p with missed := 1, crosses := 7, lastCross := some 1000 })
    { fields [(Fld.MAINS_CTRL_MAINS_EN, 0, 1), (Fld.MAINS_CTRL_N_MISS, 0, 2), (Fld.MAINS_STATUS_PRESENT, 0, 1), (Fld.THERM_CTRL_THERM_WARN, 0, 105)] (amp 4 { ampIdle with gain := 1 }) with
      mode := .run }
/-- A shutdown has reached a phase, with the channels at rest. -/
def shutting (phase k : Nat) : State := powered (fun p => { p with shut := ⟨phase, 0, 0, 0, 0, 0⟩ }) (amp k ampIdle)
/-- The first pending mode change. -/
def pends (tgt frame : Nat) (y : State) : Bool :=
  (y.power.pend.head?.map (fun p => (p.target, p.frame))) == some (tgt, frame) && fld y Fld.MODE_STATUS_PENDING == tgt && fld y Fld.MODE_STATUS_PEND_VALID == 1

theorem witness_ModesAndMains :
    (modeCode State.reset.mode = 2 ∧ serves (ask 0xD00 [2, 0, 0, 0]) .modeSet State.reset (fun y => status y == 0 && result y == beBytes 8 0) = true) ∧
    (modeStep .configure 5 = false ∧ serves (ask 0xD00 [5, 0, 0, 0]) .modeSet State.reset (fun y => status y == 0x62) = true) ∧
    (liveCertified certified = true ∧ fbit certified Fld.THERM_STATUS_WARN_ACTIVE = false ∧
      serves (ask 0xD00 [3, 0, 0, 0]) .modeSet certified (fun y => pends 3 2 y && status y == 0) = true) ∧
    serves (ask 0xD00 [5, 0, 0, 0]) .modeSet { State.reset with mode := .run } (fun y => pends 5 2 y && status y == 0) = true ∧
    holds (exec (.thermalWarn [105]) mains) (fun y => pends 5 1 y && fld y Fld.THERM_STATUS_WARN_ACTIVE == 1 && fld y Fld.THERM_STATUS_WARN_STICKY == 1) = true ∧
    holds (exec (.thermalWarn [104]) mains) (fun y => fld y Fld.THERM_STATUS_WARN_ACTIVE == 0 && y.power.pend == []) = true ∧
    holds (exec (.zeroCross 9) (fields [(Fld.MAINS_CTRL_MAINS_EN, 0, 0)] State.reset)) (fun y => y.power.lastCross == none) = true ∧
    holds (exec (.zeroCross 11000) mains) (fun y => y.power.spans == [10000] && y.power.missed == 0 && fld y Fld.MAINS_STATUS_PRESENT == 1) = true ∧
    holds (exec .missingHalfCycle (powered (fun p => { p with missed := 0 }) mains)) (fun y => y.power.missed == 1 && fld y Fld.MAINS_STATUS_PRESENT == 1) = true ∧
    holds (exec .missingHalfCycle mains) (fun y => fld y Fld.MAINS_STATUS_PRESENT == 0 && fld y Fld.MAINS_STATUS_LOST_STICKY == 1 && pends 5 1 y) = true ∧
    holds (exec .shutdownDelayEnd (shutting 2 4)) (fun y => y.power.shut.phase == 3 && ampState y 31 == 5) = true ∧
    holds (exec .shutdownDelayEnd (shutting 1 4)) (fun y => y.power.shut.phase == 1 && ampState y 31 == 4) = true ∧
    (ampsStopped (shutting 0 1) = true ∧ holds (exec .enableLowDelay (fields [(Fld.AMP_STATE_ENABLE, 31, 1)] (shutting 0 1))) (fun y =>
      fld y Fld.AMP_STATE_ENABLE 31 == 0 && y.mode == .configure) = true) ∧
    (ampsStopped (shutting 3 1) = true ∧ holds (exec .enableLowDelay (shutting 3 1)) (fun y => y.mode == .standby && y.power.en == 3 && y.power.seq == 3 &&
      vaultByte y 0 == 0x5A && vaultByte y 3 == 0x44) = true) := by decide +kernel

/-- In STANDBY with every wake source enabled, an alarm, and a byte in the vault; or OFF. -/
def sleeping : State :=
  powered (fun p => { p with seq := 0, en := 0, boot := 1, vault := [(0, 7)] })
    { fields [(Fld.WAKE_CTRL_WAKE_PIN_EN, 0, 1), (Fld.WAKE_CTRL_WAKE_SPI, 0, 1), (Fld.WAKE_CTRL_WAKE_LANE, 0, 1), (Fld.WAKE_CTRL_WAKE_LANES, 0, 0x8000),
        (Fld.WAKE_CTRL_WAKE_ALARM, 0, 1), (Fld.BK_ALARM_LO_ALARM_LO, 0, 99), (Fld.BK_ALARM_HI_ALARM_HI, 0, 1)] State.reset with mode := .standby }
def unpowered : State := { sleeping with mode := .off }
/-- A wake source has started the regulators. -/
def woken (n lane : Nat) (y : State) : Bool :=
  y.power.en == 1 && y.power.seq == 1 && fld y Fld.WAKE_STATUS_SOURCE == n && fld y Fld.WAKE_STATUS_LANE == lane
/-- The regulators stand at a step. -/
def stepping (seq en : Nat) : State := powered (fun p => { p with seq := seq, en := en }) State.reset
/-- A valid header in the boot flash. -/
def flashed : State :=
  let h : List Byte := [0x5A, 0x42, 0x4F, 0x54] ++ List.replicate 56 0
  powered (fun p => { p with flash := (List.range 64).zip (h ++ beBytes 4 (crc32c h)) }) State.reset

theorem witness_PowerAndVault :
    holds (exec .wakenPin sleeping) (woken 1 0) = true ∧ holds (exec .spiWake sleeping) (woken 4 0) = true ∧
    holds (exec (.laneSignalWake 15) sleeping) (woken 5 15) = true ∧
    holds (exec (.bkAlarmMatch 44) sleeping) (fun y => woken 3 0 y && y.power.seconds == 2 ^ 32 + 99 && y.power.secAt == 44) = true ∧
    holds (exec .wakenPin (fields [(Fld.WAKE_CTRL_WAKE_PIN_EN, 0, 0)] sleeping)) (fun y => y.power.en == 0) = true ∧
    holds (exec .spiWake (fields [(Fld.WAKE_CTRL_WAKE_SPI, 0, 0)] sleeping)) (fun y => y.power.en == 0) = true ∧
    holds (exec (.laneSignalWake 15) (fields [(Fld.WAKE_CTRL_WAKE_LANE, 0, 0)] sleeping)) (fun y => y.power.en == 0) = true ∧
    holds (exec (.bkSecHiWrite 0x10001 8) (powered (fun p => { p with secHold := 5 }) State.reset)) (fun y => y.power.seconds == 2 ^ 32 + 5 && y.power.secAt == 8) = true ∧
    holds (exec .vaonLoss sleeping) (fun y => y.mode == .off && y.power.boot == 1 && vaultByte y 0 == 7) = true ∧
    holds (exec (.vaonReturn false 12) unpowered) (fun y => y.mode == .standby && y.power.seconds == 12 && fld y Fld.RESET_CAUSE_CAUSE % 2 == 1) = true ∧
    holds (exec (.vaonReturn true 12) unpowered) (fun y => y.mode == .standby && woken 6 0 y) = true ∧
    holds (exec .vbakLoss unpowered) (fun y => y.power.vault == [] && regWord y 0x504 == 3) = true ∧
    holds (exec .vbakLoss sleeping) (fun y => vaultByte y 0 == 7) = true ∧
    holds (exec .pwrGapEnd (fields [(Fld.SUPPLY_STATUS_PWR_GOOD, 0, 0)] (stepping 1 3))) (fun y => y.power.en == 4 && y.power.seq == 2) = true ∧
    (fbit (stepping 1 3) Fld.SUPPLY_STATUS_PWR_GOOD = true ∧ (stepping 1 3).mode ≠ .off ∧ (stepping 1 3).power.pinLow = false ∧ (stepping 1 3).power.hot = false ∧
      holds (exec .pwrGapEnd (stepping 1 3)) (fun y => y.power.en == 4 && y.power.boot == 2 && y.power.seq == 0) = true) ∧
    holds (exec .pwrGapEnd (stepping 3 2)) (fun y => y.power.en == 1 && y.power.seq == 3) = true ∧
    holds (exec .pwrGapEnd (stepping 3 1)) (fun y => y.mode == .standby && y.power.en == 0 && y.power.boot == 1 && fld y Fld.SUPPLY_STATUS_PWR_GOOD == 0) = true ∧
    holds (exec .pwrGood (stepping 2 4)) (fun y => y.power.boot == 2 && y.power.clear && fld y Fld.SUPPLY_STATUS_PWR_GOOD == 1) = true ∧
    holds (exec .pgoodTimeout (stepping 2 4)) (fun y => y.power.en == 0 && fld y Fld.SUPPLY_STATUS_PGOOD_FAIL == 1) = true ∧
    serves (ask 0xD03 [255, 0, 0, 1]) .vaultRead (powered (fun p => { p with vault := [(255, 9)] }) State.reset) (fun y => result y == [9]) = true ∧
    serves (ask 0xD04 [254, 0, 0, 0, 8, 9]) .vaultWrite State.reset (fun y => vaultByte y 254 == 8 && vaultByte y 255 == 9 && status y == 0) = true ∧
    (inRunningSlot State.reset 256 256 = false ∧ JobRoom 0x101 State.reset ∧
      serves (ask 0xE00 ([0, 0, 1, 0] ++ List.replicate 256 3)) (.flashWrite · 0x101) State.reset (fun y => status y == 1 && y.jobs.length == 1) = true) ∧
    serves (ask 0xE01 [0, 0, 0, 60, 0, 4, 0, 0]) (.flashRead · true) flashed (fun y => status y == 0 && (result y).length == 4) = true ∧
    serves (ask 0xE01 [0, 0, 0, 60, 0, 4, 0, 0]) (.flashRead · false) flashed (fun y => status y == 0x66 && detail y == 60) = true ∧
    (headerValid (flashHeader flashed) = true ∧ serves (ask 0xE02 [1, 0, 0, 0]) (.fwActivate · true) flashed (fun y => flashBytes y 6 1 == [1] && status y == 0) = true) ∧
    serves (ask 0xE02 [1, 0, 0, 0]) (.fwActivate · false) flashed (fun y => status y == 0x67 && detail y == 1) = true := by decide +kernel

/-- In RUN with causes of a reset enabled. -/
def resetting : State :=
  powered (fun p => { p with toReset := [(1, 0, true)] })
    { fields [(Fld.FG_CTRL_FATAL_COUNT, 0, 4), (Fld.FG_STATUS_CONSEC, 0, 4), (Fld.WDOG_CTRL_WDOG_EN, 0, 1)] State.reset with mode := .run, sessions := [session5 0 []] }
/-- The engine has been reset with a cause, held in reset or not. -/
def wasReset (cause : Nat) (held : Bool) (y : State) : Bool :=
  y.mode == .configure && y.power.boot == (if held then 1 else 2) && y.sessions == [] && testBit (fld y Fld.RESET_CAUSE_CAUSE) cause && y.power.report
/-- The reset has reached a step; the boot ROM runs with one word of an image. -/
def booting (k : Nat) : State := powered (fun p => { p with boot := k, clear := true, report := true }) (memPoke 0x400000000 [1] (memPoke 0x04000000 [1] State.reset))
def rom : State := powered (fun p => { p with boot := 5, fw := false, image := [7] }) (fields [(Fld.BOOT_LEN_LEN, 0, 4), (Fld.BOOT_CTRL_BUSY, 0, 1)] State.reset)
def otp : Otp := ⟨3, 0, 0, 0, 0, 0⟩

theorem witness_Resets :
    holds (exec .fgFatalReset resetting) (wasReset 7 false) = true ∧ holds (exec .wdogExpiry resetting) (wasReset 3 false) = true ∧
    holds (exec (.critErr 4) resetting) (fun y => wasReset 6 false y && fld y Fld.RESET_CAUSE_CRIT_WHERE == 5) = true ∧
    holds (exec .supplyMonitorTrip resetting) (wasReset 0 false) = true ∧
    holds (exec .pwrGoodLoss resetting) (fun y => y.power.boot == 2 && y.mode == .configure) = true ∧
    holds (exec .thermalTrip resetting) (fun y => wasReset 5 true y && y.power.hot) = true ∧
    holds (exec (.resetnPin true 1000 false) resetting) (fun y => wasReset 2 true y && y.power.pinLow) = true ∧
    holds (exec (.resetStart [] 5) resetting) (wasReset 8 false) = true ∧
    holds (exec (.resetnPin true 99 true) resetting) (fun y => y.mode == .run) = true ∧
    holds (exec .fgFatalReset (fields [(Fld.FG_CTRL_FATAL_COUNT, 0, 5)] resetting)) (fun y => y.mode == .run) = true ∧
    holds (exec .wdogExpiry (fields [(Fld.WDOG_CTRL_WDOG_EN, 0, 0)] State.reset)) (fun y => y.power.boot == 0) = true ∧
    holds (exec .thermalTripRelease (powered (fun p => { p with boot := 1, hot := true }) State.reset)) (fun y => y.power.boot == 2 && !y.power.hot) = true ∧
    holds (exec (.resetnPin false 0 false) (powered (fun p => { p with boot := 1, pinLow := true }) State.reset)) (fun y => y.power.boot == 2 && !y.power.pinLow) = true ∧
    holds (exec (.optionLoading 0xFFFF otp) State.reset) (fun y => y.power.boot == 0) = true ∧
    (headerValid (flashHeader (booting 2)) = false ∧ holds (exec (.optionLoading 0xFFFF otp) (booting 2)) (fun y => y.power.boot == 3 &&
      fld y Fld.ID_OPTIONS_OPTIONS == 0x3FFFF && fld y Fld.ENDPOINT_ID_ID == 63 && fld y Fld.MODE_STATUS_HDR_INVALID == 1) = true) ∧
    holds (exec (.releaseStep true 9) { booting 3 with frame := 5 }) (fun y => y.power.boot == 4 && y.frame == 0 && y.tick == 9) = true ∧
    holds (exec (.releaseStep true 9) (booting 4)) (fun y => y.power.boot == 5 && fld y Fld.CELLAR_CH_STATUS_STATE 7 == 1) = true ∧
    holds (exec (.releaseStep true 9) (booting 9)) (fun y => y.power.boot == 10) = true ∧
    holds (exec (.releaseStep true 9) (booting 5)) (fun y => y.power.boot == 6 && memByte y 0x400000000 == 0 && memByte y 0x04000000 == 1) = true ∧
    holds (exec (.releaseStep true 9) (booting 6)) (fun y => y.power.boot == 7 && memByte y 0x04000000 == 0 && memByte y 0x400000000 == 1) = true ∧
    holds (exec (.releaseStep true 9) (booting 10)) (fun y => y.power.boot == 0 && y.mode == .configure && raised y == [0xC3]) = true ∧
    (romRuns rom = true ∧ holds (exec (.bootDataWrite 8) rom) (fun y => y.power.image == [7, 8]) = true ∧
      holds (exec (.bootGo true) rom) (fun y => fld y Fld.BOOT_CTRL_BUSY == 1 && fld y Fld.BOOT_CTRL_FAIL == 0) = true ∧
      holds (exec (.bootGo false) rom) (fun y => fld y Fld.BOOT_CTRL_FAIL == 1 && fld y Fld.MODE_STATUS_BOOT_FAIL == 1 && y.power.image == []) = true ∧
      holds (exec (.firmwareStart 2 0x12345678) rom) (fun y => y.power.fw && y.power.slot == 2 && fld y Fld.FW_VERSION_VERSION == 0x12345678) = true) ∧
    (resetBit 0x24 = some 8 ∧ holds (exec (.blockResetRelease 0x24) State.reset) (fun y => decide (y = State.reset)) = true ∧
      holds (exec (.blockResetRelease 0x24) (setRegWord 0x514 0x100 State.reset)) (fun y => regWord y 0x514 == 0) = true) ∧
    holds (exec (.pcieFlr 5) { State.reset with rxq := [⟨.pcie 7, ⟨0, none, 0⟩, []⟩, arrives []], sessions := [{ session5 0 [] with source := .pcie 0 }] }) (fun y =>
      y.rxq == [arrives []] && y.sessions == []) = true ∧
    holds (exec (.pcieFlr 5) (powered (fun p => { p with boot := 1 }) { State.reset with rxq := [⟨.pcie 7, ⟨0, none, 0⟩, []⟩] })) (fun y => y.rxq.length == 1) = true ∧
    serves (ask 0xD01 [2, 0x1F, 0x5A, 0x5A]) .reset State.reset (fun y => y.power.toReset == [(2, 0x1F, false)] && status y == 0) = true ∧
    serves (ask 0xD02 [0, 0, 0, 0]) .resetCause State.reset (fun y => result y == [0, 0, 0, 1]) = true ∧
    serves (ask 0xD02 [1, 0, 0, 0]) .resetCause State.reset (fun y => result y == [0, 0, 0, 1] && fld y Fld.RESET_CAUSE_CAUSE == 0) = true := by decide +kernel

/-! ### Pairs -/

/-- Trace 62 is a mirror trace toward endpoint 3. -/
def mirror : State := fields [(Fld.TRACE_CFG_KIND, 62, 2), (Fld.TRACE_PEER_PEER, 62, 3)] (linked 4 idle)
/-- The engine has the partner 3 in a role, in a state of the pair and a mode. -/
def paired (role st : Nat) (m : Mode) (p : PairSt) : State :=
  { fields [(Fld.SHADOW_PARTNER_PARTNER, 0, 3), (Fld.SHADOW_PARTNER_ROLE, 0, role), (Fld.SHADOW_STATUS_STATE, 0, st), (Fld.SHADOW_MIRROR_VALID, 0, 1),
      (Fld.SHADOW_MIRROR_TRACE, 0, 62), (Fld.SHADOW_CTRL_AUTO_EN, 0, 1), (Fld.HERD_CTRL_LOSS_COUNT, 0, 8)] mirror with mode := m, pair := p }
/-- A PAIR record of endpoint 3 with an action, a status and a frame. -/
def pairRec (action status frame : Nat) : MgmtRec := ⟨some 62, 3, 4, beBytes 1 action ++ [0] ++ beBytes 2 status ++ beBytes 4 3 ++ beBytes 8 frame⟩
def told (m : MgmtRec) (s : State) : State := { s with mgmt := [m] }
/-- SHADOW_PAIR with endpoint 3 in a role. -/
def pairing (role : Byte) : Req := ask 0xB02 ([0, 0, 0, 3] ++ [role, 0, 0, 0])
/-- A standby acquires stall 1,023, of whose areas the first 8 bytes have come. -/
def acquires : State := { paired 2 2 .shadow { pairNone with got := 8 } with liveAreas := [(1023, (0x04000000, 16))] }

theorem witness_Pairs :
    (holds (exec (.pairRequest true) mirror) (fun y => decide (y = mirror)) = true ∧ holds (exec .pairAccept mirror) (fun y => decide (y = mirror)) = true ∧
      holds (exec .pairRefuse mirror) (fun y => decide (y = mirror)) = true ∧ holds (exec .pairSwitch mirror) (fun y => decide (y = mirror)) = true ∧
      holds (exec .pairSwitchDone mirror) (fun y => decide (y = mirror)) = true) ∧
    serves (pairing 1) .shadowPair { mirror with mode := .run } (fun y => status y == 0x23) = true ∧
    (mirrorTo mirror 3 = some 62 ∧ serves (pairing 1) .shadowPair mirror (fun y => status y == 0 && pairState y == 1 && partnerId y == 3) = true) ∧
    serves (pairing 2) .shadowPair mirror (fun y => y.pair.wait == some (pairing 2) && (traceOf y 62).queue.length == 1) = true ∧
    (mirrorTo lanes 3 = none ∧ serves (pairing 2) .shadowPair lanes (fun y => status y == 0x64) = true) ∧
    (PairRecord 1 (pairRec 1 0 0) (told (pairRec 1 0 0) mirror) ∧
      holds (exec (.pairRequest true) (told (pairRec 1 0 0) mirror)) (fun y => pairState y == 1 && partnerId y == 3 && (traceOf y 62).queue.length == 1) = true ∧
      holds (exec (.pairRequest false) (told (pairRec 1 0 0) mirror)) (fun y => pairState y == 0 && (traceOf y 62).queue.length == 1 && y.mgmt == []) = true) ∧
    (let s := told (pairRec 2 0 0) { mirror with pair := { pairNone with wait := some (pairing 2) } }
     PairRecord 2 (pairRec 2 0 0) s ∧ rd (pairRec 2 0 0).body 4 4 = 3 ∧ holds (exec .pairAccept s) (fun y => pairState y == 0 && partnerId y == 3 &&
       fld y Fld.SHADOW_PARTNER_ROLE == 2 && status y == 0) = true) ∧
    holds (exec .pairRefuse (told (pairRec 3 0x64 0) { mirror with pair := { pairNone with wait := some (pairing 2) } })) (fun y => y.pair.wait == none && status y == 0x64) = true ∧
    (acquiring acquires = some 1023 ∧ areaAddr (areasOf acquires 1023) 8 = some 0x04000008 ∧
      holds (exec .acquireData { acquires with acqq := [⟨8, 0x04000008, [9, 8]⟩] }) (fun y => y.pair.got == 10 && memByte y 0x04000009 == 8) = true ∧
      holds (exec .acquireRegisters { acquires with acqq := [⟨9, 1023, [0, 7, 0, 0, 0, 0, 0, 0, 0, 0, 0, 0, 0, 0, 0, 5]⟩] }) (fun y => y.pair.regs == [(1023, 7, 5)]) = true ∧
      holds (exec .acquireRegisters { acquires with acqq := [⟨9, 1, [0, 7, 0, 0, 0, 0, 0, 0, 0, 0, 0, 0, 0, 0, 0, 5]⟩] }) (fun y => y.pair.regs == [] && y.acqq == []) = true ∧
      holds (exec (.cutEnd 5) { acquires with acqq := [⟨10, 1023, beBytes 8 0⟩] }) (fun y => y.pair.cut == some (1023, 0)) = true ∧
      holds (exec (.cutEnd 5) { acquires with acqq := [⟨10, 1023, beBytes 8 0⟩], frame := 1, pair := { acquires.pair with hold := some 1023 } }) (fun y =>
        (unitOf y 1023).ends == [⟨1, 5, false⟩]) = true ∧
      holds (exec (.cutEnd 5) { acquires with acqq := [⟨10, 1023, beBytes 8 0⟩], frame := 2, pair := { acquires.pair with regs := [(1, 2, 3)] } }) (fun y =>
        y.pair.regs == [] && y.pair.cut == none) = true) ∧
    holds (exec (.cutWaitExpiry 5) acquires) (fun y => decide (y = acquires)) = true ∧
    holds (exec (.cutWaitExpiry 5) { acquires with pair := { acquires.pair with hold := some 1023 } }) (fun y => y.pair.hold == none &&
      fld y Fld.SHADOW_SWITCH_COUNT_CUT_MISS == 1) = true ∧
    holds (exec (.pairSenseLow 5) mirror) (fun y => fld y Fld.SHADOW_STATUS_PAIR_SENSE == 0 && y.pair.takeoverAt == none) = true ∧
    holds (exec (.pairSenseLow 5) (paired 2 3 .shadow pairNone)) (fun y => y.pair.takeoverAt == some 1 && y.mode == .shadow) = true ∧
    holds (exec .takeover (paired 2 3 .shadow pairNone)) (fun y => y.mode == .shadow) = true ∧
    holds (exec .takeover (paired 2 3 .shadow { pairNone with takeoverAt := some 1 })) (fun y => y.mode == .shadow) = true ∧
    holds (exec .takeover { paired 2 3 .shadow { pairNone with takeoverAt := some 1 } with frame := 1 }) (fun y => y.mode == .run && pairState y == 1 && (raised y).contains 0xB1) = true ∧
    holds (exec .commandedSwitchover (paired 1 1 .run pairNone)) (fun y => y.mode == .run) = true ∧
    holds (exec .commandedSwitchover (paired 1 1 .run { pairNone with switchAt := some 1 })) (fun y => y.mode == .run) = true ∧
    holds (exec .commandedSwitchover { paired 1 1 .run { pairNone with switchAt := some 1 } with frame := 1 }) (fun y => y.mode == .shadow && pairState y == 3 &&
      fld y Fld.SHADOW_PARTNER_ROLE == 2 && decide (BankDark y)) = true ∧
    holds (exec .commandedSwitchover { paired 2 3 .shadow { pairNone with switchAt := some 1 } with frame := 1 }) (fun y => y.mode == .run && pairState y == 1 && y.pair.locked) = true ∧
    serves (ask 0xB03 []) .switchover mirror (fun y => status y == 0x64) = true ∧
    (standbyLocked (paired 1 1 .run pairNone) = false ∧ serves (ask 0xB03 []) .switchover (paired 1 1 .run pairNone) (fun y => status y == 0x2F) = true) ∧
    (standbyLocked (paired 1 1 .run { pairNone with locked := true }) = true ∧ mirrorTrace (paired 1 1 .run pairNone) = some 62 ∧
      serves (ask 0xB03 []) .switchover (paired 1 1 .run { pairNone with locked := true }) (fun y => status y == 0 && result y == beBytes 8 8 && y.pair.switchAt == some 8) = true) ∧
    (PairRecord 4 (pairRec 4 0 1) (told (pairRec 4 0 1) (paired 2 3 .shadow pairNone)) ∧
      holds (exec .pairSwitch (told (pairRec 4 0 1) (paired 2 3 .shadow pairNone))) (fun y => y.pair.switchAt == some 1) = true ∧
      holds (exec .pairSwitch (told (pairRec 4 0 0) (paired 2 3 .shadow pairNone))) (fun y => y.pair.switchAt == none && (traceOf y 62).queue.length == 1) = true) ∧
    holds (exec .pairSwitchDone (told (pairRec 5 0 1) (paired 1 1 .run { pairNone with switchAt := some 1 }))) (fun y => y.pair.switchAt == some 1 && y.mgmt == []) = true ∧
    holds (exec .pairSwitchDone (told (pairRec 5 0x2F 1) (paired 1 1 .run { pairNone with switchAt := some 1 }))) (fun y => y.pair.switchAt == none && y.mgmt == []) = true ∧
    holds (exec .pairSenseHigh (paired 2 3 .shadow pairNone)) (fun y => fld y Fld.SHADOW_STATUS_PAIR_SENSE == 1 && y.power.pend == []) = true ∧
    (fbit (paired 1 1 .run pairNone) Fld.SHADOW_STATUS_PAIR_ACT = false ∧ holds (exec .pairSenseHigh (paired 1 1 .run pairNone)) (fun y =>
      y.power.pend.head? == some ⟨4, 1, 0⟩ && y.pair.displaced && decide (BankDark y)) = true) ∧
    holds (exec .standbyRecordLoss { paired 1 1 .run pairNone with frame := 8 }) (fun y => raised y == [0xB2] && y.pair.lastPeer == 8) = true ∧
    holds (exec .standbyRecordLoss { paired 1 1 .run pairNone with frame := 7 }) (fun y => raised y == []) = true := by decide +kernel

/-! ### Registers -/

/-- In RUN, where frame settings are locked, with event 3 selected in the window at a word of it. -/
def windowed (w : Nat) : State := { fields [(Fld.EVT_RD_INDEX_INDEX, 0, 3)] State.reset with evtLog := [⟨3, 0x52, 9, 7, 8, 0, 0⟩], evtWord := w }

theorem witness_Registers :
    (aligned 0x504 = true ∧ aligned 0x505 = false ∧ aligned 0x70000 = false ∧ regsReach State.reset = true ∧
      holds (exec (.registerWrite 20 0x505 1 0) State.reset) (fun y => decide (y = State.reset)) = true ∧
      holds (exec (.latchingRead ⟨20, 0x505⟩ 0) State.reset) (fun y => decide (y = State.reset)) = true) ∧
    (regsReach { State.reset with mode := .off } = false ∧ holds (exec (.latchingRead ⟨20, 0x504⟩ 0) { State.reset with mode := .off }) (fun y => y.lastRead == 0) = true) ∧
    ((regAt 0x43000).isSome = true ∧ ordinary 0x20C = true ∧ (regAt 0x20C).isSome = true ∧
      holds (exec (.registerWrite 21 0x20C 0xFFFFFFFF 0) State.reset) (fun _ => true) = true) ∧
    (xbTarget 0x70000 = 15 ∧ holds (exec (.registerWrite 20 0x70000 1 0) State.reset) (fun y => fld y Fld.XB_DEF_COUNT_COUNT == 1 && fld y Fld.XB_STATUS_DEF_STICKY == 1) = true ∧
      holds (exec (.latchingRead ⟨20, 0x90000⟩ 0) { State.reset with lastRead := 7 }) (fun y => fld y Fld.XB_DEF_COUNT_COUNT == 1 && y.lastRead == 0) = true) ∧
    (aligned 0x5FFFC = true ∧ holds (exec (.registerWrite 20 0x5FFFC 0x12345678 0) State.reset) (fun y => drvMemRead y 0x7FFC == 0x12345678) = true) ∧
    (regAt 0x6FFFC = none ∧ holds (exec (.registerWrite 20 0x6FFFC 1 0) State.reset) (fun y => decide (y = State.reset)) = true ∧
      holds (exec (.latchingRead ⟨20, 0x6FFFC⟩ 0) State.reset) (fun y => y.lastRead == 0) = true) ∧
    (latchedBy 0x504 = [] ∧ holds (exec (.latchingRead ⟨20, 0x504⟩ 0) State.reset) (fun y => y.lastRead == 1) = true) ∧
    (latchedBy 0x10080 = [0x10084] ∧ holds (exec (.latchingRead ⟨20, 0x10080⟩ 0) State.reset) (fun y =>
      y.latches.map Prod.fst == [0x10084] || y.latches == []) = true) ∧
    holds (exec (.evtRdIndexWrite 0xFFFFFFFF) (windowed 4)) (fun y => fld y Fld.EVT_RD_INDEX_INDEX == 0xFFFFFFFF && y.evtWord == 0) = true ∧
    holds (exec .evtDataRead (windowed 0)) (fun y => y.lastRead == 0x00520000 && y.evtWord == 1) = true ∧
    holds (exec .evtDataRead (windowed 5)) (fun y => y.evtWord == 0 && fld y Fld.EVT_RD_INDEX_INDEX == 4) = true ∧
    serves (ask 0x105 (beBytes 4 0x505 ++ [0, 1, 0, 0])) (.regRead · 0) State.reset (fun y => status y == 0x22 && detail y == 0) = true ∧
    serves (ask 0x105 (beBytes 4 0x504 ++ [7, 0xF5, 0, 0])) (.regRead · 0) State.reset (fun y => status y == 0x22 && detail y == 4) = true ∧
    (xbTarget 0x504 = 12 ∧ wordKind State.reset 0x504 false = .ok ∧
      serves (ask 0x105 (beBytes 4 0x504 ++ [0, 1, 0, 0])) (.regRead · 0) State.reset (fun y => status y == 0 && result y == [0, 1, 0, 0, 0, 0, 0, 1]) = true) ∧
    (wordKind State.reset 0x70000 false ≠ .ok ∧ serves (ask 0x105 (beBytes 4 0x70000 ++ [0, 1, 0, 0])) (.regRead · 0) State.reset (fun y => status y == 0x2E) = true) ∧
    serves (ask 0x106 (beBytes 4 0x505 ++ [0, 1, 0, 0, 0, 0, 0, 1])) (.regWrite · 0) State.reset (fun y => status y == 0x22) = true ∧
    serves (ask 0x106 (beBytes 4 0x43000 ++ [0, 1, 0, 0, 0, 0, 0, 1])) (.regWrite · 0) State.reset (fun y => status y == 0 && (regWord y 0x43000).toNat == 1) = true ∧
    (wordKind State.reset 0x70000 true ≠ .ok ∧ serves (ask 0x106 (beBytes 4 0x70000 ++ [0, 1, 0, 0, 0, 0, 0, 1])) (.regWrite · 0) State.reset (fun y => status y == 0x2E) = true) ∧
    (spiReach State.reset = true ∧ spiReach (setRegWord 0x514 0x100 State.reset) = false ∧
      holds (exec (.spiRegRead 0x504 1 0) State.reset) (fun y => y.sent == [.spi [0, 0, 0, 1]]) = true ∧
      holds (exec (.spiRegRead 0x505 2 0) State.reset) (fun y => y.sent == [.spi (List.replicate 8 0)] && y.spiFlags == 4) = true ∧
      holds (exec (.spiRegWrite 0x505 [1] 0) State.reset) (fun y => y.spiFlags == 4) = true ∧
      holds (exec (.spiRegWrite 0x43000 [1] 0) State.reset) (fun y => (regWord y 0x43000).toNat == 1) = true) := by decide +kernel

/-! ### The groom's work and the frame boundary -/

/-- Job 0x1FF of session 5, with its work, in a phase. -/
def work17 (w : JobWork) (phase : Nat) (cancel : Bool) : JobRec := ⟨0x1FF, 0x402, 5, 0, phase, 0, 0, 0, 2, 0, 0, cancel, w⟩
def busy (w : JobWork) (s : State) : State := { s with jobs := [work17 w 1 false], frame := 9 }
/-- The job has ended in frame 9 as the arguments say, with its event. -/
def endedAs (state final detail result frame : Nat) (y : State) : Bool :=
  y.jobs.map (fun j => (j.state, j.final, j.detail, j.result, j.endFrame)) == [(state, final, detail, result, frame)] &&
    y.evtWait.contains ⟨0x52, frame, 0x1FF, final, some 5⟩
/-- Brew 14 with two register items, and a scene image of it in region 0. -/
def baked14 (st : BrewSt) : Brew := { brewFree with st := st, log := [.reg ⟨0x4100C, 5, 5⟩, .reg ⟨0x4100C, 0, 1⟩] }
def scene : List Byte := sceneImage State.reset { brewFree with log := [.reg ⟨0x41000, 1, 1⟩] }
def sceneAt (b : List Byte) : State := memPoke 0x5EFF00000 b (setBrew 14 (baked14 .open_) regioned)

theorem witness_GroomWorks_transfers :
    (groomServes { State.reset with mode := .off } = false ∧ groomServes State.reset = true) ∧
    holds (exec (.jobStep (.progress 0x1FF 300)) (busy (.copy 0 0 0) State.reset)) (fun y => y.jobs.map JobRec.progress == [255] && y.jobs.map JobRec.state == [0]) = true ∧
    (kernelFault ([0x80, 0, 0, 1] ++ List.replicate 68 0) = none ∧
      holds (exec (.jobStep (.finish 0x1FF)) (busy (.kernel 0x8000 ([0x80, 0, 0, 1] ++ List.replicate 68 0)) State.reset)) (fun y =>
        endedAs 1 0 0 0 9 y && y.kernels.map KernelObj.handle == [0x8000]) = true) ∧
    (kernelFault ([0x80, 0, 0, 1] ++ List.replicate 60 0 ++ [0xC0, 0, 0, 0, 0, 0, 0, 0]) = some (0, 1) ∧
      holds (exec (.jobStep (.finish 0x1FF)) (busy (.kernel 0x8000 ([0x80, 0, 0, 1] ++ List.replicate 60 0 ++ [0xC0, 0, 0, 0, 0, 0, 0, 0])) State.reset)) (fun y =>
        endedAs 2 0x43 0x1000000 0 9 y && y.kernels == []) = true) ∧
    holds (exec (.jobStep (.finish 0x1FF)) (busy (.load 14 0x5EFF00000) (sceneAt (List.replicate 64 0)))) (endedAs 2 0x5C 1 0 9) = true ∧
    holds (exec (.jobStep (.finish 0x1FF)) (busy (.load 14 0x5EFF00000) (sceneAt (scene.take 48 ++ List.replicate 16 0)))) (endedAs 2 0x5C 4 0 9) = true ∧
    holds (exec (.jobStep (.finish 0x1FF)) (busy (.load 14 0x5EFF00000) (sceneAt scene))) (fun y => endedAs 1 0 0 0 9 y &&
      (brewOf y 14).log.length == 3) = true ∧
    holds (exec (.jobStep (.finish 0x1FF)) (busy (.store 14 0x5EFF00000 52) (sceneAt []))) (fun y => endedAs 1 0 0 0 9 y &&
      memBytes y 0x5EFF00000 8 == [0x5A, 0x53, 0x43, 0x4E, 0, 1, 0, 0] && memByte y 0x5EFF0000B == 1) = true ∧
    holds (exec (.jobStep (.finish 0x1FF)) (busy (.store 14 0x5EFF00000 51) (sceneAt []))) (fun y => endedAs 2 0x27 51 0 9 y && y.mem == []) = true ∧
    holds (exec (.jobStep (.finish 0x1FF)) (busy (.copy 0x5EFF00000 0x5EFF00010 4) (sceneAt [1, 2, 3, 4]))) (fun y => endedAs 1 0 0 0 9 y &&
      memBytes y 0x5EFF00010 5 == [1, 2, 3, 4, 0]) = true ∧
    holds (exec (.jobStep (.flash 0x1FF true)) (busy (.flash 0x100 [7, 8]) State.reset)) (fun y => endedAs 1 0 0 0 9 y && y.power.flash.length == 2) = true ∧
    holds (exec (.jobStep (.flash 0x1FF false)) (busy (.flash 0x100 [7, 8]) State.reset)) (fun y => endedAs 2 0x66 0x100 0 9 y && y.power.flash == []) = true := by decide +kernel

/-- A compile of brew 14 in a phase, with the working graph `g` as its snapshot. -/
def compiling17 (g : Graph) (phase : Nat) : State :=
  { setBrew 14 { brewFree with st := .open_, jobBusy := [busyBy false 0x1FF] } State.reset with
    work := g, jobs := [work17 (.compile ⟨14, 100, false, g, [], 0, [], 0, none, [], g, none, none⟩) phase false], frame := 9, mode := .run }
/-- A graph whose kernel node names a kernel that is not there. -/
def lonely : Graph := ⟨[⟨3, 8, 0, 0x8000, 0, 0, 0, 0, 0, 0, 0, 0, 0⟩], [], []⟩
/-- An output whose final program is empty. -/
def finalOut : CompileOut := ⟨⟨[], [], [], []⟩, some ⟨[], [], [], []⟩, [], [], [], [], [], [], [], [], [], [], 0, [], []⟩

theorem witness_GroomWorks_brews :
    holds (exec (.jobStep (.cancelled 0x1FF)) { State.reset with jobs := [work17 (.copy 0 0 0) 1 true], frame := 9 }) (endedAs 3 2 0 0 9) = true ∧
    holds (exec (.jobStep (.cancelled 0x1FF)) { setBrew 14 { baked14 .baking with job := some 0x1FF } State.reset with
      jobs := [work17 (.tap 14) 2 true], frame := 9 }) (fun y => endedAs 3 2 0 noFrame 9 y && (brewOf y 14).st == .open_ && (brewOf y 14).log.length == 2) = true ∧
    holds (exec (.jobStep (.compile 0x1FF 300 false [] none)) (compiling17 lonely 0)) (fun y => y.jobs.map JobRec.phase == [1] && y.jobs.map JobRec.progress == [255] &&
      y.jobs.map JobRec.startFrame == [9]) = true ∧
    holds (exec (.jobStep (.compile 0x1FF 3 false [] none)) (compiling17 lonely 5)) (fun y => y.jobs.map JobRec.phase == [5] && y.jobs.map JobRec.progress == [3]) = true ∧
    (hasError (phaseDiags (compiling17 lonely 1) ⟨14, 100, false, lonely, [], 0, [], 0, none, [], lonely, none, none⟩ 1 []) = true ∧ holds (exec (.jobStep (.compile 0x1FF 0 true [] none)) (compiling17 lonely 1)) (fun y => y.jobs.map JobRec.state == [2] &&
      y.jobs.map JobRec.final == [0x42] && (brewOf y 14).out == none) = true) ∧
    (hasError (phaseDiags (compiling17 graphEmpty 5) ⟨14, 100, false, graphEmpty, [], 0, [], 0, none, [], graphEmpty, none, none⟩ 5 []) = false ∧
      holds (exec (.jobStep (.compile 0x1FF 0 true [] none)) (compiling17 graphEmpty 5)) (fun y => y.jobs.map JobRec.phase == [6] && y.jobs.map JobRec.state == [0]) = true) ∧
    (rangeWaits State.reset brewStoreBase (cellarEnd - brewStoreBase) = false ∧ badRecord (setBrew 14 (baked14 .baking) State.reset) 14 1 = none) ∧
    holds (exec (.jobStep (.bake 14 1)) (setBrew 14 { baked14 .baking with baking := true, log := List.replicate 300 (.reg ⟨0x41000, 1, 0⟩) } State.reset)) (fun y =>
      (brewOf y 14).baked == 256 && (brewOf y 14).st == .baking) = true ∧
    holds (exec (.jobStep (.bake 14 1)) (setBrew 14 (baked14 .armed) State.reset)) (fun y => decide (brewOf y 14 = baked14 .armed)) = true ∧
    holds (exec (.jobStep .direct) { State.reset with directWait := [⟨5, 100, 3, 1, 7⟩, ⟨5, 101, 3, 2, 8⟩] }) (fun y => y.directWait == [] &&
      (brewOf y 15).st == .baking && (brewOf y 15).log == [.param 3 1 7, .param 3 2 8]) = true ∧
    holds (exec (.jobStep .direct) State.reset) (fun y => decide (y = State.reset)) = true ∧
    holds (exec (.jobStep (.resync 14)) (setBrew 14 { baked14 .spilling with outcome := 2, eff := 77 } State.reset)) (fun y =>
      decide (brewOf y 14 = { brewFree with outcome := 2, eff := 77 })) = true ∧
    holds (exec (.jobStep (.resync 14)) (setBrew 14 (baked14 .open_) State.reset)) (fun y => decide (brewOf y 14 = baked14 .open_)) = true ∧
    holds (exec (.jobStep (.finals 14)) (setBrew 14 { baked14 .settling with out := some finalOut } State.reset)) (fun y => (brewOf y 14).finals) = true ∧
    holds (exec (.jobStep (.finals 14)) (setBrew 14 (baked14 .settling) State.reset)) (fun y => !(brewOf y 14).finals) = true := by decide +kernel

/-- What a boundary at raw time 20,833 brings. -/
def tick17 : BoundaryIn := ⟨20833, [], [], 700, true⟩
/-- A transition to a mode is due at frame 8. -/
def turning (target : Nat) : State := { State.reset with frame := 7, power := { State.reset.power with pend := [⟨target, 8, 5⟩] } }

theorem witness_FrameBoundaries_still :
    holds (exec (.frameBoundary tick17) { State.reset with mode := .standby }) (fun y => y.frame == 0 && y.mode == .standby) = true := by decide +kernel
theorem witness_FrameBoundaries_none :
    holds (exec (.frameBoundary tick17) { State.reset with frame := 7 }) (fun y => y.frame == 8 && y.tick == 20833 && y.mode == .configure && y.ledger.snapFrame == 8 &&
      fld y Fld.SUPPLY_STATUS_VBAK_LOW == 1) = true := by decide +kernel
theorem witness_FrameBoundaries_due :
    [3, 4].all (fun k => (turning k).power.boot == 0 && (turning k).mode == .configure && (turning k).power.pend.find? (fun p => decide (p.frame ≤ 8)) == some ⟨k, 8, 5⟩) = true := by
  decide +kernel
theorem witness_FrameBoundaries_configure :
    holds (exec (.frameBoundary tick17) { turning 2 with mode := .shadow }) (fun y => y.mode == .configure) = true ∧
    holds (exec (.frameBoundary tick17) { turning 2 with mode := .run }) (fun y => y.mode == .configure) = true := by decide +kernel
theorem witness_FrameBoundaries_safe : holds (exec (.frameBoundary tick17) (turning 5)) (fun y => y.frame == 8 && y.mode == .safe &&
    fld y Fld.MODE_STATUS_SAFE_CAUSE == 5) = true := by decide +kernel

end Sys2Proof.Tests
end

/-!
# The stall: pointers, rounding, calls

The statements PointerSteps, RoundingWords and CallsAndReturns. What the word of a stall puts in flight comes from `issueA_spec` and its consequences; here
stand what the pointer's step and the rounding compute, and what a control word makes of its stall.
-/

namespace Sys2Proof.Machine

/-! ### The pointer's step (R78) -/

/-- The bits of a wrapped number are those of the number. -/
theorem ofNat_wrapInt (w : Nat) (x : Int) : BitVec.ofNat w (wrapInt w x) = BitVec.ofInt w x := by
  have h : wrapInt w x = (BitVec.ofInt w x).toNat := by simp [wrapInt, BitVec.toNat_ofInt]
  rw [h, BitVec.ofNat_toNat, BitVec.setWidth_eq]

/-- The exponent of the base is the least power of two that holds the buffer. -/
theorem clog2_eq {l k : Nat} (hl : l < 2 ^ 20) (hk : l ≤ 2 ^ k) (hmin : ∀ j < k, 2 ^ j < l) : clog2 l = k := by
  have hk20 : k < 21 := Nat.lt_of_not_le fun hc => absurd (hmin 20 hc) (Nat.lt_asymm hl)
  have hfind : (List.range 21).find? (fun k => decide (l ≤ 2 ^ k)) = some k := by
    rw [List.find?_range_eq_some]
    refine ⟨by simpa using hk, by simpa using hk20, fun j hj => ?_⟩
    simpa using hmin j hj
  simp [clog2, hfind]

/-- An offset into a circular buffer of length `l`, brought back by `l` once (R78). -/
def broughtBack (l : Nat) (q : Int) : Int :=
  let q := if l ≤ q then q - l else q
  if q < 0 then q + l else q

/-- The circular step by the offset that is brought back. -/
theorem circStep_eq (p l : Nat) (m : Int) :
    circStep p l m = (let q := broughtBack l ((p : Int) - circBase p l + m)
      if q < 0 ∨ q ≥ l then (circBase p l, true) else ((circBase p l + q.toNat) % 2 ^ 20, false)) := rfl

theorem circStep_inside {p l : Nat} {m q : Int} (hq : broughtBack l ((p : Int) - circBase p l + m) = q) (h : 0 ≤ q ∧ q < l) :
    BitVec.ofNat 20 (circStep p l m).1 = BitVec.ofInt 20 (circBase p l + q) := by
  obtain ⟨n, rfl⟩ := Int.eq_ofNat_of_zero_le h.1
  rw [circStep_eq, hq]
  simp only [if_neg (show ¬ ((n : Int) < 0 ∨ (n : Int) ≥ l) by omega), Int.toNat_natCast]
  rw [← Int.natCast_add, BitVec.ofInt_natCast]
  exact BitVec.eq_of_toNat_eq (by simp)

theorem circStep_outside {p l : Nat} {m q : Int} (hq : broughtBack l ((p : Int) - circBase p l + m) = q) (h : q < 0 ∨ l ≤ q) :
    circStep p l m = (circBase p l, true) := by
  rw [circStep_eq, hq]
  exact if_pos h

/-- The base by the exponent, as an integer. -/
theorem circBase_eq {p l k : Nat} (hl : l < 2 ^ 20) (hk : l ≤ 2 ^ k) (hmin : ∀ j < k, 2 ^ j < l) :
    (circBase p l : Int) = (p : Int) - p % 2 ^ k := by
  rw [circBase, clog2_eq hl hk hmin, Int.ofNat_sub (Nat.mod_le _ _), Int.natCast_emod, Int.natCast_pow]
  rfl

/-! ### The pointer in a move (R78, R100) -/

/-- By how much a move post-modifies its pointer: an M register for AM 1, the immediate for AM 3 (Table 4.5). -/
def pointerStep (st : Stall) (g : MoveArgs) : Int :=
  if g.am = 1 then (mReg st (g.mofs.toNat / 2 ^ 10)).toInt else g.mofs.toInt

/-- What post-modification makes of the pointer of a move. -/
def pointerAfter (st : Stall) (g : MoveArgs) : Nat × Bool :=
  postModify (pReg st g.mp.toNat).toNat (lReg st g.mp.toNat).toNat (pointerStep st g)

/-- A move that post-modifies reads its pointer first. -/
theorem formAddr_postModifying (st : Stall) {g : MoveArgs} (ha : g.am = 1 ∨ g.am = 3) :
    formAddr st g = ⟨(pReg st g.mp.toNat).toNat, some (BitVec.ofNat 20 (pointerAfter st g).1), (pointerAfter st g).2⟩ := by
  rcases ha with ha | ha <;> simp [formAddr, pointerAfter, pointerStep, ha]

theorem movePtr_postModifying (st : Stall) {k : BitVec 4} {g : MoveArgs} (h0 : k ≠ 0) (h15 : k ≠ 15) (ha : g.am = 1 ∨ g.am = 3) :
    movePtr st ⟨k, g⟩ = ([(1, .p g.mp.toNat (BitVec.ofNat 20 (pointerAfter st g).1))], if (pointerAfter st g).2 then stkCirc else 0) := by
  have hk : ¬ (k.toNat = 0 ∨ k.toNat = 15) := by bv_omega
  simp only [movePtr, if_neg hk, formAddr_postModifying st ha]

/-- Each sticky bit of the move is set. -/
theorem issueA_moveSticky {u : Nat} {op : BitVec 6} {f : ArithF} {m : MoveF} {s : State} (hc : canIssue s u = true) (hl : wordALegal op f m = true)
    (i : Nat) (hi : i < 11) (hb : (moveOp (landDue u s) u (seen u s) m).sticky.testBit i = true) : Stuck u i (issueA u op f m s) := by
  obtain ⟨k, hk⟩ := (issueA_spec hc hl).2.2
  unfold Stuck
  rw [hk]
  simp [BitVec.getLsbD_ofNat, hb, hi]

/-- A word with a post-modifying move leaves the pointer's new value in flight and, where the step fails, CIRC_ERR set. -/
theorem issueA_pointer {u : Nat} {op : BitVec 6} {f : ArithF} {k : BitVec 4} {g : MoveArgs} {s : State} (hc : canIssue s u = true)
    (hl : wordALegal op f ⟨k, g⟩ = true) (h0 : k ≠ 0) (h15 : k ≠ 15) (ha : g.am = 1 ∨ g.am = 3) :
    Pends u 1 (.p g.mp.toNat (BitVec.ofNat 20 (pointerAfter (seen u s) g).1)) s (issueA u op f ⟨k, g⟩ s) ∧
    ((pointerAfter (seen u s) g).2 = true → Stuck u 6 (issueA u op f ⟨k, g⟩ s)) := by
  have hptr := movePtr_postModifying (seen u s) h0 h15 ha
  refine ⟨issueA_move (x := (1, _)) hc hl ?_, fun herr => issueA_moveSticky hc hl 6 (by decide) ?_⟩
  · simp [moveOp, hptr]
  · have hbit : stkCirc.testBit 6 = true := by decide
    simp [moveOp, hptr, herr, Nat.testBit_or, hbit]

/-- The moves of Table 4.4 with an address operand, each with its kind. -/
def addressMoves (st : StallId) (op : BitVec 6) (f : ArithF) (g : MoveArgs) : List (BitVec 4 × Instr) :=
  [(1, .ldS st op f g), (2, .stS st op f g), (3, .ldK st op f g), (4, .stK st op f g), (5, .ldH st op f g), (6, .stH st op f g),
   (7, .ldC st op f g), (8, .stC st op f g), (9, .ldA st op f g), (10, .stA st op f g), (11, .ldX st op f g), (12, .stX st op f g),
   (13, .ldSp st op f g), (14, .ldCp st op f g)]

/-- Each of them issues the format A word of its kind, which is neither "no move" nor MOV. -/
theorem exec_addressMove {st : StallId} {op : BitVec 6} {f : ArithF} {g : MoveArgs} {mi : BitVec 4 × Instr} (s : State)
    (h : mi ∈ addressMoves st op f g) :
    exec mi.2 s = .next (issueA st.val op f ⟨mi.1, g⟩ s) ∧ mi.1 ≠ 0 ∧ mi.1 ≠ 15 := by
  simp only [addressMoves, List.mem_cons, List.not_mem_nil, or_false] at h
  rcases h with rfl | rfl | rfl | rfl | rfl | rfl | rfl | rfl | rfl | rfl | rfl | rfl | rfl | rfl <;>
    exact ⟨rfl, by simp, by simp⟩

/-- Settles O59: the new pointer that every such move puts in flight is `pointerAfter`, which is the linear step for L = 0 and the circular step else. -/
theorem pointerSteps : Obligations.PointerSteps := by
  intro st op f g s hc ha v p l m moves
  refine ⟨by rw [formAddr_postModifying v ha], fun mi hmi hlegal => ?_⟩
  obtain ⟨hexec, h0, h15⟩ := exec_addressMove s hmi
  obtain ⟨hpend, hstuck⟩ := issueA_pointer hc hlegal h0 h15 ha
  have hafter : pointerAfter v g = postModify p l m := rfl
  rw [hafter] at hpend hstuck
  intro steps
  have hsteps : ∀ (q : Int) (P : State → Prop), BitVec.ofNat 20 (postModify p l m).1 = BitVec.ofInt 20 q →
      P (issueA st.val op f ⟨mi.1, g⟩ s) → steps q P := fun q P hq hP => ⟨_, hexec, hq ▸ hpend, hP⟩
  refine ⟨fun hl => hsteps _ _ ?_ trivial, ?_⟩
  · rw [postModify, if_pos hl, ofNat_wrapInt]
  · intro k hl hk hmin base q1 q2 q3
    have hbase : (circBase p l : Int) = base := circBase_eq (lReg v g.mp.toNat).isLt hk hmin
    have hpost : postModify p l m = circStep p l m := if_neg (Nat.ne_of_gt hl)
    have hq : broughtBack l ((p : Int) - circBase p l + m) = q3 := by rw [hbase]; rfl
    refine ⟨fun hin => hsteps _ _ ?_ trivial, fun hout => ?_⟩
    · rw [hpost, circStep_inside hq hin, hbase]
    · have hfail := hpost.trans (circStep_outside hq hout)
      refine hsteps _ _ ?_ (hstuck (by rw [hfail]))
      rw [hfail, ← hbase, BitVec.ofInt_natCast]

/-! ### Rounding (R64) -/

/-- Rounding leaves a remainder of at most half a step; at half a step the result is even. -/
theorem roundShift_nearest (x : Int) (k : Nat) :
    2 * (x - roundShift x k * 2 ^ k) ≤ 2 ^ k ∧ -(2 ^ k) ≤ 2 * (x - roundShift x k * 2 ^ k) ∧
    (2 * (x - roundShift x k * 2 ^ k) = 2 ^ k ∨ 2 * (x - roundShift x k * 2 ^ k) = -(2 ^ k) → roundShift x k % 2 = 0) := by
  have hb : (0 : Int) < 2 ^ k := Int.pow_pos (by decide)
  have hx := Int.ediv_mul_add_emod x (2 ^ k)
  have hr0 := Int.emod_nonneg x (Int.ne_of_gt hb)
  have hrb := Int.emod_lt_of_pos x hb
  have hsucc : (x / 2 ^ k + 1) * 2 ^ k = x / 2 ^ k * 2 ^ k + 2 ^ k := by rw [Int.add_mul, Int.one_mul]
  unfold roundShift
  generalize (2 : Int) ^ k = b at *
  dsimp only
  repeat' split
  all_goals omega

/-- A word whose arithmetic part converts the integer `x` for D register `k` writes it and all flags with latency 2. -/
theorem issueA_convRes {u k : Nat} {op : BitVec 6} {f : ArithF} {m : MoveF} {s : State} {x : Int} (hc : canIssue s u = true)
    (hl : wordALegal op f m = true) (hop : aluOp (landDue u s) u (seen u s) op f = convRes (seen u s) k x) :
    DWrites u 2 k true x s (issueA u op f m s) := by
  refine ⟨issueA_alu (x := (2, _)) hc hl ?_, fun ho => issueA_sticky hc hl 0 (by decide) ?_,
    fun _ => issueA_alu (x := (2, _)) hc hl ?_, fun h => absurd h (by decide)⟩
  · simp [hop, convRes, opWrites, satInt_eq]
  · simp [hop, convRes, opWrites, satInt_eq, ho, stkSat]
  · simp [hop, convRes, opWrites, satInt_eq, flagsAlways]

/-- Settles O10: the quotient is `roundShift` for RND and the quotient towards minus infinity for SAT. -/
theorem roundingWords : Obligations.RoundingWords := by
  intro st f m s hc v a
  refine ⟨fun hl => ⟨roundShift a 28, ?_⟩, fun hl => ⟨a / 2 ^ 28, ?_⟩⟩
  · obtain ⟨hle, hge, heven⟩ := roundShift_nearest a 28
    exact ⟨hle, hge, heven, _, rfl, issueA_convRes hc hl rfl⟩
  · have hb : (0 : Int) < 2 ^ 28 := by decide
    exact ⟨Int.ediv_mul_le a (Int.ne_of_gt hb), Int.lt_ediv_add_one_mul_self a hb, _, rfl, issueA_convRes hc hl rfl⟩

/-! ### What control words make of their stall (R70, R72) -/

/-- What each thing to do leaves unchanged stays unchanged over a list of them. -/
theorem forEach_keeps {α β : Type} (get : State → β) (l : List α) (f : α → State → State) (hf : ∀ a s, get (f a s) = get s) (s : State) :
    get (forEach l f s) = get s := by
  unfold forEach
  induction l generalizing s with
  | nil => rfl
  | cons a t ih => rw [List.foldl_cons, ih, hf]

@[simp] theorem countFld_units (f : RegField) (i : Nat) (s : State) : (countFld f i s).units = s.units := rfl

@[simp] theorem memWrite_units (a : Nat) (bs : List Byte) (s : State) : (memWrite a bs s).units = s.units := by
  unfold memWrite forwardWrite
  dsimp only
  repeat' split
  all_goals rfl

@[simp] theorem eccWrite_units (a : Nat) (bs : List Byte) (s : State) : (eccWrite a bs s).units = s.units := by
  unfold eccWrite
  dsimp only
  split
  · rw [memWrite_units]
  · rw [forEach_keeps State.units _ _ (fun w s => by split <;> exact countFld_units _ _ s)]
    exact forEach_keeps State.units _ _ (fun x s => by split <;> simp) _

/-- Landing writes change no unit record. -/
@[simp] theorem landDue_units (u : Nat) (s : State) : (landDue u s).units = s.units := by
  unfold landDue landTo landList
  dsimp only
  rw [forEach_keeps State.units _ _ (fun w s => by split <;> simp), setStall_units]

theorem unitOf_landDue (u v : Nat) (s : State) : unitOf (landDue u s) v = unitOf s v := by
  unfold unitOf; rw [landDue_units]

/-- A format B word that is legal where it stands runs on the landed state. -/
theorem issueB_legal {u : Nat} {legal : Stall → Bool} {s : State} (body : State → State) (hc : canIssue s u = true)
    (hl : legal (seen u s) = true) : issueB u legal body s = body (landDue u s) := by
  unfold seen at hl
  simp [issueB, hc, hl]

theorem Becomes.refl (u : Nat) (a : State) : Becomes u (stallOf a u) (unitOf a u) a a :=
  ⟨rfl, rfl, fun _ _ => ⟨rfl, rfl⟩, rfl⟩

/-- A write of the stall replaces what it has become. -/
theorem Becomes.setStall {u : Nat} {w : Stall} {r : UnitRec} {a t : State} (h : Becomes u w r a t) (x : Stall) :
    Becomes u x r a (setStall u x t) where
  stall := stallOf_setStall t u x
  unit := h.unit
  others v hv := ⟨(stallOf_setStall_ne t u v x hv).trans (h.others v hv).1, (h.others v hv).2⟩
  rest := h.rest

/-- What an issue counts depends on registers and mode alone, which are those from which the stall has come. -/
theorem Becomes.countIssue_eq {u : Nat} {w : Stall} {r : UnitRec} {a t : State} (h : Becomes u w r a t) (x : Stall) :
    countIssue t u x = countIssue a u x := by
  have hregs : t.regs = a.regs := by have := congrArg State.regs h.rest; exact this
  have hmode : t.mode = a.mode := by have := congrArg State.mode h.rest; exact this
  unfold countIssue haltAllowed arrayRuns fbit fld regWord
  rw [hregs, hmode]

/-- The stall `w` once a control word of it has issued in `a`: counted, with two delay slots before it goes to `dest` or falls through (R70). -/
def afterControl (a : State) (u : Nat) (w : Stall) (dest : Option PcAddr) : Stall :=
  { countIssue a u w with pc := w.pc + 1, delay := some ⟨2, dest⟩ }

theorem Becomes.finishControl {u : Nat} {w : Stall} {r : UnitRec} {a t : State} (h : Becomes u w r a t) (dest : Option PcAddr) :
    Becomes u (afterControl a u w dest) r a (finishControl u dest t) := by
  have hset : Machine.finishControl u dest t = Machine.setStall u (afterControl a u w dest) t := by
    rw [Machine.finishControl, h.stall, h.countIssue_eq]
    rfl
  rw [hset]
  exact h.setStall _

theorem Becomes.orSticky {u : Nat} {w : Stall} {r : UnitRec} {a t : State} (h : Becomes u w r a t) (k : Nat) :
    Becomes u { w with sticky := w.sticky ||| BitVec.ofNat 11 k } r a (orSticky u k t) := by
  have hset : Machine.orSticky u k t = Machine.setStall u { w with sticky := w.sticky ||| BitVec.ofNat 11 k } t := by
    rw [Machine.orSticky, h.stall]
  rw [hset]
  exact h.setStall _

/-- The landed state is where a word starts from: its stall is as the word sees it, its unit record is still that of `s`. -/
theorem becomes_landDue (u : Nat) (s : State) : Becomes u (seen u s) (unitOf s u) (landDue u s) (landDue u s) :=
  unitOf_landDue u u s ▸ Becomes.refl u (landDue u s)

/-! ### CALL and RET (R72) -/

section
variable {u : Nat} {cond : BitVec 4} {s : State} {b : Bool} (hc : canIssue s u = true) (hp : ctlPlace (seen u s) = true)
  (hb : condHolds (seen u s) cond.toNat = some b)
include hc hp hb

/-- CALL by its condition and the depth of the stack. -/
theorem ctlCall_eq (target : PcAddr) : ctlCall u cond target s =
    if b = true then
      if (seen u s).calls.length < 4 then
        finishControl u (some target) (setStall u { seen u s with calls := ((seen u s).pc + 3) :: (seen u s).calls } (landDue u s))
      else finishControl u none (orSticky u stkStack (landDue u s))
    else finishControl u none (landDue u s) := by
  rw [ctlCall, issueB_legal _ hc (by simp [hp, hb])]
  change (if condHolds (seen u s) cond.toNat = some true then _ else _) = _
  rw [hb]
  cases b <;> rfl

/-- RET by its condition and the stack. -/
theorem ctlRet_eq : ctlRet u cond s =
    if b = true then
      match (seen u s).calls with
      | a :: rest => finishControl u (some a) (setStall u { seen u s with calls := rest } (landDue u s))
      | [] => finishControl u none (orSticky u stkStack (landDue u s))
    else finishControl u none (landDue u s) := by
  rw [ctlRet, issueB_legal _ hc (by simp [hp, hb])]
  change (if condHolds (seen u s) cond.toNat = some true then _ else _) = _
  rw [hb]
  cases b <;> rfl
end

/-- A word that sees the stall `v` leaves its call stack `calls`, with STACK_ERR set or not. -/
def withCalls (v : Stall) (calls : List PcAddr) (err : Bool) : Stall :=
  { v with calls := calls, sticky := v.sticky ||| (if err then 8 else 0) }

theorem withCalls_no_error (v : Stall) (calls : List PcAddr) : withCalls v calls false = { v with calls := calls } :=
  sticky_or_zero { v with calls := calls }

/-- Settles O21: by the cases of `ctlCall_eq` and `ctlRet_eq`; in each the stall becomes `withCalls` and then `afterControl`. -/
theorem callsAndReturns : Obligations.CallsAndReturns := by
  intro st c target s hc hp u v becomes
  have hland := becomes_landDue u s
  have pushed : ∀ calls dest, becomes calls false dest (finishControl u dest (setStall u { v with calls := calls } (landDue u s))) :=
    fun calls dest => withCalls_no_error v calls ▸ (hland.setStall (withCalls v calls false)).finishControl dest
  have kept : becomes v.calls false none (finishControl u none (landDue u s)) := by
    have h := hland.finishControl none
    rw [show seen u s = withCalls v v.calls false from (withCalls_no_error v v.calls).symm] at h
    exact h
  have refused : becomes v.calls true none (finishControl u none (orSticky u stkStack (landDue u s))) :=
    (hland.orSticky stkStack).finishControl none
  refine ⟨fun hb hlen => ⟨_, rfl, ?_⟩, fun hb hlen => ⟨_, rfl, ?_⟩, fun hb => ⟨_, rfl, ?_⟩,
    fun a rest hb hcalls => ⟨_, rfl, ?_⟩, fun hb hcalls => ⟨_, rfl, ?_⟩, fun hb => ⟨_, rfl, ?_⟩⟩
  · rw [ctlCall_eq hc hp hb, if_pos rfl, if_pos hlen]
    exact pushed _ _
  · rw [ctlCall_eq hc hp hb, if_pos rfl, if_neg (Nat.not_lt.mpr hlen)]
    exact refused
  · rw [ctlCall_eq hc hp hb, if_neg Bool.false_ne_true]
    exact kept
  · rw [ctlRet_eq hc hp hb, if_pos rfl, hcalls]
    exact pushed _ _
  · rw [ctlRet_eq hc hp hb, if_pos rfl, hcalls]
    rw [hcalls] at refused
    exact refused
  · rw [ctlRet_eq hc hp hb, if_neg Bool.false_ne_true]
    exact kept

end Sys2Proof.Machine

/-!
# The stall after SYNC, and the wrap of its page

The statement NothingAfterSync (R106): a stall whose frame work has ended answers every word with the state as it was; SYNC of a frame that is not late ends
the frame work; a word in sequence is followed by the next one modulo the page.
-/

namespace Sys2Proof.Machine

/-! ### What the words of a stall do, by their format -/

/-- What a command that issues a word of stall `u` makes of the state, by the format of the word (R92). -/
inductive WordEffect (u : Nat) : (State → State) → Prop
  | formatA (op : BitVec 6) (f : ArithF) (m : MoveF) : WordEffect u (issueA u op f m)
  | formatB (legal : Stall → Bool) (body : State → State) : WordEffect u (issueB u legal body)
  | formatC (op : BitVec 6) (reg : BitVec 8) (imm : S48) : WordEffect u (issueC u op reg imm)
  | sync (t : Nat) : WordEffect u (ctlSync u t)
  | illegal (w : ProgWord) : WordEffect u (fun s => illegalWord u (rawWordLegal (stallOf s u) w) s)

/-- Every command that issues a word has the effect of one of the formats. -/
theorem exec_issuedWord {i : Instr} {u : Nat} {w : ProgWord} (h : issuedWord i = some (u, w)) :
    ∃ g, WordEffect u g ∧ ∀ s, exec i s = .next (g s) := by
  unfold issuedWord at h
  split at h
  all_goals cases h
  all_goals exact ⟨_, by constructor, fun _ => rfl⟩

/-- A stall whose frame work has ended issues nothing. -/
theorem canIssue_of_ended {s : State} {u : Nat} (h : (unitOf s u).st = .ended) : canIssue s u = false := by
  simp [canIssue, h]

/-- No word of a stall whose frame work has ended has an effect (R106). -/
theorem WordEffect.of_ended {u : Nat} {g : State → State} (hg : WordEffect u g) {s : State} (h : (unitOf s u).st = .ended) : g s = s := by
  have hc := canIssue_of_ended h
  cases hg with
  | formatA op f m => simp [issueA, hc]
  | formatB legal body => simp [issueB, hc]
  | formatC op reg imm => simp [issueC, hc]
  | sync t => simp [ctlSync, issueB, hc, h]
  | illegal w => simp [illegalWord, hc]

theorem exec_issuedWord_of_ended {i : Instr} {u : Nat} {w : ProgWord} {s : State} (hi : issuedWord i = some (u, w))
    (h : (unitOf s u).st = .ended) : exec i s = .next s := by
  obtain ⟨g, hg, hexec⟩ := exec_issuedWord hi
  rw [hexec, hg.of_ended h]

/-! ### What the end of a frame reads: the unit records and the frame index -/

/-- The unit records and the frame index, by which a stall's end is on time or late (R40). -/
def frameWork (s : State) : SMap UnitRec × Nat := (s.units, s.frame)

/-- What both branches keep, a case distinction keeps. -/
theorem frameWork_ite {c : Prop} [Decidable c] {a b s : State} (ha : frameWork a = frameWork s) (hb : frameWork b = frameWork s) :
    frameWork (if c then a else b) = frameWork s := by
  split
  · exact ha
  · exact hb

theorem frameWork_setFld (f : RegField) (i v : Nat) (s : State) : frameWork (setFld f i v s) = frameWork s := rfl

theorem frameWork_setBit (f : RegField) (i : Nat) (s : State) : frameWork (setBit f i s) = frameWork s := rfl

theorem frameWork_countFld (f : RegField) (i : Nat) (s : State) : frameWork (countFld f i s) = frameWork s := rfl

theorem frameWork_raise (code arg0 arg1 : Nat) (s : State) : frameWork (raise code arg0 arg1 s) = frameWork s := rfl

theorem frameWork_orSticky (u bits : Nat) (s : State) : frameWork (orSticky u bits s) = frameWork s := rfl

@[simp] theorem memWrite_frame (a : Nat) (bs : List Byte) (s : State) : (memWrite a bs s).frame = s.frame := by
  unfold memWrite forwardWrite
  dsimp only
  repeat' split
  all_goals rfl

theorem frameWork_memWrite (a : Nat) (bs : List Byte) (s : State) : frameWork (memWrite a bs s) = frameWork s :=
  Prod.ext (memWrite_units a bs s) (memWrite_frame a bs s)

theorem frameWork_eccWrite (a : Nat) (bs : List Byte) (s : State) : frameWork (eccWrite a bs s) = frameWork s := by
  unfold eccWrite
  dsimp only
  refine frameWork_ite (frameWork_memWrite a bs _) ?_
  rw [forEach_keeps frameWork _ _ (fun w s => by split <;> exact frameWork_countFld _ _ s)]
  refine forEach_keeps frameWork _ _ (fun x s => ?_) _
  split
  · rfl
  · exact frameWork_memWrite _ _ s

theorem frameWork_landTo (u i : Nat) (s : State) : frameWork (landTo u i s) = frameWork s := by
  refine (forEach_keeps frameWork _ _ (fun w s => ?_) _).trans rfl
  split
  · exact frameWork_eccWrite _ _ s
  · rfl

theorem frameWork_drain (u : Nat) (s : State) : frameWork (drain u s) = frameWork s := by
  rw [drain, frameWork_landTo, frameWork_landTo, frameWork_landTo, frameWork_landTo]

theorem frameWork_finishIssue (u : Nat) (s : State) : frameWork (finishIssue u s) = frameWork s := rfl

theorem frameWork_rampAdvance (u b : Nat) (s : State) : frameWork (rampAdvance u b s) = frameWork s := rfl

theorem frameWork_fadeAdvance (u b : Nat) (s : State) : frameWork (fadeAdvance u b s) = frameWork s := rfl

theorem frameWork_certCheck (u : Nat) (s : State) : frameWork (certCheck u s) = frameWork s := by
  unfold certCheck
  dsimp only
  split
  · rw [frameWork_raise, frameWork_setFld, frameWork_countFld, frameWork_setBit, frameWork_orSticky]
  · rfl

theorem frameWork_pairSync (u b : Nat) (s : State) : frameWork (pairSync u b s) = frameWork s := by
  have hsweep : frameWork (sweepCapture u b s) = frameWork s := frameWork_ite rfl rfl
  unfold pairSync cutCapture
  split
  · exact hsweep
  · exact frameWork_ite hsweep hsweep

/-! ### SYNC (R106) -/

/-- The end of the frame work of a stall that is not late: it waits for its release (R40, R58). -/
theorem stallEnded_onTime {u : Nat} {s : State} (h : s.frame ≤ (unitOf s u).frame) (t : Nat) (byAbort : Bool) :
    stallEnded u t byAbort s = recordEnd u t byAbort s :=
  if_neg fun hlate => Nat.not_lt.mpr h hlate.1

/-- A stall that can issue does not stand at the end of the override block (R437). -/
theorem not_atOvrEnd_of_canIssue {s : State} {u : Nat} (h : canIssue s u = true) : atOvrEnd s u = false := by
  simp only [canIssue, Bool.and_eq_true, Bool.not_eq_true'] at h
  obtain ⟨⟨_, hend⟩, _⟩ := h
  exact hend

/-- The state in which the SYNC of stall `u` ends its frame work: issued, landed, checked and captured. -/
def synced (u : Nat) (s : State) : State :=
  let a := landDue u s
  let b := (unitOf a u).frame
  pairSync u b (fadeAdvance u b (rampAdvance u b (certCheck u (drain u (finishIssue u a)))))

theorem ctlSync_eq {u : Nat} {s : State} (hc : canIssue s u = true) (hp : ctlPlace (seen u s) = true) (t : Nat) :
    ctlSync u t s = stallEnded u t false (synced u s) := by
  have hovr := not_atOvrEnd_of_canIssue hc
  rw [ctlSync, hovr, Bool.and_false, if_neg Bool.false_ne_true, issueB_legal _ hc hp]
  rfl

theorem frameWork_synced (u : Nat) (s : State) : frameWork (synced u s) = frameWork s :=
  calc frameWork (synced u s)
    _ = frameWork (certCheck u (drain u (finishIssue u (landDue u s)))) := by
      rw [synced, frameWork_pairSync, frameWork_fadeAdvance, frameWork_rampAdvance]
    _ = frameWork (finishIssue u (landDue u s)) := by rw [frameWork_certCheck, frameWork_drain]
    _ = frameWork s := by rw [frameWork_finishIssue, landDue, frameWork_landTo]

/-- SYNC of a frame that is not late ends the frame work of its stall. -/
theorem ctlSync_ended {u : Nat} {s : State} (hc : canIssue s u = true) (hp : ctlPlace (seen u s) = true)
    (hf : s.frame ≤ (unitOf s u).frame) (t : Nat) : (unitOf (ctlSync u t s) u).st = .ended := by
  obtain ⟨hunits, hframe⟩ := Prod.mk.inj (frameWork_synced u s)
  have hontime : (synced u s).frame ≤ (unitOf (synced u s) u).frame := by
    rw [hframe, unitOf, hunits]
    exact hf
  rw [ctlSync_eq hc hp, stallEnded_onTime hontime, recordEnd, unitOf_setUnit]

/-! ### The next word in sequence (R106) -/

/-- Where the control of stall `u` stands: its program counter, delay slots and loop. -/
def control (u : Nat) (s : State) : PcAddr × Option DelaySt × Option LoopSt :=
  ((stallOf s u).pc, (stallOf s u).delay, (stallOf s u).loop)

/-- A word that finishes outside delay slots and loops is followed by the next one. -/
theorem finishIssue_pc {u : Nat} {p : PcAddr} {s : State} (h : control u s = (p, none, none)) : (stallOf (finishIssue u s) u).pc = p + 1 := by
  obtain ⟨hpc, hrest⟩ := Prod.mk.inj h
  obtain ⟨hdelay, hloop⟩ := Prod.mk.inj hrest
  rw [stallOf_finishIssue, nextPc_plain (countIssue s u (stallOf s u)) hdelay hloop, ← hpc]
  rfl

theorem control_of_stalls {a b : State} (h : a.stalls = b.stalls) (u : Nat) : control u a = control u b := by
  unfold control
  rw [stallOf_eq h]

theorem control_orSticky (u k : Nat) (s : State) : control u (orSticky u k s) = control u s := by
  unfold control
  rw [orSticky_stall]

theorem control_moveOut (u : Nat) (o : Option (Nat × S48)) (s : State) : control u (moveOut u o s) = control u s := by
  obtain ⟨k, hk⟩ := moveOut_stall u o s
  unfold control
  rw [hk]

theorem control_enqueue (u : Nat) (w : Writes) (s : State) : control u (setStall u (enqueue (stallOf s u) w) s) = control u s := by
  unfold control
  rw [stallOf_setStall]
  rfl

section
variable {u : Nat} {p : PcAddr} {s : State} (hc : canIssue s u = true) (hs : control u (landDue u s) = (p, none, none))
include hc hs

/-- A legal format A word outside delay slots and loops is followed by the next one. -/
theorem issueA_pc {op : BitVec 6} {f : ArithF} {m : MoveF} (hl : wordALegal op f m = true) : (stallOf (issueA u op f m s) u).pc = p + 1 := by
  simp only [issueA, hc, hl, Bool.not_true, Bool.false_eq_true, if_false]
  refine finishIssue_pc ((control_moveOut u _ _).trans ?_)
  split
  · rw [control_of_stalls (countLate_stalls _ _ _), control_of_stalls (stallFault_stalls _ _), control_of_stalls (eccRead_stalls _ _),
      control_orSticky, control_enqueue, hs]
  · rw [control_of_stalls (eccRead_stalls _ _), control_orSticky, control_enqueue, hs]

/-- A legal format C word outside delay slots and loops is followed by the next one. -/
theorem issueC_pc {op : BitVec 6} {reg : BitVec 8} {imm : S48} (hl : wordCLegal op reg imm = true) :
    (stallOf (issueC u op reg imm s) u).pc = p + 1 := by
  simp only [issueC, hc, hl, Bool.not_true, Bool.false_eq_true, if_false]
  refine finishIssue_pc ?_
  rw [control_orSticky, control_enqueue, hs]
end

/-- Settles O60: SYNC ends the frame work by `ctlSync_ended`, words after it have no effect by `exec_issuedWord_of_ended`, and 8,191 + 1 is 0 in a program
counter of 13 bits. -/
theorem nothingAfterSync : Obligations.NothingAfterSync := by
  intro st s u
  refine ⟨fun raw hc hp hf => ?_, fun hended i w hi => exec_issuedWord_of_ended hi hended, fun op f g hc hpc hdelay hloop => ?_⟩
  · have hended := ctlSync_ended hc hp hf raw
    exact ⟨_, rfl, hended, fun i w hi => exec_issuedWord_of_ended hi hended⟩
  · have hs : control u (landDue u s) = (8191, none, none) := Prod.ext hpc (Prod.ext hdelay hloop)
    exact ⟨fun hl => ⟨_, rfl, issueA_pc hc hs hl⟩, fun hl => ⟨_, rfl, issueA_pc hc hs hl⟩, fun reg imm hl => ⟨_, rfl, issueC_pc hc hs hl⟩⟩

end Sys2Proof.Machine

/-!
# The steps of the block

The statements QueueKept, StepKeepsCanonical, StepRunsFront, IdleStep and ResetCanonical: every command answers with a next state, keeps the queue behind it and
the canonical form of the state's maps, and a step is the command at the front of the queue or nothing.
-/

namespace Sys2Proof.Machine

/-- The rules of Laws/Kept*.lean, one for each command, as one rule for every command. -/
theorem keptR_exec {q : List Instr} {s : State} (h : Kept q s) : ∀ i : Instr, KeptR q (exec i s)
  | .frameBoundary _ => kept_execFrameBoundary h
  | .hangAbort _ => kept_execHangAbort h
  | .fgFatalReset => kept_execFgFatalReset h
  | .avsWindowEnd => kept_execAvsWindowEnd h
  | .tapFloorEnd => kept_execTapFloorEnd h
  | .avsPmbusWrite _ => kept_execAvsPmbusWrite h
  | .nop _ _ _ => kept_execNop h
  | .mpy _ _ _ => kept_execMpy h
  | .mac _ _ _ => kept_execMac h
  | .msu _ _ _ => kept_execMsu h
  | .clr _ _ _ => kept_execClr h
  | .addda _ _ _ => kept_execAddda h
  | .rnd _ _ _ => kept_execRnd h
  | .sat _ _ _ => kept_execSat h
  | .mpyx _ _ _ => kept_execMpyx h
  | .macx _ _ _ => kept_execMacx h
  | .msux _ _ _ => kept_execMsux h
  | .macw _ _ _ => kept_execMacw h
  | .add _ _ _ => kept_execAdd h
  | .sub _ _ _ => kept_execSub h
  | .neg _ _ _ => kept_execNeg h
  | .abs _ _ _ => kept_execAbs h
  | .cmp _ _ _ => kept_execCmp h
  | .and _ _ _ => kept_execAnd h
  | .or _ _ _ => kept_execOr h
  | .xor _ _ _ => kept_execXor h
  | .shl _ _ _ => kept_execShl h
  | .shr _ _ _ => kept_execShr h
  | .shrl _ _ _ => kept_execShrl h
  | .shv _ _ _ => kept_execShv h
  | .ramp _ _ _ => kept_execRamp h
  | .lut _ _ _ => kept_execLut h
  | .maxi _ _ _ => kept_execMaxi h
  | .mini _ _ _ => kept_execMini h
  | .maxai _ _ _ => kept_execMaxai h
  | .ldS _ _ _ _ => kept_execLdS h
  | .stS _ _ _ _ => kept_execStS h
  | .ldK _ _ _ _ => kept_execLdK h
  | .stK _ _ _ _ => kept_execStK h
  | .ldH _ _ _ _ => kept_execLdH h
  | .stH _ _ _ _ => kept_execStH h
  | .ldC _ _ _ _ => kept_execLdC h
  | .stC _ _ _ _ => kept_execStC h
  | .ldA _ _ _ _ => kept_execLdA h
  | .stA _ _ _ _ => kept_execStA h
  | .ldX _ _ _ _ => kept_execLdX h
  | .stX _ _ _ _ => kept_execStX h
  | .ldSp _ _ _ _ => kept_execLdSp h
  | .ldCp _ _ _ _ => kept_execLdCp h
  | .mov _ _ _ _ => kept_execMov h
  | .br _ _ _ => kept_execBr h
  | .call _ _ _ => kept_execCall h
  | .ret _ _ => kept_execRet h
  | .repeat_ _ _ _ _ _ => kept_execRepeat h
  | .repeatIterationEnd _ => kept_execRepeatIterationEnd h
  | .rot _ => kept_execRot h
  | .wait _ _ => kept_execWait h
  | .waitComplete _ => kept_execWaitComplete h
  | .signal _ _ _ => kept_execSignal h
  | .flagPostArrival _ _ => kept_execFlagPostArrival h
  | .send _ _ _ _ => kept_execSend h
  | .sendComplete _ => kept_execSendComplete h
  | .exchangeArrival _ _ => kept_execExchangeArrival h
  | .recv _ _ _ => kept_execRecv h
  | .recvComplete _ => kept_execRecvComplete h
  | .sync _ _ => kept_execSync h
  | .ldi _ _ _ => kept_execLdi h
  | .addi _ _ _ => kept_execAddi h
  | .andi _ _ _ => kept_execAndi h
  | .ori _ _ _ => kept_execOri h
  | .xori _ _ _ => kept_execXori h
  | .cmpi _ _ _ => kept_execCmpi h
  | .illegalWord _ _ => kept_execIllegalWord h
  | .outputWriteLanding _ _ => kept_execOutputWriteLanding h
  | .stallAbort _ _ => kept_execStallAbort h
  | .controlEventTaken _ => kept_execControlEventTaken h
  | .heldPageWrite _ => kept_execHeldPageWrite h
  | .haltReq => kept_execHaltReq h
  | .step => kept_execStep h
  | .resume => kept_execResume h
  | .dbgRegDataAccess _ => kept_execDbgRegDataAccess h
  | .meterPeriodEnd _ _ _ => kept_execMeterPeriodEnd h
  | .inputSilence _ _ _ => kept_execInputSilence h
  | .move _ _ _ _ _ _ => kept_execMove h
  | .loop _ _ _ => kept_execLoop h
  | .droverWait _ _ _ => kept_execDroverWait h
  | .droverSignal _ _ _ => kept_execDroverSignal h
  | .droverEnd _ _ => kept_execDroverEnd h
  | .droverProgramEndFault _ _ _ _ _ _ => kept_execDroverProgramEndFault h
  | .droverProgramStart _ _ => kept_execDroverProgramStart h
  | .pacedBurstStart _ _ _ _ _ _ => kept_execPacedBurstStart h
  | .droverAbortTaken _ _ _ => kept_execDroverAbortTaken h
  | .chStart _ _ _ => kept_execChStart h
  | .crossbarGrant _ _ => kept_execCrossbarGrant h
  | .burstResponse _ _ _ => kept_execBurstResponse h
  | .xbTimeout _ _ => kept_execXbTimeout h
  | .bankOwnWrite _ _ => kept_execBankOwnWrite h
  | .scrubPassEnd => kept_execScrubPassEnd h
  | .retrainReq => kept_execRetrainReq h
  | .scheduledRetrain _ _ => kept_execScheduledRetrain h
  | .emergencyRetrain _ => kept_execEmergencyRetrain h
  | .retrainDone _ => kept_execRetrainDone h
  | .packetAdmission _ _ => kept_execPacketAdmission h
  | .echo _ => kept_execEcho h
  | .sessionOpen _ _ _ => kept_execSessionOpen h
  | .sessionClose _ _ => kept_execSessionClose h
  | .identify _ => kept_execIdentify h
  | .keyLoad _ => kept_execKeyLoad h
  | .keyClear _ => kept_execKeyClear h
  | .jobStatus _ => kept_execJobStatus h
  | .jobCancel _ => kept_execJobCancel h
  | .eventRead _ => kept_execEventRead h
  | .eventCfg _ => kept_execEventCfg h
  | .regRead _ _ => kept_execRegRead h
  | .regWrite _ _ => kept_execRegWrite h
  | .graphNode _ => kept_execGraphNode h
  | .graphEdge _ => kept_execGraphEdge h
  | .graphSegment _ => kept_execGraphSegment h
  | .graphDelete _ => kept_execGraphDelete h
  | .graphClear _ => kept_execGraphClear h
  | .kernelLoad _ _ => kept_execKernelLoad h
  | .kernelDelete _ => kept_execKernelDelete h
  | .compile _ _ => kept_execCompile h
  | .graphResult _ => kept_execGraphResult h
  | .paramWrite _ _ => kept_execParamWrite h
  | .paramRead _ => kept_execParamRead h
  | .meterRead _ => kept_execMeterRead h
  | .brewOpen _ _ => kept_execBrewOpen h
  | .brewWrite _ => kept_execBrewWrite h
  | .brewLoad _ _ => kept_execBrewLoad h
  | .brewStore _ _ => kept_execBrewStore h
  | .brewTap _ _ => kept_execBrewTap h
  | .brewSpill _ => kept_execBrewSpill h
  | .brewResolve _ => kept_execBrewResolve h
  | .brewStatus _ => kept_execBrewStatus h
  | .tapReport _ => kept_execTapReport h
  | .slackRead _ => kept_execSlackRead h
  | .fgReport _ => kept_execFgReport h
  | .ledgerRead _ => kept_execLedgerRead h
  | .cellarReserve _ => kept_execCellarReserve h
  | .cellarRelease _ => kept_execCellarRelease h
  | .cellarRead _ => kept_execCellarRead h
  | .cellarWrite _ => kept_execCellarWrite h
  | .cellarCopy _ _ => kept_execCellarCopy h
  | .portStart _ => kept_execPortStart h
  | .portStop _ => kept_execPortStop h
  | .portStatus _ => kept_execPortStatus h
  | .traceUp _ _ => kept_execTraceUp h
  | .traceDown _ => kept_execTraceDown h
  | .prbsRun _ => kept_execPrbsRun h
  | .prbsRead _ _ _ => kept_execPrbsRead h
  | .linkStatus _ => kept_execLinkStatus h
  | .fsSet _ => kept_execFsSet h
  | .refSelect _ => kept_execRefSelect h
  | .timeRead _ _ => kept_execTimeRead h
  | .timeAdjust _ _ => kept_execTimeAdjust h
  | .pulseSchedule _ _ => kept_execPulseSchedule h
  | .clkoutAlign _ => kept_execClkoutAlign h
  | .ampDiag _ _ => kept_execAmpDiag h
  | .ampDiagRead _ => kept_execAmpDiagRead h
  | .ampLimitSet _ => kept_execAmpLimitSet h
  | .ampFaultClear _ _ => kept_execAmpFaultClear h
  | .ampStatus _ _ => kept_execAmpStatus h
  | .teamForm _ _ => kept_execTeamForm h
  | .teamLeave _ => kept_execTeamLeave h
  | .shadowPair _ => kept_execShadowPair h
  | .switchover _ => kept_execSwitchover h
  | .teamStatus _ => kept_execTeamStatus h
  | .overrideSet _ => kept_execOverrideSet h
  | .overrideStatus _ => kept_execOverrideStatus h
  | .modeSet _ => kept_execModeSet h
  | .reset _ => kept_execReset h
  | .resetCause _ => kept_execResetCause h
  | .vaultRead _ => kept_execVaultRead h
  | .vaultWrite _ => kept_execVaultWrite h
  | .flashWrite _ _ => kept_execFlashWrite h
  | .flashRead _ _ => kept_execFlashRead h
  | .fwActivate _ _ => kept_execFwActivate h
  | .jobStep _ => kept_execJobStep h
  | .auditStep _ => kept_execAuditStep h
  | .eventLogWrite _ => kept_execEventLogWrite h
  | .sessionIdleTimeout _ _ => kept_execSessionIdleTimeout h
  | .jobRecordExpiry _ => kept_execJobRecordExpiry h
  | .cmdResend _ _ => kept_execCmdResend h
  | .spiWritePacket _ => kept_execSpiWritePacket h
  | .spiReadPacket _ => kept_execSpiReadPacket h
  | .spiReadStatus => kept_execSpiReadStatus h
  | .spiRegRead _ _ _ => kept_execSpiRegRead h
  | .spiRegWrite _ _ _ => kept_execSpiRegWrite h
  | .rqTailDoorbell _ _ => kept_execRqTailDoorbell h
  | .pcieRequestFetch _ _ _ _ => kept_execPcieRequestFetch h
  | .qpCtrlWrite _ _ => kept_execQpCtrlWrite h
  | .pcieFlr _ => kept_execPcieFlr h
  | .ethFrameRx _ _ _ _ => kept_execEthFrameRx h
  | .hoeFrameRx _ _ _ _ _ => kept_execHoeFrameRx h
  | .udpDatagramRx _ _ => kept_execUdpDatagramRx h
  | .arpRequestRx _ _ _ _ => kept_execArpRequestRx h
  | .arpCacheExpiry _ => kept_execArpCacheExpiry h
  | .ethLinkUp _ => kept_execEthLinkUp h
  | .laneLoss _ _ => kept_execLaneLoss h
  | .laneLock _ _ _ => kept_execLaneLock h
  | .laneReturn _ _ => kept_execLaneReturn h
  | .frameMarkerRx _ _ _ => kept_execFrameMarkerRx h
  | .syncTimeout _ => kept_execSyncTimeout h
  | .traceUpTimeout _ => kept_execTraceUpTimeout h
  | .traceReinit _ _ => kept_execTraceReinit h
  | .regionTx _ => kept_execRegionTx h
  | .regionRx _ _ _ _ _ => kept_execRegionRx h
  | .elasticSlip _ _ => kept_execElasticSlip h
  | .packetTx _ _ _ => kept_execPacketTx h
  | .dataPacketRx _ _ _ _ => kept_execDataPacketRx h
  | .train _ _ _ _ => kept_execTrain h
  | .ack _ _ => kept_execAck h
  | .nak _ _ => kept_execNak h
  | .credit _ _ => kept_execCredit h
  | .restripe _ _ _ => kept_execRestripe h
  | .replayTimer _ _ => kept_execReplayTimer h
  | .ackTimer _ => kept_execAckTimer h
  | .prbsLock _ => kept_execPrbsLock h
  | .announce => kept_execAnnounce h
  | .announcePeriod => kept_execAnnouncePeriod h
  | .memberLoss _ => kept_execMemberLoss h
  | .team => kept_execTeam h
  | .teamAck => kept_execTeamAck h
  | .pairRequest _ => kept_execPairRequest h
  | .pairAccept => kept_execPairAccept h
  | .pairRefuse => kept_execPairRefuse h
  | .pairSwitch => kept_execPairSwitch h
  | .pairSwitchDone => kept_execPairSwitchDone h
  | .streamList => kept_execStreamList h
  | .acquireData => kept_execAcquireData h
  | .acquireRegisters => kept_execAcquireRegisters h
  | .cutEnd _ => kept_execCutEnd h
  | .cutWaitExpiry _ => kept_execCutWaitExpiry h
  | .pairSenseLow _ => kept_execPairSenseLow h
  | .takeover => kept_execTakeover h
  | .commandedSwitchover => kept_execCommandedSwitchover h
  | .pairSenseHigh => kept_execPairSenseHigh h
  | .standbyRecordLoss => kept_execStandbyRecordLoss h
  | .externalFrameStart _ _ _ => kept_execExternalFrameStart h
  | .portClockLoss _ => kept_execPortClockLoss h
  | .portCfgWrite _ _ => kept_execPortCfgWrite h
  | .refInvalid _ => kept_execRefInvalid h
  | .refQualified _ => kept_execRefQualified h
  | .dpllLock _ _ _ => kept_execDpllLock h
  | .holdoverHistorySample _ => kept_execHoldoverHistorySample h
  | .ptpSync => kept_execPtpSync h
  | .followUp => kept_execFollowUp h
  | .delayReq => kept_execDelayReq h
  | .delayResp => kept_execDelayResp h
  | .pdelayReq => kept_execPdelayReq h
  | .pdelayResp => kept_execPdelayResp h
  | .pdelayRespFollowUp => kept_execPdelayRespFollowUp h
  | .ptpAnnounce => kept_execPtpAnnounce h
  | .announceReceiptTimeout _ _ => kept_execAnnounceReceiptTimeout h
  | .syncInterval _ _ _ => kept_execSyncInterval h
  | .announceInterval _ _ => kept_execAnnounceInterval h
  | .delayReqInterval _ _ _ => kept_execDelayReqInterval h
  | .frameMap _ => kept_execFrameMap h
  | .scheduledPulse _ _ => kept_execScheduledPulse h
  | .timeSnap _ _ => kept_execTimeSnap h
  | .bkSecHiWrite _ _ => kept_execBkSecHiWrite h
  | .ampSilence _ => kept_execAmpSilence h
  | .groupPowerDown _ => kept_execGroupPowerDown h
  | .ampWake _ => kept_execAmpWake h
  | .wakeSettleEnd _ => kept_execWakeSettleEnd h
  | .ampRelease => kept_execAmpRelease h
  | .carrierLock _ _ => kept_execCarrierLock h
  | .cleanStop => kept_execCleanStop h
  | .muteRampEnd _ => kept_execMuteRampEnd h
  | .enableLowDelay => kept_execEnableLowDelay h
  | .driverFault _ => kept_execDriverFault h
  | .currentLimit _ => kept_execCurrentLimit h
  | .shortFault _ => kept_execShortFault h
  | .dcFault _ => kept_execDcFault h
  | .loopFault _ _ => kept_execLoopFault h
  | .energyBlock _ => kept_execEnergyBlock h
  | .energyCutHoldEnd _ => kept_execEnergyCutHoldEnd h
  | .ampTestStep _ _ _ _ => kept_execAmpTestStep h
  | .limitRegisterWrite _ _ _ => kept_execLimitRegisterWrite h
  | .ovrInput _ _ => kept_execOvrInput h
  | .offHoldExpiry _ => kept_execOffHoldExpiry h
  | .ovrUnlatch _ => kept_execOvrUnlatch h
  | .prepare _ => kept_execPrepare h
  | .ready _ => kept_execReady h
  | .refuse _ => kept_execRefuse h
  | .commit _ => kept_execCommit h
  | .abort _ => kept_execAbort h
  | .query _ => kept_execQuery h
  | .outcome _ => kept_execOutcome h
  | .tapDone _ => kept_execDone h
  | .tapDecision _ => kept_execTapDecision h
  | .queryTimer _ => kept_execQueryTimer h
  | .queryPeers _ => kept_execQueryPeers h
  | .groupCloseTimeout _ => kept_execGroupCloseTimeout h
  | .settleTapArm _ => kept_execSettleTapArm h
  | .memberTimeout _ => kept_execMemberTimeout h
  | .vaonLoss => kept_execVaonLoss h
  | .vaonReturn _ _ => kept_execVaonReturn h
  | .vbakLoss => kept_execVbakLoss h
  | .wakenPin => kept_execWakenPin h
  | .spiWake => kept_execSpiWake h
  | .laneSignalWake _ => kept_execLaneSignalWake h
  | .bkAlarmMatch _ => kept_execBkAlarmMatch h
  | .pwrGapEnd => kept_execPwrGapEnd h
  | .pwrGood => kept_execPwrGood h
  | .pgoodTimeout => kept_execPgoodTimeout h
  | .pwrGoodLoss => kept_execPwrGoodLoss h
  | .zeroCross _ => kept_execZeroCross h
  | .missingHalfCycle => kept_execMissingHalfCycle h
  | .shutdownDelayEnd => kept_execShutdownDelayEnd h
  | .thermalWarn _ => kept_execThermalWarn h
  | .thermalTrip => kept_execThermalTrip h
  | .thermalTripRelease => kept_execThermalTripRelease h
  | .supplyMonitorTrip => kept_execSupplyMonitorTrip h
  | .resetnPin _ _ _ => kept_execResetnPin h
  | .wdogExpiry => kept_execWdogExpiry h
  | .critErr _ => kept_execCritErr h
  | .resetStart _ _ => kept_execResetStart h
  | .optionLoading _ _ => kept_execOptionLoading h
  | .releaseStep _ _ => kept_execReleaseStep h
  | .bootDataWrite _ => kept_execBootDataWrite h
  | .bootGo _ => kept_execBootGo h
  | .blockResetRelease _ => kept_execBlockResetRelease h
  | .slackClr => kept_execSlackClr h
  | .rdReset => kept_execRdReset h
  | .fgReportDataRead => kept_execFgReportDataRead h
  | .evtRdIndexWrite _ => kept_execEvtRdIndexWrite h
  | .evtDataRead => kept_execEvtDataRead h
  | .latchingRead _ _ => kept_execLatchingRead h
  | .registerWrite _ _ _ _ => kept_execRegisterWrite h
  | .commandReplyRx _ => kept_execCommandReplyRx h
  | .teamFormTimeout _ => kept_execTeamFormTimeout h
  | .cellarDriftRetrain _ => kept_execCellarDriftRetrain h
  | .dpllLockLoss _ _ => kept_execDpllLockLoss h
  | .refValid _ _ => kept_execRefValid h
  | .firmwareStart _ _ => kept_execFirmwareStart h
  | .teamSubgraphRx _ _ _ _ => kept_execTeamSubgraphRx h
  | .memberCompileReport _ _ _ => kept_execMemberCompileReport h
  | .compileWithdraw _ => kept_execCompileWithdraw h

/-- No command stops the block or is refused (R4). -/
theorem exec_answers (i : Instr) (s : State) : Answers i s := by
  cases i <;> exact ⟨_, rfl⟩

/-- A canonical state keeps its own queue. -/
theorem Canonical.kept {s : State} (h : Canonical s) : Kept s.pending s := ⟨rfl, h.mem, h.regs, h.stalls, h.units⟩

theorem Kept.canonical {q : List Instr} {s : State} (h : Kept q s) : Canonical s := ⟨h.mem, h.regs, h.stalls, h.units⟩

/-- Settles O3: every command answers, and what it answers is kept. -/
theorem queueKept : Obligations.QueueKept := by
  intro c s hs
  obtain ⟨t, ht⟩ := exec_answers c s
  exact ⟨t, ht, (keptR_exec hs.kept c t ht).queue⟩

/-- Settles O1, by the definition of a step. -/
theorem stepRunsFront : Obligations.StepRunsFront := by
  intro c rest s hp
  rw [step, hp]

/-- Settles O2, by the definition of a step. -/
theorem idleStep : Obligations.IdleStep := by
  intro s hp
  rw [step, hp]

/-- Settles O4: with an empty queue nothing changes; else the command at the front keeps the canonical form of the state without it. -/
theorem stepKeepsCanonical : Obligations.StepKeepsCanonical := by
  intro s t hs hstep
  cases hp : s.pending with
  | nil =>
    rw [idleStep s hp] at hstep
    cases hstep
    exact hs
  | cons c rest =>
    rw [stepRunsFront c rest s hp] at hstep
    have hfront : Kept rest { s with pending := rest } := ⟨rfl, hs.mem, hs.regs, hs.stalls, hs.units⟩
    exact (keptR_exec hfront c t hstep).canonical

/-- Settles O5, by evaluation of the reset state's maps. -/
theorem resetCanonical : Obligations.ResetCanonical where
  mem := rfl
  regs := by decide +kernel
  stalls := rfl
  units := rfl

end Sys2Proof.Machine

/-!
# The words of a stall

The statements StallWordsAgree, StallWordsRead (R92, R94, R102, R107) and ResetLeaves: an instruction's word is the row of its fields, so each field reads back
from its place, and the fields of a word in a row are the word.
-/

namespace Sys2Proof.Machine

/-! ### Decoding what is encoded -/

/-- A field of two parts in a row lies in the low part or in the high part. -/
theorem extractLsb'_row (v n lo k : Nat) (x : BitVec v) (y : BitVec n) (h : lo + k ≤ n ∨ n ≤ lo) :
    (x ++ y).extractLsb' lo k = if n ≤ lo then x.extractLsb' (lo - n) k else y.extractLsb' lo k := by
  split
  · rename_i hlo
    exact BitVec.extractLsb'_append_eq_of_le hlo
  · rename_i hlo
    exact BitVec.extractLsb'_append_eq_of_add_le (h.resolve_right hlo)

theorem decide_bit1_eq_one (b : Bool) : decide (bit1 b = 1#1) = b := by cases b <;> rfl

/-- An instruction decodes from its own word. The widths are those of the parts before and after each cut of the row (Tables 4.2, 4.6, 4.8). -/
theorem decode_encode (i : StallInstr) : decodeStallWord (encodeStallWord i) = some i := by
  cases i with
  | fmtA op f m =>
    simp (disch := decide) [-BitVec.extractLsb'_toNat, decodeStallWord, encodeStallWord, wfield, decide_bit1_eq_one, extractLsb'_row 50 14,
      extractLsb'_row 48 2, extractLsb'_row 44 4, extractLsb'_row 36 8, extractLsb'_row 32 4, extractLsb'_row 27 5, extractLsb'_row 26 1,
      extractLsb'_row 20 6, extractLsb'_row 14 6, extractLsb'_row 8 6, extractLsb'_row 2 6]
  | br c t | call c t =>
    simp (disch := decide) [-BitVec.extractLsb'_toNat, decodeStallWord, encodeStallWord, wfield, extractLsb'_row 51 13, extractLsb'_row 12 39,
      extractLsb'_row 8 4]
  | ret c =>
    simp (disch := decide) [-BitVec.extractLsb'_toNat, decodeStallWord, encodeStallWord, wfield, extractLsb'_row 12 52, extractLsb'_row 8 4]
  | repeat_ r d n c =>
    simp (disch := decide) [-BitVec.extractLsb'_toNat, decodeStallWord, encodeStallWord, wfield, decide_bit1_eq_one, extractLsb'_row 47 17,
      extractLsb'_row 24 23, extractLsb'_row 15 9, extractLsb'_row 14 1, extractLsb'_row 13 1]
  | rot | sync => rfl
  | wait fl => simp (disch := decide) [-BitVec.extractLsb'_toNat, decodeStallWord, encodeStallWord, wfield, extractLsb'_row 60 4]
  | signal u fl =>
    simp (disch := decide) [-BitVec.extractLsb'_toNat, decodeStallWord, encodeStallWord, wfield, extractLsb'_row 60 4, extractLsb'_row 48 12,
      extractLsb'_row 37 11]
  | send u sl d =>
    simp (disch := decide) [-BitVec.extractLsb'_toNat, decodeStallWord, encodeStallWord, wfield, extractLsb'_row 58 6, extractLsb'_row 56 2,
      extractLsb'_row 52 4, extractLsb'_row 48 4, extractLsb'_row 37 11]
  | recv sl d =>
    simp (disch := decide) [-BitVec.extractLsb'_toNat, decodeStallWord, encodeStallWord, wfield, extractLsb'_row 58 6, extractLsb'_row 56 2,
      extractLsb'_row 52 4]
  | fmtC op r v =>
    simp (disch := decide) [-BitVec.extractLsb'_toNat, decodeStallWord, encodeStallWord, wfield, extractLsb'_row 16 48, extractLsb'_row 8 8,
      extractLsb'_row 2 6]

/-! ### Encoding what is decoded -/

theorem wfield_whole (w : ProgWord) : wfield w 0 64 = w := BitVec.extractLsb'_eq_self

/-- Two fields side by side are one field. -/
theorem wfield_append (w : ProgWord) {hi lo m n : Nat} (h : hi = lo + n) : wfield w hi m ++ wfield w lo n = wfield w lo (m + n) :=
  BitVec.extractLsb'_append_extractLsb'_eq_extractLsb' h

theorem bit1_decide_eq_one (x : BitVec 1) : bit1 (decide (x = 1)) = x := by
  rcases BitVec.eq_zero_or_eq_one x with rfl | rfl <;> rfl

/-- A field of a known number is that number. -/
theorem eq_wfield_of_toNat {w : ProgWord} {lo n k : Nat} (h : (wfield w lo n).toNat = k) : BitVec.ofNat n k = wfield w lo n :=
  BitVec.eq_of_toNat_eq (by rw [h, BitVec.toNat_ofNat, ← h, Nat.mod_eq_of_lt (wfield w lo n).isLt])

theorem wfield_eq_zero {w : ProgWord} {lo n : Nat} : wfield w lo n = 0 ↔ 0#n = wfield w lo n := eq_comm

/-- A word that decodes is the word of what it decodes to: the fixed fields of the row are those of the word, and the row of its fields is the word. -/
theorem encode_of_decode {w : ProgWord} {i : StallInstr} (h : decodeStallWord w = some i) : encodeStallWord i = w := by
  unfold decodeStallWord at h
  split at h
  next hfmt =>
    cases h
    rw [encodeStallWord, eq_wfield_of_toNat hfmt]
    simp (disch := rfl) only [bit1_decide_eq_one, wfield_append]
    exact wfield_whole w
  next hfmt =>
    split at h
    case h_11 => cases h
    all_goals
      rename_i hop
      split at h
      case isFalse => cases h
      rename_i hz
      cases h
      simp only [wfield_eq_zero] at hz
      simp (disch := rfl) only [encodeStallWord, eq_wfield_of_toNat hfmt, eq_wfield_of_toNat hop, hz, bit1_decide_eq_one, wfield_append]
      exact wfield_whole w
  next hfmt =>
    cases h
    rw [encodeStallWord, eq_wfield_of_toNat hfmt]
    simp (disch := rfl) only [wfield_append]
    exact wfield_whole w
  next => cases h

/-- Settles O7, in both directions. -/
theorem stallWordsAgree : Obligations.StallWordsAgree := ⟨decode_encode, fun _ _ => encode_of_decode⟩

/-- Settles O8, by decoding the words. -/
theorem stallWordsRead : Obligations.StallWordsRead := by
  unfold Obligations.StallWordsRead
  decide

/-- Settles O6: every map of the reset state but that of its registers is empty. -/
theorem resetLeaves : Obligations.ResetLeaves := by
  refine ⟨rfl, rfl, ?_, ?_, ?_, ?_, fun _ => rfl, fun _ _ => ⟨rfl, rfl, rfl, rfl, rfl, rfl, rfl, rfl, rfl⟩, fun _ => ⟨rfl, rfl, rfl, rfl, rfl⟩⟩ <;>
    decide +kernel

end Sys2Proof.Machine

/-!
# The arithmetic of the stall's words

The statements AccumulatorWords, AuxiliaryWords, SaturatingWords, LogicalWords, TableWords and ImmediateWords (R63–R66, R95, R96, R107, R110–R112). Each word puts
the writes of its operation in flight (`issueA_alu`, `issueC_imm`); here stands what the operations compute, and which writes the results of a class make.
-/

namespace Sys2Proof.Machine

/-! ### Limits -/

/-- A number that fits is its own limit. -/
theorem clamp_of_fits {w : Nat} {x : Int} (hlo : -(2 ^ (w - 1)) ≤ x) (hhi : x < 2 ^ (w - 1)) : clamp w x = x := by
  unfold clamp
  generalize (2 : Int) ^ (w - 1) = b at *
  omega

theorem overflows_of_fits {w : Nat} {x : Int} (hlo : -(2 ^ (w - 1)) ≤ x) (hhi : x < 2 ^ (w - 1)) : overflows w x = false := by
  unfold overflows
  generalize (2 : Int) ^ (w - 1) = b at *
  rw [decide_eq_false_iff_not]
  omega

@[simp] theorem clamp_toInt {w : Nat} (x : BitVec w) : clamp w x.toInt = x.toInt := clamp_of_fits (BitVec.le_toInt x) BitVec.toInt_lt

@[simp] theorem overflows_toInt {w : Nat} (x : BitVec w) : overflows w x.toInt = false := overflows_of_fits (BitVec.le_toInt x) BitVec.toInt_lt

/-! ### The writes of a result, by its class -/

/-- A word whose arithmetic part makes the writes and sets the sticky bits of an accumulation accumulates. -/
theorem issueA_accWrites {u i : Nat} {op : BitVec 6} {f : ArithF} {m : MoveF} {s : State} {x : Int} (hc : canIssue s u = true)
    (hl : wordALegal op f m = true) (hw : (accRes i x).writes ⊆ (aluOp (landDue u s) u (seen u s) op f).writes)
    (hk : (accRes i x).sticky.testBit 1 = true → (aluOp (landDue u s) u (seen u s) op f).sticky.testBit 1 = true) :
    AccWrites u i x s (issueA u op f m s) := by
  refine ⟨issueA_alu (x := (3, _)) hc hl (hw ?_), fun ho => ⟨issueA_alu (x := (3, _)) hc hl (hw ?_), issueA_sticky hc hl 1 (by decide) (hk ?_)⟩⟩
  · simp [accRes, opWrites, satInt_eq]
  · simp [accRes, opWrites, satInt_eq, flagsSat, ho]
  · simp [accRes, opWrites, satInt_eq, ho, stkAov, Nat.testBit]

/-- The same for the auxiliary accumulators. -/
theorem issueA_auxWrites {u i : Nat} {op : BitVec 6} {f : ArithF} {m : MoveF} {s : State} {x : Int} (hc : canIssue s u = true)
    (hl : wordALegal op f m = true) (hw : (auxRes i x).writes ⊆ (aluOp (landDue u s) u (seen u s) op f).writes)
    (hk : (auxRes i x).sticky.testBit 1 = true → (aluOp (landDue u s) u (seen u s) op f).sticky.testBit 1 = true) :
    AuxWrites u i x s (issueA u op f m s) := by
  refine ⟨issueA_alu (x := (2, _)) hc hl (hw ?_), fun ho => ⟨issueA_alu (x := (2, _)) hc hl (hw ?_), issueA_sticky hc hl 1 (by decide) (hk ?_)⟩⟩
  · simp [auxRes, opWrites, satInt_eq]
  · simp [auxRes, opWrites, satInt_eq, flagsSat, ho]
  · simp [auxRes, opWrites, satInt_eq, ho, stkAov, Nat.testBit]

/-- A word whose arithmetic part writes a limited result to D register `k`, with the flags of SF, writes it. -/
theorem issueA_dWrites {u k lat : Nat} {op : BitVec 6} {f : ArithF} {m : MoveF} {s : State} {x : Int} (hc : canIssue s u = true)
    (hl : wordALegal op f m = true)
    (hw : (aluOp (landDue u s) u (seen u s) op f).writes =
      (lat, .d (physD (seen u s).rb k) (BitVec.ofInt 48 (clamp 48 x))) :: flagsSF lat f.sf (overflows 48 x) (clamp 48 x))
    (hk : overflows 48 x = true → (aluOp (landDue u s) u (seen u s) op f).sticky.testBit 0 = true) :
    DWrites u lat k f.sf x s (issueA u op f m s) := by
  refine ⟨issueA_alu (x := (lat, _)) hc hl ?_, fun ho => issueA_sticky hc hl 0 (by decide) (hk ho), fun hsf => issueA_alu (x := (lat, _)) hc hl ?_,
    fun hsf ho => issueA_alu (x := (lat, _)) hc hl ?_⟩
  · simp [hw]
  · simp [hw, flagsSF, hsf]
  · simp [hw, flagsSF, hsf, flagsSat, ho]

/-- A word whose operation is a saturating D result writes it. -/
theorem issueA_dRes {u : Nat} {op : BitVec 6} {f : ArithF} {m : MoveF} {s : State} {x : Int} (hc : canIssue s u = true)
    (hl : wordALegal op f m = true) (hop : aluOp (landDue u s) u (seen u s) op f = dRes (seen u s) f x) :
    DWrites u 1 f.fd.toNat f.sf x s (issueA u op f m s) := by
  refine issueA_dWrites hc hl ?_ fun ho => ?_
  · rw [hop, dRes, satInt_eq]
    rfl
  · simp [hop, dRes, opWrites, satInt_eq, ho, stkSat]

/-- A result that is a register's value is a saturating one that does not saturate. -/
theorem dResBits_eq_dRes (st : Stall) (f : ArithF) (x : S48) : dResBits st f x = dRes st f x.toInt := by
  simp [dResBits, dRes, satInt_eq]

/-! ### The operations of R63 and R66 -/

/-- Settles O9: each word's operation is an accumulation, or the write of zero. -/
theorem accumulatorWords : Obligations.AccumulatorWords := by
  intro st f m s hc v p
  refine ⟨fun hl => ⟨_, rfl, ?_⟩, fun hl => ⟨_, rfl, ?_⟩, fun hl => ⟨_, rfl, ?_⟩, fun hl => ⟨_, rfl, ?_⟩, fun hl => ⟨_, rfl, ?_⟩⟩
  · exact issueA_accWrites hc hl (List.Subset.refl _) id
  · exact issueA_accWrites hc hl (List.Subset.refl _) id
  · exact issueA_accWrites hc hl (List.Subset.refl _) id
  · exact issueA_alu (x := (3, _)) hc hl (List.mem_singleton.mpr rfl)
  · exact issueA_accWrites hc hl (List.Subset.refl _) id

/-- The low bits of a register read as signed. -/
theorem signOf_toNat {w : Nat} (k : Nat) (hk : 0 < k) (x : BitVec w) : signOf k x.toNat = (x.setWidth k).toInt := by
  have hp : 2 ^ k = 2 * 2 ^ (k - 1) := by rw [← Nat.pow_succ', Nat.succ_eq_add_one, Nat.sub_add_cancel hk]
  unfold signOf
  rw [BitVec.toInt_eq_toNat_cond, BitVec.toNat_setWidth]
  generalize x.toNat % 2 ^ k = n
  split <;> split <;> first | (exfalso; omega) | simp

theorem prodX_eq (st : Stall) (i j : Nat) : prodX st i j = ((dReg st i).setWidth 16).toInt * ((dReg st j).setWidth 16).toInt := by
  rw [prodX, signOf_toNat 16 (by decide), signOf_toNat 16 (by decide)]

/-- Settles O11: the products of MPYX, MACX and MSUX are `prodX`; MACW makes the writes of both accumulators. -/
theorem auxiliaryWords : Obligations.AuxiliaryWords := by
  intro st f m s hc v p
  have hp : p = prodX v f.fs1.toNat f.fs2.toNat := (prodX_eq _ _ _).symm
  rw [hp]
  refine ⟨fun hl => ⟨_, rfl, ?_⟩, fun hl => ⟨_, rfl, ?_⟩, fun hl => ⟨_, rfl, ?_⟩, fun hl => ⟨_, rfl, ?_, ?_⟩⟩
  · exact issueA_auxWrites hc hl (List.Subset.refl _) id
  · exact issueA_auxWrites hc hl (List.Subset.refl _) id
  · exact issueA_auxWrites hc hl (List.Subset.refl _) id
  · refine issueA_accWrites hc hl (List.subset_append_left _ _) fun hb => ?_
    change Nat.testBit (_ ||| _) 1 = true
    rw [Nat.testBit_or, Bool.or_eq_true]
    exact Or.inl hb
  · refine issueA_auxWrites hc hl (List.subset_append_right _ _) fun hb => ?_
    change Nat.testBit (_ ||| _) 1 = true
    rw [Nat.testBit_or, Bool.or_eq_true]
    exact Or.inr hb

/-! ### The operations of R65 -/

theorem natAbs_eq_max (a : Int) : (a.natAbs : Int) = max a (-a) := by omega

theorem sshiftRight_toInt (a : S48) (k : Nat) : (a.sshiftRight k).toInt = a.toInt / 2 ^ k := by
  rw [BitVec.toInt_sshiftRight, Int.shiftRight_eq_div_pow]
  norm_cast

/-- The flags of a difference compare its terms. -/
theorem flagsAlways_sub (lat : Nat) (a b : Int) :
    flagsAlways lat false (a - b) = [(lat, .flags (some (decide (a = b))) (some (decide (a < b))) (some false))] := by
  have h0 : (a - b = 0) ↔ a = b := by omega
  have hlt : (a - b < 0) ↔ a < b := by omega
  simp only [flagsAlways, h0, hlt]

/-- A word without a move makes the writes of its arithmetic part alone. -/
theorem issueA_inflight_noMove {u : Nat} {op : BitVec 6} {f : ArithF} {m : MoveF} {s : State} (hc : canIssue s u = true)
    (hl : wordALegal op f m = true) (hm : m.mv = 0) : (stallOf (issueA u op f m s) u).inflight = (seen u s).inflight ++
      (aluOp (landDue u s) u (seen u s) op f).writes.map (fun x => ⟨(seen u s).issueNo + x.1, x.2⟩) := by
  rw [(issueA_spec hc hl).1]
  simp [moveOp, movePtr, hm, moveNone]

/-- The magnitude of a shift by the low six bits of a register. -/
theorem shvAmount_range (x : BitVec 6) : -32 ≤ x.toInt ∧ x.toInt < 32 := ⟨BitVec.le_toInt x, BitVec.toInt_lt⟩

/-- SHV by its signed amount, whose magnitude does not reach 47 (R65). -/
theorem aluShv_eq (st : Stall) (f : ArithF) : aluShv st f = dRes st f
    (let a := (dReg st f.fs1.toNat).toInt
     let n := ((dReg st f.fs2.toNat).setWidth 6).toInt
     if 0 ≤ n then a * 2 ^ n.toNat else a / 2 ^ n.natAbs) := by
  unfold aluShv
  rw [signOf_toNat 6 (by decide)]
  obtain ⟨hlo, hhi⟩ := shvAmount_range ((dReg st f.fs2.toNat).setWidth 6)
  generalize ((dReg st f.fs2.toNat).setWidth 6).toInt = n at *
  dsimp only
  rw [show min n.toNat 47 = n.toNat by omega, show min n.natAbs 47 = n.natAbs by omega]
  split
  · rfl
  · rw [dResBits_eq_dRes, sshiftRight_toInt]

/-- Settles O12: each word's operation is a saturating D result, that of CMP the flags of the difference. -/
theorem saturatingWords : Obligations.SaturatingWords := by
  intro st f m s hc v a b n
  refine ⟨fun hl => ⟨_, rfl, issueA_dRes hc hl rfl⟩, fun hl => ⟨_, rfl, issueA_dRes hc hl rfl⟩, fun hl => ⟨_, rfl, issueA_dRes hc hl rfl⟩,
    fun hl => ⟨_, rfl, issueA_dRes hc hl ?_⟩, fun hl => ⟨_, rfl, ?_⟩, fun hl => ⟨_, rfl, issueA_dRes hc hl rfl⟩, fun hl => ⟨_, rfl, ?_⟩⟩
  · rw [← natAbs_eq_max]
    rfl
  · have hop : (aluOp (landDue st.val s) st.val (seen st.val s) 0x10 f).writes =
        [(1, .flags (some (decide (a = b))) (some (decide (a < b))) (some false))] := flagsAlways_sub 1 a b
    refine ⟨issueA_alu (x := (1, _)) hc hl (hop ▸ List.mem_singleton.mpr rfl), fun hm => ?_⟩
    rw [issueA_inflight_noMove hc hl hm, hop]
    rfl
  · have h := issueA_dRes hc hl (aluShv_eq (seen st.val s) f)
    refine ⟨fun hn => ?_, fun hn => ?_⟩
    · rwa [if_pos hn] at h
    · rwa [if_neg (Int.not_le.mpr hn)] at h

theorem ofNat_shiftRight (a : S48) (k : Nat) : BitVec.ofNat 48 (a.toNat / 2 ^ k) = a >>> k := by
  apply BitVec.eq_of_toNat_eq
  rw [BitVec.toNat_ushiftRight, Nat.shiftRight_eq_div_pow, BitVec.toNat_ofNat,
    Nat.mod_eq_of_lt (Nat.lt_of_le_of_lt (Nat.div_le_self _ _) a.isLt)]

/-- Settles O13: each word's operation is a D result that cannot saturate. -/
theorem logicalWords : Obligations.LogicalWords := by
  intro st f m s hc v a b
  refine ⟨fun hl => ⟨_, rfl, ?_⟩, fun hl => ⟨_, rfl, ?_⟩, fun hl => ⟨_, rfl, ?_⟩, fun hl => ⟨_, rfl, ?_⟩, fun hl => ⟨_, rfl, ?_⟩⟩
  · exact issueA_dRes hc hl (dResBits_eq_dRes _ _ _)
  · exact issueA_dRes hc hl (dResBits_eq_dRes _ _ _)
  · exact issueA_dRes hc hl (dResBits_eq_dRes _ _ _)
  · rw [← sshiftRight_toInt]
    exact issueA_dRes hc hl (dResBits_eq_dRes _ _ _)
  · rw [ofNat_shiftRight]
    exact issueA_dRes hc hl (dResBits_eq_dRes _ _ _)

end Sys2Proof.Machine

/-!
# Ramps, tables, searches and immediates

The statements TableWords (R110–R112) and ImmediateWords (R107).
-/

namespace Sys2Proof.Machine

/-! ### RAMP (R110) -/

/-- What RAMP writes: the stepped coefficient and, where the word sets flags, whether it has reached the target. -/
theorem issueA_ramp {u : Nat} {f : ArithF} {m : MoveF} {s : State} {y : Int} (hc : canIssue s u = true) (hl : wordALegal 0x18 f m = true)
    (hy : rampStep (decide (f.imm5.toNat = 1)) (cReg (seen u s) f.fd.toNat).toInt (cReg (seen u s) f.fs1.toNat).toInt
      (cReg (seen u s) f.fs2.toNat).toInt = y) :
    Pends u 2 (.c f.fd.toNat (BitVec.ofInt 32 y)) s (issueA u 0x18 f m s) ∧
      (f.sf = true → Pends u 2 (.flags (some (decide (y = (cReg (seen u s) f.fs2.toNat).toInt))) (some false) (some false)) s
        (issueA u 0x18 f m s)) := by
  subst hy
  refine ⟨issueA_alu (x := (2, _)) hc hl (List.mem_cons_self ..), fun hsf => issueA_alu (x := (2, _)) hc hl (List.mem_cons_of_mem _ ?_)⟩
  rw [if_pos hsf]
  exact List.mem_singleton.mpr rfl

theorem rampStep_up {cd cs ct : Int} (h : 0 ≤ cs) : rampStep false cd cs ct = if ct ≤ cd + cs then ct else cd + cs := by
  have hn : ¬ cs < 0 := Int.not_lt.mpr h
  simp [rampStep, h, hn]

theorem rampStep_down {cd cs ct : Int} (h : cs < 0) : rampStep false cd cs ct = if cd + cs ≤ ct then ct else cd + cs := by
  have hn : ¬ 0 ≤ cs := Int.not_le.mpr h
  simp [rampStep, h, hn]

/-! ### LUT (R111) -/

/-- Entry `i` of the table of a LUT. -/
def lutEntry (u : Nat) (f : ArithF) (s : State) (i : Nat) : Int :=
  signOf 48 (loadItem (landDue u s) u (((pReg (seen u s) f.fs2.toNat).toNat + 8 * i) % 2 ^ 20) 8).val

/-- A LUT writes its value between the entry at its index and the next one. -/
theorem issueA_lut {u : Nat} {f : ArithF} {m : MoveF} {s : State} {i : Nat} {y : Int} (hc : canIssue s u = true) (hl : wordALegal 0x19 f m = true)
    (hi : lutIndex f.imm5.toNat (dReg (seen u s) f.fs1.toNat).toInt = i)
    (hy : lutValue f.imm5.toNat (dReg (seen u s) f.fs1.toNat).toInt (lutEntry u f s i) (lutEntry u f s (i + 1)) = y) :
    DWrites u 3 f.fd.toNat f.sf y s (issueA u 0x19 f m s) := by
  subst hi hy
  refine issueA_dWrites hc hl ?_ fun ho => ?_
  · change (aluLut (landDue u s) u (seen u s) f).writes = _
    rw [aluLut, satInt_eq]
    rfl
  · change (aluLut (landDue u s) u (seen u s) f).sticky.testBit 0 = true
    rw [aluLut, satInt_eq]
    have ho' := ho
    simp only [lutEntry, Nat.mul_add, Nat.mul_one, ← Nat.add_assoc] at ho'
    simp only [ho', if_pos, Nat.testBit_or, stkSat]
    simp

/-- The table size of a legal LUT. -/
theorem lutSize_of_legal {f : ArithF} {m : MoveF} (hl : wordALegal 0x19 f m = true) : 1 ≤ f.imm5.toNat ∧ f.imm5.toNat ≤ 12 := by
  simp only [wordALegal, Bool.and_eq_true] at hl
  obtain ⟨⟨⟨⟨⟨harith, _⟩, _⟩, _⟩, _⟩, _⟩ := hl
  change (fieldOk .dreg f.fd && fieldOk .dreg f.fs1 && fieldOk .preg f.fs2 && immOk .table f.imm5 && _) = true at harith
  simp only [Bool.and_eq_true] at harith
  obtain ⟨⟨_, himm⟩, _⟩ := harith
  simpa [immOk] using himm

theorem lutIndex_inside {k : Nat} {x : Int} (h0 : 0 ≤ x) (h1 : x < 2 ^ 40) : lutIndex k x = x.toNat / 2 ^ (40 - k) := by
  rw [lutIndex, show max 0 (min x (2 ^ 40 - 1)) = x by omega]

theorem lutIndex_below {k : Nat} {x : Int} (h : x < 0) : lutIndex k x = 0 := by
  rw [lutIndex, show max 0 (min x (2 ^ 40 - 1)) = 0 by omega]
  exact Nat.zero_div _

theorem lutIndex_above {k : Nat} {x : Int} (hk : k ≤ 12) (h : 2 ^ 40 ≤ x) : lutIndex k x + 1 = 2 ^ k := by
  rw [lutIndex, show max 0 (min x (2 ^ 40 - 1)) = 2 ^ 40 - 1 by omega]
  have htop : ((2 : Int) ^ 40 - 1).toNat = 1099511627775 := rfl
  have hcut : ∀ j : Fin 13, 1099511627775 / 2 ^ (40 - j.val) + 1 = 2 ^ j.val := by decide
  rw [htop]
  exact hcut ⟨k, by omega⟩

theorem roundShift_zero (k : Nat) : roundShift 0 k = 0 := by
  have hpos : (2 : Int) * 0 < 2 ^ k := Int.pow_pos (by decide)
  unfold roundShift
  dsimp only
  rw [Int.zero_ediv, Int.zero_emod, if_pos hpos]

theorem lutValue_inside {k : Nat} {x t0 t1 : Int} (h0 : 0 ≤ x) (h1 : x < 2 ^ 40) :
    lutValue k x t0 t1 = t0 + roundShift ((t1 - t0) * (x % 2 ^ (40 - k))) (40 - k) := by
  rw [lutValue, if_neg (Int.not_le.mpr h1), Int.max_eq_right h0]

theorem lutValue_below {k : Nat} {x t0 t1 : Int} (h : x < 0) : lutValue k x t0 t1 = t0 := by
  rw [lutValue, if_neg (by omega), Int.max_eq_left (Int.le_of_lt h)]
  simp [roundShift_zero]

theorem lutValue_above {k : Nat} {x t0 t1 : Int} (h : 2 ^ 40 ≤ x) : lutValue k x t0 t1 = t1 := if_pos h

/-! ### MAXI, MINI, MAXAI (R112) -/

/-- A search whose new value beats the old one replaces the register and the pointer. -/
theorem issueA_extreme {u : Nat} {op : BitVec 6} {f : ArithF} {m : MoveF} {s : State} {take sat : Bool} {y : Int} (hc : canIssue s u = true)
    (hl : wordALegal op f m = true) (hop : aluOp (landDue u s) u (seen u s) op f = extremeRes (seen u s) f take sat y) (ht : take = true) :
    Pends u 3 (.d (physD (seen u s).rb f.fd.toNat) (BitVec.ofInt 48 y)) s (issueA u op f m s) ∧
      Pends u 3 (.p f.fs2.toNat (BitVec.ofNat 20 (loopCount (seen u s)))) s (issueA u op f m s) := by
  refine ⟨issueA_alu (x := (3, _)) hc hl ?_, issueA_alu (x := (3, _)) hc hl ?_⟩ <;> simp [hop, extremeRes, opWrites, ht]

/-- Settles O14: RAMP by the direction of its step, LUT by where its argument lies, the searches by what they replace. -/
theorem tableWords : Obligations.TableWords := by
  intro st f m s hc v cd cs ct x d k g r entry ramped replaces
  refine ⟨fun hl => ⟨_, rfl, ?_⟩, fun hl => ⟨_, rfl, ?_⟩, fun hl hlt => ⟨_, rfl, issueA_extreme hc hl rfl (decide_eq_true hlt)⟩,
    fun hl hlt => ⟨_, rfl, issueA_extreme hc hl rfl (decide_eq_true hlt)⟩, fun hl hlt => ⟨_, rfl, ?_⟩⟩
  · have linear : k = 0 → decide (f.imm5.toNat = 1) = false := fun hk => decide_eq_false (by omega)
    exact ⟨fun hk hup => issueA_ramp hc hl ((linear hk).symm ▸ rampStep_up hup), fun hk hdown => issueA_ramp hc hl ((linear hk).symm ▸ rampStep_down hdown),
      fun hk => issueA_ramp hc hl (by rw [decide_eq_true hk]; rfl)⟩
  · obtain ⟨_, hk⟩ := lutSize_of_legal hl
    refine ⟨fun h0 h1 => issueA_lut hc hl (lutIndex_inside h0 h1) (lutValue_inside h0 h1), fun h0 => issueA_lut hc hl (lutIndex_below h0) (lutValue_below h0),
      fun h1 => issueA_lut hc hl rfl ?_⟩
    rw [lutValue_above h1, lutIndex_above hk h1]
    rfl
  · have hop : aluOp (landDue st.val s) st.val (seen st.val s) 0x1C f = extremeRes (seen st.val s) f
        (decide (d < clamp 48 (max x (-x)))) (overflows 48 (max x (-x))) (clamp 48 (max x (-x))) := by
      change aluMaxai _ _ = _
      rw [aluMaxai, satInt_eq, natAbs_eq_max]
    exact issueA_extreme hc hl hop (decide_eq_true hlt)

/-! ### Immediates (R107) -/

/-- Each sticky bit of a format C word's operation is set. -/
theorem issueC_sticky {u : Nat} {op : BitVec 6} {reg : BitVec 8} {imm : S48} {s : State} (hc : canIssue s u = true)
    (hl : wordCLegal op reg imm = true) (i : Nat) (hi : i < 11) (hb : (immOp (seen u s) op reg imm).sticky.testBit i = true) :
    Stuck u i (issueC u op reg imm s) := by
  unfold Stuck issueC
  rw [hc, hl]
  simp only [Bool.not_true, Bool.false_eq_true, if_false]
  rw [stallOf_finishIssue, (nextPc_inflight _).2.2, (countIssue_inflight _ _ _).2.2, orSticky_stall]
  change Nat.testBit (immOp (stallOf (landDue u s) u) op reg imm).sticky i = true at hb
  simp [BitVec.getLsbD_ofNat, hb, hi]

theorem classOf_d {n : Nat} (h : n < 0x40) : classOf n = .d := if_pos h

/-- What ADDI writes to a D register. -/
theorem immAddi_d (st : Stall) {n : Nat} (imm : S48) (h : n < 0x40) : immAddi st n imm =
    opWrites ((1, .d (physD st.rb n) (BitVec.ofInt 48 (clamp 48 ((dReg st n).toInt + imm.toInt)))) ::
      flagsSat 1 (overflows 48 ((dReg st n).toInt + imm.toInt))) (if overflows 48 ((dReg st n).toInt + imm.toInt) then stkSat else 0) := by
  simp [immAddi, regWb, regSource, classOf_d h, h, classWidth, satInt_eq]

/-- What ADDI writes to a C register. -/
theorem immAddi_c (st : Stall) {c : Nat} (imm : S48) (h : c < 0x20) : immAddi st (0x48 + c) imm =
    opWrites ((1, .c c (BitVec.ofInt 32 (clamp 32 ((cReg st c).toInt + imm.toInt)))) ::
      flagsSat 1 (overflows 32 ((cReg st c).toInt + imm.toInt))) (if overflows 32 ((cReg st c).toInt + imm.toInt) then stkSat else 0) := by
  have hcl : classOf (0x48 + c) = .c := by
    simp (disch := omega) only [classOf, if_pos, if_neg]
  have hsrc : regSource st (0x48 + c) = some (cReg st c).toInt := by
    simp (disch := omega) only [regSource, if_pos, if_neg, Nat.add_sub_cancel_left]
  simp [immAddi, regWb, hsrc, hcl, classWidth, satInt_eq]

/-- What ADDI writes to a P, M or L register: the sum, which wraps. -/
theorem immAddi_wraps (st : Stall) {n : Nat} {x : Int} {w : Wb} (imm : S48) (hd : classOf n ≠ .d) (hc : classOf n ≠ .c)
    (hsrc : regSource st n = some x) (hw : regWb st n (x + imm.toInt) = some w) : immAddi st n imm = opWrites [(1, w)] 0 := by
  simp [immAddi, hsrc, hw, hd, hc]

/-- A legal word on a register that wraps writes the sum. -/
theorem issueC_addi_wraps {u n : Nat} {reg : BitVec 8} {imm : S48} {s : State} {x : Int} {w : Wb} {cl : RegClass} (hc : canIssue s u = true)
    (hl : wordCLegal 2 reg imm = true) (hn : reg.toNat = n) (hcl : classOf n = cl) (hwraps : cl ≠ .d ∧ cl ≠ .c)
    (hsrc : regSource (seen u s) n = some x) (hw : regWb (seen u s) n (x + imm.toInt) = some w) : Pends u 1 w s (issueC u 2 reg imm s) := by
  subst hn hcl
  refine issueC_imm (x := (1, w)) hc hl ?_
  change (1, w) ∈ (immAddi (seen u s) reg.toNat imm).writes
  rw [immAddi_wraps _ _ hwraps.1 hwraps.2 hsrc hw]
  exact List.mem_singleton.mpr rfl

/-- The classes of P, M and L registers, by their numbers (Table 4.1). -/
theorem regs_pml (st : Stall) {p : Nat} (h : p < 0x10) :
    (classOf (0x68 + p) = .p ∧ regSource st (0x68 + p) = some (pReg st p).toInt ∧ regWb st (0x68 + p) = fun x => some (.p p (BitVec.ofInt 20 x))) ∧
    (classOf (0x78 + p) = .m ∧ regSource st (0x78 + p) = some (mReg st p).toInt ∧ regWb st (0x78 + p) = fun x => some (.m p (BitVec.ofInt 20 x))) ∧
    (classOf (0x88 + p) = .l ∧ regSource st (0x88 + p) = some (lReg st p).toInt ∧ regWb st (0x88 + p) = fun x => some (.l p (BitVec.ofInt 20 x))) := by
  have hp : classOf (0x68 + p) = .p := by simp (disch := omega) only [classOf, if_pos, if_neg]
  have hm : classOf (0x78 + p) = .m := by simp (disch := omega) only [classOf, if_pos, if_neg]
  have hl : classOf (0x88 + p) = .l := by simp (disch := omega) only [classOf, if_pos, if_neg]
  refine ⟨⟨hp, ?_, ?_⟩, ⟨hm, ?_, ?_⟩, ⟨hl, ?_, ?_⟩⟩
  · simp (disch := omega) only [regSource, if_pos, if_neg, Nat.add_sub_cancel_left]
  · funext x
    simp only [regWb, hp, Nat.add_sub_cancel_left]
  · simp (disch := omega) only [regSource, if_pos, if_neg, Nat.add_sub_cancel_left]
  · funext x
    simp only [regWb, hm, Nat.add_sub_cancel_left]
  · simp (disch := omega) only [regSource, if_pos, if_neg, Nat.add_sub_cancel_left]
  · funext x
    simp only [regWb, hl, Nat.add_sub_cancel_left]

/-- Settles O25: by the class of the register for ADDI, by the operation for the others. -/
theorem immediateWords : Obligations.ImmediateWords := by
  intro st reg imm s hc u v n d
  have logic : ∀ (op : BitVec 6) (y : S48), wordCLegal op reg imm = true → immOp v op reg imm = immLogic v n y →
      Pends u 1 (.d (physD v.rb n) y) s (issueC u op reg imm s) :=
    fun op y hl hop => issueC_imm (x := (1, _)) hc hl (hop ▸ List.mem_singleton.mpr rfl)
  refine ⟨fun w hl hw => ⟨_, rfl, issueC_imm (x := (1, _)) hc hl ?_⟩, fun hl hn => ⟨_, rfl, ?_⟩, fun c hl hn hlt => ⟨_, rfl, ?_⟩, fun p hl hlt => ?_,
    fun hl => ⟨_, rfl, logic _ _ hl rfl⟩, fun hl => ⟨_, rfl, logic _ _ hl rfl⟩, fun hl => ⟨_, rfl, logic _ _ hl rfl⟩,
    fun hl => ⟨_, rfl, issueC_imm (x := (1, _)) hc hl ?_⟩⟩
  · change (1, w) ∈ (immLdi v n imm).writes
    rw [immLdi, hw]
    exact List.mem_singleton.mpr rfl
  · have hop : immOp (seen u s) 2 reg imm = _ := immAddi_d v imm hn
    refine ⟨issueC_imm (x := (1, _)) hc hl ?_, fun ho => issueC_sticky hc hl 0 (by decide) ?_, fun h => absurd h (by decide),
      fun _ ho => issueC_imm (x := (1, _)) hc hl ?_⟩
    · rw [hop]
      exact List.mem_cons_self ..
    · rw [hop]
      simp [opWrites, v, u, n, d, ho, stkSat]
    · rw [hop]
      simp [opWrites, flagsSat, v, u, n, d, ho]
  · have hop : immOp (seen u s) 2 reg imm = _ := (congrArg (immAddi v · imm) hn).trans (immAddi_c v imm hlt)
    refine ⟨issueC_imm (x := (1, _)) hc hl ?_, fun ho => ⟨issueC_imm (x := (1, _)) hc hl ?_, issueC_sticky hc hl 0 (by decide) ?_⟩⟩
    · rw [hop]
      exact List.mem_cons_self ..
    · rw [hop]
      simp [opWrites, flagsSat, v, u, ho]
    · rw [hop]
      simp [opWrites, v, u, ho, stkSat]
  · obtain ⟨⟨hcp, hsp, hwp⟩, ⟨hcm, hsm, hwm⟩, ⟨hcl, hsl, hwl⟩⟩ := regs_pml v hlt
    exact ⟨fun hn => ⟨_, rfl, issueC_addi_wraps hc hl hn hcp (by decide) hsp (congrFun hwp _)⟩,
      fun hn => ⟨_, rfl, issueC_addi_wraps hc hl hn hcm (by decide) hsm (congrFun hwm _)⟩,
      fun hn => ⟨_, rfl, issueC_addi_wraps hc hl hn hcl (by decide) hsl (congrFun hwl _)⟩⟩
  · change _ ∈ flagsAlways 1 false _
    rw [flagsAlways_sub]
    exact List.mem_singleton.mpr rfl

end Sys2Proof.Machine

/-!
# The moves of the stall's words

The statements LoadWords, StoreWords, AccessRules and StoresLand (R67, R69, R75–R79, R97–R101): where an access goes, what a load gives its register, what a
store puts in flight, and which bytes change as stores land.
-/

namespace Sys2Proof.Machine

/-! ### Numbers in bits -/

/-- A number read as signed in its width has the bits of the number. -/
theorem ofInt_signOf (w n : Nat) (hw : 0 < w) : BitVec.ofInt w (signOf w n) = BitVec.ofNat w n := by
  have h : signOf w n = (BitVec.ofNat w n).toInt := by
    have hs := signOf_toNat w hw (BitVec.ofNat w n)
    rw [BitVec.setWidth_eq, BitVec.toNat_ofNat] at hs
    rw [← hs]
    simp [signOf]
  rw [h, BitVec.ofInt_toInt]

/-! ### Where an access goes (R75, R76, R79) -/

/-- Settles O17: by the region in which the aligned address lies. -/
theorem accessRules : Obligations.AccessRules := by
  intro s u a size hsize ha al it
  have haligned : al = a - a % size := rfl
  have hle : al ≤ a := Nat.sub_le _ _
  have hbank : stkBank.testBit 7 = true := by decide
  have haddr : stkAddr.testBit 4 = true := by decide
  refine ⟨fun h => ?_, fun h1 h2 => ?_, fun h1 h2 => ?_, fun h1 h2 => ?_, fun h => ?_, fun h => ?_, fun x hx hu => ?_, fun hx => ?_⟩
  · simp [it, checkItem, ← haligned, h]
  · simp [it, checkItem, ← haligned, h1, h2, show ¬ al < 0x4000 by omega]
  · simp [it, checkItem, ← haligned, h1, h2, show ¬ al < 0x4000 by omega, show ¬ al < 0x20000 by omega]
  · simp [it, checkItem, ← haligned, h1, h2, show ¬ al < 0x4000 by omega, show ¬ al < 0x20000 by omega, hbank, Nat.testBit_or]
  · simp [it, checkItem, ← haligned, show ¬ al < 0x4000 by omega, show ¬ (0x10000 ≤ al ∧ al < 0x20000) by omega, show ¬ 0x80000 ≤ al by omega, haddr,
      Nat.testBit_or]
  · have hmis : stkMisalign.testBit 5 = true := by decide
    simp only [it, checkItem, if_neg h]
    repeat' split
    all_goals simp [Nat.testBit_or, hmis]
  · simp [loadItem, show (checkItem s u a size).mem = some x from hx, hu]
  · simp [loadItem, show (checkItem s u a size).mem = none from hx]

/-! ### Loads (R76, R98, R99, R101) -/

/-- The parts of a legal format A word (R92, R97). -/
theorem legal_of_wordALegal {op : BitVec 6} {f : ArithF} {m : MoveF} (hl : wordALegal op f m = true) : arithLegal op f = true ∧ moveLegal m = true := by
  simp only [wordALegal, Bool.and_eq_true] at hl
  obtain ⟨⟨⟨⟨h, _⟩, _⟩, _⟩, _⟩ := hl
  exact h

/-- The register of a legal move with an address is of the class of its kind. -/
theorem mregOk_of_legal {op : BitVec 6} {f : ArithF} {k : BitVec 4} {g : MoveArgs} (hl : wordALegal op f ⟨k, g⟩ = true) (h0 : k.toNat ≠ 0) :
    mregOk k.toNat g.mreg.toNat = true := by
  have h := (legal_of_wordALegal hl).2
  simp only [moveLegal, if_neg h0] at h
  split at h
  next h15 =>
    simp only [Bool.and_eq_true] at h
    rw [h15]
    exact h.1.1.1
  next =>
    simp only [Bool.and_eq_true] at h
    exact h.1

/-- A move with its pointer's update. -/
def withPtr (st : Stall) (m : MoveF) (r : MoveRes) : MoveRes :=
  { r with writes := r.writes ++ (movePtr st m).1, sticky := r.sticky ||| (movePtr st m).2 }

/-- A move's own writes are in flight. -/
theorem issueA_moveWrite {u : Nat} {op : BitVec 6} {f : ArithF} {m : MoveF} {s : State} {r : MoveRes} {x : Nat × Wb} (hc : canIssue s u = true)
    (hl : wordALegal op f m = true) (hr : moveOp (landDue u s) u (seen u s) m = withPtr (seen u s) m r) (hx : x ∈ r.writes) :
    Pends u x.1 x.2 s (issueA u op f m s) := by
  refine issueA_move hc hl ?_
  rw [hr]
  exact List.mem_append_left _ hx

/-- The new value of a post-modified pointer is in flight (R78). -/
theorem issueA_newP {u : Nat} {op : BitVec 6} {f : ArithF} {k : BitVec 4} {g : MoveArgs} {s : State} {q : P20} (hc : canIssue s u = true)
    (hl : wordALegal op f ⟨k, g⟩ = true) (h0 : k.toNat ≠ 0) (h15 : k.toNat ≠ 15) (hq : (formAddr (seen u s) g).newP = some q) :
    Pends u 1 (.p g.mp.toNat q) s (issueA u op f ⟨k, g⟩ s) := by
  refine issueA_move (x := (1, _)) hc hl (List.mem_append_right _ ?_)
  simp [movePtr, h0, h15, hq]

/-- What a load of one item gives its register. -/
theorem issueA_load {u : Nat} {op : BitVec 6} {f : ArithF} {k : BitVec 4} {g : MoveArgs} {s : State} {w : Wb} (hc : canIssue s u = true)
    (hl : wordALegal op f ⟨k, g⟩ = true)
    (hr : moveOp (landDue u s) u (seen u s) ⟨k, g⟩ = withPtr (seen u s) ⟨k, g⟩ (moveLoad (landDue u s) u (seen u s) k.toNat g))
    (hw : regWb (seen u s) g.mreg.toNat (loadConv k.toNat (loadItem (landDue u s) u (formAddr (seen u s) g).addr (moveSize k.toNat)).val) = some w) :
    Pends u 2 w s (issueA u op f ⟨k, g⟩ s) :=
  issueA_moveWrite (x := (2, w)) hc hl hr (by simp [moveLoad, hw])

/-- What a pair load gives its two registers. -/
theorem issueA_pair {u : Nat} {op : BitVec 6} {f : ArithF} {k : BitVec 4} {g : MoveArgs} {s : State} {w0 w1 : Wb} (hc : canIssue s u = true)
    (hl : wordALegal op f ⟨k, g⟩ = true)
    (hr : moveOp (landDue u s) u (seen u s) ⟨k, g⟩ = withPtr (seen u s) ⟨k, g⟩ (movePair (landDue u s) u (seen u s) k.toNat g)) :
    let v := seen u s
    let first := (formAddr v g).addr - (formAddr v g).addr % moveSize k.toNat
    regWb v g.mreg.toNat (loadConv k.toNat (loadItem (landDue u s) u (formAddr v g).addr (moveSize k.toNat)).val) = some w0 →
    regWb v (g.mreg.toNat + 1)
      (loadConv k.toNat (loadItem (landDue u s) u (pairAddr v g first (moveSize k.toNat)).1 (moveSize k.toNat)).val) = some w1 →
    Pends u 2 w0 s (issueA u op f ⟨k, g⟩ s) ∧ Pends u 2 w1 s (issueA u op f ⟨k, g⟩ s) := by
  intro v first h0 h1
  exact ⟨issueA_moveWrite (x := (2, w0)) hc hl hr (by simp [movePair, v, h0]),
    issueA_moveWrite (x := (2, w1)) hc hl hr (by simp [movePair, v, first, h1])⟩

/-- The write of a number to a register of a known class. -/
theorem regWb_d {st : Stall} {n : Nat} (h : classOf n = .d) (x : Int) : regWb st n x = some (.d (physD st.rb n) (BitVec.ofInt 48 x)) := by
  simp [regWb, h]

theorem regWb_a {st : Stall} {n : Nat} (h : classOf n = .a) (x : Int) : regWb st n x = some (.a (n - 0x40) (BitVec.ofInt 96 x) false) := by
  simp [regWb, h]

theorem regWb_c {st : Stall} {n : Nat} (h : classOf n = .c) (x : Int) : regWb st n x = some (.c (n - 0x48) (BitVec.ofInt 32 x)) := by
  simp [regWb, h]

theorem regWb_x {st : Stall} {n : Nat} (h : classOf n = .x) (x : Int) : regWb st n x = some (.x (n - 0x98) (BitVec.ofInt 40 x)) := by
  simp [regWb, h]

/-- The numbers of a class (Table 4.1). -/
theorem classOf_eq_d {n : Nat} : classOf n = .d ↔ n < 0x40 := by
  unfold classOf
  repeat' split
  all_goals simp
  all_goals omega

theorem classOf_eq_a {n : Nat} : classOf n = .a ↔ 0x40 ≤ n ∧ n < 0x48 := by
  unfold classOf
  repeat' split
  all_goals simp
  all_goals omega

theorem classOf_eq_c {n : Nat} : classOf n = .c ↔ 0x48 ≤ n ∧ n < 0x68 := by
  unfold classOf
  repeat' split
  all_goals simp
  all_goals omega

theorem classOf_eq_x {n : Nat} : classOf n = .x ↔ 0x98 ≤ n ∧ n < 0x9A := by
  unfold classOf
  repeat' split
  all_goals simp
  all_goals omega

/-- Settles O15: each load gives its register what its kind makes of the item, and every move with an address its pointer's new value. -/
theorem loadWords : Obligations.LoadWords := by
  intro st op f g s hc u v n ad item second ends
  have newP : ∀ (k : BitVec 4), wordALegal op f ⟨k, g⟩ = true → k.toNat ≠ 0 → k.toNat ≠ 15 → ∀ q, ad.newP = some q →
      Pends u 1 (.p g.mp.toNat q) s (issueA u op f ⟨k, g⟩ s) := fun k hl h0 h15 q hq => issueA_newP hc hl h0 h15 hq
  have reg : ∀ (k : BitVec 4), wordALegal op f ⟨k, g⟩ = true → k.toNat ≠ 0 → mregOk k.toNat n = true := fun k hl h0 => mregOk_of_legal hl h0
  refine ⟨fun hl => ⟨_, rfl, ?_, newP _ hl (by decide) (by decide)⟩, fun hl => ⟨_, rfl, ?_, newP _ hl (by decide) (by decide)⟩,
    fun hl => ⟨_, rfl, ?_, newP _ hl (by decide) (by decide)⟩, fun hl => ⟨_, rfl, fun w hw => ?_, newP _ hl (by decide) (by decide)⟩,
    fun hl => ⟨_, rfl, ?_, newP _ hl (by decide) (by decide)⟩, fun hl => ⟨_, rfl, ?_, newP _ hl (by decide) (by decide)⟩,
    fun hl => ⟨_, rfl, ?_, newP _ hl (by decide) (by decide)⟩, fun hl => ⟨_, rfl, ?_, newP _ hl (by decide) (by decide)⟩,
    fun hl => ⟨_, rfl, fun x w hx hw => ?_⟩⟩
  · have hd : classOf n = .d := by simpa [mregOk] using reg _ hl (by decide)
    exact issueA_load hc hl rfl ((regWb_d hd _).trans (congrArg (fun x => some (Wb.d (physD v.rb n) x)) (ofInt_signOf 48 _ (by decide))))
  · have hd : classOf n = .d := by simpa [mregOk] using reg _ hl (by decide)
    exact issueA_load hc hl rfl (regWb_d hd _)
  · have hd : classOf n = .d := by simpa [mregOk] using reg _ hl (by decide)
    exact issueA_load hc hl rfl (regWb_d hd _)
  · exact issueA_load hc hl rfl hw
  · have ha : classOf n = .a := by simpa [mregOk] using reg _ hl (by decide)
    exact issueA_load hc hl rfl ((regWb_a ha _).trans (congrArg (fun x => some (Wb.a (n - 0x40) x false)) (ofInt_signOf 96 _ (by decide))))
  · have hx : classOf n = .x := by simpa [mregOk] using reg _ hl (by decide)
    exact issueA_load hc hl rfl ((regWb_x hx _).trans (congrArg (fun x => some (Wb.x (n - 0x98) x)) (ofInt_signOf 40 _ (by decide))))
  · have hm : classOf n = .d ∧ n ≠ 31 ∧ n ≠ 63 := by simpa [mregOk] using reg _ hl (by decide)
    obtain ⟨hd, _, h63⟩ := hm
    have hd1 : classOf (n + 1) = .d := classOf_eq_d.mpr (by have := classOf_eq_d.mp hd; omega)
    exact issueA_pair hc hl rfl ((regWb_d hd _).trans (congrArg (fun x => some (Wb.d (physD v.rb n) x)) (ofInt_signOf 48 _ (by decide))))
      ((regWb_d hd1 _).trans (congrArg (fun x => some (Wb.d (physD v.rb (n + 1)) x)) (ofInt_signOf 48 _ (by decide))))
  · have hm : classOf n = .c ∧ n ≠ 0x67 := by simpa [mregOk] using reg _ hl (by decide)
    obtain ⟨hcl, h67⟩ := hm
    obtain ⟨hlo, hhi⟩ := classOf_eq_c.mp hcl
    have hc1 : classOf (n + 1) = .c := classOf_eq_c.mpr (by omega)
    have hidx : n + 1 - 0x48 = n - 0x47 := by omega
    exact issueA_pair hc hl rfl ((regWb_c hcl _).trans (congrArg (fun x => some (Wb.c (n - 0x48) x)) (ofInt_signOf 32 _ (by decide))))
      ((regWb_c hc1 _).trans (hidx ▸ congrArg (fun x => some (Wb.c (n - 0x47) x)) (ofInt_signOf 32 _ (by decide))))
  · refine issueA_moveWrite (x := (1, w)) (r := moveMov v g) hc hl rfl ?_
    simp only [moveMov, hx]
    simp [show regWb v g.mreg.toNat x = some w from hw]

end Sys2Proof.Machine

/-!
# The frame of a stall's words, and its stores

The statements WordFrame (R60, R67, R73, R92), StoreWords (R76, R77, R95, R98) and StoresLand (R67, R69).
-/

namespace Sys2Proof.Machine

/-! ### What an issue may change -/

/-- Stall `y` is stall `x` but for its writes in flight, counts, control, sticky bits and halt. -/
def SameFile (x y : Stall) : Prop :=
  y = { x with inflight := y.inflight, issueNo := y.issueNo, frameIssues := y.frameIssues, pc := y.pc, delay := y.delay, loop := y.loop,
               sticky := y.sticky, haltPending := y.haltPending, stepping := y.stepping }

theorem SameFile.nextPc {x y : Stall} (h : SameFile x y) : SameFile (nextPc x) y := by
  unfold Machine.nextPc
  repeat' split
  all_goals exact h

theorem SameFile.countIssue {x y : Stall} (h : SameFile x y) (t : State) (u : Nat) : SameFile (countIssue t u x) y := h

namespace IssueFrame

variable {u : Nat} {a t : State}

theorem refl (u : Nat) (a : State) : IssueFrame u a a where
  mem _ := rfl
  others _ _ := rfl
  file := rfl
  regs _ _ := rfl
  rest := rfl
  events := List.prefix_rfl
  outputs := List.prefix_rfl

theorem setStall (h : IssueFrame u a t) {x : Stall} (hx : SameFile x (stallOf a u)) : IssueFrame u a (setStall u x t) where
  mem := h.mem
  others v hv := (stallOf_setStall_ne t u v x hv).trans (h.others v hv)
  file := by
    rw [stallOf_setStall]
    exact hx
  regs := h.regs
  rest := h.rest
  events := h.events
  outputs := h.outputs

/-- Each of the registers that an issue may change may be set. -/
theorem setFld (h : IssueFrame u a t) (f : RegField) (i v : Nat) (hf : fieldAddr f i ∈ [fieldAddr Fld.SP_ECC_COUNT_CORRECTED 0,
    fieldAddr Fld.SP_ERR_ADDR_ADDR 0, fieldAddr Fld.MEM_STATUS_UE_STICKY 0, fieldAddr Fld.TAP_TOKEN_LATE_COUNT 0]) :
    IssueFrame u a (setFld f i v t) where
  mem := h.mem
  others := h.others
  file := h.file
  regs x hx := (regWord_setFld_ne t f i v x (fun e => hx (e ▸ hf))).trans (h.regs x hx)
  rest := h.rest
  events := h.events
  outputs := h.outputs

theorem raise (h : IssueFrame u a t) (code arg0 arg1 : Nat) : IssueFrame u a (raise code arg0 arg1 t) :=
  { h with events := h.events.trans (List.prefix_append ..) }

theorem ceWords (h : IssueFrame u a t) (l : List Nat) : IssueFrame u a { t with ceWords := l } := { h with }

theorem output (h : IssueFrame u a t) (w : OutWrite) : IssueFrame u a { t with outFlight := t.outFlight ++ [w] } :=
  { h with outputs := h.outputs.trans (List.prefix_append ..) }

/-- The stall of the framed state has the files of the stall before. -/
theorem sameFile (h : IssueFrame u a t) : SameFile (stallOf t u) (stallOf a u) := h.file

theorem orSticky (h : IssueFrame u a t) (k : Nat) : IssueFrame u a (orSticky u k t) := h.setStall h.sameFile

theorem stallFault (h : IssueFrame u a t) : IssueFrame u a (stallFault u t) := h.raise ..

theorem spUe (h : IssueFrame u a t) (w : Nat) : IssueFrame u a (spUe w t) :=
  (((h.setFld Fld.SP_ECC_COUNT_UNCORRECTABLE 0 _ (by decide)).setFld Fld.SP_ERR_ADDR_ADDR 0 w (by decide)).setFld
    Fld.MEM_STATUS_UE_STICKY 0 1 (by decide)).raise ..

theorem eccRead (h : IssueFrame u a t) (ws : List Nat) : IssueFrame u a (eccRead ws t) := by
  refine forEach_inv (P := IssueFrame u a) (fun w t ht => ?_) h
  have hce : IssueFrame u a (if t.ceWords.contains w then countFld Fld.SP_ECC_COUNT_CORRECTED 0 { t with ceWords := t.ceWords.erase w } else t) := by
    split
    · exact (ht.ceWords _).setFld Fld.SP_ECC_COUNT_CORRECTED 0 _ (by decide)
    · exact ht
  dsimp only
  generalize (if t.ceWords.contains w then countFld Fld.SP_ECC_COUNT_CORRECTED 0 { t with ceWords := t.ceWords.erase w } else t) = x at hce
  split
  · exact hce.spUe w
  · exact hce

theorem countLate (h : IssueFrame u a t) (items : List (Nat × Nat)) (v : Nat) : IssueFrame u a (countLate items v t) :=
  forEach_inv (P := IssueFrame u a) (fun b _ ht => (ht.setFld Fld.TAP_TOKEN_LATE_COUNT 0 _ (by decide)).setFld Fld.TAP_TOKEN_LATE_BANK 0 b (by decide)) h

theorem moveOut (h : IssueFrame u a t) (o : Option (Nat × S48)) : IssueFrame u a (moveOut u o t) := by
  unfold Machine.moveOut outputStore
  split
  · split
    · exact h.orSticky _
    · exact h
    · exact h.output _
  · exact h

theorem finishIssue (h : IssueFrame u a t) : IssueFrame u a (finishIssue u t) := h.setStall (h.sameFile.countIssue t u).nextPc

theorem issueIllegal (h : IssueFrame u a t) : IssueFrame u a (issueIllegal u t) := (h.orSticky _).stallFault.finishIssue

theorem enqueue (h : IssueFrame u a t) (w : Writes) : IssueFrame u a (Machine.setStall u (enqueue (stallOf t u) w) t) := h.setStall h.sameFile

end IssueFrame

/-! ### Format A and format C words -/

/-- The state of a legal format A word before its output write and its count: its writes in flight, sticky bits set, reads checked. -/
def readA (u : Nat) (op : BitVec 6) (f : ArithF) (m : MoveF) (s : State) : State :=
  let a := landDue u s
  let r := aluOp a u (seen u s) op f
  let q := moveOp a u (seen u s) m
  let b := eccRead (r.words ++ q.words) (orSticky u (r.sticky ||| q.sticky) (setStall u (enqueue (seen u s) (r.writes ++ q.writes)) a))
  if r.fault || q.fault then countLate (accessItems (seen u s) op f m) u (stallFault u b) else b

theorem issueA_eq {u : Nat} {op : BitVec 6} {f : ArithF} {m : MoveF} {s : State} (hc : canIssue s u = true) (hl : wordALegal op f m = true) :
    issueA u op f m s = finishIssue u (moveOut u (moveOp (landDue u s) u (seen u s) m).out (readA u op f m s)) := by
  unfold issueA
  rw [hc, hl]
  rfl

theorem readA_frame (u : Nat) (op : BitVec 6) (f : ArithF) (m : MoveF) (s : State) : IssueFrame u (landDue u s) (readA u op f m s) := by
  have h := (((IssueFrame.refl u (landDue u s)).enqueue ((aluOp (landDue u s) u (seen u s) op f).writes ++
    (moveOp (landDue u s) u (seen u s) m).writes)).orSticky ((aluOp (landDue u s) u (seen u s) op f).sticky |||
    (moveOp (landDue u s) u (seen u s) m).sticky)).eccRead ((aluOp (landDue u s) u (seen u s) op f).words ++ (moveOp (landDue u s) u (seen u s) m).words)
  unfold readA
  dsimp only
  split
  · exact h.stallFault.countLate _ _
  · exact h

/-- A word of format A, legal or not, keeps its frame. -/
theorem issueA_frame (u : Nat) (op : BitVec 6) (f : ArithF) (m : MoveF) (s : State) :
    issueA u op f m s = s ∨ IssueFrame u (landDue u s) (issueA u op f m s) := by
  by_cases hc : canIssue s u = true
  · refine Or.inr ?_
    by_cases hl : wordALegal op f m = true
    · rw [issueA_eq hc hl]
      exact ((readA_frame u op f m s).moveOut _).finishIssue
    · simp only [issueA, hc, hl]
      exact (IssueFrame.refl u _).issueIllegal
  · simp [issueA, hc]

/-- A word of format C, legal or not, keeps its frame. -/
theorem issueC_frame (u : Nat) (op : BitVec 6) (reg : BitVec 8) (imm : S48) (s : State) :
    issueC u op reg imm s = s ∨ IssueFrame u (landDue u s) (issueC u op reg imm s) := by
  by_cases hc : canIssue s u = true
  · refine Or.inr ?_
    by_cases hl : wordCLegal op reg imm = true
    · simp only [issueC, hc, hl]
      exact (((IssueFrame.refl u _).enqueue _).orSticky _).finishIssue
    · simp only [issueC, hc, hl]
      exact (IssueFrame.refl u _).issueIllegal
  · simp [issueC, hc]

/-- A word that stands for no instruction keeps its frame. -/
theorem illegalWord_frame (u : Nat) (legal : Bool) (s : State) : illegalWord u legal s = s ∨ IssueFrame u (landDue u s) (illegalWord u legal s) := by
  unfold illegalWord
  split
  · exact Or.inl rfl
  · exact Or.inr (IssueFrame.refl u _).issueIllegal

/-- The first two bits of a control word. -/
theorem encode_control_format {i : StallInstr} (ha : ∀ op f m, i ≠ .fmtA op f m) (hc : ∀ op r v, i ≠ .fmtC op r v) :
    (encodeStallWord i).extractLsb' 62 2 = 1#2 := by
  have h := decode_encode i
  unfold decodeStallWord at h
  split at h
  next => exact absurd (Option.some.inj h).symm (ha _ _ _)
  next hfmt => exact (eq_wfield_of_toNat hfmt).symm
  next => exact absurd (Option.some.inj h).symm (hc _ _ _)
  next => cases h

/-- Settles O19: every such command issues a format A word, a format C word or none; a control word has another format. -/
theorem wordFrame : Obligations.WordFrame := by
  intro i u w s hi hfmt
  unfold issuedWord at hi
  split at hi
  all_goals cases hi
  all_goals first
    | exact ⟨_, rfl, issueA_frame ..⟩
    | exact ⟨_, rfl, issueC_frame ..⟩
    | exact ⟨_, rfl, illegalWord_frame ..⟩
    | exact absurd (encode_control_format (by simp) (by simp)) hfmt

/-! ### Stores (R76, R77, R98) -/

/-- The stall that a legal format A word leaves. -/
theorem stallOf_issueA {u : Nat} {op : BitVec 6} {f : ArithF} {m : MoveF} {s : State} (hc : canIssue s u = true) (hl : wordALegal op f m = true) :
    ∃ (b : State) (k : BitVec 11), stallOf (issueA u op f m s) u = nextPc (countIssue b u
      { enqueue (seen u s) ((aluOp (landDue u s) u (seen u s) op f).writes ++ (moveOp (landDue u s) u (seen u s) m).writes) with sticky := k }) := by
  have hread : ∃ k, stallOf (readA u op f m s) u = { enqueue (seen u s) ((aluOp (landDue u s) u (seen u s) op f).writes ++
      (moveOp (landDue u s) u (seen u s) m).writes) with sticky := k } := by
    unfold readA
    dsimp only
    split
    · rw [stallOf_eq (countLate_stalls _ _ _), stallOf_eq (stallFault_stalls _ _), stallOf_eq (eccRead_stalls _ _), orSticky_stall, stallOf_setStall]
      exact ⟨_, rfl⟩
    · rw [stallOf_eq (eccRead_stalls _ _), orSticky_stall, stallOf_setStall]
      exact ⟨_, rfl⟩
  obtain ⟨k, hk⟩ := hread
  obtain ⟨k', hk'⟩ := moveOut_stall u (moveOp (landDue u s) u (seen u s) m).out (readA u op f m s)
  rw [issueA_eq hc hl, stallOf_finishIssue, hk', hk]
  exact ⟨_, _, rfl⟩

theorem nextPc_frameIssues (st : Stall) : (nextPc st).frameIssues = st.frameIssues := by
  unfold nextPc
  repeat' split
  all_goals rfl

/-- What a store whose item lies in memory puts in flight. -/
theorem issueA_store {u a : Nat} {op : BitVec 6} {f : ArithF} {k : BitVec 4} {g : MoveArgs} {s : State} {x : Int} (hc : canIssue s u = true)
    (hl : wordALegal op f ⟨k, g⟩ = true)
    (hr : moveOp (landDue u s) u (seen u s) ⟨k, g⟩ = withPtr (seen u s) ⟨k, g⟩ (moveStore (landDue u s) u (seen u s) k.toNat g))
    (ha : (checkItem (landDue u s) u (formAddr (seen u s) g).addr (moveSize k.toNat)).mem = some a)
    (hx : (storeConv (seen u s) k.toNat g.mreg.toNat).1 = x) :
    Pends u 2 (.mem a (leBytes (moveSize k.toNat) (wrapInt (8 * moveSize k.toNat) x))) s (issueA u op f ⟨k, g⟩ s) :=
  issueA_moveWrite (x := (2, _)) hc hl hr (by simp [moveStore, ha, hx])

/-- A store to the output window puts its output write on its way (R77). -/
theorem issueA_output {u c : Nat} {op : BitVec 6} {f : ArithF} {m : MoveF} {s : State} {e : OutEntry} {x : S48} (hc : canIssue s u = true)
    (hl : wordALegal op f m = true) (ho : (moveOp (landDue u s) u (seen u s) m).out = some (c, x))
    (he : (liveHdr (pagesOf (landDue u s) u)).outs[c]? = some (some e)) :
    ⟨u, (unitOf (landDue u s) u).frame, c, e, x⟩ ∈ (issueA u op f m s).outFlight := by
  have hrest := (readA_frame u op f m s).rest
  have hpages : pagesOf (readA u op f m s) u = pagesOf (landDue u s) u := by
    have h := congrArg State.pages hrest
    exact congrArg (smapGet (fun _ => pagesEmpty) · u) h
  have hunits : unitOf (readA u op f m s) u = unitOf (landDue u s) u := by
    have h := congrArg State.units hrest
    exact congrArg (smapGet (fun _ => unitIdle) · u) h
  rw [issueA_eq hc hl, ho]
  simp only [moveOut, outputStore, hpages, he, ← hunits]
  exact List.mem_append_right _ (List.mem_singleton.mpr rfl)

theorem regSource_d (st : Stall) {n : Nat} (h : classOf n = .d) : regSource st n = some (dReg st n).toInt := if_pos (classOf_eq_d.mp h)

theorem regSource_x (st : Stall) {n : Nat} (h : classOf n = .x) : regSource st n = some (xReg st (n - 0x98)).toInt := by
  obtain ⟨hlo, hhi⟩ := classOf_eq_x.mp h
  simp (disch := omega) only [regSource, if_pos, if_neg]

/-- Settles O16: each store by the value of its kind, ST.S to a channel by its output write, NOP by the absence of writes. -/
theorem storeWords : Obligations.StoreWords := by
  intro st op f g s hc u v n place stores
  have reg : ∀ (k : BitVec 4), wordALegal op f ⟨k, g⟩ = true → k.toNat ≠ 0 → mregOk k.toNat n = true := fun k hl h0 => mregOk_of_legal hl h0
  have stored : ∀ (k : BitVec 4) (y : Int), regSource v n = some y → k.toNat ≠ 4 → k.toNat ≠ 10 → (storeConv v k.toNat n).1 = y := by
    intro k y hy h4 h10
    unfold storeConv
    rw [hy]
    split
    · exact absurd ‹_› h4
    · exact absurd ‹_› h10
    · rfl
  refine ⟨fun hl a ha => ⟨_, rfl, ?_⟩, fun hl a ha => ⟨_, rfl, ?_⟩, fun hl a ha => ⟨_, rfl, ?_⟩, fun x hl hx a ha => ⟨_, rfl, ?_⟩,
    fun hl a ha => ⟨_, rfl, ?_⟩, fun hl a ha => ⟨_, rfl, ?_⟩, fun c e hl hmem hchan he => ⟨_, rfl, ?_⟩, fun hl => ⟨_, rfl, ?_⟩⟩
  · have hd : classOf n = .d := by simpa [mregOk] using reg _ hl (by decide)
    exact issueA_store hc hl rfl ha (stored _ _ (regSource_d v hd) (by decide) (by decide))
  · exact issueA_store hc hl rfl ha rfl
  · have hd : classOf n = .d := by simpa [mregOk] using reg _ hl (by decide)
    exact issueA_store hc hl rfl ha (stored _ _ (regSource_d v hd) (by decide) (by decide))
  · exact issueA_store hc hl rfl ha (stored _ _ hx (by decide) (by decide))
  · exact issueA_store hc hl rfl ha rfl
  · have hx : classOf n = .x := by simpa [mregOk] using reg _ hl (by decide)
    exact issueA_store hc hl rfl ha (stored _ _ (regSource_x v hx) (by decide) (by decide))
  · have hd : classOf n = .d := by simpa [mregOk] using reg _ hl (by decide)
    refine issueA_output hc hl ?_ he
    have hval := stored 2 _ (regSource_d v hd) (by decide) (by decide)
    have hout : (moveStore (landDue u s) u v 2 g).out = some (c, BitVec.ofInt 48 (storeConv v 2 n).1) := by
      simp [moveStore, moveSize, show (checkItem (landDue u s) u (formAddr v g).addr 8).mem = none from hmem,
        show (checkItem (landDue u s) u (formAddr v g).addr 8).chan = some c from hchan, n]
    refine hout.trans ?_
    rw [show storeConv v 2 n = storeConv v (2 : BitVec 4).toNat n from rfl, hval, BitVec.ofInt_toInt]
  · refine ⟨?_, (issueA_spec hc hl).2.1, ?_⟩
    · rw [issueA_inflight_noMove hc hl rfl]
      exact List.append_nil _
    · obtain ⟨b, k, hk⟩ := stallOf_issueA hc hl
      rw [hk, nextPc_frameIssues]
      rfl

/-! ### Stores as they land (R67, R69) -/

@[simp] theorem memByte_forwardWrite (a n : Nat) (s : State) (x : Nat) : memByte (forwardWrite a n s) x = memByte s x := by
  unfold forwardWrite
  repeat' split
  all_goals rfl

/-- A byte that a write does not name reads as before. -/
theorem memByte_memWrite_outside (a : Nat) (bs : List Byte) (s : State) {x : Nat} (h : ¬ (a ≤ x ∧ x < a + bs.length)) :
    memByte (memWrite a bs s) x = memByte s x := by
  unfold memWrite
  rw [memByte_forwardWrite]
  split
  · rw [memByte_memPoke, if_neg h]
  · have hkeep : ∀ (l : List (Byte × Nat)) (m : List Host.Cell), (∀ y ∈ l, y.2 < bs.length) → smapGet memDefault
        (l.foldl (fun m y => if inAreas (heldAreas s) (a + y.2) then m else memPut (a + y.2) y.1 m) m) x = smapGet memDefault m x := by
      intro l
      induction l with
      | nil => intro m _; rfl
      | cons y l ih =>
        intro m hl
        have hy : y.2 < bs.length := hl y (List.mem_cons_self ..)
        rw [List.foldl_cons, ih _ (fun z hz => hl z (List.mem_cons_of_mem _ hz))]
        split
        · rfl
        · exact smapGet_set_ne _ _ _ (by omega)
    exact hkeep _ _ fun y hy => List.mem_range.mp (List.of_mem_zip hy).2

/-- What each thing of a list to do leaves unchanged stays unchanged over the list. -/
theorem forEach_keeps_mem {α β : Type} (get : State → β) (l : List α) (f : α → State → State) (hf : ∀ a ∈ l, ∀ s, get (f a s) = get s) (s : State) :
    get (forEach l f s) = get s := by
  unfold forEach
  induction l generalizing s with
  | nil => rfl
  | cons a t ih => rw [List.foldl_cons, ih (fun b hb => hf b (List.mem_cons_of_mem _ hb)), hf a (List.mem_cons_self ..)]

@[simp] theorem memByte_countFld (f : RegField) (i : Nat) (s : State) (x : Nat) : memByte (countFld f i s) x = memByte s x := rfl

/-- The areas held back are read from the register space and the pair's state alone. -/
theorem heldAreas_congr {s t : State} (hregs : t.regs = s.regs) (hpair : t.pair = s.pair) (hareas : t.liveAreas = s.liveAreas)
    (hlive : t.liveRegs = s.liveRegs) : heldAreas t = heldAreas s := by
  simp only [heldAreas, fld, regWord, areaStalls, areasOf, hregs, hpair, hareas, hlive]
  rfl

theorem memByte_eccWrite_outside (a : Nat) (bs : List Byte) (s : State) {x : Nat} (h : ¬ (a ≤ x ∧ x < a + bs.length)) :
    memByte (eccWrite a bs s) x = memByte s x := by
  unfold eccWrite
  dsimp only
  split
  · exact memByte_memWrite_outside a bs _ h
  · rw [forEach_keeps (memByte · x) _ _ (fun w s => by split <;> exact memByte_countFld ..)]
    refine forEach_keeps_mem (memByte · x) _ _ (fun y hy s => ?_) _
    have hlt : y.2 < bs.length := List.mem_range.mp (List.of_mem_zip hy).2
    split
    · rfl
    · exact memByte_memWrite_outside _ _ _ (by simp only [List.length_singleton]; omega)

/-- Bytes written into sound memory that no shadow pair holds back read back. -/
theorem memBytes_eccWrite {a : Nat} {bs : List Byte} {s : State} (hue : ueHit s (wordsOf a bs.length) = false) (hheld : heldAreas s = []) :
    memBytes (eccWrite a bs s) a bs.length = bs := by
  have hbad : (wordsOf a bs.length).filter (fun w => s.ueWords.contains w) = [] := by
    rw [List.filter_eq_nil_iff]
    intro w hw
    rw [ueHit, List.any_eq_false] at hue
    exact hue w hw
  have hpoke : ∀ x, memByte (eccWrite a bs s) x = if a ≤ x ∧ x < a + bs.length then bs.getD (x - a) 0 else memByte s x := by
    intro x
    have hareas : heldAreas { s with ceWords := s.ceWords.filter (fun w => !decide (a ≤ w ∧ w + 8 ≤ a + bs.length)) } = [] :=
      Eq.trans (heldAreas_congr (s := s) rfl rfl rfl rfl) hheld
    simp only [eccWrite, hbad, List.isEmpty_nil, if_true, memWrite, hareas, memByte_forwardWrite]
    exact memByte_memPoke _ a bs x
  refine List.ext_getElem (by simp [memBytes]) fun i hi hi' => ?_
  simp [memBytes, hpoke, hi']

/-- Settles O18: bytes outside by `memByte_eccWrite_outside` for each store that lands, the stored bytes by `memBytes_eccWrite`. -/
theorem storesLand : Obligations.StoresLand := by
  refine ⟨fun u s x h => ?_, fun u a bs s hdue hue hheld => ?_⟩
  · refine forEach_keeps_mem (memByte · x) _ _ (fun w hw t => ?_) _
    obtain ⟨hin, hle⟩ := List.mem_filter.mp hw
    split
    next a bs hwhat => exact memByte_eccWrite_outside a bs t (h w hin (of_decide_eq_true hle) a bs hwhat)
    next => rfl
  · rw [landDue, landTo, landList, hdue]
    exact memBytes_eccWrite hue (Eq.trans (heldAreas_congr (s := s) rfl rfl rfl rfl) hheld)

end Sys2Proof.Machine

/-!
# The stall's control words: branches, loops, event flags and the exchange
-/

namespace Sys2Proof.Machine

/-! ### What landing writes leave alone -/

/-- The state without the parts that a landing write may change. -/
def beyondLanding (s : State) : State :=
  { s with stalls := [], regs := [], mem := [], ceWords := [], ueWords := [], pair := State.reset.pair }

theorem beyondLanding_memWrite (a : Nat) (bs : List Byte) (s : State) : beyondLanding (memWrite a bs s) = beyondLanding s := by
  unfold memWrite forwardWrite
  dsimp only
  repeat' split
  all_goals rfl

theorem beyondLanding_countFld (f : RegField) (i : Nat) (s : State) : beyondLanding (countFld f i s) = beyondLanding s := rfl

theorem beyondLanding_eccWrite (a : Nat) (bs : List Byte) (s : State) : beyondLanding (eccWrite a bs s) = beyondLanding s := by
  unfold eccWrite
  dsimp only
  split
  · exact beyondLanding_memWrite a bs _
  · rw [forEach_keeps beyondLanding _ _ (fun w s => by split <;> exact beyondLanding_countFld _ _ s)]
    refine forEach_keeps beyondLanding _ _ (fun x s => ?_) _
    split
    · rfl
    · exact beyondLanding_memWrite _ _ s

theorem beyondLanding_landTo (u i : Nat) (s : State) : beyondLanding (landTo u i s) = beyondLanding s := by
  refine (forEach_keeps beyondLanding _ _ (fun w s => ?_) _).trans rfl
  split
  · exact beyondLanding_eccWrite _ _ s
  · rfl

theorem landDue_posts (u : Nat) (s : State) : (landDue u s).posts = s.posts := by
  have h := congrArg State.posts (beyondLanding_landTo u (stallOf s u).issueNo s)
  exact h

theorem landDue_frame (u : Nat) (s : State) : (landDue u s).frame = s.frame := by
  have h := congrArg State.frame (beyondLanding_landTo u (stallOf s u).issueNo s)
  exact h

theorem landDue_pages (u : Nat) (s : State) : (landDue u s).pages = s.pages := by
  have h := congrArg State.pages (beyondLanding_landTo u (stallOf s u).issueNo s)
  exact h

theorem pagesOf_landDue (u v : Nat) (s : State) : pagesOf (landDue u s) v = pagesOf s v := by
  unfold pagesOf
  rw [landDue_pages]

theorem memWrite_stalls (a : Nat) (bs : List Byte) (s : State) : (memWrite a bs s).stalls = s.stalls := by
  unfold memWrite forwardWrite
  dsimp only
  repeat' split
  all_goals rfl

theorem eccWrite_stalls (a : Nat) (bs : List Byte) (s : State) : (eccWrite a bs s).stalls = s.stalls := by
  unfold eccWrite
  dsimp only
  split
  · exact memWrite_stalls a bs _
  · rw [forEach_keeps State.stalls _ _ (fun w s => by split <;> exact countFld_stalls _ _ s)]
    refine forEach_keeps State.stalls _ _ (fun x s => ?_) _
    split
    · rfl
    · exact memWrite_stalls _ _ s

/-- Landing writes of one stall leave every other stall as it is. -/
theorem stallOf_landTo_ne {u v : Nat} (i : Nat) (s : State) (h : v ≠ u) : stallOf (landTo u i s) v = stallOf s v := by
  refine (forEach_keeps (stallOf · v) _ _ (fun w s => ?_) _).trans (stallOf_setStall_ne s u v _ h)
  split
  · exact stallOf_eq (eccWrite_stalls _ _ s) v
  · exact stallOf_setStall_ne s u v _ h

theorem stallOf_landDue_ne {u v : Nat} (s : State) (h : v ≠ u) : stallOf (landDue u s) v = stallOf s v := stallOf_landTo_ne _ s h

/-! ### How a stall and its unit record change together -/

/-- What an issue counts depends on registers and mode alone. -/
theorem countIssue_congr {a b : State} (hregs : a.regs = b.regs) (hmode : a.mode = b.mode) (u : Nat) (x : Stall) :
    countIssue a u x = countIssue b u x := by
  unfold countIssue haltAllowed arrayRuns fbit fld regWord
  rw [hregs, hmode]

theorem Becomes.of_eq {u : Nat} {w : Stall} {r : UnitRec} {a : State} (hw : stallOf a u = w) (hr : unitOf a u = r) : Becomes u w r a a :=
  hw ▸ hr ▸ Becomes.refl u a

theorem Becomes.setUnit {u : Nat} {w : Stall} {r : UnitRec} {a t : State} (h : Becomes u w r a t) (x : UnitRec) :
    Becomes u w x a (setUnit u x t) where
  stall := h.stall
  unit := unitOf_setUnit t u x
  others v hv := ⟨(h.others v hv).1, (unitOf_setUnit_ne t u v x hv).trans (h.others v hv).2⟩
  rest := h.rest

theorem Becomes.finishIssue {u : Nat} {w : Stall} {r : UnitRec} {a t : State} (h : Becomes u w r a t) :
    Becomes u (nextPc (countIssue a u w)) r a (finishIssue u t) := by
  rw [Machine.finishIssue, h.stall, h.countIssue_eq]
  exact h.setStall _

theorem Becomes.blockAt {u : Nat} {w : Stall} {r : UnitRec} {a t : State} (h : Becomes u w r a t) (b : Blocked) (k : UnitState) :
    Becomes u { countIssue a u w with blocked := some b } { r with st := k } a (blockAt u b k t) := by
  rw [Machine.blockAt, h.stall, h.unit, h.countIssue_eq]
  exact (h.setStall _).setUnit _

theorem Becomes.unblock {u : Nat} {w : Stall} {r : UnitRec} {a t : State} (h : Becomes u w r a t) :
    Becomes u (nextPc { w with blocked := none, haltPending := w.haltPending || w.stepping, stepping := false }) { r with st := .running } a
      (unblock u t) := by
  rw [Machine.unblock, h.stall, h.unit]
  exact (h.setStall _).setUnit _

/-- Control moves on as the program counter, the delay slots and the loop say; the rest of the stall stays. -/
theorem nextPc_eq (st : Stall) : nextPc st = { st with
    pc := (nextPc { stallReset with pc := st.pc, delay := st.delay, loop := st.loop }).pc,
    delay := (nextPc { stallReset with pc := st.pc, delay := st.delay, loop := st.loop }).delay,
    loop := (nextPc { stallReset with pc := st.pc, delay := st.delay, loop := st.loop }).loop } := by
  unfold nextPc
  repeat' split
  all_goals simp_all

/-! ### BR (R70, R103) -/

theorem nextPc_second_slot (st : Stall) (t : Option PcAddr) :
    nextPc { st with delay := some ⟨2, t⟩ } = { st with pc := st.pc + 1, delay := some ⟨1, t⟩ } := rfl

theorem nextPc_last_slot (st : Stall) (t : Option PcAddr) :
    nextPc { st with delay := some ⟨1, t⟩ } = { st with pc := t.getD (st.pc + 1), delay := none } := rfl

/-- The thirteen conditions in their order. -/
def conditions (v : Stall) : List Bool :=
  [true, v.z, !v.z, v.n, !v.n, v.v, !v.v, !v.z && !v.n, v.z || v.n, v.fillrx, !v.fillrx, v.evskip, !v.evskip]

theorem condHolds_eq (v : Stall) (c : BitVec 4) : condHolds v c.toNat = (conditions v)[c.toNat]? := by
  obtain ⟨n, hn⟩ : ∃ n, n = c.toNat := ⟨_, rfl⟩
  have hlt : n < 16 := hn ▸ c.isLt
  rw [← hn]
  have hall : n = 0 ∨ n = 1 ∨ n = 2 ∨ n = 3 ∨ n = 4 ∨ n = 5 ∨ n = 6 ∨ n = 7 ∨ n = 8 ∨ n = 9 ∨ n = 10 ∨ n = 11 ∨ n = 12 ∨ n = 13 ∨ n = 14 ∨ n = 15 := by
    omega
  rcases hall with rfl | rfl | rfl | rfl | rfl | rfl | rfl | rfl | rfl | rfl | rfl | rfl | rfl | rfl | rfl | rfl <;> rfl

theorem ctlBr_eq {u : Nat} {cond : BitVec 4} {s : State} {b : Bool} (hc : canIssue s u = true) (hp : ctlPlace (seen u s) = true)
    (hb : condHolds (seen u s) cond.toNat = some b) (target : PcAddr) :
    ctlBr u cond target s = finishControl u (if b then some target else none) (landDue u s) := by
  rw [ctlBr, issueB_legal _ hc (by simp [hp, hb])]
  change finishControl u (if condHolds (seen u s) cond.toNat = some true then _ else _) _ = _
  rw [hb]
  cases b <;> rfl

theorem add_one_twice (p : PcAddr) : p + 1 + 1 = p + 2 := by rw [BitVec.add_assoc]; rfl

theorem add_one_thrice (p : PcAddr) : p + 1 + 1 + 1 = p + 3 := by rw [add_one_twice, BitVec.add_assoc]; rfl

/-- Settles O20: BR by `ctlBr_eq`, the two delay slots by their two steps of `nextPc`, the conditions by their list. -/
theorem branchWords : Obligations.BranchWords := by
  intro st c target s b hc hp hb v after
  refine ⟨?_, ?_, ?_, ?_, ?_⟩
  · exact congrArg Host.Outcome.next (ctlBr_eq hc hp hb target)
  · exact add_one_twice v.pc
  · cases b
    · exact add_one_thrice v.pc
    · rfl
  · rfl
  · rw [condHolds_eq] at hb
    exact (List.getD_eq_getElem?_getD ..).trans (congrArg (Option.getD · false) hb) |>.symm

/-! ### REPEAT, the end of an iteration and ROT (R71, R74) -/

/-- A stall halted at the end of an iteration. -/
def haltedAtLoopEnd : Stall := { stallReset with halted := true, loop := some ⟨0, 1, 1, false, true⟩ }

/-- Refutes O22: a halted stall takes no iteration end, and the clause of the iteration end leaves halted stalls in. The state after reset with stall 0 halted
at the end of the last iteration of a loop stays as it is, where the statement says that the loop is left. -/
theorem not_loopsAndRotation : ¬ Obligations.LoopsAndRotation := by
  intro h
  let st : StallId := ⟨0, by decide⟩
  let s : State := setStall 0 haltedAtLoopEnd State.reset
  have hst : stallOf s 0 = haltedAtLoopEnd := stallOf_setStall ..
  obtain ⟨-, hend, -⟩ := h st s
  have hleft := hend ⟨0, 1, 1, false, true⟩ (congrArg Stall.loop hst) rfl
  have hstays : exec (.repeatIterationEnd st) s = .next s := by
    refine congrArg Host.Outcome.next ?_
    change iterationEnd 0 s = s
    rw [iterationEnd, hst]
    rfl
  have hsame := Host.Outcome.next.inj (hstays.symm.trans hleft)
  have hloop := congrArg (fun t => (stallOf t 0).loop) hsame
  dsimp only at hloop
  rw [hst, stallOf_setStall] at hloop
  exact Option.some_ne_none _ (show haltedAtLoopEnd.loop = none from hloop)

/-! ### WAIT, SIGNAL and the arrival of a post (R41, R43, R85, R86) -/

theorem ctlWait_set {u : Nat} {flag : BitVec 4} {s : State} (hc : canIssue s u = true) (hp : blockPlace (seen u s) = true)
    (he : (efOf (seen u s) flag.toNat).set = true) : ctlWait u flag s = finishIssue u (consumeFlag u flag.toNat (landDue u s)) := by
  rw [ctlWait, issueB_legal _ hc hp]
  exact if_pos he

theorem ctlWait_clear {u : Nat} {flag : BitVec 4} {s : State} (hc : canIssue s u = true) (hp : blockPlace (seen u s) = true)
    (he : (efOf (seen u s) flag.toNat).set = false) : ctlWait u flag s = blockAt u (.wait flag.toNat) .waitEvent (landDue u s) := by
  rw [ctlWait, issueB_legal _ hc hp]
  exact if_neg (fun h => Bool.false_ne_true (he.symm.trans h))

theorem Becomes.consumeFlag {u : Nat} {w : Stall} {r : UnitRec} {a t : State} (h : Becomes u w r a t) (i : Nat) :
    Becomes u { setEf i flagClear w with evskip := (efOf w i).skip } r a (consumeFlag u i t) := by
  rw [Machine.consumeFlag, h.stall]
  exact h.setStall _

theorem nextPc_setEf (i : Nat) (e : EventFlag) (skip : Bool) (st : Stall) :
    nextPc { setEf i e st with evskip := skip } = setEf i e { nextPc st with evskip := skip } := by
  rw [nextPc_eq, nextPc_eq st]
  rfl

theorem nextPc_signalsMade (l : List (Nat × Nat)) (st : Stall) :
    nextPc { st with signalsMade := l } = { nextPc st with signalsMade := l } := by
  rw [nextPc_eq, nextPc_eq st]

/-- The discard count is none of the registers that an issue reads. -/
theorem countIssue_countDiscard (s : State) (u : Nat) (x : Stall) : countIssue (countDiscard s) u x = countIssue s u x := by
  have hfld : ∀ g : RegField, fieldAddr g 0 ≠ fieldAddr Fld.FG_DISCARD_COUNT_COUNT 0 → fld (countDiscard s) g 0 = fld s g 0 := fun g hg =>
    fld_setFld_other _ _ g 0 0 _ hg
  have hmode : (countDiscard s).mode = s.mode := rfl
  simp only [countIssue, haltAllowed, arrayRuns, fbit, hmode, hfld Fld.DBG_SEL_STALL (by decide), hfld Fld.DBG_BREAK_EN (by decide),
    hfld Fld.DBG_BREAK_ADDR (by decide), hfld Fld.DBG_CTRL_RUN_HALT_EN (by decide)]

section
variable {u : Nat} {unit : BitVec 11} {flag : BitVec 4} {s : State} (hc : canIssue s u = true) (hu : unit.toNat < 1152)
include hc hu

theorem ctlSignal_late (h : (unitOf s u).frame + 2 ≤ s.frame) :
    ctlSignal u unit flag s = finishIssue u (countDiscard (landDue u s)) := by
  have hstale : stale (landDue u s) u = true := by simp [stale, unitOf_landDue, landDue_frame, h]
  rw [ctlSignal, issueB_legal _ hc (decide_eq_true hu)]
  exact if_pos hstale

/-- A SIGNAL in time: the post goes on its way, and the stall notes that it has made it. -/
theorem ctlSignal_inTime (h : s.frame < (unitOf s u).frame + 2) : ctlSignal u unit flag s =
    finishIssue u (setStall u { seen u s with signalsMade := (unit.toNat, flag.toNat) :: (seen u s).signalsMade }
      (sendPost ⟨unit.toNat, flag.toNat, false, tagFor s u (liveHdr (pagesOf s u)).signals unit.toNat flag.toNat⟩ (landDue u s))) := by
  have hstale : stale (landDue u s) u = false := by simp [stale, unitOf_landDue, landDue_frame, h]
  have htag : tagFor (landDue u s) u (liveHdr (pagesOf (landDue u s) u)).signals unit.toNat flag.toNat =
      tagFor s u (liveHdr (pagesOf s u)).signals unit.toNat flag.toNat := by
    rw [pagesOf_landDue, tagFor, unitOf_landDue]
    rfl
  rw [ctlSignal, issueB_legal _ hc (decide_eq_true hu), ← htag]
  exact if_neg (fun hs => Bool.false_ne_true (hstale.symm.trans hs))
end

/-- The first element that meets `p` stands behind those that do not. -/
theorem findIdx?_first {α : Type} {p : α → Bool} {before after : List α} {x : α} (hb : ∀ y ∈ before, p y = false) (hx : p x = true) :
    (before ++ x :: after).findIdx? p = some before.length := by
  rw [List.findIdx?_append, List.findIdx?_eq_none_iff.mpr hb]
  simp [List.findIdx?_cons, hx]

theorem eraseIdx_middle {α : Type} (before after : List α) (x : α) : (before ++ x :: after).eraseIdx before.length = before ++ after := by
  simp [List.eraseIdx_append_of_length_le]

/-- The first post to a flag is taken off its way and delivered. -/
theorem postArrival_first {unit flag : Nat} {s : State} {p : Post} {before after : List Post} (hposts : s.posts = before ++ p :: after)
    (hb : ∀ q ∈ before, ¬ (q.unit = unit ∧ q.flag = flag)) (hu : p.unit = unit) (hf : p.flag = flag) :
    postArrival unit flag s = deliverPost p { s with posts := before ++ after } := by
  have hfind : (before ++ p :: after).findIdx? (fun p => decide (p.unit = unit ∧ p.flag = flag)) = some before.length :=
    findIdx?_first (fun q hq => decide_eq_false (hb q hq)) (decide_eq_true ⟨hu, hf⟩)
  simp only [postArrival, hposts, hfind, List.getElem?_append_right (Nat.le_refl _), Nat.sub_self, List.getElem?_cons_zero,
    eraseIdx_middle]

theorem deliverPost_stall {p : Post} {s : State} (hu : p.unit < 1024) (ht : tagSkipped (unitOf s p.unit) p.tag = false) :
    deliverPost p s = stallFlag p.unit p s := by
  rw [deliverPost, if_neg (by rw [ht]; exact Bool.false_ne_true), if_pos hu]

/-- Settles O23: by the equations of WAIT, SIGNAL and the arrival of a post, each of which changes the stall in one step. -/
theorem eventFlags : Obligations.EventFlags := by
  intro st flag s u v a r e
  have hland := becomes_landDue u s
  refine ⟨fun hc hp he => ⟨_, rfl, ?_⟩, fun hc hp he => ⟨_, rfl, ?_⟩, fun f hb hh he => ⟨_, rfl, ?_⟩, fun unit hc hu hf => ⟨_, rfl, ?_, ?_⟩,
    fun unit hc hu hf => ⟨_, rfl, ?_⟩, fun unit p before after hu hposts hbefore hpu hpf ht => ⟨fun he => ?_, fun he => ⟨_, rfl, ?_⟩⟩⟩
  · rw [ctlWait_set hc hp he]
    have h := (hland.consumeFlag flag.toNat).finishIssue
    rw [show countIssue (landDue u s) u _ = setEf flag.toNat flagClear { counted u s with evskip := e.skip } from rfl] at h
    exact nextPc_setEf flag.toNat flagClear e.skip (counted u s) ▸ h
  · rw [ctlWait_clear hc hp he]
    exact hland.blockAt _ _
  · have hdone : waitComplete u s = unblock u (consumeFlag u f s) := by
      simp [waitComplete, hb, hh, he]
    rw [hdone]
    exact ((Becomes.refl u s).consumeFlag f).unblock
  · rw [ctlSignal_inTime hc hu hf]
    let b := sendPost ⟨unit.toNat, flag.toNat, false, tagFor s u (liveHdr (pagesOf s u)).signals unit.toNat flag.toNat⟩ a
    have hsent : Becomes u v r b b := Becomes.of_eq rfl (unitOf_landDue u u s)
    have h := (hsent.setStall { v with signalsMade := (unit.toNat, flag.toNat) :: v.signalsMade }).finishIssue
    exact nextPc_signalsMade ((unit.toNat, flag.toNat) :: v.signalsMade) (counted u s) ▸ h
  · rw [ctlSignal_inTime hc hu hf]
    exact congrArg (· ++ [_]) (landDue_posts u s)
  · rw [ctlSignal_late hc hu hf]
    have hdropped : Becomes u v r (countDiscard a) (countDiscard a) := Becomes.of_eq rfl (unitOf_landDue u u s)
    have h := hdropped.finishIssue
    rw [countIssue_countDiscard] at h
    exact h
  · refine congrArg Host.Outcome.next ?_
    rw [postArrival_first hposts hbefore hpu hpf, deliverPost_stall (hpu ▸ hu) (hpu ▸ ht), stallFlag, hpu, hpf]
    exact if_neg (fun h => Bool.false_ne_true (he.symm.trans h))
  · rw [postArrival_first hposts hbefore hpu hpf, deliverPost_stall (hpu ▸ hu) (hpu ▸ ht), stallFlag, hpu, hpf]
    rw [if_pos (show (efOf (stallOf { s with posts := before ++ after } unit.toNat) flag.toNat).set = true from he)]
    refine ⟨?_, ?_, ?_⟩
    · rw [stallOf_eq (stallFault_stalls _ _), orSticky_stall]
      rfl
    · rw [Stuck, stallOf_eq (stallFault_stalls _ _), orSticky_stall, BitVec.getLsbD_or]
      exact Bool.or_true _
    · exact List.map_append ..

end Sys2Proof.Machine

/-!
# The exchange: SEND, the arrival of a sample, RECV
-/

namespace Sys2Proof.Machine

/-! ### Slots -/

@[simp] theorem slotOf_setSlot (i : Nat) (q : ExchSlot) (st : Stall) : slotOf (setSlot i q st) i = q := smapGet_set_self ..

theorem nextPc_slots (st : Stall) : (nextPc st).slots = st.slots := by rw [nextPc_eq]

theorem slotOf_nextPc (st : Stall) (i : Nat) : slotOf (nextPc st) i = slotOf st i := by
  unfold slotOf
  rw [nextPc_slots]

/-- With no one waiting a slot needs no fill moved in. -/
theorem pumpFills_none (q : ExchSlot) (h : q.waiters = []) : pumpFills q.waiters.length q = q := by rw [h]; rfl

/-- Fills that move in leave the entries before them where they are. -/
theorem mem_pumpFills {x : ExchEntry} (n : Nat) (q : ExchSlot) (h : x ∈ q.entries) : x ∈ (pumpFills n q).entries := by
  induction n generalizing q with
  | zero => exact h
  | succ n ih =>
    rw [pumpFills]
    split
    · split
      · exact ih _ (List.mem_append_left _ h)
      · exact h
    · exact h

theorem nextPc_sendsMade (l : List (Nat × Nat)) (st : Stall) :
    nextPc { st with sendsMade := l } = { nextPc st with sendsMade := l } := by
  rw [nextPc_eq, nextPc_eq st]

/-! ### SEND (R82) -/

section
variable {u : Nat} {unit : BitVec 11} {slot : BitVec 4} {dsrc : BitVec 6} {s : State} (hc : canIssue s u = true)
  (hp : blockPlace (seen u s) = true) (hu : unit.toNat < 1024) (hf : s.frame < (unitOf s u).frame + 2) (hne : unit.toNat ≠ u)
include hc hp hu hf hne

theorem ctlSend_taken (hlen : (slotOf (stallOf s unit.toNat) slot.toNat).entries.length < 8)
    (hw : (slotOf (stallOf s unit.toNat) slot.toNat).waiters = []) : ctlSend u unit slot dsrc s =
    finishIssue u (noteSend u unit.toNat slot.toNat (takeEntry unit.toNat slot.toNat (dReg (seen u s) dsrc.toNat)
      (tagFor s u (liveHdr (pagesOf s u)).sends unit.toNat slot.toNat) (landDue u s))) := by
  have hstale : ¬ stale (landDue u s) u = true := by simp [stale, unitOf_landDue, landDue_frame, hf]
  have hq := stallOf_landDue_ne s hne
  rw [ctlSend, issueB_legal _ hc (by simp [hp, hu])]
  dsimp only
  rw [if_neg hstale, hq, if_pos ⟨hlen, hw⟩, pagesOf_landDue, tagFor, unitOf_landDue]
  rfl

theorem ctlSend_blocked (hlen : 8 ≤ (slotOf (stallOf s unit.toNat) slot.toNat).entries.length) : ctlSend u unit slot dsrc s =
    blockAt u (.send unit.toNat slot.toNat (dReg (seen u s) dsrc.toNat)) .waitSend
      (setStall unit.toNat (setSlot slot.toNat { slotOf (stallOf s unit.toNat) slot.toNat with
        waiters := (slotOf (stallOf s unit.toNat) slot.toNat).waiters ++ [.sender u] } (stallOf s unit.toNat)) (landDue u s)) := by
  have hstale : ¬ stale (landDue u s) u = true := by simp [stale, unitOf_landDue, landDue_frame, hf]
  have hq := stallOf_landDue_ne s hne
  rw [ctlSend, issueB_legal _ hc (by simp [hp, hu])]
  dsimp only
  rw [if_neg hstale, hq, if_neg (fun h => Nat.not_lt.mpr hlen h.1)]
  rfl
end

theorem stallOf_takeEntry (v slot : Nat) (x : S48) (tag : BitVec 5) (s : State) : stallOf (takeEntry v slot x tag s) v =
    setSlot slot { slotOf (stallOf s v) slot with entries := (slotOf (stallOf s v) slot).entries ++ [⟨x, false, tag, false⟩], last := x, run := 0 }
      (stallOf s v) :=
  stallOf_setStall ..

theorem stallOf_takeEntry_ne {u v : Nat} (slot : Nat) (x : S48) (tag : BitVec 5) (s : State) (h : u ≠ v) :
    stallOf (takeEntry v slot x tag s) u = stallOf s u :=
  stallOf_setStall_ne _ _ _ _ h

theorem stallOf_noteSend (u v slot : Nat) (s : State) :
    stallOf (noteSend u v slot s) u = { stallOf s u with sendsMade := (v, slot) :: (stallOf s u).sendsMade } :=
  stallOf_setStall ..

theorem stallOf_noteSend_ne {u w : Nat} (v slot : Nat) (s : State) (h : w ≠ u) : stallOf (noteSend u v slot s) w = stallOf s w :=
  stallOf_setStall_ne _ _ _ _ h

theorem stallOf_finishIssue_ne {u w : Nat} (s : State) (h : w ≠ u) : stallOf (finishIssue u s) w = stallOf s w :=
  stallOf_setStall_ne _ _ _ _ h

theorem stallOf_dropWaiter_ne {u w : Nat} (v slot : Nat) (s : State) (h : w ≠ v) : stallOf (dropWaiter v slot u s) w = stallOf s w :=
  stallOf_setStall_ne _ _ _ _ h

theorem stallOf_unblock (u : Nat) (s : State) : stallOf (unblock u s) u = nextPc { stallOf s u with
    blocked := none, haltPending := (stallOf s u).haltPending || (stallOf s u).stepping, stepping := false } :=
  stallOf_setStall ..

theorem stallOf_unblock_ne {u w : Nat} (s : State) (h : w ≠ u) : stallOf (unblock u s) w = stallOf s w :=
  stallOf_setStall_ne _ _ _ _ h

theorem unitOf_unblock (u : Nat) (s : State) : unitOf (unblock u s) u = { unitOf s u with st := .running } := unitOf_setUnit ..

theorem unitOf_takeEntry (v slot : Nat) (x : S48) (tag : BitVec 5) (s : State) (u : Nat) : unitOf (takeEntry v slot x tag s) u = unitOf s u := rfl

/-- An entry stays in its slot while a waiting sender is taken out of the slot's wait. -/
theorem mem_entries_dropWaiter {x : ExchEntry} {v slot u : Nat} {s : State} (h : x ∈ (slotOf (stallOf s v) slot).entries) :
    x ∈ (slotOf (stallOf (dropWaiter v slot u s) v) slot).entries := by
  rw [dropWaiter, stallOf_setStall, slotOf_setSlot]
  exact mem_pumpFills _ _ h

/-! ### RECV (R82) -/

theorem ledgerAdd_stalls (stream : Option Nat) (e d : Nat) (cause : Option (Nat × Nat)) (s : State) :
    (ledgerAdd stream e d cause s).stalls = s.stalls := by
  unfold ledgerAdd
  split
  · rfl
  · dsimp only
    split <;> rfl

theorem ledgerAdd_units (stream : Option Nat) (e d : Nat) (cause : Option (Nat × Nat)) (s : State) :
    (ledgerAdd stream e d cause s).units = s.units := by
  unfold ledgerAdd
  split
  · rfl
  · dsimp only
    split <;> rfl

/-- What a stall is once the head entry `e` of a slot that no one waits for is popped: the entry's sample and FILLRX are on their way. -/
def popped (slot : Nat) (ddst : BitVec 6) (e : ExchEntry) (rest : List ExchEntry) (back : Nat) (st : Stall) : Stall :=
  { setSlot slot { slotOf st slot with entries := rest, waiters := [] } st with
    inflight := st.inflight ++ [⟨st.issueNo - back + 2, .d (physD st.rb ddst.toNat) e.sample⟩, ⟨st.issueNo - back + 2, .fillrx e.fill⟩]
    sticky := st.sticky ||| (if e.fill then BitVec.ofNat 11 stkFillRx else 0) }

section
variable {slot : Nat} {e : ExchEntry} {rest : List ExchEntry}

theorem recvHead_here {st : Stall} (he : (slotOf st slot).entries = e :: rest) (hh : e.here = true) : recvHead st slot = some e := by
  simp [recvHead, he, hh]

theorem recvHead_empty {st : Stall} (he : (slotOf st slot).entries = []) : recvHead st slot = none := by
  simp [recvHead, he]

theorem stallOf_popEntry {u : Nat} {s : State} (he : (slotOf (stallOf s u) slot).entries = e :: rest)
    (hw : (slotOf (stallOf s u) slot).waiters = []) (ddst : BitVec 6) (back : Nat) :
    stallOf (popEntry u slot ddst e back s) u = popped slot ddst e rest back (stallOf s u) := by
  have hdrop : (slotOf (stallOf s u) slot).entries.drop 1 = rest := by rw [he]; rfl
  simp only [popEntry, stallOf_eq (ledgerAdd_stalls _ _ _ _ _), hw, List.length_nil, pumpFills, hdrop]
  cases hfill : e.fill
  · simp [popped, hfill, setSlot]
  · simp [popped, hfill, setSlot, orSticky_stall]
end

/-- Popping an entry changes no unit record. -/
theorem popEntry_units (u slot : Nat) (ddst : BitVec 6) (e : ExchEntry) (back : Nat) (s : State) :
    (popEntry u slot ddst e back s).units = s.units := by
  simp only [popEntry, ledgerAdd_units]
  cases e.fill <;> rfl

/-- Popping an entry changes no register and not the mode. -/
theorem popEntry_regs (u slot : Nat) (ddst : BitVec 6) (e : ExchEntry) (back : Nat) (s : State) :
    (popEntry u slot ddst e back s).regs = s.regs ∧ (popEntry u slot ddst e back s).mode = s.mode := by
  have hledger : ∀ stream x y cause (a : State), (ledgerAdd stream x y cause a).regs = a.regs ∧ (ledgerAdd stream x y cause a).mode = a.mode := by
    intro stream x y cause a
    unfold ledgerAdd
    split
    · exact ⟨rfl, rfl⟩
    · dsimp only
      split <;> exact ⟨rfl, rfl⟩
  simp only [popEntry, hledger]
  cases e.fill <;> exact ⟨rfl, rfl⟩

/-- The first entry in transit of a slot. -/
theorem findIdx?_inTransit {before after : List ExchEntry} {e : ExchEntry} (hb : ∀ x ∈ before, x.here = true) (he : e.here = false) :
    (before ++ e :: after).findIdx? (fun e => !e.here) = some before.length :=
  findIdx?_first (fun x hx => by rw [hb x hx]; rfl) (by rw [he]; rfl)

/-- Settles O24: SEND by `ctlSend_taken` and `ctlSend_blocked`, RECV by what popping makes of the stall (`stallOf_popEntry`). -/
theorem exchangeWords : Obligations.ExchangeWords := by
  intro st slot s u v r
  refine ⟨fun unit dsrc hc hp hu hne hf => ⟨fun hlen hw => ⟨_, rfl, ?_⟩, fun hlen => ⟨_, rfl, ?_⟩⟩,
    fun w x hne hb hh hf hlen hhead => ⟨_, rfl, ?_⟩, fun before after e hentries hhere hbefore ht => ?_,
    fun ddst e rest hc hp he hh hw => ⟨_, rfl, ?_⟩, fun ddst hc hp he => ⟨_, rfl, ?_⟩, fun ddst e rest hb hh he hhere hw => ⟨_, rfl, ?_⟩⟩
  · rw [ctlSend_taken hc hp hu hf hne hlen hw]
    refine ⟨?_, ?_, ?_⟩
    · rw [stallOf_finishIssue, stallOf_noteSend, stallOf_takeEntry_ne _ _ _ _ hne.symm]
      exact nextPc_sendsMade _ (counted u s)
    · rw [stallOf_finishIssue_ne _ hne, stallOf_noteSend_ne _ _ _ hne, stallOf_takeEntry, slotOf_setSlot, stallOf_landDue_ne s hne]
    · exact congrArg UnitRec.st (unitOf_landDue u u s)
  · rw [ctlSend_blocked hc hp hu hf hne hlen]
    let q := slotOf (stallOf s unit.toNat) slot.toNat
    obtain ⟨b, hb⟩ : ∃ b, b = setStall unit.toNat (setSlot slot.toNat { q with waiters := q.waiters ++ [.sender u] } (stallOf s unit.toNat)) (landDue u s) :=
      ⟨_, rfl⟩
    have hsender : stallOf b u = v := by
      rw [hb]
      exact stallOf_setStall_ne _ _ _ _ hne.symm
    rw [← hb]
    have h := (Becomes.of_eq hsender (by rw [hb]; exact unitOf_landDue u u s : unitOf b u = r)).blockAt (.send unit.toNat slot.toNat (dReg v dsrc.toNat)) .waitSend
    refine ⟨by subst hb; exact h.stall, ?_, h.unit⟩
    rw [(h.others _ hne).1, hb, stallOf_setStall, slotOf_setSlot]
  · let tag := tagFor s u (liveHdr (pagesOf s u)).sends w slot.toNat
    have hstale : ¬ stale s u = true := by simp [stale, show s.frame < (unitOf s u).frame + 2 from hf]
    have hdone : sendComplete u s = unblock u (noteSend u w slot.toNat (dropWaiter w slot.toNat u (takeEntry w slot.toNat x tag s))) := by
      simp only [sendComplete, hb, hh, hstale, hlen, hhead, Bool.false_eq_true, if_false, and_self, if_true]
      rfl
    have hstall : stallOf (noteSend u w slot.toNat (dropWaiter w slot.toNat u (takeEntry w slot.toNat x tag s))) u =
        { stallOf s u with sendsMade := (w, slot.toNat) :: (stallOf s u).sendsMade } := by
      rw [stallOf_noteSend, stallOf_dropWaiter_ne _ _ _ hne.symm, stallOf_takeEntry_ne _ _ _ _ hne.symm]
    rw [hdone]
    refine ⟨?_, unitOf_unblock .., ?_, ?_, tag, ?_⟩
    · rw [stallOf_unblock, nextPc_eq]
    · rw [stallOf_unblock, hstall, nextPc_eq, nextPc_eq (stallOf s u)]
    · rw [stallOf_unblock, hstall, nextPc_eq]
      exact List.mem_cons_self ..
    · rw [stallOf_unblock_ne _ hne, stallOf_noteSend_ne _ _ _ hne]
      refine mem_entries_dropWaiter ?_
      rw [stallOf_takeEntry, slotOf_setSlot]
      exact List.mem_append_right _ (List.mem_singleton.mpr rfl)
  · refine congrArg Host.Outcome.next ?_
    change exchangeArrival u slot.toNat s = _
    simp [exchangeArrival, hentries, findIdx?_inTransit hbefore hhere, show tagSkipped (unitOf s u) e.tag = false from ht]
  · let p := popEntry u slot.toNat ddst e 0 (landDue u s)
    have hrecv : ctlRecv u slot ddst s = finishIssue u p := by
      rw [ctlRecv, issueB_legal _ hc hp]
      change (match recvHead v slot.toNat with | some e => _ | none => _) = _
      rw [recvHead_here he hh]
    have hstall : stallOf (finishIssue u p) u = nextPc (countIssue (landDue u s) u (popped slot.toNat ddst e rest 0 v)) := by
      obtain ⟨hregs, hmode⟩ := popEntry_regs u slot.toNat ddst e 0 (landDue u s)
      rw [stallOf_finishIssue, stallOf_popEntry he hw, countIssue_congr hregs hmode]
      rfl
    rw [hrecv]
    refine ⟨?_, ?_, ?_, ?_, fun hfill => ?_⟩
    · rw [Pends, hstall, (nextPc_inflight _).1]
      exact List.mem_append_right _ (List.mem_cons_self ..)
    · rw [Pends, hstall, (nextPc_inflight _).1]
      exact List.mem_append_right _ (List.mem_cons_of_mem _ (List.mem_cons_self ..))
    · rw [hstall, slotOf_nextPc]
      exact congrArg ExchSlot.entries (slotOf_setSlot slot.toNat _ v)
    · rw [hstall, advanced, nextPc_eq, nextPc_eq (counted u s)]
      rfl
    · rw [Stuck, hstall, (nextPc_inflight _).2.2]
      change (v.sticky ||| (if e.fill then BitVec.ofNat 11 stkFillRx else 0)).getLsbD 9 = true
      rw [hfill, BitVec.getLsbD_or]
      exact Bool.or_true _
  · have hrecv : ctlRecv u slot ddst s = blockAt u (.recv slot.toNat ddst) .waitRecv (landDue u s) := by
      rw [ctlRecv, issueB_legal _ hc hp]
      change (match recvHead v slot.toNat with | some e => _ | none => _) = _
      rw [recvHead_empty he]
    rw [hrecv]
    exact (becomes_landDue u s).blockAt _ _
  · have hdone : recvComplete u s = unblock u (popEntry u slot.toNat ddst e 1 s) := by
      simp [recvComplete, hb, hh, recvHead_here he hhere]
    have hunit : unitOf (popEntry u slot.toNat ddst e 1 s) u = r := congrArg (smapGet (fun _ => unitIdle) · u) (popEntry_units u slot.toNat ddst e 1 s)
    rw [hdone]
    refine ⟨?_, (unitOf_unblock ..).trans (by rw [hunit]), ?_, ?_⟩
    · rw [stallOf_unblock, nextPc_eq]
    · rw [stallOf_unblock, stallOf_popEntry he hw, slotOf_nextPc]
      exact congrArg ExchSlot.entries (slotOf_setSlot slot.toNat _ (stallOf s u))
    · rw [stallOf_unblock, stallOf_popEntry he hw, (nextPc_inflight _).1]
      exact List.mem_append_right _ (List.mem_cons_self ..)

end Sys2Proof.Machine

/-!
# The ends of frame work, and the debug window
-/

namespace Sys2Proof.Machine

/-! ### What landing makes of a stall -/

/-- A stall without its register files and flags, which are all that a landing write changes. -/
def course (st : Stall) : Stall :=
  { st with d := [], a := [], c := [], p := [], m := [], l := [], x := [], z := false, n := false, v := false, fillrx := false, evskip := false }

/-- Stalls of one course agree in whatever the course keeps. -/
theorem of_course {α : Type} (get : Stall → α) (hget : ∀ st, get (course st) = get st) {a b : Stall} (h : course a = course b) : get a = get b := by
  rw [← hget a, h, hget]

theorem course_applyWb (w : Wb) (st : Stall) : course (applyWb w st) = course st := by
  cases w <;> rfl

theorem course_landTo (u i : Nat) (s : State) : course (stallOf (landTo u i s) u) =
    course { stallOf s u with inflight := (stallOf s u).inflight.filter (fun w => ¬ w.due ≤ i) } := by
  refine (forEach_keeps (fun t => course (stallOf t u)) _ _ (fun w t => ?_) _).trans (congrArg course (stallOf_setStall s u _))
  split
  · exact congrArg course (stallOf_eq (eccWrite_stalls _ _ t) u)
  · rw [stallOf_setStall, course_applyWb]

/-- After the four landings of `drain` the stall stands as before, less what was due within the next four issues. -/
theorem course_drain (u : Nat) (s : State) : course (stallOf (drain u s) u) =
    course { stallOf s u with inflight := (stallOf s u).inflight.filter (fun w => ¬ w.due ≤ (stallOf s u).issueNo + 3) } := by
  have land : ∀ (i j : Nat) (t : State), j ≤ i → course (stallOf t u) =
      course { stallOf s u with inflight := (stallOf s u).inflight.filter (fun w => ¬ w.due ≤ j) } →
      course (stallOf (landTo u i t) u) = course { stallOf s u with inflight := (stallOf s u).inflight.filter (fun w => ¬ w.due ≤ i) } := by
    intro i j t hij ht
    have hin : (stallOf t u).inflight = (stallOf s u).inflight.filter (fun w => ¬ w.due ≤ j) :=
      of_course Stall.inflight (fun _ => rfl) ht
    have hfilter : (stallOf t u).inflight.filter (fun w => ¬ w.due ≤ i) = (stallOf s u).inflight.filter (fun w => ¬ w.due ≤ i) := by
      rw [hin, List.filter_filter]
      refine List.filter_congr fun w _ => ?_
      by_cases h : w.due ≤ i
      · simp [h]
      · simp [h, show ¬ w.due ≤ j by omega]
    rw [course_landTo, hfilter]
    exact congrArg (fun c : Stall => { c with inflight := (stallOf s u).inflight.filter (fun w => ¬ w.due ≤ i) }) ht
  exact land _ _ _ (by omega) (land _ _ _ (by omega) (land _ _ _ (by omega) (course_landTo u _ s)))

/-- What the next word sees of the stall's writes in flight, of its issue number and of its issue count. -/
theorem seen_counts (u : Nat) (s : State) :
    (seen u s).inflight = (stallOf s u).inflight.filter (fun w => ¬ w.due ≤ (stallOf s u).issueNo) ∧ (seen u s).issueNo = (stallOf s u).issueNo := by
  have h := course_landTo u (stallOf s u).issueNo s
  exact ⟨of_course Stall.inflight (fun _ => rfl) h, (of_course Stall.issueNo (fun _ => rfl) h :)⟩

/-- With nothing due later than three issues on, `drain` leaves nothing in flight. -/
theorem drain_inflight {u : Nat} {s : State} (h : ∀ w ∈ (stallOf s u).inflight, w.due ≤ (stallOf s u).issueNo + 3) :
    (stallOf (drain u s) u).inflight = [] := by
  refine (of_course Stall.inflight (fun _ => rfl) (course_drain u s)).trans (List.filter_eq_nil_iff.mpr fun w hw => ?_)
  simp [h w hw]

/-! ### SYNC (R26, R58, R77) -/

theorem stallOf_setFld (f : RegField) (i v : Nat) (s : State) (u : Nat) : stallOf (setFld f i v s) u = stallOf s u := rfl

theorem stallOf_setBit (f : RegField) (i : Nat) (s : State) (u : Nat) : stallOf (setBit f i s) u = stallOf s u := rfl

theorem stallOf_countFld (f : RegField) (i : Nat) (s : State) (u : Nat) : stallOf (countFld f i s) u = stallOf s u := rfl

theorem stallOf_raise (code arg0 arg1 : Nat) (s : State) (u : Nat) : stallOf (raise code arg0 arg1 s) u = stallOf s u := rfl

theorem certCheck_stall (u : Nat) (s : State) : ∃ k, stallOf (certCheck u s) u = { stallOf s u with sticky := (stallOf s u).sticky ||| k } := by
  unfold certCheck
  dsimp only
  split
  · refine ⟨BitVec.ofNat 11 stkBreach, ?_⟩
    rw [stallOf_raise, stallOf_setFld, stallOf_countFld, stallOf_setBit, orSticky_stall]
  · exact ⟨0, (sticky_or_zero _).symm⟩

theorem pairSync_stalls (u b : Nat) (s : State) : (pairSync u b s).stalls = s.stalls := by
  have hsweep : (sweepCapture u b s).stalls = s.stalls := by
    unfold sweepCapture
    split <;> rfl
  unfold pairSync cutCapture
  split
  · exact hsweep
  · split <;> exact hsweep

/-- The advances and captures at a SYNC leave the stall, its check sets no more than BREACH. -/
theorem stallOf_afterDrain (u b : Nat) (x : State) : ∃ k, stallOf (pairSync u b (fadeAdvance u b (rampAdvance u b (certCheck u x)))) u =
    { stallOf x u with sticky := (stallOf x u).sticky ||| k } := by
  obtain ⟨k, hk⟩ := certCheck_stall u x
  exact ⟨k, (stallOf_eq (pairSync_stalls _ _ _) u).trans hk⟩

/-- Whatever part of the stall BREACH is not in, its SYNC leaves as landing left it. -/
theorem synced_keeps {α : Type} (get : Stall → α) (hget : ∀ st k, get { st with sticky := k } = get st) (u : Nat) (s : State) :
    get (stallOf (synced u s) u) = get (stallOf (drain u (finishIssue u (landDue u s))) u) := by
  dsimp only [synced]
  generalize drain u (finishIssue u (landDue u s)) = x
  obtain ⟨k, hk⟩ := stallOf_afterDrain u (unitOf (landDue u s) u).frame x
  rw [hk, hget]

theorem synced_frameIssues (u : Nat) (s : State) : (stallOf (synced u s) u).frameIssues = (seen u s).frameIssues + 1 := by
  have hdrain := of_course Stall.frameIssues (fun _ => rfl) (course_drain u (finishIssue u (landDue u s)))
  rw [synced_keeps Stall.frameIssues (fun _ _ => rfl), hdrain, stallOf_finishIssue, nextPc_frameIssues]
  rfl

/-- What is due within three issues after a SYNC's has landed at its end. -/
theorem synced_inflight {u : Nat} {s : State} (h : ∀ w ∈ (stallOf s u).inflight, w.due ≤ (stallOf s u).issueNo + 3) :
    (stallOf (synced u s) u).inflight = [] := by
  obtain ⟨hin, hno⟩ := seen_counts u s
  obtain ⟨hin', hno', -⟩ := nextPc_inflight (countIssue (landDue u s) u (seen u s))
  rw [synced_keeps Stall.inflight (fun _ _ => rfl)]
  refine drain_inflight fun w hw => ?_
  rw [stallOf_finishIssue] at hw ⊢
  change w.due ≤ (nextPc (countIssue (landDue u s) u (seen u s))).issueNo + 3
  rw [hno']
  have hmem : w ∈ (seen u s).inflight := hin' ▸ hw
  rw [hin] at hmem
  have hdue := h w (List.mem_filter.mp hmem).1
  change w.due ≤ (seen u s).issueNo + 1 + 3
  omega

theorem unitOf_synced (u : Nat) (s : State) : unitOf (synced u s) u = unitOf s u := by
  obtain ⟨hunits, -⟩ := Prod.mk.inj (frameWork_synced u s)
  exact congrArg (smapGet (fun _ => unitIdle) · u) hunits

/-- SYNC of a frame that is not late. -/
theorem ctlSync_onTime {u : Nat} {s : State} (hc : canIssue s u = true) (hp : ctlPlace (seen u s) = true) (hf : s.frame ≤ (unitOf s u).frame)
    (t : Nat) : ctlSync u t s = recordEnd u t false (synced u s) := by
  obtain ⟨-, hframe⟩ := Prod.mk.inj (frameWork_synced u s)
  rw [ctlSync_eq hc hp, stallEnded_onTime (by rw [hframe, unitOf_synced]; exact hf)]

/-! ### An abort taken (R48, R59) -/

/-- The registers that landing writes may count in are the two of the memories' errors. -/
theorem fld_landTo {g : RegField} (hcell : fieldAddr g 0 < Fld.CH_UE_COUNT_COUNT.base) (hecc : fieldAddr g 0 ≠ fieldAddr Fld.SP_ECC_COUNT_UNCORRECTABLE 0)
    (u i : Nat) (s : State) : fld (landTo u i s) g 0 = fld s g 0 := by
  have hcount : ∀ (w : Nat) (t : State), fld (if 0x400000000 ≤ w then countFld Fld.CH_UE_COUNT_COUNT ((w - 0x400000000) / 0x40000000) t
      else countFld Fld.SP_ECC_COUNT_UNCORRECTABLE 0 t) g 0 = fld t g 0 := by
    intro w t
    split
    · refine fld_setFld_other _ _ g _ 0 _ (fun h => ?_)
      rw [h, fieldAddr] at hcell
      omega
    · exact fld_setFld_other _ _ g _ 0 _ hecc
  have hmem : ∀ (a : Nat) (bs : List Byte) (t : State), fld (memWrite a bs t) g 0 = fld t g 0 := by
    intro a bs t
    have hregs : (memWrite a bs t).regs = t.regs := by
      unfold memWrite forwardWrite
      dsimp only
      repeat' split
      all_goals rfl
    simp only [fld, regWord, hregs]
  have hecc' : ∀ (a : Nat) (bs : List Byte) (t : State), fld (eccWrite a bs t) g 0 = fld t g 0 := by
    intro a bs t
    unfold eccWrite
    dsimp only
    split
    · exact hmem a bs _
    · rw [forEach_keeps (fld · g 0) _ _ hcount]
      refine forEach_keeps (fld · g 0) _ _ (fun x t => ?_) _
      split
      · rfl
      · exact hmem _ _ t
  refine (forEach_keeps (fld · g 0) _ _ (fun w t => ?_) _).trans rfl
  split
  · exact hecc' _ _ t
  · rfl

theorem fld_drain {g : RegField} (hcell : fieldAddr g 0 < Fld.CH_UE_COUNT_COUNT.base) (hecc : fieldAddr g 0 ≠ fieldAddr Fld.SP_ECC_COUNT_UNCORRECTABLE 0)
    (u : Nat) (s : State) : fld (drain u s) g 0 = fld s g 0 := by
  rw [drain, fld_landTo hcell hecc, fld_landTo hcell hecc, fld_landTo hcell hecc, fld_landTo hcell hecc]

theorem withdraw_regs (u : Nat) (s : State) : (withdraw u s).regs = s.regs := by
  unfold withdraw
  split <;> rfl

theorem withdraw_frameWork (u : Nat) (s : State) : frameWork (withdraw u s) = frameWork s := by
  unfold withdraw
  split <;> rfl

/-- Withdrawing a SEND changes no more of the stall itself than its own slots. -/
theorem withdraw_stall (u : Nat) (s : State) : ∃ q, stallOf (withdraw u s) u = { stallOf s u with slots := q } := by
  unfold withdraw
  split
  next v slot x _ =>
    by_cases h : u = v
    · subst h
      exact ⟨_, stallOf_setStall ..⟩
    · exact ⟨_, stallOf_dropWaiter_ne _ _ _ h⟩
  next => exact ⟨_, rfl⟩

/-- What an abort leaves of the stall whose writes have landed: no block, loop, stack or window, at its entry. -/
def unwound (entry : PcAddr) (st : Stall) : Stall :=
  { st with blocked := none, loop := none, calls := [], delay := none, rb := 0, abortPending := false, pc := entry }

/-- The state in which the abort of stall `u`, taken at `pc`, ends its frame work. -/
def aborted (u : Nat) (pc : PcAddr) (x : State) : State :=
  countFld Fld.FG_ABORT_COUNT_COUNT 0 (setBit Fld.FG_STATUS_ABORT_STICKY 0 (raise 7 u pc.toNat
    (setStall u (unwound (liveHdr (pagesOf x u)).entry (stallOf x u)) x)))

theorem stallOf_aborted (u : Nat) (pc : PcAddr) (x : State) :
    stallOf (aborted u pc x) u = unwound (liveHdr (pagesOf x u)).entry (stallOf x u) := by
  rw [aborted, stallOf_countFld, stallOf_setBit, stallOf_raise, stallOf_setStall]

theorem frameWork_aborted (u : Nat) (pc : PcAddr) (x : State) : frameWork (aborted u pc x) = frameWork x := by
  rw [aborted, frameWork_countFld, frameWork_setBit, frameWork_raise]
  rfl

theorem aborted_raises (u : Nat) (pc : PcAddr) (x : State) : (⟨7, x.frame, u % 2 ^ 32, pc.toNat % 2 ^ 32, none⟩ : EvtWait) ∈ (aborted u pc x).evtWait :=
  List.mem_append_right _ (List.mem_singleton.mpr rfl)

theorem satNat_eq_min (top n : Nat) : satNat top n = min top n := by
  unfold satNat
  split <;> omega

/-- A counter field counts one more, up to its width. -/
theorem fld_countFld {f : RegField} (hw : f.hi < 32) (hl : f.lo ≤ f.hi) (i : Nat) (s : State) :
    fld (countFld f i s) f i = min (2 ^ (f.hi + 1 - f.lo) - 1) (fld s f i + 1) := by
  have hpos : 0 < 2 ^ (f.hi + 1 - f.lo) := Nat.two_pow_pos _
  rw [countFld, addFld, satNat_eq_min, fld_setFld s f i _ hw (by omega) hl]

theorem aborted_count (u : Nat) (pc : PcAddr) (x : State) :
    fld (aborted u pc x) Fld.FG_ABORT_COUNT_COUNT = min (2 ^ 32 - 1) (fld x Fld.FG_ABORT_COUNT_COUNT + 1) := by
  have hsame : fld (setBit Fld.FG_STATUS_ABORT_STICKY 0 (raise 7 u pc.toNat (setStall u (unwound (liveHdr (pagesOf x u)).entry (stallOf x u)) x)))
      Fld.FG_ABORT_COUNT_COUNT = fld x Fld.FG_ABORT_COUNT_COUNT :=
    fld_setFld_other _ Fld.FG_STATUS_ABORT_STICKY Fld.FG_ABORT_COUNT_COUNT 0 0 1 (by decide)
  rw [aborted, fld_countFld (by decide) (by decide), hsame]
  rfl

theorem aborted_sticky (u : Nat) (pc : PcAddr) (x : State) : fld (aborted u pc x) Fld.FG_STATUS_ABORT_STICKY = 1 :=
  (fld_setFld_other _ Fld.FG_ABORT_COUNT_COUNT Fld.FG_STATUS_ABORT_STICKY 0 0 _ (by decide)).trans
    (fld_setFld _ Fld.FG_STATUS_ABORT_STICKY 0 1 (by decide) (by decide) (by decide))

theorem stallAbort_eq {u : Nat} {s : State} (ha : (stallOf s u).abortPending = true) (he : atEventPoint s u = true) (t : Nat) :
    stallAbort u t s = takeTokens u (stallEnded u t true (aborted u (stallOf s u).pc (drain u (withdraw u s)))) := by
  rw [stallAbort, ha, he]
  rfl

theorem stallOf_takeTokens (u : Nat) (s : State) : stallOf (takeTokens u s) u = { stallOf s u with tokenMoves := [] } := by
  refine (forEach_keeps (stallOf · u) _ _ (fun m t => ?_) _).trans (stallOf_setStall ..)
  exact stallOf_eq (by simp [moveToken]) u

theorem takeTokens_units (u : Nat) (s : State) : (takeTokens u s).units = s.units := by
  refine (forEach_keeps State.units _ _ (fun m t => ?_) _).trans rfl
  rfl

theorem takeTokens_evtWait (u : Nat) (s : State) : (takeTokens u s).evtWait = s.evtWait := by
  refine (forEach_keeps State.evtWait _ _ (fun m t => ?_) _).trans rfl
  rfl

/-- Token moves write the registers of banks, which lie above those of the frame guard. -/
theorem fld_takeTokens {g : RegField} (h : fieldAddr g 0 < Fld.BANK_OWN_OWNER.base) (u : Nat) (s : State) : fld (takeTokens u s) g 0 = fld s g 0 := by
  refine (forEach_keeps (fld · g 0) _ _ (fun m t => ?_) _).trans rfl
  have hne : ∀ f : RegField, f.base = Fld.BANK_OWN_OWNER.base → fieldAddr g 0 ≠ fieldAddr f m.1 := by
    intro f hf he
    rw [he, fieldAddr, hf] at h
    omega
  exact (fld_setFld_other _ Fld.BANK_OWN_GUEST g _ 0 _ (hne _ rfl)).trans (fld_setFld_other _ Fld.BANK_OWN_OWNER g _ 0 _ (hne _ rfl))

/-- The abort of a frame that is not late. -/
theorem stallAbort_onTime {u : Nat} {s : State} (ha : (stallOf s u).abortPending = true) (he : atEventPoint s u = true)
    (hf : s.frame ≤ (unitOf s u).frame) (t : Nat) :
    stallAbort u t s = takeTokens u (recordEnd u t true (aborted u (stallOf s u).pc (drain u (withdraw u s)))) ∧
    unitOf (aborted u (stallOf s u).pc (drain u (withdraw u s))) u = unitOf s u := by
  have hwork : frameWork (aborted u (stallOf s u).pc (drain u (withdraw u s))) = frameWork s := by
    rw [frameWork_aborted, frameWork_drain, withdraw_frameWork]
  obtain ⟨hunits, hframe⟩ := Prod.mk.inj hwork
  have hunit : unitOf (aborted u (stallOf s u).pc (drain u (withdraw u s))) u = unitOf s u := congrArg (smapGet (fun _ => unitIdle) · u) hunits
  refine ⟨?_, hunit⟩
  rw [stallAbort_eq ha he, stallEnded_onTime]
  rw [hframe, hunit]
  exact hf

/-- What an abort keeps of the stall and what it leaves in flight. -/
theorem drain_withdraw (u : Nat) (s : State) : (stallOf (drain u (withdraw u s)) u).halted = (stallOf s u).halted ∧
    ((∀ w ∈ (stallOf s u).inflight, w.due ≤ (stallOf s u).issueNo + 3) → (stallOf (drain u (withdraw u s)) u).inflight = []) := by
  obtain ⟨q, hq⟩ := withdraw_stall u s
  refine ⟨?_, fun h => drain_inflight ?_⟩
  · rw [of_course Stall.halted (fun _ => rfl) (course_drain u (withdraw u s)), hq]
  · rw [hq]
    exact h

theorem fld_recordEnd (u t : Nat) (byAbort : Bool) (s : State) (g : RegField) (i : Nat) : fld (recordEnd u t byAbort s) g i = fld s g i := rfl

theorem evtWait_recordEnd (u t : Nat) (byAbort : Bool) (s : State) : (recordEnd u t byAbort s).evtWait = s.evtWait := rfl

theorem unitOf_takeTokens (u v : Nat) (s : State) : unitOf (takeTokens u s) v = unitOf s v :=
  congrArg (smapGet (fun _ => unitIdle) · v) (takeTokens_units u s)

/-! ### The words of a destination (R77) -/

theorem outputLanding_first {u chan : Nat} {s : State} {w : OutWrite} {before after : List OutWrite} (hout : s.outFlight = before ++ w :: after)
    (hb : ∀ x ∈ before, ¬ (x.unit = u ∧ x.chan = chan)) (hu : w.unit = u) (hc : w.chan = chan) :
    outputLanding u chan s = landOutput w { s with outFlight := before ++ after } := by
  have hfind : (before ++ w :: after).findIdx? (fun w => decide (w.unit = u ∧ w.chan = chan)) = some before.length :=
    findIdx?_first (fun x hx => decide_eq_false (hb x hx)) (decide_eq_true ⟨hu, hc⟩)
  simp only [outputLanding, hout, hfind, List.getElem?_append_right (Nat.le_refl _), Nat.sub_self, List.getElem?_cons_zero, eraseIdx_middle]

/-- An output write that is neither late nor past its closed frame stands at its destination. -/
theorem landOutput_inTime {w : OutWrite} {s : State} (hf : s.frame < w.frame + 2) (hc : (outOf s (destKey w.entry.dest)).closed ≤ w.frame) :
    landOutput w s = setOut (destKey w.entry.dest) { outOf s (destKey w.entry.dest) with
      words := landWord ⟨w.frame, w.entry.sink, w.val⟩ (outOf s (destKey w.entry.dest)).words } s :=
  if_neg fun h => h.elim (Nat.not_le.mpr hf) (Nat.not_lt.mpr hc)

/-! ### The statement -/

theorem stallOf_recordEnd (u t : Nat) (byAbort : Bool) (s : State) (v : Nat) : stallOf (recordEnd u t byAbort s) v = stallOf s v := rfl

theorem unitOf_recordEnd (u t : Nat) (byAbort : Bool) (s : State) : unitOf (recordEnd u t byAbort s) u =
    { unitOf s u with st := .ended, ends := (⟨(unitOf s u).frame, t, byAbort⟩ :: (unitOf s u).ends).take 8 } :=
  unitOf_setUnit ..

/-- Settles O26: SYNC by `synced`, an abort by `aborted`, each after what has landed; the other rows in one step each. -/
theorem frameWorkEnds : Obligations.FrameWorkEnds := by
  intro st raw s u v r near
  refine ⟨fun hc hp hf => ⟨_, rfl, ?_⟩, fun ha he hf => ⟨_, rfl, ?_⟩, fun w hc hw => ⟨_, rfl, ?_⟩, fun page word val hdue hheld => ⟨_, rfl, ?_⟩,
    fun chan w before after hout hbefore hwu hwc hf hclosed => ⟨_, rfl, ?_⟩⟩
  · rw [ctlSync_onTime hc hp hf]
    refine ⟨?_, ?_, fun h => ?_⟩
    · rw [unitOf_recordEnd, unitOf_synced]
    · rw [stallOf_recordEnd]
      exact synced_frameIssues u s
    · rw [stallOf_recordEnd]
      exact synced_inflight h
  · obtain ⟨habort, hunit⟩ := stallAbort_onTime ha he hf raw
    obtain ⟨hhalted, hinflight⟩ := drain_withdraw u s
    have hcount : fld (drain u (withdraw u s)) Fld.FG_ABORT_COUNT_COUNT = fld s Fld.FG_ABORT_COUNT_COUNT := by
      rw [fld_drain (by decide) (by decide), fld, regWord, withdraw_regs]
      rfl
    rw [habort]
    generalize drain u (withdraw u s) = x at hunit hhalted hinflight hcount
    refine ⟨?_, ?_, ?_, ?_, ?_, ?_, fun h => ?_, ?_, ?_, ?_, ?_⟩
    · rw [unitOf_takeTokens, unitOf_recordEnd, hunit]
    · rw [stallOf_takeTokens, stallOf_recordEnd, stallOf_aborted, unwound]
    · rw [stallOf_takeTokens, stallOf_recordEnd, stallOf_aborted, unwound]
    · rw [stallOf_takeTokens, stallOf_recordEnd, stallOf_aborted, unwound]
    · rw [stallOf_takeTokens, stallOf_recordEnd, stallOf_aborted, unwound]
    · rw [stallOf_takeTokens, stallOf_recordEnd, stallOf_aborted, unwound]
    · rw [stallOf_takeTokens, stallOf_recordEnd, stallOf_aborted, unwound]
      exact hinflight h
    · rw [fld_takeTokens (by decide), fld_recordEnd, aborted_count, hcount]
    · rw [stallOf_takeTokens, stallOf_recordEnd, stallOf_aborted, unwound]
      exact hhalted
    · rw [fld_takeTokens (by decide), fld_recordEnd, aborted_sticky]
    · refine ⟨⟨7, x.frame, u % 2 ^ 32, (stallOf s u).pc.toNat % 2 ^ 32, none⟩, ?_, rfl, Nat.mod_eq_of_lt (Nat.lt_trans st.isLt (by decide : 1024 < 2 ^ 32))⟩
      rw [takeTokens_evtWait, evtWait_recordEnd]
      exact aborted_raises ..
  · let a := stallFault u (orSticky u stkIllegal (landDue u s))
    have hill : illegalWord u (rawWordLegal (stallOf s u) w) s = finishIssue u a := by
      rw [hw, illegalWord, if_neg (by simp [hc])]
      rfl
    have hstall : stallOf (finishIssue u a) u = nextPc (countIssue (landDue u s) u { v with sticky := v.sticky ||| BitVec.ofNat 11 stkIllegal }) := by
      rw [stallOf_finishIssue, stallOf_eq (stallFault_stalls _ _), orSticky_stall]
      rfl
    obtain ⟨hin, hno, hsticky⟩ := nextPc_inflight (countIssue (landDue u s) u { v with sticky := v.sticky ||| BitVec.ofNat 11 stkIllegal })
    change _ ∧ _
    rw [hill]
    refine ⟨?_, ?_, ?_, ?_, ?_⟩
    · rw [Stuck, hstall, hsticky, (countIssue_inflight _ _ _).2.2, BitVec.getLsbD_or]
      exact Bool.or_true _
    · rw [hstall, advanced, nextPc_eq, nextPc_eq (counted u s)]
      rfl
    · rw [hstall, hin]
      rfl
    · rw [hstall, hno]
      rfl
    · exact List.map_append ..
  · have hpages : heldPageWrite u s = setPages u { pagesOf s u with held := [] }
        { s with progMem := smapSet (fun _ => 0) ((2 * u + bnat page) * 8192 + word) val s.progMem } := by
      have hstays : ¬ (pagesOf s u).swapDue = true := fun h => Bool.false_ne_true (hdue.symm.trans h)
      dsimp only [heldPageWrite]
      rw [if_neg hstays, hheld]
      rfl
    rw [hpages]
    refine ⟨?_, smapGet_set_self ..⟩
    rw [pagesOf_setPages]
  · rw [outputLanding_first hout hbefore hwu hwc, landOutput_inTime (s := { s with outFlight := before ++ after }) hf hclosed]
    refine ⟨rfl, ?_, rfl⟩
    rw [outOf_setOut]
    exact List.mem_cons_self ..

/-! ### The debug window (R87, R90) -/

/-- D register `j` as the writes of `l`, in order, leave it. -/
def landedD (j : Nat) (l : List Inflight) (x : S48) : S48 :=
  l.foldl (fun x w => match w.what with | .d k y => if j = k then y else x | _ => x) x

theorem dPhys_applyWb (w : Wb) (st : Stall) (j : Nat) :
    dPhys (applyWb w st) j = match w with | .d k y => if j = k then y else dPhys st j | _ => dPhys st j := by
  cases w
  case d k y =>
    by_cases h : j = k
    · subst h
      exact (smapGet_set_self ..).trans (if_pos rfl).symm
    · exact (smapGet_set_ne _ _ _ h).trans (if_neg h).symm
  all_goals rfl

theorem dPhys_landedView (st : Stall) (j : Nat) : dPhys (landedView st) j = landedD j st.inflight (dPhys st j) := by
  unfold landedView landedD
  generalize st.inflight = l
  induction l generalizing st with
  | nil => rfl
  | cons w l ih =>
    rw [List.foldl_cons, List.foldl_cons, ih, dPhys_applyWb]

/-- Writes that go elsewhere leave the register. -/
theorem landedD_elsewhere {j : Nat} {l : List Inflight} (h : ∀ w ∈ l, ∀ y, w.what ≠ .d j y) (x : S48) : landedD j l x = x := by
  unfold landedD
  induction l with
  | nil => rfl
  | cons w l ih =>
    rw [List.foldl_cons]
    have hw := h w (List.mem_cons_self ..)
    have hx : (match w.what with | .d k y => if j = k then y else x | _ => x) = x := by
      split
      next k y hk =>
        by_cases hj : j = k
        · subst hj
          exact absurd hk (hw y)
        · exact if_neg hj
      next => rfl
    rw [hx]
    exact ih fun w hm => h w (List.mem_cons_of_mem _ hm)

/-- Dropping writes that go to another register leaves what lands in this one. -/
theorem landedD_filter {j : Nat} {p : Inflight → Bool} (hp : ∀ w y, w.what = .d j y → p w = true) (l : List Inflight) (x : S48) :
    landedD j (l.filter p) x = landedD j l x := by
  unfold landedD
  induction l generalizing x with
  | nil => rfl
  | cons w l ih =>
    rw [List.filter_cons, List.foldl_cons]
    cases hw : p w
    · rw [if_neg Bool.false_ne_true, ih]
      congr 1
      split
      next k y hk =>
        refine (if_neg fun hj => ?_).symm
        subst hj
        rw [hp w y hk] at hw
        exact Bool.false_ne_true hw.symm
      next => rfl
    · rw [if_pos rfl, List.foldl_cons, ih]

/-- The low word of a D register replaced. -/
theorem dbgMerge_low (old : S48) (x : Word32) : BitVec.ofNat 48 (dbgMerge old.toInt 0 x.toNat) = old.extractLsb' 32 16 ++ x := by
  have hx : x.toNat < 2 ^ 32 := x.isLt
  have hold : old.toNat < 2 ^ 48 := old.isLt
  have hwrap : wrapInt 96 old.toInt % 2 ^ 48 = old.toNat := by
    unfold wrapInt
    rw [BitVec.toInt_eq_toNat_cond]
    split <;> omega
  refine BitVec.eq_of_toNat_eq ?_
  rw [BitVec.toNat_ofNat, BitVec.toNat_append, BitVec.extractLsb'_toNat, Nat.shiftLeft_eq, Nat.shiftRight_eq_div_pow,
    ← Nat.shiftLeft_eq, ← Nat.shiftLeft_add_eq_or_of_lt hx, Nat.shiftLeft_eq]
  simp only [dbgMerge, putBits, bitsOf, Nat.mul_zero, Nat.zero_add, Nat.shiftRight_zero, Nat.pow_zero, Nat.mul_one, Nat.sub_zero]
  omega

/-- A write of the low word of D register `i` of a halted stall. -/
theorem dbgWrite_d {st : Stall} {i : Nat} (hi : i < 0x40) (x : Word32) : dbgWrite st i 0 x.toNat =
    { st with inflight := st.inflight.filter (fun p => !wbTo i p.what)
              d := smapSet (fun _ => 0) i ((dPhys (landedView st) i).extractLsb' 32 16 ++ x) st.d } := by
  have hread : dbgRead (landedView st) i = some (dPhys (landedView st) i).toInt := if_pos hi
  simp only [dbgWrite, hread, if_pos hi, dbgMerge_low]

/-- Of the results on their way, those for D register `j` alone are `.d j`. -/
theorem wbTo_d {i : Nat} (hi : i < 0x40) (w : Wb) : wbTo i w = true ↔ ∃ y, w = .d i y := by
  cases w <;> simp only [wbTo, decide_eq_true_eq, reduceCtorEq, exists_const, iff_false, Bool.false_eq_true, Wb.d.injEq, exists_and_left, exists_eq', and_true]
  all_goals omega

theorem dbgWord_d {st : Stall} {i : Nat} (hi : i < 0x40) : dbgWord st i 0 = (dPhys st i).toNat % 2 ^ 32 := by
  have hread : dbgRead st i = some (dPhys st i).toInt := if_pos hi
  have hlt : (dPhys st i).toNat < 2 ^ 48 := (dPhys st i).isLt
  simp only [dbgWord, hread, wrapInt, BitVec.toInt_eq_toNat_cond]
  split <;> omega

/-- Settles O27: the halts and steps in one step each; a read and a write of a D register through what lands in it (`dPhys_landedView`). -/
theorem debugCommands : Obligations.DebugCommands := by
  intro s u v
  have inWindow : v.halted = true → ∀ wr, dbgAccess wr s = match wr with
      | none => { s with lastRead := dbgWord (landedView v) (fld s Fld.DBG_REG_SEL_INDEX) (fld s Fld.DBG_REG_SEL_WORD) }
      | some x => if fld s Fld.DBG_REG_SEL_WORD < 3 then
          setStall u (dbgWrite v (fld s Fld.DBG_REG_SEL_INDEX) (fld s Fld.DBG_REG_SEL_WORD) x.toNat) s else s := fun hh wr => if_pos hh
  have shut : v.halted = false → ∀ wr, dbgAccess wr s = match wr with
      | none => { setFld Fld.DBG_STATUS_NOT_HALTED 0 1 s with lastRead := 0 }
      | some _ => setFld Fld.DBG_STATUS_NOT_HALTED 0 1 s := fun hh wr => if_neg (Bool.eq_false_iff.mp hh)
  refine ⟨fun ha hh => ?_, fun ha => ?_, fun hh => ?_, fun hh => ?_, fun st hp hh he => ?_, fun i hh hi hw hlt => ?_, fun i x hh hi hw hlt => ?_,
    fun hh => ?_, fun x hh => ?_⟩
  · exact congrArg Host.Outcome.next ((if_pos ha).trans (if_neg (Bool.eq_false_iff.mp hh)))
  · exact congrArg Host.Outcome.next (if_neg (Bool.eq_false_iff.mp ha))
  · exact congrArg Host.Outcome.next (if_pos hh)
  · exact congrArg Host.Outcome.next (if_pos hh)
  · exact congrArg Host.Outcome.next (if_pos (by rw [hp, hh, he]; rfl))
  · refine congrArg Host.Outcome.next ((inWindow hh none).trans ?_)
    rw [hi, hw, ← dbgWord_d hlt]
  · let merged := (dPhys (landedView v) i).extractLsb' 32 16 ++ x
    have haccess : dbgAccess (some x) s = setStall u { v with
        inflight := v.inflight.filter (fun p => !wbTo i p.what), d := smapSet (fun _ => 0) i merged v.d } s := by
      rw [inWindow hh (some x), hi, hw, ← dbgWrite_d hlt]
      rfl
    refine ⟨_, congrArg Host.Outcome.next haccess, ?_, fun j hj => ?_, rfl⟩
    · rw [stallOf_setStall, dPhys_landedView, landedD_elsewhere fun w hm y hy => ?_]
      · exact smapGet_set_self ..
      · rw [List.mem_filter, (wbTo_d hlt w.what).mpr ⟨y, hy⟩] at hm
        exact Bool.false_ne_true hm.2
    · rw [stallOf_setStall, dPhys_landedView, dPhys_landedView, landedD_filter fun w y hy => ?_]
      · exact congrArg (landedD j v.inflight) (smapGet_set_ne _ _ _ hj)
      · rw [Bool.not_eq_true', Bool.eq_false_iff]
        intro hto
        obtain ⟨y', hy'⟩ := (wbTo_d hlt w.what).mp hto
        rw [hy] at hy'
        exact hj (Wb.d.inj hy').1
  · exact congrArg Host.Outcome.next (shut hh none)
  · exact congrArg Host.Outcome.next (shut hh (some x))

end Sys2Proof.Machine

/-!
# What a frame boundary settles, and what each of its parts leaves alone
-/

namespace Sys2Proof.Machine

/-- The mode, the rate, the frame index with its raw times, the boot state, the pending transitions, the frame of the ledger's snapshot and the vault. -/
structure Standing where
  mode : Mode
  fs : Nat
  frame : Nat
  tick : Nat
  tickPrev : Nat
  boot : Nat
  pend : List PendMode
  snapFrame : Nat
  vault : SMap Byte

/-- What a boundary settles, with the cause that MODE_STATUS shows for SAFE. -/
def shown (s : State) : Standing × Nat :=
  (⟨s.mode, s.fs, s.frame, s.tick, s.tickPrev, s.power.boot, s.power.pend, s.ledger.snapFrame, s.power.vault⟩, fld s Fld.MODE_STATUS_SAFE_CAUSE)

theorem shown_ite {c : Prop} [Decidable c] (a b : State) : shown (if c then a else b) = if c then shown a else shown b := apply_ite ..

theorem shown_forEach {α : Type} (l : List α) (f : α → State → State) (s : State) (hf : ∀ a s, shown (f a s) = shown s) :
    shown (forEach l f s) = shown s := forEach_keeps shown l f hf s

theorem standing_forEach {α : Type} (l : List α) (f : α → State → State) (s : State) (hf : ∀ a s, (shown (f a s)).1 = (shown s).1) :
    (shown (forEach l f s)).1 = (shown s).1 := forEach_keeps (fun s => (shown s).1) l f hf s

/-! Registers: all but MODE_STATUS at 500h. -/

/-- Whether no copy of a register row lies at MODE_STATUS: rows above it, and the single registers below it. -/
def besideModes (f : RegField) (i : Nat) : Bool := decide (0x500 < f.base) || decide (i = 0) && decide (f.base ≠ 0x500)

theorem besideModes_ne {f : RegField} {i : Nat} (h : besideModes f i = true) : fieldAddr Fld.MODE_STATUS_SAFE_CAUSE 0 ≠ fieldAddr f i := by
  have hmode : fieldAddr Fld.MODE_STATUS_SAFE_CAUSE 0 = 0x500 := rfl
  rw [hmode, fieldAddr]
  simp only [besideModes, Bool.or_eq_true, Bool.and_eq_true, decide_eq_true_eq] at h
  obtain h | ⟨rfl, h⟩ := h
  · omega
  · cases hs : f.stride <;> simp [strideOff] <;> omega

theorem shown_setFld (f : RegField) {i : Nat} (h : besideModes f i = true) (v : Nat) (s : State) : shown (setFld f i v s) = shown s :=
  Prod.ext rfl (fld_setFld_other _ f Fld.MODE_STATUS_SAFE_CAUSE i 0 v (besideModes_ne h))

theorem shown_setBit (f : RegField) {i : Nat} (h : besideModes f i = true) (s : State) : shown (setBit f i s) = shown s := shown_setFld f h 1 s

theorem shown_clrBit (f : RegField) {i : Nat} (h : besideModes f i = true) (s : State) : shown (clrBit f i s) = shown s := shown_setFld f h 0 s

theorem shown_addFld (f : RegField) {i : Nat} (h : besideModes f i = true) (n : Nat) (s : State) : shown (addFld f i n s) = shown s :=
  shown_setFld f h _ s

theorem shown_countFld (f : RegField) {i : Nat} (h : besideModes f i = true) (s : State) : shown (countFld f i s) = shown s := shown_setFld f h _ s

theorem standing_setRegWord (a : Nat) (w : Word32) (s : State) : (shown (setRegWord a w s)).1 = (shown s).1 := rfl

theorem standing_setFld (f : RegField) (i v : Nat) (s : State) : (shown (setFld f i v s)).1 = (shown s).1 := rfl

theorem standing_setBit (f : RegField) (i : Nat) (s : State) : (shown (setBit f i s)).1 = (shown s).1 := rfl

theorem standing_clrBit (f : RegField) (i : Nat) (s : State) : (shown (clrBit f i s)).1 = (shown s).1 := rfl

theorem standing_addFld (f : RegField) (i n : Nat) (s : State) : (shown (addFld f i n s)).1 = (shown s).1 := rfl

theorem standing_countFld (f : RegField) (i : Nat) (s : State) : (shown (countFld f i s)).1 = (shown s).1 := rfl

theorem standing_setPair (f g : RegField) (i v : Nat) (s : State) : (shown (setPair f g i v s)).1 = (shown s).1 := rfl

theorem shown_memPoke (a : Nat) (bs : List Byte) (s : State) : shown (memPoke a bs s) = shown s := rfl

theorem shown_forwardWrite (a n : Nat) (s : State) : shown (forwardWrite a n s) = shown s := by
  grind [forwardWrite, shown, fld, regWord]

theorem shown_memWrite (a : Nat) (bs : List Byte) (s : State) : shown (memWrite a bs s) = shown s := by
  grind [memWrite, shown_memPoke, shown_forwardWrite, shown, fld, regWord]

theorem shown_raise (code arg0 arg1 : Nat) (s : State) : shown (raise code arg0 arg1 s) = shown s := rfl

theorem shown_raiseAt (b code arg0 arg1 : Nat) (s : State) : (shown (raiseAt b code arg0 arg1 s)).1 = (shown s).1 := rfl

theorem shown_raiseTo (sess code arg0 arg1 : Nat) (s : State) : shown (raiseTo sess code arg0 arg1 s) = shown s := rfl

theorem shown_bumpFresh (s : State) : (shown (bumpFresh s)).1 = (shown s).1 := rfl

theorem shown_setStall (u : Nat) (st : Stall) (s : State) : shown (setStall u st s) = shown s := rfl

theorem shown_setUnit (u : Nat) (r : UnitRec) (s : State) : shown (setUnit u r s) = shown s := rfl

theorem shown_setPages (u : Nat) (p : Pages) (s : State) : shown (setPages u p s) = shown s := rfl

theorem shown_eccWrite (a : Nat) (bs : List Byte) (s : State) : shown (eccWrite a bs s) = shown s := by
  grind [eccWrite, shown_memWrite, (shown_countFld Fld.CH_UE_COUNT_COUNT rfl), (shown_countFld Fld.SP_ECC_COUNT_UNCORRECTABLE rfl), shown_forEach, shown,
    fld, regWord]

theorem shown_landList (u : Nat) (l : List Inflight) (s : State) : shown (landList u l s) = shown s := by
  grind [landList, shown_setStall, shown_eccWrite, shown_forEach]

theorem shown_landTo (u i : Nat) (s : State) : shown (landTo u i s) = shown s := by
  grind [landTo, shown_setStall, shown_landList]

theorem shown_drain (u : Nat) (s : State) : shown (drain u s) = shown s := by
  grind [drain, shown_landTo]

theorem shown_ledgerAdd (stream : Option Nat) (e d : Nat) (cause : Option (Nat × Nat)) (s : State) : shown (ledgerAdd stream e d cause s) = shown s := by
  unfold ledgerAdd
  dsimp only
  repeat' split
  all_goals rfl

theorem shown_orSticky (u bits : Nat) (s : State) : shown (orSticky u bits s) = shown s := by
  grind [orSticky, shown_setStall]

theorem shown_stallFault (u : Nat) (s : State) : shown (stallFault u s) = shown s := by
  grind [stallFault, shown_raise]

theorem shown_injectFill (u slot : Nat) (zero : Bool) (tag : BitVec 5) (s : State) : (shown (injectFill u slot zero tag s)).1 = (shown s).1 := by
  grind [injectFill, shown_setStall]

theorem shown_moveToken (bank owner : Nat) (guest : Bool) (s : State) : shown (moveToken bank owner guest s) = shown s := by
  grind [moveToken, (shown_setFld Fld.BANK_OWN_GUEST rfl), (shown_setFld Fld.BANK_OWN_OWNER rfl)]

theorem shown_takeSwap (u : Nat) (s : State) : shown (takeSwap u s) = shown s := by
  grind [takeSwap, shown_setPages, shown, fld, regWord]

theorem shown_takeTokens (u : Nat) (s : State) : shown (takeTokens u s) = shown s := by
  grind [takeTokens, shown_setStall, shown_moveToken, shown_forEach]

theorem shown_windowCheck (u : Nat) (s : State) : shown (windowCheck u s) = shown s := by
  grind [windowCheck, shown_orSticky, shown_stallFault]

theorem shown_acquireNext (s : State) : shown (acquireNext s) = shown s := by
  grind [acquireNext, (shown_setFld Fld.SHADOW_STATUS_ACQ_PROGRESS rfl), shown, fld, regWord]

theorem shown_installCut (u b : Nat) (s : State) : shown (installCut u b s) = shown s := by
  grind [installCut, shown_setStall, shown_acquireNext]

theorem shown_startStall (u b t : Nat) (s : State) : shown (startStall u b t s) = shown s := by
  grind [startStall, shown_setStall, shown_setUnit, shown_drain, shown_takeSwap, shown_takeTokens, shown_windowCheck, shown_installCut]

theorem shown_sendPost (p : Post) (s : State) : (shown (sendPost p s)).1 = (shown s).1 := rfl

theorem shown_dropWaiter (v slot u : Nat) (s : State) : (shown (dropWaiter v slot u s)).1 = (shown s).1 := by
  grind [dropWaiter, shown_setStall]

theorem shown_xbCount (k : RespKind) (m a : Nat) (s : State) : shown (xbCount k m a s) = shown s := by
  unfold xbCount
  split
  · split
    · exact (shown_raise ..).trans ((shown_setBit Fld.XB_STATUS_DEF_STICKY rfl _).trans ((shown_setFld Fld.XB_DEF_ADDR_HI_ADDR_HI rfl _ _).trans
        ((shown_setFld Fld.XB_DEF_ADDR_LO_ADDR_LO rfl _ _).trans ((shown_setFld Fld.XB_DEF_COUNT_MASTER rfl _ _).trans
          (shown_countFld Fld.XB_DEF_COUNT_COUNT rfl _)))))
    · rfl
  · exact (shown_raise ..).trans ((shown_setBit Fld.MEM_STATUS_XVIOL rfl _).trans ((shown_setFld Fld.XVIOL_COUNT_BANK rfl _ _).trans
      (shown_countFld Fld.XVIOL_COUNT_COUNT rfl _)))
  · rfl

theorem shown_targetWrite (a : Nat) (bs : List Byte) (s : State) : shown (targetWrite a bs s) = shown s := by
  grind [targetWrite, shown_eccWrite]

theorem shown_xbWrite (m a : Nat) (bs : List Byte) (s : State) : shown (xbWrite m a bs s) = shown s := by
  grind [xbWrite, shown_xbCount, shown_targetWrite]

theorem shown_setChan (i : Nat) (x : ChanDesc) (s : State) : shown (setChan i x s) = shown s := rfl

theorem shown_startChan (i b : Nat) (s : State) : shown (startChan i b s) = shown s := by
  grind [startChan, shown_setUnit, shown_setChan, (shown_setFld Fld.CH_STATUS_STATE rfl), (shown_setFld Fld.DRV_STATUS_FRAME_DONE rfl)]

theorem shown_sendAbort (u : Nat) (s : State) : (shown (sendAbort u s)).1 = (shown s).1 := by
  grind [sendAbort, shown_setStall, shown_setChan]

theorem shown_setPort (p : Nat) (x : PortSt) (s : State) : shown (setPort p x s) = shown s := rfl

theorem shown_setOut (k : Nat) (x : OutCell) (s : State) : shown (setOut k x s) = shown s := rfl

theorem shown_settleEntry (b : Nat) (ue : Nat × OutEntry) (s : State) : (shown (settleEntry b ue s)).1 = (shown s).1 := by
  grind [settleEntry, shown_ledgerAdd, shown_setOut]

theorem shown_settleFrame (b : Nat) (s : State) : (shown (settleFrame b s)).1 = (shown s).1 := by
  grind [settleFrame, shown_settleEntry, standing_forEach, shown, fld, regWord]

theorem shown_portOver (p n : Nat) (s : State) : shown (portOver p n s) = shown s := by
  grind [portOver, shown_raise, (shown_countFld Fld.PORT_OVER_COUNT_COUNT rfl), (shown_setBit Fld.PORT_FLAGS_OVER_STICKY rfl)]

theorem shown_portUnder (p n : Nat) (s : State) : shown (portUnder p n s) = shown s := by
  grind [portUnder, shown_raise, (shown_countFld Fld.PORT_UNDER_COUNT_COUNT rfl), (shown_setBit Fld.PORT_FLAGS_UNDER_STICKY rfl)]

theorem shown_setLine (k : Nat) (on : Bool) (s : State) : shown (setLine k on s) = shown s := by
  grind [setLine, shown, fld, regWord]

theorem shown_ringWrite (m base log2 : Nat) (packed : Bool) (n : Nat) (v : S48) (word : Nat) (s : State) :
    shown (ringWrite m base log2 packed n v word s).1 = shown s := by
  unfold ringWrite
  dsimp only
  generalize (if packed then leBytes 4 word else leBytes 8 (wrapInt 64 v.toInt)) = bs
  generalize (if packed then 4 else 8) = e
  split
  · exact (shown_xbWrite ..).trans (shown_xbWrite ..)
  · exact shown_xbWrite ..

theorem shown_landSlots (p n : Nat) (words ks : List Nat) (s : State) (refused : Nat) : shown (landSlots p n words ks s refused).1 = shown s := by
  induction ks generalizing s refused with
  | nil => rfl
  | cons k ks ih => exact (ih _ _).trans (shown_ringWrite ..)

theorem shown_landFrame (p n : Nat) (words : List Nat) (real : Bool) (s : State) : shown (landFrame p n words real s) = shown s := by
  grind [landFrame, shown_memWrite, shown_ledgerAdd, shown_setPort, shown_portOver, shown_setLine, shown_landSlots]

theorem shown_setRunning (p : Nat) (on : Bool) (s : State) : shown (setRunning p on s) = shown s := by
  unfold setRunning
  dsimp only
  by_cases h : p < 32
  · simp only [if_pos h]
    exact shown_setFld Fld.PORT_RUNNING_RUNNING rfl _ s
  · simp only [if_neg h]
    exact shown_setFld Fld.PDM_RUNNING_RUNNING rfl _ s

theorem shown_holdZero (k : Nat) (s : State) : shown (holdZero k s) = shown s := by
  grind [holdZero, shown_setStall, shown_setPort, shown_setOut, shown_forEach, shown, fld, regWord]

theorem shown_setActive (stream : Option Nat) (on : Bool) (s : State) : shown (setActive stream on s) = shown s := by
  cases stream with
  | none => rfl
  | some k =>
    refine Eq.trans (b := shown (if on = true ∧ ¬ (streamOf s.ledger.cur k).active = true then holdZero k s else s)) rfl ?_
    split
    · exact shown_holdZero k s
    · rfl

theorem shown_showPort (p : Nat) (s : State) : shown (showPort p s) = shown s := by
  grind [showPort, (shown_setFld Fld.PORT_STATE_STATE rfl)]

theorem shown_startAtBoundary (p b : Nat) (s : State) : shown (startAtBoundary p b s) = shown s := by
  grind [startAtBoundary, shown_setPort, shown_setRunning, shown_setActive, shown_showPort, (shown_setBit Fld.PORT_FLAGS_CFG_MISMATCH rfl)]

theorem shown_portHalt (p : Nat) (x : PortSt) (s : State) : shown (portHalt p x s) = shown s := by
  grind [portHalt, shown_setPort, shown_setLine, shown_setRunning, shown_setActive, shown_showPort]

theorem shown_stopAtBoundary (p b : Nat) (s : State) : shown (stopAtBoundary p b s) = shown s := by
  grind [stopAtBoundary, shown_setPort, shown_showPort, shown_portHalt]

theorem shown_portCfgApply (p value mask last : Nat) (s : State) : (shown (portCfgApply p value mask last s)).1 = (shown s).1 := by
  grind [portCfgApply, shown_setPort, shown_showPort, standing_setBit, standing_setRegWord]

theorem shown_presentFrame (p : Nat) (m : List (Nat × S48)) (s : State) : shown (presentFrame p m s) = shown s := by
  grind [presentFrame, shown_setPort, (shown_setBit Fld.PORT_FLAGS_CLIP_STICKY rfl)]

theorem shown_inputPort (p k : Nat) (words : List Nat) (s : State) : shown (inputPort p k words s) = shown s := by
  grind [inputPort, shown_ledgerAdd, shown_setPort, shown_portOver, shown_portUnder, shown_landFrame, shown_forEach]

theorem shown_countPresented (s : State) (p n d under : Nat) : shown (countPresented s p n d under) = shown s := shown_ledgerAdd ..

theorem shown_outputPort (p : Nat) (s : State) : shown (outputPort p s) = shown s := by
  grind [outputPort, shown_ledgerAdd, shown_setPort, shown_portOver, shown_portUnder, shown_setLine, shown_presentFrame, shown_countPresented]

theorem shown_pdmInput (i k : Nat) (mics : List (Nat × S48)) (s : State) : shown (pdmInput i k mics s) = shown s := by
  unfold pdmInput
  dsimp only
  rw [shown_setLine, shown_ledgerAdd]
  generalize List.filter (fun m => fbit s Fld.PDM_RING_CFG_EN m) [2 * i, 2 * i + 1] = ms
  generalize 0 = n
  induction ms generalizing s n with
  | nil => rfl
  | cons m ms ih => exact (ih _ _).trans (shown_ringWrite ..)

theorem shown_portsBoundary (b : Nat) (words : List (Nat × Nat × Nat)) (mics : List (Nat × S48)) (s : State) :
    shown (portsBoundary b words mics s) = shown s := by
  grind [portsBoundary, shown_setPort, shown_startAtBoundary, shown_stopAtBoundary, shown_inputPort, shown_outputPort, shown_pdmInput, shown_forEach]

theorem shown_tokenAudit (s : State) : (shown (tokenAudit s)).1 = (shown s).1 := by
  grind [tokenAudit, shown_raise, shown_moveToken, standing_countFld, standing_setBit, standing_setFld, standing_forEach, shown, fld, regWord]

theorem shown_ovrSampleInputs (s : State) : (shown (ovrSampleInputs s)).1 = (shown s).1 := by
  grind [ovrSampleInputs, standing_setFld]

theorem shown_overrideBoundary (b : Nat) (s : State) : (shown (overrideBoundary b s)).1 = (shown s).1 := by
  grind [overrideBoundary, shown_raise, shown_ovrSampleInputs, standing_countFld, standing_setBit, standing_setFld, standing_setPair, shown, fld, regWord]

theorem shown_setTrace (t : Nat) (x : TraceSt) (s : State) : shown (setTrace t x s) = shown s := rfl

theorem shown_sendOut (x : Sent) (s : State) : (shown (sendOut x s)).1 = (shown s).1 := rfl

theorem shown_udpOut (mac : Nat) (p : TxPacket) (s : State) : (shown (udpOut mac p s)).1 = (shown s).1 := by
  grind [udpOut, shown_bumpFresh, shown_sendOut]

theorem shown_udpSend (p : TxPacket) (ip : Nat) (s : State) : (shown (udpSend p ip s)).1 = (shown s).1 := by
  grind [udpSend, shown_sendOut, shown_udpOut, shown, fld, regWord]

theorem shown_pcieFlush (n q : Nat) (s : State) : (shown (pcieFlush n q s)).1 = (shown s).1 := by
  induction n generalizing s with
  | zero => rfl
  | succ n ih =>
    unfold pcieFlush
    split
    · rfl
    · split
      · rfl
      · rw [ih]
        split <;> rfl

theorem shown_queuePacket (p : TxPacket) (s : State) : (shown (queuePacket p s)).1 = (shown s).1 := by
  unfold queuePacket
  split
  · rfl
  · rfl
  · exact shown_pcieFlush ..
  · exact shown_sendOut ..
  · exact shown_udpSend ..

theorem shown_setSession (x : Session) (s : State) : (shown (setSession x s)).1 = (shown s).1 := rfl

theorem shown_sendReply (r : Req) (p : Rep) (s : State) : (shown (sendReply r p s)).1 = (shown s).1 := by
  grind [sendReply, shown_queuePacket]

theorem shown_answer (r : Req) (p : Rep) (s : State) : (shown (answer r p s)).1 = (shown s).1 := by
  grind [answer, shown_queuePacket, shown_setSession, shown_sendReply]

theorem shown_setJob (j : JobRec) (s : State) : shown (setJob j s) = shown s := rfl

theorem shown_endJob (h state final detail result : Nat) (s : State) : shown (endJob h state final detail result s) = shown s := by
  grind [endJob, shown_raiseTo, shown_setJob]

theorem shown_setAmp (c : Nat) (x : AmpSt) (s : State) : shown (setAmp c x s) = shown s := rfl

theorem shown_showGroup (g : Nat) (s : State) : shown (showGroup g s) = shown s := by
  grind [showGroup, (shown_setFld Fld.AMP_GROUP_STATUS_STATE rfl)]

theorem shown_setAmpState (c n : Nat) (s : State) : shown (setAmpState c n s) = shown s := by
  grind [setAmpState, shown_showGroup, (shown_setFld Fld.AMP_STATE_STATE rfl)]

theorem shown_gainGo (c : Nat) (s : State) : shown (gainGo c s) = shown s := by
  grind [gainGo, shown_setAmp]

theorem shown_muteNow (c : Nat) (s : State) : (shown (muteNow c s)).1 = (shown s).1 := by
  grind [muteNow, shown_setAmp, shown_gainGo]

theorem shown_muteTap (c b : Nat) (s : State) : (shown (muteTap c b s)).1 = (shown s).1 := by
  grind [muteTap, shown_setAmp]

theorem shown_ampExit (c : Nat) (e : AmpSample) (s : State) : shown (ampExit c e s) = shown s := by
  grind [ampExit, shown_setAmp, shown_gainGo, (shown_countFld Fld.AMP_COUNTS_CLIP rfl), (shown_setBit Fld.AMP_FAULT_CLIP rfl)]

theorem shown_ampEnter (f : Nat) (ovr : List Nat) (c : Nat) (s : State) : shown (ampEnter f ovr c s) = shown s := by
  grind [ampEnter, shown_setAmp, shown_ampExit]

theorem shown_ampSamples (b : Nat) (s : State) : shown (ampSamples b s) = shown s := by
  grind [ampSamples, shown_ampEnter, shown_forEach]

theorem shown_diagJobCheck (h : Nat) (s : State) : shown (diagJobCheck h s) = shown s := by
  grind [diagJobCheck, shown_raise, shown_endJob]

theorem shown_testEnd (c outcome cls : Nat) (s : State) : shown (testEnd c outcome cls s) = shown s := by
  grind [testEnd, shown_setAmp, shown_setAmpState, shown_gainGo, shown_diagJobCheck]

theorem shown_testAbort (c : Nat) (s : State) : shown (testAbort c s) = shown s := by
  grind [testAbort, shown_testEnd]

theorem shown_beginRelease (quick ready : Bool) (c : Nat) (s : State) : shown (beginRelease quick ready c s) = shown s := by
  grind [beginRelease, shown_setAmp, shown_setAmpState, (shown_setBit Fld.AMP_STATE_ENABLE rfl)]

theorem shown_ampTrigger (s : State) : (shown (ampTrigger s)).1 = (shown s).1 := by
  grind [ampTrigger, shown_beginRelease, standing_forEach]

theorem shown_wakeGroup (g : Nat) (s : State) : shown (wakeGroup g s) = shown s := by
  grind [wakeGroup, (shown_clrBit Fld.AMP_SIL_STATUS_ASLEEP rfl), shown_forEach]

theorem shown_ovrWake (b : Nat) (s : State) : shown (ovrWake b s) = shown s := by
  grind [ovrWake, shown_testAbort, shown_beginRelease, shown_wakeGroup, shown_forEach]

theorem shown_requestStop (c : Nat) (s : State) : (shown (requestStop c s)).1 = (shown s).1 := by
  grind [requestStop, shown_setAmp, shown_setAmpState]

theorem shown_enChanged (c : Nat) (s : State) : (shown (enChanged c s)).1 = (shown s).1 := by
  grind [enChanged, shown_setAmpState, shown_ampTrigger, shown_requestStop]

theorem shown_freqPending (cs : List Nat) (s : State) : (shown (freqPending cs s)).1 = (shown s).1 := by
  grind [freqPending, standing_setBit, standing_forEach]

theorem shown_ampRegChanged (a : Nat) (old : Word32) (tap : Option Nat) (s : State) : (shown (ampRegChanged a old tap s)).1 = (shown s).1 := by
  unfold ampRegChanged
  dsimp only
  split
  · rfl
  split
  · split
    · split
      · refine (shown_enChanged ..).trans ?_
        split
        · split
          · exact shown_muteTap ..
          · exact shown_muteNow ..
        · rfl
      · split
        · split
          · exact shown_muteTap ..
          · exact shown_muteNow ..
        · rfl
    · split
      · exact shown_freqPending ..
      · rfl
  split
  · exact shown_freqPending ..
  split
  · exact shown_freqPending ..
  · rfl

theorem shown_avsSend (v : Nat) (s : State) : shown (avsSend v s) = shown s := by
  grind [avsSend, shown, fld, regWord]

theorem shown_avsWindow (s : State) : shown (avsWindow s) = shown s :=
  (shown_setFld Fld.SLACK_WINDOW_SLACK (i := 0) rfl _ _).trans (shown_setFld Fld.SLACK_WINDOW_UNIT (i := 0) rfl _ _)

theorem shown_showSetpoint (s : State) : shown (showSetpoint s) = shown s :=
  (shown_setFld Fld.AVS_STATUS_SETPOINT (i := 0) rfl _ _).trans (shown_setFld Fld.AVS_STATUS_BELOW_CERT (i := 0) rfl _ _)

theorem shown_putSetpoint (h : Nat) (s : State) : shown (putSetpoint h s) = shown s := by
  unfold putSetpoint
  split
  · rfl
  · exact (shown_avsSend _ _).trans ((shown_clrBit Fld.AVS_STATUS_AT_VMAX (i := 0) rfl _).trans ((shown_avsWindow _).trans (shown_showSetpoint _)))

theorem shown_avsFloorOn (s : State) : shown (avsFloorOn s) = shown s := by
  grind [avsFloorOn, shown_putSetpoint, (shown_setBit Fld.AVS_STATUS_TAP_FLOOR (i := 0) rfl)]

theorem shown_avsRaise (b h slack : Nat) (s : State) : (shown (avsRaise b h slack s)).1 = (shown s).1 := by
  grind [avsRaise, shown_raiseAt, shown_putSetpoint, standing_setBit, shown, fld, regWord]

theorem shown_avsLate (b : Nat) (s : State) : (shown (avsLate b s)).1 = (shown s).1 := by
  grind [avsLate, shown_avsRaise]

theorem shown_avsUp (b slack : Nat) (s : State) : (shown (avsUp b slack s)).1 = (shown s).1 := by
  grind [avsUp, shown_avsRaise]

theorem shown_avsClose (b : Nat) (m : Int) (s : State) : (shown (avsClose b m s)).1 = (shown s).1 := by
  grind [avsClose, shown_avsWindow, shown_avsUp, shown, fld, regWord]

theorem shown_avsStart (s : State) : (shown (avsStart s)).1 = (shown s).1 := by
  grind [avsStart, shown_avsWindow, shown_putSetpoint]

theorem shown_avsLimits (s : State) : (shown (avsLimits s)).1 = (shown s).1 := by
  grind [avsLimits, shown_putSetpoint]

theorem shown_avsRest (s : State) : (shown (avsRest s)).1 = (shown s).1 := by
  grind [avsRest, shown_putSetpoint]

theorem shown_vcoreMeas (mv : Nat) (s : State) : shown (vcoreMeas mv s) = shown s := by
  grind [vcoreMeas, (shown_setBit Fld.SUPPLY_STATUS_VCORE_LOW rfl), (shown_setFld Fld.VCORE_MEAS_LOWEST rfl), (shown_setFld Fld.VCORE_MEAS_MEAS rfl)]

theorem shown_putRamp (r : Ramp) (s : State) : (shown (putRamp r s)).1 = (shown s).1 := rfl

theorem shown_rampsStart (old new : SMap Word32) (g : Graph) (b : Nat) (s : State) : (shown (rampsStart old new g b s)).1 = (shown s).1 := by
  grind [rampsStart, shown_putRamp, standing_forEach]

theorem shown_setBrew (h : Nat) (b : Brew) (s : State) : (shown (setBrew h b s)).1 = (shown s).1 := rfl

theorem shown_sendTo (ep : Nat) (bytes : List Byte) (s : State) : (shown (sendTo ep bytes s)).1 = (shown s).1 := by
  grind [sendTo, shown_queuePacket]

theorem shown_ownSend (x : OwnSession) (num op : Nat) (payload : List Byte) (s : State) : (shown (ownSend x num op payload s)).1 = (shown s).1 := by
  grind [ownSend, shown_sendTo, shown, fld, regWord]

theorem shown_sendOwn (ep op : Nat) (payload : List Byte) (s : State) : (shown (sendOwn ep op payload s)).1 = (shown s).1 := by
  grind [sendOwn, shown_ownSend, shown, fld, regWord]

theorem shown_sendTap (ep group frame handle kind cause eff : Nat) (s : State) :
    (shown (sendTap ep group frame handle kind cause eff s)).1 = (shown s).1 := by
  grind [sendTap, shown_sendOwn]

theorem shown_fillBursts (n a : Nat) (bs : List Byte) (s : State) : (shown (fillBursts n a bs s)).1 = (shown s).1 := by
  induction n generalizing a bs s with
  | zero => rfl
  | succ n ih =>
    cases bs with
    | nil => rfl
    | cons b bs =>
      rw [fillBursts, ih, shown_xbWrite]
      exact List.cons_ne_nil _ _

theorem shown_fillMemory (a : Nat) (bs : List Byte) (s : State) : (shown (fillMemory a bs s)).1 = (shown s).1 := by
  grind [fillMemory, shown_fillBursts]

theorem shown_resyncWindow (u : Nat) (s : State) : (shown (resyncWindow u s)).1 = (shown s).1 := by
  grind [resyncWindow, shown_fillMemory]

theorem shown_dropStaged (k : Claim) (s : State) : (shown (dropStaged k s)).1 = (shown s).1 := by
  cases k with
  | window u => exact shown_resyncWindow u s
  | page u => rfl
  | reg a => rfl
  | bank k => rfl

theorem shown_brewReopen (h : Nat) (s : State) : (shown (brewReopen h s)).1 = (shown s).1 := by
  grind [brewReopen, shown_setBrew, shown_dropStaged, standing_forEach]

theorem shown_bakeLate (h : Nat) (s : State) : (shown (bakeLate h s)).1 = (shown s).1 := by
  grind [bakeLate, shown_sendTap, shown_brewReopen, shown, fld, regWord]

theorem shown_floorTail (s : State) : (shown (floorTail s)).1 = (shown s).1 := rfl

theorem shown_setGroup (g : TapGroup) (s : State) : (shown (setGroup g s)).1 = (shown s).1 := rfl

theorem shown_noteDone (gid ep : Nat) (eff : Option Nat) (cause : Nat) (s : State) : (shown (noteDone gid ep eff cause s)).1 = (shown s).1 := by
  grind [noteDone, shown_setGroup]

theorem shown_closeGroup (gid : Nat) (s : State) : (shown (closeGroup gid s)).1 = (shown s).1 := by
  grind [closeGroup, shown_raise, shown_endJob, shown_setGroup, standing_countFld, standing_setBit]

theorem shown_closeIfDone (gid : Nat) (s : State) : (shown (closeIfDone gid s)).1 = (shown s).1 := by
  grind [closeIfDone, shown_closeGroup]

theorem shown_reportDone (h : Nat) (g : BrewGroup) (eff : Option Nat) (cause : Nat) (s : State) : (shown (reportDone h g eff cause s)).1 = (shown s).1 := by
  grind [reportDone, shown_sendTap, shown_noteDone, shown_closeIfDone]

theorem shown_know (h : Nat) (g : BrewGroup) (outcome : Nat) (s : State) : (shown (know h g outcome s)).1 = (shown s).1 := by
  grind [know, shown, fld, regWord]

theorem shown_markDecisions (b t : Nat) (s : State) : (shown (markDecisions b t s)).1 = (shown s).1 := rfl

theorem shown_bakeDeadline (h b : Nat) (s : State) : (shown (bakeDeadline h b s)).1 = (shown s).1 := by
  grind [bakeDeadline, shown_endJob, shown_setBrew, shown_brewReopen, shown_bakeLate, standing_setBit]

theorem shown_enterDoubt (h b : Nat) (s : State) : (shown (enterDoubt h b s)).1 = (shown s).1 := by
  grind [enterDoubt, shown_raise, shown_setBrew, standing_setBit]

theorem shown_linkPut (t : Nat) (p : LinkPkt) (s : State) : shown (linkPut t p s) = shown s := by
  grind [linkPut, shown_setTrace]

theorem shown_sendRecordOn (t kind : Nat) (body : List Byte) (s : State) : shown (sendRecordOn t kind body s) = shown s := by
  grind [sendRecordOn, shown_linkPut]

theorem shown_announce (s : State) : (shown (announce s)).1 = (shown s).1 := by
  grind [announce, shown_sendRecordOn, standing_forEach, shown, fld, regWord]

theorem shown_setTeamLock (on : Bool) (s : State) : (shown (setTeamLock on s)).1 = (shown s).1 := by
  grind [setTeamLock, shown_raise, shown_announce, standing_countFld, standing_setFld]

theorem shown_herdUpdate (s : State) : (shown (herdUpdate s)).1 = (shown s).1 := by
  grind [herdUpdate, standing_setFld]

theorem shown_lockFollow (s : State) : (shown (lockFollow s)).1 = (shown s).1 := by
  grind [lockFollow, shown_setTeamLock, shown_herdUpdate]

theorem shown_showActive (a : Nat) (s : State) : (shown (showActive a s)).1 = (shown s).1 := by
  grind [showActive, standing_setFld, standing_forEach]

theorem shown_enterHoldover (old : Nat) (s : State) : (shown (enterHoldover old s)).1 = (shown s).1 := by
  grind [enterHoldover, shown_raise, shown_lockFollow, shown_showActive, standing_setBit, standing_setFld]

theorem shown_switchRef (old n : Nat) (s : State) : (shown (switchRef old n s)).1 = (shown s).1 := by
  grind [switchRef, shown_raise, shown_lockFollow, shown_showActive, standing_setBit, standing_setFld, shown, fld, regWord]

theorem shown_refDrop (n : Nat) (s : State) : (shown (refDrop n s)).1 = (shown s).1 := by
  grind [refDrop, standing_clrBit, standing_setFld]

theorem shown_refCheck (s : State) : (shown (refCheck s)).1 = (shown s).1 := by
  grind [refCheck, shown_refDrop, standing_forEach]

theorem shown_selectRef (s : State) : (shown (selectRef s)).1 = (shown s).1 := by
  grind [selectRef, shown_enterHoldover, shown_switchRef, shown_refCheck, standing_setFld, standing_forEach]

theorem shown_teamRoles (s : State) : (shown (teamRoles s)).1 = (shown s).1 := by
  grind [teamRoles, shown_setTeamLock, standing_setFld, shown, fld, regWord]

theorem shown_teamUpdate (s : State) : (shown (teamUpdate s)).1 = (shown s).1 := by
  grind [teamUpdate, shown_selectRef, shown_teamRoles]

theorem shown_setPairState (n : Nat) (s : State) : shown (setPairState n s) = shown s := by
  grind [setPairState, (shown_setFld Fld.SHADOW_STATUS_STATE rfl)]

theorem shown_switchCancel (s : State) : shown (switchCancel s) = shown s := by
  unfold switchCancel
  split
  · rfl
  · split <;> rfl

theorem shown_mirrorLost (s : State) : (shown (mirrorLost s)).1 = (shown s).1 := by
  grind [mirrorLost, shown_raise, shown_setPairState, standing_setBit, shown, fld, regWord]

theorem shown_setDom (d : Nat) (x : TimeDom) (s : State) : (shown (setDom d x s)).1 = (shown s).1 := by
  grind [setDom, shown, fld, regWord]

theorem shown_setMap (k : Nat) (t : Int) (s : State) : (shown (setMap k t s)).1 = (shown s).1 := by
  grind [setMap, standing_setFld]

theorem shown_showLanes (t mask : Nat) (s : State) : (shown (showLanes t mask s)).1 = (shown s).1 := by
  grind [showLanes, standing_setFld]

theorem shown_setTraceState (t n : Nat) (s : State) : (shown (setTraceState t n s)).1 = (shown s).1 := by
  grind [setTraceState, standing_setFld]

theorem shown_commaCheck (t : Nat) (s : State) : (shown (commaCheck t s)).1 = (shown s).1 := by
  grind [commaCheck, shown_setTraceState]

theorem shown_auditFail (t vc : Nat) (s : State) : (shown (auditFail t vc s)).1 = (shown s).1 := by
  grind [auditFail, shown_raise, shown_setTrace, standing_setBit]

theorem shown_creditAudit (t : Nat) (s : State) : (shown (creditAudit t s)).1 = (shown s).1 := by
  grind [creditAudit, shown_auditFail, standing_forEach]

theorem shown_lcpDue (t : Nat) (l : LcpDue) (s : State) : (shown (lcpDue t l s)).1 = (shown s).1 := by
  grind [lcpDue, shown_setTrace]

theorem shown_traceLost (t : Nat) (s : State) : (shown (traceLost t s)).1 = (shown s).1 := by
  grind [traceLost, shown_answer, shown_teamUpdate, shown_mirrorLost, shown, fld, regWord]

theorem shown_traceFail (t cause next : Nat) (s : State) : (shown (traceFail t cause next s)).1 = (shown s).1 := by
  grind [traceFail, shown_raise, shown_setTrace, shown_selectRef, shown_showLanes, shown_setTraceState, shown_commaCheck, shown_traceLost, standing_clrBit,
    standing_countFld, standing_setBit, standing_setFld, standing_forEach]

theorem shown_countRestripe (t lanes : Nat) (s : State) : (shown (countRestripe t lanes s)).1 = (shown s).1 := by
  grind [countRestripe, shown_raise, standing_countFld, standing_setBit]

theorem shown_restripeOver (t : Nat) (s : State) : (shown (restripeOver t s)).1 = (shown s).1 := by
  grind [restripeOver, shown_setTraceState]

theorem shown_restripeApply (t b time : Nat) (s : State) : (shown (restripeApply t b time s)).1 = (shown s).1 := by
  grind [restripeApply, shown_setTrace, shown_traceFail, shown_countRestripe, shown_restripeOver]

theorem shown_markerTx (t b time : Nat) (s : State) : (shown (markerTx t b time s)).1 = (shown s).1 := by
  grind [markerTx, shown_sendOut, shown_creditAudit, shown_lcpDue, shown_restripeApply]

theorem shown_setRxCell (i : Nat) (c : RxCell) (s : State) : shown (setRxCell i c s) = shown s := rfl

theorem shown_rxRing (i f : Nat) (v : S48) (s : State) : shown (rxRing i f v s).1 = shown s := shown_ringWrite ..

theorem shown_rxLand (i f : Nat) (v : S48) (s : State) : shown (rxLand i f v s) = shown s := by
  grind [rxLand, shown_ledgerAdd, shown_setRxCell, shown_rxRing]

theorem shown_rxReplace (k f cause : Nat) (paired : Bool) (s : State) : shown (rxReplace k f cause paired s) = shown s := by
  grind [rxReplace, shown_ledgerAdd, shown_setRxCell, shown_rxRing]

theorem shown_rxFail (i f cause : Nat) (s : State) : shown (rxFail i f cause s) = shown s := by
  grind [rxFail, shown_ledgerAdd, shown_setRxCell, shown_rxReplace]

theorem shown_rxSection (f cause : Nat) (es : List Nat) (vs : Option (List S48)) (s : State) : shown (rxSection f cause es vs s) = shown s := by
  unfold rxSection
  split
  · refine shown_forEach _ _ _ fun p s => ?_
    split
    · exact shown_rxLand ..
    · rfl
  · refine shown_forEach _ _ _ fun p s => ?_
    split
    · exact shown_rxFail ..
    · rfl

theorem shown_replaceTrace (t f cause : Nat) (s : State) : shown (replaceTrace t f cause s) = shown s := by
  grind [replaceTrace, shown_rxSection]

theorem shown_rxBoundary (t b : Nat) (s : State) : shown (rxBoundary t b s) = shown s := by
  grind [rxBoundary, shown_replaceTrace, (shown_addFld Fld.HERD_LATE_COUNT_COUNT rfl)]

theorem shown_sendStreamLists (old new : Graph) (b : Nat) (s : State) : (shown (sendStreamLists old new b s)).1 = (shown s).1 := by
  grind [sendStreamLists, shown_sendRecordOn, standing_forEach]

theorem shown_setAlign (o : Nat) (f : Option Nat) (s : State) : (shown (setAlign o f s)).1 = (shown s).1 := by
  grind [setAlign, standing_setFld, shown, fld, regWord]

theorem shown_applyAligns (b : Nat) (s : State) : (shown (applyAligns b s)).1 = (shown s).1 := by
  grind [applyAligns, shown_setAlign, standing_countFld, standing_setBit, standing_forEach]

theorem shown_remapAt (b : Nat) (r : Int) (s : State) : (shown (remapAt b r s)).1 = (shown s).1 := by
  grind [remapAt, shown_setMap, standing_setFld, shown, fld, regWord]

theorem shown_showMaster (d : Nat) (old : Option Nat) (s : State) : (shown (showMaster d old s)).1 = (shown s).1 := by
  grind [showMaster, shown_setDom, standing_setFld]

theorem shown_ptpRestart (d : Nat) (s : State) : (shown (ptpRestart d s)).1 = (shown s).1 := by
  grind [ptpRestart, shown_selectRef, shown_setDom, shown_showMaster]

theorem shown_streamsStart (s : State) : (shown (streamsStart s)).1 = (shown s).1 := by
  grind [streamsStart, shown_setActive, standing_forEach]

theorem shown_streamsOff (s : State) : (shown (streamsOff s)).1 = (shown s).1 := by
  grind [streamsOff, shown_setActive, standing_forEach]

theorem shown_streamsSafe (s : State) : shown (streamsSafe s) = shown s := by
  grind [streamsSafe, shown_setActive, shown_forEach]

theorem shown_avsFloorUpdate (s : State) : (shown (avsFloorUpdate s)).1 = (shown s).1 := by
  grind [avsFloorUpdate, shown_avsFloorOn, standing_clrBit]

theorem shown_pairActLow (s : State) : shown (pairActLow s) = shown s := by
  grind [pairActLow, (shown_clrBit Fld.SHADOW_STATUS_PAIR_ACT rfl)]

theorem shown_acquireStart (s : State) : shown (acquireStart s) = shown s :=
  (shown_setPairState 2 _).trans (shown_setFld Fld.SHADOW_STATUS_ACQ_PROGRESS rfl _ _)

theorem shown_shutBoundary (b : Nat) (raw : Int) (s : State) : shown (shutBoundary b raw s) = shown s := by
  grind [shutBoundary, shown, fld, regWord]

theorem shown_copyStart (s : State) : shown (copyStart s) = shown s := rfl

theorem shown_senseLow (t : Nat) (s : State) : shown (senseLow t s) = shown s := by
  grind [senseLow, shown, fld, regWord]

theorem shown_diverge (b : Nat) (s : State) : shown (diverge b s) = shown s :=
  (shown_raise ..).trans ((shown_setFld Fld.SHADOW_LAST_DIV_HI_FRAME_HI rfl _ _).trans ((shown_setFld Fld.SHADOW_LAST_DIV_LO_FRAME_LO rfl _ _).trans
    ((shown_setBit Fld.SHADOW_STATUS_DIV_STICKY rfl _).trans (shown_countFld Fld.SHADOW_DIV_COUNT_COUNT rfl _))))

theorem shown_standbyCompare (f : Nat) (s : State) : shown (standbyCompare f s) = shown s := by
  grind [standbyCompare, shown_setPairState, shown_switchCancel, shown_acquireStart, shown_diverge, (shown_countFld Fld.SHADOW_SKIP_COUNT_COUNT rfl),
    shown, fld, regWord]

theorem shown_mainCompare (f : Nat) (s : State) : shown (mainCompare f s) = shown s := by
  grind [mainCompare, shown_diverge, shown, fld, regWord]

theorem shown_copyCheck (s : State) : shown (copyCheck s) = shown s := by
  grind [copyCheck, shown_copyStart]

theorem shown_pairBoundary (b t : Nat) (s : State) : shown (pairBoundary b t s) = shown s := by
  grind [pairBoundary, shown_senseLow, shown_standbyCompare, shown_mainCompare, shown_copyCheck]

theorem shown_noteIso (bit : Nat) (frames : List Nat) (s : State) : (shown (noteIso bit frames s)).1 = (shown s).1 := rfl

theorem shown_flagCfgErr (a : Nat) (s : State) : (shown (flagCfgErr a s)).1 = (shown s).1 := by
  grind [flagCfgErr, standing_setBit]

theorem shown_pdmStop (i last : Nat) (again : Bool) (s : State) : (shown (pdmStop i last again s)).1 = (shown s).1 := by
  grind [pdmStop, shown_setPort]

theorem shown_clkoutChanged (o old new : Nat) (s : State) : (shown (clkoutChanged o old new s)).1 = (shown s).1 := by
  grind [clkoutChanged, standing_clrBit, standing_setBit]

theorem shown_rxPairCheck (i : Nat) (s : State) : (shown (rxPairCheck i s)).1 = (shown s).1 := by
  grind [rxPairCheck, standing_setBit]

theorem shown_regChanged (tap : Option Nat) (a i : Nat) (old : Word32) (s : State) : (shown (regChanged tap a i old s)).1 = (shown s).1 := by
  grind [regChanged, shown_ovrSampleInputs, shown_ampRegChanged, shown_avsLimits, shown_selectRef, shown_ptpRestart, shown_pdmStop, shown_clkoutChanged,
    shown_rxPairCheck, standing_forEach]

theorem shown_rwApply (tap : Option Nat) (row : RegRow) (i a v : Nat) (fields : List RegField) (s : State) :
    (shown (rwApply tap row i a v fields s)).1 = (shown s).1 := by
  grind [rwApply, shown_flagCfgErr, shown_regChanged, standing_setRegWord]

theorem shown_unstage (a : Nat) (s : State) : (shown (unstage a s)).1 = (shown s).1 := rfl

theorem shown_tapPage (u : Nat) (s : State) : (shown (tapPage u s)).1 = (shown s).1 := by
  grind [tapPage, shown_setPages, shown_takeSwap]

theorem shown_tapSelect (u : Nat) (s : State) : (shown (tapSelect u s)).1 = (shown s).1 := by
  grind [tapSelect, shown_setPages, shown_takeSwap]

theorem shown_tapBank (k : Nat) (s : State) : (shown (tapBank k s)).1 = (shown s).1 := by
  grind [tapBank, shown_setStall, shown_moveToken, shown_unstage, standing_setBit, shown, fld, regWord]

theorem shown_tapReg (b a : Nat) (s : State) : (shown (tapReg b a s)).1 = (shown s).1 := by
  grind [tapReg, shown_portCfgApply, shown_rwApply, shown_unstage]

theorem shown_tapClaim (x : Brew) (us : List Nat) (b : Nat) (k : Claim) (s : State) : (shown (tapClaim x us b k s)).1 = (shown s).1 := by
  cases k <;> unfold tapClaim <;> grind [shown_tapPage, shown_tapSelect, shown_tapBank, shown_tapReg]

theorem shown_tapStreams (s : State) : (shown (tapStreams s)).1 = (shown s).1 := by
  grind [tapStreams, shown_setActive, shown_streamsStart, shown_streamsSafe, standing_forEach]

theorem shown_streamsPrune (s : State) : (shown (streamsPrune s)).1 = (shown s).1 := by
  grind [streamsPrune, shown_setActive, standing_forEach]

theorem shown_tapChan (i : Nat) (c : ChanDesc) (s : State) : (shown (tapChan i c s)).1 = (shown s).1 := by
  grind [tapChan, shown_setChan]

theorem shown_tapShares (s : State) : (shown (tapShares s)).1 = (shown s).1 := by
  grind [tapShares, standing_setFld, standing_forEach]

theorem shown_setLive (x : ProgramSet) (s : State) : (shown (setLive x s)).1 = (shown s).1 := rfl

theorem shown_tapProgram (x : Brew) (o : CompileOut) (s : State) : (shown (tapProgram x o s)).1 = (shown s).1 := by
  grind [tapProgram, shown_setPort, shown_tapStreams, shown_tapChan, shown_tapShares, shown_setLive, standing_setFld, standing_forEach, shown, fld, regWord]

theorem shown_tapEnds (h b : Nat) (x : Brew) (s : State) : (shown (tapEnds h b x s)).1 = (shown s).1 := by
  grind [tapEnds, shown_raiseTo, shown_endJob, shown_reportDone, standing_forEach]

theorem shown_knowTapped (h : Nat) (x : Brew) (s : State) : (shown (knowTapped h x s)).1 = (shown s).1 := by
  grind [knowTapped, shown_know]

theorem shown_tapArmed (h b : Nat) (s : State) : (shown (tapArmed h b s)).1 = (shown s).1 := by
  grind [tapArmed, shown_rampsStart, shown_setBrew, shown_sendStreamLists, shown_tapClaim, shown_tapProgram, shown_tapEnds, shown_knowTapped,
    standing_forEach, shown, fld, regWord]

theorem shown_tapSettle (h : Nat) (s : State) : (shown (tapSettle h s)).1 = (shown s).1 := by
  grind [tapSettle, shown_setBrew, shown_tapPage, shown_setLive, standing_forEach, shown, fld, regWord]

theorem shown_tapBrew (h b : Nat) (s : State) : (shown (tapBrew h b s)).1 = (shown s).1 := by
  grind [tapBrew, shown_floorTail, shown_tapArmed, shown_tapSettle]

theorem shown_tapDefer (h b : Nat) (s : State) : (shown (tapDefer h b s)).1 = (shown s).1 := by
  grind [tapDefer, shown_raise, shown_setBrew, standing_countFld, standing_setBit]

theorem shown_tapsBoundary (b : Nat) (s : State) : (shown (tapsBoundary b s)).1 = (shown s).1 := by
  grind [tapsBoundary, shown_bakeDeadline, shown_enterDoubt, shown_tapBrew, shown_tapDefer, standing_forEach]

theorem shown_standInSend (u f : Nat) (p : PostPlan) (s : State) : (shown (standInSend u f p s)).1 = (shown s).1 := by
  grind [standInSend, shown_ledgerAdd, shown_injectFill, shown_dropWaiter]

theorem shown_standInSignal (f : Nat) (p : PostPlan) (s : State) : (shown (standInSignal f p s)).1 = (shown s).1 := by
  grind [standInSignal, shown_sendPost]

theorem shown_standIn (f u : Nat) (s : State) : (shown (standIn f u s)).1 = (shown s).1 := by
  grind [standIn, shown_ledgerAdd, shown_standInSend, shown_standInSignal, standing_forEach]

theorem shown_captureReport (first : Bool) (f : Nat) (es : List ReportEntry) (s : State) : (shown (captureReport first f es s)).1 = (shown s).1 := by
  grind [captureReport, standing_setBit, standing_setFld, shown, fld, regWord]

theorem shown_detectCircles (first : Bool) (f : Nat) (overs : List Nat) (s : State) : (shown (detectCircles first f overs s)).1 = (shown s).1 := by
  grind [detectCircles, shown_raise, shown_sendAbort, shown_captureReport, standing_setBit, standing_forEach]

theorem shown_pairConsec (n : Nat) (s : State) : (shown (pairConsec n s)).1 = (shown s).1 := by
  grind [pairConsec, shown_pairActLow, standing_setBit, shown, fld, regWord]

theorem shown_overruns (b : Nat) (s : State) : (shown (overruns b s)).1 = (shown s).1 := by
  grind [overruns, shown_raise, shown_standIn, shown_detectCircles, shown_pairConsec, standing_countFld, standing_setBit, standing_setFld,
    standing_setPair, standing_forEach]

theorem shown_foldSlack (f g : RegField) (x : Nat × Int) (s : State) : (shown (foldSlack f g x s)).1 = (shown s).1 := by
  grind [foldSlack, standing_setFld]

theorem shown_lateFrame (b : Nat) (s : State) : (shown (lateFrame b s)).1 = (shown s).1 := by
  grind [lateFrame, shown_raise, shown_avsLate, standing_countFld, standing_setBit]

theorem shown_closeFrame (b : Nat) (s : State) : (shown (closeFrame b s)).1 = (shown s).1 := by
  grind [closeFrame, shown_avsClose, shown_foldSlack, standing_setFld, shown, fld, regWord]

theorem shown_pruneUnits (b : Nat) (s : State) : shown (pruneUnits b s) = shown s := rfl

theorem shown_guardBoundary (b : Nat) (s : State) : (shown (guardBoundary b s)).1 = (shown s).1 := by
  grind [guardBoundary, shown_settleFrame, shown_overruns, shown_lateFrame, shown_closeFrame]

theorem shown_portLost (p : Nat) (s : State) : shown (portLost p s) = shown s := by
  grind [portLost, shown_ledgerAdd]

theorem shown_noteHeld (b : Nat) (s : State) : (shown (noteHeld b s)).1 = (shown s).1 := by
  grind [noteHeld, shown_noteIso, standing_forEach]

theorem shown_releaseStall (b t u : Nat) (s : State) : shown (releaseStall b t u s) = shown s := by
  grind [releaseStall, shown_startStall, shown, fld, regWord]

theorem shown_releaseChan (b i : Nat) (s : State) : shown (releaseChan b i s) = shown s := by
  grind [releaseChan, shown_startChan]

theorem shown_overhang (d : Nat) (s : State) : shown (overhang d s) = shown s := by
  grind [overhang, (shown_countFld Fld.DRV_STATUS_NF_OVERHANG rfl)]

theorem shown_stepRelease (b t : Nat) (s : State) : shown (stepRelease b t s) = shown s := by
  grind [stepRelease, shown_releaseStall, shown_releaseChan, shown_overhang, shown_forEach]

theorem shown_stepPorts (b : Nat) (x : BoundaryIn) (s : State) : shown (stepPorts b x s) = shown s := by
  grind [stepPorts, shown_portsBoundary, shown_ampSamples, shown_rxBoundary, shown_portLost, shown_forEach]

end Sys2Proof.Machine

/-!
# Frame boundaries

The statement FrameBoundaries (R14, R19, R27, R442, Table 1.4): the boundary's parts in their order, each by what it does to `shown`.
-/

namespace Sys2Proof.Machine

/-! ### The transitions that are pending -/

theorem standing_setPend (l : List PendMode) (s : State) : (shown (setPend l s)).1 = { (shown s).1 with pend := l } := by
  unfold setPend showPend
  cases l <;> rfl

/-- From `s` to `t` the mode becomes `m`, the list of pending transitions may change, and the rest of the standing stays. -/
def Enters (m : Mode) (s t : State) : Prop := ∃ l, (shown t).1 = { (shown s).1 with mode := m, pend := l }

theorem Enters.standing {m : Mode} {s t u : State} (h : Enters m s t) (hu : (shown u).1 = (shown t).1) : Enters m s u := by
  obtain ⟨l, hl⟩ := h
  exact ⟨l, hu.trans hl⟩

theorem Enters.after {m : Mode} {s r t : State} (h : Enters m r t) (hr : (shown r).1 = (shown s).1) : Enters m s t := by
  obtain ⟨l, hl⟩ := h
  exact ⟨l, hr ▸ hl⟩

/-- One mode after another. -/
theorem Enters.trans {m k : Mode} {s r t : State} (h : Enters k s r) (h' : Enters m r t) : Enters m s t := by
  obtain ⟨l, hl⟩ := h
  obtain ⟨l', hl'⟩ := h'
  exact ⟨l', by rw [hl', hl]⟩

theorem standing_pair (p : PairSt) (s : State) : (shown { s with pair := p }).1 = (shown s).1 := rfl

theorem standing_before (n : Nat) (s : State) : (shown { s with power := { s.power with before := n } }).1 = (shown s).1 := rfl

theorem enters_modeBecomes (m : Mode) (b : Nat) (s : State) : Enters m s (modeBecomes m b s) := ⟨s.power.pend, rfl⟩

theorem Enters.setPend {m : Mode} {s t : State} (h : Enters m s t) (l : List PendMode) : Enters m s (setPend l t) := by
  obtain ⟨k, hk⟩ := h
  exact ⟨l, by rw [standing_setPend, hk]⟩

theorem Enters.safeTrigger {m : Mode} {s t : State} (h : Enters m s t) (cause : Nat) : Enters m s (safeTrigger cause t) := by
  unfold Machine.safeTrigger
  split
  · split
    · exact h
    · exact (h.standing ((congrArg Prod.fst (shown_switchCancel _)).trans (standing_pair _ t))).setPend _
  · split
    · exact h.setPend _
    · exact h

/-! ### The modes as they are entered -/

/-- A field holds what fits of the number that is put into it. -/
theorem fld_setFld_mod (f : RegField) (hw : f.hi < 32) (hl : f.lo ≤ f.hi) (i v : Nat) (s : State) :
    fld (setFld f i v s) f i = v % 2 ^ (f.hi + 1 - f.lo) := by
  have hput : setFld f i v s = setFld f i (v % 2 ^ (f.hi + 1 - f.lo)) s := by
    unfold setFld putBits
    rw [Nat.mod_mod]
  rw [hput, fld_setFld s f i _ hw (Nat.mod_lt _ (Nat.two_pow_pos _)) hl]

/-- A temperature at the warning threshold adds a SAFE trigger to what has been entered (R453). -/
theorem Enters.warned {m : Mode} {s t : State} (h : Enters m s t) :
    Enters m s (if fbit t Fld.THERM_STATUS_WARN_ACTIVE then Machine.safeTrigger 3 t else t) := by
  split
  · exact h.safeTrigger 3
  · exact h

theorem enters_run (b : Nat) (s : State) : Enters .run s (enterRun b s) := by
  have hstart : Enters .run s (avsStart (streamsStart (modeBecomes .run b s))) :=
    (enters_modeBecomes .run b s).standing (by rw [shown_avsStart, shown_streamsStart])
  unfold enterRun
  generalize avsStart (streamsStart (modeBecomes .run b s)) = x at hstart
  dsimp only
  have hact : Enters .run s (if fld x Fld.SHADOW_STATUS_STATE = 1 ∧ fld x Fld.FG_STATUS_CONSEC < 2 then setBit Fld.SHADOW_STATUS_PAIR_ACT 0 x else x) := by
    split
    · exact hstart.standing (standing_setBit ..)
    · exact hstart
  generalize (if fld x Fld.SHADOW_STATUS_STATE = 1 ∧ fld x Fld.FG_STATUS_CONSEC < 2 then setBit Fld.SHADOW_STATUS_PAIR_ACT 0 x else x) = y at hact
  exact (hact.standing (shown_ampTrigger y)).warned

theorem enters_shadow (b : Nat) (s : State) : Enters .shadow s (enterShadow b s) := by
  have hstart : Enters .shadow s (avsStart (avsFloorUpdate (streamsStart (pairActLow (modeBecomes .shadow b s))))) :=
    (enters_modeBecomes .shadow b s).standing (by rw [shown_avsStart, shown_avsFloorUpdate, shown_streamsStart, shown_pairActLow])
  unfold enterShadow
  generalize avsStart (avsFloorUpdate (streamsStart (pairActLow (modeBecomes .shadow b s)))) = x at hstart
  dsimp only
  have hrole : Enters .shadow s (setFld Fld.SHADOW_PARTNER_ROLE 0 2 { x with pair := { x.pair with displaced := false, locked := false, copy := none } }) :=
    hstart.standing ((standing_setFld ..).trans (standing_pair _ x))
  generalize setFld Fld.SHADOW_PARTNER_ROLE 0 2 { x with pair := { x.pair with displaced := false, locked := false, copy := none } } = y at hrole
  have hstops : Enters .shadow s (forEach allAmps requestStop y) :=
    hrole.standing (standing_forEach _ _ _ shown_requestStop)
  generalize forEach allAmps requestStop y = z at hstops
  have hpair : Enters .shadow s (if x.pair.displaced = true ∧ ¬ fbit z Fld.SHADOW_CTRL_AUTO_REACQ = true then setPairState 4 z else acquireStart z) := by
    split
    · exact hstops.standing (congrArg Prod.fst (shown_setPairState 4 z))
    · exact hstops.standing (congrArg Prod.fst (shown_acquireStart z))
  exact hpair.warned

theorem enters_configure (b : Nat) (s : State) : Enters .configure s (enterConfigure b s) := by
  have hrest : Enters .configure s (avsRest (avsFloorUpdate (streamsOff (pairActLow (modeBecomes .configure b s))))) :=
    (enters_modeBecomes .configure b s).standing (by rw [shown_avsRest, shown_avsFloorUpdate, shown_streamsOff, shown_pairActLow])
  unfold enterConfigure
  dsimp only
  generalize avsRest (avsFloorUpdate (streamsOff (pairActLow (modeBecomes .configure b s)))) = x at hrest
  have hstops : Enters .configure s (forEach allAmps requestStop (forEach (List.range 8) wakeGroup x)) :=
    hrest.standing ((standing_forEach _ _ _ shown_requestStop).trans (congrArg Prod.fst (shown_forEach _ _ _ shown_wakeGroup)))
  generalize forEach allAmps requestStop (forEach (List.range 8) wakeGroup x) = y at hstops ⊢
  split
  · exact hstops.standing (by rw [shown_setPairState, shown_switchCancel, standing_pair])
  · exact hstops

/-- SAFE is entered with its cause, of which MODE_STATUS shows three bits. -/
theorem enters_safe (cause b : Nat) (s : State) : Enters .safe s (enterSafe cause b s) ∧ (shown (enterSafe cause b s)).2 = cause % 8 := by
  have hmode : Enters .safe s (pairActLow (modeBecomes .safe b { s with power := { s.power with before := modeCode s.mode } })) :=
    ((enters_modeBecomes .safe b _).after (standing_before _ s)).standing (by rw [shown_pairActLow])
  have htail : shown (enterSafe cause b s) = shown (setFld Fld.MODE_STATUS_SAFE_CAUSE 0 cause
      (pairActLow (modeBecomes .safe b { s with power := { s.power with before := modeCode s.mode } }))) := by
    unfold enterSafe
    dsimp only
    rw [shown_ovrWake, shown_forEach _ _ _ shown_gainGo, shown_streamsSafe, shown_avsFloorOn]
  generalize pairActLow (modeBecomes .safe b { s with power := { s.power with before := modeCode s.mode } }) = x at hmode htail
  refine ⟨hmode.standing (by rw [htail, standing_setFld]), ?_⟩
  rw [htail]
  exact fld_setFld_mod Fld.MODE_STATUS_SAFE_CAUSE (by decide) (by decide) 0 cause x

/-! ### Which transition is due -/

section
variable {l : List PendMode} {b : Nat} {p : PendMode}

theorem find?_due_filter {q : PendMode → Bool} (h : l.find? (fun p => decide (p.frame ≤ b)) = some p) (hq : q p = true) :
    (l.filter q).find? (fun p => decide (p.frame ≤ b)) = some p := by
  obtain ⟨hp, as, bs, rfl, has⟩ := List.find?_eq_some_iff_append.mp h
  refine List.find?_eq_some_iff_append.mpr ⟨hp, as.filter q, bs.filter q, by simp [hq], fun a ha => ?_⟩
  exact has a (List.mem_filter.mp ha).1

theorem find?_none_due_filter (q : PendMode → Bool) (h : l.find? (fun p => decide (p.frame ≤ b)) = none) :
    (l.filter q).find? (fun p => decide (p.frame ≤ b)) = none := by
  rw [List.find?_eq_none] at h ⊢
  exact fun p hp => h p (List.mem_filter.mp hp).1
end

/-! ### The parts of a boundary, in their order (Table 1.4) -/

/-- The state after steps 1 to 3, at which the override inputs are read. -/
def snapshotTaken (x : BoundaryIn) (s : State) : State :=
  let b := s.frame + 1
  let y := streamsPrune (guardBoundary b (noteHeld b (remapAt b ((x.t : Int) * 65536) (applyAligns b (stepIndex b x.t s)))))
  stepSnapshot b (forEach (liveTraces y) (fun t s => markerTx t b x.t s) y)

/-- The state in which the pending transitions act: after the taps (step 5). -/
def tapsTaken (x : BoundaryIn) (s : State) : State :=
  let b := s.frame + 1
  tapsBoundary b (markDecisions b x.t (stepOverride b (snapshotTaken x s)))

/-- What follows the transitions, up to the supplies. -/
def released (x : BoundaryIn) (b : Nat) (s : State) : State :=
  stepPorts b x (stepRelease b x.t (pairBoundary b x.t (shutBoundary b ((x.t : Int) * 65536) s)))

theorem frameBoundary_eq (x : BoundaryIn) (s : State) : frameBoundary x s =
    pruneUnits (s.frame + 1) (stepSupplies x (released x (s.frame + 1) (modesBoundary (s.frame + 1) (tapsTaken x s)))) := rfl

theorem standing_stepIndex (b t : Nat) (s : State) :
    (shown (stepIndex b t s)).1 = { (shown s).1 with frame := b, tickPrev := s.tick, tick := t } := rfl

theorem standing_stepSnapshot (b : Nat) (s : State) : (shown (stepSnapshot b s)).1 = { (shown s).1 with snapFrame := b } := by
  unfold stepSnapshot
  rw [shown_tokenAudit]
  rfl

/-- What steps 1 to 3 make of the standing: the frame index, the raw times and the snapshot's frame. -/
def indexed (x : BoundaryIn) (s : State) : Standing :=
  { (shown s).1 with frame := s.frame + 1, tickPrev := s.tick, tick := x.t, snapFrame := s.frame + 1 }

theorem standing_snapshotTaken (x : BoundaryIn) (s : State) : (shown (snapshotTaken x s)).1 = indexed x s := by
  unfold snapshotTaken
  dsimp only
  rw [standing_stepSnapshot, standing_forEach _ _ _ (fun t s => shown_markerTx t _ _ s), shown_streamsPrune, shown_guardBoundary, shown_noteHeld,
    shown_remapAt, shown_applyAligns, standing_stepIndex]
  rfl

/-- The transitions that are still pending once an override has taken effect: a transition from RUN or SAFE to CONFIGURE may be gone (R436). -/
def PendingLeft (s : State) (l : List PendMode) : Prop :=
  l = s.power.pend ∨ ((s.mode = .run ∨ s.mode = .safe) ∧ l = s.power.pend.filter (fun p => decide (p.target ≠ 2)))

theorem PendingLeft.congr {s t : State} {l : List PendMode} (hmode : t.mode = s.mode) (hpend : t.power.pend = s.power.pend) (h : PendingLeft t l) :
    PendingLeft s l := by
  unfold PendingLeft at h ⊢
  rwa [hmode, hpend] at h

theorem standing_cancelConfigure (s : State) : ∃ l, (shown (cancelConfigure s)).1 = { (shown s).1 with pend := l } ∧ PendingLeft s l := by
  unfold cancelConfigure
  split
  next h => exact ⟨_, standing_setPend _ s, .inr ⟨h, rfl⟩⟩
  next => exact ⟨s.power.pend, rfl, .inl rfl⟩

/-- The standing of a state is read off its parts. -/
theorem pendingLeft_of_standing {s t : State} {l : List PendMode} (h : (shown t).1 = (shown s).1) (hl : PendingLeft t l) : PendingLeft s l :=
  hl.congr (congrArg Standing.mode h) (congrArg Standing.pend h)

theorem standing_stepOverride (b : Nat) (s : State) : ∃ l, (shown (stepOverride b s)).1 = { (shown s).1 with pend := l } ∧ PendingLeft s l := by
  have hread := shown_overrideBoundary b s
  unfold stepOverride
  generalize overrideBoundary b s = x at hread
  dsimp only
  split
  · have hwake : (shown (ovrWake b x)).1 = (shown s).1 := by rw [shown_ovrWake, hread]
    obtain ⟨l, hl, hleft⟩ := standing_cancelConfigure (ovrWake b x)
    exact ⟨l, by rw [hl, hwake], pendingLeft_of_standing hwake hleft⟩
  · exact ⟨s.power.pend, hread, .inl rfl⟩

theorem standing_tapsTaken (x : BoundaryIn) (s : State) :
    ∃ l, (shown (tapsTaken x s)).1 = { indexed x s with pend := l } ∧ PendingLeft s l := by
  obtain ⟨l, hl, hleft⟩ := standing_stepOverride (s.frame + 1) (snapshotTaken x s)
  have hsnap := standing_snapshotTaken x s
  unfold tapsTaken
  dsimp only
  generalize snapshotTaken x s = y at hl hleft hsnap
  refine ⟨l, ?_, hleft.congr (congrArg Standing.mode hsnap) (congrArg Standing.pend hsnap)⟩
  rw [shown_tapsBoundary, shown_markDecisions, hl, hsnap]

/-- What follows the transitions shows what they have made of the engine. -/
theorem shown_released (x : BoundaryIn) (b : Nat) (s : State) : shown (released x b s) = shown s := by
  unfold released
  rw [shown_stepPorts, shown_stepRelease, shown_pairBoundary, shown_shutBoundary]

theorem shown_stepSupplies (x : BoundaryIn) (s : State) : shown (stepSupplies x s) = shown s := by
  rw [stepSupplies, shown_setFld Fld.SUPPLY_STATUS_VBAK_LOW rfl, shown_vcoreMeas]

theorem vbakLow_stepSupplies (x : BoundaryIn) (s : State) : fld (stepSupplies x s) Fld.SUPPLY_STATUS_VBAK_LOW = bnat x.vbakLow := by
  rw [stepSupplies, fld_setFld_mod Fld.SUPPLY_STATUS_VBAK_LOW (by decide) (by decide)]
  cases x.vbakLow <;> rfl

/-! ### The transition that acts -/

theorem modesBoundary_none {b : Nat} {s : State} (h : s.power.pend.find? (fun p => decide (p.frame ≤ b)) = none) : modesBoundary b s = s := by
  rw [modesBoundary, h]

theorem modesBoundary_some {b : Nat} {s : State} {p : PendMode} (h : s.power.pend.find? (fun p => decide (p.frame ≤ b)) = some p) :
    modesBoundary b s = modeEnter p b (setPend (s.power.pend.erase p) s) := by
  rw [modesBoundary, h]

/-- The mode that a transition leads to. -/
def modeOfTarget (p : PendMode) : Option Mode :=
  match p.target with
  | 2 => some .configure
  | 3 => some .run
  | 4 => some .shadow
  | 5 => some .safe
  | _ => none

theorem enters_modeEnter {p : PendMode} {m : Mode} (h : modeOfTarget p = some m) (b : Nat) (s : State) : Enters m s (modeEnter p b s) := by
  unfold modeOfTarget at h
  split at h
  next ht => cases h; simp only [modeEnter, ht]; exact enters_configure b s
  next ht => cases h; simp only [modeEnter, ht]; exact enters_run b s
  next ht => cases h; simp only [modeEnter, ht]; exact enters_shadow b s
  next ht => cases h; simp only [modeEnter, ht]; exact (enters_safe p.cause b s).1
  next => cases h

theorem modeEnter_of_none {p : PendMode} (h : modeOfTarget p = none) (b : Nat) (s : State) : modeEnter p b s = s := by
  have hno : ∀ n, (∃ m, modeOfTarget { p with target := n } = some m) → p.target ≠ n := by
    rintro n ⟨m, hm⟩ rfl
    exact Option.some_ne_none m (hm.symm.trans h)
  unfold modeEnter
  split
  next ht => exact absurd ht (hno 2 ⟨_, rfl⟩)
  next ht => exact absurd ht (hno 3 ⟨_, rfl⟩)
  next ht => exact absurd ht (hno 4 ⟨_, rfl⟩)
  next ht => exact absurd ht (hno 5 ⟨_, rfl⟩)
  next => rfl

theorem enters_setPend (l : List PendMode) (s : State) : Enters s.mode s (setPend l s) := ⟨l, standing_setPend l s⟩

/-- The transition that is due leads to its mode. -/
theorem enters_due {b : Nat} {s : State} {p : PendMode} {m : Mode} (h : s.power.pend.find? (fun p => decide (p.frame ≤ b)) = some p)
    (hm : modeOfTarget p = some m) : Enters m s (modesBoundary b s) := by
  rw [modesBoundary_some h]
  exact (enters_setPend _ s).trans (enters_modeEnter hm b _)

/-- Whatever is due, the transitions change no more of the standing than the mode and the list. -/
theorem enters_modesBoundary (b : Nat) (s : State) : ∃ m, Enters m s (modesBoundary b s) := by
  cases h : s.power.pend.find? (fun p => decide (p.frame ≤ b)) with
  | none => exact ⟨s.mode, s.power.pend, by rw [modesBoundary_none h]; rfl⟩
  | some p =>
    cases hm : modeOfTarget p with
    | some m => exact ⟨m, enters_due h hm⟩
    | none => exact ⟨s.mode, by rw [modesBoundary_some h, modeEnter_of_none hm]; exact enters_setPend _ s⟩

/-! ### The whole boundary -/

theorem pruneUnits_regs (b : Nat) (s : State) : (pruneUnits b s).regs = s.regs := rfl

/-- What the boundary shows is what the transitions have made of the state after the taps. -/
theorem shown_frameBoundary (x : BoundaryIn) (s : State) :
    shown (frameBoundary x s) = shown (modesBoundary (s.frame + 1) (tapsTaken x s)) := by
  rw [frameBoundary_eq, shown_pruneUnits, shown_stepSupplies, shown_released]

theorem vbakLow_frameBoundary (x : BoundaryIn) (s : State) : fld (frameBoundary x s) Fld.SUPPLY_STATUS_VBAK_LOW = bnat x.vbakLow := by
  rw [frameBoundary_eq, fld, regWord, pruneUnits_regs]
  exact vbakLow_stepSupplies x _

/-- Settles O58: outside its modes a boundary does nothing; else the standing after it is that of `tapsTaken` with the mode of the transition that is due. -/
theorem frameBoundaries : Obligations.FrameBoundaries := by
  intro x s
  refine ⟨fun h => ?_, fun hboot hoff hstandby => ⟨frameBoundary x s, ?_, ?_⟩⟩
  · refine congrArg Host.Outcome.next (if_neg fun hlive => ?_)
    obtain ⟨hboot, hoff, hstandby⟩ := hlive
    exact h.elim (· hboot) (·.elim hoff hstandby)
  · exact congrArg Host.Outcome.next (if_pos ⟨hboot, hoff, hstandby⟩)
  obtain ⟨l, hl, hleft⟩ := standing_tapsTaken x s
  have hshown := shown_frameBoundary x s
  generalize htaken : tapsTaken x s = t at hl hshown
  have hpend : t.power.pend = l := congrArg Standing.pend hl
  have hmode : t.mode = s.mode := congrArg Standing.mode hl
  obtain ⟨m, hm⟩ := enters_modesBoundary (s.frame + 1) t
  obtain ⟨l', hl'⟩ := hm
  have hstanding : (shown (frameBoundary x s)).1 = { indexed x s with mode := m, pend := l' } := by rw [hshown, hl', hl]
  have stays : ∀ {p : PendMode}, s.power.pend.find? (fun p => decide (p.frame ≤ s.frame + 1)) = some p → p.target ≠ 2 →
      t.power.pend.find? (fun p => decide (p.frame ≤ s.frame + 1)) = some p := by
    intro p hdue hp
    rw [hpend]
    obtain rfl | ⟨-, rfl⟩ := hleft
    · exact hdue
    · exact find?_due_filter hdue (decide_eq_true hp)
  have reaches : ∀ {k : Mode}, Enters k t (modesBoundary (s.frame + 1) t) → (frameBoundary x s).mode = k := by
    intro k hk
    obtain ⟨j, hj⟩ := hk
    exact congrArg Standing.mode ((congrArg Prod.fst hshown).trans hj)
  refine ⟨congrArg Standing.frame hstanding, congrArg Standing.tick hstanding, congrArg Standing.tickPrev hstanding, vbakLow_frameBoundary x s,
    congrArg Standing.snapFrame hstanding, congrArg Standing.fs hstanding, (congrArg Standing.boot hstanding).trans hboot, ?_⟩
  refine ⟨fun hdue => ?_, fun p hdue ht hshadow => ?_, fun p hdue ht hone => ?_, fun p hdue ht => ?_, fun p hdue ht => ?_, fun p hdue ht => ?_⟩
  · have hnone : t.power.pend.find? (fun p => decide (p.frame ≤ s.frame + 1)) = none := by
      rw [hpend]
      obtain rfl | ⟨-, rfl⟩ := hleft
      · exact hdue
      · exact find?_none_due_filter _ hdue
    rw [reaches (k := t.mode) ⟨t.power.pend, by rw [modesBoundary_none hnone]; rfl⟩, hmode]
  · have hall : l = s.power.pend := hleft.resolve_right fun h => by rw [hshadow] at h; exact h.1.elim nofun nofun
    exact reaches (enters_due (hpend ▸ hall ▸ hdue) (by simp only [modeOfTarget, ht]))
  · obtain hall | ⟨hrun, hcut⟩ := hleft
    · exact .inl (reaches (enters_due (hpend ▸ hall ▸ hdue) (by simp only [modeOfTarget, ht])))
    · have hempty : t.power.pend = [] := by rw [hpend, hcut, hone]; simp [ht]
      refine .inr ⟨hrun, ?_⟩
      rw [reaches (k := t.mode) ⟨t.power.pend, by rw [modesBoundary_none (by rw [hempty]; rfl)]; rfl⟩, hmode]
  · exact reaches (enters_due (stays hdue (by simp [ht])) (by simp only [modeOfTarget, ht]))
  · exact reaches (enters_due (stays hdue (by simp [ht])) (by simp only [modeOfTarget, ht]))
  · have hfirst := stays hdue (by simp [ht])
    refine ⟨reaches (enters_due hfirst (by simp only [modeOfTarget, ht])), ?_⟩
    have henter : ∀ b y, modeEnter p b y = enterSafe p.cause b y := fun b y => by simp only [modeEnter, ht]
    have hcause := congrArg Prod.snd hshown
    rw [modesBoundary_some hfirst, henter, (enters_safe p.cause _ _).2] at hcause
    exact hcause

end Sys2Proof.Machine

/-!
# Payloads of the wrong length

The statement WrongLength fails for CELLAR_READ, which waits for a retraining channel before it looks at the length.
-/

namespace Sys2Proof.Machine

/-- A CELLAR_READ with one byte too many, of 8 bytes at the start of the cellar, in a session that is not open. -/
def longCellarRead : Req :=
  ⟨.spi, ⟨0, none, 0⟩, 0x602, 1, 0, 0, false, 0, 0, beBytes 8 0x400000000 ++ beBytes 4 8 ++ [0]⟩

/-- The engine after reset with the first MiB of the cellar reserved, its channel retraining, and that request admitted. -/
def retrainingCellar : State :=
  setFld Fld.CELLAR_CH_STATUS_STATE 0 3 { State.reset with regions := [⟨0, 0x400000000, 0x100000⟩], admitted := [longCellarRead] }

/-- Refutes O37: a CELLAR_READ waits while the channel that it touches retrains, whatever its length; in `retrainingCellar` the one of 13 bytes stays admitted, and the
statement says that it is answered. -/
theorem not_wrongLength : ¬ Obligations.WrongLength := by
  intro h
  have hserved : Served 0x602 longCellarRead retrainingCellar := ⟨rfl, rfl, by decide⟩
  have hwaits : cellarRead longCellarRead retrainingCellar = retrainingCellar := by
    have hrange : inRegion retrainingCellar (rd longCellarRead.payload 0 8) (rd longCellarRead.payload 8 4) = true ∧
        rangeWaits retrainingCellar (rd longCellarRead.payload 0 8) (rd longCellarRead.payload 8 4) = true := by decide
    rw [cellarRead, if_pos hrange]
  obtain ⟨-, -, -, -, -, -, -, -, -, -, -, -, hread, -⟩ := h longCellarRead retrainingCellar 0
  have hanswered := Host.Outcome.next.inj ((congrArg Host.Outcome.next hwaits).symm.trans (hread hserved (by decide)))
  have hclosed : answer longCellarRead ⟨0x21, 0, 12, []⟩ (served retrainingCellar) = served retrainingCellar := rfl
  rw [hclosed] at hanswered
  exact List.cons_ne_nil _ _ (congrArg State.admitted hanswered)

end Sys2Proof.Machine

/-!
# Grants, responses and timeouts of the crossbar
-/

namespace Sys2Proof.Machine

/-! ### Reading a field through updates of others -/

theorem fld_raise (code arg0 arg1 : Nat) (s : State) (g : RegField) (j : Nat) : fld (raise code arg0 arg1 s) g j = fld s g j := rfl

section
variable {f g : RegField} {i j : Nat} (h : fieldAddr g j ≠ fieldAddr f i)
include h

theorem fld_setFld_row (v : Nat) (s : State) : fld (setFld f i v s) g j = fld s g j := fld_setFld_other s f g i j v h

theorem fld_setBit_row (s : State) : fld (setBit f i s) g j = fld s g j := fld_setFld_other s f g i j 1 h

theorem fld_clrBit_row (s : State) : fld (clrBit f i s) g j = fld s g j := fld_setFld_other s f g i j 0 h

theorem fld_countFld_row (s : State) : fld (countFld f i s) g j = fld s g j := fld_setFld_other s f g i j _ h
end

theorem fld_setBit {f : RegField} (hw : f.hi < 32) (hl : f.lo ≤ f.hi) (i : Nat) (s : State) : fld (setBit f i s) f i = 1 := by
  rw [setBit, fld_setFld_mod f hw hl]
  exact Nat.mod_eq_of_lt (Nat.one_lt_two_pow (by omega))

/-! ### Grants (R219, R223, R224) -/

/-- What a grant of `o` at a point makes of the state, the round-robin marks and the limiters apart. -/
def Granted (point : Nat) (o : BurstOffer) (s t : State) : Prop :=
  t.bursts = s.bursts ++ [⟨o.master.val, xbTarget o.addr, o.addr, o.len, o.data, xbAccess s o.master.val o.addr o.len⟩] ∧
    (arbOf t point).parked = o.master.val ∧ t.regs = s.regs ∧ t.mem = s.mem

theorem granted_grantTo (point : Nat) (frame : Bool) (o : BurstOffer) (s : State) : Granted point o s (grantTo point frame o s) := by
  refine ⟨?_, congrArg ArbPoint.parked (smapGet_set_self ..), rfl, rfl⟩
  unfold grantTo xbWriteKind
  cases o.data <;> rfl

/-- Charging a limiter changes nothing that a grant reads. -/
theorem granted_charge (point t : Nat) (frame : Bool) (o : BurstOffer) (s : State) : Granted point o s (grantTo point frame o (chargeLimiter t o s)) := by
  unfold chargeLimiter
  dsimp only
  split
  · exact granted_grantTo point frame o s
  · exact granted_grantTo point frame o { s with limiters := _ }

theorem granted_winner (point t : Nat) (frame : Bool) (o : BurstOffer) (s : State) :
    Granted point o s (grantTo point frame o (if frameClass s o then chargeLimiter t o s else s)) := by
  split
  · exact granted_charge point t frame o s
  · exact granted_grantTo point frame o s

/-- With a winner among the FRAME offers in their share, the point grants that one. -/
theorem crossbarGrant_frame {point t : Nat} {offers : List BurstOffer} {s : State} {o : BurstOffer}
    (h : arbWinner (fun x => fld s Fld.XB_PAIR_PRIO_F (pairIdx x.master.val (xbTarget x.addr))) (arbOf s point).rrF
      ((offers.filter (burstOffered s point)).filter (fun x => frameClass s x && eligibleAt s t x)) = some o) :
    Granted point o s (crossbarGrant point offers t s) := by
  unfold crossbarGrant
  dsimp only
  rw [h]
  exact granted_winner ..

/-- A single legal offer is granted, by either order. -/
theorem crossbarGrant_single {point t : Nat} {s : State} {o : BurstOffer} (h : burstOffered s point o = true) :
    Granted point o s (crossbarGrant point [o] t s) := by
  have hl : [o].filter (burstOffered s point) = [o] := by simp [h]
  cases hf : frameClass s o && eligibleAt s t o with
  | true =>
    have hfirst : [o].filter (fun x => frameClass s x && eligibleAt s t x) = [o] := List.filter_cons_of_pos hf
    exact crossbarGrant_frame (by rw [hl, hfirst]; rfl)
  | false =>
    have hfirst : [o].filter (fun x => frameClass s x && eligibleAt s t x) = [] := by simp [hf]
    unfold crossbarGrant
    dsimp only
    rw [hl, hfirst]
    exact granted_winner ..

/-- Of two candidates the one with the higher priority wins, in whichever order they are offered. -/
theorem arbWinner_two {prio : BurstOffer → Nat} {last : Nat} {o q : BurstOffer} (h : prio q < prio o) :
    arbWinner prio last [o, q] = some o ∧ arbWinner prio last [q, o] = some o := by
  have hkeeps : ¬ (prio o < prio q ∨ (prio o = prio q ∧ turn last q.master.val < turn last o.master.val)) := by omega
  exact ⟨if_neg hkeeps, if_pos (.inl h)⟩

/-! ### Responses (R205, R222) -/

section
variable {m g : Nat} {s : State} {b : Burst} {before after : List Burst} (hbursts : s.bursts = before ++ b :: after)
  (hb : ∀ x ∈ before, ¬ (x.master = m ∧ x.target = g)) (hm : b.master = m) (hg : b.target = g)
include hbursts hb hm hg

/-- The oldest burst of a master to a target is taken out. -/
theorem takeBurst_first : takeBurst m g s = some (b, { s with bursts := before ++ after }) := by
  have hfind : (before ++ b :: after).find? (fun b => decide (b.master = m ∧ b.target = g)) = some b :=
    List.find?_eq_some_iff_append.mpr ⟨decide_eq_true ⟨hm, hg⟩, before, after, rfl, fun x hx => by simp [hb x hx]⟩
  have herase : (before ++ b :: after).erase b = before ++ after := by
    rw [List.erase_append_right _ fun hmem => hb b hmem ⟨hm, hg⟩, List.erase_cons_head]
  rw [takeBurst, hbursts, hfind, Option.map_some, herase]

theorem burstResponse_first (hw : targetWaits s g = false) (t : Nat) :
    burstResponse m g t s = burstDone b t { s with bursts := before ++ after } := by
  rw [burstResponse, if_neg (by rw [hw]; exact Bool.false_ne_true), takeBurst_first hbursts hb hm hg]

theorem xbTimeout_first : xbTimeout m g s =
    burstError .timeout b (noteTimeout m g { s with bursts := before ++ after, lastRead := if b.data.isNone then 0 else s.lastRead }) := by
  rw [xbTimeout, takeBurst_first hbursts hb hm hg]
end

/-- An OK response counts at no drover. -/
theorem burstError_ok (b : Burst) (s : State) : burstError .ok b s = s := by
  unfold burstError countResp
  split
  · split <;> rfl
  · rfl

/-- With no correctable word and none uncorrectable in reach, a read has no effect in the memory. -/
theorem xbEccRead_sound {a n : Nat} {s : State} (hce : s.ceWords = []) (hue : xbUe s a n = false) : xbEccRead a n s = s := by
  rw [xbUe, ueHit, List.any_eq_false] at hue
  unfold xbEccRead forEach
  generalize wordsOf a n = l at hue
  induction l with
  | nil => rfl
  | cons w l ih =>
    have hw : s.ueWords.contains w = false := Bool.eq_false_iff.mpr (hue w (List.mem_cons_self ..))
    rw [List.foldl_cons]
    have hstep : (if (if s.ceWords.contains w then recordCe w s else s).ueWords.contains w then
        recordUe w (if s.ceWords.contains w then recordCe w s else s) else (if s.ceWords.contains w then recordCe w s else s)) = s := by
      rw [hce, List.contains_nil, if_neg Bool.false_ne_true, if_neg (by rw [hw]; exact Bool.false_ne_true)]
    dsimp only
    rw [hstep]
    exact ih fun x hx => hue x (List.mem_cons_of_mem _ hx)

/-- An admitted read of sound memory leaves its bytes in `lastRead`. -/
theorem burstDone_read {b : Burst} {s : State} (hk : b.kind = .ok) (hd : b.data = none) (ht : xbTarget b.addr = b.target) (hg : b.target < 12)
    (hi : targetIsolated s b.target = false) (hue : xbUe s b.addr b.len = false) (hce : s.ceWords = []) (t : Nat) :
    burstDone b t s = { s with lastRead := leNat (memBytes s b.addr b.len) } := by
  have hkind : burstKind s b = .ok := by simp [burstKind, hk, hi, hue]
  have hread : targetRead s .ok b.addr b.len = memBytes s b.addr b.len := if_neg fun h => by omega
  unfold burstDone
  simp only [hkind, hd, hread]
  rw [if_neg (by omega), if_pos (.inl trivial), xbEccRead_sound hce hue, burstError_ok]

/-- The read of a burst that has been taken from the queue. -/
theorem read_answers {b : Burst} {rest : List Burst} {s : State} (hk : b.kind = .ok) (hd : b.data = none) (ht : xbTarget b.addr = b.target)
    (hg : b.target < 12) (hi : targetIsolated s b.target = false) (hue : xbUe s b.addr b.len = false) (hce : s.ceWords = []) (t : Nat) :
    burstDone b t { s with bursts := rest } = { { s with bursts := rest } with lastRead := leNat (memBytes s b.addr b.len) } := by
  obtain ⟨u, hu, hiso, hbad, hcorr, hbytes⟩ : ∃ u : State, u = { s with bursts := rest } ∧ targetIsolated u b.target = targetIsolated s b.target ∧
      xbUe u b.addr b.len = xbUe s b.addr b.len ∧ u.ceWords = s.ceWords ∧ memBytes u b.addr b.len = memBytes s b.addr b.len :=
    ⟨_, rfl, rfl, rfl, rfl, rfl⟩
  rw [← hu, burstDone_read hk hd ht hg (hiso.trans hi) (hbad.trans hue) (hcorr.trans hce), hbytes]

/-- An admitted write puts its bytes into the memory. -/
theorem burstDone_write {b : Burst} {s : State} {bs : List Byte} (hk : b.kind = .ok) (hd : b.data = some bs) (ht : xbTarget b.addr = b.target)
    (hg : b.target < 12) (hi : targetIsolated s b.target = false) (t : Nat) : burstDone b t s = eccWrite b.addr bs s := by
  have hkind : burstKind s b = .ok := by simp [burstKind, hk, hi, hd]
  unfold burstDone
  simp only [hkind, hd]
  rw [if_neg (by simp), if_neg (by omega), targetWrite, if_neg (by omega), if_neg (by omega)]

theorem eccWrite_bursts (a : Nat) (bs : List Byte) (s : State) : (eccWrite a bs s).bursts = s.bursts := by
  have h := congrArg State.bursts (beyondLanding_eccWrite a bs s)
  exact h

theorem memWrite_regs (a : Nat) (bs : List Byte) (s : State) : (memWrite a bs s).regs = s.regs := by
  unfold memWrite forwardWrite
  dsimp only
  repeat' split
  all_goals rfl

/-- A write that meets no uncorrectable word changes no register. -/
theorem eccWrite_regs {a : Nat} {bs : List Byte} {s : State} (h : ueHit s (wordsOf a bs.length) = false) : (eccWrite a bs s).regs = s.regs := by
  have hbad : (wordsOf a bs.length).filter (fun w => s.ueWords.contains w) = [] := by
    rw [ueHit, List.any_eq_false] at h
    exact List.filter_eq_nil_iff.mpr h
  simp only [eccWrite, hbad, List.isEmpty_nil, if_true]
  exact memWrite_regs ..

/-! ### Timeouts (R226) -/

/-- What a drover's error counts are kept in: registers of the drovers, which lie above those of the crossbar's own counts. -/
theorem fld_burstError {g : RegField} (h : fieldAddr g 0 < Fld.DRV_RESP_COUNT_COUNT.base) (k : RespKind) (b : Burst) (s : State) :
    fld (burstError k b s) g 0 = fld s g 0 := by
  have hfld : ∀ (f : RegField) (i v : Nat) (t : State), Fld.DRV_RESP_COUNT_COUNT.base ≤ f.base → fld (setFld f i v t) g 0 = fld t g 0 := by
    intro f i v t hf
    refine fld_setFld_other _ f g i 0 v fun he => ?_
    rw [he, fieldAddr] at h
    omega
  have hresp : ∀ d ch, fld (countResp d ch k b.addr s) g 0 = fld s g 0 := by
    intro d ch
    unfold countResp
    split
    · rfl
    · rw [fld_raise, hfld _ _ _ _ (by decide), hfld _ _ _ _ (by decide), hfld _ _ _ _ (by decide), hfld _ _ _ _ (by decide), countFld, addFld,
        hfld _ _ _ _ (by decide)]
  unfold burstError
  split
  · split <;> exact hresp _ _
  · rfl

/-- An error response leaves bursts and memory, and only adds events. -/
theorem burstError_frame (k : RespKind) (b : Burst) (s : State) :
    (burstError k b s).bursts = s.bursts ∧ (burstError k b s).mem = s.mem ∧ ∀ e ∈ s.evtWait, e ∈ (burstError k b s).evtWait := by
  have hresp : ∀ d ch, (countResp d ch k b.addr s).bursts = s.bursts ∧ (countResp d ch k b.addr s).mem = s.mem ∧
      ∀ e ∈ s.evtWait, e ∈ (countResp d ch k b.addr s).evtWait := by
    intro d ch
    unfold countResp
    split
    · exact ⟨rfl, rfl, fun e he => he⟩
    · exact ⟨rfl, rfl, fun e he => List.mem_append_left _ he⟩
  unfold burstError
  split
  · split <;> exact hresp _ _
  · exact ⟨rfl, rfl, fun e he => he⟩

/-- A timeout is counted with its master and target, and shown. -/
theorem noteTimeout_shows {m g : Nat} (hm : m < 24) (hg : g < 16) (s : State) : fld (noteTimeout m g s) Fld.XB_TO_COUNT_MASTER = m ∧
    fld (noteTimeout m g s) Fld.XB_TO_COUNT_TARGET = g ∧ fld (noteTimeout m g s) Fld.XB_STATUS_TO_STICKY = 1 := by
  refine ⟨?_, ?_, ?_⟩
  · rw [noteTimeout, fld_raise, fld_setBit_row (by decide), fld_setFld_apart Fld.XB_TO_COUNT_TARGET Fld.XB_TO_COUNT_MASTER 0 0 _ rfl (by decide)
      (by decide) (by decide), fld_setFld_mod Fld.XB_TO_COUNT_MASTER (by decide) (by decide)]
    exact Nat.mod_eq_of_lt (Nat.lt_trans hm (by decide))
  · rw [noteTimeout, fld_raise, fld_setBit_row (by decide), fld_setFld_mod Fld.XB_TO_COUNT_TARGET (by decide) (by decide)]
    exact Nat.mod_eq_of_lt hg
  · rw [noteTimeout, fld_raise, fld_setBit (by decide) (by decide)]

theorem noteTimeout_frame (m g : Nat) (s : State) : (noteTimeout m g s).bursts = s.bursts ∧ (noteTimeout m g s).mem = s.mem ∧
    ⟨0x41, s.frame, m % 2 ^ 32, g % 2 ^ 32, none⟩ ∈ (noteTimeout m g s).evtWait :=
  ⟨rfl, rfl, List.mem_append_right _ (List.mem_singleton.mpr rfl)⟩

theorem burstResponse_waits {g : Nat} {s : State} (h : targetWaits s g = true) (m t : Nat) : burstResponse m g t s = s := by
  rw [burstResponse, if_pos h]

/-- A write over sound memory that no page holds, seen from the state before the burst was taken. -/
theorem write_lands {a n : Nat} {bs : List Byte} {rest : List Burst} {s : State} (hlen : bs.length = n) (hue : ueHit s (wordsOf a n) = false)
    (hheld : heldAreas s = []) : memBytes (eccWrite a bs { s with bursts := rest }) a n = bs ∧
      (∀ x, ¬ (a ≤ x ∧ x < a + n) → memByte (eccWrite a bs { s with bursts := rest }) x = memByte s x) ∧
      (eccWrite a bs { s with bursts := rest }).bursts = rest ∧ (eccWrite a bs { s with bursts := rest }).regs = s.regs := by
  obtain ⟨u, hu, hmem, hwords, hregs, hareas⟩ : ∃ u : State, u = { s with bursts := rest } ∧ u.mem = s.mem ∧ u.ueWords = s.ueWords ∧ u.regs = s.regs ∧
      heldAreas u = heldAreas s := ⟨_, rfl, rfl, rfl, rfl, heldAreas_congr rfl rfl rfl rfl⟩
  have hue' : ueHit u (wordsOf a bs.length) = false := by rw [ueHit, hwords, hlen]; exact hue
  rw [← hu, ← hlen]
  refine ⟨memBytes_eccWrite hue' (hareas.trans hheld), fun x hx => ?_, ?_, (eccWrite_regs hue').trans hregs⟩
  · rw [memByte_eccWrite_outside a bs u hx, memByte, hmem, memByte]
  · rw [eccWrite_bursts, hu]

/-- Settles O30: a grant by what wins, a response by `burstDone_read` and `burstDone_write`, a timeout by what it notes. -/
theorem crossbarBursts : Obligations.CrossbarBursts := by
  refine ⟨fun p o q now s ho => ?_, fun m g raw b before after s hbursts hbefore hm hg => ?_⟩
  · refine ⟨⟨_, rfl, crossbarGrant_single ho⟩, fun hq hframe helig hlow => ?_⟩
    have hfirst : (frameClass s o && eligibleAt s now o) = true := by rw [hframe, helig]; rfl
    have hwins : ∀ l, l = [o, q] ∨ l = [q, o] → Granted p.val o s (crossbarGrant p.val l now s) := by
      intro l hl
      refine crossbarGrant_frame ?_
      have hoffered : l.filter (burstOffered s p.val) = l := by
        obtain rfl | rfl := hl <;> simp [ho, hq]
      rw [hoffered]
      cases hsecond : frameClass s q && eligibleAt s now q with
      | false => obtain rfl | rfl := hl <;> simp [hfirst, hsecond, arbWinner]
      | true =>
        obtain ⟨hqf, hqe⟩ := (Bool.and_eq_true _ _).mp hsecond
        have hprio := (hlow.resolve_left (by rw [hqf]; exact Bool.noConfusion)).resolve_left (by rw [hqe]; exact Bool.noConfusion)
        obtain ⟨hoq, hqo⟩ := arbWinner_two (prio := fun x => fld s Fld.XB_PAIR_PRIO_F (pairIdx x.master.val (xbTarget x.addr)))
          (last := (arbOf s p.val).rrF) hprio
        obtain rfl | rfl := hl
        · simpa [List.filter_cons, hfirst, hsecond] using hoq
        · simpa [List.filter_cons, hfirst, hsecond] using hqo
    exact ⟨⟨_, rfl, hwins _ (.inl rfl)⟩, ⟨_, rfl, hwins _ (.inr rfl)⟩⟩
  · refine ⟨fun hk ht hg12 hwait hiso => ⟨fun hd hue hce => ?_, fun bs hd hlen hue hheld => ⟨_, rfl, ?_⟩⟩, fun hwait => ?_, ⟨_, rfl, ?_⟩⟩
    · refine congrArg Host.Outcome.next ?_
      rw [burstResponse_first hbursts hbefore hm hg hwait]
      exact read_answers hk hd (ht.trans hg.symm) (hg ▸ hg12) (hg ▸ hiso) hue hce raw
    · rw [burstResponse_first hbursts hbefore hm hg hwait, burstDone_write hk hd (ht.trans hg.symm) (hg ▸ hg12) (hg ▸ hiso)]
      obtain ⟨hread, hother, hrest, hregs⟩ := write_lands (a := b.addr) (rest := before ++ after) hlen hue hheld
      exact ⟨hread, hother, hrest, hregs⟩
    · exact congrArg Host.Outcome.next (burstResponse_waits hwait m.val raw)
    · rw [xbTimeout_first hbursts hbefore hm hg]
      generalize hx : ({ s with bursts := before ++ after, lastRead := if b.data.isNone then 0 else s.lastRead } : State) = x
      obtain ⟨hmaster, htarget, hsticky⟩ := noteTimeout_shows m.isLt g.isLt x
      obtain ⟨hkept, hmem, hevents⟩ := burstError_frame .timeout b (noteTimeout m.val g.val x)
      obtain ⟨hbursts', hmem', hevent⟩ := noteTimeout_frame m.val g.val x
      refine ⟨?_, ?_, ?_, ?_, ⟨_, hevents _ hevent, rfl, ?_, ?_⟩, ?_⟩
      · rw [hkept, hbursts', ← hx]
      · rw [fld_burstError (by decide), hmaster]
      · rw [fld_burstError (by decide), htarget]
      · rw [fld_burstError (by decide), hsticky]
      · exact Nat.mod_eq_of_lt (by omega)
      · exact Nat.mod_eq_of_lt (by omega)
      · rw [hmem, hmem', ← hx]

end Sys2Proof.Machine

/-!
# What sending leaves alone; admission, the event log, idle sessions and old jobs
-/

namespace Sys2Proof.Machine

/-! ### The transports (R268, R270–R273) -/

/-- The state without what handing a packet to its transport may change. -/
def beyondSending (s : State) : State := { s with txq := [], sent := [], fresh := 0, regs := [] }

theorem beyondSending_pcieFlush (n q : Nat) (s : State) : beyondSending (pcieFlush n q s) = beyondSending s := by
  induction n generalizing s with
  | zero => rfl
  | succ n ih =>
    unfold pcieFlush
    split
    · rfl
    · split
      · rfl
      · rw [ih]
        split <;> rfl

theorem beyondSending_udpSend (p : TxPacket) (ip : Nat) (s : State) : beyondSending (udpSend p ip s) = beyondSending s := by
  unfold udpSend udpOut
  dsimp only
  split
  · rfl
  · split
    · split <;> rfl
    · rfl

theorem beyondSending_queuePacket (p : TxPacket) (s : State) : beyondSending (queuePacket p s) = beyondSending s := by
  unfold queuePacket
  split
  · rfl
  · rfl
  · exact beyondSending_pcieFlush ..
  · rfl
  · exact beyondSending_udpSend ..

theorem queuePacket_mem (p : TxPacket) (s : State) : (queuePacket p s).mem = s.mem := by
  have h := congrArg State.mem (beyondSending_queuePacket p s)
  exact h

theorem queuePacket_evtWait (p : TxPacket) (s : State) : (queuePacket p s).evtWait = s.evtWait := by
  have h := congrArg State.evtWait (beyondSending_queuePacket p s)
  exact h

theorem queuePacket_evtLog (p : TxPacket) (s : State) : (queuePacket p s).evtLog = s.evtLog := by
  have h := congrArg State.evtLog (beyondSending_queuePacket p s)
  exact h

/-! ### Admission -/

/-- A packet that came over no trace has no credits to give back. -/
theorem rxFree_of_no_trace {p : RxPacket} (h : ∀ e, p.source ≠ .trace e) (s : State) : rxFree p s = s := by
  unfold rxFree
  split
  next e he => exact absurd he (h e)
  next => rfl

section
variable {p : RxPacket} {raw : Nat} {s : State}

/-- The oldest packet of a source goes through the checks. -/
theorem packetAdmission_eq (hg : groomServes s = true) (hp : s.rxq.find? (fun q => decide (q.source = p.source)) = some p)
    (ht : ∀ e, p.source ≠ .trace e) : packetAdmission p.source raw s = admitPacket p raw { s with rxq := s.rxq.erase p } := by
  rw [packetAdmission, if_neg (not_not_intro hg), hp]
  exact congrArg (admitPacket p raw) (rxFree_of_no_trace ht _)

theorem admitPacket_badExtent (h : extentOk p = false) (s : State) : admitPacket p raw s = formatFail p.source s := by
  rw [admitPacket, if_pos (by rw [h]; exact Bool.false_ne_true)]

theorem admitPacket_badCheck (h : extentOk p = true) (hc : checkOk p = false) (s : State) : admitPacket p raw s = crcFail p.source s := by
  rw [admitPacket, if_neg (not_not_intro h), if_pos (by rw [hc]; exact Bool.false_ne_true)]

/-- A packet that passes the first six checks of Table 10.3 is judged by its sequence number. -/
theorem admitPacket_seq {x : Session} (h : extentOk p = true) (hc : checkOk p = true) (ht : tagOk s p (reqOf p raw) = true) (hv : rd p.bytes 0 1 = 1)
    (hh : headerOk p = true) (hn : (reqOf p raw).session ≠ 0) (ho : (reqOf p raw).opcode ≠ 2) (hx : sessionOf s (reqOf p raw).session = some x)
    (hs : x.source = p.source) : admitPacket p raw s = admitSeq (reqOf p raw) x s := by
  unfold admitPacket
  rw [if_neg (not_not_intro h), if_neg (not_not_intro hc), if_neg (not_not_intro ht), if_neg (not_not_intro hv), if_neg (not_not_intro hh), if_neg hn, hx]
  exact if_neg (not_or.mpr ⟨not_not_intro hs, ho⟩)
end

/-- The session that has admitted a sequence number: one execution more, and the number's window entry BUSY. -/
def Admits (q check tag : Nat) (x y : Session) : Prop := y.num = x.num ∧ y.exec = x.exec + 1 ∧ ⟨q, false, check, tag, []⟩ ∈ y.win

theorem admits_entry {q check tag count loss : Nat} {win : List WinEntry} {x : Session} : Admits q check tag x
    { x with count := count, exec := x.exec + 1, gapLoss := loss, used := true, win := ⟨q, false, check, tag, []⟩ :: win } :=
  ⟨rfl, rfl, List.mem_cons_self ..⟩

theorem admits_seqAdmit (x : Session) (q check tag : Nat) : Admits q check tag x (seqAdmit x q check tag).1 := by
  by_cases h : 1 ≤ seqBelow q (seqHigh x) ∧ seqBelow q (seqHigh x) ≤ 64
  · have he : seqAdmit x q check tag = _ := if_pos h
    rw [he]
    exact admits_entry
  · have he : seqAdmit x q check tag = _ := if_neg h
    rw [he]
    exact admits_entry

theorem mem_setSession {n : Nat} {x y : Session} {s : State} (hx : sessionOf s n = some x) (hy : y.num = x.num) : y ∈ (setSession y s).sessions := by
  refine List.mem_map.mpr ⟨x, List.mem_of_find?_eq_some hx, ?_⟩
  rw [if_pos (decide_eq_true hy.symm)]

/-- A request that fits, with a tag of its own and room in its session, enters the groom's order. -/
theorem admitSeq_fits {r : Req} {x : Session} {s : State} (hc : seqCase x r.seq r.check = .fits)
    (ht : ∀ e ∈ x.win, e.done = false → e.tag ≠ r.tag) (hl : (outstanding x).length < 64) : admitSeq r x s =
      enter r (addFld Fld.CMD_SEQ_GAP_COUNT_TRANSPORT_LOSS 0 (seqAdmit x r.seq r.check r.tag).2
        (setSession { (seqAdmit x r.seq r.check r.tag).1 with via := r.via } s)) := by
  have hany : (outstanding x).any (fun e => decide (e.tag = r.tag)) = false := by
    rw [List.any_eq_false]
    intro e he
    obtain ⟨hwin, hdone⟩ := List.mem_filter.mp he
    simpa using ht e hwin (by simpa using hdone)
  rw [admitSeq, hc, admitCase, if_neg (by rw [hany]; exact Bool.false_ne_true), if_neg (Nat.not_le_of_lt hl)]

theorem enter_served {r : Req} (hu : unservable r = none) (s : State) : enter r s = { s with admitted := s.admitted ++ [r] } := by
  rw [enter, hu]

/-- The state that a request has entered: the groom's order has it last, and its session has it BUSY. -/
theorem entered_shows {r : Req} {n v : Nat} {x y : Session} {s : State} (hx : sessionOf s n = some x) (hy : Admits r.seq r.check r.tag x y)
    (hu : unservable r = none) :
    let t := enter r (addFld Fld.CMD_SEQ_GAP_COUNT_TRANSPORT_LOSS 0 v (setSession { y with via := r.via } s))
    t.admitted = s.admitted ++ [r] ∧ t.rxq = s.rxq ∧ (∃ z ∈ t.sessions, Admits r.seq r.check r.tag x z) ∧ t.mem = s.mem := by
  obtain ⟨hnum, hexec, hwin⟩ := hy
  intro t
  simp only [t, enter_served hu, addFld, setFld_admitted, setFld_rxq, setFld_sessions, setFld_mem]
  exact ⟨rfl, rfl, ⟨_, mem_setSession hx hnum, hnum, hexec, hwin⟩, rfl⟩

/-! ### The event log -/

theorem setPending_frame (cls : Nat) (s : State) : beyondSending (setPending cls s) = beyondSending s := by
  unfold setPending
  dsimp only
  split
  · rfl
  · split <;> rfl

/-- The state without what sending and the sessions' notice counts change. -/
def beyondNotices (s : State) : State := { beyondSending s with sessions := [] }

theorem beyondNotices_sendNotice (e : EventRec) (x : Session) (s : State) : beyondNotices (sendNotice e x s) = beyondNotices s := by
  unfold sendNotice
  dsimp only
  split
  · rfl
  · rw [beyondNotices, beyondSending_queuePacket]
    rfl

/-- An event that no young record of its kind covers becomes the newest record. -/
theorem eventLogWrite_new {w : EvtWait} {rest : List EvtWait} {raw : Nat} {s : State} (hw : s.evtWait = w :: rest)
    (hn : s.evtLog.find? (fun e => decide (e.code = w.code ∧ e.arg0 = w.arg0 ∧ raw < e.t + 1000000)) = none) :
    (eventLogWrite raw s).evtWait = rest ∧
      (eventLogWrite raw s).evtLog = (⟨fld s Fld.EVT_HEAD_HEAD, w.code, w.frame, w.arg0, w.arg1, 0, raw⟩ :: s.evtLog).take 1024 ∧
      (eventLogWrite raw s).mem = s.mem := by
  obtain ⟨u, hframe, hu⟩ : ∃ u, beyondNotices (eventLogWrite raw s) = beyondNotices u ∧ u = { s with
      evtWait := rest, evtLog := (⟨fld s Fld.EVT_HEAD_HEAD, w.code, w.frame, w.arg0, w.arg1, 0, raw⟩ :: s.evtLog).take 1024 } := by
    refine ⟨_, ?_, rfl⟩
    unfold eventLogWrite
    rw [hw]
    dsimp only
    rw [hn]
    refine (forEach_keeps beyondNotices _ _ (fun x t => beyondNotices_sendNotice _ _ t) _).trans ?_
    rw [beyondNotices, setPending_frame]
    rfl
  have hwait := congrArg State.evtWait hframe
  have hlog := congrArg State.evtLog hframe
  have hmem := congrArg State.mem hframe
  rw [hu] at hwait hlog hmem
  exact ⟨hwait, hlog, hmem⟩

theorem eventLogWrite_again {w : EvtWait} {e : EventRec} {rest : List EvtWait} {raw : Nat} {s : State} (hw : s.evtWait = w :: rest)
    (he : s.evtLog.find? (fun e => decide (e.code = w.code ∧ e.arg0 = w.arg0 ∧ raw < e.t + 1000000)) = some e) : eventLogWrite raw s =
      { s with evtWait := rest, evtLog := s.evtLog.map (fun x => if x.index = e.index then { x with rep := min 0xFFFF (x.rep + 1) } else x) } := by
  unfold eventLogWrite
  rw [hw]
  dsimp only
  rw [he]
  simp only [updWhere, incSat, satNat_eq_min, decide_eq_true_eq]

/-! ### Idle sessions -/

theorem closeSession_shows {n raw : Nat} {x : Session} {s : State} (hx : sessionOf s n = some x) : sessionOf (closeSession n raw s) n = none ∧
    (closeSession n raw s).oldSessions = (n, raw) :: s.oldSessions ∧ ∀ y ∈ s.sessions, y.num ≠ n → y ∈ (closeSession n raw s).sessions := by
  rw [closeSession, hx]
  refine ⟨List.find?_eq_none.mpr fun y hy => ?_, rfl, fun y hy hn => List.mem_filter.mpr ⟨hy, decide_eq_true hn⟩⟩
  obtain ⟨_, hn⟩ := List.mem_filter.mp hy
  simpa using hn

/-- Settles O33. -/
theorem admission : Obligations.Admission := by
  refine ⟨fun p raw x s hg hp htrace => ?_, fun w rest raw s hw => ⟨fun hold => ⟨_, rfl, eventLogWrite_new hw ?_⟩, fun e he => ?_⟩,
    fun n raw x s hx => ⟨_, rfl, closeSession_shows hx⟩, fun h s => ⟨_, rfl, fun j => ?_⟩⟩
  · have hstep : exec (.packetAdmission p.source raw) s = .next (admitPacket p raw { s with rxq := s.rxq.erase p }) :=
      congrArg Host.Outcome.next (packetAdmission_eq hg hp htrace)
    refine ⟨fun he hc => ?_, fun he => ?_, fun he hc ht hv hh hn ho hx hsrc => ?_⟩
    · rw [hstep, admitPacket_badCheck he hc]
    · rw [hstep, admitPacket_badExtent he]
    · generalize ha : ({ s with rxq := s.rxq.erase p } : State) = a at hstep
      have htag : tagOk a p (reqOf p raw) = true := by rw [← ha]; exact ht
      have hopen : sessionOf a (reqOf p raw).session = some x := by rw [← ha]; exact hx
      rw [admitPacket_seq he hc htag hv hh hn ho hopen hsrc] at hstep
      refine ⟨fun hfit htags hroom hserve => ⟨_, hstep, ?_⟩, fun habs => ?_⟩
      · rw [admitSeq_fits hfit htags hroom]
        obtain ⟨hadm, hrxq, hsess, hmem⟩ := entered_shows hopen (admits_seqAdmit x _ _ _) hserve
        subst ha
        exact ⟨hadm, hrxq, hsess, hmem⟩
      · rw [hstep, admitSeq, habs]
        rfl
  · refine List.find?_eq_none.mpr fun e he => ?_
    simp only [decide_eq_true_eq, not_and, Nat.not_lt]
    exact hold e he
  · exact congrArg Host.Outcome.next (eventLogWrite_again hw he)
  · rw [List.mem_filter, Bool.or_eq_true, decide_eq_true_eq, decide_eq_true_eq]

end Sys2Proof.Machine

/-!
# Rows of registers, and the rules of traces and lanes
-/

namespace Sys2Proof.Machine

/-! ### Fields of rows that never meet -/

/-- Whether two fields share no bit at any index: other bits of one row, or rows of one stride whose registers interleave. -/
def rowsApart (f g : RegField) : Bool :=
  match f.stride, g.stride with
  | .lin m, .lin n => decide (m = n ∧ 0 < n ∧ (f.base % n ≠ g.base % n ∨ f.base = g.base ∧ f.lo ≤ f.hi ∧ f.hi < 32 ∧ (g.hi < f.lo ∨ f.hi < g.lo)))
  | _, _ => false

theorem strideOff_mono (st : Stride) {i n : Nat} (h : i ≤ n) : strideOff st i ≤ strideOff st n := by
  cases st with
  | lin m => exact Nat.mul_le_mul_left m h
  | ch => simp only [strideOff]; omega

theorem fieldAddr_mono (f : RegField) {i n : Nat} (h : i ≤ n) : fieldAddr f i ≤ fieldAddr f n := Nat.add_le_add_left (strideOff_mono f.stride h) _

/-- A field keeps its value as one of a row apart from it is set, whatever their indices. -/
theorem fld_setFld_rows {f g : RegField} (h : rowsApart f g = true) (i j v : Nat) (s : State) : fld (setFld f i v s) g j = fld s g j := by
  unfold rowsApart at h
  split at h
  next m n hf hg =>
    obtain ⟨hmn, hn, hbase⟩ := of_decide_eq_true h
    have haddr : fieldAddr f i = f.base + n * i := by rw [fieldAddr, hf, hmn, strideOff]
    have haddr' : fieldAddr g j = g.base + n * j := by rw [fieldAddr, hg, strideOff]
    by_cases heq : fieldAddr g j = fieldAddr f i
    · obtain hmod | ⟨_, hl, hw, hbits⟩ := hbase
      · have := congrArg (· % n) heq
        simp only [haddr, haddr', Nat.add_mul_mod_self_left] at this
        exact absurd this.symm hmod
      · exact fld_setFld_apart f g i j v heq hw hl hbits
    · exact fld_setFld_other s f g i j v heq
  next => exact absurd h Bool.false_ne_true

/-- A field of registers above those of a row, up to an index, keeps its value as the row is set. -/
theorem fld_setFld_below {f g : RegField} {i n : Nat} (hi : i ≤ n) (h : fieldAddr f n < g.base) (j v : Nat) (s : State) :
    fld (setFld f i v s) g j = fld s g j := by
  refine fld_setFld_other s f g i j v ?_
  have := fieldAddr_mono f hi
  have : g.base ≤ fieldAddr g j := Nat.le_add_right ..
  omega

/-- A field of registers below those of a row keeps its value as the row is set. -/
theorem fld_setFld_above {f g : RegField} {j n : Nat} (hj : j ≤ n) (h : fieldAddr g n < f.base) (i v : Nat) (s : State) :
    fld (setFld f i v s) g j = fld s g j := by
  refine fld_setFld_other s f g i j v ?_
  have := fieldAddr_mono g hj
  have : f.base ≤ fieldAddr f i := Nat.le_add_right ..
  omega

/-- A register that stands alone below a row, and one that stands alone below the row that is set. -/
theorem fld_setFld_alone {f g : RegField} (h : fieldAddr f 0 < g.base) (j v : Nat) (s : State) : fld (setFld f 0 v s) g j = fld s g j :=
  fld_setFld_below (Nat.le_refl 0) h j v s

theorem fld_setFld_under {f g : RegField} (h : fieldAddr g 0 < f.base) (i v : Nat) (s : State) : fld (setFld f i v s) g 0 = fld s g 0 :=
  fld_setFld_above (Nat.le_refl 0) h i v s

/-! Flags and counters as fields that are set; the proofs are by definition, the equations are not unfolded by `simp`. -/

theorem addFld_eq (f : RegField) (i n : Nat) (s : State) : addFld f i n s = setFld f i (satNat (2 ^ (f.hi + 1 - f.lo) - 1) (fld s f i + n)) s := (rfl)

theorem countFld_eq (f : RegField) (i : Nat) (s : State) : countFld f i s = setFld f i (satNat (2 ^ (f.hi + 1 - f.lo) - 1) (fld s f i + 1)) s := (rfl)

theorem fld_raised (code arg0 arg1 : Nat) (s : State) (g : RegField) (j : Nat) : fld (raise code arg0 arg1 s) g j = fld s g j := (rfl)

theorem fld_traceSet (t : Nat) (x : TraceSt) (s : State) (g : RegField) (j : Nat) : fld (setTrace t x s) g j = fld s g j := (rfl)

/-! ### Records of traces -/

@[simp] theorem traceOf_setFld (f : RegField) (i v : Nat) (s : State) (t : Nat) : traceOf (setFld f i v s) t = traceOf s t := rfl
@[simp] theorem traceOf_raise (c a b : Nat) (s : State) (t : Nat) : traceOf (raise c a b s) t = traceOf s t := rfl
@[simp] theorem vcOf_setVc (vc : Nat) (c : VcCounts) (x : TraceSt) : vcOf (setVc vc c x) vc = c := smapGet_set_self ..

theorem vcOf_setVc_ne {vc vc' : Nat} (h : vc' ≠ vc) (c : VcCounts) (x : TraceSt) : vcOf (setVc vc c x) vc' = vcOf x vc' := smapGet_set_ne _ _ _ h

/-- The record of a trace at the start of a new epoch. -/
theorem closeEpoch_shows (cause full : Nat) (x : TraceSt) : (closeEpoch cause full x).epoch = x.epoch + 1 ∧ (closeEpoch cause full x).unacked = [] ∧
    (closeEpoch cause full x).txSeq = 0 ∧ (closeEpoch cause full x).rxSeq = 0 :=
  ⟨congrArg (· + 1) (forEach_inv (P := fun y : TraceSt => y.epoch = x.epoch) (fun _ _ h => h) rfl), rfl, rfl, rfl⟩

/-! ### The lanes of a trace -/

/-- Trace numbers and the lanes that a trace of one may have. -/
theorem lt_of_mem_traceLanes {s : State} {t l : Nat} (ht : t < 64) (h : l ∈ traceLanes s t) : l < 80 := by
  obtain ⟨i, hi, rfl⟩ := List.mem_map.mp h
  have hw : fld s Fld.TRACE_CFG_WIDTH t < 2 ^ 2 := Nat.mod_lt _ (by decide)
  have : traceWidth s t ≤ 2 ^ 3 := Nat.pow_le_pow_right (by decide) (by omega)
  have := List.mem_range.mp hi
  omega

/-- Clearing EXCLUDED on lanes of a trace leaves every field above the lanes, and every field apart from it in their rows. -/
theorem fld_clrExcluded {g : RegField} (h : rowsApart Fld.LANE_STATUS_EXCLUDED g = true ∨ fieldAddr Fld.LANE_STATUS_EXCLUDED 80 < g.base) {ls : List Nat}
    (hl : ∀ l ∈ ls, l < 80) (j : Nat) (s : State) : fld (forEach ls (fun l s => clrBit Fld.LANE_STATUS_EXCLUDED l s) s) g j = fld s g j := by
  refine forEach_keeps_mem (fld · g j) _ _ (fun l hmem s => ?_) s
  obtain h | h := h
  · exact fld_setFld_rows h l j 0 s
  · exact fld_setFld_below (Nat.le_of_lt (hl l hmem)) h j 0 s

theorem clrExcluded_frame (ls : List Nat) (s : State) : let y := forEach ls (fun l s => clrBit Fld.LANE_STATUS_EXCLUDED l s) s
    y.evtWait = s.evtWait ∧ y.traces = s.traces ∧ y.mem = s.mem :=
  forEach_inv (P := fun y : State => y.evtWait = s.evtWait ∧ y.traces = s.traces ∧ y.mem = s.mem) (fun _ _ h => h) ⟨rfl, rfl, rfl⟩

theorem traceLanes_congr {a b : State} {t : Nat} (h : fld a Fld.TRACE_CFG_WIDTH t = fld b Fld.TRACE_CFG_WIDTH t) : traceLanes a t = traceLanes b t := by
  rw [traceLanes, traceLanes, traceWidth, traceWidth, h]

theorem allLocked_congr {a b : State} {t : Nat} (h : fld a Fld.TRACE_CFG_WIDTH t = fld b Fld.TRACE_CFG_WIDTH t)
    (hl : ∀ l ∈ traceLanes b t, fld a Fld.LANE_STATUS_LOCKED l = fld b Fld.LANE_STATUS_LOCKED l) : allLocked a t = allLocked b t := by
  rw [allLocked, allLocked, traceLanes_congr h]
  rw [Bool.eq_iff_iff, List.all_eq_true, List.all_eq_true]
  exact forall₂_congr fun l hmem => by rw [fbit, fbit, hl l hmem]

/-! ### Failure of a trace (R331) -/

/-- What the end of COMMA may change: the state of the trace. -/
theorem traceState_commaCheck {t : Nat} {s : State} (h : traceState s t = 1) : traceState (commaCheck t s) t = if allLocked s t then 2 else 1 := by
  cases hl : allLocked s t with
  | true => rw [commaCheck, if_pos ⟨h, hl⟩, setTraceState, traceState, fld_setFld_mod Fld.TRACE_STATE_STATE (by decide) (by decide)]; rfl
  | false => rw [commaCheck, if_neg (by rw [hl]; simp), h]; rfl

theorem commaCheck_frame (t : Nat) (s : State) : commaCheck t s = s ∨ commaCheck t s = setTraceState t 2 s := by
  unfold commaCheck
  split
  · exact .inr rfl
  · exact .inl rfl

theorem fld_commaCheck {g : RegField} {j t : Nat} (h : rowsApart Fld.TRACE_STATE_STATE g = true ∨ fieldAddr g j < Fld.TRACE_STATE_STATE.base) (s : State) :
    fld (commaCheck t s) g j = fld s g j := by
  obtain he | he := commaCheck_frame t s
  · rw [he]
  · rw [he, setTraceState]
    obtain h | h := h
    · exact fld_setFld_rows h ..
    · exact fld_setFld_other _ _ _ _ _ _ (Nat.ne_of_lt (Nat.lt_of_lt_of_le h (Nat.le_add_right ..)))

theorem commaCheck_other {α : Type} {get : State → α} (h : ∀ f i v s, get (setFld f i v s) = get s) (t : Nat) (s : State) :
    get (commaCheck t s) = get s := by
  obtain he | he := commaCheck_frame t s
  · rw [he]
  · rw [he, setTraceState, h]

/-- The failure of a trace counted, flagged and raised. -/
def failNoted (t cause : Nat) (s : State) : State :=
  setBit Fld.TRACE_FLAGS_FAIL t (setBit Fld.LINK_GSTATUS_FAIL_STICKY 0 (raise 0x72 t cause
    (countFld Fld.TRACE_REINIT_REINITS t (setFld Fld.TRACE_STATE_LAST_FAIL t cause s))))

/-- No lane of the trace is excluded any longer. -/
def laneAgain (t : Nat) (s : State) : State := forEach (traceLanes s t) (fun l s => clrBit Fld.LANE_STATUS_EXCLUDED l s) s

/-- The trace at the start of its new epoch, in its next state. -/
def epochBegun (t cause next : Nat) (s : State) : State :=
  setTraceState t next (showLanes t (fullMask s t) (setTrace t (closeEpoch cause (fullMask s t) (traceOf s t)) s))

theorem fullMask_laneAgain {t : Nat} (ht : t < 64) (s : State) : fullMask (laneAgain t s) t = fullMask s t := by
  rw [fullMask, fullMask, traceWidth, traceWidth, laneAgain, fld_clrExcluded (.inr (by decide)) (fun _ => lt_of_mem_traceLanes ht)]

/-- A failed trace before what follows for the team, the pair and the reference. -/
def failing (t cause next : Nat) (s : State) : State := epochBegun t cause next (laneAgain t (failNoted t cause s))

theorem traceFail_eq {t : Nat} (ht : t < 64) (cause next : Nat) (s : State) :
    traceFail t cause next s = selectRef (traceLost t (commaCheck t (failing t cause next s))) := by
  rw [failing, epochBegun, fullMask_laneAgain ht]
  rfl

section
variable {t cause next : Nat} (ht : t < 64) (s : State)

theorem failNoted_shows (hc : cause < 256) : fld (failNoted t cause s) Fld.TRACE_STATE_LAST_FAIL t = cause ∧
    fld (failNoted t cause s) Fld.TRACE_FLAGS_FAIL t = 1 ∧ fld (failNoted t cause s) Fld.LINK_GSTATUS_FAIL_STICKY = 1 := by
  unfold failNoted
  refine ⟨?_, fld_setBit (by decide) (by decide) .., ?_⟩
  · simp (disch := decide) only [setBit_eq, countFld_eq, fld_setFld_rows, fld_setFld_alone, fld_raised]
    rw [fld_setFld_mod Fld.TRACE_STATE_LAST_FAIL (by decide) (by decide)]
    exact Nat.mod_eq_of_lt (Nat.lt_of_lt_of_le hc (by decide))
  · rw [setBit_eq, fld_setFld_under (by decide), fld_setBit (by decide) (by decide)]

theorem raised_evtWait (code a b : Nat) (s : State) :
    (raise code a b s).evtWait = s.evtWait ++ [⟨code, s.frame, a % 2 ^ 32, b % 2 ^ 32, none⟩] := (rfl)

theorem failNoted_frame : (failNoted t cause s).evtWait = s.evtWait ++ [⟨0x72, s.frame, t % 2 ^ 32, cause % 2 ^ 32, none⟩] ∧
    (failNoted t cause s).traces = s.traces ∧ (failNoted t cause s).mem = s.mem := by
  unfold failNoted
  refine ⟨?_, ?_, ?_⟩
  · rw [setBit, setFld_evtWait, setBit, setFld_evtWait, raised_evtWait, countFld, addFld, setFld_evtWait, setFld_evtWait, setFld_frame, setFld_frame]
  · rw [setBit, setFld_traces, setBit, setFld_traces, raise_traces, countFld, addFld, setFld_traces, setFld_traces]
  · rw [setBit, setFld_mem, setBit, setFld_mem, raise_mem, countFld, addFld, setFld_mem, setFld_mem]

include ht in
theorem failing_width : fld (failing t cause next s) Fld.TRACE_CFG_WIDTH t = fld s Fld.TRACE_CFG_WIDTH t := by
  unfold failing epochBegun showLanes setTraceState
  simp (disch := decide) only [fld_setFld_rows, fld_traceSet]
  rw [laneAgain, fld_clrExcluded (.inr (by decide)) (fun _ => lt_of_mem_traceLanes ht), failNoted]
  simp (disch := decide) only [setBit_eq, countFld_eq, fld_setFld_rows, fld_setFld_alone, fld_raised]

include ht in
theorem failing_locked {l : Nat} (hl : l < 80) : fld (failing t cause next s) Fld.LANE_STATUS_LOCKED l = fld s Fld.LANE_STATUS_LOCKED l := by
  have habove : ∀ {f : RegField}, fieldAddr Fld.LANE_STATUS_LOCKED 80 < f.base → ∀ i v a, fld (setFld f i v a) Fld.LANE_STATUS_LOCKED l = fld a Fld.LANE_STATUS_LOCKED l :=
    fun h => fld_setFld_above (Nat.le_of_lt hl) h
  unfold failing epochBegun showLanes setTraceState
  simp (disch := decide) only [habove, fld_traceSet]
  rw [laneAgain, fld_clrExcluded (.inl (by decide)) (fun _ => lt_of_mem_traceLanes ht), failNoted]
  simp (disch := decide) only [setBit_eq, countFld_eq, habove, fld_setFld_alone, fld_raised]

include ht in
theorem failing_shows (hc : cause < 256) (hn : next < 8) : traceState (failing t cause next s) t = next ∧
    fld (failing t cause next s) Fld.TRACE_STATE_LAST_FAIL t = cause ∧ fld (failing t cause next s) Fld.TRACE_FLAGS_FAIL t = 1 ∧
    fld (failing t cause next s) Fld.LINK_GSTATUS_FAIL_STICKY = 1 := by
  have hlanes : ∀ a : State, ∀ l ∈ traceLanes a t, l < 80 := fun a _ => lt_of_mem_traceLanes ht
  obtain ⟨hlast, hfail, hsticky⟩ := failNoted_shows (t := t) s hc
  unfold failing epochBegun showLanes setTraceState traceState
  refine ⟨?_, ?_, ?_, ?_⟩
  · rw [fld_setFld_mod Fld.TRACE_STATE_STATE (by decide) (by decide)]
    exact Nat.mod_eq_of_lt (Nat.lt_of_lt_of_le hn (by decide))
  · simp (disch := decide) only [fld_setFld_rows, fld_traceSet]
    rw [laneAgain, fld_clrExcluded (.inr (by decide)) (hlanes _), hlast]
  · simp (disch := decide) only [fld_setFld_rows, fld_traceSet]
    rw [laneAgain, fld_clrExcluded (.inr (by decide)) (hlanes _), hfail]
  · simp (disch := decide) only [fld_setFld_under, fld_traceSet]
    rw [laneAgain, forEach_keeps (fld · Fld.LINK_GSTATUS_FAIL_STICKY) _ (fun l s => clrBit Fld.LANE_STATUS_EXCLUDED l s) (fun l a => fld_setFld_under (by decide) l 0 a),
      hsticky]

theorem epochBegun_frame {t cause next : Nat} {s : State} : (epochBegun t cause next s).evtWait = s.evtWait ∧ (epochBegun t cause next s).mem = s.mem := by
  unfold epochBegun setTraceState showLanes
  constructor
  · rw [setFld_evtWait, setFld_evtWait, setFld_evtWait, setTrace_evtWait]
  · rw [setFld_mem, setFld_mem, setFld_mem, setTrace_mem]

theorem laneAgain_traces (a : State) : (laneAgain t a).traces = a.traces ∧ (laneAgain t a).evtWait = a.evtWait ∧ (laneAgain t a).mem = a.mem := by
  obtain ⟨hevt, htraces, hmem⟩ := clrExcluded_frame (traceLanes a t) a
  exact ⟨htraces, hevt, hmem⟩

theorem failing_trace : traceOf (failing t cause next s) t = closeEpoch cause (fullMask (laneAgain t (failNoted t cause s)) t) (traceOf s t) := by
  obtain ⟨htraces, -⟩ := laneAgain_traces (t := t) (failNoted t cause s)
  unfold failing epochBegun showLanes setTraceState
  rw [traceOf_setFld, traceOf_setFld, traceOf_setFld, traceOf_setTrace, traceOf, htraces, (failNoted_frame s).2.1, traceOf]

theorem failing_frame : (failing t cause next s).evtWait = s.evtWait ++ [⟨0x72, s.frame, t % 2 ^ 32, cause % 2 ^ 32, none⟩] ∧
    (failing t cause next s).mem = s.mem ∧ (traceOf (failing t cause next s) t).epoch = (traceOf s t).epoch + 1 ∧
    (traceOf (failing t cause next s) t).unacked = [] ∧ (traceOf (failing t cause next s) t).txSeq = 0 ∧ (traceOf (failing t cause next s) t).rxSeq = 0 := by
  obtain ⟨-, hevt, hmem⟩ := laneAgain_traces (t := t) (failNoted t cause s)
  obtain ⟨hevt', _, hmem'⟩ := failNoted_frame (t := t) (cause := cause) s
  obtain ⟨hepoch, hunacked, htx, hrx⟩ := closeEpoch_shows cause (fullMask (laneAgain t (failNoted t cause s)) t) (traceOf s t)
  rw [failing_trace, hepoch, hunacked, htx, hrx]
  refine ⟨?_, ?_, rfl, rfl, rfl, rfl⟩
  · rw [failing, epochBegun_frame.1, hevt, hevt']
  · rw [failing, epochBegun_frame.2, hmem, hmem']
end

/-- A failure of a trace, from a state that differs from `s` in nothing that `Failed` speaks of. -/
theorem failed_of {t cause : Nat} (ht : t < 64) (hc : cause < 256) {s a : State} (hlock : allLocked a t = allLocked s t) (hevt : a.evtWait = s.evtWait)
    (hframe : a.frame = s.frame) (hmem : a.mem = s.mem) (hepoch : (traceOf a t).epoch = (traceOf s t).epoch) : Failed t cause s (traceFail t cause 1 a) := by
  obtain ⟨hstate, hlast, hfail, hsticky⟩ := failing_shows ht (next := 1) a hc (by decide)
  obtain ⟨hevt', hmem', hepoch', hunacked, htx, hrx⟩ := failing_frame (t := t) (cause := cause) (next := 1) a
  have hlocked : allLocked (failing t cause 1 a) t = allLocked a t :=
    allLocked_congr (failing_width ht a) fun l hl => failing_locked ht a (lt_of_mem_traceLanes ht hl)
  refine ⟨_, traceFail_eq ht cause 1 a, ?_, ?_, ?_, ?_, ?_, ?_, ?_, ?_, ?_, ?_⟩
  · rw [traceState_commaCheck hstate, hlocked, hlock]
  · rw [fld_commaCheck (.inl (by decide)), hlast]
  · rw [fld_commaCheck (.inl (by decide)), hfail]
  · rw [fld_commaCheck (.inr (by decide)), hsticky]
  · rw [commaCheck_other (get := fun s => (traceOf s t).epoch) (fun _ _ _ _ => rfl), hepoch', hepoch]
  · rw [commaCheck_other (get := fun s => (traceOf s t).unacked) (fun _ _ _ _ => rfl), hunacked]
  · rw [commaCheck_other (get := fun s => (traceOf s t).txSeq) (fun _ _ _ _ => rfl), htx]
  · rw [commaCheck_other (get := fun s => (traceOf s t).rxSeq) (fun _ _ _ _ => rfl), hrx]
  · rw [commaCheck_other (get := State.evtWait) (fun _ _ _ _ => rfl), hevt', hevt, hframe]
  · rw [commaCheck_other (get := State.mem) (fun _ _ _ _ => rfl), hmem', hmem]

end Sys2Proof.Machine

/-!
# The states of a trace
-/

namespace Sys2Proof.Machine

/-! ### Lane loss, lock and return (R327, R347–R349) -/

/-- The lanes of a trace's mask, as far as registers and the lane map show them. -/
theorem goodMask_congr {a b : State} {t : Nat} (hw : fld a Fld.TRACE_CFG_WIDTH t = fld b Fld.TRACE_CFG_WIDTH t)
    (hl : ∀ l ∈ traceLanes b t, fld a Fld.LANE_STATUS_LOCKED l = fld b Fld.LANE_STATUS_LOCKED l ∧
      fld a Fld.LANE_STATUS_EXCLUDED l = fld b Fld.LANE_STATUS_EXCLUDED l) (hm : (traceOf a t).mapping = (traceOf b t).mapping) :
    goodMask a t = goodMask b t := by
  have hmap : mapLane (traceOf a t) t = mapLane (traceOf b t) t := by
    funext l
    rw [mapLane, mapLane, hm]
  rw [goodMask, goodMask, hmap, traceLanes_congr hw]
  refine congrArg (fun l => maskOf (List.map _ l)) (List.filter_congr fun l hmem => ?_)
  rw [fbit, fbit, fbit, fbit, (hl l hmem).1, (hl l hmem).2]

theorem lt_boundaryFrom (s : State) (ps : Nat) : s.frame < boundaryFrom s ps := by
  unfold boundaryFrom
  dsimp only
  omega

/-- The registers of the lanes lie below those of the traces. -/
theorem laneRow_below {g : RegField} (hg : fieldAddr g 80 < Fld.TRACE_STATE_STATE.base) {j : Nat} (h : j < 80) :
    fieldAddr g j < Fld.TRACE_STATE_STATE.base :=
  Nat.lt_of_le_of_lt (fieldAddr_mono g (Nat.le_of_lt h)) hg

/-- The record of a trace that has asked its peer for a lane set. -/
def Asked (t mask : Nat) (s y : State) : Prop :=
  traceState y t = 5 ∧ ∃ k, s.frame < k ∧ (traceOf y t).rxPend = some (mask, k) ∧ .restripe mask k ∈ (traceOf y t).lcps

theorem asked_requestRestripe (t mask time : Nat) (s : State) : Asked t mask s (requestRestripe t mask time s) := by
  refine ⟨?_, _, lt_boundaryFrom s (time * 1000 + reqPs s t), ?_, ?_⟩
  · exact fld_setFld_mod Fld.TRACE_STATE_STATE (by decide) (by decide) t 5 _
  · rw [requestRestripe, setTraceState, traceOf_setFld, traceOf_setTrace]
  · rw [requestRestripe, setTraceState, traceOf_setFld, traceOf_setTrace]
    exact List.mem_append_right _ (List.mem_singleton.mpr rfl)

theorem fld_requestRestripe {g : RegField} {j t : Nat} (h : rowsApart Fld.TRACE_STATE_STATE g = true ∨ fieldAddr g j < Fld.TRACE_STATE_STATE.base)
    (mask time : Nat) (s : State) : fld (requestRestripe t mask time s) g j = fld s g j := by
  rw [requestRestripe, setTraceState]
  obtain h | h := h
  · rw [fld_setFld_rows h, fld_traceSet]
  · rw [fld_setFld_other _ _ _ _ _ _ (Nat.ne_of_lt (Nat.lt_of_lt_of_le h (Nat.le_add_right ..))), fld_traceSet]

theorem requestRestripe_mapping (t mask time : Nat) (s : State) : (traceOf (requestRestripe t mask time s) t).mapping = (traceOf s t).mapping := by
  rw [requestRestripe, setTraceState, traceOf_setFld, traceOf_setTrace]

theorem requestRestripe_evtWait (t mask time : Nat) (s : State) : (requestRestripe t mask time s).evtWait = s.evtWait := by
  rw [requestRestripe, setTraceState, setFld_evtWait, setTrace_evtWait]

/-- Loss of lock of a lane noted: counted, flagged and raised. -/
def lossNoted (l t : Nat) (s : State) : State :=
  raise 0x70 l t (setBit Fld.LINK_GSTATUS_LOSS_STICKY 0 (countFld Fld.LANE_ERR_LOCK_LOSS l (clrBit Fld.LANE_STATUS_LOCKED l s)))

/-- The lane left out of its trace. -/
def lossExcluded (l t : Nat) (s : State) : State :=
  setBit Fld.LANE_STATUS_EXCLUDED l (setTrace t { traceOf s t with lossLanes := (traceOf s t).lossLanes ||| 2 ^ mapLane (traceOf s t) t l } s)

theorem laneLoss_noTrace {l now : Nat} {s : State} (h : fbit s Fld.LANE_STATUS_LOCKED l = true) (hm : fld s Fld.LANE_CFG_MODE l ≠ 1) :
    laneLoss l now s = countFld Fld.LANE_ERR_LOCK_LOSS l (clrBit Fld.LANE_STATUS_LOCKED l s) :=
  (if_neg (not_not_intro h)).trans (if_pos hm)

/-- A lane lost on a trace in UP: excluded, and the peer asked to send on the lanes left. -/
theorem laneLoss_asks {l now t : Nat} {s : State} (h : fbit s Fld.LANE_STATUS_LOCKED l = true) (hm : fld s Fld.LANE_CFG_MODE l = 1)
    (ht : fld s Fld.LANE_STATUS_TRACE l = t) (hup : traceUp (lossNoted l t s) t = true) (hx : fbit (lossNoted l t s) Fld.LANE_STATUS_EXCLUDED l = false)
    (hgood : goodMask (lossExcluded l t (lossNoted l t s)) t ≠ 0)
    (hen : fbit (lossExcluded l t (lossNoted l t s)) Fld.LINK_CTRL_RESTRIPE_EN = true)
    (hok : fbit (lossExcluded l t (lossNoted l t s)) Fld.TRACE_CFG_RESTRIPE_OK t = true) :
    laneLoss l now s = requestRestripe t (goodMask (lossExcluded l t (lossNoted l t s)) t) now (lossExcluded l t (lossNoted l t s)) := by
  subst ht
  refine (if_neg (not_not_intro h)).trans ((if_neg (not_not_intro hm)).trans ((if_neg ?_).trans ((if_neg hgood).trans (if_neg ?_))))
  · exact not_or.mpr ⟨not_not_intro hup, ne_true_of_eq_false hx⟩
  · exact not_or.mpr ⟨not_not_intro hen, not_not_intro hok⟩

section
variable {l t : Nat} (hl : l < 80) (s : State)
include hl

/-- A loss of lock leaves the fields of traces, and those of the lane apart from what it notes. -/
theorem fld_lossNoted {g : RegField} (h : fieldAddr Fld.LANE_STATUS_LOCKED 80 < g.base ∧ fieldAddr Fld.LANE_ERR_LOCK_LOSS 80 < g.base) (j : Nat) :
    fld (lossNoted l t s) g j = fld s g j := by
  have hsticky : fieldAddr Fld.LINK_GSTATUS_LOSS_STICKY 0 < g.base := Nat.lt_trans (by decide) h.1
  rw [lossNoted, fld_raised, setBit_eq, fld_setFld_alone hsticky, countFld_eq, fld_setFld_below (Nat.le_of_lt hl) h.2, clrBit_eq,
    fld_setFld_below (Nat.le_of_lt hl) h.1]

theorem fld_lossExcluded {g : RegField} (h : fieldAddr Fld.LANE_STATUS_EXCLUDED 80 < g.base) (j : Nat) :
    fld (lossExcluded l t s) g j = fld s g j := by
  rw [lossExcluded, setBit_eq, fld_setFld_below (Nat.le_of_lt hl) h, fld_traceSet]
end

/-- Fields of a lane's row apart from what a loss notes. -/
theorem fld_lossNoted_lane {g : RegField} (h : rowsApart Fld.LANE_STATUS_LOCKED g = true ∧ rowsApart Fld.LANE_ERR_LOCK_LOSS g = true ∧
    fieldAddr Fld.LINK_GSTATUS_LOSS_STICKY 0 < g.base) (l t j : Nat) (s : State) : fld (lossNoted l t s) g j = fld s g j := by
  rw [lossNoted, fld_raised, setBit_eq, fld_setFld_alone h.2.2, countFld_eq, fld_setFld_rows h.2.1, clrBit_eq, fld_setFld_rows h.1]

theorem lossNoted_locked (l t j : Nat) (s : State) :
    fld (lossNoted l t s) Fld.LANE_STATUS_LOCKED j = if j = l then 0 else fld s Fld.LANE_STATUS_LOCKED j := by
  rw [lossNoted, fld_raised, setBit_eq, fld_setFld_alone (by decide), countFld_eq, fld_setFld_rows (by decide), clrBit_eq]
  split
  next h => rw [h, fld_setFld_mod Fld.LANE_STATUS_LOCKED (by decide) (by decide)]; rfl
  next h => exact fld_setFld_other _ _ _ _ _ _ fun he => h (by simp only [fieldAddr, strideOff, Fld.LANE_STATUS_LOCKED] at he; omega)

theorem lossExcluded_excluded (l t j : Nat) (s : State) :
    fld (lossExcluded l t s) Fld.LANE_STATUS_EXCLUDED j = if j = l then 1 else fld s Fld.LANE_STATUS_EXCLUDED j := by
  rw [lossExcluded, setBit_eq]
  split
  next h => rw [h, fld_setFld_mod Fld.LANE_STATUS_EXCLUDED (by decide) (by decide)]; rfl
  next h =>
    exact fld_setFld_other _ _ _ _ _ _ fun he => h (by simp only [fieldAddr, strideOff, Fld.LANE_STATUS_EXCLUDED] at he; omega)

theorem lossExcluded_lane {g : RegField} (h : rowsApart Fld.LANE_STATUS_EXCLUDED g = true) (l t j : Nat) (s : State) :
    fld (lossExcluded l t s) g j = fld s g j := by
  rw [lossExcluded, setBit_eq, fld_setFld_rows h, fld_traceSet]

theorem fld_under_loss {g : RegField} (h : fieldAddr g 0 < Fld.LINK_GSTATUS_LOSS_STICKY.base) (l t : Nat) (s : State) :
    fld (lossExcluded l t (lossNoted l t s)) g = fld s g := by
  have h' : ∀ f : RegField, Fld.LINK_GSTATUS_LOSS_STICKY.base ≤ f.base → fieldAddr g 0 < f.base := fun f hf => Nat.lt_of_lt_of_le h hf
  rw [lossExcluded, setBit_eq, fld_setFld_under (h' _ (by decide)), fld_traceSet, lossNoted, fld_raised, setBit_eq, fld_setFld_under (h' _ (by decide)),
    countFld_eq, fld_setFld_under (h' _ (by decide)), clrBit_eq, fld_setFld_under (h' _ (by decide))]

/-- A number with a bit set is not 0. -/
theorem maskOf_ne_zero {i : Nat} {l : List Nat} (h : i ∈ l) : maskOf l ≠ 0 := by
  have hgrow : ∀ (l : List Nat) (a : Nat), a ≤ l.foldl (fun a i => if testBit a i then a else a + 2 ^ i) a := by
    intro l
    induction l with
    | nil => exact fun a => Nat.le_refl a
    | cons x l ih =>
      intro a
      rw [List.foldl_cons]
      refine Nat.le_trans ?_ (ih _)
      split
      · exact Nat.le_refl a
      · exact Nat.le_add_right ..
  obtain ⟨before, after, rfl⟩ := List.append_of_mem h
  rw [maskOf, List.foldl_append, List.foldl_cons]
  refine Nat.ne_of_gt (Nat.lt_of_lt_of_le ?_ (hgrow after _))
  split
  next hb =>
    refine Nat.pos_of_ne_zero fun hz => ?_
    rw [hz] at hb
    simp [testBit] at hb
  next => exact Nat.lt_of_lt_of_le (Nat.two_pow_pos i) (Nat.le_add_left ..)

/-- What the state shows when a lane has been lost and left out. -/
structure Lost (l t : Nat) (s b : State) : Prop where
  traces : ∀ {g : RegField}, fieldAddr Fld.LANE_STATUS_LOCKED 80 < g.base → fieldAddr Fld.LANE_ERR_LOCK_LOSS 80 < g.base → ∀ j, fld b g j = fld s g j
  locked : ∀ j, fld b Fld.LANE_STATUS_LOCKED j = if j = l then 0 else fld s Fld.LANE_STATUS_LOCKED j
  excluded : ∀ j, fld b Fld.LANE_STATUS_EXCLUDED j = if j = l then 1 else fld s Fld.LANE_STATUS_EXCLUDED j
  event : b.evtWait = s.evtWait ++ [⟨0x70, s.frame, l % 2 ^ 32, t % 2 ^ 32, none⟩]
  frame : b.frame = s.frame

theorem lost_shows {l : Nat} (hl : l < 80) (t : Nat) (s : State) : Lost l t s (lossExcluded l t (lossNoted l t s)) where
  traces h1 h2 j := by rw [fld_lossExcluded hl _ h1, fld_lossNoted hl _ ⟨h1, h2⟩]
  locked j := by rw [lossExcluded_lane (by decide), lossNoted_locked]
  excluded j := by rw [lossExcluded_excluded, fld_lossNoted_lane (by decide)]
  event := by
    rw [lossExcluded, setBit_eq, setFld_evtWait, setTrace_evtWait, lossNoted, raised_evtWait, setBit_eq, countFld_eq,
      clrBit_eq, setFld_evtWait, setFld_evtWait, setFld_evtWait, setFld_frame, setFld_frame, setFld_frame]
  frame := by
    rw [lossExcluded, setBit_eq, setFld_frame, setTrace_frame, lossNoted, raise_frame, setBit_eq, countFld_eq, clrBit_eq, setFld_frame, setFld_frame, setFld_frame]

/-- Another lane of the trace that is good keeps the mask of good lanes from being empty. -/
theorem Lost.goodMask_ne_zero {l m t : Nat} {s b : State} (h : Lost l t s b) (hml : m ≠ l) (hm : m ∈ traceLanes s t)
    (hlock : fbit s Fld.LANE_STATUS_LOCKED m = true) (hin : fbit s Fld.LANE_STATUS_EXCLUDED m = false) : goodMask b t ≠ 0 := by
  refine maskOf_ne_zero (i := mapLane (traceOf b t) t m) (List.mem_map_of_mem (List.mem_filter.mpr ⟨?_, ?_⟩))
  · rwa [traceLanes_congr (h.traces (by decide) (by decide) t)]
  · have hb : fbit b Fld.LANE_STATUS_LOCKED m = true := by rw [fbit, h.locked, if_neg hml]; exact hlock
    have hb' : fbit b Fld.LANE_STATUS_EXCLUDED m = false := by rw [fbit, h.excluded, if_neg hml]; exact hin
    rw [hb, hb']
    rfl

theorem goodMask_requestRestripe {t : Nat} (ht : t < 64) (mask now : Nat) (b : State) : goodMask (requestRestripe t mask now b) t = goodMask b t :=
  goodMask_congr (fld_requestRestripe (.inl (by decide)) _ _ b)
    (fun j hj => ⟨fld_requestRestripe (.inr (laneRow_below (by decide) (lt_of_mem_traceLanes ht hj))) _ _ b,
      fld_requestRestripe (.inr (laneRow_below (by decide) (lt_of_mem_traceLanes ht hj))) _ _ b⟩) (requestRestripe_mapping ..)

/-- A lane lost on a trace in UP of which another lane is good: excluded, raised, and a restripe asked for. -/
theorem Lost.restriped {l t : Nat} {s b : State} (h : Lost l t s b) (hl : l < 80) (ht : t < 64) (now : Nat) :
    let a := requestRestripe t (goodMask b t) now b
    fld a Fld.LANE_STATUS_LOCKED l = 0 ∧ fld a Fld.LANE_STATUS_EXCLUDED l = 1 ∧ Asked t (goodMask a t) s a ∧
      a.evtWait = s.evtWait ++ [⟨0x70, s.frame, l % 2 ^ 32, t % 2 ^ 32, none⟩] := by
  dsimp only
  obtain ⟨hstate, k, hk, hpend, hlcp⟩ := asked_requestRestripe t (goodMask b t) now b
  refine ⟨?_, ?_, ⟨hstate, k, h.frame ▸ hk, ?_, ?_⟩, ?_⟩
  · rw [fld_requestRestripe (.inr (laneRow_below (by decide) hl)), h.locked, if_pos rfl]
  · rw [fld_requestRestripe (.inr (laneRow_below (by decide) hl)), h.excluded, if_pos rfl]
  · rw [goodMask_requestRestripe ht]
    exact hpend
  · rw [goodMask_requestRestripe ht]
    exact hlcp
  · rw [requestRestripe_evtWait, h.event]

theorem laneLoss_restripes {l m t : Nat} {s : State} (hl : l < 80) (h : fbit s Fld.LANE_STATUS_LOCKED l = true) (hmode : fld s Fld.LANE_CFG_MODE l = 1)
    (ht : fld s Fld.LANE_STATUS_TRACE l = t) (hup : traceUp s t = true) (hx : fbit s Fld.LANE_STATUS_EXCLUDED l = false)
    (hen : fbit s Fld.LINK_CTRL_RESTRIPE_EN = true) (hok : fbit s Fld.TRACE_CFG_RESTRIPE_OK t = true) (hml : m ≠ l) (hm : m ∈ traceLanes s t)
    (hlock : fbit s Fld.LANE_STATUS_LOCKED m = true) (hin : fbit s Fld.LANE_STATUS_EXCLUDED m = false) (now : Nat) :
    laneLoss l now s = requestRestripe t (goodMask (lossExcluded l t (lossNoted l t s)) t) now (lossExcluded l t (lossNoted l t s)) := by
  have hlost := lost_shows hl t s
  refine laneLoss_asks h hmode ht ?_ ?_ (hlost.goodMask_ne_zero hml hm hlock hin) ?_ ?_
  · rw [traceUp, traceState, fld_lossNoted hl _ (by decide)]
    exact hup
  · rw [fbit, fld_lossNoted_lane (by decide)]
    exact hx
  · rw [fbit, fld_under_loss (by decide)]
    exact hen
  · rw [fbit, hlost.traces (by decide) (by decide)]
    exact hok

/-- The registers of a lane that has lock again. -/
def lockShown (l : Nat) (inverted : Bool) (s : State) : State :=
  setFld Fld.LANE_STATUS_RX_INVERTED l (bnat inverted) (setBit Fld.LANE_STATUS_LOCKED l (setBit Fld.LANE_STATUS_SIGNAL l s))

theorem lockShown_fields (l : Nat) (inverted : Bool) (s : State) : fld (lockShown l inverted s) Fld.LANE_STATUS_LOCKED l = 1 ∧
    fld (lockShown l inverted s) Fld.LANE_STATUS_RX_INVERTED l = bnat inverted := by
  refine ⟨?_, ?_⟩
  · rw [lockShown, fld_setFld_rows (by decide), fld_setBit (by decide) (by decide)]
  · rw [lockShown, fld_setFld_mod Fld.LANE_STATUS_RX_INVERTED (by decide) (by decide)]
    cases inverted <;> rfl

theorem fld_lockShown {g : RegField} (h : rowsApart Fld.LANE_STATUS_RX_INVERTED g = true ∧ rowsApart Fld.LANE_STATUS_LOCKED g = true ∧
    rowsApart Fld.LANE_STATUS_SIGNAL g = true) (l j : Nat) (inverted : Bool) (s : State) : fld (lockShown l inverted s) g j = fld s g j := by
  rw [lockShown, fld_setFld_rows h.1, setBit_eq, fld_setFld_rows h.2.1, setBit_eq, fld_setFld_rows h.2.2]

theorem traceState_lockShown {l : Nat} (hl : l < 80) (inverted : Bool) (s : State) (t : Nat) : traceState (lockShown l inverted s) t = traceState s t := by
  have hbelow : ∀ {f : RegField}, fieldAddr f 80 < Fld.TRACE_STATE_STATE.base → ∀ v a, fld (setFld f l v a) Fld.TRACE_STATE_STATE t = fld a Fld.TRACE_STATE_STATE t :=
    fun h v a => fld_setFld_below (Nat.le_of_lt hl) h t v a
  rw [traceState, lockShown, hbelow (by decide), setBit_eq, hbelow (by decide), setBit_eq, hbelow (by decide), traceState]

theorem allLocked_commaCheck {t : Nat} (ht : t < 64) (s : State) : allLocked (commaCheck t s) t = allLocked s t :=
  allLocked_congr (fld_commaCheck (.inl (by decide)) s) fun _ hl => fld_commaCheck (.inr (laneRow_below (by decide) (lt_of_mem_traceLanes ht hl))) s

/-- The alignment position of a lane noted. -/
def commaNoted (l k : Nat) (s : State) : State := { s with comma := smapSet (fun _ => 0) l k s.comma }

theorem fld_commaNoted (l k : Nat) (s : State) (g : RegField) (j : Nat) : fld (commaNoted l k s) g j = fld s g j := (rfl)

theorem commaNoted_comma (l k : Nat) (s : State) : smapGet (fun _ => 0) (commaNoted l k s).comma l = k := smapGet_set_self ..

theorem laneLock_eq {l : Nat} {s : State} (hm : fld s Fld.LANE_CFG_MODE l = 1 ∨ fld s Fld.LANE_CFG_MODE l = 2) (inverted : Bool) (k : Nat) :
    laneLock l inverted k s = if fld s Fld.LANE_CFG_MODE l = 1 then commaCheck (fld s Fld.LANE_STATUS_TRACE l) (commaNoted l k (lockShown l inverted s))
      else commaNoted l k (lockShown l inverted s) := by
  have hmode : fld (commaNoted l k (lockShown l inverted s)) Fld.LANE_CFG_MODE l = fld s Fld.LANE_CFG_MODE l := by rw [fld_commaNoted, fld_lockShown (by decide)]
  have htrace : fld (commaNoted l k (lockShown l inverted s)) Fld.LANE_STATUS_TRACE l = fld s Fld.LANE_STATUS_TRACE l := by rw [fld_commaNoted, fld_lockShown (by decide)]
  rw [← hmode, ← htrace]
  exact if_neg (by omega)

/-- A lane of a trace or of Ethernet locks. -/
theorem laneLock_shows {l : Nat} (hl : l < 80) (inverted : Bool) (k : Nat) {s : State} (hm : fld s Fld.LANE_CFG_MODE l = 1 ∨ fld s Fld.LANE_CFG_MODE l = 2) :
    fld (laneLock l inverted k s) Fld.LANE_STATUS_LOCKED l = 1 ∧ fld (laneLock l inverted k s) Fld.LANE_STATUS_RX_INVERTED l = bnat inverted ∧
      smapGet (fun _ => 0) (laneLock l inverted k s).comma l = k := by
  obtain ⟨hlocked, hinv⟩ := lockShown_fields l inverted s
  rw [← fld_commaNoted l k] at hlocked hinv
  have hcomma := commaNoted_comma l k (lockShown l inverted s)
  rw [laneLock_eq hm]
  generalize commaNoted l k (lockShown l inverted s) = b at hlocked hinv hcomma
  split
  · refine ⟨?_, ?_, ?_⟩
    · rw [fld_commaCheck (.inr (laneRow_below (by decide) hl)), hlocked]
    · rw [fld_commaCheck (.inr (laneRow_below (by decide) hl)), hinv]
    · rw [commaCheck_other (get := fun s => smapGet (fun _ => 0) s.comma l) (fun _ _ _ _ => rfl), hcomma]
  · exact ⟨hlocked, hinv, hcomma⟩

/-- In COMMA the trace goes on once every lane has lock. -/
theorem laneLock_comma {l t : Nat} (hl : l < 80) (ht : t < 64) (inverted : Bool) (k : Nat) {s : State} (hm : fld s Fld.LANE_CFG_MODE l = 1)
    (htr : fld s Fld.LANE_STATUS_TRACE l = t) (hst : traceState s t = 1) :
    traceState (laneLock l inverted k s) t = if allLocked (laneLock l inverted k s) t then 2 else 1 := by
  have hcomma : traceState (commaNoted l k (lockShown l inverted s)) t = 1 := by rw [traceState, fld_commaNoted, ← traceState, traceState_lockShown hl, hst]
  rw [laneLock_eq (.inl hm), if_pos hm, htr, allLocked_commaCheck ht, traceState_commaCheck hcomma]

theorem laneReturn_asks {l t now : Nat} {s : State} (hm : fld s Fld.LANE_CFG_MODE l = 1) (ht : fld s Fld.LANE_STATUS_TRACE l = t)
    (hen : fbit s Fld.LINK_CTRL_RETURN_EN = true) (hx : fbit s Fld.LANE_STATUS_EXCLUDED l = true) (hl : fbit s Fld.LANE_STATUS_LOCKED l = true)
    (hup : traceUp s t = true) :
    laneReturn l now s = requestRestripe t (maskOf (mapLane (traceOf s t) t l :: bitList 8 (goodMask s t))) now s := by
  subst ht
  exact if_pos ⟨hm, hen, hx, hl, hup⟩

/-! ### The peer's restripe (R348) -/

section
variable {c : List Byte} {t now : Nat} {s : State} (hc : lcpIs 4 c = true) (hup : traceUp s t = true)
  (hnew : (traceOf s t).txPend ≠ some (rd c 1 1, rd c 2 8)) (hk : s.frame < rd c 2 8) (hmask : rd c 1 1 ≠ 0)
include hc hup hnew hk hmask

theorem restripeRx_eq : restripeRx t [c] now s = if ¬ microBefore s (rd c 2 8) now then traceFail t 7 1 s
    else setTraceState t 5 (setTrace t { traceOf s t with txPend := some (rd c 1 1, rd c 2 8) } s) := by
  have hfind : [c].find? (lcpIs 4) = some c := by rw [List.find?_cons, hc]
  rw [restripeRx, hfind]
  have hgo : ¬ (¬ traceUp s t = true ∨ (traceOf s t).txPend = some (rd c 1 1, rd c 2 8) ∨ ((traceOf s t).txSet = rd c 1 1 ∧ rd c 2 8 ≤ s.frame)) := by
    rintro (h | h | h)
    · exact h hup
    · exact hnew h
    · exact absurd h.2 (by omega)
  exact (if_neg hgo).trans (if_neg hmask)
end

/-! ### Frame markers (R328, R343) -/

theorem auditFail_shows (t vc : Nat) (s : State) : traceState (auditFail t vc s) t = traceState s t ∧ (traceOf (auditFail t vc s) t).marker = (traceOf s t).marker ∧
    (traceOf (auditFail t vc s) t).synced = (traceOf s t).synced ∧ (traceOf (auditFail t vc s) t).job = (traceOf s t).job := by
  have htrace : traceOf (auditFail t vc s) t = setVc vc { vcOf (traceOf s t) vc with audits := (vcOf (traceOf s t) vc).audits + 1 } (traceOf s t) := by
    rw [auditFail, traceOf_raise, setBit_eq, traceOf_setFld, setBit_eq, traceOf_setFld, traceOf_setTrace]
  refine ⟨?_, ?_, ?_, ?_⟩
  · rw [traceState, auditFail, fld_raised, setBit_eq, fld_setFld_rows (by decide), setBit_eq, fld_setFld_alone (by decide), fld_traceSet, traceState]
  all_goals rw [htrace, setVc]

theorem creditAudit_shows (t : Nat) (s : State) : traceState (creditAudit t s) t = traceState s t ∧ (traceOf (creditAudit t s) t).marker = (traceOf s t).marker ∧
    (traceOf (creditAudit t s) t).synced = (traceOf s t).synced ∧ (traceOf (creditAudit t s) t).job = (traceOf s t).job := by
  refine forEach_inv (P := fun y : State => traceState y t = traceState s t ∧ (traceOf y t).marker = (traceOf s t).marker ∧
    (traceOf y t).synced = (traceOf s t).synced ∧ (traceOf y t).job = (traceOf s t).job) (fun vc y hy => ?_) ⟨rfl, rfl, rfl, rfl⟩
  obtain ⟨h1, h2, h3, h4⟩ := hy
  obtain ⟨g1, g2, g3, g4⟩ := auditFail_shows t vc y
  split
  · exact ⟨h1, h2, h3, h4⟩
  · exact ⟨g1.trans h1, g2.trans h2, g3.trans h3, g4.trans h4⟩

/-- The record of a trace that has taken marker `m`. -/
def markerTaken (m : Nat) (x : TraceSt) : TraceSt := { x with marker := some m, miss := 0, synced := x.synced + 1, lossLanes := 0, slip := false }

/-- A trace in SYNC that has had its second marker in a row is in UP. -/
def markerUp (t : Nat) (x : TraceSt) (s : State) : State :=
  if traceState s t = 3 ∧ 2 ≤ x.synced + 1 then
    let s := setTraceState t 4 s
    let s := match x.job with
      | some h => endJob h 1 0 0 0 s
      | none => s
    teamUpdate (setTrace t { traceOf s t with job := none } s)
  else s

/-- The lanes without the index `m` counted and flagged. -/
def markerBad (t m : Nat) (got : List (Option Nat)) (s : State) : State :=
  if 0 < (got.filter (fun g => decide (g = none ∨ g ≠ some m))).length then
    setBit Fld.TRACE_FLAGS_MARKER t (addFld Fld.TRACE_MARKER_ERR_LANE_MARKERS t (got.filter (fun g => decide (g = none ∨ g ≠ some m))).length s)
  else s

/-- What a trace with record `x` does when index `m` is due and the lanes carried `got`. -/
def markerDue (t m now : Nat) (got : List (Option Nat)) (x : TraceSt) (s : State) : State :=
  if got.contains (some m) then
    teamMarker t m true (markerUp t x (creditAudit t (restripeInUse t m now (setTrace t (markerTaken m x) s))))
  else if 2 ≤ x.miss ∧ traceUp s t then traceFail t 9 1 s
  else teamMarker t m false (setTrace t { x with miss := x.miss + 1, synced := 0 } s)

theorem markerRx_eq {t m now : Nat} {idx : List (Nat × Option Nat)} {s : State} (hst : 3 ≤ traceState s t) (hm : (traceOf s t).marker = some m) :
    markerRx t idx now s = markerDue t (m + 1) now (markerLanes s t idx) (traceOf s t) (markerBad t (m + 1) (markerLanes s t idx) s) := by
  rw [markerRx, if_neg (by omega)]
  generalize traceOf s t = x at hm
  cases x
  cases hm
  rfl

/-- A marker with the index due, on every lane that counts. -/
theorem markerRx_good {t m now : Nat} {idx : List (Nat × Option Nat)} {s : State} (hst : 3 ≤ traceState s t) (hpend : (traceOf s t).rxPend = none)
    (hm : (traceOf s t).marker = some m) (hne : markerLanes s t idx ≠ []) (hall : ∀ g ∈ markerLanes s t idx, g = some (m + 1)) :
    markerRx t idx now s = teamMarker t (m + 1) true
      (markerUp t (traceOf s t) (creditAudit t (setTrace t (markerTaken (m + 1) (traceOf s t)) s))) := by
  have hcontains : (markerLanes s t idx).contains (some (m + 1)) = true := by
    obtain ⟨g, l, hl⟩ := List.exists_cons_of_ne_nil hne
    rw [hl, List.contains_cons, hall g (hl ▸ List.mem_cons_self ..), beq_self_eq_true, Bool.true_or]
  have hbad : (markerLanes s t idx).filter (fun g => decide (g = none ∨ g ≠ some (m + 1))) = [] := by
    refine List.filter_eq_nil_iff.mpr fun g hg => ?_
    rw [hall g hg]
    simp
  have huse : restripeInUse t (m + 1) now (setTrace t (markerTaken (m + 1) (traceOf s t)) s) = setTrace t (markerTaken (m + 1) (traceOf s t)) s := by
    rw [restripeInUse, traceOf_setTrace, markerTaken, hpend]
  rw [markerRx_eq hst hm, markerBad, hbad, List.length_nil, if_neg (Nat.lt_irrefl 0), markerDue, if_pos hcontains, huse]

/-- The state of a trace that has taken a marker, its credits audited. -/
theorem markerAudited_shows (t m : Nat) (s : State) : let y := creditAudit t (setTrace t (markerTaken m (traceOf s t)) s)
    traceState y t = traceState s t ∧ (traceOf y t).marker = some m ∧ (traceOf y t).synced = (traceOf s t).synced + 1 ∧ (traceOf y t).job = (traceOf s t).job := by
  obtain ⟨h1, h2, h3, h4⟩ := creditAudit_shows t (setTrace t (markerTaken m (traceOf s t)) s)
  rw [traceOf_setTrace] at h2 h3 h4
  exact ⟨h1, h2, h3, h4⟩

theorem endJob_links (h st fin d r : Nat) (s : State) : (endJob h st fin d r s).traces = s.traces ∧ (endJob h st fin d r s).regs = s.regs := by
  unfold endJob
  split
  · exact ⟨rfl, rfl⟩
  · split
    · exact ⟨rfl, rfl⟩
    · exact ⟨rfl, rfl⟩

theorem traceOf_congr {a b : State} (h : a.traces = b.traces) (t : Nat) : traceOf a t = traceOf b t := by rw [traceOf, traceOf, h]

theorem fld_congr {a b : State} (h : a.regs = b.regs) (g : RegField) (j : Nat) : fld a g j = fld b g j := by rw [fld, fld, regWord, regWord, h]

/-- The trace comes up: in UP, its marker kept, its job ended. -/
theorem markerUp_up {t : Nat} {x : TraceSt} {y : State} (hst : traceState y t = 3) (hsync : 2 ≤ x.synced + 1) : ∃ a, markerUp t x y = teamUpdate a ∧
    traceState a t = 4 ∧ (traceOf a t).marker = (traceOf y t).marker ∧ (traceOf a t).job = none := by
  refine ⟨_, if_pos ⟨hst, hsync⟩, ?_, ?_, ?_⟩
  · have hset : traceState (setTraceState t 4 y) t = 4 := fld_setFld_mod Fld.TRACE_STATE_STATE (by decide) (by decide) t 4 y
    rw [traceState, fld_traceSet]
    cases x.job with
    | none => exact hset
    | some h => exact (fld_congr (endJob_links h 1 0 0 0 _).2 _ _).trans hset
  · rw [traceOf_setTrace]
    cases x.job with
    | none => rfl
    | some h =>
      have hkept := congrArg TraceSt.marker (traceOf_congr (endJob_links h 1 0 0 0 (setTraceState t 4 y)).1 t)
      exact hkept
  · rw [traceOf_setTrace]

theorem markerRx_missed {t m now : Nat} {idx : List (Nat × Option Nat)} {s : State} (hup : traceUp s t = true) (hm : (traceOf s t).marker = some m)
    (hmiss : 2 ≤ (traceOf s t).miss) (hno : some (m + 1) ∉ markerLanes s t idx) :
    markerRx t idx now s = traceFail t 9 1 (markerBad t (m + 1) (markerLanes s t idx) s) := by
  have hst : 4 ≤ traceState s t := of_decide_eq_true hup
  have hstate : traceState (markerBad t (m + 1) (markerLanes s t idx) s) t = traceState s t := by
    unfold markerBad
    split
    · rw [traceState, setBit_eq, fld_setFld_rows (by decide), addFld_eq, fld_setFld_rows (by decide), traceState]
    · rfl
  have hup' : traceUp (markerBad t (m + 1) (markerLanes s t idx) s) t = true := by rw [traceUp, hstate]; exact hup
  rw [markerRx_eq (by omega) hm, markerDue, if_neg (by rwa [List.contains_iff_mem]), if_pos ⟨hmiss, hup'⟩]

/-- What counting bad lanes leaves. -/
theorem markerBad_frame {t : Nat} (ht : t < 64) (m : Nat) (got : List (Option Nat)) (s : State) : allLocked (markerBad t m got s) t = allLocked s t ∧
    (markerBad t m got s).evtWait = s.evtWait ∧ (markerBad t m got s).frame = s.frame ∧ (markerBad t m got s).mem = s.mem ∧
    traceOf (markerBad t m got s) t = traceOf s t := by
  unfold markerBad
  split
  · refine ⟨allLocked_congr ?_ fun l hl => ?_, ?_, ?_, ?_, ?_⟩
    · rw [setBit_eq, fld_setFld_rows (by decide), addFld_eq, fld_setFld_rows (by decide)]
    · have hl80 := Nat.le_of_lt (lt_of_mem_traceLanes ht hl)
      rw [setBit_eq, fld_setFld_above hl80 (by decide), addFld_eq, fld_setFld_above hl80 (by decide)]
    · rw [setBit_eq, addFld_eq, setFld_evtWait, setFld_evtWait]
    · rw [setBit_eq, addFld_eq, setFld_frame, setFld_frame]
    · rw [setBit_eq, addFld_eq, setFld_mem, setFld_mem]
    · rw [setBit_eq, addFld_eq, traceOf_setFld, traceOf_setFld]
  · exact ⟨rfl, rfl, rfl, rfl, rfl⟩

/-! ### TRAIN (R330) -/

theorem trainRx_up {t skew : Nat} {c : List Byte} {s : State} (hc : lcpIs 0 c = true) (hup : traceUp s t = true) :
    trainRx t [(t, c)] skew none s = traceFail t 8 1 s := by
  have hok : [(t, c)].filter (fun c => lcpIs 0 c.2) = [(t, c)] := List.filter_cons_of_pos hc
  rw [trainRx, hok]
  exact if_pos hup

/-- A packet of another width holds the trace. -/
theorem trainRx_width {t skew : Nat} {c : List Byte} {s : State} (hc : lcpIs 0 c = true) (hst : traceState s t = 2) (hw : rd c 1 1 / 8 % 16 ≠ traceWidth s t) :
    trainRx t [(t, c)] skew none s = trainHold t 2 (setFld Fld.TRACE_PEER_PEER t (rd c 3 3 % 2 ^ 18) s) := by
  have hok : [(t, c)].filter (fun c => lcpIs 0 c.2) = [(t, c)] := List.filter_cons_of_pos hc
  have hup : ¬ traceUp s t = true := by rw [traceUp, hst]; decide
  rw [trainRx, hok]
  exact (if_neg hup).trans ((if_neg (not_not_intro hst)).trans (if_pos (.inl hw)))

theorem trainHold_shows (t : Nat) (s : State) : fld (trainHold t 2 s) Fld.TRACE_STATE_LAST_FAIL t = 2 ∧
    fld (trainHold t 2 s) Fld.TRACE_PEER_PEER t = fld s Fld.TRACE_PEER_PEER t ∧ traceState (trainHold t 2 s) t = traceState s t ∧
    (traceOf (trainHold t 2 s) t).ready = 0 ∧ (traceOf (trainHold t 2 s) t).checked = false := by
  refine ⟨?_, ?_, ?_, ?_, ?_⟩
  · rw [trainHold, fld_traceSet, fld_setFld_mod Fld.TRACE_STATE_LAST_FAIL (by decide) (by decide)]
    rfl
  · rw [trainHold, fld_traceSet, fld_setFld_rows (by decide)]
  · rw [traceState, trainHold, fld_traceSet, fld_setFld_rows (by decide), traceState]
  · rw [trainHold, traceOf_setTrace]
  · rw [trainHold, traceOf_setTrace]

/-- The record of a trace after a TRAIN packet: the limits it names. -/
def limitsRead (c : List Byte) (x : TraceSt) : TraceSt := forEach (List.range 4) (fun vc x => setVc vc { vcOf x vc with limit := 8 * rd c (6 + vc) 1 } x) x

theorem limitsRead_limit (c : List Byte) (x : TraceSt) {vc : Nat} (h : vc < 4) : (vcOf (limitsRead c x) vc).limit = 8 * rd c (6 + vc) 1 := by
  have hrange : List.range 4 = [0, 1, 2, 3] := rfl
  rw [limitsRead, hrange]
  simp only [forEach, List.foldl_cons, List.foldl_nil]
  obtain rfl | rfl | rfl | rfl : vc = 0 ∨ vc = 1 ∨ vc = 2 ∨ vc = 3 := by omega
  all_goals simp only [vcOf_setVc, vcOf_setVc_ne (show 0 ≠ 1 by decide), vcOf_setVc_ne (show 0 ≠ 2 by decide), vcOf_setVc_ne (show 0 ≠ 3 by decide),
    vcOf_setVc_ne (show 1 ≠ 2 by decide), vcOf_setVc_ne (show 1 ≠ 3 by decide), vcOf_setVc_ne (show 2 ≠ 3 by decide)]

/-- What a matching TRAIN packet of one lane does to a trace of kind `kind`, `x` being its record. -/
def trainTaken (t skew kind lat : Nat) (c : List Byte) (x : TraceSt) (s : State) : State :=
  let maps := forEach [(t, c)] (fun p l => (p.1, rd p.2 1 1 % 8) :: l.filter (fun m => decide (m.1 ≠ p.1))) x.mapping
  let whole := decide ((maps.map Prod.snd).Nodup) && (traceLanes s t).all (fun l => maps.any (fun m => decide (m.1 = l)))
  let ready := if 128 ≤ rd c 1 1 then x.ready + 1 else 0
  let checked := whole && decide (skew ≤ 32) && (decide (kind = 1) || decide (0 < lat))
  let s := setTrace t { limitsRead c x with mapping := maps, checked := checked, ready := ready }
    (forEach maps (fun m s => setFld Fld.LANE_STATUS_TRACE_LANE m.1 m.2 s) s)
  if checked ∧ 2 ≤ ready then setTraceState t 3 s else s

/-- A packet of the trace's width, rate and kind from the peer it wants, on a herd trace. -/
theorem trainRx_herd {t skew : Nat} {c : List Byte} {s : State} (hc : lcpIs 0 c = true) (hst : traceState s t = 2)
    (hlane : rd c 1 1 / 8 % 16 = traceWidth s t) (hrate : rd c 2 1 % 8 = fld s Fld.TRACE_CFG_RATE t) (hk : rd c 2 1 / 8 % 4 = 1)
    (hkind : fld s Fld.TRACE_CFG_KIND t = 1) (hwant : (traceOf s t).want = 0xFFFFFFFF ∨ (traceOf s t).want = rd c 3 3 % 2 ^ 18) :
    trainRx t [(t, c)] skew none s = trainTaken t skew (fld s Fld.TRACE_CFG_KIND t)
      (fld (setFld Fld.TRACE_PEER_PEER t (rd c 3 3 % 2 ^ 18) s) Fld.TRACE_LATENCY_NS t) c (traceOf s t) (setFld Fld.TRACE_PEER_PEER t (rd c 3 3 % 2 ^ 18) s) := by
  have hok : [(t, c)].filter (fun c => lcpIs 0 c.2) = [(t, c)] := List.filter_cons_of_pos hc
  have hup : ¬ traceUp s t = true := by rw [traceUp, hst]; decide
  have hrate' : fld (setFld Fld.TRACE_PEER_PEER t (rd c 3 3 % 2 ^ 18) s) Fld.TRACE_CFG_RATE t = fld s Fld.TRACE_CFG_RATE t := fld_setFld_rows (by decide) ..
  rw [trainRx, hok]
  refine (if_neg hup).trans ((if_neg (not_not_intro hst)).trans ((if_neg ?_).trans ((if_neg ?_).trans (if_neg ?_))))
  · rw [hrate']
    omega
  · omega
  · omega

theorem trainTaken_one {t skew lat : Nat} {c : List Byte} {x : TraceSt} {s : State} (hw : traceLanes s t = [t]) (hmark : 128 ≤ rd c 1 1) (hskew : skew ≤ 32)
    (hready : 1 ≤ x.ready) (hmap : x.mapping = []) : trainTaken t skew 1 lat c x s = setTraceState t 3 (setTrace t { limitsRead c x with
      mapping := [(t, rd c 1 1 % 8)], checked := true, ready := x.ready + 1 } (setFld Fld.LANE_STATUS_TRACE_LANE t (rd c 1 1 % 8) s)) := by
  have hmaps : forEach [(t, c)] (fun p l => (p.1, rd p.2 1 1 % 8) :: l.filter (fun m => decide (m.1 ≠ p.1))) x.mapping = [(t, rd c 1 1 % 8)] := by
    rw [hmap]
    rfl
  have hwhole : (decide (([(t, rd c 1 1 % 8)].map Prod.snd).Nodup) && [t].all (fun l => [(t, rd c 1 1 % 8)].any (fun m => decide (m.1 = l)))) = true := by simp
  unfold trainTaken
  dsimp only
  rw [hmaps, hw, hwhole, if_pos hmark, decide_eq_true hskew]
  exact if_pos ⟨rfl, by omega⟩

/-- What a trace in SYNC shows after its last TRAIN packet. -/
theorem trained_shows {t : Nat} (c : List Byte) (x : TraceSt) (s : State) : let y := setTraceState t 3 (setTrace t { limitsRead c x with
      mapping := [(t, rd c 1 1 % 8)], checked := true, ready := x.ready + 1 } s)
    traceState y t = 3 ∧ (traceOf y t).checked = true ∧ (traceOf y t).mapping = [(t, rd c 1 1 % 8)] ∧
      ∀ vc < 4, (vcOf (traceOf y t) vc).limit = 8 * rd c (6 + vc) 1 := by
  dsimp only
  refine ⟨?_, ?_, ?_, fun vc hvc => ?_⟩
  · rw [traceState, setTraceState, fld_setFld_mod Fld.TRACE_STATE_STATE (by decide) (by decide)]
    rfl
  all_goals rw [setTraceState, traceOf_setFld, traceOf_setTrace]
  exact limitsRead_limit c x hvc

/-! ### TRACE_UP's timeout and slips (R329, R337) -/

theorem jobOf_setJob {s : State} {h : Nat} {j k : JobRec} (hj : jobOf s h = some j) (hk : k.handle = h) : jobOf (setJob k s) h = some k := by
  have hfind : ∀ l : List JobRec, l.find? (fun j => decide (j.handle = h)) = some j →
      (updWhere (fun x => decide (x.handle = k.handle)) (fun _ => k) l).find? (fun j => decide (j.handle = h)) = some k := by
    intro l
    induction l with
    | nil => intro hl; cases hl
    | cons x l ih =>
      intro hl
      by_cases hx : x.handle = h
      · simp [updWhere, hk, hx]
      · rw [List.find?_cons_of_neg (by simpa using hx)] at hl
        have := ih hl
        simpa [updWhere, hk, hx] using this
  exact hfind s.jobs hj

/-- A running job that ends keeps its handle, with its end in its record. -/
theorem jobOf_endJob {s : State} {h : Nat} {j : JobRec} (hj : jobOf s h = some j) (hs : j.state = 0) (st fin d r : Nat) :
    jobOf (endJob h st fin d r s) h = some { j with state := st, final := fin, detail := d % 2 ^ 32, endFrame := s.frame, result := r } := by
  have hh : j.handle = h := by simpa using List.find?_some hj
  rw [endJob, hj]
  dsimp only
  rw [if_neg (not_not_intro hs)]
  exact jobOf_setJob hj hh

/-- The cause that a trace still in COMMA shows as its job times out. -/
def lockFailed (t : Nat) (s : State) : State := if traceState s t = 1 ∧ ¬ allLocked s t then setFld Fld.TRACE_STATE_LAST_FAIL t 1 s else s

theorem lockFailed_frame (t : Nat) (s : State) : traceState (lockFailed t s) t = traceState s t ∧ (lockFailed t s).jobs = s.jobs := by
  unfold lockFailed
  split
  · exact ⟨fld_setFld_rows (by decide) .., setFld_jobs ..⟩
  · exact ⟨rfl, rfl⟩

theorem traceUpTimeout_eq {t h : Nat} {s : State} (hx : (traceOf s t).job = some h) : traceUpTimeout t s = setTrace t { traceOf s t with job := none }
    (endJob h 2 0x61 (fld (lockFailed t s) Fld.TRACE_STATE_LAST_FAIL t) 0 (lockFailed t s)) := by
  rw [traceUpTimeout]
  generalize traceOf s t = x at hx
  cases x
  cases hx
  rfl

theorem traceUpTimeout_shows {t h : Nat} {j : JobRec} {s : State} (hx : (traceOf s t).job = some h) (hj : jobOf s h = some j) (hs : j.state = 0) :
    (traceOf (traceUpTimeout t s) t).job = none ∧ traceState (traceUpTimeout t s) t = traceState s t ∧
      ∃ k, jobOf (traceUpTimeout t s) h = some k ∧ k.state = 2 ∧ k.final = 0x61 := by
  obtain ⟨hstate, hjobs⟩ := lockFailed_frame t s
  have hjob : jobOf (lockFailed t s) h = some j := by rw [jobOf, hjobs]; exact hj
  rw [traceUpTimeout_eq hx]
  generalize lockFailed t s = a at hstate hjob
  refine ⟨congrArg TraceSt.job (traceOf_setTrace ..), ?_, _, jobOf_endJob hjob hs .., rfl, rfl⟩
  rw [traceState, fld_traceSet, fld_congr (endJob_links h 2 0x61 _ 0 a).2, ← traceState, hstate]

theorem elasticSlip_shows {t : Nat} {inRegion : Bool} {s : State} (hup : traceUp s t = true) (hk : fld s Fld.TRACE_CFG_KIND t = 1) :
    fld (elasticSlip t inRegion s) Fld.TRACE_FLAGS_SLIP t = 1 ∧ fld (elasticSlip t inRegion s) Fld.LINK_GSTATUS_SLIP_STICKY = 1 ∧
      (traceOf (elasticSlip t inRegion s) t).slip = (inRegion || (traceOf s t).slip) := by
  obtain ⟨a, ha, hslip, hsticky, htrace⟩ : ∃ a, elasticSlip t inRegion s = (if inRegion then setTrace t { traceOf a t with slip := true } a else a) ∧
      fld a Fld.TRACE_FLAGS_SLIP t = 1 ∧ fld a Fld.LINK_GSTATUS_SLIP_STICKY = 1 ∧ traceOf a t = traceOf s t := by
    refine ⟨setBit Fld.TRACE_FLAGS_SLIP t (setBit Fld.LINK_GSTATUS_SLIP_STICKY 0 (countFld Fld.TRACE_REGION_ERR_SLIPS t s)), ?_, ?_, ?_, ?_⟩
    · exact if_neg (not_or.mpr ⟨not_not_intro hup, not_not_intro hk⟩)
    · exact fld_setBit (by decide) (by decide) ..
    · rw [setBit_eq, fld_setFld_under (by decide), fld_setBit (by decide) (by decide)]
    · rw [setBit_eq, traceOf_setFld, setBit_eq, traceOf_setFld, countFld_eq, traceOf_setFld]
  rw [ha]
  cases inRegion with
  | true =>
    refine ⟨hslip, hsticky, ?_⟩
    rw [if_pos rfl, traceOf_setTrace, Bool.true_or]
  | false => exact ⟨hslip, hsticky, by rw [if_neg Bool.false_ne_true, htrace, Bool.false_or]⟩

theorem laneIndex_ne {m l : Fin 64} (h : m ≠ l) : m.val ≠ l.val := fun he => h (Fin.ext he)

/-- Settles O44, by what a failure shows (`failed_of`) and a lemma for each of the other events of a trace. -/
theorem traceStates : Obligations.TraceStates := by
  intro t s x
  have ht := t.isLt
  have hfail : ∀ {cause : Nat}, cause < 256 → Failed t.val cause s (traceFail t.val cause 1 s) := fun hc => failed_of ht hc rfl rfl rfl rfl rfl
  refine ⟨fun cause hst h1 h10 => ⟨_, rfl, ?_⟩, fun hst => ⟨_, rfl, ?_⟩, fun hst => ?_, fun l now hlock hm => ?_,
    fun l m now hlock hm htr hup hx hen hok hml hmem hml' hmx => ⟨_, rfl, laneLoss l.val now s, rfl, ?_⟩, fun l inv k hm => ⟨_, rfl, ?_⟩,
    fun l now hm htr hen hx hlock hup => ⟨_, rfl, ?_⟩, fun c now hc hup hnew hk hmask => ⟨fun hmic => ?_, fun hmic => ⟨_, rfl, ?_⟩⟩,
    fun m now idx hst hpend hm hne hall => ⟨fun hsync => ⟨_, rfl, ?_⟩, fun hsync => ⟨_, rfl, ?_⟩⟩, fun m now idx hup hm hmiss hno => ⟨_, rfl, ?_⟩,
    fun c skew hc hup => ⟨_, rfl, ?_⟩, fun c skew hc hst hw => ⟨_, rfl, ?_⟩,
    fun c skew hc hst hw hk hlane hmark hrate hkind hskew hready hmap hwant => ⟨_, rfl, ?_⟩, fun h j hx hj hs => ⟨_, rfl, traceUpTimeout_shows hx hj hs⟩,
    fun inRegion hup hk => ⟨_, rfl, elasticSlip_shows hup hk⟩⟩
  · rw [traceReinit, if_neg (by omega)]
    exact hfail (by omega)
  · rw [if_pos hst]
    exact hfail (by decide)
  · exact congrArg Host.Outcome.next (if_neg hst)
  · exact congrArg (fun a => Host.Outcome.next (selectRef a)) (laneLoss_noTrace hlock hm)
  · have hl80 : l.val < 80 := by omega
    rw [laneLoss_restripes hl80 hlock hm htr hup hx hen hok (laneIndex_ne hml) hmem hml' hmx]
    obtain ⟨hlocked, hexcluded, ⟨hstate, hasked⟩, hevent⟩ := (lost_shows hl80 t.val s).restriped hl80 ht now
    refine ⟨hlocked, hexcluded, hstate, ?_, hasked⟩
    rw [hevent, Nat.mod_eq_of_lt (by omega), Nat.mod_eq_of_lt (by omega)]
  · have hl80 : l.val < 80 := by omega
    obtain ⟨hlocked, hinv, hcomma⟩ := laneLock_shows hl80 inv k.val hm
    exact ⟨hlocked, hinv, hcomma, fun hone htr hst => laneLock_comma hl80 ht inv k.val hone htr hst⟩
  · rw [laneReturn_asks hm htr hen hx hlock hup]
    obtain ⟨hstate, k, hk, hpend, _⟩ := asked_requestRestripe t.val (maskOf (mapLane (traceOf s t.val) t.val l.val :: bitList 8 (goodMask s t.val))) now s
    exact ⟨hstate, k, hk, hpend⟩
  · refine congrArg Host.Outcome.next ?_
    rw [restripeRx_eq hc hup hnew hk hmask, if_neg (not_not_intro hmic)]
  · rw [restripeRx_eq hc hup hnew hk hmask, if_pos (ne_true_of_eq_false hmic)]
    exact hfail (by decide)
  · obtain ⟨hstate, hmarker, hsynced, _⟩ := markerAudited_shows t.val (m + 1) s
    rw [markerRx_good (by omega) hpend hm hne hall, markerUp, if_neg (fun h => by have h2 := h.2; rw [show (traceOf s t.val).synced = 0 from hsync] at h2; omega)]
    exact ⟨_, rfl, hstate.trans hst, hmarker, hsynced.trans (congrArg (· + 1) hsync)⟩
  · obtain ⟨hstate, hmarker, _, _⟩ := markerAudited_shows t.val (m + 1) s
    obtain ⟨a, ha, hup, hmarker', hjob⟩ := markerUp_up (x := traceOf s t.val) (hstate.trans hst) (Nat.le_of_eq (congrArg (· + 1) hsync).symm)
    rw [markerRx_good (by omega) hpend hm hne hall, ha]
    exact ⟨a, rfl, hup, hmarker'.trans hmarker, hjob⟩
  · obtain ⟨hlock, hevt, hframe, hmem, htrace⟩ := markerBad_frame ht (m + 1) (markerLanes s t.val idx) s
    rw [markerRx_missed hup hm hmiss hno]
    exact failed_of ht (by decide) hlock hevt hframe hmem (congrArg TraceSt.epoch htrace)
  · rw [trainRx_up hc hup]
    exact hfail (by decide)
  · rw [trainRx_width hc hst hw]
    obtain ⟨hlast, hpeer, hstate, hready, hchecked⟩ := trainHold_shows t.val (setFld Fld.TRACE_PEER_PEER t.val (rd c 3 3 % 2 ^ 18) s)
    refine ⟨hlast, ?_, ?_, hready, hchecked⟩
    · rw [hpeer, fld_setFld_mod Fld.TRACE_PEER_PEER (by decide) (by decide)]
      exact Nat.mod_mod ..
    · rw [hstate, traceState, fld_setFld_rows (by decide)]
      exact hst
  · have hlanes : traceLanes (setFld Fld.TRACE_PEER_PEER t.val (rd c 3 3 % 2 ^ 18) s) t.val = [t.val] := by
      rw [traceLanes_congr (fld_setFld_rows (by decide) ..), traceLanes, hw]
      rfl
    rw [trainRx_herd hc hst (hlane.trans hw.symm) hrate hkind hk hwant, hk, trainTaken_one hlanes hmark hskew hready hmap]
    exact trained_shows c (traceOf s t.val) _

end Sys2Proof.Machine

/-!
# Packets and regions of a trace
-/

namespace Sys2Proof.Machine

/-! ### What queues and counts of credits leave of a trace -/

/-- The record of a trace without its credits and the packets that wait. -/
def linkCore (x : TraceSt) : TraceSt := { x with vcs := [], queue := [] }

theorem linkCore_setVc (vc : Nat) (c : VcCounts) (x : TraceSt) : linkCore (setVc vc c x) = linkCore x := (rfl)

theorem linkCore_setTrace {t : Nat} {x : TraceSt} {s : State} (h : linkCore x = linkCore (traceOf s t)) (u : Nat) :
    linkCore (traceOf (setTrace t x s) u) = linkCore (traceOf s u) := by
  by_cases hu : u = t
  · subst hu
    rw [traceOf_setTrace, h]
  · rw [traceOf_setTrace_ne s t u x hu]

theorem linkCore_linkPut (t : Nat) (p : LinkPkt) (s : State) (u : Nat) : linkCore (traceOf (linkPut t p s) u) = linkCore (traceOf s u) :=
  linkCore_setTrace (by rfl) u

theorem linkCore_freeCredits (t e vc c : Nat) (s : State) (u : Nat) : linkCore (traceOf (freeCredits t e vc c s) u) = linkCore (traceOf s u) := by
  unfold freeCredits
  dsimp only
  split
  · rfl
  · exact linkCore_setTrace (linkCore_setVc ..) u

theorem linkCore_auditFail (t vc : Nat) (s : State) (u : Nat) : linkCore (traceOf (auditFail t vc s) u) = linkCore (traceOf s u) := by
  rw [auditFail, traceOf_raise, setBit_eq, traceOf_setFld, setBit_eq, traceOf_setFld]
  exact linkCore_setTrace (linkCore_setVc ..) u

theorem linkCore_ackAudit (t : Nat) (c : List Byte) (s : State) (u : Nat) : linkCore (traceOf (ackAudit t c s) u) = linkCore (traceOf s u) := by
  refine forEach_keeps (fun s => linkCore (traceOf s u)) _ _ (fun vc s => ?_) s
  split
  · rfl
  · exact linkCore_auditFail t vc s u

theorem linkCore_ptpSend (d port : Nat) (m : List Byte) (s : State) (u : Nat) : linkCore (traceOf (ptpSend d port m s) u) = linkCore (traceOf s u) := by
  unfold ptpSend
  split
  · exact linkCore_linkPut ..
  · rfl

theorem linkCore_timeAcked (t : Nat) (p : LinkPkt) (time : Nat) (s : State) (u : Nat) :
    linkCore (traceOf (timeAcked t p time s) u) = linkCore (traceOf s u) := by
  unfold timeAcked ptpFollow
  dsimp only
  split
  · split
    · exact linkCore_ptpSend ..
    · split
      · exact linkCore_ptpSend ..
      · rfl
  · rfl

/-! ### ACK, NAK, CREDIT and timers (R339–R341) -/

theorem linkCore_ackTake (n : Nat) (x : TraceSt) : linkCore (ackTake n x) = linkCore { x with unacked := x.unacked.drop n } :=
  forEach_inv (P := fun y : TraceSt => linkCore y = linkCore { x with unacked := x.unacked.drop n }) (fun _ _ h => (linkCore_setVc ..).trans h) rfl

/-- Acknowledging packets leaves the rest in the replay buffer. -/
theorem ackDone_unacked (t n : Nat) (c : List Byte) (s : State) :
    (traceOf (ackAudit t c (ackDone t n s)) t).unacked = (traceOf s t).unacked.drop n := by
  have hcore : linkCore (traceOf (ackAudit t c (ackDone t n s)) t) = linkCore { traceOf s t with unacked := (traceOf s t).unacked.drop n } := by
    rw [linkCore_ackAudit, ackDone]
    refine (forEach_keeps (fun s => linkCore (traceOf s t)) _ _ (fun (p : SentPkt) s => linkCore_timeAcked t p.pkt p.at_ s t) _).trans ?_
    rw [traceOf_setTrace, linkCore_ackTake]
  have h := congrArg TraceSt.unacked hcore
  exact h

theorem ackRx_some {t n : Nat} {c : List Byte} {s : State} (hup : traceUp s t = true) (hc : lcpIs 1 c = true)
    (hn : ackedBy (traceOf s t) ((rd c 2 2 + 1) % 4096) = some n) : ackRx t c s = ackAudit t c (ackDone t n s) := by
  have h : ¬ (¬ traceUp s t ∨ ¬ lcpIs 1 c) := not_or.mpr ⟨not_not_intro hup, not_not_intro hc⟩
  rw [ackRx, if_neg h, hn]

theorem ackRx_none {t : Nat} {c : List Byte} {s : State} (hn : ackedBy (traceOf s t) ((rd c 2 2 + 1) % 4096) = none) : ackRx t c s = s := by
  rw [ackRx, hn]
  exact ite_self s

theorem nakRx_some {t n : Nat} {c : List Byte} {s : State} (hup : traceUp s t = true) (hc : lcpIs 2 c = true)
    (hn : ackedBy (traceOf s t) (rd c 2 2 % 4096) = some n) : nakRx t c s = startReplay t (ackAudit t c (ackDone t n s)) := by
  have h : ¬ (¬ traceUp s t ∨ ¬ lcpIs 2 c) := not_or.mpr ⟨not_not_intro hup, not_not_intro hc⟩
  rw [nakRx, if_neg h, hn]

/-- The packets of a replay buffer, all due. -/
def replayAll (l : List SentPkt) : List SentPkt := l.map (fun q => { q with due := true })

/-- A replay that is neither the fifth nor too late makes every packet of the buffer due. -/
theorem startReplay_eq {t : Nat} {s : State} (h : ∀ p ∈ (traceOf s t).unacked.head?, p.replays < 4 ∧ p.waited < 20000) :
    startReplay t s = if (traceOf s t).unacked = [] then s else setTrace t { traceOf s t with unacked := replayAll (traceOf s t).unacked } s := by
  unfold startReplay
  dsimp only
  split
  next he => rw [if_pos he]
  next p rest he =>
    obtain ⟨hr, hw⟩ := h p (by rw [he]; rfl)
    rw [if_neg (by omega), if_neg (by rw [he]; exact List.cons_ne_nil _ _), replayAll, he]

theorem startReplay_unacked {t : Nat} {s : State} (h : ∀ p ∈ (traceOf s t).unacked.head?, p.replays < 4 ∧ p.waited < 20000) :
    (traceOf (startReplay t s) t).unacked = replayAll (traceOf s t).unacked := by
  rw [startReplay_eq h]
  split
  next he => rw [he]; rfl
  next => rw [traceOf_setTrace]

/-- One step of CREDIT: the limit of a channel moves up by what its ALLOC is ahead. -/
def limitTo (c : List Byte) (vc : Nat) (x : TraceSt) : TraceSt :=
  let v := vcOf x vc
  let d := (rd c (4 + 2 * vc) 2 + 65536 - v.limit % 65536) % 65536
  if d < 32768 then setVc vc { v with limit := v.limit + d } x else x

theorem limitTo_self (c : List Byte) (vc : Nat) (x : TraceSt) : vcOf (limitTo c vc x) vc = { vcOf x vc with
    limit := (vcOf x vc).limit + if (rd c (4 + 2 * vc) 2 + 65536 - (vcOf x vc).limit % 65536) % 65536 < 32768 then
      (rd c (4 + 2 * vc) 2 + 65536 - (vcOf x vc).limit % 65536) % 65536 else 0 } := by
  unfold limitTo
  dsimp only
  split
  · exact vcOf_setVc ..
  · rw [Nat.add_zero]

theorem limitTo_other (c : List Byte) {vc k : Nat} (h : k ≠ vc) (x : TraceSt) : vcOf (limitTo c vc x) k = vcOf x k := by
  unfold limitTo
  dsimp only
  split
  · exact vcOf_setVc_ne h ..
  · rfl

theorem creditRx_eq {t : Nat} {c : List Byte} {s : State} (hup : traceUp s t = true) (hc : lcpIs 3 c = true) :
    creditRx t c s = setTrace t (forEach (List.range 4) (limitTo c) (traceOf s t)) s :=
  if_neg (not_or.mpr ⟨not_not_intro hup, not_not_intro hc⟩)

theorem creditRx_limits {t : Nat} {c : List Byte} {s : State} (hup : traceUp s t = true) (hc : lcpIs 3 c = true) {vc : Nat} (h : vc < 4) :
    vcOf (traceOf (creditRx t c s) t) vc = vcOf (limitTo c vc (traceOf s t)) vc := by
  have hrange : List.range 4 = [0, 1, 2, 3] := rfl
  rw [creditRx_eq hup hc, traceOf_setTrace, hrange, forEach, List.foldl_cons, List.foldl_cons, List.foldl_cons, List.foldl_cons, List.foldl_nil]
  obtain rfl | rfl | rfl | rfl : vc = 0 ∨ vc = 1 ∨ vc = 2 ∨ vc = 3 := by omega
  all_goals simp only [limitTo_self, limitTo_other c (show 0 ≠ 1 by decide), limitTo_other c (show 0 ≠ 2 by decide), limitTo_other c (show 0 ≠ 3 by decide),
    limitTo_other c (show 1 ≠ 0 by decide), limitTo_other c (show 1 ≠ 2 by decide), limitTo_other c (show 1 ≠ 3 by decide),
    limitTo_other c (show 2 ≠ 0 by decide), limitTo_other c (show 2 ≠ 1 by decide), limitTo_other c (show 2 ≠ 3 by decide),
    limitTo_other c (show 3 ≠ 0 by decide), limitTo_other c (show 3 ≠ 1 by decide), limitTo_other c (show 3 ≠ 2 by decide)]

/-- The replay timer before the replay: the oldest packet's wait is counted once it has been replayed. -/
theorem replayTimer_eq {t now : Nat} {p : SentPkt} {rest : List SentPkt} {s : State} (hup : traceUp s t = true) (hf : frozen (traceOf s t) now = false)
    (hu : (traceOf s t).unacked = p :: rest) : replayTimer t now s =
      startReplay t (setTrace t { traceOf s t with unacked := (if 0 < p.replays then { p with waited := p.waited + 5000 } else p) :: rest } s) := by
  have h : ¬ (¬ traceUp s t = true ∨ frozen (traceOf s t) now = true) := not_or.mpr ⟨not_not_intro hup, ne_true_of_eq_false hf⟩
  rw [replayTimer, if_neg h, hu]

theorem replayTimer_first {t now : Nat} {p : SentPkt} {rest : List SentPkt} {s : State} (hup : traceUp s t = true) (hf : frozen (traceOf s t) now = false)
    (hu : (traceOf s t).unacked = p :: rest) (hr : p.replays = 0) (hw : p.waited < 20000) :
    replayTimer t now s = setTrace t { traceOf s t with unacked := replayAll (traceOf s t).unacked } (setTrace t (traceOf s t) s) := by
  have hsame : ({ traceOf s t with unacked := (if 0 < p.replays then { p with waited := p.waited + 5000 } else p) :: rest } : TraceSt) = traceOf s t := by
    rw [if_neg (by omega), ← hu]
  rw [replayTimer_eq hup hf hu, hsame, startReplay_eq, traceOf_setTrace, if_neg (by rw [hu]; exact List.cons_ne_nil _ _)]
  intro q hq
  rw [traceOf_setTrace, hu] at hq
  cases hq
  omega

theorem replayTimer_fifth {t now : Nat} {p : SentPkt} {rest : List SentPkt} {s : State} (hup : traceUp s t = true) (hf : frozen (traceOf s t) now = false)
    (hu : (traceOf s t).unacked = p :: rest) (hr : 4 ≤ p.replays) : replayTimer t now s =
      traceFail t 5 1 (setTrace t { traceOf s t with unacked := { p with waited := p.waited + 5000 } :: rest } s) := by
  rw [replayTimer_eq hup hf hu, if_pos (by omega), startReplay, traceOf_setTrace]
  exact if_pos (.inl hr)

theorem mem_lcpDue (t : Nat) (l : LcpDue) (s : State) : l ∈ (traceOf (lcpDue t l s) t).lcps := by
  unfold lcpDue
  dsimp only
  split
  next h => exact List.contains_iff_mem.mp h
  next => rw [traceOf_setTrace]; exact List.mem_append_right _ (List.mem_singleton.mpr rfl)

/-- An LCP made due leaves the rest of the trace's record. -/
theorem lcpDue_frame (t : Nat) (l : LcpDue) (s : State) : ∃ lcps, traceOf (lcpDue t l s) t = { traceOf s t with lcps := lcps } := by
  unfold lcpDue
  dsimp only
  split
  next => exact ⟨(traceOf s t).lcps, rfl⟩
  next => exact ⟨_, traceOf_setTrace ..⟩

theorem ackTimer_shows {t : Nat} {s : State} (hup : traceUp s t = true) (ha : (traceOf s t).accepts ≠ 0) :
    .ack ∈ (traceOf (ackTimer t s) t).lcps ∧ (traceOf (ackTimer t s) t).accepts = 0 := by
  have h : ackTimer t s = lcpDue t .ack (setTrace t { traceOf s t with accepts := 0 } s) := if_neg (not_or.mpr ⟨not_not_intro hup, ha⟩)
  rw [h]
  obtain ⟨lcps, hl⟩ := lcpDue_frame t .ack (setTrace t { traceOf s t with accepts := 0 } s)
  exact ⟨mem_lcpDue .., by rw [hl, traceOf_setTrace]⟩

/-! ### Data packets received (R340, R342, R355) -/

/-- A byte of a packet's payload: that of the packet, where the payload reaches it. -/
theorem rd_payload (b : List Byte) (n : Nat) : rd ((b.drop 16).take n) 1 1 = if 2 ≤ n then rd b 17 1 else 0 := by
  have hdrop : (((b.drop 16).take n).drop 1).take 1 = (b.drop 17).take (min 1 (n - 1)) := by
    rw [List.drop_take, List.drop_drop, List.take_take]
  rw [rd, hdrop]
  split
  next h => rw [Nat.min_eq_left (by omega)]; rfl
  next h =>
    rw [show min 1 (n - 1) = 0 by omega, List.take_zero]
    rfl

/-- The record of a trace that has taken a packet of `c` credits on a channel. -/
def received (vc c : Nat) (x : TraceSt) : TraceSt :=
  { setVc vc { vcOf x vc with accepted := (vcOf x vc).accepted + c, held := (vcOf x vc).held + c } x with
    rxSeq := (x.rxSeq + 1) % 4096, nakSent := false, accepts := if decide (8 ≤ x.accepts + 1) then 0 else x.accepts + 1 }

/-- The trace with a packet taken; at the eighth an ACK is due. -/
def packetReceived (t vc c : Nat) (s : State) : State :=
  if decide (8 ≤ (traceOf s t).accepts + 1) then lcpDue t .ack (setTrace t (received vc c (traceOf s t)) s)
  else setTrace t (received vc c (traceOf s t)) s

theorem packetReceived_trace (t vc c : Nat) (s : State) :
    ∃ lcps, traceOf (packetReceived t vc c s) t = { received vc c (traceOf s t) with lcps := lcps } := by
  unfold packetReceived
  split
  · obtain ⟨lcps, h⟩ := lcpDue_frame t .ack (setTrace t (received vc c (traceOf s t)) s)
    exact ⟨lcps, by rw [h, traceOf_setTrace]⟩
  · exact ⟨(traceOf s t).lcps, traceOf_setTrace ..⟩

theorem lcpDue_state (t : Nat) (l : LcpDue) (s : State) : (lcpDue t l s).rxq = s.rxq ∧ (lcpDue t l s).regs = s.regs := by
  unfold lcpDue
  dsimp only
  split
  · exact ⟨rfl, rfl⟩
  · exact ⟨rfl, rfl⟩

theorem packetReceived_state (t vc c : Nat) (s : State) : (packetReceived t vc c s).rxq = s.rxq ∧ (packetReceived t vc c s).regs = s.regs := by
  unfold packetReceived
  split
  · exact lcpDue_state ..
  · exact ⟨rfl, rfl⟩

/-- A data packet as a link packet. -/
def pktOf (b : List Byte) : LinkPkt := ⟨rd b 0 1 % 4, rd b 4 4 % 2 ^ 18, rd b 8 4 % 2 ^ 18, (b.drop 16).take (rd b 12 2), none⟩

theorem dataRx_next {t now : Nat} {b : List Byte} {s : State} (hup : traceUp s t = true) (hok : dataOk b = true) (hseq : rd b 2 2 % 4096 = (traceOf s t).rxSeq) :
    dataRx t b false now s = routePacket t now (pktOf b) (packetReceived t (rd b 0 1 % 4) (creditsOf (rd b 12 2)) s) := by
  have hok' : ¬ (¬ false = true ∧ ¬ dataOk b = true) := fun h => h.2 hok
  have hd : ((traceOf s t).rxSeq + 4096 - rd b 2 2 % 4096) % 4096 = 0 := by omega
  refine (if_neg (not_not_intro hup)).trans ((if_neg hok').trans ((if_neg ?_).trans ((if_neg ?_).trans (if_neg Bool.false_ne_true))))
  · rw [hd]; omega
  · exact not_not_intro hd

/-- A packet of virtual channel 0 for this endpoint that is no reply waits for admission. -/
theorem routePacket_command {t now : Nat} {p : LinkPkt} {s : State} (hvc : p.vc = 0) (hdst : p.dst = ownEndpoint s) (hreq : testBit (rd p.payload 1 1) 0 = false) :
    routePacket t now p s = { s with rxq := s.rxq ++ [⟨.trace p.src, ⟨t, none, (traceOf s t).epoch⟩, p.payload⟩] } :=
  (if_pos (.inr hdst)).trans ((if_pos hvc).trans (if_neg (by rw [hreq]; exact Bool.false_ne_true)))

theorem dataRx_command {t now : Nat} {b : List Byte} {s : State} (hup : traceUp s t = true) (hok : dataOk b = true) (hseq : rd b 2 2 % 4096 = (traceOf s t).rxSeq)
    (hvc : rd b 0 1 % 4 = 0) (hdst : rd b 4 4 % 2 ^ 18 = ownEndpoint s) (hreq : testBit (rd b 17 1) 0 = false) :
    let y := dataRx t b false now s
    (traceOf y t).rxSeq = ((traceOf s t).rxSeq + 1) % 4096 ∧ (traceOf y t).nakSent = false ∧
      (vcOf (traceOf y t) 0).accepted = (vcOf (traceOf s t) 0).accepted + creditsOf (rd b 12 2) ∧
      y.rxq = s.rxq ++ [⟨.trace (rd b 8 4 % 2 ^ 18), ⟨t, none, (traceOf s t).epoch⟩, (b.drop 16).take (rd b 12 2)⟩] := by
  have hreq' : testBit (rd (pktOf b).payload 1 1) 0 = false := by
    rw [pktOf, rd_payload]
    split
    · exact hreq
    · rfl
  obtain ⟨hrxq, hregs⟩ := packetReceived_state t (rd b 0 1 % 4) (creditsOf (rd b 12 2)) s
  obtain ⟨lcps, htrace⟩ := packetReceived_trace t (rd b 0 1 % 4) (creditsOf (rd b 12 2)) s
  have hown : (pktOf b).dst = ownEndpoint (packetReceived t (rd b 0 1 % 4) (creditsOf (rd b 12 2)) s) := by
    rw [ownEndpoint, fld_congr hregs]
    exact hdst
  rw [dataRx_next hup hok hseq, routePacket_command hvc hown hreq']
  generalize packetReceived t (rd b 0 1 % 4) (creditsOf (rd b 12 2)) s = a at hrxq htrace
  rw [hvc] at htrace
  intro y
  have hy : traceOf y t = traceOf a t := rfl
  rw [hy, htrace]
  refine ⟨rfl, rfl, ?_, ?_⟩
  · exact congrArg VcCounts.accepted (vcOf_setVc 0 _ (traceOf s t))
  · have hepoch : (traceOf a t).epoch = (traceOf s t).epoch := by rw [htrace]; rfl
    rw [← hepoch, ← hrxq]
    rfl

/-- A packet that fails its check asks for a NAK, once. -/
theorem dataRx_bad {t now : Nat} {b : List Byte} {s : State} (hup : traceUp s t = true) (hbad : dataOk b = false) (hn : (traceOf s t).nakSent = false) :
    dataRx t b false now s = countFld Fld.TRACE_RETRY_NAKS t (lcpDue t .nak (setTrace t { traceOf s t with nakSent := true } s)) :=
  (if_neg (not_not_intro hup)).trans ((if_pos ⟨Bool.false_ne_true, ne_true_of_eq_false hbad⟩).trans (if_neg (ne_true_of_eq_false hn)))

theorem nakAsked_shows (t : Nat) (s : State) : let y := countFld Fld.TRACE_RETRY_NAKS t (lcpDue t .nak (setTrace t { traceOf s t with nakSent := true } s))
    (traceOf y t).nakSent = true ∧ .nak ∈ (traceOf y t).lcps ∧ (traceOf y t).rxSeq = (traceOf s t).rxSeq ∧ y.rxq = s.rxq := by
  dsimp only
  rw [countFld_eq, traceOf_setFld, setFld_rxq, (lcpDue_state ..).1]
  obtain ⟨lcps, h⟩ := lcpDue_frame t .nak (setTrace t { traceOf s t with nakSent := true } s)
  have hlcp := mem_lcpDue t .nak (setTrace t { traceOf s t with nakSent := true } s)
  rw [traceOf_setTrace] at h
  exact ⟨by rw [h], hlcp, by rw [h], rfl⟩

/-! ### Sending (R338–R342) -/

theorem dropUnroutable_empty {s : State} (h : s.txq = []) : dropUnroutable s = s := by
  unfold dropUnroutable
  dsimp only
  rw [h, List.filter_nil, List.filter_nil]
  cases s
  cases h
  rfl

theorem packetTx_lcp {t now : Nat} {l : LcpDue} {rest : List LcpDue} {poison : Bool} {s : State} (h : s.txq = []) (hst : 3 ≤ traceState s t)
    (hl : (traceOf s t).lcps = l :: rest) :
    packetTx t poison now s = sendOut (.lcp t (lcpSeal (lcpBody (traceOf s t) l))) (setTrace t { traceOf s t with lcps := rest } s) := by
  rw [packetTx, dropUnroutable_empty h, if_neg (by omega), if_neg (by omega), hl]

theorem packetTx_new {t now : Nat} {p : LinkPkt} {poison : Bool} {s : State} (h : s.txq = []) (hup : traceUp s t = true) (hl : (traceOf s t).lcps = [])
    (hu : ∀ q ∈ (traceOf s t).unacked, q.due = false) (hn : nextNew s t = some (p, none)) : packetTx t poison now s = sendNew t p none poison now s := by
  have hst : 4 ≤ traceState s t := of_decide_eq_true hup
  have hdue : (traceOf s t).unacked.find? (fun p => p.due) = none := List.find?_eq_none.mpr fun q hq => by rw [hu q hq]; exact Bool.false_ne_true
  rw [packetTx, dropUnroutable_empty h, if_neg (by omega), if_neg (by omega), hl]
  dsimp only
  rw [if_neg (by omega), hdue, hn]

/-- The record of a trace that has sent a new packet from its queue. -/
def sentNew (p : LinkPkt) (poison : Bool) (now : Nat) (x : TraceSt) : TraceSt :=
  { setVc p.vc { vcOf x p.vc with used := (vcOf x p.vc).used + creditsOf p.payload.length } { x with queue := x.queue.erase p } with
    txSeq := (x.txSeq + 1) % 4096, unacked := x.unacked ++ [⟨x.txSeq, p, poison, false, 0, 0, now⟩] }

theorem timeOut_other {p : LinkPkt} (h : p.vc ≠ 2) (t now : Nat) (s : State) : timeOut t p now s = s := if_neg fun h' => h h'.1

/-- A packet of the trace's own queue that carries no time goes out with its number, its credits and its place in the replay buffer. -/
theorem sendNew_queued {t now : Nat} {p : LinkPkt} {poison : Bool} {s : State} (hvc : p.vc ≠ 2) (ho : p.origin = none) :
    (sendNew t p none poison now s).sent = .data t poison (dataBytes p (traceOf s t).txSeq) :: s.sent ∧
      traceOf (sendNew t p none poison now s) t = sentNew p poison now (traceOf s t) := by
  unfold sendNew
  dsimp only
  rw [ho, timeOut_other hvc]
  have htrace : ∀ x, traceOf (sendOut x (setTrace t (sentNew p poison now (traceOf s t)) (setTrace t { traceOf s t with queue := (traceOf s t).queue.erase p } s))) t =
      sentNew p poison now (traceOf s t) := fun x => traceOf_setTrace ..
  simp only [traceOf_setTrace]
  exact ⟨rfl, htrace _⟩

theorem sentNew_shows (p : LinkPkt) (poison : Bool) (now : Nat) (x : TraceSt) : (sentNew p poison now x).txSeq = (x.txSeq + 1) % 4096 ∧
    (sentNew p poison now x).unacked = x.unacked ++ [⟨x.txSeq, p, poison, false, 0, 0, now⟩] ∧ (sentNew p poison now x).queue = x.queue.erase p ∧
    (vcOf (sentNew p poison now x) p.vc).used = (vcOf x p.vc).used + creditsOf p.payload.length :=
  ⟨rfl, rfl, rfl, congrArg VcCounts.used (vcOf_setVc p.vc _ { x with queue := x.queue.erase p })⟩

/-- Nothing of a mirror's copy is fed on any other trace. -/
theorem noFeed {t now : Nat} {s : State} (h : mirrorTrace s ≠ some t ∨ s.pair.copy = none) :
    (if mirrorTrace s = some t ∧ traceUp s t then copyFeed t now s else s) = s := by
  split
  next hm =>
    rw [copyFeed, h.resolve_left (not_not_intro hm.1)]
  next => rfl

/-! ### Regions sent (R332, R334) -/

/-- The sample of a TX entry as it stands. -/
def sampleShown (s : State) (e : Nat) : S48 := (outOf s (0x1000 + fld s Fld.TX_SLOT_QCH e)).present

theorem sectionSamples_herd {t b : Nat} {s : State} (hk : fld s Fld.TRACE_CFG_KIND t = 1) (es : List Nat) :
    sectionSamples t b es s = (s, es.map (sampleShown s)) := by
  have hslot : ∀ e, slotSample t e b s = (s, sampleShown s e) := fun e => if_pos hk
  induction es with
  | nil => rfl
  | cons e es ih => rw [sectionSamples, hslot, ih, List.map_cons]

theorem regionTx_herd {t : Nat} {s : State} (hup : traceUp s t = true) (hs : sendsRegion s t = true) (hx : (traceOf s t).txFrame ≠ some s.frame)
    (hf : 2 ≤ s.frame) (hm : mirrorTrace s ≠ some t) (hk : fld s Fld.TRACE_CFG_KIND t = 1) (hn : txEntries s t false ≠ []) (hd : txEntries s t true = []) :
    regionTx t s = sendOut (.region t (sectionSeal ((txEntries s t false).flatMap (fun e => sampleBytes (fld s Fld.TRACE_CFG_SFMT t) (sampleShown s e)))) [])
      (setTrace t { traceOf s t with txFrame := some s.frame } s) := by
  have hlag : traceLag s t = 2 := if_pos hk
  have hgo : ¬ (¬ traceUp s t = true ∨ ¬ sendsRegion s t = true ∨ (traceOf s t).txFrame = some s.frame ∨ s.frame < traceLag s t) := by
    rw [hlag]
    rintro (h | h | h | h)
    · exact h hup
    · exact h hs
    · exact hx h
    · exact Nat.not_lt.mpr hf h
  rw [regionTx]
  refine (if_neg hgo).trans ((if_neg hm).trans ?_)
  have hk' : fld (setTrace t { traceOf s t with txFrame := some s.frame } s) Fld.TRACE_CFG_KIND t = 1 := hk
  obtain ⟨a, ha, hn', hd', hsfmt, hshown⟩ : ∃ a, a = setTrace t { traceOf s t with txFrame := some s.frame } s ∧ txEntries a t false = txEntries s t false ∧
      txEntries a t true = txEntries s t true ∧ fld a Fld.TRACE_CFG_SFMT t = fld s Fld.TRACE_CFG_SFMT t ∧ sampleShown a = sampleShown s :=
    ⟨_, rfl, rfl, rfl, rfl, rfl⟩
  rw [← ha] at hk' ⊢
  rw [hn', hd', hsfmt, hd, sectionSamples_herd hk', hshown]
  have hne : ¬ (((txEntries s t false).map (sampleShown s)).isEmpty = true ∧ ([] : List S48).isEmpty = true) := fun h =>
    hn (List.map_eq_nil_iff.mp (List.isEmpty_iff.mp h.1))
  refine (if_neg hne).trans ?_
  rw [List.flatMap_map]
  rfl

theorem regionTx_sent {t : Nat} {s : State} (hx : (traceOf s t).txFrame = some s.frame) : regionTx t s = s :=
  if_pos (.inr (.inr (.inl hx)))

/-! ### Regions received (R335) -/

/-- The state without what a write over the crossbar may change. -/
def beyondXb (s : State) : State := { beyondLanding s with evtWait := [] }

theorem beyondXb_setFld (f : RegField) (i v : Nat) (s : State) : beyondXb (setFld f i v s) = beyondXb s := (rfl)

theorem beyondXb_raise (c a b : Nat) (s : State) : beyondXb (raise c a b s) = beyondXb s := (rfl)

theorem beyondXb_xbCount (k : RespKind) (m a : Nat) (s : State) : beyondXb (xbCount k m a s) = beyondXb s := by
  unfold xbCount
  split
  · split
    · simp only [setBit_eq, countFld_eq, beyondXb_setFld, beyondXb_raise]
    · rfl
  · simp only [setBit_eq, countFld_eq, beyondXb_setFld, beyondXb_raise]
  · rfl

theorem beyondXb_xbWrite (m a : Nat) (bs : List Byte) (s : State) : beyondXb (xbWrite m a bs s) = beyondXb s := by
  have hecc : beyondXb (eccWrite a bs s) = beyondXb s := congrArg (fun s : State => { s with evtWait := [] }) (beyondLanding_eccWrite a bs s)
  unfold xbWrite targetWrite
  split
  · split
    · rfl
    · split
      · rfl
      · exact hecc
  · exact beyondXb_xbCount ..

theorem beyondXb_ringWrite (m base log2 : Nat) (packed : Bool) (n : Nat) (v : S48) (word : Nat) (s : State) :
    beyondXb (ringWrite m base log2 packed n v word s).1 = beyondXb s := by
  unfold ringWrite
  dsimp only
  generalize (if packed = true then 4 else 8) = e
  generalize (if packed = true then leBytes 4 word else leBytes 8 (wrapInt 64 v.toInt)) = bs
  split
  · exact (beyondXb_xbWrite ..).trans (beyondXb_xbWrite ..)
  · exact beyondXb_xbWrite ..

theorem ledgerAdd_links (k : Option Nat) (e d : Nat) (c : Option (Nat × Nat)) (s : State) :
    (ledgerAdd k e d c s).rxCells = s.rxCells ∧ (ledgerAdd k e d c s).traces = s.traces := by
  unfold ledgerAdd
  split
  · exact ⟨rfl, rfl⟩
  · dsimp only
    split
    · exact ⟨rfl, rfl⟩
    · split <;> exact ⟨rfl, rfl⟩

theorem noteMargin_links (f time : Nat) (s : State) : (noteMargin f time s).rxCells = s.rxCells ∧ (noteMargin f time s).traces = s.traces := by
  unfold noteMargin
  exact ⟨setFld_rxCells .., setFld_traces ..⟩

/-- Listing registers of a range is not moved by one outside it. -/
theorem filter_smapInsert {α : Type} (p : Nat × α → Bool) {k : Nat} (h : ∀ v, p (k, v) = false) (v : α) (m : SMap α) :
    (smapInsert k v m).filter p = m.filter p := by
  induction m with
  | nil => rw [smapInsert, List.filter_cons_of_neg (ne_true_of_eq_false (h v))]
  | cons x m ih =>
    obtain ⟨j, w⟩ := x
    unfold smapInsert
    split
    · rw [List.filter_cons_of_neg (ne_true_of_eq_false (h v))]
    · split
      next hkj =>
        subst hkj
        rw [List.filter_cons_of_neg (ne_true_of_eq_false (h v)), List.filter_cons_of_neg (ne_true_of_eq_false (h w))]
      next => rw [List.filter_cons, List.filter_cons, ih]

theorem filter_smapSet {α : Type} [DecidableEq α] (p : Nat × α → Bool) (d : Nat → α) {k : Nat} (h : ∀ v, p (k, v) = false) (v : α) (m : SMap α) :
    (smapSet d k v m).filter p = m.filter p := by
  unfold smapSet
  split
  · rw [smapErase, List.filter_filter]
    refine List.filter_congr fun x _ => ?_
    by_cases hx : x.1 = k
    · have : p x = false := by rw [← h x.2, ← hx]
      rw [this, Bool.false_and]
    · rw [decide_eq_true hx, Bool.and_true]
  · exact filter_smapInsert p h v m

theorem enabledRx_setFld {f : RegField} {i : Nat} (h : fieldAddr f i < 0x26000) (v : Nat) (s : State) : enabledRx (setFld f i v s) = enabledRx s := by
  unfold enabledRx setFld setRegWord
  refine congrArg (List.map _) (filter_smapSet _ _ (fun w => ?_) _ _)
  rw [decide_eq_false (by omega), Bool.false_and]

/-- A sample that passes for the one entry of its ring lands. -/
theorem rxLand_alone {e k : Nat} {v : S48} {s : State} (hm : rxMates s e = [e]) (hn : (rxCellOf s e).next ≤ k) :
    rxCellOf (rxLand e k v s) e = ⟨v, 0, k + 1, []⟩ ∧ (rxLand e k v s).traces = s.traces := by
  have hexcess : rxExcess s e = false := by
    rw [rxExcess, hm]
    simp
  have hnext : ¬ k < (rxCellOf s ([e].headD e)).next := Nat.not_lt_of_le hn
  have htraces : (rxRing e k v s).1.traces = s.traces := by
    have h := congrArg State.traces (beyondXb_ringWrite masterLink (fld s Fld.RX_SLOT_RING_BASE e) (fld s Fld.RX_SLOT_LOG2_LEN e) false k v 0 s)
    exact h
  rw [rxLand, if_neg (ne_true_of_eq_false hexcess), hm]
  dsimp only
  rw [if_neg hnext]
  refine ⟨?_, ?_⟩
  · rw [rxCellOf, (ledgerAdd_links ..).1]
    exact smapGet_set_self ..
  · rw [(ledgerAdd_links ..).2]
    exact htraces

/-- The sections of a region that can be used, landed or replaced, for compute frame `f`; `ns` and `ds` are the entries of the trace. -/
def regionLanded (t f w : Nat) (vn va vb : Option (List S48)) (ns ds : List Nat) (s : State) : State :=
  let bad := bnat (!ns.isEmpty && vn.isNone) + bnat (!ds.isEmpty && va.isNone) + bnat (!ds.isEmpty && vb.isNone)
  let s := addFld Fld.TRACE_REGION_ERR_FAILED t bad s
  let cn := sectionCause s t w
  let cd := sectionCause s t (2 * (w / 2))
  let lost := (if vn.isNone ∧ cn = causeFillerRange then (ns.filter (fun e => fbit s Fld.RX_SLOT_EN e)).length else 0) +
    (if va.isNone ∧ vb.isNone ∧ cd = causeFillerRange then (ds.filter (fun e => fbit s Fld.RX_SLOT_EN e)).length else 0)
  let s := if 0 < lost then raise 0x74 t lost s else s
  rxSection f cd ds (va.orElse (fun _ => vb)) (rxSection f cn ns vn s)

/-- The one entry of a trace, its section passed. -/
theorem regionLanded_one (t f w e : Nat) (v : S48) (s : State) : regionLanded t f w (some [v]) none none [e] [] s =
    if fbit (addFld Fld.TRACE_REGION_ERR_FAILED t 0 s) Fld.RX_SLOT_EN e then rxLand e f v (addFld Fld.TRACE_REGION_ERR_FAILED t 0 s)
    else addFld Fld.TRACE_REGION_ERR_FAILED t 0 s := by
  unfold regionLanded
  dsimp only [List.isEmpty_cons, List.isEmpty_nil, Option.isNone_some, Option.isNone_none, List.filter_nil, List.length_nil]
  simp only [Bool.false_eq_true, false_and, if_false, ite_self, Nat.add_zero, Nat.lt_irrefl, Bool.not_true, Bool.and_false, Bool.false_and, bnat]
  rfl

/-- A region that came in its turn, on a trace whose samples can be used. -/
def regionUsed (t f now : Nat) (normal copyA copyB : List Byte) (x : TraceSt) (s : State) : State :=
  let sfmt := fld s Fld.TRACE_CFG_SFMT t
  let ns := rxEntries s t false
  let ds := rxEntries s t true
  let y := regionLanded t f (laneCount x.rxSet) (sectionPass sfmt ns.length normal) (sectionPass sfmt ds.length copyA) (sectionPass sfmt ds.length copyB) ns ds s
  if fld y Fld.TRACE_CFG_KIND t = 1 then noteMargin f now y else y

theorem regionRx_eq {t k now : Nat} {normal copyA copyB : List Byte} {s : State} (hm : (traceOf s t).marker = some k)
    (hgo : ¬ (¬ traceUp s t = true ∨ (traceOf s t).rxFrame = some k ∨ k < traceLag s t)) (hmirror : mirrorTrace s ≠ some t)
    (husable : traceUnusable (setTrace t { traceOf s t with rxFrame := some k } s) t k = false) : regionRx t normal copyA copyB now s =
      regionUsed t (k - traceLag s t) now normal copyA copyB (traceOf s t) (setTrace t { traceOf s t with rxFrame := some k } s) := by
  rw [regionRx]
  generalize traceOf s t = x at hm hgo husable
  cases x
  cases hm
  exact (if_neg hgo).trans ((if_neg hmirror).trans (if_neg (ne_true_of_eq_false husable)))

theorem sectionPass_none (sfmt : Nat) (b : List Byte) : sectionPass sfmt 0 b = none := by
  unfold sectionPass
  dsimp only
  rw [if_neg]
  exact fun h => Nat.lt_irrefl 0 h.1

/-- The region of a trace with one entry lands its sample. -/
theorem regionRx_one {t k now e : Nat} {v : S48} {b : List Byte} {s : State} (ht : t < 64) (hup : traceUp s t = true) (hm : (traceOf s t).marker = some (k + 1))
    (hx : (traceOf s t).rxFrame ≠ some (k + 1)) (hmirror : mirrorTrace s ≠ some t) (hkind : fld s Fld.TRACE_CFG_KIND t = 0)
    (hstreams : (traceOf s t).streams = none) (hn : rxEntries s t false = [e]) (hd : rxEntries s t true = []) (hen : fbit s Fld.RX_SLOT_EN e = true)
    (hmates : rxMates s e = [e]) (hpass : sectionPass (fld s Fld.TRACE_CFG_SFMT t) 1 b = some [v]) (hnext : (rxCellOf s e).next ≤ k) :
    rxCellOf (regionRx t b [] [] now s) e = ⟨v, 0, k + 1, []⟩ ∧ (traceOf (regionRx t b [] [] now s) t).rxFrame = some (k + 1) := by
  have hlag : traceLag s t = 1 := if_neg (by rw [hkind]; decide)
  have hgo : ¬ (¬ traceUp s t = true ∨ (traceOf s t).rxFrame = some (k + 1) ∨ k + 1 < traceLag s t) := by
    rw [hlag]
    rintro (h | h | h)
    · exact h hup
    · exact hx h
    · exact Nat.not_lt.mpr (Nat.le_add_left ..) h
  obtain ⟨a, ha, hn', hd', hsfmt, hkind', htrace, hcells, hregs⟩ : ∃ a, a = setTrace t { traceOf s t with rxFrame := some (k + 1) } s ∧
      rxEntries a t false = rxEntries s t false ∧ rxEntries a t true = rxEntries s t true ∧ fld a Fld.TRACE_CFG_SFMT t = fld s Fld.TRACE_CFG_SFMT t ∧
      fld a Fld.TRACE_CFG_KIND t = fld s Fld.TRACE_CFG_KIND t ∧ traceOf a t = { traceOf s t with rxFrame := some (k + 1) } ∧ a.rxCells = s.rxCells ∧
      a.regs = s.regs := ⟨_, rfl, rfl, rfl, rfl, rfl, traceOf_setTrace .., rfl, rfl⟩
  have husable : traceUnusable a t (k + 1) = false := by
    have hagree : streamsAgree a t (k + 1) = true := by rw [streamsAgree, htrace, hstreams]
    rw [traceUnusable, isBridge, hkind', hkind, hagree]
    rfl
  rw [regionRx_eq hm hgo hmirror (ha ▸ husable), ← ha, hlag, regionUsed, hn', hn, hd', hd, hsfmt, List.length_singleton, List.length_nil, hpass,
    sectionPass_none, regionLanded_one]
  obtain ⟨c, hc, hen', hmates', hcells', htrace'⟩ : ∃ c, c = addFld Fld.TRACE_REGION_ERR_FAILED t 0 a ∧ fbit c Fld.RX_SLOT_EN e = fbit s Fld.RX_SLOT_EN e ∧
      rxMates c e = rxMates s e ∧ rxCellOf c e = rxCellOf s e ∧ traceOf c t = traceOf a t := by
    have hrow : fieldAddr Fld.TRACE_REGION_ERR_FAILED t < 0x26000 := Nat.lt_of_le_of_lt (fieldAddr_mono _ (Nat.le_of_lt ht)) (by decide)
    have hbelow : fieldAddr Fld.TRACE_REGION_ERR_FAILED 64 < Fld.RX_SLOT_EN.base := by decide
    have hring : ∀ j, fld (addFld Fld.TRACE_REGION_ERR_FAILED t 0 a) Fld.RX_SLOT_RING_BASE j = fld s Fld.RX_SLOT_RING_BASE j := fun j => by
      rw [addFld_eq, fld_setFld_below (Nat.le_of_lt ht) (by decide), fld_congr hregs]
    refine ⟨_, rfl, ?_, ?_, ?_, ?_⟩
    · rw [fbit, addFld_eq, fld_setFld_below (Nat.le_of_lt ht) hbelow, fld_congr hregs, fbit]
    · rw [rxMates, rxMates, addFld_eq, enabledRx_setFld hrow, ← addFld_eq, enabledRx, enabledRx, hregs]
      exact List.filter_congr fun j _ => by rw [hring, hring]
    · rw [rxCellOf, addFld_eq, setFld_rxCells, hcells, rxCellOf]
    · rw [addFld_eq, traceOf_setFld]
  rw [← hc, hen', hen, if_pos rfl]
  obtain ⟨hcell, htraces⟩ := rxLand_alone (v := v) (hmates'.trans hmates) (hcells' ▸ hnext)
  have hframe : (traceOf (rxLand e k v c) t).rxFrame = some (k + 1) := by rw [traceOf_congr htraces, htrace', htrace]
  rw [Nat.add_sub_cancel]
  split
  · obtain ⟨hcells2, htraces2⟩ := noteMargin_links k now (rxLand e k v c)
    exact ⟨by rw [rxCellOf, hcells2]; exact hcell, by rw [traceOf_congr htraces2]; exact hframe⟩
  · exact ⟨hcell, hframe⟩

/-- Settles O45, by a lemma for each kind of packet and for the regions. -/
theorem tracePackets : Obligations.TracePackets := by
  intro t s x dueAll
  have ht := t.isLt
  refine ⟨fun c n hup hc hn => ⟨_, rfl, ?_⟩, fun c hup hn => ?_, fun c n hup hc hn hp => ⟨_, rfl, ?_⟩, fun c hup hc => ⟨_, rfl, fun vc hvc => ?_⟩,
    fun now p rest hup hf hu hr hw => ?_, fun now p rest hup hf hu hr => ⟨_, rfl, ?_⟩, fun hup ha => ⟨_, rfl, ackTimer_shows hup ha⟩,
    fun b now hup hok hseq hvc hdst hreq => ⟨_, rfl, dataRx_command hup hok hseq hvc hdst hreq⟩, fun b now hup hbad hn => ⟨_, rfl, ?_⟩,
    fun now l rest poison htx hm hst hl => ?_, fun now p poison htx hm hup hl hu hn hvc ho => ⟨_, rfl, ?_⟩,
    fun hup hs hx hf hm hk hn hd => ?_, fun hx => ?_,
    fun k now e v b hup hm hx hmirror hkind hstreams hn hd he hen hmates hpass hnext => ⟨_, rfl,
      regionRx_one ht hup hm hx hmirror hkind hstreams hn hd hen hmates hpass hnext⟩⟩
  · rw [ackRx_some hup hc hn]
    exact ackDone_unacked ..
  · exact congrArg Host.Outcome.next (ackRx_none hn)
  · have hrest := ackDone_unacked t.val n c s
    rw [nakRx_some hup hc hn]
    refine (startReplay_unacked fun q hq => ?_).trans (congrArg replayAll hrest)
    rw [hrest] at hq
    exact hp q (List.mem_of_mem_drop (List.mem_of_mem_head? hq))
  · rw [creditRx_limits hup hc hvc, limitTo_self]
  · exact congrArg Host.Outcome.next (replayTimer_first hup hf hu hr hw)
  · rw [replayTimer_fifth hup hf hu hr]
    exact failed_of ht (by decide) rfl rfl rfl rfl (by rw [traceOf_setTrace])
  · rw [dataRx_bad hup hbad hn]
    exact nakAsked_shows ..
  · refine congrArg Host.Outcome.next ?_
    rw [noFeed hm, packetTx_lcp htx hst hl]
    rfl
  · rw [noFeed hm, packetTx_new htx hup hl hu hn]
    obtain ⟨hsent, htrace⟩ := sendNew_queued (t := t.val) (now := now) (poison := poison) (s := s) hvc ho
    rw [htrace]
    exact ⟨hsent, sentNew_shows ..⟩
  · exact congrArg Host.Outcome.next (regionTx_herd hup hs hx hf hm hk hn hd)
  · exact congrArg Host.Outcome.next (regionTx_sent hx)

end Sys2Proof.Machine

/-!
# Requests and registers: rules shared by the groom's statements

How a step that serves one request ends, and what a sequence of field writes leaves untouched.
-/

namespace Sys2Proof.Machine

section Serving
variable {op : Nat} {r : Req} {s t : State} {p : Rep} {k : Service} {i : Instr} {P : State → Prop} {f : State → Service}

theorem endsIn_next (h : exec i s = .next t) (ht : P t) : EndsIn i s P := ⟨t, h, ht⟩

/-- A step whose next state has another form ends there. -/
theorem endsIn_of {y : State} (hx : exec i s = .next y) (hy : y = t) (ht : P t) : EndsIn i s P := ⟨y, hx, hy ▸ ht⟩

theorem exec_of {y : State} (hx : exec i s = .next y) (hy : y = t) : exec i s = .next t := hy ▸ hx

/-- A service that ends with OK and a payload ends its step with that reply. -/
theorem exec_okRep {payload : List Byte} (hx : exec i s = .next (serve op r f s)) (h : Served op r s) (hf : f (served s) = okRep payload t) :
    exec i s = .next (answer r (ok payload) t) := hx.trans (congrArg _ (serve_ok h hf))

theorem endsIn_okRep {payload : List Byte} (hx : exec i s = .next (serve op r f s)) (h : Served op r s) (hf : f (served s) = okRep payload t) (ht : P t) :
    EndsIn i s (Replied r (ok payload) P) := ⟨_, exec_okRep hx h hf, t, rfl, ht⟩

/-- A service that ends with ACCEPTED and a job. -/
theorem exec_jobRep {n : Nat} (hx : exec i s = .next (serve op r f s)) (h : Served op r s) (hf : f (served s) = jobRep n t) :
    exec i s = .next (answer r (accepted n) t) := hx.trans (congrArg _ (serve_ok h hf))

theorem endsIn_jobRep {n : Nat} (hx : exec i s = .next (serve op r f s)) (h : Served op r s) (hf : f (served s) = jobRep n t) (ht : P t) :
    EndsIn i s (Replied r (accepted n) P) := ⟨_, exec_jobRep hx h hf, t, rfl, ht⟩

/-- A service that ends with an error leaves the state from which the request has been taken. -/
theorem exec_error (hx : exec i s = .next (serve op r f s)) (h : Served op r s) (hf : f (served s) = .error p) :
    exec i s = .next (answer r p (served s)) := hx.trans (congrArg _ (serve_error h hf))

theorem need_false {b : Bool} {x y : Nat} (h : b = false) : need b x y k = errRep x y := if_neg (ne_true_of_eq_false h)

end Serving

section Frames
variable {l : List Nat} {a s : State} {f : RegField} {i : Nat}

theorem untouched_refl (l : List Nat) (a : State) : Untouched l a a := ⟨fun _ _ => rfl, fun _ => rfl⟩

theorem Untouched.setFld (h : Untouched l a s) (hf : fieldAddr f i ∈ l) (v : Nat) : Untouched l a (setFld f i v s) :=
  ⟨fun x hx => (regWord_setFld_ne s f i v x fun e => hx (e ▸ hf)).trans (h.1 x hx), h.2⟩

theorem Untouched.countFld (h : Untouched l a s) (hf : fieldAddr f i ∈ l) : Untouched l a (countFld f i s) := by
  rw [countFld_eq]; exact h.setFld hf _

theorem untouched_of {t : State} (hr : t.regs = a.regs) (hm : t.mem = a.mem) : Untouched l a t :=
  ⟨fun x _ => by rw [regWord, regWord, hr], fun x => by rw [memByte, memByte, hm]⟩

theorem Untouched.of_eq {t : State} (h : Untouched l a s) (hr : t.regs = s.regs) (hm : t.mem = s.mem) : Untouched l a t :=
  ⟨fun x hx => by rw [← h.1 x hx, regWord, regWord, hr], fun x => by rw [← h.2 x, memByte, memByte, hm]⟩

end Frames

end Sys2Proof.Machine

/-!
# The clock system's commands
-/

namespace Sys2Proof.Machine

/-! ### Shared facts -/

/-- A field set to the same value over a list of indices shows it at each of them. -/
theorem fld_forEach_setFld {f : RegField} (hw : f.hi < 32) (hl : f.lo ≤ f.hi) (v : Nat) {l : List Nat} {i : Nat} (h : i ∈ l) (s : State) :
    fld (forEach l (fun o s => setFld f o v s) s) f i = v % 2 ^ (f.hi + 1 - f.lo) := by
  induction l generalizing s with
  | nil => cases h
  | cons o t ih =>
    rcases List.mem_cons.mp h with rfl | ht
    · refine forEach_inv (P := fun x => fld x f i = v % 2 ^ (f.hi + 1 - f.lo)) (l := t) (b := setFld f i v s) (fun o x hx => ?_) (fld_setFld_mod f hw hl i v s)
      by_cases ho : fieldAddr f i = fieldAddr f o
      · have := fld_setFld_mod f hw hl o v x
        unfold fld at this ⊢
        rw [ho]; exact this
      · exact (fld_setFld_other x f f o i v ho).trans hx
    · exact ih ht (setFld f o v s)

/-- The domains of a state; the field writes, the events and the outputs of a step leave them. -/
def clocks (s : State) : TimeDom × TimeDom := (s.domA, s.domB)

theorem domOf_congr {a b : State} (h : clocks a = clocks b) (d : Nat) : domOf a d = domOf b d := by
  obtain ⟨ha, hb⟩ := Prod.mk.inj h
  rw [domOf, domOf, ha, hb]

theorem domOf_setDom (d : Nat) (x : TimeDom) (s : State) : domOf (setDom d x s) d = x := by
  unfold domOf setDom
  split <;> rfl

theorem domOf_served (s : State) (d : Nat) : domOf (served s) d = domOf s d := (rfl)
theorem hasSlave_served (s : State) (d : Nat) : hasSlave (served s) d = hasSlave s d := (rfl)

theorem clocks_setFld (f : RegField) (i v : Nat) (s : State) : clocks (setFld f i v s) = clocks s := rfl
theorem clocks_raise (code a b : Nat) (s : State) : clocks (raise code a b s) = clocks s := rfl
theorem clocks_setPulse (o : Nat) (p : Option PulseSched) (s : State) : clocks (setPulse o p s) = clocks s := rfl

theorem clocks_showRate (d : Nat) (s : State) : clocks (showRate d s) = clocks s := by rw [showRate, clocks_setFld, clocks_setFld]

theorem clocks_setMap (k : Nat) (t : Int) (s : State) : clocks (setMap k t s) = clocks s := by
  rw [setMap, clocks_setFld, clocks_setFld, clocks_setFld, clocks_setFld, clocks_setFld, clocks_setFld]

theorem clocks_latePulses (dom : Nat) (r : Int) (s : State) : clocks (latePulses dom r s) = clocks s := by
  refine forEach_keeps clocks _ _ (fun o s => ?_) s
  cases pulseOf s o with
  | none => rfl
  | some p =>
    by_cases h : p.dom ≠ dom ∨ readingOf s dom r < p.next
    · exact congrArg clocks (if_pos h)
    · refine (congrArg clocks (if_neg h)).trans ?_
      dsimp only
      split
      · rfl
      · rfl

/-! ### The readings after a step and at the start of a slew (R393) -/

theorem domLinear_reanchor (x : TimeDom) (r rate : Int) : domLinear (reanchor x r rate) r = domLinear x r := by
  simp [domLinear, reanchor]

theorem domAt_of_none {x : TimeDom} (h : x.slewEnd = none) (r : Int) : domAt x r = domLinear x r := by rw [domAt, domSettle, h]

/-- The domain that a step leaves. -/
def stepped (d : Nat) (delta r : Int) (s : State) : TimeDom :=
  let x := { reanchor (domSettle (domOf s d) r) r (domSettle (domOf s d) r).base with pend := 0, slewEnd := none }
  { x with o := x.o + delta }

theorem domAt_stepped (d : Nat) (delta r : Int) (s : State) : domAt (stepped d delta r s) r = domAt (domOf s d) r + delta := by
  rw [domAt_of_none rfl, domAt]
  simp [domLinear, stepped, reanchor]
  omega

theorem domOf_stepDom (d : Nat) (delta r : Int) (s : State) : domOf (stepDom d delta r s) d = stepped d delta r s := by
  have h : clocks (stepDom d delta r s) = clocks (setDom d (stepped d delta r s) s) := by
    unfold stepDom
    rw [clocks_latePulses]
    split
    · rw [clocks_setMap, clocks_raise, clocks_setFld, clocks_setFld, countFld_eq, clocks_setFld, clocks_showRate]; rfl
    · rw [clocks_raise, clocks_setFld, clocks_setFld, countFld_eq, clocks_setFld, clocks_showRate]; rfl
  rw [domOf_congr h, domOf_setDom]

/-- A domain whose rate changes at `r`, with or without the end of a slew not before `r`, reads there what it read. -/
theorem domAt_reanchored (x : TimeDom) (r rate base pend : Int) {e : Option Int} (he : ∀ z, e = some z → r ≤ z) :
    domAt { reanchor x r rate with base := base, pend := pend, slewEnd := e } r = domLinear x r := by
  cases e with
  | none => exact (domAt_of_none rfl r).trans (domLinear_reanchor x r rate)
  | some z =>
    have hz := he z rfl
    rw [domAt, domSettle]
    by_cases h : z ≤ r
    · obtain rfl : z = r := Int.le_antisymm h hz
      dsimp only
      rw [if_pos h]
      exact (domLinear_reanchor _ z base).trans (domLinear_reanchor x z rate)
    · dsimp only
      rw [if_neg h]
      exact domLinear_reanchor x r rate

theorem domAt_steer (max_ : Nat) (base pend : Int) (x : TimeDom) (r : Int) : domAt (steer max_ base pend x r) r = domAt x r := by
  unfold steer
  dsimp only
  split
  · exact domAt_reanchored (domSettle x r) r _ _ _ (fun _ h => by cases h)
  · refine domAt_reanchored (domSettle x r) r _ _ _ (fun z h => ?_)
    cases h
    exact Int.le_add_of_nonneg_right (Int.natCast_nonneg _)

theorem endsIn_timeAdjust_step {r : Req} {s : State} {raw : Nat} {d : Fin 2} (h : Served 0x903 r s) (hs : Shape r 12 [2, 3]) (hd : pb r 0 = d.val + 1)
    (hslave : hasSlave s d.val = false) (h1 : pb r 1 = 2) (hen : fbit s Fld.PTP_CFG_STEP_EN d.val = true) : EndsIn (.timeAdjust r raw) s
      (Replied r (ok []) (fun b => domAt (domOf b d.val) raw = domAt (domOf s d.val) raw + signOf 64 (rd r.payload 4 8))) := by
  have hd' : pb r 0 - 1 = d.val := by omega
  refine endsIn_okRep rfl h (t := stepDom d.val (signOf 64 (rd r.payload 4 8)) raw (served s)) ?_ ?_
  · unfold timeAdjust
    rw [shaped_ok hs, need_true (decide_eq_true (by omega)), need_true (decide_eq_true (Or.inr h1)), hd', need_true (by rw [hasSlave_served, hslave]; rfl),
      need_true (by rw [show fbit (served s) Fld.PTP_CFG_STEP_EN d.val = _ from hen, Bool.or_true]), if_pos h1]
  · rw [domOf_stepDom, domAt_stepped, domOf_served]

/-- The state in which a slew by `off` has begun at raw value `r`. -/
def slewing (d : Nat) (off r : Int) (s : State) : State :=
  showRate d (setDom d (steer (fld s Fld.PTP_RATES_SLEW_MAX d) (domOf s d).base (pendAt (domOf s d) r + off) (domOf s d) r) s)

theorem domAt_slewing (d : Nat) (off r : Int) (s : State) : domAt (domOf (slewing d off r s) d) r = domAt (domOf s d) r := by
  rw [slewing, domOf_congr (clocks_showRate _ _), domOf_setDom, domAt_steer]

theorem timeAdjust_slew {r : Req} {s : State} {raw : Nat} {d : Fin 2} (hs : Shape r 12 [2, 3]) (hd : pb r 0 = d.val + 1)
    (hslave : hasSlave s d.val = false) (h1 : pb r 1 = 1) : timeAdjust r raw s = okRep [] (slewing d.val (signOf 64 (rd r.payload 4 8)) raw s) := by
  have hd' : pb r 0 - 1 = d.val := by omega
  have h2 : ¬ pb r 1 = 2 := by omega
  unfold timeAdjust
  rw [shaped_ok hs, need_true (decide_eq_true (by omega)), need_true (decide_eq_true (Or.inl h1)), hd', need_true (by rw [hslave]; rfl),
    need_true (by rw [decide_eq_true h1]; rfl), if_neg h2]
  rfl

theorem endsIn_timeAdjust_slew {r : Req} {s : State} {raw : Nat} {d : Fin 2} (h : Served 0x903 r s) (hs : Shape r 12 [2, 3]) (hd : pb r 0 = d.val + 1)
    (hslave : hasSlave s d.val = false) (h1 : pb r 1 = 1) : EndsIn (.timeAdjust r raw) s
      (Replied r (ok []) (fun b => domAt (domOf b d.val) raw = domAt (domOf s d.val) raw)) := by
  have hx : exec (.timeAdjust r raw) s = .next (serve 0x903 r (timeAdjust r raw) s) := rfl
  refine endsIn_okRep hx h (timeAdjust_slew hs hd ((hasSlave_served s _).trans hslave) h1) ?_
  rw [domAt_slewing, domOf_served]

/-! ### Base rate, references and outputs -/

theorem loseAlignment_aligned {o : Nat} (ho : o < 16) (s : State) : fld (loseAlignment s) Fld.CLKOUT_STATUS_ALIGNED o = 0 :=
  fld_forEach_setFld (f := Fld.CLKOUT_STATUS_ALIGNED) (by decide) (by decide) 0 (List.mem_range.mpr ho) s

theorem loseAlignment_fs (s : State) : (loseAlignment s).fs = s.fs := by
  unfold loseAlignment
  exact forEach_keeps State.fs _ _ (fun o s => setFld_fs ..) s

theorem fld_loseAlignment {g : RegField} {j : Nat} (h : fieldAddr g j < Fld.CLKOUT_STATUS_ALIGNED.base) (s : State) :
    fld (loseAlignment s) g j = fld s g j   := by
  unfold loseAlignment
  exact forEach_keeps (fun x => fld x g j) _ _ (fun o x => fld_setFld_above (Nat.le_refl j) h o 0 x) s

theorem fsSet_shows {r : Req} {s : State} (h : Served 0x900 r s) (hs : Shape r 4 [1, 2, 3]) (h0 : pb r 0 ≤ 7) (hm : s.mode = .configure)
    (hc : compileRunning s = none) : EndsIn (.fsSet r) s (Replied r (ok []) (fun b =>
      b.fs = pb r 0 ∧ fld b Fld.ENGINE_MODE_FS = pb r 0 ∧ ∀ o < 16, fld b Fld.CLKOUT_STATUS_ALIGNED o = 0)) := by
  obtain ⟨b, hb, hfs, hmode, hal⟩ : ∃ b, fsSet r (served s) = okRep [] (if (List.range 16).any (fun o => decide (fld b Fld.CLKOUT_CFG_FUNC o = 1 ∧ 49152000 < mclkHz b o))
      then setBit Fld.CLK_STATUS_CFG_ERR 0 b else b) ∧ b.fs = pb r 0 ∧ fld b Fld.ENGINE_MODE_FS = pb r 0 ∧ ∀ o < 16, fld b Fld.CLKOUT_STATUS_ALIGNED o = 0 := by
    refine ⟨loseAlignment (setFld Fld.ENGINE_MODE_FS 0 (pb r 0) { served s with fs := pb r 0 }), ?_, ?_, ?_, fun o ho => loseAlignment_aligned ho _⟩
    · unfold fsSet
      rw [shaped_ok hs, need_true (decide_eq_true h0), need_true (decide_eq_true (show (served s).mode = .configure from hm)),
        show compileRunning (served s) = none from hc]
    · rw [loseAlignment_fs, setFld_fs]
    · rw [fld_loseAlignment (by decide), fld_setFld _ _ _ _ (by decide) (Nat.lt_succ_of_le h0) (by decide)]
  refine endsIn_okRep rfl h hb ?_
  split
  · exact ⟨(setFld_fs ..).trans hfs, (fld_setFld_under (by decide) ..).trans hmode, fun o ho => (fld_setFld_alone (by decide) ..).trans (hal o ho)⟩
  · exact ⟨hfs, hmode, hal⟩

theorem fsSet_refused {r : Req} {s : State} (h : Served 0x900 r s) (hs : Shape r 4 [1, 2, 3]) (h0 : pb r 0 ≤ 7) (hm : s.mode ≠ .configure) :
    exec (.fsSet r) s = .next (answer r ⟨0x23, 0, modeCode s.mode, []⟩ (served s)) := by
  refine exec_error rfl h ?_
  unfold fsSet
  rw [shaped_ok hs, need_true (decide_eq_true h0), need_false (decide_eq_false (show ¬ (served s).mode = .configure from hm))]
  show Except.error (⟨0x23, 0, modeCode s.mode % 2 ^ 32, []⟩ : Rep) = _
  cases s.mode <;> rfl

theorem refSelect_selects {r : Req} {s : State} (h : Served 0x901 r s) (hs : Shape r 4 [2, 3]) (h0 : pb r 0 ≤ 1) (h1 : pb r 1 ≤ 9)
    (hen : fbit s Fld.CLK_CAND_EN (pb r 1) = true) : exec (.refSelect r) s = .next (answer r (ok [])
      (selectRef (setFld Fld.CLK_CTRL_FORCED 0 (pb r 0) (setFld Fld.CLK_CTRL_FORCE_CAND 0 (pb r 1) (served s))))) := by
  refine exec_okRep rfl h ?_
  unfold refSelect
  rw [shaped_ok hs, need_true (decide_eq_true h0), need_true (decide_eq_true h1), need_true (show fbit (served s) _ _ = true from hen)]

theorem fbit_setFld_apart {f g : RegField} (hb : g.base = f.base ∧ g.stride = f.stride) (hw : f.hi < 32) (hl : f.lo ≤ f.hi) (h : g.hi < f.lo ∨ f.hi < g.lo)
    (i v : Nat) (s : State) : fbit (setFld f i v s) g i = fbit s g i := by
  unfold fbit
  rw [fld_setFld_apart f g i i v (by rw [fieldAddr, fieldAddr, hb.1, hb.2]) hw hl h]

theorem refGood_unheld {n : Nat} {s : State} (h : refHolds s n = false) (o : BitVec 16) : refGood n o s = s := if_pos (ne_true_of_eq_false h)

theorem refGood_valid {n : Nat} {s : State} (h : refHolds s n = true) (hv : fbit s Fld.CLK_CAND_STATUS_VALID n = true) (o : BitVec 16) :
    refGood n o s = setFld Fld.CLK_CAND_STATUS_FOFFS n o.toNat s := by
  unfold refGood
  rw [if_neg (fun c => c h)]
  exact if_pos ((fbit_setFld_apart (by decide) (by decide) (by decide) (by decide) ..).trans hv)

theorem refGood_fresh {n : Nat} {s : State} (h : refHolds s n = true) (hv : fbit s Fld.CLK_CAND_STATUS_VALID n = false) (o : BitVec 16) :
    refGood n o s = selectRef (setFld Fld.CLK_CAND_STATUS_VALID n 1 (setFld Fld.CLK_CAND_STATUS_QUALIFYING n 1 (setFld Fld.CLK_CAND_STATUS_FOFFS n o.toNat s))) := by
  unfold refGood
  rw [if_neg (fun c => c h)]
  exact if_neg (ne_true_of_eq_false ((fbit_setFld_apart (by decide) (by decide) (by decide) (by decide) ..).trans hv))

theorem dpllLock_from {f p : BitVec 32} {raw : Nat} {s : State} (hd : fld s Fld.CLK_STATUS_DPLL = 1) (ha : fld s Fld.CLK_STATUS_ACTIVE < 9)
    (h4 : fld s Fld.CLK_STATUS_ACTIVE ≠ 4) (h5 : fld s Fld.CLK_STATUS_ACTIVE ≠ 5) (hf : s.fromFree = false) : dpllLock f p raw s =
      teamJobCheck (lockFollow (setFld Fld.CLK_STATUS_DPLL 0 2 (setFld Fld.DPLL_FREQ_FREQ 0 f.toNat
        (setFld Fld.DPLL_PHASE_PHASE 0 (if phaseAligned s (fld s Fld.CLK_STATUS_ACTIVE) then p.toNat else 0) s)))) := by
  unfold dpllLock
  rw [if_neg (fun c => c.elim (fun c => c hd) (fun c => by omega))]
  simp only [setFld_fromFree, hf, Bool.false_eq_true, false_and, if_false]
  exact if_neg (fun c => c.elim h4 h5)

theorem dpllLockLoss_from {f p : BitVec 32} {s : State} (hd : fld s Fld.CLK_STATUS_DPLL = 2) : dpllLockLoss f p s =
    lockFollow (setFld Fld.CLK_STATUS_DPLL 0 1 (setFld Fld.DPLL_FREQ_FREQ 0 f.toNat
      (setFld Fld.DPLL_PHASE_PHASE 0 (if phaseAligned s (fld s Fld.CLK_STATUS_ACTIVE) then p.toNat else 0) s))) :=
  if_neg (fun c => c (decide_eq_true hd))

theorem historySample_shows {f : BitVec 32} {s : State} (hd : fld s Fld.CLK_STATUS_DPLL = 2) : EndsIn (.holdoverHistorySample f) s (fun y =>
    y.history = (f.toInt :: s.history).take 2610 ∧ fld y Fld.DPLL_FREQ_FREQ = f.toNat ∧
      Untouched (regsOf [(Fld.DPLL_FREQ_FREQ, 0), (Fld.HO_HISTORY_SECONDS, 0)]) s y) := by
  have hx : historySample f s = countFld Fld.HO_HISTORY_SECONDS 0 (setFld Fld.DPLL_FREQ_FREQ 0 f.toNat { s with history := (f.toInt :: s.history).take 2610 }) :=
    if_neg (fun c => c (decide_eq_true hd))
  refine ⟨_, rfl, ?_⟩
  rw [hx]
  refine ⟨?_, ?_, ?_⟩
  · rw [countFld_eq, setFld_history, setFld_history]
  · rw [countFld_eq, fld_setFld_other _ _ _ _ _ _ (by decide), fld_setFld _ _ _ _ (by decide) f.isLt (by decide)]
  · exact ((untouched_of (t := { s with history := (f.toInt :: s.history).take 2610 }) rfl rfl).setFld (List.mem_cons_self ..) _).countFld
      (List.mem_cons_of_mem _ (List.mem_cons_self ..))

/-! ### The frame mapping -/

section Mapping
variable {m : TimeMsg} {s : State}

/-- The oldest mapping that has arrived is the one that FRAME_MAP uses; it came on a trace. -/
theorem frameMapRx_uses (h : s.timeq.find? (fun m => decide (m.port < 64 ∧ rd m.bytes 0 1 = 2)) = some m) (raw : Nat) :
    frameMapRx raw s = frameMapUse m raw { s with timeq := s.timeq.erase m } ∧ m.port < 64 := by
  have hp := List.find?_some h
  refine ⟨?_, (of_decide_eq_true hp).1⟩
  unfold frameMapRx
  rw [h]

theorem frameMapUse_notSlave {r : Int} (h : (portOfDom s (rd m.bytes 1 1) m.port).st ≠ 2) : frameMapUse m r s = s := if_pos (Or.inr (Or.inl h))

theorem mayAdopt_leads {d : Nat} (h : mayAdopt s d = true) : isFollower s = false := by
  simp only [mayAdopt, Bool.and_eq_true, Bool.not_eq_true'] at h
  obtain ⟨⟨⟨⟨-, hf⟩, -⟩, -⟩, -⟩ := h
  exact hf

theorem frameMapUse_adopts {r : Int} (hd : rd m.bytes 1 1 ≤ 1) (hp : m.port < 64) (hs : (portOfDom s (rd m.bytes 1 1) m.port).st = 2)
    (hm : mayAdopt s (rd m.bytes 1 1) = true) (hf : rd (m.bytes.drop 4) 20 1 = s.fs) (hr : fbit s Fld.TIME_STATUS_ROOT (rd m.bytes 1 1) = false) :
    frameMapUse m r s = adoptMap (rd m.bytes 1 1) (rd (m.bytes.drop 4) 0 8)
      (timeJoin (rd (m.bytes.drop 4) 8 6) (rd (m.bytes.drop 4) 14 4) (rd (m.bytes.drop 4) 18 2)) r s := by
  have hno : ¬ (¬ (rd m.bytes 1 1 ≤ 1 ∧ m.port < 64) ∨ (portOfDom s (rd m.bytes 1 1) m.port).st ≠ 2 ∨ isFollower s = true) := by
    rw [mayAdopt_leads hm]
    exact fun c => c.elim (fun c => c ⟨hd, hp⟩) (fun c => c.elim (fun c => c hs) (fun c => by cases c))
  exact (if_neg hno).trans ((if_pos hm).trans (if_pos ⟨hf, ne_true_of_eq_false hr⟩))

theorem adoptMap_behind {d k : Nat} {t r : Int} (h : boundaryAt s.fs k t (domAt (domOf s d) r) < s.frame) :
    adoptMap d k t r s = setBit Fld.CLK_STATUS_EPOCH_AHEAD 0 s := if_pos h

end Mapping

/-! ### Snapshots and readings -/

theorem timeParts_ns_lt (t : Int) : (timeParts t).2.1 < 2 ^ 32 := by
  show ((t / 65536) % 10 ^ 9).toNat < 2 ^ 32
  omega

theorem fld_latchDom_other {g lo hi sub ns : RegField} {j : Nat} (h : ∀ f ∈ [lo, hi, sub, ns], fieldAddr g j ≠ fieldAddr f 0)
    (t : Int) (s : State) : fld (latchDom t lo hi sub ns s) g j = fld s g j := by
  simp only [List.forall_mem_cons] at h
  obtain ⟨h1, h2, h3, h4, -⟩ := h
  unfold latchDom
  rw [fld_setFld_other _ _ _ _ _ _ h1, fld_setFld_other _ _ _ _ _ _ h2, fld_setFld_other _ _ _ _ _ _ h3, fld_setFld_other _ _ _ _ _ _ h4]

theorem fld_latchDom_ns {lo hi sub ns : RegField} (h : ∀ f ∈ [lo, hi, sub], fieldAddr ns 0 ≠ fieldAddr f 0)
    (hw : ns.hi = 31 ∧ ns.lo = 0) (t : Int) (s : State) : fld (latchDom t lo hi sub ns s) ns 0 = (timeParts t).2.1 := by
  simp only [List.forall_mem_cons] at h
  obtain ⟨h1, h2, h3, -⟩ := h
  obtain ⟨hh, hl⟩ := hw
  unfold latchDom
  rw [fld_setFld_other _ _ _ _ _ _ h1, fld_setFld_other _ _ _ _ _ _ h2, fld_setFld_other _ _ _ _ _ _ h3, fld_setFld _ _ _ _ (by omega) (by rw [hh, hl]; exact timeParts_ns_lt t) (by omega)]

theorem latchDom_mem (t : Int) (lo hi sub ns : RegField) (s : State) : (latchDom t lo hi sub ns s).mem = s.mem := by
  unfold latchDom; rw [setFld_mem, setFld_mem, setFld_mem, setFld_mem]

theorem latchDom_frame (t : Int) (lo hi sub ns : RegField) (s : State) : (latchDom t lo hi sub ns s).frame = s.frame := by
  unfold latchDom; rw [setFld_frame, setFld_frame, setFld_frame, setFld_frame]

theorem clocks_latchDom (t : Int) (lo hi sub ns : RegField) (s : State) : clocks (latchDom t lo hi sub ns s) = clocks s := by
  unfold latchDom; rw [clocks_setFld, clocks_setFld, clocks_setFld, clocks_setFld]

theorem clocks_domA {a b : State} (h : clocks a = clocks b) : a.domA = b.domA := congrArg Prod.fst h
theorem clocks_domB {a b : State} (h : clocks a = clocks b) : a.domB = b.domB := congrArg Prod.snd h

/-- The latch with the raw reading. -/
def rawLatched (raw : Nat) (s : State) : State :=
  setFld Fld.RAW_NS_LO_NS_LO 0 (raw / 65536 % 2 ^ 32) (setFld Fld.RAW_NS_HI_NS_HI 0 (raw / 65536 / 2 ^ 32) (setFld Fld.RAW_SUBNS_SUBNS 0 (raw % 65536) s))

theorem rawLatched_shows (raw : Nat) (s : State) : let y := rawLatched raw s
    fld y Fld.RAW_NS_LO_NS_LO = raw / 65536 % 2 ^ 32 ∧ fld y Fld.RAW_SUBNS_SUBNS = raw % 65536 ∧ clocks y = clocks s ∧ y.frame = s.frame ∧ y.mem = s.mem := by
  unfold rawLatched
  refine ⟨?_, ?_, ?_, ?_, ?_⟩
  · exact fld_setFld _ _ _ _ (by decide) (Nat.mod_lt _ (by decide)) (by decide)
  · rw [fld_setFld_other _ _ _ _ _ _ (by decide), fld_setFld_other _ _ _ _ _ _ (by decide)]
    exact fld_setFld _ _ _ _ (by decide) (Nat.mod_lt _ (by decide)) (by decide)
  · rw [clocks_setFld, clocks_setFld, clocks_setFld]
  · rw [setFld_frame, setFld_frame, setFld_frame]
  · rw [setFld_mem, setFld_mem, setFld_mem]

/-- The latch with the reading of domain A. -/
def latchedA (raw : Nat) (s : State) : State :=
  latchDom (domAt s.domA raw) Fld.A_SEC_LO_SEC_LO Fld.A_SEC_HI_SEC_HI Fld.A_SEC_HI_SUBNS Fld.A_NS_NS s

/-- The latch with the reading of domain B. -/
def latchedB (raw : Nat) (s : State) : State :=
  latchDom (domAt s.domB raw) Fld.B_SEC_LO_SEC_LO Fld.B_SEC_HI_SEC_HI Fld.B_SEC_HI_SUBNS Fld.B_NS_NS s

theorem clocksLatched_shows (raw : Nat) (s : State) : let y := latchedB raw (latchedA raw (rawLatched raw s))
    fld y Fld.RAW_NS_LO_NS_LO = raw / 65536 % 2 ^ 32 ∧ fld y Fld.RAW_SUBNS_SUBNS = raw % 65536 ∧ fld y Fld.A_NS_NS = (timeParts (domAt s.domA raw)).2.1 ∧
      fld y Fld.B_NS_NS = (timeParts (domAt s.domB raw)).2.1 ∧ y.frame = s.frame ∧ y.mem = s.mem := by
  obtain ⟨hlo, hsub, hclk, hframe, hmem⟩ := rawLatched_shows raw s
  have hclkA : clocks (latchedA raw (rawLatched raw s)) = clocks s := (clocks_latchDom ..).trans hclk
  refine ⟨?_, ?_, ?_, ?_, ?_, ?_⟩
  · rw [latchedB, fld_latchDom_other (by decide), latchedA, fld_latchDom_other (by decide), hlo]
  · rw [latchedB, fld_latchDom_other (by decide), latchedA, fld_latchDom_other (by decide), hsub]
  · rw [latchedB, fld_latchDom_other (by decide), latchedA, fld_latchDom_ns (by decide) (by decide), clocks_domA hclk]
  · rw [latchedB, fld_latchDom_ns (by decide) (by decide), clocks_domB hclkA]
  · rw [latchedB, latchDom_frame, latchedA, latchDom_frame, hframe]
  · rw [latchedB, latchDom_mem, latchedA, latchDom_mem, hmem]

/-- The latch with the frame index and the phase. -/
def frameLatched (raw : Nat) (s : State) : State :=
  setFld Fld.SNAP_FRAME_LO_FRAME_LO 0 (s.frame % 2 ^ 32) (setFld Fld.SNAP_FRAME_HI_FRAME_HI 0 (s.frame / 2 ^ 32)
    (setFld Fld.SNAP_PHASE_PHASE 0 ((raw - s.tick * 65536) / 4096) s))

theorem timeSnap_shows (raw : Nat) (s : State) : let y := timeSnap true raw s
    fld y Fld.RAW_NS_LO_NS_LO = raw / 65536 % 2 ^ 32 ∧ fld y Fld.RAW_SUBNS_SUBNS = raw % 65536 ∧
      fld y Fld.A_NS_NS = (timeParts (domAt s.domA raw)).2.1 ∧ fld y Fld.B_NS_NS = (timeParts (domAt s.domB raw)).2.1 ∧
      fld y Fld.SNAP_FRAME_LO_FRAME_LO = s.frame % 2 ^ 32 ∧ y.mem = s.mem := by
  have hb : timeSnap true raw s = frameLatched raw (latchedB raw (latchedA raw (rawLatched raw s))) := if_neg (fun c => c rfl)
  have hfacts := clocksLatched_shows raw s
  generalize latchedB raw (latchedA raw (rawLatched raw s)) = b at hb hfacts
  obtain ⟨hlo, hsub, ha, hbns, hframe, hmem⟩ := hfacts
  dsimp only
  rw [hb, frameLatched]
  refine ⟨?_, ?_, ?_, ?_, ?_, ?_⟩
  · rw [fld_setFld_other _ _ _ _ _ _ (by decide), fld_setFld_other _ _ _ _ _ _ (by decide), fld_setFld_other _ _ _ _ _ _ (by decide), hlo]
  · rw [fld_setFld_other _ _ _ _ _ _ (by decide), fld_setFld_other _ _ _ _ _ _ (by decide), fld_setFld_other _ _ _ _ _ _ (by decide), hsub]
  · rw [fld_setFld_other _ _ _ _ _ _ (by decide), fld_setFld_other _ _ _ _ _ _ (by decide), fld_setFld_other _ _ _ _ _ _ (by decide), ha]
  · rw [fld_setFld_other _ _ _ _ _ _ (by decide), fld_setFld_other _ _ _ _ _ _ (by decide), fld_setFld_other _ _ _ _ _ _ (by decide), hbns]
  · rw [← hframe]
    exact fld_setFld _ _ _ _ (by decide) (Nat.mod_lt _ (by decide)) (by decide)
  · rw [setFld_mem, setFld_mem, setFld_mem, hmem]

theorem timeRead_answers {r : Req} {s : State} (raw : Nat) (h : Served 0x902 r s) (hs : Shape r 4 [1, 2, 3]) (h0 : pb r 0 ≤ 2) :
    exec (.timeRead r raw) s = .next (answer r (ok (beBytes 6 (timeParts (readingOf s (pb r 0) raw)).1 ++ beBytes 4 (timeParts (readingOf s (pb r 0) raw)).2.1 ++
      beBytes 2 (timeParts (readingOf s (pb r 0) raw)).2.2 ++ beBytes 8 s.frame)) (served s)) := by
  refine exec_okRep rfl h ?_
  unfold timeRead
  rw [shaped_ok hs, need_true (decide_eq_true h0)]
  rfl

/-! ### Pulses and alignments -/

theorem pulseSchedule_once {r : Req} {s : State} {raw : Nat} {t : Int} (h : Served 0x904 r s) (hs : Shape r 24 [3]) (h0 : pb r 0 ≤ 15) (h1 : pb r 1 = 0)
    (h2 : pb r 2 ≤ 2) (hns : rd r.payload 10 4 < 10 ^ 9) (ht : t = timeJoin (rd r.payload 4 6) (rd r.payload 10 4) (rd r.payload 14 2))
    (hlate : readingOf s (pb r 2) raw + 65536000000 ≤ t) :
    exec (.pulseSchedule r raw) s = .next (answer r (ok []) (setPulse (pb r 0) (some ⟨pb r 2, t, none, t⟩) (served s))) := by
  refine exec_okRep rfl h ?_
  have honce : decide (pb r 1 = 1) = false := decide_eq_false (by omega)
  unfold pulseSchedule
  rw [← ht, honce, shaped_ok hs, need_true (decide_eq_true h0), need_true (decide_eq_true (by omega)), need_true (decide_eq_true h2),
    need_true (decide_eq_true hns), need_true (by rfl), need_true (decide_eq_true (by exact hlate))]
  rfl

theorem pulseOf_setPulse (o : Nat) (p : Option PulseSched) (s : State) : pulseOf (setPulse o p s) o = p := smapGet_set_self ..

theorem scheduledPulse_fires {o raw : Nat} {p : PulseSched} {s : State} (hp : pulseOf s o = some p) (hn : p.next ≤ readingOf s p.dom raw)
    (hf : fld s Fld.CLKOUT_CFG_FUNC o = 4) :
    scheduledPulse o raw s = sendOut (.pulse o false) (setPulse o (pulseNext p (readingOf s p.dom raw)) s) := by
  unfold scheduledPulse
  rw [hp]
  refine (if_neg (Int.not_lt.mpr hn)).trans (if_pos ?_)
  rw [setPulse, fld_setFld_rows (by decide)]
  exact hf

theorem bitList_two_pow (o : Fin 16) : bitList 16 (2 ^ o.val) = [o.val] := by
  revert o; decide

theorem clkoutAlign_notes {r : Req} {s : State} (o : Fin 16) (h : Served 0x905 r s) (hs : Shape r 12 [2, 3]) (ho : rd r.payload 0 2 = 2 ^ o.val)
    (hf : s.frame + 2 ≤ rd r.payload 4 8) :
    exec (.clkoutAlign r) s = .next (answer r (ok []) (setAlign o.val (some (rd r.payload 4 8)) (served s))) := by
  refine exec_okRep rfl h ?_
  unfold clkoutAlign
  rw [shaped_ok hs, need_true (decide_eq_true (show (served s).frame + 2 ≤ _ from hf)), ho, bitList_two_pow]
  rfl

/-- Settles O48. -/
theorem clockCommands : Obligations.ClockCommands := by
  unfold Obligations.ClockCommands
  intro r s
  refine ⟨fsSet_shows, fsSet_refused, refSelect_selects, fun n o => ⟨fun hh hv => ?_, fun hh => ?_, fun hh hv => ?_⟩, fun n hn hv => ?_, rfl, fun n hv hq => ?_,
    fun f p raw hd ha h4 h5 hf => congrArg _ (dpllLock_from hd ha h4 h5 hf), fun f p hd => congrArg _ (dpllLockLoss_from hd), fun f hd => historySample_shows hd,
    fun m raw hm => ⟨fun hs => ?_, fun hd hs hmay hfs hroot => ?_, fun hb => adoptMap_behind hb⟩, fun raw => ⟨rfl, _, rfl, timeSnap_shows raw s⟩,
    timeRead_answers, fun raw d h hs hd hsl => ⟨endsIn_timeAdjust_step h hs hd hsl, endsIn_timeAdjust_slew h hs hd hsl⟩,
    fun raw t => pulseSchedule_once, fun o raw p hp hn hf => ⟨_, rfl, ?_⟩, clkoutAlign_notes⟩
  · exact congrArg _ (refGood_valid hh hv o)
  · exact congrArg _ (refGood_unheld hh o)
  · exact congrArg _ (refGood_fresh hh hv o)
  · exact congrArg _ (if_neg (fun c => c.elim hn (fun c => c hv)))
  · exact congrArg _ (if_pos ⟨hv, hq⟩)
  · obtain ⟨hx, -⟩ := frameMapRx_uses hm raw
    exact congrArg _ (hx.trans (frameMapUse_notSlave hs))
  · obtain ⟨hx, hp⟩ := frameMapRx_uses hm raw
    exact congrArg _ (hx.trans (frameMapUse_adopts hd hp hs hmay hfs hroot))
  · rw [scheduledPulse_fires hp hn hf]
    exact ⟨rfl, pulseOf_setPulse ..⟩

end Sys2Proof.Machine

/-!
# Amplifier channels: what each operation leaves of a channel
-/

namespace Sys2Proof.Machine

theorem nodup_range_add (a n : Nat) : ((List.range n).map (a + ·)).Nodup :=
  List.pairwise_map.mpr (List.nodup_range.imp fun h e => h (Nat.add_left_cancel e))

/-! ### Rows up to an index -/

/-- Whether two fields share no bit at any indices up to `n`. -/
def apartTo (n : Nat) (f g : RegField) : Bool := rowsApart f g || decide (fieldAddr f n < g.base) || decide (fieldAddr g n < f.base)

theorem fld_setFld_apartTo {n : Nat} {f g : RegField} (h : apartTo n f g = true) {i j : Nat} (hi : i ≤ n) (hj : j ≤ n) (v : Nat) (s : State) :
    fld (setFld f i v s) g j = fld s g j := by
  simp only [apartTo, Bool.or_eq_true, decide_eq_true_eq] at h
  obtain (h | h) | h := h
  · exact fld_setFld_rows h ..
  · exact fld_setFld_below hi h ..
  · exact fld_setFld_above hj h ..

/-- A field at another index keeps its value. -/
theorem fld_setFld_index {f g : RegField} {n i j : Nat} (h : f.stride = .lin n ∧ g.stride = .lin n ∧ f.base = g.base ∧ 0 < n) (hij : j ≠ i) (v : Nat)
    (s : State) : fld (setFld f i v s) g j = fld s g j := by
  obtain ⟨hf, hg, hb, hn⟩ := h
  refine fld_setFld_other s f g i j v fun e => hij ?_
  rw [fieldAddr, fieldAddr, hf, hg, hb, strideOff, strideOff] at e
  exact Nat.eq_of_mul_eq_mul_left hn (Nat.add_left_cancel e)

theorem fld_lt (s : State) (f : RegField) (i : Nat) : fld s f i < 2 ^ (f.hi + 1 - f.lo) := Nat.mod_lt _ (Nat.two_pow_pos _)

/-! ### One element of a list handled once -/

/-- Where the other elements of a list leave a view, the view at the end is that after the one element. -/
theorem forEach_once {α β : Type} [DecidableEq α] (view : State → β) {l : List α} {f : α → State → State} {d : α} (hn : l.Nodup) (hd : d ∈ l)
    (hother : ∀ a ∈ l, a ≠ d → ∀ s, view (f a s) = view s) (s : State) : ∃ s', view s' = view s ∧ view (forEach l f s) = view (f d s') := by
  unfold forEach
  induction l generalizing s with
  | nil => cases hd
  | cons a t ih =>
    obtain ⟨ha, ht⟩ := List.nodup_cons.mp hn
    rw [List.foldl_cons]
    by_cases had : a = d
    · subst had
      exact ⟨s, rfl, forEach_keeps_mem view t f (fun b hb => hother b (List.mem_cons_of_mem _ hb) (fun e => ha (e ▸ hb))) (f a s)⟩
    · obtain ⟨s', hs', h⟩ := ih ht ((List.mem_cons.mp hd).resolve_left (Ne.symm had)) (fun b hb => hother b (List.mem_cons_of_mem _ hb)) (f a s)
      exact ⟨s', hs'.trans (hother a (List.mem_cons_self ..) had s), h⟩

theorem forEach_fixed {α : Type} {l : List α} {f : α → State → State} {s : State} (h : ∀ a ∈ l, f a s = s) : forEach l f s = s := by
  unfold forEach
  induction l with
  | nil => rfl
  | cons a t ih => rw [List.foldl_cons, h a (List.mem_cons_self ..)]; exact ih fun b hb => h b (List.mem_cons_of_mem _ hb)

/-- Where the other elements change nothing, the whole list does what the one element does. -/
theorem forEach_only {α : Type} [DecidableEq α] {l : List α} {f : α → State → State} {d : α} {s : State} (hn : l.Nodup) (hd : d ∈ l)
    (hbefore : ∀ a ∈ l, a ≠ d → f a s = s) (hafter : ∀ a ∈ l, a ≠ d → f a (f d s) = f d s) : forEach l f s = f d s := by
  induction l with
  | nil => cases hd
  | cons a t ih =>
    obtain ⟨ha, ht⟩ := List.nodup_cons.mp hn
    show forEach t f (f a s) = f d s
    by_cases had : a = d
    · subst had
      exact forEach_fixed fun b hb => hafter b (List.mem_cons_of_mem _ hb) (fun e => ha (e ▸ hb))
    · rw [hbefore a (List.mem_cons_self ..) had]
      exact ih ht ((List.mem_cons.mp hd).resolve_left (Ne.symm had)) (fun b hb => hbefore b (List.mem_cons_of_mem _ hb))
        (fun b hb => hafter b (List.mem_cons_of_mem _ hb))

/-! ### A channel's record and its state field -/

section Channel
variable (c n : Nat) (x : AmpSt) (s : State)

theorem ampOf_setFld (f : RegField) (i v d : Nat) : ampOf (setFld f i v s) d = ampOf s d := (rfl)
theorem fld_setAmp (g : RegField) (j : Nat) : fld (setAmp c x s) g j = fld s g j := (rfl)
theorem fbit_setAmp (g : RegField) (j : Nat) : fbit (setAmp c x s) g j = fbit s g j := (rfl)
theorem ampState_setAmp (d : Nat) : ampState (setAmp c x s) d = ampState s d := (rfl)

theorem setAmpState_eq : setAmpState c n s = showGroup (c / 4) (setFld Fld.AMP_STATE_STATE c n s) := (rfl)

theorem ampOf_setAmpState (d : Nat) : ampOf (setAmpState c n s) d = ampOf s d := by
  rw [setAmpState_eq, showGroup, ampOf_setFld, ampOf_setFld]

variable {c}

theorem fld_showGroup {k : Nat} (hk : k ≤ 32) {g : RegField} (h : apartTo 32 Fld.AMP_GROUP_STATUS_STATE g = true) {j : Nat} (hj : j ≤ 32) :
    fld (showGroup k s) g j = fld s g j := by rw [showGroup, fld_setFld_apartTo h hk hj]

/-- The fields that a change of a channel's state leaves. -/
def besideState (g : RegField) : Bool := apartTo 32 Fld.AMP_STATE_STATE g && apartTo 32 Fld.AMP_GROUP_STATUS_STATE g

theorem fld_setAmpState {g : RegField} (h : besideState g = true) (hc : c ≤ 32) {j : Nat} (hj : j ≤ 32) : fld (setAmpState c n s) g j = fld s g j := by
  obtain ⟨h1, h2⟩ := Bool.and_eq_true_iff.mp h
  rw [setAmpState_eq, fld_showGroup _ (by omega) h2 hj, fld_setFld_apartTo h1 hc hj]

theorem ampState_setAmpState (hc : c ≤ 32) : ampState (setAmpState c n s) c = n % 8 := by
  rw [setAmpState_eq, ampState, fld_showGroup _ (by omega) (by decide) hc]
  exact fld_setFld_mod _ (by decide) (by decide) ..

theorem ampState_setAmpState_ne (hc : c ≤ 32) {d : Nat} (hd : d ≤ 32) (h : d ≠ c) : ampState (setAmpState c n s) d = ampState s d := by
  rw [setAmpState_eq, ampState, fld_showGroup _ (by omega) (by decide) hd]
  exact fld_setFld_index (n := 0x40) (by decide) h ..

theorem ampState_setFld {f : RegField} (h : apartTo 32 f Fld.AMP_STATE_STATE = true) {i d : Nat} (hi : i ≤ 32) (hd : d ≤ 32) (v : Nat) :
    ampState (setFld f i v s) d = ampState s d := fld_setFld_apartTo h hi hd v s

end Channel

/-! ### The end of a test -/

/-- The registers and the channels. -/
def ampCore (s : State) : SMap Word32 × SMap AmpSt := (s.regs, s.amps)

section Core
variable {a b : State}

theorem ampOf_core (h : ampCore a = ampCore b) (d : Nat) : ampOf a d = ampOf b d := by
  rw [ampOf, ampOf, show a.amps = b.amps from congrArg Prod.snd h]
theorem fld_core (h : ampCore a = ampCore b) (g : RegField) (j : Nat) : fld a g j = fld b g j := fld_congr (congrArg Prod.fst h) g j

theorem ampState_core (h : ampCore a = ampCore b) (d : Nat) : ampState a d = ampState b d := fld_core h _ d

end Core

theorem diagJobCheck_core (h : Nat) (s : State) : ampCore (diagJobCheck h s) = ampCore s := by
  have hend : ∀ h st fin d r (t : State), ampCore (endJob h st fin d r t) = ampCore t := by
    intro h st fin d r t
    unfold endJob
    split
    · rfl
    · split <;> rfl
  unfold diagJobCheck
  split
  · rfl
  · split
    · split
      · exact (hend ..).trans rfl
      · rfl
    · rfl

theorem gainGo_rest {c : Nat} {s : State} (h : ampState s c ≠ 4) : gainGo c s = s := if_pos h

/-- A ramp that starts touches no register and only the gain of its channel. -/
theorem gainGo_shows (c : Nat) (s : State) : (gainGo c s).regs = s.regs ∧ (∃ g, ampOf (gainGo c s) c = { ampOf s c with gain := g }) ∧
    ∀ d, d ≠ c → ampOf (gainGo c s) d = ampOf s d := by
  have hset : ∀ g, (setAmp c { ampOf s c with gain := g } s).regs = s.regs ∧
      (∃ k, ampOf (setAmp c { ampOf s c with gain := g } s) c = { ampOf s c with gain := k }) ∧
      ∀ d, d ≠ c → ampOf (setAmp c { ampOf s c with gain := g } s) d = ampOf s d :=
    fun g => ⟨setAmp_regs .., ⟨g, ampOf_setAmp ..⟩, fun d hd => ampOf_setAmp_ne _ _ _ _ hd⟩
  have hsame : s.regs = s.regs ∧ (∃ k, ampOf s c = { ampOf s c with gain := k }) ∧ ∀ d, d ≠ c → ampOf s d = ampOf s d :=
    ⟨rfl, ⟨(ampOf s c).gain, rfl⟩, fun _ _ => rfl⟩
  unfold gainGo
  dsimp only
  split
  · exact hsame
  · split
    · split
      · exact hset 2
      · exact hsame
    · split
      · exact hset 3
      · exact hsame

section TestEnd
variable {c : Nat} (o k : Nat) {s : State}

theorem testEnd_untested (h : (ampOf s c).test = none) : testEnd c o k s = s := by
  unfold testEnd
  dsimp only
  rw [h]

/-- The record of a channel without its test. -/
def untested (o k : Nat) (t : AmpTest) (s : State) (x : AmpSt) : AmpSt :=
  { x with test := none, diag := some ⟨t.test, o, k, s.frame, t.done⟩ }

/-- A channel's test ends: the channel returns to where it was. -/
def testLeft (c o k : Nat) (t : AmpTest) (s : State) : State :=
  let y := setAmp c (untested o k t s (ampOf s c)) s
  if ampState s c = 7 then (if t.was then gainGo c (setAmpState c 4 y) else setAmp c { ampOf y c with stopReq := true } y)
  else if t.was then y else setAmp c { ampOf y c with stopReq := true } y

theorem testEnd_tested {t : AmpTest} (h : (ampOf s c).test = some t) : testEnd c o k s = diagJobCheck t.job (testLeft c o k t s) := by
  unfold testEnd
  dsimp only
  rw [h]
  rfl

theorem testLeft_others (t : AmpTest) (hc : c ≤ 32) {d : Nat} (hd : d ≤ 32) (hne : d ≠ c) : ampOf (testLeft c o k t s) d = ampOf s d ∧
    ampState (testLeft c o k t s) d = ampState s d := by
  unfold testLeft
  dsimp only
  split
  · split
    · obtain ⟨hregs, -, hamp⟩ := gainGo_shows c (setAmpState c 4 (setAmp c (untested o k t s (ampOf s c)) s))
      refine ⟨?_, ?_⟩
      · rw [hamp d hne, ampOf_setAmpState, ampOf_setAmp_ne _ _ _ _ hne]
      · rw [ampState, fld_congr hregs]
        exact (ampState_setAmpState_ne _ _ hc hd hne).trans (ampState_setAmp ..)
    · exact ⟨by rw [ampOf_setAmp_ne _ _ _ _ hne, ampOf_setAmp_ne _ _ _ _ hne], rfl⟩
  · split
    · exact ⟨by rw [ampOf_setAmp_ne _ _ _ _ hne], rfl⟩
    · exact ⟨by rw [ampOf_setAmp_ne _ _ _ _ hne, ampOf_setAmp_ne _ _ _ _ hne], rfl⟩

/-- The end of a test on one channel leaves the others as they are. -/
theorem testEnd_others (hc : c ≤ 32) {d : Nat} (hd : d ≤ 32) (hne : d ≠ c) : ampOf (testEnd c o k s) d = ampOf s d ∧
    ampState (testEnd c o k s) d = ampState s d := by
  cases ht : (ampOf s c).test with
  | none => rw [testEnd_untested o k ht]; exact ⟨rfl, rfl⟩
  | some t =>
    rw [testEnd_tested o k ht, ampOf_core (diagJobCheck_core ..), ampState_core (diagJobCheck_core ..)]
    exact testLeft_others o k t hc hd hne

/-- The end of a test on a channel that no longer stands in TEST changes no register and not its gain. -/
theorem testEnd_aside (h7 : ampState s c ≠ 7) : (testEnd c o k s).regs = s.regs ∧ (ampOf (testEnd c o k s) c).gain = (ampOf s c).gain ∧
    (ampOf (testEnd c o k s) c).test = none ∧ (ampOf (testEnd c o k s) c).blocks = (ampOf s c).blocks := by
  cases ht : (ampOf s c).test with
  | none => rw [testEnd_untested o k ht]; exact ⟨rfl, rfl, ht, rfl⟩
  | some t =>
    have hcore := diagJobCheck_core t.job (testLeft c o k t s)
    rw [testEnd_tested o k ht, ampOf_core hcore, show (diagJobCheck t.job (testLeft c o k t s)).regs = _ from congrArg Prod.fst hcore]
    unfold testLeft
    dsimp only
    rw [if_neg h7]
    split
    · rw [ampOf_setAmp]
      exact ⟨rfl, rfl, rfl, rfl⟩
    · rw [ampOf_setAmp, ampOf_setAmp]
      exact ⟨rfl, rfl, rfl, rfl⟩

end TestEnd

/-! ### Faults (R418) -/

/-- The state that a fault leaves before the test on its channel is aborted. -/
def faultNoted (c cause : Nat) (s : State) : State :=
  let y := countFld Fld.AMP_COUNTS_FAULT c (setBit (causeField cause) c s)
  let old := fld y Fld.AMP_FAULT_CAUSE c
  clrBit Fld.AMP_STATE_LOCKED c (clrBit Fld.AMP_STATE_ENABLE c (setAmpState c 6 (setFld Fld.AMP_FAULT_CAUSE c (if old = 0 then cause else min old cause) y)))

theorem faultStop_eq (c cause : Nat) (s : State) : faultStop c cause s = testAbort c (setAmp c { ampOf (faultNoted c cause s) c with
    ready := false, quick := false, stopReq := false, gain := 0, side := false } (faultNoted c cause s)) := (rfl)

/-- The bits of AMP_FAULT that show a cause. -/
def causeFields : List RegField :=
  [Fld.AMP_FAULT_DRIVER, Fld.AMP_FAULT_SHORT, Fld.AMP_FAULT_LOOP, Fld.AMP_FAULT_DC, Fld.AMP_FAULT_ENERGY_CUT, Fld.AMP_FAULT_NO_FREQ]

theorem causeField_row (cause : Nat) : causeField cause ∈ causeFields := by
  unfold causeField causeFields
  split <;> simp

/-- What holds of the field of every cause. -/
theorem causeField_all {P : RegField → Prop} (h : ∀ f ∈ causeFields, P f) (cause : Nat) : P (causeField cause) :=
  h _ (causeField_row cause)

section Fault
variable {c cause : Nat} (s : State)

/-- Fields of the channel that a fault leaves. -/
theorem fld_faultNoted (hc : c ≤ 32) {g : RegField} (hg : [Fld.AMP_STATE_LOCKED, Fld.AMP_STATE_ENABLE, Fld.AMP_STATE_STATE, Fld.AMP_GROUP_STATUS_STATE,
    Fld.AMP_FAULT_CAUSE, Fld.AMP_COUNTS_FAULT, causeField cause].all (apartTo 32 · g) = true) {j : Nat} (hj : j ≤ 32) :
    fld (faultNoted c cause s) g j = fld s g j := by
  simp only [List.all_cons, List.all_nil, Bool.and_eq_true, Bool.and_true] at hg
  obtain ⟨h1, h2, h3, h4, h5, h6, h7⟩ := hg
  unfold faultNoted
  dsimp only
  rw [clrBit_eq, clrBit_eq, fld_setFld_apartTo h1 hc hj, fld_setFld_apartTo h2 hc hj, fld_setAmpState _ _ (by rw [besideState, h3, h4]; rfl) hc hj,
    fld_setFld_apartTo h5 hc hj, countFld_eq, fld_setFld_apartTo h6 hc hj, setBit_eq, fld_setFld_apartTo h7 hc hj]

theorem faultNoted_state (hc : c ≤ 32) : ampState (faultNoted c cause s) c = 6 := by
  unfold faultNoted
  rw [clrBit_eq, clrBit_eq, ampState_setFld _ (by decide) hc hc, ampState_setFld _ (by decide) hc hc]
  exact ampState_setAmpState _ _ hc

theorem faultNoted_others (hc : c ≤ 32) {d : Nat} (hd : d ≤ 32) (hne : d ≠ c) : ampState (faultNoted c cause s) d = ampState s d := by
  unfold faultNoted
  rw [clrBit_eq, clrBit_eq, ampState_setFld _ (by decide) hc hd, ampState_setFld _ (by decide) hc hd, ampState_setAmpState_ne _ _ hc hd hne,
    ampState_setFld _ (by decide) hc hd, countFld_eq, ampState_setFld _ (by decide) hc hd, setBit_eq,
    ampState_setFld _ (causeField_all (P := fun f => apartTo 32 f Fld.AMP_STATE_STATE = true) (by decide) cause) hc hd]

theorem faultNoted_amp (d : Nat) : ampOf (faultNoted c cause s) d = ampOf s d := by
  unfold faultNoted
  rw [clrBit_eq, clrBit_eq, ampOf_setFld, ampOf_setFld, ampOf_setAmpState, ampOf_setFld, countFld_eq, ampOf_setFld, setBit_eq, ampOf_setFld]

theorem faultNoted_shows (hc : c ≤ 32) (hcause : cause < 8) : let y := faultNoted c cause s
    fld y Fld.AMP_FAULT_CAUSE c = (if fld s Fld.AMP_FAULT_CAUSE c = 0 then cause else min (fld s Fld.AMP_FAULT_CAUSE c) cause) ∧
      fld y (causeField cause) c = 1 ∧ fld y Fld.AMP_STATE_ENABLE c = 0 ∧ fld y Fld.AMP_STATE_LOCKED c = 0 := by
  have hcause_old : fld (countFld Fld.AMP_COUNTS_FAULT c (setBit (causeField cause) c s)) Fld.AMP_FAULT_CAUSE c = fld s Fld.AMP_FAULT_CAUSE c := by
    rw [countFld_eq, fld_setFld_apartTo (by decide) hc hc, setBit_eq,
      fld_setFld_apartTo (causeField_all (P := fun f => apartTo 32 f Fld.AMP_FAULT_CAUSE = true) (by decide) cause) hc hc]
  have hbit : fld (countFld Fld.AMP_COUNTS_FAULT c (setBit (causeField cause) c s)) (causeField cause) c = 1 := by
    rw [countFld_eq, fld_setFld_apartTo (causeField_all (P := fun f => apartTo 32 Fld.AMP_COUNTS_FAULT f = true) (by decide) cause) hc hc, setBit_eq]
    exact causeField_all (P := fun f => fld (setFld f c 1 s) f c = 1) (by
      intro f hf
      have hwide : ∀ f ∈ causeFields, f.hi < 32 ∧ 1 < 2 ^ (f.hi + 1 - f.lo) ∧ f.lo ≤ f.hi := by decide
      obtain ⟨h32, h1, hle⟩ := hwide f hf
      exact fld_setFld _ _ _ _ h32 h1 hle) cause
  have hold : fld s Fld.AMP_FAULT_CAUSE c < 8 := fld_lt s Fld.AMP_FAULT_CAUSE c
  unfold faultNoted
  dsimp only
  rw [hcause_old]
  generalize countFld Fld.AMP_COUNTS_FAULT c (setBit (causeField cause) c s) = b at hbit
  refine ⟨?_, ?_, ?_, ?_⟩
  · rw [clrBit_eq, clrBit_eq, fld_setFld_apartTo (by decide) hc hc, fld_setFld_apartTo (by decide) hc hc, fld_setAmpState _ _ (by decide) hc hc]
    refine fld_setFld _ _ _ _ (by decide) ?_ (by decide)
    show _ < 8
    split
    · exact hcause
    · omega
  · rw [clrBit_eq, clrBit_eq, fld_setFld_apartTo (causeField_all (P := fun f => apartTo 32 Fld.AMP_STATE_LOCKED f = true) (by decide) cause) hc hc,
      fld_setFld_apartTo (causeField_all (P := fun f => apartTo 32 Fld.AMP_STATE_ENABLE f = true) (by decide) cause) hc hc,
      fld_setAmpState _ _ (causeField_all (P := fun f => besideState f = true) (by decide) cause) hc hc,
      fld_setFld_apartTo (causeField_all (P := fun f => apartTo 32 Fld.AMP_FAULT_CAUSE f = true) (by decide) cause) hc hc, hbit]
  · rw [clrBit_eq, fld_setFld_apartTo (by decide) hc hc, clrBit_eq]
    exact fld_setFld _ _ _ _ (by decide) (by decide) (by decide)
  · rw [clrBit_eq]
    exact fld_setFld _ _ _ _ (by decide) (by decide) (by decide)

theorem faulted_faultStop (hc : c ≤ 32) (hcause : cause < 8) : Faulted c cause s (faultStop c cause s) := by
  obtain ⟨hcs, hbit, hen, hlock⟩ := faultNoted_shows s hc hcause
  have hst := faultNoted_state (cause := cause) s hc
  have hoth : ∀ d < 32, d ≠ c → ampState (faultNoted c cause s) d = ampState s d := fun d hd hne => faultNoted_others s hc (Nat.le_of_lt hd) hne
  rw [faultStop_eq, testAbort]
  generalize faultNoted c cause s = b at *
  obtain ⟨x, hx, hgain⟩ : ∃ x : AmpSt, x = { ampOf b c with ready := false, quick := false, stopReq := false, gain := 0, side := false } ∧ x.gain = 0 := ⟨_, rfl, rfl⟩
  rw [← hx]
  obtain ⟨hr, hg, ht, -⟩ := testEnd_aside 2 0 (c := c) (s := setAmp c x b) (by rw [ampState_setAmp, hst]; decide)
  have hfld : ∀ g j, fld (testEnd c 2 0 (setAmp c x b)) g j = fld b g j := fun g j => (fld_congr hr g j).trans (fld_setAmp ..)
  exact { state := (hfld ..).trans hst, cause_ := (hfld ..).trans hcs, bit := (hfld ..).trans hbit, enable := (hfld ..).trans hen, lock := (hfld ..).trans hlock,
          gain := by rw [hg, ampOf_setAmp, hgain], test := ht, others := fun d hd hne => (hfld ..).trans (hoth d hd hne) }

theorem Faulted.of_raise {code a0 a1 : Nat} {s y : State} (h : Faulted c cause (raise code a0 a1 s) y) : Faulted c cause s y := by
  obtain ⟨h1, h2, h3, h4, h5, h6, h7, h8⟩ := h
  exact ⟨h1, h2, h3, h4, h5, h6, h7, h8⟩

end Fault

end Sys2Proof.Machine

/-!
# The states of the amplifier channels
-/

namespace Sys2Proof.Machine

theorem nodup_ampGroup (g : Nat) : (ampGroup g).Nodup := nodup_range_add (4 * g) 4

theorem mem_ampGroup {g d : Nat} : d ∈ ampGroup g ↔ d / 4 = g := by
  simp only [ampGroup, List.mem_map, List.mem_range]
  constructor
  · rintro ⟨i, hi, rfl⟩; omega
  · rintro rfl; exact ⟨d % 4, by omega, by omega⟩

theorem le_of_mem_ampGroup {g d : Nat} (hg : g < 8) (h : d ∈ ampGroup g) : d ≤ 32 := by
  have := mem_ampGroup.mp h
  omega

/-! ### Silence -/

theorem ampHeld_iff (s : State) (c : Nat) :
    ampHeld s c = true ↔ fld s Fld.AMP_SIL_CFG_HOLD c * 10 * fsHz s.fs ≤ (ampOf s c).quiet * 1000 := by
  have h10 : fld s Fld.AMP_SIL_CFG_HOLD c * 10 * fsHz s.fs = 10 * (fld s Fld.AMP_SIL_CFG_HOLD c * fsHz s.fs) := by
    rw [Nat.mul_comm _ 10, Nat.mul_assoc]
  rw [ampHeld, decide_eq_true_iff, h10]
  omega

/-- What a power-down does to one channel. -/
def powerDown (c : Nat) (s : State) : State :=
  let s := setBit Fld.AMP_SIL_STATUS_ASLEEP c s
  if ampState s c = 2 then setAmpState c 1 (setAmp c { ampOf s c with ready := false } s)
  else if ampState s c = 3 ∨ ampState s c = 4 then setAmpState c 5 (setAmp c { ampOf s c with gain := 0, stopReq := false } s)
  else s

theorem groupPowerDown_sleeps {g : Nat} {s : State} (hm : s.mode = .run) (h : ∀ d ∈ ampGroup g, fbit s Fld.AMP_SIL_CFG_EN d = true ∧
    fbit s Fld.AMP_SIL_STATUS_SILENT d = true ∧ ovrDest s d = false ∧ (ampOf s d).test = none ∧ fbit s Fld.AMP_SIL_STATUS_ASLEEP d = false) :
    groupPowerDown g s = forEach (ampGroup g) powerDown s := by
  refine if_pos ⟨hm, List.all_eq_true.mpr fun d hd => ?_⟩
  obtain ⟨h1, h2, h3, h4, h5⟩ := h d hd
  rw [h1, h2, h3, h4, h5]
  rfl

/-- What the power-down looks at and changes of a channel. -/
def sleepView (d : Nat) (s : State) : AmpSt × Nat × Nat := (ampOf s d, ampState s d, fld s Fld.AMP_SIL_STATUS_ASLEEP d)

theorem powerDown_others {c d : Nat} (hc : c ≤ 32) (hd : d ≤ 32) (h : d ≠ c) (s : State) : sleepView d (powerDown c s) = sleepView d s := by
  have hset : sleepView d (setBit Fld.AMP_SIL_STATUS_ASLEEP c s) = sleepView d s := by
    rw [setBit_eq, sleepView, ampOf_setFld, ampState_setFld _ (by decide) hc hd, fld_setFld_index (n := 8) (by decide) h]
    rfl
  have hstate : ∀ (n : Nat) (x : AmpSt) (t : State), sleepView d (setAmpState c n (setAmp c x t)) = sleepView d t := by
    intro n x t
    rw [sleepView, ampOf_setAmpState, ampOf_setAmp_ne _ _ _ _ h, ampState_setAmpState_ne _ _ hc hd h, ampState_setAmp,
      fld_setAmpState _ _ (by decide) hc hd, fld_setAmp]
    rfl
  unfold powerDown
  dsimp only
  split
  · rw [hstate, hset]
  · split
    · rw [hstate, hset]
    · exact hset

theorem powerDown_shows {c : Nat} (hc : c ≤ 32) (s : State) : fld (powerDown c s) Fld.AMP_SIL_STATUS_ASLEEP c = 1 ∧
    (ampState s c = 4 → ampState (powerDown c s) c = 5 ∧ (ampOf (powerDown c s) c).gain = 0) := by
  have hsleep : fld (setBit Fld.AMP_SIL_STATUS_ASLEEP c s) Fld.AMP_SIL_STATUS_ASLEEP c = 1 := fld_setFld _ _ _ _ (by decide) (by decide) (by decide)
  have hst : ampState (setBit Fld.AMP_SIL_STATUS_ASLEEP c s) c = ampState s c := ampState_setFld _ (by decide) hc hc _
  unfold powerDown
  dsimp only
  rw [hst]
  refine ⟨?_, fun h4 => ?_⟩
  · split
    · rw [fld_setAmpState _ _ (by decide) hc hc, fld_setAmp, hsleep]
    · split
      · rw [fld_setAmpState _ _ (by decide) hc hc, fld_setAmp, hsleep]
      · exact hsleep
  · rw [if_neg (show ¬ ampState s c = 2 by omega), if_pos (Or.inr h4)]
    exact ⟨ampState_setAmpState _ _ hc, by rw [ampOf_setAmpState, ampOf_setAmp]⟩

theorem groupPowerDown_shows {g : Fin 8} {s : State} (hm : s.mode = .run) (h : ∀ d ∈ ampGroup g.val, fbit s Fld.AMP_SIL_CFG_EN d = true ∧
    fbit s Fld.AMP_SIL_STATUS_SILENT d = true ∧ ovrDest s d = false ∧ (ampOf s d).test = none ∧ fbit s Fld.AMP_SIL_STATUS_ASLEEP d = false) :
    EndsIn (.groupPowerDown g) s (fun y => ∀ d ∈ ampGroup g.val, fld y Fld.AMP_SIL_STATUS_ASLEEP d = 1 ∧
      (ampState s d = 4 → ampState y d = 5 ∧ (ampOf y d).gain = 0)) := by
  refine ⟨_, rfl, fun d hd => ?_⟩
  rw [groupPowerDown_sleeps hm h]
  have hd32 := le_of_mem_ampGroup g.isLt hd
  obtain ⟨s', hs', hy⟩ := forEach_once (sleepView d) (f := powerDown) (nodup_ampGroup g.val) hd
    (fun a ha hne t => powerDown_others (le_of_mem_ampGroup g.isLt ha) hd32 (Ne.symm hne) t) s
  simp only [sleepView, Prod.mk.injEq] at hs' hy
  obtain ⟨-, hst, -⟩ := hs'
  obtain ⟨hamp, hyst, hya⟩ := hy
  obtain ⟨h1, h2⟩ := powerDown_shows hd32 s'
  exact ⟨hya.trans h1, fun h4 => ⟨hyst.trans (h2 (hst.trans h4)).1, by rw [hamp]; exact (h2 (hst.trans h4)).2⟩⟩

/-! ### Waking -/

theorem ampWake_loud {c : Nat} {s : State} (h : (ampOf s c).quiet ≠ 0) : ampWake c s = s := if_pos (Or.inr h)

theorem ampWake_awake {c : Nat} {s : State} (hl : ampsLive s = true) (hq : (ampOf s c).quiet = 0) (ha : fbit s Fld.AMP_SIL_STATUS_ASLEEP c = false) :
    ampWake c s = setFld Fld.AMP_SIL_STATUS_SILENT c 0 s := by
  refine (if_neg fun h => h.elim (fun h => h hl) (fun h => h hq)).trans ?_
  exact if_pos (ne_true_of_eq_false ha)

/-- Quick release asked for a group's channels. -/
def quickGroup (g : Nat) (s : State) : State := forEach (ampGroup g) (fun c s => setAmp c { ampOf s c with quick := true } s) s

theorem quickGroup_regs (g : Nat) (s : State) : (quickGroup g s).regs = s.regs := forEach_keeps State.regs _ _ (fun c s => setAmp_regs s c _) s

theorem quickGroup_quick {g d : Nat} (hd : d ∈ ampGroup g) (s : State) : (ampOf (quickGroup g s) d).quick = true := by
  obtain ⟨s', -, h⟩ := forEach_once (fun s => ampOf s d) (f := fun c s => setAmp c { ampOf s c with quick := true } s) (nodup_ampGroup g) hd
    (fun a _ hne t => ampOf_setAmp_ne _ _ _ _ (Ne.symm hne)) s
  rw [quickGroup, h, ampOf_setAmp]

theorem wakeGroup_awake {g d : Nat} (hd : d ∈ ampGroup g) (s : State) : fld (wakeGroup g s) Fld.AMP_SIL_STATUS_ASLEEP d = 0 :=
  fld_forEach_setFld (f := Fld.AMP_SIL_STATUS_ASLEEP) (by decide) (by decide) 0 hd s

theorem fld_wakeGroup {g : Nat} {f : RegField} (h : rowsApart Fld.AMP_SIL_STATUS_ASLEEP f = true) (j : Nat) (s : State) : fld (wakeGroup g s) f j = fld s f j := by
  unfold wakeGroup
  exact forEach_keeps (fun x => fld x f j) _ _ (fun o x => fld_setFld_rows h ..) s

theorem ampWake_asleep {c : Nat} {s : State} (hl : ampsLive s = true) (hq : (ampOf s c).quiet = 0) (ha : fbit s Fld.AMP_SIL_STATUS_ASLEEP c = true) :
    ∃ b, ampWake c s = ampTrigger b ∧ fld b Fld.AMP_SIL_STATUS_SILENT c = 0 ∧
      ∀ d ∈ ampGroup (c / 4), fld b Fld.AMP_SIL_STATUS_ASLEEP d = 0 ∧ (ampOf b d).quick = true := by
  refine ⟨quickGroup (c / 4) (wakeGroup (c / 4) (countFld Fld.AMP_SIL_STATUS_WAKE_COUNT c (clrBit Fld.AMP_SIL_STATUS_SILENT c s))), ?_, ?_, fun d hd => ⟨?_, ?_⟩⟩
  · refine (if_neg fun h => h.elim (fun h => h hl) (fun h => h hq)).trans ?_
    exact if_neg fun h => h ha
  · rw [fld_congr (quickGroup_regs ..), fld_wakeGroup (by decide), countFld_eq, fld_setFld_rows (by decide), clrBit_eq]
    exact fld_setFld _ _ _ _ (by decide) (by decide) (by decide)
  · rw [fld_congr (quickGroup_regs ..), wakeGroup_awake hd]
  · exact quickGroup_quick hd _

/-- The end of the settling time for one channel. -/
def settleOne (c : Nat) (s : State) : State := if ampState s c = 2 then setAmp c { ampOf s c with ready := true } s else s

theorem settleOne_regs (c : Nat) (s : State) : (settleOne c s).regs = s.regs := by
  unfold settleOne; split <;> rfl

theorem wakeSettleEnd_shows (g : Nat) (s : State) : (wakeSettleEnd g s).regs = s.regs ∧
    ∀ d ∈ ampGroup g, ampState s d = 2 → (ampOf (wakeSettleEnd g s) d).ready = true := by
  refine ⟨forEach_keeps_mem State.regs _ _ (fun a _ t => settleOne_regs a t) s, fun d hd h2 => ?_⟩
  obtain ⟨s', hs', h⟩ := forEach_once (fun s => (ampOf s d, s.regs)) (f := settleOne) (nodup_ampGroup g) hd (fun a _ hne t => by
    refine Prod.ext ?_ (settleOne_regs a t)
    show ampOf (settleOne a t) d = ampOf t d
    unfold settleOne
    split
    · exact ampOf_setAmp_ne _ _ _ _ (Ne.symm hne)
    · rfl) s
  have hst : ampState s' d = 2 := (fld_congr (congrArg Prod.snd hs') ..).trans h2
  have hamp : ampOf (wakeSettleEnd g s) d = ampOf (settleOne d s') d := congrArg Prod.fst h
  rw [hamp, settleOne, if_pos hst, ampOf_setAmp]

/-! ### Lock, stop and the end of a ramp -/

theorem gainWanted_congr {a b : State} {c : Nat} (h1 : a.power = b.power) (h2 : a.mode = b.mode) (h3 : ampOf a c = ampOf b c) : gainWanted a c = gainWanted b c := by
  rw [gainWanted, gainWanted, h1, h2, h3]

theorem carrierLock_shows {c meas : Nat} {s : State} (hc : c ≤ 32) (h3 : ampState s c = 3) (ht : (ampOf s c).test = none) : let y := carrierLock c meas s
    ampState y c = 4 ∧ fld y Fld.AMP_STATE_LOCKED c = 1 ∧ fld y Fld.AMP_STATE_FSW_MEAS c = meas % 1024 ∧
      (ampOf y c).gain = (if gainWanted s c = false then 0 else if (ampOf s c).quick then 1 else 2) := by
  obtain ⟨b, hb⟩ : ∃ b, b = setAmpState c 4 (setFld Fld.AMP_STATE_FSW_MEAS c meas (setBit Fld.AMP_STATE_LOCKED c s)) := ⟨_, rfl⟩
  have hwant : gainWanted b c = gainWanted s c := by
    refine gainWanted_congr ?_ ?_ ?_
    · rw [hb, setAmpState_eq, showGroup, setFld_power, setFld_power, setFld_power, setBit_eq, setFld_power]
    · rw [hb, setAmpState_eq, showGroup, setFld_mode, setFld_mode, setFld_mode, setBit_eq, setFld_mode]
    · rw [hb, ampOf_setAmpState, ampOf_setFld, setBit_eq, ampOf_setFld]
  have hy : carrierLock c meas s = setAmp c { ampOf s c with quick := false, gain := if ¬ gainWanted b c then 0 else if (ampOf s c).quick then 1 else 2 } b := by
    refine (if_neg fun h => h h3).trans ?_
    dsimp only
    rw [if_neg (by rw [ht]; decide), hb]
  dsimp only
  rw [hy, ampState_setAmp, fld_setAmp, fld_setAmp, ampOf_setAmp, hwant, hb]
  refine ⟨ampState_setAmpState _ _ hc, ?_, ?_, ?_⟩
  · rw [fld_setAmpState _ _ (by decide) hc hc, fld_setFld_rows (by decide), setBit_eq]
    exact fld_setFld _ _ _ _ (by decide) (by decide) (by decide)
  · rw [fld_setAmpState _ _ (by decide) hc hc]
    exact fld_setFld_mod _ (by decide) (by decide) ..
  · simp only [Bool.not_eq_true]

/-- What a clean stop looks at and changes of a channel. -/
def stopView (d : Nat) (s : State) : AmpSt × Nat := (ampOf s d, ampState s d)

theorem stopStart_others {c d : Nat} (hc : c ≤ 32) (hd : d ≤ 32) (h : d ≠ c) (s : State) : stopView d (stopStart c s) = stopView d s := by
  obtain ⟨hamp, hst⟩ := testEnd_others 2 0 (s := s) hc hd h
  have hb : stopView d (testAbort c s) = stopView d s := Prod.ext hamp hst
  have hset : ∀ (x : AmpSt) (t : State), stopView d (setAmp c x t) = stopView d t := fun x t => Prod.ext (ampOf_setAmp_ne _ _ _ _ h) (ampState_setAmp ..)
  have hstate : ∀ (n : Nat) (t : State), stopView d (setAmpState c n t) = stopView d t :=
    fun n t => Prod.ext (ampOf_setAmpState ..) (ampState_setAmpState_ne _ _ hc hd h)
  unfold stopStart
  dsimp only
  split
  · rw [hstate, hset, hb]
  · split
    · rw [hstate, hset, hb]
    · rw [hset, hb]

theorem stopStart_running {c : Nat} (hc : c ≤ 32) {s : State} (ht : (ampOf s c).test = none) (h4 : ampState s c = 4) :
    ampState (stopStart c s) c = 5 ∧ (ampOf (stopStart c s) c).stopReq = false ∧
      (ampOf (stopStart c s) c).gain = if (ampOf s c).gain = 1 ∨ (ampOf s c).gain = 2 then 3 else (ampOf s c).gain := by
  unfold stopStart
  rw [testAbort, testEnd_untested 2 0 ht]
  dsimp only
  rw [if_neg (show ¬ ampState s c = 2 by omega), if_pos (by rw [h4]; decide), ampOf_setAmpState, ampOf_setAmp]
  exact ⟨ampState_setAmpState _ _ hc, rfl, rfl⟩

theorem cleanStop_shows (s : State) : EndsIn .cleanStop s (fun y => (∀ d < 32, (ampOf s d).stopReq = true → (ampOf s d).test = none → ampState s d = 4 →
    ampState y d = 5 ∧ (ampOf y d).stopReq = false ∧ (ampOf y d).gain = if (ampOf s d).gain = 1 ∨ (ampOf s d).gain = 2 then 3 else (ampOf s d).gain) ∧
    ∀ d < 32, (ampOf s d).stopReq = false → ampState y d = ampState s d) := by
  have hle : ∀ a ∈ allAmps.filter (fun c => (ampOf s c).stopReq), a ≤ 32 := fun a ha =>
    Nat.le_of_lt (List.mem_range.mp (List.mem_filter.mp ha).1)
  refine ⟨_, rfl, fun d hd hreq ht h4 => ?_, fun d hd hreq => ?_⟩
  · have hmem : d ∈ allAmps.filter (fun c => (ampOf s c).stopReq) := List.mem_filter.mpr ⟨List.mem_range.mpr hd, hreq⟩
    have hnodup : (allAmps.filter (fun c => (ampOf s c).stopReq)).Nodup := List.nodup_range.filter _
    obtain ⟨s', hs', hy⟩ := forEach_once (stopView d) (f := stopStart) hnodup hmem (fun a ha hne t => stopStart_others (hle a ha) (Nat.le_of_lt hd) (Ne.symm hne) t) s
    have hamp : ampOf s' d = ampOf s d := congrArg Prod.fst hs'
    obtain ⟨h1, h2, h3⟩ := stopStart_running (Nat.le_of_lt hd) (s := s') (by rw [hamp, ht]) ((congrArg Prod.snd hs').trans h4)
    rw [hamp] at h3
    have hya := congrArg Prod.fst hy
    dsimp only [stopView] at hya
    exact ⟨(congrArg Prod.snd hy).trans h1, by rw [hya, h2], by rw [hya, h3]⟩
  · refine congrArg Prod.snd (forEach_keeps_mem (stopView d) _ _ (fun a ha t => stopStart_others (hle a ha) (Nat.le_of_lt hd) (fun e => ?_) t) s)
    subst e
    exact absurd (List.mem_filter.mp ha).2 (ne_true_of_eq_false hreq)

/-- A channel whose stop ramp has ended, before a release that waits for it. -/
def atRest (c : Nat) (s : State) : State :=
  let t := setAmp c { ampOf s c with gain := if (ampOf s c).gain = 2 then 1 else if (ampOf s c).gain = 3 then 0 else (ampOf s c).gain } s
  setAmpState c (restState t c) (clrBit Fld.AMP_STATE_LOCKED c (setAmp c { ampOf t c with gain := 0, side := false } t))

theorem muteRampEnd_stopping {c : Nat} {s : State} (h5 : ampState s c = 5) :
    muteRampEnd c s = ampTrigger (if (ampOf s c).test.isSome then beginRelease false false c (atRest c s) else atRest c s) := by
  unfold muteRampEnd
  dsimp only
  rw [ampState_setAmp, if_neg (fun h => h h5)]
  rfl

theorem atRest_shows {c : Nat} (hc : c ≤ 32) (s : State) : ampState (atRest c s) c = (if ampEn s c then 1 else 0) ∧
    (ampOf (atRest c s) c).gain = 0 ∧ fld (atRest c s) Fld.AMP_STATE_LOCKED c = 0 := by
  unfold atRest
  dsimp only
  refine ⟨?_, ?_, ?_⟩
  · rw [ampState_setAmpState _ _ hc, restState, show ampEn (setAmp c _ s) c = ampEn s c from fbit_setAmp ..]
    split <;> rfl
  · rw [ampOf_setAmpState, clrBit_eq, ampOf_setFld, ampOf_setAmp]
  · rw [fld_setAmpState _ _ (by decide) hc hc, clrBit_eq]
    exact fld_setFld _ _ _ _ (by decide) (by decide) (by decide)

/-! ### The release of one channel -/

section Search
variable {a b : State}

/-- The fields that the choice of a frequency reads beside the channels. -/
def bandFields : List RegField := [Fld.BAND_RANGE_LO, Fld.BAND_RANGE_HI, Fld.BAND_CFG_TYPE, Fld.BAND_CFG_SPACING, Fld.BAND_CFG_GUARD, Fld.BAND_CFG_EN,
  Fld.AMP_GCTRL_BAND_EN]

theorem bandsPass_congr (h : ∀ f ∈ bandFields, ∀ i ≤ 15, fld a f i = fld b f i) (locked : Bool) (w : Nat × Nat) : bandsPass a locked w = bandsPass b locked w := by
  simp only [bandFields, List.forall_mem_cons] at h
  obtain ⟨h1, h2, h3, h4, h5, h6, h7, -⟩ := h
  have hp : ∀ i ≤ 15, bandPasses a i locked w = bandPasses b i locked w := fun i hi => funext fun k => by
    unfold bandPasses
    rw [h1 i hi, h2 i hi, h4 i hi, h5 i hi, fbit, fbit, h3 i hi]
  have hall : (List.range 16).all (fun i => !fbit a Fld.BAND_CFG_EN i || [1, 2, 3, 4, 5].all (bandPasses a i locked w)) =
      (List.range 16).all (fun i => !fbit b Fld.BAND_CFG_EN i || [1, 2, 3, 4, 5].all (bandPasses b i locked w)) := by
    rw [Bool.eq_iff_iff, List.all_eq_true, List.all_eq_true]
    refine forall₂_congr fun i hi => ?_
    have hi' : i ≤ 15 := Nat.le_of_lt_succ (List.mem_range.mp hi)
    rw [hp i hi', fbit, fbit, h6 i hi']
  unfold bandsPass
  rw [hall, fbit, fbit, h7 0 (Nat.zero_le _)]

theorem searchFreq_congr (h : ∀ f ∈ bandFields, ∀ i ≤ 15, fld a f i = fld b f i) (locked : Bool) (fixed : List (Bool × (Nat × Nat))) (target : Nat) (l : List Int) :
    searchFreq a locked fixed target l = searchFreq b locked fixed target l := by
  induction l with
  | nil => rfl
  | cons d rest ih => simp only [searchFreq, bandsPass_congr h, ih]

theorem fixedWindows_congr (h1 : ∀ c < 32, ampState a c = ampState b c) (h2 : ∀ c, ampOf a c = ampOf b c)
    (h3 : ∀ c < 32, fld a Fld.AMP_FSW_FSW_ACT c = fld b Fld.AMP_FSW_FSW_ACT c) : fixedWindows a = fixedWindows b := by
  have hlt : ∀ c ∈ allAmps, c < 32 := fun c hc => List.mem_range.mp hc
  have hf : allAmps.filter (ampSwitching a) = allAmps.filter (ampSwitching b) := List.filter_congr fun c hc => by
    rw [ampSwitching, ampSwitching, h1 c (hlt c hc)]
  unfold fixedWindows
  rw [hf]
  refine List.map_congr_left fun c hc => ?_
  have := hlt c (List.mem_filter.mp hc).1
  simp only [h2, h3 c this]

end Search

/-- Whether a channel waits for the boundary at which it starts. -/
def waitsStart (s : State) (c : Nat) : Bool := decide (ampState s c = 2) && (ampOf s c).ready

theorem releaseGroup_idle {g : Nat} {s : State} (h : ∀ d ∈ ampGroup g, waitsStart s d = false) : releaseGroup g s = s := by
  refine if_pos (List.filter_eq_nil_iff.mpr fun d hd => ?_)
  exact ne_true_of_eq_false (h d hd)

theorem filter_ampGroup {g c : Nat} {p : Nat → Bool} (hc : c ∈ ampGroup g) (hp : p c = true) (h : ∀ d ∈ ampGroup g, d ≠ c → p d = false) :
    (ampGroup g).filter p = [c] := by
  have he : (ampGroup g).filter p = (ampGroup g).filter (· == c) := List.filter_congr fun d hd => by
    by_cases hdc : d = c
    · subst hdc; rw [hp]; exact (beq_self_eq_true d).symm
    · rw [h d hd hdc]; exact (beq_false_of_ne hdc).symm
  rw [he, List.filter_beq, (nodup_ampGroup g).count, if_pos hc, List.replicate_one]

/-- A lone channel of a group without a locked carrier starts at the frequency found for it. -/
theorem releaseGroup_lone {c f : Nat} {s : State} (hc : c < 32) (hw : waitsStart s c = true) (ho : ∀ d ∈ ampGroup (c / 4), d ≠ c → waitsStart s d = false)
    (hsync : fbit s Fld.AMP_GROUP_CFG_SYNC (c / 4) = false)
    (hf : searchFreq s false (fixedWindows s) (fld s Fld.AMP_FSW_FSW c) assignOffsets = some f) :
    ∃ b, releaseGroup (c / 4) s = startChannel false (decide (f ≠ fld s Fld.AMP_FSW_FSW c)) f c b ∧
      (∀ d, ampOf b d = ampOf s d) ∧ ∀ d ≤ 32, ampState b d = ampState s d := by
  have hcs : (ampGroup (c / 4)).filter (fun c => decide (ampState s c = 2) && (ampOf s c).ready) = [c] := filter_ampGroup (mem_ampGroup.mpr rfl) hw ho
  obtain ⟨b, hb⟩ : ∃ b, b = if (ampGroup (c / 4)).filter (ampSwitching s) = [] then countFld Fld.AMP_GROUP_STATUS_RELEASE_COUNT (c / 4) s else s := ⟨_, rfl⟩
  have hfld : ∀ g : RegField, apartTo 32 Fld.AMP_GROUP_STATUS_RELEASE_COUNT g = true → ∀ j ≤ 32, fld b g j = fld s g j := by
    intro g hg j hj
    rw [hb]
    split
    · rw [countFld_eq]; exact fld_setFld_apartTo hg (by omega) hj ..
    · rfl
  have hband : ∀ g ∈ bandFields, ∀ i ≤ 15, fld b g i = fld s g i := by
    intro g hg i hi
    have hapart : ∀ g ∈ bandFields, apartTo 15 Fld.AMP_GROUP_STATUS_RELEASE_COUNT g = true := by decide
    rw [hb]
    split
    · rw [countFld_eq]; exact fld_setFld_apartTo (hapart g hg) (by omega) hi ..
    · rfl
  have hamp : ∀ d, ampOf b d = ampOf s d := by
    intro d
    rw [hb]
    split
    · rw [countFld_eq, ampOf_setFld]
    · rfl
  have hst : ∀ d ≤ 32, ampState b d = ampState s d := fun d hd => hfld _ (by decide) d hd
  have hsearch : searchFreq b false (fixedWindows b) (fld b Fld.AMP_FSW_FSW c) assignOffsets = some f := by
    rw [searchFreq_congr hband, fixedWindows_congr (fun d hd => hst d (Nat.le_of_lt hd)) hamp (fun d hd => hfld _ (by decide) d (Nat.le_of_lt hd)),
      hfld _ (by decide) c (Nat.le_of_lt hc), hf]
  refine ⟨b, ?_, hamp, hst⟩
  unfold releaseGroup
  dsimp only
  rw [hcs, if_neg (List.cons_ne_nil c []), if_neg (ne_true_of_eq_false hsync), ← hb]
  rw [forEach, List.foldl_cons, List.foldl_nil, hsearch, hfld _ (by decide) c (Nat.le_of_lt hc)]

/-! What a start leaves. -/

section Start
variable {c f : Nat} (s : State)

theorem startChannel_shows (hc : c ≤ 32) (locked moved : Bool) : let y := startChannel locked moved f c s
    ampState y c = 3 ∧ fld y Fld.AMP_FSW_FSW_ACT c = f % 1024 ∧ fld y Fld.AMP_STATE_LOCKED c = 0 ∧ (ampOf y c).side = true ∧ (ampOf y c).gain = 0 ∧
      (ampOf y c).ready = false := by
  unfold startChannel
  dsimp only
  refine ⟨ampState_setAmpState _ _ hc, ?_, ?_, ?_, ?_, ?_⟩
  · rw [fld_setAmpState _ _ (by decide) hc hc, clrBit_eq, fld_setFld_rows (by decide), fld_setAmp]
    exact fld_setFld_mod _ (by decide) (by decide) ..
  · rw [fld_setAmpState _ _ (by decide) hc hc, clrBit_eq]
    exact fld_setFld _ _ _ _ (by decide) (by decide) (by decide)
  · rw [ampOf_setAmpState, clrBit_eq, ampOf_setFld, ampOf_setAmp]
  · rw [ampOf_setAmpState, clrBit_eq, ampOf_setFld, ampOf_setAmp]
  · rw [ampOf_setAmpState, clrBit_eq, ampOf_setFld, ampOf_setAmp]

theorem startChannel_others (hc : c ≤ 32) (locked moved : Bool) {d : Nat} (hd : d ≤ 32) (h : d ≠ c) :
    ampState (startChannel locked moved f c s) d = ampState s d ∧ ampOf (startChannel locked moved f c s) d = ampOf s d := by
  unfold startChannel
  dsimp only
  refine ⟨?_, ?_⟩
  · rw [ampState_setAmpState_ne _ _ hc hd h, clrBit_eq, ampState_setFld _ (by decide) hc hd, ampState_setAmp, ampState_setFld _ (by decide) hc hd,
      ampState_setFld _ (by decide) hc hd, clrBit_eq, ampState_setFld _ (by decide) hc hd]
  · rw [ampOf_setAmpState, clrBit_eq, ampOf_setFld, ampOf_setAmp_ne _ _ _ _ h, ampOf_setFld, ampOf_setFld, clrBit_eq, ampOf_setFld]

end Start

theorem ampRelease_lone {c : AmpId} {s : State} {f : Nat} (hl : ampsLive s = true) (h2 : ampState s c.val = 2) (hr : (ampOf s c.val).ready = true)
    (ho : ∀ d < 32, d ≠ c.val → ampState s d = 2 → (ampOf s d).ready = false) (hsync : fbit s Fld.AMP_GROUP_CFG_SYNC (c.val / 4) = false)
    (hf : searchFreq s false (fixedWindows s) (fld s Fld.AMP_FSW_FSW c.val) assignOffsets = some f) : EndsIn .ampRelease s (fun y =>
      ampState y c.val = 3 ∧ fld y Fld.AMP_FSW_FSW_ACT c.val = f % 1024 ∧ fld y Fld.AMP_STATE_LOCKED c.val = 0 ∧ (ampOf y c.val).side = true ∧
      (ampOf y c.val).gain = 0 ∧ ∀ d < 32, d ≠ c.val → ampState y d = ampState s d) := by
  have hc := c.isLt
  have hidle : ∀ d < 32, d ≠ c.val → waitsStart s d = false := by
    intro d hd hne
    unfold waitsStart
    by_cases hd2 : ampState s d = 2
    · rw [ho d hd hne hd2, Bool.and_false]
    · rw [decide_eq_false hd2, Bool.false_and]
  have hlt : ∀ g < 8, ∀ d ∈ ampGroup g, d < 32 := fun g hg d hd => by have := mem_ampGroup.mp hd; omega
  obtain ⟨b, hb, hamp, hst⟩ := releaseGroup_lone hc (by rw [waitsStart, h2, hr]; rfl)
    (fun d hd hne => hidle d (hlt _ (by omega) d hd) hne) hsync hf
  have hoth : ∀ d < 32, d ≠ c.val → ampState (releaseGroup (c.val / 4) s) d = ampState s d ∧ ampOf (releaseGroup (c.val / 4) s) d = ampOf s d := by
    intro d hd hne
    obtain ⟨h1, h2⟩ := startChannel_others b (f := f) (Nat.le_of_lt hc) false (decide (f ≠ fld s Fld.AMP_FSW_FSW c.val)) (Nat.le_of_lt hd) hne
    rw [hb, h1, h2, hamp, hst d (Nat.le_of_lt hd)]
    exact ⟨rfl, rfl⟩
  have hall : forEach (List.range 8) releaseGroup s = releaseGroup (c.val / 4) s := by
    refine forEach_only List.nodup_range (List.mem_range.mpr (by omega)) (fun g hg hne => ?_) (fun g hg hne => ?_)
    · refine releaseGroup_idle fun d hd => hidle d (hlt g (List.mem_range.mp hg) d hd) fun e => hne ?_
      subst e; exact (mem_ampGroup.mp hd).symm
    · refine releaseGroup_idle fun d hd => ?_
      have hd32 := hlt g (List.mem_range.mp hg) d hd
      have hdc : d ≠ c.val := fun e => hne (by subst e; exact (mem_ampGroup.mp hd).symm)
      obtain ⟨h1, h2⟩ := hoth d hd32 hdc
      rw [waitsStart, h1, h2]
      exact hidle d hd32 hdc
  refine ⟨releaseGroup (c.val / 4) s, congrArg _ ((if_pos hl).trans hall), ?_⟩
  obtain ⟨h1, h2, h3, h4, h5, -⟩ := startChannel_shows b (f := f) (Nat.le_of_lt hc) false (decide (f ≠ fld s Fld.AMP_FSW_FSW c.val))
  refine ⟨?_, ?_, ?_, ?_, ?_, fun d hd hne => (hoth d hd hne).1⟩
  · rw [hb, h1]
  · rw [hb, h2]
  · rw [hb, h3]
  · rw [hb, h4]
  · rw [hb, h5]

/-! ### Faults -/

/-- A fault command whose condition holds stops the channel with its cause. -/
theorem endsIn_faulted {i : Instr} {c cause code a0 a1 : Nat} {s : State} (hx : exec i s = .next (faultStop c cause (raise code a0 a1 s))) (hc : c < 32)
    (hcause : cause < 8) : EndsIn i s (Faulted c cause s) := ⟨_, hx, (faulted_faultStop _ (Nat.le_of_lt hc) hcause).of_raise⟩

/-- Settles O50. -/
theorem ampStates : Obligations.AmpStates := by
  unfold Obligations.AmpStates
  intro c s
  have hc := c.isLt
  refine ⟨fun hl hh => ?_, fun hh => ?_, ampHeld_iff s c.val, fun g hm h => groupPowerDown_shows hm h, fun g hm => ?_, fun hq => congrArg _ (ampWake_loud hq),
    fun hl hq ha => congrArg _ (ampWake_awake hl hq ha), fun hl hq ha => ⟨_, rfl, ampWake_asleep hl hq ha⟩, fun g => ⟨_, rfl, wakeSettleEnd_shows g.val s⟩,
    fun f hl h2 hr ho hsync hf => ampRelease_lone hl h2 hr ho hsync hf, fun hl => ?_, fun meas h3 ht => ⟨_, rfl, carrierLock_shows (Nat.le_of_lt hc) h3 ht⟩,
    cleanStop_shows s, fun h5 => congrArg _ (if_pos h5), fun h5 => ⟨_, rfl, atRest c.val s, muteRampEnd_stopping h5, atRest_shows (Nat.le_of_lt hc) s⟩,
    fun hl => endsIn_faulted (congrArg _ (if_pos hl)) hc (by decide), fun hi hs => ⟨congrArg _ (if_pos ⟨hi, hs⟩), endsIn_faulted (congrArg _ (if_pos ⟨hi, hs⟩)) hc (by decide)⟩,
    fun hi => ⟨congrArg _ (if_neg fun h => ne_true_of_eq_false hi h.1), congrArg _ (if_neg fun h => ne_true_of_eq_false hi h.1)⟩,
    fun hdc hl => endsIn_faulted (congrArg _ (if_pos ⟨hdc, hl⟩)) hc (by decide), fun hs hk carrier => endsIn_faulted (congrArg _ (if_pos ⟨hs, Or.inr hk⟩)) hc (by decide),
    fun hk => congrArg _ (if_neg fun h => h.2.elim (fun h => h rfl) (ne_true_of_eq_false hk))⟩
  · exact congrArg _ (if_pos (by rw [hl, hh]; rfl))
  · exact congrArg _ (if_neg (by rw [hh, Bool.and_false]; exact Bool.false_ne_true))
  · exact congrArg _ (if_neg fun h => hm h.1)
  · exact congrArg _ (if_neg (ne_true_of_eq_false hl))

end Sys2Proof.Machine

/-!
# Limits, energy, diagnostics and the core voltage
-/

namespace Sys2Proof.Machine

/-! ### Masks -/

theorem testBit_add_two_pow {a i j : Nat} (hj : a.testBit j = false) (h : i ≠ j) : (a + 2 ^ j).testBit i = a.testBit i := by
  rcases Nat.lt_or_gt_of_ne h with hlt | hgt
  · rw [Nat.add_comm]; exact Nat.testBit_two_pow_add_gt hlt a
  · obtain ⟨k, rfl⟩ : ∃ k, i = k + (j + 1) := ⟨i - (j + 1), by omega⟩
    have heven : a / 2 ^ j % 2 = 0 := by
      rw [Nat.testBit_eq_decide_div_mod_eq] at hj
      have := of_decide_eq_false hj
      omega
    have hdiv : (a + 2 ^ j) / 2 ^ (j + 1) = a / 2 ^ (j + 1) := by
      rw [Nat.pow_succ, ← Nat.div_div_eq_div_mul, ← Nat.div_div_eq_div_mul, Nat.add_div_right _ (Nat.two_pow_pos j)]
      omega
    rw [← Nat.testBit_div_two_pow, ← Nat.testBit_div_two_pow, hdiv]

theorem testBit_eq_nat (w i : Nat) : testBit w i = w.testBit i := by
  rw [testBit, Nat.testBit_eq_decide_div_mod_eq, Nat.shiftRight_eq_div_pow]

/-- Every number of a list is set in its mask. -/
theorem testBit_maskOf {i : Nat} {l : List Nat} (h : i ∈ l) : testBit (maskOf l) i = true := by
  have hkeep : ∀ (l : List Nat) (a : Nat), testBit a i = true → testBit (l.foldl (fun a i => if testBit a i then a else a + 2 ^ i) a) i = true := by
    intro l
    induction l with
    | nil => exact fun a ha => ha
    | cons j l ih =>
      intro a ha
      rw [List.foldl_cons]
      refine ih _ ?_
      split
      next => exact ha
      next hj =>
        have hij : i ≠ j := fun e => hj (e ▸ ha)
        rw [testBit_eq_nat] at ha hj ⊢
        rw [testBit_add_two_pow (Bool.eq_false_iff.mpr hj) hij, ha]
  obtain ⟨before, after, rfl⟩ := List.append_of_mem h
  rw [maskOf, List.foldl_append, List.foldl_cons]
  refine hkeep _ _ ?_
  split
  next hb => exact hb
  next hb =>
    rw [testBit_eq_nat] at hb ⊢
    rw [Nat.add_comm, Nat.testBit_two_pow_add_eq, Bool.eq_false_iff.mpr hb]
    rfl

/-! ### Rows at another index -/

/-- Whether two fields share no bit at different indices up to `n`. -/
def apartNe (n : Nat) (f g : RegField) : Bool :=
  apartTo n f g || (decide (f.base = g.base) && match f.stride, g.stride with
    | .lin a, .lin b => decide (a = b ∧ 0 < b)
    | _, _ => false)

theorem fld_setFld_apartNe {n : Nat} {f g : RegField} (h : apartNe n f g = true) {i j : Nat} (hi : i ≤ n) (hj : j ≤ n) (hne : j ≠ i) (v : Nat) (s : State) :
    fld (setFld f i v s) g j = fld s g j := by
  unfold apartNe at h
  obtain h | h := Bool.or_eq_true_iff.mp h
  · exact fld_setFld_apartTo h hi hj ..
  · obtain ⟨hb, h⟩ := Bool.and_eq_true_iff.mp h
    split at h
    next a b hf hg =>
      obtain ⟨rfl, hpos⟩ := of_decide_eq_true h
      exact fld_setFld_index ⟨hf, hg, of_decide_eq_true hb, hpos⟩ hne ..
    next => cases h

/-! ### Jobs that start -/

/-- The state to which the record of a job has been added. -/
def jobAdded (h : Nat) (r : Req) (work : JobWork) (s : State) : State := { s with jobs := s.jobs ++ [newJob h r s work] }

/-- A job starts where there is room for it, under its handle. -/
theorem startJob_room {h : Nat} {s : State} (hr : JobRoom h s) (r : Req) (work : JobWork) (k : Nat → State → State) :
    startJob r h work k s = jobRep h (k h (jobAdded h r work s)) := by
  have hp : pickHandle s h = h := if_pos hr.2
  unfold startJob
  rw [if_neg (Nat.not_le.mpr hr.1), hp]
  rfl

/-! ### Limit registers -/

theorem limStore_eq (c i v : Nat) (s : State) : limStore c i v s = ampTrigger (showArmed c (setBit Fld.LIM_STATUS_WRITTEN c
    (setRegWord (limAddr c i) (BitVec.ofNat 32 (if i = 4 then v % 4 else v)) (setAmp c { ampOf s c with limDone := maskOf (i :: bitList 5 (ampOf s c).limDone) } s)))) :=
  (rfl)

theorem limStore_shows (c : Nat) {i w : Nat} (hi : i < 5) (hw : w < 2 ^ 32) (s : State) : ∃ b, limStore c i w s = ampTrigger b ∧
    (regWord b (limAddr c i)).toNat = (if i = 4 then w % 4 else w) ∧ fld b Fld.LIM_STATUS_WRITTEN c = 1 ∧ testBit (ampOf b c).limDone i = true := by
  refine ⟨_, limStore_eq .., ?_, ?_, ?_⟩
  · have hne : ∀ f : RegField, f.base = 0x43014 → f.stride = .lin 0x20 → limAddr c i ≠ fieldAddr f c := by
      intro f hb hs
      rw [fieldAddr, hb, hs, limAddr, strideOff]
      omega
    rw [showArmed, regWord_setFld_ne _ _ _ _ _ (hne _ rfl rfl), setBit_eq, regWord_setFld_ne _ _ _ _ _ (hne _ rfl rfl), regWord_setRegWord, BitVec.toNat_ofNat]
    refine Nat.mod_eq_of_lt ?_
    split <;> omega
  · rw [showArmed, fld_setFld_rows (by decide), setBit_eq]
    exact fld_setFld _ _ _ _ (by decide) (by decide) (by decide)
  · rw [showArmed, ampOf_setFld, setBit_eq, ampOf_setFld]
    show testBit (ampOf (setAmp c _ s) c).limDone i = true
    rw [ampOf_setAmp]
    exact testBit_maskOf (List.mem_cons_self ..)

theorem requireWrite_first {s : State} (h : s.reqLimit = false) (w : Nat) : let y := requireWrite (decide (w % 2 = 1)) s
    y.reqLimit = true ∧ fld y Fld.AMP_GCTRL_REQUIRE_LIMIT = w % 2 := by
  have hbit : bnat (decide (w % 2 = 1)) = w % 2 := by
    rcases Nat.mod_two_eq_zero_or_one w with h | h <;> rw [h] <;> rfl
  dsimp only
  rw [requireWrite, if_neg (ne_true_of_eq_false h), hbit]
  exact ⟨setFld_reqLimit .., fld_setFld _ _ _ _ (by decide) (Nat.mod_lt _ (by decide)) (by decide)⟩

theorem exec_limitWrite {c : AmpId} {i : Fin 6} {w : Word32} {s : State} (hl : ampsLive s = true) (hi : i.val < 5) :
    exec (.limitRegisterWrite c i w) s = .next (limWrite c.val i.val w.toNat s) :=
  congrArg _ ((if_neg fun h => h hl).trans (if_neg (Nat.ne_of_lt hi)))

theorem limWrite_later {c i w : Nat} {s : State} (h : testBit (ampOf s c).limDone i = true) : limWrite c i w s = setFld Fld.LIM_STATUS_LOCK_VIOL c 1 s :=
  if_pos h

theorem limWrite_outside {c i w : Nat} {s : State} (h : testBit (ampOf s c).limDone i = false) (hr : limRange i w = false) :
    limWrite c i w s = setFld Fld.AMP_GSTATUS_CFG_ERR 0 1 s :=
  (if_neg (ne_true_of_eq_false h)).trans (if_neg (ne_true_of_eq_false hr))

theorem limWrite_first {c i w : Nat} {s : State} (h : testBit (ampOf s c).limDone i = false) (hr : limRange i w = true) :
    limWrite c i w s = limStore c i w s :=
  (if_neg (ne_true_of_eq_false h)).trans (if_pos hr)

theorem forEach_range_five (f : Nat → State → State) (s : State) : forEach (List.range 5) f s = f 4 (f 3 (f 2 (f 1 (f 0 s)))) := rfl

theorem ampLimitSet_stores {c : AmpId} {r : Req} {s : State} (h : Served 0xA02 r s) (hs : Shape r 24 [1, 2, 3, 21, 22, 23]) (h0 : pb r 0 = c.val)
    (hv : ∀ i < 4, limRange i (rd r.payload (4 + 4 * i) 4) = true) (h20 : pb r 20 ≤ 3) (hw : fbit s Fld.LIM_STATUS_WRITTEN c.val = false) :
    exec (.ampLimitSet r) s = .next (answer r (ok []) (limStore c.val 4 (pb r 20) (limStore c.val 3 (rd r.payload (4 + 4 * 3) 4)
      (limStore c.val 2 (rd r.payload (4 + 4 * 2) 4) (limStore c.val 1 (rd r.payload (4 + 4 * 1) 4) (limStore c.val 0 (rd r.payload (4 + 4 * 0) 4) (served s))))))) := by
  refine exec_okRep rfl h ?_
  unfold ampLimitSet
  have hw' : (!fbit (served s) Fld.LIM_STATUS_WRITTEN c.val) = true := by rw [show fbit (served s) _ _ = false from hw]; rfl
  rw [shaped_ok hs, h0, need_true (decide_eq_true c.isLt)]
  refine (need_true (hv 0 (by decide))).trans ((need_true (hv 1 (by decide))).trans ((need_true (hv 2 (by decide))).trans
    ((need_true (hv 3 (by decide))).trans ((need_true (decide_eq_true h20)).trans ((need_true hw').trans (congrArg _ ?_))))))
  exact forEach_range_five ..

/-! ### Energy -/

section Energy
variable {c d : Nat}

/-- What a fault leaves of the fields of another channel. -/
theorem fld_faultStop_ne {cause : Nat} (hd : d ≤ 32) (hc : c ≤ 32) (hne : c ≠ d) {g : RegField} (hg : [Fld.AMP_STATE_LOCKED, Fld.AMP_STATE_ENABLE,
    Fld.AMP_STATE_STATE, Fld.AMP_FAULT_CAUSE, Fld.AMP_COUNTS_FAULT, causeField cause].all (apartNe 32 · g) = true)
    (hgroup : apartTo 32 Fld.AMP_GROUP_STATUS_STATE g = true) (s : State) : fld (faultStop d cause s) g c = fld s g c := by
  simp only [List.all_cons, List.all_nil, Bool.and_eq_true, Bool.and_true] at hg
  obtain ⟨h1, h2, h3, h4, h5, h6⟩ := hg
  have hnoted : fld (faultNoted d cause s) g c = fld s g c := by
    unfold faultNoted
    dsimp only
    rw [clrBit_eq, clrBit_eq, fld_setFld_apartNe h1 hd hc hne, fld_setFld_apartNe h2 hd hc hne, setAmpState_eq, fld_showGroup _ (by omega) hgroup hc,
      fld_setFld_apartNe h3 hd hc hne, fld_setFld_apartNe h4 hd hc hne, countFld_eq, fld_setFld_apartNe h5 hd hc hne, setBit_eq, fld_setFld_apartNe h6 hd hc hne]
  have hst := faultNoted_state (cause := cause) s hd
  rw [faultStop_eq, testAbort]
  obtain ⟨hr, -⟩ := testEnd_aside 2 0 (c := d) (s := setAmp d { ampOf (faultNoted d cause s) d with ready := false, quick := false, stopReq := false, gain := 0, side := false }
    (faultNoted d cause s)) (by rw [ampState_setAmp, hst]; decide)
  rw [fld_congr hr, fld_setAmp, hnoted]

theorem ampOf_faultStop_ne {cause : Nat} (hd : d ≤ 32) (hc : c ≤ 32) (hne : c ≠ d) (s : State) : ampOf (faultStop d cause s) c = ampOf s c := by
  rw [faultStop_eq, testAbort, (testEnd_others 2 0 hd hc hne).1, ampOf_setAmp_ne _ _ _ _ hne, faultNoted_amp]

theorem faultStop_blocks {cause : Nat} (hc : c ≤ 32) (s : State) : (ampOf (faultStop c cause s) c).blocks = (ampOf s c).blocks := by
  have hst := faultNoted_state (cause := cause) s hc
  rw [faultStop_eq, testAbort]
  obtain ⟨-, -, -, hb⟩ := testEnd_aside 2 0 (c := c) (s := setAmp c { ampOf (faultNoted c cause s) c with ready := false, quick := false, stopReq := false, gain := 0, side := false }
    (faultNoted c cause s)) (by rw [ampState_setAmp, hst]; decide)
  rw [hb, ampOf_setAmp, faultNoted_amp]

/-- The fields of a channel that the limiter reads or sets to a purpose. -/
def limFields : List RegField := [Fld.AMP_STATE_STATE, Fld.LIM_VFS_VFS, Fld.LIM_IFS_IFS, Fld.LIM_STATUS_ARMED, Fld.LIM_P100_LIMIT, Fld.LIM_STATUS_CUT,
  Fld.AMP_FAULT_ENERGY_CUT]

/-- What the limiter looks at and changes of a channel. -/
def limView (c : Nat) (s : State) : AmpSt × List Nat := (ampOf s c, limFields.map (fld s · c))

theorem limView_congr {a b : State} (ha : ampOf a c = ampOf b c) (hf : ∀ g ∈ limFields, fld a g c = fld b g c) : limView c a = limView c b :=
  Prod.ext ha (List.map_congr_left hf)

theorem limView_setFld {f : RegField} (h : ∀ g ∈ limFields, apartNe 32 f g = true) (hd : d ≤ 32) (hc : c ≤ 32) (hne : c ≠ d) (v : Nat) (s : State) :
    limView c (setFld f d v s) = limView c s :=
  limView_congr (ampOf_setFld ..) fun g hg => fld_setFld_apartNe (h g hg) hd hc hne v s

theorem limView_setAmp (hne : c ≠ d) (x : AmpSt) (s : State) : limView c (setAmp d x s) = limView c s :=
  limView_congr (ampOf_setAmp_ne _ _ _ _ hne) fun _ _ => fld_setAmp ..

theorem limView_faultStop (hd : d ≤ 32) (hc : c ≤ 32) (hne : c ≠ d) (s : State) : limView c (faultStop d 5 s) = limView c s := by
  refine limView_congr (ampOf_faultStop_ne hd hc hne s) fun g hg => ?_
  have hall : ∀ g ∈ limFields, [Fld.AMP_STATE_LOCKED, Fld.AMP_STATE_ENABLE, Fld.AMP_STATE_STATE, Fld.AMP_FAULT_CAUSE, Fld.AMP_COUNTS_FAULT, causeField 5].all
      (apartNe 32 · g) = true ∧ apartTo 32 Fld.AMP_GROUP_STATUS_STATE g = true := by decide
  exact fld_faultStop_ne hd hc hne (hall g hg).1 (hall g hg).2 s

theorem limView_fld {a b : State} (h : limView c a = limView c b) {g : RegField} (hg : g ∈ limFields) : fld a g c = fld b g c :=
  List.map_inj_left.mp (show limFields.map (fld a · c) = limFields.map (fld b · c) from congrArg Prod.snd h) g hg

/-- The blocks of a channel after one more. -/
def nextBlocks (c p : Nat) (s : State) : List Nat := (blockPower s c p :: (ampOf s c).blocks).take 1000

theorem nextBlocks_congr {a b : State} (h : limView c a = limView c b) (p : Nat) : nextBlocks c p a = nextBlocks c p b := by
  have hst : ampState a c = ampState b c := limView_fld h (g := Fld.AMP_STATE_STATE) (by decide)
  have hamp : ampOf a c = ampOf b c := congrArg Prod.fst h
  rw [nextBlocks, nextBlocks, blockPower, blockPower, ampSwitching, ampSwitching, hst, hamp, limView_fld h (g := Fld.LIM_VFS_VFS) (by decide),
    limView_fld h (g := Fld.LIM_IFS_IFS) (by decide)]

/-- The limiter's figures of one channel after a block. -/
def energyNoted (c p : Nat) (s : State) : State :=
  setFld Fld.LIM_E100_P100 c (meanPower 100 (nextBlocks c p s)) (setFld Fld.LIM_E1S_P1S c (meanPower 1000 (nextBlocks c p s))
    (setAmp c { ampOf s c with blocks := nextBlocks c p s } s))

theorem energyNoted_shows (hc : c ≤ 32) (p : Nat) (s : State) : ampOf (energyNoted c p s) c = { ampOf s c with blocks := nextBlocks c p s } ∧
    ∀ g ∈ limFields, fld (energyNoted c p s) g c = fld s g c := by
  have h1 : ∀ g ∈ limFields, apartTo 32 Fld.LIM_E100_P100 g = true ∧ apartTo 32 Fld.LIM_E1S_P1S g = true := by decide
  unfold energyNoted
  refine ⟨?_, fun g hg => ?_⟩
  · rw [ampOf_setFld, ampOf_setFld, ampOf_setAmp]
  · rw [fld_setFld_apartTo (h1 g hg).1 hc hc, fld_setFld_apartTo (h1 g hg).2 hc hc, fld_setAmp]

/-- A channel that the limiter cuts. -/
def energyCut (c why : Nat) (s : State) : State :=
  let y := faultStop c 5 (raise 0x92 c why s)
  countFld Fld.LIM_STATUS_CUT_COUNT c (setBit Fld.LIM_STATUS_CUT c (setAmp c { ampOf y c with hold := true } y))

theorem energyCut_shows (hc : c < 32) (why : Nat) (s : State) : ampState (energyCut c why s) c = 6 ∧ fld (energyCut c why s) Fld.LIM_STATUS_CUT c = 1 ∧
    (ampOf (energyCut c why s) c).hold = true ∧ fld (energyCut c why s) Fld.AMP_FAULT_ENERGY_CUT c = 1 ∧
    (ampOf (energyCut c why s) c).blocks = (ampOf s c).blocks := by
  have hc' := Nat.le_of_lt hc
  obtain ⟨hst, -, hbit, -⟩ := faulted_faultStop (cause := 5) (raise 0x92 c why s) hc' (by decide)
  have hblocks : (ampOf (faultStop c 5 (raise 0x92 c why s)) c).blocks = (ampOf s c).blocks := faultStop_blocks hc' _
  unfold energyCut
  dsimp only
  generalize faultStop c 5 (raise 0x92 c why s) = b at *
  rw [countFld_eq, setBit_eq]
  refine ⟨?_, ?_, ?_, ?_, ?_⟩
  · rw [ampState_setFld _ (by decide) hc' hc', ampState_setFld _ (by decide) hc' hc', ampState_setAmp, hst]
  · rw [fld_setFld_rows (by decide)]
    exact fld_setFld _ _ _ _ (by decide) (by decide) (by decide)
  · rw [ampOf_setFld, ampOf_setFld, ampOf_setAmp]
  · rw [fld_setFld_apartTo (by decide) hc' hc', fld_setFld_apartTo (by decide) hc' hc', fld_setAmp]
    exact hbit
  · rw [ampOf_setFld, ampOf_setFld, ampOf_setAmp, hblocks]

/-- The limiter's answer to the means of one channel. -/
def limitStep (c p100 p1s : Nat) (s : State) : State :=
  if ¬ fbit s Fld.LIM_STATUS_ARMED c then s
  else
    let l100 := fld s Fld.LIM_P100_LIMIT c
    let l1s := fld s Fld.LIM_P1S_LIMIT c
    if (l100 ≤ p100 ∨ l1s ≤ p1s) ∧ ¬ [0, 1, 6].contains (ampState s c) then energyCut c (if l100 ≤ p100 then 0 else 1) s
    else if fbit s Fld.LIM_CTRL_ACTION c then
      let overs := decide (4 * l100 ≤ 5 * p100) || decide (4 * l1s ≤ 5 * p1s)
      let x := ampOf s c
      let gr := if overs then max x.gr (Config.limAttack p100 l100 p1s l1s x.gr) else x.gr - min 50 (Config.limRecover x.gr)
      let red := bnat (decide (0 < gr))
      setFld Fld.AMP_STATE_GAIN_RED c red (setFld Fld.LIM_STATUS_REDUCING c red (setAmp c { x with gr := gr } s))
    else s

theorem energyChannel_eq (c p : Nat) (s : State) :
    energyChannel c p s = limitStep c (meanPower 100 (nextBlocks c p s)) (meanPower 1000 (nextBlocks c p s)) (energyNoted c p s) := (rfl)

theorem limitStep_others (hd : d ≤ 32) (hc : c ≤ 32) (hne : c ≠ d) (p100 p1s : Nat) (b : State) : limView c (limitStep d p100 p1s b) = limView c b := by
  unfold limitStep
  dsimp only
  split
  · rfl
  · split
    · rw [energyCut, countFld_eq, limView_setFld (by decide) hd hc hne, setBit_eq, limView_setFld (by decide) hd hc hne, limView_setAmp hne,
        limView_faultStop hd hc hne]
      rfl
    · split
      · rw [limView_setFld (by decide) hd hc hne, limView_setFld (by decide) hd hc hne, limView_setAmp hne]
      · rfl

theorem energyChannel_others (hd : d ≤ 32) (hc : c ≤ 32) (hne : c ≠ d) (p : Nat) (s : State) : limView c (energyChannel d p s) = limView c s := by
  rw [energyChannel_eq, limitStep_others hd hc hne, energyNoted, limView_setFld (by decide) hd hc hne, limView_setFld (by decide) hd hc hne, limView_setAmp hne]

theorem limitStep_shows (hc : c < 32) (p100 p1s : Nat) (b : State) : let y := limitStep c p100 p1s b
    (ampOf y c).blocks = (ampOf b c).blocks ∧
      (fbit b Fld.LIM_STATUS_ARMED c = true → ampState b c = 4 → fld b Fld.LIM_P100_LIMIT c ≤ p100 →
        ampState y c = 6 ∧ fld y Fld.LIM_STATUS_CUT c = 1 ∧ (ampOf y c).hold = true ∧ fld y Fld.AMP_FAULT_ENERGY_CUT c = 1) ∧
      (fbit b Fld.LIM_STATUS_ARMED c = false → ampState y c = ampState b c) := by
  unfold limitStep
  dsimp only
  refine ⟨?_, fun ha h4 hp => ?_, fun ha => ?_⟩
  · split
    · rfl
    · split
      · exact (energyCut_shows hc _ b).2.2.2.2
      · split
        · rw [ampOf_setFld, ampOf_setFld, ampOf_setAmp]
        · rfl
  · rw [if_neg (fun h => h ha), if_pos ⟨Or.inl hp, by rw [h4]; decide⟩]
    obtain ⟨h1, h2, h3, h4, -⟩ := energyCut_shows hc (if fld b Fld.LIM_P100_LIMIT c ≤ p100 then 0 else 1) b
    exact ⟨h1, h2, h3, h4⟩
  · rw [if_pos (ne_true_of_eq_false ha)]

theorem energyChannel_shows (hc : c < 32) (p : Nat) (s : State) : let y := energyChannel c p s
    (ampOf y c).blocks = nextBlocks c p s ∧
      (fbit s Fld.LIM_STATUS_ARMED c = true → ampState s c = 4 → fld s Fld.LIM_P100_LIMIT c ≤ meanPower 100 (nextBlocks c p s) →
        ampState y c = 6 ∧ fld y Fld.LIM_STATUS_CUT c = 1 ∧ (ampOf y c).hold = true ∧ fld y Fld.AMP_FAULT_ENERGY_CUT c = 1) ∧
      (fbit s Fld.LIM_STATUS_ARMED c = false → ampState y c = ampState s c) := by
  obtain ⟨hamp, hfld⟩ := energyNoted_shows (Nat.le_of_lt hc) p s
  have harmed : fbit (energyNoted c p s) Fld.LIM_STATUS_ARMED c = fbit s Fld.LIM_STATUS_ARMED c := by rw [fbit, fbit, hfld _ (by decide)]
  have hst : ampState (energyNoted c p s) c = ampState s c := hfld Fld.AMP_STATE_STATE (by decide)
  have hlim : fld (energyNoted c p s) Fld.LIM_P100_LIMIT c = fld s Fld.LIM_P100_LIMIT c := hfld _ (by decide)
  have h := limitStep_shows hc (meanPower 100 (nextBlocks c p s)) (meanPower 1000 (nextBlocks c p s)) (energyNoted c p s)
  rw [harmed, hst, hlim, hamp] at h
  rw [energyChannel_eq]
  exact h

end Energy

theorem energyBlock_shows {c : AmpId} (ps : List Nat) {s : State} (hl : ampsLive s = true) : EndsIn (.energyBlock ps) s (fun y =>
    let blocks := (blockPower s c.val (ps.getD c.val 0) :: (ampOf s c.val).blocks).take 1000
    (ampOf y c.val).blocks = blocks ∧
    (fbit s Fld.LIM_STATUS_ARMED c.val = true → ampState s c.val = 4 → fld s Fld.LIM_P100_LIMIT c.val ≤ meanPower 100 blocks →
      ampState y c.val = 6 ∧ fld y Fld.LIM_STATUS_CUT c.val = 1 ∧ (ampOf y c.val).hold = true ∧ fld y Fld.AMP_FAULT_ENERGY_CUT c.val = 1) ∧
    (fbit s Fld.LIM_STATUS_ARMED c.val = false → ampState y c.val = ampState s c.val)) := by
  have hnodup : allAmps.Nodup := List.nodup_range
  have hmem : c.val ∈ allAmps := List.mem_range.mpr c.isLt
  obtain ⟨s', hs', hy⟩ := forEach_once (limView c.val) (f := fun c s => energyChannel c (ps.getD c 0) s) hnodup hmem
    (fun a ha hne t => energyChannel_others (Nat.le_of_lt (List.mem_range.mp ha)) (Nat.le_of_lt c.isLt) (Ne.symm hne) (ps.getD a 0) t) s
  obtain ⟨h1, h2, h3⟩ := energyChannel_shows c.isLt (ps.getD c.val 0) s'
  have hst : ampState s' c.val = ampState s c.val := limView_fld hs' (g := Fld.AMP_STATE_STATE) (by decide)
  have harmed : fbit s' Fld.LIM_STATUS_ARMED c.val = fbit s Fld.LIM_STATUS_ARMED c.val := by rw [fbit, fbit, limView_fld hs' (by decide)]
  rw [nextBlocks_congr hs'] at h1 h2
  rw [harmed, hst, limView_fld hs' (g := Fld.LIM_P100_LIMIT) (by decide)] at h2
  rw [harmed, hst] at h3
  refine ⟨forEach allAmps (fun c s => energyChannel c (ps.getD c 0) s) s, congrArg _ (if_pos hl), ?_⟩
  generalize forEach allAmps (fun c s => energyChannel c (ps.getD c 0) s) s = y at hy ⊢
  have hamp : ampOf y c.val = ampOf (energyChannel c.val (ps.getD c.val 0) s') c.val := congrArg Prod.fst hy
  have hfld : ∀ g ∈ limFields, fld y g c.val = fld (energyChannel c.val (ps.getD c.val 0) s') g c.val := fun g hg => limView_fld hy hg
  have hsty : ampState y c.val = ampState (energyChannel c.val (ps.getD c.val 0) s') c.val := hfld Fld.AMP_STATE_STATE (by decide)
  dsimp only
  rw [hamp, hsty, hfld Fld.LIM_STATUS_CUT (by decide), hfld Fld.AMP_FAULT_ENERGY_CUT (by decide)]
  exact ⟨h1, h2, h3⟩

/-! ### Clearing a fault -/

theorem clearFault_shows {c : Nat} (hc : c ≤ 32) (s : State) : ampState (clearFault c s) c = (if ampEn s c then 1 else 0) ∧
    fld (clearFault c s) Fld.AMP_FAULT_CAUSE c = 0 := by
  unfold clearFault
  refine ⟨?_, ?_⟩
  · rw [ampState_setAmpState _ _ hc, restState]
    split <;> rfl
  · rw [fld_setAmpState _ _ (by decide) hc hc, clrBit_eq, fld_setFld_apartTo (by decide) hc hc]
    exact fld_setFld _ _ _ _ (by decide) (by decide) (by decide)

theorem energyHoldEnd_keeps {c : Nat} {s : State} (hh : (ampOf s c).hold = true) (ha : fbit s Fld.LIM_CTRL_AUTO_RESTART c = false) :
    energyHoldEnd c s = setAmp c { ampOf s c with hold := false } s :=
  (if_neg fun h => h hh).trans (if_neg fun h => ne_true_of_eq_false ha h.1)

theorem energyHoldEnd_restarts {c : Nat} {s : State} (hh : (ampOf s c).hold = true) (ha : fbit s Fld.LIM_CTRL_AUTO_RESTART c = true) (h6 : ampState s c = 6)
    (h5 : fld s Fld.AMP_FAULT_CAUSE c = 5) : energyHoldEnd c s = ampTrigger (clearFault c (setAmp c { ampOf s c with hold := false } s)) :=
  (if_neg fun h => h hh).trans (if_pos ⟨ha, h6, h5⟩)

theorem bitList_one (c : AmpId) : bitList 32 (2 ^ c.val) = [c.val] := by
  revert c; decide

theorem ampFaultClear_clears {c : AmpId} {r : Req} {s : State} {low : BitVec 32} (h : Served 0xA03 r s) (hs : Shape r 4 []) (h0 : rd r.payload 0 4 = 2 ^ c.val)
    (h6 : ampState s c.val = 6) (hh : (ampOf s c.val).hold = false) (hl : testBit low.toNat c.val = false) :
    exec (.ampFaultClear r low) s = .next (answer r (ok []) (ampTrigger (clearFault c.val (served s)))) := by
  refine exec_okRep rfl h ?_
  have h6' : ampState (served s) c.val = 6 := h6
  have hh' : (ampOf (served s) c.val).hold = false := hh
  unfold ampFaultClear
  dsimp only
  rw [h0, bitList_one, shaped_ok hs, need_true (by rw [List.all_cons, List.all_nil, hl, hh']; simp), List.filter_cons, decide_eq_true h6', if_pos rfl]
  rfl

/-! ### Diagnostics -/

theorem diagStart_running {r : Req} {h c : Nat} {s : State} (h2 : pb r 4 = 2) (h4 : ampState s c = 4) : diagStart r h c s = setAmpState c 7
    (setAmp c { ampOf s c with test := some ⟨h, 2, [(40, 0, 0), (4000, 0, 0)], rd r.payload 12 4, rd r.payload 16 4, [], true⟩ } s) := by
  have htodo : diagTodo r = [(40, 0, 0), (4000, 0, 0)] := by simp only [diagTodo, h2]
  unfold diagStart
  dsimp only
  rw [htodo, h2, decide_eq_true h4, if_pos rfl, if_pos rfl, if_pos rfl]

/-- The state in which a level test of one running channel has begun. -/
def diagBegun (r : Req) (h c : Nat) (s : State) : State :=
  diagJobCheck h (diagStart r h c (jobAdded h r (.diag (rd r.payload 0 4) 2) s))

theorem ampDiag_begins {c : AmpId} {r : Req} {s : State} {h : Nat} (hs : Shape r 20 [5, 6, 7, 9, 10, 11]) (h0 : rd r.payload 0 4 = 2 ^ c.val) (h2 : pb r 4 = 2)
    (hlo : 20 ≤ pb r 8) (hhi : pb r 8 ≤ 60) (hmay : diagMay s c.val = true) (h4 : ampState s c.val = 4) (hj : JobRoom h s) :
    ampDiag r h s = jobRep h (diagBegun r h c.val s) := by
  have hlen : diagLen r = 20 := by simp only [diagLen, h2]
  have hbad : diagBad r = none := by
    unfold diagBad
    simp [h2, hlo, hhi, hs.2 9 (by decide), hs.2 10 (by decide), hs.2 11 (by decide)]
  have hs' : Shape r 20 [5, 6, 7] := ⟨hs.1, fun o ho => hs.2 o ((by decide : [5, 6, 7] ⊆ [5, 6, 7, 9, 10, 11]) ho)⟩
  unfold ampDiag
  dsimp only
  rw [if_neg (by rw [hs.1]; decide), if_neg (by rw [h2]; decide), hlen, shaped_ok hs', hbad, h0, bitList_one, h2]
  refine (need_true (by rw [List.all_cons, hmay]; rfl)).trans ((startJob_room hj ..).trans (congrArg (jobRep h) ?_))
  have hst : ampState (diagStart r h c.val (jobAdded h r (.diag (2 ^ c.val) 2) s)) c.val = 7 := by
    rw [diagStart_running (s := jobAdded h r (.diag (2 ^ c.val) 2) s) h2 h4]
    exact ampState_setAmpState _ _ (Nat.le_of_lt c.isLt)
  rw [diagBegun, h0]
  refine congrArg (diagJobCheck h) ?_
  show forEach ([c.val].filter (fun d => [0, 1, 6].contains (ampState (diagStart r h c.val _) d))) testAbort (diagStart r h c.val _) = _
  rw [List.filter_cons, hst]
  rfl

theorem endsIn_ampDiag {c : AmpId} {r : Req} {s : State} {h : Nat} (hsv : Served 0xA00 r s) (hs : Shape r 20 [5, 6, 7, 9, 10, 11]) (h0 : rd r.payload 0 4 = 2 ^ c.val)
    (h2 : pb r 4 = 2) (hlo : 20 ≤ pb r 8) (hhi : pb r 8 ≤ 60) (hmay : diagMay s c.val = true) (h4 : ampState s c.val = 4) (hj : JobRoom h s) :
    EndsIn (.ampDiag r h) s (Replied r (accepted h) (fun b => ampState b c.val = 7 ∧
      (ampOf b c.val).test = some ⟨h, 2, [(40, 0, 0), (4000, 0, 0)], rd r.payload 12 4, rd r.payload 16 4, [], true⟩)) := by
  refine endsIn_jobRep rfl hsv (ampDiag_begins (s := served s) hs h0 h2 hlo hhi hmay h4 hj) ?_
  rw [diagBegun, ampState_core (diagJobCheck_core ..), ampOf_core (diagJobCheck_core ..),
    diagStart_running (s := jobAdded h r (.diag (rd r.payload 0 4) 2) (served s)) h2 h4, ampOf_setAmpState, ampOf_setAmp]
  exact ⟨ampState_setAmpState _ _ (Nat.le_of_lt c.isLt), rfl⟩

theorem testStep_measures {c : Nat} {z : Word32} {p : BitVec 16} {i : Nat} {t : AmpTest} {f lo hi : Nat} {e : Nat × Nat × Nat} {rest : List (Nat × Nat × Nat)} {s : State}
    (ht : (ampOf s c).test = some t) (h1 : t.test = 1) (htodo : t.todo = (f, lo, hi) :: e :: rest) (h7 : ampState s c = 7) (hlo : lo ≤ z.toNat) (hhi : z.toNat ≤ hi)
    (hi' : 10000 ≤ i) : testStep c z p i s =
      setAmp c { ampOf s c with test := some { t with todo := e :: rest, done := t.done ++ [⟨f, z.toNat, p.toNat, 0, false⟩] } } s := by
  have hnc : decide (t.test ≠ 3 ∧ i < 5000) = false := decide_eq_false fun h => by omega
  unfold testStep
  dsimp only
  rw [ht]
  dsimp only
  rw [htodo]
  dsimp only
  rw [if_neg (fun h => h h7), if_pos (List.cons_ne_nil e rest), hnc, h1, if_neg (by decide), if_neg (by decide), if_neg (fun h => Nat.not_lt.mpr hlo h.2),
    if_neg (fun h => Nat.not_lt.mpr hhi h.2), if_neg (Nat.not_lt.mpr hi')]

theorem ampDiagRead_answers {c : AmpId} {r : Req} {s : State} {d : AmpDiag} (h : Served 0xA01 r s) (hs : Shape r 4 [1, 2, 3]) (h0 : pb r 0 = c.val)
    (hd : (ampOf s c.val).diag = some d) : exec (.ampDiagRead r) s = .next (answer r (ok (ampDiagBytes c.val d)) (served s)) := by
  refine exec_okRep rfl h ?_
  unfold ampDiagRead
  rw [shaped_ok hs, h0, need_true (decide_eq_true c.isLt), show (ampOf (served s) c.val).diag = some d from hd]

theorem ampStatus_answers {c : AmpId} {r : Req} {s : State} {dc : Word32} (h : Served 0xA04 r s) (hs : Shape r 4 [1, 2, 3]) (h0 : pb r 0 = c.val) :
    exec (.ampStatus r dc) s = .next (answer r (ok (ampRecord (served s) c.val dc)) (served s)) := by
  refine exec_okRep rfl h ?_
  unfold ampStatus
  rw [shaped_ok hs, h0, need_true (decide_eq_true c.isLt)]

/-! ### The core voltage -/

theorem avsWindow_fg (s : State) : (avsWindow s).fg = { s.fg with winFrames := 0, winAbove := true } := by
  rw [avsWindow, setFld_fg, setFld_fg]

theorem avsSend_fg (v : Nat) (s : State) : (avsSend v s).fg = s.fg := by
  unfold avsSend
  split
  · rfl
  · split <;> rfl

theorem putSetpoint_half (h : Nat) (s : State) : (putSetpoint h s).fg.setHalf = h := by
  unfold putSetpoint
  split
  next he => exact he.symm
  next => rw [avsSend_fg, clrBit_eq, setFld_fg, avsWindow_fg, showSetpoint, setFld_fg, setFld_fg]

theorem avsWindowEnd_lowers {s : State} {low : Nat} (hm : s.mode = .run) (hw : avsFrames s ≤ s.fg.winFrames) (he : fbit s Fld.AVS_CTRL_ENABLE = true)
    (ha : s.fg.winAbove = true) (hlow : low = (if fbit s Fld.AVS_STATUS_TAP_FLOOR then max (avsMin s) avsCert else avsMin s)) : EndsIn .avsWindowEnd s (fun y =>
      y.fg.winFrames = 0 ∧ y.fg.winAbove = true ∧ y.fg.setHalf = min s.fg.setHalf (max low (s.fg.setHalf - 5 * fld s Fld.AVS_CTRL_STEP_DOWN))) := by
  have hx : avsWindowEnd s = avsWindow (putSetpoint (min s.fg.setHalf (max (if fbit s Fld.AVS_STATUS_TAP_FLOOR then max (avsMin s) avsCert else avsMin s)
      (s.fg.setHalf - 5 * fld s Fld.AVS_CTRL_STEP_DOWN))) s) :=
    (if_neg (not_or.mpr ⟨not_not_intro (Or.inl hm), Nat.not_lt.mpr hw⟩)).trans (if_pos ⟨he, ha⟩)
  refine endsIn_of rfl hx ?_
  rw [← hlow, avsWindow_fg]
  exact ⟨rfl, rfl, putSetpoint_half ..⟩

theorem avsPmbus_acked {s : State} {w : Nat} (hb : s.power.avsBusy = some w) (hw : w < 2048) : let y := avsPmbus true s
    y.power.avsAcked = some w ∧ y.power.avsBusy = s.power.avsNext ∧ y.power.avsNext = none ∧ fld y Fld.AVS_IF_STATUS_ACKED = w / 2 ∧
      fld y Fld.AVS_IF_STATUS_IF_FAULT = 0 := by
  obtain ⟨b, hbp, hbreg⟩ : ∃ b : State, b.power = { s.power with avsAcked := some w } ∧ avsPmbus true s = avsFollow (setFld Fld.AVS_IF_STATUS_ACKED 0 (w / 2)
      (clrBit Fld.AVS_IF_STATUS_IF_FAULT 0 b)) := by
    refine ⟨{ s with power := { s.power with avsAcked := some w } }, rfl, ?_⟩
    unfold avsPmbus
    rw [hb]
    rfl
  have hpow : (setFld Fld.AVS_IF_STATUS_ACKED 0 (w / 2) (clrBit Fld.AVS_IF_STATUS_IF_FAULT 0 b)).power = { s.power with avsAcked := some w } := by
    rw [setFld_power, clrBit_eq, setFld_power, hbp]
  have hack : fld (setFld Fld.AVS_IF_STATUS_ACKED 0 (w / 2) (clrBit Fld.AVS_IF_STATUS_IF_FAULT 0 b)) Fld.AVS_IF_STATUS_ACKED = w / 2 :=
    fld_setFld _ _ _ _ (by decide) (show w / 2 < 2 ^ 10 by omega) (by decide)
  have hflt : fld (setFld Fld.AVS_IF_STATUS_ACKED 0 (w / 2) (clrBit Fld.AVS_IF_STATUS_IF_FAULT 0 b)) Fld.AVS_IF_STATUS_IF_FAULT = 0 := by
    rw [fld_setFld_rows (by decide), clrBit_eq]
    exact fld_setFld _ _ _ _ (by decide) (by decide) (by decide)
  dsimp only
  rw [hbreg]
  generalize setFld Fld.AVS_IF_STATUS_ACKED 0 (w / 2) (clrBit Fld.AVS_IF_STATUS_IF_FAULT 0 b) = t at hpow hack hflt
  rw [avsFollow, hpow]
  exact ⟨rfl, rfl, rfl, hack, hflt⟩

theorem avsPmbus_again {s : State} {w : Nat} (hb : s.power.avsBusy = some w) (ht : s.power.avsTries < 2) :
    avsPmbus false s = { s with power := { s.power with avsTries := s.power.avsTries + 1 } } := by
  unfold avsPmbus
  rw [hb]
  exact (if_neg Bool.false_ne_true).trans (if_pos ht)

theorem tapFloorEnd_ends {s : State} (hm : s.mode ≠ .safe) (hb : ∀ h < 16, tapLoaded (brewOf s h) = false) (hf : s.fg.floorUntil ≤ s.frame) :
    let y := tapFloorEnd s
    y.fg.floorUntil = 0 ∧ fld y Fld.AVS_STATUS_TAP_FLOOR = 0 ∧ y.fg.setHalf = s.fg.setHalf := by
  obtain ⟨b, hbb, hfl, hset, hoff⟩ : ∃ b : State, tapFloorEnd s = avsFloorUpdate b ∧ b.fg.floorUntil = 0 ∧ b.fg.setHalf = s.fg.setHalf ∧ avsFloor b = false := by
    refine ⟨{ s with fg := { s.fg with floorUntil := 0 } }, ?_, rfl, rfl, ?_⟩
    · unfold tapFloorEnd
      rw [if_pos hf]
    · have hany : (List.range 16).any (fun h => tapLoaded (brewOf s h)) = false :=
        List.any_eq_false.mpr fun h hh => ne_true_of_eq_false (hb h (List.mem_range.mp hh))
      show (decide (s.mode = .safe) || (List.range 16).any (fun h => tapLoaded (brewOf s h)) || decide (s.frame < 0)) = false
      rw [hany, decide_eq_false hm, decide_eq_false (Nat.not_lt_zero _)]
      rfl
  dsimp only
  rw [hbb, avsFloorUpdate, hoff, if_neg Bool.false_ne_true, clrBit_eq, setFld_fg]
  exact ⟨hfl, fld_setFld _ _ _ _ (by decide) (by decide) (by decide), hset⟩

/-- Settles O51. -/
theorem ampLimits : Obligations.AmpLimits := by
  unfold Obligations.AmpLimits
  intro c r s
  have hc := Nat.le_of_lt c.isLt
  refine ⟨fun w hl => ⟨fun hr => endsIn_of rfl ((if_neg fun h => h hl).trans (if_pos rfl)) (requireWrite_first hr w.toNat), fun hr => ?_, fun i hi => ⟨fun hd => ?_, fun hd hr => ?_, fun hd hr => ?_⟩⟩,
    fun i w hi hw => limStore_shows c.val hi hw s, fun h hs h0 hv h20 hw => ampLimitSet_stores h hs h0 hv h20 hw, fun ps hl => energyBlock_shows ps hl,
    fun hh ha => congrArg _ (energyHoldEnd_keeps hh ha), fun hh ha h6 h5 => congrArg _ (energyHoldEnd_restarts hh ha h6 h5),
    fun low h hs h0 h6 hh hl => ampFaultClear_clears h hs h0 h6 hh hl, clearFault_shows hc s,
    fun h hsv hs h0 h2 hlo hhi hmay h4 hj => endsIn_ampDiag hsv hs h0 h2 hlo hhi hmay h4 hj,
    fun z p i t f lo hi e rest ht h1 htodo h7 hlo hhi hi' => congrArg _ (testStep_measures ht h1 htodo h7 hlo hhi hi'),
    fun d h hs h0 hd => ampDiagRead_answers h hs h0 hd, fun dc h hs h0 => ampStatus_answers h hs h0,
    fun low hm hw he ha hlow => avsWindowEnd_lowers hm hw he ha hlow, fun hw => congrArg _ (if_pos (Or.inr hw)),
    fun w hb hw => ⟨_, rfl, avsPmbus_acked hb hw⟩, fun w hb ht => congrArg _ (avsPmbus_again hb ht), ⟨_, rfl, fun hm hb hf => tapFloorEnd_ends hm hb hf⟩⟩
  · exact congrArg _ ((if_neg fun h => h hl).trans ((if_pos rfl).trans (if_pos hr)))
  · exact (exec_limitWrite hl hi).trans (congrArg _ (limWrite_later hd))
  · exact (exec_limitWrite hl hi).trans (congrArg _ (limWrite_outside hd hr))
  · exact (exec_limitWrite hl hi).trans (congrArg _ (limWrite_first hd hr))

end Sys2Proof.Machine

/-!
# Modes, temperature, mains and the shutdown
-/

namespace Sys2Proof.Machine

/-! ### Maps written byte by byte -/

section Puts
variable {α β : Type} [DecidableEq α] (d : Nat → α)

theorem smapGet_foldl_absent (l : List β) (key : β → Nat) (val : β → α) (m : SMap α) {k : Nat} (h : ∀ x ∈ l, key x ≠ k) :
    smapGet d (l.foldl (fun m x => smapSet d (key x) (val x) m) m) k = smapGet d m k := by
  induction l generalizing m with
  | nil => rfl
  | cons x l ih =>
    rw [List.foldl_cons, ih _ (fun y hy => h y (List.mem_cons_of_mem _ hy))]
    exact smapGet_set_ne _ _ _ (Ne.symm (h x (List.mem_cons_self ..)))

theorem smapGet_foldl_mem {l : List β} {key : β → Nat} (val : β → α) (hn : (l.map key).Nodup) (m : SMap α) {x : β} (h : x ∈ l) :
    smapGet d (l.foldl (fun m x => smapSet d (key x) (val x) m) m) (key x) = val x := by
  induction l generalizing m with
  | nil => cases h
  | cons y l ih =>
    obtain ⟨hy, hl⟩ := List.nodup_cons.mp hn
    rw [List.foldl_cons]
    rcases List.mem_cons.mp h with rfl | hx
    · rw [smapGet_foldl_absent d l key val _ (fun z hz e => hy (List.mem_map.mpr ⟨z, hz, e⟩))]
      exact smapGet_set_self ..
    · exact ih hl _ hx

/-- The bytes of a list put into a map from an address on, each at its place, and nothing else. -/
theorem smapGet_put (a : Nat) (bs : List α) (m : SMap α) (k : Nat) :
    smapGet d ((bs.zip (List.range bs.length)).foldl (fun m x => smapSet d (a + x.2) x.1 m) m) k =
      if h : a ≤ k ∧ k < a + bs.length then bs[k - a]'(by omega) else smapGet d m k := by
  have hsnd : ∀ x ∈ bs.zip (List.range bs.length), x.2 < bs.length := fun x hx => List.mem_range.mp (List.of_mem_zip hx).2
  split
  next h =>
    have hn : ((bs.zip (List.range bs.length)).map (fun x => a + x.2)).Nodup := by
      rw [show (fun x : α × Nat => a + x.2) = (a + ·) ∘ Prod.snd from rfl, ← List.map_map, List.map_snd_zip]
      · exact nodup_range_add a bs.length
      · exact Nat.le_of_eq List.length_range
    have hmem : (bs[k - a]'(by omega), k - a) ∈ bs.zip (List.range bs.length) := by
      refine List.mem_iff_getElem.mpr ⟨k - a, ?_, ?_⟩
      · rw [List.length_zip, List.length_range, Nat.min_self]; omega
      · rw [List.getElem_zip, List.getElem_range]
    have := smapGet_foldl_mem d (key := fun x : α × Nat => a + x.2) Prod.fst hn m hmem
    dsimp only at this
    rwa [show a + (k - a) = k by omega] at this
  next h =>
    refine smapGet_foldl_absent d _ (fun x : α × Nat => a + x.2) Prod.fst m fun x hx e => h ?_
    have := hsnd x hx
    omega

end Puts

/-! ### Pending transitions -/

/-- A transition is the next one to take effect and is shown. -/
theorem setPend_first (p : PendMode) (l : List PendMode) (s : State) (hp : p.target < 8) : let y := setPend (p :: l) s
    y.power.pend.head? = some p ∧ fld y Fld.MODE_STATUS_PENDING = p.target ∧ fld y Fld.MODE_STATUS_PEND_VALID = 1 := by
  obtain ⟨b, hb, hpow⟩ : ∃ b : State, setPend (p :: l) s = setFld Fld.MODE_STATUS_PENDING 0 p.target (setBit Fld.MODE_STATUS_PEND_VALID 0 b) ∧ b.power.pend = p :: l :=
    ⟨{ s with power := { s.power with pend := p :: l } }, rfl, rfl⟩
  dsimp only
  rw [hb, setFld_power, setBit_eq, setFld_power, hpow]
  refine ⟨rfl, fld_setFld _ _ _ _ (by decide) hp (by decide), ?_⟩
  rw [fld_setFld_rows (by decide)]
  exact fld_setFld _ _ _ _ (by decide) (by decide) (by decide)

theorem setPend_eq (l : List PendMode) (s : State) : ∃ v w, setPend l s = setFld Fld.MODE_STATUS_PENDING 0 v (setFld Fld.MODE_STATUS_PEND_VALID 0 w
    { s with power := { s.power with pend := l } }) := by
  cases l with
  | nil => exact ⟨0, 0, rfl⟩
  | cons p l => exact ⟨p.target, 1, rfl⟩

theorem switchCancel_eq (s : State) : ∃ p t, switchCancel s = { s with pair := p, traces := t } := by
  unfold switchCancel
  split
  · exact ⟨s.pair, s.traces, rfl⟩
  · split
    · exact ⟨_, _, rfl⟩
    · exact ⟨_, s.traces, rfl⟩

/-- The registers but MODE_STATUS, the power state but the pending transitions, the mode and the frame index. -/
structure SafeFrame (s y : State) : Prop where
  fields : ∀ g j, fieldAddr g j ≠ 0x500 → fld y g j = fld s g j
  power : ∃ l, y.power = { s.power with pend := l }
  mode : y.mode = s.mode
  frame : y.frame = s.frame

theorem SafeFrame.refl (s : State) : SafeFrame s s := ⟨fun _ _ _ => rfl, ⟨s.power.pend, rfl⟩, rfl, rfl⟩

theorem safeFrame_setPend (l : List PendMode) (s : State) (p : PairSt) (t : SMap TraceSt) : SafeFrame s (setPend l { s with pair := p, traces := t }) := by
  obtain ⟨v, w, h⟩ := setPend_eq l { s with pair := p, traces := t }
  rw [h]
  refine ⟨fun g j hg => ?_, ⟨l, ?_⟩, ?_, ?_⟩
  · rw [fld_setFld_other _ _ _ _ _ _ hg, fld_setFld_other _ _ _ _ _ _ hg]; rfl
  · rw [setFld_power, setFld_power]
  · rw [setFld_mode, setFld_mode]
  · rw [setFld_frame, setFld_frame]

/-- What a SAFE trigger leaves. -/
theorem safeFrame_safeTrigger (cause : Nat) (s : State) : SafeFrame s (safeTrigger cause s) := by
  unfold safeTrigger
  split
  · split
    · exact SafeFrame.refl s
    · obtain ⟨p, t, h⟩ := switchCancel_eq { s with pair := { s.pair with takeoverAt := none } }
      dsimp only
      rw [h]
      exact safeFrame_setPend _ s p t
  · split
    · exact safeFrame_setPend _ s s.pair s.traces
    · exact SafeFrame.refl s

/-- In RUN and SHADOW a trigger of SAFE that is the only one is the next transition, at the next boundary. -/
theorem safeTrigger_first {s : State} (hm : s.mode = .run ∨ s.mode = .shadow) (hone : ∀ p ∈ s.power.pend, p.target = 5 → p.cause < 2) (cause : Nat) :
    let y := safeTrigger cause s
    y.power.pend.head? = some ⟨5, s.frame + 1, cause⟩ ∧ fld y Fld.MODE_STATUS_PENDING = 5 ∧ fld y Fld.MODE_STATUS_PEND_VALID = 1 := by
  have hany : ¬ (s.power.pend.any (fun p => decide (p.target = 5 ∧ 2 ≤ p.cause)) = true) := by
    rw [List.any_eq_true]
    rintro ⟨p, hp, h⟩
    obtain ⟨h5, h2⟩ := of_decide_eq_true h
    exact absurd (hone p hp h5) (by omega)
  obtain ⟨p, t, h⟩ := switchCancel_eq { s with pair := { s.pair with takeoverAt := none } }
  have hx : safeTrigger cause s = setPend (⟨5, s.frame + 1, cause⟩ :: s.power.pend.filter (fun p => decide (p.target = 2))) { s with pair := p, traces := t } := by
    unfold safeTrigger
    rw [if_pos hm, if_neg hany]
    dsimp only
    rw [h]
  dsimp only
  rw [hx]
  exact setPend_first ⟨5, s.frame + 1, cause⟩ _ _ (by decide : 5 < 8)

/-! ### MODE_SET (R443) -/

theorem modePend_first {tgt e : Nat} {s : State} (ht : tgt < 8) (hp : s.power.pend = []) : ∃ b, modePend tgt e s = okRep (beBytes 8 e) b ∧
    (b.power.pend.head? = some ⟨tgt, e, if tgt = 5 then 1 else 0⟩ ∧ fld b Fld.MODE_STATUS_PENDING = tgt ∧ fld b Fld.MODE_STATUS_PEND_VALID = 1) ∧ b.mode = s.mode := by
  obtain ⟨p, t, h⟩ := switchCancel_eq { s with power := { s.power with seq := if s.power.seq = 4 then 0 else s.power.seq } }
  refine ⟨setPend [⟨tgt, e, if tgt = 5 then 1 else 0⟩] { s with power := { s.power with seq := if s.power.seq = 4 then 0 else s.power.seq }, pair := p, traces := t }, ?_,
    setPend_first ⟨tgt, e, if tgt = 5 then 1 else 0⟩ [] _ ht, ?_⟩
  · unfold modePend
    rw [h]
    dsimp only
    rw [hp]
    rfl
  · exact (safeFrame_setPend _ { s with power := { s.power with seq := if s.power.seq = 4 then 0 else s.power.seq } } p t).mode

section ModeSet
variable {r : Req} {s : State}

theorem modeSet_same (h : Served 0xD00 r s) (hs : Shape r 4 [1, 2, 3]) (h1 : 1 ≤ pb r 0) (h5 : pb r 0 ≤ 5) (ht : pb r 0 = modeCode s.mode) :
    exec (.modeSet r) s = .next (answer r (ok (beBytes 8 s.frame)) (served s)) := by
  refine exec_okRep rfl h ?_
  have ht' : pb r 0 = modeCode (served s).mode := ht
  unfold modeSet
  dsimp only
  rw [shaped_ok hs, need_true (decide_eq_true ⟨h1, h5⟩), if_pos ht']
  rfl

theorem modeSet_refused (h : Served 0xD00 r s) (hs : Shape r 4 [1, 2, 3]) (h1 : 1 ≤ pb r 0) (h5 : pb r 0 ≤ 5) (ht : pb r 0 ≠ modeCode s.mode)
    (hstep : modeStep s.mode (pb r 0) = false) : exec (.modeSet r) s = .next (answer r ⟨0x62, 0, modeCode s.mode, []⟩ (served s)) := by
  refine exec_error rfl h ?_
  have ht' : ¬ pb r 0 = modeCode (served s).mode := ht
  unfold modeSet
  dsimp only
  rw [shaped_ok hs, need_true (decide_eq_true ⟨h1, h5⟩), if_neg ht', need_false (show modeStep (served s).mode (pb r 0) = false from hstep)]
  show Except.error (⟨0x62, 0, modeCode s.mode % 2 ^ 32, []⟩ : Rep) = _
  cases s.mode <;> rfl

theorem modeSet_run (h : Served 0xD00 r s) (hs : Shape r 4 [1, 2, 3]) (ht : pb r 0 = 3) (hm : s.mode = .configure) (hl : liveCertified s = true)
    (hw : fbit s Fld.THERM_STATUS_WARN_ACTIVE = false) (hp : s.power.pend = []) : EndsIn (.modeSet r) s (Replied r (ok (beBytes 8 (s.frame + 2))) (fun b =>
      (b.power.pend.head? = some ⟨3, s.frame + 2, 0⟩ ∧ fld b Fld.MODE_STATUS_PENDING = 3 ∧ fld b Fld.MODE_STATUS_PEND_VALID = 1) ∧ b.mode = .configure)) := by
  obtain ⟨b, hb, hfirst, hmode⟩ := modePend_first (tgt := 3) (e := s.frame + 2) (s := served s) (by decide) hp
  refine endsIn_okRep rfl h (t := b) (Eq.trans ?_ hb) ⟨hfirst, hmode.trans hm⟩
  have hm' : (served s).mode = .configure := hm
  have hl' : liveCertified (served s) = true := hl
  have hw' : (!fbit (served s) Fld.THERM_STATUS_WARN_ACTIVE) = true := by rw [show fbit (served s) Fld.THERM_STATUS_WARN_ACTIVE = false from hw]; rfl
  unfold modeSet
  dsimp only
  rw [shaped_ok hs, ht, need_true (by decide), hm', if_neg (by decide), need_true (by rfl)]
  exact (need_true (by rw [hl']; rfl)).trans (need_true hw')

theorem modeSet_safe (h : Served 0xD00 r s) (hs : Shape r 4 [1, 2, 3]) (ht : pb r 0 = 5) (hm : s.mode = .run ∨ s.mode = .shadow)
    (hp : s.power.pend = []) : EndsIn (.modeSet r) s (Replied r (ok (beBytes 8 (s.frame + 2))) (fun b =>
      (b.power.pend.head? = some ⟨5, s.frame + 2, 1⟩ ∧ fld b Fld.MODE_STATUS_PENDING = 5 ∧ fld b Fld.MODE_STATUS_PEND_VALID = 1) ∧ b.mode = s.mode)) := by
  obtain ⟨b, hb, hfirst, hmode⟩ := modePend_first (tgt := 5) (e := s.frame + 2) (s := served s) (by decide) hp
  refine endsIn_okRep rfl h (t := b) (Eq.trans ?_ hb) ⟨hfirst, hmode⟩
  have hstep : ¬ 5 = modeCode (served s).mode ∧ modeStep (served s).mode 5 = true := by
    have : (served s).mode = .run ∨ (served s).mode = .shadow := hm
    rcases this with h | h <;> rw [h] <;> exact ⟨by decide, rfl⟩
  unfold modeSet
  dsimp only
  rw [shaped_ok hs, ht, need_true (by decide), if_neg hstep.1, need_true hstep.2]
  rfl

end ModeSet

/-! ### Temperature (R453) -/

/-- The temperature that the sensors report is shown. -/
def tempShown (t : BitVec 8) (sensor : Nat) (s : State) : State :=
  setFld Fld.THERM_STATUS_TJ_MAX 0 (wrapInt 8 t.toInt) (setFld Fld.THERM_STATUS_SENSOR 0 sensor
    (setFld Fld.THERM_STATUS_WARN_ACTIVE 0 (bnat (decide ((fld s Fld.THERM_CTRL_THERM_WARN : Int) ≤ t.toInt))) s))

/-- The start of a warning sets the flag and raises its event. -/
def warnNoted (was : Bool) (t : BitVec 8) (s : State) : State :=
  if was then s else raise 0xC1 (wrapInt 32 t.toInt) 0 (setBit Fld.THERM_STATUS_WARN_STICKY 0 s)

theorem thermalWarn_one (t : BitVec 8) (s : State) : thermalWarn [t] s =
    if ¬ decide ((fld s Fld.THERM_CTRL_THERM_WARN : Int) ≤ t.toInt) then tempShown t 0 s
    else safeTrigger 3 (warnNoted (fbit s Fld.THERM_STATUS_WARN_ACTIVE) t (tempShown t 0 s)) := by
  have hlow : -128 ≤ t.toInt := BitVec.le_toInt t
  have hbest : ((List.range [t].length).zip [t]).foldl (fun (b : Nat × Int) x => if b.2 < x.2.toInt then (x.1, x.2.toInt) else b) (0, -128) = (0, t.toInt) := by
    show (if (-128 : Int) < t.toInt then (0, t.toInt) else ((0 : Nat), (-128 : Int))) = (0, t.toInt)
    split
    · rfl
    · rw [show t.toInt = -128 by omega]
  unfold thermalWarn
  rw [hbest]
  rfl

theorem bnat_lt (b : Bool) : bnat b < 2 := by cases b <;> decide

theorem tempShown_shows (t : BitVec 8) (sensor : Nat) (s : State) : fld (tempShown t sensor s) Fld.THERM_STATUS_WARN_ACTIVE =
    bnat (decide ((fld s Fld.THERM_CTRL_THERM_WARN : Int) ≤ t.toInt)) := by
  unfold tempShown
  rw [fld_setFld_rows (by decide), fld_setFld_rows (by decide)]
  exact fld_setFld _ _ _ _ (by decide) (bnat_lt _) (by decide)

theorem warnNoted_active (was : Bool) (t : BitVec 8) (s : State) :
    fld (warnNoted was t s) Fld.THERM_STATUS_WARN_ACTIVE = fld s Fld.THERM_STATUS_WARN_ACTIVE := by
  unfold warnNoted
  split
  · rfl
  · rw [fld_raised, setBit_eq, fld_setFld_rows (by decide)]

theorem warnNoted_sticky (t : BitVec 8) (s : State) : fld (warnNoted false t s) Fld.THERM_STATUS_WARN_STICKY = 1 := by
  unfold warnNoted
  rw [if_neg Bool.false_ne_true, fld_raised]
  exact fld_setFld _ _ _ _ (by decide) (by decide) (by decide)

/-- The mode, the pending transitions and the frame index as the trigger of SAFE finds them. -/
theorem warnNoted_standing (was : Bool) (t : BitVec 8) (sensor : Nat) (s : State) : (shown (warnNoted was t (tempShown t sensor s))).1 = (shown s).1 := by
  have htemp : (shown (tempShown t sensor s)).1 = (shown s).1 := by
    rw [tempShown, standing_setFld, standing_setFld, standing_setFld]
  unfold warnNoted
  split
  · exact htemp
  · rw [shown_raise, standing_setBit, htemp]

theorem thermalWarn_shows (t : BitVec 8) (s : State) : let y := thermalWarn [t] s
    fld y Fld.THERM_STATUS_WARN_ACTIVE = bnat (decide ((fld s Fld.THERM_CTRL_THERM_WARN : Int) ≤ t.toInt)) ∧
      ((fld s Fld.THERM_CTRL_THERM_WARN : Int) ≤ t.toInt → (fbit s Fld.THERM_STATUS_WARN_ACTIVE = false → fld y Fld.THERM_STATUS_WARN_STICKY = 1) ∧
        (s.mode = .run ∨ s.mode = .shadow → (∀ p ∈ s.power.pend, p.target = 5 → p.cause < 2) →
          y.power.pend.head? = some ⟨5, s.frame + 1, 3⟩ ∧ fld y Fld.MODE_STATUS_PENDING = 5 ∧ fld y Fld.MODE_STATUS_PEND_VALID = 1)) := by
  have hactive := tempShown_shows t 0 s
  have hstand := warnNoted_standing (fbit s Fld.THERM_STATUS_WARN_ACTIVE) t 0 s
  rw [thermalWarn_one]
  by_cases hw : (fld s Fld.THERM_CTRL_THERM_WARN : Int) ≤ t.toInt
  · rw [if_neg (fun h => h (decide_eq_true hw))]
    have hkeep := safeFrame_safeTrigger 3 (warnNoted (fbit s Fld.THERM_STATUS_WARN_ACTIVE) t (tempShown t 0 s))
    refine ⟨(hkeep.fields _ _ (by decide)).trans ((warnNoted_active ..).trans hactive), fun _ => ⟨fun hwas => ?_, fun hm hp => ?_⟩⟩
    · rw [hkeep.fields _ _ (by decide), hwas, warnNoted_sticky]
    · have hmode := congrArg Standing.mode hstand
      have hpend := congrArg Standing.pend hstand
      have hframe := congrArg Standing.frame hstand
      dsimp only [shown] at hmode hpend hframe
      have := safeTrigger_first (cause := 3) (s := warnNoted (fbit s Fld.THERM_STATUS_WARN_ACTIVE) t (tempShown t 0 s)) (by rw [hmode]; exact hm) (by rw [hpend]; exact hp)
      rw [hframe] at this
      exact this
  · rw [if_pos (by rw [decide_eq_false hw]; decide)]
    exact ⟨hactive, fun h => absurd h hw⟩

/-! ### Mains (R450) -/

/-- The state after a zero cross at `us` µs has been noted. -/
def crossNoted (us k : Nat) (s : State) : State :=
  let s := { s with power := { s.power with spans := ((us - k) :: s.power.spans).take 8, lastCross := some us, missed := 0 } }
  setFld Fld.MAINS_STATUS_HALF_PERIOD 0 (halfPeriod s / 10)
    { s with power := { s.power with crosses := if decide (7900 ≤ halfPeriod s ∧ halfPeriod s ≤ 10700) then s.power.crosses + 1 else 0 } }

theorem zeroCross_eq {us k : Nat} {s : State} (he : fbit s Fld.MAINS_CTRL_MAINS_EN = true) (hm : s.mode ≠ .off) (hk : s.power.lastCross = some k) :
    zeroCross us s = if ¬ fbit (crossNoted us k s) Fld.MAINS_STATUS_PRESENT ∧ 8 ≤ (crossNoted us k s).power.crosses then mainsPresent (crossNoted us k s)
      else crossNoted us k s := by
  unfold zeroCross
  rw [if_neg (not_or.mpr ⟨not_not_intro he, hm⟩), hk]
  rfl

theorem wake_keeps (n l : Nat) (s : State) : fld (wake n l s) Fld.MAINS_STATUS_PRESENT = fld s Fld.MAINS_STATUS_PRESENT ∧
    (wake n l s).power.lastCross = s.power.lastCross ∧ (wake n l s).power.spans = s.power.spans ∧ (wake n l s).power.missed = s.power.missed := by
  unfold wake
  split
  · exact ⟨rfl, rfl, rfl, rfl⟩
  · refine ⟨?_, rfl, rfl, rfl⟩
    show fld (setFld Fld.WAKE_STATUS_SOURCE 0 n (setFld Fld.WAKE_STATUS_LANE 0 (if n = 5 then l else 0) s)) Fld.MAINS_STATUS_PRESENT = _
    rw [fld_setFld_other _ _ _ _ _ _ (by decide), fld_setFld_other _ _ _ _ _ _ (by decide)]

/-- Mains shown as present, its event raised. -/
def presentNoted (s : State) : State := raise 0xC2 0 0 (setBit Fld.MAINS_STATUS_PRESENT 0 s)

/-- A shutdown that has not reached the ramps is given up. -/
def shutGivenUp (s : State) : State :=
  if s.power.shut.phase = 1 ∨ s.power.shut.phase = 2 then { s with power := { s.power with shut := ⟨0, 0, 0, 0, 0, 0⟩ } } else s

theorem mainsPresent_eq (s : State) : mainsPresent s =
    if fbit (shutGivenUp (presentNoted s)) Fld.WAKE_CTRL_WAKE_MAINS then wake 2 0 (shutGivenUp (presentNoted s)) else shutGivenUp (presentNoted s) := (rfl)

theorem shutGivenUp_keeps (s : State) : fld (shutGivenUp s) Fld.MAINS_STATUS_PRESENT = fld s Fld.MAINS_STATUS_PRESENT ∧
    (shutGivenUp s).power.lastCross = s.power.lastCross ∧ (shutGivenUp s).power.spans = s.power.spans ∧ (shutGivenUp s).power.missed = s.power.missed := by
  unfold shutGivenUp
  split
  · exact ⟨rfl, rfl, rfl, rfl⟩
  · exact ⟨rfl, rfl, rfl, rfl⟩

theorem mainsPresent_shows (s : State) : fld (mainsPresent s) Fld.MAINS_STATUS_PRESENT = 1 ∧ (mainsPresent s).power.lastCross = s.power.lastCross ∧
    (mainsPresent s).power.spans = s.power.spans ∧ (mainsPresent s).power.missed = s.power.missed := by
  have hset : fld (presentNoted s) Fld.MAINS_STATUS_PRESENT = 1 := fld_setFld s Fld.MAINS_STATUS_PRESENT 0 1 (by decide) (by decide) (by decide)
  have hpow : (presentNoted s).power = s.power := setFld_power s Fld.MAINS_STATUS_PRESENT 0 1
  obtain ⟨h1, h2, h3, h4⟩ := shutGivenUp_keeps (presentNoted s)
  rw [hset] at h1
  rw [hpow] at h2 h3 h4
  rw [mainsPresent_eq]
  split
  · obtain ⟨w1, w2, w3, w4⟩ := wake_keeps 2 0 (shutGivenUp (presentNoted s))
    exact ⟨w1.trans h1, w2.trans h2, w3.trans h3, w4.trans h4⟩
  · exact ⟨h1, h2, h3, h4⟩

theorem fld_of_fbit {s : State} {f : RegField} {i : Nat} (hw : f.hi = f.lo) (h : fbit s f i = true) : fld s f i = 1 := by
  have hlt := fld_lt s f i
  rw [hw, Nat.add_sub_cancel_left] at hlt
  have := of_decide_eq_true h
  omega

theorem fld_of_not_fbit {s : State} {f : RegField} {i : Nat} (h : fbit s f i = false) : fld s f i = 0 := Decidable.of_not_not (of_decide_eq_false h)

theorem zeroCross_shows {us k : Nat} {s : State} (he : fbit s Fld.MAINS_CTRL_MAINS_EN = true) (hm : s.mode ≠ .off) (hk : s.power.lastCross = some k) :
    let sp := ((us - k) :: s.power.spans).take 8
    let h := sp.foldl (· + ·) 0 / sp.length
    let y := zeroCross us s
    y.power.lastCross = some us ∧ y.power.spans = sp ∧ y.power.missed = 0 ∧ (7900 ≤ h → h ≤ 10700 → 7 ≤ s.power.crosses → fld y Fld.MAINS_STATUS_PRESENT = 1) := by
  have hcross : (crossNoted us k s).power.lastCross = some us ∧ (crossNoted us k s).power.spans = ((us - k) :: s.power.spans).take 8 ∧
      (crossNoted us k s).power.missed = 0 := ⟨rfl, rfl, rfl⟩
  have hcount : (crossNoted us k s).power.crosses = if decide (7900 ≤ (((us - k) :: s.power.spans).take 8).foldl (· + ·) 0 / (((us - k) :: s.power.spans).take 8).length ∧
      (((us - k) :: s.power.spans).take 8).foldl (· + ·) 0 / (((us - k) :: s.power.spans).take 8).length ≤ 10700) then s.power.crosses + 1 else 0 := rfl
  dsimp only
  rw [zeroCross_eq he hm hk]
  generalize crossNoted us k s = b at hcross hcount
  obtain ⟨h1, h2, h3⟩ := hcross
  split
  · obtain ⟨p1, p2, p3, p4⟩ := mainsPresent_shows b
    exact ⟨p2.trans h1, p3.trans h2, p4.trans h3, fun _ _ _ => p1⟩
  next hno =>
    refine ⟨h1, h2, h3, fun hlo hhi hc => ?_⟩
    rw [decide_eq_true ⟨hlo, hhi⟩, if_pos rfl] at hcount
    have hp : fbit b Fld.MAINS_STATUS_PRESENT = true := by
      refine Decidable.byContradiction fun hp => ?_
      exact hno ⟨hp, by omega⟩
    exact fld_of_fbit rfl hp

/-- The measurements of mains start anew. -/
def crossesForgotten (s : State) : State := { s with power := { s.power with spans := [], lastCross := none, crosses := 0, missed := 0 } }

theorem fld_crossesForgotten (s : State) (g : RegField) (j : Nat) : fld (crossesForgotten s) g j = fld s g j := (rfl)
theorem crossesForgotten_missed (s : State) : (crossesForgotten s).power.missed = 0 := (rfl)
theorem shown_crossesForgotten (s : State) : (shown (crossesForgotten s)).1 = (shown s).1 := (rfl)

/-- What a loss of mains leaves for the trigger of SAFE. -/
def lossShown (s : State) : State :=
  crossesForgotten (raise 0xC2 1 (fld s Fld.MAINS_CTRL_N_MISS) (clrBit Fld.MAINS_STATUS_PRESENT 0 (setBit Fld.MAINS_STATUS_LOST_STICKY 0 s)))

/-- A shutdown begins. -/
def shutBegun (n h : Nat) (s : State) : State :=
  if fbit s Fld.MAINS_CTRL_MAINS_ACTION ∧ s.power.shut.phase = 0 ∧ s.power.boot = 0 ∧ s.mode ≠ .standby ∧ s.mode ≠ .off then
    { s with power := { s.power with shut := ⟨1, s.frame + 1, 0, modeCode s.mode, n, h⟩ } }
  else s

theorem mainsLost_eq (s : State) : mainsLost s = shutBegun (fld s Fld.MAINS_CTRL_N_MISS) (halfPeriod s) (safeTrigger 2 (lossShown s)) := (rfl)

theorem lossShown_shows (s : State) : fld (lossShown s) Fld.MAINS_STATUS_PRESENT = 0 ∧ fld (lossShown s) Fld.MAINS_STATUS_LOST_STICKY = 1 ∧
    (lossShown s).power.missed = 0 ∧ (shown (lossShown s)).1 = (shown s).1 := by
  unfold lossShown
  rw [fld_crossesForgotten, fld_raised, fld_crossesForgotten, fld_raised, shown_crossesForgotten, clrBit_eq]
  refine ⟨fld_setFld _ _ _ _ (by decide) (by decide) (by decide), ?_, crossesForgotten_missed _, ?_⟩
  · rw [fld_setFld_rows (by decide), setBit_eq]
    exact fld_setFld _ _ _ _ (by decide) (by decide) (by decide)
  · exact (congrArg Prod.fst (shown_raise ..)).trans ((standing_setFld ..).trans (standing_setFld ..))

theorem shutBegun_shows (n h : Nat) (s : State) : (shutBegun n h s).regs = s.regs ∧ (shutBegun n h s).power.missed = s.power.missed ∧
    (shutBegun n h s).power.pend = s.power.pend := by
  unfold shutBegun
  split
  · exact ⟨rfl, rfl, rfl⟩
  · exact ⟨rfl, rfl, rfl⟩

theorem mainsLost_shows (s : State) : let y := mainsLost s
    fld y Fld.MAINS_STATUS_PRESENT = 0 ∧ fld y Fld.MAINS_STATUS_LOST_STICKY = 1 ∧ y.power.missed = 0 ∧
      (s.mode = .run ∨ s.mode = .shadow → (∀ p ∈ s.power.pend, p.target = 5 → p.cause < 2) →
        y.power.pend.head? = some ⟨5, s.frame + 1, 2⟩ ∧ fld y Fld.MODE_STATUS_PENDING = 5 ∧ fld y Fld.MODE_STATUS_PEND_VALID = 1) := by
  obtain ⟨h1, h2, h3, hstand⟩ := lossShown_shows s
  have hmode := congrArg Standing.mode hstand
  have hpend := congrArg Standing.pend hstand
  have hframe := congrArg Standing.frame hstand
  dsimp only [shown] at hmode hpend hframe
  rw [mainsLost_eq]
  generalize lossShown s = b at *
  have hkeep := safeFrame_safeTrigger 2 b
  obtain ⟨l, hl⟩ := hkeep.power
  obtain ⟨hr, hmiss, hpd⟩ := shutBegun_shows (fld s Fld.MAINS_CTRL_N_MISS) (halfPeriod s) (safeTrigger 2 b)
  refine ⟨?_, ?_, ?_, fun hm hp => ?_⟩
  · rw [fld_congr hr, hkeep.fields _ _ (by decide), h1]
  · rw [fld_congr hr, hkeep.fields _ _ (by decide), h2]
  · rw [hmiss, hl, ← h3]
  · obtain ⟨f1, f2, f3⟩ := safeTrigger_first (cause := 2) (s := b) (by rw [hmode]; exact hm) (by rw [hpend]; exact hp)
    rw [hframe] at f1
    exact ⟨by rw [hpd, f1], by rw [fld_congr hr, f2], by rw [fld_congr hr, f3]⟩

/-- A half-cycle without a cross is counted. -/
def missCounted (s : State) : State := { s with power := { s.power with missed := s.power.missed + 1, crosses := 0 } }

theorem missingHalfCycle_eq {s : State} (he : fbit s Fld.MAINS_CTRL_MAINS_EN = true) (hp : fbit s Fld.MAINS_STATUS_PRESENT = true) (hm : s.mode ≠ .off) :
    missingHalfCycle s = if fld s Fld.MAINS_CTRL_N_MISS ≤ s.power.missed + 1 then mainsLost (missCounted s) else missCounted s :=
  if_neg (not_or.mpr ⟨not_not_intro he, not_or.mpr ⟨not_not_intro hp, hm⟩⟩)

/-! ### The shutdown (R451, Table 18.3) -/

theorem diagJobCheck_power (h : Nat) (s : State) : (diagJobCheck h s).power = s.power := by
  have hend : ∀ h st fin d r (t : State), (endJob h st fin d r t).power = t.power := by
    intro h st fin d r t
    unfold endJob
    split
    · rfl
    · split <;> rfl
  unfold diagJobCheck
  split
  · rfl
  · split
    · split
      · exact (hend ..).trans rfl
      · rfl
    · rfl

theorem gainGo_power (c : Nat) (s : State) : (gainGo c s).power = s.power := by
  unfold gainGo
  dsimp only
  split
  · rfl
  · split
    · split <;> rfl
    · split <;> rfl

theorem setAmpState_power (c n : Nat) (s : State) : (setAmpState c n s).power = s.power := by
  rw [setAmpState_eq, showGroup, setFld_power, setFld_power]

theorem setAmp_power' (c : Nat) (x : AmpSt) (s : State) : (setAmp c x s).power = s.power := rfl

theorem testAbort_power (c : Nat) (s : State) : (testAbort c s).power = s.power := by
  cases ht : (ampOf s c).test with
  | none => rw [testAbort, testEnd_untested 2 0 ht]
  | some t =>
    rw [testAbort, testEnd_tested 2 0 ht, diagJobCheck_power]
    unfold testLeft
    dsimp only
    split
    · split
      · rw [gainGo_power, setAmpState_power, setAmp_power']
      · rfl
    · split <;> rfl

theorem stopStart_power (c : Nat) (s : State) : (stopStart c s).power = s.power := by
  unfold stopStart
  dsimp only
  split
  · rw [setAmpState_power, setAmp_power', testAbort_power]
  · split
    · rw [setAmpState_power, setAmp_power', testAbort_power]
    · rw [setAmp_power', testAbort_power]

theorem shutChannel_power (c : Nat) (s : State) : (shutChannel c s).power = s.power := by
  unfold shutChannel
  split
  · rfl
  · exact stopStart_power c s

theorem shutChannel_others {c d : Nat} (hc : c ≤ 32) (hd : d ≤ 32) (h : d ≠ c) (s : State) : stopView d (shutChannel c s) = stopView d s := by
  unfold shutChannel
  split
  · rfl
  · exact stopStart_others hc hd h s

theorem shutdownDelayEnd_shows {s : State} (hp : s.power.shut.phase = 2) : let y := shutdownDelayEnd s
    y.power.shut.phase = 3 ∧ ∀ c < 32, ampState s c = 4 → (ampOf s c).test = none → ampState y c = 5 := by
  have hle : ∀ a ∈ allAmps, a ≤ 32 := fun a ha => Nat.le_of_lt (List.mem_range.mp ha)
  have hnodup : allAmps.Nodup := List.nodup_range
  obtain ⟨b, hb, hph, hst, hamp⟩ : ∃ b : State, shutdownDelayEnd s = forEach allAmps shutChannel b ∧ b.power.shut.phase = 3 ∧ (∀ c, ampState b c = ampState s c) ∧
      ∀ c, ampOf b c = ampOf s c :=
    ⟨{ s with power := { s.power with shut := { s.power.shut with phase := 3 } } }, if_neg (fun h => h hp), rfl, fun _ => rfl, fun _ => rfl⟩
  dsimp only
  rw [hb]
  refine ⟨?_, fun c hc h4 ht => ?_⟩
  · have hpow : (forEach allAmps shutChannel b).power = b.power := forEach_keeps State.power _ _ shutChannel_power b
    rw [hpow, hph]
  · have hmem : c ∈ allAmps := List.mem_range.mpr hc
    obtain ⟨s', hs', hy⟩ := forEach_once (stopView c) (f := shutChannel) hnodup hmem
      (fun a ha hne t => shutChannel_others (hle a ha) (Nat.le_of_lt hc) (Ne.symm hne) t) b
    have h4' : ampState s' c = 4 := (congrArg Prod.snd hs').trans ((hst c).trans h4)
    have ht' : (ampOf s' c).test = none := by
      rw [show ampOf s' c = ampOf b c from congrArg Prod.fst hs', hamp, ht]
    refine (congrArg Prod.snd hy).trans ?_
    show ampState (shutChannel c s') c = 5
    rw [shutChannel, if_neg (show ¬ ampState s' c = 5 by omega)]
    exact (stopStart_running (Nat.le_of_lt hc) ht' h4').1

/-! ### ENABLE low (R412, Table 16.4) -/

/-- ENABLE of one channel at rest goes low. -/
def lowOne (c : Nat) (s : State) : State := if ampState s c ≤ 1 then clrBit Fld.AMP_STATE_ENABLE c s else s

/-- ENABLE of a group's channels at rest goes low, unless one still stops. -/
def lowGroup (g : Nat) (s : State) : State :=
  if (ampGroup g).any (fun c => decide (ampState s c = 5)) then s else forEach (ampGroup g) lowOne s

/-- ENABLE of all channels at rest whose groups have stopped is low. -/
def enablesLow (s : State) : State := forEach (List.range 8) lowGroup s

theorem enableLowDelay_eq (s : State) : enableLowDelay s =
    if ¬ ampsStopped (enablesLow s) then enablesLow s else if (enablesLow s).power.shut.phase = 3 then standbyEnter (shutRecord (enablesLow s))
      else if (enablesLow s).power.seq = 4 then standbyEnter (enablesLow s) else enablesLow s := by
  unfold enableLowDelay enablesLow lowGroup lowOne
  rfl

/-- What the lowering of ENABLE leaves. -/
def lowFrame (s : State) : (Nat → Nat) × PowerSt × Mode := (ampState s, s.power, s.mode)

theorem lowOne_frame (c : Nat) (s : State) : lowFrame (lowOne c s) = lowFrame s := by
  unfold lowOne
  split
  · refine Prod.ext (funext fun d => ?_) rfl
    exact fld_setFld_rows (by decide) ..
  · rfl

theorem lowGroup_frame (g : Nat) (s : State) : lowFrame (lowGroup g s) = lowFrame s := by
  unfold lowGroup
  split
  · rfl
  · exact forEach_keeps lowFrame _ _ lowOne_frame s

theorem enablesLow_frame (s : State) : lowFrame (enablesLow s) = lowFrame s := by
  unfold enablesLow
  exact forEach_keeps lowFrame _ _ lowGroup_frame s

theorem lowOne_others {c d : Nat} (h : d ≠ c) (s : State) : fld (lowOne c s) Fld.AMP_STATE_ENABLE d = fld s Fld.AMP_STATE_ENABLE d := by
  unfold lowOne
  split
  · exact fld_setFld_index (n := 0x40) (by decide) h ..
  · rfl

theorem lowGroup_others {g d : Nat} (h : d / 4 ≠ g) (s : State) : fld (lowGroup g s) Fld.AMP_STATE_ENABLE d = fld s Fld.AMP_STATE_ENABLE d := by
  unfold lowGroup
  split
  · rfl
  · refine forEach_keeps_mem (fun s => fld s Fld.AMP_STATE_ENABLE d) _ _ (fun a ha t => lowOne_others (fun e => h ?_) t) s
    subst e
    exact mem_ampGroup.mp ha

theorem lowGroup_low {d : Nat} {s : State} (h1 : ampState s d ≤ 1) (h5 : ∀ c ∈ ampGroup (d / 4), ampState s c ≠ 5) :
    fld (lowGroup (d / 4) s) Fld.AMP_STATE_ENABLE d = 0 := by
  have hany : ¬ ((ampGroup (d / 4)).any (fun c => decide (ampState s c = 5)) = true) := by
    rw [List.any_eq_true]
    rintro ⟨c, hc, h⟩
    exact h5 c hc (of_decide_eq_true h)
  obtain ⟨s', hs', hy⟩ := forEach_once (fun s => (fld s Fld.AMP_STATE_ENABLE d, lowFrame s)) (f := lowOne) (nodup_ampGroup (d / 4)) (mem_ampGroup.mpr rfl)
    (fun a _ hne t => Prod.ext (lowOne_others (Ne.symm hne) t) (lowOne_frame a t)) s
  have hst : ampState s' d = ampState s d := congrFun (congrArg (fun x => x.2.1) hs') d
  unfold lowGroup
  rw [if_neg hany]
  refine (congrArg Prod.fst hy).trans ?_
  show fld (lowOne d s') Fld.AMP_STATE_ENABLE d = 0
  rw [lowOne, if_pos (by omega)]
  exact fld_setFld _ _ _ _ (by decide) (by decide) (by decide)

theorem enablesLow_low {s : State} (h5 : ∀ c < 32, ampState s c ≠ 5) {d : Nat} (hd : d < 32) (h1 : ampState s d ≤ 1) :
    fld (enablesLow s) Fld.AMP_STATE_ENABLE d = 0 := by
  obtain ⟨s', hs', hy⟩ := forEach_once (fun s => (fld s Fld.AMP_STATE_ENABLE d, lowFrame s)) (f := lowGroup) (List.nodup_range (n := 8))
    (List.mem_range.mpr (show d / 4 < 8 by omega)) (fun a _ hne t => Prod.ext (lowGroup_others (Ne.symm hne) t) (lowGroup_frame a t)) s
  have hst : ∀ c, ampState s' c = ampState s c := fun c => congrFun (congrArg (fun x => x.2.1) hs') c
  refine (congrArg Prod.fst hy).trans (lowGroup_low (by rw [hst]; exact h1) fun c hc => ?_)
  rw [hst]
  exact h5 c (by have := mem_ampGroup.mp hc; omega)

theorem ampsStopped_states {s : State} (h : ampsStopped s = true) {c : Nat} (hc : c < 32) : ampState s c ≠ 5 := by
  intro h5
  have hsw : ampSwitching s c = true := by
    rw [ampSwitching, h5]
    decide
  have hno : (!ampSwitching s c) = true := (Bool.and_eq_true_iff.mp (List.all_eq_true.mp h c (List.mem_range.mpr hc))).1
  rw [hsw] at hno
  exact Bool.noConfusion hno

theorem ampsStopped_congr {a b : State} (h : ampState a = ampState b) : ampsStopped a = ampsStopped b := by
  simp only [ampsStopped, ampSwitching, h]

/-! ### Entry into STANDBY (R446) -/

theorem shown_membersWithdraw (c : CompileJob) (s : State) : (shown (membersWithdraw c s)).1 = (shown s).1 :=
  standing_forEach _ _ s fun _ _ => shown_sendOwn ..

/-- The end of one job of a brew that is spilled. -/
def jobSpilled (j : JobRec) (s : State) : State :=
  endJob j.handle 4 3 0 (if j.opcode = 0x404 then noFrame else 0) (match j.work with
    | .compile c => membersWithdraw c (putResult (resultOf s c 2 none) s)
    | _ => s)

theorem shown_jobSpilled (j : JobRec) (s : State) : (shown (jobSpilled j s)).1 = (shown s).1 := by
  unfold jobSpilled
  rw [shown_endJob]
  split
  · rw [shown_membersWithdraw]; rfl
  · rfl

theorem shown_brewSpill (h : Nat) (s : State) : (shown (brewSpill h s)).1 = (shown s).1 := by
  unfold brewSpill
  dsimp only
  split
  · rfl
  · rw [shown_setBrew, withdrawOut, shown_setBrew]
    refine (standing_forEach _ _ _ shown_jobSpilled).trans ?_
    split
    · exact shown_floorTail s
    · rfl

theorem shown_spillAll (s : State) : (shown (spillAll s)).1 = (shown s).1 := standing_forEach _ _ s shown_brewSpill

theorem shown_freeCredits (t e vc c : Nat) (s : State) : shown (freeCredits t e vc c s) = shown s := by
  unfold freeCredits
  dsimp only
  split
  · rfl
  · exact shown_setTrace ..

theorem shown_queueDrop (t : Nat) (s : State) : shown (queueDrop t s) = shown s := by
  unfold queueDrop
  refine (shown_forEach _ _ _ fun p s => ?_).trans (shown_setTrace ..)
  split
  · exact shown_freeCredits ..
  · rfl

theorem shown_traceStop (t : Nat) (s : State) : (shown (traceStop t s)).1 = (shown s).1 := by
  have hend : ∀ x : Option Nat, ∀ u : State, (shown (match x with
      | some h => endJob h 2 0x61 11 0 u
      | none => u)).1 = (shown u).1 := by
    intro x u
    cases x with
    | none => rfl
    | some h => rw [shown_endJob]
  unfold traceStop
  refine (hend ..).trans ?_
  rw [shown_selectRef, shown_queueDrop, shown_setTrace]
  refine (standing_forEach _ _ _ fun l s => ?_).trans ?_
  · rw [standing_setRegWord, standing_setFld]
  · split
    · exact shown_traceFail ..
    · rw [shown_setTraceState, standing_setFld, shown_setTrace]

theorem standbyEnter_shows (s : State) : (standbyEnter s).mode = .standby ∧ (standbyEnter s).power.en = 3 ∧ (standbyEnter s).power.seq = 3 ∧
    (standbyEnter s).power.vault = s.power.vault := by
  obtain ⟨b, hb, hstand⟩ : ∃ b : State, standbyEnter s = { b with power := { b.power with en := 3, seq := 3, boot := 1, pend := [] } } ∧
      (shown b).1 = (shown (modeBecomes .standby s.frame s)).1 :=
    ⟨forEach (liveTraces (spillAll (modeBecomes .standby s.frame s))) traceStop (spillAll (modeBecomes .standby s.frame s)), rfl,
      (standing_forEach _ _ _ shown_traceStop).trans (shown_spillAll _)⟩
  obtain ⟨l, hl⟩ := enters_modeBecomes .standby s.frame s
  rw [hl] at hstand
  rw [hb]
  exact ⟨congrArg Standing.mode hstand, rfl, rfl, congrArg Standing.vault hstand⟩

/-! ### The shutdown record (R452) -/

theorem shutRecord_bytes (s : State) : let y := shutRecord s
    vaultByte y 0 = 0x5A ∧ vaultByte y 1 = 0x53 ∧ vaultByte y 2 = 0x48 ∧ vaultByte y 3 = 0x44 := by
  obtain ⟨rest, hlen, hv⟩ : ∃ rest : List Byte, rest.length = 28 ∧ (shutRecord s).power.vault =
      ((List.range 32).zip ((0x5A : Byte) :: 0x53 :: 0x48 :: 0x44 :: rest)).foldl (fun m p => smapSet (fun _ => 0) p.1 p.2 m) s.power.vault :=
    ⟨beBytes 8 s.power.shut.frame ++ (beBytes 6 s.power.shut.secs ++ (beBytes 1 s.power.shut.before ++ (beBytes 1 s.power.shut.nmiss ++
      (beBytes 4 s.power.shut.h ++ List.replicate 8 0)))), by simp [beBytes, leBytes], by
        rw [shutRecord, setBit_eq, setFld_power]
        simp only [List.append_assoc]
        rfl⟩
  have hn : (((List.range 32).zip ((0x5A : Byte) :: 0x53 :: 0x48 :: 0x44 :: rest)).map Prod.fst).Nodup := by
    rw [List.map_fst_zip (by simp [hlen])]
    exact List.nodup_range
  have hget : ∀ k v, (k, v) ∈ (List.range 32).zip ((0x5A : Byte) :: 0x53 :: 0x48 :: 0x44 :: rest) → vaultByte (shutRecord s) k = v := by
    intro k v h
    rw [vaultByte, hv]
    exact smapGet_foldl_mem (fun _ => 0) Prod.snd hn s.power.vault h
  have hrange : List.range 32 = 0 :: 1 :: 2 :: 3 :: List.range' 4 28 := by decide
  rw [hrange] at hget
  simp only [List.zip_cons_cons] at hget
  exact ⟨hget _ _ (by simp), hget _ _ (by simp), hget _ _ (by simp), hget _ _ (by simp)⟩

/-! ### ENABLE_LOW_DELAY as a whole -/

theorem enablesLow_state (s : State) : ampState (enablesLow s) = ampState s := (Prod.mk.inj (enablesLow_frame s)).1

theorem enablesLow_power (s : State) : (enablesLow s).power = s.power := (Prod.mk.inj (Prod.mk.inj (enablesLow_frame s)).2).1

theorem enablesLow_mode (s : State) : (enablesLow s).mode = s.mode := (Prod.mk.inj (Prod.mk.inj (enablesLow_frame s)).2).2

theorem enablesLow_stopped {s : State} (ha : ampsStopped s = true) : ¬ ¬ ampsStopped (enablesLow s) = true := by
  rw [ampsStopped_congr (enablesLow_state s)]
  exact not_not_intro ha

theorem enableLowDelay_rests {s : State} (ha : ampsStopped s = true) (hp : s.power.shut.phase ≠ 3) (hq : s.power.seq ≠ 4) :
    enableLowDelay s = enablesLow s := by
  rw [enableLowDelay_eq, if_neg (enablesLow_stopped ha), enablesLow_power, if_neg hp, if_neg hq]

theorem enableLowDelay_ends {s : State} (ha : ampsStopped s = true) (hp : s.power.shut.phase = 3) :
    enableLowDelay s = standbyEnter (shutRecord (enablesLow s)) := by
  rw [enableLowDelay_eq, if_neg (enablesLow_stopped ha), enablesLow_power, if_pos hp]

theorem shutdownEnd_shows (s : State) : let y := standbyEnter (shutRecord s)
    y.mode = .standby ∧ y.power.en = 3 ∧ y.power.seq = 3 ∧
      vaultByte y 0 = 0x5A ∧ vaultByte y 1 = 0x53 ∧ vaultByte y 2 = 0x48 ∧ vaultByte y 3 = 0x44 := by
  obtain ⟨h1, h2, h3, h4⟩ := standbyEnter_shows (shutRecord s)
  have hv : ∀ k, vaultByte (standbyEnter (shutRecord s)) k = vaultByte (shutRecord s) k := fun k => by
    rw [vaultByte, vaultByte, h4]
  refine ⟨h1, h2, h3, ?_⟩
  rw [hv, hv, hv, hv]
  exact shutRecord_bytes s

/-- Settles O52. -/
theorem modesAndMains : Obligations.ModesAndMains := by
  unfold Obligations.ModesAndMains
  intro r s
  refine ⟨fun h hs h1 h5 => ⟨modeSet_same h hs h1 h5, modeSet_refused h hs h1 h5, fun ht hm hl hw hp => modeSet_run h hs ht hm hl hw hp,
      fun ht hm hp => modeSet_safe h hs ht hm hp⟩, fun t hb => endsIn_of rfl (if_pos hb) (thermalWarn_shows t s),
    fun us he => exec_of rfl (if_pos (Or.inl (ne_true_of_eq_false he))), fun us k he hm hk => endsIn_of rfl rfl (zeroCross_shows he hm hk),
    fun he hp hm => ⟨fun hn => exec_of rfl ((missingHalfCycle_eq he hp hm).trans (if_neg (Nat.not_le.mpr hn))),
      fun hn => endsIn_of rfl ((missingHalfCycle_eq he hp hm).trans (if_pos hn)) (mainsLost_shows (missCounted s))⟩,
    fun hp => endsIn_of rfl rfl (shutdownDelayEnd_shows hp), fun hp => exec_of rfl (if_pos hp),
    fun ha hp hq => endsIn_of rfl (enableLowDelay_rests ha hp hq) ⟨enablesLow_mode s, fun c hc h1 =>
      enablesLow_low (fun c hc => ampsStopped_states ha hc) hc h1⟩,
    fun ha hp => endsIn_of rfl (enableLowDelay_ends ha hp) (shutdownEnd_shows _)⟩

end Sys2Proof.Machine

/-!
# Power, the vault and the boot flash
-/

namespace Sys2Proof.Machine

/-! ### Wake (R445) -/

/-- The engine sleeps in STANDBY: no output is raised, and it waits for a wake. -/
abbrev Asleep (s : State) : Prop := s.mode = .standby ∧ s.power.seq = 0 ∧ s.power.en = 0 ∧ s.power.boot = 1

/-- The wake has begun, and its source and lane are shown. -/
abbrev Woken (n lane : Nat) (y : State) : Prop :=
  y.power.en = 1 ∧ y.power.seq = 1 ∧ fld y Fld.WAKE_STATUS_SOURCE = n ∧ fld y Fld.WAKE_STATUS_LANE = lane

theorem wake_eq (n l : Nat) {s : State} (h : Asleep s) : wake n l s =
    { setFld Fld.WAKE_STATUS_SOURCE 0 n (setFld Fld.WAKE_STATUS_LANE 0 (if n = 5 then l else 0) s) with power := { s.power with en := 1, seq := 1 } } := by
  obtain ⟨hm, hq, he, hb⟩ := h
  unfold wake
  rw [if_neg (by rw [hm, hq, he, hb]; decide)]
  simp only [setFld_power]

theorem wakeShown {n l : Nat} (hn : n < 8) (hl : l < 64) (s : State) : let y := setFld Fld.WAKE_STATUS_SOURCE 0 n (setFld Fld.WAKE_STATUS_LANE 0 l s)
    fld y Fld.WAKE_STATUS_SOURCE = n ∧ fld y Fld.WAKE_STATUS_LANE = l := by
  dsimp only
  rw [fld_setFld_apart Fld.WAKE_STATUS_SOURCE Fld.WAKE_STATUS_LANE 0 0 n rfl (by decide) (by decide) (Or.inr (by decide))]
  exact ⟨fld_setFld _ _ _ _ (by decide) hn (by decide), fld_setFld _ _ _ _ (by decide) hl (by decide)⟩

theorem wake_wakes {n l : Nat} {s : State} (h : Asleep s) (hn : n < 8) (hl : l < 64) : Woken n (if n = 5 then l else 0) (wake n l s) := by
  obtain ⟨h1, h2⟩ := wakeShown hn (show (if n = 5 then l else 0) < 64 by split <;> omega) s
  rw [wake_eq n l h]
  generalize setFld Fld.WAKE_STATUS_SOURCE 0 n (setFld Fld.WAKE_STATUS_LANE 0 (if n = 5 then l else 0) s) = b at h1 h2 ⊢
  exact ⟨rfl, rfl, h1, h2⟩

/-! ### Modes shown at once, and what a reset of every domain leaves -/

theorem showModeNow_mode (m : Mode) (s : State) : (showModeNow m s).mode = m := by
  rw [showModeNow, setFld_mode, setFld_mode]

theorem showModeNow_power (m : Mode) (s : State) : (showModeNow m s).power = s.power := by
  rw [showModeNow, setFld_power, setFld_power]

theorem fld_showModeNow {g : RegField} (m : Mode) (s : State) {j : Nat} (hm : fieldAddr g j ≠ 0x500) (he : fieldAddr g j ≠ 0x2C) :
    fld (showModeNow m s) g j = fld s g j :=
  (fld_setFld_other _ _ _ _ _ _ he).trans (fld_setFld_other { s with mode := m } Fld.MODE_STATUS_MODE g 0 j _ hm)

theorem domainsReset_power (por dark : Bool) (s : State) : (domainsReset por dark s).power = resetPower s.power := by
  rw [domainsReset, setFld_power]

theorem domainsReset_sessions (por dark : Bool) (s : State) : (domainsReset por dark s).sessions = [] := by
  rw [domainsReset, setFld_sessions]
  rfl

/-! ### The always-on supply (R442, R447) -/

theorem vaonLoss_shows (s : State) : let y := vaonLoss s
    y.mode = .off ∧ y.power.en = 0 ∧ y.power.seq = 0 ∧ y.power.boot = 1 ∧ y.power.vault = s.power.vault ∧ y.power.seconds = s.power.seconds ∧ y.sessions = [] := by
  obtain ⟨b, hb, hp, hs⟩ : ∃ b : State, vaonLoss s = showModeNow .off b ∧
      b.power = { (domainsReset false true s).power with
        boot := 1, clear := true, report := false, en := 0, seq := 0, hot := false, spans := [], lastCross := none, crosses := 0, missed := 0 } ∧
      b.sessions = (domainsReset false true s).sessions := ⟨_, rfl, rfl, rfl⟩
  rw [domainsReset_power] at hp
  rw [domainsReset_sessions] at hs
  dsimp only
  rw [hb, showModeNow_mode, showModeNow_power, hp, showModeNow, setFld_sessions, setFld_sessions]
  exact ⟨rfl, rfl, rfl, rfl, rfl, rfl, hs⟩

theorem vaonReturn_eq (w : Bool) (n : Nat) (s : State) : vaonReturn w n s = if w then wake 6 0 (vaonReturn false n s) else vaonReturn false n s := by
  cases w <;> rfl

theorem vaonReturn_shows (n : Nat) (s : State) : let y := vaonReturn false n s
    Asleep y ∧ y.power.seconds = n ∧ y.power.vault = s.power.vault ∧ fld y Fld.RESET_CAUSE_CAUSE % 2 = 1 := by
  obtain ⟨b, hb, hp, hf⟩ : ∃ b : State, vaonReturn false n s = showModeNow .standby b ∧
      b.power = { (setCause 1 (domainsReset true true s)).power with
        boot := 1, clear := true, report := true, en := 0, seq := 0, seconds := n, secAt := 1000000000 * n } ∧
      fld b Fld.RESET_CAUSE_CAUSE = fld (setCause 1 (domainsReset true true s)) Fld.RESET_CAUSE_CAUSE := ⟨_, rfl, rfl, rfl⟩
  rw [setCause, setFld_power, domainsReset_power] at hp
  dsimp only
  rw [hb, Asleep, showModeNow_mode, showModeNow_power, hp, fld_showModeNow .standby b (by decide) (by decide), hf, setCause,
    fld_setFld_mod _ (by decide) (by decide)]
  refine ⟨⟨rfl, rfl, rfl, rfl⟩, rfl, rfl, ?_⟩
  show (fld _ Fld.RESET_CAUSE_CAUSE ||| 1) % 512 % 2 = 1
  rw [Nat.mod_mod_of_dvd _ (by decide), Nat.or_mod_two_eq_one]
  exact Or.inr rfl

/-! ### The regulators (R446) -/

theorem releaseHold_due {s : State} (hb : s.power.boot = 1) (hl : s.power.pinLow = false) (hh : s.power.hot = false) (hm : s.mode ≠ .off) (he : s.power.en = 4)
    (hq : s.power.seq = 0) : releaseHold s = { s with power := { s.power with boot := 2 } } := by
  unfold releaseHold
  exact if_pos ⟨hb, ne_true_of_eq_false hl, ne_true_of_eq_false hh, hm, he, hq⟩

theorem pwrGood_eq {s : State} (hm : s.mode ≠ .off) (hq : s.power.seq = 2) (he : s.power.en = 4) (hl : s.power.pinLow = false) (hh : s.power.hot = false) :
    pwrGood s = { setBit Fld.SUPPLY_STATUS_PWR_GOOD 0 s with power := { s.power with seq := 0, boot := 2, clear := true } } := by
  unfold pwrGood
  rw [if_neg hm]
  dsimp only
  rw [if_neg (by rw [setBit_eq, setFld_power]; exact not_not_intro hq), setBit_eq, setFld_power]
  have hmode : (setFld Fld.SUPPLY_STATUS_PWR_GOOD 0 1 s).mode = s.mode := setFld_mode ..
  generalize setFld Fld.SUPPLY_STATUS_PWR_GOOD 0 1 s = b at hmode ⊢
  exact releaseHold_due (s := { b with power := { s.power with seq := 0, boot := 1, clear := true } }) rfl hl hh (fun e => hm (hmode.symm.trans e)) he rfl

theorem pwrGood_shows {s : State} (hm : s.mode ≠ .off) (hq : s.power.seq = 2) (he : s.power.en = 4) (hl : s.power.pinLow = false) (hh : s.power.hot = false) :
    let y := pwrGood s
    y.power.boot = 2 ∧ y.power.seq = 0 ∧ y.power.clear = true ∧ y.power.en = 4 ∧ fld y Fld.SUPPLY_STATUS_PWR_GOOD = 1 := by
  dsimp only
  rw [pwrGood_eq hm hq he hl hh]
  exact ⟨rfl, rfl, rfl, he, fld_setBit (f := Fld.SUPPLY_STATUS_PWR_GOOD) (by decide) (by decide) 0 s⟩

theorem pwrGapEnd_raises {s : State} (hq : s.power.seq = 1) (hn : s.power.en + 1 < 4 ∨ fbit s Fld.SUPPLY_STATUS_PWR_GOOD = false) :
    pwrGapEnd s = { s with power := { s.power with en := s.power.en + 1, seq := if 4 ≤ s.power.en + 1 then 2 else 1 } } := by
  unfold pwrGapEnd
  dsimp only
  rw [if_pos hq]
  refine if_neg ?_
  rintro ⟨h2, hg⟩
  rcases hn with hn | hn
  · rw [if_neg (by omega)] at h2
    exact absurd h2 (by decide)
  · exact absurd (hn.symm.trans hg) (by decide)

theorem pwrGapEnd_last {s : State} (hq : s.power.seq = 1) (he : s.power.en = 3) (hg : fbit s Fld.SUPPLY_STATUS_PWR_GOOD = true) :
    pwrGapEnd s = pwrGood { s with power := { s.power with en := 4, seq := 2 } } := by
  unfold pwrGapEnd
  dsimp only
  rw [if_pos hq, he]
  exact if_pos ⟨rfl, hg⟩

theorem pwrGapEnd_lowers {s : State} (hq : s.power.seq = 3) (he : 1 < s.power.en) : pwrGapEnd s = { s with power := { s.power with en := s.power.en - 1 } } := by
  unfold pwrGapEnd
  dsimp only
  rw [if_neg (by rw [hq]; decide), if_pos hq, if_pos he]

theorem pwrGapEnd_dark {s : State} (hq : s.power.seq = 3) (he : s.power.en ≤ 1) : let y := pwrGapEnd s
    y.mode = .standby ∧ y.power.en = 0 ∧ y.power.seq = 0 ∧ y.power.boot = 1 ∧ fld y Fld.SUPPLY_STATUS_PWR_GOOD = 0 := by
  obtain ⟨n, hn⟩ : ∃ n : State, pwrGapEnd s = showModeNow .standby (clrBit Fld.SUPPLY_STATUS_PWR_GOOD 0
      { n with power := { n.power with en := 0, seq := 0, boot := 1, clear := true } }) := by
    refine ⟨domainsReset false false s, ?_⟩
    unfold pwrGapEnd
    dsimp only
    rw [if_neg (by rw [hq]; decide), if_pos hq, if_neg (Nat.not_lt.mpr he)]
  dsimp only
  rw [hn, showModeNow_mode, showModeNow_power, fld_showModeNow _ _ (by decide) (by decide), clrBit_eq, setFld_power]
  exact ⟨rfl, rfl, rfl, rfl, fld_setFld _ _ _ _ (by decide) (by decide) (by decide)⟩

/-! ### The vault (R288) -/

theorem vaultByte_put (a : Nat) (bs : List Byte) (s : State) (k : Nat) :
    vaultByte (vaultPut a bs s) k = if h : a ≤ k ∧ k < a + bs.length then bs[k - a]'(by omega) else vaultByte s k :=
  smapGet_put (fun _ => 0) a bs s.power.vault k

theorem vaultPut_shows (a : Nat) (bs : List Byte) (s : State) : (∀ i < bs.length, vaultByte (vaultPut a bs s) (a + i) = bs.getD i 0) ∧
    ∀ o, (o < a ∨ a + bs.length ≤ o) → vaultByte (vaultPut a bs s) o = vaultByte s o := by
  refine ⟨fun i hi => ?_, fun o ho => ?_⟩
  · rw [vaultByte_put, dif_pos (by omega), List.getD_eq_getElem?_getD, List.getElem?_eq_getElem hi, Option.getD_some]
    simp only [Nat.add_sub_cancel_left]
  · rw [vaultByte_put, dif_neg (by omega)]

theorem endsIn_vaultWrite {r : Req} {s : State} (hs : Served 0xD04 r s) (hlen : 5 ≤ r.payload.length) (h1 : rd r.payload 1 3 = 0) (h32 : 32 ≤ pb r 0)
    (hto : pb r 0 + (r.payload.length - 4) ≤ 256) : EndsIn (.vaultWrite r) s
      (Replied r (ok []) (fun b => (∀ i < r.payload.length - 4, vaultByte b (pb r 0 + i) = r.payload.getD (4 + i) 0) ∧
        ∀ o, (o < pb r 0 ∨ pb r 0 + (r.payload.length - 4) ≤ o) → vaultByte b o = vaultByte s o)) := by
  have hshow := vaultPut_shows (pb r 0) (r.payload.drop 4) (served s)
  rw [List.length_drop] at hshow
  obtain ⟨hin, hout⟩ := hshow
  refine endsIn_okRep (t := vaultPut (pb r 0) (r.payload.drop 4) (served s)) rfl hs ?_ ⟨fun i hi => ?_, hout⟩
  · unfold vaultWrite
    dsimp only
    rw [need_true (decide_eq_true hlen), need_true (decide_eq_true h1), need_true (decide_eq_true ⟨h32, hto⟩)]
  · rw [hin i hi, List.getD_eq_getElem?_getD, List.getD_eq_getElem?_getD, List.getElem?_drop]

/-! ### The boot flash (R288) -/

theorem flashBytes_put_same (a : Nat) (bs : List Byte) (s : State) : flashBytes (flashPut a bs s) a bs.length = bs := by
  refine List.ext_getElem (by simp [flashBytes]) fun i h1 h2 => ?_
  simp only [flashBytes, List.getElem_map, List.getElem_range]
  refine (smapGet_put (fun _ => 0xFF) a bs s.power.flash (a + i)).trans ?_
  rw [dif_pos (by omega)]
  simp only [Nat.add_sub_cancel_left]

theorem flashBytes_put_apart {a n b : Nat} {bs : List Byte} (h : b + n ≤ a ∨ a + bs.length ≤ b) (s : State) :
    flashBytes (flashPut a bs s) b n = flashBytes s b n := by
  refine List.map_congr_left fun i hi => ?_
  have := List.mem_range.mp hi
  exact (smapGet_put (fun _ => 0xFF) a bs s.power.flash (b + i)).trans (dif_neg (by omega))

/-- The boot flash once its header names slot `k` and has taken a new CRC. -/
def slotActivated (k : Nat) (s : State) : State :=
  flashPut 60 (beBytes 4 (crc32c (flashBytes (flashPut 6 [BitVec.ofNat 8 k] s) 0 60))) (flashPut 6 [BitVec.ofNat 8 k] s)

theorem slotActivated_shows (k : Nat) (s : State) : let b := slotActivated k s
    flashBytes b 6 1 = [BitVec.ofNat 8 k] ∧ flashBytes b 60 4 = beBytes 4 (crc32c (flashBytes b 0 60)) := by
  unfold slotActivated
  have hone : flashBytes (flashPut 6 [BitVec.ofNat 8 k] s) 6 1 = [BitVec.ofNat 8 k] := flashBytes_put_same 6 [_] s
  generalize flashPut 6 [BitVec.ofNat 8 k] s = c at hone ⊢
  have hlen : (beBytes 4 (crc32c (flashBytes c 0 60))).length = 4 := by simp [beBytes, leBytes]
  generalize hcrc : crc32c (flashBytes c 0 60) = x at hlen ⊢
  dsimp only
  rw [flashBytes_put_apart (b := 6) (n := 1) (Or.inl (by decide)), flashBytes_put_apart (b := 0) (n := 60) (Or.inl (by decide)), hcrc]
  exact ⟨hone, hlen ▸ flashBytes_put_same 60 (beBytes 4 x) c⟩

theorem endsIn_fwActivate {r : Req} {s : State} (hs : Served 0xE02 r s) (hp : Shape r 4 [1, 2, 3]) (hk : pb r 0 ≤ 1) (hv : headerValid (flashHeader s) = true) :
    EndsIn (.fwActivate r true) s (Replied r (ok []) (fun b => flashBytes b 6 1 = [BitVec.ofNat 8 (pb r 0)] ∧
        flashBytes b 60 4 = beBytes 4 (crc32c (flashBytes b 0 60)))) := by
  have hv' : (true && headerValid (flashHeader (served s))) = true := hv
  refine endsIn_okRep (t := slotActivated (pb r 0) (served s)) rfl hs ?_ (slotActivated_shows _ _)
  unfold fwActivate
  dsimp only
  rw [shaped_ok hp, need_true (decide_eq_true hk), need_true hv']
  rfl

theorem exec_flashWrite {r : Req} {s : State} {h : Nat} (hs : Served 0xE00 r s) (hlen : 260 ≤ r.payload.length) (hmax : r.payload.length ≤ 4100)
    (h256 : (r.payload.length - 4) % 256 = 0) (ha : rd r.payload 0 4 % 256 = 0) (hslot : inRunningSlot s (rd r.payload 0 4) (r.payload.length - 4) = false)
    (hr : JobRoom h s) : exec (.flashWrite r h) s = .next (answer r (accepted h)
        { served s with jobs := s.jobs ++ [newJob h r s (.flash (rd r.payload 0 4) (r.payload.drop 4))] }) := by
  have hslot' : inRunningSlot (served s) (rd r.payload 0 4) (r.payload.length - 4) = false := hslot
  refine exec_jobRep rfl hs ?_
  unfold flashWrite
  dsimp only
  rw [need_true (decide_eq_true ⟨hlen, by omega, h256⟩), need_true (decide_eq_true ha), need_true (by rw [hslot']; rfl), startJob_room (s := served s) hr]
  rfl

/-- Settles O53. -/
theorem powerAndVault : Obligations.PowerAndVault := by
  unfold Obligations.PowerAndVault
  intro r s
  refine ⟨fun hz => ⟨fun he => endsIn_of rfl (if_pos he) (wake_wakes hz (by decide) (by decide)),
      fun he => endsIn_of rfl (if_pos he) (wake_wakes hz (by decide) (by decide)),
      fun l he hl => endsIn_of rfl (if_pos ⟨he, hl⟩) (wake_wakes hz (by decide) (by omega)), fun t he => ?_⟩,
    fun he => exec_of rfl (if_neg (ne_true_of_eq_false he)), fun he => exec_of rfl (if_neg (ne_true_of_eq_false he)),
    fun l he => exec_of rfl (if_neg fun h => absurd (he.symm.trans h.1) (by decide)),
    fun v t hb => exec_of rfl (if_pos (Or.inl hb)),
    fun hm => endsIn_of rfl (if_neg hm) (vaonLoss_shows s), fun x hm => ?_, fun hm => ?_, fun hm => exec_of rfl (if_neg hm),
    fun hq hn => exec_of rfl (pwrGapEnd_raises hq hn), fun hm hq he hl hh hg => ?_, fun hq he => exec_of rfl (pwrGapEnd_lowers hq he),
    fun hq he => endsIn_of rfl rfl (pwrGapEnd_dark hq he), fun hm hq he hl hh => ?_, fun hq => ?_,
    fun hs hp h1 h256 hto => ?_, fun hs hlen h1 h32 hto => endsIn_vaultWrite hs hlen h1 h32 hto,
    fun h hs hlen hmax h256 ha hslot hr => exec_flashWrite hs hlen hmax h256 ha hslot hr, fun hs hp h1 hmax => ⟨?_, ?_⟩,
    fun hs hp hk => ⟨fun hv => endsIn_fwActivate hs hp hk hv, ?_⟩⟩
  · obtain ⟨b, hb, hz', hsec, hat⟩ : ∃ b : State, bkAlarmMatch t s = (if fbit s Fld.WAKE_CTRL_WAKE_ALARM then wake 3 0 b else b) ∧ Asleep b ∧
        b.power.seconds = fldPair s Fld.BK_ALARM_LO_ALARM_LO Fld.BK_ALARM_HI_ALARM_HI ∧ b.power.secAt = t := ⟨_, rfl, hz, rfl, rfl⟩
    refine endsIn_of rfl (hb.trans (if_pos he)) ⟨wake_wakes hz' (by decide) (by decide), ?_⟩
    rw [wake_eq 3 0 hz']
    exact ⟨hsec, hat⟩
  · obtain ⟨hz, hsec, hv, hc⟩ := vaonReturn_shows x.toNat s
    refine ⟨endsIn_of rfl (if_pos hm) ⟨hz.1, hz.2.2.1, hsec, hv, hc⟩, ?_⟩
    refine endsIn_of rfl ((if_pos hm).trans (vaonReturn_eq true x.toNat s)) ⟨?_, wake_wakes hz (by decide) (by decide)⟩
    show (wake 6 0 (vaonReturn false x.toNat s)).mode = .standby
    rw [wake_eq 6 0 hz, setFld_mode, setFld_mode]
    exact hz.1
  · refine endsIn_of rfl (if_pos hm) ?_
    obtain ⟨b, hb, hv, hs⟩ : ∃ b : State, vbakLoss s = setRegWord 0x548 0 (setRegWord 0x54C 0 (setRegWord 0x504 3 b)) ∧ b.power.vault = [] ∧ b.power.seconds = 0 :=
      ⟨_, rfl, rfl, rfl⟩
    rw [hb]
    refine ⟨hv, hs, ?_⟩
    rw [regWord_setRegWord_ne _ _ _ _ (by decide), regWord_setRegWord_ne _ _ _ _ (by decide), regWord_setRegWord]
  · obtain ⟨h1, h2, -, h4, -⟩ := pwrGood_shows (s := { s with power := { s.power with en := 4, seq := 2 } }) hm rfl rfl hl hh
    exact endsIn_of rfl (pwrGapEnd_last hq he hg) ⟨h4, h1, h2⟩
  · obtain ⟨h1, h2, h3, -, h5⟩ := pwrGood_shows hm hq he hl hh
    exact endsIn_of rfl rfl ⟨h1, h2, h3, h5⟩
  · refine endsIn_of rfl (if_pos hq) ⟨?_, ?_, ?_, fld_setBit (by decide) (by decide) ..⟩
    · rw [setBit_eq, setFld_power]
    · rw [setBit_eq, setFld_power]
    · rw [setBit_eq, setFld_mode]
  · refine exec_okRep rfl hs ?_
    unfold vaultRead
    dsimp only
    rw [shaped_ok hp, need_true (decide_eq_true ⟨h1, h256, hto⟩)]
    rfl
  · refine exec_okRep rfl hs ?_
    unfold flashRead
    dsimp only
    rw [shaped_ok hp, need_true (decide_eq_true ⟨h1, hmax⟩), need_true rfl]
    rfl
  · refine exec_error rfl hs ?_
    unfold flashRead
    dsimp only
    rw [shaped_ok hp, need_true (decide_eq_true ⟨h1, hmax⟩), need_false rfl]
    rfl
  · refine exec_error rfl hs ?_
    unfold fwActivate
    dsimp only
    rw [shaped_ok hp, need_true (decide_eq_true hk), need_false (Bool.false_and _)]
    rfl

end Sys2Proof.Machine

/-!
# Resets, option loading, release and boot
-/

namespace Sys2Proof.Machine

/-! ### Maps whose entries are mapped or left out -/

section Mapped
variable {α : Type} {d : Nat → α}

/-- A key not above the bound of a canonical map reads as unlisted. -/
theorem smapGet_below [DecidableEq α] {k : Nat} (m : SMap α) : ∀ l, k ≤ l → smapWfFrom d (some l) m = true → smapGet d m k = d k := by
  induction m with
  | nil => intro _ _ _; rfl
  | cons x t ih =>
    intro l hl h
    simp only [smapWfFrom, Bool.and_eq_true, decide_eq_true_eq] at h
    obtain ⟨⟨hlt, -⟩, ht⟩ := h
    exact (if_neg (by omega)).trans (ih x.1 (by omega) ht)

/-- In a canonical map whose words are mapped, and left out where they become what is read unlisted, each key reads its mapped word. -/
theorem smapGet_mapped [DecidableEq α] (g : Nat → α → α) {k : Nat} (hk : g k (d k) = d k) :
    ∀ (m : SMap α) (lo : Option Nat), smapWfFrom d lo m = true →
      smapGet d (m.filterMap (fun x => if g x.1 x.2 = d x.1 then none else some (x.1, g x.1 x.2))) k = g k (smapGet d m k) := by
  intro m
  induction m with
  | nil => intro _ _; exact hk.symm
  | cons x t ih =>
    intro lo h
    obtain ⟨i, v⟩ := x
    simp only [smapWfFrom, Bool.and_eq_true] at h
    have ht := h.2
    rw [List.filterMap_cons]
    dsimp only
    by_cases hik : k = i
    · subst hik
      rw [show smapGet d ((k, v) :: t) k = v from if_pos rfl]
      by_cases hd : g k v = d k
      · rw [if_pos hd, ih _ ht, smapGet_below t k (Nat.le_refl k) ht, hk, hd]
      · rw [if_neg hd]
        exact if_pos rfl
    · rw [show smapGet d ((i, v) :: t) k = smapGet d t k from if_neg hik, ← ih _ ht]
      by_cases hd : g i v = d i
      · rw [if_pos hd]
      · rw [if_neg hd]
        exact if_neg hik

/-- Entries that a filter takes out read as unlisted. -/
theorem smapGet_filter_out {p : Nat × α → Bool} {k : Nat} (hp : ∀ v, p (k, v) = false) (m : SMap α) : smapGet d (m.filter p) k = d k := by
  induction m with
  | nil => rfl
  | cons x t ih =>
    obtain ⟨i, v⟩ := x
    by_cases hx : p (i, v) = true
    · rw [List.filter_cons_of_pos hx]
      have hki : ¬ k = i := fun e => by
        subst e
        exact absurd ((hp v).symm.trans hx) (by decide)
      exact (if_neg hki).trans ih
    · rw [List.filter_cons_of_neg hx]
      exact ih

/-- A map over the entries that keeps those of a key keeps what the key reads. -/
theorem smapGet_filterMap_kept {f : Nat × α → Option (Nat × α)} {k : Nat} (hk : ∀ v, f (k, v) = some (k, v)) (hf : ∀ x y, f x = some y → y.1 = x.1)
    (m : SMap α) : smapGet d (m.filterMap f) k = smapGet d m k := by
  induction m with
  | nil => rfl
  | cons x t ih =>
    obtain ⟨i, v⟩ := x
    by_cases hik : k = i
    · subst hik
      rw [List.filterMap_cons_some (hk v)]
      exact (if_pos rfl).trans (if_pos rfl).symm
    · refine Eq.trans ?_ (if_neg hik).symm
      rw [List.filterMap_cons]
      split
      · exact ih
      next y hy =>
        obtain ⟨j, w⟩ := y
        obtain rfl : j = i := hf _ _ hy
        exact (if_neg hik).trans ih

end Mapped

/-! ### What a reset leaves (R455, R459, R460) -/

/-- The word of a register after a reset of every domain. -/
def resetKeeps (por dark : Bool) (a : Nat) (w : Word32) : Word32 := if alwaysOnReg a ∧ ¬ dark then w else keptWord por a w

theorem regWord_domainsReset {por dark : Bool} {s : State} (hw : smapWf regDefault s.regs = true) {a : Nat} (hk : resetKeeps por dark a (regDefault a) = regDefault a)
    (hne : a ≠ fieldAddr Fld.SHADOW_STATUS_PAIR_SENSE 0) : regWord (domainsReset por dark s) a = resetKeeps por dark a (regWord s a) := by
  rw [domainsReset, regWord_setFld_ne _ _ _ _ _ hne]
  exact smapGet_mapped (resetKeeps por dark) hk s.regs none hw

theorem regAt_resetCause : regAt 0x504 = some (Reg.RESET_CAUSE, 0) := by rfl

/-- The backup domain keeps RESET_CAUSE: its two fields, the rest reads 0. -/
theorem keptWord_resetCause (por : Bool) (w : Word32) :
    keptWord por 0x504 w = BitVec.ofNat 32 (putBits 19 16 (putBits 8 0 0 (bitsOf 8 0 w.toNat)) (bitsOf 19 16 w.toNat)) := by
  have hd : (regDefault 0x504).toNat = 0 := by rw [regDefault, regAt_resetCause]; rfl
  rw [keptWord, regAt_resetCause, hd]
  rfl

theorem keptWord_resetCause_fields (por : Bool) (w : Word32) :
    bitsOf 8 0 (keptWord por 0x504 w).toNat = bitsOf 8 0 w.toNat ∧ bitsOf 19 16 (keptWord por 0x504 w).toNat = bitsOf 19 16 w.toNat := by
  have h1 : putBits 8 0 0 (bitsOf 8 0 w.toNat) < 2 ^ 32 := putBits_lt _ _ _ _ (by decide) (by decide) (by decide)
  have h2 : putBits 19 16 (putBits 8 0 0 (bitsOf 8 0 w.toNat)) (bitsOf 19 16 w.toNat) < 2 ^ 32 := putBits_lt _ _ _ _ (by decide) (by decide) h1
  rw [keptWord_resetCause, BitVec.toNat_ofNat, Nat.mod_eq_of_lt h2, bitsOf_putBits_apart _ _ _ _ _ _ (by decide) (Or.inl (by decide)), bitsOf_putBits, bitsOf_putBits]
  exact ⟨Nat.mod_mod .., Nat.mod_mod ..⟩

theorem fld_domainsReset_cause {por : Bool} {s : State} (hw : smapWf regDefault s.regs = true) :
    fld (domainsReset por false s) Fld.RESET_CAUSE_CAUSE = fld s Fld.RESET_CAUSE_CAUSE ∧
    fld (domainsReset por false s) Fld.RESET_CAUSE_CRIT_WHERE = fld s Fld.RESET_CAUSE_CRIT_WHERE := by
  have hword : regWord (domainsReset por false s) 0x504 = keptWord por 0x504 (regWord s 0x504) := by
    refine regWord_domainsReset hw ?_ (by decide)
    show keptWord por 0x504 (regDefault 0x504) = regDefault 0x504
    have hd : regDefault 0x504 = 0 := by rw [regDefault, regAt_resetCause]; rfl
    rw [hd, keptWord_resetCause]
    rfl
  obtain ⟨h1, h2⟩ := keptWord_resetCause_fields por (regWord s 0x504)
  rw [← hword] at h1 h2
  exact ⟨h1, h2⟩

theorem domainsReset_mem (por dark : Bool) (s : State) : (domainsReset por dark s).mem = s.mem ∧ (domainsReset por dark s).progMem = s.progMem := by
  rw [domainsReset, setFld_mem, setFld_progMem]
  exact ⟨rfl, rfl⟩

theorem domainsReset_none (por dark : Bool) (s : State) : let y := domainsReset por dark s
    y.sessions = [] ∧ y.jobs = [] ∧ y.admitted = [] ∧ y.rxq = [] ∧ y.txq = [] ∧ y.brews = State.reset.brews := by
  dsimp only
  rw [domainsReset, setFld_sessions, setFld_jobs, setFld_admitted, setFld_rxq, setFld_txq, setFld_brews]
  exact ⟨rfl, rfl, rfl, rfl, rfl, rfl⟩

/-- The state in which a reset finds the engine, its causes noted. -/
def causeNoted (causes : Nat) (s : State) : State := { setCause causes s with power := { (setCause causes s).power with report := true } }

theorem causeNoted_regs (causes : Nat) (s : State) : (causeNoted causes s).regs = (setCause causes s).regs := (rfl)

theorem causeNoted_cause {causes : Nat} (hc : causes < 512) (s : State) : fld (causeNoted causes s) Fld.RESET_CAUSE_CAUSE = fld s Fld.RESET_CAUSE_CAUSE ||| causes := by
  rw [fld_congr (causeNoted_regs causes s), setCause]
  exact fld_setFld s Fld.RESET_CAUSE_CAUSE 0 _ (by decide) (Nat.or_lt_two_pow (n := 9) (fld_lt s Fld.RESET_CAUSE_CAUSE 0) hc) (by decide)

theorem causeNoted_where (causes : Nat) (s : State) : fld (causeNoted causes s) Fld.RESET_CAUSE_CRIT_WHERE = fld s Fld.RESET_CAUSE_CRIT_WHERE := by
  rw [fld_congr (causeNoted_regs causes s), setCause]
  exact fld_setFld_apart _ _ _ _ _ rfl (by decide) (by decide) (Or.inr (by decide))

theorem causeNoted_mode (causes : Nat) (s : State) : (causeNoted causes s).mode = s.mode := by
  show (setCause causes s).mode = s.mode
  rw [setCause, setFld_mode]

theorem causeNoted_power (causes : Nat) (s : State) : (causeNoted causes s).power = { s.power with report := true } := by
  rw [causeNoted, setCause, setFld_power]

theorem causeNoted_mem (causes : Nat) (s : State) : (causeNoted causes s).mem = s.mem ∧ (causeNoted causes s).progMem = s.progMem := by
  show (setCause causes s).mem = s.mem ∧ (setCause causes s).progMem = s.progMem
  rw [setCause, setFld_mem, setFld_progMem]
  exact ⟨rfl, rfl⟩

theorem Canonical.causeNoted {s : State} (h : Canonical s) (causes : Nat) : smapWf regDefault (causeNoted causes s).regs = true :=
  (kept_setCause (a0 := causes) h.kept).regs

/-- The engine restarts in CONFIGURE: option loading is due, unless a reset still holds. -/
def restarted (held clear : Bool) (n : State) : State :=
  showModeNow .configure { n with power := { n.power with boot := if held then 1 else 2, clear := clear, seq := 0 } }

theorem engineReset_eq {causes : Nat} {clear por : Bool} {s : State} (hm : s.mode ≠ .off) (hs : s.mode ≠ .standby) :
    ∃ c : Bool, engineReset causes clear por s = restarted (s.power.pinLow || s.power.hot) c (domainsReset por false (causeNoted causes s)) := by
  have hmode := causeNoted_mode causes s
  have hpow := causeNoted_power causes s
  refine ⟨clear || ((causeNoted causes s).power.clear && decide ((causeNoted causes s).power.boot ≠ 0)), ?_⟩
  have hheld : (s.power.pinLow || s.power.hot) = ((causeNoted causes s).power.pinLow || (causeNoted causes s).power.hot) := by rw [hpow]
  have hconf : (if (causeNoted causes s).mode = .standby then Mode.standby else Mode.configure) = .configure := if_neg (by rw [hmode]; exact hs)
  have hrest : ¬ ((causeNoted causes s).mode = .standby ∧ (causeNoted causes s).power.boot ≤ 1) := by rw [hmode]; exact fun h => hs h.1
  rw [hheld, restarted, ← hconf]
  exact (if_neg hm).trans (if_neg hrest)

theorem showModeNow_none (m : Mode) (s : State) : let y := showModeNow m s
    y.sessions = s.sessions ∧ y.jobs = s.jobs ∧ y.admitted = s.admitted ∧ y.rxq = s.rxq ∧ y.txq = s.txq ∧ y.brews = s.brews := by
  dsimp only
  rw [showModeNow, setFld_sessions, setFld_jobs, setFld_admitted, setFld_rxq, setFld_txq, setFld_brews, setFld_sessions, setFld_jobs, setFld_admitted,
    setFld_rxq, setFld_txq, setFld_brews]
  exact ⟨rfl, rfl, rfl, rfl, rfl, rfl⟩

theorem showModeNow_mem (m : Mode) (s : State) : (showModeNow m s).mem = s.mem ∧ (showModeNow m s).progMem = s.progMem := by
  rw [showModeNow, setFld_mem, setFld_progMem, setFld_mem, setFld_progMem]
  exact ⟨rfl, rfl⟩

/-- What of the state a restart shows, for a state in which every domain has been reset. -/
theorem restarted_shows (held c : Bool) (n : State) : let y := restarted held c n
    y.mode = .configure ∧ y.power = { n.power with boot := if held then 1 else 2, clear := c, seq := 0 } ∧
    (y.sessions = n.sessions ∧ y.jobs = n.jobs ∧ y.admitted = n.admitted ∧ y.rxq = n.rxq ∧ y.txq = n.txq ∧ y.brews = n.brews) ∧
    (y.mem = n.mem ∧ y.progMem = n.progMem) ∧ fld y Fld.RESET_CAUSE_CAUSE = fld n Fld.RESET_CAUSE_CAUSE ∧
    fld y Fld.RESET_CAUSE_CRIT_WHERE = fld n Fld.RESET_CAUSE_CRIT_WHERE := by
  obtain ⟨b, hb, hregs, hp, hnone, hmem⟩ : ∃ b : State, restarted held c n = showModeNow .configure b ∧ b.regs = n.regs ∧
      b.power = { n.power with boot := if held then 1 else 2, clear := c, seq := 0 } ∧
      (b.sessions = n.sessions ∧ b.jobs = n.jobs ∧ b.admitted = n.admitted ∧ b.rxq = n.rxq ∧ b.txq = n.txq ∧ b.brews = n.brews) ∧
      (b.mem = n.mem ∧ b.progMem = n.progMem) := ⟨_, rfl, rfl, rfl, ⟨rfl, rfl, rfl, rfl, rfl, rfl⟩, rfl, rfl⟩
  obtain ⟨a1, a2, a3, a4, a5, a6⟩ := showModeNow_none .configure b
  obtain ⟨m1, m2⟩ := showModeNow_mem .configure b
  dsimp only
  rw [hb, showModeNow_mode, showModeNow_power, a1, a2, a3, a4, a5, a6, m1, m2, fld_showModeNow _ _ (by decide) (by decide), fld_showModeNow _ _ (by decide) (by decide)]
  exact ⟨rfl, hp, hnone, hmem, fld_congr hregs _ _, fld_congr hregs _ _⟩

/-- A running engine is reset. -/
theorem engineReset_resets {causes : Nat} (hc : causes < 512) (clear por : Bool) {s : State} (hm : s.mode ≠ .off) (hs : s.mode ≠ .standby) :
    EngineReset causes (s.power.pinLow || s.power.hot) s (engineReset causes clear por s) ∧
      (engineReset causes clear por s).power.hot = s.power.hot ∧ (engineReset causes clear por s).power.pinLow = s.power.pinLow ∧
      (Canonical s → fld (engineReset causes clear por s) Fld.RESET_CAUSE_CRIT_WHERE = fld s Fld.RESET_CAUSE_CRIT_WHERE) := by
  obtain ⟨c, hy⟩ := engineReset_eq (causes := causes) (clear := clear) (por := por) hm hs
  obtain ⟨hmode, hpow, hnone, hmem, hcause, hwhere⟩ := restarted_shows (s.power.pinLow || s.power.hot) c (domainsReset por false (causeNoted causes s))
  obtain ⟨d1, d2⟩ := domainsReset_mem por false (causeNoted causes s)
  obtain ⟨c1, c2⟩ := causeNoted_mem causes s
  obtain ⟨e1, e2, e3, e4, e5, e6⟩ := domainsReset_none por false (causeNoted causes s)
  rw [e1, e2, e3, e4, e5, e6] at hnone
  rw [d1, d2, c1, c2] at hmem
  rw [domainsReset_power, causeNoted_power] at hpow
  rw [hy]
  obtain ⟨n1, n2, n3, n4, n5, n6⟩ := hnone
  refine ⟨⟨hmode, by rw [hpow], ⟨n1, n2, n3, n4, n5, n6, by rw [hpow]; rfl⟩, by rw [hpow]; rfl, hmem, by rw [hpow]; exact ⟨rfl, rfl, rfl⟩, fun h => ?_⟩,
    by rw [hpow]; rfl, by rw [hpow]; rfl, fun h => ?_⟩
  · rw [hcause, (fld_domainsReset_cause (h.causeNoted causes)).1, causeNoted_cause hc]
  · rw [hwhere, (fld_domainsReset_cause (h.causeNoted causes)).2, causeNoted_where]

/-- A reset from a state that differs from `s` only in what no reset keeps. -/
theorem EngineReset.of {causes : Nat} {held : Bool} {s b y : State} (h : EngineReset causes held b y) (hmem : b.mem = s.mem ∧ b.progMem = s.progMem)
    (hp : b.power.vault = s.power.vault ∧ b.power.seconds = s.power.seconds ∧ b.power.flash = s.power.flash)
    (hc : Canonical s → Canonical b ∧ fld b Fld.RESET_CAUSE_CAUSE = fld s Fld.RESET_CAUSE_CAUSE) : EngineReset causes held s y where
  mode := h.mode
  boot := h.boot
  none_ := h.none_
  report := h.report
  mem := ⟨h.mem.1.trans hmem.1, h.mem.2.trans hmem.2⟩
  backup := ⟨h.backup.1.trans hp.1, h.backup.2.1.trans hp.2.1, h.backup.2.2.trans hp.2.2⟩
  cause := fun hs => (h.cause (hc hs).1).trans (by rw [(hc hs).2])

/-! ### The causes of a reset (Table 18.5) -/

section Causes
variable {s : State} (hm : s.mode ≠ .off) (hs : s.mode ≠ .standby)
include hm hs

/-- A reset found after the reset controller's own state has changed. -/
theorem engineReset_power {causes : Nat} (hc : causes < 512) (clear por : Bool) (p : PowerSt) (hp : p.vault = s.power.vault ∧ p.seconds = s.power.seconds ∧
    p.flash = s.power.flash) : let y := engineReset causes clear por { s with power := p }
    EngineReset causes (p.pinLow || p.hot) s y ∧ y.power.hot = p.hot ∧ y.power.pinLow = p.pinLow := by
  obtain ⟨h, h1, h2, -⟩ := engineReset_resets (s := { s with power := p }) hc clear por hm hs
  exact ⟨h.of ⟨rfl, rfl⟩ hp fun hcan => ⟨⟨hcan.mem, hcan.regs, hcan.stalls, hcan.units⟩, rfl⟩, h1, h2⟩

theorem critErr_shows (w : Fin 5) : let y := engineReset 0x40 false false (setFld Fld.RESET_CAUSE_CRIT_WHERE 0 (w.val + 1) s)
    EngineReset 0x40 (s.power.pinLow || s.power.hot) s y ∧ (Canonical s → fld y Fld.RESET_CAUSE_CRIT_WHERE = w.val + 1) := by
  have hw : fld (setFld Fld.RESET_CAUSE_CRIT_WHERE 0 (w.val + 1) s) Fld.RESET_CAUSE_CRIT_WHERE = w.val + 1 :=
    fld_setFld _ _ _ _ (by decide) (show w.val + 1 < 16 by omega) (by decide)
  have hcause : fld (setFld Fld.RESET_CAUSE_CRIT_WHERE 0 (w.val + 1) s) Fld.RESET_CAUSE_CAUSE = fld s Fld.RESET_CAUSE_CAUSE :=
    fld_setFld_apart _ _ _ _ _ rfl (by decide) (by decide) (Or.inl (by decide))
  have hcan : Canonical s → Canonical (setFld Fld.RESET_CAUSE_CRIT_WHERE 0 (w.val + 1) s) := fun h => (kept_setFld h.kept).canonical
  obtain ⟨h, -, -, h4⟩ := engineReset_resets (causes := 0x40) (s := setFld Fld.RESET_CAUSE_CRIT_WHERE 0 (w.val + 1) s) (by decide) false false
    (by rw [setFld_mode]; exact hm) (by rw [setFld_mode]; exact hs)
  rw [setFld_power] at h
  exact ⟨h.of ⟨setFld_mem .., setFld_progMem ..⟩ (by rw [setFld_power]; exact ⟨rfl, rfl, rfl⟩) fun hc => ⟨hcan hc, hcause⟩, fun hc => (h4 (hcan hc)).trans hw⟩

theorem pwrGoodLoss_shows (he : s.power.en = 4) (hq : s.power.seq = 0) : let y := pwrGoodLoss s
    y.mode = .configure ∧ y.power.boot = if s.power.pinLow || s.power.hot then 1 else 2 := by
  have hreset : pwrGoodLoss s = engineReset 1 true true (setFld Fld.SUPPLY_STATUS_PWR_GOOD 0 0 s) := by
    unfold pwrGoodLoss
    dsimp only
    rw [clrBit_eq, setFld_power, setFld_mode, if_pos ⟨he, hq, fun h => hs h.1⟩]
  obtain ⟨h, -⟩ := engineReset_resets (causes := 1) (s := setFld Fld.SUPPLY_STATUS_PWR_GOOD 0 0 s) (by decide) true true
    (by rw [setFld_mode]; exact hm) (by rw [setFld_mode]; exact hs)
  rw [setFld_power] at h
  dsimp only
  rw [hreset]
  exact ⟨h.mode, h.boot⟩

end Causes

/-! ### Option loading (R461) -/

/-- What OTP and straps set before the header is read: identity, addresses, the regulator's interface and the lanes. -/
def otpLoaded (straps : Nat) (otp : Otp) (s : State) : State :=
  let s := setFld Fld.ID_OPTIONS_OPTIONS 0 (straps + 2 ^ 16 * otp.options.toNat) s
  let s := forEach (List.range 4) (fun i s => setFld Fld.ID_UID_UID i (otp.uid.toNat / 2 ^ (32 * i)) s) s
  let s := setFld Fld.ETH_MAC_LO_MAC_LO 0 otp.mac.toNat (setFld Fld.ETH_MAC_HI_MAC_HI 0 (otp.mac.toNat / 2 ^ 32) s)
  let avs := otp.avs.toNat
  let s := setFld Fld.AVS_IF_CTRL_PMBUS_ADDR 0 avs (setFld Fld.AVS_IF_CTRL_VOFS 0 (avs / 256) (setFld Fld.AVS_IF_CTRL_IF_EN 0 (avs / 65536) s))
  let s := forEach (List.range 64) (fun n s =>
    setFld Fld.LANE_CFG_TX_SWING n otp.swing.toNat (setFld Fld.LANE_CFG_TX_EMPH n otp.emph.toNat s)) s
  forEach (pcieLanes straps) (fun n s => setFld Fld.LANE_CFG_MODE n 3 s) s

theorem optionLoading_eq {x : Nat} {o : Otp} {s : State} (hb : s.power.boot = 2) :
    optionLoading x o s = (let b := setFld Fld.ENDPOINT_ID_ID 0 (x / 64 % 64) (otpLoaded x o s)
      let c := if headerValid (flashHeader b) then loadHeader (flashHeader b) b else setBit Fld.MODE_STATUS_HDR_INVALID 0 b
      { c with power := { c.power with boot := 3 } }) := by
  unfold optionLoading otpLoaded
  exact if_neg (not_not_intro hb)

/-- What option loading keeps while it loads OTP and straps. -/
def loadFrame (s : State) : List Host.Cell × PowerSt × Nat := (s.mem, s.power, fld s Fld.ID_OPTIONS_OPTIONS)

theorem loadFrame_setFld {f : RegField} {i : Nat} (h : fieldAddr Fld.ID_OPTIONS_OPTIONS 0 ≠ fieldAddr f i) (v : Nat) (s : State) :
    loadFrame (setFld f i v s) = loadFrame s := by
  rw [loadFrame, setFld_mem, setFld_power, fld_setFld_other _ _ _ _ _ _ h]
  rfl

theorem otpLoaded_frame (x : Nat) (o : Otp) (s : State) :
    loadFrame (otpLoaded x o s) = (s.mem, s.power, (x + 2 ^ 16 * o.options.toNat) % 2 ^ 32) := by
  have hlane : ∀ (f : RegField) (n : Nat), fieldAddr Fld.ID_OPTIONS_OPTIONS 0 < f.base → fieldAddr Fld.ID_OPTIONS_OPTIONS 0 ≠ fieldAddr f n := fun f n h =>
    Nat.ne_of_lt (Nat.lt_of_lt_of_le h (Nat.le_add_right ..))
  unfold otpLoaded
  dsimp only
  rw [forEach_keeps loadFrame _ _ (fun n s => loadFrame_setFld (hlane Fld.LANE_CFG_MODE n (by decide)) 3 s),
    forEach_keeps loadFrame _ _ (fun n s => (loadFrame_setFld (hlane Fld.LANE_CFG_TX_SWING n (by decide)) _ _).trans (loadFrame_setFld (hlane Fld.LANE_CFG_TX_EMPH n (by decide)) _ s)),
    loadFrame_setFld (by decide), loadFrame_setFld (by decide), loadFrame_setFld (by decide), loadFrame_setFld (by decide), loadFrame_setFld (by decide),
    forEach_keeps_mem loadFrame _ _ (fun i hi s => loadFrame_setFld ?_ _ s), loadFrame, setFld_mem, setFld_power, fld_setFld_mod _ (by decide) (by decide)]
  · rfl
  · have := List.mem_range.mp hi
    show 0x20 ≠ 0x10 + 4 * i
    omega

theorem optionLoading_shows {x : Nat} (hx : x < 2 ^ 16) (o : Otp) {s : State} (hb : s.power.boot = 2) (hv : headerValid (flashHeader s) = false) :
    let y := optionLoading x o s
    y.power.boot = 3 ∧ fld y Fld.MODE_STATUS_HDR_INVALID = 1 ∧ fld y Fld.ID_OPTIONS_OPTIONS = x + 2 ^ 16 * o.options.toNat ∧
      fld y Fld.ENDPOINT_ID_ID = x / 64 % 64 ∧ y.mem = s.mem := by
  obtain ⟨a1, a2⟩ := Prod.mk.inj (otpLoaded_frame x o s)
  obtain ⟨a2, a3⟩ := Prod.mk.inj a2
  have hopt : x + 2 ^ 16 * o.options.toNat < 2 ^ 32 := by have := o.options.isLt; omega
  rw [Nat.mod_eq_of_lt hopt] at a3
  dsimp only
  rw [optionLoading_eq hb]
  generalize otpLoaded x o s = b at a1 a2 a3 ⊢
  have hhdr : flashHeader (setFld Fld.ENDPOINT_ID_ID 0 (x / 64 % 64) b) = flashHeader s := by
    rw [flashHeader, flashHeader, flashBytes, flashBytes, setFld_power, a2]
  dsimp only
  rw [hhdr, if_neg (ne_true_of_eq_false hv), setBit_eq]
  have hid : fld (setFld Fld.ENDPOINT_ID_ID 0 (x / 64 % 64) b) Fld.ENDPOINT_ID_ID = x / 64 % 64 :=
    fld_setFld _ _ _ _ (by decide) (show x / 64 % 64 < 2 ^ 18 by omega) (by decide)
  have hopt' : fld (setFld Fld.ENDPOINT_ID_ID 0 (x / 64 % 64) b) Fld.ID_OPTIONS_OPTIONS = fld b Fld.ID_OPTIONS_OPTIONS := fld_setFld_other _ _ _ _ _ _ (by decide)
  have hmem : (setFld Fld.ENDPOINT_ID_ID 0 (x / 64 % 64) b).mem = b.mem := setFld_mem ..
  generalize setFld Fld.ENDPOINT_ID_ID 0 (x / 64 % 64) b = c at hid hopt' hmem ⊢
  have h1 : fld (setFld Fld.MODE_STATUS_HDR_INVALID 0 1 c) Fld.MODE_STATUS_HDR_INVALID = 1 := fld_setFld _ _ _ _ (by decide) (by decide) (by decide)
  have h2 : fld (setFld Fld.MODE_STATUS_HDR_INVALID 0 1 c) Fld.ID_OPTIONS_OPTIONS = fld c Fld.ID_OPTIONS_OPTIONS := fld_setFld_other _ _ _ _ _ _ (by decide)
  have h3 : fld (setFld Fld.MODE_STATUS_HDR_INVALID 0 1 c) Fld.ENDPOINT_ID_ID = fld c Fld.ENDPOINT_ID_ID := fld_setFld_other _ _ _ _ _ _ (by decide)
  have h4 : (setFld Fld.MODE_STATUS_HDR_INVALID 0 1 c).mem = c.mem := setFld_mem ..
  generalize setFld Fld.MODE_STATUS_HDR_INVALID 0 1 c = e at h1 h2 h3 h4 ⊢
  exact ⟨rfl, h1, h2.trans (hopt'.trans a3), h3.trans hid, h4.trans (hmem.trans a1)⟩

/-! ### The release steps (R463, Table 18.8) -/

section Release
variable {linear : Bool} {t : Nat} {s : State}

theorem releaseStep_three (hb : s.power.boot = 3) : let y := releaseStep linear t s
    y.power.boot = 4 ∧ y.frame = 0 ∧ y.tick = t := by
  obtain ⟨b, hy, h1, h2, h3⟩ : ∃ b : State, releaseStep linear t s =
      (if fbit b Fld.AVS_IF_CTRL_IF_EN ∧ ¬ linear then setBit Fld.AVS_IF_STATUS_IF_FAULT 0 b else b) ∧ b.power.boot = 4 ∧ b.frame = 0 ∧ b.tick = t := by
    unfold releaseStep
    rw [hb]
    exact ⟨_, if_neg (by decide), rfl, rfl, rfl⟩
  dsimp only
  rw [hy]
  split
  · rw [setBit_eq, setFld_power, setFld_frame, setFld_tick]
    exact ⟨h1, h2, h3⟩
  · exact ⟨h1, h2, h3⟩

/-- The state at a release step, its number raised. -/
def atStep (k : Nat) (s : State) : State := { s with power := { s.power with boot := k } }

theorem releaseStep_four (hb : s.power.boot = 4) :
    releaseStep linear t s = forEach (List.range 8) (fun c s => setFld Fld.CELLAR_CH_STATUS_STATE c 1 s) (atStep 5 s) := by
  unfold releaseStep
  rw [hb]
  exact if_neg (by decide)

theorem releaseStep_five (hb : s.power.boot = 5) : releaseStep linear t s = releaseCellar (atStep 6 s) := by
  unfold releaseStep
  rw [hb]
  exact if_neg (by decide)

theorem releaseStep_six (hb : s.power.boot = 6) : releaseStep linear t s = releaseLocal (atStep 7 s) := by
  unfold releaseStep
  rw [hb]
  exact if_neg (by decide)

theorem releaseStep_ten (hb : s.power.boot = 10) : releaseStep linear t s = bootDone (atStep 11 s) := by
  unfold releaseStep
  rw [hb]
  exact if_neg (by decide)

theorem releaseStep_counts (hb : s.power.boot = 7 ∨ s.power.boot = 8 ∨ s.power.boot = 9) : releaseStep linear t s = atStep (s.power.boot + 1) s := by
  unfold releaseStep
  rcases hb with h | h | h <;> rw [h] <;> exact if_neg (by decide)

/-- The channels of the cellar show a state. -/
def cellarShown (n : Nat) (s : State) : State := forEach (List.range 8) (fun c s => setFld Fld.CELLAR_CH_STATUS_STATE c n s) s

theorem cellarShown_state {n c : Nat} (hn : n < 4) (hc : c < 8) (s : State) : fld (cellarShown n s) Fld.CELLAR_CH_STATUS_STATE c = n :=
  (fld_forEach_setFld (by decide) (by decide) n (List.mem_range.mpr hc) s).trans (Nat.mod_eq_of_lt hn)

theorem cellarShown_power (n : Nat) (s : State) : (cellarShown n s).power = s.power := forEach_keeps State.power _ _ (fun _ _ => setFld_power ..) s

theorem cellarShown_mem (n : Nat) (s : State) : (cellarShown n s).mem = s.mem := forEach_keeps State.mem _ _ (fun _ _ => setFld_mem ..) s

/-- The cellar's content, regions, graph and kernels cleared (R216). -/
def cellarCleared (s : State) : State :=
  { s with mem := s.mem.filter (fun m => decide (m.1 < 0x400000000)), ueWords := s.ueWords.filter (fun w => decide (w < 0x400000000)),
           ceWords := s.ceWords.filter (fun w => decide (w < 0x400000000)), regions := [], work := graphEmpty, kernels := [], params := [] }

theorem releaseCellar_eq (s : State) : releaseCellar s = setFld Fld.MEM_STATUS_CELLAR_READY 0 1
    (if (cellarShown 2 s).power.clear then cellarCleared (cellarShown 2 s) else cellarShown 2 s) := by
  unfold releaseCellar cellarShown
  generalize forEach (List.range 8) (fun c s => setFld Fld.CELLAR_CH_STATUS_STATE c 2 s) s = c
  unfold cellarCleared
  rfl

theorem cellarTrained_shows (s : State) : let d := if s.power.clear then cellarCleared s else s
    d.regs = s.regs ∧ d.power = s.power ∧ (s.power.clear = true → d.regions = [] ∧ d.mem = s.mem.filter (fun m => decide (m.1 < 0x400000000))) := by
  dsimp only
  by_cases hc : s.power.clear = true
  · rw [if_pos hc]
    exact ⟨rfl, rfl, fun _ => ⟨rfl, rfl⟩⟩
  · rw [if_neg hc]
    exact ⟨rfl, rfl, fun h => absurd h hc⟩

theorem releaseCellar_shows (s : State) : let y := releaseCellar s
    y.power = s.power ∧ (∀ c < 8, fld y Fld.CELLAR_CH_STATUS_STATE c = 2) ∧ fld y Fld.MEM_STATUS_CELLAR_READY = 1 ∧
      (s.power.clear = true → y.regions = [] ∧ ∀ x, 0x400000000 ≤ x → memByte y x = 0) := by
  have hst : ∀ c < 8, fld (cellarShown 2 s) Fld.CELLAR_CH_STATUS_STATE c = 2 := fun c hc => cellarShown_state (by decide) hc s
  have hp := cellarShown_power 2 s
  have hd := cellarTrained_shows (cellarShown 2 s)
  dsimp only at hd ⊢
  rw [releaseCellar_eq]
  generalize cellarShown 2 s = b at hst hp hd ⊢
  obtain ⟨hregs, hpow, hclr⟩ := hd
  generalize (if b.power.clear = true then cellarCleared b else b) = d at hregs hpow hclr ⊢
  rw [hp] at hpow hclr
  rw [setFld_power, setFld_regions]
  refine ⟨hpow, fun c hc => ?_, fld_setFld _ _ _ _ (by decide) (by decide) (by decide), fun h => ⟨(hclr h).1, fun x hx => ?_⟩⟩
  · rw [fld_setFld_alone (by decide), fld_congr hregs]
    exact hst c hc
  · rw [memByte, setFld_mem, (hclr h).2]
    exact smapGet_filter_out (fun _ => decide_eq_false (Nat.not_lt.mpr hx)) _

theorem releaseLocal_shows (hc : s.power.clear = true) : let y := releaseLocal s
    y.power = s.power ∧ fld y Fld.MEM_STATUS_CLEAR_DONE = 1 ∧ y.progMem = [] ∧ ∀ x, x < 0x400000000 → memByte y x = 0 := by
  obtain ⟨d, hd, hpow, hprog, hmem⟩ : ∃ d : State, releaseLocal s = setFld Fld.MEM_STATUS_CLEAR_DONE 0 1 d ∧ d.power = s.power ∧ d.progMem = [] ∧
      d.mem = s.mem.filter (fun m => decide (0x400000000 ≤ m.1)) := ⟨_, (if_pos hc).trans (setBit_eq _ _ _), rfl, rfl, rfl⟩
  dsimp only
  rw [hd, setFld_power, setFld_progMem]
  refine ⟨hpow, fld_setFld _ _ _ _ (by decide) (by decide) (by decide), hprog, fun x hx => ?_⟩
  rw [memByte, setFld_mem, hmem]
  exact smapGet_filter_out (fun _ => decide_eq_false (Nat.not_le.mpr hx)) _

/-! The end of the release: channels at rest, and the report of the causes. -/

/-- A channel shows the state of rest that its EN gives. -/
def restShown (c : Nat) (s : State) : State := setAmpState c (restState s c) s

/-- What of the state the channels' rest does not touch. -/
def restFrame (s : State) : PowerSt × Mode × List EvtWait × Nat × Nat := (s.power, s.mode, s.evtWait, s.frame, fld s Fld.RESET_CAUSE_CAUSE)

theorem restShown_frame (c : Nat) (s : State) : restFrame (restShown c s) = restFrame s := by
  rw [restFrame, restShown, setAmpState_power, setAmpState_eq, showGroup, setFld_mode, setFld_mode, setFld_evtWait, setFld_evtWait, setFld_frame, setFld_frame,
    fld_setFld_under (by decide), fld_setFld_under (by decide)]
  rfl

/-- The channels at rest once the release has ended. -/
def allRest (s : State) : State := forEach allAmps restShown { s with power := { s.power with boot := 0, clear := false, report := false } }

theorem bootDone_eq (hb : s.power.boot = 11) (hf : s.power.fw = true) (hm : (allRest s).mode ≠ .standby) : bootDone s =
    if s.power.report then raise 0xC3 (fld (allRest s) Fld.RESET_CAUSE_CAUSE) 0 (allRest s) else allRest s := by
  unfold bootDone
  rw [if_neg (not_or.mpr ⟨not_not_intro hb, not_not_intro hf⟩)]
  dsimp only
  rw [show (forEach allAmps (fun c s => setAmpState c (restState s c) s) { s with power := { s.power with boot := 0, clear := false, report := false } }) = allRest s from rfl,
    if_neg hm]

theorem allRest_frame (s : State) : restFrame (allRest s) =
    ({ s.power with boot := 0, clear := false, report := false }, s.mode, s.evtWait, s.frame, fld s Fld.RESET_CAUSE_CAUSE) :=
  forEach_keeps restFrame _ _ restShown_frame { s with power := { s.power with boot := 0, clear := false, report := false } }

theorem allRest_state {c : Nat} (hc : c < 32) (s : State) : ampState (allRest s) c = if ampEn s c then 1 else 0 := by
  have hle : ∀ a ∈ allAmps, a ≤ 32 := fun a ha => Nat.le_of_lt (List.mem_range.mp ha)
  have hnodup : allAmps.Nodup := List.nodup_range
  have hmem : c ∈ allAmps := List.mem_range.mpr hc
  have hother : ∀ a ∈ allAmps, a ≠ c → ∀ t, (ampState (restShown a t) c, ampEn (restShown a t) c) = (ampState t c, ampEn t c) := fun a ha hne t => by
    rw [restShown, ampState_setAmpState_ne _ _ (hle a ha) (Nat.le_of_lt hc) (Ne.symm hne), ampEn, fbit,
      fld_setAmpState (g := Fld.AMP_CFG_EN) _ _ (by decide) (hle a ha) (Nat.le_of_lt hc)]
    rfl
  unfold allRest
  have hen₀ : ampEn { s with power := { s.power with boot := 0, clear := false, report := false } } c = ampEn s c := rfl
  generalize ({ s with power := { s.power with boot := 0, clear := false, report := false } } : State) = b at hen₀ ⊢
  obtain ⟨s', hs', hy⟩ := forEach_once (fun s => (ampState s c, ampEn s c)) (f := restShown) hnodup hmem hother b
  have hen : ampEn s' c = ampEn s c := (Prod.mk.inj hs').2.trans hen₀
  refine (Prod.mk.inj hy).1.trans ((ampState_setAmpState _ _ (Nat.le_of_lt hc)).trans ?_)
  rw [restState, hen]
  split <;> rfl

theorem bootDone_shows (hb : s.power.boot = 11) (hf : s.power.fw = true) (hm : s.mode = .configure) : let y := bootDone s
    y.power.boot = 0 ∧ y.mode = .configure ∧
      (s.power.report = true → y.evtWait = s.evtWait ++ [⟨0xC3, s.frame, fld s Fld.RESET_CAUSE_CAUSE, 0, none⟩]) ∧
      ∀ c < 32, ampState y c = if ampEn s c then 1 else 0 := by
  obtain ⟨h1, h⟩ := Prod.mk.inj (allRest_frame s)
  obtain ⟨h2, h⟩ := Prod.mk.inj h
  obtain ⟨h3, h⟩ := Prod.mk.inj h
  obtain ⟨h4, h5⟩ := Prod.mk.inj h
  have hst := fun (c : Nat) (hc : c < 32) => allRest_state hc s
  have hcause : fld s Fld.RESET_CAUSE_CAUSE < 2 ^ 32 := Nat.lt_trans (fld_lt s Fld.RESET_CAUSE_CAUSE 0) (by decide)
  dsimp only
  rw [bootDone_eq hb hf (by rw [h2, hm]; decide)]
  generalize allRest s = y at h1 h2 h3 h4 h5 hst ⊢
  have hboot : y.power.boot = 0 := congrArg PowerSt.boot h1
  by_cases hr : s.power.report = true
  · rw [if_pos hr]
    refine ⟨hboot, h2.trans hm, fun _ => ?_, hst⟩
    rw [raised_evtWait, h3, h4, h5, Nat.mod_eq_of_lt hcause, Nat.zero_mod]
  · rw [if_neg hr]
    exact ⟨hboot, h2.trans hm, fun h => absurd h hr, hst⟩

end Release

/-! ### The boot ROM (R462) -/

section Boot
variable {s : State} (hr : romRuns s = true)
include hr

theorem bootGo_passes (hl : fld s Fld.BOOT_LEN_LEN = 4 * s.power.image.length) (h1 : 1 ≤ s.power.image.length) (hmax : s.power.image.length ≤ 1048576) :
    bootGo true s = setFld Fld.BOOT_CTRL_BUSY 0 1 (setFld Fld.BOOT_CTRL_FAIL 0 0 s) := by
  unfold bootGo
  rw [if_neg (not_not_intro hr), setBit_eq, clrBit_eq]
  exact if_pos ⟨rfl, hl, by omega, by omega⟩

theorem bootGo_fails : let y := bootGo false s
    fld y Fld.BOOT_CTRL_FAIL = 1 ∧ fld y Fld.MODE_STATUS_BOOT_FAIL = 1 ∧ y.power.image = [] := by
  obtain ⟨b, hb, hi⟩ : ∃ b : State, bootGo false s = setFld Fld.BOOT_CTRL_FAIL 0 1 (setFld Fld.MODE_STATUS_BOOT_FAIL 0 1 b) ∧ b.power.image = [] := by
    unfold bootGo
    rw [if_neg (not_not_intro hr), setBit_eq, setBit_eq]
    exact ⟨_, if_neg (fun h => Bool.false_ne_true h.1), rfl⟩
  dsimp only
  rw [hb, setFld_power, setFld_power, fld_setFld_other _ Fld.BOOT_CTRL_FAIL _ _ _ _ (show fieldAddr Fld.MODE_STATUS_BOOT_FAIL 0 ≠ _ by decide)]
  exact ⟨fld_setFld _ _ _ _ (by decide) (by decide) (by decide), fld_setFld _ _ _ _ (by decide) (by decide) (by decide), hi⟩

theorem firmwareStart_shows (v : Word32) (hbusy : fbit s Fld.BOOT_CTRL_BUSY = true) (hb : s.power.boot < 11) : let y := firmwareStart 2 v s
    y.power.fw = true ∧ y.power.slot = 2 ∧ fld y Fld.FW_VERSION_VERSION = v.toNat := by
  obtain ⟨b, hy, hp⟩ : ∃ b : State, firmwareStart 2 v s = bootDone (setFld Fld.FW_VERSION_VERSION 0 v.toNat b) ∧
      b.power = { s.power with fw := true, slot := 2, image := [] } := by
    refine ⟨clrBit Fld.BOOT_CTRL_BUSY 0 { s with power := { s.power with fw := true, slot := 2, image := [] } }, ?_, ?_⟩
    · unfold firmwareStart
      dsimp only
      rw [if_neg (not_not_intro hr), if_neg (fun h => h.2 hbusy), if_neg (fun h => h.1 rfl)]
      rfl
    · rw [clrBit_eq, setFld_power]
  have hrest : bootDone (setFld Fld.FW_VERSION_VERSION 0 v.toNat b) = setFld Fld.FW_VERSION_VERSION 0 v.toNat b := by
    unfold bootDone
    exact if_pos (Or.inl (by rw [setFld_power, hp]; exact Nat.ne_of_lt hb))
  dsimp only
  rw [hy, hrest, setFld_power, hp]
  exact ⟨rfl, rfl, fld_setFld _ _ _ _ (by decide) v.isLt (by decide)⟩

end Boot

/-! ### Block resets (R464, R465) -/

theorem blockRelease_open {code bit : Nat} {s : State} (hb : resetBit code = some bit) (ht : testBit (regWord s 0x514).toNat bit = false) : blockRelease code s = s := by
  unfold blockRelease
  rw [hb]
  exact if_pos (ne_true_of_eq_false ht)

theorem blockReg_status (code : Nat) : blockReg code 0x514 = false := by
  unfold blockReg
  split
  · exact decide_eq_false fun h => absurd h.2.1 (by decide)
  · split <;> rfl

theorem regWord_regsReleased (code : Nat) (s : State) : regWord { s with regs := regsReleased code s.regs } 0x514 = regWord s 0x514 := by
  refine smapGet_filterMap_kept (fun v => if_neg (ne_true_of_eq_false (blockReg_status code))) (fun x y h => ?_) s.regs
  split at h
  · unfold listed at h
    split at h
    · cases h
    · cases h; rfl
  · cases h; rfl

theorem blockRelease_word {code bit : Nat} {s : State} (hb : resetBit code = some bit) (ht : testBit (regWord s 0x514).toNat bit = true) :
    regWord (blockRelease code s) 0x514 = BitVec.ofNat 32 ((regWord s 0x514).toNat - 2 ^ bit) := by
  obtain ⟨b, hbw, hy⟩ : ∃ b : State, regWord b 0x514 = BitVec.ofNat 32 ((regWord s 0x514).toNat - 2 ^ bit) ∧ blockRelease code s =
      if code = 0x21 then forEach (List.range 32) showPort b else if code = 0x22 then forEach allAmps restShown b else b := by
    unfold blockRelease
    rw [hb]
    refine ⟨_, ?_, if_neg (not_not_intro ht)⟩
    rw [regWord_regsReleased, regWord_setRegWord]
  rw [hy, ← hbw]
  split
  · refine forEach_keeps (fun s => regWord s 0x514) _ _ (fun p s => ?_) b
    show regWord (showPort p s) 0x514 = _
    unfold showPort
    split
    · exact regWord_setFld_ne _ _ _ _ _ (Nat.ne_of_lt (Nat.lt_of_lt_of_le (show 0x514 < Fld.PORT_STATE_STATE.base by decide) (Nat.le_add_right ..)))
    · rfl
  · split
    · refine forEach_keeps (fun s => regWord s 0x514) _ _ (fun c s => ?_) b
      show regWord (restShown c s) 0x514 = _
      rw [restShown, setAmpState_eq, showGroup, regWord_setFld_ne, regWord_setFld_ne]
      · exact Nat.ne_of_lt (Nat.lt_of_lt_of_le (show 0x514 < Fld.AMP_STATE_STATE.base by decide) (Nat.le_add_right ..))
      · exact Nat.ne_of_lt (Nat.lt_of_lt_of_le (show 0x514 < Fld.AMP_GROUP_STATUS_STATE.base by decide) (Nat.le_add_right ..))
    · rfl

theorem blockRelease_opens {code bit : Nat} {s : State} (hb : resetBit code = some bit) (ht : testBit (regWord s 0x514).toNat bit = true) :
    testBit (regWord (blockRelease code s) 0x514).toNat bit = false := by
  have hlt := (regWord s 0x514).isLt
  rw [blockRelease_word hb ht]
  rw [testBit_eq_nat] at ht ⊢
  generalize (regWord s 0x514).toNat = w at ht hlt ⊢
  have hge : 2 ^ bit ≤ w := Nat.ge_two_pow_of_testBit ht
  obtain ⟨v, rfl⟩ : ∃ v, w = v + 2 ^ bit := ⟨w - 2 ^ bit, by omega⟩
  rw [Nat.add_sub_cancel, BitVec.toNat_ofNat, Nat.mod_eq_of_lt (Nat.lt_of_le_of_lt (Nat.le_add_right ..) hlt)]
  rwa [Nat.add_comm, Nat.testBit_two_pow_add_eq, Bool.not_eq_true'] at ht

/-! Sessions of a transport closed: what waits for admission stays. -/

theorem closeSession_rxq (n t : Nat) (s : State) : (closeSession n t s).rxq = s.rxq := by
  unfold closeSession
  split
  · rfl
  · rw [addFld_eq, setFld_rxq]

theorem mem_closeSession {n t : Nat} {s : State} {x : Session} (h : x ∈ (closeSession n t s).sessions) : x ∈ s.sessions ∧ x.num ≠ n := by
  unfold closeSession at h
  split at h
  next hn => exact ⟨h, fun e => absurd (decide_eq_true e) (List.find?_eq_none.mp hn x h)⟩
  next =>
    rw [addFld_eq, setFld_sessions] at h
    obtain ⟨h1, h2⟩ := List.mem_filter.mp h
    exact ⟨h1, of_decide_eq_true h2⟩

theorem mem_closeSessions {t : Nat} {x : Session} {l : List Session} {s : State} (h : x ∈ (forEach l (fun y s => closeSession y.num t s) s).sessions) :
    x ∈ s.sessions ∧ ∀ y ∈ l, x.num ≠ y.num := by
  induction l generalizing s with
  | nil => exact ⟨h, fun y hy => by cases hy⟩
  | cons z l ih =>
    obtain ⟨hx, hl⟩ := ih (s := closeSession z.num t s) h
    obtain ⟨hx, hz⟩ := mem_closeSession hx
    exact ⟨hx, List.forall_mem_cons.mpr ⟨hz, hl⟩⟩

theorem closeSources_shows (p : Source → Bool) (t : Nat) (s : State) :
    (closeSources p t s).rxq = s.rxq ∧ ∀ x ∈ (closeSources p t s).sessions, p x.source = false := by
  refine ⟨forEach_keeps State.rxq (s.sessions.filter (fun x : Session => p x.source)) _ (fun x u => closeSession_rxq x.num t u) s, fun x hx => ?_⟩
  obtain ⟨hmem, hne⟩ := mem_closeSessions hx
  refine Decidable.byContradiction fun hp => ?_
  exact hne x (List.mem_filter.mpr ⟨hmem, eq_true_of_ne_false hp⟩) rfl

theorem pcieIsolate_shows {t : Nat} {s : State} (hb : s.power.boot = 0) : let y := blockIsolate 0x23 [] t s
    y.rxq = s.rxq.filter (fun x => !onPcie x.source) ∧ y.txq.all (fun x => !onPcie x.source) = true ∧ ∀ x ∈ y.sessions, onPcie x.source = false := by
  obtain ⟨b, hy, hrx⟩ : ∃ b : State, blockIsolate 0x23 [] t s = dropPackets onPcie (closeSources onPcie t b) ∧ b.rxq = s.rxq := by
    unfold blockIsolate
    refine ⟨_, if_neg (not_not_intro hb), ?_⟩
    rfl
  obtain ⟨h1, h2⟩ := closeSources_shows onPcie t b
  dsimp only
  rw [hy]
  refine ⟨congrArg (List.filter _) (h1.trans hrx), List.all_eq_true.mpr fun x hx => ?_, h2⟩
  exact (List.mem_filter.mp hx).2

/-! ### RESET and RESET_CAUSE -/

theorem exec_resetBlock {r : Req} {s : State} (hs : Served 0xD01 r s) (hp : Shape r 4 []) (h0 : pb r 0 = 2) (hk : rd r.payload 2 2 = 0x5A5A)
    (hb : (resetBit (pb r 1)).isSome = true) : exec (.reset r) s =
      .next (answer r (ok []) { served s with power := { s.power with toReset := s.power.toReset ++ [(2, pb r 1, false)] } }) := by
  refine exec_okRep rfl hs ?_
  unfold resetCmd
  dsimp only
  rw [h0, shaped_ok hp, need_true (decide_eq_true (Or.inr rfl)), need_true (decide_eq_true hk), need_true (by rw [hb]; rfl)]
  exact need_true rfl

theorem exec_resetCause {r : Req} {s : State} (hs : Served 0xD02 r s) (hp : Shape r 4 [1, 2, 3]) (h1 : pb r 0 ≤ 1) : exec (.resetCause r) s =
    .next (answer r (ok (beBytes 4 (regWord s 0x504).toNat)) (if pb r 0 = 1 then setFld Fld.RESET_CAUSE_CAUSE 0 0 (served s) else served s)) := by
  refine exec_okRep rfl hs ?_
  unfold resetCauseCmd
  rw [shaped_ok hp, need_true (decide_eq_true h1)]
  rfl

/-- Settles O54. -/
theorem resets : Obligations.Resets := by
  unfold Obligations.Resets
  intro r s
  refine ⟨fun hrun => ?_, fun ns taken hn => exec_of rfl (if_pos (Or.inl hn)), fun hc => exec_of rfl (if_neg (Nat.not_le.mpr hc)),
    fun he => exec_of rfl (if_neg fun h => absurd (he.symm.trans h.1) (by decide)), fun hb hm he hq => ⟨fun hl => ?_, fun ns taken hh => ?_⟩,
    fun x o => ⟨fun hb => exec_of rfl (if_pos hb), fun hb hv => endsIn_of rfl rfl (optionLoading_shows x.isLt o hb hv)⟩,
    fun linear t => ⟨fun hb => endsIn_of rfl rfl (releaseStep_three hb), fun hb => ?_, fun hb => exec_of rfl (releaseStep_counts hb), fun hb => ?_, fun hb hc => ?_,
      fun hb hf hm => endsIn_of rfl (releaseStep_ten hb) (bootDone_shows rfl hf hm)⟩,
    fun hr => ⟨fun w => exec_of rfl (if_pos hr), fun hl h1 hmax => exec_of rfl (bootGo_passes hr hl h1 hmax), endsIn_of rfl rfl (bootGo_fails hr),
      fun v hbusy hb => endsIn_of rfl rfl (firmwareStart_shows hr v hbusy hb)⟩,
    fun code bit hb ht => exec_of rfl (blockRelease_open hb ht), fun code bit hb ht => endsIn_of rfl rfl (blockRelease_opens hb ht),
    fun t hb => endsIn_of rfl rfl (pcieIsolate_shows hb), fun t hb => exec_of rfl (if_pos hb), fun hs hp h0 hk hb => exec_resetBlock hs hp h0 hk hb,
    fun hs hp => ⟨fun h0 => ?_, fun h1 => ?_⟩⟩
  · obtain ⟨hm, hs⟩ := hrun
    have hplain := fun {causes : Nat} (hc : causes < 512) (clear por : Bool) => (engineReset_resets hc clear por hm hs).1
    refine ⟨fun hf => endsIn_of rfl (if_pos hf) (hplain (by decide) ..), fun he hf => endsIn_of rfl (if_pos ⟨he, hf⟩) (hplain (by decide) ..),
      fun w => endsIn_of rfl (if_neg hm) (critErr_shows hm hs w), endsIn_of rfl (if_neg fun h => hs h.1) (hplain (by decide) ..),
      fun he hq => endsIn_of rfl rfl (pwrGoodLoss_shows hm hs he hq), ?_, fun ns taken hn => ?_, fun brews t block partner rest hr => ?_⟩
    · obtain ⟨h1, h2, -⟩ := engineReset_power hm hs (causes := 0x20) (by decide) false false { s.power with hot := true } ⟨rfl, rfl, rfl⟩
      rw [Bool.or_true] at h1
      exact endsIn_of rfl (if_neg hm) ⟨h1, h2⟩
    · obtain ⟨h1, -, h2⟩ := engineReset_power hm hs (causes := 4) (by decide) false false { s.power with pinLow := true } ⟨rfl, rfl, rfl⟩
      rw [Bool.true_or] at h1
      have hlow : ¬ (ns < 100 ∨ (ns < 1000 ∧ ¬ taken = true) ∨ s.mode = .off) := by
        rintro (h | ⟨h, -⟩ | h)
        · omega
        · omega
        · exact hm h
      exact endsIn_of (y := resetnPin true ns taken s) rfl (if_neg hlow) ⟨h1, h2⟩
    · have hc : (if partner then 0x100 else 0x10) < 512 := by split <;> decide
      obtain ⟨h1, -, -⟩ := engineReset_power hm hs hc false false { s.power with toReset := rest } ⟨rfl, rfl, rfl⟩
      refine endsIn_of rfl ?_ h1
      unfold resetStart
      rw [hr]
      rfl
  · exact exec_of rfl (releaseHold_due hb hl rfl hm he hq)
  · exact exec_of rfl (releaseHold_due hb rfl hh hm he hq)
  · refine endsIn_of rfl (releaseStep_four hb) ⟨congrArg PowerSt.boot (cellarShown_power 1 (atStep 5 s)), fun c hc => cellarShown_state (by decide) hc _⟩
  · obtain ⟨h1, h2, h3, h4⟩ := releaseCellar_shows (atStep 6 s)
    exact endsIn_of rfl (releaseStep_five hb) ⟨congrArg PowerSt.boot h1, h2, h3, h4⟩
  · obtain ⟨h1, h2, h3, h4⟩ := releaseLocal_shows (s := atStep 7 s) hc
    exact endsIn_of rfl (releaseStep_six hb) ⟨congrArg PowerSt.boot h1, h2, h3, h4⟩
  · exact (exec_resetCause hs hp (by omega)).trans (by rw [if_neg (by omega)])
  · exact (exec_resetCause hs hp (by omega)).trans (by rw [if_pos h1])

end Sys2Proof.Machine

/-!
# Shadow pairs
-/

namespace Sys2Proof.Machine

/-! ### What the work on channels and ports at a switch does not touch -/

/-- The state as a pair's switch shows it: mode, pair, frame, and the words of the pair's status, its partner and the endpoint's ID. -/
def pairView (s : State) : Mode × PairSt × Nat × Word32 × Word32 × Word32 := (s.mode, s.pair, s.frame, regWord s 0x744, regWord s 0x748, regWord s 0x24)

/-- Rows above the pair's registers, and the single registers beside them. -/
def besidePair (f : RegField) (i : Nat) : Bool :=
  decide (0x748 < f.base) || decide (i = 0) && decide (f.base ≠ 0x24) && decide (f.base ≠ 0x744) && decide (f.base ≠ 0x748)

theorem besidePair_above {f : RegField} (h : 0x748 < f.base) (i : Nat) : besidePair f i = true := by
  rw [besidePair, decide_eq_true h, Bool.true_or]

theorem fieldAddr_zero (f : RegField) : fieldAddr f 0 = f.base := by
  cases hs : f.stride <;> simp [fieldAddr, strideOff, hs]

theorem besidePair_ne {f : RegField} {i : Nat} (h : besidePair f i = true) : 0x744 ≠ fieldAddr f i ∧ 0x748 ≠ fieldAddr f i ∧ 0x24 ≠ fieldAddr f i := by
  simp only [besidePair, Bool.or_eq_true, Bool.and_eq_true, decide_eq_true_eq] at h
  rcases h with h | ⟨⟨⟨rfl, h1⟩, h2⟩, h3⟩
  · have := Nat.le_add_right f.base (strideOff f.stride i)
    unfold fieldAddr
    omega
  · rw [fieldAddr_zero]
    exact ⟨Ne.symm h2, Ne.symm h3, Ne.symm h1⟩

section View
variable {s : State}

theorem pairView_setFld {f : RegField} {i : Nat} (h : besidePair f i = true) (v : Nat) (s : State) : pairView (setFld f i v s) = pairView s := by
  obtain ⟨h1, h2, h3⟩ := besidePair_ne h
  rw [pairView, setFld_mode, setFld_pair, setFld_frame, regWord_setFld_ne _ _ _ _ _ h1, regWord_setFld_ne _ _ _ _ _ h2, regWord_setFld_ne _ _ _ _ _ h3]
  rfl

theorem pairView_setBit {f : RegField} {i : Nat} (h : besidePair f i = true) (s : State) : pairView (setBit f i s) = pairView s := pairView_setFld h 1 s
theorem pairView_clrBit {f : RegField} {i : Nat} (h : besidePair f i = true) (s : State) : pairView (clrBit f i s) = pairView s := pairView_setFld h 0 s
theorem pairView_countFld {f : RegField} {i : Nat} (h : besidePair f i = true) (s : State) : pairView (countFld f i s) = pairView s := by
  rw [countFld_eq, pairView_setFld h]
theorem pairView_raise (code a b : Nat) (s : State) : pairView (raise code a b s) = pairView s := rfl
theorem pairView_setAmp (c : Nat) (x : AmpSt) (s : State) : pairView (setAmp c x s) = pairView s := rfl
theorem pairView_setPort (p : Nat) (x : PortSt) (s : State) : pairView (setPort p x s) = pairView s := rfl

theorem pairView_setAmpState (c n : Nat) (s : State) : pairView (setAmpState c n s) = pairView s := by
  rw [setAmpState_eq, showGroup, pairView_setFld rfl, pairView_setFld rfl]

theorem pairView_gainGo (c : Nat) (s : State) : pairView (gainGo c s) = pairView s := by
  grind [gainGo, pairView_setAmp]

theorem pairView_endJob (h st fin d r : Nat) (s : State) : pairView (endJob h st fin d r s) = pairView s := by
  unfold endJob
  split
  · rfl
  · split <;> rfl

theorem pairView_diagJobCheck (h : Nat) (s : State) : pairView (diagJobCheck h s) = pairView s := by
  grind [diagJobCheck, pairView_raise, pairView_endJob]

theorem pairView_testAbort (c : Nat) (s : State) : pairView (testAbort c s) = pairView s := by
  grind [testAbort, testEnd, pairView_setAmp, pairView_setAmpState, pairView_gainGo, pairView_diagJobCheck]

theorem pairView_beginRelease (quick ready : Bool) (c : Nat) (s : State) : pairView (beginRelease quick ready c s) = pairView s := by
  grind [beginRelease, pairView_setAmp, pairView_setAmpState, (pairView_setBit (f := Fld.AMP_STATE_ENABLE) rfl)]

theorem pairView_faultStop (c cause : Nat) (s : State) : pairView (faultStop c cause s) = pairView s := by
  have hbase : ∀ f ∈ causeFields, 0x748 < f.base := by decide
  rw [faultStop_eq, pairView_testAbort, pairView_setAmp]
  unfold faultNoted
  dsimp only
  rw [pairView_clrBit rfl, pairView_clrBit rfl, pairView_setAmpState, pairView_setFld rfl, pairView_countFld rfl]
  exact causeField_all (P := fun f => pairView (setBit f c s) = pairView s) (fun f hf => pairView_setBit (besidePair_above (hbase f hf) c) s) cause

theorem pairView_startChannel (locked moved : Bool) (f c : Nat) (s : State) : pairView (startChannel locked moved f c s) = pairView s := by
  unfold startChannel
  dsimp only
  rw [pairView_setAmpState, pairView_clrBit rfl, pairView_setAmp, pairView_setFld rfl, pairView_setFld rfl, pairView_clrBit rfl]

theorem pairView_noFreq (c : Nat) (s : State) : pairView (noFreq c s) = pairView s := by
  rw [noFreq, pairView_faultStop, pairView_setBit rfl]

theorem pairView_forEach {α : Type} (l : List α) (f : α → State → State) (s : State) (hf : ∀ a s, pairView (f a s) = pairView s) :
    pairView (forEach l f s) = pairView s := forEach_keeps pairView l f hf s

theorem pairView_releaseGroup (g : Nat) (s : State) : pairView (releaseGroup g s) = pairView s := by
  have hcount : ∀ p : Prop, ∀ _ : Decidable p, pairView (if p then countFld Fld.AMP_GROUP_STATUS_RELEASE_COUNT g s else s) = pairView s := fun p _ => by
    split
    · exact pairView_countFld rfl s
    · rfl
  unfold releaseGroup
  dsimp only
  split
  · rfl
  · split
    · split
      · exact (pairView_forEach _ _ _ fun c s => pairView_startChannel ..).trans (hcount _ _)
      · split
        · exact (pairView_forEach _ _ _ fun c s => pairView_startChannel ..).trans (hcount _ _)
        · exact (pairView_forEach _ _ _ pairView_noFreq).trans (hcount _ _)
    · refine (pairView_forEach _ _ _ fun c s => ?_).trans (hcount _ _)
      split
      · exact pairView_startChannel ..
      · exact pairView_noFreq ..

theorem pairView_ampsTakeOver (s : State) : pairView (ampsTakeOver s) = pairView s := by
  unfold ampsTakeOver
  dsimp only
  refine (pairView_forEach _ _ _ pairView_releaseGroup).trans (pairView_forEach _ _ _ fun c s => ?_)
  split
  · rw [pairView_beginRelease, pairView_clrBit rfl]
  · rfl

/-- A channel gives up its outputs. -/
def gaveUp (c : Nat) (s : State) : State :=
  if ampState s c ≤ 1 ∨ ampState s c = 6 then clrBit Fld.AMP_STATE_ENABLE c s
  else
    let s := testAbort c s
    clrBit Fld.AMP_STATE_LOCKED c (clrBit Fld.AMP_STATE_ENABLE c (setAmpState c (restState s c)
      (setAmp c { ampOf s c with ready := false, quick := false, stopReq := false, gain := 0, side := false } s)))

theorem ampsGiveUp_eq (s : State) : ampsGiveUp s = forEach allAmps gaveUp s := (rfl)

theorem pairView_gaveUp (c : Nat) (s : State) : pairView (gaveUp c s) = pairView s := by
  unfold gaveUp
  split
  · exact pairView_clrBit rfl s
  · dsimp only
    rw [pairView_clrBit rfl, pairView_clrBit rfl, pairView_setAmpState, pairView_setAmp, pairView_testAbort]

theorem pairView_presentFrame (p : Nat) (m : List (Nat × S48)) (s : State) : pairView (presentFrame p m s) = pairView s := by
  unfold presentFrame
  dsimp only
  rw [pairView_setPort]
  split
  · exact pairView_setBit rfl s
  · rfl

theorem pairView_presentAgain (s : State) : pairView (presentAgain s) = pairView s := by
  refine pairView_forEach _ _ _ fun p s => ?_
  grind [pairView_presentFrame]

theorem pairView_avsSend (v : Nat) (s : State) : pairView (avsSend v s) = pairView s := by
  unfold avsSend
  split
  · rfl
  · split <;> rfl

theorem pairView_avsWindow (s : State) : pairView (avsWindow s) = pairView s := by
  rw [avsWindow, pairView_setFld rfl, pairView_setFld rfl]
  rfl

theorem pairView_putSetpoint (h : Nat) (s : State) : pairView (putSetpoint h s) = pairView s := by
  unfold putSetpoint
  split
  · rfl
  · rw [pairView_avsSend, pairView_clrBit rfl, pairView_avsWindow, showSetpoint, pairView_setFld rfl, pairView_setFld rfl]
    rfl

theorem pairView_avsStart (s : State) : pairView (avsStart s) = pairView s := by
  rw [avsStart, pairView_avsWindow, pairView_putSetpoint]

theorem pairView_modeBecomes (m : Mode) (b : Nat) (s : State) : pairView (modeBecomes m b s) = (m, (pairView s).2) := by
  obtain ⟨c, hc, hv⟩ : ∃ c : State, pairView (modeBecomes m b s) = pairView (setFld Fld.ENGINE_MODE_MODE 0 (modeCode m) (setFld Fld.MODE_STATUS_MODE 0 (modeCode m) c)) ∧
      pairView c = (m, (pairView s).2) := ⟨{ s with mode := m }, rfl, rfl⟩
  rw [hc, pairView_setFld rfl, pairView_setFld rfl, hv]

end View

section Same
variable {a b : State}

/-- Fields of the pair's registers are those of the view. -/
theorem fld_pairView (h : (pairView a).2 = (pairView b).2) {g : RegField} (hg : fieldAddr g 0 ∈ [0x744, 0x748, 0x24]) : fld a g = fld b g := by
  obtain ⟨-, h⟩ := Prod.mk.inj h
  obtain ⟨-, h⟩ := Prod.mk.inj h
  obtain ⟨h1, h⟩ := Prod.mk.inj h
  obtain ⟨h2, h3⟩ := Prod.mk.inj h
  rw [fld, fld]
  simp only [List.mem_cons, List.not_mem_nil, or_false] at hg
  rcases hg with hg | hg | hg
  · rw [hg, h1]
  · rw [hg, h2]
  · rw [hg, h3]

theorem mode_pairView (h : pairView a = pairView b) : a.mode = b.mode := (Prod.mk.inj h).1
theorem tail_pairView (h : pairView a = pairView b) : (pairView a).2 = (pairView b).2 := by rw [h]
theorem pair_pairView (h : (pairView a).2 = (pairView b).2) : a.pair = b.pair := (Prod.mk.inj h).1
theorem frame_pairView (h : (pairView a).2 = (pairView b).2) : a.frame = b.frame := (Prod.mk.inj (Prod.mk.inj h).2).1

end Same

/-! ### A safe trigger of a pair with nothing pending -/

theorem switchCancel_none {s : State} (h : s.pair.switchAt = none) : switchCancel s = s := by
  rw [switchCancel, h]

theorem setPend_frame (l : List PendMode) (s : State) : (setPend l s).pair = s.pair ∧ (setPend l s).evtWait = s.evtWait := by
  obtain ⟨v, w, h⟩ := setPend_eq l s
  rw [h, setFld_pair, setFld_pair, setFld_evtWait, setFld_evtWait]
  exact ⟨rfl, rfl⟩

theorem safeTrigger_quiet {s : State} (hs : s.pair.switchAt = none) (ht : s.pair.takeoverAt = none) (cause : Nat) : let y := safeTrigger cause s
    y.pair.switchAt = none ∧ y.pair.takeoverAt = none ∧ y.evtWait = s.evtWait := by
  unfold safeTrigger
  dsimp only
  split
  · split
    · exact ⟨hs, ht, rfl⟩
    · rw [switchCancel_none (s := { s with pair := { s.pair with takeoverAt := none } }) hs]
      obtain ⟨h1, h2⟩ := setPend_frame (⟨5, s.frame + 1, cause⟩ :: s.power.pend.filter (fun p => decide (p.target = 2))) { s with pair := { s.pair with takeoverAt := none } }
      exact ⟨(congrArg PairSt.switchAt h1).trans hs, congrArg PairSt.takeoverAt h1, h2⟩
  · split
    · obtain ⟨h1, h2⟩ := setPend_frame (s.power.pend.filter (fun p => decide (p.target ≠ 3 ∧ p.target ≠ 4))) s
      exact ⟨(congrArg PairSt.switchAt h1).trans hs, (congrArg PairSt.takeoverAt h1).trans ht, h2⟩
    · exact ⟨hs, ht, rfl⟩

/-! ### The new main (R374, R375) -/

/-- The standby as MAIN in RUN, before it drives its outputs. -/
def mainMade (s : State) : State := mainPair (avsStart (modeBecomes .run s.frame (setFld Fld.SHADOW_PARTNER_ROLE 0 1 (setPairState 1 s))))

/-- The new main drives its outputs. -/
def mainDrives (s : State) : State :=
  let s := if fld s Fld.FG_STATUS_CONSEC < 2 then setBit Fld.SHADOW_STATUS_PAIR_ACT 0 s else s
  presentAgain (ampsTakeOver s)

/-- The switch is counted and raised. -/
def switchNoted (other gap : Nat) (s : State) : State :=
  raise 0xB1 other gap (setBit Fld.SHADOW_STATUS_SWITCH_STICKY 0 (countFld Fld.SHADOW_SWITCH_COUNT_SWITCHES 0 s))

/-- The new main drives its outputs and the switch is noted. -/
def mainShown (gap : Nat) (s : State) : State := switchNoted (ownEndpoint (mainDrives (mainMade s))) gap (mainDrives (mainMade s))

/-- What follows once the engine is MAIN in RUN. -/
def afterMain (gap : Nat) (s : State) : State :=
  let s := if fld s Fld.FG_STATUS_CONSEC < 2 then setBit Fld.SHADOW_STATUS_PAIR_ACT 0 s else s
  let s := presentAgain (ampsTakeOver s)
  let s := raise 0xB1 (ownEndpoint s) gap (setBit Fld.SHADOW_STATUS_SWITCH_STICKY 0 (countFld Fld.SHADOW_SWITCH_COUNT_SWITCHES 0 s))
  if fbit s Fld.THERM_STATUS_WARN_ACTIVE then safeTrigger 3 s else s

theorem afterMain_eq (gap : Nat) (s : State) :
    afterMain gap s = (let y := switchNoted (ownEndpoint (mainDrives s)) gap (mainDrives s); if fbit y Fld.THERM_STATUS_WARN_ACTIVE then safeTrigger 3 y else y) := by
  unfold afterMain mainDrives
  generalize (if fld s Fld.FG_STATUS_CONSEC < 2 then setBit Fld.SHADOW_STATUS_PAIR_ACT 0 s else s) = b
  dsimp only
  generalize presentAgain (ampsTakeOver b) = c
  rfl

theorem becomeMain_eq (gap : Nat) (s : State) : becomeMain gap s =
    if fbit (mainShown gap s) Fld.THERM_STATUS_WARN_ACTIVE then safeTrigger 3 (mainShown gap s) else mainShown gap s :=
  (show becomeMain gap s = afterMain gap (mainMade s) from rfl).trans (afterMain_eq gap (mainMade s))

theorem switchNoted_shows (other gap : Nat) (s : State) : let y := switchNoted other gap s
    y.mode = s.mode ∧ y.pair = s.pair ∧ fld y Fld.SHADOW_STATUS_STATE = fld s Fld.SHADOW_STATUS_STATE ∧
      fld y Fld.SHADOW_PARTNER_ROLE = fld s Fld.SHADOW_PARTNER_ROLE ∧ fld y Fld.SHADOW_STATUS_SWITCH_STICKY = 1 ∧
      fld y Fld.SHADOW_STATUS_PAIR_ACT = fld s Fld.SHADOW_STATUS_PAIR_ACT ∧
      ⟨0xB1, s.frame, other % 2 ^ 32, gap % 2 ^ 32, none⟩ ∈ y.evtWait := by
  obtain ⟨b, hb, h1, h2, h3, h4, h5, h6, h7⟩ : ∃ b : State, switchNoted other gap s = raise 0xB1 other gap b ∧ b.mode = s.mode ∧ b.pair = s.pair ∧
      fld b Fld.SHADOW_STATUS_STATE = fld s Fld.SHADOW_STATUS_STATE ∧ fld b Fld.SHADOW_PARTNER_ROLE = fld s Fld.SHADOW_PARTNER_ROLE ∧
      fld b Fld.SHADOW_STATUS_SWITCH_STICKY = 1 ∧ fld b Fld.SHADOW_STATUS_PAIR_ACT = fld s Fld.SHADOW_STATUS_PAIR_ACT ∧ b.frame = s.frame := by
    refine ⟨setFld Fld.SHADOW_STATUS_SWITCH_STICKY 0 1 (setFld Fld.SHADOW_SWITCH_COUNT_SWITCHES 0 _ s), rfl, ?_, ?_, ?_, ?_, ?_, ?_, ?_⟩
    · rw [setFld_mode, setFld_mode]
    · rw [setFld_pair, setFld_pair]
    · rw [fld_setFld_rows (by decide), fld_setFld_other _ _ _ _ _ _ (by decide)]
    · rw [fld_setFld_other _ _ _ _ _ _ (by decide), fld_setFld_other _ _ _ _ _ _ (by decide)]
    · exact fld_setFld _ _ _ _ (by decide) (by decide) (by decide)
    · rw [fld_setFld_rows (by decide), fld_setFld_other _ _ _ _ _ _ (by decide)]
    · rw [setFld_frame, setFld_frame]
  dsimp only
  rw [hb, raised_evtWait, h7]
  exact ⟨h1, h2, h3, h4, h5, h6, List.mem_append.mpr (Or.inr (List.mem_singleton.mpr rfl))⟩

theorem fld_mainPair (s : State) (g : RegField) : fld (mainPair s) g = fld s g := fld_congr (show (mainPair s).regs = s.regs from rfl) g 0

/-- The standby with the role and the state of a main. -/
def roleMain (s : State) : State := setFld Fld.SHADOW_PARTNER_ROLE 0 1 (setFld Fld.SHADOW_STATUS_STATE 0 1 s)

theorem roleMain_shows (s : State) : (roleMain s).frame = s.frame ∧ pairState (roleMain s) = 1 ∧ fld (roleMain s) Fld.SHADOW_PARTNER_ROLE = 1 ∧
    ownEndpoint (roleMain s) = ownEndpoint s := by
  have h1 : ∀ b : State, fld (setFld Fld.SHADOW_PARTNER_ROLE 0 1 b) Fld.SHADOW_STATUS_STATE = fld b Fld.SHADOW_STATUS_STATE := fun b =>
    fld_setFld_other _ _ _ _ _ _ (by decide)
  have h2 : ∀ b : State, fld (setFld Fld.SHADOW_PARTNER_ROLE 0 1 b) Fld.ENDPOINT_ID_ID = fld b Fld.ENDPOINT_ID_ID := fun b =>
    fld_setFld_other _ _ _ _ _ _ (by decide)
  have h3 : fld (setFld Fld.SHADOW_STATUS_STATE 0 1 s) Fld.ENDPOINT_ID_ID = fld s Fld.ENDPOINT_ID_ID := fld_setFld_other _ _ _ _ _ _ (by decide)
  unfold roleMain
  rw [setFld_frame, setFld_frame, pairState, h1, ownEndpoint, ownEndpoint, h2, h3]
  exact ⟨rfl, fld_setFld _ _ _ _ (by decide) (by decide) (by decide), fld_setFld _ _ _ _ (by decide) (by decide) (by decide), rfl⟩

theorem mainMade_eq (s : State) : mainMade s = mainPair (avsStart (modeBecomes .run s.frame (roleMain s))) := (rfl)

theorem mainPair_frame (s : State) : (mainPair s).mode = s.mode ∧ (mainPair s).pair.takeoverAt = none ∧ (mainPair s).pair.switchAt = none ∧
    (mainPair s).frame = s.frame := ⟨rfl, rfl, rfl, rfl⟩

theorem mainMade_shows (s : State) : let y := mainMade s
    y.mode = .run ∧ y.pair.takeoverAt = none ∧ y.pair.switchAt = none ∧ y.frame = s.frame ∧ pairState y = 1 ∧ fld y Fld.SHADOW_PARTNER_ROLE = 1 ∧
      ownEndpoint y = ownEndpoint s := by
  obtain ⟨hframe, hst, hrole, hown⟩ := roleMain_shows s
  have hv : pairView (avsStart (modeBecomes .run s.frame (roleMain s))) = (.run, (pairView (roleMain s)).2) := by rw [pairView_avsStart, pairView_modeBecomes]
  have hmode : (avsStart (modeBecomes .run s.frame (roleMain s))).mode = .run := (Prod.mk.inj hv).1
  have htail : (pairView (avsStart (modeBecomes .run s.frame (roleMain s)))).2 = (pairView (roleMain s)).2 := (Prod.mk.inj hv).2
  have hf := frame_pairView htail
  obtain ⟨m1, m2, m3, m4⟩ := mainPair_frame (avsStart (modeBecomes .run s.frame (roleMain s)))
  dsimp only
  rw [mainMade_eq, m1, m2, m3, m4, pairState, ownEndpoint, fld_mainPair, fld_mainPair, fld_mainPair, fld_pairView htail (g := Fld.SHADOW_STATUS_STATE) (by decide),
    fld_pairView htail (g := Fld.SHADOW_PARTNER_ROLE) (by decide), fld_pairView htail (g := Fld.ENDPOINT_ID_ID) (by decide)]
  exact ⟨hmode, rfl, rfl, hf.trans hframe, hst, hrole, hown⟩

theorem mainDrives_shows (s : State) : let y := mainDrives s
    y.mode = s.mode ∧ y.pair = s.pair ∧ y.frame = s.frame ∧ pairState y = pairState s ∧ fld y Fld.SHADOW_PARTNER_ROLE = fld s Fld.SHADOW_PARTNER_ROLE ∧
      ownEndpoint y = ownEndpoint s := by
  obtain ⟨q, hq, hm, hp, hf, hst, hrole, hown⟩ : ∃ q : State, mainDrives s = presentAgain (ampsTakeOver q) ∧ q.mode = s.mode ∧ q.pair = s.pair ∧ q.frame = s.frame ∧
      pairState q = pairState s ∧ fld q Fld.SHADOW_PARTNER_ROLE = fld s Fld.SHADOW_PARTNER_ROLE ∧ ownEndpoint q = ownEndpoint s := by
    refine ⟨_, rfl, ?_⟩
    split
    · rw [setBit_eq, setFld_mode, setFld_pair, setFld_frame, pairState, ownEndpoint, fld_setFld_rows (by decide), fld_setFld_other _ _ _ _ _ _ (by decide),
        fld_setFld_other _ _ _ _ _ _ (by decide)]
      exact ⟨rfl, rfl, rfl, rfl, rfl, rfl⟩
    · exact ⟨rfl, rfl, rfl, rfl, rfl, rfl⟩
  have hv : pairView (presentAgain (ampsTakeOver q)) = pairView q := by rw [pairView_presentAgain, pairView_ampsTakeOver]
  have ht := tail_pairView hv
  dsimp only
  rw [hq]
  exact ⟨(mode_pairView hv).trans hm, (pair_pairView ht).trans hp, (frame_pairView ht).trans hf, (fld_pairView ht (g := Fld.SHADOW_STATUS_STATE) (by decide)).trans hst,
    (fld_pairView ht (g := Fld.SHADOW_PARTNER_ROLE) (by decide)).trans hrole, (fld_pairView ht (g := Fld.ENDPOINT_ID_ID) (by decide)).trans hown⟩

theorem becomeMain_shows (gap : Nat) (s : State) : let y := becomeMain gap s
    y.mode = .run ∧ pairState y = 1 ∧ fld y Fld.SHADOW_PARTNER_ROLE = 1 ∧ fld y Fld.SHADOW_STATUS_SWITCH_STICKY = 1 ∧ y.pair.takeoverAt = none ∧
      y.pair.switchAt = none ∧ ⟨0xB1, s.frame, ownEndpoint s % 2 ^ 32, gap % 2 ^ 32, none⟩ ∈ y.evtWait := by
  obtain ⟨a1, a2, a3, a4, a5, a6, a7⟩ := mainMade_shows s
  obtain ⟨b1, b2, b3, b4, b5, b6⟩ := mainDrives_shows (mainMade s)
  obtain ⟨c1, c2, c3, c4, c5, -, c7⟩ := switchNoted_shows (ownEndpoint (mainDrives (mainMade s))) gap (mainDrives (mainMade s))
  have hshown : mainShown gap s = switchNoted (ownEndpoint (mainDrives (mainMade s))) gap (mainDrives (mainMade s)) := rfl
  rw [← hshown, b6, a7, b3, a4] at c7
  rw [← hshown] at c1 c2 c3 c4 c5
  have hsw : (mainShown gap s).pair.switchAt = none := by rw [c2, b2]; exact a3
  have hto : (mainShown gap s).pair.takeoverAt = none := by rw [c2, b2]; exact a2
  have hst : pairState (mainShown gap s) = 1 := c3.trans (b4.trans a5)
  have hrole := c4.trans (b5.trans a6)
  have hmode := c1.trans (b1.trans a1)
  dsimp only
  rw [becomeMain_eq]
  generalize mainShown gap s = y at hsw hto hst hrole hmode c5 c7 ⊢
  split
  · have hk := safeFrame_safeTrigger 3 y
    obtain ⟨d1, d2, d3⟩ := safeTrigger_quiet hsw hto 3
    rw [d3]
    exact ⟨hk.mode.trans hmode, (hk.fields _ _ (by decide)).trans hst, (hk.fields _ _ (by decide)).trans hrole, (hk.fields _ _ (by decide)).trans c5, d2, d1, c7⟩
  · exact ⟨hmode, hst, hrole, c5, hto, hsw, c7⟩

/-! ### Outputs given up (R375, R376) -/

/-- The end of a test leaves what a change of a channel's state leaves. -/
theorem fld_testAbort {g : RegField} (h : besideState g = true) {c j : Nat} (hc : c ≤ 32) (hj : j ≤ 32) (s : State) : fld (testAbort c s) g j = fld s g j := by
  cases ht : (ampOf s c).test with
  | none => rw [testAbort, testEnd_untested 2 0 ht]
  | some t =>
    rw [testAbort, testEnd_tested 2 0 ht, fld_core (diagJobCheck_core ..)]
    unfold testLeft
    dsimp only
    split
    · split
      · rw [fld_congr (gainGo_shows c _).1, fld_setAmpState _ _ h hc hj, fld_setAmp]
      · rw [fld_setAmp, fld_setAmp]
    · split
      · rw [fld_setAmp]
      · rw [fld_setAmp, fld_setAmp]

theorem gaveUp_low {c : Nat} (hc : c ≤ 32) (s : State) : fld (gaveUp c s) Fld.AMP_STATE_ENABLE c = 0 := by
  unfold gaveUp
  split
  · exact fld_setFld _ _ _ _ (by decide) (by decide) (by decide)
  · dsimp only
    rw [clrBit_eq, fld_setFld_apartTo (by decide) hc hc, clrBit_eq]
    exact fld_setFld _ _ _ _ (by decide) (by decide) (by decide)

theorem gaveUp_others {c d : Nat} (hc : c ≤ 32) (hd : d ≤ 32) (hne : d ≠ c) (s : State) : fld (gaveUp c s) Fld.AMP_STATE_ENABLE d = fld s Fld.AMP_STATE_ENABLE d := by
  unfold gaveUp
  split
  · exact fld_setFld_index (n := 0x40) (by decide) hne ..
  · dsimp only
    rw [clrBit_eq, fld_setFld_apartTo (by decide) hc hd, clrBit_eq, fld_setFld_index (n := 0x40) (by decide) hne, fld_setAmpState _ _ (by decide) hc hd, fld_setAmp,
      fld_testAbort (by decide) hc hd]

theorem ampsGiveUp_dark (s : State) : BankDark (ampsGiveUp s) := by
  intro d hd
  have hnodup : allAmps.Nodup := List.nodup_range
  have hmem : d ∈ allAmps := List.mem_range.mpr hd
  obtain ⟨s', -, hy⟩ := forEach_once (fun s => fld s Fld.AMP_STATE_ENABLE d) (f := gaveUp) hnodup hmem
    (fun a ha hne t => gaveUp_others (Nat.le_of_lt (List.mem_range.mp ha)) (Nat.le_of_lt hd) (Ne.symm hne) t) s
  rw [ampsGiveUp_eq]
  exact hy.trans (gaveUp_low (Nat.le_of_lt hd) s')

theorem pairView_ampsGiveUp (s : State) : pairView (ampsGiveUp s) = pairView s := by
  rw [ampsGiveUp_eq, pairView_forEach _ _ _ pairView_gaveUp]

theorem fld_presentFrame_enable {p : Nat} (hp : p ≤ 32) (m : List (Nat × S48)) (d : Nat) (s : State) :
    fld (presentFrame p m s) Fld.AMP_STATE_ENABLE d = fld s Fld.AMP_STATE_ENABLE d := by
  have hset : ∀ (x : PortSt) (t : State), fld (setPort p x t) Fld.AMP_STATE_ENABLE d = fld t Fld.AMP_STATE_ENABLE d := fun _ _ => rfl
  unfold presentFrame
  dsimp only
  rw [hset]
  split
  · exact fld_setFld_below (n := 32) hp (by decide) ..
  · rfl

theorem presentAgain_dark {s : State} (h : BankDark s) : BankDark (presentAgain s) := by
  intro d hd
  refine (forEach_keeps_mem (fun s => fld s Fld.AMP_STATE_ENABLE d) (List.range 32) _ (fun p hp t => ?_) s).trans (h d hd)
  have hp : p ≤ 32 := Nat.le_of_lt (List.mem_range.mp hp)
  grind [fld_presentFrame_enable]

theorem BankDark.setFld {s : State} (h : BankDark s) {f : RegField} (hf : fieldAddr f 0 < Fld.AMP_STATE_ENABLE.base) (v : Nat) : BankDark (setFld f 0 v s) :=
  fun c hc => (fld_setFld_alone hf ..).trans (h c hc)

/-! ### The old main (R375, R376) -/

/-- The main with the role and the state of a locked standby, PAIR_ACT low. -/
def roleStandby (s : State) : State :=
  setFld Fld.SHADOW_PARTNER_ROLE 0 2 (setFld Fld.SHADOW_STATUS_STATE 0 3 (setFld Fld.SHADOW_STATUS_PAIR_ACT 0 0 s))

theorem roleStandby_shows (s : State) : (roleStandby s).mode = s.mode ∧ pairState (roleStandby s) = 3 ∧ fld (roleStandby s) Fld.SHADOW_PARTNER_ROLE = 2 ∧
    fld (roleStandby s) Fld.SHADOW_STATUS_PAIR_ACT = 0 := by
  have h1 : ∀ b : State, fld (setFld Fld.SHADOW_PARTNER_ROLE 0 2 b) Fld.SHADOW_STATUS_STATE = fld b Fld.SHADOW_STATUS_STATE := fun b =>
    fld_setFld_other _ _ _ _ _ _ (by decide)
  have h2 : ∀ b : State, fld (setFld Fld.SHADOW_PARTNER_ROLE 0 2 b) Fld.SHADOW_STATUS_PAIR_ACT = fld b Fld.SHADOW_STATUS_PAIR_ACT := fun b =>
    fld_setFld_other _ _ _ _ _ _ (by decide)
  unfold roleStandby
  rw [setFld_mode, setFld_mode, setFld_mode, pairState, h1, h2, fld_setFld_rows (f := Fld.SHADOW_STATUS_STATE) (g := Fld.SHADOW_STATUS_PAIR_ACT) (by decide)]
  exact ⟨rfl, fld_setFld _ _ _ _ (by decide) (by decide) (by decide), fld_setFld _ _ _ _ (by decide) (by decide) (by decide),
    fld_setFld _ _ _ _ (by decide) (by decide) (by decide)⟩

/-- The standby that the main becomes, its outputs given up. -/
def standbyMade (s : State) : State := presentAgain (ampsGiveUp (standbyPair (avsStart (roleStandby (modeBecomes .shadow s.frame s)))))

theorem becomeStandby_eq (s : State) : becomeStandby s = switchNoted (partnerId (standbyMade s)) 0 (standbyMade s) := (rfl)

theorem standbyPair_frame (s : State) : (standbyPair s).mode = s.mode ∧ (standbyPair s).pair.switchAt = none := ⟨rfl, rfl⟩

theorem fld_standbyPair (s : State) (g : RegField) : fld (standbyPair s) g = fld s g := fld_congr (show (standbyPair s).regs = s.regs from rfl) g 0

theorem standbyMade_shows (s : State) : let y := standbyMade s
    y.mode = .shadow ∧ pairState y = 3 ∧ fld y Fld.SHADOW_PARTNER_ROLE = 2 ∧ fld y Fld.SHADOW_STATUS_PAIR_ACT = 0 ∧ y.pair.switchAt = none ∧ BankDark y := by
  obtain ⟨r1, r2, r3, r4⟩ := roleStandby_shows (modeBecomes .shadow s.frame s)
  have hm : (modeBecomes .shadow s.frame s).mode = .shadow := (Prod.mk.inj (pairView_modeBecomes (s := s) .shadow s.frame)).1
  rw [hm] at r1
  have hdark := presentAgain_dark (ampsGiveUp_dark (standbyPair (avsStart (roleStandby (modeBecomes .shadow s.frame s)))))
  unfold standbyMade
  generalize roleStandby (modeBecomes .shadow s.frame s) = q at r1 r2 r3 r4 hdark ⊢
  have hv := pairView_avsStart (s := q)
  have hmode := mode_pairView hv
  have htail := tail_pairView hv
  generalize avsStart q = c at hv hmode htail hdark ⊢
  obtain ⟨m1, m2⟩ := standbyPair_frame c
  have hw : pairView (presentAgain (ampsGiveUp (standbyPair c))) = pairView (standbyPair c) := by rw [pairView_presentAgain, pairView_ampsGiveUp]
  have hwt := tail_pairView hw
  dsimp only
  rw [mode_pairView hw, pair_pairView hwt, pairState, fld_pairView hwt (g := Fld.SHADOW_STATUS_STATE) (by decide), fld_pairView hwt (g := Fld.SHADOW_PARTNER_ROLE) (by decide),
    fld_pairView hwt (g := Fld.SHADOW_STATUS_PAIR_ACT) (by decide), fld_standbyPair, fld_standbyPair, fld_standbyPair,
    fld_pairView htail (g := Fld.SHADOW_STATUS_STATE) (by decide), fld_pairView htail (g := Fld.SHADOW_PARTNER_ROLE) (by decide),
    fld_pairView htail (g := Fld.SHADOW_STATUS_PAIR_ACT) (by decide), m1, m2, hmode]
  exact ⟨r1, r2, r3, r4, rfl, hdark⟩

theorem switchNoted_dark {s : State} (h : BankDark s) (other gap : Nat) : BankDark (switchNoted other gap s) := fun c hc => by
  unfold switchNoted
  rw [fld_raised, setBit_eq, countFld_eq, fld_setFld_alone (by decide), fld_setFld_alone (by decide)]
  exact h c hc

theorem becomeStandby_shows (s : State) : let y := becomeStandby s
    y.mode = .shadow ∧ pairState y = 3 ∧ fld y Fld.SHADOW_PARTNER_ROLE = 2 ∧ fld y Fld.SHADOW_STATUS_PAIR_ACT = 0 ∧ y.pair.switchAt = none ∧ BankDark y := by
  obtain ⟨a1, a2, a3, a4, a5, a6⟩ := standbyMade_shows s
  obtain ⟨b1, b2, b3, b4, -, b6, -⟩ := switchNoted_shows (partnerId (standbyMade s)) 0 (standbyMade s)
  have hdark := switchNoted_dark a6 (partnerId (standbyMade s)) 0
  dsimp only
  rw [becomeStandby_eq]
  generalize switchNoted (partnerId (standbyMade s)) 0 (standbyMade s) = y at b1 b2 b3 b4 b6 hdark ⊢
  exact ⟨b1.trans a1, b3.trans a2, b4.trans a3, b6.trans a4, (congrArg PairSt.switchAt b2).trans a5, hdark⟩

/-! ### Pairing (R369) -/

/-- The mirror trace of a pair is known, where it has one. -/
def mirrorSet (trace : Option Nat) (s : State) : State :=
  match trace with
  | some t => setFld Fld.SHADOW_MIRROR_TRACE 0 t (setFld Fld.SHADOW_MIRROR_VALID 0 1 s)
  | none => s

theorem pairMake_eq (ep role : Nat) (trace : Option Nat) (s : State) : pairMake ep role trace s =
    (let b := mirrorSet trace (setFld Fld.SHADOW_PARTNER_PARTNER 0 ep (setFld Fld.SHADOW_PARTNER_ROLE 0 role { s with pair := pairNone }))
     setFld Fld.SHADOW_STATUS_STATE 0 (if role = 1 then 1 else 0) { b with pair := { b.pair with lastPeer := b.frame } }) := (rfl)

theorem mirrorSet_frame (trace : Option Nat) (s : State) : (mirrorSet trace s).mode = s.mode ∧ (mirrorSet trace s).mem = s.mem ∧ (mirrorSet trace s).pair = s.pair ∧
    (mirrorSet trace s).frame = s.frame ∧ (∀ g : RegField, fieldAddr g 0 ≠ 0x74C → fld (mirrorSet trace s) g = fld s g) ∧
    ∀ t, trace = some t → mirrorTrace (mirrorSet trace s) = some (t % 64) := by
  cases trace with
  | none => exact ⟨rfl, rfl, rfl, rfl, fun _ _ => rfl, fun t h => by cases h⟩
  | some t =>
    unfold mirrorSet
    dsimp only
    rw [setFld_mode, setFld_mode, setFld_mem, setFld_mem, setFld_pair, setFld_pair, setFld_frame, setFld_frame]
    refine ⟨rfl, rfl, rfl, rfl, fun g hg => ?_, fun u hu => ?_⟩
    · rw [fld_setFld_other _ _ _ _ _ _ hg, fld_setFld_other _ _ _ _ _ _ hg]
    · cases hu
      have hvalid : fld (setFld Fld.SHADOW_MIRROR_TRACE 0 t (setFld Fld.SHADOW_MIRROR_VALID 0 1 s)) Fld.SHADOW_MIRROR_VALID = 1 := by
        rw [fld_setFld_rows (by decide)]
        exact fld_setFld _ _ _ _ (by decide) (by decide) (by decide)
      rw [mirrorTrace, fbit, hvalid, if_pos (by decide), fld_setFld_mod _ (by decide) (by decide)]
      rfl

theorem paired_pairMake {role : Nat} (hr : role < 4) (ep : Nat) (trace : Option Nat) (s : State) : Paired ep role trace s (pairMake ep role trace s) := by
  obtain ⟨q, hq, q1, q2, q3, q4, q5, q6⟩ : ∃ q : State, q = setFld Fld.SHADOW_PARTNER_PARTNER 0 ep (setFld Fld.SHADOW_PARTNER_ROLE 0 role { s with pair := pairNone }) ∧
      q.mode = s.mode ∧ q.mem = s.mem ∧ q.pair = pairNone ∧ q.frame = s.frame ∧ partnerId q = ep % 2 ^ 18 ∧ fld q Fld.SHADOW_PARTNER_ROLE = role := by
    refine ⟨_, rfl, ?_, ?_, ?_, ?_, ?_, ?_⟩
    · rw [setFld_mode, setFld_mode]
    · rw [setFld_mem, setFld_mem]
    · rw [setFld_pair, setFld_pair]
    · rw [setFld_frame, setFld_frame]
    · rw [partnerId, fld_setFld_mod _ (by decide) (by decide)]
      rfl
    · rw [fld_setFld_rows (by decide)]
      exact fld_setFld _ _ _ _ (by decide) hr (by decide)
  obtain ⟨b1, b2, b3, b4, b5, b6⟩ := mirrorSet_frame trace q
  rw [pairMake_eq, ← hq]
  generalize mirrorSet trace q = b at b1 b2 b3 b4 b5 b6 ⊢
  obtain ⟨c, hc, c1, c2, c3, hregs⟩ : ∃ c : State, c = { b with pair := { b.pair with lastPeer := b.frame } } ∧ c.mode = b.mode ∧ c.mem = b.mem ∧
      c.pair = { b.pair with lastPeer := b.frame } ∧ c.regs = b.regs := ⟨_, rfl, rfl, rfl, rfl, rfl⟩
  dsimp only
  rw [← hc]
  have hother : ∀ g : RegField, fieldAddr g 0 ≠ 0x744 → fld (setFld Fld.SHADOW_STATUS_STATE 0 (if role = 1 then 1 else 0) c) g = fld b g := fun g hg =>
    (fld_setFld_other _ _ _ _ _ _ hg).trans (fld_congr hregs g 0)
  refine ⟨?_, ?_, ?_, fun t ht => ?_, ?_, ?_, ?_⟩
  · rw [partnerId, hother _ (by decide), b5 _ (by decide)]; exact q5
  · rw [hother _ (by decide), b5 _ (by decide), q6]
  · exact fld_setFld _ _ _ _ (by decide) (by split <;> decide) (by decide)
  · rw [mirrorTrace, fbit, hother _ (by decide), hother _ (by decide)]
    exact b6 t ht
  · rw [setFld_pair, c3, b3, b4, q3, q4]
  · rw [setFld_mode, c1, b1, q1]
  · rw [setFld_mem, c2, b2, q2]

theorem takePair_none {s : State} (h : s.mgmt = []) (action : Nat) : takePair action s = none := by
  rw [takePair, takeRec, h]
  rfl

theorem takePair_record {action : Nat} {m : MgmtRec} {s : State} (h : PairRecord action m s) : takePair action s = some (m, without m s) := by
  rw [takePair, takeRec, h]
  rfl

section ShadowPair
variable {r : Req} {s : State} (hs : Served 0xB02 r s) (hp : Shape r 8 [5, 6, 7]) (hep : rd r.payload 0 4 < 2 ^ 18) (hne : rd r.payload 0 4 ≠ ownEndpoint s)
  (hrole : pb r 4 = 1 ∨ pb r 4 = 2)
include hs hp hep hne hrole

theorem shadowPair_refused (hm : s.mode ≠ .configure) : shadowPair r s = answer r ⟨0x23, 0, modeCode s.mode, []⟩ (served s) := by
  have hown : rd r.payload 0 4 ≠ ownEndpoint (served s) := hne
  have hmode : decide ((served s).mode = .configure) = false := decide_eq_false hm
  have hcode : modeCode s.mode % 2 ^ 32 = modeCode s.mode := by cases s.mode <;> rfl
  unfold shadowPair
  rw [taken_eq hs]
  dsimp only
  rw [shaped_ok hp, need_true (decide_eq_true ⟨hep, hown⟩), need_true (decide_eq_true hrole), need_false hmode]
  show answer r ⟨0x23, 0, modeCode s.mode % 2 ^ 32, []⟩ (served s) = _
  rw [hcode]

theorem shadowPair_taken (hm : s.mode = .configure) (hw : s.pair.wait = none) (hsome : pb r 4 = 1 ∨ (mirrorTo s (rd r.payload 0 4)).isSome = true) :
    shadowPair r s = pairStart r (rd r.payload 0 4) (pb r 4) (ok []) (served s) := by
  have hown : rd r.payload 0 4 ≠ ownEndpoint (served s) := hne
  have hmode : decide ((served s).mode = .configure) = true := decide_eq_true hm
  have hmirror : (decide (pb r 4 = 1) || (mirrorTo (served s) (rd r.payload 0 4)).isSome) = true := by
    rcases hsome with h | h
    · rw [decide_eq_true h, Bool.true_or]
    · rw [show mirrorTo (served s) _ = mirrorTo s _ from rfl, h, Bool.or_true]
  have hwait : pairWaitEnds (served s) = served s := by rw [pairWaitEnds, show (served s).pair.wait = none from hw]
  unfold shadowPair
  rw [taken_eq hs]
  dsimp only
  rw [shaped_ok hp, need_true (decide_eq_true ⟨hep, hown⟩), need_true (decide_eq_true hrole), need_true hmode, need_true hmirror]
  show pairStart r (rd r.payload 0 4) (pb r 4) (ok []) (pairWaitEnds (served s)) = _
  rw [hwait]

theorem shadowPair_absent (hm : s.mode = .configure) (h2 : pb r 4 = 2) (hnone : mirrorTo s (rd r.payload 0 4) = none) :
    shadowPair r s = answer r ⟨0x64, 0, 0, []⟩ (served s) := by
  have hown : rd r.payload 0 4 ≠ ownEndpoint (served s) := hne
  have hmode : decide ((served s).mode = .configure) = true := decide_eq_true hm
  have hmirror : (decide (pb r 4 = 1) || (mirrorTo (served s) (rd r.payload 0 4)).isSome) = false := by
    rw [show mirrorTo (served s) _ = mirrorTo s _ from rfl, hnone, h2]
    rfl
  unfold shadowPair
  rw [taken_eq hs]
  dsimp only
  rw [shaped_ok hp, need_true (decide_eq_true ⟨hep, hown⟩), need_true (decide_eq_true hrole), need_true hmode, need_false hmirror]
  rfl

end ShadowPair

theorem pairRequest_accepts {m : MgmtRec} {t : Nat} {s : State} (hr : PairRecord 1 m s) (ht : m.trace = some t) (hm : s.mode = .configure)
    (hrole : fld s Fld.SHADOW_PARTNER_ROLE = 0) : let c := pairMake (rd m.body 4 4) 1 (some t) (without m s)
    pairRequest true s = sendRecordOn t 4 (pairBody c 2 0 0) c := by
  have hmade := (paired_pairMake (role := 1) (by decide) (rd m.body 4 4) (some t) (without m s)).mode
  have hnot : ¬ ((pairMake (rd m.body 4 4) 1 (some t) (without m s)).mode = .run ∧
      fld (pairMake (rd m.body 4 4) 1 (some t) (without m s)) Fld.FG_STATUS_CONSEC < 2) := fun h => by
    rw [hmade] at h
    exact absurd (hm.symm.trans h.1) (by decide)
  have hyes : ((without m s).mode = .configure ∨ (without m s).mode = .run) ∧ true = true ∧ (fld (without m s) Fld.SHADOW_PARTNER_ROLE = 0 ∨
      (fld (without m s) Fld.SHADOW_PARTNER_ROLE = 1 ∧ partnerId (without m s) = rd m.body 4 4)) := ⟨Or.inl hm, rfl, Or.inl hrole⟩
  unfold pairRequest
  rw [takePair_record hr]
  dsimp only
  rw [ht]
  dsimp only
  rw [if_pos hyes, if_neg hnot]

theorem pairRequest_refuses {m : MgmtRec} {t : Nat} {s : State} (hr : PairRecord 1 m s) (ht : m.trace = some t) {same : Bool}
    (h : same = false ∨ fld s Fld.SHADOW_PARTNER_ROLE = 2) : pairRequest same s = sendRecordOn t 4 (pairBody s 3 0x64 0) (without m s) := by
  have hno : ¬ (((without m s).mode = .configure ∨ (without m s).mode = .run) ∧ same = true ∧ (fld (without m s) Fld.SHADOW_PARTNER_ROLE = 0 ∨
      (fld (without m s) Fld.SHADOW_PARTNER_ROLE = 1 ∧ partnerId (without m s) = rd m.body 4 4))) := by
    rintro ⟨-, hsame, hrole⟩
    rcases h with h | h
    · exact absurd (h.symm.trans hsame) (by decide)
    · have h' : fld (without m s) Fld.SHADOW_PARTNER_ROLE = 2 := h
      omega
  unfold pairRequest
  rw [takePair_record hr]
  dsimp only
  rw [ht]
  exact if_neg hno

/-! ### The acquire stream (R370) -/

theorem takeAcq_head {x : AcqItem} {rest : List AcqItem} {s : State} (h : s.acqq = x :: rest) {use : Nat} (hu : x.use = use) :
    takeAcq use s = some (x, { s with acqq := rest }) := by
  rw [takeAcq, h]
  exact if_pos hu

section Acquire
variable {x : AcqItem} {rest : List AcqItem} {u : Nat} {s : State} (hq : s.acqq = x :: rest) (ha : acquiring s = some u)
include hq ha

theorem acquireData_lands (h8 : x.use = 8) (hat : areaAddr (areasOf s u) s.pair.got = some (x.addr % 2 ^ 35)) :
    acquireData s = memPoke (x.addr % 2 ^ 35) x.data { s with acqq := rest, pair := { s.pair with got := s.pair.got + x.data.length } } := by
  have ha' : acquiring { s with acqq := rest } = some u := ha
  have hat' : areaAddr (areasOf { s with acqq := rest } u) s.pair.got = some (x.addr % 2 ^ 35) := hat
  unfold acquireData
  rw [takeAcq_head hq h8]
  dsimp only
  rw [ha']
  dsimp only
  rw [if_pos hat']

theorem acquireRegisters_eq (h9 : x.use = 9) : acquireRegisters s =
    (let rs := (List.range (x.data.length / 16)).map (fun i => (u, rd x.data (16 * i) 2 % 256, rd x.data (16 * i + 4) 12))
     if x.addr % 1024 = u then { s with acqq := rest, pair := { s.pair with regs := s.pair.regs ++ rs } } else { s with acqq := rest }) := by
  have ha' : acquiring { s with acqq := rest } = some u := ha
  unfold acquireRegisters
  rw [takeAcq_head hq h9]
  dsimp only
  rw [ha']
  by_cases hu : x.addr % 1024 = u
  · subst hu
    rw [if_pos rfl, if_pos rfl]
  · rw [if_neg hu, if_neg (fun h => hu (Option.some.inj h).symm)]

theorem cutEnd_eq (h10 : x.use = 10) (hu : x.addr % 1024 = u) (t : Nat) : cutEnd t s =
    (let c : State := { s with acqq := rest }
     let b := rd x.data 0 8
     let d : State := { c with pair := { c.pair with cut := some (u, b) } }
     if c.frame ≤ b then d
     else if c.frame = b + 1 ∧ c.pair.hold = some u then startStall u c.frame t d
     else if c.frame = b + 1 ∧ (unitOf c u).frame ≤ b ∧ (unitOf c u).st ≠ .ended then d
     else { c with pair := { c.pair with regs := [] } }) := by
  have ha' : acquiring { s with acqq := rest } = some u := ha
  subst hu
  unfold cutEnd
  rw [takeAcq_head hq h10]
  dsimp only
  exact if_neg (not_not_intro ha')

end Acquire

theorem cutMissed_shows (s : State) : let c := countFld Fld.SHADOW_SWITCH_COUNT_CUT_MISS 0 { s with pair := { s.pair with hold := none, regs := [], cut := none } }
    c.pair = { s.pair with hold := none, regs := [], cut := none } ∧
      fld c Fld.SHADOW_SWITCH_COUNT_CUT_MISS = min (2 ^ 16 - 1) (fld s Fld.SHADOW_SWITCH_COUNT_CUT_MISS + 1) := by
  have hfld : fld { s with pair := { s.pair with hold := none, regs := [], cut := none } } Fld.SHADOW_SWITCH_COUNT_CUT_MISS = fld s Fld.SHADOW_SWITCH_COUNT_CUT_MISS := rfl
  dsimp only
  rw [countFld_eq, setFld_pair, hfld, satNat_eq_min]
  exact ⟨rfl, fld_setFld _ _ _ _ (by decide) (Nat.lt_of_le_of_lt (Nat.min_le_left ..) (by decide)) (by decide)⟩

/-! ### PAIR_SENSE (R374) -/

theorem sensed_eq (t : Nat) (s : State) : sensed t s = { setFld Fld.SHADOW_STATUS_PAIR_SENSE 0 0 s with
    pair := { s.pair with lowFrame := if s.tick + 1020 ≤ t then s.frame else s.frame - 1 } } := by
  unfold sensed
  dsimp only
  rw [clrBit_eq, setFld_tick, setFld_frame, setFld_pair]

theorem sensed_frame (t : Nat) (s : State) : (sensed t s).mode = s.mode ∧ (sensed t s).pair.takeoverAt = s.pair.takeoverAt ∧
    takeoverFrame (sensed t s) t = takeoverFrame s t ∧ fbit (sensed t s) Fld.SHADOW_CTRL_AUTO_EN = fbit s Fld.SHADOW_CTRL_AUTO_EN ∧
    pairState (sensed t s) = pairState s ∧ fld (sensed t s) Fld.SHADOW_STATUS_PAIR_SENSE = 0 := by
  obtain ⟨b, hb, h1, h2, h3, h4, h5, h6, h7⟩ : ∃ b : State, b = setFld Fld.SHADOW_STATUS_PAIR_SENSE 0 0 s ∧ b.mode = s.mode ∧ b.tick = s.tick ∧ b.frame = s.frame ∧
      b.fs = s.fs ∧ fld b Fld.SHADOW_CTRL_AUTO_EN = fld s Fld.SHADOW_CTRL_AUTO_EN ∧ pairState b = pairState s ∧ fld b Fld.SHADOW_STATUS_PAIR_SENSE = 0 := by
    refine ⟨_, rfl, setFld_mode .., setFld_tick .., setFld_frame .., setFld_fs .., ?_, ?_, fld_setFld _ _ _ _ (by decide) (by decide) (by decide)⟩
    · exact fld_setFld_other _ _ _ _ _ _ (by decide)
    · exact fld_setFld_rows (by decide) ..
  rw [sensed_eq, ← hb]
  refine ⟨h1, rfl, ?_, ?_, h6, h7⟩
  · unfold takeoverFrame boundaryFrom
    dsimp only
    rw [h2, h3, h4]
  · exact congrArg (fun x => decide (x ≠ 0)) h5

theorem senseLow_elsewhere {t : Nat} {s : State} (hm : s.mode ≠ .shadow) : senseLow t (sensed t s) = sensed t s := by
  obtain ⟨h1, -⟩ := sensed_frame t s
  exact if_neg fun h => hm (h1.symm.trans h.1)

theorem senseLow_schedules {t : Nat} {s : State} (hm : s.mode = .shadow) (he : fbit s Fld.SHADOW_CTRL_AUTO_EN = true) (ht : s.pair.takeoverAt = none)
    (h3 : pairState s = 3) : let y := senseLow t (sensed t s)
    fld y Fld.SHADOW_STATUS_PAIR_SENSE = 0 ∧ y.pair.takeoverAt = some (takeoverFrame s t) ∧ y.mode = .shadow := by
  obtain ⟨h1, h2, hto, h4, h5, h6⟩ := sensed_frame t s
  have hc : (sensed t s).mode = .shadow ∧ fbit (sensed t s) Fld.SHADOW_CTRL_AUTO_EN = true ∧ (sensed t s).pair.takeoverAt.isNone = true ∧
      (pairState (sensed t s) = 3 ∨ (fbit (sensed t s) Fld.SHADOW_CTRL_FORCE_EN = true ∧ (pairState (sensed t s) = 2 ∨ pairState (sensed t s) = 4))) :=
    ⟨h1.trans hm, h4.trans he, by rw [h2, ht]; rfl, Or.inl (h5.trans h3)⟩
  obtain ⟨y, hy, hyr, hyt, hym⟩ : ∃ y : State, senseLow t (sensed t s) = y ∧ y.regs = (sensed t s).regs ∧ y.pair.takeoverAt = some (takeoverFrame (sensed t s) t) ∧
      y.mode = (sensed t s).mode := ⟨_, if_pos hc, rfl, rfl, rfl⟩
  dsimp only
  rw [hy, fld_congr hyr, hyt, hto, hym]
  exact ⟨h6, rfl, h1.trans hm⟩

/-! ### PAIR_SENSE high at the old main (R376) -/

theorem pairSenseHigh_other {s : State} (h : pairState s ≠ 1) : pairSenseHigh s = setBit Fld.SHADOW_STATUS_PAIR_SENSE 0 s := by
  have hst : pairState (setBit Fld.SHADOW_STATUS_PAIR_SENSE 0 s) = pairState s := fld_setFld_rows (by decide) ..
  exact if_neg fun hc => h (hst.symm.trans hc.1)

/-- The old main gives up its outputs and regions. -/
def displaced (s : State) : State := presentAgain (ampsGiveUp { s with pair := { s.pair with displaced := true } })

theorem displaced_shows (s : State) : (displaced s).mode = s.mode ∧ (displaced s).frame = s.frame ∧ (displaced s).pair.displaced = true ∧
    fld (displaced s) Fld.SHADOW_STATUS_PAIR_SENSE = fld s Fld.SHADOW_STATUS_PAIR_SENSE ∧ BankDark (displaced s) := by
  obtain ⟨b, hb, h1, h2, h3, h4⟩ : ∃ b : State, b = { s with pair := { s.pair with displaced := true } } ∧ b.mode = s.mode ∧ b.frame = s.frame ∧
      b.pair.displaced = true ∧ b.regs = s.regs := ⟨_, rfl, rfl, rfl, rfl, rfl⟩
  have hv : pairView (presentAgain (ampsGiveUp b)) = pairView b := by rw [pairView_presentAgain, pairView_ampsGiveUp]
  have ht := tail_pairView hv
  unfold displaced
  rw [← hb]
  refine ⟨(mode_pairView hv).trans h1, (frame_pairView ht).trans h2, (congrArg PairSt.displaced (pair_pairView ht)).trans h3, ?_,
    presentAgain_dark (ampsGiveUp_dark b)⟩
  exact (fld_pairView ht (by decide)).trans (fld_congr h4 _ _)

theorem pairSenseHigh_main {s : State} (h1 : pairState s = 1) (hact : fbit s Fld.SHADOW_STATUS_PAIR_ACT = false) (hm : s.mode = .run ∨ s.mode = .safe) :
    let y := pairSenseHigh s
    y.power.pend.head? = some ⟨4, s.frame + 1, 0⟩ ∧ y.pair.displaced = true ∧ fld y Fld.SHADOW_STATUS_PAIR_SENSE = 1 ∧ BankDark y ∧ y.mode = s.mode := by
  obtain ⟨b, hb, hbm, hbf, hbs, hba, hb1⟩ : ∃ b : State, b = setBit Fld.SHADOW_STATUS_PAIR_SENSE 0 s ∧ b.mode = s.mode ∧ b.frame = s.frame ∧ pairState b = pairState s ∧
      fld b Fld.SHADOW_STATUS_PAIR_ACT = fld s Fld.SHADOW_STATUS_PAIR_ACT ∧ fld b Fld.SHADOW_STATUS_PAIR_SENSE = 1 :=
    ⟨_, rfl, setFld_mode .., setFld_frame .., fld_setFld_rows (by decide) .., fld_setFld_rows (by decide) .., fld_setBit (by decide) (by decide) ..⟩
  obtain ⟨d1, d2, d3, d4, d5⟩ := displaced_shows b
  have hc : pairState b = 1 ∧ ¬ fbit b Fld.SHADOW_STATUS_PAIR_ACT = true ∧ (b.mode = .run ∨ b.mode = .safe ∨ b.mode = .configure) := by
    refine ⟨hbs.trans h1, ?_, ?_⟩
    · rw [fbit, hba]
      exact ne_true_of_eq_false hact
    · rw [hbm]
      exact hm.imp_right Or.inl
  have hnot : ¬ (displaced b).mode = .configure := by
    rw [d1, hbm]
    rcases hm with h | h <;> rw [h] <;> decide
  have hy : pairSenseHigh s = setPend (⟨4, (displaced b).frame + 1, 0⟩ :: (displaced b).power.pend.filter (fun p => decide (p.target ≠ 4))) (displaced b) := by
    unfold pairSenseHigh
    rw [← hb]
    exact (if_pos hc).trans (if_neg hnot)
  rw [d2, hbf] at hy
  dsimp only
  rw [hy]
  have hf := safeFrame_setPend (⟨4, s.frame + 1, 0⟩ :: (displaced b).power.pend.filter (fun p => decide (p.target ≠ 4))) (displaced b) (displaced b).pair (displaced b).traces
  obtain ⟨p1, -⟩ := setPend_frame (⟨4, s.frame + 1, 0⟩ :: (displaced b).power.pend.filter (fun p => decide (p.target ≠ 4))) (displaced b)
  refine ⟨(setPend_first ⟨4, s.frame + 1, 0⟩ _ (displaced b) (by decide : 4 < 8)).1, by rw [p1]; exact d3, ?_, fun c hc => ?_, hf.mode.trans (d1.trans hbm)⟩
  · exact (hf.fields _ _ (by decide)).trans (d4.trans hb1)
  · refine (hf.fields Fld.AMP_STATE_ENABLE c ?_).trans (d5 c hc)
    exact Nat.ne_of_gt (Nat.lt_of_lt_of_le (show 0x500 < Fld.AMP_STATE_ENABLE.base by decide) (Nat.le_add_right ..))

/-! ### The commanded switch (R375) -/

theorem switchDone_shows (k : Nat) (s : State) : let y := switchDone k s
    y.mode = s.mode ∧ y.regs = s.regs ∧ y.pair.switchAt = s.pair.switchAt ∧ y.pair.locked = true := by
  unfold switchDone
  dsimp only
  split
  · exact ⟨rfl, rfl, rfl, rfl⟩
  · exact ⟨rfl, rfl, rfl, rfl⟩

theorem takeover_early {s : State} {k : Nat} (hk : s.pair.takeoverAt = some k) (h : s.frame < k) : takeover s = s := by
  unfold takeover
  rw [hk]
  exact if_pos (Or.inl h)

/-- A main whose standby has yet to acquire. -/
def unpaired (s : State) : State := { s with pair := { s.pair with locked := false, copied := false } }

theorem unpaired_frame (s : State) : (unpaired s).mode = s.mode ∧ (unpaired s).regs = s.regs ∧ (unpaired s).pair.takeoverAt = s.pair.takeoverAt ∧
    (unpaired s).pair.locked = false ∧ (unpaired s).evtWait = s.evtWait := ⟨rfl, rfl, rfl, rfl, rfl⟩

theorem takeover_due {s : State} {k : Nat} (hk : s.pair.takeoverAt = some k) (h : k ≤ s.frame) (hm : s.mode = .shadow) :
    takeover s = unpaired (becomeMain (s.frame - s.pair.lowFrame) s) := by
  unfold takeover unpaired
  rw [hk]
  dsimp only
  rw [if_neg (not_or.mpr ⟨Nat.not_lt.mpr h, not_not_intro hm⟩)]

theorem takeover_shows {s : State} {k : Nat} (hk : s.pair.takeoverAt = some k) (h : k ≤ s.frame) (hm : s.mode = .shadow) : let y := takeover s
    y.mode = .run ∧ pairState y = 1 ∧ fld y Fld.SHADOW_PARTNER_ROLE = 1 ∧ fld y Fld.SHADOW_STATUS_SWITCH_STICKY = 1 ∧ y.pair.takeoverAt = none ∧
      y.pair.locked = false ∧ ⟨0xB1, s.frame, ownEndpoint s % 2 ^ 32, (s.frame - s.pair.lowFrame) % 2 ^ 32, none⟩ ∈ y.evtWait := by
  obtain ⟨h1, h2, h3, h4, h5, -, h7⟩ := becomeMain_shows (s.frame - s.pair.lowFrame) s
  obtain ⟨c1, c2, c3, c4, c5⟩ := unpaired_frame (becomeMain (s.frame - s.pair.lowFrame) s)
  dsimp only
  rw [takeover_due hk h hm, c1, c3, c4, c5, pairState, fld_congr c2, fld_congr c2, fld_congr c2]
  exact ⟨h1, h2, h3, h4, h5, rfl, h7⟩

section Switch
variable {s : State} {k : Nat} (hk : s.pair.switchAt = some k)
include hk

theorem commandedSwitchover_early (h : s.frame < k) : commandedSwitchover s = s := by
  unfold commandedSwitchover
  rw [hk]
  exact if_pos h

theorem commandedSwitchover_main (h : k ≤ s.frame) (h1 : pairState s = 1) (hm : s.mode = .run) : commandedSwitchover s = becomeStandby s := by
  unfold commandedSwitchover
  rw [hk]
  exact (if_neg (Nat.not_lt.mpr h)).trans (if_pos ⟨h1, hm⟩)

theorem commandedSwitchover_standby (h : k ≤ s.frame) (h3 : pairState s = 3) (hm : s.mode = .shadow) : commandedSwitchover s = switchDone k (becomeMain 0 s) := by
  unfold commandedSwitchover
  rw [hk]
  exact (if_neg (Nat.not_lt.mpr h)).trans ((if_neg (fun hc => absurd (h3.symm.trans hc.1) (by decide))).trans (if_pos ⟨h3, hm⟩))

end Switch

theorem switchedMain_shows (k : Nat) (s : State) : let y := switchDone k (becomeMain 0 s)
    y.mode = .run ∧ pairState y = 1 ∧ fld y Fld.SHADOW_PARTNER_ROLE = 1 ∧ y.pair.switchAt = none ∧ y.pair.locked = true := by
  obtain ⟨h1, h2, h3, -, -, h6, -⟩ := becomeMain_shows 0 s
  obtain ⟨a1, a2, a3, a4⟩ := switchDone_shows k (becomeMain 0 s)
  exact ⟨a1.trans h1, (fld_congr a2 _ _).trans h2, (fld_congr a2 _ _).trans h3, a3.trans h6, a4⟩

theorem served_partner {s : State} {t : Nat} (hpart : hasPartner s = true) (ht : mirrorTrace s = some t) :
    (hasPartner (served s) && (mirrorTrace (served s)).isSome) = true := by
  rw [show hasPartner (served s) = true from hpart, show mirrorTrace (served s) = some t from ht]
  rfl

section Switchover
variable {r : Req} {s : State} (hs : Served 0xB03 r s) (hp : Shape r 0 [])
include hs hp

theorem exec_switchover_absent (h : hasPartner s = false) : exec (.switchover r) s = .next (answer r ⟨0x64, 0, 0, []⟩ (served s)) := by
  have h' : (hasPartner (served s) && (mirrorTrace (served s)).isSome) = false := by rw [show hasPartner (served s) = false from h]; rfl
  refine exec_error rfl hs ?_
  unfold Machine.switchover
  dsimp only
  rw [shaped_ok hp, need_false h']
  rfl

variable {t : Nat} (hpart : hasPartner s = true) (ht : mirrorTrace s = some t)
include hpart ht

theorem exec_switchover_unlocked (h : standbyLocked s = false) : exec (.switchover r) s = .next (answer r ⟨0x2F, 0, 0, []⟩ (served s)) := by
  have h' : standbyLocked (served s) = false := h
  refine exec_error rfl hs ?_
  unfold Machine.switchover
  dsimp only
  rw [shaped_ok hp, need_true (served_partner hpart ht), need_false h']
  rfl

theorem exec_switchover_locked (h : standbyLocked s = true) : exec (.switchover r) s = .next (answer r (ok (beBytes 8 (s.frame + 8)))
    (sendRecordOn t 4 (pairBody s 4 0 (s.frame + 8)) { served s with pair := { s.pair with switchAt := some (s.frame + 8) } })) := by
  have h' : standbyLocked (served s) = true := h
  have ht' : mirrorTrace (served s) = some t := ht
  refine exec_okRep rfl hs ?_
  unfold Machine.switchover
  dsimp only
  rw [shaped_ok hp, need_true (served_partner hpart ht), need_true h', ht']
  rfl

end Switchover

theorem pairSwitch_eq {m : MgmtRec} {s : State} (hr : PairRecord 4 m s) (hpart : hasPartner s = true) (hid : rd m.body 4 4 = partnerId s)
    (hst : pairState s = 1 ∨ pairState s = 3) : let c : State := { without m s with pair := { s.pair with switchAt := some (rd m.body 8 8) } }
    pairSwitch s = if s.frame < rd m.body 8 8 then c else switchCancel c := by
  obtain ⟨c, hc, h1, h2, h3, h4⟩ : ∃ c : State, c = { without m s with pair := { s.pair with switchAt := some (rd m.body 8 8) } } ∧ hasPartner c = hasPartner s ∧
      partnerId c = partnerId s ∧ pairState c = pairState s ∧ c.frame = s.frame := ⟨_, rfl, rfl, rfl, rfl, rfl⟩
  have hgo : pairSwitch s = (if ¬ hasPartner c = true ∨ rd m.body 4 4 ≠ partnerId c then { c with pair := { c.pair with switchAt := none } }
      else if c.frame < rd m.body 8 8 ∧ (pairState c = 3 ∨ pairState c = 1) then c else switchCancel c) := by
    unfold pairSwitch
    rw [takePair_record hr, hc]
    rfl
  dsimp only
  rw [← hc, hgo, h1, h2, h3, h4, if_neg (not_or.mpr ⟨not_not_intro hpart, not_not_intro hid⟩)]
  by_cases hk : s.frame < rd m.body 8 8
  · rw [if_pos hk, if_pos ⟨hk, hst.symm⟩]
  · rw [if_neg hk, if_neg (fun h => hk h.1)]

theorem switchCancel_pair {s : State} {k : Nat} (h : s.pair.switchAt = some k) : (switchCancel s).pair = { s.pair with switchAt := none } := by
  unfold switchCancel
  rw [h]
  dsimp only
  split <;> rfl

theorem pairSwitchDone_plain {m : MgmtRec} {s : State} (hr : PairRecord 5 m s) (h0 : rd m.body 2 2 = 0) : pairSwitchDone s = without m s := by
  unfold pairSwitchDone
  rw [takePair_record hr]
  exact if_neg fun h => h.2.2.1 h0

theorem pairSwitchDone_cancels {m : MgmtRec} {s : State} (hr : PairRecord 5 m s) (hpart : hasPartner s = true) (hid : rd m.body 4 4 = partnerId s)
    (h0 : rd m.body 2 2 ≠ 0) (hk : s.pair.switchAt = some (rd m.body 8 8)) : pairSwitchDone s = switchCancel (without m s) := by
  unfold pairSwitchDone
  rw [takePair_record hr]
  exact if_pos ⟨hid, hpart, h0, hk⟩

/-- Settles O55. -/
theorem pairs : Obligations.Pairs := by
  unfold Obligations.Pairs
  intro r m s
  refine ⟨fun h => ?_, fun hs hp hep hne hrole => ⟨fun hm => exec_of rfl (shadowPair_refused hs hp hep hne hrole hm), fun hm hw => ⟨fun h1 => ?_, fun t h2 ht => ?_, fun h2 hnone =>
      exec_of rfl (shadowPair_absent hs hp hep hne hrole hm h2 hnone)⟩⟩,
    fun t same hr ht => ⟨fun hm hsame hrole => ?_, fun h => exec_of rfl (pairRequest_refuses hr ht h)⟩, fun hw hid => ⟨fun hr => ?_, fun hr => ?_⟩,
    fun x rest u hq ha => ⟨fun h8 hat => ?_, fun h9 hu => ?_, fun h9 hu => ?_, fun t h10 hu => ?_⟩,
    fun t => ⟨fun h => ?_, fun u hu => ?_⟩, fun t => ⟨fun hm => ?_, fun hm he ht h3 => endsIn_of rfl rfl (senseLow_schedules hm he ht h3)⟩, fun h => ?_,
    fun k hk => ⟨fun h => exec_of rfl (takeover_early hk h), fun h hm => endsIn_of rfl rfl (takeover_shows hk h hm)⟩, fun h => ?_,
    fun k hk => ⟨fun h => exec_of rfl (commandedSwitchover_early hk h), fun h h1 hm => endsIn_of rfl (commandedSwitchover_main hk h h1 hm) (becomeStandby_shows s),
      fun h h3 hm => endsIn_of rfl (commandedSwitchover_standby hk h h3 hm) (switchedMain_shows k s)⟩,
    fun hs hp => ⟨fun h => exec_switchover_absent hs hp h, fun t hpart ht => ⟨fun h => exec_switchover_unlocked hs hp hpart ht h,
      fun h => exec_switchover_locked hs hp hpart ht h⟩⟩,
    fun hr hpart hid hst => exec_of rfl (pairSwitch_eq hr hpart hid hst), fun hr => ⟨fun h0 => exec_of rfl (pairSwitchDone_plain hr h0), fun hpart hid h0 hk => ?_⟩,
    fun h => exec_of rfl (pairSenseHigh_other h), fun h1 hact hm => endsIn_of rfl rfl (pairSenseHigh_main h1 hact hm), fun h1 hl => exec_of rfl (if_pos ⟨h1, hl⟩),
    fun h => exec_of rfl (if_neg fun hc => h.elim (fun h => h hc.1) (fun h => absurd hc.2 (Nat.not_le.mpr h)))⟩
  · have hnone := takePair_none h
    refine ⟨fun same => exec_of (y := pairRequest same s) rfl ?_, exec_of (y := pairAccept s) rfl ?_, exec_of (y := pairRefuse s) rfl ?_,
      exec_of (y := pairSwitch s) rfl ?_, exec_of (y := pairSwitchDone s) rfl ?_⟩
    · rw [pairRequest, hnone]
    · rw [pairAccept, hnone]
    · rw [pairRefuse, hnone]
    · rw [pairSwitch, hnone]
    · rw [pairSwitchDone, hnone]
  · refine endsIn_of rfl ((shadowPair_taken hs hp hep hne hrole hm hw (Or.inl h1)).trans ?_) ⟨_, rfl, paired_pairMake (by decide) _ _ _⟩
    rw [h1]
    rfl
  · refine exec_of rfl ((shadowPair_taken hs hp hep hne hrole hm hw (Or.inr (by rw [ht]; rfl))).trans ?_)
    have ht' : mirrorTo (served s) (rd r.payload 0 4) = some t := ht
    rw [h2, pairStart, ht']
    rfl
  · subst hsame
    exact endsIn_of rfl (pairRequest_accepts hr ht hm hrole) ⟨_, rfl, paired_pairMake (by decide) _ _ _⟩
  · have hw' : (without m s).pair.wait = some r := hw
    refine endsIn_of (y := pairAccept s) rfl ?_ ⟨_, rfl, paired_pairMake (by decide) (rd r.payload 0 4) m.trace (without m s)⟩
    rw [pairAccept, takePair_record hr]
    dsimp only
    rw [hw']
    exact if_neg (not_not_intro hid)
  · have hw' : (without m s).pair.wait = some r := hw
    refine exec_of (y := pairRefuse s) rfl ?_
    rw [pairRefuse, takePair_record hr]
    dsimp only
    rw [hw']
    exact if_neg (not_not_intro hid)
  · exact endsIn_of rfl (acquireData_lands hq ha h8 hat) ⟨rfl, rfl, fun k => memByte_memPoke _ _ _ k⟩
  · exact exec_of rfl ((acquireRegisters_eq hq ha h9).trans (if_pos hu))
  · exact exec_of rfl ((acquireRegisters_eq hq ha h9).trans (if_neg hu))
  · have heq := cutEnd_eq hq ha h10 hu t
    refine ⟨fun h => exec_of rfl (heq.trans (if_pos h)), fun h hh => exec_of rfl (heq.trans ((if_neg ?_).trans (if_pos ⟨h, hh⟩))),
      fun h => exec_of rfl (heq.trans ((if_neg ?_).trans ((if_neg ?_).trans (if_neg ?_))))⟩
    · show ¬ s.frame ≤ _; omega
    · show ¬ s.frame ≤ _; omega
    · show ¬ (s.frame = _ ∧ _); omega
    · show ¬ (s.frame = _ ∧ _ ∧ _); omega
  · exact exec_of (y := cutWaitExpiry t s) rfl (by rw [cutWaitExpiry, h])
  · exact endsIn_of (y := cutWaitExpiry t s) rfl (by rw [cutWaitExpiry, hu]) ⟨_, rfl, cutMissed_shows s⟩
  · exact exec_of rfl ((senseLow_elsewhere hm).trans (sensed_eq t s))
  · exact exec_of (y := takeover s) rfl (by rw [takeover, h])
  · exact exec_of (y := commandedSwitchover s) rfl (by rw [commandedSwitchover, h])
  · exact endsIn_of rfl (pairSwitchDone_cancels hr hpart hid h0 hk) (switchCancel_pair hk)

end Sys2Proof.Machine

/-!
# Registers as their masters see them
-/

namespace Sys2Proof.Machine

/-- The mask 1 is no run of ones from the top, and the address mask keeps its value: a condition on NET_IP_MASK beside its access code and its range. -/
theorem netMask_kept : fld (regWrite 0 0 0x44C 1 State.reset) Fld.NET_IP_MASK_MASK = 0 := by decide

theorem regAt_netMask : regAt 0x44C = some (Reg.NET_IP_MASK, 0) := by rfl

/-- Refutes O56: NET_IP_MASK at 44Ch counts among the ordinary registers and its field has no range, but a write of 1 leaves its old value 0. -/
theorem not_registers : ¬ Obligations.Registers := by
  unfold Obligations.Registers
  intro h
  obtain ⟨-, -, -, hreg, -⟩ := h ⟨.spi, ⟨0, none, 0⟩, 0, 0, 0, 0, false, 0, 0, []⟩ 0 0x44C 0 1 State.reset
  obtain ⟨hwrote, -⟩ := hreg (by decide) (by decide)
  obtain ⟨y, hy, hw⟩ := hwrote Reg.NET_IP_MASK 0 regAt_netMask (by decide)
  have hlocked : framesLocked State.reset = false := by decide
  have hone : fld y Fld.NET_IP_MASK_MASK = 1 :=
    hw.rw Fld.NET_IP_MASK_MASK (List.mem_singleton.mpr rfl) rfl (fun hl => absurd (hlocked.symm.trans hl) (by decide))
  have hzero : y = regWrite 0 0 0x44C 1 State.reset := Host.Outcome.next.inj (hy.symm.trans rfl)
  rw [hzero, netMask_kept] at hone
  exact absurd hone (by decide)

end Sys2Proof.Machine

/-!
# What a step of the groom's work does
-/

namespace Sys2Proof.Machine

/-- After reset, with one direct write waiting and a free direct brew whose log still holds an item. -/
def leftoverLog : State :=
  { setBrew 15 { brewFree with log := [.param 0 0 0] } State.reset with directWait := [⟨0, 0, 0, 0, 0⟩] }

/-- The start of the direct brew's bake appends the waiting writes to the log that stands there. -/
theorem directStart_leftoverLog : (brewOf (directStart leftoverLog) 15).log.length = 2 := by decide

theorem foldWrite_leftoverLog : (foldWrite (.param 0 0 0) leftoverLog).isNone = true := by decide

/-- Refutes O57: a bake of direct writes is claimed to hold these alone whenever the direct brew is free, but a free brew's log is kept, and `leftoverLog` has one item in it. -/
theorem not_groomWorks : ¬ Obligations.GroomWorks := by
  unfold Obligations.GroomWorks
  intro h
  obtain ⟨-, -, -, -, -, -, -, -, -, hserves⟩ := h 0 ⟨0, 0, 0, 0, 0, 0, 0, 0, 0, 0, 0, false, .tap 0⟩ leftoverLog
  have hgroom : groomServes leftoverLog = true := by decide
  obtain ⟨-, -, hdirect, -⟩ := hserves hgroom
  have hfold : ∀ d ∈ leftoverLog.directWait, foldWrite (.param d.node d.index d.value) leftoverLog = none := by
    intro d hd
    rw [List.mem_singleton.mp hd]
    exact Option.isNone_iff_eq_none.mp foldWrite_leftoverLog
  obtain ⟨y, hy, -, -, hlog, -⟩ := hdirect (by decide) (by decide) hfold
  have hy' : y = directStart leftoverLog :=
    (Host.Outcome.next.inj (hy.symm.trans (congrArg Host.Outcome.next (if_pos hgroom))))
  have hone : (brewOf y 15).log.length = 1 := by rw [hlog]; rfl
  rw [hy', directStart_leftoverLog] at hone
  exact absurd hone (by decide)

end Sys2Proof.Machine

/-!
# Bank tokens, scrub and retraining; ports and override inputs
-/

namespace Sys2Proof.Machine

/-! ### Memory upkeep -/

theorem bankOwnWrite_gives {k : Nat} {v : Word32} {s : State} (hm : s.mode = .configure ∨ s.mode = .standby) (hv : v.toNat % 16 ≤ 9) (ht : s.tokenBad = []) :
    bankOwnWrite k v.toNat s = setFld Fld.BANK_OWN_GUEST k (if v.toNat % 16 < 8 ∧ v.getLsbD 4 = true then 1 else 0) (setFld Fld.BANK_OWN_OWNER k (v.toNat % 16) s) := by
  have hopen : ¬ ((s.mode = .run ∨ s.mode = .shadow ∨ s.mode = .safe) ∧ ¬ fbit s Fld.MEM_CTRL_OWN_WR_EN) := by
    rintro ⟨hm', -⟩
    rcases hm with h | h <;> simp [h] at hm'
  have hguest : (if v.toNat % 16 < 8 then bnat (testBit v.toNat 4) else 0) = if v.toNat % 16 < 8 ∧ v.getLsbD 4 = true then 1 else 0 := by
    rw [testBit_eq_nat, BitVec.testBit_toNat, bnat]
    by_cases h8 : v.toNat % 16 < 8
    · simp only [h8, if_true, true_and]
    · simp only [h8, if_false, false_and]
  have hbad : { s with tokenBad := s.tokenBad.filter (fun b => decide (b ≠ k)) } = s := by rw [ht, List.filter_nil, ← ht]
  unfold bankOwnWrite
  rw [if_neg hopen]
  simp only [if_neg (Nat.not_lt.mpr hv), hbad, moveToken, hguest]

theorem scrubPassEnd_sound {s : State} (h : fbit s Fld.MEM_CTRL_SCRUB_EN = true) (hce : s.ceWords = []) (hue : s.ueWords = []) :
    scrubPassEnd s = countFld Fld.SCRUB_STATUS_PASSES 0 { s with passCe := [], scrubAt := s.tick } := by
  unfold scrubPassEnd
  rw [if_neg (not_not_intro h)]
  simp only [forEach, hce, hue, List.foldl_nil]

theorem emergencyRetrain_eq (c : Fin 8) {s : State} (h : s.retrainPend = 0) :
    emergencyRetrain c.val s = raise 0x35 c.val 1 (setFld Fld.CELLAR_CH_STATUS_EMERG c.val 1 (setFld Fld.CELLAR_CH_STATUS_STATE c.val 3 (setRetrain 0 s))) := by
  have hbit : testBit 0 c.val = false := by rw [testBit_eq_nat, Nat.zero_testBit]
  unfold emergencyRetrain
  rw [h, hbit]
  rfl

theorem emergencyRetrain_shows (c : Fin 8) {s : State} (h : s.retrainPend = 0) :
    EndsIn (.emergencyRetrain c) s (fun t => fld t Fld.CELLAR_CH_STATUS_STATE c.val = 3 ∧ fld t Fld.CELLAR_CH_STATUS_EMERG c.val = 1 ∧
      t.evtWait = s.evtWait ++ [⟨0x35, s.frame, c.val, 1, none⟩] ∧ t.mem = s.mem) := by
  have hc : c.val % 2 ^ 32 = c.val := Nat.mod_eq_of_lt (Nat.lt_trans c.isLt (by decide))
  refine endsIn_of rfl (emergencyRetrain_eq c h) ⟨?_, ?_, ?_, ?_⟩
  · rw [fld_raise, fld_setFld_apart Fld.CELLAR_CH_STATUS_EMERG Fld.CELLAR_CH_STATUS_STATE _ _ _ rfl (by decide) (by decide) (by decide)]
    exact fld_setFld _ Fld.CELLAR_CH_STATUS_STATE _ _ (by decide) (by decide) (by decide)
  · rw [fld_raise]
    exact fld_setFld _ Fld.CELLAR_CH_STATUS_EMERG _ _ (by decide) (by decide) (by decide)
  · unfold raise setRetrain
    simp only [hc, setFld_evtWait, setFld_frame, Nat.one_mod_two_pow (show 0 < 32 by decide)]
  · unfold raise setRetrain
    simp only [setFld_mem]

/-- Settles O31. -/
theorem memoryUpkeep : Obligations.MemoryUpkeep := by
  unfold Obligations.MemoryUpkeep
  intro s
  refine ⟨fun k v hm ho => congrArg _ (if_pos ⟨hm, ne_true_of_eq_false ho⟩), fun k v hm hv ht => congrArg _ (bankOwnWrite_gives hm hv ht),
    fun h hce hue => congrArg _ (scrubPassEnd_sound h hce hue), fun h => ?_, fun c h => ?_, fun c left ht hu hl => congrArg _ (if_pos ⟨ht, hu, hl⟩),
    fun c left hl => congrArg _ (if_neg (fun hc => Nat.not_le.mpr hl hc.2.2)), fun c h => emergencyRetrain_shows c h, fun c h => congrArg _ (if_pos h)⟩
  · show Host.Outcome.next (setRetrain (s.retrainPend ||| _) s) = _
    rw [h, Nat.zero_or]
  · show Host.Outcome.next (setRetrain (s.retrainPend ||| _) s) = _
    rw [h, Nat.zero_or]

/-! ### Ports -/

theorem wrapInt_lt (w : Nat) (x : Int) : wrapInt w x < 2 ^ w := by
  have h : (0 : Int) < 2 ^ w := Int.pow_pos (by decide)
  unfold wrapInt
  rw [Int.toNat_lt (Int.emod_nonneg x (Int.ne_of_gt h)), Int.natCast_pow]
  exact Int.emod_lt_of_pos x h

/-- What an external frame hands an input port, with its phase shown. -/
theorem externalFrame_input {p : PortId} {phase : Int} {words : List Nat} {s : State} (hrole : fbit s Fld.PORT_CFG_ROLE p.val = true) (hrun : portRunning s p.val = true)
    (hdir : fbit s Fld.PORT_CFG_DIR p.val = false) (hst : fld s Fld.PORT_STATE_STATE p.val = 3) :
    externalFrame p.val phase words s =
      setPort p.val { portOf s p.val with extIn := (portOf s p.val).extIn ++ [words.map (captureWord (fbit s Fld.PORT_CFG_PACK p.val) (portWidth s p.val))] }
        (setFld Fld.PORT_STATE_EDGE_PHASE p.val (wrapInt 16 phase) s) := by
  have hcfg : ∀ g : RegField, rowsApart Fld.PORT_STATE_EDGE_PHASE g = true → fld (setFld Fld.PORT_STATE_EDGE_PHASE p.val (wrapInt 16 phase) s) g p.val = fld s g p.val :=
    fun g hg => fld_setFld_rows hg _ _ _ s
  have hst' : fld (setFld Fld.PORT_STATE_EDGE_PHASE p.val (wrapInt 16 phase) s) Fld.PORT_STATE_STATE p.val ≠ 5 := by
    rw [fld_setFld_apart Fld.PORT_STATE_EDGE_PHASE Fld.PORT_STATE_STATE _ _ _ rfl (by decide) (by decide) (by decide), hst]
    decide
  have hdir' : ¬ fbit (setFld Fld.PORT_STATE_EDGE_PHASE p.val (wrapInt 16 phase) s) Fld.PORT_CFG_DIR p.val = true := by
    rw [fbit, hcfg _ (by decide)]
    exact ne_true_of_eq_false hdir
  have hport : portOf (setFld Fld.PORT_STATE_EDGE_PHASE p.val (wrapInt 16 phase) s) p.val = portOf s p.val := by rw [portOf, portOf, setFld_ports]
  have hpack : fbit (setFld Fld.PORT_STATE_EDGE_PHASE p.val (wrapInt 16 phase) s) Fld.PORT_CFG_PACK p.val = fbit s Fld.PORT_CFG_PACK p.val := by
    rw [fbit, hcfg _ (by decide), fbit]
  have hwidth : portWidth (setFld Fld.PORT_STATE_EDGE_PHASE p.val (wrapInt 16 phase) s) p.val = portWidth s p.val := by
    rw [portWidth, hcfg _ (by decide), portWidth]
  unfold externalFrame
  rw [if_neg (not_not_intro ⟨hrole, hrun⟩)]
  simp only [if_neg hst', if_neg hdir', hport, hpack, hwidth]

theorem externalFrame_hands {p : PortId} {phase : Int} {words : List Nat} {s : State} (hrole : fbit s Fld.PORT_CFG_ROLE p.val = true) (hrun : portRunning s p.val = true)
    (hdir : fbit s Fld.PORT_CFG_DIR p.val = false) (hst : fld s Fld.PORT_STATE_STATE p.val = 3) :
    EndsIn (.externalFrameStart p phase words) s (fun t =>
      (portOf t p.val).extIn = (portOf s p.val).extIn ++ [words.map (captureWord (fbit s Fld.PORT_CFG_PACK p.val) (portWidth s p.val))] ∧
      fld t Fld.PORT_STATE_EDGE_PHASE p.val = wrapInt 16 phase ∧ t.mem = s.mem ∧ t.evtWait = s.evtWait) := by
  refine endsIn_of rfl (externalFrame_input hrole hrun hdir hst) ⟨?_, ?_, ?_, ?_⟩
  · rw [portOf_setPort]
  · rw [fld_congr (setPort_regs ..)]
    exact fld_setFld s Fld.PORT_STATE_EDGE_PHASE _ _ (by decide) (wrapInt_lt 16 phase) (by decide)
  · rw [setPort_mem, setFld_mem]
  · rw [setPort_evtWait, setFld_evtWait]

theorem portClockLoss_raises {p : PortId} {s : State} (hrole : fbit s Fld.PORT_CFG_ROLE p.val = true) (hrun : portRunning s p.val = true)
    (hst : fld s Fld.PORT_STATE_STATE p.val = 3) :
    portClockLoss p.val s = raise 0x63 p.val 0 (setFld Fld.PORT_FLAGS_CLK_LOSS_STICKY p.val 1 (setFld Fld.PORT_STATE_STATE p.val 5 s)) := by
  unfold portClockLoss
  rw [if_pos ⟨hrole, hrun, by rw [hst]; decide⟩, setPortState, if_pos p.isLt]
  rfl

/-- The fields of PORT_CFG, in the order in which a write takes them. -/
def cfgFields : List RegField := [Fld.PORT_CFG_EN, Fld.PORT_CFG_DIR, Fld.PORT_CFG_FMT, Fld.PORT_CFG_ROLE, Fld.PORT_CFG_PATH, Fld.PORT_CFG_PACK,
  Fld.PORT_CFG_DLY, Fld.PORT_CFG_SLOT_W, Fld.PORT_CFG_SLOTS, Fld.PORT_CFG_FSW, Fld.PORT_CFG_BCLK_INV, Fld.PORT_CFG_FS_INV, Fld.PORT_CFG_FILL, Fld.PORT_CFG_CLKSRC]

/-- The word with the fields `fs` taken from the word `v`. -/
def wordTakes (v : Nat) (fs : List RegField) (w : Nat) : Nat := fs.foldl (fun w f => putBits f.hi f.lo w (bitsOf f.hi f.lo v)) w

section
variable {v : Nat} {fs : List RegField} (hw : ∀ f ∈ fs, f.hi < 32 ∧ f.lo ≤ f.hi)
include hw

theorem wordTakes_lt {w : Nat} (h : w < 2 ^ 32) : wordTakes v fs w < 2 ^ 32 := by
  induction fs generalizing w with
  | nil => exact h
  | cons f fs ih =>
    obtain ⟨hf, hl⟩ := hw f List.mem_cons_self
    exact ih (fun g hg => hw g (List.mem_cons_of_mem _ hg)) (putBits_lt _ _ _ _ hf hl h)

theorem bitsOf_wordTakes_apart {g : RegField} (hg : ∀ f ∈ fs, g.hi < f.lo ∨ f.hi < g.lo) (w : Nat) : bitsOf g.hi g.lo (wordTakes v fs w) = bitsOf g.hi g.lo w := by
  induction fs generalizing w with
  | nil => rfl
  | cons f fs ih =>
    obtain ⟨-, hl⟩ := hw f List.mem_cons_self
    rw [wordTakes, List.foldl_cons]
    exact (ih (fun g hg => hw g (List.mem_cons_of_mem _ hg)) (fun f' hf' => hg f' (List.mem_cons_of_mem _ hf')) _).trans
      (bitsOf_putBits_apart _ _ _ _ _ _ hl (hg f List.mem_cons_self))

/-- Fields that share no bit each hold what the word gives them. -/
theorem bitsOf_wordTakes (hp : fs.Pairwise (fun f g => f.hi < g.lo ∨ g.hi < f.lo)) {g : RegField} (hg : g ∈ fs) (w : Nat) :
    bitsOf g.hi g.lo (wordTakes v fs w) = bitsOf g.hi g.lo v := by
  induction fs generalizing w with
  | nil => cases hg
  | cons f fs ih =>
    obtain ⟨hf, hp⟩ := List.pairwise_cons.mp hp
    have hw' : ∀ f ∈ fs, f.hi < 32 ∧ f.lo ≤ f.hi := fun g hg => hw g (List.mem_cons_of_mem _ hg)
    rcases List.mem_cons.mp hg with rfl | hg
    · refine (bitsOf_wordTakes_apart hw' hf _).trans ((bitsOf_putBits ..).trans ?_)
      exact Nat.mod_mod _ _
    · exact ih hw' hp hg _

end

/-- Fields taken one by one, none of them refused. -/
theorem foldl_wordTakes {v : Nat} {fs : List RegField} (put : RegField → Nat × Bool → Nat × Bool)
    (h : ∀ f ∈ fs, ∀ w, put f (w, false) = (putBits f.hi f.lo w (bitsOf f.hi f.lo v), false)) (w : Nat) :
    fs.foldl (fun w f => put f w) (w, false) = (wordTakes v fs w, false) := by
  induction fs generalizing w with
  | nil => rfl
  | cons f fs ih =>
    rw [List.foldl_cons, h f List.mem_cons_self]
    exact ih (fun g hg => h g (List.mem_cons_of_mem _ hg)) _

theorem cfgFields_words : ∀ f ∈ cfgFields, f.hi < 32 ∧ f.lo ≤ f.hi := by decide

theorem cfgFields_apart : cfgFields.Pairwise (fun f g => f.hi < g.lo ∨ g.hi < f.lo) := by decide

/-- PORT_CFG of port `p` after a write of 1: EN alone set. -/
def cfgEnabled (p : Nat) (s : State) : State :=
  setRegWord (fieldAddr Fld.PORT_CFG_EN p) (BitVec.ofNat 32 (wordTakes 1 cfgFields (regWord s (fieldAddr Fld.PORT_CFG_EN p)).toNat)) s

theorem fld_cfgEnabled {g : RegField} (hg : g ∈ cfgFields) (hb : g.base = Fld.PORT_CFG_EN.base ∧ g.stride = Fld.PORT_CFG_EN.stride) (p : Nat) (s : State) :
    fld (cfgEnabled p s) g p = bitsOf g.hi g.lo 1 := by
  obtain ⟨hbase, hstride⟩ := hb
  have haddr : fieldAddr g p = fieldAddr Fld.PORT_CFG_EN p := by rw [fieldAddr, hbase, hstride]; rfl
  rw [fld, haddr, cfgEnabled, regWord_setRegWord, BitVec.toNat_ofNat, Nat.mod_eq_of_lt (wordTakes_lt cfgFields_words (BitVec.isLt _)),
    bitsOf_wordTakes cfgFields_words cfgFields_apart hg]

theorem portRunning_cfgEnabled (p : Nat) (s : State) : portRunning (cfgEnabled p s) p = portRunning s p := by
  have hother : ∀ a, a < 0x30100 → regWord (cfgEnabled p s) a = regWord s a := fun a ha =>
    regWord_setRegWord_ne _ _ _ _ (Nat.ne_of_lt (Nat.lt_of_lt_of_le ha (Nat.le_add_right _ _)))
  unfold portRunning fld
  rw [hother _ (by decide), hother _ (by decide)]

theorem cfgFields_one : ∀ f ∈ cfgFields, ∀ lo hi, f.rng = some (lo, hi) → ¬ (bitsOf f.hi f.lo 1 < lo ∨ hi < bitsOf f.hi f.lo 1) := by
  have hall : ∀ f ∈ cfgFields, (f.rng.all fun x => decide (x.1 ≤ bitsOf f.hi f.lo 1 ∧ bitsOf f.hi f.lo 1 ≤ x.2)) = true := by decide
  intro f hf lo hi hr
  have := hall f hf
  rw [hr] at this
  have := of_decide_eq_true this
  omega

/-- A write of 1 has no field out of range. -/
theorem portCfgApply_one {p last : Nat} {s : State} (hrun : portRunning s p = false) : portCfgApply p 1 (2 ^ 32 - 1) last s = showPort p (cfgEnabled p s) := by
  have hword : ∀ w : Nat, 1 % 2 ^ 32 &&& (2 ^ 32 - 1) ||| (w &&& (2 ^ 32 - 1 - (2 ^ 32 - 1) % 2 ^ 32)) = 1 := fun w => by simp
  have hen : testBit (wordTakes 1 cfgFields (regWord s (fieldAddr Fld.PORT_CFG_EN p)).toNat) 0 = true :=
    decide_eq_true (bitsOf_wordTakes cfgFields_words cfgFields_apart (g := Fld.PORT_CFG_EN) List.mem_cons_self _)
  have hrun' : ¬ portRunning (cfgEnabled p s) p = true := ne_true_of_eq_false ((portRunning_cfgEnabled p s).trans hrun)
  unfold portCfgApply
  simp only [hword]
  generalize hr : List.foldl _ ((regWord s (fieldAddr Fld.PORT_CFG_EN p)).toNat, false) _ = r
  obtain rfl : r = (wordTakes 1 cfgFields (regWord s (fieldAddr Fld.PORT_CFG_EN p)).toNat, false) := by
    refine hr.symm.trans (foldl_wordTakes (v := 1) (fs := cfgFields) _ (fun f hf w => if_neg ?_) _)
    split
    next lo hi hr => exact fun hbad => cfgFields_one f hf lo hi hr (of_decide_eq_true hbad)
    next => exact Bool.false_ne_true
  exact congrArg (showPort p) ((if_pos hrun').trans (if_pos hen))

theorem portCfgWrite_enables {p : PortId} {v : Word32} {s : State} (hrun : portRunning s p.val = false) (hv : v = 0x00000001) (hstart : (portOf s p.val).startAt = none)
    (hresume : (portOf s p.val).resumeAt = none) :
    EndsIn (.portCfgWrite p v) s (fun t => fld t Fld.PORT_CFG_EN p.val = 1 ∧ fld t Fld.PORT_CFG_DIR p.val = 0 ∧ fld t Fld.PORT_CFG_CLKSRC p.val = 0 ∧
      fld t Fld.PORT_STATE_STATE p.val = 1 ∧ t.mem = s.mem) := by
  have hen : portEnabled (cfgEnabled p.val s) p.val = true := by
    rw [portEnabled, if_pos p.isLt]
    have hone : fld (cfgEnabled p.val s) Fld.PORT_CFG_EN p.val = 1 := fld_cfgEnabled List.mem_cons_self ⟨rfl, rfl⟩ _ s
    rw [fbit, hone]
    rfl
  have hport : portOf (cfgEnabled p.val s) p.val = portOf s p.val := by rw [portOf, portOf, cfgEnabled, setRegWord_ports]
  have hcode : portCode (cfgEnabled p.val s) p.val = 1 := by
    unfold portCode
    rw [portRunning_cfgEnabled, hrun, if_neg Bool.false_ne_true, if_neg (not_not_intro hen), hport, hstart, hresume]
    rfl
  have hone : v.toNat = 1 := by rw [hv]; rfl
  have hshow : portCfgApply p.val v.toNat (2 ^ 32 - 1) (s.frame + 1) s = setFld Fld.PORT_STATE_STATE p.val 1 (cfgEnabled p.val s) := by
    rw [hone, portCfgApply_one hrun, showPort, if_pos p.isLt, hcode]
  have hfield : ∀ g ∈ cfgFields, g.base = Fld.PORT_CFG_EN.base ∧ g.stride = Fld.PORT_CFG_EN.stride → rowsApart Fld.PORT_STATE_STATE g = true →
      fld (setFld Fld.PORT_STATE_STATE p.val 1 (cfgEnabled p.val s)) g p.val = bitsOf g.hi g.lo 1 :=
    fun g hg hb hr => (fld_setFld_rows hr _ _ _ _).trans (fld_cfgEnabled hg hb _ s)
  refine endsIn_of rfl hshow ⟨hfield Fld.PORT_CFG_EN (by decide) ⟨rfl, rfl⟩ (by decide), hfield Fld.PORT_CFG_DIR (by decide) ⟨rfl, rfl⟩ (by decide),
    hfield Fld.PORT_CFG_CLKSRC (by decide) ⟨rfl, rfl⟩ (by decide), fld_setFld _ Fld.PORT_STATE_STATE _ _ (by decide) (by decide) (by decide), ?_⟩
  rw [setFld_mem, cfgEnabled, setRegWord_mem]

/-! ### Override inputs -/

/-- A mask has the bits of its list and no other. -/
theorem mem_of_testBit_maskOf {i : Nat} {l : List Nat} (h : testBit (maskOf l) i = true) : i ∈ l := by
  have hnone : ∀ (l : List Nat) (a : Nat), testBit a i = false → i ∉ l → testBit (l.foldl (fun a i => if testBit a i then a else a + 2 ^ i) a) i = false := by
    intro l
    induction l with
    | nil => exact fun a ha _ => ha
    | cons j l ih =>
      intro a ha hi
      obtain ⟨hij, hi⟩ := not_or.mp (mt List.mem_cons.mpr hi)
      refine ih _ ?_ hi
      show testBit (if testBit a j then a else a + 2 ^ j) i = false
      split
      next => exact ha
      next hj =>
        rw [testBit_eq_nat] at ha hj ⊢
        rw [testBit_add_two_pow (Bool.eq_false_iff.mpr hj) hij, ha]
  refine Decidable.byContradiction fun hi => ?_
  exact absurd h (ne_true_of_eq_false (hnone l 0 (by rw [testBit_eq_nat, Nat.zero_testBit]) hi))

theorem testBit_maskOf_filter {n i : Nat} (hi : i < n) (P : Nat → Bool) : testBit (maskOf ((List.range n).filter P)) i = P i := by
  rw [Bool.eq_iff_iff]
  exact ⟨fun h => (List.mem_filter.mp (mem_of_testBit_maskOf h)).2, fun h => testBit_maskOf (List.mem_filter.mpr ⟨List.mem_range.mpr hi, h⟩)⟩

theorem maskOf_filter_lt (n : Nat) (P : Nat → Bool) : maskOf ((List.range n).filter P) < 2 ^ n := by
  refine Nat.lt_pow_two_of_testBit _ fun i hi => Bool.eq_false_iff.mpr fun h => ?_
  rw [← testBit_eq_nat] at h
  exact absurd (List.mem_range.mp (List.mem_filter.mp (mem_of_testBit_maskOf h)).1) (Nat.not_lt.mpr hi)

/-- Bit `i` of `w` set to `on`. -/
theorem testBit_put (w i : Nat) (on : Bool) :
    testBit (if testBit w i then (if on then w else w - 2 ^ i) else (if on then w + 2 ^ i else w)) i = on := by
  cases hw : testBit w i
  · cases on
    · exact hw
    · rw [if_neg Bool.false_ne_true, if_pos rfl, testBit_eq_nat, Nat.add_comm, Nat.testBit_two_pow_add_eq, ← testBit_eq_nat, hw]
      rfl
  · cases on
    · rw [if_pos rfl, if_neg Bool.false_ne_true]
      rw [testBit_eq_nat] at hw ⊢
      have hsplit : 2 ^ i + (w - 2 ^ i) = w := by have := Nat.ge_two_pow_of_testBit hw; omega
      have := Nat.testBit_two_pow_add_eq (w - 2 ^ i) i
      rw [hsplit, hw] at this
      simpa using this.symm
    · exact hw

theorem ovrSampleInputs_shows (i : Fin 4) (s : State) :
    let t := ovrSampleInputs s
    testBit (fld t Fld.OVR_STATUS_IN_RAW) i.val = ovrRaw s i.val ∧
      testBit (fld t Fld.OVR_STATUS_IN_ACTIVE) i.val = (ovrEn s i.val && (ovrRaw s i.val || testBit (fld s Fld.OVR_STATUS_IN_ACTIVE) i.val)) ∧ t.mem = s.mem := by
  unfold ovrSampleInputs
  refine ⟨?_, ?_, rfl⟩
  · rw [fld_setFld_apart Fld.OVR_STATUS_IN_ACTIVE Fld.OVR_STATUS_IN_RAW _ _ _ rfl (by decide) (by decide) (by decide),
      fld_setFld _ Fld.OVR_STATUS_IN_RAW _ _ (by decide) (maskOf_filter_lt 4 _) (by decide), testBit_maskOf_filter i.isLt]
  · rw [fld_setFld _ Fld.OVR_STATUS_IN_ACTIVE _ _ (by decide) (maskOf_filter_lt 4 _) (by decide), testBit_maskOf_filter i.isLt]

theorem ovrInput_shows (i : Fin 4) (level : Bool) (s : State) :
    EndsIn (.ovrInput i level) s (fun t => testBit (fld t Fld.OVR_STATUS_IN_RAW) i.val = decide (level = ovrPol s i.val) ∧
      testBit (fld t Fld.OVR_STATUS_IN_ACTIVE) i.val = (ovrEn s i.val && (decide (level = ovrPol s i.val) || testBit (fld s Fld.OVR_STATUS_IN_ACTIVE) i.val)) ∧
      t.mem = s.mem) := by
  obtain ⟨b, hb, hball, hword, hactive, hmem⟩ : ∃ b, ovrInput i.val level s = ovrSampleInputs b ∧ testBit b.ovrBalls i.val = level ∧
      (∀ a, regWord b a = regWord s a) ∧ fld b Fld.OVR_STATUS_IN_ACTIVE = fld s Fld.OVR_STATUS_IN_ACTIVE ∧ b.mem = s.mem :=
    ⟨_, rfl, testBit_put s.ovrBalls i.val level, fun _ => rfl, rfl, rfl⟩
  have hpol : ovrPol b i.val = ovrPol s i.val := by rw [ovrPol, hword, ovrPol]
  have hen : ovrEn b i.val = ovrEn s i.val := by rw [ovrEn, hword, ovrEn]
  have hraw : ovrRaw b i.val = decide (level = ovrPol s i.val) := by rw [ovrRaw, hball, hpol]
  obtain ⟨hshown, hact, hkept⟩ := ovrSampleInputs_shows i b
  refine endsIn_of rfl hb ⟨hshown.trans hraw, ?_, hkept.trans hmem⟩
  rw [hact, hraw, hen, hactive]

theorem ovrRelease_inactive {i : Nat} {s : State} (hraw : ovrRaw s i = false) (ha : testBit (fld s Fld.OVR_STATUS_IN_ACTIVE) i = true) :
    ovrRelease i s = setFld Fld.OVR_STATUS_IN_ACTIVE 0 (fld s Fld.OVR_STATUS_IN_ACTIVE - 2 ^ i) s := if_pos ⟨ha, ne_true_of_eq_false hraw⟩

theorem bitList_four (i : Fin 4) : bitList 4 (2 ^ i.val) = [i.val] := by revert i; decide

/-- Settles O32. -/
theorem portsAndInputs : Obligations.PortsAndInputs := by
  unfold Obligations.PortsAndInputs
  intro s
  refine ⟨fun p phase words hrole hrun hdir hst => externalFrame_hands hrole hrun hdir hst, fun p hrole hrun hst => congrArg _ (portClockLoss_raises hrole hrun hst),
    fun p v => portCfgWrite_enables, fun i level => ovrInput_shows i level s, fun i hl hr ha => ?_, fun i hl => congrArg _ (if_pos hl),
    fun i mask hm hl hr ha => ?_⟩
  · exact congrArg _ ((if_neg (ne_true_of_eq_false hl)).trans (ovrRelease_inactive hr ha))
  · show Host.Outcome.next (ovrUnlatch mask.toNat s) = _
    rw [ovrUnlatch, hm, bitList_four]
    exact congrArg _ ((if_pos hl).trans (ovrRelease_inactive hr ha))

end Sys2Proof.Machine

/-!
# Sessions, keys, jobs and events
-/

namespace Sys2Proof.Machine

section
variable {r : Req} {s : State}

/-! ### ECHO and IDENTIFY -/

theorem echo_returns (h : Served 1 r s) (hl : r.payload.length ≤ 8148) : exec (.echo r) s = .next (answer r (ok r.payload) (served s)) :=
  exec_okRep rfl h (need_true (decide_eq_true hl))

theorem shape_nil (h : r.payload = []) : Shape r 0 [] := ⟨by rw [h]; rfl, nofun⟩

theorem identify_answers (h : Served 4 r s) (hp : r.payload = []) : exec (.identify r) s = .next (answer r (ok (identifyBytes (served s))) (served s)) :=
  exec_okRep rfl h (shaped_ok (shape_nil hp))

/-! ### Sessions -/

/-- The session that a SESSION_OPEN without a key makes, with the reply kept for its repetitions. -/
def unkeyedSession (r : Req) (num nonce : Nat) (s : State) : Session :=
  { num := num, source := r.source, via := r.via, key := none, nonce := nonce % 2 ^ 64,
    hostNonce := rd r.payload 4 8, s0 := r.seq, count := 0, win := [], exec := 0, gapLoss := 0, evCount := 0,
    mask := if pb r 1 = 1 then 0xFFFF else 0, opened := r.t, used := false,
    openReply := replyPacket s r ⟨0, 0, 0, beBytes 2 num ++ [0, 0] ++ beBytes 8 nonce ++ beBytes 4 (fld s Fld.ENDPOINT_ID_ID) ++ beBytes 4 (maxRequest r.source)⟩ }

theorem openSession_unkeyed {num nonce : Nat} (hslot : pb r 0 = 0xFF) (hmask : pb r 1 ≤ 1) (hauth : authRequired s r.source = false) (hroom : s.sessions.length < 8)
    (hfree : numberFree s r.t num = true) : ∃ p, openSession r num nonce s = .ok (p, { s with sessions := s.sessions ++ [unkeyedSession r num nonce s] }) := by
  unfold openSession
  simp only [hslot, pickNumber, if_pos hfree, if_true]
  rw [need_true (by decide), need_true (decide_eq_true hmask), need_true (decide_eq_true (Or.inl trivial)), need_true (by rw [hauth]; rfl), need_true (decide_eq_true hroom)]
  exact ⟨_, rfl⟩

theorem answer_sessionless {p : Rep} (h : r.session = 0) (s : State) : (answer r p s).sessions = s.sessions := by
  unfold answer
  dsimp only
  rw [if_pos h, sendReply]
  have h := congrArg State.sessions (beyondSending_queuePacket ⟨r.source, r.via, r.session, false, replyPacket s r p⟩ s)
  exact h

theorem sessionOpen_adds {num nonce : Nat} (h : Served 2 r s) (hs : Shape r 12 [2, 3]) (h0 : r.session = 0) (hnew : openedBefore r s = none) (hslot : pb r 0 = 0xFF)
    (hmask : pb r 1 ≤ 1) (hauth : authRequired s r.source = false) (hroom : s.sessions.length < 8) (hfree : numberFree s r.t num = true) :
    (sessionOpen r num nonce s).sessions = s.sessions ++ [unkeyedSession r num nonce (served s)] := by
  obtain ⟨p, hp⟩ := openSession_unkeyed (s := served s) (nonce := nonce) hslot hmask hauth hroom hfree
  have hnew' : openedBefore r (served s) = none := hnew
  unfold sessionOpen
  rw [taken_eq h]
  dsimp only
  rw [shaped_ok hs, hnew', hp]
  exact answer_sessionless h0 _

theorem sessionClose_closes (raw : Nat) (h : Served 3 r s) (hp : r.payload = []) :
    exec (.sessionClose r raw) s = .next (closeSession r.session raw (answer r (ok []) (served s))) := by
  refine congrArg Host.Outcome.next ?_
  unfold sessionClose
  rw [taken_eq h]
  dsimp only
  rw [shaped_ok (shape_nil hp)]
  rfl

/-! ### Keys -/

theorem keyChecks_local {k : Service} (hslot : pb r 0 < 8) (hsrc : r.source = .spi) (hunused : ∀ x ∈ s.sessions, x.key ≠ some (pb r 0)) : keyChecks r s k = k := by
  have hfind : s.sessions.find? (fun x => decide (x.key = some (pb r 0))) = none :=
    List.find?_eq_none.mpr fun x hx => by rw [decide_eq_true_iff]; exact hunused x hx
  unfold keyChecks
  rw [need_true (decide_eq_true hslot), hsrc]
  simp only [hfind]

theorem keyLoad_sets (h : Served 5 r s) (hs : Shape r 36 [1, 2, 3]) (hslot : pb r 0 < 8) (hsrc : r.source = .spi) (hunused : ∀ x ∈ s.sessions, x.key ≠ some (pb r 0)) :
    exec (.keyLoad r) s = .next (answer r (ok []) (setKey (pb r 0) (r.payload.drop 4) (served s))) :=
  exec_okRep rfl h ((shaped_ok hs).trans (keyChecks_local (s := served s) hslot hsrc hunused))

theorem keyClear_clears (h : Served 6 r s) (hs : Shape r 4 [1, 2, 3]) (hslot : pb r 0 < 8) (hsrc : r.source = .spi) (hunused : ∀ x ∈ s.sessions, x.key ≠ some (pb r 0)) :
    exec (.keyClear r) s = .next (answer r (ok []) (setKey (pb r 0) [] (served s))) :=
  exec_okRep rfl h ((shaped_ok hs).trans (keyChecks_local (s := served s) hslot hsrc hunused))

/-! ### Jobs -/

theorem jobStatus_running {j : JobRec} (h : Served 0x100 r s) (hs : Shape r 4 [2, 3]) (hj : jobOf s (rd r.payload 0 2) = some j) (hrun : j.state = 0) :
    exec (.jobStatus r) s = .next (answer r (ok (jobBytes (jobNow (served s) j))) (served s)) := by
  have hj' : jobOf (served s) (rd r.payload 0 2) = some j := hj
  refine exec_okRep rfl h ?_
  rw [jobStatus, shaped_ok hs, hj']
  simp only [hrun, ne_eq, not_true_eq_false, false_and, if_false]

theorem jobCancel_marks {j : JobRec} (h : Served 0x101 r s) (hs : Shape r 4 [2, 3]) (hj : jobOf s (rd r.payload 0 2) = some j) (hown : j.session = r.session)
    (hrun : j.state = 0) : exec (.jobCancel r) s = .next (answer r (ok []) (setJob { j with cancel := true } (served s))) := by
  have hj' : jobOf (served s) (rd r.payload 0 2) = some j := hj
  refine exec_okRep rfl h ?_
  rw [jobCancel, shaped_ok hs, hj']
  exact (need_true (decide_eq_true hown)).trans (need_true (decide_eq_true hrun))

/-! ### Events -/

theorem eventRead_first {e : EventRec} {es : List EventRec} (h : Served 0x103 r s) (hs : Shape r 8 [6, 7]) (hsrc : r.source = .spi) (hone : rd r.payload 4 2 = 1)
    (hes : evtFrom s (rd r.payload 0 4) = e :: es) :
    exec (.eventRead r) s = .next (answer r (ok (beBytes 4 e.index ++ [0, 1, 0, 0] ++ evtBytes e)) (served s)) := by
  have hes' : evtFrom (served s) (rd r.payload 0 4) = e :: es := hes
  have htake : (e :: es).take (min 1 ((maxReply .spi - 8) / 24)) = [e] := rfl
  have hcount : beBytes 2 [e].length = [0, 1] := (by decide : beBytes 2 1 = [0, 1])
  refine exec_okRep rfl h ?_
  unfold eventRead
  rw [shaped_ok hs, hone, need_true (by decide), hes', hsrc, htake]
  simp only [List.flatMap_cons, List.flatMap_nil, List.append_nil, List.append_assoc, hcount]
  rfl

theorem eventCfg_masks {x : Session} (h : Served 0x104 r s) (hs : Shape r 4 [2, 3]) (hx : sessionOf s r.session = some x) :
    exec (.eventCfg r) s = .next (answer r (ok []) (setSession { x with mask := rd r.payload 0 2 } (served s))) := by
  have hx' : sessionOf (served s) r.session = some x := hx
  refine exec_okRep rfl h ?_
  rw [eventCfg, shaped_ok hs, hx']

end

/-- Settles O34. -/
theorem generalCommands : Obligations.GeneralCommands := by
  unfold Obligations.GeneralCommands
  intro r s
  exact ⟨echo_returns, identify_answers,
    fun num nonce h hs h0 hnew hslot hmask hauth hroom hfree => ⟨_, rfl, _, sessionOpen_adds h hs h0 hnew hslot hmask hauth hroom hfree,
      rfl, rfl, rfl, rfl, rfl, rfl, rfl, rfl⟩,
    fun raw h hp _ => sessionClose_closes raw h hp, keyLoad_sets, keyClear_clears, fun j => jobStatus_running, fun j => jobCancel_marks,
    fun e es => eventRead_first, fun x => eventCfg_masks⟩

end Sys2Proof.Machine

/-!
# Meters, silence, slack and the captured report
-/

namespace Sys2Proof.Machine

section
variable {r : Req} {s : State} {id f c : Nat} {n : GNode}

theorem nodeOf_id {g : Graph} (h : nodeOf g id = some n) : n.id = id := by
  have := List.find?_some h
  exact of_decide_eq_true this

/-! ### Meters (R168–R170) -/

theorem meterPeriodEnd_stores {cs : List MeterChan} (hn : nodeOf s.live id = some n) (hm : metered n = true) (hw : cs.length = meterWidth n)
    (hf : (f + 1) % meterFrames s.fs = 0) : ∃ bal ext, bal.length = cs.length ∧ meterPeriodEnd id f cs s = setMeter id ⟨loudestOf cs, f, bal, ext⟩ s := by
  unfold meterPeriodEnd
  rw [hn]
  dsimp only
  have hgo : ¬ (¬ metered n = true ∨ cs.length ≠ meterWidth n ∨ (f + 1) % meterFrames s.fs ≠ 0) := by
    rintro (h | h | h)
    · exact h hm
    · exact h hw
    · exact h hf
  rw [if_neg hgo]
  refine ⟨_, _, ?_, rfl⟩
  rw [List.length_map, List.length_zip, List.length_range, Nat.min_self]

theorem meterOf_setMeter (id : Nat) (m : MeterRec) (s : State) : meterOf (setMeter id m s) id = m := smapGet_set_self ..

theorem meterPeriodEnd_shows {cs : List MeterChan} (hn : nodeOf s.live id = some n) (hm : metered n = true) (hw : cs.length = meterWidth n)
    (hf : (f + 1) % meterFrames s.fs = 0) :
    EndsIn (.meterPeriodEnd id f cs) s (fun t => (meterOf t id).loudest = loudestOf cs ∧ (meterOf t id).frame = f ∧ (meterOf t id).chans.length = cs.length ∧
      t.regs = s.regs ∧ t.mem = s.mem) := by
  obtain ⟨bal, ext, hlen, hx⟩ := meterPeriodEnd_stores hn hm hw hf
  refine endsIn_of rfl hx ?_
  rw [meterOf_setMeter]
  exact ⟨rfl, rfl, hlen, rfl, rfl⟩

theorem meterRead_one (h : Served 0x302 r s) (hs : Shape r 10 [6, 7]) (hk : rd r.payload 0 2 = 1) (hfirst : rd r.payload 2 2 ≤ 1023) (hc1 : 1 ≤ rd r.payload 4 2)
    (hc2 : rd r.payload 4 2 ≤ 1024) (hn : nodeOf s.live (rd r.payload 8 2) = some n) (hm : metered n = true)
    (hroom : 8 + 12 * (meterSpan n (rd r.payload 2 2) (rd r.payload 4 2)).length ≤ maxReply r.source - 4) :
    exec (.meterRead r) s = .next (answer r (ok ([0, 1, 0, 0] ++ meterNodeBytes s r.session (rd r.payload 2 2) (rd r.payload 4 2) n))
      (meterRestart r.session (rd r.payload 2 2) (rd r.payload 4 2) n (served s))) := by
  have hlen : 8 ≤ r.payload.length := by rw [hs.1]; decide
  have hn' : nodeOf (served s).live (rd r.payload (8 + 2 * 0) 2) = some n := hn
  have hids : (List.range 1).map (fun i => (8 + 2 * i, rd r.payload (8 + 2 * i) 2)) = [(8, rd r.payload (8 + 2 * 0) 2)] := rfl
  have hfit : meterFit (rd r.payload 2 2) (rd r.payload 4 2) (maxReply r.source - 4) [n] = [n] := if_pos hroom
  have hcount : beBytes 2 [n].length = [0, 1] := (by decide : beBytes 2 1 = [0, 1])
  refine exec_okRep rfl h ?_
  unfold meterRead
  rw [need_true (decide_eq_true hlen), hk, shaped_ok hs, need_true (by decide), need_true (decide_eq_true hfirst), need_true (decide_eq_true ⟨hc1, hc2⟩), hids]
  simp only [List.find?_cons, List.find?_nil, hn', Option.isNone_some, Option.map_some, Option.getD_some, hm, Bool.not_true, List.filterMap_cons, List.filterMap_nil,
    hfit, List.cons_ne_nil, if_false, hcount, List.flatMap_cons, List.flatMap_nil, List.append_nil]
  rfl

/-! ### Silence (R164) -/

theorem silenceSet_same {silent : Bool} (h : ((meterOf s n.id).chans.getD c balNone).silent = silent) : silenceSet n c silent s = s := if_pos h

/-- What the detector shows and raises, whether its state changes or not. -/
theorem silenceSet_shows (hc : c < meterWidth n) (silent : Bool) (s : State) :
    let was := ((meterOf s n.id).chans.getD c balNone).silent
    ((meterOf (silenceSet n c silent s) n.id).chans.getD c balNone).silent = silent ∧ (silenceSet n c silent s).evtWait = s.evtWait ++
      (if was ≠ silent ∧ (paramIn s.liveParams n 8).toNat = 1 then [⟨0x62, s.frame, n.id % 2 ^ 32, (c + 65536 * bnat silent) % 2 ^ 32, none⟩] else []) := by
  by_cases h : ((meterOf s n.id).chans.getD c balNone).silent = silent
  · rw [silenceSet_same h]
    refine ⟨h, ?_⟩
    rw [if_neg (fun hc => hc.1 h), List.append_nil]
  · obtain ⟨m, hb, hm⟩ : ∃ m : MeterRec, silenceSet n c silent s =
        (if (paramIn s.liveParams n 8).toNat = 1 then raise 0x62 n.id (c + 65536 * bnat silent) (setMeter n.id m s) else setMeter n.id m s) ∧
        (m.chans.getD c balNone).silent = silent := by
      refine ⟨_, if_neg h, ?_⟩
      dsimp only
      rw [List.getD_eq_getElem?_getD, List.getElem?_map, List.getElem?_range hc]
      simp
    have hmeter : (meterOf (silenceSet n c silent s) n.id) = m := by
      rw [hb]
      split <;> exact meterOf_setMeter n.id m s
    refine ⟨by rw [hmeter]; exact hm, ?_⟩
    rw [hb]
    by_cases h8 : (paramIn s.liveParams n 8).toNat = 1
    · rw [if_pos h8, if_pos ⟨h, h8⟩]
      rfl
    · rw [if_neg h8, if_neg (fun hc => h8 hc.2), List.append_nil]
      rfl

/-- One sample through the stages of a channel, up to its detector. -/
theorem inputSilence_one (x : S48) (hn : nodeOf s.live id = some n) (hk : kernelId n = 1) (hc : c < meterWidth n) :
    inputSilence id c [x] s = stripStep n c x s := by
  unfold inputSilence
  rw [hn]
  dsimp only
  rw [if_neg (not_or.mpr ⟨not_not_intro hk, Nat.not_le.mpr hc⟩)]
  simp only [forEach, List.foldl_cons, List.foldl_nil]

/-- The detector of a channel on the output `y` of its fixed stages, below the threshold or not. -/
def detect (n : GNode) (c : Nat) (y : InStrip) (below : Bool) (s : State) : State :=
  let v := { y with quiet := if below then y.quiet + 1 else 0 }
  if ¬ below then silenceSet n c false (setStrip n.id c v s) else if quietLong (setStrip n.id c v s) n v.quiet then silenceSet n c true (setStrip n.id c v s)
  else setStrip n.id c v s

theorem stripStep_eq (n : GNode) (c : Nat) (x : S48) (s : State) :
    let y := stripSample (nodeRate s s.live n) (hpfNow s n (nodeRate s s.live n)) (stripOf s n.id c) x.toInt
    stripStep n c x s = detect n c y (belowLevel (paramIn s.liveParams n 6).toInt y.y1) s := by
  simp only [stripStep, detect]

theorem detect_loud (y : InStrip) : ∃ v, detect n c y false s = silenceSet n c false (setStrip n.id c v s) := ⟨_, rfl⟩

theorem detect_quiet (y : InStrip) : ∃ v, detect n c y true s =
    if quietLong s n (y.quiet + 1) then silenceSet n c true (setStrip n.id c v s) else setStrip n.id c v s := ⟨_, rfl⟩

/-! ### Slack and the captured report (R35, R46, R286) -/

theorem slackRead_one (h : Served 0x500 r s) (hs : Shape r 4 []) (hfirst : rd r.payload 0 2 ≤ 1151) (hcount : rd r.payload 2 2 = 1) (hsrc : r.source = .spi) :
    exec (.slackRead r) s = .next (answer r (ok (beBytes 8 s.fg.slackFrame ++ [0, 1, 0, 0] ++ beBytes 2 (wrapInt 16 (slackOf s (rd r.payload 0 2))))) (served s)) := by
  have hn : min (min 1 (1152 - rd r.payload 0 2)) ((maxReply .spi - 12) / 2) = 1 := by
    have : (maxReply .spi - 12) / 2 = 4068 := rfl
    omega
  have hbytes : beBytes 2 1 = [0, 1] := by decide
  refine exec_okRep rfl h ?_
  unfold slackRead
  rw [shaped_ok hs, need_true (decide_eq_true hfirst), hcount, need_true (by decide), hsrc, hn]
  simp only [hbytes, List.range_one, List.flatMap_cons, List.flatMap_nil, List.append_nil, List.append_assoc, Nat.add_zero]
  rfl

theorem fgReport_header (h : Served 0x501 r s) (hs : Shape r 8 [5, 6, 7]) (hoff : rd r.payload 0 2 ≤ 1151) (hcount : rd r.payload 2 2 = 0) (hclear : pb r 4 = 1) :
    exec (.fgReport r) s = .next (answer r (ok (beBytes 2 (fld s Fld.FG_REPORT_CTRL_ENTRIES) ++
      beBytes 1 (fld s Fld.FG_REPORT_CTRL_REPORT_VALID + 2 * fld s Fld.FG_REPORT_CTRL_HAS_CYCLE) ++ [0] ++ beBytes 8 s.fg.reportFrame))
      (setFld Fld.FG_REPORT_CTRL_REPORT_VALID 0 0 (served s))) := by
  refine exec_okRep rfl h ?_
  unfold fgReport
  rw [shaped_ok hs, need_true (decide_eq_true hoff), hclear, need_true (by decide), hcount, Nat.zero_min, if_pos rfl]
  simp only [List.take_zero, List.flatMap_nil, List.append_nil]
  rfl

theorem slackClr_shows (s : State) :
    EndsIn .slackClr s (fun t => fld t Fld.SLACK_HIST_SLACK = 0xFFF ∧ fld t Fld.SLACK_HIST_UNIT = 0x7FF ∧ Untouched (regsOf [(Fld.SLACK_HIST_SLACK, 0)]) s t) := by
  refine endsIn_next rfl ⟨?_, ?_, ?_⟩
  · refine (fld_setFld_apart Fld.SLACK_HIST_UNIT Fld.SLACK_HIST_SLACK _ _ _ rfl (by decide) (by decide) (by decide)).trans ?_
    exact fld_setFld s Fld.SLACK_HIST_SLACK _ _ (by decide) (by decide) (by decide)
  · exact fld_setFld _ Fld.SLACK_HIST_UNIT _ _ (by decide) (by decide) (by decide)
  · exact ((untouched_refl _ s).setFld (by decide) _).setFld (by decide) _

theorem reportDataRead_word {w : Nat} (h : (s.fg.report.flatMap reportWords)[s.fg.rdPtr]? = some w) :
    reportDataRead s = { s with fg := { s.fg with rdPtr := s.fg.rdPtr + 1 }, lastRead := w } := by
  unfold reportDataRead
  rw [h]

theorem reportDataRead_past (h : (s.fg.report.flatMap reportWords)[s.fg.rdPtr]? = none) : reportDataRead s = { s with lastRead := 0 } := by
  unfold reportDataRead
  rw [h]

end

/-- Settles O35. -/
theorem metersAndGuard : Obligations.MetersAndGuard := by
  unfold Obligations.MetersAndGuard
  intro s
  refine ⟨fun id f cs n => meterPeriodEnd_shows, fun id c x n hn hk hc => ⟨fun hb => ?_, fun hb => ?_⟩, fun r n => meterRead_one, fun r => slackRead_one,
    fun r => fgReport_header, slackClr_shows s, rfl, fun w hw => congrArg _ (reportDataRead_word hw), fun hw => congrArg _ (reportDataRead_past hw)⟩
  · obtain rfl := nodeOf_id hn
    obtain ⟨v, hv⟩ := detect_loud (stripSample _ _ _ _)
    exact endsIn_of rfl ((inputSilence_one x hn hk hc).trans (((stripStep_eq n c x s).trans (congrArg (detect n c _ · s) hb)).trans hv)) (silenceSet_shows hc false (setStrip n.id c v s))
  · obtain rfl := nodeOf_id hn
    obtain ⟨v, hv⟩ := detect_quiet (stripSample _ _ _ _)
    refine endsIn_of rfl ((inputSilence_one x hn hk hc).trans (((stripStep_eq n c x s).trans (congrArg (detect n c _ · s) hb)).trans hv)) ?_
    split
    next hq =>
      rw [hq, Bool.or_true]
      exact silenceSet_shows hc true (setStrip n.id c v s)
    next hq =>
      rw [Bool.eq_false_iff.mpr hq, Bool.or_false, if_neg (fun h => h.1 rfl), List.append_nil]
      exact ⟨rfl, rfl⟩

end Sys2Proof.Machine

/-!
# Cellar regions and copies, port and override opcodes
-/

namespace Sys2Proof.Machine

section
variable {r : Req} {s : State} {a n : Nat}

/-! ### The cellar (R287) -/

theorem cellarReserve_first (h : Served 0x600 r s) (hs : Shape r 16 []) (ha : rd r.payload 0 8 % 0x100000 = 0) (hlow : 0x400000000 ≤ rd r.payload 0 8)
    (hn : rd r.payload 8 8 % 0x100000 = 0) (hpos : 0 < rd r.payload 8 8) (hend : rd r.payload 0 8 + rd r.payload 8 8 ≤ 0x5F0000000) (hr : s.regions = [])
    (hp : (programRanges s).any (fun p => overlaps (rd r.payload 0 8) (rd r.payload 8 8) p.1 p.2) = false) :
    exec (.cellarReserve r) s = .next (answer r (ok [0, 0, 0, 0]) { served s with regions := [⟨0, rd r.payload 0 8, rd r.payload 8 8⟩] }) := by
  have hr' : (served s).regions = [] := hr
  have hp' : (programRanges (served s)).any (fun p => overlaps (rd r.payload 0 8) (rd r.payload 8 8) p.1 p.2) = false := hp
  have hstore : ¬ overlaps (rd r.payload 0 8) (rd r.payload 8 8) brewStoreBase (cellarEnd - brewStoreBase) = true :=
    fun c => Nat.not_lt.mpr hend (of_decide_eq_true c).2.2.2
  have ha' : rd r.payload 0 8 % mebi = 0 ∧ cellarBase ≤ rd r.payload 0 8 ∧ rd r.payload 0 8 < cellarEnd := by
    refine ⟨ha, hlow, ?_⟩
    unfold cellarEnd
    omega
  have hn' : rd r.payload 8 8 % mebi = 0 ∧ 0 < rd r.payload 8 8 ∧ rd r.payload 0 8 + rd r.payload 8 8 ≤ cellarEnd :=
    ⟨hn, hpos, Nat.le_trans hend (by decide)⟩
  refine exec_okRep rfl h ?_
  unfold cellarReserve
  rw [shaped_ok hs, need_true (decide_eq_true ha'), need_true (decide_eq_true hn'), hr', if_neg hstore, hp', if_neg Bool.false_ne_true]
  rfl

theorem cellarRelease_frees {g : CellarRegion} (h : Served 0x601 r s) (hs : Shape r 4 [1, 2, 3]) (hg : s.regions.find? (fun g => decide (g.id = pb r 0)) = some g)
    (hb : regionBusy s g = false) :
    exec (.cellarRelease r) s = .next (answer r (ok []) { served s with regions := s.regions.filter (fun y => decide (y.id ≠ pb r 0)) }) := by
  have hg' : (served s).regions.find? (fun g => decide (g.id = pb r 0)) = some g := hg
  have hb' : regionBusy (served s) g = false := hb
  have hid : g.id = pb r 0 := by
    have := List.find?_some hg
    exact of_decide_eq_true this
  refine exec_okRep rfl h ?_
  unfold cellarRelease
  rw [shaped_ok hs, hg']
  dsimp only
  rw [hb', if_neg Bool.false_ne_true, hid]
  rfl

theorem xbUe_sound (hue : s.ueWords = []) : xbUe s a n = false := by
  rw [xbUe, ueHit, hue]
  exact List.any_eq_false.mpr fun w _ => Bool.false_ne_true

theorem firstUe_sound (hue : s.ueWords = []) : firstUe s a n = none := by
  rw [firstUe, hue]
  exact List.find?_eq_none.mpr fun w _ => Bool.false_ne_true

theorem cellarRead_reads (h : Served 0x602 r s) (hs : Shape r 12 []) (h8 : 8 ≤ rd r.payload 8 4) (h1024 : rd r.payload 8 4 ≤ 1024) (hmod : rd r.payload 8 4 % 8 = 0)
    (hreg : inRegion s (rd r.payload 0 8) (rd r.payload 8 4) = true) (hue : s.ueWords = []) (hce : s.ceWords = [])
    (hkind : xbReadKind (served s) masterGroom (rd r.payload 0 8) (rd r.payload 8 4) = .ok) (hsrc : r.source = .spi) (ht : xbTarget (rd r.payload 0 8) < 12)
    (hw : rangeWaits s (rd r.payload 0 8) (rd r.payload 8 4) = false) :
    exec (.cellarRead r) s = .next (answer r (ok (memBytes s (rd r.payload 0 8) (rd r.payload 8 4))) (served s)) := by
  have hreg' : inRegion (served s) (rd r.payload 0 8) (rd r.payload 8 4) = true := hreg
  have hcut : min (rd r.payload 8 4) (maxReply r.source / 8 * 8) = rd r.payload 8 4 := by
    rw [hsrc]
    exact Nat.min_eq_left (Nat.le_trans h1024 (by decide))
  have hbytes : xbReadBytes (served s) masterGroom (rd r.payload 0 8) (rd r.payload 8 4) = memBytes s (rd r.payload 0 8) (rd r.payload 8 4) := by
    rw [xbReadBytes, hkind]
    exact if_neg (fun hc => by omega)
  have heffect : xbReadEffect masterGroom (rd r.payload 0 8) (rd r.payload 8 4) (served s) = served s := by
    unfold xbReadEffect
    rw [hkind]
    exact xbEccRead_sound (s := served s) hce (xbUe_sound hue)
  refine congrArg Host.Outcome.next ?_
  unfold cellarRead
  dsimp only
  rw [if_neg (fun hc => ne_true_of_eq_false hw hc.2), taken_eq h]
  dsimp only
  rw [shaped_ok hs, need_true (decide_eq_true ⟨h8, by omega, hmod⟩), need_true hreg', hcut, firstUe_sound (s := served s) hue, hbytes, heffect]
  rfl

theorem cellarWrite_writes (h : Served 0x603 r s) (h16 : 16 ≤ r.payload.length) (hmod : r.payload.length % 8 = 0)
    (hreg : inRegion s (rd r.payload 0 8) (r.payload.length - 8) = true) (hw : rangeWaits s (rd r.payload 0 8) (r.payload.length - 8) = false) :
    exec (.cellarWrite r) s = .next (answer r (ok []) (xbWrite masterGroom (rd r.payload 0 8) (r.payload.drop 8) (served s))) := by
  refine exec_okRep (congrArg Host.Outcome.next (if_neg (ne_true_of_eq_false hw))) h ?_
  refine (need_true (decide_eq_true ⟨h16, by omega⟩)).trans ?_
  exact need_true hreg

theorem cellarCopy_starts {j : Nat} (h : Served 0x604 r s) (hs : Shape r 24 []) (hmod : rd r.payload 16 8 % 64 = 0)
    (hsrc : inRegion s (rd r.payload 0 8) (rd r.payload 16 8) = true) (hdst : inRegion s (rd r.payload 8 8) (rd r.payload 16 8) = true) (hr : JobRoom j s) :
    exec (.cellarCopy r j) s = .next (answer r (accepted j) { served s with
      jobs := s.jobs ++ [newJob j r s (.copy (rd r.payload 0 8) (rd r.payload 8 8) (rd r.payload 16 8))] }) := by
  have hr' : JobRoom j (served s) := hr
  refine exec_jobRep rfl h ?_
  refine (shaped_ok hs).trans ((need_true (decide_eq_true hmod)).trans ?_)
  refine (need_true (b := inRegion (served s) _ _) hsrc).trans ((need_true (b := inRegion (served s) _ _) hdst).trans ?_)
  exact startJob_room hr' r _ _

/-! ### Ports (R288, R314, R322) -/

theorem portAction_acts {f : Nat → Nat → Nat → State → State} (hs : Shape r 16 [6, 7]) (hf : s.frame + 2 ≤ rd r.payload 8 8) :
    portAction r f s = okRep [] (f (rd r.payload 0 4) (rd r.payload 4 2) (rd r.payload 8 8) s) :=
  (shaped_ok hs).trans (need_true (decide_eq_true hf))

theorem maskPorts_one {p : Nat} (hp : p < 32) : maskPorts (2 ^ p) 0 = [p] := by
  have hone : ∀ p : Fin 32, maskPorts (2 ^ p.val) 0 = [p.val] := by decide
  exact hone ⟨p, hp⟩

theorem portCode_setPort_starting {p f : Nat} {x : PortSt} (hp : p < 32) (hrun : portRunning s p = false) (hen : fbit s Fld.PORT_CFG_EN p = true) (hx : x.startAt = some f) :
    portCode (setPort p x s) p = 2 := by
  have hrun' : ¬ portRunning (setPort p x s) p = true := ne_true_of_eq_false hrun
  have hen' : ¬ ¬ portEnabled (setPort p x s) p = true := not_not_intro ((if_pos hp).trans hen)
  unfold portCode
  rw [portOf_setPort, if_neg hrun', if_neg hen', hx]
  rfl

theorem portCode_setPort_stopping {p f : Nat} {x : PortSt} (hrun : portRunning s p = true) (hst : fld s Fld.PORT_STATE_STATE p ≠ 5) (hx : x.stopAt = some f) :
    portCode (setPort p x s) p = 4 := by
  have hrun' : portRunning (setPort p x s) p = true := hrun
  have hst' : ¬ (p < 32 ∧ fld (setPort p x s) Fld.PORT_STATE_STATE p = 5) := fun c => hst c.2
  unfold portCode
  rw [portOf_setPort, if_pos hrun', if_neg hst', hx]
  rfl

theorem portStart_one {p f : Nat} (hp : p < 32) (hrun : portRunning s p = false) (hres : (portOf s p).resumeAt = none) (hen : fbit s Fld.PORT_CFG_EN p = true)
    (hok : portCfgOk s p = true) :
    portStart (2 ^ p) 0 f s = setFld Fld.PORT_STATE_STATE p 2 (setPort p { portOf s p with startAt := some f, stopAt := none } s) := by
  have hstarted : ¬ portStarted s p = true := by rw [portStarted, hrun, hres]; exact Bool.false_ne_true
  have hfits : ¬ (p < 32 ∧ fbit s Fld.PORT_CFG_EN p = true ∧ ¬ portCfgOk s p = true) := fun c => c.2.2 hok
  unfold portStart forEach
  rw [maskPorts_one hp, List.foldl_cons, List.foldl_nil]
  refine (if_neg hstarted).trans ((if_neg hfits).trans ((if_pos hp).trans ?_))
  rw [portCode_setPort_starting hp hrun hen rfl]

theorem portStop_one {p f : Nat} (hp : p < 32) (hrun : portRunning s p = true) (hst : fld s Fld.PORT_STATE_STATE p ≠ 5) :
    portStop (2 ^ p) 0 f s = setFld Fld.PORT_STATE_STATE p 4 (setPort p { portOf s p with startAt := none, stopAt := some f } s) := by
  have hstarted : portStarted s p = true := by rw [portStarted, hrun]; rfl
  unfold portStop forEach
  rw [maskPorts_one hp, List.foldl_cons, List.foldl_nil]
  dsimp only
  rw [if_pos hstarted]
  refine (if_pos hp).trans ?_
  rw [portCode_setPort_stopping hrun hst rfl]

theorem portStatus_answers (h : Served 0x702 r s) (hs : Shape r 4 [1, 2, 3]) (hp : pb r 0 < 48) :
    exec (.portStatus r) s = .next (answer r (ok (portRecord (served s) (pb r 0))) (served s)) :=
  exec_okRep rfl h ((shaped_ok hs).trans (need_true (decide_eq_true hp)))

/-! ### Override (R429, R440) -/

theorem overrideSet_sets (h : Served 0xC00 r s) (hs : Shape r 4 [2, 3]) (hon : pb r 0 ≤ 1) (hroute : pb r 1 ≤ 3) :
    exec (.overrideSet r) s = .next (answer r (ok (beBytes 8 (s.frame + 1))) (overrideSet (decide (pb r 0 = 1)) (pb r 1) (served s))) :=
  exec_okRep rfl h ((shaped_ok hs).trans ((need_true (decide_eq_true hon)).trans (need_true (decide_eq_true hroute))))

theorem putBit_lt {w k : Nat} (hw : w < 16) (hk : k < 4) (on : Bool) :
    (if testBit w k then (if on then w else w - 2 ^ k) else (if on then w + 2 ^ k else w)) < 16 := by
  have hall : ∀ (w : Fin 16) (k : Fin 4) (on : Bool),
      (if testBit w.val k.val then (if on then w.val else w.val - 2 ^ k.val) else (if on then w.val + 2 ^ k.val else w.val)) < 16 := by decide
  exact hall ⟨w, hw⟩ ⟨k, hk⟩ on

theorem overrideSet_bit (on : Bool) {k : Nat} (hk : k < 4) (s : State) : testBit (fld (overrideSet on k s) Fld.OVR_STATUS_CMD) k = on := by
  unfold overrideSet
  rw [fld_setFld _ Fld.OVR_STATUS_CMD _ _ (by decide) (putBit_lt (fld_lt s Fld.OVR_STATUS_CMD 0) hk on) (by decide)]
  exact testBit_put _ _ _

theorem overrideStatus_answers (h : Served 0xC01 r s) (hp : r.payload = []) :
    exec (.overrideStatus r) s = .next (answer r (ok (overrideRecord (served s))) (served s)) := exec_okRep rfl h (shaped_ok (shape_nil hp))

end

/-- Settles O36. -/
theorem cellarPortsOverride : Obligations.CellarPortsOverride := by
  unfold Obligations.CellarPortsOverride
  intro r s
  exact ⟨cellarReserve_first, fun g => cellarRelease_frees, cellarRead_reads, cellarWrite_writes, fun h => cellarCopy_starts,
    fun h hs hf => exec_okRep rfl h (portAction_acts (s := served s) hs hf), fun h hs hf => exec_okRep rfl h (portAction_acts (s := served s) hs hf),
    fun p hp => portStart_one hp, fun p hp => portStop_one hp, portStatus_answers, overrideSet_sets, fun on k hk => overrideSet_bit on hk s, overrideStatus_answers⟩

end Sys2Proof.Machine

/-!
# Graph, kernel and parameter-read opcodes
-/

namespace Sys2Proof.Machine

section
variable {r : Req} {s : State}

/-! ### The working graph (R280) -/

/-- One legal record of the right length is added to the working graph, where the limits of Table 5.8 allow it. -/
theorem addRecords_one {size maxN : Nat} {bad : List Byte → Nat → Option Nat} {add : List Byte → Nat → Graph → Graph} {team : State → Bool} {g : Graph}
    (hlen : r.payload.length = 4 + size) (hk : rd r.payload 0 2 = 1) (hres : rd r.payload 2 2 = 0) (hmax : 1 ≤ maxN) (hbad : bad r.payload 4 = none)
    (hg : g = add r.payload 4 s.work) (hover : graphOver g (team s) = none) :
    addRecords r size maxN bad add team s = okRep [] { s with work := g } := by
  have hbad' : recordsBad r.payload size 1 bad = none := by
    rw [recordsBad, List.range_one, List.findSome?_cons, Nat.mul_zero, Nat.add_zero, hbad]
    rfl
  have hadd : (List.range 1).foldl (fun g i => add r.payload (4 + size * i) g) s.work = g := hg.symm
  unfold addRecords
  dsimp only
  rw [hk, hbad', hadd]
  dsimp only
  rw [hover, Nat.mul_one, if_neg (by omega), if_neg (not_not_intro hlen), if_neg (not_not_intro hres), if_neg (by omega)]

theorem graphDelete_node {id : Nat} (hlen : r.payload.length = 8) (hkind : pb r 0 = 1) (hres : pb r 1 = 0) (hn : rd r.payload 2 2 = 1) (hid : rd r.payload 4 4 = id)
    (hhas : (nodeOf s.work id).isSome = true) :
    graphDelete r s = okRep [] { s with work := { s.work with
      nodes := s.work.nodes.filter (fun n => decide (n.id ≠ id)), edges := s.work.edges.filter (fun e => decide (e.srcNode ≠ id ∧ e.dstNode ≠ id)) } } := by
  have hid' : rd r.payload (4 + 4 * 0) 4 = id := hid
  have hhas' : graphHas s.work 1 id = true := hhas
  have hheld : (List.range 1).find? (fun i => !graphHas s.work 1 (rd r.payload (4 + 4 * i) 4)) = none := by
    rw [List.range_one, List.find?_cons, hid', hhas']
    rfl
  have hsegs : (List.range 1).find? (fun i => decide (1 = 3) && s.work.nodes.any (fun x => decide (x.segment = rd r.payload (4 + 4 * i) 4))) = none := rfl
  have hdrop : (List.range 1).foldl (fun g i => graphDrop 1 (rd r.payload (4 + 4 * i) 4) g) s.work = graphDrop 1 id s.work := congrArg (graphDrop 1 · s.work) hid'
  unfold graphDelete
  dsimp only
  rw [hn, hkind, hheld, hsegs, hdrop, if_neg (by omega), if_neg (by omega), if_neg (not_not_intro hres), if_neg (by decide), if_neg (by decide)]
  rfl

/-! ### Kernels (R122, R280) -/

section
variable {h k : Nat} (h9 : 9 ≤ r.payload.length) (hmax : r.payload.length ≤ 32840) (hk : rd r.payload 0 2 = k) (hlow : 0x8000 ≤ k) (hhigh : k ≤ 0x80FF)
  (hres : pb r 3 = 0) (hoff : rd r.payload 4 4 = 0)
include h9 hmax hk hlow hhigh hres hoff

theorem kernelLoad_gathers (hlast : pb r 2 = 0) :
    kernelLoad r h s = okRep [] { s with partials := ⟨k, r.payload.drop 8⟩ :: s.partials.filter (fun p => decide (p.handle ≠ k)) } := by
  unfold kernelLoad
  dsimp only
  rw [hk, hoff, hlast, hres, if_neg (by omega), if_neg (by omega), if_neg (by decide), if_neg (by decide), if_neg (fun c => c.1 rfl), if_pos rfl,
    if_neg (by rw [List.length_drop]; omega), if_pos rfl]

theorem kernelLoad_starts (hlast : pb r 2 = 1) (hw : kernelIn s.work k = false) (hl : kernelIn s.live k = false) (hn : s.kernels.length < 256)
    (hhead : kernelHeaderBad k (r.payload.drop 8) = none) (hr : JobRoom h s) :
    kernelLoad r h s = jobRep h { s with
      jobs := s.jobs ++ [newJob h r s (.kernel k (r.payload.drop 8))], partials := s.partials.filter (fun p => decide (p.handle ≠ k)) } := by
  unfold kernelLoad
  dsimp only
  rw [hk, hoff, hlast, hres, if_neg (by omega), if_neg (by omega), if_neg (by decide), if_neg (by decide), if_neg (fun c => c.1 rfl), if_pos rfl,
    if_neg (by rw [List.length_drop]; omega), if_neg (by decide), if_neg (by rw [hw, hl]; decide), if_neg (by omega), hhead]
  exact startJob_room hr r _ _

end

theorem kernelDelete_deletes (hs : Shape r 4 [2, 3]) (hk : (kernelOf s (rd r.payload 0 2)).isSome = true) (hw : kernelIn s.work (rd r.payload 0 2) = false)
    (hl : kernelIn s.live (rd r.payload 0 2) = false) :
    kernelDelete r s = okRep [] { s with kernels := s.kernels.filter (fun x => decide (x.handle ≠ rd r.payload 0 2)) } :=
  (shaped_ok hs).trans ((need_true hk).trans (need_true (by rw [hw, hl]; rfl)))

/-! ### Parameters (R282) -/

theorem paramRead_live {n : GNode} (hs : Shape r 12 [1, 10, 11]) (hsrc : r.source = .spi) (hlive : pb r 0 = 0) (hone : rd r.payload 8 2 = 1)
    (hn : nodeOf s.live (rd r.payload 2 2) = some n) (hp : (paramCheck s n (rd r.payload 4 4) 0).isSome = true) :
    paramRead r s = okRep ([0, 1, 0, 0] ++ beBytes 4 (paramIn s.liveParams n (rd r.payload 4 4)).toNat) s := by
  have hhave : (List.range 1).takeWhile (fun i => (paramCheck s n (rd r.payload 4 4 + i) 0).isSome) = [0] := by
    rw [List.range_one, List.takeWhile_cons, Nat.add_zero, hp]
    rfl
  have hcount : beBytes 2 1 = [0, 1] := by decide
  have htake : ([0] : List Nat).take ((maxReply .spi - 4) / 4) = [0] := rfl
  unfold paramRead
  dsimp only
  rw [shaped_ok hs, hlive, need_true (by decide), hone, need_true (by decide), if_pos rfl, hn]
  dsimp only
  rw [hhave, if_neg (List.cons_ne_nil _ _), hsrc, htake]
  simp only [List.map_cons, List.map_nil, List.length_singleton, hcount, List.flatMap_cons, List.flatMap_nil, List.append_nil, Nat.add_zero, if_true]
  rfl

end

/-- Settles O38. -/
theorem graphsAndKernels : Obligations.GraphsAndKernels := by
  unfold Obligations.GraphsAndKernels
  intro r s
  refine ⟨fun g h hlen hk hres hbad hg hover => ?_, fun g h hlen hk hres hbad hg hover => ?_, fun g h hlen hk hres hbad hg hover => ?_,
    fun id h hlen hkind hres hn hid hhas => exec_okRep rfl h (graphDelete_node (s := served s) hlen hkind hres hn hid hhas),
    fun h hp => exec_okRep rfl h (shaped_ok (shape_nil hp)),
    fun j h h9 hmax hlow hhigh hlast hres hoff => exec_okRep rfl h (kernelLoad_gathers (s := served s) h9 hmax rfl hlow hhigh hres hoff hlast),
    fun j h h9 hmax hlow hhigh hlast hres hoff hw hl hn hhead hr =>
      exec_jobRep rfl h (kernelLoad_starts (s := served s) h9 hmax rfl hlow hhigh hres hoff hlast hw hl hn hhead hr),
    fun h hs hk hw hl => exec_okRep rfl h (kernelDelete_deletes (s := served s) hs hk hw hl),
    fun n h hs hsrc hlive hone hn hp => exec_okRep rfl h (paramRead_live (s := served s) hs hsrc hlive hone hn hp)⟩
  · exact exec_okRep rfl h (addRecords_one (s := served s) hlen hk hres (by decide) hbad hg hover)
  · exact exec_okRep rfl h (addRecords_one (s := served s) hlen hk hres (by decide) hbad hg hover)
  · exact exec_okRep rfl h (addRecords_one (s := served s) hlen hk hres (by decide) hbad hg hover)

end Sys2Proof.Machine

/-!
# Compiles and their results
-/

namespace Sys2Proof.Machine

/-! ### Requests that the engine sends (R263, R273) -/

/-- The state without what sending an own request may change. -/
def beyondOwn (s : State) : State := { beyondSending s with ownReqs := [], ownSessions := [] }

theorem beyondOwn_of_sending {s t : State} (h : beyondSending t = beyondSending s) : beyondOwn t = beyondOwn s := by rw [beyondOwn, h, beyondOwn]

theorem beyondOwn_ownSend (x : OwnSession) (num op : Nat) (payload : List Byte) (s : State) : beyondOwn (ownSend x num op payload s) = beyondOwn s := by
  unfold ownSend sendTo
  dsimp only
  exact (beyondOwn_of_sending (beyondSending_queuePacket _ _)).trans rfl

theorem beyondOwn_sendOwn (ep op : Nat) (payload : List Byte) (s : State) : beyondOwn (sendOwn ep op payload s) = beyondOwn s := by
  unfold sendOwn
  split
  next x _ =>
    split
    · exact beyondOwn_ownSend ..
    · rfl
  next =>
    split
    · rfl
    · exact (beyondOwn_ownSend ..).trans rfl

theorem beyondOwn_membersWithdraw (c : CompileJob) (s : State) : beyondOwn (membersWithdraw c s) = beyondOwn s :=
  forEach_keeps beyondOwn _ _ (fun _ _ => beyondOwn_sendOwn ..) s

theorem beyondOwn_reportLeader (c : CompileJob) (s : State) : beyondOwn (reportLeader c s) = beyondOwn s := by
  unfold reportLeader
  split
  · exact beyondOwn_sendOwn ..
  · rfl

section
variable {s t : State} (h : beyondOwn t = beyondOwn s)
include h

theorem jobs_of_beyondOwn : t.jobs = s.jobs := by
  have := congrArg State.jobs h
  exact this

theorem brews_of_beyondOwn : t.brews = s.brews := by
  have := congrArg State.brews h
  exact this

theorem results_of_beyondOwn : t.results = s.results := by
  have := congrArg State.results h
  exact this

end

section
variable {r : Req} {s : State}

/-! ### COMPILE and GRAPH_RESULT (R128, R280, R281) -/

theorem compileCmd_starts {h : Nat} (hs : Shape r 4 [3]) (hb : pb r 0 ≤ 14) (hlow : 50 ≤ pb r 1) (hhigh : pb r 1 ≤ 100) (hf : pb r 2 ≤ 1)
    (hrun : compileRunning s = none) (hpend : compilePending s = none) (hst : (brewOf s (pb r 0)).st = .open_) (hr : JobRoom h s) :
    compileCmd r h s = jobRep h (setBrew (pb r 0) { brewOf s (pb r 0) with jobBusy := busyWith false h (brewOf s (pb r 0)).jobBusy } { s with
      jobs := s.jobs ++ [newJob h r s (.compile ⟨pb r 0, pb r 1, decide (pb r 2 = 1), ⟨[], [], []⟩, [], 0, [], 0, none, [], ⟨[], [], []⟩, none, none⟩)] }) := by
  unfold compileCmd
  dsimp only
  rw [shaped_ok hs, need_true (decide_eq_true hb), need_true (decide_eq_true ⟨hlow, hhigh⟩), need_true (decide_eq_true hf), hrun, hpend]
  dsimp only
  rw [if_neg (not_not_intro hst)]
  exact startJob_room hr r _ _

theorem graphResult_record {c : CompileResult} (hs : Shape r 12 [2, 3, 10, 11]) (hsrc : r.source = .spi) (he : pb r 0 ≤ 15) (hpart : pb r 1 = 0)
    (hfirst : rd r.payload 4 4 = 0) (hone : rd r.payload 8 2 = 1) (hc : s.results.find? (fun c => decide (c.engine = pb r 0)) = some c) :
    graphResult r s = okRep ([0, 0, 0, 1, 0, 1, 0, 0] ++ resultBytes c) s := by
  have htake : ([resultBytes c].drop 0).take (min 1 ((maxReply .spi - 8) / partSize 0)) = [resultBytes c] := rfl
  have h4 : beBytes 4 1 = [0, 0, 0, 1] := by decide
  have h2 : beBytes 2 1 = [0, 1] := by decide
  unfold graphResult
  dsimp only
  rw [shaped_ok hs, need_true (decide_eq_true he), hpart, need_true (by decide), hc, hsrc, hfirst, hone]
  simp only [resultItems, htake, List.length_singleton, h4, h2, List.flatten_cons, List.flatten_nil, List.append_nil]
  rfl

/-! ### Team compiles (R138–R141) -/

theorem subgraphRx_starts {leader brew h : Nat} {g : Graph} {partner : Option ProgramSet} (hrun : compileRunning s = none) (hpend : compilePending s = none)
    (hst : (brewOf s brew).st = .open_) (hr : JobRoom h s)
    (hlead : if fld s Fld.SHADOW_PARTNER_ROLE = 2 then leader = fld s Fld.SHADOW_PARTNER_PARTNER ∧ partner.isSome = true else leader ∈ s.team ∧ partner = none) :
    subgraphRx leader brew h g partner s = setBrew brew { brewOf s brew with jobBusy := busyWith false h (brewOf s brew).jobBusy } { s with
      results := [], jobs := s.jobs ++ [⟨h, 0x207, 0, 0, 3, 0, 0, 0, s.frame, 0, 0, false, .compile ⟨brew, 100, false, g, s.params, s.fs, [], 0, some leader, [], g, none, partner⟩⟩] } := by
  have hpick : pickHandle s h = h := if_pos hr.2
  have hfrom : (if decide (fld s Fld.SHADOW_PARTNER_ROLE = 2) = true then leader = fld s Fld.SHADOW_PARTNER_PARTNER ∧ partner.isSome = true
      else s.team.contains leader = true ∧ partner.isNone = true) := by
    by_cases hrole : fld s Fld.SHADOW_PARTNER_ROLE = 2
    · rw [if_pos (decide_eq_true hrole)]
      rwa [if_pos hrole] at hlead
    · rw [if_neg (by rwa [decide_eq_true_iff])]
      rw [if_neg hrole] at hlead
      obtain ⟨hmem, rfl⟩ := hlead
      exact ⟨List.contains_iff_mem.mpr hmem, rfl⟩
  unfold subgraphRx
  dsimp only
  rw [hrun, hpend, hpick, if_neg]
  rintro (h | h | h | h | h)
  · exact Bool.false_ne_true h
  · exact Bool.false_ne_true h
  · exact h hst
  · exact absurd hr.1 (Nat.not_lt.mpr h)
  · exact h hfrom

theorem memberReport_phase {m phase : Nat} {j : JobRec} {c : CompileJob} (hrun : compileRunning s = some j) (hw : j.work = .compile c) (hl : c.leader = none)
    (hm : c.members.any (fun x => decide (x.1 = m)) = true) :
    memberReport m phase none s =
      setJob { j with work := .compile { c with members := c.members.map (fun x => if x.1 = m then (x.1, x.2.1, phase, x.2.2.2) else x) } } s := by
  have hlead : ¬ (c.leader.isSome = true ∨ ¬ c.members.any (fun x => decide (x.1 = m)) = true) := by
    rw [hl]
    exact not_or.mpr ⟨Bool.false_ne_true, not_not_intro hm⟩
  unfold memberReport
  rw [hrun]
  dsimp only
  rw [hw]
  dsimp only
  rw [if_neg hlead]
  simp only [setCompile, updWhere, decide_eq_true_eq]

theorem compileRunning_state {j : JobRec} (h : compileRunning s = some j) : j.state = 0 := by
  have := List.find?_some h
  rw [Bool.and_eq_true, decide_eq_true_eq] at this
  exact this.1

theorem mem_putBy {α : Type} (key : α → Nat) (x : α) (l : List α) : x ∈ putBy key x l := by
  induction l with
  | nil => exact List.mem_singleton.mpr rfl
  | cons y l ih =>
    unfold putBy
    split
    · exact List.mem_cons_self
    · split
      · exact List.mem_cons_self
      · exact List.mem_cons_of_mem _ ih

theorem endJob_beyond (h st fin d res : Nat) (s : State) : (endJob h st fin d res s).brews = s.brews ∧ (endJob h st fin d res s).results = s.results := by
  unfold endJob
  split
  · exact ⟨rfl, rfl⟩
  · split <;> exact ⟨rfl, rfl⟩

/-- A compile that fails: its job, the brew without an output, and the result that says so. -/
theorem compileFail_shows {j : JobRec} {c : CompileJob} (hj : jobOf s j.handle = some j) (h0 : j.state = 0) (final detail : Nat) :
    let t := compileFail j c final detail s
    (∃ k, jobOf t j.handle = some k ∧ k.state = 2 ∧ k.final = final) ∧ (brewOf t c.brew).out = none ∧ ∃ y ∈ t.results, y.engine = ownIndex s ∧ y.status = 1 := by
  obtain ⟨w, hw⟩ : ∃ w, membersWithdraw c (putResult (resultOf s c 1 none) (withdrawOut c.brew s)) = w := ⟨_, rfl⟩
  have hbeyond : beyondOwn w = beyondOwn (putResult (resultOf s c 1 none) (withdrawOut c.brew s)) := hw ▸ beyondOwn_membersWithdraw c _
  have hjobs : w.jobs = s.jobs := (jobs_of_beyondOwn hbeyond).trans rfl
  have hbrew : (brewOf w c.brew).out = none := by
    rw [brewOf, brews_of_beyondOwn hbeyond]
    exact congrArg Brew.out (brewOf_setBrew s c.brew { brewOf s c.brew with out := none, outGraph := graphEmpty, outParams := [] })
  have hres : w.results = putBy CompileResult.engine (resultOf s c 1 none) s.results := (results_of_beyondOwn hbeyond).trans rfl
  have hset : jobOf (setJob (setCompile j c) w) j.handle = some (setCompile j c) := jobOf_setJob (j := j) (by rw [jobOf, hjobs]; exact hj) rfl
  obtain ⟨hb, hr⟩ := endJob_beyond j.handle 2 final detail 0 (setJob (setCompile j c) w)
  have hleader := beyondOwn_reportLeader c (endJob j.handle 2 final detail 0 (setJob (setCompile j c) w))
  intro t
  have ht : t = reportLeader c (endJob j.handle 2 final detail 0 (setJob (setCompile j c) w)) := by rw [← hw]; rfl
  rw [ht]
  refine ⟨⟨{ setCompile j c with state := 2, final := final, detail := detail % 2 ^ 32, endFrame := w.frame, result := 0 }, ?_, rfl, rfl⟩, ?_, resultOf s c 1 none, ?_, rfl, rfl⟩
  · rw [jobOf, jobs_of_beyondOwn hleader]
    exact jobOf_endJob hset h0 2 final detail 0
  · rw [brewOf, brews_of_beyondOwn hleader, hb]
    exact hbrew
  · rw [results_of_beyondOwn hleader, hr]
    show _ ∈ w.results
    rw [hres]
    exact mem_putBy ..

theorem memberTimeout_fails {m : Nat} {j : JobRec} {c : CompileJob} {x : Nat × Nat × Nat × Bool} (hrun : compileRunning s = some j) (hw : j.work = .compile c)
    (hx : c.members.find? (fun x => decide (x.1 = m)) = some x) (hsilent : x.2.2.2 = false) :
    memberTimeout m s = compileFail j (addDiags c [⟨0x15, 2, some m, none, none, none, none, some m, some x.2.2.1⟩]) 0x42 1 s := by
  unfold memberTimeout
  rw [hrun]
  dsimp only
  rw [hw]
  dsimp only
  rw [hx]
  exact if_neg (ne_true_of_eq_false hsilent)

theorem compileWithdraw_open {brew : Nat} (hrun : compileRunning s = none) (hst : (brewOf s brew).st = .open_) :
    compileWithdraw brew s = setBrew brew { brewOf s brew with out := none, outGraph := ⟨[], [], []⟩, outParams := [] } s := by
  unfold compileWithdraw
  rw [hrun]
  exact if_pos hst

end

/-- Settles O39. -/
theorem compiles : Obligations.Compiles := by
  unfold Obligations.Compiles
  intro r s
  exact ⟨fun j h hs hb hlow hhigh hf hrun hpend hst hr => exec_jobRep rfl h (compileCmd_starts (s := served s) hs hb hlow hhigh hf hrun hpend hst hr),
    fun c h hs hsrc he hpart hfirst hone hc => exec_okRep rfl h (graphResult_record (s := served s) hs hsrc he hpart hfirst hone hc),
    fun leader j brew g partner hrun hpend hst hr hlead => congrArg _ (subgraphRx_starts hrun hpend hst hr hlead),
    fun m phase j c hrun hw hl hm => congrArg _ (memberReport_phase hrun hw hl hm),
    fun m j c x hrun hj hw hx hsilent => endsIn_of rfl (memberTimeout_fails hrun hw hx hsilent) (compileFail_shows hj (compileRunning_state hrun) 0x42 1),
    fun brew hrun hst => congrArg _ (compileWithdraw_open hrun hst)⟩

end Sys2Proof.Machine

/-!
# The life of a brew up to its tap
-/

namespace Sys2Proof.Machine

/-- A BREW_OPEN with a crossfade of 1 ms, over queue pair 0. -/
def pcieOpen : Req :=
  { source := .pcie 0, via := ⟨0, none, 0⟩, session := 0, seq := 0, opcode := 0x400, tag := 0, auth := false, check := 0, t := 0, payload := [0, 1, 0, 0, 0, 0, 0, 0] }

/-- After reset, with that request admitted. -/
def pcieServing : State := { State.reset with admitted := [pcieOpen] }

/-- The reply is written into the reply ring, so PQ_TAIL moves. -/
theorem pcieServing_tail : fld (serve 0x400 pcieOpen (brewOpen pcieOpen 0) pcieServing) Fld.PQ_TAIL_TAIL 0 = 1 := by decide

/-- Refutes O40: BREW_OPEN is claimed to leave every register as it was, but the reply to one that came over PCIe advances PQ_TAIL: from 0 to 1 in `pcieServing`. -/
theorem not_brews : ¬ Obligations.Brews := by
  unfold Obligations.Brews
  intro h
  obtain ⟨hopen, -⟩ := h pcieOpen pcieServing
  obtain ⟨t, ht, -, -, -, -, -, -, hregs⟩ :=
    hopen 0 ⟨rfl, rfl, by decide⟩ ⟨rfl, by decide⟩ (by decide) (by decide) (by decide) (by decide) (by decide)
  have hstep : t = serve 0x400 pcieOpen (brewOpen pcieOpen 0) pcieServing := Host.Outcome.next.inj (ht.symm.trans rfl)
  have hsame : fld t Fld.PQ_TAIL_TAIL 0 = fld pcieServing Fld.PQ_TAIL_TAIL 0 := fld_congr hregs _ _
  have hzero : fld pcieServing Fld.PQ_TAIL_TAIL 0 = 0 := by decide
  rw [hstep, pcieServing_tail, hzero] at hsame
  exact absurd hsame (by decide)

end Sys2Proof.Machine

/-!
# A participant of a tap group
-/

namespace Sys2Proof.Machine

/-! ### What messages, replies and staged copies do not touch -/

/-- The state as a tap group shows it: the brews, the groups, the frame, and the words of TAP_STATUS and the endpoint's ID. -/
def tapView (s : State) : SMap Brew × List TapGroup × Nat × Word32 × Word32 := (s.brews, s.groups, s.frame, regWord s 0x324, regWord s 0x24)

/-- Rows above TAP_STATUS, and the single registers beside it and the endpoint's ID. -/
def besideTaps (f : RegField) (i : Nat) : Bool := decide (0x324 < f.base) || decide (i = 0) && decide (f.base ≠ 0x24) && decide (f.base ≠ 0x324)

theorem besideTaps_ne {f : RegField} {i : Nat} (h : besideTaps f i = true) : 0x324 ≠ fieldAddr f i ∧ 0x24 ≠ fieldAddr f i := by
  simp only [besideTaps, Bool.or_eq_true, Bool.and_eq_true, decide_eq_true_eq] at h
  rcases h with h | ⟨⟨rfl, h1⟩, h2⟩
  · have := Nat.le_add_right f.base (strideOff f.stride i)
    unfold fieldAddr
    omega
  · rw [fieldAddr_zero]
    exact ⟨Ne.symm h2, Ne.symm h1⟩

section View
variable {s : State}

theorem tapView_setFld {f : RegField} {i : Nat} (h : besideTaps f i = true) (v : Nat) (s : State) : tapView (setFld f i v s) = tapView s := by
  obtain ⟨h1, h2⟩ := besideTaps_ne h
  rw [tapView, setFld_brews, setFld_groups, setFld_frame, regWord_setFld_ne _ _ _ _ _ h1, regWord_setFld_ne _ _ _ _ _ h2]
  rfl

theorem tapView_setBit {f : RegField} {i : Nat} (h : besideTaps f i = true) (s : State) : tapView (setBit f i s) = tapView s := tapView_setFld h 1 s
theorem tapView_clrBit {f : RegField} {i : Nat} (h : besideTaps f i = true) (s : State) : tapView (clrBit f i s) = tapView s := tapView_setFld h 0 s
theorem tapView_countFld {f : RegField} {i : Nat} (h : besideTaps f i = true) (s : State) : tapView (countFld f i s) = tapView s := by
  rw [countFld_eq, tapView_setFld h]
theorem tapView_raise (code a b : Nat) (s : State) : tapView (raise code a b s) = tapView s := rfl

theorem tapView_forEach {α : Type} (l : List α) (f : α → State → State) (s : State) (hf : ∀ a s, tapView (f a s) = tapView s) :
    tapView (forEach l f s) = tapView s := forEach_keeps tapView l f hf s

theorem tapView_endJob (h st fin d r : Nat) (s : State) : tapView (endJob h st fin d r s) = tapView s := by
  unfold endJob
  split
  · rfl
  · split <;> rfl

/-! Sending. -/

theorem tapView_sendOut (x : Sent) (s : State) : tapView (sendOut x s) = tapView s := rfl

theorem tapView_pcieFlush (n q : Nat) (s : State) : tapView (pcieFlush n q s) = tapView s := by
  induction n generalizing s with
  | zero => rfl
  | succ n ih =>
    unfold pcieFlush
    split
    · rfl
    · split
      · rfl
      · dsimp only
        rw [ih]
        split
        · rw [tapView_setFld rfl]
          rfl
        · rw [tapView_sendOut, tapView_setFld rfl]
          rfl

theorem tapView_udpSend (p : TxPacket) (ip : Nat) (s : State) : tapView (udpSend p ip s) = tapView s := by
  unfold udpSend udpOut
  dsimp only
  split
  · rfl
  · split
    · split <;> rfl
    · rfl

theorem tapView_queuePacket (p : TxPacket) (s : State) : tapView (queuePacket p s) = tapView s := by
  unfold queuePacket
  split
  · rfl
  · rfl
  · exact tapView_pcieFlush ..
  · rfl
  · exact tapView_udpSend ..

theorem tapView_answer (r : Req) (p : Rep) (s : State) : tapView (answer r p s) = tapView s := by
  unfold answer sendReply
  dsimp only
  split
  · exact tapView_queuePacket ..
  · split
    · rfl
    · exact tapView_queuePacket ..

theorem tapView_ownSend (x : OwnSession) (num op : Nat) (payload : List Byte) (s : State) : tapView (ownSend x num op payload s) = tapView s := by
  unfold ownSend sendTo
  dsimp only
  exact (tapView_queuePacket ..).trans rfl

theorem tapView_sendOwn (ep op : Nat) (payload : List Byte) (s : State) : tapView (sendOwn ep op payload s) = tapView s := by
  unfold sendOwn
  split
  · split
    · exact tapView_ownSend ..
    · rfl
  · split
    · rfl
    · exact (tapView_ownSend ..).trans rfl

theorem tapView_sendTap (ep group frame handle kind cause eff : Nat) (s : State) : tapView (sendTap ep group frame handle kind cause eff s) = tapView s :=
  tapView_sendOwn ..

theorem tapView_know (h : Nat) (g : BrewGroup) (outcome : Nat) (s : State) : tapView (know h g outcome s) = tapView s := by
  unfold know
  split <;> rfl

/-! The core voltage. -/

theorem tapView_avsSend (v : Nat) (s : State) : tapView (avsSend v s) = tapView s := by
  unfold avsSend
  split
  · rfl
  · split <;> rfl

theorem tapView_avsWindow (s : State) : tapView (avsWindow s) = tapView s := by
  rw [avsWindow, tapView_setFld rfl, tapView_setFld rfl]
  rfl

theorem tapView_putSetpoint (h : Nat) (s : State) : tapView (putSetpoint h s) = tapView s := by
  unfold putSetpoint
  split
  · rfl
  · rw [tapView_avsSend, tapView_clrBit rfl, tapView_avsWindow, showSetpoint, tapView_setFld rfl, tapView_setFld rfl]
    rfl

theorem tapView_avsFloorOn (s : State) : tapView (avsFloorOn s) = tapView s := by
  unfold avsFloorOn
  dsimp only
  split
  · rw [tapView_putSetpoint, tapView_setBit rfl]
  · exact tapView_setBit rfl s

/-! Writes of the groom into memory. -/

theorem tapView_memWrite (a : Nat) (bs : List Byte) (s : State) : tapView (memWrite a bs s) = tapView s := by
  have hforward : ∀ n s, tapView (forwardWrite a n s) = tapView s := fun n s => by
    unfold forwardWrite
    split
    · rfl
    · split <;> rfl
  unfold memWrite
  dsimp only
  rw [hforward]
  split <;> rfl

theorem tapView_eccWrite (a : Nat) (bs : List Byte) (s : State) : tapView (eccWrite a bs s) = tapView s := by
  grind [eccWrite, tapView_memWrite, (tapView_countFld (f := Fld.CH_UE_COUNT_COUNT) rfl), (tapView_countFld (f := Fld.SP_ECC_COUNT_UNCORRECTABLE) rfl),
    tapView_forEach, tapView, regWord]

theorem tapView_xbCount (k : RespKind) (m a : Nat) (s : State) : tapView (xbCount k m a s) = tapView s := by
  unfold xbCount
  split
  · split
    · rw [tapView_raise, tapView_setBit rfl, tapView_setFld rfl, tapView_setFld rfl, tapView_setFld rfl, tapView_countFld rfl]
    · rfl
  · dsimp only
    rw [tapView_raise, tapView_setBit rfl, tapView_setFld rfl, tapView_countFld rfl]
  · rfl

theorem tapView_xbWrite (m a : Nat) (bs : List Byte) (s : State) : tapView (xbWrite m a bs s) = tapView s := by
  unfold xbWrite targetWrite
  split
  · split
    · rfl
    · split
      · rfl
      · exact tapView_eccWrite ..
  · exact tapView_xbCount ..

theorem tapView_fillBursts (n a : Nat) (bs : List Byte) (s : State) : tapView (fillBursts n a bs s) = tapView s := by
  induction n generalizing a bs s with
  | zero => rfl
  | succ n ih =>
    cases bs with
    | nil => rfl
    | cons b bs =>
      rw [fillBursts, ih, tapView_xbWrite]
      exact List.cons_ne_nil _ _

theorem tapView_dropStaged (k : Claim) (s : State) : tapView (dropStaged k s) = tapView s := by
  cases k with
  | window u => exact tapView_fillBursts ..
  | page u => rfl
  | reg a => rfl
  | bank k => rfl

end View

section Same
variable {a b : State} (h : tapView a = tapView b)
include h

theorem brews_tapView : a.brews = b.brews := (Prod.mk.inj h).1
theorem brewOf_tapView (k : Nat) : brewOf a k = brewOf b k := by rw [brewOf, brews_tapView h, brewOf]
theorem groups_tapView : a.groups = b.groups := (Prod.mk.inj (Prod.mk.inj h).2).1
theorem frame_tapView : a.frame = b.frame := (Prod.mk.inj (Prod.mk.inj (Prod.mk.inj h).2).2).1
theorem ownEndpoint_tapView : ownEndpoint a = ownEndpoint b := by
  have hw : regWord a 0x24 = regWord b 0x24 := (Prod.mk.inj (Prod.mk.inj (Prod.mk.inj (Prod.mk.inj h).2).2).2).2
  exact congrArg (fun w => bitsOf Fld.ENDPOINT_ID_ID.hi Fld.ENDPOINT_ID_ID.lo w.toNat) hw
theorem abortSticky_tapView : fld a Fld.TAP_STATUS_ABORT_STICKY = fld b Fld.TAP_STATUS_ABORT_STICKY := by
  have hw : regWord a 0x324 = regWord b 0x324 := (Prod.mk.inj (Prod.mk.inj (Prod.mk.inj (Prod.mk.inj h).2).2).2).1
  exact congrArg (fun w => bitsOf Fld.TAP_STATUS_ABORT_STICKY.hi Fld.TAP_STATUS_ABORT_STICKY.lo w.toNat) hw

end Same

/-! ### Messages (R190–R196) -/

section
variable {r : Req} {s t : State} {kind len : Nat} {f : State → Service}

theorem serveTap_ok (h : TapMsg kind len r s) (hf : f (served s) = okRep [] t) : serveTap kind len r f s = answer r (ok []) t := by
  obtain ⟨hserved, hkind, hfrom, hlen, hsender⟩ := h
  unfold serveTap
  rw [if_neg (not_not_intro hkind)]
  refine serve_ok hserved ?_
  rw [if_neg (not_not_intro hfrom), if_neg (not_not_intro hlen), if_neg (Nat.not_le.mpr hsender), hf]
  rfl

theorem atParticipant_ok {f : Nat → BrewGroup → State → State} {h : Nat} {g : BrewGroup} (hg : groupBrew s (msgGroup r) = some (h, g)) :
    atParticipant r f s = okRep [] (f h g s) := by
  unfold atParticipant
  rw [hg]

/-- What a tap group shows is left alone by the reply. -/
theorem endsIn_answer {i : Instr} {P : State → Prop} (hx : exec i s = .next (answer r (ok []) t)) (hP : ∀ y, tapView y = tapView t → P y) : EndsIn i s P :=
  ⟨_, hx, hP _ (tapView_answer ..)⟩

/-! PREPARE (R191). -/

/-- The brew of a participant that prepares. -/
def preparing (r : Req) (d : Nat) (ps : List GroupPart) (b : Brew) : Brew :=
  { b with st := .baking, role := 2, tap := msgFrame r, lateOk := false, gate := false, outcome := 0, deferred := false, late := false,
           job := none, grp := some ⟨msgGroup r, msgSender r, msgHandle r, msgFrame r, d, ps, 0, 0, false⟩ }

theorem prepare_bakes {p : GroupPart}
    (hp : ((List.range (rd r.payload 28 2)).map (fun i => readPart r.payload (30 + 8 * i))).find? (fun p => decide (p.endpoint = ownEndpoint s)) = some p)
    (hh : p.handle ≤ 14) (hst : (brewOf s p.handle).st = .open_) (hgrp : (brewOf s p.handle).grp = none) (hbusy : (brewOf s p.handle).jobBusy = [])
    (hjobs : brewJobs s p.handle = false) : ∃ d ps, prepare r s = okRep [] (setBrew p.handle (preparing r d ps (brewOf s p.handle)) s) := by
  have hfree : ¬ (14 < p.handle ∨ (brewOf s p.handle).st = .free) := by
    rw [hst]
    exact not_or.mpr ⟨Nat.not_lt.mpr hh, nofun⟩
  have hopen : ¬ ((brewOf s p.handle).st ≠ .open_ ∨ (brewOf s p.handle).grp.isSome = true) := by
    rw [hgrp]
    exact not_or.mpr ⟨not_not_intro hst, Bool.false_ne_true⟩
  have hidle : ¬ ((brewOf s p.handle).jobBusy ≠ [] ∨ brewJobs s p.handle = true) := not_or.mpr ⟨not_not_intro hbusy, ne_true_of_eq_false hjobs⟩
  unfold prepare
  dsimp only
  rw [hp]
  dsimp only
  rw [if_neg hfree, if_neg hopen, if_neg hidle]
  exact ⟨_, _, rfl⟩

/-! COMMIT and ABORT (R192, R195). -/

theorem takeCommit_prepared {h : Nat} {g : BrewGroup} (hst : (brewOf s h).st = .prepared) :
    takeCommit h g s = setBrew h { brewOf s h with st := .armed, gate := true, outcome := 1, grp := some { g with outcome := 1 } } (know h g 1 s) := if_pos hst

theorem tapView_brewReopen (h : Nat) (s : State) : ∃ b : State, tapView b = tapView s ∧ brewReopen h s = setBrew h
    { brewOf s h with st := .open_, role := 0, claims := [], baking := false, baked := 0, tap := 0, gate := false, grp := none, job := none, lateOk := false } b := by
  refine ⟨if (brewOf s h).baking then forEach (brewOf s h).claims dropStaged s else s, ?_, rfl⟩
  split
  · exact tapView_forEach _ _ _ tapView_dropStaged
  · rfl

/-- A prepared brew of another coordinator's group that learns ABORT. -/
theorem takeAbort_prepared {h : Nat} {g : BrewGroup} (hst : (brewOf s h).st = .prepared) (hcoord : g.coord ≠ ownEndpoint s) :
    let t := takeAbort h g s
    (brewOf t h).st = .open_ ∧ (brewOf t h).outcome = 2 ∧ (brewOf t h).log = (brewOf s h).log ∧ fld t Fld.TAP_STATUS_ABORT_STICKY = 1 := by
  obtain ⟨c, hc, hbrew, hsticky, hown⟩ : ∃ c, c = setBit Fld.TAP_STATUS_ABORT_STICKY 0 (know h g 2 s) ∧ brewOf c h = brewOf s h ∧
      fld c Fld.TAP_STATUS_ABORT_STICKY = 1 ∧ ownEndpoint c = ownEndpoint s := by
    refine ⟨_, rfl, ?_, ?_, ?_⟩
    · exact brewOf_tapView (tapView_know h g 2 s) h
    · exact fld_setFld _ Fld.TAP_STATUS_ABORT_STICKY _ _ (by decide) (by decide) (by decide)
    · exact (fld_setFld_other _ _ _ _ _ _ (by decide)).trans (ownEndpoint_tapView (tapView_know h g 2 s))
  obtain ⟨b, hb, hreopen⟩ := tapView_brewReopen h c
  obtain ⟨d, hd, hdbrew⟩ : ∃ d, d = brewReopen h c ∧ brewOf d h = { brewOf s h with
      st := .open_, role := 0, claims := [], baking := false, baked := 0, tap := 0, gate := false, grp := none, job := none, lateOk := false } :=
    ⟨_, rfl, by rw [hreopen, brewOf_setBrew, hbrew]⟩
  have hdsticky : fld d Fld.TAP_STATUS_ABORT_STICKY = 1 := by
    rw [hd, hreopen]
    exact (abortSticky_tapView hb).trans hsticky
  have hdown : ownEndpoint d = ownEndpoint s := by
    rw [hd, hreopen]
    exact (ownEndpoint_tapView hb).trans hown
  have hreport : partOpen h g g.cause c = sendTap g.coord g.group g.frame h 8 g.cause ((none : Option Nat).getD noFrame) d := by
    rw [partOpen, ← hd, reportDone, if_neg (by rw [hdown]; exact hcoord)]
  obtain ⟨e, he, hview⟩ : ∃ e, e = partOpen h g g.cause c ∧ tapView e = tapView d := ⟨_, rfl, by rw [hreport]; exact tapView_sendTap ..⟩
  have ht : takeAbort h g s = setBrew h { brewOf e h with outcome := 2 } e := by
    refine (if_pos (Or.inl hst)).trans ?_
    dsimp only
    rw [← hc, ← he]
  intro t
  have ht' : t = setBrew h { brewOf e h with outcome := 2 } e := ht
  rw [ht', brewOf_setBrew, brewOf_tapView hview, hdbrew]
  exact ⟨rfl, rfl, rfl, (abortSticky_tapView hview).trans hdsticky⟩

/-! A brew in doubt (R194, R195). -/

theorem learnCommit_joins {h : Nat} {g : BrewGroup} (hp : fbit s Fld.TAP_CTRL_SPLIT_POLICY = false) : ∃ b, tapView b = tapView s ∧
    learnCommit h g s = avsFloorOn (setBrew h
      { brewOf s h with st := .armed, gate := true, outcome := 1, tap := s.frame + 1, grp := some { g with outcome := 1, cause := 2 } } b) := by
  refine ⟨know h g 1 s, tapView_know h g 1 s, ?_⟩
  have hpolicy : ¬ fbit (know h g 1 s) Fld.TAP_CTRL_SPLIT_POLICY = true := by
    have hk : fbit (know h g 1 s) Fld.TAP_CTRL_SPLIT_POLICY = fbit s Fld.TAP_CTRL_SPLIT_POLICY := by unfold know; split <;> rfl
    rw [hk, hp]
    exact Bool.false_ne_true
  unfold learnCommit
  dsimp only
  rw [if_neg hpolicy, frame_tapView (tapView_know h g 1 s)]

theorem takeOutcome_joins {h : Nat} {g : BrewGroup} (hst : (brewOf s h).st = .inDoubt) (ho : g.outcome = 0) (hc : msgCause r = 1) :
    takeOutcome r h g s = learnCommit h g s := (if_neg (not_or.mpr ⟨not_not_intro hst, not_not_intro ho⟩)).trans (if_pos hc)

theorem queryTimer_asks {h : Nat} {g : BrewGroup} (hg : (brewOf s h).grp = some g) (hst : (brewOf s h).st = .inDoubt) (ho : g.outcome = 0)
    (hq : decisionQueued s g.group = false) : queryTimer h s = sendTap g.coord g.group g.frame h 6 0 0 s := by
  unfold queryTimer
  dsimp only
  rw [hg]
  exact if_pos ⟨hst, ho, ne_true_of_eq_false hq⟩

theorem queryPeers_asks {h : Nat} {g : BrewGroup} (hg : (brewOf s h).grp = some g) (hst : (brewOf s h).st = .inDoubt) (ho : g.outcome = 0) :
    queryPeers h s = (g.parts.filter (fun p => decide (p.endpoint ≠ ownEndpoint s))).foldl (fun y p => sendTap p.endpoint g.group g.frame h 6 0 0 y)
      (setBrew h { brewOf s h with grp := some { g with peers := true } } s) := by
  unfold queryPeers
  dsimp only
  rw [hg]
  exact if_pos ⟨hst, ho⟩

theorem brewResolve_arms {g : BrewGroup} (hs : Shape r 12 [2, 3]) (hh : pb r 0 ≤ 14) (hact : pb r 1 = 1) (hf : rd r.payload 4 8 = 0)
    (hst : (brewOf s (pb r 0)).st = .inDoubt) (hg : (brewOf s (pb r 0)).grp = some g) :
    brewResolve r s = okRep [] (avsFloorOn (setBrew (pb r 0)
      { brewOf s (pb r 0) with st := .armed, gate := true, tap := s.frame + 1, grp := some { g with cause := 3 } } s)) := by
  unfold brewResolve
  dsimp only
  rw [shaped_ok hs, need_true (decide_eq_true hh), hact, need_true (by decide), hst, hg, hf]
  dsimp only
  rw [if_neg (by decide), if_neg (fun c => c.1 rfl), if_pos rfl]

theorem settleArm_arms {h : Nat} (hst : (brewOf s h).st = .settling) (hfin : (brewOf s h).finals = true) (htap : (brewOf s h).tap = 0)
    (hfades : (brewOf s h).fades.all fadeDone = true) : settleArm h s = avsFloorOn (setBrew h { brewOf s h with tap := s.frame + 1 } s) :=
  if_pos ⟨hst, hfin, htap, hfades⟩

/-- A brew set before the floor of the core voltage comes into force. -/
theorem brewOf_avsFloorOn_setBrew (h : Nat) (b : Brew) (s : State) : brewOf (avsFloorOn (setBrew h b s)) h = b :=
  (brewOf_tapView (tapView_avsFloorOn _) h).trans (brewOf_setBrew s h b)

end

/-- Settles O41. -/
theorem tapParticipants : Obligations.TapParticipants := by
  unfold Obligations.TapParticipants
  intro r s
  refine ⟨fun p hm hp hh hst hgrp hbusy hjobs => ?_, fun h g hm hg hst => ?_, fun h g hm hg hst hcoord => ?_, fun hm => congrArg _ (serveTap_ok (f := query r) hm rfl),
    fun h g hm hg hst ho hc hpol => ?_, fun h g hg hst ho => ⟨fun hq => congrArg _ (queryTimer_asks hg hst ho hq), congrArg _ (queryPeers_asks hg hst ho)⟩,
    fun g hm hs hh hact hf hst hg => ?_, fun h hst hfin htap hfades => ?_⟩
  · obtain ⟨d, ps, hx⟩ := prepare_bakes (r := r) (s := served s) hp hh hst hgrp hbusy hjobs
    refine endsIn_answer (congrArg _ (serveTap_ok hm hx)) fun y hy => ?_
    rw [brewOf_tapView hy, brewOf_setBrew]
    exact ⟨rfl, rfl, rfl, _, rfl, rfl, rfl, rfl⟩
  · have hx : atParticipant r takeCommit (served s) = okRep [] _ :=
      (atParticipant_ok (s := served s) hg).trans (congrArg (okRep []) (takeCommit_prepared (s := served s) hst))
    refine endsIn_answer (congrArg _ (serveTap_ok hm hx)) fun y hy => ?_
    rw [brewOf_tapView hy, brewOf_setBrew]
    exact ⟨rfl, rfl, rfl, rfl⟩
  · refine endsIn_answer (congrArg _ (serveTap_ok hm (atParticipant_ok (s := served s) hg))) fun y hy => ?_
    rw [brewOf_tapView hy, abortSticky_tapView hy]
    exact takeAbort_prepared (s := served s) hst hcoord
  · obtain ⟨b, -, hjoin⟩ := learnCommit_joins (s := served s) (h := h) (g := g) hpol
    have hx : atParticipant r (takeOutcome r) (served s) = okRep [] _ :=
      (atParticipant_ok (s := served s) hg).trans (congrArg (okRep []) ((takeOutcome_joins (s := served s) hst ho hc).trans hjoin))
    refine endsIn_answer (congrArg _ (serveTap_ok hm hx)) fun y hy => ?_
    rw [brewOf_tapView hy, brewOf_avsFloorOn_setBrew]
    exact ⟨rfl, rfl, rfl⟩
  · refine endsIn_answer (exec_okRep rfl hm (brewResolve_arms (s := served s) hs hh hact hf hst hg)) fun y hy => ?_
    rw [brewOf_tapView hy, brewOf_avsFloorOn_setBrew]
    exact ⟨rfl, rfl⟩
  · refine endsIn_of rfl (settleArm_arms hst hfin htap hfades) ?_
    rw [brewOf_avsFloorOn_setBrew]
    exact ⟨rfl, hst⟩

end Sys2Proof.Machine

/-!
# The coordinator of a tap group
-/

namespace Sys2Proof.Machine

section
variable {r : Req} {s t : State} {g : TapGroup} {id : Nat}

theorem group_id (h : s.groups.find? (fun x => decide (x.id = id)) = some g) : g.id = id := by
  have := List.find?_some h
  exact of_decide_eq_true this

/-- A group that is set takes the place of those under its ID. -/
theorem mem_setGroup {x : TapGroup} (h : s.groups.find? (fun x => decide (x.id = id)) = some g) (hx : x.id = id) : x ∈ (setGroup x s).groups := by
  refine List.mem_map.mpr ⟨g, List.mem_of_find?_eq_some h, if_pos ?_⟩
  rw [decide_eq_true_eq, group_id h, hx]

theorem find_setGroup {x : TapGroup} (h : s.groups.find? (fun x => decide (x.id = id)) = some g) (hx : x.id = id) :
    (setGroup x s).groups.find? (fun x => decide (x.id = id)) = some x := by
  have hfind : ∀ l : List TapGroup, l.find? (fun x => decide (x.id = id)) = some g →
      (updWhere (fun y => decide (y.id = x.id)) (fun _ => x) l).find? (fun x => decide (x.id = id)) = some x := by
    intro l
    induction l with
    | nil => exact nofun
    | cons y l ih =>
      intro hl
      rw [updWhere, List.map_cons]
      by_cases hy : y.id = id
      · rw [if_pos (by rw [decide_eq_true_eq, hx, hy])]
        exact List.find?_cons_of_pos (by rw [decide_eq_true_eq, hx])
      · rw [if_neg (by rw [decide_eq_true_eq, hx]; exact hy), List.find?_cons_of_neg (by rw [decide_eq_true_eq]; exact hy)]
        rw [List.find?_cons_of_neg (by rw [decide_eq_true_eq]; exact hy)] at hl
        exact ih hl
  exact hfind s.groups h

theorem atCoordinator_ok {f : TapGroup → State → State} (h : s.groups.find? (fun x => decide (x.id = msgGroup r)) = some g) :
    atCoordinator r f s = okRep [] (f g s) := by
  unfold atCoordinator
  rw [h]

/-! ### READY, REFUSE and the report (R192, R196, R284) -/

theorem ready_counts (h : TapMsg 2 28 r s) (hg : s.groups.find? (fun x => decide (x.id = msgGroup r)) = some g) (hd : g.decision = 0) (hb : beforeD g r.t = true) :
    exec (.ready r) s = .next (answer r (ok []) (setGroup { g with
      parts := g.parts.map (fun p => if p.part.endpoint = msgSender r then { p with ready := true } else p) } (served s))) := by
  refine congrArg _ (serveTap_ok h ((atCoordinator_ok (s := served s) hg).trans ?_))
  rw [if_pos ⟨hd, hb⟩]
  simp only [updWhere, decide_eq_true_eq]

theorem ready_late (h : TapMsg 2 28 r s) (hg : s.groups.find? (fun x => decide (x.id = msgGroup r)) = some g) (hb : beforeD g r.t = false) :
    exec (.ready r) s = .next (answer r (ok []) (served s)) := by
  refine congrArg _ (serveTap_ok h ((atCoordinator_ok (s := served s) hg).trans ?_))
  rw [if_neg (fun c => ne_true_of_eq_false hb c.2)]

theorem refuse_notes (h : TapMsg 3 28 r s) (hg : s.groups.find? (fun x => decide (x.id = msgGroup r)) = some g) (hd : g.decision = 0) :
    exec (.refuse r) s = .next (answer r (ok []) (setGroup { g with refuse := some (msgSender r) } (served s))) := by
  refine congrArg _ (serveTap_ok h ((atCoordinator_ok (s := served s) hg).trans ?_))
  rw [if_pos hd]

theorem tapReport_answers (h : Served 0x409 r s) (hs : Shape r 4 []) (hg : s.groups.find? (fun x => decide (x.id = rd r.payload 0 4)) = some g) :
    exec (.tapReport r) s = .next (answer r (ok (beBytes 1 g.decision ++ [0] ++ beBytes 2 g.parts.length ++ beBytes 8 (groupSpan g) ++
      g.parts.flatMap (fun p => beBytes 4 p.part.endpoint ++ beBytes 8 (p.eff.getD (2 ^ 64 - 1)) ++ beBytes 1 p.cause ++ [0, 0, 0]))) (served s)) := by
  have hg' : (served s).groups.find? (fun x => decide (x.id = rd r.payload 0 4)) = some g := hg
  refine exec_okRep rfl h ?_
  unfold tapReport
  rw [shaped_ok hs, hg']
  rfl

/-! ### The close of a group (R196) -/

/-- A group as it stands once it has closed. -/
def closed (g : TapGroup) : TapGroup := { g with closed := true, parts := updWhere (fun p => !p.done) (fun p => { p with cause := 4 }) g.parts }

theorem closed_reports (g : TapGroup) : ∀ p ∈ (closed g).parts, p.done = true ∨ p.cause = 4 := by
  intro p hp
  obtain ⟨q, -, rfl⟩ := List.mem_map.mp hp
  by_cases hq : q.done = true
  · rw [if_neg (show ¬ (!q.done) = true by rw [hq]; decide)]
    exact Or.inl hq
  · rw [if_pos (show (!q.done) = true by rw [Bool.eq_false_iff.mpr hq]; rfl)]
    exact Or.inr rfl

theorem groups_endJob (h st fin d res : Nat) (s : State) : (endJob h st fin d res s).groups = s.groups := groups_tapView (tapView_endJob h st fin d res s)

/-- Closing leaves the groups as they are but for the one that closes. -/
theorem closeGroup_groups (hg : s.groups.find? (fun x => decide (x.id = id)) = some g) :
    (closeGroup id s).groups = (if g.closed ∨ g.decision = 0 then s else setGroup (closed g) s).groups := by
  unfold closeGroup
  rw [hg]
  dsimp only
  split
  · rfl
  · split
    · rw [groups_endJob, countFld_eq]
      rfl
    · split
      · rw [groups_endJob]
        rfl
      · rfl

theorem closeGroup_closes (hg : s.groups.find? (fun x => decide (x.id = id)) = some g) (hc : g.closed = false) (hd : g.decision ≠ 0) :
    closed g ∈ (closeGroup id s).groups := by
  rw [closeGroup_groups hg, if_neg (not_or.mpr ⟨ne_true_of_eq_false hc, hd⟩)]
  exact mem_setGroup (x := closed g) hg (group_id (g := g) hg)

/-- A close if every participant has reported keeps the group, closed or as it was. -/
theorem mem_closeIfDone (hg : s.groups.find? (fun x => decide (x.id = id)) = some g) : ∃ x ∈ (closeIfDone id s).groups, x = g ∨ x = closed g := by
  unfold closeIfDone
  rw [hg]
  dsimp only
  split
  · rw [closeGroup_groups hg]
    split
    · exact ⟨g, List.mem_of_find?_eq_some hg, Or.inl rfl⟩
    · exact ⟨closed g, mem_setGroup (x := closed g) hg (group_id (g := g) hg), Or.inr rfl⟩
  · exact ⟨g, List.mem_of_find?_eq_some hg, Or.inl rfl⟩

/-- The group with what a participant has reported. -/
def reported (ep : Nat) (eff : Option Nat) (cause : Nat) (g : TapGroup) : TapGroup :=
  { g with parts := updWhere (fun p => decide (p.part.endpoint = ep)) (fun p => { p with done := true, eff := eff, cause := cause }) g.parts }

theorem noteDone_eq {ep : Nat} {eff : Option Nat} {cause : Nat} (hg : s.groups.find? (fun x => decide (x.id = id)) = some g) :
    noteDone id ep eff cause s = setGroup (reported ep eff cause g) s := by
  unfold noteDone
  rw [hg]
  rfl

theorem reported_done {ep : Nat} {eff : Option Nat} {cause : Nat} : ∀ p ∈ (reported ep eff cause g).parts, p.part.endpoint = ep → p.done = true := by
  intro p hp he
  obtain ⟨q, -, rfl⟩ := List.mem_map.mp hp
  by_cases hq : q.part.endpoint = ep
  · rw [if_pos (decide_eq_true hq)]
  · rw [if_neg (by rw [decide_eq_true_eq]; exact hq)] at he
    exact absurd he hq

theorem closed_keeps {P : PartState → Prop} (hcause : ∀ p, P p → P { p with cause := 4 }) (h : ∀ p ∈ g.parts, P p) : ∀ p ∈ (closed g).parts, P p := by
  intro p hp
  obtain ⟨q, hq, rfl⟩ := List.mem_map.mp hp
  split
  · exact hcause q (h q hq)
  · exact h q hq

/-! ### The decision (R192) -/

theorem setBrew_shows (h : Nat) (b : Brew) (s : State) : (setBrew h b s).groups = s.groups ∧
    fld (setBrew h b s) Fld.TAP_STATUS_ABORT_STICKY = fld s Fld.TAP_STATUS_ABORT_STICKY := ⟨rfl, rfl⟩

/-- COMMIT: the own brew is prepared, nobody has refused, and every other participant is ready. -/
theorem tapDecision_commits {bg : BrewGroup} (hg : s.groups.find? (fun x => decide (x.id = g.id)) = some g) (hd : g.decision = 0) (hf : g.decide ≤ s.frame)
    (hst : (brewOf s g.brew).st = .prepared) (hbg : (brewOf s g.brew).grp = some bg) (hid : bg.group = g.id) (href : g.refuse = none)
    (hall : ∀ p ∈ g.parts, p.ready = true ∨ p.part.endpoint = ownEndpoint s) :
    let t := tapDecision g.id s
    (∃ x ∈ t.groups, x.id = g.id ∧ x.decision = 1) ∧ (brewOf t g.brew).st = .armed ∧ (brewOf t g.brew).gate = true := by
  have hready : g.parts.all (fun p => p.ready || decide (p.part.endpoint = ownEndpoint s) || readyQueued s g p.part.endpoint) = true := by
    refine List.all_eq_true.mpr fun p hp => ?_
    rcases hall p hp with h | h
    · rw [h]; rfl
    · rw [decide_eq_true h, Bool.or_true]; rfl
  have hcommit : (brewOf s g.brew).st = .prepared ∧ (brewOf s g.brew).grp.map BrewGroup.group = some g.id ∧
      g.parts.all (fun p => p.ready || decide (p.part.endpoint = ownEndpoint s) || readyQueued s g p.part.endpoint) = true ∧ g.refuse.isNone = true :=
    ⟨hst, by rw [hbg, ← hid]; rfl, hready, by rw [href]; rfl⟩
  obtain ⟨c, hc, hcg⟩ : ∃ c, c = takeCommit g.brew bg (setGroup { g with decision := 1 } s) ∧
      c.groups = (setGroup { g with decision := 1 } s).groups ∧ (brewOf c g.brew).st = .armed ∧ (brewOf c g.brew).gate = true := by
    refine ⟨_, rfl, ?_⟩
    rw [takeCommit_prepared (s := setGroup { g with decision := 1 } s) hst, brewOf_setBrew]
    exact ⟨(setBrew_shows ..).1.trans (groups_tapView (tapView_know g.brew bg 1 _)), rfl, rfl⟩
  have ht : tapView (tapDecision g.id s) = tapView c := by
    unfold tapDecision
    rw [hg]
    dsimp only
    rw [if_neg (not_or.mpr ⟨not_not_intro hd, Nat.not_lt.mpr hf⟩), if_pos hcommit, hbg, hc]
    exact tapView_forEach _ _ _ fun p s => tapView_sendTap ..
  obtain ⟨hgroups, hbrew⟩ := hcg
  intro t
  rw [groups_tapView ht, brewOf_tapView ht, hgroups]
  exact ⟨⟨{ g with decision := 1 }, mem_setGroup hg rfl, rfl, rfl⟩, hbrew⟩

theorem brewReopen_shows (h : Nat) (s : State) : (brewReopen h s).groups = s.groups ∧ fld (brewReopen h s) Fld.TAP_STATUS_ABORT_STICKY = fld s Fld.TAP_STATUS_ABORT_STICKY := by
  obtain ⟨b, hb, hx⟩ := tapView_brewReopen h s
  rw [hx]
  exact ⟨(setBrew_shows ..).1.trans (groups_tapView hb), (setBrew_shows ..).2.trans (abortSticky_tapView hb)⟩

theorem decideAbort_shows (g : TapGroup) (s : State) :
    (decideAbort g false s).groups = (setGroup { g with decision := 2 } s).groups ∧ fld (decideAbort g false s) Fld.TAP_STATUS_ABORT_STICKY = 1 := by
  obtain ⟨a, ha, hag, has⟩ : ∃ a, a = setBit Fld.TAP_STATUS_ABORT_STICKY 0 (setGroup { g with decision := 2 } s) ∧
      a.groups = (setGroup { g with decision := 2 } s).groups ∧ fld a Fld.TAP_STATUS_ABORT_STICKY = 1 :=
    ⟨_, rfl, rfl, fld_setFld _ Fld.TAP_STATUS_ABORT_STICKY _ _ (by decide) (by decide) (by decide)⟩
  have hmine : ∀ mine : Bool, (if mine then brewReopen g.brew a else a).groups = a.groups ∧
      fld (if mine then brewReopen g.brew a else a) Fld.TAP_STATUS_ABORT_STICKY = fld a Fld.TAP_STATUS_ABORT_STICKY := by
    intro mine
    cases mine
    · exact ⟨rfl, rfl⟩
    · exact brewReopen_shows g.brew a
  have hset : ∀ (mine : Bool) (b : State), (if mine then setBrew g.brew { brewOf b g.brew with outcome := 2 } b else b).groups = b.groups ∧
      fld (if mine then setBrew g.brew { brewOf b g.brew with outcome := 2 } b else b) Fld.TAP_STATUS_ABORT_STICKY = fld b Fld.TAP_STATUS_ABORT_STICKY := by
    intro mine b
    cases mine <;> exact ⟨rfl, rfl⟩
  unfold decideAbort
  dsimp only
  rw [← ha, if_neg Bool.false_ne_true]
  rw [groups_tapView (tapView_forEach _ _ _ fun p s => tapView_sendTap ..), abortSticky_tapView (tapView_forEach _ _ _ fun p s => tapView_sendTap ..)]
  rw [(hset _ _).1, (hset _ _).2, groups_endJob, abortSticky_tapView (tapView_endJob ..), (hmine _).1, (hmine _).2]
  exact ⟨hag, has⟩

/-- An aborted group closes without a split. -/
theorem closeIfDone_aborted (hg : s.groups.find? (fun x => decide (x.id = id)) = some g) (hd : g.decision = 2) :
    fld (closeIfDone id s) Fld.TAP_STATUS_ABORT_STICKY = fld s Fld.TAP_STATUS_ABORT_STICKY := by
  have hsplit : groupSplit (closed g) = false := by
    have h2 : (closed g).decision = 2 := hd
    rw [groupSplit, h2]
    rfl
  unfold closeIfDone
  rw [hg]
  dsimp only
  split
  · unfold closeGroup
    rw [hg]
    dsimp only
    split
    · rfl
    · rw [show groupSplit { g with closed := true, parts := updWhere (fun p => !p.done) (fun p => { p with cause := 4 }) g.parts } = false from hsplit,
        if_neg Bool.false_ne_true, if_neg (by rw [hd]; decide)]
      rfl
  · rfl

/-- ABORT: the own brew is not prepared, somebody has refused, or a participant is not ready. -/
theorem tapDecision_aborts (hg : s.groups.find? (fun x => decide (x.id = g.id)) = some g) (hd : g.decision = 0) (hf : g.decide ≤ s.frame)
    (hwhy : g.refuse.isSome = true ∨ (brewOf s g.brew).st ≠ .prepared ∨
      ∃ p ∈ g.parts, p.ready = false ∧ p.part.endpoint ≠ ownEndpoint s ∧ readyQueued s g p.part.endpoint = false) :
    let t := tapDecision g.id s
    (∃ x ∈ t.groups, x.id = g.id ∧ x.decision = 2) ∧ fld t Fld.TAP_STATUS_ABORT_STICKY = 1 := by
  have hnot : ¬ ((brewOf s g.brew).st = .prepared ∧ (brewOf s g.brew).grp.map BrewGroup.group = some g.id ∧
      g.parts.all (fun p => p.ready || decide (p.part.endpoint = ownEndpoint s) || readyQueued s g p.part.endpoint) = true ∧ g.refuse.isNone = true) := by
    rintro ⟨hst, -, hall, href⟩
    rcases hwhy with h | h | ⟨p, hp, hready, hother, hqueued⟩
    · rw [Option.isNone_iff_eq_none.mp href] at h
      exact Bool.false_ne_true h
    · exact h hst
    · have := List.all_eq_true.mp hall p hp
      rw [hready, hqueued, decide_eq_false hother] at this
      exact Bool.false_ne_true this
  obtain ⟨g', hid, hx⟩ : ∃ g' : TapGroup, g'.id = g.id ∧
      tapDecision g.id s = closeIfDone g.id (noteDone g.id (ownEndpoint s) none 0 (decideAbort g' false s)) := by
    refine ⟨{ g with parts := updWhere (fun p => decide (p.part.endpoint = ownEndpoint s)) (fun p => { p with ready := decide ((brewOf s g.brew).st = .prepared) }) g.parts },
      rfl, ?_⟩
    unfold tapDecision
    rw [hg]
    dsimp only
    rw [if_neg (not_or.mpr ⟨not_not_intro hd, Nat.not_lt.mpr hf⟩), if_neg hnot]
  obtain ⟨hgroups, hsticky⟩ := decideAbort_shows g' s
  have hfound : (decideAbort g' false s).groups.find? (fun x => decide (x.id = g.id)) = some { g' with decision := 2 } := by
    rw [hgroups]
    exact find_setGroup hg hid
  obtain ⟨c, hc, hcfound, hcsticky⟩ : ∃ c, c = noteDone g.id (ownEndpoint s) none 0 (decideAbort g' false s) ∧
      c.groups.find? (fun x => decide (x.id = g.id)) = some (reported (ownEndpoint s) none 0 { g' with decision := 2 }) ∧
      fld c Fld.TAP_STATUS_ABORT_STICKY = 1 := by
    refine ⟨_, rfl, ?_⟩
    rw [noteDone_eq hfound]
    exact ⟨find_setGroup hfound hid, hsticky⟩
  intro t
  have ht : t = closeIfDone g.id c := by rw [hc]; exact hx
  rw [ht, closeIfDone_aborted hcfound rfl]
  obtain ⟨x, hmem, hshape⟩ := mem_closeIfDone hcfound
  refine ⟨⟨x, hmem, ?_⟩, hcsticky⟩
  rcases hshape with rfl | rfl
  · exact ⟨hid, rfl⟩
  · exact ⟨hid, rfl⟩

/-! ### DONE (R196) -/

theorem tapDone_marks (h : TapMsg 8 28 r s) (hg : s.groups.find? (fun x => decide (x.id = msgGroup r)) = some g) (hc : g.closed = false) :
    EndsIn (.tapDone r) s (fun t => ∃ x ∈ t.groups, x.id = g.id ∧ ∀ p ∈ x.parts, p.part.endpoint = msgSender r → p.done = true) := by
  have hid := group_id hg
  obtain ⟨eff, hx⟩ : ∃ eff, doneMsg r (served s) = okRep [] (closeIfDone g.id (noteDone g.id (msgSender r) eff (msgCause r) (served s))) := by
    refine ⟨if msgEff r = noFrame then none else some (msgEff r), (atCoordinator_ok (s := served s) hg).trans ?_⟩
    rw [if_neg (ne_true_of_eq_false hc)]
  have hg' : (served s).groups.find? (fun x => decide (x.id = g.id)) = some g := by rw [hid]; exact hg
  have hnoted : (noteDone g.id (msgSender r) eff (msgCause r) (served s)).groups.find? (fun x => decide (x.id = g.id)) =
      some (reported (msgSender r) eff (msgCause r) g) := by
    rw [noteDone_eq hg']
    exact find_setGroup hg' rfl
  refine endsIn_answer (congrArg _ (serveTap_ok h hx)) fun y hy => ?_
  rw [groups_tapView hy]
  obtain ⟨x, hmem, hshape⟩ := mem_closeIfDone hnoted
  refine ⟨x, hmem, ?_⟩
  rcases hshape with rfl | rfl
  · exact ⟨rfl, reported_done⟩
  · exact ⟨rfl, closed_keeps (P := fun p => p.part.endpoint = msgSender r → p.done = true) (fun p hp => hp) reported_done⟩

end

/-- Settles O42. -/
theorem tapCoordinator : Obligations.TapCoordinator := by
  unfold Obligations.TapCoordinator
  intro r s g
  exact ⟨ready_counts, ready_late, refuse_notes, fun bg hg hd hf hst hbg hid href hall => ⟨_, rfl, tapDecision_commits hg hd hf hst hbg hid href hall⟩,
    fun hg hd hf hwhy => ⟨_, rfl, tapDecision_aborts hg hd hf hwhy⟩, tapDone_marks,
    fun hg hc hd => ⟨_, rfl, closed g, closeGroup_closes hg hc hd, rfl, rfl, closed_reports g⟩, tapReport_answers⟩

end Sys2Proof.Machine

/-!
# Packets on SPI, PCIe, Ethernet and UDP
-/

namespace Sys2Proof.Machine

section
variable {s : State} (hg : groomServes s = true)
include hg

/-! ### SPI (R267, R268) -/

theorem spiWritePacket_room (bytes : List Byte) (hw : spiWaiting s < 2) :
    spiWritePacket bytes s = { s with rxq := s.rxq ++ [⟨.spi, ⟨0, none, 0⟩, bytes⟩] } :=
  (if_neg (not_not_intro hg)).trans (if_neg (Nat.not_le.mpr hw))

theorem spiWritePacket_full (bytes : List Byte) (hw : 2 ≤ spiWaiting s) :
    EndsIn (.spiWritePacket bytes) s (fun t => t.rxq = s.rxq ∧ t.spiFlags = s.spiFlags ||| 2 ∧
      fld t Fld.CMD_STATUS_RX_DROP_STICKY = 1 ∧ Untouched (regsOf [(Fld.CMD_STATUS_RX_DROP_STICKY, 0), (Fld.CMD_RX_DROP_COUNT_COUNT, 0)]) s t) := by
  refine endsIn_of rfl ((if_neg (not_not_intro hg)).trans (if_pos hw)) ⟨rfl, rfl, ?_, ?_⟩
  · exact fld_setFld _ Fld.CMD_STATUS_RX_DROP_STICKY _ _ (by decide) (by decide) (by decide)
  · exact ((untouched_of rfl rfl).countFld (by decide)).setFld (by decide) 1

theorem spiReadPacket_head {n : Nat} {p : TxPacket} (hp : s.txq.find? (fun p => decide (p.source = .spi)) = some p) :
    spiReadPacket n s = { s with
      sent := .spi (p.bytes.take n ++ List.replicate (n - p.bytes.length) 0) :: s.sent, txq := if p.bytes.length ≤ n then s.txq.erase p else s.txq } := by
  unfold spiReadPacket spiHead
  rw [if_neg (not_not_intro hg), hp]
  dsimp only
  split <;> rfl

theorem spiReadPacket_empty {n : Nat} (hp : s.txq.find? (fun p => decide (p.source = .spi)) = none) :
    spiReadPacket n s = { s with sent := .spi (List.replicate n 0) :: s.sent } := by
  unfold spiReadPacket spiHead
  rw [if_neg (not_not_intro hg), hp]
  rfl

theorem spiReadStatus_returns {p : TxPacket} (hp : s.txq.find? (fun p => decide (p.source = .spi)) = some p) (hw : spiWaiting s < 2) (hf : s.spiFlags = 5) :
    exec .spiReadStatus s = .next { s with spiFlags := 0, sent := .spi ([0x17, 0] ++ beBytes 2 p.bytes.length) :: s.sent } := by
  have hbytes : spiStatusBytes s = [0x17, 0] ++ beBytes 2 p.bytes.length := by
    have hhead : spiHead s = some p := hp
    have hflags : beBytes 1 (bnat true + 2 * bnat (some p).isSome + 4 * bnat (testBit 5 0) + 8 * bnat (testBit 5 1) + 16 * bnat (testBit 5 2)) = [0x17] := by
      show beBytes 1 0x17 = _
      decide
    unfold spiStatusBytes spiIrqLow
    dsimp only
    rw [hhead, hf, decide_eq_true hw, hflags]
    rfl
  refine congrArg Host.Outcome.next ((if_neg (not_not_intro hg)).trans ?_)
  rw [hbytes]
  rfl

/-! ### PCIe queue pairs (R270) -/

section
variable {q : Fin 8} {n : Nat} (bytes : List Byte) (hen : fbit s Fld.QP_CTRL_EN q.val = true)
  (hhead : fld s Fld.RQ_HEAD_HEAD q.val ≠ fld s Fld.RQ_TAIL_TAIL q.val) (hroom : ringRoom s q.val = true)
include hen hhead hroom

theorem requestFetch_fetches : requestFetch q.val n 0 bytes s =
    (if 0 ≠ 0 ∨ 65580 < n then countFld Fld.CMD_CHECK_COUNT_FORMAT 0 (setBit Fld.QP_STATUS_RING_ERR q.val
        (setFld Fld.RQ_HEAD_HEAD q.val ((fld s Fld.RQ_HEAD_HEAD q.val + 1) % fld s Fld.RQ_SIZE_SIZE q.val) s))
      else rxPut ⟨.pcie q.val, ⟨0, none, 0⟩, bytes.take n⟩
        (setFld Fld.RQ_HEAD_HEAD q.val ((fld s Fld.RQ_HEAD_HEAD q.val + 1) % fld s Fld.RQ_SIZE_SIZE q.val) s)) := by
  refine if_neg ?_
  rintro (h | h | h | h)
  · exact h hg
  · exact h hen
  · exact hhead h
  · exact h hroom

theorem requestFetch_long (hn : 65580 < n) :
    EndsIn (.pcieRequestFetch q n 0 bytes) s (fun t => t.rxq = s.rxq ∧ fld t Fld.QP_STATUS_RING_ERR q.val = 1) := by
  refine endsIn_of rfl ((requestFetch_fetches hg bytes hen hhead hroom).trans (if_pos (Or.inr hn))) ⟨?_, ?_⟩
  · rw [countFld_eq, setFld_rxq, setBit_eq, setFld_rxq, setFld_rxq]
  rw [countFld_eq, fld_setFld_alone (by decide)]
  exact fld_setFld _ Fld.QP_STATUS_RING_ERR _ _ (by decide) (by decide) (by decide)

end

/-! ### Ethernet and UDP (R271, R272) -/

omit hg in
theorem netPut_room {p : RxPacket} (h : netWaiting s < 16) : netPut p s = { s with rxq := s.rxq ++ [p] } := if_neg (Nat.not_le.mpr h)

section
variable {lane mac : Nat} {vlan : Option Nat} {p : List Byte} (hen : fbit s Fld.NET_CTRL_HOE_EN = true) (hlen : 46 < p.length) (hver : rd p 0 1 = 1)
  (hkind : rd p 1 1 = 1)
include hen hlen hver hkind

theorem hoeFrameRx_command (unicast : Bool) : hoeFrameRx lane mac unicast vlan p s =
    (if ¬ unicast ∨ (rd p 4 4 ≠ 0xFFFFFFFF ∧ rd p 4 4 ≠ fld s Fld.ENDPOINT_ID_ID) then rxDrop s
     else netPut ⟨.eth mac, ⟨lane, vlan, rd p 8 4⟩, unpad p⟩ s) := by
  have hformed : ¬ (p.length < 12 ∨ rd p 0 1 ≠ 1 ∨ rd p 1 1 ≠ 1) := by omega
  exact (if_neg (not_or.mpr ⟨not_not_intro hg, not_not_intro hen⟩)).trans (if_neg hformed)

theorem hoeFrameRx_passes (hdst : rd p 4 4 = fld s Fld.ENDPOINT_ID_ID ∨ rd p 4 4 = 0xFFFFFFFF) (hw : netWaiting s < 16) :
    hoeFrameRx lane mac true vlan p s = { s with rxq := s.rxq ++ [⟨.eth mac, ⟨lane, vlan, rd p 8 4⟩, p.drop 12⟩] } := by
  have hmine : ¬ (¬ true = true ∨ (rd p 4 4 ≠ 0xFFFFFFFF ∧ rd p 4 4 ≠ fld s Fld.ENDPOINT_ID_ID)) := by
    rintro (h | ⟨hall, hown⟩)
    · exact h rfl
    · exact hdst.elim hown hall
  have hpad : unpad p = p.drop 12 := if_neg (fun c => Nat.not_le.mpr hlen c.1)
  rw [hoeFrameRx_command hg hen hlen hver hkind, if_neg hmine, hpad, netPut_room hw]

theorem hoeFrameRx_drops : hoeFrameRx lane mac false vlan p s = countFld Fld.CMD_RX_DROP_COUNT_COUNT 0 s :=
  (hoeFrameRx_command hg hen hlen hver hkind false).trans (if_pos (Or.inl Bool.false_ne_true))

end

omit hg in
theorem rd_drop (d : List Byte) (k o n : Nat) : rd (d.drop k) o n = rd d (k + o) n := by rw [rd, List.drop_drop, rd]

theorem udpRx_passes {lane : Nat} {d : List Byte} (hen : fbit s Fld.NET_CTRL_UDP_EN = true) (hlane : lane = fld s Fld.NET_CTRL_IP_PORT) (hlen : 28 ≤ d.length)
    (hver : rd d 0 1 = 0x45) (hproto : rd d 9 1 = 17) (hfrag : rd d 6 2 % 0x4000 = 0) (hip : rd d 16 4 = fld s Fld.NET_IP_ADDR_ADDR) (htotal : rd d 2 2 = d.length)
    (hport : rd d 22 2 = 50024) (hudp : rd d 24 2 = d.length - 20) (hsum : rd d 26 2 = 0) (hw : netWaiting s < 16) :
    udpRx lane d s = { s with rxq := s.rxq ++ [⟨.udp (rd d 12 4) (rd d 20 2), ⟨lane, none, 0⟩, d.drop 28⟩] } := by
  have hserved : ¬ (¬ groomServes s = true ∨ ¬ fbit s Fld.NET_CTRL_UDP_EN = true ∨ lane ≠ fld s Fld.NET_CTRL_IP_PORT) := by
    rintro (h | h | h)
    · exact h hg
    · exact h hen
    · exact h hlane
  have hformed : ¬ (d.length < 28 ∨ rd d 0 1 ≠ 0x45 ∨ rd d 9 1 ≠ 17 ∨ rd d 6 2 % 0x4000 ≠ 0 ∨ rd d 16 4 ≠ fld s Fld.NET_IP_ADDR_ADDR) := by
    rintro (h | h | h | h | h)
    · exact Nat.not_lt.mpr hlen h
    · exact h hver
    · exact h hproto
    · exact h hfrag
    · exact h hip
  have hcut : (d.take (rd d 2 2)).drop 20 = d.drop 20 := by rw [htotal, List.take_length]
  have hsound : ¬ ((d.drop 20).length ≠ rd d 24 2 ∨ ¬ udpSumOk d (d.drop 20) = true) := by
    rw [List.length_drop, hudp]
    refine not_or.mpr ⟨not_not_intro rfl, not_not_intro ?_⟩
    rw [udpSumOk, rd_drop, hsum]
    rfl
  unfold udpRx
  dsimp only
  rw [if_neg hserved, if_neg hformed, hcut, rd_drop, rd_drop, rd_drop, List.drop_drop, if_neg (not_not_intro hport), if_neg hsound, netPut_room hw]

theorem ipLane_serves {lane : Nat} (hen : fbit s Fld.NET_CTRL_UDP_EN = true) (hlane : lane = fld s Fld.NET_CTRL_IP_PORT) : ipLane s lane = true := by
  rw [ipLane, hg, hen, decide_eq_true hlane]
  rfl

end

/-! ### The engine as a sender (R262, R263) -/

section
variable {s : State} {ep : Nat}

theorem cmdResend_again {n : Nat} {x : OwnReq} (hx : s.ownReqs.find? (fun x => decide (x.endpoint = ep ∧ x.seq = n)) = some x)
    (hr : x.resends < fld s Fld.CMD_CTRL_CMD_RETRIES) : cmdResend ep n s = { s with
      ownReqs := s.ownReqs.map (fun y => if y.endpoint = ep ∧ y.seq = n then { y with resends := y.resends + 1 } else y),
      txq := s.txq ++ [⟨.trace ep, ⟨0, none, 0⟩, 0, false, x.bytes⟩] } := by
  unfold cmdResend ownReq
  rw [hx]
  dsimp only
  rw [if_pos hr]
  simp only [updWhere, decide_eq_true_eq]
  rfl

variable {bs : List Byte} (hr : s.replies.find? (fun x => decide (x.1 = ep)) = some (ep, bs)) (hext : extentOk ⟨.trace ep, ⟨0, none, 0⟩, bs⟩ = true)
include hr hext

theorem commandReplyRx_bad (hcheck : checkOk ⟨.trace ep, ⟨0, none, 0⟩, bs⟩ = false) :
    commandReplyRx ep s = crcFail (.trace ep) { s with replies := s.replies.erase (ep, bs) } := by
  unfold commandReplyRx
  rw [hr]
  exact (if_neg (not_not_intro hext)).trans (if_pos (ne_true_of_eq_false hcheck))

theorem commandReplyRx_ends {x : OwnReq} (hcheck : checkOk ⟨.trace ep, ⟨0, none, 0⟩, bs⟩ = true) (hver : rd bs 0 1 = 1) (htag : testBit (rd bs 1 1) 1 = false)
    (hx : s.ownReqs.find? (fun x => decide (x.endpoint = ep ∧ x.seq = (answerOf ep bs).seq)) = some x) (hop : x.opcode = (answerOf ep bs).opcode) (h2 : x.opcode ≠ 2)
    (hst : (answerOf ep bs).status ≠ 0x12) : commandReplyRx ep s = { s with
      replies := s.replies.erase (ep, bs)
      ownReqs := s.ownReqs.filter (fun y => decide (¬ (y.endpoint = ep ∧ y.seq = (answerOf ep bs).seq))) } := by
  have htake : takeAnswer (answerOf ep bs) { s with replies := s.replies.erase (ep, bs) } =
      dropOwn ep (answerOf ep bs).seq { s with replies := s.replies.erase (ep, bs) } := by
    have hown : ownReq { s with replies := s.replies.erase (ep, bs) } (answerOf ep bs).endpoint (answerOf ep bs).seq = some x := hx
    unfold takeAnswer
    rw [hown]
    exact (if_neg (not_not_intro hop)).trans ((if_neg h2).trans (if_neg hst))
  unfold commandReplyRx
  rw [hr]
  refine (if_neg (not_not_intro hext)).trans ((if_neg (not_not_intro hcheck)).trans ((if_neg ?_).trans htake))
  exact not_or.mpr ⟨not_not_intro hver, ne_true_of_eq_false htag⟩

end

theorem qpCtrlWrite_shows (q : Fin 8) (v : Nat) (s : State) :
    let t := qpCtrlWrite q.val v s
    fld t Fld.QP_CTRL_EN q.val = v % 2 ∧ fld t Fld.QP_CTRL_MASK q.val = v / 2 % 2 ∧ Untouched (regsOf [(Fld.QP_CTRL_EN, q.val)]) s t ∧ t.rxq = s.rxq := by
  have h2 : ∀ n, n % 2 < 2 ^ 1 := fun n => Nat.mod_lt n (by decide)
  refine ⟨fld_setFld _ Fld.QP_CTRL_EN _ _ (by decide) (h2 v) (by decide), ?_, ?_, rfl⟩
  · refine (fld_setFld_apart Fld.QP_CTRL_EN Fld.QP_CTRL_MASK _ _ _ rfl (by decide) (by decide) (by decide)).trans ?_
    exact fld_setFld s Fld.QP_CTRL_MASK _ _ (by decide) (h2 (v / 2)) (by decide)
  · exact ((untouched_refl _ s).setFld (f := Fld.QP_CTRL_MASK) List.mem_cons_self _).setFld (f := Fld.QP_CTRL_EN) List.mem_cons_self _

/-- Settles O43. -/
theorem transports : Obligations.Transports := by
  unfold Obligations.Transports
  intro s hg
  exact ⟨fun bytes hw => congrArg _ (spiWritePacket_room hg bytes hw), fun bytes hw => spiWritePacket_full hg bytes hw,
    fun n p hp => congrArg _ (spiReadPacket_head hg hp), fun n hp => congrArg _ (spiReadPacket_empty hg hp), fun p hp hw hf => spiReadStatus_returns hg hp hw hf,
    fun q v => rfl, fun q v => ⟨_, rfl, qpCtrlWrite_shows q v.toNat s⟩,
    fun q n bytes hen hhead hroom => ⟨fun hn => congrArg _ ((requestFetch_fetches hg bytes hen hhead hroom).trans
      (if_neg (not_or.mpr ⟨not_not_intro rfl, Nat.not_lt.mpr hn⟩))), requestFetch_long hg bytes hen hhead hroom⟩,
    fun lane mac vlan p hen hlen hver hkind hdst hw => congrArg _ (hoeFrameRx_passes hg hen hlen hver hkind hdst hw),
    fun lane mac vlan p hen hlen hver hkind => congrArg _ (hoeFrameRx_drops hg hen hlen hver hkind),
    fun lane d hen hlane hlen hver hproto hfrag hip htotal hport hudp hsum hw =>
      congrArg _ (udpRx_passes hg hen hlane hlen hver hproto hfrag hip htotal hport hudp hsum hw),
    fun lane hen hlane => ⟨fun ip target mac ht => congrArg _ (if_pos ⟨ipLane_serves hg hen hlane, ht⟩),
      fun hga => congrArg _ (if_pos ⟨ipLane_serves hg hen hlane, hga⟩), fun hga => congrArg _ (if_neg (fun c => ne_true_of_eq_false hga c.2))⟩,
    fun ip => rfl, fun ep n x hx hr => congrArg _ (cmdResend_again hx hr),
    fun ep bs hr => ⟨fun hext hcheck => congrArg _ (commandReplyRx_bad hr hext hcheck),
      fun x hext hcheck hver htag hx hop h2 hst => congrArg _ (commandReplyRx_ends hr hext hcheck hver htag hx hop h2 hst)⟩⟩

end Sys2Proof.Machine

/-!
# Commands of lanes and traces, Ethernet frames and audits
-/

namespace Sys2Proof.Machine

/-! ### What a new choice of the reference leaves of lanes and traces -/

/-- The state as lanes and a trace that is not in UP show it: the registers from the lanes' rows on, and the trace's record. -/
def linksView (t : Nat) (s : State) : (Nat → Word32) × Option TraceSt :=
  (fun a => if 0x20000 ≤ a then regWord s a else 0, if traceUp s t then none else some (traceOf s t))

theorem fld_linksView {t : Nat} {a b : State} (h : linksView t a = linksView t b) {g : RegField} {j : Nat} (hg : 0x20000 ≤ g.base) : fld a g j = fld b g j := by
  have h' := congrFun (congrArg Prod.fst h) (fieldAddr g j)
  have hj : 0x20000 ≤ fieldAddr g j := Nat.le_trans hg (Nat.le_add_right ..)
  simp only [linksView, if_pos hj] at h'
  rw [fld, fld, h']

theorem trace_linksView {t : Nat} {a b : State} (h : linksView t a = linksView t b) (hb : traceUp b t = false) : traceOf a t = traceOf b t := by
  have ha : traceUp a t = false := by rw [← hb, traceUp, traceUp, traceState, traceState, fld_linksView h (by decide)]
  have h' := congrArg Prod.snd h
  simp only [linksView, ha, hb] at h'
  exact Option.some.inj h'

section View
variable {t : Nat} {s : State}

theorem linksView_setFld {f : RegField} {i n : Nat} (hi : i ≤ n) (h : fieldAddr f n < 0x20000) (v : Nat) : linksView t (setFld f i v s) = linksView t s := by
  have hf := Nat.lt_of_le_of_lt (fieldAddr_mono f hi) h
  have hup : traceUp (setFld f i v s) t = traceUp s t := by
    rw [traceUp, traceUp, traceState, traceState, fld_setFld_below hi (Nat.lt_trans h (by decide))]
  refine Prod.ext (funext fun a => ?_) ?_
  · simp only [linksView]
    split
    · exact regWord_setFld_ne _ _ _ _ _ (by omega)
    · rfl
  · simp only [linksView, hup, traceOf_setFld]

theorem linksView_setOne {f : RegField} (h : fieldAddr f 0 < 0x20000) (v : Nat) : linksView t (setFld f 0 v s) = linksView t s := linksView_setFld (Nat.le_refl 0) h v
theorem linksView_setBit {f : RegField} (h : fieldAddr f 0 < 0x20000) : linksView t (setBit f 0 s) = linksView t s := linksView_setOne h 1
theorem linksView_countFld {f : RegField} (h : fieldAddr f 0 < 0x20000) : linksView t (countFld f 0 s) = linksView t s := by
  rw [countFld_eq, linksView_setOne h]

theorem linksView_of {a b : State} (hr : a.regs = b.regs) (ht : a.traces = b.traces) : linksView t a = linksView t b := by
  have hfld : ∀ g j, fld a g j = fld b g j := fun g j => fld_congr hr g j
  rw [linksView, linksView, traceUp, traceUp, traceState, traceState, hfld, traceOf_congr ht]
  exact congrArg (Prod.mk · _) (funext fun x => by rw [regWord, regWord, hr])

theorem linksView_raise (code a b : Nat) : linksView t (raise code a b s) = linksView t s := linksView_of rfl rfl

/-- A packet for a trace in UP is no change of one that is not. -/
theorem linksView_linkPut {u : Nat} (hu : traceUp s u = true) (p : LinkPkt) : linksView t (linkPut u p s) = linksView t s := by
  refine Prod.ext rfl ?_
  show (if traceUp s t then none else some (traceOf (linkPut u p s) t)) = (if traceUp s t then none else some (traceOf s t))
  by_cases h : traceUp s t = true
  · rw [if_pos h, if_pos h]
  · have htu : t ≠ u := fun e => h (e ▸ hu)
    rw [if_neg h, if_neg h, linkPut, traceOf_setTrace_ne _ _ _ _ htu]

theorem linksView_records (kind : Nat) (body : List Byte) {l : List Nat} (hl : ∀ u ∈ l, traceUp s u = true) :
    linksView t (forEach l (fun u s => sendRecordOn u kind body s) s) = linksView t s := by
  induction l generalizing s with
  | nil => rfl
  | cons u l ih =>
    refine (ih (s := sendRecordOn u kind body s) fun v hv => hl v (List.mem_cons_of_mem _ hv)).trans ?_
    exact linksView_linkPut (hl u (List.mem_cons_self ..)) _

theorem up_of_mem_announceTraces {u : Nat} (h : u ∈ announceTraces s) : traceUp s u = true :=
  (Bool.and_eq_true_iff.mp (List.mem_filter.mp h).2).1

theorem linksView_announce : linksView t (announce s) = linksView t s := by
  unfold announce
  dsimp only
  rw [linksView_records _ _ (s := { s with annCount := (s.annCount + 1) % 2 ^ 32 }) fun u hu => up_of_mem_announceTraces (s := s) hu]
  exact linksView_of rfl rfl

theorem linksView_ite {c : Prop} [Decidable c] {a b : State} (ha : linksView t a = linksView t s) (hb : linksView t b = linksView t s) :
    linksView t (if c then a else b) = linksView t s := by
  split
  · exact ha
  · exact hb

theorem linksView_setTeamLock (on : Bool) : linksView t (setTeamLock on s) = linksView t s := by
  unfold setTeamLock
  refine linksView_ite rfl ?_
  dsimp only
  rw [linksView_announce, linksView_raise]
  have hlock : linksView t (if on then setFld Fld.TEAM_STATUS_REG_LOCKED 0 (bnat on) s
      else countFld Fld.TEAM_PARENT_LOCK_LOSSES 0 (setFld Fld.TEAM_STATUS_REG_LOCKED 0 (bnat on) s)) = linksView t s := by
    refine linksView_ite (linksView_setOne (by decide) _) ?_
    rw [linksView_countFld (by decide), linksView_setOne (by decide)]
  refine linksView_ite hlock ?_
  rw [linksView_setOne (by decide), hlock]

theorem linksView_herdUpdate : linksView t (herdUpdate s) = linksView t s := linksView_ite rfl (linksView_setOne (by decide) _)

theorem linksView_lockFollow : linksView t (lockFollow s) = linksView t s := by
  rw [lockFollow, linksView_herdUpdate]
  exact linksView_ite (linksView_setTeamLock _) rfl

theorem linksView_forEach {α : Type} {l : List α} {f : α → State → State} (hf : ∀ a ∈ l, ∀ s, linksView t (f a s) = linksView t s) :
    linksView t (forEach l f s) = linksView t s := forEach_keeps_mem (linksView t) l f hf s

theorem linksView_showActive (a : Nat) : linksView t (showActive a s) = linksView t s := by
  rw [showActive, linksView_forEach fun n hn s => linksView_setFld (Nat.le_of_lt (List.mem_range.mp hn)) (by decide) _]
  exact linksView_setOne (by decide) _

theorem linksView_enterHoldover (old : Nat) : linksView t (enterHoldover old s) = linksView t s := by
  rw [enterHoldover, linksView_lockFollow, linksView_raise, linksView_setBit (by decide), linksView_setOne (by decide), linksView_setOne (by decide),
    linksView_setOne (by decide), linksView_showActive]

theorem linksView_switchRef (old n : Nat) : linksView t (switchRef old n s) = linksView t s := by
  have hfree : ∀ a : State, linksView t (if n = 9 then { a with fromFree := true } else a) = linksView t a := fun a => linksView_ite (linksView_of rfl rfl) rfl
  have hheld : ∀ (b : Bool) (a : State), linksView t (if b then raise 0x81 0 n a else a) = linksView t a := fun b a => linksView_ite (linksView_raise ..) rfl
  have hmap : ∀ a : State, linksView t (if (old = 4 ∧ n = 5) ∨ (old = 5 ∧ n = 4) then raise 0x83 (n - 4) (old - 4) { a with remap := true } else a) = linksView t a :=
    fun a => linksView_ite ((linksView_raise ..).trans (linksView_of rfl rfl)) rfl
  unfold switchRef
  dsimp only
  rw [linksView_lockFollow, hmap, linksView_raise, hheld, linksView_setOne (by decide), hfree, linksView_showActive, linksView_setOne (by decide),
    linksView_setBit (by decide)]

theorem linksView_refCheck : linksView t (refCheck s) = linksView t s := by
  refine linksView_forEach fun n hn s => linksView_ite ?_ rfl
  have hn : n ≤ 9 := by revert n; decide
  rw [refDrop, linksView_setFld hn (by decide), clrBit, linksView_setFld hn (by decide), clrBit, linksView_setFld hn (by decide)]

theorem linksView_selectRef : linksView t (selectRef s) = linksView t s := by
  have hshown : linksView t (forEach (List.range 10) (fun n s => setFld Fld.CLK_CAND_STATUS_CLASS n (if refValid s n then refClass s n else 255) s) (refCheck s))
      = linksView t s := by
    rw [linksView_forEach fun n hn s => linksView_setFld (Nat.le_of_lt (List.mem_range.mp hn)) (by decide) _, linksView_refCheck]
  unfold selectRef
  dsimp only
  split
  · exact linksView_ite hshown ((linksView_switchRef ..).trans hshown)
  · exact linksView_ite hshown ((linksView_enterHoldover ..).trans hshown)

end View

/-! ### TRACE_DOWN -/

section Stop
variable {t : Nat} (ht : t < 64) (s : State)

/-- A single register below the lanes keeps its fields as a trace fails. -/
theorem failing_below {g : RegField} (h : fieldAddr g 0 < 0x1000) (cause next : Nat) : fld (failing t cause next s) g 0 = fld s g 0 := by
  have hunder : ∀ {f : RegField}, 0x1000 ≤ f.base → ∀ (i v : Nat) (a : State), fld (setFld f i v a) g 0 = fld a g 0 :=
    fun hf i v a => fld_setFld_under (Nat.lt_of_lt_of_le h hf) i v a
  unfold failing epochBegun showLanes setTraceState
  simp (disch := decide) only [hunder, fld_traceSet]
  rw [laneAgain, forEach_keeps (fld · g 0) _ (fun l s => clrBit Fld.LANE_STATUS_EXCLUDED l s) (fun l a => hunder (by decide) l 0 a), failNoted]
  simp (disch := decide) only [setBit_eq, countFld_eq, hunder, fld_raised]

theorem failing_pair (cause next : Nat) : (failing t cause next s).pair = s.pair := by
  have hlanes : ∀ a : State, (laneAgain t a).pair = a.pair := fun a =>
    forEach_inv (P := fun y : State => y.pair = a.pair) (fun _ _ h => h) rfl
  unfold failing epochBegun setTraceState showLanes
  rw [setFld_pair, setFld_pair, setFld_pair, setTrace_pair, hlanes, failNoted, setBit, setFld_pair, setBit, setFld_pair, raise_pair, countFld, addFld, setFld_pair,
    setFld_pair]

/-- A failed trace that is no mirror trace, outside teams and with no pairing under way, concerns nobody else. -/
theorem traceLost_alone {a : State} (hteam : inTeam a = false) (hm : mirrorTrace a ≠ some t) (hw : a.pair.wait = none) : traceLost t a = a := by
  have hteam' : teamUpdate a = a := if_neg (ne_true_of_eq_false hteam)
  unfold traceLost
  dsimp only
  rw [if_neg hm, hw]
  exact hteam'

include ht in
theorem traceFail_alone (hteam : inTeam s = false) (hm : mirrorTrace s ≠ some t) (hw : s.pair.wait = none) :
    traceFail t 11 0 s = selectRef (failing t 11 0 s) := by
  have hstate : traceState (failing t 11 0 s) t = 0 := (failing_shows ht s (by decide) (by decide)).1
  have hcomma : commaCheck t (failing t 11 0 s) = failing t 11 0 s := if_neg fun h => absurd (hstate.symm.trans h.1) (by decide)
  rw [traceFail_eq ht, hcomma, traceLost_alone]
  · rw [inTeam, fbit, failing_below s (by decide)]
    exact hteam
  · rw [mirrorTrace, fbit, failing_below s (by decide), failing_below s (by decide)]
    exact hm
  · rw [failing_pair, hw]

/-- A trace that a host takes to DOWN, before its lanes go off. -/
def stopNoted (t : Nat) (s : State) : State :=
  if traceUp s t then traceFail t 11 0 s
  else setTraceState t 0 (setFld Fld.TRACE_STATE_LAST_FAIL t 11 (setTrace t (closeEpoch 11 (fullMask s t) (traceOf s t)) s))

include ht in
theorem stopNoted_shows (h : traceUp s t = false ∨ (inTeam s = false ∧ mirrorTrace s ≠ some t ∧ s.pair.wait = none)) :
    traceState (stopNoted t s) t = 0 ∧ fld (stopNoted t s) Fld.TRACE_STATE_LAST_FAIL t = 11 := by
  unfold stopNoted
  split
  next hup =>
    obtain ⟨hteam, hm, hw⟩ := h.resolve_left (by simp [hup])
    obtain ⟨hstate, hlast, -⟩ := failing_shows ht (cause := 11) (next := 0) s (by decide) (by decide)
    rw [traceFail_alone ht s hteam hm hw]
    have hview := linksView_selectRef (t := t) (s := failing t 11 0 s)
    exact ⟨(fld_linksView hview (by decide)).trans hstate, (fld_linksView hview (by decide)).trans hlast⟩
  next =>
    exact ⟨fld_setFld _ _ _ _ (by decide) (by decide) (by decide),
      (fld_setFld_rows (by decide) ..).trans (fld_setFld _ _ _ _ (by decide) (by decide) (by decide))⟩

/-- A lane is switched off. -/
def laneOff (l : Nat) (s : State) : State := setRegWord (fieldAddr Fld.LANE_STATUS_SIGNAL l) 0 (setFld Fld.LANE_CFG_MODE l 0 s)

theorem fld_setRegWord_self {g : RegField} {a j : Nat} (h : fieldAddr g j = a) : fld (setRegWord a 0 s) g j = 0 := by
  rw [fld, h, regWord_setRegWord, bitsOf]
  exact (congrArg (· % 2 ^ (g.hi + 1 - g.lo)) (Nat.zero_shiftRight g.lo)).trans (Nat.zero_mod _)

theorem fld_setRegWord_apart {g : RegField} {a j : Nat} {w : Word32} (h : fieldAddr g j ≠ a) : fld (setRegWord a w s) g j = fld s g j := by
  rw [fld, fld, regWord_setRegWord_ne _ _ _ _ h]

theorem laneOff_shows (l : Nat) : fld (laneOff l s) Fld.LANE_CFG_MODE l = 0 ∧ fld (laneOff l s) Fld.LANE_STATUS_LOCKED l = 0 :=
  ⟨(fld_setRegWord_apart _ (by simp only [fieldAddr, strideOff, Fld.LANE_CFG_MODE, Fld.LANE_STATUS_SIGNAL]; omega)).trans
    (fld_setFld _ _ _ _ (by decide) (by decide) (by decide)), fld_setRegWord_self _ rfl⟩

theorem laneOff_other {l m : Nat} (h : l ≠ m) : fld (laneOff l s) Fld.LANE_CFG_MODE m = fld s Fld.LANE_CFG_MODE m ∧
    fld (laneOff l s) Fld.LANE_STATUS_LOCKED m = fld s Fld.LANE_STATUS_LOCKED m := by
  constructor
  · refine (fld_setRegWord_apart _ ?_).trans (fld_setFld_index (n := 16) (by decide) (Ne.symm h) ..)
    simp only [fieldAddr, strideOff, Fld.LANE_CFG_MODE, Fld.LANE_STATUS_SIGNAL]
    omega
  · refine (fld_setRegWord_apart _ ?_).trans (fld_setFld_rows (by decide) ..)
    simp only [fieldAddr, strideOff, Fld.LANE_STATUS_LOCKED, Fld.LANE_STATUS_SIGNAL]
    omega

/-- The rows of the traces stand above the lanes. -/
theorem laneOff_above {l : Nat} (hl : l < 80) {g : RegField} (hg : 0x21000 ≤ g.base) (j : Nat) : fld (laneOff l s) g j = fld s g j := by
  have haddr : 0x21000 ≤ fieldAddr g j := Nat.le_trans hg (Nat.le_add_right ..)
  refine (fld_setRegWord_apart _ ?_).trans (fld_setFld_below (Nat.le_of_lt hl) (Nat.lt_of_lt_of_le (by decide) hg) ..)
  simp only [fieldAddr, strideOff, Fld.LANE_STATUS_SIGNAL] at haddr ⊢
  omega

theorem nodup_traceLanes : (traceLanes s t).Nodup := nodup_range_add ..

/-- The job and the packets that wait for a trace. -/
theorem queueDrop_shows {a : State} : (traceOf (queueDrop t a) t).queue = [] ∧ (traceOf (queueDrop t a) t).job = (traceOf a t).job ∧ (queueDrop t a).regs = a.regs := by
  have hfree : ∀ (u e vc c : Nat) (b : State), ((traceOf (freeCredits u e vc c b) t).queue, (traceOf (freeCredits u e vc c b) t).job, (freeCredits u e vc c b).regs) =
      ((traceOf b t).queue, (traceOf b t).job, b.regs) := by
    intro u e vc c b
    unfold freeCredits
    dsimp only
    split
    · rfl
    · by_cases hu : t = u
      · subst hu
        rw [traceOf_setTrace]
        rfl
      · rw [traceOf_setTrace_ne _ _ _ _ hu]
        rfl
  have hkeep : ((traceOf (queueDrop t a) t).queue, (traceOf (queueDrop t a) t).job, (queueDrop t a).regs) = ([], (traceOf a t).job, a.regs) := by
    unfold queueDrop
    dsimp only
    rw [forEach_keeps (fun b => ((traceOf b t).queue, (traceOf b t).job, b.regs)) _ _ (fun p b => ?_), traceOf_setTrace]
    · rfl
    · split
      · exact hfree ..
      · rfl
  exact ⟨congrArg Prod.fst hkeep, congrArg (·.2.1) hkeep, congrArg (·.2.2) hkeep⟩

/-- A trace taken to DOWN, its lanes off, before its job ends. -/
def stopTaken (t : Nat) (s : State) : State :=
  let a := forEach (traceLanes s t) laneOff (stopNoted t s)
  selectRef (queueDrop t (setTrace t { traceOf a t with job := none } a))

theorem traceStop_eq : traceStop t s = stopTaken t s ∨ ∃ h, traceStop t s = endJob h 2 0x61 11 0 (stopTaken t s) := by
  unfold traceStop
  dsimp only
  split
  next h _ => exact .inr ⟨h, rfl⟩
  next => exact .inl rfl

include ht in
theorem stopTaken_shows (h : traceUp s t = false ∨ (inTeam s = false ∧ mirrorTrace s ≠ some t ∧ s.pair.wait = none)) :
    traceState (stopTaken t s) t = 0 ∧ fld (stopTaken t s) Fld.TRACE_STATE_LAST_FAIL t = 11 ∧ (traceOf (stopTaken t s) t).job = none ∧
      (traceOf (stopTaken t s) t).queue = [] ∧ ∀ l ∈ traceLanes s t, fld (stopTaken t s) Fld.LANE_CFG_MODE l = 0 ∧ fld (stopTaken t s) Fld.LANE_STATUS_LOCKED l = 0 := by
  obtain ⟨hstate, hlast⟩ := stopNoted_shows ht s h
  have hlt : ∀ l ∈ traceLanes s t, l < 80 := fun l hl => lt_of_mem_traceLanes ht hl
  obtain ⟨a, ha⟩ : ∃ a, a = forEach (traceLanes s t) laneOff (stopNoted t s) := ⟨_, rfl⟩
  have hkept : ∀ g : RegField, 0x21000 ≤ g.base → fld a g t = fld (stopNoted t s) g t := fun g hg => by
    rw [ha, forEach_keeps_mem (fld · g t) _ _ fun l hl b => laneOff_above b (hlt l hl) hg t]
  have hoff : ∀ l ∈ traceLanes s t, fld a Fld.LANE_CFG_MODE l = 0 ∧ fld a Fld.LANE_STATUS_LOCKED l = 0 := fun l hl => by
    obtain ⟨b, -, hb⟩ := forEach_once (fun b => (fld b Fld.LANE_CFG_MODE l, fld b Fld.LANE_STATUS_LOCKED l)) (nodup_traceLanes s) hl (f := laneOff)
      (fun m _ hm b => Prod.ext (laneOff_other b hm).1 (laneOff_other b hm).2) (stopNoted t s)
    rw [← ha] at hb
    exact ⟨(congrArg Prod.fst hb).trans (laneOff_shows b l).1, (congrArg Prod.snd hb).trans (laneOff_shows b l).2⟩
  obtain ⟨b, hb⟩ : ∃ b, b = queueDrop t (setTrace t { traceOf a t with job := none } a) := ⟨_, rfl⟩
  obtain ⟨hqueue, hjob, hregs⟩ := queueDrop_shows (t := t) (a := setTrace t { traceOf a t with job := none } a)
  rw [← hb] at hqueue hjob hregs
  rw [traceOf_setTrace] at hjob
  have hfld : ∀ g j, fld b g j = fld a g j := fld_congr hregs
  have hend : stopTaken t s = selectRef b := by rw [hb, ha, stopTaken]
  have hview := linksView_selectRef (t := t) (s := b)
  have hdown : traceState b t = 0 := ((hfld ..).trans (hkept _ (by decide))).trans hstate
  rw [← hend] at hview
  have htrace := trace_linksView hview (decide_eq_false (by omega))
  refine ⟨(fld_linksView hview (by decide)).trans hdown, (fld_linksView hview (by decide)).trans (((hfld ..).trans (hkept _ (by decide))).trans hlast),
    by rw [htrace, hjob], by rw [htrace, hqueue], fun l hl => ?_⟩
  exact ⟨(fld_linksView hview (by decide)).trans ((hfld ..).trans (hoff l hl).1), (fld_linksView hview (by decide)).trans ((hfld ..).trans (hoff l hl).2)⟩

include ht in
theorem traceStop_shows (h : traceUp s t = false ∨ (inTeam s = false ∧ mirrorTrace s ≠ some t ∧ s.pair.wait = none)) :
    traceState (traceStop t s) t = 0 ∧ fld (traceStop t s) Fld.TRACE_STATE_LAST_FAIL t = 11 ∧ (traceOf (traceStop t s) t).job = none ∧
      (traceOf (traceStop t s) t).queue = [] ∧ ∀ l ∈ traceLanes s t, fld (traceStop t s) Fld.LANE_CFG_MODE l = 0 ∧ fld (traceStop t s) Fld.LANE_STATUS_LOCKED l = 0 := by
  have hs := stopTaken_shows ht s h
  obtain he | ⟨j, he⟩ := traceStop_eq (t := t) s
  · rw [he]
    exact hs
  · obtain ⟨htr, hre⟩ := endJob_links j 2 0x61 11 0 (stopTaken t s)
    rw [he, traceState, fld_congr hre, fld_congr hre, traceOf_congr htr]
    simp only [fld_congr hre]
    exact hs

end Stop

end Sys2Proof.Machine

/-!
# Commands of lanes and traces: TRACE_UP, PRBS, Ethernet frames, audits
-/

namespace Sys2Proof.Machine

/-! ### TRACE_UP -/

section Start
variable (t w rate kind ok sfmt peer h : Nat) (s : State)

/-- The settings of a trace record shown. -/
def settingsShown : State :=
  setFld Fld.TRACE_LATENCY_NS t 0 (setFld Fld.TRACE_PEER_PEER t 0
    (setFld Fld.TRACE_CFG_WIDTH t (widthCode w) (setFld Fld.TRACE_CFG_KIND t kind (setFld Fld.TRACE_CFG_SFMT t sfmt
      (setFld Fld.TRACE_CFG_RATE t rate (setFld Fld.TRACE_CFG_RESTRIPE_OK t ok s))))))

/-- A lane joins a trace. -/
def laneJoined (i : Nat) (s : State) : State :=
  setFld Fld.LANE_STATUS_TRACE (t + i) t (setFld Fld.LANE_STATUS_TRACE_LANE (t + i) i
    (setFld Fld.LANE_CFG_MODE (t + i) 1 (setFld Fld.LANE_CFG_RATE (t + i) rate s)))

def lanesJoined (s : State) : State := forEach (List.range w) (laneJoined t rate) s

/-- The trace in COMMA, in a new epoch, with its job and the peer that it wants. -/
def commaBegun (s : State) : State :=
  setTraceState t 1 (showLanes t (2 ^ w - 1) (setTrace t { closeEpoch 0 (2 ^ w - 1) (traceOf s t) with job := some h, want := peer } s))

theorem traceStart_eq : traceStart t w rate kind ok sfmt peer h s = commaBegun t w peer h (lanesJoined t w rate (settingsShown t w rate kind ok sfmt s)) := (rfl)

theorem commaBegun_trace : (traceOf (commaBegun t w peer h s) t).job = some h ∧ (traceOf (commaBegun t w peer h s) t).want = peer ∧
    traceState (commaBegun t w peer h s) t = 1 := by
  unfold commaBegun showLanes
  refine ⟨?_, ?_, fld_setFld _ _ _ _ (by decide) (by decide) (by decide)⟩
  · rw [setTraceState, traceOf_setFld, traceOf_setFld, traceOf_setFld, traceOf_setTrace]
  · rw [setTraceState, traceOf_setFld, traceOf_setFld, traceOf_setFld, traceOf_setTrace]

variable {t}

theorem commaBegun_frame (ht : t < 64) {g : RegField} (hg : apartTo 80 Fld.TRACE_STATE_STATE g = true ∧ apartTo 80 Fld.TRACE_STATE_LANES g = true ∧
    apartTo 80 Fld.TRACE_STATE_LANE_MASK g = true) {j : Nat} (hj : j ≤ 80) : fld (commaBegun t w peer h s) g j = fld s g j := by
  have ht' : t ≤ 80 := by omega
  unfold commaBegun showLanes
  rw [setTraceState, fld_setFld_apartTo hg.1 ht' hj, fld_setFld_apartTo hg.2.1 ht' hj, fld_setFld_apartTo hg.2.2 ht' hj, fld_traceSet]

theorem laneJoined_shows (hr : rate < 8) (ht : t < 64) (i : Nat) : fld (laneJoined t rate i s) Fld.LANE_CFG_MODE (t + i) = 1 ∧
    fld (laneJoined t rate i s) Fld.LANE_CFG_RATE (t + i) = rate ∧ fld (laneJoined t rate i s) Fld.LANE_STATUS_TRACE (t + i) = t := by
  unfold laneJoined
  refine ⟨?_, ?_, fld_setFld _ _ _ _ (by decide) ht (by decide)⟩
  · rw [fld_setFld_rows (by decide), fld_setFld_rows (by decide), fld_setFld _ _ _ _ (by decide) (by decide) (by decide)]
  · rw [fld_setFld_rows (by decide), fld_setFld_rows (by decide), fld_setFld_rows (by decide), fld_setFld _ _ _ _ (by decide) hr (by decide)]

theorem laneJoined_other {g : RegField} (hg : apartNe 80 Fld.LANE_STATUS_TRACE g = true ∧ apartNe 80 Fld.LANE_STATUS_TRACE_LANE g = true ∧
    apartNe 80 Fld.LANE_CFG_MODE g = true ∧ apartNe 80 Fld.LANE_CFG_RATE g = true) {i j : Nat} (hi : t + i ≤ 80) (hj : j ≤ 80) (hne : j ≠ t + i) :
    fld (laneJoined t rate i s) g j = fld s g j := by
  obtain ⟨h1, h2, h3, h4⟩ := hg
  unfold laneJoined
  rw [fld_setFld_apartNe h1 hi hj hne, fld_setFld_apartNe h2 hi hj hne, fld_setFld_apartNe h3 hi hj hne, fld_setFld_apartNe h4 hi hj hne]

theorem laneJoined_above {g : RegField} (hg : 0x21000 ≤ g.base) {i : Nat} (hi : t + i ≤ 80) (j : Nat) : fld (laneJoined t rate i s) g j = fld s g j := by
  have hbelow : ∀ {f : RegField}, fieldAddr f 80 < 0x21000 → ∀ (v : Nat) (a : State), fld (setFld f (t + i) v a) g j = fld a g j :=
    fun hf v a => fld_setFld_below hi (Nat.lt_of_lt_of_le hf hg) j v a
  unfold laneJoined
  rw [hbelow (by decide), hbelow (by decide), hbelow (by decide), hbelow (by decide)]

variable (hw : t + w ≤ 64)
include hw

theorem lanesJoined_above {g : RegField} (hg : 0x21000 ≤ g.base) (j : Nat) : fld (lanesJoined t w rate s) g j = fld s g j :=
  forEach_keeps_mem (fld · g j) _ _ (fun i hi a => laneJoined_above rate a hg (by have := List.mem_range.mp hi; omega) j) s

theorem lanesJoined_lane (hr : rate < 8) {i : Nat} (hi : i < w) : fld (lanesJoined t w rate s) Fld.LANE_CFG_MODE (t + i) = 1 ∧
    fld (lanesJoined t w rate s) Fld.LANE_CFG_RATE (t + i) = rate ∧ fld (lanesJoined t w rate s) Fld.LANE_STATUS_TRACE (t + i) = t := by
  obtain ⟨b, -, hb⟩ := forEach_once (fun b => (fld b Fld.LANE_CFG_MODE (t + i), fld b Fld.LANE_CFG_RATE (t + i), fld b Fld.LANE_STATUS_TRACE (t + i)))
    List.nodup_range (List.mem_range.mpr hi) (f := laneJoined t rate) (fun k hk hne b => by
      have hk := List.mem_range.mp hk
      have other : ∀ {g : RegField}, apartNe 80 Fld.LANE_STATUS_TRACE g = true ∧ apartNe 80 Fld.LANE_STATUS_TRACE_LANE g = true ∧
          apartNe 80 Fld.LANE_CFG_MODE g = true ∧ apartNe 80 Fld.LANE_CFG_RATE g = true → fld (laneJoined t rate k b) g (t + i) = fld b g (t + i) :=
        fun hg => laneJoined_other rate b hg (by omega) (by omega) (by omega)
      exact Prod.ext (other (by decide)) (Prod.ext (other (by decide)) (other (by decide)))) s
  obtain ⟨hmode, hrate, htrace⟩ := laneJoined_shows rate b hr (by omega : t < 64) i
  exact ⟨(congrArg Prod.fst hb).trans hmode, (congrArg (·.2.1) hb).trans hrate, (congrArg (·.2.2) hb).trans htrace⟩

end Start

theorem settingsShown_shows {t w rate kind ok sfmt : Nat} (s : State) (hw : widthCode w < 4) (hr : rate < 8) (hk : kind < 4) (hok : ok < 2) (hs : sfmt < 4) :
    let y := settingsShown t w rate kind ok sfmt s
    fld y Fld.TRACE_CFG_WIDTH t = widthCode w ∧ fld y Fld.TRACE_CFG_KIND t = kind ∧ fld y Fld.TRACE_CFG_RATE t = rate ∧
      fld y Fld.TRACE_CFG_SFMT t = sfmt ∧ fld y Fld.TRACE_CFG_RESTRIPE_OK t = ok := by
  unfold settingsShown
  dsimp only
  simp (disch := decide) only [fld_setFld_rows]
  refine ⟨?_, ?_, ?_, ?_, ?_⟩
  · exact fld_setFld _ _ _ _ (by decide) hw (by decide)
  · exact fld_setFld _ _ _ _ (by decide) hk (by decide)
  · exact fld_setFld _ _ _ _ (by decide) hr (by decide)
  · exact fld_setFld _ _ _ _ (by decide) hs (by decide)
  · exact fld_setFld _ _ _ _ (by decide) hok (by decide)

theorem widthCode_two_pow {w : Nat} (hw : w = 1 ∨ w = 2 ∨ w = 4 ∨ w = 8) : 2 ^ widthCode w = w ∧ widthCode w < 4 ∧ w ≤ 8 := by
  obtain rfl | rfl | rfl | rfl := hw <;> decide

theorem lanes_end {t w : Nat} (ht : t ≤ 63) (hw : w = 1 ∨ w = 2 ∨ w = 4 ∨ w = 8) (hal : t % w = 0) : t + w ≤ 64 := by
  obtain rfl | rfl | rfl | rfl := hw <;> omega

theorem lanesJoined_jobs (t w rate : Nat) (s : State) : (lanesJoined t w rate s).jobs = s.jobs :=
  forEach_keeps State.jobs _ _ (fun i a => by rw [laneJoined, setFld_jobs, setFld_jobs, setFld_jobs, setFld_jobs]) s

theorem traceStart_jobs (t w rate kind ok sfmt peer h : Nat) (s : State) : (traceStart t w rate kind ok sfmt peer h s).jobs = s.jobs := by
  rw [traceStart_eq, commaBegun, setTraceState, showLanes, setFld_jobs, setFld_jobs, setFld_jobs, setTrace_jobs, lanesJoined_jobs, settingsShown]
  simp only [setFld_jobs]

section Clauses
variable {r : Req} {s : State}

theorem traceUpCmd_starts {h : Nat} (hs : Shape r 20 [1, 2, 3, 9, 10, 11, 18, 19]) (ht : pb r 0 ≤ 63) (hw : pb r 4 = 1 ∨ pb r 4 = 2 ∨ pb r 4 = 4 ∨ pb r 4 = 8)
    (hal : pb r 0 % pb r 4 = 0) (h5 : pb r 5 ≤ 6) (h6 : pb r 6 ≤ 2) (h7 : pb r 7 ≤ 1) (h8 : pb r 8 ≤ 2) (hfmt : pb r 6 = 1 ∨ pb r 8 = 0)
    (hpeer : rd r.payload 12 4 < 2 ^ 18 ∨ rd r.payload 12 4 = 0xFFFFFFFF) (hlow : 1 ≤ rd r.payload 16 2) (hhigh : rd r.payload 16 2 ≤ 10000)
    (hoff : ∀ i < pb r 4, fld s Fld.LANE_CFG_MODE (pb r 0 + i) = 0) (hr : JobRoom h s) : traceUpCmd r h s = jobRep h
      (traceStart (pb r 0) (pb r 4) (pb r 5) (pb r 6) (pb r 7) (pb r 8) (rd r.payload 12 4) h (jobAdded h r (.trace (pb r 0)) s)) := by
  have hfree : ((List.range (pb r 4)).map (fun i => pb r 0 + i)).find? (fun l => decide (fld s Fld.LANE_CFG_MODE l ≠ 0)) = none := by
    refine List.find?_eq_none.mpr fun l hl => ?_
    obtain ⟨i, hi, rfl⟩ := List.mem_map.mp hl
    simp [hoff i (List.mem_range.mp hi)]
  unfold traceUpCmd
  dsimp only
  rw [shaped_ok hs, need_true (decide_eq_true ht), need_true (decide_eq_true ⟨hw, hal⟩), need_true (decide_eq_true h5), need_true (decide_eq_true h6),
    need_true (decide_eq_true h7), need_true (decide_eq_true ⟨h8, hfmt⟩), need_true (decide_eq_true hpeer), need_true (decide_eq_true ⟨hlow, hhigh⟩), hfree]
  exact startJob_room hr ..

theorem traceStart_shows {t w rate kind ok sfmt : Nat} (peer h : Nat) (s : State) (ht : t ≤ 63) (hw : w = 1 ∨ w = 2 ∨ w = 4 ∨ w = 8) (hal : t % w = 0) (h5 : rate ≤ 6)
    (h6 : kind ≤ 2) (h7 : ok ≤ 1) (h8 : sfmt ≤ 2) : let y := traceStart t w rate kind ok sfmt peer h s
    traceState y t = 1 ∧ traceWidth y t = w ∧ fld y Fld.TRACE_CFG_KIND t = kind ∧ fld y Fld.TRACE_CFG_RATE t = rate ∧ fld y Fld.TRACE_CFG_SFMT t = sfmt ∧
      fld y Fld.TRACE_CFG_RESTRIPE_OK t = ok ∧ (traceOf y t).job = some h ∧ (traceOf y t).want = peer ∧
      ∀ i < w, fld y Fld.LANE_CFG_MODE (t + i) = 1 ∧ fld y Fld.LANE_CFG_RATE (t + i) = rate ∧ fld y Fld.LANE_STATUS_TRACE (t + i) = t := by
  obtain ⟨hpow, hcode, hw8⟩ := widthCode_two_pow hw
  have hend := lanes_end ht hw hal
  have ht' : t < 64 := by omega
  have hrate : rate < 8 := by omega
  dsimp only
  rw [traceStart_eq]
  obtain ⟨hwidth, hkind, hr, hfmt, hre⟩ := settingsShown_shows (t := t) s hcode hrate (kind := kind) (by omega) (ok := ok) (by omega) (sfmt := sfmt) (by omega)
  generalize settingsShown t w rate kind ok sfmt s = a at *
  obtain ⟨hjob, hwant, hstate⟩ := commaBegun_trace t w peer h (lanesJoined t w rate a)
  have habove : ∀ {g : RegField}, apartTo 80 Fld.TRACE_STATE_STATE g = true ∧ apartTo 80 Fld.TRACE_STATE_LANES g = true ∧
      apartTo 80 Fld.TRACE_STATE_LANE_MASK g = true ∧ 0x21000 ≤ g.base → fld (commaBegun t w peer h (lanesJoined t w rate a)) g t = fld a g t :=
    fun ⟨h1, h2, h3, hg⟩ => (commaBegun_frame w peer h _ ht' ⟨h1, h2, h3⟩ (by omega)).trans (lanesJoined_above w rate a hend hg t)
  refine ⟨hstate, ?_, (habove (by decide)).trans hkind, (habove (by decide)).trans hr, (habove (by decide)).trans hfmt, (habove (by decide)).trans hre, hjob,
    hwant, fun i hi => ?_⟩
  · rw [traceWidth, habove (by decide), hwidth, hpow]
  · obtain ⟨h1, h2, h3⟩ := lanesJoined_lane w rate a hend hrate hi
    have hlane : ∀ {g : RegField}, apartTo 80 Fld.TRACE_STATE_STATE g = true ∧ apartTo 80 Fld.TRACE_STATE_LANES g = true ∧
        apartTo 80 Fld.TRACE_STATE_LANE_MASK g = true → fld (commaBegun t w peer h (lanesJoined t w rate a)) g (t + i) = fld (lanesJoined t w rate a) g (t + i) :=
      fun hg => commaBegun_frame w peer h _ ht' hg (by omega)
    exact ⟨(hlane (by decide)).trans h1, (hlane (by decide)).trans h2, (hlane (by decide)).trans h3⟩

theorem traceDown_stops (hs : Shape r 4 [1, 2, 3]) (ht : pb r 0 ≤ 63) (hst : traceState s (pb r 0) ≠ 0)
    (hres : traceReserved s (pb r 0) = false) : traceDownCmd r (served s) = okRep [] (traceStop (pb r 0) (served s)) := by
  have hst' : traceState (served s) (pb r 0) ≠ 0 := hst
  have hres' : traceReserved (served s) (pb r 0) = false := hres
  unfold traceDownCmd
  dsimp only
  rw [shaped_ok hs, need_true (decide_eq_true ht), need_true (decide_eq_true hst'), hres']
  rfl

theorem linkStatus_answers (h : Served 0x804 r s) (hs : Shape r 4 [1, 2, 3]) (ht : pb r 0 ≤ 63) (hst : traceState s (pb r 0) ≠ 0) :
    exec (.linkStatus r) s = .next (answer r (ok (traceBytes (served s) (pb r 0))) (served s)) := by
  have hst' : traceState (served s) (pb r 0) ≠ 0 := hst
  refine exec_okRep rfl h ?_
  unfold linkStatus
  dsimp only
  rw [shaped_ok hs, need_true (decide_eq_true ht), need_true (decide_eq_true hst')]

/-! ### PRBS -/

theorem bitList_lane (l : Fin 64) : bitList 64 (2 ^ l.val) = [l.val] := by
  revert l; decide

theorem prbsRun_starts (l : Fin 64) (h : Served 0x802 r s) (hs : Shape r 12 [10, 11]) (hl : rd r.payload 0 8 = 2 ^ l.val) (hpat : pb r 8 ∈ [7, 15, 23, 31])
    (hm : pb r 9 ≤ 3) (hoff : fld s Fld.LANE_CFG_MODE l.val = 0 ∨ fld s Fld.LANE_CFG_MODE l.val = 4) : exec (.prbsRun r) s = .next (answer r (ok [])
      (setFld Fld.LANE_CFG_MODE l.val (if pb r 9 = 0 then 0 else 4) (setPrbs l.val ⟨pb r 8, testBit (pb r 9) 0, testBit (pb r 9) 1, false, 0, 0⟩ (served s)))) := by
  have hpat' : pb r 8 = 7 ∨ pb r 8 = 15 ∨ pb r 8 = 23 ∨ pb r 8 = 31 := by simpa only [List.mem_cons, List.not_mem_nil, or_false] using hpat
  have hfree : ¬ (1 ≤ fld (served s) Fld.LANE_CFG_MODE l.val ∧ fld (served s) Fld.LANE_CFG_MODE l.val ≤ 3) := by
    have hoff' : fld (served s) Fld.LANE_CFG_MODE l.val = 0 ∨ fld (served s) Fld.LANE_CFG_MODE l.val = 4 := hoff
    omega
  refine exec_okRep rfl h ?_
  unfold prbsRun
  dsimp only
  rw [shaped_ok hs, need_true (decide_eq_true hpat'), need_true (decide_eq_true hm), hl, bitList_lane, List.find?_cons_of_neg (by simpa using hfree), List.find?_nil]
  rfl

theorem prbsRead_counts (bits errors : Nat) (h : Served 0x803 r s) (hs : Shape r 4 [1, 2, 3]) (ht : pb r 0 ≤ 63) (hlock : (prbsOf s (pb r 0)).lock = true) :
    exec (.prbsRead r bits errors) s = .next (answer r (ok ([1, 0, 0, 0] ++ beBytes 8 (((prbsOf s (pb r 0)).bits + bits) % 2 ^ 64) ++
        beBytes 8 (((prbsOf s (pb r 0)).errors + errors) % 2 ^ 64)))
      (setPrbs (pb r 0) { prbsOf s (pb r 0) with bits := ((prbsOf s (pb r 0)).bits + bits) % 2 ^ 64, errors := ((prbsOf s (pb r 0)).errors + errors) % 2 ^ 64 } (served s))) := by
  have hp : prbsOf (served s) (pb r 0) = prbsOf s (pb r 0) := rfl
  refine exec_okRep rfl h ?_
  unfold prbsRead prbsCount
  dsimp only
  rw [shaped_ok hs, need_true (decide_eq_true ht), hp, if_pos hlock, setPrbs, prbsOf, smapGet_set_self, hlock]
  rfl

/-! ### Ethernet frames -/

section Frames
variable {lane now : Nat} {f : List Byte} (hm : fld s Fld.LANE_CFG_MODE lane = 2)
include hm

theorem ethFrameRx_unchecked : ethFrameRx lane f false now s = countFld Fld.LANE_ETH_FCS_ERR lane s :=
  (if_neg (not_not_intro hm)).trans (if_pos Bool.false_ne_true)

theorem ethFrameRx_short (h : f.length < 14) : ethFrameRx lane f true now s = countFld Fld.LANE_ETH_RX_DROP lane s :=
  (if_neg (not_not_intro hm)).trans ((if_neg (not_not_intro rfl)).trans (if_pos (.inl h)))

variable (hlow : 14 ≤ f.length) (hhigh : f.length ≤ 1518)
include hlow hhigh

theorem ethFrameRx_pause (h : rd f 12 2 = 0x8808) : ethFrameRx lane f true now s = s := by
  unfold ethFrameRx
  dsimp only
  rw [h, if_neg (not_not_intro hm), if_neg (not_not_intro rfl), if_neg (by omega)]
  simp only [show ¬ (0x8808 : Nat) = 0x8100 by decide, decide_false, Bool.false_eq_true, if_false, h, if_true]

theorem ethFrameRx_ptp (h : rd f 12 2 = 0x88F7) (hhoe : fld s Fld.NET_ETH_TYPE_ETH_TYPE ≠ 0x88F7) :
    ethFrameRx lane f true now s = { s with timeq := s.timeq ++ [⟨64 + lane, f.drop 14, now⟩] } := by
  unfold ethFrameRx
  dsimp only
  rw [h, if_neg (not_not_intro hm), if_neg (not_not_intro rfl), if_neg (by omega)]
  simp only [show ¬ (0x88F7 : Nat) = 0x8100 by decide, decide_false, Bool.false_eq_true, if_false, h]
  rw [if_neg (by decide), if_neg (Ne.symm hhoe), if_neg (fun c => absurd c.1 (by decide)), if_neg (fun c => absurd c.1 (by decide)), if_pos trivial]

theorem ethFrameRx_unknown (h : rd f 12 2 ∉ [0x8100, 0x8808, 0x0800, 0x0806, 0x88F7, fld s Fld.NET_ETH_TYPE_ETH_TYPE]) :
    ethFrameRx lane f true now s = countFld Fld.LANE_ETH_RX_DROP lane s := by
  simp only [List.mem_cons, List.not_mem_nil, or_false, not_or] at h
  obtain ⟨htag, hpause, hip, harp, hptp, hhoe⟩ := h
  unfold ethFrameRx
  dsimp only
  rw [if_neg (not_not_intro hm), if_neg (not_not_intro rfl), if_neg (by omega)]
  simp only [htag, decide_false, Bool.false_eq_true, if_false]
  rw [if_neg hpause, if_neg hhoe, if_neg (fun c => hip c.1), if_neg (fun c => harp c.1), if_neg hptp]
  rfl

end Frames

/-! ### Audits -/

/-- An audit at its end: its counts stand, before the streams and sessions are checked. -/
def auditTaken (m : SMap StreamCounts) (b : Nat) (s : State) : State := clrBit Fld.SLEDGER_STATUS_AUDIT_RUN 0
  { s with ledger := { s.ledger with aud := m, audFrame := b, pend := none }, seqAud := s.seqPend, seqAudFrame := b, seqPend := [] }

theorem auditStep_last {m : SMap StreamCounts} {b : Nat} (h : s.ledger.pend = some (m, b)) :
    auditStep true s = forEach s.seqPend (auditSession b) (forEach (smapKeys m) (auditStream b) (auditTaken m b s)) := by
  unfold auditStep
  dsimp only
  rw [h]
  dsimp only
  rw [h]
  rfl

theorem auditStream_balanced {m : SMap StreamCounts} {b k : Nat} (h : diffOf (streamOf m k) = 0) : auditStream b k (auditTaken m b s) = auditTaken m b s := if_pos h

theorem auditSession_balanced {b : Nat} {c : SeqCounts} (h : c.count % 2 ^ 32 = c.exec + c.gapLoss + c.empty + c.reset) : auditSession b c s = s := by
  refine if_pos ?_
  rw [h, Int.sub_self]

theorem auditStep_balanced {m : SMap StreamCounts} {b : Nat} (h : s.ledger.pend = some (m, b)) (hm : ∀ k ∈ smapKeys m, diffOf (streamOf m k) = 0)
    (hc : ∀ c ∈ s.seqPend, c.count % 2 ^ 32 = c.exec + c.gapLoss + c.empty + c.reset) : auditStep true s = auditTaken m b s := by
  rw [auditStep_last h, forEach_fixed fun k hk => auditStream_balanced (hm k hk), forEach_fixed fun c hmem => auditSession_balanced (hc c hmem)]

theorem fld_raisedAt (b code arg0 arg1 : Nat) (a : State) (g : RegField) (j : Nat) : fld (raiseAt b code arg0 arg1 a) g j = fld a g j := (rfl)

theorem raisedAt_evtWait (b code arg0 arg1 : Nat) (a : State) :
    (raiseAt b code arg0 arg1 a).evtWait = a.evtWait ++ [⟨code, b, arg0 % 2 ^ 32, arg1 % 2 ^ 32, none⟩] := (rfl)

theorem auditStream_found {b k : Nat} (h : diffOf (streamOf s.ledger.aud k) ≠ 0) : fld (auditStream b k s) Fld.SLEDGER_STATUS_UNACCOUNTED = 1 ∧
    ∃ d, (auditStream b k s).evtWait = s.evtWait ++ [⟨0x06, b, k % 2 ^ 32, d, none⟩] := by
  unfold auditStream
  dsimp only
  rw [if_neg h]
  rw [fld_raisedAt, setBit_eq, fld_setFld _ _ _ _ (by decide) (by decide) (by decide), raisedAt_evtWait, setFld_evtWait]
  exact ⟨rfl, _, rfl⟩

theorem auditStep_found {m : SMap StreamCounts} {b k : Nat} (h : s.ledger.pend = some (m, b)) (hk : smapKeys m = [k])
    (hc : s.seqPend = []) : auditStep true s = auditStream b k (auditTaken m b s) := by
  rw [auditStep_last h, hk, hc]
  rfl

theorem auditStep_starts (h : s.ledger.pend = none) : auditStep false s = setBit Fld.SLEDGER_STATUS_AUDIT_RUN 0
    { s with ledger := { s.ledger with pend := some (s.ledger.snap, s.ledger.snapFrame) }, seqPend := s.seqSnap } := by
  unfold auditStep
  dsimp only
  rw [h]
  rfl

theorem ledgerRead_credits (h : Served 0x502 r s) (hs : Shape r 4 [1]) (h0 : pb r 0 = 2) (hi : rd r.payload 2 2 < 256) :
    let v := vcOf (traceOf s (rd r.payload 2 2 / 4)) (rd r.payload 2 2 % 4)
    exec (.ledgerRead r) s = .next (answer r (ok (beBytes 8 s.frame ++ [vcSize (rd r.payload 2 2 % 4), v.limit, v.used, v.acked, v.accepted, v.freed,
      v.lost, v.uncorr, v.partner, v.audits].flatMap (beBytes 8))) (served s)) := by
  refine exec_okRep rfl h ?_
  unfold ledgerRead
  rw [shaped_ok hs, h0, need_true (by decide), ledgerCounts, if_pos hi]
  rfl

end Clauses

/-- Settles O46, a command, a frame or an audit step at a time. -/
theorem linkCommands : Obligations.LinkCommands := by
  unfold Obligations.LinkCommands
  intro r s
  refine ⟨fun h w hsv hs ht hw hw4 hal h5 h6 h7 h8 hfmt hpeer hlow hhigh hoff hr => ?_, fun hsv hs ht hst hres halone hal => ?_, linkStatus_answers, prbsRun_starts,
    fun l hm hc => congrArg _ (if_pos ⟨hm, hc⟩), prbsRead_counts, fun l f now hm => ⟨congrArg _ (ethFrameRx_unchecked hm), fun hlen => congrArg _ (ethFrameRx_short hm hlen),
      fun h1 h2 h3 => congrArg _ (ethFrameRx_pause hm h1 h2 h3), fun h1 h2 h3 h4 => congrArg _ (ethFrameRx_ptp hm h1 h2 h3 h4),
      fun h1 h2 h3 => congrArg _ (ethFrameRx_unknown hm h1 h2 h3)⟩, fun hp => ?_, fun m b hp hm hc => congrArg _ (auditStep_balanced hp hm hc),
    fun m b k hp hk hd hc => ?_, fun v hsv hs h0 hi hv => ?_⟩
  · subst hw
    have hr' : JobRoom h (served s) := hr
    obtain ⟨hstate, hwidth, hkind, hrate, hsfmt, hre, hjob, hwant, hlanes⟩ :=
      traceStart_shows (rd r.payload 12 4) h (jobAdded h r (.trace (pb r 0)) (served s)) ht hw4 hal h5 h6 h7 h8
    exact endsIn_jobRep rfl hsv (traceUpCmd_starts hs ht hw4 hal h5 h6 h7 h8 hfmt hpeer hlow hhigh hoff hr')
      ⟨hstate, hwidth, hkind, hrate, hsfmt, hre, hjob, hwant, traceStart_jobs .., hlanes⟩
  · exact endsIn_okRep rfl hsv (traceDown_stops hs ht hst hres) (traceStop_shows (by omega) (served s) halone)
  · exact endsIn_of rfl (auditStep_starts hp) ⟨rfl, rfl, fld_setFld _ _ _ _ (by decide) (by decide) (by decide), rfl, rfl⟩
  · obtain ⟨hun, hevt⟩ := auditStream_found (s := auditTaken m b s) (b := b) (k := k) hd
    exact endsIn_of rfl (auditStep_found hp hk hc) ⟨hun, hevt⟩
  · subst hv
    exact ledgerRead_credits hsv hs h0 hi

end Sys2Proof.Machine

/-!
# ANNOUNCE records, the route table and teams
-/

namespace Sys2Proof.Machine

/-! ### Records sent on traces -/

section Records
variable {s : State} {t u kind : Nat} {p : LinkPkt} {body : List Byte}

theorem mem_linkPut : p ∈ (traceOf (linkPut t p s) t).queue := by
  rw [linkPut, traceOf_setTrace]
  exact List.mem_append_right _ (List.mem_singleton_self _)

theorem mem_linkPut_of_mem {q : LinkPkt} (h : p ∈ (traceOf s t).queue) : p ∈ (traceOf (linkPut u q s) t).queue := by
  by_cases hu : t = u
  · subst hu
    rw [linkPut, traceOf_setTrace]
    exact List.mem_append_left _ h
  · rw [linkPut, traceOf_setTrace_ne _ _ _ _ hu]
    exact h

/-- Each trace of a list has the record that is sent on all of them. -/
theorem mem_sendRecords {l : List Nat} (h : t ∈ l) (s : State) : ⟨3, fld s Fld.TRACE_PEER_PEER t, ownEndpoint s, recordBytes kind body, none⟩ ∈
    (traceOf (forEach l (fun u s => sendRecordOn u kind body s) s) t).queue := by
  induction l generalizing s with
  | nil => cases h
  | cons u l ih =>
    obtain rfl | h := List.mem_cons.mp h
    · have hput : ⟨3, fld s Fld.TRACE_PEER_PEER t, ownEndpoint s, recordBytes kind body, none⟩ ∈ (traceOf (sendRecordOn t kind body s) t).queue := mem_linkPut
      exact forEach_inv (P := fun y : State => ⟨3, fld s Fld.TRACE_PEER_PEER t, ownEndpoint s, recordBytes kind body, none⟩ ∈ (traceOf y t).queue)
        (fun _ _ hy => mem_linkPut_of_mem hy) hput
    · exact ih h (sendRecordOn u kind body s)

theorem sendRecords_state (l : List Nat) (s : State) : (forEach l (fun u s => sendRecordOn u kind body s) s).mgmt = s.mgmt ∧
    (forEach l (fun u s => sendRecordOn u kind body s) s).routes = s.routes :=
  forEach_inv (P := fun y : State => y.mgmt = s.mgmt ∧ y.routes = s.routes) (fun _ _ h => h) ⟨rfl, rfl⟩

end Records

/-! ### The route table -/

theorem find_smapInsert {α : Type} (k : Nat) (v : α) (m : SMap α) : (smapInsert k v m).find? (fun p => decide (p.1 = k)) = some (k, v) := by
  induction m with
  | nil => exact List.find?_cons_of_pos (decide_eq_true rfl)
  | cons p m ih =>
    obtain ⟨j, w⟩ := p
    unfold smapInsert
    split
    · exact List.find?_cons_of_pos (decide_eq_true rfl)
    · split
      · exact List.find?_cons_of_pos (decide_eq_true rfl)
      next hne => rw [List.find?_cons_of_neg (by simpa using Ne.symm hne), ih]

theorem find_smapErase {α : Type} (k j : Nat) (m : SMap α) :
    (smapErase k m).find? (fun p => decide (p.1 = j)) = if j = k then none else m.find? (fun p => decide (p.1 = j)) := by
  rw [smapErase, List.find?_filter]
  split
  next h =>
    subst h
    exact List.find?_eq_none.mpr fun p _ => by simp
  next h =>
    refine congrArg (List.find? · m) (funext fun p => ?_)
    by_cases hp : p.1 = j
    · rw [hp]
      simp [h]
    · simp [hp]

section Announce
variable {s : State} {m : MgmtRec} {t : Nat}

/-- The record as it is taken from those that have arrived. -/
def recTaken (m : MgmtRec) (s : State) : State := { s with mgmt := s.mgmt.erase m }

theorem takeRec_arrived {kind : Nat} (h : s.mgmt.find? (fun m => decide (m.kind = kind)) = some m) :
    takeRec (fun r => decide (r.kind = kind)) s = some (m, recTaken m s) := by
  rw [takeRec, h]
  rfl

/-- The route that a first ANNOUNCE of a member makes. -/
def firstRoute (m : MgmtRec) (t : Nat) : Route :=
  ⟨rd m.body 4 4, [(t, rd m.body 8 1)], rd m.body 9 1, rd m.body 10 1, rd m.body 11 1, rd m.body 12 4, rd m.body 16 1⟩

/-- A presentation that differs from the own one is flagged. -/
def presNoted (m : MgmtRec) (s : State) : State :=
  if rd m.body 9 1 ≠ s.fs ∨ rd m.body 10 1 ≠ fld s Fld.HERD_CTRL_HERD_PRES then setBit Fld.HERD_STATUS_PRES_MISMATCH 0 s else s

def routeMade (m : MgmtRec) (t : Nat) (s : State) : State := showMembers { s with routes := smapInsert (rd m.body 0 4) (firstRoute m t) s.routes }

/-- The ANNOUNCE goes on to the other traces with one more hop, up to 32. -/
def announceOn (m : MgmtRec) (s : State) : State :=
  if 32 ≤ rd m.body 8 1 then s
  else forEach ((announceTraces s).filter (fun t => decide (m.trace ≠ some t)))
    (fun t s => sendRecordOn t 1 (m.body.take 8 ++ beBytes 1 (rd m.body 8 1 + 1) ++ m.body.drop 9) s) s

theorem announceOther_first (ht : m.trace = some t) (hr : routeOf s (rd m.body 0 4) = none) :
    announceOther m (rd m.body 0 4) s = teamJobCheck (teamUpdate (announceOn m (routeMade m t (presNoted m s)))) := by
  unfold announceOther announceOn
  rw [hr, ht]
  rfl

theorem announceRx_first (h : s.mgmt.find? (fun m => decide (m.kind = 1)) = some m) (hlen : m.body.length = 24) (ht : m.trace = some t)
    (hb : isBridge s t = false) (hherd : herdOf (rd m.body 0 4) = herdOf (ownEndpoint s)) (hown : rd m.body 0 4 ≠ ownEndpoint s)
    (hr : routeOf s (rd m.body 0 4) = none) :
    announceRx s = teamJobCheck (teamUpdate (announceOn m (routeMade m t (presNoted m (recTaken m s))))) := by
  have hown' : ownEndpoint (recTaken m s) = ownEndpoint s := rfl
  have hb' : isBridge (recTaken m s) t = false := hb
  unfold announceRx
  rw [takeRec_arrived h]
  dsimp only
  rw [hown', ht, Option.map_some, hb', if_neg (by simp [hlen, hherd]), if_neg hown]
  exact announceOther_first ht hr

/-- Registers other than HERD_STATUS. -/
theorem fieldAddr_ne_herdStatus {g : RegField} {j : Nat} (hg : j = 0 ∧ g.base ≠ 0x714 ∨ 0x714 < g.base) : fieldAddr g j ≠ 0x714 := by
  obtain ⟨rfl, hg⟩ | hg := hg
  · rw [fieldAddr_zero]
    exact hg
  · have : g.base ≤ fieldAddr g j := Nat.le_add_right ..
    omega

theorem presNoted_shows : (presNoted m s).mgmt = s.mgmt ∧ (presNoted m s).traces = s.traces ∧
    ∀ (g : RegField) (j : Nat), fieldAddr g j ≠ 0x714 → fld (presNoted m s) g j = fld s g j := by
  unfold presNoted
  split
  · exact ⟨setFld_mgmt .., setFld_traces .., fun g j hg => fld_setFld_other _ _ _ _ _ _ hg⟩
  · exact ⟨rfl, rfl, fun _ _ _ => rfl⟩

theorem firstTaken_shows : let y := routeMade m t (presNoted m (recTaken m s))
    y.mgmt = s.mgmt.erase m ∧ y.traces = s.traces ∧ ownEndpoint y = ownEndpoint s ∧ (∀ u, fld y Fld.TRACE_PEER_PEER u = fld s Fld.TRACE_PEER_PEER u) ∧
      announceTraces y = announceTraces s ∧ routeOf y (rd m.body 0 4) = some (firstRoute m t) := by
  obtain ⟨hmgmt, htraces, hregs⟩ := presNoted_shows (m := m) (s := recTaken m s)
  have hfld : ∀ {g : RegField} {j : Nat}, j = 0 ∧ g.base ≠ 0x714 ∨ 0x714 < g.base →
      fld (routeMade m t (presNoted m (recTaken m s))) g j = fld s g j := fun hg =>
    have hne := fieldAddr_ne_herdStatus hg
    (fld_setFld_other _ _ _ _ _ _ hne).trans (hregs _ _ hne)
  have hown : ownEndpoint (routeMade m t (presNoted m (recTaken m s))) = ownEndpoint s := hfld (.inl ⟨rfl, by decide⟩)
  refine ⟨hmgmt, htraces, hown, fun u => hfld (.inr (by decide)), ?_, ?_⟩
  · unfold announceTraces liveTraces
    rw [show (routeMade m t (presNoted m (recTaken m s))).traces = s.traces from htraces]
    have hstate : ∀ u, traceState (routeMade m t (presNoted m (recTaken m s))) u = traceState s u := fun u => hfld (.inr (by decide))
    have hbridge : ∀ u, isBridge (routeMade m t (presNoted m (recTaken m s))) u = isBridge s u := fun u => by
      rw [isBridge, isBridge, hown, hfld (.inr (by decide)), hfld (.inr (by decide))]
    simp only [traceUp, hstate, hbridge]
  · exact congrArg (Option.map Prod.snd) (find_smapInsert ..)

theorem announceOn_shows (a : State) : (announceOn m a).mgmt = a.mgmt ∧ (announceOn m a).routes = a.routes ∧
    (rd m.body 8 1 < 32 → ∀ u ∈ announceTraces a, m.trace ≠ some u → ⟨3, fld a Fld.TRACE_PEER_PEER u, ownEndpoint a,
      recordBytes 1 (m.body.take 8 ++ beBytes 1 (rd m.body 8 1 + 1) ++ m.body.drop 9), none⟩ ∈ (traceOf (announceOn m a) u).queue) := by
  unfold announceOn
  split
  next h => exact ⟨rfl, rfl, fun h' => absurd h (Nat.not_le.mpr h')⟩
  next => exact ⟨(sendRecords_state ..).1, (sendRecords_state ..).2,
      fun _ u hu hne => mem_sendRecords (List.mem_filter.mpr ⟨hu, decide_eq_true hne⟩) a⟩

theorem announceRx_own (h : s.mgmt.find? (fun m => decide (m.kind = 1)) = some m) (hlen : m.body.length = 24) (ht : m.trace = none)
    (hown : rd m.body 0 4 = ownEndpoint s) (hc : s.annCount < rd m.body 4 4) : announceRx s = setBit Fld.HERD_STATUS_DUP_ID 0 (recTaken m s) := by
  have hown' : ownEndpoint (recTaken m s) = ownEndpoint s := rfl
  have hc' : ¬ (1 ≤ rd m.body 4 4 ∧ rd m.body 4 4 ≤ (recTaken m s).annCount) := fun c => Nat.not_le.mpr hc c.2
  unfold announceRx
  rw [takeRec_arrived h]
  dsimp only
  rw [hown', ht, if_neg (by simp [hlen, hown]), if_pos hown, if_neg hc']

theorem announce_shows : (announce s).annCount = (s.annCount + 1) % 2 ^ 32 ∧ ∀ t ∈ announceTraces s, ⟨3, fld s Fld.TRACE_PEER_PEER t, ownEndpoint s,
    recordBytes 1 (announceBody s ((s.annCount + 1) % 2 ^ 32)), none⟩ ∈ (traceOf (announce s) t).queue :=
  ⟨forEach_inv (P := fun y : State => y.annCount = (s.annCount + 1) % 2 ^ 32) (fun _ _ h => h) rfl,
    fun _ ht => mem_sendRecords ht { s with annCount := (s.annCount + 1) % 2 ^ 32 }⟩

/-- A member taken from the route table, its loss raised where it concerns the own team or pair. -/
def memberGone (ep : Nat) (s : State) : State :=
  let s := showMembers { s with routes := smapErase ep s.routes }
  if s.team.contains ep || (decide (fld s Fld.SHADOW_PARTNER_ROLE ≠ 0) && decide (fld s Fld.SHADOW_PARTNER_PARTNER = ep)) then raise 0xB2 ep 0 s else s

theorem memberLoss_eq {ep : Nat} {x : Route} (h : routeOf s ep = some x) : memberLoss ep s = teamUpdate (memberGone ep s) := by
  unfold memberLoss
  rw [h]
  exact if_neg Bool.false_ne_true

theorem memberGone_shows (ep : Nat) : routeOf (memberGone ep s) ep = none ∧ (∀ e, e ≠ ep → routeOf (memberGone ep s) e = routeOf s e) ∧
    (ep ∈ s.team → (memberGone ep s).evtWait = s.evtWait ++ [⟨0xB2, s.frame, ep % 2 ^ 32, 0, none⟩]) := by
  have hroutes : (memberGone ep s).routes = smapErase ep s.routes := by
    unfold memberGone
    dsimp only
    split <;> rfl
  refine ⟨?_, fun e he => ?_, fun hmem => ?_⟩
  · rw [routeOf, hroutes, find_smapErase, if_pos rfl]
    rfl
  · rw [routeOf, hroutes, find_smapErase, if_neg he, routeOf]
  · have hin : (showMembers { s with routes := smapErase ep s.routes }).team.contains ep = true := List.contains_iff_mem.mpr hmem
    unfold memberGone
    dsimp only
    rw [hin, Bool.true_or, if_pos rfl, raised_evtWait]
    rfl

end Announce

/-! ### Teams -/

section Team
variable {r : Req} {s : State} {m : MgmtRec} {ids acked : List Nat} {j : JobRec}

/-- The list of a team, outside one. -/
def teamListed (ids : List Nat) (s : State) : State := { noTeam s with team := ids }

/-- In the team of a list, before the roles in it are fixed. -/
def teamJoined (ids : List Nat) (s : State) : State :=
  setFld Fld.TEAM_STATUS_REG_MEMBER 0 ((ids.findIdx? (fun e => decide (e = ownEndpoint s))).getD 0) (setFld Fld.TEAM_STATUS_REG_IN_TEAM 0 1 (teamListed ids s))

theorem teamJoined_own (ids : List Nat) (s : State) : ownEndpoint (teamJoined ids s) = ownEndpoint s := by
  have hout : fld (noTeam s) Fld.ENDPOINT_ID_ID = fld s Fld.ENDPOINT_ID_ID :=
    (fld_congr (b := setRegWord 0x700 (BitVec.ofNat 32 0xFF) (setRegWord 0x704 0 s)) rfl _ _).trans
      ((fld_setRegWord_apart _ (by decide)).trans (fld_setRegWord_apart s (by decide)))
  unfold teamJoined ownEndpoint
  rw [fld_setFld_under (by decide), fld_setFld_under (by decide), fld_congr (a := teamListed ids s) (b := noTeam s) rfl, hout]

theorem joinTeam_eq (ids : List Nat) (s : State) :
    joinTeam ids s = (ids.filter (fun e => decide (e ≠ ownEndpoint s))).foldl (fun y e => openOwn e y) (teamUpdate (teamJoined ids s)) := by
  show forEach (ids.filter (fun e => decide (e ≠ ownEndpoint (teamJoined ids s)))) openOwn (teamUpdate (teamJoined ids s)) = _
  rw [teamJoined_own]
  rfl

theorem teamJoined_shows (ids : List Nat) (s : State) : (teamJoined ids s).team = ids ∧ inTeam (teamJoined ids s) = true := by
  have hin : fld (teamJoined ids s) Fld.TEAM_STATUS_REG_IN_TEAM = 1 :=
    (fld_setFld_rows (by decide) ..).trans (fld_setFld _ _ _ _ (by decide) (by decide) (by decide))
  exact ⟨rfl, decide_eq_true (by rw [hin]; decide)⟩

theorem noTeam_shows (s : State) : (noTeam s).team = [] ∧ inTeam (noTeam s) = false := by
  have hin : fld (noTeam s) Fld.TEAM_STATUS_REG_IN_TEAM = 0 := by
    have hw : regWord (noTeam s) 0x700 = BitVec.ofNat 32 0xFF :=
      regWord_setRegWord (s := setRegWord 0x704 0 s) 0x700 (BitVec.ofNat 32 0xFF)
    rw [fld, show fieldAddr Fld.TEAM_STATUS_REG_IN_TEAM 0 = 0x700 by decide, hw]
    decide
  exact ⟨rfl, decide_eq_false (not_not_intro hin)⟩

theorem teamForm_starts {h : Nat} (h2 : 2 ≤ pb r 0) (h16 : pb r 0 ≤ 16) (hs : Shape r (4 + 4 * pb r 0) [1, 2, 3]) (hm : s.mode = .configure)
    (hids : ids = readIds (pb r 0) (r.payload.drop 4)) (hn : ids.Nodup) (hown : ownEndpoint s ∈ ids) (hherd : ∀ e ∈ ids, herdOf e = herdOf (ownEndpoint s))
    (hr : JobRoom h s) : teamForm r h s = jobRep h ((ids.filter (fun e => decide (e ≠ ownEndpoint s))).foldl (fun y e => sendRecord e 2 (teamBody ids) y)
      (joinTeam ids (jobAdded h r (.team ids []) s))) := by
  have hall : (decide (ids.Nodup ∧ ids.contains (ownEndpoint s)) && ids.all (fun e => decide (herdOf e = herdOf (ownEndpoint s)))) = true := by
    rw [Bool.and_eq_true, decide_eq_true_eq, List.all_eq_true]
    exact ⟨⟨hn, List.contains_iff_mem.mpr hown⟩, fun e he => decide_eq_true (hherd e he)⟩
  unfold teamForm
  dsimp only
  rw [if_neg (not_not_intro ⟨h2, h16⟩), shaped_ok hs, need_true (decide_eq_true hm), ← hids, need_true hall]
  exact startJob_room hr ..

theorem teamLeave_leaves (h : Served 0xB01 r s) (hp : r.payload = []) (hm : s.mode = .configure) :
    exec (.teamLeave r) s = .next (answer r (ok []) (leaveTeam (served s))) := by
  have hm' : (served s).mode = .configure := hm
  refine exec_okRep rfl h ?_
  unfold teamLeave
  rw [shaped_ok (shape_nil hp), need_true (decide_eq_true hm')]

theorem teamStatus_answers (h : Served 0xB04 r s) (hp : r.payload = []) : exec (.teamStatus r) s = .next (answer r (ok (teamBytes (served s))) (served s)) :=
  exec_okRep rfl h (shaped_ok (shape_nil hp))

/-- What a TEAM record is checked for (R358). -/
def TeamFits (m : MgmtRec) (s : State) : Prop :=
  (∃ x, routeOf s m.src = some x ∧ x.fs = s.fs) ∧ herdOf m.src = herdOf (ownEndpoint s) ∧ 2 ≤ rd m.body 0 1 ∧ rd m.body 0 1 ≤ 16 ∧
    m.body.length = 4 + 4 * rd m.body 0 1 ∧ ownEndpoint s ∈ readIds (rd m.body 0 1) (m.body.drop 4)

theorem teamRx_joins (h : s.mgmt.find? (fun m => decide (m.kind = 2)) = some m) (hf : TeamFits m s) (hm : s.mode = .configure) :
    teamRx s = sendRecord m.src 3 (beBytes 4 (ownEndpoint (joinTeam (readIds (rd m.body 0 1) (m.body.drop 4)) (recTaken m s))) ++ [0, 0, 0, 0])
      (joinTeam (readIds (rd m.body 0 1) (m.body.drop 4)) (recTaken m s)) := by
  obtain ⟨⟨x, hx, hfs⟩, hherd, h2, h16, hlen, hown⟩ := hf
  have hx' : routeOf (recTaken m s) m.src = some x := hx
  have hm' : ¬ (recTaken m s).mode ≠ .configure := not_not_intro hm
  have hok : 2 ≤ rd m.body 0 1 ∧ rd m.body 0 1 ≤ 16 ∧ m.body.length = 4 + 4 * rd m.body 0 1 ∧
      (readIds (rd m.body 0 1) (m.body.drop 4)).contains (ownEndpoint (recTaken m s)) = true ∧ decide (x.fs = (recTaken m s).fs) = true ∧
      herdOf m.src = herdOf (ownEndpoint (recTaken m s)) := ⟨h2, h16, hlen, List.contains_iff_mem.mpr hown, decide_eq_true hfs, hherd⟩
  unfold teamRx
  rw [takeRec_arrived h]
  dsimp only
  rw [hx']
  dsimp only
  rw [if_neg hm', if_pos hok, if_pos rfl, List.append_assoc]
  rfl

theorem teamRx_refuses (h : s.mgmt.find? (fun m => decide (m.kind = 2)) = some m) (hm : s.mode ≠ .configure) :
    teamRx s = sendRecord m.src 3 (beBytes 4 (ownEndpoint s) ++ [0, 0x23, 0, 0]) (recTaken m s) := by
  have hm' : (recTaken m s).mode ≠ .configure := hm
  unfold teamRx
  rw [takeRec_arrived h]
  dsimp only
  rw [if_pos hm', if_neg (by decide), List.append_assoc]
  rfl

section Job
variable (hj : teamJob s = some (j, ids, acked))
include hj

theorem teamAckRx_counts (h : s.mgmt.find? (fun m => decide (m.kind = 3)) = some m) (he : rd m.body 0 4 ∈ ids) (hok : rd m.body 4 2 = 0) :
    teamAckRx s = teamJobCheck (setJob { j with work := .team ids (rd m.body 0 4 :: acked.filter (fun x => decide (x ≠ rd m.body 0 4))) } (recTaken m s)) := by
  have hj' : teamJob (recTaken m s) = some (j, ids, acked) := hj
  unfold teamAckRx
  rw [takeRec_arrived h]
  dsimp only
  rw [hj']
  dsimp only
  rw [if_neg (not_not_intro (List.contains_iff_mem.mpr he)), if_neg (not_not_intro hok)]

theorem teamAckRx_ends (h : s.mgmt.find? (fun m => decide (m.kind = 3)) = some m) (he : rd m.body 0 4 ∈ ids) (hbad : rd m.body 4 2 ≠ 0) :
    teamAckRx s = leaveTeam (endJob j.handle 2 (rd m.body 4 2) 0 0 (recTaken m s)) := by
  have hj' : teamJob (recTaken m s) = some (j, ids, acked) := hj
  unfold teamAckRx
  rw [takeRec_arrived h]
  dsimp only
  rw [hj']
  dsimp only
  rw [if_neg (not_not_intro (List.contains_iff_mem.mpr he)), if_pos hbad]

theorem teamFormTimeout_ends {ep : Nat} (he : ep ∈ ids) (hown : ep ≠ ownEndpoint s) (hack : ep ∉ acked) :
    teamFormTimeout ep s = leaveTeam (endJob j.handle 2 0x31 ep 0 s) := by
  unfold teamFormTimeout
  rw [hj]
  exact if_pos ⟨List.contains_iff_mem.mpr he, hown, fun c => hack (List.contains_iff_mem.mp c)⟩

end Job

theorem streamListRx_keeps {t : Nat} (h : s.mgmt.find? (fun m => decide (m.kind = 5)) = some m) (ht : m.trace = some t) (h1 : rd m.body 8 2 = 1) :
    (streamListRx s).mgmt = s.mgmt.erase m ∧
      (traceOf (streamListRx s) t).streams = some (rd m.body 0 8, [(rd m.body 12 2, rd m.body 14 2, testBit (rd m.body 16 1) 0)]) := by
  unfold streamListRx
  rw [takeRec_arrived h]
  dsimp only
  rw [ht]
  dsimp only
  rw [h1]
  split
  · exact ⟨rfl, by rw [traceOf_setTrace]; rfl⟩
  · exact ⟨rfl, by rw [setBit, traceOf_setFld, traceOf_setTrace]; rfl⟩

end Team

/-- Settles O47, a record or a command at a time. -/
theorem herdsAndTeams : Obligations.HerdsAndTeams := by
  unfold Obligations.HerdsAndTeams
  intro r s
  refine ⟨fun m t h hlen ht hb hherd hown hr => ?_, fun m h hlen ht hown hc => congrArg _ (announceRx_own h hlen ht hown hc), endsIn_next rfl announce_shows,
    fun ep x hx => ?_, fun h ids hsv h2 h16 hs hm hids hn hown hherd hr => ?_, fun ids => ⟨teamJoined ids s, joinTeam_eq ids s, teamJoined_shows ids s⟩,
    fun hsv hp hm => ⟨teamLeave_leaves hsv hp hm, noTeam (served s), rfl, noTeam_shows (served s)⟩, teamStatus_answers,
    fun m x h hx hfs hherd h2 h16 hlen hown => ?_, fun m j ids acked h hj he => ⟨fun hok => congrArg _ (teamAckRx_counts hj h he hok),
      fun hbad => congrArg _ (teamAckRx_ends hj h he hbad)⟩, fun ep j ids acked hj he hown hack => congrArg _ (teamFormTimeout_ends hj he hown hack),
    fun m t h ht h1 => endsIn_next rfl (streamListRx_keeps h ht h1)⟩
  · obtain ⟨hmgmt, htraces, hep, hpeer, hann, hroute⟩ := firstTaken_shows (s := s) (m := m) (t := t)
    obtain ⟨hmgmt', hroutes, hqueue⟩ := announceOn_shows (m := m) (routeMade m t (presNoted m (recTaken m s)))
    refine endsIn_of rfl (announceRx_first h hlen ht hb hherd hown hr) ⟨_, rfl, hmgmt'.trans hmgmt, ?_, fun hhop u hu hne => ?_⟩
    · rw [routeOf, hroutes]
      exact hroute
    · have hmem := hqueue hhop u (hann ▸ hu) (fun c => hne (Option.some.inj (ht.symm.trans c)).symm)
      rw [hep, hpeer] at hmem
      exact hmem
  · exact endsIn_of rfl (memberLoss_eq hx) ⟨_, rfl, memberGone_shows ep⟩
  · have hr' : JobRoom h (served s) := hr
    have hm' : (served s).mode = .configure := hm
    exact exec_jobRep rfl hsv (teamForm_starts h2 h16 hs hm' hids hn hown hherd hr')
  · exact ⟨fun hm => congrArg _ (teamRx_joins h ⟨⟨x, hx, hfs⟩, hherd, h2, h16, hlen, hown⟩ hm), fun hm => congrArg _ (teamRx_refuses h hm)⟩

end Sys2Proof.Machine

/-!
# The PTP messages of a domain
-/

namespace Sys2Proof.Machine

/-! ### Messages taken -/

/-- The state from which the only time message that waited has been taken. -/
def timeTaken (s : State) : State := { s with timeq := [] }

section Taken
variable {s : State} {m : TimeMsg} {d k : Nat}

theorem ptpKnown_of (hk : k ∈ [0, 1, 2, 3, 8, 9, 10, 11]) (h : ptpIs k m = true) : ptpKnown m = true :=
  Bool.or_eq_true_iff.mpr (.inr (List.any_eq_true.mpr ⟨k, hk, h⟩))

/-- A message that waits alone goes to the one domain that takes it. -/
theorem ptpTake_alone (use : Nat → TimeMsg → State → State) (hk : k ∈ [0, 1, 2, 3, 8, 9, 10, 11]) (hq : s.timeq = [m]) (hm : ptpIs k m = true)
    (hd : ptpDoms s m = [d]) : ptpTake k use s = use d m (timeTaken s) := by
  have hfilter : s.timeq.filter ptpKnown = [m] := by rw [hq, List.filter_cons_of_pos (ptpKnown_of hk hm), List.filter_nil]
  have hd' : ∀ q, ptpDoms { s with timeq := q } m = [d] := fun _ => hd
  unfold ptpTake
  dsimp only
  rw [hfilter, List.find?_cons_of_pos hm]
  dsimp only
  rw [hd', List.erase_cons_head]
  rfl

variable (hmaster : fromMaster s d m = true)
include hmaster

theorem syncUse_waits (h2 : ptpTwoStep (ptpBody m) = true) : syncUse d m s =
    setPtpPort d m.port { portOfDom s d m.port with sync := some (ptpSeq (ptpBody m), stampIn s m, corrOf m) } s :=
  (if_neg (not_not_intro hmaster)).trans (if_pos h2)

theorem syncUse_measures (h2 : ptpTwoStep (ptpBody m) = false) : syncUse d m s =
    servoMeasure d m.port (stampRead (ptpBody m) 34 + corrOf m) (stampIn s m) (m.t * 65536 : Nat) s :=
  (if_neg (not_not_intro hmaster)).trans (if_neg (ne_true_of_eq_false h2))

theorem followUse_measures {r2 c : Int} (hx : (portOfDom s d m.port).sync = some (ptpSeq (ptpBody m), r2, c)) : followUse d m s =
    servoMeasure d m.port (stampRead (ptpBody m) 34 + c + corrOf m) r2 (m.t * 65536 : Nat)
      (setPtpPort d m.port { portOfDom s d m.port with sync := none } s) := by
  unfold followUse
  dsimp only
  rw [if_neg (not_not_intro hmaster), hx]
  exact if_neg (not_not_intro rfl)

theorem delayRespUse_measures {r3 t1 r2 : Int} (hown : ((ptpBody m).drop 44).take 10 = ownPortId s m.port)
    (hx : (portOfDom s d m.port).req = some (ptpSeq (ptpBody m), r3)) (hl : (domOf s d).last = some (t1, r2)) : delayRespUse d m s =
      servoMeasure d m.port t1 r2 (m.t * 65536 : Nat) (setDelay d m.port ((domAt (domOf s d) r2 - t1 +
        (stampRead (ptpBody m) 34 - corrOf m - domAt (domOf s d) r3)) / 2) s) := by
  unfold delayRespUse
  dsimp only
  rw [if_neg (not_or.mpr ⟨not_not_intro hmaster, not_not_intro hown⟩), hx, hl]
  exact if_neg (not_not_intro rfl)

end Taken

section Taken
variable {s : State} {m : TimeMsg} {d : Nat}

/-- What does not come from the master of a slave port has no effect. -/
theorem strangers_ignored (h : fromMaster s d m = false) : syncUse d m s = s ∧ followUse d m s = s ∧
    delayRespUse d m s = s := by
  have hno : ¬ fromMaster s d m = true := ne_true_of_eq_false h
  exact ⟨if_pos hno, if_pos hno, if_pos (.inl hno)⟩

theorem delayReqUse_answers (hst : (portOfDom s d m.port).st = 1) (hp : peerDelay s d m.port = false) : delayReqUse d m s =
    ptpSend d m.port (ptpMessage s d m.port 9 0 (corrOf m - domAt (domOf s d) (stampIn s m) % 65536) (ptpSeq (ptpBody m))
      (stampBytes (domAt (domOf s d) (stampIn s m)) ++ senderId (ptpBody m))) s :=
  if_neg (not_or.mpr ⟨not_not_intro hst, ne_true_of_eq_false hp⟩)

theorem peerDelay_trace {p : Nat} (h : p < 64) : peerDelay s d p = true := by rw [peerDelay, decide_eq_true h, Bool.true_or]

theorem ptpSendEvent_trace {p t : Nat} {b : List Byte} (h : p < 64) : ptpSendEvent d p b t s = ptpSend d p b s := if_pos h

theorem pdelayReqUse_answers (hp : m.port < 64) : pdelayReqUse d m s =
    ptpSend d m.port (ptpMessage s d m.port 3 0x0200 (corrOf m - domAt (domOf s d) (stampIn s m) % 65536) (ptpSeq (ptpBody m))
      (stampBytes (domAt (domOf s d) (stampIn s m)) ++ senderId (ptpBody m))) s := by
  unfold pdelayReqUse
  dsimp only
  rw [if_neg (not_not_intro (peerDelay_trace hp)), ptpSendEvent_trace hp]

section Peer
variable {r1 : Int} (hown : ((ptpBody m).drop 44).take 10 = ownPortId s m.port) (hx : (portOfDom s d m.port).req = some (ptpSeq (ptpBody m), r1))
include hown hx

theorem pdelayRespUse_waits (h2 : ptpTwoStep (ptpBody m) = true) : pdelayRespUse d m s = setPtpPort d m.port
    { portOfDom s d m.port with resp := some (ptpSeq (ptpBody m), stampRead (ptpBody m) 34, stampIn s m, corrOf m) } s := by
  unfold pdelayRespUse
  dsimp only
  rw [if_neg (not_not_intro hown), hx]
  exact (if_neg (not_not_intro rfl)).trans (if_pos h2)

theorem pdelayRespUse_whole (h2 : ptpTwoStep (ptpBody m) = false) : pdelayRespUse d m s =
    setDelay d m.port ((domAt (domOf s d) (stampIn s m) - domAt (domOf s d) r1 - corrOf m) / 2) s := by
  unfold pdelayRespUse
  dsimp only
  rw [if_neg (not_not_intro hown), hx]
  exact (if_neg (not_not_intro rfl)).trans (if_neg (ne_true_of_eq_false h2))

theorem pdelayFollowUse_whole {t2 r4 c : Int} (hr : (portOfDom s d m.port).resp = some (ptpSeq (ptpBody m), t2, r4, c)) : pdelayFollowUse d m s =
    setDelay d m.port ((domAt (domOf s d) r4 - domAt (domOf s d) r1 - (stampRead (ptpBody m) 34 - t2) - c - corrOf m) / 2) s := by
  unfold pdelayFollowUse
  dsimp only
  rw [hx, hr]
  exact if_neg (not_or.mpr ⟨not_not_intro rfl, not_or.mpr ⟨not_not_intro rfl, not_not_intro hown⟩⟩)

end Peer

theorem annUse_first (hlen : 64 ≤ (ptpBody m).length) (hsrc : (annOf (ptpBody m)).src ≠ clockIdentity s) (hsteps : (annOf (ptpBody m)).steps < 255)
    (hb : (portOfDom s d m.port).best = none) : annUse d m s =
      ptpDecide d 80 (setPtpPort d m.port { portOfDom s d m.port with best := some (annOf (ptpBody m)) } s) := by
  unfold annUse
  dsimp only
  rw [if_neg (not_or.mpr ⟨Nat.not_lt.mpr hlen, not_or.mpr ⟨hsrc, Nat.not_le.mpr hsteps⟩⟩), hb]
  rfl

end Taken

/-! ### The record of a port -/

section Port
variable {s : State} {d p : Nat}

theorem portOfDom_setPtpPort (x : PtpPort) : portOfDom (setPtpPort d p x s) d p = x := by
  rw [portOfDom, setPtpPort, domOf_setDom]
  exact smapGet_set_self ..

theorem setDom_frame (x : TimeDom) : (setDom d x s).regs = s.regs ∧ (setDom d x s).traces = s.traces ∧ (setDom d x s).sent = s.sent := by
  unfold setDom
  split <;> exact ⟨rfl, rfl, rfl⟩

theorem setPtpPort_frame (x : PtpPort) : (setPtpPort d p x s).regs = s.regs ∧ (setPtpPort d p x s).traces = s.traces ∧ (setPtpPort d p x s).sent = s.sent :=
  setDom_frame _

theorem portOfDom_congr {a b : State} (h : domOf a d = domOf b d) : portOfDom a d p = portOfDom b d p := by rw [portOfDom, portOfDom, h]

theorem portOfDom_setFld (f : RegField) (i v : Nat) (s : State) : portOfDom (setFld f i v s) d p = portOfDom s d p := (rfl)

theorem setDelay_delay (v : Int) : (portOfDom (setDelay d p v s) d p).delay = v := by
  unfold setDelay
  dsimp only
  split
  · rw [portOfDom_setFld, portOfDom_setPtpPort]
  · rw [portOfDom_setPtpPort]

theorem ptpMessage_congr {a b : State} (h : a.regs = b.regs) (type flags : Nat) (corr : Int) (seq : Nat) (body : List Byte) :
    ptpMessage a d p type flags corr seq body = ptpMessage b d p type flags corr seq body := by
  simp only [ptpMessage, domainNumber, clockIdentity, fld_congr h]

end Port

/-! ### Announce messages that stay away -/

section Timeout
variable {s : State} {d p : Nat} (hen : ptpEnabled s d p = true)
include hen

theorem annTimeout_listening (h : (portOfDom s d p).st = 0 ∨ (portOfDom s d p).st = 3) :
    annTimeout d p s = ptpDecide d p (setPtpPort d p { portOfDom s d p with best := none } s) := by
  have h1 : ¬ (portOfDom s d p).st = 1 := by omega
  have h2 : ¬ (portOfDom s d p).st = 2 := by omega
  unfold annTimeout
  dsimp only
  rw [if_neg (not_or.mpr ⟨not_not_intro hen, h1⟩), decide_eq_false h2, if_neg Bool.false_ne_true]

theorem annTimeout_slave (h : (portOfDom s d p).st = 2) :
    annTimeout d p s = ptpDecide d p (refBad (4 + d) (setPtpPort d p { portOfDom s d p with best := none } s)) := by
  have h1 : ¬ (portOfDom s d p).st = 1 := by omega
  unfold annTimeout
  dsimp only
  rw [if_neg (not_or.mpr ⟨not_not_intro hen, h1⟩), decide_eq_true h, if_pos rfl]

omit hen in
theorem annTimeout_master (h : (portOfDom s d p).st = 1) : annTimeout d p s = s := if_pos (.inr h)

end Timeout

/-! ### What ports send -/

section Send
variable {s : State} {d p : Nat} {b : List Byte}

theorem ptpSend_queue (h : p < 64) : (traceOf (ptpSend d p b s) p).queue =
    (traceOf s p).queue ++ [⟨2, fld s Fld.TRACE_PEER_PEER p, ownEndpoint s, [1, BitVec.ofNat 8 d, 0, 0] ++ b, none⟩] := by
  rw [ptpSend, if_pos h, linkPut, traceOf_setTrace]

theorem ptpSend_frame (q : Nat) : portOfDom (ptpSend d p b s) d q = portOfDom s d q ∧ (64 ≤ p → (ptpSend d p b s).sent = .ptp (p - 64) b :: s.sent) := by
  unfold ptpSend
  split
  next h => exact ⟨rfl, fun h' => absurd h (Nat.not_lt.mpr h')⟩
  next => exact ⟨rfl, fun _ => rfl⟩

theorem rd_firstByte (v : Nat) (rest : List Byte) : rd (beBytes 1 v ++ rest) 0 1 = v % 256 := by
  have hbyte : beBytes 1 v = [BitVec.ofNat 8 (v % 256)] := rfl
  rw [hbyte, rd, List.drop_zero, List.singleton_append, List.take_succ_cons, List.take_zero, beNat, List.foldl_cons, List.foldl_nil, BitVec.toNat_ofNat]
  omega

theorem ptpType_message (a : State) (type flags : Nat) (corr : Int) (seq : Nat) (body : List Byte) :
    ptpType (ptpMessage a d p type flags corr seq body) = type % 256 % 16 := by
  unfold ptpType ptpMessage
  simp only [List.append_assoc]
  rw [rd_firstByte]

theorem ptpFollow_frame (r : Int) (q : Nat) : portOfDom (ptpFollow d p b r s) d q = portOfDom s d q := by
  unfold ptpFollow
  dsimp only
  split
  · exact (ptpSend_frame q).1
  · split
    · exact (ptpSend_frame q).1
    · rfl

/-- What an event message leaves of the port's record: its own request takes its stamp. -/
theorem ptpSendEvent_record (t : Nat) : ∃ req, portOfDom (ptpSendEvent d p b t s) d p = { portOfDom s d p with req := req } := by
  have hs : portOfDom (ptpSend d p b s) d p = portOfDom s d p := (ptpSend_frame p).1
  unfold ptpSendEvent
  dsimp only
  split
  · exact ⟨(portOfDom s d p).req, hs⟩
  · rw [ptpFollow_frame, ptpOut]
    split
    · rw [portOfDom_setPtpPort, hs]
      exact ⟨_, rfl⟩
    · exact ⟨(portOfDom s d p).req, hs⟩

/-- A delay request has no follow-up: one message is sent. -/
theorem ptpSendEvent_request {t : Nat} (hb : ptpType b = 1 ∨ ptpType b = 2) (h : 64 ≤ p) : (ptpSendEvent d p b t s).sent = .ptp (p - 64) b :: s.sent := by
  have h0 : ¬ ptpType b = 0 := by omega
  have h3 : ¬ ptpType b = 3 := by omega
  unfold ptpSendEvent
  dsimp only
  rw [if_neg (Nat.not_lt.mpr h), ptpFollow, if_neg h0, if_neg h3, ptpOut, if_pos hb, (setPtpPort_frame _).2.2]
  exact (ptpSend_frame p).2 h

variable (hen : ptpEnabled s d p = true)
include hen

/-- The Sync that a master port sends, with its number. -/
theorem syncInterval_sends {t : Nat} (hst : (portOfDom s d p).st = 1) (hm : s.mode ≠ .configure) : ∃ n a, n = ((portOfDom s d p).seqSync + 1) % 65536 ∧
    a = ptpSendEvent d p (ptpMessage s d p 0 0x0200 0 n (List.replicate 10 0)) t (setPtpPort d p { portOfDom s d p with seqSync := n } s) ∧
    (syncInterval d p t s = a ∨ ∃ body, syncInterval d p t s = linkPut p body a) := by
  have hroot : rootAdopt d (t * 65536 : Nat) s = s := by
    refine if_neg fun c => ?_
    have := c.1
    rw [mayAdopt, decide_eq_false hm] at this
    exact Bool.false_ne_true (by simp at this)
  refine ⟨_, _, rfl, rfl, ?_⟩
  unfold syncInterval
  dsimp only
  rw [hroot, if_neg (not_or.mpr ⟨not_not_intro hen, not_not_intro hst⟩), ptpMessage_congr (b := s) (setPtpPort_frame _).1]
  split
  · exact .inr ⟨_, rfl⟩
  · exact .inl rfl

theorem syncInterval_shows {t : Nat} (hst : (portOfDom s d p).st = 1) (hm : s.mode ≠ .configure) :
    (portOfDom (syncInterval d p t s) d p).seqSync = ((portOfDom s d p).seqSync + 1) % 65536 ∧
    (p < 64 → ∃ more, (traceOf (syncInterval d p t s) p).queue = (traceOf s p).queue ++
      ⟨2, fld s Fld.TRACE_PEER_PEER p, ownEndpoint s, [1, BitVec.ofNat 8 d, 0, 0] ++
        ptpMessage s d p 0 0x0200 0 (((portOfDom s d p).seqSync + 1) % 65536) (List.replicate 10 0), none⟩ :: more) := by
  obtain ⟨n, a, rfl, ha, hend⟩ := syncInterval_sends hen (t := t) hst hm
  obtain ⟨hregs, htraces, -⟩ := setPtpPort_frame (s := s) (d := d) (p := p)
    { portOfDom s d p with seqSync := ((portOfDom s d p).seqSync + 1) % 65536 }
  have hseq : (portOfDom a d p).seqSync = ((portOfDom s d p).seqSync + 1) % 65536 := by
    obtain ⟨req, hreq⟩ := ptpSendEvent_record (d := d) (p := p) (b := ptpMessage s d p 0 0x0200 0 (((portOfDom s d p).seqSync + 1) % 65536) (List.replicate 10 0))
      (s := setPtpPort d p { portOfDom s d p with seqSync := ((portOfDom s d p).seqSync + 1) % 65536 } s) t
    rw [ha, hreq, portOfDom_setPtpPort]
  have hqueue : p < 64 → (traceOf a p).queue = (traceOf s p).queue ++ [⟨2, fld s Fld.TRACE_PEER_PEER p, ownEndpoint s, [1, BitVec.ofNat 8 d, 0, 0] ++
      ptpMessage s d p 0 0x0200 0 (((portOfDom s d p).seqSync + 1) % 65536) (List.replicate 10 0), none⟩] := fun hp => by
    rw [ha, ptpSendEvent_trace hp, ptpSend_queue hp, traceOf_congr htraces, fld_congr hregs, ownEndpoint, ownEndpoint, fld_congr hregs]
  obtain he | ⟨body, he⟩ := hend
  · rw [he]
    exact ⟨hseq, fun hp => ⟨[], hqueue hp⟩⟩
  · rw [he]
    refine ⟨(congrArg PtpPort.seqSync (portOfDom_congr rfl)).trans hseq, fun hp => ⟨[body], ?_⟩⟩
    rw [linkPut, traceOf_setTrace, hqueue hp, List.append_assoc]
    rfl

theorem annInterval_shows (hst : (portOfDom s d p).st = 1) : (portOfDom (annInterval d p s) d p).seqAnn = ((portOfDom s d p).seqAnn + 1) % 65536 ∧
    (p < 64 → (traceOf (annInterval d p s) p).queue.length = (traceOf s p).queue.length + 1) ∧
    (64 ≤ p → (annInterval d p s).sent.length = s.sent.length + 1) := by
  obtain ⟨-, htraces, hsent⟩ := setPtpPort_frame (s := s) (d := d) (p := p) { portOfDom s d p with seqAnn := ((portOfDom s d p).seqAnn + 1) % 65536 }
  unfold annInterval
  dsimp only
  rw [if_neg (not_or.mpr ⟨not_not_intro hen, not_not_intro hst⟩)]
  refine ⟨?_, fun hp => ?_, fun hp => ?_⟩
  · rw [(ptpSend_frame p).1, portOfDom_setPtpPort]
  · rw [ptpSend_queue hp, traceOf_congr htraces, List.length_append, List.length_singleton]
  · rw [(ptpSend_frame p).2 hp, hsent, List.length_cons]

theorem delayInterval_shows (t : Nat) (h : (portOfDom s d p).st = 2 ∨ peerDelay s d p = true) :
    (portOfDom (delayInterval d p t s) d p).seqReq = ((portOfDom s d p).seqReq + 1) % 65536 ∧
    (p < 64 → (traceOf (delayInterval d p t s) p).queue.length = (traceOf s p).queue.length + 1) ∧
    (64 ≤ p → (delayInterval d p t s).sent.length = s.sent.length + 1) := by
  obtain ⟨-, htraces, hsent⟩ := setPtpPort_frame (s := s) (d := d) (p := p) { portOfDom s d p with seqReq := ((portOfDom s d p).seqReq + 1) % 65536 }
  have hgo : ¬ (¬ ptpEnabled s d p = true ∨ (¬ peerDelay s d p = true ∧ (portOfDom s d p).st ≠ 2)) :=
    not_or.mpr ⟨not_not_intro hen, fun c => h.elim c.2 c.1⟩
  unfold delayInterval
  dsimp only
  rw [if_neg hgo]
  refine ⟨?_, fun hp => ?_, fun hp => ?_⟩
  · obtain ⟨req, hreq⟩ := ptpSendEvent_record (d := d) (p := p)
      (b := ptpMessage (setPtpPort d p { portOfDom s d p with seqReq := ((portOfDom s d p).seqReq + 1) % 65536 } s) d p (if peerDelay s d p then 2 else 1) 0 0
        (((portOfDom s d p).seqReq + 1) % 65536) (List.replicate (if peerDelay s d p then 20 else 10) 0))
      (s := setPtpPort d p { portOfDom s d p with seqReq := ((portOfDom s d p).seqReq + 1) % 65536 } s) t
    rw [hreq, portOfDom_setPtpPort]
  · rw [ptpSendEvent_trace hp, ptpSend_queue hp, traceOf_congr htraces, List.length_append, List.length_singleton]
  · rw [ptpSendEvent_request ?_ hp, hsent, List.length_cons]
    rw [ptpType_message]
    split
    · exact .inr rfl
    · exact .inl rfl

end Send

/-- Settles O49, a message or an interval at a time. -/
theorem timeMessages : Obligations.TimeMessages := by
  unfold Obligations.TimeMessages
  intro m d s
  have take : ∀ {k : Nat} {i : Instr} {use : Nat → TimeMsg → State → State} {t : State}, k ∈ [0, 1, 2, 3, 8, 9, 10, 11] → exec i s = .next (ptpTake k use s) →
      use d.val m (timeTaken s) = t → s.timeq = [m] → ptpIs k m = true → ptpDoms s m = [d.val] → exec i s = .next t := fun hk hx hu hq hm hd =>
    hx.trans (congrArg _ ((ptpTake_alone _ hk hq hm hd).trans hu))
  refine ⟨fun hmaster => ⟨fun h2 => take (by decide) rfl (syncUse_waits (s := timeTaken s) hmaster h2), fun h2 => take (by decide) rfl (syncUse_measures (s := timeTaken s) hmaster h2),
      fun r2 c hx => take (by decide) rfl (followUse_measures (s := timeTaken s) hmaster hx),
      fun r3 t1 r2 hown hx hl => take (by decide) rfl (delayRespUse_measures (s := timeTaken s) hmaster hown hx hl)⟩, fun hno => ?_,
    fun hst hp => take (by decide) rfl (delayReqUse_answers (s := timeTaken s) hst hp), fun hp => take (by decide) rfl (pdelayReqUse_answers (s := timeTaken s) hp), fun r1 hown hx =>
      ⟨fun h2 => take (by decide) rfl (pdelayRespUse_waits (s := timeTaken s) hown hx h2), fun h2 => take (by decide) rfl (pdelayRespUse_whole (s := timeTaken s) hown hx h2),
        fun t2 r4 c hr => take (by decide) rfl (pdelayFollowUse_whole (s := timeTaken s) hown hx hr)⟩,
    fun q v => setDelay_delay v, fun hlen hsrc hsteps hb => take (by decide) rfl (annUse_first (s := timeTaken s) hlen hsrc hsteps hb), fun q hen => ?_⟩
  · obtain ⟨hsync, hfollow, hdelay⟩ := strangers_ignored (s := timeTaken s) hno
    exact ⟨take (by decide) rfl hsync, take (by decide) rfl hfollow, take (by decide) rfl hdelay⟩
  · exact ⟨fun h => congrArg _ (annTimeout_listening hen h), fun h => congrArg _ (annTimeout_slave hen h), fun h => congrArg _ (annTimeout_master h),
      fun raw hst hm => endsIn_next rfl (syncInterval_shows hen hst hm), fun hst => endsIn_next rfl (annInterval_shows hen hst),
      fun raw h => endsIn_next rfl (delayInterval_shows hen raw h)⟩

end Sys2Proof.Machine
